-- ==== Sys2Proof/Word.lean ====
section
/-! DEFINITION. The words of the model: bytes, byte memories and sparse tables. -/

namespace Sys2Proof

/-- A byte of any of the device's memories. -/
abbrev Byte := BitVec 8

/-- A sparse table: entries with strictly rising keys, none of them equal to the table's default value. -/
abbrev Tbl (α : Type) := List (Nat × α)

/-- A byte memory: the table of the bytes that are not 0. -/
abbrev Mem := List Host.Cell

end Sys2Proof
end

