-- ==== Sys2Proof/Syntax.lean ====
section
/-! DEFINITION. The commands of the block: one constructor of `Instr` per row of the table, with its operands. -/

namespace Sys2Proof

/-- A crossing between clock islands (01 R27, 22 R563): into or out of a core, between two mesh regions of a die or over the die bridge,
between a mesh region and an HBM controller, the IOD bridge of a die, the IOD fabric and one of its blocks. -/
inductive Crossing where
  | core (c : Nat)
  | mesh (a b : Nat)
  | hbm (stack : Nat)
  | iodBridge (die : Nat)
  | iodBlock (block : Nat)
  deriving DecidableEq, Repr

/-- How a memory transaction lands (12 R319, R321, R328, 19 R498): the outcome that the memory and the crossing report. -/
inductive Landing where
  | ok
  /-- A single-bit error was corrected on the way (R498). -/
  | corrected
  /-- An uncorrectable HBM error in the data read (R328). -/
  | hbmError (bank row : Nat)
  /-- An uncorrectable error in a scratchpad segment (R328). -/
  | scratchError (segment : Nat)
  /-- The transaction missed its pinned time (R321). -/
  | late
  /-- The transfer arrived after its release at a crossing (14 R373). -/
  | crossing (k : Crossing)
  /-- No core's transaction: a transfer that an IOD block makes for a job has arrived after its release at a crossing (12 R319, R321). -/
  | iodLate (k : Crossing) (job stream page : Nat)
  /-- No core's transaction: a read of a partition page that an IOD block makes for a job, a soft buffer or a payload, meets an uncorrectable
  HBM error (09 R242). -/
  | iodHbmError (job page bank row : Nat)
  deriving DecidableEq, Repr

/-- Execution units of a core that hold issued steps (02 R57). -/
inductive Unit_ where
  | array (i : Nat)
  | vector
  | signal
  | mover
  deriving DecidableEq, Repr

/-- Whether an array's self-checks hold during a step (03 R93). -/
inductive ArrayCheck where
  | ok
  | mismatch
  deriving DecidableEq, Repr

/-- An INGEST station that receives frames (08 R188): that of a started cell, or a station of a job that host software loaded. -/
inductive IngRef where
  | cell (index : Nat)
  | station (job station : Nat)
  deriving DecidableEq, Repr

/-- A PTRS port of a PUSCH PDU (09 R240): the DMRS port that it goes with, and PTRSReOffset. -/
structure Ptrs where
  port : Nat
  reOffset : Nat
  deriving DecidableEq, Repr

/-- A PUSCH PDU of an UL_TTI.request: the fields of 09 R240 that the device reads, resource blocks as the carrier numbers
them. -/
structure PuschPdu where
  bitmap : Nat
  rnti : Nat
  handle : Nat
  scs : Nat
  extendedCp : Bool
  qm : Nat
  dftS : Bool
  codeRate : Nat
  tbBits : Nat
  scramblingId : Nat
  layers : Nat
  dmrsType2 : Bool
  rbs : List Nat
  interleaved : Bool
  hopping : Nat
  symStart : Nat
  symCount : Nat
  rv : Nat
  harq : Nat
  newData : Bool
  numCb : Nat
  /-- DMRS ports of the layers in order, SCID, DMRS symbols by bit, the identities and parameters of the sequences (08 R201). -/
  dmrsPorts : List Nat
  scid : Nat
  dmrsSymbols : Nat
  dmrsScramblingId : Nat
  puschIdentity : Nat
  cdmGroupsNoData : Nat
  lowPaprGroup : Nat
  lowPaprSequence : Nat
  ptrs : List Ptrs
  /-- Time density L and frequency density K of the PTRS (08 R181). -/
  ptrsTime : Nat
  ptrsFreq : Nat
  lbrm : Bool
  deriving DecidableEq, Repr

/-- Preamble formats (08 R181). -/
inductive PrachFormat where
  | f0 | f1 | f2 | f3 | a1 | a2 | a3 | b1 | b2 | b3 | b4 | c0 | c2
  deriving DecidableEq, Repr

/-- Formats whose sequence length is 839; that of the others is 139 (08 R194). -/
def PrachFormat.long : PrachFormat → Bool
  | .f0 | .f1 | .f2 | .f3 => true
  | .a1 | .a2 | .a3 | .b1 | .b2 | .b3 | .b4 | .c0 | .c2 => false

/-- Formats that the chain supports (08 R181). -/
def PrachFormat.supported : PrachFormat → Bool
  | .f0 | .a1 | .a2 | .a3 | .b4 | .c2 => true
  | .f1 | .f2 | .f3 | .b1 | .b2 | .b3 | .c0 => false

/-- A PDU of an UL_TTI.request (09 R239). -/
inductive UlPdu where
  /-- Preamble repetitions, first symbol, format (08 R181, R194). -/
  | prach (reps start : Nat) (format : PrachFormat)
  | pusch (p : PuschPdu)
  /-- PUCCH: handle, RNTI, format, payload bits. -/
  | pucch (handle rnti format bits : Nat)
  /-- SRS: handle, RNTI, ports, comb, symbols. -/
  | srs (handle rnti ports comb symbols : Nat)
  /-- Any other PDU type. -/
  | other (type : Nat)
  deriving DecidableEq, Repr

/-- A PDU of a DL_TTI.request or an UL_DCI.request (09 R232, R239): TYPE 0 PDCCH, 1 PDSCH, 2 CSI-RS, 3 SSB. -/
structure DlPdu where
  type : Nat
  index : Nat
  rnti : Nat
  codewords : Nat
  layers : Nat
  qm : Nat
  tbBits : Nat
  codeRate : Nat
  /-- Aggregation level of a PDCCH; numerology of an SSB. -/
  level : Nat
  pmi : Nat
  rbs : List Nat
  symStart : Nat
  symCount : Nat
  /-- The PDU's beam, when it gives one (09 R235). -/
  beam : Option Nat
  /-- Power offset Δ in 1/1,000 dB (09 R233). -/
  power : Int
  deriving DecidableEq, Repr

/-- A PDU of a TX_DATA.request (09 R239): its TLV tag, payload (tag 0) or address in the transmit region (tag 1), bytes. -/
structure TxEntry where
  index : Nat
  tag : Nat
  payload : List Byte
  address : Nat
  length : Nat
  deriving DecidableEq, Repr

/-- A FAPI message from layer 2 (09 R239). -/
inductive Fapi where
  | ulTti (sfn slot : Nat) (pdus : List UlPdu)
  | dlTti (sfn slot : Nat) (pdus : List DlPdu)
  | ulDci (sfn slot : Nat) (pdus : List DlPdu)
  | txData (sfn slot : Nat) (entries : List TxEntry)
  | other (id : Nat)
  deriving DecidableEq, Repr

/-- What the learned receiver gave for a PUSCH PDU: its LLR codes in the order of 08 R212, and how many were clamped. Its weights are data,
and its network is the image's (08 R180; log 101). -/
structure LearnedLlr where
  pdu : Nat
  codes : List Int
  clamped : Nat
  deriving DecidableEq, Repr

/-- A detection that the classical path made (08 "Supported features"): the message that reports it and its content. -/
inductive Detection where
  /-- PUCCH formats 0 and 1: handle, RNTI, and the detected bits. -/
  | uci (handle rnti : Nat) (bits : List Nat)
  /-- SRS: handle, RNTI, wideband SNR, timing advance. -/
  | srs (handle rnti snr ta : Nat)
  /-- PRACH: preamble index, timing advance, power. -/
  | rach (preamble ta power : Nat)
  deriving DecidableEq, Repr

/-- What a step of a cell's uplink job hands to the tellers when it completes: nothing, or the slot's results: the learned receiver's LLRs,
and what the classical path detected on the other channels. -/
inductive StepResult where
  | none
  | slot (learned : List LearnedLlr) (found : List Detection)
  /-- The precoding of a symbol of the slot in process is complete (09 R233). -/
  | downlink (symbol : Nat)
  deriving DecidableEq, Repr

/-- What the receiver run on a staging entry gave for one of its PDUs: its LLR codes on the PDU's labelled bits, in codeword order
(10 R260; log 101). -/
structure EvalPdu where
  index : Nat
  codes : List Int
  deriving DecidableEq, Repr

/-- Who sends a message or owns an object: a PCIe function, or the management endpoint, which holds the rights of PF0
(16 R430); or a client of an inference service. -/
inductive Source where
  | fn (f : Fin 32)
  | mgmt
  /-- A client of an inference service, by the source address of its frames (17 R450). -/
  | client (addr : Nat)
  deriving DecidableEq, Repr

/-- A host message as it stands in a till (16 R417): the header's fields and the body. Its OPCODE is that of the command
that carries it, its LENGTH is 16 plus the bytes of the body. Tills are numbered 3f + k for till k of function f, and
96 + 8192p + t for till t of partition p; none: the message came over MCTP. -/
structure Msg where
  src : Source
  till : Option Nat
  flags : BitVec 8
  seq : BitVec 8
  reply : BitVec 16
  tag : BitVec 64
  body : List Byte
  deriving DecidableEq, Repr

/-- Where a function's registers lie: its memory windows whose accesses follow register or ring rules, and its configuration space
(15 R386, R388). -/
inductive Window where
  | mw0
  | mw2
  | config
  deriving DecidableEq, Repr

/-- One access to MW4 (15 R409); a read names the stack, pseudo-channel, bank and row of an uncorrectable error that it meets (R410). -/
inductive Mw4Op where
  | read (n : Nat) (bad : Option (Nat × Nat × Nat × Nat))
  | write (data : List Byte) (poisoned : Bool)
  deriving DecidableEq, Repr

/-- What causes a conventional reset (15 R412, 22 R570). -/
inductive ConvReset where
  | perst
  | hotReset
  | linkDown
  deriving DecidableEq, Repr

/-- The device reads of host memory that can fail (15 R411): a reload of a key-value page, or a read of no object. -/
inductive DmaRead where
  | reload (svc page : Nat)
  | other (f : Fin 32)
  deriving DecidableEq, Repr

/-- What arrived on a MAC, as far as its classification goes (17 R448): whether its FCS is right, its length in bytes, its
802.1Q VLAN IDs, its EtherType, whether an EtherType 0x8809 frame has the ESMC subtype, and whether MACsec verified it and
under which AN. -/
structure RxFrame where
  fcsOk : Bool
  length : Nat
  vlans : List Nat
  etherType : Nat
  esmc : Bool
  macsec : Option Bool
  deriving DecidableEq, Repr

/-- How a PTP message arrived: the MAC, its VLAN ID when tagged, its domain, its raw time-stamp in 2^-16 ns of device time. -/
structure PtpRx where
  mac : Nat
  vlan : Option Nat
  domain : Nat
  raw : Int
  deriving DecidableEq, Repr

/-- What an Announce says of its sender (17 R456). -/
structure Announced where
  identity : BitVec 64
  clockClass : BitVec 8
  accuracy : BitVec 8
  variance : BitVec 16
  priority2 : BitVec 8
  utcOffset : BitVec 16
  leap61 : Bool
  leap59 : Bool
  deriving DecidableEq, Repr

/-- A unicast negotiation message of G.8275.2 (17 R456): message type 0 Sync, 9 Delay_Resp, 11 Announce; log2 of the interval;
duration in seconds, 0 refusing a grant. -/
inductive PtpSignal where
  | request (type : Nat) (logInterval : Int) (duration : Nat)
  | grant (type : Nat) (logInterval : Int) (duration : Nat)
  | cancel (type : Nat)
  deriving DecidableEq, Repr

/-- A device that the group exchange reaches (17 R468, R469): identity, ROOT_PRIORITY, the XOR of 2^d over a path's ports. -/
structure GroupPeer where
  identity : BitVec 64
  priority : Nat
  path : Nat
  deriving DecidableEq, Repr


/-- What a rail measured over 1 ms (18 R495, R496): energy in µJ, voltage in mV, current in 0.01 A. -/
structure RailUse where
  uj : Nat
  mv : Nat
  current : Nat
  deriving DecidableEq, Repr

/-- What a core island's power meter and its sequencer counted over 1 ms (18 R495, 13 R348): energy in µJ; for each job whose
work ran: pulses delivered as active and as wait cycles, and pulses skipped. -/
structure CoreUse where
  core : Nat
  uj : Nat
  runs : List (Nat × Nat × Nat × Nat)
  deriving DecidableEq, Repr


/-- What the check bits of a memory find (19 R498). -/
inductive Ecc where
  | clean
  | corrected
  | uncorrected
  deriving DecidableEq, Repr

/-- An error that the check bits of a core's memory find: the memory in R498 table order from 0, the address of the word, whether it
is uncorrectable (19 R498, R514). -/
structure EccFind where
  memory : Nat
  address : Nat
  uncorrected : Bool
  deriving DecidableEq, Repr

/-- An error that the tellers' scrub finds: in till memory at a byte address, in a tally of the bank, in the memories of a teller
pair (19 R500). -/
inductive ScrubFind where
  | till (address : Nat) (uncorrected : Bool)
  | tally (index : Nat) (uncorrected : Bool)
  | teller (pair address : Nat) (uncorrected : Bool)
  deriving DecidableEq, Repr

/-- How the repair of an HBM row went: the stack's repair status showed the row replaced already, the fuse and the march succeeded,
the physical pages that hold the row (19 R511-R513). -/
structure RepairResult where
  replaced : Bool
  ok : Bool
  pages : List Nat
  deriving DecidableEq, Repr

/-- A row that the full memory BIST found bad, and its repair (19 R510). -/
structure BistRow where
  stack : Nat
  channel : Nat
  bank : Nat
  row : Nat
  repair : RepairResult
  deriving DecidableEq, Repr

/-- A JTAG instruction, or a token transition by Valust test equipment to MAKER_TEST (20 R533, R535). -/
inductive Jtag where
  | bypass
  | idcode
  | sample
  | extest
  | scan
  | tellerDebug
  /-- The Valust token challenge: whether the token verifies. -/
  | challenge (valid : Bool)
  /-- A transition to MAKER_TEST: whether its signed token, bound to the DeviceID, verifies. -/
  | toMakerTest (valid : Bool)
  deriving DecidableEq, Repr

/-- An SPDM request that the responder supports (20 R526). -/
inductive SpdmReq where
  | getVersion
  /-- The SPDM version of the request, major × 16 + minor. -/
  | getCapabilities (version : Nat)
  /-- BaseAsymAlgo, BaseHashAlgo and MeasurementHashAlgo bits that the requester offers. -/
  | negotiateAlgorithms (asym hash : BitVec 32)
  | getDigests
  | getCertificate (slot offset length : Nat)
  | challenge (slot : Nat) (nonce : BitVec 256)
  /-- Measurement operation: 0 the number of blocks, 255 all blocks, else a block index; whether a signature is asked for. -/
  | getMeasurements (slot operation : Nat) (sign : Bool) (nonce : BitVec 256)
  deriving DecidableEq, Repr

/-- What an optics transaction meets (21 R547, R549): an answer, a NACK, or a bus that is stuck. -/
inductive I2c (α : Type) where
  | answer (a : α)
  | nack
  | stuck
  deriving DecidableEq, Repr

/-- What a module shows of itself: identifier byte, and the identity of page 00h; whether it advertises an application whose host
interface matches the MAC's speed (21 R547). -/
structure ModuleId where
  ident : BitVec 8
  oui : BitVec 24
  partNo : List Byte
  serial : List Byte
  matches_ : Bool
  deriving DecidableEq, Repr

/-- One reading of a module's monitors (21 R548): temperature in 1/256 °C, supply in 100 µV, lane powers in 0.1 µW, lane bias in 2 µA,
latched flags seen, CMIS ModuleState, whether a data path is activated; the levels of temperature, supply, lowest Rx and Tx power and
highest bias under the module's own CMIS thresholds, 0 normal to 3 fatal (21 R544). -/
structure Monitors where
  temp : Int
  vcc : Nat
  rx : List Nat
  tx : List Nat
  bias : List Nat
  flags : Nat
  state : Nat
  active : Bool
  levels : List Nat
  deriving DecidableEq, Repr

/-- A sample of an indicator's load (21 R553). -/
inductive LoadSample where
  | ok
  | belowOpen
  | aboveShort
  deriving DecidableEq, Repr

/-- A request to the management endpoint in an MCTP message of type 0x00, 0x01 or 0x05 (21 R540, R544, R545). -/
inductive MgmtReq where
  | setEndpointId (id : Nat)
  | getPdr (record : Nat)
  | getSensorReading (sensor : Nat)
  | getStateSensorReadings (sensor : Nat)
  | setStateEffecterStates (effecter state : Nat)
  | setEventReceiver (enable : Bool)
  | requestUpdate
  | firmwareTransfer (offset : Nat) (data : List Byte)
  | verifyComplete
  | activateFirmware
  | getFirmwareParameters
  | spdm (r : SpdmReq)
  deriving DecidableEq, Repr

/-- What a boot finds (22 R561-R564, R568): cores whose crossings fail alignment, cores that fail the start-up test, what stops the
boot (UNIT_KIND 4 a stack that fails training, 6 a crossing of another island, and its index), repairs in the order in which they are
made, the spare rows that the stacks report. -/
structure BootReport where
  crossings : List Nat
  failed : List Nat
  stop : Option (Nat × Nat)
  repairs : List RepairResult
  spares : List Nat
  deriving DecidableEq, Repr

/-- The commands: writes and messages from outside, events on pins and links, and the acts of the device's own
sequencers and engines, each a row of the table. -/
inductive Instr where
  /-- NOP (R57): Sequencer step that does nothing and completes when it issues. -/
  | nop (core : Nat)
  /-- PASS (R83): Matrix array step that streams M input rows through the stationary weights into accumulator rows. -/
  | pass (core : Nat) (check : ArrayCheck) (ecc : List EccFind)
  /-- RELOAD (R84): Matrix array step that loads a stationary block into the shadow registers of an array. -/
  | reload (core : Nat) (check : ArrayCheck) (ecc : List EccFind)
  /-- VEC (R135): Sequencer step that runs a range of vector engine instructions. -/
  | vec (core : Nat) (ecc : List EccFind)
  /-- SIG (R165): Sequencer step that runs a signal unit program from an address until it halts. -/
  | sig (core : Nat) (ecc : List EccFind)
  /-- FEED (R322): Stream mover step that carries out schedule entries that move tiles into local scratchpad. -/
  | feed (core : Nat) (ecc : List EccFind)
  /-- STORE (R322): Stream mover step that carries out schedule entries that move tiles out of local scratchpad. -/
  | store (core : Nat) (ecc : List EccFind)
  /-- MINT (R111): Quantising step that converts source tiles or accumulator rows into a narrow output stream. -/
  | mint (core : Nat) (ecc : List EccFind)
  /-- POST (R57): Sequencer step that only posts to a tally binding. -/
  | post (core : Nat)
  /-- CHECKPOINT (R67): Step that completes when the core is idle, and halts for a pending yield so that the live state can be saved. -/
  | checkpoint (core : Nat)
  /-- DIGEST (R375): Stream mover step that computes the CRC-64 of a declared range of a stream's tiles. -/
  | digest (core : Nat) (ecc : List EccFind)
  /-- FENCE (R58): Issue barrier step that completes when every earlier step of the core has completed. -/
  | fence (core : Nat)
  /-- EPOCH_END (R61): Placement-added step that completes when every unit is idle and advances every binding's epoch base by its stride. -/
  | epochEnd (core : Nat) (ecc : List EccFind)
  /-- STEP_COMPLETE (R58): Completion of a step that took time, with its tally post landing in the same work cycle. -/
  | stepComplete (core : Nat) (u : Unit_) (energy : Option Nat) (result : StepResult)
  /-- EPOCH_BEGIN (R61): A core begins its next epoch at step 0 of the selected plan, at once or at the next aligned device time. -/
  | epochBegin (core : Nat)
  /-- EPOCH_LIMIT (R47): The count of epochs per invocation runs out and the invocation ends. -/
  | epochLimit (job : Nat)
  /-- PLAN_RULE_SELECT (R65): When the READY tally reaches its base, the tellers read the selector word and assign a plan to epoch e + LEAD. -/
  | planRuleSelect (job : Nat)
  /-- STALL_LIMIT (R367): A step that has waited 1 s on a stream count or group tally ends its invocation with E_TIMEOUT. -/
  | stallLimit (core : Nat)
  /-- MEND_MAP_WRITE (R504): A field mend map entry is written to the older flash copy within 200 ms of a failure. -/
  | mendMapWrite
  /-- EVENT_BOUNDARY_STOP (R166): A pending stop request for a fault, function reset or debug halt is taken by the signal unit at its next event boundary. -/
  | eventBoundaryStop (core : Nat) (ecc : List EccFind)
  /-- VEC_NOP (R126): Vector instruction that does nothing. -/
  | vecNop (core : Nat)
  /-- VADD (R126): Vector lane-wise addition. -/
  | vadd (core : Nat)
  /-- VSUB (R126): Vector lane-wise subtraction, optionally reversed. -/
  | vsub (core : Nat)
  /-- VMUL (R126): Vector lane-wise multiplication. -/
  | vmul (core : Nat)
  /-- VFMA (R126): Vector fused multiply-add with one rounding. -/
  | vfma (core : Nat)
  /-- VMAX (R126): Vector lane-wise maximum. -/
  | vmax (core : Nat)
  /-- VMIN (R126): Vector lane-wise minimum. -/
  | vmin (core : Nat)
  /-- VABS (R126): Vector lane-wise magnitude. -/
  | vabs (core : Nat)
  /-- VNEG (R126): Vector lane-wise negation. -/
  | vneg (core : Nat)
  /-- VMOV (R126): Vector move of a register or a broadcast immediate. -/
  | vmov (core : Nat)
  /-- VSEL (R126): Vector select between two registers by mask bit. -/
  | vsel (core : Nat)
  /-- VCLAMP (R126): Vector clamp between two bounds. -/
  | vclamp (core : Nat)
  /-- VCMP (R126): Vector compare writing a mask register. -/
  | vcmp (core : Nat)
  /-- VAND (R126): Vector bitwise and. -/
  | vand (core : Nat)
  /-- VOR (R126): Vector bitwise or. -/
  | vor (core : Nat)
  /-- VXOR (R126): Vector bitwise exclusive or. -/
  | vxor (core : Nat)
  /-- VSHL (R126): Vector shift left. -/
  | vshl (core : Nat)
  /-- VSHR (R126): Vector arithmetic shift right. -/
  | vshr (core : Nat)
  /-- VSHRU (R126): Vector logical shift right. -/
  | vshru (core : Nat)
  /-- MAND (R126): Mask register and. -/
  | mand (core : Nat)
  /-- MOR (R126): Mask register or. -/
  | mor (core : Nat)
  /-- MNOT (R126): Mask register not. -/
  | mnot (core : Nat)
  /-- VRSUM (R128): Vector sum per lane group in a fixed pairwise tree. -/
  | vrsum (core : Nat)
  /-- VRMAX (R128): Vector largest value per lane group. -/
  | vrmax (core : Nat)
  /-- VRMIN (R128): Vector smallest value per lane group. -/
  | vrmin (core : Nat)
  /-- VRARGMAX (R128): Vector lane index of the largest value per group, ties to the lowest. -/
  | vrargmax (core : Nat)
  /-- VEXP2 (R129): Vector base-2 exponential. -/
  | vexp2 (core : Nat)
  /-- VLOG2 (R129): Vector base-2 logarithm. -/
  | vlog2 (core : Nat)
  /-- VRCP (R129): Vector reciprocal. -/
  | vrcp (core : Nat)
  /-- VRSQRT (R129): Vector reciprocal square root. -/
  | vrsqrt (core : Nat)
  /-- VSQRT (R129): Vector correctly rounded square root. -/
  | vsqrt (core : Nat)
  /-- VSINT (R129): Vector sine of 2 pi x. -/
  | vsint (core : Nat)
  /-- VCOST (R129): Vector cosine of 2 pi x. -/
  | vcost (core : Nat)
  /-- VTANH (R129): Vector hyperbolic tangent. -/
  | vtanh (core : Nat)
  /-- CMUL (R126): Vector complex multiply. -/
  | cmul (core : Nat)
  /-- CMULC (R126): Vector complex multiply by a conjugate. -/
  | cmulc (core : Nat)
  /-- CMAC (R126): Vector complex multiply-accumulate. -/
  | cmac (core : Nat)
  /-- CMACC (R126): Vector complex multiply-accumulate by a conjugate. -/
  | cmacc (core : Nat)
  /-- CMAG2 (R126): Vector complex squared magnitude. -/
  | cmag2 (core : Nat)
  /-- CROT (R126): Vector complex rotation by a phase in turns. -/
  | crot (core : Nat)
  /-- VCVT (R130): Vector conversion between register formats. -/
  | vcvt (core : Nat)
  /-- VBCAST (R126): Vector broadcast of one lane to every lane. -/
  | vbcast (core : Nat)
  /-- VROT (R126): Vector lane rotation. -/
  | vrot (core : Nat)
  /-- VZIP (R126): Vector interleave of two register halves. -/
  | vzip (core : Nat)
  /-- VUNZIP (R126): Vector de-interleave into even or odd lanes. -/
  | vunzip (core : Nat)
  /-- VPERM (R126): Vector lane permutation by an index register. -/
  | vperm (core : Nat)
  /-- VLD (R131): Vector load from scratchpad with conversion. -/
  | vld (core : Nat)
  /-- VST (R131): Vector store to scratchpad with conversion. -/
  | vst (core : Nat)
  /-- VLDACC (R132): Vector load of two accumulator rows. -/
  | vldacc (core : Nat)
  /-- VSTACC (R132): Vector store of two accumulator rows. -/
  | vstacc (core : Nat)
  /-- VGATHER (R133): Vector indexed load from a scratchpad window. -/
  | vgather (core : Nat)
  /-- LOOP (R126): Vector control instruction that repeats the next BODY instructions COUNT times. -/
  | loop (core : Nat)
  /-- LOOP_END (R135): The iteration count of a vector LOOP runs out and execution continues after the body. -/
  | loopEnd (core : Nat)
  /-- PSET (R126): Vector pointer register set from an immediate. -/
  | pset (core : Nat)
  /-- PADD (R126): Vector pointer register increment by an immediate. -/
  | padd (core : Nat)
  /-- SIG_NOP (R159): Signal unit instruction that performs only its moves. -/
  | sigNop (core : Nat)
  /-- LDA (R159): Signal unit load of an accumulator. -/
  | lda (core : Nat)
  /-- ADD (R159): Signal unit accumulator addition. -/
  | add (core : Nat)
  /-- SUB (R159): Signal unit accumulator subtraction. -/
  | sub (core : Nat)
  /-- CMP (R159): Signal unit compare that sets flags. -/
  | cmp (core : Nat)
  /-- CMPA (R159): Signal unit magnitude compare that sets flags. -/
  | cmpa (core : Nat)
  /-- MAX (R159): Signal unit keep the larger value. -/
  | max (core : Nat)
  /-- MIN (R159): Signal unit keep the smaller value. -/
  | min (core : Nat)
  /-- ABS (R159): Signal unit accumulator magnitude. -/
  | abs (core : Nat)
  /-- NEG (R159): Signal unit accumulator negation. -/
  | neg (core : Nat)
  /-- ZERO (R159): Signal unit accumulator clear. -/
  | zero (core : Nat)
  /-- RNDA (R150): Signal unit rounding of an accumulator to a whole word under the rounding mode. -/
  | rnda (core : Nat)
  /-- SHL (R159): Signal unit accumulator shift left. -/
  | shl (core : Nat)
  /-- SHR (R159): Signal unit accumulator arithmetic shift right. -/
  | shr (core : Nat)
  /-- MUL (R148): Signal unit multiply into an accumulator. -/
  | mul (core : Nat)
  /-- MULR (R150): Signal unit multiply with rounding. -/
  | mulr (core : Nat)
  /-- MADD (R148): Signal unit multiply-add. -/
  | madd (core : Nat)
  /-- MADDR (R150): Signal unit multiply-add with rounding. -/
  | maddr (core : Nat)
  /-- MSUB (R148): Signal unit multiply-subtract. -/
  | msub (core : Nat)
  /-- MSUBR (R150): Signal unit multiply-subtract with rounding. -/
  | msubr (core : Nat)
  /-- MNEG (R159): Signal unit negated multiply. -/
  | mneg (core : Nat)
  /-- AND (R159): Signal unit bitwise and on an accumulator's word field. -/
  | and (core : Nat)
  /-- OR (R159): Signal unit bitwise or on an accumulator's word field. -/
  | or (core : Nat)
  /-- XOR (R159): Signal unit bitwise exclusive or on an accumulator's word field. -/
  | xor (core : Nat)
  /-- NORM (R159): Signal unit normalisation count of an accumulator. -/
  | norm (core : Nat)
  /-- SATW (R149): Signal unit limited store of an accumulator to a data register. -/
  | satw (core : Nat)
  /-- PGET (R159): Signal unit read of a pointer into a data register. -/
  | pget (core : Nat)
  /-- HALT (R160): Signal unit instruction that ends the program; the SIG step completes in the next cycle. -/
  | halt (core : Nat)
  /-- JMP (R153): Signal unit jump to an immediate address after two delay slots. -/
  | jmp (core : Nat)
  /-- CALL (R153): Signal unit call that pushes a return address. -/
  | call (core : Nat)
  /-- RET (R153): Signal unit return to the address that CALL pushed. -/
  | ret (core : Nat)
  /-- DO (R154): Signal unit loop that runs its body COUNT times with one loop stack entry. -/
  | doLoop (core : Nat)
  /-- DO_END (R154): The last iteration of a DO loop ends and its loop stack entry is popped. -/
  | doEnd (core : Nat)
  /-- REP (R154): Signal unit repeat of the following instruction COUNT times via the repeat latch. -/
  | rep (core : Nat)
  /-- REP_END (R154): The repeat count of a REP runs out and the next instruction issues. -/
  | repEnd (core : Nat)
  /-- LDP (R160): Signal unit load of a pointer, base, length or modifier from an immediate. -/
  | ldp (core : Nat)
  /-- LDI (R160): Signal unit load of a register from an immediate. -/
  | ldi (core : Nat)
  /-- PCOPY (R160): Signal unit copy of one pointer to another. -/
  | pcopy (core : Nat)
  /-- GET (R144): Signal unit blocking transfer of granules from scratchpad into X or Y memory. -/
  | get (core : Nat)
  /-- PUT (R144): Signal unit blocking transfer of words from X or Y memory to scratchpad. -/
  | put (core : Nat)
  /-- SETM (R160): Signal unit setting of rounding and saturation modes and clearing of the sticky clip flag. -/
  | setm (core : Nat)
  /-- YIELD_ABORT_POINT (R33): At 20 us minus 4,096 cycles an unfinished yield aborts the best-effort invocation and rinses the segments. -/
  | yieldAbortPoint (core : Nat)
  /-- SAVE_COMPLETE (R67): The tellers finish saving a halted instance's live state and translation context to HBM. -/
  | saveComplete (core : Nat)
  /-- RINSE_COMPLETE (R310): A rinse of 4,096 work cycles ends with every granule of its segments zeroed. -/
  | rinseComplete (core : Nat)
  /-- LENT_WINDOW_CLOSE (R339): A lent window closes 20 us before the lender's next timeline step. -/
  | lentWindowClose (core : Nat)
  /-- BE_DISPATCH (R341): An unclaimed or lent core runs or resumes the best-effort instance at the head of its ready queue. -/
  | beDispatch (core : Nat)
  /-- SEGMENT_WAKE (R307): A segment reaches ON from RETAIN or from OFF, the latter followed by a rinse. -/
  | segmentWake (core segment : Nat)
  /-- MEM_MAP (R313): Command that zeroes a range of partition pages and marks them MAPPED. -/
  | memMap (m : Msg)
  /-- PAGES_MAPPED (R313): Zeroing of a pending MEM_MAP ends and its pages are marked MAPPED in one cycle. -/
  | pagesMapped (part first : Nat)
  /-- MEM_UNMAP (R313): Command that marks a range of pages UNMAPPED and clears VALID in every stream mover entry. -/
  | memUnmap (m : Msg)
  /-- UNMAP_COMPLETE (R314): Every VALID clearing has reached its table and earlier transactions have landed, completing MEM_UNMAP. -/
  | unmapComplete (part first : Nat)
  /-- MEM_QUERY (R313): Command that returns the MAPPED pages of a range and the allotment length. -/
  | memQuery (m : Msg)
  /-- TRANSACTION_LANDING (R319): An HBM, remote or cast transaction lands or is acknowledged at its pinned time. -/
  | transactionLanding (core index : Nat) (outcome : Landing)
  /-- TALLY_ADD (R364): Command that adds an amount to a partition tally. -/
  | tallyAdd (m : Msg)
  /-- TALLY_READ (R364): Command that returns a tally's value. -/
  | tallyRead (m : Msg)
  /-- TALLY_WAIT (R364): Command that arms a monitor completing when a tally reaches a threshold. -/
  | tallyWait (m : Msg)
  /-- TALLY_MONITOR_MET (R364): An armed monitor's tally reaches its threshold and TALLY_WAIT completes with OK. -/
  | tallyMonitorMet (part index : Nat)
  /-- TALLY_WAIT_TIMEOUT (R365): An armed TALLY_WAIT's TIMEOUT passes and it completes with E_TIMEOUT. -/
  | tallyWaitTimeout (ticket : Nat)
  /-- TALLY_QUERY (R364): Command that writes a tally's 64-byte debug record to partition HBM. -/
  | tallyQuery (m : Msg)
  /-- POST_VISIBLE (R360): A post from another core or source becomes visible to a waiting core at its pinned time. -/
  | postVisible (tally core : Nat)
  /-- GROUP_TALLY_MESSAGE (R473): A group tally addition arrives over the Relne link, is applied and forwarded in dimension order. -/
  | groupTallyMessage (port part tag record amount time chip : Nat)
  /-- BARRIER_RELEASE (R379): At the timed release R_t a barrier's additions become visible to every waiting core. -/
  | barrierRelease (tally : Nat)
  /-- DIGEST_COMBINE (R374): The tellers combine instance CRCs in instance order and write one digest record. -/
  | digestCombine (job point epoch : Nat)
  /-- CLIP_SHARE (R114): When every core of a mint station ends an epoch, the clip share is tested and a CLIP_SHARE event may be sent. -/
  | clipShare (job station epoch : Nat)
  /-- PART_CREATE (R332): Command that creates a partition and assigns its resources. -/
  | partCreate (m : Msg)
  /-- PART_DESTROY (R336): Command that destroys a partition, rinsing its segments and zeroing its pages. -/
  | partDestroy (m : Msg)
  /-- PART_DESTROY_COMPLETE (R336): Every owned segment is rinsed and every page zeroed, completing PART_DESTROY and freeing the index. -/
  | partDestroyComplete (part : Nat)
  /-- PART_BIND (R336): Command that binds or unbinds a function to a partition. -/
  | partBind (m : Msg)
  /-- PART_QUERY (R336): Command that returns a partition's shape figures. -/
  | partQuery (m : Msg)
  /-- LEDGER_READ (R351): Command that writes ledger entries to partition HBM, optionally subtracting them. -/
  | ledgerRead (m : Msg)
  /-- LEDGER_CLEAR (R351): Command that zeroes a partition's ledger entries and removes ended ones. -/
  | ledgerClear (m : Msg)
  /-- PRODUCER_DOORBELL (R406): A 64-bit doorbell write sets PROD of a till the host produces into, or stops it with OVERRUN. -/
  | producerDoorbell (f : Fin 32) (d : Nat) (value : BitVec 64)
  /-- CONSUMER_DOORBELL (R407): A 64-bit doorbell write frees entries of a device-produced till and may arm its interrupt. -/
  | consumerDoorbell (f : Fin 32) (d : Nat) (value : BitVec 64)
  /-- MESSAGE_TAKE (R406): The tellers take the next complete message from a command till once order, fence and reply room allow. -/
  | messageTake (till : Nat)
  /-- IRQ_HOLDOFF_EXPIRY (R399): The holdoff of a vector ends and a message that fell due earlier is sent. -/
  | irqHoldoffExpiry (f : Fin 32) (vector : Nat)
  /-- MSIX_UNMASK (R408): A per-vector or function mask clears and pending vectors are sent. -/
  | msixUnmask (f : Fin 32) (vector : Option Nat)
  /-- DB_ENABLE (R395): Write of FN_CONTROL.DB_ENABLE that enables or disables acceptance of the function's doorbells. -/
  | dbEnable (f : Fin 32) (on : Bool)
  /-- SOFT_RESET (R412): Write of FN_CONTROL.SOFT_RESET that starts a soft reset of the function. -/
  | softReset (f : Fin 32)
  /-- QUIESCE (R395): Write of FN_CONTROL.QUIESCE that stops the tellers taking further messages from the function's command tills. -/
  | quiesce (f : Fin 32) (on : Bool)
  /-- FN_ERROR_CLEAR (R396): W1C write of FN_ERROR that clears error bits and releases the captured address when all are 0. -/
  | fnErrorClear (f : Fin 32) (value : BitVec 32)
  /-- IRQ_CAUSE_CLEAR (R399): W1C write of IRQ_CAUSE that clears interrupt causes. -/
  | irqCauseClear (f : Fin 32) (value : BitVec 32)
  /-- IRQ_MASK_WRITE (R399): Write of IRQ_MASK that may unmask a pending cause and send vector 0. -/
  | irqMaskWrite (f : Fin 32) (value : BitVec 32)
  /-- LEDGER_LATCH (R400): Write that takes a snapshot of the partition ledger total into the MW0 window. -/
  | ledgerLatch (f : Fin 32) (value : BitVec 32)
  /-- TALLY_SELECT (R401): Write that latches a tally's debug record into the MW0 window. -/
  | tallySelect (f : Fin 32) (value : BitVec 32)
  /-- CHIP_LOCK (R403): WO1 write of CHIP_LOCK.LOCK that locks the RWL fields of CHIP_CONFIG until cold reset. -/
  | chipLock (f : Fin 32) (value : BitVec 32)
  /-- REGISTER_WRITE (R389): Write to a register that has no behaviour of its own, including dropped, narrow, misaligned and locked writes. -/
  | registerWrite (f : Fin 32) (win : Window) (offset : Nat) (data : List Byte) (poisoned : Bool)
  /-- MW4_ACCESS (R409): Host read or write through MW4 to the presented partition's HBM pages. -/
  | mw4Access (f : Fin 32) (offset : Nat) (op : Mw4Op)
  /-- FUNCTION_LEVEL_RESET (R412): PCIe Initiate FLR on PF0 or a VF starts a function reset. -/
  | functionLevelReset (f : Fin 32)
  /-- VF_DISABLE (R412): VF Enable is cleared or NumVFs changed, resetting every VF. -/
  | vfDisable (numVFs : Nat)
  /-- PCIE_CONVENTIONAL_RESET (R570): PERST_N low, hot reset or link down runs a function reset on every function. -/
  | pcieConventionalReset (cause : ConvReset)
  /-- FUNCTION_RESET_DONE (R413): A function reset ends: tills and MW0 return to reset values and RESET_DONE may be raised. -/
  | functionResetDone (f : Fin 32)
  /-- DMA_READ_TIMEOUT (R411): A device DMA read gets no completion within 10 ms and fails. -/
  | dmaReadTimeout (r : DmaRead)
  /-- HELLO (R425): Command that negotiates the host interface version and opens a session. -/
  | hello (m : Msg)
  /-- BYE (R426): Command that ends the source's session after its earlier commands complete. -/
  | bye (m : Msg)
  /-- TILL_CONFIG (R428): Command that sets up or releases a partition till. -/
  | tillConfig (m : Msg)
  /-- TILL_RESET (R429): Command that returns a till in ERROR or STOPPED to RUNNING with empty indices. -/
  | tillReset (m : Msg)
  /-- JOB_LOAD (R432): Command that validates and places a job image and reserves its resources. -/
  | jobLoad (m : Msg)
  /-- FLOOR_RAISE_TIMEOUT (R480): VDone has not arrived 10 ms after a floor raise and the load is refused with E_TIMEOUT. -/
  | floorRaiseTimeout (die : Nat)
  /-- JOB_START (R434): Command that starts an invocation of a loaded job and completes when it ends. -/
  | jobStart (m : Msg)
  /-- JOB_STOP (R434): Command that ends an invocation after its current epoch, or aborts it at once. -/
  | jobStop (m : Msg)
  /-- JOB_UNLOAD (R434): Command that releases a loaded job's resources and rinses its segments. -/
  | jobUnload (m : Msg)
  /-- PLAN_SELECT (R63): Command that selects the plan for a job from an effect epoch. -/
  | planSelect (m : Msg)
  /-- JOB_QUERY (R434): Command that returns a job's state, plan, cores and image identifier. -/
  | jobQuery (m : Msg)
  /-- CAP_SET (R435): Command that sets the device or a partition power cap. -/
  | capSet (m : Msg)
  /-- CAP_QUERY (R435): Command that returns the cap, recent power and effective clock. -/
  | capQuery (m : Msg)
  /-- TIME_QUERY (R436): Command that returns device time and the synchronisation state. -/
  | timeQuery (m : Msg)
  /-- FAPI_TUNNEL (R238): Till message carrying one segment of a FAPI message for a cell. -/
  | fapiTunnel (m : Msg)
  /-- CELL_START (R437): Command that builds, loads and places a cell's uplink and downlink jobs and starts the cell. -/
  | cellStart (m : Msg)
  /-- CELL_STOP (R439): Command that stops a cell after its current slot, or at once. -/
  | cellStop (m : Msg)
  /-- CELL_STATS (R439): Command that writes a cell's counters to HBM, optionally clearing them. -/
  | cellStats (m : Msg)
  /-- SELFTEST (R440): Command that runs self-tests on named cores, engines or all memories. -/
  | selftest (m : Msg)
  /-- FW_STAGE (R520): Command that writes and verifies a firmware image in the inactive slot. -/
  | fwStage (m : Msg)
  /-- FW_ACTIVATE (R522): Command that writes a trial commit record for the staged slot and may restart. -/
  | fwActivate (m : Msg)
  /-- LC_ADVANCE (R533): Command that makes a life-cycle transition. -/
  | lcAdvance (m : Msg)
  /-- MEND_UPDATE (R505): Command that disables or re-enables a core or coding-cluster engine in the mend map. -/
  | mendUpdate (m : Msg)
  /-- SEAL_ARM (R531): Command that arms seal monitoring when the loop is closed. -/
  | sealArm (m : Msg)
  /-- DBG_HALT (R441): Command that halts a signal unit at its next event boundary. -/
  | dbgHalt (m : Msg)
  /-- DBG_STEP (R441): Command that advances a halted signal unit by one event boundary. -/
  | dbgStep (m : Msg)
  /-- DBG_RESUME (R441): Command that resumes a halted signal unit. -/
  | dbgResume (m : Msg)
  /-- DBG_READ (R441): Command that writes a debug object such as registers, memories or a directory entry to HBM. -/
  | dbgRead (m : Msg)
  /-- UPLANE_FRAME (R188): An eCPRI U-plane frame is checked and its resource blocks are written into grid or PRACH tiles. -/
  | uplaneFrame (mac vlan rxNs : Nat) (payload : List Byte)
  /-- SERVICE_FRAME (R450): A service-class frame delivers one message to an open service's request till. -/
  | serviceFrame (mac vlan addr : Nat) (payload : List Byte)
  /-- FRAME_DROP (R448): A received frame with bad FCS, oversize, untagged, unknown VLAN or failed MACsec is dropped and counted. -/
  | frameDrop (mac : Nat) (frame : RxFrame)
  /-- LLDPDU (R449): A received LLDPDU is counted and discarded. -/
  | lldpdu (mac : Nat)
  /-- LLDP_SEND (R449): Every 30 s an LLDPDU is sent on each MAC that is up. -/
  | lldpSend
  /-- ETH_LINK_CHANGE (R453): A MAC's link goes up or down. -/
  | ethLinkChange (mac : Nat) (up : Bool)
  /-- SYMBOL_CLOSE (R191): At T_end + RX_MAX a symbol closes and missing resource blocks are written as zero and erased. -/
  | symbolClose (at_ : IngRef) (slot symbol : Nat)
  /-- UL_TTI_REQUEST (R197): FAPI request giving a slot's uplink PDUs, used only before the slot's air start. -/
  | ulTtiRequest (cell sfn slot : Nat) (pdus : List UlPdu)
  /-- DL_TTI_REQUEST (R234): FAPI request giving a slot's downlink PDUs. -/
  | dlTtiRequest (cell sfn slot : Nat) (pdus : List DlPdu)
  /-- UL_DCI_REQUEST (R234): FAPI request giving uplink DCI PDCCH PDUs. -/
  | ulDciRequest (cell sfn slot : Nat) (pdus : List DlPdu)
  /-- TX_DATA_REQUEST (R239): FAPI request giving PDSCH payloads inline or by address. -/
  | txDataRequest (cell sfn slot : Nat) (entries : List TxEntry)
  /-- SLOT_INDICATION (R234): FAPI message for slot n sent at the air start of slot n - 2. -/
  | slotIndication (cell slot : Nat)
  /-- CONTEXT_FREE (R205): A tracking context unused for 256 slots is freed. -/
  | contextFree (cell rnti : Nat)
  /-- CODE_BLOCK_DECODED (R224): An LDPC decoder finishes a code block with HARQ combining and CRC checks. -/
  | codeBlockDecoded (cell slot pdu cb : Nat) (check : ArrayCheck)
  /-- HARQ_AGE_EXPIRY (R228): A soft buffer key unused for HARQ_AGE slots is released. -/
  | harqAgeExpiry (cell rnti harq : Nat)
  /-- POLAR_DECODED (R229): A polar engine finishes a PUCCH list or Reed-Muller decode. -/
  | polarDecoded (cell slot pdu : Nat) (codes : List Int) (check : ArrayCheck)
  /-- CODE_BLOCK_ENCODED (R231): An LDPC encoder or polar engine finishes encoding a code block. -/
  | codeBlockEncoded (cell slot pdu cb engine : Nat) (check : ArrayCheck)
  /-- SYMBOL_DEPARTURE (R236): At T_start - TX_ADV a downlink symbol's U-plane frames are sent, or dropped if its tile is late. -/
  | symbolDeparture (cell slot symbol : Nat)
  /-- DL_CPLANE_SEND (R236): Downlink C-plane of a slot is sent at T_start - CP_ADV_DL. -/
  | dlCplaneSend (cell slot : Nat)
  /-- UL_CPLANE_SEND (R236): Uplink C-plane of an uplink symbol is sent at T_start - CP_ADV_UL. -/
  | ulCplaneSend (cell slot symbol : Nat)
  /-- STAGING_PROCESS (R250): The adaptation job processes a staging entry: capture, labels and shadow evaluation. -/
  | stagingProcess (cell entry : Nat) (pdus : List EvalPdu)
  /-- EVAL_EXPIRY (R262): EVAL_MAX_SLOTS pass before evaluation closes and the candidate is rejected. -/
  | evalExpiry (cell : Nat)
  /-- TRAINING_ROUND_START (R254): A training round freezes the ledger window and starts when its conditions hold. -/
  | trainingRoundStart (cell : Nat)
  /-- ROUND_END (R255): A training round writes its weights into a candidate slot, or fails, and the phase changes. -/
  | roundEnd (cell : Nat)
  /-- ROUND_TIMEOUT (R256): A round not complete after ROUND_TIMEOUT ms is abandoned. -/
  | roundTimeout (cell : Nat)
  /-- LIVE_SWITCH (R246): The tellers copy a slot's deploy blocks into the live weight region before epoch E. -/
  | liveSwitch (cell : Nat)
  /-- LIVE_FAILURE_TRIGGER (R265): After each group of ROLL_WINDOW learned PDUs the live failure test is made. -/
  | liveFailureTrigger (cell : Nat)
  /-- PROBATION_END (R265): PROBATION_SLOTS pass with no trigger and the phase returns to TRAINING or OFF. -/
  | probationEnd (cell : Nat)
  /-- ADAPT_CONFIG (R268): ADAPT_CONFIG with ACTION SET that configures and loads adaptation for a cell. -/
  | adaptConfig (m : Msg)
  /-- LOAD_SLOT (R269): ADAPT_CONFIG action that copies a receiver image into a slot as a candidate. -/
  | loadSlot (m : Msg)
  /-- CLEAR_SLOT (R269): ADAPT_CONFIG action that empties a slot. -/
  | clearSlot (m : Msg)
  /-- ADAPT_QUERY (R270): ADAPT_CONFIG action QUERY returning the phase, slot states and counts. -/
  | adaptQuery (m : Msg)
  /-- ADAPT_PROMOTE (R271): Command that promotes the passed candidate. -/
  | adaptPromote (m : Msg)
  /-- ADAPT_ROLLBACK (R271): Command that rolls back the live receiver or rejects the candidate. -/
  | adaptRollback (m : Msg)
  /-- SVC_OPEN (R276): Command that opens an inference service on a loaded best-effort job. -/
  | svcOpen (m : Msg)
  /-- SVC_CLOSE (R277): Command that ends every session after the epoch in progress and releases the service. -/
  | svcClose (m : Msg)
  /-- SVC_QUERY (R277): Command that returns a service's session and frame counts. -/
  | svcQuery (m : Msg)
  /-- SESSION_OPEN (R298): Service request that creates a session, sharing matching prefix pages. -/
  | sessionOpen (m : Msg)
  /-- SESSION_APPEND (R298): Service request that queues prompt tokens for a session. -/
  | sessionAppend (m : Msg)
  /-- SESSION_GENERATE (R298): Service request that starts generation and completes when it ends. -/
  | sessionGenerate (m : Msg)
  /-- SESSION_FORK (R298): Service request that creates a new session sharing every page of the source. -/
  | sessionFork (m : Msg)
  /-- SESSION_CLOSE (R298): Service request that closes a session and decrements its pages' shares. -/
  | sessionClose (m : Msg)
  /-- EVICTION_COPY_COMPLETE (R288): A page's copy to the overflow slot completes, freeing its frame. -/
  | evictionCopyComplete (svc page : Nat)
  /-- RELOAD_COPY_COMPLETE (R290): A page's reload from the overflow slot completes and the page becomes RESIDENT. -/
  | reloadCopyComplete (svc page : Nat)
  /-- SESSION_FRAME_TIMEOUT (R294): A session waits 1 s with no frame free and its SESSION_GENERATE fails with E_RESOURCE. -/
  | sessionFrameTimeout (svc session : Nat)
  /-- PTP_SYNC (R457): A received Sync message is time-stamped and used to measure the offset from the master. -/
  | ptpSync (rx : PtpRx) (twoStep : Bool) (t1 correction : Int)
  /-- PTP_DELAY_REQ (R456): A received Delay_Req is answered by a master port. -/
  | ptpDelayReq (rx : PtpRx) (requester : BitVec 80) (seq : BitVec 16)
  /-- PTP_DELAY_RESP (R457): A received Delay_Resp completes a path delay measurement. -/
  | ptpDelayResp (rx : PtpRx) (t4 correction : Int)
  /-- PTP_ANNOUNCE (R456): A received Announce feeds the alternate BMCA and parent selection. -/
  | ptpAnnounce (rx : PtpRx) (a : Announced)
  /-- SYNC_TX (R456): A master port sends a one-step Sync at its interval. -/
  | syncTx (mac : Nat)
  /-- ANNOUNCE_TX (R456): A master port sends an Announce at its interval. -/
  | announceTx (mac : Nat)
  /-- DELAY_REQ_TX (R456): A slave port sends a Delay_Req at its interval. -/
  | delayReqTx (mac : Nat) (raw : Int)
  /-- PTP_SOURCE_LOSS (R463): Announce or Sync intervals pass without messages, or the parent leaves MASTER, and the source is lost. -/
  | ptpSourceLoss (mac : Nat)
  /-- HOLDOVER_LIMIT_EXPIRY (R462): HOLDOVER_LIMIT seconds in HOLDOVER pass and the state becomes FREE_RUN. -/
  | holdoverLimitExpiry
  /-- ESMC_PDU (R458): A received ESMC PDU updates a SyncE source's quality level. -/
  | esmcPdu (mac : Nat) (ql : BitVec 4)
  /-- ESMC_SEND (R458): An ESMC information PDU is sent each second, or an event PDU on a QL change. -/
  | esmcSend
  /-- ESMC_TIMEOUT (R458): No ESMC PDU for 5 s sets the source's QL to DNU. -/
  | esmcTimeout (src : Nat)
  /-- CLK10M_LOST (R459): No CLK10M_IN edge for 10 us sets CLK10M_LOST. -/
  | clk10mLost
  /-- PPS_IN_EDGE (R460): A PPS_IN rising edge is time-taken and accepted or ignored. -/
  | ppsInEdge (pin : Int)
  /-- PPS_LOST (R460): 1.1 s without an accepted PPS_IN edge sets PPS_LOST. -/
  | ppsLost
  /-- PPS_OUT_EDGE (R460): PPS_OUT rises at each whole second of device time. -/
  | ppsOutEdge
  /-- TOD_MESSAGE (R461): A received time-of-day message names the preceding PPS edge. -/
  | todMessage (data : List Byte)
  /-- TOD_LOST (R461): 2.5 s without a valid time-of-day message sets TOD_LOST. -/
  | todLost
  /-- TOD_OUT_MESSAGE (R461): A time-of-day message is sent 100 ms after each PPS_OUT edge. -/
  | todOutMessage
  /-- TIME_SET_APPLY (R455): Write of APPLY that sets device time from TIME_SET in FREE_RUN. -/
  | timeSetApply (value : BitVec 32)
  /-- TIME_LATCH (R465): Write of LATCH that copies device time into TIME_0 to TIME_3. -/
  | timeLatch (value : BitVec 32)
  /-- MAC_COUNTER_CLEAR (R453): Write of CLEAR that clears every counter of a MAC. -/
  | macCounterClear (mac : Nat) (value : BitVec 32)
  /-- MACSEC_CONTROL (R453): Write of a MAC's MACsec controls, applied at the next frame boundary or refused for an empty TX_AN slot. -/
  | macsecControl (mac : Nat) (value : BitVec 32)
  /-- AON_CLOCK_SET (R537): On LOCKED and hourly the always-on clock is set from device time. -/
  | aonClockSet
  /-- RELNE_LINK_UP (R468): A Relne port trains and exchanges its link hello. -/
  | relneLinkUp (port : Nat) (identity : BitVec 64) (protocols : BitVec 8) (farPort priority : Nat)
  /-- RELNE_LINK_DOWN (R469): A Relne port goes down and the group must form again. -/
  | relneLinkDown (port : Nat)
  /-- GROUP_FORM (R469): 100 ms after the last link change the group, root, chip indices and protocol are formed. -/
  | groupForm (peers : List GroupPeer) (protocol : Nat) (consistent : Bool)
  /-- LINK_TIME_MEASURE (R470): Each millisecond a protocol 2 member measures its offset from the root and slews. -/
  | linkTimeMeasure (offset : Int) (rootState : Nat)
  /-- LINK_TILE_RX (R472): A SEND tile's link frames land in the peer's buffer and post its produced count. -/
  | linkTileRx (port part tag stream tile : Nat) (data : List Byte) (late : Bool)
  /-- CAP_CONTROL_INTERVAL (R484): Every 1 us the cap controller sets each partition's cap mask. -/
  | capControlInterval (fixedMw : Nat)
  /-- CAP_BINDING_END (R483): No cap mask has skipped for 100 ms and POWER_EVENT KIND 2 is sent. -/
  | capBindingEnd
  /-- DIE_POINT_SELECT (R484): Every 10 ms the controller chooses die voltage points and commands changes. -/
  | diePointSelect (fixedMw : Nat)
  /-- VDONE (R481): A regulator reports VDone and the die's ceiling rises to the settled point. -/
  | vdone (die : Nat)
  /-- AVS_SETTLE_TIMEOUT (R481): VDone has not arrived 2 ms after a command and AVS_FAULT is set. -/
  | avsSettleTimeout (die : Nat)
  /-- AVS_RETRY (R481): Every 64 ms a failed AVSBus command is sent again. -/
  | avsRetry (rail : Nat) (answered : Bool)
  /-- AVS_BUS_FAILURE (R481): An AVSBus transaction fails three attempts 1 ms apart and the bus's rails are held. -/
  | avsBusFailure (bus : Nat)
  /-- DROOP_TRIP (R489): A core island's droop detector trips and its die's partitions get a droop mask. -/
  | droopTrip (core : Nat)
  /-- DROOP_MASK_END (R489): 512 pulses pass with no further trip and the droop mask ends. -/
  | droopMaskEnd (die : Nat)
  /-- THERMAL_SAMPLE (R490): Every 100 us the hottest temperatures set each partition's thermal mask. -/
  | thermalSample (temps : List (BitVec 16))
  /-- PROCHOT_ASSERT (R491): An external PROCHOT_N assertion of 1 us applies PROCHOT_CAP. -/
  | prochotAssert
  /-- PROCHOT_RELEASE (R491): 1 ms after the board releases PROCHOT_N the board cap is released. -/
  | prochotRelease
  /-- THERMTRIP (R492): A sensor reaches 115 C and hardware stops every clock and asserts THERMTRIP_N. -/
  | thermtrip
  /-- FLOW_LOSS (R493): FLOW_OK low for 2 ms runs the flow stop sequence. -/
  | flowLoss
  /-- FLOW_GLITCH (R493): FLOW_OK returns high within 2 ms and FLOW_GLITCHES increments. -/
  | flowGlitch
  /-- FLOW_RESTART (R494): After 5 s of flow and cool sensors the restart sequence begins. -/
  | flowRestart
  /-- FLOW_RESTART_DONE (R494): The restart ends: invocations complete aborted, cells stop and POWER_EVENT KIND 5 is sent. -/
  | flowRestartDone
  /-- ENERGY_INTERVAL (R495): Every 1 ms rail energy is measured and charged to ledger clients. -/
  | energyInterval (rails : List RailUse) (cores : List CoreUse) (granules : List (Nat × Nat))
  /-- LOCKSTEP_MISMATCH (R501): A teller pair's outputs differ, stopping it and starting a warm restart into recovery mode. -/
  | lockstepMismatch (pair : Nat)
  /-- TELLER_WATCHDOG (R556): A teller watchdog not served for 100 ms triggers a warm restart. -/
  | tellerWatchdog
  /-- HBM_SCRUB (R500): The HBM controllers scrub granules in turn and write back corrected bursts. -/
  | hbmScrub (stack channel bank row address : Nat) (found : Ecc)
  /-- TELLER_SCRUB (R500): Each second the tellers scrub till memory, the tally bank and their own memories. -/
  | tellerScrub (finds : List ScrubFind)
  /-- SELFTEST_DUE (R508): A core or engine becomes due for self-test 24 h after its last test. -/
  | selftestDue (kind index : Nat)
  /-- SELFTEST_SLICE (R507): An admitted core runs its next online self-test slice. -/
  | selftestSlice (core : Nat) (passed : Bool)
  /-- ENGINE_TEST (R509): An engine test runs in free coding-frame cycles. -/
  | engineTest (kind index : Nat) (passed : Bool)
  /-- ERROR_LOG_FLASH_WRITE (R515): A log entry other than CORRECTED is written to the persistent ring within 200 ms. -/
  | errorLogFlashWrite (ok : Bool)
  /-- PRESENCE_EVENT (R530): PRESENCE_N held low for 1 s opens or restarts the presence window. -/
  | presenceEvent (released : Bool)
  /-- PRESENCE_WINDOW_CLOSE (R530): 120 s after opening the presence window closes. -/
  | presenceWindowClose
  /-- PRESENCE_STUCK (R530): PRESENCE_N low for 10 s closes the window until it is released. -/
  | presenceStuck
  /-- SEAL_PULSE (R531): Every 250 ms the seal monitor pulses SEAL_A and samples SEAL_B. -/
  | sealPulse (matched : Bool)
  /-- SAK_INSTALL (R529): Write of SAK_CTL.INSTALL that installs the staged MACsec key into a slot. -/
  | sakInstall (value : BitVec 32)
  /-- SAK_ERASE (R538): Write of SAK_CTL.ERASE that zeroes a SAK slot. -/
  | sakErase (value : BitVec 32)
  /-- OWNER_COMMIT (R538): Write that makes the staged seed the owner seed and sets OWNER_SET. -/
  | ownerCommit (value : BitVec 32)
  /-- SEC_CONFIG_LOCK (R538): WO1 write of LOCK that locks SEC_CONFIG until cold reset. -/
  | secConfigLock (value : BitVec 32)
  /-- GET_VERSION (R526): SPDM request for supported versions. -/
  | getVersion (via eid : Nat)
  /-- GET_CAPABILITIES (R526): SPDM request for responder capabilities. -/
  | getCapabilities (via eid version : Nat)
  /-- NEGOTIATE_ALGORITHMS (R526): SPDM request that negotiates algorithms. -/
  | negotiateAlgorithms (via eid : Nat) (asym hash : BitVec 32)
  /-- GET_DIGESTS (R526): SPDM request for certificate chain digests. -/
  | getDigests (via eid : Nat)
  /-- GET_CERTIFICATE (R526): SPDM request for the slot 0 certificate chain. -/
  | getCertificate (via eid slot offset length : Nat)
  /-- CHALLENGE (R526): SPDM request for a signed challenge response. -/
  | challenge (via eid slot : Nat) (nonce : BitVec 256)
  /-- GET_MEASUREMENTS (R527): SPDM request for signed measurement blocks. -/
  | getMeasurements (via eid slot operation : Nat) (sign : Bool) (nonce : BitVec 256)
  /-- MCTP_MESSAGE (R541): An MCTP message is received and dispatched by type, a class-0 vendor message carrying a command. -/
  | mctpMessage (via eid type : Nat) (body : List Byte)
  /-- SET_ENDPOINT_ID (R540): MCTP control message assigning the endpoint ID. -/
  | setEndpointId (via eid id : Nat)
  /-- GET_PDR (R544): PLDM request for PDR repository entries. -/
  | getPdr (via eid record : Nat)
  /-- GET_SENSOR_READING (R544): PLDM request for a numeric sensor reading. -/
  | getSensorReading (via eid sensor : Nat)
  /-- GET_STATE_SENSOR_READINGS (R544): PLDM request for state sensor readings. -/
  | getStateSensorReadings (via eid sensor : Nat)
  /-- SET_STATE_EFFECTER_STATES (R544): PLDM request that sets indicator effecters. -/
  | setStateEffecterStates (via eid effecter state : Nat)
  /-- SET_EVENT_RECEIVER (R544): PLDM request that sets the event receiver. -/
  | setEventReceiver (via eid : Nat) (enable : Bool)
  /-- REQUEST_UPDATE (R545): PLDM firmware update request entering update mode. -/
  | requestUpdate (via eid : Nat)
  /-- VERIFY_COMPLETE (R545): PLDM report of the image verification result. -/
  | verifyComplete (via eid : Nat)
  /-- ACTIVATE_FIRMWARE (R545): PLDM request that writes the commit record and restarts. -/
  | activateFirmware (via eid : Nat)
  /-- GET_FIRMWARE_PARAMETERS (R545): PLDM request for active and pending versions. -/
  | getFirmwareParameters (via eid : Nat)
  /-- SMBUS_TIMEOUT (R543): SCL or SDA low for 35 ms puts an SMBus port in TIMEOUT. -/
  | smbusTimeout (port : Nat)
  /-- SMBUS_RETRY (R543): Every 64 ms a port in TIMEOUT tests its lines and resumes sending. -/
  | smbusRetry (port : Nat) (high : Bool)
  /-- OPTICS_PROBE (R547): Each second every listed optics slot is probed for presence. -/
  | opticsProbe (slot : Nat) (found : I2c ModuleId)
  /-- OPTICS_MONITOR_READ (R548): Each second a managed module's monitors and flags are read. -/
  | opticsMonitorRead (slot : Nat) (found : I2c Monitors)
  /-- OPTICS_BUS_RECOVERY (R549): A recovery attempt on a stuck optics bus runs, failing the bus after three. -/
  | opticsBusRecovery (bus : Nat) (high : Bool)
  /-- RETRY (R554): Write that restarts recovery of a FAILED optics bus. -/
  | retry (value : BitVec 32)
  /-- WEAR_LEDGER_WRITE (R550): Wear ledger records are written hourly and on insertion or loss. -/
  | wearLedgerWrite
  /-- INDICATOR_SHORT_HOLDOFF (R553): 1 s after a short the indicator driver drives again. -/
  | indicatorShortHoldoff (indicator : Nat)
  /-- COLD_RESET (R556): PWRGOOD rising or RESET_N low starts a cold boot. -/
  | coldReset (strap : Bool) (aon : BitVec 32)
  /-- PWRGOOD_FALL (R558): PWRGOOD falls and every island clock stops. -/
  | pwrgoodFall
  /-- BOOT_READY (R561): A cold boot or warm restart completes and READY is set. -/
  | bootReady (r : BootReport)
  /-- RECOVERY_EXIT (R569): 60 s after READY with no further restart, recovery mode ends. -/
  | recoveryExit
  /-- PCIE_LINK_UP (R386): The PCIe link finishes training and comes up, after PERST_N is released or a link-down ends. -/
  | pcieLinkUp
  /-- VF_ENABLE (R387): A configuration write sets VF Enable and NumVFs, so that VF1 to VFn come to exist on the link and PRESENT is set. -/
  | vfEnable (numVFs : Nat)
  /-- D3HOT_TRANSITION (R386): A power management write moves PF0 between D0 and D3hot, and PF0's memory windows stop or resume being served. -/
  | d3hotTransition (d3 : Bool)
  /-- DEVICE_READ_FAILURE (R411): A device DMA read completes with Unsupported Request, Completer Abort or poisoned data, so the read fails and is reported through AER. -/
  | deviceReadFailure (r : DmaRead)
  /-- SOURCE_WRITE (R462): A write of the timing SOURCE field moves the timing unit to FREE_RUN, or from FREE_RUN or HOLDOVER to ACQUIRING. -/
  | sourceWrite (value : BitVec 32)
  /-- CLK10M_RESTORED (R459): After 1 s of CLK10M_IN edges within plus or minus 50 ppm, CLK10M_LOST clears and the rate follows CLK10M_IN again. -/
  | clk10mRestored (rate : Int)
  /-- PTP_SIGNALING (R456): A G.8275.2 unicast negotiation message is received, which grants or refuses Sync, Announce and Delay_Resp transmission and sets its rate. -/
  | ptpSignaling (rx : PtpRx) (peer : Nat) (signal : PtpSignal)
  /-- VBAT_LOW (R538): VBAT crosses 2.50 V and the VBAT_LOW status bit changes. -/
  | vbatLow (low : Bool)
  /-- VAON_LOSS (R536): VAON falls below 1.60 V: the retention canary is lost, and the seal monitor and the always-on clock stop until VAON returns. -/
  | vaonLoss
  /-- JTAG_INSTRUCTION (R535): A JTAG instruction is shifted in, including the Valust token transitions to MAKER_TEST, and is honoured as the life-cycle state allows. -/
  | jtagInstruction (op : Jtag)
  /-- FIRMWARE_TRANSFER (R545): During a PLDM update, firmware data from the update agent is received and written into the inactive slot. -/
  | firmwareTransfer (offset : Nat) (data : List Byte)
  /-- LOAD_CHECK (R553): At the end of an indicator on-time of at least 20 us, or at a 4 s stretched pulse, the driver samples the load and sets OPEN, SHORT or OK. -/
  | loadCheck (indicator : Nat) (sample : LoadSample)
  /-- SELFTEST_DEFERRED (R508): A core or engine that has been due for self-test for more than 24 h is marked DEFERRED. -/
  | selftestDeferred (kind index : Nat)
  /-- MEMORY_BIST_COMPLETE (R510): The full memory BIST of SCOPE 2 ends, its repairs are made, tallies are restored, tills and ports resume and SELFTEST completes. -/
  | memoryBistComplete (rows : List BistRow)
  /-- PLACEMENT_COMPLETE (R71): Validation and placement of a JOB_LOAD end, up to 500 ms after the command, and the job is loaded or refused. -/
  | placementComplete (ticket : Nat)
  /-- FW_STAGE_COMPLETE (R520): The write of a staged image into the inactive slot and its verification end, and FW_STAGE completes. -/
  | fwStageComplete
  /-- MCTP_MESSAGE_SENT (R542): A queued outgoing MCTP message has been sent on its transport and leaves the queue, which frees room for events and for further management commands. -/
  | mctpMessageSent (via : Nat)
  deriving DecidableEq, Repr

end Sys2Proof
end

