-- ==== Sys2Proof/Decode.lean ====
section
/-! DEFINITION. The command that a word spells by the bits of the opcode table. The table gives no row any bits: commands
come from outside or from the device's own sequencers, never as words of an instruction stream. -/

namespace Sys2Proof

/-- The command of a word: none, since the table gives bits to no row. -/
def decodeTableWord (_nbits _w : Nat) : Option Instr := none

end Sys2Proof
end

