-- ==== Sys2Proof/Machine/State.lean ====
section
/-! DEFINITION. The state of the block: plain data, every piece of state the spec gives the machine, and the queue of
commands that wait. -/

namespace Sys2Proof.Machine

/-! ### Partitions, jobs, cores, memory: 02, 12, 13, 14 -/

/-- A VLAN class of a partition (13 R332). -/
structure Vlan where
  mac : Nat
  kind : Nat
  vid : Nat
  deriving DecidableEq, Repr

/-- A pending MEM_MAP or a MEM_UNMAP whose clearings have not finished (12 R313, R314). -/
structure PageRange where
  first : Nat
  count : Nat
  ticket : Nat
  /-- MEM_UNMAP: loaded jobs whose TRANSLATIONS records cover a page of the range (RESULT0). -/
  jobs : Nat
  deriving DecidableEq, Repr

/-- A partition: its shape (13 R334) and the state of its pages (12 R312, R313). -/
structure Part where
  allowLc : Bool
  allowBe : Bool
  lending : Bool
  /-- Cores that PART_CREATE nominates as exact, how many and which; smoothing mode: true GATE, false DUMMY (R333). -/
  exact : Nat
  exactCores : List Nat
  gate : Bool
  lendSegments : Nat
  tillFirst : Nat
  tillCount : Nat
  tallyFirst : Nat
  tallyCount : Nat
  /-- Bit f: function f is bound (R333). -/
  functions : BitVec 32
  /-- Physical cores, ascending: the partition core indices run over owned, then borrowed (R333). -/
  owned : List Nat
  borrowed : List Nat
  ld : List Nat
  pl : List Nat
  le : List Nat
  purseHbm : Nat
  purseLink : Nat
  purseIod : Nat
  vlans : List Vlan
  /-- Physical pages, in partition page order (12 R312). -/
  allot : List Nat
  /-- MAPPED pages (12 R313). -/
  mapped : Tbl Bool
  mapping : List PageRange
  unmapping : List PageRange
  /-- PART_DESTROY has been accepted: the ticket it completes (R336). -/
  destroying : Option Nat
  deriving DecidableEq, Repr

/-- A tally binding of a core's binding store (02 R60). -/
structure Binding where
  /-- Partition tally index. -/
  tally : Nat
  /-- TALLIES record KIND (02 R53): 0 produced, 1 consumed, 2 free. -/
  kind : Nat
  /-- Stream of a produced or consumed count. -/
  stream : Nat
  /-- n × (DEPTH − 1) of the producer's side, INITIAL of a free tally: what R359 subtracts. -/
  offset : Nat
  stride : List Nat
  base : Int
  deriving DecidableEq, Repr

/-- A stream's buffer or staging buffer on a core (02 R593, R594): ring position `rho`. -/
structure Ring where
  stream : Nat
  /-- First granule address. -/
  first : Nat
  /-- Tile spacing S in granules. -/
  spacing : Nat
  depth : Nat
  /-- What EPOCH_END adds in each plan, modulo DEPTH. -/
  advance : List Nat
  rho : Nat
  /-- 0: the stream's buffer; 1: a staging buffer of its producer; 2: one of its consumer. -/
  side : Nat
  deriving DecidableEq, Repr

/-- A step that has issued and not completed (02 R58). -/
structure Issued where
  unit : Unit_
  word : BitVec 128
  /-- Index in its plan's table. -/
  index : Nat
  /-- FEED, STORE, DIGEST: transactions not yet landed. MINT: none. -/
  open_ : Nat
  deriving DecidableEq, Repr

/-- Where an instance of a job stands on its core (02 R58, R61, R67). -/
inductive InstPhase where
  /-- No invocation runs on the core. -/
  | idle
  /-- Before epoch 0, or between an EPOCH_END and the next epoch (02 R61, R65). -/
  | between
  /-- In an epoch: steps issue. -/
  | running
  /-- Halted at a CHECKPOINT for a yield, live state being saved (02 R67). -/
  | saving
  /-- Saved, waiting in the ready queue to resume (13 R341). -/
  | saved
  /-- The last epoch of the invocation has completed here. -/
  | ended
  deriving DecidableEq, Repr

/-- A job's tables and progress on one core: sequencer, binding store, stream mover (02 R60, R71; 12 R315, R323). -/
structure Inst where
  core : Nat
  /-- The station instances on the core: (station index, instance index) (02 R40). -/
  stations : List (Nat × Nat)
  /-- Vector and signal programs, initial images of X and Y, operand file, as placed (05 R119, 06 R161, 03 R78). -/
  vecProg : Tbl (BitVec 64)
  sigProg : Tbl (BitVec 48)
  sigX : Tbl (BitVec 24)
  sigY : Tbl (BitVec 24)
  opfile : Tbl (BitVec 256)
  /-- Step tables of plans 0-7; an absent plan is empty. -/
  plans : List (List (BitVec 128))
  binds : List Binding
  rings : List Ring
  /-- Where the copy of the step block's page lists lies in scratchpad, a byte address (12 R317). -/
  pageLists : Nat
  /-- Segments the job uses on the core (12 R307). -/
  segments : BitVec 12
  transl : List (BitVec 64)
  /-- Schedule entries by plan × 32,768 + step index (12 R322, R323). -/
  sched : Tbl (List (BitVec 128))
  castSets : List (List Nat)
  /-- Private areas: (station, first granule, bytes) (02 R51). -/
  privates : List (Nat × Nat × Nat)
  /-- Constant blocks and initial images to copy: (first granule, bytes) (12 R309, 06 R163). -/
  constants : List (Nat × List Byte)
  /-- Lent windows declared by placement (13 R339): (plan, index of the step before, index of the step after). -/
  windows : List (Nat × Nat × Nat)
  phase : InstPhase
  /-- Plan of the epoch in progress, its number, and the next step to issue. -/
  plan : Nat
  epoch : Nat
  step : Nat
  issued : List Issued
  /-- With a nonzero EPOCH_PERIOD: device time in ns at which the next epoch is due, and whether it had already passed
  at the EPOCH_END before it (02 R61). -/
  due : Nat
  late : Bool
  /-- Tiles of each stream that the instance has minted in the epoch (04 R106). -/
  minted : List (Nat × Nat)
  /-- Since when the step that stands next stands there (14 R367, R381), and when a yield was requested, in ns (13 R348). -/
  waitSince : Nat
  yieldSince : Nat
  /-- The live state and the context saved at a yield (02 R67, 12 R318). -/
  saved : List (Nat × List Byte)
  deriving DecidableEq, Repr

/-- Counts of one mint parameter entry, layer by layer (04 R112). -/
structure MintCount where
  station : Nat
  entry : Nat
  layerTag : Nat
  total : Nat
  clipped : Nat
  nan : Nat
  /-- Counts of the epochs whose share has not been tested: (epoch, TOTAL, CLIPPED) (04 R114). -/
  epochs : List (Nat × Nat × Nat)
  /-- CLIP_SHARE has been sent for the entry in this invocation (04 R114). -/
  sent : Bool
  deriving DecidableEq, Repr

/-- A partial digest: (point, epoch, instance, CRC, bytes) (14 R374). -/
structure PartDigest where
  point : Nat
  epoch : Nat
  inst : Nat
  bytes : List Byte
  deriving DecidableEq, Repr

/-- A PLAN_SELECT that has been accepted (02 R63). -/
structure PlanSel where
  effect : Nat
  plan : Nat
  ticket : Nat
  deriving DecidableEq, Repr

/-- An uplink eAxC entry and its counters (08 R186, R195). -/
structure EaxcRx where
  id : Nat
  filter : Nat
  lastSeq : Option Nat
  ok : BitVec 32
  early : BitVec 32
  late : BitVec 32
  dup : BitVec 32
  bad : BitVec 32
  gap : BitVec 32
  missing : BitVec 32
  deriving DecidableEq, Repr

/-- What INGEST holds of a slot being received (08 R190-R192): resource blocks written, by (plane × 14 + symbol) × 512 + resource
block; closed symbols; rows posted of each block. Planes at or above 64 are PRACH planes. -/
structure RxSlot where
  slot : Nat
  written : Tbl Bool
  closed : BitVec 14
  posted : List Nat
  /-- PRACH occasions whose tile has been posted. -/
  prachPosted : Nat
  deriving DecidableEq, Repr

/-- What an INGEST station of a job that host software loaded holds while the job runs (08 R188-R195). -/
structure Ingest where
  station : Nat
  rx : List EaxcRx
  rxSlots : List RxSlot
  deriving DecidableEq, Repr

/-- A running invocation (02 R62). -/
structure Invocation where
  /-- It has ended abnormally and its segments are being rinsed (12 R309). -/
  ending : Bool
  /-- Quantities of the epoch in progress that R350 divides: bytes read, written, energy, active, wait, skipped. -/
  use : List Nat
  /-- Device time in ns of the acceptance that starts it, and the cores that have not begun their first epoch (13 R349). -/
  accepted : Nat
  unbegun : List Nat
  number : Nat
  /-- Ticket of the JOB_START, none when a cell, service or adaptation starts it. -/
  ticket : Option Nat
  /-- Tickets of JOB_STOP commands that complete at the end (16 R434). -/
  stops : List Nat
  /-- Last epoch, when JOB_STOP has set one (02 R62). -/
  last : Option Nat
  /-- Device time in ns before which epoch 0 does not begin (02 R61, 13 R342). -/
  start : Nat
  sels : List PlanSel
  /-- Plans assigned by rule: epoch to plan (02 R65), and the next epoch whose rule is to be read. -/
  rulePlans : Tbl Nat
  ruleNext : Nat
  /-- Base of the READY tally for the epoch `ruleNext`. -/
  ruleBase : Int
  matSat : Nat
  vecSat : Nat
  gatherRange : Nat
  sigLimit : Nat
  mints : List MintCount
  digests : List PartDigest
  /-- INGEST stations of a host's job that have received a frame or closed a symbol (08 R188). -/
  ingests : List Ingest
  deriving DecidableEq, Repr

/-- What made a job: a JOB_LOAD, a cell's uplink or downlink, an adaptation, a service on a loaded job (16 R434). -/
inductive JobKind where
  | host
  | cellUp (cell : Nat)
  | cellDown (cell : Nat)
  | adapt (cell : Nat)
  deriving DecidableEq, Repr

/-- A loaded job (02 R62, R73; 16 R432, R433). -/
structure Job where
  part : Nat
  /-- The key-value pool of its service: partition address, frames, bytes of a frame (11 R281, 12 R317). -/
  pool : Option (Nat × Nat × Nat)
  /-- The open service whose epochs it runs (11 R276). -/
  service : Option Nat
  owner : Source
  kind : JobKind
  bestEffort : Bool
  /-- The image, as the tellers read it. -/
  image : List Byte
  insts : List Inst
  digest : BitVec 64
  /-- Partition tallies the job binds: (index, KIND, TALLIES record) (14 R362, R365). -/
  tallies : List (Nat × Nat × Nat)
  /-- Tallies that its LINK station binds as group tallies: (TALLIES index, partition tally, barrier), and its
  GROUP_TAG (17 R471, R474). -/
  groups : List (Nat × Nat × Bool)
  groupTag : Nat
  tills : List Nat
  /-- Windows of its DECODE and ENCODE instances (09 R219): (KIND as in MEND_UPDATE, engine, first cycle, cycles). -/
  windows : List (Nat × Nat × Nat × Nat)
  recordAddr : Nat
  recordPages : Nat
  saveAddr : Nat
  savePages : Nat
  /-- Plan of epoch 0 of the next invocation (02 R62). -/
  plan0 : Nat
  invocations : Nat
  run : Option Invocation
  /-- Selector words, 64 of 32 bits (02 R64, R65). -/
  selectors : Tbl Nat
  /-- Digest records written since JOB_LOAD (16 R433). -/
  digestHead : Nat
  /-- The bases are set again at the next start (14 R359). -/
  rebase : Bool
  /-- CORES of JOB_LOAD (16 R432). -/
  coreMask : Nat
  /-- 0: placed; 1: a core of it has failed, it is placed again at its next start; 2: that was refused (19 R503). -/
  lostCore : Nat
  deriving DecidableEq, Repr

/-- A JOB_LOAD whose validation and placement have not ended (02 R71). -/
structure Loading where
  ticket : Nat
  job : Job
  /-- What placement answered: refusal words, or none. -/
  refusal : Option (Nat × Nat × Nat × Nat)
  handle : Nat
  /-- A voltage floor raise is awaited on these dies (18 R480). -/
  floor : List Nat
  deriving DecidableEq, Repr

/-- Power state of a scratchpad segment (12 R307). -/
inductive SegPower where
  | off | retain | on
  deriving DecidableEq, Repr

/-- A transaction in flight from a stream mover (12 R319, R323). -/
structure Txn where
  job : Nat
  /-- Index of its step, and of its plan. -/
  step : Nat
  plan : Nat
  /-- KIND of the schedule entry, 0-4. -/
  kind : Nat
  stream : Nat
  /-- Local granules, in order, as the tables name them. -/
  near : List Nat
  /-- Physical HBM byte addresses of the granules, or remote granules; none for the null page (11 R281). -/
  far : List Nat
  /-- Destination cores of a cast or remote write, source core of a remote read. -/
  cores : List Nat
  /-- Partition page of each granule. -/
  pages : List Nat
  /-- Data read at issue: of a write, a remote write. -/
  data : List Byte
  deriving DecidableEq, Repr

/-- The scratchpad and the ownership of one physical core (12 R303, R307; 13 R338-R341). -/
structure CoreCtl where
  scratch : Mem
  power : List SegPower
  /-- Segments being rinsed (12 R310). -/
  rinsing : List Nat
  resident : BitVec 12
  /-- The latency-critical job that claims the core (13 R338). -/
  claim : Option Nat
  /-- The job whose instance the core runs now. -/
  run : Option Nat
  /-- The partition a lent window is open to (13 R339). -/
  lentTo : Option Nat
  /-- Best-effort jobs ready on the core, first to run first (13 R341). -/
  ready : List Nat
  /-- A yield has been requested and not finished (01 R33). -/
  yield : Bool
  txns : List Txn
  /-- The job whose operand file, programs, accumulators and registers stand in the engines (03 R85, R92; 05 R136). -/
  tables : Option Nat
  deriving DecidableEq, Repr

/-- A core after reset: every segment OFF, nothing runs (12 R307, R308). -/
def CoreCtl.reset : CoreCtl :=
  { scratch := [], power := List.replicate 12 .off, rinsing := [], resident := 0, claim := none, run := none,
    lentTo := none, ready := [], yield := false, txns := [], tables := none }

/-- An addition not yet visible on every core (14 R360): bit p of `seen`, physical core p sees it. -/
structure Recent where
  amount : Nat
  /-- Device time in ns of the post: t_i of a barrier arrival (14 R379). -/
  time : Nat
  seen : BitVec 72
  deriving DecidableEq, Repr

/-- A tally of the bank (14 R354, R368). -/
structure Tally where
  value : BitVec 64
  posts : BitVec 64
  lastS : BitVec 32
  lastNs : BitVec 32
  lastSource : BitVec 16
  lastAdd : BitVec 32
  overflowed : Bool
  group : Bool
  /-- Bound as a barrier of so many members: its additions are withheld until the release (14 R379). -/
  barrier : Option Nat
  /-- Both copies are uncorrectable (19 R498). -/
  bad : Bool
  recent : List Recent
  deriving DecidableEq, Repr

/-- A tally of a new partition (14 R355). -/
def Tally.zero : Tally :=
  { value := 0, posts := 0, lastS := 0, lastNs := 0, lastSource := 0, lastAdd := 0, overflowed := false,
    group := false, barrier := none, bad := false, recent := [] }

/-- An armed TALLY_WAIT (14 R364, R365). -/
structure Monitor where
  ticket : Nat
  part : Nat
  index : Nat
  threshold : Nat
  timeout : Nat
  /-- Device time in ns at which it was armed. -/
  armed : Nat
  src : Source
  deriving DecidableEq, Repr

/-- A ledger entry (13 R348). -/
structure Ledger where
  part : Nat
  kind : Nat
  client : Nat
  capBinding : Bool
  thermal : Bool
  overflow : Bool
  ended : Bool
  deadlineMiss : Nat
  invocations : Nat
  activeCycles : Nat
  waitCycles : Nat
  skippedPulses : Nat
  queueNs : Nat
  preemptions : Nat
  preemptedNs : Nat
  hbmRead : Nat
  hbmWrite : Nat
  linkBytes : Nat
  portBytes : Nat
  energyUj : Nat
  aborts : Nat
  barrierNs : Nat
  deriving DecidableEq, Repr

/-- Why segments are rinsed, and what follows when the last of them is (12 R309). -/
inductive RinseFor where
  /-- Placement has accepted a job (ticket of its JOB_LOAD or CELL_START). -/
  | load (ticket : Nat)
  /-- JOB_UNLOAD: ticket. -/
  | unload (ticket : Nat)
  /-- An abnormal end: the invocation's status and result words (16 R434, 12 R329). -/
  | abort (job status r0 r1 r2 : Nat)
  /-- A lent window opens to a partition (13 R339). -/
  | lend (core part : Nat)
  /-- A core is handed back at a yield, or a lent window closes (01 R33). -/
  | handBack (core : Nat)
  /-- A segment wakes, or a test, a boot use or PART_DESTROY ends: nothing further. -/
  | other
  deriving DecidableEq, Repr

/-- Rinses in progress for one purpose, on the cores that have not finished (12 R310). -/
structure Rinse where
  cores : List Nat
  use : RinseFor
  deriving DecidableEq, Repr

/-- Partitions, jobs, cores, HBM, tallies and the ledger. -/
structure Work where
  parts : Tbl Part
  jobs : Tbl Job
  /-- The next job handle: nonzero, never reused since cold reset (16 R432). -/
  nextJob : Nat
  loading : List Loading
  cores : Tbl CoreCtl
  /-- HBM by physical byte address (12 R311). -/
  hbm : Mem
  tallies : Tbl Tally
  monitors : List Monitor
  ledger : List Ledger
  rinses : List Rinse
  deriving DecidableEq, Repr

/-- No partition, no job, segments OFF, tallies 0, HBM as MEM_MAP will zero it. -/
def Work.reset : Work :=
  { parts := [], jobs := [], nextJob := 1, loading := [], cores := [], hbm := [], tallies := [], monitors := [],
    ledger := [], rinses := [] }

/-! ### The engines of a core: 03_matrix_arrays, 05_vector_engine, 06_signal_unit -/

/-- One set of an array's stationary registers (03 R74, R84): the block's codes by column, its block scales, its zero
points. No columns: cleared. -/
structure Stationary where
  format : Nat
  wide : Bool
  codes : List (List Nat)
  scales : List (List Nat)
  zps : List Int
  deriving DecidableEq, Repr

/-- Cleared stationary registers (03 R92). -/
def Stationary.cleared : Stationary := { format := 0, wide := false, codes := [], scales := [], zps := [] }

/-- One matrix array: active and shadow registers, whether a reload awaits its swap, the operand entry of the last
RELOAD (03 R74, R79, R84). -/
structure MatArray where
  active : Stationary
  shadow : Stationary
  swap : Bool
  entry : Nat
  deriving DecidableEq, Repr

/-- An array after reset or clearing. -/
def MatArray.cleared : MatArray :=
  { active := Stationary.cleared, shadow := Stationary.cleared, swap := false, entry := 0 }

/-- The arrays of a core: the accumulator space by word (array × 32,768 + row × 32 + column, 03 R85), and the operand
file (03 R78). -/
structure Matrix where
  acc : Tbl (BitVec 32)
  arrays : List MatArray
  opfile : Tbl (BitVec 256)
  deriving DecidableEq, Repr

/-- The arrays after reset. -/
def Matrix.reset : Matrix := { acc := [], arrays := List.replicate 4 MatArray.cleared, opfile := [] }

/-- A LOOP in progress (05 R126, R135): first and last instruction of the body, iterations left after this one. -/
structure VLoop where
  first : Nat
  last : Nat
  left : Nat
  deriving DecidableEq, Repr

/-- A vector engine (05 R119): M0 and P0 are not stored, they are constants. -/
structure VecUnit where
  v : Tbl (BitVec 2048)
  m : Tbl (BitVec 256)
  p : Tbl (BitVec 32)
  prog : Tbl (BitVec 64)
  active : Bool
  pc : Nat
  stop : Nat
  loops : List VLoop
  deriving DecidableEq, Repr

/-- The vector engine after reset (05 R136): registers 0. -/
def VecUnit.reset : VecUnit :=
  { v := [], m := [], p := [], prog := [], active := false, pc := 0, stop := 0, loops := [] }

/-- An entry of the signal unit's loop stack (06 R153, R154). -/
inductive SigFrame where
  | loop (first last left : Nat)
  | call (ret : Nat)
  deriving DecidableEq, Repr

/-- A signal unit (06 R140-R143): registers, memories, and where its program stands. -/
structure SigUnit where
  d : Tbl (BitVec 24)
  a : Tbl (BitVec 56)
  ptr : Tbl (BitVec 15)
  bas : Tbl (BitVec 15)
  len : Tbl (BitVec 16)
  modif : Tbl (BitVec 16)
  csw : BitVec 16
  stack : List SigFrame
  latch : BitVec 48
  repeat_ : Nat
  /-- The repeat latch is issuing (06 R154). -/
  repeating : Bool
  x : Tbl (BitVec 24)
  y : Tbl (BitVec 24)
  prog : Tbl (BitVec 48)
  pc : Nat
  /-- A taken branch waits for its delay slots: slots left and target (06 R153). -/
  branch : Option (Nat × Nat)
  running : Bool
  /-- Halted for debug (06 R166). -/
  halted : Bool
  /-- A stop request is pending for the next event boundary (06 R166). -/
  stopPending : Bool
  /-- The pending stop is for a fault or a reset, and ends the program (06 R166, R167). -/
  stopEnds : Bool
  /-- After a single step, the unit must leave the boundary it stands at before it halts again (06 R166). -/
  mustMove : Bool
  /-- The pointer that the instruction before wrote, or whose base, length or modifier it wrote, by LDP or PCOPY (06 R147). -/
  guarded : Option Nat
  /-- Tickets of DBG_HALT and DBG_STEP commands waiting (16 R441). -/
  haltTickets : List Nat
  deriving DecidableEq, Repr

/-- The signal unit at JOB_START and after reset (06 R140). -/
def SigUnit.reset : SigUnit :=
  { d := [], a := [], ptr := [], bas := [], len := [], modif := [], csw := 0, stack := [], latch := 0, repeat_ := 0,
    repeating := false, x := [], y := [], prog := [], pc := 0, branch := none, running := false, halted := false,
    stopPending := false, stopEnds := false, mustMove := false, guarded := none, haltTickets := [] }

/-- The engines of one physical core. -/
structure Engines where
  mat : Matrix
  vec : VecUnit
  sig : SigUnit
  deriving DecidableEq, Repr

/-- The engines after reset. -/
def Engines.reset : Engines := { mat := Matrix.reset, vec := VecUnit.reset, sig := SigUnit.reset }

/-! ### Cells: 08_uplink_receive_chain, 09_coding_and_downlink, 10_receiver_adaptation -/

/-- A downlink or uplink C-plane entry (09 R235) and its counters (16 R439). -/
structure EaxcTx where
  id : Nat
  beam : Nat
  filter : Nat
  late : BitVec 32
  frames : BitVec 32
  /-- Next ecpriSeqid of its U-plane and of its C-plane messages. -/
  seq : BitVec 8
  cseq : BitVec 8
  deriving DecidableEq, Repr

/-- A tracking context (08 R205): frequency in 2^-16 Hz, timing in 2^-16 ns, the loop integrators, slots since its last use. -/
structure TrackCtx where
  rnti : Nat
  freq : Int
  freqI : Int
  time : Int
  timeI : Int
  age : Nat
  deriving DecidableEq, Repr

/-- A code block laid into an engine's window (09 R227): engine, first cycle of the decode interval, decoded bits. -/
structure BlockPlace where
  engine : Nat
  start : Nat
  bits : Option (List Bool)
  /-- Whether its CRC24B passed (of a segmented transport block), and whether the syndrome of its final bits is 0 (09 R222, R225). -/
  crcPassed : Bool
  syndromeZero : Bool
  deriving DecidableEq, Repr

/-- What the uplink chain measured of one PUSCH PDU of a slot (08 R204, R212-R214): residual errors in 2^-16 Hz and 2^-16 ns, report figures
in the units of R213. -/
structure LinkFig where
  pdu : Nat
  source : Nat
  freqErr : Int
  timeErr : Int
  evm : Int
  sinrAvg : Int
  sinrEff : Int
  noise : Int
  rsrp : Int
  cpeRms : Nat
  erasedRe : Nat
  llrSat : Nat
  deriving DecidableEq, Repr

/-- A PUSCH PDU of a slot descriptor (08 R196, 09 R227, R240). -/
structure UlRec where
  index : Nat
  pdu : PuschPdu
  /-- It has a tracking context, and the context was assigned in this slot (08 R205, R217). -/
  ctx : Bool
  ctxNew : Bool
  blocks : List BlockPlace
  /-- Where its decoded bits lie in the receive region (09 R225). -/
  rxOffset : Nat
  /-- The CRC of the transport block, when it is decoded (09 R225). -/
  passed : Option Bool
  fig : Option LinkFig
  /-- Its LLR codes in codeword order, once LLR selection has written them (08 R212). -/
  llr : Option (List Int)
  /-- τ̂ after the slot's update, in 2^-16 ns: TIMING of the link report (08 R213). -/
  tau : Int
  deriving DecidableEq, Repr

/-- A PUCCH PDU of formats 2-4 of a slot: index, handle, RNTI, payload bits, first cycle, its decoded payload (09 R229). -/
structure PolarRec where
  index : Nat
  handle : Nat
  rnti : Nat
  bits : Nat
  engine : Nat
  start : Nat
  done : Bool
  deriving DecidableEq, Repr

/-- An uplink slot: its descriptor, and what remains of it until its indications are sent (08 R196, R197). -/
structure UlSlot where
  slot : Nat
  sfn : Nat
  slotInFrame : Nat
  recs : List UlRec
  polar : List PolarRec
  /-- PRACH occasions: repetitions, first symbol, sequence length 839 (08 R194). -/
  prach : List (Nat × Nat × Bool)
  /-- PRACH tiles of the slots before it, when it is fixed (08 R194). -/
  prachBase : Nat
  /-- The chain's results have arrived (08 R213). -/
  reported : Bool
  /-- CRC.indication and RX_DATA.indication have been sent (09 R241). -/
  indicated : Bool
  deriving DecidableEq, Repr

/-- A downlink slot (09 R234): its PDUs, payloads, encoded blocks as (PDU, block). -/
structure DlSlot where
  slot : Nat
  pdus : List DlPdu
  dci : List DlPdu
  tx : List TxEntry
  encoded : List (Nat × Nat)
  /-- A DL_TTI.request has been accepted. -/
  given : Bool
  /-- Its descriptor has been written: nothing is added any more. -/
  built : Bool
  deriving DecidableEq, Repr

/-- A HARQ soft buffer (09 R228): key, transport block size, place in the pool, bytes of each code block, highest position held,
slot of its last use. -/
structure Harq where
  rnti : Nat
  harq : Nat
  tbBits : Nat
  offset : Nat
  bytes : Nat
  /-- One more than the highest position that holds a value, of each code block (09 R221). -/
  top : List Nat
  lastSlot : Nat
  deriving DecidableEq, Repr

/-- A FAPI message partly received (09 R238): next segment, segments, bytes of the whole, what has come. -/
structure FapiPart where
  next : Nat
  segs : Nat
  len : Nat
  bytes : List Byte
  deriving DecidableEq, Repr

/-- Per-PDU sums of an evaluation (10 R261). -/
structure EvalSum where
  qm : Nat
  cCand : Nat
  cLive : Nat
  eCand : Nat
  eLive : Nat
  deriving DecidableEq, Repr

/-- A switch of the live receiver that is pending (10 R246, R264, R266, R271). -/
structure LiveChange where
  /-- The slot that becomes live; none: the classical receiver. -/
  slot : Option Nat
  rollback : Bool
  trigger : Nat
  /-- Slot number of the effect epoch. -/
  effect : Nat
  ticket : Option Nat
  /-- The figures that the event reports. -/
  figures : Nat × Nat
  /-- The deploy blocks are in the live weight region: the switch takes effect as its epoch begins (10 R246). -/
  copied : Bool
  deriving DecidableEq, Repr

/-- A training round in progress (10 R254). -/
structure Round where
  number : Nat
  startNs : Nat
  /-- Frozen records: (sequence number, bin). -/
  frozen : List (Nat × Nat)
  /-- The slot it starts from. -/
  base : Nat
  deriving DecidableEq, Repr

/-- A PDU of a staging entry (10 R248, R252): index, its fields, whether its CRC passed, its labelled bits with the live LLR codes. -/
structure StagedPdu where
  index : Nat
  pdu : PuschPdu
  passed : Bool
  bits : List (Bool × Int)
  deriving DecidableEq, Repr

/-- A staging entry written and not processed (10 R247-R252): its slot counter, data elements of the block and labelled ones, SINR_EFF of the
PDU with the most labelled elements, its PDUs and label area. -/
structure Staged where
  entry : Nat
  n : Nat
  data : Nat
  labelled : Nat
  sinr : Int
  pdus : List StagedPdu
  labels : List Byte
  deriving DecidableEq, Repr

/-- The adaptation of a cell (10_receiver_adaptation). -/
structure Adapt where
  /-- Body of the last accepted ADAPT_CONFIG with ACTION 0 (10 R268). -/
  config : List Byte
  owner : Source
  job : Option Nat
  phase : Nat
  /-- The phase OFF to which a cell returns when ENABLE is 0, else TRAINING. -/
  enable : Bool
  auto : Bool
  /-- Evaluated PDUs since the evaluation, or the reversed evaluation, began, oldest first. -/
  sums : List EvalSum
  evalSlot : Nat
  livePdus : Nat
  liveFails : Nat
  /-- Baseline failure share B (10 R262). -/
  baseline : Nat
  round : Option Round
  rounds : Nat
  roundNumber : Nat
  /-- Slot at which the last round started. -/
  lastRound : Option Nat
  /-- Ledger: next sequence number, and (sequence number, bin) of the records held. -/
  nextRecord : Nat
  records : List (Nat × Nat)
  change : Option LiveChange
  /-- Slot E of the promotion on probation; learned PDUs not tested yet, oldest first, a failure true; PDUs tested; PDUs and failures
  of the whole probation. -/
  probationFrom : Nat
  outcomes : List Bool
  tested : Nat
  probPdus : Nat
  probFails : Nat
  history : Nat
  /-- Staging entries written and not processed (10 R251). -/
  staged : List Staged
  deriving DecidableEq, Repr

/-- A cell without adaptation. -/
def Adapt.reset : Adapt :=
  { config := [], owner := .mgmt, job := none, phase := 0, enable := false, auto := false, sums := [], evalSlot := 0,
    livePdus := 0, liveFails := 0, baseline := 65536, round := none, rounds := 0, roundNumber := 0, lastRound := none, nextRecord := 0,
    records := [], change := none, probationFrom := 0, outcomes := [], tested := 0, probPdus := 0, probFails := 0,
    history := 0, staged := [] }

/-- A started cell-carrier (16 R437, R438). -/
structure Cell where
  part : Nat
  owner : Source
  /-- CELL_START that waits for the uplink job's first epoch. -/
  starting : Option Nat
  up : Nat
  down : Nat
  /-- Body of CELL_START and the cell configuration block. -/
  fields : List Byte
  config : List Byte
  learned : Bool
  /-- Absolute slot number that epoch 0 of the uplink job, and of the downlink job, processes. -/
  firstUp : Nat
  firstDown : Nat
  /-- Next slot of each job whose descriptor is to be posted (08 R196, 09 R234). -/
  nextUp : Nat
  nextDown : Nat
  /-- Next uplink slot whose UL_TTI.request is still awaited: at its air start it is fixed (08 R197); PRACH occasions of the fixed
  slots (08 R194). -/
  nextFixed : Nat
  prachTotal : Nat
  /-- Downlink symbol tiles: when each was posted, in ns, and those that EGRESS found late (09 R237). -/
  symPosts : Tbl Nat
  lateTiles : List Nat
  rx : List EaxcRx
  tx : List EaxcTx
  /-- Uplink C-plane entries (16 R438). -/
  ulTx : List EaxcTx
  rxSlots : List RxSlot
  contexts : List TrackCtx
  /-- Contexts as the results of the slot in process leave them: in force when its epoch ends (08 R205). -/
  updates : List TrackCtx
  /-- The slot on air when each of the contexts freed last was freed, so that none is assigned again in the same slot (08 R205). -/
  freed : List Nat
  ul : List UlSlot
  dl : List DlSlot
  harq : List Harq
  fapi : Option FapiPart
  harqNospace : BitVec 32
  harqMismatch : BitVec 32
  dlSat : BitVec 32
  deadlineMiss : BitVec 32
  captureSkipped : BitVec 32
  shadowSkipped : BitVec 32
  slots : BitVec 64
  /-- CELL_STOP without NOW: its ticket, and the last slot that is processed. -/
  stopping : Option (Nat × Nat)
  deriving DecidableEq, Repr

/-- The radio service: started cells by index; what adaptation keeps of a cell from one CELL_START to the next. -/
structure Radio where
  cells : Tbl Cell
  adapts : Tbl Adapt
  deriving DecidableEq, Repr

/-- No cell is started. -/
def Radio.reset : Radio := { cells := [], adapts := [] }


/-! ### Inference services: 11_attention_and_kv_pages -/

/-- A page directory entry (11 R283), and when its eviction was noticed. -/
structure KvPage where
  /-- 0 FREE, 1 RESIDENT, 2 NOTICED, 3 COMMITTED, 4 HOST, 5 LOADING. -/
  state : Nat
  shareable : Bool
  registered : Bool
  fill : Nat
  share : Nat
  frame : Option Nat
  hostSlot : Option Nat
  hash : BitVec 64
  noticeShare : Nat
  lastUse : Nat
  noticed : Nat
  deriving DecidableEq, Repr

/-- A session's generation in progress (11 R294, R298). -/
structure Generate where
  ticket : Nat
  left : Nat
  emitted : Nat
  stops : List Nat
  speculate : Bool
  deriving DecidableEq, Repr

/-- A session (11 R294-R300). -/
structure Session where
  id : Nat
  client : Nat
  share : Bool
  /-- 0 OPENING, 1 PREFILL, 2 IDLE, 3 GENERATING. -/
  phase : Nat
  /-- Prompt tokens that SESSION_OPEN announced. -/
  total : Nat
  /-- Page indices, in order. -/
  pages : List Nat
  /-- Positions held. -/
  length : Nat
  /-- Tokens of the positions held, and tokens queued. -/
  held : List Nat
  queued : List Nat
  /-- A decode step has run. -/
  decoded : Bool
  root : Option Nat
  drafts : List Nat
  prior : Nat
  compact : List Nat
  gen : Option Generate
  /-- Ticket of the oldest pending request: requests take tickets in order of arrival. -/
  asked : Nat
  /-- Device time in ns at which it became eligible, and since when no frame could be allocated (11 R294, 13 R349). -/
  eligible : Nat
  starved : Option Nat
  /-- SESSION_FORKs that wait for the step in progress: ticket, client, source address (11 R302). -/
  forks : List (Nat × Nat × Nat)
  /-- Source address of its last request (17 R450), and the till of its replies. -/
  addr : Nat
  closing : Option Nat
  deriving DecidableEq, Repr

/-- A slot of a step block (11 R291): session and the tokens computed, with their parents. -/
structure BatchSlot where
  session : Nat
  tokens : List Nat
  parents : List Nat
  deriving DecidableEq, Repr

/-- A batch: epoch, decode or prefill, slots in use (11 R291). -/
structure Batch where
  epoch : Nat
  prefill : Bool
  slots : List BatchSlot
  deriving DecidableEq, Repr

/-- An open service (11 R276). -/
structure Svc where
  job : Nat
  part : Nat
  owner : Source
  /-- Body of SVC_OPEN. -/
  fields : List Byte
  pages : List KvPage
  sessions : List Session
  nextSession : Nat
  batches : List Batch
  steps : Nat
  /-- Page copied to the host, page reloaded, and SVC_CLOSE in progress. -/
  copying : Option Nat
  loading : Option Nat
  /-- Pages that wait for their reload, oldest first (11 R289, R290). -/
  reloads : List Nat
  closing : Option Nat
  deriving DecidableEq, Repr


/-! ### Host interface: 15_host_interface, 16_command_messages -/

/-- STATE of a till record (15 R405). -/
inductive TillState where
  | unconfigured | running | stopped | error
  deriving DecidableEq, Repr

/-- A till: the fields of its record (15 R405), then what the device keeps of it beside the record. -/
structure Till where
  prod : BitVec 16
  cons : BitVec 16
  state : TillState
  armed : Bool
  reason : BitVec 8
  dropped : BitVec 16
  depth : BitVec 3
  kind : BitVec 3
  doorbell : BitVec 10
  base : BitVec 18
  vector : BitVec 11
  mirror : Bool
  mirrorAddr : BitVec 64
  /-- The function that configured the till (16 R428). -/
  holder : Source
  /-- The default completion till of a command till (16 R419, R428): a till number. -/
  defaultReply : Nat
  /-- Slots reserved for the completions of commands in progress (15 R407). -/
  reserved : Nat
  /-- Messages produced for the till, modulo 256 (16 R420). -/
  seq : BitVec 8
  /-- A message has been discarded since the last one written (16 R420 LOST). -/
  lost : Bool
  deriving DecidableEq, Repr

/-- A till that no TILL_CONFIG has set up (15 R405 reset column). -/
def Till.none : Till :=
  { prod := 0, cons := 0, state := .unconfigured, armed := true, reason := 0, dropped := 0, depth := 0, kind := 0,
    doorbell := 0x3FF, base := 0, vector := 0, mirror := false, mirrorAddr := 0, holder := .mgmt, defaultReply := 0,
    reserved := 0, seq := 0, lost := false }

/-- Function till k of function f at reset (15 R405 reset column). -/
def Till.function (f : Fin 32) (k : Nat) : Till :=
  { Till.none with
    state := .running, depth := 2, kind := BitVec.ofNat 3 k, doorbell := BitVec.ofNat 10 k,
    base := BitVec.ofNat 18 (768 * f.val + 256 * k), vector := BitVec.ofNat 11 k, holder := .fn f,
    defaultReply := 3 * f.val + 1 }

/-- The registers and state of one function (15 R392-R401, R408, R413). -/
structure Fn where
  dbEnable : Bool
  /-- A function reset is in progress: RESET_PENDING, RESETTING (15 R394, R403). -/
  resetting : Bool
  /-- The reset in progress was a soft reset (15 R413). -/
  softReset : Bool
  quiesce : Bool
  error : BitVec 8
  errAddr : BitVec 36
  errWindow : BitVec 3
  errBit : BitVec 8
  errValid : Bool
  irqCause : BitVec 4
  irqMask : BitVec 4
  holdoff : BitVec 16
  ledger : List Byte
  ledgerValid : Bool
  tallySelect : BitVec 13
  tallyRecord : List Byte
  tallyValid : Bool
  tallyOutOfRange : Bool
  /-- Negotiated host interface version of the HELLO session: (major, minor) (16 R425). -/
  session : Option (Nat × Nat)
  /-- Bus Master Enable, MSI-X Enable and Function Mask of configuration space (15 R408, R411). -/
  busMaster : Bool
  msixEnable : Bool
  msixMask : Bool
  /-- The MSI-X table, 2,048 entries of 16 bytes, each byte as its difference from its value at reset (15 R404, R408; log 82). -/
  msixTable : Mem
  /-- The pending-bit array: vectors due while masked (15 R408). -/
  msixPending : List Nat
  /-- Vectors within HOLDOFF of their previous message, and those due at its end (15 R399). -/
  cooling : List Nat
  heldVectors : List Nat
  deriving DecidableEq, Repr

/-- A function right after reset (15 R393-R401 reset columns). -/
def Fn.reset : Fn :=
  { dbEnable := false, resetting := false, softReset := false, quiesce := false, error := 0, errAddr := 0,
    errWindow := 0, errBit := 0, errValid := false, irqCause := 0, irqMask := 0xF, holdoff := 0, ledger := [],
    ledgerValid := false, tallySelect := 0, tallyRecord := [], tallyValid := false, tallyOutOfRange := false,
    session := none, busMaster := false, msixEnable := false, msixMask := false, msixTable := [], msixPending := [],
    cooling := [], heldVectors := [] }

/-- A command that the tellers have taken and not completed: what its completion needs (16 R421, 15 R407). -/
structure Ticket where
  id : Nat
  src : Source
  till : Option Nat
  reply : Nat
  opcode : Nat
  seq : BitVec 8
  tag : BitVec 64
  /-- Of a management command: the transport and endpoint that its completion returns to (21 R541). -/
  via : Nat × Nat
  deriving DecidableEq, Repr

/-- What the device sends to the outside (the model's own record of it, oldest first). -/
inductive Output where
  /-- An MSI-X message of a function (15 R408). -/
  | msix (f vector : Nat)
  /-- The data of a read of MW4 (15 R409). -/
  | readData (f : Nat) (data : List Byte)
  /-- An error reported through AER (15 R410, R411). -/
  | aer (f : Nat) (what : String)
  /-- A frame sent by a MAC: its port, what it is, and its content (17). -/
  | frame (port : Nat) (what : String) (data : List Byte)
  /-- An MCTP message put on a transport (21 R541). -/
  | mctp (transport : Nat) (type : Nat) (data : List Byte)
  /-- An addition or tile sent on a Relne port (17 R472, R473). -/
  | relne (port : Nat) (what : String) (data : List Nat)
  /-- An AVSBus command: rail and millivolts (18 R481). -/
  | avs (rail mv : Nat)
  /-- An edge or message on a timing pin (17 R460, R461). -/
  | timing (what : String) (data : List Nat)
  /-- A transaction on an optics bus (21 R547). -/
  | optics (bus : Nat) (what : String)
  deriving DecidableEq, Repr

/-- The chip area registers of this chapter and configuration space (15 R386, R387, R403). -/
structure Chip where
  lock : Bool
  /-- CHIP_LOCK, a WO1 register, has had its first write (00 R9). -/
  lockWritten : Bool
  vfDebugOff : Bool
  vfMw4Off : Bool
  mgmtCapOnly : Bool
  lockLogOffset : BitVec 14
  lockLogFn : BitVec 5
  lockLogValid : Bool
  lockCount : BitVec 32
  mw4Part : BitVec 3
  mw4Sel : Bool
  /-- The PCIe link is up (15 R386). -/
  linkUp : Bool
  /-- SR-IOV VF Enable and NumVFs (15 R387). -/
  vfEnable : Bool
  numVFs : Nat
  /-- PF0 is in D3hot (15 R386). -/
  d3hot : Bool
  deriving DecidableEq, Repr

/-- The chip area after cold reset (15 R403 reset column). -/
def Chip.reset : Chip :=
  { lock := false, lockWritten := false, vfDebugOff := false, vfMw4Off := false, mgmtCapOnly := false, lockLogOffset := 0, lockLogFn := 0,
    lockLogValid := false, lockCount := 0, mw4Part := 0, mw4Sel := false, linkUp := false, vfEnable := false,
    numVFs := 0, d3hot := false }

/-- A command that waits for a restart: ticket, opcode, version of its session, message (18 R493). -/
structure Held where
  tid : Nat
  op : Nat
  ver : Nat
  m : Msg
  deriving DecidableEq, Repr

/-- The host interface: tills and till memory, functions, chip area, commands in progress, host memory as device DMA
sees it, and what has been sent. -/
structure HostIf where
  tills : Tbl Till
  tillMem : Mem
  fns : Tbl Fn
  chip : Chip
  tickets : List Ticket
  nextTicket : Nat
  /-- BYE commands that wait for earlier commands of their source: ticket and source (16 R426). -/
  byes : List (Nat × Source)
  /-- The session of the management endpoint (16 R426). -/
  mgmtSession : Option (Nat × Nat)
  hostMem : Mem
  /-- Source address of the service frame that filled a slot of till memory (17 R450). -/
  frameSrc : Tbl Nat
  /-- Slots of till memory that hold an uncorrectable word (19 R498). -/
  badSlots : List Nat
  /-- Commands taken whose execution needs an island that a flow loss has halted (18 R493). -/
  held : List Held
  deriving DecidableEq, Repr

/-- The host interface after cold reset: the function tills, nothing in progress. -/
def HostIf.reset : HostIf :=
  { tills := (List.range 96).map fun n => (n, Till.function (Fin.ofNat 32 (n / 3)) (n % 3)),
    tillMem := [], fns := [], chip := Chip.reset, tickets := [], nextTicket := 1, byes := [], mgmtSession := none, hostMem := [], frameSrc := [],
    badSlots := [], held := [] }

/-! ### Ethernet, time and the Relne link: 17_network_timing_and_link -/

/-- A MAC and its register block (17 R446-R453). -/
structure Mac where
  up : Bool
  speed : BitVec 3
  en : Bool
  classMask : BitVec 4
  xpn : Bool
  txAn : Bool
  /-- AN of the receive key installed last; the only AN that is still accepted, once a frame under it has verified (R452). -/
  rxNew : Bool
  rxAn : Option Bool
  rxFrames : BitVec 32
  txFrames : BitVec 32
  fcsErr : BitVec 32
  oversize : BitVec 32
  untagged : BitVec 32
  unknownVlan : BitVec 32
  unknownEaxc : BitVec 32
  macsecDrop : BitVec 32
  svcBad : BitVec 32
  svcFull : BitVec 32
  lldpRx : BitVec 32
  linkDown : BitVec 32
  deriving DecidableEq, Repr

/-- A MAC after reset, with PORT_MAP 0. -/
def Mac.reset : Mac :=
  { up := false, speed := 0, en := false, classMask := 0, xpn := false, txAn := false, rxNew := false, rxAn := none, rxFrames := 0,
    txFrames := 0, fcsErr := 0, oversize := 0, untagged := 0, unknownVlan := 0, unknownEaxc := 0, macsecDrop := 0,
    svcBad := 0, svcFull := 0, lldpRx := 0, linkDown := 0 }

/-- What a port has received in Announce messages of its best master (17 R456): identity, clockClass, accuracy, variance,
priority2, the port states and the intervals of its Announce and Sync in ns. -/
structure Parent where
  identity : BitVec 64
  clockClass : BitVec 8
  accuracy : BitVec 8
  variance : BitVec 16
  priority2 : BitVec 8
  utcOffset : BitVec 16
  leap61 : Bool
  leap59 : Bool
  deriving DecidableEq, Repr

/-- A PTP port (17 R466) and its measurements: times in units of 2^-16 ns. -/
structure PtpPort where
  en : Bool
  masterOnly : Bool
  tagged : Bool
  addr : Bool
  vlan : BitVec 12
  asymIngress : BitVec 32
  asymEgress : BitVec 32
  delayAsym : BitVec 32
  meanPathDelay : BitVec 32
  portState : BitVec 4
  unsupported : BitVec 28
  ipAddr : BitVec 32
  ipv6 : Bool
  parent : Option Parent
  /-- t2 − t1 of the last Sync, its corrections applied. -/
  msDelay : Option Int
  /-- t3 of the Delay_Req that waits for its Delay_Resp. -/
  t3 : Option Int
  /-- meanPathDelay, in 2^-16 ns, once it has been measured. -/
  mean : Option Int
  /-- sequenceId of the next message sent. -/
  seq : BitVec 16
  /-- G.8275.2 grants held by peers of this master port, and grants that this port holds: (peer, message type, log2 of the
  interval) (R456). -/
  grants : List (Nat × Nat × Int)
  granted : List (Nat × Nat × Int)
  deriving DecidableEq, Repr

/-- A PTP port after reset (17 R466). -/
def PtpPort.reset : PtpPort :=
  { en := false, masterOnly := false, tagged := false, addr := false, vlan := 0, asymIngress := 0, asymEgress := 0,
    delayAsym := 0, meanPathDelay := 0, portState := 3, unsupported := 0, ipAddr := 0, ipv6 := false, parent := none,
    msDelay := none, t3 := none, mean := none, seq := 0, grants := [], granted := [] }

/-- Synchronisation states (17 R462, R465). -/
inductive SyncState where
  | freeRun | acquiring | locked | holdover
  deriving DecidableEq, Repr

/-- The timing unit: device time and the registers of 0x8C00-0x8C54 (17 R454-R465). -/
structure Timing where
  /-- Device time (R454). -/
  time : BitVec 128
  /-- The part of device time below 2^-16 ns, in units of 2^-48 ns, and the rate word's departure from 1 ns in those
  units. -/
  frac : BitVec 32
  rate : Int
  source : BitVec 2
  profile : Bool
  bc : Bool
  ppsOutEn : Bool
  todOutEn : Bool
  todInEn : Bool
  freqRef : Bool
  synceEn : Bool
  domain : BitVec 8
  priority2 : BitVec 8
  state : SyncState
  ppsLost : Bool
  todLost : Bool
  clk10mLost : Bool
  linkTime : Bool
  slaveMac : BitVec 3
  holdoverS : BitVec 16
  holdoverLimit : BitVec 32
  latch : BitVec 128
  setNs : BitVec 32
  setLo : BitVec 32
  setHi : BitVec 32
  utcOffset : BitVec 16
  leap61 : Bool
  leap59 : Bool
  clockClass : BitVec 8
  accuracy : BitVec 8
  variance : BitVec 16
  offset : BitVec 32
  width : BitVec 16
  ppsInDelay : BitVec 32
  ppsOutDelay : BitVec 32
  baud : BitVec 3
  src0 : BitVec 3
  out0 : Bool
  src1 : BitVec 3
  out1 : Bool
  qlTx : BitVec 4
  esmcEn : Bool
  qlRx0 : BitVec 4
  qlRx1 : BitVec 4
  esmcTimeout0 : Bool
  esmcTimeout1 : Bool
  /-- A measurement has been made since the source was last lost, and the source is not lost (R463). -/
  present : Bool
  /-- Consecutive measurements with an offset of at most 100 ns while ACQUIRING, and the whole seconds they span
  (R462): start time of the run in ns, none when the last measurement was outside. -/
  goodSince : Option Nat
  /-- The last measurements' times in ns, at most 16: LOCKED wants 16 a second of SOURCE 1 (R462). -/
  marks : List Nat
  /-- The step of ACQUIRING has been made (R455). -/
  stepped : Bool
  /-- Rate words of LOCKED, one for each measurement of the last 1,000 s: (time in s, rate) (R464). -/
  rates : List (Nat × Int)
  /-- Integral part of the servo (R464). -/
  integral : Int
  /-- The rate around which an offset is slewed out after HOLDOVER (R462). -/
  slewBase : Option Int
  /-- The rate that CLK10M_IN gives, when it was last restored (R459). -/
  clk10mRate : Int
  /-- The last accepted PPS_IN edge that no time-of-day message has named: its device time in ns (R460, R461). -/
  ppsEdge : Option Nat
  /-- Seconds that a time-of-day message has named for the edge after the last. -/
  todSeconds : Option Nat
  deriving DecidableEq, Repr

/-- The timing unit after cold reset (17 R465). -/
def Timing.reset : Timing :=
  { time := 0, frac := 0, rate := 0, source := 0, profile := false, bc := false, ppsOutEn := false, todOutEn := false,
    todInEn := false, freqRef := false, synceEn := false, domain := 24, priority2 := 128, state := .freeRun,
    ppsLost := true, todLost := true, clk10mLost := true, linkTime := false, slaveMac := 0, holdoverS := 0,
    holdoverLimit := 86400, latch := 0, setNs := 0, setLo := 0, setHi := 0, utcOffset := 37, leap61 := false,
    leap59 := false, clockClass := 248, accuracy := 0xFE, variance := 0xFFFF, offset := 0, width := 10000,
    ppsInDelay := 0, ppsOutDelay := 0, baud := 4, src0 := 0, out0 := false, src1 := 0, out1 := false, qlTx := 0xF,
    esmcEn := false, qlRx0 := 0xF, qlRx1 := 0xF, esmcTimeout0 := true, esmcTimeout1 := true, present := false,
    goodSince := none, marks := [], stepped := false, rates := [], integral := 0, slewBase := none, clk10mRate := 0,
    ppsEdge := none, todSeconds := none }

/-- A Relne port (17 R465, R468): what the link hello of the far end said. -/
structure RelnePort where
  up : Bool
  protocol : BitVec 2
  miswired : Bool
  retries : BitVec 16
  peerId : BitVec 64
  peerPriority : BitVec 4
  deriving DecidableEq, Repr

/-- A Relne port that is down. -/
def RelnePort.down : RelnePort :=
  { up := false, protocol := 0, miswired := false, retries := 0, peerId := 0, peerPriority := 0 }

/-- The Relne link and the group (17 R465, R468-R470). -/
structure Relne where
  /-- The fused device identity (R468). -/
  identity : BitVec 64
  rootPriority : BitVec 4
  portEn : BitVec 4
  ports : List RelnePort
  members : BitVec 5
  chip : BitVec 4
  protocol : BitVec 2
  root : Bool
  groupFault : Bool
  linkTimeErr : BitVec 32
  /-- A link has changed since the group was last formed (R469). -/
  unsettled : Bool
  /-- The other members: identity and group chip index (R469). -/
  others : List (BitVec 64 × Nat)
  /-- The step of joining a protocol 2 group has been made (R470). -/
  joined : Bool
  deriving DecidableEq, Repr

/-- Relne after reset. -/
def Relne.reset : Relne :=
  { identity := 0, rootPriority := 8, portEn := 0xF, ports := List.replicate 4 RelnePort.down, members := 1, chip := 0,
    protocol := 0, root := false, groupFault := false, linkTimeErr := 0, unsettled := false, others := [], joined := false }

/-- Ethernet, timing and Relne. -/
structure Net where
  macs : List Mac
  /-- Fused base of the MAC addresses (R447). -/
  macBase : BitVec 48
  ptp : List PtpPort
  timing : Timing
  relne : Relne
  deriving DecidableEq, Repr

def Net.reset : Net :=
  { macs := List.replicate 8 Mac.reset, macBase := 0, ptp := List.replicate 8 PtpPort.reset, timing := Timing.reset,
    relne := Relne.reset }

/-! ### Power: 18_power_and_thermal -/

/-- The voltage state of a compute die (18 R477-R481, R496). -/
structure DiePower where
  settled : Nat
  target : Nat
  slewing : Bool
  /-- Points commanded since the last settled one (R481). -/
  commanded : List Nat
  ceiling : Nat
  /-- The settle timeout has passed: the command is sent again every 64 ms. -/
  timedOut : Bool
  trips : Nat
  /-- A droop mask holds on the partitions of the die (R489). -/
  droop : Bool
  deriving DecidableEq, Repr

/-- A compute die at the boot point 2 (22 R559). -/
def DiePower.boot : DiePower :=
  { settled := 2, target := 2, slewing := false, commanded := [], ceiling := 1200, timedOut := false, trips := 0, droop := false }

/-- The clock masks of a partition (18 R482, R496): delivered pulses of 256 of each mask. -/
structure PartPower where
  /-- Partition cap in mW; 0: none (16 R435). -/
  cap : Nat
  capMask : Nat
  thermalMask : Nat
  droopMask : Nat
  /-- The last frame: pulses delivered, and which masks skipped. -/
  delivered : BitVec 9
  byCap : Bool
  byThermal : Bool
  byDroop : Bool
  /-- Mean effective clock of the last 1 ms in MHz. -/
  effective : BitVec 11
  /-- T reached 105 °C and has not fallen below 103 °C since (R490). -/
  hot : Bool
  deriving DecidableEq, Repr

/-- A partition after PART_CREATE. -/
def PartPower.reset : PartPower :=
  { cap := 0, capMask := 256, thermalMask := 256, droopMask := 256, delivered := 0, byCap := false, byThermal := false,
    byDroop := false, effective := 0, hot := false }

/-- A CAP_SET that waits for its control interval (18 R488, 15 R415): partition, none for the device. -/
structure CapOrder where
  ticket : Nat
  part : Option Nat
  mw : Nat
  deriving DecidableEq, Repr

/-- The power and thermal controller. -/
structure Power where
  capDevice : BitVec 32
  prochotCap : BitVec 32
  droopMv : BitVec 8
  orders : List CapOrder
  capBinding : Bool
  thermal : Bool
  prochotOut : Bool
  prochotIn : Bool
  /-- Level of FLOW_OK. -/
  flowOk : Bool
  flowStopped : Bool
  /-- The restart of R494 runs. -/
  flowRestart : Bool
  capShort : Bool
  avsFault : Bool
  power1ms : BitVec 32
  energy : BitVec 64
  uncharged : BitVec 64
  tjMax : BitVec 16
  sensor : BitVec 7
  flowStops : BitVec 16
  flowGlitches : BitVec 16
  dies : List DiePower
  parts : Tbl PartPower
  /-- Voltage in mV and current in 0.01 A of rails 0-5. -/
  rails : List (BitVec 16 × BitVec 16)
  /-- AVS0, AVS1: the bus has failed (R481). -/
  busFailed : List Bool
  temps : List (BitVec 16)
  /-- When each POWER_EVENT kind was last sent: (kind, device time in ns) (R483). -/
  recentEvents : List (Nat × Nat)
  /-- A cap mask has skipped and KIND 2 has not been sent since (R483). -/
  binding : Bool
  /-- THERMTRIP_N is asserted (R492). -/
  thermtrip : Bool
  /-- Phase estimates: (job, plan, phase, mW per core per GHz at 0.78 V) (R485). -/
  estimates : List (Nat × Nat × Nat × Nat)
  deriving DecidableEq, Repr

/-- Power after cold reset (18 R488, R496). -/
def Power.reset : Power :=
  { capDevice := 450000, prochotCap := 300000, droopMv := 40, orders := [], capBinding := false, thermal := false,
    prochotOut := false, prochotIn := false, flowOk := true, flowStopped := false, flowRestart := false,
    capShort := false, avsFault := false, power1ms := 0, energy := 0, uncharged := 0, tjMax := 0, sensor := 0,
    flowStops := 0, flowGlitches := 0, dies := [DiePower.boot, DiePower.boot], parts := [],
    rails := List.replicate 6 (0, 0), busFailed := [false, false], temps := List.replicate 80 0, recentEvents := [],
    binding := false, thermtrip := false, estimates := [] }

/-! ### Reliability: 19_reliability -/

/-- A unit as MEND_UPDATE names it (16 R440): 0 core, 1 LD, 2 PL, 3 LE, and its physical index. -/
structure UnitId where
  kind : Nat
  index : Nat
  deriving DecidableEq, Repr

/-- An error log entry (19 R514), and the instant that R515 coalesces by. -/
structure LogEntry where
  seq : Nat
  timeS : Nat
  timeNs : Nat
  cls : Nat
  unitKind : Nat
  unitIndex : Nat
  detail : Nat
  partition : Nat
  action : Nat
  count : Nat
  firmware : Nat
  deriving DecidableEq, Repr

/-- Self-test status of a core or engine (19 R508, R516): the device time in ns of its last pass, and what is due. -/
structure TestStatus where
  passed : Nat
  due : Bool
  deferred : Bool
  /-- Next slice of an online self-test that has begun (R507). -/
  slice : Nat
  /-- The test runs on the unit: it has been admitted (R507). -/
  running : Bool
  deriving DecidableEq, Repr

/-- A unit that has not been tested (19 R508). -/
def TestStatus.fresh : TestStatus := { passed := 0, due := false, deferred := false, slice := 0, running := false }

/-- State of a repair record entry (19 R511). -/
inductive RepairState where
  | queued | started | done | failed
  deriving DecidableEq, Repr

/-- An entry of the repair record (19 R511); `replaced`: the stack's repair status shows the row replaced (R512). -/
structure Repair where
  stack : Nat
  channel : Nat
  bank : Nat
  row : Nat
  state : RepairState
  replaced : Bool
  deriving DecidableEq, Repr

/-- A copy of the field map in boot flash (19 R504). -/
structure MapCopy where
  seq : Nat
  entries : List UnitId
  deriving DecidableEq, Repr

/-- A SELFTEST or a re-enabling MEND_UPDATE in progress (16 R440, 19 R505, R508, R510). -/
structure TestJob where
  ticket : Nat
  /-- 0 cores, 1 engines, 2 full memory BIST, 3 re-enabling. -/
  scope : Nat
  /-- Device time in ns at which it was taken. -/
  since : Nat
  todo : List UnitId
  /-- Units whose test has begun (R508). -/
  begun : List UnitId
  tested : Nat
  failed : List UnitId
  deriving DecidableEq, Repr

/-- Teller pair k (19 R501). -/
structure TellerPair where
  /-- Device times in ns of its lockstep mismatches. -/
  times : List Nat
  disabled : Bool
  deriving DecidableEq, Repr

/-- The reliability state of the device. -/
structure Rel where
  /-- Teller ring of 1,024, oldest first, and the persistent ring of 256 (R515). -/
  log : List LogEntry
  flashLog : List LogEntry
  /-- Entries that wait for their persistent write. -/
  flashPending : List LogEntry
  nextSeq : Nat
  logSelect : BitVec 32
  logSource : Bool
  flashFail : Bool
  ceTotal : BitVec 32
  ueTotal : BitVec 32
  /-- Device times in ns of the corrected errors of the last 24 h by physical core (R515). -/
  corrected : Tbl (List Nat)
  mapA : MapCopy
  mapB : MapCopy
  /-- Entries that wait to be written to the field map (R504). -/
  mapPending : List UnitId
  volatile : List UnitId
  /-- PENDING entries: field failures that R504 does not write (R504, R516). -/
  pendingUnits : List UnitId
  /-- Device time in ns of the last cold reset, from which the age of a unit not tested since counts (R508, R516). -/
  since : Nat
  cores : Tbl TestStatus
  engines : Tbl TestStatus
  tests : List TestJob
  repairs : List Repair
  /-- Rows in which scrub corrected an error on its last pass: stack, channel, bank, row (R500). -/
  scrubbed : List (Nat × Nat × Nat × Nat)
  spares : List Nat
  retired : List Nat
  pairs : List TellerPair
  deriving DecidableEq, Repr

/-- Reliability after cold reset: no log entry, no field map entry, spare rows as a new stack has them (log 60). -/
def Rel.reset : Rel :=
  { log := [], flashLog := [], flashPending := [], nextSeq := 1, logSelect := 0, logSource := false, flashFail := false,
    ceTotal := 0, ueTotal := 0, corrected := [], mapA := ⟨1, []⟩, mapB := ⟨0, []⟩, mapPending := [], volatile := [],
    pendingUnits := [], since := 0, cores := [], engines := [], tests := [], repairs := [], scrubbed := [],
    spares := [0, 0, 0, 0], retired := [], pairs := List.replicate 4 ⟨[], false⟩ }

/-! ### Security: 20_security_and_life_cycle -/

/-- A boot slot (20 R518): the signed fields of its image, and what the checks of R519 find of it that do not depend on
fuses. -/
structure FwSlot where
  signed : List Byte
  version : Nat
  svn : Nat
  ecdsaKey : Nat
  mldsaKey : Nat
  headerOk : Bool
  ecdsaHash : Bool
  mldsaHash : Bool
  ecdsaSig : Bool
  mldsaSig : Bool
  bodyOk : Bool
  deriving DecidableEq, Repr

/-- A slot that holds no image. -/
def FwSlot.empty : FwSlot :=
  { signed := [], version := 0, svn := 0, ecdsaKey := 0, mldsaKey := 0, headerOk := false, ecdsaHash := false,
    mldsaHash := false, ecdsaSig := false, mldsaSig := false, bodyOk := false }

/-- A copy of the commit record (20 R521). -/
structure Commit where
  valid : Bool
  seq : Nat
  /-- Slot B is ACTIVE. -/
  active : Bool
  trial : Bool
  tries : Nat
  activeVersion : Nat
  trialVersion : Nat
  trialSvn : Nat
  deriving DecidableEq, Repr

/-- The fuses (20 R519, R532; 01 R19; 15 R393, R403). -/
structure Fuses where
  /-- Stage, in the codes of 15 R394: 0 BLANK, 1 MAKER_TEST, 2 SEALED, 4 RETURNED, 5 VOID. -/
  stage : Nat
  transitions : Nat
  svnFloor : Nat
  ecdsaRevoked : BitVec 4
  mldsaRevoked : BitVec 4
  part : BitVec 8
  stepping : BitVec 4
  factory : List UnitId
  deriving DecidableEq, Repr

/-- A MACsec SAK slot (20 R528, R529; 17 R452): key, salt, SSCI, next transmit packet number, highest received one. -/
structure Sak where
  key : BitVec 256
  salt : BitVec 96
  ssci : BitVec 32
  pn : BitVec 64
  deriving DecidableEq, Repr

/-- What FW_STAGE is writing (20 R520). -/
structure Staging where
  ticket : Nat
  image : List Byte
  deriving DecidableEq, Repr

/-- The security block, the always-on domain and boot flash. -/
structure Sec where
  fuses : Fuses
  /-- Life-cycle state in force, and at boot, in the codes of 15 R394. -/
  lc : Nat
  lcAtBoot : Nat
  /-- Always-on domain (R536): SERVICE flag, retention canary, clock, boot counter. -/
  serviceFlag : Bool
  canary : Bool
  aonRuns : Bool
  aonS : BitVec 32
  aonValid : Bool
  bootCount : BitVec 32
  cellLost : Bool
  vbatLow : Bool
  /-- Seal monitor (R531). -/
  sealArmed : Bool
  sealState : Nat
  loopOpen : Bool
  /-- Consecutive samples that did not match, and the polarity of the next pulse. -/
  sealMisses : Nat
  sealPolarity : Bool
  sealOpenS : BitVec 32
  /-- An open while armed waits to be logged. -/
  sealLog : Bool
  /-- Presence (R530). -/
  strapSvc : Bool
  jumper : Bool
  window : Bool
  /-- Device time in ns at which the window closes. -/
  windowEnd : Nat
  stuck : Bool
  /-- Boot flash: slots A and B, the commit record's two copies, the owner seed, the DeviceID certificate. -/
  slotA : FwSlot
  slotB : FwSlot
  commitA : Commit
  commitB : Commit
  ownerSeed : Option (BitVec 256)
  certStored : Bool
  bootSlot : Bool
  trialBoot : Bool
  /-- The committed slot was passed over at this boot: an entry that waits to be logged (R523). -/
  passedOver : Bool
  /-- Signed fields of the booted image, its VERSION, and CDI_L1 (R524). -/
  bootedSigned : List Byte
  bootedVersion : Nat
  cdiL1 : BitVec 384
  svnRunning : Nat
  /-- Owner seed hash and SVN floor as M1 took them at boot (R524). -/
  ownerAtBoot : Option (BitVec 256)
  floorAtBoot : Nat
  /-- What block 3 and block 4 of R527 keep from the boot: STATE was TRIAL, TRANSITIONS. -/
  trialAtBoot : Bool
  transitionsAtBoot : Nat
  /-- A Valust token challenge has opened JTAG in RETURNED (R535). -/
  jtagToken : Bool
  /-- SPDM nonces drawn: the model's own counter behind `Config.spdmNonce`. -/
  nonces : Nat
  stagedVersion : BitVec 32
  staging : Option Staging
  /-- Registers of R538. -/
  lock : Bool
  /-- LOCK, a WO1 register, has had its first write (00 R9). -/
  lockWritten : Bool
  jtagOff : Bool
  downgradeOff : Bool
  ownerWords : List (BitVec 32)
  /-- OWNER_COMMIT as it was last written (00 R9). -/
  ownerCommit : Bool
  sakMac : BitVec 3
  sakDir : Bool
  sakAn : Bool
  keyWords : List (BitVec 32)
  saltWords : List (BitVec 32)
  ssciWord : BitVec 32
  saks : Tbl Sak
  /-- SPDM connection (R526): versions exchanged, capabilities exchanged, algorithms negotiated. -/
  spdm : Nat
  spdmVersion : Nat
  deriving DecidableEq, Repr

/-- The security block after cold reset. The fuses and what boot flash holds are the model's choice (log 61). -/
def Sec.reset : Sec :=
  { fuses := { stage := 2, transitions := 0, svnFloor := 0, ecdsaRevoked := 0, mldsaRevoked := 0, part := 0x40,
               stepping := 0, factory := (List.range 8).map fun i => ⟨0, 64 + i⟩ },
    lc := 2, lcAtBoot := 2, serviceFlag := false, canary := true, aonRuns := true, aonS := 0, aonValid := false,
    bootCount := 1, cellLost := false, vbatLow := false, sealArmed := false, sealState := 2, loopOpen := false,
    sealMisses := 0, sealPolarity := false, sealOpenS := 0, sealLog := false, strapSvc := false, jumper := false,
    window := false, windowEnd := 0, stuck := false,
    slotA := { signed := [], version := 0x04020000, svn := 0, ecdsaKey := 0, mldsaKey := 0, headerOk := true,
               ecdsaHash := true, mldsaHash := true, ecdsaSig := true, mldsaSig := true, bodyOk := true },
    slotB := FwSlot.empty,
    commitA := { valid := true, seq := 1, active := false, trial := false, tries := 0, activeVersion := 0x04020000,
                 trialVersion := 0, trialSvn := 0 },
    commitB := { valid := false, seq := 0, active := false, trial := false, tries := 0, activeVersion := 0,
                 trialVersion := 0, trialSvn := 0 },
    ownerSeed := none, certStored := true, bootSlot := false, trialBoot := false, passedOver := false, bootedSigned := [], bootedVersion := 0x04020000, cdiL1 := 0, svnRunning := 0,
    ownerAtBoot := none, floorAtBoot := 0, trialAtBoot := false, transitionsAtBoot := 0, jtagToken := false, nonces := 0, stagedVersion := 0, staging := none, lock := false, lockWritten := false, jtagOff := false,
    downgradeOff := false, ownerWords := List.replicate 8 0, ownerCommit := false, sakMac := 0, sakDir := false, sakAn := false,
    keyWords := List.replicate 8 0, saltWords := List.replicate 3 0, ssciWord := 0, saks := [], spdm := 0,
    spdmVersion := 0 }

/-! ### Management, optics, indicators: 21_management_and_optics -/

/-- An outgoing MCTP message (21 R541, R542): endpoint, message type, body. -/
structure Outgoing where
  eid : Nat
  type : Nat
  /-- It carries a completion: never discarded. -/
  completion : Bool
  data : List Byte
  deriving DecidableEq, Repr

/-- An MCTP transport (21 R540, R542, R543): 0 SMB0, 1 SMB1, 2 PCIe. -/
structure Transport where
  queue : List Outgoing
  lost : Bool
  seq : BitVec 8
  timeout : Bool
  timeouts : BitVec 16
  deriving DecidableEq, Repr

def Transport.reset : Transport := { queue := [], lost := false, seq := 0, timeout := false, timeouts := 0 }

/-- A PLDM firmware update in progress (21 R545): the bytes received so far, and whether VerifyComplete has reported
success. -/
structure Update where
  image : List Byte
  verified : Bool
  deriving DecidableEq, Repr

/-- The management endpoint. -/
structure Mgmt where
  eid : BitVec 8
  transports : List Transport
  /-- Where the last command came from: transport and endpoint (R541, R542). -/
  current : Nat × Nat
  /-- Where the endpoint that holds the session sent from. -/
  holder : Nat × Nat
  update : Option Update
  /-- PLDM event receiver (R544): transport and endpoint. -/
  receiver : Option (Nat × Nat)
  /-- Threshold level last reported of a numeric sensor, value last reported of a state sensor (R544). -/
  levels : Tbl Nat
  deriving DecidableEq, Repr

def Mgmt.reset : Mgmt :=
  { eid := 0, transports := List.replicate 3 Transport.reset, current := (0, 0), holder := (0, 0), update := none,
    receiver := none, levels := [] }

/-- An optics bus (21 R549, R554): 0 OK, 1 RECOVERING, 2 FAILED; the attempt that comes next. -/
structure OpticsBus where
  state : Nat
  attempt : Nat
  recoveries : BitVec 16
  deriving DecidableEq, Repr

/-- A wear ledger record (21 R550): seconds counted in each bin, laser seconds; what boot flash holds of it is in
`Optics.flash`. -/
structure Wear where
  oui : BitVec 24
  serial : List Byte
  binS : List Nat
  laserS : Nat
  biasInit : BitVec 16
  biasMax : BitVec 16
  lastSeen : Nat
  /-- The entry at 900 per mille has been logged (R551). -/
  warned : Bool
  deriving DecidableEq, Repr

/-- An optics slot and its module window (21 R547, R548, R554). -/
structure OpticsSlot where
  present : Bool
  managed : Bool
  moduleState : BitVec 3
  flagged : Bool
  fails : Nat
  ident : BitVec 8
  oui : BitVec 24
  partNo : List Byte
  serial : List Byte
  temp : BitVec 16
  vcc : BitVec 16
  rxMin : BitVec 16
  txMin : BitVec 16
  biasHigh : BitVec 16
  insertions : BitVec 16
  tempMax : BitVec 16
  flagsSeen : BitVec 16
  deriving DecidableEq, Repr

def OpticsSlot.reset : OpticsSlot :=
  { present := false, managed := false, moduleState := 0, flagged := false, fails := 0, ident := 0, oui := 0,
    partNo := [], serial := [], temp := 0, vcc := 0, rxMin := 0, txMin := 0, biasHigh := 0, insertions := 0,
    tempMax := 0, flagsSeen := 0 }

/-- An indicator (21 R552-R554). -/
structure Indicator where
  mode : BitVec 2
  source : BitVec 3
  arg : BitVec 3
  duty : BitVec 8
  half : BitVec 4
  stretch : Bool
  /-- 0 OFF, 1 OK, 2 OPEN, 3 SHORT, 4 OPEN_UNKNOWN. -/
  status : BitVec 3
  /-- Consecutive samples below the open threshold. -/
  opens : Nat
  /-- Device time in ns of the last check, none before the first (R553). -/
  checked : Option Nat
  /-- Off for 1 s after a short (R553). -/
  holdoff : Bool
  deriving DecidableEq, Repr

/-- An indicator after reset with MODE and SOURCE of the board record. -/
def Indicator.reset (mode : BitVec 2) (source : BitVec 3) : Indicator :=
  { mode := mode, source := source, arg := 0, duty := 255, half := 4, stretch := false, status := 0, opens := 0,
    checked := none, holdoff := false }

/-- Optics, the wear ledger and the indicators. -/
structure Optics where
  buses : List OpticsBus
  ratedKh : BitVec 8
  driftPct : BitVec 8
  slots : List OpticsSlot
  wear : List Wear
  /-- The records as last written to boot flash (R550). -/
  flash : List Wear
  indicators : List Indicator
  deriving DecidableEq, Repr

def Optics.reset : Optics :=
  { buses := [⟨0, 0, 0⟩, ⟨0, 0, 0⟩], ratedKh := 100, driftPct := 50, slots := List.replicate 8 OpticsSlot.reset,
    wear := [], flash := [], indicators := (List.range 6).map fun i => Indicator.reset (if i = 0 then 3 else 0) 0 }

/-! ### Start-up: 22_startup_and_reset, pins of 23 -/

/-- What boot the device is in (22 R561, R566; 18 R494): none once READY has been set. -/
inductive Boot where
  | cold
  /-- Both slots failed R519: nothing runs until a cold reset (20 R522). -/
  | halted
  | warmSame
  | warmOther
  deriving DecidableEq, Repr

/-- The board configuration record (22 R560), as boot flash holds it. -/
structure Board where
  /-- MAGIC, VERSION, CRC and ranges are right. -/
  valid : Bool
  portMap : BitVec 32
  smb0 : BitVec 7
  smb1 : BitVec 7
  optPopulated : BitVec 8
  optMac : BitVec 24
  /-- MODE and SOURCE of indicators 0-5. -/
  ind : List (BitVec 2 × BitVec 3)
  /-- Signed mV of rails 2-5. -/
  railTrim : List Int
  deriving DecidableEq, Repr

/-- The default column of R560: indicator 0 auto, the others off. -/
def Board.default : Board :=
  { valid := true, portMap := 0, smb0 := 0x32, smb1 := 0x33, optPopulated := 0, optMac := 0,
    ind := [(3, 0), (0, 0), (0, 0), (0, 0), (0, 0), (0, 0)], railTrim := [0, 0, 0, 0] }

/-- Power, reset and boot of the whole device. -/
structure Sys where
  /-- Pin levels (23 R573). -/
  pwrgood : Bool
  resetN : Bool
  perstN : Bool
  /-- Island clocks run (22 R558, 18 R492). -/
  clocks : Bool
  boot : Option Boot
  ready : Bool
  recovery : Bool
  /-- The boot was stopped under R562: recovery mode lasts to the next reset that passes. -/
  bootStopped : Bool
  fatal : Bool
  /-- VERSION of the firmware that runs, or ran before the restart in progress (22 R565). -/
  version : BitVec 32
  /-- The board record in flash, and the values in use since the last boot. -/
  boardFlash : Board
  board : Board
  /-- HBM stacks with trained settings in retention (22 R562). -/
  trained : List Bool
  /-- A conventional reset came during a warm restart: R413 runs after READY (22 R571). -/
  resetAfterReady : Bool
  /-- The restart in progress ends in recovery mode (22 R569). -/
  recoverNext : Bool
  /-- The mend map as the resume record held it when a warm restart began (22 R567). -/
  resumeMend : List UnitId
  deriving DecidableEq, Repr

/-- PWRGOOD has just risen: the device boots (22 R556, R561). -/
def Sys.reset : Sys :=
  { pwrgood := true, resetN := true, perstN := true, clocks := true, boot := some .cold, ready := false,
    recovery := false, bootStopped := false, fatal := false, version := 0x04020000, boardFlash := Board.default,
    board := Board.default, trained := [true, true, true, true], resetAfterReady := false, recoverNext := false, resumeMend := [] }

/-- Why the machine stops for good. -/
inductive Fault where
  /-- Raised by no command: the spec gives every error an outcome. Safe. -/
  | none
  deriving DecidableEq, Repr

/-- Why a command has no meaning here. -/
inductive Refusal where
  /-- Raised by JTAG_INSTRUCTION for internal scan and teller debug where the life-cycle state offers them: the spec says that they are
  offered and nothing of what they do (20 R535). Safe. -/
  | jtagInternal
  /-- Raised by Dispatch for a command that has no meaning yet. Safe. -/
  | notModelled (mnemonic : String)
  deriving DecidableEq, Repr

/-- The state of the block. -/
structure State where
  host : HostIf
  work : Work
  engines : Tbl Engines
  net : Net
  power : Power
  rel : Rel
  sec : Sec
  mgmt : Mgmt
  optics : Optics
  radio : Radio
  /-- Open services by index (11 R276). -/
  services : Tbl Svc
  sys : Sys
  /-- What the device has sent, oldest first (the model's own record). -/
  sent : List Output
  /-- Commands that wait, first in first out. -/
  pending : List Instr
  deriving DecidableEq, Repr

/-- The block right after cold reset. -/
def State.reset : State :=
  { host := HostIf.reset, work := Work.reset, engines := [], net := Net.reset, power := Power.reset, rel := Rel.reset,
    sec := Sec.reset, mgmt := Mgmt.reset, optics := Optics.reset, radio := Radio.reset, services := [], sys := Sys.reset, sent := [], pending := [] }

end Sys2Proof.Machine
end

