-- ==== Sys2Proof/Config.lean ====
section
/-! DEFINITION. What an implementation or a firmware release fixes, and the free values: constants that no proof can
see into. -/

namespace Sys2Proof

namespace Machine

/-- A borrowed core as a partition shape holds it: its physical index, the segments that its lender lends, the lender's smoothing mode
(true: GATE) and its core index there (13 R334, R340). -/
structure Borrowed where
  core : Nat
  segments : Nat
  gate : Bool
  index : Nat
  deriving DecidableEq, Repr

/-- A partition shape (13 R334). -/
structure PartShape where
  partition : Nat
  owned : List Nat
  borrowed : List Borrowed
  exact : List Nat
  gate : Bool
  /-- LEND_SEGMENTS of a lending partition, else 0. -/
  lent : Nat
  tillFirst : Nat
  tillCount : Nat
  tallyFirst : Nat
  tallyCount : Nat
  ld : List Nat
  pl : List Nat
  le : List Nat
  allot : List Nat
  purseHbm : Nat
  purseLink : Nat
  purseIod : Nat
  vlans : List Machine.Vlan
  deriving DecidableEq, Repr

/-- What loaded jobs hold of what placement reserves (02 R73): segments by core, partition tallies, coding windows, eAxC streams as
(port, VLAN, identifier), INGEST units. -/
structure Reserved where
  segments : List (Nat × BitVec 12)
  tallies : List Nat
  windows : List (Nat × Nat × Nat × Nat)
  eaxc : List (Nat × Nat × Nat)
  units : Nat
  deriving DecidableEq, Repr

/-- What placement takes (01 R36): the image, the partition shape, the mend map, the firmware version; the cores, the job record region and
the save region that the load names, as addresses and pages; what loaded jobs hold; the members of the Relne group and its ports that
are up (17 R471). Nothing of it is the run state of a partition or of a job. -/
structure PlaceIn where
  image : List Byte
  shape : PartShape
  cores : List Nat
  record : Nat × Nat
  /-- None for a job of the firmware's own, whose live state no command gives a region. -/
  save : Option (Nat × Nat)
  reserved : Reserved
  members : Nat
  ports : List Nat
  mend : List Machine.UnitId
  firmware : Nat
  deriving DecidableEq, Repr

/-- A tile of a paged stream (11 R281): station and instance whose steps carry it, stream, tile of the epoch, its page-list index, its
granule offset in the frame. -/
structure PagedTile where
  station : Nat
  inst : Nat
  stream : Nat
  tile : Nat
  entry : Nat
  offset : Nat
  deriving DecidableEq, Repr

/-- What the firmware release chooses (02 R595); all else of a placement follows from the image. -/
structure Choice where
  /-- (station, instance, physical core) of every instance of a core station. -/
  homes : List (Nat × Nat × Nat)
  /-- (core, stream, side, first granule): buffers are side 0, staging buffers of a producer 1, of a consumer 2. -/
  rings : List (Nat × Nat × Nat × Nat)
  /-- (station, instance, first granule) of private areas. -/
  privates : List (Nat × Nat × Nat)
  /-- Partition tallies, in the order in which 14 R362 expands the TALLIES records. -/
  tallies : List Nat
  /-- (core, plan, which of the core's station instances gives the next step). -/
  weave : List (Nat × Nat × List Nat)
  /-- (core, plan, work cycles by which DELAY of each step is raised). -/
  delays : List (Nat × Nat × List Nat)
  /-- (core, plan, step, work cycles by which each schedule entry is held back). -/
  slack : List (Nat × Nat × Nat × List Nat)
  /-- (station, KIND as in MEND_UPDATE, engine, first cycle, cycles) of coding windows. -/
  windows : List (Nat × Nat × Nat × Nat × Nat)
  paged : List PagedTile
  /-- (core, byte address) of the copy of the step block's page lists. -/
  pageLists : List (Nat × Nat)
  deriving DecidableEq, Repr, Inhabited

/-- What placement produces (02 R71). -/
structure Placed where
  insts : List Machine.Inst
  digest : BitVec 64
  tallies : List (Nat × Nat × Nat)
  groups : List (Nat × Nat × Bool)
  groupTag : Nat
  tills : List Nat
  windows : List (Nat × Nat × Nat × Nat)
  deriving DecidableEq, Repr, Inhabited

/-- Placement accepts, or refuses with a status and the three result words of 02 R72. -/
inductive Placing where
  | refused (status r0 r1 r2 : Nat)
  | accepted (p : Placed)
  deriving DecidableEq, Repr, Inhabited

end Machine

/-- An entry of a CRC.indication (09 R241). -/
structure CrcEntry where
  handle : Nat
  rnti : Nat
  harq : Nat
  /-- TbCrcStatus: 0 passed. -/
  status : Nat
  sinr : Int
  timingAdvance : Int
  timingNs : Int
  rsrp : Int
  /-- NumCb, and RSSI: 0xFFFF, not reported. -/
  numCb : Nat
  rssi : Nat
  deriving DecidableEq, Repr

/-- A FAPI message to layer 2 (09 R239): SFN, slot and its content. -/
inductive FapiOut where
  /-- ERROR.indication: message identifier, error: 1 MSG_INVALID_STATE, 2 MSG_INVALID_CONFIG, 3 MSG_SLOT_ERR, 4 MSG_TX_ERR. -/
  | error (sfn slot id code : Nat)
  | slot (sfn slot : Nat)
  | crc (sfn slot : Nat) (entries : List CrcEntry)
  /-- RX_DATA.indication: handle, RNTI, HARQ process, bytes, address in the receive region. -/
  | rxData (sfn slot : Nat) (entries : List (Nat × Nat × Nat × Nat × Nat))
  /-- UCI.indication: handle, RNTI, whether the check passed, payload bits. -/
  | uci (sfn slot handle rnti : Nat) (ok : Bool) (bits : List Nat)
  | srs (sfn slot handle rnti snr ta : Nat)
  | rach (sfn slot : Nat) (found : List (Nat × Nat × Nat))
  deriving DecidableEq, Repr

/-- An SPDM response (20 R526, R527). -/
inductive SpdmOut where
  /-- Versions, major × 16 + minor. -/
  | version (versions : List Nat)
  | capabilities (version flags : Nat)
  | algorithms (asym hash : Nat)
  | digests (slots : Nat) (digests : List (List Byte))
  | certificate (slot remainder : Nat) (portion : List Byte)
  | challengeAuth (slot : Nat) (chainHash : List Byte) (nonce : BitVec 256) (signature : List Byte)
  /-- The number of blocks, the blocks as (index, digest, bytes), the signature when it was asked for. -/
  | measurements (slot count : Nat) (blocks : List (Nat × Bool × List Byte)) (nonce : BitVec 256) (signature : Option (List Byte))
  | error (code : Nat)
  deriving DecidableEq, Repr

/-- A response or event of the management endpoint of MCTP type 0x00 or 0x01 (21 R540, R544, R545). -/
inductive MgmtOut where
  /-- Set Endpoint ID: completion code, the ID in force. -/
  | endpoint (code id : Nat)
  /-- A completion code alone. -/
  | done (code : Nat)
  /-- GetPDR: the next record, the identifier and the kind of its sensor: 0 numeric, 1 state, 2 effecter. -/
  | pdr (next id kind : Nat)
  /-- GetSensorReading: none when the sensor is unavailable. -/
  | numeric (value : Option Int) (level : Nat)
  | state (value : Nat)
  | parameters (active pending : Nat)
  | sensorEvent (sensor level : Nat) (value : Int)
  | stateEvent (sensor state before : Nat)
  deriving DecidableEq, Repr

namespace Config

/-! ### Placement: the firmware release defines its choices (02 R595; log 63) -/

/-- What placement chooses. -/
opaque place : Machine.PlaceIn → Machine.Choice
/-- The outputs of placement in the form that the tellers write them (02 R71). -/
opaque placementBytes : Machine.Placed → List (BitVec 8)
/-- Worst-case demand of a station's DECODE, ENCODE, EGRESS or LINK instances on PURSE_IOD in a coding frame, in MB/s: a function of the
image and the station (13 R346). -/
opaque iodDemand : List (BitVec 8) → Nat → Nat

/-- Partition address of a job's selector block, 64 words of 4 bytes, if its station parameter records declare one (02 R65; log 96). -/
opaque selectorBlock : List (BitVec 8) → Option Nat

/-! ### Fixed functions of the arithmetic whose values the spec bounds but does not give (05 R129; log 20) -/

/-- 2^x in F32, x finite. -/
opaque exp2 : BitVec 32 → BitVec 32
/-- log2 x in F32, x finite and positive. -/
opaque log2 : BitVec 32 → BitVec 32
/-- 1 ÷ x in F32, x finite and not 0. -/
opaque rcp : BitVec 32 → BitVec 32
/-- 1 ÷ √x in F32, x finite and positive. -/
opaque rsqrt : BitVec 32 → BitVec 32
/-- sin 2πx in F32, x finite. -/
opaque sint : BitVec 32 → BitVec 32
/-- cos 2πx in F32, x finite. -/
opaque cost : BitVec 32 → BitVec 32
/-- tanh x in F32, x finite. -/
opaque tanh : BitVec 32 → BitVec 32

/-! ### Constants of the part, of its maker and of its firmware (log 62) -/

/-- Valust's PCI vendor identifier (15 R387, 21 R541). -/
opaque vendorId : BitVec 16
/-- SHA-384 (20 R519, R524). -/
opaque sha384 : List (BitVec 8) → BitVec 384
/-- The hash of ROM key k of ECDSA, and of ML-DSA (20 R519). -/
opaque ecdsaRom : Nat → BitVec 384
opaque mldsaRom : Nat → BitVec 384
/-- Whether an ECDSA P-384 signature verifies: public key, signature, message digest (20 R519). -/
opaque ecdsaVerify : List (BitVec 8) → List (BitVec 8) → BitVec 384 → Bool
/-- Whether an ML-DSA-87 signature verifies: public key, signature, message (20 R519). -/
opaque mldsaVerify : List (BitVec 8) → List (BitVec 8) → List (BitVec 8) → Bool

/-- HMAC-SHA-384: key, message (20 R524). -/
opaque hmac384 : BitVec 384 → List (BitVec 8) → BitVec 384
/-- The UDS fused at the factory, and the digest of the boot ROM (20 R524). -/
opaque uds : BitVec 384
opaque romDigest : BitVec 384
/-- Bytes of the certificate chain of SPDM slot 0, with the Alias certificate that a secret CDI_L1 gives (20 R525). -/
opaque certChain : BitVec 384 → List (BitVec 8)
/-- A signature made with the Alias key that CDI_L1 gives (20 R526). -/
opaque aliasSign : BitVec 384 → List (BitVec 8) → List (BitVec 8)

/-! ### Management messages: the published standards lay them out (20 R526, 21 R540-R545; log 73) -/

/-- The bytes of a response or an event of MCTP type 0x00 or 0x01, and of an SPDM response. -/
opaque mgmtBytes : MgmtOut → List (BitVec 8)
opaque spdmBytes : SpdmOut → List (BitVec 8)
/-- The request that an MCTP message of type 0x00, 0x01 or 0x05 carries. -/
opaque mctpDecode : Nat → List (BitVec 8) → Option MgmtReq
/-- The n-th nonce that the responder draws. -/
opaque spdmNonce : Nat → BitVec 256

/-! ### The timing unit (17 R456, R464; log 64) -/

/-- The proportional-integral servo: from its integral part and a measured offset in 2^-16 ns, the new integral part and the rate
correction in 2^-48. -/
opaque servo : Int → Int → Int × Int
/-- The clockClass in force while SOURCE 2 locks the device or brings it into ACQUIRING. -/
opaque ppsClass : BitVec 8

/-! ### Cells: images and tables of the firmware release, and the published 3GPP and FAPI standards (08, 09; log 66) -/

/-- The uplink and downlink job images of the release for CELL_START's fields and the cell configuration block, before the tellers write
their parameter records. -/
opaque uplinkImage : List (BitVec 8) → List (BitVec 8) → List (BitVec 8)
opaque downlinkImage : List (BitVec 8) → List (BitVec 8) → List (BitVec 8)
/-- A PDU record of the slot descriptor: the PDU and its tracking context's frequency and timing. -/
opaque pduRecord : PuschPdu → Int → Int → List (BitVec 8)
/-- The downlink slot descriptor. -/
opaque dlDescriptor : List DlPdu → List DlPdu → List (BitVec 8)
/-- Coded bits of a PUSCH PDU; N_ref of its limited-buffer rate matching. -/
opaque codedBits : PuschPdu → Nat
opaque lbrmSize : PuschPdu → Nat
/-- Row of an LDPC base graph for a lifting size: (column, shift). -/
opaque baseRow : Nat → Nat → Nat → List (Nat × Nat)
/-- Byte of the firmware's default scaling table (09 R223). -/
opaque scaleTable : Nat → Nat
/-- Coded bits received of a PUCCH payload; code length N and number of blocks of a polar-coded payload. -/
opaque polarShape : Nat → Nat × Nat
/-- A Reed-Muller codeword of a K-bit payload: K, hypothesis, bits. -/
opaque rmWord : Nat → Nat → Nat → List Bool
/-- CRC-aided list-8 decoding of a PUCCH payload: the chosen path's bits and whether its CRC passed. -/
opaque polarDecode : Nat → List Int → List Bool × Bool
/-- Output bits of code block `cb` of a PDSCH, and the code length N of a PDCCH or PBCH (09 R229, R231). -/
opaque dlBlockBits : DlPdu → Nat → Nat
opaque dlPolarLength : DlPdu → Nat
/-- Where coded block `cb` of a downlink PDU lies in the coded bits' tile, and its bytes. -/
opaque codedBlock : DlPdu → List (BitVec 8) → Nat → Nat × List (BitVec 8)
/-- Where a transport block of a slot lies in the receive region: slot, PDU index, bytes. -/
opaque rxOffset : Nat → Nat → Nat → Nat
/-- e × 2^-n as the tracking loop rounds it. -/
opaque trackRound : Int → Nat → Int
/-- ARCH of the cell images, the bytes of its master weights, and the deploy blocks that master weights make (10 R244, R245). -/
opaque arch : BitVec 16
opaque masterBytes : Nat
opaque deployBlocks : List (BitVec 8) → List (BitVec 8)
/-- The adaptation image that ADAPT_CONFIG's fields make (10 R253). -/
opaque adaptImage : List (BitVec 8) → List (BitVec 8)
/-- A PDU record of a staging entry: the PDU, its CRC result, SINR_EFF, and whether it is UNLABELLED (10 R248). -/
opaque stagingRecord : PuschPdu → Bool → Int → Bool → List (BitVec 8)
/-- The scrambled coded bits of a transport block: TS 38.212 with the PDU's parameters (10 R252). -/
opaque codedWord : PuschPdu → List (BitVec 8) → List Bool
/-- The gradient of the loss that a ledger record gives at master weights (10 R254). -/
opaque recordGradient : List Rat → List (BitVec 8) → List Rat
/-- How a training round writes a value: 1 sums of gradients, 2 and 3 the moments, 4 weights; optimiser step, index, exact value; and the BF16
code of a weight (10 R254; log 103). -/
opaque trainRound : Nat → Nat → Nat → Rat → Rat
opaque bf16Code : Rat → Nat
/-- FAPI messages as SCF 222 lays them out. -/
opaque fapiDecode : List (BitVec 8) → Option Fapi
opaque fapiBytes : FapiOut → List (BitVec 8)

/-! ### The uplink chain's arithmetic (08 R199-R214; log 100): the spec gives its formulas and neither the order of their operations nor
their rounding; sequences are those of TS 38.211 -/

/-- How the release's programs round a value of a stage: 0 corrected elements, 1 LS estimates, 2 smoothed estimates, 3 channel estimates,
4 noise power, 5 residual errors, 6 common phase errors, 7 equalised symbols, 8 SINR, 9 LLRs, 10 report figures, 11 the downlink's stream
vectors; the argument is the exact value. -/
opaque chainRound : Nat → Rat → Rat
/-- cos 2πx, sin 2πx, and the argument of x + jy in turns from -1/2 to 1/2. -/
opaque turnCos : Rat → Rat
opaque turnSin : Rat → Rat
opaque turnArg : Rat → Rat → Rat
opaque sqrt : Rat → Rat
opaque exp : Rat → Rat
opaque ln : Rat → Rat
/-- The TS 38.211 sequence of a DMRS port without its cover: PDU, slot of the frame, port, subcarrier, symbol; real and imaginary part. -/
opaque dmrsValue : PuschPdu → Nat → Nat → Nat → Nat → Rat × Rat
/-- β of the DMRS, from the number of CDM groups without data (TS 38.214). -/
opaque dmrsScale : Nat → Rat
/-- The PTRS of a PDU in a slot of the frame: symbol, subcarrier, DMRS port, real and imaginary part (TS 38.211). -/
opaque ptrsElements : PuschPdu → Nat → List (Nat × Nat × Nat × Rat × Rat)
/-- The smoothing filter's taps, from the uplink image's Y initial image (08 R202). -/
opaque smoothTap : List (BitVec 8) → Nat → Rat
/-- The downlink (09 R233): symbol i of a PDU's codeword from its payload, which data element of the PDU an element of its allocation is in a
slot of the frame (subcarrier, symbol), the value of a layer where it is none (DMRS, PTRS, CSI-RS, SSB, control), β_cell, 10^(Δ ÷ 20). -/
opaque codeSymbol : DlPdu → List (BitVec 8) → Nat → Rat × Rat
opaque dataElement : DlPdu → Nat → Nat → Nat → Option Nat
opaque signalValue : DlPdu → List (BitVec 8) → Nat → Nat → Nat → Nat → Rat × Rat
opaque cellScale : Rat
opaque powerScale : Int → Rat
/-- Bit i of the scrambling sequence of TS 38.211 for a c_init (08 R212). -/
opaque goldBit : Nat → Nat → Bool

/-! ### Estimates that firmware derives (18 R485; log 62) -/

/-- The first estimate of a phase, in mW per core per GHz at 0.78 V, from its unit kind and operand width class. -/
opaque phaseEstimate : Nat → Nat → Nat
/-- The estimate of a core that runs no step. -/
opaque idleEstimate : Nat

/-! ### Values the spec does not state (log 21) -/

/-- The bias term of USED, in per mille, of a module whose BIAS_INIT is 0: a function of BIAS_MAX (21 R551). -/
opaque wearBeyond : Nat → Nat

/-- VBCAST of a lane that the register does not have: a function of the register and the lane. -/
opaque bcastBeyond : BitVec 2048 → Nat → Nat
/-- A conversion to I32 of a NaN, an infinity or a value outside the range: a function of the F32 bits and SAT. -/
opaque i32Beyond : Nat → Bool → Nat
/-- A CQ15 part converted from a NaN or an infinity: a function of the F32 bits. -/
opaque cq15Special : Nat → Nat
/-- A data register that the ALU and a move of one instruction both write: a function of the two values. -/
opaque sigRace : Nat → Nat → Nat

/-- DBG_READ of the signal unit's registers: where they stand in the 256 bytes, a function of the registers in the order of R140
(16 R441). -/
opaque sigRegisters : List Nat → List (BitVec 8)
/-- DBG_READ of a session record: SESSION, state code, LENGTH and PAGES as bytes (16 R441). -/
opaque sessionRecord : Nat → Nat → Nat → Nat → List (BitVec 8)

end Config

end Sys2Proof
end

