-- ==== Sys2Proof/Machine/Tbl.lean ====
section
/-! DEFINITION. Sparse tables and byte memories: read, write, clear, and little-endian groups of bytes (00_scope R12). -/

namespace Sys2Proof

/-- The entry at a key; the default where the table lists none. -/
def Tbl.get {α : Type} (d : α) : Tbl α → Nat → α
  | [], _ => d
  | (k, v) :: t, n => if k = n then v else Tbl.get d t n

/-- Puts an entry at its place, replacing the one that was there. -/
def Tbl.put {α : Type} : Tbl α → Nat → α → Tbl α
  | [], n, v => [(n, v)]
  | (k, w) :: t, n, v =>
    if n < k then (n, v) :: (k, w) :: t
    else if n = k then (n, v) :: t
    else (k, w) :: Tbl.put t n v

/-- Removes what the table lists under a key. -/
def Tbl.del {α : Type} : Tbl α → Nat → Tbl α
  | [], _ => []
  | (k, w) :: t, n => if k = n then Tbl.del t n else (k, w) :: Tbl.del t n

/-- Writes an entry; writing the default removes it, so that equal tables are equal data. -/
def Tbl.set {α : Type} [DecidableEq α] (d : α) (t : Tbl α) (n : Nat) (v : α) : Tbl α :=
  if v = d then Tbl.del t n else Tbl.put t n v

/-- Changes the entry of one key. -/
def Tbl.upd {α : Type} [DecidableEq α] (d : α) (t : Tbl α) (n : Nat) (f : α → α) : Tbl α :=
  Tbl.set d t n (f (Tbl.get d t n))

/-- Whether the table lists a key. -/
def Tbl.has {α : Type} (t : Tbl α) (n : Nat) : Bool := t.any fun e => e.1 = n

/-- The listed entry of a key. -/
def Tbl.find {α : Type} : Tbl α → Nat → Option α
  | [], _ => none
  | (k, v) :: t, n => if k = n then some v else Tbl.find t n

/-- Changes every listed entry by a function, dropping those it maps to none. -/
def Tbl.mapEntries {α : Type} (t : Tbl α) (f : Nat → α → Option α) : Tbl α :=
  t.filterMap fun e => (f e.1 e.2).map fun v => (e.1, v)

/-- The canonical form: keys strictly rising, no entry equal to the default. -/
def Tbl.wf {α : Type} [DecidableEq α] (d : α) (t : Tbl α) : Bool :=
  match t with
  | [] => true
  | [(_, v)] => v ≠ d
  | (k, v) :: (k', v') :: t => decide (k < k') && decide (v ≠ d) && Tbl.wf d ((k', v') :: t)

/-- One byte of a memory; a byte that nothing has written reads 0. -/
def Mem.read (m : Mem) (a : Nat) : Byte := Tbl.get (0 : Byte) m a

/-- Writes one byte. -/
def Mem.write (m : Mem) (a : Nat) (b : Byte) : Mem := Tbl.set (0 : Byte) m a b

/-- The canonical form of a byte memory. -/
def Memory.wf (m : Mem) : Bool := Tbl.wf (0 : Byte) m

/-- The n bytes from an address, lowest first. -/
def Mem.bytes (m : Mem) (a : Nat) : Nat → List Byte
  | 0 => []
  | n + 1 => Mem.read m a :: Mem.bytes m (a + 1) n

/-- Writes bytes from an address upward. -/
def Mem.writeBytes (m : Mem) (a : Nat) : List Byte → Mem
  | [] => m
  | b :: bs => Mem.writeBytes (Mem.write m a b) (a + 1) bs

/-- Zeroes the addresses from lo to hi - 1. -/
def Mem.zero (m : Mem) (lo hi : Nat) : Mem := m.filter fun c => c.1 < lo || hi ≤ c.1

/-- The value of bytes, least significant first (00_scope R12). -/
def leNat : List Byte → Nat
  | [] => 0
  | b :: bs => b.toNat + 256 * leNat bs

/-- The n bytes of a value, least significant first (00_scope R12). -/
def leBytes : Nat → Nat → List Byte
  | 0, _ => []
  | n + 1, v => BitVec.ofNat 8 v :: leBytes n (v / 256)

/-- The value of bytes, most significant first: network headers (00_scope R12). -/
def beNat (bs : List Byte) : Nat := leNat bs.reverse

/-- A little-endian value of n bytes at an address. -/
def Mem.le (m : Mem) (a n : Nat) : Nat := leNat (Mem.bytes m a n)

/-- Writes a little-endian value of n bytes. -/
def Mem.writeLe (m : Mem) (a n v : Nat) : Mem := Mem.writeBytes m a (leBytes n v)

/-- Bits hi to lo of a value. -/
def bits (v hi lo : Nat) : Nat := (v >>> lo) % 2 ^ (hi + 1 - lo)

/-- One bit of a value. -/
def bit (v i : Nat) : Bool := Nat.testBit v i

/-- A Bool as a bit. -/
def b2n (b : Bool) : Nat := if b then 1 else 0

/-- The signed value of the low w bits. -/
def signed (w v : Nat) : Int := (BitVec.ofNat w v).toInt

/-- The two's complement of w bits that holds an integer modulo 2^w. -/
def unsigned (w : Nat) (x : Int) : Nat := (x % (2 ^ w : Int)).toNat

/-- The quotient rounded up. -/
def ceilDiv (a b : Nat) : Nat := (a + b - 1) / b

/-- Whether a value is a multiple of another. -/
def aligned (v k : Nat) : Bool := v % k = 0

/-- The sum of a list. -/
def sumNat (l : List Nat) : Nat := l.foldl (· + ·) 0

/-- A list without one occurrence of each repeated element, in order. -/
def dedup {α : Type} [DecidableEq α] : List α → List α
  | [] => []
  | a :: l => if a ∈ l then dedup l else a :: dedup l

/-- Element i of a list, or a default. -/
def nth {α : Type} (d : α) (l : List α) (i : Nat) : α := (l[i]?).getD d

/-- The list with element i replaced. -/
def setNth {α : Type} : List α → Nat → α → List α
  | [], _, _ => []
  | _ :: l, 0, v => v :: l
  | a :: l, i + 1, v => a :: setNth l i v

end Sys2Proof
end

