-- ==== Sys2Proof/Machine/Num.lean ====
section
/-! DEFINITION. Number formats: encodings, exact values, rounding and conversion (04 R94-R106). -/

namespace Sys2Proof

/-- An exact value: a signed dyadic number (−1)^neg × m × 2^e with its sign kept at zero, an infinity, or NaN. -/
inductive Val where
  | fin (neg : Bool) (m : Nat) (e : Int)
  | inf (neg : Bool)
  | nan
  deriving DecidableEq, Repr

/-- Special encodings of a floating-point format (04 R95). -/
inductive FSpecial where
  /-- Exponent all ones: infinity or NaN. -/
  | ieee
  /-- F8E4: NaN only at all ones, no infinity. -/
  | nanOnly
  /-- MXF6 and MXF4 elements: every code finite. -/
  | none
  deriving DecidableEq, Repr

/-- A floating-point format (04 R95). -/
structure FFmt where
  ebits : Nat
  mbits : Nat
  bias : Nat
  special : FSpecial
  deriving DecidableEq, Repr

def fF32 : FFmt := ⟨8, 23, 127, .ieee⟩
def fF16 : FFmt := ⟨5, 10, 15, .ieee⟩
def fBF16 : FFmt := ⟨8, 7, 127, .ieee⟩
def fF8E4 : FFmt := ⟨4, 3, 7, .nanOnly⟩
def fF8E5 : FFmt := ⟨5, 2, 15, .ieee⟩
def fF6E2 : FFmt := ⟨2, 3, 1, .none⟩
def fF6E3 : FFmt := ⟨3, 2, 3, .none⟩
def fF4 : FFmt := ⟨2, 1, 1, .none⟩

/-- The largest finite code, sign 0 (04 R95). -/
def FFmt.maxCode (f : FFmt) : Nat :=
  match f.special with
  | .ieee => (2 ^ f.ebits - 1) * 2 ^ f.mbits - 1
  | .nanOnly => 2 ^ (f.ebits + f.mbits) - 2
  | .none => 2 ^ (f.ebits + f.mbits) - 1

/-- The canonical NaN of a format (04 R96); 0 where the format has none. -/
def FFmt.nanCode (f : FFmt) : Nat :=
  match f.special with
  | .ieee => (2 ^ f.ebits - 1) * 2 ^ f.mbits + 2 ^ (f.mbits - 1)
  | .nanOnly => 2 ^ (f.ebits + f.mbits) - 1
  | .none => 0

/-- The code of infinity, sign 0. -/
def FFmt.infCode (f : FFmt) : Nat := (2 ^ f.ebits - 1) * 2 ^ f.mbits

/-- The sign bit of a format. -/
def FFmt.signBit (f : FFmt) (neg : Bool) : Nat := if neg then 2 ^ (f.ebits + f.mbits) else 0

/-- Exponent of the least significant bit of the subnormals. -/
def FFmt.qmin (f : FFmt) : Int := 1 - (f.bias : Int) - (f.mbits : Int)

/-- The value of a code (04 R95). -/
def FFmt.decode (f : FFmt) (code : Nat) : Val :=
  let neg := bit code (f.ebits + f.mbits)
  let e := bits code (f.ebits + f.mbits - 1) f.mbits
  let m := code % 2 ^ f.mbits
  let finite : Val :=
    if e = 0 then .fin neg m f.qmin else .fin neg (2 ^ f.mbits + m) (f.qmin + (e : Int) - 1)
  match f.special with
  | .ieee => if e = 2 ^ f.ebits - 1 then (if m = 0 then .inf neg else .nan) else finite
  | .nanOnly => if code % 2 ^ (f.ebits + f.mbits) = 2 ^ (f.ebits + f.mbits) - 1 then .nan else finite
  | .none => finite

/-- Rounding: to nearest with ties to even, toward zero, or stochastic with a 16-bit word (04 R102, R105). -/
inductive Rnd where
  | rne
  | rtz
  | sr (r : Nat)
  deriving DecidableEq, Repr

/-- The magnitude n / d rounded to a whole number. -/
def roundQuot (mode : Rnd) (n d : Nat) : Nat :=
  let q := n / d
  let r := n % d
  match mode with
  | .rne => if 2 * r > d || (2 * r = d && q % 2 = 1) then q + 1 else q
  | .rtz => q
  | .sr w => if r * 65536 / d + w ≥ 65536 then q + 1 else q

/-- m × 2^s rounded to a whole number. -/
def roundShift (mode : Rnd) (m : Nat) (s : Int) : Nat :=
  if 0 ≤ s then m * 2 ^ s.toNat else roundQuot mode m (2 ^ (-s).toNat)

/-- What a conversion does beside its code (04 R103): clipped, NaN-counted. -/
structure Conv where
  code : Nat
  clipped : Bool
  nan : Bool
  deriving DecidableEq, Repr

/-- The magnitude code of a finite value in a format, exponent range unbounded above (04 R103). -/
def FFmt.magnitude (f : FFmt) (mode : Rnd) (m : Nat) (e : Int) : Nat :=
  if m = 0 then 0 else
    let q := max ((Nat.log2 m : Int) + e - (f.mbits : Int)) f.qmin
    (q - f.qmin).toNat * 2 ^ f.mbits + roundShift mode m (e - q)

/-- Conversion of an exact value to a floating-point format (04 R103); `sat`: SAT = 1. A format without NaN codes
NaN as 0 (its block's scale byte says NaN). -/
def FFmt.convert (f : FFmt) (mode : Rnd) (sat : Bool) : Val → Conv
  | .nan => ⟨f.nanCode, false, true⟩
  | .inf neg =>
    if sat || f.special = .none then ⟨f.signBit neg + f.maxCode, true, false⟩
    else if f.special = .nanOnly then ⟨f.nanCode, false, false⟩
    else ⟨f.signBit neg + f.infCode, false, false⟩
  | .fin neg m e =>
    let c := f.magnitude mode m e
    if c ≤ f.maxCode then ⟨f.signBit neg + c, false, false⟩
    else if sat || f.special = .none then ⟨f.signBit neg + f.maxCode, true, false⟩
    else if f.special = .nanOnly then ⟨f.nanCode, false, false⟩
    else ⟨f.signBit neg + f.infCode, false, false⟩

/-- An arithmetic result in a format: round to nearest even, overflow to infinity (04 R102). -/
def FFmt.encode (f : FFmt) (v : Val) : Nat := (f.convert .rne false v).code

/-- The integer of a finite value scaled to exponent e0 (e0 at most its own). -/
def Val.scaled (neg : Bool) (m : Nat) (e e0 : Int) : Int :=
  let n : Int := (m * 2 ^ (e - e0).toNat : Nat)
  if neg then -n else n

/-- A dyadic value from a signed integer and an exponent; `zneg` is the sign of zero. -/
def Val.ofInt (n : Int) (e : Int) (zneg : Bool := false) : Val :=
  if n = 0 then .fin zneg 0 e else .fin (n < 0) n.natAbs e

/-- Exact sum (04 R96). -/
def Val.add : Val → Val → Val
  | .nan, _ => .nan
  | _, .nan => .nan
  | .inf a, .inf b => if a = b then .inf a else .nan
  | .inf a, _ => .inf a
  | _, .inf b => .inf b
  | .fin a m e, .fin b n g =>
    let k := min e g
    Val.ofInt (Val.scaled a m e k + Val.scaled b n g k) k (a && b)

/-- Negation. -/
def Val.neg : Val → Val
  | .nan => .nan
  | .inf a => .inf (!a)
  | .fin a m e => .fin (!a) m e

/-- Magnitude. -/
def Val.abs : Val → Val
  | .nan => .nan
  | .inf _ => .inf false
  | .fin _ m e => .fin false m e

/-- Exact product (04 R96). -/
def Val.mul : Val → Val → Val
  | .nan, _ => .nan
  | _, .nan => .nan
  | .inf a, .inf b => .inf (a != b)
  | .inf a, .fin b m _ => if m = 0 then .nan else .inf (a != b)
  | .fin a m _, .inf b => if m = 0 then .nan else .inf (a != b)
  | .fin a m e, .fin b n g => .fin (a != b) (m * n) (e + g)

/-- Multiplication by a power of two. -/
def Val.shift (v : Val) (k : Int) : Val :=
  match v with
  | .fin a m e => .fin a m (e + k)
  | v => v

/-- A quotient carried far enough that rounding it to any format of at most 60 bits of mantissa gives the rounding of
the exact quotient: its last bit is sticky. -/
def Val.div : Val → Val → Val
  | .nan, _ => .nan
  | _, .nan => .nan
  | .inf _, .inf _ => .nan
  | .inf a, .fin b _ _ => .inf (a != b)
  | .fin a _ _, .inf b => .fin (a != b) 0 0
  | .fin a m e, .fin b n g =>
    if n = 0 then (if m = 0 then .nan else .inf (a != b))
    else
      let k := 64 + Nat.log2 n
      let q := m * 2 ^ k / n
      let r := m * 2 ^ k % n
      .fin (a != b) (2 * q + (if r = 0 then 0 else 1)) (e - g - (k : Int) - 1)

/-- The whole square root, by bits from 2^k down. -/
def isqrtFrom : Nat → Nat → Nat → Nat
  | 0, n, r => if (r + 1) * (r + 1) ≤ n then r + 1 else r
  | k + 1, n, r =>
    let t := r + 2 ^ (k + 1)
    isqrtFrom k n (if t * t ≤ n then t else r)

/-- A square root carried as `Val.div` carries a quotient (05 R129 VSQRT is correctly rounded). -/
def Val.sqrt : Val → Val
  | .nan => .nan
  | .inf false => .inf false
  | .inf true => .nan
  | .fin neg m e =>
    if m = 0 then .fin neg 0 0
    else if neg then .nan
    else
      let odd : Nat := if e % 2 = 0 then 0 else 1
      let k := 64
      let n := m * 2 ^ (odd + 2 * k)
      let r := isqrtFrom (Nat.log2 n / 2 + 1) n 0
      .fin false (2 * r + (if r * r = n then 0 else 1)) ((e - (odd : Int)) / 2 - (k : Int) - 1)

/-- Whether a value is NaN. -/
def Val.isNan : Val → Bool
  | .nan => true
  | _ => false

/-- Whether a value is zero. -/
def Val.isZero : Val → Bool
  | .fin _ m _ => m = 0
  | _ => false

/-- The order of non-NaN values; zeros are equal (IEEE 754 less-than). -/
def Val.lt : Val → Val → Bool
  | .nan, _ => false
  | _, .nan => false
  | .inf a, .inf b => a && !b
  | .inf a, .fin _ _ _ => a
  | .fin _ _ _, .inf b => !b
  | .fin a m e, .fin b n g =>
    let k := min e g
    Val.scaled a m e k < Val.scaled b n g k

/-- Equality of non-NaN values; zeros are equal. -/
def Val.eq (a b : Val) : Bool := !a.isNan && !b.isNan && !(Val.lt a b) && !(Val.lt b a)

/-- A finite value rounded to an integer; none for infinities and NaN. For stochastic rounding the bounds are the
adjacent integers of the signed value (04 R105). -/
def Val.toInt (mode : Rnd) : Val → Option Int
  | .fin neg m e =>
    match mode with
    | .sr w =>
      if 0 ≤ e then some (Val.scaled neg m e 0)
      else
        let d : Int := (2 ^ (-e).toNat : Nat)
        let n : Int := if neg then -(m : Int) else m
        let q := n / d
        let r := (n % d).toNat
        some (if r * 65536 / d.toNat + w ≥ 65536 then q + 1 else q)
    | _ =>
      let n : Int := roundShift mode m e
      some (if neg then -n else n)
  | _ => none

/-- An integer clamped to a range. -/
def clampInt (lo hi x : Int) : Int := if x < lo then lo else if hi < x then hi else x

/-! ### Format codes (04 R94) -/

/-- Bits of storage of one element (02 R43). -/
def elemBits : Nat → Nat
  | 0x00 => 32 | 0x01 => 16 | 0x02 => 16 | 0x03 => 8 | 0x04 => 8 | 0x05 => 8 | 0x06 => 6 | 0x07 => 6 | 0x08 => 4
  | 0x09 => 8 | 0x0A => 32 | 0x0B => 16 | 0x0C => 8 | 0x0D => 4 | 0x0E => 32 | 0x0F => 32 | _ => 0

/-- Whether a format is a microscaling format (04 R97). -/
def isMx (fmt : Nat) : Bool := 0x05 ≤ fmt && fmt ≤ 0x09

/-- Whether a format's elements are integers without block scale. -/
def isInt (fmt : Nat) : Bool := fmt = 0x0A || fmt = 0x0B || fmt = 0x0C || fmt = 0x0D || fmt = 0x0E

/-- The row footprint in bytes (02 R43). -/
def rowFootprint (fmt elems : Nat) : Nat :=
  elemBits fmt * elems / 8 + (if isMx fmt then elems / 32 else 0)

/-- The floating-point format of an element, where it has one. -/
def floatOf : Nat → Option FFmt
  | 0x00 => some fF32 | 0x01 => some fF16 | 0x02 => some fBF16 | 0x03 => some fF8E4 | 0x04 => some fF8E5
  | 0x05 => some fF8E4 | 0x06 => some fF6E2 | 0x07 => some fF6E3 | 0x08 => some fF4 | _ => none

/-- The value of an element code before any block scale or zero point (04 R95, R98, R100). -/
def elemVal (fmt code : Nat) : Val :=
  match floatOf fmt with
  | some f => f.decode code
  | none =>
    if fmt = 0x09 then Val.ofInt (signed 8 code) (-6)
    else if fmt = 0x0E then Val.ofInt (signed 24 code) (-23)
    else Val.ofInt (signed (elemBits fmt) code) 0

/-- The value of an E8M0 scale byte (04 R98): 2^(s − 127), or NaN. -/
def scaleVal (s : Nat) : Val := if s = 255 then .nan else .fin false 1 ((s : Int) - 127)

/-- An element of a microscaling block (04 R98, R99). -/
def mxVal (fmt code scale : Nat) : Val := Val.mul (elemVal fmt code) (scaleVal scale)

/-- emax of a microscaling format (04 R104). -/
def mxEmax : Nat → Int
  | 0x05 => 8 | 0x06 => 2 | 0x07 => 4 | 0x08 => 2 | _ => 0

/-- floor(log2 |x|) of a finite nonzero value. -/
def Val.ilog2 : Val → Int
  | .fin _ m e => (Nat.log2 m : Int) + e
  | _ => 0

/-- The larger magnitude of two finite values. -/
def Val.maxAbs (a b : Val) : Val := if Val.lt a.abs b.abs then b.abs else a.abs

/-- The scale byte of a microscaling block (04 R104). -/
def mxScale (fmt : Nat) (xs : List Val) : Nat :=
  if xs.any Val.isNan then 255
  else
    let vmax := (xs.filter fun v => match v with | .fin _ _ _ => true | _ => false).foldl Val.maxAbs (.fin false 0 0)
    if vmax.isZero then 0
    else (max (-127) (vmax.ilog2 - mxEmax fmt) + 127).toNat

/-- One element of a microscaling block of a given scale byte (04 R103, R104). -/
def mxElem (fmt scale : Nat) (mode : Rnd) (x : Val) : Conv :=
  if scale = 255 then ⟨0, false, x.isNan⟩
  else
    let y := x.shift (127 - (scale : Int))
    match floatOf fmt with
    | some f =>
      match y with
      | .nan => ⟨0, false, true⟩
      | y => f.convert mode true y
    | none =>
      match y with
      | .nan => ⟨0, false, true⟩
      | .inf neg => ⟨if neg then 128 else 127, true, false⟩
      | y =>
        let n := ((y.shift 6).toInt mode).getD 0
        let c := clampInt (-128) 127 n
        ⟨unsigned 8 c, decide (c ≠ n), false⟩

/-- Conversion to an integer format: I16, or a code of I8A or I4A from scale and zero point (04 R103). -/
def intConv (width : Nat) (zp : Int) (mode : Rnd) (t : Val) : Conv :=
  let lo : Int := -(2 ^ (width - 1))
  let hi : Int := 2 ^ (width - 1) - 1
  match t with
  | .nan => ⟨unsigned width zp, false, true⟩
  | .inf neg => ⟨unsigned width (if neg then lo else hi), true, false⟩
  | t =>
    let n := (t.toInt mode).getD 0 + zp
    let c := clampInt lo hi n
    ⟨unsigned width c, decide (c ≠ n), false⟩

/-- t = x ÷ s in F32 (04 R103). -/
def f32Div (x s : Val) : Val := fF32.decode (fF32.encode (Val.div x s))

/-- x × m in F32 (04 R110). -/
def f32Mul (x m : Val) : Val := fF32.decode (fF32.encode (Val.mul x m))

/-! ### Elements in memory -/

/-- The code of element i of a row of a format that begins at a byte address (02 R43, 04 R97). -/
def elemCode (m : Mem) (row fmt i : Nat) : Nat :=
  let w := elemBits fmt
  Mem.le m (row + w * i / 8) 4 >>> (w * i % 8) % 2 ^ w

/-- The scale byte of block j of a microscaling row (04 R97). -/
def rowScale (m : Mem) (row fmt elems j : Nat) : Nat :=
  (Mem.read m (row + rowFootprint fmt elems - elems / 32 + j)).toNat

/-- The codes of a row packed into bytes, from bit 0 upward (02 R43). -/
def packCodes (w : Nat) (codes : List Nat) : List Byte :=
  let v := codes.foldr (fun c acc => acc * 2 ^ w + c) 0
  leBytes (ceilDiv (w * codes.length) 8) v

/-! ### Stochastic rounding words (04 R106) -/

/-- The mixing function of 04 R106. -/
def mix (z : Nat) : Nat :=
  let z := (z + 0x9E3779B97F4A7C15) % 2 ^ 64
  let z := ((z ^^^ (z >>> 30)) * 0xBF58476D1CE4E5B9) % 2 ^ 64
  let z := ((z ^^^ (z >>> 27)) * 0x94D049BB133111EB) % 2 ^ 64
  z ^^^ (z >>> 31)

/-- The random word of an element of an output tile (04 R106). -/
def srWord (seed epoch inst t pos : Nat) : Nat :=
  let ordinal := (inst * 2 ^ 48 + t % 2 ^ 23 * 2 ^ 25 + pos) % 2 ^ 64
  mix (mix (seed ^^^ mix epoch) ^^^ ordinal) % 65536

/-! ### CRC-64 of 02 R48 -/

/-- One bit of the CRC-64: polynomial 0x42F0E1EBA9EA3693, not reflected. -/
def crcBits : Nat → Nat → Nat
  | 0, c => c
  | k + 1, c => crcBits k (if 2 ^ 63 ≤ c then (c * 2 % 2 ^ 64) ^^^ 0x42F0E1EBA9EA3693 else c * 2)

/-- One byte into the CRC-64. -/
def crcByte (c : Nat) (b : Byte) : Nat := crcBits 8 (c ^^^ (b.toNat * 2 ^ 56))

/-- The CRC-64 of bytes in ascending order, initial value 0 (02 R48). -/
def crc64 (bs : List Byte) : Nat := bs.foldl crcByte 0

/-! ### Block floating point of the radio (04 R101) -/

/-- The CQ15 part of a mantissa and exponent: m × 2^e saturated. -/
def bfpnDecompress (w m e : Nat) : Int := clampInt (-32768) 32767 (signed w m * (2 ^ e : Nat))

/-- Whether exponent e holds every part of a resource block in w bits. -/
def bfpnFits (w e : Nat) (ps : List Int) : Bool :=
  ps.all fun p =>
    let m := ((Val.ofInt p (-(e : Int))).toInt .rne).getD 0
    decide (-(2 ^ (w - 1) : Int) ≤ m) && decide (m ≤ 2 ^ (w - 1) - 1)

/-- The smallest exponent from 0 to 15 that fits. -/
def bfpnExponent (w : Nat) (ps : List Int) : Nat := ((List.range 16).find? fun e => bfpnFits w e ps).getD 15

/-- The mantissas of a resource block at its exponent. -/
def bfpnCompress (w : Nat) (ps : List Int) : Nat × List Nat :=
  let e := bfpnExponent w ps
  (e, ps.map fun p => unsigned w (((Val.ofInt p (-(e : Int))).toInt .rne).getD 0))

end Sys2Proof
end

