-- ==== Sys2Proof/Machine/Ops.lean ====
section
/-! DEFINITION. The named operations by which every command reads and writes the state: cores, engines, jobs, the
invocation that runs on a core, ring positions, scratchpad views. -/

namespace Sys2Proof.Machine

/-- What a command answers. -/
abbrev Out := Host.Outcome State Fault Refusal

/-! ### Cores and engines -/

/-- The control state of a physical core. -/
def getCore (s : State) (c : Nat) : CoreCtl := Tbl.get CoreCtl.reset s.work.cores c

/-- Changes the control state of a physical core. -/
def updCore (s : State) (c : Nat) (f : CoreCtl → CoreCtl) : State :=
  { s with work := { s.work with cores := Tbl.upd CoreCtl.reset s.work.cores c f } }

/-- The engines of a physical core. -/
def getEng (s : State) (c : Nat) : Engines := Tbl.get Engines.reset s.engines c

/-- Changes the engines of a physical core. -/
def updEng (s : State) (c : Nat) (f : Engines → Engines) : State :=
  { s with engines := Tbl.upd Engines.reset s.engines c f }

/-! ### Jobs -/

/-- A loaded job. -/
def getJob (s : State) (h : Nat) : Option Job := Tbl.find s.work.jobs h

/-- Writes a loaded job. -/
def putJob (s : State) (h : Nat) (j : Job) : State :=
  { s with work := { s.work with jobs := Tbl.put s.work.jobs h j } }

/-- Changes a loaded job. -/
def updJob (s : State) (h : Nat) (f : Job → Job) : State :=
  match getJob s h with
  | some j => putJob s h (f j)
  | none => s

/-- A job's instance on a core. -/
def Job.instOn (j : Job) (c : Nat) : Option Inst := j.insts.find? fun i => i.core = c

/-- Changes a job's instance on a core. -/
def Job.updInst (j : Job) (c : Nat) (f : Inst → Inst) : Job :=
  { j with insts := j.insts.map fun i => if i.core = c then f i else i }

/-- The job whose instance a core runs, with that instance. -/
def running (s : State) (c : Nat) : Option (Nat × Job × Inst) :=
  match (getCore s c).run with
  | none => none
  | some h =>
    match getJob s h with
    | none => none
    | some j =>
      match j.instOn c with
      | none => none
      | some i => some (h, j, i)

/-- Changes the instance that a core runs. -/
def updInst (s : State) (h c : Nat) (f : Inst → Inst) : State := updJob s h fun j => j.updInst c f

/-- Changes the running invocation of a job. -/
def updRun (s : State) (h : Nat) (f : Invocation → Invocation) : State :=
  updJob s h fun j => { j with run := j.run.map f }

/-- A counter that stays at its largest value (13 R348, 05 R139). -/
def satAdd (w a b : Nat) : Nat := min (a + b) (2 ^ w - 1)

/-- Adds to a count of the invocation that a core runs. -/
def countRun (s : State) (c : Nat) (f : Invocation → Invocation) : State :=
  match running s c with
  | some (h, _, _) => updRun s h f
  | none => s

/-! ### The blocks of the device -/

def updHost (s : State) (f : HostIf → HostIf) : State := { s with host := f s.host }
def updWork (s : State) (f : Work → Work) : State := { s with work := f s.work }
def updNet (s : State) (f : Net → Net) : State := { s with net := f s.net }
def updTiming (s : State) (f : Timing → Timing) : State := { s with net := { s.net with timing := f s.net.timing } }
def updRelne (s : State) (f : Relne → Relne) : State := { s with net := { s.net with relne := f s.net.relne } }
def updPower (s : State) (f : Power → Power) : State := { s with power := f s.power }
def updRel (s : State) (f : Rel → Rel) : State := { s with rel := f s.rel }
def updSec (s : State) (f : Sec → Sec) : State := { s with sec := f s.sec }
def updMgmt (s : State) (f : Mgmt → Mgmt) : State := { s with mgmt := f s.mgmt }
def updOptics (s : State) (f : Optics → Optics) : State := { s with optics := f s.optics }
def updSys (s : State) (f : Sys → Sys) : State := { s with sys := f s.sys }
def updChip (s : State) (f : Chip → Chip) : State := { s with host := { s.host with chip := f s.host.chip } }

/-- Changes element i of a list. -/
def modNth {α : Type} (l : List α) (i : Nat) (f : α → α) : List α := l.mapIdx fun k a => if k = i then f a else a

def getMac (s : State) (m : Nat) : Mac := nth Mac.reset s.net.macs m
def updMac (s : State) (m : Nat) (f : Mac → Mac) : State := updNet s fun n => { n with macs := modNth n.macs m f }
def getPtp (s : State) (m : Nat) : PtpPort := nth PtpPort.reset s.net.ptp m
def updPtp (s : State) (m : Nat) (f : PtpPort → PtpPort) : State := updNet s fun n => { n with ptp := modNth n.ptp m f }
def getPartPower (s : State) (p : Nat) : PartPower := Tbl.get PartPower.reset s.power.parts p
def updPartPower (s : State) (p : Nat) (f : PartPower → PartPower) : State :=
  updPower s fun w => { w with parts := Tbl.upd PartPower.reset w.parts p f }

/-- A saturating increment of a counter register. -/
def satInc {w : Nat} (x : BitVec w) (k : Nat) : BitVec w := BitVec.ofNat w (satAdd w x.toNat k)

/-! ### Device time (17 R454) -/

/-- Seconds of device time. -/
def timeS (s : State) : Nat := (s.net.timing.time >>> 64).toNat
/-- Nanoseconds field of device time. -/
def timeSubNs (s : State) : Nat := (s.net.timing.time >>> 32).toNat % 2 ^ 32
/-- Device time in ns. -/
def nowNs (s : State) : Nat := timeS s * 1000000000 + timeSubNs s
/-- Device time that is a whole number of ns and units of 2^-16 ns. -/
def mkTime (ns units : Nat) : BitVec 128 :=
  BitVec.ofNat 128 ((ns / 1000000000) * 2 ^ 64 + (ns % 1000000000) * 2 ^ 32 + units * 2 ^ 16)

/-! ### Work cycles (01 R30, 18 R482, R492, R493) -/

/-- Whether pulse k of a frame is delivered under a mask of D delivered pulses (18 R482). -/
def pulseIn (d k : Nat) : Bool := decide (k * d / 256 < (k + 1) * d / 256)

/-- Whether a partition's masks deliver any pulse of a frame. -/
def PartPower.runs (w : PartPower) : Bool :=
  (List.range 256).any fun k => pulseIn w.capMask k && pulseIn w.thermalMask k && pulseIn w.droopMask k

/-- Whether a core receives work cycles: the clocks run, no flow stop, and its owner's masks deliver pulses. -/
def coreRuns (s : State) (c : Nat) : Bool :=
  s.sys.clocks && s.sys.boot.isNone && !s.power.flowStopped &&
    match s.work.parts.find? fun e => c ∈ e.2.owned with
    | some e => (getPartPower s e.1).runs
    | none => true

/-! ### Job image records (02 R42-R54) -/

/-- The byte at an offset of an image. -/
def imgByte (img : List Byte) (o : Nat) : Nat := (nth (0 : Byte) img o).toNat

/-- A little-endian field of an image. -/
def imgLe (img : List Byte) (o n : Nat) : Nat := leNat ((img.drop o).take n)

/-- Directory entries: (TYPE, ENTRY_SIZE, COUNT, OFFSET, LENGTH) (02 R49). -/
def imgDirectory (img : List Byte) : List (Nat × Nat × Nat × Nat × Nat) :=
  (List.range (imgLe img 0x0C 2)).map fun i =>
    let o := 0x40 + 16 * i
    (imgLe img o 2, imgLe img (o + 2) 2, imgLe img (o + 4) 4, imgLe img (o + 8) 4, imgLe img (o + 12) 4)

/-- A section's COUNT, OFFSET and LENGTH; an absent section has length 0 (02 R50). -/
def imgSection (img : List Byte) (type : Nat) : Nat × Nat × Nat :=
  match (imgDirectory img).find? fun d => d.1 = type with
  | some (_, _, n, o, l) => (n, o, l)
  | none => (0, 0, 0)

/-- A field of record i of a section with records of a size. -/
def imgField (img : List Byte) (type size i off n : Nat) : Nat :=
  imgLe img ((imgSection img type).2.1 + size * i + off) n

/-- A field of a station record (02 R51). -/
def stationField (img : List Byte) (i off n : Nat) : Nat := imgField img 0x0001 32 i off n

/-- A field of a tile descriptor (02 R42). -/
def tileField (img : List Byte) (i off n : Nat) : Nat := imgField img 0x0002 16 i off n

/-- A field of a stream descriptor (02 R45). -/
def streamField (img : List Byte) (i off n : Nat) : Nat := imgField img 0x0003 32 i off n

/-- A field of a TALLIES record (02 R53). -/
def tallyField (img : List Byte) (i off n : Nat) : Nat := imgField img 0x0008 32 i off n

/-- A field at an offset of the CONSTANTS section. -/
def constField (img : List Byte) (off n : Nat) : Nat := imgLe img ((imgSection img 0x0007).2.1 + off) n

/-- A tile descriptor's fields (02 R42). -/
structure Tile where
  format : Nat
  rows : Nat
  elems : Nat
  planes : Nat
  rowStride : Nat
  planeStride : Nat
  scaleMode : Nat
  deriving DecidableEq, Repr

/-- The tile descriptor that 16 bytes spell (02 R42). -/
def Tile.ofBytes (bs : List Byte) : Tile :=
  { format := imgByte bs 0 % 32, rows := imgByte bs 1, elems := imgLe bs 2 2, planes := imgLe bs 4 2,
    rowStride := imgLe bs 6 2, planeStride := imgLe bs 8 4, scaleMode := imgByte bs 12 }

/-- Tile descriptor i of an image. -/
def imgTile (img : List Byte) (i : Nat) : Tile :=
  Tile.ofBytes ((img.drop ((imgSection img 0x0002).2.1 + 16 * i)).take 16)

/-- The tile of a stream. -/
def streamTile (img : List Byte) (st : Nat) : Tile := imgTile img (streamField img st 0x04 2)

/-- Granules of one tile in a buffer: the tile spacing of 02 R594, without a zero-point granule. -/
def Tile.spacing (t : Tile) : Nat := if t.planes > 1 then t.planes * t.planeStride else t.rows * t.rowStride

/-- The produced-count TALLIES record of a stream, when it has one. -/
def producedRecord (img : List Byte) (s : Nat) : Option Nat :=
  (List.range (imgSection img 0x0008).1).find? fun t => tallyField img t 0 1 = 0 ∧ tallyField img t 2 2 = s

/-- Tiles of a stream that each producer instance emits in an epoch of plan p (02 R45, R594). -/
def streamTiles (img : List Byte) (s p : Nat) : Nat :=
  match producedRecord img s with
  | some t => tallyField img t (16 + 2 * p) 2
  | none => streamField img s 0x0C 4

/-! ### Rings and scratchpad views (02 R594, 12 R303) -/

/-- Whether a granule lies in a ring's buffer. -/
def Ring.holds (r : Ring) (g : Nat) : Bool := decide (r.first ≤ g) && decide (g < r.first + r.spacing * r.depth)

/-- The ring that an end of a stream uses on a core: its staging buffer there, or the buffer (02 R593). -/
def Inst.ringOf (i : Inst) (stream : Nat) (producer : Bool) : Option Ring :=
  i.rings.find? fun r => r.stream = stream ∧ r.side ≠ (if producer then 2 else 1)

/-- Where a table's granule address lies in this epoch (02 R594). -/
def Inst.granule (i : Inst) (g : Nat) : Nat :=
  match i.rings.find? fun r => r.holds g with
  | some r =>
    let o := g - r.first
    r.first + (o / r.spacing + r.rho) % r.depth * r.spacing + o % r.spacing
  | none => g

/-- Where a byte of a table's address space lies. -/
def Inst.byteAddr (i : Inst) (b : Nat) : Nat := i.granule (b / 64) * 64 + b % 64

/-- The value of n bytes of a core's scratchpad from a byte address as the tables name it. -/
def viewLe (m : Mem) (i : Inst) (b n : Nat) : Nat :=
  leNat ((List.range n).map fun k => Mem.read m (i.byteAddr (b + k)))

/-- Writes bytes at a byte address as the tables name it. -/
def viewWrite (m : Mem) (i : Inst) (b : Nat) : List Byte → Mem
  | [] => m
  | x :: xs => viewWrite (Mem.write m (i.byteAddr b) x) i (b + 1) xs

/-- Element i of width w of a row held as a number. -/
def elemAt (v w i : Nat) : Nat := (v >>> (w * i)) % 2 ^ w

/-- Writes a core's scratchpad. -/
def setScratch (s : State) (c : Nat) (m : Mem) : State := updCore s c fun k => { k with scratch := m }

end Sys2Proof.Machine
end

