-- ==== Sys2Proof/Machine/Operands.lean ====
section
/-! DEFINITION. The operand forms of the engines: fields of vector instructions, lanes, immediates, predicates
(05 R119-R125); fields of signal instructions and their addressing (06 R145, R155-R158). -/

namespace Sys2Proof.Machine

/-! ### Vector instruction fields (05 R125) -/

def vOp (w : Nat) : Nat := bits w 7 0
def vVD (w : Nat) : Nat := bits w 12 8
def vVA (w : Nat) : Nat := bits w 17 13
def vVB (w : Nat) : Nat := bits w 22 18
def vVC (w : Nat) : Nat := bits w 27 23
def vMask (w : Nat) : Nat := bits w 30 28
def vMz (w : Nat) : Bool := bit w 31
def vFmt (w : Nat) : Nat := bits w 36 32
def vMode (w : Nat) : Nat := bits w 40 37
def vImmB (w : Nat) : Bool := bit w 41
def vImm (w : Nat) : Nat := bits w 63 42
def vPidx (w : Nat) : Nat := bits w 16 13
def vRfmt (w : Nat) : Nat := bits w 27 23
def vSat (w : Nat) : Bool := bit w 37
def vRtz (w : Nat) : Bool := bit w 38
def vAddr (w : Nat) : Nat := bits w 55 40
def vExt (w : Nat) : Nat := bits w 63 56
def vPn (w : Nat) : Nat := bits w 11 8
def vCount (w : Nat) : Nat := bits w 39 24
def vBody (w : Nat) : Nat := bits w 52 40
def vImm32 (w : Nat) : Nat := bits w 63 32

/-! ### Registers and lanes (05 R119-R121) -/

/-- Lane width in bits of a register format (05 R120). -/
def laneBits : Nat → Nat
  | 0x01 => 16 | 0x02 => 16 | 0x0B => 16 | 0x0C => 8 | _ => 32

/-- A vector register. -/
def getV (u : VecUnit) (i : Nat) : BitVec 2048 := Tbl.get 0 u.v i

/-- Writes a vector register. -/
def setV (u : VecUnit) (i : Nat) (x : BitVec 2048) : VecUnit := { u with v := Tbl.set 0 u.v i x }

/-- A mask register: M0 reads as all ones (05 R119). -/
def getM (u : VecUnit) (i : Nat) : BitVec 256 := if i = 0 then BitVec.allOnes 256 else Tbl.get 0 u.m i

/-- Writes a mask register: M0 ignores writes (05 R119). -/
def setM (u : VecUnit) (i : Nat) (x : BitVec 256) : VecUnit :=
  if i = 0 then u else { u with m := Tbl.set 0 u.m i x }

/-- A pointer register: P0 reads as 0 (05 R119). -/
def getP (u : VecUnit) (i : Nat) : BitVec 32 := if i = 0 then 0 else Tbl.get 0 u.p i

/-- Writes a pointer register: P0 ignores writes (05 R119). -/
def setP (u : VecUnit) (i : Nat) (x : BitVec 32) : VecUnit :=
  if i = 0 then u else { u with p := Tbl.set 0 u.p i x }

/-- The lanes of a register at a width (05 R120). -/
def lanesOf (w : Nat) (x : BitVec 2048) : List Nat := (List.range (2048 / w)).map fun i => elemAt x.toNat w i

/-- The register that lanes make. -/
def ofLanes (w : Nat) (ls : List Nat) : BitVec 2048 :=
  BitVec.ofNat 2048 (ls.foldr (fun x acc => acc * 2 ^ w + x % 2 ^ w) 0)

/-- The predicate of lane i at a width: bit w·i of the mask, w in bytes (05 R121). -/
def lanePred (m : BitVec 256) (w i : Nat) : Bool := m.getLsbD (w / 8 * i)

/-- A predicated write of lanes: an unwritten lane keeps the old value, or is 0 with MZ (05 R121). -/
def predicate (m : BitVec 256) (mz : Bool) (w : Nat) (old new : BitVec 2048) : BitVec 2048 :=
  let o := lanesOf w old
  ofLanes w ((List.range (2048 / w)).map fun i =>
    if lanePred m w i then elemAt new.toNat w i else if mz then 0 else nth 0 o i)

/-- The immediate as a lane of a format (05 R125): an F32 pattern converted, or a sign-extended integer. -/
def immLane (fmt imm : Nat) : Nat :=
  match fmt with
  | 0x00 => imm * 1024
  | 0x01 => fF16.encode (fF32.decode (imm * 1024))
  | 0x02 => fBF16.encode (fF32.decode (imm * 1024))
  | _ => unsigned (laneBits fmt) (signed 22 imm)

/-- The second source: VB, or IMM in every lane when IMMB = 1 (05 R125). -/
def srcB (u : VecUnit) (w : Nat) : BitVec 2048 :=
  if vImmB w then ofLanes (laneBits (vFmt w)) (List.replicate (2048 / laneBits (vFmt w)) (immLane (vFmt w) (vImm w)))
  else getV u (vVB w)

/-! ### Signal instruction fields (06 R156-R160) -/

def sAluOp (w : Nat) : Nat := bits w 46 41
def sDst (w : Nat) : Nat := bits w 40 39
def sSrc1 (w : Nat) : Nat := bits w 38 36
def sSrc2 (w : Nat) : Nat := bits w 35 33
def sCond (w : Nat) : Nat := bits w 32 29
def sFs (w : Nat) : Bool := bit w 28
def sXm (w : Nat) : Nat := bits w 27 15
def sYm (w : Nat) : Nat := bits w 14 2

/-- Fields of a move (06 R158). -/
def mvEn (m : Nat) : Bool := bit m 12
def mvStore (m : Nat) : Bool := bit m 11
def mvReg (m : Nat) : Nat := bits m 10 8
def mvPtr (m : Nat) : Nat := bits m 7 6
def mvAm (m : Nat) : Nat := bits m 5 3

/-! ### Signal addressing (06 R145, R146) -/

def getPtr (u : SigUnit) (i : Nat) : Nat := (Tbl.get (0 : BitVec 15) u.ptr i).toNat
def setPtr (u : SigUnit) (i p : Nat) : SigUnit := { u with ptr := Tbl.set 0 u.ptr i (BitVec.ofNat 15 p) }
def getBas (u : SigUnit) (i : Nat) : Nat := (Tbl.get (0 : BitVec 15) u.bas i).toNat
def getLen (u : SigUnit) (i : Nat) : Nat := (Tbl.get (0 : BitVec 16) u.len i).toNat
def getMod (u : SigUnit) (i : Nat) : Int := (Tbl.get (0 : BitVec 16) u.modif i).toInt

/-- The update of pointer i from value p by d: linear, or within its circular buffer (06 R146). -/
def ptrUpd (u : SigUnit) (i p : Nat) (d : Int) : Nat :=
  if getLen u i = 0 then (((p : Int) + d) % 32768).toNat
  else getBas u i + (((p : Int) - (getBas u i : Int) + d) % (getLen u i : Int)).toNat

/-- The 15 address bits in reverse order (06 R146). -/
def rev15 (x : Nat) : Nat := (List.range 15).foldl (fun acc k => acc * 2 + b2n (bit x k)) 0

/-- The address accessed and the pointer afterwards, by addressing mode (06 R145). -/
def ptrMode (u : SigUnit) (i am : Nat) : Nat × Nat :=
  let p := getPtr u i
  let m := getMod u i
  match am with
  | 0 => (p, p)
  | 1 => (p, ptrUpd u i p 1)
  | 2 => (p, ptrUpd u i p (-1))
  | 3 => (p, ptrUpd u i p m)
  | 4 => (p, ptrUpd u i p (-m))
  | 5 => (ptrUpd u i p m, p)
  | 6 => (ptrUpd u i p 1, ptrUpd u i p 1)
  | _ => (p, rev15 ((rev15 p + rev15 (unsigned 15 m)) % 32768))

end Sys2Proof.Machine
end

