-- ==== Sys2Proof/Machine/Flags.lean ====
section
/-! DEFINITION. The condition and mode word of the signal unit: flags, conditions, rounding, saturation and the limiter
(06 R148-R152). -/

namespace Sys2Proof.Machine

def cswS (c : BitVec 16) : Bool := c.getLsbD 0
def cswZ (c : BitVec 16) : Bool := c.getLsbD 1
def cswO (c : BitVec 16) : Bool := c.getLsbD 2
def cswG (c : BitVec 16) : Bool := c.getLsbD 3
def cswK (c : BitVec 16) : Bool := c.getLsbD 8
def cswRmode (c : BitVec 16) : Nat := bits c.toNat 10 9
def cswSat (c : BitVec 16) : Bool := c.getLsbD 11

/-- The word of flags, sticky clip flag, rounding mode and saturation mode (06 R151); reserved bits 0. -/
def cswMake (s z o g k : Bool) (rmode : Nat) (sat : Bool) : BitVec 16 :=
  BitVec.ofNat 16 (b2n s + 2 * b2n z + 4 * b2n o + 8 * b2n g + 256 * b2n k + 512 * (rmode % 4) + 2048 * b2n sat)

/-- New flags, everything else kept. -/
def cswFlags (c : BitVec 16) (s z o g : Bool) : BitVec 16 := cswMake s z o g (cswK c) (cswRmode c) (cswSat c)

/-- Sets the sticky clip flag. -/
def cswClip (c : BitVec 16) : BitVec 16 := cswMake (cswS c) (cswZ c) (cswO c) (cswG c) true (cswRmode c) (cswSat c)

/-- The conditions (06 R152). -/
def condHolds (c : BitVec 16) : Nat → Bool
  | 0 => true
  | 1 => cswZ c
  | 2 => !cswZ c
  | 3 => cswS c != cswO c
  | 4 => cswS c == cswO c
  | 5 => !cswZ c && (cswS c == cswO c)
  | 6 => cswZ c || (cswS c != cswO c)
  | 7 => cswS c
  | 8 => !cswS c
  | 9 => cswG c
  | 10 => !cswG c
  | 11 => cswO c
  | 12 => !cswO c
  | 13 => cswK c
  | _ => false

/-- Whether the guard field of an accumulator is in use: bits [55:47] not all equal (06 R149, R151). -/
def guardUsed (a : BitVec 56) : Bool :=
  let g := bits a.toNat 55 47
  g ≠ 0 && g ≠ 511

/-- Rounding to a multiple of 2^k under a rounding mode (06 R150). -/
def roundMode (rmode k : Nat) (x : Int) : Int :=
  let one : Int := 2 ^ k
  let h : Int := 2 ^ (k - 1)
  match rmode with
  | 0 =>
    let q := x / one
    let r := x % one
    (if r > h ∨ (r = h ∧ q % 2 = 1) then q + 1 else q) * one
  | 1 => if x < 0 then -((-x + h) / one * one) else (x + h) / one * one
  | _ => if x < 0 then -(-x / one * one) else x / one * one

/-- An accumulator result: clamped under CSW.SAT or wrapped to 56 bits, and whether O is set (06 R148). -/
def accResult (c : BitVec 16) (x : Int) : BitVec 56 × Bool :=
  if cswSat c then
    let y := clampInt (-(2 ^ 47)) (2 ^ 47 - 1) x
    (BitVec.ofInt 56 y, decide (y ≠ x))
  else (BitVec.ofInt 56 x, decide ((BitVec.ofInt 56 x).toInt ≠ x))

/-- The limiter: the data word of an accumulator, and whether it acted (06 R149). -/
def limiter (a : BitVec 56) : BitVec 24 × Bool :=
  if guardUsed a then ((if a.getLsbD 55 then 0x800000 else 0x7FFFFF), true)
  else (BitVec.ofNat 24 (bits a.toNat 47 24), false)

/-- A data word in an accumulator: word field, sign through the guard, tail 0 (06 R141). -/
def accOfWord (d : BitVec 24) : BitVec 56 := BitVec.ofInt 56 (d.toInt * 2 ^ 24)

end Sys2Proof.Machine
end

