-- ==== Sys2Proof/Machine/Till.lean ====
section
/-! DEFINITION. Functions, tills and messages: vectors, error capture, writing entries and completions, events
(15 R389-R411, 16 R417-R422, R442, R443). -/

namespace Sys2Proof.Machine

/-! ### Functions -/

def getFn (s : State) (f : Nat) : Fn := Tbl.get Fn.reset s.host.fns f
def updFn (s : State) (f : Nat) (g : Fn → Fn) : State :=
  { s with host := { s.host with fns := Tbl.upd Fn.reset s.host.fns f g } }

/-- Appends to the record of what the device has sent. -/
def emit (s : State) (o : Output) : State := { s with sent := s.sent ++ [o] }

/-- Whether a function exists on the link (15 R387). -/
def present (s : State) (f : Nat) : Bool := f = 0 || (s.host.chip.vfEnable && decide (f ≤ s.host.chip.numVFs))

/-- The partition a function is bound to (13 R333, R336). -/
def boundTo (s : State) (f : Nat) : Option Nat :=
  (s.work.parts.find? fun e => e.2.functions.getLsbD f && e.2.destroying.isNone).map Prod.fst

/-- What a byte of the MSI-X table holds after reset: the Mask bit of each Vector Control is 1, as in the PCI Express Base
Specification, which R408 follows; the rest is 0 (PRESUMED, log 82). -/
def msixReset (a : Nat) : Byte := if a % 16 = 12 then 1 else 0

/-- A byte of the MSI-X table, which is kept as its difference from reset. -/
def msixRead (k : Fn) (a : Nat) : Byte := Mem.read k.msixTable a ^^^ msixReset a

/-- Writes bytes of the MSI-X table. -/
def msixWrite (t : Mem) (a : Nat) : List Byte → Mem
  | [] => t
  | b :: bs => msixWrite (Mem.write t a (b ^^^ msixReset a)) (a + 1) bs

/-- Function Mask or the per-vector mask bit of the MSI-X table (15 R408). -/
def vectorMasked (k : Fn) (v : Nat) : Bool := k.msixMask || bit (msixRead k (16 * v + 12)).toNat 0

/-- Sends a vector of a function, unless its mask, HOLDOFF or MSI-X Enable keeps it (15 R399, R408). -/
def sendVector (s : State) (f v : Nat) : State :=
  let k := getFn s f
  if ¬ k.msixEnable then s
  else if vectorMasked k v then
    updFn s f fun k => { k with msixPending := if v ∈ k.msixPending then k.msixPending else v :: k.msixPending }
  else if v ∈ k.cooling then
    updFn s f fun k => { k with heldVectors := if v ∈ k.heldVectors then k.heldVectors else v :: k.heldVectors }
  else
    let s := emit s (.msix f v)
    if k.holdoff = 0 then s else updFn s f fun k => { k with cooling := v :: k.cooling }

/-- Changes IRQ_CAUSE and IRQ_MASK: vector 0 is sent when cause AND NOT mask changes from 0 to nonzero (15 R399). -/
def setIrq (s : State) (f : Nat) (cause mask : BitVec 4) : State :=
  let k := getFn s f
  let was := k.irqCause &&& ~~~k.irqMask
  let now := cause &&& ~~~mask
  let s := updFn s f fun k => { k with irqCause := cause, irqMask := mask }
  if was = 0 ∧ now ≠ 0 then sendVector s f 0 else s

/-- Raises a cause: 0 ERROR, 1 TILL_ERROR, 2 STATUS, 3 RESET_DONE (15 R399). -/
def raiseCause (s : State) (f c : Nat) : State :=
  setIrq s f ((getFn s f).irqCause ||| BitVec.ofNat 4 (2 ^ c)) (getFn s f).irqMask

/-- Bits of FN_ERROR (15 R396). -/
def errWidth : Nat := 0
def errAlign : Nat := 1
def errLocked : Nat := 2
def errValue : Nat := 3
def errRange : Nat := 4
def errDoorbell : Nat := 5
def errUnmapped : Nat := 6
def errPoison : Nat := 7

/-- Sets a bit of FN_ERROR; the first while no capture is held captures the access (15 R396). -/
def setError (s : State) (f b : Nat) (window offset : Nat) : State :=
  let k := getFn s f
  if k.error.getLsbD b then s
  else
    let s := updFn s f fun k =>
      let k := { k with error := k.error ||| BitVec.ofNat 8 (2 ^ b) }
      if k.errValid then k
      else { k with
        errAddr := BitVec.ofNat 36 offset, errWindow := BitVec.ofNat 3 window, errBit := BitVec.ofNat 8 b,
        errValid := true }
    raiseCause s f 0

/-- Whether the register accesses of a function are served: READY, no function reset, not in D3hot (15 R386, R413; 22 R561). -/
def served (s : State) (f : Nat) : Bool :=
  s.sys.ready && s.sys.clocks && present s f && !(getFn s f).resetting && !(decide (f = 0) && s.host.chip.d3hot)

/-- A write of a chip register by PF0, when it is served. -/
def chipWrite (s : State) (act : State → State) : State := if served s 0 then act s else s

/-- A write of a chip register by PF0 that is dropped as a reserved encoding (00 R13). -/
def valueError (s : State) (offset : Nat) : State := setError s 0 errValue 0 offset

/-- A write that a lock refuses: FN_ERROR.LOCKED of the writer, LOCK_LOG and LOCK_COUNT (15 R391, R403). -/
def lockedWrite (s : State) (f offset : Nat) : State :=
  let s := setError s f errLocked 0 offset
  updChip s fun c =>
    { c with
      lockLogOffset := BitVec.ofNat 14 (offset / 4), lockLogFn := BitVec.ofNat 5 f, lockLogValid := true,
      lockCount := satInc c.lockCount 1 }

/-! ### Tills -/

/-- Till k of a function (0 command, 1 completion, 2 event). -/
def fnTill (f k : Nat) : Nat := 3 * f + k
/-- Till t of a partition. -/
def partTill (p t : Nat) : Nat := 96 + 8192 * p + t

def getTill (s : State) (n : Nat) : Till := Tbl.get Till.none s.host.tills n
def updTill (s : State) (n : Nat) (g : Till → Till) : State :=
  { s with host := { s.host with tills := Tbl.upd Till.none s.host.tills n g } }

/-- Slots of a ring: 64 × 2^DEPTH (15 R405). -/
def Till.slots (t : Till) : Nat := 64 * 2 ^ t.depth.toNat

/-- Slots in use: (PROD − CONS) mod 65,536. -/
def Till.used (t : Till) : Nat := (t.prod - t.cons).toNat

/-- Address in till memory of the slot that index i names (15 "Moving messages"). -/
def Till.slotAddr (t : Till) (i : BitVec 16) : Nat := (t.base.toNat + i.toNat % t.slots) * 64

/-- The function that holds a till, or PF0's for one that management configured. -/
def Till.fn (t : Till) : Nat := match t.holder with | .fn f => f.val | _ => 0

/-- Writes the bytes of one slot and, with MIRROR, the mirror's entry and record (15 R407). -/
def writeSlot (s : State) (n : Nat) (bytes : List Byte) : State :=
  let t := getTill s n
  let a := t.slotAddr t.prod
  let s := { s with host := { s.host with tillMem := Mem.writeBytes (Mem.zero s.host.tillMem a (a + 64)) a (bytes.take 64) } }
  let s := updTill s n fun t => { t with prod := t.prod + 1 }
  if t.mirror ∧ t.state = .running then
    let m := t.mirrorAddr.toNat
    let h := Mem.writeBytes s.host.hostMem (m + 64 * (t.prod.toNat % t.slots)) (bytes.take 64 ++ List.replicate (64 - bytes.length) 0)
    { s with host := { s.host with hostMem := Mem.writeLe h (m + 64 * t.slots) 8 (t.prod + 1).toNat } }
  else s

/-- Writes the slots of a message in order. -/
def writeSlots (s : State) (n : Nat) : Nat → List Byte → State
  | 0, _ => s
  | k + 1, bytes => writeSlots (writeSlot s n (bytes.take 64)) n k (bytes.drop 64)

/-- Sends a till's vector and clears ARMED when an entry has been written while ARMED is 1 (15 R407). -/
def armVector (s : State) (n : Nat) : State :=
  let t := getTill s n
  if t.armed then sendVector (updTill s n fun t => { t with armed := false }) t.fn t.vector.toNat else s

/-- An entry is discarded (15 R407, R413; 16 R420). -/
def dropEntry (s : State) (n : Nat) : State :=
  updTill s n fun t => { t with dropped := BitVec.ofNat 16 (satAdd 16 t.dropped.toNat 1), lost := true }

/-- A till stops in ERROR (15 R406, R407). -/
def tillError (s : State) (n reason : Nat) : State :=
  let s := updTill s n fun t => { t with state := .error, reason := BitVec.ofNat 8 reason }
  raiseCause s (getTill s n).fn 1

/-- Writes an entry of ⌈length ÷ 64⌉ slots into a till the device produces into; `reserved`: its slot was reserved by
the taking of a command, so it is never discarded for want of room (15 R407). -/
def writeEntry (s : State) (n : Nat) (bytes : List Byte) (reserved : Bool) : State :=
  let t := getTill s n
  let k := max 1 (ceilDiv bytes.length 64)
  let room := t.slots - t.used - (if reserved then 0 else t.reserved)
  if t.state = .running ∧ t.mirror ∧ ¬ (getFn s t.fn).busMaster then dropEntry (tillError s n 4) n
  else if t.state ≠ .running ∨ room < k then dropEntry s n
  else armVector (writeSlots s n k bytes) n

/-! ### Device messages (16 R417-R422) -/

/-- The 16-byte header of a message (16 R417). -/
def header (opcode flags seq len reply tag : Nat) : List Byte :=
  leBytes 2 opcode ++ leBytes 1 flags ++ leBytes 1 seq ++ leBytes 2 len ++ leBytes 2 reply ++ leBytes 8 tag

/-- Writes a device message: SEQUENCE counts the till's messages, LOST marks the first after a loss (16 R420). -/
def writeMessage (s : State) (n opcode : Nat) (tag : Nat) (body : List Byte) (reserved : Bool) : State :=
  let t := getTill s n
  let bytes := header opcode (b2n t.lost) t.seq.toNat (16 + body.length) 0 tag ++ body
  let s := updTill s n fun t => { t with seq := t.seq + 1 }
  let before := (getTill s n).dropped
  let s := writeEntry s n bytes reserved
  if (getTill s n).dropped = before then updTill s n fun t => { t with lost := false } else s

/-- The 32 bytes of a completion (16 R421). -/
def completionBytes (tag status opcode seq r0 r1 r2 r3 : Nat) : List Byte :=
  leBytes 8 tag ++ leBytes 2 status ++ leBytes 2 opcode ++ leBytes 1 seq ++ leBytes 3 0 ++ leBytes 4 r0 ++ leBytes 4 r1
    ++ leBytes 4 r2 ++ leBytes 4 r3

/-- Pads the body of a device message to its length. -/
def padTo (n : Nat) (bs : List Byte) : List Byte := (bs ++ List.replicate n 0).take n

/-- A completion goes to its reply till: bare in a till of KIND 1, in a COMPLETE message in any other (16 R422). -/
def writeCompletion (s : State) (n : Nat) (bytes : List Byte) : State :=
  let s := updTill s n fun t => { t with reserved := t.reserved - 1 }
  if (getTill s n).kind = 1 then writeEntry s n bytes true
  else writeMessage s n 0x00FF 0 bytes true

/-- Puts a message on the outgoing queue of a transport; one that is no completion is discarded when 64 wait, and the
next carries LOST (21 R542). -/
def mctpQueue (s : State) (transport : Nat) (o : Outgoing) : State :=
  updMgmt s fun m => { m with transports := modNth m.transports transport fun t =>
    if o.completion ∨ t.queue.length < 64 then { t with queue := t.queue ++ [o] } else { t with lost := true } }

/-- The vendor-defined message that carries a class and a body (21 R541). -/
def vendorBody (cls : Nat) (data : List Byte) : List Byte :=
  (leBytes 2 Config.vendorId.toNat).reverse ++ leBytes 1 cls ++ data

/-- A completion of a management command returns to the endpoint and transport it came from (21 R541). -/
def mgmtComplete (s : State) (via : Nat × Nat) (data : List Byte) : State :=
  mctpQueue s via.1 { eid := via.2, type := 0x7E, completion := true, data := vendorBody 1 data }

/-- An event for management: to the endpoint that holds the session, else to the bus owner (21 R542). -/
def mgmtEvent (s : State) (opcode len : Nat) (body : List Byte) : State :=
  let to_ := if s.host.mgmtSession.isSome then s.mgmt.holder else (s.mgmt.current.1, 0)
  let t := nth Transport.reset s.mgmt.transports to_.1
  let msg := header opcode (b2n t.lost) t.seq.toNat len 0 0 ++ body
  let full := decide (64 ≤ t.queue.length)
  let s := mctpQueue s to_.1 { eid := to_.2, type := 0x7E, completion := false, data := vendorBody 2 msg }
  updMgmt s fun m => { m with transports := modNth m.transports to_.1 fun t => { t with seq := t.seq + 1, lost := full } }

/-- A command's completion: status and result words. -/
structure Done where
  status : Nat
  r0 : Nat
  r1 : Nat
  r2 : Nat
  r3 : Nat
  deriving DecidableEq, Repr

def Done.of (status : Nat) : Done := ⟨status, 0, 0, 0, 0⟩

/-- Status codes (16 R424). -/
def eOk : Nat := 0x0
def eVersion : Nat := 0x1
def eLength : Nat := 0x2
def eOpcode : Nat := 0x3
def eTenant : Nat := 0x4
def ePresence : Nat := 0x5
def eLocked : Nat := 0x6
def eBusy : Nat := 0x7
def eNofit : Nat := 0x8
def eFault : Nat := 0x9
def eAborted : Nat := 0xA
def eSuperseded : Nat := 0xB
def eState : Nat := 0xC
def eResource : Nat := 0xD
def eTimeout : Nat := 0xE

/-! ### Frames and service clients (17 R447, R450) -/

/-- A frame of a MAC: addresses, VLAN tag when there is one, EtherType, payload. -/
def sendFrame (s : State) (mac : Nat) (what : String) (dst : Nat) (vlan : Option Nat) (type : Nat) (payload : List Byte) : State :=
  let be := fun (n v : Nat) => (leBytes n v).reverse
  let tag := match vlan with
    | some v => be 2 0x8100 ++ be 2 v
    | none => []
  let s := updMac s mac fun m => { m with txFrames := satInc m.txFrames 1 }
  emit s (.frame mac what (be 6 dst ++ be 6 (s.net.macBase.toNat + mac) ++ tag ++ be 2 type ++ payload))

/-- A field of a message body, at its offset in the message. -/
def bodyField (body : List Byte) (off n : Nat) : Nat := imgLe body (off - 0x10) n

/-- The service whose request till a till is. -/
def svcOfTill (s : State) (till : Nat) : Option (Nat × Svc) :=
  s.services.find? fun e => partTill e.2.part (bodyField e.2.fields 0x18 2) = till

/-- A message to a service client leaves as a service frame (17 R450). -/
def serviceSend (s : State) (svc : Nat) (v : Svc) (addr opcode tag : Nat) (body : List Byte) : State :=
  let till := partTill v.part (bodyField v.fields 0x18 2)
  let t := getTill s till
  let s := updTill s till fun t => { t with seq := t.seq + 1 }
  sendFrame s (bodyField v.fields 0x15 1) "service" addr (some (bodyField v.fields 0x16 2 % 4096)) 0x88B5
    (leBytes 1 svc ++ leBytes 1 0 ++ header opcode 0 t.seq.toNat (16 + body.length) 0 tag ++ body)

/-- Completes a command in progress by its ticket (16 R421, 15 R407). -/
def complete (s : State) (id : Nat) (d : Done) : State :=
  match s.host.tickets.find? fun t => t.id = id with
  | none => s
  | some t =>
    let s := { s with host := { s.host with tickets := s.host.tickets.filter fun t => t.id ≠ id } }
    let bytes := completionBytes t.tag.toNat d.status t.opcode t.seq.toNat d.r0 d.r1 d.r2 d.r3
    match t.src with
    | .mgmt => mgmtComplete s t.via bytes
    | .fn _ => writeCompletion s t.reply bytes
    | .client a =>
      match t.till.bind (svcOfTill s) with
      | some (i, v) => serviceSend s i v a 0x00FF 0 bytes
      | none => s

/-- Completes a command with a status alone. -/
def completeWith (s : State) (id status : Nat) : State := complete s id (Done.of status)

/-! ### Events (16 R442, R443) -/

/-- The till number that an event or report till record's key names, coded as in R429. -/
def tillCode (n : Nat) : Nat := if n < 96 then (if n % 3 = 0 then 0xFFFD else if n % 3 = 1 then 0xFFFF else 0xFFFE) else (n - 96) % 8192

/-- The event till of a partition: its KIND 2 till of lowest index, else the function event till of its lowest bound
function, else PF0's (16 R442). -/
def partEventTill (s : State) (p : Nat) : Nat :=
  match s.host.tills.find? fun e => partTill p 0 ≤ e.1 ∧ e.1 < partTill (p + 1) 0 ∧ e.2.kind = 2 ∧ e.2.state ≠ .unconfigured with
  | some e => e.1
  | none =>
    match Tbl.find s.work.parts p with
    | some q => fnTill (((List.range 32).find? fun f => q.functions.getLsbD f).getD 0) 2
    | none => fnTill 0 2

/-- An event of a partition. -/
def partEvent (s : State) (p opcode len : Nat) (body : List Byte) : State :=
  writeMessage s (partEventTill s p) opcode 0 (padTo (len - 16) body) false

/-- An event of device scope: to PF0's event till and to management (16 R442). -/
def deviceEvent (s : State) (opcode len : Nat) (body : List Byte) : State :=
  let s := writeMessage s (fnTill 0 2) opcode 0 (padTo (len - 16) body) false
  mgmtEvent s opcode len (padTo (len - 16) body)

/-- DEVICE_EVENT (16 R443): KIND, UNIT_KIND, INDEX, ENABLED. -/
def sendDeviceEvent (s : State) (kind unit index enabled : Nat) : State :=
  deviceEvent s 0x0B80 32 (leBytes 1 kind ++ leBytes 1 unit ++ leBytes 2 index ++ leBytes 1 enabled)

/-- POWER_EVENT of device or partition scope (16 R443). -/
def sendPowerEvent (s : State) (kind : Nat) (part : Option Nat) (value : Nat) : State :=
  let body := leBytes 1 kind ++ leBytes 1 (b2n part.isSome) ++ leBytes 1 (part.getD 0) ++ leBytes 1 0 ++ leBytes 4 value
  match part with
  | none => deviceEvent s 0x0680 32 body
  | some p => partEvent s p 0x0680 32 body

/-- A till enters ERROR and TILL_ERROR is sent to the event till of its holder, unless that is the failing till itself
(16 R443). -/
def tillFails (s : State) (n reason : Nat) : State :=
  let s := tillError s n reason
  let t := getTill s n
  let ev := fnTill t.fn 2
  if ev = n then s
  else writeMessage s ev 0x0080 0
    (padTo 16 (leBytes 2 (tillCode n) ++ leBytes 1 t.reason.toNat ++ leBytes 1 3 ++ leBytes 2 t.prod.toNat ++ leBytes 2 t.cons.toNat)) false

/-! ### The error log (19 R514, R515) -/

/-- A log entry of device time now. An entry of CLASS 1 that equals one of the last second in its unit and DETAIL adds to
that entry's COUNT; an entry of another CLASS waits for the persistent ring (R515). -/
def log (s : State) (cls unitKind unitIndex detail part action : Nat) : State :=
  let now := nowNs s
  let same := fun (e : LogEntry) => decide (e.cls = cls ∧ e.unitKind = unitKind ∧ e.unitIndex = unitIndex ∧ e.detail = detail
    ∧ now ≤ e.timeS * 1000000000 + e.timeNs + 1000000000)
  let s := updRel s fun r =>
    { r with
      ceTotal := if cls = 1 then satInc r.ceTotal 1 else r.ceTotal
      ueTotal := if cls = 2 then satInc r.ueTotal 1 else r.ueTotal }
  if cls = 1 ∧ s.rel.log.any same then
    updRel s fun r => { r with log := r.log.map fun e => if same e then { e with count := satAdd 16 e.count 1 } else e }
  else
    updRel s fun r =>
      let e : LogEntry :=
        { seq := r.nextSeq, timeS := timeS s % 2 ^ 32, timeNs := timeSubNs s, cls := cls, unitKind := unitKind,
          unitIndex := unitIndex, detail := detail, partition := part, action := action, count := 1,
          firmware := s.sys.version.toNat }
      { r with
        log := (r.log ++ [e]).drop (r.log.length + 1 - 1024)
        nextSeq := r.nextSeq + 1
        flashPending := if cls = 1 then r.flashPending else r.flashPending ++ [e] }

/-- A CONFIG entry of an IOD block (CLASS 9, UNIT_KIND 6). -/
def logConfig (s : State) (index detail : Nat) : State := log s 9 6 index detail 0xFF 0

end Sys2Proof.Machine
end

