-- ==== Sys2Proof/Machine/Work.lean ====
section
/-! DEFINITION. Shared operations on partitions, HBM, tallies, the ledger and invocations: what several commands do to
them (02, 12, 13, 14). -/

namespace Sys2Proof.Machine

/-! ### Partitions and their HBM (12 R312, R313) -/

/-- A partition that exists: from PART_DESTROY's acceptance it does not exist for any command (13 R336). -/
def getPart (s : State) (p : Nat) : Option Part :=
  match Tbl.find s.work.parts p with
  | some q => if q.destroying.isSome then none else some q
  | none => none

def updPart (s : State) (p : Nat) (f : Part → Part) : State :=
  updWork s fun w => { w with parts := w.parts.map fun e => if e.1 = p then (e.1, f e.2) else e }

/-- Bytes of an HBM page, 2 MiB. -/
def pageBytes : Nat := 2097152

def Part.isMapped (q : Part) (page : Nat) : Bool := decide (page < q.allot.length) && Tbl.get false q.mapped page

/-- The physical byte that a partition address names, when its page is MAPPED (12 R312). -/
def Part.phys (q : Part) (a : Nat) : Option Nat :=
  if q.isMapped (a / pageBytes) then (q.allot[a / pageBytes]?).map fun g => g * pageBytes + a % pageBytes else none

/-- Whether a range of partition addresses lies in MAPPED pages. -/
def Part.holds (q : Part) (a n : Nat) : Bool :=
  let first := a / pageBytes
  let last := (a + max n 1 - 1) / pageBytes
  (List.range (last + 1 - first)).all fun k => q.isMapped (first + k)

/-- One byte of partition HBM. -/
def hbmByte (s : State) (q : Part) (a : Nat) : Byte :=
  match q.phys a with
  | some b => Mem.read s.work.hbm b
  | none => 0

/-- The n bytes of partition HBM from an address. -/
def hbmBytes (s : State) (q : Part) (a : Nat) : Nat → List Byte
  | 0 => []
  | n + 1 => hbmByte s q a :: hbmBytes s q (a + 1) n

/-- Writes bytes to partition HBM; bytes of pages that are not MAPPED are not written. -/
def hbmWriteIn (m : Mem) (q : Part) (a : Nat) : List Byte → Mem
  | [] => m
  | b :: bs =>
    hbmWriteIn (match q.phys a with
      | some x => Mem.write m x b
      | none => m) q (a + 1) bs

def hbmWrite (s : State) (p a : Nat) (bs : List Byte) : State :=
  match Tbl.find s.work.parts p with
  | some q => updWork s fun w => { w with hbm := hbmWriteIn w.hbm q a bs }
  | none => s

/-- A core as a partition names it: owned cores, then borrowed ones, in ascending physical index (13 R333). -/
def Part.cores (q : Part) : List Nat := q.owned ++ q.borrowed

/-! ### Units in service (01 R19, 19 R504) -/

/-- The field map in force: the copy with the higher sequence number. -/
def fieldMap (s : State) : List UnitId := if s.rel.mapA.seq < s.rel.mapB.seq then s.rel.mapB.entries else s.rel.mapA.entries

/-- The mend map in force: factory, field, volatile, and what waits to be written to the field map. -/
def mendMap (s : State) : List UnitId := s.sec.fuses.factory ++ fieldMap s ++ s.rel.mapPending ++ s.rel.volatile

def disabled (s : State) (kind index : Nat) : Bool := (mendMap s).contains ⟨kind, index⟩

/-- Enabled physical cores, ascending. -/
def enabledCores (s : State) : List Nat := (List.range 72).filter fun p => !disabled s 0 p

/-- ENABLED of 15 R403. -/
def enabledCount (s : State) : Nat := (enabledCores s).length

/-- Logical index of an enabled physical core (01 R19). -/
def logicalCore (s : State) (p : Nat) : Nat := ((enabledCores s).filter fun q => q < p).length

/-- Physical core of a logical index. -/
def physicalCore (s : State) (l : Nat) : Option Nat := (enabledCores s)[l]?

/-- The part's orderable core count (00 R1). -/
def orderable (s : State) : Nat := if s.sec.fuses.part = 0x38 then 56 else 64

/-- The compute die of a core (01 R18). -/
def dieOf (core : Nat) : Nat := if core < 36 then 0 else 1

/-! ### The ledger (13 R347, R348) -/

/-- A new ledger entry. -/
def Ledger.zero (part kind client : Nat) : Ledger :=
  { part := part, kind := kind, client := client, capBinding := false, thermal := false, overflow := false, ended := false,
    deadlineMiss := 0, invocations := 0, activeCycles := 0, waitCycles := 0, skippedPulses := 0, queueNs := 0,
    preemptions := 0, preemptedNs := 0, hbmRead := 0, hbmWrite := 0, linkBytes := 0, portBytes := 0, energyUj := 0,
    aborts := 0, barrierNs := 0 }

/-- What is added to an entry: counters by saturating addition, flags by or (13 R348). -/
def Ledger.add (a b : Ledger) : Ledger :=
  { a with
    capBinding := a.capBinding || b.capBinding
    thermal := a.thermal || b.thermal
    deadlineMiss := satAdd 32 a.deadlineMiss b.deadlineMiss
    invocations := satAdd 64 a.invocations b.invocations
    activeCycles := satAdd 64 a.activeCycles b.activeCycles
    waitCycles := satAdd 64 a.waitCycles b.waitCycles
    skippedPulses := satAdd 64 a.skippedPulses b.skippedPulses
    queueNs := satAdd 64 a.queueNs b.queueNs
    preemptions := satAdd 64 a.preemptions b.preemptions
    preemptedNs := satAdd 64 a.preemptedNs b.preemptedNs
    hbmRead := satAdd 64 a.hbmRead b.hbmRead
    hbmWrite := satAdd 64 a.hbmWrite b.hbmWrite
    linkBytes := satAdd 64 a.linkBytes b.linkBytes
    portBytes := satAdd 64 a.portBytes b.portBytes
    energyUj := satAdd 64 a.energyUj b.energyUj
    aborts := satAdd 32 a.aborts b.aborts
    barrierNs := satAdd 64 a.barrierNs b.barrierNs }

/-- Nothing to add. -/
def Ledger.none : Ledger := Ledger.zero 0 0 0

def Ledger.is (e : Ledger) (p kind client : Nat) : Bool := decide (e.part = p ∧ e.kind = kind ∧ e.client = client)

/-- CLIENT of a partition total (13 R347). -/
def totalClient : Nat := 0xFFFFFFFF

/-- Adds to one entry of the ledger, making it when there is room among 8,192 client entries. -/
def ledgerAdd (l : List Ledger) (p kind client : Nat) (d : Ledger) : List Ledger :=
  if l.any fun e => e.is p kind client then l.map fun e => if e.is p kind client then e.add d else e
  else if kind = 3 ∨ (l.filter fun e => e.kind ≠ 3).length < 8192 then l ++ [(Ledger.zero p kind client).add d]
  else l.map fun e => if e.is p 3 totalClient then { e with overflow := true } else e

/-- Charges a client, and the partition total (13 R347). -/
def charge (s : State) (p kind client : Nat) (d : Ledger) : State :=
  updWork s fun w => { w with ledger := ledgerAdd (ledgerAdd w.ledger p 3 totalClient d) p kind client d }

/-- The client whose account a job's invocations go to (13 R347): the job, or its cell's adaptation. -/
def Job.client (j : Job) (h : Nat) : Nat × Nat :=
  match j.kind with
  | .adapt c => (2, c)
  | _ => (0, h)

/-- Charges the client of a job. -/
def chargeJob (s : State) (h : Nat) (d : Ledger) : State :=
  match getJob s h with
  | some j => charge s j.part (j.client h).1 (j.client h).2 d
  | none => s

/-- Marks a client ended (13 R351). -/
def clientEnds (s : State) (p kind client : Nat) : State :=
  updWork s fun w => { w with ledger := w.ledger.map fun e => if e.is p kind client then { e with ended := true } else e }

/-- Charges bytes, energy or cycles of an epoch: a service's are held until the epoch ends and are then divided (13 R350):
`i` is the place of the quantity in `Invocation.use`. -/
def chargeUse (s : State) (h i amount : Nat) (d : Ledger) : State :=
  match getJob s h with
  | none => s
  | some j =>
    if j.service.isSome then
      updRun s h fun r => { r with use := (List.range 6).map fun k => nth 0 r.use k + (if k = i then amount else 0) }
    else chargeJob s h d

/-! ### Tallies (14 R354-R361) -/

def getTally (s : State) (t : Nat) : Tally := Tbl.get Tally.zero s.work.tallies t
def updTally (s : State) (t : Nat) (f : Tally → Tally) : State :=
  updWork s fun w => { w with tallies := Tbl.upd Tally.zero w.tallies t f }

/-- The value that waits of a physical core see (14 R360). -/
def Tally.visible (t : Tally) (core : Nat) : Nat :=
  t.value.toNat - sumNat ((t.recent.filter fun r => !r.seen.getLsbD core).map fun r => r.amount)

/-- LAST_SOURCE (14 R368). -/
def sourceCode (kind ident : Nat) : Nat := kind * 4096 + ident % 4096

/-- Adds to a tally at the bank: refused when it would pass 2^64 − 1 (14 R355-R357). `core`: the poster, when it is a core,
sees it at once. -/
def tallyAdd (s : State) (t amount source time : Nat) (core : Option Nat) : State × Bool :=
  let x := getTally s t
  if 2 ^ 64 ≤ x.value.toNat + amount then (updTally s t fun x => { x with overflowed := true }, false)
  else
    let seen : BitVec 72 := match core with
      | some c => if x.barrier.isSome then 0 else BitVec.ofNat 72 (2 ^ c)
      | none => 0
    (updTally s t fun x =>
      { x with
        value := x.value + BitVec.ofNat 64 amount
        posts := satInc x.posts 1
        lastS := BitVec.ofNat 32 (timeS s)
        lastNs := BitVec.ofNat 32 (timeSubNs s)
        lastSource := BitVec.ofNat 16 source
        lastAdd := BitVec.ofNat 32 amount
        recent := x.recent ++ [{ amount := amount, time := time, seen := seen }] }, true)

/-- The global index of a partition tally (14 R354). -/
def tallyOf (s : State) (p i : Nat) : Nat :=
  match Tbl.find s.work.parts p with
  | some q => q.tallyFirst + i
  | none => i

/-- The device's own group members across Relne ports that are up and enabled. -/
def relneSend (s : State) (ports : List Nat) (what : String) (data : List Nat) : State :=
  ports.foldl (fun s p => emit s (.relne p what data)) s

/-- Ports that are up, enabled and rightly wired. -/
def relnePorts (s : State) : List Nat :=
  (List.range 4).filter fun p =>
    let r := nth RelnePort.down s.net.relne.ports p
    r.up && !r.miswired && s.net.relne.portEn.getLsbD p

/-- An addition to a job's tally, sent to the group when it is a group tally of the job (14 R378, 17 R473). -/
def jobTallyAdd (s : State) (h i amount source : Nat) (core : Option Nat) : State × Bool :=
  match getJob s h with
  | none => (s, false)
  | some j =>
    let r := tallyAdd s (tallyOf s j.part i) amount source (nowNs s) core
    match j.groups.find? fun g => g.2.1 = i with
    | some g =>
      if r.2 then (relneSend r.1 (relnePorts s) "tally" [j.part, j.groupTag, g.1, amount, nowNs s, s.net.relne.chip.toNat], true) else r
    | none => r

/-! ### Segments and rinses (12 R307-R310) -/

/-- Segments of a mask. -/
def segList (m : BitVec 12) : List Nat := (List.range 12).filter fun i => m.getLsbD i

/-- Zeroes a segment (12 R309). -/
def CoreCtl.zeroSeg (k : CoreCtl) (seg : Nat) : CoreCtl :=
  { k with scratch := Mem.zero k.scratch (seg * 262144) ((seg + 1) * 262144) }

/-- Sets the power state of segments. -/
def CoreCtl.setPower (k : CoreCtl) (segs : List Nat) (p : SegPower) : CoreCtl :=
  { k with power := k.power.mapIdx fun i x => if i ∈ segs then p else x }

/-- Begins to rinse segments of a core: they are ON while they are rinsed (12 R307). -/
def CoreCtl.beginRinse (k : CoreCtl) (segs : List Nat) : CoreCtl :=
  { k.setPower segs .on with rinsing := dedup (k.rinsing ++ segs) }

/-- Begins a rinse of segments of several cores, and what follows it. -/
def startRinse (s : State) (parts : List (Nat × List Nat)) (use : RinseFor) : State :=
  let s := parts.foldl (fun s e => updCore s e.1 fun k => k.beginRinse e.2) s
  updWork s fun w => { w with rinses := w.rinses ++ [{ cores := parts.map Prod.fst, use := use }] }

/-- The segments of a job on each of its cores. -/
def Job.segParts (j : Job) : List (Nat × List Nat) := j.insts.map fun i => (i.core, segList i.segments)

/-! ### Invocations -/

/-- Puts a job's tables on a core that changes hands: programs, operand file; registers, accumulators and stationary registers are cleared
(03 R85, R91; 05 R136, R137). The signal unit is left alone: it is never lent (06 R162). -/
def installTables (s : State) (h : Nat) (i : Inst) : State :=
  let s := updEng s i.core fun e =>
    { e with
      mat := { Matrix.reset with opfile := i.opfile }
      vec := { VecUnit.reset with prog := i.vecProg } }
  updCore s i.core fun k => { k with tables := some h }

/-- A job takes a core: where its own tables still stand there, its accumulators and registers are as it left them (03 R85, R92;
05 R136). -/
def takeCore (s : State) (h : Nat) (i : Inst) : State :=
  if (getCore s i.core).tables = some h then s else installTables s h i

/-- Vector, mask and pointer registers as each JOB_START sets them, on a core whose tables are the job's (05 R136). -/
def clearVector (s : State) (h : Nat) (i : Inst) : State :=
  if (getCore s i.core).tables = some h then updEng s i.core fun e => { e with vec := { e.vec with v := [], m := [], p := [] } } else s

/-- The signal unit as each JOB_START sets it (06 R140, R161, R164). -/
def installSignal (s : State) (i : Inst) : State :=
  updEng s i.core fun e => { e with sig := { SigUnit.reset with prog := i.sigProg, x := i.sigX, y := i.sigY } }

/-- The instruction at which a signal unit stands. -/
def SigUnit.word (u : SigUnit) : Nat := (if u.repeating then u.latch else Tbl.get (0 : BitVec 48) u.prog u.pc).toNat

/-- The pointers that an instruction addresses through, or reads by PCOPY or PGET (06 R147, R157, R158, R160). -/
def sigUses (w : Nat) : List Nat :=
  if bit w 47 then
    match bits w 46 40 with
    | 0x48 => [bits w 2 0]
    | 0x49 | 0x4A => [bits w 38 36]
    | _ => []
  else
    (if mvEn (sXm w) then [mvPtr (sXm w)] else []) ++ (if mvEn (sYm w) then [4 + mvPtr (sYm w)] else [])
      ++ (if sAluOp w = 0x22 then [sSrc1 w] else [])

/-- Whether the unit holds the instruction at which it stands for one work cycle (06 R147). -/
def SigUnit.held (u : SigUnit) : Bool :=
  match u.guarded with
  | some p => (sigUses u.word).contains p
  | none => false

/-- An event boundary of the signal unit: no repeated instruction and no delay slot is outstanding; after a single step, one further
on, be it past a held cycle (06 R166). -/
def SigUnit.boundary (u : SigUnit) : Bool := !u.repeating && u.branch.isNone && (!u.mustMove || u.held)

/-- The signal unit stops and its program ends (06 R167). -/
def SigUnit.stopped (u : SigUnit) : SigUnit :=
  { u with
    running := false, branch := none, repeating := false, stack := [], halted := false, stopPending := false, stopEnds := false
    mustMove := false, guarded := none }

/-- Stops the units of a core at once: accumulators, stationary registers, vector state as 03 R92, 05 R137 state; the
signal unit stops at its next event boundary (06 R166, R167). -/
def stopUnits (s : State) (c : Nat) : State :=
  updEng s c fun e =>
    { mat := { Matrix.reset with opfile := e.mat.opfile }
      vec := { e.vec with v := [], m := [], p := [], active := false, loops := [] }
      sig := if e.sig.running ∧ (e.sig.repeating ∨ e.sig.branch.isSome) then { e.sig with stopPending := true, stopEnds := true }
        else e.sig.stopped }

/-- Debug commands that wait for a unit of a core whose invocation is over end with E_ABORTED (log 78). -/
def dropDebug (s : State) (c : Nat) : State :=
  let ts := (getEng s c).sig.haltTickets
  if ts = [] then s
  else ts.foldl (fun s t => completeWith s t eAborted) (updEng s c fun e => { e with sig := { e.sig with haltTickets := [] } })

/-- Epochs that every core of an invocation has completed. -/
def Job.epochsDone (j : Job) : Nat :=
  match j.insts with
  | [] => 0
  | i :: is => is.foldl (fun n k => min n k.epoch) i.epoch

/-- The 32 bytes of a clip record (04 R113). -/
def clipRecord (tag entry station inv nan clipped total : Nat) : List Byte :=
  leBytes 4 tag ++ leBytes 2 entry ++ leBytes 2 station ++ leBytes 4 inv ++ leBytes 4 (min nan (2 ^ 32 - 1)) ++ leBytes 8 clipped
    ++ leBytes 8 total

/-- Inserts a number into an ascending list without repeats. -/
def insertAsc (n : Nat) : List Nat → List Nat
  | [] => [n]
  | m :: l => if n < m then n :: m :: l else if n = m then m :: l else m :: insertAsc n l

/-- The entries of every MINT station: (station, entry, LAYER_TAG), ascending (04 R108). -/
def mintEntries (img : List Byte) : List (Nat × Nat × Nat) :=
  ((List.range (imgSection img 0x0001).1).filter fun st => stationField img st 0 1 = 6).flatMap fun st =>
    let o := stationField img st 0x0C 4
    (List.range (constField img o 2)).map fun e => (st, e, constField img (o + 16 + 48 * e + 0x20) 4)

/-- The clip records of an invocation, in the order of 04 R113. -/
def clipRecords (img : List Byte) (r : Invocation) : List (List Byte) :=
  let es := mintEntries img
  let of_ := fun (p : MintCount → Bool) => r.mints.filter p
  let entry := es.map fun e =>
    let c := of_ fun c => c.station = e.1 ∧ c.entry = e.2.1
    clipRecord e.2.2 e.2.1 e.1 r.number (sumNat (c.map (·.nan))) (sumNat (c.map (·.clipped))) (sumNat (c.map (·.total)))
  let tags := (es.filter fun e => e.2.2 ≠ 0).foldl (fun l e => insertAsc e.2.2 l) []
  let layer := tags.map fun t =>
    let c := of_ fun c => c.layerTag = t
    clipRecord t 0xFFFF 0xFFFF r.number (sumNat (c.map (·.nan))) (sumNat (c.map (·.clipped))) (sumNat (c.map (·.total)))
  let all := r.mints
  entry ++ layer ++ [clipRecord 0xFFFFFFFF 0xFFFF 0xFFFF r.number (sumNat (all.map (·.nan))) (sumNat (all.map (·.clipped)))
    (sumNat (all.map (·.total)))]

/-- The last epoch of an invocation: EPOCH_LIMIT − 1, or the L of JOB_STOP (02 R47, R62). -/
def lastEpoch (j : Job) (r : Invocation) : Option Nat :=
  let limit := imgLe j.image 0x14 4
  match r.last with
  | some l => some (if limit = 0 then l else min l (limit - 1))
  | none => if limit = 0 then none else some (limit - 1)

/-! ### Digest records (02 R69, R70; 14 R374) -/

/-- A DIGESTS record's fields (02 R69). -/
def digestField (img : List Byte) (i off n : Nat) : Nat := imgField img 0x000C 16 i off n

/-- The partial results of a digest point and epoch, in ascending instance order, when every instance of the stream's producer has
one and every core has completed the epoch (14 R374, R376). -/
def digestParts (j : Job) (r : Invocation) (point epoch : Nat) : Option (List PartDigest) :=
  let producer := streamField j.image (digestField j.image point 4 2) 0 2
  let want := (j.insts.flatMap fun i => (i.stations.filter fun x => x.1 = producer).map Prod.snd).foldl (fun l k => insertAsc k l) []
  let have_ := want.filterMap fun k => r.digests.find? fun d => d.point = point ∧ d.epoch = epoch ∧ d.inst = k
  if want ≠ [] ∧ have_.length = want.length ∧ epoch < j.epochsDone then some have_ else none

/-- Combines the partial results of a point and epoch into one digest record (02 R70, 16 R433); of a point with EVERY 0, in the last
epoch only (02 R69). -/
def combineDigest (s : State) (h point epoch : Nat) : State :=
  match getJob s h with
  | none => s
  | some j =>
    match j.run with
    | none => s
    | some r =>
      match (if digestField j.image point 10 2 = 0 ∧ lastEpoch j r ≠ some epoch then none else digestParts j r point epoch) with
      | none => s
      | some ds =>
        let crc := crc64 (ds.flatMap fun d => d.bytes)
        let rec_ := leBytes 4 (digestField j.image point 0 4) ++ leBytes 2 point ++ leBytes 2 0 ++ leBytes 4 s.sys.version.toNat
          ++ leBytes 4 r.number ++ leBytes 4 epoch ++ leBytes 4 0 ++ leBytes 8 crc
        let cap := (j.recordPages * pageBytes - 0x10000) / 32
        let s := if cap = 0 then s else hbmWrite s j.part (j.recordAddr + 0x10000 + 32 * (j.digestHead % cap)) rec_
        updJob s h fun j =>
          { j with
            digestHead := (j.digestHead + 1) % 2 ^ 32
            run := j.run.map fun r => { r with digests := r.digests.filter fun d => d.point ≠ point ∨ d.epoch ≠ epoch } }

/-- Combines every digest of completed epochs: what an invocation that ends still has to write. -/
def combineAll (s : State) (h : Nat) : State :=
  match (getJob s h).bind Job.run with
  | none => s
  | some r => (dedup (r.digests.map fun d => (d.epoch, d.point))).foldl (fun s k => combineDigest s h k.2 k.1) s

/-- Whether every core that holds an instance of a station has completed an epoch (04 R114). -/
def stationDone (j : Job) (station epoch : Nat) : Bool :=
  j.insts.all fun i => !(i.stations.any fun x => x.1 = station) || decide (epoch < i.epoch)

/-- Tests one entry's clip share in an epoch, by that epoch's counts alone (04 R114). -/
def testClip (h epoch station : Nat) (s : State) (entry : Nat) : State :=
  match getJob s h with
  | none => s
  | some j =>
    match j.run with
    | none => s
    | some r =>
      match r.mints.find? fun c => c.station = station ∧ c.entry = entry with
      | none => s
      | some c =>
        let limit := mintFieldOf j.image station entry
        let now := c.epochs.filter fun e => e.1 = epoch
        let total := sumNat (now.map fun e => e.2.1)
        let clipped := sumNat (now.map fun e => e.2.2)
        let hit := limit ≠ 0 && !c.sent && decide (limit * total < clipped * 65536)
        let s := updRun s h fun r => { r with mints := r.mints.map fun x =>
          if x.station = station ∧ x.entry = entry then { x with epochs := x.epochs.filter (fun e => e.1 ≠ epoch), sent := x.sent || hit } else x }
        if hit then
          partEvent s j.part 0x0380 64
            (leBytes 4 h ++ leBytes 1 2 ++ leBytes 3 0 ++ leBytes 4 epoch ++ leBytes 2 station ++ leBytes 2 entry ++ leBytes 4 c.layerTag
              ++ leBytes 8 clipped ++ leBytes 8 total)
        else s
where
  mintFieldOf (img : List Byte) (station entry : Nat) : Nat := constField img (stationField img station 0x0C 4 + 16 + 48 * entry + 0x16) 2

/-- Tests every entry in every epoch that its station has completed and that is not tested yet: what an invocation that ends still owes
(04 R114). -/
def testClips (s : State) (h : Nat) : State :=
  match getJob s h with
  | none => s
  | some j =>
    match j.run with
    | none => s
    | some r => r.mints.foldl (fun s c => (c.epochs.reverse.filter fun e => stationDone j c.station e.1).foldl
        (fun s e => testClip h e.1 c.station s c.entry) s) s

/-! ### Services and their clients (13 R347, R350) -/

/-- A field of the body of SVC_OPEN, at its offset (R276). -/
def Svc.f (v : Svc) (off n : Nat) : Nat := bodyField v.fields off n
def Svc.batchSlots (v : Svc) : Nat := v.f 0x22 1
def getSvc (s : State) (i : Nat) : Option Svc := Tbl.find s.services i
def Svc.session (v : Svc) (id : Nat) : Option Session := v.sessions.find? fun x => x.id = id

/-- The ledger key of a client of a service: its CLIENT within the service (13 R347). -/
def svcClient (svc client : Nat) : Nat := svc * 2 ^ 32 + client

/-- Charges a client of a service. -/
def chargeClient (s : State) (i client : Nat) (d : Ledger) : State :=
  match getSvc s i with
  | some v => charge s v.part 1 (svcClient i client) d
  | none => s

/-- Divides the quantities of a service epoch among the clients of its slots (13 R350). -/
def divideUse (s : State) (h i : Nat) (b : Batch) : State :=
  match getSvc s i, getJob s h with
  | some v, some j =>
    match j.run with
    | none => s
    | some r =>
      let led := fun (q : Nat → Nat) => ({ Ledger.none with
        hbmRead := q 0, hbmWrite := q 1, energyUj := q 2, activeCycles := q 3, waitCycles := q 4, skippedPulses := q 5 } : Ledger)
      let share := fun k => nth 0 r.use k / v.batchSlots
      let rest := fun k => nth 0 r.use k % v.batchSlots
      let s := (List.range v.batchSlots).foldl (fun s k =>
        let d := led fun q => share q + if k = 0 then rest q else 0
        match (b.slots[k]?).bind fun x => v.session x.session with
        | some x => chargeClient s i x.client d
        | none => charge s j.part 0 h d) s
      updRun s h fun r => { r with use := List.replicate 6 0 }
  | _, _ => s

/-- The batch of a service epoch that is in progress, or that has just ended. -/
def Svc.current (v : Svc) (done : Nat) : Batch :=
  (v.batches.find? fun b => b.epoch ≤ done).getD { epoch := 0, prefill := false, slots := [] }

/-- Divides what the epoch in progress of a service's job has used so far, so that the accounts hold it (13 R350, R351; log 105). -/
def divideHeld (s : State) (h : Nat) : State :=
  match getJob s h with
  | none => s
  | some j =>
    match j.service with
    | none => s
    | some i => match getSvc s i with
      | none => s
      | some v => divideUse s h i (v.current j.epochsDone)

/-- The same for every service of a partition. -/
def divideServices (s : State) (p : Nat) : State := (s.services.filter fun e => e.2.part = p).foldl (fun s e => divideHeld s e.2.job) s

/-- What is given in full to every client with a session in the epoch in progress (13 R350); another job's client is charged as
every job's. -/
def chargeEach (s : State) (h : Nat) (d : Ledger) : State :=
  match getJob s h with
  | none => s
  | some j =>
    match j.service.bind (getSvc s), j.service with
    | some v, some i =>
      let xs := (v.batches.filter fun b => b.epoch = j.epochsDone).flatMap fun b => b.slots.filterMap fun k => v.session k.session
      (dedup (xs.map fun x => x.client)).foldl (fun s k => chargeClient s i k d) s
    | _, _ => chargeJob s h d

/-- Writes the counts and clip records of an invocation that ends to the job record region (16 R433, 04 R113). -/
def writeJobRecord (s : State) (j : Job) (r : Invocation) (status : Nat) : State :=
  if j.recordPages = 0 then s
  else
    let clips := (clipRecords j.image r).take 1920
    let head := leBytes 4 r.number ++ leBytes 2 status ++ leBytes 2 0 ++ leBytes 8 j.epochsDone
      ++ leBytes 4 (min r.matSat (2 ^ 32 - 1)) ++ leBytes 4 (min r.vecSat (2 ^ 32 - 1)) ++ leBytes 4 (min r.gatherRange (2 ^ 32 - 1))
      ++ leBytes 4 (min r.sigLimit (2 ^ 32 - 1)) ++ leBytes 4 clips.length ++ leBytes 4 j.digestHead
    hbmWrite (hbmWrite s j.part j.recordAddr head) j.part (j.recordAddr + 0x1000) clips.flatten

/-- The segments of a job that no running job of the core uses pass to RETAIN (12 R307). -/
def retainSegs (s : State) (j : Job) : State :=
  j.insts.foldl (fun s i => updCore s i.core fun k =>
    { k with power := k.power.mapIdx fun n p => if i.segments.getLsbD n ∧ p = .on ∧ n ∉ k.rinsing then .retain else p }) s

/-- Takes a job off the cores: no claim, no ready entry, nothing running (13 R338, R341). -/
def leaveCores (s : State) (h : Nat) (j : Job) : State :=
  j.insts.foldl (fun s i => updCore s i.core fun k =>
    { k with
      claim := if k.claim = some h then none else k.claim
      run := if k.run = some h then none else k.run
      ready := k.ready.filter (· ≠ h) }) s

/-! ### Handing cores over (01 R33, 13 R338-R341) -/

/-- A core that nobody has: accumulators, stationary and vector registers hold nothing (03 R92, 05 R137). -/
def clearEngines (s : State) (c : Nat) : State :=
  updCore (updEng s c fun e => { e with mat := Matrix.reset, vec := VecUnit.reset }) c fun k => { k with tables := none }

/-- A core is handed to whoever claims it, or is left unclaimed, after a yield or a lent window (01 R33). -/
def handBack (s : State) (c : Nat) : State :=
  let k := getCore s c
  let s := updCore s c fun k => { k with yield := false, lentTo := none, run := k.claim }
  match k.claim with
  | none => clearEngines s c
  | some h =>
    match getJob s h with
    | none => s
    | some j =>
      match j.instOn c with
      | none => s
      | some i => installTables s h i

/-- The segments that lent windows of a core carry (13 R340). -/
def lentSegs (s : State) (c : Nat) : List Nat :=
  match s.work.parts.find? fun e => c ∈ e.2.owned with
  | some e => if e.2.lending then (List.range 12).filter fun n => decide (12 - e.2.lendSegments ≤ n) else []
  | none => []

/-- A core whose best-effort work has ended while a yield was pending is handed back, a lent one after its rinse (13 R338, R353). -/
def releaseCore (s : State) (c : Nat) : State :=
  let k := getCore s c
  if k.run.isSome ∨ ¬ k.yield then s
  else if k.lentTo.isNone ∨ lentSegs s c = [] then handBack s c
  else startRinse s [(c, lentSegs s c)] (.handBack c)

/-- An invocation ends: job record, ledger, completions of JOB_START, JOB_STOP and PLAN_SELECT, and the job is LOADED
(02 R62, R63; 16 R433, R434). `words`: RESULT0-2 when the cause gives them. -/
def endInvocation (s : State) (h status : Nat) (words : Option (Nat × Nat × Nat)) : State :=
  let s := divideHeld (testClips (combineAll s h) h) h
  match getJob s h with
  | none => s
  | some j =>
    match j.run with
    | none => s
    | some r =>
      let s := writeJobRecord s j r status
      let s := chargeJob s h { Ledger.none with
        invocations := 1, aborts := if status = eAborted ∨ status = eFault then 1 else 0 }
      let normal := status = eOk
      let done : Done := match words with
        | some (a, b, c) => ⟨status, a, b, c, 0⟩
        | none => ⟨status, r.number, j.epochsDone, 0, 0⟩
      let s := match r.ticket with
        | some t => complete s t done
        | none => s
      let s := r.stops.foldl (fun s t => completeWith s t eOk) s
      let s := r.sels.foldl (fun s p => complete s p.ticket ⟨if normal then eState else eAborted, p.effect, 0, 0, 0⟩) s
      let s := leaveCores s h j
      let s := retainSegs s j
      let s := updJob s h fun j =>
        { j with run := none, rebase := j.rebase || !normal, insts := j.insts.map fun i =>
            { i with phase := .idle, issued := [], saved := [] } }
      j.insts.foldl (fun s i => releaseCore (dropDebug s i.core) i.core) s

/-- The selector words of a job whose bytes lie in granules just written to HBM take the values written (02 R65; log 96). -/
def noteSelectors (s : State) (h : Nat) (q : Part) (far : List Nat) : State :=
  updJob s h fun j =>
    match Config.selectorBlock j.image with
    | none => j
    | some a =>
      let hit := (List.range 64).filter fun k => (q.phys (a + 4 * k)).any fun g => far.contains (g / 64 * 64)
      { j with selectors := hit.foldl (fun t k => Tbl.set 0 t k (leNat (hbmBytes s q (a + 4 * k) 4))) j.selectors }

/-- Lands a write: that of a step, or one in flight when its invocation stopped, since writes already issued complete (12 R328). -/
def landWrite (s : State) (p : Nat) (t : Txn) : State :=
  if t.kind = 1 then
    match Tbl.find s.work.parts p with
    | some q =>
      noteSelectors (updWork s fun w =>
        { w with hbm := (t.far.zipIdx).foldl (fun m e => Mem.writeBytes m e.1 ((t.data.drop (64 * e.2)).take 64)) w.hbm }) t.job q t.far
    | none => s
  else if t.kind = 2 then
    t.cores.foldl (fun s c => updCore s c fun k =>
      { k with scratch := (t.far.zipIdx).foldl (fun m e => Mem.writeBytes m (64 * e.1) ((t.data.drop (64 * e.2)).take 64)) k.scratch }) s
  else s

/-- Drops a job's transactions in flight; reads are discarded, writes complete (12 R328). -/
def dropTxns (s : State) (h : Nat) (j : Job) : State :=
  j.insts.foldl (fun s i =>
    let mine := (getCore s i.core).txns.filter fun t => t.job = h
    let s := mine.foldl (fun s t => landWrite s j.part t) s
    updCore s i.core fun k => { k with txns := k.txns.filter fun t => t.job ≠ h }) s

/-- Ends an invocation abnormally: its units stop, its segments are rinsed, and its completion is written when they are
(03 R92, 12 R309, R328). Cores in `lost` have failed and rinse nothing. -/
def abortInvocation (s : State) (h status : Nat) (words : Option (Nat × Nat × Nat)) (lost : List Nat) : State :=
  match getJob s h with
  | none => s
  | some j =>
    match j.run with
    | none => s
    | some r =>
      if r.ending then s
      else
        let s := dropTxns s h j
        let live := j.insts.filter fun i => i.core ∉ lost
        let s := live.foldl (fun s i => if (getCore s i.core).run = some h then stopUnits s i.core else s) s
        let s := updJob s h fun j =>
          { j with run := j.run.map fun r => { r with ending := true }, insts := j.insts.map fun i => { i with issued := [] } }
        let w := words.getD (r.number, j.epochsDone, 0)
        startRinse s (live.map fun i => (i.core, segList i.segments)) (.abort h status w.1 w.2.1 w.2.2)

/-- A memory fault of an invocation, with the words of 12 R329. -/
def memoryFault (s : State) (h cause stream page core segment : Nat) : State :=
  abortInvocation s h eFault (some (cause + stream * 65536, page, logicalCore s core + segment * 256)) []

/-! ### Starting invocations (02 R61, R62; 14 R359) -/

/-- The first time at or after a time at which ns mod PERIOD is PHASE (02 R61). -/
def alignedAt (t period phase : Nat) : Nat :=
  if period = 0 then t else t + (phase + period - t % 1000000000 % period) % period

/-- Sets the epoch bases of a job's bindings, and its ring positions (14 R359, 02 R594). -/
def setBases (s : State) (j : Job) : Job :=
  { j with
    rebase := false
    insts := j.insts.map fun i =>
      { i with
        binds := i.binds.map fun b => { b with base := ((getTally s (tallyOf s j.part b.tally)).value.toNat : Int) - b.offset }
        rings := i.rings.map fun r => { r with rho := 0 } } }

/-- The arrivals of a barrier that is not complete are those of an invocation that is over: a job whose bases are read anew has seen
them (14 R359, R379; log 104). -/
def clearArrivals (s : State) (j : Job) : State :=
  (j.groups.filter fun g => g.2.2).foldl (fun s g => updTally s (tallyOf s j.part g.2.1) fun t => { t with recent := [] }) s

/-- EPOCH_PERIOD and EPOCH_PHASE of a job (02 R47). -/
def Job.period (j : Job) : Nat := imgLe j.image 0x18 4
def Job.phase (j : Job) : Nat := imgLe j.image 0x1C 4
/-- DEADLINE_CLOCK in MHz. -/
def Job.clock (j : Job) : Nat := imgLe j.image 0x10 2

/-- Copies the constant blocks of an instance to its private areas (05 R122). -/
def copyConstants (s : State) (i : Inst) : State :=
  updCore s i.core fun k => { k with scratch := i.constants.foldl (fun m c => Mem.writeBytes m (64 * c.1) c.2) k.scratch }

/-- Requests that the best-effort instance of a core yields (01 R33). -/
def requestYield (s : State) (c : Nat) : State :=
  let k := getCore s c
  match k.run with
  | none => s
  | some h =>
    if k.yield then s
    else updInst (updCore s c fun k => { k with yield := true }) h c fun i => { i with yieldSince := nowNs s }

/-- Gives a core to a latency-critical job: at once when nothing runs on it, else by a yield (13 R338, R342). -/
def claimCore (s : State) (h : Nat) (i : Inst) : State :=
  let k := getCore s i.core
  if k.run.isNone ∨ k.run = some h then
    takeCore (updCore s i.core fun k => { k with claim := some h, run := some h }) h i
  else requestYield (updCore s i.core fun k => { k with claim := some h }) i.core

/-- FLAGS.RULES of the image. -/
def Job.rules (j : Job) : Bool := bit (imgLe j.image 0x0E 2) 1

/-- A field of the image's one RULES record (02 R64). -/
def Job.ruleField (j : Job) (off n : Nat) : Nat := imgField j.image 0x000E 80 0 off n

/-- The partition tally that a TALLIES record is bound to. -/
def Job.tallyOfRecord (j : Job) (rec : Nat) : Option Nat := (j.tallies.find? fun t => t.2.2 = rec).map fun t => t.1

/-- Epoch base of the READY tally for epoch 0 (02 R65, 14 R359). -/
def Job.readyBase (j : Job) (s : State) : Int :=
  if j.rules then
    let rec_ := j.ruleField 2 2
    match j.tallyOfRecord rec_ with
    | some t =>
      ((getTally s (tallyOf s j.part t)).value.toNat : Int)
        - (if tallyField j.image rec_ 0 1 = 2 then tallyField j.image rec_ 4 4 else 0 : Nat)
    | none => 0
  else 0

/-- Starts an invocation of a loaded job (02 R62, 13 R338-R342, 14 R359). `jobStart`: by JOB_START, or anew after an
abnormal end; otherwise it continues from the bases, registers and rings of the invocation before (14 R359, 06 R164). -/
def startInvocation (s : State) (h : Nat) (ticket : Option Nat) (jobStart : Bool) : State :=
  match getJob s h with
  | none => s
  | some j =>
    let now := nowNs s
    let fresh := jobStart || j.rebase
    let busy := !j.bestEffort && j.insts.any fun i =>
      match (getCore s i.core).run with
      | some k => decide (k ≠ h)
      | none => false
    let start := if busy then now + 20000 else now
    let s := if fresh then clearArrivals s j else s
    let j := if fresh then setBases s j else j
    let due := alignedAt start j.period j.phase
    let run : Invocation :=
      { ending := false, use := List.replicate 6 0, accepted := now, unbegun := j.insts.map (·.core), number := j.invocations + 1,
        ticket := ticket, stops := [], last := none, start := start, sels := [], rulePlans := [], ruleNext := 0, ruleBase := j.readyBase s, matSat := 0,
        vecSat := 0, gatherRange := 0, sigLimit := 0, mints := [], digests := [], ingests := [] }
    let j : Job :=
      { j with
        run := some run
        invocations := j.invocations + 1
        insts := j.insts.map fun i =>
          { i with
            phase := .between, plan := j.plan0, epoch := 0, step := 0, issued := [], due := due, late := false,
            minted := [], waitSince := now, saved := [] } }
    let j' : Job := { j with plan0 := 0 }
    let s := putJob s h j'
    let s := if fresh then j.insts.foldl (fun s i =>
      let s := clearVector (copyConstants s i) h i
      if j.bestEffort then s else installSignal s i) s else s
    if j.bestEffort then
      j.insts.foldl (fun s i => updCore s i.core fun k => { k with ready := k.ready ++ [h] }) s
    else
      j.insts.foldl (fun s i => claimCore s h i) s

/-! ### What follows rinses (12 R309) -/

/-- The partition instance of a rinse use: what follows the last core's rinse (12 R309). -/
def rinseDone (s : State) : RinseFor → State
  | .abort h status r0 r1 r2 => endInvocation s h status (some (r0, r1, r2))
  | .load _ => s
  | .unload t => completeWith s t eOk
  | .lend c p => updCore s c fun k => { k with lentTo := some p }
  | .handBack c => handBack s c
  | .other => s

/-- Performs what follows every rinse that no core still carries out: cores are handed back first. -/
def settleRinses (s : State) : State :=
  let ended := s.work.rinses.filter fun r => r.cores.isEmpty
  let back := fun (r : Rinse) => match r.use with
    | .handBack _ => true
    | _ => false
  let done := ended.filter back ++ ended.filter fun r => !back r
  let s := updWork s fun w => { w with rinses := w.rinses.filter fun r => !r.cores.isEmpty }
  done.foldl (fun s r => rinseDone s r.use) s

/-- Ends an invocation abnormally, and completes it at once when nothing is left to rinse. -/
def abortRun (s : State) (h status : Nat) (words : Option (Nat × Nat × Nat)) (lost : List Nat) : State :=
  settleRinses (abortInvocation s h status words lost)

/-- Aborts every running invocation of the jobs that satisfy a test. -/
def abortWhere (s : State) (p : Nat → Job → Bool) (status : Nat) (words : Option (Nat × Nat × Nat)) (lost : List Nat) : State :=
  (s.work.jobs.filter fun e => e.2.run.isSome && p e.1 e.2).foldl (fun s e => abortRun s e.1 status words lost) s

/-! ### Plans (02 R62, R63, R65) -/

/-- Whether an image has a plan (02 R52). -/
def Job.hasPlan (j : Job) (p : Nat) : Bool :=
  (List.range (imgSection j.image 0x0005).1).any fun r => imgField j.image 0x0005 16 r 0 1 = p

end Sys2Proof.Machine
end

