-- ==== Sys2Proof/Machine/Signal.lean ====
section
/-! DEFINITION. The signal unit's instructions (06_signal_unit). A row runs the instruction at which the unit of its
core stands; where the unit stands at another instruction, or runs no program, nothing happens (log 2). -/

namespace Sys2Proof.Machine

/-! ### Where the unit stands (06 R153, R154) -/

/-- The innermost DO has run its last iteration and waits to be left. -/
def doOver (u : SigUnit) : Bool :=
  match u.stack with
  | .loop _ last left :: _ => u.pc = last + 1 ∧ left = 0
  | _ => false

/-- A DO body has ended with iterations left: back to its first instruction. -/
def doBack (u : SigUnit) : SigUnit :=
  match u.stack with
  | .loop first last left :: fs =>
    if u.pc = last + 1 ∧ left > 0 then { u with pc := first, stack := .loop first last (left - 1) :: fs } else u
  | _ => u

/-- The unit moves past an instruction: a repeated one counts down, a delay slot brings a branch nearer. -/
def sNext (u : SigUnit) : SigUnit :=
  let u := { u with mustMove := false, guarded := none }
  if u.repeating then { u with repeat_ := u.repeat_ - 1 }
  else match u.branch with
    | some (0, t) => { u with pc := t, branch := none }
    | some (1, t) => { u with pc := t, branch := none }
    | some (n + 2, t) => { u with pc := u.pc + 1, branch := some (n + 1, t) }
    | none => doBack { u with pc := u.pc + 1 }

/-- A DO has run its last iteration: its entry is popped (06 R154). -/
def doLeave (u : SigUnit) : SigUnit := doBack { u with stack := u.stack.tail }

/-- A REP has run its count (06 R154). -/
def repLeave (u : SigUnit) : SigUnit := sNext { u with repeating := false }

/-- The word at which the unit of a core stands, when it may issue: a stop request is taken at the first event boundary (06 R166). -/
def sigWord (s : State) (c : Nat) : Option Nat :=
  let u := (getEng s c).sig
  if coreRuns s c ∧ u.running ∧ ¬ u.halted ∧ ¬ doOver u ∧ ¬ (u.repeating ∧ u.repeat_ = 0) ∧ ¬ (u.stopPending ∧ u.boundary) then some u.word
  else none

/-- Changes a core's signal unit. -/
def updSig (s : State) (c : Nat) (f : SigUnit → SigUnit) : State := updEng s c fun e => { e with sig := f e.sig }

/-! ### Registers -/

def getD (u : SigUnit) (i : Nat) : BitVec 24 := Tbl.get 0 u.d i
def setD (u : SigUnit) (i : Nat) (x : BitVec 24) : SigUnit := { u with d := Tbl.set 0 u.d i x }
def getA (u : SigUnit) (i : Nat) : BitVec 56 := Tbl.get 0 u.a i
def setA (u : SigUnit) (i : Nat) (x : BitVec 56) : SigUnit := { u with a := Tbl.set 0 u.a i x }
/-- X and Y memory: 32,768 words each, under 15 address bits (06 R142). -/
def getX (u : SigUnit) (a : Nat) : BitVec 24 := Tbl.get 0 u.x (a % 32768)
def getY (u : SigUnit) (a : Nat) : BitVec 24 := Tbl.get 0 u.y (a % 32768)
def setX (u : SigUnit) (a : Nat) (w : BitVec 24) : SigUnit := { u with x := Tbl.set 0 u.x (a % 32768) w }
def setY (u : SigUnit) (a : Nat) (w : BitVec 24) : SigUnit := { u with y := Tbl.set 0 u.y (a % 32768) w }

/-- A source register as an accumulator value: D0-D3 placed in the word field, A0-A3 (06 R141, R157). -/
def srcAcc (u : SigUnit) (r : Nat) : Int := if r < 4 then (accOfWord (getD u r)).toInt else (getA u (r - 4)).toInt

/-! ### Moves (06 R158) -/

/-- What a move does, computed on the state at issue: its pointer and the pointer's next value, then the register it
loads with the word, or the address it stores to with the word and whether the limiter acted. -/
structure Move where
  en : Bool
  ptr : Nat
  next : Nat
  load : Option (Nat × BitVec 24)
  store : Option (Nat × BitVec 24 × Bool)
  deriving DecidableEq, Repr

/-- Works out a move. -/
def moveOf (u : SigUnit) (isY : Bool) (m : Nat) : Move :=
  let i := mvPtr m + (if isY then 4 else 0)
  let (a, p) := ptrMode u i (mvAm m)
  let r := mvReg m
  if mvStore m then
    let (w, k) := if r < 4 then (getD u r, false) else limiter (getA u (r - 4))
    { en := mvEn m, ptr := i, next := p, load := none, store := some (a, w, k) }
  else { en := mvEn m, ptr := i, next := p, load := some (r, if isY then getY u a else getX u a), store := none }

/-- A move's pointer update, which happens whatever the condition (06 R152). -/
def movePtr (mv : Move) (u : SigUnit) : SigUnit := if mv.en then setPtr u mv.ptr mv.next else u

/-- A move's write of a register or memory word; the count of limiter actions. -/
def moveWrite (mv : Move) (isY : Bool) (un : SigUnit × Nat) : SigUnit × Nat :=
  let (u, n) := un
  if mv.en then
    match mv.load, mv.store with
    | some (r, w), _ => (if r < 4 then setD u r w else setA u (r - 4) (accOfWord w), n)
    | none, some (a, w, k) =>
      let u := if isY then setY u a w else setX u a w
      (if k then { u with csw := cswClip u.csw } else u, n + b2n k)
    | none, none => (u, n)
  else (u, n)

/-- Whether an enabled move loads data register d. -/
def Move.loadsD (mv : Move) (d : Nat) : Bool := mv.en && (match mv.load with | some (r, _) => r = d | none => false)

/-- The word an enabled move loads. -/
def Move.word (mv : Move) : Nat := match mv.load with | some (_, w) => w.toNat | none => 0

/-! ### ALU results -/

/-- What an ALU operation gives: a result for A with O, flags alone, or a data word for a D register. -/
inductive AluOut where
  | none
  | acc (x : BitVec 56) (o : Bool)
  /-- AND, OR, XOR: S and Z come from the word field (06 R159). -/
  | word (x : BitVec 56) (o : Bool)
  | flags (x : BitVec 56) (o : Bool)
  | data (d : Nat) (x : BitVec 24) (clip : Bool)
  deriving DecidableEq, Repr

/-- The flags of a result (06 R151). -/
def flagsOf (c : BitVec 16) : AluOut → BitVec 16
  | .none => c
  | .acc x o => cswFlags c (x.getLsbD 55) (x = 0) o (guardUsed x)
  | .flags x o => cswFlags c (x.getLsbD 55) (x = 0) o (guardUsed x)
  | .word x o => cswFlags c (x.getLsbD 47) (bits x.toNat 47 24 = 0) o (guardUsed x)
  | .data _ x _ => cswFlags c (x.getLsbD 23) (x = 0) false false

/-- Whether an operation always sets flags: CMP and CMPA (06 R151). -/
def AluOut.always : AluOut → Bool
  | .flags _ _ => true
  | _ => false

/-- Carries out an ALU-form instruction whose operation gives `f`: operands and stored registers as at issue, loads and
the result visible to the next instruction; a false condition leaves only pointer updates (06 R152, R158). -/
def aluExec (f : Nat → SigUnit → AluOut) (w : Nat) (u : SigUnit) : SigUnit × Nat :=
  let mx := moveOf u false (sXm w)
  let my := moveOf u true (sYm w)
  let out := f w u
  if condHolds u.csw (sCond w) then
    let u1 := if sFs w || out.always then { u with csw := flagsOf u.csw out } else u
    let (u2, n) := moveWrite my true (moveWrite mx false (movePtr my (movePtr mx u1), 0))
    match out with
    | .none => (u2, n)
    | .flags _ _ => (u2, n)
    | .acc x _ => (setA u2 (sDst w) x, n)
    | .word x _ => (setA u2 (sDst w) x, n)
    | .data d x clip =>
      let u3 := if clip then { u2 with csw := cswClip u2.csw } else u2
      let y := if mx.loadsD d then BitVec.ofNat 24 (Config.sigRace x.toNat mx.word)
        else if my.loadsD d then BitVec.ofNat 24 (Config.sigRace x.toNat my.word) else x
      (setD u3 d y, n + b2n clip)
  else (movePtr my (movePtr mx u), 0)

/-- Runs an ALU-form instruction on the unit of a core and counts limiter actions. -/
def aluRun (op : Nat) (f : Nat → SigUnit → AluOut) (c : Nat) (s : State) : Out :=
  match sigWord s c with
  | none => .next s
  | some w =>
    if bit w 47 ∨ sAluOp w ≠ op then .next s
    else
      let (u, n) := aluExec f w (getEng s c).sig
      let s := updSig s c fun _ => sNext u
      .next (if n = 0 then s else countRun s c fun r => { r with sigLimit := satAdd 32 r.sigLimit n })

/-- An operation that replaces A by an exact value (06 R148). -/
def aluAcc (f : Int → Int → Int) (w : Nat) (u : SigUnit) : AluOut :=
  let (x, o) := accResult u.csw (f (getA u (sDst w)).toInt (srcAcc u (sSrc1 w)))
  .acc x o

/-- The exact product of two data words, in accumulator units (06 R148). -/
def product (w : Nat) (u : SigUnit) : Int := 2 * (getD u (sSrc1 w)).toInt * (getD u (sSrc2 w)).toInt

/-- A multiply whose exact result is `f A product`, rounded to a word or not (06 R148, R150). -/
def aluMul (f : Int → Int → Int) (round : Bool) (w : Nat) (u : SigUnit) : AluOut :=
  let x := f (getA u (sDst w)).toInt (product w u)
  let (x, o) := accResult u.csw (if round then roundMode (cswRmode u.csw) 24 x else x)
  .acc x o

/-- A compare: flags of an exact difference, wrapped (06 R151, R159). -/
def aluCmp (f : Int → Int → Int) (w : Nat) (u : SigUnit) : AluOut :=
  let x := f (getA u (sDst w)).toInt (srcAcc u (sSrc1 w))
  .flags (BitVec.ofInt 56 x) (decide ((BitVec.ofInt 56 x).toInt ≠ x))

/-- A bitwise operation on the word field (06 R159). -/
def aluWord (f : Nat → Nat → Nat) (w : Nat) (u : SigUnit) : AluOut :=
  let a := (getA u (sDst w)).toNat
  let y := f (bits a 47 24) (getD u (sSrc1 w)).toNat % 2 ^ 24
  let (x, o) := accResult u.csw (BitVec.ofNat 56 (bits a 55 48 * 2 ^ 48 + y * 2 ^ 24 + a % 2 ^ 24)).toInt
  .word x o

/-- Bits from bit 55 downward that equal bit 55 (06 R159 NORM). -/
def normCount (a : BitVec 56) : Nat → Nat
  | 0 => 0
  | k + 1 => if a.getLsbD k = a.getLsbD 55 then 1 + normCount a k else 0

/-- NORM: D ← n − 9. -/
def aluNorm (w : Nat) (u : SigUnit) : AluOut :=
  .data (sSrc2 w % 4) (BitVec.ofInt 24 ((normCount (getA u (sSrc1 w - 4)) 56 : Int) - 9)) false

/-- SATW: D ← limit(A). -/
def aluSatw (w : Nat) (u : SigUnit) : AluOut :=
  let (d, k) := limiter (getA u (sSrc1 w - 4))
  .data (sSrc2 w % 4) d k

/-- PGET: D ← pointer. -/
def aluPget (w : Nat) (u : SigUnit) : AluOut := .data (sSrc2 w % 4) (BitVec.ofNat 24 (getPtr u (sSrc1 w))) false

/-! ### ALU-form meanings (06 R159) -/

def execSigNop (c : Nat) (s : State) : Out := aluRun 0x00 (fun _ _ => .none) c s
def execLda (c : Nat) (s : State) : Out := aluRun 0x01 (aluAcc fun _ x => x) c s
def execAdd (c : Nat) (s : State) : Out := aluRun 0x02 (aluAcc fun a x => a + x) c s
def execSub (c : Nat) (s : State) : Out := aluRun 0x03 (aluAcc fun a x => a - x) c s
def execCmp (c : Nat) (s : State) : Out := aluRun 0x04 (aluCmp fun a x => a - x) c s
def execCmpa (c : Nat) (s : State) : Out := aluRun 0x05 (aluCmp fun a x => a.natAbs - x.natAbs) c s
def execMax (c : Nat) (s : State) : Out := aluRun 0x06 (aluAcc fun a x => max a x) c s
def execMin (c : Nat) (s : State) : Out := aluRun 0x07 (aluAcc fun a x => min a x) c s
def execAbs (c : Nat) (s : State) : Out := aluRun 0x08 (aluAcc fun a _ => a.natAbs) c s
def execNeg (c : Nat) (s : State) : Out := aluRun 0x09 (aluAcc fun a _ => -a) c s
def execZero (c : Nat) (s : State) : Out := aluRun 0x0A (aluAcc fun _ _ => 0) c s
def execRnda (c : Nat) (s : State) : Out :=
  aluRun 0x0B (fun w u => aluAcc (fun a _ => roundMode (cswRmode u.csw) 24 a) w u) c s
def execShl (c : Nat) (s : State) : Out :=
  aluRun 0x0C (fun w u => aluAcc (fun a _ => a * 2 ^ (sSrc2 w + 1)) w u) c s
def execShr (c : Nat) (s : State) : Out :=
  aluRun 0x0D (fun w u => aluAcc (fun a _ => a / 2 ^ (sSrc2 w + 1)) w u) c s
def execMul (c : Nat) (s : State) : Out := aluRun 0x10 (aluMul (fun _ p => p) false) c s
def execMulr (c : Nat) (s : State) : Out := aluRun 0x11 (aluMul (fun _ p => p) true) c s
def execMadd (c : Nat) (s : State) : Out := aluRun 0x12 (aluMul (fun a p => a + p) false) c s
def execMaddr (c : Nat) (s : State) : Out := aluRun 0x13 (aluMul (fun a p => a + p) true) c s
def execMsub (c : Nat) (s : State) : Out := aluRun 0x14 (aluMul (fun a p => a - p) false) c s
def execMsubr (c : Nat) (s : State) : Out := aluRun 0x15 (aluMul (fun a p => a - p) true) c s
def execMneg (c : Nat) (s : State) : Out := aluRun 0x16 (aluMul (fun _ p => -p) false) c s
def execAnd (c : Nat) (s : State) : Out := aluRun 0x18 (aluWord Nat.land) c s
def execOr (c : Nat) (s : State) : Out := aluRun 0x19 (aluWord Nat.lor) c s
def execXor (c : Nat) (s : State) : Out := aluRun 0x1A (aluWord Nat.xor) c s
def execNorm (c : Nat) (s : State) : Out := aluRun 0x20 aluNorm c s
def execSatw (c : Nat) (s : State) : Out := aluRun 0x21 aluSatw c s
def execPget (c : Nat) (s : State) : Out := aluRun 0x22 aluPget c s

/-! ### Control form (06 R153, R154, R160): what each opcode does to the unit -/

/-- A taken jump: two delay slots run before the target (06 R153). -/
def jumpTo (t : Nat) (u : SigUnit) : SigUnit :=
  { u with pc := u.pc + 1, branch := some (2, t), mustMove := false, guarded := none }

/-- HALT: the program ends; the SIG step may complete. -/
def sHalt (_ : Nat) (u : SigUnit) : SigUnit := { u with running := false, mustMove := false, guarded := none }

/-- JMP. -/
def sJmp (w : Nat) (u : SigUnit) : SigUnit := jumpTo (bits w 13 0) u

/-- CALL: pushes the address after the second delay slot. -/
def sCall (w : Nat) (u : SigUnit) : SigUnit := jumpTo (bits w 13 0) { u with stack := .call (u.pc + 3) :: u.stack }

/-- RET: to the address the matching CALL pushed. -/
def sRet (_ : Nat) (u : SigUnit) : SigUnit :=
  match u.stack with
  | .call r :: fs => jumpTo r { u with stack := fs }
  | _ => u

/-- DO: pushes one loop stack entry. -/
def sDo (w : Nat) (u : SigUnit) : SigUnit :=
  sNext { u with stack := .loop (u.pc + 1) (u.pc + bits w 11 0 + 1) (bits w 39 24 - 1) :: u.stack }

/-- REP: the repeat latch holds the next instruction and its count. -/
def sRep (w : Nat) (u : SigUnit) : SigUnit :=
  { u with
    pc := u.pc + 1, latch := Tbl.get 0 u.prog (u.pc + 1), repeat_ := bits w 7 0 + 1, repeating := true, mustMove := false
    guarded := none }

/-- Writes a pointer, base, length or modifier (06 R160 LDP). -/
def ldp (r imm : Nat) (u : SigUnit) : SigUnit :=
  if r < 8 then setPtr u r imm
  else if r < 16 then { u with bas := Tbl.set 0 u.bas (r - 8) (BitVec.ofNat 15 imm) }
  else if r < 24 then { u with len := Tbl.set 0 u.len (r - 16) (BitVec.ofNat 16 imm) }
  else { u with modif := Tbl.set 0 u.modif (r - 24) (BitVec.ofNat 16 imm) }

/-- LDP: what uses the pointer next is held (06 R147). -/
def sLdp (w : Nat) (u : SigUnit) : SigUnit :=
  { sNext (ldp (bits w 36 32) (bits w 15 0) u) with guarded := some (bits w 36 32 % 8) }

/-- LDI. -/
def sLdi (w : Nat) (u : SigUnit) : SigUnit :=
  let d := BitVec.ofNat 24 (bits w 23 0)
  let r := bits w 34 32
  sNext (if r < 4 then setD u r d else setA u (r - 4) (accOfWord d))

/-- PCOPY: what uses the pointer next is held (06 R147). -/
def sPcopy (w : Nat) (u : SigUnit) : SigUnit :=
  { sNext (setPtr u (bits w 34 32) (getPtr u (bits w 2 0))) with guarded := some (bits w 34 32) }

/-- SETM. -/
def sSetm (w : Nat) (u : SigUnit) : SigUnit :=
  let k := if bit w 3 then false else cswK u.csw
  sNext { u with csw := cswMake (cswS u.csw) (cswZ u.csw) (cswO u.csw) (cswG u.csw) k (bits w 1 0) (bit w 2) }

/-- Runs a control-form instruction of opcode `op`. -/
def ctlRun (op : Nat) (f : Nat → SigUnit → SigUnit) (c : Nat) (s : State) : Out :=
  match sigWord s c with
  | none => .next s
  | some w => if ¬ bit w 47 ∨ bits w 46 40 ≠ op then .next s else .next (updSig s c fun u => f w u)

def execHalt (c : Nat) (s : State) : Out := ctlRun 0x40 sHalt c s
def execJmp (c : Nat) (s : State) : Out := ctlRun 0x41 sJmp c s
def execCall (c : Nat) (s : State) : Out := ctlRun 0x42 sCall c s
def execRet (c : Nat) (s : State) : Out := ctlRun 0x43 sRet c s
def execDo (c : Nat) (s : State) : Out := ctlRun 0x44 sDo c s
def execRep (c : Nat) (s : State) : Out := ctlRun 0x45 sRep c s
def execLdp (c : Nat) (s : State) : Out := ctlRun 0x46 sLdp c s
def execLdi (c : Nat) (s : State) : Out := ctlRun 0x47 sLdi c s
def execPcopy (c : Nat) (s : State) : Out := ctlRun 0x48 sPcopy c s
def execSetm (c : Nat) (s : State) : Out := ctlRun 0x4B sSetm c s

/-- DO_END: the last iteration has ended and the entry is popped. -/
def execDoEnd (c : Nat) (s : State) : Out :=
  let u := (getEng s c).sig
  .next (if coreRuns s c ∧ u.running ∧ ¬ u.halted ∧ doOver u then updSig s c doLeave else s)

/-- REP_END: the count has run out and the next instruction issues. -/
def execRepEnd (c : Nat) (s : State) : Out :=
  let u := (getEng s c).sig
  .next (if coreRuns s c ∧ u.running ∧ ¬ u.halted ∧ u.repeating ∧ u.repeat_ = 0 then updSig s c repLeave else s)

/-! ### GET and PUT (06 R144) -/

/-- Whether the buffer at a granule holds CQ15 tiles; the private area holds Q23. -/
def sigCq15 (j : Job) (i : Inst) (g : Nat) : Bool :=
  match i.rings.find? fun r => r.holds g with
  | some r => (streamTile j.image r.stream).format = 0x0F
  | none => false

/-- Writes words at successive addresses of a pointer, which advances by 1 per word. -/
def getWords (isY : Bool) (p : Nat) : SigUnit → List Nat → SigUnit
  | u, [] => u
  | u, x :: xs =>
    let a := getPtr u p
    let u := if isY then setY u a (BitVec.ofNat 24 x) else setX u a (BitVec.ofNat 24 x)
    getWords isY p (setPtr u p (ptrUpd u p a 1)) xs

/-- Reads n words at successive addresses of a pointer. -/
def putWords (isY : Bool) (p : Nat) : Nat → SigUnit → List (BitVec 24) × SigUnit
  | 0, u => ([], u)
  | n + 1, u =>
    let a := getPtr u p
    let w := if isY then getY u a else getX u a
    let (ws, u) := putWords isY p n (setPtr u p (ptrUpd u p a 1))
    (w :: ws, u)

/-- A CQ15 part of a data word: rounded to 2^-15 under RMODE, limited; whether the limit acted (06 R144, R149). -/
def putPart (rmode : Nat) (w : BitVec 24) : Nat × Bool :=
  let x := roundMode rmode 8 w.toInt / 256
  let y := clampInt (-32768) 32767 x
  (unsigned 16 y, decide (y ≠ x))

/-- Runs GET or PUT with the tables of the instance that runs on the core. -/
def sigMem (op : Nat) (f : Job → Inst → Nat → State → State) (c : Nat) (s : State) : Out :=
  match sigWord s c, running s c with
  | some w, some (_, j, i) =>
    if ¬ bit w 47 ∨ bits w 46 40 ≠ op then .next s else .next (updSig (f j i w s) c sNext)
  | _, _ => .next s

/-- GET: granules from scratchpad into X or Y memory. -/
def execGet (c : Nat) (s : State) : Out :=
  sigMem 0x49 (fun j i w s =>
    let m := (getCore s c).scratch
    let g := bits w 15 0
    let n := bits w 29 25 + 1
    let half := fun k => viewLe m i (g * 64 + 2 * k) 2 * 256
    let full := fun k => viewLe m i (g * 64 + 4 * k) 4 % 2 ^ 24
    let ws := if sigCq15 j i g then (List.range (32 * n)).map half else (List.range (16 * n)).map full
    updSig s c fun u => getWords (bit w 39) (bits w 38 36) u ws) c s

/-- PUT: words from X or Y memory to scratchpad. -/
def execPut (c : Nat) (s : State) : Out :=
  sigMem 0x4A (fun j i w s =>
    let g := bits w 15 0
    let n := bits w 29 25 + 1
    let u := (getEng s c).sig
    let m := (getCore s c).scratch
    if sigCq15 j i g then
      let (ws, u') := putWords (bit w 39) (bits w 38 36) (32 * n) u
      let ps := ws.map (putPart (cswRmode u.csw))
      let k := (ps.filter fun p => p.2).length
      let u' := if k = 0 then u' else { u' with csw := cswClip u'.csw }
      let s := setScratch (updSig s c fun _ => u') c (viewWrite m i (g * 64) (ps.flatMap fun p => leBytes 2 p.1))
      if k = 0 then s else countRun s c fun r => { r with sigLimit := satAdd 32 r.sigLimit k }
    else
      let (ws, u') := putWords (bit w 39) (bits w 38 36) (16 * n) u
      setScratch (updSig s c fun _ => u') c
        (viewWrite m i (g * 64) (ws.flatMap fun x => leBytes 4 (unsigned 32 x.toInt)))) c s

end Sys2Proof.Machine
end

