-- ==== Sys2Proof/Machine/SigLoad.lean ====
section
/-! DEFINITION. What the device checks of signal code at load, and the work cycles that it counts there (06 R155-R165). -/

namespace Sys2Proof.Machine

/-! ### Encodings (06 R155-R160) -/

/-- The opcode of a control-form instruction. -/
def sCtlOp (w : Nat) : Nat := bits w 46 40

/-- Opcodes of the ALU form (06 R159). -/
def sAluListed (op : Nat) : Bool :=
  decide (op ≤ 0x0D) || (decide (0x10 ≤ op) && decide (op ≤ 0x16)) || (decide (0x18 ≤ op) && decide (op ≤ 0x1A))
    || (decide (0x20 ≤ op) && decide (op ≤ 0x22))

/-- The ALU opcodes that write the accumulator of DST (06 R159). -/
def sWritesAcc (op : Nat) : Bool := op ∉ [0x00, 0x04, 0x05, 0x20, 0x21, 0x22]

/-- Whether the source fields and DST hold what the opcode's row gives (06 R159). The rule says that DST of CMP and CMPA is 0, and its
example compares A1: every DST is taken there (DEDUCED, log 93). -/
def sSourcesOk (w : Nat) : Bool :=
  let op := sAluOp w
  let s1 := sSrc1 w
  let s2 := sSrc2 w
  let low := fun (x : Nat) => decide (x < 4)
  if op = 0x00 ∨ 0x08 ≤ op ∧ op ≤ 0x0B then s1 == 0 && s2 == 0
  else if op ≤ 0x07 then s2 == 0
  else if op = 0x0C ∨ op = 0x0D then s1 == 0
  else if op ≤ 0x16 then low s1 && low s2
  else if op ≤ 0x1A then low s1 && s2 == 0
  else (op == 0x22 || !low s1) && low s2 && sDst w == 0

/-- Whether a move field holds no reserved value (06 R158). -/
def mvOk (m : Nat) : Bool := if mvEn m then bits m 2 0 == 0 else m == 0

/-- The register that an enabled move loads (06 R158). -/
def mvLoads (m : Nat) : Option Nat := if mvEn m ∧ ¬ mvStore m then some (mvReg m) else none

/-- An ALU-form instruction as the device accepts it (06 R157-R159). -/
def sAluOk (w : Nat) : Bool :=
  let x := mvLoads (sXm w)
  let y := mvLoads (sYm w)
  sAluListed (sAluOp w) && sSourcesOk w && decide (sCond w ≤ 13) && bits w 1 0 == 0 && mvOk (sXm w) && mvOk (sYm w)
    && (x.isNone || x != y)
    && (!sWritesAcc (sAluOp w) || (x != some (4 + sDst w) && y != some (4 + sDst w)))

/-- A control-form instruction as the device accepts it in code of `n` instructions (06 R160, R163). -/
def sCtlOk (n w : Nat) : Bool :=
  match sCtlOp w with
  | 0x40 | 0x43 => bits w 39 0 == 0
  | 0x41 | 0x42 => bits w 39 14 == 0 && decide (bits w 13 0 < n)
  | 0x44 => bits w 23 12 == 0 && decide (1 ≤ bits w 39 24)
  | 0x45 => bits w 39 8 == 0
  | 0x46 =>
    let r := bits w 36 32
    bits w 39 37 == 0 && bits w 31 16 == 0 && (decide (16 ≤ r) || !bit w 15) && (!(decide (16 ≤ r) && decide (r < 24)) || decide (bits w 15 0 ≤ 32768))
  | 0x47 => bits w 39 35 == 0 && bits w 31 24 == 0
  | 0x48 => bits w 39 35 == 0 && bits w 31 3 == 0
  | 0x49 | 0x4A => bits w 24 16 == 0
  | 0x4B => bits w 39 4 == 0 && bits w 1 0 != 3
  | _ => false

/-- An instruction of a station's code of n instructions, in its 8 bytes (06 R156). -/
def sEncodingOk (n w : Nat) : Bool := bits w 63 48 == 0 && if bit w 47 then sCtlOk n w else sAluOk w

/-- JMP, CALL and RET. -/
def sJumps (w : Nat) : Bool := bit w 47 && (decide (0x41 ≤ sCtlOp w) && decide (sCtlOp w ≤ 0x43))
def sIs (op w : Nat) : Bool := bit w 47 && sCtlOp w == op

/-- Where each instruction of a station's code may stand (06 R155). -/
def sPlacesOk (code : List Nat) : Bool :=
  let at_ := fun (k : Nat) => nth 0 code k
  (List.range code.length).all fun k =>
    let w := at_ k
    let slot := (decide (1 ≤ k) && sJumps (at_ (k - 1))) || (decide (2 ≤ k) && sJumps (at_ (k - 2)))
    let last := k + bits w 11 0 + 1
    (!slot || !bit w 47 || sCtlOp w ∈ [0x46, 0x47, 0x48, 0x4B])
      && (!sIs 0x45 w || (decide (k + 1 < code.length) && !bit (at_ (k + 1)) 47))
      && (!sIs 0x44 w || (decide (last < code.length)
        && !(sJumps (at_ last) || sIs 0x45 (at_ last) || sIs 0x44 (at_ last) || sJumps (at_ (last - 1)) || (decide (k + 2 ≤ last) && sJumps (at_ (last - 2))))
        && (List.range (last - k)).all fun i => !sIs 0x40 (at_ (k + 1 + i))))

/-! ### Work cycles (06 R143, R144, R147, R159, R160, R165) -/

/-- Work cycles of an instruction; of a GET or PUT by whether its buffer holds CQ15 tiles. -/
def sigCycles (cq15 : Bool) (w : Nat) : Nat :=
  if ¬ bit w 47 then 1
  else
    match sCtlOp w with
    | 0x44 => 2
    | 0x49 | 0x4A => 4 + (if cq15 then 8 else 4) * (bits w 29 25 + 1)
    | _ => 1

/-- What the return to the first instruction of a DO body costs: 2 cycles when the body is longer than the repeat buffer (06 R143). -/
def sBackCycles (before after : SigUnit) : Nat :=
  match after.stack with
  | .loop first last _ :: _ =>
    if (before.pc = last ∨ before.pc = last + 1) ∧ after.pc = first ∧ 32 < last + 1 - first then 2 else 0
  | _ => 0

/-! ### Execution at load (06 R163) -/

/-- A buffer of a SIGNAL station: its granules, its ACCESS, whether its tiles are CQ15 (06 R144, R161). -/
structure SBuf where
  granules : Nat
  access : Nat
  cq15 : Bool
  deriving DecidableEq, Repr

/-- Pointer p after n words (06 R144). -/
def sAdvance (p : Nat) : Nat → SigUnit → SigUnit
  | 0, u => u
  | n + 1, u => sAdvance p n (setPtr u p (ptrUpd u p (getPtr u p) 1))

/-- What an instruction does to the flow of control and to the pointers, whatever the data (06 R147, R152, R153). -/
def sFlow (cq15 : Bool) (w : Nat) (u : SigUnit) : SigUnit :=
  if ¬ bit w 47 then sNext (movePtr (moveOf u true (sYm w)) (movePtr (moveOf u false (sXm w)) u))
  else
    match sCtlOp w with
    | 0x40 => sHalt w u
    | 0x41 => sJmp w u
    | 0x42 => sCall w u
    | 0x43 => sRet w u
    | 0x44 => sDo w u
    | 0x45 => sRep w u
    | 0x46 => sLdp w u
    | 0x48 => sPcopy w u
    | 0x49 | 0x4A => sNext (sAdvance (bits w 38 36) ((if cq15 then 32 else 16) * (bits w 29 25 + 1)) u)
    | _ => sNext u

/-- Whether an instruction that executes breaks a rule of R163: the loop stack, RET, circular buffers, reversed addressing, buffers. -/
def sIssueOk (n : Nat) (buf : Nat → Option SBuf) (w : Nat) (u : SigUnit) : Bool :=
  let am := fun (m hi : Nat) => !(mvEn m && mvAm m == 7) || getLen u (hi + mvPtr m) == 0
  decide (u.pc < n) &&
    if ¬ bit w 47 then am (sXm w) 0 && am (sYm w) 4
    else
      match sCtlOp w with
      | 0x42 | 0x44 => decide (u.stack.length < 8)
      | 0x43 => match u.stack with
        | .call _ :: _ => true
        | _ => false
      | 0x46 =>
        let r := bits w 36 32
        let v := sLdp w u
        decide (r < 8) || decide (24 ≤ r) || getLen v (r % 8) == 0 || decide (getBas v (r % 8) + getLen v (r % 8) ≤ 32768)
      | 0x49 | 0x4A =>
        match buf (bits w 35 31) with
        | none => false
        | some b => bit b.access (if sCtlOp w = 0x49 then 0 else 1) && decide (bits w 15 0 + bits w 29 25 + 1 ≤ b.granules)
      | _ => true

/-- The most work cycles that a SIG step may take to its HALT (06 R163). -/
def sigLimitCycles : Nat := 16777216

/-- Executes a SIG step at load, for at most so many moves of the unit: its work cycles up to HALT, and the unit after it; none: a rule
is broken (06 R163). -/
def sWalk (n : Nat) (buf : Nat → Option SBuf) : Nat → SigUnit → Nat → Option (Nat × SigUnit)
  | 0, _, _ => none
  | fuel + 1, u, cycles =>
    if ¬ u.running then some (cycles, u)
    else if doOver u then sWalk n buf fuel (doLeave u) (cycles + sBackCycles u (doLeave u))
    else if u.repeating ∧ u.repeat_ = 0 then sWalk n buf fuel (repLeave u) (cycles + sBackCycles u (repLeave u))
    else
      let w := u.word
      let cq := (buf (bits w 35 31)).elim false (·.cq15)
      let v := sFlow cq w u
      let cycles := cycles + b2n u.held + sigCycles cq w + sBackCycles u v
      if sIssueOk n buf w u ∧ cycles ≤ sigLimitCycles then sWalk n buf fuel v cycles else none

/-- A SIG step from an address with given registers: its work cycles from issue to completion, and the registers after it (06 R165). -/
def sigStep (code : Tbl (BitVec 48)) (n : Nat) (buf : Nat → Option SBuf) (addr : Nat) (u : SigUnit) : Option (Nat × SigUnit) :=
  (sWalk n buf (2 ^ 28) { u with prog := code, running := true, pc := addr, branch := none, repeating := false } 0).map fun r =>
    (r.1 + 2, r.2)

end Sys2Proof.Machine
end

