-- ==== Sys2Proof/Machine/Vector.lean ====
section
/-! DEFINITION. The vector engine's instructions (05_vector_engine). A row runs the instruction at which the engine of
its core stands; where the engine stands at another instruction, or runs no VEC step, nothing happens (log 2). -/

namespace Sys2Proof.Machine

/-! ### Where the engine stands (05 R135) -/

/-- A loop body has ended with iterations left: execution goes back to its first instruction (05 R126, R135). -/
def loopBack (u : VecUnit) : VecUnit :=
  match u.loops with
  | l :: ls => if u.pc = l.last + 1 ∧ l.left > 0 then { u with pc := l.first, loops := { l with left := l.left - 1 } :: ls } else u
  | [] => u

/-- The step's range has been left and no loop is open: the last instruction has retired (05 R135, 02 R57). -/
def vSettle (u : VecUnit) : VecUnit := if u.stop ≤ u.pc ∧ u.loops = [] then { u with active := false } else u

/-- The engine moves past an instruction. -/
def vNext (u : VecUnit) : VecUnit := vSettle (loopBack { u with pc := u.pc + 1 })

/-- The innermost loop has run its last iteration and waits to be left. -/
def loopOver (u : VecUnit) : Bool :=
  match u.loops with
  | l :: _ => u.pc = l.last + 1 ∧ l.left = 0
  | [] => false

/-- The instruction at which a core's engine stands, when its opcode is `op`. -/
def vecAt (s : State) (c op : Nat) : Option Nat :=
  let u := (getEng s c).vec
  let w := (Tbl.get (0 : BitVec 64) u.prog u.pc).toNat
  if coreRuns s c ∧ u.active ∧ u.pc < u.stop ∧ ¬ loopOver u ∧ vOp w = op then some w else none

/-- Changes a core's vector engine. -/
def updVec (s : State) (c : Nat) (f : VecUnit → VecUnit) : State := updEng s c fun e => { e with vec := f e.vec }

/-- Runs an instruction that writes vector registers, masks or pointers of its engine and counts saturated lanes. -/
def vecRun (op : Nat) (f : Nat → VecUnit → VecUnit × Nat) (c : Nat) (s : State) : Out :=
  match vecAt s c op with
  | none => .next s
  | some w =>
    let (u, n) := f w (getEng s c).vec
    let s := updVec s c fun _ => vNext u
    .next (if n = 0 then s else countRun s c fun r => { r with vecSat := satAdd 32 r.vecSat n })

/-! ### Lane arithmetic (05 R127) -/

/-- The floating-point format of a register format. -/
def vFloat : Nat → Option FFmt
  | 0x00 => some fF32 | 0x01 => some fF16 | 0x02 => some fBF16 | _ => none

/-- An integer result in a register format: wrapped, or saturated; and whether it was saturated (05 R127). A Q23 lane that is clamped
counts as a saturated lane whatever SAT holds (DESIGN CHOICE, log 18). -/
def intLane (fmt : Nat) (sat : Bool) (x : Int) : Nat × Nat :=
  if fmt = 0x0E then
    let y := clampInt (-(2 ^ 23)) (2 ^ 23 - 1) x
    (unsigned 32 y, if y = x then 0 else 1)
  else
    let w := laneBits fmt
    let y := clampInt (-(2 ^ (w - 1))) (2 ^ (w - 1) - 1) x
    if sat then (unsigned w y, if y = x then 0 else 1) else (unsigned w x, 0)

/-- The signed value of an integer lane. -/
def laneInt (fmt x : Nat) : Int := signed (if fmt = 0x0E then 24 else laneBits fmt) x

/-- A whole number divided by 2^k, to nearest even. -/
def rneShift (x : Int) (k : Nat) : Int := ((Val.ofInt x (-(k : Int))).toInt .rne).getD 0

/-- The two parts of a CQ15 lane. -/
def cqRe (x : Nat) : Int := signed 16 x
def cqIm (x : Nat) : Int := signed 16 (x / 65536)

/-- A CQ15 lane of two parts, saturated or wrapped (05 R127). -/
def cqLane (sat : Bool) (re im : Int) : Nat × Nat :=
  let f := fun x : Int => clampInt (-32768) 32767 x
  if sat then (unsigned 16 (f re) + 65536 * unsigned 16 (f im), if f re = re ∧ f im = im then 0 else 1)
  else (unsigned 16 re + 65536 * unsigned 16 im, 0)

/-- A float operation or an integer operation, lane by lane, by format. -/
def laneOp2 (fmt : Nat) (sat : Bool) (fv : Val → Val → Val) (fi : Int → Int → Int) (a b : Nat) : Nat × Nat :=
  match vFloat fmt with
  | some f => (f.encode (fv (f.decode a) (f.decode b)), 0)
  | none =>
    if fmt = 0x0F then cqLane sat (fi (cqRe a) (cqRe b)) (fi (cqIm a) (cqIm b))
    else intLane fmt sat (fi (laneInt fmt a) (laneInt fmt b))

/-- Lane results with their saturation counts, as a register and the count of the lanes whose predicate is 1. -/
def gatherLanes (w : Nat) (m : BitVec 256) (rs : List (Nat × Nat)) : BitVec 2048 × Nat :=
  (ofLanes w (rs.map Prod.fst),
    sumNat ((List.range rs.length).map fun i => if lanePred m w i then (nth (0, 0) rs i).2 else 0))

/-- Writes lane results to VD under the instruction's predicate. -/
def writeLanes (w u_ : Nat) (u : VecUnit) (rs : List (Nat × Nat)) : VecUnit × Nat :=
  let m := getM u (vMask w)
  let (x, n) := gatherLanes u_ m rs
  (setV u (vVD w) (predicate m (vMz w) u_ (getV u (vVD w)) x), n)

/-- A lane-wise instruction of up to three sources. -/
def laneWise (w : Nat) (u : VecUnit) (f : Nat → Nat → Nat → Nat × Nat) : VecUnit × Nat :=
  let k := laneBits (vFmt w)
  let a := lanesOf k (getV u (vVA w))
  let b := lanesOf k (srcB u w)
  let d := lanesOf k (getV u (vVC w))
  writeLanes w k u ((List.range (2048 / k)).map fun i => f (nth 0 a i) (nth 0 b i) (nth 0 d i))

/-- Larger of two lanes: NaN when one is NaN, +0 above −0 (05 R126, R128; log 22). -/
def valMax (a b : Val) : Val :=
  if a.isNan || b.isNan then .nan
  else if Val.lt a b then b
  else if Val.lt b a then a
  else match a with
    | .fin true _ _ => b
    | _ => a

/-- Smaller of two lanes. -/
def valMin (a b : Val) : Val := (valMax a.neg b.neg).neg

/-- VADD. -/
def vAdd (w : Nat) (u : VecUnit) : VecUnit × Nat :=
  laneWise w u fun a b _ => laneOp2 (vFmt w) (bit (vMode w) 0) Val.add (· + ·) a b

/-- VSUB: VA − VB, or VB − VA with REV. -/
def vSub (w : Nat) (u : VecUnit) : VecUnit × Nat :=
  laneWise w u fun a b _ =>
    let (x, y) := if bit (vMode w) 1 then (b, a) else (a, b)
    laneOp2 (vFmt w) (bit (vMode w) 0) (fun p q => Val.add p q.neg) (· - ·) x y

/-- VMUL: Q23 and Q15 products are rounded; other integers exact (05 R126, R127). -/
def vMul (w : Nat) (u : VecUnit) : VecUnit × Nat :=
  laneWise w u fun a b _ =>
    laneOp2 (vFmt w) (bit (vMode w) 0) Val.mul
      (fun x y => if vFmt w = 0x0E then rneShift (x * y) 23
        else if vFmt w = 0x0B ∧ bit (vMode w) 2 then rneShift (x * y) 15 else x * y) a b

/-- VFMA: one rounding; of a Q23 form it is that of the exact product to 2^-23 (05 R126, R127). -/
def vFma (w : Nat) (u : VecUnit) : VecUnit × Nat :=
  laneWise w u fun a b d =>
    match vFloat (vFmt w) with
    | some f => (f.encode (Val.add (Val.mul (f.decode a) (f.decode b)) (f.decode d)), 0)
    | none =>
      let x := laneInt (vFmt w) a * laneInt (vFmt w) b
      let z := laneInt (vFmt w) d
      intLane (vFmt w) (bit (vMode w) 0) (if vFmt w = 0x0E then rneShift x 23 + z else x + z)

/-- VMAX. -/
def vMax (w : Nat) (u : VecUnit) : VecUnit × Nat :=
  laneWise w u fun a b _ => laneOp2 (vFmt w) false valMax max a b

/-- VMIN. -/
def vMin (w : Nat) (u : VecUnit) : VecUnit × Nat :=
  laneWise w u fun a b _ => laneOp2 (vFmt w) false valMin min a b

/-- VABS. -/
def vAbs (w : Nat) (u : VecUnit) : VecUnit × Nat :=
  laneWise w u fun a _ _ => laneOp2 (vFmt w) (bit (vMode w) 0) (fun x _ => x.abs) (fun x _ => x.natAbs) a a

/-- VNEG. -/
def vNeg (w : Nat) (u : VecUnit) : VecUnit × Nat :=
  laneWise w u fun a _ _ => laneOp2 (vFmt w) (bit (vMode w) 0) (fun x _ => x.neg) (fun x _ => -x) a a

/-- VMOV: the register, or IMM in every lane. -/
def vMov (w : Nat) (u : VecUnit) : VecUnit × Nat :=
  laneWise w u fun a b _ => (if vImmB w then b else a, 0)

/-- VSEL: MASK bit ? VA : VB, MZ ignored (05 R126). -/
def vSel (w : Nat) (u : VecUnit) : VecUnit × Nat :=
  let k := laneBits (vFmt w)
  let a := lanesOf k (getV u (vVA w))
  let b := lanesOf k (srcB u w)
  (setV u (vVD w) (ofLanes k ((List.range (2048 / k)).map fun i =>
    if lanePred (getM u (vMask w)) k i then nth 0 a i else nth 0 b i)), 0)

/-- VCLAMP: min(max(VA, VB), VC). -/
def vClamp (w : Nat) (u : VecUnit) : VecUnit × Nat :=
  laneWise w u fun a b d =>
    let (x, _) := laneOp2 (vFmt w) false valMax max a b
    laneOp2 (vFmt w) false valMin min x d

/-- The relation that a VCMP MODE names, on lanes (05 R126). -/
def vCompare (fmt mode a b : Nat) : Bool :=
  let x := match vFloat fmt with
    | some f => f.decode a
    | none => Val.ofInt (laneInt fmt a) 0
  let y := match vFloat fmt with
    | some f => f.decode b
    | none => Val.ofInt (laneInt fmt b) 0
  match mode with
  | 0 => Val.eq x y
  | 1 => !Val.eq x y
  | 2 => Val.lt x y
  | 3 => Val.lt x y || Val.eq x y
  | 4 => Val.lt y x
  | 5 => Val.lt y x || Val.eq x y
  | _ => x.isNan || y.isNan

/-- A mask built bit by bit. -/
def maskOfBits (f : Nat → Bool) : BitVec 256 :=
  BitVec.ofNat 256 ((List.range 256).foldr (fun b acc => acc * 2 + b2n (f b)) 0)

/-- VCMP: writes all bits of each lane whose predicate is 1 (05 R121, R126). -/
def vCmp (w : Nat) (u : VecUnit) : VecUnit × Nat :=
  let k := laneBits (vFmt w)
  let d := vVD w % 8
  let a := (getV u (vVA w)).toNat
  let b := (srcB u w).toNat
  let m := getM u (vMask w)
  (setM u d (maskOfBits fun n =>
    let i := n / (k / 8)
    if lanePred m k i then vCompare (vFmt w) (vMode w) (elemAt a k i) (elemAt b k i)
    else if vMz w then false else (getM u d).getLsbD n), 0)

/-- VAND, VOR, VXOR. -/
def vBitwise (f : Nat → Nat → Nat) (w : Nat) (u : VecUnit) : VecUnit × Nat :=
  laneWise w u fun a b _ => (f a b, 0)

/-- VSHL, VSHR, VSHRU: the count is the VB lane or IMM, modulo the lane width (05 R126). -/
def vShift (f : Nat → Nat → Nat → Nat) (w : Nat) (u : VecUnit) : VecUnit × Nat :=
  let k := laneBits (vFmt w)
  laneWise w u fun a b _ => (f k a ((if vImmB w then vImm w else b) % k), 0)

/-- MAND, MOR, MNOT: whole masks. That MASK does not predicate them is the model's choice (DESIGN CHOICE, log 18). -/
def vMaskOp (f : BitVec 256 → BitVec 256 → BitVec 256) (w : Nat) (u : VecUnit) : VecUnit × Nat :=
  (setM u (vVD w % 8) (f (getM u (vVA w % 8)) (getM u (vVB w % 8))), 0)

/-! ### Reductions (05 R128) -/

/-- One level of the pairwise tree. -/
def pairUp {α : Type} (f : α → α → α) : List α → List α
  | a :: b :: l => f a b :: pairUp f l
  | l => l

/-- The levels of the tree over a group of 2^n lanes. -/
def treeFold {α : Type} (f : α → α → α) : Nat → List α → List α
  | 0, l => l
  | n + 1, l => treeFold f n (pairUp f l)

/-- A reduction: each group's result in its lowest lane, 0 in the others (05 R126). -/
def vReduce (f : Nat → Nat → Nat → Nat) (w : Nat) (u : VecUnit) : VecUnit × Nat :=
  let k := laneBits (vFmt w)
  let g := vMode w % 8 + 1
  let a := lanesOf k (getV u (vVA w))
  let r := treeFold (f (vFmt w)) g a
  writeLanes w k u ((List.range (2048 / k)).map fun i => (if i % 2 ^ g = 0 then nth 0 r (i / 2 ^ g) else 0, 0))

/-- Two lanes summed in a reduction. -/
def redSum (fmt a b : Nat) : Nat := (laneOp2 fmt false Val.add (· + ·) a b).1
/-- The larger of two lanes in a reduction. -/
def redMax (fmt a b : Nat) : Nat := (laneOp2 fmt false valMax max a b).1
/-- The smaller of two lanes in a reduction. -/
def redMin (fmt a b : Nat) : Nat := (laneOp2 fmt false valMin min a b).1

/-- VRARGMAX: the lane number of the largest, ties and NaN to the lowest lane (05 R126, R128). -/
def vArgMax (w : Nat) (u : VecUnit) : VecUnit × Nat :=
  let k := laneBits (vFmt w)
  let g := vMode w % 8 + 1
  let f := (vFloat (vFmt w)).getD fF32
  let a := (lanesOf k (getV u (vVA w))).map f.decode
  let better : Nat → Nat → Nat := fun i j =>
    let x := nth Val.nan a i
    let y := nth Val.nan a j
    if x.isNan then i else if y.isNan then j else if Val.lt x y then j else i
  let r := treeFold better g (List.range (2048 / k))
  writeLanes w k u ((List.range (2048 / k)).map fun i => (if i % 2 ^ g = 0 then nth 0 r (i / 2 ^ g) else 0, 0))

/-! ### Transcendental functions (05 R129) -/

/-- The special values and the fixed functions, on F32 patterns. -/
def transF32 (op : Nat) (x : Nat) : Nat :=
  let v := fF32.decode x
  let z : BitVec 32 := BitVec.ofNat 32 x
  let nan := fF32.nanCode
  match v with
  | .nan => nan
  | .inf neg =>
    match op with
    | 0x30 => if neg then 0 else fF32.infCode
    | 0x31 => if neg then nan else fF32.infCode
    | 0x32 => fF32.signBit neg
    | 0x33 => if neg then nan else 0
    | 0x34 => if neg then nan else fF32.infCode
    | 0x37 => fF32.encode (.fin neg 1 0)
    | _ => nan
  | .fin neg m e =>
    match op with
    | 0x30 => (Config.exp2 z).toNat
    | 0x31 => if m = 0 then fF32.signBit true + fF32.infCode else if neg then nan else (Config.log2 z).toNat
    | 0x32 => if m = 0 then fF32.signBit neg + fF32.infCode else (Config.rcp z).toNat
    | 0x33 => if m = 0 then fF32.signBit neg + fF32.infCode else if neg then nan else (Config.rsqrt z).toNat
    | 0x34 => fF32.encode (Val.sqrt (.fin neg m e))
    | 0x35 => (Config.sint z).toNat
    | 0x36 => (Config.cost z).toNat
    | _ => (Config.tanh z).toNat

/-- VEXP2 to VTANH: computed in F32, rounded to FMT. -/
def vTrans (op : Nat) (w : Nat) (u : VecUnit) : VecUnit × Nat :=
  let f := (vFloat (vFmt w)).getD fF32
  laneWise w u fun a _ _ => (f.encode (fF32.decode (transF32 op (fF32.encode (f.decode a)))), 0)

/-! ### Complex arithmetic (05 R126, R127) -/

/-- An exact complex number. -/
abbrev CVal := Val × Val

def cAdd (a b : CVal) : CVal := (Val.add a.1 b.1, Val.add a.2 b.2)
def cMul (a b : CVal) : CVal :=
  (Val.add (Val.mul a.1 b.1) (Val.mul a.2 b.2).neg, Val.add (Val.mul a.1 b.2) (Val.mul a.2 b.1))
def cConj (a : CVal) : CVal := (a.1, a.2.neg)

/-- Bits of a complex element: 32 for CQ15, 64 for F32 complex (05 R120). -/
def cBits (fmt : Nat) : Nat := if fmt = 0x0F then 32 else 64

/-- The exact value of a complex element. -/
def cVal (fmt x : Nat) : CVal :=
  if fmt = 0x0F then (Val.ofInt (cqRe x) (-15), Val.ofInt (cqIm x) (-15))
  else (fF32.decode (x % 2 ^ 32), fF32.decode (x / 2 ^ 32))

/-- A complex element from an exact value, each part rounded once in a rounding mode (05 R127, R130, R131). -/
def cLaneBy (mode : Rnd) (fmt : Nat) (sat : Bool) (z : CVal) : Nat × Nat :=
  if fmt = 0x0F then
    let part := fun v : Val => match (v.shift 15).toInt mode with
      | some n => n
      | none => signed 16 (Config.cq15Special (fF32.encode v))
    cqLane sat (part z.1) (part z.2)
  else (fF32.encode z.1 + 2 ^ 32 * fF32.encode z.2, 0)

/-- A complex result: each part rounded once to nearest even (05 R127). -/
def cLane (fmt : Nat) (sat : Bool) (z : CVal) : Nat × Nat := cLaneBy .rne fmt sat z

/-- A complex instruction. -/
def vComplex (f : CVal → CVal → CVal → CVal) (w : Nat) (u : VecUnit) : VecUnit × Nat :=
  let k := cBits (vFmt w)
  let lane := fun (r : BitVec 2048) i => cVal (vFmt w) (elemAt r.toNat k i)
  let a := getV u (vVA w)
  let b := srcB u w
  let d := getV u (vVC w)
  writeLanes w k u ((List.range (2048 / k)).map fun i =>
    cLane (vFmt w) (bit (vMode w) 0) (f (lane a i) (lane b i) (lane d i)))

/-- The rotation of CROT: the sine and cosine of VSINT and VCOST (05 R129). -/
def cRotate (a b _d : CVal) : CVal :=
  let t := fF32.encode b.1
  cMul a (fF32.decode (transF32 0x36 t), fF32.decode (transF32 0x35 t))

/-! ### Conversion (05 R130) -/

/-- One lane converted between register formats. R103 has no row for I32 to or from Q23: the model carries the integer that the lane
holds over, clamped to the target's range (DESIGN CHOICE, log 18). -/
def convLane (src dst : Nat) (mode : Rnd) (sat : Bool) (x : Nat) : Nat :=
  match vFloat src, vFloat dst with
  | some f, some g => (g.convert mode sat (f.decode x)).code
  | some f, none =>
    match (f.decode x).toInt mode with
    | some n =>
      if dst = 0x0B then unsigned 16 (clampInt (-32768) 32767 n)
      else if -(2 ^ 31) ≤ n ∧ n ≤ 2 ^ 31 - 1 then unsigned 32 n
      else Config.i32Beyond (fF32.encode (f.decode x)) sat % 2 ^ 32
    | none =>
      if dst = 0x0B then (intConv 16 0 mode (f.decode x)).code
      else Config.i32Beyond (fF32.encode (f.decode x)) sat % 2 ^ 32
  | none, some g => (g.convert mode sat (Val.ofInt (laneInt src x) 0)).code
  | none, none =>
    if dst = 0x0E then (intLane 0x0E true (laneInt src x)).1
    else unsigned (laneBits dst)
      (clampInt (-(2 ^ (laneBits dst - 1))) (2 ^ (laneBits dst - 1) - 1) (laneInt src x))

/-- VCVT: widening reads lanes from h times the destination's lane count on, narrowing writes as many lanes as the source has from
h times that count on, and HALF has no effect where the lane count stays (05 R130). CQ15 to and from F32 complex counts elements of
two parts. Of I32 to I8A the source has a quarter of the destination's lanes: h = 1 writes the second quarter, and the other three are
left (DESIGN CHOICE, log 18). Saturated lanes of a conversion are not counted (DESIGN CHOICE, log 18). -/
def vCvt (w : Nat) (u : VecUnit) : VecUnit × Nat :=
  let src := vFmt w
  let dst := vVC w
  let h := b2n (bit (vMode w) 0)
  let mode : Rnd := if bit (vMode w) 1 then .rtz else .rne
  let sat := bit (vMode w) 2
  let complex := src = 0x0F ∨ dst = 0x0F
  let ks := if complex then cBits src else laneBits src
  let kd := if complex then cBits dst else laneBits dst
  let conv := fun x => if complex then (cLaneBy mode dst sat (cVal src x)).1 else convLane src dst mode sat x
  let a := (getV u (vVA w)).toNat
  let n := 2048 / kd
  if ks ≤ kd then
    let o := if ks = kd then 0 else h * n
    writeLanes w kd u ((List.range n).map fun i => (conv (elemAt a ks (o + i)), 0))
  else
    let ns := 2048 / ks
    let m := getM u (vMask w)
    let old := (getV u (vVD w)).toNat
    (setV u (vVD w) (ofLanes kd ((List.range n).map fun i =>
      if h * ns ≤ i ∧ i < h * ns + ns then
        (if lanePred m kd i then conv (elemAt a ks (i - h * ns)) else if vMz w then 0 else elemAt old kd i)
      else elemAt old kd i)), 0)

/-! ### Permutations (05 R126) -/

/-- An instruction that moves lanes: lane i of the result is a function of the sources' lanes. -/
def vPermute (f : Nat → Nat → List Nat → List Nat → Nat → Nat) (w : Nat) (u : VecUnit) : VecUnit × Nat :=
  let k := laneBits (vFmt w)
  let a := lanesOf k (getV u (vVA w))
  let b := lanesOf k (srcB u w)
  writeLanes w k u ((List.range (2048 / k)).map fun i => (f w (2048 / k) a b i, 0))

def pRot (w n : Nat) (a _b : List Nat) (i : Nat) : Nat := nth 0 a ((i + vImm w) % n)
def pZip (w n : Nat) (a b : List Nat) (i : Nat) : Nat :=
  let o := if bit (vMode w) 0 then n / 2 else 0
  if i % 2 = 0 then nth 0 a (o + i / 2) else nth 0 b (o + i / 2)
def pUnzip (w n : Nat) (a b : List Nat) (i : Nat) : Nat :=
  let j := 2 * i + b2n (bit (vMode w) 0)
  if j < n then nth 0 a j else nth 0 b (j - n)
def pPerm (_w n : Nat) (a b : List Nat) (i : Nat) : Nat := nth 0 a (nth 0 b i % n)

/-- VBCAST: lane IMM of VA in every lane. -/
def vBcast (w : Nat) (u : VecUnit) : VecUnit × Nat :=
  let k := laneBits (vFmt w)
  let va := getV u (vVA w)
  let x := if vImm w < 2048 / k then elemAt va.toNat k (vImm w) else Config.bcastBeyond va (vImm w)
  writeLanes w k u (List.replicate (2048 / k) (x % 2 ^ k, 0))

/-! ### Scratchpad and accumulators (05 R131-R133) -/

/-- The granule address of a memory instruction: ADDR + P[PIDX] (05 R125). -/
def vGranule (w : Nat) (u : VecUnit) : Nat := ((vAddr w : Int) + (getP u (vPidx w)).toInt).toNat

/-- Elements that a load or store moves: the lanes of the wider of the two forms (05 R131). -/
def vElems (fmt rfmt : Nat) : Nat :=
  if fmt = 0x0F ∧ rfmt = 0x00 then 32 else 2048 / laneBits rfmt

/-- A loaded element as a register lane (05 R131). -/
def loadLane (fmt rfmt x : Nat) : Nat :=
  if fmt = rfmt then x
  else if fmt = 0x0F then (cLane 0x00 false (cVal 0x0F x)).1
  else match vFloat rfmt with
    | some f => f.encode (elemVal fmt x)
    | none => unsigned (laneBits rfmt) (signed (elemBits fmt) x)

/-- A register lane as a stored element (05 R131, 04 R103). -/
def storeLane (fmt rfmt : Nat) (mode : Rnd) (sat : Bool) (x : Nat) : Nat :=
  if fmt = rfmt then x
  else if fmt = 0x0F then (cLaneBy mode 0x0F sat (cVal 0x00 x)).1
  else match floatOf fmt, vFloat rfmt with
    | some g, some f => (g.convert mode sat (f.decode x)).code
    | _, _ => (intConv (elemBits fmt) 0 mode (Val.ofInt (laneInt rfmt x) 0)).code

/-- ELEMS of the stream whose buffer holds a granule (05 R131). -/
def elemsAt (j : Job) (i : Inst) (g : Nat) : Nat :=
  match i.rings.find? fun r => r.holds g with
  | some r => (streamTile j.image r.stream).elems
  | none => 0

/-- The lanes of a microscaling load: two blocks from EXT on of the row at a granule (05 R131, 04 R97). -/
def mxLanes (m : Mem) (i : Inst) (g fmt elems ext : Nat) : List Nat :=
  let row := viewLe m i (g * 64) (rowFootprint fmt elems)
  let w := elemBits fmt
  let scale := fun b => elemAt row 8 (rowFootprint fmt elems - elems / 32 + b)
  (List.range 64).map fun k =>
    fF32.encode (mxVal fmt (elemAt row w (32 * ext + k)) (scale (ext + k / 32)))

/-- VLD. -/
def vLoad (j : Job) (i : Inst) (m : Mem) (w : Nat) (u : VecUnit) : VecUnit × Nat :=
  let fmt := vFmt w
  let rf := vRfmt w
  let g := vGranule w u
  if isMx fmt then writeLanes w 32 u ((mxLanes m i g fmt (elemsAt j i g) (vExt w)).map fun x => (x, 0))
  else
    let n := vElems fmt rf
    let row := viewLe m i (g * 64) (elemBits fmt * n / 8)
    writeLanes w (2048 / n) u ((List.range n).map fun k => (loadLane fmt rf (elemAt row (elemBits fmt) k), 0))

/-- VST: the bytes it stores. Lanes that a narrowing store clamps are not counted (DESIGN CHOICE, log 18). -/
def vStoreBytes (w : Nat) (u : VecUnit) : List Byte :=
  let fmt := vFmt w
  let rf := vRfmt w
  let n := vElems fmt rf
  let x := (getV u (vVD w)).toNat
  let mode : Rnd := if vRtz w then .rtz else .rne
  packCodes (elemBits fmt) ((List.range n).map fun k => storeLane fmt rf mode (vSat w) (elemAt x (2048 / n) k))

/-- The accumulator row of an accumulator access: two granules a row (05 R132, 03 R85). -/
def vAccRow (w : Nat) (u : VecUnit) : Nat := vGranule w u / 2

/-- VLDACC: rows r and r + 1. -/
def vLoadAcc (acc : Tbl (BitVec 32)) (w : Nat) (u : VecUnit) : VecUnit × Nat :=
  let r := vAccRow w u
  writeLanes w 32 u ((List.range 64).map fun k => ((Tbl.get (0 : BitVec 32) acc (r * 32 + k)).toNat, 0))

/-- VSTACC: the accumulator space after the store. -/
def vStoreAcc (acc : Tbl (BitVec 32)) (w : Nat) (u : VecUnit) : Tbl (BitVec 32) :=
  let r := vAccRow w u
  (List.range 64).foldl
    (fun t k => Tbl.set (0 : BitVec 32) t (r * 32 + k) (BitVec.ofNat 32 (elemAt (getV u (vVD w)).toNat 32 k))) acc

/-- VGATHER: the lanes, and how many indices fell outside the window (05 R133). -/
def vGather (m : Mem) (i : Inst) (w : Nat) (u : VecUnit) : List (Nat × Nat) :=
  let k := elemBits (vFmt w)
  let g := vGranule w u
  let size := vExt w * 32 * 64
  let ix := (getV u (vRfmt w)).toNat
  (List.range (2048 / k)).map fun l =>
    let x := signed k (elemAt ix k l)
    if x < 0 ∨ (x.toNat + 1) * (k / 8) > size then (0, 1)
    else (viewLe m i (g * 64 + x.toNat * (k / 8)) (k / 8), 0)

/-- Runs an instruction that needs the core's scratchpad and the tables of the instance that runs there. -/
def vecMem (op : Nat) (f : Job → Inst → Nat → State → State) (c : Nat) (s : State) : Out :=
  match vecAt s c op, running s c with
  | some w, some (_, j, i) => .next (updVec (f j i w s) c vNext)
  | _, _ => .next s

/-! ### The meanings -/

/-- VEC_NOP: none. -/
def execVecNop (c : Nat) (s : State) : Out := vecRun 0x00 (fun _ u => (u, 0)) c s
def execVadd (c : Nat) (s : State) : Out := vecRun 0x01 vAdd c s
def execVsub (c : Nat) (s : State) : Out := vecRun 0x02 vSub c s
def execVmul (c : Nat) (s : State) : Out := vecRun 0x03 vMul c s
def execVfma (c : Nat) (s : State) : Out := vecRun 0x04 vFma c s
def execVmax (c : Nat) (s : State) : Out := vecRun 0x05 vMax c s
def execVmin (c : Nat) (s : State) : Out := vecRun 0x06 vMin c s
def execVabs (c : Nat) (s : State) : Out := vecRun 0x07 vAbs c s
def execVneg (c : Nat) (s : State) : Out := vecRun 0x08 vNeg c s
def execVmov (c : Nat) (s : State) : Out := vecRun 0x09 vMov c s
def execVsel (c : Nat) (s : State) : Out := vecRun 0x0A vSel c s
def execVclamp (c : Nat) (s : State) : Out := vecRun 0x0B vClamp c s
def execVcmp (c : Nat) (s : State) : Out := vecRun 0x0C vCmp c s
def execVand (c : Nat) (s : State) : Out := vecRun 0x0D (vBitwise Nat.land) c s
def execVor (c : Nat) (s : State) : Out := vecRun 0x0E (vBitwise Nat.lor) c s
def execVxor (c : Nat) (s : State) : Out := vecRun 0x0F (vBitwise Nat.xor) c s
def execVshl (c : Nat) (s : State) : Out := vecRun 0x10 (vShift fun k a n => a * 2 ^ n % 2 ^ k) c s
def execVshr (c : Nat) (s : State) : Out := vecRun 0x11 (vShift fun k a n => unsigned k (signed k a / 2 ^ n)) c s
def execVshru (c : Nat) (s : State) : Out := vecRun 0x12 (vShift fun _ a n => a / 2 ^ n) c s
def execMand (c : Nat) (s : State) : Out := vecRun 0x18 (vMaskOp fun a b => a &&& b) c s
def execMor (c : Nat) (s : State) : Out := vecRun 0x19 (vMaskOp fun a b => a ||| b) c s
def execMnot (c : Nat) (s : State) : Out := vecRun 0x1A (vMaskOp fun a _ => ~~~a) c s
def execVrsum (c : Nat) (s : State) : Out := vecRun 0x20 (vReduce redSum) c s
def execVrmax (c : Nat) (s : State) : Out := vecRun 0x21 (vReduce redMax) c s
def execVrmin (c : Nat) (s : State) : Out := vecRun 0x22 (vReduce redMin) c s
def execVrargmax (c : Nat) (s : State) : Out := vecRun 0x23 vArgMax c s
def execVexp2 (c : Nat) (s : State) : Out := vecRun 0x30 (vTrans 0x30) c s
def execVlog2 (c : Nat) (s : State) : Out := vecRun 0x31 (vTrans 0x31) c s
def execVrcp (c : Nat) (s : State) : Out := vecRun 0x32 (vTrans 0x32) c s
def execVrsqrt (c : Nat) (s : State) : Out := vecRun 0x33 (vTrans 0x33) c s
def execVsqrt (c : Nat) (s : State) : Out := vecRun 0x34 (vTrans 0x34) c s
def execVsint (c : Nat) (s : State) : Out := vecRun 0x35 (vTrans 0x35) c s
def execVcost (c : Nat) (s : State) : Out := vecRun 0x36 (vTrans 0x36) c s
def execVtanh (c : Nat) (s : State) : Out := vecRun 0x37 (vTrans 0x37) c s
def execCmul (c : Nat) (s : State) : Out := vecRun 0x40 (vComplex fun a b _ => cMul a b) c s
def execCmulc (c : Nat) (s : State) : Out := vecRun 0x41 (vComplex fun a b _ => cMul a (cConj b)) c s
def execCmac (c : Nat) (s : State) : Out := vecRun 0x42 (vComplex fun a b d => cAdd d (cMul a b)) c s
def execCmacc (c : Nat) (s : State) : Out := vecRun 0x43 (vComplex fun a b d => cAdd d (cMul a (cConj b))) c s
def execCmag2 (c : Nat) (s : State) : Out :=
  vecRun 0x44 (vComplex fun a _ _ => (Val.add (Val.mul a.1 a.1) (Val.mul a.2 a.2), .fin false 0 0)) c s
def execCrot (c : Nat) (s : State) : Out := vecRun 0x45 (vComplex cRotate) c s
def execVcvt (c : Nat) (s : State) : Out := vecRun 0x50 vCvt c s
def execVbcast (c : Nat) (s : State) : Out := vecRun 0x58 vBcast c s
def execVrot (c : Nat) (s : State) : Out := vecRun 0x59 (vPermute pRot) c s
def execVzip (c : Nat) (s : State) : Out := vecRun 0x5A (vPermute pZip) c s
def execVunzip (c : Nat) (s : State) : Out := vecRun 0x5B (vPermute pUnzip) c s
def execVperm (c : Nat) (s : State) : Out := vecRun 0x5C (vPermute pPerm) c s

/-- VLD (05 R131). -/
def execVld (c : Nat) (s : State) : Out :=
  vecMem 0x60 (fun j i w s => updVec s c fun u => (vLoad j i (getCore s c).scratch w u).1) c s

/-- VST (05 R131). -/
def execVst (c : Nat) (s : State) : Out :=
  vecMem 0x61 (fun _ i w s =>
    let u := (getEng s c).vec
    setScratch s c (viewWrite (getCore s c).scratch i (vGranule w u * 64) (vStoreBytes w u))) c s

/-- VLDACC (05 R132). -/
def execVldacc (c : Nat) (s : State) : Out :=
  vecRun 0x62 (fun w u => vLoadAcc (getEng s c).mat.acc w u) c s

/-- VSTACC (05 R132). -/
def execVstacc (c : Nat) (s : State) : Out :=
  match vecAt s c 0x63 with
  | none => .next s
  | some w =>
    .next (updEng s c fun e =>
      { e with mat := { e.mat with acc := vStoreAcc e.mat.acc w e.vec }, vec := vNext e.vec })

/-- VGATHER (05 R133): lanes outside the window read 0 and are counted. -/
def execVgather (c : Nat) (s : State) : Out :=
  vecMem 0x64 (fun _ i w s =>
    let u := (getEng s c).vec
    let ls := vGather (getCore s c).scratch i w u
    let m := getM u (vMask w)
    let n := (gatherLanes (elemBits (vFmt w)) m ls).2
    let s := updVec s c fun u => (writeLanes w (elemBits (vFmt w)) u ls).1
    countRun s c fun r => { r with gatherRange := satAdd 32 r.gatherRange n }) c s

/-- LOOP: repeats the next BODY instructions COUNT times (05 R126). -/
def execLoop (c : Nat) (s : State) : Out :=
  vecRun 0x70 (fun w u => ({ u with loops := ⟨u.pc + 1, u.pc + vBody w, vCount w - 1⟩ :: u.loops }, 0)) c s

/-- LOOP_END: the last iteration has run; execution continues after the body (05 R135). -/
def execLoopEnd (c : Nat) (s : State) : Out :=
  .next (if coreRuns s c ∧ (getEng s c).vec.active ∧ loopOver (getEng s c).vec then
    updVec s c fun u => vSettle (loopBack { u with loops := u.loops.tail }) else s)

/-- PSET: P[PN] ← IMM32 (05 R126). -/
def execPset (c : Nat) (s : State) : Out :=
  vecRun 0x71 (fun w u => (setP u (vPn w) (BitVec.ofNat 32 (vImm32 w)), 0)) c s

/-- PADD: P[PN] ← P[PN] + IMM32, modulo 2^32 (05 R126). -/
def execPadd (c : Nat) (s : State) : Out :=
  vecRun 0x72 (fun w u => (setP u (vPn w) (getP u (vPn w) + BitVec.ofNat 32 (vImm32 w)), 0)) c s

end Sys2Proof.Machine
end

