-- ==== Sys2Proof/Machine/VecTime.lean ====
section
/-! DEFINITION. What vector instructions read, write and touch, and how many work cycles a VEC step takes (05 R126, R134, R135). -/

namespace Sys2Proof.Machine

/-- Issue cycles of an instruction. -/
def vIssue (w : Nat) : Nat :=
  let op := vOp w
  let wide : Bool := laneBits (vFmt w) = 32
  if 0x30 ≤ op ∧ op ≤ 0x37 then (if wide then 4 else 8)
  else if 0x40 ≤ op ∧ op ≤ 0x43 ∨ op = 0x5C then 2
  else if op = 0x45 then (if vFmt w = 0x0F then 8 else 4)
  else if op = 0x64 then (if elemBits (vFmt w) = 32 then 4 else 8)
  else 1

/-- Cycles from the first issue cycle to the result. -/
def vLatency (w : Nat) : Nat :=
  let op := vOp w
  if op = 0x00 ∨ op = 0x70 ∨ 0x18 ≤ op ∧ op ≤ 0x1A then 1
  else if op = 0x71 ∨ op = 0x72 then 2
  else if op = 0x03 ∨ op = 0x04 ∨ op = 0x44 ∨ op = 0x5C ∨ op = 0x62 then 6
  else if 0x20 ≤ op ∧ op ≤ 0x23 then 4 + 2 * (vMode w + 1)
  else if 0x30 ≤ op ∧ op ≤ 0x37 ∨ op = 0x45 then vIssue w + 12
  else if 0x40 ≤ op ∧ op ≤ 0x43 ∨ op = 0x60 then 8
  else if op = 0x64 then vIssue w + 8
  else 4

/-- Registers by number: V0-V31, then M0-M7 from 32, then P0-P15 from 64; constants are not among them. -/
def vReads (w : Nat) : List Nat :=
  let op := vOp w
  let b := if vImmB w then [] else [vVB w]
  let masked := if vMask w = 0 then [] else [32 + vMask w]
  let kept := if vMask w = 0 ∨ vMz w then [] else if op = 0x0C then [32 + vVD w % 8] else [vVD w]
  let base := if vPidx w = 0 then [] else [64 + vPidx w]
  let ms := fun l => (l.filter fun k => k % 8 ≠ 0).map fun k => 32 + k % 8
  if op = 0x00 ∨ op = 0x70 ∨ op = 0x71 then []
  else if op = 0x72 then (if vPn w = 0 then [] else [64 + vPn w])
  else if op = 0x18 ∨ op = 0x19 then ms [vVA w, vVB w]
  else if op = 0x1A then ms [vVA w]
  else if op = 0x60 ∨ op = 0x62 then masked ++ kept ++ base
  else if op = 0x61 ∨ op = 0x63 then vVD w :: masked ++ base
  else if op = 0x64 then vRfmt w :: masked ++ kept ++ base
  else
    let srcs :=
      if op = 0x09 then (if vImmB w then [] else [vVA w])
      else if op = 0x04 ∨ op = 0x0B then vVA w :: b ++ [vVC w]
      else if op = 0x42 ∨ op = 0x43 then vVA w :: b ++ [vVC w, vVD w]
      else if op = 0x07 ∨ op = 0x08 ∨ 0x20 ≤ op ∧ op ≤ 0x37 ∨ op = 0x44 ∨ op = 0x50 ∨ op = 0x58 ∨ op = 0x59 then [vVA w]
      else vVA w :: b
    srcs ++ masked ++ kept

/-- The register that an instruction writes. -/
def vWrites (w : Nat) : Option Nat :=
  let op := vOp w
  if op = 0x00 ∨ op = 0x61 ∨ op = 0x63 ∨ op = 0x70 then none
  else if op = 0x71 ∨ op = 0x72 then (if vPn w = 0 then none else some (64 + vPn w))
  else if op = 0x0C ∨ 0x18 ≤ op ∧ op ≤ 0x1A then (if vVD w % 8 = 0 then none else some (32 + vVD w % 8))
  else some (vVD w)

/-- The granules that a memory instruction at a granule touches, as ranges: a gather its whole window, a microscaling load the elements
and the scales of its two blocks in a row of so many elements (05 R131, R133, R134; 04 R97). -/
def vSpans (w : Nat) (g : Int) (elems : Nat) : List (Int × Nat) :=
  let n := elemBits (vFmt w)
  let span := fun a len : Nat => (g + (a / 64 : Nat), ceilDiv (a % 64 + len) 64)
  if vOp w = 0x64 then [(g, vExt w * 32)]
  else if vOp w ≠ 0x60 ∧ vOp w ≠ 0x61 then []
  else if isMx (vFmt w) then [span (vExt w * 32 * n / 8) (64 * n / 8), span (elems * n / 8 + vExt w) 2]
  else [span 0 (n * vElems (vFmt w) (vRfmt w) / 8)]

/-- ADDR + P[PIDX] as it is computed (05 R125). -/
def vPlace (w : Nat) (u : VecUnit) : Int := (vAddr w : Int) + (getP u (vPidx w)).toInt

/-- The granules that a placed instruction touches; `elems`: ELEMS of the tile row at a granule. -/
def vTouches (elems : Nat → Nat) (w : Nat) (u : VecUnit) : List Nat :=
  (vSpans w (vPlace w u) (elems (vPlace w u).toNat)).flatMap fun x => (List.range x.2).map fun k => x.1.toNat + k

/-- What R135 carries from instruction to instruction: the cycle at which the engine may issue, the cycle at which each register's
latest writer lands, stores with their cycles of landing, the completion so far. -/
structure VTime where
  next : Nat
  writers : List (Nat × Nat)
  stores : List (List Nat × Nat)
  done : Nat
  deriving DecidableEq, Repr

/-- One instruction of R135, from its step's issue at cycle 0. -/
def VTime.step (elems : Nat → Nat) (w : Nat) (u : VecUnit) (r : VTime) : VTime :=
  let touched := vTouches elems w u
  let src := vReads w
  let ready := (r.writers.filter fun x => x.1 ∈ src).foldl (fun m x => max m x.2) 0
  let waw := match (vWrites w).bind fun d => r.writers.find? fun x => x.1 = d with
    | some x => x.2 + 1 - vLatency w
    | none => 0
  let mem := if vOp w = 0x61 then 0
    else (r.stores.filter fun x => touched.any fun g => g ∈ x.1).foldl (fun m x => max m x.2) 0
  let c := max (max r.next ready) (max waw mem)
  let lands := c + vLatency w
  { next := c + vIssue w
    writers := match vWrites w with
      | some d => (d, lands) :: r.writers.filter fun x => x.1 ≠ d
      | none => r.writers
    stores := if vOp w = 0x61 then (touched, lands) :: r.stores.filter fun x => decide (c < x.2) else r.stores
    done := max r.done lands }

/-- What an instruction does to the pointers and the loops (05 R126): all that steers an address. -/
def vControl (w : Nat) (u : VecUnit) : VecUnit :=
  if vOp w = 0x70 then { u with loops := ⟨u.pc + 1, u.pc + vBody w, vCount w - 1⟩ :: u.loops }
  else if vOp w = 0x71 then setP u (vPn w) (BitVec.ofNat 32 (vImm32 w))
  else if vOp w = 0x72 then setP u (vPn w) (getP u (vPn w) + BitVec.ofNat 32 (vImm32 w))
  else u

/-- Follows the control flow of a step for at most so many instructions, with something carried along (05 R124, R135). -/
def vFollow {α : Type} (f : Nat → VecUnit → α → α) : Nat → VecUnit → α → VecUnit × α
  | 0, u, x => (u, x)
  | n + 1, u, x =>
    if loopOver u then vFollow f n (vSettle (loopBack { u with loops := u.loops.tail })) x
    else if u.stop ≤ u.pc then (u, x)
    else
      let w := (Tbl.get (0 : BitVec 64) u.prog u.pc).toNat
      vFollow f n (vNext (vControl w u)) (f w u x)

/-- More instructions than any step executes: 8,192 of them in two loops of 65,535 iterations (05 R119, R124, R125). -/
def vFuel : Nat := 2 ^ 48

/-- Work cycles of the VEC step at which an engine stands, from its issue, and the engine's pointers after it (R135). -/
def vecCycles (elems : Nat → Nat) (u : VecUnit) : Nat × VecUnit :=
  let r := vFollow (VTime.step elems) vFuel u { next := 2, writers := [], stores := [], done := 0 }
  (r.2.done, r.1)

end Sys2Proof.Machine
end

