-- ==== Sys2Proof/Machine/Cycles.lean ====
section
/-! DEFINITION. What steps, transfers and engines take in cycles. No command waits for them: the order of the queue stands for time
(log 25). -/

namespace Sys2Proof.Machine

/-! ### The mesh (01 R18, R20, R22) -/

/-- Die, row and column of a physical core. -/
def meshAt (p : Nat) : Nat × Nat × Nat := (p / 36, p % 36 / 6, p % 6)

/-- Mesh cycles from one router of a row or column to another: 1 a hop, 4 across the border between regions. -/
def meshLine (a b : Nat) : Nat := (max a b - min a b) + if min a b < 3 ∧ 3 ≤ max a b then 3 else 0

/-- Mesh cycles of a transfer from core to core: along the row first, over the die bridge in the source row, then along the column. -/
def meshLatency (p q : Nat) : Nat :=
  let (d, r, c) := meshAt p
  let (e, r', c') := meshAt q
  let row := if d = e then meshLine c c' else if d = 0 then meshLine c 5 + 40 + meshLine 0 c' else meshLine c 0 + 40 + meshLine 5 c'
  6 + row + meshLine r r' + 6

/-- Pinned time of a transaction of a stream mover in work cycles, by the KIND of its schedule entry (12 R319, R323). -/
def pinnedCycles : Nat → Nat
  | 0 | 1 => 768
  | 2 => 80
  | 3 => 160
  | _ => 848

/-! ### Arrays, mint, rinse, digest -/

/-- A PASS over rows of so many granules' input cycles each, its RAMP 128 or 0 (03 R83). -/
def passCycles (ramp rows perRow : Nat) : Nat := 69 + ramp + rows * perRow

/-- A RELOAD; the spacing of reloads of one array (03 R84). -/
def reloadCycles : Nat := 32
def reloadSpacing : Nat := 64

/-- A MINT step over tiles of (elements, rows with a scale), with sources of 32 or of 16 bits (04 R111). -/
def mintCycles (wide : Bool) (tiles : List (Nat × Nat)) : Nat :=
  12 + sumNat (tiles.map fun t => 4 + ceilDiv t.1 (if wide then 64 else 128) + t.2)

/-- A DIGEST step over so many bytes (14 R375); the rinse of segments (12 R310); how long a post of another core stays unseen (14 R360). -/
def digestCycles (bytes : Nat) : Nat := 4 + ceilDiv bytes 64
def rinseCycles : Nat := 4096
def postCycles : Nat := 360

/-! ### Coding cluster (09 R229, R231); `Shape.cycles` is R224, `polarCycles` a PUCCH payload's -/

/-- Coding an LDPC block of E bits over so many rows; coding a polar word of N bits. -/
def encodeCycles (rows e : Nat) : Nat := 32 + 2 * rows + ceilDiv e 128
def polarEncodeCycles (n : Nat) : Nat := 32 + n / 8

/-! ### Symbols on air -/

/-- Start and end of symbol l in units of 1/96 ns from the start of its slot (3GPP TS 38.211, as 08 R184 and R185 use it). -/
def symbolSpan (mu inFrame l : Nat) : Int × Int :=
  let len := 2192 / 2 ^ mu
  let half : Int × Nat :=
    if mu = 0 then (if l < 7 then (0, l) else (48000000, l - 7))
    else if mu = 1 then (0, l)
    else (-((inFrame % 4 * 12000000 : Nat) : Int), 14 * (inFrame % 4) + l)
  let m := half.2
  (half.1 + (if m = 0 then 0 else (16 + len * m) * 3125 : Nat), half.1 + ((16 + len * (m + 1)) * 3125 : Nat))

end Sys2Proof.Machine
end

