-- ==== Sys2Proof/Machine/Exact.lean ====
section
/-! DEFINITION. Exact numbers of the radio chains: rounding, complex numbers, F32 values (08 R199-R214, 09 R233; log 100). -/

namespace Sys2Proof.Machine

/-- n ÷ d rounded to nearest, ties to even. -/
def rneInt (n : Int) (d : Nat) : Int := if n < 0 then -(roundQuot .rne n.natAbs d : Int) else roundQuot .rne n.natAbs d

/-! ### Complex numbers -/

structure Cx where
  re : Rat
  im : Rat
  deriving DecidableEq, Repr

def Cx.zero : Cx := ⟨0, 0⟩
def Cx.one : Cx := ⟨1, 0⟩
def Cx.add (a b : Cx) : Cx := ⟨a.re + b.re, a.im + b.im⟩
def Cx.sub (a b : Cx) : Cx := ⟨a.re - b.re, a.im - b.im⟩
def Cx.mul (a b : Cx) : Cx := ⟨a.re * b.re - a.im * b.im, a.re * b.im + a.im * b.re⟩
def Cx.conj (a : Cx) : Cx := ⟨a.re, -a.im⟩
def Cx.scale (x : Rat) (a : Cx) : Cx := ⟨x * a.re, x * a.im⟩
/-- |a|². -/
def Cx.power (a : Cx) : Rat := a.re * a.re + a.im * a.im
def Cx.div (a b : Cx) : Cx := (a.mul b.conj).scale (1 / b.power)
def Cx.sum (l : List Cx) : Cx := l.foldl Cx.add Cx.zero
/-- e^(j2πx) of x turns. -/
def Cx.turn (x : Rat) : Cx := ⟨Config.turnCos x, Config.turnSin x⟩
/-- The argument in turns. -/
def Cx.arg (a : Cx) : Rat := Config.turnArg a.re a.im
/-- A value of a stage as the programs round it. -/
def Cx.stage (k : Nat) (a : Cx) : Cx := ⟨Config.chainRound k a.re, Config.chainRound k a.im⟩

def ratSum (l : List Rat) : Rat := l.foldl (· + ·) 0
def ratMean (l : List Rat) : Rat := ratSum l / (l.length : Rat)

/-- Rounds to nearest, ties to even. -/
def ratRne (x : Rat) : Int := rneInt x.num x.den

/-- The number that F32 bits stand for; 0 for infinities and NaN. -/
def ratOfF32 (b : Nat) : Rat :=
  match fF32.decode b with
  | .fin neg m e =>
    let v : Rat := if 0 ≤ e then (m : Rat) * (2 ^ e.toNat : Nat) else (m : Rat) / (2 ^ (-e).toNat : Nat)
    if neg then -v else v
  | .inf _ | .nan => 0

end Sys2Proof.Machine
end

