-- ==== Sys2Proof/Machine/Sequencer.lean ====
section
/-! DEFINITION. The sequencer of a core: which step stands next, when it issues, what its issue and its completion do,
epochs, stream mover transactions (02 R56-R70, 12 R317-R329, 14 R360-R374). -/

namespace Sys2Proof.Machine

/-! ### Step words (02 R56) -/

def stOp (w : BitVec 128) : Nat := bits w.toNat 4 0
def stSub (w : BitVec 128) : Nat := bits w.toNat 7 5
def stWaitEn (w : BitVec 128) : Bool := bit w.toNat 24
def stWaitBind (w : BitVec 128) : Nat := bits w.toNat 29 25
def stPostEn (w : BitVec 128) : Bool := bit w.toNat 30
def stPostBind (w : BitVec 128) : Nat := bits w.toNat 36 32
def stDelta (w : BitVec 128) : Nat := bits w.toNat 63 40
def stPostAdd (w : BitVec 128) : Nat := bits w.toNat 79 64
def stStream (w : BitVec 128) : Nat := bits w.toNat 91 80
def stArg (w : BitVec 128) : Nat := bits w.toNat 127 96

/-- The unit of a step class; none: the sequencer itself (02 R57). -/
def stUnit (w : BitVec 128) : Option Unit_ :=
  match stOp w with
  | 1 | 2 => some (.array (stSub w))
  | 3 | 7 => some .vector
  | 4 => some .signal
  | 5 | 6 | 10 => some .mover
  | _ => none

/-- Whether a step's class carries a stream (14 R357). -/
def stHasStream (w : BitVec 128) : Bool := stOp w ∈ [5, 6, 7, 10]

/-! ### Where a core stands -/

/-- What a core executes: job handle, job, its invocation, its instance there. -/
structure Cur where
  h : Nat
  job : Job
  run : Invocation
  inst : Inst
  deriving DecidableEq, Repr

/-- The instance that a core runs, with an invocation that is not ending, while the core receives work cycles. -/
def cur (s : State) (c : Nat) : Option Cur :=
  match running s c with
  | none => none
  | some (h, j, i) =>
    match j.run with
    | none => none
    | some r => if r.ending ∨ ¬ coreRuns s c then none else some ⟨h, j, r, i⟩

/-- The step table of the epoch in progress. -/
def Inst.table (i : Inst) : List (BitVec 128) := nth [] i.plans i.plan

/-- The step that stands next on a core. -/
def nextStep (s : State) (c : Nat) : Option (Cur × BitVec 128) :=
  match cur s c with
  | none => none
  | some u => if u.inst.phase = .running then (u.inst.table[u.inst.step]?).map fun w => (u, w) else none

/-- The binding of an instance. -/
def Inst.bind (i : Inst) (b : Nat) : Option Binding := i.binds[b]?

/-- Whether the wait of a step is met on its core (02 R58, 14 R358). -/
def waitMet (s : State) (c : Nat) (u : Cur) (w : BitVec 128) : Bool :=
  if ¬ stWaitEn w then true
  else
    match u.inst.bind (stWaitBind w) with
    | none => true
    | some b => decide (b.base + stDelta w ≤ ((getTally s (tallyOf s u.job.part b.tally)).visible c : Int))

/-- Whether a unit can accept a step: it holds one step while it executes another (02 R58). -/
def Inst.accepts (i : Inst) (u : Unit_) : Bool := decide ((i.issued.filter fun x => x.unit = u).length < 2)

/-- Whether a step issues now: barriers want every earlier step complete; a CHECKPOINT of a latency-critical job is a NOP (02 R58,
R68); the signal unit accepts a step once the HALT of its previous one has issued (06 R165). -/
def canIssue (s : State) (c : Nat) (u : Cur) (w : BitVec 128) : Bool :=
  waitMet s c u w &&
    match stUnit w with
    | some x => u.inst.accepts x && (x != .signal || !(getEng s c).sig.running)
    | none => if stOp w ∈ [11, 12] ∨ (stOp w = 9 ∧ u.job.bestEffort) then u.inst.issued.isEmpty else true

/-- The step of a class that issues now on a core, if one does. -/
def issuing (s : State) (c op : Nat) : Option (Cur × BitVec 128) :=
  match nextStep s c with
  | none => none
  | some (u, w) => if stOp w = op ∧ canIssue s c u w then some (u, w) else none

/-! ### Posts (02 R58, 14 R355, R357) -/

/-- The tally post of a step that completes; an addition past 2^64 − 1 faults the invocation with TALLY_OVERFLOW. -/
def post (s : State) (c : Nat) (u : Cur) (w : BitVec 128) : State :=
  if ¬ stPostEn w then s
  else
    match u.inst.bind (stPostBind w) with
    | none => s
    | some b =>
      let r := jobTallyAdd s u.h b.tally (stPostAdd w) (sourceCode 1 c) (some c)
      if r.2 then r.1
      else abortRun r.1 u.h eFault
        (some (6 + (if stHasStream w then stStream w else 0xFFFF) * 65536, b.tally, logicalCore s c)) []

/-- QUEUE_NS of a best-effort job ends with the first step of its instance on its last core, of a latency-critical one
with the first epoch on its last core (13 R349). -/
def begun (s : State) (c : Nat) (u : Cur) : State :=
  if c ∈ u.run.unbegun then
    let left := u.run.unbegun.filter (· ≠ c)
    let s := updRun s u.h fun r => { r with unbegun := left }
    if left.isEmpty then chargeJob s u.h { Ledger.none with queueNs := nowNs s - u.run.accepted } else s
  else s

/-- The sequencer goes on to the next step (02 R58). -/
def advance (s : State) (c : Nat) (u : Cur) : State :=
  let s := if u.job.bestEffort ∧ u.inst.epoch = 0 ∧ u.inst.step = 0 then begun s c u else s
  updInst s u.h c fun i => { i with step := i.step + 1, waitSince := nowNs s }

/-- A step that completes at issue: NOP, POST, FENCE (02 R57). -/
def issueAtOnce (s : State) (c : Nat) (u : Cur) (w : BitVec 128) : State := post (advance s c u) c u w

/-- A step that takes time is issued (02 R58): `open_`: transactions that must land before it completes. -/
def issueTimed (s : State) (c : Nat) (u : Cur) (w : BitVec 128) (x : Unit_) (open_ : Nat) : State :=
  let s := advance s c u
  updInst s u.h c fun i => { i with issued := i.issued ++ [{ unit := x, word := w, index := u.inst.step, open_ := open_ }] }

/-! ### Starting the vector engine and the signal unit (02 R57, 05 R135, 06 R165) -/

/-- A VEC step begins: first instruction and count from ARG. -/
def startVec (s : State) (c : Nat) (w : BitVec 128) : State :=
  let first := bits (stArg w) 15 0
  let n := bits (stArg w) 31 16
  updEng s c fun e => { e with vec := { e.vec with active := decide (0 < n), pc := first, stop := first + n, loops := [] } }

/-- A SIG step begins: program memory address from ARG. -/
def startSig (s : State) (c : Nat) (w : BitVec 128) : State :=
  updEng s c fun e => { e with sig := { e.sig with running := true, pc := bits (stArg w) 13 0, branch := none, repeating := false } }

/-! ### Stream mover transactions (12 R317-R329) -/

/-- Fields of a schedule entry (12 R323). -/
def seStream (e : BitVec 128) : Nat := bits e.toNat 27 16
def seKind (e : BitVec 128) : Nat := bits e.toNat 31 28
def seCount (e : BitVec 128) : Nat := bits e.toNat 43 32 + 1
def seLocal (e : BitVec 128) : Nat := bits e.toNat 63 48
def seEntry (e : BitVec 128) : Nat := bits e.toNat 79 64
def sePaged (e : BitVec 128) : Bool := bit e.toNat 80
def seAddr (e : BitVec 128) : Nat := bits e.toNat 111 84
def seCast (e : BitVec 128) : Nat := bits e.toNat 117 112

/-- Schedule entries of a step (12 R322). -/
def Inst.entries (i : Inst) (plan step : Nat) : List (BitVec 128) := Tbl.get [] i.sched (plan * 32768 + step)

/-- Where granule g of an HBM entry lies: physical byte and partition page, or why it faults (12 R315, R317, R328;
11 R281): the null page lies nowhere. -/
inductive Reach where
  | at_ (phys page : Nat)
  | null
  | fault (cause page : Nat)
  deriving DecidableEq, Repr

/-- The granule of a partition address. -/
def reachAddr (q : Part) (a : Nat) : Reach :=
  match q.phys a with
  | some b => .at_ b (a / pageBytes)
  | none => .fault 1 (a / pageBytes)

/-- Granule g of an entry: through the translation entries of its record, or through the page list (12 R316, R317). -/
def reach (k : CoreCtl) (q : Part) (j : Job) (i : Inst) (e : BitVec 128) (g : Nat) : Reach :=
  if sePaged e then
    match j.pool with
    | none => .fault 2 0
    | some (base, frames, size) =>
      let frame := viewLe k.scratch i (i.pageLists + 4 * seEntry e) 4
      if frame = 0xFFFFFFFF then .null
      else if frames ≤ frame then .fault 2 (base / pageBytes)
      else reachAddr q (base + frame * size + (seAddr e + g) * 64)
  else
    let off := (seAddr e + g) * 64
    let t := nth 0 i.transl (seEntry e + off / pageBytes)
    let vpage := bits t.toNat 30 16
    if q.isMapped vpage then .at_ (bits t.toNat 15 0 * pageBytes + off % pageBytes) vpage else .fault 1 vpage

/-- The page of a fault, if it is one. -/
def Reach.failure : Reach → Option (Nat × Nat)
  | .fault c p => some (c, p)
  | _ => none

def Reach.phys : Reach → Option Nat
  | .at_ b _ => some b
  | _ => none

def Reach.page : Reach → Nat
  | .at_ _ p => p
  | .fault _ p => p
  | .null => 0xFFFFFFFF

/-- The bytes of granules of a core's scratchpad, as an instance names them. -/
def granuleBytes (m : Mem) (i : Inst) (gs : List Nat) : List Byte := gs.flatMap fun g => Mem.bytes m (64 * i.granule g) 64

/-- The transaction of a schedule entry: write data is read at issue (12 R319, R322). -/
def makeTxn (s : State) (c : Nat) (u : Cur) (q : Part) (step : Nat) (e : BitVec 128) : Txn ⊕ (Nat × Nat × Nat) :=
  let k := getCore s c
  let n := seCount e
  let near := (List.range n).map fun g => seLocal e + g
  let base : Txn :=
    { job := u.h, step := step, plan := u.inst.plan, kind := seKind e, stream := seStream e, near := near, far := [], cores := [],
      pages := [], data := [] }
  if seKind e = 2 ∨ seKind e = 3 then
    let dst := nth 0 q.cores (seEntry e)
    let far := (List.range n).map fun g => match u.job.instOn dst with
      | some d => d.granule (seAddr e + g)
      | none => seAddr e + g
    .inl { base with
      far := far, cores := [dst], pages := List.replicate n 0
      data := if seKind e = 2 then granuleBytes k.scratch u.inst near else [] }
  else
    let rs := (List.range n).map fun g => reach k q u.job u.inst e g
    match rs.findSome? Reach.failure with
    | some (cause, page) => .inr (cause, seStream e, page)
    | none =>
      .inl { base with
        far := rs.filterMap Reach.phys
        pages := rs.map Reach.page
        cores := if seKind e = 4 then nth [] u.inst.castSets (seCast e) else []
        data := if seKind e = 1 then granuleBytes k.scratch u.inst near else [] }

/-- Issues a FEED or STORE step: its entries become transactions; the first fault of one ends the invocation (12 R328). -/
def issueMover (s : State) (c : Nat) (u : Cur) (w : BitVec 128) : State :=
  match Tbl.find s.work.parts u.job.part with
  | none => s
  | some q =>
    let ts := (u.inst.entries u.inst.plan u.inst.step).map fun e => makeTxn s c u q u.inst.step e
    match ts.findSome? fun t => match t with
        | .inr f => some f
        | .inl _ => none with
    | some (cause, stream, page) => memoryFault (advance s c u) u.h cause stream page c 0xFF
    | none =>
      let ok := ts.filterMap fun t => match t with
        | .inl x => some x
        | .inr _ => none
      let s := issueTimed s c u w .mover ok.length
      updCore s c fun k => { k with txns := k.txns ++ ok }

/-- The data that a read transaction brings (12 R319): zeros for the null page. -/
def txnData (s : State) (t : Txn) : List Byte :=
  if t.kind = 3 then
    match t.cores with
    | [] => []
    | d :: _ => t.far.flatMap fun g => Mem.bytes (getCore s d).scratch (64 * g) 64
  else if t.far = [] then List.replicate (64 * t.near.length) 0
  else t.far.flatMap fun a => Mem.bytes s.work.hbm a 64

/-- Writes granules of a core's scratchpad, as the job's instance there names them. -/
def landOn (s : State) (j : Job) (c : Nat) (near : List Nat) (data : List Byte) : State :=
  match j.instOn c with
  | none => s
  | some i => updCore s c fun k =>
      { k with scratch := (near.zipIdx).foldl (fun m e => Mem.writeBytes m (64 * i.granule e.1) ((data.drop (64 * e.2)).take 64)) k.scratch }

/-- A transaction lands (12 R319, R326, R327): reads in scratchpad, casts on every destination, writes at their target; its
granules are charged (13 R348). -/
def landTxn (s : State) (c : Nat) (j : Job) (t : Txn) : State :=
  let n := 64 * t.near.length
  let s := match t.kind with
    | 0 | 3 => landOn s j c t.near (txnData s t)
    | 4 => t.cores.foldl (fun s d => landOn s j d t.near (txnData s t)) s
    | _ => landWrite s j.part t
  match t.kind with
  | 0 | 4 => if t.far = [] then s else chargeUse s t.job 0 n { Ledger.none with hbmRead := n }
  | 1 => if t.far = [] then s else chargeUse s t.job 1 n { Ledger.none with hbmWrite := n }
  | _ => s

/-- One transaction fewer stands between a step and its completion (12 R322). -/
def txnDone (s : State) (c : Nat) (t : Txn) : State :=
  updInst s t.job c fun i =>
    { i with issued := i.issued.map fun x =>
        if x.unit = .mover ∧ x.index = t.step ∧ 0 < x.open_ then { x with open_ := x.open_ - 1 } else x }

/-! ### Epochs (02 R61-R65) -/

/-- The plan of the epoch that a core begins next; none: a rule has not assigned it (02 R63, R65). -/
def nextPlan (j : Job) (r : Invocation) (i : Inst) : Option Nat :=
  if j.rules then
    if i.epoch < j.ruleField 4 1 then some i.plan else Tbl.find r.rulePlans i.epoch
  else
    match (r.sels.filter fun p => p.effect ≤ i.epoch).getLast? with
    | some p => some p.plan
    | none => some i.plan

/-- The plan of an epoch of an image with a rule: epochs before LEAD run plan 0 (02 R65). -/
def rulePlan (j : Job) (r : Invocation) (e : Nat) : Nat :=
  if e < j.ruleField 4 1 then 0 else (Tbl.find r.rulePlans e).getD 0

/-- The value of READY at which the next plan selection by rule is due (02 R65). -/
def Job.ruleDue (j : Job) (r : Invocation) : Int :=
  r.ruleBase + (tallyField j.image (j.ruleField 2 2) (16 + 2 * rulePlan j r r.ruleNext) 2 : Nat)

/-- EPOCH_END on a core: bases and ring positions advance by the STRIDE of the plan just run, and the epoch is over
(02 R61, R594). -/
def Inst.endEpoch (i : Inst) : Inst :=
  { i with
    binds := i.binds.map fun b => { b with base := b.base + (nth 0 b.stride i.plan : Nat) }
    rings := i.rings.map fun r => { r with rho := if r.depth = 0 then r.rho else (r.rho + nth 0 r.advance i.plan) % r.depth }
    epoch := i.epoch + 1
    step := 0 }

/-- JOB_EVENT DEADLINE_MISS (16 R443), and the ledger's count. -/
def deadlineMiss (s : State) (c : Nat) (u : Cur) (lateNs : Nat) : State :=
  let s := partEvent s u.job.part 0x0380 64
    (leBytes 4 u.h ++ leBytes 1 1 ++ leBytes 3 0 ++ leBytes 4 u.inst.epoch ++ leBytes 4 (min lateNs (2 ^ 32 - 1)) ++ leBytes 1 (logicalCore s c))
  chargeJob s u.h { Ledger.none with deadlineMiss := 1 }

/-- Whether every segment of an instance is ON and none is being rinsed (12 R307). -/
def segsReady (k : CoreCtl) (i : Inst) : Bool :=
  (List.range 12).all fun n => !i.segments.getLsbD n || (nth SegPower.off k.power n = .on && n ∉ k.rinsing)

/-- Whether the core of an instance has begun an epoch: an instance that yields stays in the epoch that it is in (02 R63, R67). -/
def Inst.hasBegun (i : Inst) (e : Nat) : Bool :=
  decide (e < i.epoch ∨ (i.epoch = e ∧ (i.phase = .running ∨ i.phase = .saving ∨ i.phase = .saved)))

/-- Completes the PLAN_SELECTs whose epoch every core of the invocation has begun (02 R63). -/
def settleSelects (s : State) (h : Nat) : State :=
  match getJob s h with
  | none => s
  | some j =>
    match j.run with
    | none => s
    | some r =>
      let begunAll := fun (e : Nat) => j.insts.all fun i => i.hasBegun e
      let done := r.sels.filter fun p => begunAll p.effect
      let s := done.foldl (fun s p => complete s p.ticket ⟨eOk, p.effect, 0, 0, 0⟩) s
      updRun s h fun r => { r with sels := r.sels.filter fun p => !begunAll p.effect }

/-- The step block and selector hooks come before this: a core begins its next epoch (02 R61). -/
def beginEpoch (s : State) (c : Nat) (u : Cur) (plan : Nat) : State :=
  let period := u.job.period
  let now := nowNs s
  let late := u.inst.late
  let s := if late then deadlineMiss s c u (now - u.inst.due) else s
  let due := if period = 0 then 0 else if late then alignedAt (now + 1) period u.job.phase else u.inst.due + period
  let s := updInst s u.h c fun i =>
    { i with phase := .running, plan := plan, step := 0, minted := [], late := false, due := due, waitSince := now }
  let s := updEng s c fun e => { e with vec := { e.vec with p := [] } }
  let s := if u.job.bestEffort ∨ u.inst.epoch ≠ 0 then s else begun s c u
  settleSelects s u.h

/-- Whether a core may begin its next epoch now (02 R61, R62). -/
def mayBegin (s : State) (c : Nat) (u : Cur) : Option Nat :=
  let startTime := if u.job.period = 0 then (if u.inst.epoch = 0 then u.run.start else 0) else u.inst.due
  let isOver : Bool := match lastEpoch u.job u.run with
    | some l => decide (l < u.inst.epoch)
    | none => false
  if u.inst.phase = .between ∧ isOver = false ∧ startTime ≤ nowNs s ∧ segsReady (getCore s c) u.inst then nextPlan u.job u.run u.inst
  else none

/-- Whether an invocation has run its last epoch on every core (02 R62). -/
def runComplete (s : State) (h : Nat) : Bool :=
  match getJob s h with
  | none => false
  | some j =>
    match j.run with
    | none => false
    | some r =>
      match lastEpoch j r with
      | none => false
      | some l => !r.ending && j.insts.all fun i => decide (l < i.epoch) && i.issued.isEmpty

/-- The effect of an EPOCH_END step on its core and on the invocation, once it completes (02 R61, R62). An invocation that
JOB_STOP ends is over when its last core is; one that EPOCH_LIMIT ends is ended by that event. -/
def endEpochOn (s : State) (c : Nat) (u : Cur) : State :=
  let isOver : Bool := match lastEpoch u.job u.run with
    | some l => decide (l ≤ u.inst.epoch)
    | none => false
  let now := nowNs s
  let s := updInst s u.h c fun i =>
    let i := i.endEpoch
    { i with phase := if isOver then .ended else .between, late := u.job.period ≠ 0 && decide (i.due < now) }
  if u.run.last.isSome ∧ runComplete s u.h then endInvocation s u.h eOk none else s

/-! ### Digests (02 R69, R70; 14 R374) -/

/-- The bytes of tile k of the epoch on a stream, as an instance's core holds it: planes, rows, footprints (02 R69). -/
def tileBytes (m : Mem) (i : Inst) (img : List Byte) (stream k : Nat) : List Byte :=
  let t := streamTile img stream
  match (i.ringOf stream true).or (i.ringOf stream false) with
  | none => []
  | some r =>
    let slot := r.first + (k % max 1 r.depth) * r.spacing
    (List.range t.planes).flatMap fun p => (List.range t.rows).flatMap fun row =>
      let g := slot + p * t.planeStride + row * t.rowStride
      (List.range (rowFootprint t.format t.elems)).map fun b => Mem.read m (i.byteAddr (64 * g + b))

/-- Whether a DIGEST step of an epoch may have a record to give (02 R69): with EVERY 0, which epoch is the last is known when the
invocation ends, or its limit or JOB_STOP is set. -/
def digestEmits (j : Job) (rec_ epoch : Nat) : Bool :=
  let every := digestField j.image rec_ 10 2
  every = 0 || epoch % every = 0

/-- A DIGEST step reads its tiles; the partial result is kept until every instance has one (14 R374). -/
def takeDigest (s : State) (c : Nat) (u : Cur) (w : BitVec 128) : State :=
  let rec_ := stArg w
  let st := digestField u.job.image rec_ 4 2
  let first := digestField u.job.image rec_ 6 2
  let n := digestField u.job.image rec_ 8 2
  let producer := streamField u.job.image st 0 2
  let inst := ((u.inst.stations.find? fun x => x.1 = producer).map Prod.snd).getD 0
  let data := (List.range n).flatMap fun k => tileBytes (getCore s c).scratch u.inst u.job.image st (first + k)
  if digestEmits u.job rec_ u.inst.epoch then
    let superseded := fun (d : PartDigest) => d.point = rec_ ∧ d.inst = inst ∧ digestField u.job.image rec_ 10 2 = 0
    updRun s u.h fun r =>
      { r with digests := r.digests.filter (fun d => ¬ superseded d) ++ [{ point := rec_, epoch := u.inst.epoch, inst := inst, bytes := data }] }
  else s

/-! ### Yields (01 R33, 02 R66-R68, 13 R341) -/

/-- The live granule ranges at a checkpoint on a core: the rings of the listed streams, and the private areas (02 R66). -/
def liveRanges (j : Job) (i : Inst) (cp : Nat) : List (Nat × Nat) :=
  let off := imgField j.image 0x000A 16 cp 0 4
  let n := imgField j.image 0x000A 16 cp 4 2
  let streams := (List.range n).map fun k => constField j.image (off + 2 * k) 2
  (i.rings.filter fun r => r.stream ∈ streams).map (fun r => (r.first, r.spacing * r.depth))
    ++ (if bit (imgField j.image 0x000A 16 cp 6 2) 0 then i.privates.map fun p => (p.2.1, ceilDiv p.2.2 64) else [])

/-- A CHECKPOINT halts its instance for a yield: its live state is to be saved (02 R67). One whose own tally wait is not met
does not complete: the instance stands at it again when it resumes (13 R341, R353). -/
def haltForYield (s : State) (c : Nat) (u : Cur) (w : BitVec 128) : State :=
  let m := (getCore s c).scratch
  let live := (liveRanges u.job u.inst (stArg w)).map fun r => (r.1, Mem.bytes m (64 * r.1) (64 * r.2))
  let asked := (getCore s c).yield
  updInst s u.h c fun i =>
    { i with phase := .saving, saved := live, yieldSince := if asked then i.yieldSince else nowNs s }

/-- Another instance is ready on the core (13 R341). -/
def otherReady (k : CoreCtl) : Bool := !k.ready.isEmpty

/-! ### What completes with a step (02 R58) -/

/-- Whether the oldest step of a unit is done: the vector engine has retired its last instruction, the signal unit has
executed its halt instruction, every transaction has landed (02 R57). -/
def unitDone (s : State) (c : Nat) (x : Issued) : Bool :=
  let e := getEng s c
  match x.unit with
  | .vector => if stOp x.word = 3 then !e.vec.active else true
  | .signal => !e.sig.running
  | .mover => decide (x.open_ = 0)
  | .array _ => true

/-- Removes the first issued step of a unit. -/
def dropFirst (u : Unit_) : List Issued → List Issued
  | [] => []
  | x :: xs => if x.unit = u then xs else x :: dropFirst u xs

end Sys2Proof.Machine
end

