-- ==== Sys2Proof/Machine/Mint.lean ====
section
/-! DEFINITION. The mint: sources, multipliers, conversion and counts of a MINT step (04 R106-R112). -/

namespace Sys2Proof.Machine

/-- A field of an entry of the mint parameter record at a CONSTANTS offset (04 R108). -/
def mintField (img : List Byte) (rec_ e off n : Nat) : Nat := constField img (rec_ + 16 + 48 * e + off) n

/-- The seed of a stream (02 R50 SEEDS), when it has one. -/
def seedOf (img : List Byte) (stream : Nat) : Option Nat :=
  ((List.range (imgSection img 0x000D).1).find? fun k => imgField img 0x000D 16 k 0 2 = stream).map fun k =>
    imgField img 0x000D 16 k 8 8

/-- Tiles of a stream that an instance has written or taken in the epoch. -/
def Inst.taken (i : Inst) (key : Nat) : Nat := ((i.minted.find? fun e => e.1 = key).map Prod.snd).getD 0

/-- Counts one more tile. -/
def Inst.take1 (i : Inst) (key : Nat) : Inst :=
  { i with minted := (key, i.taken key + 1) :: i.minted.filter fun e => e.1 ≠ key }

/-- The key under which an instance counts the tiles it takes from a stream. -/
def takeKey (stream : Nat) : Nat := 65536 + stream

/-- First granule of tile k of the epoch in the buffer that an end of a stream uses, as the tables name it. -/
def Inst.tileSlot (i : Inst) (stream k : Nat) (producer : Bool) : Option Nat :=
  (i.ringOf stream producer).map fun r => r.first + (k % max 1 r.depth) * r.spacing

/-- The byte at which row r of plane p of a tile lies. -/
def tileRow (i : Inst) (t : Tile) (slot p r : Nat) : Nat := 64 * i.granule (slot + p * t.planeStride + r * t.rowStride)

/-- A source element widened to F32 (04 R110). -/
def widen (fmt code : Nat) : Val :=
  if fmt = 0x0A then fF32.decode (fF32.encode (elemVal 0x0A code)) else elemVal fmt code

/-- Scale and zero point of an output row; none: the row is invalid and every element takes this code (04 R110). -/
inductive RowParam where
  | ok (scale : Val) (zp : Int)
  | invalid (code : Nat)
  deriving DecidableEq, Repr

/-- Whether an F32 pattern is a positive normal number. -/
def positiveNormal (x : Nat) : Bool := decide (0x00800000 ≤ x) && decide (x < 0x7F800000)

/-- The integer that an F32 pattern is, if it is one. -/
def wholeF32 (x : Nat) : Option Int :=
  match fF32.decode x with
  | .fin neg m e =>
    if 0 ≤ e then some (Val.scaled neg m e 0)
    else if m % 2 ^ (-e).toNat = 0 then some (if neg then -((m / 2 ^ (-e).toNat : Nat) : Int) else ((m / 2 ^ (-e).toNat : Nat) : Int))
    else none
  | _ => none

/-- The parameters of a row from a SCALE_STREAM tile's two elements (04 R109, R110). -/
def streamParam (w scale zp : Nat) : RowParam :=
  let lo : Int := -(2 ^ (w - 1))
  let hi : Int := 2 ^ (w - 1) - 1
  match wholeF32 zp with
  | none => .invalid 0
  | some z =>
    if positiveNormal scale ∧ lo ≤ z ∧ z ≤ hi then .ok (fF32.decode scale) z
    else .invalid (unsigned w (clampInt lo hi z))

/-- What a MINT step takes from its entry (04 R108) and its place. -/
structure MintJob where
  img : List Byte
  /-- CONSTANTS offset of the station's record, and the entry. -/
  rec_ : Nat
  entry : Nat
  out : Tile
  stream : Nat
  seed : Nat
  epoch : Nat
  inst : Nat
  deriving DecidableEq, Repr

def MintJob.f (j : MintJob) (off n : Nat) : Nat := mintField j.img j.rec_ j.entry off n
def MintJob.flag (j : MintJob) (b : Nat) : Bool := bit (j.f 0x05 1) b

/-- The multiplier of a column (04 R110). -/
def MintJob.mult (j : MintJob) (col : Nat) : Val :=
  fF32.decode (if j.flag 3 then constField j.img (j.f 0x0C 4 + 4 * col) 4 else j.f 0x08 4)

/-- The parameters of row r of an output tile: static, or from the scale stream's tile (04 R108, R110). -/
def MintJob.param (j : MintJob) (m : Mem) (i : Inst) (r : Nat) : RowParam :=
  let w := elemBits j.out.format
  match j.out.scaleMode with
  | 1 => .ok (fF32.decode (j.f 0x10 4)) (signed 16 (j.f 0x14 2))
  | 2 =>
    let ss := j.f 0x1C 2
    if ss = 0xFFFF then
      .ok (fF32.decode (constField j.img (j.f 0x18 4 + 8 * r) 4)) (signed 32 (constField j.img (j.f 0x18 4 + 8 * r + 4) 4))
    else
      match i.tileSlot ss (i.taken (takeKey ss)) false with
      | none => .invalid 0
      | some g =>
        let b := 64 * i.granule g
        streamParam w (Mem.le m (b + 8 * r) 4) (Mem.le m (b + 8 * r + 4) 4)
  | _ => .ok (.fin false 1 0) 0

/-- The source values of row r of plane p of tile t of the step, multiplied (04 R110). -/
def MintJob.source (j : MintJob) (m : Mem) (acc : Tbl (BitVec 32)) (i : Inst) (t p r : Nat) : List Val :=
  let n := j.out.elems
  let raw : List Val :=
    if j.f 0 1 = 0 then
      let ss := j.f 2 2
      let st := streamTile j.img ss
      match i.tileSlot ss (i.taken (takeKey ss)) false with
      | none => List.replicate n (.fin false 0 0)
      | some g => (List.range n).map fun c => widen st.format (elemCode m (tileRow i st g p r) st.format c)
    else
      let row := j.f 6 2 + (t * j.out.planes + p) * j.out.rows + r
      (List.range n).map fun c =>
        let a := if j.f 0 1 = 1 then j.f 4 1 else c / 32
        widen (if j.flag 4 then 0x0A else 0x00) (Tbl.get (0 : BitVec 32) acc (a * 32768 + row * 32 + c % 32)).toNat
  (raw.zipIdx).map fun e => f32Mul e.1 (j.mult e.2)

/-- Rounding of an element at a position of the k-th tile of the epoch (04 R102, R106). -/
def MintJob.rnd (j : MintJob) (k pos : Nat) : Rnd := if j.flag 0 then .sr (srWord j.seed j.epoch j.inst k pos) else .rne

/-- The codes of a row with their scale bytes (04 R103, R104): `pos0`: position of its first element. -/
def MintJob.convertRow (j : MintJob) (param : RowParam) (k pos0 : Nat) (xs : List Val) : List Conv × List Nat :=
  let fmt := j.out.format
  let sat := j.flag 2
  if isMx fmt then
    let scales := (List.range (xs.length / 32)).map fun b => mxScale fmt ((xs.drop (32 * b)).take 32)
    ((xs.zipIdx).map fun e => mxElem fmt (nth 0 scales (e.2 / 32)) (j.rnd k (pos0 + e.2)) e.1, scales)
  else
    ((xs.zipIdx).map fun e =>
      let mode := j.rnd k (pos0 + e.2)
      match floatOf fmt with
      | some f => f.convert mode sat e.1
      | none =>
        if fmt = 0x0B then intConv 16 0 mode e.1
        else
          match param with
          | .invalid code => ⟨code, false, true⟩
          | .ok s z => intConv (elemBits fmt) z mode (f32Div e.1 s), [])

/-- The state a MINT step threads: scratchpad, instance (its tile counts), elements, clipped, NaN-counted. -/
structure MintRun where
  mem : Mem
  inst : Inst
  total : Nat
  clipped : Nat
  nan : Nat
  deriving DecidableEq, Repr

/-- The bytes of a converted row: codes, then scale bytes (04 R97). -/
def MintJob.rowBytes (j : MintJob) (x : List Conv × List Nat) : List Byte :=
  packCodes (elemBits j.out.format) (x.1.map fun c => c.code) ++ x.2.map fun b => BitVec.ofNat 8 b

/-- One row: its codes are written and counted. -/
def MintJob.row (j : MintJob) (acc : Tbl (BitVec 32)) (slot t k p r : Nat) (x : MintRun) : MintRun :=
  let (cs, scales) := j.convertRow (j.param x.mem x.inst r) k ((p * j.out.rows + r) * j.out.elems) (j.source x.mem acc x.inst t p r)
  { x with
    mem := Mem.writeBytes x.mem (tileRow x.inst j.out slot p r) (j.rowBytes (cs, scales))
    total := x.total + cs.length
    clipped := x.clipped + (cs.filter fun c => c.clipped).length
    nan := x.nan + (cs.filter fun c => c.nan).length }

/-- One tile: tile t of the step, written to its place in the output stream's buffer. It takes the next tile of its source stream, and
the next tile of its SCALE_STREAM: one of it for each output tile, in the order of the epoch (DESIGN CHOICE, log 108). -/
def MintJob.tile (j : MintJob) (acc : Tbl (BitVec 32)) (t : Nat) (x : MintRun) : MintRun :=
  let k := x.inst.taken j.stream
  let x := match x.inst.tileSlot j.stream k true with
    | none => x
    | some slot =>
      (List.range j.out.planes).foldl (fun x p => (List.range j.out.rows).foldl (fun x r => j.row acc slot t k p r x) x) x
  let i := x.inst.take1 j.stream
  let i := if j.f 0 1 = 0 then i.take1 (takeKey (j.f 2 2)) else i
  let i := if j.out.scaleMode = 2 ∧ j.f 0x1C 2 ≠ 0xFFFF then i.take1 (takeKey (j.f 0x1C 2)) else i
  { x with inst := i }

/-- Adds an entry's counts to those of the invocation (04 R112). -/
def countMint (cs : List MintCount) (station entry tag epoch total clipped nan : Nat) : List MintCount :=
  let is := fun (c : MintCount) => decide (c.station = station ∧ c.entry = entry)
  let addEpoch := fun (es : List (Nat × Nat × Nat)) =>
    match es.find? fun e => e.1 = epoch with
    | some (_, a, b) => (epoch, a + total, b + clipped) :: es.filter fun e => e.1 ≠ epoch
    | none => (epoch, total, clipped) :: es
  if cs.any is then
    cs.map fun c =>
      if is c then { c with total := c.total + total, clipped := c.clipped + clipped, nan := c.nan + nan, epochs := addEpoch c.epochs }
      else c
  else
    cs ++ [{ station := station, entry := entry, layerTag := tag, total := total, clipped := clipped, nan := nan,
             epochs := [(epoch, total, clipped)], sent := false }]

/-- The station whose record a MINT step reads: the producer of its stream. -/
def mintStation (u : Cur) (w : BitVec 128) : Nat := streamField u.job.image (stStream w) 0 2

/-- What a MINT step takes from its word, its entry and its place (04 R108, R111). -/
def mintJob (u : Cur) (w : BitVec 128) : MintJob :=
  let img := u.job.image
  let station := mintStation u w
  { img := img, rec_ := stationField img station 0x0C 4, entry := bits (stArg w) 15 0, out := streamTile img (stStream w),
    stream := stStream w, seed := (seedOf img (stStream w)).getD 0, epoch := u.inst.epoch,
    inst := ((u.inst.stations.find? fun x => x.1 = station).map Prod.snd).getD 0 }

/-- A MINT step runs on its core (04 R110-R112). -/
def runMint (s : State) (c : Nat) (u : Cur) (w : BitVec 128) : State :=
  let station := mintStation u w
  let j := mintJob u w
  let acc := (getEng s c).mat.acc
  let x : MintRun := { mem := (getCore s c).scratch, inst := u.inst, total := 0, clipped := 0, nan := 0 }
  let x := (List.range (bits (stArg w) 31 16)).foldl (fun x t => j.tile acc t x) x
  let s := setScratch s c x.mem
  let s := updInst s u.h c fun i => { i with minted := x.inst.minted }
  updRun s u.h fun r =>
    { r with mints := countMint r.mints station j.entry (j.f 0x20 4) u.inst.epoch x.total x.clipped x.nan }

end Sys2Proof.Machine
end

