-- ==== Sys2Proof/Machine/Matrix.lean ====
section
/-! DEFINITION. What the matrix arrays compute: operand entries, the stationary reload, the pass (03_matrix_arrays). -/

namespace Sys2Proof.Machine

/-- An operand entry (03 R78). -/
structure OpEntry where
  tile : Tile
  wStride : Nat
  wFormat : Nat
  perChannel : Bool
  wide : Bool
  inZp : Int
  wZp : Int
  deriving DecidableEq, Repr

/-- The operand entry that 32 bytes spell (03 R78). -/
def opEntry (x : BitVec 256) : OpEntry :=
  let bs := leBytes 32 x.toNat
  { tile := Tile.ofBytes (bs.take 16), wStride := imgLe bs 0x10 2, wFormat := imgByte bs 0x12 % 32,
    perChannel := bit (imgByte bs 0x13) 0, wide := bit (imgByte bs 0x13) 1, inZp := signed 16 (imgLe bs 0x14 2),
    wZp := signed 16 (imgLe bs 0x16 2) }

/-- The slice width W (03 R74). -/
def OpEntry.width (e : OpEntry) : Nat := if e.wide then 64 else 32

/-! ### The reload (03 R79, R84) -/

def rlBase (arg : Nat) : Nat := bits arg 15 0
def rlEntry (arg : Nat) : Nat := bits arg 23 16

/-- The stationary block at a granule of a core's scratchpad: row n is column n of the array. -/
def readBlock (m : Mem) (i : Inst) (e : OpEntry) (wbase : Nat) : Stationary :=
  let row := fun n => 64 * i.granule (wbase + n * e.wStride)
  let zpg := 64 * i.granule (wbase + 32 * e.wStride)
  { format := e.wFormat, wide := e.wide
    codes := (List.range 32).map fun n => (List.range e.width).map fun k => elemCode m (row n) e.wFormat k
    scales := (List.range 32).map fun n =>
      if isMx e.wFormat then (List.range (e.width / 32)).map fun b => rowScale m (row n) e.wFormat e.width b else []
    zps := (List.range 32).map fun n => if e.perChannel then (Mem.read m (zpg + n)).toInt else e.wZp }

/-- RELOAD writes the shadow registers and names the entry that later passes use (03 R84). -/
def MatArray.load (a : MatArray) (b : Stationary) (entry : Nat) : MatArray := { a with shadow := b, swap := true, entry := entry }

/-- The first pass after a reload moves the shadow weights into the active registers (03 R84). -/
def MatArray.swapped (a : MatArray) : MatArray := if a.swap then { a with active := a.shadow, swap := false } else a

/-! ### The pass (03 R76, R80, R82) -/

def psBase (arg : Nat) : Nat := bits arg 15 0
def psSlice (arg : Nat) : Nat := bits arg 20 16
def psBatch (arg : Nat) : Nat := bits arg 25 21 + 1
def psRow (arg : Nat) : Nat := 32 * bits arg 30 26
def psAccum (arg : Nat) : Bool := bit arg 31

/-- The byte at which input row m of a pass begins (03 R82). -/
def passRow (i : Inst) (e : OpEntry) (base m : Nat) : Nat :=
  let t := m / max 1 e.tile.rows
  let r := m % max 1 e.tile.rows
  let tile := if e.tile.planes > 1 then t * e.tile.planeStride else t * e.tile.rows * e.tile.rowStride
  64 * i.granule (base + tile + r * e.tile.rowStride)

/-- Input element k of the slice as a value: with its block scale; a zero operand at or beyond ELEMS (03 R82). -/
def inVal (m : Mem) (e : OpEntry) (row x : Nat) : Val :=
  if e.tile.elems ≤ x then .fin false 0 0
  else
    let c := elemCode m row e.tile.format x
    if isMx e.tile.format then mxVal e.tile.format c (rowScale m row e.tile.format e.tile.elems (x / 32))
    else elemVal e.tile.format c

/-- Weight k of column n as a value. -/
def weightVal (b : Stationary) (n k : Nat) : Val :=
  let c := nth 0 (nth [] b.codes n) k
  if isMx b.format then mxVal b.format c (nth 0 (nth [] b.scales n) (k / 32)) else elemVal b.format c

/-- The exact sum of values; the empty sum is 0. -/
def sumVal : List Val → Val
  | [] => .fin false 0 0
  | v :: vs => vs.foldl Val.add v

/-- An accumulator word of a float pair: the exact slice sum, combined and rounded once (03 R76). -/
def combineFloat (accum : Bool) (old : BitVec 32) (sum : Val) : BitVec 32 :=
  BitVec.ofNat 32 (fF32.encode (if accum then Val.add (fF32.decode old.toNat) sum else sum))

/-- An accumulator word of an integer pair, and whether it was saturated (03 R76). -/
def combineInt (accum : Bool) (old : BitVec 32) (sum : Int) : BitVec 32 × Bool :=
  let x := if accum then old.toInt + sum else sum
  let y := clampInt (-(2 ^ 31)) (2 ^ 31 - 1) x
  (BitVec.ofNat 32 (unsigned 32 y), decide (y ≠ x))

/-- Input element of an integer pair with its zero point removed; 0 at or beyond ELEMS (03 R82). -/
def inDiff (m : Mem) (e : OpEntry) (row x : Nat) : Int :=
  if e.tile.elems ≤ x then 0 else signed (elemBits e.tile.format) (elemCode m row e.tile.format x) - e.inZp

/-- Weight of an integer pair with its zero point removed. -/
def weightDiff (b : Stationary) (n k : Nat) : Int :=
  signed (elemBits b.format) (nth 0 (nth [] b.codes n) k) - nth 0 b.zps n

/-- What a pass writes at one accumulator word: row address and column n (03 R74, R76). -/
def passWord (m : Mem) (e : OpEntry) (b : Stationary) (accum : Bool) (row slice n : Nat) (old : BitVec 32) : BitVec 32 × Bool :=
  let ks := List.range e.width
  if isInt e.tile.format then
    combineInt accum old ((ks.map fun k => inDiff m e row (e.width * slice + k) * weightDiff b n k).foldl (· + ·) 0)
  else
    (combineFloat accum old (sumVal (ks.map fun k => Val.mul (inVal m e row (e.width * slice + k)) (weightVal b n k))), false)

/-- The accumulator space after a pass of array a, and the words saturated (03 R74, R85). -/
def passRun (m : Mem) (i : Inst) (a : Nat) (e : OpEntry) (b : Stationary) (arg : Nat) (acc : Tbl (BitVec 32)) :
    Tbl (BitVec 32) × Nat :=
  let rows := psBatch arg * e.tile.rows
  (List.range rows).foldl (fun st r =>
    let row := passRow i e (psBase arg) r
    (List.range 32).foldl (fun st n =>
      let at_ := a * 32768 + (psRow arg + r) * 32 + n
      let (w, sat) := passWord m e b (psAccum arg) row (psSlice arg) n (Tbl.get 0 acc at_)
      (Tbl.set 0 st.1 at_ w, st.2 + b2n sat)) st) (acc, 0)

end Sys2Proof.Machine
end

