-- ==== Sys2Proof/Machine/VecLoad.lean ====
section
/-! DEFINITION. What the device checks of vector code at load (05 R124, R131, R133, R137). -/

namespace Sys2Proof.Machine

/-! ### Encodings (05 R125, R126) -/

/-- The register formats (05 R120). -/
def vRegFormats : List Nat := [0x00, 0x01, 0x02, 0x0A, 0x0B, 0x0C, 0x0E, 0x0F]

/-- The formats that the opcode table gives an arithmetic opcode; none: the column names none. -/
def vFormats (op : Nat) : Option (List Nat) :=
  if op = 0x00 ∨ 0x18 ≤ op ∧ op ≤ 0x1A then none
  else if op ∈ [0x03, 0x05, 0x06, 0x07, 0x08, 0x0B, 0x0C] then some (vRegFormats.filter (· ≠ 0x0F))
  else if op = 0x04 then some [0x00, 0x01, 0x02, 0x0A, 0x0B, 0x0E]
  else if 0x0D ≤ op ∧ op ≤ 0x12 then some [0x0A, 0x0B, 0x0C]
  else if 0x20 ≤ op ∧ op ≤ 0x22 then some [0x00, 0x01, 0x02, 0x0A, 0x0B]
  else if op = 0x23 ∨ 0x30 ≤ op ∧ op ≤ 0x37 then some [0x00, 0x01, 0x02]
  else if 0x40 ≤ op ∧ op ≤ 0x45 then some [0x00, 0x0F]
  else some vRegFormats

/-- The conversions of VCVT (05 R130): source and target. -/
def vCvtPair (src dst : Nat) : Bool :=
  (src ∈ [0x00, 0x01, 0x02] && dst ∈ [0x00, 0x01, 0x02])
    || (src, dst) ∈ [(0x0A, 0x0B), (0x0B, 0x0A), (0x0A, 0x0C), (0x0C, 0x0A), (0x0A, 0x00), (0x00, 0x0A), (0x0A, 0x0E), (0x0E, 0x0A),
      (0x0B, 0x0C), (0x0C, 0x0B), (0x0B, 0x01), (0x01, 0x0B), (0x0F, 0x00), (0x00, 0x0F)]

/-- Whether MODE is one that the opcode table gives an arithmetic instruction. -/
def vModeOk (op fmt mode : Nat) : Bool :=
  if op = 0x0C then decide (mode ≤ 6)
  else if 0x20 ≤ op ∧ op ≤ 0x23 then decide (mode ≤ 7) && decide (2 ^ (mode + 1) ≤ 2048 / laneBits fmt)
  else
    let allowed :=
      if op ∈ [0x01, 0x04, 0x07, 0x08, 0x5A, 0x5B] ∨ 0x40 ≤ op ∧ op ≤ 0x45 then 1
      else if op = 0x02 then 3
      else if op = 0x03 then (if fmt = 0x0B then 5 else 1)
      else if op = 0x50 then 7
      else 0
    mode &&& allowed = mode

/-- Memory format and register format of a load, and of a store (05 R131). -/
def vLoadPair (fmt rf : Nat) : Bool :=
  (fmt = rf && fmt ∈ vRegFormats) || (rf = 0x00 && fmt ∈ [0x01, 0x02, 0x03, 0x04, 0x05, 0x06, 0x07, 0x08, 0x09, 0x0F])
    || (fmt, rf) ∈ [(0x0B, 0x0A), (0x0C, 0x0B), (0x0D, 0x0C), (0x0D, 0x0B)]
def vStorePair (fmt rf : Nat) : Bool :=
  (fmt = rf && fmt ∈ vRegFormats) || (rf = 0x00 && fmt ∈ [0x01, 0x02, 0x03, 0x04, 0x0F])
    || (fmt, rf) ∈ [(0x0B, 0x0A), (0x0C, 0x0A), (0x0C, 0x0B), (0x0D, 0x0B), (0x0D, 0x0C)]

/-- Opcodes of the arithmetic form (05 R126). -/
def vArithmetic (op : Nat) : Bool :=
  decide (op ≤ 0x12) || (decide (0x18 ≤ op) && decide (op ≤ 0x1A)) || (decide (0x20 ≤ op) && decide (op ≤ 0x23))
    || (decide (0x30 ≤ op) && decide (op ≤ 0x37)) || (decide (0x40 ≤ op) && decide (op ≤ 0x45))
    || op ∈ [0x50, 0x58, 0x59, 0x5A, 0x5B, 0x5C]

/-- Whether an instruction carries a listed opcode, no reserved field value and a format that its opcode allows (05 R124-R126). -/
def vEncodingOk (w : Nat) : Bool :=
  let op := vOp w
  let fmt := vFmt w
  if vArithmetic op then
    (match vFormats op with
      | some fs => fs.contains fmt
      | none => true)
      && vModeOk op fmt (vMode w)
      && (!(op = 0x0C || (decide (0x18 ≤ op) && decide (op ≤ 0x1A))) || (decide (1 ≤ vVD w) && decide (vVD w ≤ 7)))
      && (!(decide (0x18 ≤ op) && decide (op ≤ 0x1A)) || (decide (vVA w ≤ 7) && decide (vVB w ≤ 7)))
      && (op != 0x50 || vCvtPair fmt (vVC w))
  else if op = 0x60 ∨ op = 0x61 then
    !bit w 22 && !bit w 39 && (op == 0x60 || vMask w == 0)
      && (if op = 0x60 then vLoadPair fmt (vRfmt w) else vStorePair fmt (vRfmt w))
      && (if isMx fmt then vExt w % 2 == 0 else vExt w == 0)
  else if op = 0x62 ∨ op = 0x63 then
    !bit w 22 && !bit w 39 && (op == 0x62 || vMask w == 0) && (fmt == 0x00 || fmt == 0x0A) && vExt w == 0
  else if op = 0x64 then !bit w 22 && !bit w 39 && fmt ∈ [0x00, 0x0A, 0x0F, 0x01, 0x02, 0x0B] && decide (1 ≤ vExt w)
  else if op = 0x70 then
    vPn w == 0 && bits w 23 12 == 0 && decide (1 ≤ vCount w) && decide (1 ≤ vBody w) && decide (vBody w ≤ 4096) && bits w 63 53 == 0
  else if op = 0x71 ∨ op = 0x72 then decide (1 ≤ vPn w) && bits w 31 12 == 0
  else false

/-- Whether LOOP bodies nest at most 2 deep and each ends inside the body or the range that encloses it (05 R124): the instructions of
a range from an index on, the last indices of the open bodies, and the end of the range. -/
def vNestOk (stop : Nat) : Nat → List Nat → List Nat → Bool
  | _, _, [] => true
  | pc, opened, w :: ws =>
    let opened := opened.filter fun e => decide (pc ≤ e)
    if vOp w = 0x70 then
      let last := pc + vBody w
      decide (opened.length < 2) && decide (last < stop) && (opened.all fun e => decide (last ≤ e)) && vNestOk stop (pc + 1) (last :: opened) ws
    else vNestOk stop (pc + 1) opened ws

/-! ### Buffers (05 R122, R124) -/

/-- What the code of a station may address under a BUF number: its granules, its ACCESS, ELEMS of its tile's rows when it is a
stream's. -/
structure VBuf where
  granules : Nat
  access : Nat
  elems : Option Nat
  deriving DecidableEq, Repr

/-- Whether an access of an instruction stays inside its buffer, and the buffer allows it (05 R124, R131-R133); `accOk`: the station
shares a GROUP with a MATRIX station. -/
def vAccessOk (buf : Nat → Option VBuf) (accOk : Bool) (w : Nat) (u : VecUnit) : Bool :=
  let op := vOp w
  let g := vPlace w u
  if op = 0x62 ∨ op = 0x63 then accOk && decide (0 ≤ g) && decide (g % 2 = 0) && decide (g ≤ 8190) && decide (g.toNat / 2 % 1024 ≠ 1023)
  else if op = 0x60 ∨ op = 0x61 ∨ op = 0x64 then
    match buf (bits w 21 17) with
    | none => false
    | some b =>
      (if op = 0x61 then bit b.access 1 else bit b.access 0) && (!isMx (vFmt w) || b.elems.isSome)
        && ((vSpans w g (b.elems.getD 0)).all fun x => decide (0 ≤ x.1) && decide (x.1 + (x.2 : Int) ≤ (b.granules : Int)))
  else true

/-- Whether a VEC step's range of a station's code passes the checks of R124, from given pointers; and the pointers after it. -/
def vStepOk (code : Tbl (BitVec 64)) (buf : Nat → Option VBuf) (accOk : Bool) (first n : Nat) (p : Tbl (BitVec 32)) : Bool × Tbl (BitVec 32) :=
  let ws := (List.range n).map fun k => (Tbl.get (0 : BitVec 64) code (first + k)).toNat
  if ws.all vEncodingOk && vNestOk (first + n) first [] ws then
    let u := { VecUnit.reset with prog := code, active := decide (0 < n), pc := first, stop := first + n, p := p }
    let r := vFollow (fun w u ok => ok && vAccessOk buf accOk w u) vFuel u true
    (r.2, r.1.p)
  else (false, p)

/-! ### Registers after a CHECKPOINT (05 R137) -/

/-- The registers written after a range of code of which `known` were written before it, or none: one was read before it was written
(05 R137). The first iteration of a body reads before any later one. -/
def vKnown (code : Tbl (BitVec 64)) : Nat → Nat → List Nat → Option (List Nat)
  | 0, _, known => some known
  | n + 1, pc, known =>
    let w := (Tbl.get (0 : BitVec 64) code pc).toNat
    let reads := vReads w ++ (if vOp w = 0x72 ∧ vPn w ≠ 0 then [64 + vPn w] else [])
    if reads.all fun r => r ∈ known then
      vKnown code n (pc + 1) (match vWrites w with
        | some d => if d ∈ known then known else d :: known
        | none => known)
    else none

end Sys2Proof.Machine
end

