-- ==== Sys2Proof/Machine/Image.lean ====
section
/-! DEFINITION. Checks 1 to 10 of a job image (02 R55), with the load rules of the station records. -/

namespace Sys2Proof.Machine

/-! ### Header and sections (02 R47-R50) -/

def imgFormat (img : List Byte) : Nat := imgLe img 4 2
def imgLength (img : List Byte) : Nat := imgLe img 8 4
def imgFlags (img : List Byte) : Nat := imgLe img 0x0E 2
def imgBestEffort (img : List Byte) : Bool := bit (imgFlags img) 0
def imgRules (img : List Byte) : Bool := bit (imgFlags img) 1
def imgCount (img : List Byte) (type : Nat) : Nat := (imgSection img type).1
def imgLen (img : List Byte) (type : Nat) : Nat := (imgSection img type).2.2

/-- The bytes of an image with those of a range taken as 0. -/
def zeroRange (img : List Byte) (o n : Nat) : List Byte := img.take o ++ List.replicate n 0 ++ img.drop (o + n)

/-- Entry size of a section type and the formats that hold it (02 R49). -/
def sectionSize : Nat → Option Nat
  | 0x1 => some 32 | 0x2 => some 16 | 0x3 => some 32 | 0x4 => some 16 | 0x5 => some 16 | 0x6 => some 1 | 0x7 => some 1
  | 0x8 => some 32 | 0x9 => some 16 | 0xA => some 16 | 0xB => some 16 | 0xC => some 16 | 0xD => some 16 | 0xE => some 80
  | 0xF => some 16 | _ => none

def allZero (img : List Byte) (o n : Nat) : Bool := ((img.drop o).take n).all (· == 0)

/-- The header rules of check 4 (02 R47). -/
def headerOk (img : List Byte) : Bool :=
  let clock := imgLe img 0x10 2
  let period := imgLe img 0x18 4
  let phase := imgLe img 0x1C 4
  let deadlines := imgCount img 0x9
  decide (imgFlags img < 4) && (!imgRules img || imgFormat img == 4)
    && (clock == 0 || (decide (500 ≤ clock) && decide (clock ≤ 1500)))
    && (clock != 0 || (period == 0 && deadlines == 0))
    && (period == 0 || 1000000000 % period == 0)
    && (if period == 0 then phase == 0 else decide (phase < period))
    && allZero img 0x2C 12

/-- Whether two half-open ranges overlap. A range of length 0 that begins inside another counts as overlapping it (DESIGN CHOICE, log
94). -/
def overlap (a m b n : Nat) : Bool := decide (a < b + n) && decide (b < a + m)

/-- The directory rules of check 4 (02 R49): a section of LENGTH 0 is held to the same OFFSET rules as any other (log 94). -/
def directoryOk (img : List Byte) : Bool :=
  let n := imgLe img 0x0C 2
  let dir := imgDirectory img
  let len := imgLength img
  let has := fun t => dir.any fun d => d.1 == t
  let kinds := (List.range (imgCount img 1)).map fun i => stationField img i 0 1
  decide (1 ≤ n) && decide (n ≤ 16) && decide (0x40 + 16 * n ≤ len)
    && (dir.all fun d =>
      sectionSize d.1 == some d.2.1 && d.2.2.2.1 % 64 == 0 && decide (d.2.2.2.1 + d.2.2.2.2 ≤ len)
        && decide (0x40 + 16 * n ≤ d.2.2.2.1) && (decide (d.1 < 0xE) || imgFormat img == 4))
    && ((List.range n).all fun i => (List.range i).all fun j =>
      match dir[i]?, dir[j]? with
      | some a, some b => a.1 != b.1 && !overlap a.2.2.2.1 a.2.2.2.2 b.2.2.2.1 b.2.2.2.2
      | _, _ => true)
    && ([1, 2, 3, 4, 5].all has) && (!(kinds.any fun k => k == 4 || k == 5) || has 6) && (!imgBestEffort img || has 0xA)
    && (!((List.range (imgCount img 3)).any fun i => streamField img i 7 1 == 1) || has 0xB) && (!imgRules img || has 0xE)
    && decide (1 ≤ imgCount img 1) && decide (imgCount img 1 ≤ 1024) && decide (1 ≤ imgCount img 2) && decide (imgCount img 2 ≤ 1024)
    && decide (1 ≤ imgCount img 3) && decide (imgCount img 3 ≤ 4096) && decide (imgCount img 8 ≤ 1024)

/-! ### Check 5: counts and offsets (02 R50) -/

/-- CONSTANTS offset of a station's parameter record. -/
def paramAt (img : List Byte) (st : Nat) : Nat := stationField img st 0x0C 4
def paramLen (img : List Byte) (st : Nat) : Nat := stationField img st 0x10 4
def stationKind (img : List Byte) (st : Nat) : Nat := stationField img st 0 1
def stationCount (img : List Byte) : Nat := imgCount img 1
/-- A field of a station's parameter record. -/
def paramField (img : List Byte) (st off n : Nat) : Nat := constField img (paramAt img st + off) n

/-- Template k of the STEPS section (02 R56). -/
def template (img : List Byte) (k : Nat) : BitVec 128 := BitVec.ofNat 128 (imgLe img ((imgSection img 4).2.1 + 16 * k) 16)

/-- The plan records: (plan, station, its templates) (02 R52). -/
def planSteps (img : List Byte) : List (Nat × Nat × List (BitVec 128)) :=
  (List.range (imgCount img 5)).map fun r =>
    (imgField img 5 16 r 0 1, imgField img 5 16 r 2 2,
      (List.range (imgField img 5 16 r 8 4)).map fun k => template img (imgField img 5 16 r 4 4 + k))

/-- Steps of a class with their stations. -/
def stepsOf (img : List Byte) (op : Nat) : List (Nat × Nat × BitVec 128) :=
  (planSteps img).flatMap fun p => (p.2.2.filter fun w => stOp w = op).map fun w => (p.1, p.2.1, w)

/-- A part that a record addresses: section type, bytes needed from the section's start. -/
structure Extent where
  type : Nat
  need : Nat
  deriving DecidableEq, Repr

/-- An extent, unless the offset means none. -/
def extent (type off len : Nat) : List Extent := if off = 0xFFFFFFFF then [] else if len = 0 then [] else [⟨type, off + len⟩]

/-- Elements of a row, and rows, of the tiles that MINT steps write through entry e of a station (04 R108); nothing from a step whose
stream or tile names no entry (02 R50). -/
def mintShapes (img : List Byte) (st e : Nat) : List (Nat × Nat) :=
  ((stepsOf img 7).filter fun x => x.2.1 = st ∧ bits (stArg x.2.2) 15 0 = e ∧ stStream x.2.2 < imgCount img 3
      ∧ streamField img (stStream x.2.2) 4 2 < imgCount img 2).map fun x =>
    ((streamTile img (stStream x.2.2)).elems, (streamTile img (stStream x.2.2)).rows)

/-- The extents that the records of an image address, in the order of 02 R50: by the section that holds the record, record and field;
the parts of a parameter record in the order of its fields. -/
def extents (img : List Byte) : List Extent :=
  let stations := List.range (stationCount img)
  (stations.flatMap fun i =>
      extent 7 (paramAt img i) (paramLen img i) ++ extent 6 (stationField img i 0x14 4) (stationField img i 0x18 4))
    ++ ((List.range (imgCount img 5)).flatMap fun r => extent 4 (16 * imgField img 5 16 r 4 4) (16 * imgField img 5 16 r 8 4))
    ++ (stations.flatMap fun i =>
      if paramAt img i = 0xFFFFFFFF then []
      else
        match stationKind img i with
        | 4 => extent 7 (paramField img i 2 4) (paramField img i 6 4)
        | 5 => extent 7 (paramField img i 2 4) (4 * paramField img i 6 2) ++ extent 7 (paramField img i 8 4) (4 * paramField img i 0xC 2)
        | 6 => (List.range (min 256 (paramField img i 0 2))).flatMap fun e =>
            let shapes := mintShapes img i e
            (shapes.flatMap fun x => extent 7 (mintField img (paramAt img i) e 0x0C 4) (4 * x.1))
              ++ shapes.flatMap fun x => extent 7 (mintField img (paramAt img i) e 0x18 4) (8 * x.2)
        | 7 => extent 7 (paramField img i 8 4) 128
        | _ => [])
    ++ ((List.range (imgCount img 0xA)).flatMap fun r => extent 7 (imgField img 0xA 16 r 0 4) (2 * imgField img 0xA 16 r 4 2))

/-- Check 5: the first count, by ascending TYPE, then the first extent that its section does not hold, with the result words (02 R50; that
the counts come before the extents: DEDUCED, log 94). -/
def check5 (img : List Byte) : Option Done :=
  let fail := fun (type need have_ : Nat) =>
    if type = 0xB then (⟨eNofit, 0x0C + type * 65536, ceilDiv need 16, have_ / 16, 0⟩ : Done)
    else ⟨eNofit, 0x01 + type * 65536, ceilDiv need 64, have_ / 64, 0⟩
  match (List.range 16).findSome? fun t => (imgDirectory img).find? fun d => d.1 = t ∧ d.2.2.2.2 < d.2.2.1 * d.2.1 with
  | some d => some (fail d.1 (d.2.2.1 * d.2.1) d.2.2.2.2)
  | none => ((extents img).find? fun e => imgLen img e.type < e.need).map fun e => fail e.type e.need (imgLen img e.type)

/-! ### Check 6: record fields -/

/-- A tile descriptor (02 R42-R44). -/
def tileOk (img : List Byte) (i : Nat) : Bool :=
  let t := imgTile img i
  let mode := match t.format with
    | 0x0C | 0x0D => t.scaleMode == 1 || t.scaleMode == 2
    | f => if isMx f then t.scaleMode == 3 else t.scaleMode == 0
  decide (tileField img i 0 1 < 16) && decide (1 ≤ t.rows) && decide (t.rows ≤ 32) && decide (1 ≤ t.elems) && decide (t.elems ≤ 1024)
    && decide (1 ≤ t.planes) && decide (t.planes ≤ 1024) && (!isMx t.format || t.elems % 32 == 0) && (t.format != 0x0D || t.elems % 2 == 0)
    && mode && decide (ceilDiv (rowFootprint t.format t.elems) 64 ≤ t.rowStride)
    && (t.planes == 1 || decide (t.rows * t.rowStride ≤ t.planeStride)) && tileField img i 0xD 3 == 0

/-- A stream descriptor (02 R45, R46). -/
def streamOk (img : List Byte) (i : Nat) : Bool :=
  let f := streamField img i
  let p := f 0 2
  let c := f 2 2
  let n := stationCount img
  let inst := fun st => stationField img st 2 2
  let group := fun st => stationField img st 4 2
  decide (p < n) && decide (c < n) && decide (f 4 2 < imgCount img 2) && decide (f 6 1 ≤ 2) && decide (f 7 1 ≤ 2)
    && decide (1 ≤ f 8 2) && decide (f 8 2 ≤ 256) && f 0xA 2 == 0
    && (f 0x10 2 == 0xFFFF || decide (f 0x10 2 < imgCount img 9))
    && (if f 7 1 == 1 then decide (f 0x12 2 < imgCount img 0xB) else f 0x12 2 == 0xFFFF)
    && (f 6 1 != 0 || inst p == inst c) && !(f 6 1 == 2 && group p == group c && group p != 0)
    && f 0x14 8 == 0 && f 0x1C 4 == 0

/-- A station record (02 R41, R51). -/
def stationOk (img : List Byte) (i : Nat) : Bool :=
  let f := stationField img i
  let chip := f 0 1 ∈ [1, 7, 8, 9, 0xB]
  let peers := (List.range (stationCount img)).filter fun k => stationField img k 4 2 == f 4 2
  decide (1 ≤ f 0 1) && decide (f 0 1 ≤ 0xB) && f 1 1 != 0 && decide (1 ≤ f 2 2) && decide (f 2 2 ≤ 256)
    && (f 4 2 == 0 || (!chip && peers.all fun k => stationField img k 2 2 == f 2 2))
    && (((imgDirectory img).any fun d => d.1 == 8) || f 6 2 == 0) && f 8 4 % 64 == 0
    && (f 0xC 4 != 0xFFFFFFFF || f 0x10 4 == 0) && (f 0x14 4 != 0xFFFFFFFF || f 0x18 4 == 0)
    && (f 0 1 == 4 || f 0 1 == 5 || f 0x14 4 == 0xFFFFFFFF) && f 0x1C 4 == 0

/-- Plan records (02 R52). A record that names a chip station is refused: the rule gives core stations their records, and no other
station a plan to run (DEDUCED, log 94). -/
def plansOk (img : List Byte) : Bool :=
  let rs := List.range (imgCount img 5)
  let f := fun r => imgField img 5 16 r
  (rs.all fun r => decide (f r 0 1 ≤ 7) && f r 1 1 == 0 && decide (f r 2 2 < stationCount img) && decide (1 ≤ f r 8 4)
      && decide (f r 8 4 ≤ 16384) && f r 0xC 4 == 0)
    && ((List.range (stationCount img)).all fun st =>
      let core := !(stationKind img st ∈ [1, 7, 8, 9, 0xB])
      (List.range 8).all fun p =>
        (rs.filter fun r => f r 2 2 == st && f r 0 1 == p).length == (if core && bit (stationField img st 1 1) p then 1 else 0))
    && (rs.any fun r => f r 0 1 == 0)

/-- The class that a station's templates may use (02 R57). -/
def opAllowed (kind op : Nat) : Bool :=
  match op with
  | 0x00 | 0x08 | 0x09 | 0x0A | 0x0B => true
  | 0x01 | 0x02 => kind == 3
  | 0x03 => kind == 4
  | 0x04 => kind == 5
  | 0x05 => kind == 2
  | 0x06 => kind == 0xA
  | 0x07 => kind == 6
  | _ => false

/-- Whether two stations lie on one core instance by instance: one station, or one nonzero GROUP (02 R51). -/
def sameCore (img : List Byte) (a b : Nat) : Bool :=
  a == b || (stationField img a 4 2 != 0 && stationField img a 4 2 == stationField img b 4 2)

/-- Whether a FEED or STORE step of a station may carry a stream: the rows of the table of 02 R593. -/
def carries (img : List Byte) (st op stream : Nat) : Bool :=
  let p := streamField img stream 0 2
  let c := streamField img stream 2 2
  let home := streamField img stream 7 1
  let apart := !sameCore img p c
  if op == 5 then (home == 1 && (p == st || sameCore img c st)) || (home == 2 && apart && sameCore img c st)
  else (home == 1 && sameCore img p st) || (home == 0 && apart && sameCore img p st) || (home == 1 && c == st && streamField img stream 6 1 == 0)

/-- The stream of the first FEED or STORE step whose station matches no row of the table of 02 R593. -/
def misCarried (img : List Byte) : Option Nat :=
  ((stepsOf img 5 ++ stepsOf img 6).find? fun x => !carries img x.2.1 (stOp x.2.2) (stStream x.2.2)).map fun x => stStream x.2.2

/-- Whether a step of a station may bind a TALLIES record: a free tally; a stream's count at an end of the stream or at its carrier (14 R362). -/
def mayBind (img : List Byte) (st r : Nat) : Bool :=
  let s := tallyField img r 2 2
  tallyField img r 0 1 == 2 || streamField img s 0 2 == st || streamField img s 2 2 == st
    || (stationKind img st == 2 && carries img st 5 s) || (stationKind img st == 0xA && carries img st 6 s)

/-- The fields and rules of one template (02 R56, R57; 03 R81; 14 R362). -/
def templateOk (img : List Byte) (st : Nat) (earlier : List (BitVec 128)) (w : BitVec 128) : Bool :=
  let op := stOp w
  let arg := stArg w
  let kind := stationKind img st
  let pairOf := fun e off n => constField img (paramAt img st + 16 + 16 * e + off) n
  let bindOk := fun b => decide (stationField img st 6 2 + b < imgCount img 8) && mayBind img st (stationField img st 6 2 + b)
  opAllowed kind op && (op == 1 || op == 2 || stSub w == 0) && decide (stSub w ≤ 3) && !bit w.toNat 31 && bits w.toNat 39 37 == 0
    && bits w.toNat 95 92 == 0 && (!stWaitEn w || bindOk (stWaitBind w)) && (!stPostEn w || bindOk (stPostBind w))
    && (if stPostEn w then decide (1 ≤ stPostAdd w) else stPostAdd w == 0) && (stHasStream w || stStream w == 0)
    && (!stHasStream w || decide (stStream w < imgCount img 3))
    && match op with
      | 0x01 =>
        match (earlier.filter fun x => stOp x = 2 ∧ stSub x = stSub w).getLast? with
        | none => false
        | some rl =>
          let e := rlEntry (stArg rl)
          let t := streamTile img (pairOf e 0 2)
          let wd := (streamTile img (pairOf e 2 2)).elems
          let m := psBatch arg * t.rows
          let s := t.spacing
          decide (wd * psSlice arg < t.elems) && decide (psRow arg + m ≤ 1024)
            && decide (psBase arg + (if t.planes > 1 then (psBatch arg - 1) * t.planeStride + t.rows * t.rowStride
                else psBatch arg * t.rows * t.rowStride) ≤ s * streamField img (pairOf e 0 2) 8 2)
      | 0x02 =>
        let e := rlEntry arg
        let t := streamTile img (pairOf e 2 2)
        decide (e < paramField img st 0 2) && bits arg 31 24 == 0
          && decide (rlBase arg + t.spacing ≤ (t.spacing + pairOf e 8 1) * streamField img (pairOf e 2 2) 8 2)
      | 0x03 => decide (8 * (bits arg 15 0 + bits arg 31 16) ≤ stationField img st 0x18 4)
      | 0x04 => bits arg 31 14 == 0 && decide (8 * bits arg 13 0 < stationField img st 0x18 4)
      | 0x05 | 0x06 => decide (1 ≤ bits arg 15 0) && bits arg 31 16 == 0
      | 0x07 => decide (1 ≤ bits arg 31 16) && decide (bits arg 15 0 < paramField img st 0 2) && streamField img (stStream w) 0 2 == st
      | 0x09 => !imgBestEffort img || decide (arg < imgCount img 0xA)
      | 0x0A => decide (arg < imgCount img 0xC) && digestField img arg 4 2 == stStream w
      | _ => arg == 0

/-- Every template of the image (02 R57), each with those before it in its plan. -/
def templatesOk (img : List Byte) : Bool :=
  (planSteps img).all fun p => (List.range p.2.2.length).all fun k =>
    match p.2.2[k]? with
    | some w => templateOk img p.2.1 (p.2.2.take k) w
    | none => true

/-- TALLIES records and the sum rule of 02 R53. For a plan number that the image does not hold the sum is empty, and STRIDE must be 0
(DEDUCED, log 94). -/
def talliesOk (img : List Byte) : Bool :=
  (List.range (imgCount img 8)).all fun i =>
    let f := tallyField img i
    let posts := fun p => ((planSteps img).filter fun x => x.1 = p).flatMap fun x =>
      x.2.2.filter fun w => stPostEn w ∧ stationField img x.2.1 6 2 + stPostBind w = i
    decide (f 0 1 ≤ 2) && f 1 1 == 0 && (f 0 1 == 2 || decide (f 2 2 < imgCount img 3)) && f 8 8 == 0
      && (!((List.range 8).any fun p => !(posts p).isEmpty)
        || (List.range 8).all fun p => sumNat ((posts p).map stPostAdd) == f (16 + 2 * p) 2)

/-- DEADLINES and TRANSLATIONS records (02 R54). -/
def recordsOk (img : List Byte) : Bool :=
  ((List.range (imgCount img 9)).all fun i =>
      let f := imgField img 9 16 i
      decide (f 0 2 < imgCount img 3) && decide (f 2 1 ≤ 2) && f 3 1 == 0 && f 8 8 == 0)
    && ((List.range (imgCount img 0xB)).all fun i =>
      let f := imgField img 0xB 16 i
      f 0 8 % pageBytes == 0 && decide (1 ≤ f 8 4) && decide (1 ≤ f 12 1) && decide (f 12 1 ≤ 3) && f 13 3 == 0)

/-- The one RULES record (02 R64). -/
def rulesOk (img : List Byte) : Bool :=
  !imgRules img || (imgCount img 0xE == 1 &&
    let f := imgField img 0xE 80 0
    let n := f 5 1
    let plans := (List.range (imgCount img 5)).map fun r => imgField img 5 16 r 0 1
    decide (f 0 2 < 64) && decide (f 2 2 < imgCount img 8) && decide (1 ≤ f 4 1) && decide (f 4 1 ≤ 4) && decide (1 ≤ n) && decide (n ≤ 8)
      && f 6 8 == 0 && f 14 2 == 0
      && ((List.range n).all fun r => (r == 0 || decide (f (16 + 8 * (r - 1)) 4 < f (16 + 8 * r) 4)) && plans.contains (f (20 + 8 * r) 1)
          && f (21 + 8 * r) 3 == 0)
      && f (16 + 8 * (n - 1)) 4 == 0xFFFFFFFF && ((List.range 8).all fun r => decide (r < n) || f (16 + 8 * r) 8 == 0))

/-- CHECKPOINTS and DIGESTS records (02 R66, R69). -/
def pointsOk (img : List Byte) : Bool :=
  ((List.range (imgCount img 0xA)).all fun i =>
      let f := imgField img 0xA 16 i
      decide (f 6 2 ≤ 1) && f 8 8 == 0
        && ((List.range (f 4 2)).all fun k => decide (constField img (f 0 4 + 2 * k) 2 < imgCount img 3)))
    && ((stepsOf img 0xA).all fun x =>
      let r := stArg x.2.2
      let st := digestField img r 4 2
      decide (digestField img r 6 2 + digestField img r 8 2 ≤ streamTiles img st x.1))
    && (List.range (imgCount img 0xC)).all fun r =>
      decide (digestField img r 4 2 < imgCount img 3) && decide (1 ≤ digestField img r 8 2) && digestField img r 12 4 == 0

/-- Whether an input and a stationary format make a pair, and its slice width (03 R75). -/
def pairWidth (a b : Nat) : Option Nat :=
  if a = b ∧ a ∈ [0x00, 0x01, 0x02, 0x09, 0x0B] then some 32
  else if a ∈ [0x03, 0x04] ∧ b ∈ [0x03, 0x04] then some 32
  else if a = 0x05 ∧ b ∈ [0x05, 0x06, 0x07, 0x08] then some 32
  else if a ∈ [0x06, 0x07] ∧ b ∈ [0x06, 0x07] then some 32
  else if a = 0x08 ∧ b = 0x08 then some 64
  else if a = 0x0C ∧ b ∈ [0x0C, 0x0D] then some 32
  else if a = 0x0D ∧ b = 0x0D then some 64
  else none

/-- Whether a range of bytes of a station's parameter record is 0. -/
def paramZero (img : List Byte) (st off n : Nat) : Bool := (List.range n).all fun k => paramField img st (off + k) 1 == 0

/-- Whether a zero point lies in the limits of a format (04 R100). -/
def zpOk (fmt : Nat) (z : Int) : Bool :=
  if fmt = 0x0D then decide (-8 ≤ z) && decide (z ≤ 7) else decide (-128 ≤ z) && decide (z ≤ 127)

/-- MATRIX parameter records (03 R75, R77). -/
def matrixOk (img : List Byte) (st : Nat) : Bool :=
  let n := paramField img st 0 2
  paramAt img st != 0xFFFFFFFF && decide (1 ≤ n) && decide (n ≤ 256) && paramLen img st == 16 + 16 * n && paramZero img st 2 14
    && ((List.range n).all fun e =>
      let f := fun off k => paramField img st (16 + 16 * e + off) k
      let a := streamTile img (f 0 2)
      let b := streamTile img (f 2 2)
      let zp := fun (x : Nat) => signed 16 x
      decide (f 0 2 < imgCount img 3) && decide (f 2 2 < imgCount img 3) && streamField img (f 0 2) 2 2 == st
        && streamField img (f 2 2) 2 2 == st && b.rows == 32 && b.planes == 1 && pairWidth a.format b.format == some b.elems
        && (a.format == 0x0C || f 4 2 == 0) && (b.format == 0x0C || b.format == 0x0D || f 6 2 == 0)
        && zpOk 0x0C (zp (f 4 2)) && zpOk b.format (zp (f 6 2))
        && decide (f 8 1 ≤ 1) && (f 8 1 == 0 || b.format == 0x0C || b.format == 0x0D) && f 9 7 == 0 && a.scaleMode != 2)

/-- The stations that share a core with a station: itself, and those of its nonzero GROUP (02 R51). -/
def peersOf (img : List Byte) (st : Nat) : List Nat :=
  let g := stationField img st 4 2
  (List.range (stationCount img)).filter fun k => k = st || (g != 0 && stationField img k 4 2 == g)

/-- Whether a stream's buffer lies on the core of a station, or a staging buffer of an end that is one of the core's stations (05 R122,
02 R593). A FEED producer of a HOME 1 stream has no staging buffer of its own. -/
def bufferHere (img : List Byte) (st s : Nat) : Bool :=
  let peers := peersOf img st
  let p := streamField img s 0 2
  let home := streamField img s 7 1
  peers.contains (streamField img s 2 2) || (peers.contains p && !(home == 1 && stationKind img p == 2))

/-- Whether a stream's stationary blocks carry a zero-point granule each (03 R77). -/
def zpStream (img : List Byte) (s : Nat) : Bool :=
  let st := streamField img s 2 2
  stationKind img st == 3 && (List.range (paramField img st 0 2)).any fun e =>
    paramField img st (16 + 16 * e + 2) 2 == s && paramField img st (16 + 16 * e + 8) 1 == 1

/-- Tile spacing of a stream in granules: S of 02 R594. -/
def streamSpacing (img : List Byte) (s : Nat) : Nat := (streamTile img s).spacing + b2n (zpStream img s)

/-- The code of a VECTOR or SIGNAL station: 8-byte instructions from PROGRAM_OFFSET (05 R125, 06 R156). -/
def stationCode (img : List Byte) (st : Nat) : Tbl (BitVec 64) :=
  let o := (imgSection img 6).2.1 + stationField img st 0x14 4
  (List.range (stationField img st 0x18 4 / 8)).foldl (fun t k => Tbl.set 0 t k (BitVec.ofNat 64 (imgLe img (o + 8 * k) 8))) []

/-- What BUF names in the code of a station (05 R124, 06 R160). -/
def stationBuf (img : List Byte) (st b : Nat) : Option VBuf :=
  if b = 31 then some { granules := stationField img st 8 4 / 64, access := 3, elems := none }
  else if paramAt img st ≠ 0xFFFFFFFF ∧ b < paramField img st 0 2 then
    let s := paramField img st (16 + 8 * b) 2
    some { granules := streamSpacing img s * streamField img s 8 2, access := paramField img st (18 + 8 * b) 1,
           elems := some (streamTile img s).elems }
  else none

/-- What BUF names in the code of a SIGNAL station (06 R144, R160, R161). -/
def signalBuf (img : List Byte) (st b : Nat) : Option SBuf :=
  (stationBuf img st b).map fun v =>
    { granules := v.granules, access := v.access
      cq15 := b != 31 && (streamTile img (paramField img st (16 + 8 * b) 2)).format == 0x0F }

/-- Parameter records of VECTOR and SIGNAL stations (05 R122; 06 R161, R162). -/
def bufferOk (img : List Byte) (st : Nat) : Bool :=
  let sig := stationKind img st == 5
  let n := paramField img st 0 2
  let record := paramLen img st == 16 + 8 * n && decide (n ≤ 31)
    && (if sig then paramField img st 0xE 2 == 0 && decide (paramField img st 6 2 ≤ 32767) && decide (paramField img st 0xC 2 ≤ 32767)
        else paramField img st 0xA 6 == 0
          && (paramField img st 2 4 == 0xFFFFFFFF || (paramField img st 6 4 % 64 == 0 && decide (paramField img st 6 4 ≤ stationField img st 8 4))))
    && ((List.range n).all fun e =>
      let f := fun off k => paramField img st (16 + 8 * e + off) k
      let t := (streamTile img (f 0 2)).format
      decide (f 0 2 < imgCount img 3) && bufferHere img st (f 0 2) && decide (1 ≤ f 2 1) && decide (f 2 1 ≤ 3) && f 3 5 == 0
        && (!sig || t == 0x0E || t == 0x0F))
  (paramAt img st == 0xFFFFFFFF || record) && stationField img st 0x18 4 % 8 == 0 && !(sig && imgBestEffort img)

/-- The templates of a station in a plan. -/
def stationPlan (img : List Byte) (st p : Nat) : List (BitVec 128) :=
  match (planSteps img).find? fun x => x.1 = p ∧ x.2.1 = st with
  | some x => x.2.2
  | none => []

/-- The code that the VEC steps of a VECTOR station run, plan by plan, with the pointers of the epoch followed from step to step
(05 R124, R136). The pointers that another VECTOR station of the core could leave are not followed (DEDUCED, log 92). -/
def vectorOk (img : List Byte) (st : Nat) : Bool :=
  let code := stationCode img st
  let acc := (peersOf img st).any fun k => k != st && stationKind img k == 3
  (List.range 8).all fun p =>
    (((stationPlan img st p).filter fun w => stOp w = 3).foldl (fun (r : Bool × Tbl (BitVec 32)) w =>
      if r.1 then vStepOk code (stationBuf img st) acc (bits (stArg w) 15 0) (bits (stArg w) 31 16) r.2 else r) (true, [])).1

/-- The code of a SIGNAL station as program memory holds it (06 R156, R162). -/
def signalCode (img : List Byte) (st : Nat) : Tbl (BitVec 48) := (stationCode img st).map fun e => (e.1, e.2.setWidth 48)

/-- The SIG steps of a station in a plan, one after the other from the registers that JOB_START sets: the work cycles of each (06 R163,
R165); none: a rule of R163 is broken. Registers that steps of other plans could leave are not followed (DEDUCED, log 92). -/
def signalCycles (img : List Byte) (st p : Nat) : Option (List Nat) :=
  let n := stationField img st 0x18 4 / 8
  (((stationPlan img st p).filter fun w => stOp w = 4).foldl (fun (r : Option (List Nat × SigUnit)) w =>
    r.bind fun x => (sigStep (signalCode img st) n (signalBuf img st) (bits (stArg w) 13 0) x.2).map fun y => (x.1 ++ [y.1], y.2))
    (some ([], SigUnit.reset))).map Prod.fst

/-- The code of a SIGNAL station (06 R155-R163). -/
def signalOk (img : List Byte) (st : Nat) : Bool :=
  let n := stationField img st 0x18 4 / 8
  let code := (List.range n).map fun k => (Tbl.get (0 : BitVec 64) (stationCode img st) k).toNat
  code.all (sEncodingOk n) && sPlacesOk code && (List.range 8).all fun p => (signalCycles img st p).isSome

/-- Every two plans of a station, one after the other: what may follow what round an epoch boundary. -/
def planPairs (img : List Byte) (st : Nat) : List (List (BitVec 128)) :=
  let ps := (List.range 8).filter fun p => bit (stationField img st 1 1) p
  ps.flatMap fun p => ps.map fun q => stationPlan img st p ++ stationPlan img st q

/-- A best-effort image: no VEC step after a CHECKPOINT, round the epoch boundary, reads a vector, mask or pointer register that no
instruction has written since (05 R137). `known`: what has been written since the last CHECKPOINT; none before the first. -/
def vecKnownOk (code : Tbl (BitVec 64)) : List (BitVec 128) → Option (List Nat) → Bool
  | [], _ => true
  | w :: ws, known =>
    if stOp w = 9 then vecKnownOk code ws (some [])
    else if stOp w = 3 then
      match known with
      | none => vecKnownOk code ws none
      | some k =>
        match vKnown code (bits (stArg w) 31 16) (bits (stArg w) 15 0) k with
        | some k => vecKnownOk code ws (some k)
        | none => false
    else vecKnownOk code ws known

/-- 05 R137 for every VECTOR station. -/
def registersOk (img : List Byte) : Bool :=
  !imgBestEffort img || (List.range (stationCount img)).all fun st =>
    stationKind img st != 4 || (planPairs img st).all fun ws => vecKnownOk (stationCode img st) ws none

/-- MINT parameter records (04 R100, R107-R109). -/
def mintOk (img : List Byte) (st : Nat) : Bool :=
  let n := paramField img st 0 2
  let steps := (stepsOf img 7).filter fun x => x.2.1 = st
  paramAt img st != 0xFFFFFFFF && decide (1 ≤ n) && decide (n ≤ 256) && paramLen img st == 16 + 48 * n && paramZero img st 2 14
    && ((List.range n).all fun e =>
      let f := fun off k => mintField img (paramAt img st) e off k
      let flag := fun b => bit (f 5 1) b
      let fmt := f 1 1
      let group := stationField img st 4 2
      let withMatrix := group != 0 && (List.range (stationCount img)).any fun k => stationKind img k == 3 && stationField img k 4 2 == group
      decide (f 0 1 ≤ 2) && (fmt ∈ [0, 1, 2, 3, 4, 5, 6, 7, 8, 9, 0xB, 0xC, 0xD]) && decide (f 5 1 < 32)
        && (!(isMx fmt || fmt == 0xB || fmt == 0xC || fmt == 0xD) || flag 2)
        && (!flag 0 || fmt ∈ [1, 2, 3, 4, 5, 6, 7, 8, 0xC, 0xD])
        && (if f 0 1 == 0 then decide (f 2 2 < imgCount img 3) && f 6 2 == 0 else f 2 2 == 0xFFFF && withMatrix && decide (f 6 2 < 1024))
        && (if f 0 1 == 1 then decide (f 4 1 ≤ 3) else f 4 1 == 0) && flag 3 == (f 0xC 4 != 0xFFFFFFFF) && f 0x1E 2 == 0
        && f 0x24 8 == 0 && f 0x2C 4 == 0
        && ((steps.filter fun x => bits (stArg x.2.2) 15 0 = e).all fun x =>
          let t := streamTile img (stStream x.2.2)
          let src := streamTile img (f 2 2)
          let ss := f 0x1C 2
          let sst := streamTile img ss
          t.format == fmt
            && (if f 0 1 == 0 then (src.format ∈ [0x00, 0x01, 0x02, 0x0A]) && src.rows == t.rows && src.elems == t.elems && src.planes == t.planes
                else t.elems == (if f 0 1 == 1 then 32 else 128) && decide (f 6 2 + bits (stArg x.2.2) 31 16 * t.rows * t.planes ≤ 1024))
            && (if t.scaleMode == 1 then positiveNormal (f 0x10 4) && zpOk fmt (signed 16 (f 0x14 2)) else f 0x10 4 == 0 && f 0x14 2 == 0)
            && (if t.scaleMode == 2 then (f 0x18 4 == 0xFFFFFFFF) != (ss == 0xFFFF) else f 0x18 4 == 0xFFFFFFFF && ss == 0xFFFF)
            && (f 0x18 4 == 0xFFFFFFFF || (List.range t.rows).all fun r =>
              positiveNormal (constField img (f 0x18 4 + 8 * r) 4) && zpOk fmt (signed 32 (constField img (f 0x18 4 + 8 * r + 4) 4)))
            && (ss == 0xFFFF || (decide (ss < imgCount img 3) && sst.format == 0 && sst.elems == 2 * t.rows && sst.rows == 1))
            && (!flag 0 || (seedOf img (stStream x.2.2)).isSome)))

/-- The frequency blocks of a carrier: F and E (07 R170). -/
def gridBlocks (nRb guard : Nat) : Nat × Nat :=
  let e := fun f => 64 * ceilDiv (12 * nRb) (64 * f)
  let f := ((List.range 64).map (· + 1)).find? fun f => e f + 2 * guard ≤ 1024
  (f.getD 1, e (f.getD 1))

/-- RX_MAX that a numerology allows, in ns (08 R215). -/
def rxMaxLimit : Nat → Nat
  | 0 => 320000 | 1 => 160000 | _ => 60000

/-- Resource blocks that a numerology allows (08 R181). -/
def nRbOk (mu n : Nat) : Bool :=
  match mu with
  | 0 => decide (25 ≤ n) && decide (n ≤ 270)
  | 1 => decide (11 ≤ n) && decide (n ≤ 273)
  | 3 => n == 32 || n == 66 || n == 132 || n == 264
  | _ => false

/-- The fields that INGEST and EGRESS records and CELL_START share (08 R186): COMP. -/
def compOk (c : Nat) : Bool :=
  let w := c % 16
  let m := bits c 5 4
  decide (c < 64) && (w == 0 || (decide (6 ≤ w) && decide (w ≤ 15))) && decide (m ≤ 2) && (m != 0 || w == 0)

/-- INGEST parameter records (08 R186, R187). That a PRACH stream with another tile than R194 writes is refused: DEDUCED, log 95. -/
def ingestOk (img : List Byte) (st : Nat) : Bool :=
  let f := fun off k => paramField img st off k
  let planes := f 8 1
  let prach := f 9 1
  let n := planes + prach
  let g := f 6 1
  let (fb, e) := gridBlocks (f 2 2) g
  let eaxc := (List.range n).map fun k => f (64 + 8 * k) 2
  decide (f 0 1 ≤ 7) && (f 1 1 ∈ [0, 1, 3]) && nRbOk (f 1 1) (f 2 2) && decide (f 4 2 < 4096) && (g ∈ [0, 16, 32]) && compOk (f 7 1)
    && decide (1 ≤ planes) && decide (planes ≤ 32) && decide (prach ≤ 8) && paramLen img st == 64 + 8 * n && decide (f 0xA 2 < imgCount img 3)
    && paramZero img st 0x22 30
    && decide (f 0xC 4 < f 0x10 4) && decide (f 0x10 4 ≤ rxMaxLimit (f 1 1)) && decide (f 0x14 4 ≤ 9999999) && f 0x19 1 == 0
    && dedup eaxc == eaxc
    && ((List.range n).all fun k => (if k < planes then f (66 + 8 * k) 1 == 0 else decide (1 ≤ f (66 + 8 * k) 1) && decide (f (66 + 8 * k) 1 ≤ 15))
        && f (67 + 8 * k) 5 == 0)
    && ((List.range fb).all fun b =>
      let s := f 0x1A 2 + b
      let t := streamTile img s
      let rec_ := f 0x1C 2 + b
      decide (s < imgCount img 3) && streamField img s 0 2 == st && t.format == 0x0F && t.rows == 14 && t.elems == e + 2 * g && t.planes == planes
        && t.rowStride == (e + 2 * g) / 16 && (planes == 1 || t.planeStride == 14 * t.rowStride) && decide (rec_ < imgCount img 8)
        && tallyField img rec_ 0 1 == 2 && ((List.range 8).all fun p => tallyField img rec_ (16 + 2 * p) 2 == 14)
        && (f 0x1E 2 == 0xFFFF ||
          let u := streamTile img (f 0x1E 2 + b)
          decide (f 0x1E 2 + b < imgCount img 3) && streamField img (f 0x1E 2 + b) 0 2 == st && u.format == 0x0C && u.scaleMode == 1 && u.rows == 14 && u.elems == e + 2 * g && u.planes == 1))
    && (if prach == 0 then f 0x20 2 == 0xFFFF
        else
          let t := streamTile img (f 0x20 2)
          decide (f 0x20 2 < imgCount img 3) && streamField img (f 0x20 2) 0 2 == st && t.format == 0x0F && decide (t.rows ≤ 12)
            && (t.elems == 848 || t.elems == 144) && t.planes == prach)

/-- DECODE and ENCODE parameter records (09 R223, R230). -/
def codingOk (img : List Byte) (st : Nat) : Bool :=
  let f := fun off k => paramField img st off k
  paramLen img st == 64 &&
    if stationKind img st == 7 then
      decide (1 ≤ f 4 1) && decide (f 4 1 ≤ 16) && f 5 1 == 0 && decide (1 ≤ f 6 2) && decide (f 6 2 ≤ 1024) && f 0x18 8 % 64 == 0
        && (f 8 4 == 0xFFFFFFFF || (List.range 128).all fun k => decide (constField img (f 8 4 + k) 1 ≤ 64))
        && decide (f 0x14 2 < imgCount img 0xB) && decide (f 0x16 2 < imgCount img 0xB)
        && decide (f 0x18 8 ≤ pageBytes * imgField img 0xB 16 (f 0x14 2) 8 4) && paramZero img st 0x20 32
        && decide (f 0 2 < imgCount img 3) && decide (f 2 2 < imgCount img 3)
    else f 6 2 == 0 && decide (f 4 2 < imgCount img 0xB) && paramZero img st 0x10 48 && decide (f 0 2 < imgCount img 3)
        && decide (f 2 2 < imgCount img 3)

/-- Duration of a slot in ns. -/
def slotNsOf (mu : Nat) : Nat := 1000000 / 2 ^ mu

/-- EGRESS parameter records (09 R235). -/
def egressOk (img : List Byte) (st : Nat) : Bool :=
  let f := fun off k => paramField img st off k
  let slot := slotNsOf (f 1 1)
  decide (f 0 1 ≤ 7) && (f 1 1 ∈ [0, 1, 3]) && nRbOk (f 1 1) (f 2 2) && decide (f 4 2 < 4096) && compOk (f 6 1) && decide (1 ≤ f 7 1)
    && decide (f 7 1 ≤ 32) && decide (f 8 1 ≤ 40) && decide (1 ≤ f 9 1) && decide (20000 ≤ f 0xC 4) && decide (4 * f 0xC 4 ≤ slot)
    && decide (f 0xC 4 + 5000 ≤ f 0x10 4) && decide (f 0x10 4 ≤ slot) && decide (20000 ≤ f 0x14 4) && decide (f 0x14 4 ≤ slot)
    && decide (f 0x18 4 ≤ 9999999) && paramLen img st == 64 + 8 * (f 7 1 + f 8 1) && decide (f 0xA 2 < imgCount img 3)
    && paramZero img st 0x1D 35
    && ((List.range (f 7 1 + f 8 1)).all fun k =>
      let g := fun off n => f (64 + 8 * k + off) n
      decide (g 2 2 < 0x8000) && decide (g 4 1 ≤ (if k < f 7 1 then 0 else 15)) && g 5 1 == 0 && g 6 2 == 0)

/-- LINK parameter records (17 R471, R474). Every member loads the same image, so the RECEIVE entry of the peer is one of this record's
(DEDUCED, log 95). -/
def linkOk (img : List Byte) (st : Nat) : Bool :=
  let f := fun off k => paramField img st off k
  let n := f 0 2
  let m := f 4 1
  decide (1 ≤ n) && decide (n ≤ 256) && paramLen img st == 32 + 16 * n && f 2 2 != 0 && (m ∈ [2, 4, 8, 16]) && paramZero img st 5 27
    && ((List.range n).all fun e =>
      let g := fun off k => f (32 + 16 * e + off) k
      let kind := g 0 1
      let t := g 6 2
      decide (kind ≤ 3) && g 8 8 == 0
        && (if kind ≤ 1 then decide (g 1 1 < m) && (g 1 1 ∈ [1, 2, 4, 8]) && t == 0xFFFF else g 1 1 == 0 && g 2 2 == 0xFFFF)
        && (kind != 0 || streamField img (g 2 2) 2 2 == st) && (kind != 1 || streamField img (g 2 2) 0 2 == st)
        && (if kind == 0 then (List.range n).any fun r =>
              let h := fun off k => f (32 + 16 * r + off) k
              h 0 1 == 1 && h 1 1 == g 1 1 && h 2 2 == g 4 2
            else g 4 2 == 0xFFFF)
        && (kind ≤ 1 || (decide (t < imgCount img 8) && tallyField img t 0 1 == 2))
        && (kind != 3 || (List.range 8).all fun p => tallyField img t (16 + 2 * p) 2 == m))

/-- The streams of a producer that a LINK station sends (17 R471). -/
def sentStreams (img : List Byte) (st : Nat) : List Nat :=
  (List.range (imgCount img 3)).filter fun s => streamField img s 0 2 = st ∧ stationKind img (streamField img s 2 2) = 9

/-- Whether a stream's random words are drawn: a MINT step writes it through an entry with ROUND = 1, or a station with an EXACT record of
LINK_ROUND = 1 produces it and a LINK station sends it (04 R107). -/
def drawsWords (img : List Byte) (s : Nat) : Bool :=
  ((stepsOf img 7).any fun x => stStream x.2.2 = s && bit (mintField img (paramAt img x.2.1) (bits (stArg x.2.2) 15 0) 5 1) 0)
    || (List.range (imgCount img 0xF)).any fun i =>
      imgField img 0xF 16 i 7 1 == 1 && (sentStreams img (imgField img 0xF 16 i 0 2)).contains s

/-- EXACT and SEEDS records (04 R107, R116). -/
def exactOk (img : List Byte) : Bool :=
  let n := imgCount img 0xF
  let f := fun i => imgField img 0xF 16 i
  let seeds := (List.range (imgCount img 0xD)).map fun k => imgField img 0xD 16 k 0 2
  ((List.range n).all fun i =>
      !(stationKind img (f i 0 2) ∈ [1, 7, 8, 9, 0xB]) && decide (f i 0 2 < stationCount img) && decide (1 ≤ f i 4 2)
        && decide (f i 2 2 + f i 4 2 ≤ stationField img (f i 0 2) 2 2) && (f i 6 1 ∈ [0x02, 0x05, 0x06, 0x07, 0xFF]) && decide (f i 7 1 ≤ 1)
        && f i 8 8 == 0 && (f i 7 1 == 0 || (sentStreams img (f i 0 2)).all seeds.contains)
        && ((List.range i).all fun k => f i 0 2 != f k 0 2 || !overlap (f i 2 2) (f i 4 2) (f k 2 2) (f k 4 2)))
    && dedup seeds == seeds && ((List.range (imgCount img 0xD)).all fun k => imgField img 0xD 16 k 2 6 == 0)
    && (seeds.all fun s => decide (s < imgCount img 3) && drawsWords img s)

/-- A step's unit, for the coverage rule. -/
def unitKey (w : BitVec 128) : Nat :=
  match stUnit w with
  | some (.array i) => i
  | some .vector => 8
  | some .signal => 9
  | some .mover => 10
  | none => 11

/-- Whether FEED and STORE steps, and MINT steps, that write or read the tiles of a stream are covered by waits of their unit
(14 R362, R363): the station of the first that is not. Waits of a plan are taken in template order; the k-th tile of the plan that
a station's steps move needs a wait of at least k + 1 on the produced count, or of n × k on the consumed count. -/
def uncovered (img : List Byte) : Option Nat :=
  (planSteps img).findSome? fun p =>
    let st := p.2.1
    let go := (List.range p.2.2.length).findSome? fun k =>
      match p.2.2[k]? with
      | none => none
      | some w =>
        if stOp w ∈ [5, 6, 7] then
          let s := stStream w
          let before := (p.2.2.take k).filter fun x => stStream x = s ∧ stOp x = stOp w
          let tiles := fun x => if stOp x = 7 then bits (stArg x) 31 16 else bits (stArg x) 15 0
          let last := sumNat (before.map tiles) + tiles w - 1
          let writes := streamField img s 0 2 = st ∨ stOp w = 6
          let kind := if writes then 1 else 0
          let n := if writes ∧ streamField img s 6 1 = 2 then stationField img (streamField img s 2 2) 2 2 else 1
          let need := if writes then n * last else last + 1
          let named := fun (x : BitVec 128) => stWaitEn x && (let r := stationField img st 6 2 + stWaitBind x
            tallyField img r 0 1 == kind && tallyField img r 2 2 == s)
          let covers := ((p.2.2.take (k + 1)).filter fun x => unitKey x = unitKey w).any fun x => named x && decide (need ≤ stDelta x)
          if covers ∨ need = 0 ∨ streamField img s 7 1 = 1 then none else some st
        else none
    go

/-- A stream that needs a carrier and has none (02 R593). A stream with a chip station at an end is exempt: the IOD block moves its tiles,
and no row of the table serves it (DEDUCED, log 94). -/
def carrierless (img : List Byte) : Option Nat :=
  (List.range (imgCount img 3)).find? fun s =>
    let group := fun k => stationField img k 4 2
    let p := streamField img s 0 2
    let c := streamField img s 2 2
    let chip := fun k => stationKind img k ∈ [1, 7, 8, 9, 0xB]
    let needs := !(streamField img s 7 1 != 1 && group p != 0 && group p == group c) && !chip p && !chip c
    needs && !((stepsOf img 5 ++ stepsOf img 6).any fun x => stStream x.2.2 == s && carries img x.2.1 (stOp x.2.2) s)

/-- What a sequence of steps has done to the arrays of a core: the operand pair of each array's latest RELOAD; since the latest CHECKPOINT, if
there was one, the arrays reloaded and the row ranges written. -/
structure ArrayTrail where
  pair : List (Nat × Nat)
  since : Option (List Nat × List (Nat × Nat × Nat))
  ok : Bool
  deriving DecidableEq, Repr

/-- One step of the check of 03 R90; `rowsOf`: rows of the input tile of an operand pair. -/
def ArrayTrail.step (rowsOf : Nat → Nat) (t : ArrayTrail) (w : BitVec 128) : ArrayTrail :=
  let a := stSub w
  match stOp w with
  | 9 => { t with since := some ([], []) }
  | 2 =>
    { t with
      pair := (a, rlEntry (stArg w)) :: t.pair.filter fun e => e.1 ≠ a
      since := t.since.map fun x => (a :: x.1, x.2) }
  | 1 =>
    let b := psRow (stArg w)
    let m := psBatch (stArg w) * rowsOf (((t.pair.find? fun e => e.1 = a).map Prod.snd).getD 0)
    match t.since with
    | none => t
    | some (loaded, rows) =>
      let read := (List.range m).all fun k => rows.any fun r => r.1 = a && decide (r.2.1 ≤ b + k) && decide (b + k < r.2.1 + r.2.2)
      { t with ok := t.ok && loaded.contains a && (!psAccum (stArg w) || read), since := some (loaded, (a, b, m) :: rows) }
  | _ => t

/-- Whether the steps of an array path meet 03 R90. -/
def trailOk (rowsOf : Nat → Nat) (ws : List (BitVec 128)) : Bool :=
  (ws.foldl (ArrayTrail.step rowsOf) { pair := [], since := none, ok := true }).ok

/-- Rows of the input tile of an operand pair of a MATRIX station. -/
def pairRows (img : List Byte) (st e : Nat) : Nat := (streamTile img (paramField img st (16 + 16 * e) 2)).rows

/-- A best-effort image: passes after a CHECKPOINT, round the epoch boundary, come after a RELOAD of their array and add to rows written
since (03 R90), for the templates of each MATRIX station; placement checks the tables of each core. A plan may follow any other. -/
def checkpointOk (img : List Byte) : Bool :=
  !imgBestEffort img || (List.range (stationCount img)).all fun st =>
    stationKind img st != 3 || (planPairs img st).all (trailOk (pairRows img st))

/-- Check 6: record fields; RESULT0 names a station or stream where a rule says so. -/
def check6 (img : List Byte) : Option Done :=
  let station := fun st => match stationKind img st with
    | 1 => ingestOk img st
    | 3 => matrixOk img st
    | 4 => bufferOk img st && vectorOk img st
    | 5 => bufferOk img st && signalOk img st
    | 6 => mintOk img st
    | 7 | 8 => codingOk img st
    | 9 => linkOk img st
    | 0xB => egressOk img st
    | _ => true
  if ((List.range (imgCount img 2)).all (tileOk img)) && ((List.range (stationCount img)).all (stationOk img))
      && ((List.range (imgCount img 3)).all (streamOk img)) && plansOk img && recordsOk img && rulesOk img && talliesOk img
      && ((List.range (stationCount img)).all station) && templatesOk img && pointsOk img && exactOk img && checkpointOk img && registersOk img then
    match (misCarried img).or (carrierless img) with
    | some s => some ⟨eVersion, s * 65536, 0, 0, 0⟩
    | none => (uncovered img).map fun st => ⟨eVersion, st * 65536, 0, 0, 0⟩
  else some (Done.of eVersion)

/-! ### Checks 1 to 8 together -/

/-- Checks 1 to 8 of 02 R55 of an image for a partition: `version`: the negotiated host interface. -/
def checkImage (img : List Byte) (len : Nat) (version : Nat × Nat) (q : Part) : Option Done :=
  if ¬ (img.take 4 = [0x43, 0x4A, 0x49, 0x4D] ∧ (imgFormat img = 3 ∨ (imgFormat img = 4 ∧ 2 ≤ version.1))) then some (Done.of eVersion)
  else if ¬ (imgLength img = len ∧ len % 64 = 0 ∧ 128 ≤ len ∧ len ≤ 268435456) then some (Done.of eLength)
  else if crc64 (zeroRange img 0x38 8) ≠ imgLe img 0x38 8 then some (Done.of eFault)
  else if ¬ (headerOk img ∧ directoryOk img) then some (Done.of eVersion)
  else
    match check5 img with
    | some d => some d
    | none =>
      match check6 img with
      | some d => some d
      | none =>
        if ¬ (List.range (imgCount img 0xB)).all fun i =>
            let f := imgField img 0xB 16 i
            decide (f 0 8 / pageBytes + f 8 4 ≤ q.allot.length) then some (Done.of eTenant)
        else if (imgBestEffort img ∧ ¬ q.allowBe) ∨ (¬ imgBestEffort img ∧ ¬ q.allowLc) then some (Done.of eTenant)
        else none

end Sys2Proof.Machine
end

