-- ==== Sys2Proof/Machine/Placement.lean ====
section
/-! DEFINITION. What placement makes of an image and of the firmware release's choices (02 R40, R56, R60, R71, R593-R595): where
instances, buffers and tallies stand, step words, programs, operand files, translation tables, the transfers of a step. -/

namespace Sys2Proof.Machine

/-- An image with what placement takes and what it chooses. -/
structure Site where
  img : List Byte
  inp : PlaceIn
  pick : Choice
  deriving DecidableEq, Repr

/-! ### Stations and streams (02 R40, R45) -/

/-- Station kinds that run on an IOD block. -/
def chipKind (k : Nat) : Bool := k ∈ [1, 7, 8, 9, 0xB]

def instanceCount (img : List Byte) (st : Nat) : Nat := stationField img st 2 2
def producerOf (img : List Byte) (s : Nat) : Nat := streamField img s 0 2
def consumerOf (img : List Byte) (s : Nat) : Nat := streamField img s 2 2
def modeOf (img : List Byte) (s : Nat) : Nat := streamField img s 6 1
def homeOf (img : List Byte) (s : Nat) : Nat := streamField img s 7 1

/-- Every instance of the core stations: (station, instance). -/
def coreInstances (img : List Byte) : List (Nat × Nat) :=
  (List.range (stationCount img)).flatMap fun st =>
    if chipKind (stationKind img st) then [] else (List.range (instanceCount img st)).map fun i => (st, i)

/-- The pairs of a producer and a consumer instance between which tiles of a stream go (02 R45). -/
def streamPairs (img : List Byte) (s : Nat) : List (Nat × Nat) :=
  let n := instanceCount img (producerOf img s)
  if modeOf img s = 0 then (List.range n).map fun i => (i, i)
  else (List.range n).flatMap fun j => (List.range (instanceCount img (consumerOf img s))).map fun i => (j, i)

/-- Whether a station acts at the producer's end of a stream: the producer, or a station of its GROUP that is not the consumer. -/
def producerEnd (img : List Byte) (s st : Nat) : Bool :=
  st == producerOf img s || (st != consumerOf img s && sameCore img (producerOf img s) st)

/-- The tile of a stream that a consumer instance takes as its m-th of the epoch: producer instance and tile. A DEAL stream deals tile k
of every producer instance to consumer instance k modulo their number, and a consumer takes its producers in turn; a consumer of a CAST
stream follows producer instance c mod P (14 R362; DEDUCED, log 98). -/
def takenTile (img : List Byte) (s i m : Nat) : Nat × Nat :=
  let np := max 1 (instanceCount img (producerOf img s))
  match modeOf img s with
  | 0 => (i, m)
  | 1 => (m % np, m / np * max 1 (instanceCount img (consumerOf img s)) + i)
  | _ => (i % np, m)

/-- Where a tile stands among those that a consumer instance takes. -/
def placeAtConsumer (img : List Byte) (s j k : Nat) : Nat :=
  if modeOf img s = 1 then k / max 1 (instanceCount img (consumerOf img s)) * max 1 (instanceCount img (producerOf img s)) + j else k

/-- The consumer instances that receive tile k of producer instance j. -/
def receivers (img : List Byte) (s j k : Nat) : List Nat :=
  let n := instanceCount img (consumerOf img s)
  match modeOf img s with
  | 0 => [j]
  | 1 => [k % max 1 n]
  | _ => List.range n

/-! ### Where instances stand -/

/-- The core of an instance of a core station. -/
def Site.home (x : Site) (st i : Nat) : Nat :=
  ((x.pick.homes.find? fun h => h.1 = st ∧ h.2.1 = i).map fun h => h.2.2).getD 0xFFFF

/-- The cores that the job takes, ascending. -/
def Site.cores (x : Site) : List Nat := ((coreInstances x.img).map fun e => x.home e.1 e.2).foldl (fun l c => insertAsc c l) []

/-- The station instances on a core. -/
def Site.on (x : Site) (c : Nat) : List (Nat × Nat) := (coreInstances x.img).filter fun e => x.home e.1 e.2 = c

/-- Whether an instance of a core station stands on a core. -/
def Site.at_ (x : Site) (st i c : Nat) : Bool := !chipKind (stationKind x.img st) && x.home st i == c

/-- The borrowed core of a physical index, if it is one. -/
def PartShape.borrowing (q : PartShape) (c : Nat) : Option Borrowed := q.borrowed.find? fun b => b.core = c

/-- The cores of a shape by partition core index (13 R333). -/
def PartShape.cores (q : PartShape) : List Nat := q.owned ++ q.borrowed.map fun b => b.core

/-- Smoothing mode and index by which a core's work is smoothed: its lender's for a borrowed core (03 R87, 13 R340). -/
def PartShape.smoothing (q : PartShape) (c : Nat) : Bool × Nat :=
  match q.borrowing c with
  | some b => (b.gate, b.index)
  | none => (q.gate, q.owned.findIdx (· = c))

/-- The segments that placement may use on a core: all but those that the partition lends; of a borrowed core the lent ones; none that
another loaded job uses (02 R73, 13 R340). -/
def Site.segments (x : Site) (c : Nat) : List Nat :=
  let mine := match x.inp.shape.borrowing c with
    | some b => (List.range 12).filter fun n => decide (12 - b.segments ≤ n)
    | none => (List.range 12).filter fun n => decide (n < 12 - x.inp.shape.lent)
  let held := (x.inp.reserved.segments.filter fun e => e.1 = c).foldl (fun m e => m ||| e.2) (0 : BitVec 12)
  mine.filter fun n => !held.getLsbD n

/-! ### Buffers, staging buffers, private areas (02 R593, R594) -/

/-- The buffers of a stream that a core holds: 0 the buffer, 1 a staging buffer of its producer, 2 one of its consumer. -/
def Site.sides (x : Site) (c s : Nat) : List Nat :=
  let p := producerOf x.img s
  let q := consumerOf x.img s
  let pairs := streamPairs x.img s
  let made := fun (e : Nat × Nat) => x.at_ p e.1 c
  let used := fun (e : Nat × Nat) => x.at_ q e.2 c
  let one := fun (b : Bool) (k : Nat) => if b then [k] else []
  match homeOf x.img s with
  | 0 => one (pairs.any used) 0 ++ one (pairs.any fun e => made e && !used e) 1
  | 2 => one (pairs.any made) 0 ++ one (pairs.any fun e => used e && !made e) 2
  | _ => one (pairs.any made && stationKind x.img p != 2) 1 ++ one (pairs.any used && stationKind x.img q != 0xA) 2

/-- First granule of a buffer on a core. -/
def Site.first (x : Site) (c s side : Nat) : Nat :=
  ((x.pick.rings.find? fun r => r.1 = c ∧ r.2.1 = s ∧ r.2.2.1 = side).map fun r => r.2.2.2).getD 0

/-- The rings of a core, at position 0. -/
def Site.rings (x : Site) (c : Nat) : List Ring :=
  (List.range (imgCount x.img 3)).flatMap fun s => (x.sides c s).map fun side =>
    { stream := s, first := x.first c s side, spacing := streamSpacing x.img s, depth := streamField x.img s 8 2
      advance := (List.range 8).map (streamTiles x.img s), rho := 0, side := side }

/-- First granule of the buffer that an end of a stream uses on a core. -/
def Site.buffer (x : Site) (c s : Nat) (producer : Bool) : Nat :=
  (((x.rings c).find? fun r => r.stream = s ∧ r.side ≠ (if producer then 2 else 1)).map fun r => r.first).getD 0

/-- First granule of the slot of tile n in that buffer. -/
def Site.slot (x : Site) (c s : Nat) (producer : Bool) (n : Nat) : Nat :=
  x.buffer c s producer + n % max 1 (streamField x.img s 8 2) * streamSpacing x.img s

/-- First granule of the private area of an instance. -/
def Site.private_ (x : Site) (st i : Nat) : Nat :=
  ((x.pick.privates.find? fun r => r.1 = st ∧ r.2.1 = i).map fun r => r.2.2).getD 0

/-- The private areas of a core: (station, first granule, bytes). -/
def Site.privates (x : Site) (c : Nat) : List (Nat × Nat × Nat) :=
  ((x.on c).filter fun e => stationField x.img e.1 8 4 ≠ 0).map fun e => (e.1, x.private_ e.1 e.2, stationField x.img e.1 8 4)

/-- The granule ranges that the job uses on a core: (first, granules). -/
def Site.ranges (x : Site) (c : Nat) : List (Nat × Nat) :=
  (x.rings c).map (fun r => (r.first, r.spacing * r.depth)) ++ (x.privates c).map fun p => (p.2.1, p.2.2 / 64)

/-- Whether a granule range reaches into a segment (12 R303). -/
def inSegment (r : Nat × Nat) (n : Nat) : Bool := decide (0 < r.2) && decide (r.1 < 4096 * (n + 1)) && decide (4096 * n < r.1 + r.2)

/-- The segments that the job uses on a core (12 R307). -/
def Site.used (x : Site) (c : Nat) : BitVec 12 :=
  (List.range 12).foldl (fun m n => if (x.ranges c).any (inSegment · n) then m ||| BitVec.ofNat 12 (2 ^ n) else m) 0

/-! ### Tallies and bindings (02 R53, R60; 14 R359, R362) -/

/-- Tallies into which a record expands: one for a free tally; per pair of a POINT or DEAL stream, per producer instance of a CAST one. -/
def recordTallies (img : List Byte) (r : Nat) : Nat :=
  if tallyField img r 0 1 = 2 then 1
  else
    let s := tallyField img r 2 2
    if modeOf img s = 1 then (streamPairs img s).length else instanceCount img (producerOf img s)

/-- The expanded tallies in order: (record, which of its tallies). -/
def expansion (img : List Byte) : List (Nat × Nat) :=
  (List.range (imgCount img 8)).flatMap fun r => (List.range (recordTallies img r)).map fun k => (r, k)

/-- The partition tally chosen for an expanded tally. -/
def Site.tally (x : Site) (e : Nat × Nat) : Nat := nth 0 x.pick.tallies ((expansion x.img).findIdx (· = e))

/-- Which tally of a record a station instance's binding names; n: the tile that the step waits for or posts (14 R362). -/
def bindIndex (img : List Byte) (r st i n : Nat) : Nat :=
  if tallyField img r 0 1 = 2 then 0
  else
    let s := tallyField img r 2 2
    let np := max 1 (instanceCount img (producerOf img s))
    let nc := max 1 (instanceCount img (consumerOf img s))
    let made := producerEnd img s st
    match modeOf img s with
    | 0 => i
    | 1 => if made then i * nc + n % nc else n % np * nc + i
    | _ => if made then i else i % np

/-- The posters of each consumed count of a stream (14 R362). -/
def posters (img : List Byte) (s : Nat) : Nat := if modeOf img s = 2 then instanceCount img (consumerOf img s) else 1

/-- The binding of a station instance to a tally of a record (14 R359, R362). -/
def Site.binding (x : Site) (st i r n : Nat) : Binding :=
  let kind := tallyField x.img r 0 1
  let s := tallyField x.img r 2 2
  let f := if kind = 1 then posters x.img s else 1
  { tally := x.tally (r, bindIndex x.img r st i n), kind := kind, stream := if kind = 2 then 0 else s
    offset := if kind = 2 then tallyField x.img r 4 4
      else if kind = 1 ∧ producerEnd x.img s st then posters x.img s * (streamField x.img s 8 2 - 1) else 0
    stride := (List.range 8).map fun p => f * tallyField x.img r (16 + 2 * p) 2, base := 0 }

/-! ### The steps of a core's plan (02 R56) -/

/-- A step template as a core runs it: its station instance, its place in the station's plan, the templates of that plan before it. -/
structure Src where
  station : Nat
  inst : Nat
  index : Nat
  word : BitVec 128
  before : List (BitVec 128)
  deriving DecidableEq, Repr

/-- The plans that an image holds (02 R52). -/
def planNumbers (img : List Byte) : List Nat := (List.range 8).filter fun p => (planSteps img).any fun x => x.1 = p

/-- The templates of a station instance in a plan. -/
def stationSteps (img : List Byte) (st i p : Nat) : List Src :=
  let ws := stationPlan img st p
  ws.mapIdx fun k w => { station := st, inst := i, index := k, word := w, before := ws.take k }

/-- Merges queues in their own order: each choice takes the head of a queue, and what is left over follows. -/
def weaveLists {α : Type} (qs : List (List α)) : List Nat → List α
  | [] => qs.flatten
  | n :: ns =>
    match nth [] qs n with
    | [] => weaveLists qs ns
    | a :: _ => a :: weaveLists (modNth qs n List.tail) ns

/-- The steps of a core in a plan, in table order. -/
def Site.steps (x : Site) (c p : Nat) : List Src :=
  weaveLists ((x.on c).map fun e => stationSteps x.img e.1 e.2 p)
    (((x.pick.weave.find? fun w => w.1 = c ∧ w.2.1 = p).map fun w => w.2.2).getD [])

/-- The TALLIES record that a binding of a station names. -/
def bindRecord (img : List Byte) (st b : Nat) : Nat := stationField img st 6 2 + b

/-- The binding on which a step waits: a wait on a produced count is for the tile before its threshold. -/
def Site.waits (x : Site) (t : Src) : Option Binding :=
  if stWaitEn t.word then
    let r := bindRecord x.img t.station (stWaitBind t.word)
    some (x.binding t.station t.inst r (if tallyField x.img r 0 1 = 0 then stDelta t.word - 1 else stDelta t.word / max 1 (posters x.img (tallyField x.img r 2 2))))
  else none

/-- The binding that a step posts: the tile after those that the plan's earlier steps of its station posted. -/
def Site.posts (x : Site) (t : Src) : Option Binding :=
  if stPostEn t.word then
    let r := bindRecord x.img t.station (stPostBind t.word)
    let n := sumNat ((t.before.filter fun w => stPostEn w ∧ stPostBind w = stPostBind t.word).map stPostAdd)
    some (x.binding t.station t.inst r n)
  else none

/-- The binding store of a core (02 R60). -/
def Site.binds (x : Site) (c : Nat) : List Binding :=
  dedup ((planNumbers x.img).flatMap fun p => (x.steps c p).flatMap fun t => (x.waits t).toList ++ (x.posts t).toList)

/-! ### Programs, operand files, constants (03 R78, 05 R122, R123, 06 R160-R162) -/

/-- A number with the bits of a field replaced. -/
def putBits (w hi lo v : Nat) : Nat := w - bits w hi lo * 2 ^ lo + v % 2 ^ (hi + 1 - lo) * 2 ^ lo

/-- The stations of a kind on a core, and how many entries of something those before a station have. -/
def Site.ofKind (x : Site) (c kind : Nat) : List (Nat × Nat) := (x.on c).filter fun e => stationKind x.img e.1 = kind
def Site.before (x : Site) (c kind st : Nat) (n : Nat → Nat) : Nat :=
  sumNat (((x.ofKind c kind).takeWhile fun e => e.1 ≠ st).map fun e => n e.1)

/-- Operand pairs, and instructions, of a station. -/
def pairCount (img : List Byte) (st : Nat) : Nat := paramField img st 0 2
def codeLength (img : List Byte) (st : Nat) : Nat := stationField img st 0x18 4 / 8

/-- The operand entry of a pair (03 R78). -/
def operandEntry (img : List Byte) (st e : Nat) : BitVec 256 :=
  let f := fun off n => paramField img st (16 + 16 * e + off) n
  let w := streamTile img (f 2 2)
  let tile := (img.drop ((imgSection img 2).2.1 + 16 * streamField img (f 0 2) 4 2)).take 16
  BitVec.ofNat 256 (leNat (tile ++ leBytes 2 w.rowStride ++ leBytes 1 w.format ++ leBytes 1 (f 8 1 % 2 + 2 * b2n (w.elems = 64))
    ++ leBytes 2 (f 4 2) ++ leBytes 2 (f 6 2)))

def Site.operands (x : Site) (c : Nat) : List (BitVec 256) :=
  (x.ofKind c 3).flatMap fun e => (List.range (pairCount x.img e.1)).map (operandEntry x.img e.1)

/-- First granule of what BUF names in the code of a station instance (05 R123, 06 R160). -/
def Site.bufferBase (x : Site) (c st i b : Nat) : Nat :=
  if b = 31 then x.private_ st i
  else
    let s := paramField x.img st (16 + 8 * b) 2
    x.buffer c s (producerEnd x.img s st)

/-- An instruction of a VECTOR station as program memory holds it (05 R123). -/
def Site.vectorWord (x : Site) (c st i w : Nat) : Nat :=
  if vOp w ∈ [0x60, 0x61, 0x64] then putBits (putBits w 55 40 (vAddr w + x.bufferBase c st i (bits w 21 17))) 21 17 0 else w

def Site.vectorCode (x : Site) (c : Nat) : List (BitVec 64) :=
  (x.ofKind c 4).flatMap fun e => (List.range (codeLength x.img e.1)).map fun k =>
    BitVec.ofNat 64 (x.vectorWord c e.1 e.2 (Tbl.get (0 : BitVec 64) (stationCode x.img e.1) k).toNat)

/-- An instruction of a SIGNAL station as program memory holds it (06 R160). -/
def Site.signalWord (x : Site) (c st i w : Nat) : Nat :=
  if bit w 47 ∧ bits w 46 40 ∈ [0x49, 0x4A] then putBits (putBits w 15 0 (bits w 15 0 + x.bufferBase c st i (bits w 35 31))) 35 31 0 else w

def Site.signalProgram (x : Site) (c : Nat) : List (BitVec 48) :=
  (x.ofKind c 5).flatMap fun e => (List.range (codeLength x.img e.1)).map fun k =>
    BitVec.ofNat 48 (x.signalWord c e.1 e.2 (Tbl.get (0 : BitVec 64) (stationCode x.img e.1) k).toNat)

/-- The words of an initial image, at an offset of CONSTANTS (06 R161). -/
def initialImage (img : List Byte) (off n : Nat) : List (BitVec 24) :=
  if off = 0xFFFFFFFF then [] else (List.range n).map fun k => BitVec.ofNat 24 (constField img (off + 4 * k) 4)

def Site.initial (x : Site) (c off len : Nat) : List (BitVec 24) :=
  (x.ofKind c 5).flatMap fun e => if paramAt x.img e.1 = 0xFFFFFFFF then [] else
    initialImage x.img (paramField x.img e.1 off 4) (paramField x.img e.1 len 2)

/-- The constant blocks of a core: (first granule, bytes) (05 R122). -/
def Site.constants (x : Site) (c : Nat) : List (Nat × List Byte) :=
  (x.ofKind c 4).filterMap fun e =>
    let off := paramField x.img e.1 2 4
    if paramAt x.img e.1 = 0xFFFFFFFF ∨ off = 0xFFFFFFFF then none
    else some (x.private_ e.1 e.2, (x.img.drop ((imgSection x.img 7).2.1 + off)).take (paramField x.img e.1 6 4))

/-- A list as the table of its elements by index. -/
def tableOf {n : Nat} (l : List (BitVec n)) : Tbl (BitVec n) := (l.zipIdx.filter fun e => e.1 ≠ 0).map fun e => (e.2, e.1)

/-! ### Step words (02 R56, 03 R79-R81, 05 R123) -/

/-- ARG as the table holds it. -/
def Site.arg (x : Site) (c : Nat) (t : Src) : Nat :=
  let a := stArg t.word
  let stream := fun e off => paramField x.img t.station (16 + 16 * e + off) 2
  match stOp t.word with
  | 1 =>
    let e := (((t.before.filter fun w => stOp w = 2 ∧ stSub w = stSub t.word).getLast?).map fun w => rlEntry (stArg w)).getD 0
    putBits a 15 0 (psBase a + x.buffer c (stream e 0) false)
  | 2 =>
    putBits (putBits a 15 0 (rlBase a + x.buffer c (stream (rlEntry a) 2) false)) 23 16
      (rlEntry a + x.before c 3 t.station (pairCount x.img))
  | 3 => putBits a 15 0 (bits a 15 0 + x.before c 4 t.station (codeLength x.img))
  | _ => a

/-- A step's word in the table of a core, its DELAY given. -/
def Site.word (x : Site) (c : Nat) (binds : List Binding) (t : Src) (delay : Nat) : BitVec 128 :=
  let at_ := fun (b : Option Binding) => (b.map fun b => binds.findIdx (· = b)).getD 0
  BitVec.ofNat 128 (putBits (putBits (putBits (putBits t.word.toNat 23 8 delay) 29 25 (at_ (x.waits t))) 36 32 (at_ (x.posts t))) 127 96 (x.arg c t))

/-- EPOCH_END, which placement adds to every plan (02 R56). -/
def epochEndWord : BitVec 128 := 0x0C

/-- DELAY of step k of a plan before the timeline raises it: the template's, what the release adds, and in GATE mode 32 × ⌊c ÷ 8⌋ for
step 0 (03 R89). -/
def Site.delay (x : Site) (c p k : Nat) (w : BitVec 128) : Nat :=
  let more := nth 0 (((x.pick.delays.find? fun d => d.1 = c ∧ d.2.1 = p).map fun d => d.2.2).getD []) k
  let (gate, index) := x.inp.shape.smoothing c
  bits w.toNat 23 8 + more + (if k = 0 ∧ gate then 32 * (index / 8) else 0)

/-! ### Transfers (02 R593, 12 R323, R326, R327) -/

/-- One transfer of a FEED or STORE step: a tile's way from or to one place. `far`: granule of a record's range, of a frame, or of the
other core. -/
structure Transfer where
  kind : Nat
  near : Nat
  far : Nat
  record : Nat
  cores : List Nat
  paged : Option Nat
  granules : Nat
  deriving DecidableEq, Repr

/-- Tiles of a stream that the earlier steps of the plan of the same class have moved. -/
def Src.moved (t : Src) : Nat :=
  sumNat ((t.before.filter fun w => stOp w = stOp t.word ∧ stStream w = stStream t.word).map fun w => bits (stArg w) 15 0)

/-- The transfers of tile n of a FEED or STORE step of a plan. -/
def Site.tileMoves (x : Site) (c p : Nat) (t : Src) (n : Nat) : List Transfer :=
  let s := stStream t.word
  let size := streamSpacing x.img s
  let hbm := fun (j k kind near : Nat) (cores : List Nat) =>
    let page := x.pick.paged.find? fun g => g.station = t.station ∧ g.inst = t.inst ∧ g.stream = s ∧ g.tile = n
    ({ kind := kind, near := near, far := (page.map (·.offset)).getD ((j * streamTiles x.img s p + k) * size), record := streamField x.img s 0x12 2
       cores := cores, paged := page.map (·.entry), granules := size } : Transfer)
  let coreOf := fun i => x.home (consumerOf x.img s) i
  if stOp t.word = 5 then
    if t.station = producerOf x.img s then
      let dest := (receivers x.img s t.inst n).map coreOf
      let slot := placeAtConsumer x.img s t.inst n
      if dest = [c] ∧ modeOf x.img s ≠ 2 then [hbm t.inst n 0 (x.slot c s false slot) []]
      else [hbm t.inst n 4 (x.slot (dest.headD 0) s false slot) dest]
    else
      let (j, k) := takenTile x.img s t.inst n
      if homeOf x.img s = 1 then [hbm j k 0 (x.slot c s false n) []]
      else
        let d := x.home (producerOf x.img s) j
        [{ kind := 3, near := x.slot c s false n, far := x.slot d s true k, record := 0, cores := [d], paged := none, granules := size }]
  else if homeOf x.img s = 1 then [hbm t.inst n 1 (x.slot c s true n) []]
  else
    (receivers x.img s t.inst n).map fun i =>
      { kind := 2, near := x.slot c s true n, far := x.slot (coreOf i) s false (placeAtConsumer x.img s t.inst n), record := 0
        cores := [coreOf i], paged := none, granules := size }

/-- A transfer in pieces that never fill the stream mover: at most 640 granules each (12 R320, R322). -/
def Transfer.pieces (m : Transfer) : List Transfer :=
  (List.range (ceilDiv m.granules 640)).map fun k =>
    { m with near := m.near + 640 * k, far := m.far + 640 * k, granules := min 640 (m.granules - 640 * k) }

/-- The transfers of a step, in tile order. -/
def Site.moves (x : Site) (c p : Nat) (t : Src) : List Transfer :=
  if stOp t.word = 5 ∨ stOp t.word = 6 then
    (List.range (bits (stArg t.word) 15 0)).flatMap fun k => (x.tileMoves c p t (t.moved + k)).flatMap Transfer.pieces
  else []

/-- Whether a transfer goes to or from HBM. -/
def Transfer.hbm (m : Transfer) : Bool := m.kind == 0 || m.kind == 1 || m.kind == 4

/-- Every transfer of a core. -/
def Site.allMoves (x : Site) (c : Nat) : List Transfer := (planNumbers x.img).flatMap fun p => (x.steps c p).flatMap (x.moves c p)

/-! ### Translation tables and cast sets (12 R315, R316, R327) -/

/-- The TRANSLATIONS records that a core's transfers name, ascending. -/
def Site.records (x : Site) (c : Nat) : List Nat := ((x.allMoves c).filter Transfer.hbm).foldl (fun l m => insertAsc m.record l) []

/-- A page entry: PPAGE, VPAGE, RD, WR. VALID follows the page's state and is read from it (R315, R316). -/
def pageEntry (allot : List Nat) (page access : Nat) : BitVec 64 := BitVec.ofNat 64 (nth 0 allot page + page * 2 ^ 16 + access % 4 * 2 ^ 32)

def recordPages (img : List Byte) (r : Nat) : Nat := imgField img 0xB 16 r 8 4
def recordFirst (img : List Byte) (r : Nat) : Nat := imgField img 0xB 16 r 0 8 / pageBytes

/-- The translation table of a core: its records, the job record region, a best-effort job's save region (R316). -/
def Site.transl (x : Site) (c : Nat) : List (BitVec 64) :=
  let run := fun (first n access : Nat) => (List.range n).map fun k => pageEntry x.inp.shape.allot (first + k) access
  ((x.records c).flatMap fun r => run (recordFirst x.img r) (recordPages x.img r) (imgField x.img 0xB 16 r 12 1))
    ++ run (x.inp.record.1 / pageBytes) x.inp.record.2 3
    ++ (if imgBestEffort x.img then x.inp.save.elim [] fun v => run (v.1 / pageBytes) v.2 3 else [])

/-- First translation entry of a record on a core. -/
def Site.entryOf (x : Site) (c r : Nat) : Nat := sumNat (((x.records c).takeWhile (· ≠ r)).map (recordPages x.img))

/-- The cast sets of a core. -/
def Site.castSets (x : Site) (c : Nat) : List (List Nat) := dedup (((x.allMoves c).filter fun m => m.kind = 4).map (·.cores))

/-- A schedule entry (R323). -/
def Site.entry (x : Site) (c s : Nat) (m : Transfer) (offset : Nat) : BitVec 128 :=
  let entry := match m.paged with
    | some e => e
    | none => if m.hbm then x.entryOf c m.record else x.inp.shape.cores.findIdx (· = m.cores.headD 0)
  let cast := if m.kind = 4 then (x.castSets c).findIdx (· = m.cores) else 0
  BitVec.ofNat 128 (offset % 2 ^ 16 + s * 2 ^ 16 + m.kind * 2 ^ 28 + (m.granules - 1) * 2 ^ 32 + m.near * 2 ^ 48 + entry % 2 ^ 16 * 2 ^ 64
    + b2n m.paged.isSome * 2 ^ 80 + m.far % 2 ^ 28 * 2 ^ 84 + cast * 2 ^ 112)

end Sys2Proof.Machine
end

