-- ==== Sys2Proof/Machine/Timeline.lean ====
section
/-! DEFINITION. The timeline of a plan (12 R324): the work cycle at which every step of every core issues and completes when every
external arrival is on time (02 R58, 03 R83, R84, 04 R111, 05 R135, 06 R165, 12 R322, 14 R360, R375). -/

namespace Sys2Proof.Machine

/-! ### What steps take -/

/-- Work cycles per input row: R of 03 R75. -/
def inputRate (fmt : Nat) : Nat :=
  if fmt = 0x00 then 8 else if fmt ∈ [0x01, 0x02, 0x0B] then 2 else 1

/-- The input interval M × R of a PASS template (03 R83). -/
def passInterval (img : List Byte) (t : Src) : Nat :=
  let e := (((t.before.filter fun w => stOp w = 2 ∧ stSub w = stSub t.word).getLast?).map fun w => rlEntry (stArg w)).getD 0
  let tile := streamTile img (paramField img t.station (16 + 16 * e) 2)
  psBatch (stArg t.word) * tile.rows * inputRate tile.format

/-- Work cycles of a MINT template (04 R111). -/
def mintStepCycles (img : List Byte) (t : Src) : Nat :=
  let f := mintField img (paramAt img t.station) (bits (stArg t.word) 15 0)
  let out := streamTile img (stStream t.word)
  let wide : Bool := f 0 1 ≠ 0 ∨ (streamTile img (f 2 2)).format ∈ [0x00, 0x0A]
  let rows := out.rows * out.planes
  mintCycles wide (List.replicate (bits (stArg t.word) 31 16) (rows * out.elems, if out.scaleMode = 2 ∧ f 0x1C 2 ≠ 0xFFFF then rows else 0))

/-- Work cycles of a DIGEST template (14 R375). -/
def digestStepCycles (img : List Byte) (t : Src) : Nat :=
  let tile := streamTile img (stStream t.word)
  digestCycles (digestField img (stArg t.word) 8 2 * (tile.planes * tile.rows * rowFootprint tile.format tile.elems))

/-- Work cycles of a SIG template (06 R165). -/
def sigStepCycles (img : List Byte) (t : Src) (p : Nat) : Nat :=
  nth 0 ((signalCycles img t.station p).getD []) (t.before.filter fun w => stOp w = 4).length

/-- A step of a timeline: its place and word in the table; PASS: its input interval, other timed steps: their work cycles; transfers of a
FEED or STORE; its wait as (tally, threshold above the count at the epoch's start), its post as (tally, amount). -/
structure TStep where
  station : Nat
  word : BitVec 128
  cycles : Nat
  moves : List Transfer
  slack : List Nat
  wait : Option (Nat × Int)
  post : Option (Nat × Nat)
  deriving DecidableEq, Repr

/-- ELEMS of the tile whose buffer on a core holds a granule. -/
def Site.elemsAt (x : Site) (c g : Nat) : Nat :=
  match (x.rings c).find? fun r => r.holds g with
  | some r => (streamTile x.img r.stream).elems
  | none => 0

/-- The VEC steps of a core's plan take their pointers from one another (05 R136): the work cycles of each step, the pointers carried on. -/
def Site.timed (x : Site) (c p : Nat) (prog : Tbl (BitVec 64)) : List Src → Tbl (BitVec 32) → List (Src × Nat)
  | [], _ => []
  | t :: ts, ptrs =>
    match stOp t.word with
    | 1 => (t, passInterval x.img t) :: x.timed c p prog ts ptrs
    | 3 =>
      let a := x.arg c t
      let n := bits a 31 16
      let r := vecCycles (x.elemsAt c)
        { VecUnit.reset with prog := prog, p := ptrs, active := decide (0 < n), pc := bits a 15 0, stop := bits a 15 0 + n }
      (t, r.1) :: x.timed c p prog ts r.2.p
    | 4 => (t, sigStepCycles x.img t p) :: x.timed c p prog ts ptrs
    | 7 => (t, mintStepCycles x.img t) :: x.timed c p prog ts ptrs
    | 10 => (t, digestStepCycles x.img t) :: x.timed c p prog ts ptrs
    | _ => (t, 0) :: x.timed c p prog ts ptrs

/-- The steps of a core in a plan as the timeline takes them, EPOCH_END last. -/
def Site.queue (x : Site) (c p : Nat) : List TStep :=
  let binds := x.binds c
  let rel := fun (b : Binding) (w : BitVec 128) => (b.tally, (stDelta w : Int) - b.offset)
  (x.timed c p (tableOf (x.vectorCode c)) (x.steps c p) []).mapIdx (fun k e =>
    { station := e.1.station, word := x.word c binds e.1 (min 65535 (x.delay c p k e.1.word)), cycles := e.2, moves := x.moves c p e.1
      slack := ((x.pick.slack.find? fun d => d.1 = c ∧ d.2.1 = p ∧ d.2.2.1 = k).map fun d => d.2.2.2).getD []
      wait := (x.waits e.1).map fun b => rel b e.1.word
      post := (x.posts e.1).map fun b => (b.tally, stPostAdd e.1.word) })
    ++ [{ station := 0xFFFF, word := epochEndWord, cycles := 0, moves := [], slack := [], wait := none, post := none }]

/-! ### Where a core stands -/

/-- An array: when its last RELOAD completes, when the next may issue, when its input is free, whether its ramp has run (03 R83, R84, R88). -/
structure ArrayTime where
  loaded : Nat
  spaced : Nat
  free : Nat
  ramped : Bool
  deriving DecidableEq, Repr

/-- A core of a timeline: the steps left, the index and issue cycle of the one before, the cycle before which a barrier lets nothing issue,
its units, the transfers in flight as (first issue, granules, pinned time), the latest completion. -/
structure CoreTime where
  core : Nat
  dummy : Bool
  left : List TStep
  index : Nat
  prev : Option Nat
  hold : Nat
  arrays : List ArrayTime
  /-- Completions of the vector engine's last step and of the one before it. -/
  vec : Nat × Nat
  sig : Nat
  /-- The first cycle at which the stream mover accepts a step. -/
  mover : Nat
  flights : List (Nat × Nat × Nat)
  done : Nat
  deriving DecidableEq, Repr

/-- A step that has issued. -/
structure TEvent where
  core : Nat
  index : Nat
  step : TStep
  issue : Nat
  complete : Nat
  /-- First issue cycle of each transfer. -/
  starts : List Nat
  deriving DecidableEq, Repr

/-- A timeline: its events in order of issue, and the station of the first step whose wait is never met (R324). -/
structure Timeline where
  events : List TEvent
  stuck : Option Nat
  deriving DecidableEq, Repr, Inhabited

/-- What arrives from outside: whether a tally is posted by no template, and the cycle at which it has reached a threshold. -/
abbrev Arrivals := Nat → Option (Nat → Nat)

/-- The cycle at which a core sees a tally at a threshold, by the posts so far (14 R360). -/
def reachedAt (outside : Arrivals) (events : List TEvent) (core tally : Nat) (threshold : Int) : Option Nat :=
  if threshold ≤ 0 then some 0
  else
    match outside tally with
    | some f => some (f threshold.toNat)
    | none =>
      let seen := events.filterMap fun e => match e.step.post with
        | some (t, n) => if t = tally then some (e.complete + (if e.core = core then 0 else postCycles), n) else none
        | none => none
      let enough := seen.filter fun x => decide (threshold ≤ (sumNat ((seen.filter fun y => y.1 ≤ x.1).map Prod.snd) : Int))
      (enough.map Prod.fst).min?

/-- Granules in flight at a cycle (12 R320). -/
def inFlight (flights : List (Nat × Nat × Nat)) (t : Nat) : Nat :=
  sumNat (flights.map fun f => min (f.1 + f.2.1) t - max f.1 (t + 1 - f.2.2))

/-- The earliest cycle from c on at which n granules may issue one after the other with fewer than 640 in flight (12 R322, R324). -/
def issueFrom (flights : List (Nat × Nat × Nat)) (c n pinned : Nat) : Nat :=
  (((List.range 4096).map (c + ·)).find? fun s =>
    (List.range n).all fun k => decide (inFlight ((s, n, pinned) :: flights) (s + k) < 640)).getD (c + 4096)

/-- The transfers of a step that issues at a cycle: their first issue cycles, the flights afterwards, the first cycle free again. -/
def startMoves (i : Nat) (moves : List Transfer) (slack : List Nat) (flights : List (Nat × Nat × Nat)) : List Nat × List (Nat × Nat × Nat) × Nat :=
  let r := moves.zipIdx.foldl (fun (r : List Nat × List (Nat × Nat × Nat) × Nat) e =>
    let s := issueFrom r.2.1 (r.2.2 + nth 0 slack e.2) e.1.granules (pinnedCycles e.1.kind)
    (r.1 ++ [s], (s, e.1.granules, pinnedCycles e.1.kind) :: r.2.1, s + e.1.granules)) ([], flights, i + 2)
  (r.1, r.2.1, r.2.2)

/-- The array of a step. -/
def CoreTime.array (k : CoreTime) (w : BitVec 128) : ArrayTime := nth ⟨0, 0, 0, false⟩ k.arrays (stSub w)

/-- Ramp of a PASS: in DUMMY mode, of the first of the epoch on its array (03 R83). -/
def CoreTime.ramp (k : CoreTime) (w : BitVec 128) : Nat := if k.dummy && !(k.array w).ramped then 128 else 0

/-- The earliest cycle at which the unit of a step accepts it. -/
def CoreTime.accepts (k : CoreTime) (s : TStep) : Nat :=
  match stOp s.word with
  | 1 => max (k.array s.word).loaded (k.array s.word).free - 4 - k.ramp s.word
  | 2 => max (k.array s.word).free (k.array s.word).spaced
  | 3 | 7 => k.vec.2
  | 4 => k.sig - 1
  | 5 | 6 | 10 => k.mover
  | _ => 0

/-- The cycle at which the next step of a core issues, by the posts so far (02 R58). -/
def CoreTime.issue (k : CoreTime) (outside : Arrivals) (events : List TEvent) : Option Nat :=
  match k.left with
  | [] => none
  | s :: _ =>
    let delay := bits s.word.toNat 23 8
    let after := match k.prev with
      | none => delay
      | some p => p + max 1 delay
    let wait := match s.wait with
      | none => some 0
      | some (t, n) => reachedAt outside events k.core t n
    wait.map fun w => max (max after k.hold) (max (k.accepts s) w)

/-- A core after its next step has issued, and the event. -/
def CoreTime.go (k : CoreTime) (bestEffort : Bool) (i : Nat) (s : TStep) (rest : List TStep) : CoreTime × TEvent :=
  let op := stOp s.word
  let a := k.array s.word
  let begins := i + 4 + k.ramp s.word
  let free := begins + s.cycles
  let m := startMoves i s.moves s.slack k.flights
  let barrier := op = 11 ∨ op = 12 ∨ (op = 9 ∧ bestEffort)
  let complete :=
    match op with
    | 1 => free + 65
    | 2 => i + reloadCycles
    | 3 | 7 => max i k.vec.1 + s.cycles
    | 4 | 10 => i + s.cycles
    | 5 | 6 => 1 + ((s.moves.zip m.1).map fun e => e.2 + e.1.granules - 1 + pinnedCycles e.1.kind).foldl max i
    | _ => if barrier then max i k.done else i
  let array :=
    match op with
    | 1 => { a with free := free, ramped := true }
    | 2 => { a with loaded := i + reloadCycles, spaced := i + reloadSpacing }
    | _ => a
  ({ k with
      left := rest, index := k.index + 1, prev := some i
      hold := if barrier then complete else k.hold
      arrays := if op = 1 ∨ op = 2 then setNth k.arrays (stSub s.word) array else k.arrays
      vec := if op = 3 ∨ op = 7 then (complete, k.vec.1) else k.vec
      sig := if op = 4 then complete else k.sig
      mover := if op = 5 ∨ op = 6 then max (i + 1) m.2.2 else if op = 10 then complete else k.mover
      flights := if op = 5 ∨ op = 6 then m.2.1 else k.flights
      done := max k.done complete },
   { core := k.core, index := k.index, step := s, issue := i, complete := complete, starts := if op = 5 ∨ op = 6 then m.1 else [] })

/-- Runs a timeline: of the cores whose next step can issue, the one that issues first goes on. -/
def runTimeline (outside : Arrivals) (bestEffort : Bool) : Nat → List CoreTime → List TEvent → Timeline
  | 0, _, events => { events := events, stuck := none }
  | n + 1, cores, events =>
    let can := cores.filterMap fun k => (k.issue outside events).map fun i => (i, k)
    match can.foldl (fun (b : Option (Nat × CoreTime)) e => match b with
        | some x => if e.1 < x.1 then some e else b
        | none => some e) none with
    | none =>
      let held := cores.filterMap fun k => k.left.head?.map fun s => (k.prev.getD 0, s.station)
      { events := events
        stuck := (held.foldl (fun (b : Option (Nat × Nat)) e => match b with
          | some x => if e.1 < x.1 then some e else b
          | none => some e) none).map Prod.snd }
    | some (i, k) =>
      match k.left with
      | [] => { events := events, stuck := none }
      | s :: rest =>
        let r := k.go bestEffort i s rest
        runTimeline outside bestEffort n (cores.map fun x => if x.core = k.core then r.1 else x) (events ++ [r.2])

/-! ### External arrivals (12 R324, 08 R185, R192, R215) -/

/-- DEADLINE_CLOCK in MHz, or what a free-running job is taken at (R325). -/
def imgClock (img : List Byte) : Nat := if imgLe img 0x10 2 = 0 then 1500 else imgLe img 0x10 2

/-- Work cycles that ns take at DEADLINE_CLOCK, rounded up; and the ns that cycles take. -/
def nsToCycles (img : List Byte) (ns : Nat) : Nat := ceilDiv (ns * imgClock img) 1000
def cyclesToNs (img : List Byte) (c : Nat) : Nat := ceilDiv (c * 1000) (imgClock img)

/-- The latest time after the start of the processing epoch, in ns, at which INGEST posts row l of a slot: T_end + RX_MAX + 2 µs, the
epoch beginning at the end of the slot on air (R185, R192, R215). -/
def rowArrival (img : List Byte) (st l : Nat) : Nat :=
  let mu := paramField img st 1 1
  let ends := ((List.range 4).map fun f => (symbolSpan mu f l).2).foldl max 0
  ((ends + 95) / 96 - slotNsOf mu + paramField img st 0x10 4 + 2000).toNat

/-- When a record that no template posts has reached a threshold: a row tally and the streams of an INGEST station by their rows, all
else on time at the start of the epoch. -/
def recordArrival (img : List Byte) (r n : Nat) : Nat :=
  let rowOf := (List.range (stationCount img)).find? fun st =>
    stationKind img st = 1 && tallyField img r 0 1 == 2 &&
      (let f := (gridBlocks (paramField img st 2 2) (paramField img st 6 1)).1
       decide (paramField img st 0x1C 2 ≤ r) && decide (r < paramField img st 0x1C 2 + f))
  let s := tallyField img r 2 2
  match rowOf with
  | some st => nsToCycles img (rowArrival img st (min 13 (n - 1)))
  | none =>
    if tallyField img r 0 1 = 0 ∧ stationKind img (producerOf img s) = 1 then nsToCycles img (rowArrival img (producerOf img s) 13) else 0

/-- The arrivals of a job: every expanded tally that no step of a template posts. -/
def Site.arrivals (x : Site) : Arrivals :=
  let posted := x.cores.flatMap fun c => (planNumbers x.img).flatMap fun p => (x.steps c p).filterMap fun t => (x.posts t).map (·.tally)
  fun t => if posted.contains t then none else
    some fun n => ((expansion x.img).find? fun e => x.tally e = t).elim 0 fun e => recordArrival x.img e.1 n

/-- A core at the start of an epoch. -/
def Site.coreStart (x : Site) (c p : Nat) : CoreTime :=
  { core := c, dummy := !(x.inp.shape.smoothing c).1, left := x.queue c p, index := 0, prev := none, hold := 0
    arrays := List.replicate 4 ⟨0, 0, 0, false⟩, vec := (0, 0), sig := 0, mover := 0, flights := [], done := 0 }

/-- The timeline of a plan: every core begins the epoch at cycle 0. -/
def Site.timeline (x : Site) (p : Nat) : Timeline :=
  let ks := x.cores.map fun c => x.coreStart c p
  runTimeline x.arrivals (imgBestEffort x.img) (sumNat (ks.map fun k => k.left.length) + 1) ks []

end Sys2Proof.Machine
end

