-- ==== Sys2Proof/Machine/PlaceRules.lean ====
section
/-! DEFINITION. What every accepted placement meets, and the refusals in the order of 02 R72 (01 R37; 02 R54, R60, R66, R593; 03 R86,
R90, R91; 04 R111, R117; 06 R162; 08 R187, R192, R215; 09 R219, R226, R234; 12 R305, R306, R316, R324-R327; 13 R339, R340, R345, R346;
17 R471); the tables that it writes (02 R71). -/

namespace Sys2Proof.Machine

/-- Why placement refuses: sub-reason code, index concerned, amounts required and available (02 R72). -/
structure Lack where
  code : Nat
  index : Nat
  need : Nat
  room : Nat
  deriving DecidableEq, Repr

/-- A lack, unless a condition holds. -/
def Lack.unless (l : Lack) (ok : Bool) : Option Lack := if ok then none else some l

/-- The largest element of a list, 0 for none. -/
def maxNat (l : List Nat) : Nat := l.foldl max 0

/-- A site with the timelines of its plans. -/
structure Laid where
  site : Site
  plans : List (Nat × Timeline)
  deriving DecidableEq, Repr

/-- The timelines of all plans of a site. -/
def Site.lay (x : Site) : Laid := { site := x, plans := (planNumbers x.img).map fun p => (p, x.timeline p) }

/-- The events of a core, in table order. -/
def Timeline.on (t : Timeline) (c : Nat) : List TEvent := t.events.filter fun e => e.core = c

/-! ### 1: TRANSLATION, and what refuses a schedule entry (12 R316, R327; 02 R593) -/

/-- A schedule entry that reads or writes against the record's ACCESS, or a cast set that leaves the partition: E_VERSION. -/
def Site.forbidden (x : Site) : Bool :=
  x.cores.any fun c => (x.allMoves c).any fun m =>
    let access := imgField x.img 0xB 16 m.record 12 1
    (m.hbm && !bit access (if m.kind = 1 then 1 else 0))
      || (m.kind == 4 && (decide (64 < m.cores.length) || m.cores.any fun d => !x.inp.shape.cores.contains d))

def Site.lackTranslation (x : Site) : Option Lack :=
  let past := x.cores.findSome? fun c => ((x.allMoves c).filter fun m => m.hbm && m.paged.isNone).findSome? fun m =>
    let need := ceilDiv (m.far + m.granules) 32768
    Lack.unless ⟨0x0C, m.record, need, recordPages x.img m.record⟩ (decide (need ≤ recordPages x.img m.record))
  past.or (x.cores.findSome? fun c => Lack.unless ⟨0x0C, 0xFFFF, (x.transl c).length, 4096⟩ (decide ((x.transl c).length ≤ 4096)))

/-! ### 3: TALLIES (02 R60, R73; 14 R362) -/

def Site.lackTallies (x : Site) : Option Lack :=
  let need := (expansion x.img).length
  let used := x.pick.tallies.take need
  let free := (List.range x.inp.shape.tallyCount).filter fun t => !x.inp.reserved.tallies.contains t
  (Lack.unless ⟨0x05, 0xFFFF, need, free.length⟩
      (decide (need ≤ free.length) && (need == 0 || (used.length == need && dedup used == used && used.all free.contains)))).or
    (x.cores.findSome? fun c => Lack.unless ⟨0x05, 0xFFFF, (x.binds c).length, 32⟩ (decide ((x.binds c).length ≤ 32)))

/-! ### 4: PORTS (08 R183, R187, R193; 09 R235) -/

/-- INGEST units of a carrier's planes (08 R193). -/
def ingestUnits (mu nRb guard planes prach : Nat) : Nat :=
  let g := gridBlocks nRb guard
  planes * ceilDiv (g.1 * (g.2 + 2 * guard) * 14 * 1000 * 2 ^ mu) 101562500 + prach

/-- The eAxC streams that the INGEST and EGRESS stations of an image bind: (port, VLAN, identifier), 65,536 added to one that EGRESS sends. -/
def boundStreams (img : List Byte) : List (Nat × Nat × Nat) :=
  (List.range (stationCount img)).flatMap fun st =>
    let f := paramField img st
    match stationKind img st with
    | 1 => (List.range (f 8 1 + f 9 1)).map fun k => (f 0 1, f 4 2, f (64 + 8 * k) 2)
    | 0xB => (List.range (f 7 1)).map fun k => (f 0 1, f 4 2, 65536 + f (64 + 8 * k) 2)
    | _ => []

/-- INGEST units of the INGEST stations of an image. -/
def imageUnits (img : List Byte) : Nat :=
  sumNat ((List.range (stationCount img)).map fun st =>
    let f := paramField img st
    if stationKind img st = 1 then ingestUnits (f 1 1) (f 2 2) (f 6 1) (f 8 1) (f 9 1) else 0)

/-- Uplink eAxC streams among bound streams. -/
def uplinkStreams (l : List (Nat × Nat × Nat)) : Nat := (l.filter fun e => e.2.2 < 65536).length

def Site.lackPorts (x : Site) : Option Lack :=
  let mine := boundStreams x.img
  let res := x.inp.reserved
  let station := fun st =>
    if stationKind x.img st ∈ [1, 0xB] then
      let f := paramField x.img st
      Lack.unless ⟨0x0B, st, 1, 0⟩ (x.inp.shape.vlans.any fun v => v.mac = f 0 1 ∧ v.kind = 0 ∧ v.vid = f 4 2)
    else none
  let units := imageUnits x.img
  (((List.range (stationCount x.img)).findSome? station).or (Lack.unless ⟨0x0B, 0xFFFF, 1, 0⟩ (mine.all fun e => !res.eaxc.contains e))).or
    (Lack.unless ⟨0x0B, 0xFFFF, units, 512 - res.units⟩
      (units == 0 || (decide (units + res.units ≤ 512) && decide (uplinkStreams mine + uplinkStreams res.eaxc ≤ 512))))

/-! ### 5: DECODERS (09 R219, R226) -/

/-- Numerology of an image: of its first INGEST or EGRESS station. -/
def imageMu (img : List Byte) : Nat :=
  (((List.range (stationCount img)).find? fun st => stationKind img st ∈ [1, 0xB]).map fun st => paramField img st 1 1).getD 0

/-- Cycles of the decode interval of a slot, and of its encode interval (09 R226, R234; 08 R215): both begin with a coding frame. -/
def decodeSpan (mu : Nat) : Nat := 1200 * (match mu with | 0 => 980 | 1 => 480 | _ => 230)
def encodeSpan (mu : Nat) : Nat := slotNsOf mu * 1200 / 1000

/-- Cycles that windows give within an interval that begins with a coding frame. -/
def cyclesWithin (span : Nat) (windows : List (Nat × Nat)) : Nat :=
  sumNat ((List.range (ceilDiv span 150000)).map fun k =>
    sumNat ((windows.filter fun w => decide (150000 * k + w.1 + w.2 ≤ span)).map Prod.snd))

/-- The engines of a kind that a shape owns and the mend map leaves. -/
def Site.engines (x : Site) (kind : Nat) : List Nat :=
  let q := x.inp.shape
  (match kind with | 1 => q.ld | 2 => q.pl | _ => q.le).filter fun e => !x.inp.mend.contains ⟨kind, e⟩

/-- The demands of a coding station: (KIND of engine, cycles per slot, interval). -/
def codingDemand (img : List Byte) (st : Nat) : List (Nat × Nat × Nat) :=
  let f := paramField img st
  match stationKind img st with
  | 7 => [(1, f 0x0C 4, decodeSpan (imageMu img)), (2, f 0x10 4, decodeSpan (imageMu img))]
  | 8 => [(3, f 8 4, encodeSpan (imageMu img)), (2, f 0x0C 4, encodeSpan (imageMu img))]
  | _ => []

/-- Whether two windows of one engine share a cycle. -/
def windowsMeet (a b : Nat × Nat × Nat × Nat) : Bool := a.1 == b.1 && a.2.1 == b.2.1 && overlap a.2.2.1 a.2.2.2 b.2.2.1 b.2.2.2

def Site.lackDecoders (x : Site) : Option Lack :=
  let ws := x.pick.windows.map Prod.snd
  let sound := ws.zipIdx.all fun w =>
    let (kind, engine, first, n) := w.1
    (x.engines kind).contains engine && decide (first + n ≤ 150000) && !(x.inp.reserved.windows.any fun v => windowsMeet w.1 v)
      && !((ws.take w.2).any fun v => windowsMeet w.1 v)
  (List.range (stationCount x.img)).findSome? fun st => (codingDemand x.img st).findSome? fun d =>
    let mine := (x.pick.windows.filter fun w => w.1 = st ∧ w.2.1 = d.1).map fun w => w.2.2.2
    let need := ceilDiv d.2.1 (max 1 (d.2.2 / 150000))
    Lack.unless ⟨0x0A, st, need, 150000 * (x.engines d.1).length⟩ (d.2.1 == 0 || (sound && decide (d.2.1 ≤ cyclesWithin d.2.2 mine)))

/-! ### 6: ARRAYS, and where instances may stand (02 R40, R47, R51, R593; 03 R86; 04 R117; 13 R340) -/

/-- Whether an instance is exact (04 R116). -/
def exactInstance (img : List Byte) (st i : Nat) : Bool :=
  (List.range (imgCount img 0xF)).any fun r =>
    let f := imgField img 0xF 16 r
    f 0 2 == st && decide (f 2 2 ≤ i) && decide (i < f 2 2 + f 4 2)

/-- Instances of the stations of a kind. -/
def kindInstances (img : List Byte) (kind : Nat) : Nat :=
  sumNat (((List.range (stationCount img)).filter fun st => stationKind img st = kind).map (instanceCount img))

/-- The first station whose instances outnumber the cores, for a sub-reason. -/
def Site.lackCores (x : Site) (code kind : Nat) : Option Lack :=
  let n := x.inp.shape.owned.length
  ((List.range (stationCount x.img)).find? fun st => stationKind x.img st = kind).bind fun st =>
    Lack.unless ⟨code, st, kindInstances x.img kind, n⟩ (decide (kindInstances x.img kind ≤ n))

/-- Exact instances need exact cores, which no other instance shares (04 R117). -/
def Site.lackExact (x : Site) : Option Lack :=
  let all := coreInstances x.img
  let exact := all.filter fun e => exactInstance x.img e.1 e.2
  let on := dedup (exact.map fun e => x.home e.1 e.2)
  exact.head?.bind fun e =>
    Lack.unless ⟨0x02, e.1, on.length, x.inp.shape.exact.length⟩
      (on.all x.inp.shape.exact.contains && all.all fun e => exactInstance x.img e.1 e.2 || !on.contains (x.home e.1 e.2))

/-- Whether an instance stands where the rules of placement let it: a core that the load names and the mend map leaves, a group on one
core, one instance of a station to a core (DEDUCED, log 98), a STORE consumer on the producer's core (02 R593), and on a borrowed core
no latency-critical and no SIGNAL instance. -/
def Site.standsWell (x : Site) (e : Nat × Nat) : Bool :=
  let c := x.home e.1 e.2
  x.inp.cores.contains c && !x.inp.mend.contains ⟨0, c⟩
    && ((x.on c).filter fun k => k.1 = e.1) == [e]
    && ((coreInstances x.img).all fun k => !(sameCore x.img e.1 k.1 && k.2 == e.2) || x.home k.1 k.2 == c)
    && ((List.range (imgCount x.img 3)).all fun s =>
      !(consumerOf x.img s == e.1 && stationKind x.img e.1 == 0xA && modeOf x.img s == 0 && homeOf x.img s == 1)
        || chipKind (stationKind x.img (producerOf x.img s)) || x.home (producerOf x.img s) e.2 == c)
    && ((x.inp.shape.borrowing c).isNone || (imgBestEffort x.img && stationKind x.img e.1 != 5))

def Site.lackHomes (x : Site) : Option Lack :=
  let limit := imgLe x.img 0x12 2
  ((coreInstances x.img).findSome? fun e => Lack.unless ⟨0x02, e.1, x.cores.length, x.inp.cores.length⟩ (x.standsWell e)).or
    (Lack.unless ⟨0x02, 0xFFFF, x.cores.length, limit⟩ (limit == 0 || decide (x.cores.length ≤ limit)))

/-- Epoch budget in work cycles, if there is one (02 R72). -/
def epochBudget (img : List Byte) : Option Nat :=
  let p := imgLe img 0x18 4
  if p = 0 then none else some (p * imgLe img 0x10 2 / 1000)

/-- The first group of steps, on a core in a plan, whose cycles exceed the epoch budget: `pick`: the cycles of a step in a group, none if it
is not of the group. -/
def Laid.overBudget (l : Laid) (code : Nat) (groups : List Nat) (pick : Bool → Nat → List TEvent → TEvent → Option Nat) : Option Lack :=
  (epochBudget l.site.img).bind fun budget => l.plans.findSome? fun t => l.site.cores.findSome? fun c => groups.findSome? fun g =>
    let es := t.2.on c
    let parts := es.filterMap fun e => (pick (l.site.inp.shape.smoothing c).1 g es e).map fun n => (e.step.station, n)
    let sum := sumNat (parts.map Prod.snd)
    Lack.unless ⟨code, (parts.head?.map Prod.fst).getD 0xFFFF, sum, budget⟩ (decide (sum ≤ budget))

/-- Work cycles that a step occupies an array: the interval of a PASS and its ramp, which in DUMMY mode the first of the epoch carries; the
32 of a RELOAD (02 R72, 03 R83). -/
def arrayLoad (gate : Bool) (a : Nat) (es : List TEvent) (e : TEvent) : Option Nat :=
  if stSub e.step.word ≠ a then none
  else
    match stOp e.step.word with
    | 1 =>
      let first := (es.filter fun k => stOp k.step.word = 1 ∧ stSub k.step.word = a ∧ k.index < e.index).isEmpty
      some (e.step.cycles + if !gate && first then 128 else 0)
    | 2 => some reloadCycles
    | _ => none

/-- The cycles of steps with an operation code in a list. -/
def opLoad (ops : List Nat) (_ : Bool) (_ : Nat) (_ : List TEvent) (e : TEvent) : Option Nat :=
  if ops.contains (stOp e.step.word) then some e.step.cycles else none

def Laid.lackArrays (l : Laid) : Option Lack :=
  (((l.site.lackCores 0x02 3).or l.site.lackExact).or l.site.lackHomes).or (l.overBudget 0x02 [0, 1, 2, 3] arrayLoad)

/-- 7: VECTOR, counting VEC and MINT steps (04 R111). -/
def Laid.lackVector (l : Laid) : Option Lack := (l.site.lackCores 0x03 4).or (l.overBudget 0x03 [0] (opLoad [3, 7]))

/-- 8: SIGNAL; at most one SIGNAL instance on a core (06 R162). -/
def Laid.lackSignal (l : Laid) : Option Lack :=
  ((l.site.lackCores 0x04 5).or
    (Lack.unless ⟨0x04, 0xFFFF, kindInstances l.site.img 5, l.site.inp.shape.owned.length⟩
      (l.site.cores.all fun c => decide ((l.site.ofKind c 5).length ≤ 1)))).or (l.overBudget 0x04 [0] (opLoad [4]))

/-! ### 9: SCRATCH (02 R60, R66; 03 R78; 05 R123; 06 R162; 12 R305, R306, R323, R327) -/

/-- Buffers and private areas lie in the segments of the core and share no granule; a cast stream's staging buffer lies at the same granules
on every core of the set. -/
def Site.lackLayout (x : Site) : Option Lack :=
  x.cores.findSome? fun c =>
    let rs := x.ranges c
    let segs := x.segments c
    let inside := (List.range 12).all fun n => segs.contains n || !rs.any (inSegment · n)
    let apart := rs.zipIdx.all fun r => decide (r.1.1 + r.1.2 ≤ 49152) && !(rs.take r.2).any fun q => overlap r.1.1 r.1.2 q.1 q.2
    let alike := (x.allMoves c).all fun m => m.kind != 4 || m.cores.all fun d =>
      (x.rings d).any fun r => r.side == 2 && decide (r.first ≤ m.near) && decide (m.near + m.granules ≤ r.first + r.spacing * r.depth)
    Lack.unless ⟨0x01, 0xFFFF, sumNat (rs.map Prod.snd), 4096 * segs.length⟩ (inside && apart && alike)

/-- Steps of a plan on a core with EPOCH_END. -/
def Site.planLength (x : Site) (c p : Nat) : Nat := (x.steps c p).length + 1

/-- A memory of the core's tables: amount, limit, entries of a granule. -/
def tableLack (need limit per : Nat) : Option Lack := Lack.unless ⟨0x01, 0xFFFF, ceilDiv need per, limit / per⟩ (decide (need ≤ limit))

def Site.lackTables (x : Site) : Option Lack :=
  x.cores.findSome? fun c =>
    let ps := (planNumbers x.img).map (x.planLength c)
    ((((((tableLack (sumNat ps) 32768 4).or (ps.findSome? fun n => tableLack n 16384 4)).or (tableLack (x.operands c).length 256 2)).or
      (tableLack (x.vectorCode c).length 8192 8)).or (tableLack (x.signalProgram c).length 16384 8)).or
      (tableLack (x.allMoves c).length 8192 4)).or
      (Lack.unless ⟨0x01, 0xFFFF, (x.castSets c).length, 64⟩ (decide ((x.castSets c).length ≤ 64)))

/-- Quarter granules per work cycle of a feeder on input rows (03 R82). -/
def feederDemand (fmt : Nat) : Nat :=
  if fmt = 0x00 then 1 else if fmt ∈ [0x01, 0x02, 0x0B] then 2 else if isMx fmt then (if fmt ∈ [0x06, 0x07] then 12 else 8) else 4

/-- The streams of the operand pairs that the steps of an array use: (input, stationary, pair's station and number). -/
def Site.arrayPairs (x : Site) (c a : Nat) : List (Nat × Nat × Nat × Nat) :=
  dedup ((planNumbers x.img).flatMap fun p => ((x.steps c p).filter fun t => stOp t.word = 2 ∧ stSub t.word = a).map fun t =>
    let e := rlEntry (stArg t.word)
    (paramField x.img t.station (16 + 16 * e) 2, paramField x.img t.station (16 + 16 * e + 2) 2, t.station, e))

/-- Whether a buffer of a stream on a core reaches into a segment. -/
def Site.streamIn (x : Site) (c n s : Nat) : Bool := (x.rings c).any fun r => r.stream == s && inSegment (r.first, r.spacing * r.depth) n

/-- Whether a station instance of a kind on a core accesses a segment: buffers that its record names, streams at whose ends it stands, its
private area. -/
def Site.unitIn (x : Site) (c n : Nat) (kinds : List Nat) : Bool :=
  ((x.on c).filter fun e => kinds.contains (stationKind x.img e.1)).any fun e =>
    let record := if stationKind x.img e.1 ∈ [4, 5] ∧ paramAt x.img e.1 ≠ 0xFFFFFFFF then
      (List.range (paramField x.img e.1 0 2)).map fun b => paramField x.img e.1 (16 + 8 * b) 2 else []
    let ends := (List.range (imgCount x.img 3)).filter fun s => producerOf x.img s = e.1 ∨ consumerOf x.img s = e.1
    (record ++ ends).any (x.streamIn c n)
      || ((x.privates c).any fun p => p.1 == e.1 && inSegment (p.2.1, p.2.2 / 64) n)

/-- Quarter granules per work cycle that a segment's internal port serves at the peak (R305). -/
def Site.demand (x : Site) (c n : Nat) : Nat :=
  let feeder := fun a => maxNat ((x.arrayPairs c a).map fun e =>
    max (if x.streamIn c n e.1 then feederDemand (streamTile x.img e.1).format else 0)
      (if x.streamIn c n e.2.1 then 4 * ((streamTile x.img e.2.1).rowStride + paramField x.img e.2.2.1 (16 + 16 * e.2.2.2 + 8) 1 % 2) else 0))
  let mover := (x.allMoves c).any (fun m => m.kind != 4 && inSegment (m.near, m.granules) n)
    || (planNumbers x.img).any fun p => (x.steps c p).any fun t => stOp t.word = 10 && x.streamIn c n (stStream t.word)
  sumNat ((List.range 4).map feeder) + (if x.unitIn c n [4, 6] then 16 else 0) + (if x.unitIn c n [5] then 4 else 0) + if mover then 4 else 0

def Site.lackDemand (x : Site) : Option Lack :=
  let all := x.cores.flatMap fun c => (List.range 12).map (x.demand c)
  Lack.unless ⟨0x01, 0xFFFF, ceilDiv (maxNat all) 4, 8⟩ (decide (maxNat all ≤ 32))

/-- No segment holds an INGEST target and a landing of another core's transfer (R306). -/
def Site.lackLandings (x : Site) : Option Lack :=
  let landings := x.cores.flatMap fun c => ((x.allMoves c).filter fun m => m.kind = 2 ∨ m.kind = 4).flatMap fun m =>
    m.cores.map fun d => (d, if m.kind = 2 then m.far else m.near, m.granules)
  x.cores.findSome? fun c => (x.rings c).findSome? fun r =>
    Lack.unless ⟨0x01, r.stream, 1, 0⟩ (stationKind x.img (producerOf x.img r.stream) != 1 ||
      (List.range 12).all fun n => !inSegment (r.first, r.spacing * r.depth) n || !landings.any fun l => l.1 == c && inSegment l.2 n)

/-- Live bytes of a core at a checkpoint (02 R66). -/
def Site.live (x : Site) (c k : Nat) : Nat :=
  let f := imgField x.img 0xA 16 k
  let listed := (List.range (f 4 2)).map fun e => constField x.img (f 0 4 + 2 * e) 2
  sumNat (((x.rings c).filter fun r => listed.contains r.stream).map fun r => 64 * r.spacing * r.depth)
    + if bit (f 6 2) 0 then sumNat ((x.privates c).map fun p => p.2.2) else 0

/-- The largest live state of a best-effort job on a core. -/
def Site.liveMost (x : Site) : Nat := maxNat (x.cores.flatMap fun c => (List.range (imgCount x.img 0xA)).map (x.live c))

/-- Bytes of a save region that a core needs (16 R432). -/
def saveBytes : Nat := 266240

/-- Live state at a checkpoint; the save region, which the firmware's own jobs do not take from a command. -/
def Site.lackLive (x : Site) : Option Lack :=
  if ¬ imgBestEffort x.img then none
  else
    (Lack.unless ⟨0x01, 0xFFFF, ceilDiv x.liveMost 64, 4096⟩ (decide (x.liveMost ≤ 262144))).or
      (x.inp.save.bind fun v => Lack.unless ⟨0x01, 0xFFFF, saveBytes * x.cores.length / 64, v.2 * pageBytes / 64⟩
        (decide (saveBytes * x.cores.length ≤ v.2 * pageBytes)))

def Site.lackScratch (x : Site) : Option Lack :=
  (((x.lackLayout.or x.lackTables).or x.lackDemand).or x.lackLandings).or x.lackLive

/-! ### 10, 11: PURSE_HBM, PURSE_LINK (12 R325; 13 R345, R346; 17 R471) -/

/-- A run of granules that issue one a cycle: first cycle, granules, stack if one is known. -/
abbrev Burst := Nat × Nat × Option Nat

/-- Granules of bursts that issue in window w of 1,024 work cycles. -/
def windowGranules (bs : List Burst) (w : Nat) : Nat :=
  sumNat (bs.map fun b => min (b.1 + b.2.1) (1024 * (w + 1)) - max b.1 (1024 * w))

/-- The most granules of bursts in any window. -/
def peakGranules (bs : List Burst) : Nat :=
  maxNat ((List.range (maxNat (bs.map fun b => b.1 + b.2.1) / 1024 + 1)).map (windowGranules bs))

/-- MB/s of so many granules in a window, rounded up. -/
def granuleRate (img : List Byte) (n : Nat) : Nat := ceilDiv (n * imgClock img) 16

/-- The bursts of a transfer: one for each page that it touches; the stack of a paged tile is known at its epoch only. -/
def Site.bursts (x : Site) (m : Transfer) (start : Nat) : List Burst :=
  let stack := fun g => if m.paged.isSome then none else some (nth 0 x.inp.shape.allot (recordFirst x.img m.record + g / 32768) / 12288)
  let n := 32768 - m.far % 32768
  if m.granules ≤ n then [(start, m.granules, stack m.far)]
  else [(start, n, stack m.far), (start + n, m.granules - n, stack (m.far + n))]

/-- The HBM bursts of a plan. -/
def Laid.hbmBursts (l : Laid) (t : Timeline) : List Burst :=
  t.events.flatMap fun e => (e.step.moves.zip e.starts).flatMap fun m => if m.1.hbm then l.site.bursts m.1 m.2 else []

def Laid.lackPurse (l : Laid) : Option Lack :=
  let x := l.site
  let purse := x.inp.shape.purseHbm
  let windows := l.plans.findSome? fun t =>
    let bs := l.hbmBursts t.2
    let one := fun (bs : List Burst) (room : Nat) =>
      Lack.unless ⟨0x07, 0xFFFF, granuleRate x.img (peakGranules bs), room⟩ (decide (granuleRate x.img (peakGranules bs) ≤ room))
    (one bs purse).or ((List.range 4).findSome? fun k => one (bs.filter fun b => b.2.2 = some k) (purse / 4))
  let save := (x.liveMost + 4096) * x.cores.length
  let saves := if imgBestEffort x.img ∧ x.cores ≠ [] then Lack.unless ⟨0x07, 0xFFFF, ceilDiv save 8, purse⟩ (decide (save ≤ 8 * purse)) else none
  let iod := ((List.range (stationCount x.img)).filter fun st => stationKind x.img st ∈ [7, 8, 9, 0xB]).findSome? fun st =>
    let all := sumNat (((List.range (st + 1)).filter fun k => stationKind x.img k ∈ [7, 8, 9, 0xB]).map (Config.iodDemand x.img))
    Lack.unless ⟨0x07, st, all, x.inp.shape.purseIod⟩ (decide (all ≤ x.inp.shape.purseIod))
  (windows.or saves).or iod

/-- Granules of a tile that a LINK station sends, narrowed when an exact instance makes it (17 R472, 04 R118). -/
def sentGranules (img : List Byte) (s : Nat) : Nat :=
  let t := streamTile img s
  let narrow := (List.range (imgCount img 0xF)).findSome? fun r =>
    let f := imgField img 0xF 16 r
    if f 0 2 = producerOf img s ∧ f 6 1 ≠ 0xFF then some (f 6 1) else none
  match narrow with
  | some fmt => t.rows * t.planes * ceilDiv (rowFootprint fmt t.elems) 64
  | none => t.spacing

/-- The bursts by which a plan sends a stream: each tile when its produced count is seen. -/
def Laid.sendBursts (l : Laid) (t : Timeline) (s : Nat) : List Burst :=
  match producedRecord l.site.img s with
  | none => []
  | some r =>
    let mine := (List.range (recordTallies l.site.img r)).map fun k => l.site.tally (r, k)
    t.events.filterMap fun e => e.step.post.bind fun p =>
      if mine.contains p.1 then some (e.complete + postCycles, p.2 * sentGranules l.site.img s, none) else none

def Laid.lackLink (l : Laid) : Option Lack :=
  let x := l.site
  ((List.range (stationCount x.img)).filter fun st => stationKind x.img st = 9).findSome? fun st =>
    let f := paramField x.img st
    let purse := x.inp.shape.purseLink
    let entry := fun e off n => f (32 + 16 * e + off) n
    let es := (List.range (f 0 2)).filter fun e => entry e 0 1 ≤ 1
    let sends := fun (t : Timeline) (port : Option Nat) =>
      ((es.filter fun e => entry e 0 1 = 0 ∧ (port = none ∨ some (Nat.log2 (entry e 1 1)) = port))).flatMap fun e => l.sendBursts t (entry e 2 2)
    let one := fun (bs : List Burst) (room : Nat) =>
      Lack.unless ⟨0x08, st, granuleRate x.img (peakGranules bs), room⟩ (decide (granuleRate x.img (peakGranules bs) ≤ room))
    (((Lack.unless ⟨0x08, st, f 4 1, x.inp.members⟩ (f 4 1 == x.inp.members)).or
      (es.findSome? fun e => Lack.unless ⟨0x08, st, 1, 0⟩ (x.inp.ports.contains (Nat.log2 (entry e 1 1))))).or
      (l.plans.findSome? fun t => ((List.range 4).findSome? fun k => one (sends t.2 (some k)) (purse / 4)).or (one (sends t.2 none) purse)))

/-! ### 12: DEADLINE (02 R54, R66; 03 R86; 08 R192, R215; 09 R234; 12 R324) -/

/-- The events of a plan that post a record's tallies: the event and the amount. -/
def Laid.posting (l : Laid) (t : Timeline) (r : Nat) : List (TEvent × Nat) :=
  let mine := (List.range (recordTallies l.site.img r)).map fun k => l.site.tally (r, k)
  t.events.filterMap fun e => e.step.post.bind fun p => if mine.contains p.1 then some (e, p.2) else none

/-- The cycle at which the last tile of an epoch on a stream is available to its consumer. -/
def Laid.lastTile (l : Laid) (t : Timeline) (s : Nat) : Nat :=
  let img := l.site.img
  let q := consumerOf img s
  let near := fun c => (List.range (instanceCount img q)).all fun i => l.site.at_ q i c
  match producedRecord img s with
  | none => if stationKind img (producerOf img s) = 1 then nsToCycles img (rowArrival img (producerOf img s) 13) else 0
  | some r =>
    match l.posting t r with
    | [] => recordArrival img r 14
    | es => maxNat (es.map fun e => e.1.complete + if near e.1.core then 0 else postCycles)

/-- The last cycle of a plan. -/
def Timeline.length (t : Timeline) : Nat := maxNat (t.events.map (·.complete))

/-- A lack of time in ns, where cycles exceed a limit in ns. -/
def late (img : List Byte) (index cycles limit : Nat) : Option Lack :=
  Lack.unless ⟨0x09, index, cyclesToNs img cycles, limit⟩ (decide (cyclesToNs img cycles ≤ limit))

/-- DEADLINES records (02 R54): an offset from the start of the invocation is held for its epoch 0 (DEDUCED, log 98). -/
def Laid.lackRecords (l : Laid) (t : Timeline) : Option Lack :=
  (List.range (imgCount l.site.img 9)).findSome? fun r =>
    let f := imgField l.site.img 9 16 r
    let first := if f 2 1 = 2 then (t.events.map (·.issue)).foldl min (t.length) else 0
    late l.site.img (f 0 2) (l.lastTile t (f 0 2) - first) (f 4 4)

/-- The issue cycles of a core's CHECKPOINT steps in a plan, and the cycle at which it ends the epoch. -/
def Timeline.points (t : Timeline) (c : Nat) : List Nat := ((t.on c).filter fun e => stOp e.step.word = 9).map (·.issue)
def Timeline.ends (t : Timeline) (c : Nat) : Nat := maxNat ((t.on c).map (·.complete))

/-- Gaps between neighbours of a list. -/
def gaps : List Nat → List Nat
  | a :: b :: l => (b - a) :: gaps (b :: l)
  | _ => []

/-- Work cycles between consecutive CHECKPOINT issues of a best-effort job, round the epoch boundary, one plan after any other; a plan
without a CHECKPOINT on a core has no bound (02 R66). -/
def Laid.lackSpacing (l : Laid) : Option Lack :=
  if ¬ imgBestEffort l.site.img then none
  else
    l.site.cores.findSome? fun c => l.plans.findSome? fun t => l.plans.findSome? fun u =>
      match (t.2.points c).getLast?, (u.2.points c).head? with
      | some a, some b =>
        let worst := max (maxNat (gaps (t.2.points c))) (t.2.ends c - a + b)
        Lack.unless ⟨0x09, 0xFFFF, worst, 14000⟩ (decide (worst ≤ 14000))
      | _, _ => some ⟨0x09, 0xFFFF, 0xFFFFFFFF, 14000⟩

/-- The first RELOADs of arrays 1-3 stand ⌊(P + 32) ÷ 4⌋ × a cycles after that of array 0 (03 R86). -/
def Laid.lackStagger (l : Laid) (t : Timeline) : Option Lack :=
  l.site.cores.findSome? fun c =>
    let es := t.on c
    let first := fun op a => es.find? fun e => stOp e.step.word = op ∧ stSub e.step.word = a
    (first 2 0).bind fun z => (first 1 0).bind fun p => [1, 2, 3].findSome? fun a => (first 2 a).bind fun e =>
      let due := z.issue + (p.step.cycles + 32) / 4 * a
      Lack.unless ⟨0x09, e.step.station, cyclesToNs l.site.img e.issue, cyclesToNs l.site.img due⟩ (e.issue == due)

/-- What the air interface asks of the plan of a cell: grid buffers are released before their slot is written again (08 R192), the codeword
LLRs are complete (R215), the symbol tiles are posted (09 R234). -/
def Laid.lackAir (l : Laid) (t : Timeline) : Option Lack :=
  let img := l.site.img
  let released := fun s => match (List.range (imgCount img 8)).find? fun r => tallyField img r 0 1 = 1 ∧ tallyField img r 2 2 = s with
    | some r => (match l.posting t r with
      | [] => t.length
      | es => maxNat (es.map fun e => e.1.complete + postCycles))
    | none => t.length
  (List.range (stationCount img)).findSome? fun st =>
    let f := paramField img st
    let slot := slotNsOf (f 1 1)
    match stationKind img st with
    | 1 =>
      ((List.range (imgCount img 3)).filter fun s => producerOf img s = st).findSome? fun s =>
        let begins := (symbolSpan (f 1 1) 0 0).2.toNat / 96 + f 0x0C 4
        late img s (released s) ((streamField img s 8 2 - 1) * slot + begins)
    | 7 => late img (f 2 2) (l.lastTile t (f 2 2)) (slotNsOf (imageMu img))
    | 0xB =>
      (producedRecord img (f 0xA 2)).bind fun r =>
        let tally := l.site.tally (r, 0)
        (List.range 14).findSome? fun k =>
          let start := ((List.range 4).map fun q => (symbolSpan (f 1 1) q k).1).foldl min (symbolSpan (f 1 1) 0 k).1
          let due := ((slot : Int) + start / 96 - (f 0xC 4 : Nat) - 2000).toNat
          match reachedAt (fun _ => none) t.events 0xFFFF tally (k + 1 : Nat) with
          | some c => late img (f 0xA 2) c due
          | none => some ⟨0x09, f 0xA 2, 0xFFFFFFFF, due⟩
    | _ => none

def Laid.lackDeadline (l : Laid) : Option Lack :=
  let img := l.site.img
  let period := imgLe img 0x18 4
  let stuck := l.plans.findSome? fun t => t.2.stuck.map fun st => (⟨0x09, st, 0xFFFFFFFF, if period = 0 then 0xFFFFFFFF else period⟩ : Lack)
  let times := l.plans.findSome? fun t =>
    (((l.lackRecords t.2).or (if period = 0 then none else late img 0xFFFF t.2.length period)).or (l.lackStagger t.2)).or (l.lackAir t.2)
  (stuck.or times).or l.lackSpacing

/-- The checks of 02 R72 in order. No station takes a till by placement: 6, TILLS, never fails (log 98). -/
def Laid.lack (l : Laid) : Option Lack :=
  let x := l.site
  ((((((((((x.lackTranslation.or x.lackTallies).or x.lackPorts).or x.lackDecoders).or l.lackArrays).or l.lackVector).or l.lackSignal).or
    x.lackScratch).or l.lackPurse).or l.lackLink).or l.lackDeadline)

/-! ### The tables (02 R60, R71; 12 R323; 13 R339) -/

/-- The tallies that FEED and STORE steps post. -/
def Site.carried (x : Site) : List Nat :=
  x.cores.flatMap fun c => (planNumbers x.img).flatMap fun p => ((x.steps c p).filter fun t => stOp t.word = 5 ∨ stOp t.word = 6).filterMap fun t =>
    (x.posts t).map (·.tally)

/-- The step table of a core in a plan: a step that waits for a transfer gets a DELAY that makes it issue when the transfer has landed, as
far as DELAY reaches (12 R324; DEDUCED, log 98). -/
def Laid.table (l : Laid) (t : Timeline) (c : Nat) : List (BitVec 128) :=
  let es := t.on c
  let moved := l.site.carried
  es.mapIdx fun k e =>
    let gap := e.issue - (if k = 0 then 0 else ((es[k - 1]?).map (·.issue)).getD 0)
    if e.step.wait.any fun w => moved.contains w.1 then
      BitVec.ofNat 128 (putBits e.step.word.toNat 23 8 (min 65535 (max (bits e.step.word.toNat 23 8) gap)))
    else e.step.word

/-- The schedule of a core: entries by plan × 32,768 + step. -/
def Laid.schedule (l : Laid) (c : Nat) : Tbl (List (BitVec 128)) :=
  l.plans.flatMap fun t => ((t.2.on c).filter fun e => !e.step.moves.isEmpty).map fun e =>
    (t.1 * 32768 + e.index, (e.step.moves.zip e.starts).map fun m => l.site.entry c (stStream e.step.word) m.1 (m.2 - e.issue))

/-- Rows of the input tile of an operand entry of a core. -/
def Site.entryRows (x : Site) (c e : Nat) : Nat := (opEntry (nth 0 (x.operands c) e)).tile.rows

/-- Whether an array may lose its state before the steps of a core that follow: the rest of a plan, then any plan (03 R90, R91). -/
def Laid.trail (l : Laid) (c : Nat) (rest : List (BitVec 128)) : Bool :=
  l.plans.all fun u => trailOk (l.site.entryRows c) ((0x09 : BitVec 128) :: rest ++ (u.2.on c).map (·.step.word))

/-- The lent windows of a core: gaps of at least 40 µs between consecutive steps, of a plan and round the end of its epoch (13 R339). -/
def Laid.windows (l : Laid) (c : Nat) : List (Nat × Nat × Nat) :=
  let img := l.site.img
  let least := 40 * imgLe img 0x10 2
  if imgBestEffort img ∨ least = 0 then []
  else
    l.plans.flatMap fun t =>
      let es := t.2.on c
      let ws := es.map (·.step.word)
      let inner := ((List.range (es.length - 1)).filter fun k =>
        let ended := maxNat ((es.take (k + 1)).map (·.complete))
        decide (ended + least ≤ ((es[k + 1]?).map (·.issue)).getD 0) && l.trail c (ws.drop (k + 1))).map fun k => (t.1, k, k + 1)
      let round := (epochBudget img).elim false fun b =>
        decide (t.2.ends c + least ≤ b + (l.plans.map fun u => ((u.2.on c).head?.map (·.issue)).getD 0).foldl min b) && l.trail c []
      inner ++ if round then [(t.1, es.length - 1, 0)] else []

/-- A best-effort core's passes after a CHECKPOINT, over the tables of all its stations (03 R90): E_VERSION. -/
def Laid.unsafeTrail (l : Laid) : Bool :=
  imgBestEffort l.site.img && l.site.cores.any fun c => l.plans.any fun t => l.plans.any fun u =>
    !trailOk (l.site.entryRows c) (((t.2.on c) ++ (u.2.on c)).map (·.step.word))

/-- The tables of a core. -/
def Laid.inst (l : Laid) (c : Nat) : Inst :=
  let x := l.site
  { core := c, stations := x.on c
    vecProg := tableOf (x.vectorCode c), sigProg := tableOf (x.signalProgram c), sigX := tableOf (x.initial c 2 6), sigY := tableOf (x.initial c 8 0xC)
    opfile := tableOf (x.operands c)
    plans := (List.range 8).map fun p => ((l.plans.find? fun t => t.1 = p).map fun t => l.table t.2 c).getD []
    binds := x.binds c, rings := x.rings c, pageLists := ((x.pick.pageLists.find? fun e => e.1 = c).map Prod.snd).getD 0
    segments := x.used c, transl := x.transl c, sched := l.schedule c, castSets := x.castSets c, privates := x.privates c
    constants := x.constants c, windows := l.windows c, phase := .idle, plan := 0, epoch := 0, step := 0, issued := [], due := 0, late := false
    minted := [], waitSince := 0, yieldSince := 0, saved := [] }

/-- The group tallies that LINK stations bind (17 R471, R474): (TALLIES index, partition tally, barrier). -/
def Site.groupTallies (x : Site) : List (Nat × Nat × Bool) :=
  ((List.range (stationCount x.img)).filter fun st => stationKind x.img st = 9).flatMap fun st =>
    ((List.range (paramField x.img st 0 2)).filter fun e => 2 ≤ paramField x.img st (32 + 16 * e) 1).map fun e =>
      let r := paramField x.img st (32 + 16 * e + 6) 2
      (r, x.tally (r, 0), paramField x.img st (32 + 16 * e) 1 == 3)

/-- What placement produces, its digest over the form that the tellers write (02 R71). -/
def Laid.placed (l : Laid) : Placed :=
  let x := l.site
  let p : Placed :=
    { insts := x.cores.map l.inst, digest := 0
      tallies := (expansion x.img).map fun e => (x.tally e, tallyField x.img e.1 0 1, e.1)
      groups := x.groupTallies
      groupTag := (((List.range (stationCount x.img)).find? fun st => stationKind x.img st = 9).map fun st => paramField x.img st 2 2).getD 0
      tills := [], windows := x.pick.windows.map Prod.snd }
  { p with digest := BitVec.ofNat 64 (crc64 (Config.placementBytes p)) }

/-- Placement by the rules, with what the release chooses (02 R71, R72, R595). -/
def placing (img : List Byte) (inp : PlaceIn) (pick : Choice) : Placing :=
  let l := ({ img := img, inp := inp, pick := pick } : Site).lay
  if l.site.forbidden ∨ l.unsafeTrail then .refused eVersion 0 0 0
  else
    match l.lack with
    | some k => .refused eNofit (k.code + k.index * 65536) k.need k.room
    | none => .accepted l.placed

end Sys2Proof.Machine
end

