-- ==== Sys2Proof/Machine/Cmd.lean ====
section
/-! DEFINITION. How the tellers take a command and check it: order, reply till, session, opcode, length
(15 R406, R407; 16 R417-R431, R444). -/

namespace Sys2Proof.Machine

/-! ### Who may send -/

/-- PF0 and management (16 R430). -/
def isRoot : Source → Bool
  | .fn f => f.val = 0
  | .mgmt => true
  | .client _ => false

/-- The partition a source is bound to (13 R333). -/
def srcPart (s : State) : Source → Option Nat
  | .fn f => boundTo s f.val
  | _ => none

/-- PF0, management, and functions bound to a partition: "Host" of R430. -/
def hostOf (s : State) (src : Source) (p : Nat) : Bool := isRoot src || srcPart s src = some p

/-- The HELLO session of a source as one number, major × 256 + minor (16 R425, R427). -/
def sessionOf (s : State) : Source → Option Nat
  | .fn f => (getFn s f.val).session.map fun v => v.1 * 256 + v.2
  | .mgmt => s.host.mgmtSession.map fun v => v.1 * 256 + v.2
  | .client _ => none

/-- Whether physical presence is held (16 R431, 20 R530). -/
def presence (s : State) : Bool := s.sec.window && decide (nowNs s < s.sec.windowEnd)

/-- A command that has been taken. -/
structure Ctx where
  op : Nat
  /-- Its ticket. -/
  tid : Nat
  m : Msg
  /-- The version of its session (R427). -/
  ver : Nat
  deriving DecidableEq, Repr

/-- A field of the message, at its offset (R417). -/
def Ctx.f (c : Ctx) (off n : Nat) : Nat := imgLe c.m.body (off - 0x10) n

/-- Whether bytes lo to hi - 1 of the message are 0: reserved fields. -/
def Ctx.zero (c : Ctx) (lo hi : Nat) : Bool := ((c.m.body.drop (lo - 0x10)).take (hi - lo)).all fun b => b = 0

/-! ### The checks of R423 -/

/-- The status of the first check that fails. -/
def firstFail : List (Bool × Nat) → Option Nat
  | [] => none
  | (ok, st) :: l => if ok then firstFail l else some st

/-- Group of an opcode. -/
def opGroup (op : Nat) : Nat := op / 256

/-- Row 6: reserved FLAGS bits are 0, and FENCE wants version 1.5 (R417, R427). -/
def Ctx.flagsOk (c : Ctx) : Bool :=
  decide (c.m.flags.toNat < 2) && (!c.m.flags.getLsbD 0 || decide (0x105 ≤ c.ver) || (match c.m.src with
    | .client _ => true
    | _ => false))

/-- Row 8: what the life-cycle state forbids (R431): MAKER_TEST 1, SERVICE 3, RETURNED 4 allow the debug commands. -/
def lifeOk (s : State) (op : Nat) : Bool :=
  (s.sec.lc ≠ 5 || op ∈ [0x0000, 0x0001, 0x0700]) && (opGroup op ≠ 0x0C || s.sec.lc ∈ [1, 3, 4])

/-- Row 10 in recovery mode: groups 0x00, 0x07, 0x0B and 0x0C, queries, FAPI, CELL_STOP and CELL_STATS are carried out
(22 R569). -/
def recoveryOk (s : State) (op : Nat) : Bool :=
  !s.sys.recovery || opGroup op ∈ [0x00, 0x07, 0x0B, 0x0C]
    || op ∈ [0x0103, 0x0202, 0x0305, 0x0401, 0x0403, 0x0601, 0x0902, 0x0800, 0x0802, 0x0803]

/-- Rows 6 to 10 as most commands have them: fields, tenant, life cycle and locks, presence, then what the command adds. -/
def Ctx.checks (c : Ctx) (s : State) (fields tenant locked present : Bool) (rest : List (Bool × Nat)) : Option Nat :=
  firstFail ([(fields && c.flagsOk, eVersion), (tenant, eTenant), (lifeOk s c.op && !locked, eLocked), (present, ePresence),
    (recoveryOk s c.op, eState)] ++ rest)

/-- What carrying out a command answers: the state, and its completion unless it waits. -/
abbrev Carry := Ctx → State → State × Option Done

/-- A command that is refused. -/
def refuse (s : State) (status : Nat) : State × Option Done := (s, some (Done.of status))

/-- Carries a command out when its checks pass. -/
def whenOk (s : State) (check : Option Nat) (act : State × Option Done) : State × Option Done :=
  match check with
  | some st => refuse s st
  | none => act

/-! ### Taking a command (15 R406, R407; 16 R419, R420, R444) -/

/-- Commands of a source in progress. -/
def inProgress (s : State) (src : Source) : Nat := (s.host.tickets.filter fun t => t.src = src).length

/-- The till that a message's completion goes to, and whether REPLY is right (R419). -/
def replyTill (s : State) (m : Msg) : Nat × Bool :=
  let dflt := match m.till with
    | some n => (getTill s n).defaultReply
    | none => 0
  match m.src with
  | .mgmt => (0, m.reply = 0)
  | .client _ => (0, true)
  | .fn f =>
    if m.reply = 0 then (dflt, true)
    else
      let n := m.reply.toNat - 1
      match boundTo s f.val with
      | none => (dflt, false)
      | some p =>
        let t := getTill s (partTill p n)
        if n < 8192 ∧ t.state = .running ∧ t.kind = 1 then (partTill p n, true) else (dflt, false)

/-- Room for one more completion in a till that the device produces into. -/
def Till.roomFor (t : Till) : Bool := decide (t.used + t.reserved < t.slots)

/-- Whether a full memory test runs: every till but the function tills holds its messages (19 R510). -/
def bistRuns (s : State) : Bool := s.rel.tests.any fun t => t.scope = 2

/-- Whether FENCE is there for a source: since version 1.5 of its session; a client reaches no session and always has it (00 R7). -/
def fenceKnown (s : State) : Source → Bool
  | .client _ => true
  | src => (sessionOf s src).any fun v => decide (0x105 ≤ v)

/-- Whether the tellers take a message now. -/
def mayTake (s : State) (m : Msg) : Bool :=
  let fnOk : Bool := match m.src with
    | .fn f => present s f.val && !(getFn s f.val).resetting && !(getFn s f.val).quiesce
        && (getTill s (replyTill s m).1).roomFor
    | .client _ => !s.power.flowStopped
    | .mgmt => true
  let fence : Bool := m.flags.getLsbD 0 && fenceKnown s m.src && s.host.tickets.any fun t => t.till = m.till && t.src = m.src
  let held : Bool := bistRuns s && (match m.till with
    | some n => decide (96 ≤ n)
    | none => false)
  s.sys.ready && s.sys.clocks && fnOk && !held && decide (inProgress s m.src < 1024) && !fence

/-- Takes a command: a ticket, and a slot of its reply till reserved. -/
def openTicket (s : State) (op : Nat) (m : Msg) (reply : Nat) : State :=
  let t : Ticket :=
    { id := s.host.nextTicket, src := m.src, till := m.till, reply := reply, opcode := op, seq := m.seq, tag := m.tag,
      via := s.mgmt.current }
  let s := { s with host := { s.host with tickets := s.host.tickets ++ [t], nextTicket := s.host.nextTicket + 1 } }
  match m.src with
  | .fn _ => updTill s reply fun t => { t with reserved := t.reserved + 1 }
  | _ => s

/-- Commands whose execution needs a halted island: HBM, the cores, the mesh or the tally bank (18 R493, 01 R27; log 81). -/
def needsIslands (op : Nat) : Bool :=
  op ∈ [0x0100, 0x0300, 0x0301, 0x0400, 0x0401, 0x0402, 0x0403, 0x0500, 0x0801, 0x0803, 0x0900, 0x0A00, 0x0B01, 0x0C03]

/-- BYE completes when no earlier command of its source is in progress (R426). -/
def settleByes (s : State) : State :=
  let ready := s.host.byes.filter fun b => !s.host.tickets.any fun t => t.src = b.2 && decide (t.id < b.1)
  let s := { s with host := { s.host with byes := s.host.byes.filter fun b => b ∉ ready } }
  ready.foldl (fun s b => completeWith s b.1 eOk) s

/-- Ends the session of a source (R426). -/
def endSession (s : State) : Source → State
  | .fn f => updFn s f.val fun k => { k with session := none }
  | .mgmt => { s with host := { s.host with mgmtSession := none } }
  | .client _ => s

/-- Carries out a command that has been taken, and completes it unless it waits. -/
def carryOut (op tid ver : Nat) (m : Msg) (carry : Carry) (s : State) : State :=
  let q := carry { op := op, tid := tid, m := m, ver := ver } s
  settleByes (match q.2 with
    | some d => complete q.1 tid d
    | none => q.1)

/-- Takes and carries out one command: none when it is not taken. `len`: the lengths of the opcode, `since`: the version that
adds it (R427); an unassigned opcode has none. -/
def takeCommand (op : Nat) (entry : Option (Nat × (Nat → Bool) × Carry)) (m : Msg) (s : State) : Option State :=
  if ¬ mayTake s m then none
  else
    let len := 16 + m.body.length
    let lenOk : Bool := decide (len ≤ 4096) && decide (len % 8 = 0)
    let r := replyTill s (if lenOk then m else { m with reply := 0 })
    let tid := s.host.nextTicket
    let s := openTicket s op m r.1
    let ver := (sessionOf s m.src).getD 0
    let client : Bool := match m.src with
      | .client _ => true
      | _ => false
    let early := firstFail
      [(lenOk, eLength), (r.2, eTenant),
       (client || (sessionOf s m.src).isSome || op = 0, eState),
       (match entry with
          | some (since, _, _) => client || op = 0 || decide (since ≤ ver)
          | none => false, eOpcode),
       (match entry with
          | some (_, lenOk, _) => lenOk len
          | none => false, eLength)]
    match early, entry with
    | none, some (_, _, carry) =>
      if s.power.flowStopped ∧ needsIslands op then
        some { s with host := { s.host with held := s.host.held ++ [{ tid := tid, op := op, ver := ver, m := m }] } }
      else some (carryOut op tid ver m carry s)
    | st, _ =>
      let s := completeWith s tid (st.getD eOpcode)
      some (if ¬ lenOk then match m.till with
        | some n => tillFails s n 3
        | none => s
      else s)

/-- A command that comes by itself: its effect, or none when the tellers do not take it. -/
def runCommand (op since len : Nat) (carry : Carry) (m : Msg) (s : State) : Out :=
  .next ((takeCommand op (some (since, fun n => n = len, carry)) m s).getD s)

/-! ### Completions of work that was waiting -/

/-- Completes a waiting command, and the BYE that waited for it. -/
def finish (s : State) (id : Nat) (d : Done) : State := settleByes (complete s id d)

end Sys2Proof.Machine
end

