-- ==== Sys2Proof/Machine/PowerOps.lean ====
section
/-! DEFINITION. Voltage points, ceilings and floors of the compute dies (18 R477-R481). -/

namespace Sys2Proof.Machine

/-- Ceiling of a voltage point in MHz (18 R477). -/
def pointCeiling : Nat → Nat
  | 0 => 800
  | 1 => 1000
  | 2 => 1200
  | 3 => 1400
  | _ => 1500

/-- VDD_CD of a voltage point in mV (18 R477). -/
def pointMv : Nat → Nat
  | 0 => 620
  | 1 => 660
  | 2 => 720
  | 3 => 780
  | _ => 840

/-- The lowest point whose ceiling is at least a clock (18 R479). -/
def pointFor (mhz : Nat) : Nat := ((List.range 5).find? fun p => mhz ≤ pointCeiling p).getD 4

def getDie (s : State) (d : Nat) : DiePower := nth DiePower.boot s.power.dies d
def updDie (s : State) (d : Nat) (f : DiePower → DiePower) : State :=
  updPower s fun w => { w with dies := modNth w.dies d f }

/-- Whether a job has cores on a die. -/
def Job.onDie (j : Job) (d : Nat) : Bool := j.insts.any fun i => dieOf i.core = d

/-- The floor of a die: the lowest point that its latency-critical loaded jobs allow (18 R479). -/
def floorPoint (s : State) (d : Nat) : Nat :=
  pointFor (((s.work.jobs.filter fun e => !e.2.bestEffort && e.2.onDie d).map fun e => e.2.clock).foldl Nat.max 0)

/-- The ceiling of a die while its regulator slews: the lowest among the last settled point and every point commanded since
(18 R481). -/
def slewCeiling (d : DiePower) : Nat := d.commanded.foldl (fun m p => Nat.min m (pointCeiling p)) (pointCeiling d.settled)

/-- Commands a die's point: the ceiling falls before a lower one is sent, and rises only with VDone (18 R481). Rails: VDD_CD0 is
rail 0 of AVS0, VDD_CD1 rail 1. -/
def commandPoint (s : State) (d p : Nat) : State :=
  let s := updDie s d fun x =>
    let x := { x with target := p, slewing := true, commanded := x.commanded ++ [p] }
    { x with ceiling := slewCeiling x }
  emit s (.avs d (pointMv p))

/-- Commands every die below its floor up to it, outside the cadence of R479 (18 R480). -/
def raiseFloors (s : State) : State :=
  (List.range 2).foldl (fun s d => if (getDie s d).target < floorPoint s d then commandPoint s d (floorPoint s d) else s) s

/-- Dies of a job whose ceiling is below its clock (18 R480). -/
def Job.lowDies (s : State) (j : Job) : List Nat :=
  if j.bestEffort then [] else (List.range 2).filter fun d => j.onDie d && decide ((getDie s d).ceiling < j.clock)

/-- The ceiling of a partition: the lowest among the dies of its owned cores (18 R478). -/
def partCeiling (s : State) (q : Part) : Nat :=
  (q.owned.map fun c => (getDie s (dieOf c)).ceiling).foldl Nat.min 1500

end Sys2Proof.Machine
end

