-- ==== Sys2Proof/Machine/Jobs.lean ====
section
/-! DEFINITION. Loading, placing, starting, stopping and querying jobs (02 R55, R62, R63, R71-R73; 16 R432-R434). -/

namespace Sys2Proof.Machine

/-! ### Placement (02 R71, R72; 01 R36) -/

/-- A job that an image makes, before its placement. -/
def newJob (part : Nat) (owner : Source) (kind : JobKind) (image : List Byte) (recordAddr recordPages saveAddr savePages mask : Nat) : Job :=
  { part := part, pool := none, service := none, owner := owner, kind := kind, bestEffort := imgBestEffort image, image := image,
    insts := [], digest := 0, tallies := [], groups := [], groupTag := 0, tills := [], windows := [], recordAddr := recordAddr,
    recordPages := recordPages, saveAddr := saveAddr, savePages := savePages, plan0 := 0, invocations := 0, run := none,
    selectors := [], digestHead := 0, rebase := false, coreMask := mask, lostCore := 0 }

/-- Jobs that hold an instance on a core. -/
def holders (s : State) (c : Nat) : List Job :=
  (s.work.jobs.filter fun e => e.2.insts.any fun i => i.core = c).map Prod.snd

/-- Jobs of a partition that hold an instance on a core: a borrower's jobs and its lender's do not hold the core against one another
(01 R34). -/
def holdersOf (s : State) (part c : Nat) : List Job := (holders s c).filter fun j => j.part = part

/-- The physical cores that CORES of a load names, 0 naming every core of the partition that no loaded job holds (16 R432). -/
def allowedCores (s : State) (part : Nat) (q : Part) (mask : Nat) : List Nat :=
  if mask = 0 then q.cores.filter fun c => (holdersOf s part c).isEmpty
  else (q.cores.zipIdx.filter fun e => bit mask e.2).map Prod.fst

/-- A borrowed core as the shape holds it: what its lender's shape says of it (13 R334, R340). -/
def borrowedOf (s : State) (c : Nat) : Borrowed :=
  match s.work.parts.find? fun e => c ∈ e.2.owned with
  | some e => { core := c, segments := e.2.lendSegments, gate := e.2.gate, index := e.2.owned.findIdx (· = c) }
  | none => { core := c, segments := 0, gate := false, index := 0 }

/-- The shape of a partition (13 R334). -/
def partShape (s : State) (part : Nat) (q : Part) : PartShape :=
  { partition := part, owned := q.owned, borrowed := q.borrowed.map (borrowedOf s), exact := q.exactCores, gate := q.gate
    lent := if q.lending then q.lendSegments else 0, tillFirst := q.tillFirst, tillCount := q.tillCount, tallyFirst := q.tallyFirst
    tallyCount := q.tallyCount, ld := q.ld, pl := q.pl, le := q.le, allot := q.allot, purseHbm := q.purseHbm, purseLink := q.purseLink
    purseIod := q.purseIod, vlans := q.vlans }

/-- What the loaded jobs other than h hold (02 R73). -/
def reservedFor (s : State) (part h : Nat) : Reserved :=
  let js := (s.work.jobs.filter fun e => e.1 ≠ h).map Prod.snd
  { segments := js.flatMap fun j => j.insts.map fun i => (i.core, i.segments)
    tallies := (js.filter fun j => j.part = part).flatMap fun j => j.tallies.map Prod.fst
    windows := js.flatMap (·.windows), eaxc := js.flatMap fun j => boundStreams j.image, units := sumNat (js.map fun j => imageUnits j.image) }

/-- What placement takes for a job (01 R36). -/
def placeInput (s : State) (h : Nat) (q : Part) (j : Job) : PlaceIn :=
  { image := j.image, shape := partShape s j.part q, cores := allowedCores s j.part q j.coreMask, record := (j.recordAddr, j.recordPages)
    save := if j.kind = .host then some (j.saveAddr, j.savePages) else none, reserved := reservedFor s j.part h
    members := s.net.relne.members.toNat
    ports := (List.range 4).filter fun k => let p := nth RelnePort.down s.net.relne.ports k; p.up && !p.miswired
    mend := mendMap s, firmware := s.sys.version.toNat }

/-- Runs placement for a job; h: its handle, when it is loaded already (02 R71, R595; log 63). -/
def placeJob (s : State) (h : Nat) (j : Job) : Placing :=
  match getPart s j.part with
  | none => .refused eNofit 0xFFFF0001 0 0
  | some q => placing j.image (placeInput s h q j) (Config.place (placeInput s h q j))

/-- A job with what placement gives it. -/
def Job.withPlacement (j : Job) (p : Placed) : Job :=
  { j with
    insts := p.insts, digest := p.digest, tallies := p.tallies, groups := p.groups, groupTag := p.groupTag, tills := p.tills,
    windows := p.windows, lostCore := 0 }

/-- Whether a physical core is an exact core of its partition (13 R333). -/
def Part.isExact (q : Part) (c : Nat) : Bool := q.exactCores.contains c

/-- Check 12 of R55: the station whose narrowable mint entries have a format that its cores do not allow (04 R115).
RESULT0 names the first in the order of the placement's cores and of the stations on each (DEDUCED, log 94). -/
def check12 (q : Part) (j : Job) : Option Nat :=
  let img := j.image
  (j.insts.flatMap fun i => i.stations.filterMap fun st =>
    if stationField img st.1 0 1 ≠ 6 then none
    else
      let o := stationField img st.1 0x0C 4
      let ok := (List.range (constField img o 2)).all fun e =>
        let fmt := mintField img o e 1 1
        !bit (mintField img o e 5 1) 1 || (if q.isExact i.core then fmt = 0 else fmt ∈ [5, 6, 7, 2, 3, 4])
      if ok then none else some st.1).head?

/-- Placement and what follows it: check 12; a placed job, or why not. -/
def placeFully (s : State) (h : Nat) (j : Job) : Job ⊕ Done :=
  match placeJob s h j with
  | .refused st a b c => .inr ⟨st, a, b, c, 0⟩
  | .accepted p =>
    let j := j.withPlacement p
    match (getPart s j.part).bind fun q => check12 q j with
    | some st => .inr ⟨eVersion, st * 65536, 0, 0, 0⟩
    | none => .inl j

/-- The group tallies of a job are bound: a barrier takes one arrival of every member; what was added before is seen by then
(14 R378, R379; 17 R474; log 104). -/
def bindGroups (s : State) (j : Job) : State :=
  j.groups.foldl (fun s g => updTally s (tallyOf s j.part g.2.1) fun t =>
    { t with
      group := true, barrier := if g.2.2 then some s.net.relne.members.toNat else none
      recent := if g.2.2 then [] else t.recent }) s

/-- The group tallies of a job that leaves are free tallies again. -/
def freeGroups (s : State) (j : Job) : State :=
  j.groups.foldl (fun s g => updTally s (tallyOf s j.part g.2.1) fun t => { t with group := false, barrier := none }) s

/-- A loaded job takes the place of what it was placed as: its group tallies are bound anew. -/
def rebindJob (s : State) (h : Nat) (j : Job) : State :=
  let s := match getJob s h with
    | some old => freeGroups s old
    | none => s
  bindGroups (putJob s h j) j

/-- A loaded job that has been placed again: its bindings, the floors of its dies, the rinse of its segments (19 R503). -/
def placeAgain (s : State) (h : Nat) (j : Job) : State := startRinse (raiseFloors (rebindJob s h j)) j.segParts .other

/-- A placed job becomes loaded: its handle, the floors of its dies, the rinse of its segments (02 R73, 12 R309, 18 R480). -/
def installJob (s : State) (ticket : Nat) (j : Job) : State :=
  let h := s.work.nextJob
  let s := bindGroups (updWork s fun w => { w with nextJob := h + 1, jobs := Tbl.put w.jobs h j }) j
  let s := raiseFloors s
  let l : Loading := { ticket := ticket, job := j, refusal := none, handle := h, floor := j.lowDies s }
  let s := updWork s fun w => { w with loading := w.loading ++ [l] }
  startRinse s j.segParts (.load ticket)

/-- A job leaves: its entries on the cores, its phase estimates, its ledger client (13 R351, 18 R485). -/
def dropJob (s : State) (h : Nat) : State :=
  match getJob s h with
  | none => s
  | some j =>
    let s := freeGroups (leaveCores s h j) j
    let s := updPower s fun w => { w with estimates := w.estimates.filter fun e => e.1 ≠ h }
    let s := match j.kind with
      | .adapt _ => s
      | _ => clientEnds s j.part 0 h
    updWork s fun w => { w with jobs := Tbl.del w.jobs h }

/-- A core's segments that no loaded job uses, that no lent window holds and that are not rinsed are OFF (12 R307). -/
def restSegs (s : State) (c : Nat) : State :=
  let used := (holders s c).foldl (fun m j => m ||| (match j.instOn c with
    | some i => i.segments
    | none => 0)) (0 : BitVec 12)
  updCore s c fun k =>
    if k.lentTo.isSome then k
    else
      let off := (List.range 12).filter fun n => !used.getLsbD n && n ∉ k.rinsing && nth SegPower.off k.power n ≠ .off
      off.foldl (fun k n => k.zeroSeg n) (k.setPower off .off)

/-- Whether a load's rinses and floor raises have ended. -/
def loadReady (s : State) (l : Loading) : Bool :=
  decide (l.handle ≠ 0) && l.floor.isEmpty && !s.work.rinses.any fun r => decide (r.use = .load l.ticket)

/-- JOB_LOADs whose rinses and floor raises have ended complete with OK: handle, placement digest, cores placed (16 R432). -/
def settleHostLoads (s : State) : State :=
  let ready := s.work.loading.filter fun l => loadReady s l && l.job.kind = .host
  let s := updWork s fun w => { w with loading := w.loading.filter fun l => l ∉ ready }
  ready.foldl (fun s l =>
    let s := retainSegs s l.job
    finish s l.ticket ⟨eOk, l.handle, l.job.digest.toNat % 2 ^ 32, l.job.digest.toNat / 2 ^ 32, l.job.insts.length⟩) s

/-! ### JOB_LOAD (16 R432, 02 R55) -/

/-- Jobs loaded or being loaded. -/
def loadedCount (s : State) : Nat := s.work.jobs.length + (s.work.loading.filter fun l => l.handle = 0).length

/-- The bytes of an image in partition HBM. -/
def readImage (s : State) (p a n : Nat) : List Byte :=
  match getPart s p with
  | some q => hbmBytes s q a n
  | none => []

/-- Checks 9 and 10 of R55 on the cores that a load names. -/
def coresFree (s : State) (part : Nat) (q : Part) (mask : Nat) : Option Done :=
  if mask = 0 then none
  else
    let hs := (allowedCores s part q mask).flatMap (holdersOf s part)
    if hs.any fun j => j.run.isSome then some (Done.of eBusy)
    else if hs ≠ [] then some (Done.of eState)
    else none

/-- JOB_LOAD: its checks and those of the image; placement follows. -/
def carryJobLoad : Carry := fun c s =>
  let p := c.f 0x10 1
  let img := c.f 0x18 8
  let len := c.f 0x14 4
  let recA := c.f 0x20 8
  let recN := c.f 0x28 4
  let saveN := c.f 0x2C 4
  let saveA := c.f 0x30 8
  let mask := c.f 0x38 8
  let fields := decide (p ≤ 7) && c.zero 0x11 0x14 && aligned img 64 && aligned recA pageBytes && decide (1 ≤ recN ∧ recN ≤ 64)
    && aligned saveA pageBytes && (decide (saveN ≠ 0) || decide (saveA = 0))
  match getPart s p with
  | none => whenOk s (c.checks s fields (isRoot c.m.src) false true [(false, eState)]) (s, none)
  | some q =>
    let inside := q.holds img len && q.holds recA (recN * pageBytes) && (decide (saveN = 0) || q.holds saveA (saveN * pageBytes))
      && decide (mask < 2 ^ q.cores.length)
    whenOk s (c.checks s fields (hostOf s c.m.src p && inside) false true [(decide (loadedCount s < 256), eResource)])
      (let image := readImage s p img len
       match checkImage image len (c.ver / 256, c.ver % 256) q with
       | some d => (s, some d)
       | none =>
         if ¬ imgBestEffort image ∧ saveN ≠ 0 then refuse s eVersion
         else
           match coresFree s p q mask with
           | some d => (s, some d)
           | none =>
             let j := newJob p c.m.src .host image recA recN saveA saveN mask
             let l : Loading := { ticket := c.tid, job := j, refusal := none, handle := 0, floor := [] }
             (updWork s fun w => { w with loading := w.loading ++ [l] }, none))

/-- JOB_LOAD. -/
def execJobLoad (m : Msg) (s : State) : Out := runCommand 0x0300 0x100 64 carryJobLoad m s

/-- PLACEMENT_COMPLETE: placement of a JOB_LOAD ends; the job is refused, or its segments are rinsed and its floors raised. -/
def execPlacementComplete (ticket : Nat) (s : State) : Out :=
  .next (match s.work.loading.find? fun l => l.ticket = ticket ∧ l.handle = 0 with
    | none => s
    | some l =>
      let s := updWork s fun w => { w with loading := w.loading.filter fun x => x ≠ l }
      match placeFully s 0 l.job with
      | .inr d => finish s ticket d
      | .inl j => settleHostLoads (settleRinses (installJob s ticket j)))

/-! ### The other job commands (16 R434) -/

/-- Checks that the job commands share: a loaded job that the caller owns; 16 R434. -/
def Ctx.jobChecks (c : Ctx) (s : State) (fields : Bool) (rest : Job → List (Bool × Nat)) : Option Nat :=
  let h := c.f 0x10 4
  let loading := s.work.loading.any fun l => l.handle = h
  match (if loading then none else getJob s h) with
  | none => c.checks s fields false false true []
  | some j => c.checks s fields (isRoot c.m.src || c.m.src = j.owner) false true (rest j)

/-- A job that the job commands may act on. -/
def Job.byHost (j : Job) : Bool := j.kind = .host

/-- Epochs that some core of an invocation has begun (02 R62). -/
def Job.begunEpochs (j : Job) : Nat :=
  j.insts.foldl (fun n i => max n (if i.phase = .running ∨ i.phase = .saving ∨ i.phase = .saved then i.epoch + 1 else i.epoch)) 0

/-- Starts an invocation by JOB_START, placing the job again when a core of it has failed (19 R503). -/
def startByHost (s : State) (h : Nat) (j : Job) (tid : Nat) : State × Option Done :=
  if j.lostCore = 1 then
    match placeFully s h j with
    | .inr d => (updJob s h fun j => { j with insts := [], lostCore := 2 }, some d)
    | .inl j' => (startInvocation (settleRinses (placeAgain s h j')) h (some tid) true, none)
  else (startInvocation s h (some tid) true, none)

/-- JOB_START. -/
def carryJobStart : Carry := fun c s =>
  let h := c.f 0x10 4
  whenOk s (c.jobChecks s (c.zero 0x14 0x18) fun j =>
    [(j.byHost && j.service.isNone && j.run.isNone && decide (j.lostCore ≠ 2), eState)])
    (match getJob s h with
      | some j => startByHost s h j c.tid
      | none => refuse s eTenant)

def execJobStart (m : Msg) (s : State) : Out := runCommand 0x0301 0x100 24 carryJobStart m s

/-- Ends an invocation after its current epoch (02 R62); tid: the JOB_STOP that completes then. -/
def stopAfterEpoch (s : State) (h : Nat) (tid : Option Nat) : State :=
  match getJob s h with
  | none => s
  | some j =>
    let n := j.begunEpochs
    let s := updRun s h fun r =>
      { r with stops := r.stops ++ tid.toList, last := if n = 0 then r.last else some (r.last.getD (n - 1)) }
    if n = 0 ∨ runComplete s h then endInvocation s h eOk none else s

/-- JOB_STOP. -/
def carryJobStop : Carry := fun c s =>
  let h := c.f 0x10 4
  whenOk s (c.jobChecks s (decide (c.f 0x14 1 < 2) && c.zero 0x15 0x18) fun j =>
    [(j.byHost && decide (j.lostCore ≠ 2), eState)])
    (match (getJob s h).bind Job.run with
      | none => (s, some (Done.of eOk))
      | some r =>
        if c.f 0x14 1 = 1 then
          (abortRun (updRun s h fun r => { r with stops := r.stops ++ [c.tid] }) h eAborted none [], none)
        else if r.ending then (updRun s h fun r => { r with stops := r.stops ++ [c.tid] }, none)
        else (stopAfterEpoch s h (some c.tid), none))

def execJobStop (m : Msg) (s : State) : Out := runCommand 0x0302 0x100 24 carryJobStop m s

/-- Releases a loaded job and rinses its segments (02 R62, 12 R309). -/
def unloadJob (s : State) (h : Nat) (use : RinseFor) : State :=
  match getJob s h with
  | none => s
  | some j => settleRinses (startRinse (dropJob s h) (j.segParts.filter fun e => !disabled s 0 e.1) use)

/-- JOB_UNLOAD. -/
def carryJobUnload : Carry := fun c s =>
  let h := c.f 0x10 4
  whenOk s (c.jobChecks s (c.zero 0x14 0x18) fun j => [(j.byHost && j.run.isNone && j.service.isNone, eState)])
    (unloadJob s h (.unload c.tid), none)

def execJobUnload (m : Msg) (s : State) : Out := runCommand 0x0303 0x100 24 carryJobUnload m s

/-- PLAN_SELECT (02 R63). -/
def carryPlanSelect : Carry := fun c s =>
  let h := c.f 0x10 4
  let plan := c.f 0x14 1
  whenOk s (c.jobChecks s (decide (plan ≤ 7) && c.zero 0x15 0x18) fun j =>
    [(j.byHost && !j.rules && decide (j.lostCore ≠ 2), eState), (j.hasPlan plan, eResource)])
    (match getJob s h with
      | none => refuse s eTenant
      | some j =>
        match j.run with
        | none => (putJob s h { j with plan0 := plan }, some (Done.of eOk))
        | some r =>
          let e := j.begunEpochs
          let old := r.sels.filter fun p => p.effect = e
          let s := old.foldl (fun s p => complete s p.ticket ⟨eSuperseded, p.effect, 0, 0, 0⟩) s
          (updRun s h fun r =>
            { r with sels := r.sels.filter (fun p => p.effect ≠ e) ++ [{ effect := e, plan := plan, ticket := c.tid }] }, none))

def execPlanSelect (m : Msg) (s : State) : Out := runCommand 0x0304 0x100 24 carryPlanSelect m s

/-- The plan of the next epoch of a job. -/
def Job.planNext (j : Job) : Nat :=
  match j.run with
  | none => j.plan0
  | some r =>
    let e := j.begunEpochs
    match j.insts.head? with
    | none => j.plan0
    | some i => (nextPlan j r { i with epoch := e }).getD i.plan

/-- JOB_QUERY. -/
def carryJobQuery : Carry := fun c s =>
  let h := c.f 0x10 4
  whenOk s (c.jobChecks s (c.zero 0x14 0x18) fun _ => [])
    (match getJob s h with
      | none => refuse s eTenant
      | some j =>
        (s, some ⟨eOk, b2n j.run.isSome + 4 * b2n j.bestEffort + 256 * j.planNext + 65536 * j.insts.length, j.invocations,
          imgLe j.image 0x20 4, imgLe j.image 0x24 4⟩))

def execJobQuery (m : Msg) (s : State) : Out := runCommand 0x0305 0x100 24 carryJobQuery m s

end Sys2Proof.Machine
end

