-- ==== Sys2Proof/Machine/Net.lean ====
section
/-! DEFINITION. Ethernet ports and the timing unit: classification, LLDP, PTP, PPS, time of day, SyncE, holdover
(17 R446-R466). -/

namespace Sys2Proof.Machine

/-! ### MACs (17 R447-R453) -/

/-- VLAN entries of a MAC over every partition (R448 step 3). -/
def vlansOf (s : State) (mac : Nat) : List Vlan :=
  s.work.parts.flatMap fun e => e.2.vlans.filter fun v => v.mac = mac

/-- KIND of the entry that a VLAN ID of a MAC matches. -/
def vlanKind (s : State) (mac vid : Nat) : Option Nat := ((vlansOf s mac).find? fun v => v.vid = vid).map (·.kind)

/-- Slot of a SAK: 4 × MAC + 2 × DIR + AN, DIR 0 transmit (20 R538). -/
def sakSlot (mac dir : Nat) (an : Bool) : Nat := 4 * mac + 2 * dir + b2n an

/-- Whether a SAK slot holds a key. -/
def sakValid (s : State) (slot : Nat) : Bool := Tbl.has s.sec.saks slot

/-- Whether the receive path accepts an AN (R452). -/
def rxAccepts (s : State) (mac : Nat) (an : Bool) : Bool :=
  sakValid s (sakSlot mac 1 an) && (match (getMac s mac).rxAn with
    | none => true
    | some a => a = an)

/-- Counts a frame received without error. -/
def countRx (s : State) (mac : Nat) : State := updMac s mac fun m => { m with rxFrames := satInc m.rxFrames 1 }

/-- FRAME_DROP: a frame that classification drops is counted; one that it verifies under the newer AN ends the older one (R448,
R452). -/
def execFrameDrop (mac : Nat) (frame : RxFrame) (s : State) : Out :=
  .next (
    let m := getMac s mac
    if ¬ m.up ∨ frame.length < 64 then s
    else if ¬ frame.fcsOk then updMac s mac fun m => { m with fcsErr := satInc m.fcsErr 1 }
    else if 9216 < frame.length then updMac s mac fun m => { m with oversize := satInc m.oversize 1 }
    else
      let s := countRx s mac
      match frame.vlans with
      | [] =>
        if frame.etherType = 0x88F7 ∨ frame.etherType = 0x88CC ∨ frame.etherType = 0x8809 ∧ frame.esmc then s
        else updMac s mac fun m => { m with untagged := satInc m.untagged 1 }
      | [v] =>
        match vlanKind s mac v with
        | none => updMac s mac fun m => { m with unknownVlan := satInc m.unknownVlan 1 }
        | some kind =>
          if m.en ∧ m.classMask.getLsbD kind ∧ kind ≠ 1 then
            match frame.macsec with
            | some an =>
              if rxAccepts s mac an then (if an = m.rxNew then updMac s mac fun m => { m with rxAn := some an } else s)
              else updMac s mac fun m => { m with macsecDrop := satInc m.macsecDrop 1 }
            | none => updMac s mac fun m => { m with macsecDrop := satInc m.macsecDrop 1 }
          else s
      | _ => updMac s mac fun m => { m with unknownVlan := satInc m.unknownVlan 1 })

/-- LLDPDU: counted and discarded (R449). -/
def execLldpdu (mac : Nat) (s : State) : Out :=
  .next (if (getMac s mac).up then updMac (countRx s mac) mac fun m => { m with lldpRx := satInc m.lldpRx 1 } else s)

/-- Bytes of a number, most significant first. -/
def beBytes (n v : Nat) : List Byte := (leBytes n v).reverse

/-- The LLDPDU of a MAC: Chassis ID, Port ID, TTL 120 s, end (R449). -/
def lldpBytes (s : State) (mac : Nat) : List Byte :=
  beBytes 3 0x020704 ++ beBytes 6 s.net.macBase.toNat ++ beBytes 3 0x040703 ++ beBytes 6 (s.net.macBase.toNat + mac)
    ++ beBytes 4 0x06020078 ++ beBytes 2 0

/-- MACs that are up. -/
def upMacs (s : State) : List Nat := (List.range 8).filter fun m => (getMac s m).up

/-- LLDP_SEND: on each MAC that is up, untagged and in each of its management VLANs (R449). -/
def execLldpSend (s : State) : Out :=
  .next ((upMacs s).foldl (fun s m =>
    let tags := none :: ((vlansOf s m).filter fun v => v.kind = 3).map fun v => some v.vid
    tags.foldl (fun s v => sendFrame s m "lldp" 0x0180C200000E v 0x88CC (lldpBytes s m)) s) s)

/-- ETH_LINK_CHANGE: a MAC that has a speed comes up, or goes down (R453). -/
def execEthLinkChange (mac : Nat) (up : Bool) (s : State) : Out :=
  .next (updMac s mac fun m =>
    { m with
      up := up && decide (m.speed ≠ 0)
      linkDown := if m.up ∧ ¬ up then satInc m.linkDown 1 else m.linkDown })

/-- MAC_COUNTER_CLEAR: a write of CLEAR = 1 (R453). -/
def clearMacCounters (mac v : Nat) (s : State) : State :=
  if bit v 0 then updMac s mac fun m =>
    { Mac.reset with
      up := m.up, speed := m.speed, en := m.en, classMask := m.classMask, xpn := m.xpn, txAn := m.txAn, rxNew := m.rxNew,
      rxAn := m.rxAn }
  else s

def execMacCounterClear (mac : Nat) (value : BitVec 32) (s : State) : Out := .next (chipWrite s (clearMacCounters mac value.toNat))

/-- MACSEC_CONTROL: the controls of a MAC; a TX_AN without a key is refused while EN is 1 (R453). -/
def writeMacsec (mac v : Nat) (s : State) : State :=
  let an := bit v 6
  if bit v 0 ∧ ¬ sakValid s (sakSlot mac 0 an) then valueError s (0x8E04 + 64 * mac)
  else updMac s mac fun m => { m with en := bit v 0, classMask := BitVec.ofNat 4 (bits v 4 1), xpn := bit v 5, txAn := an }

def execMacsecControl (mac : Nat) (value : BitVec 32) (s : State) : Out := .next (chipWrite s (writeMacsec mac value.toNat))

/-! ### Synchronisation states (17 R462-R464) -/

/-- Device time in units of 2^-16 ns. -/
def nowUnits (s : State) : Int := (nowNs s : Int) * 65536 + ((s.net.timing.time >>> 16).toNat % 65536 : Nat)

/-- Sets device time to a number of units of 2^-16 ns. -/
def setUnits (s : State) (u : Int) : State :=
  let v := u.toNat
  updTiming s fun t => { t with time := mkTime (v / 65536) (v % 65536), frac := 0 }

/-- The largest rate correction: 500 ppm in units of 2^-48 (R454). -/
def rateLimit : Int := 140737488355

/-- Whether the rate follows CLK10M_IN (R459). -/
def Timing.onClk10m (t : Timing) : Bool := t.freqRef && !t.clk10mLost

/-- The PTP port that is SLAVE. -/
def slavePort (s : State) : Option (Nat × PtpPort) :=
  ((List.range 8).map fun m => (m, getPtp s m)).find? fun e => e.2.portState = 9

/-- The clockClass while a source is followed: the parent's, or that of PPS_IN (R456, R465). -/
def sourceClass (s : State) : BitVec 8 :=
  if s.net.timing.source = 1 then
    match (slavePort s).bind fun e => e.2.parent with
    | some p => p.clockClass
    | none => 248
  else Config.ppsClass

/-- CLOCK_CLASS, CLOCK_ACCURACY and VARIANCE follow the state (R456, R465). -/
def setQuality (s : State) (cls : BitVec 8) : State :=
  let parent := (slavePort s).bind fun e => e.2.parent
  let follows := s.net.timing.source = 1 ∧ (s.net.timing.state = .acquiring ∨ s.net.timing.state = .locked)
  updTiming s fun t =>
    { t with
      clockClass := cls
      accuracy := match parent with
        | some p => if follows then p.accuracy else 0xFE
        | none => 0xFE
      variance := match parent with
        | some p => if follows then p.variance else 0xFFFF
        | none => 0xFFFF }

/-- FREE_RUN. -/
def enterFreeRun (s : State) (cls : BitVec 8) : State :=
  setQuality (updTiming s fun t => { t with state := .freeRun, goodSince := none, marks := [], slewBase := none }) cls

/-- ACQUIRING. -/
def enterAcquiring (s : State) : State :=
  let s := updTiming s fun t =>
    { t with state := .acquiring, goodSince := none, marks := [], stepped := false, slewBase := none }
  setQuality s (sourceClass s)

/-- LOCKED. -/
def enterLocked (s : State) (base : Option Int) : State :=
  let s := updTiming s fun t => { t with state := .locked, rates := [], slewBase := base }
  setQuality s (sourceClass s)

/-- The mean of the rate words of the last 1,000 s of LOCKED (R464). -/
def Timing.meanRate (t : Timing) : Int :=
  match t.rates with
  | [] => t.rate
  | l => (l.foldl (fun a r => a + r.2) 0) / l.length

/-- HOLDOVER. -/
def enterHoldover (s : State) : State :=
  let s := updTiming s fun t =>
    { t with state := .holdover, holdoverS := 0, rate := if t.onClk10m then t.rate else t.meanRate, goodSince := none, marks := [],
             slewBase := none }
  setQuality s 135

/-- The source is lost (R462, R463). -/
def sourceLost (s : State) : State :=
  let s := updTiming s fun t => { t with present := false, goodSince := none, marks := [] }
  if s.net.timing.linkTime then s
  else
    match s.net.timing.state with
    | .locked => enterHoldover s
    | .acquiring => enterFreeRun s 248
    | _ => s

/-- The servo: the rate word from a measured offset; while an offset is slewed out after HOLDOVER, by no more than 10 µs per second
(R462, R464). -/
def discipline (s : State) (off : Int) : State :=
  updTiming s fun t =>
    if t.onClk10m then t
    else
      let r := Config.servo t.integral off
      let rate := clampInt (-rateLimit) rateLimit r.2
      let rate := match t.slewBase with
        | some b => clampInt (b - 2814749767) (b + 2814749767) rate
        | none => rate
      { t with integral := r.1, rate := rate, slewBase := if off.natAbs ≤ 100 * 65536 then none else t.slewBase }

/-- Keeps the rate words of the last 1,000 s. -/
def keepRate (s : State) : State :=
  let n := timeS s
  updTiming s fun t => { t with rates := (t.rates.filter fun r => n ≤ r.1 + 1000) ++ [(n, t.rate)] }

/-- One measurement of the offset in ACQUIRING: a step of more than 1 µs, or the run of good measurements that LOCKED wants. -/
def acquire (s : State) (off : Int) : State :=
  let t := s.net.timing
  if 65536000 < off.natAbs ∧ ¬ t.stepped then
    updTiming (setUnits s (nowUnits s - off)) fun t =>
      { t with stepped := true, goodSince := none, marks := [], ppsEdge := t.ppsEdge.map fun e => ((e : Int) - off / 65536).toNat }
  else
    let now := nowNs s
    let marks := (t.marks ++ [now]).drop (t.marks.length + 1 - 16)
    let dense := t.source = 2 ∨ marks.length < 16 ∨ now ≤ marks.headD now + 1000000000
    let since := if off.natAbs ≤ 6553600 then some (if dense then t.goodSince.getD now else now) else none
    let s := discipline (updTiming s fun t => { t with marks := marks, goodSince := since }) off
    match since with
    | some a => if a + 16000000000 ≤ now ∧ (t.source = 2 ∨ marks.length = 16) then enterLocked s none else s
    | none => s

/-- A measured offset of device time from the source, in 2^-16 ns (R462). -/
def measured (s : State) (off : Int) : State :=
  let s := updTiming s fun t => { t with offset := BitVec.ofInt 32 (off / 256), present := true }
  if s.net.timing.linkTime then s
  else
    match s.net.timing.state with
    | .freeRun => acquire (enterAcquiring s) off
    | .acquiring => acquire s off
    | .locked => keepRate (discipline s off)
    | .holdover =>
      if off.natAbs ≤ 65536000 then keepRate (discipline (enterLocked s (some s.net.timing.rate)) off)
      else acquire (enterAcquiring s) off

/-! ### PTP ports (17 R456, R457, R466) -/

/-- What decides between Announce messages: class, accuracy, variance, priority2, identity. -/
def Parent.rank (p : Parent) : List Nat :=
  [p.clockClass.toNat, p.accuracy.toNat, p.variance.toNat, p.priority2.toNat, p.identity.toNat]

/-- Lexicographic order. -/
def lexLt : List Nat → List Nat → Bool
  | a :: l, b :: m => decide (a < b) || (decide (a = b) && lexLt l m)
  | _, _ => false

/-- The port whose parent is best, among those that may be SLAVE. -/
def bestPort (s : State) : Option (Nat × Parent) :=
  (List.range 8).foldl (fun best m =>
    let q := getPtp s m
    match q.parent with
    | some p =>
      if ¬ q.en ∨ q.masterOnly then best
      else
        match best with
        | some b => if lexLt p.rank b.2.rank then some (m, p) else best
        | none => some (m, p)
    | none => best) none

/-- The states of the PTP ports: one SLAVE, the others MASTER or PASSIVE in a T-BC and LISTENING in a T-TSC (R456, log 65). -/
def bmca (s : State) : State :=
  let best := if s.net.timing.source = 1 then bestPort s else none
  let s := (List.range 8).foldl (fun s m => updPtp s m fun q =>
    { q with portState :=
        if ¬ q.en then 3
        else if best.map Prod.fst = some m then 9
        else if ¬ s.net.timing.bc then 4
        else
          match q.parent, best with
          | some p, some b => if p.identity = b.2.identity then 7 else 6
          | _, _ => 6 }) s
  updTiming s fun t => { t with slaveMac := BitVec.ofNat 3 ((best.map Prod.fst).getD t.slaveMac.toNat) }

/-- Counts an unsupported PTP frame. -/
def ptpUnsupported (s : State) (mac : Nat) : State := updPtp s mac fun q => { q with unsupported := satInc q.unsupported 1 }

/-- A PTP message comes to its port: none when the port does not take it (R448, R456, R475). -/
def ptpTakes (s : State) (rx : PtpRx) : State × Option PtpPort :=
  let q := getPtp s rx.mac
  if ¬ (getMac s rx.mac).up then (s, none)
  else
    let s := countRx s rx.mac
    let kind := rx.vlan.map (vlanKind s rx.mac)
    if kind = some none then (updMac s rx.mac fun m => { m with unknownVlan := satInc m.unknownVlan 1 }, none)
    else if kind.isSome ∧ kind ≠ some (some 1) ∨ ¬ q.en then (s, none)
    else if rx.vlan.isSome ∧ (¬ q.tagged ∨ rx.vlan ≠ some q.vlan.toNat) then (ptpUnsupported s rx.mac, none)
    else if rx.domain ≠ s.net.timing.domain.toNat then (s, none)
    else (s, some q)

/-- The device's clock identity, from the MAC address of MAC 0 (log 65). -/
def clockIdentity (s : State) : Nat :=
  let a := s.net.macBase.toNat
  (a / 2 ^ 24) * 2 ^ 40 + 0xFFFE * 2 ^ 24 + a % 2 ^ 24

/-- The 34-byte header of a PTP message, and its body. -/
def ptpMessage (s : State) (mac type seq corr : Nat) (logInterval : Int) (body : List Byte) : List Byte :=
  let t := s.net.timing
  let flags := b2n t.leap61 + 2 * b2n t.leap59 + 4 + 8
  beBytes 1 type ++ beBytes 1 0x12 ++ beBytes 2 (34 + body.length) ++ beBytes 1 t.domain.toNat ++ beBytes 1 0 ++ beBytes 2 flags
    ++ beBytes 8 corr ++ beBytes 4 0 ++ beBytes 8 (clockIdentity s) ++ beBytes 2 (mac + 1) ++ beBytes 2 seq ++ beBytes 1 0
    ++ beBytes 1 (unsigned 8 logInterval) ++ body

/-- A time-stamp of PTP from units of 2^-16 ns: 6 bytes of seconds, 4 of nanoseconds; the rest goes into correctionField. -/
def ptpStamp (u : Int) : List Byte × Nat :=
  let v := u.toNat
  (beBytes 6 (v / 65536 / 1000000000) ++ beBytes 4 (v / 65536 % 1000000000), v % 65536)

/-- Sends a PTP message from a port: to the profile's multicast address, or to each peer (R456). -/
def sendPtp (s : State) (mac : Nat) (what : String) (peers : List Nat) (msg : List Byte) : State :=
  let q := getPtp s mac
  let vlan := if q.tagged then some q.vlan.toNat else none
  if s.net.timing.profile then
    peers.foldl (fun s p => sendFrame s mac what p vlan (if q.ipv6 then 0x86DD else 0x0800) msg) s
  else sendFrame s mac what (if q.addr then 0x0180C200000E else 0x011B19000000) vlan 0x88F7 msg

/-- Peers to whom a port has granted a message type. -/
def PtpPort.peers (q : PtpPort) (type : Nat) : List Nat := (q.grants.filter fun g => g.2.1 = type).map Prod.fst

/-- The next sequence number of a port. -/
def bumpSeq (s : State) (mac : Nat) : State := updPtp s mac fun q => { q with seq := q.seq + 1 }

/-- PTP_SYNC: t2 − t1 of a Sync on the SLAVE port, and the offset once the path delay is known (R457). -/
def execPtpSync (rx : PtpRx) (twoStep : Bool) (t1 correction : Int) (s : State) : Out :=
  .next (match ptpTakes s rx with
    | (s, none) => s
    | (s, some q) =>
      if twoStep then ptpUnsupported s rx.mac
      else if q.portState ≠ 9 then s
      else
        let ms := (rx.raw - q.asymIngress.toInt) - (t1 + correction)
        let s := updPtp s rx.mac fun q => { q with msDelay := some ms }
        match q.mean with
        | some mean => measured s (ms - mean - q.delayAsym.toInt)
        | none => s)

/-- PTP_DELAY_REQ: a MASTER port answers with the corrected time of arrival (R456). -/
def execPtpDelayReq (rx : PtpRx) (requester : BitVec 80) (seq : BitVec 16) (s : State) : Out :=
  .next (match ptpTakes s rx with
    | (s, none) => s
    | (s, some q) =>
      let peer := requester.toNat
      if q.portState ≠ 6 ∨ s.net.timing.profile ∧ peer ∉ q.peers 9 then s
      else
        let st := ptpStamp (rx.raw - q.asymIngress.toInt)
        sendPtp s rx.mac "delay_resp" [peer] (ptpMessage s rx.mac 9 seq.toNat st.2 (-4) (st.1 ++ beBytes 10 peer)))

/-- PTP_DELAY_RESP: the mean path delay (R457). -/
def execPtpDelayResp (rx : PtpRx) (t4 correction : Int) (s : State) : Out :=
  .next (match ptpTakes s rx with
    | (s, none) => s
    | (s, some q) =>
      match q.msDelay, q.t3 with
      | some ms, some t3 =>
        if q.portState ≠ 9 then s
        else
          let mean := (ms + (t4 - correction - t3)) / 2
          updPtp s rx.mac fun q => { q with mean := some mean, meanPathDelay := BitVec.ofInt 32 (mean / 256), t3 := none }
      | _, _ => s)

/-- PTP_ANNOUNCE: the port's best master, the port states, and what a SLAVE port's parent says (R456, R465). -/
def execPtpAnnounce (rx : PtpRx) (a : Announced) (s : State) : Out :=
  .next (match ptpTakes s rx with
    | (s, none) => s
    | (s, some q) =>
      let p : Parent :=
        { identity := a.identity, clockClass := a.clockClass, accuracy := a.accuracy, variance := a.variance, priority2 := a.priority2,
          utcOffset := a.utcOffset, leap61 := a.leap61, leap59 := a.leap59 }
      let take : Bool := match q.parent with
        | some old => old.identity = p.identity || lexLt p.rank old.rank
        | none => true
      let s := if take then updPtp s rx.mac fun q => { q with parent := some p } else s
      let s := bmca s
      if (getPtp s rx.mac).portState = 9 ∧ take then
        let s := updTiming s fun t => { t with utcOffset := a.utcOffset, leap61 := a.leap61, leap59 := a.leap59 }
        match s.net.timing.state with
        | .acquiring => setQuality s (sourceClass s)
        | .locked => setQuality s (sourceClass s)
        | _ => s
      else s)

/-- SYNC_TX: a one-step Sync of a MASTER port, stamped at its corrected departure (R456, R457). -/
def execSyncTx (mac : Nat) (s : State) : Out :=
  .next (
    let q := getPtp s mac
    if q.portState ≠ 6 ∨ ¬ (getMac s mac).up then s
    else
      let st := ptpStamp (nowUnits s + q.asymEgress.toInt)
      bumpSeq (sendPtp s mac "sync" (q.peers 0) (ptpMessage s mac 0 q.seq.toNat st.2 (-4) st.1)) mac)

/-- ANNOUNCE_TX: an Announce of a MASTER port (R456). -/
def execAnnounceTx (mac : Nat) (s : State) : Out :=
  .next (
    let q := getPtp s mac
    let t := s.net.timing
    if q.portState ≠ 6 ∨ ¬ (getMac s mac).up then s
    else
      let gm := match (slavePort s).bind fun e => e.2.parent with
        | some p => p.identity.toNat
        | none => clockIdentity s
      let body := beBytes 10 0 ++ beBytes 2 t.utcOffset.toNat ++ beBytes 1 0 ++ beBytes 1 128 ++ beBytes 1 t.clockClass.toNat
        ++ beBytes 1 t.accuracy.toNat ++ beBytes 2 t.variance.toNat ++ beBytes 1 t.priority2.toNat ++ beBytes 8 gm ++ beBytes 2 0
        ++ beBytes 1 0x20
      bumpSeq (sendPtp s mac "announce" (q.peers 11) (ptpMessage s mac 11 q.seq.toNat 0 (-3) body)) mac)

/-- DELAY_REQ_TX: the SLAVE port's Delay_Req leaves; t3 is its corrected departure (R457). -/
def execDelayReqTx (mac : Nat) (raw : Int) (s : State) : Out :=
  .next (
    let q := getPtp s mac
    if q.portState ≠ 9 ∨ ¬ (getMac s mac).up then s
    else
      let s := updPtp s mac fun q => { q with t3 := some (raw + q.asymEgress.toInt) }
      bumpSeq (sendPtp s mac "delay_req" (q.granted.map Prod.fst |> dedup) (ptpMessage s mac 1 q.seq.toNat 0 0 (beBytes 10 0))) mac)

/-- PTP_SOURCE_LOSS: the parent of a port is lost (R463). -/
def execPtpSourceLoss (mac : Nat) (s : State) : Out :=
  .next (
    let slave := (getPtp s mac).portState = 9
    let s := bmca (updPtp s mac fun q => { q with parent := none, msDelay := none, t3 := none, mean := none })
    if slave ∧ s.net.timing.source = 1 then sourceLost s else s)

/-- PTP_SIGNALING: a request is granted by a MASTER port and refused by any other; a grant or a cancellation is kept (R456). -/
def execPtpSignaling (rx : PtpRx) (peer : Nat) (signal : PtpSignal) (s : State) : Out :=
  .next (match ptpTakes s rx with
    | (s, none) => s
    | (s, some q) =>
      if ¬ s.net.timing.profile then s
      else
        match signal with
        | .request type i d =>
          let rateOk := if type = 11 then decide (-3 ≤ i ∧ i ≤ 0) else decide (-7 ≤ i ∧ i ≤ 0)
          let ok : Bool := q.portState = 6 && rateOk && type ∈ [0, 9, 11]
          let s := if ok then updPtp s rx.mac fun q => { q with grants := (q.grants.filter fun g => ¬ (g.1 = peer ∧ g.2.1 = type)) ++ [(peer, type, i)] }
            else s
          bumpSeq (sendPtp s rx.mac "grant" [peer] (ptpMessage s rx.mac 12 q.seq.toNat 0 0x7F
            (beBytes 10 peer ++ beBytes 2 5 ++ beBytes 2 8 ++ beBytes 1 (16 * type) ++ beBytes 1 (unsigned 8 i)
              ++ beBytes 4 (if ok then d else 0) ++ beBytes 1 0 ++ beBytes 1 1))) rx.mac
        | .grant type i d =>
          updPtp s rx.mac fun q =>
            let rest := q.granted.filter fun g => ¬ (g.1 = peer ∧ g.2.1 = type)
            { q with granted := if d = 0 then rest else rest ++ [(peer, type, i)] }
        | .cancel type =>
          updPtp s rx.mac fun q =>
            { q with grants := q.grants.filter fun g => ¬ (g.1 = peer ∧ g.2.1 = type), granted := q.granted.filter fun g => ¬ (g.1 = peer ∧ g.2.1 = type) })

/-- HOLDOVER_LIMIT_EXPIRY: FREE_RUN, the holdover rate kept (R462). -/
def execHoldoverLimitExpiry (s : State) : Out :=
  .next (if s.net.timing.state = .holdover ∧ ¬ s.net.timing.linkTime then enterFreeRun s 165 else s)

/-- SOURCE_WRITE: the write of the first timing register that changes SOURCE (R462, R465, R475). -/
def writeTimingControl (v : Nat) (s : State) : State :=
  let src := v % 4
  let dom := bits v 23 16
  let ok : Bool := if bit v 2 then decide (44 ≤ dom ∧ dom ≤ 63) else decide (24 ≤ dom ∧ dom ≤ 43)
  if src = 3 ∨ ¬ ok then valueError s 0x8C00
  else
    let old := s.net.timing.source.toNat
    let freq := s.net.timing.freqRef
    let s := updTiming s fun t =>
      { t with
        source := BitVec.ofNat 2 src, profile := bit v 2, bc := bit v 3, ppsOutEn := bit v 4, todOutEn := bit v 5, todInEn := bit v 6,
        freqRef := bit v 7, synceEn := bit v 8, domain := BitVec.ofNat 8 dom, priority2 := BitVec.ofNat 8 (bits v 31 24) }
    let s := if bit v 7 ∧ ¬ freq ∧ ¬ s.net.timing.clk10mLost then updTiming s fun t => { t with rate := t.clk10mRate } else s
    let s := bmca s
    if s.net.timing.linkTime then s
    else
      match s.net.timing.state with
      | .holdover => if src = 0 then enterFreeRun s 248 else enterAcquiring (updTiming s fun t => { t with present := false })
      | _ =>
        if src = 0 then enterFreeRun (updTiming s fun t => { t with present := false }) 248
        else if src ≠ old then sourceLost s
        else s

def execSourceWrite (value : BitVec 32) (s : State) : Out := .next (chipWrite s (writeTimingControl value.toNat))

/-! ### SyncE (17 R458) -/

/-- An ESMC PDU of the device. -/
def esmcBytes (ql : Nat) (event : Bool) : List Byte :=
  beBytes 1 0x0A ++ beBytes 3 0x0019A7 ++ beBytes 2 1 ++ beBytes 1 (16 + 8 * b2n event) ++ beBytes 3 0 ++ beBytes 3 0x010004 ++ beBytes 1 ql

/-- Sends an ESMC PDU on every MAC that is up. -/
def sendEsmc (s : State) (event : Bool) : State :=
  if s.net.timing.esmcEn then
    (upMacs s).foldl (fun s m => sendFrame s m "esmc" 0x0180C2000002 none 0x8809 (esmcBytes s.net.timing.qlTx.toNat event)) s
  else s

/-- ESMC_SEND. -/
def execEsmcSend (s : State) : Out := .next (sendEsmc s false)

/-- ESMC_PDU: the received QL of each source on the MAC. -/
def execEsmcPdu (mac : Nat) (ql : BitVec 4) (s : State) : Out :=
  .next (
    if ¬ (getMac s mac).up then s
    else
      updTiming (countRx s mac) fun t =>
        if ¬ t.esmcEn then t
        else
          { t with
            qlRx0 := if t.src0.toNat = mac then ql else t.qlRx0, esmcTimeout0 := t.esmcTimeout0 && decide (t.src0.toNat ≠ mac)
            qlRx1 := if t.src1.toNat = mac then ql else t.qlRx1, esmcTimeout1 := t.esmcTimeout1 && decide (t.src1.toNat ≠ mac) })

/-- ESMC_TIMEOUT: 5 s without a PDU of a source. -/
def execEsmcTimeout (src : Nat) (s : State) : Out :=
  .next (updTiming s fun t =>
    if src = 0 then { t with qlRx0 := 0xF, esmcTimeout0 := true }
    else if src = 1 then { t with qlRx1 := 0xF, esmcTimeout1 := true }
    else t)

/-- SYNCE_LOCKED (R458). -/
def synceLocked (s : State) : Bool :=
  let t := s.net.timing
  t.synceEn && (getMac s t.src0.toNat).up && decide (t.qlRx0 ≠ 0xF)

/-! ### Physical inputs and outputs (17 R459-R461) -/

/-- CLK10M_LOST. -/
def execClk10mLost (s : State) : Out := .next (updTiming s fun t => { t with clk10mLost := true })

/-- CLK10M_RESTORED: edges within 50 ppm; with FREQ_REF the rate follows them. -/
def execClk10mRestored (rate : Int) (s : State) : Out :=
  .next (if rate.natAbs ≤ 14073748835 then
    updTiming s fun t => { t with clk10mLost := false, clk10mRate := rate, rate := if t.freqRef then rate else t.rate }
  else s)

/-- PPS_IN_EDGE: `pin`, its time at the pin in 2^-16 ns of device time (R460). -/
def execPpsInEdge (pin : Int) (s : State) : Out :=
  .next (
    let t := s.net.timing
    let edge := pin - t.ppsInDelay.toInt * 65536
    let second : Int := 65536000000000
    let d := edge - (edge + second / 2) / second * second
    let tight := t.state = .locked ∨ t.state = .holdover
    if tight ∧ 65536000 < d.natAbs then s
    else
      let s := updTiming s fun t =>
        { t with ppsLost := false, ppsEdge := some (edge / 65536).toNat, todSeconds := t.todSeconds.map (· + 1) }
      match t.todSeconds with
      | some k => if t.source = 2 ∧ ¬ t.todLost then measured s (edge - k * second) else s
      | none => s)

/-- PPS_LOST. -/
def execPpsLost (s : State) : Out :=
  .next (
    let s := updTiming s fun t => { t with ppsLost := true, ppsEdge := none }
    if s.net.timing.source = 2 then sourceLost s else s)

/-- PPS_OUT_EDGE: the second, PPS_OUT_DELAY and WIDTH (R460). -/
def execPpsOutEdge (s : State) : Out :=
  .next (
    let t := s.net.timing
    if t.ppsOutEn then emit s (.timing "pps" [timeS s, t.ppsOutDelay.toNat, t.width.toNat]) else s)

/-- CRC-8 with polynomial 0x07 and initial value 0 (R461). -/
def crc8 (bs : List Byte) : Nat :=
  bs.foldl (fun c b => (List.range 8).foldl (fun c _ => if bit c 7 then ((c * 2) % 256) ^^^ 7 else (c * 2) % 256) (c ^^^ b.toNat)) 0

/-- STATE as a number (R465). -/
def SyncState.code : SyncState → Nat
  | .freeRun => 0
  | .acquiring => 1
  | .locked => 2
  | .holdover => 3

/-- TOD_MESSAGE (R461). -/
def execTodMessage (data : List Byte) (s : State) : Out :=
  .next (
    let t := s.net.timing
    match t.ppsEdge with
    | none => s
    | some e =>
      let good := t.todInEn ∧ t.source = 2 ∧ data.length = 16 ∧ imgLe data 0 2 = 0x4454 ∧ imgByte data 2 = 16
        ∧ crc8 (data.take 15) = imgByte data 15 ∧ e + 100000000 ≤ nowNs s ∧ nowNs s ≤ e + 900000000
      if good then updTiming s fun t => { t with todLost := false, todSeconds := some (imgLe data 4 6 + 1) } else s)

/-- TOD_LOST. -/
def execTodLost (s : State) : Out :=
  .next (
    let s := updTiming s fun t => { t with todLost := true, todSeconds := none }
    if s.net.timing.source = 2 then sourceLost s else s)

/-- TOD_OUT_MESSAGE: names the PPS_OUT edge of the second in progress (R461). -/
def execTodOutMessage (s : State) : Out :=
  .next (
    let t := s.net.timing
    if ¬ t.todOutEn then s
    else
      let m := leBytes 2 0x4454 ++ leBytes 1 16 ++ leBytes 1 t.state.code ++ leBytes 6 (timeS s) ++ leBytes 2 t.utcOffset.toNat
        ++ leBytes 1 (b2n t.leap61 + 2 * b2n t.leap59) ++ leBytes 2 0
      emit s (.timing "tod" ((m ++ leBytes 1 (crc8 m)).map BitVec.toNat)))

/-! ### Setting and reading device time (17 R455, R465) -/

/-- TIME_SET_APPLY: the write of APPLY. -/
def applyTimeSet (v : Nat) (s : State) : State :=
  let t := s.net.timing
  if ¬ bit v 0 then s
  else if t.state ≠ .freeRun then valueError s 0x8C2C
  else updTiming s fun t =>
    { t with time := mkTime ((t.setHi.toNat * 2 ^ 32 + t.setLo.toNat) * 1000000000 + t.setNs.toNat) 0, frac := 0 }

def execTimeSetApply (value : BitVec 32) (s : State) : Out := .next (chipWrite s (applyTimeSet value.toNat))

/-- TIME_LATCH: the write of LATCH. -/
def latchTime (v : Nat) (s : State) : State := if bit v 0 then updTiming s fun t => { t with latch := t.time } else s

def execTimeLatch (value : BitVec 32) (s : State) : Out := .next (chipWrite s (latchTime value.toNat))

end Sys2Proof.Machine
end

