-- ==== Sys2Proof/Machine/Service.lean ====
section
/-! DEFINITION. Inference services: pages, sessions, batches, acceptance (11_attention_and_kv_pages, 17 R450). -/

namespace Sys2Proof.Machine

/-! ### A service and its frames (11 R276-R280) -/

def Svc.layers (v : Svc) : Nat := v.f 0x1A 2
def Svc.heads (v : Svc) : Nat := v.f 0x1C 1
def Svc.dim (v : Svc) : Nat := v.f 0x1E 2
def Svc.positions (v : Svc) : Nat := v.f 0x21 1
def Svc.draftN (v : Svc) : Nat := v.f 0x23 1
def Svc.maxPages (v : Svc) : Nat := v.f 0x24 2
def Svc.pool (v : Svc) : Nat := v.f 0x30 8
def Svc.frames (v : Svc) : Nat := v.f 0x38 4
def Svc.overflow (v : Svc) : Nat := v.f 0x50 8
def Svc.overflowSlots (v : Svc) : Nat := v.f 0x58 4
def Svc.overflowFn (v : Svc) : Nat := v.f 0x5C 1
/-- DRAFT_PARENT[i] (R276). -/
def Svc.draftParent (v : Svc) (i : Nat) : Nat := v.f (0x60 + i) 1

/-- Bytes of a key row, elements and scales, then its granules RS (R278). -/
def keyGranules (fmt dim : Nat) : Nat := ceilDiv ((if fmt = 0x07 then dim * 6 / 8 else dim) + dim / 32) 64

/-- BLOCK_BYTES (R278). -/
def Svc.blockBytes (v : Svc) : Nat := 256 * keyGranules (v.f 0x20 1) v.dim * 64 + 256 * v.dim

/-- FRAME_BYTES (R278). -/
def Svc.frameBytes (v : Svc) : Nat := 4096 + v.layers * v.heads * v.blockBytes

def updSvc (s : State) (i : Nat) (f : Svc → Svc) : State :=
  { s with services := s.services.map fun e => if e.1 = i then (e.1, f e.2) else e }

/-- The n bytes at an address of the service's partition. -/
def Svc.read (v : Svc) (s : State) (a n : Nat) : List Byte := readImage s v.part a n

def Svc.frameAt (v : Svc) (frame : Nat) : Nat := v.pool + frame * v.frameBytes

/-! ### The page directory (11 R283-R290) -/

/-- STATE of a directory entry (R283). -/
def pgFree : Nat := 0
def pgResident : Nat := 1
def pgNoticed : Nat := 2
def pgCommitted : Nat := 3
def pgHost : Nat := 4
def pgLoading : Nat := 5

/-- A FREE directory entry. -/
def KvPage.blank : KvPage :=
  { state := pgFree, shareable := false, registered := false, fill := 0, share := 0, frame := none, hostSlot := none, hash := 0,
    noticeShare := 0, lastUse := 0, noticed := 0 }

/-- The 32 bytes of a directory entry (R283). -/
def KvPage.bytes (p : KvPage) : List Byte :=
  leBytes 1 p.state ++ leBytes 1 (b2n p.shareable + 2 * b2n p.registered) ++ leBytes 2 p.fill ++ leBytes 4 p.share
    ++ leBytes 4 (p.frame.getD 0xFFFFFFFF) ++ leBytes 4 (p.hostSlot.getD 0xFFFFFFFF) ++ leBytes 8 p.hash.toNat
    ++ leBytes 4 p.noticeShare ++ leBytes 4 p.lastUse

def Svc.page (v : Svc) (i : Nat) : KvPage := nth KvPage.blank v.pages i
def Svc.updPage (v : Svc) (i : Nat) (f : KvPage → KvPage) : Svc := { v with pages := modNth v.pages i f }

/-- A page that a step may use (R290). -/
def KvPage.ready (p : KvPage) : Bool := p.state = pgResident || p.state = pgNoticed

/-- Frames and overflow slots that no page holds. -/
def Svc.freeFrames (v : Svc) : List Nat := (List.range v.frames).filter fun f => !v.pages.any fun p => p.frame = some f
def Svc.freeSlot (v : Svc) : Option Nat := (List.range (if v.overflow = 0 then 0 else v.overflowSlots)).find? fun f => !v.pages.any fun p => p.hostSlot = some f

/-- Indices of pages that satisfy a test, in ascending LAST_USE. -/
def Svc.oldest (v : Svc) (p : KvPage → Bool) : List Nat :=
  let at_ := (v.pages.zipIdx.filter fun e => p e.1).map Prod.snd
  at_.foldl (fun l i =>
    (l.takeWhile fun k => (v.page k).lastUse ≤ (v.page i).lastUse) ++ i :: l.dropWhile fun k => (v.page k).lastUse ≤ (v.page i).lastUse) []

/-- Sessions that hold a page. -/
def Svc.holders (v : Svc) (page : Nat) : List Session := v.sessions.filter fun x => page ∈ x.pages

/-- Takes a free frame for a new page, RESIDENT with SHARE 1; its header is zeroed (R278). -/
def takePage (s : State) (i : Nat) : Option (State × Nat) :=
  match getSvc s i with
  | none => none
  | some v =>
    match v.freeFrames.head? with
    | none => none
    | some f =>
      let n := (v.pages.zipIdx.find? fun e => e.1.state = pgFree).elim v.pages.length Prod.snd
      let p : KvPage := { KvPage.blank with state := pgResident, share := 1, frame := some f, lastUse := v.steps }
      let s := hbmWrite s v.part (v.frameAt f) (List.replicate 4096 0)
      some (updSvc s i fun v => { v with pages := if n < v.pages.length then setNth v.pages n p else v.pages ++ [p] }, n)

/-- A page that a session needs is reloaded, now or after its copy (R289). -/
def Svc.want (v : Svc) (page : Nat) : Svc :=
  if ((v.page page).state = pgHost ∨ (v.page page).state = pgCommitted) ∧ page ∉ v.reloads then { v with reloads := v.reloads ++ [page] } else v

/-- A share increment (R289). -/
def Svc.incShare (v : Svc) (page : Nat) : Svc := (v.updPage page fun p => { p with share := p.share + 1 }).want page

/-- What becomes of a page whose SHARE is 0 (R286): freed, or kept as a cached prefix; one that is NOTICED, copied or loaded
waits for its commit test or its copy (R302). -/
def KvPage.settle (p : KvPage) : KvPage :=
  if p.share = 0 ∧ !p.registered ∧ (p.state = pgResident ∨ p.state = pgHost) then KvPage.blank else p

/-- A share decrement (R286). -/
def Svc.decShare (v : Svc) (page : Nat) : Svc := v.updPage page fun p => { p with share := p.share - 1 }.settle

/-- Frees cached prefixes, then notices evictions, until free frames plus noticed pages reach HIGH_WATER (R287). -/
def Svc.relieve (v : Svc) (now : Nat) : Svc :=
  let enough := fun (v : Svc) => decide (v.f 0x2A 2 ≤ v.freeFrames.length + (v.pages.filter fun p => p.state = pgNoticed).length)
  let cached := v.oldest fun p => p.state = pgResident && p.registered && decide (p.share = 0)
  let v := cached.foldl (fun v k => if enough v then v else v.updPage k fun _ => KvPage.blank) v
  let idle := (v.oldest fun p => p.state = pgResident).filter fun k => (v.holders k).all fun x => x.phase = 2
  idle.foldl (fun v k =>
    if enough v then v
    else
      match v.freeSlot with
      | none => v
      | some n => v.updPage k fun p => { p with state := pgNoticed, noticeShare := p.share, hostSlot := some n, noticed := now }) v

/-- The commit test of a noticed page (R288). -/
def Svc.commitTest (v : Svc) (k : Nat) : Svc :=
  let used := v.batches.any fun b => b.slots.any fun x => (v.holders k).any fun y => y.id = x.session
  v.updPage k fun p =>
    if p.share = p.noticeShare ∧ !used then { p with state := pgCommitted }
    else ({ p with state := pgResident, hostSlot := none } : KvPage).settle

/-- Whether the device may issue DMA to the overflow region (15 R411). -/
def Svc.dmaOn (v : Svc) (s : State) : Bool := (getFn s v.overflowFn).busMaster && !(getFn s v.overflowFn).resetting

/-- Starts the next eviction copy and the next reload, one of each at a time (R288, R290). -/
def startCopies (s : State) (i : Nat) : State :=
  match getSvc s i with
  | none => s
  | some v =>
    if !v.dmaOn s then s
    else
      let v := if v.copying.isNone then { v with copying := (v.oldest fun p => p.state = pgCommitted).head? } else v
      let v :=
        match v.loading, v.reloads.find? fun k => (v.page k).state = pgHost with
        | none, some k =>
          let v := if v.freeFrames = [] then v.relieve (nowNs s) else v
          (match v.freeFrames.head? with
            | none => v
            | some f =>
              { v.updPage k fun p => { p with state := pgLoading, frame := some f } with loading := some k, reloads := v.reloads.filter (· ≠ k) })
        | _, _ => v
      updSvc s i fun _ => v

/-! ### Sessions (11 R294-R300) -/

/-- Phases of a session; a parked one is IDLE or GENERATING (R300). -/
def phOpening : Nat := 0
def phPrefill : Nat := 1
def phIdle : Nat := 2
def phGenerating : Nat := 3

def updSession (s : State) (i id : Nat) (f : Session → Session) : State :=
  updSvc s i fun v => { v with sessions := v.sessions.map fun x => if x.id = id then f x else x }

/-- Whether every page of a session can be used (R290). -/
def Svc.resident (v : Svc) (x : Session) : Bool := x.pages.all fun k => (v.page k).ready

/-- The state that R300 shows, in table order from 0. -/
def Svc.shownPhase (v : Svc) (x : Session) : Nat :=
  if (x.phase = phIdle ∨ x.phase = phGenerating) ∧ !v.resident x then 4 else x.phase

/-- A session of a step block. -/
def Svc.inBatch (v : Svc) (id : Nat) : Bool := v.batches.any fun b => b.slots.any fun x => x.session = id

/-- Prompts whose tokens and shared pages are all there begin to be computed (R300). -/
def wakeSessions (s : State) (i : Nat) : State :=
  updSvc s i fun v =>
    { v with sessions := v.sessions.map fun x =>
      if x.phase = phOpening ∧ x.length + x.queued.length = x.total ∧ v.resident x then { x with phase := phPrefill, eligible := nowNs s }
      else x }

/-- Requests the reload of every page of a session that lies in host memory (R289). -/
def wantPages (s : State) (i : Nat) (x : Session) : State := startCopies (updSvc s i fun v => x.pages.foldl Svc.want v) i

/-- SESSION_END (R298). -/
def sendSessionEnd (s : State) (i id addr reason : Nat) : State :=
  match getSvc s i with
  | some v => serviceSend s i v addr 0x0991 0 (padTo 16 (leBytes 4 id ++ leBytes 4 reason))
  | none => s

/-- Ends a session: what waits of it completes, its shares fall, SESSION_END is sent, and its client ends with its last session
(R298, 13 R351). Reasons: 0 closed, 1 fault, 2 lost, 3 service closed. -/
def dropSession (s : State) (i id reason : Nat) : State :=
  match (getSvc s i).bind fun v => v.session id with
  | none => s
  | some x =>
    let st := if reason = 0 then eSuperseded else eAborted
    let s := match x.gen with
      | some g => finish s g.ticket ⟨st, g.emitted, 0, 0, 0⟩
      | none => s
    let s := x.forks.foldl (fun s k => finish s k.1 (Done.of st)) s
    let s := match x.closing with
      | some t => finish s t (Done.of eOk)
      | none => s
    let s := updSvc s i fun v => { x.pages.foldl Svc.decShare v with sessions := v.sessions.filter fun y => y.id ≠ id }
    let s := sendSessionEnd s i id x.addr reason
    match getSvc s i with
    | none => s
    | some v => if v.sessions.any fun y => y.client = x.client then s else clientEnds s v.part 1 (svcClient i x.client)

/-- Closes a service: its sessions end, its job is bound to none, SVC_CLOSE completes (R277, R302). -/
def closeService (s : State) (i reason : Nat) : State :=
  match getSvc s i with
  | none => s
  | some v =>
    let s := v.sessions.foldl (fun s x => dropSession s i x.id reason) s
    let s := updJob s v.job fun j => { j with service := none, pool := none }
    let s := { s with services := Tbl.del s.services i }
    match v.closing with
    | some t => finish s t (Done.of eOk)
    | none => s

/-- A request ends its session's generation: it completes and the session is IDLE (R298). -/
def endGenerate (s : State) (i id status reason : Nat) : State :=
  match (getSvc s i).bind fun v => v.session id with
  | none => s
  | some x =>
    match x.gen with
    | none => s
    | some g =>
      finish (updSession s i id fun x => { x with gen := none, phase := phIdle, starved := none }) g.ticket
        ⟨status, if status = eOk then g.emitted else 0, reason, 0, 0⟩

/-! ### Batches and step blocks (11 R291-R294, R297) -/

/-- SLOT_BYTES, and the address of step block e mod 4 (R291). -/
def Svc.slotBytes (v : Svc) : Nat := 64 * ceilDiv (0x480 + 4 * v.maxPages) 64
def Svc.stepAt (v : Svc) (e : Nat) : Nat := v.f 0x40 8 + e % 4 * (64 + v.batchSlots * v.slotBytes)

/-- Parents of the step positions: position 0 has none (R297). -/
def Svc.parents (v : Svc) (n : Nat) : List Nat :=
  (List.range n).map fun i =>
    if i = 0 then 0xFF
    else
      let d := v.draftParent (i - 1)
      if d = 0xFF then 0 else d + 1

/-- Whether position j is position i or an ancestor of it. -/
def sees (ps : List Nat) : Nat → Nat → Nat → Bool
  | 0, i, j => decide (i = j)
  | n + 1, i, j => decide (i = j) || (decide (nth 0xFF ps i ≠ 0xFF) && sees ps n (nth 0xFF ps i) j)

/-- MASK of a position (R297). -/
def maskOf (ps : List Nat) (i : Nat) : Nat := sumNat ((List.range ps.length).map fun j => if sees ps 16 i j then 2 ^ j else 0)

/-- A list of k entries of n bytes, filled up with a value. -/
def fillBytes (k n fill : Nat) (l : List Nat) : List Byte :=
  (List.range k).flatMap fun i => leBytes n (nth fill l i)

/-- The bytes of a slot of a step block (R291). -/
def Svc.slotData (v : Svc) (b : Option (BatchSlot × Session)) : List Byte :=
  let head := match b with
    | none =>
      leBytes 4 0xFFFFFFFF ++ leBytes 4 0 ++ leBytes 2 1 ++ leBytes 2 0 ++ leBytes 4 0 ++ fillBytes 16 1 0xFF [] ++ fillBytes 16 2 0 []
        ++ fillBytes 16 1 0xFF [] ++ fillBytes 48 1 0 [] ++ fillBytes 256 4 0 [] ++ fillBytes v.maxPages 4 0xFFFFFFFF []
    | some (k, x) =>
      leBytes 4 x.id ++ leBytes 4 x.length ++ leBytes 2 k.tokens.length ++ leBytes 2 x.pages.length ++ leBytes 4 x.prior
        ++ fillBytes 16 1 0xFF k.parents ++ fillBytes 16 2 0 ((List.range k.parents.length).map (maskOf k.parents))
        ++ fillBytes 16 1 0xFF x.compact ++ fillBytes 48 1 0 [] ++ fillBytes 256 4 0 k.tokens
        ++ fillBytes v.maxPages 4 0xFFFFFFFF (x.pages.map fun p => (v.page p).frame.getD 0xFFFFFFFF)
  padTo v.slotBytes head

/-- Writes the step block of a batch (R291). -/
def writeStepBlock (s : State) (i : Nat) (b : Batch) : State :=
  match getSvc s i with
  | none => s
  | some v =>
    let head := padTo 64 (leBytes 4 b.epoch ++ leBytes 1 b.slots.length ++ leBytes 1 (b2n b.prefill))
    let slots := (List.range v.batchSlots).flatMap fun k =>
      v.slotData ((b.slots[k]?).bind fun x => (v.session x.session).map fun y => (x, y))
    hbmWrite s v.part (v.stepAt b.epoch) (head ++ slots)

/-- The tokens that a session computes in its next step: a chunk of its queue, or its root and drafts (R294, R297, R300). -/
def Svc.nextTokens (v : Svc) (x : Session) : List Nat :=
  if x.phase = phPrefill then x.queued.take (if x.decoded then 256 else 256 - x.length % 256)
  else
    let spec : Bool := match x.gen with
      | some g => g.speculate
      | none => false
    (x.root.getD 0) :: (if spec then (List.range v.draftN).map fun k => nth 0 x.drafts k else [])

/-- Pages of a session that its next step writes: those it appends to, and those it compacts (R280, R286, R292). -/
def written (x : Session) (n : Nat) : List Nat :=
  (List.range x.pages.length).filter fun k =>
    (decide (x.length < 256 * (k + 1)) && decide (256 * k < x.length + n))
      || (decide (x.compact ≠ []) && decide (x.prior < 256 * (k + 1)) && decide (256 * k < x.prior + x.compact.length))

/-- Replaces a shared page of a session by a copy in a free frame (R286). -/
def copyOnWrite (s : State) (i id k : Nat) : State :=
  match takePage s i with
  | none => s
  | some (s, n) =>
    match (getSvc s i).bind fun v => (v.session id).map fun x => (v, x) with
    | none => s
    | some (v, x) =>
      let old := nth 0 x.pages k
      match (v.page old).frame, (v.page n).frame with
      | some a, some b =>
        let s := hbmWrite s v.part (v.frameAt b) (v.read s (v.frameAt a) v.frameBytes)
        let s := updSession s i id fun x => { x with pages := setNth x.pages k n }
        updSvc s i fun v => (v.updPage n fun p => { p with fill := (v.page old).fill }).decShare old
      | _, _ => s

/-- Gives a session the pages of its next step, or marks since when it waits for a frame (R286, R294). -/
def preparePages (s : State) (i id : Nat) : State × Bool :=
  match (getSvc s i).bind fun v => (v.session id).map fun x => (v, x) with
  | none => (s, false)
  | some (v, x) =>
    let n := (v.nextTokens x).length
    let shared := (written x n).filter fun k => decide (1 < (v.page (nth 0 x.pages k)).share)
    let more := ceilDiv (x.length + n) 256 - x.pages.length
    if v.freeFrames.length < shared.length + more then
      (updSession s i id fun x => { x with starved := some (x.starved.getD (nowNs s)) }, false)
    else
      let s := shared.foldl (fun s k => copyOnWrite s i id k) s
      let s := (List.range more).foldl (fun s _ =>
        match takePage s i with
        | some (s, p) => updSession s i id fun x => { x with pages := x.pages ++ [p] }
        | none => s) s
      (updSession s i id fun x => { x with starved := none }, true)

/-- Sessions that a batch may take, in order of their oldest pending request (R290, R294). -/
def Svc.eligible (v : Svc) : List Session :=
  let l := v.sessions.filter fun x =>
    (decide (x.phase = phPrefill ∧ x.queued ≠ []) || decide (x.phase = phGenerating ∧ x.root.isSome)) && x.closing.isNone
      && !v.inBatch x.id && v.resident x
  l.foldl (fun l x => (l.takeWhile fun y => y.asked ≤ x.asked) ++ x :: l.dropWhile fun y => y.asked ≤ x.asked) []

/-- Adds sessions to a batch while slots are left. -/
def fillBatch (i : Nat) (prefill : Bool) : State → List Session → List BatchSlot → State × List BatchSlot
  | s, [], acc => (s, acc)
  | s, x :: l, acc =>
    match getSvc s i with
    | none => (s, acc)
    | some v =>
      if v.batchSlots ≤ acc.length ∨ decide (x.phase = phPrefill) ≠ prefill then fillBatch i prefill s l acc
      else
        let r := preparePages s i x.id
        if ¬ r.2 then fillBatch i prefill r.1 l acc
        else
          let ts := v.nextTokens x
          fillBatch i prefill r.1 l
            (acc ++ [{ session := x.id, tokens := ts, parents := if prefill then [] else v.parents ts.length }])

/-- Forms the batch of an epoch, writes its step block and its selector word, and posts READY (R291, R293, R294). The batch is
prefill or decode as the session with the oldest request is (log 68). -/
def formBatch (s : State) (i e : Nat) : State :=
  match getSvc s i with
  | none => s
  | some v =>
    let l := v.eligible
    let prefill : Bool := match l.head? with
      | some x => decide (x.phase = phPrefill)
      | none => false
    let r := fillBatch i prefill s l []
    let b : Batch := { epoch := e, prefill := prefill, slots := r.2 }
    let s := updSvc r.1 i fun v => { v with batches := v.batches ++ [b] }
    let s := writeStepBlock s i b
    match getSvc s i, getJob s v.job with
    | some v, some j =>
      let pages := b.slots.foldl (fun m k => max m ((v.session k.session).elim 0 fun x => x.pages.length)) 0
      let s := updJob s v.job fun j =>
        { j with selectors := Tbl.set 0 j.selectors (j.ruleField 0 2) (pages + if prefill then 1024 else 0) }
      let rec_ := j.ruleField 2 2
      let plan := (j.insts.head?).elim 0 fun k => k.plan
      (match j.tallyOfRecord rec_ with
        | some t => (jobTallyAdd s v.job t (max 1 (tallyField j.image rec_ (0x10 + 2 * plan) 2)) (sourceCode 6 0) none).1
        | none => s)
    | _, _ => s

/-- Forms the batch of epoch e + 1 once epoch e is in progress and epoch e − 1 has ended on every core (R294, R296). -/
def serviceTurn (s : State) (h : Nat) : State :=
  match getJob s h with
  | none => s
  | some j =>
    match j.service with
    | none => s
    | some i =>
      let e := j.epochsDone + 1
      match getSvc s i with
      | none => s
      | some v =>
        if e ≤ j.begunEpochs ∧ v.closing.isNone ∧ !v.batches.any (fun b => b.epoch = e) then startCopies (formBatch s i e) i else s

/-- Epoch e begins on its first core: the clients of its batch are charged their waiting time (13 R349). -/
def serviceBegins (s : State) (h e : Nat) : State :=
  match (getJob s h).bind Job.service with
  | none => s
  | some i =>
    match getSvc s i with
    | none => s
    | some v =>
      let xs := (v.batches.filter fun b => b.epoch = e).flatMap fun b => b.slots.filterMap fun k => v.session k.session
      xs.foldl (fun s x => chargeClient s i x.client { Ledger.none with queueNs := nowNs s - x.eligible }) s

/-! ### Acceptance and the end of an epoch (11 R285, R295, R296) -/

/-- A result record: TARGET, and DRAFT of a position (R295). -/
def Svc.record (v : Svc) (s : State) (e slot : Nat) : List Byte := v.read s (v.f 0x48 8 + e % 4 * v.batchSlots * 1088 + slot * 1088) 1088
def targetOf (r : List Byte) (i : Nat) : Nat := imgLe r (0x10 + 4 * i) 4
def draftOf (r : List Byte) (i k : Nat) : Nat := imgLe r (0x50 + 60 * i + 4 * k) 4

/-- The accepted path from a node, and its last node (R296). -/
def acceptPath (parents tokens : List Nat) (y : Nat → Nat) : Nat → Nat → List Nat × Nat
  | 0, node => ([], node)
  | n + 1, node =>
    match (List.range tokens.length).find? fun j => nth 0xFF parents j = node ∧ nth 0 tokens j = y node with
    | none => ([], node)
    | some c =>
      let r := acceptPath parents tokens y n c
      (c :: r.1, r.2)

/-- Tokens up to and with the first stop token. -/
def upToStop (stops : List Nat) : List Nat → List Nat
  | [] => []
  | t :: l => if t ∈ stops then [t] else t :: upToStop stops l

/-- The tokens of the page headers that hold positions from a length on (R278). -/
def writeTokens (s : State) (i : Nat) (x : Session) (from_ : Nat) : List Nat → State
  | [] => s
  | t :: l =>
    match getSvc s i with
    | none => s
    | some v =>
      let s := match (v.page (nth 0 x.pages (from_ / 256))).frame with
        | some f => hbmWrite s v.part (v.frameAt f + 4 * (from_ % 256)) (leBytes 4 t)
        | none => s
      writeTokens s i x (from_ + 1) l

/-- FILL of a session's pages, and LAST_USE of those that the epoch read (R283). -/
def refill (s : State) (i id : Nat) : State :=
  match (getSvc s i).bind fun v => v.session id with
  | none => s
  | some x => updSvc s i fun v => x.pages.zipIdx.foldl (fun v e => v.updPage e.1 fun p =>
      { p with fill := max (min 256 (x.length - 256 * e.2)) (if 1 < p.share then p.fill else 0), lastUse := v.steps }) v

/-- HASH of a page: the previous page's HASH, IMAGE_ID, the page's token identifiers (R285). -/
def pageHash (image : List Byte) (prev : Nat) (tokens : List Nat) : Nat :=
  crc64 (leBytes 8 prev ++ (image.drop 0x20).take 8 ++ tokens.flatMap (leBytes 4))

/-- Registers the page that a prefill step has completed, when it is SHAREABLE (R285, log 68). -/
def registerPage (s : State) (i id k : Nat) : State :=
  match (getSvc s i).bind fun v => (v.session id).map fun x => (v, x) with
  | none => s
  | some (v, x) =>
    let prev := v.page (nth 0 x.pages (k - 1))
    if k ≠ 0 ∧ !prev.shareable then s
    else
      let img := (getJob s v.job).elim [] fun j => j.image
      let hash := pageHash img (if k = 0 then 0 else prev.hash.toNat) ((x.held.drop (256 * k)).take 256)
      let p := nth 0 x.pages k
      let s := match x.share, (v.page p).frame with
        | true, some f => hbmWrite s v.part (v.frameAt f + 0x400) (leBytes 8 hash)
        | _, _ => s
      updSvc s i fun v => v.updPage p fun p =>
        { p with shareable := true, registered := x.share, hash := if x.share then BitVec.ofNat 64 hash else 0 }

/-- A prefill slot's step has ended (R285, R295, R300). -/
def applyPrefill (s : State) (i e slot : Nat) (b : BatchSlot) : State :=
  match (getSvc s i).bind fun v => (v.session b.session).map fun x => (v, x) with
  | none => s
  | some (v, x) =>
    let n := b.tokens.length
    let r := v.record s e slot
    let s := writeTokens s i x x.length b.tokens
    let rest := x.queued.drop n
    let s := updSession s i x.id fun y =>
      { y with
        length := x.length + n, held := x.held ++ b.tokens, queued := rest, prior := x.length + n, compact := [], eligible := nowNs s
        phase := if rest = [] then phIdle else phPrefill
        root := if rest = [] then some (targetOf r 0) else none
        drafts := (List.range 15).map (draftOf r 0) }
    let s := refill s i x.id
    if !x.decoded ∧ x.length % 256 = 0 ∧ n = 256 then registerPage s i x.id (x.length / 256) else s

/-- TOKENS (R298). -/
def sendTokens (s : State) (i : Nat) (x : Session) (ts : List Nat) : State :=
  match getSvc s i with
  | some v =>
    serviceSend s i v x.addr 0x0990 0 (padTo 80 (leBytes 4 x.id ++ leBytes 4 ts.length ++ leBytes 8 v.steps ++ ts.flatMap (leBytes 4)))
  | none => s

/-- Acceptance of a decode slot (R296). -/
def applyDecode (s : State) (i e slot : Nat) (b : BatchSlot) : State :=
  match (getSvc s i).bind fun v => (v.session b.session).map fun x => (v, x) with
  | none => s
  | some (v, x) =>
    match x.gen with
    | none => s
    | some g =>
      let r := v.record s e slot
      let a := acceptPath b.parents b.tokens (targetOf r) 16 0
      let path := 0 :: a.1
      let all := (a.1.map fun j => nth 0 b.tokens j) ++ [targetOf r a.2]
      let ts := (upToStop g.stops all).take g.left
      let m := ts.length
      let last := (ts.getLast?).getD 0
      let kept := (path.take m).map fun j => nth 0 b.tokens j
      let s := writeTokens s i x x.length kept
      let s := updSession s i x.id fun y =>
        { y with
          length := x.length + m, held := x.held ++ kept, prior := x.length, compact := path.take m, decoded := true
          root := some last, drafts := (List.range 15).map (draftOf r a.2), eligible := nowNs s
          gen := some { g with left := g.left - m, emitted := g.emitted + m } }
      let s := refill s i x.id
      if x.closing.isSome then s
      else
        let s := sendTokens s i x ts
        if last ∈ g.stops then endGenerate s i x.id eOk 1
        else if g.left ≤ m then endGenerate s i x.id eOk 0
        else if v.maxPages * 256 < x.length + m + v.positions then endGenerate s i x.id eOk 2
        else s

/-- A new session holding every page of another (R298). -/
def forkSession (s : State) (i id tid client addr : Nat) : State × Done :=
  match (getSvc s i).bind fun v => (v.session id).map fun x => (v, x) with
  | none => (s, Done.of eTenant)
  | some (v, x) =>
    if x.phase ≠ phIdle ∨ x.closing.isSome then (s, Done.of eState)
    else if v.f 0x26 2 ≤ v.sessions.length then (s, Done.of eResource)
    else
      let n := v.nextSession
      let y : Session := { x with id := n, client := client, addr := addr, asked := tid, eligible := nowNs s, forks := [], closing := none }
      let s := updSvc s i fun v => { x.pages.foldl Svc.incShare v with sessions := v.sessions ++ [y], nextSession := n + 1 }
      (startCopies s i, ⟨eOk, n, 0, 0, 0⟩)

/-- What waited for the step of a session: forks, then its close (R302). -/
def settleSession (s : State) (i id : Nat) : State :=
  match (getSvc s i).bind fun v => v.session id with
  | none => s
  | some x =>
    let s := updSession s i id fun x => { x with forks := [] }
    let s := x.forks.foldl (fun s k =>
      let r := forkSession s i id k.1 k.2.1 k.2.2
      finish r.1 k.1 r.2) s
    if x.closing.isSome ∧ !((getSvc s i).elim false fun v => v.inBatch id) then dropSession s i id 0 else s

/-- Epoch e of a service's job has ended on every core: acceptance and the requests that waited, then commit tests and eviction
notices (R285-R288, R296, R302). -/
def serviceEnds (s : State) (h e : Nat) : State :=
  match (getJob s h).bind Job.service with
  | none => s
  | some i =>
    match getSvc s i with
    | none => s
    | some v =>
      let b := (v.batches.find? fun b => b.epoch = e).getD { epoch := e, prefill := false, slots := [] }
      let s := divideUse s h i b
      let s := updSvc s i fun v => { v with batches := v.batches.filter (fun b => b.epoch ≠ e), steps := satAdd 32 v.steps 1 }
      let s := b.slots.zipIdx.foldl (fun s k => if b.prefill then applyPrefill s i e k.2 k.1 else applyDecode s i e k.2 k.1) s
      let s := b.slots.foldl (fun s k => settleSession s i k.session) s
      let now := nowNs s
      let s := updSvc s i fun v =>
        let tested := (v.pages.zipIdx.filter fun p => p.1.state = pgNoticed ∧ p.1.noticed + 100000 ≤ now).map Prod.snd
        let v := tested.foldl Svc.commitTest v
        if v.freeFrames.length < v.f 0x28 2 then v.relieve now else v
      wakeSessions (startCopies s i) i

/-- Starts the invocation of a service's job; after a core failure the job is placed again first, and step blocks that have not ended
run anew after an empty epoch 0; when placement refuses, the service closes (02 R41, R302, log 69). -/
def startService (s : State) (i : Nat) : State :=
  match (getSvc s i).bind fun v => (getJob s v.job).map fun j => (v, j) with
  | none => s
  | some (v, j) =>
    match (if j.lostCore = 1 then placeFully s v.job j else .inl j) with
    | .inr _ => closeService (updJob s v.job fun j => { j with insts := [], lostCore := 2 }) i 1
    | .inl j' =>
      let s := if j.lostCore = 1 then settleRinses (placeAgain s v.job j') else s
      let s := startInvocation s v.job none true
      let first := v.batches.foldl (fun m b => min m b.epoch) (v.batches.foldl (fun m b => max m b.epoch) 0)
      let bs := v.batches.map fun b => { b with epoch := b.epoch - first + 1 }
      let s := updSvc s i fun v => { v with batches := bs }
      let s := writeStepBlock s i { epoch := 0, prefill := false, slots := [] }
      bs.foldl (fun s b => writeStepBlock s i b) s

/-- Services whose job has stopped: after a core failure the same step blocks run anew; after SVC_CLOSE the service is released; any
other end is a fault (R302, log 69). A service without a session yet has not started its job. -/
def settleServices (s : State) : State :=
  (s.services.filter fun e => ((getJob s e.2.job).elim true fun j => j.run.isNone)).foldl (fun s e =>
    match getJob s e.2.job with
    | none => closeService s e.1 3
    | some j =>
      if e.2.closing.isSome then closeService s e.1 3
      else if e.2.nextSession = 1 then s
      else if j.lostCore = 1 then startService s e.1
      else closeService s e.1 1) s

/-! ### SVC_OPEN, SVC_CLOSE, SVC_QUERY (11 R276, R277) -/

/-- Whether a range lies wholly inside one TRANSLATIONS range of an image. -/
def inOneRange (img : List Byte) (a n : Nat) : Bool :=
  (List.range (imgSection img 0x000B).1).any fun i =>
    let lo := imgField img 0x000B 16 i 0 8
    decide (lo ≤ a) && decide (a + n ≤ lo + imgField img 0x000B 16 i 8 4 * pageBytes)

/-- Ranges of the fields of SVC_OPEN (R276). -/
def Ctx.svcFields (c : Ctx) : Bool :=
  let d := c.f 0x23 1
  let pool := c.f 0x38 4
  decide (c.f 0x14 1 ≤ 7 ∧ c.f 0x15 1 ≤ 7 ∧ c.f 0x16 2 < 4096 ∧ c.f 0x18 2 ≤ 8191) && decide (1 ≤ c.f 0x1A 2 ∧ c.f 0x1A 2 ≤ 256)
    && decide (1 ≤ c.f 0x1C 1 ∧ c.f 0x1C 1 ≤ 64) && decide (1 ≤ c.f 0x1D 1 ∧ c.f 0x1D 1 ≤ 16) && decide (c.f 0x1E 2 ∈ [64, 128, 256])
    && decide (c.f 0x20 1 ∈ [0x05, 0x07]) && decide (1 ≤ c.f 0x21 1 ∧ c.f 0x21 1 ≤ 16) && decide (1 ≤ c.f 0x22 1 ∧ c.f 0x22 1 ≤ 64)
    && decide (d < c.f 0x21 1) && decide (1 ≤ c.f 0x24 2 ∧ c.f 0x24 2 ≤ 512) && decide (1 ≤ c.f 0x26 2 ∧ c.f 0x26 2 ≤ 4096)
    && decide (2 ≤ pool ∧ pool ≤ 65535) && decide (1 ≤ c.f 0x28 2 ∧ c.f 0x28 2 < pool) && decide (c.f 0x28 2 < c.f 0x2A 2)
    && aligned (c.f 0x30 8) pageBytes && aligned (c.f 0x40 8) 64 && aligned (c.f 0x48 8) 64 && aligned (c.f 0x50 8) 4096
    && decide (c.f 0x5C 1 ≤ 31) && c.zero 0x3C 0x40 && c.zero 0x5D 0x60 && c.zero 0x6F 0x70
    && (List.range d).all fun i => decide (c.f (0x60 + i) 1 < i) || decide (c.f (0x60 + i) 1 = 0xFF)

/-- The service that a body would open. -/
def Ctx.newSvc (c : Ctx) (part : Nat) : Svc :=
  { job := c.f 0x10 4, part := part, owner := c.m.src, fields := c.m.body, pages := [], sessions := [], nextSession := 1, batches := [],
    steps := 0, copying := none, loading := none, reloads := [], closing := none }

/-- The pool, step blocks, result blocks and V_PARAMS lie where R277 wants them. -/
def Svc.placedOk (v : Svc) (img : List Byte) : Bool :=
  inOneRange img v.pool (v.frames * v.frameBytes) && inOneRange img (v.f 0x40 8) (4 * (64 + v.batchSlots * v.slotBytes))
    && inOneRange img (v.f 0x48 8) (4 * v.batchSlots * 1088) && decide (v.f 0x2C 4 + 8 * v.layers * v.heads ≤ imgLen img 7)

/-- The scales and zero points at V_PARAMS meet R100; pairs outside CONSTANTS are check E_TENANT's. -/
def Svc.paramsOk (v : Svc) (img : List Byte) : Bool :=
  (List.range (v.layers * v.heads)).all fun k =>
    let o := v.f 0x2C 4 + 8 * k
    decide (imgLen img 7 < o + 8) || (positiveNormal (constField img o 4) && decide (-128 ≤ signed 32 (constField img (o + 4) 4))
      && decide (signed 32 (constField img (o + 4) 4) ≤ 127))

/-- SVC_OPEN. -/
def carrySvcOpen : Carry := fun c s =>
  let h := c.f 0x10 4
  let i := c.f 0x14 1
  match (if s.work.loading.any (fun l => l.handle = h) then none else getJob s h) with
  | none => whenOk s (c.checks s c.svcFields false false true []) (s, none)
  | some j =>
    let v := c.newSvc j.part
    let req := v.f 0x18 2
    let till := getTill s (partTill j.part req)
    let owned : Bool := match getPart s j.part with
      | some q => decide (req < q.tillCount) && decide (till.state ≠ .unconfigured) && decide (till.kind = 4)
      | none => false
    let net : Bool := match getPart s j.part with
      | some q => q.vlans.any fun w => w.mac = v.f 0x15 1 ∧ w.kind = 2 ∧ w.vid = v.f 0x16 2
      | none => false
    match c.checks s (c.svcFields && v.paramsOk j.image) (hostOf s c.m.src j.part && v.placedOk j.image) false true
        [(j.bestEffort && j.rules && j.byHost && j.service.isNone && j.run.isNone && decide (j.lostCore ≠ 2), eState),
         (!Tbl.has s.services i && owned, eResource)] with
    | some st => refuse s st
    | none =>
      if ¬ net then (s, some ⟨eNofit, 0xFFFF000B, 0, 0, 0⟩)
      else
        let s := putJob s h { j with service := some i, pool := some (v.pool, v.frames, v.frameBytes) }
        ({ s with services := Tbl.put s.services i v }, some (Done.of eOk))

def execSvcOpen (m : Msg) (s : State) : Out := runCommand 0x0900 0x200 112 carrySvcOpen m s

/-- Checks that SVC_CLOSE and SVC_QUERY share. -/
def Ctx.svcChecks (c : Ctx) (s : State) : Option Nat :=
  let fields := decide (c.f 0x10 1 ≤ 7) && c.zero 0x11 0x18
  match getSvc s (c.f 0x10 1) with
  | none => c.checks s fields true false true [(false, eState)]
  | some v => c.checks s fields (hostOf s c.m.src v.part) false true []

/-- SVC_CLOSE: every session ends after the epoch in progress. -/
def carrySvcClose : Carry := fun c s =>
  let i := c.f 0x10 1
  whenOk s (c.svcChecks s)
    (match getSvc s i with
      | none => refuse s eState
      | some v =>
        if v.closing.isSome then refuse s eState
        else
          let s := updSvc s i fun v => { v with closing := some c.tid }
          let ending : Bool := ((getJob s v.job).bind Job.run).elim true fun r => r.ending
          (settleServices (if ending then s else stopAfterEpoch s v.job none), none))

def execSvcClose (m : Msg) (s : State) : Out := runCommand 0x0901 0x200 24 carrySvcClose m s

/-- SVC_QUERY. -/
def carrySvcQuery : Carry := fun c s =>
  whenOk s (c.svcChecks s)
    (match getSvc s (c.f 0x10 1) with
      | none => refuse s eState
      | some v =>
        (s, some ⟨eOk, v.sessions.length, v.freeFrames.length, (v.pages.filter fun p => p.state = pgHost).length, v.steps⟩))

def execSvcQuery (m : Msg) (s : State) : Out := runCommand 0x0902 0x200 24 carrySvcQuery m s

/-! ### Requests of service clients (11 R298, R299) -/

/-- What a request does in its service: the context, the service's index, the service, the source address. -/
abbrev Request := Ctx → Nat → Svc → Nat → State → State × Option Done

/-- Takes a request in the service whose request till it lies in; elsewhere its opcode is not assigned (R298, 16 R430). `len`: its
length; `key`: the client that its frame is charged to, 13 R347. None: it is not taken. -/
def takeRequest (op : Nat) (len : List Byte → Nat) (key : Ctx → Svc → Option Nat) (act : Request) (m : Msg) (s : State) : Option State :=
  match m.till.bind (svcOfTill s), m.src with
  | some (i, _), .client addr =>
    let carry : Carry := fun c s =>
      match getSvc s i with
      | none => refuse s eOpcode
      | some v =>
        let s := match key c v with
          | some k => chargeClient s i k { Ledger.none with portBytes := 20 + 16 + m.body.length }
          | none => s
        if 16 + m.body.length ≠ len m.body ∨ 16 + m.body.length < 24 then refuse s eLength else act c i v addr s
    takeCommand op (some (0, fun n => decide (24 ≤ n), carry)) m s
  | _, _ => takeCommand op none m s

/-- Length of a message with a list of COUNT tokens at 0x20. -/
def tokensLen (off : Nat) (body : List Byte) : Nat := 8 * ceilDiv (32 + 4 * bodyField body off 2) 8

/-- The tokens of a message. -/
def Ctx.tokens (c : Ctx) (n : Nat) : List Nat := (List.range n).map fun k => c.f (0x20 + 4 * k) 4

/-- Whether the bytes after the tokens of a message are 0, and no token identifier is 0xFFFF_FFFF. -/
def Ctx.tokensOk (c : Ctx) (n : Nat) : Bool :=
  c.zero (0x20 + 4 * n) (16 + c.m.body.length) && (c.tokens n).all fun t => decide (t ≠ 0xFFFFFFFF)

/-- The client of the session that a request names at 0x10. -/
def Ctx.sessionClient (c : Ctx) (v : Svc) : Option Nat := (v.session (c.f 0x10 4)).map fun x => x.client

/-- Whether the token identifiers in a page's header, or in its overflow slot, are those given (R285). -/
def tokensEqual (s : State) (v : Svc) (p : KvPage) (ts : List Nat) : Bool :=
  let want := ts.flatMap (leBytes 4)
  match (if p.state = pgHost ∨ p.state = pgLoading then none else p.frame), p.hostSlot with
  | some f, _ => v.read s (v.frameAt f) 1024 = want
  | none, some k => Mem.bytes s.host.hostMem (v.overflow + k * v.frameBytes) 1024 = want
  | none, none => false

/-- The registered pages that hold the whole pages of a prompt, from one page on (R285); at least one position of the prompt is
left to compute (log 68). -/
def matchPrefix (s : State) (v : Svc) (img : List Byte) (total : Nat) : Nat → Nat → List Nat → List Nat
  | 0, _, _ => []
  | n + 1, prev, ts =>
    if ts.length < 256 ∨ total ≤ 256 then []
    else
      let own := ts.take 256
      let hash := pageHash img prev own
      match (v.pages.zipIdx.find? fun e => e.1.registered && decide (e.1.state ≠ pgFree) && decide (e.1.hash.toNat = hash)
          && tokensEqual s v e.1 own) with
      | none => []
      | some e => e.2 :: matchPrefix s v img (total - 256) n hash (ts.drop 256)

/-- SESSION_OPEN; the first of a service starts the job's invocation (02 R41). -/
def actSessionOpen : Request := fun c i v addr s =>
  let n := c.f 0x16 2
  let total := c.f 0x18 4
  match firstFail
      [(decide (c.f 0x14 2 < 2 ∧ n ≤ 1016 ∧ 1 ≤ total ∧ total + v.positions ≤ v.maxPages * 256 ∧ n ≤ total) && c.zero 0x1C 0x20
          && c.tokensOk n && c.flagsOk, eVersion),
       (v.closing.isNone, eState), (decide (v.sessions.length < v.f 0x26 2), eResource)] with
  | some st => refuse s st
  | none =>
    let share := decide (c.f 0x14 2 = 1)
    let ts := c.tokens n
    let img := (getJob s v.job).elim [] fun j => j.image
    let pages := if share then matchPrefix s v img total 4 0 ts else []
    let k := 256 * pages.length
    let x : Session :=
      { id := v.nextSession, client := c.f 0x10 4, share := share, phase := phOpening, total := total, pages := pages, length := k,
        held := ts.take k, queued := ts.drop k, decoded := false, root := none, drafts := [], prior := k, compact := [], gen := none,
        asked := c.tid, eligible := nowNs s, starved := none, forks := [], addr := addr, closing := none }
    let s := updSvc s i fun v => { pages.foldl Svc.incShare v with sessions := v.sessions ++ [x], nextSession := v.nextSession + 1 }
    let s := wakeSessions (startCopies s i) i
    let first := ((getJob s v.job).bind Job.run).isNone
    (if first then startService s i else s, some ⟨eOk, x.id, k, 0, 0⟩)

def takeSessionOpen (m : Msg) (s : State) : Option State :=
  takeRequest 0x0910 (tokensLen 0x16) (fun c _ => some (c.f 0x10 4)) actSessionOpen m s

def execSessionOpen (m : Msg) (s : State) : Out := .next ((takeSessionOpen m s).getD s)

/-- Checks of a request that names a session (R299). -/
def sessionCheck (c : Ctx) (v : Svc) (fields : Bool) (phases : List Nat) (rest : Session → List (Bool × Nat)) : Option Nat :=
  match v.session (c.f 0x10 4) with
  | none => firstFail [(fields && c.flagsOk, eVersion), (false, eTenant)]
  | some x => firstFail ([(fields && c.flagsOk, eVersion), (decide (x.phase ∈ phases) && x.closing.isNone, eState)] ++ rest x)

/-- SESSION_APPEND: tokens appended to an IDLE session follow its root (R300). -/
def actSessionAppend : Request := fun c i v addr s =>
  let n := c.f 0x14 2
  match sessionCheck c v (decide (1 ≤ n ∧ n ≤ 1016) && c.zero 0x16 0x20 && c.tokensOk n) [phOpening, phIdle] fun x =>
      [(if x.phase = phOpening then decide (x.length + x.queued.length + n ≤ x.total)
        else decide (x.length + x.root.toList.length + n + v.positions ≤ v.maxPages * 256), eResource)] with
  | some st => refuse s st
  | none =>
    let ts := c.tokens n
    let id := c.f 0x10 4
    let s := updSession s i id fun x =>
      if x.phase = phOpening then { x with queued := x.queued ++ ts, addr := addr }
      else { x with
        queued := x.root.toList ++ ts, root := none, phase := phPrefill, asked := c.tid, eligible := nowNs s, addr := addr }
    let s := match (getSvc s i).bind fun v => v.session id with
      | some x => wantPages s i x
      | none => s
    (wakeSessions s i, some (Done.of eOk))

def takeSessionAppend (m : Msg) (s : State) : Option State :=
  takeRequest 0x0911 (tokensLen 0x14) Ctx.sessionClient actSessionAppend m s

def execSessionAppend (m : Msg) (s : State) : Out := .next ((takeSessionAppend m s).getD s)

/-- SESSION_GENERATE. -/
def actSessionGenerate : Request := fun c i v addr s =>
  let id := c.f 0x10 4
  let max_ := c.f 0x14 4
  match sessionCheck c v (decide (1 ≤ max_ ∧ max_ ≤ 65535) && decide (c.f 0x28 4 < 2) && c.zero 0x2C 0x30) [phIdle] fun _ => [] with
  | some st => refuse s st
  | none =>
    let stops := ((List.range 4).map fun k => c.f (0x18 + 4 * k) 4).filter fun t => t ≠ 0xFFFFFFFF
    let g : Generate := { ticket := c.tid, left := max_, emitted := 0, stops := stops, speculate := decide (c.f 0x28 4 = 1) }
    let s := updSession s i id fun x =>
      { x with phase := phGenerating, gen := some g, asked := c.tid, eligible := nowNs s, addr := addr }
    match (getSvc s i).bind fun v => v.session id with
    | none => (s, none)
    | some x =>
      if v.maxPages * 256 < x.length + v.positions then (endGenerate s i id eOk 2, none) else (wantPages s i x, none)

def takeSessionGenerate (m : Msg) (s : State) : Option State :=
  takeRequest 0x0912 (fun _ => 48) Ctx.sessionClient actSessionGenerate m s

def execSessionGenerate (m : Msg) (s : State) : Out := .next ((takeSessionGenerate m s).getD s)

/-- SESSION_FORK: at once, or after the step in progress (R302). -/
def actSessionFork : Request := fun c i v addr s =>
  let id := c.f 0x10 4
  let now := !v.inBatch id
  match sessionCheck c v true (if now then [phIdle] else [phIdle, phPrefill, phGenerating]) fun _ => [] with
  | some st => refuse s st
  | none =>
    if now then
      let r := forkSession s i id c.tid (c.f 0x14 4) addr
      (r.1, some r.2)
    else (updSession s i id fun x => { x with forks := x.forks ++ [(c.tid, c.f 0x14 4, addr)] }, none)

def takeSessionFork (m : Msg) (s : State) : Option State :=
  takeRequest 0x0913 (fun _ => 24) (fun c _ => some (c.f 0x14 4)) actSessionFork m s

def execSessionFork (m : Msg) (s : State) : Out := .next ((takeSessionFork m s).getD s)

/-- SESSION_CLOSE: at once, or after the epoch that serves the session (R302). -/
def actSessionClose : Request := fun c i v addr s =>
  let id := c.f 0x10 4
  match sessionCheck c v (c.zero 0x14 0x18) [phOpening, phPrefill, phIdle, phGenerating] fun _ => [] with
  | some st => refuse s st
  | none =>
    let s := updSession s i id fun x => { x with closing := some c.tid, addr := addr }
    (if v.inBatch id then s else startCopies (dropSession s i id 0) i, none)

def takeSessionClose (m : Msg) (s : State) : Option State :=
  takeRequest 0x0914 (fun _ => 24) Ctx.sessionClient actSessionClose m s

def execSessionClose (m : Msg) (s : State) : Out := .next ((takeSessionClose m s).getD s)

/-! ### Copies to host memory and back (11 R288, R290, R302) -/

/-- EVICTION_COPY_COMPLETE: the copy lands in the overflow slot; the frame is FREE, the page HOST. -/
def execEvictionCopyComplete (svc page : Nat) (s : State) : Out :=
  .next (match getSvc s svc with
    | none => s
    | some v =>
      let p := v.page page
      match (if v.copying = some page then p.frame else none), p.hostSlot with
      | some f, some k =>
        let bytes := v.read s (v.frameAt f) v.frameBytes
        let s := updHost s fun h => { h with hostMem := Mem.writeBytes h.hostMem (v.overflow + k * v.frameBytes) bytes }
        let s := updSvc s svc fun v =>
          { v.updPage page fun p => ({ p with state := pgHost, frame := none } : KvPage).settle with copying := none }
        startCopies s svc
      | _, _ => s)

/-- RELOAD_COPY_COMPLETE: the page is RESIDENT and its overflow slot released. -/
def execReloadCopyComplete (svc page : Nat) (s : State) : Out :=
  .next (match getSvc s svc with
    | none => s
    | some v =>
      let p := v.page page
      match (if v.loading = some page then p.frame else none), p.hostSlot with
      | some f, some k =>
        let s := hbmWrite s v.part (v.frameAt f) (Mem.bytes s.host.hostMem (v.overflow + k * v.frameBytes) v.frameBytes)
        let s := updSvc s svc fun v =>
          { v.updPage page fun p => ({ p with state := pgResident, hostSlot := none, lastUse := v.steps } : KvPage).settle with
            loading := none
            sessions := v.sessions.map fun x => if page ∈ x.pages then { x with eligible := nowNs s } else x }
        wakeSessions (startCopies s svc) svc
      | _, _ => s)

/-- SESSION_FRAME_TIMEOUT: 1 s without a frame; SESSION_GENERATE completes and the session is IDLE (R294). -/
def execSessionFrameTimeout (svc session : Nat) (s : State) : Out :=
  .next (match (getSvc s svc).bind fun v => v.session session with
    | none => s
    | some x => if x.starved.any fun t => t + 1000000000 ≤ nowNs s then endGenerate s svc session eResource 0 else s)

/-- The sessions that hold a page, and the page, whose host copy is lost (15 R411, R302). -/
def losePage (s : State) (i page : Nat) : State :=
  match getSvc s i with
  | none => s
  | some v =>
    let s := (v.holders page).foldl (fun s x => dropSession s i x.id 2) s
    updSvc s i fun v =>
      { v.updPage page fun _ => KvPage.blank with
        copying := if v.copying = some page then none else v.copying
        loading := if v.loading = some page then none else v.loading
        reloads := v.reloads.filter (· ≠ page) }

/-- A reset of the function whose DMA space holds an overflow region (R302). -/
def overflowReset (s : State) (f : Nat) : State :=
  (s.services.filter fun e => e.2.overflowFn = f).foldl (fun s e =>
    let lost := (e.2.pages.zipIdx.filter fun p => p.1.state ∈ [pgCommitted, pgHost, pgLoading]).map Prod.snd
    let s := lost.foldl (fun s k => losePage s e.1 k) s
    updSvc s e.1 fun v =>
      let noticed := (v.pages.zipIdx.filter fun p => p.1.state = pgNoticed).map Prod.snd
      noticed.foldl (fun v k => v.updPage k fun p => ({ p with state := pgResident, hostSlot := none } : KvPage).settle) v) s

/-- MEM_UNMAP of a pool page under a copy: the copy stops and the service meets it as a fault (12 "Coincident events"). -/
def copyFaults (s : State) (p first n : Nat) : State :=
  (s.services.filter fun e => e.2.part = p && (e.2.copying.toList ++ e.2.loading.toList).any fun k =>
      (e.2.page k).frame.elim false fun f =>
        let lo := e.2.frameAt f
        decide (lo / pageBytes < first + n) && decide (first ≤ (lo + e.2.frameBytes - 1) / pageBytes)).foldl (fun s e =>
    closeService (abortRun s e.2.job eFault none []) e.1 1) s

/-! ### Service frames (17 R450) -/

/-- The open service of an index that is bound to a MAC and VLAN. -/
def svcBound (s : State) (i mac vlan : Nat) : Option Svc :=
  match getSvc s i with
  | some v => if v.f 0x15 1 = mac ∧ v.f 0x16 2 = vlan then some v else none
  | none => none

/-- SERVICE_FRAME: the message goes to the request till, or the frame is dropped and counted. -/
def execServiceFrame (mac vlan addr : Nat) (payload : List Byte) (s : State) : Out :=
  .next (if ¬ (getMac s mac).up then s
  else
    let s := countRx s mac
    if vlanKind s mac vlan ≠ some 2 then updMac s mac fun m => { m with unknownVlan := satInc m.unknownVlan 1 }
    else
      let msg := payload.drop 2
      let len := imgLe msg 4 2
      let msg := msg.take len
      let bad := updMac s mac fun m => { m with svcBad := satInc m.svcBad 1 }
      match svcBound s (imgLe payload 0 1) mac vlan with
      | none => bad
      | some v =>
        if imgLe payload 1 1 ≠ 0 ∨ len < 16 ∨ 4096 < len ∨ len % 8 ≠ 0 ∨ msg.length ≠ len then bad
        else
          let n := partTill v.part (v.f 0x18 2)
          let t := getTill s n
          if t.state ≠ .running ∨ t.slots - t.used < ceilDiv len 64 then updMac s mac fun m => { m with svcFull := satInc m.svcFull 1 }
          else
            let s := updHost s fun h => { h with frameSrc := Tbl.set 0 h.frameSrc (t.slotAddr t.prod / 64) addr }
            writeEntry s n msg false)

end Sys2Proof.Machine
end

