-- ==== Sys2Proof/Machine/Tallies.lean ====
section
/-! DEFINITION. Tally commands, monitors, visibility, barriers, digests and clip shares (14 R354-R380, 04 R114). -/

namespace Sys2Proof.Machine

/-! ### The debug record (14 R368) -/

/-- The loaded jobs that bind partition tally i of partition p as a produced or consumed count. -/
def boundStream (s : State) (p i : Nat) : Bool :=
  s.work.jobs.any fun e => e.2.part = p && e.2.tallies.any fun t => t.1 = i && decide (t.2.1 < 2)

/-- Whether a LINK station of a loaded job binds the tally as a group tally. -/
def boundGroup (s : State) (p i : Nat) : Bool := s.work.jobs.any fun e => e.2.part = p && e.2.groups.any fun g => g.2.1 = i

/-- Steps that wait on a tally: (physical core, absolute threshold). -/
def tallyWaiters (s : State) (p i : Nat) : List (Nat × Int) :=
  s.work.cores.filterMap fun e =>
    match nextStep s e.1 with
    | some (u, w) =>
      match u.inst.bind (stWaitBind w) with
      | some b =>
        if stWaitEn w ∧ u.job.part = p ∧ b.tally = i ∧ ¬ waitMet s e.1 u w then some (e.1, b.base + stDelta w) else none
      | none => none
    | none => none

/-- Thresholds at which tellers wait on a tally for a plan rule. -/
def ruleWaits (s : State) (p i : Nat) : List Int :=
  s.work.jobs.filterMap fun e =>
    match e.2.run with
    | some r => if e.2.part = p ∧ e.2.rules ∧ e.2.tallyOfRecord (e.2.ruleField 2 2) = some i then some (e.2.ruleDue r) else none
    | none => none

/-- Tellers that wait on a tally: for a plan rule, or for a group barrier. -/
def tellerWaits (s : State) (p i : Nat) : Nat := (ruleWaits s p i).length + b2n (getTally s (tallyOf s p i)).barrier.isSome

/-- Armed monitors of a tally. -/
def monitorsOf (s : State) (p i : Nat) : List Monitor := s.work.monitors.filter fun m => m.part = p ∧ m.index = i

/-- The lowest absolute threshold among the waiters of a tally: steps, plan rules and monitors (log 80). -/
def waitMin (s : State) (p i : Nat) : Nat :=
  let ts := (tallyWaiters s p i).map (·.2) ++ ruleWaits s p i ++ (monitorsOf s p i).map fun m => (m.threshold : Int)
  match ts with
  | [] => 2 ^ 64 - 1
  | x :: l => (l.foldl min x).toNat

/-- The 64 bytes of a tally's debug record. -/
def tallyRecordOf (s : State) (p i : Nat) : List Byte :=
  let t := getTally s (tallyOf s p i)
  let ws := tallyWaiters s p i
  let mask := ws.foldl (fun m w => m ||| 2 ^ w.1) 0
  leBytes 8 t.value.toNat ++ leBytes 8 t.posts.toNat ++ leBytes 4 t.lastS.toNat ++ leBytes 4 t.lastNs.toNat
    ++ leBytes 2 t.lastSource.toNat ++ leBytes 1 p
    ++ leBytes 1 (b2n (boundGroup s p i) + 2 * b2n (boundStream s p i) + 4 * b2n t.overflowed) ++ leBytes 4 t.lastAdd.toNat
    ++ leBytes 16 mask ++ leBytes 8 (waitMin s p i)
    ++ leBytes 2 (monitorsOf s p i).length ++ leBytes 1 (tellerWaits s p i) ++ leBytes 5 0

/-! ### The tally commands (14 R364, R365) -/

/-- Checks that the tally commands share; a tally whose copies are both uncorrectable answers no command (19 R498). -/
def Ctx.tallyChecks (c : Ctx) (s : State) (fields : Bool) (dest : Option Nat) (rest : Part → List (Bool × Nat)) : Option Nat :=
  let p := c.f 0x10 1
  let i := c.f 0x14 4
  let fields := fields && decide (p ≤ 7) && c.zero 0x11 0x14
  match getPart s p with
  | none => c.checks s fields (isRoot c.m.src) false true [(false, eState)]
  | some q =>
    let dst : Bool := match dest with
      | some d => q.holds d 64
      | none => true
    c.checks s fields (hostOf s c.m.src p && decide (i < q.tallyCount) && dst) false true
      (rest q ++ [(!(getTally s (tallyOf s p i)).bad, eFault)])

/-- The source of an addition by a command (14 R368). -/
def hostSource : Source → Nat
  | .fn f => sourceCode 7 f.val
  | _ => sourceCode 8 0

/-- TALLY_ADD. -/
def carryTallyAdd : Carry := fun c s =>
  let p := c.f 0x10 1
  let i := c.f 0x14 4
  let n := c.f 0x18 8
  whenOk s (c.tallyChecks s (decide (1 ≤ n ∧ n < 2 ^ 32)) none fun _ => [(!boundStream s p i && !boundGroup s p i, eState)])
    (let r := tallyAdd s (tallyOf s p i) n (hostSource c.m.src) (nowNs s) none
     if r.2 then
       let v := (getTally r.1 (tallyOf s p i)).value.toNat
       (r.1, some ⟨eOk, v % 2 ^ 32, v / 2 ^ 32, 0, 0⟩)
     else (r.1, some (Done.of eResource)))

def execTallyAdd (m : Msg) (s : State) : Out := runCommand 0x0400 0x100 32 carryTallyAdd m s

/-- A completion that gives a tally's value. -/
def tallyDone (s : State) (p i : Nat) : Done :=
  let v := (getTally s (tallyOf s p i)).value.toNat
  ⟨eOk, v % 2 ^ 32, v / 2 ^ 32, 0, 0⟩

/-- TALLY_READ. -/
def carryTallyRead : Carry := fun c s =>
  whenOk s (c.tallyChecks s true none fun _ => []) (s, some (tallyDone s (c.f 0x10 1) (c.f 0x14 4)))

def execTallyRead (m : Msg) (s : State) : Out := runCommand 0x0401 0x100 24 carryTallyRead m s

/-- TALLY_WAIT: a threshold that is met completes at once, whatever the monitor counts. -/
def carryTallyWait : Carry := fun c s =>
  let p := c.f 0x10 1
  let i := c.f 0x14 4
  let thr := c.f 0x18 8
  let tmo := c.f 0x20 4
  let met := decide (thr ≤ (getTally s (tallyOf s p i)).value.toNat)
  whenOk s (c.tallyChecks s (decide (tmo ≤ 60000000) && c.zero 0x24 0x28) none fun _ =>
      [(met || (decide ((s.work.monitors.filter fun m => m.src = c.m.src).length < 64) && decide (s.work.monitors.length < 1024)), eResource)])
    (if met then (s, some (tallyDone s p i))
     else
       (updWork s fun w => { w with monitors := w.monitors ++
         [{ ticket := c.tid, part := p, index := i, threshold := thr, timeout := tmo, armed := nowNs s, src := c.m.src }] }, none))

def execTallyWait (m : Msg) (s : State) : Out := runCommand 0x0402 0x100 40 carryTallyWait m s

/-- TALLY_QUERY, held from version 1.6 (16 R427). -/
def carryTallyQuery : Carry := fun c s =>
  let p := c.f 0x10 1
  let i := c.f 0x14 4
  let d := c.f 0x18 8
  whenOk s (c.tallyChecks s (aligned d 64) (some d) fun _ => [])
    (hbmWrite s p d (tallyRecordOf s p i), some (Done.of eOk))

def execTallyQuery (m : Msg) (s : State) : Out := runCommand 0x0403 0x106 32 carryTallyQuery m s

/-- TALLY_MONITOR_MET: the armed monitors of a tally whose threshold its value has reached complete with OK. -/
def execTallyMonitorMet (part index : Nat) (s : State) : Out :=
  let v := (getTally s (tallyOf s part index)).value.toNat
  let met := s.work.monitors.filter fun m => m.part = part ∧ m.index = index ∧ m.threshold ≤ v
  let s := updWork s fun w => { w with monitors := w.monitors.filter fun m => m ∉ met }
  .next (met.foldl (fun s m => finish s m.ticket (tallyDone s part index)) s)

/-- Whether a monitor's TIMEOUT has passed. -/
def Monitor.over (m : Monitor) (now : Nat) : Bool := decide (m.timeout ≠ 0 ∧ m.armed + 1000 * m.timeout ≤ now)

/-- TALLY_WAIT_TIMEOUT: an armed monitor's TIMEOUT has passed. -/
def execTallyWaitTimeout (ticket : Nat) (s : State) : Out :=
  .next (if s.work.monitors.any fun m => decide (m.ticket = ticket) && m.over (nowNs s) then
    finish (updWork s fun w => { w with monitors := w.monitors.filter fun m => m.ticket ≠ ticket }) ticket (Done.of eTimeout)
  else s)

/-! ### Visibility and barriers (14 R360, R379) -/

/-- POST_VISIBLE: the oldest addition that a core does not see becomes visible to it; a barrier's is withheld. -/
def execPostVisible (tally core : Nat) (s : State) : Out :=
  .next (if (getTally s tally).barrier.isSome then s
  else updTally s tally fun t =>
    let mark := fun (r : Recent) => { r with seen := r.seen ||| BitVec.ofNat 72 (2 ^ core) }
    let i := t.recent.findIdx fun r => !r.seen.getLsbD core
    { t with recent := (modNth t.recent i mark).filter fun r => r.seen ≠ BitVec.allOnes 72 })

/-- The instant at which the oldest complete barrier of a tally releases: the largest t_i of its arrivals plus 2,000 ns; none:
arrivals are missing (R379). -/
def releaseTime (t : Tally) : Option Nat :=
  match t.barrier with
  | none => none
  | some n =>
    if 0 < n ∧ n ≤ t.recent.length then some (((t.recent.take n).map (·.time)).foldl Nat.max 0 + 2000) else none

/-- The core's step that stands next, when it waits on a tally of the bank. -/
def waitsOn (s : State) (c g : Nat) : Option Cur :=
  match nextStep s c with
  | none => none
  | some (u, w) =>
    if stWaitEn w ∧ ((u.inst.bind (stWaitBind w)).any fun b => tallyOf s u.job.part b.tally = g) ∧ ¬ waitMet s c u w then some u else none

/-- Releases the n oldest additions of a barrier at an instant: every core whose wait on it is over is charged, to every client that it
serves, the time since that wait began (14 R379, R381; 13 R348, R350). -/
def releaseBarrier (s : State) (g n at_ : Nat) : State :=
  let waiting := s.work.cores.filterMap fun e => (waitsOn s e.1 g).map fun u => (e.1, u)
  let s := updTally s g fun t => { t with recent := t.recent.drop n }
  (waiting.filter fun x => (waitsOn s x.1 g).isNone).foldl (fun s x =>
    chargeEach s x.2.h { Ledger.none with barrierNs := at_ - x.2.inst.waitSince }) s

/-- BARRIER_RELEASE: at R_t the additions of a complete barrier become visible to every waiting core (R379); in a group of protocol
1 they do so when the last arrives (17 R470). -/
def execBarrierRelease (tally : Nat) (s : State) : Out :=
  let t := getTally s tally
  .next (match releaseTime t, t.barrier with
    | some at_, some n =>
      if s.net.relne.protocol.toNat < 2 then releaseBarrier s tally n (nowNs s)
      else if at_ ≤ nowNs s then releaseBarrier s tally n at_
      else s
    | _, _ => s)

/-! ### Digests and clip shares -/

/-- DIGEST_COMBINE. -/
def execDigestCombine (job point epoch : Nat) (s : State) : Out := .next (combineDigest s job point epoch)

/-- CLIP_SHARE: every core of a mint station has ended an epoch. -/
def execClipShare (job station epoch : Nat) (s : State) : Out :=
  .next (match getJob s job with
    | none => s
    | some j =>
      if stationDone j station epoch then
        (List.range (constField j.image (stationField j.image station 0x0C 4) 2)).foldl (testClip job epoch station) s
      else s)

end Sys2Proof.Machine
end

