-- ==== Sys2Proof/Machine/Relne.lean ====
section
/-! DEFINITION. The Relne link: ports, group formation, link time, tiles and group tallies (17 R467-R474, 14 R378-R383). -/

namespace Sys2Proof.Machine

def getPort (s : State) (p : Nat) : RelnePort := nth RelnePort.down s.net.relne.ports p
def updPort (s : State) (p : Nat) (f : RelnePort → RelnePort) : State := updRelne s fun r => { r with ports := modNth r.ports p f }

/-- A job that binds a group tally. -/
def Job.grouped (j : Job) : Bool := !j.groups.isEmpty

/-- A member is lost: every invocation that binds a group tally ends with E_ABORTED and the member's chip index (14 R382). -/
def memberLost (s : State) (chip : Nat) : State :=
  abortWhere s (fun _ j => j.grouped) eAborted (some (chip, 0, 0)) []

/-- RELNE_LINK_UP: an enabled port trains and exchanges its link hello (R468). -/
def execRelneLinkUp (port : Nat) (identity : BitVec 64) (protocols : BitVec 8) (farPort priority : Nat) (s : State) : Out :=
  .next (
    let proto := if protocols.getLsbD 2 then 2 else if protocols.getLsbD 1 then 1 else 0
    if 4 ≤ port ∨ (getPort s port).up ∨ ¬ s.net.relne.portEn.getLsbD port ∨ proto = 0 then s
    else
      let s := updPort s port fun _ =>
        { up := true, protocol := BitVec.ofNat 2 proto, miswired := farPort ≠ port, retries := 0, peerId := identity,
          peerPriority := BitVec.ofNat 4 priority }
      updRelne s fun r => { r with unsettled := true })

/-- RELNE_LINK_DOWN: the group forms again; with the member across the port the group loses a member (R469, R475). -/
def execRelneLinkDown (port : Nat) (s : State) : Out :=
  .next (if ¬ (getPort s port).up then s
  else
    let carried := ¬ (getPort s port).miswired ∧ 1 < s.net.relne.members.toNat
    let s := updPort s port fun _ => RelnePort.down
    let s := updRelne s fun r => { r with unsettled := true }
    if carried then memberLost s (s.net.relne.chip.toNat ^^^ 2 ^ port) else s)

/-- The member that is root: lowest ROOT_PRIORITY, then lowest identity (R469). -/
def rootOf (own : GroupPeer) (peers : List GroupPeer) : GroupPeer :=
  peers.foldl (fun b p => if p.priority < b.priority ∨ p.priority = b.priority ∧ p.identity.toNat < b.identity.toNat then p else b) own

/-- Whether this device takes its time from the link (R470). -/
def Relne.followsLink (r : Relne) : Bool := r.protocol = 2 && decide (1 < r.members.toNat) && !r.root

/-- Time from the link begins or ends with the group's form (R470). -/
def settleLinkTime (s : State) : State :=
  if s.net.relne.followsLink then s
  else
    let s := updRelne s fun r => { r with joined := false }
    if s.net.timing.linkTime then enterHoldover (updTiming s fun t => { t with linkTime := false, present := false }) else s

/-- GROUP_FORM: root, chip indices, protocol, and the members lost (R469). -/
def execGroupForm (peers : List GroupPeer) (protocol : Nat) (consistent : Bool) (s : State) : Out :=
  .next (if ¬ s.net.relne.unsettled then s
  else
    let r := s.net.relne
    let own : GroupPeer := { identity := r.identity, priority := r.rootPriority.toNat, path := 0 }
    let fault := ¬ consistent ∨ 15 < peers.length
    let peers := if fault then [] else peers
    let root := rootOf own peers
    let chip := root.path
    let lost := r.others.filter fun o => !peers.any fun p => p.identity = o.1
    let s := lost.foldl (fun s o => memberLost s o.2) s
    let s := updRelne s fun r =>
      { r with
        members := BitVec.ofNat 5 (peers.length + 1), chip := BitVec.ofNat 4 chip,
        protocol := if peers.isEmpty then 0 else BitVec.ofNat 2 protocol,
        root := decide (root.identity = r.identity) && !peers.isEmpty, groupFault := fault, unsettled := false,
        others := peers.map fun p => (p.identity, p.path ^^^ chip) }
    settleLinkTime s)

/-- STATE of a code. -/
def syncOfCode : Nat → SyncState
  | 1 => .acquiring
  | 2 => .locked
  | 3 => .holdover
  | _ => .freeRun

/-- LINK_TIME_MEASURE: a member's offset from the root, in 2^-16 ns: one step on joining, then the servo (R470). -/
def execLinkTimeMeasure (offset : Int) (rootState : Nat) (s : State) : Out :=
  .next (if ¬ s.net.relne.followsLink then s
  else
    let joined := s.net.relne.joined
    let s := updRelne s fun r => { r with linkTimeErr := BitVec.ofInt 32 (offset / 256), joined := true }
    let s := if joined then updTiming s fun t =>
        let r := Config.servo t.integral offset
        { t with integral := r.1, rate := clampInt (-rateLimit) rateLimit r.2 }
      else setUnits s (nowUnits s - offset)
    updTiming s fun t => { t with linkTime := true, state := syncOfCode rootState })

/-! ### Tiles and group tallies (R472, R473) -/

/-- The loaded job of a partition with a GROUP_TAG. -/
def taggedJob (s : State) (part tag : Nat) : Option (Nat × Job) :=
  s.work.jobs.find? fun e => e.2.part = part && decide (e.2.groupTag = tag) && decide (tag ≠ 0)

/-- Whether this device exchanges link traffic on a port. -/
def linkCarries (s : State) (port : Nat) : Bool := port ∈ relnePorts s && decide (1 < s.net.relne.members.toNat)

/-- Writes tile `tile` of a stream into every buffer of it: tile n lies at ring position n mod DEPTH. -/
def placeTile (s : State) (j : Job) (stream tile : Nat) (data : List Byte) : State :=
  j.insts.foldl (fun s i =>
    (i.rings.filter fun r => r.stream = stream ∧ r.side ≠ 1).foldl (fun s r =>
      updCore s i.core fun k =>
        { k with scratch := Mem.writeBytes k.scratch (64 * (r.first + tile % r.depth * r.spacing)) (data.take (64 * r.spacing)) }) s) s

/-- The partition tally of a stream's produced count. -/
def Job.producedTally (j : Job) (stream : Nat) : Option Nat :=
  (j.tallies.find? fun t => t.2.1 = 0 && tallyField j.image t.2.2 2 2 = stream).map Prod.fst

/-- Tells a core that a step would read a stream's tile late: the invocation faults with CAUSE 5 (12 R329). -/
def lateTile (s : State) (h : Nat) (j : Job) (stream : Nat) : State :=
  let core := (j.insts.filter fun i => i.rings.any fun r => r.stream = stream).foldl (fun c i => min c i.core) 71
  settleRinses (memoryFault s h 5 stream 0xFFFFFFFF core 0xFF)

/-- LINK_TILE_RX. -/
def execLinkTileRx (port part tag stream tile : Nat) (data : List Byte) (late : Bool) (s : State) : Out :=
  .next (if ¬ linkCarries s port then s
  else
    match taggedJob s part tag with
    | none => logConfig s 0 tag
    | some (h, j) =>
      if late then lateTile s h j stream
      else
        let s := chargeJob (placeTile s j stream tile data) h { Ledger.none with linkBytes := data.length }
        match j.producedTally stream with
        | some t => (tallyAdd s (tallyOf s part t) 1 (sourceCode 5 (s.net.relne.chip.toNat ^^^ 2 ^ port)) (nowNs s) none).1
        | none => s)

/-- A barrier whose last arrival comes after R_t is released on that arrival, and BARRIER_LATE names it; under protocol 1 a barrier
that is complete is released at once (14 R380, R383). -/
def barrierArrives (s : State) (part i chip : Nat) : State :=
  let g := tallyOf s part i
  let t := getTally s g
  match releaseTime t, t.barrier with
  | some at_, some n =>
    if s.net.relne.protocol.toNat < 2 then releaseBarrier s g n (nowNs s)
    else if at_ < nowNs s then
      let s := releaseBarrier s g n (nowNs s)
      partEvent s part 0x0480 32 (leBytes 4 i ++ leBytes 1 chip ++ leBytes 3 0 ++ leBytes 4 (min (nowNs s - at_) (2 ^ 32 - 1)))
    else s
  | _, _ => s

/-- GROUP_TALLY_MESSAGE: applied to the local copy, and forwarded on the ports above the one it arrived on (R473). -/
def execGroupTallyMessage (port part tag record amount time chip : Nat) (s : State) : Out :=
  .next (if ¬ linkCarries s port then s
  else
    let s := relneSend s ((relnePorts s).filter fun p => port < p) "tally" [part, tag, record, amount, time, chip]
    match taggedJob s part tag with
    | none => s
    | some (_, j) =>
      match j.groups.find? fun g => g.1 = record with
      | none => s
      | some g =>
        let r := tallyAdd s (tallyOf s part g.2.1) amount (sourceCode 5 chip) time none
        if r.2 ∧ g.2.2 then barrierArrives r.1 part g.2.1 chip else r.1)

end Sys2Proof.Machine
end

