-- ==== Sys2Proof/Machine/RadioOps.lean ====
section
/-! DEFINITION. Shared operations of the radio service: cells, air-interface timing, grid tiles, FAPI messages, transport blocks,
windows, slot descriptors (08, 09, 16 R437-R439). -/

namespace Sys2Proof.Machine

/-! ### Cells (16 R437, R438) -/

def getCell (s : State) (ci : Nat) : Option Cell := Tbl.find s.radio.cells ci
def putCell (s : State) (ci : Nat) (c : Cell) : State := { s with radio := { s.radio with cells := Tbl.put s.radio.cells ci c } }
def updCell (s : State) (ci : Nat) (f : Cell → Cell) : State :=
  match getCell s ci with
  | some c => putCell s ci (f c)
  | none => s

/-- A field of CELL_START, at its offset. -/
def Cell.f (c : Cell) (off n : Nat) : Nat := bodyField c.fields off n
def Cell.port (c : Cell) : Nat := c.f 0x12 1
def Cell.mu (c : Cell) : Nat := c.f 0x13 1
def Cell.nRb (c : Cell) : Nat := c.f 0x14 2
def Cell.vlan (c : Cell) : Nat := c.f 0x16 2 % 4096
def Cell.guard_ (c : Cell) : Nat := c.f 0x18 1
def Cell.planes (c : Cell) : Nat := c.f 0x1B 1
def Cell.prachPlanes (c : Cell) : Nat := c.f 0x1C 1
def Cell.nS (c : Cell) : Nat := c.f 0x1D 1
def Cell.alpha (c : Cell) : Nat := c.f 0x28 4
def Cell.beta (c : Cell) : Int := signed 8 (c.f 0x2C 1)
/-- The report till. -/
def Cell.till (c : Cell) : Nat := partTill c.part (c.f 0x40 2)
/-- A pattern entry of a slot: uplink symbols, downlink symbols. -/
def Cell.pattern (c : Cell) (slot : Nat) : Nat × Nat :=
  let n := c.f 0x42 2
  let i := (((slot : Int) - 30855940 * 1024 * 10 * (2 ^ c.mu : Nat)) % (max n 1 : Nat)).toNat
  let w := imgLe c.config (0x400 + 4 * i) 4
  (w % 2 ^ 14, bits w 29 16)

/-! ### Air-interface timing (08 R184, R185): slots are numbered from a time 6.6 s before the GPS epoch, at which a frame of SFN
FRAME_BETA began, so that no number is negative. -/

def slotNs (mu : Nat) : Nat := 1000000 / 2 ^ mu

/-- Slots of a frame. -/
def perFrame (mu : Nat) : Nat := 10 * 2 ^ mu

/-- The slot on air at a device time in ns. -/
def slotOnAir (mu alpha t : Nat) : Nat := (t + 6600000000 - alpha) / slotNs mu
def Cell.slotAt (c : Cell) (t : Nat) : Nat := slotOnAir c.mu c.alpha t

/-- Device time in ns at which a slot begins on air. -/
def airStart (mu alpha slot : Nat) : Int := (slot * slotNs mu : Nat) + (alpha : Int) - 6600000000
def Cell.airStart (c : Cell) (slot : Nat) : Int := Sys2Proof.Machine.airStart c.mu c.alpha slot

/-- System frame number of a slot. -/
def Cell.sfn (c : Cell) (slot : Nat) : Nat := ((((slot / perFrame c.mu : Nat) : Int) + c.beta) % 1024).toNat

/-- Slot within its frame. -/
def Cell.inFrame (c : Cell) (slot : Nat) : Nat := slot % perFrame c.mu

/-- The slot nearest to `near` whose number is r modulo m. -/
def nearestSlot (near r m : Nat) : Nat :=
  let d := (((r : Int) - near) % m).toNat
  if d ≤ m / 2 ∨ near < m - d then near + d else near - (m - d)

/-- The slot that an SFN and a slot of its frame name, nearest to the slot on air. -/
def Cell.named (c : Cell) (now sfn slot : Nat) : Nat :=
  let r := (((sfn : Int) - c.beta) % 1024).toNat * perFrame c.mu + slot
  nearestSlot (c.slotAt now) r (1024 * perFrame c.mu)

/-- Start and end of a symbol as device times in 1/96 ns. -/
def Cell.symStart (c : Cell) (slot l : Nat) : Int := c.airStart slot * 96 + (symbolSpan c.mu (c.inFrame slot) l).1
def symEnd (mu alpha slot l : Nat) : Int := airStart mu alpha slot * 96 + (symbolSpan mu (slot % perFrame mu) l).2

/-! ### Streams of the cell's jobs -/

/-- The first station of a kind. -/
def stationOf (img : List Byte) (kind : Nat) : Option Nat :=
  (List.range (imgSection img 0x0001).1).find? fun st => stationField img st 0 1 = kind

/-- A field of the parameter record of the first station of a kind. -/
def paramOf (img : List Byte) (kind off n : Nat) : Nat :=
  match stationOf img kind with
  | some st => constField img (stationField img st 0x0C 4 + off) n
  | none => 0

/-- Changes the scratchpads that hold tile `tile` of a stream's buffers: `f` takes the tile's byte address. -/
def onTile (s : State) (j : Job) (stream tile : Nat) (f : Nat → Mem → Mem) : State :=
  j.insts.foldl (fun s i =>
    (i.rings.filter fun r => r.stream = stream ∧ r.side ≠ 1).foldl (fun s r =>
      updCore s i.core fun k => { k with scratch := f (64 * (r.first + tile % r.depth * r.spacing)) k.scratch }) s) s

/-- The first buffer of a stream: core, and byte address of tile `tile`. -/
def tileAt (j : Job) (stream tile : Nat) : Option (Nat × Nat) :=
  (j.insts.flatMap fun i => (i.rings.filter fun r => r.stream = stream ∧ r.side ≠ 1).map fun r =>
    (i.core, 64 * (r.first + tile % r.depth * r.spacing))).head?

/-- Byte address of an element of a tile that begins at a byte address. -/
def Tile.at (t : Tile) (base plane row elem width : Nat) : Nat :=
  base + 64 * (plane * t.planeStride + row * t.rowStride) + width * elem

/-- Adds to the tally that a TALLIES record is bound to, for a block of the IOD. -/
def postRecord (s : State) (h record amount source : Nat) : State :=
  match (getJob s h).bind fun j => j.tallyOfRecord record with
  | some t => (jobTallyAdd s h t amount source none).1
  | none => s

/-- Posts a stream's produced count. -/
def postProduced (s : State) (h stream source : Nat) : State :=
  match (getJob s h).bind fun j => j.producedTally stream with
  | some t => (jobTallyAdd s h t 1 source none).1
  | none => s

/-- The partition tally of a stream's consumed count. -/
def Job.consumedTally (j : Job) (stream : Nat) : Option Nat :=
  (j.tallies.find? fun t => t.2.1 = 1 && tallyField j.image t.2.2 2 2 = stream).map Prod.fst

/-- Posts a stream's consumed count. -/
def postConsumed (s : State) (h stream source : Nat) : State :=
  match (getJob s h).bind fun j => j.consumedTally stream with
  | some t => (jobTallyAdd s h t 1 source none).1
  | none => s

/-- A chip station has read `n` tiles of a stream: it posts the consumed count when it is the stream's consumer (02 R45, 14 R362). -/
def consumeBy (s : State) (h stream kind n source : Nat) : State :=
  match getJob s h with
  | none => s
  | some j =>
    if stationField j.image (streamField j.image stream 2 2) 0 1 = kind then
      match j.consumedTally stream with
      | some t => (jobTallyAdd s h t n source none).1
      | none => s
    else s

/-! ### FAPI messages to layer 2 (09 R238) -/

/-- Segments of a FAPI message. -/
def fapiSegments (ci : Nat) (bytes : List Byte) : List (List Byte) :=
  let n := max 1 (ceilDiv bytes.length 4072)
  (List.range n).map fun i => leBytes 1 ci ++ leBytes 1 i ++ leBytes 1 n ++ leBytes 1 0 ++ leBytes 4 bytes.length
    ++ (bytes.drop (4072 * i)).take 4072

/-- Sends a FAPI message on the cell's report till. -/
def sendFapi (s : State) (ci : Nat) (m : FapiOut) : State :=
  match getCell s ci with
  | none => s
  | some c => (fapiSegments ci (Config.fapiBytes m)).foldl (fun s b => writeMessage s c.till 0x0800 0 b false) s

/-- ERROR.indication. -/
def fapiError (s : State) (ci sfn slot id code : Nat) : State := sendFapi s ci (.error sfn slot id code)
def errState : Nat := 1
def errConfig : Nat := 2
def errSlot : Nat := 3
def errTx : Nat := 4

/-! ### Transport blocks (09 R220-R225) -/

/-- Lifting sizes of TS 38.212. -/
def liftings : List Nat :=
  ([2, 3, 5, 7, 9, 11, 13, 15].flatMap fun a => (List.range 8).map fun j => a * 2 ^ j).filter fun z => z ≤ 384

/-- The segmentation of a transport block: base graph, lifting size, code blocks, K′, K, circular buffer positions. -/
structure Shape where
  bg : Nat
  z : Nat
  blocks : Nat
  kPrime : Nat
  k : Nat
  ncb : Nat
  deriving DecidableEq, Repr

/-- Bits of a transport block with its CRC. -/
def withCrc (tbBits : Nat) : Nat := tbBits + (if tbBits ≤ 3824 then 16 else 24)

/-- Segmentation of TS 38.212; code rate in units of 1/10,240. -/
def shapeOf (p : PuschPdu) : Shape :=
  let b := withCrc p.tbBits
  let bg := if p.tbBits ≤ 292 ∨ p.tbBits ≤ 3824 ∧ p.codeRate * 100 ≤ 67 * 10240 ∨ p.codeRate * 4 ≤ 10240 then 2 else 1
  let kcb := if bg = 1 then 8448 else 3840
  let blocks := if b ≤ kcb then 1 else ceilDiv b (kcb - 24)
  let kPrime := ceilDiv (if blocks = 1 then b else b + 24 * blocks) blocks
  let kb := if bg = 1 then 22 else if 640 < b then 10 else if 560 < b then 9 else if 192 < b then 8 else 6
  let z := (liftings.filter fun z => kPrime ≤ kb * z).foldl Nat.min 384
  let n := (if bg = 1 then 66 else 50) * z
  { bg := bg, z := z, blocks := blocks, kPrime := kPrime, k := (if bg = 1 then 22 else 10) * z,
    ncb := if p.lbrm then min n (Config.lbrmSize p) else n }

/-- Output bits of code block r (TS 38.212 5.4.2.1). -/
def blockBitsOf (p : PuschPdu) (r : Nat) : Nat :=
  let sh := shapeOf p
  let unit := max 1 (p.layers * p.qm)
  let g := Config.codedBits p / unit
  unit * (if r + g % sh.blocks < sh.blocks then g / sh.blocks else ceilDiv g sh.blocks)

/-- Whether a circular-buffer position is a filler. -/
def Shape.filler (sh : Shape) (pos : Nat) : Bool := decide (sh.kPrime - 2 * sh.z ≤ pos) && decide (pos < sh.k - 2 * sh.z)

/-- First position of a redundancy version. -/
def Shape.start (sh : Shape) (rv : Nat) : Nat :=
  let a := if sh.bg = 1 then nth 0 [0, 17, 33, 56] rv else nth 0 [0, 13, 25, 43] rv
  let n := (if sh.bg = 1 then 66 else 50) * sh.z
  if n = 0 then 0 else a * sh.ncb / n * sh.z

/-- The positions that a transmission of E bits selects, in order. -/
def Shape.selected (sh : Shape) (rv e : Nat) : List Nat :=
  let ring := ((List.range sh.ncb).map fun i => (sh.start rv + i) % sh.ncb).filter fun p => !sh.filler p
  (List.range e).map fun i => nth 0 ring (i % max 1 ring.length)

/-- One more than the highest position selected. -/
def Shape.reach (sh : Shape) (rv e : Nat) : Nat := (sh.selected rv e).foldl (fun m p => max m (p + 1)) 0

/-- Check rows used for P positions (R221). -/
def Shape.rows (sh : Shape) (p : Nat) : Nat :=
  let n := 2 + ceilDiv p (max 1 sh.z)
  if sh.bg = 1 then min 46 (max 4 (n - 22)) else min 42 (max 4 (n - 10))

/-- C_dec of a code block (R224). -/
def Shape.cycles (sh : Shape) (iter p : Nat) : Nat := 64 + ceilDiv p 64 + iter * sh.rows p * (ceilDiv sh.z 192 + 1)

/-- Remainder of a bit sequence under a CRC of w bits. -/
def crcRem (poly w : Nat) (bs : List Bool) : Nat :=
  bs.foldl (fun r b =>
    let top := bit r (w - 1) != b
    let r := r * 2 % 2 ^ w
    if top then r ^^^ poly else r) 0

/-- Whether a sequence that ends in its CRC is right (R225). -/
def crcHolds (poly w : Nat) (bs : List Bool) : Bool := crcRem poly w bs = 0

/-- CRC24B of a code block (R225). -/
def blockPasses (bs : List Bool) : Bool := crcHolds 0x800063 24 bs

/-- CRC of a transport block. -/
def tbPasses (tbBits : Nat) (bs : List Bool) : Bool := if tbBits ≤ 3824 then crcHolds 0x1021 16 bs else crcHolds 0x864CFB 24 bs

/-- Bits as bytes, the first in the most significant bit. -/
def packBits (bs : List Bool) : List Byte :=
  (List.range (ceilDiv bs.length 8)).map fun i =>
    BitVec.ofNat 8 (((List.range 8).map fun k => b2n (nth false bs (8 * i + k)) * 2 ^ (7 - k)).foldl (· + ·) 0)

/-- Codes of a block put in rate-matching order: the bit interleaver undone. -/
def deinterleave (qm : Nat) (codes : List Int) : List Int :=
  let n := codes.length / max 1 qm
  (List.range qm).flatMap fun i => (List.range n).map fun j => nth 0 codes (i + j * qm)

/-- Saturation of codes to -127 to 127 (R222, R228). -/
def sat8 (x : Int) : Int := clampInt (-127) 127 x
def sat10 (x : Int) : Int := clampInt (-511) 511 x

/-- Adds codes at their positions. -/
def combineCodes : List (Nat × Int) → Tbl Int → Tbl Int
  | [], t => t
  | (p, c) :: l, t => combineCodes l (Tbl.set 0 t p (sat8 (Tbl.get 0 t p + c)))

/-- The received codes of a transmission by position. -/
def Shape.received (sh : Shape) (rv : Nat) (codes : List Int) (qm : Nat) : List (Nat × Int) :=
  (sh.selected rv codes.length).zip (deinterleave qm codes)

/-- Rate class of R_used (R223). -/
def rateClass (r : Nat) : Nat := if r < 8 then 0 else if r < 16 then 1 else if r < 32 then 2 else 3

/-- The cell's scaling byte (R223, 16 R438). -/
def Cell.scale (c : Cell) (bg cls it : Nat) : Nat :=
  let i := (bg - 1) * 64 + cls * 16 + it
  if bit (imgLe c.config 0x540 4) 0 then imgLe c.config (0x580 + i) 1 else Config.scaleTable i

/-- The decoder's state: posterior codes by variable, check messages by (row, place). -/
structure Ldpc where
  p : Tbl Int
  r : Tbl Int
  deriving DecidableEq, Repr

/-- One row of a circulant (R222): `key`, where the row's messages lie; its variables. -/
def Ldpc.row (a : Nat) (d : Ldpc) (key : Nat) (vs : List Nat) : Ldpc :=
  let q := vs.zipIdx.map fun e => sat8 (Tbl.get 0 d.p e.1 - Tbl.get 0 d.r (key + e.2))
  vs.zipIdx.foldl (fun d e =>
    let others := (q.zipIdx.filter fun x => x.2 ≠ e.2).map Prod.fst
    let m := (others.map Int.natAbs).foldl Nat.min 127
    let neg := (others.filter fun x => x < 0).length % 2 = 1
    let v := (roundQuot .rne (a * m) 64 : Nat)
    let msg : Int := if neg then -(v : Int) else v
    { p := Tbl.set 0 d.p e.1 (sat10 (nth 0 q e.2 + msg)), r := Tbl.set 0 d.r (key + e.2) msg }) d

/-- The variables of row x of base row j. -/
def Shape.checkRow (sh : Shape) (j x : Nat) : List Nat :=
  (Config.baseRow sh.bg sh.z j).map fun c => c.1 * sh.z + (x + c.2) % max 1 sh.z

/-- Layered normalised min-sum: ITER iterations over the rows used; the bits, and whether the syndrome of the final bits is 0 (R222). -/
def Shape.decode (sh : Shape) (scale : Nat → Nat) (iter rows : Nat) (p : Tbl Int) : List Bool × Bool :=
  let d := (List.range iter).foldl (fun d it =>
    (List.range rows).foldl (fun d j =>
      (List.range sh.z).foldl (fun d x => d.row (scale it) ((j * 384 + x) * 32) (sh.checkRow j x)) d) d) ({ p := p, r := [] } : Ldpc)
  let one := fun (v : Nat) => decide (Tbl.get 0 d.p v < 0)
  ((List.range sh.kPrime).map one,
    (List.range rows).all fun j => (List.range sh.z).all fun x => ((sh.checkRow j x).filter one).length % 2 = 0)

/-- The channel codes of the variables: the punctured positions 0, fillers +127 (R220). -/
def Shape.channel (sh : Shape) (pos : Tbl Int) : Tbl Int :=
  (List.range sh.ncb).foldl (fun t i =>
    Tbl.set 0 t (i + 2 * sh.z) (if sh.filler i then 127 else Tbl.get 0 pos i)) []

/-! ### Windows and the decode interval (09 R219, R226, R227) -/

/-- A window of one coding frame: engine, next free cycle, end, in coding-cluster cycles of device time. -/
structure Window where
  engine : Nat
  next : Nat
  stop : Nat
  deriving DecidableEq, Repr

/-- First and last cycle of the interval between two device times in ns: 1.2 cycles to the ns. -/
def cycleOf (ns : Int) : Nat := (ns * 6 / 5).toNat

/-- The windows of a kind that lie wholly inside an interval. -/
def windowsIn (j : Job) (kind alpha : Nat) (lo hi : Int) : List Window :=
  let k0 := (lo / 125000 - 1).toNat
  (List.range ((hi - lo) / 125000 + 4).toNat).flatMap fun k =>
    (j.windows.filter fun w => w.1 = kind).filterMap fun w =>
      let start := cycleOf ((k0 + k : Nat) * 125000 + (alpha % 125000 : Nat)) + w.2.2.1
      let stop := start + w.2.2.2
      if cycleOf lo ≤ start ∧ stop ≤ cycleOf hi then some { engine := w.2.1, next := start, stop := stop } else none

/-- Puts a block of n cycles where it would start earliest, ties to the lowest engine. -/
def layBlock (ws : List Window) (n : Nat) : Option (Window × List Window) :=
  let fit := ws.filter fun w => w.next + n ≤ w.stop
  match fit with
  | [] => none
  | w :: l =>
    let b := l.foldl (fun b x => if x.next < b.next ∨ x.next = b.next ∧ x.engine < b.engine then x else b) w
    some (b, ws.map fun x => if x = b then { x with next := x.next + n } else x)

/-- Lays blocks in order; none when one does not fit. -/
def layBlocks : List Nat → List Window → Option (List BlockPlace × List Window)
  | [], ws => some ([], ws)
  | n :: l, ws =>
    match layBlock ws n with
    | none => none
    | some (b, ws) => (layBlocks l ws).map fun r => ({ engine := b.engine, start := b.next, bits := none, crcPassed := false, syndromeZero := false } :: r.1, r.2)

/-- LLR deadline and indication deadline of a slot, after its end on air, in ns (08 R215). -/
def llrDeadline (mu : Nat) : Nat := if mu = 0 then 1000000 else if mu = 1 then 500000 else 125000
def indicationDeadline (mu : Nat) : Nat := if mu = 0 then 2000000 else if mu = 1 then 1000000 else 375000

/-- The decode interval of a slot (09 R226). -/
def Cell.decodeInterval (c : Cell) (slot : Nat) : Int × Int :=
  let e := c.airStart (slot + 1)
  (e + llrDeadline c.mu, e + indicationDeadline c.mu - 20000)

/-! ### HARQ soft buffers (09 R228) -/

/-- Bytes of one code block's soft buffer. -/
def Shape.blockBytes (sh : Shape) : Nat := 64 * ceilDiv sh.ncb 64

/-- A buffer of a key. -/
def Cell.harqOf (c : Cell) (rnti harq : Nat) : Option Harq := c.harq.find? fun b => b.rnti = rnti ∧ b.harq = harq

/-- Releases a key's buffer. -/
def Cell.harqFree (c : Cell) (rnti harq : Nat) : Cell := { c with harq := c.harq.filter fun b => b.rnti ≠ rnti ∨ b.harq ≠ harq }

/-- First place in the pool that holds so many bytes: 0, or the end of a buffer (first-fit). -/
def Cell.harqPlace (c : Cell) (bytes : Nat) : Option Nat :=
  let ends := 0 :: c.harq.map fun b => b.offset + b.bytes
  let ok := ends.filter fun o => decide (o + bytes ≤ c.f 0x58 8)
    && c.harq.all fun b => decide (o + bytes ≤ b.offset) || decide (b.offset + b.bytes ≤ o)
  match ok with
  | [] => none
  | o :: l => some (l.foldl Nat.min o)

/-! ### Contexts (08 R205) -/

def Cell.ctxOf (c : Cell) (rnti : Nat) : Option TrackCtx := c.contexts.find? fun x => x.rnti = rnti

/-- Assigns a context to an RNTI when one is free: not one freed in the slot that is on air. -/
def Cell.assignCtx (c : Cell) (rnti onAir : Nat) : Cell × Bool × Bool :=
  if (c.ctxOf rnti).isSome then (c, true, false)
  else if c.contexts.length + (c.freed.filter fun k => k = onAir).length < 256 then
    ({ c with contexts := c.contexts ++ [{ rnti := rnti, freq := 0, freqI := 0, time := 0, timeI := 0, age := 0 }] }, true, true)
  else (c, false, false)

/-! ### Slot descriptors (08 R196-R198) -/

/-- Layers that the PDUs of a slot place on a resource block. -/
def layersOn (ps : List PuschPdu) (rb : Nat) : Nat := sumNat ((ps.filter fun p => rb ∈ p.rbs).map (·.layers))

/-- The selector word of a slot (R198). -/
def selectorOf (nRb : Nat) (ps : List PuschPdu) : Nat :=
  ((List.range nRb).map (layersOn ps)).foldl Nat.max 0 + 16 * b2n (ps.any (·.dftS))

/-- The bytes of a slot descriptor: the allocation map, which names a PDU by its record's number, then one record per PDU. -/
def Cell.descriptor (c : Cell) (u : UlSlot) : List Byte :=
  let map := (List.range c.nRb).map fun rb => match u.recs.findIdx? fun r => rb ∈ r.pdu.rbs with
    | some k => BitVec.ofNat 8 k
    | none => (0xFF : Byte)
  map ++ u.recs.flatMap fun r =>
    match (if r.ctx then c.ctxOf r.pdu.rnti else none) with
    | some x => Config.pduRecord r.pdu x.freq x.time
    | none => Config.pduRecord r.pdu 0 0

/-- An uplink slot with an empty descriptor (R197). -/
def Cell.emptySlot (c : Cell) (slot : Nat) : UlSlot :=
  { slot := slot, sfn := c.sfn slot, slotInFrame := c.inFrame slot, recs := [], polar := [], prach := [], prachBase := 0, reported := false,
    indicated := false }

/-- Posts the uplink slot descriptors that are due, in slot order, each when the plan rule has taken the one before (R196, log 67). -/
def postUplink : Nat → State → Nat → State
  | 0, s, _ => s
  | n + 1, s, ci =>
    match getCell s ci with
    | none => s
    | some c =>
      match c.ul.find? (fun u => u.slot = c.nextUp), getJob s c.up with
      | some u, some j =>
        let k := c.nextUp - c.firstUp
        let taken : Bool := match j.run with
          | some r => decide (k ≤ r.ruleNext + 1)
          | none => false
        if ¬ taken then s
        else
          let st := paramOf j.image 0x1 0x0A 2
          let s := onTile s j st k fun a m => Mem.writeBytes m a (c.descriptor u)
          let s := updJob s c.up fun j =>
            { j with selectors := Tbl.set 0 j.selectors (j.ruleField 0 2) (selectorOf c.nRb (u.recs.map (·.pdu))) }
          let s := postProduced s c.up st (sourceCode 6 0)
          postUplink n (updCell s ci fun c => { c with nextUp := c.nextUp + 1 }) ci
      | _, _ => s

/-! ### Stopping cells (09 R242, 16 R439, R443) -/

/-- The last slot that the uplink job has processed, or that it was processing. -/
def Cell.lastSlot (s : State) (c : Cell) : Nat :=
  match getJob s c.up with
  | some j => c.firstUp + j.begunEpochs - 1
  | none => c.firstUp

/-- CELL_STOPPED. -/
def sendCellStopped (s : State) (ci : Nat) (c : Cell) (reason object slot : Nat) : State :=
  partEvent s c.part 0x0880 32
    (leBytes 1 ci ++ leBytes 1 reason ++ leBytes 2 object ++ leBytes 2 (c.sfn slot) ++ leBytes 1 (c.inFrame slot))

/-- Ends a job's invocation at once, and drops the job: its segments are rinsed, but for the cores that have failed. -/
def dropAborted (s : State) (h : Nat) (lost : List Nat) : State :=
  match getJob s h with
  | none => s
  | some j =>
    let segs := j.segParts.filter fun e => e.1 ∉ lost
    if j.run.isSome then
      settleRinses (dropJob (endInvocation (abortInvocation s h eAborted none lost) h eAborted none) h)
    else settleRinses (startRinse (dropJob s h) segs .other)

/-- What a cell that stops leaves of its adaptation (10 R274): the adaptation job is unloaded; phase counts are discarded. -/
def adaptCellStops (s : State) (ci : Nat) : State :=
  match Tbl.find s.radio.adapts ci with
  | none => s
  | some a =>
    let s := match a.change.bind LiveChange.ticket with
      | some t => complete s t (Done.of eAborted)
      | none => s
    let s := match a.job with
      | some h => dropAborted s h []
      | none => s
    let a' : Adapt :=
      { a with
        job := none, sums := [], livePdus := 0, liveFails := 0, round := none, change := none, outcomes := [], staged := [],
        tested := 0, probPdus := 0, probFails := 0 }
    { s with radio := { s.radio with adapts := Tbl.put s.radio.adapts ci a' } }

/-- Releases a cell whose jobs have ended: jobs unloaded, soft buffers released, contexts gone. -/
def releaseCell (s : State) (ci : Nat) (lost : List Nat) : State :=
  match getCell s ci with
  | none => s
  | some c =>
    let s := dropAborted (dropAborted s c.up lost) c.down lost
    let s := adaptCellStops s ci
    { s with radio := { s.radio with cells := Tbl.del s.radio.cells ci } }

/-- A cell stops by a failure, a fault or a reset: commands that wait for it end with E_ABORTED, and CELL_STOPPED is sent. -/
def stopCell (s : State) (ci reason object : Nat) (lost : List Nat) : State :=
  match getCell s ci with
  | none => s
  | some c =>
    let slot := Cell.lastSlot s c
    let s := releaseCell s ci lost
    let s := (c.starting.toList ++ (c.stopping.map Prod.fst).toList).foldl (fun s t => finish s t (Done.of eAborted)) s
    sendCellStopped s ci c reason object slot

/-- The cell of a job. -/
def Job.cell (j : Job) : Option Nat :=
  match j.kind with
  | .cellUp c => some c
  | .cellDown c => some c
  | _ => none

end Sys2Proof.Machine
end

