-- ==== Sys2Proof/Machine/CellImage.lean ====
section
/-! DEFINITION. The job images of a cell: the images of the firmware release, in which the tellers write the parameter records from CELL_START's
fields, and what 08 and 09 fix of their headers and rule (08 R180, R185, R186, R198; 09 R230, R235; 10 R253; 16 R437; log 66). -/

namespace Sys2Proof.Machine

/-- Replaces bytes of an image. -/
def patchBytes (img : List Byte) (o : Nat) (bs : List Byte) : List Byte :=
  if o + bs.length ≤ img.length then img.take o ++ bs ++ img.drop (o + bs.length) else img

/-- Replaces a field of n bytes. -/
def patchLe (img : List Byte) (o n v : Nat) : List Byte := patchBytes img o (leBytes n v)

/-- Writes IMAGE_CRC (02 R47, R48). -/
def sealImage (img : List Byte) : List Byte := patchLe img 0x38 8 (crc64 (zeroRange img 0x38 8))

/-- Replaces bytes of the parameter record of the first station of a kind. -/
def patchParam (kind off : Nat) (bs : List Byte) (img : List Byte) : List Byte :=
  match stationOf img kind with
  | some st => patchBytes img ((imgSection img 0x0007).2.1 + paramAt img st + off) bs
  | none => img

/-- Bytes of a field of CELL_START, at its offset in the command. -/
def bodyBytes (body : List Byte) (off n : Nat) : List Byte := leBytes n (bodyField body off n)

/-- Copies fields of CELL_START into a parameter record: (offset in the record, offset in the command, bytes). -/
def copyFields (kind : Nat) (body : List Byte) (fs : List (Nat × Nat × Nat)) (img : List Byte) : List Byte :=
  fs.foldl (fun img f => patchParam kind f.1 (bodyBytes body f.2.1 f.2.2) img) img

/-- The header of a cell's job: latency-critical, at 1,400 MHz, with epochs of one slot on the air's slot boundaries, without a limit (R180,
R185, R215). -/
def cellHeader (body : List Byte) (img : List Byte) : List Byte :=
  let period := 1000000 / 2 ^ bodyField body 0x13 1
  let img := patchLe img 0x0E 2 (imgFlags img / 2 * 2)
  let img := patchLe (patchLe img 0x10 2 1400) 0x14 4 0
  patchLe (patchLe img 0x18 4 period) 0x1C 4 (bodyField body 0x28 4 % period)

/-- The rule of an uplink image: LEAD 1 and the eight ranges of R198; its selector word and READY tally are the release's (R196). -/
def uplinkRule (img : List Byte) : List Byte :=
  let o := (imgSection img 0x000E).2.1
  let img := patchLe (patchLe (patchLe img 0x04 2 4) 0x0E 2 (imgFlags img % 2 + 2)) (o + 4) 2 (1 + 256 * 8)
  ([1, 2, 4, 8, 17, 18, 20, 0xFFFFFFFF].zipIdx).foldl (fun img e => patchLe img (o + 16 + 8 * e.2) 8 (e.1 + 2 ^ 32 * e.2)) img

/-- The uplink image of a cell: INGEST and DECODE records from CELL_START (R180, R186; 09 R230). -/
def cellUplinkImage (body cfg : List Byte) : List Byte :=
  let f := bodyField body
  let img := cellHeader body (uplinkRule (Config.uplinkImage body cfg))
  let img := copyFields 0x1 body
    [(0, 0x12, 1), (1, 0x13, 1), (2, 0x14, 2), (4, 0x16, 2), (6, 0x18, 1), (7, 0x19, 1), (8, 0x1B, 1), (9, 0x1C, 1), (0x0C, 0x20, 4),
      (0x10, 0x24, 4), (0x14, 0x28, 4), (0x18, 0x2C, 1)] img
  let img := patchParam 0x1 64 (cfg.take (8 * (f 0x1B 1 + f 0x1C 1))) img
  sealImage (copyFields 0x7 body [(4, 0x2F, 1), (6, 0x3E, 2), (0x0C, 0x44, 4), (0x10, 0x48, 4), (0x18, 0x58, 8)] img)

/-- The downlink image of a cell: EGRESS and ENCODE records from CELL_START (09 R230, R235). -/
def cellDownlinkImage (body cfg : List Byte) : List Byte :=
  let f := bodyField body
  let img := cellHeader body (Config.downlinkImage body cfg)
  let img := copyFields 0xB body
    [(0, 0x12, 1), (1, 0x13, 1), (2, 0x14, 2), (4, 0x16, 2), (6, 0x1A, 1), (7, 0x1D, 1), (8, 0x1E, 1), (9, 0x1F, 1), (0x0C, 0x30, 4),
      (0x10, 0x34, 4), (0x14, 0x38, 4), (0x18, 0x28, 4), (0x1C, 0x2C, 1)] img
  let img := patchParam 0xB 64 ((cfg.drop (8 * (f 0x1B 1 + f 0x1C 1))).take (8 * (f 0x1D 1 + f 0x1E 1))) img
  sealImage (copyFields 0x8 body [(8, 0x4C, 4), (0x0C, 0x50, 4)] img)

/-- The adaptation image of a cell: a best-effort job (10 R253). -/
def cellAdaptImage (body : List Byte) : List Byte :=
  let img := Config.adaptImage body
  sealImage (patchLe img 0x0E 2 (imgFlags img / 2 * 2 + 1))

end Sys2Proof.Machine
end

