-- ==== Sys2Proof/Machine/Pdu.lean ====
section
/-! DEFINITION. Where a PUSCH PDU lies in the grid of its slot: DMRS places, data elements, and the grid's elements as INGEST wrote them
(08 R190, R191, R201, R212). -/

namespace Sys2Proof.Machine

/-! ### Geometry of a PDU (08 R201; TS 38.211) -/

/-- A place of a port's estimate: twice its subcarrier, and the subcarriers that it combines with their covers. -/
structure EstPlace where
  twice : Nat
  parts : List (Nat × Rat)
  deriving DecidableEq, Repr

/-- The frequency cover of a port at index i. -/
def coverF (port i : Nat) : Rat := if port % 2 = 1 ∧ i = 1 then -1 else 1

end Sys2Proof.Machine

namespace Sys2Proof

open Machine

def PuschPdu.symbols (p : PuschPdu) : List Nat := (List.range p.symCount).map (p.symStart + ·)
def PuschPdu.dmrsSyms (p : PuschPdu) : List Nat := (List.range 14).filter (bit p.dmrsSymbols)

/-- The symbol groups of the DMRS: pairs of adjacent symbols with double-symbol DMRS, else single symbols. -/
def PuschPdu.dmrsGroups (p : PuschPdu) : List (List Nat) :=
  let l := p.dmrsSyms
  if l.any fun k => (k + 1) ∈ l then (List.range (l.length / 2)).map fun i => [nth 0 l (2 * i), nth 0 l (2 * i + 1)]
  else l.map fun k => [k]

/-- The CDM group of a port, and its time cover at index i. -/
def PuschPdu.cdmGroup (p : PuschPdu) (port : Nat) : Nat := if p.dmrsType2 then port % 6 / 2 else port % 4 / 2
def PuschPdu.coverT (p : PuschPdu) (port i : Nat) : Rat := if (if p.dmrsType2 then 6 else 4) ≤ port ∧ i = 1 then -1 else 1

/-- Whether a port's estimates combine pairs of subcarriers: another port of the PDU shares its CDM group; of type 2 always, as the spacing
of 6 that R201 gives it needs (DEDUCED, log 100). -/
def PuschPdu.paired (p : PuschPdu) (port : Nat) : Bool :=
  p.dmrsType2 || p.dmrsPorts.any fun q => decide (q ≠ port ∧ p.cdmGroup q = p.cdmGroup port)

/-- The spacing D of a port's estimates (R201). -/
def PuschPdu.spacing (p : PuschPdu) (port : Nat) : Nat := if p.dmrsType2 then 6 else if p.paired port then 4 else 2

/-- The places of a port's estimates over a carrier, in order. -/
def PuschPdu.places (p : PuschPdu) (nRb port : Nat) : List EstPlace :=
  let g := p.cdmGroup port
  let pairs : List (Nat × Nat) :=
    if p.dmrsType2 then (List.range (2 * nRb)).map fun n => (6 * n + 2 * g, 6 * n + 2 * g + 1)
    else (List.range (3 * nRb)).map fun n => (4 * n + g, 4 * n + 2 + g)
  if p.paired port then pairs.map fun k => ⟨k.1 + k.2, [(k.1, coverF port 0), (k.2, coverF port 1)]⟩
  else pairs.flatMap fun k => [⟨2 * k.1, [(k.1, coverF port 0)]⟩, ⟨2 * k.2, [(k.2, coverF port 1)]⟩]

/-- Whether an estimate belongs to the PDU. -/
def PuschPdu.owns (p : PuschPdu) (e : EstPlace) : Bool := e.parts.all fun k => decide (k.1 / 12 ∈ p.rbs)

/-- The subcarriers of the PDU in ascending order. -/
def PuschPdu.subcarriers (p : PuschPdu) (nRb : Nat) : List Nat := (List.range (12 * nRb)).filter fun k => decide (k / 12 ∈ p.rbs)

/-- Whether an element of the PDU carries data: no PTRS, and no DMRS or CDM group kept without data (R212). -/
def PuschPdu.carries (p : PuschPdu) (inFrame k l : Nat) : Bool :=
  let group := if p.dmrsType2 then k % 6 / 2 else k % 2
  !(bit p.dmrsSymbols l && decide (group < p.cdmGroupsNoData))
    && !(bit p.bitmap 2 && (Config.ptrsElements p inFrame).any fun e => decide (e.1 = l ∧ e.2.1 = k))

/-- The data subcarriers of a symbol of the PDU, and its data elements as (subcarrier, symbol) in codeword order: by increasing subcarrier, then
increasing symbol (R212). -/
def PuschPdu.dataAt (p : PuschPdu) (nRb inFrame l : Nat) : List Nat := (p.subcarriers nRb).filter fun k => p.carries inFrame k l
def PuschPdu.elements (p : PuschPdu) (nRb inFrame : Nat) : List (Nat × Nat) :=
  p.symbols.flatMap fun l => (p.dataAt nRb inFrame l).map fun k => (k, l)

/-- c_init of a PDU's scrambling sequence (R212). -/
def PuschPdu.cInit (p : PuschPdu) : Nat := p.rnti * 2 ^ 15 + p.scramblingId

end Sys2Proof

namespace Sys2Proof.Machine

/-! ### The grid -/

/-- An element of the grid as INGEST wrote it, as a part of full scale (07 R169). -/
def gridElement (s : State) (c : Cell) (j : Job) (slot a k l : Nat) : Cx :=
  let e := (gridBlocks c.nRb c.guard_).2
  let st := paramOf j.image 0x1 0x1A 2 + k / e
  match tileAt j st (slot - c.firstUp) with
  | some (core, base) =>
    let w := Mem.le (getCore s core).scratch ((streamTile j.image st).at base a l (k % e + c.guard_) 4) 4
    ⟨(signed 16 (w % 65536) : Rat) / 32768, (signed 16 (w / 65536) : Rat) / 32768⟩
  | none => Cx.zero

/-- Whether the erasure tile marks an element (R191). -/
def gridErased (s : State) (c : Cell) (j : Job) (slot k l : Nat) : Bool :=
  let e := (gridBlocks c.nRb c.guard_).2
  let er := paramOf j.image 0x1 0x1E 2
  if er = 0xFFFF then false
  else
    match tileAt j (er + k / e) (slot - c.firstUp) with
    | some (core, base) =>
      decide (Mem.le (getCore s core).scratch ((streamTile j.image (er + k / e)).at base 0 l (k % e + c.guard_) 1) 1 = 1)
    | none => false

end Sys2Proof.Machine
end

