-- ==== Sys2Proof/Machine/Adapt.lean ====
section
/-! DEFINITION. On-site receiver adaptation: receiver slots, staging, the sample ledger, training rounds, evaluation, promotion,
probation and rollback (10 R243-R275). -/

namespace Sys2Proof.Machine

/-! ### State of a cell's adaptation -/

def getAdapt (s : State) (ci : Nat) : Adapt := (Tbl.find s.radio.adapts ci).getD Adapt.reset
def updAdapt (s : State) (ci : Nat) (f : Adapt → Adapt) : State :=
  { s with radio := { s.radio with adapts := Tbl.put s.radio.adapts ci (f (getAdapt s ci)) } }

/-- A field of the last ADAPT_CONFIG with ACTION 0, at its offset. -/
def Adapt.f (a : Adapt) (off n : Nat) : Nat := bodyField a.config off n

/-- Phases (R267). -/
def phOff : Nat := 0
def phTraining : Nat := 1
def phEvaluating : Nat := 2
def phPassed : Nat := 3
def phProbation : Nat := 4

/-- The phase to which a cell returns: TRAINING, or OFF when ENABLE is 0. -/
def Adapt.home (a : Adapt) : Nat := if a.enable then phTraining else phOff

/-! ### The adaptation region (R243, R244) -/

def Cell.region (c : Cell) : Nat := c.f 0x78 8

/-- Bytes of partition HBM of a partition, when it exists. -/
def partBytes (s : State) (p a n : Nat) : List Byte :=
  match Tbl.find s.work.parts p with
  | some q => hbmBytes s q a n
  | none => []

/-- A field of a receiver slot's header; k: 0 A, 1 B. -/
def slotField (s : State) (c : Cell) (k off n : Nat) : Nat := leNat (partBytes s c.part (c.region + k * pageBytes + off) n)

/-- Slot states: 0 EMPTY, 1 CANDIDATE, 2 PASSED, 3 ACTIVE, 4 FALLBACK. -/
def slotState (s : State) (c : Cell) (k : Nat) : Nat := slotField s c k 0x09 1
def setSlotState (s : State) (c : Cell) (k v : Nat) : State := hbmWrite s c.part (c.region + k * pageBytes + 0x09) (leBytes 1 v)

/-- The slot in a state. -/
def slotWith (s : State) (c : Cell) (v : Nat) : Option Nat := (List.range 2).find? fun k => slotState s c k = v

/-- Master weights of a slot. -/
def masterOf (s : State) (c : Cell) (k : Nat) : List Byte :=
  partBytes s c.part (c.region + k * pageBytes + 0x100) (slotField s c k 0x0C 4)

/-- Where a slot's deploy blocks lie. -/
def deployAt (s : State) (c : Cell) (k : Nat) : Nat := 64 * ceilDiv (0x100 + slotField s c k 0x0C 4) 64

/-- Writes a receiver into a slot: header, master weights, deploy blocks (R244, R245). -/
def writeSlotImage (s : State) (c : Cell) (k : Nat) (planes layers qm : Nat) (weights : List Byte) (parent digest gen records : Nat) : State :=
  let blocks := (Config.deployBlocks weights).take 1572864
  let head := leBytes 4 0x57585243 ++ leBytes 2 1 ++ leBytes 1 planes ++ leBytes 1 layers ++ leBytes 1 qm ++ leBytes 1 1
    ++ leBytes 2 Config.arch.toNat ++ leBytes 4 weights.length ++ leBytes 8 (crc64 weights) ++ leBytes 8 parent ++ leBytes 8 digest
    ++ leBytes 4 gen ++ leBytes 4 s.sys.version.toNat ++ leBytes 8 (timeS s) ++ leBytes 4 blocks.length ++ leBytes 4 records ++ leBytes 192 0
  let a := c.region + k * pageBytes
  let s := hbmWrite (hbmWrite s c.part a head) c.part (a + 0x100) weights
  hbmWrite s c.part (a + deployAt s c k) blocks

/-- Copies a slot's deploy blocks into the live weight region (R246). -/
def makeLive (s : State) (c : Cell) (k : Nat) : State :=
  let n := min (slotField s c k 0x38 4) 1572864
  hbmWrite s c.part (c.region + 2 * pageBytes) (partBytes s c.part (c.region + k * pageBytes + deployAt s c k) n)

/-- Whether a PDU is eligible for a slot's receiver (08 R209). -/
def eligible (s : State) (c : Cell) (k : Nat) (p : PuschPdu) : Bool :=
  !p.dftS && decide (p.layers ≤ slotField s c k 0x07 1) && decide (p.qm ≤ slotField s c k 0x08 1)
    && decide (c.planes = slotField s c k 0x06 1)

/-! ### Events (R273) -/

/-- ADAPT_EVENT, and its entry in the adaptation history. -/
def adaptEvent (s : State) (ci kind slot trigger epoch crc : Nat) (v : List Nat) : State :=
  match getCell s ci with
  | none => s
  | some c =>
    let body := leBytes 1 ci ++ leBytes 1 kind ++ leBytes 1 slot ++ leBytes 1 trigger ++ leBytes 4 epoch ++ leBytes 8 crc
      ++ (List.range 4).flatMap fun i => leBytes 8 (nth 0 v i)
    let n := (getAdapt s ci).history
    let s := hbmWrite s c.part (c.region + 2 * pageBytes + 0x190000 + 48 * (n % 64)) body
    let s := updAdapt s ci fun a => { a with history := n + 1 }
    partEvent s c.part 0x0A80 64 body

/-- WEIGHT_CRC of a slot. -/
def slotCrc (s : State) (c : Cell) (k : Nat) : Nat := slotField s c k 0x10 8

/-! ### Evaluation (R260-R263) -/

/-- ce(q) in 2^-16 bits (R261). -/
def ceOf (label : Bool) (q : Int) : Nat :=
  let x : Int := if label then q else -q
  let arg := f32Mul (Val.ofInt x (-2)) (fF32.decode 0x3FB8AA3B)
  let one := Val.ofInt 1 0
  let sum := fF32.encode (Val.add one (fF32.decode (Config.exp2 (BitVec.ofNat 32 (fF32.encode arg))).toNat))
  let r := ((Val.shift (fF32.decode (Config.log2 (BitVec.ofNat 32 sum)).toNat) 16).toInt .rne).getD 0
  min (2 ^ 20) r.toNat

/-- err(q) (R261). -/
def errOf (label : Bool) (q : Int) : Nat := b2n (decide ((if label then -q else q) ≤ 0))

/-- The sums of one evaluated PDU: `codes`, the receiver's on its labelled bits; a code that is missing is 0. -/
def evalSum (p : StagedPdu) (codes : List Int) : EvalSum :=
  let both := p.bits.zipIdx.map fun b => (b.1.1, clampInt (-128) 127 (nth 0 codes b.2), b.1.2)
  { qm := p.pdu.qm
    cCand := sumNat (both.map fun b => ceOf b.1 b.2.1)
    cLive := sumNat (both.map fun b => ceOf b.1 b.2.2)
    eCand := sumNat (both.map fun b => errOf b.1 b.2.1)
    eLive := sumNat (both.map fun b => errOf b.1 b.2.2) }

def totalOf (l : List EvalSum) (f : EvalSum → Nat) : Nat := sumNat (l.map f)

/-- The tests of R262. -/
def Adapt.passes (a : Adapt) : Bool :=
  let l := a.sums
  let n := l.length
  let quarter := fun k => (l.drop (k * n / 4)).take ((k + 1) * n / 4 - k * n / 4)
  decide (totalOf l (·.cCand) * 65536 ≤ totalOf l (·.cLive) * (65536 - a.f 0x30 2))
    && decide (totalOf l (·.eCand) ≤ totalOf l (·.eLive))
    && ((List.range 4).all fun k => decide (totalOf (quarter k) (·.cCand) ≤ totalOf (quarter k) (·.cLive)))
    && [2, 4, 6, 8].all fun q =>
      let m := l.filter fun e => e.qm = q
      decide (m.length < a.f 0x32 2) || decide (totalOf m (·.cCand) ≤ totalOf m (·.cLive))

/-- The four sums that an evaluation's event carries. -/
def Adapt.verdict (a : Adapt) : List Nat :=
  [totalOf a.sums (·.cCand), totalOf a.sums (·.cLive), totalOf a.sums (·.eCand), totalOf a.sums (·.eLive)]

/-- Completes the host command of a pending switch with E_SUPERSEDED, and forgets the switch (R274). -/
def supersede (s : State) (ci : Nat) : State :=
  let a := getAdapt s ci
  let s := updAdapt s ci fun a => { a with change := none }
  match a.change.bind LiveChange.ticket with
  | some t => finish s t (Done.of eSuperseded)
  | none => s

/-- A candidate is rejected: its slot is EMPTY, and the phase returns (R263). -/
def rejectCandidate (s : State) (ci : Nat) : State :=
  match getCell s ci with
  | none => s
  | some c =>
    let a := getAdapt s ci
    let k := ((slotWith s c 1).orElse fun _ => slotWith s c 2).getD 0
    let s := supersede s ci
    let s := adaptEvent s ci 2 k 0 0xFFFFFFFF (slotCrc s c k) a.verdict
    let s := setSlotState s c k 0
    updAdapt s ci fun a => { a with phase := a.home, sums := [], livePdus := 0, liveFails := 0 }

/-- The first slot whose processing epoch begins at least 100 µs from now (R264). -/
def effectSlot (s : State) (c : Cell) : Nat :=
  let t := nowNs s + 100000
  let n := c.slotAt t
  if c.airStart n = t then n - 1 else n

/-- A switch of the live receiver is decided (R264, R266). -/
def decideSwitch (s : State) (ci : Nat) (c : Cell) (slot : Option Nat) (rollback : Bool) (trigger : Nat) (ticket : Option Nat) (fig : Nat × Nat) : State :=
  let s := supersede s ci
  let x : LiveChange :=
    { slot := slot, rollback := rollback, trigger := trigger, effect := effectSlot s c, ticket := ticket, figures := fig, copied := false }
  updAdapt s ci fun a => { a with change := some x }

/-- Promotes the PASSED slot (R264). -/
def promote (s : State) (ci : Nat) (ticket : Option Nat) : State :=
  match getCell s ci with
  | none => s
  | some c =>
    match slotWith s c 2 with
    | some k => decideSwitch s ci c (some k) false 0 ticket (0, 0)
    | none => s

/-- Rolls the live receiver back (R266). -/
def rollback (s : State) (ci trigger : Nat) (toClassical : Bool) (ticket : Option Nat) (fig : Nat × Nat) : State :=
  match getCell s ci with
  | none => s
  | some c =>
    let pendingTrigger : Bool := match (getAdapt s ci).change with
      | some x => x.rollback && x.ticket.isNone
      | none => false
    if pendingTrigger then
      match ticket with
      | some t => finish s t (Done.of eSuperseded)
      | none => s
    else decideSwitch s ci c (if toClassical then none else slotWith s c 4) true trigger ticket fig

/-- Evaluation closes when it has its PDUs (R262, R263). -/
def closeEvaluation (s : State) (ci : Nat) : State :=
  let a := getAdapt s ci
  match getCell s ci with
  | none => s
  | some c =>
    if a.sums.length < a.f 0x28 4 then s
    else
      let base := if a.livePdus = 0 then 65536 else 65536 * a.liveFails / a.livePdus
      let s := updAdapt s ci fun a => { a with baseline := base }
      if a.passes then
        let k := (slotWith s c 1).getD 0
        let s := setSlotState s c k 2
        let s := adaptEvent s ci 1 k 0 0xFFFFFFFF (slotCrc s c k) a.verdict
        let s := updAdapt s ci fun a => { a with phase := phPassed }
        if a.auto then promote s ci none else s
      else rejectCandidate s ci

/-! ### Staging entries and the ledger (R247-R251) -/

/-- Where a staging entry lies. -/
def Cell.stagingAt (c : Cell) (entry : Nat) : Nat := c.region + (3 + entry) * pageBytes

/-- SINR bin of a value in 1/256 dB (R250). -/
def sinrBin (x : Int) : Nat := if x < 0 then 0 else if x < 2560 then 1 else if x < 5120 then 2 else 3

/-- Whether an entry would be captured: at least 25 % of its block's data elements are labelled, of which there is one (log 103). -/
def Adapt.wouldCapture (a : Adapt) (e : Staged) : Bool :=
  decide (e.n % max 1 (a.f 0x16 2) = 0) && decide (a.phase = phTraining) && decide (0 < e.data) && decide (e.data ≤ 4 * e.labelled)

/-- Turns a staging entry into a ledger record, unless a frozen record would be overwritten (R250, R251). -/
def capture (s : State) (ci : Nat) (c : Cell) (e : Staged) : State :=
  let a := getAdapt s ci
  let size := a.f 0x18 2
  let q := a.nextRecord
  let frozen : Bool := match a.round with
    | some r => r.frozen.any fun x => x.1 % max 1 size = q % max 1 size
    | none => false
  if frozen then updCell s ci fun c => { c with captureSkipped := satInc c.captureSkipped 1 }
  else
    let from_ := c.stagingAt e.entry
    let head := partBytes s c.part from_ 4096
    let bin := sinrBin e.sinr
    let body := partBytes s c.part (from_ + 0x1000) (0x1C1000 - 0x1000) ++ padTo 0x3F000 e.labels
    let to_ := a.f 0x48 8 + q % max 1 size * pageBytes
    let s := hbmWrite s c.part to_ (leBytes 8 q ++ leBytes 4 e.n ++ (head.drop 12).take 1 ++ leBytes 1 bin ++ (head.drop 14).take 2
      ++ leBytes 8 (crc64 body) ++ head.drop 24)
    let s := hbmWrite s c.part (to_ + 0x1000) body
    updAdapt s ci fun a =>
      { a with nextRecord := q + 1, records := (a.records ++ [(q, bin)]).drop (a.records.length + 1 - size) }

/-- The receiver that runs on staging entries: the candidate's slot, or in PROBATION the FALLBACK slot; none: the classical receiver (R260,
R265). -/
def shadowSlot (s : State) (ci : Nat) (c : Cell) : Option Nat := slotWith s c (if (getAdapt s ci).phase = phProbation then 4 else 1)

/-- The PDUs of an entry that are evaluated: passed, eligible for the receiver run, with a labelled bit (R260). -/
def evaluated (s : State) (ci : Nat) (c : Cell) (e : Staged) : List StagedPdu :=
  e.pdus.filter fun p => p.passed && !p.bits.isEmpty && ((shadowSlot s ci c).all fun k => eligible s c k p.pdu)

/-- STAGING_PROCESS: the adaptation job processes a staging entry: evaluation, reversed evaluation, or capture. -/
def execStagingProcess (cell entry : Nat) (pdus : List EvalPdu) (s : State) : Out :=
  .next (match getCell s cell, (getAdapt s cell).staged.find? fun e => e.entry = entry with
    | some c, some e =>
      let a := getAdapt s cell
      if a.job.isNone then s
      else
        let s' := updAdapt s cell fun a => { a with staged := a.staged.filter fun e => e.entry ≠ entry }
        let new := (evaluated s cell c e).map fun p => evalSum p ((pdus.find? fun x => x.index = p.index).elim [] EvalPdu.codes)
        let s' := updAdapt s' cell fun a =>
          if a.phase = phEvaluating ∨ a.phase = phProbation then { a with sums := a.sums ++ new } else a
        if a.phase = phEvaluating then closeEvaluation s' cell
        else if a.phase = phProbation then
          let b := getAdapt s' cell
          let w := max 1 (b.f 0x38 2)
          let live := totalOf b.sums (·.cLive)
          let prev := totalOf b.sums (·.cCand)
          if a.sums.length / w < b.sums.length / w ∧ prev * (65536 + b.f 0x30 2) < live * 65536 then
            rollback s' cell 2 false none (prev, live)
          else s'
        else if a.wouldCapture e then capture s' cell c e
        else s'
    | _, _ => s)

/-- A staging entry of slot counter n is about to be written again: one not processed is lost (R251). -/
def stagingReused (s : State) (ci : Nat) (entry : Nat) : State :=
  let a := getAdapt s ci
  match a.staged.find? fun e => e.entry = entry with
  | none => s
  | some e =>
    let s := updAdapt s ci fun a => { a with staged := a.staged.filter fun e => e.entry ≠ entry }
    if a.job.isNone then s
    else updCell s ci fun c =>
      { c with
        shadowSkipped := satInc c.shadowSkipped 1
        captureSkipped := if a.wouldCapture e then satInc c.captureSkipped 1 else c.captureSkipped }

/-- Slot counter n of a slot (R247). -/
def Cell.counter (c : Cell) (slot : Nat) : Nat := c.sfn slot * 2 ^ c.mu + c.inFrame slot

/-! ### Labels (R248, R252) -/

/-- A PDU of the staged block: its record, where its bits lie in the transport block area, its data elements with their place in the codeword. -/
structure BlockPdu where
  rec_ : UlRec
  offset : Option Nat
  elements : List ((Nat × Nat) × Nat)
  deriving DecidableEq, Repr

/-- Whether an element of subcarrier k lies in block f, at a position from G to G + E - 1; or anywhere in its tile. -/
def inCentre (e f k : Nat) : Bool := decide (f * e ≤ k) && decide (k < f * e + e)
def inTile (e g f k : Nat) : Bool := decide (f * e ≤ k + g) && decide (k < f * e + e + g)

/-- The PDUs of a slot with a data element in block f, in order; their bits are placed while they fit (R248). -/
def blockPdus (c : Cell) (u : UlSlot) (f : Nat) : List BlockPdu :=
  let (_, e) := gridBlocks c.nRb c.guard_
  let here := u.recs.map (fun r => (r, (r.pdu.elements c.nRb u.slotInFrame).zipIdx)) |>.filter fun x => x.2.any fun q => inTile e c.guard_ f q.1.1
  (here.foldl (fun (acc : List BlockPdu × Nat) x =>
    let len := x.1.pdu.tbBits / 8
    if acc.2 + len ≤ 786432 then (acc.1 ++ [⟨x.1, some acc.2, x.2⟩], acc.2 + len) else (acc.1 ++ [⟨x.1, none, x.2⟩], acc.2)) ([], 0)).1

/-- The labelled elements of a PDU: its CRC passed, its bits are placed, the element is in the centre and not erased (R252). -/
def labelledAt (s : State) (c : Cell) (j : Job) (slot f : Nat) (b : BlockPdu) : List ((Nat × Nat) × Nat) :=
  let (_, e) := gridBlocks c.nRb c.guard_
  if b.offset.isSome ∧ b.rec_.passed = some true then
    b.elements.filter fun q => inCentre e f q.1.1 && !gridErased s c j slot q.1.1 q.1.2
  else []

/-- The labels of an element of a PDU: (layer, bit, label, live code); the live code before descrambling. Only layers 0 and 1 have label
channels (R249, R252). -/
def elementLabels (r : UlRec) (word : List Bool) (i : Nat) : List (Nat × Nat × Bool × Int) :=
  let p := r.pdu
  (List.range (min 2 p.layers)).flatMap fun v => (List.range (min 8 p.qm)).map fun b =>
    let k := i * (p.layers * p.qm) + v * p.qm + b
    let code := nth 0 (r.llr.getD []) k
    (v, b, nth false word k, if Config.goldBit p.cInit k then -code else code)

/-- The 16 label bits and 16 mask bits of a position. -/
def labelWord (ls : List (Nat × Nat × Bool × Int)) : List Byte :=
  leBytes 2 (sumNat (ls.map fun x => b2n x.2.2.1 * 2 ^ (8 * x.1 + x.2.1))) ++ leBytes 2 (sumNat (ls.map fun x => 2 ^ (8 * x.1 + x.2.1)))

/-- The tellers copy the decoded bits and PDU records of a slot into its staging entry (R248); what the adaptation job will label of it is
kept beside (R250, R252). -/
def stagingCopy (s : State) (ci : Nat) (c : Cell) (u : UlSlot) (blocks : Nat) : State :=
  match getJob s c.up with
  | none => s
  | some j =>
    let n := c.counter u.slot
    let entry := n % 8
    let base := c.stagingAt entry
    let f := n % max 1 blocks
    let (_, e) := gridBlocks c.nRb c.guard_
    let here := blockPdus c u f
    let bytes := fun (r : UlRec) => partBytes s c.part (c.f 0x68 8 + r.rxOffset) (r.pdu.tbBits / 8)
    let marked := here.map fun b =>
      let word := Config.codedWord b.rec_.pdu (bytes b.rec_)
      (b, (labelledAt s c j u.slot f b).map fun q => (q.1, elementLabels b.rec_ word q.2))
    let best := marked.foldl (fun (m : Option (Nat × Int)) x =>
      let k := x.2.length
      if k = 0 ∨ m.elim false (fun y => decide (k ≤ y.1)) then m else some (k, (x.1.rec_.fig.map LinkFig.sinrEff).getD 0)) none
    let at_ := fun (k l : Nat) => (marked.findSome? fun x => (x.2.find? fun q => q.1 = (k, l)).map Prod.snd).getD []
    let labels := (List.range 14).flatMap fun l => (List.range (e + 2 * c.guard_)).flatMap fun x =>
      labelWord (if f * e + x < c.guard_ then [] else at_ (f * e + x - c.guard_) l)
    let staged : Staged :=
      { entry := entry, n := n
        data := sumNat (here.map fun b => (b.elements.filter fun q => inCentre e f q.1.1).length)
        labelled := sumNat (marked.map fun x => x.2.length)
        sinr := best.elim 0 Prod.snd
        pdus := marked.map fun x =>
          { index := x.1.rec_.index, pdu := x.1.rec_.pdu, passed := x.1.rec_.passed.getD false
            bits := x.2.flatMap fun q => q.2.map fun v => v.2.2 }
        labels := labels }
    let s := here.foldl (fun s b => match b.offset with
      | some o => hbmWrite s c.part (base + 0x101000 + o) (bytes b.rec_)
      | none => s) s
    let records := (here.take 32).flatMap fun b =>
      padTo 64 (Config.stagingRecord b.rec_.pdu (b.rec_.passed.getD false) ((b.rec_.fig.map LinkFig.sinrEff).getD 0) b.offset.isNone)
    let s := hbmWrite s c.part base (leBytes 8 0 ++ leBytes 4 n ++ leBytes 1 f ++ leBytes 1 0
      ++ leBytes 2 (marked.filter fun x => !x.2.isEmpty).length ++ leBytes 8 0 ++ leBytes 40 0 ++ padTo 4032 records)
    updAdapt s ci fun a => { a with staged := a.staged.filter (fun x => x.entry ≠ entry) ++ [staged] }

/-- Live PDUs of a slot whose CRC is known: the baseline of an evaluation, and the learned PDUs of the live-failure test (R261,
R265). -/
def countLive (s : State) (ci : Nat) (c : Cell) (u : UlSlot) : State :=
  let a := getAdapt s ci
  let failed := fun (r : UlRec) => decide (r.passed = some false)
  let s := if a.phase = phEvaluating then
      match slotWith s c 1 with
      | some k =>
        let el := u.recs.filter fun r => eligible s c k r.pdu
        updAdapt s ci fun a => { a with livePdus := a.livePdus + el.length, liveFails := a.liveFails + (el.filter failed).length }
      | none => s
    else s
  let learned := u.recs.filter fun r => match r.fig with
    | some g => g.source ≠ 0
    | none => false
  if (slotWith s c 3).isSome ∧ a.config ≠ [] then
    updAdapt s ci fun a => { a with outcomes := a.outcomes ++ learned.map failed }
  else s

/-- LIVE_FAILURE_TRIGGER: the test of the oldest group of ROLL_WINDOW learned PDUs (R265, R267). -/
def execLiveFailureTrigger (cell : Nat) (s : State) : Out :=
  .next (
    let a := getAdapt s cell
    let w := a.f 0x38 2
    if (getCell s cell).isNone ∨ w = 0 ∨ a.outcomes.length < w then s
    else
      let fails := ((a.outcomes.take w).filter id).length
      let prob := a.phase = phProbation
      let s := updAdapt s cell fun a =>
        { a with
          outcomes := a.outcomes.drop w, tested := a.tested + w, probPdus := if prob then a.probPdus + w else a.probPdus,
          probFails := if prob then a.probFails + fails else a.probFails }
      if (a.baseline + a.f 0x3A 2) * w < fails * 65536 then rollback s cell (if prob then 1 else 4) false none (fails, w) else s)

/-! ### The switch (R246, R264, R266) -/

/-- Whether every core of a cell's uplink job has completed the FEED of the deploy blocks, the first step of its plan, in an epoch (R246). -/
def fedIn (j : Job) (e : Nat) : Bool :=
  j.insts.all fun i => decide (i.epoch = e ∧ i.phase = .running ∧ 1 ≤ i.step) && !(i.issued.any fun x => x.index = 0)

/-- LIVE_SWITCH: the tellers copy the slot's deploy blocks in epoch E - 1, once every core has fed; with too little time left, E moves to the
next epoch. -/
def execLiveSwitch (cell : Nat) (s : State) : Out :=
  .next (match (getCell s cell).bind fun c => (getJob s c.up).map fun j => (c, j), (getAdapt s cell).change with
    | some (c, j), some x =>
      let bytes := match x.slot with
        | some k => slotField s c k 0x38 4
        | none => 0
      let e := x.effect - c.firstUp
      let tooLate := decide (c.airStart (x.effect + 1) < nowNs s + 2000 + 1000 * ceilDiv bytes 32768) || j.insts.any fun i => i.hasBegun e
      if x.copied then s
      else if tooLate then updAdapt s cell fun a => { a with change := some { x with effect := x.effect + 1 } }
      else if !fedIn j (e - 1) then s
      else
        let s := match x.slot with
          | some k => makeLive s c k
          | none => s
        updAdapt s cell fun a => { a with change := some { x with copied := true } }
    | _, _ => s)

/-- The switch takes effect: slot states, mode, phase, event, completion (R264, R266, R271). -/
def switchTakes (s : State) (cell : Nat) (c : Cell) (x : LiveChange) : State :=
  let epoch := x.effect - c.firstUp
  let was := slotWith s c 3
  let s := match was with
    | some k => setSlotState s c k (if x.rollback then 0 else 4)
    | none => s
  let other := (x.slot.map fun k => 1 - k).getD 0
  let s := match x.slot with
    | some k =>
      let s := if ¬ x.rollback ∧ was.isNone ∧ slotState s c other = 4 then setSlotState s c other 0 else s
      setSlotState s c k 3
    | none => s
  let s := updCell s cell fun c => { c with learned := x.slot.isSome && (c.learned || (!x.rollback && was.isNone)) }
  let s := updAdapt s cell fun a =>
    { a with
      change := none, outcomes := [], tested := 0, probPdus := 0, probFails := 0, sums := [], probationFrom := x.effect,
      phase := if x.rollback then (if a.phase = phEvaluating ∨ a.phase = phPassed then a.phase else a.home) else phProbation }
  let k := x.slot.getD (was.getD 0)
  let s := if x.rollback then adaptEvent s cell 5 (was.getD k) x.trigger epoch (slotCrc s c k) [x.figures.1, x.figures.2]
    else adaptEvent s cell 3 k 0 epoch (slotCrc s c k) []
  match x.ticket with
  | some t => finish s t ⟨eOk, epoch % 2 ^ 32, 0, 0, 0⟩
  | none => s

/-- The processing epoch of a slot begins: a switch copied for it takes effect, one not copied moves to the next (R246). -/
def settleSwitch (s : State) (cell slot : Nat) : State :=
  match getCell s cell, (getAdapt s cell).change with
  | some c, some x =>
    if slot < x.effect then s
    else if x.copied then switchTakes s cell c x
    else updAdapt s cell fun a => { a with change := some { x with effect := slot + 1 } }
  | _, _ => s

/-- PROBATION_END (R265). -/
def execProbationEnd (cell : Nat) (s : State) : Out :=
  .next (match getCell s cell with
    | none => s
    | some c =>
      let a := getAdapt s cell
      if a.phase = phProbation ∧ a.change.isNone ∧ a.probationFrom + a.f 0x34 4 ≤ c.slotAt (nowNs s) ∧ a.f 0x38 2 ≤ a.tested then
        let k := (slotWith s c 3).getD 0
        let s := adaptEvent s cell 4 k 0 0xFFFFFFFF (slotCrc s c k) [a.probFails, a.probPdus]
        updAdapt s cell fun a =>
          { a with phase := a.home, sums := [], baseline := if a.probPdus = 0 then a.baseline else 65536 * a.probFails / a.probPdus }
      else s)

/-- EVAL_EXPIRY (R262). -/
def execEvalExpiry (cell : Nat) (s : State) : Out :=
  .next (match getCell s cell with
    | none => s
    | some c =>
      let a := getAdapt s cell
      if a.phase = phEvaluating ∧ a.evalSlot + a.f 0x2C 4 ≤ c.slotAt (nowNs s) then rejectCandidate s cell else s)

/-! ### Training rounds (R254-R256, R259) -/

/-- Records that a round draws, in order (R254). -/
def drawRecords (a : Adapt) (r : Round) : List Nat :=
  let bins := (List.range 4).filter fun b => r.frozen.any fun x => x.2 = b
  let seed := mix (a.f 0x40 8 ^^^ mix r.number)
  (List.range (a.f 0x1D 1)).flatMap fun t => (List.range (a.f 0x1C 1)).map fun b =>
    let bin := nth 0 bins (b % max 1 bins.length)
    let of_ := r.frozen.filter fun x => x.2 = bin
    let v := mix (seed ^^^ ((t + 1) * 256 + b))
    (nth (0, 0) of_ (v % max 1 of_.length)).1

/-- TRAIN_DIGEST (R259). -/
def trainDigest (s : State) (c : Cell) (a : Adapt) (r : Round) : Nat :=
  let size := max 1 (a.f 0x18 2)
  crc64 (leBytes 8 (slotCrc s c r.base)
    ++ ((drawRecords a r).flatMap fun q => leBytes 8 q ++ partBytes s c.part (a.f 0x48 8 + q % size * pageBytes + 16) 8)
    ++ (a.config.drop 6).take 50 ++ leBytes 4 s.sys.version.toNat)

/-- The slot that a round starts from: the ACTIVE one, else the one of higher GENERATION. -/
def roundBase (s : State) (c : Cell) : Option Nat :=
  match slotWith s c 3 with
  | some k => some k
  | none =>
    match (List.range 2).filter fun k => slotState s c k ≠ 0 with
    | [] => none
    | [k] => some k
    | _ => some (if slotField s c 0 0x28 4 < slotField s c 1 0x28 4 then 1 else 0)

/-- TRAINING_ROUND_START (R254); after a core failure the job is placed again first (19 R503). -/
def execTrainingRoundStart (cell : Nat) (s : State) : Out :=
  .next (match getCell s cell with
    | none => s
    | some c =>
      let a := getAdapt s cell
      let now := c.slotAt (nowNs s)
      let due : Bool := match a.lastRound with
        | some l => decide (l + a.f 0x20 4 ≤ now)
        | none => true
      match a.job, roundBase s c with
      | some h, some base =>
        if a.phase = phTraining ∧ a.enable ∧ due ∧ a.round.isNone ∧ 1 ≤ a.f 0x1A 2 ∧ a.f 0x1A 2 ≤ a.records.length
            ∧ ((getJob s h).bind Job.run).isNone then
          let r : Round :=
            { number := a.roundNumber, startNs := nowNs s, frozen := a.records.drop (a.records.length - a.f 0x1A 2), base := base }
          let placed := match getJob s h with
            | some j =>
              if j.lostCore = 1 then
                match placeFully s h j with
                | .inr _ => none
                | .inl j' => some (settleRinses (placeAgain s h j'))
              else some s
            | none => none
          match placed with
          | none => s
          | some s =>
            startInvocation (updAdapt s cell fun a => { a with round := some r, lastRound := some now, roundNumber := a.roundNumber + 1 })
              h none true
        else s
      | _, _ => s)

/-- A BF16 code that is a NaN or an infinity. -/
def bf16Special : List Byte → Bool
  | lo :: hi :: l => (decide (((lo.toNat + 256 * hi.toNat) / 128) % 256 = 255)) || bf16Special l
  | _ => false

/-- The optimiser's state: weights and the two moments (R254). -/
structure Moments where
  w : List Rat
  m : List Rat
  v : List Rat
  deriving DecidableEq, Repr

/-- BF16 weights as numbers. -/
def bf16Values : List Byte → List Rat
  | lo :: hi :: l => ratOfF32 ((lo.toNat + 256 * hi.toNat) * 65536) :: bf16Values l
  | _ => []

/-- Adds the gradients of a batch's records, in ascending order, in F32. -/
def batchGradient (w : List Rat) (pages : List (List Byte)) : List Rat :=
  pages.foldl (fun g p => let r := Config.recordGradient w p; w.zipIdx.map fun x => Config.trainRound 1 0 x.2 (nth 0 g x.2 + nth 0 r x.2)) []

/-- Optimiser step t: m, v and w, each written with stochastic rounding (R254). -/
def Moments.update (o : Moments) (lrExp t : Nat) (g : List Rat) : Moments :=
  let m := o.w.zipIdx.map fun x => Config.trainRound 2 t x.2 (9 / 10 * nth 0 o.m x.2 + 1 / 10 * nth 0 g x.2)
  let v := o.w.zipIdx.map fun x => Config.trainRound 3 t x.2 (999 / 1000 * nth 0 o.v x.2 + 1 / 1000 * (nth 0 g x.2 * nth 0 g x.2))
  let w := o.w.zipIdx.map fun x =>
    Config.trainRound 4 t x.2 (x.1 - 1 / (2 ^ lrExp : Nat) * (nth 0 m x.2 / (1 - (9 / 10) ^ t))
      / (Config.sqrt (nth 0 v x.2 / (1 - (999 / 1000) ^ t)) + 1 / (2 ^ 20 : Nat)))
  { w := w, m := m, v := v }

/-- The master weights that a round ends with: STEPS optimiser steps from those of its base slot (R254). -/
def trainedWeights (s : State) (c : Cell) (a : Adapt) (r : Round) : List Byte :=
  let size := max 1 (a.f 0x18 2)
  let batch := a.f 0x1C 1
  let draws := drawRecords a r
  let page := fun (q : Nat) => partBytes s c.part (a.f 0x48 8 + q % size * pageBytes) pageBytes
  let o := (List.range (a.f 0x1D 1)).foldl (fun (o : Moments) t =>
    o.update (a.f 0x1E 1) (t + 1) (batchGradient o.w (((draws.drop (t * batch)).take batch).map page)))
    { w := bf16Values (masterOf s c r.base), m := [], v := [] }
  o.w.flatMap fun x => leBytes 2 (Config.bf16Code x)

/-- ROUND_END: the round's weights go into the slot that is not live (R255). -/
def execRoundEnd (cell : Nat) (s : State) : Out :=
  .next (match getCell s cell, (getAdapt s cell).round, (getAdapt s cell).job with
    | some c, some r, some h =>
      let a := getAdapt s cell
      let w := trainedWeights s c a r
      let s := endInvocation s h eOk none
      let s := updAdapt s cell fun a => { a with round := none }
      let k := 1 - ((slotWith s c 3).getD r.base)
      if bf16Special w then adaptEvent s cell 7 k 0 0xFFFFFFFF 0 []
      else
        let s := writeSlotImage s c k (slotField s c r.base 6 1) (slotField s c r.base 7 1) (slotField s c r.base 8 1) w
          (slotCrc s c r.base) (trainDigest s c a r) (slotField s c r.base 0x28 4 + 1) (a.f 0x1D 1 * a.f 0x1C 1)
        let s := updAdapt s cell fun a =>
          { a with rounds := satAdd 32 a.rounds 1, phase := phEvaluating, sums := [], livePdus := 0, liveFails := 0, evalSlot := c.slotAt (nowNs s) }
        adaptEvent s cell 6 k 0 0xFFFFFFFF (slotCrc s c k) []
    | _, _, _ => s)

/-- A round is abandoned: no slot is written (R256). -/
def abandonRound (s : State) (ci : Nat) : State :=
  let a := getAdapt s ci
  match a.round with
  | none => s
  | some _ =>
    let s := match a.job with
      | some h => abortRun s h eAborted none []
      | none => s
    adaptEvent (updAdapt s ci fun a => { a with round := none }) ci 8 0 0 0xFFFFFFFF 0 []

/-- Rounds whose invocation has ended abnormally are abandoned (R256). -/
def settleRounds (s : State) : State :=
  s.radio.adapts.foldl (fun s e =>
    match e.2.round, e.2.job.bind (getJob s) with
    | some _, some j =>
      match j.run with
      | some r => if r.ending then abandonRound s e.1 else s
      | none => abandonRound s e.1
    | _, _ => s) s

/-- ROUND_TIMEOUT (R256). -/
def execRoundTimeout (cell : Nat) (s : State) : Out :=
  .next (match (getAdapt s cell).round with
    | some r => if r.startNs + (getAdapt s cell).f 0x24 4 * 1000000 ≤ nowNs s then abandonRound s cell else s
    | none => s)

/-! ### The ADAPT commands (R268-R272) -/

/-- Why TRAIN_PARTITION does not take an adaptation job (R253): no such partition, or best-effort jobs not allowed, as for a JOB_LOAD; no
LDPC encoder (DEDUCED, log 103). -/
def trainLack (s : State) (p : Nat) : Option Done :=
  match getPart s p with
  | none => some (Done.of eTenant)
  | some q => if !q.allowBe then some (Done.of eTenant) else if q.le.isEmpty then some ⟨eNofit, 0xFFFF000A, 1, 0, 0⟩ else none

/-- The adaptation job of a cell is placed in TRAIN_PARTITION (R253): none, or the refusal. -/
def loadAdapt (s : State) (ci : Nat) (config : List Byte) (owner : Source) : State × Option Done :=
  match trainLack s (bodyField config 0x14 1) with
  | some d => (s, some d)
  | none =>
  let j := newJob (bodyField config 0x14 1) owner (.adapt ci) (cellAdaptImage config) 0 0 0 0 0
  match placeFully s 0 j with
  | .inr d => (s, some d)
  | .inl j =>
    let h := s.work.nextJob
    let s := updWork s fun w => { w with nextJob := h + 1, jobs := Tbl.put w.jobs h j }
    let s := startRinse s j.segParts .other
    (updAdapt s ci fun a => { a with job := some h }, none)

/-- What CELL_START does with a cell's adaptation (R274). -/
def adaptCellStarts (s : State) (ci : Nat) : State :=
  match getCell s ci with
  | none => s
  | some c =>
    let s := match slotWith s c 3 with
      | some k => makeLive s c k
      | none => updCell s ci fun c => { c with learned := false }
    let a := getAdapt s ci
    let s := if a.config = [] then s else (loadAdapt s ci a.config a.owner).1
    let now := c.slotAt (nowNs s)
    let s := match slotWith s c 2 with
      | some k => setSlotState s c k 1
      | none => s
    updAdapt s ci fun a =>
      { a with
        phase := if a.phase = phEvaluating ∨ a.phase = phPassed then phEvaluating else a.phase
        evalSlot := now, probationFrom := now }

/-- Field ranges of SET (R268). -/
def setFieldsOk (c : Ctx) : Bool :=
  let within := fun (off n lo hi : Nat) => decide (lo ≤ c.f off n) && decide (c.f off n ≤ hi)
  decide (c.f 0x13 1 < 8) && within 0x14 1 0 7 && c.zero 0x15 0x16 && within 0x16 2 1 1024 && within 0x18 2 64 4096
    && within 0x1A 2 32 (c.f 0x18 2 - 32) && within 0x1C 1 1 64 && within 0x1D 1 1 128 && within 0x1E 1 6 20 && c.zero 0x1F 0x20
    && within 0x20 4 0 10000000 && within 0x24 4 10 60000 && within 0x28 4 256 1048576 && within 0x2C 4 1000 10000000
    && within 0x30 2 0 16384 && within 0x32 2 1 65535 && within 0x34 4 1000 10000000 && within 0x38 2 100 10000
    && within 0x3A 2 1 16384 && within 0x3C 1 1 16 && c.zero 0x3D 0x40 && aligned (c.f 0x48 8) pageBytes && c.zero 0x58 0x60

/-- Whether a caller may adapt a cell (R272): bound to the cell's partition or to TRAIN_PARTITION. -/
def mayAdapt (s : State) (src : Source) (cell : Option Cell) (train : Option Nat) : Bool :=
  isRoot src || (match cell with
    | some c => srcPart s src = some c.part
    | none => true) || (match train with
    | some p => srcPart s src = some p
    | none => false)

/-- SET. -/
def carrySet : Carry := fun c s =>
  let ci := c.f 0x10 1
  let cell := getCell s ci
  let a := getAdapt s ci
  let ledger : Bool := match cell.bind fun k => getPart s k.part with
    | some q => q.holds (c.f 0x48 8) (c.f 0x18 2 * pageBytes)
    | none => true
  let calm := a.phase = phOff ∨ a.phase = phTraining
  whenOk s (c.checks s (setFieldsOk c && decide (ci ≤ 47)) (mayAdapt s c.m.src cell (some (c.f 0x14 1)) && ledger) false true
      [(cell.isSome && decide calm, eState)])
    (match cell with
      | none => refuse s eState
      | some k =>
        let changed : Bool := a.job.isNone || decide ((a.config.drop 0xC).take 3 ≠ (c.m.body.drop 0xC).take 3)
          || decide (a.f 0x40 8 ≠ c.f 0x40 8) || decide (a.f 0x3C 1 ≠ c.f 0x3C 1) || decide (a.f 0x14 1 ≠ c.f 0x14 1)
        let s' := if changed then
            (match a.job with
              | some h => updAdapt (dropAborted (abandonRound s ci) h []) ci fun a => { a with job := none }
              | none => s)
          else s
        let s' := if changed ∧ a.config ≠ [] then updAdapt s' ci fun a => { a with records := [] } else s'
        match (if changed then loadAdapt s' ci c.m.body c.m.src else (s', none)) with
        | (s', some d) => (s', some d)
        | (s', none) =>
          let fl := c.f 0x13 1
          let s' := updAdapt s' ci fun a =>
            { a with config := c.m.body, owner := c.m.src, enable := bit fl 0, auto := bit fl 1, phase := if bit fl 0 then phTraining else phOff }
          let s' := if ¬ bit fl 0 then abandonRound s' ci else s'
          (updCell s' ci fun x => { x with learned := bit fl 2 && (slotWith s' k 3).isSome }, some (Done.of eOk)))

/-- Header checks of a LOAD_SLOT image (R272). -/
def slotImageOk (img : List Byte) : Bool :=
  decide (imgLe img 0 4 = 0x57585243) && decide (imgLe img 4 2 = 1) && decide (imgLe img 0x0A 2 = Config.arch.toNat)
    && decide (imgLe img 0x0C 4 = Config.masterBytes) && decide (1 ≤ imgByte img 6 ∧ imgByte img 6 ≤ 32)
    && decide (1 ≤ imgByte img 7 ∧ imgByte img 7 ≤ 4) && decide (imgByte img 8 ∈ [2, 4, 6, 8])

/-- LOAD_SLOT. -/
def carryLoadSlot : Carry := fun c s =>
  let ci := c.f 0x10 1
  let k := c.f 0x12 1
  let cell := getCell s ci
  let a := getAdapt s ci
  let addr := c.f 0x50 8
  let len := 0x100 + Config.masterBytes
  let inside : Bool := match cell.bind fun k => getPart s k.part with
    | some q => q.holds addr len
    | none => true
  let img := match cell with
    | some x => partBytes s x.part addr len
    | none => []
  let imageOk : Bool := cell.isNone || !inside || slotImageOk img
  let busy : Bool := match cell with
    | some x => a.phase = phPassed || a.phase = phProbation || slotState s x k = 3
    | none => true
  let w := img.drop 0x100
  whenOk s (c.checks s (decide (ci ≤ 47) && decide (k ≤ 1) && aligned addr 64 && imageOk) (mayAdapt s c.m.src cell none && inside) false true
      [(cell.isSome && !busy, eState), (decide (crc64 w = imgLe img 0x10 8) && !bf16Special w, eFault)])
    (match cell with
      | none => refuse s eState
      | some x =>
        let s := abandonRound s ci
        let s := if a.phase = phEvaluating ∧ slotState s x k ≠ 1 then
            (match slotWith s x 1 with
              | some o => setSlotState s x o 0
              | none => s)
          else s
        let s := writeSlotImage s x k (imgByte img 6) (imgByte img 7) (imgByte img 8) w 0 0 0 0
        (updAdapt s ci fun a =>
          { a with phase := phEvaluating, sums := [], livePdus := 0, liveFails := 0, evalSlot := x.slotAt (nowNs s) }, some (Done.of eOk)))

/-- CLEAR_SLOT. -/
def carryClearSlot : Carry := fun c s =>
  let ci := c.f 0x10 1
  let k := c.f 0x12 1
  let cell := getCell s ci
  let a := getAdapt s ci
  let busy : Bool := match cell with
    | some x => a.phase = phPassed || a.phase = phProbation || slotState s x k = 3
    | none => true
  whenOk s (c.checks s (decide (ci ≤ 47) && decide (k ≤ 1)) (mayAdapt s c.m.src cell none) false true [(cell.isSome && !busy, eState)])
    (match cell with
      | none => refuse s eState
      | some x =>
        (if a.phase = phEvaluating ∧ slotState s x k = 1 then rejectCandidate s ci else setSlotState s x k 0, some (Done.of eOk)))

/-- QUERY (R270). -/
def carryAdaptQuery : Carry := fun c s =>
  let ci := c.f 0x10 1
  let cell := getCell s ci
  let a := getAdapt s ci
  whenOk s (c.checks s (decide (ci ≤ 47)) (mayAdapt s c.m.src cell none) false true [(cell.isSome, eState)])
    (match cell with
      | none => refuse s eState
      | some x =>
        (s, some ⟨eOk, a.phase + 256 * slotState s x 0 + 65536 * slotState s x 1 + 16777216 * b2n x.learned, a.sums.length, a.records.length,
          min a.rounds (2 ^ 32 - 1)⟩))

/-- ADAPT_CONFIG with any ACTION. -/
def carryAdapt : Carry := fun c s =>
  match c.f 0x11 1 with
  | 0 => carrySet c s
  | 1 => carryLoadSlot c s
  | 2 => carryClearSlot c s
  | 3 => carryAdaptQuery c s
  | _ => refuse s eVersion

/-- ACTION of an ADAPT_CONFIG message. -/
def adaptAction (m : Msg) : Nat := bodyField m.body 0x11 1

def execAdaptConfig (m : Msg) (s : State) : Out :=
  if adaptAction m ∈ [1, 2, 3] then .next s else runCommand 0x0A00 0x104 96 carryAdapt m s
def execLoadSlot (m : Msg) (s : State) : Out :=
  if adaptAction m = 1 then runCommand 0x0A00 0x104 96 carryAdapt m s else .next s
def execClearSlot (m : Msg) (s : State) : Out :=
  if adaptAction m = 2 then runCommand 0x0A00 0x104 96 carryAdapt m s else .next s
def execAdaptQuery (m : Msg) (s : State) : Out :=
  if adaptAction m = 3 then runCommand 0x0A00 0x104 96 carryAdapt m s else .next s

/-- ADAPT_PROMOTE (R271). -/
def carryPromote : Carry := fun c s =>
  let ci := c.f 0x10 1
  let cell := getCell s ci
  whenOk s (c.checks s (decide (ci ≤ 47) && decide (c.f 0x11 1 = 0) && c.zero 0x12 0x18) (mayAdapt s c.m.src cell none) false true
      [(cell.isSome && decide ((getAdapt s ci).phase = phPassed), eState)])
    (promote s ci (some c.tid), none)

def execAdaptPromote (m : Msg) (s : State) : Out := runCommand 0x0A01 0x104 24 carryPromote m s

/-- ADAPT_ROLLBACK (R271). -/
def carryRollback : Carry := fun c s =>
  let ci := c.f 0x10 1
  let cell := getCell s ci
  let a := getAdapt s ci
  let active : Bool := match cell with
    | some x => (slotWith s x 3).isSome
    | none => false
  let candidate := a.phase = phEvaluating ∨ a.phase = phPassed
  whenOk s (c.checks s (decide (ci ≤ 47) && decide (c.f 0x11 1 < 2) && c.zero 0x12 0x18) (mayAdapt s c.m.src cell none) false true
      [(cell.isSome && (decide (a.phase = phProbation) || decide candidate || active), eState)])
    (if candidate then (rejectCandidate s ci, some ⟨eOk, 0xFFFFFFFF, 0, 0, 0⟩)
     else (rollback s ci 3 (bit (c.f 0x11 1) 0) (some c.tid) (0, 0), none))

def execAdaptRollback (m : Msg) (s : State) : Out := runCommand 0x0A02 0x104 24 carryRollback m s

end Sys2Proof.Machine
end

