-- ==== Sys2Proof/Machine/Failures.lean ====
section
/-! DEFINITION. Failure of a core or of a coding-cluster engine, and the mend map (19 R502-R504; 09 R242; 13 R334, R353). -/

namespace Sys2Proof.Machine

/-- CLASS of a log entry (19 R514). -/
def clsUncorrected : Nat := 2
def clsUnitFailed : Nat := 3
def clsMend : Nat := 8

/-- A unit leaves every partition shape; the smoothing mode and what was nominated at creation stay (13 R333, R334). -/
def leaveShapes (s : State) (u : UnitId) : State :=
  updWork s fun w => { w with parts := w.parts.map fun e =>
    (e.1, match u.kind with
      | 0 =>
        { e.2 with
          owned := e.2.owned.filter (· ≠ u.index), borrowed := e.2.borrowed.filter (· ≠ u.index)
          exactCores := e.2.exactCores.filter (· ≠ u.index) }
      | 1 => { e.2 with ld := e.2.ld.filter (· ≠ u.index) }
      | 2 => { e.2 with pl := e.2.pl.filter (· ≠ u.index) }
      | _ => { e.2 with le := e.2.le.filter (· ≠ u.index) }) }

/-- DEVICE_EVENT KIND 3 and the MEND entry of the log (19 R504, R514). -/
def mendChanged (s : State) (u : UnitId) (pending : Bool) (action : Nat) : State :=
  let n := enabledCount s
  sendDeviceEvent (log s clsMend u.kind u.index (b2n pending + 256 * n) 0xFF action) 3 u.kind u.index n

/-- A unit that has failed joins the mend map: the field map, to be written within 200 ms, or the volatile map (19 R504). -/
def joinMendMap (s : State) (u : UnitId) : State :=
  if u ∈ mendMap s then s
  else
    let short := u.kind = 0 ∧ enabledCount s ≤ orderable s
    let full := 32 ≤ (fieldMap s).length + s.rel.mapPending.length
    let s := updRel s fun r =>
      if short then { r with volatile := r.volatile ++ [u], pendingUnits := r.pendingUnits ++ [u] }
      else if full then { r with volatile := r.volatile ++ [u] }
      else { r with mapPending := r.mapPending ++ [u] }
    mendChanged (leaveShapes s u) u (decide short) 3

/-- The island of a core goes down: units stopped, segments OFF, contents lost (19 R503). -/
def islandDown (s : State) (c : Nat) : State :=
  let s := dropDebug s c
  let s := { s with engines := Tbl.del s.engines c }
  let s := updCore s c fun _ => CoreCtl.reset
  updWork s fun w => { w with rinses := w.rinses.map fun r => { r with cores := r.cores.filter (· ≠ c) } }

/-- Jobs that satisfy a test lose a unit: cells stop, other invocations abort, jobs are placed again later (19 R503, 09 R242). -/
def loseJobs (s : State) (hit : Job → Bool) (reason object : Nat) (lost : List Nat) : State :=
  let js := s.work.jobs.filter fun e => hit e.2
  js.foldl (fun s e =>
    match e.2.cell with
    | some ci => stopCell s ci reason object lost
    | none => updJob (abortRun s e.1 eAborted none lost) e.1 fun j => { j with lostCore := if j.lostCore = 2 then 2 else 1 }) s

/-- A core fails (19 R502, R503). -/
def coreFails (s : State) (c : Nat) : State :=
  if disabled s 0 c then s
  else
    let s := settleRinses (islandDown s c)
    let s := log s clsUnitFailed 0 c 0 0xFF 3
    let s := loseJobs s (fun j => (j.instOn c).isSome) 1 c [c]
    let s := sendDeviceEvent s 1 0 c (enabledCount s)
    let s := joinMendMap s ⟨0, c⟩
    settleServices (settleRounds s)

/-- A coding-cluster engine fails: KIND 1 LD, 2 PL, 3 LE (09 R242, 19 R502). -/
def engineFails (s : State) (kind index : Nat) : State :=
  if disabled s kind index then s
  else
    let s := log s clsUnitFailed kind index 0 0xFF 3
    let s := loseJobs s (fun j => j.windows.any fun w => decide (w.1 = kind ∧ w.2.1 = index)) 2 (kind * 4096 + index) []
    let s := sendDeviceEvent s 2 kind index (enabledCount s)
    settleServices (settleRounds (joinMendMap s ⟨kind, index⟩))

/-- A corrected error of a memory: it is logged, and nothing else changes (19 R498, R515). `kind`: memory in R498 table order. -/
def correctedError (s : State) (unitKind unit kind address part : Nat) : State :=
  let s := log s 1 unitKind unit (address % 2 ^ 48 + kind * 2 ^ 48) part 1
  if unitKind ≠ 0 then s
  else
    let old := (Tbl.get [] s.rel.corrected unit).filter fun t => decide (nowNs s < t + 86400000000000)
    let s := updRel s fun r => { r with corrected := Tbl.set [] r.corrected unit (old ++ [nowNs s]) }
    if old.length = 4096 then log s 9 0 unit 0 0xFF 0 else s

/-- Result words of a TABLE_ECC fault without a stream and page: RESULT0 with CAUSE 7, RESULT1, RESULT2 (R498). -/
def tableEccWords (core : Nat) : Nat × Nat × Nat := (7 + 0xFFFF * 65536, 0xFFFFFFFF, core + 0xFF * 256)

/-- What follows an invocation that has just ended abnormally, or has begun to: its cell stops, its service or its training round ends
(08 R217, 09 R242, 10 R256, 11 R302). -/
def settleAborts (s : State) (h : Nat) : State :=
  match getJob s h with
  | none => s
  | some j =>
    match j.run with
    | none => settleServices (settleRounds s)
    | some r =>
      if ¬ r.ending then s
      else
        match j.cell with
        | some ci => stopCell s ci 3 0 []
        | none => settleServices (settleRounds (settleRinses s))

/-- Ends an invocation abnormally, and what follows. -/
def endBadly (s : State) (h status : Nat) (words : Option (Nat × Nat × Nat)) : State :=
  settleAborts (abortInvocation s h status words []) h

/-- An invocation meets a memory fault, and what follows where no rinse is waited for: cells stop (12 R328, 09 R242). -/
def faultJob (s : State) (h cause stream page core segment : Nat) : State :=
  settleAborts (memoryFault s h cause stream page core segment) h

end Sys2Proof.Machine
end

