-- ==== Sys2Proof/Machine/Ingest.lean ====
section
/-! DEFINITION. INGEST: the fronthaul frames that it accepts, the grid and PRACH tiles that it writes, rows and their posts, of a cell and of
an image that host software loaded (08 R186-R195; 04 R101; 07 R169-R171). -/

namespace Sys2Proof.Machine

/-! ### The stations that receive (08 R186, R188) -/

/-- What INGEST works with at a station: its job and record, the slot of its first tiles, the last slot that it accepts, the PRACH
occasions of slots with the tiles before them, and what it holds. -/
structure Ing where
  job : Nat
  station : Nat
  port : Nat
  vlan : Nat
  mu : Nat
  nRb : Nat
  guard_ : Nat
  planes : Nat
  prachPlanes : Nat
  alpha : Nat
  beta : Int
  first : Nat
  last : Option Nat
  prach : List (Nat × Nat × List (Nat × Nat × Bool))
  rx : List EaxcRx
  rxSlots : List RxSlot
  deriving DecidableEq, Repr

/-- The eAxC entries of a record at reset counters (08 R186, R195). -/
def rxOfRecord (img : List Byte) (st : Nat) : List EaxcRx :=
  (List.range (paramField img st 8 1 + paramField img st 9 1)).map fun k =>
    { id := paramField img st (64 + 8 * k) 2, filter := paramField img st (66 + 8 * k) 1, lastSeq := none, ok := 0, early := 0, late := 0,
      dup := 0, bad := 0, gap := 0, missing := 0 }

/-- A station of a running job that host software loaded. No UL_TTI.request reaches it, so that it has no PRACH occasion; its first tiles
are those of the slot that ends as epoch 0 becomes due (08 R185; log 99). -/
def hostIng (h st : Nat) (j : Job) (r : Invocation) : Ing :=
  let f := paramField j.image st
  let held := r.ingests.find? fun x => x.station = st
  let first := slotOnAir (f 1 1) (f 0x14 4) (alignedAt r.start j.period j.phase) - 1
  { job := h, station := st, port := f 0 1, vlan := f 4 2 % 4096, mu := f 1 1, nRb := f 2 2, guard_ := f 6 1, planes := f 8 1,
    prachPlanes := f 9 1, alpha := f 0x14 4, beta := signed 8 (f 0x18 1), first := first, last := r.last.map fun e => first + e, prach := [],
    rx := held.elim (rxOfRecord j.image st) (·.rx), rxSlots := held.elim [] (·.rxSlots) }

/-- The station of a cell whose jobs run. -/
def cellIng (c : Cell) (j : Job) : Ing :=
  { job := c.up, station := (stationOf j.image 0x1).getD 0, port := c.port, vlan := c.vlan, mu := c.mu, nRb := c.nRb, guard_ := c.guard_,
    planes := c.planes, prachPlanes := c.prachPlanes, alpha := c.alpha, beta := c.beta, first := c.firstUp, last := c.stopping.map Prod.snd,
    prach := c.ul.map fun u => (u.slot, u.prachBase, u.prach), rx := c.rx, rxSlots := c.rxSlots }

/-- What INGEST works with at a station; none while its job does not run. -/
def getIng (s : State) : IngRef → Option Ing
  | .cell ci =>
    match getCell s ci with
    | none => none
    | some c => (getJob s c.up).bind fun j => if j.run.isSome then some (cellIng c j) else none
  | .station h st =>
    match getJob s h with
    | none => none
    | some j => j.run.bind fun r =>
      if j.kind = .host ∧ st < stationCount j.image ∧ stationKind j.image st = 1 then some (hostIng h st j r) else none

/-- Keeps what INGEST holds at a station. -/
def putIng (s : State) (g : Ing) : IngRef → State
  | .cell ci => updCell s ci fun c => { c with rx := g.rx, rxSlots := g.rxSlots }
  | .station h st =>
    updRun s h fun r =>
      { r with ingests := r.ingests.filter (fun x => x.station ≠ st) ++ [{ station := st, rx := g.rx, rxSlots := g.rxSlots }] }

/-- Changes what INGEST holds at a station. -/
def updIng (s : State) (r : IngRef) (f : Ing → Ing) : State :=
  match getIng s r with
  | some g => putIng s (f g) r
  | none => s

/-- The stations that receive. -/
def ingestRefs (s : State) : List IngRef :=
  (s.radio.cells.map fun e => IngRef.cell e.1)
    ++ (s.work.jobs.filter fun e => e.2.kind = .host).flatMap fun e =>
      ((List.range (stationCount e.2.image)).filter fun st => stationKind e.2.image st = 1).map fun st => IngRef.station e.1 st

/-- A field of the INGEST parameter record of the station (08 R186). -/
def Ing.field (g : Ing) (s : State) (off n : Nat) : Nat :=
  match getJob s g.job with
  | some j => paramField j.image g.station off n
  | none => 0

/-- Resource blocks that a PRACH tile holds: sequence length 839 or 139 (R194). -/
def prachRbs (long : Bool) : Nat := if long then 70 else 12

/-- The last symbol of a PRACH occasion: of a long preamble the slot's last (log 70). -/
def prachEnd (o : Nat × Nat × Bool) : Nat := if o.2.2 then 13 else min 13 (o.2.1 + o.1 - 1)

/-- The occasion of a slot that a symbol belongs to. -/
def occasionAt (os : List (Nat × Nat × Bool)) (sym : Nat) : Option (Nat × (Nat × Nat × Bool)) :=
  (os.zipIdx.find? fun e => e.1.2.1 ≤ sym ∧ sym < e.1.2.1 + e.1.1).map fun e => (e.2, e.1)

/-- The PRACH occasion of a slot that a symbol belongs to, with its tile. -/
def Ing.occasion (g : Ing) (slot sym : Nat) : Option (Nat × (Nat × Nat × Bool)) :=
  (g.prach.find? fun e => e.1 = slot).bind fun e => (occasionAt e.2.2 sym).map fun o => (e.2.1 + o.1, o.2)

def Ing.slotOf (g : Ing) (slot : Nat) : RxSlot :=
  (g.rxSlots.find? fun r => r.slot = slot).getD { slot := slot, written := [], closed := 0, posted := [], prachPosted := 0 }
def Ing.putSlot (g : Ing) (r : RxSlot) : Ing := { g with rxSlots := g.rxSlots.filter (fun x => x.slot ≠ r.slot) ++ [r] }
def Ing.updEntry (g : Ing) (a : Nat) (f : EaxcRx → EaxcRx) : Ing := { g with rx := modNth g.rx a f }

/-- Whether the station takes frames of a slot, and closes its symbols: not before its first, not after its last (R217). -/
def Ing.takes (g : Ing) (slot : Nat) : Bool := decide (g.first ≤ slot) && g.last.all fun n => decide (slot ≤ n)

/-- Key of a resource block of a plane and symbol; PRACH planes follow from 64 on. -/
def rbKey (plane sym rb : Nat) : Nat := (plane * 14 + sym) * 512 + rb

/-! ### Frames (08 R188-R190, 04 R101) -/

/-- Big-endian value of bytes of a frame. -/
def beAt (p : List Byte) (off n : Nat) : Nat := leNat ((p.drop off).take n).reverse

/-- Mantissa k of w bits of a compressed resource block. -/
def mantissa (w : Nat) (bs : List Byte) (k : Nat) : Int := signed w (beNat bs / 2 ^ (8 * bs.length - w * (k + 1)) % 2 ^ w)

/-- The 24 codes of a resource block: `bfp`: compressed with width w (04 R101), otherwise 16-bit codes. -/
def rbCodes (bfp : Bool) (w : Nat) (bs : List Byte) : List Int :=
  if bfp then
    let e := imgLe bs 0 1 % 16
    (List.range 24).map fun k => clampInt (-32768) 32767 (mantissa w (bs.drop 1) k * 2 ^ e)
  else (List.range 24).map fun k => mantissa 16 bs k

/-- Bytes of a resource block. -/
def rbBytes (bfp : Bool) (w : Nat) : Nat := if bfp then 1 + 3 * w else 48

/-- A section: its first resource block, their number, compression, data. -/
structure Section where
  start : Nat
  count : Nat
  bfp : Bool
  width : Nat
  data : List Byte
  deriving DecidableEq, Repr

/-- The section at the head of what is left of a frame, and what follows it; none when it fails check 5 (R188). -/
def parseSection (comp nRb : Nat) (p : List Byte) : Option (Section × List Byte) :=
  if p.length < 4 then none
  else
    let w := beAt p 0 4
    let method := bits comp 5 4
    let hdr := imgLe p 4 1
    let own : Option (Bool × Nat) :=
      if method = 2 then
        let iq := hdr / 16
        if hdr % 16 = 0 ∧ iq = 0 then some (false, 16)
        else if hdr % 16 = 1 ∧ (iq = 0 ∨ 6 ≤ iq) then some (true, if iq = 0 then 16 else iq)
        else none
      else if method = 1 then some (true, if comp % 16 = 0 then 16 else comp % 16)
      else some (false, 16)
    let start := bits w 17 8
    let num := w % 256
    let n := if num = 0 then nRb else num
    match own with
    | none => none
    | some (bfp, width) =>
      let off := if method = 2 then 6 else 4
      let len := n * rbBytes bfp width
      if bit w 19 ∨ bit w 18 ∨ nRb < start + n ∨ num = 0 ∧ start ≠ 0 ∨ p.length < off + len then none
      else some ({ start := start, count := n, bfp := bfp, width := width, data := (p.drop off).take len }, p.drop (off + len))

/-- The sections of a frame, up to the first that fails; whether one failed (R188). -/
def parseSections (comp nRb : Nat) : Nat → List Byte → List Section × Bool
  | 0, _ => ([], false)
  | k + 1, p =>
    if p = [] then ([], false)
    else
      match parseSection comp nRb p with
      | none => ([], true)
      | some (x, rest) =>
        let r := parseSections comp nRb k rest
        (x :: r.1, r.2)

/-- A CQ15 element. -/
def cq15Word (re im : Int) : Nat := unsigned 16 re + 65536 * unsigned 16 im

/-- Writes the twelve elements of a resource block to every block of the grid whose tile holds them (R190; 07 R169, R171). -/
def writeGridRb (s : State) (g : Ing) (j : Job) (slot plane sym rb : Nat) (codes : List Int) : State :=
  let (f, e) := gridBlocks g.nRb g.guard_
  let st := g.field s 0x1A 2
  (List.range f).foldl (fun s b =>
    onTile s j (st + b) (slot - g.first) fun a m =>
      (List.range 12).foldl (fun m i =>
        let x : Int := (12 * rb + i : Nat) - (b * e : Nat) + (g.guard_ : Nat)
        if 0 ≤ x ∧ x < ((e + 2 * g.guard_ : Nat) : Int) then
          Mem.writeLe m ((streamTile j.image (st + b)).at a plane sym x.toNat 4) 4 (cq15Word (nth 0 codes (2 * i)) (nth 0 codes (2 * i + 1)))
        else m) m) s

/-- Writes a resource block of a PRACH occasion: elements beyond the sequence are 0; blocks beyond the tile have no element (R194). -/
def writePrachRb (s : State) (g : Ing) (j : Job) (tile plane row rb : Nat) (long : Bool) (codes : List Int) : State :=
  let st := g.field s 0x20 2
  if prachRbs long ≤ rb then s
  else
    onTile s j st tile fun a m =>
      (List.range 12).foldl (fun m i =>
        let x := 12 * rb + i
        let v := if x < (if long then 839 else 139) then cq15Word (nth 0 codes (2 * i)) (nth 0 codes (2 * i + 1)) else 0
        Mem.writeLe m ((streamTile j.image st).at a plane row x 4) 4 v) m

/-- Writes 0 to the elements of a PRACH tile's rows that no resource block holds (R194). -/
def padPrach (s : State) (g : Ing) (j : Job) (tile rows : Nat) (long : Bool) : State :=
  let st := g.field s 0x20 2
  let t := streamTile j.image st
  onTile s j st tile fun a m =>
    (List.range g.prachPlanes).foldl (fun m p =>
      (List.range rows).foldl (fun m row =>
        (List.range (t.elems - 12 * prachRbs long)).foldl (fun m x => Mem.writeLe m (t.at a p row (12 * prachRbs long + x) 4) 4 0) m) m) m

/-! ### Rows and PRACH tiles (08 R191, R192, R194) -/

/-- The resource blocks that block b of the grid holds a subcarrier of. -/
def Ing.blockRbs (g : Ing) (b : Nat) : List Nat :=
  let (_, e) := gridBlocks g.nRb g.guard_
  (List.range g.nRb).filter fun rb =>
    decide (b * e < 12 * rb + 12 + g.guard_) && decide (12 * rb < b * e + e + g.guard_)

/-- Whether row l of block b is complete in every plane. -/
def rowComplete (g : Ing) (r : RxSlot) (b l : Nat) : Bool :=
  r.closed.getLsbD l || (List.range g.planes).all fun a => (g.blockRbs b).all fun rb => Tbl.get false r.written (rbKey a l rb)

/-- Zeroes the elements of row l of block b outside the carrier, and those of blocks that did not come; writes row l of the erasure
tile (R171, R191). -/
def finishRow (s : State) (g : Ing) (j : Job) (r : RxSlot) (b l : Nat) : State :=
  let (_, e) := gridBlocks g.nRb g.guard_
  let st := g.field s 0x1A 2 + b
  let er := g.field s 0x1E 2
  let width := e + 2 * g.guard_
  let rbOf := fun (x : Nat) => ((x + b * e : Nat) : Int) - (g.guard_ : Nat)
  let missing := fun (a x : Nat) =>
    decide (rbOf x < 0) || decide (((12 * g.nRb : Nat) : Int) ≤ rbOf x) || !Tbl.get false r.written (rbKey a l ((rbOf x).toNat / 12))
  let s := onTile s j st (r.slot - g.first) fun a m =>
    (List.range g.planes).foldl (fun m p =>
      (List.range width).foldl (fun m x =>
        if missing p x then Mem.writeLe m ((streamTile j.image st).at a p l x 4) 4 0 else m) m) m
  if er = 0xFFFF then s
  else
    onTile s j (er + b) (r.slot - g.first) fun a m =>
      (List.range width).foldl (fun m x =>
        let inside := decide (0 ≤ rbOf x) && decide (rbOf x < ((12 * g.nRb : Nat) : Int))
        let v := b2n (inside && (List.range g.planes).any fun p => missing p x)
        Mem.write m ((streamTile j.image (er + b)).at a 0 l x 1) (BitVec.ofNat 8 v)) m

/-- Posts the rows of block b that are complete, in order; row 13 posts the grid and erasure tiles (R192). -/
def postBlockRows : Nat → State → IngRef → Nat → Nat → State
  | 0, s, _, _, _ => s
  | n + 1, s, ref, slot, b =>
    match getIng s ref with
    | none => s
    | some g =>
      match getJob s g.job with
      | none => s
      | some j =>
        let r := g.slotOf slot
        let l := nth 0 r.posted b
        if 14 ≤ l ∨ !rowComplete g r b l then s
        else
          let s := finishRow s g j r b l
          let src := sourceCode 2 g.port
          let s := postRecord s g.job (g.field s 0x1C 2 + b) 1 src
          let s :=
            if l = 13 then
              let s := postProduced s g.job (g.field s 0x1A 2 + b) src
              if g.field s 0x1E 2 = 0xFFFF then s else postProduced s g.job (g.field s 0x1E 2 + b) src
            else s
          let s := updIng s ref fun g =>
            let r := g.slotOf slot
            let p := (List.range (max (b + 1) r.posted.length)).map (nth 0 r.posted)
            g.putSlot { r with posted := setNth p b (l + 1) }
          postBlockRows n s ref slot b

/-- Posts the PRACH tiles of a slot that are complete or closed, in order (R194). -/
def postPrach : Nat → State → IngRef → Nat → State
  | 0, s, _, _ => s
  | n + 1, s, ref, slot =>
    match (getIng s ref).bind fun g => (getJob s g.job).bind fun j => (g.prach.find? fun e => e.1 = slot).map fun e => (g, j, e) with
    | none => s
    | some (g, j, e) =>
      let r := g.slotOf slot
      match e.2.2[r.prachPosted]? with
      | none => s
      | some o =>
        let tile := e.2.1 + r.prachPosted
        let has := fun (p row rb : Nat) => Tbl.get false r.written (rbKey (64 + p) (o.2.1 + row) rb)
        let cells := (List.range g.prachPlanes).flatMap fun p => (List.range o.1).flatMap fun row =>
          (List.range (prachRbs o.2.2)).map fun rb => (p, row, rb)
        let missing := cells.filter fun k => !has k.1 k.2.1 k.2.2
        if missing ≠ [] ∧ !r.closed.getLsbD (prachEnd o) then s
        else
          let s := missing.foldl (fun s k => writePrachRb s g j tile k.1 k.2.1 k.2.2 o.2.2 []) s
          let s := postProduced (padPrach s g j tile o.1 o.2.2) g.job (g.field s 0x20 2) (sourceCode 2 g.port)
          let s := updIng s ref fun g =>
            let g := missing.foldl (fun g k => g.updEntry (g.planes + k.1) fun x => { x with missing := satInc x.missing 1 }) g
            g.putSlot { g.slotOf slot with prachPosted := r.prachPosted + 1 }
          postPrach n s ref slot

/-- Posts what a slot's frames and closes have completed. -/
def postSlot (s : State) (ref : IngRef) (slot : Nat) : State :=
  match getIng s ref with
  | none => s
  | some g => postPrach 4 ((List.range (gridBlocks g.nRb g.guard_).1).foldl (fun s b => postBlockRows 14 s ref slot b) s) ref slot

/-! ### UPLANE_FRAME and SYMBOL_CLOSE -/

/-- Writes a resource block that is not written yet; whether it was skipped (R190). -/
def writeRb (s : State) (ref : IngRef) (slot a sym rb : Nat) (codes : List Int) : State × Bool :=
  match (getIng s ref).bind fun g => (getJob s g.job).map fun j => (g, j) with
  | none => (s, false)
  | some (g, j) =>
    let r := g.slotOf slot
    let plane := if a < g.planes then a else 64 + (a - g.planes)
    if Tbl.get false r.written (rbKey plane sym rb) ∨ (a < g.planes ∧ r.closed.getLsbD sym) then (s, true)
    else
      let s :=
        if a < g.planes then writeGridRb s g j slot a sym rb codes
        else
          match g.occasion slot sym with
          | some (tile, o) => writePrachRb s g j tile (a - g.planes) (sym - o.2.1) rb o.2.2 codes
          | none => s
      (updIng s ref fun g => g.putSlot { g.slotOf slot with written := Tbl.set false (g.slotOf slot).written (rbKey plane sym rb) true }, false)

/-- Writes the sections of an accepted frame; whether any resource block was skipped. -/
def writeSections (ref : IngRef) (slot a sym : Nat) : State → List Section → State × Bool
  | s, [] => (s, false)
  | s, x :: l =>
    let r := (List.range x.count).foldl (fun (acc : State × Bool) k =>
      let bs := (x.data.drop (k * rbBytes x.bfp x.width)).take (rbBytes x.bfp x.width)
      let w := writeRb acc.1 ref slot a sym (x.start + k) (rbCodes x.bfp x.width bs)
      (w.1, acc.2 || w.2)) (s, false)
    let q := writeSections ref slot a sym r.1 l
    (q.1, r.2 || q.2)

/-- The instant at which a symbol of an entry ends on air, in 1/96 ns: for PRACH, the occasion's last symbol (R189, R194). -/
def Ing.endOf (g : Ing) (a slot sym : Nat) : Int :=
  match (if a < g.planes then none else g.occasion slot sym) with
  | some o => symEnd g.mu g.alpha slot (prachEnd o.2)
  | none => symEnd g.mu g.alpha slot sym

/-- A frame whose checks 2 and 3 have passed: window, then sections (R188, R189). -/
def acceptFrame (s : State) (ref : IngRef) (a slot sym : Nat) (trx : Int) (p : List Byte) : State :=
  match getIng s ref with
  | none => s
  | some g =>
    if !g.takes slot then s
    else
      let e := g.endOf a slot sym * 65536
      let lo := e + (g.field s 0x0C 4 : Nat) * (96 * 65536)
      let hi := e + (g.field s 0x10 4 : Nat) * (96 * 65536)
      let t := trx * 96
      if t < lo then updIng s ref fun g => g.updEntry a fun x => { x with early := satInc x.early 1 }
      else if hi < t then updIng s ref fun g => g.updEntry a fun x => { x with late := satInc x.late 1 }
      else
        let s := updIng s ref fun g => g.updEntry a fun x => { x with ok := satInc x.ok 1 }
        let r := parseSections (g.field s 7 1) g.nRb p.length p
        let q := writeSections ref slot a sym s r.1
        let s := updIng q.1 ref fun g => g.updEntry a fun x =>
          { x with dup := if q.2 then satInc x.dup 1 else x.dup, bad := if r.2 then satInc x.bad 1 else x.bad }
        postSlot s ref slot

/-- The eCPRI and application headers are right for an entry (R188 checks 2 and 3; the E bit, R181). -/
def uplaneOk (g : Ing) (a : Nat) (p : List Byte) : Bool :=
  let b0 := imgLe p 0 1
  let size := beAt p 2 2
  let app := imgLe p 8 1
  decide (12 ≤ p.length) && decide (b0 / 16 = 1) && !bit b0 0 && decide (imgLe p 1 1 = 0)
    && (decide (size + 4 = p.length) || decide (size + 4 < p.length ∧ p.length = 42)) && bit (imgLe p 7 1) 7
    && decide (app / 128 = 0) && decide (bits app 6 4 = 1) && decide (app % 16 = ((g.rx[a]?).elim 0 fun x => x.filter))
    && decide (imgLe p 10 1 / 16 ≤ 9) && decide (beAt p 10 2 / 64 % 64 < 2 ^ g.mu) && decide (imgLe p 11 1 % 64 ≤ 13)

/-- The station that lists an eAxC identifier on a port and VLAN, and the entry's index (R188 check 1). -/
def ingestEntry (s : State) (mac vlan id : Nat) : Option (IngRef × Ing × Nat) :=
  (ingestRefs s).findSome? fun r =>
    (getIng s r).bind fun g =>
      if g.port = mac ∧ g.vlan = vlan then (g.rx.findIdx? fun x => x.id = id).map fun a => (r, g, a) else none

/-- An entry compares the sequence number of a frame with that of the one before (R188). -/
def EaxcRx.sequence (x : EaxcRx) (seq : Nat) : EaxcRx :=
  { x with
    gap := match x.lastSeq with
      | some q => if (q + 1) % 256 = seq then x.gap else satInc x.gap 1
      | none => x.gap
    lastSeq := some seq }

/-- UPLANE_FRAME. The port time-stamp is corrected to the board connector (17 R457). -/
def execUplaneFrame (mac vlan rxNs : Nat) (payload : List Byte) (s : State) : Out :=
  .next (if ¬ (getMac s mac).up then s
  else
    let s := countRx s mac
    if vlanKind s mac vlan ≠ some 0 then updMac s mac fun m => { m with unknownVlan := satInc m.unknownVlan 1 }
    else
      match ingestEntry s mac vlan (beAt payload 4 2) with
      | none => updMac s mac fun m => { m with unknownEaxc := satInc m.unknownEaxc 1 }
      | some (ref, g, a) =>
        let s := updIng s ref fun g => g.updEntry a fun x => x.sequence (imgLe payload 6 1)
        let s := chargeJob s g.job { Ledger.none with portBytes := 18 + payload.length }
        if ¬ uplaneOk g a payload then updIng s ref fun g => g.updEntry a fun x => { x with bad := satInc x.bad 1 }
        else
          let trx : Int := (rxNs * 65536 : Nat) - (getPtp s mac).asymIngress.toInt
          let near := slotOnAir g.mu g.alpha (trx / 65536).toNat
          let frame := ((((imgLe payload 9 1 : Nat) : Int) - g.beta) % 256).toNat
          let r := frame * perFrame g.mu + imgLe payload 10 1 / 16 * 2 ^ g.mu + beAt payload 10 2 / 64 % 64
          let slot := nearestSlot near r (256 * perFrame g.mu)
          acceptFrame s ref a slot (imgLe payload 11 1 % 64) trx ((payload.take (beAt payload 2 2 + 4)).drop 12))

/-- The symbol closes: blocks not written count as missing, and only the slots of late are kept (R191). -/
def Ing.close (g : Ing) (slot symbol : Nat) : Ing :=
  let r := g.slotOf slot
  let g := (List.range g.planes).foldl (fun g a =>
    let n := ((List.range g.nRb).filter fun rb => !Tbl.get false r.written (rbKey a symbol rb)).length
    g.updEntry a fun x => { x with missing := satInc x.missing n }) g
  let g := g.putSlot { r with closed := r.closed ||| BitVec.ofNat 14 (2 ^ symbol) }
  { g with rxSlots := g.rxSlots.filter fun x => decide (slot < x.slot + 4) }

/-- SYMBOL_CLOSE (R191). -/
def execSymbolClose (at_ : IngRef) (slot symbol : Nat) (s : State) : Out :=
  .next (match getIng s at_ with
    | none => s
    | some g =>
      if !g.takes slot ∨ 14 ≤ symbol ∨ (g.slotOf slot).closed.getLsbD symbol then s
      else postSlot (updIng s at_ fun g => g.close slot symbol) at_ slot)

end Sys2Proof.Machine
end

