-- ==== Sys2Proof/Machine/Uplink.lean ====
section
/-! DEFINITION. The uplink of a cell outside its cores: UL_TTI.request, contexts, decoding and the indications
(08 R196, R197, R205, R213, R217; 09 R218-R229, R239-R242). -/

namespace Sys2Proof.Machine

/-! ### Slots of a cell -/

def Cell.ulSlot (c : Cell) (slot : Nat) : Option UlSlot := c.ul.find? fun u => u.slot = slot
def Cell.updUl (c : Cell) (slot : Nat) (f : UlSlot → UlSlot) : Cell :=
  { c with ul := c.ul.map fun u => if u.slot = slot then f u else u }

/-! ### UL_TTI.request (08 R196, R197; 09 R227-R229, R239, R240) -/

/-- Whether the chain supports a PUSCH PDU (R181, R240). -/
def puschOk (c : Cell) (p : PuschPdu) : Bool :=
  bit p.bitmap 0 && !bit p.bitmap 1 && decide (p.scs = c.mu) && !p.extendedCp
    && (decide (p.qm ∈ [2, 4, 6, 8]) || (decide (p.qm = 1) && p.dftS)) && decide (1 ≤ p.layers ∧ p.layers ≤ 4)
    && !(p.dftS && decide (1 < p.layers)) && !p.interleaved && decide (p.hopping = 0) && decide (p.numCb = 0)
    && decide (p.ptrs.length ≤ 2) && !(p.dftS && bit p.bitmap 2) && (!bit p.bitmap 2 || decide (p.ptrsTime ∈ [1, 2, 4] ∧ p.ptrsFreq ∈ [2, 4]))
    && p.rbs.all (fun rb => decide (rb < c.nRb)) && decide (p.rv ≤ 3) && decide (1 ≤ p.symCount ∧ p.symStart + p.symCount ≤ 14)
    && p.dmrsPorts.all (fun k => decide (k < if p.dmrsType2 then 12 else 8))

/-- One more than the highest position of each code block, with what a soft buffer adds (R221, R228). -/
def Cell.reaches (c : Cell) (p : PuschPdu) : List Nat :=
  let sh := shapeOf p
  let old := if p.newData then none else (c.harqOf p.rnti p.harq).bind fun b => if b.tbBits = p.tbBits then some b else none
  (List.range sh.blocks).map fun r => max (sh.reach p.rv (blockBitsOf p r)) (old.elim 0 fun b => nth 0 b.top r)

/-- A field of the DECODE record of the cell's uplink job (09 R230). -/
def decodeField (s : State) (c : Cell) (off n : Nat) : Nat :=
  match getJob s c.up with
  | some j => paramOf j.image 7 off n
  | none => 0

/-- Cycles of a PUCCH payload's blocks (R229). -/
def polarCycles (k : Nat) : List Nat :=
  if k < 12 then [64 + 2 ^ k / 2]
  else
    let (n, blocks) := Config.polarShape k
    List.replicate blocks (64 + n * (Nat.log2 n + 8) / 4)

/-- What a request's PDUs make of a slot: the cell, the slot, windows left, whether a PDU was removed. -/
structure UlBuild where
  cell : Cell
  slot : UlSlot
  ld : List Window
  pl : List Window
  srs : Nat
  pucch : Nat
  removed : Bool
  deriving DecidableEq, Repr

/-- Adds a PDU of a request, or removes it (R181, R183, R227, R228, R240). -/
def addUlPdu (iter onAir : Nat) (b : UlBuild) (i : Nat) : UlPdu → UlBuild
  | .pusch p =>
    let ps := b.slot.recs.map (·.pdu)
    let ok := puschOk b.cell p && decide (ps.length < 64) && !ps.any (fun q => q.rnti = p.rnti ∧ q.harq = p.harq)
      && p.rbs.all (fun rb => decide (layersOn ps rb + p.layers ≤ 8))
    let sh := shapeOf p
    match (if ok then layBlocks ((b.cell.reaches p).map fun r => sh.cycles iter r) b.ld else none) with
    | none => { b with removed := true }
    | some (places, ws) =>
      let a := b.cell.assignCtx p.rnti onAir
      let again := b.slot.recs.any fun r => r.pdu.rnti = p.rnti && r.ctxNew
      let bytes := p.tbBits / 8
      let r : UlRec :=
        { index := i, pdu := p, ctx := a.2.1, ctxNew := a.2.2 || again, blocks := places,
          rxOffset := Config.rxOffset b.slot.slot i bytes, passed := none, fig := none, llr := none, tau := 0 }
      { b with cell := a.1, slot := { b.slot with recs := b.slot.recs ++ [r] }, ld := ws }
  | .pucch h rnti fmt k =>
    if 4 < fmt ∨ 128 ≤ b.pucch then { b with removed := true }
    else if fmt < 2 then { b with pucch := b.pucch + 1 }
    else
      match (if 3 ≤ k then layBlocks (polarCycles k) b.pl else none) with
      | none => { b with removed := true }
      | some (places, ws) =>
        let place := places.head?
        let r : PolarRec :=
          { index := i, handle := h, rnti := rnti, bits := k, engine := place.elim 0 fun x => x.engine, start := place.elim 0 fun x => x.start,
            done := false }
        { b with slot := { b.slot with polar := b.slot.polar ++ [r] }, pl := ws, pucch := b.pucch + 1 }
  | .prach reps start format =>
    if 4 ≤ b.slot.prach.length ∨ reps = 0 ∨ 12 < reps ∨ 13 < start ∨ !format.supported then { b with removed := true }
    else { b with slot := { b.slot with prach := b.slot.prach ++ [(reps, start, format.long)] } }
  | .srs _ _ ports comb symbols =>
    if 64 ≤ b.srs ∨ ports ∉ [1, 2, 4] ∨ comb ∉ [2, 4] ∨ symbols = 0 ∨ 4 < symbols then { b with removed := true }
    else { b with srs := b.srs + 1 }
  | .other _ => { b with removed := true }

/-- Builds an uplink slot from a request (R196, R227). -/
def buildUplink (s : State) (c : Cell) (j : Job) (slot : Nat) (pdus : List UlPdu) : UlBuild :=
  let (lo, hi) := c.decodeInterval slot
  let b : UlBuild :=
    { cell := c, slot := c.emptySlot slot, ld := windowsIn j 1 c.alpha lo hi, pl := windowsIn j 2 c.alpha lo hi, srs := 0, pucch := 0,
      removed := false }
  pdus.zipIdx.foldl (fun b e => addUlPdu (decodeField s c 4 1) (c.slotAt (nowNs s)) b e.2 e.1) b

/-- UL_TTI.request: used before the slot's air start, once (R197). -/
def ulTti (s : State) (cell sfn slot : Nat) (pdus : List UlPdu) : State :=
  match getCell s cell with
  | none => s
  | some c =>
    match getJob s c.up with
    | none => s
    | some j =>
      let now := nowNs s
      let n := c.named now sfn slot
      if c.airStart n ≤ (now : Int) ∨ n < c.nextFixed ∨ (c.ulSlot n).isSome then fapiError s cell sfn slot 0x81 errSlot
      else
        let b := buildUplink s c j n pdus
        let s := putCell s cell { b.cell with ul := b.cell.ul ++ [b.slot] }
        let s := if b.removed then fapiError s cell sfn slot 0x81 errConfig else s
        postUplink 8 s cell

def execUlTtiRequest (cell sfn slot : Nat) (pdus : List UlPdu) (s : State) : Out := .next (ulTti s cell sfn slot pdus)

/-- The uplink slots up to a number are fixed: a slot without a request has an empty descriptor (R197); its PRACH occasions take
their tiles (R194). -/
def fixUplink : Nat → State → Nat → Nat → State
  | 0, s, _, _ => s
  | k + 1, s, ci, last =>
    match getCell s ci with
    | none => s
    | some c =>
      let n := c.nextFixed
      if last < n then s
      else
        let c := if (c.ulSlot n).isSome then c else { c with ul := c.ul ++ [c.emptySlot n] }
        let occ := (c.ulSlot n).elim 0 fun u => u.prach.length
        let c := c.updUl n fun u => { u with prachBase := c.prachTotal }
        fixUplink k (postUplink 8 (putCell s ci { c with nextFixed := n + 1, prachTotal := c.prachTotal + occ }) ci) ci last

/-! ### The indications of a slot (09 R241, 08 R213) -/

/-- TimingAdvance of τ̂ in 2^-16 ns (R241). -/
def timingAdvance (mu : Nat) (tau : Int) : Int := min 63 (max 0 (31 + rneInt (tau * (30 * 2 ^ mu : Nat)) (15625 * 65536)))

/-- The entry of a CRC.indication (R241). -/
def crcEntry (c : Cell) (r : UlRec) : CrcEntry :=
  let sinr := (r.fig.map LinkFig.sinrAvg).getD 0
  let rsrp := (r.fig.map LinkFig.rsrp).getD 0
  { handle := r.pdu.handle, rnti := r.pdu.rnti, harq := r.pdu.harq, status := if r.passed = some true then 0 else 1,
    sinr := rneInt (sinr * 500) 256, timingAdvance := timingAdvance c.mu r.tau,
    timingNs := clampInt (-16800) 16800 (rneInt r.tau 65536),
    numCb := 0, rssi := 0xFFFF, rsrp := min 1280 (max 0 (rneInt ((rsrp + signed 16 (c.f 0x3C 2) + 35840) * 10) 256)) }

/-- Whether a slot owes nothing more to layer 2. -/
def UlSlot.over (u : UlSlot) : Bool := u.indicated && u.polar.all (·.done)

/-- CELL_STOP without NOW ends when both jobs have ended and the last slot's indications are sent (08 R217, 16 R439). -/
def settleStop (s : State) (ci : Nat) : State :=
  match getCell s ci with
  | none => s
  | some c =>
    match c.stopping with
    | none => s
    | some (t, n) =>
      let ran := fun (h : Nat) => ((getJob s h).bind Job.run).isSome
      if ran c.up ∨ ran c.down ∨ c.ul.any fun u => decide (u.slot ≤ n) then s
      else sendCellStopped (finish (releaseCell s ci []) t (Done.of eOk)) ci c 0 0 n

/-- Sends CRC.indication and RX_DATA.indication of a slot once its reports are sent and its transport blocks decoded; the staging
entry is written and live figures are counted first (R241; 10 R248, R265). -/
def settleSlot (s : State) (ci slot : Nat) : State :=
  match (getCell s ci).bind fun c => (c.ulSlot slot).map fun u => (c, u) with
  | none => s
  | some (c, u) =>
    let s :=
      if u.indicated ∨ !u.reported ∨ u.recs.any (fun r => r.passed.isNone) then s
      else
        let s := countLive s ci c u
        let s := if (getAdapt s ci).config = [] then s else stagingCopy s ci c u (gridBlocks c.nRb c.guard_).1
        let s :=
          if u.recs = [] then s
          else
            let s := sendFapi s ci (.crc u.sfn u.slotInFrame (u.recs.map (crcEntry c)))
            sendFapi s ci (.rxData u.sfn u.slotInFrame
              (u.recs.map fun r => (r.pdu.handle, r.pdu.rnti, r.pdu.harq, r.pdu.tbBits / 8, c.f 0x68 8 + r.rxOffset)))
        let s := updCell s ci fun c => c.updUl slot fun u => { u with indicated := true }
        let tiles := fun (st : Nat) => ((getJob s c.up).map fun j => streamField j.image st 0x0C 4).getD 0
        let llr := decodeField s c 2 2
        let desc := decodeField s c 0 2
        consumeBy (consumeBy s c.up llr 7 (tiles llr) (sourceCode 3 0)) c.up desc 7 (tiles desc) (sourceCode 3 0)
    let s := updCell s ci fun c => { c with ul := c.ul.filter fun u => !u.over }
    settleStop s ci

/-! ### CODE_BLOCK_DECODED (09 R220-R228) -/

/-- Adds received codes: the first at a position of an empty buffer is stored as it is, others are added with saturation (R228). -/
def mergeCodes (fresh : Bool) (codes : List (Nat × Int)) (t : Tbl Int) : Tbl Int :=
  (codes.foldl (fun (acc : Tbl Int × List Nat) e =>
    if fresh ∧ e.1 ∉ acc.2 then (Tbl.set 0 acc.1 e.1 e.2, e.1 :: acc.2)
    else (Tbl.set 0 acc.1 e.1 (sat8 (Tbl.get 0 acc.1 e.1 + e.2)), acc.2)) (t, [])).1

/-- Takes a buffer for a key, or counts HARQ_NOSPACE. -/
def Cell.harqTake (c : Cell) (p : PuschPdu) (slot : Nat) : Cell :=
  let sh := shapeOf p
  let c := c.harqFree p.rnti p.harq
  let bytes := sh.blocks * sh.blockBytes
  match c.harqPlace bytes with
  | some o =>
    { c with harq := c.harq ++
      [{ rnti := p.rnti, harq := p.harq, tbBits := p.tbBits, offset := o, bytes := bytes, top := List.replicate sh.blocks 0, lastSlot := slot }] }
  | none => { c with harqNospace := satInc c.harqNospace 1 }

/-- The soft buffer of a transport block whose first block is decoded (R228). -/
def Cell.harqBegin (c : Cell) (p : PuschPdu) (slot : Nat) : Cell :=
  if p.newData then c.harqTake p slot
  else
    match c.harqOf p.rnti p.harq with
    | some b =>
      if b.tbBits = p.tbBits then
        { c with harq := c.harq.map fun x => if x = b then { x with lastSlot := slot } else x }
      else { c with harqMismatch := satInc c.harqMismatch 1 }.harqTake p slot
    | none => { c with harqMismatch := satInc c.harqMismatch 1 }.harqTake p slot

/-- The stored codes of a code block. -/
def storedCodes (s : State) (c : Cell) (b : Harq) (sh : Shape) (cb : Nat) : Tbl Int :=
  ((partBytes s c.part (c.f 0x60 8 + b.offset + cb * sh.blockBytes) sh.ncb).zipIdx).foldl (fun t e => Tbl.set 0 t e.2 e.1.toInt) []

/-- The transport block of a PDU whose code blocks are all decoded: its CRC, its bytes in the receive region, its buffer (R225, R228). -/
def finishBlock (s : State) (ci slot : Nat) (r : UlRec) : State :=
  match getCell s ci with
  | none => s
  | some c =>
    let sh := shapeOf r.pdu
    let per := if sh.blocks = 1 then sh.kPrime else sh.kPrime - 24
    let bits_ := (r.blocks.flatMap fun b => (b.bits.getD []).take per).take (withCrc r.pdu.tbBits)
    let ok := tbPasses r.pdu.tbBits bits_
    let s := hbmWrite s c.part (c.f 0x68 8 + r.rxOffset) (packBits (bits_.take r.pdu.tbBits))
    updCell s ci fun c =>
      let c := if ok then c.harqFree r.pdu.rnti r.pdu.harq else c
      c.updUl slot fun u => { u with recs := u.recs.map fun x => if x.index = r.index then { x with passed := some ok } else x }

/-- The codes of code block cb in a codeword (TS 38.212 5.5): blocks follow one another. -/
def blockCodes (p : PuschPdu) (llr : List Int) (cb : Nat) : List Int :=
  let e := blockBitsOf p cb
  ((llr.drop (sumNat ((List.range cb).map (blockBitsOf p))) ++ List.replicate e 0).take e)

/-- CODE_BLOCK_DECODED: the block's codes are those that LLR selection wrote (08 R212); a slot whose LLRs are late waits (R216). -/
def execCodeBlockDecoded (cell slot pdu cb : Nat) (check : ArrayCheck) (s : State) : Out :=
  .next (match (getCell s cell).bind fun c => (c.ulSlot slot).bind fun u => (u.recs.find? fun r => r.index = pdu).map fun r => (c, r) with
    | none => s
    | some (c, r) =>
      match r.blocks[cb]?, r.llr with
      | none, _ | _, none => s
      | some place, some llr =>
        if place.bits.isSome then s
        else if check = .mismatch then engineFails s 1 place.engine
        else
          let sh := shapeOf r.pdu
          let c := if r.blocks.all (fun b => b.bits.isNone) then c.harqBegin r.pdu slot else c
          let e := blockBitsOf r.pdu cb
          let got := sh.received r.pdu.rv (blockCodes r.pdu llr cb) r.pdu.qm
          let buf := c.harqOf r.pdu.rnti r.pdu.harq
          let old := buf.elim 0 fun b => nth 0 b.top cb
          let pos := mergeCodes (decide (old = 0)) got (match buf with
            | some b => if old = 0 then [] else storedCodes s c b sh cb
            | none => [])
          let top := max old (sh.reach r.pdu.rv e)
          let s := match buf with
            | some b =>
              hbmWrite s c.part (c.f 0x60 8 + b.offset + cb * sh.blockBytes)
                ((List.range sh.ncb).map fun i => BitVec.ofInt 8 (Tbl.get 0 pos i))
            | none => s
          let c := { c with harq := c.harq.map fun b =>
            if b.rnti = r.pdu.rnti ∧ b.harq = r.pdu.harq then { b with top := setNth b.top cb top } else b }
          let rows := sh.rows top
          let out := sh.decode (c.scale sh.bg (rateClass rows)) (decodeField s c 4 1) rows (sh.channel pos)
          let r' : UlRec := { r with blocks := setNth r.blocks cb { place with bits := some out.1, crcPassed := sh.blocks = 1 || blockPasses out.1, syndromeZero := out.2 } }
          let c := c.updUl slot fun u => { u with recs := u.recs.map fun x => if x.index = pdu then r' else x }
          let s := putCell s cell c
          if r'.blocks.all fun b => b.bits.isSome then settleSlot (finishBlock s cell slot r') cell slot else s)

/-- HARQ_AGE_EXPIRY: the buffer of a key that no slot has used for HARQ_AGE slots is released (R228). -/
def execHarqAgeExpiry (cell rnti harq : Nat) (s : State) : Out :=
  .next (match (getCell s cell).bind fun c => (c.harqOf rnti harq).map fun b => (c, b) with
    | none => s
    | some (c, b) => if c.slotAt (nowNs s) < b.lastSlot + c.f 0x3E 2 then s else updCell s cell fun c => c.harqFree rnti harq)

/-- CONTEXT_FREE (08 R205). -/
def execContextFree (cell rnti : Nat) (s : State) : Out :=
  .next (match getCell s cell with
    | none => s
    | some c =>
      if ((c.ctxOf rnti).elim 0 (·.age)) < 256 then s
      else putCell s cell { c with
        contexts := c.contexts.filter fun x => x.rnti ≠ rnti, freed := c.freed.filter (fun k => k = c.slotAt (nowNs s)) ++ [c.slotAt (nowNs s)] })

/-! ### POLAR_DECODED (09 R229) -/

/-- Correlation of codes with a codeword. -/
def correlate (codes : List Int) (word : List Bool) : Int := ((codes.zip word).map fun e => if e.2 then -e.1 else e.1).sum

/-- Full correlation over all hypotheses of a Reed-Muller payload; ties to the lowest. -/
def rmDecode (k : Nat) (codes : List Int) : Nat :=
  ((List.range (2 ^ k)).foldl (fun (b : Option (Nat × Int)) h =>
    let x := correlate codes (Config.rmWord k h codes.length)
    match b with
    | some (_, y) => if y < x then some (h, x) else b
    | none => some (h, x)) none).elim 0 Prod.fst

/-- POLAR_DECODED: the payload of a PUCCH goes out in a UCI.indication. -/
def execPolarDecoded (cell slot pdu : Nat) (codes : List Int) (check : ArrayCheck) (s : State) : Out :=
  .next (match (getCell s cell).bind fun c => (c.ulSlot slot).bind fun u => (u.polar.find? fun r => r.index = pdu).map fun r => (u, r) with
    | none => s
    | some (u, r) =>
      if r.done then s
      else if check = .mismatch then engineFails s 2 r.engine
      else
        let out := if r.bits < 12 then
            let h := rmDecode r.bits codes
            (true, (List.range r.bits).map fun i => b2n (bit h i))
          else
            let q := Config.polarDecode r.bits codes
            (q.2, q.1.map b2n)
        let s := sendFapi s cell (.uci u.sfn u.slotInFrame r.handle r.rnti out.1 out.2)
        let s := updCell s cell fun c => c.updUl slot fun u =>
          { u with polar := u.polar.map fun x => if x.index = pdu then { x with done := true } else x }
        settleSlot s cell slot)

end Sys2Proof.Machine
end

