-- ==== Sys2Proof/Machine/Downlink.lean ====
section
/-! DEFINITION. The downlink of a cell outside its cores: FAPI requests, encoding, EGRESS (09 R230-R237, R239). -/

namespace Sys2Proof.Machine

/-! ### Requests (09 R232-R234, R239) -/

def Cell.dlSlot (c : Cell) (slot : Nat) : DlSlot :=
  (c.dl.find? fun d => d.slot = slot).getD { slot := slot, pdus := [], dci := [], tx := [], encoded := [], given := false, built := false }
def Cell.putDl (c : Cell) (d : DlSlot) : Cell := { c with dl := c.dl.filter (fun x => x.slot ≠ d.slot) ++ [d] }

/-- Whether a request for a downlink slot comes at least 40 µs before the air start of the slot before it (R234). -/
def Cell.dlInTime (c : Cell) (now n : Nat) : Bool := decide (1 ≤ n) && decide ((now : Int) + 40000 ≤ c.airStart (n - 1)) && !(c.dlSlot n).built

/-- Whether the chain supports a downlink PDU (R232, R233, 16 R438). -/
def dlOk (c : Cell) (p : DlPdu) : Bool :=
  p.rbs.all (fun rb => decide (rb < c.nRb)) && decide (p.symStart + p.symCount ≤ 14)
    && (match p.type with
      | 0 => decide (p.level ∈ [1, 2, 4, 8, 16])
      | 1 => decide (p.codewords = 1 ∧ 1 ≤ p.layers ∧ p.layers ≤ 4 ∧ p.qm ∈ [2, 4, 6, 8]) && decide (p.pmi < imgLe c.config 0x544 4)
      | 2 => true
      | 3 => decide (p.level ∈ [0, 1, 3])
      | _ => false)

/-- Layers that downlink PDUs place on a resource block. -/
def dlLayers (ps : List DlPdu) (rb : Nat) : Nat := sumNat ((ps.filter fun p => p.type = 1 ∧ rb ∈ p.rbs).map (·.layers))

/-- Keeps the PDUs that are supported, up to 8 layers on a resource block; whether any was removed (R232). -/
def keepDl (c : Cell) (pdus : List DlPdu) : List DlPdu × Bool :=
  pdus.foldl (fun acc p =>
    if dlOk c p && (p.type ≠ 1 || p.rbs.all fun rb => decide (dlLayers acc.1 rb + p.layers ≤ 8)) then (acc.1 ++ [p], acc.2) else (acc.1, true))
    ([], false)

/-- A request for a downlink slot: refused when late, otherwise `act` takes it; it says whether a PDU was removed. -/
def dlRequest (s : State) (cell sfn slot id : Nat) (taken : DlSlot → Bool) (act : Cell → DlSlot → DlSlot × Bool) : State :=
  match getCell s cell with
  | none => s
  | some c =>
    let n := c.named (nowNs s) sfn slot
    if !c.dlInTime (nowNs s) n ∨ taken (c.dlSlot n) then fapiError s cell sfn slot id errSlot
    else
      let r := act c (c.dlSlot n)
      let s := putCell s cell (c.putDl r.1)
      if r.2 then fapiError s cell sfn slot id errConfig else s

/-- DL_TTI.request: the first for a slot stands (log 70). -/
def dlTti (s : State) (cell sfn slot : Nat) (pdus : List DlPdu) : State :=
  dlRequest s cell sfn slot 0x80 (fun d => d.given) fun c d =>
    let r := keepDl c pdus
    ({ d with pdus := r.1, given := true }, r.2)

def execDlTtiRequest (cell sfn slot : Nat) (pdus : List DlPdu) (s : State) : Out := .next (dlTti s cell sfn slot pdus)

/-- UL_DCI.request: PDCCH PDUs as in DL_TTI.request. -/
def ulDci (s : State) (cell sfn slot : Nat) (pdus : List DlPdu) : State :=
  dlRequest s cell sfn slot 0x83 (fun _ => false) fun c d =>
    let ok := pdus.filter fun p => p.type = 0 && dlOk c p
    ({ d with dci := d.dci ++ ok }, decide (ok.length ≠ pdus.length))

def execUlDciRequest (cell sfn slot : Nat) (pdus : List DlPdu) (s : State) : Out := .next (ulDci s cell sfn slot pdus)

/-- TX_DATA.request: payloads inline, or at a 64-byte-aligned address in the transmit region. -/
def txData (s : State) (cell sfn slot : Nat) (entries : List TxEntry) : State :=
  dlRequest s cell sfn slot 0x84 (fun _ => false) fun c d =>
    let lo := c.f 0x70 8
    let ok := entries.filter fun e =>
      e.tag = 0 || (e.tag = 1 && aligned e.address 64 && decide (lo ≤ e.address) && decide (e.address + e.length ≤ lo + c.f 0x8C 4))
    ({ d with tx := d.tx ++ ok }, decide (ok.length ≠ entries.length))

def execTxDataRequest (cell sfn slot : Nat) (entries : List TxEntry) (s : State) : Out := .next (txData s cell sfn slot entries)

/-- SLOT.indication for slot n, sent at the air start of slot n − 2 (R234). -/
def execSlotIndication (cell slot : Nat) (s : State) : Out :=
  .next (match getCell s cell with
    | none => s
    | some c => if c.starting.isSome ∨ c.stopping.isSome then s else sendFapi s cell (.slot (c.sfn slot) (c.inFrame slot)))

/-! ### The slot descriptor and encoding (09 R230, R231) -/

/-- A field of the ENCODE record of the cell's downlink job (R230). -/
def encodeField (s : State) (c : Cell) (off n : Nat) : Nat :=
  match getJob s c.down with
  | some j => paramOf j.image 8 off n
  | none => 0

/-- Segmentation of a PDSCH transport block (R220). -/
def dlShape (p : DlPdu) : Shape :=
  shapeOf
    { bitmap := 1, rnti := p.rnti, handle := 0, scs := 0, extendedCp := false, qm := p.qm, dftS := false, codeRate := p.codeRate,
      tbBits := p.tbBits, scramblingId := 0, layers := p.layers, dmrsType2 := false, rbs := p.rbs, interleaved := false, hopping := 0,
      symStart := p.symStart, symCount := p.symCount, rv := 0, harq := 0, newData := true, numCb := 0, dmrsPorts := [], scid := 0,
      dmrsSymbols := 0, dmrsScramblingId := 0, puschIdentity := 0, cdmGroupsNoData := 0, lowPaprGroup := 0, lowPaprSequence := 0, ptrs := [],
      ptrsTime := 0, ptrsFreq := 0, lbrm := false }

/-- Blocks that an engine encodes for a PDU: the code blocks of a PDSCH, one of a PDCCH or PBCH. -/
def dlBlocks (p : DlPdu) : Nat := if p.type = 1 then (dlShape p).blocks else if p.type = 2 then 0 else 1

/-- Every PDU of a downlink slot, uplink DCI last. -/
def DlSlot.all (d : DlSlot) : List DlPdu := d.pdus ++ d.dci

/-- The coded bits of a slot are complete: its tile is posted (R230). -/
def postEncoded (s : State) (ci slot : Nat) : State :=
  match getCell s ci with
  | none => s
  | some c =>
    let d := c.dlSlot slot
    let want := (d.all.zipIdx).flatMap fun e => (List.range (dlBlocks e.1)).map fun b => (e.2, b)
    if d.built ∧ want.all (fun k => k ∈ d.encoded) then
      let s := postProduced s c.down (encodeField s c 2 2) (sourceCode 3 0)
      consumeBy s c.down (encodeField s c 0 2) 8 1 (sourceCode 3 0)
    else s

/-- The processing epoch of a downlink slot begins: PDSCH PDUs without their payload are removed, and the descriptor is written and
posted (R234, R239). -/
def buildDownlink (s : State) (ci slot : Nat) : State :=
  match getCell s ci with
  | none => s
  | some c =>
    match getJob s c.down with
    | none => s
    | some j =>
      let d := c.dlSlot slot
      if d.built then s
      else
        let kept := d.pdus.filter fun p => p.type ≠ 1 || d.tx.any fun e => e.index = p.index
        let s := if kept.length ≠ d.pdus.length then fapiError s ci (c.sfn slot) (c.inFrame slot) 0x80 errTx else s
        let d : DlSlot := { d with pdus := kept, built := true }
        let st := paramOf j.image 8 0 2
        let s := onTile s j st (slot - c.firstDown) fun a m => Mem.writeBytes m a (Config.dlDescriptor d.pdus d.dci)
        let s := postProduced s c.down st (sourceCode 6 0)
        let s := updCell s ci fun c => { c.putDl d with nextDown := slot + 1, dl := (c.putDl d).dl.filter fun x => decide (slot < x.slot + 4) }
        if d.all.all fun p => dlBlocks p = 0 then postEncoded s ci slot else s

/-- The payload of a PDU. -/
def dlPayload (s : State) (c : Cell) (d : DlSlot) (p : DlPdu) : List Byte :=
  if p.type ≠ 1 then []
  else
    match d.tx.find? fun e => e.index = p.index with
    | some e => if e.tag = 0 then e.payload else partBytes s c.part e.address e.length
    | none => []

/-- Cycles of a block: an LDPC encoder's, with P one more than the highest position that rate matching selects (R231; DEDUCED, log 102); a
polar engine's (R229). -/
def dlBlockCycles (p : DlPdu) (cb : Nat) : Nat :=
  if p.type = 1 then
    let sh := dlShape p
    let e := Config.dlBlockBits p cb
    32 + 2 * sh.rows (sh.reach 0 e) + ceilDiv e 128
  else 32 + Config.dlPolarLength p / 8

/-- CODE_BLOCK_ENCODED: `engine` carries the block: LE of a PDSCH, PL of a PDCCH or PBCH; the block never spans two windows (R226, R227). -/
def execCodeBlockEncoded (cell slot pdu cb engine : Nat) (check : ArrayCheck) (s : State) : Out :=
  .next (match getCell s cell with
    | none => s
    | some c =>
      let d := c.dlSlot slot
      match (if d.built then d.all[pdu]? else none), getJob s c.down with
      | some p, some j =>
        let kind := if p.type = 1 then 3 else 2
        if dlBlocks p ≤ cb ∨ (pdu, cb) ∈ d.encoded ∨ !(j.windows.any fun w => w.1 = kind ∧ w.2.1 = engine ∧ dlBlockCycles p cb ≤ w.2.2.2) then s
        else if check = .mismatch then engineFails s kind engine
        else
          let out := Config.codedBlock p (dlPayload s c d p) cb
          let s := onTile s j (encodeField s c 2 2) (slot - c.firstDown) fun a m => Mem.writeBytes m (a + out.1) out.2
          let s := updCell s cell fun c => c.putDl { d with encoded := d.encoded ++ [(pdu, cb)] }
          postEncoded s cell slot
      | _, _ => s)

/-! ### EGRESS (09 R235-R237) -/

/-- A field of the EGRESS record of the cell's downlink job (R235). -/
def egressField (s : State) (c : Cell) (off n : Nat) : Nat :=
  match getJob s c.down with
  | some j => paramOf j.image 11 off n
  | none => 0

/-- Frame, subframe, slot and symbol as the O-RAN headers carry them. -/
def airHeader (c : Cell) (slot sym : Nat) : List Byte :=
  let k := c.inFrame slot
  leBytes 1 (c.sfn slot) ++ (leBytes 2 (k / 2 ^ c.mu * 4096 + k % 2 ^ c.mu * 64 + sym)).reverse

/-- An eCPRI message: type 0 U-plane, 2 C-plane. -/
def ecpri (type id seq : Nat) (body : List Byte) : List Byte :=
  leBytes 1 0x10 ++ leBytes 1 type ++ (leBytes 2 (body.length + 4)).reverse ++ (leBytes 2 id).reverse ++ leBytes 1 seq ++ leBytes 1 0x80 ++ body

/-- Maximal runs of consecutive numbers in an ascending list: (first, count). -/
def runsOf : List Nat → List (Nat × Nat)
  | [] => []
  | a :: l =>
    match runsOf l with
    | (b, n) :: r => if b = a + 1 then (a, n + 1) :: r else (a, 1) :: (b, n) :: r
    | [] => [(a, 1)]

/-- Runs cut into pieces of at most k. -/
def cutRuns (k : Nat) (rs : List (Nat × Nat)) : List (Nat × Nat) :=
  rs.flatMap fun r => (List.range (ceilDiv r.2 (max 1 k))).map fun i => (r.1 + i * k, min k (r.2 - i * k))

/-- The resource blocks that the descriptor uses in a symbol. -/
def DlSlot.used (d : DlSlot) (nRb sym : Nat) : List Nat :=
  (List.range nRb).filter fun rb => d.all.any fun p => rb ∈ p.rbs && decide (p.symStart ≤ sym ∧ sym < p.symStart + p.symCount)

/-- Values of w bits packed most significant first. -/
def packValues (w : Nat) (vs : List Int) : List Byte :=
  packBits (vs.flatMap fun v => (List.range w).map fun i => bit (unsigned w v) (w - 1 - i))

/-- p × 2^-e rounded to nearest even. -/
def shiftRne (p : Int) (e : Nat) : Int := rneInt p (2 ^ e)

/-- Compresses a resource block (04 R101): 24 parts to 1 + 3w bytes. -/
def compressRb (w : Nat) (parts : List Int) : List Byte :=
  let fits := fun e => parts.all fun p => decide (-(2 ^ (w - 1) : Int) ≤ shiftRne p e) && decide (shiftRne p e < (2 ^ (w - 1) : Int))
  let e := ((List.range 16).find? fits).getD 15
  leBytes 1 e ++ packValues w (parts.map fun p => shiftRne p e)

/-- A resource block on the wire, under the COMP field. -/
def wireRb (comp : Nat) (parts : List Int) : List Byte :=
  if bits comp 5 4 = 0 then packValues 16 parts else compressRb (if comp % 16 = 0 then 16 else comp % 16) parts

/-- The header of a section: first resource block and their number, 0 for all of them. -/
def sectionHead (nRb start n : Nat) : List Byte := (leBytes 4 (start * 256 + if n = nRb then 0 else n % 256)).reverse

/-- Where a word of the symbol tile of a slot lies in the buffer of SYM_STREAM: partition HBM, or a core's scratchpad (02 R593, 09 R233). -/
inductive WordAt where
  | hbm (address : Nat)
  | scratch (core address : Nat)
  deriving DecidableEq, Repr

def symbolAt (c : Cell) (j : Job) (slot sym plane sub : Nat) : Option WordAt :=
  let st := paramOf j.image 11 0x0A 2
  let t := streamTile j.image st
  let per := max 1 (streamField j.image st 0xC 4)
  let off := t.at 0 plane (sub / max 1 t.elems) (sub % max 1 t.elems) 4
  if streamField j.image st 7 1 = 1 then
    some (.hbm (imgField j.image 0x000B 16 (streamField j.image st 0x12 2) 0 8 + 64 * (sym * t.spacing) + off))
  else (tileAt j st ((slot - c.firstDown) * per + sym)).map fun b => .scratch b.1 (b.2 + off)

/-- A word of the symbol tile of a slot, read and written. -/
def symbolWord (s : State) (c : Cell) (j : Job) (slot sym plane sub : Nat) : Nat :=
  match symbolAt c j slot sym plane sub with
  | some (.hbm a) => leNat (partBytes s c.part a 4)
  | some (.scratch core a) => Mem.le (getCore s core).scratch a 4
  | none => 0

def putSymbolWord (s : State) (c : Cell) (j : Job) (slot sym plane sub w : Nat) : State :=
  match symbolAt c j slot sym plane sub with
  | some (.hbm a) => hbmWrite s c.part a (leBytes 4 w)
  | some (.scratch core a) => updCore s core fun k => { k with scratch := Mem.writeLe k.scratch a 4 w }
  | none => s

/-! ### Modulation and precoding (09 R233) -/

/-- x of a layer at an element: data symbol i lies on layer i mod L; elsewhere the sequences of TS 38.211. -/
def layerValue (p : DlPdu) (payload : List Byte) (inFrame layer k l : Nat) : Cx :=
  let v := match Config.dataElement p inFrame k l with
    | some n => Config.codeSymbol p payload (n * max 1 p.layers + layer)
    | none => Config.signalValue p payload inFrame layer k l
  ⟨v.1, v.2⟩

/-- Element (stream, layer) of a cell's precoding matrix; matrix 0 places layer i on stream i (16 R438). -/
def Cell.precoder (c : Cell) (m stream layer : Nat) : Cx :=
  if m = 0 then (if stream = layer then Cx.one else Cx.zero)
  else
    let a := 0x800 + 1024 * m + 8 * (4 * stream + layer)
    ⟨ratOfF32 (imgLe c.config a 4), ratOfF32 (imgLe c.config (a + 4) 4)⟩

/-- The stream vector's element of a PDU: β_cell × 10^(Δ ÷ 20) × P × x. -/
def streamValue (s : State) (c : Cell) (d : DlSlot) (p : DlPdu) (stream k l : Nat) : Cx :=
  let x := (List.range (max 1 p.layers)).map fun i => (c.precoder p.pmi stream i).mul (layerValue p (dlPayload s c d p) (c.inFrame d.slot) i k l)
  ((Cx.sum x).scale (Config.cellScale * Config.powerScale p.power)).stage 11

/-- A part of a CQ15 element with saturation (04 R103), and whether it saturated. -/
def cq15Part (v : Rat) : Int × Bool :=
  let x := ratRne (v * 32768)
  (clampInt (-32768) 32767 x, decide (x < -32768) || decide (32767 < x))

/-- Writes the tile of a symbol: every element of every stream, 0 where no PDU uses its resource block; each saturated part counts in DL_SAT. -/
def precodeSymbol (s : State) (ci slot sym : Nat) : State :=
  match (getCell s ci).bind fun c => (getJob s c.down).map fun j => (c, j) with
  | none => s
  | some (c, j) =>
    let d := c.dlSlot slot
    let here := fun (k : Nat) => d.all.filter fun p => k / 12 ∈ p.rbs && decide (p.symStart ≤ sym ∧ sym < p.symStart + p.symCount)
    let parts := (List.range c.nS).flatMap fun stream => (List.range (12 * c.nRb)).map fun k =>
      let v := Cx.sum ((here k).map fun p => streamValue s c d p stream k sym)
      (stream, k, cq15Part v.re, cq15Part v.im)
    let s := parts.foldl (fun s e =>
      putSymbolWord s c j slot sym e.1 e.2.1 (unsigned 16 e.2.2.1.1 + 65536 * unsigned 16 e.2.2.2.1)) s
    updCell s ci fun c => { c with dlSat := satInc c.dlSat (sumNat (parts.map fun e => b2n e.2.2.1.2 + b2n e.2.2.2.2)) }

/-- The 24 parts of a resource block of a symbol. -/
def symbolParts (s : State) (c : Cell) (j : Job) (slot sym plane rb : Nat) : List Int :=
  (List.range 12).flatMap fun i =>
    let w := symbolWord s c j slot sym plane (12 * rb + i)
    [signed 16 w, signed 16 (w / 65536)]

/-- Sends a fronthaul frame of a cell, and charges its bytes (13 R348). -/
def sendFronthaul (s : State) (c : Cell) (what : String) (p : List Byte) : State :=
  chargeJob (sendFrame s c.port what 0 (some c.vlan) 0xAEFE p) c.down { Ledger.none with portBytes := 18 + p.length }

/-- U-plane frames of a symbol: each stream in entry order, a section to a frame (R236). -/
def sendSymbol (s : State) (ci : Nat) (c : Cell) (j : Job) (slot sym : Nat) : State :=
  let comp := egressField s c 6 1
  let runs := cutRuns (egressField s c 9 1) (runsOf ((c.dlSlot slot).used c.nRb sym))
  c.tx.zipIdx.foldl (fun s e => runs.foldl (fun s r =>
    let id := e.1.id
    let seq := match getCell s ci with
      | some c => (c.tx[e.2]?).elim 0 fun x => x.seq.toNat
      | none => 0
    let hdr := if bits comp 5 4 = 2 then leBytes 1 (comp % 16 * 16 + 1) ++ leBytes 1 0 else []
    let data := (List.range r.2).flatMap fun k => wireRb comp (symbolParts s c j slot sym e.2 (r.1 + k))
    let body := leBytes 1 0x90 ++ airHeader c slot sym ++ sectionHead c.nRb r.1 r.2 ++ hdr ++ data
    let s := sendFronthaul s c "uplane" (ecpri 0 id seq body)
    updCell s ci fun c => { c with tx := modNth c.tx e.2 fun x => { x with frames := satInc x.frames 1, seq := x.seq + 1 } }) s) s

/-- Tile number of a downlink symbol: fourteen to a slot (log 70). -/
def Cell.symTile (c : Cell) (slot sym : Nat) : Nat := (slot - c.firstDown) * 14 + sym

/-- SYMBOL_DEPARTURE: the symbol's frames leave at T_start − TX_ADV, or its late tile is dropped (R236, R237). -/
def execSymbolDeparture (cell slot symbol : Nat) (s : State) : Out :=
  .next (match getCell s cell with
    | none => s
    | some c =>
      match getJob s c.down with
      | none => s
      | some j =>
        if slot < c.firstDown ∨ 14 ≤ symbol ∨ j.run.isNone then s
        else
          let st := paramOf j.image 11 0x0A 2
          let tile := c.symTile slot symbol
          let limit := c.symStart slot symbol - (egressField s c 0x0C 4 + 2000 : Nat) * 96
          let on := bit (c.pattern slot).2 symbol
          let src := sourceCode 4 c.port
          match Tbl.find c.symPosts tile with
          | some t =>
            let s := updCell s cell fun c => { c with symPosts := Tbl.del c.symPosts tile }
            let late := decide (limit < ((t * 96 : Nat) : Int))
            let s := if late ∧ on then txLate s cell c slot limit else if on then sendSymbol s cell c j slot symbol else s
            postConsumed s c.down st src
          | none =>
            let s := updCell s cell fun c => { c with lateTiles := c.lateTiles ++ [tile] }
            if on then txLate s cell c slot limit else s)
where
  /-- A symbol that is not sent: TX_LATE of each entry, and DEADLINE_MISS (R237). -/
  txLate (s : State) (cell : Nat) (c : Cell) (slot : Nat) (limit : Int) : State :=
    let s := updCell s cell fun c =>
      { c with tx := c.tx.map (fun x => { x with late := satInc x.late 1 }), deadlineMiss := satInc c.deadlineMiss 1 }
    let late := (((nowNs s : Nat) : Int) - limit / 96).toNat
    let s := partEvent s c.part 0x0380 64
      (leBytes 4 c.down ++ leBytes 1 1 ++ leBytes 3 0 ++ leBytes 4 (slot - c.firstDown) ++ leBytes 4 (min late (2 ^ 32 - 1)) ++ leBytes 1 0xFF)
    chargeJob s c.down { Ledger.none with deadlineMiss := 1 }

/-- Sections of a downlink slot for a stream: (first symbol, symbols, beam, first resource block, resource blocks) (R236). -/
def dlSections (c : Cell) (d : DlSlot) (e : EaxcTx) : List (Nat × Nat × Nat × Nat × Nat) :=
  let key := fun (p : DlPdu) => (p.symStart, p.symCount, p.beam.getD (e.beam % 32768))
  let keys := dedup (d.all.map key)
  keys.flatMap fun k =>
    let rbs := (List.range c.nRb).filter fun rb => d.all.any fun p => decide (key p = k) && decide (rb ∈ p.rbs)
    let rs := runsOf rbs
    let rs := if rs = [(0, c.nRb)] then rs else cutRuns 255 rs
    rs.map fun r => (k.1, k.2.1, k.2.2, r.1, r.2)

/-- A C-plane section of type 1 (3GPP-independent part of O-RAN CUS; log 66). -/
def cSection (nRb id start n symbols beam : Nat) : List Byte :=
  (leBytes 4 (id % 4096 * 2 ^ 20 + start * 256 + if n = nRb then 0 else n % 256)).reverse ++ (leBytes 2 (0xFFF0 + symbols % 16)).reverse
    ++ (leBytes 2 (beam % 32768)).reverse

/-- Sends a C-plane message of an entry. -/
def sendCplane (s : State) (c : Cell) (id seq dir filter slot sym type count : Nat) (rest : List Byte) : State :=
  sendFronthaul s c "cplane" (ecpri 2 id seq
    (leBytes 1 (dir * 128 + 16 + filter % 16) ++ airHeader c slot sym ++ leBytes 1 count ++ leBytes 1 type ++ rest))

/-- DL_CPLANE_SEND: the downlink C-plane of a slot, one message for each stream and first symbol; none when the descriptor is empty. -/
def execDlCplaneSend (cell slot : Nat) (s : State) : Out :=
  .next (match getCell s cell with
    | none => s
    | some c =>
      let d := c.dlSlot slot
      if !d.built then s
      else
        let comp := egressField s c 6 1
        let hdr := leBytes 1 (if bits comp 5 4 = 0 then 0 else comp % 16 * 16 + 1) ++ leBytes 1 0
        c.tx.zipIdx.foldl (fun s e =>
          let all := dlSections c d e.1
          (dedup (all.map fun x => x.1)).foldl (fun s sym =>
            let mine := all.filter fun x => x.1 = sym
            let seq := match getCell s cell with
              | some c => (c.tx[e.2]?).elim 0 fun x => x.cseq.toNat
              | none => 0
            let body := hdr ++ mine.zipIdx.flatMap fun x => cSection c.nRb x.2 x.1.2.2.2.1 x.1.2.2.2.2 x.1.2.1 x.1.2.2.1
            let s := sendCplane s c e.1.id seq 1 e.1.filter slot sym 1 mine.length body
            updCell s cell fun c => { c with tx := modNth c.tx e.2 fun x => { x with frames := satInc x.frames 1, cseq := x.cseq + 1 } }) s) s)

/-- UL_CPLANE_SEND: uplink C-plane of an uplink symbol: section type 1 for grid entries, 3 for PRACH entries (R236, 08 R181). -/
def execUlCplaneSend (cell slot symbol : Nat) (s : State) : Out :=
  .next (match getCell s cell with
    | none => s
    | some c =>
      if 14 ≤ symbol ∨ !bit (c.pattern slot).1 symbol ∨ ((getJob s c.down).bind Job.run).isNone then s
      else
        let comp := c.f 0x19 1
        let hdr := if bits comp 5 4 = 0 then 0 else comp % 16 * 16 + 1
        c.ulTx.zipIdx.foldl (fun s e =>
          let sect := cSection c.nRb 0 0 c.nRb 1 e.1.beam
          let s :=
            if e.1.filter = 0 then sendCplane s c e.1.id e.1.cseq.toNat 0 0 slot symbol 1 1 (leBytes 1 hdr ++ leBytes 1 0 ++ sect)
            else sendCplane s c e.1.id e.1.cseq.toNat 0 e.1.filter slot symbol 3 1
              (leBytes 2 0 ++ leBytes 1 0 ++ leBytes 2 0 ++ leBytes 1 hdr ++ sect ++ leBytes 4 0)
          updCell s cell fun c => { c with ulTx := modNth c.ulTx e.2 fun x => { x with frames := satInc x.frames 1, cseq := x.cseq + 1 } }) s)

end Sys2Proof.Machine
end

