-- ==== Sys2Proof/Machine/Cells.lean ====
section
/-! DEFINITION. Cell commands and the FAPI tunnel (16 R437-R439; 09 R238, R239; 08 R180-R187). -/

namespace Sys2Proof.Machine

/-! ### FAPI_TUNNEL (09 R238, R239) -/

/-- Carries a whole FAPI message out. -/
def fapiWhole (s : State) (ci : Nat) (bytes : List Byte) : State :=
  match Config.fapiDecode bytes with
  | some (.ulTti sfn slot pdus) => ulTti s ci sfn slot pdus
  | some (.dlTti sfn slot pdus) => dlTti s ci sfn slot pdus
  | some (.ulDci sfn slot pdus) => ulDci s ci sfn slot pdus
  | some (.txData sfn slot entries) => txData s ci sfn slot entries
  | some (.other id) => fapiError s ci 0 0 id errState
  | none => fapiError s ci 0 0 (imgLe bytes 2 2) errState

/-- A started cell that is past its CELL_START. -/
def startedCell (s : State) (ci : Nat) : Option Cell :=
  match getCell s ci with
  | some c => if c.starting.isSome then none else some c
  | none => none

/-- Checks of a command that names a cell: its sender is bound to the cell's partition, and the cell is started. -/
def Ctx.cellChecks (c : Ctx) (s : State) (ci : Nat) (fields : Bool) : Option Nat :=
  let tenant : Bool := match getCell s ci with
    | some x => hostOf s c.m.src x.part
    | none => true
  c.checks s fields tenant false true [((startedCell s ci).isSome, eState)]

/-- One segment of a FAPI message: R238 orders them and discards what a wrong one follows. -/
def carryFapi : Carry := fun c s =>
  let ci := c.f 0x10 1
  let seg := c.f 0x11 1
  let segs := c.f 0x12 1
  let len := c.f 0x14 4
  whenOk s (c.cellChecks s ci (decide (ci ≤ 47) && decide (1 ≤ segs) && decide (segs ≤ 16) && decide (seg < segs) && c.zero 0x13 0x14))
    (let part := ((startedCell s ci).bind Cell.fapi).getD { next := 0, segs := segs, len := len, bytes := [] }
     if seg ≠ part.next ∨ segs ≠ part.segs ∨ len ≠ part.len then
       refuse (updCell s ci fun x => { x with fapi := none }) eState
     else
       let bytes := part.bytes ++ c.m.body.drop 8
       if seg + 1 = segs then
         (fapiWhole (updCell s ci fun x => { x with fapi := none }) ci (bytes.take len), some (Done.of eOk))
       else
         (updCell s ci fun x => { x with fapi := some { next := seg + 1, segs := segs, len := len, bytes := bytes } }, some (Done.of eOk)))

/-- FAPI_TUNNEL: lengths 24 to 4,096. -/
def execFapiTunnel (m : Msg) (s : State) : Out :=
  .next ((takeCommand 0x0800 (some (0x102, fun n => 24 ≤ n && n ≤ 4096, carryFapi)) m s).getD s)

/-! ### CELL_START (16 R437, R438) -/

/-- The fields of CELL_START as 16 R437 and the rules it names bound them (08 R181, R186, R215; 09 R235). -/
def cellFieldsOk (c : Ctx) : Bool :=
  let f := c.f
  let mu := f 0x13 1
  let slot := slotNsOf mu
  let gains := f 0x2E 1
  let gain := fun (n : Nat) => decide (1 ≤ n ∧ n ≤ 8)
  let n := f 0x42 2
  decide (f 0x10 1 ≤ 47) && decide (f 0x11 1 ≤ 7) && decide (f 0x12 1 ≤ 7) && nRbOk mu (f 0x14 2) && decide (f 0x16 2 < 4096)
    && (f 0x18 1 ∈ [0, 16, 32]) && compOk (f 0x19 1) && compOk (f 0x1A 1) && decide (1 ≤ f 0x1B 1 ∧ f 0x1B 1 ≤ 32) && decide (f 0x1C 1 ≤ 8)
    && decide (1 ≤ f 0x1D 1 ∧ f 0x1D 1 ≤ 32) && decide (f 0x1E 1 ≤ 40) && decide (1 ≤ f 0x1F 1)
    && decide (f 0x20 4 < f 0x24 4 ∧ f 0x24 4 ≤ rxMaxLimit mu) && decide (f 0x28 4 ≤ 9999999) && decide (f 0x2D 1 < 4)
    && (gains = 0 || (gain (gains % 16) && gain (gains / 16))) && decide (1 ≤ f 0x2F 1 ∧ f 0x2F 1 ≤ 16)
    && decide (20000 ≤ f 0x30 4 ∧ 4 * f 0x30 4 ≤ slot) && decide (f 0x30 4 + 5000 ≤ f 0x34 4 ∧ f 0x34 4 ≤ slot)
    && decide (20000 ≤ f 0x38 4 ∧ f 0x38 4 ≤ slot) && decide (1 ≤ f 0x3E 2 ∧ f 0x3E 2 ≤ 1024)
    && decide (1 ≤ n ∧ n ≤ 80) && (!bit (f 0x2D 1) 1 || n = 1) && c.zero 0x54 0x58 && aligned (f 0x58 8) 64
    && aligned (f 0x60 8) pageBytes && aligned (f 0x68 8) pageBytes && aligned (f 0x70 8) pageBytes && aligned (f 0x78 8) pageBytes
    && aligned (f 0x80 8) 64 && aligned (f 0x88 4) pageBytes && aligned (f 0x8C 4) pageBytes

/-- Bytes of the cell configuration block (R438). -/
def cellConfigBytes : Nat := 264192
/-- Bytes of the adaptation region (10 R243). -/
def adaptRegionBytes : Nat := 11 * pageBytes

/-- Every region of CELL_START lies in MAPPED pages of its partition, and the report till is a KIND 3 till of it. -/
def cellRegionsOk (s : State) (q : Part) (c : Ctx) : Bool :=
  let f := c.f
  q.holds (f 0x60 8) (f 0x58 8) && q.holds (f 0x68 8) (f 0x88 4) && q.holds (f 0x70 8) (f 0x8C 4)
    && q.holds (f 0x78 8) adaptRegionBytes && q.holds (f 0x80 8) cellConfigBytes && decide (f 0x40 2 < q.tillCount)
    && (getTill s (partTill (f 0x11 1) (f 0x40 2))).kind = 3 && (getTill s (partTill (f 0x11 1) (f 0x40 2))).state ≠ .unconfigured

/-- Entries of a list of the configuration block: (EAXC_ID, BEAM or FILTER, FILTER). -/
def rxEntries (cfg : List Byte) (n : Nat) : List EaxcRx :=
  (List.range n).map fun k =>
    { id := imgLe cfg (8 * k) 2, filter := imgLe cfg (8 * k + 2) 1, lastSeq := none, ok := 0, early := 0, late := 0, dup := 0, bad := 0,
      gap := 0, missing := 0 }
def txEntries (cfg : List Byte) (first n : Nat) : List EaxcTx :=
  (List.range n).map fun k =>
    let o := 8 * (first + k)
    { id := imgLe cfg o 2, beam := imgLe cfg (o + 2) 2, filter := imgLe cfg (o + 4) 1, late := 0, frames := 0, seq := 0, cseq := 0 }

/-- The configuration block as R438, R186 and R235 bound it. -/
def cellConfigOk (c : Ctx) (cfg : List Byte) : Bool :=
  let planes := c.f 0x1B 1
  let prach := c.f 0x1C 1
  let ns := c.f 0x1D 1
  let ul := c.f 0x1E 1
  let rx := rxEntries cfg (planes + prach)
  let tx := txEntries cfg (planes + prach) ns
  let ut := txEntries cfg (planes + prach + ns) ul
  let noDup := fun (l : List Nat) => dedup l = l
  noDup (rx.map (·.id)) && noDup (tx.map (·.id)) && noDup (ut.map (·.id))
    && rx.zipIdx.all (fun e => if e.2 < planes then e.1.filter = 0 else decide (1 ≤ e.1.filter ∧ e.1.filter ≤ 15))
    && (tx ++ ut).all (fun e => decide (e.beam < 32768 ∧ e.filter ≤ 15))
    && (List.range (c.f 0x42 2)).all (fun k =>
      let w := imgLe cfg (0x400 + 4 * k) 4
      bits w 15 14 = 0 && bits w 31 30 = 0 && (w % 2 ^ 14) &&& bits w 29 16 = 0)
    && decide (imgLe cfg 0x540 4 < 2) && decide (1 ≤ imgLe cfg 0x544 4 ∧ imgLe cfg 0x544 4 ≤ 256)
    && (imgLe cfg 0x540 4 = 0 || (List.range 128).all fun k => decide (imgLe cfg (0x580 + k) 1 ≤ 64))

/-- Carrier units of a carrier (08 R182). -/
def carrierUnits (mu nRb : Nat) : Nat := if mu = 3 then (if nRb = 264 then 4 else if nRb = 132 then 2 else 1) else 1

/-- What an INGEST station of a loaded job takes: port, VLAN, eAxC identifiers, units. -/
structure PortUse where
  port : Nat
  vlan : Nat
  ids : List Nat
  units : Nat
  deriving DecidableEq, Repr

/-- Port use of started cells, and of the INGEST stations of other loaded jobs. -/
def portUses (s : State) : List PortUse :=
  (s.radio.cells.map fun e =>
    { port := e.2.port, vlan := e.2.vlan, ids := e.2.rx.map (·.id),
      units := ingestUnits e.2.mu e.2.nRb e.2.guard_ e.2.planes e.2.prachPlanes : PortUse })
  ++ (s.work.jobs.filter fun e => e.2.kind = .host).flatMap fun e =>
    let img := e.2.image
    ((List.range (stationCount img)).filter fun st => stationKind img st = 1).map fun st =>
      let f := paramField img st
      { port := f 0 1, vlan := f 4 2 % 4096, ids := (List.range (f 8 1 + f 9 1)).map fun k => f (64 + 8 * k) 2,
        units := ingestUnits (f 1 1) (f 2 2) (f 6 1) (f 8 1) (f 9 1) }

/-- Downlink eAxC identifiers bound on a port and VLAN by other cells. -/
def txBound (s : State) (port vlan : Nat) : List Nat :=
  (s.radio.cells.filter fun e => e.2.port = port ∧ e.2.vlan = vlan).flatMap fun e => e.2.tx.map (·.id)

/-- E_NOFIT(PORTS): the amounts required and available (02 R72). -/
def noPorts (need have_ : Nat) : Option Done := some ⟨eNofit, 0xFFFF000B, need, have_, 0⟩

/-- Why the ports do not hold the cell (08 R182, R183, R187; 09 R235). -/
def cellPorts (s : State) (q : Part) (c : Ctx) (cfg : List Byte) : Option Done :=
  let mu := c.f 0x13 1
  let port := c.f 0x12 1
  let vlan := c.f 0x16 2
  let units := carrierUnits mu (c.f 0x14 2)
  let used := sumNat (s.radio.cells.map fun e => carrierUnits e.2.mu e.2.nRb)
  let uses := portUses s
  let need := ingestUnits mu (c.f 0x14 2) (c.f 0x18 1) (c.f 0x1B 1) (c.f 0x1C 1)
  let ids := (rxEntries cfg (c.f 0x1B 1 + c.f 0x1C 1)).map (·.id)
  let down := (txEntries cfg (c.f 0x1B 1 + c.f 0x1C 1) (c.f 0x1D 1)).map (·.id)
  let bound := (uses.filter fun u => u.port = port ∧ u.vlan = vlan).flatMap (·.ids)
  let have_ := sumNat (uses.map (·.units))
  if 48 < used + units then noPorts units (48 - used)
  else if ¬ q.vlans.any fun v => v.mac = port ∧ v.kind = 0 ∧ v.vid = vlan then noPorts 1 0
  else if (ids.any fun i => i ∈ bound) ∨ (down.any fun i => i ∈ txBound s port vlan) then noPorts 1 0
  else if 512 < have_ + need ∨ 512 < sumNat (uses.map fun u => u.ids.length) + ids.length then noPorts need (512 - have_)
  else none

/-- The record of a cell whose jobs are being loaded. -/
def newCell (c : Ctx) (cfg : List Byte) (up down : Nat) : Cell :=
  let planes := c.f 0x1B 1 + c.f 0x1C 1
  { part := c.f 0x11 1, owner := c.m.src, starting := some c.tid, up := up, down := down, fields := c.m.body, config := cfg,
    learned := bit (c.f 0x2D 1) 0, firstUp := 0, firstDown := 0, nextUp := 0, nextDown := 0, nextFixed := 0, prachTotal := 0, symPosts := [],
    lateTiles := [], rx := rxEntries cfg planes, tx := txEntries cfg planes (c.f 0x1D 1),
    ulTx := txEntries cfg (planes + c.f 0x1D 1) (c.f 0x1E 1), rxSlots := [], contexts := [], updates := [], freed := [], ul := [], dl := [], harq := [],
    fapi := none, harqNospace := 0, harqMismatch := 0, dlSat := 0, deadlineMiss := 0, captureSkipped := 0, shadowSkipped := 0, slots := 0,
    stopping := none }

/-- Starts the two invocations of a cell whose loads have ended: epoch 0 of the uplink job processes the slot before the one it
begins with, epoch 0 of the downlink job the slot after it (08 R185, 09 R234; log 67). -/
def launchCell (s : State) (ci : Nat) (c : Cell) : State :=
  let s := startInvocation (startInvocation s c.up none true) c.down none true
  let s := updRun s c.up fun r => { r with ruleBase := r.ruleBase + 1 }
  let due := (((getJob s c.up).bind fun j => j.insts.head?).map (·.due)).getD (nowNs s)
  let n := c.slotAt due
  let s := updCell s ci fun c =>
    { c with firstUp := n - 1, firstDown := n + 1, nextUp := n - 1, nextFixed := n - 1, nextDown := n + 1 }
  adaptCellStarts s ci

/-- Cells whose two jobs' loads have ended start them. -/
def settleCellLoads (s : State) : State :=
  s.radio.cells.foldl (fun s e =>
    match e.2.starting with
    | none => s
    | some t =>
      let mine := s.work.loading.filter fun l => l.ticket = t
      if mine = [] ∨ ¬ mine.all (loadReady s) then s
      else
        let s := updWork s fun w => { w with loading := w.loading.filter fun l => l.ticket ≠ t }
        launchCell (mine.foldl (fun s l => retainSegs s l.job) s) e.1 e.2) s

/-- Loads whose rinses and floor raises have ended: host jobs complete, cells start. -/
def settleLoads (s : State) : State := settleCellLoads (settleHostLoads s)

/-- Places and installs the two jobs of a cell, or refuses and leaves nothing loaded (R437). -/
def loadCell (s : State) (c : Ctx) (cfg : List Byte) : State × Option Done :=
  let ci := c.f 0x10 1
  let p := c.f 0x11 1
  let mk := fun (kind : JobKind) (img : List Byte) => newJob p c.m.src kind img 0 0 0 0 0
  match placeFully s 0 (mk (.cellUp ci) (cellUplinkImage c.m.body cfg)) with
  | .inr d => (s, some d)
  | .inl up =>
    let h := s.work.nextJob
    match placeFully (putJob s h up) 0 (mk (.cellDown ci) (cellDownlinkImage c.m.body cfg)) with
    | .inr d => (s, some d)
    | .inl down =>
      let s := installJob (installJob s c.tid up) c.tid down
      (settleLoads (settleRinses (putCell s ci (newCell c cfg h (h + 1)))), none)

def carryCellStart : Carry := fun c s =>
  let ci := c.f 0x10 1
  let p := c.f 0x11 1
  let fields := cellFieldsOk c
  match getPart s p with
  | none => whenOk s (c.checks s fields (isRoot c.m.src) false true [(false, eState)]) (s, none)
  | some q =>
    whenOk s (c.checks s fields (hostOf s c.m.src p && q.allowLc && cellRegionsOk s q c) false true
        [((getCell s ci).isNone, eState), (decide (loadedCount s + 2 ≤ 256), eResource)])
      (let cfg := hbmBytes s q (c.f 0x80 8) cellConfigBytes
       if ¬ cellConfigOk c cfg then refuse s eVersion
       else
         match cellPorts s q c cfg with
         | some d => (s, some d)
         | none => loadCell s c cfg)

def execCellStart (m : Msg) (s : State) : Out := runCommand 0x0801 0x102 144 carryCellStart m s

/-- CELL_START completes when the uplink job's first epoch begins (R437). -/
def cellStarted (s : State) (ci : Nat) : State :=
  match getCell s ci with
  | none => s
  | some c =>
    match c.starting with
    | none => s
    | some t =>
      let dig := fun (h : Nat) => ((getJob s h).map fun j => j.digest.toNat % 2 ^ 32).getD 0
      finish (putCell s ci { c with starting := none }) t ⟨eOk, c.up, c.down, dig c.up, dig c.down⟩

/-! ### CELL_STOP (16 R439, 08 R217) -/

/-- CELL_STOP with NOW: both jobs abort at once and the cell is released. -/
def stopNow (s : State) (ci : Nat) (c : Cell) (tid : Nat) : State :=
  let slot := Cell.lastSlot s c
  let s := releaseCell s ci []
  let s := (c.stopping.map Prod.fst).toList.foldl (fun s t => finish s t (Done.of eAborted)) s
  sendCellStopped (finish s tid (Done.of eOk)) ci c 0 0 slot

/-- CELL_STOP without NOW: the slot that is on air is the last that is processed. -/
def stopLater (s : State) (ci : Nat) (c : Cell) (tid : Nat) : State :=
  let n := max (c.slotAt (nowNs s)) c.firstUp
  let s := updRun s c.up fun r => { r with last := some (n - c.firstUp) }
  let s := stopAfterEpoch s c.down none
  settleStop (updCell s ci fun c => { c with stopping := some (tid, n) }) ci

def carryCellStop : Carry := fun c s =>
  let ci := c.f 0x10 1
  let now := c.f 0x11 1 = 1
  whenOk s (c.cellChecks s ci (decide (ci ≤ 47) && decide (c.f 0x11 1 < 2) && c.zero 0x12 0x18))
    (match startedCell s ci with
      | none => refuse s eState
      | some x =>
        if now then (stopNow s ci x c.tid, none)
        else if x.stopping.isSome then refuse s eState
        else (stopLater s ci x c.tid, none))

def execCellStop (m : Msg) (s : State) : Out := runCommand 0x0802 0x102 24 carryCellStop m s

/-! ### CELL_STATS (16 R439) -/

/-- The record of CELL_STATS. -/
def cellRecord (c : Cell) : List Byte :=
  let w := fun {k : Nat} (x : BitVec k) => leBytes 4 x.toNat
  w c.harqNospace ++ w c.harqMismatch ++ w c.dlSat ++ w c.deadlineMiss ++ w c.captureSkipped ++ w c.shadowSkipped
    ++ leBytes 8 c.slots.toNat ++ List.replicate 32 0
    ++ c.rx.flatMap (fun e => leBytes 2 e.id ++ leBytes 2 0 ++ w e.ok ++ w e.early ++ w e.late ++ w e.dup ++ w e.bad ++ w e.gap ++ w e.missing)
    ++ c.tx.flatMap (fun e => leBytes 2 e.id ++ leBytes 2 0 ++ w e.late ++ w e.frames ++ List.replicate 20 0)

/-- Each counter reduced by the value written. -/
def Cell.cleared (c : Cell) : Cell :=
  { c with
    harqNospace := 0, harqMismatch := 0, dlSat := 0, deadlineMiss := 0, captureSkipped := 0, shadowSkipped := 0, slots := 0
    rx := c.rx.map fun e => { e with ok := 0, early := 0, late := 0, dup := 0, bad := 0, gap := 0, missing := 0 }
    tx := c.tx.map fun e => { e with late := 0, frames := 0 } }

def carryCellStats : Carry := fun c s =>
  let ci := c.f 0x10 1
  let dest := c.f 0x18 8
  let clear := c.f 0x11 1 = 1
  let fields := decide (ci ≤ 47) && decide (c.f 0x11 1 < 2) && c.zero 0x12 0x18 && aligned dest 64 && (!clear || decide (0x106 ≤ c.ver))
  match startedCell s ci with
  | none => whenOk s (c.cellChecks s ci fields) (refuse s eState)
  | some x =>
    let r := cellRecord x
    let reach : Bool := match getPart s x.part with
      | some q => q.holds dest r.length
      | none => false
    whenOk s (c.checks s fields (hostOf s c.m.src x.part && reach) false true [])
      (let s := hbmWrite s x.part dest r
       (if clear then putCell s ci x.cleared else s, some ⟨eOk, r.length, 0, 0, 0⟩))

def execCellStats (m : Msg) (s : State) : Out := runCommand 0x0803 0x102 32 carryCellStats m s

end Sys2Proof.Machine
end

