-- ==== Sys2Proof/Machine/Partitions.lean ====
section
/-! DEFINITION. Partitions and the ledger: creating, destroying, binding, querying, reading accounts
(13 R332-R336, R344, R347-R351; 12 R312). -/

namespace Sys2Proof.Machine

/-! ### What PART_CREATE takes (13 R333) -/

/-- Whether a range of n from a meets no range of a list. -/
def freeAt (used : List (Nat × Nat)) (a n : Nat) : Bool := used.all fun u => !rangesClash u.1 u.2 a n
where
  rangesClash (a n b m : Nat) : Bool := decide (a < b + m) && decide (b < a + n)

/-- The lowest-numbered contiguous free range of n below a total. -/
def lowestRun (used : List (Nat × Nat)) (total n : Nat) : Option Nat :=
  let starts := (used.map fun u => u.1 + u.2).foldl (fun l a => insertAsc a l) [0]
  starts.find? fun a => decide (a + n ≤ total) && freeAt used a n

/-- The longest contiguous free range below a total. -/
def longestRun (used : List (Nat × Nat)) (total : Nat) : Nat :=
  let starts := (used.map fun u => u.1 + u.2).foldl (fun l a => insertAsc a l) [0]
  starts.foldl (fun m a =>
    let stop := (used.filter fun u => decide (a ≤ u.1 ∧ 0 < u.2)).foldl (fun n u => min n u.1) total
    if freeAt used a 1 then max m (stop - a) else m) 0

/-- Every partition that holds resources, one being destroyed included. -/
def allParts (s : State) : List Part := s.work.parts.map Prod.snd

/-- Partition p owns a core. -/
def ownerOf (s : State) (c : Nat) : Option (Nat × Part) := s.work.parts.find? fun e => c ∈ e.2.owned

/-- The lowest-numbered free enabled engines of a kind: 1 LD, 2 PL, 3 LE. -/
def freeEngines (s : State) (kind total : Nat) : List Nat :=
  (List.range total).filter fun i => !disabled s kind i && !(allParts s).any fun q =>
    i ∈ (match kind with
      | 1 => q.ld
      | 2 => q.pl
      | _ => q.le)

/-- Free physical pages of each stack, ascending: no partition holds them, and they are not retired (12 R311, 19 R512). -/
def freePages (s : State) : List (List Nat) :=
  let used := (allParts s).flatMap (·.allot) ++ s.rel.retired
  (List.range 4).map fun k => ((List.range 12288).map fun i => 12288 * k + i).filter fun g => g ∉ used

/-- Deals n pages from the stacks in turn, from stack `turn`, skipping a stack with none (12 R312). -/
def dealPages : Nat → Nat → List (List Nat) → List Nat
  | 0, _, _ => []
  | n + 1, turn, piles =>
    match (List.range 4).find? fun k => nth [] piles ((turn + k) % 4) ≠ [] with
    | none => []
    | some k =>
      let i := (turn + k) % 4
      (nth [] piles i).headD 0 :: dealPages n ((turn + 1) % 4) (modNth piles i List.tail)

/-- VLAN entry i of PART_CREATE (13 R332). -/
def vlanEntry (c : Ctx) (i : Nat) : Vlan := { mac := c.f (0x38 + 4 * i) 1, kind := c.f (0x39 + 4 * i) 1, vid := c.f (0x3A + 4 * i) 2 }

/-- The cores that PART_CREATE names. -/
def namedCores (c : Ctx) : List Nat := (List.range 72).filter fun p => bit (c.f 0x20 8 + c.f 0x28 1 * 2 ^ 64) p

/-- Whether the fields of PART_CREATE are in their ranges (13 R332, R335). -/
def partFieldsOk (c : Ctx) : Bool :=
  let n := c.f 0x34 1
  let vs := (List.range n).map (vlanEntry c)
  decide (c.f 0x10 1 ≤ 7) && decide (c.f 0x11 1 < 8) && decide (c.f 0x12 1 ≤ 8)
    && (if bit (c.f 0x11 1) 2 then decide (1 ≤ c.f 0x13 1 ∧ c.f 0x13 1 ≤ 12) else decide (c.f 0x13 1 = 0))
    && decide (c.f 0x14 2 ≤ 8192) && decide (c.f 0x16 2 ≤ 8192) && decide (1 ≤ c.f 0x1C 4 ∧ c.f 0x1C 4 ≤ 32768)
    && decide (c.f 0x29 1 ≤ 24) && decide (c.f 0x2A 1 ≤ 8) && decide (c.f 0x2B 1 ≤ 16) && decide (n ≤ 8) && c.zero 0x35 0x38
    && c.zero 0x5C 0x60 && c.zero (0x38 + 4 * n) 0x58 && (vs.all fun v => decide (v.mac ≤ 7 ∧ v.kind ≤ 3 ∧ v.vid < 4096))
    && decide (dedup (vs.map fun v => (v.mac, v.vid)) = vs.map fun v => (v.mac, v.vid)) && decide (namedCores c ≠ [])

/-- A refusal of PART_CREATE for want of a resource: its code, what is required, what is available. -/
def lack (code need have_ : Nat) : Option Done := some ⟨eResource, code, need, have_, 0⟩

/-- The E_RESOURCE rows of R335, in order. -/
def partResources (s : State) (c : Ctx) : Option Done :=
  let p := c.f 0x10 1
  let named := namedCores c
  let owner := fun k => (ownerOf s k).filter fun e => e.1 ≠ p
  let usable := named.filter fun k => !disabled s 0 k && (match owner k with
    | none => true
    | some e => e.2.lending && e.2.destroying.isNone)
  let borrowed := named.filter fun k => (owner k).isSome
  let own := named.filter fun k => (owner k).isNone
  let mayBorrow := if bit (c.f 0x11 1) 1 then borrowed.filter fun k =>
      !((allParts s).any fun q => k ∈ q.borrowed) && !((owner k).any fun e => e.2.isExact k) else []
  let tills := (allParts s).map fun q => (q.tillFirst, q.tillCount)
  let tallies := (allParts s).map fun q => (q.tallyFirst, q.tallyCount)
  let vs := (List.range (c.f 0x34 1)).map (vlanEntry c)
  let freeVs := vs.filter fun v => !(allParts s).any fun q => q.vlans.any fun w => w.mac = v.mac ∧ w.vid = v.vid
  let fs := (List.range 32).filter fun f => bit (c.f 0x18 4) f
  let freeFs := fs.filter fun f => !(allParts s).any fun q => q.functions.getLsbD f
  let pages := sumNat ((freePages s).map List.length)
  let sum := fun (g : Part → Nat) => sumNat ((allParts s).map g)
  let hbm := sum fun q => q.purseHbm + q.purseIod
  let exact := sum fun q => q.exact
  if usable.length < named.length then lack 0x01 named.length usable.length
  else if mayBorrow.length < borrowed.length then lack 0x0D borrowed.length mayBorrow.length
  else if freeFs.length < fs.length then lack 0x02 fs.length freeFs.length
  else if (lowestRun tills 8192 (c.f 0x14 2)).isNone then lack 0x03 (c.f 0x14 2) (longestRun tills 8192)
  else if (lowestRun tallies 8192 (c.f 0x16 2)).isNone then lack 0x04 (c.f 0x16 2) (longestRun tallies 8192)
  else if (freeEngines s 1 24).length < c.f 0x29 1 then lack 0x05 (c.f 0x29 1) (freeEngines s 1 24).length
  else if (freeEngines s 2 8).length < c.f 0x2A 1 then lack 0x06 (c.f 0x2A 1) (freeEngines s 2 8).length
  else if (freeEngines s 3 16).length < c.f 0x2B 1 then lack 0x07 (c.f 0x2B 1) (freeEngines s 3 16).length
  else if pages < c.f 0x1C 4 then lack 0x08 (c.f 0x1C 4) pages
  else if own.length < c.f 0x12 1 then lack 0x09 (c.f 0x12 1) own.length
  else if 8 < exact + c.f 0x12 1 then lack 0x09 (c.f 0x12 1) (8 - exact)
  else if 4915200 < hbm + c.f 0x2C 4 + c.f 0x58 4 then lack 0x0A (c.f 0x2C 4 + c.f 0x58 4) (4915200 - hbm)
  else if 200000 < sum (fun q => q.purseLink) + c.f 0x30 4 then lack 0x0B (c.f 0x30 4) (200000 - sum fun q => q.purseLink)
  else if freeVs.length < vs.length then lack 0x0C vs.length freeVs.length
  else none

/-- The partition that PART_CREATE makes (R333). -/
def makePart (s : State) (c : Ctx) : Part :=
  let p := c.f 0x10 1
  let named := namedCores c
  let taken := fun k => (ownerOf s k).isSome
  let owned := named.filter fun k => !taken k
  { allowLc := bit (c.f 0x11 1) 0, allowBe := bit (c.f 0x11 1) 1, lending := bit (c.f 0x11 1) 2, exact := c.f 0x12 1,
    exactCores := owned.drop (owned.length - c.f 0x12 1), gate := decide (16 < owned.length), lendSegments := c.f 0x13 1,
    tillFirst := (lowestRun ((allParts s).map fun q => (q.tillFirst, q.tillCount)) 8192 (c.f 0x14 2)).getD 0, tillCount := c.f 0x14 2,
    tallyFirst := (lowestRun ((allParts s).map fun q => (q.tallyFirst, q.tallyCount)) 8192 (c.f 0x16 2)).getD 0,
    tallyCount := c.f 0x16 2, functions := BitVec.ofNat 32 (c.f 0x18 4), owned := owned,
    borrowed := named.filter taken, ld := (freeEngines s 1 24).take (c.f 0x29 1), pl := (freeEngines s 2 8).take (c.f 0x2A 1),
    le := (freeEngines s 3 16).take (c.f 0x2B 1), purseHbm := c.f 0x2C 4, purseLink := c.f 0x30 4, purseIod := c.f 0x58 4,
    vlans := (List.range (c.f 0x34 1)).map (vlanEntry c), allot := dealPages (c.f 0x1C 4) (p % 4) (freePages s), mapped := [],
    mapping := [], unmapping := [], destroying := none }

/-- Sets a range of tallies to 0. -/
def zeroTallies (s : State) (first n : Nat) : State :=
  updWork s fun w => { w with tallies := w.tallies.filter fun e => e.1 < first || first + n ≤ e.1 }

/-- PART_CREATE. -/
def carryPartCreate : Carry := fun c s =>
  let p := c.f 0x10 1
  whenOk s (c.checks s (partFieldsOk c) (isRoot c.m.src) false true [((Tbl.find s.work.parts p).isNone, eState)])
    (match partResources s c with
      | some d => (s, some d)
      | none =>
        let q := makePart s c
        let s := updWork s fun w => { w with
          parts := Tbl.put w.parts p q, ledger := w.ledger.filter (fun e => e.part ≠ p) ++ [Ledger.zero p 3 totalClient] }
        let s := zeroTallies s q.tallyFirst q.tallyCount
        let s := updPower s fun w => { w with parts := Tbl.del w.parts p }
        (s, some ⟨eOk, q.tillFirst, q.tallyFirst, q.owned.length, 0⟩))

def execPartCreate (m : Msg) (s : State) : Out := runCommand 0x0100 0x100 96 carryPartCreate m s

/-! ### The other partition commands (13 R336) -/

/-- Checks that they share. -/
def Ctx.partChecks (c : Ctx) (s : State) (fields tenant : Bool) (rest : Part → List (Bool × Nat)) : Option Nat :=
  let p := c.f 0x10 1
  let fields := fields && decide (p ≤ 7)
  match getPart s p with
  | none => c.checks s fields tenant false true [(false, eState)]
  | some q => c.checks s fields tenant false true (rest q)

/-- Whether a partition holds a loaded job, one being loaded, an open service, or a core that another borrows. -/
def partBusy (s : State) (p : Nat) (q : Part) : Bool :=
  (s.work.jobs.any fun e => e.2.part = p) || (s.work.loading.any fun l => l.job.part = p) || (s.services.any fun e => e.2.part = p)
    || s.work.parts.any fun e => e.1 ≠ p && e.2.borrowed.any fun c => c ∈ q.owned

/-- Releases the tills of a partition. -/
def releaseTills (s : State) (p : Nat) : State :=
  { s with host := { s.host with tills := s.host.tills.filter fun e => !(decide (partTill p 0 ≤ e.1) && decide (e.1 < partTill (p + 1) 0)) } }

/-- PART_DESTROY: from its acceptance the partition does not exist; its segments are rinsed and its pages zeroed. -/
def carryPartDestroy : Carry := fun c s =>
  let p := c.f 0x10 1
  whenOk s (c.partChecks s (c.zero 0x11 0x18) (isRoot c.m.src) fun q => [(!partBusy s p q, eState)])
    (match getPart s p with
      | none => refuse s eState
      | some q =>
        let waits := s.work.monitors.filter fun m => m.part = p
        let s := waits.foldl (fun s m => completeWith s m.ticket eAborted) s
        let s := (q.mapping ++ q.unmapping).foldl (fun s r => completeWith s r.ticket eAborted) s
        let s := updWork s fun w => { w with monitors := w.monitors.filter fun m => m.part ≠ p }
        let s := updPart s p fun q => { q with destroying := some c.tid, functions := 0, mapped := [], mapping := [], unmapping := [] }
        let s := releaseTills s p
        (startRinse s ((q.owned.filter fun k => !disabled s 0 k).map fun k => (k, List.range 12)) .other, none))

def execPartDestroy (m : Msg) (s : State) : Out := runCommand 0x0101 0x100 24 carryPartDestroy m s

/-- PART_DESTROY_COMPLETE: every owned segment is rinsed and every page zeroed; the index and its resources are free. -/
def execPartDestroyComplete (part : Nat) (s : State) : Out :=
  .next (match Tbl.find s.work.parts part with
    | none => s
    | some q =>
      match q.destroying with
      | none => s
      | some t =>
        if q.owned.any fun c => (getCore s c).rinsing ≠ [] then s
        else
          let s := updWork s fun w => { w with
            hbm := q.allot.foldl (fun m g => Mem.zero m (g * pageBytes) ((g + 1) * pageBytes)) w.hbm
            parts := Tbl.del w.parts part
            ledger := w.ledger.filter fun e => e.part ≠ part }
          let s := zeroTallies s q.tallyFirst q.tallyCount
          let s := updPower s fun w => { w with parts := Tbl.del w.parts part }
          finish (q.owned.foldl restSegs s) t (Done.of eOk))

/-- PART_BIND. -/
def carryPartBind : Carry := fun c s =>
  let p := c.f 0x10 1
  let f := c.f 0x11 1
  let unbind := c.f 0x12 1 = 1
  let here := boundTo s f = some p
  let owns := s.work.jobs.any fun e => match e.2.owner with
    | .fn g => decide (g.val = f)
    | _ => false
  whenOk s (c.partChecks s (decide (f ≤ 31) && decide (c.f 0x12 1 ≤ 1) && c.zero 0x13 0x18) (isRoot c.m.src) fun _ =>
      [(!unbind || here, eState), (!unbind || !owns, eBusy), (unbind || here || (boundTo s f).isNone, eResource)])
    (updPart s p fun q =>
      { q with functions := if unbind then q.functions &&& ~~~BitVec.ofNat 32 (2 ^ f) else q.functions ||| BitVec.ofNat 32 (2 ^ f) },
     some (Done.of eOk))

def execPartBind (m : Msg) (s : State) : Out := runCommand 0x0102 0x100 24 carryPartBind m s

/-- PART_QUERY. -/
def carryPartQuery : Carry := fun c s =>
  let p := c.f 0x10 1
  whenOk s (c.partChecks s (c.zero 0x11 0x18) (hostOf s c.m.src p) fun _ => [])
    (match getPart s p with
      | none => refuse s eState
      | some q =>
        (s, some ⟨eOk,
          q.owned.length + 256 * q.borrowed.length + 65536 * q.exact + 2 ^ 20 * b2n q.gate
            + 2 ^ 21 * (b2n q.allowLc + 2 * b2n q.allowBe + 4 * b2n q.lending) + 2 ^ 24 * q.lendSegments,
          q.functions.toNat, q.allot.length, q.purseHbm⟩))

def execPartQuery (m : Msg) (s : State) : Out := runCommand 0x0103 0x100 24 carryPartQuery m s

/-! ### The ledger (13 R348, R351) -/

/-- The 128 bytes of a ledger entry (R348). -/
def ledgerBytes (s : State) (e : Ledger) : List Byte :=
  leBytes 4 e.client ++ leBytes 1 e.kind ++ leBytes 1 e.part
    ++ leBytes 2 (b2n e.capBinding + 2 * b2n e.thermal + 4 * b2n e.overflow + 8 * b2n e.ended) ++ leBytes 4 s.sys.version.toNat
    ++ leBytes 4 e.deadlineMiss ++ leBytes 8 e.invocations ++ leBytes 8 e.activeCycles ++ leBytes 8 e.waitCycles
    ++ leBytes 8 e.skippedPulses ++ leBytes 8 e.queueNs ++ leBytes 8 e.preemptions ++ leBytes 8 e.preemptedNs ++ leBytes 8 e.hbmRead
    ++ leBytes 8 e.hbmWrite ++ leBytes 8 e.linkBytes ++ leBytes 8 e.portBytes ++ leBytes 8 e.energyUj ++ leBytes 4 e.aborts
    ++ leBytes 4 0 ++ leBytes 8 e.barrierNs

/-- Order of entries: the total first, then by KIND and CLIENT. -/
def ledgerKey (e : Ledger) : Nat := if e.kind = 3 then 0 else 1 + e.kind * 2 ^ 32 + e.client

/-- Inserts an entry in that order. -/
def insertLedger (e : Ledger) : List Ledger → List Ledger
  | [] => [e]
  | x :: l => if ledgerKey e < ledgerKey x then e :: x :: l else x :: insertLedger e l

/-- The entries of a partition, in the order of LEDGER_READ. -/
def ledgerOf (s : State) (p : Nat) : List Ledger := (s.work.ledger.filter fun e => e.part = p).foldl (fun l e => insertLedger e l) []

/-- An entry whose counters are 0. -/
def Ledger.cleared (e : Ledger) : Ledger :=
  { Ledger.zero e.part e.kind e.client with capBinding := e.capBinding, thermal := e.thermal, overflow := e.overflow, ended := e.ended }

/-- LEDGER_READ. -/
def carryLedgerRead : Carry := fun c s =>
  let p := c.f 0x10 1
  let n := c.f 0x14 4
  let d := c.f 0x18 8
  let t := divideServices s p
  let all := ledgerOf t p
  let out := all.take n
  let fields := decide (c.f 0x11 1 < 2) && c.zero 0x12 0x14 && decide (1 ≤ n ∧ n ≤ 8193) && aligned d 64
  let reach := (match getPart s p with
    | some q => q.holds d (128 * out.length)
    | none => true)
  whenOk s (c.partChecks s fields (hostOf s c.m.src p && reach) fun _ => [])
    (let s := hbmWrite t p d (out.flatMap (ledgerBytes t))
     let s := if c.f 0x11 1 = 1 then updWork s fun w =>
         { w with ledger := (w.ledger.filter fun e => !(e ∈ out && e.ended)).map fun e => if e ∈ out then e.cleared else e }
       else s
     (s, some ⟨eOk, out.length, all.length, 0, 0⟩))

def execLedgerRead (m : Msg) (s : State) : Out := runCommand 0x0500 0x100 32 carryLedgerRead m s

/-- LEDGER_CLEAR. -/
def carryLedgerClear : Carry := fun c s =>
  let p := c.f 0x10 1
  whenOk s (c.partChecks s (c.zero 0x11 0x18) (hostOf s c.m.src p) fun _ => [])
    (updWork (divideServices s p) fun w =>
      { w with ledger := (w.ledger.filter fun e => !(e.part = p && e.ended)).map fun e => if e.part = p then e.cleared else e },
     some (Done.of eOk))

def execLedgerClear (m : Msg) (s : State) : Out := runCommand 0x0501 0x100 24 carryLedgerClear m s

end Sys2Proof.Machine
end

