-- ==== Sys2Proof/Machine/Control.lean ====
section
/-! DEFINITION. Sessions, tills and device time by command (16 R425-R429, R436). -/

namespace Sys2Proof.Machine

/-! ### HELLO and BYE (16 R425, R426) -/

/-- The device's offer of a major version: HELLO area words of R397. -/
def offerWord (major : Nat) : Nat := (if major = 1 then 6 else 3) * 256 + 65536

/-- Highest minor in the offerOverlap of an offered word and the device's range of a major. -/
def offerOverlap (word major : Nat) : Option Nat :=
  let top := min (bits word 15 8) (if major = 1 then 6 else 3)
  if bit word 16 ∧ bits word 7 0 ≤ top then some top else none

/-- Whether an offer has MIN above MAX. -/
def offerBad (word : Nat) : Bool := bit word 16 && decide (bits word 15 8 < bits word 7 0)

/-- Job image formats held under a major version, a bit for each (R397, R427). -/
def formatsOf (major : Nat) : Nat := if major = 2 then 0x18 else 0x08

/-- Opens a session. -/
def openSession (s : State) (src : Source) (v : Nat × Nat) : State :=
  match src with
  | .fn f => updFn s f.val fun k => { k with session := some v }
  | .mgmt => updMgmt { s with host := { s.host with mgmtSession := some v } } fun m => { m with holder := m.current }
  | .client _ => s

/-- HELLO. -/
def carryHello : Carry := fun c s =>
  let o1 := c.f 0x10 4
  let o2 := c.f 0x14 4
  let fields := decide (o1 < 2 ^ 17 ∧ o2 < 2 ^ 17) && c.zero 0x1C 0x20
  whenOk s (c.checks s fields true false true
      [((sessionOf s c.m.src).isNone, eState), (!offerBad o1 && !offerBad o2, eVersion)])
    (let v := match offerOverlap o2 2 with
      | some n => some (2, n)
      | none => (offerOverlap o1 1).map fun n => (1, n)
     match v with
     | none => (s, some ⟨eVersion, offerWord 1, offerWord 2, 0, 0⟩)
     | some v =>
       let fn := match c.m.src with
         | .fn f => f.val
         | _ => 0
       (openSession s c.m.src v, some ⟨eOk, v.2 + 256 * v.1, s.sys.version.toNat, formatsOf v.1 + 256 * 0x06, fn⟩))

def execHello (m : Msg) (s : State) : Out := runCommand 0x0000 0 32 carryHello m s

/-- BYE: the session ends; the completion waits for the source's earlier commands. -/
def carryBye : Carry := fun c s =>
  whenOk s (c.checks s true true false true [])
    (let s := endSession s c.m.src
     ({ s with host := { s.host with byes := s.host.byes ++ [(c.tid, c.m.src)] } }, none))

def execBye (m : Msg) (s : State) : Out := runCommand 0x0001 0x100 16 carryBye m s

/-! ### TILL_CONFIG and TILL_RESET (16 R428, R429) -/

/-- The lowest-addressed run of D free slots in 24,576 to 262,143, leaving out the ring of one till. -/
def freeSlots (s : State) (n d : Nat) : Option Nat :=
  let used := (s.host.tills.filter fun e => decide (96 ≤ e.1) && decide (e.1 ≠ n) && e.2.state ≠ .unconfigured).map fun e =>
    (e.2.base.toNat, e.2.slots)
  lowestRun ((0, 24576) :: used) 262144 d

/-- Whether a doorbell of a function is bound to another till than n. -/
def doorbellBound (s : State) (f d n : Nat) : Bool :=
  s.host.tills.any fun e => e.1 ≠ n && e.2.state ≠ .unconfigured && e.2.fn = f && e.2.doorbell.toNat = d

/-- The function that a source acts as: management holds the rights of PF0. -/
def srcFn : Source → Nat
  | .fn f => f.val
  | _ => 0

/-- Encodings that are reserved whatever ACTION says, and MIRROR, which version 1.5 introduces (00 R7, R14). -/
def tillCodesOk (c : Ctx) : Bool :=
  decide (c.f 0x13 1 ≤ 4) && decide (c.f 0x14 1 ≤ 6) && decide (c.f 0x15 1 < 2) && (!bit (c.f 0x15 1) 0 || decide (0x105 ≤ c.ver))

/-- Ranges of the fields that a configuration uses. -/
def tillFieldsOk (c : Ctx) : Bool :=
  let kind := c.f 0x13 1
  let mirror := bit (c.f 0x15 1) 0
  let db := c.f 0x16 2
  (decide (3 ≤ db ∧ db ≤ 511) || decide (db = 0x3FF)) && decide (c.f 0x18 2 ≤ 2047) && aligned (c.f 0x20 8) 4096
    && (mirror || decide (c.f 0x20 8 = 0)) && !(mirror && (decide (kind = 0) || decide (kind = 4)))

/-- Whether a service names a till as its request till. -/
def tillServed (s : State) (p t : Nat) : Bool :=
  s.services.any fun e => e.2.part = p && decide (bodyField e.2.fields 0x18 2 = t)

/-- TILL_CONFIG. -/
def carryTillConfig : Carry := fun c s =>
  let t := c.f 0x10 2
  let p := c.f 0x1C 1
  let release := c.f 0x12 1 = 1
  let kind := c.f 0x13 1
  let fields := decide (c.f 0x12 1 ≤ 1) && decide (p ≤ 7) && c.zero 0x1D 0x20 && c.zero 0x28 0x30 && tillCodesOk c
    && (release || tillFieldsOk c)
  let n := partTill p t
  let dflt := c.f 0x1A 2
  match getPart s p with
  | none => whenOk s (c.checks s fields (isRoot c.m.src) false true [(false, eState)]) (s, none)
  | some q =>
    let replyOk := release || decide (kind ≠ 0) || decide (dflt = 0xFFFF)
      || (decide (dflt < q.tillCount) && (getTill s (partTill p dflt)).kind = 1)
    let old := getTill s n
    let f := srcFn c.m.src
    let d := 64 * 2 ^ c.f 0x14 1
    whenOk s (c.checks s fields (hostOf s c.m.src p && decide (t < q.tillCount) && replyOk) false true
        (if release then [(!(old.kind = 4 && tillServed s p t), eBusy)]
         else [(old.state ≠ .running, eState), (decide (c.f 0x16 2 = 0x3FF) || !doorbellBound s f (c.f 0x16 2) n, eState),
           ((freeSlots s n d).isSome, eResource)]))
      (if release then
         ({ s with host := { s.host with tills := Tbl.del s.host.tills n } }, some (Done.of eOk))
       else
         let base := (freeSlots s n d).getD 0
         let x : Till :=
           { Till.none with
             state := .running, depth := BitVec.ofNat 3 (c.f 0x14 1), kind := BitVec.ofNat 3 kind,
             doorbell := BitVec.ofNat 10 (c.f 0x16 2), base := BitVec.ofNat 18 base, vector := BitVec.ofNat 11 (c.f 0x18 2),
             mirror := bit (c.f 0x15 1) 0, mirrorAddr := BitVec.ofNat 64 (c.f 0x20 8), holder := c.m.src,
             defaultReply := if dflt = 0xFFFF then fnTill f 1 else partTill p dflt, reserved := old.reserved }
         (updTill s n fun _ => x, some ⟨eOk, base, 0, 0, 0⟩))

def execTillConfig (m : Msg) (s : State) : Out := runCommand 0x0002 0x100 48 carryTillConfig m s

/-- The till that TILL_RESET names. -/
def resetTarget (s : State) (src : Source) (t : Nat) : Option Nat :=
  if t = 0xFFFD then some (fnTill (srcFn src) 0)
  else if t = 0xFFFE then some (fnTill (srcFn src) 2)
  else if t = 0xFFFF then some (fnTill (srcFn src) 1)
  else
    match srcPart s src with
    | none => none
    | some p =>
      match getPart s p with
      | some q => if t < q.tillCount then some (partTill p t) else none
      | none => none

/-- A till returns to RUNNING, empty; slots reserved for commands in progress stay reserved. -/
def restartTill (s : State) (n : Nat) : State :=
  updTill s n fun t => { t with state := .running, prod := 0, cons := 0, reason := 0 }

/-- TILL_RESET. -/
def carryTillReset : Carry := fun c s =>
  let t := c.f 0x10 2
  let fields := (decide (t ≤ 8191) || decide (0xFFFD ≤ t)) && c.zero 0x12 0x18
  let target := resetTarget s c.m.src t
  let x := getTill s (target.getD 0)
  whenOk s (c.checks s fields target.isSome false true [(x.state = .error || x.state = .stopped, eState)])
    (restartTill s (target.getD 0), some (Done.of eOk))

def execTillReset (m : Msg) (s : State) : Out := runCommand 0x0003 0x100 24 carryTillReset m s

/-! ### TIME_QUERY (16 R436) -/

/-- Code of a synchronisation state (16 R436, 17 R465). -/
def syncCode : SyncState → Nat
  | .freeRun => 0
  | .acquiring => 1
  | .locked => 2
  | .holdover => 3

/-- TIME_QUERY. -/
def carryTimeQuery : Carry := fun c s =>
  whenOk s (c.checks s true true false true [])
    (let t := s.net.timing.time.toNat
     (s, some ⟨eOk, bits t 31 16 * 65536 + syncCode s.net.timing.state + 8 * b2n s.net.timing.ppsLost, bits t 63 32, bits t 95 64,
       bits t 127 96⟩))

def execTimeQuery (m : Msg) (s : State) : Out := runCommand 0x0700 0x100 16 carryTimeQuery m s

end Sys2Proof.Machine
end

