-- ==== Sys2Proof/Machine/FnReset.lean ====
section
/-! DEFINITION. Function resets (15 R412, R413; 12 R330, 13 R337, 22 R570). -/

namespace Sys2Proof.Machine

/-- READY, RECOVERY or FATAL has changed: IRQ_CAUSE.STATUS of every function (15 R399). -/
def statusChanged (s : State) : State := (List.range 32).foldl (fun s f => raiseCause s f 2) s

/-- Tills that a function holds: its function tills, and the partition tills it has configured. -/
def heldTills (s : State) (f : Fin 32) : List Nat :=
  ([0, 1, 2].map fun k => fnTill f.val k)
    ++ (s.host.tills.filter fun e => decide (96 ≤ e.1) && e.2.holder = .fn f && e.2.state ≠ .unconfigured).map Prod.fst

/-- A till stops with REASON RESET: what waits in a command till is discarded, its doorbell is no longer bound (R413). -/
def stopTill (s : State) (n : Nat) : State :=
  updTill s n fun t =>
    { t with state := .stopped, reason := 5, doorbell := 0x3FF, cons := if t.kind = 0 ∨ t.kind = 4 then t.prod else t.cons }

/-- The commands of a source that run when it is reset: their completions will be discarded, and slots reserved for them are free
again; a completion due in a stopped till counts as discarded (R413). -/
def forgetTickets (s : State) (src : Source) : State :=
  let mine := s.host.tickets.filter fun t => t.src = src
  let s := mine.foldl (fun s t => updTill s t.reply fun x =>
    { x with
      reserved := x.reserved - 1
      dropped := if x.state = .stopped then BitVec.ofNat 16 (satAdd 16 x.dropped.toNat 1) else x.dropped }) s
  { s with host := { s.host with
      tickets := s.host.tickets.filter fun t => t.src ≠ src
      byes := s.host.byes.filter fun b => b.2 ≠ src } }

/-- The work that a function owns ends: its cells stop, its services lose their sessions, its other invocations abort (13 R337,
11 R302, 16 R443). -/
def abortOwned (s : State) (src : Source) : State :=
  let s := (s.radio.cells.filter fun e => e.2.owner = src).foldl (fun s e => stopCell s e.1 4 0 []) s
  let s := (s.services.filter fun e => e.2.owner = src || (getJob s e.2.job).elim false fun j => j.owner = src).foldl (fun s e =>
    closeService (abortRun s e.2.job eAborted none []) e.1 3) s
  settleRounds (abortWhere s (fun _ j => decide (j.owner = src)) eAborted none [])

/-- A function reset is accepted (R413, first three rows). `soft`: by FN_CONTROL.SOFT_RESET. -/
def beginFnReset (s : State) (f : Fin 32) (soft : Bool) : State :=
  if (getFn s f.val).resetting then s
  else
    let src : Source := .fn f
    let s := updFn s f.val fun k => { k with resetting := true, softReset := soft }
    let s := (heldTills s f).foldl stopTill s
    let s := updWork s fun w => { w with monitors := w.monitors.filter fun m => m.src ≠ src }
    overflowReset (forgetTickets (abortOwned s src) src) f.val

/-- The function tills of a function return to RUNNING, empty. -/
def freshFnTills (s : State) (f : Fin 32) : State :=
  [0, 1, 2].foldl (fun s k => updTill s (fnTill f.val k) fun t => { Till.function f k with dropped := t.dropped, seq := t.seq, lost := t.lost }) s

/-- MW0 registers at their reset values; a soft reset keeps configuration space and the MSI-X table (R412, R413). -/
def resetFnRegs (k : Fn) (soft : Bool) : Fn :=
  if soft then { Fn.reset with busMaster := k.busMaster, msixEnable := k.msixEnable, msixMask := k.msixMask, msixTable := k.msixTable }
  else Fn.reset

/-- The end of a function reset (R413, last row). -/
def finishFnReset (s : State) (f : Fin 32) : State :=
  let k := getFn s f.val
  if k.resetting then
    let s := updFn s f.val fun k => resetFnRegs k k.softReset
    let s := freshFnTills s f
    if k.softReset then raiseCause s f.val 3 else s
  else s

/-- FUNCTION_RESET_DONE. -/
def execFunctionResetDone (f : Fin 32) (s : State) : Out := .next (finishFnReset s f)

/-- Every VF resets, and none exists on the link any more (R387, R412). -/
def resetVfs (s : State) (fs : List (Fin 32)) : State := (fs.filter fun f => f.val ≠ 0).foldl (fun s f => beginFnReset s f false) s

/-- All functions. -/
def allFns : List (Fin 32) := List.finRange 32

/-- FUNCTION_LEVEL_RESET: of a VF, or of PF0 and with it of every VF, since VF Enable clears (R412). -/
def execFunctionLevelReset (f : Fin 32) (s : State) : Out :=
  .next (if f.val ≠ 0 then (if present s f.val then beginFnReset s f false else s)
  else
    let vfs := allFns.filter fun g => present s g.val
    let s := resetVfs s vfs
    beginFnReset (updChip s fun c => { c with vfEnable := false, numVFs := 0 }) f false)

/-- SOFT_RESET: FN_CONTROL.SOFT_RESET is written 1 (R395, R416). -/
def execSoftReset (f : Fin 32) (s : State) : Out := .next (if s.sys.ready ∧ present s f.val then beginFnReset s f true else s)

/-- VF_DISABLE: VF Enable is cleared (NumVFs 0), or NumVFs changes: every VF resets (R412). -/
def execVfDisable (numVFs : Nat) (s : State) : Out :=
  .next (
    let s := resetVfs s (allFns.filter fun g => present s g.val)
    updChip s fun c => { c with vfEnable := decide (0 < numVFs), numVFs := min numVFs 31 })

/-- A conventional reset acts on every function; PERST_N and a link that is down keep the link down until it trains again (22 R570). -/
def conventionalReset (s : State) : State :=
  let s := allFns.foldl (fun s f => beginFnReset s f false) s
  updChip s fun c => { c with vfEnable := false, numVFs := 0, d3hot := false }

/-- PCIE_CONVENTIONAL_RESET; during a warm restart the functions reset after READY (22 R571). -/
def execPcieConventionalReset (cause : ConvReset) (s : State) : Out :=
  .next (
    let down : Bool := match cause with
      | .hotReset => false
      | _ => true
    let s := updSys s fun y => { y with perstN := if cause = .perst then false else y.perstN }
    let s := updChip s fun c => { c with linkUp := c.linkUp && !down }
    if s.sys.boot.isSome then updSys s fun y => { y with resetAfterReady := true } else conventionalReset s)

end Sys2Proof.Machine
end

