-- ==== Sys2Proof/Machine/Restart.lean ====
section
/-! DEFINITION. Boot, cold reset, warm restart and recovery mode (22 R556-R571; 20 R519, R521-R525, R530, R532, R534, R536, R537;
19 R501, R504, R511-R513). -/

namespace Sys2Proof.Machine

/-! ### Boot slots and the commit record (20 R519, R521, R522) -/

/-- The reason code of the first check of R519 that an image fails. -/
def slotFails (s : State) (x : FwSlot) : Option Nat :=
  if ¬ x.headerOk then some 5
  else if ¬ x.ecdsaHash ∨ s.sec.fuses.ecdsaRevoked.getLsbD x.ecdsaKey then some 4
  else if ¬ x.mldsaHash ∨ s.sec.fuses.mldsaRevoked.getLsbD x.mldsaKey then some 4
  else if x.svn < s.sec.fuses.svnFloor then some 3
  else if ¬ x.ecdsaSig then some 1
  else if ¬ x.mldsaSig then some 2
  else if ¬ x.bodyOk then some 6
  else none

/-- A slot: B when `b`. -/
def slotOf (s : State) (b : Bool) : FwSlot := if b then s.sec.slotB else s.sec.slotA

/-- The valid copy of the commit record with the higher SEQ. -/
def commitRec (s : State) : Commit :=
  let a := s.sec.commitA
  let b := s.sec.commitB
  if b.valid ∧ (¬ a.valid ∨ a.seq < b.seq) then b else a

/-- Writes the commit record to the copy with the lower valid SEQ, SEQ incremented. -/
def writeCommit (s : State) (c : Commit) : State :=
  let a := s.sec.commitA
  let b := s.sec.commitB
  let c := { c with valid := true, seq := (commitRec s).seq + 1 }
  updSec s fun x => if ¬ a.valid ∨ (b.valid ∧ a.seq < b.seq) then { x with commitA := c } else { x with commitB := c }

/-- A record without a trial. -/
def Commit.settled (c : Commit) : Commit := { c with trial := false, tries := 0, trialVersion := 0, trialSvn := 0 }

/-- The slot that the commit record chooses, and whether it is on trial (R522). -/
def chooseSlot (s : State) : State × Bool × Bool :=
  let c := commitRec s
  if c.trial ∧ c.tries < 3 then
    let c' := { c with tries := c.tries + 1 }
    let s := writeCommit s c'
    if (slotFails s (slotOf s (!c.active))).isSome then (writeCommit s c'.settled, c.active, false) else (s, !c.active, true)
  else if c.trial then (writeCommit s c.settled, c.active, false)
  else (s, c.active, false)

/-! ### The boot ROM (20 R524, R532, R534, R536) -/

/-- 48 bytes of a SHA-384 value, big-endian. -/
def bytes48 (x : BitVec 384) : List Byte := (leBytes 48 x.toNat).reverse

/-- The life-cycle code of a stage, with the SERVICE flag (R532). -/
def lifeOf (f : Fuses) (service : Bool) : Nat := if f.stage = 2 ∧ f.transitions % 2 = 1 ∧ service then 3 else f.stage

/-- Whether debug is open in a life-cycle state (R524). -/
def debugOpen (lc : Nat) : Bool := lc ∈ [1, 3, 4]

/-- The owner seed hash; zero when no seed is held. -/
def ownerHash (s : State) : BitVec 384 :=
  match s.sec.ownerSeed with
  | some k => Config.sha384 (leBytes 32 k.toNat)
  | none => 0

/-- M1 of R524. -/
def measureM1 (signed : List Byte) (lc floor : Nat) (owner : BitVec 384) : BitVec 384 :=
  Config.sha384 (signed ++ leBytes 1 lc ++ leBytes 1 floor ++ leBytes 1 (b2n (debugOpen lc)) ++ bytes48 owner)

/-- CDI_L1 of R524. -/
def cdiL1 (m1 : BitVec 384) : BitVec 384 := Config.hmac384 (Config.hmac384 Config.uds (bytes48 Config.romDigest)) (bytes48 m1)

/-- Retention at a boot: what is lost with the canary, the boot counter, the canary written anew (R536). -/
def checkRetention (s : State) (cold : Bool) : State :=
  updSec s fun x =>
    let x := if x.canary then { x with cellLost := x.cellLost && !cold }
      else { x with
        cellLost := true, aonValid := false, aonS := 0, bootCount := 0, sealState := 2, sealArmed := false, serviceFlag := false }
    { x with bootCount := satInc x.bootCount 1, canary := true, aonRuns := true }

/-- Life cycle at a boot: a stage RETURNED with the owner seed still present erases it (R534); an odd transition whose flag is not
held is completed (R532). -/
def bootLife (s : State) : State :=
  updSec s fun x =>
    let x := if x.fuses.stage = 4 then { x with ownerSeed := none } else x
    let held := x.serviceFlag
    let x := if x.fuses.stage = 2 ∧ x.fuses.transitions % 2 = 1 ∧ ¬ held then
        { x with fuses := { x.fuses with transitions := x.fuses.transitions + 1 } } else x
    { x with lc := lifeOf x.fuses held, lcAtBoot := lifeOf x.fuses held, jtagToken := false }

/-- What every cold or warm boot does in the boot ROM: retention, life cycle, the slot, identity. Both slots failing halts it. -/
def bootRom (s : State) (cold : Bool) : State :=
  let s := bootLife (checkRetention s cold)
  let r := chooseSlot s
  let s := r.1
  let chosen := r.2.1
  let pass := (slotFails s (slotOf s chosen)).isSome
  let slot := if pass then !chosen else chosen
  if (slotFails s (slotOf s slot)).isSome then updSys s fun y => { y with boot := some .halted, fatal := true, ready := false }
  else
    let x := slotOf s slot
    let same := x.version = s.sys.version.toNat
    let s := updSec s fun y =>
      { y with
        bootSlot := slot, trialBoot := r.2.2 && !pass, passedOver := pass, trialAtBoot := (commitRec s).trial,
        transitionsAtBoot := y.fuses.transitions, svnRunning := x.svn, bootedSigned := x.signed,
        bootedVersion := x.version, ownerAtBoot := y.ownerSeed, floorAtBoot := y.fuses.svnFloor,
        cdiL1 := cdiL1 (measureM1 x.signed y.lc y.fuses.svnFloor (ownerHash s)) }
    updSys s fun y =>
      { y with
        version := BitVec.ofNat 32 x.version
        boot := some (if cold ∨ y.boot = some .cold then .cold else if same ∧ y.boot ≠ some .warmOther then .warmSame else .warmOther) }

/-! ### Cold reset (22 R556, R557, R559) -/

/-- What the security block keeps through a cold reset: fuses, always-on domain, boot flash; JUMPER sampled. -/
def coldSec (x : Sec) (strap : Bool) (aon : BitVec 32) : Sec :=
  { Sec.reset with
    fuses := x.fuses, lc := x.lc, serviceFlag := x.serviceFlag, canary := x.canary, aonS := aon, aonValid := x.aonValid,
    bootCount := x.bootCount, cellLost := x.cellLost, vbatLow := x.vbatLow, sealArmed := x.sealArmed, sealState := x.sealState,
    loopOpen := x.loopOpen, sealMisses := x.sealMisses, sealPolarity := x.sealPolarity, sealOpenS := x.sealOpenS, sealLog := x.sealLog,
    strapSvc := strap, jumper := strap, slotA := x.slotA, slotB := x.slotB, commitA := x.commitA, commitB := x.commitB,
    ownerSeed := x.ownerSeed, certStored := x.certStored }

/-- What reliability keeps: the persistent ring, the field map, the repair record, retired pages. -/
def coldRel (x : Rel) : Rel :=
  { Rel.reset with
    flashLog := x.flashLog, nextSeq := x.nextSeq, mapA := x.mapA, mapB := x.mapB, repairs := x.repairs, spares := x.spares,
    retired := x.retired }

/-- COLD_RESET: everything but boot flash, fuses and the always-on domain goes; the boot ROM runs (R557). `strap`: STRAP_SVC; `aon`:
what the always-on clock reads. -/
def coldReset (s : State) (strap : Bool) (aon : BitVec 32) : State :=
  let r := State.reset
  let s : State :=
    { r with
      sec := coldSec s.sec strap aon
      rel := coldRel s.rel
      optics := { r.optics with wear := s.optics.flash, flash := s.optics.flash }
      net := { r.net with macBase := s.net.macBase, relne := { r.net.relne with identity := s.net.relne.identity } }
      sys := { r.sys with version := s.sys.version, boardFlash := s.sys.boardFlash }
      sent := s.sent, pending := s.pending }
  let s := bootRom s true
  let s := if s.sec.aonValid then updTiming s fun t => { t with time := mkTime (s.sec.aonS.toNat * 1000000000) 0 } else s
  updRel s fun r => { r with since := nowNs s }

def execColdReset (strap : Bool) (aon : BitVec 32) (s : State) : Out := .next (coldReset s strap aon)

/-- PWRGOOD_FALL: every island clock stops; only a cold reset follows (R558). -/
def execPwrgoodFall (s : State) : Out :=
  .next (updSys s fun y => { y with pwrgood := false, clocks := false, ready := false })

/-! ### Warm restart (22 R565-R567) -/

/-- The segments that are RESIDENT: those of the latency-critical jobs of started cells (R565). -/
def residentSegs (s : State) (c : Nat) : BitVec 12 :=
  s.work.jobs.foldl (fun m e => match e.2.kind with
    | .cellUp _ | .cellDown _ => (match e.2.instOn c with
      | some i => m ||| i.segments
      | none => m)
    | _ => m) 0

/-- A core at the trigger of a warm restart: RESIDENT segments in RETAIN, the others OFF, nothing runs. -/
def restCore (k : CoreCtl) (resident : BitVec 12) : CoreCtl :=
  let lost := (List.range 12).filter fun n => !resident.getLsbD n
  let k := lost.foldl (fun k n => k.zeroSeg n) k
  { k with
    power := (List.range 12).map fun n => if resident.getLsbD n then .retain else .off
    rinsing := [], resident := resident, run := none, lentTo := none, ready := [], yield := false, txns := [], tables := none }

/-- A warm restart: work stops, the boot ROM runs. `recover`: it ends in recovery mode (R569). -/
def warmRestart (s : State) (recover : Bool) : State :=
  if s.sys.boot = some .halted ∨ ¬ s.sys.clocks then s
  else
    let mend := if s.sys.boot.isNone then mendMap s else s.sys.resumeMend
    let s := updWork s fun w =>
      { w with
        cores := w.cores.map fun e => (e.1, restCore e.2 (residentSegs s e.1))
        rinses := w.rinses.map fun r => { r with cores := [] } }
    let s := (s.engines.map Prod.fst).foldl dropDebug s
    let s := { s with engines := [] }
    let s := enterHoldover s
    let s := updSec s fun x => { x with window := false, saks := [], spdm := 0, cdiL1 := 0 }
    let s := updMgmt s fun m => { m with update := none }
    let s := updOptics s fun o => { o with buses := o.buses.map fun b => { b with state := 0, attempt := 0 } }
    let s := updRel s fun r => { r with pairs := r.pairs.map fun p => { p with disabled := p.disabled || decide (2 ≤ p.times.length) } }
    let s := updSys s fun y => { y with ready := false, recoverNext := y.recoverNext || recover, resumeMend := mend }
    bootRom s false

/-! ### The end of a boot (22 R560-R562, R568, R569; 20 R523) -/

/-- Speed code of a MAC under PORT_MAP. -/
def portSpeed (map : Nat) (m : Nat) : Nat := bits map (4 * m + 3) (4 * m)

/-- A valid PORT_MAP (17 R447). -/
def portMapOk (map : Nat) : Bool :=
  (List.range 8).all fun m => decide (portSpeed map m ≤ 5)
    && (m % 2 = 0 || portSpeed map m = 0 || (portSpeed map m ≠ 5 && portSpeed map (m - 1) ≠ 5))

/-- Reads the board record and takes the MACs, optics and indicators from it (R560, 17 R447). -/
def readBoard (s : State) : State :=
  let b := if s.sys.boardFlash.valid then s.sys.boardFlash else Board.default
  let s := if s.sys.boardFlash.valid then s else logConfig s 0 0
  let mapOk := portMapOk b.portMap.toNat
  let s := if mapOk then s else logConfig s 0 1
  let map := if mapOk then b.portMap.toNat else 0
  let s := updSys s fun y => { y with board := b }
  let s := updNet s fun n => { n with macs := n.macs.mapIdx fun m k => { k with speed := BitVec.ofNat 3 (portSpeed map m) } }
  updOptics s fun o =>
    { o with indicators := o.indicators.mapIdx fun i x =>
        match b.ind[i]? with
        | some v => { x with mode := v.1, source := v.2 }
        | none => x }

/-- A repair is made: the entry is DONE or FAILED, a spare row is used, pages of a row that stays bad are retired; every change is
logged (19 R511-R513). -/
def makeRepair (s : State) (i : Nat) (r : RepairResult) : State :=
  match s.rel.repairs[i]? with
  | none => s
  | some e =>
    let spare := nth 0 s.rel.spares e.stack
    let ok := r.replaced || (r.ok && decide (0 < spare))
    let st : RepairState := if ok then .done else .failed
    let s := updRel s fun x =>
      { x with
        repairs := modNth x.repairs i fun e => { e with state := st, replaced := ok }
        spares := if r.replaced ∨ spare = 0 then x.spares else modNth x.spares e.stack fun n => n - 1
        retired := if ok then x.retired else x.retired ++ (r.pages.filter fun p => p ∉ x.retired) }
    log s 7 4 e.stack (if ok then 2 else 3) 0xFF 5

/-- The entries that a boot repairs: those STARTED, then at most four QUEUED (R511, R512, R562). -/
def bootRepairs (s : State) : List Nat :=
  let at_ := fun (st : RepairState) => (s.rel.repairs.zipIdx.filter fun e => e.1.state = st).map Prod.snd
  at_ .started ++ (at_ .queued).take 4

/-- What a cold boot adds: the board record, the repairs, the spare counts, cores that fail the start-up test. -/
def coldBoot (s : State) (r : BootReport) : State :=
  let s := readBoard s
  let s := ((bootRepairs s).zip r.repairs).foldl (fun s e => makeRepair s e.1 e.2) s
  let s := updRel s fun x => { x with spares := (List.range 4).map fun k => match r.spares[k]? with
    | some n => n
    | none => nth 0 x.spares k }
  r.failed.foldl coreFails s

/-- A trial slot that reaches READY is committed, and the SVN floor raised (R523). -/
def trialCommit (s : State) : State :=
  if ¬ s.sec.trialBoot then s
  else
    let c := commitRec s
    let s := writeCommit s { c.settled with active := s.sec.bootSlot, activeVersion := c.trialVersion }
    updSec s fun x =>
      { x with trialBoot := false, stagedVersion := 0, fuses := { x.fuses with svnFloor := Nat.max x.fuses.svnFloor c.trialSvn } }

/-- Teller pairs that serve. -/
def pairsLeft (s : State) : Nat := (s.rel.pairs.filter fun p => !p.disabled).length

/-- Every invocation that ran when the restart began completes with E_ABORTED (R568). -/
def endAllRuns (s : State) : State :=
  (s.work.jobs.filter fun e => e.2.run.isSome).foldl (fun s e => endInvocation s e.1 eAborted none) s

/-- Loads, tests and stagings that the restart cut short complete with E_ABORTED (log 72). -/
def abortWaiting (s : State) : State :=
  let loads := dedup (s.work.loading.map (·.ticket))
  let dead := (s.work.loading.filter fun l => l.handle ≠ 0).map (·.handle)
  let s := dead.foldl (fun s h => dropJob s h) s
  let s := (s.radio.cells.filter fun e => e.2.starting.isSome).foldl (fun s e =>
    { s with radio := { s.radio with cells := Tbl.del s.radio.cells e.1 } }) s
  let tickets := loads ++ s.rel.tests.map (·.ticket) ++ (s.sec.staging.map (·.ticket)).toList
  let s := updSec (updRel (updWork s fun w => { w with loading := [] }) fun r => { r with tests := [] }) fun x => { x with staging := none }
  tickets.foldl (fun s t => finish s t (Done.of eAborted)) s

/-- A resident cell is placed again and resumes when both placements are what they were; otherwise it stops (R568). -/
def resumeCell (s : State) (ci : Nat) (changed : Bool) : State :=
  match getCell s ci with
  | none => s
  | some c =>
    match c.stopping with
    | some (t, n) => sendCellStopped (finish (releaseCell s ci []) t (Done.of eOk)) ci c 0 0 n
    | none =>
      let again := fun (s : State) (h : Nat) => (getJob s h).map fun j => (j, placeFully s h j)
      match again s c.up, again s c.down with
      | some (u, .inl u'), some (d, .inl d') =>
        if u'.digest = u.digest ∧ d'.digest = d.digest then
          let s := putJob (putJob s c.up { u' with rebase := true }) c.down { d' with rebase := true }
          let s := updCell s ci fun c =>
            { c with
              harq := [], contexts := [], updates := [], freed := [], ul := [], dl := [], rxSlots := [], symPosts := [], lateTiles := [], prachTotal := 0,
              fapi := none }
          launchCell (adaptCellStops s ci) ci { c with harq := [] }
        else stopCell s ci (if changed then 1 else 3) 0 []
      | _, _ => stopCell s ci (if changed then 1 else 3) 0 []

/-- A loaded job of the host is placed again after a restart; a refusal leaves it without cores (R568). -/
def replaceJob (s : State) (h : Nat) : State :=
  match getJob s h with
  | none => s
  | some j =>
    if j.kind ≠ .host ∨ j.lostCore = 2 then s
    else
      match placeFully s h j with
      | .inl j' => retainSegs (rebindJob s h { j' with rebase := true }) j'
      | .inr _ => putJob s h { j with insts := [], lostCore := 2 }

/-- After a same-firmware restart (R568). -/
def warmSame (s : State) : State :=
  let changed := mendMap s ≠ s.sys.resumeMend
  let s := s.services.foldl (fun s e => closeService s e.1 1) s
  let s := s.radio.cells.foldl (fun s e => resumeCell s e.1 changed) s
  let s := s.work.jobs.foldl (fun s e => replaceJob s e.1) s
  raiseFloors s

/-- After a restart of other firmware: no job, no session; tills stopped or empty; RW registers at their reset values (R557, R568). -/
def warmOther (s : State) : State :=
  let s := s.services.foldl (fun s e => closeService s e.1 1) s
  let s := s.radio.cells.foldl (fun s e => stopCell s e.1 3 0 []) s
  let s := s.work.jobs.foldl (fun s e => dropJob s e.1) s
  let s := updWork s fun w => { w with cores := w.cores.map fun e => (e.1, restCore e.2 0) }
  let s := (s.host.tills.filter fun e => decide (96 ≤ e.1) && e.2.state ≠ .unconfigured).foldl (fun s e => stopTill s e.1) s
  let s := allFns.foldl freshFnTills s
  let s := allFns.foldl (fun s f => updFn s f.val fun k =>
    { Fn.reset with
      busMaster := k.busMaster, msixEnable := k.msixEnable, msixMask := k.msixMask, msixTable := k.msixTable, msixPending := k.msixPending }) s
  let s := { s with host := { s.host with mgmtSession := none } }
  let s := updChip s fun c => { c with mw4Part := 0, mw4Sel := false }
  let s := updPower s fun w => { w with capDevice := 450000, prochotCap := 300000, droopMv := 40 }
  let s := updRel s fun r => { r with logSelect := 0, logSource := false }
  let s := updTiming s fun t =>
    { Timing.reset with
      time := t.time, frac := t.frac, rate := t.rate, state := t.state, ppsLost := t.ppsLost, todLost := t.todLost,
      clk10mLost := t.clk10mLost, clk10mRate := t.clk10mRate, holdoverS := t.holdoverS, clockClass := t.clockClass,
      accuracy := t.accuracy, variance := t.variance, offset := t.offset, rates := t.rates, stepped := t.stepped, linkTime := t.linkTime }
  let s := updNet s fun n => { n with macs := n.macs.map fun k => { k with en := false, classMask := 0, xpn := false, txAn := false } }
  let s := updNet s fun n => { n with ptp := n.ptp.map fun _ => PtpPort.reset }
  let s := updRelne s fun r => { r with rootPriority := 8, portEn := 0xF }
  let s := updOptics s fun o => { o with ratedKh := 100, driftPct := 50, indicators := Optics.reset.indicators }
  readBoard s

/-- The boot reaches READY (R561, R566, R569). -/
def reachReady (s : State) (b : Boot) (r : BootReport) : State :=
  let s := if b = .cold then coldBoot s r else s
  let s := settleRinses s
  let s := r.crossings.foldl coreFails s
  let s := if b = .cold then s else settleRounds (settleServices (abortWaiting (endAllRuns s)))
  let s := match b with
    | .warmSame => warmSame s
    | .warmOther => warmOther s
    | _ => s
  let s := trialCommit s
  let s := if s.sec.passedOver then updSec (logConfig s 0x53 0) fun x => { x with passedOver := false } else s
  let s := if s.sec.sealLog then updSec (logConfig s 0x53 1) fun x => { x with sealLog := false } else s
  let s := match r.stop with
    | some (kind, index) => log s 9 kind index 0 0xFF 0
    | none => s
  let fatal := decide (pairsLeft s < 3)
  let recover := s.sys.recoverNext || r.stop.isSome || fatal
  let s := updSys s fun y =>
    { y with
      ready := true, boot := none, recovery := recover, bootStopped := r.stop.isSome, fatal := fatal, recoverNext := false,
      trained := y.trained.mapIdx fun k _ => decide (r.stop ≠ some (4, k)), resumeMend := [] }
  let s := statusChanged s
  let s := if recover then sendDeviceEvent s 6 0 0 (enabledCount s) else s
  if s.sys.resetAfterReady then conventionalReset (updSys s fun y => { y with resetAfterReady := false }) else s

/-- BOOT_READY: not while the clocks are stopped, coolant flow is lost, or the boot has halted. -/
def execBootReady (r : BootReport) (s : State) : Out :=
  .next (match s.sys.boot with
    | none => s
    | some b => if b = .halted ∨ ¬ s.sys.clocks ∨ s.power.flowStopped then s else reachReady s b r)

/-- RECOVERY_EXIT (R569). -/
def execRecoveryExit (s : State) : Out :=
  .next (if s.sys.recovery ∧ ¬ s.sys.bootStopped ∧ ¬ s.sys.fatal then statusChanged (updSys s fun y => { y with recovery := false }) else s)

end Sys2Proof.Machine
end

