-- ==== Sys2Proof/Machine/Reliability.lean ====
section
/-! DEFINITION. Lockstep, scrub, self-test, full memory test, the mend map by command, the error log and its registers
(19 R498, R500, R501, R504-R513, R515-R517; 16 R440). -/

namespace Sys2Proof.Machine

/-- 24 hours in ns. -/
def dayNs : Nat := 86400000000000

/-! ### Lockstep (R501) -/

/-- A teller pair mismatches: logged, and the device restarts into recovery mode. -/
def lockstepFails (s : State) (pair : Nat) : State :=
  let now := nowNs s
  let s := log s 6 5 pair 0 0xFF 4
  let s := updRel s fun r =>
    { r with pairs := modNth r.pairs pair fun p => { p with times := (p.times.filter fun t => decide (now < t + dayNs)) ++ [now] } }
  warmRestart s true

/-- LOCKSTEP_MISMATCH. -/
def execLockstepMismatch (pair : Nat) (s : State) : Out :=
  .next (match s.rel.pairs[pair]? with
    | some p => if p.disabled ∨ ¬ s.sys.clocks then s else lockstepFails s pair
    | none => s)

/-- TELLER_WATCHDOG: a warm restart into recovery mode (22 R556). -/
def execTellerWatchdog (s : State) : Out := .next (warmRestart s true)

/-! ### Repair queue (R511) -/

/-- Whether an entry names a row. -/
def Repair.isRow (e : Repair) (stack channel bank row : Nat) : Bool :=
  decide (e.stack = stack ∧ e.channel = channel ∧ e.bank = bank ∧ e.row = row)

/-- Queues a row for repair, once: a row that is queued or has failed stays as it is. -/
def queueRepair (s : State) (stack channel bank row : Nat) : State :=
  if s.rel.repairs.any fun e => e.isRow stack channel bank row && e.state ≠ .done then s
  else
    let e : Repair := { stack := stack, channel := channel, bank := bank, row := row, state := .queued, replaced := false }
    log (updRel s fun r => { r with repairs := r.repairs ++ [e] }) 7 4 stack 0 0xFF 5

/-! ### Scrub (R500) -/

/-- HBM_SCRUB: what one pass of the controllers' scrub finds in a row. -/
def execHbmScrub (stack channel bank row address : Nat) (found : Ecc) (s : State) : Out :=
  let key := (stack, channel, bank, row)
  let twice := key ∈ s.rel.scrubbed
  let drop := fun (s : State) => updRel s fun r => { r with scrubbed := r.scrubbed.filter (· ≠ key) }
  .next (match found with
    | .clean => drop s
    | .corrected =>
      let s := correctedError s 4 stack 0 address 0xFF
      if twice then queueRepair (drop s) stack channel bank row
      else updRel s fun r => { r with scrubbed := r.scrubbed ++ [key] }
    | .uncorrected => queueRepair (drop (log s clsUncorrected 4 stack (address % 2 ^ 48) 0xFF 5)) stack channel bank row)

/-- Both copies of a tally are uncorrectable: every invocation that binds it faults, and the waits on it complete with E_FAULT
(R498). -/
def tallyFails (s : State) (t : Nat) : State :=
  let binds := fun (j : Job) => j.tallies.any fun b => tallyOf s j.part b.1 = t
  let hit := s.work.jobs.filter fun e => e.2.run.isSome && binds e.2
  let s := updTally s t fun x => { x with bad := true }
  let waits := s.work.monitors.filter fun m => tallyOf s m.part m.index = t
  let s := updWork s fun w => { w with monitors := w.monitors.filter fun m => m ∉ waits }
  let s := waits.foldl (fun s m => finish s m.ticket (Done.of eFault)) s
  hit.foldl (fun s e =>
    let core := (e.2.insts.head?.map fun i => logicalCore s i.core).getD 0xFF
    endBadly s e.1 eFault (some (tableEccWords core))) s

/-- One find of the tellers' scrub: errors of till memory, the tally bank and the teller memories (R498, R500). -/
def tellerFind (s : State) : ScrubFind → State
  | .till a u =>
    if u then
      let s := log s clsUncorrected 7 0 (a % 2 ^ 48 + 6 * 2 ^ 48) 0xFF 0
      updHost s fun h => { h with badSlots := if a / 64 ∈ h.badSlots then h.badSlots else h.badSlots ++ [a / 64] }
    else correctedError s 7 0 6 a 0xFF
  | .tally i u =>
    if u then tallyFails (log s clsUncorrected 8 0 (i % 2 ^ 48 + 5 * 2 ^ 48) 0xFF 2) i else correctedError s 8 0 5 i 0xFF
  | .teller pair a u =>
    if u then lockstepFails (log s clsUncorrected 5 pair (a % 2 ^ 48 + 7 * 2 ^ 48) 0xFF 4) pair else correctedError s 5 pair 7 a 0xFF

/-- TELLER_SCRUB. -/
def execTellerScrub (finds : List ScrubFind) (s : State) : Out :=
  .next (if s.sys.clocks then finds.foldl tellerFind s else s)

/-! ### The field map and the log in boot flash (R504, R515) -/

/-- MEND_MAP_WRITE: the entries that wait are written to the older copy. -/
def execMendMapWrite (s : State) : Out :=
  .next (if s.rel.mapPending = [] then s
    else updRel s fun r =>
      let seq := Nat.max r.mapA.seq r.mapB.seq + 1
      let c : MapCopy := { seq := seq, entries := fieldMap s ++ r.mapPending }
      if r.mapA.seq < r.mapB.seq then { r with mapA := c, mapPending := [] } else { r with mapB := c, mapPending := [] })

/-- ERROR_LOG_FLASH_WRITE: the entries that wait enter the persistent ring of 256, or the write fails. -/
def execErrorLogFlashWrite (ok : Bool) (s : State) : Out :=
  .next (if s.rel.flashPending = [] then s
    else if ok then updRel s fun r =>
      let l := r.flashLog ++ r.flashPending
      { r with flashLog := l.drop (l.length - 256), flashPending := [], flashFail := false }
    else updRel s fun r => { r with flashFail := true })

/-! ### Self-test (R506-R509) -/

/-- Number of units of a kind: cores, LD, PL, LE. -/
def kindCount : Nat → Nat
  | 0 => 72
  | 1 => 24
  | 2 => 8
  | _ => 16

/-- Index of an engine in the status registers (R516). -/
def engineIndex (kind index : Nat) : Nat := (if kind = 1 then 0 else if kind = 2 then 24 else 32) + index

def getTest (s : State) (u : UnitId) : TestStatus :=
  if u.kind = 0 then Tbl.get TestStatus.fresh s.rel.cores u.index else Tbl.get TestStatus.fresh s.rel.engines (engineIndex u.kind u.index)

def updTest (s : State) (u : UnitId) (f : TestStatus → TestStatus) : State :=
  updRel s fun r =>
    if u.kind = 0 then { r with cores := Tbl.upd TestStatus.fresh r.cores u.index f }
    else { r with engines := Tbl.upd TestStatus.fresh r.engines (engineIndex u.kind u.index) f }

/-- A unit passes its test: nothing is due for 24 h. -/
def passTest (s : State) (u : UnitId) : State := updTest s u fun _ => { TestStatus.fresh with passed := nowNs s }

/-- SELFTEST_DUE: an enabled unit has become due. -/
def execSelftestDue (kind index : Nat) (s : State) : Out :=
  .next (if 3 < kind ∨ kindCount kind ≤ index ∨ disabled s kind index then s
    else updTest s ⟨kind, index⟩ fun t => { t with due := true })

/-- SELFTEST_DEFERRED: a unit has been due for more than 24 h. -/
def execSelftestDeferred (kind index : Nat) (s : State) : Out :=
  .next (if (getTest s ⟨kind, index⟩).due ∧ ¬ disabled s kind index then updTest s ⟨kind, index⟩ fun t => { t with deferred := true } else s)

/-- Whether a command in progress names a unit that it has yet to test. -/
def named (s : State) (u : UnitId) : Bool := s.rel.tests.any fun t => u ∈ t.todo

/-- Whether a command would re-enable a unit. -/
def reenabling (s : State) (u : UnitId) : Bool := s.rel.tests.any fun t => t.scope = 3 && u ∈ t.todo

/-- A unit returns to service: it leaves the field map, what waits for it, and the volatile map (R505). -/
def leaveMendMap (s : State) (u : UnitId) : State :=
  updRel s fun r =>
    let keep := fun (l : List UnitId) => l.filter (· ≠ u)
    let r := { r with mapPending := keep r.mapPending, volatile := keep r.volatile, pendingUnits := keep r.pendingUnits }
    if u ∈ fieldMap s then
      let seq := Nat.max r.mapA.seq r.mapB.seq + 1
      let c : MapCopy := { seq := seq, entries := keep (fieldMap s) }
      if r.mapA.seq < r.mapB.seq then { r with mapA := c } else { r with mapB := c }
    else r

/-- Notes that the test of a unit has begun. -/
def beginTest (s : State) (u : UnitId) : State :=
  updRel s fun r => { r with tests := r.tests.map fun t =>
    if u ∈ t.todo ∧ u ∉ t.begun then { t with begun := t.begun ++ [u] } else t }

/-- Marks a unit tested in every command that names it. -/
def markTested (s : State) (u : UnitId) (passed : Bool) : State :=
  updRel s fun r => { r with tests := r.tests.map fun t =>
    if u ∈ t.todo then
      { t with todo := t.todo.filter (· ≠ u), tested := t.tested + 1, failed := if passed then t.failed else t.failed ++ [u] }
    else t }

/-- The completion of a SELFTEST or of a re-enabling MEND_UPDATE that has nothing left to test (16 R440, 19 R505). -/
def testDone (s : State) (t : TestJob) : Done :=
  if t.scope = 3 then (if t.failed = [] then ⟨eOk, enabledCount s, 0, 0, 0⟩ else Done.of eFault)
  else
    ⟨eOk, t.tested, t.failed.length, (match t.failed with
      | u :: _ => u.kind * 4096 + u.index
      | [] => 0), 0⟩

/-- Commands with nothing left to test complete; 60 s after it was taken a SELFTEST leaves out what has not been admitted, and
at once what has left service (R508). -/
def settleTests (s : State) : State :=
  let now := nowNs s
  let s := updRel s fun r => { r with tests := r.tests.map fun t =>
    if t.scope < 2 then
      { t with todo := t.todo.filter fun u =>
          !disabled s u.kind u.index && (decide (now < t.since + 60000000000) || u ∈ t.begun) }
    else t }
  let done := s.rel.tests.filter fun t => t.scope ≠ 2 && t.todo.isEmpty
  let s := updRel s fun r => { r with tests := r.tests.filter fun t => t ∉ done }
  done.foldl (fun s t => finish s t.ticket (testDone s t)) s

/-- The outcome of a unit's whole test: a failed one is a unit failure, a passed one re-enables a unit that a command names
(R505, R507, R509). -/
def testEnds (s : State) (u : UnitId) (passed : Bool) : State :=
  let off := disabled s u.kind u.index
  let periodic := (getTest s u).due
  if passed then
    let back := off && reenabling s u
    let s := markTested (passTest s u) u true
    settleTests (if back then mendChanged (leaveMendMap s u) u false 0 else s)
  else
    let s := markTested (updTest s u fun t => { t with slice := 0, running := false }) u false
    let s := log s 4 u.kind u.index 0 0xFF (if off then 0 else 3)
    let s := if periodic then sendDeviceEvent s 4 u.kind u.index (enabledCount s) else s
    settleTests (if off then s else if u.kind = 0 then coreFails s u.index else engineFails s u.kind u.index)

/-- A core that no latency-critical job claims or has segments on, and no lent window holds (R507). -/
def admissible (s : State) (c : Nat) : Bool :=
  let k := getCore s c
  k.claim.isNone && k.lentTo.isNone && (holders s c).all fun j => j.bestEffort

/-- SELFTEST_SLICE: the next slice of a core's test, when the core is admitted; before it, a best-effort instance of the core is
asked to yield (R506, R507). The slice leaves every segment rinsed. -/
def execSelftestSlice (core : Nat) (passed : Bool) (s : State) : Out :=
  let u : UnitId := ⟨0, core⟩
  let off := disabled s 0 core
  let wanted := if off then reenabling s u else (getTest s u).due || named s u
  .next (if 72 ≤ core ∨ ¬ wanted ∨ ¬ s.sys.clocks then s
    else if ¬ admissible s core then settleTests (updTest s u fun t => { t with running := false })
    else if (getCore s core).run.isSome then requestYield (updTest s u fun t => { t with running := true }) core
    else
      let s := beginTest s u
      let s := { s with engines := Tbl.del s.engines core }
      let s := updCore s core fun k => { k with scratch := [], tables := none }
      if ¬ passed then testEnds s u false
      else if (getTest s u).slice = 149 then testEnds s u true
      else settleTests (updTest s u fun t => { t with slice := t.slice + 1, running := true }))

/-- ENGINE_TEST: an LDPC decoder with the encoder of its index, a polar engine, or an encoder that is to be re-enabled (R509). -/
def execEngineTest (kind index : Nat) (passed : Bool) (s : State) : Out :=
  let u : UnitId := ⟨kind, index⟩
  let off := disabled s kind index
  let wanted := if off then reenabling s u else (getTest s u).due || named s u
  .next (if kind = 0 ∨ 3 < kind ∨ kindCount kind ≤ index ∨ ¬ wanted ∨ ¬ s.sys.clocks then s
    else
      let s := beginTest s u
      let s := testEnds s u passed
      if passed ∧ kind = 1 ∧ index < 16 ∧ ¬ disabled s 3 index then passTest s ⟨3, index⟩ else s)

/-! ### SELFTEST (16 R440) -/

/-- Units that a SELFTEST names. -/
def testUnits (c : Ctx) : List UnitId :=
  if c.f 0x10 1 = 0 then ((List.range 72).filter fun p => bit (c.f 0x14 8 + c.f 0x11 1 * 2 ^ 64) p).map fun p => ⟨0, p⟩
  else if c.f 0x10 1 = 1 then
    (List.range 32).filterMap fun e => if bit (c.f 0x1C 4) e then some (if e < 24 then ⟨1, e⟩ else ⟨2, e - 24⟩) else none
  else []

/-- Whether a running latency-critical job claims a unit. -/
def lcClaims (s : State) (u : UnitId) : Bool :=
  s.work.jobs.any fun e => !e.2.bestEffort && e.2.run.isSome &&
    if u.kind = 0 then (e.2.instOn u.index).isSome else e.2.windows.any fun w => decide (w.1 = u.kind ∧ w.2.1 = u.index)

/-- SELFTEST. -/
def carrySelftest : Carry := fun c s =>
  let scope := c.f 0x10 1
  let units := (testUnits c).filter fun u => !disabled s u.kind u.index
  whenOk s (c.checks s (decide (scope ≤ 2) && c.zero 0x12 0x14) (isRoot c.m.src) false (decide (scope ≠ 2) || presence s)
      [(!(decide (scope = 2) && decide (loadedCount s ≠ 0 ∨ bistRuns s)), eBusy), (!units.any (lcClaims s), eBusy)])
    (let t : TestJob := { ticket := c.tid, scope := scope, since := nowNs s, todo := units, begun := [], tested := 0, failed := [] }
     (settleTests (updRel s fun r => { r with tests := r.tests ++ [t] }), none))

def execSelftest (m : Msg) (s : State) : Out := runCommand 0x0B00 0x100 32 carrySelftest m s

/-- A row that the full memory test found: its entry, made when there is none, and its repair (R510, R511). -/
def bistRepair (s : State) (r : BistRow) : State :=
  let s := queueRepair s r.stack r.channel r.bank r.row
  let found := s.rel.repairs.zipIdx.find? fun e => e.1.isRow r.stack r.channel r.bank r.row && (e.1.state = .queued || e.1.state = .started)
  match found with
  | some (_, i) => makeRepair s i r.repair
  | none => s

/-- MEMORY_BIST_COMPLETE: rows repaired, HBM and scratchpads zero, tallies as they were (R510). -/
def execMemoryBistComplete (rows : List BistRow) (s : State) : Out :=
  .next (if ¬ bistRuns s then s
    else
      let done := s.rel.tests.filter fun t => t.scope = 2
      let s := rows.foldl bistRepair s
      let s := updWork s fun w =>
        { w with hbm := [], cores := w.cores.map fun e => (e.1, { e.2 with scratch := [], power := List.replicate 12 .off, tables := none }) }
      let s := { s with engines := [] }
      let s := updRel s fun r => { r with tests := r.tests.filter fun t => t.scope ≠ 2 }
      done.foldl (fun s t => finish s t.ticket (Done.of eOk)) s)

/-! ### MEND_UPDATE (16 R440; R504, R505) -/

/-- A unit that waits in the volatile map is written to the field map. -/
def toFieldMap (s : State) (u : UnitId) : State :=
  log (updRel s fun r =>
    { r with
      volatile := r.volatile.filter (· ≠ u), pendingUnits := r.pendingUnits.filter (· ≠ u), mapPending := r.mapPending ++ [u] })
    clsMend u.kind u.index (256 * enabledCount s) 0xFF 3

/-- Disables a unit by command. -/
def mendDisable (s : State) (u : UnitId) : State × Option Done :=
  let full : Bool := decide (32 ≤ (fieldMap s).length + s.rel.mapPending.length)
  if disabled s u.kind u.index ∧ u ∉ s.rel.volatile then (s, some ⟨eOk, enabledCount s, 0, 0, 0⟩)
  else if full then refuse s eResource
  else
    let s := if disabled s u.kind u.index then s else if u.kind = 0 then coreFails s u.index else engineFails s u.kind u.index
    let s := if u ∈ s.rel.volatile then toFieldMap s u else s
    (settleTests s, some ⟨eOk, enabledCount s, 0, 0, 0⟩)

/-- MEND_UPDATE. -/
def carryMendUpdate : Carry := fun c s =>
  let action := c.f 0x10 1
  let u : UnitId := ⟨c.f 0x11 1, c.f 0x12 2⟩
  let fields := decide (action ≤ 1 ∧ u.kind ≤ 3 ∧ u.index < kindCount u.kind) && c.zero 0x14 0x18
    && (decide (action = 0) || decide (0x201 ≤ c.ver))
  let short := u.kind = 0 ∧ ((¬ disabled s 0 u.index ∧ enabledCount s ≤ orderable s) ∨ u ∈ s.rel.pendingUnits)
  let held := u ∈ fieldMap s ∨ u ∈ s.rel.mapPending ∨ u ∈ s.rel.volatile
  let present := presence s || decide (action = 0 ∧ ¬ short)
  whenOk s (c.checks s fields (isRoot c.m.src) false present [(decide (action = 0 ∨ held), eState)])
    (if action = 0 then mendDisable s u
     else
       let t : TestJob := { ticket := c.tid, scope := 3, since := nowNs s, todo := [u], begun := [], tested := 0, failed := [] }
       (updTest (updRel s fun r => { r with tests := r.tests ++ [t] }) u fun t => { t with slice := 0 }, none))

def execMendUpdate (m : Msg) (s : State) : Out := runCommand 0x0B04 0x100 24 carryMendUpdate m s

/-! ### The registers 0x8400-0x87FF (R516) -/

/-- The 32 bytes of a log entry (R514). -/
def LogEntry.bytes (e : LogEntry) : List Byte :=
  leBytes 4 e.seq ++ leBytes 4 e.timeS ++ leBytes 4 e.timeNs ++ leBytes 1 e.cls ++ leBytes 1 e.unitKind ++ leBytes 2 e.unitIndex
    ++ leBytes 8 e.detail ++ leBytes 1 e.partition ++ leBytes 1 e.action ++ leBytes 2 e.count ++ leBytes 4 e.firmware

/-- The entry that LOG_SELECT and SOURCE present. -/
def selectedEntry (s : State) : Option LogEntry :=
  (if s.rel.logSource then s.rel.flashLog else s.rel.log).find? fun e => e.seq = s.rel.logSelect.toNat

/-- A status word of a core or engine. -/
def testWord (s : State) (u : UnitId) : Nat :=
  let t := getTest s u
  let age := Nat.min ((nowNs s - Nat.max t.passed s.rel.since) / 3600000000000) 65535
  age + 65536 * b2n t.deferred + 131072 * b2n (disabled s u.kind u.index) + 262144 * b2n (u ∈ s.rel.pendingUnits)

/-- A word of the reliability registers. -/
def relRead (s : State) (o : Nat) : Nat :=
  let e := selectedEntry s
  let count := fun (p : Repair → Bool) => (s.rel.repairs.filter p).length
  if o = 0x8400 then (s.rel.log.getLast?.map fun e => e.seq).getD 0
  else if o = 0x8404 then s.rel.log.length + 65536 * s.rel.flashLog.length
  else if o = 0x8408 then s.rel.logSelect.toNat
  else if o = 0x840C then b2n s.rel.logSource
  else if o = 0x8410 then b2n e.isSome + 2 * b2n (e.isNone && decide (s.rel.logSelect ≠ 0)) + 4 * b2n s.rel.flashFail
  else if o = 0x8414 then s.rel.ceTotal.toNat
  else if o = 0x8418 then s.rel.ueTotal.toNat
  else if 0x8440 ≤ o ∧ o < 0x8460 then
    match e with
    | some e => leNat ((e.bytes.drop (o - 0x8440)).take 4)
    | none => 0
  else if o = 0x8480 then count (fun e => e.state = .queued || e.state = .started) + 65536 * count (fun e => e.state = .failed)
  else if 0x8484 ≤ o ∧ o < 0x8494 then
    let k := (o - 0x8484) / 4
    nth 0 s.rel.spares k + 65536 * (s.rel.retired.filter fun g => g / 12288 = k).length
  else if 0x8500 ≤ o ∧ o < 0x8620 then testWord s ⟨0, (o - 0x8500) / 4⟩
  else if 0x8620 ≤ o ∧ o < 0x86E0 then
    let e := (o - 0x8620) / 4
    testWord s (if e < 24 then ⟨1, e⟩ else if e < 32 then ⟨2, e - 24⟩ else ⟨3, e - 32⟩) % 262144
  else if 0x86E0 ≤ o ∧ o < 0x86F0 then
    match s.rel.pairs[(o - 0x86E0) / 4]? with
    | some p => Nat.min (p.times.filter fun t => decide (nowNs s < t + dayNs)).length 255 + 256 * b2n p.disabled
    | none => 0
  else 0

/-- A write of a reliability register. -/
def relWrite (s : State) (o v : Nat) : State :=
  if o = 0x8408 then updRel s fun r => { r with logSelect := BitVec.ofNat 32 v }
  else if o = 0x840C then updRel s fun r => { r with logSource := bit v 0 }
  else s

end Sys2Proof.Machine
end

