-- ==== Sys2Proof/Machine/Clock.lean ====
section
/-! DEFINITION. What passes of itself when no command waits: one cycle of the timing island (17 R454; 18 R493; 20 R537; 19 R508). -/

namespace Sys2Proof.Machine

/-- Device time one cycle on: 1 ns and the rate word's departure from it, in units of 2^-48 ns. -/
def Timing.advance (t : Timing) : Timing :=
  let now : Int := ((((t.time >>> 64).toNat * 1000000000 + (t.time >>> 32).toNat % 2 ^ 32) * 65536 + (t.time >>> 16).toNat % 65536)
    * 4294967296 + t.frac.toNat : Nat)
  let next := (now + 281474976710656 + t.rate).toNat
  let units := next / 4294967296
  { t with time := mkTime (units / 65536) (units % 65536), frac := BitVec.ofNat 32 (next % 4294967296) }

/-- One cycle of the timing island's clock; with each second, the always-on clock and HOLDOVER_S count. -/
def tick (s : State) : State :=
  if ¬ s.sys.clocks then s
  else
    let was := timeS s
    let s := updTiming s Timing.advance
    let s := if timeS s = was then s
      else
        let s := if s.sec.aonRuns then updSec s fun x => { x with aonS := x.aonS + 1 } else s
        if s.net.timing.state = .holdover then updTiming s fun t => { t with holdoverS := satInc t.holdoverS 1 } else s
    if s.rel.tests = [] then s else settleTests s

end Sys2Proof.Machine
end

