-- ==== Sys2Proof/Machine/Power.lean ====
section
/-! DEFINITION. The power and thermal controller (18 R477-R496, 16 R435). -/

namespace Sys2Proof.Machine

/-! ### Phases and their estimates (18 R485) -/

/-- Width class of an operand format: 4-bit, 8-bit, 16-bit, F32. -/
def widthClass (fmt : Nat) : Nat := if fmt ∈ [0x08, 0x0D] then 0 else if fmt ∈ [0x01, 0x02, 0x0B] then 2 else if fmt = 0 then 3 else 1

/-- Unit kind and width class of a step, none for a step of the sequencer itself; `fmt`: the format of an array's operand entry. -/
def phaseKey (w : BitVec 128) (fmt : Nat) : Option (Nat × Nat) :=
  match stUnit w with
  | some (.array _) => some (1, if stOp w = 1 then widthClass fmt else 4)
  | some .vector => some (2, 4)
  | some .signal => some (3, 4)
  | some .mover => some (4, 4)
  | none => none

/-- The phase keys of a plan's steps in turn: each phase's first step and key; `entries`: the operand entry of each array. -/
def phasesFrom (i : Inst) : Nat → List (BitVec 128) → List Nat → Option (Nat × Nat) → List (Nat × (Nat × Nat))
  | _, [], _, _ => []
  | k, w :: ws, entries, last =>
    let entries := if stOp w = 2 then setNth entries (stSub w) (rlEntry (stArg w)) else entries
    let fmt := (opEntry (Tbl.get 0 i.opfile (nth 0 entries (stSub w)))).tile.format
    match phaseKey w fmt with
    | none => phasesFrom i (k + 1) ws entries last
    | some key =>
      if last = some key then phasesFrom i (k + 1) ws entries last
      else (if last.isNone then 0 else k, key) :: phasesFrom i (k + 1) ws entries (some key)

/-- The phases of a plan on a core, at most 64: first step and key. -/
def Inst.phases (i : Inst) (plan : Nat) : List (Nat × (Nat × Nat)) := (phasesFrom i 0 (nth [] i.plans plan) [0, 0, 0, 0] none).take 64

/-- The phase in which a step lies. -/
def phaseOf (ps : List (Nat × (Nat × Nat))) (step : Nat) : Nat := (ps.filter fun p => p.1 ≤ step).length - 1

/-- The estimate of a phase: learned, or as firmware derives it. -/
def phaseMw (s : State) (h plan : Nat) (ps : List (Nat × (Nat × Nat))) (k : Nat) : Nat :=
  match s.power.estimates.find? fun e => e.1 = h ∧ e.2.1 = plan ∧ e.2.2.1 = k with
  | some e => e.2.2.2
  | none =>
    let key := (nth (0, (0, 0)) ps k).2
    Config.phaseEstimate key.1 key.2

/-- The estimate that counts for a core: the larger of its current and its next phase; its idle estimate when it runs no step. -/
def coreMw (s : State) (c : Nat) : Nat :=
  match running s c with
  | none => Config.idleEstimate
  | some (h, _, i) =>
    let ps := i.phases i.plan
    if i.phase ≠ .running ∨ ps = [] then Config.idleEstimate
    else
      let k := phaseOf ps (i.step - 1)
      Nat.max (phaseMw s h i.plan ps k) (phaseMw s h i.plan ps ((k + 1) % ps.length))

/-- Learning: p̂ ← p̂ + (p_meas − p̂) ÷ 16, when the last step of a phase has completed. -/
def learnPhase (s : State) (h : Nat) (i : Inst) (step measured : Nat) : State :=
  let ps := i.phases i.plan
  let k := phaseOf ps step
  let old := phaseMw s h i.plan ps k
  let new := ((old : Int) + ((measured : Int) - old) / 16).toNat
  if phaseOf ps (step + 1) = k ∧ step + 1 < i.table.length then s
  else updPower s fun w =>
    { w with estimates := (h, i.plan, k, new) :: w.estimates.filter fun e => ¬ (e.1 = h ∧ e.2.1 = i.plan ∧ e.2.2.1 = k) }

/-! ### The cap computation (18 R484, R487) -/

/-- What the controller knows of a partition: ceiling, floor, limit in MHz, and power per MHz in units of mW ÷ (1,000 × 780²). -/
structure PartLoad where
  part : Nat
  ceiling : Nat
  floor : Nat
  lim : Nat
  k : Nat
  deriving DecidableEq, Repr

/-- mW in the units of `PartLoad.k` times MHz. -/
def powerScale : Nat := 1000 * 780 * 780

/-- The load of a partition with its dies at given ceilings and voltages. -/
def partLoad (s : State) (floors : Bool) (ceil mv : Nat → Nat) (p : Nat) (q : Part) : PartLoad :=
  let live := q.owned.filter fun c => !disabled s 0 c
  let k := sumNat (live.map fun c => coreMw s c * mv (dieOf c) * mv (dieOf c))
  let c := (live.map fun c => ceil (dieOf c)).foldl Nat.min 1500
  let cap := (getPartPower s p).cap
  let jobs := s.work.jobs.filter fun e => e.2.part = p && !e.2.bestEffort && e.2.run.isSome
  { part := p, ceiling := c, floor := if floors then (jobs.map fun e => e.2.clock).foldl Nat.max 0 else 0,
    lim := if cap = 0 ∨ k = 0 then c else Nat.min c (cap * powerScale / k), k := k }

/-- clk_p(f). -/
def PartLoad.clk (l : PartLoad) (f : Nat) : Nat := Nat.min l.lim (Nat.max l.floor f)

/-- Σ over p of P_p(clk_p(f)). -/
def totalPower (ls : List PartLoad) (f : Nat) : Nat := sumNat (ls.map fun l => l.k * l.clk f)

/-- The largest common clock within the budget, in whole MHz; none: the floors alone exceed it. -/
def commonClock (ls : List PartLoad) (budgetMw : Nat) : Option Nat :=
  (List.range 1501).reverse.find? fun f => totalPower ls f ≤ budgetMw * powerScale

/-- D_p. -/
def PartLoad.mask (l : PartLoad) (f : Option Nat) : Nat :=
  let byClock := match f with
    | some f => 256 * l.clk f / max 1 l.ceiling
    | none => 0
  Nat.min 256 (if 0 < l.floor then Nat.max (ceilDiv (256 * l.floor) (max 1 l.ceiling)) byClock else byClock)

/-- The cap that binds: the device cap, or PROCHOT_CAP when it is lower and the board asserts PROCHOT_N (18 R491). -/
def boundCap (s : State) : Nat :=
  if s.power.prochotIn then Nat.min s.power.capDevice.toNat s.power.prochotCap.toNat else s.power.capDevice.toNat

/-- The loads of every partition with the dies as they stand. -/
def loadsNow (s : State) : List PartLoad :=
  (s.work.parts.filter fun e => e.2.destroying.isNone).map fun e =>
    partLoad s (!s.power.prochotIn) (fun d => (getDie s d).ceiling) (fun d => pointMv (getDie s d).settled) e.1 e.2

/-- POWER_EVENT of device scope, no sooner than 100 ms after the last of its kind (18 R483). -/
def powerEvent (s : State) (kind value : Nat) : State :=
  let now := nowNs s
  if s.power.recentEvents.any fun e => e.1 = kind && decide (now < e.2 + 100000000) then s
  else
    updPower (sendPowerEvent s kind none value) fun w =>
      { w with recentEvents := (kind, now) :: w.recentEvents.filter fun e => e.1 ≠ kind }

/-- Pulses delivered of a frame under three masks (18 R482). -/
def framePulses (w : PartPower) : Nat :=
  ((List.range 256).filter fun k => pulseIn w.capMask k && pulseIn w.thermalMask k && pulseIn w.droopMask k).length

/-- The frame's record of a partition (18 R496): what is delivered, and which masks skip. -/
def PartPower.settle (w : PartPower) (prochot : Bool) : PartPower :=
  { w with
    delivered := BitVec.ofNat 9 (framePulses w)
    byCap := decide (w.capMask < 256) && !prochot
    byThermal := decide (w.thermalMask < 256) || (prochot && decide (w.capMask < 256))
    byDroop := decide (w.droopMask < 256) }

/-- Settles the records of every partition. -/
def settleMasks (s : State) : State :=
  s.work.parts.foldl (fun s e => updPartPower s e.1 fun w => w.settle s.power.prochotIn) s

/-- CAP_SET orders take effect at the control interval (18 R488): each completes with the previous cap. -/
def applyCaps (s : State) : State :=
  let os := s.power.orders
  let s := updPower s fun w => { w with orders := [] }
  os.foldl (fun s o =>
    match o.part with
    | none =>
      let old := s.power.capDevice.toNat
      finish (updPower s fun w => { w with capDevice := BitVec.ofNat 32 o.mw }) o.ticket ⟨eOk, old, 0, 0, 0⟩
    | some p =>
      if (getPart s p).isNone then finish s o.ticket (Done.of eAborted)
      else
        let old := (getPartPower s p).cap
        finish (updPartPower s p fun w => { w with cap := o.mw }) o.ticket ⟨eOk, old, 0, 0, 0⟩) s

/-- CAP_CONTROL_INTERVAL: orders apply; every partition's cap mask is set (18 R484). `fixedMw`: measured power of rails 2-5. -/
def execCapControlInterval (fixedMw : Nat) (s : State) : Out :=
  .next (
    let s := applyCaps s
    if s.power.flowStopped then s
    else
      let ls := loadsNow s
      let f := commonClock ls (boundCap s - fixedMw)
      let s := ls.foldl (fun s l => updPartPower s l.part fun w => { w with capMask := l.mask f }) s
      let skips := ls.any fun l => decide (l.mask f < 256)
      let short := f.isNone && !s.power.prochotIn
      let byCap := skips && !s.power.prochotIn
      let value := if short then totalPower ls 0 / powerScale + fixedMw else s.power.power1ms.toNat
      let first := byCap && !s.power.binding
      let s := updPower s fun w =>
        { w with
          capBinding := w.capBinding || byCap
          thermal := w.thermal || (skips && w.prochotIn)
          capShort := w.capShort || short
          binding := w.binding || byCap }
      settleMasks (if first then powerEvent s 1 value else s))

/-- Whether some cap mask skips. -/
def capSkips (s : State) : Bool := !s.power.prochotIn && s.work.parts.any fun e => decide ((getPartPower s e.1).capMask < 256)

/-- CAP_BINDING_END: no cap mask has skipped for 100 ms (18 R483). -/
def execCapBindingEnd (s : State) : Out :=
  .next (if s.power.binding ∧ ¬ capSkips s then
    powerEvent (updPower s fun w => { w with binding := false }) 2 s.power.power1ms.toNat else s)

/-! ### Voltage points (18 R479, R481, R484) -/

/-- The combinations of die points that the floors allow, the lower points first. -/
def pointPairs (s : State) : List (Nat × Nat) :=
  ((List.range 5).filter fun a => floorPoint s 0 ≤ a).flatMap fun a =>
    ((List.range 5).filter fun b => floorPoint s 1 ≤ b).map fun b => (a, b)

/-- The common clock that a combination of points gives; 0 when the floors alone exceed the budget. -/
def pairClock (s : State) (budgetMw : Nat) (x : Nat × Nat) : Nat :=
  let pt := fun d => if d = 0 then x.1 else x.2
  let ls := (s.work.parts.filter fun e => e.2.destroying.isNone).map fun e =>
    partLoad s (!s.power.prochotIn) (fun d => pointCeiling (pt d)) (fun d => pointMv (pt d)) e.1 e.2
  match commonClock ls budgetMw with
  | some f => Nat.min f ((ls.map (·.lim)).foldl Nat.max 0) + 1
  | none => 0

/-- The combination that gives the largest common clock, the lower points on a tie. -/
def bestPair (s : State) (budgetMw : Nat) : Nat × Nat :=
  ((pointPairs s).foldl (fun (b : (Nat × Nat) × Nat) x =>
    let f := pairClock s budgetMw x
    if b.2 < f then (x, f) else b) ((floorPoint s 0, floorPoint s 1), 0)).1

/-- DIE_POINT_SELECT: every 10 ms the controller targets the best combination of points. -/
def execDiePointSelect (fixedMw : Nat) (s : State) : Out :=
  .next (if s.power.flowStopped then s
  else
    let b := bestPair s (boundCap s - fixedMw)
    let go := fun (s : State) (d p : Nat) =>
      if (getDie s d).target = p ∨ nth false s.power.busFailed 0 then s else commandPoint s d p
    go (go s 0 b.1) 1 b.2)

/-- VDone of a die: the last commanded point is settled and the ceiling is its own; AVS_FAULT clears with the last rail. -/
def settlePoint (s : State) (d : Nat) : State :=
  if ¬ (getDie s d).slewing then s
  else
    let s := updDie s d fun x =>
      { x with settled := x.target, slewing := false, commanded := [], ceiling := pointCeiling x.target, timedOut := false }
    if s.power.dies.any (·.slewing) ∨ s.power.busFailed.any id then s else updPower s fun w => { w with avsFault := false }

/-- AVS_SETTLE_TIMEOUT: VDone has not come 2 ms after a command. -/
def execAvsSettleTimeout (die : Nat) (s : State) : Out :=
  .next (if (getDie s die).slewing ∧ ¬ (getDie s die).timedOut then
    updPower (updDie s die fun x => { x with timedOut := true }) fun w => { w with avsFault := true } else s)

/-- Millivolts that a rail is commanded to (18 R476, 22 R560): the trims of the board record apply to rails 2-5. -/
def railMv (s : State) (r : Nat) : Nat :=
  match r with
  | 0 => pointMv (getDie s 0).target
  | 1 => pointMv (getDie s 1).target
  | _ => (((nth (0 : Nat) [750, 800, 1100, 900] (r - 2) : Nat) : Int) + nth 0 s.sys.board.railTrim (r - 2)).toNat

/-- AVS_RETRY: a failed command is sent again, every 64 ms; `answered`: the bus responds. -/
def execAvsRetry (rail : Nat) (answered : Bool) (s : State) : Out :=
  let bus := if rail < 2 then 0 else 1
  .next (if (rail < 2 ∧ (getDie s rail).timedOut) ∨ nth false s.power.busFailed bus then
    let s := emit s (.avs rail (railMv s rail))
    if answered then updPower s fun w => { w with busFailed := setNth w.busFailed bus false } else s
  else s)

/-- AVS_BUS_FAILURE: three attempts have failed; the bus's rails are held. -/
def execAvsBusFailure (bus : Nat) (s : State) : Out :=
  .next (updPower s fun w => { w with busFailed := setNth w.busFailed bus true, avsFault := true })

/-! ### Droop (18 R489) -/

/-- The droop masks follow the dies that have tripped. -/
def droopMasks (s : State) : State :=
  settleMasks (s.work.parts.foldl (fun s e =>
    updPartPower s e.1 fun w => { w with droopMask := if e.2.owned.any fun c => (getDie s (dieOf c)).droop then 128 else 256 }) s)

/-- DROOP_TRIP of a core island. -/
def execDroopTrip (core : Nat) (s : State) : Out :=
  .next (updPower (droopMasks (updDie s (dieOf core) fun x => { x with droop := true, trips := x.trips + 1 })) fun w => { w with thermal := true })

/-- DROOP_MASK_END: 512 pulses without a further trip on a die. -/
def execDroopMaskEnd (die : Nat) (s : State) : Out := .next (droopMasks (updDie s die fun x => { x with droop := false }))

/-! ### Heat (18 R490-R492) -/

/-- A temperature in 1/256 °C. -/
def tempOf (s : State) (k : Nat) : Int := (nth (0 : BitVec 16) s.power.temps k).toInt

/-- The hottest of some sensors. -/
def hottest (s : State) (ks : List Nat) : Int := ks.foldl (fun m k => max m (tempOf s k)) (-32768)

/-- The sensors of a die: its cores, and the HBM stacks above it (01 R20). -/
def dieSensors (d : Nat) : List Nat := ((List.range 36).map fun i => 36 * d + i) ++ [76 + 2 * d, 77 + 2 * d]

/-- The thermal mask at a temperature in 1/256 °C; `hot`: 105 °C has been reached and 103 °C not passed again (18 R490). -/
def thermalMask (t : Int) (hot : Bool) : Nat × Bool :=
  if 105 * 256 ≤ t ∨ (hot ∧ 103 * 256 ≤ t) then (0, true)
  else if t < 95 * 256 then (256, false)
  else (((25600 - 8 * (t - 95 * 256)) / 100).toNat, false)

/-- T of a partition: the hottest of its dies, or of the IOD. -/
def partTemp (s : State) (q : Part) : Int :=
  let dies := (List.range 2).filter fun d => q.owned.any fun c => dieOf c = d
  hottest s (dies.flatMap dieSensors ++ [72, 73, 74, 75])

/-- THERMAL_SAMPLE: every partition's thermal mask from the hottest sensors; PROCHOT_N is driven while one skips. -/
def sampleTemps (s : State) (temps : List (BitVec 16)) : State :=
  let s := updPower s fun w => { w with temps := (List.range 80).map fun k => nth (nth 0 w.temps k) temps k }
  let top := (List.range 80).foldl (fun b k => if tempOf s b < tempOf s k then k else b) 0
  let s := updPower s fun w => { w with tjMax := nth 0 w.temps top, sensor := BitVec.ofNat 7 top }
  let was := s.power.prochotOut
  let s := s.work.parts.foldl (fun s e =>
    updPartPower s e.1 fun w =>
      let m := thermalMask (partTemp s e.2) w.hot
      { w with thermalMask := m.1, hot := m.2 }) s
  let skips := s.work.parts.any fun e => decide ((getPartPower s e.1).thermalMask < 256)
  let s := updPower s fun w => { w with prochotOut := skips, thermal := w.thermal || skips }
  settleMasks (if skips ∧ ¬ was then powerEvent s 3 s.power.tjMax.toNat else s)

/-- PROCHOT_ASSERT: an assertion by the board of 1 µs, while the device does not drive the line (18 R491). -/
def execProchotAssert (s : State) : Out :=
  .next (if s.power.prochotOut ∨ s.power.prochotIn then s
  else powerEvent (updPower s fun w => { w with prochotIn := true }) 4 s.power.power1ms.toNat)

/-- PROCHOT_RELEASE: 1 ms after the board releases the line. -/
def execProchotRelease (s : State) : Out := .next (settleMasks (updPower s fun w => { w with prochotIn := false }))

/-- THERMTRIP: every island clock stops (18 R492). -/
def execThermtrip (s : State) : Out :=
  .next (updSys (updPower s fun w => { w with thermtrip := true }) fun y => { y with clocks := false })

/-! ### Coolant (18 R493, R494) -/

/-- FLOW_GLITCH: a low level shorter than 2 ms. -/
def execFlowGlitch (s : State) : Out :=
  .next (updPower s fun w => { w with flowOk := true, flowGlitches := satInc w.flowGlitches 1 })

/-- FLOW_RESTART: 5 s of flow, every sensor below 85 °C: rails are commanded to the points of R479. -/
def execFlowRestart (s : State) : Out :=
  .next (if s.power.flowStopped ∧ ¬ s.power.flowRestart ∧ (List.range 80).all (fun k => tempOf s k < 85 * 256) then
    let s := updPower s fun w => { w with flowOk := true, flowRestart := true }
    (List.range 2).foldl (fun s d => commandPoint s d (Nat.max (floorPoint s d) (getDie s d).target)) s
  else s)

/-- The stop sequence of a flow loss: partitions frozen, islands halted, links down, segments in RETAIN, engine state lost. -/
def flowStop (s : State) : State :=
  let s := updPower s fun w =>
    { w with flowOk := false, flowStopped := true, flowRestart := false, flowStops := satInc w.flowStops 1 }
  let s := s.work.parts.foldl (fun s e => updPartPower s e.1 fun w => { w with delivered := 0 }) s
  let s := (List.range 8).foldl (fun s m => updMac s m fun k =>
    if k.up then { k with up := false, linkDown := satInc k.linkDown 1 } else k) s
  let s := updRelne s fun r => { r with ports := r.ports.map fun p => { p with up := false }, unsettled := true }
  let s := updWork s fun w => { w with cores := w.cores.map fun e =>
    (e.1, { e.2 with power := e.2.power.map fun p => if p = .on then .retain else p }) }
  let s := (s.engines.map Prod.fst).foldl dropDebug s
  let s := { s with engines := [] }
  emit (emit s (.avs 0 550)) (.avs 1 550)

/-- FLOW_LOSS: FLOW_OK low for 2 ms; a full memory test ends with E_ABORTED (19 R517). -/
def execFlowLoss (s : State) : Out :=
  .next (if s.power.flowStopped ∧ ¬ s.power.flowRestart then s
  else
    let cut := s.rel.tests.filter fun t => t.scope = 2
    let s := flowStop (updRel s fun r => { r with tests := r.tests.filter fun t => t.scope ≠ 2 })
    cut.foldl (fun s t => finish s t.ticket (Done.of eAborted)) s)

/-! ### Energy (18 R495) -/

/-- An amount in the place of `Invocation.use` (2 energy, 3 active, 4 wait, 5 skipped) for a job. -/
def chargeQuantity (s : State) (h i n : Nat) : State :=
  chargeUse s h i n (match i with
    | 2 => { Ledger.none with energyUj := n }
    | 3 => { Ledger.none with activeCycles := n }
    | 4 => { Ledger.none with waitCycles := n }
    | _ => { Ledger.none with skippedPulses := n })

/-- Divides an amount among clients in proportion to their weights, each share rounded down: shares, and the remainder. -/
def apportion (total : Nat) (weights : List (Nat × Nat)) : List (Nat × Nat) × Nat :=
  let w := sumNat (weights.map Prod.snd)
  if w = 0 then ([], total)
  else
    let shares := weights.map fun x => (x.1, total * x.2 / w)
    (shares, total - sumNat (shares.map Prod.snd))

/-- Charges apportioned energy; what is left over is UNCHARGED. -/
def chargeEnergy (s : State) (total : Nat) (weights : List (Nat × Nat)) : State :=
  let a := apportion total weights
  let s := a.1.foldl (fun s x => chargeQuantity s x.1 2 x.2) s
  updPower s fun w => { w with uncharged := w.uncharged + BitVec.ofNat 64 a.2 }

/-- Charges the cycles of one core and the energy of its island; what no client ran in goes to the residual. -/
def chargeCore (r : State × Nat) (u : CoreUse) : State × Nat :=
  let runs := u.runs.filter fun x => (getJob r.1 x.1).isSome
  let s := runs.foldl (fun s x => chargeQuantity (chargeQuantity (chargeQuantity s x.1 3 x.2.1) x.1 4 x.2.2.1) x.1 5 x.2.2.2) r.1
  let weights := runs.map fun x => (x.1, x.2.1 + x.2.2.1)
  if sumNat (weights.map Prod.snd) = 0 then (s, r.2 + u.uj) else (chargeEnergy s u.uj weights, r.2)

/-- Marks the entries of the clients that ran while their partition's pulses were skipped (18 R483). -/
def markSkips (s : State) (cores : List CoreUse) : State :=
  (dedup (cores.flatMap fun u => u.runs.map Prod.fst)).foldl (fun s h =>
    match getJob s h with
    | none => s
    | some j =>
      let w := getPartPower s j.part
      chargeEach s h { Ledger.none with capBinding := w.byCap, thermal := w.byThermal || w.byDroop }) s

/-- ENERGY_INTERVAL: rails, islands and granules of 1 ms (18 R495). -/
def execEnergyInterval (rails : List RailUse) (cores : List CoreUse) (granules : List (Nat × Nat)) (s : State) : Out :=
  let total := sumNat (rails.map (·.uj))
  let uj := fun r => ((rails[r]?).map (·.uj)).getD 0
  let s := updPower s fun w =>
    { w with
      energy := w.energy + BitVec.ofNat 64 total
      power1ms := BitVec.ofNat 32 total
      rails := w.rails.mapIdx fun i x => match rails[i]? with
        | some r => (BitVec.ofNat 16 r.mv, BitVec.ofNat 16 r.current)
        | none => x }
  let r := cores.foldl chargeCore (s, 0)
  let s := chargeEnergy r.1 (uj 4) (granules.filter fun g => (getJob s g.1).isSome)
  let ran := dedup (cores.flatMap fun u => u.runs.map Prod.fst)
  let weights := (ran.filter fun h => (getJob s h).isSome).map fun h =>
    (h, sumNat (cores.flatMap fun u => (u.runs.filter fun x => x.1 = h).map fun x => x.2.1 + x.2.2.1))
  let islands := sumNat (cores.map (·.uj))
  let s := chargeEnergy s (r.2 + uj 2 + uj 3 + uj 5 + (uj 0 + uj 1 - islands)) weights
  let s := markSkips s cores
  let s := s.work.parts.foldl (fun s e => updPartPower s e.1 fun w =>
    { w with effective := BitVec.ofNat 11 (partCeiling s e.2 * w.delivered.toNat / 256) }) s
  .next (updPower s fun w => { w with capBinding := capSkips s, thermal := s.work.parts.any (fun e =>
    (getPartPower s e.1).byThermal || (getPartPower s e.1).byDroop), capShort := false })

/-! ### CAP_SET and CAP_QUERY (16 R435) -/

/-- Checks that they share; SCOPE 1 wants version 2.3 (16 R427). -/
def Ctx.capChecks (c : Ctx) (s : State) (fields : Bool) (rest : List (Bool × Nat)) : Option Nat :=
  let scope := c.f 0x10 1
  let p := c.f 0x11 1
  let fields := fields && decide (scope ≤ 1) && c.zero 0x12 0x14 && (decide (scope = 0) || (decide (p ≤ 7) && decide (0x203 ≤ c.ver)))
  if scope = 0 then c.checks s fields (isRoot c.m.src) false true rest
  else
    match getPart s p with
    | none => c.checks s fields (isRoot c.m.src) false true [(false, eState)]
    | some _ => c.checks s fields (hostOf s c.m.src p) false true rest

/-- Whether MGMT_CAP_ONLY keeps a source from setting a cap (15 R403). -/
def capAllowed (s : State) (src : Source) : Bool := !s.host.chip.mgmtCapOnly || src = .mgmt

/-- CAP_SET: an order that takes effect at the next control interval; a pending one for the same object is superseded. -/
def carryCapSet : Carry := fun c s =>
  let scope := c.f 0x10 1
  let p := c.f 0x11 1
  let mw := c.f 0x14 4
  let range := if scope = 0 then decide (200000 ≤ mw ∧ mw ≤ 520000) else decide (mw = 0) || decide (10000 ≤ mw ∧ mw ≤ s.power.capDevice.toNat)
  let obj := if scope = 0 then none else some p
  let check := c.capChecks s range []
  whenOk s (if check.isNone ∧ ¬ capAllowed s c.m.src then some eTenant else check)
    (let old := s.power.orders.filter fun o => o.part = obj
     let s := old.foldl (fun s o => completeWith s o.ticket eSuperseded) s
     (updPower s fun w =>
       { w with orders := w.orders.filter (fun o => o.part ≠ obj) ++ [{ ticket := c.tid, part := obj, mw := mw }] }, none))

def execCapSet (m : Msg) (s : State) : Out := runCommand 0x0600 0x100 24 carryCapSet m s

/-- The effective work clock of the device: the largest among its partitions, or among its dies when there is none. -/
def deviceClock (s : State) : Nat :=
  if s.work.parts = [] then ((List.range 2).map fun d => (getDie s d).ceiling).foldl Nat.max 0
  else (s.work.parts.map fun e => (getPartPower s e.1).effective.toNat).foldl Nat.max 0

/-- CAP_QUERY. -/
def carryCapQuery : Carry := fun c s =>
  let scope := c.f 0x10 1
  let p := c.f 0x11 1
  whenOk s (c.capChecks s (c.zero 0x14 0x18) [])
    (let w := s.power
     let flags := b2n w.capBinding + 2 * b2n w.thermal + 4 * b2n (w.prochotOut || w.prochotIn)
     (s, some (if scope = 0 then ⟨eOk, w.capDevice.toNat, w.power1ms.toNat, flags, deviceClock s⟩
       else ⟨eOk, (getPartPower s p).cap, w.power1ms.toNat, flags, (getPartPower s p).effective.toNat⟩)))

def execCapQuery (m : Msg) (s : State) : Out := runCommand 0x0601 0x100 24 carryCapQuery m s

/-! ### Registers 0x8800-0x8BFF (18 R496) -/

/-- The value of a register of the power area. -/
def powerRead (s : State) (o : Nat) : Nat :=
  let w := s.power
  let die := fun (x : DiePower) => x.settled + 8 * x.target + 64 * b2n x.slewing + 65536 * x.ceiling
  if o = 0x8800 then
    b2n w.capBinding + 2 * b2n w.thermal + 4 * b2n w.prochotOut + 8 * b2n w.prochotIn + 16 * b2n w.flowOk + 32 * b2n w.flowStopped
      + 64 * b2n w.capShort + 128 * b2n w.avsFault
  else if o = 0x8804 then w.capDevice.toNat
  else if o = 0x8808 then w.power1ms.toNat
  else if o = 0x880C then w.prochotCap.toNat
  else if o = 0x8810 then w.droopMv.toNat
  else if o = 0x8814 then w.energy.toNat % 2 ^ 32
  else if o = 0x8818 then w.energy.toNat / 2 ^ 32
  else if o = 0x881C then w.uncharged.toNat % 2 ^ 32
  else if o = 0x8820 then w.uncharged.toNat / 2 ^ 32
  else if o = 0x8824 then w.tjMax.toNat + 65536 * w.sensor.toNat
  else if o = 0x8828 then w.flowStops.toNat + 65536 * w.flowGlitches.toNat
  else if o = 0x8830 ∨ o = 0x8834 then die (getDie s ((o - 0x8830) / 4))
  else if 0x8840 ≤ o ∧ o < 0x8860 then
    let p := getPartPower s ((o - 0x8840) / 4)
    p.delivered.toNat + 512 * b2n p.byCap + 1024 * b2n p.byThermal + 2048 * b2n p.byDroop + 65536 * p.effective.toNat
  else if 0x8880 ≤ o ∧ o < 0x8898 then
    let r := nth (0, 0) w.rails ((o - 0x8880) / 4)
    r.1.toNat + 65536 * r.2.toNat
  else if 0x8900 ≤ o ∧ o < 0x8A40 then (nth (0 : BitVec 16) w.temps ((o - 0x8900) / 4)).toNat
  else 0

end Sys2Proof.Machine
end

