-- ==== Sys2Proof/Machine/Receive.lean ====
section
/-! DEFINITION. What the uplink chain computes of a slot's PUSCH PDUs: correction, estimation, tracking errors, equalisation, demapping, LLR
selection and the figures of the link reports (08 R199-R214). The formulas are the spec's, over exact numbers; rounding and the sequences of
TS 38.211 are Config's (log 100). Every value is computed for every PDU; unallocated blocks give nothing (R199). -/

namespace Sys2Proof.Machine

/-! ### Small matrices, as lists of rows -/

/-- One pivot of Gauss-Jordan elimination. -/
def eliminate (m : List (List Cx)) (i : Nat) : List (List Cx) :=
  let p := nth [] m i
  let p := p.map fun x => x.div (nth Cx.zero p i)
  m.zipIdx.map fun e => if e.2 = i then p else e.1.zipIdx.map fun x => x.1.sub ((nth Cx.zero e.1 i).mul (nth Cx.zero p x.2))

/-- The inverse of an n × n matrix that elimination without exchange inverts: a positive definite one. -/
def inverse (n : Nat) (m : List (List Cx)) : List (List Cx) :=
  let a := m.zipIdx.map fun e => e.1 ++ (List.range n).map fun k => if k = e.2 then Cx.one else Cx.zero
  ((List.range n).foldl eliminate a).map fun r => r.drop n

def rowTimes (r v : List Cx) : Cx := Cx.sum ((r.zip v).map fun e => e.1.mul e.2)

/-! ### The slot in process -/

/-- What the chain reads of a slot: the cell, its descriptor, the grid's elements as (plane, subcarrier, symbol), and which elements are
erased, as (subcarrier, symbol). -/
structure Chain where
  cell : Cell
  job : Job
  recs : List UlRec
  inFrame : Nat
  grid : Nat → Nat → Nat → Cx
  erased : Nat → Nat → Bool

/-- Subcarrier spacing in Hz. -/
def Chain.df (x : Chain) : Rat := 15000 * (2 ^ x.cell.mu : Nat)

/-- t_l: the centre of symbol l's useful part, in seconds from the slot's start (R200). -/
def Chain.centre (x : Chain) (l : Nat) : Rat :=
  ((symbolSpan x.cell.mu x.inFrame l).2 : Rat) / 96000000000 - 1 / (2 * x.df)

/-- The PDU that the allocation map names for a resource block (R196). -/
def Chain.recOf (x : Chain) (rb : Nat) : Option UlRec := x.recs.find? fun r => decide (rb ∈ r.pdu.rbs)

/-- Y(a, k, l): the element rotated by the prediction of its PDU's context; 0 turns where none is allocated or the PDU has no context
(R200, R217). -/
def Chain.y (x : Chain) (a k l : Nat) : Cx :=
  let phi : Rat := match (x.recOf (k / 12)).bind fun r => if r.ctx then x.cell.ctxOf r.pdu.rnti else none with
    | some t => -((t.freq : Rat) / 65536 * x.centre l + (k : Rat) * x.df * ((t.time : Rat) / 65536) / 1000000000)
    | none => 0
  ((x.grid a k l).mul (Cx.turn phi)).stage 0

/-! ### Channel estimation (R201, R202) -/

/-- Σ w × H_ls of one estimate over its subcarriers and the group's symbols, divided by their number (R201). -/
def Chain.ls (x : Chain) (p : PuschPdu) (a port : Nat) (group : List Nat) (e : EstPlace) : Cx :=
  let beta := Config.dmrsScale p.cdmGroupsNoData
  let parts := group.zipIdx.flatMap fun s => e.parts.map fun k =>
    let r := Config.dmrsValue p x.inFrame port k.1 s.1
    (((x.y a k.1 s.1).mul (Cx.conj ⟨r.1, r.2⟩)).scale (1 / beta)).scale (k.2 * p.coverT port s.2)
  ((Cx.sum parts).scale (1 / (parts.length : Rat))).stage 1

/-- The LS estimates of a port in a symbol group, over the carrier: none where one does not belong to the PDU. -/
def Chain.lsRow (x : Chain) (p : PuschPdu) (a port : Nat) (group : List Nat) : List (Option Cx) :=
  (p.places x.cell.nRb port).map fun e => if p.owns e then some (x.ls p a port group e) else none

def Chain.tap (x : Chain) (m : Nat) : Rat := Config.smoothTap x.job.image m

/-- The smoothed estimates (R202). -/
def Chain.smooth (x : Chain) (row : List (Option Cx)) : List (Option Cx) :=
  row.zipIdx.map fun e => e.1.map fun _ =>
    let terms := (List.range 8).filterMap fun m =>
      if e.2 + m < 4 then none else ((row[e.2 + m - 4]?).bind id).map fun h => (x.tap m, h)
    ((Cx.sum (terms.map fun t => t.2.scale t.1)).scale (1 / ratSum (terms.map Prod.fst))).stage 2

/-- The estimates that belong to the PDU, with twice their subcarriers. -/
def Chain.known (x : Chain) (p : PuschPdu) (port : Nat) (row : List (Option Cx)) : List (Nat × Cx) :=
  ((p.places x.cell.nRb port).zip row).filterMap fun e => e.2.map fun h => (e.1.twice, h)

/-- Linear interpolation to a subcarrier; the end values hold beyond the first and the last estimate (R202). -/
def interpolate (l : List (Nat × Cx)) (k : Nat) : Cx :=
  let below := (l.filter fun e => e.1 ≤ 2 * k).getLast?
  let above := l.find? fun e => decide (2 * k ≤ e.1)
  match below, above with
  | some a, some b =>
    if a.1 = b.1 then a.2
    else a.2.add ((b.2.sub a.2).scale (((2 * k - a.1 : Nat) : Rat) / ((b.1 - a.1 : Nat) : Rat)))
  | some a, none => a.2
  | none, some b => b.2
  | none, none => Cx.zero

/-! ### A PDU's estimates -/

/-- The estimates of a port on a plane in a symbol group: LS and smoothed. -/
structure PortEst where
  plane : Nat
  port : Nat
  group : Nat
  ls : List (Option Cx)
  smoothed : List (Option Cx)
  deriving DecidableEq, Repr

def Chain.estimates (x : Chain) (p : PuschPdu) : List PortEst :=
  (List.range x.cell.planes).flatMap fun a => p.dmrsPorts.flatMap fun port => p.dmrsGroups.zipIdx.map fun g =>
    let row := x.lsRow p a port g.1
    { plane := a, port := port, group := g.2, ls := row, smoothed := x.smooth row }

/-- Mean time of a symbol group, and of the DMRS symbols: t_d of R204. -/
def Chain.groupTime (x : Chain) (g : List Nat) : Rat := ratMean (g.map x.centre)
def Chain.dmrsTime (x : Chain) (p : PuschPdu) : Rat := ratMean (p.dmrsSyms.map x.centre)

/-- σ²_u (R203): floored at 2^-40 of full scale. -/
def Chain.noise (x : Chain) (p : PuschPdu) (es : List PortEst) : Rat :=
  let beta := Config.dmrsScale p.cdmGroupsNoData
  let errs := es.flatMap fun e => (e.ls.zip e.smoothed).filterMap fun h => h.1.bind fun a => h.2.map fun b => (a.sub b).power
  let keep := 1 - x.tap 4 / ratSum ((List.range 8).map x.tap)
  max (1 / (2 ^ 40 : Nat)) (Config.chainRound 4 (ratMean errs * (beta * beta) / keep))

/-! ### Residual errors (R204) and common phase errors (R206) -/

/-- Unwraps phases in turns: each lies within half a turn of the one before. -/
def unwrap : Option Rat → List (Nat × Rat) → List (Nat × Rat)
  | _, [] => []
  | none, e :: l => e :: unwrap (some e.2) l
  | some p, (k, t) :: l =>
    let t := t + (ratRne (p - t) : Rat)
    (k, t) :: unwrap (some t) l

/-- Least-squares slope of points (time, value). -/
def slope (l : List (Rat × Rat)) : Rat :=
  let mx := ratMean (l.map Prod.fst)
  let my := ratMean (l.map Prod.snd)
  ratSum (l.map fun e => (e.1 - mx) * (e.2 - my)) / ratSum (l.map fun e => (e.1 - mx) * (e.1 - mx))

/-- e_f by two or more DMRS groups: the phase from the first to the last. -/
def Chain.groupError (x : Chain) (p : PuschPdu) (es : List PortEst) : Rat :=
  let last := p.dmrsGroups.length - 1
  let pairs := (es.filter fun e => e.group = last).flatMap fun e =>
    match es.find? fun d => decide (d.plane = e.plane ∧ d.port = e.port ∧ d.group = 0) with
    | some d => (e.smoothed.zip d.smoothed).filterMap fun h => h.1.bind fun b => h.2.map fun a => b.mul a.conj
    | none => []
  (Cx.sum pairs).arg / (x.groupTime (nth [] p.dmrsGroups last) - x.groupTime (nth [] p.dmrsGroups 0))

/-- e_τ in ns (R204): D is that of the PDU's first port (DESIGN CHOICE, log 100). -/
def Chain.timeError (x : Chain) (p : PuschPdu) (es : List PortEst) : Rat :=
  let pairs := es.flatMap fun e => (e.smoothed.zip (e.smoothed.drop 1)).filterMap fun h => h.1.bind fun a => h.2.map fun b => b.mul a.conj
  (Cx.sum pairs).arg / ((p.spacing (nth 0 p.dmrsPorts 0) : Rat) * x.df) * (-1000000000)

/-- Ĥ(a, p, k): the groups interpolated, corrected by the residual error, and averaged (R202, R204). -/
def Chain.channel (x : Chain) (p : PuschPdu) (es : List PortEst) (ef : Rat) (a port k : Nat) : Cx :=
  let parts := (es.filter fun e => e.plane = a ∧ e.port = port).map fun e =>
    (interpolate (x.known p port e.smoothed) k).mul
      (Cx.turn (-(ef * (x.groupTime (nth [] p.dmrsGroups e.group) - x.dmrsTime p))))
  ((Cx.sum parts).scale (1 / (parts.length : Rat))).stage 3

/-- CPE of the PDU's PTRS symbols in turns, unwrapped (R206). -/
def Chain.cpe (x : Chain) (p : PuschPdu) (h : Nat → Nat → Nat → Cx) : List (Nat × Rat) :=
  if !bit p.bitmap 2 then []
  else
    let es := Config.ptrsElements p x.inFrame
    let syms := p.symbols.filter fun l => es.any fun e => e.1 = l
    unwrap none (syms.map fun l =>
      (l, Config.chainRound 6 (Cx.sum ((es.filter fun e => e.1 = l).flatMap fun e => (List.range x.cell.planes).map fun a =>
        (x.y a e.2.1 l).mul ((h a e.2.2.1 e.2.1).mul ⟨e.2.2.2.1, e.2.2.2.2⟩).conj)).arg))

/-- The CPE of a data symbol: linear between PTRS symbols, the nearest value outside them. -/
def cpeAt (l : List (Nat × Rat)) (k : Nat) : Rat :=
  (interpolate (l.map fun e => (2 * e.1, ⟨e.2, 0⟩)) k).re

/-! ### A PDU in process -/

/-- What estimation gives of a PDU. -/
structure PduEst where
  rec_ : UlRec
  sigma : Rat
  ef : Rat
  et : Rat
  cpe : List (Nat × Rat)
  /-- Ĥ by plane and port, over the carrier's subcarriers. -/
  channel : Nat → Nat → Nat → Cx

def Chain.estimate (x : Chain) (r : UlRec) : PduEst :=
  let p := r.pdu
  let es := x.estimates p
  let many := decide (2 ≤ p.dmrsGroups.length)
  let ef0 := if many then Config.chainRound 5 (x.groupError p es) else 0
  let h := x.channel p es ef0
  let cpe := x.cpe p h
  let ef := if many then ef0 else if cpe = [] then 0 else Config.chainRound 5 (slope (cpe.map fun e => (x.centre e.1, e.2)))
  { rec_ := r, sigma := x.noise p es, ef := ef, et := Config.chainRound 5 (x.timeError p es), cpe := cpe, channel := h }

/-- The rotation of a data symbol in turns (R204, R206). -/
def Chain.rotation (x : Chain) (e : PduEst) (l : Nat) : Rat :=
  if e.cpe = [] then -(e.ef * (x.centre l - x.dmrsTime e.rec_.pdu)) else -(cpeAt e.cpe l)

/-! ### Equalisation (R207, R208) -/

/-- An equalised element: z and γ of each layer of a PDU. -/
structure Equalised where
  z : List Cx
  gamma : List Rat
  deriving DecidableEq, Repr

/-- The PDU's layers at an element, out of all layers of its resource block (R207). -/
def Chain.equalise (x : Chain) (all : List PduEst) (e : PduEst) (k l : Nat) : Equalised :=
  let here := all.filter fun u => decide (k / 12 ∈ u.rec_.pdu.rbs)
  let layers := here.flatMap fun u => u.rec_.pdu.dmrsPorts.map fun port => (u.rec_.index, (List.range x.cell.planes).map fun a => u.channel a port k)
  let sigma := ratMean (here.map (·.sigma))
  let n := layers.length
  let g := layers.zipIdx.map fun a => layers.zipIdx.map fun b =>
    (rowTimes (a.1.2.map Cx.conj) b.1.2).add (if a.2 = b.2 then ⟨sigma, 0⟩ else Cx.zero)
  let gi := inverse n g
  let y := (List.range x.cell.planes).map fun a => (x.y a k l).mul (Cx.turn (x.rotation e l))
  let matched := layers.map fun a => rowTimes (a.2.map Cx.conj) y
  let mine := layers.zipIdx.filter fun a => a.1.1 = e.rec_.index
  let mu := fun (i : Nat) => 1 - sigma * (nth Cx.zero (nth [] gi i) i).re
  { z := mine.map fun a => ((rowTimes (nth [] gi a.2) matched).scale (1 / mu a.2)).stage 7
    gamma := mine.map fun a => Config.chainRound 8 (mu a.2 / (1 - mu a.2)) }

/-- The data elements of a symbol of a PDU with their subcarriers; a DFT-s-OFDM PDU's are transformed, and π/2-BPSK derotated (R208). -/
def Chain.symbolData (x : Chain) (all : List PduEst) (e : PduEst) (l : Nat) : List (Nat × Equalised) :=
  let p := e.rec_.pdu
  let ks := p.dataAt x.cell.nRb x.inFrame l
  let zs := ks.map fun k => (k, x.equalise all e k l)
  if !p.dftS then zs
  else
    let m := ks.length
    let gamma := Config.chainRound 8 (1 / ratMean (zs.map fun q => 1 / (nth 0 q.2.gamma 0 + 1)) - 1)
    zs.zipIdx.map fun q =>
      let sum := Cx.sum (zs.zipIdx.map fun v => (nth Cx.zero v.1.2.z 0).mul (Cx.turn (((v.2 * q.2 % m : Nat) : Rat) / (m : Rat))))
      let z := (sum.scale (1 / Config.sqrt (m : Rat))).stage 7
      let z := if p.qm = 1 ∧ q.2 % 2 = 1 then z.mul ⟨0, -1⟩ else z
      (q.1.1, { z := [z], gamma := [gamma] })

/-- Every data element of a PDU in codeword order: by increasing subcarrier, then increasing symbol (R212). -/
def Chain.data (x : Chain) (all : List PduEst) (e : PduEst) : List (Nat × Nat × Equalised) :=
  e.rec_.pdu.symbols.flatMap fun l => (x.symbolData all e l).map fun q => (q.1, l, q.2)

/-! ### Demapping and selection (R210-R212) -/

/-- d of a modulation order (R211); of π/2-BPSK, 1/√2. -/
def modScale (qm : Nat) : Rat := 1 / Config.sqrt (if qm ≤ 2 then 2 else if qm = 4 then 10 else if qm = 6 then 42 else 170)

/-- λ_i of a real dimension, from λ_0 on. -/
def lambdas (d : Rat) (half : Nat) : Nat → Nat → Rat → List Rat
  | 0, _, _ => []
  | n + 1, i, v => v :: lambdas d half n (i + 1) ((2 ^ (half - (i + 1)) : Nat) * d - |v|)

/-- LLRs of one symbol of one layer, bits 0 to Qm - 1 (R211). -/
def symbolLlrs (qm : Nat) (z : Cx) (gamma : Rat) : List Rat :=
  if qm = 1 then [2 * Config.sqrt 2 * gamma * (z.re + z.im)]
  else
    let d := modScale qm
    let half := qm / 2
    let re := lambdas d half half 0 z.re
    let im := lambdas d half half 0 z.im
    ((re.zip im).flatMap fun v => [v.1, v.2]).map fun v => 4 * d * gamma * v

/-- The I8A code of an LLR, and whether it is clamped (R212). -/
def llrCode (v : Rat) : Int × Bool :=
  let c := ratRne (Config.chainRound 9 v * 4)
  (clampInt (-128) 127 c, decide (c < -128) || decide (127 < c))

/-- Descrambling and erasures of a PDU's codes (R212): `erased`, of each element in order. -/
def finishCodes (p : PuschPdu) (erased : List Bool) (codes : List Int) : List Int :=
  let per := p.layers * p.qm
  (List.range (per * erased.length)).map fun i =>
    if nth false erased (i / per) then 0
    else
      let c := nth 0 codes i
      if Config.goldBit p.cInit i then -c else c

/-! ### Figures of the link reports (R213, R214) -/

/-- 10 log10 of a power ratio in 1/256 dB, within -128 dB and 127.996 dB. -/
def decibels (x : Rat) : Int :=
  if x ≤ 0 then -32768
  else clampInt (-32768) 32767 (ratRne (Config.chainRound 10 (Config.ln x / Config.ln 10 * 10) * 256))

/-- The nearest level of a real dimension: an odd multiple of d. -/
def nearestLevel (qm : Nat) (v : Rat) : Rat :=
  let d := modScale qm
  let top : Int := (2 ^ (qm / 2) : Nat) - 1
  ((clampInt (-top) top (2 * (v / (2 * d)).floor + 1) : Int) : Rat) * d

/-- The constellation point nearest to z (R214). -/
def nearestPoint (qm : Nat) (z : Cx) : Cx :=
  if qm = 1 then (let d := modScale 1; if z.re + z.im < 0 then ⟨-d, -d⟩ else ⟨d, d⟩)
  else ⟨nearestLevel qm z.re, nearestLevel qm z.im⟩

/-- β of the effective SINR (R214). -/
def sinrBeta (qm : Nat) : Rat := if qm ≤ 2 then 1 else if qm = 4 then 7 / 2 else if qm = 6 then 11 else 40

/-- What the chain gives of a PDU: its figures and its codeword's LLR codes. `source`: 0 classical, 1 or 2 the learned receiver's slot. -/
def Chain.result (x : Chain) (all : List PduEst) (e : PduEst) (source : Nat) (learned : List LearnedLlr) : LinkFig × List Int :=
  let p := e.rec_.pdu
  let els := x.data all e
  let erased := els.map fun q => x.erased q.1 q.2.1
  let classical := els.flatMap fun q => (q.2.2.z.zip q.2.2.gamma).flatMap fun v => (symbolLlrs p.qm v.1 v.2).map llrCode
  let own := (learned.find? fun g => g.pdu = e.rec_.index).getD { pdu := e.rec_.index, codes := [], clamped := 0 }
  let codes := if source = 0 then classical.map Prod.fst else own.codes.map (clampInt (-128) 127)
  let good := els.filter fun q => !x.erased q.1 q.2.1
  let zs := good.flatMap fun q => q.2.2.z
  let gs := good.flatMap fun q => q.2.2.gamma
  let pts := zs.map (nearestPoint p.qm)
  let beta := sinrBeta p.qm
  let scale := Config.dmrsScale p.cdmGroupsNoData
  let powers := (List.range x.cell.planes).flatMap fun a => p.dmrsPorts.flatMap fun port => (p.subcarriers x.cell.nRb).map fun k =>
    ((e.channel a port k).scale scale).power
  ({ pdu := e.rec_.index, source := source
     freqErr := ratRne (e.ef * 65536)
     timeErr := ratRne (e.et * 65536)
     evm := decibels (ratSum ((zs.zip pts).map fun v => (v.1.sub v.2).power) / ratSum (pts.map Cx.power))
     sinrAvg := decibels (ratMean gs)
     sinrEff := decibels (-(beta * Config.ln (ratMean (gs.map fun g => Config.exp (-(g / beta))))))
     noise := decibels e.sigma
     rsrp := decibels (ratMean powers)
     cpeRms := (ratRne (Config.sqrt (ratMean (e.cpe.map fun c => c.2 * c.2)) * 65536)).toNat % 65536
     erasedRe := (erased.filter id).length
     llrSat := if source = 0 then (classical.filter Prod.snd).length else own.clamped },
   finishCodes p erased codes)

/-! ### The slot -/

/-- The source of a PDU's LLRs (R210): the receiver's slot that is active, when the mode is LEARNED and the PDU is eligible (R209). -/
def llrSource (s : State) (c : Cell) (p : PuschPdu) : Nat :=
  match (if c.learned then slotWith s c 3 else none) with
  | some k => if eligible s c k p then k + 1 else 0
  | none => 0

/-- What the chain computes of an uplink slot: for each PDU, its figures and LLR codes. -/
def receiveSlot (s : State) (c : Cell) (u : UlSlot) (learned : List LearnedLlr) : List (LinkFig × List Int) :=
  match getJob s c.up with
  | none => []
  | some j =>
    let x : Chain :=
      { cell := c, job := j, recs := u.recs, inFrame := u.slotInFrame, grid := gridElement s c j u.slot, erased := gridErased s c j u.slot }
    let all := u.recs.map x.estimate
    all.map fun e => x.result all e (llrSource s c e.rec_.pdu) learned

end Sys2Proof.Machine
end

