-- ==== Sys2Proof/Machine/Steps.lean ====
section
/-! DEFINITION. The steps of a sequencer: issue, completion and what completes with it, epochs and plan rules, stalls (02 R56-R65,
03 R83-R93, 08 R205, R213, 14 R367, 17 R472). -/

namespace Sys2Proof.Machine

/-! ### Errors that the check bits of a core's memories find (19 R498) -/

/-- The stream whose buffer holds a granule of a core, or 0xFFFF. -/
def bufferStream (i : Inst) (g : Nat) : Nat :=
  match i.rings.find? fun r => r.holds g with
  | some r => r.stream
  | none => 0xFFFF

/-- One error that a step meets, and whether it stops the step: memory 1 scratchpad, 2 accumulators and registers, 3 tables, 4 signal
unit memories (R498 table order). -/
def eccFind (c : Nat) (u : Cur) (r : State × Bool) (e : EccFind) : State × Bool :=
  let s := r.1
  let found := fun (action : Nat) => log s clsUncorrected 0 c (e.address % 2 ^ 48 + e.memory * 2 ^ 48) u.job.part action
  if r.2 ∨ e.memory = 0 ∨ 4 < e.memory then r
  else if ¬ e.uncorrected then (correctedError s 0 c e.memory e.address u.job.part, false)
  else if e.memory = 1 then
    (faultJob (found 2) u.h 4 (bufferStream u.inst (e.address / 64)) 0xFFFFFFFF c (e.address / 262144), true)
  else if e.memory = 2 then (coreFails (found 3) c, true)
  else (endBadly (found 2) u.h eFault (some (tableEccWords (logicalCore s c))), true)

/-- The errors that a step meets, in order. -/
def eccFinds (s : State) (c : Nat) (u : Cur) (es : List EccFind) : State × Bool := es.foldl (eccFind c u) (s, false)

/-- The errors that a step in progress on a core meets. -/
def runningFinds (s : State) (c : Nat) (es : List EccFind) : State :=
  match cur s c with
  | some u => (eccFinds s c u es).1
  | none => s

/-! ### Posts of a produced count that a chip station reads (09 R237, 17 R472) -/

/-- Tiles of the epoch that earlier steps of the plan have posted to a binding. -/
def Inst.postedBefore (i : Inst) (step bind : Nat) : Nat :=
  sumNat ((i.table.take step).map fun w => if stPostEn w ∧ stPostBind w = bind then stPostAdd w else 0)

/-- The EXACT record of a station's instance: (LINK_FORMAT, LINK_ROUND) (04 R116). -/
def exactOf (img : List Byte) (station inst : Nat) : Option (Nat × Nat) :=
  ((List.range (imgSection img 0x000F).1).find? fun k =>
    imgField img 0x000F 16 k 0 2 = station && decide (imgField img 0x000F 16 k 2 2 ≤ inst)
      && decide (inst < imgField img 0x000F 16 k 2 2 + imgField img 0x000F 16 k 4 2)).map
    fun k => (imgField img 0x000F 16 k 6 1, imgField img 0x000F 16 k 7 1)

/-- A row of F32 elements narrowed to a link format (04 R103-R105, R118). No field gives SAT: it is 0, and a value out of the range of
BF16 leaves as infinity (DESIGN CHOICE, log 97). -/
def narrowRow (fmt : Nat) (mode : Nat → Rnd) (xs : List Val) : List Byte :=
  let scales := if isMx fmt then (List.range (xs.length / 32)).map fun b => mxScale fmt ((xs.drop (32 * b)).take 32) else []
  let codes := xs.zipIdx.map fun e =>
    if isMx fmt then (mxElem fmt (nth 0 scales (e.2 / 32)) (mode e.2) e.1).code
    else
      match floatOf fmt with
      | some f => (f.convert (mode e.2) false e.1).code
      | none => 0
  packCodes (elemBits fmt) codes ++ scales.map fun b => BitVec.ofNat 8 b

/-- The granules of tile k of the epoch that an instance has produced on a stream: in HBM for HOME 1, else in its own buffer
(02 R593). -/
def producedTile (s : State) (c : Nat) (u : Cur) (stream inst k : Nat) : List Byte :=
  let t := streamTile u.job.image stream
  if streamField u.job.image stream 7 1 = 1 then
    let base := imgField u.job.image 0x000B 16 (streamField u.job.image stream 0x12 2) 0 8
    let first := (inst * streamTiles u.job.image stream u.inst.plan + k) * t.spacing
    match Tbl.find s.work.parts u.job.part with
    | some q => hbmBytes s q (base + 64 * first) (64 * t.spacing)
    | none => []
  else
    match u.inst.tileSlot stream k true with
    | some g => (List.range t.spacing).flatMap fun x => Mem.bytes (getCore s c).scratch (64 * u.inst.granule (g + x)) 64
    | none => []

/-- A tile as it leaves the device: an F32 tile of an exact instance is narrowed row by row, each row and plane in the place that the
sender's tile descriptor gives it (04 R118, 17 R472). SAT is 0 where the target has a choice (DESIGN CHOICE, log 97). -/
def linkTile (u : Cur) (stream station inst k : Nat) (raw : List Byte) : List Byte :=
  let img := u.job.image
  let t := streamTile img stream
  match exactOf img station inst with
  | none => raw
  | some (fmt, round) =>
    if fmt = 0xFF ∨ t.format ≠ 0 then raw
    else
      (List.range t.planes).flatMap fun p =>
        let rows := (List.range t.rows).flatMap fun r =>
          let row := raw.drop (64 * (p * t.planeStride + r * t.rowStride))
          let xs := (List.range t.elems).map fun e => fF32.decode (leNat ((row.drop (4 * e)).take 4))
          let seed := (seedOf img stream).getD 0
          let mode := fun (e : Nat) => if round = 1 then Rnd.sr (srWord seed u.inst.epoch inst k ((p * t.rows + r) * t.elems + e)) else .rne
          padTo (64 * t.rowStride) (narrowRow fmt mode xs)
        if t.planes > 1 then padTo (64 * t.planeStride) rows else rows

/-- The SEND entry of a LINK station for a stream: PEER_XOR and REMOTE_STREAM (17 R471). -/
def sendEntry (img : List Byte) (station stream : Nat) : Option (Nat × Nat) :=
  let o := stationField img station 0x0C 4
  ((List.range (constField img o 2)).find? fun e =>
    constField img (o + 32 + 16 * e) 1 = 0 && constField img (o + 34 + 16 * e) 2 = stream).map
    fun e => (constField img (o + 33 + 16 * e) 1, constField img (o + 36 + 16 * e) 2)

/-- A LINK station sends a tile that has been posted, and posts its consumption (17 R472). -/
def sendTile (s : State) (c : Nat) (u : Cur) (stream link k : Nat) : State :=
  let img := u.job.image
  let producer := streamField img stream 0 2
  let inst := ((u.inst.stations.find? fun x => x.1 = producer).map Prod.snd).getD 0
  match sendEntry img link stream with
  | none => s
  | some (peer, remote) =>
    let data := linkTile u stream producer inst k (producedTile s c u stream inst k)
    let ring := ((u.inst.ringOf stream true).map (·.rho)).getD 0
    let s := relneSend s [Nat.log2 peer] "tile" ([u.job.part, u.job.groupTag, remote, ring + k] ++ data.map (·.toNat))
    let s := chargeJob s u.h { Ledger.none with linkBytes := data.length }
    consumeBy s u.h stream 9 1 (sourceCode 5 s.net.relne.chip.toNat)

/-- A downlink symbol tile has been posted: EGRESS knows when, or discards it when its symbol is past (09 R237). -/
def symbolPosted (s : State) (u : Cur) (k : Nat) : State :=
  match u.job.kind with
  | .cellDown ci =>
    match getCell s ci with
    | none => s
    | some c =>
      let tile := 14 * u.inst.epoch + k
      if tile ∈ c.lateTiles then
        postConsumed (putCell s ci { c with lateTiles := c.lateTiles.filter (· ≠ tile) }) u.h (paramOf u.job.image 11 0x0A 2)
          (sourceCode 4 c.port)
      else putCell s ci { c with symPosts := Tbl.put c.symPosts tile (nowNs s) }
  | _ => s

/-- What a step's post of a produced count brings about in the stream's consumer, when that is a chip station. -/
def postHooks (s : State) (c : Nat) (u : Cur) (w : BitVec 128) (step : Nat) : State :=
  match (if stPostEn w then u.inst.bind (stPostBind w) else none) with
  | none => s
  | some b =>
    if b.kind ≠ 0 then s
    else
      let link := streamField u.job.image b.stream 2 2
      let kind := stationField u.job.image link 0 1
      let ks := (List.range (stPostAdd w)).map fun k => u.inst.postedBefore step (stPostBind w) + k
      if kind = 9 then ks.foldl (fun s k => sendTile s c u b.stream link k) s
      else if kind = 11 then ks.foldl (fun s k => symbolPosted s u k) s
      else s

/-- The post of a step that has completed, and what follows from it. -/
def postStep (s : State) (c : Nat) (u : Cur) (w : BitVec 128) (step : Nat) : State :=
  settleAborts (postHooks (post s c u w) c u w step) u.h

/-! ### Issue (02 R57, R58) -/

/-- A step that completes when it issues. -/
def issueNow (s : State) (c op : Nat) : State :=
  match issuing s c op with
  | none => s
  | some (u, w) => postStep (advance s c u) c u w u.inst.step

def execNop (core : Nat) (s : State) : Out := .next (issueNow s core 0)
def execPost (core : Nat) (s : State) : Out := .next (issueNow s core 8)
/-- FENCE: it completes once every step issued before it has (02 R58). -/
def execFence (core : Nat) (s : State) : Out := .next (issueNow s core 11)

/-- A unit begins the step that is the oldest it holds. -/
def startUnit (s : State) (c : Nat) (u : Cur) (w : BitVec 128) : State :=
  match stOp w with
  | 3 => startVec s c w
  | 4 => startSig s c w
  | 7 => runMint s c u w
  | _ => s

/-- Issues a step of a unit, which begins it at once when it holds no other. -/
def issueUnit (s : State) (c : Nat) (u : Cur) (w : BitVec 128) (x : Unit_) : State :=
  let idle := !u.inst.issued.any fun y => y.unit = x
  let s := issueTimed s c u w x 0
  if idle then startUnit s c u w else s

/-- Issues the step of a class that stands next on a core, unless one of the errors that it meets stops it. -/
def issueChecked (s : State) (c op : Nat) (ecc : List EccFind) (f : Cur → BitVec 128 → State → State) : State :=
  match issuing s c op with
  | none => s
  | some (u, w) =>
    let r := eccFinds s c u ecc
    if r.2 then r.1 else f u w r.1

/-- VEC and SIG: programs of the vector engine and the signal unit (02 R57). -/
def execVec (core : Nat) (ecc : List EccFind) (s : State) : Out :=
  .next (issueChecked s core 3 ecc fun u w s => issueUnit s core u w .vector)
def execSig (core : Nat) (ecc : List EccFind) (s : State) : Out :=
  .next (issueChecked s core 4 ecc fun u w s => issueUnit s core u w .signal)

/-- MINT (04 R110, R111). -/
def execMint (core : Nat) (ecc : List EccFind) (s : State) : Out :=
  .next (issueChecked s core 7 ecc fun u w s => issueUnit s core u w .vector)

/-- A RELOAD: the stationary block goes to the array's shadow registers (03 R84). -/
def reloadArray (s : State) (c : Nat) (u : Cur) (w : BitVec 128) : State :=
  let e := opEntry (Tbl.get 0 (getEng s c).mat.opfile (rlEntry (stArg w)))
  let b := readBlock (getCore s c).scratch u.inst e (rlBase (stArg w))
  updEng s c fun x => { x with mat := { x.mat with arrays := modNth x.mat.arrays (stSub w) fun a => a.load b (rlEntry (stArg w)) } }

/-- A PASS: the shadow weights are swapped in, the rows of the batch go through, the accumulator rows are written (03 R74, R83). -/
def passArray (s : State) (c : Nat) (u : Cur) (w : BitVec 128) : State :=
  let m := (getEng s c).mat
  let a := (nth MatArray.cleared m.arrays (stSub w)).swapped
  let e := opEntry (Tbl.get 0 m.opfile a.entry)
  let r := passRun (getCore s c).scratch u.inst (stSub w) e a.active (stArg w) m.acc
  let s := updEng s c fun x => { x with mat := { x.mat with acc := r.1, arrays := setNth x.mat.arrays (stSub w) a } }
  updRun s u.h fun v => { v with matSat := v.matSat + r.2 }

/-- A step of an array: a residue or parity mismatch is a failure of the core, before any error that a read finds (03 R92, R93). -/
def arrayStep (s : State) (c op : Nat) (check : ArrayCheck) (ecc : List EccFind) (f : State → Nat → Cur → BitVec 128 → State) : State :=
  match issuing s c op with
  | none => s
  | some _ =>
    if check = .mismatch then coreFails s c
    else issueChecked s c op ecc fun u w s => issueTimed (f s c u w) c u w (.array (stSub w)) 0

def execReload (core : Nat) (check : ArrayCheck) (ecc : List EccFind) (s : State) : Out := .next (arrayStep s core 2 check ecc reloadArray)
def execPass (core : Nat) (check : ArrayCheck) (ecc : List EccFind) (s : State) : Out := .next (arrayStep s core 1 check ecc passArray)

/-- A FEED or STORE issues its transactions (12 R322); one that faults ends the invocation (12 R328). -/
def issueMoves (s : State) (c op : Nat) (ecc : List EccFind) : State :=
  issueChecked s c op ecc fun u w s => settleAborts (issueMover s c u w) u.h

def execFeed (core : Nat) (ecc : List EccFind) (s : State) : Out := .next (issueMoves s core 5 ecc)
def execStore (core : Nat) (ecc : List EccFind) (s : State) : Out := .next (issueMoves s core 6 ecc)

/-- DIGEST (14 R374, R375). -/
def execDigest (core : Nat) (ecc : List EccFind) (s : State) : Out :=
  .next (issueChecked s core 10 ecc fun u w s => issueTimed (takeDigest s core u w) core u w .mover 0)

/-! ### The results of an uplink slot (08 R205, R213) -/

/-- K_P and K_I of the tracking loop, as 2^-n (16 R437 GAINS). -/
def Cell.gains (c : Cell) : Nat × Nat :=
  let g := c.f 0x2E 1
  if g = 0 then (2, 6) else (g % 16, g / 16)

/-- A tracking context after a slot's errors (R205). Δf ÷ 10 in 2^-16 Hz; CP ÷ 2 in 2^-16 ns. -/
def TrackCtx.update (x : TrackCtx) (c : Cell) (g : LinkFig) : TrackCtx :=
  let kp := c.gains.1
  let ki := c.gains.2
  let maxF : Int := (15000 * 2 ^ c.mu * 65536 / 10 : Nat)
  let maxT : Int := (153600000 / 2 ^ c.mu : Nat)
  let freqI := x.freqI + Config.trackRound g.freqErr ki
  let timeI := x.timeI + Config.trackRound g.timeErr ki
  { x with
    freqI := freqI
    freq := clampInt (-maxF) maxF (x.freq + Config.trackRound g.freqErr kp + freqI)
    timeI := timeI
    time := clampInt (-maxT) maxT (x.time + Config.trackRound g.timeErr kp + timeI)
    age := 0 }

/-- The contexts that a slot's results update: the PDU with the lowest index of an RNTI does. -/
def slotUpdates (c : Cell) (u : UlSlot) (figs : List LinkFig) : List TrackCtx :=
  (u.recs.foldl (fun (xs : List TrackCtx) r =>
    match (if r.ctx ∧ !xs.any (fun x => x.rnti = r.pdu.rnti) then c.ctxOf r.pdu.rnti else none),
        figs.find? fun g => g.pdu = r.index with
    | some x, some g => xs ++ [x.update c g]
    | _, _ => xs) [])

/-- LINK_REPORT of a PUSCH PDU (R213). -/
def linkReport (s : State) (ci : Nat) (c : Cell) (u : UlSlot) (r : UlRec) (g : LinkFig) (x : Option TrackCtx) : State :=
  let sg := fun (n : Nat) (v : Int) => leBytes n (unsigned (8 * n) v)
  let flags := g.source % 4 + 4 * b2n (decide (0 < g.erasedRe)) + 8 * b2n r.pdu.dftS + 16 * b2n r.ctxNew
  writeMessage s c.till 0x0810 0
    (leBytes 4 r.pdu.handle ++ leBytes 2 r.pdu.rnti ++ leBytes 1 ci ++ leBytes 1 flags ++ leBytes 2 u.sfn ++ leBytes 1 u.slotInFrame
      ++ leBytes 1 r.pdu.layers ++ sg 2 g.evm ++ sg 2 g.sinrAvg ++ sg 2 g.sinrEff ++ sg 2 g.noise ++ sg 2 g.rsrp ++ leBytes 2 g.cpeRms
      ++ sg 4 (rneInt ((x.map (·.freq)).getD 0) 4096) ++ sg 4 (rneInt ((x.map (·.time)).getD 0) 256) ++ leBytes 4 g.erasedRe
      ++ leBytes 4 g.llrSat ++ leBytes 8 0) false

/-- Indications of what the classical path found in a slot (09 R239). -/
def sendFound (s : State) (ci : Nat) (u : UlSlot) (found : List Detection) : State :=
  let s := found.foldl (fun s d => match d with
    | .uci h r bits => sendFapi s ci (.uci u.sfn u.slotInFrame h r true bits)
    | .srs h r snr ta => sendFapi s ci (.srs u.sfn u.slotInFrame h r snr ta)
    | .rach _ _ _ => s) s
  let ras := found.filterMap fun d => match d with
    | .rach p ta pw => some (p, ta, pw)
    | _ => none
  if ras = [] then s else sendFapi s ci (.rach u.sfn u.slotInFrame ras)

/-- The results of an uplink slot reach the tellers: link reports, indications, the codewords' LLRs, and the slot's own when its decoding is
over (R199-R214). -/
def slotResults (s : State) (ci slot : Nat) (learned : List LearnedLlr) (found : List Detection) : State :=
  match (getCell s ci).bind fun c => (c.ulSlot slot).map fun u => (c, u) with
  | none => s
  | some (c, u) =>
    if u.reported then s
    else
      let results := receiveSlot s c u learned
      let figs := results.map Prod.fst
      let ups := slotUpdates c u figs
      let ctx := fun (r : UlRec) => if r.ctx then ups.find? fun x => x.rnti = r.pdu.rnti else none
      let s := u.recs.foldl (fun s r => match figs.find? fun g => g.pdu = r.index with
        | some g => linkReport s ci c u r g (ctx r)
        | none => s) s
      let s := sendFound s ci u found
      let s := updCell s ci fun c =>
        { c.updUl slot fun u =>
            { u with
              reported := true
              recs := u.recs.map fun r =>
                { r with
                  fig := figs.find? fun g => g.pdu = r.index
                  llr := (results.find? fun g => g.1.pdu = r.index).map Prod.snd
                  tau := ((ctx r).map (·.time)).getD 0 } } with updates := ups }
      settleSlot s ci slot

/-- What a step of a cell's job hands over when it completes. -/
def stepResult (s : State) (u : Cur) : StepResult → State
  | .none => s
  | .slot learned found =>
    match u.job.kind with
    | .cellUp ci =>
      match getCell s ci with
      | some c => slotResults s ci (c.firstUp + u.inst.epoch) learned found
      | none => s
    | _ => s
  | .downlink symbol =>
    match u.job.kind with
    | .cellDown ci =>
      match getCell s ci with
      | some c => precodeSymbol s ci (c.firstDown + u.inst.epoch) symbol
      | none => s
    | _ => s

/-! ### Lent windows (01 R34, 13 R339, R340) -/

/-- The partition that a core's lent windows are open to: the one that borrows it, else its own. -/
def borrowerOf (s : State) (c own : Nat) : Nat :=
  match s.work.parts.find? fun e => c ∈ e.2.borrowed with
  | some e => e.1
  | none => own

/-- A lent window opens when the step before its gap has completed and the core is idle: the lent segments are rinsed first. -/
def openWindow (s : State) (c : Nat) (u : Cur) (step : Nat) : State :=
  let declared := u.inst.windows.any fun w => decide (w.1 = u.inst.plan ∧ w.2.1 = step)
  let busy := ((getJob s u.h).bind fun j => j.instOn c).elim true fun i => !i.issued.isEmpty
  if u.job.bestEffort ∨ !declared ∨ busy then s
  else
    let s := updCore s c fun k => { k with run := if k.run = some u.h then none else k.run }
    let p := borrowerOf s c u.job.part
    if lentSegs s c = [] then updCore s c fun k => { k with lentTo := some p }
    else startRinse s [(c, lentSegs s c)] (.lend c p)

/-! ### Completion (02 R58) -/

/-- STEP_COMPLETE: the oldest step of a unit completes; `energy`: what the power meter read of it (18 R485); `result`: what it hands
to the tellers. -/
def execStepComplete (core : Nat) (u : Unit_) (energy : Option Nat) (result : StepResult) (s : State) : Out :=
  .next (match cur s core with
    | none => s
    | some v =>
      match v.inst.issued.find? fun x => x.unit = u with
      | none => s
      | some x =>
        if v.inst.phase ≠ .running ∨ ¬ unitDone s core x then s
        else
          let rest := dropFirst u v.inst.issued
          let s := updInst s v.h core fun i => { i with issued := rest }
          let s := match energy with
            | some e => learnPhase s v.h v.inst x.index e
            | none => s
          let s := match rest.find? fun y => y.unit = u with
            | some y => match cur s core with
              | some v' => startUnit s core v' y.word
              | none => s
            | none => s
          let s := stepResult s v result
          let s := postStep s core v x.word x.index
          openWindow s core v x.index)

/-! ### Epochs (02 R61-R65) -/

/-- Whether some core of a job has begun an epoch. -/
def Job.hasBegun (j : Job) (e : Nat) : Bool := j.insts.any fun i => i.hasBegun e

/-- What follows when every core has completed epoch e: tracking contexts take their updates, or age; a service accepts what its step
computed and forms its next batch (08 R205, 11 R294-R296). -/
def epochOver (s : State) (h e : Nat) : State :=
  match getJob s h with
  | none => s
  | some j =>
    match j.kind with
    | .cellUp ci => settleStop (updCell s ci fun c =>
        { c with
          contexts := c.contexts.map fun x => (c.updates.find? fun y => y.rnti = x.rnti).getD { x with age := x.age + 1 }
          updates := []
          slots := satInc c.slots 1 }) ci
    | .cellDown ci => settleStop s ci
    | .adapt _ => s
    | .host => settleServices (serviceTurn (serviceEnds s h e) h)

/-- Epochs that every core of a job has completed, in the invocation that runs. -/
def epochsOf (s : State) (h : Nat) : Nat := ((getJob s h).map Job.epochsDone).getD 0

/-- The effect of a completed EPOCH_END. -/
def epochEnds (s : State) (c : Nat) (u : Cur) (w : BitVec 128) : State :=
  let e := u.inst.epoch
  let before := epochsOf s u.h
  let last := u.job.insts.all fun i => i.core = c || decide (e < i.epoch)
  let s := endEpochOn (post s c u w) c u
  let s := if (getCore s c).claim = some u.h then openWindow s c u u.inst.step else s
  if last ∧ before = e then epochOver s u.h e else s

/-- EPOCH_END: it completes when every unit of the core is idle; the errors that its tables met are rewritten, or fault it (02 R61,
19 R498). -/
def execEpochEnd (core : Nat) (ecc : List EccFind) (s : State) : Out :=
  .next (match issuing s core 12 with
    | none => s
    | some (u, w) =>
      let r := eccFinds s core u ecc
      if r.2 then r.1 else epochEnds r.1 core u w)

/-- What the first core that begins epoch e brings about: the uplink slot on air is fixed and the staging entry is written again, the
downlink slot is built, CELL_START completes with epoch 0, a service's batch begins (08 R196, 09 R234, 10 R251, 11 R294). -/
def epochStarts (s : State) (h e : Nat) (kind : JobKind) : State :=
  match kind with
  | .cellUp ci =>
    match getCell s ci with
    | none => s
    | some c =>
      let n := c.firstUp + e
      let s := fixUplink (n + 3 - c.nextFixed) s ci (n + 1)
      let s := if (getAdapt s ci).config = [] then s else
        match getCell s ci with
        | some c => stagingReused (settleSwitch s ci n) ci (c.counter n % 8)
        | none => s
      if e = 0 then cellStarted s ci else s
  | .cellDown ci =>
    match getCell s ci with
    | none => s
    | some c => buildDownlink s ci (c.firstDown + e)
  | .adapt _ => s
  | .host => serviceTurn (serviceBegins s h e) h

/-- EPOCH_BEGIN: at once after the EPOCH_END, or at the aligned device time (02 R61). -/
def execEpochBegin (core : Nat) (s : State) : Out :=
  .next (match cur s core with
    | none => s
    | some u =>
      match mayBegin s core u with
      | none => s
      | some plan =>
        let first := !u.job.hasBegun u.inst.epoch
        let s' := beginEpoch s core u plan
        let s' := if u.inst.late then match u.job.cell with
            | some ci => updCell s' ci fun c => { c with deadlineMiss := satInc c.deadlineMiss 1 }
            | none => s'
          else s'
        if first then epochStarts s' u.h u.inst.epoch u.job.kind else s')

/-- EPOCH_LIMIT: the last epoch of the invocation has completed on every core (02 R47, R62). -/
def execEpochLimit (job : Nat) (s : State) : Out :=
  .next (match (getJob s job).bind Job.run with
    | none => s
    | some r =>
      if r.last.isSome ∨ ¬ runComplete s job then s
      else settleServices (settleRounds (endInvocation s job eOk none)))

/-- The plan that a rule's ranges give a selector word (02 R64). -/
def Job.rangePlan (j : Job) (word : Nat) : Nat :=
  match (List.range (j.ruleField 5 1)).find? fun k => decide (word ≤ j.ruleField (16 + 8 * k) 4) with
  | some k => j.ruleField (20 + 8 * k) 1
  | none => 0

/-- PLAN_RULE_SELECT: READY has reached its base for the epoch after the one whose rule is due (02 R65, log 67). -/
def execPlanRuleSelect (job : Nat) (s : State) : Out :=
  .next (match getJob s job with
    | none => s
    | some j =>
      match j.run, j.tallyOfRecord (j.ruleField 2 2) with
      | some r, some t =>
        let e := r.ruleNext
        let due := j.ruleDue r
        if ¬ j.rules ∨ r.ending ∨ ((getTally s (tallyOf s j.part t)).value.toNat : Int) < due then s
        else
          let plan := j.rangePlan (Tbl.get 0 j.selectors (j.ruleField 0 2))
          let s := updRun s job fun r =>
            { r with rulePlans := Tbl.put r.rulePlans (e + j.ruleField 4 1) plan, ruleNext := e + 1, ruleBase := due }
          match j.kind with
          | .cellUp ci => postUplink 8 s ci
          | _ => s
      | _, _ => s)

/-! ### Stalls (14 R367) -/

/-- STALL_LIMIT: a step has waited for 1 s on a produced count, a consumed count or a group tally. -/
def execStallLimit (core : Nat) (s : State) : Out :=
  .next (match nextStep s core with
    | none => s
    | some (u, w) =>
      match u.inst.bind (stWaitBind w) with
      | none => s
      | some b =>
        let group := u.job.groups.any fun g => decide (g.2.1 = b.tally)
        if waitMet s core u w ∨ (b.kind = 2 ∧ !group) ∨ nowNs s < u.inst.waitSince + 1000000000 then s
        else endBadly s u.h eTimeout
          (some (logicalCore s core + stWaitBind w * 256, b.tally, ((b.base + stDelta w) % 2 ^ 32).toNat)))

end Sys2Proof.Machine
end

