-- ==== Sys2Proof/Machine/Yield.lean ====
section
/-! DEFINITION. Checkpoints, yields, rinses, lent windows, best-effort dispatch, segments that wake, and transactions that land
(01 R33, R34; 02 R66-R68; 12 R307-R310, R319-R329; 13 R338-R342; 14 R373). -/

namespace Sys2Proof.Machine

/-! ### Checkpoints (02 R67, R68) -/

/-- CHECKPOINT: a NOP in a latency-critical job; in a best-effort one it completes when every unit is idle, unless a yield is asked, or
its own tally wait is not met while another instance is ready: then the instance halts (13 R341). -/
def execCheckpoint (core : Nat) (s : State) : Out :=
  .next (match nextStep s core with
    | none => s
    | some (u, w) =>
      if stOp w ≠ 9 then s
      else if ¬ u.job.bestEffort then issueNow s core 9
      else if ¬ u.inst.issued.isEmpty then s
      else
        let met := waitMet s core u w
        let k := getCore s core
        let go := fun (s : State) => if met then postStep (advance s core u) core u w u.inst.step else s
        if k.yield ∨ (¬ met ∧ otherReady k) then go (haltForYield s core u w) else go s)

/-- Place of an instance in its job, which is its place in the save region (16 R432). -/
def Job.instIndex (j : Job) (c : Nat) : Nat := (j.insts.takeWhile fun i => i.core ≠ c).length

/-- Partition address of an instance's save area; none: the job has no save region of its own in HBM (log 76). -/
def Job.saveAt (j : Job) (c : Nat) : Option Nat :=
  match j.kind with
  | .host => some (j.saveAddr + saveBytes * j.instIndex c)
  | _ => none

/-- The page of a range that is not MAPPED, if there is one. -/
def Part.hole (q : Part) (a n : Nat) : Option Nat :=
  let first := a / pageBytes
  ((List.range ((a + max n 1 - 1) / pageBytes + 1 - first)).map (first + ·)).find? fun p => !q.isMapped p

/-- The hole in the save area of an instance, if there is one. -/
def saveHole (s : State) (j : Job) (c n : Nat) : Option Nat :=
  match j.saveAt c, Tbl.find s.work.parts j.part with
  | some a, some q => q.hole a n
  | _, _ => none

/-- The translation context that is saved: the step, its plan and the epoch (12 R318). -/
def contextBytes (i : Inst) : List Byte := padTo 64 (leBytes 4 i.epoch ++ leBytes 4 i.plan ++ leBytes 4 i.step)

/-- Segments that a core hands back at a yield: those that a lending partition lends, else those of the instance (01 R33, 13 R340). -/
def backSegs (s : State) (c : Nat) (i : Inst) : List Nat :=
  if (getCore s c).lentTo.isSome ∧ lentSegs s c ≠ [] then lentSegs s c else segList i.segments

/-- SAVE_COMPLETE: the live state and the context are in HBM; the yield completes, and what is handed back is rinsed. -/
def execSaveComplete (core : Nat) (s : State) : Out :=
  .next (match cur s core with
    | none => s
    | some u =>
      if u.inst.phase ≠ .saving then s
      else
        let data := u.inst.saved.flatMap (·.2) ++ contextBytes u.inst
        match saveHole s u.job core data.length with
        | some page => faultJob s u.h 1 0xFFFF page core 0xFF
        | none =>
          let s := match u.job.saveAt core with
            | some a => hbmWrite s u.job.part a data
            | none => s
          let s := chargeEach s u.h { Ledger.none with preemptions := 1 }
          let asked := (getCore s core).yield
          let segs := backSegs s core u.inst
          let s := updInst s u.h core fun i => { i with phase := .saved }
          let s := updCore s core fun k => { k with run := none, ready := k.ready ++ [u.h] }
          if asked then startRinse s [(core, segs)] (.handBack core) else s)

/-- YIELD_ABORT_POINT: a yield that has not saved its state by now aborts its invocation, and what is handed back is rinsed (01 R33,
13 R349). -/
def execYieldAbortPoint (core : Nat) (s : State) : Out :=
  .next (match cur s core with
    | none => s
    | some u =>
      if ¬ (getCore s core).yield ∨ ¬ u.job.bestEffort then s
      else
        let segs := backSegs s core u.inst
        let s := chargeEach s u.h { Ledger.none with preemptions := 1 }
        endBadly (startRinse s [(core, segs)] (.handBack core)) u.h eAborted none)

/-! ### Rinses (12 R309, R310) -/

/-- What may go on once rinses have ended. -/
def settleWork (s : State) : State := settleLoads (settleServices (settleRounds s))

/-- RINSE_COMPLETE: every granule of the core's segments that are rinsed is zero. -/
def execRinseComplete (core : Nat) (s : State) : Out :=
  .next (
    let k := getCore s core
    if k.rinsing = [] ∨ ¬ coreRuns s core then s
    else
      let s := updCore s core fun k => { k.rinsing.foldl (fun k n => k.zeroSeg n) k with rinsing := [] }
      let s := updWork s fun w => { w with rinses := w.rinses.map fun r => { r with cores := r.cores.filter (· ≠ core) } }
      settleWork (restSegs (settleRinses s) core))

/-! ### Lent windows and best-effort work (13 R338-R341) -/

/-- LENT_WINDOW_CLOSE: what runs there is asked to yield; an idle window is rinsed and handed back. -/
def execLentWindowClose (core : Nat) (s : State) : Out :=
  .next (
    let k := getCore s core
    if k.lentTo.isNone ∨ k.yield then s
    else if k.run.isSome then requestYield s core
    else if lentSegs s core = [] then handBack s core
    else startRinse s [(core, lentSegs s core)] (.handBack core))

/-- Whether a rinse hands a core over. -/
def handingOver (s : State) (c : Nat) : Bool :=
  s.work.rinses.any fun r => match r.use with
    | .handBack k => k = c
    | .lend k _ => k = c
    | _ => false

/-- The best-effort job that an unclaimed or lent core runs next (13 R341). -/
def nextReady (s : State) (c : Nat) : Option Nat :=
  let k := getCore s c
  if k.run.isSome ∨ handingOver s c ∨ (getTest s ⟨0, c⟩).running ∨ ¬ coreRuns s c then none
  else
    match k.lentTo with
    | some p => k.ready.find? fun h => (getJob s h).elim false fun j => j.part = p
    | none => if k.claim.isNone then k.ready.head? else none

/-- The live state as it stands in the save area. -/
def savedData (s : State) (j : Job) (c : Nat) (i : Inst) : List (Nat × List Byte) :=
  match j.saveAt c, Tbl.find s.work.parts j.part with
  | some a, some q =>
    (i.saved.foldl (fun (x : List (Nat × List Byte) × Nat) r =>
      (x.1 ++ [(r.1, hbmBytes s q (a + x.2) r.2.length)], x.2 + r.2.length)) ([], 0)).1
  | _, _ => i.saved

/-- The step block's page lists are read again on resumption: the transfers of the plan that fill their buffer (12 R318). -/
def pageListReads (s : State) (u : Cur) (c : Nat) : List (Txn ⊕ (Nat × Nat × Nat)) :=
  match Tbl.find s.work.parts u.job.part, u.inst.rings.find? fun r => r.holds (u.inst.pageLists / 64) with
  | some q, some r =>
    if u.job.pool.isNone then []
    else
      let es := (List.range u.inst.step).flatMap fun k => (u.inst.entries u.inst.plan k).map fun e => (k, e)
      (es.filter fun x => seKind x.2 = 0 && !sePaged x.2 && r.holds (seLocal x.2)).map fun x => makeTxn s c u q x.1 x.2
  | _, _ => []

/-- Restores the live state of a suspended instance and reads its page lists again (02 R67, 12 R318). -/
def resumeInst (s : State) (c : Nat) (u : Cur) : State :=
  let n := (u.inst.saved.flatMap (·.2)).length + 64
  match saveHole s u.job c n with
  | some page => faultJob s u.h 1 0xFFFF page c 0xFF
  | none =>
    let data := savedData s u.job c u.inst
    let s := updCore s c fun k => { k with scratch := data.foldl (fun m r => Mem.writeBytes m (64 * r.1) r.2) k.scratch }
    let s := updInst s u.h c fun i => { i with phase := .running, saved := [], waitSince := nowNs s }
    let reads := pageListReads s u c
    match reads.findSome? fun t => match t with
        | .inr f => some f
        | .inl _ => none with
    | some (cause, stream, page) => faultJob s u.h cause stream page c 0xFF
    | none => reads.foldl (fun s t => match t with
        | .inl x => landOn s u.job c x.near (txnData s x)
        | .inr _ => s) s

/-- BE_DISPATCH: the instance at the head of the ready queue runs, or resumes. -/
def execBeDispatch (core : Nat) (s : State) : Out :=
  .next (match nextReady s core with
    | none => s
    | some h =>
      match (getJob s h).bind fun j => j.instOn core with
      | none => s
      | some i =>
        let s := updCore s core fun k => { k with run := some h, ready := k.ready.filter (· ≠ h) }
        let s := clearVector (takeCore s h i) h i
        if i.phase ≠ .saved then s
        else
          let s := chargeEach s h { Ledger.none with preemptedNs := nowNs s - i.yieldSince }
          match cur s core with
          | some u => resumeInst s core u
          | none => s)

/-! ### Segments that wake (12 R307) -/

/-- Whether a job in RUNNING uses a segment of a core. -/
def segInUse (s : State) (c seg : Nat) : Bool :=
  s.work.jobs.any fun e => e.2.run.isSome && (e.2.instOn c).elim false fun i => i.segments.getLsbD seg

/-- SEGMENT_WAKE: a segment that a running job uses reaches ON; one that was OFF is rinsed first. -/
def execSegmentWake (core segment : Nat) (s : State) : Out :=
  .next (if 12 ≤ segment ∨ ¬ segInUse s core segment then s
  else
    match nth SegPower.off (getCore s core).power segment with
    | .on => s
    | .retain => updCore s core fun k => k.setPower [segment] .on
    | .off => startRinse s [(core, [segment])] .other)

/-! ### Landings (12 R319-R329, 14 R373, 19 R498) -/

/-- Whether a transaction is to HBM. -/
def Txn.hbm (t : Txn) : Bool := t.kind = 0 || t.kind = 1 || t.kind = 4

/-- The partition page that a fault of a transaction names. -/
def Txn.page (t : Txn) : Nat := if t.hbm then t.pages.headD 0xFFFFFFFF else 0xFFFFFFFF

/-- A transaction lands: its data, and the step it belongs to. -/
def landNow (s : State) (c : Nat) (t : Txn) : State :=
  match getJob s t.job with
  | none => s
  | some j => txnDone (landTxn s c j t) c t

/-- A corrected error that a transaction met: in the HBM stack, or in a scratchpad. -/
def landCorrected (s : State) (c : Nat) (t : Txn) : State :=
  let part := ((getJob s t.job).map (·.part)).getD 0xFF
  if t.hbm then correctedError s 4 (t.far.headD 0 / (12288 * pageBytes)) 0 (t.far.headD 0) part
  else correctedError s 0 (if t.kind = 3 then t.cores.headD c else c) 1 (64 * t.far.headD 0) part

/-- An uncorrectable HBM error at a physical address is logged, and its row queued for repair (R498, R511). -/
def hbmErrorAt (s : State) (a part bank row : Nat) : State :=
  let page := a / pageBytes
  let stack := page / 12288
  let s := log s clsUncorrected 4 stack (a % 2 ^ 48) part 5
  queueRepair s stack ((a % pageBytes / 2048 + page) % 32) bank row

/-- An uncorrectable HBM error in data that a core reads: the invocation faults (R328). -/
def landHbmError (s : State) (c : Nat) (t : Txn) (bank row : Nat) : State :=
  faultJob (hbmErrorAt s (t.far.headD 0) (((getJob s t.job).map (·.part)).getD 0xFF) bank row) t.job 3 t.stream t.page c 0xFF

/-- An uncorrectable error in a segment that a transaction reads (R328, R498). -/
def landScratchError (s : State) (c : Nat) (t : Txn) (seg : Nat) : State :=
  let at_ := if t.kind = 3 then t.cores.headD c else c
  let part := ((getJob s t.job).map (·.part)).getD 0xFF
  let s := log s clsUncorrected 0 at_ (seg * 262144 + 2 ^ 48) part 2
  faultJob s t.job 4 t.stream 0xFFFFFFFF c seg

/-- CLASS of a crossing fault (19 R514). -/
def clsCrossing : Nat := 5

/-! ### Crossings on the way of a transaction (01 R20-R22, R27; log 77) -/

/-- Mesh region of a router, given as die, row, column (01 R21). -/
def regionAt (p : Nat × Nat × Nat) : Nat := 4 * p.1 + 2 * (p.2.1 / 3) + p.2.2 / 3

/-- The routers where a route may change region: along the row, over the die bridge in the source row, along the column (01 R22). -/
def routeOf (a b : Nat × Nat × Nat) : List (Nat × Nat × Nat) :=
  let bridge := if a.1 = b.1 then [] else if a.1 = 0 then [(0, a.2.1, 5), (1, a.2.1, 0)] else [(1, a.2.1, 0), (0, a.2.1, 5)]
  a :: bridge ++ [(b.1, a.2.1, b.2.2), b]

/-- The region borders that a list of regions crosses. -/
def borders : List Nat → List Crossing
  | a :: b :: l => if a = b then borders (b :: l) else .mesh (min a b) (max a b) :: borders (b :: l)
  | _ => []

/-- The crossings between two routers, there and back. -/
def crossingsBetween (a b : Nat × Nat × Nat) : List Crossing :=
  borders ((routeOf a b).map regionAt) ++ borders ((routeOf b a).map regionAt)

/-- A router under an HBM stack (01 R20). -/
def stackRouter (stack : Nat) : Nat × Nat × Nat := (stack / 2, 0, 3 * (stack % 2) + 1)

/-- The stacks that a transaction reaches. -/
def Txn.stacks (t : Txn) : List Nat := if t.hbm then dedup (t.far.map fun a => a / (12288 * pageBytes)) else []

/-- The crossings that a transaction of a core passes. -/
def Txn.crossings (t : Txn) (c : Nat) : List Crossing :=
  let ends := if t.kind = 0 ∨ t.kind = 1 then [c] else c :: t.cores
  ends.map Crossing.core ++ (t.stacks.flatMap fun k => .hbm k :: ends.flatMap fun d => crossingsBetween (meshAt d) (stackRouter k))
    ++ if t.hbm then [] else t.cores.flatMap fun d => crossingsBetween (meshAt c) (meshAt d)

/-- UNIT_KIND and UNIT_INDEX of a crossing in the error log (19 R514; log 77). -/
def crossingUnit : Crossing → Nat × Nat
  | .core c => (0, c)
  | .hbm k => (4, k)
  | .mesh a b => (6, 8 * a + b)
  | .iodBridge d => (6, 64 + d)
  | .iodBlock b => (6, 66 + b)

/-- A crossing fault outside the core islands ends every invocation with a transfer through that crossing in flight (R373). -/
def landCrossing (s : State) (k : Crossing) : State :=
  let hit := s.work.cores.flatMap fun e => (e.2.txns.filter fun x => (x.crossings e.1).contains k).map fun x => (e.1, x)
  let s := log s clsCrossing (crossingUnit k).1 (crossingUnit k).2 0 0xFF 2
  hit.foldl (fun s x => faultJob s x.2.job 5 x.2.stream x.2.page x.1 0xFF) s

/-- A late transfer of an IOD block for a job: what is in flight through the crossing, and the job's own invocation, end. -/
def landIodLate (s : State) (k : Crossing) (job stream page : Nat) : State :=
  match getJob s job with
  | none => s
  | some j => faultJob (landCrossing s k) job 5 stream page ((j.insts.head?.map (·.core)).getD 0) 0xFF

/-- An uncorrectable HBM error in data that an IOD block reads for a job: the job's invocation faults, and its cell stops (09 R242). -/
def landIodHbm (s : State) (job page bank row : Nat) : State :=
  match (getJob s job).bind fun j => (Tbl.find s.work.parts j.part).bind fun q => (q.phys (page * pageBytes)).map fun a => (j, a) with
  | none => s
  | some (j, a) => faultJob (hbmErrorAt s a j.part bank row) job 3 0xFFFF page ((j.insts.head?.map (·.core)).getD 0) 0xFF

/-- What lands that is no transaction of a core. -/
def landIod (s : State) : Landing → State
  | .iodLate k job stream page => landIodLate s k job stream page
  | .iodHbmError job page bank row => landIodHbm s job page bank row
  | .ok | .corrected | .hbmError _ _ | .scratchError _ | .late | .crossing _ => s

/-- TRANSACTION_LANDING: transaction `index` of a core lands, with the outcome that memories and crossings report. -/
def execTransactionLanding (core index : Nat) (outcome : Landing) (s : State) : Out :=
  .next (match (getCore s core).txns[index]? with
    | none => landIod s outcome
    | some t =>
      if ¬ coreRuns s core then s
      else
        let kept := updCore s core fun k => { k with txns := k.txns.eraseIdx index }
        match outcome with
        | .ok => landNow kept core t
        | .corrected => landNow (landCorrected kept core t) core t
        | .hbmError bank row =>
          if (t.kind = 0 ∨ t.kind = 4) ∧ t.far ≠ [] then landHbmError kept core t bank row else landNow kept core t
        | .scratchError seg => if t.kind = 0 ∨ t.kind = 4 then landNow kept core t else landScratchError kept core t seg
        | .late => faultJob kept t.job 5 t.stream t.page core 0xFF
        | .crossing k =>
          if ¬ (t.crossings core).contains k then s
          else
            (match k with
              | .core c => coreFails (log kept clsCrossing 0 c 0 0xFF 3) c
              | _ => landCrossing s k)
        | .iodLate _ _ _ _ | .iodHbmError _ _ _ _ => landIod s outcome)

/-! ### Voltage floors and coolant (18 R480, R481, R494) -/

/-- A load that a die's floor has kept waiting is refused: nothing stays loaded (R480). -/
def refuseLoad (s : State) (l : Loading) : State :=
  let mine := s.work.loading.filter fun x => x.ticket = l.ticket
  let s := updWork s fun w => { w with loading := w.loading.filter fun x => x.ticket ≠ l.ticket }
  let s := mine.foldl (fun s x => dropJob (startRinse s x.job.segParts .other) x.handle) s
  let s := { s with radio := { s.radio with cells := s.radio.cells.filter fun e => e.2.starting ≠ some l.ticket } }
  finish s l.ticket (Done.of eTimeout)

/-- FLOOR_RAISE_TIMEOUT: VDone has not come 10 ms after a floor raise. -/
def execFloorRaiseTimeout (die : Nat) (s : State) : Out :=
  .next (if ¬ (getDie s die).slewing then s
  else
    let late := s.work.loading.filter fun l => decide (l.handle ≠ 0) && die ∈ l.floor
    late.foldl (fun s l => if l ∈ s.work.loading then refuseLoad s l else s) s)

/-- VDONE: the die's last commanded point is settled, and the loads that waited for it go on. -/
def execVdone (die : Nat) (s : State) : Out :=
  .next (if ¬ (getDie s die).slewing then s
  else
    let s := settlePoint s die
    settleLoads (updWork s fun w => { w with loading := w.loading.map fun l => { l with floor := l.floor.filter (· ≠ die) } }))

/-- Every segment of an invocation on every core reads zero at once: what the restart has rinsed. -/
def rinseAll (s : State) (j : Job) : State :=
  j.insts.foldl (fun s i => updCore s i.core fun k => (segList i.segments).foldl (fun k n => k.zeroSeg n) k) s

/-- The invocations that a flow loss stopped end, and cells stop (R494). -/
def endStopped (s : State) : State :=
  let cut := s.work.jobs.filter fun e => e.2.run.isSome
  let s := cut.foldl (fun s e =>
    match getJob s e.1 with
    | none => s
    | some j =>
      let s := rinseAll s j
      match j.cell with
      | some ci => stopCell s ci 3 0 (j.insts.map (·.core))
      | none => abortRun s e.1 eAborted none (j.insts.map (·.core))) s
  settleWork s

end Sys2Proof.Machine
end

