-- ==== Sys2Proof/Machine/Debug.lean ====
section
/-! DEFINITION. The debug commands and the event boundaries of the signal unit (16 R431, R441; 06 R166, R167). -/

namespace Sys2Proof.Machine

/-! ### The unit that a command names -/

/-- STATION_KIND of SIGNAL (02 R40). -/
def kindSignal : Nat := 5

/-- Whether an instance holds a SIGNAL station. -/
def Inst.hasSignal (img : List Byte) (i : Inst) : Bool := i.stations.any fun x => stationField img x.1 0 1 = kindSignal

/-- The loaded jobs of a core that a source may debug, the one that runs there first (R441). -/
def debugJobs (s : State) (src : Source) (c : Nat) : List (Nat × Job) :=
  let js := s.work.jobs.filter fun e => (e.2.instOn c).isSome && (isRoot src || e.2.owner = src)
  (js.filter fun e => (getCore s c).run = some e.1) ++ js.filter fun e => (getCore s c).run ≠ some e.1

/-- Whether a job's SIGNAL station runs on a core. -/
def signalRuns (s : State) (c : Nat) : Bool :=
  s.work.jobs.any fun e => (e.2.run.elim false fun r => !r.ending) && (e.2.instOn c).elim false fun i => i.hasSignal e.2.image

/-- Whether a source may use the debug group: not a VF with VF_DEBUG_OFF set (R431). -/
def mayDebug (s : State) : Source → Bool
  | .fn f => f.val = 0 || !s.host.chip.vfDebugOff
  | .mgmt => true
  | .client _ => false

/-- The checks that the debug commands share, and the core they name. -/
def onCore (c : Ctx) (s : State) (fields : Bool) (tenant : Nat → Bool) (rest : Nat → List (Bool × Nat)) (act : Nat → State × Option Done) :
    State × Option Done :=
  match physicalCore s (c.f 0x10 1) with
  | none => whenOk s (c.checks s false (mayDebug s c.m.src) false true []) (s, none)
  | some p =>
    let owns := isRoot c.m.src || !(debugJobs s c.m.src p).isEmpty
    whenOk s (c.checks s (fields && c.f 0x11 1 = 0) (mayDebug s c.m.src && owns && tenant p) false true (rest p)) (act p)

/-! ### Halt, step, resume -/

/-- DBG_HALT: the unit halts at its next event boundary. -/
def carryDbgHalt : Carry := fun c s =>
  onCore c s (c.zero 0x12 0x18) (fun _ => true) (fun p => [(signalRuns s p, eState)]) fun p =>
    if (getEng s p).sig.halted then (s, some (Done.of eOk))
    else (updSig s p fun u => { u with stopPending := true, haltTickets := u.haltTickets ++ [c.tid] }, none)

def execDbgHalt (m : Msg) (s : State) : Out := runCommand 0x0C00 0x100 24 carryDbgHalt m s

/-- DBG_STEP: the unit leaves the boundary it stands at and halts at the next. -/
def carryDbgStep : Carry := fun c s =>
  onCore c s (c.zero 0x12 0x18) (fun _ => true) (fun p => [((getEng s p).sig.halted, eState)]) fun p =>
    (updSig s p fun u => { u with halted := false, stopPending := true, mustMove := true, haltTickets := u.haltTickets ++ [c.tid] }, none)

def execDbgStep (m : Msg) (s : State) : Out := runCommand 0x0C01 0x100 24 carryDbgStep m s

/-- DBG_RESUME. -/
def carryDbgResume : Carry := fun c s =>
  onCore c s (c.zero 0x12 0x18) (fun _ => true) (fun p => [((getEng s p).sig.halted, eState)]) fun p =>
    (updSig s p fun u => { u with halted := false }, some (Done.of eOk))

def execDbgResume (m : Msg) (s : State) : Out := runCommand 0x0C02 0x100 24 carryDbgResume m s

/-- A pending stop is taken at an event boundary: the program ends for a fault or a reset, and the unit halts for the debugger; a
single step whose next boundary is the end of a held cycle leaves that cycle behind (06 R166). -/
def takeStop (s : State) (core : Nat) : State :=
  let u := (getEng s core).sig
  if ¬ u.stopPending ∨ ¬ u.running ∨ u.halted ∨ ¬ u.boundary then s
  else if u.stopEnds then updSig s core fun u => u.stopped
  else
    let s := updSig s core fun u =>
      { u with
        halted := true, stopPending := false, haltTickets := [], mustMove := false
        guarded := if u.mustMove then none else u.guarded }
    u.haltTickets.foldl (fun s t => finish s t (Done.of eOk)) s

/-- EVENT_BOUNDARY_STOP: the errors that the SIG step in progress has met in X, Y or program memory, or in a GET, ask for a stop (06
R167), and a stop that is pending is taken. -/
def execEventBoundaryStop (core : Nat) (ecc : List EccFind) (s : State) : Out :=
  .next (takeStop (if (getEng s core).sig.running then runningFinds s core ecc else s) core)

/-! ### DBG_READ -/

/-- The registers of a signal unit in the order of R140, then the instruction that stands next and the loop stack. -/
def SigUnit.registers (u : SigUnit) : List Nat :=
  let all := fun {w : Nat} (t : Tbl (BitVec w)) (n : Nat) => (List.range n).map fun k => (Tbl.get 0 t k).toNat
  all u.d 4 ++ all u.a 4 ++ all u.ptr 8 ++ all u.bas 8 ++ all u.len 8 ++ all u.modif 8 ++ [u.csw.toNat, u.latch.toNat, u.repeat_, u.pc]
    ++ u.stack.flatMap fun f => match f with
      | .loop a b n => [0, a, b, n]
      | .call r => [1, r, 0, 0]

/-- 1,024 words of a memory from INDEX, in the 32-bit Q23 containers of R161 (log 79). -/
def wordDump (t : Tbl (BitVec 24)) (first : Nat) : List Byte :=
  (List.range 1024).flatMap fun k => leBytes 4 (unsigned 32 (Tbl.get 0 t (first + k)).toInt)

/-- What DBG_READ writes for an object; none: there is no such object. -/
def debugObject (s : State) (c : Nat) (j : Job) (object index : Nat) : Option (List Byte) :=
  let u := (getEng s c).sig
  match object with
  | 0 => some (padTo 256 ((Config.sigRegisters u.registers).take 256))
  | 1 => some (wordDump u.x index)
  | 2 => some (wordDump u.y index)
  | 3 => (getPart s j.part).bind fun q => if index < q.tallyCount then some (tallyRecordOf s j.part index) else none
  | 4 => (j.service.bind (getSvc s)).bind fun v => (v.pages[index]?).map KvPage.bytes
  | _ => (j.service.bind (getSvc s)).bind fun v =>
      (v.session index).map fun x => Config.sessionRecord x.id (v.shownPhase x) x.length x.pages.length

/-- DBG_READ: OBJECT 0-3, and 4 and 5 from version 2.2. -/
def carryDbgRead : Carry := fun c s =>
  let object := c.f 0x12 1
  let index := c.f 0x14 4
  let dest := c.f 0x18 8
  let fields := decide (object < (if 0x202 ≤ c.ver then 6 else 4)) && c.zero 0x13 0x14 && c.zero 0x20 0x28
    && (decide (object ≠ 1 ∧ object ≠ 2) || decide (index + 1024 ≤ 32768))
  let job := fun (p : Nat) => (debugJobs s c.m.src p).head?
  let data := fun (p : Nat) => (job p).bind fun e => (debugObject s p e.2 object index).map fun d => (e.2.part, d)
  let mapped := fun (p : Nat) => (data p).elim true fun d => (getPart s d.1).elim false fun q => q.holds dest d.2.length
  onCore c s fields mapped (fun p => [((data p).isSome, eState)]) fun p =>
    match data p with
    | some d => (hbmWrite s d.1 dest d.2, some ⟨eOk, d.2.length, 0, 0, 0⟩)
    | none => refuse s eState

def execDbgRead (m : Msg) (s : State) : Out := runCommand 0x0C03 0x100 40 carryDbgRead m s

end Sys2Proof.Machine
end

