-- ==== Sys2Proof/Machine/Security.lean ====
section
/-! DEFINITION. The security block: staging and activating firmware, the life cycle, presence, the seal, the vault, attestation, JTAG
and its registers (20 R518-R539; 16 R440). -/

namespace Sys2Proof.Machine

/-! ### Images (20 R518-R520) -/

/-- Whether bytes lo to hi - 1 of an image are 0. -/
def zeroBytes (img : List Byte) (lo hi : Nat) : Bool := ((img.drop lo).take (hi - lo)).all fun b => b = 0

/-- Check 1 of R519: MAGIC, BODY_LENGTH within range and as long as the image, reserved bytes 0. -/
def fwHeaderOk (img : List Byte) : Bool :=
  let n := imgLe img 0x00C 4
  decide (imgLe img 0 4 = 0x57464C43) && aligned n 4096 && decide (n ≤ 33546240) && decide (img.length = 8192 + n)
    && zeroBytes img 0x0A1 0x0C0 && zeroBytes img 0x120 0x140 && zeroBytes img 0x1D73 0x2000

/-- What the checks of R519 find of an image. -/
def slotOfImage (img : List Byte) : FwSlot :=
  let part := fun (o n : Nat) => (img.drop o).take n
  let ecdsaKey := imgByte img 0x00A
  let mldsaKey := imgByte img 0x00B
  let fields := part 0 0x40
  { signed := fields, version := imgLe img 4 4, svn := imgLe img 8 2, ecdsaKey := ecdsaKey, mldsaKey := mldsaKey,
    headerOk := fwHeaderOk img
    ecdsaHash := decide (ecdsaKey < 4) && decide (Config.sha384 (part 0x40 97) = Config.ecdsaRom ecdsaKey)
    mldsaHash := decide (mldsaKey < 4) && decide (Config.sha384 (part 0x140 2592) = Config.mldsaRom mldsaKey)
    ecdsaSig := Config.ecdsaVerify (part 0x40 97) (part 0xC0 96) (Config.sha384 fields)
    mldsaSig := Config.mldsaVerify (part 0x140 2592) (part 0xB60 4627) fields
    bodyOk := decide (bytes48 (Config.sha384 (img.drop 8192)) = part 0x10 48) }

/-- The reason for which an image is not accepted into the inactive slot: R519, and DOWNGRADE_OFF (R520). -/
def stageFails (s : State) (x : FwSlot) : Option Nat :=
  match slotFails s x with
  | some r => some r
  | none => if s.sec.downgradeOff ∧ x.version < s.sys.version.toNat then some 3 else none

/-- Writes the slot that the commit record does not name as ACTIVE (R520). -/
def writeInactive (s : State) (x : FwSlot) : State :=
  updSec s fun y => if (commitRec s).active then { y with slotA := x } else { y with slotB := x }

/-- Writes an image to the inactive slot and checks it: the reason of a failure, which leaves the slot invalid. -/
def stageImage (s : State) (img : List Byte) : State × Option Nat :=
  let x := slotOfImage img
  match stageFails s x with
  | some r => (updSec (writeInactive s FwSlot.empty) fun y => { y with stagedVersion := 0 }, some r)
  | none => (updSec (writeInactive s x) fun y => { y with stagedVersion := BitVec.ofNat 32 x.version }, none)

/-- Whether FW_STAGE and FW_ACTIVATE are shut out: one runs, or a PLDM update does (16 R440, 21 R555). -/
def stagingBusy (s : State) : Bool := s.sec.staging.isSome || s.mgmt.update.isSome

/-- FW_STAGE. -/
def carryFwStage : Carry := fun c s =>
  let p := c.f 0x10 1
  let len := c.f 0x14 4
  let a := c.f 0x18 8
  let fields := decide (p ≤ 7) && c.zero 0x11 0x14
  match getPart s p with
  | none => whenOk s (c.checks s fields (isRoot c.m.src) false true [(false, eState)]) (s, none)
  | some q =>
    whenOk s (c.checks s fields (isRoot c.m.src && q.holds a len) false true
        [(!stagingBusy s, eBusy), (!(commitRec s).trial, eState)])
      (updSec (writeInactive s FwSlot.empty) fun y =>
        { y with staging := some { ticket := c.tid, image := hbmBytes s q a len }, stagedVersion := 0 }, none)

def execFwStage (m : Msg) (s : State) : Out := runCommand 0x0B01 0x100 32 carryFwStage m s

/-- FW_STAGE_COMPLETE (R520). -/
def execFwStageComplete (s : State) : Out :=
  .next (match s.sec.staging with
    | none => s
    | some g =>
      let r := stageImage (updSec s fun y => { y with staging := none }) g.image
      match r.2 with
      | some reason => finish r.1 g.ticket ⟨eFault, 0, reason, 0, 0⟩
      | none =>
        let s := finish r.1 g.ticket ⟨eOk, r.1.sec.stagedVersion.toNat, 0, 0, 0⟩
        sendDeviceEvent s 5 0 0 (enabledCount s))

/-- Whether the staged version is lower than the running one: activation wants presence (16 R440). -/
def lowerStaged (s : State) : Bool := decide (s.sec.stagedVersion ≠ 0) && decide (s.sec.stagedVersion.toNat < s.sys.version.toNat)

/-- Writes the commit record on trial for the staged slot (R522). -/
def activateStaged (s : State) : State :=
  let c := commitRec s
  let x := slotOf s (!c.active)
  writeCommit s { c with trial := true, tries := 0, trialVersion := x.version, trialSvn := x.svn }

/-- FW_ACTIVATE: OK is written before any restart. -/
def carryFwActivate : Carry := fun c s =>
  whenOk s (c.checks s (decide (c.f 0x10 1 < 2) && c.zero 0x11 0x18) (isRoot c.m.src) false (presence s || !lowerStaged s)
      [(!stagingBusy s, eBusy), (decide (s.sec.stagedVersion ≠ 0), eState)])
    (let s := complete (activateStaged s) c.tid (Done.of eOk)
     (if c.f 0x10 1 = 1 then warmRestart s false else s, none))

def execFwActivate (m : Msg) (s : State) : Out := runCommand 0x0B02 0x100 24 carryFwActivate m s

/-! ### Life cycle (R532-R534) -/

/-- Codes of the life-cycle states (15 R394). -/
def lcMaker : Nat := 1
def lcSealed : Nat := 2
def lcService : Nat := 3
def lcReturned : Nat := 4
def lcVoid : Nat := 5

/-- What a listed transition needs: window, jumper; none for a transition that R533 does not list. -/
def lcNeeds (from_ to_ : Nat) : Option (Bool × Bool) :=
  if from_ = lcMaker ∧ to_ = lcSealed then some (false, false)
  else if from_ = lcSealed ∧ to_ = lcService then some (true, true)
  else if from_ = lcService ∧ to_ = lcSealed then some (true, false)
  else if (from_ = lcSealed ∨ from_ = lcService) ∧ to_ = lcReturned then some (true, true)
  else if (from_ = lcSealed ∨ from_ = lcService ∨ from_ = lcReturned) ∧ to_ = lcVoid then some (true, true)
  else none

/-- Whether the presence that a transition needs is held. -/
def lcPresent (s : State) (to_ : Nat) : Bool :=
  match lcNeeds s.sec.lc to_ with
  | some (w, j) => (!w || presence s) && (!j || s.sec.jumper)
  | none => true

/-- The customer vault is erased: the owner seed and every SAK slot (R528). -/
def eraseVault (s : State) : State := updSec s fun x => { x with saks := [], ownerSeed := none }

/-- The effect of a transition (R533, R534). -/
def lcMove (s : State) (to_ : Nat) : State :=
  if to_ = lcService then
    updSec s fun x => { x with fuses := { x.fuses with transitions := x.fuses.transitions + 1 }, serviceFlag := true, lc := lcService }
  else if to_ = lcSealed then
    updSec s fun x =>
      if x.lc = lcService then
        { x with fuses := { x.fuses with transitions := x.fuses.transitions + 1 }, serviceFlag := false, lc := lcSealed }
      else { x with fuses := { x.fuses with stage := lcSealed }, lc := lcSealed }
  else updSec (eraseVault s) fun x => { x with fuses := { x.fuses with stage := to_ }, serviceFlag := false, lc := to_ }

/-- LC_ADVANCE. -/
def carryLcAdvance : Carry := fun c s =>
  let to_ := c.f 0x10 1
  let away := to_ = lcReturned ∨ to_ = lcVoid
  whenOk s (c.checks s (decide (to_ ≤ 5) && c.zero 0x11 0x18) (isRoot c.m.src) false (lcPresent s to_)
      [((lcNeeds s.sec.lc to_).isSome, eState),
       (!(decide away && !s.work.parts.isEmpty), eBusy),
       (!(decide (s.sec.lc = lcMaker) && !s.sec.certStored), eState),
       (!(decide (to_ = lcService) && decide (64 ≤ s.sec.fuses.transitions)), eResource)])
    (let s := lcMove s to_
     if away then (warmRestart (complete s c.tid (Done.of eOk)) false, none) else (s, some (Done.of eOk)))

def execLcAdvance (m : Msg) (s : State) : Out := runCommand 0x0B03 0x100 24 carryLcAdvance m s

/-! ### Presence and the seal (R530, R531) -/

/-- PRESENCE_EVENT: PRESENCE_N has been low for 1 s. `released`: it had been high for 1 s since it was found stuck. -/
def execPresenceEvent (released : Bool) (s : State) : Out :=
  .next (if s.sec.stuck ∧ ¬ released then s
    else updSec s fun x => { x with window := true, windowEnd := nowNs s + 120000000000, stuck := false })

/-- PRESENCE_WINDOW_CLOSE. -/
def execPresenceWindowClose (s : State) : Out := .next (updSec s fun x => { x with window := false })

/-- PRESENCE_STUCK: PRESENCE_N has been low for 10 s. -/
def execPresenceStuck (s : State) : Out := .next (updSec s fun x => { x with window := false, stuck := true })

/-- SEAL_PULSE: one sample of the loop; two that do not match open it. -/
def execSealPulse (matched : Bool) (s : State) : Out :=
  .next (
    let misses := if matched then 0 else Nat.min (s.sec.sealMisses + 1) 2
    let loopOpen := !matched && (s.sec.loopOpen || decide (misses = 2))
    let opens := loopOpen && s.sec.sealArmed && decide (s.sec.sealState = 0)
    if ¬ s.sec.aonRuns then s
    else
      let s := updSec s fun x =>
        { x with
          sealMisses := misses, sealPolarity := !x.sealPolarity, loopOpen := loopOpen,
          sealState := if opens then 1 else x.sealState, sealOpenS := if opens then x.aonS else x.sealOpenS,
          sealLog := x.sealLog || (opens && !s.sys.ready) }
      if opens ∧ s.sys.ready then logConfig s 0x53 1 else s)

/-- SEAL_ARM. -/
def carrySealArm : Carry := fun c s =>
  whenOk s (c.checks s true (isRoot c.m.src) false (presence s) [])
    (let was := s.sec.sealState
     let arm := !s.sec.loopOpen
     (updSec s fun x => { x with sealArmed := arm, sealState := if arm then 0 else 2 }, some ⟨eOk, was, b2n arm, 0, 0⟩))

def execSealArm (m : Msg) (s : State) : Out := runCommand 0x0B05 0x100 16 carrySealArm m s

/-! ### The always-on domain (R536, R537) -/

/-- AON_CLOCK_SET: on entering LOCKED, and every hour of it. -/
def execAonClockSet (s : State) : Out :=
  .next (if s.net.timing.state = .locked ∧ s.sec.aonRuns then
      updSec s fun x => { x with aonS := BitVec.ofNat 32 (timeS s), aonValid := true }
    else s)

/-- VBAT_LOW: VBAT is below 2.50 V, or no longer. -/
def execVbatLow (low : Bool) (s : State) : Out := .next (updSec s fun x => { x with vbatLow := low })

/-- VAON_LOSS: VAON has fallen below 1.60 V; the canary is lost, the seal monitor and the clock stop. -/
def execVaonLoss (s : State) : Out := .next (updSec s fun x => { x with canary := false, aonRuns := false })

/-! ### Vault registers (R528, R529, R538) -/

/-- The SAK slot that SAK_SELECT names. -/
def selectedSak (s : State) : Nat := sakSlot s.sec.sakMac.toNat (b2n s.sec.sakDir) s.sec.sakAn

/-- Whether the selected slot's AN is in use for transmit (R529, 17 R453). -/
def sakInUse (s : State) : Bool :=
  let m := getMac s s.sec.sakMac.toNat
  !s.sec.sakDir && m.en && decide (m.txAn = s.sec.sakAn)

/-- Words, first at the least significant place, as one value. -/
def wordsValue (l : List (BitVec 32)) : Nat := l.foldr (fun w n => w.toNat + 2 ^ 32 * n) 0

/-- INSTALL: the staged key enters the selected slot, and the staging words are cleared. -/
def installSak (s : State) : State :=
  let sak : Sak :=
    { key := BitVec.ofNat 256 (wordsValue s.sec.keyWords), salt := BitVec.ofNat 96 (wordsValue s.sec.saltWords), ssci := s.sec.ssciWord,
      pn := if s.sec.sakDir then 0 else 1 }
  let m := s.sec.sakMac.toNat
  let an := s.sec.sakAn
  let rx := s.sec.sakDir
  let s := updSec s fun x =>
    { x with
      saks := Tbl.put x.saks (selectedSak s) sak, keyWords := List.replicate 8 0, saltWords := List.replicate 3 0, ssciWord := 0 }
  if rx then updMac s m fun k => { k with rxNew := an } else s

/-- ERASE: the selected slot is zeroed. -/
def eraseSak (s : State) : State := updSec s fun x => { x with saks := Tbl.del x.saks (selectedSak s) }

/-- A write of SAK_CTL: INSTALL, then ERASE; refused on a slot whose AN is in use for transmit. -/
def writeSakCtl (v : Nat) (s : State) : State :=
  if v % 4 = 0 then s
  else if sakInUse s then valueError s 0x9140
  else
    let s := if bit v 0 then installSak s else s
    if bit v 1 then eraseSak s else s

/-- SAK_INSTALL: a write of SAK_CTL with INSTALL = 1. -/
def execSakInstall (value : BitVec 32) (s : State) : Out := .next (chipWrite s (writeSakCtl value.toNat))

/-- SAK_ERASE: a write of SAK_CTL with ERASE = 1. -/
def execSakErase (value : BitVec 32) (s : State) : Out := .next (chipWrite s (writeSakCtl value.toNat))

/-- A write of OWNER_COMMIT by a function: OWNER_SET locks it until RETURNED. -/
def writeOwnerCommit (v : Nat) (s : State) : State :=
  if s.sec.ownerSeed.isSome then lockedWrite s 0 0x9060
  else if bit v 0 then updSec s fun x => { x with ownerSeed := some (BitVec.ofNat 256 (wordsValue x.ownerWords)), ownerCommit := true }
  else updSec s fun x => { x with ownerCommit := false }

def execOwnerCommit (value : BitVec 32) (s : State) : Out := .next (chipWrite s (writeOwnerCommit value.toNat))

/-- A write of LOCK, which only the first write after cold reset sets. -/
def writeSecLock (v : Nat) (s : State) : State :=
  if s.sec.lockWritten then lockedWrite s 0 0x9020
  else updSec s fun x => { x with lockWritten := true, lock := bit v 0 }

def execSecConfigLock (value : BitVec 32) (s : State) : Out := .next (chipWrite s (writeSecLock value.toNat))

/-- A write of SEC_CONFIG. -/
def writeSecConfig (v : Nat) (s : State) : State :=
  if s.sec.lock then lockedWrite s 0 0x9024
  else updSec s fun x => { x with jtagOff := bit v 0, downgradeOff := bit v 1 }

/-- LC_STATUS (R538). -/
def lcStatus (s : State) : Nat :=
  let x := s.sec
  x.lc + 2 ^ 4 * x.fuses.transitions + 2 ^ 11 * b2n x.cellLost + 2 ^ 12 * b2n x.aonValid + 2 ^ 13 * x.sealState
    + 2 ^ 15 * b2n x.sealArmed + 2 ^ 16 * b2n x.loopOpen + 2 ^ 17 * b2n (presence s) + 2 ^ 18 * b2n x.jumper
    + 2 ^ 19 * b2n x.vbatLow + 2 ^ 20 * b2n x.bootSlot + 2 ^ 21 * b2n x.trialBoot + 2 ^ 22 * b2n x.ownerSeed.isSome

/-- A word of the security registers (R538). -/
def secRead (s : State) (o : Nat) : Nat :=
  let x := s.sec
  if o = 0x9000 then lcStatus s
  else if o = 0x9004 then (if presence s then ceilDiv (x.windowEnd - nowNs s) 1000000000 else 0)
  else if o = 0x9008 then x.sealOpenS.toNat
  else if o = 0x900C then x.aonS.toNat
  else if o = 0x9010 then x.bootCount.toNat
  else if o = 0x9014 then
    Nat.min x.fuses.svnFloor 63 + 2 ^ 8 * (x.svnRunning % 64) + 2 ^ 16 * x.fuses.ecdsaRevoked.toNat + 2 ^ 20 * x.fuses.mldsaRevoked.toNat
  else if o = 0x9018 then x.stagedVersion.toNat
  else if o = 0x9020 then b2n x.lock
  else if o = 0x9024 then b2n x.jtagOff + 2 * b2n x.downgradeOff
  else if o = 0x9060 then b2n x.ownerCommit
  else if o = 0x9100 then x.sakMac.toNat + 8 * b2n x.sakDir + 16 * b2n x.sakAn
  else if o = 0x9144 then sumNat (x.saks.map fun e => 2 ^ (e.1 % 32))
  else 0

/-- A write of a security register by PF0. -/
def secWrite (o v : Nat) (s : State) : State :=
  let w := BitVec.ofNat 32 v
  if o = 0x9020 then writeSecLock v s
  else if o = 0x9024 then writeSecConfig v s
  else if 0x9040 ≤ o ∧ o < 0x9060 then updSec s fun x => { x with ownerWords := setNth x.ownerWords ((o - 0x9040) / 4) w }
  else if o = 0x9060 then writeOwnerCommit v s
  else if o = 0x9100 then updSec s fun x => { x with sakMac := BitVec.ofNat 3 v, sakDir := bit v 3, sakAn := bit v 4 }
  else if 0x9110 ≤ o ∧ o < 0x9130 then updSec s fun x => { x with keyWords := setNth x.keyWords ((o - 0x9110) / 4) w }
  else if 0x9130 ≤ o ∧ o < 0x913C then updSec s fun x => { x with saltWords := setNth x.saltWords ((o - 0x9130) / 4) w }
  else if o = 0x913C then updSec s fun x => { x with ssciWord := w }
  else if o = 0x9140 then writeSakCtl v s
  else s

/-! ### Attestation (R526, R527) -/

/-- A MEND register of 15 R403, 0x8008-0x8018. -/
def mendWord (s : State) (o : Nat) : Nat :=
  let mask := fun (kind first n at_ : Nat) =>
    sumNat ((List.range n).map fun k => if disabled s kind (first + k) then 2 ^ (at_ + k) else 0)
  if o = 0x8008 then mask 0 0 32 0
  else if o = 0x800C then mask 0 32 32 0
  else if o = 0x8010 then mask 0 64 8 0
  else if o = 0x8014 then mask 1 0 24 0 + mask 2 0 8 24
  else if o = 0x8018 then mask 3 0 16 0
  else 0

/-- A measurement block: whether it is a digest, and its bytes (R527; log 74). -/
def measurement (s : State) (i : Nat) : Bool × List Byte :=
  let x := s.sec
  if i = 1 then (true, bytes48 Config.romDigest)
  else if i = 2 then (true, bytes48 (Config.sha384 x.bootedSigned))
  else if i = 3 then
    (false, leBytes 4 x.bootedVersion ++ leBytes 2 x.svnRunning ++ leBytes 2 x.floorAtBoot ++ leBytes 2 (b2n x.bootSlot)
      ++ leBytes 2 (b2n x.trialAtBoot))
  else if i = 4 then (false, leBytes 1 x.lcAtBoot ++ leBytes 1 x.transitionsAtBoot ++ leBytes 1 (b2n (debugOpen x.lcAtBoot)) ++ leBytes 1 0)
  else if i = 5 then (false, leBytes 4 (lcStatus s))
  else if i = 6 then (false, leBytes 4 x.sealOpenS.toNat ++ leBytes 4 x.bootCount.toNat)
  else if i = 7 then (false, (List.range 6).flatMap fun k => leBytes 4 (mendWord s (0x8008 + 4 * k)))
  else (true, bytes48 (ownerHash s))

/-- Whether the endpoint serves requests of a transport: firmware services run, and the line is not in TIMEOUT (R535; 21 R540,
R543). `lc` VOID serves no SPDM and no PLDM. -/
def mgmtServes (s : State) (via : Nat) : Bool :=
  s.sys.ready && s.sys.clocks && decide (via < 3) && (decide (via ≠ 2) || s.host.chip.linkUp)
    && !(nth Transport.reset s.mgmt.transports via).timeout

/-- Queues an SPDM response (MCTP type 0x05). -/
def spdmReply (s : State) (via eid : Nat) (o : SpdmOut) : State :=
  mctpQueue s via { eid := eid, type := 5, completion := true, data := Config.spdmBytes o }

/-- SPDM error codes (DSP0274): InvalidRequest, UnexpectedRequest, VersionMismatch. -/
def spdmInvalid : Nat := 0x01
def spdmUnexpected : Nat := 0x04
def spdmVersionMismatch : Nat := 0x41

/-- Runs an SPDM request that wants a stage of the connection. -/
def spdmRun (s : State) (via eid stage : Nat) (act : State → State) : State :=
  if ¬ mgmtServes s via ∨ s.sec.lc = lcVoid then s
  else if s.sec.spdm < stage then spdmReply s via eid (.error spdmUnexpected)
  else act s

/-- GET_VERSION: 1.2 and 1.3; the connection starts afresh. -/
def spdmGetVersion (via eid : Nat) (s : State) : State :=
  spdmRun s via eid 0 fun s => spdmReply (updSec s fun x => { x with spdm := 1, spdmVersion := 0 }) via eid (.version [0x12, 0x13])

def execGetVersion (via eid : Nat) (s : State) : Out := .next (spdmGetVersion via eid s)

/-- Capability flags: CERT_CAP, CHAL_CAP, MEAS_CAP = 2, MEAS_FRESH_CAP. -/
def spdmFlags : Nat := 0x36

/-- GET_CAPABILITIES at a version. -/
def spdmGetCapabilities (via eid version : Nat) (s : State) : State :=
  spdmRun s via eid 1 fun s =>
    if version ≠ 0x12 ∧ version ≠ 0x13 then spdmReply s via eid (.error spdmVersionMismatch)
    else spdmReply (updSec s fun x => { x with spdm := 2, spdmVersion := version }) via eid (.capabilities version spdmFlags)

def execGetCapabilities (via eid version : Nat) (s : State) : Out := .next (spdmGetCapabilities via eid version s)

/-- NEGOTIATE_ALGORITHMS: TPM_ALG_ECDSA_ECC_NIST_P384 (bit 7) and TPM_ALG_SHA_384 (bit 1). -/
def spdmNegotiate (via eid : Nat) (asym hash : BitVec 32) (s : State) : State :=
  spdmRun s via eid 2 fun s =>
    let a := b2n (asym.getLsbD 7) * 128
    let h := b2n (hash.getLsbD 1) * 2
    spdmReply (if a ≠ 0 ∧ h ≠ 0 then updSec s fun x => { x with spdm := 3 } else s) via eid (.algorithms a h)

def execNegotiateAlgorithms (via eid : Nat) (asym hash : BitVec 32) (s : State) : Out := .next (spdmNegotiate via eid asym hash s)

/-- The certificate chain of slot 0, and its digest (R525). -/
def chainBytes (s : State) : List Byte := Config.certChain s.sec.cdiL1
def chainHash (s : State) : List Byte := bytes48 (Config.sha384 (chainBytes s))

/-- GET_DIGESTS: slot 0 only. -/
def spdmGetDigests (via eid : Nat) (s : State) : State :=
  spdmRun s via eid 3 fun s => spdmReply s via eid (.digests 1 [chainHash s])

def execGetDigests (via eid : Nat) (s : State) : Out := .next (spdmGetDigests via eid s)

/-- GET_CERTIFICATE: a portion of the chain of slot 0. -/
def spdmGetCertificate (via eid slot offset length : Nat) (s : State) : State :=
  spdmRun s via eid 3 fun s =>
    let chain := chainBytes s
    if slot ≠ 0 ∨ chain.length ≤ offset then spdmReply s via eid (.error spdmInvalid)
    else
      let part := (chain.drop offset).take length
      spdmReply s via eid (.certificate 0 (chain.length - offset - part.length) part)

def execGetCertificate (via eid slot offset length : Nat) (s : State) : Out := .next (spdmGetCertificate via eid slot offset length s)

/-- The next nonce of the responder. -/
def drawNonce (s : State) : State × BitVec 256 :=
  (updSec s fun x => { x with nonces := x.nonces + 1 }, Config.spdmNonce s.sec.nonces)

/-- CHALLENGE: signed with the Alias key over the chain's digest and both nonces. -/
def spdmChallenge (via eid slot : Nat) (nonce : BitVec 256) (s : State) : State :=
  spdmRun s via eid 3 fun s =>
    if slot ≠ 0 then spdmReply s via eid (.error spdmInvalid)
    else
      let r := drawNonce s
      let sig := Config.aliasSign s.sec.cdiL1 (chainHash s ++ leBytes 32 nonce.toNat ++ leBytes 32 r.2.toNat)
      spdmReply r.1 via eid (.challengeAuth 0 (chainHash s) r.2 sig)

def execChallenge (via eid slot : Nat) (nonce : BitVec 256) (s : State) : Out := .next (spdmChallenge via eid slot nonce s)

/-- GET_MEASUREMENTS: the number of blocks, one block or all eight; signed when asked for. -/
def spdmGetMeasurements (via eid slot operation : Nat) (sign : Bool) (nonce : BitVec 256) (s : State) : State :=
  spdmRun s via eid 3 fun s =>
    if slot ≠ 0 ∨ (8 < operation ∧ operation ≠ 255) then spdmReply s via eid (.error spdmInvalid)
    else
      let idx := if operation = 0 then [] else if operation = 255 then (List.range 8).map (· + 1) else [operation]
      let blocks := idx.map fun i => (i, (measurement s i).1, (measurement s i).2)
      let r := drawNonce s
      let sig := if sign then
          some (Config.aliasSign s.sec.cdiL1
            ((blocks.flatMap fun b => leBytes 1 b.1 ++ b.2.2) ++ leBytes 32 nonce.toNat ++ leBytes 32 r.2.toNat))
        else none
      spdmReply r.1 via eid (.measurements 0 8 blocks r.2 sig)

def execGetMeasurements (via eid slot operation : Nat) (sign : Bool) (nonce : BitVec 256) (s : State) : Out :=
  .next (spdmGetMeasurements via eid slot operation sign nonce s)

/-! ### JTAG (R533, R535) -/

/-- Whether a life-cycle state offers every JTAG instruction. -/
def jtagOpen (s : State) : Bool := s.sec.lc = 0 || s.sec.lc = lcMaker || (s.sec.lc = lcReturned && s.sec.jtagToken)

/-- JTAG_INSTRUCTION: internal scan and teller debug are refused where they are offered, and have no effect elsewhere. -/
def execJtagInstruction (i : Jtag) (s : State) : Out :=
  match i with
  | .bypass | .idcode | .sample | .extest => .next s
  | .scan | .tellerDebug => if jtagOpen s then .refused .jtagInternal else .next s
  | .challenge valid => .next (if valid ∧ s.sec.lc = lcReturned then updSec s fun x => { x with jtagToken := true } else s)
  | .toMakerTest valid =>
    .next (if valid ∧ (s.sec.lc = 0 ∨ s.sec.lc = lcReturned) then
        updSec s fun x => { x with fuses := { x.fuses with stage := lcMaker }, lc := lcMaker }
      else s)

end Sys2Proof.Machine
end

