-- ==== Sys2Proof/Machine/Optics.lean ====
section
/-! DEFINITION. Optics modules, the wear ledger and the indicators (21 R546-R554). -/

namespace Sys2Proof.Machine

/-! ### Buses and slots (R546-R549) -/

def getSlot (s : State) (k : Nat) : OpticsSlot := nth OpticsSlot.reset s.optics.slots k
def updSlot (s : State) (k : Nat) (f : OpticsSlot → OpticsSlot) : State := updOptics s fun o => { o with slots := modNth o.slots k f }
def getBus (s : State) (b : Nat) : OpticsBus := nth ⟨0, 0, 0⟩ s.optics.buses b
def updBus (s : State) (b : Nat) (f : OpticsBus → OpticsBus) : State := updOptics s fun o => { o with buses := modNth o.buses b f }

/-- The bus of a slot. -/
def busOf (k : Nat) : Nat := k / 4

/-- The MAC of a slot under the board record. -/
def slotMac (s : State) (k : Nat) : Nat := bits s.sys.board.optMac.toNat (3 * k + 2) (3 * k)

/-- Whether the device reads a slot now: listed, firmware runs, its bus neither recovers nor has failed. -/
def slotServed (s : State) (k : Nat) : Bool :=
  s.sys.ready && s.sys.clocks && decide (k < 8) && s.sys.board.optPopulated.getLsbD k && decide ((getBus s (busOf k)).state = 0)

/-- Bus recovery begins at attempt 1 (R549). -/
def startRecovery (s : State) (b : Nat) : State :=
  emit (updBus s b fun x => { state := 1, attempt := 1, recoveries := satInc x.recoveries 1 }) (.optics b "recovery")

/-- A read that meets a NACK counts toward the three failures that make a slot absent (R547, R549). -/
def slotNack (s : State) (k : Nat) : State :=
  updSlot s k fun x =>
    let n := x.fails + 1
    if 3 ≤ n then { x with fails := n, present := false, managed := false } else { x with fails := n }

/-! ### The wear ledger (R550, R551) -/

/-- The record of a module. -/
def wearOf (s : State) (x : OpticsSlot) : Option Wear := s.optics.wear.find? fun w => w.oui = x.oui ∧ w.serial = x.serial

/-- The place of the record with the oldest last sighting. -/
def oldestWear (l : List Wear) : Nat :=
  ((l.zipIdx.foldl (fun (b : Option (Nat × Nat)) e => match b with
    | some (t, i) => if e.1.lastSeen < t then some (e.1.lastSeen, e.2) else some (t, i)
    | none => some (e.1.lastSeen, e.2)) none).map Prod.snd).getD 0

/-- Finds or creates the record of a module; with all 64 in use the one seen longest ago is replaced. -/
def openWear (s : State) (id : ModuleId) : State :=
  if s.optics.wear.any fun w => w.oui = id.oui ∧ w.serial = id.serial then s
  else
    let w : Wear :=
      { oui := id.oui, serial := id.serial, binS := List.replicate 5 0, laserS := 0, biasInit := 0, biasMax := 0, lastSeen := timeS s,
        warned := false }
    updOptics s fun o =>
      if o.wear.length < 64 then { o with wear := o.wear ++ [w] } else { o with wear := setNth o.wear (oldestWear o.wear) w }

/-- Acceleration factors of the bins in hundredths (R550). -/
def wearFactors : List Nat := [100, 223, 475, 966, 1890]

/-- Hours in a bin. -/
def Wear.binH (w : Wear) (n : Nat) : Nat := nth 0 w.binS n / 3600

/-- EQ_H in hundredths of an hour. -/
def Wear.eq100 (w : Wear) : Nat := sumNat ((List.range 5).map fun n => w.binH n * nth 0 wearFactors n)

/-- The bias term in per mille: 0 before laser hour 24. -/
def Wear.biasTerm (w : Wear) (driftPct : Nat) : Nat :=
  if w.laserS < 86400 then 0
  else if w.biasInit = 0 then Config.wearBeyond w.biasMax.toNat
  else (w.biasMax.toNat - w.biasInit.toNat) * 100000 / (w.biasInit.toNat * driftPct)

/-- USED in per mille (R551). -/
def Wear.used (w : Wear) (o : Optics) : Nat :=
  Nat.min 1000 (Nat.max (w.eq100 * 1000 / (o.ratedKh.toNat * 100000)) (w.biasTerm o.driftPct.toNat))

/-- The bin of a temperature in 1/256 °C (R550). -/
def wearBin (temp : Int) : Nat := if temp < 10240 then 0 else if temp < 12800 then 1 else if temp < 15360 then 2 else if temp < 17920 then 3 else 4

/-- One second of a managed module. -/
def Wear.advance (w : Wear) (now : Nat) (m : Monitors) : Wear :=
  let bias := m.bias.foldl Nat.max 0
  let lit := m.active && decide (m.state = 3)
  let laser := w.laserS + b2n lit
  let w := { w with binS := modNth w.binS (wearBin m.temp) fun n => n + 1, laserS := laser, lastSeen := now }
  if ¬ lit ∨ laser < 86400 then w
  else if laser = 86400 then { w with biasInit := BitVec.ofNat 16 bias, biasMax := BitVec.ofNat 16 bias }
  else { w with biasMax := BitVec.ofNat 16 (Nat.max w.biasMax.toNat bias) }

/-- Advances the record of a slot's module; USED that first reaches 900 is logged. -/
def advanceWear (s : State) (k : Nat) (m : Monitors) : State :=
  match wearOf s (getSlot s k) with
  | none => s
  | some w =>
    let w' := w.advance (timeS s) m
    let warn := !w.warned && decide (900 ≤ w'.used s.optics)
    let s := updOptics s fun o => { o with wear := o.wear.map fun x => if x = w then { w' with warned := w.warned || warn } else x }
    if warn then logConfig s (0x70 + k) 0 else s

/-- WEAR_LEDGER_WRITE. -/
def execWearLedgerWrite (s : State) : Out := .next (updOptics s fun o => { o with flash := o.wear })

/-! ### Probes and readings (R547, R548) -/

/-- A module becomes PRESENT, or is managed again: identity, ledger record, application, MANAGED. -/
def manageModule (s : State) (k : Nat) (id : ModuleId) : State :=
  let was := (getSlot s k).present
  let s := openWear s id
  let s := updSlot s k fun x =>
    { OpticsSlot.reset with
      present := true, managed := true, ident := id.ident, oui := id.oui, partNo := id.partNo, serial := id.serial,
      insertions := if was then x.insertions else satInc x.insertions 1 }
  if id.matches_ then emit s (.optics (busOf k) "apply") else s

/-- OPTICS_PROBE. -/
def execOpticsProbe (slot : Nat) (found : I2c ModuleId) (s : State) : Out :=
  .next (if ¬ slotServed s slot then s
    else
      match found with
      | .answer id =>
        let x := getSlot s slot
        if x.present ∧ x.managed then updSlot s slot fun x => { x with fails := 0 } else manageModule s slot id
      | .nack => slotNack s slot
      | .stuck => startRecovery s (busOf slot))

/-- The lowest of a list; 0 for none. -/
def lowest : List Nat → Nat
  | [] => 0
  | a :: l => l.foldl Nat.min a

/-- What one reading puts into the module window. -/
def OpticsSlot.reading (x : OpticsSlot) (m : Monitors) : OpticsSlot :=
  { x with
    fails := 0, temp := BitVec.ofInt 16 m.temp, vcc := BitVec.ofNat 16 m.vcc, rxMin := BitVec.ofNat 16 (lowest m.rx),
    txMin := BitVec.ofNat 16 (lowest m.tx), biasHigh := BitVec.ofNat 16 (m.bias.foldl Nat.max 0), moduleState := BitVec.ofNat 3 m.state,
    flagged := decide (m.flags ≠ 0), flagsSeen := satInc x.flagsSeen m.flags,
    tempMax := if x.tempMax.toInt < m.temp then BitVec.ofInt 16 m.temp else x.tempMax }

/-! ### PLDM sensors: levels and events (R544) -/

/-- Queues a PLDM event to the event receiver (MCTP type 0x01). -/
def pldmEvent (s : State) (o : MgmtOut) : State :=
  match s.mgmt.receiver with
  | some (via, eid) =>
    let full := decide (64 ≤ (nth Transport.reset s.mgmt.transports via).queue.length)
    let s := mctpQueue s via { eid := eid, type := 1, completion := false, data := Config.mgmtBytes o }
    if full then updMgmt s fun m => { m with transports := modNth m.transports via fun t => { t with lost := true } } else s
  | none => s

/-- A numeric sensor stands at a level: one event for each threshold crossed, by direction. -/
def reportLevel (s : State) (sensor level : Nat) (value : Int) : State :=
  let old := Tbl.get 0 s.mgmt.levels sensor
  let s := updMgmt s fun m => { m with levels := Tbl.set 0 m.levels sensor level }
  let crossed := if old < level then (List.range (level - old)).map fun k => old + 1 + k
    else (List.range (old - level)).map fun k => old - 1 - k
  crossed.foldl (fun s l => pldmEvent s (.sensorEvent sensor l value)) s

/-- A state sensor has a value: an event when it has changed. -/
def reportState (s : State) (sensor value : Nat) : State :=
  let old := Tbl.get 0 s.mgmt.levels sensor
  if old = value then s
  else pldmEvent (updMgmt s fun m => { m with levels := Tbl.set 0 m.levels sensor value }) (.stateEvent sensor value old)

/-- OPTICS_MONITOR_READ. -/
def execOpticsMonitorRead (slot : Nat) (found : I2c Monitors) (s : State) : Out :=
  .next (if ¬ slotServed s slot ∨ ¬ (getSlot s slot).managed then s
    else
      match found with
      | .answer m =>
        let s := advanceWear (updSlot s slot fun x => x.reading m) slot m
        let x := getSlot s slot
        let values : List Int := [m.temp, x.vcc.toNat, x.rxMin.toNat, x.txMin.toNat, x.biasHigh.toNat]
        (List.range 5).foldl (fun s j => reportLevel s (0x200 + 8 * slot + j) (nth 0 m.levels j) (nth 0 values j)) s
      | .nack => slotNack s slot
      | .stuck => startRecovery s (busOf slot))

/-- OPTICS_BUS_RECOVERY: what the lines show after an attempt (R549). -/
def execOpticsBusRecovery (bus : Nat) (high : Bool) (s : State) : Out :=
  .next (
    let b := getBus s bus
    if b.state ≠ 1 then s
    else if high then updBus s bus fun x => { x with state := 0, attempt := 0 }
    else if b.attempt < 3 then emit (updBus s bus fun x => { x with attempt := x.attempt + 1 }) (.optics bus "recovery")
    else
      let s := updBus s bus fun x => { x with state := 2, attempt := 0 }
      let s := updOptics s fun o => { o with slots := o.slots.mapIdx fun k x => if busOf k = bus then { x with managed := false } else x }
      logConfig s (0x60 + bus) 0)

/-- A write of RETRY (R549, R554). -/
def writeRetry (v : Nat) (s : State) : State :=
  (List.range 2).foldl (fun s b => if bit v b ∧ (getBus s b).state = 2 then startRecovery s b else s) s

def execRetry (value : BitVec 32) (s : State) : Out := .next (chipWrite s (writeRetry value.toNat))

/-! ### Indicators (R552, R553) -/

def getIndicator (s : State) (i : Nat) : Indicator := nth (Indicator.reset 0 0) s.optics.indicators i
def updIndicator (s : State) (i : Nat) (f : Indicator → Indicator) : State :=
  updOptics s fun o => { o with indicators := modNth o.indicators i f }

/-- The pattern that an indicator shows: 0 off, 1 on, 2 blink (R552). -/
def pattern (s : State) (x : Indicator) : Nat :=
  if x.mode.toNat < 3 then x.mode.toNat
  else
    match x.source.toNat with
    | 0 => if s.sys.fatal ∨ s.sys.recovery then 2 else b2n s.sys.ready
    | 1 => b2n (getMac s x.arg.toNat).up
    | 2 => if presence s then 2 else 0
    | 3 => if s.net.timing.state = .locked then 1 else if s.net.timing.state = .holdover then 2 else 0
    | _ => b2n (decide (s.sec.sealState = 1))

/-- Whether an indicator's on-time lets the driver check its load: at least 20 µs, or stretched (R553). -/
def checkable (s : State) (x : Indicator) : Bool := decide (pattern s x ≠ 0) && (decide (6 ≤ x.duty.toNat) || x.stretch) && !x.holdoff

/-- STATUS changes; a change to OPEN or SHORT is logged (R553). -/
def setStatus (s : State) (i : Nat) (status : BitVec 3) : State :=
  let was := (getIndicator s i).status
  let s := updIndicator s i fun x => { x with status := status }
  if status ≠ was ∧ (status = 2 ∨ status = 3) then logConfig s (0x68 + i) 0 else s

/-- LOAD_CHECK. -/
def execLoadCheck (indicator : Nat) (sample : LoadSample) (s : State) : Out :=
  .next (if 6 ≤ indicator ∨ ¬ checkable s (getIndicator s indicator) then s
    else
      let s := updIndicator s indicator fun x => { x with checked := some (nowNs s) }
      match sample with
      | .ok => setStatus (updIndicator s indicator fun x => { x with opens := 0 }) indicator 1
      | .belowOpen =>
        let n := (getIndicator s indicator).opens + 1
        let s := updIndicator s indicator fun x => { x with opens := Nat.min n 2 }
        if 2 ≤ n then setStatus s indicator 2 else s
      | .aboveShort => setStatus (updIndicator s indicator fun x => { x with opens := 0, holdoff := true }) indicator 3)

/-- INDICATOR_SHORT_HOLDOFF: the driver may drive again. -/
def execIndicatorShortHoldoff (indicator : Nat) (s : State) : Out := .next (updIndicator s indicator fun x => { x with holdoff := false })

/-- STATUS as it reads (R553). -/
def statusRead (s : State) (x : Indicator) : Nat :=
  match x.checked with
  | some t => if nowNs s ≤ t + 4500000000 then x.status.toNat else if pattern s x = 0 then 0 else 4
  | none => if pattern s x = 0 then 0 else 4

/-! ### The registers 0x9400-0x97FF (R554) -/

/-- Four bytes of a list from a place. -/
def word4 (bs : List Byte) (o : Nat) : Nat := leNat ((bs.drop o).take 4)

/-- A word of the module window of slot k. -/
def windowRead (s : State) (k o : Nat) : Nat :=
  let x := getSlot s k
  let w := (wearOf s x).getD
    { oui := 0, serial := [], binS := List.replicate 5 0, laserS := 0, biasInit := 0, biasMax := 0, lastSeen := 0, warned := false }
  if o = 0x00 then x.ident.toNat + 256 * x.oui.toNat
  else if 0x04 ≤ o ∧ o < 0x14 then word4 x.partNo (o - 4)
  else if 0x14 ≤ o ∧ o < 0x24 then word4 x.serial (o - 0x14)
  else if o = 0x24 then x.temp.toNat + 65536 * x.vcc.toNat
  else if o = 0x28 then x.rxMin.toNat + 65536 * x.txMin.toNat
  else if o = 0x2C then w.biasMax.toNat + 65536 * w.biasInit.toNat
  else if o = 0x30 then sumNat ((List.range 5).map w.binH)
  else if o = 0x34 then w.laserS / 3600
  else if 0x38 ≤ o ∧ o < 0x4C then w.binH ((o - 0x38) / 4)
  else if o = 0x4C then w.eq100 / 100
  else if o = 0x50 then w.used s.optics + 65536 * x.insertions.toNat
  else if o = 0x54 then x.tempMax.toNat + 65536 * x.flagsSeen.toNat
  else 0

/-- A word of the optics and management registers. -/
def opticsRead (s : State) (o : Nat) : Nat :=
  if o = 0x9400 ∨ o = 0x9404 then
    let b := getBus s ((o - 0x9400) / 4)
    b.state + 65536 * b.recoveries.toNat
  else if o = 0x940C then s.optics.ratedKh.toNat + 256 * s.optics.driftPct.toNat
  else if 0x9410 ≤ o ∧ o < 0x9430 then
    let k := (o - 0x9410) / 4
    let x := getSlot s k
    b2n x.present + 2 * b2n x.managed + 4 * x.moduleState.toNat + 32 * b2n x.flagged + 256 * slotMac s k
  else if 0x9480 ≤ o ∧ o < 0x9780 then windowRead s ((o - 0x9480) / 96) ((o - 0x9480) % 96)
  else if 0x9780 ≤ o ∧ o < 0x9798 then
    let x := getIndicator s ((o - 0x9780) / 4)
    x.mode.toNat + 4 * x.source.toNat + 32 * x.arg.toNat + 256 * x.duty.toNat + 65536 * x.half.toNat + 2 ^ 20 * b2n x.stretch
  else if 0x97A0 ≤ o ∧ o < 0x97B8 then statusRead s (getIndicator s ((o - 0x97A0) / 4))
  else if o = 0x97C0 ∨ o = 0x97C4 then
    let p := (o - 0x97C0) / 4
    let t := nth Transport.reset s.mgmt.transports p
    b2n t.timeout + 256 * (if p = 0 then s.sys.board.smb0.toNat else s.sys.board.smb1.toNat) + 65536 * t.timeouts.toNat
  else if o = 0x97C8 then
    s.mgmt.eid.toNat + 256 * b2n s.host.mgmtSession.isSome + 512 * b2n s.mgmt.update.isSome
      + 65536 * (Nat.min (sumNat (s.mgmt.transports.map fun t => t.queue.length)) 255)
  else 0

/-- A write of an optics register by PF0. -/
def opticsWrite (o v : Nat) (s : State) : State :=
  if o = 0x9408 then writeRetry v s
  else if o = 0x940C then
    let kh := bits v 7 0
    let pct := bits v 15 8
    if kh = 0 ∨ pct < 5 ∨ 100 < pct then valueError s o
    else updOptics s fun x => { x with ratedKh := BitVec.ofNat 8 kh, driftPct := BitVec.ofNat 8 pct }
  else if 0x9780 ≤ o ∧ o < 0x9798 then
    if 4 < bits v 4 2 ∨ bits v 15 8 = 0 ∨ bits v 19 16 = 0 then valueError s o
    else updIndicator s ((o - 0x9780) / 4) fun x =>
      { x with
        mode := BitVec.ofNat 2 v, source := BitVec.ofNat 3 (bits v 4 2), arg := BitVec.ofNat 3 (bits v 7 5),
        duty := BitVec.ofNat 8 (bits v 15 8), half := BitVec.ofNat 4 (bits v 19 16), stretch := bit v 20 }
  else s

end Sys2Proof.Machine
end

