-- ==== Sys2Proof/Machine/Mgmt.lean ====
section
/-! DEFINITION. The management endpoint: MCTP control, transports, PLDM monitoring and firmware update, and the thermal sample that
drives PLDM's threshold events (21 R540-R545, R555; 18 R490, R491). -/

namespace Sys2Proof.Machine

/-! ### Replies -/

/-- Queues a response of MCTP type 0x00 or 0x01. -/
def mgmtReply (s : State) (via eid type : Nat) (o : MgmtOut) : State :=
  mctpQueue s via { eid := eid, type := type, completion := true, data := Config.mgmtBytes o }

/-- PLDM is served, and not in VOID (20 R535). -/
def pldmServes (s : State) (via : Nat) : Bool := mgmtServes s via && decide (s.sec.lc ≠ lcVoid)

/-- PLDM completion codes (DSP0240, DSP0248, DSP0267). -/
def pldmOk : Nat := 0x00
def pldmError : Nat := 0x01
def pldmInvalidData : Nat := 0x02
def pldmNotReady : Nat := 0x04
def pldmInvalidSensor : Nat := 0x80
def pldmNotInUpdate : Nat := 0x80

/-! ### MCTP control (R540) -/

/-- Set Endpoint ID: 0 and 0xFF are no identifiers. -/
def setEid (via eid id : Nat) (s : State) : State :=
  if ¬ mgmtServes s via then s
  else if id = 0 ∨ 255 ≤ id then mgmtReply s via eid 0 (.endpoint pldmInvalidData s.mgmt.eid.toNat)
  else mgmtReply (updMgmt s fun m => { m with eid := BitVec.ofNat 8 id }) via eid 0 (.endpoint pldmOk id)

def execSetEndpointId (via eid id : Nat) (s : State) : Out := .next (setEid via eid id s)

/-! ### Transports (R542, R543) -/

/-- MCTP_MESSAGE_SENT: the head of a queue has been sent. -/
def execMctpMessageSent (via : Nat) (s : State) : Out :=
  .next (
    let t := nth Transport.reset s.mgmt.transports via
    match t.queue with
    | [] => s
    | o :: rest =>
      if t.timeout ∨ (via = 2 ∧ ¬ s.host.chip.linkUp) ∨ ¬ s.sys.clocks then s
      else
        let s := updMgmt s fun m => { m with transports := modNth m.transports via fun t => { t with queue := rest } }
        emit s (.mctp via o.type o.data))

/-- Logs an SMBus timeout: an equal entry of the last second counts it instead (R543, 19 R515). -/
def logTimeout (s : State) (port : Nat) : State :=
  let now := nowNs s
  let same := fun (e : LogEntry) => decide (e.cls = 9 ∧ e.unitKind = 6 ∧ e.unitIndex = 0x62 + port
    ∧ now ≤ e.timeS * 1000000000 + e.timeNs + 1000000000)
  if s.rel.log.any same then
    updRel s fun r => { r with log := r.log.map fun e => if same e then { e with count := satAdd 16 e.count 1 } else e }
  else logConfig s (0x62 + port) 0

/-- SMBUS_TIMEOUT: a line of a port has been low for 35 ms. -/
def execSmbusTimeout (port : Nat) (s : State) : Out :=
  .next (if 2 ≤ port then s
    else
      let was := (nth Transport.reset s.mgmt.transports port).timeout
      let s := updMgmt s fun m => { m with transports := modNth m.transports port fun t =>
        { t with timeout := true, timeouts := satInc t.timeouts 1 } }
      if was then s else logTimeout s port)

/-- SMBUS_RETRY: a test of the lines in TIMEOUT. -/
def execSmbusRetry (port : Nat) (high : Bool) (s : State) : Out :=
  .next (if 2 ≤ port ∨ ¬ high then s
    else updMgmt s fun m => { m with transports := modNth m.transports port fun t => { t with timeout := false } })

/-! ### Sensors and effecters (R544) -/

/-- The records of the PDR repository in the table's order: identifier and kind, 0 numeric, 1 state, 2 effecter (log 73). -/
def pdrRecords : List (Nat × Nat) :=
  ([1, 2] ++ (List.range 6).map (0x10 + ·) ++ (List.range 6).map (0x18 + ·) ++ (List.range 80).map (0x100 + ·)
    ++ (List.range 48).map fun i => 0x200 + 8 * (i / 6) + i % 6).map (fun i => (i, 0))
  ++ ((List.range 5).map fun i => (0x300 + i, 1)) ++ (List.range 6).map fun i => (0x400 + i, 2)

/-- GetPDR: record 0 names the first one; a record that does not exist is an error. -/
def getPdrOp (via eid record : Nat) (s : State) : State :=
  if ¬ pldmServes s via then s
  else
    let n := if record = 0 then 1 else record
    match pdrRecords[n - 1]? with
    | some r => mgmtReply s via eid 1 (.pdr (if n < pdrRecords.length then n + 1 else 0) r.1 r.2)
    | none => mgmtReply s via eid 1 (.done 0x82)

def execGetPdr (via eid record : Nat) (s : State) : Out := .next (getPdrOp via eid record s)

/-- The value of a numeric sensor: none for no such sensor, none within for an unavailable one. -/
def numericSensor (s : State) (id : Nat) : Option (Option Int) :=
  let rail := fun (r : Nat) => nth (0, 0) s.power.rails r
  if id = 1 then some (some (s.power.power1ms.toNat / 1000 : Nat))
  else if id = 2 then some (some (s.power.energy.toNat / 1000000000 : Nat))
  else if 0x10 ≤ id ∧ id < 0x16 then some (some ((rail (id - 0x10)).1.toNat : Int))
  else if 0x18 ≤ id ∧ id < 0x1E then some (some ((rail (id - 0x18)).2.toNat : Int))
  else if 0x100 ≤ id ∧ id < 0x150 then some (some (nth (0 : BitVec 16) s.power.temps (id - 0x100)).toInt)
  else if 0x200 ≤ id ∧ id < 0x240 ∧ id % 8 < 6 then
    let x := getSlot s ((id - 0x200) / 8)
    if ¬ x.present ∨ ¬ x.managed then some none
    else
      some (some (match id % 8 with
        | 0 => x.temp.toInt
        | 1 => (x.vcc.toNat : Int)
        | 2 => (x.rxMin.toNat : Int)
        | 3 => (x.txMin.toNat : Int)
        | 4 => (x.biasHigh.toNat : Int)
        | _ => ((match wearOf s x with
          | some w => w.used s.optics
          | none => 0 : Nat) : Int)))
  else none

/-- GetSensorReading. -/
def getSensor (via eid sensor : Nat) (s : State) : State :=
  if ¬ pldmServes s via then s
  else
    match numericSensor s sensor with
    | some v => mgmtReply s via eid 1 (.numeric v (Tbl.get 0 s.mgmt.levels sensor))
    | none => mgmtReply s via eid 1 (.done pldmInvalidSensor)

def execGetSensorReading (via eid sensor : Nat) (s : State) : Out := .next (getSensor via eid sensor s)

/-- The value of a state sensor. -/
def stateSensor (s : State) (id : Nat) : Option Nat :=
  match id with
  | 0x300 => some s.sec.lc
  | 0x301 => some s.sec.sealState
  | 0x302 => some (b2n s.power.flowStopped)
  | 0x303 => some (syncCode s.net.timing.state)
  | 0x304 => some (if s.sys.fatal then 2 else b2n s.sys.recovery)
  | _ => none

/-- GetStateSensorReadings. -/
def getStateSensor (via eid sensor : Nat) (s : State) : State :=
  if ¬ pldmServes s via then s
  else
    match stateSensor s sensor with
    | some v => mgmtReply s via eid 1 (.state v)
    | none => mgmtReply s via eid 1 (.done pldmInvalidSensor)

def execGetStateSensorReadings (via eid sensor : Nat) (s : State) : Out := .next (getStateSensor via eid sensor s)

/-- SetStateEffecterStates: MODE of an indicator, off, on, blink, auto. -/
def setEffecter (via eid effecter state : Nat) (s : State) : State :=
  if ¬ pldmServes s via then s
  else if effecter < 0x400 ∨ 0x406 ≤ effecter then mgmtReply s via eid 1 (.done 0x80)
  else if 3 < state then mgmtReply s via eid 1 (.done 0x81)
  else mgmtReply (updIndicator s (effecter - 0x400) fun x => { x with mode := BitVec.ofNat 2 state }) via eid 1 (.done pldmOk)

def execSetStateEffecterStates (via eid effecter state : Nat) (s : State) : Out := .next (setEffecter via eid effecter state s)

/-- Level of a core or HBM temperature in 1/256 °C: warning 95 °C, critical 105 °C, fatal 115 °C (R544). -/
def tempLevel (t : Int) : Nat := if t < 24320 then 0 else if t < 26880 then 1 else if t < 29440 then 2 else 3

/-- Reports what the temperature and state sensors show. -/
def settlePldm (s : State) : State :=
  let s := (List.range 80).foldl (fun s k =>
    let t := (nth (0 : BitVec 16) s.power.temps k).toInt
    reportLevel s (0x100 + k) (tempLevel t) t) s
  (List.range 5).foldl (fun s i => match stateSensor s (0x300 + i) with
    | some v => reportState s (0x300 + i) v
    | none => s) s

/-- SetEventReceiver: events are of what changes from now on. -/
def setReceiver (via eid : Nat) (enable : Bool) (s : State) : State :=
  if ¬ pldmServes s via then s
  else
    let s := settlePldm (updMgmt s fun m => { m with receiver := none })
    mgmtReply (updMgmt s fun m => { m with receiver := if enable then some (via, eid) else none }) via eid 1 (.done pldmOk)

def execSetEventReceiver (via eid : Nat) (enable : Bool) (s : State) : Out := .next (setReceiver via eid enable s)

/-- THERMAL_SAMPLE (18 R490, R491), and the PLDM events of what it shows. -/
def execThermalSample (temps : List (BitVec 16)) (s : State) : Out :=
  .next (if s.sys.clocks then settlePldm (sampleTemps s temps) else s)

/-! ### Firmware update (R545, R555) -/

/-- RequestUpdate: not while FW_STAGE runs, another update does, or a trial is uncommitted. -/
def startUpdate (via eid : Nat) (s : State) : State :=
  if ¬ pldmServes s via then s
  else if stagingBusy s ∨ (commitRec s).trial then mgmtReply s via eid 1 (.done pldmNotReady)
  else
    let s := updSec (writeInactive s FwSlot.empty) fun x => { x with stagedVersion := 0 }
    mgmtReply (updMgmt s fun m => { m with update := some { image := [], verified := false } }) via eid 1 (.done pldmOk)

def execRequestUpdate (via eid : Nat) (s : State) : Out := .next (startUpdate via eid s)

/-- Bytes put at a place of an image; what lies between is 0. -/
def splice (img : List Byte) (o : Nat) (data : List Byte) : List Byte :=
  (img ++ List.replicate (o - img.length) 0).take o ++ data ++ img.drop (o + data.length)

/-- FirmwareTransfer: data from the update agent for the inactive slot of 32 MiB. -/
def transferFirmware (offset : Nat) (data : List Byte) (s : State) : State :=
  match s.mgmt.update with
  | some u =>
    if 33554432 < offset + data.length then s
    else updMgmt s fun m => { m with update := some { image := splice u.image offset data, verified := false } }
  | none => s

def execFirmwareTransfer (offset : Nat) (data : List Byte) (s : State) : Out := .next (transferFirmware offset data s)

/-- VerifyComplete: the result of the checks of FW_STAGE, 0 for success. -/
def verifyUpdate (via eid : Nat) (s : State) : State :=
  if ¬ pldmServes s via then s
  else
    match s.mgmt.update with
    | none => mgmtReply s via eid 1 (.done pldmNotInUpdate)
    | some u =>
      let r := stageImage s u.image
      let s := updMgmt r.1 fun m => { m with update := some { u with verified := r.2.isNone } }
      let s := if r.2.isNone then sendDeviceEvent s 5 0 0 (enabledCount s) else s
      mgmtReply s via eid 1 (.done (r.2.getD pldmOk))

def execVerifyComplete (via eid : Nat) (s : State) : Out := .next (verifyUpdate via eid s)

/-- ActivateFirmware: as FW_ACTIVATE, and the restart follows. -/
def activateUpdate (via eid : Nat) (s : State) : State :=
  if ¬ pldmServes s via then s
  else
    match s.mgmt.update with
    | none => mgmtReply s via eid 1 (.done pldmNotInUpdate)
    | some u =>
      if ¬ u.verified then mgmtReply s via eid 1 (.done pldmNotReady)
      else if lowerStaged s ∧ ¬ presence s then mgmtReply s via eid 1 (.done pldmError)
      else warmRestart (mgmtReply (updMgmt (activateStaged s) fun m => { m with update := none }) via eid 1 (.done pldmOk)) false

def execActivateFirmware (via eid : Nat) (s : State) : Out := .next (activateUpdate via eid s)

/-- GetFirmwareParameters: the active version, and the pending one. -/
def firmwareParameters (via eid : Nat) (s : State) : State :=
  if ¬ pldmServes s via then s
  else
    let c := commitRec s
    mgmtReply s via eid 1 (.parameters c.activeVersion (if c.trial then c.trialVersion else s.sec.stagedVersion.toNat))

def execGetFirmwareParameters (via eid : Nat) (s : State) : Out := .next (firmwareParameters via eid s)

/-- Carries out a request that an MCTP message of type 0x00, 0x01 or 0x05 brings. -/
def mgmtRequest (via eid : Nat) (s : State) : MgmtReq → State
  | .setEndpointId id => setEid via eid id s
  | .getPdr r => getPdrOp via eid r s
  | .getSensorReading n => getSensor via eid n s
  | .getStateSensorReadings n => getStateSensor via eid n s
  | .setStateEffecterStates e v => setEffecter via eid e v s
  | .setEventReceiver on => setReceiver via eid on s
  | .requestUpdate => startUpdate via eid s
  | .firmwareTransfer o d => transferFirmware o d s
  | .verifyComplete => verifyUpdate via eid s
  | .activateFirmware => activateUpdate via eid s
  | .getFirmwareParameters => firmwareParameters via eid s
  | .spdm r =>
    match r with
    | .getVersion => spdmGetVersion via eid s
    | .getCapabilities v => spdmGetCapabilities via eid v s
    | .negotiateAlgorithms a h => spdmNegotiate via eid a h s
    | .getDigests => spdmGetDigests via eid s
    | .getCertificate k o n => spdmGetCertificate via eid k o n s
    | .challenge k n => spdmChallenge via eid k n s
    | .getMeasurements k op sign n => spdmGetMeasurements via eid k op sign n s

end Sys2Proof.Machine
end

