-- ==== Sys2Proof/Machine/HostRegs.lean ====
section
/-! DEFINITION. Registers, doorbells, windows and vectors of the PCIe functions, and the link (15 R386-R411; 17 R453, R465, R466;
18 R496). -/

namespace Sys2Proof.Machine

/-! ### Doorbells (R398, R406, R407) -/

/-- The till that a doorbell of a function is bound to. -/
def boundTill (s : State) (f d : Nat) : Option Nat :=
  (s.host.tills.find? fun e => e.2.state ≠ .unconfigured && decide (e.2.fn = f) && decide (e.2.doorbell.toNat = d)).map Prod.fst

/-- A doorbell of a till that the host produces into. -/
def ringProducer (s : State) (n : Nat) (index : BitVec 16) : State :=
  let t := getTill s n
  if index = t.prod then s
  else if (index - t.cons).toNat ≤ t.slots then updTill s n fun t => { t with prod := index }
  else tillFails s n 1

/-- A doorbell of a till that the device produces into. -/
def ringConsumer (s : State) (n : Nat) (index : BitVec 16) (arm : Bool) : State :=
  let t := getTill s n
  if t.used < (index - t.cons).toNat then tillFails s n 2
  else
    let s := updTill s n fun t => { t with cons := index, armed := t.armed || arm }
    if arm ∧ t.prod ≠ index then sendVector (updTill s n fun t => { t with armed := false }) t.fn t.vector.toNat else s

/-- A 64-bit write of DBd by a function (R395, R398, R406, R407). -/
def ringDoorbell (s : State) (f d : Nat) (v : BitVec 64) : State :=
  let refused := setError s f errDoorbell 0 (0x1000 + 8 * d)
  if ¬ (getFn s f).dbEnable then refused
  else
    match boundTill s f d with
    | none => refused
    | some n =>
      let t := getTill s n
      if t.state ≠ .running then refused
      else if t.kind = 0 then ringProducer s n (v.setWidth 16)
      else if t.kind = 4 then refused
      else ringConsumer s n (v.setWidth 16) (v.getLsbD 16)

/-- PRODUCER_DOORBELL. -/
def execProducerDoorbell (f : Fin 32) (d : Nat) (value : BitVec 64) (s : State) : Out :=
  .next (if served s f.val ∧ d < 512 then ringDoorbell s f.val d value else s)

/-- CONSUMER_DOORBELL. -/
def execConsumerDoorbell (f : Fin 32) (d : Nat) (value : BitVec 64) (s : State) : Out :=
  .next (if served s f.val ∧ d < 512 then ringDoorbell s f.val d value else s)

/-! ### Vectors (R399, R408) -/

/-- Sends the pending vectors of a function that no mask holds any more, while MSI-X Enable is set. -/
def sendPending (s : State) (f : Nat) : State :=
  let ready := (getFn s f).msixPending.filter fun v => (getFn s f).msixEnable && !vectorMasked (getFn s f) v
  ready.foldl (fun s v => sendVector (updFn s f fun k => { k with msixPending := k.msixPending.filter (· ≠ v) }) f v) s

/-- IRQ_HOLDOFF_EXPIRY: HOLDOFF has passed since the last message on a vector. -/
def execIrqHoldoffExpiry (f : Fin 32) (vector : Nat) (s : State) : Out :=
  .next (
    let held := vector ∈ (getFn s f.val).heldVectors
    let s := updFn s f.val fun k =>
      { k with cooling := k.cooling.filter (· ≠ vector), heldVectors := k.heldVectors.filter (· ≠ vector) }
    if held then sendVector s f.val vector else s)

/-- MSIX_UNMASK: the mask bit of a vector clears, or Function Mask does with MSI-X Enable set. -/
def execMsixUnmask (f : Fin 32) (vector : Option Nat) (s : State) : Out :=
  .next (if ¬ present s f.val ∨ (getFn s f.val).resetting then s
    else
      let s := updFn s f.val fun k => match vector with
        | some v =>
          let a := 16 * v + 12
          { k with msixTable := msixWrite k.msixTable a [msixRead k a &&& 0xFE] }
        | none => { k with msixEnable := true, msixMask := false }
      sendPending s f.val)

/-! ### Function registers (R395-R401) -/

/-- Changes a function register when the function's accesses are served. -/
def fnWrite (s : State) (f : Nat) (act : State → State) : State := if served s f then act s else s

/-- A write of DB_ENABLE. -/
def writeDbEnable (f : Nat) (on : Bool) (s : State) : State := updFn s f fun k => { k with dbEnable := on }

def execDbEnable (f : Fin 32) (on : Bool) (s : State) : Out := .next (fnWrite s f.val (writeDbEnable f.val on))

/-- A write of QUIESCE. -/
def writeQuiesce (f : Nat) (on : Bool) (s : State) : State := updFn s f fun k => { k with quiesce := on }

def execQuiesce (f : Fin 32) (on : Bool) (s : State) : Out := .next (fnWrite s f.val (writeQuiesce f.val on))

/-- A write of FN_ERROR: W1C; the capture is released when it leaves every bit 0. -/
def writeFnError (f v : Nat) (s : State) : State :=
  updFn s f fun k =>
    let e := k.error &&& ~~~(BitVec.ofNat 8 v)
    { k with error := e, errValid := k.errValid && decide (e ≠ 0) }

def execFnErrorClear (f : Fin 32) (value : BitVec 32) (s : State) : Out := .next (fnWrite s f.val (writeFnError f.val value.toNat))

/-- A write of IRQ_CAUSE: W1C. -/
def writeIrqCause (f v : Nat) (s : State) : State :=
  setIrq s f ((getFn s f).irqCause &&& ~~~(BitVec.ofNat 4 v)) (getFn s f).irqMask

def execIrqCauseClear (f : Fin 32) (value : BitVec 32) (s : State) : Out := .next (fnWrite s f.val (writeIrqCause f.val value.toNat))

/-- A write of IRQ_MASK. -/
def writeIrqMask (f v : Nat) (s : State) : State := setIrq s f (getFn s f).irqCause (BitVec.ofNat 4 v)

def execIrqMaskWrite (f : Fin 32) (value : BitVec 32) (s : State) : Out := .next (fnWrite s f.val (writeIrqMask f.val value.toNat))

/-- A write of LEDGER_LATCH: the ledger total of the bound partition (R400). -/
def writeLedgerLatch (f v : Nat) (s : State) : State :=
  if ¬ bit v 0 then s
  else
    match boundTo s f with
    | none => updFn s f fun k => { k with ledger := [], ledgerValid := false }
    | some p =>
      let s := divideServices s p
      let e := (s.work.ledger.find? fun e => e.is p 3 totalClient).getD (Ledger.zero p 3 totalClient)
      updFn s f fun k => { k with ledger := ledgerBytes s e, ledgerValid := true }

def execLedgerLatch (f : Fin 32) (value : BitVec 32) (s : State) : Out := .next (fnWrite s f.val (writeLedgerLatch f.val value.toNat))

/-- A write of TALLY_SELECT: the record of a tally of the bound partition (R401). -/
def writeTallySelect (f v : Nat) (s : State) : State :=
  let i := v % 8192
  let s := updFn s f fun k => { k with tallySelect := BitVec.ofNat 13 i }
  let inRange := (boundTo s f).filter fun p => ((getPart s p).elim false fun q => decide (i < q.tallyCount))
  match inRange with
  | some p => updFn s f fun k => { k with tallyRecord := tallyRecordOf s p i, tallyValid := true, tallyOutOfRange := false }
  | none => updFn s f fun k => { k with tallyRecord := [], tallyValid := false, tallyOutOfRange := true }

def execTallySelect (f : Fin 32) (value : BitVec 32) (s : State) : Out := .next (fnWrite s f.val (writeTallySelect f.val value.toNat))

/-! ### Chip registers of 0x8000-0x81FF (R403) -/

/-- A write of CHIP_LOCK, which only the first write after cold reset sets. -/
def writeChipLock (v : Nat) (s : State) : State :=
  if s.host.chip.lockWritten then lockedWrite s 0 0x8100
  else updChip s fun c => { c with lockWritten := true, lock := bit v 0 }

/-- A write of the chip area by a function: a VF has none (R389). -/
def areaWrite (f offset : Nat) (act : State → State) (s : State) : State :=
  if f ≠ 0 then setError s f errRange 0 offset else act s

def execChipLock (f : Fin 32) (value : BitVec 32) (s : State) : Out :=
  .next (fnWrite s f.val (areaWrite f.val 0x8100 (writeChipLock value.toNat)))

/-- A write of CHIP_CONFIG. -/
def writeChipConfig (v : Nat) (s : State) : State :=
  if s.host.chip.lock then lockedWrite s 0 0x8104
  else updChip s fun c => { c with vfDebugOff := bit v 0, vfMw4Off := bit v 1, mgmtCapOnly := bit v 2 }

/-- A word of the chip registers of this chapter. -/
def chipRead (s : State) (o : Nat) : Nat :=
  let c := s.host.chip
  if o = 0x8000 then s.sec.fuses.part.toNat + 256 * enabledCount s + 65536 * s.sec.fuses.stepping.toNat
  else if o = 0x8004 then
    s.sec.lc + 8 * b2n s.sec.cellLost + 16 * b2n s.sec.sealArmed + 32 * b2n (presence s) + 64 * b2n s.sec.bootSlot
      + 128 * b2n s.sys.recovery + 256 * sumNat ((List.range 8).map fun p => if (getPart s p).isSome then 2 ^ p else 0)
  else if 0x8008 ≤ o ∧ o < 0x801C then mendWord s o
  else if 0x8080 ≤ o ∧ o < 0x8100 then
    let f := (o - 0x8080) / 4
    let k := getFn s f
    (boundTo s f).getD 0 + 8 * b2n (boundTo s f).isSome + 16 * b2n (present s f) + 32 * b2n k.resetting + 64 * b2n k.session.isSome
  else if o = 0x8100 then b2n c.lock
  else if o = 0x8104 then b2n c.vfDebugOff + 2 * b2n c.vfMw4Off + 4 * b2n c.mgmtCapOnly
  else if o = 0x8108 then 4 * c.lockLogOffset.toNat + 65536 * c.lockLogFn.toNat + 2 ^ 31 * b2n c.lockLogValid
  else if o = 0x810C then c.lockCount.toNat
  else if o = 0x8110 then c.mw4Part.toNat + 8 * b2n c.mw4Sel
  else 0

/-! ### Power registers (18 R496) -/

/-- A write of a power register. -/
def powerWrite (o v : Nat) (s : State) : State :=
  if o = 0x880C then
    if v < 200000 ∨ 520000 < v then valueError s o else updPower s fun w => { w with prochotCap := BitVec.ofNat 32 v }
  else if o = 0x8810 then
    if v % 256 < 20 ∨ 100 < v % 256 then valueError s o else updPower s fun w => { w with droopMv := BitVec.ofNat 8 v }
  else s

/-! ### Timing, PTP and MAC registers (17 R453, R465, R466) -/

/-- FREQ: the rate correction in 2^-16 ppb, from units of 2^-48. -/
def freqWord (rate : Int) : Nat := unsigned 32 (rate * 1000000000 / 4294967296)

/-- A word of 0x8C00-0x8CFF. -/
def timingRead (s : State) (o : Nat) : Nat :=
  let t := s.net.timing
  let r := s.net.relne
  if o = 0x8C00 then
    t.source.toNat + 4 * b2n t.profile + 8 * b2n t.bc + 16 * b2n t.ppsOutEn + 32 * b2n t.todOutEn + 64 * b2n t.todInEn + 128 * b2n t.freqRef
      + 256 * b2n t.synceEn + 65536 * t.domain.toNat + 2 ^ 24 * t.priority2.toNat
  else if o = 0x8C04 then
    syncCode t.state + 4 * b2n t.ppsLost + 8 * b2n t.todLost + 16 * b2n (synceLocked s) + 32 * b2n t.clk10mLost + 64 * b2n t.linkTime
      + 256 * t.slaveMac.toNat + 65536 * t.holdoverS.toNat
  else if o = 0x8C0C then t.holdoverLimit.toNat
  else if 0x8C10 ≤ o ∧ o < 0x8C20 then bits t.latch.toNat (8 * (o - 0x8C10) + 31) (8 * (o - 0x8C10))
  else if o = 0x8C20 then t.setNs.toNat
  else if o = 0x8C24 then t.setLo.toNat
  else if o = 0x8C28 then t.setHi.toNat
  else if o = 0x8C30 then t.utcOffset.toNat + 65536 * b2n t.leap61 + 131072 * b2n t.leap59
  else if o = 0x8C34 then t.clockClass.toNat + 256 * t.accuracy.toNat + 65536 * t.variance.toNat
  else if o = 0x8C38 then t.offset.toNat
  else if o = 0x8C3C then freqWord t.rate
  else if o = 0x8C40 then t.width.toNat
  else if o = 0x8C44 then t.ppsInDelay.toNat
  else if o = 0x8C48 then t.ppsOutDelay.toNat
  else if o = 0x8C4C then t.baud.toNat
  else if o = 0x8C50 then
    t.src0.toNat + 8 * b2n t.out0 + 16 * t.src1.toNat + 128 * b2n t.out1 + 256 * t.qlTx.toNat + 4096 * b2n t.esmcEn
  else if o = 0x8C54 then t.qlRx0.toNat + 16 * t.qlRx1.toNat + 256 * b2n t.esmcTimeout0 + 512 * b2n t.esmcTimeout1
  else if o = 0x8CC0 then r.rootPriority.toNat + 16 * r.portEn.toNat
  else if o = 0x8CC4 then r.members.toNat + 32 * r.chip.toNat + 512 * r.protocol.toNat + 2048 * b2n r.root + 4096 * b2n r.groupFault
  else if 0x8CC8 ≤ o ∧ o < 0x8CD8 then
    let p := nth RelnePort.down r.ports ((o - 0x8CC8) / 4)
    p.protocol.toNat + 4 * b2n p.miswired + 65536 * p.retries.toNat
  else if o = 0x8CD8 then r.linkTimeErr.toNat
  else 0

/-- A write of 0x8C00-0x8CFF. -/
def timingWrite (o v : Nat) (s : State) : State :=
  let w := BitVec.ofNat 32 v
  let ranged := fun (ok : Bool) (f : Timing → Timing) => if ok then updTiming s f else valueError s o
  if o = 0x8C00 then writeTimingControl v s
  else if o = 0x8C08 then latchTime v s
  else if o = 0x8C0C then ranged (decide (1 ≤ v ∧ v ≤ 604800)) fun t => { t with holdoverLimit := w }
  else if o = 0x8C20 then ranged (decide (v ≤ 999999999)) fun t => { t with setNs := w }
  else if o = 0x8C24 then updTiming s fun t => { t with setLo := w }
  else if o = 0x8C28 then updTiming s fun t => { t with setHi := w }
  else if o = 0x8C2C then applyTimeSet v s
  else if o = 0x8C30 then updTiming s fun t => { t with utcOffset := BitVec.ofNat 16 v, leap61 := bit v 16, leap59 := bit v 17 }
  else if o = 0x8C40 then
    ranged (decide (1 ≤ v % 65536 ∧ v % 65536 ≤ 50000)) fun t => { t with width := BitVec.ofNat 16 v }
  else if o = 0x8C44 then updTiming s fun t => { t with ppsInDelay := w }
  else if o = 0x8C48 then updTiming s fun t => { t with ppsOutDelay := w }
  else if o = 0x8C4C then ranged (decide (v % 8 ≤ 4)) fun t => { t with baud := BitVec.ofNat 3 v }
  else if o = 0x8C50 then
    let old := s.net.timing.qlTx
    let s := updTiming s fun t =>
      { t with
        src0 := BitVec.ofNat 3 v, out0 := bit v 3, src1 := BitVec.ofNat 3 (bits v 6 4), out1 := bit v 7, qlTx := BitVec.ofNat 4 (bits v 11 8),
        esmcEn := bit v 12 }
    if s.net.timing.qlTx ≠ old then sendEsmc s true else s
  else if o = 0x8CC0 then updRelne s fun r => { r with rootPriority := BitVec.ofNat 4 v, portEn := BitVec.ofNat 4 (bits v 7 4) }
  else s

/-- A word of the PTP port block of MAC m. -/
def ptpRead (s : State) (m o : Nat) : Nat :=
  let q := getPtp s m
  if o = 0x00 then b2n q.en + 2 * b2n q.masterOnly + 4 * b2n q.tagged + 8 * b2n q.addr + 16 * q.vlan.toNat
  else if o = 0x04 then q.asymIngress.toNat
  else if o = 0x08 then q.asymEgress.toNat
  else if o = 0x0C then q.delayAsym.toNat
  else if o = 0x10 then q.meanPathDelay.toNat
  else if o = 0x14 then q.portState.toNat + 16 * q.unsupported.toNat
  else if o = 0x18 then q.ipAddr.toNat
  else if o = 0x1C then b2n q.ipv6
  else 0

/-- A write of the PTP port block of MAC m; a tagged port's VLAN must be of KIND 1. -/
def ptpWrite (m o v : Nat) (s : State) : State :=
  let w := BitVec.ofNat 32 v
  if o = 0x00 then
    if bit v 2 ∧ vlanKind s m (bits v 15 4) ≠ some 1 then valueError s (0x8D00 + 32 * m)
    else bmca (updPtp s m fun q =>
      { q with en := bit v 0, masterOnly := bit v 1, tagged := bit v 2, addr := bit v 3, vlan := BitVec.ofNat 12 (bits v 15 4) })
  else if o = 0x04 then updPtp s m fun q => { q with asymIngress := w }
  else if o = 0x08 then updPtp s m fun q => { q with asymEgress := w }
  else if o = 0x0C then updPtp s m fun q => { q with delayAsym := w }
  else if o = 0x18 then updPtp s m fun q => { q with ipAddr := w }
  else if o = 0x1C then updPtp s m fun q => { q with ipv6 := bit v 0 }
  else s

/-- A word of the register block of MAC m. -/
def macRead (s : State) (m o : Nat) : Nat :=
  let k := getMac s m
  if o = 0x00 then b2n k.up + 2 * k.speed.toNat
  else if o = 0x04 then b2n k.en + 2 * k.classMask.toNat + 32 * b2n k.xpn + 64 * b2n k.txAn
  else
    (nth (0 : BitVec 32)
      [0, 0, 0, 0, k.rxFrames, k.txFrames, k.fcsErr, k.oversize, k.untagged, k.unknownVlan, k.unknownEaxc, k.macsecDrop, k.svcBad,
        k.svcFull, k.lldpRx, k.linkDown] (o / 4)).toNat

/-- A write of the register block of MAC m. -/
def macWrite (m o v : Nat) (s : State) : State :=
  if o = 0x04 then writeMacsec m v s else if o = 0x08 then clearMacCounters m v s else s

/-! ### MW0 (R389, R392-R403) -/

/-- The part of the chip area that an offset lies in: read. -/
def areaRead (s : State) (o : Nat) : Nat :=
  if o < 0x8200 then chipRead s o
  else if o < 0x8400 then 0
  else if o < 0x8800 then relRead s o
  else if o < 0x8C00 then powerRead s o
  else if o < 0x8D00 then timingRead s o
  else if o < 0x8E00 then ptpRead s ((o - 0x8D00) / 32) (o % 32)
  else if o < 0x9000 then macRead s ((o - 0x8E00) / 64) (o % 64)
  else if o < 0x9400 then secRead s o
  else if o < 0x9800 then opticsRead s o
  else 0

/-- A write of a 32-bit register of the chip area. -/
def areaStore (o v : Nat) (s : State) : State :=
  if o = 0x8100 then writeChipLock v s
  else if o = 0x8104 then writeChipConfig v s
  else if o = 0x8110 then updChip s fun c => { c with mw4Part := BitVec.ofNat 3 v, mw4Sel := bit v 3 }
  else if o < 0x8400 then s
  else if o < 0x8800 then relWrite s o v
  else if o < 0x8C00 then powerWrite o v s
  else if o < 0x8D00 then timingWrite o v s
  else if o < 0x8E00 then ptpWrite ((o - 0x8D00) / 32) (o % 32) v s
  else if o < 0x9000 then macWrite ((o - 0x8E00) / 64) (o % 64) v s
  else if o < 0x9400 then secWrite o v s
  else if o < 0x9800 then opticsWrite o v s
  else s

/-- A 32-bit register of MW0 of a function, at a multiple of 4 (R392-R401). -/
def mw0Read (s : State) (f o : Nat) : Nat :=
  let k := getFn s f
  if o = 0x0000 then
    f + 32 * b2n (decide (f = 0)) + 64 * b2n (boundTo s f).isSome + 256 * (boundTo s f).getD 0 + 65536 * enabledCount s
      + 2 ^ 24 * s.sec.fuses.stepping.toNat
  else if o = 0x0004 then
    b2n s.sys.ready + 2 * b2n k.session.isSome + 4 * b2n k.resetting + 8 * b2n s.sys.recovery + 16 * b2n s.sys.fatal
      + 32 * b2n (k.quiesce && !s.host.tickets.any fun t => t.src = .fn (Fin.ofNat 32 f))
      + 256 * s.sec.lc + 65536 * (k.session.getD (0, 0)).2 + 2 ^ 24 * (k.session.getD (0, 0)).1
  else if ¬ s.sys.ready then 2 ^ 32 - 1
  else if o = 0x0008 then b2n k.dbEnable + 2 * b2n (k.resetting && k.softReset) + 4 * b2n k.quiesce
  else if o = 0x0010 then k.error.toNat
  else if o = 0x0014 then k.errAddr.toNat % 2 ^ 32
  else if o = 0x0018 then k.errAddr.toNat / 2 ^ 32 + 256 * k.errWindow.toNat + 65536 * k.errBit.toNat + 2 ^ 31 * b2n k.errValid
  else if o = 0x0100 then 0x48384C43
  else if o = 0x0104 then s.sys.version.toNat
  else if o = 0x0108 then offerWord 1
  else if o = 0x010C then offerWord 2
  else if o = 0x0110 then 0x0618
  else if o = 0x0114 then 256
  else if o = 0x0118 then 2048
  else if o = 0x2000 then k.irqCause.toNat
  else if o = 0x2004 then k.irqMask.toNat
  else if o = 0x2008 then k.holdoff.toNat
  else if 0x3000 ≤ o ∧ o < 0x3080 then word4 k.ledger (o - 0x3000)
  else if o = 0x3084 then b2n k.ledgerValid
  else if o = 0x4000 then k.tallySelect.toNat
  else if o = 0x4004 then b2n k.tallyValid + 2 * b2n k.tallyOutOfRange
  else if 0x4040 ≤ o ∧ o < 0x4080 then word4 k.tallyRecord (o - 0x4040)
  else if 0x8000 ≤ o ∧ f = 0 then areaRead s o
  else 0

/-- A write of a 32-bit register of MW0. -/
def mw0Store (f : Fin 32) (o v : Nat) (s : State) : State :=
  let n := f.val
  if o = 0x0008 then
    let s := writeQuiesce n (bit v 2) (writeDbEnable n (bit v 0) s)
    if bit v 1 then beginFnReset s f true else s
  else if o = 0x0010 then writeFnError n v s
  else if o = 0x2000 then writeIrqCause n v s
  else if o = 0x2004 then writeIrqMask n v s
  else if o = 0x2008 then updFn s n fun k => { k with holdoff := BitVec.ofNat 16 v }
  else if o = 0x3080 then writeLedgerLatch n v s
  else if o = 0x4000 then writeTallySelect n v s
  else if 0x8000 ≤ o then areaWrite n o (areaStore o v) s
  else s

/-- Whether an offset of MW0 lies in the doorbells. -/
def inDoorbells (o : Nat) : Bool := decide (0x1000 ≤ o ∧ o < 0x2000)

/-- One access of a long write, at most as wide as its register: a narrow one is dropped (R389). -/
def mw0Piece (f : Fin 32) (o : Nat) (data : List Byte) (s : State) : State :=
  if inDoorbells o then
    if o % 8 = 0 ∧ data.length = 8 then ringDoorbell s f.val ((o - 0x1000) / 8) (BitVec.ofNat 64 (leNat data)) else setError s f.val errWidth 0 o
  else if data.length = 4 then mw0Store f o (leNat data) s
  else if 0x8000 ≤ o ∧ f.val ≠ 0 then setError s f.val errRange 0 o
  else setError s f.val errWidth 0 o

/-- A request longer than 8 bytes, in naturally aligned accesses of the register width, ascending; `n` bounds their number. -/
def mw0Long (f : Fin 32) : Nat → Nat → List Byte → State → State
  | 0, _, _, s => s
  | n + 1, o, data, s =>
    if data = [] then s
    else
      let w := if inDoorbells o then 8 else 4
      let k := w - o % w
      mw0Long f n (o + k) (data.drop k) (mw0Piece f o (data.take k) s)

/-- A write of MW0 (R389). -/
def mw0Write (f : Fin 32) (o : Nat) (data : List Byte) (s : State) : State :=
  let n := data.length
  if n = 0 then s
  else if 8 < n then mw0Long f n o data s
  else if n = 8 ∧ o % 8 = 0 then
    if inDoorbells o then mw0Piece f o data s else mw0Piece f (o + 4) (data.drop 4) (mw0Piece f o (data.take 4) s)
  else if 4 < o % 4 + n then setError s f.val errAlign 0 o
  else mw0Piece f o data s

/-! ### MW2 (R389, R390, R404, R405, R408) -/

/-- The till whose record lies at an offset of MW2. -/
def recordTill (s : State) (f o : Nat) : Option Nat :=
  if o < 0x60 then some (fnTill f (o / 0x20))
  else if 0x100 ≤ o ∧ o < 0x40100 then
    (boundTo s f).bind fun p => (getPart s p).bind fun q =>
      let t := (o - 0x100) / 32
      if t < q.tillCount then some (partTill p t) else none
  else none

/-- The 32 bytes of a till record (R405). -/
def recordBytes (t : Till) : List Byte :=
  let st := match t.state with
    | .unconfigured => 0
    | .running => 1
    | .stopped => 2
    | .error => 3
  leBytes 4 t.prod.toNat ++ leBytes 4 t.cons.toNat ++ leBytes 4 (st + 4 * b2n t.armed + 256 * t.reason.toNat + 65536 * t.dropped.toNat)
    ++ leBytes 4 (t.depth.toNat + 8 * t.kind.toNat + 65536 * t.doorbell.toNat) ++ leBytes 4 t.base.toNat
    ++ leBytes 4 (t.vector.toNat + 65536 * b2n t.mirror) ++ leBytes 8 t.mirrorAddr.toNat

/-- A 32-bit word of the record area and of the pending-bit array of MW2. -/
def mw2Read (s : State) (f o : Nat) : Nat :=
  if ¬ s.sys.ready then 2 ^ 32 - 1
  else if 0x88000 ≤ o ∧ o < 0x88100 then
    sumNat ((List.range 32).map fun k => if 8 * (o - 0x88000) + k ∈ (getFn s f).msixPending then 2 ^ k else 0)
  else
    match recordTill s f o with
    | some n => word4 (recordBytes (getTill s n)) (o % 32)
    | none => 0

/-- Whether a slot of till memory belongs to a till of a function or of its bound partition. -/
def ownSlot (s : State) (f slot : Nat) : Bool :=
  let bound := boundTo s f
  s.host.tills.any fun e =>
    e.2.state ≠ .unconfigured && decide (e.2.base.toNat ≤ slot ∧ slot < e.2.base.toNat + e.2.slots)
      && (if e.1 < 96 then decide (e.1 / 3 = f) else bound = some ((e.1 - 96) / 8192))

/-- Writes the bytes that fall on slots of the function or its partition. -/
def ringStore (s : State) (f a : Nat) (m : Mem) : List Byte → Mem
  | [] => m
  | b :: bs => ringStore s f (a + 1) (if ownSlot s f (a / 64) then Mem.write m a b else m) bs

/-- Slots that an access covers, wholly or in part. -/
def slotsOf (a n : Nat) : List Nat := (List.range ((a + n - 1) / 64 + 1 - a / 64)).map fun k => a / 64 + k

/-- A write of the ring area: bytes of foreign slots are dropped; a slot written whole holds no uncorrectable word any more. -/
def ringWrite (f a : Nat) (data : List Byte) (s : State) : State :=
  let slots := slotsOf a data.length
  let whole := slots.filter fun k => decide (a ≤ 64 * k ∧ 64 * k + 64 ≤ a + data.length) && ownSlot s f k
  let foreign := slots.any fun k => !ownSlot s f k
  let s := updHost s fun h => { h with tillMem := ringStore s f a h.tillMem data, badSlots := h.badSlots.filter fun k => k ∉ whole }
  if foreign then setError s f errRange 2 (0x1000000 + a) else s

/-- A write of MW2. -/
def mw2Write (f o : Nat) (data : List Byte) (s : State) : State :=
  let n := data.length
  if n = 0 then s
  else if 0x1000000 ≤ o then ringWrite f (o - 0x1000000) (data.take (0x2000000 - o)) s
  else if 0x80000 ≤ o ∧ o < 0x88000 then
    sendPending (updFn s f fun k => { k with msixTable := msixWrite k.msixTable (o - 0x80000) (data.take (0x88000 - o)) }) f
  else if 8 < n ∨ (n = 8 ∧ o % 8 = 0) ∨ (n = 4 ∧ o % 4 = 0) then s
  else if 4 < o % 4 + n then setError s f errAlign 2 o
  else setError s f errWidth 2 o

/-! ### REGISTER_WRITE -/

/-- A write of configuration space: Command [2] Bus Master Enable at 0x04; Message Control of MSI-X, [15] Enable and [14] Function
Mask, at 0xB2 (log 75). -/
def configWrite (f o : Nat) (data : List Byte) (s : State) : State :=
  let v := leNat data
  if o = 0x04 then updFn s f fun k => { k with busMaster := bit v 2 }
  else if o = 0xB2 then sendPending (updFn s f fun k => { k with msixEnable := bit v 15, msixMask := bit v 14 }) f
  else s

/-- REGISTER_WRITE. -/
def execRegisterWrite (f : Fin 32) (win : Sys2Proof.Window) (offset : Nat) (data : List Byte) (poisoned : Bool) (s : State) : Out :=
  .next (match win with
    | .config => if present s f.val ∧ ¬ (getFn s f.val).resetting ∧ ¬ poisoned then configWrite f.val offset data s else s
    | .mw0 =>
      if ¬ served s f.val then s
      else if poisoned then emit (setError s f.val errPoison 0 offset) (.aer f.val "poisoned")
      else mw0Write f (offset % 0x10000) data s
    | .mw2 =>
      if ¬ served s f.val then s
      else if poisoned then emit (setError s f.val errPoison 2 offset) (.aer f.val "poisoned")
      else mw2Write f.val (offset % 0x2000000) data s)

/-! ### MW4 (R409, R410) -/

/-- The partition that MW4 of a function presents. -/
def presented (s : State) (f : Nat) : Option Part :=
  if ¬ s.sys.ready ∨ (f ≠ 0 ∧ s.host.chip.vfMw4Off) then none
  else
    let p := if f = 0 ∧ s.host.chip.mw4Sel then some s.host.chip.mw4Part.toNat else boundTo s f
    p.bind fun p => getPart s p

/-- The physical byte at an offset of MW4. -/
def mw4Phys (q : Option Part) (a : Nat) : Option Nat := q.bind fun q => q.phys a

/-- Bytes read from MW4. -/
def mw4Bytes (s : State) (q : Option Part) (a : Nat) : Nat → List Byte
  | 0 => []
  | n + 1 =>
    (match mw4Phys q a with
      | some b => Mem.read s.work.hbm b
      | none => 0xFF) :: mw4Bytes s q (a + 1) n

/-- Writes the bytes that fall on MAPPED pages. -/
def mw4Store (q : Option Part) (a : Nat) (m : Mem) : List Byte → Mem
  | [] => m
  | b :: bs =>
    mw4Store q (a + 1) (match mw4Phys q a with
      | some x => Mem.write m x b
      | none => m) bs

/-- FN_ERROR.UNMAPPED, once, when a byte of an access falls on no MAPPED page (R409); RANGE too when one lies past the allotment
(R396; log 106). -/
def mw4Check (s : State) (q : Option Part) (f a n : Nat) : State :=
  let s' := if (List.range n).any fun k => (mw4Phys q (a + k)).isNone then setError s f errUnmapped 4 a else s
  if q.any fun q => (List.range n).any fun k => decide (q.allot.length ≤ (a + k) / pageBytes) then setError s' f errRange 4 a else s'

/-- MW4_ACCESS. -/
def execMw4Access (f : Fin 32) (offset : Nat) (op : Mw4Op) (s : State) : Out :=
  let q := presented s f.val
  .next (if ¬ s.sys.clocks ∨ ¬ present s f.val ∨ (getFn s f.val).resetting ∨ (f.val = 0 ∧ s.host.chip.d3hot) then s
    else
      match op with
      | .read n bad =>
        let s' := mw4Check s q f.val offset n
        match bad with
        | none => emit s' (.readData f.val (mw4Bytes s q offset n))
        | some (stack, channel, bank, row) =>
          let a := (mw4Phys q offset).getD offset
          queueRepair (emit (log s' clsUncorrected 4 stack (a % 2 ^ 48) 0xFF 5) (.aer f.val "poisoned completion")) stack channel bank row
      | .write data poisoned =>
        if poisoned then emit (setError s f.val errPoison 4 offset) (.aer f.val "poisoned")
        else mw4Check (updWork s fun w => { w with hbm := mw4Store q offset w.hbm data }) q f.val offset data.length)

/-! ### Device reads, and the link (R386, R387, R411) -/

/-- A device read of host memory fails: the page it was to reload is lost, and AER reports it. -/
def readFails (s : State) (r : DmaRead) (what : String) : State :=
  match r with
  | .reload svc page =>
    match getSvc s svc with
    | none => s
    | some v => if v.loading = some page then emit (losePage s svc page) (.aer v.overflowFn what) else s
  | .other f => emit s (.aer f.val what)

/-- DMA_READ_TIMEOUT. -/
def execDmaReadTimeout (r : DmaRead) (s : State) : Out := .next (readFails s r "completion timeout")

/-- DEVICE_READ_FAILURE. -/
def execDeviceReadFailure (r : DmaRead) (s : State) : Out := .next (readFails s r "unsuccessful completion")

/-- PCIE_LINK_UP. -/
def execPcieLinkUp (s : State) : Out :=
  .next (if s.sys.pwrgood then updChip (updSys s fun y => { y with perstN := true }) fun c => { c with linkUp := true } else s)

/-- VF_ENABLE: VF Enable with NumVFs; a NumVFs that changes while VF Enable is set resets every VF (R387, R412). -/
def execVfEnable (numVFs : Nat) (s : State) : Out :=
  .next (
    let n := min numVFs 31
    let c := s.host.chip
    let s := if c.vfEnable ∧ c.numVFs ≠ n then resetVfs s (allFns.filter fun g => present s g.val) else s
    updChip s fun c => { c with vfEnable := true, numVFs := n })

/-- D3HOT_TRANSITION. -/
def execD3hotTransition (d3 : Bool) (s : State) : Out := .next (updChip s fun c => { c with d3hot := d3 })

end Sys2Proof.Machine
end

