-- ==== Sys2Proof/Machine/Memory.lean ====
section
/-! DEFINITION. Mapping and unmapping partition pages (12 R313, R314). -/

namespace Sys2Proof.Machine

/-- Whether two page ranges share a page. -/
def rangesMeet (a n b m : Nat) : Bool := decide (a < b + m) && decide (b < a + n)

/-- Checks that the memory-mapping commands share. -/
def Ctx.memChecks (c : Ctx) (s : State) (rest : Part → List (Bool × Nat)) : Option Nat :=
  let p := c.f 0x10 1
  let first := c.f 0x14 4
  let n := c.f 0x18 4
  let fields := decide (p ≤ 7) && c.zero 0x11 0x14 && c.zero 0x1C 0x20 && decide (1 ≤ n ∧ n ≤ 32768)
  match getPart s p with
  | none => c.checks s fields (isRoot c.m.src) false true [(false, eState)]
  | some q => c.checks s fields (hostOf s c.m.src p && decide (first + n ≤ q.allot.length)) false true (rest q)

/-- MAPPED pages of a range. -/
def Part.mappedIn (q : Part) (first n : Nat) : Nat := ((List.range n).filter fun k => q.isMapped (first + k)).length

/-- MEM_MAP: the zeroing begins; a pending MEM_MAP of an overlapping range is superseded (R313). -/
def carryMemMap : Carry := fun c s =>
  let p := c.f 0x10 1
  let first := c.f 0x14 4
  let n := c.f 0x18 4
  whenOk s (c.memChecks s fun q => [(decide (q.mappedIn first n = 0), eState)])
    (match getPart s p with
      | none => refuse s eState
      | some q =>
        let old := q.mapping.filter fun r => rangesMeet r.first r.count first n
        let s := updPart s p fun q =>
          { q with mapping := q.mapping.filter (fun r => r ∉ old) ++ [{ first := first, count := n, ticket := c.tid, jobs := 0 }] }
        (old.foldl (fun s r => completeWith s r.ticket eSuperseded) s, none))

def execMemMap (m : Msg) (s : State) : Out := runCommand 0x0200 0x100 32 carryMemMap m s

/-- Marks pages of a range MAPPED or UNMAPPED. -/
def Part.mark (q : Part) (first n : Nat) (on : Bool) : Part :=
  { q with mapped := (List.range n).foldl (fun t k => Tbl.set false t (first + k) on) q.mapped }

/-- Zeroes the physical pages of a range. -/
def zeroPages (m : Mem) (q : Part) (first n : Nat) : Mem :=
  (List.range n).foldl (fun m k =>
    match q.allot[first + k]? with
    | some g => Mem.zero m (g * pageBytes) ((g + 1) * pageBytes)
    | none => m) m

/-- PAGES_MAPPED: the zeroing of a pending MEM_MAP ends and its pages are MAPPED, all at once; a page whose zeroing after an
unmap is in progress holds it back (R313, R314). -/
def execPagesMapped (part first : Nat) (s : State) : Out :=
  .next (match getPart s part with
    | none => s
    | some q =>
      match q.mapping.find? fun r => r.first = first with
      | none => s
      | some r =>
        if q.unmapping.any fun u => rangesMeet u.first u.count r.first r.count then s
        else
          let s := updWork s fun w => { w with hbm := zeroPages w.hbm q r.first r.count }
          let s := updPart s part fun q => { q.mark r.first r.count true with mapping := q.mapping.filter fun x => x ≠ r }
          finish s r.ticket ⟨eOk, r.count, 0, 0, 0⟩)

/-- Whether a TRANSLATIONS record of an image covers a page of a range (02 R54). -/
def coversPages (img : List Byte) (first n : Nat) : Bool :=
  (List.range (imgSection img 0x000B).1).any fun i =>
    rangesMeet (imgField img 0x000B 16 i 0 8 / pageBytes) (imgField img 0x000B 16 i 8 4) first n

/-- MEM_UNMAP: its pages are UNMAPPED from its acceptance (R313); the clearings of VALID are seen at once (log 11). -/
def carryMemUnmap : Carry := fun c s =>
  let p := c.f 0x10 1
  let first := c.f 0x14 4
  let n := c.f 0x18 4
  whenOk s (c.memChecks s fun q => [(decide (q.mappedIn first n = n), eState)])
    (let jobs := (s.work.jobs.filter fun e => e.2.part = p && coversPages e.2.image first n).length
     let s := updPart s p fun q =>
       { q.mark first n false with unmapping := q.unmapping ++ [{ first := first, count := n, ticket := c.tid, jobs := jobs }] }
     (copyFaults s p first n, none))

def execMemUnmap (m : Msg) (s : State) : Out := runCommand 0x0201 0x100 32 carryMemUnmap m s

/-- Whether a transaction to a page of a range is in flight. -/
def txnsTouch (s : State) (p first n : Nat) : Bool :=
  s.work.cores.any fun e => e.2.txns.any fun t =>
    (match getJob s t.job with
      | some j => decide (j.part = p)
      | none => false) && decide (t.kind ∈ [0, 1, 4]) && t.pages.any fun g => decide (first ≤ g ∧ g < first + n)

/-- UNMAP_COMPLETE: every clearing has reached its table; transactions issued before have landed (R314). -/
def execUnmapComplete (part first : Nat) (s : State) : Out :=
  .next (match getPart s part with
    | none => s
    | some q =>
      match q.unmapping.find? fun r => r.first = first with
      | none => s
      | some r =>
        if txnsTouch s part r.first r.count then s
        else finish (updPart s part fun q => { q with unmapping := q.unmapping.filter fun x => x ≠ r }) r.ticket ⟨eOk, r.jobs, 0, 0, 0⟩)

/-- MEM_QUERY. -/
def carryMemQuery : Carry := fun c s =>
  let p := c.f 0x10 1
  whenOk s (c.memChecks s fun _ => [])
    (match getPart s p with
      | none => refuse s eState
      | some q => (s, some ⟨eOk, q.mappedIn (c.f 0x14 4) (c.f 0x18 4), q.allot.length, 0, 0⟩))

def execMemQuery (m : Msg) (s : State) : Out := runCommand 0x0202 0x100 32 carryMemQuery m s

end Sys2Proof.Machine
end

