-- ==== Sys2Proof/Machine/Messages.lean ====
section
/-! DEFINITION. Messages that the tellers take from command tills and service tills, and messages that arrive over MCTP (15 R406,
R407; 16 R417-R420, R430; 19 R498; 21 R541, R542). -/

namespace Sys2Proof.Machine

/-! ### The opcodes (16 R427, R430) -/

/-- A command of one length. -/
def opFixed (since len : Nat) (c : Carry) : Option (Nat × (Nat → Bool) × Carry) := some (since, fun n => decide (n = len), c)

/-- What an opcode of a host message stands for: the version that adds it, its lengths and what carries it out; none: it is reserved,
or only the device sends it. -/
def hostOp (op : Nat) : Option (Nat × (Nat → Bool) × Carry) :=
  match op with
  | 0x0000 => opFixed 0 32 carryHello
  | 0x0001 => opFixed 0x100 16 carryBye
  | 0x0002 => opFixed 0x100 48 carryTillConfig
  | 0x0003 => opFixed 0x100 24 carryTillReset
  | 0x0100 => opFixed 0x100 96 carryPartCreate
  | 0x0101 => opFixed 0x100 24 carryPartDestroy
  | 0x0102 => opFixed 0x100 24 carryPartBind
  | 0x0103 => opFixed 0x100 24 carryPartQuery
  | 0x0200 => opFixed 0x100 32 carryMemMap
  | 0x0201 => opFixed 0x100 32 carryMemUnmap
  | 0x0202 => opFixed 0x100 32 carryMemQuery
  | 0x0300 => opFixed 0x100 64 carryJobLoad
  | 0x0301 => opFixed 0x100 24 carryJobStart
  | 0x0302 => opFixed 0x100 24 carryJobStop
  | 0x0303 => opFixed 0x100 24 carryJobUnload
  | 0x0304 => opFixed 0x100 24 carryPlanSelect
  | 0x0305 => opFixed 0x100 24 carryJobQuery
  | 0x0400 => opFixed 0x100 32 carryTallyAdd
  | 0x0401 => opFixed 0x100 24 carryTallyRead
  | 0x0402 => opFixed 0x100 40 carryTallyWait
  | 0x0403 => opFixed 0x106 32 carryTallyQuery
  | 0x0500 => opFixed 0x100 32 carryLedgerRead
  | 0x0501 => opFixed 0x100 24 carryLedgerClear
  | 0x0600 => opFixed 0x100 24 carryCapSet
  | 0x0601 => opFixed 0x100 24 carryCapQuery
  | 0x0700 => opFixed 0x100 16 carryTimeQuery
  | 0x0800 => some (0x102, fun n => 24 ≤ n && n ≤ 4096, carryFapi)
  | 0x0801 => opFixed 0x102 144 carryCellStart
  | 0x0802 => opFixed 0x102 24 carryCellStop
  | 0x0803 => opFixed 0x102 32 carryCellStats
  | 0x0900 => opFixed 0x200 112 carrySvcOpen
  | 0x0901 => opFixed 0x200 24 carrySvcClose
  | 0x0902 => opFixed 0x200 24 carrySvcQuery
  | 0x0A00 => opFixed 0x104 96 carryAdapt
  | 0x0A01 => opFixed 0x104 24 carryPromote
  | 0x0A02 => opFixed 0x104 24 carryRollback
  | 0x0B00 => opFixed 0x100 32 carrySelftest
  | 0x0B01 => opFixed 0x100 32 carryFwStage
  | 0x0B02 => opFixed 0x100 24 carryFwActivate
  | 0x0B03 => opFixed 0x100 24 carryLcAdvance
  | 0x0B04 => opFixed 0x100 24 carryMendUpdate
  | 0x0B05 => opFixed 0x100 16 carrySealArm
  | 0x0C00 => opFixed 0x100 24 carryDbgHalt
  | 0x0C01 => opFixed 0x100 24 carryDbgStep
  | 0x0C02 => opFixed 0x100 24 carryDbgResume
  | 0x0C03 => opFixed 0x100 40 carryDbgRead
  | _ => none

/-- Takes a message of an opcode: a service client sends the session requests, every other source the commands. -/
def takeMessage (op : Nat) (m : Msg) (s : State) : Option State :=
  match m.src with
  | .client _ =>
    match op with
    | 0x0910 => takeSessionOpen m s
    | 0x0911 => takeSessionAppend m s
    | 0x0912 => takeSessionGenerate m s
    | 0x0913 => takeSessionFork m s
    | 0x0914 => takeSessionClose m s
    | _ => takeCommand op none m s
  | _ => takeCommand op (hostOp op) m s

/-! ### Reading a message -/

/-- Whether a LENGTH keeps R418. -/
def lengthOk (n : Nat) : Bool := decide (16 ≤ n ∧ n ≤ 4096) && decide (n % 8 = 0)

/-- The message that bytes make, header and body; a body of one byte stands for a LENGTH that breaks R418, which every check of
LENGTH then refuses. -/
def parseMsg (src : Source) (till : Option Nat) (bytes : List Byte) : Nat × Msg :=
  let len := imgLe bytes 4 2
  (imgLe bytes 0 2,
   { src := src, till := till, flags := BitVec.ofNat 8 (imgLe bytes 2 1), seq := BitVec.ofNat 8 (imgLe bytes 3 1),
     reply := BitVec.ofNat 16 (imgLe bytes 6 2), tag := BitVec.ofNat 64 (imgLe bytes 8 8),
     body := if lengthOk len ∧ len ≤ bytes.length then (bytes.take len).drop 16 else [0] })

/-- The bytes of n slots of a till from CONS on. -/
def Till.slotsFrom (t : Till) (m : Mem) (n : Nat) : List Byte :=
  (List.range n).flatMap fun k => Mem.bytes m (t.slotAddr (t.cons + BitVec.ofNat 16 k)) 64

/-- Whether one of n slots of a till from CONS on holds an uncorrectable error (19 R498). -/
def slotsBad (s : State) (t : Till) (n : Nat) : Bool :=
  (List.range n).any fun k => decide (t.slotAddr (t.cons + BitVec.ofNat 16 k) / 64 ∈ s.host.badSlots)

/-- Who sent the messages of a till: its holder, PF0 for management's; the client whose frame a service till holds. -/
def tillSource (s : State) (t : Till) : Source :=
  if t.kind = 4 then .client (Tbl.get 0 s.host.frameSrc (t.slotAddr t.cons / 64))
  else
    match t.holder with
    | .fn f => .fn f
    | _ => .fn 0

/-- Moves CONS past the slots of a message that is taken. -/
def passSlots (s : State) (n k : Nat) : State := updTill s n fun t => { t with cons := t.cons + BitVec.ofNat 16 k }

/-- A message whose slots meet an uncorrectable error completes with E_FAULT; its till keeps running (19 R498). -/
def takeBad (op : Nat) (m : Msg) (s : State) : Option State :=
  if ¬ mayTake s m then none
  else
    let tid := s.host.nextTicket
    some (finish (openTicket s op m (replyTill s { m with reply := 0 }).1) tid (Done.of eFault))

/-- MESSAGE_TAKE: the tellers take the next complete message of a till. -/
def execMessageTake (till : Nat) (s : State) : Out :=
  let t := getTill s till
  .next (if t.state ≠ .running ∨ (t.kind ≠ 0 ∧ t.kind ≠ 4) ∨ t.used = 0 then s
  else
    let src := tillSource s t
    let len := imgLe (t.slotsFrom s.host.tillMem 1) 4 2
    if ¬ lengthOk len then
      let p := parseMsg src (some till) (t.slotsFrom s.host.tillMem 1)
      (takeMessage p.1 p.2 s).getD s
    else
      let k := ceilDiv len 64
      if t.used < k then s
      else
        let p := parseMsg src (some till) (t.slotsFrom s.host.tillMem k)
        if slotsBad s t k then (takeBad p.1 p.2 (passSlots s till k)).getD s
        else (takeMessage p.1 p.2 (passSlots s till k)).getD s)

/-! ### MCTP (21 R541, R542) -/

/-- Completions of management that wait to be sent. -/
def waitingCompletions (s : State) : Nat := sumNat (s.mgmt.transports.map fun t => (t.queue.filter (·.completion)).length)

/-- A command of management: its completion returns to the endpoint and transport it came from. -/
def mgmtCommand (via eid : Nat) (data : List Byte) (s : State) : State :=
  if 64 ≤ waitingCompletions s then s
  else
    let p := parseMsg .mgmt none data
    (takeMessage p.1 p.2 (updMgmt s fun m => { m with current := (via, eid) })).getD s

/-- MCTP_MESSAGE: dispatched by type; any other type, vendor or class is discarded. -/
def execMctpMessage (via eid type : Nat) (body : List Byte) (s : State) : Out :=
  .next (if ¬ mgmtServes s via then s
  else if type = 0 ∨ type = 1 ∨ type = 5 then
    match Config.mctpDecode type body with
    | some r => mgmtRequest via eid s r
    | none => s
  else if type = 0x7E ∧ body.take 2 = (leBytes 2 Config.vendorId.toNat).reverse ∧ imgLe body 2 1 = 0 ∧ 19 ≤ body.length then
    mgmtCommand via eid (body.drop 3) s
  else s)

/-! ### Commands that waited for the end of a flow loss (18 R493, R494) -/

/-- Carries out the commands that were held, in the order in which they were taken. -/
def runHeld (s : State) : State :=
  let hs := s.host.held
  let s := { s with host := { s.host with held := [] } }
  hs.foldl (fun s h =>
    if s.host.tickets.any fun t => t.id = h.tid then
      match hostOp h.op with
      | some (_, _, carry) => carryOut h.op h.tid h.ver h.m carry s
      | none => s
    else s) s

/-- FLOW_RESTART_DONE: invocations that ran complete with E_ABORTED, cells send CELL_STOPPED, POWER_EVENT KIND 5 is sent; commands that
waited run. -/
def execFlowRestartDone (s : State) : Out :=
  .next (if ¬ s.power.flowRestart then s
  else
    let s := updPower s fun w => { w with flowStopped := false, flowRestart := false }
    runHeld (if s.sys.boot.isSome then s else powerEvent (endStopped s) 5 0))

end Sys2Proof.Machine
end

