-- ==== Sys2Proof/Machine/Dispatch.lean ====
section
/-! DEFINITION. One arm per command: each a direct call of its meaning. -/

namespace Sys2Proof.Machine

/-- The effect of a command on everything but the queue. -/
def exec (i : Instr) (s : State) : Host.Outcome State Fault Refusal :=
  match i with
  | .nop core => Sys2Proof.Machine.execNop core s
  | .pass core check ecc => Sys2Proof.Machine.execPass core check ecc s
  | .reload core check ecc => Sys2Proof.Machine.execReload core check ecc s
  | .vec core ecc => Sys2Proof.Machine.execVec core ecc s
  | .sig core ecc => Sys2Proof.Machine.execSig core ecc s
  | .feed core ecc => Sys2Proof.Machine.execFeed core ecc s
  | .store core ecc => Sys2Proof.Machine.execStore core ecc s
  | .mint core ecc => Sys2Proof.Machine.execMint core ecc s
  | .post core => Sys2Proof.Machine.execPost core s
  | .checkpoint core => Sys2Proof.Machine.execCheckpoint core s
  | .digest core ecc => Sys2Proof.Machine.execDigest core ecc s
  | .fence core => Sys2Proof.Machine.execFence core s
  | .epochEnd core ecc => Sys2Proof.Machine.execEpochEnd core ecc s
  | .stepComplete core u energy result => Sys2Proof.Machine.execStepComplete core u energy result s
  | .epochBegin core => Sys2Proof.Machine.execEpochBegin core s
  | .epochLimit job => Sys2Proof.Machine.execEpochLimit job s
  | .planRuleSelect job => Sys2Proof.Machine.execPlanRuleSelect job s
  | .stallLimit core => Sys2Proof.Machine.execStallLimit core s
  | .mendMapWrite => Sys2Proof.Machine.execMendMapWrite s
  | .eventBoundaryStop core ecc => Sys2Proof.Machine.execEventBoundaryStop core ecc s
  | .vecNop core => Sys2Proof.Machine.execVecNop core s
  | .vadd core => Sys2Proof.Machine.execVadd core s
  | .vsub core => Sys2Proof.Machine.execVsub core s
  | .vmul core => Sys2Proof.Machine.execVmul core s
  | .vfma core => Sys2Proof.Machine.execVfma core s
  | .vmax core => Sys2Proof.Machine.execVmax core s
  | .vmin core => Sys2Proof.Machine.execVmin core s
  | .vabs core => Sys2Proof.Machine.execVabs core s
  | .vneg core => Sys2Proof.Machine.execVneg core s
  | .vmov core => Sys2Proof.Machine.execVmov core s
  | .vsel core => Sys2Proof.Machine.execVsel core s
  | .vclamp core => Sys2Proof.Machine.execVclamp core s
  | .vcmp core => Sys2Proof.Machine.execVcmp core s
  | .vand core => Sys2Proof.Machine.execVand core s
  | .vor core => Sys2Proof.Machine.execVor core s
  | .vxor core => Sys2Proof.Machine.execVxor core s
  | .vshl core => Sys2Proof.Machine.execVshl core s
  | .vshr core => Sys2Proof.Machine.execVshr core s
  | .vshru core => Sys2Proof.Machine.execVshru core s
  | .mand core => Sys2Proof.Machine.execMand core s
  | .mor core => Sys2Proof.Machine.execMor core s
  | .mnot core => Sys2Proof.Machine.execMnot core s
  | .vrsum core => Sys2Proof.Machine.execVrsum core s
  | .vrmax core => Sys2Proof.Machine.execVrmax core s
  | .vrmin core => Sys2Proof.Machine.execVrmin core s
  | .vrargmax core => Sys2Proof.Machine.execVrargmax core s
  | .vexp2 core => Sys2Proof.Machine.execVexp2 core s
  | .vlog2 core => Sys2Proof.Machine.execVlog2 core s
  | .vrcp core => Sys2Proof.Machine.execVrcp core s
  | .vrsqrt core => Sys2Proof.Machine.execVrsqrt core s
  | .vsqrt core => Sys2Proof.Machine.execVsqrt core s
  | .vsint core => Sys2Proof.Machine.execVsint core s
  | .vcost core => Sys2Proof.Machine.execVcost core s
  | .vtanh core => Sys2Proof.Machine.execVtanh core s
  | .cmul core => Sys2Proof.Machine.execCmul core s
  | .cmulc core => Sys2Proof.Machine.execCmulc core s
  | .cmac core => Sys2Proof.Machine.execCmac core s
  | .cmacc core => Sys2Proof.Machine.execCmacc core s
  | .cmag2 core => Sys2Proof.Machine.execCmag2 core s
  | .crot core => Sys2Proof.Machine.execCrot core s
  | .vcvt core => Sys2Proof.Machine.execVcvt core s
  | .vbcast core => Sys2Proof.Machine.execVbcast core s
  | .vrot core => Sys2Proof.Machine.execVrot core s
  | .vzip core => Sys2Proof.Machine.execVzip core s
  | .vunzip core => Sys2Proof.Machine.execVunzip core s
  | .vperm core => Sys2Proof.Machine.execVperm core s
  | .vld core => Sys2Proof.Machine.execVld core s
  | .vst core => Sys2Proof.Machine.execVst core s
  | .vldacc core => Sys2Proof.Machine.execVldacc core s
  | .vstacc core => Sys2Proof.Machine.execVstacc core s
  | .vgather core => Sys2Proof.Machine.execVgather core s
  | .loop core => Sys2Proof.Machine.execLoop core s
  | .loopEnd core => Sys2Proof.Machine.execLoopEnd core s
  | .pset core => Sys2Proof.Machine.execPset core s
  | .padd core => Sys2Proof.Machine.execPadd core s
  | .sigNop core => Sys2Proof.Machine.execSigNop core s
  | .lda core => Sys2Proof.Machine.execLda core s
  | .add core => Sys2Proof.Machine.execAdd core s
  | .sub core => Sys2Proof.Machine.execSub core s
  | .cmp core => Sys2Proof.Machine.execCmp core s
  | .cmpa core => Sys2Proof.Machine.execCmpa core s
  | .max core => Sys2Proof.Machine.execMax core s
  | .min core => Sys2Proof.Machine.execMin core s
  | .abs core => Sys2Proof.Machine.execAbs core s
  | .neg core => Sys2Proof.Machine.execNeg core s
  | .zero core => Sys2Proof.Machine.execZero core s
  | .rnda core => Sys2Proof.Machine.execRnda core s
  | .shl core => Sys2Proof.Machine.execShl core s
  | .shr core => Sys2Proof.Machine.execShr core s
  | .mul core => Sys2Proof.Machine.execMul core s
  | .mulr core => Sys2Proof.Machine.execMulr core s
  | .madd core => Sys2Proof.Machine.execMadd core s
  | .maddr core => Sys2Proof.Machine.execMaddr core s
  | .msub core => Sys2Proof.Machine.execMsub core s
  | .msubr core => Sys2Proof.Machine.execMsubr core s
  | .mneg core => Sys2Proof.Machine.execMneg core s
  | .and core => Sys2Proof.Machine.execAnd core s
  | .or core => Sys2Proof.Machine.execOr core s
  | .xor core => Sys2Proof.Machine.execXor core s
  | .norm core => Sys2Proof.Machine.execNorm core s
  | .satw core => Sys2Proof.Machine.execSatw core s
  | .pget core => Sys2Proof.Machine.execPget core s
  | .halt core => Sys2Proof.Machine.execHalt core s
  | .jmp core => Sys2Proof.Machine.execJmp core s
  | .call core => Sys2Proof.Machine.execCall core s
  | .ret core => Sys2Proof.Machine.execRet core s
  | .doLoop core => Sys2Proof.Machine.execDo core s
  | .doEnd core => Sys2Proof.Machine.execDoEnd core s
  | .rep core => Sys2Proof.Machine.execRep core s
  | .repEnd core => Sys2Proof.Machine.execRepEnd core s
  | .ldp core => Sys2Proof.Machine.execLdp core s
  | .ldi core => Sys2Proof.Machine.execLdi core s
  | .pcopy core => Sys2Proof.Machine.execPcopy core s
  | .get core => Sys2Proof.Machine.execGet core s
  | .put core => Sys2Proof.Machine.execPut core s
  | .setm core => Sys2Proof.Machine.execSetm core s
  | .yieldAbortPoint core => Sys2Proof.Machine.execYieldAbortPoint core s
  | .saveComplete core => Sys2Proof.Machine.execSaveComplete core s
  | .rinseComplete core => Sys2Proof.Machine.execRinseComplete core s
  | .lentWindowClose core => Sys2Proof.Machine.execLentWindowClose core s
  | .beDispatch core => Sys2Proof.Machine.execBeDispatch core s
  | .segmentWake core segment => Sys2Proof.Machine.execSegmentWake core segment s
  | .memMap m => Sys2Proof.Machine.execMemMap m s
  | .pagesMapped part first => Sys2Proof.Machine.execPagesMapped part first s
  | .memUnmap m => Sys2Proof.Machine.execMemUnmap m s
  | .unmapComplete part first => Sys2Proof.Machine.execUnmapComplete part first s
  | .memQuery m => Sys2Proof.Machine.execMemQuery m s
  | .transactionLanding core index outcome => Sys2Proof.Machine.execTransactionLanding core index outcome s
  | .tallyAdd m => Sys2Proof.Machine.execTallyAdd m s
  | .tallyRead m => Sys2Proof.Machine.execTallyRead m s
  | .tallyWait m => Sys2Proof.Machine.execTallyWait m s
  | .tallyMonitorMet part index => Sys2Proof.Machine.execTallyMonitorMet part index s
  | .tallyWaitTimeout ticket => Sys2Proof.Machine.execTallyWaitTimeout ticket s
  | .tallyQuery m => Sys2Proof.Machine.execTallyQuery m s
  | .postVisible tally core => Sys2Proof.Machine.execPostVisible tally core s
  | .groupTallyMessage port part tag record amount time chip => Sys2Proof.Machine.execGroupTallyMessage port part tag record amount time chip s
  | .barrierRelease tally => Sys2Proof.Machine.execBarrierRelease tally s
  | .digestCombine job point epoch => Sys2Proof.Machine.execDigestCombine job point epoch s
  | .clipShare job station epoch => Sys2Proof.Machine.execClipShare job station epoch s
  | .partCreate m => Sys2Proof.Machine.execPartCreate m s
  | .partDestroy m => Sys2Proof.Machine.execPartDestroy m s
  | .partDestroyComplete part => Sys2Proof.Machine.execPartDestroyComplete part s
  | .partBind m => Sys2Proof.Machine.execPartBind m s
  | .partQuery m => Sys2Proof.Machine.execPartQuery m s
  | .ledgerRead m => Sys2Proof.Machine.execLedgerRead m s
  | .ledgerClear m => Sys2Proof.Machine.execLedgerClear m s
  | .producerDoorbell f d value => Sys2Proof.Machine.execProducerDoorbell f d value s
  | .consumerDoorbell f d value => Sys2Proof.Machine.execConsumerDoorbell f d value s
  | .messageTake till => Sys2Proof.Machine.execMessageTake till s
  | .irqHoldoffExpiry f vector => Sys2Proof.Machine.execIrqHoldoffExpiry f vector s
  | .msixUnmask f vector => Sys2Proof.Machine.execMsixUnmask f vector s
  | .dbEnable f on => Sys2Proof.Machine.execDbEnable f on s
  | .softReset f => Sys2Proof.Machine.execSoftReset f s
  | .quiesce f on => Sys2Proof.Machine.execQuiesce f on s
  | .fnErrorClear f value => Sys2Proof.Machine.execFnErrorClear f value s
  | .irqCauseClear f value => Sys2Proof.Machine.execIrqCauseClear f value s
  | .irqMaskWrite f value => Sys2Proof.Machine.execIrqMaskWrite f value s
  | .ledgerLatch f value => Sys2Proof.Machine.execLedgerLatch f value s
  | .tallySelect f value => Sys2Proof.Machine.execTallySelect f value s
  | .chipLock f value => Sys2Proof.Machine.execChipLock f value s
  | .registerWrite f win offset data poisoned => Sys2Proof.Machine.execRegisterWrite f win offset data poisoned s
  | .mw4Access f offset op => Sys2Proof.Machine.execMw4Access f offset op s
  | .functionLevelReset f => Sys2Proof.Machine.execFunctionLevelReset f s
  | .vfDisable numVFs => Sys2Proof.Machine.execVfDisable numVFs s
  | .pcieConventionalReset cause => Sys2Proof.Machine.execPcieConventionalReset cause s
  | .functionResetDone f => Sys2Proof.Machine.execFunctionResetDone f s
  | .dmaReadTimeout r => Sys2Proof.Machine.execDmaReadTimeout r s
  | .hello m => Sys2Proof.Machine.execHello m s
  | .bye m => Sys2Proof.Machine.execBye m s
  | .tillConfig m => Sys2Proof.Machine.execTillConfig m s
  | .tillReset m => Sys2Proof.Machine.execTillReset m s
  | .jobLoad m => Sys2Proof.Machine.execJobLoad m s
  | .floorRaiseTimeout die => Sys2Proof.Machine.execFloorRaiseTimeout die s
  | .jobStart m => Sys2Proof.Machine.execJobStart m s
  | .jobStop m => Sys2Proof.Machine.execJobStop m s
  | .jobUnload m => Sys2Proof.Machine.execJobUnload m s
  | .planSelect m => Sys2Proof.Machine.execPlanSelect m s
  | .jobQuery m => Sys2Proof.Machine.execJobQuery m s
  | .capSet m => Sys2Proof.Machine.execCapSet m s
  | .capQuery m => Sys2Proof.Machine.execCapQuery m s
  | .timeQuery m => Sys2Proof.Machine.execTimeQuery m s
  | .fapiTunnel m => Sys2Proof.Machine.execFapiTunnel m s
  | .cellStart m => Sys2Proof.Machine.execCellStart m s
  | .cellStop m => Sys2Proof.Machine.execCellStop m s
  | .cellStats m => Sys2Proof.Machine.execCellStats m s
  | .selftest m => Sys2Proof.Machine.execSelftest m s
  | .fwStage m => Sys2Proof.Machine.execFwStage m s
  | .fwActivate m => Sys2Proof.Machine.execFwActivate m s
  | .lcAdvance m => Sys2Proof.Machine.execLcAdvance m s
  | .mendUpdate m => Sys2Proof.Machine.execMendUpdate m s
  | .sealArm m => Sys2Proof.Machine.execSealArm m s
  | .dbgHalt m => Sys2Proof.Machine.execDbgHalt m s
  | .dbgStep m => Sys2Proof.Machine.execDbgStep m s
  | .dbgResume m => Sys2Proof.Machine.execDbgResume m s
  | .dbgRead m => Sys2Proof.Machine.execDbgRead m s
  | .uplaneFrame mac vlan rxNs payload => Sys2Proof.Machine.execUplaneFrame mac vlan rxNs payload s
  | .serviceFrame mac vlan addr payload => Sys2Proof.Machine.execServiceFrame mac vlan addr payload s
  | .frameDrop mac frame => Sys2Proof.Machine.execFrameDrop mac frame s
  | .lldpdu mac => Sys2Proof.Machine.execLldpdu mac s
  | .lldpSend => Sys2Proof.Machine.execLldpSend s
  | .ethLinkChange mac up => Sys2Proof.Machine.execEthLinkChange mac up s
  | .symbolClose at_ slot symbol => Sys2Proof.Machine.execSymbolClose at_ slot symbol s
  | .ulTtiRequest cell sfn slot pdus => Sys2Proof.Machine.execUlTtiRequest cell sfn slot pdus s
  | .dlTtiRequest cell sfn slot pdus => Sys2Proof.Machine.execDlTtiRequest cell sfn slot pdus s
  | .ulDciRequest cell sfn slot pdus => Sys2Proof.Machine.execUlDciRequest cell sfn slot pdus s
  | .txDataRequest cell sfn slot entries => Sys2Proof.Machine.execTxDataRequest cell sfn slot entries s
  | .slotIndication cell slot => Sys2Proof.Machine.execSlotIndication cell slot s
  | .contextFree cell rnti => Sys2Proof.Machine.execContextFree cell rnti s
  | .codeBlockDecoded cell slot pdu cb check => Sys2Proof.Machine.execCodeBlockDecoded cell slot pdu cb check s
  | .harqAgeExpiry cell rnti harq => Sys2Proof.Machine.execHarqAgeExpiry cell rnti harq s
  | .polarDecoded cell slot pdu codes check => Sys2Proof.Machine.execPolarDecoded cell slot pdu codes check s
  | .codeBlockEncoded cell slot pdu cb engine check => Sys2Proof.Machine.execCodeBlockEncoded cell slot pdu cb engine check s
  | .symbolDeparture cell slot symbol => Sys2Proof.Machine.execSymbolDeparture cell slot symbol s
  | .dlCplaneSend cell slot => Sys2Proof.Machine.execDlCplaneSend cell slot s
  | .ulCplaneSend cell slot symbol => Sys2Proof.Machine.execUlCplaneSend cell slot symbol s
  | .stagingProcess cell entry pdus => Sys2Proof.Machine.execStagingProcess cell entry pdus s
  | .evalExpiry cell => Sys2Proof.Machine.execEvalExpiry cell s
  | .trainingRoundStart cell => Sys2Proof.Machine.execTrainingRoundStart cell s
  | .roundEnd cell => Sys2Proof.Machine.execRoundEnd cell s
  | .roundTimeout cell => Sys2Proof.Machine.execRoundTimeout cell s
  | .liveSwitch cell => Sys2Proof.Machine.execLiveSwitch cell s
  | .liveFailureTrigger cell => Sys2Proof.Machine.execLiveFailureTrigger cell s
  | .probationEnd cell => Sys2Proof.Machine.execProbationEnd cell s
  | .adaptConfig m => Sys2Proof.Machine.execAdaptConfig m s
  | .loadSlot m => Sys2Proof.Machine.execLoadSlot m s
  | .clearSlot m => Sys2Proof.Machine.execClearSlot m s
  | .adaptQuery m => Sys2Proof.Machine.execAdaptQuery m s
  | .adaptPromote m => Sys2Proof.Machine.execAdaptPromote m s
  | .adaptRollback m => Sys2Proof.Machine.execAdaptRollback m s
  | .svcOpen m => Sys2Proof.Machine.execSvcOpen m s
  | .svcClose m => Sys2Proof.Machine.execSvcClose m s
  | .svcQuery m => Sys2Proof.Machine.execSvcQuery m s
  | .sessionOpen m => Sys2Proof.Machine.execSessionOpen m s
  | .sessionAppend m => Sys2Proof.Machine.execSessionAppend m s
  | .sessionGenerate m => Sys2Proof.Machine.execSessionGenerate m s
  | .sessionFork m => Sys2Proof.Machine.execSessionFork m s
  | .sessionClose m => Sys2Proof.Machine.execSessionClose m s
  | .evictionCopyComplete svc page => Sys2Proof.Machine.execEvictionCopyComplete svc page s
  | .reloadCopyComplete svc page => Sys2Proof.Machine.execReloadCopyComplete svc page s
  | .sessionFrameTimeout svc session => Sys2Proof.Machine.execSessionFrameTimeout svc session s
  | .ptpSync rx twoStep t1 correction => Sys2Proof.Machine.execPtpSync rx twoStep t1 correction s
  | .ptpDelayReq rx requester seq => Sys2Proof.Machine.execPtpDelayReq rx requester seq s
  | .ptpDelayResp rx t4 correction => Sys2Proof.Machine.execPtpDelayResp rx t4 correction s
  | .ptpAnnounce rx a => Sys2Proof.Machine.execPtpAnnounce rx a s
  | .syncTx mac => Sys2Proof.Machine.execSyncTx mac s
  | .announceTx mac => Sys2Proof.Machine.execAnnounceTx mac s
  | .delayReqTx mac raw => Sys2Proof.Machine.execDelayReqTx mac raw s
  | .ptpSourceLoss mac => Sys2Proof.Machine.execPtpSourceLoss mac s
  | .holdoverLimitExpiry => Sys2Proof.Machine.execHoldoverLimitExpiry s
  | .esmcPdu mac ql => Sys2Proof.Machine.execEsmcPdu mac ql s
  | .esmcSend => Sys2Proof.Machine.execEsmcSend s
  | .esmcTimeout src => Sys2Proof.Machine.execEsmcTimeout src s
  | .clk10mLost => Sys2Proof.Machine.execClk10mLost s
  | .ppsInEdge pin => Sys2Proof.Machine.execPpsInEdge pin s
  | .ppsLost => Sys2Proof.Machine.execPpsLost s
  | .ppsOutEdge => Sys2Proof.Machine.execPpsOutEdge s
  | .todMessage data => Sys2Proof.Machine.execTodMessage data s
  | .todLost => Sys2Proof.Machine.execTodLost s
  | .todOutMessage => Sys2Proof.Machine.execTodOutMessage s
  | .timeSetApply value => Sys2Proof.Machine.execTimeSetApply value s
  | .timeLatch value => Sys2Proof.Machine.execTimeLatch value s
  | .macCounterClear mac value => Sys2Proof.Machine.execMacCounterClear mac value s
  | .macsecControl mac value => Sys2Proof.Machine.execMacsecControl mac value s
  | .aonClockSet => Sys2Proof.Machine.execAonClockSet s
  | .relneLinkUp port identity protocols farPort priority => Sys2Proof.Machine.execRelneLinkUp port identity protocols farPort priority s
  | .relneLinkDown port => Sys2Proof.Machine.execRelneLinkDown port s
  | .groupForm peers protocol consistent => Sys2Proof.Machine.execGroupForm peers protocol consistent s
  | .linkTimeMeasure offset rootState => Sys2Proof.Machine.execLinkTimeMeasure offset rootState s
  | .linkTileRx port part tag stream tile data late => Sys2Proof.Machine.execLinkTileRx port part tag stream tile data late s
  | .capControlInterval fixedMw => Sys2Proof.Machine.execCapControlInterval fixedMw s
  | .capBindingEnd => Sys2Proof.Machine.execCapBindingEnd s
  | .diePointSelect fixedMw => Sys2Proof.Machine.execDiePointSelect fixedMw s
  | .vdone die => Sys2Proof.Machine.execVdone die s
  | .avsSettleTimeout die => Sys2Proof.Machine.execAvsSettleTimeout die s
  | .avsRetry rail answered => Sys2Proof.Machine.execAvsRetry rail answered s
  | .avsBusFailure bus => Sys2Proof.Machine.execAvsBusFailure bus s
  | .droopTrip core => Sys2Proof.Machine.execDroopTrip core s
  | .droopMaskEnd die => Sys2Proof.Machine.execDroopMaskEnd die s
  | .thermalSample temps => Sys2Proof.Machine.execThermalSample temps s
  | .prochotAssert => Sys2Proof.Machine.execProchotAssert s
  | .prochotRelease => Sys2Proof.Machine.execProchotRelease s
  | .thermtrip => Sys2Proof.Machine.execThermtrip s
  | .flowLoss => Sys2Proof.Machine.execFlowLoss s
  | .flowGlitch => Sys2Proof.Machine.execFlowGlitch s
  | .flowRestart => Sys2Proof.Machine.execFlowRestart s
  | .flowRestartDone => Sys2Proof.Machine.execFlowRestartDone s
  | .energyInterval rails cores granules => Sys2Proof.Machine.execEnergyInterval rails cores granules s
  | .lockstepMismatch pair => Sys2Proof.Machine.execLockstepMismatch pair s
  | .tellerWatchdog => Sys2Proof.Machine.execTellerWatchdog s
  | .hbmScrub stack channel bank row address found => Sys2Proof.Machine.execHbmScrub stack channel bank row address found s
  | .tellerScrub finds => Sys2Proof.Machine.execTellerScrub finds s
  | .selftestDue kind index => Sys2Proof.Machine.execSelftestDue kind index s
  | .selftestSlice core passed => Sys2Proof.Machine.execSelftestSlice core passed s
  | .engineTest kind index passed => Sys2Proof.Machine.execEngineTest kind index passed s
  | .errorLogFlashWrite ok => Sys2Proof.Machine.execErrorLogFlashWrite ok s
  | .presenceEvent released => Sys2Proof.Machine.execPresenceEvent released s
  | .presenceWindowClose => Sys2Proof.Machine.execPresenceWindowClose s
  | .presenceStuck => Sys2Proof.Machine.execPresenceStuck s
  | .sealPulse matched => Sys2Proof.Machine.execSealPulse matched s
  | .sakInstall value => Sys2Proof.Machine.execSakInstall value s
  | .sakErase value => Sys2Proof.Machine.execSakErase value s
  | .ownerCommit value => Sys2Proof.Machine.execOwnerCommit value s
  | .secConfigLock value => Sys2Proof.Machine.execSecConfigLock value s
  | .getVersion via eid => Sys2Proof.Machine.execGetVersion via eid s
  | .getCapabilities via eid version => Sys2Proof.Machine.execGetCapabilities via eid version s
  | .negotiateAlgorithms via eid asym hash => Sys2Proof.Machine.execNegotiateAlgorithms via eid asym hash s
  | .getDigests via eid => Sys2Proof.Machine.execGetDigests via eid s
  | .getCertificate via eid slot offset length => Sys2Proof.Machine.execGetCertificate via eid slot offset length s
  | .challenge via eid slot nonce => Sys2Proof.Machine.execChallenge via eid slot nonce s
  | .getMeasurements via eid slot operation sign nonce => Sys2Proof.Machine.execGetMeasurements via eid slot operation sign nonce s
  | .mctpMessage via eid type body => Sys2Proof.Machine.execMctpMessage via eid type body s
  | .setEndpointId via eid id => Sys2Proof.Machine.execSetEndpointId via eid id s
  | .getPdr via eid record => Sys2Proof.Machine.execGetPdr via eid record s
  | .getSensorReading via eid sensor => Sys2Proof.Machine.execGetSensorReading via eid sensor s
  | .getStateSensorReadings via eid sensor => Sys2Proof.Machine.execGetStateSensorReadings via eid sensor s
  | .setStateEffecterStates via eid effecter state => Sys2Proof.Machine.execSetStateEffecterStates via eid effecter state s
  | .setEventReceiver via eid enable => Sys2Proof.Machine.execSetEventReceiver via eid enable s
  | .requestUpdate via eid => Sys2Proof.Machine.execRequestUpdate via eid s
  | .verifyComplete via eid => Sys2Proof.Machine.execVerifyComplete via eid s
  | .activateFirmware via eid => Sys2Proof.Machine.execActivateFirmware via eid s
  | .getFirmwareParameters via eid => Sys2Proof.Machine.execGetFirmwareParameters via eid s
  | .smbusTimeout port => Sys2Proof.Machine.execSmbusTimeout port s
  | .smbusRetry port high => Sys2Proof.Machine.execSmbusRetry port high s
  | .opticsProbe slot found => Sys2Proof.Machine.execOpticsProbe slot found s
  | .opticsMonitorRead slot found => Sys2Proof.Machine.execOpticsMonitorRead slot found s
  | .opticsBusRecovery bus high => Sys2Proof.Machine.execOpticsBusRecovery bus high s
  | .retry value => Sys2Proof.Machine.execRetry value s
  | .wearLedgerWrite => Sys2Proof.Machine.execWearLedgerWrite s
  | .indicatorShortHoldoff indicator => Sys2Proof.Machine.execIndicatorShortHoldoff indicator s
  | .coldReset strap aon => Sys2Proof.Machine.execColdReset strap aon s
  | .pwrgoodFall => Sys2Proof.Machine.execPwrgoodFall s
  | .bootReady r => Sys2Proof.Machine.execBootReady r s
  | .recoveryExit => Sys2Proof.Machine.execRecoveryExit s
  | .pcieLinkUp => Sys2Proof.Machine.execPcieLinkUp s
  | .vfEnable numVFs => Sys2Proof.Machine.execVfEnable numVFs s
  | .d3hotTransition d3 => Sys2Proof.Machine.execD3hotTransition d3 s
  | .deviceReadFailure r => Sys2Proof.Machine.execDeviceReadFailure r s
  | .sourceWrite value => Sys2Proof.Machine.execSourceWrite value s
  | .clk10mRestored rate => Sys2Proof.Machine.execClk10mRestored rate s
  | .ptpSignaling rx peer signal => Sys2Proof.Machine.execPtpSignaling rx peer signal s
  | .vbatLow low => Sys2Proof.Machine.execVbatLow low s
  | .vaonLoss => Sys2Proof.Machine.execVaonLoss s
  | .jtagInstruction op => Sys2Proof.Machine.execJtagInstruction op s
  | .firmwareTransfer offset data => Sys2Proof.Machine.execFirmwareTransfer offset data s
  | .loadCheck indicator sample => Sys2Proof.Machine.execLoadCheck indicator sample s
  | .selftestDeferred kind index => Sys2Proof.Machine.execSelftestDeferred kind index s
  | .memoryBistComplete rows => Sys2Proof.Machine.execMemoryBistComplete rows s
  | .placementComplete ticket => Sys2Proof.Machine.execPlacementComplete ticket s
  | .fwStageComplete => Sys2Proof.Machine.execFwStageComplete s
  | .mctpMessageSent via => Sys2Proof.Machine.execMctpMessageSent via s

end Sys2Proof.Machine
end

