-- ==== Sys2Proof/Safety.lean ====
section
/-! DEFINITION. What the statements observe: lanes and registers of a core's units, what a unit's instruction leaves alone, a
command that the tellers take, and the invariants that every step keeps. -/

namespace Sys2Proof.Machine

/-! ### The engines of a core -/

/-- Nothing outside the engines has changed but the job table, in which an invocation's event counts stand; and no engine of another
core has changed. -/
def OnlyEngines (s t : State) (c : Nat) : Prop :=
  t = { s with engines := t.engines, work := { s.work with jobs := t.work.jobs } } ∧ ∀ d, d ≠ c → getEng t d = getEng s d

/-- Lane i, of k bits, of vector register r of a core. -/
def vLane (s : State) (c r k i : Nat) : Nat := elemAt (getV (getEng s c).vec r).toNat k i

/-- Lane i of the second source of the instruction w: VB, or the immediate. -/
def vLaneB (s : State) (c w k i : Nat) : Nat := elemAt (srcB (getEng s c).vec w).toNat k i

/-- Whether the predicate of the instruction w is 1 for lane i. -/
def vWritten (s : State) (c w k i : Nat) : Bool := lanePred (getM (getEng s c).vec (vMask w)) k i

/-- What an instruction that writes only vector register d leaves alone, and that the engine goes on to the next instruction. -/
def VecFrame (s t : State) (c d : Nat) : Prop :=
  OnlyEngines s t c ∧ (getEng t c).mat = (getEng s c).mat ∧ (getEng t c).sig = (getEng s c).sig ∧
    (∀ r, r ≠ d → getV (getEng t c).vec r = getV (getEng s c).vec r) ∧
    (getEng t c).vec = { vNext (getEng s c).vec with v := (getEng t c).vec.v }

/-- The instruction w writes f i to every lane i of VD whose predicate is 1; a lane whose predicate is 0 keeps its value, or is 0 with
MZ (05 R121). -/
def LanesDone (s t : State) (c w k : Nat) (f : Nat → Nat) : Prop :=
  (∀ i, i < 2048 / k → vLane t c (vVD w) k i =
    if vWritten s c w k i then f i % 2 ^ k else if vMz w then 0 else vLane s c (vVD w) k i) ∧ VecFrame s t c (vVD w)

/-- The engine goes on to the next instruction and nothing else changes but mask register d. -/
def MaskFrame (s t : State) (c d : Nat) : Prop :=
  OnlyEngines s t c ∧ (getEng t c).mat = (getEng s c).mat ∧ (getEng t c).sig = (getEng s c).sig ∧
    (∀ r, r ≠ d → getM (getEng t c).vec r = getM (getEng s c).vec r) ∧
    (getEng t c).vec = { vNext (getEng s c).vec with m := (getEng t c).vec.m }

/-- Lane-wise arithmetic instructions: opcode, and a lane of the result from the lanes of VA, VB and VC (05 R126, R127). -/
def vecArithRows (c w : Nat) : List (Instr × Nat × (Nat → Nat → Nat → Nat)) :=
  let fmt := vFmt w
  let sat := bit (vMode w) 0
  [(.vadd c, 0x01, fun a b _ => (laneOp2 fmt sat Val.add (fun x y => x + y) a b).1),
   (.vsub c, 0x02, fun a b _ =>
      if bit (vMode w) 1 then (laneOp2 fmt sat (fun p q => Val.add p q.neg) (fun x y => x - y) b a).1
      else (laneOp2 fmt sat (fun p q => Val.add p q.neg) (fun x y => x - y) a b).1),
   (.vmul c, 0x03, fun a b _ =>
      (laneOp2 fmt sat Val.mul (fun x y => if fmt = 0x0E then rneShift (x * y) 23
        else if fmt = 0x0B ∧ bit (vMode w) 2 then rneShift (x * y) 15 else x * y) a b).1),
   (.vfma c, 0x04, fun a b d => match vFloat fmt with
      | some f => f.encode (Val.add (Val.mul (f.decode a) (f.decode b)) (f.decode d))
      | none => (intLane fmt sat (if fmt = 0x0E then rneShift (laneInt fmt a * laneInt fmt b) 23 + laneInt fmt d
          else laneInt fmt a * laneInt fmt b + laneInt fmt d)).1),
   (.vmax c, 0x05, fun a b _ => (laneOp2 fmt false valMax max a b).1),
   (.vmin c, 0x06, fun a b _ => (laneOp2 fmt false valMin min a b).1),
   (.vabs c, 0x07, fun a _ _ => (laneOp2 fmt sat (fun x _ => x.abs) (fun x _ => x.natAbs) a a).1),
   (.vneg c, 0x08, fun a _ _ => (laneOp2 fmt sat (fun x _ => x.neg) (fun x _ => -x) a a).1),
   (.vclamp c, 0x0B, fun a b d => (laneOp2 fmt false valMin min (laneOp2 fmt false valMax max a b).1 d).1)]

/-- Moves, bitwise instructions and shifts (05 R126): the count of a shift is the VB lane or the immediate, modulo the lane width. -/
def vecBitRows (c w : Nat) : List (Instr × Nat × (Nat → Nat → Nat → Nat)) :=
  let k := laneBits (vFmt w)
  let count := fun (b : Nat) => (if vImmB w then vImm w else b) % k
  [(.vmov c, 0x09, fun a b _ => if vImmB w then b else a),
   (.vand c, 0x0D, fun a b _ => a &&& b),
   (.vor c, 0x0E, fun a b _ => a ||| b),
   (.vxor c, 0x0F, fun a b _ => a ^^^ b),
   (.vshl c, 0x10, fun a b _ => a * 2 ^ count b),
   (.vshr c, 0x11, fun a b _ => unsigned k (signed k a / 2 ^ count b)),
   (.vshru c, 0x12, fun a b _ => a / 2 ^ count b)]

/-- The functions computed in F32 and rounded to FMT, by opcode (05 R129). -/
def vecFunctionRows (c : Nat) : List (Instr × Nat) :=
  [(.vexp2 c, 0x30), (.vlog2 c, 0x31), (.vrcp c, 0x32), (.vrsqrt c, 0x33), (.vsqrt c, 0x34), (.vsint c, 0x35), (.vcost c, 0x36),
   (.vtanh c, 0x37)]

/-- Complex instructions: opcode, and the exact result from the elements of VA, VB and VC (05 R126, R127). -/
def vecComplexRows (c : Nat) : List (Instr × Nat × (CVal → CVal → CVal → CVal)) :=
  [(.cmul c, 0x40, fun a b _ => cMul a b), (.cmulc c, 0x41, fun a b _ => cMul a (cConj b)),
   (.cmac c, 0x42, fun a b d => cAdd d (cMul a b)), (.cmacc c, 0x43, fun a b d => cAdd d (cMul a (cConj b))),
   (.cmag2 c, 0x44, fun a _ _ => (Val.add (Val.mul a.1 a.1) (Val.mul a.2 a.2), .fin false 0 0)),
   (.crot c, 0x45, fun a b _ => cMul a
      (fF32.decode (transF32 0x36 (fF32.encode b.1)), fF32.decode (transF32 0x35 (fF32.encode b.1))))]

/-! ### Sequencers -/

/-- The instance of a job on a core. -/
def instAt (s : State) (h c : Nat) : Option Inst := (getJob s h).bind fun j => j.instOn c

/-! ### The signal unit -/

/-- Whether an enabled move loads accumulator r. -/
def Move.loadsA (mv : Move) (r : Nat) : Bool := mv.en && (match mv.load with
  | some (k, _) => k = r + 4
  | none => false)

/-- The word at which the signal unit of a core stands is an ALU form of operation op. -/
def AluAt (s : State) (c w op : Nat) : Prop := sigWord s c = some w ∧ bit w 47 = false ∧ sAluOp w = op

/-- The word at which the signal unit of a core stands is a control form of operation op. -/
def CtlAt (s : State) (c w op : Nat) : Prop := sigWord s c = some w ∧ bit w 47 = true ∧ bits w 46 40 = op

/-- What an instruction of the signal unit leaves alone outside the unit. -/
def SigFrame_ (s t : State) (c : Nat) : Prop :=
  OnlyEngines s t c ∧ (getEng t c).mat = (getEng s c).mat ∧ (getEng t c).vec = (getEng s c).vec

/-- The signal unit goes on to the next instruction: program counter, branch, loop stack and repeat count (06 R153, R154). -/
def SigMoves (s t : State) (c : Nat) : Prop :=
  let n := sNext (getEng s c).sig
  let u := (getEng t c).sig
  u.pc = n.pc ∧ u.branch = n.branch ∧ u.stack = n.stack ∧ u.repeat_ = n.repeat_ ∧ u.repeating = n.repeating ∧ u.running = n.running ∧
    u.latch = n.latch ∧ u.prog = n.prog

/-- The flags of a condition word after a result: S, Z, O, G (06 R151). -/
def flagBits (x : BitVec 16) : Bool × Bool × Bool × Bool := (cswS x, cswZ x, cswO x, cswG x)

/-- ALU instructions that replace A by an exact value of A, of the first source and of the fields: opcode and value (06 R148, R159). -/
def sigAccRows (c w : Nat) (u : SigUnit) : List (Instr × Nat × Int) :=
  let a := (getA u (sDst w)).toInt
  let x := srcAcc u (sSrc1 w)
  [(.lda c, 0x01, x), (.add c, 0x02, a + x), (.sub c, 0x03, a - x), (.max c, 0x06, max a x), (.min c, 0x07, min a x),
   (.abs c, 0x08, a.natAbs), (.neg c, 0x09, -a), (.zero c, 0x0A, 0), (.rnda c, 0x0B, roundMode (cswRmode u.csw) 24 a),
   (.shl c, 0x0C, a * 2 ^ (sSrc2 w + 1)), (.shr c, 0x0D, a / 2 ^ (sSrc2 w + 1))]

/-- Multiplications: opcode and exact value, the product of two data words in accumulator units being 2 × D × D (06 R148, R150). -/
def sigMulRows (c w : Nat) (u : SigUnit) : List (Instr × Nat × Int) :=
  let a := (getA u (sDst w)).toInt
  let p := 2 * (getD u (sSrc1 w)).toInt * (getD u (sSrc2 w)).toInt
  let r := fun (x : Int) => roundMode (cswRmode u.csw) 24 x
  [(.mul c, 0x10, p), (.mulr c, 0x11, r p), (.madd c, 0x12, a + p), (.maddr c, 0x13, r (a + p)), (.msub c, 0x14, a - p),
   (.msubr c, 0x15, r (a - p)), (.mneg c, 0x16, -p)]

/-- Compares: opcode and exact difference (06 R159). -/
def sigCmpRows (c w : Nat) (u : SigUnit) : List (Instr × Nat × Int) :=
  let a := (getA u (sDst w)).toInt
  let x := srcAcc u (sSrc1 w)
  [(.cmp c, 0x04, a - x), (.cmpa c, 0x05, (a.natAbs : Int) - x.natAbs)]

/-- Bitwise operations on the word field of A: opcode and field (06 R159). -/
def sigWordRows (c w : Nat) (u : SigUnit) : List (Instr × Nat × Nat) :=
  let a := bits (getA u (sDst w)).toNat 47 24
  let d := (getD u (sSrc1 w)).toNat
  [(.and c, 0x18, a &&& d), (.or c, 0x19, a ||| d), (.xor c, 0x1A, a ^^^ d)]

/-- Operations with a data register as destination: opcode and word (06 R159). -/
def sigDataRows (c w : Nat) (u : SigUnit) : List (Instr × Nat × BitVec 24) :=
  [(.norm c, 0x20, BitVec.ofInt 24 ((normCount (getA u (sSrc1 w - 4)) 56 : Int) - 9)),
   (.satw c, 0x21, (limiter (getA u (sSrc1 w - 4))).1),
   (.pget c, 0x22, BitVec.ofNat 24 (getPtr u (sSrc1 w)))]

/-- Every ALU form with its opcode. -/
def sigAluRows (c : Nat) : List (Instr × Nat) :=
  [(.sigNop c, 0x00), (.lda c, 0x01), (.add c, 0x02), (.sub c, 0x03), (.cmp c, 0x04), (.cmpa c, 0x05), (.max c, 0x06), (.min c, 0x07),
   (.abs c, 0x08), (.neg c, 0x09), (.zero c, 0x0A), (.rnda c, 0x0B), (.shl c, 0x0C), (.shr c, 0x0D), (.mul c, 0x10), (.mulr c, 0x11),
   (.madd c, 0x12), (.maddr c, 0x13), (.msub c, 0x14), (.msubr c, 0x15), (.mneg c, 0x16), (.and c, 0x18), (.or c, 0x19), (.xor c, 0x1A),
   (.norm c, 0x20), (.satw c, 0x21), (.pget c, 0x22)]

/-! ### Commands of the host, of management and of service clients -/

/-- The state in which a command has been taken: it holds a ticket and a slot of its reply till. -/
def takenState (s : State) (op : Nat) (m : Msg) : State := openTicket s op m (replyTill s m).1

/-- A command as the tellers carry it out. -/
def takenCmd (s : State) (op : Nat) (m : Msg) : Ctx :=
  { op := op, tid := s.host.nextTicket, m := m, ver := (sessionOf (takenState s op m) m.src).getD 0 }

/-- Whether a source is a service client. -/
def fromClient : Source → Bool
  | .client _ => true
  | _ => false

/-- A message whose command the tellers take and carry out now, of opcode op, in force since a version, of length len: `t` is the
state in which it is carried out and `c` the command. The tellers may take it, its length is its opcode's, its reply till is a
completion till, its source holds a session of the version (or needs none), it waits for no halted island, its flags are in force,
and neither the life-cycle state nor recovery mode forbids it (16 R417-R424, R427, R431; 22 R569). -/
structure Carried (s : State) (op since len : Nat) (m : Msg) (t : State) (c : Ctx) : Prop where
  state : t = takenState s op m
  cmd : c = takenCmd s op m
  takes : mayTake s m = true
  length : 16 + m.body.length = len
  reply : (replyTill s m).2 = true
  session : fromClient m.src = true ∨ op = 0 ∨ ((sessionOf t m.src).isSome = true ∧ since ≤ c.ver)
  islands : s.power.flowStopped = true → needsIslands op = false
  flags : c.flagsOk = true
  life : lifeOk t op = true
  recovery : recoveryOk t op = true

/-- The state in which a command has been answered with a completion, and any BYE that waited for it as well. -/
def answered (t : State) (c : Ctx) (d : Done) : State := settleByes (complete t c.tid d)

/-- The state in which a command has been carried out and waits for its completion. -/
def waits (t : State) : State := settleByes t

/-- The partition that a command names, which its source may act on. -/
def NamesPart (t : State) (c : Ctx) (q : Part) : Prop :=
  c.f 0x10 1 ≤ 7 ∧ c.zero 0x11 0x14 = true ∧ getPart t (c.f 0x10 1) = some q ∧ hostOf t c.m.src (c.f 0x10 1) = true

/-! ### What every step keeps -/

/-- Every byte memory is in its canonical form: HBM, the tills' memory, the host memory that device DMA reaches, every scratchpad. -/
def Inv (s : State) : Prop :=
  Memory.wf s.work.hbm = true ∧ Memory.wf s.host.tillMem = true ∧ Memory.wf s.host.hostMem = true ∧
    ∀ e ∈ s.work.cores, Memory.wf e.2.scratch = true

/-- What no event undoes: the part and the factory map stand in fuses, and the floor of security versions never falls (20 R512-R521). -/
def FusesKept (s t : State) : Prop :=
  t.sec.fuses.part = s.sec.fuses.part ∧ t.sec.fuses.stepping = s.sec.fuses.stepping ∧ t.sec.fuses.factory = s.sec.fuses.factory ∧
    s.sec.fuses.svnFloor ≤ t.sec.fuses.svnFloor

end Sys2Proof.Machine
end

