-- ==== Sys2Proof/Certificates/Slice0/Obligations.lean ====
section
/-! DEFINITION. The statements about the model, for the provers. -/

section
open Sys2Proof Sys2Proof.Machine

/-- For every command c and every state s whose queue is c followed by some rest: a step of s is exec of c on s with the rest as
its queue. What stands in the queue is the model's own way of taking commands. (00_scope.md) -/
def Obligations.StepRunsTheFrontCommand : Prop :=
  ∀ (c : Instr) (rest : List Instr) (s : State), s.pending = c :: rest → step s = exec c { s with pending := rest }

/-- On an empty queue, while the clocks run, a step answers a next state in which device time is one nanosecond later when the
rate word is 0, the fraction is 0 and no second ends, and in which the queue, the work area, the engines and the HBM are as
before. That a step with nothing to do is one cycle of the timing island is the model's choice (log 1). (17_network_timing_and_link.md, R454) -/
def Obligations.IdleStepAdvancesTime : Prop :=
  ∀ s : State, s.pending = [] → s.sys.clocks = true → s.net.timing.rate = 0 → s.net.timing.frac = 0 → s.rel.tests = [] →
    timeSubNs s + 1 < 1000000000 → s.net.timing.time.toNat % 65536 = 0 →
    ∃ t, step s = .next t ∧ nowNs t = nowNs s + 1 ∧ t.pending = [] ∧ t.work = s.work ∧ t.engines = s.engines ∧ t.host = s.host

/-- Where one of these steps issues on a core and carries no post, the row completes with the state in which the sequencer has
gone on to the next step: the instance stands one step further, in the same epoch and plan, with the same steps in progress,
and no unit, no memory and no tally has changed. A FENCE issues only when no step of the core is in progress. (02_stations_tiles_and_jobs.md, R57, R58, R68) -/
def Obligations.StepsThatTakeNoTime : Prop :=
  ∀ (s : State) (c op : Nat) (i : Instr) (u : Cur) (w : BitVec 128),
    (i, op) ∈ [(Instr.nop c, 0), (.post c, 8), (.fence c, 11)] ∨ (i = .checkpoint c ∧ op = 9 ∧ u.job.bestEffort = false) →
    issuing s c op = some (u, w) → stPostEn w = false →
    (op = 11 → u.inst.issued = []) ∧
    ∃ t, exec i s = .next t ∧ instAt t u.h c = some { u.inst with step := u.inst.step + 1, waitSince := nowNs s } ∧ t.engines = s.engines ∧
      t.work.hbm = s.work.hbm ∧ t.work.tallies = s.work.tallies ∧ t.work.cores = s.work.cores ∧ t.host = s.host

/-- Where a POST step issues on a core and posts to a tally that no stream's produced count is bound to, and the sum stays below
2^64, the row completes: that tally's value is larger by POST_ADD, its count of posts is larger by one up to the largest
value, its last addition is POST_ADD by this core at the present device time, and every other tally is as before. A wait of
the posting core sees the addition at once when the tally has no barrier. (14_synchronisation_and_determinism.md, R355, R357, R368) -/
def Obligations.PostAddsToItsTally : Prop :=
  ∀ (s : State) (c : Nat) (u : Cur) (w : BitVec 128) (b : Binding), issuing s c 8 = some (u, w) → stPostEn w = true →
    u.inst.bind (stPostBind w) = some b → b.kind ≠ 0 →
    (getTally s (tallyOf s u.job.part b.tally)).value.toNat + stPostAdd w < 2 ^ 64 →
    ∃ t, exec (.post c) s = .next t ∧
      (let k := tallyOf s u.job.part b.tally
       (getTally t k).value.toNat = (getTally s k).value.toNat + stPostAdd w ∧
       (getTally t k).posts = satInc (getTally s k).posts 1 ∧ (getTally t k).lastAdd.toNat = stPostAdd w ∧
       (getTally t k).lastSource = BitVec.ofNat 16 (0x1000 + c % 4096) ∧ (getTally t k).lastS = BitVec.ofNat 32 (timeS s) ∧
       (∀ n, n ≠ k → getTally t n = getTally s n))

/-- Where a step of one of these classes issues on a core, the row completes: the instance stands one step further and the step
is the last of those in progress. A VEC step that finds the engine free starts it at the first instruction of its range, a
SIG step starts the signal unit at its address, with no error met on the way; a RELOAD whose check agrees loads the
stationary block into the array's shadow registers; a PASS whose check agrees writes the accumulator rows of the pass and
leaves the shadow weights in use; a FEED or STORE none of whose entries faults has its transactions in flight, and completes
when they have landed. (02_stations_tiles_and_jobs.md, R56, R57, R58, 03_matrix_arrays.md, 12_memory_translation_and_streams.md, R322) -/
def Obligations.UnitStepsAreIssued : Prop :=
  ∀ (s : State) (c : Nat) (u : Cur) (w : BitVec 128),
    (let entered := fun (t : State) (x : Unit_) (n : Nat) => instAt t u.h c =
        some { u.inst with
          step := u.inst.step + 1, waitSince := nowNs s
          issued := u.inst.issued ++ [{ unit := x, word := w, index := u.inst.step, open_ := n }] }
     (issuing s c 3 = some (u, w) → (u.inst.issued.any fun y => y.unit = .vector) = false →
        ∃ t, exec (.vec c []) s = .next t ∧ entered t .vector 0 ∧ (getEng t c).vec.pc = bits (stArg w) 15 0 ∧
          (getEng t c).vec.stop = bits (stArg w) 15 0 + bits (stArg w) 31 16 ∧ (getEng t c).vec.active = decide (0 < bits (stArg w) 31 16) ∧
          (getEng t c).vec.v = (getEng s c).vec.v ∧ (getEng t c).sig = (getEng s c).sig ∧ (getEng t c).mat = (getEng s c).mat) ∧
     (issuing s c 4 = some (u, w) → (u.inst.issued.any fun y => y.unit = .signal) = false →
        ∃ t, exec (.sig c []) s = .next t ∧ entered t .signal 0 ∧ (getEng t c).sig.running = true ∧
          (getEng t c).sig.pc = bits (stArg w) 13 0 ∧ (getEng t c).sig.a = (getEng s c).sig.a ∧ (getEng t c).vec = (getEng s c).vec) ∧
     (issuing s c 2 = some (u, w) → ∃ t, exec (.reload c .ok []) s = .next t ∧ entered t (.array (stSub w)) 0 ∧
        (getEng t c).mat.acc = (getEng s c).mat.acc ∧
        ∀ a, (getEng s c).mat.arrays[stSub w]? = some a → (getEng t c).mat.arrays[stSub w]? = some (a.load
          (readBlock (getCore s c).scratch u.inst (opEntry (Tbl.get 0 (getEng s c).mat.opfile (rlEntry (stArg w)))) (rlBase (stArg w)))
          (rlEntry (stArg w)))) ∧
     (issuing s c 1 = some (u, w) → ∃ t, exec (.pass c .ok []) s = .next t ∧ entered t (.array (stSub w)) 0 ∧
        (let a := (nth MatArray.cleared (getEng s c).mat.arrays (stSub w)).swapped
         (getEng t c).mat.acc = (passRun (getCore s c).scratch u.inst (stSub w)
            (opEntry (Tbl.get 0 (getEng s c).mat.opfile a.entry)) a.active (stArg w) (getEng s c).mat.acc).1 ∧
          (getEng t c).mat.arrays = setNth (getEng s c).mat.arrays (stSub w) a ∧ (getEng t c).mat.opfile = (getEng s c).mat.opfile)) ∧
     (∀ (q : Part) (ts : List Txn) (i : Instr) (op : Nat), (i, op) ∈ [(Instr.feed c [], 5), (.store c [], 6)] → issuing s c op = some (u, w) →
        Tbl.find s.work.parts u.job.part = some q →
        ((u.inst.entries u.inst.plan u.inst.step).map fun e => makeTxn s c u q u.inst.step e) = ts.map Sum.inl →
        ∃ t, exec i s = .next t ∧ entered t .mover ts.length ∧ (getCore t c).txns = (getCore s c).txns ++ ts ∧
          (getCore t c).scratch = (getCore s c).scratch ∧ t.work.hbm = s.work.hbm ∧ t.engines = s.engines))

/-- Where a MINT step issues on a core and meets no error, the row completes with the step in progress. Where another step holds the
vector unit it waits behind that one and nothing is written. Where the unit is free its n tiles are minted: the instance has
produced n more tiles of the stream and taken n more of each stream that it reads, the station's entry has counted every
element of them, bytes outside the rows of those n tiles keep their value, and a tile of one row is the packed codes of its
converted source row. Where a DIGEST step issues and meets no error, the row completes with the step in progress; in an epoch
whose record is emitted the invocation holds a partial result of that point and epoch with the bytes of the named tiles, in
another it holds what it held. That one SCALE_STREAM tile serves one output tile is the model's choice (log 108). (02_stations_tiles_and_jobs.md, 04_number_formats_and_quantisation.md, R69, R110, R111, R112) -/
def Obligations.MintAndDigestSteps : Prop :=
  ∀ (s : State) (c : Nat) (u : Cur) (w : BitVec 128),
    (let entered := fun (x : Unit_) =>
       { u.inst with
         step := u.inst.step + 1, waitSince := nowNs s
         issued := u.inst.issued ++ [{ unit := x, word := w, index := u.inst.step, open_ := 0 }] }
     let keeps := fun (t : State) => t.engines = s.engines ∧ t.work.hbm = s.work.hbm ∧ t.work.tallies = s.work.tallies ∧ t.host = s.host
     (issuing s c 7 = some (u, w) →
       (let j := mintJob u w
        let st := stStream w
        let n := bits (stArg w) 31 16
        let ofEntry := fun (m : MintCount) => decide (m.station = mintStation u w ∧ m.entry = j.entry)
        ((u.inst.issued.any fun y => y.unit = .vector) = true → ∃ t, exec (.mint c []) s = .next t ∧
          instAt t u.h c = some (entered .vector) ∧ t.work.cores = s.work.cores ∧ keeps t) ∧
        ((u.inst.issued.any fun y => y.unit = .vector) = false → ∃ t i, exec (.mint c []) s = .next t ∧
          instAt t u.h c = some i ∧ i = { entered .vector with minted := i.minted } ∧ keeps t ∧ i.taken st = u.inst.taken st + n ∧
          (j.f 0 1 = 0 → ¬ (j.out.scaleMode = 2 ∧ j.f 0x1C 2 = j.f 2 2) → j.f 2 2 ≠ 0xFFFF →
            i.taken (takeKey (j.f 2 2)) = u.inst.taken (takeKey (j.f 2 2)) + n) ∧
          (j.out.scaleMode = 2 → j.f 0x1C 2 ≠ 0xFFFF → ¬ (j.f 0 1 = 0 ∧ j.f 2 2 = j.f 0x1C 2) →
            i.taken (takeKey (j.f 0x1C 2)) = u.inst.taken (takeKey (j.f 0x1C 2)) + n) ∧
          ((u.inst.ringOf st true).isSome = true → ∃ r m, (getJob t u.h).bind Job.run = some r ∧ r.mints.find? ofEntry = some m ∧
            m.total = (u.run.mints.find? ofEntry).elim 0 (fun m => m.total) + n * j.out.planes * j.out.rows * j.out.elems) ∧
          (∀ d, d ≠ c → getCore t d = getCore s d) ∧
          (∀ a, (∀ k p r g, k < n → p < j.out.planes → r < j.out.rows → u.inst.tileSlot st (u.inst.taken st + k) true = some g →
              a < tileRow u.inst j.out g p r ∨ tileRow u.inst j.out g p r
                + (ceilDiv (elemBits j.out.format * j.out.elems) 8 + if isMx j.out.format then j.out.elems / 32 else 0) ≤ a) →
            Mem.read (getCore t c).scratch a = Mem.read (getCore s c).scratch a) ∧
          (∀ g, n = 1 → j.out.planes = 1 → j.out.rows = 1 → u.inst.tileSlot st (u.inst.taken st) true = some g →
            (getCore t c).scratch = Mem.writeBytes (getCore s c).scratch (tileRow u.inst j.out g 0 0)
              (j.rowBytes (j.convertRow (j.param (getCore s c).scratch u.inst 0) (u.inst.taken st) 0
                (j.source (getCore s c).scratch (getEng s c).mat.acc u.inst 0 0 0))))))) ∧
     (issuing s c 10 = some (u, w) → ∃ t r, exec (.digest c []) s = .next t ∧ instAt t u.h c = some (entered .mover) ∧
        t.work.cores = s.work.cores ∧ keeps t ∧ (getJob t u.h).bind Job.run = some r ∧
        (digestEmits u.job (stArg w) u.inst.epoch = false → r.digests = u.run.digests) ∧
        (digestEmits u.job (stArg w) u.inst.epoch = true → ∃ d ∈ r.digests, d.point = stArg w ∧ d.epoch = u.inst.epoch ∧
          d.bytes = (List.range (digestField u.job.image (stArg w) 8 2)).flatMap fun k =>
            tileBytes (getCore s c).scratch u.inst u.job.image (digestField u.job.image (stArg w) 4 2)
              (digestField u.job.image (stArg w) 6 2 + k))))

/-- STEP_COMPLETE: where the oldest step of a unit is done on a core whose instance runs, with no post, no result, no other step
held by the unit and no lent window declared, the row completes and that step is no longer in progress. EPOCH_END: where it
issues with no post and no error met, and other cores have still to complete the epoch or no service is open, bases and
rings have advanced by the plan just run, the epoch number is one higher, and the instance waits for its next epoch or has
ended. EPOCH_BEGIN: where a core may begin its next epoch, in a job of no cell and with no service, it runs the selected
plan from step 0 and the vector pointers read 0. (02_stations_tiles_and_jobs.md, R58, R61, R594) -/
def Obligations.StepsCompleteAndEpochsTurn : Prop :=
  ∀ (s : State) (c : Nat) (u : Cur) (w : BitVec 128),
    (∀ (x : Issued) (y : Unit_), cur s c = some u → u.inst.phase = .running → (u.inst.issued.find? fun z => z.unit = y) = some x →
      unitDone s c x = true → ((dropFirst y u.inst.issued).any fun z => z.unit = y) = false → stPostEn x.word = false → u.inst.windows = [] →
      ∃ t, exec (.stepComplete c y none .none) s = .next t ∧ instAt t u.h c = some { u.inst with issued := dropFirst y u.inst.issued } ∧
        t.engines = s.engines ∧ t.work.hbm = s.work.hbm ∧ t.work.tallies = s.work.tallies) ∧
    (issuing s c 12 = some (u, w) → stPostEn w = false → u.run.last = none → u.job.kind = .host →
      (u.job.insts.all fun i => i.core = c || decide (u.inst.epoch < i.epoch)) = false ∨ (s.services = [] ∧ u.job.service = none) →
      ∃ t i, exec (.epochEnd c []) s = .next t ∧ instAt t u.h c = some i ∧ i.epoch = u.inst.epoch + 1 ∧ i.step = 0 ∧
        i.binds = u.inst.endEpoch.binds ∧ i.rings = u.inst.endEpoch.rings ∧
        i.phase = if (match lastEpoch u.job u.run with | some l => decide (l ≤ u.inst.epoch) | none => false) then .ended else .between) ∧
    (∀ p : Nat, cur s c = some u → mayBegin s c u = some p → u.job.kind = .host → u.job.service = none → s.services = [] →
      ∃ t i, exec (.epochBegin c) s = .next t ∧ instAt t u.h c = some i ∧ i.phase = .running ∧ i.plan = p ∧ i.step = 0 ∧
        i.epoch = u.inst.epoch ∧ ∀ r, getP (getEng t c).vec r = 0)

/-- EPOCH_LIMIT: where the last epoch of an invocation has completed on every core, the row ends the invocation with OK.
PLAN_RULE_SELECT: where READY of a job of no cell has reached the value at which the next selection is due, the row assigns,
to the epoch LEAD after it, the plan that the rule's ranges give the selector word. STALL_LIMIT: where the step that stands
next has waited for 1 s on a produced or consumed count or a group tally that is not met, the row ends the invocation with
E_TIMEOUT, the result words naming core, binding, tally and threshold. (02_stations_tiles_and_jobs.md, R62, R64, R65, 14_synchronisation_and_determinism.md, R367) -/
def Obligations.InvocationsEndAndStall : Prop :=
  ∀ (s : State) (job c : Nat),
    (∀ r : Invocation, (getJob s job).bind Job.run = some r → r.last = none → runComplete s job = true →
      exec (.epochLimit job) s = .next (settleServices (settleRounds (endInvocation s job eOk none)))) ∧
    (∀ (j : Job) (r : Invocation) (t : Nat), getJob s job = some j → j.run = some r → j.rules = true → r.ending = false → j.kind = .host →
      j.tallyOfRecord (j.ruleField 2 2) = some t → j.ruleDue r ≤ ((getTally s (tallyOf s j.part t)).value.toNat : Int) →
      exec (.planRuleSelect job) s = .next (updRun s job fun r =>
        { r with
          rulePlans := Tbl.put r.rulePlans (r.ruleNext + j.ruleField 4 1) (j.rangePlan (Tbl.get 0 j.selectors (j.ruleField 0 2)))
          ruleNext := r.ruleNext + 1
          ruleBase := j.ruleDue r })) ∧
    (∀ (u : Cur) (w : BitVec 128) (b : Binding), nextStep s c = some (u, w) → u.inst.bind (stWaitBind w) = some b →
      waitMet s c u w = false →
      b.kind ≠ 2 ∨ (u.job.groups.any fun g => decide (g.2.1 = b.tally)) = true → u.inst.waitSince + 1000000000 ≤ nowNs s →
      exec (.stallLimit c) s = .next (endBadly s u.h eTimeout
        (some (logicalCore s c + stWaitBind w * 256, b.tally, ((b.base + stDelta w) % 2 ^ 32).toNat))))

/-- For every loaded job: after an invocation of it is started with a ticket, the job runs an invocation that is not ending, has
the number one above those before, carries the ticket and has counted nothing, and every instance stands between epochs at
epoch 0, step 0 and the plan chosen for it; the plan chosen next is 0 again. After its invocation ends, with whatever status
and words, the job is still loaded, no invocation of it runs, no instance of it has a step in progress, and every instance
is idle. (02_stations_tiles_and_jobs.md, R61, R62) -/
def Obligations.JobsStandBetweenInvocations : Prop :=
  ∀ (s : State) (h : Nat) (j : Job), getJob s h = some j →
    (∀ (ticket : Option Nat) (fresh : Bool),
      ∃ j' r, getJob (startInvocation s h ticket fresh) h = some j' ∧ j'.run = some r ∧ r.ending = false ∧ r.number = j.invocations + 1 ∧
        j'.invocations = j.invocations + 1 ∧ r.ticket = ticket ∧ r.unbegun = j.insts.map (·.core) ∧ r.matSat = 0 ∧ r.vecSat = 0 ∧
        r.gatherRange = 0 ∧ r.sigLimit = 0 ∧ j'.plan0 = 0 ∧
        ∀ i ∈ j'.insts, i.phase = .between ∧ i.epoch = 0 ∧ i.step = 0 ∧ i.plan = j.plan0 ∧ i.issued = []) ∧
    (∀ (status : Nat) (words : Option (Nat × Nat × Nat)) (r : Invocation), j.run = some r →
      ∃ j', getJob (endInvocation s h status words) h = some j' ∧ j'.run = none ∧ ∀ i ∈ j'.insts, i.phase = .idle ∧ i.issued = [] ∧ i.saved = [])

/-- Where the vector engine of a core stands at VADD, VSUB, VMUL, VFMA, VMAX, VMIN, VABS, VNEG, VCLAMP, VMOV, VAND, VOR, VXOR,
VSHL, VSHR or VSHRU, the row completes: every lane of VD whose predicate is 1 is the operation on the lanes of VA, of VB or
the immediate, and of VC, a shift count being taken modulo the lane width; a lane whose predicate is 0 keeps its value, or
is 0 with MZ. VEXP2, VLOG2, VRCP, VRSQRT, VSQRT, VSINT, VCOST and VTANH write the function computed in F32 and rounded to
the format of the lanes; its values between the special values are constants without a body (log 20). No other vector
register, no mask, no pointer, no engine of another core, no memory and no other block changes, and the engine goes on to
the next instruction. (05_vector_engine.md, R120, R121, R126, R127, R129) -/
def Obligations.VectorLaneOperationsWriteLanes : Prop :=
  ∀ (s : State) (c w op : Nat), vecAt s c op = some w →
    (∀ (i : Instr) (f : Nat → Nat → Nat → Nat), (i, op, f) ∈ vecArithRows c w ++ vecBitRows c w →
      ∃ t, exec i s = .next t ∧ LanesDone s t c w (laneBits (vFmt w)) (fun n =>
        f (vLane s c (vVA w) (laneBits (vFmt w)) n) (vLaneB s c w (laneBits (vFmt w)) n) (vLane s c (vVC w) (laneBits (vFmt w)) n))) ∧
    (∀ (i : Instr), (i, op) ∈ vecFunctionRows c →
      ∃ t, exec i s = .next t ∧ LanesDone s t c w (laneBits (vFmt w)) (fun n =>
        ((vFloat (vFmt w)).getD fF32).encode (fF32.decode (transF32 op (fF32.encode
          (((vFloat (vFmt w)).getD fF32).decode (vLane s c (vVA w) (laneBits (vFmt w)) n)))))))

/-- Where the vector engine of a core stands at one of these instructions, the row completes: every complex element of VD whose
predicate is 1 is the exact complex result on the elements of VA, VB and VC, each part rounded once and saturated or wrapped
as SAT states; the other elements and everything else are as for the arithmetic rows. (05_vector_engine.md, R120, R126, R127) -/
def Obligations.VectorComplexWritesElements : Prop :=
  ∀ (s : State) (c w op : Nat) (i : Instr) (f : CVal → CVal → CVal → CVal), (i, op, f) ∈ vecComplexRows c → vecAt s c op = some w →
    ∃ t, exec i s = .next t ∧ LanesDone s t c w (cBits (vFmt w)) (fun n =>
      (cLane (vFmt w) (bit (vMode w) 0) (f (cVal (vFmt w) (vLane s c (vVA w) (cBits (vFmt w)) n))
        (cVal (vFmt w) (vLaneB s c w (cBits (vFmt w)) n)) (cVal (vFmt w) (vLane s c (vVC w) (cBits (vFmt w)) n)))).1)

/-- Where the vector engine of a core stands at a reduction, the row completes: in every group of 2^(G+1) lanes the lowest lane
receives the value of the pairwise tree over the group and the other lanes receive 0, where the predicate is 1. At a
permutation every lane of VD whose predicate is 1 is the lane of VA, or of VB or the immediate, that the opcode names; VBCAST of a lane that the
register does not have writes a free value (log 21). Everything else is as for the arithmetic rows. That VRARGMAX gives a
lane's number in the register is the model's reading (log 22). (05_vector_engine.md, R126, R128) -/
def Obligations.VectorReductionsAndPermutations : Prop :=
  ∀ (s : State) (c w : Nat),
    (∀ (i : Instr) (op : Nat) (f : Nat → Nat → Nat → Nat),
      (i, op, f) ∈ [(Instr.vrsum c, 0x20, redSum), (Instr.vrmax c, 0x21, redMax), (Instr.vrmin c, 0x22, redMin)] → vecAt s c op = some w →
      ∃ t, exec i s = .next t ∧ LanesDone s t c w (laneBits (vFmt w)) (fun n =>
        if n % 2 ^ (vMode w % 8 + 1) = 0 then
          nth 0 (treeFold (f (vFmt w)) (vMode w % 8 + 1) (lanesOf (laneBits (vFmt w)) (getV (getEng s c).vec (vVA w)))) (n / 2 ^ (vMode w % 8 + 1))
        else 0)) ∧
    (vecAt s c 0x23 = some w →
      ∃ t, exec (.vrargmax c) s = .next t ∧ LanesDone s t c w (laneBits (vFmt w)) (fun n =>
        if n % 2 ^ (vMode w % 8 + 1) = 0 then
          nth 0 (treeFold (fun i j =>
            let x := ((vFloat (vFmt w)).getD fF32).decode (vLane s c (vVA w) (laneBits (vFmt w)) i)
            let y := ((vFloat (vFmt w)).getD fF32).decode (vLane s c (vVA w) (laneBits (vFmt w)) j)
            if x.isNan then i else if y.isNan then j else if Val.lt x y then j else i)
            (vMode w % 8 + 1) (List.range (2048 / laneBits (vFmt w)))) (n / 2 ^ (vMode w % 8 + 1))
        else 0)) ∧
    (let k := laneBits (vFmt w)
     let n := 2048 / k
     let a := fun (i : Nat) => vLane s c (vVA w) k i
     let b := fun (i : Nat) => vLaneB s c w k i
     let done := fun (i : Instr) (f : Nat → Nat) => ∃ t, exec i s = .next t ∧ LanesDone s t c w k f
     (vecAt s c 0x58 = some w → done (.vbcast c) fun _ =>
        if vImm w < n then a (vImm w) else Config.bcastBeyond (getV (getEng s c).vec (vVA w)) (vImm w)) ∧
     (vecAt s c 0x59 = some w → done (.vrot c) fun i => a ((i + vImm w) % n)) ∧
     (vecAt s c 0x5A = some w → done (.vzip c) fun i =>
        let o := if bit (vMode w) 0 then n / 2 else 0
        if i % 2 = 0 then a (o + i / 2) else b (o + i / 2)) ∧
     (vecAt s c 0x5B = some w → done (.vunzip c) fun i =>
        let j := 2 * i + b2n (bit (vMode w) 0)
        if j < n then a j else b (j - n)) ∧
     (vecAt s c 0x5C = some w → done (.vperm c) fun i => a (b i % n)))

/-- Where the vector engine stands at a VSEL, every lane of VD is the lane of VA where the predicate is 1 and of VB or the
immediate where it is 0, whatever MZ. At a VCVT that widens the lanes, every written lane of VD is the converted lane of
half h of VA, and of one that keeps them the converted lane in its place; at a narrowing one the lanes of half h of VD are the converted lanes and every lane of the other half
keeps its value. Nothing else changes but the engine's place. (05_vector_engine.md, R126, R130) -/
def Obligations.VectorSelectAndConvert : Prop :=
  ∀ (s : State) (c w : Nat),
    (vecAt s c 0x0A = some w → ∃ t, exec (.vsel c) s = .next t ∧ VecFrame s t c (vVD w) ∧
      ∀ n, n < 2048 / laneBits (vFmt w) → vLane t c (vVD w) (laneBits (vFmt w)) n =
        if vWritten s c w (laneBits (vFmt w)) n then vLane s c (vVA w) (laneBits (vFmt w)) n else vLaneB s c w (laneBits (vFmt w)) n) ∧
    (vecAt s c 0x50 = some w →
      let complex := vFmt w = 0x0F ∨ vVC w = 0x0F
      let ks := if complex then cBits (vFmt w) else laneBits (vFmt w)
      let kd := if complex then cBits (vVC w) else laneBits (vVC w)
      let h := b2n (bit (vMode w) 0)
      let mode : Rnd := if bit (vMode w) 1 then .rtz else .rne
      let conv := fun (x : Nat) => if complex then (cLaneBy mode (vVC w) (bit (vMode w) 2) (cVal (vFmt w) x)).1
        else convLane (vFmt w) (vVC w) mode (bit (vMode w) 2) x
      ∃ t, exec (.vcvt c) s = .next t ∧
        (ks ≤ kd → LanesDone s t c w kd fun n => conv (vLane s c (vVA w) ks ((if ks = kd then 0 else h * (2048 / kd)) + n))) ∧
        (kd < ks → VecFrame s t c (vVD w) ∧ ∀ n, n < 2048 / kd → vLane t c (vVD w) kd n =
          if h * (2048 / ks) ≤ n ∧ n < h * (2048 / ks) + 2048 / ks then
            if vWritten s c w kd n then conv (vLane s c (vVA w) ks (n - h * (2048 / ks))) % 2 ^ kd
            else if vMz w then 0 else vLane s c (vVD w) kd n
          else vLane s c (vVD w) kd n))

/-- Where the vector engine stands at one of these instructions, the row completes. A destination other than M0 receives: for
VCMP, in every bit of each lane whose predicate is 1, whether the relation that MODE names holds between the lanes of VA and
of VB or the immediate, the other bits being kept, or 0 with MZ; for MAND, MOR and MNOT, the bitwise result on the masks. M0
as a destination is not written: it reads as all ones before and after. No other mask, no vector register, no pointer and
nothing outside the engine changes, and the engine goes on. (05_vector_engine.md, R119, R121, R126) -/
def Obligations.VectorMasksAreWritten : Prop :=
  ∀ (s : State) (c w : Nat),
    (vecAt s c 0x0C = some w → ∃ t, exec (.vcmp c) s = .next t ∧ MaskFrame s t c (vVD w % 8) ∧
      (vVD w % 8 ≠ 0 → ∀ b, b < 256 → (getM (getEng t c).vec (vVD w % 8)).getLsbD b =
        (let k := laneBits (vFmt w)
         let i := b / (k / 8)
         if vWritten s c w k i then vCompare (vFmt w) (vMode w) (vLane s c (vVA w) k i) (vLaneB s c w k i)
         else if vMz w then false else (getM (getEng s c).vec (vVD w % 8)).getLsbD b))) ∧
    (∀ (i : Instr) (op : Nat) (f : BitVec 256 → BitVec 256 → BitVec 256),
      (i, op, f) ∈ [(Instr.mand c, 0x18, fun a b => a &&& b), (Instr.mor c, 0x19, fun a b => a ||| b), (Instr.mnot c, 0x1A, fun a _ => ~~~a)] →
      vecAt s c op = some w → ∃ t, exec i s = .next t ∧ MaskFrame s t c (vVD w % 8) ∧
      (vVD w % 8 ≠ 0 → getM (getEng t c).vec (vVD w % 8) = f (getM (getEng s c).vec (vVA w % 8)) (getM (getEng s c).vec (vVB w % 8)))) ∧
    (∀ u : VecUnit, getM u 0 = BitVec.allOnes 256)

/-- Where the vector engine of a core that runs an instance stands at one of these instructions, the row completes. VLD writes
each enabled lane with the element at that place of the row at granule ADDR + P[PIDX], a microscaling one with the two
blocks from EXT on. VLDACC writes lanes 0-31 with accumulator row r and 32-63 with row r + 1. VGATHER writes a lane whose
index lies in the window with the element there, and 0 where it does not. VST stores the packed elements of VD to scratchpad
from that granule on and to no other byte; VSTACC writes the two accumulator rows and no other word. (05_vector_engine.md, R125, R131, R132, R133) -/
def Obligations.VectorMemoryMovesRegisters : Prop :=
  ∀ (s : State) (c w h : Nat) (j : Job) (i : Inst), running s c = some (h, j, i) →
    (vecAt s c 0x60 = some w → isMx (vFmt w) = false → ∃ t, exec (.vld c) s = .next t ∧
      LanesDone s t c w (2048 / vElems (vFmt w) (vRfmt w)) fun k => loadLane (vFmt w) (vRfmt w)
        (elemAt (viewLe (getCore s c).scratch i (vGranule w (getEng s c).vec * 64) (elemBits (vFmt w) * vElems (vFmt w) (vRfmt w) / 8))
          (elemBits (vFmt w)) k)) ∧
    (vecAt s c 0x60 = some w → isMx (vFmt w) = true → ∃ t, exec (.vld c) s = .next t ∧
      LanesDone s t c w 32 fun k => nth 0 (mxLanes (getCore s c).scratch i (vGranule w (getEng s c).vec) (vFmt w)
        (elemsAt j i (vGranule w (getEng s c).vec)) (vExt w)) k) ∧
    (vecAt s c 0x61 = some w → ∃ t, exec (.vst c) s = .next t ∧ (getEng t c).vec = vNext (getEng s c).vec ∧
      (getCore t c).scratch = viewWrite (getCore s c).scratch i (vGranule w (getEng s c).vec * 64) (vStoreBytes w (getEng s c).vec) ∧
      (∀ a, (∀ k, k < (vStoreBytes w (getEng s c).vec).length → a ≠ i.byteAddr (vGranule w (getEng s c).vec * 64 + k)) →
        Mem.read (getCore t c).scratch a = Mem.read (getCore s c).scratch a) ∧
      (∀ d, d ≠ c → getCore t d = getCore s d) ∧ t.work.hbm = s.work.hbm ∧ t.host = s.host) ∧
    (vecAt s c 0x62 = some w → ∃ t, exec (.vldacc c) s = .next t ∧ LanesDone s t c w 32 fun k =>
      (Tbl.get (0 : BitVec 32) (getEng s c).mat.acc (vGranule w (getEng s c).vec / 2 * 32 + k)).toNat) ∧
    (vecAt s c 0x63 = some w → ∃ t, exec (.vstacc c) s = .next t ∧ (getEng t c).vec = vNext (getEng s c).vec ∧ OnlyEngines s t c ∧
      (∀ k, k < 64 → (Tbl.get (0 : BitVec 32) (getEng t c).mat.acc (vGranule w (getEng s c).vec / 2 * 32 + k)).toNat = vLane s c (vVD w) 32 k) ∧
      (∀ a, (∀ k, k < 64 → a ≠ vGranule w (getEng s c).vec / 2 * 32 + k) →
        Tbl.get (0 : BitVec 32) (getEng t c).mat.acc a = Tbl.get (0 : BitVec 32) (getEng s c).mat.acc a)) ∧
    (vecAt s c 0x64 = some w → ∃ t, exec (.vgather c) s = .next t ∧
      LanesDone s t c w (elemBits (vFmt w)) fun l =>
        let k := elemBits (vFmt w)
        let x := signed k (vLane s c (vRfmt w) k l)
        if x < 0 ∨ (x.toNat + 1) * (k / 8) > vExt w * 32 * 64 then 0
        else viewLe (getCore s c).scratch i (vGranule w (getEng s c).vec * 64 + x.toNat * (k / 8)) (k / 8))

/-- Where the vector engine stands at one of these instructions, the row completes: VEC_NOP only goes on; LOOP pushes a loop
over the next BODY instructions with COUNT - 1 iterations to come and goes on; PSET writes IMM32 and PADD adds it modulo
2^32 to a pointer other than P0, P0 reading as 0 before and after; LOOP_END, where the last iteration of the innermost loop
has run, leaves that loop, and the step's last instruction has retired where its range is left and no loop is open. Nothing outside the engine changes. (05_vector_engine.md, R119, R125, R126, R135) -/
def Obligations.VectorControlMovesTheEngine : Prop :=
  ∀ (s : State) (c w : Nat),
    (vecAt s c 0x00 = some w → exec (.vecNop c) s = .next (updVec s c vNext)) ∧
    (vecAt s c 0x70 = some w → exec (.loop c) s =
      .next (updVec s c fun u => vNext { u with loops := ⟨u.pc + 1, u.pc + vBody w, vCount w - 1⟩ :: u.loops })) ∧
    (vecAt s c 0x71 = some w → ∃ t, exec (.pset c) s = .next t ∧ OnlyEngines s t c ∧ (getEng t c).mat = (getEng s c).mat ∧ (getEng t c).sig = (getEng s c).sig ∧
      (getEng t c).vec = { vNext (getEng s c).vec with p := (getEng t c).vec.p } ∧
      (vPn w ≠ 0 → getP (getEng t c).vec (vPn w) = BitVec.ofNat 32 (vImm32 w)) ∧
      (∀ r, r ≠ vPn w → getP (getEng t c).vec r = getP (getEng s c).vec r)) ∧
    (vecAt s c 0x72 = some w → ∃ t, exec (.padd c) s = .next t ∧ OnlyEngines s t c ∧ (getEng t c).mat = (getEng s c).mat ∧ (getEng t c).sig = (getEng s c).sig ∧
      (getEng t c).vec = { vNext (getEng s c).vec with p := (getEng t c).vec.p } ∧
      (vPn w ≠ 0 → getP (getEng t c).vec (vPn w) = getP (getEng s c).vec (vPn w) + BitVec.ofNat 32 (vImm32 w)) ∧
      (∀ r, r ≠ vPn w → getP (getEng t c).vec r = getP (getEng s c).vec r)) ∧
    (∀ u : VecUnit, getP u 0 = 0) ∧
    (coreRuns s c = true → (getEng s c).vec.active = true → loopOver (getEng s c).vec = true →
      exec (.loopEnd c) s = .next (updVec s c fun u => vSettle (loopBack { u with loops := u.loops.tail })))

/-- For every one of the 27 ALU-form rows: where the signal unit of a core stands at the instruction and its condition is false,
the row completes with every accumulator, every data register, the condition and mode word and the X and Y memories as
before; only the pointers of its moves may change, and the unit goes on. Nothing outside the unit changes. (06_signal_unit.md, R152, R158) -/
def Obligations.SignalConditionFalseWritesNothing : Prop :=
  ∀ (s : State) (c w op : Nat) (i : Instr), (i, op) ∈ sigAluRows c → AluAt s c w op → condHolds (getEng s c).sig.csw (sCond w) = false →
    ∃ t, exec i s = .next t ∧ SigFrame_ s t c ∧ SigMoves s t c ∧ (getEng t c).sig.a = (getEng s c).sig.a ∧
      (getEng t c).sig.d = (getEng s c).sig.d ∧ (getEng t c).sig.csw = (getEng s c).sig.csw ∧ (getEng t c).sig.x = (getEng s c).sig.x ∧
      (getEng t c).sig.y = (getEng s c).sig.y ∧ t.work = s.work ∧
      (getEng t c).sig.ptr = (movePtr (moveOf (getEng s c).sig true (sYm w)) (movePtr (moveOf (getEng s c).sig false (sXm w)) (getEng s c).sig)).ptr

/-- Where the signal unit of a core stands at LDA, ADD, SUB, MAX, MIN, ABS, NEG, ZERO, RNDA, SHL, SHR, MUL, MULR, MADD, MADDR,
MSUB, MSUBR or MNEG and its condition holds, the row completes: the accumulator that DST names holds the exact result (a
product being 2 x s1 x s2 in accumulator units, rounded once to a whole word field in the rounding forms), wrapped to 56
bits or clamped under CSW.SAT; with FS the flags S, Z, O and G are those of that result, O being set when the result was
wrapped or clamped, and without FS they are kept. The unit goes on, and nothing outside it changes but the count of limiter
actions. (06_signal_unit.md, R148, R150, R151, R159) -/
def Obligations.SignalAccumulatorOperations : Prop :=
  ∀ (s : State) (c w op : Nat) (i : Instr) (x : Int), (i, op, x) ∈ sigAccRows c w (getEng s c).sig ++ sigMulRows c w (getEng s c).sig →
    AluAt s c w op → condHolds (getEng s c).sig.csw (sCond w) = true →
    ∃ t, exec i s = .next t ∧ SigFrame_ s t c ∧ SigMoves s t c ∧
      getA (getEng t c).sig (sDst w) = (accResult (getEng s c).sig.csw x).1 ∧
      flagBits (getEng t c).sig.csw = if sFs w then
          (let r := accResult (getEng s c).sig.csw x
           (r.1.getLsbD 55, decide (r.1 = 0), r.2, guardUsed r.1))
        else flagBits (getEng s c).sig.csw

/-- Where the signal unit of a core stands at one of these instructions and its condition holds, the row completes. CMP and CMPA
set S, Z, O and G from the exact difference, whatever FS, and write no accumulator that a move does not load. AND, OR and
XOR leave the guard and tail fields of A and put the bitwise result in its word field when CSW.SAT is 0, and with FS take S
and Z from the word field. (06_signal_unit.md, R151, R159) -/
def Obligations.SignalComparesAndLogic : Prop :=
  ∀ (s : State) (c w op : Nat) (i : Instr), AluAt s c w op → condHolds (getEng s c).sig.csw (sCond w) = true →
    (∀ x : Int, (i, op, x) ∈ sigCmpRows c w (getEng s c).sig →
      ∃ t, exec i s = .next t ∧ SigFrame_ s t c ∧ SigMoves s t c ∧
        flagBits (getEng t c).sig.csw = ((BitVec.ofInt 56 x).getLsbD 55, decide (BitVec.ofInt 56 x = 0),
          decide ((BitVec.ofInt 56 x).toInt ≠ x), guardUsed (BitVec.ofInt 56 x)) ∧
        ∀ r, (moveOf (getEng s c).sig false (sXm w)).loadsA r = false → (moveOf (getEng s c).sig true (sYm w)).loadsA r = false →
          getA (getEng t c).sig r = getA (getEng s c).sig r) ∧
    (∀ y : Nat, (i, op, y) ∈ sigWordRows c w (getEng s c).sig → cswSat (getEng s c).sig.csw = false →
      ∃ t, exec i s = .next t ∧ SigFrame_ s t c ∧ SigMoves s t c ∧
        bits (getA (getEng t c).sig (sDst w)).toNat 47 24 = y ∧
        bits (getA (getEng t c).sig (sDst w)).toNat 55 48 = bits (getA (getEng s c).sig (sDst w)).toNat 55 48 ∧
        bits (getA (getEng t c).sig (sDst w)).toNat 23 0 = bits (getA (getEng s c).sig (sDst w)).toNat 23 0 ∧
        (sFs w = true → cswS (getEng t c).sig.csw = bit y 23 ∧ cswZ (getEng t c).sig.csw = decide (y = 0)))

/-- Where the signal unit of a core stands at one of these instructions and its condition holds, the row completes. NORM, SATW
and PGET write the data register that SRC2 names, when no move of the instruction loads it, with n - 9, with the limited
accumulator, setting K where the limiter acted, and with the pointer. NOP with both moves writes what the moves write and
nothing else: its state is that of the two moves, the X move first, the operands having been read before. (06_signal_unit.md, R149, R158, R159) -/
def Obligations.SignalDataResultsAndMoves : Prop :=
  ∀ (s : State) (c w op : Nat), AluAt s c w op → condHolds (getEng s c).sig.csw (sCond w) = true →
    (∀ (i : Instr) (x : BitVec 24), (i, op, x) ∈ sigDataRows c w (getEng s c).sig →
      (moveOf (getEng s c).sig false (sXm w)).loadsD (sSrc2 w % 4) = false → (moveOf (getEng s c).sig true (sYm w)).loadsD (sSrc2 w % 4) = false →
      ∃ t, exec i s = .next t ∧ SigFrame_ s t c ∧ SigMoves s t c ∧ getD (getEng t c).sig (sSrc2 w % 4) = x ∧
        (i = .satw c → (limiter (getA (getEng s c).sig (sSrc1 w - 4))).2 = true → cswK (getEng t c).sig.csw = true)) ∧
    (op = 0x00 → ∃ t, exec (.sigNop c) s = .next t ∧ SigFrame_ s t c ∧
      (getEng t c).sig = sNext (moveWrite (moveOf (getEng s c).sig true (sYm w)) true
        (moveWrite (moveOf (getEng s c).sig false (sXm w)) false
          (movePtr (moveOf (getEng s c).sig true (sYm w)) (movePtr (moveOf (getEng s c).sig false (sXm w)) (getEng s c).sig), 0))).1)

/-- Where the signal unit of a core stands at one of these instructions, the row completes. HALT ends the program. JMP, CALL and
RET go to their target after two delay slots, CALL pushing the address after the second. DO pushes one loop over the BODY
instructions that follow with COUNT - 1 iterations to come; REP latches the instruction that follows with its count. DO_END,
when the last iteration is over, pops the loop; REP_END, when the count has run out, goes past the repeated instruction.
Nothing else changes. (06_signal_unit.md, R153, R154, R160) -/
def Obligations.SignalJumpsLoopsAndHalt : Prop :=
  ∀ (s : State) (c w : Nat),
    (CtlAt s c w 0x40 → exec (.halt c) s = .next (updSig s c fun u => { u with running := false, mustMove := false, guarded := none })) ∧
    (CtlAt s c w 0x41 → exec (.jmp c) s = .next (updSig s c fun u =>
      { u with pc := u.pc + 1, branch := some (2, bits w 13 0), mustMove := false, guarded := none })) ∧
    (CtlAt s c w 0x42 → exec (.call c) s = .next (updSig s c fun u =>
      { u with stack := .call (u.pc + 3) :: u.stack, pc := u.pc + 1, branch := some (2, bits w 13 0), mustMove := false, guarded := none })) ∧
    (∀ (r : Nat) (fs : List SigFrame), CtlAt s c w 0x43 → (getEng s c).sig.stack = .call r :: fs →
      exec (.ret c) s = .next (updSig s c fun u => { u with stack := fs, pc := u.pc + 1, branch := some (2, r), mustMove := false, guarded := none })) ∧
    (CtlAt s c w 0x44 → exec (.doLoop c) s = .next (updSig s c fun u =>
      sNext { u with stack := .loop (u.pc + 1) (u.pc + bits w 11 0 + 1) (bits w 39 24 - 1) :: u.stack })) ∧
    (CtlAt s c w 0x45 → exec (.rep c) s = .next (updSig s c fun u =>
      { u with pc := u.pc + 1, latch := Tbl.get 0 u.prog (u.pc + 1), repeat_ := bits w 7 0 + 1, repeating := true, mustMove := false, guarded := none })) ∧
    (coreRuns s c = true → (getEng s c).sig.running = true → (getEng s c).sig.halted = false → doOver (getEng s c).sig = true →
      exec (.doEnd c) s = .next (updSig s c fun u => doBack { u with stack := u.stack.tail })) ∧
    (coreRuns s c = true → (getEng s c).sig.running = true → (getEng s c).sig.halted = false → (getEng s c).sig.repeating = true →
      (getEng s c).sig.repeat_ = 0 → exec (.repEnd c) s = .next (updSig s c fun u => sNext { u with repeating := false })) ∧
    (∀ u : SigUnit, u.repeating = false → (∀ t, u.branch = some (2, t) → (sNext u).branch = some (1, t) ∧ (sNext u).pc = u.pc + 1) ∧
      ∀ t, u.branch = some (1, t) → (sNext u).branch = none ∧ (sNext u).pc = t)

/-- Where the signal unit stands at one of these instructions, the row completes: LDP writes the pointer, base, length or
modifier it names; LDI a data register, or an accumulator in its word field with the sign in the guard and a zero tail;
PCOPY one pointer from another; SETM the rounding and saturation modes, clearing K with CLRK and keeping the flags. On a
core that runs an instance, GET writes the words of its granules to X or Y memory from the pointer on, scratchpad unchanged;
PUT writes the words of X or Y memory to its granules, every other byte of scratchpad unchanged. (06_signal_unit.md, R144, R151, R160) -/
def Obligations.SignalLoadsAndTransfers : Prop :=
  ∀ (s : State) (c w : Nat),
    (CtlAt s c w 0x46 → ∃ t, exec (.ldp c) s = .next t ∧ SigFrame_ s t c ∧ SigMoves s t c ∧
      (let r := bits w 36 32
       let x := bits w 15 0
       let u := (getEng t c).sig
       (r < 8 → getPtr u r = x % 32768) ∧ (8 ≤ r → r < 16 → getBas u (r - 8) = x % 32768) ∧ (16 ≤ r → r < 24 → getLen u (r - 16) = x) ∧
         (24 ≤ r → getMod u (r - 24) = signed 16 x))) ∧
    (CtlAt s c w 0x47 → ∃ t, exec (.ldi c) s = .next t ∧ SigFrame_ s t c ∧ SigMoves s t c ∧
      (let r := bits w 34 32
       (r < 4 → getD (getEng t c).sig r = BitVec.ofNat 24 w) ∧
         (4 ≤ r → (getA (getEng t c).sig (r - 4)).toInt = (BitVec.ofNat 24 w).toInt * 2 ^ 24))) ∧
    (CtlAt s c w 0x48 → ∃ t, exec (.pcopy c) s = .next t ∧ SigFrame_ s t c ∧ SigMoves s t c ∧
      getPtr (getEng t c).sig (bits w 34 32) = getPtr (getEng s c).sig (bits w 2 0)) ∧
    (CtlAt s c w 0x4B → ∃ t, exec (.setm c) s = .next t ∧ SigFrame_ s t c ∧ SigMoves s t c ∧
      (let x := (getEng t c).sig.csw
       cswRmode x = bits w 1 0 ∧ cswSat x = bit w 2 ∧ flagBits x = flagBits (getEng s c).sig.csw ∧
         cswK x = (cswK (getEng s c).sig.csw && !bit w 3))) ∧
    (∀ (h : Nat) (j : Job) (i : Inst), running s c = some (h, j, i) → CtlAt s c w 0x49 →
      ∃ t, exec (.get c) s = .next t ∧ SigFrame_ s t c ∧
        (getEng t c).sig = sNext (getWords (bit w 39) (bits w 38 36) (getEng s c).sig
          (if sigCq15 j i (bits w 15 0) then
            (List.range (32 * (bits w 29 25 + 1))).map fun k => viewLe (getCore s c).scratch i (bits w 15 0 * 64 + 2 * k) 2 * 256
           else (List.range (16 * (bits w 29 25 + 1))).map fun k => viewLe (getCore s c).scratch i (bits w 15 0 * 64 + 4 * k) 4 % 2 ^ 24))) ∧
    (∀ (h : Nat) (j : Job) (i : Inst), running s c = some (h, j, i) → CtlAt s c w 0x4A →
      ∃ t, exec (.put c) s = .next t ∧ t.work.hbm = s.work.hbm ∧ (∀ d, d ≠ c → getCore t d = getCore s d ∧ getEng t d = getEng s d) ∧
        (∀ a, (∀ k, k < 64 * (bits w 29 25 + 1) → a ≠ i.byteAddr (bits w 15 0 * 64 + k)) →
          Mem.read (getCore t c).scratch a = Mem.read (getCore s c).scratch a) ∧
        (sigCq15 j i (bits w 15 0) = false → (getCore t c).scratch = viewWrite (getCore s c).scratch i (bits w 15 0 * 64)
          ((putWords (bit w 39) (bits w 38 36) (16 * (bits w 29 25 + 1)) (getEng s c).sig).1.flatMap fun x => leBytes 4 (unsigned 32 x.toInt))) ∧
        (sigCq15 j i (bits w 15 0) = true → (getCore t c).scratch = viewWrite (getCore s c).scratch i (bits w 15 0 * 64)
          ((putWords (bit w 39) (bits w 38 36) (32 * (bits w 29 25 + 1)) (getEng s c).sig).1.flatMap fun x =>
            leBytes 2 (putPart (cswRmode (getEng s c).sig.csw) x).1)))

/-- YIELD_ABORT_POINT: a best-effort invocation asked to yield that has not saved its state is aborted, what is handed back
being rinsed first. SAVE_COMPLETE: with its save area mapped, the instance is SAVED, the core runs nothing and the job
stands last in its ready queue. RINSE_COMPLETE: every byte of every segment being rinsed reads 0, and what waited goes on.
LENT_WINDOW_CLOSE: what runs in the window is asked to yield; an idle window is rinsed and handed back. BE_DISPATCH: the job
chosen runs on the core with its vector registers 0, and where the core held other tables with its programs and operand file
installed and accumulators cleared. SEGMENT_WAKE: a retained
segment in use is ON; one that was off is rinsed. (01_device_overview.md, 12_memory_translation_and_streams.md, 13_partitions_classes_and_accounting.md, R33, R307, R309, R338, R341) -/
def Obligations.CoresYieldAndReturn : Prop :=
  ∀ (s : State) (c : Nat),
    (∀ u : Cur, cur s c = some u → (getCore s c).yield = true → u.job.bestEffort = true → exec (.yieldAbortPoint c) s =
      .next (endBadly (startRinse (chargeEach s u.h { Ledger.none with preemptions := 1 }) [(c, backSegs s c u.inst)] (.handBack c))
        u.h eAborted none)) ∧
    (∀ u : Cur, cur s c = some u → u.inst.phase = .saving →
      saveHole s u.job c (u.inst.saved.flatMap (·.2) ++ contextBytes u.inst).length = none →
      ∃ t i, exec (.saveComplete c) s = .next t ∧ instAt t u.h c = some i ∧ i.phase = .saved ∧ (getCore t c).run = none ∧
        (getCore t c).ready = (getCore s c).ready ++ [u.h]) ∧
    ((getCore s c).rinsing ≠ [] → coreRuns s c = true →
      ∃ s', exec (.rinseComplete c) s = .next (settleWork (restSegs (settleRinses s') c)) ∧ (getCore s' c).rinsing = [] ∧
        s'.engines = s.engines ∧ s'.host = s.host ∧ s'.work.hbm = s.work.hbm ∧
        (∀ n ∈ (getCore s c).rinsing, ∀ a, n * 262144 ≤ a → a < (n + 1) * 262144 → Mem.read (getCore s' c).scratch a = 0) ∧
        (∀ a, (∀ n ∈ (getCore s c).rinsing, a < n * 262144 ∨ (n + 1) * 262144 ≤ a) →
          Mem.read (getCore s' c).scratch a = Mem.read (getCore s c).scratch a)) ∧
    ((getCore s c).lentTo.isSome = true → (getCore s c).yield = false → exec (.lentWindowClose c) s =
      .next (if (getCore s c).run.isSome then requestYield s c
        else if lentSegs s c = [] then handBack s c else startRinse s [(c, lentSegs s c)] (.handBack c))) ∧
    (∀ (h : Nat) (j : Job) (i : Inst), nextReady s c = some h → getJob s h = some j → j.instOn c = some i → i.phase ≠ .saved →
      ∃ t, exec (.beDispatch c) s = .next t ∧ (getCore t c).run = some h ∧ h ∉ (getCore t c).ready ∧ (getCore t c).tables = some h ∧
        (∀ r, getV (getEng t c).vec r = 0) ∧ (getEng t c).sig = (getEng s c).sig ∧
        ((getCore s c).tables = some h → (getEng t c).mat = (getEng s c).mat ∧ (getEng t c).vec.prog = (getEng s c).vec.prog) ∧
        ((getCore s c).tables ≠ some h →
          (getEng t c).vec.prog = i.vecProg ∧ (getEng t c).mat.opfile = i.opfile ∧ (getEng t c).mat.acc = [])) ∧
    (∀ n : Nat, n < 12 → segInUse s c n = true →
      ((getCore s c).power[n]? = some .retain → ∃ t, exec (.segmentWake c n) s = .next t ∧ (getCore t c).power[n]? = some .on ∧
        (getCore t c).scratch = (getCore s c).scratch) ∧
      ((getCore s c).power[n]? = some .off → exec (.segmentWake c n) s = .next (startRinse s [(c, [n])] .other)))

/-- Where a core runs and a transaction of a loaded job is in flight there and lands without error, the row completes and the
transaction is no longer among those in flight. A write to HBM leaves each granule's target holding the 64 bytes read when
it was issued, as far as no later granule of it overlaps; a read leaves scratchpad as the bytes at its source written to its
granules as the instance names them. One that comes too late, or meets an uncorrectable error, faults its invocation
instead: each is stated too. (12_memory_translation_and_streams.md, R319, R322, R326, R328) -/
def Obligations.TransactionsLand : Prop :=
  ∀ (s : State) (c k : Nat) (x : Txn) (j : Job), (getCore s c).txns[k]? = some x → coreRuns s c = true → getJob s x.job = some j →
    (let kept := updCore s c fun e => { e with txns := e.txns.eraseIdx k }
     (∃ t, exec (.transactionLanding c k .ok) s = .next t ∧ (getCore t c).txns = (getCore s c).txns.eraseIdx k ∧
        (x.kind = 1 → ∀ q, Tbl.find s.work.parts j.part = some q → t.work.hbm =
          (x.far.zipIdx).foldl (fun m e => Mem.writeBytes m e.1 ((x.data.drop (64 * e.2)).take 64)) s.work.hbm) ∧
        (x.kind = 0 → t.work.hbm = s.work.hbm ∧ ∀ i, j.instOn c = some i → (getCore t c).scratch =
          (x.near.zipIdx).foldl (fun m e => Mem.writeBytes m (64 * i.granule e.1) (((txnData s x).drop (64 * e.2)).take 64))
            (getCore s c).scratch)) ∧
     exec (.transactionLanding c k .late) s = .next (faultJob kept x.job 5 x.stream x.page c 0xFF) ∧
     (∀ bank row, x.kind = 0 → x.far ≠ [] → exec (.transactionLanding c k (.hbmError bank row)) s = .next (landHbmError kept c x bank row)) ∧
     (∀ seg, x.kind = 1 ∨ x.kind = 2 ∨ x.kind = 3 →
        exec (.transactionLanding c k (.scratchError seg)) s = .next (landScratchError kept c x seg)))

/-- A tally command that is carried out on a partition its source may act on, with a tally index in range and a tally that can be
read: TALLY_ADD of 1 to
2^32 - 1 to a tally that no stream and no group binds, the sum staying below 2^64, adds the amount and answers OK with the
new value; TALLY_READ answers OK with the value; TALLY_WAIT of a threshold that is met answers OK with the value at once,
and of one that is not met arms a monitor; TALLY_QUERY to a mapped, aligned address writes the 64 bytes of the debug record
there and answers OK. Of a tally whose copies are both uncorrectable TALLY_READ answers E_FAULT (log 107). (14_synchronisation_and_determinism.md, R364, R365, R368) -/
def Obligations.TallyCommands : Prop :=
  ∀ (s : State) (m : Msg) (t : State) (c : Ctx) (q : Part),
    (let p := c.f 0x10 1
     let i := c.f 0x14 4
     let v := (getTally t (tallyOf t p i)).value.toNat
     let named := NamesPart t c q ∧ i < q.tallyCount ∧ (getTally t (tallyOf t p i)).bad = false
     (Carried s 0x0400 0x100 32 m t c → named → 1 ≤ c.f 0x18 8 → c.f 0x18 8 < 2 ^ 32 → boundStream t p i = false → boundGroup t p i = false →
        v + c.f 0x18 8 < 2 ^ 64 →
        ∃ t', (getTally t' (tallyOf t p i)).value.toNat = v + c.f 0x18 8 ∧ (∀ n, n ≠ tallyOf t p i → getTally t' n = getTally t n) ∧
          exec (.tallyAdd m) s = .next (answered t' c ⟨eOk, (v + c.f 0x18 8) % 2 ^ 32, (v + c.f 0x18 8) / 2 ^ 32, 0, 0⟩)) ∧
     (Carried s 0x0401 0x100 24 m t c → named → exec (.tallyRead m) s = .next (answered t c ⟨eOk, v % 2 ^ 32, v / 2 ^ 32, 0, 0⟩)) ∧
     (Carried s 0x0402 0x100 40 m t c → named → c.f 0x20 4 ≤ 60000000 → c.zero 0x24 0x28 = true → c.f 0x18 8 ≤ v →
        exec (.tallyWait m) s = .next (answered t c ⟨eOk, v % 2 ^ 32, v / 2 ^ 32, 0, 0⟩)) ∧
     (Carried s 0x0402 0x100 40 m t c → named → c.f 0x20 4 ≤ 60000000 → c.zero 0x24 0x28 = true → v < c.f 0x18 8 →
        (t.work.monitors.filter fun x => x.src = c.m.src).length < 64 → t.work.monitors.length < 1024 →
        exec (.tallyWait m) s = .next (waits (updWork t fun w => { w with monitors := w.monitors ++
          [{ ticket := c.tid, part := p, index := i, threshold := c.f 0x18 8, timeout := c.f 0x20 4, armed := nowNs t, src := c.m.src }] }))) ∧
     (Carried s 0x0403 0x106 32 m t c → named → c.f 0x18 8 % 64 = 0 → q.holds (c.f 0x18 8) 64 = true →
        exec (.tallyQuery m) s = .next (answered (hbmWrite t p (c.f 0x18 8) (tallyRecordOf t p i)) c ⟨eOk, 0, 0, 0, 0⟩)) ∧
     (Carried s 0x0401 0x100 24 m t c → NamesPart t c q → i < q.tallyCount → (getTally t (tallyOf t p i)).bad = true →
        exec (.tallyRead m) s = .next (answered t c (Done.of eFault))))

/-- TALLY_MONITOR_MET: every armed monitor of the tally whose threshold its value has reached is disarmed, its command is no longer in
progress and completes with OK and the value; the other monitors stay armed. TALLY_WAIT_TIMEOUT: a monitor whose TIMEOUT has
passed since it was armed is disarmed and completes with E_TIMEOUT; before that nothing happens. POST_VISIBLE: where the tally
has no barrier, the oldest addition that the core does not see becomes visible to it and to no other core, the value staying;
a barrier's additions stay withheld. BARRIER_RELEASE: at the release instant of a complete barrier its additions are withheld
no longer; before it, in a group of protocol 2, they stay. GROUP_TALLY_MESSAGE: a member's addition is forwarded on the ports
above the one it came on and added to the local copy with its time of posting. DIGEST_COMBINE: where every instance has its
partial result and every core has completed the epoch, the record with the CRC-64 of their bytes in ascending instance order
is written to the job record region and the partial results are gone. CLIP_SHARE: when every core of the station has completed
the epoch, each entry is judged by the counts of that epoch alone, which are dropped; where the share is over the limit and no
message of the entry was sent, CLIP_SHARE is sent. How a barrier counts its arrivals is the model's reading (log 104). (14_synchronisation_and_determinism.md, R360, R364, R374, R379, 17_network_timing_and_link.md, R470, R473, 04_number_formats_and_quantisation.md, R114) -/
def Obligations.MonitorsAndVisibility : Prop :=
  ∀ (s : State) (p i c n : Nat),
    (let isMet := fun (x : Monitor) => x.part = p ∧ x.index = i ∧ x.threshold ≤ (getTally s (tallyOf s p i)).value.toNat
     ∃ t, exec (.tallyMonitorMet p i) s = .next t ∧ (∀ x, x ∈ t.work.monitors ↔ x ∈ s.work.monitors ∧ ¬ isMet x) ∧
       (∀ x ∈ s.work.monitors, isMet x → ∀ k ∈ t.host.tickets, k.id ≠ x.ticket) ∧ t.work.tallies = s.work.tallies ∧ t.engines = s.engines ∧
       t = (s.work.monitors.filter fun x => isMet x).foldl (fun s' x => finish s' x.ticket (tallyDone s p i))
         (updWork s fun w => { w with monitors := t.work.monitors })) ∧
    (∀ x ∈ s.work.monitors, x.timeout ≠ 0 → x.armed + 1000 * x.timeout ≤ nowNs s →
      ∃ t, exec (.tallyWaitTimeout x.ticket) s = .next t ∧ (∀ y, y ∈ t.work.monitors ↔ y ∈ s.work.monitors ∧ y.ticket ≠ x.ticket) ∧
        (∀ k ∈ t.host.tickets, k.id ≠ x.ticket) ∧ t.work.tallies = s.work.tallies ∧ t.engines = s.engines ∧
        t = finish (updWork s fun w => { w with monitors := t.work.monitors }) x.ticket (Done.of eTimeout)) ∧
    (∀ k, (∀ x ∈ s.work.monitors, x.ticket = k → x.timeout = 0 ∨ nowNs s < x.armed + 1000 * x.timeout) →
      exec (.tallyWaitTimeout k) s = .next s) ∧
    (let unseen := fun (t : State) (d : Nat) => ((getTally t n).recent.filter fun r => !r.seen.getLsbD d).map fun r => r.amount
     ((getTally s n).barrier = none → c < 72 → ∃ t, exec (.postVisible n c) s = .next t ∧ (∀ k, k ≠ n → getTally t k = getTally s k) ∧
       (getTally t n).value = (getTally s n).value ∧ unseen t c = (unseen s c).tail ∧
       (getTally t n).visible c = (getTally s n).value.toNat - sumNat (unseen s c).tail ∧
       (∀ d, d < 72 → d ≠ c → unseen t d = unseen s d ∧ (getTally t n).visible d = (getTally s n).visible d) ∧
       t.engines = s.engines ∧ t.host = s.host) ∧
     ((getTally s n).barrier ≠ none → exec (.postVisible n c) s = .next s)) ∧
    (∀ at_ k, releaseTime (getTally s n) = some at_ → (getTally s n).barrier = some k →
      (at_ ≤ nowNs s ∨ s.net.relne.protocol.toNat < 2 → ∃ t, exec (.barrierRelease n) s = .next t ∧
        getTally t n = { getTally s n with recent := (getTally s n).recent.drop k } ∧ (∀ d, d ≠ n → getTally t d = getTally s d) ∧
        t.engines = s.engines ∧ t.host = s.host) ∧
      (nowNs s < at_ → 2 ≤ s.net.relne.protocol.toNat → exec (.barrierRelease n) s = .next s)) ∧
    (∀ (port part tag record amount time chip h : Nat) (j : Job) (g : Nat × Nat × Bool), linkCarries s port = true →
      taggedJob s part tag = some (h, j) → (j.groups.find? fun g => g.1 = record) = some g →
      (getTally s (tallyOf s part g.2.1)).value.toNat + amount < 2 ^ 64 →
      (let k := tallyOf s part g.2.1
       let forwards := ((relnePorts s).filter fun q => port < q).map fun q => Output.relne q "tally" [part, tag, record, amount, time, chip]
       ∃ t, exec (.groupTallyMessage port part tag record amount time chip) s = .next t ∧
         (getTally t k).value.toNat = (getTally s k).value.toNat + amount ∧ (getTally t k).posts = satInc (getTally s k).posts 1 ∧
         (∀ d, d ≠ k → getTally t d = getTally s d) ∧ (∃ more, t.sent = s.sent ++ forwards ++ more) ∧
         (g.2.2 = false → t.sent = s.sent ++ forwards ∧
           (getTally t k).recent = (getTally s k).recent ++ [{ amount := amount, time := time, seen := 0 }]))) ∧
    (∀ (job point epoch : Nat) (j : Job) (r : Invocation) (ds : List PartDigest), getJob s job = some j → j.run = some r →
      digestParts j r point epoch = some ds → digestField j.image point 10 2 ≠ 0 ∨ lastEpoch j r = some epoch →
      (let cap := (j.recordPages * pageBytes - 0x10000) / 32
       ∃ t, exec (.digestCombine job point epoch) s = .next t ∧ getJob t job = some { j with
           digestHead := (j.digestHead + 1) % 2 ^ 32
           run := some { r with digests := r.digests.filter fun d => d.point ≠ point ∨ d.epoch ≠ epoch } } ∧
         t.engines = s.engines ∧ t.host = s.host ∧ t.work.tallies = s.work.tallies ∧ t.work.cores = s.work.cores ∧
         (cap = 0 → t.work.hbm = s.work.hbm) ∧
         (cap ≠ 0 → t.work.hbm = (hbmWrite s j.part (j.recordAddr + 0x10000 + 32 * (j.digestHead % cap))
           (leBytes 4 (digestField j.image point 0 4) ++ leBytes 2 point ++ leBytes 2 0 ++ leBytes 4 s.sys.version.toNat ++ leBytes 4 r.number
             ++ leBytes 4 epoch ++ leBytes 4 0 ++ leBytes 8 (crc64 (ds.flatMap fun d => d.bytes)))).work.hbm))) ∧
    (∀ (job station epoch : Nat) (j : Job) (r : Invocation), getJob s job = some j → j.run = some r → stationDone j station epoch = true →
      (let count := constField j.image (stationField j.image station 0x0C 4) 2
       let entryOf := fun (r : Invocation) (k : Nat) => r.mints.find? fun m => m.station = station ∧ m.entry = k
       let total := fun (m : MintCount) => sumNat ((m.epochs.filter fun e => e.1 = epoch).map fun e => e.2.1)
       let clipped := fun (m : MintCount) => sumNat ((m.epochs.filter fun e => e.1 = epoch).map fun e => e.2.2)
       let limit := fun (k : Nat) => constField j.image (stationField j.image station 0x0C 4 + 16 + 48 * k + 0x16) 2
       let hit := fun (k : Nat) (m : MintCount) => limit k ≠ 0 && !m.sent && decide (limit k * total m < clipped m * 65536)
       ∃ t r', exec (.clipShare job station epoch) s = .next t ∧ (getJob t job).bind Job.run = some r' ∧
         (∀ k m, k < count → entryOf r k = some m →
           entryOf r' k = some { m with epochs := m.epochs.filter (fun e => e.1 ≠ epoch), sent := m.sent || hit k m }) ∧
         ((∀ k m, k < count → entryOf r k = some m → hit k m = false) → t.host = s.host ∧ t.sent = s.sent) ∧
         (∀ m, count = 1 → entryOf r 0 = some m → hit 0 m = true → ∃ s', s'.host = s.host ∧ s'.sent = s.sent ∧
           t = partEvent s' j.part 0x0380 64
             (leBytes 4 job ++ leBytes 1 2 ++ leBytes 3 0 ++ leBytes 4 epoch ++ leBytes 2 station ++ leBytes 2 0 ++ leBytes 4 m.layerTag
               ++ leBytes 8 (clipped m) ++ leBytes 8 (total m)))))

/-- On a partition that its source may act on and a range inside it: MEM_MAP of pages none of which is MAPPED is accepted and
waits; PAGES_MAPPED maps its pages all at once, each reading 0, and completes it with their number; MEM_UNMAP of pages all
of which are MAPPED leaves none of them MAPPED from its acceptance, copies to them being faulted; UNMAP_COMPLETE completes
it with the number of jobs that had to be told, once no transaction to those pages is in flight; MEM_QUERY answers the
number of MAPPED pages of the range and of the partition's pages. (12_memory_translation_and_streams.md, R312, R313, R314) -/
def Obligations.PagesMapAndUnmap : Prop :=
  ∀ (s : State) (m : Msg) (t : State) (c : Ctx) (q : Part) (p : Nat),
    (let a := c.f 0x14 4
     let n := c.f 0x18 4
     let named := NamesPart t c q ∧ c.zero 0x1C 0x20 = true ∧ 1 ≤ n ∧ n ≤ 32768 ∧ a + n ≤ q.allot.length
     (Carried s 0x0200 0x100 32 m t c → named → q.mappedIn a n = 0 → (q.mapping.any fun r => rangesMeet r.first r.count a n) = false →
        exec (.memMap m) s = .next (waits (updPart t (c.f 0x10 1) fun q =>
          { q with mapping := q.mapping ++ [{ first := a, count := n, ticket := c.tid, jobs := 0 }] }))) ∧
     (Carried s 0x0201 0x100 32 m t c → named → q.mappedIn a n = n →
        exec (.memUnmap m) s = .next (waits (copyFaults (updPart t (c.f 0x10 1) fun q =>
          { q.mark a n false with unmapping := q.unmapping ++ [{ first := a, count := n, ticket := c.tid, jobs :=
            (t.work.jobs.filter fun e => e.2.part = c.f 0x10 1 && coversPages e.2.image a n).length }] }) (c.f 0x10 1) a n)) ∧
        ∀ k, k < n → (q.mark a n false).isMapped (a + k) = false) ∧
     (Carried s 0x0202 0x100 32 m t c → named → exec (.memQuery m) s =
        .next (answered t c ⟨eOk, q.mappedIn a n, q.allot.length, 0, 0⟩))) ∧
    (∀ (q : Part) (r : PageRange), getPart s p = some q → (q.mapping.find? fun x => x.first = r.first) = some r →
      (q.unmapping.any fun u => rangesMeet u.first u.count r.first r.count) = false →
      exec (.pagesMapped p r.first) s = .next (finish
        (updPart (updWork s fun w => { w with hbm := zeroPages w.hbm q r.first r.count }) p fun q =>
          { q.mark r.first r.count true with mapping := q.mapping.filter fun x => x ≠ r }) r.ticket ⟨eOk, r.count, 0, 0, 0⟩) ∧
      (∀ k g a, k < r.count → q.allot[r.first + k]? = some g → g * pageBytes ≤ a → a < (g + 1) * pageBytes →
        Mem.read (zeroPages s.work.hbm q r.first r.count) a = 0)) ∧
    (∀ (q : Part) (r : PageRange), getPart s p = some q → (q.unmapping.find? fun x => x.first = r.first) = some r →
      txnsTouch s p r.first r.count = false → exec (.unmapComplete p r.first) s = .next
        (finish (updPart s p fun q => { q with unmapping := q.unmapping.filter fun x => x ≠ r }) r.ticket ⟨eOk, r.jobs, 0, 0, 0⟩))

/-- PART_CREATE by PF0 or management, with fields in range, an unused index and no resource lacking, makes the partition of its
fields, gives it an empty ledger total and tallies at 0, and answers its first till, first tally and owned cores.
PART_DESTROY of a partition that holds nothing is accepted: from then on the partition does not exist, no monitor of it is
armed, and every segment of its enabled owned cores is being rinsed. PART_DESTROY_COMPLETE, when no owned core rinses any
more, frees its index, its tallies and its accounts, zeroes its pages and completes the command. PART_BIND binds or unbinds
one function. PART_QUERY answers the partition's shape. (13_partitions_classes_and_accounting.md, R332, R333, R334, R335, R336) -/
def Obligations.PartitionsAreMadeAndUnmade : Prop :=
  ∀ (s : State) (m : Msg) (t : State) (c : Ctx) (q : Part),
    (let p := c.f 0x10 1
     (Carried s 0x0100 0x100 96 m t c → isRoot m.src = true → partFieldsOk c = true → Tbl.find t.work.parts p = none → partResources t c = none →
        ∃ t', Tbl.find t'.work.parts p = some (makePart t c) ∧
          (∀ n, (makePart t c).tallyFirst ≤ n → n < (makePart t c).tallyFirst + (makePart t c).tallyCount → getTally t' n = Tally.zero) ∧
          Ledger.zero p 3 totalClient ∈ t'.work.ledger ∧
          exec (.partCreate m) s = .next (answered t' c
            ⟨eOk, (makePart t c).tillFirst, (makePart t c).tallyFirst, (makePart t c).owned.length, 0⟩)) ∧
     (Carried s 0x0101 0x100 24 m t c → isRoot m.src = true → p ≤ 7 → c.zero 0x11 0x18 = true → getPart t p = some q → partBusy t p q = false →
        ∃ t', exec (.partDestroy m) s = .next t' ∧ getPart t' p = none ∧ (∀ x ∈ t'.work.monitors, x.part ≠ p) ∧
          (∀ k ∈ q.owned, disabled t 0 k = false → ∀ n, n < 12 → n ∈ (getCore t' k).rinsing) ∧ t'.work.hbm = t.work.hbm) ∧
     (Carried s 0x0102 0x100 24 m t c → isRoot m.src = true → p ≤ 7 → c.zero 0x13 0x18 = true → getPart t p = some q → c.f 0x11 1 ≤ 31 →
        c.f 0x12 1 = 0 → boundTo t (c.f 0x11 1) = none ∨ boundTo t (c.f 0x11 1) = some p →
        exec (.partBind m) s = .next (answered (updPart t p fun q =>
          { q with functions := q.functions ||| BitVec.ofNat 32 (2 ^ c.f 0x11 1) }) c (Done.of eOk))) ∧
     (Carried s 0x0102 0x100 24 m t c → isRoot m.src = true → p ≤ 7 → c.zero 0x13 0x18 = true → getPart t p = some q → c.f 0x11 1 ≤ 31 →
        c.f 0x12 1 = 1 → boundTo t (c.f 0x11 1) = some p → (∀ e ∈ t.work.jobs, ∀ f, e.2.owner = .fn f → f.val ≠ c.f 0x11 1) →
        exec (.partBind m) s = .next (answered (updPart t p fun q =>
          { q with functions := q.functions &&& ~~~BitVec.ofNat 32 (2 ^ c.f 0x11 1) }) c (Done.of eOk))) ∧
     (Carried s 0x0103 0x100 24 m t c → p ≤ 7 → c.zero 0x11 0x18 = true → getPart t p = some q → hostOf t m.src p = true →
        exec (.partQuery m) s = .next (answered t c ⟨eOk,
          q.owned.length + 256 * q.borrowed.length + 65536 * q.exact + 2 ^ 20 * b2n q.gate
            + 2 ^ 21 * (b2n q.allowLc + 2 * b2n q.allowBe + 4 * b2n q.lending) + 2 ^ 24 * q.lendSegments,
          q.functions.toNat, q.allot.length, q.purseHbm⟩))) ∧
    (∀ (p k : Nat), Tbl.find s.work.parts p = some q → q.destroying = some k → (q.owned.any fun c => (getCore s c).rinsing ≠ []) = false →
      ∃ t', exec (.partDestroyComplete p) s = .next t' ∧ Tbl.find t'.work.parts p = none ∧ (∀ d, d ≠ p → Tbl.find t'.work.parts d = Tbl.find s.work.parts d) ∧
        (∀ g ∈ q.allot, ∀ a, g * pageBytes ≤ a → a < (g + 1) * pageBytes → Mem.read t'.work.hbm a = 0) ∧
        (∀ n, q.tallyFirst ≤ n → n < q.tallyFirst + q.tallyCount → getTally t' n = Tally.zero) ∧
        ((∀ e ∈ s.services, e.2.part ≠ p) → ∀ e ∈ t'.work.ledger, e.part ≠ p) ∧ ∀ x ∈ t'.host.tickets, x.id ≠ k)

/-- On a partition that its source may act on, once what a service's epoch in progress has used is divided among its clients
(log 105): LEDGER_READ, with a mapped, aligned destination, writes the first N entries in order, 128 bytes each, and answers
how many were written and how many there are, the accounts staying as they were, or with CLEAR those written being set to 0
or, when ended, dropped; LEDGER_CLEAR drops the partition's ended entries and sets every counter of the others to 0, entries
of other partitions staying as they were. (13_partitions_classes_and_accounting.md, R348, R350, R351) -/
def Obligations.LedgersAreReadAndCleared : Prop :=
  ∀ (s : State) (m : Msg) (t : State) (c : Ctx) (q : Part),
    (let p := c.f 0x10 1
     let n := c.f 0x14 4
     let u := divideServices t p
     let out := (ledgerOf u p).take n
     (Carried s 0x0500 0x100 32 m t c → p ≤ 7 → c.f 0x11 1 < 2 → c.zero 0x12 0x14 = true → getPart t p = some q → hostOf t m.src p = true →
        1 ≤ n → n ≤ 8193 → c.f 0x18 8 % 64 = 0 → q.holds (c.f 0x18 8) (128 * out.length) = true →
        ∃ t', exec (.ledgerRead m) s = .next (answered t' c ⟨eOk, out.length, (ledgerOf u p).length, 0, 0⟩) ∧
          t'.work.hbm = (hbmWrite u p (c.f 0x18 8) (out.flatMap (ledgerBytes u))).work.hbm ∧ t'.host = t.host ∧
          (c.f 0x11 1 = 0 → t'.work.ledger = u.work.ledger) ∧
          (c.f 0x11 1 = 1 → t'.work.ledger =
            (u.work.ledger.filter fun e => !(e ∈ out && e.ended)).map fun e => if e ∈ out then e.cleared else e)) ∧
     (Carried s 0x0501 0x100 24 m t c → p ≤ 7 → c.zero 0x11 0x18 = true → getPart t p = some q → hostOf t m.src p = true →
        ∃ t', exec (.ledgerClear m) s = .next (answered t' c (Done.of eOk)) ∧
          (∀ e ∈ t'.work.ledger, e.part = p → e.ended = false ∧ e = e.cleared) ∧
          (∀ e, e.part ≠ p → (e ∈ t'.work.ledger ↔ e ∈ u.work.ledger)) ∧ t'.host = t.host) ∧
     (t.services = [] → u = t))

/-- JOB_LOAD with fields in range, all of its regions mapped, room for one more job, an image that passes its checks and cores
that no loaded job holds, is accepted and waits for its placement. PLACEMENT_COMPLETE: a placed job is loaded under the next handle and its
segments are being rinsed; a refused one answers with E_NOFIT or the check that failed and leaves no job. JOB_START of a loaded
job that its source owns, with no invocation, starts an invocation that carries the command's ticket; where a core of it has
failed the job is placed again first, and a refusal leaves it without instances. Placement's own choices are the model's free
value under the rules it tests (log 63, log 98), and the ranges of the commands are read in log 12. (02_stations_tiles_and_jobs.md, 16_command_messages.md, R55, R62, R71, R432) -/
def Obligations.JobCommandsLoadAndStart : Prop :=
  ∀ (s : State) (m : Msg) (t : State) (c : Ctx) (q : Part),
    (let p := c.f 0x10 1
     let a := c.f 0x18 8
     let n := c.f 0x14 4
     (Carried s 0x0300 0x100 64 m t c → NamesPart t c q → a % 64 = 0 → c.f 0x20 8 % pageBytes = 0 → 1 ≤ c.f 0x28 4 → c.f 0x28 4 ≤ 64 →
        c.f 0x30 8 % pageBytes = 0 → (c.f 0x2C 4 = 0 → c.f 0x30 8 = 0) → q.holds a n = true → q.holds (c.f 0x20 8) (c.f 0x28 4 * pageBytes) = true →
        (c.f 0x2C 4 ≠ 0 → q.holds (c.f 0x30 8) (c.f 0x2C 4 * pageBytes) = true) → c.f 0x38 8 < 2 ^ q.cores.length → loadedCount t < 256 →
        checkImage (readImage t p a n) n (c.ver / 256, c.ver % 256) q = none → (imgBestEffort (readImage t p a n) = false → c.f 0x2C 4 = 0) →
        coresFree t p q (c.f 0x38 8) = none →
        exec (.jobLoad m) s = .next (waits (updWork t fun w => { w with loading := w.loading ++ [{ ticket := c.tid, refusal := none, handle := 0, floor := [], job := newJob p c.m.src .host (readImage t p a n) (c.f 0x20 8) (c.f 0x28 4) (c.f 0x30 8) (c.f 0x2C 4) (c.f 0x38 8) }] }))) ∧
     (∀ j : Job, Carried s 0x0301 0x100 24 m t c → c.zero 0x14 0x18 = true → (t.work.loading.any fun l => l.handle = c.f 0x10 4) = false →
        getJob t (c.f 0x10 4) = some j → isRoot m.src = true ∨ m.src = j.owner → j.kind = .host → j.service = none → j.run = none → j.lostCore = 0 →
        exec (.jobStart m) s = .next (waits (startInvocation t (c.f 0x10 4) (some c.tid) true))) ∧
     (∀ j : Job, Carried s 0x0301 0x100 24 m t c → c.zero 0x14 0x18 = true → (t.work.loading.any fun l => l.handle = c.f 0x10 4) = false →
        getJob t (c.f 0x10 4) = some j → isRoot m.src = true ∨ m.src = j.owner → j.kind = .host → j.service = none → j.run = none → j.lostCore = 1 →
        (∀ d, placeFully t (c.f 0x10 4) j = .inr d → exec (.jobStart m) s =
          .next (answered (updJob t (c.f 0x10 4) fun j => { j with insts := [], lostCore := 2 }) c d)) ∧
        (∀ j', placeFully t (c.f 0x10 4) j = .inl j' → exec (.jobStart m) s =
          .next (waits (startInvocation (settleRinses (placeAgain t (c.f 0x10 4) j')) (c.f 0x10 4) (some c.tid) true))))) ∧
    (∀ (l : Loading), (s.work.loading.find? fun x => x.ticket = l.ticket ∧ x.handle = 0) = some l →
      (let s' := updWork s fun w => { w with loading := w.loading.filter fun x => x ≠ l }
       (∀ d, placeFully s' 0 l.job = .inr d → exec (.placementComplete l.ticket) s = .next (finish s' l.ticket d) ∧
         (finish s' l.ticket d).work.jobs = s.work.jobs ∧ ∀ k ∈ (finish s' l.ticket d).host.tickets, k.id ≠ l.ticket) ∧
       (∀ j, placeFully s' 0 l.job = .inl j → ∃ t', exec (.placementComplete l.ticket) s = .next t' ∧
         t' = settleHostLoads (settleRinses (installJob s' l.ticket j)) ∧ t'.work.nextJob = s.work.nextJob + 1 ∧
         (∃ j', getJob t' s.work.nextJob = some j' ∧ j'.image = l.job.image ∧ j'.part = l.job.part ∧ j'.digest = j.digest ∧
           j'.insts.map (·.core) = j.insts.map (·.core)) ∧
         ∀ i ∈ j.insts, ∀ n ∈ segList i.segments, n ∈ (getCore t' i.core).rinsing)))

/-- On a loaded job that its source owns: JOB_STOP answers OK with no effect when the job is LOADED, with NOW aborts its
invocation, and without NOW ends it after the highest epoch that a core has begun, or waits with an invocation that ends
already; JOB_UNLOAD of a LOADED job releases it, its handle naming no job from then on, and completes when its segments are
rinsed; PLAN_SELECT of a plan of the image sets the plan of epoch 0 of a LOADED job, and of a running one takes effect at the
lowest epoch that no core has begun, one that waited for that epoch completing with E_SUPERSEDED; JOB_QUERY answers the job's state, plan,
instances, invocations and image CRC. An invocation of which no core has begun an epoch ends at once (log 12). (02_stations_tiles_and_jobs.md, 16_command_messages.md, R62, R63, R434) -/
def Obligations.JobCommandsStopAndAsk : Prop :=
  ∀ (s : State) (m : Msg) (t : State) (c : Ctx) (j : Job),
    (let h := c.f 0x10 4
     let mine := (t.work.loading.any fun l => l.handle = h) = false ∧ getJob t h = some j ∧ (isRoot m.src = true ∨ m.src = j.owner)
     (Carried s 0x0302 0x100 24 m t c → mine → c.f 0x14 1 < 2 → c.zero 0x15 0x18 = true → j.kind = .host → j.lostCore ≠ 2 →
        (j.run = none → exec (.jobStop m) s = .next (answered t c (Done.of eOk))) ∧
        (∀ r, j.run = some r → c.f 0x14 1 = 1 → exec (.jobStop m) s =
          .next (waits (abortRun (updRun t h fun r => { r with stops := r.stops ++ [c.tid] }) h eAborted none []))) ∧
        (∀ r, j.run = some r → c.f 0x14 1 = 0 → r.ending = false → exec (.jobStop m) s =
          .next (waits (stopAfterEpoch t h (some c.tid)))) ∧
        (∀ r, j.run = some r → c.f 0x14 1 = 0 → r.ending = true → exec (.jobStop m) s =
          .next (waits (updRun t h fun r => { r with stops := r.stops ++ [c.tid] })))) ∧
     (Carried s 0x0303 0x100 24 m t c → mine → c.zero 0x14 0x18 = true → j.kind = .host → j.run = none → j.service = none →
        ∃ t', exec (.jobUnload m) s = .next t' ∧ t' = waits (unloadJob t h (.unload c.tid)) ∧ getJob t' h = none ∧
          ∀ i ∈ j.insts, disabled t 0 i.core = false → ∀ n ∈ segList i.segments, n ∈ (getCore t' i.core).rinsing) ∧
     (Carried s 0x0304 0x100 24 m t c → mine → c.f 0x14 1 ≤ 7 → c.zero 0x15 0x18 = true → j.kind = .host → j.rules = false → j.lostCore ≠ 2 →
        j.hasPlan (c.f 0x14 1) = true →
        (j.run = none → exec (.planSelect m) s = .next (answered (putJob t h { j with plan0 := c.f 0x14 1 }) c (Done.of eOk))) ∧
        (∀ r, j.run = some r → exec (.planSelect m) s =
          .next (waits (updRun ((r.sels.filter fun p => p.effect = j.begunEpochs).foldl
              (fun t p => complete t p.ticket ⟨eSuperseded, p.effect, 0, 0, 0⟩) t) h fun r =>
            { r with sels := r.sels.filter (fun p => p.effect ≠ j.begunEpochs) ++
              [{ effect := j.begunEpochs, plan := c.f 0x14 1, ticket := c.tid }] })))) ∧
     (Carried s 0x0305 0x100 24 m t c → mine → c.zero 0x14 0x18 = true → exec (.jobQuery m) s = .next (answered t c
        ⟨eOk, b2n j.run.isSome + 4 * b2n j.bestEffort + 256 * j.planNext + 65536 * j.insts.length, j.invocations, imgLe j.image 0x20 4,
         imgLe j.image 0x24 4⟩)))

/-- A TIME_QUERY that is carried out completes with OK: RESULT3, RESULT2 and RESULT1 are bits [127:96], [95:64] and [63:32] of
device time, RESULT0 has bits [31:16] of it in its own [31:16], the code of the synchronisation state in [2:0], PPS_LOST in
[3] and 0 in [15:4]. Nothing else changes. (R436) -/
def Obligations.TimeQueryAnswersDeviceTime : Prop :=
  ∀ (s : State) (m : Msg) (t : State) (c : Ctx), Carried s 0x0700 0x100 16 m t c →
    (∃ r0 : Nat, exec (.timeQuery m) s = .next (answered t c
        ⟨0, r0, (t.net.timing.time.extractLsb' 32 32).toNat, (t.net.timing.time.extractLsb' 64 32).toNat,
          (t.net.timing.time.extractLsb' 96 32).toNat⟩) ∧
      bits r0 31 16 = (t.net.timing.time.extractLsb' 16 16).toNat ∧
      bits r0 2 0 = (match t.net.timing.state with
        | .freeRun => 0
        | .acquiring => 1
        | .locked => 2
        | .holdover => 3) ∧
      bit r0 3 = t.net.timing.ppsLost ∧ bits r0 15 4 = 0 ∧ r0 < 2 ^ 32)

/-- HELLO of a source without a session, with well-formed offers that meet the device's, opens a session of the highest version
both hold and answers it with the firmware version; offers that meet none answer E_VERSION with the device's own. BYE ends its
source's session, and its completion waits for the source's earlier commands. TILL_CONFIG of a partition till that does not
run, with fields in range, a completion till as the default reply of a command till, a doorbell that no other till has and
free slots makes the till RUNNING and empty at the lowest free ring; with release it frees the till. TILL_RESET of a till in
ERROR or STOPPED makes it RUNNING and empty. A default reply of another kind, and when a session ends, are read in log 13. (16_command_messages.md, R425, R426, R427, R428, R429) -/
def Obligations.SessionsAndTills : Prop :=
  ∀ (s : State) (m : Msg) (t : State) (c : Ctx) (q : Part),
    (∀ v : Nat × Nat, Carried s 0x0000 0 32 m t c → c.f 0x10 4 < 2 ^ 17 → c.f 0x14 4 < 2 ^ 17 → c.zero 0x1C 0x20 = true → sessionOf t m.src = none →
        offerBad (c.f 0x10 4) = false → offerBad (c.f 0x14 4) = false →
        (match offerOverlap (c.f 0x14 4) 2 with
          | some n => some (2, n)
          | none => (offerOverlap (c.f 0x10 4) 1).map fun n => (1, n)) = some v →
        exec (.hello m) s = .next (answered (openSession t m.src v) c
          ⟨eOk, v.2 + 256 * v.1, t.sys.version.toNat, formatsOf v.1 + 256 * 0x06, (match m.src with | .fn f => f.val | _ => 0)⟩)) ∧
    (Carried s 0x0000 0 32 m t c → c.f 0x10 4 < 2 ^ 17 → c.f 0x14 4 < 2 ^ 17 → c.zero 0x1C 0x20 = true → sessionOf t m.src = none →
        offerBad (c.f 0x10 4) = false → offerBad (c.f 0x14 4) = false → offerOverlap (c.f 0x14 4) 2 = none → offerOverlap (c.f 0x10 4) 1 = none →
        exec (.hello m) s = .next (answered t c ⟨eVersion, 0x10600, 0x10300, 0, 0⟩)) ∧
    (Carried s 0x0001 0x100 16 m t c → exec (.bye m) s = .next (waits (updHost (endSession t m.src) fun h => { h with byes := h.byes ++ [(c.tid, m.src)] }))) ∧
    (let p := c.f 0x1C 1
     let n := partTill p (c.f 0x10 2)
     let old := getTill t n
     Carried s 0x0002 0x100 48 m t c → p ≤ 7 → c.zero 0x1D 0x20 = true → c.zero 0x28 0x30 = true → tillCodesOk c = true → getPart t p = some q → hostOf t m.src p = true →
        c.f 0x10 2 < q.tillCount →
        (c.f 0x12 1 = 1 → ¬ (old.kind = 4 ∧ tillServed t p (c.f 0x10 2) = true) → exec (.tillConfig m) s =
          .next (answered { t with host := { t.host with tills := Tbl.del t.host.tills n } } c (Done.of eOk))) ∧
        (∀ base, c.f 0x12 1 = 0 → tillFieldsOk c = true → old.state ≠ .running →
          (c.f 0x13 1 = 0 → c.f 0x1A 2 = 0xFFFF ∨ (c.f 0x1A 2 < q.tillCount ∧ (getTill t (partTill p (c.f 0x1A 2))).kind = 1)) →
          c.f 0x16 2 = 0x3FF ∨ doorbellBound t (srcFn m.src) (c.f 0x16 2) n = false →
          freeSlots t n (64 * 2 ^ c.f 0x14 1) = some base →
          ∃ t', exec (.tillConfig m) s = .next (answered t' c ⟨eOk, base, 0, 0, 0⟩) ∧ (getTill t' n).state = .running ∧ (getTill t' n).prod = 0 ∧
            (getTill t' n).cons = 0 ∧ (getTill t' n).base = BitVec.ofNat 18 base ∧ (getTill t' n).kind = BitVec.ofNat 3 (c.f 0x13 1) ∧
            (getTill t' n).depth = BitVec.ofNat 3 (c.f 0x14 1) ∧ (getTill t' n).holder = m.src ∧
            (getTill t' n).doorbell = BitVec.ofNat 10 (c.f 0x16 2) ∧ (getTill t' n).vector = BitVec.ofNat 11 (c.f 0x18 2) ∧
            (getTill t' n).mirror = bit (c.f 0x15 1) 0 ∧ ∀ k, k ≠ n → getTill t' k = getTill t k)) ∧
    (∀ n : Nat, Carried s 0x0003 0x100 24 m t c → c.f 0x10 2 ≤ 8191 ∨ 0xFFFD ≤ c.f 0x10 2 → c.zero 0x12 0x18 = true →
        resetTarget t m.src (c.f 0x10 2) = some n → (getTill t n).state = .error ∨ (getTill t n).state = .stopped →
        ∃ t', exec (.tillReset m) s = .next (answered t' c (Done.of eOk)) ∧ (getTill t' n).state = .running ∧ (getTill t' n).prod = 0 ∧
          (getTill t' n).cons = 0 ∧ (getTill t' n).reserved = (getTill t n).reserved ∧ ∀ k, k ≠ n → getTill t' k = getTill t k)

/-- CAP_SET of the device by PF0 or management, from 200 to 520 W, where MGMT_CAP_ONLY does not keep its source from it, is
accepted and waits, with the order of its object replaced; of a partition by a source that may act on it, from 10 W to the
device cap or 0, the same. CAP_QUERY answers the cap, the mean power of the last millisecond, the flags of what binds and
the effective clock. (16_command_messages.md, R435) -/
def Obligations.CapsAreOrderedAndAsked : Prop :=
  ∀ (s : State) (m : Msg) (t : State) (c : Ctx) (q : Part),
    (let scope := c.f 0x10 1
     let p := c.f 0x11 1
     let mw := c.f 0x14 4
     let device := scope = 0 ∧ isRoot m.src = true
     let part := scope = 1 ∧ p ≤ 7 ∧ 0x203 ≤ c.ver ∧ getPart t p = some q ∧ hostOf t m.src p = true
     let flags := b2n t.power.capBinding + 2 * b2n t.power.thermal + 4 * b2n (t.power.prochotOut || t.power.prochotIn)
     (∀ obj : Option Nat, Carried s 0x0600 0x100 24 m t c → c.zero 0x12 0x14 = true → capAllowed t m.src = true →
        (device ∧ 200000 ≤ mw ∧ mw ≤ 520000 ∧ obj = none) ∨
          (part ∧ (mw = 0 ∨ (10000 ≤ mw ∧ mw ≤ t.power.capDevice.toNat)) ∧ obj = some p) →
        exec (.capSet m) s = .next (waits (updPower
          ((t.power.orders.filter fun o => o.part = obj).foldl (fun s o => completeWith s o.ticket eSuperseded) t) fun w =>
            { w with orders := w.orders.filter (fun o => o.part ≠ obj) ++ [{ ticket := c.tid, part := obj, mw := mw }] }))) ∧
     (Carried s 0x0601 0x100 24 m t c → c.zero 0x12 0x14 = true → c.zero 0x14 0x18 = true →
        (device → exec (.capQuery m) s = .next (answered t c ⟨eOk, t.power.capDevice.toNat, t.power.power1ms.toNat, flags, deviceClock t⟩)) ∧
        (part → exec (.capQuery m) s = .next (answered t c
          ⟨eOk, (getPartPower t p).cap, t.power.power1ms.toNat, flags, (getPartPower t p).effective.toNat⟩))))

/-- For a function whose accesses are served: a doorbell write with DB_ENABLE 0, of a doorbell that is bound to no till, or of a
till that is not RUNNING sets FN_ERROR.DOORBELL and moves no index. Otherwise, for a till of KIND 0, an INDEX equal to PROD
has no effect, one with (INDEX - CONS) mod 65,536 at most the depth sets PROD and nothing else, and any other stops the till
in ERROR with REASON 1 (OVERRUN). For a till of KIND 1 to 3, an INDEX not beyond PROD sets CONS, ARM sets ARMED, and ARMED
is clear again where an entry waits; one beyond stops the till in ERROR with REASON 2 (UNDERRUN). DB_ENABLE is a field that
software writes. (15_host_interface.md, R395, R398, R406, R407) -/
def Obligations.DoorbellsMoveTills : Prop :=
  ∀ (s : State) (f : Fin 32) (d n : Nat) (v : BitVec 64), served s f.val = true → d < 512 →
    (∀ on, exec (.dbEnable f on) s = .next (updFn s f.val fun k => { k with dbEnable := on })) ∧
    (((getFn s f.val).dbEnable = false ∨ boundTill s f.val d = none ∨
        (boundTill s f.val d = some n ∧ ((getTill s n).state ≠ .running ∨ (getTill s n).kind = 4))) →
      exec (.producerDoorbell f d v) s = .next (setError s f.val errDoorbell 0 (0x1000 + 8 * d)) ∧
      exec (.consumerDoorbell f d v) s = .next (setError s f.val errDoorbell 0 (0x1000 + 8 * d))) ∧
    ((getFn s f.val).dbEnable = true → boundTill s f.val d = some n → (getTill s n).state = .running →
      (let t := getTill s n
       let index : BitVec 16 := v.setWidth 16
       (t.kind = 0 →
          (index = t.prod → exec (.producerDoorbell f d v) s = .next s) ∧
          (index ≠ t.prod → (index - t.cons).toNat ≤ t.slots →
            exec (.producerDoorbell f d v) s = .next (updTill s n fun t => { t with prod := index })) ∧
          (index ≠ t.prod → t.slots < (index - t.cons).toNat →
            ∃ t', exec (.producerDoorbell f d v) s = .next t' ∧ (getTill t' n).state = .error ∧ (getTill t' n).reason = 1 ∧
              (getTill t' n).prod = t.prod ∧ (getTill t' n).cons = t.cons)) ∧
       (t.kind = 1 ∨ t.kind = 2 ∨ t.kind = 3 →
          ((index - t.cons).toNat ≤ t.used →
            ∃ t', exec (.consumerDoorbell f d v) s = .next t' ∧
              getTill t' n = { t with cons := index, armed := if v.getLsbD 16 ∧ t.prod ≠ index then false else t.armed || v.getLsbD 16 } ∧
              (∀ k, k ≠ n → getTill t' k = getTill s k) ∧ t'.work = s.work ∧ t'.host.tillMem = s.host.tillMem) ∧
          (t.used < (index - t.cons).toNat →
            ∃ t', exec (.consumerDoorbell f d v) s = .next t' ∧ (getTill t' n).state = .error ∧ (getTill t' n).reason = 2 ∧
              (getTill t' n).cons = t.cons))))

/-- For a function whose accesses are served: FN_ERROR and IRQ_CAUSE clear the bits written 1 and keep the rest, and the capture
is released when no error stays; clearing a cause sends nothing. IRQ_MASK takes the value, and vector 0 is sent where an
unmasked cause appears. QUIESCE takes the bit. LEDGER_LATCH takes the ledger total of the bound partition, what a service's
epoch in progress has used being divided first (log 105), TALLY_SELECT the record of a tally within its allotment, and none
beyond it. CHIP_LOCK takes its first write by PF0; a later one leaves the lock, sets FN_ERROR.LOCKED and counts; a VF's sets
FN_ERROR.RANGE. The end of HOLDOFF sends a vector that waited, or leaves it pending while a mask holds it (log 89). After
MSIX_UNMASK no vector is pending that no mask holds. (15_host_interface.md, R391, R395, R396, R399, R400, R401, R403, R408) -/
def Obligations.FunctionRegistersKeepTheirAccess : Prop :=
  ∀ (s : State) (f : Fin 32) (v : BitVec 32), served s f.val = true →
    (∃ t, exec (.fnErrorClear f v) s = .next t ∧ (getFn t f.val).error = (getFn s f.val).error &&& ~~~(v.setWidth 8) ∧
      (getFn t f.val).errValid = ((getFn s f.val).errValid && decide ((getFn t f.val).error ≠ 0)) ∧
      (getFn t f.val).irqCause = (getFn s f.val).irqCause ∧ (getFn t f.val).errAddr = (getFn s f.val).errAddr ∧
      (∀ g, g ≠ f.val → getFn t g = getFn s g) ∧ t.host.tills = s.host.tills ∧ t.work = s.work) ∧
    (∃ t, exec (.irqCauseClear f v) s = .next t ∧ (getFn t f.val).irqCause = (getFn s f.val).irqCause &&& ~~~(v.setWidth 4) ∧
      (getFn t f.val).irqMask = (getFn s f.val).irqMask ∧ t.sent = s.sent ∧ (∀ g, g ≠ f.val → getFn t g = getFn s g) ∧ t.work = s.work) ∧
    (∃ t, exec (.irqMaskWrite f v) s = .next t ∧ (getFn t f.val).irqMask = v.setWidth 4 ∧ (getFn t f.val).irqCause = (getFn s f.val).irqCause ∧
      ((getFn s f.val).irqCause &&& ~~~(getFn s f.val).irqMask = 0 → (getFn s f.val).irqCause &&& ~~~(v.setWidth 4) ≠ 0 →
        (getFn s f.val).msixEnable = true → vectorMasked (getFn s f.val) 0 = false → 0 ∉ (getFn s f.val).cooling →
        t.sent = s.sent ++ [.msix f.val 0]) ∧ t.work = s.work) ∧
    (∀ on, exec (.quiesce f on) s = .next (updFn s f.val fun k => { k with quiesce := on })) ∧
    (∀ p, boundTo s f.val = some p → v.getLsbD 0 = true →
      (let u := divideServices s p
       exec (.ledgerLatch f v) s = .next (updFn u f.val fun k =>
         { k with ledger := ledgerBytes u ((u.work.ledger.find? fun e => e.is p 3 totalClient).getD (Ledger.zero p 3 totalClient)), ledgerValid := true }))) ∧
    (v.getLsbD 0 = false → exec (.ledgerLatch f v) s = .next s) ∧
    (boundTo s f.val = none → v.getLsbD 0 = true → exec (.ledgerLatch f v) s = .next (updFn s f.val fun k => { k with ledger := [], ledgerValid := false })) ∧
    (∀ p q, boundTo s f.val = some p → getPart s p = some q → v.toNat % 8192 < q.tallyCount →
      ∃ t, exec (.tallySelect f v) s = .next t ∧ (getFn t f.val).tallySelect = v.setWidth 13 ∧
        (getFn t f.val).tallyRecord = tallyRecordOf s p (v.toNat % 8192) ∧ (getFn t f.val).tallyValid = true ∧
        (getFn t f.val).tallyOutOfRange = false ∧ t.work = s.work) ∧
    ((∀ p q, boundTo s f.val = some p → getPart s p = some q → q.tallyCount ≤ v.toNat % 8192) →
      ∃ t, exec (.tallySelect f v) s = .next t ∧ (getFn t f.val).tallySelect = v.setWidth 13 ∧ (getFn t f.val).tallyValid = false ∧
        (getFn t f.val).tallyOutOfRange = true ∧ t.work = s.work) ∧
    (f.val ≠ 0 → exec (.chipLock f v) s = .next (setError s f.val errRange 0 0x8100)) ∧
    (f.val = 0 →
      (s.host.chip.lockWritten = false → exec (.chipLock f v) s =
        .next (updChip s fun c => { c with lockWritten := true, lock := v.getLsbD 0 })) ∧
      (s.host.chip.lockWritten = true → ∃ t, exec (.chipLock f v) s = .next t ∧ t.host.chip.lock = s.host.chip.lock ∧
        (getFn t 0).error.getLsbD 2 = true ∧ t.host.chip.lockLogOffset = 0x2040 ∧ t.host.chip.lockLogFn = 0 ∧
        t.host.chip.lockLogValid = true ∧ t.host.chip.lockCount = satInc s.host.chip.lockCount 1)) ∧
    (∀ u : Nat,
      (u ∉ (getFn s f.val).heldVectors → exec (.irqHoldoffExpiry f u) s = .next (updFn s f.val fun k =>
        { k with cooling := k.cooling.filter (· ≠ u), heldVectors := k.heldVectors.filter (· ≠ u) })) ∧
      (u ∈ (getFn s f.val).heldVectors → (getFn s f.val).msixEnable = true → vectorMasked (getFn s f.val) u = false →
        ∃ t, exec (.irqHoldoffExpiry f u) s = .next t ∧ t.sent = s.sent ++ [.msix f.val u] ∧ u ∉ (getFn t f.val).heldVectors) ∧
      (u ∈ (getFn s f.val).heldVectors → (getFn s f.val).msixEnable = true → vectorMasked (getFn s f.val) u = true →
        ∃ t, exec (.irqHoldoffExpiry f u) s = .next t ∧ t.sent = s.sent ∧ u ∈ (getFn t f.val).msixPending ∧ u ∉ (getFn t f.val).heldVectors) ∧
      (∃ t, exec (.msixUnmask f (some u)) s = .next t ∧ vectorMasked (getFn t f.val) u = (getFn s f.val).msixMask ∧
        ((getFn s f.val).msixEnable = true → ∀ w ∈ (getFn t f.val).msixPending, vectorMasked (getFn t f.val) w = true) ∧
        (∀ g, g ≠ f.val → getFn t g = getFn s g) ∧ t.work = s.work))

/-- For a function whose accesses are served: a 4-byte write of MW0 at the offset of FN_ERROR, IRQ_CAUSE, IRQ_MASK,
LEDGER_LATCH, TALLY_SELECT or (PF0) CHIP_LOCK does what that register's command does, and an 8-byte write of doorbell d what
the doorbell command does; a narrow write below the doorbells is dropped with FN_ERROR.WIDTH, one across registers with ALIGN,
and a poisoned write with POISON and a report through AER. An access of MW4 that falls on mapped pages alone reads, or
writes, the presented partition's bytes and no other byte of HBM; a read that falls on an unmapped page reads all ones there
and sets FN_ERROR.UNMAPPED. A failed device read is reported through AER, and one that was to reload a page of a service
loses that page. The link comes up while PWRGOOD holds; VF Enable and the power state of PF0 take the values written, and a
NumVFs that changes resets every VF that exists. (15_host_interface.md, R386, R387, R389, R390, R409, R410, R411) -/
def Obligations.RegisterWritesReachTheirRegisters : Prop :=
  ∀ (s : State) (f : Fin 32),
    (served s f.val = true →
      (∀ (v : BitVec 32),
        (∀ e ∈ [((0x0010 : Nat), Instr.fnErrorClear f v), (0x2000, .irqCauseClear f v), (0x2004, .irqMaskWrite f v), (0x3080, .ledgerLatch f v),
            (0x4000, .tallySelect f v)], ∃ t, exec (.registerWrite f .mw0 e.1 (leBytes 4 v.toNat) false) s = .next t ∧ exec e.2 s = .next t) ∧
        (f.val = 0 → ∃ t, exec (.registerWrite f .mw0 0x8100 (leBytes 4 v.toNat) false) s = .next t ∧ exec (.chipLock f v) s = .next t)) ∧
      (∀ (d : Nat) (v : BitVec 64), d < 512 → ∃ t, exec (.registerWrite f .mw0 (0x1000 + 8 * d) (leBytes 8 v.toNat) false) s = .next t ∧
        exec (.producerDoorbell f d v) s = .next t ∧ exec (.consumerDoorbell f d v) s = .next t) ∧
      (∀ (o : Nat) (data : List Byte), o < 0x1000 → 0 < data.length → data.length ≤ 8 → ¬ (data.length = 8 ∧ o % 8 = 0) →
        (4 < o % 4 + data.length → exec (.registerWrite f .mw0 o data false) s = .next (setError s f.val errAlign 0 o)) ∧
        (data.length < 4 → o % 4 + data.length ≤ 4 → exec (.registerWrite f .mw0 o data false) s = .next (setError s f.val errWidth 0 o))) ∧
      (∀ (o : Nat) (data : List Byte), exec (.registerWrite f .mw0 o data true) s =
        .next (emit (setError s f.val errPoison 0 o) (.aer f.val "poisoned"))) ∧
      (∀ (a : Nat) (q : Part), presented s f.val = some q →
        (∀ n, (∀ k, k < n → (q.phys (a + k)).isSome = true) →
          exec (.mw4Access f a (.read n none)) s = .next (emit s (.readData f.val ((List.range n).map fun k =>
            Mem.read s.work.hbm ((q.phys (a + k)).getD 0))))) ∧
        (∀ n, (∃ k, k < n ∧ q.phys (a + k) = none) → ∃ t more, exec (.mw4Access f a (.read n none)) s = .next t ∧ t.work = s.work ∧
          (getFn t f.val).error.getLsbD errUnmapped = true ∧
          t.sent = s.sent ++ more ++ [.readData f.val ((List.range n).map fun k => match q.phys (a + k) with
            | some x => Mem.read s.work.hbm x
            | none => 0xFF)]) ∧
        (∀ data : List Byte, (∀ k, k < data.length → (q.phys (a + k)).isSome = true) →
          ∃ t, exec (.mw4Access f a (.write data false)) s = .next t ∧ t.host = s.host ∧ t.sent = s.sent ∧
            (∀ x, (∀ k, k < data.length → q.phys (a + k) ≠ some x) → Mem.read t.work.hbm x = Mem.read s.work.hbm x) ∧
            (∀ k x, k < data.length → q.phys (a + k) = some x → (∀ l, k < l → l < data.length → q.phys (a + l) ≠ some x) →
              Mem.read t.work.hbm x = nth 0 data k)))) ∧
    (∀ g : Fin 32, exec (.dmaReadTimeout (.other g)) s = .next (emit s (.aer g "completion timeout")) ∧
      exec (.deviceReadFailure (.other g)) s = .next (emit s (.aer g "unsuccessful completion"))) ∧
    (s.sys.pwrgood = true → ∃ t, exec .pcieLinkUp s = .next t ∧ t.host.chip.linkUp = true ∧ t.sys.perstN = true ∧ t.work = s.work ∧
      t.host.tills = s.host.tills) ∧
    (∀ (svc page : Nat) (v : Svc), getSvc s svc = some v → v.loading = some page →
      exec (.dmaReadTimeout (.reload svc page)) s = .next (emit (losePage s svc page) (.aer v.overflowFn "completion timeout")) ∧
      exec (.deviceReadFailure (.reload svc page)) s = .next (emit (losePage s svc page) (.aer v.overflowFn "unsuccessful completion"))) ∧
    (∀ n : Nat, s.host.chip.vfEnable = true → s.host.chip.numVFs = min n 31 → ∃ t, exec (.vfEnable n) s = .next t ∧ t.host = s.host ∧ t.work = s.work) ∧
    (∀ n : Nat, s.host.chip.vfEnable = true → s.host.chip.numVFs ≠ min n 31 → ∃ t, exec (.vfEnable n) s = .next t ∧
      t.host.chip.vfEnable = true ∧ t.host.chip.numVFs = min n 31 ∧
      ∀ g : Fin 32, g.val ≠ 0 → present s g.val = true → (getFn t g.val).resetting = true) ∧
    (∀ n : Nat, s.host.chip.vfEnable = false → exec (.vfEnable n) s = .next (updChip s fun c => { c with vfEnable := true, numVFs := min n 31 })) ∧
    (∀ on : Bool, exec (.d3hotTransition on) s = .next (updChip s fun c => { c with d3hot := on }))

/-- A soft reset of a function that no reset runs for, a function-level reset of a VF, a VF disable, a function-level reset of
PF0 and a conventional reset outside a restart begin a reset of each function in scope: it is marked, the tills that it
holds stop, its monitors go, its work is aborted and its commands in progress are forgotten; VF Enable clears where the
table says, and the link is down after PERST_N or a link loss. During a restart the resets wait for READY. When the reset is done, the function has no session and no error, its registers have their reset values, its
function tills run empty, and after a soft reset IRQ_CAUSE.RESET_DONE is set and the MSI-X table is kept. (15_host_interface.md, R395, R412, R413) -/
def Obligations.FunctionResetsBeginAndEnd : Prop :=
  ∀ (s : State) (f : Fin 32),
    (let begun := fun (s : State) (g : Fin 32) (soft : Bool) =>
       overflowReset (forgetTickets (abortOwned (updWork ((heldTills s g).foldl stopTill (updFn s g.val fun k => { k with resetting := true, softReset := soft }))
         fun w => { w with monitors := w.monitors.filter fun m => m.src ≠ .fn g }) (.fn g)) (.fn g)) g.val
     (s.sys.ready = true → present s f.val = true → (getFn s f.val).resetting = false →
        exec (.softReset f) s = .next (begun s f true) ∧
        (f.val ≠ 0 → exec (.functionLevelReset f) s = .next (begun s f false)) ∧
        ∀ soft, (getFn (begun s f soft) f.val).resetting = true ∧ (∀ x ∈ (begun s f soft).work.monitors, x.src ≠ .fn f) ∧
          ∀ k ∈ (begun s f soft).host.tickets, k.src ≠ .fn f)) ∧
    (∀ n, (∀ g : Fin 32, g.val ≠ 0 → present s g.val = false) → exec (.vfDisable n) s =
        .next (updChip s fun c => { c with vfEnable := decide (0 < n), numVFs := min n 31 })) ∧
    (∀ n, exec (.vfDisable n) s = .next (updChip (resetVfs s (allFns.filter fun g => present s g.val)) fun c =>
        { c with vfEnable := decide (0 < n), numVFs := min n 31 })) ∧
    (f.val = 0 → exec (.functionLevelReset f) s = .next (beginFnReset (updChip (resetVfs s (allFns.filter fun g => present s g.val)) fun c =>
        { c with vfEnable := false, numVFs := 0 }) f false)) ∧
    (s.sys.boot = none → exec (.pcieConventionalReset .hotReset) s = .next (conventionalReset s) ∧
      ∀ cause, ∃ t, exec (.pcieConventionalReset cause) s = .next t ∧ t.host.chip.vfEnable = false ∧ t.host.chip.numVFs = 0 ∧
        t.host.chip.d3hot = false ∧ (cause ≠ .hotReset → t.host.chip.linkUp = false) ∧ (cause = .perst → t.sys.perstN = false) ∧
        ∀ g : Fin 32, (getFn t g.val).resetting = true) ∧
    (s.sys.boot ≠ none → ∀ cause, ∃ t, exec (.pcieConventionalReset cause) s = .next t ∧ t.sys.resetAfterReady = true ∧
      (cause ≠ .hotReset → t.host.chip.linkUp = false) ∧ t.work = s.work ∧ ∀ g, getFn t g = getFn s g) ∧
    ((getFn s f.val).resetting = true →
      ∃ t, exec (.functionResetDone f) s = .next t ∧ (getFn t f.val).resetting = false ∧ (getFn t f.val).session = none ∧
        (getFn t f.val).error = 0 ∧ (getFn t f.val).dbEnable = false ∧ (getFn t f.val).quiesce = false ∧
        ((getFn s f.val).softReset = true → (getFn t f.val).irqCause = 8 ∧ (getFn t f.val).msixTable = (getFn s f.val).msixTable) ∧
        ((getFn s f.val).softReset = false → getFn t f.val = Fn.reset) ∧
        (∀ k, k < 3 → (getTill t (fnTill f.val k)).state = .running ∧ (getTill t (fnTill f.val k)).used = 0 ∧
          (getTill t (fnTill f.val k)).kind = BitVec.ofNat 3 k) ∧
        t.work = s.work)

/-- CELL_START with fields in range, regions mapped and ports free, of a cell that does not exist, places and installs both jobs
and waits for the uplink job's first epoch. On a started cell: a FAPI segment that continues its message is kept, the last
one carries the message out, and one out of order discards what came before and answers E_STATE; CELL_STOP with NOW stops
the cell at once, without NOW after the slot on air; CELL_STATS writes its record and answers the length, and with CLEAR the
counters are 0. VDONE settles the die's point; FLOOR_RAISE_TIMEOUT of a slewing die refuses the load that waits for it. What FLOOR_RAISE_TIMEOUT
answers and the cell images are the model's choice (logs 66, 85). (16_command_messages.md, R437, R438, R439, R238, R480, R217) -/
def Obligations.CellCommandsAndFloors : Prop :=
  ∀ (s : State) (m : Msg) (t : State) (c : Ctx),
    (∀ (q : Part), Carried s 0x0801 0x102 144 m t c → cellFieldsOk c = true → getPart t (c.f 0x11 1) = some q → hostOf t m.src (c.f 0x11 1) = true →
        q.allowLc = true → cellRegionsOk t q c = true → getCell t (c.f 0x10 1) = none → loadedCount t + 2 ≤ 256 →
        (let cfg := hbmBytes t q (c.f 0x80 8) cellConfigBytes
         let h := t.work.nextJob
         let mk := fun (kind : JobKind) (img : List Byte) => newJob (c.f 0x11 1) c.m.src kind img 0 0 0 0 0
         ∀ up down, cellConfigOk c cfg = true → cellPorts t q c cfg = none →
          placeFully t 0 (mk (.cellUp (c.f 0x10 1)) (cellUplinkImage c.m.body cfg)) = .inl up →
          placeFully (putJob t h up) 0 (mk (.cellDown (c.f 0x10 1)) (cellDownlinkImage c.m.body cfg)) = .inl down →
          ∃ t', exec (.cellStart m) s = .next t' ∧ t' = waits (settleLoads (settleRinses (putCell (installJob (installJob t c.tid up) c.tid down)
              (c.f 0x10 1) (newCell c cfg h (h + 1))))) ∧
            ∃ x, getCell t' (c.f 0x10 1) = some x ∧ x.up = h ∧ x.down = h + 1 ∧ x.starting = some c.tid ∧ x.part = c.f 0x11 1)) ∧
    (let ci := c.f 0x10 1
     ∀ (x : Cell), ci ≤ 47 → startedCell t ci = some x → hostOf t m.src x.part = true →
      (∀ len, 24 ≤ len → len ≤ 4096 → len % 8 = 0 → Carried s 0x0800 0x102 len m t c → 1 ≤ c.f 0x12 1 → c.f 0x12 1 ≤ 16 → c.f 0x11 1 < c.f 0x12 1 →
        c.zero 0x13 0x14 = true →
        (let part := x.fapi.getD { next := 0, segs := c.f 0x12 1, len := c.f 0x14 4, bytes := [] }
         let bytes := part.bytes ++ c.m.body.drop 8
         let follows := c.f 0x11 1 = part.next ∧ c.f 0x12 1 = part.segs ∧ c.f 0x14 4 = part.len
         (follows → c.f 0x11 1 + 1 < c.f 0x12 1 → exec (.fapiTunnel m) s = .next (answered (updCell t ci fun x =>
            { x with fapi := some { next := c.f 0x11 1 + 1, segs := c.f 0x12 1, len := c.f 0x14 4, bytes := bytes } }) c (Done.of eOk))) ∧
         (follows → c.f 0x11 1 + 1 = c.f 0x12 1 → exec (.fapiTunnel m) s = .next (answered
            (fapiWhole (updCell t ci fun x => { x with fapi := none }) ci (bytes.take (c.f 0x14 4))) c (Done.of eOk))) ∧
         (¬ follows → exec (.fapiTunnel m) s = .next (answered (updCell t ci fun x => { x with fapi := none }) c (Done.of eState))))) ∧
      (Carried s 0x0802 0x102 24 m t c → c.zero 0x12 0x18 = true →
        (c.f 0x11 1 = 1 → ∃ t', exec (.cellStop m) s = .next t' ∧ t' = waits (stopNow t ci x c.tid) ∧ getCell t' ci = none ∧
          ∀ k ∈ t'.host.tickets, k.id ≠ c.tid) ∧
        (c.f 0x11 1 = 0 → x.stopping = none → exec (.cellStop m) s = .next (waits (stopLater t ci x c.tid)))) ∧
      (∀ q : Part, Carried s 0x0803 0x102 32 m t c → c.f 0x11 1 < 2 → c.zero 0x12 0x18 = true → aligned (c.f 0x18 8) 64 = true →
        (c.f 0x11 1 = 1 → 0x106 ≤ c.ver) → getPart t x.part = some q → q.holds (c.f 0x18 8) (cellRecord x).length = true →
        (let w := hbmWrite t x.part (c.f 0x18 8) (cellRecord x)
         exec (.cellStats m) s = .next (answered (if c.f 0x11 1 = 1 then putCell w ci x.cleared else w) c ⟨eOk, (cellRecord x).length, 0, 0, 0⟩)))) ∧
    (∀ die : Nat, (getDie s die).slewing = true →
      (∃ t, exec (.vdone die) s = .next t ∧ (getDie t die).slewing = false ∧ (getDie t die).settled = (getDie s die).target ∧
        (getDie t die).commanded = [] ∧ (∀ d, d ≠ die → getDie t d = getDie s d) ∧ ∀ l ∈ t.work.loading, die ∉ l.floor) ∧
      (∀ l : Loading, s.work.loading = [l] → l.handle ≠ 0 → die ∈ l.floor → ∃ t, exec (.floorRaiseTimeout die) s = .next t ∧ t = refuseLoad s l ∧
        t.work.loading = [] ∧ getJob t l.handle = none ∧ ∀ k ∈ t.host.tickets, k.id ≠ l.ticket))

/-- Commands of a root source, PF0 or management: SELFTEST of a legal scope, with presence where scope 2 needs it, of units that
no running latency-critical job claims, opens a test that waits. FW_STAGE of mapped bytes, with nothing staging and no
trial, empties the inactive slot and begins staging. FW_ACTIVATE of a staged version writes the commit record on trial and
answers OK, and with RESTART restarts warm. LC_ADVANCE by a listed transition whose presence is held makes it. MEND_UPDATE
of a unit that is in the field map answers the enabled cores; a re-enabling opens a test. SEAL_ARM arms the monitor where
the loop is closed and answers its former state. (16_command_messages.md, R440, R504, R508, R522, R531, R533, R534) -/
def Obligations.RootCommandsTestStageAndMend : Prop :=
  ∀ (s : State) (m : Msg) (t : State) (c : Ctx), isRoot m.src = true →
    (Carried s 0x0B00 0x100 32 m t c → c.f 0x10 1 ≤ 2 → c.zero 0x12 0x14 = true →
        (c.f 0x10 1 = 2 → presence t = true ∧ loadedCount t = 0 ∧ bistRuns t = false) →
        (let units := (testUnits c).filter fun u => !disabled t u.kind u.index
         units.any (lcClaims t) = false → exec (.selftest m) s = .next (waits (settleTests (updRel t fun r => { r with tests := r.tests ++
          [{ ticket := c.tid, scope := c.f 0x10 1, since := nowNs t, todo := units, begun := [], tested := 0, failed := [] }] }))))) ∧
    (∀ q : Part, Carried s 0x0B01 0x100 32 m t c → NamesPart t c q → q.holds (c.f 0x18 8) (c.f 0x14 4) = true → stagingBusy t = false →
        (commitRec t).trial = false →
        exec (.fwStage m) s = .next (waits (updSec (writeInactive t FwSlot.empty) fun y =>
          { y with staging := some { ticket := c.tid, image := hbmBytes t q (c.f 0x18 8) (c.f 0x14 4) }, stagedVersion := 0 }))) ∧
    (Carried s 0x0B02 0x100 24 m t c → c.f 0x10 1 < 2 → c.zero 0x11 0x18 = true → stagingBusy t = false → t.sec.stagedVersion ≠ 0 →
        presence t = true ∨ lowerStaged t = false →
        (let w := complete (writeCommit t { commitRec t with trial := true, tries := 0, trialVersion := (slotOf t (!(commitRec t).active)).version, trialSvn := (slotOf t (!(commitRec t).active)).svn }) c.tid (Done.of eOk)
         exec (.fwActivate m) s = .next (waits (if c.f 0x10 1 = 1 then warmRestart w false else w)))) ∧
    (Carried s 0x0B03 0x100 24 m t c → c.zero 0x11 0x18 = true → lcPresent t (c.f 0x10 1) = true →
        (t.sec.lc = lcMaker → c.f 0x10 1 = lcSealed → t.sec.certStored = true → exec (.lcAdvance m) s = .next (answered
          (updSec t fun x => { x with fuses := { x.fuses with stage := lcSealed }, lc := lcSealed }) c (Done.of eOk))) ∧
        (t.sec.lc = lcSealed → c.f 0x10 1 = lcService → t.sec.fuses.transitions < 64 → exec (.lcAdvance m) s = .next (answered
          (updSec t fun x => { x with fuses := { x.fuses with transitions := x.fuses.transitions + 1 }, serviceFlag := true, lc := lcService })
          c (Done.of eOk))) ∧
        (t.sec.lc = lcService → c.f 0x10 1 = lcSealed → exec (.lcAdvance m) s = .next (answered
          (updSec t fun x => { x with fuses := { x.fuses with transitions := x.fuses.transitions + 1 }, serviceFlag := false, lc := lcSealed })
          c (Done.of eOk))) ∧
        (t.sec.lc = lcSealed ∨ t.sec.lc = lcService → c.f 0x10 1 = lcReturned → t.work.parts = [] → exec (.lcAdvance m) s = .next (waits
          (warmRestart (complete (updSec t fun x => { x with saks := [], ownerSeed := none, fuses := { x.fuses with stage := lcReturned }, serviceFlag := false, lc := lcReturned }) c.tid (Done.of eOk)) false))) ∧
        (t.sec.lc = lcSealed ∨ t.sec.lc = lcService ∨ t.sec.lc = lcReturned → c.f 0x10 1 = Sys2Proof.Machine.lcVoid → t.work.parts = [] →
          exec (.lcAdvance m) s = .next (waits
          (warmRestart (complete (updSec t fun x => { x with saks := [], ownerSeed := none, fuses := { x.fuses with stage := Sys2Proof.Machine.lcVoid }, serviceFlag := false, lc := Sys2Proof.Machine.lcVoid }) c.tid (Done.of eOk)) false)))) ∧
    (let u : UnitId := ⟨c.f 0x11 1, c.f 0x12 2⟩
     Carried s 0x0B04 0x100 24 m t c → u.kind ≤ 3 → u.index < kindCount u.kind → c.zero 0x14 0x18 = true →
        (c.f 0x10 1 = 0 → disabled t u.kind u.index = true → u ∉ t.rel.volatile → u ∉ t.rel.pendingUnits →
          exec (.mendUpdate m) s = .next (answered t c ⟨eOk, enabledCount t, 0, 0, 0⟩)) ∧
        (c.f 0x10 1 = 1 → 0x201 ≤ c.ver → presence t = true → u ∈ fieldMap t ∨ u ∈ t.rel.mapPending ∨ u ∈ t.rel.volatile →
          exec (.mendUpdate m) s = .next (waits (updTest (updRel t fun r => { r with tests := r.tests ++
            [{ ticket := c.tid, scope := 3, since := nowNs t, todo := [u], begun := [], tested := 0, failed := [] }] }) u fun x => { x with slice := 0 })))) ∧
    (Carried s 0x0B05 0x100 16 m t c → presence t = true →
        exec (.sealArm m) s = .next (answered (updSec t fun x =>
          { x with sealArmed := !t.sec.loopOpen, sealState := if t.sec.loopOpen then 2 else 0 }) c ⟨eOk, t.sec.sealState, b2n (!t.sec.loopOpen), 0, 0⟩))

/-- A debug command of PF0 or management that names an enabled core: DBG_HALT answers OK where the unit is halted and otherwise
waits with a stop pending; DBG_STEP of a halted unit lets it go and waits for its next boundary; DBG_RESUME lets it run;
DBG_READ of OBJECT 0 to 2 writes the registers, or 1,024 words of X or Y memory, into mapped pages of the job's partition
and answers the length. EVENT_BOUNDARY_STOP: a signal unit that runs, is not halted, has a stop pending and stands at an
event boundary is halted, and the debug commands that waited for it complete; where the stop ends the program, the program
ends. (16_command_messages.md, R431, R441, R166, R167) -/
def Obligations.DebugCommandsActOnTheNamedCore : Prop :=
  ∀ (s : State) (m : Msg) (t : State) (c : Ctx) (p : Nat), isRoot m.src = true → physicalCore t (c.f 0x10 1) = some p → c.f 0x11 1 = 0 →
    (Carried s 0x0C00 0x100 24 m t c → c.zero 0x12 0x18 = true → signalRuns t p = true →
      ((getEng t p).sig.halted = true → exec (.dbgHalt m) s = .next (answered t c (Done.of eOk))) ∧
      ((getEng t p).sig.halted = false → exec (.dbgHalt m) s = .next (waits (updSig t p fun u =>
        { u with stopPending := true, haltTickets := u.haltTickets ++ [c.tid] })))) ∧
    (Carried s 0x0C01 0x100 24 m t c → c.zero 0x12 0x18 = true → (getEng t p).sig.halted = true →
      exec (.dbgStep m) s = .next (waits (updSig t p fun u =>
        { u with halted := false, stopPending := true, mustMove := true, haltTickets := u.haltTickets ++ [c.tid] }))) ∧
    (Carried s 0x0C02 0x100 24 m t c → c.zero 0x12 0x18 = true → (getEng t p).sig.halted = true →
      exec (.dbgResume m) s = .next (answered (updSig t p fun u => { u with halted := false }) c (Done.of eOk))) ∧
    (∀ (e : Nat × Job) (q : Part) (d : List Byte), Carried s 0x0C03 0x100 40 m t c → c.zero 0x13 0x14 = true → c.zero 0x20 0x28 = true →
      (debugJobs t m.src p).head? = some e → getPart t e.2.part = some q → q.holds (c.f 0x18 8) d.length = true →
      (c.f 0x12 1 = 0 ∧ d = padTo 256 ((Config.sigRegisters (getEng t p).sig.registers).take 256)) ∨
        (c.f 0x12 1 = 1 ∧ c.f 0x14 4 + 1024 ≤ 32768 ∧ d = wordDump (getEng t p).sig.x (c.f 0x14 4)) ∨
        (c.f 0x12 1 = 2 ∧ c.f 0x14 4 + 1024 ≤ 32768 ∧ d = wordDump (getEng t p).sig.y (c.f 0x14 4)) →
      exec (.dbgRead m) s = .next (answered (hbmWrite t e.2.part (c.f 0x18 8) d) c ⟨eOk, d.length, 0, 0, 0⟩)) ∧
    (∀ k : Nat, (getEng s k).sig.stopPending = true → (getEng s k).sig.running = true → (getEng s k).sig.halted = false →
      (getEng s k).sig.boundary = true →
      exec (.eventBoundaryStop k []) s = .next (if (getEng s k).sig.stopEnds then updSig s k SigUnit.stopped
        else (getEng s k).sig.haltTickets.foldl (fun s t => finish s t (Done.of eOk))
          (updSig s k fun u =>
            { u with
              halted := true, stopPending := false, haltTickets := [], mustMove := false
              guarded := if u.mustMove then none else u.guarded })))

/-- On a MAC that is up, a frame of 64 bytes or more with a bad FCS, one longer than 9,216 bytes, an untagged one of no
protocol, one of an unknown VLAN or with two tags, and one without a valid MACsec tag where its class wants one each raise
their own counter by one, and every frame received without error raises RX_FRAMES; a tag that verifies under the newer AN ends
the older one. On a MAC that is down, and of a shorter frame, nothing changes. An LLDPDU is counted. LLDP_SEND puts an
untagged LLDPDU, and one in each management VLAN, on every MAC that is up; ESMC_SEND an ESMC PDU. A link has a speed to come
up with and counts its loss. CLEAR zeroes the counters alone; MACSEC_CONTROL takes its fields where a transmit key is held;
a received quality level, or its timeout, is kept for the source on that MAC. (17_network_timing_and_link.md, R448, R449, R452, R453, R458) -/
def Obligations.MacsClassifyCountAndSend : Prop :=
  ∀ (s : State) (mac : Nat),
    ((getMac s mac).up = false →
      (∀ fr : RxFrame, exec (.frameDrop mac fr) s = .next s) ∧ exec (.lldpdu mac) s = .next s ∧ ∀ ql, exec (.esmcPdu mac ql) s = .next s) ∧
    (∀ fr : RxFrame, fr.length < 64 → exec (.frameDrop mac fr) s = .next s) ∧
    ((getMac s mac).up = true →
      (∀ (fr : RxFrame), 64 ≤ fr.length →
        (fr.fcsOk = false → exec (.frameDrop mac fr) s = .next (updMac s mac fun m => { m with fcsErr := satInc m.fcsErr 1 })) ∧
        (fr.fcsOk = true → 9216 < fr.length → exec (.frameDrop mac fr) s = .next (updMac s mac fun m => { m with oversize := satInc m.oversize 1 })) ∧
        (fr.fcsOk = true → fr.length ≤ 9216 →
          (fr.vlans = [] →
            (let known := fr.etherType = 0x88F7 ∨ fr.etherType = 0x88CC ∨ (fr.etherType = 0x8809 ∧ fr.esmc = true)
             (¬ known → exec (.frameDrop mac fr) s = .next (updMac (countRx s mac) mac fun m => { m with untagged := satInc m.untagged 1 })) ∧
             (known → exec (.frameDrop mac fr) s = .next (countRx s mac)))) ∧
          (∀ v, fr.vlans = [v] → vlanKind s mac v = none →
            exec (.frameDrop mac fr) s = .next (updMac (countRx s mac) mac fun m => { m with unknownVlan := satInc m.unknownVlan 1 })) ∧
          (∀ v w l, fr.vlans = v :: w :: l →
            exec (.frameDrop mac fr) s = .next (updMac (countRx s mac) mac fun m => { m with unknownVlan := satInc m.unknownVlan 1 })) ∧
          (∀ v kind, fr.vlans = [v] → vlanKind s mac v = some kind →
            (kind = 1 ∨ (getMac s mac).en = false ∨ (getMac s mac).classMask.getLsbD kind = false →
              exec (.frameDrop mac fr) s = .next (countRx s mac)) ∧
            (kind ≠ 1 → (getMac s mac).en = true → (getMac s mac).classMask.getLsbD kind = true →
              (fr.macsec = none → exec (.frameDrop mac fr) s =
                .next (updMac (countRx s mac) mac fun m => { m with macsecDrop := satInc m.macsecDrop 1 })) ∧
              (∀ an, fr.macsec = some an →
                (rxAccepts s mac an = false → exec (.frameDrop mac fr) s =
                  .next (updMac (countRx s mac) mac fun m => { m with macsecDrop := satInc m.macsecDrop 1 })) ∧
                (rxAccepts s mac an = true → an ≠ (getMac s mac).rxNew → exec (.frameDrop mac fr) s = .next (countRx s mac)) ∧
                (rxAccepts s mac an = true → an = (getMac s mac).rxNew → exec (.frameDrop mac fr) s =
                  .next (updMac (countRx s mac) mac fun m => { m with rxAn := some an }))))))) ∧
      exec (.lldpdu mac) s = .next (updMac (countRx s mac) mac fun m => { m with lldpRx := satInc m.lldpRx 1 }) ∧
      (s.net.timing.esmcEn = false → ∀ ql, exec (.esmcPdu mac ql) s = .next (countRx s mac)) ∧
      (∀ ql : BitVec 4, s.net.timing.esmcEn = true →
        ∃ t, exec (.esmcPdu mac ql) s = .next t ∧ t.work = s.work ∧ t.host = s.host ∧
          (s.net.timing.src0.toNat = mac → t.net.timing.qlRx0 = ql ∧ t.net.timing.esmcTimeout0 = false) ∧
          (s.net.timing.src0.toNat ≠ mac → t.net.timing.qlRx0 = s.net.timing.qlRx0 ∧ t.net.timing.esmcTimeout0 = s.net.timing.esmcTimeout0) ∧
          (s.net.timing.src1.toNat = mac → t.net.timing.qlRx1 = ql ∧ t.net.timing.esmcTimeout1 = false) ∧
          (s.net.timing.src1.toNat ≠ mac → t.net.timing.qlRx1 = s.net.timing.qlRx1 ∧ t.net.timing.esmcTimeout1 = s.net.timing.esmcTimeout1))) ∧
    (∃ t, exec (.esmcTimeout 0) s = .next t ∧ t.net.timing.qlRx0 = 0xF ∧ t.net.timing.esmcTimeout0 = true ∧ t.net.timing.qlRx1 = s.net.timing.qlRx1) ∧
    (∃ t, exec (.esmcTimeout 1) s = .next t ∧ t.net.timing.qlRx1 = 0xF ∧ t.net.timing.esmcTimeout1 = true ∧ t.net.timing.qlRx0 = s.net.timing.qlRx0) ∧
    (∃ t, exec .lldpSend s = .next t ∧ t.work = s.work ∧ t.host = s.host ∧ ∀ m ∈ upMacs s,
      Output.frame m "lldp" (beBytes 6 0x0180C200000E ++ beBytes 6 (s.net.macBase.toNat + m) ++ beBytes 2 0x88CC ++ lldpBytes s m) ∈ t.sent ∧
      ∀ v ∈ vlansOf s m, v.kind = 3 → Output.frame m "lldp" (beBytes 6 0x0180C200000E ++ beBytes 6 (s.net.macBase.toNat + m) ++ beBytes 2 0x8100 ++
        beBytes 2 v.vid ++ beBytes 2 0x88CC ++ lldpBytes s m) ∈ t.sent) ∧
    (s.net.timing.esmcEn = false → exec .esmcSend s = .next s) ∧
    (s.net.timing.esmcEn = true → ∃ t, exec .esmcSend s = .next t ∧ t.work = s.work ∧ t.host = s.host ∧ ∀ m ∈ upMacs s,
      Output.frame m "esmc" (beBytes 6 0x0180C2000002 ++ beBytes 6 (s.net.macBase.toNat + m) ++ beBytes 2 0x8809 ++
        esmcBytes s.net.timing.qlTx.toNat false) ∈ t.sent) ∧
    (mac < s.net.macs.length →
      (∀ up, ∃ t, exec (.ethLinkChange mac up) s = .next t ∧ (getMac t mac).up = (up && decide ((getMac s mac).speed ≠ 0)) ∧
        (getMac t mac).linkDown = (if (getMac s mac).up = true ∧ up = false then satInc (getMac s mac).linkDown 1 else (getMac s mac).linkDown) ∧
        (getMac t mac).speed = (getMac s mac).speed ∧ (∀ k, k ≠ mac → getMac t k = getMac s k) ∧ t.work = s.work ∧ t.host = s.host) ∧
      (∀ v : BitVec 32, served s 0 = true →
        (v.getLsbD 0 = false → exec (.macCounterClear mac v) s = .next s) ∧
        (v.getLsbD 0 = true → ∃ t, exec (.macCounterClear mac v) s = .next t ∧
          (getMac t mac) = { Mac.reset with
            up := (getMac s mac).up, speed := (getMac s mac).speed, en := (getMac s mac).en, classMask := (getMac s mac).classMask,
            xpn := (getMac s mac).xpn, txAn := (getMac s mac).txAn, rxNew := (getMac s mac).rxNew, rxAn := (getMac s mac).rxAn } ∧
          (getMac t mac).rxFrames = 0 ∧ (getMac t mac).txFrames = 0 ∧ (∀ k, k ≠ mac → getMac t k = getMac s k) ∧
          (getMac t mac).fcsErr = 0 ∧ (getMac t mac).unknownVlan = 0 ∧ (getMac t mac).svcBad = 0 ∧ (getMac t mac).linkDown = 0 ∧
          (getMac t mac).up = (getMac s mac).up ∧ (getMac t mac).en = (getMac s mac).en ∧ (getMac t mac).classMask = (getMac s mac).classMask) ∧
        (v.getLsbD 0 = true → sakValid s (sakSlot mac 0 (v.getLsbD 6)) = false →
          exec (.macsecControl mac v) s = .next (valueError s (0x8E04 + 64 * mac))) ∧
        (v.getLsbD 0 = false ∨ sakValid s (sakSlot mac 0 (v.getLsbD 6)) = true →
          ∃ t, exec (.macsecControl mac v) s = .next t ∧ (getMac t mac).en = v.getLsbD 0 ∧ (getMac t mac).classMask = v.extractLsb' 1 4 ∧
            (getMac t mac).xpn = v.getLsbD 5 ∧ (getMac t mac).txAn = v.getLsbD 6 ∧ (getMac t mac).rxFrames = (getMac s mac).rxFrames)))

/-- A PTP message, untagged or in the port's own PTP VLAN, of the device's domain on an enabled port whose MAC is up is taken: a
one-step Sync on the SLAVE port keeps t2 - t1 and, once the path delay is known, the offset, and a two-step one is counted as
unsupported; a Delay_Req on a MASTER port is answered with the corrected time of arrival; a Delay_Resp on the SLAVE port gives
the mean path delay; an Announce of a better master, of the parent, or on a port without one gives the port its parent; a
request for a message is granted by a MASTER port alone, and a cancellation ends grants. A message on a port that does not
take it does nothing beyond its counters. A MASTER port's Sync and Announce, and the SLAVE port's Delay_Req, leave with the
next sequence number. A port that loses its parent forgets its measurements. The order of masters, the port states and the
clock identity are the model's choice (log 65). (17_network_timing_and_link.md, R448, R456, R457, R463) -/
def Obligations.PtpPortsFollowAndServe : Prop :=
  ∀ (s : State) (rx : PtpRx),
    ((ptpTakes s rx).2 = none →
      (∀ two t1 corr, exec (.ptpSync rx two t1 corr) s = .next (ptpTakes s rx).1) ∧
      (∀ who seq, exec (.ptpDelayReq rx who seq) s = .next (ptpTakes s rx).1) ∧
      (∀ t4 corr, exec (.ptpDelayResp rx t4 corr) s = .next (ptpTakes s rx).1) ∧
      (∀ a, exec (.ptpAnnounce rx a) s = .next (ptpTakes s rx).1) ∧
      (∀ peer sig, exec (.ptpSignaling rx peer sig) s = .next (ptpTakes s rx).1)) ∧
    ((getMac s rx.mac).up = false → ptpTakes s rx = (s, none)) ∧
    ((getMac s rx.mac).up = true → (getPtp s rx.mac).en = true → rx.domain = s.net.timing.domain.toNat →
      rx.vlan = none ∨ ((getPtp s rx.mac).tagged = true ∧ rx.vlan = some (getPtp s rx.mac).vlan.toNat ∧
        vlanKind s rx.mac (getPtp s rx.mac).vlan.toNat = some 1) →
      (let q := getPtp s rx.mac
       let w := countRx s rx.mac
       ptpTakes s rx = (w, some q) ∧
       (∀ t1 corr : Int,
         exec (.ptpSync rx true t1 corr) s = .next (ptpUnsupported w rx.mac) ∧
         (q.portState ≠ 9 → exec (.ptpSync rx false t1 corr) s = .next w)) ∧
       (∀ t1 corr : Int, q.portState = 9 →
         (let ms := (rx.raw - q.asymIngress.toInt) - (t1 + corr)
          (q.mean = none → exec (.ptpSync rx false t1 corr) s = .next (updPtp w rx.mac fun q => { q with msDelay := some ms })) ∧
          (∀ d, q.mean = some d → ∃ t, exec (.ptpSync rx false t1 corr) s = .next t ∧ (getPtp t rx.mac).msDelay = some ms ∧
            t.net.timing.offset = BitVec.ofInt 32 ((ms - d - q.delayAsym.toInt) / 256) ∧ t.net.timing.present = true ∧ t.work = s.work))) ∧
       (∀ (who : BitVec 80) (seq : BitVec 16),
         (q.portState ≠ 6 ∨ (s.net.timing.profile = true ∧ who.toNat ∉ q.peers 9) → exec (.ptpDelayReq rx who seq) s = .next w) ∧
         (q.portState = 6 → s.net.timing.profile = false ∨ who.toNat ∈ q.peers 9 →
           (let st := ptpStamp (rx.raw - q.asymIngress.toInt)
            exec (.ptpDelayReq rx who seq) s = .next (sendPtp w rx.mac "delay_resp" [who.toNat]
              (ptpMessage w rx.mac 9 seq.toNat st.2 (-4) (st.1 ++ beBytes 10 who.toNat)))))) ∧
       (∀ t4 corr : Int, q.portState ≠ 9 ∨ q.msDelay = none ∨ q.t3 = none → exec (.ptpDelayResp rx t4 corr) s = .next w) ∧
       (∀ t4 corr ms t3 : Int, q.portState = 9 → q.msDelay = some ms → q.t3 = some t3 →
         (let d := (ms + (t4 - corr - t3)) / 2
          exec (.ptpDelayResp rx t4 corr) s = .next (updPtp w rx.mac fun q =>
            { q with mean := some d, meanPathDelay := BitVec.ofInt 32 (d / 256), t3 := none }))) ∧
       (∀ a : Announced,
         (let p : Parent :=
            { identity := a.identity, clockClass := a.clockClass, accuracy := a.accuracy, variance := a.variance, priority2 := a.priority2, utcOffset := a.utcOffset, leap61 := a.leap61, leap59 := a.leap59 }
          let take := ∀ old, q.parent = some old → old.identity = p.identity ∨ lexLt p.rank old.rank = true
          (take → ∃ t, exec (.ptpAnnounce rx a) s = .next t ∧ t.work = s.work ∧ (getPtp t rx.mac).parent = some p ∧
            ((getPtp t rx.mac).portState = 9 → t.net.timing.utcOffset = a.utcOffset ∧ t.net.timing.leap61 = a.leap61 ∧ t.net.timing.leap59 = a.leap59)) ∧
          (¬ take → exec (.ptpAnnounce rx a) s = .next (bmca w)))) ∧
       (∀ (peer : Nat) (sig : PtpSignal), s.net.timing.profile = false → exec (.ptpSignaling rx peer sig) s = .next w) ∧
       (∀ (peer type d : Nat) (i : Int), s.net.timing.profile = true →
         (let ok := q.portState = 6 ∧ ((type = 11 ∧ -3 ≤ i ∧ i ≤ 0) ∨ ((type = 0 ∨ type = 9) ∧ -7 ≤ i ∧ i ≤ 0))
          ∃ t, exec (.ptpSignaling rx peer (.request type i d)) s = .next t ∧ (getPtp t rx.mac).seq = q.seq + 1 ∧ t.work = s.work ∧
            (ok → (getPtp t rx.mac).grants = (q.grants.filter fun g => ¬ (g.1 = peer ∧ g.2.1 = type)) ++ [(peer, type, i)]) ∧
            (¬ ok → (getPtp t rx.mac).grants = q.grants) ∧ t.sent.length = s.sent.length + 1) ∧
         exec (.ptpSignaling rx peer (.grant type i d)) s = .next (updPtp w rx.mac fun q =>
           { q with granted := (q.granted.filter fun g => ¬ (g.1 = peer ∧ g.2.1 = type)) ++ (if d = 0 then [] else [(peer, type, i)]) })) ∧
       (∀ peer type, s.net.timing.profile = true → exec (.ptpSignaling rx peer (.cancel type)) s = .next (updPtp w rx.mac fun q =>
         { q with grants := q.grants.filter fun g => ¬ (g.1 = peer ∧ g.2.1 = type), granted := q.granted.filter fun g => ¬ (g.1 = peer ∧ g.2.1 = type) })))) ∧
    (∀ mac : Nat,
      ((getMac s mac).up = false ∨ (getPtp s mac).portState ≠ 6 → exec (.syncTx mac) s = .next s ∧ exec (.announceTx mac) s = .next s) ∧
      ((getMac s mac).up = false ∨ (getPtp s mac).portState ≠ 9 → ∀ raw, exec (.delayReqTx mac raw) s = .next s)) ∧
    (∀ mac : Nat, (getMac s mac).up = true →
      ((getPtp s mac).portState = 6 →
        (let st := ptpStamp (nowUnits s + (getPtp s mac).asymEgress.toInt)
         exec (.syncTx mac) s = .next (bumpSeq (sendPtp s mac "sync" ((getPtp s mac).peers 0)
           (ptpMessage s mac 0 (getPtp s mac).seq.toNat st.2 (-4) st.1)) mac)) ∧
        (∃ t body, exec (.announceTx mac) s = .next t ∧ t = bumpSeq (sendPtp s mac "announce" ((getPtp s mac).peers 11)
            (ptpMessage s mac 11 (getPtp s mac).seq.toNat 0 (-3) body)) mac ∧
          (body.drop 13).take 8 = [BitVec.ofNat 8 128, s.net.timing.clockClass, s.net.timing.accuracy] ++ beBytes 2 s.net.timing.variance.toNat ++
            [s.net.timing.priority2] ++ (body.drop 19).take 2 ∧ body.length = 30 ∧
          (getPtp t mac).seq = (getPtp s mac).seq + 1 ∧ t.work = s.work ∧ t.host = s.host)) ∧
      (∀ raw : Int, (getPtp s mac).portState = 9 → ∃ t, exec (.delayReqTx mac raw) s = .next t ∧ (getPtp t mac).seq = (getPtp s mac).seq + 1 ∧
        (getPtp t mac).t3 = some (raw + (getPtp s mac).asymEgress.toInt) ∧ t.work = s.work ∧ t.host = s.host ∧
        (s.net.timing.profile = false → t.sent.length = s.sent.length + 1))) ∧
    (∀ mac : Nat, ∃ t, exec (.ptpSourceLoss mac) s = .next t ∧ t.work = s.work ∧ t.host = s.host ∧
      (mac < s.net.ptp.length → (getPtp t mac).parent = none ∧ (getPtp t mac).msDelay = none ∧ (getPtp t mac).t3 = none ∧ (getPtp t mac).mean = none))

/-- CLK10M_IN and PPS_IN losses set their flags, and the loss of the source in use is a loss of the source; CLK10M within 50 ppm
is followed where FREQ_REF is set. A PPS edge is kept, and measures the offset where time of day names its second. A good
time-of-day message names the next second. Enabled PPS and time-of-day outputs leave. The holdover limit ends in FREE_RUN
with clockClass 165. TIME_LATCH copies device time; TIME_SET_APPLY sets it in FREE_RUN alone; the control register takes its
fields, SOURCE 0 gives FREE_RUN, another source leaves LOCKED for HOLDOVER, a source selected in HOLDOVER is acquired, and a
reserved encoding is dropped. In LOCKED the always-on clock takes the seconds. The servo's gains and the clockClass of PPS_IN
are the model's constants (log 64). (17_network_timing_and_link.md, R454, R455, R459, R460, R461, R462, R463, R465, R537) -/
def Obligations.TimeInputsOutputsAndSources : Prop :=
  ∀ (s : State),
    exec .clk10mLost s = .next (updTiming s fun t => { t with clk10mLost := true }) ∧
    (∀ rate : Int, rate.natAbs ≤ 14073748835 → exec (.clk10mRestored rate) s = .next (updTiming s fun t =>
      { t with clk10mLost := false, clk10mRate := rate, rate := if t.freqRef then rate else t.rate })) ∧
    (∀ rate : Int, 14073748835 < rate.natAbs → exec (.clk10mRestored rate) s = .next s) ∧
    (∀ pin : Int,
      (let edge := pin - s.net.timing.ppsInDelay.toInt * 65536
       let d := edge - (edge + 32768000000000) / 65536000000000 * 65536000000000
       let far := (s.net.timing.state = .locked ∨ s.net.timing.state = .holdover) ∧ 65536000 < d.natAbs
       let w := updTiming s fun t => { t with ppsLost := false, ppsEdge := some (edge / 65536).toNat, todSeconds := t.todSeconds.map (· + 1) }
       (far → exec (.ppsInEdge pin) s = .next s) ∧
       (¬ far → s.net.timing.todSeconds = none ∨ s.net.timing.source ≠ 2 ∨ s.net.timing.todLost = true → exec (.ppsInEdge pin) s = .next w) ∧
       (∀ k, ¬ far → s.net.timing.todSeconds = some k → s.net.timing.source = 2 → s.net.timing.todLost = false →
         ∃ t, exec (.ppsInEdge pin) s = .next t ∧ t.net.timing.ppsLost = false ∧
           t.net.timing.offset = BitVec.ofInt 32 ((edge - k * 65536000000000) / 256) ∧ t.net.timing.present = true ∧ t.work = s.work))) ∧
    (∃ t, exec .ppsLost s = .next t ∧ t.net.timing.ppsLost = true ∧ t.net.timing.ppsEdge = none ∧
      (s.net.timing.source = 2 → s.net.timing.linkTime = false → s.net.timing.state = .locked →
        t.net.timing.state = .holdover ∧ t.net.timing.clockClass = 135 ∧ t.net.timing.holdoverS = 0) ∧
      (s.net.timing.source ≠ 2 → t.net.timing.state = s.net.timing.state)) ∧
    (∃ t, exec .todLost s = .next t ∧ t.net.timing.todLost = true ∧ t.net.timing.todSeconds = none ∧
      (s.net.timing.source = 2 → s.net.timing.linkTime = false → s.net.timing.state = .locked → t.net.timing.state = .holdover) ∧
      (s.net.timing.source ≠ 2 → t.net.timing.state = s.net.timing.state)) ∧
    (∀ (data : List Byte) (e : Nat), s.net.timing.ppsEdge = some e → s.net.timing.todInEn = true → s.net.timing.source = 2 → data.length = 16 →
      imgLe data 0 2 = 0x4454 → imgByte data 2 = 16 → crc8 (data.take 15) = imgByte data 15 → e + 100000000 ≤ nowNs s → nowNs s ≤ e + 900000000 →
      exec (.todMessage data) s = .next (updTiming s fun t => { t with todLost := false, todSeconds := some (imgLe data 4 6 + 1) })) ∧
    (∀ (data : List Byte), s.net.timing.ppsEdge = none ∨ s.net.timing.todInEn = false ∨ s.net.timing.source ≠ 2 ∨ data.length ≠ 16 ∨
      imgLe data 0 2 ≠ 0x4454 ∨ imgByte data 2 ≠ 16 ∨ crc8 (data.take 15) ≠ imgByte data 15 ∨
      (∃ e, s.net.timing.ppsEdge = some e ∧ (nowNs s < e + 100000000 ∨ e + 900000000 < nowNs s)) → exec (.todMessage data) s = .next s) ∧
    (s.net.timing.ppsOutEn = false → exec .ppsOutEdge s = .next s) ∧
    (s.net.timing.todOutEn = false → exec .todOutMessage s = .next s) ∧
    (s.net.timing.state ≠ .holdover ∨ s.net.timing.linkTime = true → exec .holdoverLimitExpiry s = .next s) ∧
    (s.net.timing.state ≠ .locked ∨ s.sec.aonRuns = false → exec .aonClockSet s = .next s) ∧
    (s.net.timing.ppsOutEn = true → exec .ppsOutEdge s =
      .next (emit s (.timing "pps" [timeS s, s.net.timing.ppsOutDelay.toNat, s.net.timing.width.toNat]))) ∧
    (s.net.timing.todOutEn = true → ∃ d : List Nat, exec .todOutMessage s = .next (emit s (.timing "tod" d)) ∧ d.length = 16 ∧
      d.take 3 = [0x54, 0x44, 16] ∧ d[3]? = some s.net.timing.state.code) ∧
    (s.net.timing.state = .holdover → s.net.timing.linkTime = false → ∃ t, exec .holdoverLimitExpiry s = .next t ∧
      t.net.timing.state = .freeRun ∧ t.net.timing.clockClass = 165 ∧ t.net.timing.rate = s.net.timing.rate ∧ t.net.timing.time = s.net.timing.time) ∧
    (s.net.timing.state = .locked → s.sec.aonRuns = true →
      exec .aonClockSet s = .next (updSec s fun x => { x with aonS := BitVec.ofNat 32 (timeS s), aonValid := true })) ∧
    (served s 0 = true → ∀ v : BitVec 32,
      (v.getLsbD 0 = true →
        exec (.timeLatch v) s = .next (updTiming s fun t => { t with latch := t.time }) ∧
        (s.net.timing.state ≠ .freeRun → exec (.timeSetApply v) s = .next (valueError s 0x8C2C)) ∧
        (s.net.timing.state = .freeRun → s.net.timing.setNs.toNat < 1000000000 → ∃ t, exec (.timeSetApply v) s = .next t ∧
          timeS t = (s.net.timing.setHi.toNat * 2 ^ 32 + s.net.timing.setLo.toNat) % 2 ^ 64 ∧ timeSubNs t = s.net.timing.setNs.toNat ∧
          t.net.timing.state = .freeRun ∧ t.work = s.work)) ∧
      (v.getLsbD 0 = false → exec (.timeLatch v) s = .next s ∧ exec (.timeSetApply v) s = .next s) ∧
      (v.toNat % 4 = 3 → exec (.sourceWrite v) s = .next (valueError s 0x8C00)) ∧
      (let dom := (v.extractLsb' 16 8).toNat
       let ok := if v.getLsbD 2 then 44 ≤ dom ∧ dom ≤ 63 else 24 ≤ dom ∧ dom ≤ 43
       (¬ ok → exec (.sourceWrite v) s = .next (valueError s 0x8C00)) ∧
       (v.toNat % 4 ≠ 3 → ok → ∃ t, exec (.sourceWrite v) s = .next t ∧ t.net.timing.source = v.extractLsb' 0 2 ∧
         t.net.timing.profile = v.getLsbD 2 ∧ t.net.timing.bc = v.getLsbD 3 ∧ t.net.timing.ppsOutEn = v.getLsbD 4 ∧
         t.net.timing.todOutEn = v.getLsbD 5 ∧ t.net.timing.todInEn = v.getLsbD 6 ∧ t.net.timing.freqRef = v.getLsbD 7 ∧
         t.net.timing.synceEn = v.getLsbD 8 ∧ t.net.timing.domain = v.extractLsb' 16 8 ∧ t.net.timing.priority2 = v.extractLsb' 24 8 ∧
         t.work = s.work ∧
         (s.net.timing.linkTime = true → t.net.timing.state = s.net.timing.state) ∧
         (s.net.timing.linkTime = false → v.toNat % 4 ≠ 0 →
           (s.net.timing.state = .holdover → t.net.timing.state = .acquiring) ∧
           (s.net.timing.state ≠ .holdover → v.toNat % 4 = s.net.timing.source.toNat → t.net.timing.state = s.net.timing.state) ∧
           (v.toNat % 4 ≠ s.net.timing.source.toNat →
             (s.net.timing.state = .locked → t.net.timing.state = .holdover) ∧
             (s.net.timing.state = .acquiring ∨ s.net.timing.state = .freeRun → t.net.timing.state = .freeRun))))) ∧
      (v.toNat % 4 = 0 → v.getLsbD 2 = false → 24 ≤ (v.extractLsb' 16 8).toNat → (v.extractLsb' 16 8).toNat ≤ 43 →
        ∃ t, exec (.sourceWrite v) s = .next t ∧ t.net.timing.source = 0 ∧ t.net.timing.domain = v.extractLsb' 16 8 ∧
          t.net.timing.priority2 = v.extractLsb' 24 8 ∧ t.net.timing.freqRef = v.getLsbD 7 ∧
          (s.net.timing.linkTime = false → t.net.timing.state = .freeRun ∧ t.net.timing.clockClass = 248)))

/-- An enabled port of the link that is down and exchanges a hello comes up with the highest protocol both hold, marked as
miswired unless the far port has its number, and the group is to form again; a port that goes down does the same, and where
it carried a member every invocation that binds a group tally loses it. GROUP_FORM sets members, chip index, protocol and
root from the members found and loses those that are gone. A measured offset sets LINK_TIME_ERR and the state of the root,
steps time once on joining and disciplines the rate afterwards. A tile of a job with the GROUP_TAG is placed, charged and
posted; one for no loaded job is logged, and one that comes late faults its invocation. On a port that is up already, not
enabled or without a common protocol, on one that is down, in a group that stands, and on a port that carries nothing, they
change nothing. The log entry of a tile that cannot be placed is the model's choice (log 65). (17_network_timing_and_link.md, R382, R468, R469, R470, R472, R475) -/
def Obligations.RelneLinkFormsAndCarries : Prop :=
  ∀ (s : State) (port : Nat),
    (∀ (id : BitVec 64) (protocols : BitVec 8) (far priority : Nat), port < 4 → port < s.net.relne.ports.length → (getPort s port).up = false →
      s.net.relne.portEn.getLsbD port = true → protocols.getLsbD 1 = true ∨ protocols.getLsbD 2 = true →
      ∃ t, exec (.relneLinkUp port id protocols far priority) s = .next t ∧ (getPort t port).up = true ∧
        (getPort t port).protocol = (if protocols.getLsbD 2 then 2 else 1) ∧ (getPort t port).miswired = decide (far ≠ port) ∧
        (getPort t port).peerId = id ∧ t.net.relne.unsettled = true ∧ (∀ p, p ≠ port → getPort t p = getPort s p) ∧ t.work = s.work ∧
        t.net.timing = s.net.timing) ∧
    (∀ (id : BitVec 64) (protocols : BitVec 8) (far priority : Nat), 4 ≤ port ∨ (getPort s port).up = true ∨
      s.net.relne.portEn.getLsbD port = false ∨ (protocols.getLsbD 1 = false ∧ protocols.getLsbD 2 = false) →
      exec (.relneLinkUp port id protocols far priority) s = .next s) ∧
    ((getPort s port).up = false → exec (.relneLinkDown port) s = .next s) ∧
    (s.net.relne.unsettled = false → ∀ peers protocol ok, exec (.groupForm peers protocol ok) s = .next s) ∧
    (s.net.relne.followsLink = false → ∀ off code, exec (.linkTimeMeasure off code) s = .next s) ∧
    (∀ (part tag stream tile : Nat) (data : List Byte) (late : Bool),
      (linkCarries s port = false → exec (.linkTileRx port part tag stream tile data late) s = .next s) ∧
      (linkCarries s port = true → taggedJob s part tag = none → exec (.linkTileRx port part tag stream tile data late) s = .next (logConfig s 0 tag))) ∧
    (∀ (peers : List GroupPeer) (protocol : Nat) (ok : Bool), s.net.relne.unsettled = true → ok = false ∨ 15 < peers.length →
      ∃ t, exec (.groupForm peers protocol ok) s = .next t ∧ t.net.relne.members = 1 ∧ t.net.relne.chip = 0 ∧ t.net.relne.protocol = 0 ∧
        t.net.relne.root = false ∧ t.net.relne.groupFault = true ∧ t.net.relne.unsettled = false ∧ t.net.relne.others = []) ∧
    ((getPort s port).up = true →
      (let w := updRelne (updPort s port fun _ => RelnePort.down) fun r => { r with unsettled := true }
       ((getPort s port).miswired = true ∨ s.net.relne.members.toNat ≤ 1 → exec (.relneLinkDown port) s = .next w) ∧
       ((getPort s port).miswired = false → 1 < s.net.relne.members.toNat →
         exec (.relneLinkDown port) s = .next (memberLost w (s.net.relne.chip.toNat ^^^ 2 ^ port))))) ∧
    (∀ (peers : List GroupPeer) (protocol : Nat), s.net.relne.unsettled = true → peers.length ≤ 15 →
      (let own : GroupPeer := { identity := s.net.relne.identity, priority := s.net.relne.rootPriority.toNat, path := 0 }
       let root := rootOf own peers
       let lost := s.net.relne.others.filter fun o => !peers.any fun p => p.identity = o.1
       exec (.groupForm peers protocol true) s = .next (settleLinkTime (updRelne (lost.foldl (fun s o => memberLost s o.2) s) fun r =>
         { r with members := BitVec.ofNat 5 (peers.length + 1), chip := BitVec.ofNat 4 root.path, protocol := if peers.isEmpty then 0 else BitVec.ofNat 2 protocol, root := decide (root.identity = s.net.relne.identity) && !peers.isEmpty, groupFault := false, unsettled := false, others := peers.map fun p => (p.identity, p.path ^^^ root.path) })))) ∧
    (∀ (off : Int) (code : Nat), s.net.relne.followsLink = true → ∃ t, exec (.linkTimeMeasure off code) s = .next t ∧
      t.net.relne.linkTimeErr = BitVec.ofInt 32 (off / 256) ∧ t.net.relne.joined = true ∧ t.net.timing.linkTime = true ∧
      t.net.timing.state = syncOfCode code ∧ t.work = s.work ∧
      (s.net.relne.joined = true → t.net.timing.time = s.net.timing.time ∧
        t.net.timing.rate = clampInt (-rateLimit) rateLimit (Config.servo s.net.timing.integral off).2) ∧
      (s.net.relne.joined = false → t.net.timing.time = (setUnits s (nowUnits s - off)).net.timing.time ∧ t.net.timing.rate = s.net.timing.rate)) ∧
    (∀ (part tag stream tile : Nat) (data : List Byte) (h : Nat) (j : Job), linkCarries s port = true → taggedJob s part tag = some (h, j) →
      exec (.linkTileRx port part tag stream tile data true) s = .next (lateTile s h j stream) ∧
      (let w := chargeJob (placeTile s j stream tile data) h { Ledger.none with linkBytes := data.length }
       (j.producedTally stream = none → exec (.linkTileRx port part tag stream tile data false) s = .next w) ∧
       (∀ k, j.producedTally stream = some k → exec (.linkTileRx port part tag stream tile data false) s =
         .next (tallyAdd w (tallyOf w part k) 1 (sourceCode 5 (w.net.relne.chip.toNat ^^^ 2 ^ port)) (nowNs w) none).1)))

/-- At a control interval CAP_SET orders apply, and each partition gets the cap mask of the largest common clock within the
budget. The points that give the largest common clock are commanded. A late VDONE, a failed bus and their retries set and
clear AVS_FAULT; a droop trip halves the pulses of the partitions on its die until its mask ends; PROCHOT_N, the thermal
trip, flow glitches, the loss of flow (islands and links stop, HBM is kept), its restart and the end of the restart act as
the table of each says; an energy interval adds the energy of the rails and sets the mean power. The grid of the search for the
clock, the keys of the estimates and the events that are held back are the model's choice (log 16). (18_power_and_thermal.md, R483, R484, R488, R489, R490, R491, R492, R493, R494, R495) -/
def Obligations.PowerControllerSetsMasksAndPoints : Prop :=
  ∀ (s : State),
    (∀ fixed : Nat,
      (∀ o, s.power.orders = [o] → o.part = none → s.power.flowStopped = true → exec (.capControlInterval fixed) s = .next
        (finish (updPower (updPower s fun w => { w with orders := [] }) fun w => { w with capDevice := BitVec.ofNat 32 o.mw }) o.ticket
          ⟨eOk, s.power.capDevice.toNat, 0, 0, 0⟩)) ∧
      (∀ o p, s.power.orders = [o] → o.part = some p → (getPart s p).isSome = true → s.power.flowStopped = true →
        exec (.capControlInterval fixed) s = .next
          (finish (updPartPower (updPower s fun w => { w with orders := [] }) p fun w => { w with cap := o.mw }) o.ticket
            ⟨eOk, (getPartPower s p).cap, 0, 0, 0⟩)) ∧
      (∀ o p, s.power.orders = [o] → o.part = some p → getPart s p = none → s.power.flowStopped = true →
        exec (.capControlInterval fixed) s = .next (finish (updPower s fun w => { w with orders := [] }) o.ticket (Done.of eAborted))) ∧
      (s.power.flowStopped = true → exec (.capControlInterval fixed) s = .next (applyCaps s)) ∧
      (let w := applyCaps s
       w.power.flowStopped = false → (w.work.parts.map Prod.fst).Nodup →
        ∃ t, exec (.capControlInterval fixed) s = .next t ∧ t.work.parts = w.work.parts ∧
          (∀ l ∈ loadsNow w, (getPartPower t l.part).capMask = l.mask (commonClock (loadsNow w) (boundCap w - fixed))) ∧
          t.power.capShort = (w.power.capShort || ((commonClock (loadsNow w) (boundCap w - fixed)).isNone && !w.power.prochotIn))) ∧
      (s.power.orders = [] → s.power.flowStopped = false → (s.work.parts.map Prod.fst).Nodup →
        ∃ t, exec (.capControlInterval fixed) s = .next t ∧ t.work.parts = s.work.parts ∧
          (∀ l ∈ loadsNow s, (getPartPower t l.part).capMask = l.mask (commonClock (loadsNow s) (boundCap s - fixed))) ∧
          t.power.capShort = (s.power.capShort || ((commonClock (loadsNow s) (boundCap s - fixed)).isNone && !s.power.prochotIn))) ∧
      (s.power.flowStopped = false → nth false s.power.busFailed 0 = false → s.power.dies.length = 2 →
        ∃ t, exec (.diePointSelect fixed) s = .next t ∧ (getDie t 0).target = (bestPair s (boundCap s - fixed)).1 ∧
          (getDie t 1).target = (bestPair s (boundCap s - fixed)).2 ∧ t.work = s.work) ∧
      (s.power.flowStopped = true ∨ nth false s.power.busFailed 0 = true → exec (.diePointSelect fixed) s = .next s)) ∧
    (s.power.binding = false ∨ capSkips s = true → exec .capBindingEnd s = .next s) ∧
    (∀ d : Nat, (getDie s d).slewing = false ∨ (getDie s d).timedOut = true → exec (.avsSettleTimeout d) s = .next s) ∧
    (∀ (rail : Nat) (answered : Bool),
      (let bus := if rail < 2 then 0 else 1
       ((rail < 2 ∧ (getDie s rail).timedOut = true) ∨ nth false s.power.busFailed bus = true → exec (.avsRetry rail answered) s =
         .next (if answered then updPower (emit s (.avs rail (railMv s rail))) fun w => { w with busFailed := setNth w.busFailed bus false }
           else emit s (.avs rail (railMv s rail)))) ∧
       ((2 ≤ rail ∨ (getDie s rail).timedOut = false) → nth false s.power.busFailed bus = false →
         exec (.avsRetry rail answered) s = .next s))) ∧
    (s.power.prochotOut = true ∨ s.power.prochotIn = true → exec .prochotAssert s = .next s) ∧
    (s.power.flowStopped = true → s.power.flowRestart = false → exec .flowLoss s = .next s) ∧
    (s.power.flowStopped = false ∨ s.power.flowRestart = true ∨ (∃ k, k < 80 ∧ 85 * 256 ≤ tempOf s k) → exec .flowRestart s = .next s) ∧
    (s.power.flowRestart = false → exec .flowRestartDone s = .next s) ∧
    (s.power.flowRestart = true → s.sys.boot.isSome = true → exec .flowRestartDone s = .next
      (runHeld (updPower s fun w => { w with flowStopped := false, flowRestart := false }))) ∧
    (s.power.flowStopped = false ∨ s.power.flowRestart = true → ∃ t, exec .flowLoss s = .next t ∧ t.power.flowStopped = true ∧
      t.power.flowOk = false ∧ t.power.flowRestart = false ∧ t.power.flowStops = satInc s.power.flowStops 1 ∧ t.engines = [] ∧
      t.work.hbm = s.work.hbm ∧ ∀ x ∈ t.rel.tests, x.scope ≠ 2) ∧
    (s.power.binding = true → capSkips s = false →
      exec .capBindingEnd s = .next (powerEvent (updPower s fun w => { w with binding := false }) 2 s.power.power1ms.toNat)) ∧
    (∀ d : Nat, (getDie s d).slewing = true → (getDie s d).timedOut = false → exec (.avsSettleTimeout d) s =
      .next (updPower (updDie s d fun x => { x with timedOut := true }) fun w => { w with avsFault := true })) ∧
    (∀ rail : Nat, rail < 2 → (getDie s rail).timedOut = true → exec (.avsRetry rail false) s = .next (emit s (.avs rail (pointMv (getDie s rail).target)))) ∧
    (∀ rail : Nat, 2 ≤ rail → nth false s.power.busFailed 1 = true → ∃ t, exec (.avsRetry rail true) s = .next t ∧
      nth false t.power.busFailed 1 = false ∧ t.sent = s.sent ++ [.avs rail (railMv s rail)]) ∧
    (∀ bus : Nat, exec (.avsBusFailure bus) s = .next (updPower s fun w => { w with busFailed := setNth w.busFailed bus true, avsFault := true })) ∧
    ((s.work.parts.map Prod.fst).Nodup → ∀ core : Nat, dieOf core < s.power.dies.length →
      (∃ t, exec (.droopTrip core) s = .next t ∧ (getDie t (dieOf core)).droop = true ∧ (getDie t (dieOf core)).trips = (getDie s (dieOf core)).trips + 1 ∧
        t.power.thermal = true ∧ ∀ e ∈ s.work.parts, core ∈ e.2.owned → (getPartPower t e.1).droopMask = 128) ∧
      (∃ t, exec (.droopMaskEnd (dieOf core)) s = .next t ∧ (getDie t (dieOf core)).droop = false ∧
        ∀ e ∈ s.work.parts, (∀ c ∈ e.2.owned, dieOf c = dieOf core) → (getPartPower t e.1).droopMask = 256)) ∧
    (s.sys.clocks = false → ∀ temps, exec (.thermalSample temps) s = .next s) ∧
    (∀ temps : List (BitVec 16), s.sys.clocks = true → temps.length = 80 → s.power.temps.length = 80 → ∃ t, exec (.thermalSample temps) s = .next t ∧ t.power.temps = temps ∧
      t.work = s.work ∧ (∀ k, k < 80 → (nth 0 temps k).toInt ≤ t.power.tjMax.toInt) ∧
      ((s.work.parts.map Prod.fst).Nodup → ∀ e ∈ s.work.parts,
        (getPartPower t e.1).thermalMask = (thermalMask (partTemp t e.2) (getPartPower s e.1).hot).1 ∧
        (getPartPower t e.1).hot = (thermalMask (partTemp t e.2) (getPartPower s e.1).hot).2) ∧
      t.power.prochotOut = t.work.parts.any fun e => decide ((getPartPower t e.1).thermalMask < 256)) ∧
    (s.power.prochotOut = false → s.power.prochotIn = false → exec .prochotAssert s =
      .next (powerEvent (updPower s fun w => { w with prochotIn := true }) 4 s.power.power1ms.toNat)) ∧
    (∃ t, exec .prochotRelease s = .next t ∧ t.power.prochotIn = false ∧ t.work = s.work ∧ t.host = s.host) ∧
    exec .thermtrip s = .next (updSys (updPower s fun w => { w with thermtrip := true }) fun y => { y with clocks := false }) ∧
    exec .flowGlitch s = .next (updPower s fun w => { w with flowOk := true, flowGlitches := satInc w.flowGlitches 1 }) ∧
    (s.power.flowStopped = false ∨ s.power.flowRestart = true → s.rel.tests = [] → ∃ t, exec .flowLoss s = .next t ∧ t.power.flowStopped = true ∧
      t.power.flowOk = false ∧ t.power.flowRestart = false ∧ t.power.flowStops = satInc s.power.flowStops 1 ∧ t.engines = [] ∧
      t.work.hbm = s.work.hbm ∧ t.work.jobs = s.work.jobs ∧ ∀ c, (getCore t c).scratch = (getCore s c).scratch) ∧
    (s.power.flowStopped = true → s.power.flowRestart = false → (∀ k, k < 80 → tempOf s k < 85 * 256) → ∃ t, exec .flowRestart s = .next t ∧
      t.power.flowRestart = true ∧ t.power.flowOk = true ∧ t.power.flowStopped = true ∧ t.work = s.work) ∧
    (s.power.flowRestart = true → s.sys.boot = none → exec .flowRestartDone s = .next
      (runHeld (powerEvent (endStopped (updPower s fun w => { w with flowStopped := false, flowRestart := false })) 5 0))) ∧
    (∀ rails cores granules, ∃ t, exec (.energyInterval rails cores granules) s = .next t ∧
      t.power.energy = s.power.energy + BitVec.ofNat 64 (sumNat (rails.map (·.uj))) ∧ t.power.power1ms = BitVec.ofNat 32 (sumNat (rails.map (·.uj))) ∧
      t.power.capShort = false ∧ t.work.hbm = s.work.hbm)

/-- A mismatch of a serving teller pair is logged and restarts the device into recovery, as the watchdog does. The HBM scrub
drops a clean row from what it has seen, notes a row with a first corrected error, and queues for repair a row with a
second one or with an uncorrectable one. The tellers' scrub logs each find. A due or deferred test marks its unit; a slice of a core that is
admitted and idle counts, a failed one fails the unit; an engine's test ends with its outcome. What waits for the persistent
log and for the field map is written; a failed write keeps it. The full memory test makes the repairs, zeroes HBM and
scratchpads and completes its command. What a failed write keeps is the model's choice (log 87). (19_reliability.md, R498, R500, R501, R504, R506, R507, R509, R510, R515) -/
def Obligations.ReliabilityTestsScrubsAndMends : Prop :=
  ∀ (s : State),
    (∀ (pair : Nat) (p : TellerPair), s.rel.pairs[pair]? = some p → p.disabled = false → s.sys.clocks = true →
      exec (.lockstepMismatch pair) s = .next (warmRestart (updRel (log s 6 5 pair 0 0xFF 4) fun r =>
        { r with pairs := modNth r.pairs pair fun p => { p with times := (p.times.filter fun t => decide (nowNs s < t + dayNs)) ++ [nowNs s] } }) true)) ∧
    exec .tellerWatchdog s = .next (warmRestart s true) ∧
    (∀ (stack channel bank row a : Nat),
      (let key := (stack, channel, bank, row)
       exec (.hbmScrub stack channel bank row a .clean) s = .next (updRel s fun r => { r with scrubbed := r.scrubbed.filter (· ≠ key) }) ∧
       (key ∉ s.rel.scrubbed → ∃ t, exec (.hbmScrub stack channel bank row a .corrected) s = .next t ∧ key ∈ t.rel.scrubbed ∧
          t.rel.repairs = s.rel.repairs ∧ t.work = s.work) ∧
       (key ∈ s.rel.scrubbed → ∃ t, exec (.hbmScrub stack channel bank row a .corrected) s = .next t ∧ key ∉ t.rel.scrubbed ∧ t.work = s.work ∧
          ∃ e ∈ t.rel.repairs, e.isRow stack channel bank row = true ∧ e.state ≠ .done) ∧
       (∃ t, exec (.hbmScrub stack channel bank row a .uncorrected) s = .next t ∧ key ∉ t.rel.scrubbed ∧ t.work = s.work ∧
          ∃ e ∈ t.rel.repairs, e.isRow stack channel bank row = true ∧ e.state ≠ .done))) ∧
    (s.sys.clocks = true → exec (.tellerScrub []) s = .next s ∧
      (∀ f l, exec (.tellerScrub (f :: l)) s = .next (l.foldl tellerFind (tellerFind s f))) ∧
      (∀ a, (tellerFind s (.till a true)).host.badSlots.contains (a / 64) = true) ∧
      (∀ i, (getTally (tellerFind s (.tally i false)) i) = getTally s i)) ∧
    (∀ kind index : Nat, kind ≤ 3 → index < kindCount kind → disabled s kind index = false →
      (∃ t, exec (.selftestDue kind index) s = .next t ∧ (getTest t ⟨kind, index⟩).due = true ∧ t.work = s.work ∧ t.host = s.host) ∧
      ((getTest s ⟨kind, index⟩).due = true → ∃ t, exec (.selftestDeferred kind index) s = .next t ∧
        (getTest t ⟨kind, index⟩).deferred = true ∧ t.work = s.work) ∧
      (kind ≠ 0 → kind ≠ 1 → (getTest s ⟨kind, index⟩).due = true → s.sys.clocks = true → ∀ passed,
        exec (.engineTest kind index passed) s = .next (testEnds (beginTest s ⟨kind, index⟩) ⟨kind, index⟩ passed))) ∧
    (∀ (kind index : Nat) (passed : Bool),
      (let wanted := if disabled s kind index then reenabling s ⟨kind, index⟩ else (getTest s ⟨kind, index⟩).due || named s ⟨kind, index⟩
       let ended := testEnds (beginTest s ⟨kind, index⟩) ⟨kind, index⟩ passed
       (kind ≠ 0 → kind ≤ 3 → index < kindCount kind → wanted = true → s.sys.clocks = true → exec (.engineTest kind index passed) s =
         .next (if passed ∧ kind = 1 ∧ index < 16 ∧ ¬ disabled ended 3 index then passTest ended ⟨3, index⟩ else ended)) ∧
       (kind = 0 ∨ 3 < kind ∨ kindCount kind ≤ index ∨ wanted = false ∨ s.sys.clocks = false → exec (.engineTest kind index passed) s = .next s))) ∧
    (∀ (core : Nat) (passed : Bool),
      (let wanted := if disabled s 0 core then reenabling s ⟨0, core⟩ else (getTest s ⟨0, core⟩).due || named s ⟨0, core⟩
       (72 ≤ core ∨ wanted = false ∨ s.sys.clocks = false → exec (.selftestSlice core passed) s = .next s) ∧
       (core < 72 → wanted = true → s.sys.clocks = true → admissible s core = false → exec (.selftestSlice core passed) s =
         .next (settleTests (updTest s ⟨0, core⟩ fun t => { t with running := false }))))) ∧
    (∀ core : Nat, core < 72 → disabled s 0 core = false → (getTest s ⟨0, core⟩).due = true → s.sys.clocks = true → admissible s core = true →
      ((getCore s core).run.isSome = true → ∀ passed, exec (.selftestSlice core passed) s =
        .next (requestYield (updTest s ⟨0, core⟩ fun t => { t with running := true }) core)) ∧
      ((getCore s core).run = none →
        (let b := beginTest s ⟨0, core⟩
         let w := updCore { b with engines := Tbl.del b.engines core } core fun k => { k with scratch := [], tables := none }
         exec (.selftestSlice core false) s = .next (testEnds w ⟨0, core⟩ false) ∧
         ((getTest s ⟨0, core⟩).slice = 149 → exec (.selftestSlice core true) s = .next (testEnds w ⟨0, core⟩ true)) ∧
         ((getTest s ⟨0, core⟩).slice ≠ 149 → exec (.selftestSlice core true) s =
           .next (settleTests (updTest w ⟨0, core⟩ fun t => { t with slice := t.slice + 1, running := true })))))) ∧
    (s.rel.flashPending ≠ [] →
      (∃ t, exec (.errorLogFlashWrite true) s = .next t ∧ t.rel.flashPending = [] ∧ t.rel.flashFail = false ∧ t.rel.flashLog.length ≤ 256 ∧
        (∀ e ∈ t.rel.flashLog, e ∈ s.rel.flashLog ∨ e ∈ s.rel.flashPending) ∧ t.work = s.work) ∧
      exec (.errorLogFlashWrite false) s = .next (updRel s fun r => { r with flashFail := true })) ∧
    (s.rel.mapPending ≠ [] → ∃ t, exec .mendMapWrite s = .next t ∧ fieldMap t = fieldMap s ++ s.rel.mapPending ∧ t.rel.mapPending = [] ∧
      t.work = s.work ∧ t.host = s.host) ∧
    (∀ rows, bistRuns s = true → ∃ t, exec (.memoryBistComplete rows) s = .next t ∧ t.work.hbm = [] ∧ t.engines = [] ∧ bistRuns t = false ∧
      t.work.tallies = s.work.tallies ∧ ∀ e ∈ t.work.cores, e.2.scratch = [] ∧ e.2.power = List.replicate 12 .off) ∧
    (bistRuns s = false → ∀ rows, exec (.memoryBistComplete rows) s = .next s) ∧
    (s.rel.flashPending = [] → ∀ ok, exec (.errorLogFlashWrite ok) s = .next s) ∧
    (s.rel.mapPending = [] → exec .mendMapWrite s = .next s) ∧
    (∀ (pair : Nat) (p : TellerPair), s.rel.pairs[pair]? = some p → p.disabled = true ∨ s.sys.clocks = false →
      exec (.lockstepMismatch pair) s = .next s) ∧
    (s.sys.clocks = false → ∀ finds, exec (.tellerScrub finds) s = .next s) ∧
    (∀ kind index : Nat, 3 < kind ∨ kindCount kind ≤ index ∨ disabled s kind index = true →
      exec (.selftestDue kind index) s = .next s) ∧
    (∀ kind index : Nat, (getTest s ⟨kind, index⟩).due = false ∨ disabled s kind index = true → exec (.selftestDeferred kind index) s = .next s)

/-- PRESENCE_N opens a window of 120 s unless it is stuck; the window closes, and stays shut while stuck. A sample of the seal
loop flips its polarity; a second miss in turn opens an armed seal. INSTALL puts the staged key into the selected slot and
clears the staging words, ERASE empties it, and a slot in use for transmit is refused. The owner seed and the lock take
their first write alone. An image that passes its checks is staged, any other leaves the slot empty. VBAT and VAON mark the
always-on domain. Boundary JTAG instructions change nothing; a valid proof opens a RETURNED device, or returns it to
MAKER_TEST; internal scan and teller debug stop by name where they are offered. That a write of both bits of SAK_CTL installs
and then erases is the model's choice (log 86). (20_security_and_life_cycle.md, R519, R520, R528, R529, R530, R531, R533, R535, R536, R538) -/
def Obligations.SecurityBlockKeepsItsRules : Prop :=
  ∀ (s : State),
    (∀ released, s.sec.stuck = false ∨ released = true → exec (.presenceEvent released) s =
      .next (updSec s fun x => { x with window := true, windowEnd := nowNs s + 120000000000, stuck := false })) ∧
    (s.sec.stuck = true → exec (.presenceEvent false) s = .next s) ∧
    (s.sec.aonRuns = false → ∀ matched, exec (.sealPulse matched) s = .next s) ∧
    (s.sec.staging = none → exec .fwStageComplete s = .next s) ∧
    (∀ valid, valid = false ∨ s.sec.lc ≠ lcReturned → exec (.jtagInstruction (.challenge valid)) s = .next s) ∧
    (∀ valid, valid = false ∨ (s.sec.lc ≠ 0 ∧ s.sec.lc ≠ lcReturned) → exec (.jtagInstruction (.toMakerTest valid)) s = .next s) ∧
    (s.sec.lc = 0 → exec (.jtagInstruction (.toMakerTest true)) s = .next (updSec s fun x =>
      { x with fuses := { x.fuses with stage := lcMaker }, lc := lcMaker })) ∧
    exec .presenceWindowClose s = .next (updSec s fun x => { x with window := false }) ∧
    exec .presenceStuck s = .next (updSec s fun x => { x with window := false, stuck := true }) ∧
    (s.sec.aonRuns = true → ∀ matched, ∃ t, exec (.sealPulse matched) s = .next t ∧ t.sec.sealPolarity = !s.sec.sealPolarity ∧ t.work = s.work ∧
      t.host = s.host ∧
      (matched = true → t.sec.sealMisses = 0 ∧ t.sec.loopOpen = false ∧ t.sec.sealState = s.sec.sealState) ∧
      (matched = false → s.sec.sealMisses = 0 → t.sec.sealMisses = 1 ∧ t.sec.loopOpen = s.sec.loopOpen ∧
        (s.sec.loopOpen = false ∨ s.sec.sealArmed = false ∨ s.sec.sealState ≠ 0 → t.sec.sealState = s.sec.sealState)) ∧
      (matched = false → 1 ≤ s.sec.sealMisses → t.sec.loopOpen = true ∧
        (s.sec.sealArmed = true → s.sec.sealState = 0 → t.sec.sealState = 1 ∧ t.sec.sealOpenS = s.sec.aonS))) ∧
    (served s 0 = true → ∀ v : BitVec 32,
      (v.toNat % 4 ≠ 0 → sakInUse s = true → exec (.sakInstall v) s = .next (valueError s 0x9140) ∧ exec (.sakErase v) s = .next (valueError s 0x9140)) ∧
      (v.toNat % 4 = 0 → exec (.sakInstall v) s = .next s ∧ exec (.sakErase v) s = .next s) ∧
      (exec (.sakErase v) s = exec (.sakInstall v) s) ∧
      (sakInUse s = false →
        (v.toNat % 4 = 3 → ∃ t, exec (.sakInstall v) s = .next t ∧ Tbl.find t.sec.saks (selectedSak s) = none ∧
          t.sec.keyWords = List.replicate 8 0 ∧ t.sec.saltWords = List.replicate 3 0 ∧ t.sec.ssciWord = 0 ∧
          ∀ k, k ≠ selectedSak s → Tbl.find t.sec.saks k = Tbl.find s.sec.saks k) ∧
        (v.toNat % 4 = 1 → s.sec.sakDir = true → ∃ t, exec (.sakInstall v) s = .next t ∧
          (s.sec.sakMac.toNat < s.net.macs.length → (getMac t s.sec.sakMac.toNat).rxNew = s.sec.sakAn)) ∧
        (v.toNat % 4 = 1 → ∃ t, exec (.sakInstall v) s = .next t ∧
          Tbl.find t.sec.saks (selectedSak s) = some { key := BitVec.ofNat 256 (wordsValue s.sec.keyWords), salt := BitVec.ofNat 96 (wordsValue s.sec.saltWords), ssci := s.sec.ssciWord, pn := if s.sec.sakDir then 0 else 1 } ∧
          t.sec.keyWords = List.replicate 8 0 ∧ t.sec.saltWords = List.replicate 3 0 ∧ t.sec.ssciWord = 0 ∧
          ∀ k, k ≠ selectedSak s → Tbl.find t.sec.saks k = Tbl.find s.sec.saks k) ∧
        (v.toNat % 4 = 2 → ∃ t, exec (.sakErase v) s = .next t ∧ Tbl.find t.sec.saks (selectedSak s) = none ∧
          t.sec.keyWords = s.sec.keyWords ∧ ∀ k, k ≠ selectedSak s → Tbl.find t.sec.saks k = Tbl.find s.sec.saks k)) ∧
      (s.sec.ownerSeed = none → v.getLsbD 0 = true → exec (.ownerCommit v) s =
        .next (updSec s fun x => { x with ownerSeed := some (BitVec.ofNat 256 (wordsValue x.ownerWords)), ownerCommit := true })) ∧
      (s.sec.ownerSeed = none → v.getLsbD 0 = false → exec (.ownerCommit v) s = .next (updSec s fun x => { x with ownerCommit := false })) ∧
      (s.sec.ownerSeed.isSome = true → ∃ t, exec (.ownerCommit v) s = .next t ∧ t.sec = s.sec ∧ (getFn t 0).error.getLsbD 2 = true) ∧
      (s.sec.lockWritten = false → exec (.secConfigLock v) s = .next (updSec s fun x => { x with lockWritten := true, lock := v.getLsbD 0 })) ∧
      (s.sec.lockWritten = true → ∃ t, exec (.secConfigLock v) s = .next t ∧ t.sec = s.sec ∧ (getFn t 0).error.getLsbD 2 = true)) ∧
    (∀ g : Staging, s.sec.staging = some g →
      (let w := updSec s fun y => { y with staging := none }
       (∀ r, stageFails w (slotOfImage g.image) = some r → exec .fwStageComplete s =
         .next (finish (updSec (writeInactive w FwSlot.empty) fun y => { y with stagedVersion := 0 }) g.ticket ⟨eFault, 0, r, 0, 0⟩)) ∧
       (stageFails w (slotOfImage g.image) = none →
         (let x := slotOfImage g.image
          let k := updSec (writeInactive w x) fun y => { y with stagedVersion := BitVec.ofNat 32 x.version }
          let d := finish k g.ticket ⟨eOk, x.version % 2 ^ 32, 0, 0, 0⟩
          exec .fwStageComplete s = .next (sendDeviceEvent d 5 0 0 (enabledCount d)))))) ∧
    (∀ low, exec (.vbatLow low) s = .next (updSec s fun x => { x with vbatLow := low })) ∧
    exec .vaonLoss s = .next (updSec s fun x => { x with canary := false, aonRuns := false }) ∧
    (∀ i ∈ [Jtag.bypass, .idcode, .sample, .extest], exec (.jtagInstruction i) s = .next s) ∧
    (s.sec.lc = lcReturned → exec (.jtagInstruction (.challenge true)) s = .next (updSec s fun x => { x with jtagToken := true }) ∧
      exec (.jtagInstruction (.toMakerTest true)) s = .next (updSec s fun x => { x with fuses := { x.fuses with stage := lcMaker }, lc := lcMaker })) ∧
    (∀ i ∈ [Jtag.scan, .tellerDebug], (jtagOpen s = true → exec (.jtagInstruction i) s = .refused .jtagInternal) ∧
      (jtagOpen s = false → exec (.jtagInstruction i) s = .next s))

/-- COLD_RESET keeps the fuses, the boot flash and the repair record, loses HBM, jobs, partitions and sessions, and leaves a
boot that runs or has halted. PWRGOOD_FALL stops every clock. BOOT_READY of a boot that has not halted, with clocks and
coolant, sets READY, ends the boot, and ends in recovery mode where a stage stopped or fewer than three teller pairs serve; of
any other it changes nothing. RECOVERY_EXIT leaves recovery mode where nothing stopped the boot. READY after a stopped boot is
the model's reading (log 72). (22_startup_and_reset.md, R556, R557, R558, R561, R569) -/
def Obligations.RestartsKeepAndRunTheBootRom : Prop :=
  ∀ (s : State),
    (∀ strap aon, ∃ t, exec (.coldReset strap aon) s = .next t ∧ t.work.hbm = [] ∧ t.work.jobs = [] ∧ t.work.parts = [] ∧ t.services = [] ∧
      t.host.mgmtSession = none ∧ t.engines = [] ∧ t.sys.boot.isSome = true ∧ t.sys.ready = false ∧ t.pending = s.pending ∧
      t.sec.fuses.part = s.sec.fuses.part ∧ t.sec.fuses.factory = s.sec.fuses.factory ∧ t.sec.slotA = s.sec.slotA ∧ t.sec.slotB = s.sec.slotB ∧
      t.sec.ownerSeed = (if s.sec.fuses.stage = 4 then none else s.sec.ownerSeed) ∧ t.rel.flashLog = s.rel.flashLog ∧
      t.rel.repairs = s.rel.repairs ∧ t.rel.spares = s.rel.spares ∧ t.sec.window = false ∧ t.sec.saks = [] ∧ t.sec.jumper = strap ∧
      t.optics.wear = s.optics.flash) ∧
    exec .pwrgoodFall s = .next (updSys s fun y => { y with pwrgood := false, clocks := false, ready := false }) ∧
    (∀ (b : Boot) (r : BootReport), s.sys.boot = some b → b ≠ .halted → s.sys.clocks = true → s.power.flowStopped = false →
      exec (.bootReady r) s = .next (reachReady s b r) ∧
      ∃ t, exec (.bootReady r) s = .next t ∧ t.sys.ready = true ∧ t.sys.boot = none ∧ t.sys.bootStopped = r.stop.isSome ∧
        (r.stop.isSome = true ∨ pairsLeft t < 3 → t.sys.recovery = true) ∧ t.sys.fatal = decide (pairsLeft t < 3)) ∧
    (s.sys.boot = none ∨ s.sys.boot = some .halted ∨ s.sys.clocks = false ∨ s.power.flowStopped = true →
      ∀ r, exec (.bootReady r) s = .next s) ∧
    (s.sys.recovery = false ∨ s.sys.bootStopped = true ∨ s.sys.fatal = true → exec .recoveryExit s = .next s) ∧
    (s.sys.recovery = true → s.sys.bootStopped = false → s.sys.fatal = false → ∃ t, exec .recoveryExit s = .next t ∧ t.sys.recovery = false ∧
      t.sys.ready = s.sys.ready ∧ t.work = s.work ∧ t.sec = s.sec)

/-- On a transport that management serves, in a life-cycle state other than VOID: an SPDM request for which the connection
stands far enough is answered as its protocol says, moving the connection's state, drawing a nonce and signing where it
must; one that comes too early is answered with an error. Set Endpoint ID takes the identifier. PLDM answers PDRs, numeric
and state sensors and effecters, changes the event receiver, and takes an update: request, transfer, verification,
activation with its restart, and the firmware parameters. A vendor-defined command message is taken as a command. The head
of a queue is sent; a port's timeout is marked and counted, and a test that finds the lines high ends it. A request that
names no sensor, record, effecter, slot of certificates or update, or comes at a wrong time, is answered with its protocol's
error. A transport that is not served answers nothing. The messages' bytes, the errors, the records' order and the widths in
the measurement blocks are the model's choice (logs 27, 73, 74). (21_management_and_optics.md, R526, R527, R540, R541, R542, R543, R544, R545, R555) -/
def Obligations.ManagementAnswersOnItsTransports : Prop :=
  ∀ (s : State) (via eid : Nat),
    (mgmtServes s via = false → ∀ (v slot o n op : Nat) (asym hash : BitVec 32) (nonce : BitVec 256) (sign on : Bool) (type : Nat) (body : List Byte),
      exec (.getVersion via eid) s = .next s ∧ exec (.getCapabilities via eid v) s = .next s ∧
      exec (.negotiateAlgorithms via eid asym hash) s = .next s ∧ exec (.getDigests via eid) s = .next s ∧
      exec (.getCertificate via eid slot o n) s = .next s ∧ exec (.challenge via eid slot nonce) s = .next s ∧
      exec (.getMeasurements via eid slot op sign nonce) s = .next s ∧ exec (.getPdr via eid n) s = .next s ∧
      exec (.getSensorReading via eid n) s = .next s ∧ exec (.getStateSensorReadings via eid n) s = .next s ∧
      exec (.setStateEffecterStates via eid n v) s = .next s ∧ exec (.setEventReceiver via eid on) s = .next s ∧
      exec (.requestUpdate via eid) s = .next s ∧ exec (.verifyComplete via eid) s = .next s ∧
      exec (.activateFirmware via eid) s = .next s ∧ exec (.getFirmwareParameters via eid) s = .next s ∧
      exec (.setEndpointId via eid n) s = .next s ∧ exec (.mctpMessage via eid type body) s = .next s) ∧
    (mgmtServes s via = true → s.sec.lc ≠ Sys2Proof.Machine.lcVoid →
      (∀ v, s.sec.spdm < 1 → exec (.getCapabilities via eid v) s = .next (spdmReply s via eid (.error 0x04))) ∧
      (∀ v, 1 ≤ s.sec.spdm → v ≠ 0x12 → v ≠ 0x13 → exec (.getCapabilities via eid v) s = .next (spdmReply s via eid (.error 0x41))) ∧
      (∀ asym hash : BitVec 32,
        (s.sec.spdm < 2 → exec (.negotiateAlgorithms via eid asym hash) s = .next (spdmReply s via eid (.error 0x04))) ∧
        (2 ≤ s.sec.spdm → asym.getLsbD 7 = false ∨ hash.getLsbD 1 = false → exec (.negotiateAlgorithms via eid asym hash) s =
          .next (spdmReply s via eid (.algorithms (if asym.getLsbD 7 then 128 else 0) (if hash.getLsbD 1 then 2 else 0))))) ∧
      (∀ (slot o n op : Nat) (nonce : BitVec 256) (sign : Bool),
        (s.sec.spdm < 3 → exec (.getCertificate via eid slot o n) s = .next (spdmReply s via eid (.error 0x04)) ∧
          exec (.challenge via eid slot nonce) s = .next (spdmReply s via eid (.error 0x04)) ∧
          exec (.getMeasurements via eid slot op sign nonce) s = .next (spdmReply s via eid (.error 0x04))) ∧
        (3 ≤ s.sec.spdm →
          (slot ≠ 0 ∨ (chainBytes s).length ≤ o → exec (.getCertificate via eid slot o n) s = .next (spdmReply s via eid (.error 0x01))) ∧
          (slot ≠ 0 → exec (.challenge via eid slot nonce) s = .next (spdmReply s via eid (.error 0x01))) ∧
          (slot ≠ 0 ∨ (8 < op ∧ op ≠ 255) → exec (.getMeasurements via eid slot op sign nonce) s = .next (spdmReply s via eid (.error 0x01))) ∧
          (slot = 0 → op ≤ 8 ∨ op = 255 →
            (let blocks := (if op = 0 then [] else if op = 255 then [1, 2, 3, 4, 5, 6, 7, 8] else [op]).map fun i =>
               (i, (measurement s i).1, (measurement s i).2)
             let mine := Config.spdmNonce s.sec.nonces
             exec (.getMeasurements via eid slot op sign nonce) s = .next (spdmReply (updSec s fun x => { x with nonces := x.nonces + 1 }) via eid
               (.measurements 0 8 blocks mine (if sign then some (Config.aliasSign s.sec.cdiL1
                 ((blocks.flatMap fun b => leBytes 1 b.1 ++ b.2.2) ++ leBytes 32 nonce.toNat ++ leBytes 32 mine.toNat)) else none))))))) ∧
      (exec (.getPdr via eid 0) s = exec (.getPdr via eid 1) s) ∧
      (∀ n, pdrRecords.length < n → exec (.getPdr via eid n) s = .next (mgmtReply s via eid 1 (.done 0x82))) ∧
      (∀ n, numericSensor s n = none → exec (.getSensorReading via eid n) s = .next (mgmtReply s via eid 1 (.done 0x80))) ∧
      (∀ n, stateSensor s n = none → exec (.getStateSensorReadings via eid n) s = .next (mgmtReply s via eid 1 (.done 0x80))) ∧
      (∀ n v, n < 0x400 ∨ 0x406 ≤ n → exec (.setStateEffecterStates via eid n v) s = .next (mgmtReply s via eid 1 (.done 0x80))) ∧
      (∀ n v, 0x400 ≤ n → n < 0x406 → 3 < v → exec (.setStateEffecterStates via eid n v) s = .next (mgmtReply s via eid 1 (.done 0x81))) ∧
      (stagingBusy s = true ∨ (commitRec s).trial = true → exec (.requestUpdate via eid) s = .next (mgmtReply s via eid 1 (.done 4))) ∧
      (s.mgmt.update = none → exec (.verifyComplete via eid) s = .next (mgmtReply s via eid 1 (.done 0x80)) ∧
        exec (.activateFirmware via eid) s = .next (mgmtReply s via eid 1 (.done 0x80))) ∧
      (∀ u, s.mgmt.update = some u →
        (u.verified = false → exec (.activateFirmware via eid) s = .next (mgmtReply s via eid 1 (.done 4))) ∧
        (u.verified = true → lowerStaged s = true → presence s = false →
          exec (.activateFirmware via eid) s = .next (mgmtReply s via eid 1 (.done 1))))) ∧
    (mgmtServes s via = true →
      (∀ id, id = 0 ∨ 255 ≤ id → exec (.setEndpointId via eid id) s = .next (mgmtReply s via eid 0 (.endpoint 2 s.mgmt.eid.toNat))) ∧
      (∀ type body, type = 0 ∨ type = 1 ∨ type = 5 → Config.mctpDecode type body = none → exec (.mctpMessage via eid type body) s = .next s) ∧
      (∀ type body, type ∉ [0, 1, 5, 0x7E] → exec (.mctpMessage via eid type body) s = .next s) ∧
      (∀ body, body.take 2 ≠ (leBytes 2 Config.vendorId.toNat).reverse ∨ imgLe body 2 1 ≠ 0 ∨ body.length < 19 →
        exec (.mctpMessage via eid 0x7E body) s = .next s)) ∧
    (∀ o data, s.mgmt.update = none ∨ 33554432 < o + data.length → exec (.firmwareTransfer o data) s = .next s) ∧
    ((nth Transport.reset s.mgmt.transports via).queue = [] ∨ (nth Transport.reset s.mgmt.transports via).timeout = true ∨
      (via = 2 ∧ s.host.chip.linkUp = false) ∨ s.sys.clocks = false → exec (.mctpMessageSent via) s = .next s) ∧
    (∀ port high, (2 ≤ port → exec (.smbusTimeout port) s = .next s) ∧ (2 ≤ port ∨ high = false → exec (.smbusRetry port high) s = .next s)) ∧
    (mgmtServes s via = true → s.sec.lc ≠ Sys2Proof.Machine.lcVoid →
      exec (.getVersion via eid) s = .next (spdmReply (updSec s fun x => { x with spdm := 1, spdmVersion := 0 }) via eid (.version [0x12, 0x13])) ∧
      (1 ≤ s.sec.spdm → ∀ v, v = 0x12 ∨ v = 0x13 → exec (.getCapabilities via eid v) s =
        .next (spdmReply (updSec s fun x => { x with spdm := 2, spdmVersion := v }) via eid (.capabilities v 0x36))) ∧
      (2 ≤ s.sec.spdm → ∀ asym hash : BitVec 32, asym.getLsbD 7 = true → hash.getLsbD 1 = true → exec (.negotiateAlgorithms via eid asym hash) s =
        .next (spdmReply (updSec s fun x => { x with spdm := 3 }) via eid (.algorithms 128 2))) ∧
      (s.sec.spdm < 3 → exec (.getDigests via eid) s = .next (spdmReply s via eid (.error 0x04))) ∧
      (3 ≤ s.sec.spdm →
        exec (.getDigests via eid) s = .next (spdmReply s via eid (.digests 1 [chainHash s])) ∧
        (∀ o n, o < (chainBytes s).length → exec (.getCertificate via eid 0 o n) s = .next (spdmReply s via eid
          (.certificate 0 ((chainBytes s).length - o - (((chainBytes s).drop o).take n).length) (((chainBytes s).drop o).take n)))) ∧
        (∀ nonce : BitVec 256,
          (let w := updSec s fun x => { x with nonces := x.nonces + 1 }
           let mine := Config.spdmNonce s.sec.nonces
           exec (.challenge via eid 0 nonce) s = .next (spdmReply w via eid (.challengeAuth 0 (chainHash s) mine
             (Config.aliasSign s.sec.cdiL1 (chainHash s ++ leBytes 32 nonce.toNat ++ leBytes 32 mine.toNat)))) ∧
           (∀ i, 1 ≤ i → i ≤ 8 → exec (.getMeasurements via eid 0 i false nonce) s =
             .next (spdmReply w via eid (.measurements 0 8 [(i, (measurement s i).1, (measurement s i).2)] mine none)))))) ∧
      (∀ n, n ≠ 0 → n - 1 < pdrRecords.length → ∃ next id kind, exec (.getPdr via eid n) s = .next (mgmtReply s via eid 1 (.pdr next id kind)) ∧
        pdrRecords[n - 1]? = some (id, kind) ∧ (next = 0 ∨ next = n + 1)) ∧
      (∀ n v, numericSensor s n = some v → exec (.getSensorReading via eid n) s = .next (mgmtReply s via eid 1 (.numeric v (Tbl.get 0 s.mgmt.levels n)))) ∧
      (∀ n v, stateSensor s n = some v → exec (.getStateSensorReadings via eid n) s = .next (mgmtReply s via eid 1 (.state v))) ∧
      (∀ i v, i < 6 → v ≤ 3 → exec (.setStateEffecterStates via eid (0x400 + i) v) s =
        .next (mgmtReply (updIndicator s i fun x => { x with mode := BitVec.ofNat 2 v }) via eid 1 (.done 0))) ∧
      (∀ on, ∃ t, exec (.setEventReceiver via eid on) s = .next t ∧ t.mgmt.receiver = (if on then some (via, eid) else none) ∧ t.work = s.work) ∧
      (stagingBusy s = false → (commitRec s).trial = false → exec (.requestUpdate via eid) s = .next (mgmtReply (updMgmt
        (updSec (writeInactive s FwSlot.empty) fun x => { x with stagedVersion := 0 }) fun m => { m with update := some { image := [], verified := false } })
        via eid 1 (.done 0))) ∧
      (∀ u, s.mgmt.update = some u →
        (∃ t, exec (.verifyComplete via eid) s = .next t ∧
          t.mgmt.update = some { u with verified := (stageFails s (slotOfImage u.image)).isNone } ∧ t.work = s.work ∧
          (stageFails s (slotOfImage u.image) = none → t.sec.stagedVersion = BitVec.ofNat 32 (slotOfImage u.image).version) ∧
          ((stageFails s (slotOfImage u.image)).isSome = true → t.sec.stagedVersion = 0)) ∧
        (u.verified = true → lowerStaged s = false ∨ presence s = true → exec (.activateFirmware via eid) s =
          .next (warmRestart (mgmtReply (updMgmt (activateStaged s) fun m => { m with update := none }) via eid 1 (.done 0)) false))) ∧
      exec (.getFirmwareParameters via eid) s = .next (mgmtReply s via eid 1 (.parameters (commitRec s).activeVersion
        (if (commitRec s).trial then (commitRec s).trialVersion else s.sec.stagedVersion.toNat)))) ∧
    (mgmtServes s via = true →
      (∀ id, 1 ≤ id → id < 255 → exec (.setEndpointId via eid id) s =
        .next (mgmtReply (updMgmt s fun m => { m with eid := BitVec.ofNat 8 id }) via eid 0 (.endpoint 0 id))) ∧
      (∀ body, body.take 2 = (leBytes 2 Config.vendorId.toNat).reverse → imgLe body 2 1 = 0 → 19 ≤ body.length →
        exec (.mctpMessage via eid 0x7E body) s = .next (mgmtCommand via eid (body.drop 3) s)) ∧
      (∀ type body r, type = 0 ∨ type = 1 ∨ type = 5 → Config.mctpDecode type body = some r →
        exec (.mctpMessage via eid type body) s = .next (mgmtRequest via eid s r))) ∧
    (∀ u o data, s.mgmt.update = some u → o + data.length ≤ 33554432 → exec (.firmwareTransfer o data) s =
      .next (updMgmt s fun m => { m with update := some { image := splice u.image o data, verified := false } })) ∧
    (∀ o rest, (nth Transport.reset s.mgmt.transports via).queue = o :: rest → (nth Transport.reset s.mgmt.transports via).timeout = false →
      via ≠ 2 ∨ s.host.chip.linkUp = true → s.sys.clocks = true → exec (.mctpMessageSent via) s =
        .next (emit (updMgmt s fun m => { m with transports := modNth m.transports via fun t => { t with queue := rest } }) (.mctp via o.type o.data))) ∧
    (∀ port, port < 2 → port < s.mgmt.transports.length →
      (∃ t, exec (.smbusTimeout port) s = .next t ∧ (nth Transport.reset t.mgmt.transports port).timeout = true ∧
        (nth Transport.reset t.mgmt.transports port).timeouts = satInc (nth Transport.reset s.mgmt.transports port).timeouts 1 ∧ t.work = s.work) ∧
      (∃ t, exec (.smbusRetry port true) s = .next t ∧ (nth Transport.reset t.mgmt.transports port).timeout = false ∧ t.work = s.work))

/-- On a slot that is served: a probe that is answered manages a module that was not, or clears the failures of one that was;
three failures in a row make it absent; a stuck bus begins recovery. A reading enters the module's window. A recovery that
finds the lines high frees the bus, the third that does not gives it up and manages no slot of it; RETRY starts again a bus
that has been given up. The wear ledger is written to flash. A load check that can be made records the status it finds, two
checks in turn below the open threshold being an open load, and a short holds the driver off until its hold-off ends. On a
slot that is not served, of a module that is not managed, on a bus that is not recovering and of an indicator that shows
nothing, they change nothing. What a probe of an unmanaged module and a short on-time do is the model's choice (log 88). (21_management_and_optics.md, R546, R547, R548, R549, R550, R553, R554) -/
def Obligations.OpticsAndIndicatorsAreWatched : Prop :=
  ∀ (s : State) (k : Nat),
    (slotServed s k = false → (∀ f, exec (.opticsProbe k f) s = .next s) ∧ ∀ f, exec (.opticsMonitorRead k f) s = .next s) ∧
    ((getSlot s k).managed = false → ∀ f, exec (.opticsMonitorRead k f) s = .next s) ∧
    ((getBus s k).state ≠ 1 → ∀ high, exec (.opticsBusRecovery k high) s = .next s) ∧
    (6 ≤ k ∨ checkable s (getIndicator s k) = false → ∀ sample, exec (.loadCheck k sample) s = .next s) ∧
    (slotServed s k = true → k < s.optics.slots.length →
      (∀ id : ModuleId, (getSlot s k).present = true → (getSlot s k).managed = false → ∃ t, exec (.opticsProbe k (.answer id)) s = .next t ∧
        (getSlot t k).present = true ∧ (getSlot t k).managed = true ∧ (getSlot t k).serial = id.serial ∧ (getSlot t k).oui = id.oui ∧
        (getSlot t k).insertions = (getSlot s k).insertions ∧ (∀ j, j ≠ k → getSlot t j = getSlot s j) ∧ t.work = s.work) ∧
      ((getSlot s k).managed = true → exec (.opticsMonitorRead k .nack) s = .next (slotNack s k) ∧
        exec (.opticsMonitorRead k .stuck) s = .next (startRecovery s (k / 4))) ∧
      (∀ id : ModuleId, (getSlot s k).present = false → ∃ t, exec (.opticsProbe k (.answer id)) s = .next t ∧ (getSlot t k).present = true ∧
        (getSlot t k).managed = true ∧ (getSlot t k).serial = id.serial ∧ (getSlot t k).oui = id.oui ∧
        (getSlot t k).insertions = satInc (getSlot s k).insertions 1 ∧ (∀ j, j ≠ k → getSlot t j = getSlot s j) ∧ t.work = s.work) ∧
      (∀ id : ModuleId, (getSlot s k).present = true → (getSlot s k).managed = true → exec (.opticsProbe k (.answer id)) s =
        .next (updSlot s k fun x => { x with fails := 0 })) ∧
      (∃ t, exec (.opticsProbe k .nack) s = .next t ∧ (getSlot t k).fails = (getSlot s k).fails + 1 ∧
        (2 ≤ (getSlot s k).fails → (getSlot t k).present = false ∧ (getSlot t k).managed = false) ∧
        ((getSlot s k).fails < 2 → (getSlot t k).present = (getSlot s k).present)) ∧
      exec (.opticsProbe k .stuck) s = .next (startRecovery s (k / 4)) ∧
      ((getSlot s k).managed = true → ∀ m : Monitors, ∃ t, exec (.opticsMonitorRead k (.answer m)) s = .next t ∧
        getSlot t k = (getSlot s k).reading m ∧ (∀ j, j ≠ k → getSlot t j = getSlot s j) ∧ t.work = s.work ∧ t.host = s.host)) ∧
    ((getBus s k).state = 1 →
      exec (.opticsBusRecovery k true) s = .next (updBus s k fun x => { x with state := 0, attempt := 0 }) ∧
      ((getBus s k).attempt < 3 → exec (.opticsBusRecovery k false) s =
        .next (emit (updBus s k fun x => { x with attempt := x.attempt + 1 }) (.optics k "recovery"))) ∧
      (3 ≤ (getBus s k).attempt → ∃ t, exec (.opticsBusRecovery k false) s = .next t ∧ (getBus t k).state = 2 ∧
        ∀ j, j / 4 = k → (getSlot t j).managed = false)) ∧
    (served s 0 = true → ∀ v : BitVec 32, ∃ t, exec (.retry v) s = .next t ∧
      (∀ b, b < 2 → v.getLsbD b = true → (getBus s b).state = 2 → (getBus t b).state = 1 ∧ (getBus t b).attempt = 1) ∧
      (∀ b, b < 2 → v.getLsbD b = false ∨ (getBus s b).state ≠ 2 → getBus t b = getBus s b)) ∧
    exec .wearLedgerWrite s = .next (updOptics s fun o => { o with flash := o.wear }) ∧
    exec (.indicatorShortHoldoff k) s = .next (updIndicator s k fun x => { x with holdoff := false }) ∧
    (k < 6 → k < s.optics.indicators.length → checkable s (getIndicator s k) = true →
      (∃ t, exec (.loadCheck k .ok) s = .next t ∧ (getIndicator t k).status = 1 ∧ (getIndicator t k).opens = 0) ∧
      (1 ≤ (getIndicator s k).opens → ∃ t, exec (.loadCheck k .belowOpen) s = .next t ∧ (getIndicator t k).status = 2) ∧
      ((getIndicator s k).opens = 0 → ∃ t, exec (.loadCheck k .belowOpen) s = .next t ∧ (getIndicator t k).status = (getIndicator s k).status ∧
        (getIndicator t k).opens = 1) ∧
      (∃ t, exec (.loadCheck k .aboveShort) s = .next t ∧ (getIndicator t k).status = 3 ∧ (getIndicator t k).holdoff = true))

/-- On a MAC that is up, a fronthaul frame outside the fronthaul VLANs counts UNKNOWN_VLAN and one that names no entry of a
running INGEST station UNKNOWN_EAXC; one of an entry counts its sequence gap and bytes, RX_BAD when a header check fails, and
RX_EARLY or RX_LATE alone outside the window; inside it counts RX_OK and writes its sections up to the first that fails. A
symbol closes once: blocks that did not come are counted and rows posted; the station of a host-loaded image does the same
(log 99). A late or second UL_TTI.request is answered with ERROR.indication; else its supported PUSCH PDUs, at most 8 layers
to a resource block, make the slot. A code block waits for the slot's LLR codes; one whose check fails disables the engine; the
first block of a new transport block is decoded from the saturated received codes alone, a later transmission from their sum
with the soft buffer; a block decoded already is left; the last block finishes the transport block. A buffer unused for
HARQ_AGE slots, and a context unused for 256 slots, are released. A PUCCH payload goes out in a UCI.indication. The images'
bytes, the UCI layout and the postings are the model's choice (logs 66, 67, 70). (08_uplink_receive_chain.md, 09_coding_and_downlink.md, R188, R189, R191, R197, R205, R222, R228, R229, R240) -/
def Obligations.UplinkTakesFramesRequestsAndBlocks : Prop :=
  ∀ (s : State) (ci : Nat) (c : Cell), getCell s ci = some c →
    (∀ (mac vlan rx : Nat) (p : List Byte),
      (let w := countRx s mac
       ((getMac s mac).up = false → exec (.uplaneFrame mac vlan rx p) s = .next s) ∧
       ((getMac s mac).up = true → vlanKind w mac vlan ≠ some 0 →
         exec (.uplaneFrame mac vlan rx p) s = .next (updMac w mac fun m => { m with unknownVlan := satInc m.unknownVlan 1 })) ∧
       ((getMac s mac).up = true → vlanKind w mac vlan = some 0 → ingestEntry w mac vlan (beAt p 4 2) = none →
         exec (.uplaneFrame mac vlan rx p) s = .next (updMac w mac fun m => { m with unknownEaxc := satInc m.unknownEaxc 1 })) ∧
       (∀ ref g a, (getMac s mac).up = true → vlanKind w mac vlan = some 0 → ingestEntry w mac vlan (beAt p 4 2) = some (ref, g, a) →
         (let counted := chargeJob (updIng w ref fun g => g.updEntry a fun x => x.sequence (imgLe p 6 1)) g.job { Ledger.none with portBytes := 18 + p.length }
          (uplaneOk g a p = false → exec (.uplaneFrame mac vlan rx p) s =
            .next (updIng counted ref fun g => g.updEntry a fun x => { x with bad := satInc x.bad 1 })) ∧
          (uplaneOk g a p = true →
            (let trx : Int := (rx * 65536 : Nat) - (getPtp counted mac).asymIngress.toInt
             let frame := ((((imgLe p 9 1 : Nat) : Int) - g.beta) % 256).toNat
             let slot := nearestSlot (slotOnAir g.mu g.alpha (trx / 65536).toNat)
               (frame * perFrame g.mu + imgLe p 10 1 / 16 * 2 ^ g.mu + beAt p 10 2 / 64 % 64) (256 * perFrame g.mu)
             exec (.uplaneFrame mac vlan rx p) s =
               .next (acceptFrame counted ref a slot (imgLe p 11 1 % 64) trx ((p.take (beAt p 2 2 + 4)).drop 12)))))) ∧
       (∀ g a e, (getMac s mac).up = true → vlanKind w mac vlan = some 0 → ingestEntry w mac vlan (beAt p 4 2) = some (.cell ci, g, a) →
         c.rx[a]? = some e → uplaneOk g a p = false →
         ∃ t c' e', exec (.uplaneFrame mac vlan rx p) s = .next t ∧ getCell t ci = some c' ∧ c'.rx[a]? = some e' ∧
           e'.bad = satInc e.bad 1 ∧ e'.lastSeq = some (imgLe p 6 1) ∧
           e'.gap = (match e.lastSeq with
             | some q => if (q + 1) % 256 = imgLe p 6 1 then e.gap else satInc e.gap 1
             | none => e.gap) ∧ e'.ok = e.ok ∧ c'.rxSlots = c.rxSlots))) ∧
    (∀ (ref : IngRef) (g : Ing), getIng s ref = some g →
      (∀ (a slot sym : Nat) (trx : Int) (p : List Byte),
        (let due := g.endOf a slot sym * 65536
         let lo := due + (g.field s 0x0C 4 : Nat) * (96 * 65536)
         let hi := due + (g.field s 0x10 4 : Nat) * (96 * 65536)
         (g.takes slot = false → acceptFrame s ref a slot sym trx p = s) ∧
         (g.takes slot = true → trx * 96 < lo →
           acceptFrame s ref a slot sym trx p = updIng s ref fun g => g.updEntry a fun x => { x with early := satInc x.early 1 }) ∧
         (g.takes slot = true → lo ≤ hi → hi < trx * 96 →
           acceptFrame s ref a slot sym trx p = updIng s ref fun g => g.updEntry a fun x => { x with late := satInc x.late 1 }) ∧
         (g.takes slot = true → lo ≤ trx * 96 → trx * 96 ≤ hi →
           (let k := updIng s ref fun g => g.updEntry a fun x => { x with ok := satInc x.ok 1 }
            let parsed := parseSections (g.field k 7 1) g.nRb p.length p
            let q := writeSections ref slot a sym k parsed.1
            acceptFrame s ref a slot sym trx p = postSlot (updIng q.1 ref fun g => g.updEntry a fun x =>
              { x with dup := if q.2 then satInc x.dup 1 else x.dup, bad := if parsed.2 then satInc x.bad 1 else x.bad }) ref slot)))) ∧
      (∀ slot sym : Nat,
        ((g.slotOf slot).closed.getLsbD sym = true ∨ g.takes slot = false ∨ 14 ≤ sym → exec (.symbolClose ref slot sym) s = .next s) ∧
        (g.takes slot = true → sym < 14 → (g.slotOf slot).closed.getLsbD sym = false →
          exec (.symbolClose ref slot sym) s = .next (postSlot (updIng s ref fun g => g.close slot sym) ref slot) ∧
          ((g.close slot sym).slotOf slot).closed.getLsbD sym = true ∧ ((g.close slot sym).slotOf slot).written = (g.slotOf slot).written ∧
          ∀ (a : Nat) (e : EaxcRx), a < g.planes → g.rx[a]? = some e → ∃ e', (g.close slot sym).rx[a]? = some e' ∧ e'.ok = e.ok ∧
            e'.missing = satInc e.missing ((List.range g.nRb).filter fun rb => !Tbl.get false (g.slotOf slot).written (rbKey a sym rb)).length))) ∧
    (∀ (sfn slot : Nat) (pdus : List UlPdu) (j : Job), getJob s c.up = some j →
      (let n := c.named (nowNs s) sfn slot
       (c.airStart n ≤ (nowNs s : Int) ∨ n < c.nextFixed ∨ (c.ulSlot n).isSome = true →
         exec (.ulTtiRequest ci sfn slot pdus) s = .next (fapiError s ci sfn slot 0x81 errSlot)) ∧
       ((nowNs s : Int) < c.airStart n → c.nextFixed ≤ n → c.ulSlot n = none →
         (let b := buildUplink s c j n pdus
          let w := putCell s ci { b.cell with ul := b.cell.ul ++ [b.slot] }
          exec (.ulTtiRequest ci sfn slot pdus) s = .next (postUplink 8 (if b.removed then fapiError w ci sfn slot 0x81 errConfig else w) ci) ∧
          b.slot.slot = n ∧ b.slot.recs.length ≤ 64 ∧ b.slot.prach.length ≤ 4 ∧ (∀ r ∈ b.slot.recs, puschOk c r.pdu = true) ∧
          ∀ rb, layersOn (b.slot.recs.map (·.pdu)) rb ≤ 8)))) ∧
    (∀ (slot pdu cb : Nat) (u : UlSlot) (r : UlRec) (place : BlockPlace), c.ulSlot slot = some u →
      u.recs.find? (fun r => r.index = pdu) = some r → r.blocks[cb]? = some place →
      (place.bits.isSome = true ∨ r.llr = none → ∀ check, exec (.codeBlockDecoded ci slot pdu cb check) s = .next s) ∧
      (∀ codes : List Int, r.llr = some codes → place.bits = none →
        exec (.codeBlockDecoded ci slot pdu cb .mismatch) s = .next (engineFails s 1 place.engine) ∧
        ∀ check, check ≠ .mismatch →
          (let sh := shapeOf r.pdu
           let e := blockBitsOf r.pdu cb
           let got := sh.received r.pdu.rv (blockCodes r.pdu codes cb) r.pdu.qm
           let kept := if r.blocks.all (fun b => b.bits.isNone) then c.harqBegin r.pdu slot else c
           let old := (kept.harqOf r.pdu.rnti r.pdu.harq).elim 0 fun b => nth 0 b.top cb
           let sum := mergeCodes (decide (old = 0)) got (match kept.harqOf r.pdu.rnti r.pdu.harq with
             | some b => if old = 0 then [] else storedCodes s kept b sh cb
             | none => [])
           let rows := sh.rows (max old (sh.reach r.pdu.rv e))
           let out := sh.decode (c.scale sh.bg (rateClass rows)) (decodeField s c 4 1) rows (sh.channel sum)
           let made : BlockPlace := { place with bits := some out.1, crcPassed := decide (sh.blocks = 1) || blockPasses out.1, syndromeZero := out.2 }
           ((∃ k b, k ≠ cb ∧ r.blocks[k]? = some b ∧ b.bits = none) →
             ∃ t c' u' r', exec (.codeBlockDecoded ci slot pdu cb check) s = .next t ∧ getCell t ci = some c' ∧ c'.ulSlot slot = some u' ∧
               u'.recs.find? (fun r => r.index = pdu) = some r' ∧ r'.blocks[cb]? = some made ∧
               (∀ k, k ≠ cb → r'.blocks[k]? = r.blocks[k]?) ∧ r'.passed = r.passed ∧ t.host = s.host ∧ t.net = s.net ∧
               ((∀ b ∈ r.blocks, b.bits = none) → r.pdu.newData = true → sum = mergeCodes true got [])) ∧
           ((∀ k b, k ≠ cb → r.blocks[k]? = some b → b.bits.isSome = true) →
             ∃ w c', exec (.codeBlockDecoded ci slot pdu cb check) s =
                 .next (settleSlot (finishBlock w ci slot { r with blocks := setNth r.blocks cb made }) ci slot) ∧
               getCell w ci = some c' ∧ c'.scale = c.scale ∧ c'.rx = c.rx ∧ w.host = s.host ∧ w.net = s.net)))) ∧
    (∀ rnti harq : Nat,
      (c.harqOf rnti harq = none → exec (.harqAgeExpiry ci rnti harq) s = .next s) ∧
      (∀ b, c.harqOf rnti harq = some b →
        (c.slotAt (nowNs s) < b.lastSlot + c.f 0x3E 2 → exec (.harqAgeExpiry ci rnti harq) s = .next s) ∧
        (b.lastSlot + c.f 0x3E 2 ≤ c.slotAt (nowNs s) →
          ∃ t c', exec (.harqAgeExpiry ci rnti harq) s = .next t ∧ getCell t ci = some c' ∧ c'.harqOf rnti harq = none ∧
            (∀ m n, m ≠ rnti ∨ n ≠ harq → c'.harqOf m n = c.harqOf m n) ∧ c'.ul = c.ul ∧ t.work = s.work ∧ t.host = s.host))) ∧
    (∀ (rnti : Nat), (c.ctxOf rnti = none → exec (.contextFree ci rnti) s = .next s) ∧
      ∀ x : TrackCtx, c.ctxOf rnti = some x →
        (x.age < 256 → exec (.contextFree ci rnti) s = .next s) ∧
        (256 ≤ x.age → ∃ t c', exec (.contextFree ci rnti) s = .next t ∧ getCell t ci = some c' ∧ c'.ctxOf rnti = none ∧
          c.slotAt (nowNs s) ∈ c'.freed ∧ (∀ m, m ≠ rnti → c'.ctxOf m = c.ctxOf m) ∧ t.work = s.work)) ∧
    (∀ (slot pdu : Nat) (codes : List Int) (check : ArrayCheck) (u : UlSlot) (r : PolarRec), c.ulSlot slot = some u →
      u.polar.find? (fun r => r.index = pdu) = some r →
      (let done := fun (s : State) => settleSlot (updCell s ci fun c => c.updUl slot fun u =>
         { u with polar := u.polar.map fun x => if x.index = pdu then { x with done := true } else x }) ci slot
       (r.done = true → exec (.polarDecoded ci slot pdu codes check) s = .next s) ∧
       (r.done = false → exec (.polarDecoded ci slot pdu codes .mismatch) s = .next (engineFails s 2 r.engine)) ∧
       (r.done = false → check ≠ .mismatch → r.bits < 12 → exec (.polarDecoded ci slot pdu codes check) s =
         .next (done (sendFapi s ci (.uci u.sfn u.slotInFrame r.handle r.rnti true
           ((List.range r.bits).map fun i => b2n (bit (rmDecode r.bits codes) i)))))) ∧
       (r.done = false → check ≠ .mismatch → 12 ≤ r.bits → exec (.polarDecoded ci slot pdu codes check) s =
         .next (done (sendFapi s ci (.uci u.sfn u.slotInFrame r.handle r.rnti (Config.polarDecode r.bits codes).2
           ((Config.polarDecode r.bits codes).1.map b2n)))))))

/-- A DL_TTI.request, UL_DCI.request or TX_DATA.request that comes late, and a second DL_TTI.request, are answered with
ERROR.indication; else the supported PDUs, at most 8 layers on a resource block, and the payloads inside the transmit region
are kept. SLOT.indication goes out for a cell that has started and is not stopping. A code block that a window of its engine
holds has its coded bits written once, and the engine is disabled when its check fails; any other changes nothing. A symbol
whose tile was posted in time sends its frames; one whose tile was not, or was posted past the limit, counts TX_LATE, an event
and DEADLINE_MISS. Downlink C-plane of a built slot is one message for each stream and first symbol, none for an empty
descriptor; uplink C-plane one message for each entry. Taking the first DL_TTI.request, the reading of P in an encoder's cycles
and the bodies of C-plane sections are the model's choice (logs 66, 70, 102). (09_coding_and_downlink.md, R230, R232, R233, R234, R235, R236, R237, R239) -/
def Obligations.DownlinkTakesRequestsEncodesAndSends : Prop :=
  ∀ (s : State) (ci : Nat) (c : Cell), getCell s ci = some c →
    (∀ (sfn slot : Nat) (pdus : List DlPdu) (es : List TxEntry),
      (let n := c.named (nowNs s) sfn slot
       let d := c.dlSlot n
       let said := fun (id : Nat) (d' : DlSlot) (removed : Bool) =>
         (let w := putCell s ci (c.putDl d')
          if removed then fapiError w ci sfn slot id errConfig else w)
       (n = 0 ∨ (nowNs s : Int) + 40000 > c.airStart (n - 1) ∨ d.built = true →
         exec (.dlTtiRequest ci sfn slot pdus) s = .next (fapiError s ci sfn slot 0x80 errSlot) ∧
         exec (.ulDciRequest ci sfn slot pdus) s = .next (fapiError s ci sfn slot 0x83 errSlot) ∧
         exec (.txDataRequest ci sfn slot es) s = .next (fapiError s ci sfn slot 0x84 errSlot)) ∧
       (d.given = true → exec (.dlTtiRequest ci sfn slot pdus) s = .next (fapiError s ci sfn slot 0x80 errSlot)) ∧
       (1 ≤ n → (nowNs s : Int) + 40000 ≤ c.airStart (n - 1) → d.built = false →
         (d.given = false → exec (.dlTtiRequest ci sfn slot pdus) s =
           .next (said 0x80 { d with pdus := (keepDl c pdus).1, given := true } (keepDl c pdus).2)) ∧
         exec (.ulDciRequest ci sfn slot pdus) s = .next (said 0x83 { d with dci := d.dci ++ pdus.filter fun p => p.type = 0 && dlOk c p }
           (decide ((pdus.filter fun p => p.type = 0 && dlOk c p).length ≠ pdus.length))) ∧
         ∃ ok, exec (.txDataRequest ci sfn slot es) s = .next (said 0x84 { d with tx := d.tx ++ ok } (decide (ok.length ≠ es.length))) ∧
           ok.Sublist es ∧ ∀ e ∈ es, (e ∈ ok ↔ e.tag = 0 ∨ (e.tag = 1 ∧ aligned e.address 64 = true ∧ c.f 0x70 8 ≤ e.address ∧
             e.address + e.length ≤ c.f 0x70 8 + c.f 0x8C 4))) ∧
       (∀ p ∈ (keepDl c pdus).1, p ∈ pdus ∧ dlOk c p = true) ∧ (∀ rb, dlLayers (keepDl c pdus).1 rb ≤ 8) ∧
       ((keepDl c pdus).2 = false ↔ (keepDl c pdus).1 = pdus))) ∧
    (∀ slot : Nat,
      (c.starting = none → c.stopping = none → exec (.slotIndication ci slot) s = .next (sendFapi s ci (.slot (c.sfn slot) (c.inFrame slot)))) ∧
      (c.starting.isSome = true ∨ c.stopping.isSome = true → exec (.slotIndication ci slot) s = .next s)) ∧
    (∀ (slot pdu cb engine : Nat) (p : DlPdu) (j : Job), (c.dlSlot slot).built = true → (c.dlSlot slot).all[pdu]? = some p →
      getJob s c.down = some j → cb < dlBlocks p → (pdu, cb) ∉ (c.dlSlot slot).encoded →
      (let kind := if p.type = 1 then 3 else 2
       let out := Config.codedBlock p (dlPayload s c (c.dlSlot slot) p) cb
       ((∀ w ∈ j.windows, w.1 = kind → w.2.1 = engine → w.2.2.2 < dlBlockCycles p cb) → ∀ check,
         exec (.codeBlockEncoded ci slot pdu cb engine check) s = .next s) ∧
       ((∃ w ∈ j.windows, w.1 = kind ∧ w.2.1 = engine ∧ dlBlockCycles p cb ≤ w.2.2.2) →
         exec (.codeBlockEncoded ci slot pdu cb engine .mismatch) s = .next (engineFails s kind engine) ∧
         ∀ check, check ≠ .mismatch → exec (.codeBlockEncoded ci slot pdu cb engine check) s =
           .next (postEncoded (updCell (onTile s j (encodeField s c 2 2) (slot - c.firstDown) fun a m => Mem.writeBytes m (a + out.1) out.2) ci
             fun c' => c'.putDl { c.dlSlot slot with encoded := (c.dlSlot slot).encoded ++ [(pdu, cb)] }) ci slot)))) ∧
    (∀ (slot pdu cb engine : Nat) (check : ArrayCheck), (c.dlSlot slot).built = false ∨ (pdu, cb) ∈ (c.dlSlot slot).encoded →
      exec (.codeBlockEncoded ci slot pdu cb engine check) s = .next s) ∧
    (∀ (slot sym : Nat) (j : Job), getJob s c.down = some j → j.run.isSome = true → c.firstDown ≤ slot → sym < 14 →
      (let tile := c.symTile slot sym
       let limit := c.symStart slot sym - (egressField s c 0x0C 4 + 2000 : Nat) * 96
       let gone := updCell s ci fun c => { c with symPosts := Tbl.del c.symPosts tile }
       let on := bit (c.pattern slot).2 sym
       (∀ at_, Tbl.find c.symPosts tile = some at_ →
         (on = false → exec (.symbolDeparture ci slot sym) s = .next (postConsumed gone c.down (paramOf j.image 11 0x0A 2) (sourceCode 4 c.port))) ∧
         (on = true → limit < ((at_ * 96 : Nat) : Int) → ∃ w t c', exec (.symbolDeparture ci slot sym) s =
             .next (postConsumed t c.down (paramOf j.image 11 0x0A 2) (sourceCode 4 c.port)) ∧
           getCell w ci = some c' ∧ c'.lateTiles = c.lateTiles ∧ c'.deadlineMiss = satInc c.deadlineMiss 1 ∧
           c'.tx = c.tx.map (fun x => { x with late := satInc x.late 1 }) ∧ w.work = s.work ∧
           t = chargeJob (partEvent w c.part 0x0380 64 (leBytes 4 c.down ++ leBytes 1 1 ++ leBytes 3 0 ++ leBytes 4 (slot - c.firstDown) ++
             leBytes 4 (min (((nowNs s : Nat) : Int) - limit / 96).toNat (2 ^ 32 - 1)) ++ leBytes 1 0xFF)) c.down
             { Ledger.none with deadlineMiss := 1 }) ∧
         (on = true → ((at_ * 96 : Nat) : Int) ≤ limit → exec (.symbolDeparture ci slot sym) s =
           .next (postConsumed (sendSymbol gone ci c j slot sym) c.down (paramOf j.image 11 0x0A 2) (sourceCode 4 c.port)))) ∧
       (Tbl.find c.symPosts tile = none → on = false → exec (.symbolDeparture ci slot sym) s =
         .next (updCell s ci fun c => { c with lateTiles := c.lateTiles ++ [tile] })) ∧
       (Tbl.find c.symPosts tile = none → on = true → ∃ w t c', exec (.symbolDeparture ci slot sym) s = .next t ∧
         getCell w ci = some c' ∧ c'.lateTiles = c.lateTiles ++ [tile] ∧ c'.deadlineMiss = satInc c.deadlineMiss 1 ∧
         c'.tx = c.tx.map (fun x => { x with late := satInc x.late 1 }) ∧ w.work = s.work ∧
         t = chargeJob (partEvent w c.part 0x0380 64 (leBytes 4 c.down ++ leBytes 1 1 ++ leBytes 3 0 ++ leBytes 4 (slot - c.firstDown) ++
           leBytes 4 (min (((nowNs s : Nat) : Int) - limit / 96).toNat (2 ^ 32 - 1)) ++ leBytes 1 0xFF)) c.down
           { Ledger.none with deadlineMiss := 1 }))) ∧
    (∀ slot : Nat,
      ((c.dlSlot slot).built = false ∨ (c.dlSlot slot).all = [] → exec (.dlCplaneSend ci slot) s = .next s) ∧
      ((c.dlSlot slot).built = true → ∃ t c', exec (.dlCplaneSend ci slot) s = .next t ∧ getCell t ci = some c' ∧ c'.dl = c.dl ∧
        c'.tx.length = c.tx.length ∧ ∀ (a : Nat) (e : EaxcTx), c.tx[a]? = some e → ∃ e' : EaxcTx, c'.tx[a]? = some e' ∧ e'.id = e.id ∧ e'.seq = e.seq ∧
          e'.cseq = e.cseq + BitVec.ofNat 8 (dedup ((dlSections c (c.dlSlot slot) e).map fun x => x.1)).length)) ∧
    (∀ slot sym : Nat,
      (14 ≤ sym ∨ bit (c.pattern slot).1 sym = false ∨ ((getJob s c.down).bind Job.run).isNone = true → exec (.ulCplaneSend ci slot sym) s = .next s) ∧
      (sym < 14 → bit (c.pattern slot).1 sym = true → ((getJob s c.down).bind Job.run).isSome = true →
        ∃ t c', exec (.ulCplaneSend ci slot sym) s = .next t ∧ getCell t ci = some c' ∧
          c'.ulTx = c.ulTx.map (fun x => { x with frames := satInc x.frames 1, cseq := x.cseq + 1 }) ∧
          t.sent.length = s.sent.length + c.ulTx.length ∧ t.host.tills = s.host.tills))

/-- A staged slot of a cell is processed once. In evaluation its labelled PDUs add to the sums: the evaluation closes when it has
its number, in PASSED when the tests hold, else in the phase it came from; in PROBATION they add to the reversed comparison, and a
group in which the fallback is better rolls the receiver back; in TRAINING it becomes a ledger record, or is skipped where a frozen
record stands in its place. An evaluation that lasts too long is rejected. A round begins in TRAINING when it is due and the
ledger has its records, its job placed again after a core failure; it ends by writing the slot that is not live and begins an
evaluation, or by an event alone where a weight is a NaN or an infinity; one that lasts too long is abandoned. A switch that has
too little time moves one epoch on; otherwise the blocks are copied once every core has fed, and the switch takes effect as its
epoch begins: a promotion begins probation. Probation ends when its slots and PDUs are over. A group of learned PDUs that fails
beyond the baseline and margin rolls the receiver back. The codes of a shadow run, the training arithmetic and the count of
labelled elements are the model's choice (logs 101, 103). (10_receiver_adaptation.md, R246, R251, R254, R255, R256, R260, R262, R263, R264, R265, R266) -/
def Obligations.AdaptationTrainsEvaluatesAndSwitches : Prop :=
  ∀ (s : State) (ci : Nat) (c : Cell), getCell s ci = some c →
    (let a := getAdapt s ci
     (∀ (entry : Nat) (pdus : List EvalPdu),
       (a.job = none ∨ a.staged.find? (fun e => e.entry = entry) = none → exec (.stagingProcess ci entry pdus) s = .next s) ∧
       (∀ e : Staged, a.job.isSome = true → a.staged.find? (fun e => e.entry = entry) = some e →
         (let new := (evaluated s ci c e).map fun p => evalSum p ((pdus.find? fun x => x.index = p.index).elim [] EvalPdu.codes)
          let left := a.staged.filter fun e => e.entry ≠ entry
          let b : Adapt := { a with staged := left, sums := a.sums ++ new }
          (a.phase = phEvaluating → b.sums.length < a.f 0x28 4 → ∃ t, exec (.stagingProcess ci entry pdus) s = .next t ∧ getAdapt t ci = b ∧
            t.work = s.work ∧ t.host = s.host) ∧
          (a.phase = phEvaluating → a.f 0x28 4 ≤ b.sums.length → b.passes = true →
            ∃ t, exec (.stagingProcess ci entry pdus) s = .next t ∧ (getAdapt t ci).phase = phPassed ∧ (getAdapt t ci).sums = b.sums ∧
              (getAdapt t ci).baseline = (if a.livePdus = 0 then 65536 else 65536 * a.liveFails / a.livePdus)) ∧
          (a.phase = phEvaluating → a.f 0x28 4 ≤ b.sums.length → b.passes = false →
            ∃ t, exec (.stagingProcess ci entry pdus) s = .next t ∧ (getAdapt t ci).phase = a.home ∧ (getAdapt t ci).sums = [] ∧
              (getAdapt t ci).change = none) ∧
          (a.phase = phProbation →
            (let w := max 1 (a.f 0x38 2)
             let worse := a.sums.length / w < b.sums.length / w ∧
               totalOf b.sums (·.cCand) * (65536 + a.f 0x30 2) < totalOf b.sums (·.cLive) * 65536
             (¬ worse → ∃ t, exec (.stagingProcess ci entry pdus) s = .next t ∧ getAdapt t ci = b ∧ t.work = s.work ∧ t.host = s.host) ∧
             (worse → a.change = none → ∃ t x, exec (.stagingProcess ci entry pdus) s = .next t ∧ (getAdapt t ci).change = some x ∧
               x.rollback = true ∧ x.slot = slotWith s c 4 ∧ x.trigger = 2 ∧
               x.figures = (totalOf b.sums (·.cCand), totalOf b.sums (·.cLive)) ∧ x.ticket = none ∧ t.work = s.work))) ∧
          (a.phase = phTraining → a.wouldCapture e = true →
            (let size := a.f 0x18 2
             let taken := ∃ r, a.round = some r ∧ (r.frozen.any fun x => x.1 % max 1 size = a.nextRecord % max 1 size) = true
             (taken → ∃ t c', exec (.stagingProcess ci entry pdus) s = .next t ∧ getCell t ci = some c' ∧
               c'.captureSkipped = satInc c.captureSkipped 1 ∧ getAdapt t ci = { a with staged := left } ∧ t.work = s.work) ∧
             (¬ taken → ∃ t, exec (.stagingProcess ci entry pdus) s = .next t ∧ (getAdapt t ci).nextRecord = a.nextRecord + 1 ∧
               (getAdapt t ci).records = (a.records ++ [(a.nextRecord, sinrBin e.sinr)]).drop (a.records.length + 1 - size) ∧
               (getAdapt t ci).staged = left ∧ t.radio.cells = s.radio.cells ∧ t.work.jobs = s.work.jobs))) ∧
          (a.phase = phOff ∨ a.phase = phPassed ∨ (a.phase = phTraining ∧ a.wouldCapture e = false) →
            ∃ t, exec (.stagingProcess ci entry pdus) s = .next t ∧
            getAdapt t ci = { a with staged := left } ∧ t.work = s.work ∧ t.radio.cells = s.radio.cells)))) ∧
     (a.phase = phEvaluating ∧ a.evalSlot + a.f 0x2C 4 ≤ c.slotAt (nowNs s) → ∃ t, exec (.evalExpiry ci) s = .next t ∧
       t = rejectCandidate s ci ∧ (getAdapt t ci).phase = a.home ∧ (getAdapt t ci).sums = [] ∧ (getAdapt t ci).change = none) ∧
     (a.phase ≠ phEvaluating ∨ c.slotAt (nowNs s) < a.evalSlot + a.f 0x2C 4 → exec (.evalExpiry ci) s = .next s) ∧
     (∀ h base j, a.job = some h → roundBase s c = some base → getJob s h = some j → j.run = none → a.enable = true →
       a.phase = phTraining → a.round = none → 1 ≤ a.f 0x1A 2 → a.f 0x1A 2 ≤ a.records.length →
       (∀ l, a.lastRound = some l → l + a.f 0x20 4 ≤ c.slotAt (nowNs s)) →
       (let begun := fun (w : State) => startInvocation (updAdapt w ci fun b =>
          { b with round := some { number := a.roundNumber, startNs := nowNs s, frozen := a.records.drop (a.records.length - a.f 0x1A 2), base := base }, lastRound := some (c.slotAt (nowNs s)), roundNumber := b.roundNumber + 1 }) h none true
        (j.lostCore ≠ 1 → exec (.trainingRoundStart ci) s = .next (begun s)) ∧
        (j.lostCore = 1 → (∀ d, placeFully s h j = .inr d → exec (.trainingRoundStart ci) s = .next s) ∧
          ∀ j', placeFully s h j = .inl j' → exec (.trainingRoundStart ci) s = .next (begun (settleRinses (placeAgain s h j')))))) ∧
     (a.phase ≠ phTraining ∨ a.enable = false ∨ a.round.isSome = true ∨ a.job = none ∨ a.records.length < a.f 0x1A 2 ∨
       (∃ l, a.lastRound = some l ∧ c.slotAt (nowNs s) < l + a.f 0x20 4) → exec (.trainingRoundStart ci) s = .next s) ∧
     (a.round = none → exec (.roundEnd ci) s = .next s ∧ exec (.roundTimeout ci) s = .next s) ∧
     (∀ (r : Round) (h : Nat), a.round = some r → a.job = some h →
       (let w := trainedWeights s c a r
        let ended := updAdapt (endInvocation s h eOk none) ci fun a => { a with round := none }
        (bf16Special w = true → exec (.roundEnd ci) s =
          .next (adaptEvent ended ci 7 (1 - ((slotWith ended c 3).getD r.base)) 0 0xFFFFFFFF 0 [])) ∧
        (bf16Special w = false → ∃ t, exec (.roundEnd ci) s = .next t ∧ (getAdapt t ci).phase = phEvaluating ∧
          (getAdapt t ci).round = none ∧ (getAdapt t ci).sums = [] ∧ (getAdapt t ci).livePdus = 0 ∧
          (getAdapt t ci).evalSlot = c.slotAt (nowNs t)))) ∧
     (∀ r : Round, a.round = some r →
       (r.startNs + a.f 0x24 4 * 1000000 ≤ nowNs s → ∃ t, exec (.roundTimeout ci) s = .next t ∧ t = abandonRound s ci ∧
         (getAdapt t ci).round = none) ∧
       (nowNs s < r.startNs + a.f 0x24 4 * 1000000 → exec (.roundTimeout ci) s = .next s)) ∧
     (∀ (x : LiveChange) (j : Job), a.change = some x → getJob s c.up = some j →
       (let bytes := match x.slot with
          | some k => slotField s c k 0x38 4
          | none => 0
        let e := x.effect - c.firstUp
        let late := c.airStart (x.effect + 1) < nowNs s + 2000 + 1000 * ceilDiv bytes 32768 ∨ (j.insts.any fun i => i.hasBegun e) = true
        (x.copied = true → exec (.liveSwitch ci) s = .next s) ∧
        (x.copied = false → late → exec (.liveSwitch ci) s =
          .next (updAdapt s ci fun a => { a with change := some { x with effect := x.effect + 1 } })) ∧
        (x.copied = false → ¬ late → fedIn j (e - 1) = false → exec (.liveSwitch ci) s = .next s) ∧
        (x.copied = false → ¬ late → fedIn j (e - 1) = true → ∃ t, exec (.liveSwitch ci) s = .next t ∧
          (getAdapt t ci).change = some { x with copied := true } ∧ t.radio.cells = s.radio.cells ∧
          (∀ k, x.slot = some k → t.work = (makeLive s c k).work) ∧ (x.slot = none → t.work = s.work)) ∧
        (x.copied = true → ∀ slot, x.effect ≤ slot → ∃ t c', settleSwitch s ci slot = t ∧ (getAdapt t ci).change = none ∧
          (getAdapt t ci).outcomes = [] ∧ (getAdapt t ci).probationFrom = x.effect ∧ getCell t ci = some c' ∧
          (x.slot = none → c'.learned = false) ∧ (x.slot.isSome = true → c.learned = true → c'.learned = true) ∧
          (x.rollback = false → (getAdapt t ci).phase = phProbation) ∧
          (x.rollback = true → a.phase = phProbation → (getAdapt t ci).phase = a.home)))) ∧
     (a.change = none ∨ getJob s c.up = none → exec (.liveSwitch ci) s = .next s) ∧
     (let w := a.f 0x38 2
      let fails := ((a.outcomes.take w).filter id).length
      (w = 0 ∨ a.outcomes.length < w → exec (.liveFailureTrigger ci) s = .next s) ∧
      (0 < w → w ≤ a.outcomes.length →
        (fails * 65536 ≤ (a.baseline + a.f 0x3A 2) * w → ∃ t, exec (.liveFailureTrigger ci) s = .next t ∧ t.work = s.work ∧ t.host = s.host ∧
          (getAdapt t ci).outcomes = a.outcomes.drop w ∧ (getAdapt t ci).tested = a.tested + w ∧ (getAdapt t ci).change = a.change) ∧
        ((a.baseline + a.f 0x3A 2) * w < fails * 65536 →
          ((∀ x, a.change = some x → x.rollback = false ∨ x.ticket.isSome = true) →
            ∃ t x, exec (.liveFailureTrigger ci) s = .next t ∧ (getAdapt t ci).change = some x ∧ x.rollback = true ∧ x.slot = slotWith s c 4 ∧
              x.trigger = (if a.phase = phProbation then 1 else 4) ∧ x.figures = (fails, w) ∧ x.ticket = none) ∧
          (∀ x, a.change = some x → x.rollback = true → x.ticket = none →
            ∃ t, exec (.liveFailureTrigger ci) s = .next t ∧ (getAdapt t ci).change = some x ∧ (getAdapt t ci).outcomes = a.outcomes.drop w)))) ∧
     (a.phase = phProbation → a.change = none → a.probationFrom + a.f 0x34 4 ≤ c.slotAt (nowNs s) → a.f 0x38 2 ≤ a.tested →
       ∃ t, exec (.probationEnd ci) s = .next t ∧ (getAdapt t ci).phase = a.home ∧ (getAdapt t ci).sums = [] ∧
         (getAdapt t ci).baseline = (if a.probPdus = 0 then a.baseline else 65536 * a.probFails / a.probPdus)) ∧
     (a.phase ≠ phProbation ∨ a.tested < a.f 0x38 2 ∨ a.change.isSome = true ∨ c.slotAt (nowNs s) < a.probationFrom + a.f 0x34 4 →
       exec (.probationEnd ci) s = .next s))

/-- For a caller that may adapt the cell: SET with fields in range, while the phase is OFF or TRAINING, keeps the configuration,
enables or not, and selects the learned receiver where FLAGS asks for it and a slot is ACTIVE; a job is loaded first where
none stands, and its refusal is the answer. LOAD_SLOT of a good image writes the slot and begins an evaluation. CLEAR_SLOT
empties a slot, or rejects the candidate in it. QUERY answers phase, slot states, PDUs, records and rounds. ADAPT_PROMOTE of
a PASSED candidate, and ADAPT_ROLLBACK of a live receiver, wait for the switch; a rollback of a candidate rejects it at
once. ADAPT_CONFIG acts by its own ACTION alone. A change of the job's shape drops the job and the records first; the places in
the region and what TRAIN_PARTITION refuses are the model's choice (logs 84, 103). (10_receiver_adaptation.md, 16_command_messages.md, R268, R269, R270, R271, R272) -/
def Obligations.AdaptationCommandsSetLoadAndSwitch : Prop :=
  ∀ (s : State) (m : Msg) (t : State) (c : Ctx) (x : Cell),
    (let ci := c.f 0x10 1
     let a := getAdapt t ci
     getCell t ci = some x → ci ≤ 47 →
      (Carried s 0x0A00 0x104 96 m t c →
        (adaptAction m = 0 → setFieldsOk c = true → mayAdapt t m.src (some x) (some (c.f 0x14 1)) = true →
          (∀ q, getPart t x.part = some q → q.holds (c.f 0x48 8) (c.f 0x18 2 * pageBytes) = true) → a.phase = phOff ∨ a.phase = phTraining →
          (∀ w, (a.job = none ∧ a.config = [] ∧ loadAdapt t ci m.body m.src = (w, none)) ∨
              (a.job.isSome = true ∧ (a.config.drop 0xC).take 3 = (m.body.drop 0xC).take 3 ∧ a.f 0x40 8 = c.f 0x40 8 ∧ a.f 0x3C 1 = c.f 0x3C 1 ∧
                a.f 0x14 1 = c.f 0x14 1 ∧ w = t) →
            (let on := bit (c.f 0x13 1) 0
             let v := updAdapt w ci fun a =>
               { a with config := m.body, owner := m.src, enable := on, auto := bit (c.f 0x13 1) 1, phase := if on then phTraining else phOff }
             let u := if on then v else abandonRound v ci
             exec (.adaptConfig m) s = .next (answered (updCell u ci fun y => { y with learned := bit (c.f 0x13 1) 2 && (slotWith u x 3).isSome }) c
               (Done.of eOk)))) ∧
          (∀ w d, a.job = none → a.config = [] → loadAdapt t ci m.body m.src = (w, some d) → exec (.adaptConfig m) s = .next (answered w c d))) ∧
        (adaptAction m = 0 → setFieldsOk c = true → mayAdapt t m.src (some x) (some (c.f 0x14 1)) = true →
          (∀ q, getPart t x.part = some q → q.holds (c.f 0x48 8) (c.f 0x18 2 * pageBytes) = true) → a.phase = phOff ∨ a.phase = phTraining →
          a.job = none ∨ (a.config.drop 0xC).take 3 ≠ (m.body.drop 0xC).take 3 ∨ a.f 0x40 8 ≠ c.f 0x40 8 ∨ a.f 0x3C 1 ≠ c.f 0x3C 1 ∨
            a.f 0x14 1 ≠ c.f 0x14 1 →
          (let gone := match a.job with
             | some h => updAdapt (dropAborted (abandonRound t ci) h []) ci fun a => { a with job := none }
             | none => t
           let made := loadAdapt (if a.config ≠ [] then updAdapt gone ci fun a => { a with records := [] } else gone) ci m.body m.src
           let on := bit (c.f 0x13 1) 0
           let v := updAdapt made.1 ci fun a =>
             { a with config := m.body, owner := m.src, enable := on, auto := bit (c.f 0x13 1) 1, phase := if on then phTraining else phOff }
           (∀ d, made.2 = some d → exec (.adaptConfig m) s = .next (answered made.1 c d)) ∧
           (made.2 = none → exec (.adaptConfig m) s = .next (answered (updCell (if on then v else abandonRound v ci) ci fun y =>
             { y with learned := bit (c.f 0x13 1) 2 && (slotWith (if on then v else abandonRound v ci) x 3).isSome }) c (Done.of eOk))))) ∧
        (adaptAction m ∉ [0, 1, 2, 3] → exec (.adaptConfig m) s = .next (answered t c (Done.of eVersion))) ∧
        (let img := partBytes t x.part (c.f 0x50 8) (0x100 + Config.masterBytes)
         let k := c.f 0x12 1
         let calm := abandonRound t ci
         let freed := if slotState calm x k ≠ 1 then (match slotWith calm x 1 with
           | some o => setSlotState calm x o 0
           | none => calm) else calm
         adaptAction m = 1 → k ≤ 1 → aligned (c.f 0x50 8) 64 = true → (∃ q, getPart t x.part = some q ∧ q.holds (c.f 0x50 8) (0x100 + Config.masterBytes) = true) →
          slotImageOk img = true → crc64 (img.drop 0x100) = imgLe img 0x10 8 → bf16Special (img.drop 0x100) = false → mayAdapt t m.src (some x) none = true →
          a.phase = phEvaluating → slotState t x k ≠ 3 →
          ∃ u, exec (.loadSlot m) s = .next (answered u c (Done.of eOk)) ∧
            (let w := writeSlotImage freed x k (imgByte img 6) (imgByte img 7) (imgByte img 8) (img.drop 0x100) 0 0 0 0
             u = updAdapt w ci fun a =>
               { a with phase := phEvaluating, sums := [], livePdus := 0, liveFails := 0, evalSlot := x.slotAt (nowNs w) })) ∧
        (let img := partBytes t x.part (c.f 0x50 8) (0x100 + Config.masterBytes)
         let k := c.f 0x12 1
         adaptAction m = 1 → k ≤ 1 → aligned (c.f 0x50 8) 64 = true → (∃ q, getPart t x.part = some q ∧ q.holds (c.f 0x50 8) (0x100 + Config.masterBytes) = true) →
          slotImageOk img = true → crc64 (img.drop 0x100) = imgLe img 0x10 8 → bf16Special (img.drop 0x100) = false → mayAdapt t m.src (some x) none = true →
          a.phase = phOff ∨ a.phase = phTraining → slotState t x k ≠ 3 →
          exec (.loadSlot m) s = .next (answered (updAdapt (writeSlotImage (abandonRound t ci) x k (imgByte img 6) (imgByte img 7) (imgByte img 8)
            (img.drop 0x100) 0 0 0 0) ci fun a =>
              { a with phase := phEvaluating, sums := [], livePdus := 0, liveFails := 0, evalSlot := x.slotAt (nowNs (writeSlotImage (abandonRound t ci) x k (imgByte img 6) (imgByte img 7) (imgByte img 8) (img.drop 0x100) 0 0 0 0)) })
            c (Done.of eOk))) ∧
        (adaptAction m = 2 → c.f 0x12 1 ≤ 1 → mayAdapt t m.src (some x) none = true → a.phase ≠ phPassed → a.phase ≠ phProbation →
          slotState t x (c.f 0x12 1) ≠ 3 →
          exec (.clearSlot m) s = .next (answered (if a.phase = phEvaluating ∧ slotState t x (c.f 0x12 1) = 1 then rejectCandidate t ci
            else setSlotState t x (c.f 0x12 1) 0) c (Done.of eOk))) ∧
        (adaptAction m = 3 → mayAdapt t m.src (some x) none = true → exec (.adaptQuery m) s = .next (answered t c
          ⟨eOk, a.phase + 256 * slotState t x 0 + 65536 * slotState t x 1 + 16777216 * b2n x.learned, a.sums.length, a.records.length,
            min a.rounds (2 ^ 32 - 1)⟩))) ∧
      (Carried s 0x0A01 0x104 24 m t c → c.f 0x11 1 = 0 → c.zero 0x12 0x18 = true → mayAdapt t m.src (some x) none = true → a.phase = phPassed →
        exec (.adaptPromote m) s = .next (waits (promote t ci (some c.tid)))) ∧
      (Carried s 0x0A02 0x104 24 m t c → c.f 0x11 1 < 2 → c.zero 0x12 0x18 = true → mayAdapt t m.src (some x) none = true →
        (a.phase = phEvaluating ∨ a.phase = phPassed → exec (.adaptRollback m) s = .next (answered (rejectCandidate t ci) c ⟨eOk, 0xFFFFFFFF, 0, 0, 0⟩)) ∧
        (a.phase = phProbation ∨ (a.phase ≠ phEvaluating ∧ a.phase ≠ phPassed ∧ (slotWith t x 3).isSome = true) →
          exec (.adaptRollback m) s = .next (waits (rollback t ci 3 (bit (c.f 0x11 1) 0) (some c.tid) (0, 0)))))) ∧
    (adaptAction m ∈ [1, 2, 3] → exec (.adaptConfig m) s = .next s) ∧
    (adaptAction m ≠ 1 → exec (.loadSlot m) s = .next s) ∧ (adaptAction m ≠ 2 → exec (.clearSlot m) s = .next s) ∧
    (adaptAction m ≠ 3 → exec (.adaptQuery m) s = .next s)

/-- On a RUNNING till that the tellers read, a message that is complete is taken off the till and does what the command of its
opcode does: of a command till every host command, of a service till the requests of its clients. A till that is not
RUNNING, holds nothing or is of another KIND, and a message that is not complete yet or that the tellers may not take, change nothing. A message with an
uncorrectable slot is taken and completes with E_FAULT, its till running on; one of an unassigned opcode or a bad LENGTH is
taken and refused (the body of the latter is the model's choice, log 14). (16_command_messages.md, 15_host_interface.md, 19_reliability.md, R406, R407, R417, R418, R420, R430, R498) -/
def Obligations.MessagesActAsTheirCommands : Prop :=
  ∀ (s : State) (till : Nat),
    (let t := getTill s till
     (t.state ≠ .running ∨ (t.kind ≠ 0 ∧ t.kind ≠ 4) ∨ t.used = 0 → exec (.messageTake till) s = .next s) ∧
     (t.state = .running → t.kind = 0 ∨ t.kind = 4 → t.used ≠ 0 → lengthOk (imgLe (t.slotsFrom s.host.tillMem 1) 4 2) = false →
       (let p := parseMsg (tillSource s t) (some till) (t.slotsFrom s.host.tillMem 1)
        (mayTake s p.2 = false → exec (.messageTake till) s = .next s) ∧
        (mayTake s p.2 = true → ∃ u, takeMessage p.1 p.2 s = some u ∧ exec (.messageTake till) s = .next u))) ∧
     (t.state = .running → t.kind = 0 ∨ t.kind = 4 → t.used ≠ 0 → lengthOk (imgLe (t.slotsFrom s.host.tillMem 1) 4 2) = true →
       (let k := ceilDiv (imgLe (t.slotsFrom s.host.tillMem 1) 4 2) 64
        let p := parseMsg (tillSource s t) (some till) (t.slotsFrom s.host.tillMem k)
        let w := passSlots s till k
        (t.used < k → exec (.messageTake till) s = .next s) ∧
        (mayTake w p.2 = false → exec (.messageTake till) s = .next s) ∧
        (k ≤ t.used → slotsBad s t k = true → mayTake w p.2 = true →
          ∃ u, exec (.messageTake till) s = .next (finish u w.host.nextTicket (Done.of eFault)) ∧ (getTill u till).cons = t.cons + BitVec.ofNat 16 k ∧
            (getTill u till).state = .running ∧ u.work = s.work) ∧
        (k ≤ t.used → slotsBad s t k = false → mayTake w p.2 = true →
          (t.kind = 0 → ∀ e ∈
          [((0x0000 : Nat), Instr.hello p.2), (0x0001, .bye p.2), (0x0002, .tillConfig p.2), (0x0003, .tillReset p.2), (0x0100, .partCreate p.2),
           (0x0101, .partDestroy p.2), (0x0102, .partBind p.2), (0x0103, .partQuery p.2), (0x0200, .memMap p.2), (0x0201, .memUnmap p.2),
           (0x0202, .memQuery p.2), (0x0300, .jobLoad p.2), (0x0301, .jobStart p.2), (0x0302, .jobStop p.2), (0x0303, .jobUnload p.2),
           (0x0304, .planSelect p.2), (0x0305, .jobQuery p.2), (0x0400, .tallyAdd p.2), (0x0401, .tallyRead p.2), (0x0402, .tallyWait p.2),
           (0x0403, .tallyQuery p.2), (0x0500, .ledgerRead p.2), (0x0501, .ledgerClear p.2), (0x0600, .capSet p.2), (0x0601, .capQuery p.2),
           (0x0700, .timeQuery p.2), (0x0801, .cellStart p.2), (0x0802, .cellStop p.2), (0x0803, .cellStats p.2), (0x0900, .svcOpen p.2),
           (0x0901, .svcClose p.2), (0x0902, .svcQuery p.2), (0x0A01, .adaptPromote p.2), (0x0A02, .adaptRollback p.2), (0x0B00, .selftest p.2),
           (0x0B01, .fwStage p.2), (0x0B02, .fwActivate p.2), (0x0B03, .lcAdvance p.2), (0x0B04, .mendUpdate p.2), (0x0B05, .sealArm p.2),
           (0x0C00, .dbgHalt p.2), (0x0C01, .dbgStep p.2), (0x0C02, .dbgResume p.2), (0x0C03, .dbgRead p.2)],
            p.1 = e.1 → exec (.messageTake till) s = exec e.2 w) ∧
          (t.kind = 0 → p.1 = 0x0800 → exec (.messageTake till) s = exec (.fapiTunnel p.2) w) ∧
          (t.kind = 0 → p.1 = 0x0A00 →
            (adaptAction p.2 = 1 → exec (.messageTake till) s = exec (.loadSlot p.2) w) ∧
            (adaptAction p.2 = 2 → exec (.messageTake till) s = exec (.clearSlot p.2) w) ∧
            (adaptAction p.2 = 3 → exec (.messageTake till) s = exec (.adaptQuery p.2) w) ∧
            (adaptAction p.2 ∉ [1, 2, 3] → exec (.messageTake till) s = exec (.adaptConfig p.2) w)) ∧
          (t.kind = 0 → hostOp p.1 = none → ∃ u, takeCommand p.1 none p.2 w = some u ∧ exec (.messageTake till) s = .next u) ∧
          (t.kind = 4 → ∀ e ∈ [((0x0910 : Nat), Instr.sessionOpen p.2), (0x0911, .sessionAppend p.2), (0x0912, .sessionGenerate p.2),
              (0x0913, .sessionFork p.2), (0x0914, .sessionClose p.2)],
            p.1 = e.1 → exec (.messageTake till) s = exec e.2 w)))))

/-- SVC_OPEN of an idle best-effort job with fields in range binds the service to the job, or answers E_NOFIT where the
partition has no such service VLAN; SVC_QUERY answers sessions, free frames, host pages and steps; SVC_CLOSE begins the end.
A client's SESSION_OPEN makes the next session with its tokens queued, those of shared registered pages left out, and starts
the job's invocation where none runs; SESSION_APPEND queues tokens, after the
root of an IDLE session, which then computes them; SESSION_GENERATE makes it GENERATING, or ends at once where its context
is full; SESSION_FORK copies a session between steps; SESSION_CLOSE between steps removes it alone. A completed copy moves
the page's frame to its overflow slot, or back; a session without a frame for 1 s ends its request. A service frame goes to
the request till, or counts UNKNOWN_VLAN, SVC_BAD or SVC_FULL. The full test of the context and the pages of a shared prompt are the model's choice (logs 68, 69). (11_attention_and_kv_pages.md, 17_network_timing_and_link.md, R276, R277, R288, R289, R294, R298, R299, R300, R302, R450) -/
def Obligations.ServicesServeTheirSessions : Prop :=
  ∀ (s : State) (m : Msg) (t : State) (c : Ctx),
    (∀ j : Job, Carried s 0x0900 0x200 112 m t c → (∀ l ∈ t.work.loading, l.handle ≠ c.f 0x10 4) → getJob t (c.f 0x10 4) = some j →
      (let v := c.newSvc j.part
       ∀ q, c.svcFields = true → v.paramsOk j.image = true → hostOf t m.src j.part = true → v.placedOk j.image = true →
        j.bestEffort = true → j.rules = true → j.byHost = true → j.service = none → j.run = none → j.lostCore ≠ 2 →
        Tbl.has t.services (c.f 0x14 1) = false → getPart t j.part = some q → v.f 0x18 2 < q.tillCount →
        (getTill t (partTill j.part (v.f 0x18 2))).state ≠ .unconfigured → (getTill t (partTill j.part (v.f 0x18 2))).kind = 4 →
        (let bound := q.vlans.any fun w => decide (w.mac = v.f 0x15 1 ∧ w.kind = 2 ∧ w.vid = v.f 0x16 2)
         let w := putJob t (c.f 0x10 4) { j with service := some (c.f 0x14 1), pool := some (v.pool, v.frames, v.frameBytes) }
         (bound = true → exec (.svcOpen m) s = .next (answered { w with services := Tbl.put w.services (c.f 0x14 1) v } c (Done.of eOk))) ∧
         (bound = false → exec (.svcOpen m) s = .next (answered t c ⟨eNofit, 0xFFFF000B, 0, 0, 0⟩))))) ∧
    (∀ v : Svc, c.f 0x10 1 ≤ 7 → c.zero 0x11 0x18 = true → getSvc t (c.f 0x10 1) = some v → hostOf t m.src v.part = true →
      (Carried s 0x0902 0x200 24 m t c → exec (.svcQuery m) s = .next (answered t c
        ⟨eOk, v.sessions.length, v.freeFrames.length, (v.pages.filter fun p => p.state = pgHost).length, v.steps⟩)) ∧
      (Carried s 0x0901 0x200 24 m t c → v.closing = none →
        (let w := updSvc t (c.f 0x10 1) fun v => { v with closing := some c.tid }
         (((getJob t v.job).bind Job.run) = none → exec (.svcClose m) s = .next (waits (settleServices w))) ∧
         (∀ r, (getJob t v.job).bind Job.run = some r →
           exec (.svcClose m) s = .next (waits (settleServices (if r.ending then w else stopAfterEpoch w v.job none))))))) ∧
    (∀ (i addr : Nat) (e v : Svc), m.till.bind (svcOfTill s) = some (i, e) → m.src = .client addr → getSvc t i = some v →
      (∀ n total : Nat, Carried s 0x0910 0 (8 * ceilDiv (32 + 4 * n) 8) m t c → n = c.f 0x16 2 → total = c.f 0x18 4 → c.f 0x14 2 < 2 → n ≤ 1016 →
        1 ≤ total → n ≤ total → total + v.positions ≤ v.maxPages * 256 → c.zero 0x1C 0x20 = true → c.tokensOk n = true → v.closing = none →
        v.sessions.length < v.f 0x26 2 → v.session v.nextSession = none →
        ∃ u v' x, exec (.sessionOpen m) s = .next (answered (if ((getJob t v.job).bind Job.run).isSome then u else startService u i) c
            ⟨eOk, v.nextSession, 256 * x.pages.length, 0, 0⟩) ∧ getSvc u i = some v' ∧
          v'.nextSession = v.nextSession + 1 ∧ v'.session v.nextSession = some x ∧ x.client = c.f 0x10 4 ∧ x.total = total ∧
          x.length = 256 * x.pages.length ∧ x.queued = (c.tokens n).drop x.length ∧ x.addr = addr ∧ x.share = decide (c.f 0x14 2 = 1) ∧
          (c.f 0x14 2 = 0 → x.pages = []) ∧ (∀ p ∈ x.pages, (v.page p).registered = true) ∧
          (x.pages = [] → x.phase = (if n = total then phPrefill else phOpening)) ∧
          u.host = t.host ∧ u.work.jobs = t.work.jobs) ∧
      (∀ x : Session, v.session (c.f 0x10 4) = some x → x.closing = none →
        (∀ n, Carried s 0x0911 0 (8 * ceilDiv (32 + 4 * n) 8) m t c → n = c.f 0x14 2 → 1 ≤ n → n ≤ 1016 → c.zero 0x16 0x20 = true → c.tokensOk n = true →
          (x.phase = phOpening → x.length + x.queued.length + n ≤ x.total → ∃ u v' y, exec (.sessionAppend m) s = .next (answered u c (Done.of eOk)) ∧
            getSvc u i = some v' ∧ v'.session x.id = some y ∧ y.queued = x.queued ++ c.tokens n ∧ y.pages = x.pages) ∧
          (x.phase = phIdle → x.length + x.root.toList.length + n + v.positions ≤ v.maxPages * 256 →
            ∃ u v' y, exec (.sessionAppend m) s = .next (answered u c (Done.of eOk)) ∧ getSvc u i = some v' ∧ v'.session x.id = some y ∧
              y.queued = x.root.toList ++ c.tokens n ∧ y.root = none ∧ y.phase = phPrefill ∧ y.pages = x.pages)) ∧
        (Carried s 0x0912 0 48 m t c → 1 ≤ c.f 0x14 4 → c.f 0x14 4 ≤ 65535 → c.f 0x28 4 < 2 → c.zero 0x2C 0x30 = true → x.phase = phIdle →
          (x.length + v.positions ≤ v.maxPages * 256 → ∃ u v' y, exec (.sessionGenerate m) s = .next (waits u) ∧ getSvc u i = some v' ∧
            v'.session x.id = some y ∧ y.phase = phGenerating ∧ y.root = x.root ∧ y.gen = some
              { ticket := c.tid, left := c.f 0x14 4, emitted := 0, stops := ((List.range 4).map fun k => c.f (0x18 + 4 * k) 4).filter fun t => t ≠ 0xFFFFFFFF, speculate := decide (c.f 0x28 4 = 1) }) ∧
          (v.maxPages * 256 < x.length + v.positions → ∃ u v' y, exec (.sessionGenerate m) s = .next (waits (finish u c.tid ⟨eOk, 0, 2, 0, 0⟩)) ∧
            getSvc u i = some v' ∧ v'.session x.id = some y ∧ y.phase = phIdle ∧ y.gen = none)) ∧
        (Carried s 0x0913 0 24 m t c →
          (v.inBatch x.id = false → x.phase = phIdle → v.sessions.length < v.f 0x26 2 → v.session v.nextSession = none →
            ∃ u v' y, exec (.sessionFork m) s = .next (answered u c ⟨eOk, v.nextSession, 0, 0, 0⟩) ∧ getSvc u i = some v' ∧
              v'.session v.nextSession = some y ∧ y.pages = x.pages ∧ y.length = x.length ∧ y.root = x.root ∧ y.client = c.f 0x14 4) ∧
          (v.inBatch x.id = true → x.phase ≠ phOpening → x.phase < 4 → ∃ u v' y, exec (.sessionFork m) s = .next (waits u) ∧ getSvc u i = some v' ∧
            v'.session x.id = some y ∧ y.forks = x.forks ++ [(c.tid, c.f 0x14 4, addr)] ∧ v'.sessions.length = v.sessions.length)) ∧
        (Carried s 0x0914 0 24 m t c → c.zero 0x14 0x18 = true → x.phase < 4 →
          (v.inBatch x.id = false → ∃ u v', exec (.sessionClose m) s = .next (waits u) ∧ getSvc u i = some v' ∧
            ∀ y, y ∈ v'.sessions ↔ y ∈ v.sessions ∧ y.id ≠ x.id) ∧
          (v.inBatch x.id = true → ∃ u v' y, exec (.sessionClose m) s = .next (waits u) ∧ getSvc u i = some v' ∧ v'.session x.id = some y ∧
            y.closing = some c.tid)))) ∧
    (∀ (i page : Nat) (v : Svc), getSvc s i = some v → (v.page page).frame = none ∨ (v.page page).hostSlot = none →
      exec (.evictionCopyComplete i page) s = .next s ∧ exec (.reloadCopyComplete i page) s = .next s) ∧
    (∀ (i page f k : Nat) (v : Svc), getSvc s i = some v → (v.page page).frame = some f → (v.page page).hostSlot = some k →
      (v.copying = some page → exec (.evictionCopyComplete i page) s = .next (startCopies (updSvc (updHost s fun h =>
        { h with hostMem := Mem.writeBytes h.hostMem (v.overflow + k * v.frameBytes) (v.read s (v.frameAt f) v.frameBytes) }) i fun v =>
          { v.updPage page fun p => ({ p with state := pgHost, frame := none } : KvPage).settle with copying := none }) i)) ∧
      (v.copying ≠ some page → exec (.evictionCopyComplete i page) s = .next s) ∧
      (v.loading = some page → (let w := hbmWrite s v.part (v.frameAt f) (Mem.bytes s.host.hostMem (v.overflow + k * v.frameBytes) v.frameBytes)
        exec (.reloadCopyComplete i page) s = .next (wakeSessions (startCopies (updSvc w i fun v =>
          { v.updPage page fun p => ({ p with state := pgResident, hostSlot := none, lastUse := v.steps } : KvPage).settle with
            loading := none
            sessions := v.sessions.map fun x => if page ∈ x.pages then { x with eligible := nowNs w } else x }) i) i))) ∧
      (v.loading ≠ some page → exec (.reloadCopyComplete i page) s = .next s)) ∧
    (∀ (i : Nat) (v : Svc) (x : Session), getSvc s i = some v → v.session x.id = some x →
      (x.starved = none ∨ x.gen = none → exec (.sessionFrameTimeout i x.id) s = .next s) ∧
      (∀ since, x.starved = some since → nowNs s < since + 1000000000 → exec (.sessionFrameTimeout i x.id) s = .next s) ∧
      (∀ since g, x.starved = some since → since + 1000000000 ≤ nowNs s → x.gen = some g → ∃ u v' y, exec (.sessionFrameTimeout i x.id) s =
        .next (finish u g.ticket ⟨eResource, 0, 0, 0, 0⟩) ∧ getSvc u i = some v' ∧ v'.session x.id = some y ∧ y.phase = phIdle ∧ y.gen = none ∧
          y.pages = x.pages)) ∧
    (∀ (mac vlan addr : Nat) (p : List Byte),
      ((getMac s mac).up = false → exec (.serviceFrame mac vlan addr p) s = .next s) ∧
      ((getMac s mac).up = true →
        (let w := countRx s mac
         let len := imgLe (p.drop 2) 4 2
         let good := imgLe p 1 1 = 0 ∧ 16 ≤ len ∧ len ≤ 4096 ∧ len % 8 = 0 ∧ ((p.drop 2).take len).length = len
         (vlanKind w mac vlan ≠ some 2 → exec (.serviceFrame mac vlan addr p) s = .next (updMac w mac fun m => { m with unknownVlan := satInc m.unknownVlan 1 })) ∧
         (vlanKind w mac vlan = some 2 → svcBound w (imgLe p 0 1) mac vlan = none ∨ ¬ good →
           exec (.serviceFrame mac vlan addr p) s = .next (updMac w mac fun m => { m with svcBad := satInc m.svcBad 1 })) ∧
         (∀ v, vlanKind w mac vlan = some 2 → svcBound w (imgLe p 0 1) mac vlan = some v → good →
           (let n := partTill v.part (v.f 0x18 2)
            let q := getTill w n
            (q.state ≠ .running ∨ q.slots - q.used < ceilDiv len 64 → exec (.serviceFrame mac vlan addr p) s =
              .next (updMac w mac fun m => { m with svcFull := satInc m.svcFull 1 })) ∧
            (q.state = .running → ceilDiv len 64 ≤ q.slots - q.used → exec (.serviceFrame mac vlan addr p) s =
              .next (writeEntry (updHost w fun h => { h with frameSrc := Tbl.set 0 h.frameSrc (q.slotAddr q.prod / 64) addr }) n
                ((p.drop 2).take len) false)))))))

/-- For a service whose DRAFT_PARENT entries name earlier drafts or 0xFF: PARENT of step position i from 1 on is DRAFT_PARENT[i
- 1] + 1, or 0 where that is 0xFF, and bit j of MASK[i] is set exactly when j is i or an ancestor of i under PARENT. Every
slot of a decode batch that the tellers form has these parents, and the step block carries both at their offsets. A session
whose SESSION_GENERATE has SPECULATE 0, or a service with DRAFT_N 0, runs one position. (R297) -/
def Obligations.StepPositionsHaveParentsAndMasks : Prop :=
  ∀ v : Svc, v.draftN ≤ 15 → (∀ k, k < v.draftN → v.draftParent k = 0xFF ∨ v.draftParent k < k) →
    (∀ i, 1 ≤ i → i ≤ v.draftN → (v.parents (v.draftN + 1))[i]? = some (if v.draftParent (i - 1) = 0xFF then 0 else v.draftParent (i - 1) + 1)) ∧
    (let ps := v.parents (v.draftN + 1)
     ∀ i j, i ≤ v.draftN → ((maskOf ps i).testBit j = true ↔ Relation.ReflTransGen (fun a b => 1 ≤ a ∧ ps[a]? = some b) i j)) ∧
    (∀ (s : State) (n : Nat) (xs : List Session), getSvc s n = some v →
      ∀ b ∈ (fillBatch n false s xs []).2, b.parents = v.parents b.tokens.length) ∧
    (∀ (b : BatchSlot) (x : Session) (i : Nat), b.parents = v.parents (v.draftN + 1) → i ≤ v.draftN →
      imgLe (v.slotData (some (b, x))) (0x10 + i) 1 = nth 0xFF b.parents i ∧
      imgLe (v.slotData (some (b, x))) (0x20 + 2 * i) 2 = maskOf b.parents i) ∧
    (∀ x : Session, x.phase = phGenerating → (∀ g, x.gen = some g → g.speculate = false) ∨ v.draftN = 0 → (v.nextTokens x).length = 1)

/-- State.reset satisfies the invariant of memories. No partition, job, cell, service or command in progress exists; every tally
and every byte of memory is 0; the device is not READY; each of the 32 functions has FN_ERROR 0, IRQ_CAUSE 0, IRQ_MASK 0xF,
DB_ENABLE 0, QUIESCE 0 and no session, and its three function tills run empty as command, completion and event till; vector,
matrix and signal units hold no program; device time is 0 and free-running. That memories and registers without a stated
reset value are 0 is the model's choice (log 62). (22_startup_and_reset.md, 15_host_interface.md, R395, R399, R462) -/
def Obligations.ResetStateIsFresh : Prop :=
  Inv State.reset ∧ State.reset.pending = [] ∧ State.reset.work.parts = [] ∧ State.reset.work.jobs = [] ∧ State.reset.radio.cells = [] ∧
    State.reset.services = [] ∧ State.reset.host.tickets = [] ∧ State.reset.sys.ready = false ∧
    (∀ n, (getTally State.reset n).value = 0) ∧ (∀ a, Mem.read State.reset.work.hbm a = 0) ∧ (∀ c a, Mem.read (getCore State.reset c).scratch a = 0) ∧
    (∀ f : Fin 32, (getFn State.reset f.val).error = 0 ∧ (getFn State.reset f.val).irqCause = 0 ∧ (getFn State.reset f.val).irqMask = 0xF ∧
      (getFn State.reset f.val).dbEnable = false ∧ (getFn State.reset f.val).quiesce = false ∧ (getFn State.reset f.val).session = none ∧
      ∀ k, k < 3 → (getTill State.reset (fnTill f.val k)).state = .running ∧ (getTill State.reset (fnTill f.val k)).used = 0 ∧
        (getTill State.reset (fnTill f.val k)).kind = BitVec.ofNat 3 k) ∧
    (∀ c, (getEng State.reset c).sig.running = false ∧ (getEng State.reset c).vec.active = false) ∧
    nowNs State.reset = 0 ∧ State.reset.net.timing.state = .freeRun

/-- For every state whose byte memories (HBM, the tills' memory, the host memory that DMA reaches, every scratchpad) are in
canonical form: whatever command stands in front of the queue, if a step answers a next state, the memories are in canonical
form there as well, the queue is what followed that command, the part, the stepping and the factory map in fuses are as
before, and the floor of security versions has not fallen. The canonical form and the queue are the model's own. (20_security_and_life_cycle.md, 19_reliability.md, R504, R523) -/
def Obligations.EveryStepKeepsMemoriesFusesAndOrder : Prop :=
  ∀ s t : State, Inv s → step s = .next t → Inv t ∧ t.pending = s.pending.tail ∧ FusesKept s t

end
end

