-- ==== Sys2Proof/Laws/Tbl.lean ====
section
/-! SUPPORT. Tables and byte memories: what a read gives after a write, and that every operation keeps the canonical form. -/

namespace Sys2Proof

section
variable {α : Type}

@[simp] theorem Tbl.find_nil (n : Nat) : Tbl.find ([] : Tbl α) n = none := rfl
@[simp] theorem Tbl.get_nil (d : α) (n : Nat) : Tbl.get d ([] : Tbl α) n = d := rfl

theorem Tbl.get_eq_find (d : α) (t : Tbl α) (n : Nat) : Tbl.get d t n = (Tbl.find t n).getD d := by
  induction t with
  | nil => rfl
  | cons e t ih => obtain ⟨k, v⟩ := e; simp only [Tbl.get, Tbl.find]; split <;> simp_all

@[simp] theorem Tbl.find_put_self (t : Tbl α) (n : Nat) (v : α) : Tbl.find (Tbl.put t n v) n = some v := by
  induction t with
  | nil => simp [Tbl.put, Tbl.find]
  | cons e t ih =>
    obtain ⟨k, w⟩ := e
    simp only [Tbl.put]
    split
    · simp [Tbl.find]
    · split
      · simp [Tbl.find]
      · rename_i h; simp [Tbl.find, Ne.symm h, ih]

@[simp] theorem Tbl.find_put_other (t : Tbl α) {n m : Nat} (v : α) (h : m ≠ n) : Tbl.find (Tbl.put t n v) m = Tbl.find t m := by
  induction t with
  | nil => simp [Tbl.put, Tbl.find, Ne.symm h]
  | cons e t ih =>
    obtain ⟨k, w⟩ := e
    simp only [Tbl.put]
    split
    · simp [Tbl.find, Ne.symm h]
    · split
      · rename_i hk; subst hk; simp [Tbl.find, Ne.symm h]
      · simp [Tbl.find, ih]

@[simp] theorem Tbl.find_del_self (t : Tbl α) (n : Nat) : Tbl.find (Tbl.del t n) n = none := by
  induction t with
  | nil => rfl
  | cons e t ih => obtain ⟨k, w⟩ := e; simp only [Tbl.del]; split <;> simp_all [Tbl.find]

@[simp] theorem Tbl.find_del_other (t : Tbl α) {n m : Nat} (h : m ≠ n) : Tbl.find (Tbl.del t n) m = Tbl.find t m := by
  induction t with
  | nil => rfl
  | cons e t ih =>
    obtain ⟨k, w⟩ := e
    simp only [Tbl.del]
    split
    · rename_i hk; subst hk; simp [Tbl.find, Ne.symm h, ih]
    · simp [Tbl.find, ih]

/-- A put replaces an earlier put of the same key. -/
@[simp] theorem Tbl.put_put (t : Tbl α) (n : Nat) (v w : α) : Tbl.put (Tbl.put t n v) n w = Tbl.put t n w := by
  induction t with
  | nil => simp [Tbl.put]
  | cons e t ih =>
    obtain ⟨k, x⟩ := e
    simp only [Tbl.put]
    split
    · simp [Tbl.put]
    · split
      · simp [Tbl.put]
      · rename_i h1 h2; simp [Tbl.put, h1, h2, ih]

variable [DecidableEq α]

@[simp] theorem Tbl.get_set_self (d : α) (t : Tbl α) (n : Nat) (v : α) : Tbl.get d (Tbl.set d t n v) n = v := by
  rw [Tbl.get_eq_find, Tbl.set]
  split <;> simp_all

@[simp] theorem Tbl.get_set_other (d : α) (t : Tbl α) {n m : Nat} (v : α) (h : m ≠ n) :
    Tbl.get d (Tbl.set d t n v) m = Tbl.get d t m := by
  rw [Tbl.get_eq_find, Tbl.get_eq_find, Tbl.set]
  split <;> simp [h]

@[simp] theorem Tbl.get_upd_self (d : α) (t : Tbl α) (n : Nat) (f : α → α) : Tbl.get d (Tbl.upd d t n f) n = f (Tbl.get d t n) := by
  simp [Tbl.upd]

@[simp] theorem Tbl.get_upd_other (d : α) (t : Tbl α) {n m : Nat} (f : α → α) (h : m ≠ n) :
    Tbl.get d (Tbl.upd d t n f) m = Tbl.get d t m := by
  simp [Tbl.upd, h]

/-! ### The canonical form, as two facts about entries -/

/-- Keys strictly rising and no entry equal to the default. -/
theorem Tbl.wf_iff (d : α) (t : Tbl α) :
    Tbl.wf d t = true ↔ t.Pairwise (fun a b => a.1 < b.1) ∧ ∀ e ∈ t, e.2 ≠ d := by
  induction t with
  | nil => simp [Tbl.wf]
  | cons e t ih =>
    obtain ⟨k, v⟩ := e
    cases t with
    | nil => simp [Tbl.wf]
    | cons e' t =>
      obtain ⟨k', v'⟩ := e'
      have ih' := ih
      simp only [Tbl.wf, Bool.and_eq_true, decide_eq_true_eq, List.pairwise_cons, List.mem_cons, forall_eq_or_imp] at ih' ⊢
      rw [ih']
      constructor
      · rintro ⟨⟨h1, h2⟩, ⟨h3, h4⟩, h5, h6⟩
        refine ⟨⟨⟨h1, fun a ha => lt_trans h1 (h3 a ha)⟩, h3, h4⟩, h2, h5, h6⟩
      · rintro ⟨⟨⟨h1, _⟩, h3, h4⟩, h2, h5, h6⟩
        exact ⟨⟨h1, h2⟩, ⟨h3, h4⟩, h5, h6⟩

omit [DecidableEq α] in
theorem Tbl.mem_put {t : Tbl α} {n : Nat} {v : α} {e : Nat × α} (h : e ∈ Tbl.put t n v) : e = (n, v) ∨ e ∈ t := by
  induction t with
  | nil => simpa [Tbl.put] using h
  | cons x t ih =>
    obtain ⟨k, w⟩ := x
    simp only [Tbl.put] at h
    split at h
    · simpa using h
    · split at h
      · simp only [List.mem_cons] at h ⊢; tauto
      · simp only [List.mem_cons] at h ⊢
        rcases h with h | h
        · tauto
        · rcases ih h with h | h <;> tauto

omit [DecidableEq α] in
theorem Tbl.mem_del {t : Tbl α} {n : Nat} {e : Nat × α} (h : e ∈ Tbl.del t n) : e ∈ t := by
  induction t with
  | nil => simp [Tbl.del] at h
  | cons x t ih =>
    obtain ⟨k, w⟩ := x
    simp only [Tbl.del] at h
    split at h
    · exact List.mem_cons_of_mem _ (ih h)
    · simp only [List.mem_cons] at h ⊢
      rcases h with h | h
      · exact .inl h
      · exact .inr (ih h)

omit [DecidableEq α] in
theorem Tbl.rising_put {t : Tbl α} (n : Nat) (v : α) (h : t.Pairwise fun a b => a.1 < b.1) :
    (Tbl.put t n v).Pairwise fun a b => a.1 < b.1 := by
  induction t with
  | nil => simp [Tbl.put]
  | cons x t ih =>
    obtain ⟨k, w⟩ := x
    have hp := List.pairwise_cons.mp h
    simp only [Tbl.put]
    split
    · rename_i hk
      refine List.pairwise_cons.mpr ⟨fun a ha => ?_, h⟩
      rcases List.mem_cons.mp ha with rfl | ha
      · exact hk
      · exact lt_trans hk (hp.1 a ha)
    · split
      · rename_i hk; subst hk; exact List.pairwise_cons.mpr ⟨hp.1, hp.2⟩
      · rename_i h1 h2
        refine List.pairwise_cons.mpr ⟨fun a ha => ?_, ih hp.2⟩
        rcases Tbl.mem_put ha with rfl | ha
        · show k < n; omega
        · exact hp.1 a ha

omit [DecidableEq α] in
theorem Tbl.rising_del {t : Tbl α} (n : Nat) (h : t.Pairwise fun a b => a.1 < b.1) :
    (Tbl.del t n).Pairwise fun a b => a.1 < b.1 := by
  induction t with
  | nil => simp [Tbl.del]
  | cons x t ih =>
    obtain ⟨k, w⟩ := x
    have hp := List.pairwise_cons.mp h
    simp only [Tbl.del]
    split
    · exact ih hp.2
    · exact List.pairwise_cons.mpr ⟨fun a ha => hp.1 a (Tbl.mem_del ha), ih hp.2⟩

theorem Tbl.wf_set (d : α) {t : Tbl α} (n : Nat) (v : α) (h : Tbl.wf d t = true) : Tbl.wf d (Tbl.set d t n v) = true := by
  rw [Tbl.wf_iff] at h ⊢
  rw [Tbl.set]
  split
  · exact ⟨Tbl.rising_del n h.1, fun e he => h.2 e (Tbl.mem_del he)⟩
  · rename_i hv
    refine ⟨Tbl.rising_put n v h.1, fun e he => ?_⟩
    rcases Tbl.mem_put he with rfl | he
    · exact hv
    · exact h.2 e he

theorem Tbl.wf_upd (d : α) {t : Tbl α} (n : Nat) (f : α → α) (h : Tbl.wf d t = true) : Tbl.wf d (Tbl.upd d t n f) = true :=
  Tbl.wf_set d n _ h

theorem Tbl.wf_filter (d : α) {t : Tbl α} (p : Nat × α → Bool) (h : Tbl.wf d t = true) : Tbl.wf d (t.filter p) = true := by
  rw [Tbl.wf_iff] at h ⊢
  exact ⟨h.1.filter _, fun e he => h.2 e (List.mem_of_mem_filter he)⟩

end

/-! ### Byte memories -/

@[simp] theorem Mem.read_nil (a : Nat) : Mem.read [] a = 0 := rfl
@[simp] theorem Mem.read_write_self (m : Mem) (a : Nat) (b : Byte) : Mem.read (Mem.write m a b) a = b := Tbl.get_set_self _ _ _ _
@[simp] theorem Mem.read_write_other (m : Mem) {a x : Nat} (b : Byte) (h : x ≠ a) : Mem.read (Mem.write m a b) x = Mem.read m x :=
  Tbl.get_set_other _ _ _ h

/-- A byte outside the bytes written reads as before. -/
theorem Mem.read_writeBytes_other (m : Mem) (a : Nat) (bs : List Byte) (x : Nat) (h : x < a ∨ a + bs.length ≤ x) :
    Mem.read (Mem.writeBytes m a bs) x = Mem.read m x := by
  induction bs generalizing m a with
  | nil => rfl
  | cons b bs ih =>
    simp only [List.length_cons] at h
    rw [Mem.writeBytes, ih _ _ (by omega), Mem.read_write_other _ _ (by omega)]

/-- A byte among those written reads as written. -/
theorem Mem.read_writeBytes_at (m : Mem) (a : Nat) (bs : List Byte) (i : Nat) (h : i < bs.length) :
    Mem.read (Mem.writeBytes m a bs) (a + i) = nth 0 bs i := by
  induction bs generalizing m a i with
  | nil => simp at h
  | cons b bs ih =>
    rw [Mem.writeBytes]
    cases i with
    | zero => rw [Mem.read_writeBytes_other _ _ _ _ (by omega)]; simp [nth]
    | succ i =>
      have := ih (Mem.write m a b) (a + 1) i (by simpa using h)
      rw [show a + (i + 1) = a + 1 + i by omega, this]
      simp [nth]

/-- What was written is read back. -/
theorem Mem.bytes_writeBytes (m : Mem) (a : Nat) (bs : List Byte) : Mem.bytes (Mem.writeBytes m a bs) a bs.length = bs := by
  have h : ∀ (k : Nat) (n : Nat), k + n = bs.length → Mem.bytes (Mem.writeBytes m a bs) (a + k) n = bs.drop k := by
    intro k n
    induction n generalizing k with
    | zero => intro h; rw [List.drop_eq_nil_of_le (by simp only [Nat.add_zero] at h; omega)]; rfl
    | succ n ih =>
      intro h
      rw [Mem.bytes, Mem.read_writeBytes_at m a bs k (by omega), show a + k + 1 = a + (k + 1) by omega, ih (k + 1) (by omega)]
      rw [List.drop_eq_getElem_cons (show k < bs.length by omega)]
      simp [nth, List.getElem?_eq_getElem (show k < bs.length by omega)]
  simpa using h 0 bs.length (by omega)

@[simp] theorem leBytes_length (n v : Nat) : (leBytes n v).length = n := by
  induction n generalizing v with
  | zero => rfl
  | succ n ih => simp [leBytes, ih]

/-- A little-endian group of bytes gives back the value modulo its width. -/
@[simp] theorem leNat_leBytes (n v : Nat) : leNat (leBytes n v) = v % 256 ^ n := by
  induction n generalizing v with
  | zero => simp [leBytes, leNat, Nat.mod_one]
  | succ n ih =>
    rw [leBytes, leNat, ih, BitVec.toNat_ofNat, show 256 ^ (n + 1) = 256 * 256 ^ n by rw [pow_succ, Nat.mul_comm], Nat.mod_mul]

theorem Memory.wf_write {m : Mem} (a : Nat) (b : Byte) (h : Memory.wf m = true) : Memory.wf (Mem.write m a b) = true :=
  Tbl.wf_set _ _ _ h

theorem Memory.wf_writeBytes {m : Mem} (a : Nat) (bs : List Byte) (h : Memory.wf m = true) : Memory.wf (Mem.writeBytes m a bs) = true := by
  induction bs generalizing m a with
  | nil => exact h
  | cons b bs ih => exact ih _ (Memory.wf_write _ _ h)

theorem Memory.wf_writeLe {m : Mem} (a n v : Nat) (h : Memory.wf m = true) : Memory.wf (Mem.writeLe m a n v) = true :=
  Memory.wf_writeBytes _ _ h

theorem Memory.wf_zero {m : Mem} (lo hi : Nat) (h : Memory.wf m = true) : Memory.wf (Mem.zero m lo hi) = true :=
  Tbl.wf_filter _ _ h

theorem Memory.wf_nil : Memory.wf [] = true := rfl

/-- A cleared byte reads 0, and every other byte as before. -/
theorem Mem.read_zero (m : Mem) (lo hi a : Nat) : Mem.read (Mem.zero m lo hi) a = if lo ≤ a ∧ a < hi then 0 else Mem.read m a := by
  induction m with
  | nil => simp [Mem.zero]
  | cons e m ih =>
    obtain ⟨k, v⟩ := e
    simp only [Mem.zero, Mem.read, List.filter_cons, Tbl.get] at ih ⊢
    by_cases hk : (decide (k < lo) || decide (hi ≤ k)) = true
    · rw [if_pos hk, Tbl.get, ih]
      by_cases ha : k = a
      · subst ha
        have : ¬ (lo ≤ k ∧ k < hi) := by simp at hk; omega
        simp [this]
      · simp [ha]
    · rw [if_neg hk, ih]
      by_cases ha : k = a
      · subst ha
        have : lo ≤ k ∧ k < hi := by simp at hk; omega
        simp [this]
      · simp [ha]

end Sys2Proof
end

