-- ==== Sys2Proof/Laws/State.lean ====
section
/-! SUPPORT. What each update of the state gives for each field of the state, and what a read gives after an update. -/

namespace Sys2Proof.Machine

@[simp] theorem updHost_host (s : State) (f : HostIf → HostIf) : (updHost s f).host = f s.host := rfl
@[simp] theorem updHost_work (s : State) (f : HostIf → HostIf) : (updHost s f).work = s.work := rfl
@[simp] theorem updHost_engines (s : State) (f : HostIf → HostIf) : (updHost s f).engines = s.engines := rfl
@[simp] theorem updHost_net (s : State) (f : HostIf → HostIf) : (updHost s f).net = s.net := rfl
@[simp] theorem updHost_power (s : State) (f : HostIf → HostIf) : (updHost s f).power = s.power := rfl
@[simp] theorem updHost_rel (s : State) (f : HostIf → HostIf) : (updHost s f).rel = s.rel := rfl
@[simp] theorem updHost_sec (s : State) (f : HostIf → HostIf) : (updHost s f).sec = s.sec := rfl
@[simp] theorem updHost_mgmt (s : State) (f : HostIf → HostIf) : (updHost s f).mgmt = s.mgmt := rfl
@[simp] theorem updHost_optics (s : State) (f : HostIf → HostIf) : (updHost s f).optics = s.optics := rfl
@[simp] theorem updHost_radio (s : State) (f : HostIf → HostIf) : (updHost s f).radio = s.radio := rfl
@[simp] theorem updHost_services (s : State) (f : HostIf → HostIf) : (updHost s f).services = s.services := rfl
@[simp] theorem updHost_sys (s : State) (f : HostIf → HostIf) : (updHost s f).sys = s.sys := rfl
@[simp] theorem updHost_sent (s : State) (f : HostIf → HostIf) : (updHost s f).sent = s.sent := rfl
@[simp] theorem updHost_pending (s : State) (f : HostIf → HostIf) : (updHost s f).pending = s.pending := rfl

@[simp] theorem updWork_host (s : State) (f : Work → Work) : (updWork s f).host = s.host := rfl
@[simp] theorem updWork_work (s : State) (f : Work → Work) : (updWork s f).work = f s.work := rfl
@[simp] theorem updWork_engines (s : State) (f : Work → Work) : (updWork s f).engines = s.engines := rfl
@[simp] theorem updWork_net (s : State) (f : Work → Work) : (updWork s f).net = s.net := rfl
@[simp] theorem updWork_power (s : State) (f : Work → Work) : (updWork s f).power = s.power := rfl
@[simp] theorem updWork_rel (s : State) (f : Work → Work) : (updWork s f).rel = s.rel := rfl
@[simp] theorem updWork_sec (s : State) (f : Work → Work) : (updWork s f).sec = s.sec := rfl
@[simp] theorem updWork_mgmt (s : State) (f : Work → Work) : (updWork s f).mgmt = s.mgmt := rfl
@[simp] theorem updWork_optics (s : State) (f : Work → Work) : (updWork s f).optics = s.optics := rfl
@[simp] theorem updWork_radio (s : State) (f : Work → Work) : (updWork s f).radio = s.radio := rfl
@[simp] theorem updWork_services (s : State) (f : Work → Work) : (updWork s f).services = s.services := rfl
@[simp] theorem updWork_sys (s : State) (f : Work → Work) : (updWork s f).sys = s.sys := rfl
@[simp] theorem updWork_sent (s : State) (f : Work → Work) : (updWork s f).sent = s.sent := rfl
@[simp] theorem updWork_pending (s : State) (f : Work → Work) : (updWork s f).pending = s.pending := rfl

@[simp] theorem updNet_host (s : State) (f : Net → Net) : (updNet s f).host = s.host := rfl
@[simp] theorem updNet_work (s : State) (f : Net → Net) : (updNet s f).work = s.work := rfl
@[simp] theorem updNet_engines (s : State) (f : Net → Net) : (updNet s f).engines = s.engines := rfl
@[simp] theorem updNet_net (s : State) (f : Net → Net) : (updNet s f).net = f s.net := rfl
@[simp] theorem updNet_power (s : State) (f : Net → Net) : (updNet s f).power = s.power := rfl
@[simp] theorem updNet_rel (s : State) (f : Net → Net) : (updNet s f).rel = s.rel := rfl
@[simp] theorem updNet_sec (s : State) (f : Net → Net) : (updNet s f).sec = s.sec := rfl
@[simp] theorem updNet_mgmt (s : State) (f : Net → Net) : (updNet s f).mgmt = s.mgmt := rfl
@[simp] theorem updNet_optics (s : State) (f : Net → Net) : (updNet s f).optics = s.optics := rfl
@[simp] theorem updNet_radio (s : State) (f : Net → Net) : (updNet s f).radio = s.radio := rfl
@[simp] theorem updNet_services (s : State) (f : Net → Net) : (updNet s f).services = s.services := rfl
@[simp] theorem updNet_sys (s : State) (f : Net → Net) : (updNet s f).sys = s.sys := rfl
@[simp] theorem updNet_sent (s : State) (f : Net → Net) : (updNet s f).sent = s.sent := rfl
@[simp] theorem updNet_pending (s : State) (f : Net → Net) : (updNet s f).pending = s.pending := rfl

@[simp] theorem updTiming_host (s : State) (f : Timing → Timing) : (updTiming s f).host = s.host := rfl
@[simp] theorem updTiming_work (s : State) (f : Timing → Timing) : (updTiming s f).work = s.work := rfl
@[simp] theorem updTiming_engines (s : State) (f : Timing → Timing) : (updTiming s f).engines = s.engines := rfl
@[simp] theorem updTiming_net (s : State) (f : Timing → Timing) : (updTiming s f).net = { s.net with timing := f s.net.timing } := rfl
@[simp] theorem updTiming_power (s : State) (f : Timing → Timing) : (updTiming s f).power = s.power := rfl
@[simp] theorem updTiming_rel (s : State) (f : Timing → Timing) : (updTiming s f).rel = s.rel := rfl
@[simp] theorem updTiming_sec (s : State) (f : Timing → Timing) : (updTiming s f).sec = s.sec := rfl
@[simp] theorem updTiming_mgmt (s : State) (f : Timing → Timing) : (updTiming s f).mgmt = s.mgmt := rfl
@[simp] theorem updTiming_optics (s : State) (f : Timing → Timing) : (updTiming s f).optics = s.optics := rfl
@[simp] theorem updTiming_radio (s : State) (f : Timing → Timing) : (updTiming s f).radio = s.radio := rfl
@[simp] theorem updTiming_services (s : State) (f : Timing → Timing) : (updTiming s f).services = s.services := rfl
@[simp] theorem updTiming_sys (s : State) (f : Timing → Timing) : (updTiming s f).sys = s.sys := rfl
@[simp] theorem updTiming_sent (s : State) (f : Timing → Timing) : (updTiming s f).sent = s.sent := rfl
@[simp] theorem updTiming_pending (s : State) (f : Timing → Timing) : (updTiming s f).pending = s.pending := rfl

@[simp] theorem updRelne_host (s : State) (f : Relne → Relne) : (updRelne s f).host = s.host := rfl
@[simp] theorem updRelne_work (s : State) (f : Relne → Relne) : (updRelne s f).work = s.work := rfl
@[simp] theorem updRelne_engines (s : State) (f : Relne → Relne) : (updRelne s f).engines = s.engines := rfl
@[simp] theorem updRelne_net (s : State) (f : Relne → Relne) : (updRelne s f).net = { s.net with relne := f s.net.relne } := rfl
@[simp] theorem updRelne_power (s : State) (f : Relne → Relne) : (updRelne s f).power = s.power := rfl
@[simp] theorem updRelne_rel (s : State) (f : Relne → Relne) : (updRelne s f).rel = s.rel := rfl
@[simp] theorem updRelne_sec (s : State) (f : Relne → Relne) : (updRelne s f).sec = s.sec := rfl
@[simp] theorem updRelne_mgmt (s : State) (f : Relne → Relne) : (updRelne s f).mgmt = s.mgmt := rfl
@[simp] theorem updRelne_optics (s : State) (f : Relne → Relne) : (updRelne s f).optics = s.optics := rfl
@[simp] theorem updRelne_radio (s : State) (f : Relne → Relne) : (updRelne s f).radio = s.radio := rfl
@[simp] theorem updRelne_services (s : State) (f : Relne → Relne) : (updRelne s f).services = s.services := rfl
@[simp] theorem updRelne_sys (s : State) (f : Relne → Relne) : (updRelne s f).sys = s.sys := rfl
@[simp] theorem updRelne_sent (s : State) (f : Relne → Relne) : (updRelne s f).sent = s.sent := rfl
@[simp] theorem updRelne_pending (s : State) (f : Relne → Relne) : (updRelne s f).pending = s.pending := rfl

@[simp] theorem updPower_host (s : State) (f : Power → Power) : (updPower s f).host = s.host := rfl
@[simp] theorem updPower_work (s : State) (f : Power → Power) : (updPower s f).work = s.work := rfl
@[simp] theorem updPower_engines (s : State) (f : Power → Power) : (updPower s f).engines = s.engines := rfl
@[simp] theorem updPower_net (s : State) (f : Power → Power) : (updPower s f).net = s.net := rfl
@[simp] theorem updPower_power (s : State) (f : Power → Power) : (updPower s f).power = f s.power := rfl
@[simp] theorem updPower_rel (s : State) (f : Power → Power) : (updPower s f).rel = s.rel := rfl
@[simp] theorem updPower_sec (s : State) (f : Power → Power) : (updPower s f).sec = s.sec := rfl
@[simp] theorem updPower_mgmt (s : State) (f : Power → Power) : (updPower s f).mgmt = s.mgmt := rfl
@[simp] theorem updPower_optics (s : State) (f : Power → Power) : (updPower s f).optics = s.optics := rfl
@[simp] theorem updPower_radio (s : State) (f : Power → Power) : (updPower s f).radio = s.radio := rfl
@[simp] theorem updPower_services (s : State) (f : Power → Power) : (updPower s f).services = s.services := rfl
@[simp] theorem updPower_sys (s : State) (f : Power → Power) : (updPower s f).sys = s.sys := rfl
@[simp] theorem updPower_sent (s : State) (f : Power → Power) : (updPower s f).sent = s.sent := rfl
@[simp] theorem updPower_pending (s : State) (f : Power → Power) : (updPower s f).pending = s.pending := rfl

@[simp] theorem updRel_host (s : State) (f : Rel → Rel) : (updRel s f).host = s.host := rfl
@[simp] theorem updRel_work (s : State) (f : Rel → Rel) : (updRel s f).work = s.work := rfl
@[simp] theorem updRel_engines (s : State) (f : Rel → Rel) : (updRel s f).engines = s.engines := rfl
@[simp] theorem updRel_net (s : State) (f : Rel → Rel) : (updRel s f).net = s.net := rfl
@[simp] theorem updRel_power (s : State) (f : Rel → Rel) : (updRel s f).power = s.power := rfl
@[simp] theorem updRel_rel (s : State) (f : Rel → Rel) : (updRel s f).rel = f s.rel := rfl
@[simp] theorem updRel_sec (s : State) (f : Rel → Rel) : (updRel s f).sec = s.sec := rfl
@[simp] theorem updRel_mgmt (s : State) (f : Rel → Rel) : (updRel s f).mgmt = s.mgmt := rfl
@[simp] theorem updRel_optics (s : State) (f : Rel → Rel) : (updRel s f).optics = s.optics := rfl
@[simp] theorem updRel_radio (s : State) (f : Rel → Rel) : (updRel s f).radio = s.radio := rfl
@[simp] theorem updRel_services (s : State) (f : Rel → Rel) : (updRel s f).services = s.services := rfl
@[simp] theorem updRel_sys (s : State) (f : Rel → Rel) : (updRel s f).sys = s.sys := rfl
@[simp] theorem updRel_sent (s : State) (f : Rel → Rel) : (updRel s f).sent = s.sent := rfl
@[simp] theorem updRel_pending (s : State) (f : Rel → Rel) : (updRel s f).pending = s.pending := rfl

@[simp] theorem updSec_host (s : State) (f : Sec → Sec) : (updSec s f).host = s.host := rfl
@[simp] theorem updSec_work (s : State) (f : Sec → Sec) : (updSec s f).work = s.work := rfl
@[simp] theorem updSec_engines (s : State) (f : Sec → Sec) : (updSec s f).engines = s.engines := rfl
@[simp] theorem updSec_net (s : State) (f : Sec → Sec) : (updSec s f).net = s.net := rfl
@[simp] theorem updSec_power (s : State) (f : Sec → Sec) : (updSec s f).power = s.power := rfl
@[simp] theorem updSec_rel (s : State) (f : Sec → Sec) : (updSec s f).rel = s.rel := rfl
@[simp] theorem updSec_sec (s : State) (f : Sec → Sec) : (updSec s f).sec = f s.sec := rfl
@[simp] theorem updSec_mgmt (s : State) (f : Sec → Sec) : (updSec s f).mgmt = s.mgmt := rfl
@[simp] theorem updSec_optics (s : State) (f : Sec → Sec) : (updSec s f).optics = s.optics := rfl
@[simp] theorem updSec_radio (s : State) (f : Sec → Sec) : (updSec s f).radio = s.radio := rfl
@[simp] theorem updSec_services (s : State) (f : Sec → Sec) : (updSec s f).services = s.services := rfl
@[simp] theorem updSec_sys (s : State) (f : Sec → Sec) : (updSec s f).sys = s.sys := rfl
@[simp] theorem updSec_sent (s : State) (f : Sec → Sec) : (updSec s f).sent = s.sent := rfl
@[simp] theorem updSec_pending (s : State) (f : Sec → Sec) : (updSec s f).pending = s.pending := rfl

@[simp] theorem updMgmt_host (s : State) (f : Mgmt → Mgmt) : (updMgmt s f).host = s.host := rfl
@[simp] theorem updMgmt_work (s : State) (f : Mgmt → Mgmt) : (updMgmt s f).work = s.work := rfl
@[simp] theorem updMgmt_engines (s : State) (f : Mgmt → Mgmt) : (updMgmt s f).engines = s.engines := rfl
@[simp] theorem updMgmt_net (s : State) (f : Mgmt → Mgmt) : (updMgmt s f).net = s.net := rfl
@[simp] theorem updMgmt_power (s : State) (f : Mgmt → Mgmt) : (updMgmt s f).power = s.power := rfl
@[simp] theorem updMgmt_rel (s : State) (f : Mgmt → Mgmt) : (updMgmt s f).rel = s.rel := rfl
@[simp] theorem updMgmt_sec (s : State) (f : Mgmt → Mgmt) : (updMgmt s f).sec = s.sec := rfl
@[simp] theorem updMgmt_mgmt (s : State) (f : Mgmt → Mgmt) : (updMgmt s f).mgmt = f s.mgmt := rfl
@[simp] theorem updMgmt_optics (s : State) (f : Mgmt → Mgmt) : (updMgmt s f).optics = s.optics := rfl
@[simp] theorem updMgmt_radio (s : State) (f : Mgmt → Mgmt) : (updMgmt s f).radio = s.radio := rfl
@[simp] theorem updMgmt_services (s : State) (f : Mgmt → Mgmt) : (updMgmt s f).services = s.services := rfl
@[simp] theorem updMgmt_sys (s : State) (f : Mgmt → Mgmt) : (updMgmt s f).sys = s.sys := rfl
@[simp] theorem updMgmt_sent (s : State) (f : Mgmt → Mgmt) : (updMgmt s f).sent = s.sent := rfl
@[simp] theorem updMgmt_pending (s : State) (f : Mgmt → Mgmt) : (updMgmt s f).pending = s.pending := rfl

@[simp] theorem updOptics_host (s : State) (f : Optics → Optics) : (updOptics s f).host = s.host := rfl
@[simp] theorem updOptics_work (s : State) (f : Optics → Optics) : (updOptics s f).work = s.work := rfl
@[simp] theorem updOptics_engines (s : State) (f : Optics → Optics) : (updOptics s f).engines = s.engines := rfl
@[simp] theorem updOptics_net (s : State) (f : Optics → Optics) : (updOptics s f).net = s.net := rfl
@[simp] theorem updOptics_power (s : State) (f : Optics → Optics) : (updOptics s f).power = s.power := rfl
@[simp] theorem updOptics_rel (s : State) (f : Optics → Optics) : (updOptics s f).rel = s.rel := rfl
@[simp] theorem updOptics_sec (s : State) (f : Optics → Optics) : (updOptics s f).sec = s.sec := rfl
@[simp] theorem updOptics_mgmt (s : State) (f : Optics → Optics) : (updOptics s f).mgmt = s.mgmt := rfl
@[simp] theorem updOptics_optics (s : State) (f : Optics → Optics) : (updOptics s f).optics = f s.optics := rfl
@[simp] theorem updOptics_radio (s : State) (f : Optics → Optics) : (updOptics s f).radio = s.radio := rfl
@[simp] theorem updOptics_services (s : State) (f : Optics → Optics) : (updOptics s f).services = s.services := rfl
@[simp] theorem updOptics_sys (s : State) (f : Optics → Optics) : (updOptics s f).sys = s.sys := rfl
@[simp] theorem updOptics_sent (s : State) (f : Optics → Optics) : (updOptics s f).sent = s.sent := rfl
@[simp] theorem updOptics_pending (s : State) (f : Optics → Optics) : (updOptics s f).pending = s.pending := rfl

@[simp] theorem updSys_host (s : State) (f : Sys → Sys) : (updSys s f).host = s.host := rfl
@[simp] theorem updSys_work (s : State) (f : Sys → Sys) : (updSys s f).work = s.work := rfl
@[simp] theorem updSys_engines (s : State) (f : Sys → Sys) : (updSys s f).engines = s.engines := rfl
@[simp] theorem updSys_net (s : State) (f : Sys → Sys) : (updSys s f).net = s.net := rfl
@[simp] theorem updSys_power (s : State) (f : Sys → Sys) : (updSys s f).power = s.power := rfl
@[simp] theorem updSys_rel (s : State) (f : Sys → Sys) : (updSys s f).rel = s.rel := rfl
@[simp] theorem updSys_sec (s : State) (f : Sys → Sys) : (updSys s f).sec = s.sec := rfl
@[simp] theorem updSys_mgmt (s : State) (f : Sys → Sys) : (updSys s f).mgmt = s.mgmt := rfl
@[simp] theorem updSys_optics (s : State) (f : Sys → Sys) : (updSys s f).optics = s.optics := rfl
@[simp] theorem updSys_radio (s : State) (f : Sys → Sys) : (updSys s f).radio = s.radio := rfl
@[simp] theorem updSys_services (s : State) (f : Sys → Sys) : (updSys s f).services = s.services := rfl
@[simp] theorem updSys_sys (s : State) (f : Sys → Sys) : (updSys s f).sys = f s.sys := rfl
@[simp] theorem updSys_sent (s : State) (f : Sys → Sys) : (updSys s f).sent = s.sent := rfl
@[simp] theorem updSys_pending (s : State) (f : Sys → Sys) : (updSys s f).pending = s.pending := rfl

@[simp] theorem updChip_host (s : State) (f : Chip → Chip) : (updChip s f).host = { s.host with chip := f s.host.chip } := rfl
@[simp] theorem updChip_work (s : State) (f : Chip → Chip) : (updChip s f).work = s.work := rfl
@[simp] theorem updChip_engines (s : State) (f : Chip → Chip) : (updChip s f).engines = s.engines := rfl
@[simp] theorem updChip_net (s : State) (f : Chip → Chip) : (updChip s f).net = s.net := rfl
@[simp] theorem updChip_power (s : State) (f : Chip → Chip) : (updChip s f).power = s.power := rfl
@[simp] theorem updChip_rel (s : State) (f : Chip → Chip) : (updChip s f).rel = s.rel := rfl
@[simp] theorem updChip_sec (s : State) (f : Chip → Chip) : (updChip s f).sec = s.sec := rfl
@[simp] theorem updChip_mgmt (s : State) (f : Chip → Chip) : (updChip s f).mgmt = s.mgmt := rfl
@[simp] theorem updChip_optics (s : State) (f : Chip → Chip) : (updChip s f).optics = s.optics := rfl
@[simp] theorem updChip_radio (s : State) (f : Chip → Chip) : (updChip s f).radio = s.radio := rfl
@[simp] theorem updChip_services (s : State) (f : Chip → Chip) : (updChip s f).services = s.services := rfl
@[simp] theorem updChip_sys (s : State) (f : Chip → Chip) : (updChip s f).sys = s.sys := rfl
@[simp] theorem updChip_sent (s : State) (f : Chip → Chip) : (updChip s f).sent = s.sent := rfl
@[simp] theorem updChip_pending (s : State) (f : Chip → Chip) : (updChip s f).pending = s.pending := rfl

@[simp] theorem updCore_host (s : State) (c : Nat) (f : CoreCtl → CoreCtl) : (updCore s c f).host = s.host := rfl
@[simp] theorem updCore_work (s : State) (c : Nat) (f : CoreCtl → CoreCtl) : (updCore s c f).work = { s.work with cores := Tbl.upd CoreCtl.reset s.work.cores c f } := rfl
@[simp] theorem updCore_engines (s : State) (c : Nat) (f : CoreCtl → CoreCtl) : (updCore s c f).engines = s.engines := rfl
@[simp] theorem updCore_net (s : State) (c : Nat) (f : CoreCtl → CoreCtl) : (updCore s c f).net = s.net := rfl
@[simp] theorem updCore_power (s : State) (c : Nat) (f : CoreCtl → CoreCtl) : (updCore s c f).power = s.power := rfl
@[simp] theorem updCore_rel (s : State) (c : Nat) (f : CoreCtl → CoreCtl) : (updCore s c f).rel = s.rel := rfl
@[simp] theorem updCore_sec (s : State) (c : Nat) (f : CoreCtl → CoreCtl) : (updCore s c f).sec = s.sec := rfl
@[simp] theorem updCore_mgmt (s : State) (c : Nat) (f : CoreCtl → CoreCtl) : (updCore s c f).mgmt = s.mgmt := rfl
@[simp] theorem updCore_optics (s : State) (c : Nat) (f : CoreCtl → CoreCtl) : (updCore s c f).optics = s.optics := rfl
@[simp] theorem updCore_radio (s : State) (c : Nat) (f : CoreCtl → CoreCtl) : (updCore s c f).radio = s.radio := rfl
@[simp] theorem updCore_services (s : State) (c : Nat) (f : CoreCtl → CoreCtl) : (updCore s c f).services = s.services := rfl
@[simp] theorem updCore_sys (s : State) (c : Nat) (f : CoreCtl → CoreCtl) : (updCore s c f).sys = s.sys := rfl
@[simp] theorem updCore_sent (s : State) (c : Nat) (f : CoreCtl → CoreCtl) : (updCore s c f).sent = s.sent := rfl
@[simp] theorem updCore_pending (s : State) (c : Nat) (f : CoreCtl → CoreCtl) : (updCore s c f).pending = s.pending := rfl

@[simp] theorem updEng_host (s : State) (c : Nat) (f : Engines → Engines) : (updEng s c f).host = s.host := rfl
@[simp] theorem updEng_work (s : State) (c : Nat) (f : Engines → Engines) : (updEng s c f).work = s.work := rfl
@[simp] theorem updEng_engines (s : State) (c : Nat) (f : Engines → Engines) : (updEng s c f).engines = Tbl.upd Engines.reset s.engines c f := rfl
@[simp] theorem updEng_net (s : State) (c : Nat) (f : Engines → Engines) : (updEng s c f).net = s.net := rfl
@[simp] theorem updEng_power (s : State) (c : Nat) (f : Engines → Engines) : (updEng s c f).power = s.power := rfl
@[simp] theorem updEng_rel (s : State) (c : Nat) (f : Engines → Engines) : (updEng s c f).rel = s.rel := rfl
@[simp] theorem updEng_sec (s : State) (c : Nat) (f : Engines → Engines) : (updEng s c f).sec = s.sec := rfl
@[simp] theorem updEng_mgmt (s : State) (c : Nat) (f : Engines → Engines) : (updEng s c f).mgmt = s.mgmt := rfl
@[simp] theorem updEng_optics (s : State) (c : Nat) (f : Engines → Engines) : (updEng s c f).optics = s.optics := rfl
@[simp] theorem updEng_radio (s : State) (c : Nat) (f : Engines → Engines) : (updEng s c f).radio = s.radio := rfl
@[simp] theorem updEng_services (s : State) (c : Nat) (f : Engines → Engines) : (updEng s c f).services = s.services := rfl
@[simp] theorem updEng_sys (s : State) (c : Nat) (f : Engines → Engines) : (updEng s c f).sys = s.sys := rfl
@[simp] theorem updEng_sent (s : State) (c : Nat) (f : Engines → Engines) : (updEng s c f).sent = s.sent := rfl
@[simp] theorem updEng_pending (s : State) (c : Nat) (f : Engines → Engines) : (updEng s c f).pending = s.pending := rfl

@[simp] theorem putJob_host (s : State) (h : Nat) (j : Job) : (putJob s h j).host = s.host := rfl
@[simp] theorem putJob_work (s : State) (h : Nat) (j : Job) : (putJob s h j).work = { s.work with jobs := Tbl.put s.work.jobs h j } := rfl
@[simp] theorem putJob_engines (s : State) (h : Nat) (j : Job) : (putJob s h j).engines = s.engines := rfl
@[simp] theorem putJob_net (s : State) (h : Nat) (j : Job) : (putJob s h j).net = s.net := rfl
@[simp] theorem putJob_power (s : State) (h : Nat) (j : Job) : (putJob s h j).power = s.power := rfl
@[simp] theorem putJob_rel (s : State) (h : Nat) (j : Job) : (putJob s h j).rel = s.rel := rfl
@[simp] theorem putJob_sec (s : State) (h : Nat) (j : Job) : (putJob s h j).sec = s.sec := rfl
@[simp] theorem putJob_mgmt (s : State) (h : Nat) (j : Job) : (putJob s h j).mgmt = s.mgmt := rfl
@[simp] theorem putJob_optics (s : State) (h : Nat) (j : Job) : (putJob s h j).optics = s.optics := rfl
@[simp] theorem putJob_radio (s : State) (h : Nat) (j : Job) : (putJob s h j).radio = s.radio := rfl
@[simp] theorem putJob_services (s : State) (h : Nat) (j : Job) : (putJob s h j).services = s.services := rfl
@[simp] theorem putJob_sys (s : State) (h : Nat) (j : Job) : (putJob s h j).sys = s.sys := rfl
@[simp] theorem putJob_sent (s : State) (h : Nat) (j : Job) : (putJob s h j).sent = s.sent := rfl
@[simp] theorem putJob_pending (s : State) (h : Nat) (j : Job) : (putJob s h j).pending = s.pending := rfl

@[simp] theorem updMac_host (s : State) (m : Nat) (f : Mac → Mac) : (updMac s m f).host = s.host := rfl
@[simp] theorem updMac_work (s : State) (m : Nat) (f : Mac → Mac) : (updMac s m f).work = s.work := rfl
@[simp] theorem updMac_engines (s : State) (m : Nat) (f : Mac → Mac) : (updMac s m f).engines = s.engines := rfl
@[simp] theorem updMac_net (s : State) (m : Nat) (f : Mac → Mac) : (updMac s m f).net = { s.net with macs := modNth s.net.macs m f } := rfl
@[simp] theorem updMac_power (s : State) (m : Nat) (f : Mac → Mac) : (updMac s m f).power = s.power := rfl
@[simp] theorem updMac_rel (s : State) (m : Nat) (f : Mac → Mac) : (updMac s m f).rel = s.rel := rfl
@[simp] theorem updMac_sec (s : State) (m : Nat) (f : Mac → Mac) : (updMac s m f).sec = s.sec := rfl
@[simp] theorem updMac_mgmt (s : State) (m : Nat) (f : Mac → Mac) : (updMac s m f).mgmt = s.mgmt := rfl
@[simp] theorem updMac_optics (s : State) (m : Nat) (f : Mac → Mac) : (updMac s m f).optics = s.optics := rfl
@[simp] theorem updMac_radio (s : State) (m : Nat) (f : Mac → Mac) : (updMac s m f).radio = s.radio := rfl
@[simp] theorem updMac_services (s : State) (m : Nat) (f : Mac → Mac) : (updMac s m f).services = s.services := rfl
@[simp] theorem updMac_sys (s : State) (m : Nat) (f : Mac → Mac) : (updMac s m f).sys = s.sys := rfl
@[simp] theorem updMac_sent (s : State) (m : Nat) (f : Mac → Mac) : (updMac s m f).sent = s.sent := rfl
@[simp] theorem updMac_pending (s : State) (m : Nat) (f : Mac → Mac) : (updMac s m f).pending = s.pending := rfl

@[simp] theorem updPtp_host (s : State) (m : Nat) (f : PtpPort → PtpPort) : (updPtp s m f).host = s.host := rfl
@[simp] theorem updPtp_work (s : State) (m : Nat) (f : PtpPort → PtpPort) : (updPtp s m f).work = s.work := rfl
@[simp] theorem updPtp_engines (s : State) (m : Nat) (f : PtpPort → PtpPort) : (updPtp s m f).engines = s.engines := rfl
@[simp] theorem updPtp_net (s : State) (m : Nat) (f : PtpPort → PtpPort) : (updPtp s m f).net = { s.net with ptp := modNth s.net.ptp m f } := rfl
@[simp] theorem updPtp_power (s : State) (m : Nat) (f : PtpPort → PtpPort) : (updPtp s m f).power = s.power := rfl
@[simp] theorem updPtp_rel (s : State) (m : Nat) (f : PtpPort → PtpPort) : (updPtp s m f).rel = s.rel := rfl
@[simp] theorem updPtp_sec (s : State) (m : Nat) (f : PtpPort → PtpPort) : (updPtp s m f).sec = s.sec := rfl
@[simp] theorem updPtp_mgmt (s : State) (m : Nat) (f : PtpPort → PtpPort) : (updPtp s m f).mgmt = s.mgmt := rfl
@[simp] theorem updPtp_optics (s : State) (m : Nat) (f : PtpPort → PtpPort) : (updPtp s m f).optics = s.optics := rfl
@[simp] theorem updPtp_radio (s : State) (m : Nat) (f : PtpPort → PtpPort) : (updPtp s m f).radio = s.radio := rfl
@[simp] theorem updPtp_services (s : State) (m : Nat) (f : PtpPort → PtpPort) : (updPtp s m f).services = s.services := rfl
@[simp] theorem updPtp_sys (s : State) (m : Nat) (f : PtpPort → PtpPort) : (updPtp s m f).sys = s.sys := rfl
@[simp] theorem updPtp_sent (s : State) (m : Nat) (f : PtpPort → PtpPort) : (updPtp s m f).sent = s.sent := rfl
@[simp] theorem updPtp_pending (s : State) (m : Nat) (f : PtpPort → PtpPort) : (updPtp s m f).pending = s.pending := rfl

@[simp] theorem updPort_host (s : State) (p : Nat) (f : RelnePort → RelnePort) : (updPort s p f).host = s.host := rfl
@[simp] theorem updPort_work (s : State) (p : Nat) (f : RelnePort → RelnePort) : (updPort s p f).work = s.work := rfl
@[simp] theorem updPort_engines (s : State) (p : Nat) (f : RelnePort → RelnePort) : (updPort s p f).engines = s.engines := rfl
@[simp] theorem updPort_net (s : State) (p : Nat) (f : RelnePort → RelnePort) : (updPort s p f).net = { s.net with relne := { s.net.relne with ports := modNth s.net.relne.ports p f } } := rfl
@[simp] theorem updPort_power (s : State) (p : Nat) (f : RelnePort → RelnePort) : (updPort s p f).power = s.power := rfl
@[simp] theorem updPort_rel (s : State) (p : Nat) (f : RelnePort → RelnePort) : (updPort s p f).rel = s.rel := rfl
@[simp] theorem updPort_sec (s : State) (p : Nat) (f : RelnePort → RelnePort) : (updPort s p f).sec = s.sec := rfl
@[simp] theorem updPort_mgmt (s : State) (p : Nat) (f : RelnePort → RelnePort) : (updPort s p f).mgmt = s.mgmt := rfl
@[simp] theorem updPort_optics (s : State) (p : Nat) (f : RelnePort → RelnePort) : (updPort s p f).optics = s.optics := rfl
@[simp] theorem updPort_radio (s : State) (p : Nat) (f : RelnePort → RelnePort) : (updPort s p f).radio = s.radio := rfl
@[simp] theorem updPort_services (s : State) (p : Nat) (f : RelnePort → RelnePort) : (updPort s p f).services = s.services := rfl
@[simp] theorem updPort_sys (s : State) (p : Nat) (f : RelnePort → RelnePort) : (updPort s p f).sys = s.sys := rfl
@[simp] theorem updPort_sent (s : State) (p : Nat) (f : RelnePort → RelnePort) : (updPort s p f).sent = s.sent := rfl
@[simp] theorem updPort_pending (s : State) (p : Nat) (f : RelnePort → RelnePort) : (updPort s p f).pending = s.pending := rfl

@[simp] theorem updPartPower_host (s : State) (p : Nat) (f : PartPower → PartPower) : (updPartPower s p f).host = s.host := rfl
@[simp] theorem updPartPower_work (s : State) (p : Nat) (f : PartPower → PartPower) : (updPartPower s p f).work = s.work := rfl
@[simp] theorem updPartPower_engines (s : State) (p : Nat) (f : PartPower → PartPower) : (updPartPower s p f).engines = s.engines := rfl
@[simp] theorem updPartPower_net (s : State) (p : Nat) (f : PartPower → PartPower) : (updPartPower s p f).net = s.net := rfl
@[simp] theorem updPartPower_power (s : State) (p : Nat) (f : PartPower → PartPower) : (updPartPower s p f).power = { s.power with parts := Tbl.upd PartPower.reset s.power.parts p f } := rfl
@[simp] theorem updPartPower_rel (s : State) (p : Nat) (f : PartPower → PartPower) : (updPartPower s p f).rel = s.rel := rfl
@[simp] theorem updPartPower_sec (s : State) (p : Nat) (f : PartPower → PartPower) : (updPartPower s p f).sec = s.sec := rfl
@[simp] theorem updPartPower_mgmt (s : State) (p : Nat) (f : PartPower → PartPower) : (updPartPower s p f).mgmt = s.mgmt := rfl
@[simp] theorem updPartPower_optics (s : State) (p : Nat) (f : PartPower → PartPower) : (updPartPower s p f).optics = s.optics := rfl
@[simp] theorem updPartPower_radio (s : State) (p : Nat) (f : PartPower → PartPower) : (updPartPower s p f).radio = s.radio := rfl
@[simp] theorem updPartPower_services (s : State) (p : Nat) (f : PartPower → PartPower) : (updPartPower s p f).services = s.services := rfl
@[simp] theorem updPartPower_sys (s : State) (p : Nat) (f : PartPower → PartPower) : (updPartPower s p f).sys = s.sys := rfl
@[simp] theorem updPartPower_sent (s : State) (p : Nat) (f : PartPower → PartPower) : (updPartPower s p f).sent = s.sent := rfl
@[simp] theorem updPartPower_pending (s : State) (p : Nat) (f : PartPower → PartPower) : (updPartPower s p f).pending = s.pending := rfl

@[simp] theorem updDie_host (s : State) (d : Nat) (f : DiePower → DiePower) : (updDie s d f).host = s.host := rfl
@[simp] theorem updDie_work (s : State) (d : Nat) (f : DiePower → DiePower) : (updDie s d f).work = s.work := rfl
@[simp] theorem updDie_engines (s : State) (d : Nat) (f : DiePower → DiePower) : (updDie s d f).engines = s.engines := rfl
@[simp] theorem updDie_net (s : State) (d : Nat) (f : DiePower → DiePower) : (updDie s d f).net = s.net := rfl
@[simp] theorem updDie_power (s : State) (d : Nat) (f : DiePower → DiePower) : (updDie s d f).power = { s.power with dies := modNth s.power.dies d f } := rfl
@[simp] theorem updDie_rel (s : State) (d : Nat) (f : DiePower → DiePower) : (updDie s d f).rel = s.rel := rfl
@[simp] theorem updDie_sec (s : State) (d : Nat) (f : DiePower → DiePower) : (updDie s d f).sec = s.sec := rfl
@[simp] theorem updDie_mgmt (s : State) (d : Nat) (f : DiePower → DiePower) : (updDie s d f).mgmt = s.mgmt := rfl
@[simp] theorem updDie_optics (s : State) (d : Nat) (f : DiePower → DiePower) : (updDie s d f).optics = s.optics := rfl
@[simp] theorem updDie_radio (s : State) (d : Nat) (f : DiePower → DiePower) : (updDie s d f).radio = s.radio := rfl
@[simp] theorem updDie_services (s : State) (d : Nat) (f : DiePower → DiePower) : (updDie s d f).services = s.services := rfl
@[simp] theorem updDie_sys (s : State) (d : Nat) (f : DiePower → DiePower) : (updDie s d f).sys = s.sys := rfl
@[simp] theorem updDie_sent (s : State) (d : Nat) (f : DiePower → DiePower) : (updDie s d f).sent = s.sent := rfl
@[simp] theorem updDie_pending (s : State) (d : Nat) (f : DiePower → DiePower) : (updDie s d f).pending = s.pending := rfl

@[simp] theorem updSlot_host (s : State) (k : Nat) (f : OpticsSlot → OpticsSlot) : (updSlot s k f).host = s.host := rfl
@[simp] theorem updSlot_work (s : State) (k : Nat) (f : OpticsSlot → OpticsSlot) : (updSlot s k f).work = s.work := rfl
@[simp] theorem updSlot_engines (s : State) (k : Nat) (f : OpticsSlot → OpticsSlot) : (updSlot s k f).engines = s.engines := rfl
@[simp] theorem updSlot_net (s : State) (k : Nat) (f : OpticsSlot → OpticsSlot) : (updSlot s k f).net = s.net := rfl
@[simp] theorem updSlot_power (s : State) (k : Nat) (f : OpticsSlot → OpticsSlot) : (updSlot s k f).power = s.power := rfl
@[simp] theorem updSlot_rel (s : State) (k : Nat) (f : OpticsSlot → OpticsSlot) : (updSlot s k f).rel = s.rel := rfl
@[simp] theorem updSlot_sec (s : State) (k : Nat) (f : OpticsSlot → OpticsSlot) : (updSlot s k f).sec = s.sec := rfl
@[simp] theorem updSlot_mgmt (s : State) (k : Nat) (f : OpticsSlot → OpticsSlot) : (updSlot s k f).mgmt = s.mgmt := rfl
@[simp] theorem updSlot_optics (s : State) (k : Nat) (f : OpticsSlot → OpticsSlot) : (updSlot s k f).optics = { s.optics with slots := modNth s.optics.slots k f } := rfl
@[simp] theorem updSlot_radio (s : State) (k : Nat) (f : OpticsSlot → OpticsSlot) : (updSlot s k f).radio = s.radio := rfl
@[simp] theorem updSlot_services (s : State) (k : Nat) (f : OpticsSlot → OpticsSlot) : (updSlot s k f).services = s.services := rfl
@[simp] theorem updSlot_sys (s : State) (k : Nat) (f : OpticsSlot → OpticsSlot) : (updSlot s k f).sys = s.sys := rfl
@[simp] theorem updSlot_sent (s : State) (k : Nat) (f : OpticsSlot → OpticsSlot) : (updSlot s k f).sent = s.sent := rfl
@[simp] theorem updSlot_pending (s : State) (k : Nat) (f : OpticsSlot → OpticsSlot) : (updSlot s k f).pending = s.pending := rfl

@[simp] theorem updBus_host (s : State) (b : Nat) (f : OpticsBus → OpticsBus) : (updBus s b f).host = s.host := rfl
@[simp] theorem updBus_work (s : State) (b : Nat) (f : OpticsBus → OpticsBus) : (updBus s b f).work = s.work := rfl
@[simp] theorem updBus_engines (s : State) (b : Nat) (f : OpticsBus → OpticsBus) : (updBus s b f).engines = s.engines := rfl
@[simp] theorem updBus_net (s : State) (b : Nat) (f : OpticsBus → OpticsBus) : (updBus s b f).net = s.net := rfl
@[simp] theorem updBus_power (s : State) (b : Nat) (f : OpticsBus → OpticsBus) : (updBus s b f).power = s.power := rfl
@[simp] theorem updBus_rel (s : State) (b : Nat) (f : OpticsBus → OpticsBus) : (updBus s b f).rel = s.rel := rfl
@[simp] theorem updBus_sec (s : State) (b : Nat) (f : OpticsBus → OpticsBus) : (updBus s b f).sec = s.sec := rfl
@[simp] theorem updBus_mgmt (s : State) (b : Nat) (f : OpticsBus → OpticsBus) : (updBus s b f).mgmt = s.mgmt := rfl
@[simp] theorem updBus_optics (s : State) (b : Nat) (f : OpticsBus → OpticsBus) : (updBus s b f).optics = { s.optics with buses := modNth s.optics.buses b f } := rfl
@[simp] theorem updBus_radio (s : State) (b : Nat) (f : OpticsBus → OpticsBus) : (updBus s b f).radio = s.radio := rfl
@[simp] theorem updBus_services (s : State) (b : Nat) (f : OpticsBus → OpticsBus) : (updBus s b f).services = s.services := rfl
@[simp] theorem updBus_sys (s : State) (b : Nat) (f : OpticsBus → OpticsBus) : (updBus s b f).sys = s.sys := rfl
@[simp] theorem updBus_sent (s : State) (b : Nat) (f : OpticsBus → OpticsBus) : (updBus s b f).sent = s.sent := rfl
@[simp] theorem updBus_pending (s : State) (b : Nat) (f : OpticsBus → OpticsBus) : (updBus s b f).pending = s.pending := rfl

@[simp] theorem updIndicator_host (s : State) (i : Nat) (f : Indicator → Indicator) : (updIndicator s i f).host = s.host := rfl
@[simp] theorem updIndicator_work (s : State) (i : Nat) (f : Indicator → Indicator) : (updIndicator s i f).work = s.work := rfl
@[simp] theorem updIndicator_engines (s : State) (i : Nat) (f : Indicator → Indicator) : (updIndicator s i f).engines = s.engines := rfl
@[simp] theorem updIndicator_net (s : State) (i : Nat) (f : Indicator → Indicator) : (updIndicator s i f).net = s.net := rfl
@[simp] theorem updIndicator_power (s : State) (i : Nat) (f : Indicator → Indicator) : (updIndicator s i f).power = s.power := rfl
@[simp] theorem updIndicator_rel (s : State) (i : Nat) (f : Indicator → Indicator) : (updIndicator s i f).rel = s.rel := rfl
@[simp] theorem updIndicator_sec (s : State) (i : Nat) (f : Indicator → Indicator) : (updIndicator s i f).sec = s.sec := rfl
@[simp] theorem updIndicator_mgmt (s : State) (i : Nat) (f : Indicator → Indicator) : (updIndicator s i f).mgmt = s.mgmt := rfl
@[simp] theorem updIndicator_optics (s : State) (i : Nat) (f : Indicator → Indicator) : (updIndicator s i f).optics = { s.optics with indicators := modNth s.optics.indicators i f } := rfl
@[simp] theorem updIndicator_radio (s : State) (i : Nat) (f : Indicator → Indicator) : (updIndicator s i f).radio = s.radio := rfl
@[simp] theorem updIndicator_services (s : State) (i : Nat) (f : Indicator → Indicator) : (updIndicator s i f).services = s.services := rfl
@[simp] theorem updIndicator_sys (s : State) (i : Nat) (f : Indicator → Indicator) : (updIndicator s i f).sys = s.sys := rfl
@[simp] theorem updIndicator_sent (s : State) (i : Nat) (f : Indicator → Indicator) : (updIndicator s i f).sent = s.sent := rfl
@[simp] theorem updIndicator_pending (s : State) (i : Nat) (f : Indicator → Indicator) : (updIndicator s i f).pending = s.pending := rfl

@[simp] theorem updFn_host (s : State) (n : Nat) (g : Fn → Fn) : (updFn s n g).host = { s.host with fns := Tbl.upd Fn.reset s.host.fns n g } := rfl
@[simp] theorem updFn_work (s : State) (n : Nat) (g : Fn → Fn) : (updFn s n g).work = s.work := rfl
@[simp] theorem updFn_engines (s : State) (n : Nat) (g : Fn → Fn) : (updFn s n g).engines = s.engines := rfl
@[simp] theorem updFn_net (s : State) (n : Nat) (g : Fn → Fn) : (updFn s n g).net = s.net := rfl
@[simp] theorem updFn_power (s : State) (n : Nat) (g : Fn → Fn) : (updFn s n g).power = s.power := rfl
@[simp] theorem updFn_rel (s : State) (n : Nat) (g : Fn → Fn) : (updFn s n g).rel = s.rel := rfl
@[simp] theorem updFn_sec (s : State) (n : Nat) (g : Fn → Fn) : (updFn s n g).sec = s.sec := rfl
@[simp] theorem updFn_mgmt (s : State) (n : Nat) (g : Fn → Fn) : (updFn s n g).mgmt = s.mgmt := rfl
@[simp] theorem updFn_optics (s : State) (n : Nat) (g : Fn → Fn) : (updFn s n g).optics = s.optics := rfl
@[simp] theorem updFn_radio (s : State) (n : Nat) (g : Fn → Fn) : (updFn s n g).radio = s.radio := rfl
@[simp] theorem updFn_services (s : State) (n : Nat) (g : Fn → Fn) : (updFn s n g).services = s.services := rfl
@[simp] theorem updFn_sys (s : State) (n : Nat) (g : Fn → Fn) : (updFn s n g).sys = s.sys := rfl
@[simp] theorem updFn_sent (s : State) (n : Nat) (g : Fn → Fn) : (updFn s n g).sent = s.sent := rfl
@[simp] theorem updFn_pending (s : State) (n : Nat) (g : Fn → Fn) : (updFn s n g).pending = s.pending := rfl

@[simp] theorem updTill_host (s : State) (n : Nat) (g : Till → Till) : (updTill s n g).host = { s.host with tills := Tbl.upd Till.none s.host.tills n g } := rfl
@[simp] theorem updTill_work (s : State) (n : Nat) (g : Till → Till) : (updTill s n g).work = s.work := rfl
@[simp] theorem updTill_engines (s : State) (n : Nat) (g : Till → Till) : (updTill s n g).engines = s.engines := rfl
@[simp] theorem updTill_net (s : State) (n : Nat) (g : Till → Till) : (updTill s n g).net = s.net := rfl
@[simp] theorem updTill_power (s : State) (n : Nat) (g : Till → Till) : (updTill s n g).power = s.power := rfl
@[simp] theorem updTill_rel (s : State) (n : Nat) (g : Till → Till) : (updTill s n g).rel = s.rel := rfl
@[simp] theorem updTill_sec (s : State) (n : Nat) (g : Till → Till) : (updTill s n g).sec = s.sec := rfl
@[simp] theorem updTill_mgmt (s : State) (n : Nat) (g : Till → Till) : (updTill s n g).mgmt = s.mgmt := rfl
@[simp] theorem updTill_optics (s : State) (n : Nat) (g : Till → Till) : (updTill s n g).optics = s.optics := rfl
@[simp] theorem updTill_radio (s : State) (n : Nat) (g : Till → Till) : (updTill s n g).radio = s.radio := rfl
@[simp] theorem updTill_services (s : State) (n : Nat) (g : Till → Till) : (updTill s n g).services = s.services := rfl
@[simp] theorem updTill_sys (s : State) (n : Nat) (g : Till → Till) : (updTill s n g).sys = s.sys := rfl
@[simp] theorem updTill_sent (s : State) (n : Nat) (g : Till → Till) : (updTill s n g).sent = s.sent := rfl
@[simp] theorem updTill_pending (s : State) (n : Nat) (g : Till → Till) : (updTill s n g).pending = s.pending := rfl

@[simp] theorem updPart_host (s : State) (p : Nat) (f : Part → Part) : (updPart s p f).host = s.host := rfl
@[simp] theorem updPart_work (s : State) (p : Nat) (f : Part → Part) : (updPart s p f).work = { s.work with parts := s.work.parts.map fun e => if e.1 = p then (e.1, f e.2) else e } := rfl
@[simp] theorem updPart_engines (s : State) (p : Nat) (f : Part → Part) : (updPart s p f).engines = s.engines := rfl
@[simp] theorem updPart_net (s : State) (p : Nat) (f : Part → Part) : (updPart s p f).net = s.net := rfl
@[simp] theorem updPart_power (s : State) (p : Nat) (f : Part → Part) : (updPart s p f).power = s.power := rfl
@[simp] theorem updPart_rel (s : State) (p : Nat) (f : Part → Part) : (updPart s p f).rel = s.rel := rfl
@[simp] theorem updPart_sec (s : State) (p : Nat) (f : Part → Part) : (updPart s p f).sec = s.sec := rfl
@[simp] theorem updPart_mgmt (s : State) (p : Nat) (f : Part → Part) : (updPart s p f).mgmt = s.mgmt := rfl
@[simp] theorem updPart_optics (s : State) (p : Nat) (f : Part → Part) : (updPart s p f).optics = s.optics := rfl
@[simp] theorem updPart_radio (s : State) (p : Nat) (f : Part → Part) : (updPart s p f).radio = s.radio := rfl
@[simp] theorem updPart_services (s : State) (p : Nat) (f : Part → Part) : (updPart s p f).services = s.services := rfl
@[simp] theorem updPart_sys (s : State) (p : Nat) (f : Part → Part) : (updPart s p f).sys = s.sys := rfl
@[simp] theorem updPart_sent (s : State) (p : Nat) (f : Part → Part) : (updPart s p f).sent = s.sent := rfl
@[simp] theorem updPart_pending (s : State) (p : Nat) (f : Part → Part) : (updPart s p f).pending = s.pending := rfl

@[simp] theorem updTally_host (s : State) (t : Nat) (f : Tally → Tally) : (updTally s t f).host = s.host := rfl
@[simp] theorem updTally_work (s : State) (t : Nat) (f : Tally → Tally) : (updTally s t f).work = { s.work with tallies := Tbl.upd Tally.zero s.work.tallies t f } := rfl
@[simp] theorem updTally_engines (s : State) (t : Nat) (f : Tally → Tally) : (updTally s t f).engines = s.engines := rfl
@[simp] theorem updTally_net (s : State) (t : Nat) (f : Tally → Tally) : (updTally s t f).net = s.net := rfl
@[simp] theorem updTally_power (s : State) (t : Nat) (f : Tally → Tally) : (updTally s t f).power = s.power := rfl
@[simp] theorem updTally_rel (s : State) (t : Nat) (f : Tally → Tally) : (updTally s t f).rel = s.rel := rfl
@[simp] theorem updTally_sec (s : State) (t : Nat) (f : Tally → Tally) : (updTally s t f).sec = s.sec := rfl
@[simp] theorem updTally_mgmt (s : State) (t : Nat) (f : Tally → Tally) : (updTally s t f).mgmt = s.mgmt := rfl
@[simp] theorem updTally_optics (s : State) (t : Nat) (f : Tally → Tally) : (updTally s t f).optics = s.optics := rfl
@[simp] theorem updTally_radio (s : State) (t : Nat) (f : Tally → Tally) : (updTally s t f).radio = s.radio := rfl
@[simp] theorem updTally_services (s : State) (t : Nat) (f : Tally → Tally) : (updTally s t f).services = s.services := rfl
@[simp] theorem updTally_sys (s : State) (t : Nat) (f : Tally → Tally) : (updTally s t f).sys = s.sys := rfl
@[simp] theorem updTally_sent (s : State) (t : Nat) (f : Tally → Tally) : (updTally s t f).sent = s.sent := rfl
@[simp] theorem updTally_pending (s : State) (t : Nat) (f : Tally → Tally) : (updTally s t f).pending = s.pending := rfl

@[simp] theorem putCell_host (s : State) (ci : Nat) (c : Cell) : (putCell s ci c).host = s.host := rfl
@[simp] theorem putCell_work (s : State) (ci : Nat) (c : Cell) : (putCell s ci c).work = s.work := rfl
@[simp] theorem putCell_engines (s : State) (ci : Nat) (c : Cell) : (putCell s ci c).engines = s.engines := rfl
@[simp] theorem putCell_net (s : State) (ci : Nat) (c : Cell) : (putCell s ci c).net = s.net := rfl
@[simp] theorem putCell_power (s : State) (ci : Nat) (c : Cell) : (putCell s ci c).power = s.power := rfl
@[simp] theorem putCell_rel (s : State) (ci : Nat) (c : Cell) : (putCell s ci c).rel = s.rel := rfl
@[simp] theorem putCell_sec (s : State) (ci : Nat) (c : Cell) : (putCell s ci c).sec = s.sec := rfl
@[simp] theorem putCell_mgmt (s : State) (ci : Nat) (c : Cell) : (putCell s ci c).mgmt = s.mgmt := rfl
@[simp] theorem putCell_optics (s : State) (ci : Nat) (c : Cell) : (putCell s ci c).optics = s.optics := rfl
@[simp] theorem putCell_radio (s : State) (ci : Nat) (c : Cell) : (putCell s ci c).radio = { s.radio with cells := Tbl.put s.radio.cells ci c } := rfl
@[simp] theorem putCell_services (s : State) (ci : Nat) (c : Cell) : (putCell s ci c).services = s.services := rfl
@[simp] theorem putCell_sys (s : State) (ci : Nat) (c : Cell) : (putCell s ci c).sys = s.sys := rfl
@[simp] theorem putCell_sent (s : State) (ci : Nat) (c : Cell) : (putCell s ci c).sent = s.sent := rfl
@[simp] theorem putCell_pending (s : State) (ci : Nat) (c : Cell) : (putCell s ci c).pending = s.pending := rfl

@[simp] theorem updAdapt_host (s : State) (ci : Nat) (f : Adapt → Adapt) : (updAdapt s ci f).host = s.host := rfl
@[simp] theorem updAdapt_work (s : State) (ci : Nat) (f : Adapt → Adapt) : (updAdapt s ci f).work = s.work := rfl
@[simp] theorem updAdapt_engines (s : State) (ci : Nat) (f : Adapt → Adapt) : (updAdapt s ci f).engines = s.engines := rfl
@[simp] theorem updAdapt_net (s : State) (ci : Nat) (f : Adapt → Adapt) : (updAdapt s ci f).net = s.net := rfl
@[simp] theorem updAdapt_power (s : State) (ci : Nat) (f : Adapt → Adapt) : (updAdapt s ci f).power = s.power := rfl
@[simp] theorem updAdapt_rel (s : State) (ci : Nat) (f : Adapt → Adapt) : (updAdapt s ci f).rel = s.rel := rfl
@[simp] theorem updAdapt_sec (s : State) (ci : Nat) (f : Adapt → Adapt) : (updAdapt s ci f).sec = s.sec := rfl
@[simp] theorem updAdapt_mgmt (s : State) (ci : Nat) (f : Adapt → Adapt) : (updAdapt s ci f).mgmt = s.mgmt := rfl
@[simp] theorem updAdapt_optics (s : State) (ci : Nat) (f : Adapt → Adapt) : (updAdapt s ci f).optics = s.optics := rfl
@[simp] theorem updAdapt_radio (s : State) (ci : Nat) (f : Adapt → Adapt) : (updAdapt s ci f).radio = { s.radio with adapts := Tbl.put s.radio.adapts ci (f (getAdapt s ci)) } := rfl
@[simp] theorem updAdapt_services (s : State) (ci : Nat) (f : Adapt → Adapt) : (updAdapt s ci f).services = s.services := rfl
@[simp] theorem updAdapt_sys (s : State) (ci : Nat) (f : Adapt → Adapt) : (updAdapt s ci f).sys = s.sys := rfl
@[simp] theorem updAdapt_sent (s : State) (ci : Nat) (f : Adapt → Adapt) : (updAdapt s ci f).sent = s.sent := rfl
@[simp] theorem updAdapt_pending (s : State) (ci : Nat) (f : Adapt → Adapt) : (updAdapt s ci f).pending = s.pending := rfl

@[simp] theorem updSvc_host (s : State) (i : Nat) (f : Svc → Svc) : (updSvc s i f).host = s.host := rfl
@[simp] theorem updSvc_work (s : State) (i : Nat) (f : Svc → Svc) : (updSvc s i f).work = s.work := rfl
@[simp] theorem updSvc_engines (s : State) (i : Nat) (f : Svc → Svc) : (updSvc s i f).engines = s.engines := rfl
@[simp] theorem updSvc_net (s : State) (i : Nat) (f : Svc → Svc) : (updSvc s i f).net = s.net := rfl
@[simp] theorem updSvc_power (s : State) (i : Nat) (f : Svc → Svc) : (updSvc s i f).power = s.power := rfl
@[simp] theorem updSvc_rel (s : State) (i : Nat) (f : Svc → Svc) : (updSvc s i f).rel = s.rel := rfl
@[simp] theorem updSvc_sec (s : State) (i : Nat) (f : Svc → Svc) : (updSvc s i f).sec = s.sec := rfl
@[simp] theorem updSvc_mgmt (s : State) (i : Nat) (f : Svc → Svc) : (updSvc s i f).mgmt = s.mgmt := rfl
@[simp] theorem updSvc_optics (s : State) (i : Nat) (f : Svc → Svc) : (updSvc s i f).optics = s.optics := rfl
@[simp] theorem updSvc_radio (s : State) (i : Nat) (f : Svc → Svc) : (updSvc s i f).radio = s.radio := rfl
@[simp] theorem updSvc_services (s : State) (i : Nat) (f : Svc → Svc) : (updSvc s i f).services = s.services.map fun e => if e.1 = i then (e.1, f e.2) else e := rfl
@[simp] theorem updSvc_sys (s : State) (i : Nat) (f : Svc → Svc) : (updSvc s i f).sys = s.sys := rfl
@[simp] theorem updSvc_sent (s : State) (i : Nat) (f : Svc → Svc) : (updSvc s i f).sent = s.sent := rfl
@[simp] theorem updSvc_pending (s : State) (i : Nat) (f : Svc → Svc) : (updSvc s i f).pending = s.pending := rfl

@[simp] theorem emit_host (s : State) (o : Output) : (emit s o).host = s.host := rfl
@[simp] theorem emit_work (s : State) (o : Output) : (emit s o).work = s.work := rfl
@[simp] theorem emit_engines (s : State) (o : Output) : (emit s o).engines = s.engines := rfl
@[simp] theorem emit_net (s : State) (o : Output) : (emit s o).net = s.net := rfl
@[simp] theorem emit_power (s : State) (o : Output) : (emit s o).power = s.power := rfl
@[simp] theorem emit_rel (s : State) (o : Output) : (emit s o).rel = s.rel := rfl
@[simp] theorem emit_sec (s : State) (o : Output) : (emit s o).sec = s.sec := rfl
@[simp] theorem emit_mgmt (s : State) (o : Output) : (emit s o).mgmt = s.mgmt := rfl
@[simp] theorem emit_optics (s : State) (o : Output) : (emit s o).optics = s.optics := rfl
@[simp] theorem emit_radio (s : State) (o : Output) : (emit s o).radio = s.radio := rfl
@[simp] theorem emit_services (s : State) (o : Output) : (emit s o).services = s.services := rfl
@[simp] theorem emit_sys (s : State) (o : Output) : (emit s o).sys = s.sys := rfl
@[simp] theorem emit_sent (s : State) (o : Output) : (emit s o).sent = s.sent ++ [o] := rfl
@[simp] theorem emit_pending (s : State) (o : Output) : (emit s o).pending = s.pending := rfl

@[simp] theorem charge_host (s : State) (p kind client : Nat) (d : Ledger) : (charge s p kind client d).host = s.host := rfl
@[simp] theorem charge_work (s : State) (p kind client : Nat) (d : Ledger) : (charge s p kind client d).work = { s.work with ledger := ledgerAdd (ledgerAdd s.work.ledger p 3 totalClient d) p kind client d } := rfl
@[simp] theorem charge_engines (s : State) (p kind client : Nat) (d : Ledger) : (charge s p kind client d).engines = s.engines := rfl
@[simp] theorem charge_net (s : State) (p kind client : Nat) (d : Ledger) : (charge s p kind client d).net = s.net := rfl
@[simp] theorem charge_power (s : State) (p kind client : Nat) (d : Ledger) : (charge s p kind client d).power = s.power := rfl
@[simp] theorem charge_rel (s : State) (p kind client : Nat) (d : Ledger) : (charge s p kind client d).rel = s.rel := rfl
@[simp] theorem charge_sec (s : State) (p kind client : Nat) (d : Ledger) : (charge s p kind client d).sec = s.sec := rfl
@[simp] theorem charge_mgmt (s : State) (p kind client : Nat) (d : Ledger) : (charge s p kind client d).mgmt = s.mgmt := rfl
@[simp] theorem charge_optics (s : State) (p kind client : Nat) (d : Ledger) : (charge s p kind client d).optics = s.optics := rfl
@[simp] theorem charge_radio (s : State) (p kind client : Nat) (d : Ledger) : (charge s p kind client d).radio = s.radio := rfl
@[simp] theorem charge_services (s : State) (p kind client : Nat) (d : Ledger) : (charge s p kind client d).services = s.services := rfl
@[simp] theorem charge_sys (s : State) (p kind client : Nat) (d : Ledger) : (charge s p kind client d).sys = s.sys := rfl
@[simp] theorem charge_sent (s : State) (p kind client : Nat) (d : Ledger) : (charge s p kind client d).sent = s.sent := rfl
@[simp] theorem charge_pending (s : State) (p kind client : Nat) (d : Ledger) : (charge s p kind client d).pending = s.pending := rfl

@[simp] theorem passSlots_host (s : State) (n k : Nat) : (passSlots s n k).host = { s.host with tills := Tbl.upd Till.none s.host.tills n fun t => { t with cons := t.cons + BitVec.ofNat 16 k } } := rfl
@[simp] theorem passSlots_work (s : State) (n k : Nat) : (passSlots s n k).work = s.work := rfl
@[simp] theorem passSlots_engines (s : State) (n k : Nat) : (passSlots s n k).engines = s.engines := rfl
@[simp] theorem passSlots_net (s : State) (n k : Nat) : (passSlots s n k).net = s.net := rfl
@[simp] theorem passSlots_power (s : State) (n k : Nat) : (passSlots s n k).power = s.power := rfl
@[simp] theorem passSlots_rel (s : State) (n k : Nat) : (passSlots s n k).rel = s.rel := rfl
@[simp] theorem passSlots_sec (s : State) (n k : Nat) : (passSlots s n k).sec = s.sec := rfl
@[simp] theorem passSlots_mgmt (s : State) (n k : Nat) : (passSlots s n k).mgmt = s.mgmt := rfl
@[simp] theorem passSlots_optics (s : State) (n k : Nat) : (passSlots s n k).optics = s.optics := rfl
@[simp] theorem passSlots_radio (s : State) (n k : Nat) : (passSlots s n k).radio = s.radio := rfl
@[simp] theorem passSlots_services (s : State) (n k : Nat) : (passSlots s n k).services = s.services := rfl
@[simp] theorem passSlots_sys (s : State) (n k : Nat) : (passSlots s n k).sys = s.sys := rfl
@[simp] theorem passSlots_sent (s : State) (n k : Nat) : (passSlots s n k).sent = s.sent := rfl
@[simp] theorem passSlots_pending (s : State) (n k : Nat) : (passSlots s n k).pending = s.pending := rfl

@[simp] theorem updJob_host (s : State) (h : Nat) (f : Job → Job) : (updJob s h f).host = s.host := by unfold updJob; split <;> rfl
@[simp] theorem updJob_engines (s : State) (h : Nat) (f : Job → Job) : (updJob s h f).engines = s.engines := by unfold updJob; split <;> rfl
@[simp] theorem updJob_net (s : State) (h : Nat) (f : Job → Job) : (updJob s h f).net = s.net := by unfold updJob; split <;> rfl
@[simp] theorem updJob_power (s : State) (h : Nat) (f : Job → Job) : (updJob s h f).power = s.power := by unfold updJob; split <;> rfl
@[simp] theorem updJob_rel (s : State) (h : Nat) (f : Job → Job) : (updJob s h f).rel = s.rel := by unfold updJob; split <;> rfl
@[simp] theorem updJob_sec (s : State) (h : Nat) (f : Job → Job) : (updJob s h f).sec = s.sec := by unfold updJob; split <;> rfl
@[simp] theorem updJob_mgmt (s : State) (h : Nat) (f : Job → Job) : (updJob s h f).mgmt = s.mgmt := by unfold updJob; split <;> rfl
@[simp] theorem updJob_optics (s : State) (h : Nat) (f : Job → Job) : (updJob s h f).optics = s.optics := by unfold updJob; split <;> rfl
@[simp] theorem updJob_radio (s : State) (h : Nat) (f : Job → Job) : (updJob s h f).radio = s.radio := by unfold updJob; split <;> rfl
@[simp] theorem updJob_services (s : State) (h : Nat) (f : Job → Job) : (updJob s h f).services = s.services := by unfold updJob; split <;> rfl
@[simp] theorem updJob_sys (s : State) (h : Nat) (f : Job → Job) : (updJob s h f).sys = s.sys := by unfold updJob; split <;> rfl
@[simp] theorem updJob_sent (s : State) (h : Nat) (f : Job → Job) : (updJob s h f).sent = s.sent := by unfold updJob; split <;> rfl
@[simp] theorem updJob_pending (s : State) (h : Nat) (f : Job → Job) : (updJob s h f).pending = s.pending := by unfold updJob; split <;> rfl

@[simp] theorem updInst_host (s : State) (h c : Nat) (f : Inst → Inst) : (updInst s h c f).host = s.host := updJob_host _ _ _
@[simp] theorem updInst_engines (s : State) (h c : Nat) (f : Inst → Inst) : (updInst s h c f).engines = s.engines := updJob_engines _ _ _
@[simp] theorem updInst_net (s : State) (h c : Nat) (f : Inst → Inst) : (updInst s h c f).net = s.net := updJob_net _ _ _
@[simp] theorem updInst_power (s : State) (h c : Nat) (f : Inst → Inst) : (updInst s h c f).power = s.power := updJob_power _ _ _
@[simp] theorem updInst_rel (s : State) (h c : Nat) (f : Inst → Inst) : (updInst s h c f).rel = s.rel := updJob_rel _ _ _
@[simp] theorem updInst_sec (s : State) (h c : Nat) (f : Inst → Inst) : (updInst s h c f).sec = s.sec := updJob_sec _ _ _
@[simp] theorem updInst_mgmt (s : State) (h c : Nat) (f : Inst → Inst) : (updInst s h c f).mgmt = s.mgmt := updJob_mgmt _ _ _
@[simp] theorem updInst_optics (s : State) (h c : Nat) (f : Inst → Inst) : (updInst s h c f).optics = s.optics := updJob_optics _ _ _
@[simp] theorem updInst_radio (s : State) (h c : Nat) (f : Inst → Inst) : (updInst s h c f).radio = s.radio := updJob_radio _ _ _
@[simp] theorem updInst_services (s : State) (h c : Nat) (f : Inst → Inst) : (updInst s h c f).services = s.services := updJob_services _ _ _
@[simp] theorem updInst_sys (s : State) (h c : Nat) (f : Inst → Inst) : (updInst s h c f).sys = s.sys := updJob_sys _ _ _
@[simp] theorem updInst_sent (s : State) (h c : Nat) (f : Inst → Inst) : (updInst s h c f).sent = s.sent := updJob_sent _ _ _
@[simp] theorem updInst_pending (s : State) (h c : Nat) (f : Inst → Inst) : (updInst s h c f).pending = s.pending := updJob_pending _ _ _

@[simp] theorem updRun_host (s : State) (h : Nat) (f : Invocation → Invocation) : (updRun s h f).host = s.host := updJob_host _ _ _
@[simp] theorem updRun_engines (s : State) (h : Nat) (f : Invocation → Invocation) : (updRun s h f).engines = s.engines := updJob_engines _ _ _
@[simp] theorem updRun_net (s : State) (h : Nat) (f : Invocation → Invocation) : (updRun s h f).net = s.net := updJob_net _ _ _
@[simp] theorem updRun_power (s : State) (h : Nat) (f : Invocation → Invocation) : (updRun s h f).power = s.power := updJob_power _ _ _
@[simp] theorem updRun_rel (s : State) (h : Nat) (f : Invocation → Invocation) : (updRun s h f).rel = s.rel := updJob_rel _ _ _
@[simp] theorem updRun_sec (s : State) (h : Nat) (f : Invocation → Invocation) : (updRun s h f).sec = s.sec := updJob_sec _ _ _
@[simp] theorem updRun_mgmt (s : State) (h : Nat) (f : Invocation → Invocation) : (updRun s h f).mgmt = s.mgmt := updJob_mgmt _ _ _
@[simp] theorem updRun_optics (s : State) (h : Nat) (f : Invocation → Invocation) : (updRun s h f).optics = s.optics := updJob_optics _ _ _
@[simp] theorem updRun_radio (s : State) (h : Nat) (f : Invocation → Invocation) : (updRun s h f).radio = s.radio := updJob_radio _ _ _
@[simp] theorem updRun_services (s : State) (h : Nat) (f : Invocation → Invocation) : (updRun s h f).services = s.services := updJob_services _ _ _
@[simp] theorem updRun_sys (s : State) (h : Nat) (f : Invocation → Invocation) : (updRun s h f).sys = s.sys := updJob_sys _ _ _
@[simp] theorem updRun_sent (s : State) (h : Nat) (f : Invocation → Invocation) : (updRun s h f).sent = s.sent := updJob_sent _ _ _
@[simp] theorem updRun_pending (s : State) (h : Nat) (f : Invocation → Invocation) : (updRun s h f).pending = s.pending := updJob_pending _ _ _

@[simp] theorem updCell_host (s : State) (ci : Nat) (f : Cell → Cell) : (updCell s ci f).host = s.host := by unfold updCell; split <;> rfl
@[simp] theorem updCell_work (s : State) (ci : Nat) (f : Cell → Cell) : (updCell s ci f).work = s.work := by unfold updCell; split <;> rfl
@[simp] theorem updCell_engines (s : State) (ci : Nat) (f : Cell → Cell) : (updCell s ci f).engines = s.engines := by unfold updCell; split <;> rfl
@[simp] theorem updCell_net (s : State) (ci : Nat) (f : Cell → Cell) : (updCell s ci f).net = s.net := by unfold updCell; split <;> rfl
@[simp] theorem updCell_power (s : State) (ci : Nat) (f : Cell → Cell) : (updCell s ci f).power = s.power := by unfold updCell; split <;> rfl
@[simp] theorem updCell_rel (s : State) (ci : Nat) (f : Cell → Cell) : (updCell s ci f).rel = s.rel := by unfold updCell; split <;> rfl
@[simp] theorem updCell_sec (s : State) (ci : Nat) (f : Cell → Cell) : (updCell s ci f).sec = s.sec := by unfold updCell; split <;> rfl
@[simp] theorem updCell_mgmt (s : State) (ci : Nat) (f : Cell → Cell) : (updCell s ci f).mgmt = s.mgmt := by unfold updCell; split <;> rfl
@[simp] theorem updCell_optics (s : State) (ci : Nat) (f : Cell → Cell) : (updCell s ci f).optics = s.optics := by unfold updCell; split <;> rfl
@[simp] theorem updCell_services (s : State) (ci : Nat) (f : Cell → Cell) : (updCell s ci f).services = s.services := by unfold updCell; split <;> rfl
@[simp] theorem updCell_sys (s : State) (ci : Nat) (f : Cell → Cell) : (updCell s ci f).sys = s.sys := by unfold updCell; split <;> rfl
@[simp] theorem updCell_sent (s : State) (ci : Nat) (f : Cell → Cell) : (updCell s ci f).sent = s.sent := by unfold updCell; split <;> rfl
@[simp] theorem updCell_pending (s : State) (ci : Nat) (f : Cell → Cell) : (updCell s ci f).pending = s.pending := by unfold updCell; split <;> rfl

@[simp] theorem hbmWrite_host (s : State) (p a : Nat) (bs : List Byte) : (hbmWrite s p a bs).host = s.host := by unfold hbmWrite; split <;> rfl
@[simp] theorem hbmWrite_engines (s : State) (p a : Nat) (bs : List Byte) : (hbmWrite s p a bs).engines = s.engines := by unfold hbmWrite; split <;> rfl
@[simp] theorem hbmWrite_net (s : State) (p a : Nat) (bs : List Byte) : (hbmWrite s p a bs).net = s.net := by unfold hbmWrite; split <;> rfl
@[simp] theorem hbmWrite_power (s : State) (p a : Nat) (bs : List Byte) : (hbmWrite s p a bs).power = s.power := by unfold hbmWrite; split <;> rfl
@[simp] theorem hbmWrite_rel (s : State) (p a : Nat) (bs : List Byte) : (hbmWrite s p a bs).rel = s.rel := by unfold hbmWrite; split <;> rfl
@[simp] theorem hbmWrite_sec (s : State) (p a : Nat) (bs : List Byte) : (hbmWrite s p a bs).sec = s.sec := by unfold hbmWrite; split <;> rfl
@[simp] theorem hbmWrite_mgmt (s : State) (p a : Nat) (bs : List Byte) : (hbmWrite s p a bs).mgmt = s.mgmt := by unfold hbmWrite; split <;> rfl
@[simp] theorem hbmWrite_optics (s : State) (p a : Nat) (bs : List Byte) : (hbmWrite s p a bs).optics = s.optics := by unfold hbmWrite; split <;> rfl
@[simp] theorem hbmWrite_radio (s : State) (p a : Nat) (bs : List Byte) : (hbmWrite s p a bs).radio = s.radio := by unfold hbmWrite; split <;> rfl
@[simp] theorem hbmWrite_services (s : State) (p a : Nat) (bs : List Byte) : (hbmWrite s p a bs).services = s.services := by unfold hbmWrite; split <;> rfl
@[simp] theorem hbmWrite_sys (s : State) (p a : Nat) (bs : List Byte) : (hbmWrite s p a bs).sys = s.sys := by unfold hbmWrite; split <;> rfl
@[simp] theorem hbmWrite_sent (s : State) (p a : Nat) (bs : List Byte) : (hbmWrite s p a bs).sent = s.sent := by unfold hbmWrite; split <;> rfl
@[simp] theorem hbmWrite_pending (s : State) (p a : Nat) (bs : List Byte) : (hbmWrite s p a bs).pending = s.pending := by unfold hbmWrite; split <;> rfl

@[simp] theorem chargeJob_host (s : State) (h : Nat) (d : Ledger) : (chargeJob s h d).host = s.host := by unfold chargeJob; split <;> rfl
@[simp] theorem chargeJob_engines (s : State) (h : Nat) (d : Ledger) : (chargeJob s h d).engines = s.engines := by unfold chargeJob; split <;> rfl
@[simp] theorem chargeJob_net (s : State) (h : Nat) (d : Ledger) : (chargeJob s h d).net = s.net := by unfold chargeJob; split <;> rfl
@[simp] theorem chargeJob_power (s : State) (h : Nat) (d : Ledger) : (chargeJob s h d).power = s.power := by unfold chargeJob; split <;> rfl
@[simp] theorem chargeJob_rel (s : State) (h : Nat) (d : Ledger) : (chargeJob s h d).rel = s.rel := by unfold chargeJob; split <;> rfl
@[simp] theorem chargeJob_sec (s : State) (h : Nat) (d : Ledger) : (chargeJob s h d).sec = s.sec := by unfold chargeJob; split <;> rfl
@[simp] theorem chargeJob_mgmt (s : State) (h : Nat) (d : Ledger) : (chargeJob s h d).mgmt = s.mgmt := by unfold chargeJob; split <;> rfl
@[simp] theorem chargeJob_optics (s : State) (h : Nat) (d : Ledger) : (chargeJob s h d).optics = s.optics := by unfold chargeJob; split <;> rfl
@[simp] theorem chargeJob_radio (s : State) (h : Nat) (d : Ledger) : (chargeJob s h d).radio = s.radio := by unfold chargeJob; split <;> rfl
@[simp] theorem chargeJob_services (s : State) (h : Nat) (d : Ledger) : (chargeJob s h d).services = s.services := by unfold chargeJob; split <;> rfl
@[simp] theorem chargeJob_sys (s : State) (h : Nat) (d : Ledger) : (chargeJob s h d).sys = s.sys := by unfold chargeJob; split <;> rfl
@[simp] theorem chargeJob_sent (s : State) (h : Nat) (d : Ledger) : (chargeJob s h d).sent = s.sent := by unfold chargeJob; split <;> rfl
@[simp] theorem chargeJob_pending (s : State) (h : Nat) (d : Ledger) : (chargeJob s h d).pending = s.pending := by unfold chargeJob; split <;> rfl

/-! ### Reads after updates -/

@[simp] theorem getCore_updCore_self (s : State) (c : Nat) (f : CoreCtl → CoreCtl) : getCore (updCore s c f) c = f (getCore s c) := by
  simp [getCore]
@[simp] theorem getCore_updCore_other (s : State) {c d : Nat} (f : CoreCtl → CoreCtl) (h : d ≠ c) : getCore (updCore s c f) d = getCore s d := by
  simp [getCore, h]
@[simp] theorem getEng_updEng_self (s : State) (c : Nat) (f : Engines → Engines) : getEng (updEng s c f) c = f (getEng s c) := by
  simp [getEng]
@[simp] theorem getEng_updEng_other (s : State) {c d : Nat} (f : Engines → Engines) (h : d ≠ c) : getEng (updEng s c f) d = getEng s d := by
  simp [getEng, h]
@[simp] theorem getJob_putJob_self (s : State) (h : Nat) (j : Job) : getJob (putJob s h j) h = some j := by simp [getJob]
@[simp] theorem getJob_putJob_other (s : State) {h k : Nat} (j : Job) (hk : k ≠ h) : getJob (putJob s h j) k = getJob s k := by
  simp [getJob, hk]
theorem getJob_updJob_self (s : State) (h : Nat) (f : Job → Job) : getJob (updJob s h f) h = (getJob s h).map f := by
  unfold updJob; split <;> simp_all
@[simp] theorem getJob_updJob_other (s : State) {h k : Nat} (f : Job → Job) (hk : k ≠ h) : getJob (updJob s h f) k = getJob s k := by
  unfold updJob; split <;> simp_all
@[simp] theorem getFn_updFn_self (s : State) (n : Nat) (g : Fn → Fn) : getFn (updFn s n g) n = g (getFn s n) := by simp [getFn]
@[simp] theorem getFn_updFn_other (s : State) {n m : Nat} (g : Fn → Fn) (h : m ≠ n) : getFn (updFn s n g) m = getFn s m := by simp [getFn, h]
@[simp] theorem getTill_updTill_self (s : State) (n : Nat) (g : Till → Till) : getTill (updTill s n g) n = g (getTill s n) := by simp [getTill]
@[simp] theorem getTill_updTill_other (s : State) {n m : Nat} (g : Till → Till) (h : m ≠ n) : getTill (updTill s n g) m = getTill s m := by
  simp [getTill, h]
@[simp] theorem getTally_updTally_self (s : State) (t : Nat) (f : Tally → Tally) : getTally (updTally s t f) t = f (getTally s t) := by
  simp [getTally]
@[simp] theorem getTally_updTally_other (s : State) {t u : Nat} (f : Tally → Tally) (h : u ≠ t) : getTally (updTally s t f) u = getTally s u := by
  simp [getTally, h]
@[simp] theorem getCell_putCell_self (s : State) (ci : Nat) (c : Cell) : getCell (putCell s ci c) ci = some c := by simp [getCell]
@[simp] theorem getCell_putCell_other (s : State) {ci k : Nat} (c : Cell) (h : k ≠ ci) : getCell (putCell s ci c) k = getCell s k := by
  simp [getCell, h]
theorem getCell_updCell_self (s : State) (ci : Nat) (f : Cell → Cell) : getCell (updCell s ci f) ci = (getCell s ci).map f := by
  unfold updCell; split <;> simp_all
@[simp] theorem getAdapt_updAdapt_self (s : State) (ci : Nat) (f : Adapt → Adapt) : getAdapt (updAdapt s ci f) ci = f (getAdapt s ci) := by
  simp [getAdapt]
theorem getSvc_updSvc_self (s : State) (i : Nat) (f : Svc → Svc) : getSvc (updSvc s i f) i = (getSvc s i).map f := by
  simp only [getSvc, updSvc]
  induction s.services with
  | nil => rfl
  | cons e t ih =>
    obtain ⟨k, v⟩ := e
    by_cases h : k = i
    · simp [Tbl.find, h]
    · simp [Tbl.find, h]; exact ih

@[simp] theorem modNth_length {α : Type} (l : List α) (i : Nat) (f : α → α) : (modNth l i f).length = l.length := by simp [modNth]
@[simp] theorem getMac_updMac_self (s : State) {m : Nat} (f : Mac → Mac) (h : m < s.net.macs.length) : getMac (updMac s m f) m = f (getMac s m) := by
  simp [getMac, nth, modNth, h]
@[simp] theorem getMac_updMac_other (s : State) {m k : Nat} (f : Mac → Mac) (h : k ≠ m) : getMac (updMac s m f) k = getMac s k := by
  by_cases hk : k < s.net.macs.length <;> simp [getMac, nth, modNth, h, hk]

end Sys2Proof.Machine
end

