-- ==== Sys2Proof/Laws/Command.lean ====
section
/-! SUPPORT. What a command that the tellers take and carry out does, in one lemma, and what its checks answer. -/

namespace Sys2Proof.Machine

/-- A command that is carried out: its effect, then its completion unless it waits. -/
def carriedOut (carry : Carry) (t : State) (c : Ctx) : State :=
  match carry c t with
  | (u, some d) => answered u c d
  | (u, none) => waits u

@[simp] theorem openTicket_power (s : State) (op : Nat) (m : Msg) (r : Nat) : (openTicket s op m r).power = s.power := by
  unfold openTicket; split <;> rfl

theorem takeCommand_of_carried {s t : State} {op since len : Nat} {m : Msg} {c : Ctx} (h : Carried s op since len m t c)
    (hl : len ≤ 4096) (h8 : len % 8 = 0) (ok : Nat → Bool) (hok : ok len = true) (carry : Carry) :
    takeCommand op (some (since, ok, carry)) m s = some (carriedOut carry t c) := by
  obtain ⟨rfl, rfl, ht, hlen, hr, hs, hi, -, -, -⟩ := h
  have hlen' : 16 + m.body.length = len := hlen
  have hsess : (fromClient m.src || (sessionOf (openTicket s op m (replyTill s m).1) m.src).isSome || decide (op = 0)) = true := by
    rcases hs with h | h | h
    · simp [h]
    · simp [h]
    · have h1 : (sessionOf (openTicket s op m (replyTill s m).1) m.src).isSome = true := h.1
      simp [h1]
  have hver : (fromClient m.src || decide (op = 0) || decide (since ≤ (sessionOf (openTicket s op m (replyTill s m).1) m.src).getD 0)) = true := by
    rcases hs with h | h | h
    · simp [h]
    · simp [h]
    · have h1 : since ≤ (sessionOf (openTicket s op m (replyTill s m).1) m.src).getD 0 := h.2
      simp [h1]
  unfold takeCommand
  rw [if_neg (by simp [ht])]
  have hflow : ¬ ((openTicket s op m (replyTill s m).1).power.flowStopped = true ∧ needsIslands op = true) := by
    rintro ⟨hf, hn⟩
    exact absurd (hi (by rw [← openTicket_power]; exact hf)) (by simp [hn])
  cases hsrc : m.src <;>
  · simp only [fromClient, hsrc, Bool.true_or, Bool.false_or] at hsess hver
    simp only [hlen', hl, h8, decide_true, Bool.and_true, if_true, hr, hsess, hver, hok, firstFail, hflow, Bool.true_or, Bool.false_or, if_false]
    simp only [Option.some.injEq, hsrc, carryOut, carriedOut, takenState, takenCmd, answered, waits]
    rcases carry _ _ with ⟨u, _ | d⟩ <;> rfl

/-- A command that the tellers take and carry out. -/
theorem runCommand_of_carried {s t : State} {op since len : Nat} {m : Msg} {c : Ctx} (h : Carried s op since len m t c)
    (hl : len ≤ 4096) (h8 : len % 8 = 0) (carry : Carry) :
    runCommand op since len carry m s = .next (carriedOut carry t c) := by
  unfold runCommand
  rw [takeCommand_of_carried h hl h8 _ (by simp) carry]
  rfl

/-- The checks that the commands share pass for a command that is carried out, when its own pass. -/
theorem checks_of_carried {s t : State} {op since len : Nat} {m : Msg} {c : Ctx} (h : Carried s op since len m t c)
    (fields tenant locked present : Bool) (rest : List (Bool × Nat)) :
    c.checks t fields tenant locked present rest =
      firstFail ([(fields, eVersion), (tenant, eTenant), (!locked, eLocked), (present, ePresence)] ++ rest) := by
  have hf := h.flags
  have hl := h.life
  have hr := h.recovery
  have hop : c.op = op := by rw [h.cmd]; rfl
  simp only [Ctx.checks, hf, hop, hl, hr, Bool.and_true, Bool.true_and]
  cases fields <;> cases tenant <;> cases locked <;> cases present <;> simp [firstFail]

@[simp] theorem firstFail_nil : firstFail [] = none := rfl
theorem firstFail_cons_true (st : Nat) (l : List (Bool × Nat)) : firstFail ((true, st) :: l) = firstFail l := rfl
theorem firstFail_cons_false (st : Nat) (l : List (Bool × Nat)) : firstFail ((false, st) :: l) = some st := rfl
@[simp] theorem whenOk_none (s : State) (act : State × Option Done) : whenOk s none act = act := rfl
@[simp] theorem whenOk_some (s : State) (st : Nat) (act : State × Option Done) : whenOk s (some st) act = refuse s st := rfl

/-- The fields of a command that is carried out are those of its message. -/
theorem Carried.msg {s t : State} {op since len : Nat} {m : Msg} {c : Ctx} (h : Carried s op since len m t c) : c.m = m := by
  rw [h.cmd]; rfl

end Sys2Proof.Machine
end

