-- ==== Sys2Proof/Laws/Keeps.lean ====
section
/-! SUPPORT. What every operation keeps: the queue, the fuses, the canonical form of every byte memory; and how that composes. -/

namespace Sys2Proof.Machine

/-- From s to t the queue stands, no fuse is undone, and canonical memories stay canonical. -/
structure Keeps (s t : State) : Prop where
  pending : t.pending = s.pending
  fuses : FusesKept s t
  inv : Inv s → Inv t

/-- What a command answers keeps them, whenever it is a next state. -/
def OutKeeps (s : State) (o : Out) : Prop := ∀ t, o = .next t → Keeps s t

/-- The state that an operation may answer keeps them. -/
def OptKeeps (s : State) (o : Option State) : Prop := ∀ t, o = some t → Keeps s t

theorem Keeps.refl (s : State) : Keeps s s := ⟨rfl, ⟨rfl, rfl, rfl, le_refl _⟩, id⟩

theorem FusesKept.trans {s t u : State} (h : FusesKept s t) (k : FusesKept t u) : FusesKept s u :=
  ⟨k.1.trans h.1, k.2.1.trans h.2.1, k.2.2.1.trans h.2.2.1, le_trans h.2.2.2 k.2.2.2⟩

theorem Keeps.trans {s t u : State} (h : Keeps s t) (k : Keeps t u) : Keeps s u :=
  ⟨k.pending.trans h.pending, h.fuses.trans k.fuses, fun i => k.inv (h.inv i)⟩

/-- An update that leaves the queue, the fuses and the memories alone. -/
theorem Keeps.of_eq {s0 s t : State} (h1 : t.pending = s.pending) (h2 : t.sec.fuses = s.sec.fuses) (h3 : t.work.hbm = s.work.hbm)
    (h4 : t.work.cores = s.work.cores) (h5 : t.host.tillMem = s.host.tillMem) (h6 : t.host.hostMem = s.host.hostMem) (hs : Keeps s0 s) :
    Keeps s0 t := by
  refine hs.trans ⟨h1, ?_, ?_⟩
  · simp [FusesKept, h2]
  · intro h; simpa [Inv, h3, h4, h5, h6] using h

/-- The memories hold their form, the fuses what they held. -/
theorem Keeps.of_inv {s0 s t : State} (h1 : t.pending = s.pending) (h2 : FusesKept s t) (h3 : Inv s → Inv t) (hs : Keeps s0 s) : Keeps s0 t :=
  hs.trans ⟨h1, h2, h3⟩

theorem Keeps.of_fst {α : Type} {s0 t : State} {r : State × α} {d : α} (h : r = (t, d)) (hr : Keeps s0 r.1) : Keeps s0 t := by
  subst h; exact hr

theorem Keeps.of_some {s0 t : State} {o : Option State} (h : o = some t) (ho : OptKeeps s0 o) : Keeps s0 t := ho t h

theorem Keeps.ite {s0 a b : State} {c : Prop} [Decidable c] (ha : Keeps s0 a) (hb : Keeps s0 b) : Keeps s0 (if c then a else b) := by
  split <;> assumption

theorem Keeps.foldl {α : Type} {s0 s : State} {f : State → α → State} (l : List α) (hf : ∀ t, Keeps s0 t → ∀ a, Keeps s0 (f t a))
    (hs : Keeps s0 s) : Keeps s0 (l.foldl f s) := by
  induction l generalizing s with
  | nil => exact hs
  | cons a l ih => exact ih (hf s hs a)

theorem Keeps.foldl_fst {α β : Type} {s0 : State} {f : State × β → α → State × β} (l : List α) {r : State × β}
    (hf : ∀ t, Keeps s0 t.1 → ∀ a, Keeps s0 (f t a).1) (hs : Keeps s0 r.1) : Keeps s0 (l.foldl f r).1 := by
  induction l generalizing r with
  | nil => exact hs
  | cons a l ih => exact ih (hf r hs a)

theorem Keeps.getD {s0 s : State} {o : Option State} (ho : OptKeeps s0 o) (hs : Keeps s0 s) : Keeps s0 (o.getD s) := by
  cases o with
  | none => exact hs
  | some t => exact ho t rfl

theorem OutKeeps.next {s0 t : State} (h : Keeps s0 t) : OutKeeps s0 (.next t) := by
  intro u hu; cases hu; exact h
theorem OutKeeps.fault {s0 : State} (e : Fault) : OutKeeps s0 (.fault e) := by intro u hu; cases hu
theorem OutKeeps.refused {s0 : State} (r : Refusal) : OutKeeps s0 (.refused r) := by intro u hu; cases hu
theorem OptKeeps.none {s0 : State} : OptKeeps s0 none := by intro u hu; cases hu
theorem OptKeeps.some {s0 t : State} (h : Keeps s0 t) : OptKeeps s0 (some t) := by intro u hu; cases hu; exact h

/-! ### The updates -/

theorem updHost_keeps {s0 s : State} {f : HostIf → HostIf} (h5 : (f s.host).tillMem = s.host.tillMem)
    (h6 : (f s.host).hostMem = s.host.hostMem) (hs : Keeps s0 s) : Keeps s0 (updHost s f) := Keeps.of_eq (s := s) rfl rfl rfl rfl h5 h6 hs
theorem updWork_keeps {s0 s : State} {f : Work → Work} (h3 : (f s.work).hbm = s.work.hbm)
    (h4 : (f s.work).cores = s.work.cores) (hs : Keeps s0 s) : Keeps s0 (updWork s f) := Keeps.of_eq (s := s) rfl rfl h3 h4 rfl rfl hs
theorem updSec_keeps {s0 s : State} {f : Sec → Sec} (h2 : (f s.sec).fuses = s.sec.fuses) (hs : Keeps s0 s) : Keeps s0 (updSec s f) :=
  Keeps.of_eq (s := s) rfl h2 rfl rfl rfl rfl hs
/-- A write of fuses that leaves the part, the stepping and the factory map, and does not lower the floor. -/
theorem updSec_fuses_keeps {s0 s : State} {f : Sec → Sec} (h1 : (f s.sec).fuses.part = s.sec.fuses.part)
    (h2 : (f s.sec).fuses.stepping = s.sec.fuses.stepping) (h3 : (f s.sec).fuses.factory = s.sec.fuses.factory)
    (h4 : s.sec.fuses.svnFloor ≤ (f s.sec).fuses.svnFloor) (hs : Keeps s0 s) : Keeps s0 (updSec s f) :=
  Keeps.of_inv (s := s) rfl ⟨h1, h2, h3, h4⟩ id hs

/-- Cores whose scratchpads keep their form. -/
theorem cores_upd_wf {cs : Tbl CoreCtl} (c : Nat) {f : CoreCtl → CoreCtl}
    (hf : Memory.wf (Tbl.get CoreCtl.reset cs c).scratch = true → Memory.wf (f (Tbl.get CoreCtl.reset cs c)).scratch = true)
    (h : ∀ e ∈ cs, Memory.wf e.2.scratch = true) : ∀ e ∈ Tbl.upd CoreCtl.reset cs c f, Memory.wf e.2.scratch = true := by
  intro e he
  have hget : ∀ l : Tbl CoreCtl, (∀ e ∈ l, Memory.wf e.2.scratch = true) → Memory.wf (Tbl.get CoreCtl.reset l c).scratch = true := by
    intro l
    induction l with
    | nil => intro _; rfl
    | cons x l ih =>
      intro hl
      simp only [Tbl.get]
      split
      · exact hl x (by simp)
      · exact ih fun e he => hl e (by simp [he])
  rw [Tbl.upd, Tbl.set] at he
  split at he
  · exact h e (Tbl.mem_del he)
  · rcases Tbl.mem_put he with rfl | he
    · exact hf (hget cs h)
    · exact h e he

theorem updCore_keeps {s0 s : State} {c : Nat} {f : CoreCtl → CoreCtl}
    (hf : Memory.wf (getCore s c).scratch = true → Memory.wf (f (getCore s c)).scratch = true) (hs : Keeps s0 s) : Keeps s0 (updCore s c f) :=
  Keeps.of_inv (s := s) rfl ⟨rfl, rfl, rfl, le_refl _⟩ (fun h => ⟨h.1, h.2.1, h.2.2.1, cores_upd_wf c hf h.2.2.2⟩) hs

/-- A write of HBM that keeps its form. -/
theorem updWork_hbm_keeps {s0 s : State} {f : Work → Work} (h3 : Memory.wf s.work.hbm = true → Memory.wf (f s.work).hbm = true)
    (h4 : (f s.work).cores = s.work.cores) (hs : Keeps s0 s) : Keeps s0 (updWork s f) :=
  Keeps.of_inv (s := s) rfl ⟨rfl, rfl, rfl, le_refl _⟩
    (fun h => ⟨h3 h.1, h.2.1, h.2.2.1, by
      have := h.2.2.2
      simpa [h4] using this⟩) hs

/-- A write of the tills' memory or of host memory that keeps its form. -/
theorem host_keeps {s0 s : State} {x : HostIf} (h5 : Memory.wf s.host.tillMem = true → Memory.wf x.tillMem = true)
    (h6 : Memory.wf s.host.hostMem = true → Memory.wf x.hostMem = true) (hs : Keeps s0 s) : Keeps s0 { s with host := x } :=
  Keeps.of_inv (s := s) rfl ⟨rfl, rfl, rfl, le_refl _⟩ (fun h => ⟨h.1, h5 h.2.1, h6 h.2.2.1, h.2.2.2⟩) hs

theorem wf_foldl {α : Type} {f : Mem → α → Mem} (l : List α) (hf : ∀ m, Memory.wf m = true → ∀ a, Memory.wf (f m a) = true) {m : Mem}
    (h : Memory.wf m = true) : Memory.wf (l.foldl f m) = true := by
  induction l generalizing m with
  | nil => exact h
  | cons a l ih => exact ih (hf m h a)

/-! ### A state that differs in one field -/

theorem mk_host_keeps {s0 s : State} {x : HostIf} (h5 : x.tillMem = s.host.tillMem) (h6 : x.hostMem = s.host.hostMem) (hs : Keeps s0 s) :
    Keeps s0 ⟨x, s.work, s.engines, s.net, s.power, s.rel, s.sec, s.mgmt, s.optics, s.radio, s.services, s.sys, s.sent, s.pending⟩ :=
  Keeps.of_eq (s := s) rfl rfl rfl rfl h5 h6 hs
theorem mk_work_keeps {s0 s : State} {x : Work} (h3 : x.hbm = s.work.hbm) (h4 : x.cores = s.work.cores) (hs : Keeps s0 s) :
    Keeps s0 ⟨s.host, x, s.engines, s.net, s.power, s.rel, s.sec, s.mgmt, s.optics, s.radio, s.services, s.sys, s.sent, s.pending⟩ :=
  Keeps.of_eq (s := s) rfl rfl h3 h4 rfl rfl hs
theorem mk_engines_keeps {s0 s : State} {x : Tbl Engines} (hs : Keeps s0 s) :
    Keeps s0 ⟨s.host, s.work, x, s.net, s.power, s.rel, s.sec, s.mgmt, s.optics, s.radio, s.services, s.sys, s.sent, s.pending⟩ :=
  Keeps.of_eq (s := s) rfl rfl rfl rfl rfl rfl hs
theorem mk_net_keeps {s0 s : State} {x : Net} (hs : Keeps s0 s) :
    Keeps s0 ⟨s.host, s.work, s.engines, x, s.power, s.rel, s.sec, s.mgmt, s.optics, s.radio, s.services, s.sys, s.sent, s.pending⟩ :=
  Keeps.of_eq (s := s) rfl rfl rfl rfl rfl rfl hs
theorem mk_power_keeps {s0 s : State} {x : Power} (hs : Keeps s0 s) :
    Keeps s0 ⟨s.host, s.work, s.engines, s.net, x, s.rel, s.sec, s.mgmt, s.optics, s.radio, s.services, s.sys, s.sent, s.pending⟩ :=
  Keeps.of_eq (s := s) rfl rfl rfl rfl rfl rfl hs
theorem mk_rel_keeps {s0 s : State} {x : Rel} (hs : Keeps s0 s) :
    Keeps s0 ⟨s.host, s.work, s.engines, s.net, s.power, x, s.sec, s.mgmt, s.optics, s.radio, s.services, s.sys, s.sent, s.pending⟩ :=
  Keeps.of_eq (s := s) rfl rfl rfl rfl rfl rfl hs
theorem mk_sec_keeps {s0 s : State} {x : Sec} (h2 : x.fuses = s.sec.fuses) (hs : Keeps s0 s) :
    Keeps s0 ⟨s.host, s.work, s.engines, s.net, s.power, s.rel, x, s.mgmt, s.optics, s.radio, s.services, s.sys, s.sent, s.pending⟩ :=
  Keeps.of_eq (s := s) rfl h2 rfl rfl rfl rfl hs
theorem mk_mgmt_keeps {s0 s : State} {x : Mgmt} (hs : Keeps s0 s) :
    Keeps s0 ⟨s.host, s.work, s.engines, s.net, s.power, s.rel, s.sec, x, s.optics, s.radio, s.services, s.sys, s.sent, s.pending⟩ :=
  Keeps.of_eq (s := s) rfl rfl rfl rfl rfl rfl hs
theorem mk_optics_keeps {s0 s : State} {x : Optics} (hs : Keeps s0 s) :
    Keeps s0 ⟨s.host, s.work, s.engines, s.net, s.power, s.rel, s.sec, s.mgmt, x, s.radio, s.services, s.sys, s.sent, s.pending⟩ :=
  Keeps.of_eq (s := s) rfl rfl rfl rfl rfl rfl hs
theorem mk_radio_keeps {s0 s : State} {x : Radio} (hs : Keeps s0 s) :
    Keeps s0 ⟨s.host, s.work, s.engines, s.net, s.power, s.rel, s.sec, s.mgmt, s.optics, x, s.services, s.sys, s.sent, s.pending⟩ :=
  Keeps.of_eq (s := s) rfl rfl rfl rfl rfl rfl hs
theorem mk_services_keeps {s0 s : State} {x : Tbl Svc} (hs : Keeps s0 s) :
    Keeps s0 ⟨s.host, s.work, s.engines, s.net, s.power, s.rel, s.sec, s.mgmt, s.optics, s.radio, x, s.sys, s.sent, s.pending⟩ :=
  Keeps.of_eq (s := s) rfl rfl rfl rfl rfl rfl hs
theorem mk_sys_keeps {s0 s : State} {x : Sys} (hs : Keeps s0 s) :
    Keeps s0 ⟨s.host, s.work, s.engines, s.net, s.power, s.rel, s.sec, s.mgmt, s.optics, s.radio, s.services, x, s.sent, s.pending⟩ :=
  Keeps.of_eq (s := s) rfl rfl rfl rfl rfl rfl hs
theorem mk_sent_keeps {s0 s : State} {x : List Output} (hs : Keeps s0 s) :
    Keeps s0 ⟨s.host, s.work, s.engines, s.net, s.power, s.rel, s.sec, s.mgmt, s.optics, s.radio, s.services, s.sys, x, s.pending⟩ :=
  Keeps.of_eq (s := s) rfl rfl rfl rfl rfl rfl hs

end Sys2Proof.Machine
end

