-- ==== Sys2Proof/Machine/Bounds.lean ====
section
/-! DEFINITION. The accuracy that 05 R129 states of the transcendental functions, which `Config` leaves without a body: a statement about
their values takes it as a premise. -/

namespace Sys2Proof.Machine

/-- The real number that finite F32 bits stand for. -/
noncomputable def f32Real (x : BitVec 32) : Option ℝ :=
  match fF32.decode x.toNat with
  | .fin neg m e => some ((if neg then -1 else 1) * (m : ℝ) * (2 : ℝ) ^ e)
  | _ => none

/-- The unit in the last place of F32 at a real number. -/
noncomputable def f32Ulp (y : ℝ) : ℝ := (2 : ℝ) ^ (max (Int.log 2 |y|) (-126) - 23)

/-- Whether bits lie within n ULP of a real number; past the largest finite value, an infinity of its sign does too. -/
def withinUlp (n : ℝ) (y : ℝ) (b : BitVec 32) : Prop :=
  match fF32.decode b.toNat with
  | .inf neg => (2 : ℝ) ^ (128 : ℤ) - (2 : ℝ) ^ (104 : ℤ) < |y| ∧ (neg = true ↔ y < 0)
  | .nan => False
  | .fin _ _ _ => ∃ z, f32Real b = some z ∧ |z - y| ≤ n * f32Ulp y

/-- Whether bits lie within an absolute distance of a real number. -/
def withinAbs (d : ℝ) (y : ℝ) (b : BitVec 32) : Prop := ∃ z, f32Real b = some z ∧ |z - y| ≤ d

/-- The maximum errors of the table of 05 R129. The absolute error of VSINT and VCOST is counted in ULP of 1 (DEDUCED, log 20). -/
structure TransBounds : Prop where
  exp2 : ∀ x r, f32Real x = some r → withinUlp 2 ((2 : ℝ) ^ r) (Config.exp2 x)
  log2 : ∀ x r, f32Real x = some r → 0 < r → withinUlp 2 (Real.logb 2 r) (Config.log2 x)
  rcp : ∀ x r, f32Real x = some r → r ≠ 0 → withinUlp 1 (1 / r) (Config.rcp x)
  rsqrt : ∀ x r, f32Real x = some r → 0 < r → withinUlp 1 (1 / Real.sqrt r) (Config.rsqrt x)
  sint : ∀ x r, f32Real x = some r → |r| < 4194304 → withinAbs (2 * f32Ulp 1) (Real.sin (2 * Real.pi * r)) (Config.sint x)
  cost : ∀ x r, f32Real x = some r → |r| < 4194304 → withinAbs (2 * f32Ulp 1) (Real.cos (2 * Real.pi * r)) (Config.cost x)
  tanh : ∀ x r, f32Real x = some r → withinUlp 2 (Real.tanh r) (Config.tanh x)

end Sys2Proof.Machine
end

