-- ==== Sys2Proof/WellFormed.lean ====
section
/-! DEFINITION. Well-formed commands: every number that names a part of the device names one that exists (00 R1, 01 R18-R20, 15 R386,
R404). A step does not ask for it: a command that names nothing has no effect on what exists. -/

namespace Sys2Proof

/-- A message that a till or a transport can hold: LENGTH has 16 bits; management has no till, a function's tills are its own, a
service client's is a partition till (16 R417, 15 R404). -/
def Msg.wellFormed (m : Msg) : Bool :=
  decide (m.body.length + 16 < 65536) &&
    match m.src, m.till with
    | .mgmt, t => t.isNone
    | .fn f, some n => decide (n < 65632) && (decide (96 ≤ n) || decide (n / 3 = f.val))
    | .client a, some n => decide (96 ≤ n) && decide (n < 65632) && decide (a < 281474976710656)
    | _, none => false

/-- An array index names one of four (03 R74). -/
def Unit_.wellFormed : Unit_ → Bool
  | .array k => decide (k < 4)
  | _ => true

/-- A unit that the mend map can name: 72 cores, 24 LD, 8 PL, 16 LE (19 R504). -/
def unitIn (kind index : Nat) : Bool :=
  decide (kind = 0 ∧ index < 72 ∨ kind = 1 ∧ index < 24 ∨ kind = 2 ∧ index < 8 ∨ kind = 3 ∧ index < 16)

/-- Whether the numbers of a command name parts that exist. -/
def Instr.wellFormed : Instr → Bool
  | .nop core | .pass core _ _ | .reload core _ _ | .vec core _ | .sig core _ | .feed core _ | .store core _ | .mint core _ | .post core
  | .checkpoint core | .digest core _ | .fence core | .epochEnd core _ | .epochBegin core | .stallLimit core | .eventBoundaryStop core _
  | .vecNop core | .vadd core | .vsub core | .vmul core | .vfma core | .vmax core | .vmin core | .vabs core | .vneg core | .vmov core
  | .vsel core | .vclamp core | .vcmp core | .vand core | .vor core | .vxor core | .vshl core | .vshr core | .vshru core | .mand core
  | .mor core | .mnot core | .vrsum core | .vrmax core | .vrmin core | .vrargmax core | .vexp2 core | .vlog2 core | .vrcp core
  | .vrsqrt core | .vsqrt core | .vsint core | .vcost core | .vtanh core | .cmul core | .cmulc core | .cmac core | .cmacc core
  | .cmag2 core | .crot core | .vcvt core | .vbcast core | .vrot core | .vzip core | .vunzip core | .vperm core | .vld core | .vst core
  | .vldacc core | .vstacc core | .vgather core | .loop core | .loopEnd core | .pset core | .padd core | .sigNop core | .lda core
  | .add core | .sub core | .cmp core | .cmpa core | .max core | .min core | .abs core | .neg core | .zero core | .rnda core | .shl core
  | .shr core | .mul core | .mulr core | .madd core | .maddr core | .msub core | .msubr core | .mneg core | .and core | .or core
  | .xor core | .norm core | .satw core | .pget core | .halt core | .jmp core | .call core | .ret core | .doLoop core | .doEnd core
  | .rep core | .repEnd core | .ldp core | .ldi core | .pcopy core | .get core | .put core | .setm core | .yieldAbortPoint core
  | .saveComplete core | .rinseComplete core | .lentWindowClose core | .beDispatch core | .transactionLanding core _ _ | .droopTrip core
  | .selftestSlice core _ =>
    decide (core < 72)
  | .stepComplete core u _ _ =>
    decide (core < 72) && u.wellFormed
  | .epochLimit _ | .planRuleSelect _ | .mendMapWrite | .tallyWaitTimeout _ | .digestCombine _ _ _ | .clipShare _ _ _ | .dbEnable _ _
  | .softReset _ | .quiesce _ _ | .fnErrorClear _ _ | .irqCauseClear _ _ | .irqMaskWrite _ _ | .ledgerLatch _ _ | .tallySelect _ _
  | .chipLock _ _ | .registerWrite _ _ _ _ _ | .mw4Access _ _ _ | .functionLevelReset _ | .pcieConventionalReset _ | .functionResetDone _
  | .dmaReadTimeout _ | .lldpSend | .ptpSync _ _ _ _ | .ptpDelayReq _ _ _ | .ptpDelayResp _ _ _ | .ptpAnnounce _ _ | .holdoverLimitExpiry
  | .esmcSend | .esmcTimeout _ | .clk10mLost | .ppsInEdge _ | .ppsLost | .ppsOutEdge | .todMessage _ | .todLost | .todOutMessage
  | .timeSetApply _ | .timeLatch _ | .aonClockSet | .groupForm _ _ _ | .linkTimeMeasure _ _ | .capControlInterval _ | .capBindingEnd
  | .diePointSelect _ | .prochotAssert | .prochotRelease | .thermtrip | .flowLoss | .flowGlitch | .flowRestart | .flowRestartDone
  | .energyInterval _ _ _ | .tellerWatchdog | .tellerScrub _ | .errorLogFlashWrite _ | .presenceEvent _ | .presenceWindowClose
  | .presenceStuck | .sealPulse _ | .sakInstall _ | .sakErase _ | .ownerCommit _ | .secConfigLock _ | .retry _ | .wearLedgerWrite
  | .coldReset _ _ | .pwrgoodFall | .bootReady _ | .recoveryExit | .pcieLinkUp | .d3hotTransition _ | .deviceReadFailure _
  | .sourceWrite _ | .clk10mRestored _ | .ptpSignaling _ _ _ | .vbatLow _ | .vaonLoss | .jtagInstruction _ | .firmwareTransfer _ _
  | .memoryBistComplete _ | .placementComplete _ | .fwStageComplete =>
    true
  | .segmentWake core segment =>
    decide (core < 72) && decide (segment < 12)
  | .memMap m | .memUnmap m | .memQuery m | .tallyAdd m | .tallyRead m | .tallyWait m | .tallyQuery m | .partCreate m | .partDestroy m
  | .partBind m | .partQuery m | .ledgerRead m | .ledgerClear m | .hello m | .bye m | .tillConfig m | .tillReset m | .jobLoad m
  | .jobStart m | .jobStop m | .jobUnload m | .planSelect m | .jobQuery m | .capSet m | .capQuery m | .timeQuery m | .fapiTunnel m
  | .cellStart m | .cellStop m | .cellStats m | .selftest m | .fwStage m | .fwActivate m | .lcAdvance m | .mendUpdate m | .sealArm m
  | .dbgHalt m | .dbgStep m | .dbgResume m | .dbgRead m | .adaptConfig m | .loadSlot m | .clearSlot m | .adaptQuery m | .adaptPromote m
  | .adaptRollback m | .svcOpen m | .svcClose m | .svcQuery m | .sessionOpen m | .sessionAppend m | .sessionGenerate m | .sessionFork m
  | .sessionClose m =>
    m.wellFormed
  | .pagesMapped part _ | .unmapComplete part _ | .tallyMonitorMet part _ | .partDestroyComplete part =>
    decide (part < 8)
  | .postVisible tally core =>
    decide (tally < 8192) && decide (core < 72)
  | .groupTallyMessage port part _ _ _ _ _ | .linkTileRx port part _ _ _ _ _ =>
    decide (port < 4) && decide (part < 8)
  | .barrierRelease tally =>
    decide (tally < 8192)
  | .producerDoorbell _ d _ | .consumerDoorbell _ d _ =>
    decide (d < 512)
  | .messageTake till =>
    decide (till < 65632)
  | .irqHoldoffExpiry _ vector =>
    decide (vector < 2048)
  | .msixUnmask _ vector =>
    (vector.all fun v => decide (v < 2048))
  | .vfDisable numVFs | .vfEnable numVFs =>
    decide (numVFs < 32)
  | .floorRaiseTimeout die | .vdone die | .avsSettleTimeout die | .droopMaskEnd die =>
    decide (die < 2)
  | .uplaneFrame mac vlan _ _ =>
    decide (mac < 8) && decide (vlan < 4096)
  | .serviceFrame mac vlan addr _ =>
    decide (mac < 8) && decide (vlan < 4096) && decide (addr < 281474976710656)
  | .frameDrop mac _ | .lldpdu mac | .ethLinkChange mac _ | .syncTx mac | .announceTx mac | .delayReqTx mac _ | .ptpSourceLoss mac
  | .esmcPdu mac _ | .macCounterClear mac _ | .macsecControl mac _ =>
    decide (mac < 8)
  | .ulTtiRequest cell _ _ _ | .dlTtiRequest cell _ _ _ | .ulDciRequest cell _ _ _ | .txDataRequest cell _ _ _
  | .slotIndication cell _ | .contextFree cell _ | .harqAgeExpiry cell _ _ | .polarDecoded cell _ _ _ _ | .symbolDeparture cell _ _
  | .dlCplaneSend cell _ | .ulCplaneSend cell _ _ | .stagingProcess cell _ _ | .evalExpiry cell | .trainingRoundStart cell
  | .roundEnd cell | .roundTimeout cell | .liveSwitch cell | .liveFailureTrigger cell | .probationEnd cell =>
    decide (cell < 48)
  | .symbolClose at_ _ symbol =>
    decide (symbol < 14) && (match at_ with
      | .cell ci => decide (ci < 48)
      | .station _ st => decide (st < 1024))
  | .codeBlockDecoded cell _ _ cb _ | .codeBlockEncoded cell _ _ cb _ _ =>
    decide (cell < 48) && decide (cb < 65536)
  | .evictionCopyComplete svc _ | .reloadCopyComplete svc _ | .sessionFrameTimeout svc _ =>
    decide (svc < 8)
  | .relneLinkUp port _ _ _ _ | .relneLinkDown port =>
    decide (port < 4)
  | .avsRetry rail _ =>
    decide (rail < 6)
  | .avsBusFailure bus | .opticsBusRecovery bus _ =>
    decide (bus < 2)
  | .thermalSample temps =>
    decide (temps.length = 80)
  | .lockstepMismatch pair =>
    decide (pair < 4)
  | .hbmScrub stack channel _ _ _ _ =>
    decide (stack < 4) && decide (channel < 32)
  | .selftestDue kind index | .engineTest kind index _ | .selftestDeferred kind index =>
    (unitIn kind index)
  | .getVersion via eid | .getCapabilities via eid _ | .negotiateAlgorithms via eid _ _ | .getDigests via eid | .mctpMessage via eid _ _
  | .setEndpointId via eid _ | .getPdr via eid _ | .setEventReceiver via eid _ | .requestUpdate via eid | .verifyComplete via eid
  | .activateFirmware via eid | .getFirmwareParameters via eid =>
    decide (via < 3) && decide (eid < 256)
  | .getCertificate via eid slot _ _ | .challenge via eid slot _ | .getMeasurements via eid slot _ _ _ =>
    decide (via < 3) && decide (eid < 256) && decide (slot < 8)
  | .getSensorReading via eid sensor | .getStateSensorReadings via eid sensor =>
    decide (via < 3) && decide (eid < 256) && decide (sensor < 65536)
  | .setStateEffecterStates via eid effecter _ =>
    decide (via < 3) && decide (eid < 256) && decide (effecter < 65536)
  | .smbusTimeout port | .smbusRetry port _ =>
    decide (port < 2)
  | .opticsProbe slot _ | .opticsMonitorRead slot _ =>
    decide (slot < 8)
  | .indicatorShortHoldoff indicator | .loadCheck indicator _ =>
    decide (indicator < 6)
  | .mctpMessageSent via =>
    decide (via < 3)

end Sys2Proof
end

