-- ==== Sys2Proof/Tests/Slice0.lean ====
section
/-! SUPPORT. Tests: for each check of WellFormed a command that it refuses; for each statement with hypotheses a state and operands that
meet them, clause by clause. No test rests on a value the spec leaves open. -/

namespace Sys2Proof.Tests
open Sys2Proof.Machine
set_option Elab.async false

/-! ### Small states -/

/-- READY after a boot, nothing loaded. -/
def ready : State := { State.reset with sys := { Sys.reset with boot := none, ready := true } }

/-- A partition of cores 0 and 1 with 4 mapped pages, 16 tallies, 8 tills, bound to function 1. -/
def part0 : Part :=
  { allowLc := true, allowBe := true, lending := false, exact := 0, exactCores := [], gate := false, lendSegments := 0, tillFirst := 0, tillCount := 8, tallyFirst := 0,
    tallyCount := 16, functions := 2, owned := [0, 1], borrowed := [], ld := [], pl := [], le := [], purseHbm := 0, purseLink := 0,
    purseIod := 0, vlans := [], allot := [5, 6, 7, 8], mapped := [(0, true), (1, true), (2, true), (3, true)], mapping := [],
    unmapping := [], destroying := none }

def withPart (q : Part) (s : State) : State := { s with work := { s.work with parts := [(0, q)] } }

/-- An instance on core 0 in an epoch of plan 0 with these steps, its first binding a free tally. -/
def inst0 (steps : List Nat) : Inst :=
  { core := 0, stations := [(0, 0)], vecProg := [], sigProg := [], sigX := [], sigY := [], opfile := [],
    plans := [steps.map (BitVec.ofNat 128)], binds := [⟨3, 2, 0, 0, [1], 1⟩], rings := [], pageLists := 0, segments := 1, transl := [0],
    sched := [], castSets := [], privates := [], constants := [], windows := [], phase := .running, plan := 0, epoch := 0, step := 0,
    issued := [], due := 0, late := false, minted := [], waitSince := 0, yieldSince := 0, saved := [] }

def run0 : Invocation :=
  { ending := false, use := [0, 0, 0, 0, 0, 0], accepted := 0, unbegun := [], number := 1, ticket := none, stops := [], last := none,
    start := 0, sels := [], rulePlans := [], ruleNext := 0, ruleBase := 0, matSat := 0, vecSat := 0, gatherRange := 0, sigLimit := 0,
    mints := [], digests := [], ingests := [] }

def job0 (i : Inst) : Job :=
  { part := 0, pool := none, service := none, owner := .fn 1, kind := .host, bestEffort := false, image := [], insts := [i], digest := 0,
    tallies := [(3, 2, 0)], groups := [], groupTag := 0, tills := [], windows := [], recordAddr := 0, recordPages := 1, saveAddr := 0,
    savePages := 0, plan0 := 0, invocations := 1, run := some run0, selectors := [], digestHead := 0, rebase := false, coreMask := 1,
    lostCore := 0 }

/-- Core 0 with its first segment ON, running job 1. -/
def core0 : CoreCtl := { CoreCtl.reset with power := .on :: List.replicate 11 .off, run := some 1, resident := 1 }

/-- Job 1 of partition 0 runs on core 0. -/
def busy (j : Job) : State :=
  let s := withPart part0 ready
  { s with work := { s.work with jobs := [(1, j)], cores := [(0, core0)], nextJob := 2 } }

def steps (l : List Nat) : State := busy (job0 (inst0 l))

/-- Whether an answer is there and meets a test. -/
def meets {α : Type} (o : Option α) (p : α → Bool) : Bool := o.elim false p

/-- Bytes with fields of given offset, width and value, low byte first; the rest 0. -/
def layout (n : Nat) (fs : List (Nat × Nat × Nat)) : List Byte :=
  (List.range n).map fun k => match fs.find? fun f => f.1 ≤ k && k < f.1 + f.2.1 with
    | some f => BitVec.ofNat 8 (f.2.2 >>> (8 * (k - f.1)))
    | none => 0

/-! ### Commands -/

/-- A state in which PF0, function 1 and management hold sessions of version 2.6. -/
def hosted (s : State) : State :=
  let k := { Fn.reset with session := some (2, 6) }
  { s with host := { s.host with fns := [(0, k), (1, k)], mgmtSession := some (2, 6), chip := { s.host.chip with vfEnable := true, numVFs := 4 } } }

/-- A message of PF0 in its command till, with fields of the message at their offsets. -/
def cmd (len : Nat) (fs : List (Nat × Nat × Nat)) : Msg :=
  { src := .fn 0, till := some 0, flags := 0, seq := 0, reply := 0, tag := 7, body := (layout len fs).drop 16 }

/-- Whether a message is carried out, as Carried says. -/
def carries (s : State) (op since len : Nat) (m : Msg) : Bool :=
  let t := takenState s op m
  let c := takenCmd s op m
  mayTake s m && decide (16 + m.body.length = len) && (replyTill s m).2 &&
    (fromClient m.src || decide (op = 0) || ((sessionOf t m.src).isSome && decide (since ≤ c.ver))) &&
    (!s.power.flowStopped || !needsIslands op) && c.flagsOk && lifeOk t op && recoveryOk t op

theorem carried_of_carries {s : State} {op since len : Nat} {m : Msg} (h : carries s op since len m = true) :
    Carried s op since len m (takenState s op m) (takenCmd s op m) := by
  simp only [carries, Bool.and_eq_true, Bool.or_eq_true, decide_eq_true_eq, Bool.not_eq_true'] at h
  obtain ⟨⟨⟨⟨⟨⟨⟨h1, h2⟩, h3⟩, h4⟩, h5⟩, h6⟩, h7⟩, h8⟩ := h
  refine ⟨rfl, rfl, h1, h2, h3, ?_, fun hf => ?_, h6, h7, h8⟩
  · rcases h4 with (h | h) | h
    · exact .inl h
    · exact .inr (.inl h)
    · exact .inr (.inr h)
  · rcases h5 with h | h
    · rw [hf] at h; cases h
    · exact h

/-- The partition's command state, with every command's hypotheses on its fields tested by p. -/
def fits (s : State) (op since len : Nat) (m : Msg) (p : State → Ctx → Bool) : Bool :=
  carries s op since len m && p (takenState s op m) (takenCmd s op m)

/-- NamesPart for partition 0. -/
def names (t : State) (c : Ctx) : Bool :=
  decide (c.f 0x10 1 ≤ 7) && c.zero 0x11 0x14 && (getPart t (c.f 0x10 1)).isSome && hostOf t c.m.src (c.f 0x10 1)

/-! ### The queue and the sequencers -/

theorem witness_StepRunsTheFrontCommand : ({ ready with pending := [.thermtrip] } : State).pending = .thermtrip :: [] := rfl

theorem witness_IdleStepAdvancesTime : ready.pending = [] ∧ ready.sys.clocks = true ∧ ready.net.timing.rate = 0 ∧ ready.net.timing.frac = 0 ∧
    ready.rel.tests = [] ∧ timeSubNs ready + 1 < 1000000000 ∧ ready.net.timing.time.toNat % 65536 = 0 := by decide +kernel

theorem witness_StepsThatTakeNoTime : (∀ op ∈ [0, 8, 11], meets (issuing (steps [op]) 0 op) (fun e => !stPostEn e.2) = true) ∧
    meets (issuing (steps [9]) 0 9) (fun e => !stPostEn e.2 && !e.1.job.bestEffort) = true := by decide +kernel

theorem witness_PostAddsToItsTally : meets (issuing (steps [8 + 2 ^ 30 + 7 * 2 ^ 64]) 0 8) (fun e => stPostEn e.2 &&
    meets (e.1.inst.bind (stPostBind e.2)) fun b => b.kind ≠ 0 && decide ((getTally (steps []) (tallyOf (steps []) 0 b.tally)).value.toNat + stPostAdd e.2 < 2 ^ 64)) = true := by
  decide +kernel

/-- One HBM write entry of one granule: stream 0, KIND 1, translation entry 0, page 0. -/
def moverState (op : Nat) : State := busy (job0 { inst0 [op] with sched := [(0, [BitVec.ofNat 128 (1 * 2 ^ 28)])] })

theorem witness_UnitStepsAreIssued : meets (issuing (steps [3 + 2 * 2 ^ 112]) 0 3) (fun e => !e.1.inst.issued.any fun y => y.unit = .vector) = true ∧
    meets (issuing (steps [4]) 0 4) (fun e => !e.1.inst.issued.any fun y => y.unit = .signal) = true ∧
    (issuing (steps [2]) 0 2).isSome = true ∧ (issuing (steps [1]) 0 1).isSome = true ∧
    ∀ op ∈ [5, 6], meets (issuing (moverState op) 0 op) (fun e => decide (∃ ts ∈ [[({ job := 1, step := 0, plan := 0, kind := 1, stream := 0, near := [0], far := [0], cores := [], pages := [0], data := List.replicate 64 0 } : Txn)]],
      (e.1.inst.entries 0 0).map (fun x => makeTxn (moverState op) 0 e.1 part0 0 x) = ts.map Sum.inl)) = true := by
  decide +kernel

theorem witness_MintAndDigestSteps : meets (issuing (steps [7]) 0 7) (fun e => !e.1.inst.issued.any fun y => y.unit = .vector) = true ∧
    meets (issuing (busy (job0 { inst0 [7] with issued := [⟨.vector, 3, 0, 0⟩] })) 0 7) (fun e => e.1.inst.issued.any fun y => y.unit = .vector) = true ∧
    (issuing (steps [10]) 0 10).isSome = true := by decide +kernel

theorem witness_StepsCompleteAndEpochsTurn :
    (let s := busy (job0 { inst0 [] with issued := [⟨.array 0, 1, 0, 0⟩] })
     meets (cur s 0) (fun u => u.inst.phase = .running && u.inst.windows = [] && meets (u.inst.issued.find? fun z => z.unit = .array 0) fun x =>
       unitDone s 0 x && !(dropFirst (.array 0) u.inst.issued).any (fun z => z.unit = .array 0) && !stPostEn x.word) = true) ∧
    meets (issuing (steps [12]) 0 12) (fun e => !stPostEn e.2 && e.1.run.last = none && e.1.job.kind = .host && e.1.job.service = none) = true ∧
    (steps [12]).services = [] ∧
    (let s := busy (job0 { inst0 [12] with phase := .between })
     meets (cur s 0) (fun u => mayBegin s 0 u = some 0 && u.job.kind = .host && u.job.service = none) = true) := by decide +kernel

/-- An image of 2 epochs without plan rules, and one with a RULES record: selector 0, TALLIES record 0, LEAD 1, one range to plan 1. -/
def image2 : List Byte := layout 64 [(0x14, 4, 2)]
def imageRules : List Byte := layout 192 [(0x0C, 2, 1), (0x0E, 2, 2), (0x40, 2, 0x0E), (0x42, 2, 80), (0x44, 4, 1), (0x48, 4, 0x50), (0x4C, 4, 80),
  (0x54, 1, 1), (0x55, 1, 1), (0x60, 4, 9), (0x64, 1, 1)]

theorem witness_InvocationsEndAndStall :
    (let s := busy { job0 { inst0 [] with epoch := 2, phase := .ended } with image := image2 }
     meets ((getJob s 1).bind Job.run) (fun r => r.last = none) = true ∧ runComplete s 1 = true) ∧
    (let s := busy { job0 (inst0 []) with image := imageRules }
     meets (getJob s 1) (fun j => meets j.run (fun r => j.rules && !r.ending && j.kind = .host &&
       meets (j.tallyOfRecord (j.ruleField 2 2)) fun t => decide (j.ruleDue r ≤ ((getTally s (tallyOf s j.part t)).value.toNat : Int)))) = true) ∧
    (let s := busy (job0 { inst0 [2 ^ 24 + 5 * 2 ^ 40] with binds := [⟨3, 0, 0, 0, [1], 1⟩] })
     meets (nextStep s 0) (fun e => meets (e.1.inst.bind (stWaitBind e.2)) fun b => !waitMet s 0 e.1 e.2 && b.kind ≠ 2) = true) ∧
    (let s := busy { job0 (inst0 [2 ^ 24 + 5 * 2 ^ 40]) with groups := [(0, 3, false)] }
     meets (nextStep s 0) (fun e => meets (e.1.inst.bind (stWaitBind e.2)) fun b => !waitMet s 0 e.1 e.2 && b.kind = 2 &&
       e.1.job.groups.any fun g => g.2.1 = b.tally) = true) := by decide +kernel

theorem witness_JobsStandBetweenInvocations : (getJob (steps []) 1).isSome = true ∧ (job0 (inst0 [])).run = some run0 := by decide +kernel

/-! ### Vector engines and signal units -/

/-- Core 0 runs job 1 and its vector engine stands at the instruction w. -/
def vecState (w : Nat) : State :=
  { steps [] with engines := [(0, { Engines.reset with vec := { VecUnit.reset with prog := [(0, BitVec.ofNat 64 w)], active := true, stop := 1 } })] }

theorem witness_VectorLaneOperationsWriteLanes :
    (∀ op ∈ ((vecArithRows 0 0).map fun r => r.2.1) ++ ((vecBitRows 0 0).map fun r => r.2.1) ++ ((vecFunctionRows 0).map fun r => r.2),
      vecAt (vecState op) 0 op = some op) ∧
    ((vecArithRows 0 0).map fun r => r.2.1) = [1, 2, 3, 4, 5, 6, 7, 8, 0xB] ∧
    ((vecBitRows 0 0).map fun r => r.2.1) = [9, 0xD, 0xE, 0xF, 0x10, 0x11, 0x12] := by decide +kernel

theorem witness_VectorComplexWritesElements :
    ((vecComplexRows 0).map fun r => r.2.1) = [0x40, 0x41, 0x42, 0x43, 0x44, 0x45] ∧
    ∀ op ∈ (vecComplexRows 0).map fun r => r.2.1, vecAt (vecState op) 0 op = some op := by decide +kernel

theorem witness_VectorReductionsAndPermutations : ∀ op ∈ [0x20, 0x21, 0x22, 0x23, 0x58, 0x59, 0x5A, 0x5B, 0x5C],
    vecAt (vecState op) 0 op = some op := by decide +kernel

theorem witness_VectorSelectAndConvert : vecAt (vecState 0x0A) 0 0x0A = some 0x0A ∧ vecAt (vecState 0x50) 0 0x50 = some 0x50 := by decide +kernel

theorem witness_VectorMasksAreWritten : ∀ op ∈ [0x0C, 0x18, 0x19, 0x1A], vecAt (vecState (op + 256)) 0 op = some (op + 256) ∧
    vVD (op + 256) % 8 ≠ 0 := by decide +kernel

theorem witness_VectorMemoryMovesRegisters : (running (vecState 0) 0).isSome = true ∧ (isMx (vFmt 0x60) = false) ∧
    isMx (vFmt (0x60 + 5 * 2 ^ 32)) = true ∧
    ∀ w ∈ [0x60, 0x60 + 5 * 2 ^ 32, 0x61, 0x62, 0x63, 0x64], vecAt (vecState w) 0 (w % 256) = some w := by decide +kernel

theorem witness_VectorControlMovesTheEngine : (∀ w ∈ [0x00, 0x70, 0x71 + 256, 0x72 + 256], vecAt (vecState w) 0 (w % 256) = some w) ∧
    vPn (0x71 + 256) ≠ 0 ∧
    (let s := { steps [] with engines := [(0, { Engines.reset with vec := { VecUnit.reset with active := true, pc := 1, stop := 2, loops := [⟨0, 0, 0⟩] } })] }
     coreRuns s 0 = true ∧ (getEng s 0).vec.active = true ∧ loopOver (getEng s 0).vec = true) := by decide +kernel

/-- Core 0 runs job 1 and its signal unit stands at the word w. -/
def sigState (w : Nat) (f : SigUnit → SigUnit) : State :=
  { steps [] with engines := [(0, { Engines.reset with sig := f { SigUnit.reset with prog := [(0, BitVec.ofNat 48 w)], running := true } })] }

/-- The word of an ALU form, and of a control form. -/
def aluWord (op : Nat) : Nat := op * 2 ^ 41
def ctlWord (op : Nat) : Nat := 2 ^ 47 + op * 2 ^ 40

theorem witness_SignalConditionFalseWritesNothing : ∀ op ∈ (sigAluRows 0).map fun r => r.2,
    (let w := aluWord op + 1 * 2 ^ 29
     let s := sigState w id
     sigWord s 0 = some w ∧ bit w 47 = false ∧ sAluOp w = op ∧ condHolds (getEng s 0).sig.csw (sCond w) = false) := by decide +kernel

theorem witness_SignalAccumulatorOperations :
    (∀ op ∈ ((sigAccRows 0 0 SigUnit.reset).map fun r => r.2.1) ++ (sigMulRows 0 0 SigUnit.reset).map fun r => r.2.1,
      sigWord (sigState (aluWord op) id) 0 = some (aluWord op) ∧ bit (aluWord op) 47 = false ∧ sAluOp (aluWord op) = op ∧
        condHolds (getEng (sigState (aluWord op) id) 0).sig.csw (sCond (aluWord op)) = true) := by decide +kernel

theorem witness_SignalComparesAndLogic : ∀ op ∈ [0x04, 0x05, 0x18, 0x19, 0x1A],
    (let s := sigState (aluWord op) id
     sigWord s 0 = some (aluWord op) ∧ sAluOp (aluWord op) = op ∧ condHolds (getEng s 0).sig.csw (sCond (aluWord op)) = true ∧
       cswSat (getEng s 0).sig.csw = false ∧ (moveOf (getEng s 0).sig false (sXm (aluWord op))).loadsA 0 = false ∧
       (moveOf (getEng s 0).sig true (sYm (aluWord op))).loadsA 0 = false) := by decide +kernel

theorem witness_SignalDataResultsAndMoves : ∀ op ∈ [0x00, 0x20, 0x21, 0x22],
    (let s := sigState (aluWord op) id
     sigWord s 0 = some (aluWord op) ∧ sAluOp (aluWord op) = op ∧ condHolds (getEng s 0).sig.csw (sCond (aluWord op)) = true ∧
       (moveOf (getEng s 0).sig false (sXm (aluWord op))).loadsD 0 = false ∧ (moveOf (getEng s 0).sig true (sYm (aluWord op))).loadsD 0 = false) := by
  decide +kernel

theorem witness_SignalJumpsLoopsAndHalt :
    (∀ op ∈ [0x40, 0x41, 0x42, 0x44, 0x45], sigWord (sigState (ctlWord op) id) 0 = some (ctlWord op) ∧ bit (ctlWord op) 47 = true ∧
      bits (ctlWord op) 46 40 = op) ∧
    (let s := sigState (ctlWord 0x43) fun u => { u with stack := [.call 7] }
     sigWord s 0 = some (ctlWord 0x43) ∧ (getEng s 0).sig.stack = .call 7 :: []) ∧
    (let s := sigState 0 fun u => { u with pc := 1, stack := [.loop 0 0 0] }
     coreRuns s 0 = true ∧ (getEng s 0).sig.running = true ∧ (getEng s 0).sig.halted = false ∧ doOver (getEng s 0).sig = true) ∧
    (let s := sigState 0 fun u => { u with repeating := true }
     coreRuns s 0 = true ∧ (getEng s 0).sig.running = true ∧ (getEng s 0).sig.halted = false ∧ (getEng s 0).sig.repeating = true ∧
       (getEng s 0).sig.repeat_ = 0) ∧
    ∃ u : SigUnit, u.repeating = false ∧ u.branch = some (2, 9) := by
  refine ⟨by decide +kernel, by decide +kernel, by decide +kernel, by decide +kernel, { SigUnit.reset with branch := some (2, 9) }, rfl, rfl⟩

theorem witness_SignalLoadsAndTransfers :
    (∀ op ∈ [0x46, 0x47, 0x48, 0x49, 0x4A, 0x4B], sigWord (sigState (ctlWord op) id) 0 = some (ctlWord op) ∧ bit (ctlWord op) 47 = true ∧
      bits (ctlWord op) 46 40 = op) ∧
    meets (running (sigState (ctlWord 0x4A) id) 0) (fun e => !sigCq15 e.2.1 e.2.2 (bits (ctlWord 0x4A) 15 0)) = true ∧
    (let i : Inst := { inst0 [] with rings := [⟨0, 0, 16, 1, [0], 0, 0⟩] }
     let j : Job := { job0 i with image := layout 144 [(0x0C, 2, 2), (0x40, 2, 3), (0x44, 4, 1), (0x48, 4, 96), (0x50, 2, 2), (0x54, 4, 1), (0x58, 4, 128),
       (128, 1, 0x0F)] }
     let s := { sigState (ctlWord 0x4A) id with work := (busy j).work }
     meets (running s 0) (fun e => sigCq15 e.2.1 e.2.2 0) = true) := by decide +kernel

/-! ### Cores, memory, tallies, partitions -/

/-- A best-effort image, and the job of it that yields. -/
def yieldJob (i : Inst) : Job := { job0 i with image := layout 64 [(0x0E, 2, 1)], bestEffort := true }

theorem witness_CoresYieldAndReturn :
    (let s := busy (yieldJob (inst0 []))
     let s := updCore s 0 fun k => { k with yield := true }
     meets (cur s 0) (fun u => (getCore s 0).yield && u.job.bestEffort) = true) ∧
    (let s := busy (yieldJob { inst0 [] with phase := .saving })
     meets (cur s 0) (fun u => u.inst.phase = .saving && saveHole s u.job 0 (u.inst.saved.flatMap (·.2) ++ contextBytes u.inst).length = none) = true) ∧
    (let s := updCore (steps []) 0 fun k => { k with rinsing := [0] }
     (getCore s 0).rinsing ≠ [] ∧ coreRuns s 0 = true) ∧
    (let s := updCore (steps []) 0 fun k => { k with lentTo := some 0 }
     (getCore s 0).lentTo.isSome = true ∧ (getCore s 0).yield = false) ∧
    (let s := updCore (busy (yieldJob { inst0 [] with phase := .between })) 0 fun k => { k with run := none, ready := [1] }
     meets (nextReady s 0) (fun h => meets (getJob s h) fun j => meets (j.instOn 0) fun i => i.phase ≠ .saved) = true) ∧
    (let s := updCore (steps []) 0 fun k => { k with power := [.retain] }
     segInUse s 0 0 = true ∧ (getCore s 0).power[0]? = some .retain) ∧
    (let s := updCore (steps []) 0 fun k => { k with power := [.off] }
     segInUse s 0 0 = true ∧ (getCore s 0).power[0]? = some .off) := by decide +kernel

def txn (kind : Nat) : Txn :=
  { job := 1, step := 0, plan := 0, kind := kind, stream := 0, near := [0], far := [64], cores := [1], pages := [0], data := List.replicate 64 7 }

theorem witness_TransactionsLand : ∀ kind ∈ [0, 1, 2, 3], (let s := updCore (steps []) 0 fun k => { k with txns := [txn kind] }
    (getCore s 0).txns[0]? = some (txn kind) ∧ coreRuns s 0 = true ∧ (getJob s 1).isSome = true ∧ Tbl.find s.work.parts 0 = some part0 ∧
      (txn kind).far ≠ []) := by decide +kernel

def hostPart : State := hosted (withPart part0 ready)

theorem witness_TallyCommands :
    fits hostPart 0x0400 0x100 32 (cmd 32 [(0x14, 4, 15), (0x18, 8, 2 ^ 32 - 1)]) (fun t c => names t c && decide (c.f 0x14 4 < part0.tallyCount) &&
      decide (1 ≤ c.f 0x18 8 ∧ c.f 0x18 8 < 2 ^ 32) && !boundStream t 0 15 && !boundGroup t 0 15 &&
      decide ((getTally t (tallyOf t 0 15)).value.toNat + c.f 0x18 8 < 2 ^ 64)) = true ∧
    fits hostPart 0x0401 0x100 24 (cmd 24 []) (fun t c => names t c && decide (c.f 0x14 4 < part0.tallyCount)) = true ∧
    fits hostPart 0x0402 0x100 40 (cmd 40 [(0x20, 4, 60000000)]) (fun t c => names t c && decide (c.f 0x20 4 ≤ 60000000) && c.zero 0x24 0x28 &&
      decide (c.f 0x18 8 ≤ (getTally t (tallyOf t 0 0)).value.toNat)) = true ∧
    fits hostPart 0x0402 0x100 40 (cmd 40 [(0x18, 8, 1)]) (fun t c => names t c && c.zero 0x24 0x28 &&
      decide ((getTally t (tallyOf t 0 0)).value.toNat < c.f 0x18 8) && decide (t.work.monitors.length < 1024) &&
      decide ((t.work.monitors.filter fun x => x.src = c.m.src).length < 64)) = true ∧
    fits hostPart 0x0403 0x106 32 (cmd 32 [(0x18, 8, 4 * 2097152 - 64)]) (fun t c => names t c && c.f 0x18 8 % 64 = 0 && part0.holds (c.f 0x18 8) 64) = true := by
  decide +kernel

theorem witness_MonitorsAndVisibility :
    (let s := updWork hostPart fun w => { w with monitors := [⟨1, 0, 0, 1, 5, 0, .fn 0⟩] }
     ∃ x ∈ s.work.monitors, x.timeout ≠ 0) ∧
    (let s := updTally hostPart 3 fun t => { t with value := 2, recent := [⟨2, 0, 0⟩] }
     (getTally s 3).barrier = none ∧ (getTally s 3).recent = [⟨2, 0, 0⟩]) ∧
    (let s := updTally (updTiming hostPart fun t => { t with time := mkTime 1000000 0 }) 3 fun t =>
       { t with value := 2, barrier := some 1, recent := [⟨2, 0, 0⟩] }
     meets (releaseTime (getTally s 3)) (fun a => (getTally s 3).barrier = some 1 && decide (a ≤ nowNs s)) = true) ∧
    (let s := updRelne (busy { job0 (inst0 []) with groups := [(0, 3, false)], groupTag := 9, tallies := [(3, 2, 0)] }) fun r =>
       { r with ports := { RelnePort.down with up := true } :: List.replicate 3 RelnePort.down, members := 2 }
     linkCarries s 0 = true ∧ meets (taggedJob s 0 9) (fun e => meets (e.2.groups.find? fun g => g.1 = 0) fun g => !g.2.2 &&
       decide ((getTally s (tallyOf s 0 g.2.1)).value.toNat + 1 < 2 ^ 64)) = true) ∧
    (let s := busy { job0 { inst0 [] with epoch := 1 } with image := image2 }
     meets (getJob s 1) (fun j => stationDone j 0 0) = true) := by decide +kernel

theorem witness_PagesMapAndUnmap :
    (let s := hosted (withPart { part0 with mapped := [] } ready)
     fits s 0x0200 0x100 32 (cmd 32 [(0x14, 4, 3), (0x18, 4, 1)]) (fun t c => names t c && c.zero 0x1C 0x20 &&
       meets (getPart t 0) fun q => q.mappedIn 3 1 = 0 && !(q.mapping.any fun r => rangesMeet r.first r.count 3 1) && decide (3 + 1 ≤ q.allot.length)) = true) ∧
    fits hostPart 0x0201 0x100 32 (cmd 32 [(0x18, 4, 4)]) (fun t c => names t c && c.zero 0x1C 0x20 &&
       meets (getPart t 0) fun q => q.mappedIn 0 4 = 4 && decide (0 + 4 ≤ q.allot.length)) = true ∧
    fits hostPart 0x0202 0x100 32 (cmd 32 [(0x18, 4, 4)]) (fun t c => names t c && c.zero 0x1C 0x20) = true ∧
    (let s := withPart { part0 with mapped := [], mapping := [⟨1, 2, 5, 0⟩] } ready
     meets (getPart s 0) (fun q => q.mapping.find? (fun x => x.first = 1) = some ⟨1, 2, 5, 0⟩ && !q.unmapping.any fun u => rangesMeet u.first u.count 1 2) = true) ∧
    (let s := withPart { part0 with unmapping := [⟨1, 2, 5, 0⟩] } ready
     meets (getPart s 0) (fun q => q.unmapping.find? (fun x => x.first = 1) = some ⟨1, 2, 5, 0⟩ && !txnsTouch s 0 1 2) = true) := by decide +kernel

theorem witness_PartitionsAreMadeAndUnmade :
    (let m := cmd 96 [(0x10, 1, 7), (0x11, 1, 1), (0x14, 2, 64), (0x16, 2, 16), (0x18, 4, 8), (0x1C, 4, 4), (0x20, 8, 1)]
     fits (hosted ready) 0x0100 0x100 96 m (fun t c => isRoot m.src && partFieldsOk c && Tbl.find t.work.parts (c.f 0x10 1) = none && partResources t c = none) = true) ∧
    fits hostPart 0x0101 0x100 24 (cmd 24 []) (fun t c => isRoot c.m.src && c.zero 0x11 0x18 && meets (getPart t 0) fun q => !partBusy t 0 q) = true ∧
    fits hostPart 0x0102 0x100 24 (cmd 24 [(0x11, 1, 31)]) (fun t c => c.zero 0x13 0x18 && decide (c.f 0x11 1 ≤ 31) && c.f 0x12 1 = 0 && boundTo t 31 = none) = true ∧
    fits hostPart 0x0102 0x100 24 (cmd 24 [(0x11, 1, 1), (0x12, 1, 1)]) (fun t c => c.zero 0x13 0x18 && c.f 0x12 1 = 1 && boundTo t 1 = some 0 &&
      decide (∀ e ∈ t.work.jobs, ∀ f : Fin 32, e.2.owner = .fn f → f.val ≠ 1)) = true ∧
    fits hostPart 0x0103 0x100 24 (cmd 24 []) (fun t c => c.zero 0x11 0x18 && (getPart t 0).isSome && hostOf t c.m.src 0) = true ∧
    (let s := withPart { part0 with destroying := some 3 } ready
     meets (Tbl.find s.work.parts 0) (fun q => q.destroying = some 3 && !q.owned.any fun c => (getCore s c).rinsing ≠ []) = true) := by decide +kernel

theorem witness_LedgersAreReadAndCleared :
    fits hostPart 0x0500 0x100 32 (cmd 32 [(0x11, 1, 1), (0x14, 4, 8193)]) (fun t c => c.zero 0x12 0x14 && hostOf t c.m.src 0 && decide (c.f 0x11 1 < 2) &&
      decide (1 ≤ c.f 0x14 4 ∧ c.f 0x14 4 ≤ 8193) && c.f 0x18 8 % 64 = 0 && part0.holds (c.f 0x18 8) (128 * ((ledgerOf t 0).take (c.f 0x14 4)).length)) = true ∧
    fits hostPart 0x0501 0x100 24 (cmd 24 []) (fun t c => c.zero 0x11 0x18 && (getPart t 0).isSome && hostOf t c.m.src 0) = true := by decide +kernel

/-! ### Jobs, sessions, tills, caps -/

/-- A minimal job image: one station of two cores' group, one tile, one stream, one NOP step in plan 0 (02 R47-R56), and its CRC-64. -/
def imageFields : List (Nat × Nat × Nat) :=
  [(0, 4, 0x4D494A43), (4, 2, 3), (8, 4, 512), (0x0C, 2, 5)] ++
    ([(1, 32), (2, 16), (3, 32), (4, 16), (5, 16)].zipIdx.flatMap fun e => [(0x40 + 16 * e.2, 2, e.1.1), (0x42 + 16 * e.2, 2, e.1.2),
      (0x44 + 16 * e.2, 4, 1), (0x48 + 16 * e.2, 4, 0xC0 + 64 * e.2), (0x4C + 16 * e.2, 4, e.1.2)]) ++
    [(0xC0, 1, 2), (0xC1, 1, 1), (0xC2, 2, 1), (0xC4, 2, 1), (0xCC, 4, 0xFFFFFFFF), (0xD4, 4, 0xFFFFFFFF), (0x101, 1, 1), (0x102, 2, 1),
      (0x104, 2, 1), (0x106, 2, 1), (0x148, 2, 1), (0x150, 2, 0xFFFF), (0x152, 2, 0xFFFF), (0x1C8, 4, 1)]

def image1 : List Byte := layout 512 (imageFields ++ [(0x38, 8, 16670729126018284878)])

/-- The image at the start of partition 0, whose first page is physical page 5. -/
def imageState : State := updWork hostPart fun w => { w with hbm := ((image1.zipIdx).map fun e => (5 * 2097152 + e.2, e.1)).filter fun e => e.2 ≠ 0 }

set_option maxRecDepth 40000 in
theorem witness_imageIsRead : readImage imageState 0 0 512 = image1 := by decide +kernel

set_option maxRecDepth 40000 in
theorem witness_imageIsSound : checkImage image1 512 (2, 6) part0 = none := by decide +kernel

theorem witness_JobCommandsLoadAndStart :
    (let m := cmd 64 [(0x14, 4, 512), (0x28, 4, 1)]
     fits imageState 0x0300 0x100 64 m (fun t c => names t c && c.f 0x18 8 % 64 = 0 && c.f 0x20 8 % pageBytes = 0 && decide (1 ≤ c.f 0x28 4 ∧ c.f 0x28 4 ≤ 64) &&
       c.f 0x30 8 % pageBytes = 0 && c.f 0x2C 4 = 0 && c.f 0x30 8 = 0 && part0.holds (c.f 0x18 8) (c.f 0x14 4) &&
       part0.holds (c.f 0x20 8) (c.f 0x28 4 * pageBytes) && decide (c.f 0x38 8 < 2 ^ part0.cores.length) && decide (loadedCount t < 256) &&
       !imgBestEffort image1 && coresFree t 0 part0 (c.f 0x38 8) = none) = true) ∧
    (let s := hosted (busy { job0 (inst0 []) with run := none })
     fits s 0x0301 0x100 24 (cmd 24 [(0x10, 4, 1)]) (fun t c => c.zero 0x14 0x18 && !(t.work.loading.any fun l => l.handle = c.f 0x10 4) && isRoot c.m.src &&
       meets (getJob t (c.f 0x10 4)) fun j => j.kind = .host && j.service = none && j.run = none && j.lostCore = 0) = true) ∧
    (let l : Loading := { ticket := 4, job := newJob 0 (.fn 0) .host image1 0 1 0 0 0, refusal := none, handle := 0, floor := [] }
     let s := updWork hostPart fun w => { w with loading := [l] }
     s.work.loading.find? (fun x => x.ticket = l.ticket ∧ x.handle = 0) = some l) := by decide +kernel

/-- What the firmware release chooses for image1: its station on core 0, its stream's buffer at granule 0. -/
def pick1 : Choice :=
  { homes := [(0, 0, 0)], rings := [(0, 0, 0, 0)], privates := [], tallies := [], weave := [], delays := [], slack := [], windows := [], paged := []
    pageLists := [] }

def load1 : Job := newJob 0 (.fn 0) .host image1 0 1 0 0 0

/-- Whether a placement accepts and meets a test. -/
def accepted (p : Placing) (f : Placed → Bool) : Bool :=
  match p with
  | .accepted x => f x
  | .refused _ _ _ _ => false

theorem placeFully_accepted_and {s : State} {h : Nat} {j : Job} {q : Part} {f : Placed → Bool} (hq : getPart s j.part = some q)
    (hp : accepted (placing j.image (placeInput s h q j) (Config.place (placeInput s h q j))) (fun p => decide (check12 q (j.withPlacement p) = none) && f p) = true) :
    ∃ p, placeFully s h j = .inl (j.withPlacement p) ∧ f p = true := by
  unfold placeFully placeJob
  rw [hq]
  dsimp only
  split <;> rename_i e <;> rw [e] at hp
  · cases hp
  · rename_i p
    simp only [accepted, Bool.and_eq_true, decide_eq_true_eq] at hp
    have hq' : getPart s (j.withPlacement p).part = some q := hq
    refine ⟨p, by simp [hq', hp.1], hp.2⟩

theorem placeFully_accepted {s : State} {h : Nat} {j : Job} {q : Part} (hq : getPart s j.part = some q)
    (hp : accepted (placing j.image (placeInput s h q j) (Config.place (placeInput s h q j))) (fun p => check12 q (j.withPlacement p) = none) = true) :
    ∃ p, placeFully s h j = .inl (j.withPlacement p) := by
  obtain ⟨p, e, -⟩ := placeFully_accepted_and (f := fun _ => true) hq (by simpa using hp)
  exact ⟨p, e⟩

set_option maxRecDepth 40000 in
theorem witness_placing : accepted (placing load1.image (placeInput imageState 0 part0 load1) pick1) (fun p =>
    p.insts.map (fun i => i.core) = [0] && check12 part0 (load1.withPlacement p) = none) = true := by decide +kernel

theorem accepted_mono {p : Placing} {f g : Placed → Bool} (h : accepted p f = true) (fg : ∀ x, f x = true → g x = true) :
    accepted p g = true := by
  cases p with
  | refused => exact h
  | accepted x => exact fg x h

/-- The release's choices are not given: if it makes these, the image is placed; a job of a partition that is gone is refused. -/
theorem witness_placed (h : ∀ x, Config.place x = pick1) :
    (∃ p, placeFully imageState 0 load1 = .inl (load1.withPlacement p)) ∧ ∃ d, placeFully ready 0 load1 = .inr d := by
  refine ⟨placeFully_accepted (q := part0) (by decide +kernel) ?_, ⟨_, rfl⟩⟩
  rw [h]
  exact accepted_mono witness_placing fun _ e => (Bool.and_eq_true_iff.mp e).2

theorem witness_JobCommandsStopAndAsk :
    (let s := hosted (busy (job0 (inst0 [])))
     fits s 0x0302 0x100 24 (cmd 24 [(0x10, 4, 1), (0x14, 1, 1)]) (fun t c => c.f 0x14 1 = 1 && c.zero 0x15 0x18 && isRoot c.m.src &&
       !(t.work.loading.any fun l => l.handle = c.f 0x10 4) && meets (getJob t (c.f 0x10 4)) fun j => j.kind = .host && j.lostCore = 0 && j.run.isSome) = true ∧
     fits s 0x0302 0x100 24 (cmd 24 [(0x10, 4, 1)]) (fun t c => c.f 0x14 1 = 0 && c.zero 0x15 0x18 &&
       meets (getJob t (c.f 0x10 4)) fun j => j.kind = .host && j.lostCore = 0 && meets j.run fun r => !r.ending) = true ∧
     fits s 0x0304 0x100 24 (cmd 24 [(0x10, 4, 1), (0x14, 1, 7)]) (fun t c => decide (c.f 0x14 1 ≤ 7) && c.zero 0x15 0x18 &&
       (getJob t (c.f 0x10 4)).isSome) = true ∧
     fits s 0x0305 0x100 24 (cmd 24 [(0x10, 4, 1)]) (fun t c => c.zero 0x14 0x18 && (getJob t (c.f 0x10 4)).isSome) = true) ∧
    (let j : Job := { job0 (inst0 []) with run := none, image := image1 }
     let s := hosted (busy j)
     fits s 0x0302 0x100 24 (cmd 24 [(0x10, 4, 1)]) (fun t c => c.zero 0x15 0x18 && meets (getJob t (c.f 0x10 4)) fun j => j.kind = .host && j.run = none) = true ∧
     fits s 0x0303 0x100 24 (cmd 24 [(0x10, 4, 1)]) (fun t c => c.zero 0x14 0x18 && meets (getJob t (c.f 0x10 4)) fun j => j.kind = .host && j.run = none &&
       j.service = none) = true ∧
     fits s 0x0304 0x100 24 (cmd 24 [(0x10, 4, 1)]) (fun t c => decide (c.f 0x14 1 ≤ 7) && c.zero 0x15 0x18 && meets (getJob t (c.f 0x10 4)) fun j =>
       j.kind = .host && !j.rules && j.lostCore = 0 && j.hasPlan (c.f 0x14 1) && j.run = none) = true ∧
     fits (hosted (busy { j with run := some run0 })) 0x0304 0x100 24 (cmd 24 [(0x10, 4, 1)]) (fun t c => meets (getJob t (c.f 0x10 4)) fun j =>
       !j.rules && j.hasPlan (c.f 0x14 1) && meets j.run fun r => r.sels.all fun p => p.effect ≠ j.begunEpochs) = true) := by decide +kernel

theorem witness_TimeQueryAnswersDeviceTime : fits hostPart 0x0700 0x100 16 (cmd 16 []) (fun _ _ => true) = true := by decide +kernel

theorem witness_SessionsAndTills :
    fits (withPart part0 ready) 0x0000 0 32 (cmd 32 [(0x10, 4, 0x10600), (0x14, 4, 0x10300)]) (fun t c => decide (c.f 0x10 4 < 2 ^ 17 ∧ c.f 0x14 4 < 2 ^ 17) &&
      c.zero 0x1C 0x20 && sessionOf t c.m.src = none && !offerBad (c.f 0x10 4) && !offerBad (c.f 0x14 4) && offerOverlap (c.f 0x14 4) 2 = some 3) = true ∧
    fits hostPart 0x0001 0x100 16 (cmd 16 []) (fun _ _ => true) = true ∧
    fits hostPart 0x0002 0x100 48 (cmd 48 [(0x10, 2, 7), (0x12, 1, 1)]) (fun t c => c.zero 0x1D 0x20 && c.zero 0x28 0x30 && decide (c.f 0x10 2 < part0.tillCount) &&
      c.f 0x12 1 = 1 && !((getTill t (partTill 0 7)).kind = 4 && tillServed t 0 7)) = true ∧
    fits hostPart 0x0002 0x100 48 (cmd 48 [(0x10, 2, 7), (0x13, 1, 3), (0x14, 1, 6), (0x16, 2, 0x3FF)]) (fun t c => c.zero 0x1D 0x20 && c.zero 0x28 0x30 &&
      tillFieldsOk c && c.f 0x12 1 = 0 && c.f 0x13 1 ≠ 0 && (getTill t (partTill 0 7)).state ≠ .running && c.f 0x16 2 = 0x3FF &&
      (freeSlots t (partTill 0 7) (64 * 2 ^ c.f 0x14 1)).isSome) = true ∧
    (let s := updTill hostPart 2 fun t => { t with state := .error }
     fits s 0x0003 0x100 24 (cmd 24 [(0x10, 2, 0xFFFE)]) (fun t c => decide (0xFFFD ≤ c.f 0x10 2) && c.zero 0x12 0x18 && resetTarget t c.m.src (c.f 0x10 2) = some 2 &&
       (getTill t 2).state = .error) = true) := by decide +kernel

theorem witness_CapsAreOrderedAndAsked :
    (∀ mw ∈ [200000, 520000], fits hostPart 0x0600 0x100 24 (cmd 24 [(0x14, 4, mw)]) (fun t c => c.zero 0x12 0x14 && capAllowed t c.m.src && c.f 0x10 1 = 0 &&
      isRoot c.m.src && decide (200000 ≤ c.f 0x14 4 ∧ c.f 0x14 4 ≤ 520000)) = true) ∧
    (∀ mw ∈ [0, 10000, 450000], fits hostPart 0x0600 0x100 24 (cmd 24 [(0x10, 1, 1), (0x14, 4, mw)]) (fun t c => c.zero 0x12 0x14 && capAllowed t c.m.src &&
      c.f 0x10 1 = 1 && decide (0x203 ≤ c.ver) && (getPart t 0).isSome && hostOf t c.m.src 0 &&
      decide (c.f 0x14 4 = 0 ∨ (10000 ≤ c.f 0x14 4 ∧ c.f 0x14 4 ≤ t.power.capDevice.toNat))) = true) ∧
    (∀ scope ∈ [0, 1], fits hostPart 0x0601 0x100 24 (cmd 24 [(0x10, 1, scope)]) (fun t c => c.zero 0x12 0x14 && c.zero 0x14 0x18 && decide (0x203 ≤ c.ver) &&
      (getPart t 0).isSome) = true) := by decide +kernel

/-! ### The host interface -/

theorem witness_DoorbellsMoveTills :
    served ready 0 = true ∧ (getFn ready 0).dbEnable = false ∧
    (let s := updFn ready 0 fun k => { k with dbEnable := true }
     boundTill s 0 511 = none ∧ boundTill s 0 0 = some 0 ∧ (getTill s 0).state = .running ∧ (getTill s 0).kind = 0 ∧
     (getTill s 0).prod = (0 : BitVec 64).setWidth 16 ∧ (256 : BitVec 16) ≠ (getTill s 0).prod ∧ (256 - (getTill s 0).cons).toNat ≤ (getTill s 0).slots ∧
     (getTill s 0).slots < (257 - (getTill s 0).cons).toNat ∧
     boundTill s 0 1 = some 1 ∧ (getTill s 1).kind = 1 ∧ (0 - (getTill s 1).cons).toNat ≤ (getTill s 1).used ∧
     (getTill s 1).used < (1 - (getTill s 1).cons).toNat ∧ boundTill s 0 2 = some 2 ∧ (getTill s 2).kind = 2) ∧
    (let s := updTill (updFn ready 0 fun k => { k with dbEnable := true }) 0 fun t => { t with state := .error }
     boundTill s 0 0 = some 0 ∧ (getTill s 0).state ≠ .running) := by decide +kernel

theorem witness_FunctionRegistersKeepTheirAccess :
    served hostPart 1 = true ∧ boundTo hostPart 1 = some 0 ∧ (getPart hostPart 0).isSome = true ∧ 15 % 8192 < part0.tallyCount ∧
    served hostPart 0 = true ∧ hostPart.host.chip.lockWritten = false ∧
    (let s := updFn hostPart 1 fun k => { k with irqCause := 1, msixEnable := true, msixTable := [(12, 1)], heldVectors := [0] }
     ((getFn s 1).irqCause &&& ~~~(getFn s 1).irqMask = 0) ∧ (getFn s 1).irqCause &&& ~~~((0 : BitVec 32).setWidth 4) ≠ 0 ∧ (getFn s 1).msixEnable = true ∧
       vectorMasked (getFn s 1) 0 = false ∧ 0 ∉ (getFn s 1).cooling ∧ 0 ∈ (getFn s 1).heldVectors) ∧
    (updChip hostPart fun c => { c with lockWritten := true }).host.chip.lockWritten = true := by decide +kernel

theorem witness_RegisterWritesReachTheirRegisters :
    served hostPart 0 = true ∧
    (let s := updChip hostPart fun c => { c with mw4Sel := true }
     meets (presented s 0) (fun q => (List.range 64).all fun k => (q.phys (4 * 2097152 - 64 + k)).isSome) = true) ∧
    hostPart.sys.pwrgood = true ∧ ready.host.chip.vfEnable = false := by decide +kernel

theorem witness_FunctionResetsBeginAndEnd :
    hostPart.sys.ready = true ∧ present hostPart 4 = true ∧ (getFn hostPart 4).resetting = false ∧
    (∀ g : Fin 32, g.val ≠ 0 → present ready g.val = false) ∧ hostPart.sys.boot = none ∧
    (∀ soft, (let s := updFn hostPart 4 fun k => { k with resetting := true, softReset := soft }
      (getFn s 4).resetting = true ∧ (getFn s 4).softReset = soft)) := by decide +kernel

/-! ### Cells, root commands, debug -/

/-- Partition 0 with 12 mapped pages, a fronthaul VLAN, and a running KIND 3 till. -/
def cellPart : Part :=
  { part0 with allot := List.range 12, mapped := (List.range 12).map fun k => (k, true), vlans := [⟨0, 0, 5⟩] }

def cellState0 : State :=
  let s := hosted (withPart cellPart ready)
  let s := updTill s 96 fun _ => { Till.none with state := .running, kind := 3, base := 24576, holder := .fn 0 }
  updWork s fun w => { w with hbm := [(0x544, 1)] }

/-- CELL_START of cell 0 with the smallest fields: 11 resource blocks at numerology 1, one plane, one stream. -/
def cellStart0 : Msg :=
  cmd 144 [(0x13, 1, 1), (0x14, 2, 11), (0x16, 2, 5), (0x1B, 1, 1), (0x1D, 1, 1), (0x1F, 1, 1), (0x24, 4, 100), (0x2F, 1, 1), (0x30, 4, 20000),
    (0x34, 4, 25000), (0x38, 4, 20000), (0x3E, 2, 1), (0x42, 2, 1)]

/-- A started cell of partition 0 whose jobs are 1 and 2. -/
def cell0 : Cell := { newCell (takenCmd cellState0 0x0801 cellStart0) (layout 1472 [(0x544, 1, 1)]) 1 2 with starting := none }

def cellState : State :=
  { cellState0 with
    work := { cellState0.work with jobs := [(1, { job0 (inst0 []) with kind := .cellUp 0 }), (2, { job0 (inst0 []) with kind := .cellDown 0 })] }
    radio := { Radio.reset with cells := [(0, cell0)] } }

theorem witness_cellStartFields : fits cellState0 0x0801 0x102 144 cellStart0 (fun t c => cellFieldsOk c && (getPart t 0).isSome && hostOf t c.m.src 0 &&
    cellPart.allowLc && cellRegionsOk t cellPart c && getCell t 0 = none && decide (loadedCount t + 2 ≤ 256)) = true := by decide +kernel

set_option maxRecDepth 400000 in
theorem witness_cellStartConfig : (let t := takenState cellState0 0x0801 cellStart0
    let c := takenCmd cellState0 0x0801 cellStart0
    let cfg := hbmBytes t cellPart (c.f 0x80 8) cellConfigBytes
    cellConfigOk c cfg = true ∧ cellPorts t cellPart c cfg = none) := by decide +kernel

theorem witness_CellCommandsAndFloors :
    (∀ seg ∈ [0, 15], fits cellState 0x0800 0x102 24 (cmd 24 [(0x11, 1, seg), (0x12, 1, 16), (0x14, 4, 999)]) (fun t c => decide (c.f 0x11 1 < c.f 0x12 1) &&
      decide (1 ≤ c.f 0x12 1 ∧ c.f 0x12 1 ≤ 16) && c.zero 0x13 0x14 && meets (startedCell t 0) fun x => hostOf t c.m.src x.part) = true) ∧
    (let s := { cellState with radio := { Radio.reset with cells := [(0, { cell0 with fapi := some ⟨15, 16, 999, []⟩ })] } }
     fits s 0x0800 0x102 24 (cmd 24 [(0x11, 1, 15), (0x12, 1, 16), (0x14, 4, 999)]) (fun t c => meets (startedCell t 0) fun x => meets x.fapi fun p =>
       c.f 0x11 1 = p.next && c.f 0x12 1 = p.segs && c.f 0x14 4 = p.len && c.f 0x11 1 + 1 = c.f 0x12 1) = true) ∧
    (∀ now ∈ [0, 1], fits cellState 0x0802 0x102 24 (cmd 24 [(0x11, 1, now)]) (fun t c => c.zero 0x12 0x18 && c.f 0x11 1 = now &&
      meets (startedCell t 0) fun x => x.stopping = none) = true) ∧
    fits cellState 0x0803 0x102 32 (cmd 32 [(0x11, 1, 1), (0x18, 8, 64)]) (fun t c => c.zero 0x12 0x18 && aligned (c.f 0x18 8) 64 && decide (0x106 ≤ c.ver) &&
      meets (startedCell t 0) fun x => cellPart.holds (c.f 0x18 8) (cellRecord x).length) = true ∧
    (let s := updDie ready 1 fun d => { d with slewing := true }
     (getDie s 1).slewing = true ∧ s.work.loading = []) ∧
    (let l : Loading := { ticket := 4, job := job0 (inst0 []), refusal := none, handle := 1, floor := [1] }
     let s := updWork (updDie ready 1 fun d => { d with slewing := true }) fun w => { w with loading := [l] }
     (getDie s 1).slewing = true ∧ s.work.loading = [l] ∧ l.handle ≠ 0 ∧ 1 ∈ l.floor) := by decide +kernel

/-- Physical presence is held, and the jumper is set. -/
def present_ (s : State) : State := updSec s fun x => { x with window := true, windowEnd := 1, jumper := true }

theorem witness_RootCommandsTestStageAndMend :
    fits (present_ (hosted ready)) 0x0B00 0x100 32 (cmd 32 [(0x10, 1, 2)]) (fun t c => c.zero 0x12 0x14 && c.f 0x10 1 = 2 && presence t && loadedCount t = 0 &&
      !bistRuns t && !((testUnits c).filter fun u => !disabled t u.kind u.index).any (lcClaims t)) = true ∧
    fits hostPart 0x0B00 0x100 32 (cmd 32 [(0x11, 1, 128)]) (fun t c => c.zero 0x12 0x14 && c.f 0x10 1 = 0 &&
      !((testUnits c).filter fun u => !disabled t u.kind u.index).any (lcClaims t)) = true ∧
    fits hostPart 0x0B01 0x100 32 (cmd 32 [(0x14, 4, 64)]) (fun t c => names t c && part0.holds (c.f 0x18 8) (c.f 0x14 4) && !stagingBusy t && !(commitRec t).trial) = true ∧
    (let s := updSec hostPart fun x => { x with stagedVersion := 0x04030000 }
     ∀ restart ∈ [0, 1], fits s 0x0B02 0x100 24 (cmd 24 [(0x10, 1, restart)]) (fun t c => decide (c.f 0x10 1 < 2) && c.zero 0x11 0x18 && !stagingBusy t &&
       t.sec.stagedVersion ≠ 0 && !lowerStaged t) = true) ∧
    (∀ e ∈ [(lcMaker, lcSealed), (lcSealed, lcService), (lcService, lcSealed), (lcSealed, lcReturned), (lcReturned, Sys2Proof.Machine.lcVoid)],
      (let s := updSec (present_ (hosted ready)) fun x => { x with lc := e.1 }
       fits s 0x0B03 0x100 24 (cmd 24 [(0x10, 1, e.2)]) (fun t c => c.zero 0x11 0x18 && lcPresent t e.2 && t.sec.lc = e.1 && t.sec.certStored &&
         decide (t.sec.fuses.transitions < 64) && t.work.parts = []) = true)) ∧
    (let s := updSec hostPart fun x => x
     fits s 0x0B04 0x100 24 (cmd 24 [(0x12, 2, 71)]) (fun t c => decide (c.f 0x12 2 < kindCount 0) && c.zero 0x14 0x18 && disabled t 0 71 &&
       !(⟨0, 71⟩ ∈ t.rel.volatile) && !(⟨0, 71⟩ ∈ t.rel.pendingUnits)) = true) ∧
    (let s := updRel (present_ (hosted ready)) fun r => { r with volatile := [⟨1, 23⟩] }
     fits s 0x0B04 0x100 24 (cmd 24 [(0x10, 1, 1), (0x11, 1, 1), (0x12, 2, 23)]) (fun t c => c.zero 0x14 0x18 && decide (23 < kindCount 1) && decide (0x201 ≤ c.ver) &&
       presence t && decide (⟨1, 23⟩ ∈ t.rel.volatile)) = true) ∧
    fits (present_ (hosted ready)) 0x0B05 0x100 16 (cmd 16 []) (fun t _ => presence t) = true := by decide +kernel

/-- An image whose station 0 is a SIGNAL station. -/
def imageSignal : List Byte := layout 128 [(0x0C, 2, 1), (0x40, 2, 1), (0x44, 4, 1), (0x48, 4, 0x50), (0x50, 1, 5)]

/-- A device in SERVICE whose core 0 runs a signal program. -/
def signalState (f : SigUnit → SigUnit) : State :=
  let s := hosted (busy { job0 (inst0 []) with image := imageSignal })
  { updSec s fun x => { x with lc := 3 } with engines := [(0, { Engines.reset with sig := f { SigUnit.reset with running := true } })] }

theorem witness_DebugCommandsActOnTheNamedCore :
    physicalCore (signalState id) 0 = some 0 ∧
    (∀ halted ∈ [true, false], fits (signalState fun u => { u with halted := halted }) 0x0C00 0x100 24 (cmd 24 []) (fun t c => c.f 0x11 1 = 0 && c.zero 0x12 0x18 &&
      signalRuns t 0 && (getEng t 0).sig.halted = halted) = true) ∧
    (∀ op ∈ [0x0C01, 0x0C02], fits (signalState fun u => { u with halted := true }) op 0x100 24 (cmd 24 []) (fun t c => c.zero 0x12 0x18 && (getEng t 0).sig.halted) = true) ∧
    (∀ e ∈ [(1, 31744), (2, 31744)], fits (signalState id) 0x0C03 0x100 40 (cmd 40 [(0x12, 1, e.1), (0x14, 4, e.2)]) (fun t c => c.zero 0x13 0x14 && c.zero 0x20 0x28 &&
      decide (c.f 0x14 4 + 1024 ≤ 32768) && meets (debugJobs t c.m.src 0).head? fun x => x.2.part = 0 && part0.holds (c.f 0x18 8) 4096) = true) ∧
    fits (signalState id) 0x0C03 0x100 40 (cmd 40 []) (fun _ c => c.f 0x12 1 = 0 && c.zero 0x13 0x14 && c.zero 0x20 0x28 && part0.holds (c.f 0x18 8) 256) = true ∧
    (let u := (getEng (signalState fun u => { u with stopPending := true }) 0).sig
     u.stopPending = true ∧ u.running = true ∧ u.halted = false ∧ u.boundary = true) := by decide +kernel

/-! ### Ethernet, time, the Relne link -/

def macUp : State := updMac (withPart { part0 with vlans := [⟨0, 0, 5⟩, ⟨0, 2, 6⟩, ⟨0, 3, 7⟩] } ready) 0 fun m => { m with up := true, speed := 5, en := true, classMask := 0xF }

def frame0 : RxFrame := { fcsOk := true, length := 64, vlans := [], etherType := 0x800, esmc := false, macsec := none }

theorem witness_MacsClassifyCountAndSend :
    (getMac macUp 0).up = true ∧ frame0.fcsOk = true ∧ 64 ≤ frame0.length ∧ frame0.length ≤ 9216 ∧ frame0.vlans = [] ∧ frame0.etherType ≠ 0x88F7 ∧
    frame0.etherType ≠ 0x88CC ∧ frame0.etherType ≠ 0x8809 ∧ vlanKind macUp 0 9 = none ∧ vlanKind macUp 0 5 = some 0 ∧ (0 : Nat) ≠ 1 ∧ (getMac macUp 0).en = true ∧
    (getMac macUp 0).classMask.getLsbD 0 = true ∧ frame0.macsec = none ∧
    (updTiming macUp fun t => { t with esmcEn := true }).net.timing.esmcEn = true ∧ 0 ∈ upMacs macUp ∧ 0 < macUp.net.macs.length ∧ served macUp 0 = true ∧
    (1 : BitVec 32).getLsbD 0 = true ∧ sakValid macUp (sakSlot 0 0 false) = false ∧
    sakValid (updSec macUp fun x => { x with saks := [(0, ⟨0, 0, 0, 1⟩)] }) (sakSlot 0 0 false) = true := by decide +kernel

def ptpAt (state : BitVec 4) (f : PtpPort → PtpPort) : State := updPtp macUp 0 fun q => f { q with en := true, portState := state }
def rx0 : PtpRx := { mac := 0, vlan := none, domain := 24, raw := 9000000 }

theorem witness_PtpPortsFollowAndServe :
    (∀ state ∈ [6, 9], (let s := ptpAt state id
      (getMac s rx0.mac).up = true ∧ rx0.vlan = none ∧ (getPtp s rx0.mac).en = true ∧ rx0.domain = s.net.timing.domain.toNat ∧
        (getPtp s rx0.mac).portState = state ∧ (getPtp s rx0.mac).mean = none ∧ (getPtp s rx0.mac).parent = none ∧ s.net.timing.profile = false)) ∧
    (let s := ptpAt 9 fun q => { q with mean := some 3, msDelay := some 4, t3 := some 5 }
     (getPtp s 0).mean = some 3 ∧ (getPtp s 0).msDelay = some 4 ∧ (getPtp s 0).t3 = some 5) ∧
    (updTiming (ptpAt 6 id) fun t => { t with profile := true }).net.timing.profile = true ∧ 0 < (ptpAt 6 id).net.ptp.length := by decide +kernel

/-- A time-of-day message of second 7: magic, length, state, seconds, CRC-8. -/
def todBytes : List Byte :=
  let b := layout 15 [(0, 2, 0x4454), (2, 1, 16), (4, 6, 7)]
  b ++ [BitVec.ofNat 8 (crc8 b)]

theorem witness_TimeInputsOutputsAndSources :
    (0 : Int).natAbs ≤ 14073748835 ∧ (-14073748835 : Int).natAbs ≤ 14073748835 ∧ ready.net.timing.state = .freeRun ∧ ready.net.timing.todSeconds = none ∧
    (let s := updTiming ready fun t => { t with todSeconds := some 3, source := 2, todLost := false, todInEn := true, ppsEdge := some 0, time := mkTime 100000000 0, ppsOutEn := true, todOutEn := true }
     s.net.timing.todSeconds = some 3 ∧ s.net.timing.source = 2 ∧ s.net.timing.todLost = false ∧ s.net.timing.ppsEdge = some 0 ∧ s.net.timing.todInEn = true ∧
       todBytes.length = 16 ∧ imgLe todBytes 0 2 = 0x4454 ∧ imgByte todBytes 2 = 16 ∧ crc8 (todBytes.take 15) = imgByte todBytes 15 ∧
       0 + 100000000 ≤ nowNs s ∧ nowNs s ≤ 0 + 900000000 ∧ s.net.timing.ppsOutEn = true ∧ s.net.timing.todOutEn = true) ∧
    (let s := updTiming ready fun t => { t with state := .locked, source := 2 }
     s.net.timing.source = 2 ∧ s.net.timing.linkTime = false ∧ s.net.timing.state = .locked ∧ s.sec.aonRuns = true) ∧
    (updTiming ready fun t => { t with state := .holdover }).net.timing.state = .holdover ∧ served ready 0 = true ∧ (1 : BitVec 32).getLsbD 0 = true ∧
    (updTiming ready fun t => { t with setNs := 999999999 }).net.timing.setNs.toNat < 1000000000 ∧ (3 : BitVec 32).toNat % 4 = 3 ∧
    ∀ d ∈ [24, 43], (let v : BitVec 32 := BitVec.ofNat 32 (d * 65536)
      v.toNat % 4 = 0 ∧ v.getLsbD 2 = false ∧ 24 ≤ (v.extractLsb' 16 8).toNat ∧ (v.extractLsb' 16 8).toNat ≤ 43) := by decide +kernel

def grouped : State := updRelne (busy { job0 (inst0 []) with groupTag := 9 }) fun r =>
  { r with ports := { RelnePort.down with up := true } :: List.replicate 3 RelnePort.down, members := 2, root := false, protocol := 2, unsettled := true }

theorem witness_RelneLinkFormsAndCarries :
    (3 < 4 ∧ 3 < ready.net.relne.ports.length ∧ (getPort ready 3).up = false ∧ ready.net.relne.portEn.getLsbD 3 = true ∧ (2 : BitVec 8).getLsbD 1 = true) ∧
    (getPort grouped 0).up = true ∧ (getPort grouped 0).miswired = false ∧ 1 < grouped.net.relne.members.toNat ∧
    (updRelne grouped fun r => { r with members := 1 }).net.relne.members.toNat ≤ 1 ∧ grouped.net.relne.unsettled = true ∧
    grouped.net.relne.followsLink = true ∧ grouped.net.relne.joined = false ∧ linkCarries grouped 0 = true ∧
    meets (taggedJob grouped 0 9) (fun e => e.2.producedTally 0 = none) = true ∧
    meets (taggedJob (busy { job0 (inst0 []) with groupTag := 9, tallies := [(3, 0, 0)] }) 0 9) (fun e => e.2.producedTally 0 = some 3) = true := by decide +kernel

/-! ### Power, reliability, security, start-up -/

theorem witness_PowerControllerSetsMasksAndPoints :
    (let s := updPower ready fun w => { w with orders := [⟨3, none, 500000⟩], flowStopped := true }
     s.power.orders = [⟨3, none, 500000⟩] ∧ s.power.flowStopped = true) ∧
    (hostPart.power.orders = [] ∧ hostPart.power.flowStopped = false ∧ (hostPart.work.parts.map Prod.fst).Nodup ∧ loadsNow hostPart ≠ [] ∧
      nth false hostPart.power.busFailed 0 = false ∧ hostPart.power.dies.length = 2) ∧
    (let s := updPower ready fun w => { w with binding := true }
     s.power.binding = true ∧ capSkips s = false) ∧
    (let s := updDie ready 1 fun d => { d with slewing := true }
     (getDie s 1).slewing = true ∧ (getDie s 1).timedOut = false) ∧
    (getDie (updDie ready 1 fun d => { d with timedOut := true }) 1).timedOut = true ∧
    nth false (updPower ready fun w => { w with busFailed := [false, true] }).power.busFailed 1 = true ∧
    dieOf 71 < hostPart.power.dies.length ∧ ready.sys.clocks = true ∧ (List.replicate 80 (7 : BitVec 16)).length = 80 ∧ ready.power.temps.length = 80 ∧
    ready.power.prochotOut = false ∧ ready.power.prochotIn = false ∧ ready.power.flowStopped = false ∧ ready.rel.tests = [] ∧
    (let s := updPower ready fun w => { w with flowStopped := true }
     s.power.flowStopped = true ∧ s.power.flowRestart = false ∧ ∀ k < 80, tempOf s k < 85 * 256) ∧
    (let s := updPower ready fun w => { w with flowStopped := true, flowRestart := true }
     s.power.flowRestart = true ∧ s.sys.boot = none) := by decide +kernel

theorem witness_ReliabilityTestsScrubsAndMends :
    ready.rel.pairs[3]? = some ⟨[], false⟩ ∧ ready.sys.clocks = true ∧ (0, 0, 0, 0) ∉ ready.rel.scrubbed ∧
    (∀ u ∈ [(0, 0), (0, 63), (1, 23), (2, 7), (3, 15)], u.1 ≤ 3 ∧ u.2 < kindCount u.1 ∧ disabled ready u.1 u.2 = false) ∧
    (∀ u ∈ [(⟨2, 7⟩ : UnitId), ⟨3, 15⟩, ⟨0, 63⟩], (getTest (updTest ready u fun t => { t with due := true }) u).due = true) ∧
    (admissible ready 63 = true ∧ (getCore ready 63).run = none ∧ disabled ready 0 63 = false) ∧
    (let s := updCore (busy { job0 (inst0 []) with bestEffort := true }) 0 id
     admissible s 0 = true ∧ (getCore s 0).run.isSome = true) ∧
    (getTest (updTest ready ⟨0, 63⟩ fun t => { t with slice := 149 }) ⟨0, 63⟩).slice = 149 ∧ (getTest ready ⟨0, 63⟩).slice ≠ 149 ∧
    (updRel ready fun r => { r with flashPending := [⟨1, 0, 0, 1, 0, 0, 0, 0xFF, 0, 1, 0⟩] }).rel.flashPending ≠ [] ∧
    (updRel ready fun r => { r with mapPending := [⟨1, 0⟩] }).rel.mapPending ≠ [] ∧
    bistRuns (updRel ready fun r => { r with tests := [⟨1, 2, 0, [], [], 0, []⟩] }) = true := by decide +kernel

/-- An image of an empty body whose header is well formed. -/
def fwImage : List Byte := layout 8192 [(0, 4, 0x57464C43), (4, 4, 0x04030000)]

set_option maxRecDepth 100000 in
theorem witness_fwHeader : fwHeaderOk fwImage = true := by decide +kernel

set_option maxRecDepth 100000 in
theorem witness_fwKeys : imgByte fwImage 0x00A = 0 ∧ imgByte fwImage 0x00B = 0 ∧ imgLe fwImage 8 2 = 0 ∧ imgLe fwImage 4 4 = 0x04030000 ∧
    (fwImage.drop 0x10).take 48 = List.replicate 48 0 := by decide +kernel

/-- What hashes and signatures give is not stated: where they agree with the image, it passes; an image without a header never does. -/
theorem witness_stageFails (hs : ∀ x, Config.sha384 x = 0) (he : ∀ k, Config.ecdsaRom k = 0) (hm : ∀ k, Config.mldsaRom k = 0)
    (hv : ∀ a b c, Config.ecdsaVerify a b c = true) (hw : ∀ a b c, Config.mldsaVerify a b c = true) :
    stageFails ready (slotOfImage fwImage) = none := by
  obtain ⟨h1, h2, h3, h4, h5⟩ := witness_fwKeys
  have h6 : bytes48 0#384 = List.replicate 48 0#8 := by decide +kernel
  have h7 : ready.sec.fuses.ecdsaRevoked = 0 ∧ ready.sec.fuses.mldsaRevoked = 0 ∧ ready.sec.fuses.svnFloor = 0 ∧ ready.sec.downgradeOff = false := by decide +kernel
  simp [stageFails, slotFails, slotOfImage, witness_fwHeader, h1, h2, h3, h5, h6, h7, hs, he, hm, hv, hw]

theorem witness_SecurityBlockKeepsItsRules :
    ready.sec.stuck = false ∧ ready.sec.aonRuns = true ∧
    (let s := updSec ready fun x => { x with sealMisses := 1, sealArmed := true, sealState := 0 }
     1 ≤ s.sec.sealMisses ∧ s.sec.sealArmed = true ∧ s.sec.sealState = 0) ∧
    served ready 0 = true ∧ (1 : BitVec 32).toNat % 4 = 1 ∧ (2 : BitVec 32).toNat % 4 = 2 ∧ sakInUse ready = false ∧
    sakInUse (updMac ready 0 fun m => { m with en := true }) = true ∧ ready.sec.ownerSeed = none ∧
    (updSec ready fun x => { x with ownerSeed := some 1 }).sec.ownerSeed.isSome = true ∧ ready.sec.lockWritten = false ∧
    (updSec ready fun x => { x with lockWritten := true }).sec.lockWritten = true ∧
    (let s := updSec ready fun x => { x with staging := some ⟨3, []⟩ }
     s.sec.staging = some ⟨3, []⟩ ∧ stageFails s (slotOfImage []) = some 5) ∧
    (updSec ready fun x => { x with lc := lcReturned }).sec.lc = lcReturned ∧ jtagOpen ready = false ∧
    jtagOpen (updSec ready fun x => { x with lc := lcMaker }) = true := by decide +kernel

theorem witness_RestartsKeepAndRunTheBootRom :
    State.reset.sys.boot = some .cold ∧ Boot.cold ≠ .halted ∧ State.reset.sys.clocks = true ∧ State.reset.power.flowStopped = false ∧
    (let s := updSys ready fun y => { y with recovery := true }
     s.sys.recovery = true ∧ s.sys.bootStopped = false ∧ s.sys.fatal = false) := by decide +kernel

/-! ### Management, optics -/

def managed : State := updMgmt (updSec ready fun x => { x with spdm := 3 }) fun m => { m with update := some ⟨[], true⟩ }

theorem witness_ManagementAnswersOnItsTransports :
    (∀ via ∈ [0, 1], mgmtServes ready via = true) ∧ mgmtServes (updChip ready fun c => { c with linkUp := true }) 2 = true ∧
    ready.sec.lc ≠ Sys2Proof.Machine.lcVoid ∧ ready.sec.spdm < 3 ∧ 3 ≤ managed.sec.spdm ∧ (0x80 : BitVec 32).getLsbD 7 = true ∧ (2 : BitVec 32).getLsbD 1 = true ∧
    pdrRecords.length ≠ 0 ∧ (pdrRecords.length - 1 < pdrRecords.length) ∧ (numericSensor ready 0x14F).isSome = true ∧ (stateSensor ready 0x304).isSome = true ∧
    stagingBusy ready = false ∧ (commitRec ready).trial = false ∧ managed.mgmt.update = some ⟨[], true⟩ ∧ lowerStaged managed = false ∧
    (254 : Nat) < 255 ∧ 0 + ([] : List Byte).length ≤ 33554432 ∧
    (let s := updMgmt ready fun m => { m with transports := [{ Transport.reset with queue := [⟨9, 1, true, []⟩] }] }
     (nth Transport.reset s.mgmt.transports 0).queue = [⟨9, 1, true, []⟩] ∧ (nth Transport.reset s.mgmt.transports 0).timeout = false ∧ s.sys.clocks = true) ∧
    1 < ready.mgmt.transports.length := by decide +kernel

/-- The bytes of a certificate chain, of a vendor identifier and of a decoded request are not stated: whatever they are, a message body
spells the vendor identifier and class 0, and a chain with a byte has an offset in it. -/
theorem witness_vendorMessage : (let body := (leBytes 2 Config.vendorId.toNat).reverse ++ List.replicate 17 (0 : Byte)
    body.take 2 = (leBytes 2 Config.vendorId.toNat).reverse ∧ imgLe body 2 1 = 0 ∧ 19 ≤ body.length) := by
  simp [imgLe, leBytes, leNat]

def optics0 : State := updSys ready fun y => { y with board := { y.board with optPopulated := 0xFF } }

theorem witness_OpticsAndIndicatorsAreWatched :
    slotServed optics0 7 = true ∧ 7 < optics0.optics.slots.length ∧ (getSlot optics0 7).present = false ∧
    (let s := updSlot optics0 7 fun x => { x with present := true, managed := true, fails := 2 }
     (getSlot s 7).present = true ∧ (getSlot s 7).managed = true ∧ 2 ≤ (getSlot s 7).fails) ∧ (getSlot optics0 7).fails < 2 ∧
    (∀ n ∈ [1, 3], (let s := updBus optics0 1 fun x => { x with state := 1, attempt := n }
      (getBus s 1).state = 1 ∧ (getBus s 1).attempt = n)) ∧
    (getBus (updBus optics0 1 fun x => { x with state := 2 }) 1).state = 2 ∧ served optics0 0 = true ∧
    5 < optics0.optics.indicators.length ∧ checkable optics0 (getIndicator optics0 0) = true ∧ (getIndicator optics0 0).opens = 0 ∧
    1 ≤ (getIndicator (updIndicator optics0 0 fun x => { x with opens := 1 }) 0).opens := by decide +kernel

/-! ### The radio chains -/

/-- The cell, its config giving every slot uplink symbols 1 and downlink symbol 0, in a device whose MAC 0 is up. -/
def radioCell (f : Cell → Cell) : Cell := f { cell0 with config := layout 1472 [(0x400, 2, 2), (0x402, 2, 1), (0x544, 1, 1)], firstUp := 13200 }
def radio (f : Cell → Cell) : State :=
  let s := updMac cellState 0 fun m => { m with up := true }
  { s with radio := { s.radio with cells := [(0, radioCell f)] } }

def pusch0 : PuschPdu :=
  { bitmap := 1, rnti := 9, handle := 4, scs := 1, extendedCp := false, qm := 2, dftS := false, codeRate := 2000, tbBits := 8000, scramblingId := 0,
    layers := 1, dmrsType2 := false, rbs := [0], interleaved := false, hopping := 0, symStart := 0, symCount := 14, rv := 0, harq := 0,
    newData := true, numCb := 0, dmrsPorts := [0], scid := 0, dmrsSymbols := 4, dmrsScramblingId := 0, puschIdentity := 0,
    cdmGroupsNoData := 2, lowPaprGroup := 0, lowPaprSequence := 0, ptrs := [], ptrsTime := 0, ptrsFreq := 0, lbrm := false }

def place0 : BlockPlace := { engine := 0, start := 0, bits := none, crcPassed := false, syndromeZero := false }

def ulSlot0 : UlSlot :=
  { slot := 13200, sfn := 0, slotInFrame := 0, prach := [], prachBase := 0, reported := false, indicated := false,
    recs := [{ index := 0, pdu := pusch0, ctx := false, ctxNew := false, blocks := [place0, place0, place0], rxOffset := 0, passed := none, fig := none, llr := none, tau := 0 }]
    polar := [⟨1, 0, 9, 11, 0, 0, false⟩, ⟨2, 0, 9, 12, 0, 0, false⟩, ⟨3, 0, 9, 12, 0, 0, true⟩] }

/-- The cell's job with an image whose INGEST station receives from 0 to 1 ms after a symbol's end. -/
def upImage : List Byte :=
  layout 256 [(0x0C, 2, 2), (0x40, 2, 1), (0x44, 4, 1), (0x48, 4, 0x60), (0x50, 2, 7), (0x54, 4, 1), (0x58, 4, 0x80), (0x5C, 4, 128), (0x60, 1, 1),
    (0x6C, 4, 0), (0x90, 4, 1000000)]

def receiving (f : Cell → Cell) : State :=
  updWork (radio f) fun w => { w with jobs := [(1, { job0 (inst0 []) with kind := .cellUp 0, image := upImage }), (2, { job0 (inst0 []) with kind := .cellDown 0 })] }

/-- A U-plane frame of eAxC 0: 12 bytes of headers of subframe 0, slot 0, symbol 0. -/
def uplane0 : List Byte := layout 12 [(0, 1, 0x10), (3, 1, 8), (7, 1, 0x80), (8, 1, 0x10)]

theorem witness_UplinkTakesFrames :
    (let s := receiving id
     let w := countRx s 0
     getCell s 0 = some (radioCell id) ∧ (getMac s 1).up = false ∧ (getMac s 0).up = true ∧ vlanKind w 0 6 ≠ some 0 ∧ vlanKind w 0 5 = some 0 ∧
     ingestEntry w 0 5 (beAt (layout 12 [(5, 1, 1)]) 4 2) = none ∧
     (∀ p ∈ [uplane0, uplane0.drop 1], meets (ingestEntry w 0 5 (beAt p 4 2)) (fun e => e.1 = .cell 0 && uplaneOk e.2.1 e.2.2 p = decide (p.length = 12) &&
       (radioCell id).rx[e.2.2]?.isSome) = true) ∧
     meets (getIng s (.cell 0)) (fun g =>
       g.takes 13199 = false && g.takes 13200 && decide (g.planes = 1) && g.rx[0]?.isSome && !(g.slotOf 13200).closed.getLsbD 13 &&
       (let due := g.endOf 0 13200 13 * 65536
        let lo := due + (g.field s 0x0C 4 : Nat) * (96 * 65536)
        let hi := due + (g.field s 0x10 4 : Nat) * (96 * 65536)
        decide ((-1 : Int) * 96 < lo) && decide (lo ≤ hi) && decide (hi < (10 ^ 15 : Int) * 96) && decide (lo ≤ lo / 96 * 96 + 96 ∧ lo / 96 * 96 + 96 ≤ hi))) = true) ∧
    (let j : Job := { job0 (inst0 []) with image := upImage }
     meets (getIng (busy j) (.station 1 0)) (fun g => g.takes (g.first + 1)) = true) ∧
    (let r : RxSlot := { slot := 13200, written := [], closed := 0x2000, posted := [], prachPosted := 0 }
     meets (getIng (receiving fun c => { c with rxSlots := [r] }) (.cell 0)) (fun g => (g.slotOf 13200).closed.getLsbD 13) = true) := by decide +kernel

theorem witness_UplinkTakesRequestsAndBlocks :
    (let n := (radioCell id).named (nowNs (radio id)) 1023 19
     let m := (radioCell id).named (nowNs (radio id)) 660 0
     getJob (radio id) (radioCell id).up ≠ none ∧ (nowNs (radio id) : Int) < (radioCell id).airStart n ∧ (radioCell id).nextFixed ≤ n ∧ (radioCell id).ulSlot n = none ∧
       ((radioCell fun c => { c with nextFixed := m + 1 }).named (nowNs (radio id)) 660 0 < m + 1)) ∧
    (let c := fun (llr : Option (List Int)) (b2 b0 : Option (List Bool)) => radioCell fun c => { c with ul := [{ ulSlot0 with recs := ulSlot0.recs.map fun r =>
        { r with llr := llr, blocks := [{ place0 with bits := b0 }, { place0 with bits := b0 }, { place0 with bits := b2 }] } }] }
     ∀ llr ∈ [none, some []], ∀ b2 ∈ [none, some []], ∀ b0 ∈ [none, some []],
       meets ((c llr b2 b0).ulSlot 13200) (fun u => meets (u.recs.find? fun r => r.index = 0) fun r => decide (r.llr = llr) && r.pdu.newData &&
         meets r.blocks[2]? (fun p => decide (p.bits = b2)) && meets r.blocks[0]? (fun p => decide (p.bits = b0))) = true) ∧
    (let c := radioCell fun c => { c with ul := [ulSlot0] }
     c.ulSlot 13200 = some ulSlot0 ∧
     (∀ e ∈ [(1, 11, false), (2, 12, false), (3, 12, true)], meets (ulSlot0.polar.find? fun r => r.index = e.1) (fun r => r.bits = e.2.1 ∧ r.done = e.2.2) = true)) ∧
    (∀ age ∈ [255, 256], (radioCell fun c => { c with contexts := [⟨9, 0, 0, 0, 0, age⟩] }).ctxOf 9 = some ⟨9, 0, 0, 0, 0, age⟩) ∧ (radioCell id).ctxOf 9 = none ∧
    (let x : Harq := { rnti := 9, harq := 1, tbBits := 0, offset := 0, bytes := 0, top := [], lastSlot := 0 }
     (radioCell id).harqOf 9 1 = none ∧ ∀ last ∈ [13200, 13199], (let c := radioCell fun c => { c with harq := [{ x with lastSlot := last }] }
       c.harqOf 9 1 = some { x with lastSlot := last } ∧ (c.slotAt (nowNs (radio id)) < last + c.f 0x3E 2 ∨ last = 13199) ∧
         (last = 13199 → last + c.f 0x3E 2 ≤ c.slotAt (nowNs (radio id))))) := by decide +kernel

def dl0 : DlPdu :=
  { type := 1, index := 0, rnti := 9, codewords := 1, layers := 1, qm := 2, tbBits := 100, codeRate := 2000, level := 1, pmi := 0, rbs := [0], symStart := 0,
    symCount := 1, beam := none, power := 0 }

theorem witness_DownlinkTakesRequestsEncodesAndSends :
    getCell (radio id) 0 = some (radioCell id) ∧
    (let c := radioCell id
     let n := c.named (nowNs (radio id)) 1023 19
     let m := c.named (nowNs (radio id)) 660 0
     1 ≤ n ∧ (nowNs (radio id) : Int) + 40000 ≤ c.airStart (n - 1) ∧ (c.dlSlot n).built = false ∧ (c.dlSlot n).given = false ∧
       (nowNs (radio id) : Int) + 40000 > c.airStart (m - 1) ∧ c.starting = none ∧ c.stopping = none ∧ (c.dlSlot 13200).built = false) ∧
    (radioCell fun c => { c with starting := some 1 }).starting.isSome = true ∧
    (let c := radioCell fun c => { c with dl := [{ slot := 13200, pdus := [dl0], dci := [], tx := [], encoded := [], given := true, built := true }] }
     (c.dlSlot 13200).given = true ∧ (c.dlSlot 13200).built = true ∧ (c.dlSlot 13200).all[0]? = some dl0 ∧ 0 < dlBlocks dl0 ∧ (0, 0) ∉ (c.dlSlot 13200).encoded) ∧
    (let s := updWork (radio id) fun w => { w with jobs := [(2, { job0 (inst0 []) with kind := .cellDown 0, windows := [(3, 1, 0, 0)] })] }
     meets (getJob s (radioCell id).down) (fun j => j.run.isSome && j.windows.any fun w => w.1 = (if dl0.type = 1 then 3 else 2) ∧ w.2.1 = 1) = true) ∧
    (radioCell id).firstDown ≤ 13200 ∧
    (let posted := fun ns => radioCell fun c => { c with symPosts := [(c.symTile 13200 0, ns), (c.symTile 13200 13, 0)] }
     bit ((posted 0).pattern 13200).2 0 = true ∧ bit ((posted 0).pattern 13200).2 13 = false ∧ Tbl.find (posted 0).symPosts ((posted 0).symTile 13200 13) = some 0 ∧
     Tbl.find (posted 0).symPosts ((posted 0).symTile 13200 0) = some 0 ∧
     ((0 * 96 : Nat) : Int) ≤ (posted 0).symStart 13220 0 - (egressField (radio id) (posted 0) 0x0C 4 + 2000 : Nat) * 96 ∧
     Tbl.find (radioCell id).symPosts ((radioCell id).symTile 13200 0) = none) ∧
    bit ((radioCell id).pattern 13200).1 0 = false ∧ bit ((radioCell id).pattern 13200).1 1 = true ∧
    (((getJob (radio id) (radioCell id).down).bind Job.run).isSome) = true := by decide +kernel

/-! ### Adaptation -/

/-- The smallest configuration: bodies of 80 bytes after the header. -/
def adaptConfig0 : List (Nat × Nat × Nat) :=
  [(0x13, 1, 1), (0x16, 2, 1), (0x18, 2, 64), (0x1A, 2, 32), (0x1C, 1, 1), (0x1D, 1, 1), (0x1E, 1, 6), (0x24, 4, 10), (0x28, 4, 256), (0x2C, 4, 1000),
   (0x32, 2, 1), (0x34, 4, 1000), (0x38, 2, 100), (0x3A, 2, 1), (0x3C, 1, 1)]

def adapting (m : Mem) (f : Adapt → Adapt) : State :=
  let s := radio id
  { s with
    work := { s.work with hbm := m, parts := [(0, { cellPart with allot := List.range 64, mapped := (List.range 64).map fun k => (k, true) })], jobs := s.work.jobs ++ [(3, { job0 (inst0 []) with kind := .adapt 0, run := none })] }
    radio := { s.radio with adapts := [(0, f { Adapt.reset with config := (layout 96 adaptConfig0).drop 16, job := some 3, enable := true })] } }

def sums0 (n : Nat) (good : Bool) : List EvalSum := List.replicate n ⟨2, if good then 0 else 2, 1, 0, 0⟩

def rec0 : Staged := { entry := 1, n := 0, data := 4, labelled := 1, sinr := 0, pdus := [], labels := [] }

/-- The one labelled bit of a passed PDU. -/
def staged0 : Staged := { rec0 with pdus := [{ index := 0, pdu := pusch0, passed := true, bits := [(true, 0)] }] }

theorem witness_StagingIsProcessed :
    getCell (adapting [] id) 0 = some (radioCell id) ∧ (getAdapt (radio id) 0).job = none ∧
    (∀ n ∈ [254, 256], ∀ phase ∈ [phOff, phEvaluating, phPassed, phProbation], ∀ good,
      (let s := adapting [] fun a => { a with phase := phase, sums := sums0 n good, staged := [rec0] }
       let a := getAdapt s 0
       a.job.isSome = true ∧ a.staged.find? (fun e => e.entry = 1) = some rec0 ∧ a.staged.find? (fun e => e.entry = 2) = none ∧ a.phase = phase ∧
         evaluated s 0 (radioCell id) rec0 = [] ∧ a.change = none ∧ (n = 254 → a.sums.length < a.f 0x28 4) ∧
         (n = 256 → a.f 0x28 4 ≤ a.sums.length ∧ a.passes = good))) ∧
    (∀ d ∈ [4, 5], ∀ frozen ∈ [[], [(0, 0)]], (let e := { rec0 with data := d }
      let a := getAdapt (adapting [] fun a => { a with phase := phTraining, staged := [e], round := some ⟨1, 0, frozen, 0⟩ }) 0
      a.phase = phTraining ∧ a.job.isSome = true ∧ a.staged.find? (fun e => e.entry = 1) = some e ∧ a.wouldCapture e = decide (d = 4) ∧
        a.round = some ⟨1, 0, frozen, 0⟩ ∧ (frozen.any fun x => x.1 % max 1 (a.f 0x18 2) = a.nextRecord % max 1 (a.f 0x18 2)) = decide (frozen ≠ []))) := by
  decide +kernel

theorem ceOf_le (l : Bool) (q : Int) : ceOf l q ≤ 2 ^ 20 := Nat.min_le_left _ _

/-- Groups of one PDU. -/
def reversed : State := adapting [] fun a =>
  { a with config := (layout 96 ((0x38, 2, 1) :: adaptConfig0)).drop 16, phase := phProbation, staged := [staged0], sums := [⟨2, 0, 2 ^ 22, 0, 0⟩] }

/-- What ce is between its bounds is not given; the live receiver's earlier sum outweighs whatever the new PDU adds. -/
theorem outweighs (a : Adapt) (p : EvalSum) (ha : a.sums = [⟨2, 0, 2 ^ 22, 0, 0⟩]) (hf : a.f 0x30 2 = 0) (hp : p.cCand ≤ 2 ^ 20) :
    totalOf (a.sums ++ [p]) (·.cCand) * (65536 + a.f 0x30 2) < totalOf (a.sums ++ [p]) (·.cLive) * 65536 := by
  rw [ha, hf]
  simp only [totalOf, sumNat, List.cons_append, List.nil_append, List.map_cons, List.map_nil, List.foldl]
  omega

theorem evalSum_le (p : StagedPdu) (hp : p.bits = [(true, 0)]) : (evalSum p []).cCand ≤ 2 ^ 20 := by
  simp only [evalSum, hp, sumNat, List.zipIdx_cons, List.zipIdx_nil, List.map_cons, List.map_nil, List.foldl, Nat.zero_add]
  exact ceOf_le _ _

theorem witness_reversedComparison :
    (getAdapt reversed 0).staged.find? (fun e => e.entry = 1) = some staged0 ∧ evaluated reversed 0 (radioCell id) staged0 = staged0.pdus ∧
    (getAdapt reversed 0).change = none ∧ max 1 ((getAdapt reversed 0).f 0x38 2) = 1 ∧ (getAdapt reversed 0).sums.length = 1 ∧
    totalOf ((getAdapt reversed 0).sums ++ staged0.pdus.map fun p => evalSum p []) (·.cCand) * (65536 + (getAdapt reversed 0).f 0x30 2) <
      totalOf ((getAdapt reversed 0).sums ++ staged0.pdus.map fun p => evalSum p []) (·.cLive) * 65536 :=
  ⟨by decide +kernel, by decide +kernel, by decide +kernel, by decide +kernel, by decide +kernel,
    outweighs _ _ (by decide +kernel) (by decide +kernel) (evalSum_le _ rfl)⟩

theorem bf16Special_words (h : ∀ x, Config.bf16Code x = 0) (w : List Rat) : bf16Special (w.flatMap fun x => leBytes 2 (Config.bf16Code x)) = false := by
  induction w with
  | nil => rfl
  | cons x w ih =>
    have : leBytes 2 0 = [0, 0] := by decide
    simpa [h, this, bf16Special] using ih

theorem update_w_length (o : Moments) (e t : Nat) (g : List Rat) : (o.update e t g).w.length = o.w.length := by simp [Moments.update]

theorem updates_w_length (l : List Nat) (e : Nat) (g : Moments → Nat → List Rat) (o : Moments) :
    (l.foldl (fun o t => o.update e (t + 1) (g o t)) o).w.length = o.w.length := by
  induction l generalizing o with
  | nil => rfl
  | cons t l ih => rw [List.foldl_cons, ih, update_w_length]

/-- How a weight is rounded to BF16 is not given: rounded to an infinity every weight is special, to a zero none is. -/
theorem witness_trainedWeights (s : State) (c : Cell) (a : Adapt) (r : Round) :
    ((∀ x, Config.bf16Code x = 0) → bf16Special (trainedWeights s c a r) = false) ∧
    ((∀ x, Config.bf16Code x = 0x7F80) → (bf16Values (masterOf s c r.base)).length = 1 → bf16Special (trainedWeights s c a r) = true) := by
  refine ⟨fun h => bf16Special_words h _, fun h hm => ?_⟩
  unfold trainedWeights
  dsimp only
  generalize ho : List.foldl _ _ _ = o
  have hl : o.w.length = 1 := by rw [← ho, updates_w_length, hm]
  have hv : leBytes 2 0x7F80 = [0x80, 0x7F] := by decide
  obtain ⟨x, hx⟩ := List.length_eq_one_iff.mp hl
  rw [hx]
  simp [h, hv, bf16Special]

theorem witness_AdaptationTrainsEvaluatesAndSwitches :
    (∀ slot ∈ [12200, 12201], (let s := adapting [] fun a => { a with phase := phEvaluating, evalSlot := slot }
      let a := getAdapt s 0
      (slot = 12200 → a.evalSlot + a.f 0x2C 4 ≤ (radioCell id).slotAt (nowNs s)) ∧ (slot = 12201 → (radioCell id).slotAt (nowNs s) < a.evalSlot + a.f 0x2C 4))) ∧
    (∀ last ∈ [none, some 13000], (let s := adapting [(9, 3)] fun a => { a with phase := phTraining, records := List.replicate 32 (0, 0), lastRound := last }
      let a := getAdapt s 0
      a.job = some 3 ∧ roundBase s (radioCell id) = some 0 ∧ meets (getJob s 3) (fun j => decide (j.lostCore ≠ 1 ∧ j.run = none)) = true ∧ a.enable = true ∧
        a.phase = phTraining ∧ a.round = none ∧ 1 ≤ a.f 0x1A 2 ∧ a.f 0x1A 2 ≤ a.records.length ∧ a.lastRound = last ∧
        (∀ l ∈ last, l + a.f 0x20 4 ≤ (radioCell id).slotAt (nowNs s)) ∧ slotWith s (radioCell id) 3 = some 0)) ∧
    (let s := adapting [(9, 3), (0xC, 2)] fun a => { a with phase := phTraining, round := some ⟨1, 0, [], 0⟩ }
     (bf16Values (masterOf s (radioCell id) 0)).length = 1 ∧ (getAdapt s 0).round = some ⟨1, 0, [], 0⟩ ∧
       (getAdapt s 0).job = some 3 ∧ nowNs s < 0 + (getAdapt s 0).f 0x24 4 * 1000000) ∧
    (let s := { adapting [] (fun a => { a with round := some ⟨1, 0, [], 0⟩ }) with net := { ready.net with timing := { ready.net.timing with time := mkTime 10000000 0 } } }
     0 + (getAdapt s 0).f 0x24 4 * 1000000 ≤ nowNs s) ∧
    (∀ e ∈ [(0, 0), (13300, 0), (13300, 99)], ∀ slot ∈ [none, some 1], ∀ rollback, ∀ copied,
      (let x : LiveChange := { slot := slot, rollback := rollback, trigger := 0, effect := e.1, ticket := none, figures := (0, 0), copied := copied }
       let s := updWork (adapting [] fun a => { a with phase := phProbation, change := some x }) fun w =>
         { w with jobs := Tbl.put w.jobs 1 (job0 { inst0 [] with epoch := e.2, step := 1 }) }
       (getAdapt s 0).change = some x ∧ (getAdapt s 0).phase = phProbation ∧
         ((radioCell id).airStart (e.1 + 1) < (nowNs s + 2000 + 1000 * ceilDiv (slotField s (radioCell id) 1 0x38 4) 32768 : Nat) ↔ e.1 = 0) ∧
         meets (getJob s 1) (fun j => !(j.insts.any fun i => i.hasBegun (e.1 - 13200)) = decide (e.1 = 13300) && fedIn j (e.1 - 13200 - 1) = decide (e.2 = 99 ∨ e.1 = 0)) = true)) ∧
    (∀ fails ∈ [100, 0], (let a := getAdapt (adapting [] fun a => { a with baseline := 65535, outcomes := List.replicate 100 (fails = 100), phase := phProbation, tested := 100, probationFrom := 12200 }) 0
      let w := a.f 0x38 2
      let n := ((a.outcomes.take w).filter id).length
      0 < w ∧ w ≤ a.outcomes.length ∧ a.change = none ∧ (fails = 0 → n * 65536 ≤ (a.baseline + a.f 0x3A 2) * w) ∧
        a.probationFrom + a.f 0x34 4 ≤ (radioCell id).slotAt 0 ∧ a.f 0x38 2 ≤ a.tested)) ∧
    (let x : LiveChange := { slot := none, rollback := true, trigger := 0, effect := 0, ticket := none, figures := (0, 0), copied := false }
     ∀ change ∈ [none, some x], (let a := getAdapt (adapting [] fun a => { a with baseline := 0, outcomes := List.replicate 100 true, change := change }) 0
       a.change = change ∧ (a.baseline + a.f 0x3A 2) * a.f 0x38 2 < ((a.outcomes.take (a.f 0x38 2)).filter id).length * 65536)) := by
  decide +kernel

/-- A best-effort image with a CHECKPOINT, sealed as the adaptation image of a cell. -/
def imageBe : List Byte :=
  let img := layout 512 (imageFields ++ [(0x1C0, 1, 9)])
  sealImage (patchLe img 0x0E 2 (imgFlags img / 2 * 2 + 1))

/-- A partition that may train. -/
def trainPart : Part := { part0 with le := [0], purseHbm := 4000, allot := List.range 64, mapped := (List.range 64).map fun k => (k, true) }

def training (f : Adapt → Adapt) (j : Job) : State :=
  updWork (adapting [(9, 3)] f) fun w => { w with parts := [(0, { trainPart with vlans := [⟨0, 0, 5⟩] })], jobs := Tbl.put w.jobs 3 j }

def adaptJob : Job := newJob 0 (.fn 0) (.adapt 0) imageBe 0 0 0 0 0

def trainer : Part := { trainPart with vlans := [⟨0, 0, 5⟩] }
def lostJob : Job := { adaptJob with lostCore := 1 }

/-- Job 3 has lost its cores, as those of all other jobs are free. -/
def lost (j : Job) : State :=
  updWork (training (fun a => { a with phase := phTraining, records := List.replicate 32 (0, 0) }) j) fun w =>
    { w with jobs := w.jobs.map fun e => (e.1, { e.2 with insts := [] }) }

set_option maxRecDepth 40000 in
theorem witness_placingAgain : accepted (placing lostJob.image (placeInput (lost lostJob) 3 trainer lostJob) pick1) (fun p =>
    check12 trainer (lostJob.withPlacement p) = none) = true := by decide +kernel

/-- A round that places its job again: it is placed where the release makes the choices above, and not where its partition is gone. -/
theorem witness_roundPlacesAgain :
    (∀ part ∈ [0, 5], (let s := lost { lostJob with part := part }
     let a := getAdapt s 0
     a.job = some 3 ∧ roundBase s (radioCell id) = some 0 ∧ meets (getJob s 3) (fun j => decide (j.lostCore = 1 ∧ j.run = none ∧ j.part = part)) = true ∧
       a.enable = true ∧ a.phase = phTraining ∧ a.round = none ∧ 1 ≤ a.f 0x1A 2 ∧ a.f 0x1A 2 ≤ a.records.length ∧ a.lastRound = none)) ∧
    (∃ d, placeFully (lost { lostJob with part := 5 }) 3 { lostJob with part := 5 } = .inr d) ∧
    ((∀ x, Config.place x = pick1) → ∃ p, placeFully (lost lostJob) 3 lostJob = .inl (lostJob.withPlacement p)) := by
  refine ⟨by decide +kernel, ⟨_, rfl⟩, fun h => placeFully_accepted (q := trainer) (by decide +kernel) ?_⟩
  rw [h]
  exact witness_placingAgain

theorem witness_AdaptationCommandsSetLoadAndSwitch :
    (∀ phase ∈ [phOff, phTraining], fits (adapting [] fun a => { a with phase := phase, owner := .fn 0 }) 0x0A00 0x104 96 (cmd 96 adaptConfig0) (fun t c =>
      adaptAction c.m = 0 && setFieldsOk c && meets (getCell t 0) (fun x => mayAdapt t c.m.src (some x) (some (c.f 0x14 1)) &&
        meets (getPart t x.part) fun q => q.holds (c.f 0x48 8) (c.f 0x18 2 * pageBytes)) && (getAdapt t 0).phase = phase && (getAdapt t 0).job.isSome &&
        decide (((getAdapt t 0).config.drop 0xC).take 3 = (c.m.body.drop 0xC).take 3) && decide ((getAdapt t 0).f 0x40 8 = c.f 0x40 8) &&
        decide ((getAdapt t 0).f 0x3C 1 = c.f 0x3C 1) && decide ((getAdapt t 0).f 0x14 1 = c.f 0x14 1)) = true) ∧
    (let s := radio id
     carries s 0x0A00 0x104 96 (cmd 96 adaptConfig0) = true ∧ (getAdapt s 0).job = none ∧ (getAdapt s 0).config = []) ∧
    (∀ k ∈ [0, 1], fits (adapting [] id) 0x0A00 0x104 96 (cmd 96 [(0x11, 1, 2), (0x12, 1, k)]) (fun t c => adaptAction c.m = 2 && decide (c.f 0x12 1 ≤ 1) &&
      meets (getCell t 0) (fun x => mayAdapt t c.m.src (some x) none && slotState t x (c.f 0x12 1) ≠ 3) && (getAdapt t 0).phase = phOff) = true) ∧
    fits (adapting [] fun a => { a with phase := phEvaluating }) 0x0A00 0x104 96 (cmd 96 [(0x11, 1, 3)]) (fun t c => adaptAction c.m = 3 &&
      meets (getCell t 0) fun x => mayAdapt t c.m.src (some x) none) = true ∧
    fits (adapting [] fun a => { a with phase := phPassed }) 0x0A01 0x104 24 (cmd 24 []) (fun t c => c.f 0x11 1 = 0 && c.zero 0x12 0x18 && (getAdapt t 0).phase = phPassed) = true ∧
    (∀ phase ∈ [phEvaluating, phPassed, phProbation, phTraining], fits (adapting [(9, 3)] fun a => { a with phase := phase }) 0x0A02 0x104 24 (cmd 24 [(0x11, 1, 1)]) (fun t c =>
      decide (c.f 0x11 1 < 2) && c.zero 0x12 0x18 && (getAdapt t 0).phase = phase && meets (getCell t 0) fun x => mayAdapt t c.m.src (some x) none && (slotWith t x 3).isSome) = true) := by
  decide +kernel

theorem loadAdapt_loads {s : State} {ci : Nat} {config : List Byte} {owner : Source} (hl : trainLack s (bodyField config 0x14 1) = none)
    (hp : ∃ j, placeFully s 0 (newJob (bodyField config 0x14 1) owner (.adapt ci) (cellAdaptImage config) 0 0 0 0 0) = .inl j) :
    ∃ w, loadAdapt s ci config owner = (w, none) := by
  obtain ⟨j, hj⟩ := hp
  unfold loadAdapt
  rw [hl]
  dsimp only
  rw [hj]
  exact ⟨_, rfl⟩

/-- A cell that was never adapted, in a partition that may train; no other job has a core. -/
def untrained : State :=
  updWork (radio id) fun w => { w with parts := [(0, trainer)], jobs := w.jobs.map fun e => (e.1, { e.2 with insts := [] }) }

def setMsg : Msg := cmd 96 adaptConfig0
def untrainedJob : Job := newJob 0 (.fn 0) (.adapt 0) imageBe 0 0 0 0 0

set_option maxRecDepth 40000 in
theorem witness_placingFirst : accepted (placing untrainedJob.image (placeInput (takenState untrained 0x0A00 setMsg) 0 trainer untrainedJob) pick1) (fun p =>
    check12 trainer (untrainedJob.withPlacement p) = none) = true := by decide +kernel

/-- The image of the adaptation job and the release's choices are not given: with these the job is loaded; without LE cores it is refused. -/
theorem witness_adaptationLoads :
    (∀ s ∈ [untrained, radio id], carries s 0x0A00 0x104 96 setMsg = true ∧ (getAdapt (takenState s 0x0A00 setMsg) 0).job = none ∧
      (getAdapt (takenState s 0x0A00 setMsg) 0).config = []) ∧
    (∃ w d, loadAdapt (takenState (radio id) 0x0A00 setMsg) 0 setMsg.body (.fn 0) = (w, some d)) ∧
    ((∀ x, Config.place x = pick1) → (∀ b, Config.adaptImage b = layout 512 (imageFields ++ [(0x1C0, 1, 9)])) →
      ∃ w, loadAdapt (takenState untrained 0x0A00 setMsg) 0 setMsg.body (.fn 0) = (w, none)) := by
  refine ⟨by decide +kernel, ⟨takenState (radio id) 0x0A00 setMsg, ⟨eNofit, 0xFFFF000A, 1, 0, 0⟩, ?_⟩, fun hp hi => loadAdapt_loads (by decide +kernel) ?_⟩
  · have h : trainLack (takenState (radio id) 0x0A00 setMsg) (bodyField setMsg.body 0x14 1) = some ⟨eNofit, 0xFFFF000A, 1, 0, 0⟩ := by decide +kernel
    unfold loadAdapt
    rw [h]
  · have hb : cellAdaptImage setMsg.body = imageBe := by unfold cellAdaptImage imageBe; rw [hi]
    have h0 : bodyField setMsg.body 0x14 1 = 0 := by decide +kernel
    rw [hb, h0]
    obtain ⟨p, h⟩ := placeFully_accepted (s := takenState untrained 0x0A00 setMsg) (h := 0) (j := untrainedJob) (q := trainer) (by decide +kernel)
      (by rw [hp]; exact witness_placingFirst)
    exact ⟨_, h⟩

theorem witness_AdaptationCommandsChangeAndRefuse :
    fits (adapting [] fun a => { a with owner := .fn 0 }) 0x0A00 0x104 96 (cmd 96 ((0x3C, 1, 2) :: adaptConfig0)) (fun t c =>
      adaptAction c.m = 0 && setFieldsOk c && meets (getCell t 0) (fun x => mayAdapt t c.m.src (some x) (some (c.f 0x14 1))) &&
        (getAdapt t 0).phase = phOff && (getAdapt t 0).job.isSome && decide ((getAdapt t 0).f 0x3C 1 ≠ c.f 0x3C 1)) = true ∧
    fits (adapting [] id) 0x0A00 0x104 96 (cmd 96 [(0x11, 1, 4)]) (fun t c => decide (adaptAction c.m ∉ [0, 1, 2, 3]) && (getCell t 0).isSome) = true ∧
    fits (adapting [(9, 1)] fun a => { a with phase := phEvaluating }) 0x0A00 0x104 96 (cmd 96 [(0x11, 1, 2)]) (fun t c => adaptAction c.m = 2 &&
      meets (getCell t 0) (fun x => mayAdapt t c.m.src (some x) none && slotState t x (c.f 0x12 1) = 1) && (getAdapt t 0).phase = phEvaluating) = true := by
  decide +kernel

/-- A slot image of one weight. -/
def slotImage0 : List Byte :=
  layout 0x102 [(0, 4, 0x57585243), (4, 2, 1), (6, 1, 32), (7, 1, 4), (8, 1, 8), (0xC, 4, 2), (0x10, 8, crc64 [0, 0])]

/-- The image lies in partition page 16. -/
def slotHbm : Mem := ((slotImage0.zipIdx).map fun e => (16 * 2097152 + e.2, e.1)).filter fun e => e.2 ≠ 0

/-- Its hypotheses hold wherever the constants that the implementation fixes allow an image that short. -/
theorem witness_loadSlot (ha : Config.arch = 0) (hb : Config.masterBytes = 2) : ∀ phase ∈ [phOff, phTraining, phEvaluating],
    (let s := adapting slotHbm fun a => { a with phase := phase }
     let m := cmd 96 [(0x11, 1, 1), (0x12, 1, 1), (0x50, 8, 16 * 2097152)]
     let t := takenState s 0x0A00 m
     let img := partBytes t 0 (16 * 2097152) (0x100 + Config.masterBytes)
     fits s 0x0A00 0x104 96 m (fun t c => adaptAction c.m = 1 && meets (getCell t 0) (fun x => mayAdapt t c.m.src (some x) none && slotState t x 1 ≠ 3) &&
       (getAdapt t 0).phase = phase && c.f 0x50 8 = 16 * 2097152) = true ∧
     meets (getPart t 0) (fun q => q.holds (16 * 2097152) (0x100 + Config.masterBytes)) = true ∧ slotImageOk img = true ∧
     crc64 (img.drop 0x100) = imgLe img 0x10 8 ∧ bf16Special (img.drop 0x100) = false) := by
  unfold slotImageOk
  rw [ha, hb]
  decide +kernel

/-! ### Messages and services -/

/-- A till of 64 slots that holds 1, its first slot a message of 16 bytes with this opcode. -/
def tillAt (n : Nat) (kind : BitVec 3) (used : BitVec 16) (s : State) : State :=
  let s := updTill s n fun t => { t with state := .running, kind := kind, prod := used, cons := 0, base := 24576, holder := .fn 0 }
  updHost s fun h => { h with tillMem := [(24576 * 64 + 4, 16)] }

theorem witness_MessagesActAsTheirCommands :
    (∀ e ∈ [(0, (0 : BitVec 3)), (100, 4)],
      (let s := tillAt e.1 e.2 1 hostPart
       let t := getTill s e.1
       t.state = .running ∧ t.kind = e.2 ∧ t.used = 1 ∧ lengthOk (imgLe (t.slotsFrom s.host.tillMem 1) 4 2) = true ∧
         ceilDiv (imgLe (t.slotsFrom s.host.tillMem 1) 4 2) 64 = 1 ∧ slotsBad s t 1 = false ∧
         slotsBad (updHost s fun h => { h with badSlots := [24576] }) t 1 = true ∧
         mayTake (passSlots s e.1 1) (parseMsg (tillSource s t) (some e.1) (t.slotsFrom s.host.tillMem 1)).2 = true)) ∧
    (let s := updHost (tillAt 0 0 1 hostPart) fun h => { h with tillMem := [(24576 * 64 + 4, 72)] }
     let t := getTill s 0
     lengthOk (imgLe (t.slotsFrom s.host.tillMem 1) 4 2) = true ∧ t.used < ceilDiv (imgLe (t.slotsFrom s.host.tillMem 1) 4 2) 64) := by decide +kernel

/-- The smallest service: one layer, one head, one position, one slot, one session, two frames. -/
def svcFields0 : List (Nat × Nat × Nat) :=
  [(0x10, 4, 1), (0x16, 2, 6), (0x1A, 2, 1), (0x1C, 1, 1), (0x1D, 1, 1), (0x1E, 2, 64), (0x20, 1, 5), (0x21, 1, 1), (0x22, 1, 1), (0x24, 2, 1), (0x26, 2, 1),
   (0x28, 2, 1), (0x2A, 2, 2), (0x38, 4, 2)]

/-- A best-effort image with plan rules, one constant of scale 1 and exponent 0, and a range of 64 pages. -/
def svcImage : List Byte :=
  layout 128 [(0x0C, 2, 2), (0x0E, 2, 3), (0x40, 2, 7), (0x44, 4, 1), (0x48, 4, 0x60), (0x4C, 4, 8), (0x50, 2, 11), (0x52, 2, 16), (0x54, 4, 1), (0x58, 4, 0x70),
    (0x5C, 4, 16), (0x60, 4, 0x3F800000), (0x78, 4, 64)]

def svcJob (run : Option Invocation) : Job := { job0 (inst0 []) with bestEffort := true, image := svcImage, run := run }

/-- Partition 0 with VLAN 6 of MAC 0 for services, and a KIND 4 till 0. -/
def svcState (run : Option Invocation) (f : State → State) : State :=
  let s := tillAt 96 4 0 (hosted (busy (svcJob run)))
  f (updWork s fun w => { w with parts := [(0, { part0 with vlans := [⟨0, 2, 6⟩] })] })

def svc0 : Svc := (takenCmd (svcState none id) 0x0900 (cmd 112 svcFields0)).newSvc 0

def page0 : KvPage := { KvPage.blank with state := pgResident, frame := some 1, hostSlot := some 0 }
def session0 (phase : Nat) : Session :=
  { id := 1, client := 5, share := false, phase := phase, total := 2, pages := [0], length := 1, held := [3], queued := [], decoded := false, root := some 4,
    drafts := [], prior := 0, compact := [], gen := some ⟨9, 1, 0, [], false⟩, asked := 0, eligible := 0, starved := some 0, forks := [], addr := 77, closing := none }

def withSvc (run : Option Invocation) (f : Svc → Svc) : State := svcState run fun s => { s with services := [(0, f svc0)] }

/-- A request of a client through the service's till. -/
def ask (len : Nat) (fs : List (Nat × Nat × Nat)) : Msg := { cmd len fs with src := .client 77, till := some 96 }

theorem witness_SvcOpenBinds :
    (∀ vid ∈ [6, 7], (let m := cmd 112 (svcFields0.map fun (f : Nat × Nat × Nat) => if f.1 = 0x16 then (0x16, 2, vid) else f)
      fits (svcState none id) 0x0900 0x200 112 m (fun t c => meets (getJob t (c.f 0x10 4)) fun j =>
        let v := c.newSvc j.part
        t.work.loading = [] && c.svcFields && v.paramsOk j.image && hostOf t m.src j.part && v.placedOk j.image && j.bestEffort && j.rules && j.byHost &&
          j.service = none && j.run = none && j.lostCore = 0 && !Tbl.has t.services (c.f 0x14 1) &&
          meets (getPart t j.part) (fun q => decide (v.f 0x18 2 < q.tillCount) && (q.vlans.any fun w => decide (w.mac = v.f 0x15 1 ∧ w.kind = 2 ∧ w.vid = v.f 0x16 2)) = decide (vid = 6)) &&
          (getTill t (partTill j.part (v.f 0x18 2))).state ≠ .unconfigured && (getTill t (partTill j.part (v.f 0x18 2))).kind = 4) = true)) ∧
    (∀ run ∈ [none, some run0], ∀ op ∈ [0x0901, 0x0902], fits (withSvc run id) op 0x200 24 (cmd 24 []) (fun t c => decide (c.f 0x10 1 ≤ 7) && c.zero 0x11 0x18 &&
      meets (getSvc t 0) fun v => hostOf t c.m.src v.part && v.closing = none && decide ((getJob t v.job).bind Job.run = run)) = true) := by decide +kernel

theorem witness_SessionRequests :
    (let s := withSvc (some run0) id
     let m := ask 40 [(0x16, 2, 1), (0x18, 4, 256)]
     m.till.bind (svcOfTill s) = some (0, svc0) ∧
     (let m := ask 40 [(0x16, 2, 1), (0x18, 4, 255)]
      fits s 0x0910 0 (8 * ceilDiv (32 + 4 * 1) 8) m (fun t c => meets (getSvc t 0) fun v => decide (c.f 0x16 2 = 1 ∧ c.f 0x18 4 = 255 ∧ c.f 0x14 2 = 0) && decide (255 + v.positions ≤ v.maxPages * 256) &&
        c.zero 0x1C 0x20 && c.tokensOk 1 && v.closing = none && decide (v.sessions.length < v.f 0x26 2) && v.session v.nextSession = none &&
        ((getJob t v.job).bind Job.run).isSome) = true)) ∧
    (let s := withSvc (some run0) fun v => { v with sessions := [session0 phOpening] }
     fits s 0x0911 0 (8 * ceilDiv (32 + 4 * 1) 8) (ask 40 [(0x10, 4, 1), (0x14, 2, 1)]) (fun t c => c.f 0x14 2 = 1 && c.zero 0x16 0x20 && c.tokensOk 1 &&
       meets (getSvc t 0) fun v => meets (v.session (c.f 0x10 4)) fun x => x.closing = none && x.phase = phOpening && decide (x.length + x.queued.length + 1 ≤ x.total)) = true) ∧
    (let s := withSvc (some run0) fun v => { v with sessions := [session0 phIdle] }
     fits s 0x0911 0 (8 * ceilDiv (32 + 4 * 1) 8) (ask 40 [(0x10, 4, 1), (0x14, 2, 1)]) (fun t c => c.f 0x14 2 = 1 && c.zero 0x16 0x20 && c.tokensOk 1 &&
       meets (getSvc t 0) fun v => meets (v.session (c.f 0x10 4)) fun x => x.closing = none && x.phase = phIdle &&
         decide (x.length + x.root.toList.length + 1 + v.positions ≤ v.maxPages * 256)) = true ∧
     fits s 0x0914 0 24 (ask 24 [(0x10, 4, 1)]) (fun t c => c.zero 0x14 0x18 && meets (getSvc t 0) fun v => meets (v.session 1) fun x => decide (x.phase < 4) && !v.inBatch x.id) = true) ∧
    (∀ e ∈ [(1, 255), (65535, 256)], (let s := withSvc (some run0) fun v => { v with sessions := [{ session0 phIdle with length := e.2 }] }
      fits s 0x0912 0 48 (ask 48 [(0x10, 4, 1), (0x14, 4, e.1), (0x28, 4, 1)]) (fun t c => decide (1 ≤ c.f 0x14 4 ∧ c.f 0x14 4 ≤ 65535 ∧ c.f 0x28 4 < 2) && c.zero 0x2C 0x30 &&
        meets (getSvc t 0) fun v => meets (v.session 1) fun x => x.phase = phIdle && decide (x.length + v.positions ≤ v.maxPages * 256) = decide (e.2 = 255)) = true)) ∧
    (let v := { svc0 with fields := (layout 112 (svcFields0.map fun (f : Nat × Nat × Nat) => if f.1 = 0x26 then (0x26, 2, 2) else f)).drop 16, nextSession := 2 }
     let s := withSvc (some run0) fun _ => { v with sessions := [session0 phIdle] }
     let b := withSvc (some run0) fun _ => { v with sessions := [session0 phGenerating], batches := [⟨0, false, [⟨1, [4], [0xFF]⟩]⟩] }
     fits s 0x0913 0 24 (ask 24 [(0x10, 4, 1)]) (fun t _ => meets (getSvc t 0) fun v => meets (v.session 1) fun x => !v.inBatch x.id && x.phase = phIdle &&
       decide (v.sessions.length < v.f 0x26 2) && v.session v.nextSession = none) = true ∧
     fits b 0x0913 0 24 (ask 24 [(0x10, 4, 1)]) (fun t _ => meets (getSvc t 0) fun v => meets (v.session 1) fun x => v.inBatch x.id && decide (x.phase ≠ phOpening ∧ x.phase < 4)) = true ∧
     fits b 0x0914 0 24 (ask 24 [(0x10, 4, 1)]) (fun t c => c.zero 0x14 0x18 && meets (getSvc t 0) fun v => v.inBatch 1) = true) := by decide +kernel

theorem witness_ServicesServeTheirSessions :
    (∀ busy ∈ [none, some 0], (let v : Svc := { svc0 with pages := [page0], copying := busy, loading := busy }
      (v.page 0).frame = some 1 ∧ (v.page 0).hostSlot = some 0 ∧ v.copying = busy ∧ v.loading = busy)) ∧
    (let v : Svc := { svc0 with sessions := [session0 phGenerating] }
     v.session 1 = some (session0 phGenerating) ∧ (session0 phGenerating).starved.isSome = true ∧ (session0 phGenerating).gen.isSome = true) ∧
    (let s := updMac (withSvc (some run0) id) 0 fun m => { m with up := true }
     (getMac s 1).up = false ∧ (getMac s 0).up = true ∧ vlanKind (countRx s 0) 0 6 = some 2 ∧ vlanKind (countRx s 0) 0 7 ≠ some 2 ∧
       meets (svcBound (countRx s 0) 0 0 6) (fun v => (getTill (countRx s 0) (partTill v.part (v.f 0x18 2))).state = .running) = true ∧
       svcBound (countRx s 0) 1 0 6 = none ∧ ceilDiv 16 64 ≤ (getTill s 96).slots - (getTill s 96).used ∧
       (let p := layout 18 [(6, 2, 16)]
        imgLe p 1 1 = 0 ∧ imgLe (p.drop 2) 4 2 = 16 ∧ ((p.drop 2).take 16).length = 16) ∧
       (let f := updTill s 96 fun t => { t with prod := 64 }
        (getTill f 96).slots - (getTill f 96).used < ceilDiv 16 64)) := by decide +kernel

theorem witness_StepPositionsHaveParentsAndMasks :
    (∀ n ∈ [0, 15], (let v : Svc := { svc0 with fields := (layout 112 ([(0x23, 1, n), (0x60, 1, 0xFF)] ++ (List.range 14).map fun k => (0x61 + k, 1, k))).drop 16 }
      v.draftN = n ∧ ∀ k < v.draftN, v.draftParent k = 0xFF ∨ v.draftParent k < k)) ∧
    (session0 phGenerating).phase = phGenerating ∧ ∀ g, (session0 phGenerating).gen = some g → g.speculate = false := by
  refine ⟨by decide +kernel, rfl, ?_⟩
  rintro g ⟨⟩; rfl

theorem witness_EveryStepKeepsMemoriesFusesAndOrder :
    Sys2Proof.Machine.Inv State.reset → Sys2Proof.Machine.Inv { ready with pending := [.holdoverLimitExpiry] } ∧
      ∃ t, step { ready with pending := [.holdoverLimitExpiry] } = .next t := fun h => ⟨h, _, rfl⟩

/-! ### Further forms -/

/-- An image with sections (type, records, bytes), one after the other behind the directory. -/
def sections (secs : List (Nat × Nat × List Byte)) : List Byte :=
  let n := secs.length
  let place := fun k => 0x40 + 16 * n + sumNat ((secs.take k).map fun x => x.2.2.length)
  layout 0x40 [(0x0C, 2, n)] ++ (secs.zipIdx.flatMap fun e => layout 16 [(0, 2, e.1.1), (4, 4, e.1.2.1), (8, 4, place e.2), (0xC, 4, e.1.2.2.length)])
    ++ secs.flatMap fun x => x.2.2

/-- An image whose stream 0 is minted in tiles of one F32 element from stream 1, scaled as SCALE_MODE says by stream 2; its digest point 0 takes
one tile of it every EVERY epochs. -/
def mintImage (scaleMode every : Nat) : List Byte :=
  sections [(1, 1, layout 32 []), (2, 1, layout 16 [(1, 1, 1), (2, 2, 1), (4, 2, 1), (6, 2, 1), (12, 1, scaleMode)]), (3, 3, layout 96 []),
    (7, 1, layout 64 [(0, 2, 1), (0x12, 2, 1), (0x2C, 2, 2)]), (0xC, 1, layout 16 [(8, 2, 1), (10, 2, every)])]

theorem witness_MintAndDigestForms : ∀ mode ∈ [0, 2], ∀ every ∈ [2, 3],
    (let s := busy { job0 { inst0 [7 + 2 ^ 112] with rings := [⟨0, 64, 1, 2, [0], 0, 0⟩] } with image := mintImage mode every }
     meets (issuing s 0 7) (fun e =>
       let j := mintJob e.1 e.2
       let i := e.1.inst
       !(i.issued.any fun y => y.unit = .vector) && j.out.scaleMode = mode && j.f 0 1 = 0 && j.f 2 2 = 1 && j.f 0x1C 2 = 2 &&
         (i.ringOf (stStream e.2) true).isSome && bits (stArg e.2) 31 16 = 1 && j.out.planes = 1 && j.out.rows = 1 &&
         i.tileSlot (stStream e.2) (i.taken (stStream e.2)) true = some 64) = true) ∧
    (let s := busy { job0 { inst0 [10] with epoch := 2 } with image := mintImage mode every }
     meets (issuing s 0 10) (fun e => digestEmits e.1.job (stArg e.2) e.1.inst.epoch = decide (every = 2)) = true) := by decide +kernel

theorem witness_StallAfterASecond :
    (let s := updTiming (busy (job0 { inst0 [2 ^ 24 + 5 * 2 ^ 40] with binds := [⟨3, 0, 0, 0, [1], 1⟩] })) fun t => { t with time := mkTime 1000000000 0 }
     meets (nextStep s 0) (fun e => meets (e.1.inst.bind (stWaitBind e.2)) fun b => !waitMet s 0 e.1 e.2 && b.kind ≠ 2 &&
       decide (e.1.inst.waitSince + 1000000000 ≤ nowNs s)) = true) := by decide +kernel

theorem witness_DispatchKeepsTables :
    (let s := updCore (busy (yieldJob { inst0 [] with phase := .between })) 0 fun k => { k with run := none, ready := [1], tables := some 1 }
     meets (nextReady s 0) (fun h => meets (getJob s h) fun j => meets (j.instOn 0) fun i => i.phase ≠ .saved && (getCore s 0).tables = some h) = true) := by
  decide +kernel

theorem witness_TallyReadBad :
    (let s := updTally hostPart 0 fun t => { t with bad := true }
     fits s 0x0401 0x100 24 (cmd 24 []) (fun t c => names t c && decide (c.f 0x14 4 < part0.tallyCount) && (getTally t (tallyOf t 0 0)).bad) = true) ∧
    (getTally hostPart (tallyOf hostPart 0 15)).bad = false := by decide +kernel

/-- A barrier of one member, posted at second 0; protocol 2. -/
def barrierState (ns : Nat) (protocol : BitVec 2) : State :=
  updRelne (updTally (updTiming hostPart fun t => { t with time := mkTime ns 0 }) 3 fun t =>
    { t with value := 2, barrier := some 1, recent := [⟨2, 0, 0⟩] }) fun r => { r with protocol := protocol }

def clipImage (limit : Nat) : List Byte :=
  sections [(1, 1, layout 32 []), (7, 1, layout 64 [(0, 2, 1), (0x26, 2, limit)])]

def mint0 : MintCount := { station := 0, entry := 0, layerTag := 0, total := 4, clipped := 1, nan := 0, epochs := [(0, 4, 1)], sent := false }

theorem witness_MonitorsAndVisibilityForms :
    (∀ v ∈ [1, 0], (let s := updTally (updWork hostPart fun w => { w with monitors := [⟨1, 0, 0, 1, 5, 0, .fn 0⟩] }) 0 fun t => { t with value := BitVec.ofNat 64 v }
      s.work.monitors.any (fun x => decide (x.part = 0 ∧ x.index = 0 ∧ x.threshold ≤ (getTally s (tallyOf s 0 0)).value.toNat)) = decide (v = 1))) ∧
    (∀ ns ∈ [5000, 4999], (let s := updTiming (updWork hostPart fun w => { w with monitors := [⟨1, 0, 0, 1, 5, 0, .fn 0⟩] }) fun t => { t with time := mkTime ns 0 }
      ∀ x ∈ s.work.monitors, x.timeout ≠ 0 ∧ (x.armed + 1000 * x.timeout ≤ nowNs s ↔ ns = 5000))) ∧
    (∀ e ∈ [(2000, (2 : BitVec 2)), (1999, 2), (1999, 1)], (let s := barrierState e.1 e.2
      (getTally s 3).barrier = some 1 ∧ releaseTime (getTally s 3) = some 2000 ∧ (2000 ≤ nowNs s ↔ e.1 = 2000) ∧ s.net.relne.protocol.toNat = e.2.toNat)) ∧
    (let s := busy { job0 { inst0 [] with epoch := 1 } with image := mintImage 0 2, run := some { run0 with digests := [⟨0, 0, 0, []⟩] } }
     meets (getJob s 1) (fun j => meets j.run fun r => (digestParts j r 0 0).isSome && decide (digestField j.image 0 10 2 ≠ 0)) = true) ∧
    (∀ limit ∈ [0, 1, 65535], (let s := busy { job0 { inst0 [] with epoch := 1 } with image := clipImage limit, run := some { run0 with mints := [mint0] } }
      meets (getJob s 1) (fun j => meets j.run fun r => stationDone j 0 0 && constField j.image (stationField j.image 0 0x0C 4) 2 = 1 &&
        r.mints.find? (fun m => m.station = 0 ∧ m.entry = 0) = some mint0 && constField j.image (stationField j.image 0 0x0C 4 + 16 + 0x16) 2 = limit &&
        decide (limit * 4 < 1 * 65536) = decide (limit < 16384)) = true)) := by decide +kernel

theorem placeFully_refused {s : State} {h : Nat} {j : Job} {q : Part} (hq : getPart s j.part = some q)
    (hp : accepted (placing j.image (placeInput s h q j) (Config.place (placeInput s h q j))) (fun _ => true) = false) :
    ∃ d, placeFully s h j = .inr d := by
  unfold placeFully placeJob
  rw [hq]
  dsimp only
  split <;> rename_i e <;> rw [e] at hp
  · exact ⟨_, rfl⟩
  · cases hp

/-- Job 1 of PF0 has lost its cores. -/
def lost1 : Job := { load1 with lostCore := 1 }
def startState : State := updWork imageState fun w => { w with jobs := [(1, lost1)] }
def startMsg : Msg := cmd 24 [(0x10, 4, 1)]

theorem witness_JobsStartAgain :
    fits startState 0x0301 0x100 24 startMsg (fun t c => c.zero 0x14 0x18 && !(t.work.loading.any fun l => l.handle = c.f 0x10 4) && isRoot c.m.src &&
      meets (getJob t (c.f 0x10 4)) fun j => j.kind = .host && j.service = none && j.run = none && j.lostCore = 1) = true ∧
    (let s := hosted (busy { job0 (inst0 []) with run := some { run0 with ending := true } })
     fits s 0x0302 0x100 24 (cmd 24 [(0x10, 4, 1)]) (fun t c => c.f 0x14 1 = 0 && c.zero 0x15 0x18 && meets (getJob t (c.f 0x10 4)) fun j =>
       j.kind = .host && j.lostCore = 0 && meets j.run fun r => r.ending) = true) := by decide +kernel

set_option maxRecDepth 40000 in
theorem witness_placingStart : accepted (placing lost1.image (placeInput (takenState startState 0x0301 startMsg) 1 part0 lost1) pick1) (fun p =>
      check12 part0 (lost1.withPlacement p) = none) = true ∧
    accepted (placing lost1.image (placeInput (takenState startState 0x0301 startMsg) 1 part0 lost1) { pick1 with homes := [(0, 0, 5)] }) (fun _ => true) = false := by
  decide +kernel

/-- The release's choices are not given: with these the job is placed again, with a home outside the partition it is refused. -/
theorem witness_startPlacesAgain :
    ((∀ x, Config.place x = pick1) → ∃ p, placeFully (takenState startState 0x0301 startMsg) 1 lost1 = .inl (lost1.withPlacement p)) ∧
    ((∀ x, Config.place x = { pick1 with homes := [(0, 0, 5)] }) → ∃ d, placeFully (takenState startState 0x0301 startMsg) 1 lost1 = .inr d) := by
  refine ⟨fun h => placeFully_accepted (q := part0) (by decide +kernel) ?_, fun h => placeFully_refused (q := part0) (by decide +kernel) ?_⟩ <;> rw [h]
  · exact witness_placingStart.1
  · exact witness_placingStart.2

theorem witness_SessionsAndTillsForms :
    (∀ e ∈ ([(0x1FF07, 0x10F04, none), (0, 0, none), (0x10600, 0, some (1, 6)), (0x10606, 0x10F04, some (1, 6))] : List (Nat × Nat × Option (Nat × Nat))),
      fits (withPart part0 ready) 0x0000 0 32 (cmd 32 [(0x10, 4, e.1), (0x14, 4, e.2.1)]) (fun t c => decide (c.f 0x10 4 < 2 ^ 17 ∧ c.f 0x14 4 < 2 ^ 17) &&
        c.zero 0x1C 0x20 && sessionOf t c.m.src = none && !offerBad (c.f 0x10 4) && !offerBad (c.f 0x14 4) && offerOverlap (c.f 0x14 4) 2 = none &&
        (offerOverlap (c.f 0x10 4) 1).map (fun n => (1, n)) = e.2.2) = true) ∧
    (∀ e ∈ [(0xFFFF, 3), (0xFFFF, 511), (6, 3)],
      (let s := updTill hostPart (partTill 0 6) fun t => { t with kind := 1 }
       fits s 0x0002 0x100 48 (cmd 48 [(0x10, 2, 7), (0x16, 2, e.2), (0x18, 2, 2047), (0x1A, 2, e.1)]) (fun t c => c.zero 0x1D 0x20 && c.zero 0x28 0x30 &&
         tillCodesOk c && tillFieldsOk c && hostOf t c.m.src 0 && decide (c.f 0x10 2 < part0.tillCount) && c.f 0x12 1 = 0 && c.f 0x13 1 = 0 &&
         (decide (c.f 0x1A 2 = 0xFFFF) || (decide (c.f 0x1A 2 < part0.tillCount) && (getTill t (partTill 0 (c.f 0x1A 2))).kind = 1)) &&
         (getTill t (partTill 0 7)).state ≠ .running && !doorbellBound t 0 (c.f 0x16 2) (partTill 0 7) &&
         (freeSlots t (partTill 0 7) (64 * 2 ^ c.f 0x14 1)).isSome) = true)) ∧
    (let s := updTill hostPart (partTill 0 7) fun t => { t with state := .stopped }
     fits s 0x0003 0x100 24 { cmd 24 [(0x10, 2, 7)] with src := .fn 1, till := some 3 } (fun t c => decide (c.f 0x10 2 ≤ 8191) && c.zero 0x12 0x18 &&
       resetTarget t c.m.src (c.f 0x10 2) = some (partTill 0 7) && (getTill t (partTill 0 7)).state = .stopped) = true) := by decide +kernel

theorem witness_FunctionRegistersForms :
    (let s := updFn hostPart 1 fun k => { k with heldVectors := [2047], msixEnable := true, msixTable := [] }
     served s 1 = true ∧ 2047 ∈ (getFn s 1).heldVectors ∧ (getFn s 1).msixEnable = true ∧ vectorMasked (getFn s 1) 2047 = true ∧ 2046 ∉ (getFn s 1).heldVectors) ∧
    boundTo hostPart 0 = none ∧ (16 : BitVec 32).toNat % 8192 = part0.tallyCount ∧ (8207 : BitVec 32).toNat % 8192 < part0.tallyCount ∧
    (1 : BitVec 32).getLsbD 0 = true ∧ (2 : BitVec 32).getLsbD 0 = false := by decide +kernel

theorem witness_RegisterWritesForms :
    (let s := updChip hostPart fun c => { c with mw4Sel := true }
     meets (presented s 0) (fun q => (q.phys (4 * 2097152 - 1)).isSome && q.phys (4 * 2097152) = none) = true) ∧
    presented hostPart 1 = some part0 ∧
    (∀ n ∈ [4, 40], (let s := updChip ready fun c => { c with vfEnable := true, numVFs := 31 }
      s.host.chip.vfEnable = true ∧ (s.host.chip.numVFs = min n 31 ↔ n = 40) ∧ present s 31 = true)) ∧
    (∀ e ∈ [(0x0FFF, 2), (0x0FFE, 3)], e.1 < 0x1000 ∧ 4 < e.1 % 4 + e.2) ∧ (∀ e ∈ [(0x0FFC, 3), (0, 1)], e.1 % 4 + e.2 ≤ 4 ∧ e.2 < 4) := by decide +kernel

theorem witness_FunctionResetsForms :
    State.reset.sys.boot ≠ none ∧ hostPart.sys.boot = none ∧ (∃ g : Fin 32, g.val ≠ 0 ∧ present hostPart g.val = true) ∧
    (let s := updFn (updFn hostPart 0 fun k => { k with resetting := true }) 0 fun k => { k with irqCause := 3 }
     (getFn s 0).resetting = true ∧ (getFn s 0).softReset = false) := by
  refine ⟨by decide +kernel, by decide +kernel, ⟨4, by decide +kernel⟩, by decide +kernel⟩

/-- MAC 0 is up and holds the receive key of the AN. -/
def macKeyed (an : Bool) : State := updMac (updSec macUp fun x => { x with saks := [(sakSlot 0 1 an, ⟨0, 0, 0, 0⟩)] }) 0 fun m => { m with rxNew := true }

theorem witness_MacsForms :
    (getMac ready 0).up = false ∧ 63 < 64 ∧ (∀ len ∈ [64, 9216, 9217], (let f : RxFrame := { frame0 with length := len }
      64 ≤ f.length ∧ (9216 < f.length ↔ len = 9217))) ∧
    (∀ e ∈ [(0x88F7, false), (0x88CC, false), (0x8809, true)], (let f : RxFrame := { frame0 with etherType := e.1, esmc := e.2 }
      f.vlans = [] ∧ (f.etherType = 0x88F7 ∨ f.etherType = 0x88CC ∨ (f.etherType = 0x8809 ∧ f.esmc = true)))) ∧
    (let f : RxFrame := { frame0 with etherType := 0x8809 }
     ¬ (f.etherType = 0x88F7 ∨ f.etherType = 0x88CC ∨ (f.etherType = 0x8809 ∧ f.esmc = true))) ∧
    ({ frame0 with vlans := [5, 6] } : RxFrame).vlans = 5 :: 6 :: [] ∧
    vlanKind macUp 0 5 = some 0 ∧ vlanKind macUp 0 6 = some 2 ∧ vlanKind macUp 0 7 = some 3 ∧
    vlanKind (updMac ready 0 fun m => { m with up := true }) 0 7 = none ∧
    vlanKind (updMac (withPart { part0 with vlans := [⟨0, 1, 5⟩] } ready) 0 fun m => { m with up := true }) 0 5 = some 1 ∧
    (∀ an ∈ [false, true], (let s := macKeyed an
      (getMac s 0).up = true ∧ (getMac s 0).en = true ∧ (getMac s 0).classMask.getLsbD 0 = true ∧ vlanKind s 0 5 = some 0 ∧ rxAccepts s 0 an = true ∧
        rxAccepts s 0 (!an) = false ∧ (an = (getMac s 0).rxNew ↔ an = true))) ∧
    (∀ src ∈ [(0 : Nat), 1], (let s := updTiming macUp fun t => { t with esmcEn := true, src0 := BitVec.ofNat 3 src, src1 := BitVec.ofNat 3 (1 - src) }
      (s.net.timing.src0.toNat = 0 ↔ src = 0) ∧ (s.net.timing.src1.toNat = 0 ↔ src = 1) ∧ s.net.timing.esmcEn = true)) ∧
    macUp.net.timing.esmcEn = false ∧ (0 : BitVec 32).getLsbD 0 = false := by decide +kernel

/-- A port in the VLAN of PTP, of a device under the unicast profile. -/
def ptpGranted : State :=
  updTiming (updPtp (updMac (withPart { part0 with vlans := [⟨0, 1, 5⟩] } ready) 0 fun m => { m with up := true }) 0 fun q =>
    { q with en := true, portState := 6, tagged := true, vlan := 5, grants := [(3, 9, 0)] }) fun t => { t with profile := true }

def parent0 (priority2 : BitVec 8) : Parent :=
  { identity := 8, clockClass := 6, accuracy := 0, variance := 0, priority2 := priority2, utcOffset := 0, leap61 := false, leap59 := false }

theorem witness_PtpForms :
    (∀ v ∈ [none, some 5], (let rx : PtpRx := { rx0 with vlan := v }
      rx.vlan = none ∨ ((getPtp ptpGranted 0).tagged = true ∧ rx.vlan = some (getPtp ptpGranted 0).vlan.toNat ∧ vlanKind ptpGranted 0 5 = some 1))) ∧
    (getMac ptpGranted 0).up = true ∧ rx0.domain = ptpGranted.net.timing.domain.toNat ∧ (ptpTakes ptpGranted { rx0 with vlan := some 6 }).2 = none ∧
    (getMac ready 0).up = false ∧ ptpGranted.net.timing.profile = true ∧ 3 ∈ (getPtp ptpGranted 0).peers 9 ∧ 4 ∉ (getPtp ptpGranted 0).peers 9 ∧
    (∀ e ∈ [(7, true), (8, false), (9, false)], (let s := ptpAt 9 fun q => { q with parent := some (parent0 8) }
      (getPtp s 0).parent = some (parent0 8) ∧ ¬ (9 = (parent0 8).identity) ∧
        lexLt { parent0 (BitVec.ofNat 8 e.1) with identity := 9 }.rank (parent0 8).rank = e.2)) ∧
    (getPtp (ptpAt 6 id) 0).portState = 6 ∧ (getPtp (ptpAt 9 id) 0).portState = 9 ∧ (getPtp (ptpAt 6 id) 0).portState ≠ 9 ∧ (getPtp (ptpAt 9 id) 0).portState ≠ 6 := by
  decide +kernel

theorem witness_TimeForms :
    14073748835 < (14073748836 : Int).natAbs ∧
    (∀ e ∈ [((65536000 : Int), false), (65536001, true), (-65536001, true)],
      (let s := updTiming ready fun t => { t with state := .locked, todSeconds := some 0, source := 2 }
       let edge := e.1 - s.net.timing.ppsInDelay.toInt * 65536
       let d := edge - (edge + 32768000000000) / 65536000000000 * 65536000000000
       ((s.net.timing.state = .locked ∨ s.net.timing.state = .holdover) ∧ 65536000 < d.natAbs) ↔ e.2 = true)) ∧
    (let s := updTiming ready fun t => { t with linkTime := true, source := 2, state := .holdover }
     s.net.timing.linkTime = true ∧ s.net.timing.state = .holdover) ∧ ready.net.timing.source ≠ 2 ∧
    (∀ ns ∈ [99999999, 900000001], (let s := updTiming ready fun t => { t with ppsEdge := some 0, time := mkTime ns 0 }
      s.net.timing.ppsEdge = some 0 ∧ (nowNs s < 0 + 100000000 ∨ 0 + 900000000 < nowNs s))) ∧
    ready.net.timing.ppsEdge = none ∧ ready.net.timing.ppsOutEn = false ∧ ready.net.timing.todOutEn = false ∧ ready.net.timing.state ≠ .holdover ∧
    (updSec (updTiming ready fun t => { t with state := .locked }) fun x => { x with aonRuns := false }).sec.aonRuns = false ∧
    (∀ e ∈ [(24, 0, 2, true), (43, 1, 0, true), (44, 4, 1, true), (63, 5, 2, true), (23, 1, 0, false), (64, 5, 2, false)],
      (let v : BitVec 32 := BitVec.ofNat 32 (e.1 * 65536 + e.2.1)
       let dom := (v.extractLsb' 16 8).toNat
       v.toNat % 4 ≠ 3 ∧ ((if v.getLsbD 2 then 44 ≤ dom ∧ dom ≤ 63 else 24 ≤ dom ∧ dom ≤ 43) ↔ e.2.2.2 = true))) ∧
    (∀ e ∈ [(SyncState.locked, (1 : Nat)), (.acquiring, 1), (.freeRun, 1), (.holdover, 2), (.locked, 2)],
      (let s := updTiming ready fun t => { t with state := e.1, source := 2 }
       s.net.timing.state = e.1 ∧ s.net.timing.linkTime = false ∧ (e.2 = s.net.timing.source.toNat ↔ e.2 = 2))) := by decide +kernel

theorem witness_RelneForms :
    (∀ miswired, ∀ members ∈ [1, 2], (let s := updRelne grouped fun r =>
      { r with ports := { RelnePort.down with up := true, miswired := miswired } :: List.replicate 3 RelnePort.down, members := BitVec.ofNat 5 members }
      (getPort s 0).up = true ∧ (getPort s 0).miswired = miswired ∧ (1 < s.net.relne.members.toNat ↔ members = 2) ∧ (linkCarries s 0 = true ↔ members = 2 ∧ miswired = false))) ∧
    (getPort grouped 1).up = false ∧ ready.net.relne.unsettled = false ∧ ready.net.relne.followsLink = false ∧ taggedJob grouped 0 8 = none ∧
    linkCarries grouped 3 = false ∧ (updRelne ready fun r => { r with portEn := 7 }).net.relne.portEn.getLsbD 3 = false ∧
    (1 : BitVec 8).getLsbD 1 = false ∧ (1 : BitVec 8).getLsbD 2 = false ∧ (4 : BitVec 8).getLsbD 2 = true ∧
    (updRelne grouped fun r => { r with joined := true }).net.relne.joined = true ∧ (updRelne grouped fun r => { r with joined := true }).net.relne.followsLink = true ∧
    (List.replicate 15 (⟨1, 0, 1⟩ : GroupPeer)).length ≤ 15 ∧ 15 < (List.replicate 16 (⟨1, 0, 1⟩ : GroupPeer)).length := by decide +kernel

theorem witness_PowerForms :
    (∀ p ∈ [0, 7], (let s := updPower (withPart part0 ready) fun w => { w with orders := [⟨3, some p, 10000⟩], flowStopped := true }
      s.power.orders = [⟨3, some p, 10000⟩] ∧ s.power.flowStopped = true ∧ (getPart s p).isSome = decide (p = 0))) ∧
    (let s := updPower hostPart fun w => { w with orders := [⟨3, some 0, 10000⟩] }
     (applyCaps s).power.flowStopped = false ∧ ((applyCaps s).work.parts.map Prod.fst).Nodup ∧ loadsNow (applyCaps s) ≠ []) ∧
    nth false (updPower ready fun w => { w with busFailed := [true, false] }).power.busFailed 0 = true ∧
    nth false (updPower ready fun w => { w with busFailed := [true, false] }).power.busFailed 1 = false ∧ ready.power.binding = false ∧
    (let s := updPower (updPartPower hostPart 0 fun w => { w with capMask := 255 }) fun w => { w with binding := true }
     s.power.binding = true ∧ capSkips s = true) ∧
    (getDie ready 1).slewing = false ∧ (getDie ready 0).timedOut = false ∧ (2 ≤ 5 ∨ (getDie ready 5).timedOut = false) ∧
    (∀ out, (updPower ready fun w => { w with prochotOut := out, prochotIn := !out }).power.prochotOut = out) ∧
    (let s := updPower ready fun w => { w with flowStopped := true, flowRestart := true }
     s.power.flowStopped = true ∧ s.power.flowRestart = true ∧ s.sys.boot = none) ∧
    (let s := updPower ready fun w => { w with flowStopped := true, temps := List.replicate 79 0 ++ [85 * 256] }
     tempOf s 79 = 85 * 256 ∧ s.power.flowRestart = false) ∧
    (updPower State.reset fun w => { w with flowRestart := true }).power.flowRestart = true ∧ State.reset.sys.boot.isSome = true ∧
    (updSys ready fun y => { y with clocks := false }).sys.clocks = false := by decide +kernel

theorem witness_ReliabilityForms :
    (0, 0, 0, 0) ∈ (updRel ready fun r => { r with scrubbed := [(0, 0, 0, 0)] }).rel.scrubbed ∧
    (let s := updRel ready fun r => { r with tests := [⟨1, 3, 0, [⟨0, 71⟩], [], 0, []⟩] }
     disabled s 0 71 = true ∧ reenabling s ⟨0, 71⟩ = true ∧ disabled s 0 63 = false ∧ (getTest s ⟨0, 63⟩).due = false ∧ named s ⟨0, 63⟩ = false) ∧
    (let s := updRel ready fun r => { r with tests := [⟨1, 0, 0, [⟨1, 15⟩, ⟨1, 16⟩, ⟨0, 63⟩], [], 0, []⟩] }
     named s ⟨1, 15⟩ = true ∧ named s ⟨1, 16⟩ = true ∧ disabled s 1 15 = false ∧ disabled s 3 15 = false ∧ named s ⟨0, 63⟩ = true ∧ admissible s 63 = true) ∧
    (let s := updTest (busy (job0 (inst0 []))) ⟨0, 0⟩ fun t => { t with due := true }
     disabled s 0 0 = false ∧ (getTest s ⟨0, 0⟩).due = true ∧ admissible s 0 = false) ∧
    (updRel ready fun r => { r with pairs := [⟨[], true⟩] }).rel.pairs[0]? = some ⟨[], true⟩ ∧ bistRuns ready = false ∧ ready.rel.flashPending = [] ∧
    ready.rel.mapPending = [] ∧ (updSys ready fun y => { y with clocks := false }).sys.clocks = false ∧ kindCount 3 = 16 ∧ kindCount 2 = 8 ∧ kindCount 1 = 24 := by
  decide +kernel

theorem witness_SecurityForms :
    (let s := updSec ready fun x => { x with sakDir := true, sakMac := 7, sakAn := true }
     s.sec.sakDir = true ∧ s.sec.sakMac.toNat < s.net.macs.length ∧ sakInUse s = false) ∧
    (∀ n ∈ [0, 1, 2, 3], (let v : BitVec 32 := BitVec.ofNat 32 n
      v.toNat % 4 = n ∧ (v.getLsbD 0 = true ↔ n = 1 ∨ n = 3))) ∧
    (updSec ready fun x => { x with stuck := true }).sec.stuck = true ∧ (updSec ready fun x => { x with aonRuns := false }).sec.aonRuns = false ∧
    ready.sec.staging = none ∧ ready.sec.lc ≠ lcReturned ∧ (updSec ready fun x => { x with lc := 0 }).sec.lc = 0 ∧ (lcMaker ≠ 0 ∧ lcMaker ≠ lcReturned) ∧
    ready.sec.sealMisses = 0 ∧ ready.sec.sealArmed = false := by decide +kernel

theorem witness_RestartForms :
    (∀ b ∈ [none, some Boot.halted], (let s := updSys ready fun y => { y with boot := b }
      s.sys.boot = none ∨ s.sys.boot = some .halted)) ∧
    (∀ b ∈ [Boot.cold, .warmSame, .warmOther], (let s := updSys State.reset fun y => { y with boot := some b }
      s.sys.boot = some b ∧ b ≠ .halted ∧ s.sys.clocks = true ∧ s.power.flowStopped = false)) ∧
    (updPower State.reset fun w => { w with flowStopped := true }).power.flowStopped = true ∧ ready.sys.recovery = false ∧
    (updSys ready fun y => { y with bootStopped := true }).sys.bootStopped = true ∧ (updSys ready fun y => { y with fatal := true }).sys.fatal = true := by
  decide +kernel

theorem witness_ManagementForms :
    mgmtServes ready 2 = false ∧ mgmtServes (updMgmt ready fun m => { m with transports := [{ Transport.reset with timeout := true }] }) 0 = false ∧
    (∀ level ∈ [0, 1, 2, 3], (let s := updSec ready fun x => { x with spdm := level }
      mgmtServes s 0 = true ∧ s.sec.lc ≠ Sys2Proof.Machine.lcVoid ∧ (s.sec.spdm < 1 ↔ level = 0) ∧ (s.sec.spdm < 3 ↔ level ≠ 3))) ∧
    (0x7F : BitVec 32).getLsbD 7 = false ∧ (1 : BitVec 32).getLsbD 1 = false ∧ numericSensor ready 0x150 = none ∧ stateSensor ready 0x14F = none ∧
    ready.mgmt.update = none ∧ (commitRec (writeCommit ready { commitRec ready with trial := true })).trial = true ∧
    (let s := updMgmt (updSys (updSec ready fun x => { x with stagedVersion := 1 }) fun y => { y with version := 2 }) fun m => { m with update := some ⟨[], true⟩ }
     lowerStaged s = true ∧ presence s = false ∧ presence (present_ s) = true ∧ s.mgmt.update = some ⟨[], true⟩) ∧
    (updMgmt ready fun m => { m with update := some ⟨[], false⟩ }).mgmt.update = some ⟨[], false⟩ ∧ (3 : Nat) ∉ [0, 1, 5, 0x7E] ∧
    33554432 < 33554432 + ([0] : List Byte).length ∧ (nth Transport.reset ready.mgmt.transports 1).queue = [] := by decide +kernel

theorem witness_OpticsForms :
    slotServed optics0 8 = false ∧ slotServed ready 7 = false ∧ slotServed (updBus optics0 1 fun x => { x with state := 1 }) 7 = false ∧
    (∀ managed, (let s := updSlot optics0 7 fun x => { x with present := true, managed := managed }
      slotServed s 7 = true ∧ (getSlot s 7).present = true ∧ (getSlot s 7).managed = managed)) ∧
    (getBus optics0 1).state ≠ 1 ∧ (∀ attempt ∈ [2, 3], (let s := updBus optics0 1 fun x => { x with state := 1, attempt := attempt }
      (getBus s 1).state = 1 ∧ ((getBus s 1).attempt < 3 ↔ attempt = 2))) ∧
    checkable (updIndicator optics0 0 fun x => { x with holdoff := true }) (getIndicator (updIndicator optics0 0 fun x => { x with holdoff := true }) 0) = false ∧
    (2 : BitVec 32).getLsbD 1 = true ∧ (2 : BitVec 32).getLsbD 0 = false := by decide +kernel

theorem witness_DownlinkForms :
    (∀ p ∈ [dl0, { dl0 with codewords := 3 }], (keepDl (radioCell id) [p]).1 = (if p.codewords = 1 then [dl0] else []) ∧
      (keepDl (radioCell id) [p]).2 = decide (p.codewords ≠ 1)) ∧
    (let c := radioCell fun c => { c with dl := [{ slot := 13200, pdus := [dl0], dci := [], tx := [], encoded := [(0, 0)], given := true, built := true }] }
     (c.dlSlot 13200).built = true ∧ (0, 0) ∈ (c.dlSlot 13200).encoded ∧ (c.dlSlot 13201).built = false ∧ (c.dlSlot 13200).all ≠ []) ∧
    (let c := radioCell fun c => { c with dl := [{ slot := 13200, pdus := [], dci := [], tx := [], encoded := [], given := true, built := true }] }
     (c.dlSlot 13200).built = true ∧ (c.dlSlot 13200).all = []) ∧
    (let c := radioCell fun c => { c with symPosts := [(c.symTile 13200 0, 10 ^ 12)] }
     Tbl.find c.symPosts (c.symTile 13200 0) = some (10 ^ 12) ∧ bit (c.pattern 13200).2 0 = true ∧
       c.symStart 13200 0 - (egressField (radio id) c 0x0C 4 + 2000 : Nat) * 96 < ((10 ^ 12 * 96 : Nat) : Int)) ∧
    bit ((radioCell id).pattern 13200).2 13 = false ∧ Tbl.find (radioCell id).symPosts ((radioCell id).symTile 13200 13) = none ∧
    (radioCell fun c => { c with stopping := some (1, 2) }).stopping.isSome = true := by decide +kernel

/-- How long a block takes is not given; it takes a cycle at least, and a window either holds it or is too short. -/
theorem witness_DownlinkWindows (len : Nat) :
    (let s := updWork (radio id) fun w => { w with jobs := [(2, { job0 (inst0 []) with kind := .cellDown 0, windows := [(3, 1, 0, len)] })] }
     (getJob s (radioCell id).down).map (·.windows) = some [(3, 1, 0, len)]) ∧
    ((∃ w ∈ [((3 : Nat), (1 : Nat), (0 : Nat), len)], w.1 = 3 ∧ w.2.1 = 1 ∧ dlBlockCycles dl0 0 ≤ w.2.2.2) ↔ dlBlockCycles dl0 0 ≤ len) ∧
    0 < dlBlockCycles dl0 0 := by
  refine ⟨rfl, by simp, ?_⟩
  simp only [dlBlockCycles]
  split <;> omega

/-- Till 0 holds a message of these bytes. -/
def tillWith (m : Mem) : State := updHost (tillAt 0 0 1 hostPart) fun h => { h with tillMem := m }

theorem witness_MessageForms :
    (∀ len ∈ [15, 17, 4104], (let s := tillWith [(24576 * 64 + 4, BitVec.ofNat 8 len), (24576 * 64 + 5, BitVec.ofNat 8 (len / 256))]
      let t := getTill s 0
      t.state = .running ∧ t.kind = 0 ∧ t.used ≠ 0 ∧ lengthOk (imgLe (t.slotsFrom s.host.tillMem 1) 4 2) = false ∧
        mayTake s (parseMsg (tillSource s t) (some 0) (t.slotsFrom s.host.tillMem 1)).2 = true)) ∧
    (∀ op ∈ [0x0000, 0x0C03, 0x0800, 0x0A00, 0x0FFF], (let s := tillWith [(24576 * 64, BitVec.ofNat 8 op), (24576 * 64 + 1, BitVec.ofNat 8 (op / 256)), (24576 * 64 + 4, 16)]
      let t := getTill s 0
      let w := passSlots s 0 1
      let p := parseMsg (tillSource s t) (some 0) (t.slotsFrom s.host.tillMem 1)
      p.1 = op ∧ mayTake w p.2 = true ∧ (hostOp p.1 = none ↔ op = 0x0FFF))) ∧
    (∀ act ∈ [0, 1, 2, 3, 4], adaptAction (cmd 96 [(0x11, 1, act)]) = act) ∧
    (let s := tillWith [(24576 * 64 + 2, 1), (24576 * 64 + 4, 16)]
     let s := updHost s fun h => { h with tickets := [{ id := 1, src := .fn 0, till := some 0, reply := 0, opcode := 0, seq := 0, tag := 0, via := (0, 0) }] }
     let t := getTill s 0
     mayTake s (parseMsg (tillSource s t) (some 0) (t.slotsFrom s.host.tillMem 1)).2 = false) ∧
    (getTill (updTill hostPart 0 fun t => { t with state := .stopped }) 0).state ≠ .running ∧ (getTill hostPart 1).kind ≠ 0 ∧ (getTill hostPart 1).kind ≠ 4 ∧
    (getTill hostPart 0).used = 0 ∧
    (∀ e ∈ [0x10, 0x11, 0x12, 0x13, 0x14], (let s := updHost (tillAt 96 4 1 (withSvc (some run0) id)) fun h =>
        { h with tillMem := [(24576 * 64, BitVec.ofNat 8 e), (24576 * 64 + 1, 9), (24576 * 64 + 4, 16)] }
      let t := getTill s 96
      (parseMsg (tillSource s t) (some 96) (t.slotsFrom s.host.tillMem 1)).1 = 0x0900 + e ∧ t.kind = 4 ∧
        mayTake (passSlots s 96 1) (parseMsg (tillSource s t) (some 96) (t.slotsFrom s.host.tillMem 1)).2 = true)) := by decide +kernel

theorem witness_SessionForms :
    (let s := withSvc none id
     fits s 0x0910 0 (8 * ceilDiv (32 + 4 * 1) 8) (ask 40 [(0x16, 2, 1), (0x18, 4, 1)]) (fun t c => meets (getSvc t 0) fun v => decide (c.f 0x16 2 = c.f 0x18 4) &&
       c.zero 0x1C 0x20 && c.tokensOk 1 && v.closing = none && ((getJob t v.job).bind Job.run).isNone) = true) ∧
    (let s := withSvc (some run0) fun v => { v with sessions := [session0 phOpening] }
     ∀ n ∈ [1, 2], fits s 0x0911 0 (8 * ceilDiv (32 + 4 * n) 8) (ask (8 * ceilDiv (32 + 4 * n) 8) [(0x10, 4, 1), (0x14, 2, n)]) (fun t c => c.f 0x14 2 = n &&
       c.tokensOk n && meets (getSvc t 0) fun v => meets (v.session 1) fun x => decide (x.length + x.queued.length + n ≤ x.total) = decide (n = 1)) = true) ∧
    (let x := session0 phGenerating
     ∀ ns ∈ [999999999, 1000000000], (let s := updTiming (withSvc (some run0) fun v => { v with sessions := [x] }) fun t => { t with time := mkTime ns 0 }
       x.starved = some 0 ∧ (0 + 1000000000 ≤ nowNs s ↔ ns = 1000000000) ∧ x.gen.isSome = true)) ∧
    ({ session0 phIdle with starved := none } : Session).starved = none ∧ ({ session0 phIdle with gen := none } : Session).gen = none ∧
    (∀ p ∈ [{ page0 with frame := none }, { page0 with hostSlot := none }], (let v : Svc := { svc0 with pages := [p] }
      (v.page 0).frame = none ∨ (v.page 0).hostSlot = none)) ∧
    (let s := updMac (withSvc (some run0) id) 0 fun m => { m with up := true }
     let f := updTill s 96 fun t => { t with state := .stopped }
     vlanKind (countRx f 0) 0 6 = some 2 ∧ meets (svcBound (countRx f 0) 0 0 6) (fun v => (getTill (countRx f 0) (partTill v.part (v.f 0x18 2))).state ≠ .running) = true) ∧
    (∀ p ∈ [layout 17 [(6, 2, 16)], layout 18 [(1, 1, 1), (6, 2, 16)], layout 18 [(6, 2, 15)], layout 18 [(6, 2, 24)]],
      (let len := imgLe (p.drop 2) 4 2
       ¬ (imgLe p 1 1 = 0 ∧ 16 ≤ len ∧ len ≤ 4096 ∧ len % 8 = 0 ∧ ((p.drop 2).take len).length = len))) := by decide +kernel

theorem witness_JobQueriesAndStopsForms :
    (let s := hosted (busy { job0 (inst0 []) with run := some { run0 with ending := true } })
     fits s 0x0302 0x100 24 (cmd 24 [(0x10, 4, 1), (0x14, 1, 1)]) (fun t c => c.f 0x14 1 = 1 && meets (getJob t 1) fun j => meets j.run fun r => r.ending) = true) ∧
    (let s := hosted (busy { job0 { inst0 [] with epoch := 3 } with image := image1, run := some { run0 with sels := [⟨(job0 { inst0 [] with epoch := 3 }).begunEpochs, 0, 5⟩] } })
     fits s 0x0304 0x100 24 (cmd 24 [(0x10, 4, 1)]) (fun t _ => meets (getJob t 1) fun j => !j.rules && j.hasPlan 0 && meets j.run fun r =>
       r.sels.any fun p => p.effect = j.begunEpochs) = true) := by decide +kernel

/-- An image with a RULES record, for the uplink of a cell. -/
def ruleImage : List Byte :=
  layout 640 (imageFields.map (fun f => if f.1 = 8 then (8, 4, 640) else if f.1 = 0x0C then (0x0C, 2, 6) else f) ++
    [(0x90, 2, 0x0E), (0x92, 2, 80), (0x94, 4, 1), (0x98, 4, 0x200), (0x9C, 4, 80)])

def upImage0 : List Byte := sealImage (cellHeader cellStart0.body (uplinkRule ruleImage))
def downImage0 : List Byte := sealImage (cellHeader cellStart0.body (layout 512 imageFields))
def startedState : State := takenState cellState0 0x0801 cellStart0
def upJob0 : Job := newJob 0 (.fn 0) (.cellUp 0) upImage0 0 0 0 0 0
def downJob0 : Job := newJob 0 (.fn 0) (.cellDown 0) downImage0 0 0 0 0 0

/-- The uplink job on core 0, the downlink job on the core that is left. -/
def pick2 : Choice := { pick1 with homes := [(0, 0, 1)], rings := [(1, 0, 0, 0)] }

set_option maxRecDepth 100000 in
theorem witness_cellImages (hu : ∀ a b, Config.uplinkImage a b = ruleImage) (hd : ∀ a b, Config.downlinkImage a b = layout 512 imageFields) (cfg : List Byte) :
    cellUplinkImage cellStart0.body cfg = upImage0 ∧ cellDownlinkImage cellStart0.body cfg = downImage0 := by
  unfold cellUplinkImage cellDownlinkImage copyFields
  rw [hu, hd]
  constructor
  · have h1 : stationOf (cellHeader cellStart0.body (uplinkRule ruleImage)) 1 = none := by decide +kernel
    have h7 : stationOf (cellHeader cellStart0.body (uplinkRule ruleImage)) 7 = none := by decide +kernel
    simp [patchParam, h1, h7, upImage0]
  · have h1 : stationOf (cellHeader cellStart0.body (layout 512 imageFields)) 0xB = none := by decide +kernel
    have h7 : stationOf (cellHeader cellStart0.body (layout 512 imageFields)) 8 = none := by decide +kernel
    simp [patchParam, h1, h7, downImage0]

/-- Whether the downlink job is placed beside an uplink job placed so. -/
def besides (p : Placed) : Bool :=
  let t := putJob startedState 1 (upJob0.withPlacement p)
  decide ((placeInput t 0 cellPart downJob0).cores = [1]) && accepted (placing downJob0.image (placeInput t 0 cellPart downJob0) pick2) fun d =>
    decide (check12 cellPart (downJob0.withPlacement d) = none)

set_option maxRecDepth 100000 in
theorem witness_cellPlacings : (placeInput startedState 0 cellPart upJob0).cores ≠ [1] ∧ startedState.work.nextJob = 1 ∧
    accepted (placing upJob0.image (placeInput startedState 0 cellPart upJob0) pick1) (fun p =>
      decide (check12 cellPart (upJob0.withPlacement p) = none) && besides p) = true := by decide +kernel

/-- The images and the release's choices are not given: with these CELL_START places both jobs. -/
theorem witness_cellStartPlaces (hp : ∀ x, Config.place x = if x.cores = [1] then pick2 else pick1) (hu : ∀ a b, Config.uplinkImage a b = ruleImage)
    (hd : ∀ a b, Config.downlinkImage a b = layout 512 imageFields) (cfg : List Byte) :
    ∃ up down, placeFully startedState 0 (newJob 0 (.fn 0) (.cellUp 0) (cellUplinkImage cellStart0.body cfg) 0 0 0 0 0) = .inl up ∧
      placeFully (putJob startedState 1 up) 0 (newJob 0 (.fn 0) (.cellDown 0) (cellDownlinkImage cellStart0.body cfg) 0 0 0 0 0) = .inl down := by
  obtain ⟨hc, -, ha⟩ := witness_cellPlacings
  rw [(witness_cellImages hu hd cfg).1, (witness_cellImages hu hd cfg).2]
  obtain ⟨p, h, hb⟩ := placeFully_accepted_and (s := startedState) (h := 0) (j := upJob0) (q := cellPart) (f := besides) (by decide +kernel)
    (by rw [hp, if_neg hc]; exact ha)
  simp only [besides, Bool.and_eq_true, decide_eq_true_eq] at hb
  obtain ⟨d, h2⟩ := placeFully_accepted (s := putJob startedState 1 (upJob0.withPlacement p)) (h := 0) (j := downJob0) (q := cellPart) (by rfl)
    (by rw [hp, if_pos hb.1]; exact hb.2)
  exact ⟨_, _, h, h2⟩

/-! ### Ill-formed commands -/

theorem test_cores : ([.nop 72, .segmentWake 71 12, .stepComplete 71 (.array 4) none .none] : List Instr).all (fun i => !i.wellFormed) = true ∧
    (Instr.segmentWake 71 11).wellFormed = true := by decide

theorem test_messages :
    ([.hello ⟨.mgmt, some 0, 0, 0, 0, 0, []⟩, .hello ⟨.fn 1, none, 0, 0, 0, 0, []⟩, .hello ⟨.fn 1, some 6, 0, 0, 0, 0, []⟩, .hello ⟨.fn 1, some 65632, 0, 0, 0, 0, []⟩,
      .hello ⟨.client 0, some 95, 0, 0, 0, 0, []⟩, .hello ⟨.client 281474976710656, some 96, 0, 0, 0, 0, []⟩] : List Instr).all (fun i => !i.wellFormed) = true ∧
    (∀ m : Msg, 65520 ≤ m.body.length → (Instr.hello m).wellFormed = false) ∧ (Instr.hello ⟨.fn 1, some 5, 0, 0, 0, 0, []⟩).wellFormed = true := by
  refine ⟨by decide, fun m h => ?_, by decide⟩
  have : ¬ m.body.length + 16 < 65536 := by omega
  change m.wellFormed = false
  simp [Msg.wellFormed, this]

theorem test_numbers :
    ([.partDestroyComplete 8, .barrierRelease 8192, .postVisible 8192 0, .postVisible 0 72, .messageTake 65632, .vfEnable 32, .vdone 2, .delayReqTx 8 0,
      .symbolClose (.cell 48) 0 0, .evalExpiry 48, .evictionCopyComplete 8 0, .relneLinkDown 4, .avsBusFailure 2, .thermalSample (List.replicate 79 0), .lockstepMismatch 4,
      .mctpMessageSent 3, .opticsProbe 8 .nack, .indicatorShortHoldoff 6] : List Instr).all (fun i => !i.wellFormed) = true := by decide

theorem test_units :
    ([(0, 72), (1, 24), (2, 8), (3, 16), (4, 0)].all fun e => !(Instr.selftestDeferred e.1 e.2).wellFormed) = true ∧
    ([(0, 71), (1, 23), (2, 7), (3, 15)].all fun e => (Instr.selftestDeferred e.1 e.2).wellFormed) = true := by decide

/-! ### Cycle counts: the spec's worked examples -/

/-- 01 R22: core 14 to core 45 in 65 mesh cycles; 12 R325: the longest path in 76. 03 R83: a pass of 64 rows ends in cycle 133. -/
theorem test_cycles : meshLatency 14 45 = 65 ∧ meshLatency 0 71 = 76 ∧ passCycles 0 64 1 = 133 ∧
    Shape.cycles ⟨1, 384, 1, 8448, 8448, 25344⟩ 8 25344 = 1564 := by decide +kernel

/-- 05 R136: VLD V1, VFMA V2 ← V1 × V3 + V4, VST of V2 take 20 work cycles. -/
theorem test_vecCycles : (vecCycles (fun _ => 0)
    { VecUnit.reset with stop := 3, prog := [(0, 0x60 + 2 ^ 8), (1, 0x04 + 2 * 2 ^ 8 + 2 ^ 13 + 3 * 2 ^ 18 + 4 * 2 ^ 23), (2, 0x61 + 2 * 2 ^ 8)] }).1 = 20 := by
  decide +kernel

end Sys2Proof.Tests
end

section
/-! Yields, rinses, lent windows, dispatch and segments that wake: what the operations that these events share leave in cores,
engines and jobs, and then each event (01 R33; 12 R307, R309; 13 R338-R341). -/

namespace Sys2Proof.Machine

/-! ### What updates leave alone -/

@[simp] theorem getEng_updCore (s : State) (c d : Nat) (f : CoreCtl → CoreCtl) : getEng (updCore s c f) d = getEng s d := rfl
@[simp] theorem getCore_updEng (s : State) (c d : Nat) (f : Engines → Engines) : getCore (updEng s c f) d = getCore s d := rfl

@[simp] theorem getCore_updJob (s : State) (h d : Nat) (f : Job → Job) : getCore (updJob s h f) d = getCore s d := by
  unfold updJob; split <;> rfl

@[simp] theorem getCore_updInst (s : State) (h c d : Nat) (f : Inst → Inst) : getCore (updInst s h c f) d = getCore s d :=
  getCore_updJob _ _ _ _

@[simp] theorem getCore_hbmWrite (s : State) (p a d : Nat) (bs : List Byte) : getCore (hbmWrite s p a bs) d = getCore s d := by
  unfold hbmWrite; split <;> rfl

@[simp] theorem getJob_hbmWrite (s : State) (p a h : Nat) (bs : List Byte) : getJob (hbmWrite s p a bs) h = getJob s h := by
  unfold hbmWrite; split <;> rfl

@[simp] theorem parts_hbmWrite (s : State) (p a : Nat) (bs : List Byte) : (hbmWrite s p a bs).work.parts = s.work.parts := by
  unfold hbmWrite; split <;> rfl

/-! ### Charges change the ledger alone (13 R347) -/

/-- The two states differ at most in the ledger. -/
def LedgerOnly (s t : State) : Prop := ∃ l, t = updWork s fun w => { w with ledger := l }

theorem LedgerOnly.refl (s : State) : LedgerOnly s s := ⟨s.work.ledger, rfl⟩

theorem LedgerOnly.trans {s t u : State} : LedgerOnly s t → LedgerOnly t u → LedgerOnly s u := by
  rintro ⟨_, rfl⟩ ⟨l, rfl⟩; exact ⟨l, rfl⟩

theorem LedgerOnly.foldl {α : Type} {f : State → α → State} (hf : ∀ s a, LedgerOnly s (f s a)) (l : List α) (s : State) :
    LedgerOnly s (l.foldl f s) := by
  induction l generalizing s with
  | nil => exact .refl s
  | cons a l ih => exact (hf s a).trans (ih (f s a))

theorem LedgerOnly.getCore_eq {s t : State} (h : LedgerOnly s t) (c : Nat) : getCore t c = getCore s c := by
  obtain ⟨_, rfl⟩ := h; rfl

theorem LedgerOnly.getJob_eq {s t : State} (h : LedgerOnly s t) (k : Nat) : getJob t k = getJob s k := by
  obtain ⟨_, rfl⟩ := h; rfl

theorem LedgerOnly.parts_eq {s t : State} (h : LedgerOnly s t) : t.work.parts = s.work.parts := by
  obtain ⟨_, rfl⟩ := h; rfl

theorem charge_ledgerOnly (s : State) (p kind client : Nat) (d : Ledger) : LedgerOnly s (charge s p kind client d) := ⟨_, rfl⟩

theorem chargeJob_ledgerOnly (s : State) (h : Nat) (d : Ledger) : LedgerOnly s (chargeJob s h d) := by
  unfold chargeJob
  split
  · exact charge_ledgerOnly ..
  · exact .refl s

theorem chargeClient_ledgerOnly (s : State) (i client : Nat) (d : Ledger) : LedgerOnly s (chargeClient s i client d) := by
  unfold chargeClient
  split
  · exact charge_ledgerOnly ..
  · exact .refl s

theorem chargeEach_ledgerOnly (s : State) (h : Nat) (d : Ledger) : LedgerOnly s (chargeEach s h d) := by
  unfold chargeEach
  split
  · exact .refl s
  · split
    · exact .foldl (fun s _ => chargeClient_ledgerOnly s ..) _ s
    · exact chargeJob_ledgerOnly ..

@[simp] theorem getCore_chargeEach (s : State) (h c : Nat) (d : Ledger) : getCore (chargeEach s h d) c = getCore s c :=
  (chargeEach_ledgerOnly s h d).getCore_eq c

@[simp] theorem getJob_chargeEach (s : State) (h k : Nat) (d : Ledger) : getJob (chargeEach s h d) k = getJob s k :=
  (chargeEach_ledgerOnly s h d).getJob_eq k

@[simp] theorem parts_chargeEach (s : State) (h : Nat) (d : Ledger) : (chargeEach s h d).work.parts = s.work.parts :=
  (chargeEach_ledgerOnly s h d).parts_eq

/-! ### The instance on a core -/

theorem Job.core_of_instOn {j : Job} {c : Nat} {i : Inst} (h : j.instOn c = some i) : i.core = c := by
  simpa using List.find?_some h

/-- A change of the instance on a core that leaves it there is found there. -/
theorem Job.instOn_updInst (j : Job) (c : Nat) {f : Inst → Inst} (hf : ∀ i, (f i).core = i.core) :
    (j.updInst c f).instOn c = (j.instOn c).map f := by
  have hcore : ((fun i : Inst => decide (i.core = c)) ∘ fun i => if i.core = c then f i else i) = fun i => decide (i.core = c) := by
    funext i
    by_cases h : i.core = c <;> simp [h, hf]
  simp only [Job.instOn, Job.updInst, List.find?_map, hcore]
  cases h : j.insts.find? fun i => decide (i.core = c) with
  | none => rfl
  | some i => simp [show i.core = c from Job.core_of_instOn h]

theorem instAt_updInst (s : State) (h c : Nat) {f : Inst → Inst} (hf : ∀ i, (f i).core = i.core) :
    instAt (updInst s h c f) h c = (instAt s h c).map f := by
  rw [instAt, updInst, getJob_updJob_self, instAt]
  cases getJob s h with
  | none => rfl
  | some j => exact j.instOn_updInst c hf

theorem running_eq_some {s : State} {c h : Nat} {j : Job} {i : Inst} (hr : running s c = some (h, j, i)) :
    (getCore s c).run = some h ∧ getJob s h = some j ∧ j.instOn c = some i := by
  unfold running at hr
  split at hr
  · cases hr
  · split at hr
    · cases hr
    · split at hr
      · cases hr
      · cases hr; exact ⟨‹_›, ‹_›, ‹_›⟩

theorem running_of_cur {s : State} {c : Nat} {u : Cur} (hu : cur s c = some u) : running s c = some (u.h, u.job, u.inst) := by
  unfold cur at hu
  split at hu
  · cases hu
  · split at hu
    · cases hu
    · split at hu
      · cases hu
      · cases hu; assumption

/-! ### Segments and rinses (12 R307, R309) -/

@[simp] theorem getCore_startRinse (s : State) (c : Nat) (segs : List Nat) (use : RinseFor) :
    getCore (startRinse s [(c, segs)] use) c = (getCore s c).beginRinse segs :=
  getCore_updCore_self s c fun k => k.beginRinse segs

@[simp] theorem instAt_startRinse (s : State) (c h d : Nat) (segs : List Nat) (use : RinseFor) :
    instAt (startRinse s [(c, segs)] use) h d = instAt s h d := rfl

@[simp] theorem CoreCtl.beginRinse_run (k : CoreCtl) (segs : List Nat) : (k.beginRinse segs).run = k.run := rfl
@[simp] theorem CoreCtl.beginRinse_ready (k : CoreCtl) (segs : List Nat) : (k.beginRinse segs).ready = k.ready := rfl

theorem CoreCtl.setPower_power_of_mem {k : CoreCtl} {segs : List Nat} {n : Nat} {x : SegPower} (p : SegPower) (hn : n ∈ segs)
    (hx : k.power[n]? = some x) : (k.setPower segs p).power[n]? = some p := by
  simp [CoreCtl.setPower, hx, hn]

theorem lentSegs_congr {s t : State} (hp : t.work.parts = s.work.parts) (c : Nat) : lentSegs t c = lentSegs s c := by
  unfold lentSegs; rw [hp]

/-- What a core hands back depends on the core and the partitions alone. -/
theorem backSegs_congr {s t : State} {c : Nat} (hk : getCore t c = getCore s c) (hp : t.work.parts = s.work.parts) (i : Inst) :
    backSegs t c i = backSegs s c i := by
  simp only [backSegs, lentSegs_congr hp, hk]

/-- The bytes of segment n. -/
def InSeg (n a : Nat) : Prop := n * 262144 ≤ a ∧ a < (n + 1) * 262144

theorem CoreCtl.read_zeroSeg_of_inSeg (k : CoreCtl) {n a : Nat} (h : InSeg n a) : Mem.read (k.zeroSeg n).scratch a = 0 := by
  rw [CoreCtl.zeroSeg, Mem.read_zero]; exact if_pos h

theorem CoreCtl.read_zeroSeg_of_not_inSeg (k : CoreCtl) {n a : Nat} (h : ¬ InSeg n a) :
    Mem.read (k.zeroSeg n).scratch a = Mem.read k.scratch a := by
  rw [CoreCtl.zeroSeg, Mem.read_zero]; exact if_neg h

/-- What segments zeroed one after another leave alone. -/
theorem CoreCtl.read_zeroSegs_other (l : List Nat) (k : CoreCtl) {a : Nat} (h : ∀ n ∈ l, ¬ InSeg n a) :
    Mem.read (l.foldl (fun k n => k.zeroSeg n) k).scratch a = Mem.read k.scratch a := by
  induction l generalizing k with
  | nil => rfl
  | cons m l ih =>
    rw [List.foldl_cons, ih _ fun n hn => h n (List.mem_cons_of_mem m hn)]
    exact k.read_zeroSeg_of_not_inSeg (h m List.mem_cons_self)

/-- A byte of a segment that is zeroed reads 0, whether or not a later one of the list is the same segment. -/
theorem CoreCtl.read_zeroSegs_mem (l : List Nat) (k : CoreCtl) {n a : Nat} (hn : n ∈ l) (h : InSeg n a) :
    Mem.read (l.foldl (fun k n => k.zeroSeg n) k).scratch a = 0 := by
  induction l generalizing k with
  | nil => cases hn
  | cons m l ih =>
    rw [List.foldl_cons]
    by_cases hl : ∃ b ∈ l, InSeg b a
    · obtain ⟨b, hb, hba⟩ := hl
      obtain rfl : b = n := by unfold InSeg at h hba; omega
      exact ih _ hb
    · have hl : ∀ b ∈ l, ¬ InSeg b a := fun b hb hba => hl ⟨b, hb, hba⟩
      obtain rfl : n = m := (List.mem_cons.mp hn).resolve_right fun hn => hl n hn h
      rw [CoreCtl.read_zeroSegs_other l _ hl]
      exact k.read_zeroSeg_of_inSeg h

/-! ### Tables and vector registers of a core that changes hands (03 R85, 05 R136) -/

/-- A job that takes a core whose tables are its own leaves the engines as they are. -/
theorem takeCore_of_own {s : State} {h : Nat} {i : Inst} (ht : (getCore s i.core).tables = some h) : takeCore s h i = s :=
  if_pos ht

theorem takeCore_of_other {s : State} {h : Nat} {i : Inst} (ht : (getCore s i.core).tables ≠ some h) :
    takeCore s h i = installTables s h i := if_neg ht

@[simp] theorem getCore_installTables (s : State) (h : Nat) (i : Inst) :
    getCore (installTables s h i) i.core = { getCore s i.core with tables := some h } := by
  simp [installTables]

@[simp] theorem getEng_installTables (s : State) (h : Nat) (i : Inst) :
    getEng (installTables s h i) i.core = { getEng s i.core with
      mat := { Matrix.reset with opfile := i.opfile }, vec := { VecUnit.reset with prog := i.vecProg } } := by
  simp [installTables]

theorem getCore_takeCore (s : State) (h : Nat) (i : Inst) :
    getCore (takeCore s h i) i.core = { getCore s i.core with tables := some h } := by
  by_cases ht : (getCore s i.core).tables = some h
  · rw [takeCore_of_own ht, ← ht]
  · rw [takeCore_of_other ht, getCore_installTables]

/-- On a core that holds the job's tables the vector registers are cleared, and nothing else of the engines changes. -/
theorem getEng_clearVector {s : State} {h : Nat} {i : Inst} (ht : (getCore s i.core).tables = some h) :
    getEng (clearVector s h i) i.core =
      { getEng s i.core with vec := { (getEng s i.core).vec with v := [], m := [], p := [] } } := by
  simp [clearVector, ht]

@[simp] theorem getCore_clearVector (s : State) (h c : Nat) (i : Inst) : getCore (clearVector s h i) c = getCore s c := by
  unfold clearVector; split <;> rfl

/-! ### The events -/

/-- YIELD_ABORT_POINT where a best-effort invocation has not saved its state by now (01 R33, 13 R349). -/
theorem exec_yieldAbortPoint_of_asked {s : State} {c : Nat} {u : Cur} (hu : cur s c = some u) (hy : (getCore s c).yield = true)
    (hb : u.job.bestEffort = true) : exec (.yieldAbortPoint c) s =
      .next (endBadly (startRinse (chargeEach s u.h { Ledger.none with preemptions := 1 }) [(c, backSegs s c u.inst)] (.handBack c))
        u.h eAborted none) := by
  change execYieldAbortPoint c s = _
  simp [execYieldAbortPoint, hu, hy, hb]

/-- What stands in the save area when a save is complete. -/
def saveImage (i : Inst) : List Byte := i.saved.flatMap (·.2) ++ contextBytes i

/-- The live state and the context are in the save area, where the job has one. -/
def saveWritten (s : State) (c : Nat) (u : Cur) : State :=
  match u.job.saveAt c with
  | some a => hbmWrite s u.job.part a (saveImage u.inst)
  | none => s

@[simp] theorem getCore_saveWritten (s : State) (c d : Nat) (u : Cur) : getCore (saveWritten s c u) d = getCore s d := by
  unfold saveWritten; split <;> simp

@[simp] theorem getJob_saveWritten (s : State) (c h : Nat) (u : Cur) : getJob (saveWritten s c u) h = getJob s h := by
  unfold saveWritten; split <;> simp

@[simp] theorem parts_saveWritten (s : State) (c : Nat) (u : Cur) : (saveWritten s c u).work.parts = s.work.parts := by
  unfold saveWritten; split <;> simp

/-- The state with an instance SAVED: its state in HBM, the core without a job, the job last in the ready queue. -/
def saveDone (s : State) (c : Nat) (u : Cur) : State :=
  updCore (updInst (chargeEach (saveWritten s c u) u.h { Ledger.none with preemptions := 1 }) u.h c fun i => { i with phase := .saved }) c
    fun k => { k with run := none, ready := k.ready ++ [u.h] }

theorem getCore_saveDone (s : State) (c : Nat) (u : Cur) :
    getCore (saveDone s c u) c = { getCore s c with run := none, ready := (getCore s c).ready ++ [u.h] } := by
  simp [saveDone]

theorem instAt_saveDone {s : State} {c : Nat} {u : Cur} (hu : cur s c = some u) :
    instAt (saveDone s c u) u.h c = some { u.inst with phase := .saved } := by
  obtain ⟨-, hj, hi⟩ := running_eq_some (running_of_cur hu)
  have hinst : instAt (chargeEach (saveWritten s c u) u.h { Ledger.none with preemptions := 1 }) u.h c = some u.inst := by
    simp [instAt, hj, hi]
  exact (instAt_updInst _ _ _ (f := fun i => { i with phase := .saved }) fun _ => rfl).trans (congrArg (Option.map _) hinst)

/-- SAVE_COMPLETE with the save area mapped (01 R33, 02 R67). -/
theorem exec_saveComplete_of_saving {s : State} {c : Nat} {u : Cur} (hu : cur s c = some u) (hp : u.inst.phase = .saving)
    (hm : saveHole s u.job c (saveImage u.inst).length = none) : exec (.saveComplete c) s =
      .next (if (getCore s c).yield then startRinse (saveDone s c u) [(c, backSegs s c u.inst)] (.handBack c) else saveDone s c u) := by
  have hsegs := backSegs_congr (s := s) (t := chargeEach (saveWritten s c u) u.h { Ledger.none with preemptions := 1 }) (c := c)
    (by simp) (by simp) u.inst
  have hyield : (getCore (chargeEach (saveWritten s c u) u.h { Ledger.none with preemptions := 1 }) c).yield = (getCore s c).yield := by
    simp
  unfold saveImage at hm
  change execSaveComplete c s = _
  simp only [execSaveComplete, hu, hp, hm, ne_eq, not_true_eq_false, if_false]
  rw [← hsegs, ← hyield]
  rfl

/-- A core whose rinses have ended: their segments are zero. -/
def CoreCtl.endRinse (k : CoreCtl) : CoreCtl := { k.rinsing.foldl (fun k n => k.zeroSeg n) k with rinsing := [] }

theorem CoreCtl.read_endRinse_mem (k : CoreCtl) {n a : Nat} (hn : n ∈ k.rinsing) (h : InSeg n a) : Mem.read k.endRinse.scratch a = 0 :=
  CoreCtl.read_zeroSegs_mem k.rinsing k hn h

theorem CoreCtl.read_endRinse_other (k : CoreCtl) {a : Nat} (h : ∀ n ∈ k.rinsing, ¬ InSeg n a) :
    Mem.read k.endRinse.scratch a = Mem.read k.scratch a :=
  CoreCtl.read_zeroSegs_other k.rinsing k h

/-- The state in which the segments of a core that were being rinsed are zero, and no rinse waits for the core. -/
def rinseEnds (s : State) (c : Nat) : State :=
  updWork (updCore s c CoreCtl.endRinse) fun w => { w with rinses := w.rinses.map fun r => { r with cores := r.cores.filter (· ≠ c) } }

theorem getCore_rinseEnds (s : State) (c : Nat) : getCore (rinseEnds s c) c = (getCore s c).endRinse :=
  getCore_updCore_self s c CoreCtl.endRinse

theorem exec_rinseComplete_of_rinsing {s : State} {c : Nat} (hr : (getCore s c).rinsing ≠ []) (hc : coreRuns s c = true) :
    exec (.rinseComplete c) s = .next (settleWork (restSegs (settleRinses (rinseEnds s c)) c)) := by
  have hgo : ¬ ((getCore s c).rinsing = [] ∨ ¬ coreRuns s c) := by simp [hr, hc]
  exact congrArg Host.Outcome.next (if_neg hgo)

/-- LENT_WINDOW_CLOSE of an open window (13 R339, R340). -/
theorem exec_lentWindowClose_of_lent {s : State} {c : Nat} (hl : (getCore s c).lentTo.isSome = true) (hy : (getCore s c).yield = false) :
    exec (.lentWindowClose c) s = .next (if (getCore s c).run.isSome then requestYield s c
      else if lentSegs s c = [] then handBack s c else startRinse s [(c, lentSegs s c)] (.handBack c)) := by
  obtain ⟨p, hp⟩ := Option.isSome_iff_exists.mp hl
  change execLentWindowClose c s = _
  simp [execLentWindowClose, hp, hy]

/-- The core given to a job of its ready queue. -/
def readyRuns (s : State) (c h : Nat) : State := updCore s c fun k => { k with run := some h, ready := k.ready.filter (· ≠ h) }

/-- The state in which an instance that is not resumed has the core of its job (13 R341). -/
def dispatched (s : State) (c h : Nat) (i : Inst) : State := clearVector (takeCore (readyRuns s c h) h i) h i

theorem getCore_dispatched (s : State) (h : Nat) (i : Inst) : getCore (dispatched s i.core h i) i.core =
    { getCore s i.core with run := some h, ready := (getCore s i.core).ready.filter (· ≠ h), tables := some h } := by
  simp [dispatched, readyRuns, getCore_takeCore]

/-- The engines of a core where the job's tables stood: its vector registers are cleared. -/
theorem getEng_dispatched_of_own {s : State} {h : Nat} {i : Inst} (ht : (getCore s i.core).tables = some h) :
    getEng (dispatched s i.core h i) i.core =
      { getEng s i.core with vec := { (getEng s i.core).vec with v := [], m := [], p := [] } } := by
  have ht' : (getCore (readyRuns s i.core h) i.core).tables = some h := by simpa [readyRuns] using ht
  rw [dispatched, takeCore_of_own ht', getEng_clearVector ht']; rfl

/-- The engines of a core where other tables stood: the job's are installed. -/
theorem getEng_dispatched_of_other {s : State} {h : Nat} {i : Inst} (ht : (getCore s i.core).tables ≠ some h) :
    getEng (dispatched s i.core h i) i.core = { getEng s i.core with
      mat := { Matrix.reset with opfile := i.opfile }, vec := { VecUnit.reset with prog := i.vecProg } } := by
  have ht' : (getCore (readyRuns s i.core h) i.core).tables ≠ some h := by simpa [readyRuns] using ht
  rw [dispatched, takeCore_of_other ht', getEng_clearVector (by simp), getEng_installTables]; rfl

/-- BE_DISPATCH of an instance that does not resume. -/
theorem exec_beDispatch_of_ready {s : State} {c h : Nat} {j : Job} {i : Inst} (hn : nextReady s c = some h) (hj : getJob s h = some j)
    (hi : j.instOn c = some i) (hp : i.phase ≠ .saved) : exec (.beDispatch c) s = .next (dispatched s c h i) := by
  change execBeDispatch c s = _
  simp [execBeDispatch, hn, hj, hi, hp, dispatched, readyRuns]

theorem exec_segmentWake_of_retain {s : State} {c n : Nat} (hn : n < 12) (hu : segInUse s c n = true)
    (hp : (getCore s c).power[n]? = some .retain) : exec (.segmentWake c n) s = .next (updCore s c fun k => k.setPower [n] .on) := by
  change execSegmentWake c n s = _
  simp [execSegmentWake, hn, hu, hp, nth]

theorem exec_segmentWake_of_off {s : State} {c n : Nat} (hn : n < 12) (hu : segInUse s c n = true)
    (hp : (getCore s c).power[n]? = some .off) : exec (.segmentWake c n) s = .next (startRinse s [(c, [n])] .other) := by
  change execSegmentWake c n s = _
  simp [execSegmentWake, hn, hu, hp, nth]

/-! ### Settled -/

/-- Settles O23: one lemma for each event says what it answers, and the lemmas about its operations what stands there then. -/
theorem coresYieldAndReturn : Obligations.CoresYieldAndReturn := by
  unfold Obligations.CoresYieldAndReturn
  intro s c
  refine ⟨fun u hu hy hb => exec_yieldAbortPoint_of_asked hu hy hb, fun u hu hp hm => ?save, fun hr hc => ?rinse,
    fun hl hy => exec_lentWindowClose_of_lent hl hy, fun h j i hn hj hi hp => ?dispatch,
    fun n hn hu => ⟨fun hp => ?wake, exec_segmentWake_of_off hn hu⟩⟩
  case save =>
    refine ⟨_, { u.inst with phase := .saved }, exec_saveComplete_of_saving hu hp hm, ?_⟩
    cases (getCore s c).yield <;> simp [getCore_saveDone, instAt_saveDone hu]
  case rinse =>
    refine ⟨rinseEnds s c, exec_rinseComplete_of_rinsing hr hc, by rw [getCore_rinseEnds]; rfl, rfl, rfl, rfl, ?_, ?_⟩
    · intro n hn a hlo hhi
      rw [getCore_rinseEnds]
      exact CoreCtl.read_endRinse_mem _ hn ⟨hlo, hhi⟩
    · intro a ha
      rw [getCore_rinseEnds]
      refine CoreCtl.read_endRinse_other _ fun n hn hin => ?_
      have := ha n hn
      unfold InSeg at hin
      omega
  case dispatch =>
    obtain rfl : i.core = c := Job.core_of_instOn hi
    refine ⟨_, exec_beDispatch_of_ready hn hj hi hp, by rw [getCore_dispatched], by simp [getCore_dispatched],
      by rw [getCore_dispatched], ?_⟩
    by_cases ht : (getCore s i.core).tables = some h
    · rw [getEng_dispatched_of_own ht]
      exact ⟨fun _ => rfl, rfl, fun _ => ⟨rfl, rfl⟩, fun hne => absurd ht hne⟩
    · rw [getEng_dispatched_of_other ht]
      exact ⟨fun _ => rfl, rfl, fun heq => absurd heq ht, fun _ => ⟨rfl, rfl, rfl⟩⟩
  case wake =>
    refine ⟨_, exec_segmentWake_of_retain hn hu hp, ?_⟩
    rw [getCore_updCore_self]
    exact ⟨CoreCtl.setPower_power_of_mem .on (by simp) hp, rfl⟩

end Sys2Proof.Machine
end

section
/-! The sequencer: what stands where a core runs an instance, what the issue of a step changes, and the steps that complete when they
issue (02 R57, R58, R68). -/

namespace Sys2Proof.Machine

/-! ### Where a core stands -/

/-- What a core runs stands in the job table, in an invocation that is not ending. -/
structure Cur.Stands (u : Cur) (s : State) (c : Nat) : Prop where
  job : getJob s u.h = some u.job
  run : u.job.run = some u.run
  inst : u.job.instOn c = some u.inst
  going : u.run.ending = false

theorem stands_of_cur {s : State} {c : Nat} {u : Cur} (hu : cur s c = some u) : u.Stands s c := by
  obtain ⟨-, hj, hi⟩ := running_eq_some (running_of_cur hu)
  unfold cur at hu
  split at hu
  · cases hu
  · split at hu
    · cases hu
    · split at hu
      · cases hu
      · rename_i hrun hgo
        cases hu
        exact ⟨hj, hrun, hi, by simpa using fun h => hgo (Or.inl h)⟩

/-- The invocation of a job, while one runs. -/
def runAt (s : State) (h : Nat) : Option Invocation := (getJob s h).bind Job.run

theorem Cur.Stands.instAt_eq {u : Cur} {s : State} {c : Nat} (hs : u.Stands s c) : instAt s u.h c = some u.inst := by
  simp [instAt, hs.job, hs.inst]

theorem Cur.Stands.runAt_eq {u : Cur} {s : State} {c : Nat} (hs : u.Stands s c) : runAt s u.h = some u.run := by
  simp [runAt, hs.job, hs.run]

theorem cur_of_nextStep {s : State} {c : Nat} {u : Cur} {w : BitVec 128} (hn : nextStep s c = some (u, w)) : cur s c = some u := by
  unfold nextStep at hn
  split at hn
  · cases hn
  · rename_i hcur
    split at hn
    · simp only [Option.map_eq_some_iff, Prod.mk.injEq] at hn
      obtain ⟨_, -, rfl, rfl⟩ := hn
      exact hcur
    · cases hn

/-- A step that issues is the next step of its core, of its class, and may issue. -/
theorem issuing_eq_some {s : State} {c op : Nat} {u : Cur} {w : BitVec 128} :
    issuing s c op = some (u, w) ↔ nextStep s c = some (u, w) ∧ stOp w = op ∧ canIssue s c u w = true := by
  unfold issuing
  constructor
  · intro h
    split at h
    · cases h
    · rename_i hn
      split at h
      · cases h; exact ⟨hn, ‹_›⟩
      · cases h
  · rintro ⟨hn, hgo⟩
    simp only [hn]
    exact if_pos hgo

theorem cur_of_issuing {s : State} {c op : Nat} {u : Cur} {w : BitVec 128} (hi : issuing s c op = some (u, w)) : cur s c = some u :=
  cur_of_nextStep (issuing_eq_some.mp hi).1

theorem stands_of_issuing {s : State} {c op : Nat} {u : Cur} {w : BitVec 128} (hi : issuing s c op = some (u, w)) : u.Stands s c :=
  stands_of_cur (cur_of_issuing hi)

/-- A barrier issues only when no step of its core is in progress. -/
theorem issued_nil_of_canIssue {s : State} {c : Nat} {u : Cur} {w : BitVec 128} (hgo : canIssue s c u w = true)
    (hop : stOp w = 11 ∨ stOp w = 12) : u.inst.issued = [] := by
  have hunit : stUnit w = none := by rcases hop with h | h <;> simp [stUnit, h]
  have hbar : stOp w ∈ [11, 12] := by simpa using hop
  simp only [canIssue, hunit, Bool.and_eq_true, if_pos (Or.inl hbar : stOp w ∈ [11, 12] ∨ _)] at hgo
  simpa using hgo.2

/-! ### Jobs and the ledger alone -/

/-- The two states differ at most in the job table and the ledger. -/
def JobsOnly (s t : State) : Prop := ∃ l k, t = updWork s fun w => { w with jobs := l, ledger := k }

theorem JobsOnly.refl (s : State) : JobsOnly s s := ⟨s.work.jobs, s.work.ledger, rfl⟩

theorem JobsOnly.trans {s t u : State} : JobsOnly s t → JobsOnly t u → JobsOnly s u := by
  rintro ⟨_, _, rfl⟩ ⟨l, k, rfl⟩; exact ⟨l, k, rfl⟩

theorem LedgerOnly.jobsOnly {s t : State} : LedgerOnly s t → JobsOnly s t := by
  rintro ⟨k, rfl⟩; exact ⟨s.work.jobs, k, rfl⟩

theorem updJob_jobsOnly (s : State) (h : Nat) (f : Job → Job) : JobsOnly s (updJob s h f) := by
  unfold updJob
  split
  · exact ⟨_, s.work.ledger, rfl⟩
  · exact .refl s

theorem updInst_jobsOnly (s : State) (h c : Nat) (f : Inst → Inst) : JobsOnly s (updInst s h c f) := updJob_jobsOnly ..
theorem updRun_jobsOnly (s : State) (h : Nat) (f : Invocation → Invocation) : JobsOnly s (updRun s h f) := updJob_jobsOnly ..

section
variable {s t : State} (hst : JobsOnly s t)
include hst

theorem JobsOnly.engines_eq : t.engines = s.engines := by obtain ⟨_, _, rfl⟩ := hst; rfl
theorem JobsOnly.cores_eq : t.work.cores = s.work.cores := by obtain ⟨_, _, rfl⟩ := hst; rfl
theorem JobsOnly.hbm_eq : t.work.hbm = s.work.hbm := by obtain ⟨_, _, rfl⟩ := hst; rfl
theorem JobsOnly.tallies_eq : t.work.tallies = s.work.tallies := by obtain ⟨_, _, rfl⟩ := hst; rfl
theorem JobsOnly.host_eq : t.host = s.host := by obtain ⟨_, _, rfl⟩ := hst; rfl
theorem JobsOnly.nowNs_eq : nowNs t = nowNs s := by obtain ⟨_, _, rfl⟩ := hst; rfl
theorem JobsOnly.getCore_eq (c : Nat) : getCore t c = getCore s c := by obtain ⟨_, _, rfl⟩ := hst; rfl
theorem JobsOnly.getEng_eq (c : Nat) : getEng t c = getEng s c := by obtain ⟨_, _, rfl⟩ := hst; rfl

end

/-! ### The instance and the invocation after an update -/

theorem instAt_updInst_of_eq {s : State} {h c : Nat} {i : Inst} {f : Inst → Inst} (hi : instAt s h c = some i)
    (hf : ∀ i, (f i).core = i.core) : instAt (updInst s h c f) h c = some (f i) := by
  rw [instAt_updInst s h c hf, hi, Option.map_some]

/-- An update of the invocation leaves every instance as it was. -/
@[simp] theorem instAt_updRun (s : State) (h c : Nat) (f : Invocation → Invocation) : instAt (updRun s h f) h c = instAt s h c := by
  rw [instAt, updRun, getJob_updJob_self, instAt]
  cases getJob s h <;> rfl

@[simp] theorem runAt_updRun (s : State) (h : Nat) (f : Invocation → Invocation) : runAt (updRun s h f) h = (runAt s h).map f := by
  rw [runAt, updRun, getJob_updJob_self, runAt]
  cases getJob s h <;> rfl

@[simp] theorem runAt_updInst (s : State) (h c : Nat) (f : Inst → Inst) : runAt (updInst s h c f) h = runAt s h := by
  rw [runAt, updInst, getJob_updJob_self, runAt]
  cases getJob s h <;> rfl

theorem LedgerOnly.instAt_eq {s t : State} (hl : LedgerOnly s t) (h c : Nat) : instAt t h c = instAt s h c := by
  rw [instAt, hl.getJob_eq, instAt]

theorem LedgerOnly.runAt_eq {s t : State} (hl : LedgerOnly s t) (h : Nat) : runAt t h = runAt s h := by
  rw [runAt, hl.getJob_eq, runAt]

/-- Nothing follows a step of an invocation that goes on. -/
theorem settleAborts_of_going {s : State} {h : Nat} {r : Invocation} (hr : runAt s h = some r) (hg : r.ending = false) :
    settleAborts s h = s := by
  obtain ⟨j, hj, hjr⟩ := Option.bind_eq_some_iff.mp hr
  simp [settleAborts, hj, hjr, hg]

/-! ### Going on to the next step (02 R58) -/

/-- The first step of an instance takes its core off those that have not begun, and charges the wait with the last of them. -/
theorem begun_cases (s : State) (c : Nat) (u : Cur) :
    begun s c u = s ∨ ∃ l, LedgerOnly (updRun s u.h fun r => { r with unbegun := l }) (begun s c u) := by
  unfold begun
  split
  · refine Or.inr ⟨u.run.unbegun.filter (· ≠ c), ?_⟩
    dsimp only
    split
    · exact chargeJob_ledgerOnly ..
    · exact .refl _
  · exact Or.inl rfl

theorem begun_jobsOnly (s : State) (c : Nat) (u : Cur) : JobsOnly s (begun s c u) := by
  obtain h | ⟨l, h⟩ := begun_cases s c u
  · rw [h]; exact .refl s
  · exact (updRun_jobsOnly ..).trans h.jobsOnly

@[simp] theorem instAt_begun (s : State) (c d : Nat) (u : Cur) : instAt (begun s c u) u.h d = instAt s u.h d := by
  obtain h | ⟨l, h⟩ := begun_cases s c u
  · rw [h]
  · rw [h.instAt_eq, instAt_updRun]

theorem runAt_begun {s : State} {u : Cur} {r : Invocation} (hr : runAt s u.h = some r) (c : Nat) :
    ∃ l, runAt (begun s c u) u.h = some { r with unbegun := l } := by
  obtain h | ⟨l, h⟩ := begun_cases s c u
  · exact ⟨r.unbegun, by rw [h, hr]⟩
  · exact ⟨l, by rw [h.runAt_eq, runAt_updRun, hr, Option.map_some]⟩

/-- The state from which the sequencer goes on: in the first step of a best-effort instance its core has begun. -/
def stepBegins (s : State) (c : Nat) (u : Cur) : State :=
  if u.job.bestEffort ∧ u.inst.epoch = 0 ∧ u.inst.step = 0 then begun s c u else s

theorem advance_eq (s : State) (c : Nat) (u : Cur) : advance s c u =
    updInst (stepBegins s c u) u.h c fun i => { i with step := i.step + 1, waitSince := nowNs (stepBegins s c u) } := rfl

theorem stepBegins_jobsOnly (s : State) (c : Nat) (u : Cur) : JobsOnly s (stepBegins s c u) := by
  unfold stepBegins; split
  · exact begun_jobsOnly ..
  · exact .refl s

theorem advance_jobsOnly (s : State) (c : Nat) (u : Cur) : JobsOnly s (advance s c u) :=
  (stepBegins_jobsOnly s c u).trans (updInst_jobsOnly ..)

/-- The instance stands one step further, since now. -/
theorem instAt_advance {s : State} {c : Nat} {u : Cur} {i : Inst} (hi : instAt s u.h c = some i) :
    instAt (advance s c u) u.h c = some { i with step := i.step + 1, waitSince := nowNs s } := by
  have hb : instAt (stepBegins s c u) u.h c = some i := by unfold stepBegins; split <;> simp [hi]
  rw [advance_eq, (stepBegins_jobsOnly s c u).nowNs_eq]
  exact instAt_updInst_of_eq hb fun _ => rfl

/-- The invocation is the same but for the cores that have not begun. -/
theorem runAt_advance {s : State} {u : Cur} {r : Invocation} (hr : runAt s u.h = some r) (c : Nat) :
    ∃ l, runAt (advance s c u) u.h = some { r with unbegun := l } := by
  rw [advance_eq, runAt_updInst]
  unfold stepBegins; split
  · exact runAt_begun hr c
  · exact ⟨r.unbegun, hr⟩

/-! ### Steps that complete when they issue -/

/-- A step without a post brings about nothing when it completes in an invocation that goes on. -/
theorem postStep_of_noPost {s : State} {c step : Nat} {u : Cur} {w : BitVec 128} {r : Invocation} (hp : stPostEn w = false)
    (hr : runAt s u.h = some r) (hg : r.ending = false) : postStep s c u w step = s := by
  simp [postStep, postHooks, post, hp, settleAborts_of_going hr hg]

/-- NOP, POST, FENCE and a CHECKPOINT that is a NOP, without a post. -/
theorem issueNow_of_noPost {s : State} {c op : Nat} {u : Cur} {w : BitVec 128} (hi : issuing s c op = some (u, w))
    (hp : stPostEn w = false) : issueNow s c op = advance s c u := by
  have hs := stands_of_issuing hi
  obtain ⟨l, hr⟩ := runAt_advance hs.runAt_eq c
  simp only [issueNow, hi]
  exact postStep_of_noPost hp hr hs.going

/-- CHECKPOINT is a NOP in a latency-critical job (02 R68). -/
theorem exec_checkpoint_of_latencyCritical {s : State} {c : Nat} {u : Cur} {w : BitVec 128} (hi : issuing s c 9 = some (u, w))
    (hb : u.job.bestEffort = false) : exec (.checkpoint c) s = .next (issueNow s c 9) := by
  obtain ⟨hn, hop, -⟩ := issuing_eq_some.mp hi
  change execCheckpoint c s = _
  simp [execCheckpoint, hn, hop, hb]

/-! ### Settled -/

/-- Settles O3: each of these steps is `issueNow`, which without a post is `advance`, and that touches only the job table and the
ledger. -/
theorem stepsThatTakeNoTime : Obligations.StepsThatTakeNoTime := by
  unfold Obligations.StepsThatTakeNoTime
  intro s c op i u w hrow hi hp
  have hexec : exec i s = .next (issueNow s c op) := by
    rcases hrow with hrow | ⟨rfl, rfl, hb⟩
    · simp only [List.mem_cons, List.not_mem_nil, or_false, Prod.mk.injEq] at hrow
      rcases hrow with ⟨rfl, rfl⟩ | ⟨rfl, rfl⟩ | ⟨rfl, rfl⟩ <;> rfl
    · exact exec_checkpoint_of_latencyCritical hi hb
  obtain ⟨-, hop, hgo⟩ := issuing_eq_some.mp hi
  have hj := advance_jobsOnly s c u
  exact ⟨fun h => issued_nil_of_canIssue hgo (Or.inl (hop.trans h)), _, by rw [hexec, issueNow_of_noPost hi hp],
    instAt_advance (stands_of_issuing hi).instAt_eq, hj.engines_eq, hj.hbm_eq, hj.tallies_eq, hj.cores_eq, hj.host_eq⟩

end Sys2Proof.Machine
end

section
/-! Steps that a unit executes: their issue, the start of the vector engine and the signal unit, array steps and transactions
(02 R57, R58; 03 R83, R84; 12 R322). -/

namespace Sys2Proof.Machine

/-! ### A step in progress -/

/-- An instance one step further, with the step it stood at as the last of those in progress. -/
def Inst.entered (i : Inst) (now : Nat) (w : BitVec 128) (x : Unit_) (n : Nat) : Inst :=
  { i with step := i.step + 1, waitSince := now, issued := i.issued ++ [{ unit := x, word := w, index := i.step, open_ := n }] }

theorem issueTimed_jobsOnly (s : State) (c : Nat) (u : Cur) (w : BitVec 128) (x : Unit_) (n : Nat) :
    JobsOnly s (issueTimed s c u w x n) := (advance_jobsOnly s c u).trans (updInst_jobsOnly ..)

theorem instAt_issueTimed {s : State} {c : Nat} {u : Cur} (hi : instAt s u.h c = some u.inst) (w : BitVec 128) (x : Unit_) (n : Nat) :
    instAt (issueTimed s c u w x n) u.h c = some (u.inst.entered (nowNs s) w x n) := by
  unfold issueTimed
  exact instAt_updInst_of_eq (instAt_advance hi) fun _ => rfl

theorem runAt_issueTimed {s : State} {u : Cur} {r : Invocation} (hr : runAt s u.h = some r) (c : Nat) (w : BitVec 128) (x : Unit_)
    (n : Nat) : ∃ l, runAt (issueTimed s c u w x n) u.h = some { r with unbegun := l } := by
  unfold issueTimed
  rw [runAt_updInst]
  exact runAt_advance hr c

/-- A step that meets no error of its memories is issued. -/
theorem issueChecked_of_noFind {s : State} {c op : Nat} {u : Cur} {w : BitVec 128} (hi : issuing s c op = some (u, w))
    (f : Cur → BitVec 128 → State → State) : issueChecked s c op [] f = f u w s := by
  simp [issueChecked, hi, eccFinds]

theorem issueUnit_of_idle {s : State} {u : Cur} {x : Unit_} (hx : (u.inst.issued.any fun y => y.unit = x) = false) (c : Nat)
    (w : BitVec 128) : issueUnit s c u w x = startUnit (issueTimed s c u w x 0) c u w := by
  simp [issueUnit, hx]

theorem issueUnit_of_busy {s : State} {u : Cur} {x : Unit_} (hx : (u.inst.issued.any fun y => y.unit = x) = true) (c : Nat)
    (w : BitVec 128) : issueUnit s c u w x = issueTimed s c u w x 0 := by
  simp [issueUnit, hx]

@[simp] theorem instAt_updEng (s : State) (d h c : Nat) (f : Engines → Engines) : instAt (updEng s d f) h c = instAt s h c := rfl
@[simp] theorem instAt_updCore (s : State) (d h c : Nat) (f : CoreCtl → CoreCtl) : instAt (updCore s d f) h c = instAt s h c := rfl
@[simp] theorem runAt_updCore (s : State) (d h : Nat) (f : CoreCtl → CoreCtl) : runAt (updCore s d f) h = runAt s h := rfl

/-! ### VEC and SIG -/

theorem startUnit_vec {w : BitVec 128} (h : stOp w = 3) (s : State) (c : Nat) (u : Cur) : startUnit s c u w = startVec s c w := by
  simp [startUnit, h]

theorem startUnit_sig {w : BitVec 128} (h : stOp w = 4) (s : State) (c : Nat) (u : Cur) : startUnit s c u w = startSig s c w := by
  simp [startUnit, h]

theorem exec_vec_of_idle {s : State} {c : Nat} {u : Cur} {w : BitVec 128} (hi : issuing s c 3 = some (u, w))
    (hx : (u.inst.issued.any fun y => y.unit = .vector) = false) :
    exec (.vec c []) s = .next (startVec (issueTimed s c u w .vector 0) c w) := by
  change execVec c [] s = _
  rw [execVec, issueChecked_of_noFind hi, issueUnit_of_idle hx, startUnit_vec (issuing_eq_some.mp hi).2.1]

theorem exec_sig_of_idle {s : State} {c : Nat} {u : Cur} {w : BitVec 128} (hi : issuing s c 4 = some (u, w))
    (hx : (u.inst.issued.any fun y => y.unit = .signal) = false) :
    exec (.sig c []) s = .next (startSig (issueTimed s c u w .signal 0) c w) := by
  change execSig c [] s = _
  rw [execSig, issueChecked_of_noFind hi, issueUnit_of_idle hx, startUnit_sig (issuing_eq_some.mp hi).2.1]

/-! ### RELOAD and PASS -/

/-- An array step whose check agrees. -/
theorem arrayStep_of_agrees {s : State} {c op : Nat} {u : Cur} {w : BitVec 128} (hi : issuing s c op = some (u, w))
    (f : State → Nat → Cur → BitVec 128 → State) : arrayStep s c op .ok [] f = issueTimed (f s c u w) c u w (.array (stSub w)) 0 := by
  simp [arrayStep, hi, issueChecked_of_noFind hi]

theorem modNth_getElem_self {α : Type} {l : List α} {i : Nat} {a : α} (h : l[i]? = some a) (f : α → α) : (modNth l i f)[i]? = some (f a) := by
  simp [modNth, h]

theorem getEng_passArray (s : State) (c : Nat) (u : Cur) (w : BitVec 128) : getEng (passArray s c u w) c =
    (let m := (getEng s c).mat
     let a := (nth MatArray.cleared m.arrays (stSub w)).swapped
     { getEng s c with mat := { m with
        acc := (passRun (getCore s c).scratch u.inst (stSub w) (opEntry (Tbl.get 0 m.opfile a.entry)) a.active (stArg w) m.acc).1
        arrays := setNth m.arrays (stSub w) a } }) := by
  unfold passArray
  dsimp only
  rw [(updRun_jobsOnly ..).getEng_eq, getEng_updEng_self]

@[simp] theorem instAt_passArray (s : State) (c : Nat) (u : Cur) (w : BitVec 128) (d : Nat) :
    instAt (passArray s c u w) u.h d = instAt s u.h d := by
  unfold passArray
  exact (instAt_updRun ..).trans (instAt_updEng ..)

theorem nowNs_passArray (s : State) (c : Nat) (u : Cur) (w : BitVec 128) : nowNs (passArray s c u w) = nowNs s := by
  unfold passArray
  exact (updRun_jobsOnly ..).nowNs_eq

/-! ### FEED and STORE -/

/-- Entries none of which faults go into flight with the step. -/
theorem issueMover_of_noFault {s : State} {c : Nat} {u : Cur} {w : BitVec 128} {q : Part} {ts : List Txn}
    (hq : Tbl.find s.work.parts u.job.part = some q)
    (ht : ((u.inst.entries u.inst.plan u.inst.step).map fun e => makeTxn s c u q u.inst.step e) = ts.map Sum.inl) :
    issueMover s c u w = updCore (issueTimed s c u w .mover ts.length) c fun k => { k with txns := k.txns ++ ts } := by
  have hnone : ∀ l : List Txn, l.findSome? (fun _ => (none : Option (Nat × Nat × Nat))) = none := fun l => by simp
  simp [issueMover, hq, ht, List.filterMap_map, List.findSome?_map, Function.comp_def, hnone]

/-- A mover step that faults nowhere (12 R322). -/
theorem issueMoves_of_noFault {s : State} {c op : Nat} {u : Cur} {w : BitVec 128} {q : Part} {ts : List Txn}
    (hi : issuing s c op = some (u, w)) (hq : Tbl.find s.work.parts u.job.part = some q)
    (ht : ((u.inst.entries u.inst.plan u.inst.step).map fun e => makeTxn s c u q u.inst.step e) = ts.map Sum.inl) :
    issueMoves s c op [] = updCore (issueTimed s c u w .mover ts.length) c fun k => { k with txns := k.txns ++ ts } := by
  have hs := stands_of_issuing hi
  obtain ⟨l, hr⟩ := runAt_issueTimed hs.runAt_eq c w .mover ts.length
  rw [issueMoves, issueChecked_of_noFind hi, issueMover_of_noFault hq ht]
  exact settleAborts_of_going (r := { u.run with unbegun := l }) hr hs.going

/-! ### Settled -/

/-- Settles O5: each class is `issueTimed`, which touches only the job table and the ledger, with the effect of its unit before or
after it. -/
theorem unitStepsAreIssued : Obligations.UnitStepsAreIssued := by
  unfold Obligations.UnitStepsAreIssued
  intro s c u w
  refine ⟨fun hi hx => ?vec, fun hi hx => ?sig, fun hi => ?reload, fun hi => ?pass, fun q ts i op hrow hi hq ht => ?mover⟩
  case vec =>
    have hj := issueTimed_jobsOnly s c u w .vector 0
    refine ⟨_, exec_vec_of_idle hi hx, instAt_issueTimed (stands_of_issuing hi).instAt_eq w .vector 0, ?_⟩
    rw [startVec, getEng_updEng_self, hj.getEng_eq]
    exact ⟨rfl, rfl, rfl, rfl, rfl, rfl⟩
  case sig =>
    have hj := issueTimed_jobsOnly s c u w .signal 0
    refine ⟨_, exec_sig_of_idle hi hx, instAt_issueTimed (stands_of_issuing hi).instAt_eq w .signal 0, ?_⟩
    rw [startSig, getEng_updEng_self, hj.getEng_eq]
    exact ⟨rfl, rfl, rfl, rfl⟩
  case reload =>
    have hj := issueTimed_jobsOnly (reloadArray s c u w) c u w (.array (stSub w)) 0
    refine ⟨_, congrArg Host.Outcome.next (arrayStep_of_agrees hi reloadArray),
      instAt_issueTimed (s := reloadArray s c u w) (stands_of_issuing hi).instAt_eq w _ 0, ?_⟩
    rw [hj.getEng_eq, reloadArray, getEng_updEng_self]
    exact ⟨rfl, fun a ha => modNth_getElem_self ha _⟩
  case pass =>
    have hj := issueTimed_jobsOnly (passArray s c u w) c u w (.array (stSub w)) 0
    refine ⟨_, congrArg Host.Outcome.next (arrayStep_of_agrees hi passArray), ?_, ?_⟩
    · have hinst := instAt_issueTimed (s := passArray s c u w) (u := u) (c := c)
        (by rw [instAt_passArray, (stands_of_issuing hi).instAt_eq]) w (.array (stSub w)) 0
      rwa [nowNs_passArray] at hinst
    · rw [hj.getEng_eq, getEng_passArray]
      exact ⟨rfl, rfl, rfl⟩
  case mover =>
    have hexec : exec i s = .next (issueMoves s c op []) := by
      simp only [List.mem_cons, List.not_mem_nil, or_false, Prod.mk.injEq] at hrow
      rcases hrow with ⟨rfl, rfl⟩ | ⟨rfl, rfl⟩ <;> rfl
    have hj := issueTimed_jobsOnly s c u w .mover ts.length
    refine ⟨_, hexec.trans (congrArg Host.Outcome.next (issueMoves_of_noFault hi hq ht)),
      instAt_issueTimed (stands_of_issuing hi).instAt_eq w .mover ts.length, ?_, ?_, hj.hbm_eq, hj.engines_eq⟩ <;>
    rw [getCore_updCore_self, hj.getCore_eq]

end Sys2Proof.Machine
end

section
/-! MINT and DIGEST: what a tile of the mint writes, takes and counts, and what a digest point keeps (02 R69; 04 R108-R112). -/

namespace Sys2Proof.Machine

/-! ### Tiles taken -/

theorem Inst.taken_take1 (i : Inst) (k key : Nat) : (i.take1 k).taken key = i.taken key + if key = k then 1 else 0 := by
  by_cases h : key = k
  · subst h; simp [Inst.taken, Inst.take1]
  · have hne : ∀ a : Nat × Nat, (!decide (a.1 = k) && decide (a.1 = key)) = decide (a.1 = key) := fun a => by
      by_cases ha : a.1 = key <;> simp [ha, h]
    simp [Inst.taken, Inst.take1, List.find?_filter, Ne.symm h, h, hne]

/-- How often one output tile takes the tile counted under a key: its own, its source's, its scale stream's. -/
def MintJob.takes (j : MintJob) (key : Nat) : Nat :=
  (if key = j.stream then 1 else 0) + (if j.f 0 1 = 0 ∧ key = takeKey (j.f 2 2) then 1 else 0)
    + if (j.out.scaleMode = 2 ∧ j.f 0x1C 2 ≠ 0xFFFF) ∧ key = takeKey (j.f 0x1C 2) then 1 else 0

/-- The instance after one output tile. -/
def MintJob.takeTile (j : MintJob) (i : Inst) : Inst :=
  let i := i.take1 j.stream
  let i := if j.f 0 1 = 0 then i.take1 (takeKey (j.f 2 2)) else i
  if j.out.scaleMode = 2 ∧ j.f 0x1C 2 ≠ 0xFFFF then i.take1 (takeKey (j.f 0x1C 2)) else i

theorem Inst.taken_takeIf (i : Inst) (p : Prop) [Decidable p] (k key : Nat) :
    (if p then i.take1 k else i).taken key = i.taken key + if p ∧ key = k then 1 else 0 := by
  by_cases h : p <;> simp [h, i.taken_take1]

theorem MintJob.taken_takeTile (j : MintJob) (i : Inst) (key : Nat) : (j.takeTile i).taken key = i.taken key + j.takes key := by
  simp only [takeTile, takes, Inst.taken_takeIf, Inst.taken_take1]
  omega

theorem Inst.takeIf_eq (i : Inst) (p : Prop) [Decidable p] (k : Nat) :
    (if p then i.take1 k else i) = { i with minted := (if p then i.take1 k else i).minted } := by
  split <;> rfl

/-- Only the counts of tiles change. -/
theorem MintJob.takeTile_eq (j : MintJob) (i : Inst) : j.takeTile i = { i with minted := (j.takeTile i).minted } := by
  unfold takeTile
  dsimp only
  rw [Inst.takeIf_eq, Inst.takeIf_eq (i.take1 j.stream)]
  rfl

/-! ### Rows -/

@[simp] theorem packCodes_length (w : Nat) (codes : List Nat) : (packCodes w codes).length = ceilDiv (w * codes.length) 8 := by
  simp [packCodes]

/-- The bytes of an output row. -/
def MintJob.rowSize (j : MintJob) : Nat :=
  ceilDiv (elemBits j.out.format * j.out.elems) 8 + if isMx j.out.format then j.out.elems / 32 else 0

@[simp] theorem MintJob.source_length (j : MintJob) (m : Mem) (acc : Tbl (BitVec 32)) (i : Inst) (t p r : Nat) :
    (j.source m acc i t p r).length = j.out.elems := by
  simp only [source, List.length_map, List.length_zipIdx]
  split
  · split <;> simp
  · simp

@[simp] theorem MintJob.convertRow_length (j : MintJob) (param : RowParam) (k pos0 : Nat) (xs : List Val) :
    (j.convertRow param k pos0 xs).1.length = xs.length := by
  simp only [convertRow]
  split <;> simp

theorem MintJob.convertRow_scales_length (j : MintJob) (param : RowParam) (k pos0 : Nat) (xs : List Val) :
    (j.convertRow param k pos0 xs).2.length = if isMx j.out.format then xs.length / 32 else 0 := by
  simp only [convertRow]
  split <;> simp

theorem MintJob.rowBytes_convertRow_length (j : MintJob) (param : RowParam) (k pos0 : Nat) {xs : List Val}
    (hx : xs.length = j.out.elems) : (j.rowBytes (j.convertRow param k pos0 xs)).length = j.rowSize := by
  simp [rowBytes, rowSize, convertRow_scales_length, hx]

/-- Byte a lies in row r of plane p of the tile at a slot. -/
def MintJob.InRow (j : MintJob) (i : Inst) (slot p r a : Nat) : Prop :=
  tileRow i j.out slot p r ≤ a ∧ a < tileRow i j.out slot p r + j.rowSize

/-- From x to y, m rows were written, all within the bytes of A, and counted. -/
structure MintJob.Wrote (j : MintJob) (A : Nat → Prop) (m : Nat) (x y : MintRun) : Prop where
  inst : y.inst = x.inst
  total : y.total = x.total + m * j.out.elems
  read : ∀ a, ¬ A a → Mem.read y.mem a = Mem.read x.mem a

theorem MintJob.Wrote.refl (j : MintJob) (A : Nat → Prop) (x : MintRun) : j.Wrote A 0 x x := ⟨rfl, by simp, fun _ _ => rfl⟩

theorem MintJob.Wrote.trans {j : MintJob} {A : Nat → Prop} {m n : Nat} {x y z : MintRun} (h : j.Wrote A m x y) (k : j.Wrote A n y z) :
    j.Wrote A (m + n) x z :=
  ⟨k.inst.trans h.inst, by rw [k.total, h.total]; ring, fun a ha => (k.read a ha).trans (h.read a ha)⟩

/-- Rows written one group after another on the same instance. -/
theorem MintJob.Wrote.foldl {j : MintJob} {A : Nat → Prop} {m : Nat} {i : Inst} {f : MintRun → Nat → MintRun} (l : List Nat)
    (hf : ∀ x, x.inst = i → ∀ e ∈ l, j.Wrote A m x (f x e)) {x : MintRun} (hx : x.inst = i) :
    j.Wrote A (l.length * m) x (l.foldl f x) := by
  induction l generalizing x with
  | nil => simpa using MintJob.Wrote.refl j A x
  | cons e l ih =>
    have h := hf x hx e List.mem_cons_self
    have k := ih (fun x hx e he => hf x hx e (List.mem_cons_of_mem _ he)) (h.inst.trans hx)
    have hlen : (e :: l).length * m = m + l.length * m := by simp [Nat.succ_mul, Nat.add_comm]
    rw [hlen]
    exact h.trans k

/-- One row. -/
theorem MintJob.row_wrote (j : MintJob) (acc : Tbl (BitVec 32)) (slot t k p r : Nat) (x : MintRun) {A : Nat → Prop}
    (hA : ∀ a, j.InRow x.inst slot p r a → A a) : j.Wrote A 1 x (j.row acc slot t k p r x) := by
  refine ⟨rfl, by simp [row], fun a ha => ?_⟩
  refine Mem.read_writeBytes_other _ _ _ _ ?_
  have hout : ¬ j.InRow x.inst slot p r a := fun h => ha (hA a h)
  have hlen := j.rowBytes_convertRow_length (j.param x.mem x.inst r) k ((p * j.out.rows + r) * j.out.elems)
    (j.source_length x.mem acc x.inst t p r)
  simp only [InRow, not_and_or, not_le, not_lt] at hout
  rw [← hlen] at hout
  exact hout

/-! ### Tiles -/

/-- The rows of tile t of the step. -/
def MintJob.tileRows (j : MintJob) (acc : Tbl (BitVec 32)) (t : Nat) (x : MintRun) : MintRun :=
  let k := x.inst.taken j.stream
  match x.inst.tileSlot j.stream k true with
  | none => x
  | some slot =>
    (List.range j.out.planes).foldl (fun x p => (List.range j.out.rows).foldl (fun x r => j.row acc slot t k p r x) x) x

theorem MintJob.tile_eq (j : MintJob) (acc : Tbl (BitVec 32)) (t : Nat) (x : MintRun) :
    j.tile acc t x = { j.tileRows acc t x with inst := j.takeTile (j.tileRows acc t x).inst } := rfl

/-- Byte a lies in a row of the tile at a slot. -/
def MintJob.InTile (j : MintJob) (i : Inst) (slot a : Nat) : Prop := ∃ p r, p < j.out.planes ∧ r < j.out.rows ∧ j.InRow i slot p r a

/-- The rows of a tile that has a place. -/
theorem MintJob.tileRows_wrote (j : MintJob) (acc : Tbl (BitVec 32)) (t : Nat) {x : MintRun} {slot : Nat}
    (hslot : x.inst.tileSlot j.stream (x.inst.taken j.stream) true = some slot) :
    j.Wrote (j.InTile x.inst slot) (j.out.planes * j.out.rows) x (j.tileRows acc t x) := by
  have hplane : ∀ y : MintRun, y.inst = x.inst → ∀ p ∈ List.range j.out.planes, j.Wrote (j.InTile x.inst slot) j.out.rows y
      ((List.range j.out.rows).foldl (fun x' r => j.row acc slot t (x.inst.taken j.stream) p r x') y) := by
    intro y hy p hp
    have hrows := MintJob.Wrote.foldl (j := j) (A := j.InTile x.inst slot) (m := 1) (i := x.inst)
      (f := fun x' r => j.row acc slot t (x.inst.taken j.stream) p r x') (List.range j.out.rows)
      (fun z hz r hr => j.row_wrote acc slot t _ p r z fun a ha =>
        ⟨p, r, List.mem_range.mp hp, List.mem_range.mp hr, hz ▸ ha⟩) hy
    simpa using hrows
  have htile := MintJob.Wrote.foldl (List.range j.out.planes) hplane rfl
  rw [List.length_range] at htile
  simpa only [tileRows, hslot] using htile

theorem MintJob.tileRows_of_noPlace (j : MintJob) (acc : Tbl (BitVec 32)) (t : Nat) {x : MintRun}
    (hslot : x.inst.tileSlot j.stream (x.inst.taken j.stream) true = none) : j.tileRows acc t x = x := by
  simp [tileRows, hslot]

/-- What n tiles of a step have done to what stood before it. -/
structure MintJob.Ran (j : MintJob) (n : Nat) (x y : MintRun) : Prop where
  inst : y.inst = { x.inst with minted := y.inst.minted }
  taken : ∀ key, y.inst.taken key = x.inst.taken key + n * j.takes key
  total : (x.inst.ringOf j.stream true).isSome = true → y.total = x.total + n * j.out.planes * j.out.rows * j.out.elems
  read : ∀ a, (∀ k g, k < n → x.inst.tileSlot j.stream (x.inst.taken j.stream + k * j.takes j.stream) true = some g →
    ¬ j.InTile x.inst g a) → Mem.read y.mem a = Mem.read x.mem a

theorem MintJob.Ran.zero (j : MintJob) (x : MintRun) : j.Ran 0 x x := ⟨rfl, by simp, by simp, fun _ _ => rfl⟩

theorem MintJob.Ran.tile {j : MintJob} {n : Nat} {x y : MintRun} (h : j.Ran n x y) (acc : Tbl (BitVec 32)) (t : Nat) :
    j.Ran (n + 1) x (j.tile acc t y) := by
  rw [tile_eq]
  have hplace : y.inst.tileSlot j.stream (y.inst.taken j.stream) true =
      x.inst.tileSlot j.stream (x.inst.taken j.stream + n * j.takes j.stream) true := by
    rw [h.taken, h.inst]; rfl
  have hinst : (j.tileRows acc t y).inst = y.inst := by
    cases hslot : y.inst.tileSlot j.stream (y.inst.taken j.stream) true with
    | none => rw [j.tileRows_of_noPlace acc t hslot]
    | some slot => exact (j.tileRows_wrote acc t hslot).inst
  refine ⟨?inst, fun key => ?taken, fun hring => ?total, fun a ha => ?read⟩
  case inst =>
    dsimp only
    rw [takeTile_eq, hinst, h.inst]
  case taken =>
    dsimp only
    rw [taken_takeTile, hinst, h.taken]
    ring
  case total =>
    obtain ⟨slot, hslot⟩ := Option.isSome_iff_exists.mp
      (show (x.inst.tileSlot j.stream (x.inst.taken j.stream + n * j.takes j.stream) true).isSome = true by simpa [Inst.tileSlot] using hring)
    have hw := j.tileRows_wrote acc t (hplace.trans hslot)
    dsimp only
    rw [hw.total, h.total hring]
    ring
  case read =>
    have hold := h.read a fun k g hk => ha k g (Nat.lt_succ_of_lt hk)
    dsimp only
    rw [← hold]
    cases hslot : y.inst.tileSlot j.stream (y.inst.taken j.stream) true with
    | none => rw [j.tileRows_of_noPlace acc t hslot]
    | some slot =>
      refine (j.tileRows_wrote acc t hslot).read a fun hin => ha n slot (Nat.lt_succ_self n) (hplace ▸ hslot) ?_
      rw [h.inst] at hin
      exact hin

theorem MintJob.ran_tiles (j : MintJob) (acc : Tbl (BitVec 32)) (x : MintRun) (n : Nat) :
    j.Ran n x ((List.range n).foldl (fun x t => j.tile acc t x) x) := by
  induction n with
  | zero => exact .zero j x
  | succ n ih =>
    rw [List.range_succ, List.foldl_append]
    exact ih.tile acc n

/-! ### Counts of an entry (04 R112) -/

/-- The first element that satisfies a test, after a change that the test does not see. -/
theorem find?_map_of_unseen {α : Type} {p : α → Bool} {g : α → α} (h : ∀ a, p (g a) = p a) (l : List α) :
    (l.map g).find? p = (l.find? p).map g := by
  rw [List.find?_map, show p ∘ g = p from funext h]

/-- An entry's TOTAL grows by the elements of a step. -/
theorem find_countMint (cs : List MintCount) (station entry tag epoch total clipped nan : Nat) :
    ∃ m, (countMint cs station entry tag epoch total clipped nan).find? (fun m => decide (m.station = station ∧ m.entry = entry)) = some m ∧
      m.total = (cs.find? fun m => decide (m.station = station ∧ m.entry = entry)).elim 0 (fun m => m.total) + total := by
  unfold countMint
  dsimp only
  cases hfind : cs.find? fun m => decide (m.station = station ∧ m.entry = entry) with
  | some m =>
    have hm := List.find?_some hfind
    rw [if_pos (List.any_eq_true.mpr ⟨m, List.mem_of_find?_eq_some hfind, hm⟩),
      find?_map_of_unseen (fun a => by split <;> rfl), hfind]
    exact ⟨_, rfl, by simp only [if_pos hm, Option.elim_some]⟩
  | none =>
    have hany : ¬ (cs.any fun m => decide (m.station = station ∧ m.entry = entry)) = true := by
      simpa [List.find?_eq_none] using hfind
    rw [if_neg hany, List.find?_append, hfind]
    exact ⟨_, Option.none_or.trans (List.find?_cons_of_pos (by simp)), by simp⟩

/-! ### A MINT step -/

/-- The tiles of a MINT step. -/
def mintedRun (s : State) (c : Nat) (u : Cur) (w : BitVec 128) : MintRun :=
  (List.range (bits (stArg w) 31 16)).foldl (fun x t => (mintJob u w).tile (getEng s c).mat.acc t x)
    { mem := (getCore s c).scratch, inst := u.inst, total := 0, clipped := 0, nan := 0 }

/-- The invocation with a step's counts added. -/
def countRunMint (u : Cur) (w : BitVec 128) (x : MintRun) (r : Invocation) : Invocation :=
  { r with mints := countMint r.mints (mintStation u w) (mintJob u w).entry ((mintJob u w).f 0x20 4) u.inst.epoch x.total x.clipped x.nan }

theorem runMint_eq (s : State) (c : Nat) (u : Cur) (w : BitVec 128) : runMint s c u w =
    updRun (updInst (setScratch s c (mintedRun s c u w).mem) u.h c fun i => { i with minted := (mintedRun s c u w).inst.minted }) u.h
      (countRunMint u w (mintedRun s c u w)) := rfl

theorem runMint_jobsOnly (s : State) (c : Nat) (u : Cur) (w : BitVec 128) :
    JobsOnly (setScratch s c (mintedRun s c u w).mem) (runMint s c u w) :=
  (updInst_jobsOnly ..).trans (updRun_jobsOnly ..)

/-- The scratchpad takes the rows. -/
theorem scratch_runMint (s : State) (c : Nat) (u : Cur) (w : BitVec 128) :
    (getCore (runMint s c u w) c).scratch = (mintedRun s c u w).mem := by
  rw [(runMint_jobsOnly s c u w).getCore_eq, setScratch, getCore_updCore_self]

theorem getCore_runMint_other (s : State) (c : Nat) (u : Cur) (w : BitVec 128) {d : Nat} (hd : d ≠ c) :
    getCore (runMint s c u w) d = getCore s d := by
  rw [(runMint_jobsOnly s c u w).getCore_eq, setScratch, getCore_updCore_other _ _ hd]

theorem instAt_runMint {s : State} {c : Nat} {u : Cur} {i : Inst} (hi : instAt s u.h c = some i) (w : BitVec 128) :
    instAt (runMint s c u w) u.h c = some { i with minted := (mintedRun s c u w).inst.minted } := by
  rw [runMint_eq, instAt_updRun]
  exact instAt_updInst_of_eq (s := setScratch s c (mintedRun s c u w).mem) hi fun _ => rfl

theorem runAt_runMint {s : State} {u : Cur} {r : Invocation} (hr : runAt s u.h = some r) (c : Nat) (w : BitVec 128) :
    runAt (runMint s c u w) u.h = some (countRunMint u w (mintedRun s c u w) r) := by
  rw [runMint_eq, runAt_updRun, runAt_updInst, setScratch, runAt_updCore, hr]
  rfl

/-- A step's own stream is counted under another key than the streams that it reads: STREAM has 12 bits. -/
theorem takeKey_ne_stream (u : Cur) (w : BitVec 128) (k : Nat) : takeKey k ≠ (mintJob u w).stream := by
  have hlt : (mintJob u w).stream < 65536 := lt_of_lt_of_le (Nat.mod_lt _ (by decide)) (by decide : 2 ^ (91 + 1 - 80) ≤ 65536)
  unfold takeKey; omega

theorem takes_stream (u : Cur) (w : BitVec 128) : (mintJob u w).takes (mintJob u w).stream = 1 := by
  simp [MintJob.takes, (takeKey_ne_stream u w _).symm]

theorem takeKey_inj {a b : Nat} : takeKey a = takeKey b ↔ a = b := by simp [takeKey]

/-- One tile of a source stream that is not the scale stream as well. -/
theorem takes_source {u : Cur} {w : BitVec 128} (h0 : (mintJob u w).f 0 1 = 0)
    (hss : ¬ ((mintJob u w).out.scaleMode = 2 ∧ (mintJob u w).f 0x1C 2 = (mintJob u w).f 2 2)) :
    (mintJob u w).takes (takeKey ((mintJob u w).f 2 2)) = 1 := by
  have hscale : ¬ (((mintJob u w).out.scaleMode = 2 ∧ (mintJob u w).f 0x1C 2 ≠ 0xFFFF) ∧ (mintJob u w).f 2 2 = (mintJob u w).f 0x1C 2) :=
    fun h => hss ⟨h.1.1, h.2.symm⟩
  simp only [MintJob.takes, takeKey_ne_stream, takeKey_inj, h0, if_neg hscale]
  rfl

/-- One tile of a scale stream that is not the source stream as well. -/
theorem takes_scale {u : Cur} {w : BitVec 128} (hm : (mintJob u w).out.scaleMode = 2) (hf : (mintJob u w).f 0x1C 2 ≠ 0xFFFF)
    (hsrc : ¬ ((mintJob u w).f 0 1 = 0 ∧ (mintJob u w).f 2 2 = (mintJob u w).f 0x1C 2)) :
    (mintJob u w).takes (takeKey ((mintJob u w).f 0x1C 2)) = 1 := by
  have hsrc' : ¬ ((mintJob u w).f 0 1 = 0 ∧ (mintJob u w).f 0x1C 2 = (mintJob u w).f 2 2) := fun h => hsrc ⟨h.1, h.2.symm⟩
  simp only [MintJob.takes, takeKey_ne_stream, takeKey_inj, if_neg hsrc']
  simp [hm, hf]

/-- The one row of a tile of one row. -/
theorem tile_mem_of_oneRow {j : MintJob} {x : MintRun} {g : Nat} (hp : j.out.planes = 1) (hr : j.out.rows = 1)
    (hg : x.inst.tileSlot j.stream (x.inst.taken j.stream) true = some g) (acc : Tbl (BitVec 32)) :
    (j.tile acc 0 x).mem = Mem.writeBytes x.mem (tileRow x.inst j.out g 0 0)
      (j.rowBytes (j.convertRow (j.param x.mem x.inst 0) (x.inst.taken j.stream) 0 (j.source x.mem acc x.inst 0 0 0))) := by
  simp [MintJob.tile_eq, MintJob.tileRows, hg, hp, hr, MintJob.row]

theorem startUnit_mint {w : BitVec 128} (h : stOp w = 7) (s : State) (c : Nat) (u : Cur) : startUnit s c u w = runMint s c u w := by
  simp [startUnit, h]

theorem exec_mint_of_idle {s : State} {c : Nat} {u : Cur} {w : BitVec 128} (hi : issuing s c 7 = some (u, w))
    (hx : (u.inst.issued.any fun y => y.unit = .vector) = false) :
    exec (.mint c []) s = .next (runMint (issueTimed s c u w .vector 0) c u w) := by
  change execMint c [] s = _
  rw [execMint, issueChecked_of_noFind hi, issueUnit_of_idle hx, startUnit_mint (issuing_eq_some.mp hi).2.1]

/-- A MINT step that another step keeps from the vector unit waits. -/
theorem exec_mint_of_busy {s : State} {c : Nat} {u : Cur} {w : BitVec 128} (hi : issuing s c 7 = some (u, w))
    (hx : (u.inst.issued.any fun y => y.unit = .vector) = true) :
    exec (.mint c []) s = .next (issueTimed s c u w .vector 0) := by
  change execMint c [] s = _
  rw [execMint, issueChecked_of_noFind hi, issueUnit_of_busy hx]

/-! ### A DIGEST step -/

/-- The instance of a digest point's producer on a core. -/
def digestInst (u : Cur) (w : BitVec 128) : Nat :=
  ((u.inst.stations.find? fun x => x.1 = streamField u.job.image (digestField u.job.image (stArg w) 4 2) 0 2).map Prod.snd).getD 0

/-- The partial result that a DIGEST step gives. -/
def digestTaken (s : State) (c : Nat) (u : Cur) (w : BitVec 128) : PartDigest :=
  { point := stArg w, epoch := u.inst.epoch, inst := digestInst u w
    bytes := (List.range (digestField u.job.image (stArg w) 8 2)).flatMap fun k =>
      tileBytes (getCore s c).scratch u.inst u.job.image (digestField u.job.image (stArg w) 4 2) (digestField u.job.image (stArg w) 6 2 + k) }

theorem takeDigest_of_emits {s : State} {u : Cur} {w : BitVec 128} (he : digestEmits u.job (stArg w) u.inst.epoch = true) (c : Nat) :
    ∃ p : PartDigest → Bool,
      takeDigest s c u w = updRun s u.h fun r => { r with digests := r.digests.filter p ++ [digestTaken s c u w] } :=
  ⟨_, if_pos he⟩

theorem takeDigest_of_silent {s : State} {u : Cur} {w : BitVec 128} (he : digestEmits u.job (stArg w) u.inst.epoch = false) (c : Nat) :
    takeDigest s c u w = s := by
  simp [takeDigest, he]

theorem takeDigest_jobsOnly (s : State) (c : Nat) (u : Cur) (w : BitVec 128) : JobsOnly s (takeDigest s c u w) := by
  unfold takeDigest
  dsimp only
  split
  · exact updRun_jobsOnly ..
  · exact .refl s

@[simp] theorem instAt_takeDigest (s : State) (c : Nat) (u : Cur) (w : BitVec 128) (d : Nat) :
    instAt (takeDigest s c u w) u.h d = instAt s u.h d := by
  unfold takeDigest
  dsimp only
  split
  · exact instAt_updRun ..
  · rfl

/-- Between the state before and after, the digests of the invocation are as the point's EVERY says. -/
theorem runAt_takeDigest {s : State} {u : Cur} {r : Invocation} (hr : runAt s u.h = some r) (c : Nat) (w : BitVec 128) :
    ∃ r', runAt (takeDigest s c u w) u.h = some r' ∧
      (digestEmits u.job (stArg w) u.inst.epoch = false → r'.digests = r.digests) ∧
      (digestEmits u.job (stArg w) u.inst.epoch = true → digestTaken s c u w ∈ r'.digests) := by
  cases he : digestEmits u.job (stArg w) u.inst.epoch with
  | false => exact ⟨r, by rw [takeDigest_of_silent he, hr], fun _ => rfl, fun h => (by cases h)⟩
  | true =>
    obtain ⟨p, hp⟩ := takeDigest_of_emits he c
    exact ⟨_, by rw [hp, runAt_updRun, hr, Option.map_some], fun h => (by cases h), fun _ => by simp⟩

theorem exec_digest_of_issuing {s : State} {c : Nat} {u : Cur} {w : BitVec 128} (hi : issuing s c 10 = some (u, w)) :
    exec (.digest c []) s = .next (issueTimed (takeDigest s c u w) c u w .mover 0) := by
  change execDigest c [] s = _
  rw [execDigest, issueChecked_of_noFind hi]

/-! ### Settled -/

/-- Settles O6: a MINT step is `issueTimed`, then the tiles of `mintedRun`, which `MintJob.ran_tiles` sums up by induction on their
number; a DIGEST step is `takeDigest`, then `issueTimed`. -/
theorem mintAndDigestSteps : Obligations.MintAndDigestSteps := by
  unfold Obligations.MintAndDigestSteps
  intro s c u w
  refine ⟨fun hi => ⟨fun hx => ?busy, fun hx => ?free⟩, fun hi => ?digest⟩
  case busy =>
    have hj := issueTimed_jobsOnly s c u w .vector 0
    exact ⟨_, exec_mint_of_busy hi hx, instAt_issueTimed (stands_of_issuing hi).instAt_eq w .vector 0, hj.cores_eq, hj.engines_eq,
      hj.hbm_eq, hj.tallies_eq, hj.host_eq⟩
  case free =>
    have hs := stands_of_issuing hi
    have hj := issueTimed_jobsOnly s c u w .vector 0
    have hm := runMint_jobsOnly (issueTimed s c u w .vector 0) c u w
    obtain ⟨l, hr⟩ := runAt_issueTimed hs.runAt_eq c w .vector 0
    have hran : (mintJob u w).Ran (bits (stArg w) 31 16)
        { mem := (getCore s c).scratch, inst := u.inst, total := 0, clipped := 0, nan := 0 }
        (mintedRun (issueTimed s c u w .vector 0) c u w) := by
      unfold mintedRun
      rw [hj.getCore_eq]
      exact MintJob.ran_tiles ..
    have htaken : ∀ key, Inst.taken { u.inst.entered (nowNs s) w .vector 0 with
        minted := (mintedRun (issueTimed s c u w .vector 0) c u w).inst.minted } key =
          u.inst.taken key + bits (stArg w) 31 16 * (mintJob u w).takes key := hran.taken
    refine ⟨_, _, exec_mint_of_idle hi hx, instAt_runMint (instAt_issueTimed hs.instAt_eq w .vector 0) w, rfl,
      ⟨hm.engines_eq.trans hj.engines_eq, hm.hbm_eq.trans hj.hbm_eq, hm.tallies_eq.trans hj.tallies_eq, hm.host_eq.trans hj.host_eq⟩,
      by
        have hown := htaken (mintJob u w).stream
        rwa [takes_stream, Nat.mul_one] at hown, fun h0 hss _ => by rw [htaken, takes_source h0 hss, Nat.mul_one],
      fun h2 hf hsrc => by rw [htaken, takes_scale h2 hf hsrc, Nat.mul_one], fun hring => ?_,
      fun d hd => by rw [getCore_runMint_other _ _ _ _ hd, hj.getCore_eq], fun a ha => ?_, fun g hn hp hrow hg => ?_⟩
    · obtain ⟨m, hfind, htotal⟩ := find_countMint u.run.mints (mintStation u w) (mintJob u w).entry ((mintJob u w).f 0x20 4) u.inst.epoch
        (mintedRun (issueTimed s c u w .vector 0) c u w).total (mintedRun (issueTimed s c u w .vector 0) c u w).clipped
        (mintedRun (issueTimed s c u w .vector 0) c u w).nan
      refine ⟨_, m, runAt_runMint hr c w, hfind, ?_⟩
      rw [htotal, hran.total hring, Nat.zero_add]
    · rw [scratch_runMint]
      refine hran.read a fun k g hk hg hin => ?_
      obtain ⟨p, r, hp, hr, hlo, hhi⟩ := hin
      rw [takes_stream, Nat.mul_one] at hg
      have := ha k p r g hk hp hr hg
      dsimp only [MintJob.rowSize] at hlo hhi
      omega
    · rw [scratch_runMint, mintedRun, hn, hj.getCore_eq, hj.getEng_eq]
      exact tile_mem_of_oneRow hp hrow hg _
  case digest =>
    have hs := stands_of_issuing hi
    have hd := takeDigest_jobsOnly s c u w
    have hj := hd.trans (issueTimed_jobsOnly (takeDigest s c u w) c u w .mover 0)
    have hinst := instAt_issueTimed (s := takeDigest s c u w) (c := c) (by rw [instAt_takeDigest, hs.instAt_eq]) w .mover 0
    rw [hd.nowNs_eq] at hinst
    obtain ⟨r, hr, hkeep, hnew⟩ := runAt_takeDigest hs.runAt_eq c w
    obtain ⟨l, hr⟩ := runAt_issueTimed hr c w .mover 0
    exact ⟨_, _, exec_digest_of_issuing hi, hinst, hj.cores_eq, ⟨hj.engines_eq, hj.hbm_eq, hj.tallies_eq, hj.host_eq⟩, hr, hkeep,
      fun he => ⟨_, hnew he, rfl, rfl, rfl⟩⟩

end Sys2Proof.Machine
end

section
/-! What the device sends: messages, completions, events and interrupts change tills, queues and outputs, and neither work, engines,
services nor device time; a completion takes its command off those in progress (15 R399, R407; 16 R421, R442). -/

namespace Sys2Proof.Machine

/-- From s to t the device has sent, or taken commands off those in progress, and done nothing else to what it works on. -/
structure Sends (s t : State) : Prop where
  work : t.work = s.work
  engines : t.engines = s.engines
  services : t.services = s.services
  timing : t.net.timing = s.net.timing
  tickets : t.host.tickets ⊆ s.host.tickets

theorem Sends.refl (s : State) : Sends s s := ⟨rfl, rfl, rfl, rfl, List.Subset.refl _⟩

theorem Sends.trans {s t u : State} (h : Sends s t) (k : Sends t u) : Sends s u :=
  ⟨k.work.trans h.work, k.engines.trans h.engines, k.services.trans h.services, k.timing.trans h.timing, List.Subset.trans k.tickets h.tickets⟩

theorem Sends.foldl {α : Type} {f : State → α → State} (hf : ∀ s a, Sends s (f s a)) (l : List α) (s : State) : Sends s (l.foldl f s) := by
  induction l generalizing s with
  | nil => exact .refl s
  | cons a l ih => exact (hf s a).trans (ih (f s a))

theorem Sends.ite {s a b : State} {p : Prop} [Decidable p] (ha : Sends s a) (hb : Sends s b) : Sends s (if p then a else b) := by
  split <;> assumption

section
variable {s t : State} (hst : Sends s t)
include hst

theorem Sends.getJob_eq (h : Nat) : getJob t h = getJob s h := by unfold getJob; rw [hst.work]
theorem Sends.getCore_eq (c : Nat) : getCore t c = getCore s c := by unfold getCore; rw [hst.work]
theorem Sends.getEng_eq (c : Nat) : getEng t c = getEng s c := by unfold getEng; rw [hst.engines]
theorem Sends.nowNs_eq : nowNs t = nowNs s := by unfold nowNs timeS timeSubNs; rw [hst.timing]

end

/-! ### Updates of what is sent -/

theorem emit_sends (s : State) (o : Output) : Sends s (emit s o) := ⟨rfl, rfl, rfl, rfl, List.Subset.refl _⟩
theorem updFn_sends (s : State) (f : Nat) (g : Fn → Fn) : Sends s (updFn s f g) := ⟨rfl, rfl, rfl, rfl, List.Subset.refl _⟩
theorem updTill_sends (s : State) (n : Nat) (g : Till → Till) : Sends s (updTill s n g) := ⟨rfl, rfl, rfl, rfl, List.Subset.refl _⟩
theorem updMgmt_sends (s : State) (f : Mgmt → Mgmt) : Sends s (updMgmt s f) := ⟨rfl, rfl, rfl, rfl, List.Subset.refl _⟩
theorem updMac_sends (s : State) (m : Nat) (f : Mac → Mac) : Sends s (updMac s m f) := ⟨rfl, rfl, rfl, rfl, List.Subset.refl _⟩

/-! ### Interrupts and tills -/

theorem sendVector_sends (s : State) (f v : Nat) : Sends s (sendVector s f v) := by
  unfold sendVector
  exact .ite (.refl s) (.ite (updFn_sends ..) (.ite (updFn_sends ..) (.ite (emit_sends ..) ((emit_sends ..).trans (updFn_sends ..)))))

theorem setIrq_sends (s : State) (f : Nat) (cause mask : BitVec 4) : Sends s (setIrq s f cause mask) := by
  unfold setIrq
  exact .ite ((updFn_sends ..).trans (sendVector_sends ..)) (updFn_sends ..)

theorem tillError_sends (s : State) (n reason : Nat) : Sends s (tillError s n reason) :=
  (updTill_sends ..).trans (setIrq_sends ..)

theorem dropEntry_sends (s : State) (n : Nat) : Sends s (dropEntry s n) := updTill_sends ..

theorem armVector_sends (s : State) (n : Nat) : Sends s (armVector s n) := by
  unfold armVector
  exact .ite ((updTill_sends ..).trans (sendVector_sends ..)) (.refl s)

theorem writeSlot_sends (s : State) (n : Nat) (bytes : List Byte) : Sends s (writeSlot s n bytes) := by
  unfold writeSlot
  exact .ite ⟨rfl, rfl, rfl, rfl, List.Subset.refl _⟩ ⟨rfl, rfl, rfl, rfl, List.Subset.refl _⟩

theorem writeSlots_sends (s : State) (n k : Nat) (bytes : List Byte) : Sends s (writeSlots s n k bytes) := by
  induction k generalizing s bytes with
  | zero => exact .refl s
  | succ k ih => exact (writeSlot_sends ..).trans (ih ..)

theorem writeEntry_sends (s : State) (n : Nat) (bytes : List Byte) (reserved : Bool) : Sends s (writeEntry s n bytes reserved) := by
  unfold writeEntry
  exact .ite ((tillError_sends ..).trans (dropEntry_sends ..))
    (.ite (dropEntry_sends ..) ((writeSlots_sends ..).trans (armVector_sends ..)))

theorem writeMessage_sends (s : State) (n opcode tag : Nat) (body : List Byte) (reserved : Bool) :
    Sends s (writeMessage s n opcode tag body reserved) := by
  have hw : ∀ bytes, Sends s (writeEntry (updTill s n fun t => { t with seq := t.seq + 1 }) n bytes reserved) := fun bytes =>
    (updTill_sends ..).trans (writeEntry_sends ..)
  unfold writeMessage
  exact .ite ((hw _).trans (updTill_sends ..)) (hw _)

theorem partEvent_sends (s : State) (p opcode len : Nat) (body : List Byte) : Sends s (partEvent s p opcode len body) :=
  writeMessage_sends ..

/-! ### Completions -/

theorem writeCompletion_sends (s : State) (n : Nat) (bytes : List Byte) : Sends s (writeCompletion s n bytes) := by
  unfold writeCompletion
  exact .ite ((updTill_sends ..).trans (writeEntry_sends ..)) ((updTill_sends ..).trans (writeMessage_sends ..))

theorem mgmtComplete_sends (s : State) (via : Nat × Nat) (data : List Byte) : Sends s (mgmtComplete s via data) := by
  unfold mgmtComplete mctpQueue
  exact updMgmt_sends ..

theorem serviceSend_sends (s : State) (svc : Nat) (v : Svc) (addr opcode tag : Nat) (body : List Byte) :
    Sends s (serviceSend s svc v addr opcode tag body) :=
  (updTill_sends ..).trans ((updMac_sends ..).trans (emit_sends ..))

/-- A command taken off those in progress. -/
def dropTicket (s : State) (id : Nat) : State :=
  { s with host := { s.host with tickets := s.host.tickets.filter fun t => t.id ≠ id } }

theorem dropTicket_sends (s : State) (id : Nat) : Sends s (dropTicket s id) :=
  ⟨rfl, rfl, rfl, rfl, List.filter_subset_self _⟩

/-- A completion is written once its command is off those in progress. -/
theorem complete_cases (s : State) (id : Nat) (d : Done) :
    ((∀ k ∈ s.host.tickets, k.id ≠ id) ∧ complete s id d = s) ∨ Sends (dropTicket s id) (complete s id d) := by
  unfold complete
  split
  · rename_i hnone
    exact Or.inl ⟨by simpa using hnone, rfl⟩
  · refine Or.inr ?_
    dsimp only
    split
    · exact mgmtComplete_sends ..
    · exact writeCompletion_sends ..
    · split
      · exact serviceSend_sends ..
      · exact .refl _

theorem complete_sends (s : State) (id : Nat) (d : Done) : Sends s (complete s id d) := by
  obtain ⟨-, h⟩ | h := complete_cases s id d
  · rw [h]; exact .refl s
  · exact (dropTicket_sends s id).trans h

/-- A command that has been completed is not in progress. -/
theorem complete_tickets (s : State) (id : Nat) (d : Done) : ∀ k ∈ (complete s id d).host.tickets, k.id ≠ id := by
  obtain ⟨hk, h⟩ | h := complete_cases s id d
  · rw [h]; exact hk
  · intro k hk
    have := h.tickets hk
    simpa [dropTicket] using (List.mem_filter.mp this).2

theorem completeWith_sends (s : State) (id status : Nat) : Sends s (completeWith s id status) := complete_sends ..

theorem settleByes_sends (s : State) : Sends s (settleByes s) := by
  unfold settleByes
  refine Sends.trans ?_ (Sends.foldl (fun s _ => completeWith_sends ..) _ _)
  exact ⟨rfl, rfl, rfl, rfl, List.Subset.refl _⟩

theorem finish_sends (s : State) (id : Nat) (d : Done) : Sends s (finish s id d) := (complete_sends ..).trans (settleByes_sends _)

theorem finish_tickets (s : State) (id : Nat) (d : Done) : ∀ k ∈ (finish s id d).host.tickets, k.id ≠ id := fun k hk =>
  complete_tickets s id d k ((settleByes_sends _).tickets hk)

end Sys2Proof.Machine
end

section
/-! Steps that complete, epochs that end and begin, plans by rule, the end of an invocation and stalls (02 R58, R61, R62, R65, R594;
14 R367). -/

namespace Sys2Proof.Machine

/-! ### STEP_COMPLETE -/

/-- No lent window opens after a step where placement declared none. -/
theorem openWindow_of_noWindows {u : Cur} (hw : u.inst.windows = []) (s : State) (c step : Nat) : openWindow s c u step = s := by
  simp [openWindow, hw]

theorem exec_stepComplete_of_done {s : State} {c : Nat} {u : Cur} {x : Issued} {y : Unit_} (hu : cur s c = some u)
    (hrun : u.inst.phase = .running) (hx : (u.inst.issued.find? fun z => z.unit = y) = some x) (hd : unitDone s c x = true)
    (hrest : ((dropFirst y u.inst.issued).any fun z => z.unit = y) = false) (hp : stPostEn x.word = false) (hw : u.inst.windows = []) :
    exec (.stepComplete c y none .none) s = .next (updInst s u.h c fun i => { i with issued := dropFirst y u.inst.issued }) := by
  have hs := stands_of_cur hu
  have hnone : ((dropFirst y u.inst.issued).find? fun z => z.unit = y) = none := by
    rw [List.find?_eq_none]; simpa using hrest
  have hgo : ¬ (u.inst.phase ≠ .running ∨ ¬ unitDone s c x = true) := by simp [hrun, hd]
  have hr : runAt (updInst s u.h c fun i => { i with issued := dropFirst y u.inst.issued }) u.h = some u.run := by
    rw [runAt_updInst, hs.runAt_eq]
  change execStepComplete c y none .none s = _
  simp only [execStepComplete, hu, hx, if_neg hgo, hnone, stepResult, postStep_of_noPost hp hr hs.going, openWindow_of_noWindows hw]

/-! ### What changes no instance -/

/-- The service whose epochs a job runs. -/
def serviceAt (s : State) (h : Nat) : Option Nat := (getJob s h).bind Job.service

/-- From s to t, no instance of job h has changed, nor its service, nor an engine. -/
structure InstsKept (s t : State) (h : Nat) : Prop where
  inst : ∀ c, instAt t h c = instAt s h c
  service : serviceAt t h = serviceAt s h
  engines : t.engines = s.engines

theorem InstsKept.refl (s : State) (h : Nat) : InstsKept s s h := ⟨fun _ => rfl, rfl, rfl⟩

theorem InstsKept.trans {s t u : State} {h : Nat} (a : InstsKept s t h) (b : InstsKept t u h) : InstsKept s u h :=
  ⟨fun c => (b.inst c).trans (a.inst c), b.service.trans a.service, b.engines.trans a.engines⟩

theorem Sends.instsKept {s t : State} (hs : Sends s t) (h : Nat) : InstsKept s t h :=
  ⟨fun c => by rw [instAt, hs.getJob_eq, instAt], by rw [serviceAt, hs.getJob_eq, serviceAt], hs.engines⟩

theorem LedgerOnly.instsKept {s t : State} (hl : LedgerOnly s t) (h : Nat) : InstsKept s t h :=
  ⟨fun c => hl.instAt_eq h c, by rw [serviceAt, hl.getJob_eq, serviceAt], hl.jobsOnly.engines_eq⟩

theorem updRun_instsKept (s : State) (h : Nat) (f : Invocation → Invocation) : InstsKept s (updRun s h f) h :=
  ⟨fun c => instAt_updRun s h c f, by rw [serviceAt, updRun, getJob_updJob_self, serviceAt]; cases getJob s h <;> rfl, updRun_engines ..⟩

theorem begun_instsKept (s : State) (c : Nat) (u : Cur) : InstsKept s (begun s c u) u.h := by
  obtain h | ⟨l, h⟩ := begun_cases s c u
  · rw [h]; exact .refl s _
  · exact (updRun_instsKept ..).trans (h.instsKept _)

theorem settleSelects_instsKept (s : State) (h : Nat) : InstsKept s (settleSelects s h) h := by
  unfold settleSelects
  split
  · exact .refl s h
  · split
    · exact .refl s h
    · exact ((Sends.foldl (fun s _ => complete_sends ..) _ s).instsKept h).trans (updRun_instsKept ..)

@[simp] theorem serviceAt_updInst (s : State) (h c : Nat) (f : Inst → Inst) : serviceAt (updInst s h c f) h = serviceAt s h := by
  rw [serviceAt, updInst, getJob_updJob_self, serviceAt]
  cases getJob s h <;> rfl

/-- Where no service runs on a job, none begins an epoch of it. -/
theorem serviceBegins_of_noService {s : State} {h : Nat} (hs : serviceAt s h = none) (e : Nat) : serviceBegins s h e = s := by
  unfold serviceAt at hs
  simp [serviceBegins, hs]

theorem serviceEnds_of_noService {s : State} {h : Nat} (hs : serviceAt s h = none) (e : Nat) : serviceEnds s h e = s := by
  unfold serviceAt at hs
  simp [serviceEnds, hs]

theorem serviceTurn_of_noService {s : State} {h : Nat} (hs : serviceAt s h = none) : serviceTurn s h = s := by
  unfold serviceTurn
  split
  · rfl
  · rename_i j hj
    have hj : j.service = none := by simpa [serviceAt, hj] using hs
    simp [hj]

theorem settleServices_of_noServices {s : State} (hs : s.services = []) : settleServices s = s := by
  simp [settleServices, hs]

/-! ### EPOCH_END -/

/-- Whether the epoch in progress is the last of the invocation. -/
def Cur.isLast (u : Cur) : Bool := match lastEpoch u.job u.run with
  | some l => decide (l ≤ u.inst.epoch)
  | none => false

/-- An instance whose epoch has ended. -/
def Inst.epochEnded (i : Inst) (isLast : Bool) (period now : Nat) : Inst :=
  { i.endEpoch with phase := if isLast then .ended else .between, late := period ≠ 0 && decide (i.endEpoch.due < now) }

theorem endEpochOn_of_unlimited {u : Cur} (hl : u.run.last = none) (s : State) (c : Nat) :
    endEpochOn s c u = updInst s u.h c fun i => i.epochEnded u.isLast u.job.period (nowNs s) := by
  simp only [endEpochOn, hl, Option.isSome_none, Bool.false_eq_true, false_and, if_false]
  rfl

/-- A lent window that opens, or does not, changes the core alone. -/
theorem openWindow_getJob (s : State) (c : Nat) (u : Cur) (step h : Nat) : getJob (openWindow s c u step) h = getJob s h := by
  unfold openWindow
  dsimp only
  split
  · rfl
  · split <;> rfl

theorem openWindow_services (s : State) (c : Nat) (u : Cur) (step : Nat) : (openWindow s c u step).services = s.services := by
  unfold openWindow
  dsimp only
  split
  · rfl
  · split <;> rfl

/-- Nothing follows the last core's EPOCH_END in a host's job without a service, where no service is open. -/
theorem epochOver_of_noServices {s : State} {h : Nat} {j : Job} (hj : getJob s h = some j) (hk : j.kind = .host)
    (hs : s.services = []) (hj' : j.service = none) (e : Nat) : epochOver s h e = s := by
  have hserv : serviceAt s h = none := by simp [serviceAt, hj, hj']
  simp only [epochOver, hj, hk, serviceEnds_of_noService hserv, serviceTurn_of_noService hserv, settleServices_of_noServices hs]

/-- EPOCH_END of an invocation that no JOB_STOP ends, where nothing follows the epoch. -/
theorem exec_epochEnd_of_unlimited {s : State} {c : Nat} {u : Cur} {w : BitVec 128} (hi : issuing s c 12 = some (u, w))
    (hp : stPostEn w = false) (hl : u.run.last = none) (hk : u.job.kind = .host)
    (hover : (u.job.insts.all fun i => i.core = c || decide (u.inst.epoch < i.epoch)) = false ∨ (s.services = [] ∧ u.job.service = none)) :
    ∃ t, exec (.epochEnd c []) s = .next t ∧ instAt t u.h c = some (u.inst.epochEnded u.isLast u.job.period (nowNs s)) := by
  have hs := stands_of_issuing hi
  have hpost : post s c u w = s := by simp [post, hp]
  have hjob : getJob (updInst s u.h c fun i => i.epochEnded u.isLast u.job.period (nowNs s)) u.h =
      some (u.job.updInst c fun i => i.epochEnded u.isLast u.job.period (nowNs s)) := by
    rw [updInst, getJob_updJob_self, hs.job, Option.map_some]
  have hinst : instAt (updInst s u.h c fun i => i.epochEnded u.isLast u.job.period (nowNs s)) u.h c =
      some (u.inst.epochEnded u.isLast u.job.period (nowNs s)) := instAt_updInst_of_eq hs.instAt_eq fun _ => rfl
  have hexec : exec (.epochEnd c []) s = .next (epochEnds s c u w) := by
    change execEpochEnd c [] s = _
    simp [execEpochEnd, hi, eccFinds]
  refine ⟨_, hexec, ?_⟩
  simp only [epochEnds, hpost, endEpochOn_of_unlimited hl]
  generalize hv : (updInst s u.h c fun i => i.epochEnded u.isLast u.job.period (nowNs s)) = v at hjob hinst
  have hserv : v.services = s.services := by rw [← hv, updInst_services]
  have hmid : ∀ p : Prop, ∀ [Decidable p], getJob (if p then openWindow v c u u.inst.step else v) u.h = getJob v u.h ∧
      (if p then openWindow v c u u.inst.step else v).services = s.services := by
    intro p _
    split
    · exact ⟨openWindow_getJob .., by rw [openWindow_services, hserv]⟩
    · exact ⟨rfl, hserv⟩
  obtain ⟨hmj, hms⟩ := hmid ((getCore v c).claim = some u.h)
  have hinst' : instAt (if (getCore v c).claim = some u.h then openWindow v c u u.inst.step else v) u.h c =
      some (u.inst.epochEnded u.isLast u.job.period (nowNs s)) := by
    rw [instAt, hmj]; exact hinst
  split
  · rename_i hlast
    rcases hover with hall | ⟨hnil, hnone⟩
    · rw [hall] at hlast; exact absurd hlast.1 Bool.false_ne_true
    · rw [epochOver_of_noServices (hmj.trans hjob) hk (hms.trans hnil) hnone]
      exact hinst'
  · exact hinst'

/-! ### EPOCH_BEGIN -/

theorem deadlineMiss_instsKept (s : State) (c : Nat) (u : Cur) (n h : Nat) : InstsKept s (deadlineMiss s c u n) h := by
  unfold deadlineMiss
  exact ((partEvent_sends ..).instsKept h).trans ((chargeJob_ledgerOnly ..).instsKept h)

/-- The instance and the vector pointers once a core has begun an epoch. -/
theorem beginEpoch_spec {s : State} {c : Nat} {u : Cur} (hi : instAt s u.h c = some u.inst) (p : Nat) :
    ∃ i, instAt (beginEpoch s c u p) u.h c = some i ∧ i.phase = .running ∧ i.plan = p ∧ i.step = 0 ∧ i.epoch = u.inst.epoch ∧
      (getEng (beginEpoch s c u p) c).vec.p = [] ∧ serviceAt (beginEpoch s c u p) u.h = serviceAt s u.h := by
  unfold beginEpoch
  dsimp only
  generalize hm : (if u.inst.late = true then deadlineMiss s c u (nowNs s - u.inst.due) else s) = m
  have hsm : InstsKept s m u.h := by
    rw [← hm]; split
    · exact deadlineMiss_instsKept ..
    · exact .refl s _
  generalize (if u.job.period = 0 then 0 else if u.inst.late = true then alignedAt (nowNs s + 1) u.job.period u.job.phase
    else u.inst.due + u.job.period) = due
  generalize hv : updEng (updInst m u.h c _) c _ = v
  have hvt : InstsKept v (settleSelects (if u.job.bestEffort = true ∨ u.inst.epoch ≠ 0 then v else begun v c u) u.h) u.h := by
    refine InstsKept.trans ?_ (settleSelects_instsKept _ u.h)
    split
    · exact .refl v _
    · exact begun_instsKept ..
  refine ⟨{ u.inst with phase := .running, plan := p, step := 0, minted := [], late := false, due := due, waitSince := nowNs s }, ?_,
    rfl, rfl, rfl, rfl, ?_, ?_⟩
  · rw [hvt.inst, ← hv, instAt_updEng]
    exact instAt_updInst_of_eq ((hsm.inst c).trans hi) fun _ => rfl
  · rw [getEng, hvt.engines, ← getEng, ← hv, getEng_updEng_self]
  · rw [hvt.service, ← hv]
    exact (serviceAt_updInst ..).trans hsm.service

theorem getP_of_noPointers {u : VecUnit} (hp : u.p = []) (r : Nat) : getP u r = 0 := by simp [getP, hp]

/-- EPOCH_BEGIN of a job of no cell without a service. -/
theorem exec_epochBegin_of_host {s : State} {c : Nat} {u : Cur} {p : Nat} (hu : cur s c = some u) (hb : mayBegin s c u = some p)
    (hk : u.job.kind = .host) (hn : u.job.service = none) : exec (.epochBegin c) s = .next (beginEpoch s c u p) := by
  have hs := stands_of_cur hu
  obtain ⟨-, -, -, -, -, -, -, hserv⟩ := beginEpoch_spec hs.instAt_eq p
  have hserv : serviceAt (beginEpoch s c u p) u.h = none := by rw [hserv]; simp [serviceAt, hs.job, hn]
  have hcell : u.job.cell = none := by simp [Job.cell, hk]
  change execEpochBegin c s = _
  simp only [execEpochBegin, hu, hb, hk, hcell, epochStarts, serviceBegins_of_noService hserv, serviceTurn_of_noService hserv, ite_self]

/-! ### The end of an invocation, plans by rule, stalls -/

theorem exec_epochLimit_of_complete {s : State} {h : Nat} {r : Invocation} (hr : (getJob s h).bind Job.run = some r)
    (hl : r.last = none) (hc : runComplete s h = true) :
    exec (.epochLimit h) s = .next (settleServices (settleRounds (endInvocation s h eOk none))) := by
  change execEpochLimit h s = _
  simp [execEpochLimit, hr, hl, hc]

/-- The invocation with the plan that a selector word gives for an epoch, and the next selection due. -/
def Job.assignPlan (j : Job) (due : Int) (r : Invocation) (e : Nat) : Invocation :=
  { r with
    rulePlans := Tbl.put r.rulePlans (e + j.ruleField 4 1) (j.rangePlan (Tbl.get 0 j.selectors (j.ruleField 0 2)))
    ruleNext := e + 1
    ruleBase := due }

theorem updRun_congr {s : State} {h : Nat} {r : Invocation} {f g : Invocation → Invocation} (hr : runAt s h = some r) (hf : f r = g r) :
    updRun s h f = updRun s h g := by
  obtain ⟨j, hj, hjr⟩ := Option.bind_eq_some_iff.mp hr
  simp [updRun, updJob, hj, hjr, hf]

theorem exec_planRuleSelect_of_due {s : State} {h : Nat} {j : Job} {r : Invocation} {t : Nat} (hj : getJob s h = some j)
    (hr : j.run = some r) (hrules : j.rules = true) (hg : r.ending = false) (hk : j.kind = .host)
    (ht : j.tallyOfRecord (j.ruleField 2 2) = some t) (hdue : j.ruleDue r ≤ ((getTally s (tallyOf s j.part t)).value.toNat : Int)) :
    exec (.planRuleSelect h) s = .next (updRun s h fun x => j.assignPlan (j.ruleDue r) x r.ruleNext) := by
  have hgo : ¬ (¬ j.rules = true ∨ r.ending = true ∨ ((getTally s (tallyOf s j.part t)).value.toNat : Int) < j.ruleDue r) := by
    simp [hrules, hg, hdue]
  change execPlanRuleSelect h s = _
  simp only [execPlanRuleSelect, hj, hr, ht, if_neg hgo, hk]
  rfl

theorem exec_stallLimit_of_waited {s : State} {c : Nat} {u : Cur} {w : BitVec 128} {b : Binding} (hn : nextStep s c = some (u, w))
    (hb : u.inst.bind (stWaitBind w) = some b) (hm : waitMet s c u w = false)
    (hk : b.kind ≠ 2 ∨ (u.job.groups.any fun g => decide (g.2.1 = b.tally)) = true) (ht : u.inst.waitSince + 1000000000 ≤ nowNs s) :
    exec (.stallLimit c) s = .next (endBadly s u.h eTimeout
      (some (logicalCore s c + stWaitBind w * 256, b.tally, ((b.base + stDelta w) % 2 ^ 32).toNat))) := by
  have hkind : ¬ (b.kind = 2 ∧ (!u.job.groups.any fun g => decide (g.2.1 = b.tally)) = true) := by
    rintro ⟨h2, hgrp⟩
    rcases hk with hk | hk
    · exact hk h2
    · rw [hk] at hgrp; exact absurd hgrp (by decide)
  have hgo : ¬ (waitMet s c u w = true ∨ (b.kind = 2 ∧ (!u.job.groups.any fun g => decide (g.2.1 = b.tally)) = true) ∨
      nowNs s < u.inst.waitSince + 1000000000) := by
    rintro (h | h | h)
    · rw [hm] at h; cases h
    · exact hkind h
    · omega
  change execStallLimit c s = _
  simp only [execStallLimit, hn, hb, if_neg hgo]

/-! ### Settled -/

/-- Settles O7: one lemma for each event says what it answers, and what the instance is then. -/
theorem stepsCompleteAndEpochsTurn : Obligations.StepsCompleteAndEpochsTurn := by
  unfold Obligations.StepsCompleteAndEpochsTurn
  intro s c u w
  refine ⟨fun x y hu hrun hx hd hrest hp hw => ?complete, fun hi hp hl hk hover => ?ends, fun p hu hb hk hn _ => ?begins⟩
  case complete =>
    have hj := updInst_jobsOnly s u.h c fun i => { i with issued := dropFirst y u.inst.issued }
    exact ⟨_, exec_stepComplete_of_done hu hrun hx hd hrest hp hw,
      instAt_updInst_of_eq (stands_of_cur hu).instAt_eq fun _ => rfl, hj.engines_eq, hj.hbm_eq, hj.tallies_eq⟩
  case ends =>
    obtain ⟨t, hexec, hinst⟩ := exec_epochEnd_of_unlimited hi hp hl hk hover
    exact ⟨t, _, hexec, hinst, rfl, rfl, rfl, rfl, rfl⟩
  case begins =>
    obtain ⟨i, hinst, hph, hpl, hst, hep, hptr, -⟩ := beginEpoch_spec (stands_of_cur hu).instAt_eq p
    exact ⟨_, i, exec_epochBegin_of_host hu hb hk hn, hinst, hph, hpl, hst, hep, getP_of_noPointers hptr⟩

/-- Settles O8: each event answers what its lemma says; a plan is assigned to the one invocation that runs. -/
theorem invocationsEndAndStall : Obligations.InvocationsEndAndStall := by
  unfold Obligations.InvocationsEndAndStall
  intro s h c
  refine ⟨fun r hr hl hc => exec_epochLimit_of_complete hr hl hc, fun j r t hj hr hrules hg hk ht hdue => ?_,
    fun u w b hn hb hm hk ht => exec_stallLimit_of_waited hn hb hm hk ht⟩
  rw [exec_planRuleSelect_of_due hj hr hrules hg hk ht hdue]
  exact congrArg Host.Outcome.next (updRun_congr (r := r) (by simp [runAt, hj, hr]) rfl)

end Sys2Proof.Machine
end

section
/-! What the job table and the rinses keep while invocations end and rinses are settled; invocations that start and end (02 R61, R62;
12 R309, R310). -/

namespace Sys2Proof.Machine

/-! ### Job tables that evolve by a relation on jobs -/

/-- From s to t no job has come or gone, every job has become one that R relates to it, no handle has been given out, and no segment has
left the rinses. -/
structure Evolves (R : Job → Job → Prop) (s t : State) : Prop where
  next : t.work.nextJob = s.work.nextJob
  some : ∀ h j, getJob s h = some j → ∃ k, getJob t h = some k ∧ R j k
  none : ∀ h, getJob s h = none → getJob t h = none
  rinsing : ∀ c, (getCore s c).rinsing ⊆ (getCore t c).rinsing

/-- No job has changed. -/
abbrev Still (s t : State) : Prop := Evolves Eq s t

theorem Still.refl (s : State) : Still s s := ⟨rfl, fun _ j hj => ⟨j, hj, rfl⟩, fun _ h => h, fun _ => List.Subset.refl _⟩

theorem Still.getJob_eq {s t : State} (hst : Still s t) (h : Nat) : getJob t h = getJob s h := by
  cases hj : getJob s h with
  | none => exact hst.none h hj
  | some j =>
    obtain ⟨k, hk, rfl⟩ := hst.some h j hj
    exact hk

/-- A state in which jobs, the next handle and the rinses stand as before. -/
theorem Still.of_eq {s t : State} (hn : t.work.nextJob = s.work.nextJob) (hj : t.work.jobs = s.work.jobs)
    (hr : ∀ c, (getCore s c).rinsing ⊆ (getCore t c).rinsing) : Still s t :=
  ⟨hn, fun h j h1 => ⟨j, by unfold getJob at h1 ⊢; rw [hj, h1], rfl⟩, fun h h1 => by unfold getJob at h1 ⊢; rw [hj, h1], hr⟩

theorem Still.of_work {s t : State} (hw : t.work = s.work) : Still s t :=
  .of_eq (by rw [hw]) (by rw [hw]) fun c => by unfold getCore; rw [hw]; exact List.Subset.refl _

section
variable {R : Job → Job → Prop} (o : IsPreorder Job R)
include o

theorem Still.evolves {s t : State} (h : Still s t) : Evolves R s t :=
  ⟨h.next, fun n j hj => ⟨j, (h.getJob_eq n).trans hj, o.refl j⟩, h.none, h.rinsing⟩

theorem Evolves.trans {s t u : State} (a : Evolves R s t) (b : Evolves R t u) : Evolves R s u := by
  refine ⟨b.next.trans a.next, fun h j hj => ?_, fun h hn => b.none h (a.none h hn), fun c => List.Subset.trans (a.rinsing c) (b.rinsing c)⟩
  obtain ⟨k, hk, hjk⟩ := a.some h j hj
  obtain ⟨l, hl, hkl⟩ := b.some h k hk
  exact ⟨l, hl, o.trans _ _ _ hjk hkl⟩

theorem Evolves.foldl {α : Type} {f : State → α → State} (hf : ∀ s a, Evolves R s (f s a)) (l : List α) (s : State) :
    Evolves R s (l.foldl f s) := by
  induction l generalizing s with
  | nil => exact (Still.refl s).evolves o
  | cons a l ih => exact (hf s a).trans o (ih (f s a))

/-- A job that becomes one that R relates to it. -/
theorem updJob_evolves {s : State} {h : Nat} {f : Job → Job} (hf : ∀ j, R j (f j)) : Evolves R s (updJob s h f) := by
  refine ⟨?_, fun k j hj => ?_, fun k hk => ?_, fun c => by rw [getCore_updJob]; exact List.Subset.refl _⟩
  · unfold updJob; split <;> rfl
  · by_cases hkh : k = h
    · subst hkh; exact ⟨f j, by rw [getJob_updJob_self, hj, Option.map_some], hf j⟩
    · exact ⟨j, (getJob_updJob_other s f hkh).trans hj, o.refl j⟩
  · by_cases hkh : k = h
    · subst hkh; rw [getJob_updJob_self, hk, Option.map_none]
    · exact (getJob_updJob_other s f hkh).trans hk

end

theorem Evolves.mono {R Q : Job → Job → Prop} {s t : State} (h : Evolves R s t) (hq : ∀ j k, R j k → Q j k) : Evolves Q s t :=
  ⟨h.next, fun n j hj => (h.some n j hj).imp fun k ⟨hk, hr⟩ => ⟨hk, hq j k hr⟩, h.none, h.rinsing⟩

theorem eq_preorder : IsPreorder Job Eq where
  refl _ := rfl
  trans _ _ _ := Eq.trans

theorem Still.trans {s t u : State} (a : Still s t) (b : Still t u) : Still s u := Evolves.trans eq_preorder a b

theorem Still.foldl {α : Type} {f : State → α → State} (hf : ∀ s a, Still s (f s a)) (l : List α) (s : State) : Still s (l.foldl f s) :=
  Evolves.foldl eq_preorder hf l s

/-! ### What leaves the jobs as they are -/

theorem Sends.still {s t : State} (h : Sends s t) : Still s t := .of_work h.work

theorem LedgerOnly.still {s t : State} (h : LedgerOnly s t) : Still s t := by
  obtain ⟨_, rfl⟩ := h; exact .of_eq rfl rfl fun _ => List.Subset.refl _

theorem updEng_still (s : State) (c : Nat) (f : Engines → Engines) : Still s (updEng s c f) := .of_work rfl

theorem updTally_still (s : State) (t : Nat) (f : Tally → Tally) : Still s (updTally s t f) :=
  .of_eq rfl rfl fun _ => List.Subset.refl _

theorem hbmWrite_still (s : State) (p a : Nat) (bs : List Byte) : Still s (hbmWrite s p a bs) := by
  unfold hbmWrite; split
  · exact .of_eq rfl rfl fun _ => List.Subset.refl _
  · exact .refl s

theorem updCore_still {s : State} {c : Nat} {f : CoreCtl → CoreCtl} (hf : ∀ k, k.rinsing ⊆ (f k).rinsing) : Still s (updCore s c f) := by
  refine .of_eq rfl rfl fun d => ?_
  by_cases h : d = c
  · subst h; rw [getCore_updCore_self]; exact hf _
  · rw [getCore_updCore_other _ _ h]; exact List.Subset.refl _

/-- A change of a core that leaves its rinses alone. -/
theorem updCore_still_of_eq {s : State} {c : Nat} {f : CoreCtl → CoreCtl} (hf : ∀ k, (f k).rinsing = k.rinsing) : Still s (updCore s c f) :=
  updCore_still fun k => by rw [hf k]; exact List.Subset.refl _

/-! ### Rinses begin -/

@[simp] theorem mem_dedup {α : Type} [DecidableEq α] {a : α} {l : List α} : a ∈ dedup l ↔ a ∈ l := by
  induction l with
  | nil => rfl
  | cons b l ih =>
    unfold dedup
    split
    · rename_i hb
      rw [ih, List.mem_cons, or_iff_right_of_imp]
      rintro rfl; exact hb
    · rw [List.mem_cons, List.mem_cons, ih]

theorem CoreCtl.rinsing_beginRinse (k : CoreCtl) (segs : List Nat) (n : Nat) :
    n ∈ (k.beginRinse segs).rinsing ↔ n ∈ k.rinsing ∨ n ∈ segs := by
  simp [CoreCtl.beginRinse]

/-- The cores begin to rinse their segments. -/
def rinseCores (s : State) (parts : List (Nat × List Nat)) : State := parts.foldl (fun s e => updCore s e.1 fun k => k.beginRinse e.2) s

theorem startRinse_eq (s : State) (parts : List (Nat × List Nat)) (use : RinseFor) : startRinse s parts use =
    updWork (rinseCores s parts) fun w => { w with rinses := w.rinses ++ [{ cores := parts.map Prod.fst, use := use }] } := rfl

theorem rinseCores_still (s : State) (parts : List (Nat × List Nat)) : Still s (rinseCores s parts) :=
  .foldl (fun _ e => updCore_still fun k n hn => (k.rinsing_beginRinse e.2 n).mpr (Or.inl hn)) parts s

theorem updRinses_still (s : State) (f : List Rinse → List Rinse) : Still s (updWork s fun w => { w with rinses := f w.rinses }) :=
  .of_eq rfl rfl fun _ => List.Subset.refl _

theorem startRinse_still (s : State) (parts : List (Nat × List Nat)) (use : RinseFor) : Still s (startRinse s parts use) := by
  rw [startRinse_eq]
  exact (rinseCores_still s parts).trans (updRinses_still _ fun l => l ++ [{ cores := parts.map Prod.fst, use := use }])

/-- Every segment named for a core is being rinsed there. -/
theorem mem_rinsing_startRinse {parts : List (Nat × List Nat)} {c n : Nat} {segs : List Nat} (hp : (c, segs) ∈ parts) (hn : n ∈ segs)
    (s : State) (use : RinseFor) : n ∈ (getCore (startRinse s parts use) c).rinsing := by
  change n ∈ (getCore (rinseCores s parts) c).rinsing
  induction parts generalizing s with
  | nil => cases hp
  | cons e parts ih =>
    rcases List.mem_cons.mp hp with rfl | hp
    · refine (rinseCores_still (updCore s c fun k => k.beginRinse segs) parts).rinsing c ?_
      rw [getCore_updCore_self]
      exact (CoreCtl.rinsing_beginRinse ..).mpr (Or.inr hn)
    · exact ih hp _

/-! ### Cores that change hands -/

theorem installTables_still (s : State) (h : Nat) (i : Inst) : Still s (installTables s h i) :=
  (updEng_still ..).trans (updCore_still_of_eq fun _ => rfl)

theorem takeCore_still (s : State) (h : Nat) (i : Inst) : Still s (takeCore s h i) := by
  unfold takeCore; split
  · exact .refl s
  · exact installTables_still ..

theorem clearVector_still (s : State) (h : Nat) (i : Inst) : Still s (clearVector s h i) := by
  unfold clearVector; split
  · exact updEng_still ..
  · exact .refl s

theorem clearEngines_still (s : State) (c : Nat) : Still s (clearEngines s c) :=
  (updEng_still ..).trans (updCore_still_of_eq fun _ => rfl)

theorem handBack_still (s : State) (c : Nat) : Still s (handBack s c) := by
  have hcore : Still s (updCore s c fun k => { k with yield := false, lentTo := none, run := k.claim }) := updCore_still_of_eq fun _ => rfl
  unfold handBack
  dsimp only
  split
  · exact hcore.trans (clearEngines_still ..)
  · split
    · exact hcore
    · split
      · exact hcore
      · exact hcore.trans (installTables_still ..)

theorem releaseCore_still (s : State) (c : Nat) : Still s (releaseCore s c) := by
  unfold releaseCore
  dsimp only
  split
  · exact .refl s
  · split
    · exact handBack_still ..
    · exact startRinse_still ..

theorem dropDebug_still (s : State) (c : Nat) : Still s (dropDebug s c) := by
  unfold dropDebug
  dsimp only
  split
  · exact .refl s
  · exact (updEng_still ..).trans (Sends.foldl (fun s _ => completeWith_sends ..) _ _).still

theorem leaveCores_still (s : State) (h : Nat) (j : Job) : Still s (leaveCores s h j) := by
  unfold leaveCores
  refine .foldl (fun _ _ => ?_) _ _
  exact updCore_still_of_eq fun _ => rfl

theorem retainSegs_still (s : State) (j : Job) : Still s (retainSegs s j) := by
  unfold retainSegs
  refine .foldl (fun _ _ => ?_) _ _
  exact updCore_still_of_eq fun _ => rfl

/-! ### What an invocation that ends still owes -/

/-- The same job, with an invocation that runs or none as before, and counts of digests. -/
def Job.SameButRun (j k : Job) : Prop := (∃ n r, k = { j with digestHead := n, run := r }) ∧ k.run.isSome = j.run.isSome

theorem sameButRun_preorder : IsPreorder Job Job.SameButRun where
  refl j := ⟨⟨j.digestHead, j.run, rfl⟩, rfl⟩
  trans := by
    rintro i j k ⟨⟨_, _, rfl⟩, h1⟩ ⟨⟨n, r, rfl⟩, h2⟩
    exact ⟨⟨n, r, rfl⟩, h2.trans h1⟩

/-- The invocation of a job changes, if one runs. -/
theorem updRun_sameButRun (s : State) (h : Nat) (f : Invocation → Invocation) : Evolves Job.SameButRun s (updRun s h f) :=
  updJob_evolves sameButRun_preorder fun j => ⟨⟨j.digestHead, j.run.map f, rfl⟩, by simp⟩

theorem Still.sameButRun {s t : State} (h : Still s t) : Evolves Job.SameButRun s t := h.evolves sameButRun_preorder

theorem combineDigest_sameButRun (s : State) (h point epoch : Nat) : Evolves Job.SameButRun s (combineDigest s h point epoch) := by
  unfold combineDigest
  split
  · exact (Still.refl s).sameButRun
  · split
    · exact (Still.refl s).sameButRun
    · split
      · exact (Still.refl s).sameButRun
      · refine Evolves.trans sameButRun_preorder (Still.sameButRun ?_) (updJob_evolves sameButRun_preorder fun j => ⟨⟨_, _, rfl⟩, by simp⟩)
        split
        · exact .refl s
        · exact hbmWrite_still ..

theorem combineAll_sameButRun (s : State) (h : Nat) : Evolves Job.SameButRun s (combineAll s h) := by
  unfold combineAll
  split
  · exact (Still.refl s).sameButRun
  · exact .foldl sameButRun_preorder (fun s _ => combineDigest_sameButRun ..) _ s

theorem testClip_sameButRun (s : State) (h epoch station entry : Nat) : Evolves Job.SameButRun s (testClip h epoch station s entry) := by
  unfold testClip
  split
  · exact (Still.refl s).sameButRun
  · split
    · exact (Still.refl s).sameButRun
    · split
      · exact (Still.refl s).sameButRun
      · dsimp only
        split
        · exact (updRun_sameButRun ..).trans sameButRun_preorder (partEvent_sends ..).still.sameButRun
        · exact updRun_sameButRun ..

theorem testClips_sameButRun (s : State) (h : Nat) : Evolves Job.SameButRun s (testClips s h) := by
  unfold testClips
  split
  · exact (Still.refl s).sameButRun
  · split
    · exact (Still.refl s).sameButRun
    · exact .foldl sameButRun_preorder (fun s _ => .foldl sameButRun_preorder (fun s _ => testClip_sameButRun ..) _ s) _ s

theorem divideUse_sameButRun (s : State) (h i : Nat) (b : Batch) : Evolves Job.SameButRun s (divideUse s h i b) := by
  unfold divideUse
  split
  · split
    · exact (Still.refl s).sameButRun
    · refine Evolves.trans sameButRun_preorder (Still.sameButRun (LedgerOnly.still (.foldl (fun s k => ?_) _ s))) (updRun_sameButRun ..)
      dsimp only
      split
      · exact chargeClient_ledgerOnly ..
      · exact charge_ledgerOnly ..
  · exact (Still.refl s).sameButRun

theorem divideHeld_sameButRun (s : State) (h : Nat) : Evolves Job.SameButRun s (divideHeld s h) := by
  unfold divideHeld
  split
  · exact (Still.refl s).sameButRun
  · split
    · exact (Still.refl s).sameButRun
    · split
      · exact (Still.refl s).sameButRun
      · exact divideUse_sameButRun ..

/-- Digests combined, clip shares tested, a service's use divided. -/
def settleRun (s : State) (h : Nat) : State := divideHeld (testClips (combineAll s h) h) h

theorem settleRun_sameButRun (s : State) (h : Nat) : Evolves Job.SameButRun s (settleRun s h) :=
  (combineAll_sameButRun s h).trans sameButRun_preorder ((testClips_sameButRun ..).trans sameButRun_preorder (divideHeld_sameButRun ..))

/-! ### The end of an invocation (02 R62) -/

/-- The job LOADED, every instance idle. -/
def Job.stopped (j : Job) (normal : Bool) : Job :=
  { j with run := none, rebase := j.rebase || !normal, insts := j.insts.map fun i => { i with phase := .idle, issued := [], saved := [] } }

/-- The job record, the charge and the completions of an invocation that ends. -/
def reportRun (s : State) (h status : Nat) (words : Option (Nat × Nat × Nat)) (j : Job) (r : Invocation) : State :=
  let s := writeJobRecord s j r status
  let s := chargeJob s h { Ledger.none with
    invocations := 1, aborts := if status = eAborted ∨ status = eFault then 1 else 0 }
  let done : Done := match words with
    | some (a, b, c) => ⟨status, a, b, c, 0⟩
    | none => ⟨status, r.number, j.epochsDone, 0, 0⟩
  let s := match r.ticket with
    | some t => complete s t done
    | none => s
  let s := r.stops.foldl (fun s t => completeWith s t eOk) s
  r.sels.foldl (fun s p => complete s p.ticket ⟨if status = eOk then eState else eAborted, p.effect, 0, 0, 0⟩) s

/-- The cores of a job are free for others. -/
def releaseCores (s : State) (j : Job) : State := j.insts.foldl (fun s i => releaseCore (dropDebug s i.core) i.core) s

theorem endInvocation_of_running {s : State} {h : Nat} {j : Job} {r : Invocation} (hj : getJob (settleRun s h) h = some j)
    (hr : j.run = some r) (status : Nat) (words : Option (Nat × Nat × Nat)) : endInvocation s h status words =
      releaseCores (updJob (retainSegs (leaveCores (reportRun (settleRun s h) h status words j r) h j) j) h
        fun j => j.stopped (decide (status = eOk))) j := by
  unfold settleRun at hj
  unfold endInvocation
  simp only [hj, hr]
  rfl

theorem endInvocation_of_loaded {s : State} {h : Nat} (hj : (getJob (settleRun s h) h).bind Job.run = none) (status : Nat)
    (words : Option (Nat × Nat × Nat)) : endInvocation s h status words = settleRun s h := by
  unfold settleRun at hj ⊢
  unfold endInvocation
  dsimp only
  split
  · rfl
  · rename_i j hjob
    rw [hjob, Option.bind_some] at hj
    simp [hj]

theorem writeJobRecord_still (s : State) (j : Job) (r : Invocation) (status : Nat) : Still s (writeJobRecord s j r status) := by
  unfold writeJobRecord
  split
  · exact .refl s
  · exact (hbmWrite_still ..).trans (hbmWrite_still ..)

theorem reportRun_still (s : State) (h status : Nat) (words : Option (Nat × Nat × Nat)) (j : Job) (r : Invocation) :
    Still s (reportRun s h status words j r) := by
  have hcharged : ∀ d, Still s (chargeJob (writeJobRecord s j r status) h d) := fun d =>
    (writeJobRecord_still ..).trans (chargeJob_ledgerOnly ..).still
  unfold reportRun
  dsimp only
  refine Still.trans ?_ (Sends.foldl (fun s _ => complete_sends ..) _ _).still
  refine Still.trans ?_ (Sends.foldl (fun s _ => completeWith_sends ..) _ _).still
  split
  · exact (hcharged _).trans (complete_sends ..).still
  · exact hcharged _

theorem releaseCores_still (s : State) (j : Job) : Still s (releaseCores s j) :=
  .foldl (fun _ _ => (dropDebug_still ..).trans (releaseCore_still ..)) j.insts s

/-- The same image, partition, digest and cores. -/
structure Job.SamePlace (j k : Job) : Prop where
  image : k.image = j.image
  part : k.part = j.part
  digest : k.digest = j.digest
  cores : k.insts.map (·.core) = j.insts.map (·.core)

theorem samePlace_preorder : IsPreorder Job Job.SamePlace where
  refl _ := ⟨rfl, rfl, rfl, rfl⟩
  trans _ _ _ a b := ⟨b.image.trans a.image, b.part.trans a.part, b.digest.trans a.digest, b.cores.trans a.cores⟩

theorem Job.SameButRun.samePlace {j k : Job} : j.SameButRun k → j.SamePlace k := by
  rintro ⟨⟨_, _, rfl⟩, -⟩; exact ⟨rfl, rfl, rfl, rfl⟩

theorem Job.stopped_samePlace (j : Job) (normal : Bool) : j.SamePlace (j.stopped normal) :=
  ⟨rfl, rfl, rfl, by simp [stopped]⟩

theorem Still.samePlace {s t : State} (h : Still s t) : Evolves Job.SamePlace s t := h.evolves samePlace_preorder

theorem endInvocation_samePlace (s : State) (h status : Nat) (words : Option (Nat × Nat × Nat)) :
    Evolves Job.SamePlace s (endInvocation s h status words) := by
  have hpre := (settleRun_sameButRun s h).mono fun _ _ => Job.SameButRun.samePlace
  cases hrun : (getJob (settleRun s h) h).bind Job.run with
  | none => rw [endInvocation_of_loaded hrun]; exact hpre
  | some r =>
    obtain ⟨j, hj, hr⟩ := Option.bind_eq_some_iff.mp hrun
    rw [endInvocation_of_running hj hr]
    refine hpre.trans samePlace_preorder (Evolves.trans samePlace_preorder (Still.samePlace ?_)
      (Evolves.trans samePlace_preorder (updJob_evolves samePlace_preorder fun j => j.stopped_samePlace (decide (status = eOk)))
        (releaseCores_still ..).samePlace))
    exact ((reportRun_still ..).trans (leaveCores_still ..)).trans (retainSegs_still ..)

/-- An invocation that has ended leaves its job LOADED. -/
theorem getJob_endInvocation {s : State} {h : Nat} {j : Job} {r : Invocation} (hj : getJob s h = some j) (hr : j.run = some r)
    (status : Nat) (words : Option (Nat × Nat × Nat)) :
    ∃ k, getJob (endInvocation s h status words) h = some (Job.stopped k (decide (status = eOk))) := by
  obtain ⟨k, hk, -, hkr⟩ := (settleRun_sameButRun s h).some h j hj
  obtain ⟨r', hr'⟩ := Option.isSome_iff_exists.mp (show k.run.isSome = true by rw [hkr, hr]; rfl)
  refine ⟨k, ?_⟩
  have hpre := ((reportRun_still (settleRun s h) h status words k r').trans (leaveCores_still _ h k)).trans (retainSegs_still _ k)
  rw [endInvocation_of_running hk hr', (releaseCores_still ..).getJob_eq, getJob_updJob_self, hpre.getJob_eq, hk, Option.map_some]

/-! ### What follows rinses (12 R309) -/

theorem rinseDone_samePlace (s : State) (use : RinseFor) : Evolves Job.SamePlace s (rinseDone s use) := by
  unfold rinseDone
  split
  · exact endInvocation_samePlace ..
  · exact (Still.refl s).samePlace
  · exact (completeWith_sends ..).still.samePlace
  · refine Still.samePlace ?_
    exact updCore_still_of_eq fun _ => rfl
  · exact (handBack_still ..).samePlace
  · exact (Still.refl s).samePlace

theorem settleRinses_samePlace (s : State) : Evolves Job.SamePlace s (settleRinses s) := by
  unfold settleRinses
  refine Evolves.trans samePlace_preorder ?_ (.foldl samePlace_preorder (fun s (r : Rinse) => rinseDone_samePlace s r.use) _ _)
  exact (updRinses_still s fun l => l.filter fun r => !r.cores.isEmpty).samePlace

/-! ### The start of an invocation (02 R61, R62) -/

/-- The same job but for the times at which yields were requested of its instances. -/
def Job.SameButYields (j k : Job) : Prop :=
  ∃ f : Inst → Inst, (∀ i, ∃ y, f i = { i with yieldSince := y }) ∧ k = { j with insts := j.insts.map f }

theorem sameButYields_preorder : IsPreorder Job Job.SameButYields where
  refl j := ⟨id, fun i => ⟨i.yieldSince, rfl⟩, by simp⟩
  trans := by
    rintro i j k ⟨f, hf, rfl⟩ ⟨g, hg, rfl⟩
    refine ⟨g ∘ f, fun x => ?_, by simp⟩
    obtain ⟨y, hy⟩ := hf x
    obtain ⟨z, hz⟩ := hg (f x)
    exact ⟨z, by rw [Function.comp_apply, hz, hy]⟩

theorem Still.sameButYields {s t : State} (h : Still s t) : Evolves Job.SameButYields s t := h.evolves sameButYields_preorder

theorem requestYield_sameButYields (s : State) (c : Nat) : Evolves Job.SameButYields s (requestYield s c) := by
  unfold requestYield
  dsimp only
  split
  · exact (Still.refl s).sameButYields
  · split
    · exact (Still.refl s).sameButYields
    · refine Evolves.trans sameButYields_preorder (Still.sameButYields ?_) (updJob_evolves sameButYields_preorder fun j =>
        ⟨fun i => if i.core = c then { i with yieldSince := nowNs s } else i, fun i => ?_, rfl⟩)
      · exact updCore_still_of_eq fun _ => rfl
      · dsimp only
        split
        · exact ⟨_, rfl⟩
        · exact ⟨i.yieldSince, rfl⟩

theorem claimCore_sameButYields (s : State) (h : Nat) (i : Inst) : Evolves Job.SameButYields s (claimCore s h i) := by
  unfold claimCore
  dsimp only
  split
  · refine (Still.trans ?_ (takeCore_still ..)).sameButYields
    exact updCore_still_of_eq fun _ => rfl
  · refine Evolves.trans sameButYields_preorder (Still.sameButYields ?_) (requestYield_sameButYields ..)
    exact updCore_still_of_eq fun _ => rfl

/-- The job with an invocation that stands before its epoch 0. -/
def Job.started (j : Job) (run : Invocation) (due now : Nat) : Job :=
  { j with
    run := some run
    invocations := j.invocations + 1
    insts := j.insts.map fun i =>
      { i with
        phase := .between, plan := j.plan0, epoch := 0, step := 0, issued := [], due := due, late := false,
        minted := [], waitSince := now, saved := [] }
    plan0 := 0 }

/-- A new invocation of a job. -/
def Job.newRun (j : Job) (s : State) (ticket : Option Nat) (now start : Nat) : Invocation :=
  { ending := false, use := List.replicate 6 0, accepted := now, unbegun := j.insts.map (·.core), number := j.invocations + 1,
    ticket := ticket, stops := [], last := none, start := start, sels := [], rulePlans := [], ruleNext := 0, ruleBase := j.readyBase s,
    matSat := 0, vecSat := 0, gatherRange := 0, sigLimit := 0, mints := [], digests := [], ingests := [] }

/-- The job with its bases read anew, where they are. -/
def Job.rebased (j : Job) (s : State) (fresh : Bool) : Job := if fresh then setBases s j else j

theorem Job.rebased_cores (j : Job) (s : State) (fresh : Bool) : (j.rebased s fresh).insts.map (·.core) = j.insts.map (·.core) := by
  unfold rebased; split
  · simp [setBases]
  · rfl

theorem Job.rebased_invocations (j : Job) (s : State) (fresh : Bool) : (j.rebased s fresh).invocations = j.invocations := by
  unfold rebased; split <;> rfl

theorem Job.rebased_plan0 (j : Job) (s : State) (fresh : Bool) : (j.rebased s fresh).plan0 = j.plan0 := by
  unfold rebased; split <;> rfl

/-- Constants, registers and signal units of a fresh invocation. -/
def freshCores (s : State) (h : Nat) (j : Job) : State :=
  j.insts.foldl (fun s i =>
    let s := clearVector (copyConstants s i) h i
    if j.bestEffort then s else installSignal s i) s

/-- A best-effort job joins the ready queues of its cores; another claims them. -/
def queueCores (s : State) (h : Nat) (j : Job) : State :=
  if j.bestEffort then
    j.insts.foldl (fun s i => updCore s i.core fun k => { k with ready := k.ready ++ [h] }) s
  else
    j.insts.foldl (fun s i => claimCore s h i) s

theorem copyConstants_still (s : State) (i : Inst) : Still s (copyConstants s i) := by
  unfold copyConstants
  exact updCore_still_of_eq fun _ => rfl

theorem freshCores_still (s : State) (h : Nat) (j : Job) : Still s (freshCores s h j) := by
  refine .foldl (fun s i => ?_) _ _
  have hclear := (copyConstants_still s i).trans (clearVector_still (copyConstants s i) h i)
  dsimp only
  split
  · exact hclear
  · exact hclear.trans (updEng_still ..)

theorem queueCores_sameButYields (s : State) (h : Nat) (j : Job) : Evolves Job.SameButYields s (queueCores s h j) := by
  unfold queueCores
  split
  · refine Still.sameButYields (.foldl (fun _ _ => ?_) _ _)
    exact updCore_still_of_eq fun _ => rfl
  · exact .foldl sameButYields_preorder (fun s i => claimCore_sameButYields s h i) _ _

/-- The time before which epoch 0 does not begin: later while another job runs on a core (13 R342). -/
def Job.startTime (j : Job) (s : State) (h : Nat) : Nat :=
  let busy := !j.bestEffort && j.insts.any fun i =>
    match (getCore s i.core).run with
    | some k => decide (k ≠ h)
    | none => false
  if busy then nowNs s + 20000 else nowNs s

/-- The state from which an invocation starts. -/
def startState (s : State) (j : Job) (fresh : Bool) : State := if fresh then clearArrivals s j else s

/-- The job with the invocation that starts. -/
def startJob (s : State) (h : Nat) (j : Job) (ticket : Option Nat) (fresh : Bool) : Job :=
  let k := j.rebased (startState s j fresh) fresh
  k.started (k.newRun (startState s j fresh) ticket (nowNs s) (j.startTime s h)) (alignedAt (j.startTime s h) k.period k.phase) (nowNs s)

/-- An invocation that starts: the job with it is written, then its cores are its own or asked for. -/
theorem startInvocation_eq {s : State} {h : Nat} {j : Job} (hj : getJob s h = some j) (ticket : Option Nat) (fresh : Bool) :
    startInvocation s h ticket fresh =
      (let k := startJob s h j ticket (fresh || j.rebase)
       let t := putJob (startState s j (fresh || j.rebase)) h k
       queueCores (if fresh || j.rebase then freshCores t h k else t) h k) := by
  unfold startInvocation
  simp only [hj]
  rfl

/-- The job of an invocation that has started, but for yields requested since. -/
theorem getJob_startInvocation {s : State} {h : Nat} {j : Job} (hj : getJob s h = some j) (ticket : Option Nat) (fresh : Bool) :
    ∃ j', getJob (startInvocation s h ticket fresh) h = some j' ∧ (startJob s h j ticket (fresh || j.rebase)).SameButYields j' := by
  rw [startInvocation_eq hj]
  dsimp only
  generalize startJob s h j ticket (fresh || j.rebase) = k
  have hfresh : Still (putJob (startState s j (fresh || j.rebase)) h k) (if fresh || j.rebase
      then freshCores (putJob (startState s j (fresh || j.rebase)) h k) h k else putJob (startState s j (fresh || j.rebase)) h k) := by
    split
    · exact freshCores_still ..
    · exact .refl _
  exact (queueCores_sameButYields _ h k).some h k ((hfresh.getJob_eq h).trans (getJob_putJob_self ..))

/-! ### Settled -/

/-- Settles O9: a start writes the job with its new invocation, and what follows requests yields at most; an end writes the job LOADED,
and what follows leaves the jobs as they are. -/
theorem jobsStandBetweenInvocations : Obligations.JobsStandBetweenInvocations := by
  unfold Obligations.JobsStandBetweenInvocations
  intro s h j hj
  refine ⟨fun ticket fresh => ?start, fun status words r hr => ?finish⟩
  case start =>
    obtain ⟨j', hj', f, hf, rfl⟩ := getJob_startInvocation hj ticket fresh
    refine ⟨_, _, hj', rfl, rfl, ?_, ?_, rfl, ?_, rfl, rfl, rfl, rfl, rfl, fun i hi => ?_⟩
    · exact congrArg (· + 1) (j.rebased_invocations ..)
    · exact congrArg (· + 1) (j.rebased_invocations ..)
    · exact j.rebased_cores ..
    · obtain ⟨i1, hi1, rfl⟩ := List.mem_map.mp hi
      obtain ⟨i2, -, rfl⟩ := List.mem_map.mp hi1
      obtain ⟨y, hy⟩ := hf _
      rw [hy]
      exact ⟨rfl, rfl, rfl, j.rebased_plan0 .., rfl⟩
  case finish =>
    obtain ⟨k, hk⟩ := getJob_endInvocation hj hr status words
    refine ⟨_, hk, rfl, fun i hi => ?_⟩
    obtain ⟨i', -, rfl⟩ := List.mem_map.mp hi
    exact ⟨rfl, rfl, rfl⟩

end Sys2Proof.Machine
end

section
/-! The job commands: the checks that they share, loading and placing, starting, stopping, unloading, plans and queries (02 R62, R63,
R71; 16 R432, R434). -/

namespace Sys2Proof.Machine

/-! ### Commands that are carried out -/

theorem carriedOut_of_waits {carry : Carry} {t u : State} {c : Ctx} (h : carry c t = (u, none)) : carriedOut carry t c = waits u := by
  simp [carriedOut, h]

theorem carriedOut_of_done {carry : Carry} {t u : State} {c : Ctx} {d : Done} (h : carry c t = (u, some d)) :
    carriedOut carry t c = answered u c d := by
  simp [carriedOut, h]

/-- A command that is carried out and waits for its completion. -/
theorem runCommand_of_waits {s t u : State} {op since len : Nat} {m : Msg} {c : Ctx} {carry : Carry} (hc : Carried s op since len m t c)
    (hl : len ≤ 4096) (h8 : len % 8 = 0) (h : carry c t = (u, none)) : runCommand op since len carry m s = .next (waits u) := by
  rw [runCommand_of_carried hc hl h8, carriedOut_of_waits h]

theorem runCommand_of_done {s t u : State} {op since len : Nat} {m : Msg} {c : Ctx} {carry : Carry} {d : Done}
    (hc : Carried s op since len m t c) (hl : len ≤ 4096) (h8 : len % 8 = 0) (h : carry c t = (u, some d)) :
    runCommand op since len carry m s = .next (answered u c d) := by
  rw [runCommand_of_carried hc hl h8, carriedOut_of_done h]

/-- A command names by its handle a loaded job that its source owns. -/
structure NamesJob (t : State) (c : Ctx) (j : Job) : Prop where
  loaded : (t.work.loading.any fun l => l.handle = c.f 0x10 4) = false
  job : getJob t (c.f 0x10 4) = some j
  owner : isRoot c.m.src = true ∨ c.m.src = j.owner

/-- The shared checks pass: what the command adds decides. -/
theorem jobChecks_of_names {s t : State} {op since len : Nat} {m : Msg} {c : Ctx} {j : Job} (hc : Carried s op since len m t c)
    (hn : NamesJob t c j) {fields : Bool} (hf : fields = true) (rest : Job → List (Bool × Nat)) :
    c.jobChecks t fields rest = firstFail (rest j) := by
  have howner : (isRoot c.m.src || decide (c.m.src = j.owner)) = true := by simpa using hn.owner
  simp only [Ctx.jobChecks, hn.loaded, hn.job, Bool.false_eq_true, if_false]
  rw [checks_of_carried hc, hf, howner]
  rfl

/-! ### JOB_LOAD and PLACEMENT_COMPLETE (02 R71; 16 R432) -/

/-- The fields and regions of a JOB_LOAD are in range. -/
structure LoadFields (c : Ctx) (q : Part) : Prop where
  image : c.f 0x18 8 % 64 = 0
  record : c.f 0x20 8 % pageBytes = 0
  pagesLow : 1 ≤ c.f 0x28 4
  pagesHigh : c.f 0x28 4 ≤ 64
  save : c.f 0x30 8 % pageBytes = 0
  noSave : c.f 0x2C 4 = 0 → c.f 0x30 8 = 0
  imageIn : q.holds (c.f 0x18 8) (c.f 0x14 4) = true
  recordIn : q.holds (c.f 0x20 8) (c.f 0x28 4 * pageBytes) = true
  saveIn : c.f 0x2C 4 ≠ 0 → q.holds (c.f 0x30 8) (c.f 0x2C 4 * pageBytes) = true
  cores : c.f 0x38 8 < 2 ^ q.cores.length

/-- A JOB_LOAD that is accepted waits for its placement. -/
theorem carryJobLoad_of_fields {s t : State} {m : Msg} {c : Ctx} {q : Part} (hc : Carried s 0x0300 0x100 64 m t c) (hp : NamesPart t c q)
    (hf : LoadFields c q) (hroom : loadedCount t < 256)
    (himg : checkImage (readImage t (c.f 0x10 1) (c.f 0x18 8) (c.f 0x14 4)) (c.f 0x14 4) (c.ver / 256, c.ver % 256) q = none)
    (hsave : imgBestEffort (readImage t (c.f 0x10 1) (c.f 0x18 8) (c.f 0x14 4)) = false → c.f 0x2C 4 = 0)
    (hfree : coresFree t (c.f 0x10 1) q (c.f 0x38 8) = none) :
    carryJobLoad c t = (updWork t fun w => { w with loading := w.loading ++
      [{ ticket := c.tid, refusal := none, handle := 0, floor := [],
         job := newJob (c.f 0x10 1) c.m.src .host (readImage t (c.f 0x10 1) (c.f 0x18 8) (c.f 0x14 4)) (c.f 0x20 8) (c.f 0x28 4) (c.f 0x30 8)
           (c.f 0x2C 4) (c.f 0x38 8) }] }, none) := by
  obtain ⟨hpart, hzero, hq, hhost⟩ := hp
  have hregion : ¬ c.f 0x2C 4 = 0 ∨ c.f 0x30 8 = 0 := (em (c.f 0x2C 4 = 0)).elim (fun h => Or.inr (hf.noSave h)) Or.inl
  have hsaved : (decide (c.f 0x2C 4 = 0) || q.holds (c.f 0x30 8) (c.f 0x2C 4 * pageBytes)) = true := by
    by_cases h : c.f 0x2C 4 = 0
    · simp [h]
    · simp [hf.saveIn h]
  have hclass : ¬ (¬ imgBestEffort (readImage t (c.f 0x10 1) (c.f 0x18 8) (c.f 0x14 4)) = true ∧ c.f 0x2C 4 ≠ 0) := fun h =>
    h.2 (hsave (by simpa using h.1))
  simp only [carryJobLoad, hq, checks_of_carried hc, himg, if_neg hclass, hfree]
  simp [firstFail, aligned, hpart, hzero, hf.image, hf.record, hf.pagesLow, hf.pagesHigh, hf.save, hregion, hhost, hf.imageIn,
    hf.recordIn, hsaved, hf.cores, hroom]

/-- A state in which a JOB_LOAD waits no more. -/
def unloading (s : State) (l : Loading) : State := updWork s fun w => { w with loading := w.loading.filter fun x => x ≠ l }

theorem exec_placementComplete_of_refused {s : State} {l : Loading} {d : Done}
    (hl : (s.work.loading.find? fun x => x.ticket = l.ticket ∧ x.handle = 0) = some l)
    (hd : placeFully (unloading s l) 0 l.job = .inr d) : exec (.placementComplete l.ticket) s = .next (finish (unloading s l) l.ticket d) := by
  unfold unloading at hd
  change execPlacementComplete l.ticket s = _
  simp only [execPlacementComplete, hl, hd]
  rfl

theorem exec_placementComplete_of_placed {s : State} {l : Loading} {j : Job}
    (hl : (s.work.loading.find? fun x => x.ticket = l.ticket ∧ x.handle = 0) = some l)
    (hj : placeFully (unloading s l) 0 l.job = .inl j) :
    exec (.placementComplete l.ticket) s = .next (settleHostLoads (settleRinses (installJob (unloading s l) l.ticket j))) := by
  unfold unloading at hj
  change execPlacementComplete l.ticket s = _
  simp only [execPlacementComplete, hl, hj]
  rfl

/-- Placement gives a job its instances and leaves its image and partition. -/
theorem placeFully_keeps {s : State} {h : Nat} {j k : Job} (hp : placeFully s h j = .inl k) : k.image = j.image ∧ k.part = j.part := by
  unfold placeFully at hp
  split at hp
  · cases hp
  · dsimp only at hp
    split at hp
    · cases hp
    · cases hp; exact ⟨rfl, rfl⟩

theorem updDie_still (s : State) (d : Nat) (f : DiePower → DiePower) : Still s (updDie s d f) := .of_work rfl

theorem commandPoint_still (s : State) (d p : Nat) : Still s (commandPoint s d p) :=
  (updDie_still ..).trans (emit_sends ..).still

theorem raiseFloors_still (s : State) : Still s (raiseFloors s) := by
  refine .foldl (fun s d => ?_) _ s
  split
  · exact commandPoint_still ..
  · exact .refl s

theorem bindGroups_still (s : State) (j : Job) : Still s (bindGroups s j) := .foldl (fun _ _ => updTally_still ..) _ s

theorem updLoading_still (s : State) (f : List Loading → List Loading) : Still s (updWork s fun w => { w with loading := f w.loading }) :=
  .of_eq rfl rfl fun _ => List.Subset.refl _

/-- A job under the next handle. -/
def putNext (s : State) (j : Job) : State :=
  updWork s fun w => { w with nextJob := s.work.nextJob + 1, jobs := Tbl.put w.jobs s.work.nextJob j }

/-- A placed job with its groups bound, its floors raised and its load recorded. -/
def recordLoad (s : State) (ticket : Nat) (j : Job) : State :=
  let t := raiseFloors (bindGroups (putNext s j) j)
  updWork t fun w => { w with loading := w.loading ++
    [{ ticket := ticket, job := j, refusal := none, handle := s.work.nextJob, floor := j.lowDies t }] }

theorem installJob_eq (s : State) (ticket : Nat) (j : Job) :
    installJob s ticket j = startRinse (recordLoad s ticket j) j.segParts (.load ticket) := rfl

theorem recordLoad_still (s : State) (ticket : Nat) (j : Job) : Still (putNext s j) (recordLoad s ticket j) := by
  have hfloors := (bindGroups_still (putNext s j) j).trans (raiseFloors_still _)
  unfold recordLoad
  dsimp only
  generalize raiseFloors (bindGroups (putNext s j) j) = t at hfloors ⊢
  exact hfloors.trans (updLoading_still t fun l => l ++
    [{ ticket := ticket, job := j, refusal := none, handle := s.work.nextJob, floor := j.lowDies t }])

/-- A placed job is loaded under the next handle, and its segments are being rinsed. -/
theorem installJob_spec (s : State) (ticket : Nat) (j : Job) : (installJob s ticket j).work.nextJob = s.work.nextJob + 1 ∧
    getJob (installJob s ticket j) s.work.nextJob = some j ∧
    ∀ i ∈ j.insts, ∀ n ∈ segList i.segments, n ∈ (getCore (installJob s ticket j) i.core).rinsing := by
  have hst : Still (putNext s j) (installJob s ticket j) := by
    rw [installJob_eq]
    exact (recordLoad_still ..).trans (startRinse_still ..)
  refine ⟨hst.next, ?_, fun i hi n hn => ?_⟩
  · rw [hst.getJob_eq]
    exact Tbl.find_put_self ..
  · rw [installJob_eq]
    exact mem_rinsing_startRinse (segs := segList i.segments) (List.mem_map.mpr ⟨i, hi, rfl⟩) hn _ _

theorem settleHostLoads_still (s : State) : Still s (settleHostLoads s) := by
  unfold settleHostLoads
  refine Still.trans ?_ (.foldl (fun s l => (retainSegs_still ..).trans (finish_sends ..).still) _ _)
  exact updLoading_still s fun l => l.filter fun x => x ∉ s.work.loading.filter fun l => loadReady s l && l.job.kind = .host

/-! ### JOB_START -/

theorem carryJobStart_of_names {s t : State} {m : Msg} {c : Ctx} {j : Job} (hc : Carried s 0x0301 0x100 24 m t c) (hn : NamesJob t c j)
    (hz : c.zero 0x14 0x18 = true) (hk : j.kind = .host) (hs : j.service = none) (hr : j.run = none) (hl : j.lostCore ≠ 2) :
    carryJobStart c t = startByHost t (c.f 0x10 4) j c.tid := by
  simp only [carryJobStart, jobChecks_of_names hc hn hz, hn.job]
  simp [firstFail, Job.byHost, hk, hs, hr, hl]

/-- A start that places nothing again. -/
theorem startByHost_of_placed {j : Job} (hl : j.lostCore ≠ 1) (t : State) (h tid : Nat) :
    startByHost t h j tid = (startInvocation t h (some tid) true, none) := if_neg hl

theorem startByHost_of_refused {t : State} {h : Nat} {j : Job} {d : Done} (hl : j.lostCore = 1) (hd : placeFully t h j = .inr d)
    (tid : Nat) : startByHost t h j tid = (updJob t h fun j => { j with insts := [], lostCore := 2 }, some d) := by
  simp only [startByHost, hl, if_true, hd]

theorem startByHost_of_replaced {t : State} {h : Nat} {j k : Job} (hl : j.lostCore = 1) (hk : placeFully t h j = .inl k) (tid : Nat) :
    startByHost t h j tid = (startInvocation (settleRinses (placeAgain t h k)) h (some tid) true, none) := by
  simp only [startByHost, hl, if_true, hk]

/-! ### JOB_STOP -/

/-- What JOB_STOP does with the invocation of a job that its source owns. -/
theorem carryJobStop_of_names {s t : State} {m : Msg} {c : Ctx} {j : Job} (hc : Carried s 0x0302 0x100 24 m t c) (hn : NamesJob t c j)
    (hnow : c.f 0x14 1 < 2) (hz : c.zero 0x15 0x18 = true) (hk : j.kind = .host) (hl : j.lostCore ≠ 2) :
    carryJobStop c t = match j.run with
      | none => (t, some (Done.of eOk))
      | some r =>
        if c.f 0x14 1 = 1 then
          (abortRun (updRun t (c.f 0x10 4) fun r => { r with stops := r.stops ++ [c.tid] }) (c.f 0x10 4) eAborted none [], none)
        else if r.ending then (updRun t (c.f 0x10 4) fun r => { r with stops := r.stops ++ [c.tid] }, none)
        else (stopAfterEpoch t (c.f 0x10 4) (some c.tid), none) := by
  have hfields : (decide (c.f 0x14 1 < 2) && c.zero 0x15 0x18) = true := by simp [hnow, hz]
  have hpass : firstFail [(j.byHost && decide (j.lostCore ≠ 2), eState)] = none := by simp [firstFail, Job.byHost, hk, hl]
  simp only [carryJobStop, jobChecks_of_names hc hn hfields, hpass, hn.job]
  rfl

/-! ### JOB_UNLOAD -/

theorem carryJobUnload_of_names {s t : State} {m : Msg} {c : Ctx} {j : Job} (hc : Carried s 0x0303 0x100 24 m t c) (hn : NamesJob t c j)
    (hz : c.zero 0x14 0x18 = true) (hk : j.kind = .host) (hr : j.run = none) (hs : j.service = none) :
    carryJobUnload c t = (unloadJob t (c.f 0x10 4) (.unload c.tid), none) := by
  simp only [carryJobUnload, jobChecks_of_names hc hn hz]
  simp [firstFail, Job.byHost, hk, hr, hs]

/-- A job that has left is in no job table. -/
theorem getJob_dropJob {s : State} {h : Nat} {j : Job} (hj : getJob s h = some j) : getJob (dropJob s h) h = none := by
  simp only [dropJob, hj]
  exact Tbl.find_del_self ..

/-- The segments of a job that leaves its cores that are in service. -/
def unloadSegs (s : State) (j : Job) : List (Nat × List Nat) := j.segParts.filter fun e => !disabled s 0 e.1

theorem unloadJob_of_loaded {s : State} {h : Nat} {j : Job} (hj : getJob s h = some j) (use : RinseFor) :
    unloadJob s h use = settleRinses (startRinse (dropJob s h) (unloadSegs s j) use) := by
  simp only [unloadJob, hj]
  rfl

theorem getJob_unloadJob {s : State} {h : Nat} {j : Job} (hj : getJob s h = some j) (use : RinseFor) :
    getJob (unloadJob s h use) h = none := by
  rw [unloadJob_of_loaded hj]
  exact (settleRinses_samePlace _).none h (((startRinse_still ..).getJob_eq h).trans (getJob_dropJob hj))

theorem mem_rinsing_unloadJob {s : State} {h n : Nat} {j : Job} {i : Inst} (hj : getJob s h = some j) (hi : i ∈ j.insts)
    (hd : disabled s 0 i.core = false) (hn : n ∈ segList i.segments) (use : RinseFor) :
    n ∈ (getCore (unloadJob s h use) i.core).rinsing := by
  rw [unloadJob_of_loaded hj]
  have hpart : (i.core, segList i.segments) ∈ unloadSegs s j :=
    List.mem_filter.mpr ⟨List.mem_map.mpr ⟨i, hi, rfl⟩, by simp [hd]⟩
  exact (settleRinses_samePlace _).rinsing _ (mem_rinsing_startRinse hpart hn _ _)

/-! ### PLAN_SELECT -/

/-- The state in which the PLAN_SELECTs that waited for an epoch have completed with E_SUPERSEDED. -/
def superseded (s : State) (r : Invocation) (e : Nat) : State :=
  (r.sels.filter fun p => p.effect = e).foldl (fun s p => complete s p.ticket ⟨eSuperseded, p.effect, 0, 0, 0⟩) s

theorem carryPlanSelect_of_names {s t : State} {m : Msg} {c : Ctx} {j : Job} (hc : Carried s 0x0304 0x100 24 m t c) (hn : NamesJob t c j)
    (hp : c.f 0x14 1 ≤ 7) (hz : c.zero 0x15 0x18 = true) (hk : j.kind = .host) (hrules : j.rules = false) (hl : j.lostCore ≠ 2)
    (hplan : j.hasPlan (c.f 0x14 1) = true) :
    carryPlanSelect c t = match j.run with
      | none => (putJob t (c.f 0x10 4) { j with plan0 := c.f 0x14 1 }, some (Done.of eOk))
      | some r => (updRun (superseded t r j.begunEpochs) (c.f 0x10 4) fun r =>
          { r with sels := r.sels.filter (fun p => p.effect ≠ j.begunEpochs) ++
            [{ effect := j.begunEpochs, plan := c.f 0x14 1, ticket := c.tid }] }, none) := by
  have hfields : (decide (c.f 0x14 1 ≤ 7) && c.zero 0x15 0x18) = true := by simp [hp, hz]
  have hpass : firstFail [(j.byHost && !j.rules && decide (j.lostCore ≠ 2), eState), (j.hasPlan (c.f 0x14 1), eResource)] = none := by
    simp [firstFail, Job.byHost, hk, hrules, hl, hplan]
  simp only [carryPlanSelect, jobChecks_of_names hc hn hfields, hpass, hn.job]
  rfl

/-! ### JOB_QUERY -/

theorem carryJobQuery_of_names {s t : State} {m : Msg} {c : Ctx} {j : Job} (hc : Carried s 0x0305 0x100 24 m t c) (hn : NamesJob t c j)
    (hz : c.zero 0x14 0x18 = true) : carryJobQuery c t = (t, some
      ⟨eOk, b2n j.run.isSome + 4 * b2n j.bestEffort + 256 * j.planNext + 65536 * j.insts.length, j.invocations,
        imgLe j.image 0x20 4, imgLe j.image 0x24 4⟩) := by
  simp only [carryJobQuery, jobChecks_of_names hc hn hz, hn.job]
  rfl

/-! ### Settled -/

/-- Settles O30: a JOB_LOAD and a JOB_START that pass their checks, and the two answers of placement. -/
theorem jobCommandsLoadAndStart : Obligations.JobCommandsLoadAndStart := by
  unfold Obligations.JobCommandsLoadAndStart
  intro s m t c q
  refine ⟨⟨fun hc hp hi hr h1 h64 hsv hns hin hrin hsin hcores hroom himg hsave hfree => ?load,
    fun j hc hz hl hj ho hk hs hr hlost => ?start, fun j hc hz hl hj ho hk hs hr hlost => ⟨fun d hd => ?refused, fun k hk' => ?again⟩⟩,
    fun l hl => ⟨fun d hd => ?unplaced, fun j hj => ?placed⟩⟩
  case load =>
    exact runCommand_of_waits hc (by decide) (by decide)
      (carryJobLoad_of_fields hc hp ⟨hi, hr, h1, h64, hsv, hns, hin, hrin, hsin, hcores⟩ hroom himg hsave hfree)
  case start =>
    have hn : NamesJob t c j := ⟨hl, hj, by rw [hc.msg]; exact ho⟩
    refine runCommand_of_waits hc (by decide) (by decide) ?_
    rw [carryJobStart_of_names hc hn hz hk hs hr (by simp [hlost]), startByHost_of_placed (by simp [hlost])]
  case refused =>
    have hn : NamesJob t c j := ⟨hl, hj, by rw [hc.msg]; exact ho⟩
    refine runCommand_of_done hc (by decide) (by decide) ?_
    rw [carryJobStart_of_names hc hn hz hk hs hr (by simp [hlost]), startByHost_of_refused hlost hd]
  case again =>
    have hn : NamesJob t c j := ⟨hl, hj, by rw [hc.msg]; exact ho⟩
    refine runCommand_of_waits hc (by decide) (by decide) ?_
    rw [carryJobStart_of_names hc hn hz hk hs hr (by simp [hlost]), startByHost_of_replaced hlost hk']
  case unplaced =>
    have hjobs : (finish (unloading s l) l.ticket d).work.jobs = s.work.jobs := by rw [(finish_sends ..).work]; rfl
    exact ⟨exec_placementComplete_of_refused hl hd, hjobs, finish_tickets (unloading s l) l.ticket d⟩
  case placed =>
    obtain ⟨hnext, hjob, hrinse⟩ := installJob_spec (unloading s l) l.ticket j
    have hkept := (settleRinses_samePlace (installJob (unloading s l) l.ticket j)).trans samePlace_preorder
      (settleHostLoads_still _).samePlace
    obtain ⟨himage, hpart⟩ := placeFully_keeps hj
    obtain ⟨k, hk, hplace⟩ := hkept.some _ j hjob
    exact ⟨_, exec_placementComplete_of_placed hl hj, rfl, hkept.next.trans hnext,
      ⟨k, hk, hplace.image.trans himage, hplace.part.trans hpart, hplace.digest, hplace.cores⟩,
      fun i hi n hn => hkept.rinsing _ (hrinse i hi n hn)⟩

/-- Settles O31: each command's checks pass, and what it carries out is said once for each. -/
theorem jobCommandsStopAndAsk : Obligations.JobCommandsStopAndAsk := by
  unfold Obligations.JobCommandsStopAndAsk
  intro s m t c j
  refine ⟨fun hc ⟨hl, hj, ho⟩ hnow hz hk hlost => ?stop, fun hc ⟨hl, hj, ho⟩ hz hk hr hs => ?unload,
    fun hc ⟨hl, hj, ho⟩ hp hz hk hrules hlost hplan => ?select, fun hc ⟨hl, hj, ho⟩ hz => ?query⟩
  case stop =>
    have hcarry := carryJobStop_of_names hc ⟨hl, hj, by rw [hc.msg]; exact ho⟩ hnow hz hk hlost
    refine ⟨fun hr => runCommand_of_done hc (by decide) (by decide) ?_, fun r hr hone => runCommand_of_waits hc (by decide) (by decide) ?_,
      fun r hr hzero hg => runCommand_of_waits hc (by decide) (by decide) ?_,
      fun r hr hzero hg => runCommand_of_waits hc (by decide) (by decide) ?_⟩
    · simp only [hcarry, hr]
    · simp only [hcarry, hr, hone, if_true]
    · simp [hcarry, hr, hzero, hg]
    · simp [hcarry, hr, hzero, hg]
  case unload =>
    have hsent := settleByes_sends (unloadJob t (c.f 0x10 4) (.unload c.tid))
    refine ⟨_, runCommand_of_waits hc (by decide) (by decide)
      (carryJobUnload_of_names hc ⟨hl, hj, by rw [hc.msg]; exact ho⟩ hz hk hr hs), rfl, ?_, fun i hi hd n hn => ?_⟩
    · exact (hsent.getJob_eq _).trans (getJob_unloadJob hj _)
    · exact hsent.still.rinsing _ (mem_rinsing_unloadJob hj hi hd hn _)
  case select =>
    have hcarry := carryPlanSelect_of_names hc ⟨hl, hj, by rw [hc.msg]; exact ho⟩ hp hz hk hrules hlost hplan
    refine ⟨fun hr => runCommand_of_done hc (by decide) (by decide) ?_, fun r hr => runCommand_of_waits hc (by decide) (by decide) ?_⟩
    · simp only [hcarry, hr]
    · simp only [hcarry, hr]
      rfl
  case query =>
    exact runCommand_of_done hc (by decide) (by decide) (carryJobQuery_of_names hc ⟨hl, hj, by rw [hc.msg]; exact ho⟩ hz)

end Sys2Proof.Machine
end

section
/-! Lanes of vector registers: what a register built from lanes, a predicated write and a mask built bit by bit give back (05 R119-R121). -/

namespace Sys2Proof.Machine

/-! ### Elements of a number -/

@[simp] theorem nth_map_range {α : Type} (d : α) (f : Nat → α) {n i : Nat} (h : i < n) : nth d ((List.range n).map f) i = f i := by
  simp [nth, h]

theorem elemAt_lt (v k i : Nat) : elemAt v k i < 2 ^ k := Nat.mod_lt _ (Nat.two_pow_pos k)

@[simp] theorem elemAt_mod (v k i : Nat) : elemAt v k i % 2 ^ k = elemAt v k i := Nat.mod_eq_of_lt (elemAt_lt v k i)

theorem elemAt_index_zero (v k : Nat) : elemAt v k 0 = v % 2 ^ k := rfl

theorem elemAt_index_succ (v k i : Nat) : elemAt v k (i + 1) = elemAt (v / 2 ^ k) k i := by
  rw [elemAt, elemAt, Nat.mul_succ, Nat.add_comm, Nat.shiftRight_add, Nat.shiftRight_eq_div_pow v k]

/-- The number that lanes make gives back each lane, cut to its width; past the last lane it holds zeros. -/
theorem elemAt_foldr (k : Nat) (ls : List Nat) (i : Nat) :
    elemAt (ls.foldr (fun x acc => acc * 2 ^ k + x % 2 ^ k) 0) k i = nth 0 ls i % 2 ^ k := by
  induction ls generalizing i with
  | nil => simp [elemAt, nth]
  | cons x ls ih =>
    rw [List.foldr_cons]
    cases i with
    | zero => rw [elemAt_index_zero, Nat.mul_add_mod_of_lt (Nat.mod_lt _ (Nat.two_pow_pos k))]; rfl
    | succ i =>
      rw [elemAt_index_succ, Nat.mul_comm, Nat.mul_add_div (Nat.two_pow_pos k), Nat.div_eq_of_lt (Nat.mod_lt _ (Nat.two_pow_pos k)), Nat.add_zero, ih]
      rfl

/-- An element that lies in a word of n bits is an element of the word. -/
theorem elemAt_toNat_ofNat {k i n : Nat} (v : Nat) (h : k * (i + 1) ≤ n) : elemAt (BitVec.ofNat n v).toNat k i = elemAt v k i := by
  refine Nat.eq_of_testBit_eq fun b => ?_
  simp only [elemAt, BitVec.toNat_ofNat, Nat.testBit_mod_two_pow, Nat.testBit_shiftRight]
  by_cases hb : b < k
  · have : k * i + b < n := by rw [Nat.mul_succ] at h; omega
    simp [hb, this]
  · simp [hb]

theorem lane_end_le {k i : Nat} (h : i < 2048 / k) : k * (i + 1) ≤ 2048 := by
  rw [Nat.mul_comm]; exact Nat.mul_le_of_le_div _ _ _ h

/-! ### Registers made of lanes -/

theorem elemAt_ofLanes {k i : Nat} (ls : List Nat) (h : i < 2048 / k) : elemAt (ofLanes k ls).toNat k i = nth 0 ls i % 2 ^ k := by
  rw [ofLanes, elemAt_toNat_ofNat _ (lane_end_le h), elemAt_foldr]

theorem nth_lanesOf {k i : Nat} (x : BitVec 2048) (h : i < 2048 / k) : nth 0 (lanesOf k x) i = elemAt x.toNat k i :=
  nth_map_range 0 _ h

/-- A predicated write: the new lane, or the old one, or 0 with MZ (05 R121). -/
theorem elemAt_predicate {k i : Nat} (m : BitVec 256) (mz : Bool) (old new : BitVec 2048) (h : i < 2048 / k) :
    elemAt (predicate m mz k old new).toNat k i =
      if lanePred m k i then elemAt new.toNat k i else if mz then 0 else elemAt old.toNat k i := by
  rw [predicate, elemAt_ofLanes _ h, nth_map_range 0 _ h, nth_lanesOf old h]
  split
  · exact elemAt_mod ..
  · split
    · exact Nat.zero_mod _
    · exact elemAt_mod ..

/-! ### Masks made of bits -/

theorem testBit_foldr_b2n (f : Nat → Bool) (l : List Nat) (j : Nat) :
    (l.foldr (fun b acc => acc * 2 + b2n (f b)) 0).testBit j = ((l[j]?).map f).getD false := by
  induction l generalizing j with
  | nil => simp
  | cons b l ih =>
    have hb : b2n (f b) < 2 := by unfold b2n; split <;> omega
    rw [List.foldr_cons]
    cases j with
    | zero => rw [Nat.testBit_zero, Nat.mul_add_mod_of_lt hb]; cases hf : f b <;> simp [b2n, hf]
    | succ j => rw [Nat.testBit_succ, show ∀ x, (x * 2 + b2n (f b)) / 2 = x by omega, ih]; rfl

theorem getLsbD_maskOfBits (f : Nat → Bool) {b : Nat} (h : b < 256) : (maskOfBits f).getLsbD b = f b := by
  rw [maskOfBits, BitVec.getLsbD_ofNat, testBit_foldr_b2n]
  simp [h]

/-! ### Registers, masks and pointers after a write (05 R119) -/

section
variable (u : VecUnit)

@[simp] theorem getV_setV_self (d : Nat) (x : BitVec 2048) : getV (setV u d x) d = x := Tbl.get_set_self ..
@[simp] theorem getV_setV_other {d r : Nat} (x : BitVec 2048) (h : r ≠ d) : getV (setV u d x) r = getV u r := Tbl.get_set_other _ _ _ h

@[simp] theorem getM_zero : getM u 0 = BitVec.allOnes 256 := rfl
@[simp] theorem getP_zero : getP u 0 = 0 := rfl

theorem getM_setM_self {d : Nat} (x : BitVec 256) (h : d ≠ 0) : getM (setM u d x) d = x := by
  rw [getM, setM, if_neg h, if_neg h, Tbl.get_set_self]

theorem getM_setM_other {d r : Nat} (x : BitVec 256) (h : r ≠ d) : getM (setM u d x) r = getM u r := by
  unfold getM setM
  split
  · rfl
  · split
    · rfl
    · exact Tbl.get_set_other _ _ _ h

theorem getP_setP_self {d : Nat} (x : BitVec 32) (h : d ≠ 0) : getP (setP u d x) d = x := by
  rw [getP, setP, if_neg h, if_neg h, Tbl.get_set_self]

theorem getP_setP_other {d r : Nat} (x : BitVec 32) (h : r ≠ d) : getP (setP u d x) r = getP u r := by
  unfold getP setP
  split
  · rfl
  · split
    · rfl
    · exact Tbl.get_set_other _ _ _ h

/-- A write of a mask touches the masks alone. -/
theorem setM_eq (d : Nat) (x : BitVec 256) : setM u d x = { u with m := (setM u d x).m } := by unfold setM; split <;> rfl

/-- A write of a pointer touches the pointers alone. -/
theorem setP_eq (d : Nat) (x : BitVec 32) : setP u d x = { u with p := (setP u d x).p } := by unfold setP; split <;> rfl

end

end Sys2Proof.Machine
end

section
/-! What a row of the vector engine leaves alone: the engine goes on to the next instruction, and nothing else of the device changes
but the counts of the invocation (05 R126, R135, R139). -/

namespace Sys2Proof.Machine

/-! ### The move to the next instruction -/

/-- Where the engine goes does not depend on its registers, masks and pointers, and it leaves them as they are. -/
theorem vNext_regs (u : VecUnit) (v : Tbl (BitVec 2048)) (m : Tbl (BitVec 256)) (p : Tbl (BitVec 32)) :
    vNext { u with v := v, m := m, p := p } = { vNext u with v := v, m := m, p := p } := by
  have hback : ∀ u : VecUnit, loopBack { u with v := v, m := m, p := p } = { loopBack u with v := v, m := m, p := p } := by
    intro u
    unfold loopBack
    dsimp only
    split
    · split <;> rfl
    · rfl
  rw [vNext, vNext, hback { u with pc := u.pc + 1 }]
  unfold vSettle
  dsimp only
  split <;> rfl

@[simp] theorem vNext_v (u : VecUnit) : (vNext u).v = u.v := (congrArg VecUnit.v (vNext_regs u u.v u.m u.p) :)
@[simp] theorem vNext_m (u : VecUnit) : (vNext u).m = u.m := (congrArg VecUnit.m (vNext_regs u u.v u.m u.p) :)
@[simp] theorem vNext_p (u : VecUnit) : (vNext u).p = u.p := (congrArg VecUnit.p (vNext_regs u u.v u.m u.p) :)

@[simp] theorem getV_vNext (u : VecUnit) (r : Nat) : getV (vNext u) r = getV u r := by rw [getV, vNext_v, getV]
@[simp] theorem getM_vNext (u : VecUnit) (r : Nat) : getM (vNext u) r = getM u r := by rw [getM, vNext_m, getM]
@[simp] theorem getP_vNext (u : VecUnit) (r : Nat) : getP (vNext u) r = getP u r := by rw [getP, vNext_p, getP]

theorem vNext_withV (u : VecUnit) (v : Tbl (BitVec 2048)) : vNext { u with v := v } = { vNext u with v := v } := by
  rw [vNext_regs u v u.m u.p, ← vNext_m u, ← vNext_p u]

theorem vNext_withM (u : VecUnit) (m : Tbl (BitVec 256)) : vNext { u with m := m } = { vNext u with m := m } := by
  rw [vNext_regs u u.v m u.p, ← vNext_v u, ← vNext_p u]

theorem vNext_withP (u : VecUnit) (p : Tbl (BitVec 32)) : vNext { u with p := p } = { vNext u with p := p } := by
  rw [vNext_regs u u.v u.m p, ← vNext_v u, ← vNext_m u]

/-! ### Only engines change -/

theorem OnlyEngines.intro {s t : State} {c : Nat} {e : Tbl Engines} {j : Tbl Job}
    (ht : t = { s with engines := e, work := { s.work with jobs := j } }) (hd : ∀ d, d ≠ c → getEng t d = getEng s d) : OnlyEngines s t c := by
  subst ht; exact ⟨rfl, hd⟩

theorem OnlyEngines.trans {s t u : State} {c : Nat} (a : OnlyEngines s t c) (b : OnlyEngines t u c) : OnlyEngines s u c := by
  refine .intro (e := u.engines) (j := u.work.jobs) ?_ fun d hd => (b.2 d hd).trans (a.2 d hd)
  rw [b.1, a.1]

theorem updEng_onlyEngines (s : State) (c : Nat) (f : Engines → Engines) : OnlyEngines s (updEng s c f) c :=
  ⟨rfl, fun _ hd => getEng_updEng_other s f hd⟩

/-- Counting an event of the invocation that a core runs changes the job table alone. -/
theorem countRun_eq (s : State) (c : Nat) (f : Invocation → Invocation) :
    ∃ j, countRun s c f = { s with work := { s.work with jobs := j } } := by
  unfold countRun
  split
  · unfold updRun updJob
    split <;> exact ⟨_, rfl⟩
  · exact ⟨_, rfl⟩

/-! ### The vector engine becomes another -/

/-- The vector engine of core c has become u; the other engines, and the device but for the job table, are as before. -/
structure VecBecomes (s t : State) (c : Nat) (u : VecUnit) : Prop where
  only : OnlyEngines s t c
  eng : getEng t c = { getEng s c with vec := u }

theorem VecBecomes.vec {s t : State} {c : Nat} {u : VecUnit} (h : VecBecomes s t c u) : (getEng t c).vec = u := by rw [h.eng]

theorem VecBecomes.trans {s t r : State} {c : Nat} {u v : VecUnit} (a : VecBecomes s t c u) (b : VecBecomes t r c v) : VecBecomes s r c v :=
  ⟨a.only.trans b.only, by rw [b.eng, a.eng]⟩

theorem updVec_becomes (s : State) (c : Nat) (f : VecUnit → VecUnit) : VecBecomes s (updVec s c f) c (f (getEng s c).vec) :=
  ⟨updEng_onlyEngines .., getEng_updEng_self ..⟩

/-- Events counted after the engine's move leave what it has become. -/
theorem VecBecomes.countRun {s t : State} {c : Nat} {u : VecUnit} (h : VecBecomes s t c u) (f : Invocation → Invocation) :
    VecBecomes s (countRun t c f) c u := by
  obtain ⟨j, hj⟩ := countRun_eq t c f
  rw [hj]
  exact ⟨h.only.trans ⟨rfl, fun _ _ => rfl⟩, h.eng⟩

/-- A row of the engine's own registers completes: they are what its function makes of them, and the engine goes on. -/
theorem vecRun_becomes {s : State} {c w op : Nat} (f : Nat → VecUnit → VecUnit × Nat) (hw : vecAt s c op = some w) :
    ∃ t, vecRun op f c s = .next t ∧ VecBecomes s t c (vNext (f w (getEng s c).vec).1) := by
  simp only [vecRun, hw]
  have hgo := updVec_becomes s c fun _ => vNext (f w (getEng s c).vec).1
  refine ⟨_, rfl, ?_⟩
  split
  · exact hgo
  · exact hgo.countRun _

/-- A row that reads the scratchpad completes where an instance runs, and the engine goes on from the state it made. -/
theorem vecMem_of_at {s : State} {c w h op : Nat} {j : Job} {i : Inst} (f : Job → Inst → Nat → State → State)
    (hw : vecAt s c op = some w) (hr : running s c = some (h, j, i)) :
    vecMem op f c s = .next (updVec (f j i w s) c vNext) := by
  simp only [vecMem, hw, hr]

/-! ### The frames of the statements -/

section
variable {s t : State} {c : Nat}

/-- A row that writes one vector register leaves everything else alone. -/
theorem VecBecomes.vecFrame {d : Nat} {x : BitVec 2048} (h : VecBecomes s t c (vNext (setV (getEng s c).vec d x))) : VecFrame s t c d := by
  refine ⟨h.only, by rw [h.eng], by rw [h.eng], fun r hr => ?_, ?_⟩
  · rw [h.vec, getV_vNext, getV_setV_other _ _ hr]
  · rw [h.vec, setV, vNext_withV]

/-- A row that writes one mask register leaves everything else alone. -/
theorem VecBecomes.maskFrame {d : Nat} {x : BitVec 256} (h : VecBecomes s t c (vNext (setM (getEng s c).vec d x))) : MaskFrame s t c d := by
  refine ⟨h.only, by rw [h.eng], by rw [h.eng], fun r hr => ?_, ?_⟩
  · rw [h.vec, getM_vNext, getM_setM_other _ _ hr]
  · rw [h.vec, setM_eq, vNext_withM]

/-- A row that writes one pointer leaves every other register alone. -/
theorem VecBecomes.pointerFrame {d : Nat} {x : BitVec 32} (h : VecBecomes s t c (vNext (setP (getEng s c).vec d x))) :
    (getEng t c).vec = { vNext (getEng s c).vec with p := (getEng t c).vec.p } := by
  rw [h.vec, setP_eq, vNext_withP]

/-- The lanes of the register that a row writes. -/
theorem VecBecomes.vLane_eq {d : Nat} {x : BitVec 2048} (h : VecBecomes s t c (vNext (setV (getEng s c).vec d x))) (k i : Nat) :
    vLane t c d k i = elemAt x.toNat k i := by
  rw [vLane, h.vec, getV_vNext, getV_setV_self]

end

end Sys2Proof.Machine
end

section
/-! Rows that write lanes of VD under the predicate: arithmetic, moves, shifts, functions and complex elements (05 R120, R126, R127, R129). -/

namespace Sys2Proof.Machine

/-! ### Lane results under the predicate (05 R121) -/

theorem nth_map {α β : Type} (f : α → β) (d : α) (l : List α) (i : Nat) : nth (f d) (l.map f) i = f (nth d l i) := by
  simp only [nth, List.getElem?_map, Option.getD_map]

/-- A register of lane results written under the instruction's predicate does what the statements ask of g, where each result is g's
cut to the lane. -/
theorem VecBecomes.lanesDone {s t : State} {c w k : Nat} {rs : List (Nat × Nat)} {g : Nat → Nat}
    (h : VecBecomes s t c (vNext (writeLanes w k (getEng s c).vec rs).1))
    (hg : ∀ i, i < 2048 / k → (nth (0, 0) rs i).1 % 2 ^ k = g i % 2 ^ k) : LanesDone s t c w k g := by
  let u := (getEng s c).vec
  have hset : VecBecomes s t c (vNext (setV u (vVD w)
      (predicate (getM u (vMask w)) (vMz w) k (getV u (vVD w)) (ofLanes k (rs.map Prod.fst))))) := h
  refine ⟨fun i hi => ?_, hset.vecFrame⟩
  rw [hset.vLane_eq, elemAt_predicate _ _ _ _ hi, elemAt_ofLanes _ hi, ← hg i hi, ← nth_map Prod.fst]
  rfl

/-- A row whose function writes lane results completes, and has done g. -/
theorem vecRun_lanesDone {s : State} {c w op k : Nat} {f : Nat → VecUnit → VecUnit × Nat} {rs : List (Nat × Nat)} {g : Nat → Nat}
    (hw : vecAt s c op = some w) (hf : f w (getEng s c).vec = writeLanes w k (getEng s c).vec rs)
    (hg : ∀ i, i < 2048 / k → (nth (0, 0) rs i).1 % 2 ^ k = g i % 2 ^ k) :
    ∃ t, vecRun op f c s = .next t ∧ LanesDone s t c w k g := by
  obtain ⟨t, ht, hb⟩ := vecRun_becomes f hw
  rw [hf] at hb
  exact ⟨t, ht, hb.lanesDone hg⟩

/-! ### Lane-wise rows -/

/-- The instruction i of opcode op, with the word w, is lane-wise: a lane of its result is f of the lanes of VA, of VB or the immediate,
and of VC, cut to the lane. -/
def IsLaneWise (i : Instr) (c op w : Nat) (f : Nat → Nat → Nat → Nat) : Prop :=
  ∃ (F : Nat → VecUnit → VecUnit × Nat) (G : Nat → Nat → Nat → Nat × Nat), (∀ s, exec i s = vecRun op F c s) ∧
    (∀ u, F w u = laneWise w u G) ∧ ∀ a b d, (G a b d).1 % 2 ^ laneBits (vFmt w) = f a b d % 2 ^ laneBits (vFmt w)

/-- A lane-wise row completes with its lanes written. -/
theorem IsLaneWise.lanesDone {i : Instr} {c op w : Nat} {f : Nat → Nat → Nat → Nat} (h : IsLaneWise i c op w f) {s : State}
    (hw : vecAt s c op = some w) : ∃ t, exec i s = .next t ∧ LanesDone s t c w (laneBits (vFmt w)) (fun n =>
      f (vLane s c (vVA w) (laneBits (vFmt w)) n) (vLaneB s c w (laneBits (vFmt w)) n) (vLane s c (vVC w) (laneBits (vFmt w)) n)) := by
  obtain ⟨F, G, hexec, hF, hG⟩ := h
  rw [hexec]
  refine vecRun_lanesDone hw (hF _) fun n hn => ?_
  rw [nth_map_range _ _ hn, nth_lanesOf _ hn, nth_lanesOf _ hn, nth_lanesOf _ hn]
  exact hG ..

/-- Every arithmetic row is lane-wise (05 R126, R127). -/
theorem isLaneWise_of_arith {i : Instr} {c op w : Nat} {f : Nat → Nat → Nat → Nat} (h : (i, op, f) ∈ vecArithRows c w) :
    IsLaneWise i c op w f := by
  simp only [vecArithRows, List.mem_cons, Prod.mk.injEq, List.not_mem_nil, or_false] at h
  rcases h with ⟨rfl, rfl, rfl⟩ | ⟨rfl, rfl, rfl⟩ | ⟨rfl, rfl, rfl⟩ | ⟨rfl, rfl, rfl⟩ | ⟨rfl, rfl, rfl⟩ | ⟨rfl, rfl, rfl⟩ |
    ⟨rfl, rfl, rfl⟩ | ⟨rfl, rfl, rfl⟩ | ⟨rfl, rfl, rfl⟩
  · exact ⟨vAdd, _, fun _ => rfl, fun _ => rfl, fun _ _ _ => rfl⟩
  · exact ⟨vSub, _, fun _ => rfl, fun _ => rfl, fun a b d => by cases bit (vMode w) 1 <;> rfl⟩
  · exact ⟨vMul, _, fun _ => rfl, fun _ => rfl, fun _ _ _ => rfl⟩
  · exact ⟨vFma, _, fun _ => rfl, fun _ => rfl, fun a b d => by cases vFloat (vFmt w) <;> rfl⟩
  · exact ⟨vMax, _, fun _ => rfl, fun _ => rfl, fun _ _ _ => rfl⟩
  · exact ⟨vMin, _, fun _ => rfl, fun _ => rfl, fun _ _ _ => rfl⟩
  · exact ⟨vAbs, _, fun _ => rfl, fun _ => rfl, fun _ _ _ => rfl⟩
  · exact ⟨vNeg, _, fun _ => rfl, fun _ => rfl, fun _ _ _ => rfl⟩
  · exact ⟨vClamp, _, fun _ => rfl, fun _ => rfl, fun _ _ _ => rfl⟩

theorem vShift_eq (f : Nat → Nat → Nat → Nat) (w : Nat) (u : VecUnit) : vShift f w u = laneWise w u fun a b _ =>
    (f (laneBits (vFmt w)) a ((if vImmB w then vImm w else b) % laneBits (vFmt w)), 0) := rfl

theorem vTrans_eq (op w : Nat) (u : VecUnit) : vTrans op w u = laneWise w u fun a _ _ =>
    (((vFloat (vFmt w)).getD fF32).encode (fF32.decode (transF32 op (fF32.encode (((vFloat (vFmt w)).getD fF32).decode a)))), 0) := rfl

/-- The moves, the bitwise rows and the shifts are lane-wise (05 R126). -/
theorem isLaneWise_of_bits {i : Instr} {c op w : Nat} {f : Nat → Nat → Nat → Nat} (h : (i, op, f) ∈ vecBitRows c w) :
    IsLaneWise i c op w f := by
  simp only [vecBitRows, List.mem_cons, Prod.mk.injEq, List.not_mem_nil, or_false] at h
  rcases h with ⟨rfl, rfl, rfl⟩ | ⟨rfl, rfl, rfl⟩ | ⟨rfl, rfl, rfl⟩ | ⟨rfl, rfl, rfl⟩ | ⟨rfl, rfl, rfl⟩ | ⟨rfl, rfl, rfl⟩ | ⟨rfl, rfl, rfl⟩
  · exact ⟨vMov, _, fun _ => rfl, fun _ => rfl, fun _ _ _ => rfl⟩
  · exact ⟨vBitwise Nat.land, _, fun _ => rfl, fun _ => rfl, fun _ _ _ => rfl⟩
  · exact ⟨vBitwise Nat.lor, _, fun _ => rfl, fun _ => rfl, fun _ _ _ => rfl⟩
  · exact ⟨vBitwise Nat.xor, _, fun _ => rfl, fun _ => rfl, fun _ _ _ => rfl⟩
  · exact ⟨vShift fun k a n => a * 2 ^ n % 2 ^ k, _, fun _ => rfl, vShift_eq _ w, fun _ _ _ => Nat.mod_mod ..⟩
  · exact ⟨vShift fun k a n => unsigned k (signed k a / 2 ^ n), _, fun _ => rfl, vShift_eq _ w, fun _ _ _ => rfl⟩
  · exact ⟨vShift fun _ a n => a / 2 ^ n, _, fun _ => rfl, vShift_eq _ w, fun _ _ _ => rfl⟩

/-- The functions computed in F32 are lane-wise (05 R129). -/
theorem isLaneWise_of_function {i : Instr} {c op w : Nat} (h : (i, op) ∈ vecFunctionRows c) :
    IsLaneWise i c op w fun a _ _ => ((vFloat (vFmt w)).getD fF32).encode (fF32.decode (transF32 op (fF32.encode
      (((vFloat (vFmt w)).getD fF32).decode a)))) := by
  refine ⟨vTrans op, _, ?_, vTrans_eq op w, fun _ _ _ => rfl⟩
  simp only [vecFunctionRows, List.mem_cons, Prod.mk.injEq, List.not_mem_nil, or_false] at h
  rcases h with ⟨rfl, rfl⟩ | ⟨rfl, rfl⟩ | ⟨rfl, rfl⟩ | ⟨rfl, rfl⟩ | ⟨rfl, rfl⟩ | ⟨rfl, rfl⟩ | ⟨rfl, rfl⟩ | ⟨rfl, rfl⟩ <;> exact fun _ => rfl

/-! ### Complex elements -/

/-- A complex row runs the shared complex operation with its function of three elements (05 R126). -/
theorem exec_of_complex {i : Instr} {c op : Nat} {f : CVal → CVal → CVal → CVal} (h : (i, op, f) ∈ vecComplexRows c) (s : State) :
    exec i s = vecRun op (vComplex f) c s := by
  simp only [vecComplexRows, List.mem_cons, Prod.mk.injEq, List.not_mem_nil, or_false] at h
  rcases h with ⟨rfl, rfl, rfl⟩ | ⟨rfl, rfl, rfl⟩ | ⟨rfl, rfl, rfl⟩ | ⟨rfl, rfl, rfl⟩ | ⟨rfl, rfl, rfl⟩ | ⟨rfl, rfl, rfl⟩ <;> rfl

/-! ### Settled -/

/-- Settles O10: each row is lane-wise, and a lane-wise row writes its lanes and nothing else. -/
theorem vectorLaneOperationsWriteLanes : Obligations.VectorLaneOperationsWriteLanes := by
  unfold Obligations.VectorLaneOperationsWriteLanes
  intro s c w op hw
  refine ⟨fun i f hrow => ?_, fun i hrow => (isLaneWise_of_function hrow).lanesDone hw⟩
  rcases List.mem_append.mp hrow with harith | hbits
  · exact (isLaneWise_of_arith harith).lanesDone hw
  · exact (isLaneWise_of_bits hbits).lanesDone hw

/-- Settles O11: the shared complex operation writes one lane result for each element. -/
theorem vectorComplexWritesElements : Obligations.VectorComplexWritesElements := by
  unfold Obligations.VectorComplexWritesElements
  intro s c w op i f hrow hw
  rw [exec_of_complex hrow]
  exact vecRun_lanesDone hw rfl fun n hn => by rw [nth_map_range _ _ hn]; rfl

end Sys2Proof.Machine
end

section
/-! Rows that fold groups of lanes, move lanes, choose between registers or convert lanes (05 R126, R128, R130). -/

namespace Sys2Proof.Machine

/-! ### Reductions (05 R128) -/

/-- One level of the tree over lanes that a set holds, by two functions that agree on the set and stay in it. -/
theorem pairUp_congr {α : Type} {f g : α → α → α} {P : α → Prop} (hfg : ∀ a b, P a → P b → f a b = g a b)
    (hP : ∀ a b, P a → P b → P (f a b)) (l : List α) (hl : ∀ a ∈ l, P a) :
    pairUp f l = pairUp g l ∧ ∀ a ∈ pairUp f l, P a := by
  induction l using pairUp.induct with
  | case1 a b l ih =>
    simp only [List.mem_cons, forall_eq_or_imp] at hl
    obtain ⟨ha, hb, hrest⟩ := hl
    obtain ⟨heq, hmem⟩ := ih hrest
    simp only [pairUp, heq, hfg a b ha hb, List.mem_cons, forall_eq_or_imp, true_and]
    exact ⟨hfg a b ha hb ▸ hP a b ha hb, heq ▸ hmem⟩
  | case2 l hshort =>
    have hself : ∀ f : α → α → α, pairUp f l = l := fun f => by
      unfold pairUp
      split
      · exact absurd rfl (hshort _ _ _)
      · rfl
    rw [hself, hself]
    exact ⟨rfl, hl⟩

/-- The tree over lanes that a set holds, by two functions that agree on the set and stay in it. -/
theorem treeFold_congr {α : Type} {f g : α → α → α} {P : α → Prop} (hfg : ∀ a b, P a → P b → f a b = g a b)
    (hP : ∀ a b, P a → P b → P (f a b)) (n : Nat) (l : List α) (hl : ∀ a ∈ l, P a) : treeFold f n l = treeFold g n l := by
  induction n generalizing l with
  | zero => rfl
  | succ n ih =>
    obtain ⟨heq, hmem⟩ := pairUp_congr hfg hP l hl
    rw [treeFold, treeFold, ih _ hmem, heq]

/-- A reduction by a function of two lanes completes with each group's value in its lowest lane (05 R126). -/
theorem vecRun_reduce {s : State} {c w op : Nat} (f : Nat → Nat → Nat → Nat) (hw : vecAt s c op = some w) :
    ∃ t, vecRun op (vReduce f) c s = .next t ∧ LanesDone s t c w (laneBits (vFmt w)) (fun n =>
      if n % 2 ^ (vMode w % 8 + 1) = 0 then
        nth 0 (treeFold (f (vFmt w)) (vMode w % 8 + 1) (lanesOf (laneBits (vFmt w)) (getV (getEng s c).vec (vVA w)))) (n / 2 ^ (vMode w % 8 + 1))
      else 0) :=
  vecRun_lanesDone hw rfl fun n hn => by rw [nth_map_range _ _ hn]

/-- The better of two lanes of VA by their values, NaN before all and the first of two that are equal (05 R126, R128). -/
def argBetter (a : Nat → Val) (i j : Nat) : Nat :=
  if (a i).isNan then i else if (a j).isNan then j else if Val.lt (a i) (a j) then j else i

theorem argBetter_cases (a : Nat → Val) (i j : Nat) : argBetter a i j = i ∨ argBetter a i j = j := by
  unfold argBetter
  split
  · exact .inl rfl
  · split
    · exact .inr rfl
    · split
      · exact .inr rfl
      · exact .inl rfl

/-- The tree over lane numbers looks at the lanes that the register has alone. -/
theorem treeFold_argBetter_congr {a b : Nat → Val} {n : Nat} (h : ∀ i, i < n → a i = b i) (g : Nat) :
    treeFold (argBetter a) g (List.range n) = treeFold (argBetter b) g (List.range n) := by
  refine treeFold_congr (P := (· < n)) (fun i j hi hj => ?_) (fun i j hi hj => ?_) g _ fun i hi => List.mem_range.mp hi
  · simp only [argBetter, h i hi, h j hj]
  · rcases argBetter_cases a i j with heq | heq <;> rw [heq] <;> assumption

theorem nth_map_decode_lanesOf {k i : Nat} (f : FFmt) (x : BitVec 2048) (h : i < 2048 / k) :
    nth Val.nan ((lanesOf k x).map f.decode) i = f.decode (elemAt x.toNat k i) := by
  rw [lanesOf, List.map_map, nth_map_range _ _ h]
  rfl

/-- VRARGMAX completes with the number of the best lane of each group in the group's lowest lane (05 R126, R128). -/
theorem vecRun_argMax {s : State} {c w op : Nat} (hw : vecAt s c op = some w) :
    ∃ t, vecRun op vArgMax c s = .next t ∧ LanesDone s t c w (laneBits (vFmt w)) (fun n =>
      if n % 2 ^ (vMode w % 8 + 1) = 0 then
        nth 0 (treeFold (argBetter fun i => ((vFloat (vFmt w)).getD fF32).decode (vLane s c (vVA w) (laneBits (vFmt w)) i))
          (vMode w % 8 + 1) (List.range (2048 / laneBits (vFmt w)))) (n / 2 ^ (vMode w % 8 + 1))
      else 0) := by
  refine vecRun_lanesDone hw rfl fun n hn => ?_
  have htree := treeFold_argBetter_congr (fun i hi =>
    nth_map_decode_lanesOf (k := laneBits (vFmt w)) ((vFloat (vFmt w)).getD fF32) (getV (getEng s c).vec (vVA w)) hi) (vMode w % 8 + 1)
  rw [nth_map_range _ _ hn]
  dsimp only [vLane]
  rw [← htree]
  rfl

/-! ### Permutations (05 R126) -/

theorem even_lanes (fmt : Nat) : 2048 / laneBits fmt = 2 * (1024 / laneBits fmt) := by
  unfold laneBits
  split <;> rfl

/-- A permutation completes where its function of the source lanes, below the lane count, is g. -/
theorem vecRun_permute {s : State} {c w op : Nat} {f : Nat → Nat → List Nat → List Nat → Nat → Nat} {g : Nat → Nat}
    (hw : vecAt s c op = some w)
    (hg : ∀ i, i < 2048 / laneBits (vFmt w) → f w (2048 / laneBits (vFmt w))
      (lanesOf (laneBits (vFmt w)) (getV (getEng s c).vec (vVA w))) (lanesOf (laneBits (vFmt w)) (srcB (getEng s c).vec w)) i = g i) :
    ∃ t, vecRun op (vPermute f) c s = .next t ∧ LanesDone s t c w (laneBits (vFmt w)) g :=
  vecRun_lanesDone hw rfl fun i hi => by rw [nth_map_range _ _ hi, hg i hi]

/-- VBCAST completes with one lane of VA, or the free value, in every lane (05 R126). -/
theorem vecRun_bcast {s : State} {c w op : Nat} (hw : vecAt s c op = some w) :
    ∃ t, vecRun op vBcast c s = .next t ∧ LanesDone s t c w (laneBits (vFmt w)) fun _ =>
      if vImm w < 2048 / laneBits (vFmt w) then vLane s c (vVA w) (laneBits (vFmt w)) (vImm w)
      else Config.bcastBeyond (getV (getEng s c).vec (vVA w)) (vImm w) := by
  refine vecRun_lanesDone hw rfl fun i hi => ?_
  rw [nth, List.getElem?_replicate_of_lt hi]
  exact Nat.mod_mod ..

/-- The sources of a permutation as the statements write them. -/
theorem nth_lanesOf_vLane {s : State} {c r k i : Nat} (h : i < 2048 / k) : nth 0 (lanesOf k (getV (getEng s c).vec r)) i = vLane s c r k i :=
  nth_lanesOf _ h

theorem nth_lanesOf_vLaneB {s : State} {c w k i : Nat} (h : i < 2048 / k) : nth 0 (lanesOf k (srcB (getEng s c).vec w)) i = vLaneB s c w k i :=
  nth_lanesOf _ h

/-- Settles O12: each fold and each permutation names, for every lane it writes, a lane that its sources have. -/
theorem vectorReductionsAndPermutations : Obligations.VectorReductionsAndPermutations := by
  unfold Obligations.VectorReductionsAndPermutations
  intro s c w
  refine ⟨fun i op f hrow hw => ?folds, fun hw => vecRun_argMax hw, ?_⟩
  case folds =>
    simp only [List.mem_cons, Prod.mk.injEq, List.not_mem_nil, or_false] at hrow
    rcases hrow with ⟨rfl, rfl, rfl⟩ | ⟨rfl, rfl, rfl⟩ | ⟨rfl, rfl, rfl⟩ <;> exact vecRun_reduce _ hw
  have heven := even_lanes (vFmt w)
  refine ⟨fun hw => vecRun_bcast hw, fun hw => vecRun_permute (f := pRot) hw fun i hi => ?rot,
    fun hw => vecRun_permute (f := pZip) hw fun i hi => ?zip, fun hw => vecRun_permute (f := pUnzip) hw fun i hi => ?unzip,
    fun hw => vecRun_permute (f := pPerm) hw fun i hi => ?perm⟩
  case rot => exact nth_lanesOf_vLane (Nat.mod_lt _ (by omega))
  case zip =>
    have hin : (if bit (vMode w) 0 then 2048 / laneBits (vFmt w) / 2 else 0) + i / 2 < 2048 / laneBits (vFmt w) := by split <;> omega
    simp only [pZip, nth_lanesOf_vLane hin, nth_lanesOf_vLaneB hin]
  case unzip =>
    have hbit : b2n (bit (vMode w) 0) ≤ 1 := by unfold b2n; split <;> omega
    unfold pUnzip
    dsimp only
    split
    · next hj => exact nth_lanesOf_vLane hj
    · exact nth_lanesOf_vLaneB (by omega)
  case perm =>
    rw [pPerm, nth_lanesOf_vLaneB hi]
    exact nth_lanesOf_vLane (Nat.mod_lt _ (by omega))

/-! ### Selection and conversion (05 R126, R130) -/

/-- A register made of lanes and written whole holds each lane, cut to its width. -/
theorem VecBecomes.vLane_ofLanes {s t : State} {c d k n : Nat} {f : Nat → Nat}
    (h : VecBecomes s t c (vNext (setV (getEng s c).vec d (ofLanes k ((List.range (2048 / k)).map f))))) (hn : n < 2048 / k) :
    vLane t c d k n = f n % 2 ^ k := by
  rw [h.vLane_eq, elemAt_ofLanes _ hn, nth_map_range _ _ hn]

/-- VSEL completes with a lane of one of its two sources in every lane, whatever MZ (05 R126). -/
theorem vecRun_sel {s : State} {c w op : Nat} (hw : vecAt s c op = some w) :
    ∃ t, vecRun op vSel c s = .next t ∧ VecFrame s t c (vVD w) ∧
      ∀ n, n < 2048 / laneBits (vFmt w) → vLane t c (vVD w) (laneBits (vFmt w)) n =
        if vWritten s c w (laneBits (vFmt w)) n then vLane s c (vVA w) (laneBits (vFmt w)) n else vLaneB s c w (laneBits (vFmt w)) n := by
  obtain ⟨t, ht, hb⟩ := vecRun_becomes vSel hw
  refine ⟨t, ht, VecBecomes.vecFrame hb, fun n hn => ?_⟩
  rw [VecBecomes.vLane_ofLanes hb hn, nth_lanesOf_vLane hn, nth_lanesOf_vLaneB hn]
  unfold vWritten
  split <;> exact elemAt_mod ..

/-- Whether a conversion is between complex elements (05 R130). -/
abbrev cvtComplex (w : Nat) : Prop := vFmt w = 0x0F ∨ vVC w = 0x0F

/-- Bits of a lane of a conversion's source and of its result. -/
def cvtFrom (w : Nat) : Nat := if cvtComplex w then cBits (vFmt w) else laneBits (vFmt w)
def cvtTo (w : Nat) : Nat := if cvtComplex w then cBits (vVC w) else laneBits (vVC w)

/-- The rounding mode and the conversion of one lane. -/
def cvtMode (w : Nat) : Rnd := if bit (vMode w) 1 then .rtz else .rne
def cvtLane (w x : Nat) : Nat :=
  if cvtComplex w then (cLaneBy (cvtMode w) (vVC w) (bit (vMode w) 2) (cVal (vFmt w) x)).1
  else convLane (vFmt w) (vVC w) (cvtMode w) (bit (vMode w) 2) x

/-- The first lane of half h of the lanes of a register. -/
def cvtHalf (w k : Nat) : Nat := b2n (bit (vMode w) 0) * (2048 / k)

/-- A conversion that does not narrow reads a half of VA, or all of it (05 R130). -/
theorem vCvt_of_le {w : Nat} (u : VecUnit) (h : cvtFrom w ≤ cvtTo w) :
    vCvt w u = writeLanes w (cvtTo w) u ((List.range (2048 / cvtTo w)).map fun i =>
      (cvtLane w (elemAt (getV u (vVA w)).toNat (cvtFrom w) ((if cvtFrom w = cvtTo w then 0 else cvtHalf w (cvtTo w)) + i)), 0)) :=
  if_pos h

/-- A lane of a narrowing conversion's result: converted in its half where the predicate is 1, and kept in the other (05 R130). -/
def narrowed (w : Nat) (u : VecUnit) (i : Nat) : Nat :=
  if cvtHalf w (cvtFrom w) ≤ i ∧ i < cvtHalf w (cvtFrom w) + 2048 / cvtFrom w then
    if lanePred (getM u (vMask w)) (cvtTo w) i then cvtLane w (elemAt (getV u (vVA w)).toNat (cvtFrom w) (i - cvtHalf w (cvtFrom w)))
    else if vMz w then 0 else elemAt (getV u (vVD w)).toNat (cvtTo w) i
  else elemAt (getV u (vVD w)).toNat (cvtTo w) i

theorem vCvt_of_lt {w : Nat} (u : VecUnit) (h : cvtTo w < cvtFrom w) :
    vCvt w u = (setV u (vVD w) (ofLanes (cvtTo w) ((List.range (2048 / cvtTo w)).map (narrowed w u))), 0) :=
  if_neg (Nat.not_le.mpr h)

/-- VCVT completes; what it writes depends on whether it narrows (05 R130). -/
theorem vecRun_cvt {s : State} {c w op : Nat} (hw : vecAt s c op = some w) :
    ∃ t, vecRun op vCvt c s = .next t ∧
      (cvtFrom w ≤ cvtTo w → LanesDone s t c w (cvtTo w) fun n =>
        cvtLane w (vLane s c (vVA w) (cvtFrom w) ((if cvtFrom w = cvtTo w then 0 else cvtHalf w (cvtTo w)) + n))) ∧
      (cvtTo w < cvtFrom w → VecFrame s t c (vVD w) ∧ ∀ n, n < 2048 / cvtTo w →
        vLane t c (vVD w) (cvtTo w) n = narrowed w (getEng s c).vec n % 2 ^ cvtTo w) := by
  obtain ⟨t, ht, hb⟩ := vecRun_becomes vCvt hw
  refine ⟨t, ht, fun hle => ?_, fun hlt => ?_⟩
  · rw [vCvt_of_le _ hle] at hb
    exact hb.lanesDone fun n hn => by rw [nth_map_range _ _ hn]; rfl
  · rw [vCvt_of_lt _ hlt] at hb
    exact ⟨hb.vecFrame, fun n hn => hb.vLane_ofLanes hn⟩

/-- A lane of a narrowing conversion, cut to its width, as the statements write it. -/
theorem narrowed_mod (s : State) (c w n : Nat) : narrowed w (getEng s c).vec n % 2 ^ cvtTo w =
    if cvtHalf w (cvtFrom w) ≤ n ∧ n < cvtHalf w (cvtFrom w) + 2048 / cvtFrom w then
      if vWritten s c w (cvtTo w) n then cvtLane w (vLane s c (vVA w) (cvtFrom w) (n - cvtHalf w (cvtFrom w))) % 2 ^ cvtTo w
      else if vMz w then 0 else vLane s c (vVD w) (cvtTo w) n
    else vLane s c (vVD w) (cvtTo w) n := by
  simp only [narrowed, vWritten, vLane, apply_ite (· % 2 ^ cvtTo w), elemAt_mod, Nat.zero_mod]
  rfl

/-- Settles O13: VSEL writes every lane, VCVT by whether it narrows. -/
theorem vectorSelectAndConvert : Obligations.VectorSelectAndConvert := by
  unfold Obligations.VectorSelectAndConvert
  intro s c w
  refine ⟨fun hw => vecRun_sel hw, fun hw => ?_⟩
  obtain ⟨t, ht, hwide, hnarrow⟩ := vecRun_cvt hw
  refine ⟨t, ht, hwide, fun hlt => ?_⟩
  obtain ⟨hframe, hlanes⟩ := hnarrow hlt
  exact ⟨hframe, fun n hn => (hlanes n hn).trans (narrowed_mod s c w n)⟩

end Sys2Proof.Machine
end

section
/-! Rows that write masks and pointers or move the engine's place, and rows between a register and memory (05 R119, R125, R126, R131-R135). -/

namespace Sys2Proof.Machine

/-! ### Masks (05 R119, R126) -/

/-- A row that writes one mask register completes with it written, unless it is M0. -/
theorem vecRun_setM {s : State} {c w op d : Nat} {f : Nat → VecUnit → VecUnit × Nat} {x : BitVec 256} (hw : vecAt s c op = some w)
    (hf : (f w (getEng s c).vec).1 = setM (getEng s c).vec d x) :
    ∃ t, vecRun op f c s = .next t ∧ MaskFrame s t c d ∧ (d ≠ 0 → getM (getEng t c).vec d = x) := by
  obtain ⟨t, ht, hb⟩ := vecRun_becomes f hw
  rw [hf] at hb
  exact ⟨t, ht, hb.maskFrame, fun hd => by rw [hb.vec, getM_vNext, getM_setM_self _ _ hd]⟩

/-- Settles O14: every row writes one mask register; the bits of VCMP's are those of the function that builds it. -/
theorem vectorMasksAreWritten : Obligations.VectorMasksAreWritten := by
  unfold Obligations.VectorMasksAreWritten
  intro s c w
  refine ⟨fun hw => ?compare, fun i op f hrow hw => ?whole, getM_zero⟩
  case compare =>
    obtain ⟨t, ht, hframe, hmask⟩ := vecRun_setM (f := vCmp) hw rfl
    exact ⟨t, ht, hframe, fun hd b hb => by rw [hmask hd, getLsbD_maskOfBits _ hb]; rfl⟩
  case whole =>
    have hexec : exec i s = vecRun op (vMaskOp f) c s := by
      simp only [List.mem_cons, Prod.mk.injEq, List.not_mem_nil, or_false] at hrow
      rcases hrow with ⟨rfl, rfl, rfl⟩ | ⟨rfl, rfl, rfl⟩ | ⟨rfl, rfl, rfl⟩ <;> rfl
    rw [hexec]
    exact vecRun_setM hw rfl

/-! ### The engine's place and pointers (05 R125, R126, R135) -/

/-- A row that counts nothing is the change of the engine alone. -/
theorem vecRun_of_uncounted {s : State} {c w op : Nat} (f : Nat → VecUnit → VecUnit) (hw : vecAt s c op = some w) :
    vecRun op (fun w u => (f w u, 0)) c s = .next (updVec s c fun u => vNext (f w u)) := by
  simp only [vecRun, hw, if_true]
  rfl

/-- A row that writes one pointer completes with it written, unless it is P0. -/
theorem vecRun_setP {s : State} {c w op : Nat} (x : Nat → VecUnit → BitVec 32) (hw : vecAt s c op = some w) :
    ∃ t, vecRun op (fun w u => (setP u (vPn w) (x w u), 0)) c s = .next t ∧ OnlyEngines s t c ∧ (getEng t c).mat = (getEng s c).mat ∧ (getEng t c).sig = (getEng s c).sig ∧
      (getEng t c).vec = { vNext (getEng s c).vec with p := (getEng t c).vec.p } ∧
      (vPn w ≠ 0 → getP (getEng t c).vec (vPn w) = x w (getEng s c).vec) ∧ ∀ r, r ≠ vPn w → getP (getEng t c).vec r = getP (getEng s c).vec r := by
  obtain ⟨t, ht, hb⟩ := vecRun_becomes (fun w u => (setP u (vPn w) (x w u), 0)) hw
  refine ⟨t, ht, hb.only, by rw [hb.eng], by rw [hb.eng], hb.pointerFrame, fun hd => ?_, fun r hr => ?_⟩
  · rw [hb.vec, getP_vNext, getP_setP_self _ _ hd]
  · rw [hb.vec, getP_vNext, getP_setP_other _ _ hr]

/-- Settles O16: no control row counts an event; PSET and PADD write one pointer, and LOOP_END acts where its loop is over. -/
theorem vectorControlMovesTheEngine : Obligations.VectorControlMovesTheEngine := by
  unfold Obligations.VectorControlMovesTheEngine
  intro s c w
  refine ⟨fun hw => vecRun_of_uncounted (fun _ u => u) hw,
    fun hw => vecRun_of_uncounted (fun w u => { u with loops := ⟨u.pc + 1, u.pc + vBody w, vCount w - 1⟩ :: u.loops }) hw,
    fun hw => vecRun_setP (fun w _ => BitVec.ofNat 32 (vImm32 w)) hw,
    fun hw => vecRun_setP (fun w u => getP u (vPn w) + BitVec.ofNat 32 (vImm32 w)) hw, getP_zero, fun hrun hact hover => ?_⟩
  exact congrArg Host.Outcome.next (if_pos ⟨hrun, hact, hover⟩)

/-! ### Memory (05 R125, R131-R133) -/

/-- A byte that none of the bytes written falls on reads as before. -/
theorem Mem.read_viewWrite_other (m : Mem) (i : Inst) (b : Nat) (bs : List Byte) {a : Nat}
    (h : ∀ k, k < bs.length → a ≠ i.byteAddr (b + k)) : Mem.read (viewWrite m i b bs) a = Mem.read m a := by
  induction bs generalizing m b with
  | nil => rfl
  | cons x bs ih =>
    have hrest : ∀ k, k < bs.length → a ≠ i.byteAddr (b + 1 + k) := fun k hk => by
      rw [Nat.add_right_comm]; exact h (k + 1) (Nat.succ_lt_succ hk)
    have hfirst : a ≠ i.byteAddr b := h 0 (Nat.zero_lt_succ _)
    rw [viewWrite, ih _ _ hrest, Mem.read_write_other _ _ hfirst]

/-- Entries set one after another from b on: an entry among them reads as set, and another as before. -/
theorem Tbl.get_foldl_set {α : Type} [DecidableEq α] (d : α) (t : Tbl α) (b n : Nat) (f : Nat → α) (a : Nat) :
    Tbl.get d ((List.range n).foldl (fun t k => Tbl.set d t (b + k) (f k)) t) a =
      if b ≤ a ∧ a < b + n then f (a - b) else Tbl.get d t a := by
  induction n with
  | zero => simp
  | succ n ih =>
    rw [List.range_succ, List.foldl_append, List.foldl_cons, List.foldl_nil]
    by_cases ha : a = b + n
    · subst ha
      simp
    · rw [Tbl.get_set_other _ _ _ ha, ih]
      have hiff : (b ≤ a ∧ a < b + (n + 1)) ↔ (b ≤ a ∧ a < b + n) := by omega
      simp only [hiff]

/-- Lanes written before the engine goes on. -/
theorem VecBecomes.lanesDone_next {s t : State} {c w k : Nat} {rs : List (Nat × Nat)} {g : Nat → Nat}
    (h : VecBecomes s t c (writeLanes w k (getEng s c).vec rs).1)
    (hg : ∀ l, l < 2048 / k → (nth (0, 0) rs l).1 % 2 ^ k = g l % 2 ^ k) : LanesDone s (updVec t c vNext) c w k g := by
  refine VecBecomes.lanesDone ?_ hg
  have hnext := updVec_becomes t c vNext
  rw [h.vec] at hnext
  exact h.trans hnext

/-- The elements that a load moves fill the register (05 R131). -/
theorem lanes_of_vElems (fmt rfmt : Nat) : 2048 / (2048 / vElems fmt rfmt) = vElems fmt rfmt := by
  unfold vElems
  split
  · rfl
  · unfold laneBits
    split <;> rfl

/-- VLD of a format without block scales (05 R131). -/
theorem vLoad_of_plain {w : Nat} (j : Job) (i : Inst) (m : Mem) (u : VecUnit) (h : isMx (vFmt w) = false) :
    vLoad j i m w u = writeLanes w (2048 / vElems (vFmt w) (vRfmt w)) u ((List.range (vElems (vFmt w) (vRfmt w))).map fun k =>
      (loadLane (vFmt w) (vRfmt w) (elemAt (viewLe m i (vGranule w u * 64) (elemBits (vFmt w) * vElems (vFmt w) (vRfmt w) / 8))
        (elemBits (vFmt w)) k), 0)) :=
  if_neg (by rw [h]; decide)

/-- VLD of a microscaling format (05 R131). -/
theorem vLoad_of_mx {w : Nat} (j : Job) (i : Inst) (m : Mem) (u : VecUnit) (h : isMx (vFmt w) = true) :
    vLoad j i m w u = writeLanes w 32 u
      ((mxLanes m i (vGranule w u) (vFmt w) (elemsAt j i (vGranule w u)) (vExt w)).map fun x => (x, 0)) :=
  if_pos h

/-- VLD completes with the lanes that its load gives. -/
theorem exec_vld_lanesDone {s : State} {c w h k : Nat} {j : Job} {i : Inst} {rs : List (Nat × Nat)} {g : Nat → Nat}
    (hw : vecAt s c 0x60 = some w) (hr : running s c = some (h, j, i))
    (hload : vLoad j i (getCore s c).scratch w (getEng s c).vec = writeLanes w k (getEng s c).vec rs)
    (hg : ∀ l, l < 2048 / k → (nth (0, 0) rs l).1 % 2 ^ k = g l % 2 ^ k) :
    ∃ t, exec (.vld c) s = .next t ∧ LanesDone s t c w k g := by
  change ∃ t, execVld c s = .next t ∧ _
  have hvec := updVec_becomes s c fun u => (vLoad j i (getCore s c).scratch w u).1
  rw [hload] at hvec
  exact ⟨_, vecMem_of_at _ hw hr, hvec.lanesDone_next hg⟩

/-- The state after VST: the packed lanes stand in the scratchpad, and the engine has gone on (05 R131). -/
def vecStored (s : State) (c w : Nat) (i : Inst) : State :=
  updVec (setScratch s c (viewWrite (getCore s c).scratch i (vGranule w (getEng s c).vec * 64) (vStoreBytes w (getEng s c).vec))) c vNext

theorem exec_vst_of_at {s : State} {c w h : Nat} {j : Job} {i : Inst} (hw : vecAt s c 0x61 = some w) (hr : running s c = some (h, j, i)) :
    exec (.vst c) s = .next (vecStored s c w i) := by
  change execVst c s = _
  exact vecMem_of_at _ hw hr

theorem getCore_vecStored (s : State) (c w : Nat) (i : Inst) : getCore (vecStored s c w i) c =
    { getCore s c with
      scratch := viewWrite (getCore s c).scratch i (vGranule w (getEng s c).vec * 64) (vStoreBytes w (getEng s c).vec) } :=
  (getCore_updEng ..).trans (getCore_updCore_self ..)

theorem getCore_vecStored_other (s : State) {c d : Nat} (w : Nat) (i : Inst) (h : d ≠ c) : getCore (vecStored s c w i) d = getCore s d :=
  (getCore_updEng ..).trans (getCore_updCore_other _ _ h)

theorem vec_vecStored (s : State) (c w : Nat) (i : Inst) : (getEng (vecStored s c w i) c).vec = vNext (getEng s c).vec :=
  (updVec_becomes _ c vNext).vec

/-- Lanes of 32 bits are words as they stand. -/
theorem toNat_elemAt_32 (v k : Nat) : (BitVec.ofNat 32 (elemAt v 32 k)).toNat = elemAt v 32 k := by
  rw [BitVec.toNat_ofNat, elemAt_mod]

/-- The state after VSTACC: two accumulator rows hold the lanes, and the engine has gone on (05 R132). -/
def vecStoredAcc (s : State) (c w : Nat) : State :=
  updEng s c fun e => { e with mat := { e.mat with acc := vStoreAcc e.mat.acc w e.vec }, vec := vNext e.vec }

theorem exec_vstacc_of_at {s : State} {c w : Nat} (hw : vecAt s c 0x63 = some w) : exec (.vstacc c) s = .next (vecStoredAcc s c w) := by
  change execVstacc c s = _
  simp only [execVstacc, hw]
  rfl

theorem getEng_vecStoredAcc (s : State) (c w : Nat) : getEng (vecStoredAcc s c w) c =
    { getEng s c with
      mat := { (getEng s c).mat with acc := vStoreAcc (getEng s c).mat.acc w (getEng s c).vec }, vec := vNext (getEng s c).vec } :=
  getEng_updEng_self ..

/-- An accumulator word after VSTACC: the lane at its place among the two rows, or as before. -/
theorem get_vStoreAcc (acc : Tbl (BitVec 32)) (w : Nat) (u : VecUnit) (a : Nat) : Tbl.get (0 : BitVec 32) (vStoreAcc acc w u) a =
    if vGranule w u / 2 * 32 ≤ a ∧ a < vGranule w u / 2 * 32 + 64 then
      BitVec.ofNat 32 (elemAt (getV u (vVD w)).toNat 32 (a - vGranule w u / 2 * 32))
    else Tbl.get (0 : BitVec 32) acc a :=
  Tbl.get_foldl_set ..

/-- VGATHER completes with its lanes written; the indices outside the window are counted (05 R133). -/
theorem exec_vgather_lanesDone {s : State} {c w h : Nat} {j : Job} {i : Inst} {g : Nat → Nat}
    (hw : vecAt s c 0x64 = some w) (hr : running s c = some (h, j, i))
    (hg : ∀ l, l < 2048 / elemBits (vFmt w) → (nth (0, 0) (vGather (getCore s c).scratch i w (getEng s c).vec) l).1 = g l) :
    ∃ t, exec (.vgather c) s = .next t ∧ LanesDone s t c w (elemBits (vFmt w)) g := by
  change ∃ t, execVgather c s = .next t ∧ _
  have hvec := updVec_becomes s c fun u => (writeLanes w (elemBits (vFmt w)) u (vGather (getCore s c).scratch i w (getEng s c).vec)).1
  exact ⟨_, vecMem_of_at _ hw hr, (hvec.countRun _).lanesDone_next fun l hl => by rw [hg l hl]⟩

/-- Settles O15: loads and gathers write lanes, VST writes bytes and VSTACC words, each where its list says. -/
theorem vectorMemoryMovesRegisters : Obligations.VectorMemoryMovesRegisters := by
  unfold Obligations.VectorMemoryMovesRegisters
  intro s c w h j i hr
  refine ⟨fun hw hmx => ?load, fun hw hmx => ?loadMx, fun hw => ?store, fun hw => ?loadAcc, fun hw => ?storeAcc, fun hw => ?gather⟩
  case load =>
    refine exec_vld_lanesDone hw hr (vLoad_of_plain j i _ _ hmx) fun l hl => ?_
    rw [lanes_of_vElems] at hl
    rw [nth_map_range _ _ hl]
  case loadMx =>
    exact exec_vld_lanesDone hw hr (vLoad_of_mx j i _ _ hmx) fun l _ => by rw [nth_map (fun x => (x, 0)) 0]
  case store =>
    have hcore := getCore_vecStored s c w i
    refine ⟨_, exec_vst_of_at hw hr, vec_vecStored s c w i, by rw [hcore], fun a ha => ?_,
      fun d hd => getCore_vecStored_other s w i hd, rfl, rfl⟩
    rw [hcore]
    exact Mem.read_viewWrite_other _ _ _ _ ha
  case loadAcc =>
    exact vecRun_lanesDone (f := fun w u => vLoadAcc (getEng s c).mat.acc w u) hw rfl fun l hl => by rw [nth_map_range _ _ hl]; rfl
  case storeAcc =>
    have heng := getEng_vecStoredAcc s c w
    refine ⟨_, exec_vstacc_of_at hw, by rw [heng], updEng_onlyEngines .., fun k hk => ?_, fun a ha => ?_⟩
    · rw [heng, get_vStoreAcc, if_pos (by omega), Nat.add_sub_cancel_left, toNat_elemAt_32]
      rfl
    · rw [heng, get_vStoreAcc, if_neg]
      rintro ⟨hlo, hhi⟩
      exact ha (a - vGranule w (getEng s c).vec / 2 * 32) (by omega) (by omega)
  case gather =>
    refine exec_vgather_lanesDone hw hr fun l hl => ?_
    rw [vGather, nth_map_range _ _ hl]
    dsimp only [vLane]
    split <;> rfl

end Sys2Proof.Machine
end

section
/-! The signal unit's condition word, registers and moves, and where the unit goes on: what each write gives and what it keeps
(06 R140, R149, R151-R154, R158). -/

namespace Sys2Proof.Machine

/-! ### Fields of a word, and the condition and mode word (06 R151) -/

theorem bits_eq_div_mod (v hi lo : Nat) : bits v hi lo = v / 2 ^ lo % 2 ^ (hi + 1 - lo) := by rw [bits, Nat.shiftRight_eq_div_pow]

theorem b2n_lt_two (b : Bool) : b2n b < 2 := by cases b <;> decide

theorem decide_b2n_eq_one (b : Bool) : decide (b2n b = 1) = b := by cases b <;> rfl

theorem getLsbD_eq_decide {n : Nat} (x : BitVec n) (i : Nat) : x.getLsbD i = decide (x.toNat / 2 ^ i % 2 = 1) :=
  Nat.testBit_eq_decide_div_mod_eq

section
variable (s z o g k : Bool) (r : Nat) (sat : Bool)

/-- The fields of the word do not overlap, and fill no bit past 11. -/
theorem toNat_cswMake : (cswMake s z o g k r sat).toNat =
    b2n s + 2 * b2n z + 4 * b2n o + 8 * b2n g + 256 * b2n k + 512 * (r % 4) + 2048 * b2n sat := by
  have hs := b2n_lt_two s
  have hz := b2n_lt_two z
  have ho := b2n_lt_two o
  have hg := b2n_lt_two g
  have hk := b2n_lt_two k
  have hsat := b2n_lt_two sat
  rw [cswMake, BitVec.toNat_ofNat, Nat.mod_eq_of_lt]
  omega

/-- A flag of the word is the field of one bit at its place. -/
theorem getLsbD_cswMake {i : Nat} {b : Bool}
    (h : (b2n s + 2 * b2n z + 4 * b2n o + 8 * b2n g + 256 * b2n k + 512 * (r % 4) + 2048 * b2n sat) / 2 ^ i % 2 = b2n b) :
    (cswMake s z o g k r sat).getLsbD i = b := by
  rw [getLsbD_eq_decide, toNat_cswMake, h, decide_b2n_eq_one]

@[simp] theorem cswS_cswMake : cswS (cswMake s z o g k r sat) = s :=
  getLsbD_cswMake _ _ _ _ _ _ _ (by have := b2n_lt_two s; omega)

@[simp] theorem cswZ_cswMake : cswZ (cswMake s z o g k r sat) = z :=
  getLsbD_cswMake _ _ _ _ _ _ _ (by have := b2n_lt_two s; have := b2n_lt_two z; omega)

@[simp] theorem cswO_cswMake : cswO (cswMake s z o g k r sat) = o :=
  getLsbD_cswMake _ _ _ _ _ _ _ (by have := b2n_lt_two s; have := b2n_lt_two z; have := b2n_lt_two o; omega)

@[simp] theorem cswG_cswMake : cswG (cswMake s z o g k r sat) = g :=
  getLsbD_cswMake _ _ _ _ _ _ _ (by have := b2n_lt_two s; have := b2n_lt_two z; have := b2n_lt_two o; have := b2n_lt_two g; omega)

@[simp] theorem cswK_cswMake : cswK (cswMake s z o g k r sat) = k :=
  getLsbD_cswMake _ _ _ _ _ _ _ (by
    have := b2n_lt_two s; have := b2n_lt_two z; have := b2n_lt_two o; have := b2n_lt_two g; have := b2n_lt_two k; omega)

@[simp] theorem cswSat_cswMake : cswSat (cswMake s z o g k r sat) = sat :=
  getLsbD_cswMake _ _ _ _ _ _ _ (by
    have := b2n_lt_two s; have := b2n_lt_two z; have := b2n_lt_two o; have := b2n_lt_two g; have := b2n_lt_two k
    have := b2n_lt_two sat; omega)

@[simp] theorem cswRmode_cswMake : cswRmode (cswMake s z o g k r sat) = r % 4 := by
  have := b2n_lt_two s; have := b2n_lt_two z; have := b2n_lt_two o; have := b2n_lt_two g; have := b2n_lt_two k
  rw [cswRmode, toNat_cswMake, bits_eq_div_mod]
  omega

@[simp] theorem flagBits_cswMake : flagBits (cswMake s z o g k r sat) = (s, z, o, g) := by simp [flagBits]

end

@[simp] theorem flagBits_cswFlags (c : BitVec 16) (s z o g : Bool) : flagBits (cswFlags c s z o g) = (s, z, o, g) := flagBits_cswMake ..
@[simp] theorem flagBits_cswClip (c : BitVec 16) : flagBits (cswClip c) = flagBits c := flagBits_cswMake ..
@[simp] theorem cswK_cswClip (c : BitVec 16) : cswK (cswClip c) = true := cswK_cswMake ..

/-! ### Where the unit goes on (06 R153, R154) -/

/-- What the unit's way through its program depends on, beside the data that its instructions work on. -/
def SigUnit.course (u : SigUnit) : Nat × Option (Nat × Nat) × List SigFrame × Nat × Bool × Bool × BitVec 48 × Tbl (BitVec 48) :=
  (u.pc, u.branch, u.stack, u.repeat_, u.repeating, u.running, u.latch, u.prog)

theorem sigMoves_iff {s t : State} {c : Nat} : SigMoves s t c ↔ (getEng t c).sig.course = (sNext (getEng s c).sig).course := by
  simp only [SigMoves, SigUnit.course, Prod.mk.injEq]

/-- Going on changes the place alone. -/
theorem sNext_eq (u : SigUnit) : sNext u =
    { u with
      pc := (sNext u).pc, branch := (sNext u).branch, stack := (sNext u).stack, repeat_ := (sNext u).repeat_
      mustMove := (sNext u).mustMove, guarded := (sNext u).guarded } := by
  unfold sNext doBack
  dsimp only
  split
  · rfl
  · split
    · rfl
    · rfl
    · rfl
    · split
      · split <;> rfl
      · rfl

/-- Two units on one course go on alike, whatever data they hold. -/
theorem course_sNext_congr {u v : SigUnit} (h : v.course = u.course) : (sNext v).course = (sNext u).course := by
  obtain ⟨hpc, hbranch, hstack, hcount, hrepeating, hrunning, hlatch, hprog⟩ :
      v.pc = u.pc ∧ v.branch = u.branch ∧ v.stack = u.stack ∧ v.repeat_ = u.repeat_ ∧ v.repeating = u.repeating ∧ v.running = u.running ∧
        v.latch = u.latch ∧ v.prog = u.prog := by simpa only [SigUnit.course, Prod.mk.injEq] using h
  unfold sNext doBack
  simp only [hpc, hbranch, hstack, hcount, hrepeating]
  split
  · simp only [SigUnit.course, *]
  · split
    · simp only [SigUnit.course, *]
    · simp only [SigUnit.course, *]
    · simp only [SigUnit.course, *]
    · split
      · split <;> simp only [SigUnit.course, *]
      · simp only [SigUnit.course, *]

section
variable (u : SigUnit)

@[simp] theorem sNext_a : (sNext u).a = u.a := (congrArg SigUnit.a (sNext_eq u) :)
@[simp] theorem sNext_d : (sNext u).d = u.d := (congrArg SigUnit.d (sNext_eq u) :)
@[simp] theorem sNext_ptr : (sNext u).ptr = u.ptr := (congrArg SigUnit.ptr (sNext_eq u) :)
@[simp] theorem sNext_bas : (sNext u).bas = u.bas := (congrArg SigUnit.bas (sNext_eq u) :)
@[simp] theorem sNext_len : (sNext u).len = u.len := (congrArg SigUnit.len (sNext_eq u) :)
@[simp] theorem sNext_modif : (sNext u).modif = u.modif := (congrArg SigUnit.modif (sNext_eq u) :)
@[simp] theorem sNext_csw : (sNext u).csw = u.csw := (congrArg SigUnit.csw (sNext_eq u) :)
@[simp] theorem sNext_x : (sNext u).x = u.x := (congrArg SigUnit.x (sNext_eq u) :)
@[simp] theorem sNext_y : (sNext u).y = u.y := (congrArg SigUnit.y (sNext_eq u) :)

@[simp] theorem getA_sNext (r : Nat) : getA (sNext u) r = getA u r := by rw [getA, sNext_a, getA]
@[simp] theorem getD_sNext (r : Nat) : getD (sNext u) r = getD u r := by rw [getD, sNext_d, getD]

/-! ### Registers after a write (06 R141, R142) -/

@[simp] theorem getA_setA_self (d : Nat) (x : BitVec 56) : getA (setA u d x) d = x := Tbl.get_set_self ..
@[simp] theorem getA_setA_other {d r : Nat} (x : BitVec 56) (h : r ≠ d) : getA (setA u d x) r = getA u r := Tbl.get_set_other _ _ _ h
@[simp] theorem getD_setD_self (d : Nat) (x : BitVec 24) : getD (setD u d x) d = x := Tbl.get_set_self ..

@[simp] theorem csw_setA (d : Nat) (x : BitVec 56) : (setA u d x).csw = u.csw := rfl
@[simp] theorem csw_setD (d : Nat) (x : BitVec 24) : (setD u d x).csw = u.csw := rfl

@[simp] theorem course_setA (d : Nat) (x : BitVec 56) : (setA u d x).course = u.course := rfl
@[simp] theorem course_setD (d : Nat) (x : BitVec 24) : (setD u d x).course = u.course := rfl
@[simp] theorem course_setPtr (i p : Nat) : (setPtr u i p).course = u.course := rfl

/-! ### Moves (06 R152, R158) -/

/-- The pointer update of a move changes pointers alone. -/
theorem movePtr_eq (mv : Move) : movePtr mv u = { u with ptr := (movePtr mv u).ptr } := by unfold movePtr; split <;> rfl

@[simp] theorem movePtr_a (mv : Move) : (movePtr mv u).a = u.a := (congrArg SigUnit.a (movePtr_eq u mv) :)
@[simp] theorem movePtr_d (mv : Move) : (movePtr mv u).d = u.d := (congrArg SigUnit.d (movePtr_eq u mv) :)
@[simp] theorem movePtr_csw (mv : Move) : (movePtr mv u).csw = u.csw := (congrArg SigUnit.csw (movePtr_eq u mv) :)
@[simp] theorem movePtr_x (mv : Move) : (movePtr mv u).x = u.x := (congrArg SigUnit.x (movePtr_eq u mv) :)
@[simp] theorem movePtr_y (mv : Move) : (movePtr mv u).y = u.y := (congrArg SigUnit.y (movePtr_eq u mv) :)
@[simp] theorem course_movePtr (mv : Move) : (movePtr mv u).course = u.course := by rw [movePtr_eq]; rfl
@[simp] theorem getA_movePtr (mv : Move) (r : Nat) : getA (movePtr mv u) r = getA u r := by rw [getA, movePtr_a, getA]

end

/-- The unit after a load of register r, D0-D3 or A0-A3 (06 R157). -/
def loadReg (u : SigUnit) (r : Nat) (w : BitVec 24) : SigUnit := if r < 4 then setD u r w else setA u (r - 4) (accOfWord w)

/-- The unit after a store to Y or X memory, the sticky flag set where the limiter acted (06 R149, R158). -/
def storeWord (u : SigUnit) (isY : Bool) (a : Nat) (w : BitVec 24) (k : Bool) : SigUnit :=
  let u := if isY then setY u a w else setX u a w
  if k then { u with csw := cswClip u.csw } else u

/-- What the write of a move can do: nothing, the load of its register, or its store. -/
theorem moveWrite_cases (mv : Move) (isY : Bool) (un : SigUnit × Nat) :
    (moveWrite mv isY un).1 = un.1 ∨
      (∃ r w, mv.en = true ∧ mv.load = some (r, w) ∧ (moveWrite mv isY un).1 = loadReg un.1 r w) ∨
      ∃ a w k, (moveWrite mv isY un).1 = storeWord un.1 isY a w k := by
  obtain ⟨u, n⟩ := un
  by_cases hen : mv.en = true
  · rw [moveWrite, if_pos hen]
    split
    · exact .inr (.inl ⟨_, _, hen, ‹_›, rfl⟩)
    · exact .inr (.inr ⟨_, _, _, rfl⟩)
    · exact .inl rfl
  · rw [moveWrite, if_neg hen]
    exact .inl rfl

@[simp] theorem course_loadReg (u : SigUnit) (r : Nat) (w : BitVec 24) : (loadReg u r w).course = u.course := by
  unfold loadReg; split <;> rfl

@[simp] theorem csw_loadReg (u : SigUnit) (r : Nat) (w : BitVec 24) : (loadReg u r w).csw = u.csw := by unfold loadReg; split <;> rfl

/-- A load leaves every accumulator that it does not name. -/
theorem getA_loadReg_other (u : SigUnit) {q r : Nat} (w : BitVec 24) (h : r ≠ q + 4) : getA (loadReg u r w) q = getA u q := by
  unfold loadReg
  split
  · rfl
  · exact getA_setA_other _ _ (by omega)

@[simp] theorem course_storeWord (u : SigUnit) (isY : Bool) (a : Nat) (w : BitVec 24) (k : Bool) :
    (storeWord u isY a w k).course = u.course := by
  cases isY <;> cases k <;> rfl

@[simp] theorem getA_storeWord (u : SigUnit) (isY : Bool) (a : Nat) (w : BitVec 24) (k : Bool) (q : Nat) :
    getA (storeWord u isY a w k) q = getA u q := by
  cases isY <;> cases k <;> rfl

/-- A store sets no flag but the sticky one. -/
@[simp] theorem flagBits_storeWord (u : SigUnit) (isY : Bool) (a : Nat) (w : BitVec 24) (k : Bool) :
    flagBits (storeWord u isY a w k).csw = flagBits u.csw := by
  cases k with
  | false => cases isY <;> rfl
  | true => cases isY <;> exact flagBits_cswClip _

section
variable (mv : Move) (isY : Bool) (un : SigUnit × Nat)

@[simp] theorem course_moveWrite : (moveWrite mv isY un).1.course = un.1.course := by
  obtain h | ⟨r, w, -, -, h⟩ | ⟨a, w, k, h⟩ := moveWrite_cases mv isY un <;> simp [h]

@[simp] theorem flagBits_moveWrite : flagBits (moveWrite mv isY un).1.csw = flagBits un.1.csw := by
  obtain h | ⟨r, w, -, -, h⟩ | ⟨a, w, k, h⟩ := moveWrite_cases mv isY un <;> simp [h]

theorem getA_moveWrite_of_not_loadsA {q : Nat} (hq : mv.loadsA q = false) : getA (moveWrite mv isY un).1 q = getA un.1 q := by
  obtain h | ⟨r, w, hen, hload, h⟩ | ⟨a, w, k, h⟩ := moveWrite_cases mv isY un
  · rw [h]
  · have hr : r ≠ q + 4 := by simpa [Move.loadsA, hen, hload] using hq
    rw [h, getA_loadReg_other _ _ hr]
  · rw [h, getA_storeWord]

end

end Sys2Proof.Machine
end

section
/-! What a row of the signal unit leaves alone, and what an ALU form makes of the unit (06 R148-R152, R158, R159). -/

namespace Sys2Proof.Machine

/-! ### The signal unit becomes another -/

/-- The signal unit of core c has become u, and nothing outside it has changed but the counts of invocations. -/
structure SigBecomes (s t : State) (c : Nat) (u : SigUnit) : Prop where
  frame : SigFrame_ s t c
  sig : (getEng t c).sig = u

theorem updSig_becomes (s : State) (c : Nat) (f : SigUnit → SigUnit) : SigBecomes s (updSig s c f) c (f (getEng s c).sig) := by
  have heng : getEng (updSig s c f) c = { getEng s c with sig := f (getEng s c).sig } := getEng_updEng_self ..
  exact ⟨⟨updEng_onlyEngines .., by rw [heng], by rw [heng]⟩, by rw [heng]⟩

theorem SigBecomes.trans {s t r : State} {c : Nat} {u v : SigUnit} (a : SigBecomes s t c u) (b : SigBecomes t r c v) : SigBecomes s r c v := by
  obtain ⟨honly, hmat, hvec⟩ := a.frame
  obtain ⟨honly', hmat', hvec'⟩ := b.frame
  exact ⟨⟨honly.trans honly', hmat'.trans hmat, hvec'.trans hvec⟩, b.sig⟩

theorem SigBecomes.countRun {s t : State} {c : Nat} {u : SigUnit} (h : SigBecomes s t c u) (f : Invocation → Invocation) :
    SigBecomes s (countRun t c f) c u := by
  obtain ⟨j, hj⟩ := countRun_eq t c f
  rw [hj]
  exact h.trans ⟨⟨⟨rfl, fun _ _ => rfl⟩, rfl, rfl⟩, h.sig⟩

/-- The unit goes on from one that has kept its course. -/
theorem SigBecomes.sigMoves {s t : State} {c : Nat} {v : SigUnit} (h : SigBecomes s t c (sNext v)) (hv : v.course = (getEng s c).sig.course) :
    SigMoves s t c := by
  rw [sigMoves_iff, h.sig]
  exact course_sNext_congr hv

/-! ### ALU forms (06 R152, R158) -/

/-- The unit v after both moves that the word w names, as worked out on the unit u at issue; and the count of limiter actions. -/
def sigMoved (w : Nat) (u v : SigUnit) : SigUnit × Nat :=
  let mx := moveOf u false (sXm w)
  let my := moveOf u true (sYm w)
  moveWrite my true (moveWrite mx false (movePtr my (movePtr mx v), 0))

@[simp] theorem course_sigMoved (w : Nat) (u v : SigUnit) : (sigMoved w u v).1.course = v.course := by simp [sigMoved]

@[simp] theorem flagBits_sigMoved (w : Nat) (u v : SigUnit) : flagBits (sigMoved w u v).1.csw = flagBits v.csw := by simp [sigMoved]

theorem getA_sigMoved_of_not_loadsA {w r : Nat} {u : SigUnit} (v : SigUnit) (hx : (moveOf u false (sXm w)).loadsA r = false)
    (hy : (moveOf u true (sYm w)).loadsA r = false) : getA (sigMoved w u v).1 r = getA v r := by
  rw [sigMoved, getA_moveWrite_of_not_loadsA _ _ _ hy, getA_moveWrite_of_not_loadsA _ _ _ hx, getA_movePtr, getA_movePtr]

/-- The unit with the flags of an ALU result, where the instruction sets them. -/
def flagged (w : Nat) (u : SigUnit) (out : AluOut) : SigUnit :=
  if sFs w || out.always then { u with csw := flagsOf u.csw out } else u

@[simp] theorem course_flagged (w : Nat) (u : SigUnit) (out : AluOut) : (flagged w u out).course = u.course := by
  unfold flagged; split <;> rfl

@[simp] theorem flagged_none (w : Nat) (u : SigUnit) : flagged w u .none = u := by unfold flagged; split <;> rfl

theorem flagBits_flagged_acc (w : Nat) (u : SigUnit) (x : BitVec 56) (o : Bool) : flagBits (flagged w u (.acc x o)).csw =
    if sFs w then (x.getLsbD 55, decide (x = 0), o, guardUsed x) else flagBits u.csw := by
  cases hfs : sFs w <;> simp [flagged, hfs, AluOut.always, flagsOf]

/-- A compare sets flags whether the instruction asks for them or not. -/
theorem flagBits_flagged_flags (w : Nat) (u : SigUnit) (x : BitVec 56) (o : Bool) :
    flagBits (flagged w u (.flags x o)).csw = (x.getLsbD 55, decide (x = 0), o, guardUsed x) := by
  simp [flagged, AluOut.always, flagsOf]

theorem flagBits_flagged_word {w : Nat} (u : SigUnit) (x : BitVec 56) (o : Bool) (hfs : sFs w = true) :
    flagBits (flagged w u (.word x o)).csw = (x.getLsbD 47, decide (bits x.toNat 47 24 = 0), o, guardUsed x) := by
  simp [flagged, hfs, flagsOf]

@[simp] theorem getA_flagged (w : Nat) (u : SigUnit) (out : AluOut) (r : Nat) : getA (flagged w u out) r = getA u r := by
  unfold flagged; split <;> rfl

section
variable {f : Nat → SigUnit → AluOut} {w : Nat} {u : SigUnit}

theorem aluExec_of_false (f : Nat → SigUnit → AluOut) (hc : condHolds u.csw (sCond w) = false) :
    aluExec f w u = (movePtr (moveOf u true (sYm w)) (movePtr (moveOf u false (sXm w)) u), 0) := by
  simp only [aluExec, hc, Bool.false_eq_true, if_false]

variable (hc : condHolds u.csw (sCond w) = true)
include hc

theorem aluExec_of_none (hf : f w u = .none) : (aluExec f w u).1 = (sigMoved w u u).1 := by
  simp only [aluExec, hc, if_true, hf]
  exact congrArg (fun v => (sigMoved w u v).1) (flagged_none w u)

theorem aluExec_of_flags {x : BitVec 56} {o : Bool} (hf : f w u = .flags x o) :
    (aluExec f w u).1 = (sigMoved w u (flagged w u (.flags x o))).1 := by
  simp only [aluExec, hc, if_true, hf]
  rfl

theorem aluExec_of_acc {x : BitVec 56} {o : Bool} (hf : f w u = .acc x o) :
    (aluExec f w u).1 = setA (sigMoved w u (flagged w u (.acc x o))).1 (sDst w) x := by
  simp only [aluExec, hc, if_true, hf]
  rfl

theorem aluExec_of_word {x : BitVec 56} {o : Bool} (hf : f w u = .word x o) :
    (aluExec f w u).1 = setA (sigMoved w u (flagged w u (.word x o))).1 (sDst w) x := by
  simp only [aluExec, hc, if_true, hf]
  rfl

/-- A data result stands in its register where no move loads that register. -/
theorem aluExec_of_data {d : Nat} {x : BitVec 24} {clip : Bool} (hf : f w u = .data d x clip)
    (hx : (moveOf u false (sXm w)).loadsD d = false) (hy : (moveOf u true (sYm w)).loadsD d = false) :
    (aluExec f w u).1 =
      let v := (sigMoved w u (flagged w u (.data d x clip))).1
      setD (if clip then { v with csw := cswClip v.csw } else v) d x := by
  simp only [aluExec, hc, if_true, hf, hx, hy, Bool.false_eq_true, if_false]
  rfl

end

/-- An ALU form leaves the course of the unit, whatever it computes. -/
theorem course_aluExec (f : Nat → SigUnit → AluOut) (w : Nat) (u : SigUnit) : (aluExec f w u).1.course = u.course := by
  by_cases hc : condHolds u.csw (sCond w) = true
  · have hmoved : (sigMoved w u (flagged w u (f w u))).1.course = u.course := by simp
    simp only [aluExec, hc, if_true]
    split
    · exact hmoved
    · exact hmoved
    · exact hmoved
    · exact hmoved
    · split <;> exact hmoved
  · rw [aluExec_of_false f (by simpa using hc), course_movePtr, course_movePtr]

/-! ### Rows of the ALU form -/

section
variable {s : State} {c w op : Nat} (f : Nat → SigUnit → AluOut) (hat : AluAt s c w op)
include hat

/-- A row of the ALU form completes with what its instruction makes of the unit, and the unit goes on. -/
theorem aluRun_becomes :
    ∃ t, aluRun op f c s = .next t ∧ SigBecomes s t c (sNext (aluExec f w (getEng s c).sig).1) ∧ SigMoves s t c := by
  obtain ⟨hw, hform, hop⟩ := hat
  simp only [aluRun, hw, hform, hop, Bool.false_eq_true, ne_eq, not_true_eq_false, or_self, if_false]
  have hgo := updSig_becomes s c fun _ => sNext (aluExec f w (getEng s c).sig).1
  have hcourse := course_aluExec f w (getEng s c).sig
  split
  · exact ⟨_, rfl, hgo, hgo.sigMoves hcourse⟩
  · exact ⟨_, rfl, hgo.countRun _, (hgo.countRun _).sigMoves hcourse⟩

/-- Where the condition is false, the row moves pointers and counts nothing. -/
theorem aluRun_of_false (hc : condHolds (getEng s c).sig.csw (sCond w) = false) :
    aluRun op f c s = .next (updSig s c fun u =>
      sNext (movePtr (moveOf u true (sYm w)) (movePtr (moveOf u false (sXm w)) u))) := by
  obtain ⟨hw, hform, hop⟩ := hat
  simp only [aluRun, hw, hform, hop, aluExec_of_false f hc, Bool.false_eq_true, ne_eq, not_true_eq_false, or_self, if_false, if_true]
  rfl

end

/-- The operation of each opcode of the ALU form (06 R159). -/
def aluOp : Nat → Nat → SigUnit → AluOut
  | 0x01 => aluAcc fun _ x => x
  | 0x02 => aluAcc fun a x => a + x
  | 0x03 => aluAcc fun a x => a - x
  | 0x04 => aluCmp fun a x => a - x
  | 0x05 => aluCmp fun a x => a.natAbs - x.natAbs
  | 0x06 => aluAcc fun a x => max a x
  | 0x07 => aluAcc fun a x => min a x
  | 0x08 => aluAcc fun a _ => a.natAbs
  | 0x09 => aluAcc fun a _ => -a
  | 0x0A => aluAcc fun _ _ => 0
  | 0x0B => fun w u => aluAcc (fun a _ => roundMode (cswRmode u.csw) 24 a) w u
  | 0x0C => fun w u => aluAcc (fun a _ => a * 2 ^ (sSrc2 w + 1)) w u
  | 0x0D => fun w u => aluAcc (fun a _ => a / 2 ^ (sSrc2 w + 1)) w u
  | 0x10 => aluMul (fun _ p => p) false
  | 0x11 => aluMul (fun _ p => p) true
  | 0x12 => aluMul (fun a p => a + p) false
  | 0x13 => aluMul (fun a p => a + p) true
  | 0x14 => aluMul (fun a p => a - p) false
  | 0x15 => aluMul (fun a p => a - p) true
  | 0x16 => aluMul (fun _ p => -p) false
  | 0x18 => aluWord Nat.land
  | 0x19 => aluWord Nat.lor
  | 0x1A => aluWord Nat.xor
  | 0x20 => aluNorm
  | 0x21 => aluSatw
  | 0x22 => aluPget
  | _ => fun _ _ => .none

/-- The instruction i of core c runs the operation of the opcode op. -/
def RunsAlu (c : Nat) (i : Instr) (op : Nat) : Prop := ∀ s, exec i s = aluRun op (aluOp op) c s

theorem runsAlu_of_aluRow (c : Nat) : ∀ p ∈ sigAluRows c, RunsAlu c p.1 p.2 := by
  simp only [sigAluRows, List.forall_mem_cons, List.not_mem_nil, IsEmpty.forall_iff, implies_true, and_true]
  and_intros <;> exact fun _ => rfl

/-- Settles O17: only the pointers of the moves change, and the unit goes on. -/
theorem signalConditionFalseWritesNothing : Obligations.SignalConditionFalseWritesNothing := by
  unfold Obligations.SignalConditionFalseWritesNothing
  intro s c w op i hrow hat hc
  have hgo := updSig_becomes s c fun u => sNext (movePtr (moveOf u true (sYm w)) (movePtr (moveOf u false (sXm w)) u))
  refine ⟨_, (runsAlu_of_aluRow c _ hrow s).trans (aluRun_of_false _ hat hc), hgo.frame, hgo.sigMoves (by simp), ?_⟩
  rw [hgo.sig]
  simp [updSig, updEng]

/-! ### Results in an accumulator (06 R148, R150, R151) -/

/-- Every row that replaces A by an exact value gives that value, wrapped or clamped. -/
theorem aluOp_of_accRow (c w : Nat) (u : SigUnit) : ∀ p ∈ sigAccRows c w u ++ sigMulRows c w u,
    RunsAlu c p.1 p.2.1 ∧ aluOp p.2.1 w u = .acc (accResult u.csw p.2.2).1 (accResult u.csw p.2.2).2 := by
  simp only [sigAccRows, sigMulRows, List.cons_append, List.nil_append, List.forall_mem_cons, List.not_mem_nil, IsEmpty.forall_iff,
    implies_true, and_true]
  refine ⟨?_, ?_, ?_, ?_, ?_, ?_, ?_, ?_, ?_, ?_, ?_, ?_, ?_, ?_, ?_, ?_, ?_, ?_⟩ <;> exact ⟨fun _ => rfl, rfl⟩

/-- Settles O18: the result is written after the moves, so it stands; a move's limiter sets no flag but the sticky one. -/
theorem signalAccumulatorOperations : Obligations.SignalAccumulatorOperations := by
  unfold Obligations.SignalAccumulatorOperations
  intro s c w op i x hrow hat hc
  obtain ⟨hruns, hout⟩ := aluOp_of_accRow c w _ _ hrow
  obtain ⟨t, ht, hgo, hmoves⟩ := aluRun_becomes (aluOp op) hat
  rw [aluExec_of_acc hc hout] at hgo
  refine ⟨t, (hruns s).trans ht, hgo.frame, hmoves, by rw [hgo.sig, getA_sNext, getA_setA_self], ?_⟩
  rw [hgo.sig, sNext_csw, csw_setA, flagBits_sigMoved, flagBits_flagged_acc]

/-! ### Compares (06 R151, R159) -/

theorem aluOp_of_cmpRow (c w : Nat) (u : SigUnit) : ∀ p ∈ sigCmpRows c w u, RunsAlu c p.1 p.2.1 ∧
    aluOp p.2.1 w u = .flags (BitVec.ofInt 56 p.2.2) (decide ((BitVec.ofInt 56 p.2.2).toInt ≠ p.2.2)) := by
  simp only [sigCmpRows, List.forall_mem_cons, List.not_mem_nil, IsEmpty.forall_iff, implies_true, and_true]
  exact ⟨⟨fun _ => rfl, rfl⟩, fun _ => rfl, rfl⟩

/-! ### The word field of an accumulator (06 R141, R159) -/

/-- The accumulator a with y in its word field. -/
def withWord (a : BitVec 56) (y : Nat) : BitVec 56 := BitVec.ofNat 56 (bits a.toNat 55 48 * 2 ^ 48 + y * 2 ^ 24 + a.toNat % 2 ^ 24)

section
variable (a : BitVec 56) {y : Nat} (hy : y < 2 ^ 24)
include hy

theorem toNat_withWord : (withWord a y).toNat = a.toNat / 2 ^ 48 * 2 ^ 48 + y * 2 ^ 24 + a.toNat % 2 ^ 24 := by
  have ha := a.isLt
  rw [withWord, BitVec.toNat_ofNat, bits_eq_div_mod]
  omega

theorem word_withWord : bits (withWord a y).toNat 47 24 = y := by
  rw [toNat_withWord a hy, bits_eq_div_mod]
  omega

theorem guard_withWord : bits (withWord a y).toNat 55 48 = bits a.toNat 55 48 := by
  rw [toNat_withWord a hy, bits_eq_div_mod, bits_eq_div_mod]
  omega

theorem tail_withWord : bits (withWord a y).toNat 23 0 = bits a.toNat 23 0 := by
  rw [toNat_withWord a hy, bits_eq_div_mod, bits_eq_div_mod]
  omega

/-- The sign of the word field. -/
theorem getLsbD_withWord : (withWord a y).getLsbD 47 = bit y 23 := by
  rw [getLsbD_eq_decide, toNat_withWord a hy, bit, Nat.testBit_eq_decide_div_mod_eq]
  congr 2
  omega

end

/-- Without CSW.SAT an accumulator value is its own result. -/
theorem accResult_toInt {c : BitVec 16} (h : cswSat c = false) (x : BitVec 56) : (accResult c x.toInt).1 = x := by
  simp [accResult, h]

/-- AND, OR and XOR give a word field, which fits. -/
theorem aluOp_of_wordRow (c w : Nat) (u : SigUnit) (hsat : cswSat u.csw = false) : ∀ p ∈ sigWordRows c w u,
    RunsAlu c p.1 p.2.1 ∧ p.2.2 < 2 ^ 24 ∧ ∃ o, aluOp p.2.1 w u = .word (withWord (getA u (sDst w)) p.2.2) o := by
  have hword : ∀ (f : Nat → Nat → Nat) (y : Nat), f (bits (getA u (sDst w)).toNat 47 24) (getD u (sSrc1 w)).toNat = y → y < 2 ^ 24 →
      ∃ o, aluWord f w u = .word (withWord (getA u (sDst w)) y) o := fun f y hf hy =>
    ⟨_, by rw [aluWord, hf, Nat.mod_eq_of_lt hy]; exact congrArg (AluOut.word · _) (accResult_toInt hsat _)⟩
  have ha : bits (getA u (sDst w)).toNat 47 24 < 2 ^ 24 := Nat.mod_lt _ (by decide)
  have hd := (getD u (sSrc1 w)).isLt
  have hand := Nat.and_lt_two_pow (bits (getA u (sDst w)).toNat 47 24) hd
  have hor := Nat.or_lt_two_pow ha hd
  have hxor := Nat.xor_lt_two_pow ha hd
  simp only [sigWordRows, List.forall_mem_cons, List.not_mem_nil, IsEmpty.forall_iff, implies_true, and_true]
  exact ⟨⟨fun _ => rfl, hand, hword _ _ rfl hand⟩, ⟨fun _ => rfl, hor, hword _ _ rfl hor⟩, fun _ => rfl, hxor, hword _ _ rfl hxor⟩

/-- Settles O19: a compare changes flags alone, and a word result replaces the word field alone. -/
theorem signalComparesAndLogic : Obligations.SignalComparesAndLogic := by
  unfold Obligations.SignalComparesAndLogic
  intro s c w op i hat hc
  obtain ⟨t, ht, hgo, hmoves⟩ := aluRun_becomes (aluOp op) hat
  refine ⟨fun x hrow => ?compare, fun y hrow hsat => ?logic⟩
  case compare =>
    obtain ⟨hruns, hout⟩ := aluOp_of_cmpRow c w _ _ hrow
    rw [aluExec_of_flags hc hout] at hgo
    refine ⟨t, (hruns s).trans ht, hgo.frame, hmoves, ?_, fun r hx hy => ?_⟩
    · rw [hgo.sig, sNext_csw, flagBits_sigMoved, flagBits_flagged_flags]
    · rw [hgo.sig, getA_sNext, getA_sigMoved_of_not_loadsA _ hx hy, getA_flagged]
  case logic =>
    obtain ⟨hruns, hy, o, hout⟩ := aluOp_of_wordRow c w _ hsat _ hrow
    rw [aluExec_of_word hc hout] at hgo
    have hdst : getA (getEng t c).sig (sDst w) = withWord (getA (getEng s c).sig (sDst w)) y := by
      rw [hgo.sig, getA_sNext, getA_setA_self]
    refine ⟨t, (hruns s).trans ht, hgo.frame, hmoves, ?_, ?_, ?_, fun hfs => ?_⟩
    · rw [hdst, word_withWord _ hy]
    · rw [hdst, guard_withWord _ hy]
    · rw [hdst, tail_withWord _ hy]
    · have hflags : flagBits (getEng t c).sig.csw = (bit y 23, decide (y = 0), o, guardUsed (withWord (getA (getEng s c).sig (sDst w)) y)) := by
        rw [hgo.sig, sNext_csw, csw_setA, flagBits_sigMoved, flagBits_flagged_word _ _ _ hfs, getLsbD_withWord _ hy, word_withWord _ hy]
      obtain ⟨hS, hZ, -⟩ := (by simpa only [flagBits, Prod.mk.injEq] using hflags)
      exact ⟨hS, hZ⟩

/-! ### Results in a data register, and moves alone (06 R149, R158, R159) -/

/-- NORM, SATW and PGET give their word for the register that SRC2 names; SATW tells where its limiter acted. -/
theorem aluOp_of_dataRow (c w : Nat) (u : SigUnit) : ∀ p ∈ sigDataRows c w u, RunsAlu c p.1 p.2.1 ∧
    ∃ clip, aluOp p.2.1 w u = .data (sSrc2 w % 4) p.2.2 clip ∧ (p.1 = .satw c → clip = (limiter (getA u (sSrc1 w - 4))).2) := by
  simp only [sigDataRows, List.forall_mem_cons, List.not_mem_nil, IsEmpty.forall_iff, implies_true, and_true]
  exact ⟨⟨fun _ => rfl, false, rfl, Instr.noConfusion⟩, ⟨fun _ => rfl, _, rfl, fun _ => rfl⟩, fun _ => rfl, false, rfl, Instr.noConfusion⟩

/-- Settles O20: a data result is written after the moves and the sticky flag after it; NOP is its two moves. -/
theorem signalDataResultsAndMoves : Obligations.SignalDataResultsAndMoves := by
  unfold Obligations.SignalDataResultsAndMoves
  intro s c w op hat hc
  obtain ⟨t, ht, hgo, hmoves⟩ := aluRun_becomes (aluOp op) hat
  refine ⟨fun i x hrow hx hy => ?data, fun hop => ?nop⟩
  case data =>
    obtain ⟨hruns, clip, hout, hclip⟩ := aluOp_of_dataRow c w _ _ hrow
    rw [aluExec_of_data hc hout hx hy] at hgo
    refine ⟨t, (hruns s).trans ht, hgo.frame, hmoves, by rw [hgo.sig, getD_sNext, getD_setD_self], fun hi hlim => ?_⟩
    rw [hgo.sig, sNext_csw, csw_setD, if_pos ((hclip hi).trans hlim), cswK_cswClip]
  case nop =>
    subst hop
    rw [aluExec_of_none hc rfl] at hgo
    exact ⟨t, ht, hgo.frame, hgo.sig⟩

end Sys2Proof.Machine
end

section
/-! Control forms of the signal unit: jumps, loops, loads of registers, and GET and PUT (06 R144, R151, R153, R154, R160). -/

namespace Sys2Proof.Machine

/-- A row of the control form completes with what its instruction makes of the unit. -/
theorem ctlRun_of_at {s : State} {c w op : Nat} (f : Nat → SigUnit → SigUnit) (hat : CtlAt s c w op) :
    ctlRun op f c s = .next (updSig s c (f w)) := by
  obtain ⟨hw, hform, hop⟩ := hat
  simp only [ctlRun, hw, hform, hop, not_true_eq_false, ne_eq, or_self, if_false]

/-- Only what a change makes of the present unit counts. -/
theorem updSig_congr {s : State} {c : Nat} {f g : SigUnit → SigUnit} (h : f (getEng s c).sig = g (getEng s c).sig) :
    updSig s c f = updSig s c g := by
  have heng : (fun e : Engines => { e with sig := f e.sig }) (getEng s c) = (fun e : Engines => { e with sig := g e.sig }) (getEng s c) := by
    simp only [h]
  exact congrArg (fun e => { s with engines := Tbl.set Engines.reset s.engines c e }) heng

/-! ### Where the unit goes (06 R153, R154, R160) -/

/-- Two delay slots run before a branch is taken (06 R153). -/
theorem sNext_of_branch {u : SigUnit} (hr : u.repeating = false) {t : Nat} :
    (u.branch = some (2, t) → (sNext u).branch = some (1, t) ∧ (sNext u).pc = u.pc + 1) ∧
      (u.branch = some (1, t) → (sNext u).branch = none ∧ (sNext u).pc = t) := by
  constructor <;> intro hb <;> simp [sNext, hr, hb]

/-- Settles O21: each row runs its control form; RET finds the entry that its CALL pushed, and a loop is left where it is over. -/
theorem signalJumpsLoopsAndHalt : Obligations.SignalJumpsLoopsAndHalt := by
  unfold Obligations.SignalJumpsLoopsAndHalt
  intro s c w
  refine ⟨ctlRun_of_at sHalt, ctlRun_of_at sJmp, ctlRun_of_at sCall, fun r fs hat hstack => ?ret, ctlRun_of_at sDo, ctlRun_of_at sRep,
    fun hruns hrun hhalt hover => ?doEnd, fun hruns hrun hhalt hrep hcount => ?repEnd,
    fun u hr => ⟨fun _ => (sNext_of_branch hr).1, fun _ => (sNext_of_branch hr).2⟩⟩
  case ret =>
    have hret : exec (.ret c) s = .next (updSig s c (sRet w)) := ctlRun_of_at sRet hat
    rw [hret]
    exact congrArg Host.Outcome.next (updSig_congr (by simp only [sRet, hstack, jumpTo]))
  case doEnd =>
    change execDoEnd c s = _
    simp only [execDoEnd, hruns, hrun, hhalt, hover, Bool.false_eq_true, not_false_eq_true, and_self, if_true]
    rfl
  case repEnd =>
    change execRepEnd c s = _
    simp only [execRepEnd, hruns, hrun, hhalt, hrep, hcount, Bool.false_eq_true, not_false_eq_true, and_self, if_true]
    rfl

/-! ### Loads of registers (06 R151, R160) -/

/-- A row of the control form completes with the unit that it makes, which has gone on where it keeps the course of going on. -/
theorem ctlRun_moves {s : State} {c w op : Nat} {f : Nat → SigUnit → SigUnit} (hat : CtlAt s c w op)
    (hcourse : (f w (getEng s c).sig).course = (sNext (getEng s c).sig).course) :
    ∃ t, ctlRun op f c s = .next t ∧ SigFrame_ s t c ∧ SigMoves s t c ∧ (getEng t c).sig = f w (getEng s c).sig := by
  have hgo := updSig_becomes s c (f w)
  refine ⟨_, ctlRun_of_at f hat, hgo.frame, ?_, hgo.sig⟩
  rw [sigMoves_iff, hgo.sig, hcourse]

@[simp] theorem course_ldp (r imm : Nat) (u : SigUnit) : (ldp r imm u).course = u.course := by
  unfold ldp; repeat' split
  all_goals rfl

/-- LDP writes the pointer, base, length or modifier that its register number names. -/
theorem ldp_spec (r : Nat) {x : Nat} (hx : x < 2 ^ 16) (u : SigUnit) :
    (r < 8 → getPtr (ldp r x u) r = x % 32768) ∧ (8 ≤ r → r < 16 → getBas (ldp r x u) (r - 8) = x % 32768) ∧
      (16 ≤ r → r < 24 → getLen (ldp r x u) (r - 16) = x) ∧ (24 ≤ r → getMod (ldp r x u) (r - 24) = signed 16 x) := by
  unfold ldp
  refine ⟨fun h => ?pointer, fun h h' => ?base, fun h h' => ?length, fun h => ?modifier⟩
  case pointer => rw [if_pos h, getPtr, setPtr, Tbl.get_set_self, BitVec.toNat_ofNat]
  case base => rw [if_neg (by omega), if_pos h', getBas, Tbl.get_set_self, BitVec.toNat_ofNat]
  case length => rw [if_neg (by omega), if_neg (by omega), if_pos h', getLen, Tbl.get_set_self, BitVec.toNat_ofNat, Nat.mod_eq_of_lt hx]
  case modifier => rw [if_neg (by omega), if_neg (by omega), if_neg (by omega), getMod, Tbl.get_set_self, signed]

/-- A data word in an accumulator has the value of its word field. -/
theorem toInt_accOfWord (d : BitVec 24) : (accOfWord d).toInt = d.toInt * 2 ^ 24 := by
  have hlo := BitVec.le_toInt d
  have hhi := BitVec.toInt_lt (x := d)
  exact BitVec.toInt_ofInt_eq_self (by decide) (by omega) (by omega)

/-- The word of LDI is the low 24 bits of the instruction. -/
theorem ofNat_bits_low (w : Nat) : BitVec.ofNat 24 (bits w 23 0) = BitVec.ofNat 24 w := by
  apply BitVec.eq_of_toNat_eq
  rw [BitVec.toNat_ofNat, BitVec.toNat_ofNat, bits_eq_div_mod]
  omega

/-! ### GET and PUT (06 R144) -/

/-- A row of GET or PUT completes where the core runs a job, and the unit goes on from the state it made. -/
theorem sigMem_of_at {s : State} {c w op h : Nat} {j : Job} {i : Inst} (f : Job → Inst → Nat → State → State) (hat : CtlAt s c w op)
    (hr : running s c = some (h, j, i)) : sigMem op f c s = .next (updSig (f j i w s) c sNext) := by
  obtain ⟨hw, hform, hop⟩ := hat
  simp only [sigMem, hw, hr, hform, hop, not_true_eq_false, ne_eq, or_self, if_false]

/-- The words that GET reads from its granules, each of 4 bytes, or of 2 bytes in a buffer of CQ15 tiles. -/
def gotWords (m : Mem) (j : Job) (i : Inst) (w : Nat) : List Nat :=
  if sigCq15 j i (bits w 15 0) then
    (List.range (32 * (bits w 29 25 + 1))).map fun k => viewLe m i (bits w 15 0 * 64 + 2 * k) 2 * 256
  else (List.range (16 * (bits w 29 25 + 1))).map fun k => viewLe m i (bits w 15 0 * 64 + 4 * k) 4 % 2 ^ 24

/-- GET completes with its words in X or Y memory. -/
theorem exec_get_becomes {s : State} {c w h : Nat} {j : Job} {i : Inst} (hat : CtlAt s c w 0x49) (hr : running s c = some (h, j, i)) :
    ∃ t, exec (.get c) s = .next t ∧
      SigBecomes s t c (sNext (getWords (bit w 39) (bits w 38 36) (getEng s c).sig (gotWords (getCore s c).scratch j i w))) := by
  change ∃ t, execGet c s = .next t ∧ _
  have hread := updSig_becomes s c fun u => getWords (bit w 39) (bits w 38 36) u (gotWords (getCore s c).scratch j i w)
  have hgo := updSig_becomes (updSig s c fun u => getWords (bit w 39) (bits w 38 36) u (gotWords (getCore s c).scratch j i w)) c sNext
  rw [hread.sig] at hgo
  exact ⟨_, sigMem_of_at _ hat hr, hread.trans hgo⟩

theorem putWords_length (isY : Bool) (p n : Nat) (u : SigUnit) : (putWords isY p n u).1.length = n := by
  induction n generalizing u with
  | zero => rfl
  | succ n ih => simp only [putWords, List.length_cons, ih]

/-- The scratchpad of core c has become m; no other core and nothing in HBM has changed. -/
structure ScratchBecomes (s t : State) (c : Nat) (m : Mem) : Prop where
  hbm : t.work.hbm = s.work.hbm
  others : ∀ d, d ≠ c → getCore t d = getCore s d ∧ getEng t d = getEng s d
  scratch : (getCore t c).scratch = m

theorem setScratch_becomes (s : State) (c : Nat) (f : SigUnit → SigUnit) (m : Mem) :
    ScratchBecomes s (setScratch (updSig s c f) c m) c m := by
  refine ⟨rfl, fun d hd => ⟨?_, ?_⟩, ?_⟩
  · rw [setScratch, getCore_updCore_other _ _ hd, updSig, getCore_updEng]
  · rw [setScratch, getEng_updCore, updSig, getEng_updEng_other _ _ hd]
  · rw [setScratch, getCore_updCore_self]

section
variable {s t : State} {c : Nat} {m : Mem} (h : ScratchBecomes s t c m)
include h

theorem ScratchBecomes.updSig (f : SigUnit → SigUnit) : ScratchBecomes s (updSig t c f) c m :=
  ⟨h.hbm, fun d hd => ⟨(h.others d hd).1, (getEng_updEng_other _ _ hd).trans (h.others d hd).2⟩, h.scratch⟩

theorem ScratchBecomes.countRun (f : Invocation → Invocation) : ScratchBecomes s (countRun t c f) c m := by
  obtain ⟨j, hj⟩ := countRun_eq t c f
  rw [hj]
  exact ⟨h.hbm, h.others, h.scratch⟩

end

/-- The bytes that PUT writes to its granules: words of 4 bytes, or parts of 2 bytes in a buffer of CQ15 tiles. -/
def putBytes (j : Job) (i : Inst) (w : Nat) (u : SigUnit) : List Byte :=
  if sigCq15 j i (bits w 15 0) then (putWords (bit w 39) (bits w 38 36) (32 * (bits w 29 25 + 1)) u).1.flatMap fun x =>
    leBytes 2 (putPart (cswRmode u.csw) x).1
  else (putWords (bit w 39) (bits w 38 36) (16 * (bits w 29 25 + 1)) u).1.flatMap fun x => leBytes 4 (unsigned 32 x.toInt)

/-- PUT fills its granules. -/
theorem putBytes_length (j : Job) (i : Inst) (w : Nat) (u : SigUnit) : (putBytes j i w u).length = 64 * (bits w 29 25 + 1) := by
  unfold putBytes
  split <;> simp [List.length_flatMap, putWords_length] <;> omega

/-- PUT completes with its bytes in the scratchpad. -/
theorem exec_put_becomes {s : State} {c w h : Nat} {j : Job} {i : Inst} (hat : CtlAt s c w 0x4A) (hr : running s c = some (h, j, i)) :
    ∃ t, exec (.put c) s = .next t ∧
      ScratchBecomes s t c (viewWrite (getCore s c).scratch i (bits w 15 0 * 64) (putBytes j i w (getEng s c).sig)) := by
  change ∃ t, execPut c s = .next t ∧ _
  refine ⟨_, sigMem_of_at _ hat hr, .updSig ?_ _⟩
  by_cases hcq : sigCq15 j i (bits w 15 0) = true
  · simp only [putBytes, hcq, if_true]
    rw [List.flatMap_map]
    split
    · exact setScratch_becomes ..
    · exact (setScratch_becomes ..).countRun _
  · simp only [putBytes, hcq]
    exact setScratch_becomes ..

/-- Settles O22: the registers are read back after their writes, and the words of GET and PUT are those that their functions move. -/
theorem signalLoadsAndTransfers : Obligations.SignalLoadsAndTransfers := by
  unfold Obligations.SignalLoadsAndTransfers
  intro s c w
  refine ⟨fun hat => ?ldp, fun hat => ?ldi, fun hat => ?pcopy, fun hat => ?setm, fun h j i hr hat => ?get, fun h j i hr hat => ?put⟩
  case ldp =>
    obtain ⟨t, ht, hframe, hmoves, hsig⟩ := ctlRun_moves (f := sLdp) hat (course_sNext_congr (course_ldp ..))
    refine ⟨t, ht, hframe, hmoves, ?_⟩
    have hx : bits w 15 0 < 2 ^ 16 := Nat.mod_lt _ (by decide)
    simp only [hsig, sLdp, getPtr, getBas, getLen, getMod, sNext_ptr, sNext_bas, sNext_len, sNext_modif]
    exact ldp_spec _ hx _
  case ldi =>
    obtain ⟨t, ht, hframe, hmoves, hsig⟩ := ctlRun_moves (f := sLdi) hat (course_sNext_congr (course_loadReg ..))
    refine ⟨t, ht, hframe, hmoves, fun hr => ?_, fun hr => ?_⟩
    · rw [hsig, sLdi, if_pos hr, getD_sNext, getD_setD_self, ofNat_bits_low]
    · rw [hsig, sLdi, if_neg (by omega), getA_sNext, getA_setA_self, ofNat_bits_low, toInt_accOfWord]
  case pcopy =>
    obtain ⟨t, ht, hframe, hmoves, hsig⟩ := ctlRun_moves (f := sPcopy) hat (course_sNext_congr (course_setPtr ..))
    refine ⟨t, ht, hframe, hmoves, ?_⟩
    simp [hsig, sPcopy, getPtr, setPtr]
  case setm =>
    obtain ⟨t, ht, hframe, hmoves, hsig⟩ := ctlRun_moves (f := sSetm) hat (course_sNext_congr rfl)
    have hmode : bits w 1 0 % 4 = bits w 1 0 := Nat.mod_mod ..
    refine ⟨t, ht, hframe, hmoves, ?_⟩
    rw [hsig, sSetm, sNext_csw]
    refine ⟨by rw [cswRmode_cswMake, hmode], cswSat_cswMake .., flagBits_cswMake .., ?_⟩
    rw [cswK_cswMake]
    cases bit w 3 <;> simp
  case get =>
    obtain ⟨t, ht, hgo⟩ := exec_get_becomes hat hr
    exact ⟨t, ht, hgo.frame, hgo.sig⟩
  case put =>
    obtain ⟨t, ht, hput⟩ := exec_put_becomes hat hr
    refine ⟨t, ht, hput.hbm, hput.others, fun a ha => ?_, fun hcq => ?_, fun hcq => ?_⟩
    · rw [hput.scratch]
      exact Mem.read_viewWrite_other _ _ _ _ (by rwa [putBytes_length])
    · rw [hput.scratch, putBytes, hcq]
      rfl
    · rw [hput.scratch, putBytes, hcq]
      rfl

end Sys2Proof.Machine
end

section
/-! INGEST: what a station's entries and slots hold after an update, the frames that it counts or takes, and symbols that close
(08 R188-R191). -/

namespace Sys2Proof.Machine

/-! ### Entries and slots of a station -/

theorem Ing.updEntry_rx_self (g : Ing) (a : Nat) (f : EaxcRx → EaxcRx) : (g.updEntry a f).rx[a]? = (g.rx[a]?).map f := by
  simp [Ing.updEntry, modNth]

theorem Ing.updEntry_rx_other (g : Ing) {a k : Nat} (f : EaxcRx → EaxcRx) (h : k ≠ a) : (g.updEntry a f).rx[k]? = g.rx[k]? := by
  simp [Ing.updEntry, modNth, h]

@[simp] theorem Ing.slotOf_slot (g : Ing) (slot : Nat) : (g.slotOf slot).slot = slot := by
  unfold Ing.slotOf
  cases hf : g.rxSlots.find? fun r => r.slot = slot with
  | none => rfl
  | some r => simpa using List.find?_some hf

/-- A slot that is kept is found again, also among the slots that a test chooses when it chooses this one. -/
theorem Ing.slotOf_filter_putSlot (g : Ing) (r : RxSlot) (keep : RxSlot → Bool) (h : keep r = true) :
    ({ g.putSlot r with rxSlots := (g.putSlot r).rxSlots.filter keep } : Ing).slotOf r.slot = r := by
  have hnone : ∀ x ∈ (g.rxSlots.filter fun x => x.slot ≠ r.slot).filter keep, ¬ decide (x.slot = r.slot) = true := by
    intro x hx
    simpa using (List.mem_filter.mp (List.mem_filter.mp hx).1).2
  simp only [Ing.slotOf, Ing.putSlot, List.filter_append, List.find?_append, List.find?_eq_none.mpr hnone]
  simp [h]

/-! ### Symbols that close (R191) -/

/-- The resource blocks of a plane and symbol that did not come. -/
def RxSlot.lacking (r : RxSlot) (nRb a sym : Nat) : Nat := ((List.range nRb).filter fun rb => !Tbl.get false r.written (rbKey a sym rb)).length

/-- An entry counts resource blocks that did not come. -/
def EaxcRx.misses (x : EaxcRx) (n : Nat) : EaxcRx := { x with missing := satInc x.missing n }

/-- Plane a counts the resource blocks of a symbol that did not come. -/
def Ing.countMissing (g : Ing) (r : RxSlot) (sym a : Nat) : Ing := g.updEntry a fun x => x.misses (r.lacking g.nRb a sym)

/-- The first n planes count what did not come: each entry once, and the carrier's width stands. -/
theorem Ing.countMissing_planes (g : Ing) (r : RxSlot) (sym n : Nat) :
    let t := (List.range n).foldl (fun g a => g.countMissing r sym a) g
    t.nRb = g.nRb ∧
      ∀ a, t.rx[a]? = if a < n then (g.rx[a]?).map fun x => x.misses (r.lacking g.nRb a sym) else g.rx[a]? := by
  induction n with
  | zero => simp
  | succ n ih =>
    obtain ⟨hrb, hrx⟩ := ih
    rw [List.range_succ, List.foldl_append, List.foldl_cons, List.foldl_nil]
    refine ⟨hrb, fun a => ?_⟩
    rw [Ing.countMissing, hrb]
    by_cases ha : a = n
    · subst ha
      rw [Ing.updEntry_rx_self, hrx, if_neg (lt_irrefl a), if_pos (Nat.lt_succ_self a)]
    · rw [Ing.updEntry_rx_other _ _ ha, hrx]
      simp only [show a < n + 1 ↔ a < n by omega]

/-- The slot of a symbol that closes. -/
def RxSlot.closing (r : RxSlot) (sym : Nat) : RxSlot := { r with closed := r.closed ||| BitVec.ofNat 14 (2 ^ sym) }

theorem RxSlot.closing_closed (r : RxSlot) {sym : Nat} (h : sym < 14) : (r.closing sym).closed.getLsbD sym = true := by
  simp only [RxSlot.closing, BitVec.getLsbD_or, BitVec.getLsbD_ofNat, h, Nat.testBit_two_pow_self, decide_true, Bool.and_self, Bool.or_true]

theorem Ing.slotOf_close (g : Ing) (slot sym : Nat) : (g.close slot sym).slotOf slot = (g.slotOf slot).closing sym := by
  have h := Ing.slotOf_filter_putSlot ((List.range g.planes).foldl (fun g' a => g'.countMissing (g.slotOf slot) sym a) g)
    ((g.slotOf slot).closing sym) (fun x => decide (slot < x.slot + 4)) (by simp [RxSlot.closing])
  rwa [show ((g.slotOf slot).closing sym).slot = slot from g.slotOf_slot slot] at h

theorem Ing.close_rx (g : Ing) (slot sym : Nat) {a : Nat} {x : EaxcRx} (ha : a < g.planes) (hx : g.rx[a]? = some x) :
    (g.close slot sym).rx[a]? = some (x.misses ((g.slotOf slot).lacking g.nRb a sym)) := by
  have h := (g.countMissing_planes (g.slotOf slot) sym g.planes).2 a
  rw [if_pos ha, hx] at h
  exact h

theorem exec_symbolClose_of_kept {s : State} {ref : IngRef} {g : Ing} (hg : getIng s ref = some g) {slot sym : Nat}
    (h : (g.slotOf slot).closed.getLsbD sym = true ∨ g.takes slot = false ∨ 14 ≤ sym) : exec (.symbolClose ref slot sym) s = .next s := by
  have hc : (!g.takes slot) = true ∨ 14 ≤ sym ∨ (g.slotOf slot).closed.getLsbD sym = true := by
    rcases h with h | h | h <;> simp [h]
  show execSymbolClose ref slot sym s = _
  simp only [execSymbolClose, hg, if_pos hc]

theorem exec_symbolClose_of_open {s : State} {ref : IngRef} {g : Ing} (hg : getIng s ref = some g) {slot sym : Nat}
    (ht : g.takes slot = true) (hs : sym < 14) (ho : (g.slotOf slot).closed.getLsbD sym = false) :
    exec (.symbolClose ref slot sym) s = .next (postSlot (updIng s ref fun g => g.close slot sym) ref slot) := by
  have hc : ¬ ((!g.takes slot) = true ∨ 14 ≤ sym ∨ (g.slotOf slot).closed.getLsbD sym = true) := by
    rw [ht, ho]
    simp [hs]
  show execSymbolClose ref slot sym s = _
  simp only [execSymbolClose, hg, if_neg hc]

/-! ### The window of a frame (R189) -/

/-- The first and the last instant, in 2^-16 of 1/96 ns, at which a frame of a symbol is in time. -/
def Ing.opens (g : Ing) (s : State) (a slot sym : Nat) : Int := g.endOf a slot sym * 65536 + (g.field s 0x0C 4 : Nat) * (96 * 65536)
def Ing.shuts (g : Ing) (s : State) (a slot sym : Nat) : Int := g.endOf a slot sym * 65536 + (g.field s 0x10 4 : Nat) * (96 * 65536)

/-- What a frame in time leaves: it is counted, its sections are written up to the first that fails, and rows are posted. -/
def frameTaken (s : State) (ref : IngRef) (g : Ing) (a slot sym : Nat) (p : List Byte) : State :=
  let k := updIng s ref fun g => g.updEntry a fun x => { x with ok := satInc x.ok 1 }
  let parsed := parseSections (g.field k 7 1) g.nRb p.length p
  let q := writeSections ref slot a sym k parsed.1
  postSlot (updIng q.1 ref fun g => g.updEntry a fun x =>
    { x with dup := if q.2 then satInc x.dup 1 else x.dup, bad := if parsed.2 then satInc x.bad 1 else x.bad }) ref slot

section
variable {s : State} {ref : IngRef} {g : Ing} (hg : getIng s ref = some g) {a slot sym : Nat} {trx : Int} {p : List Byte}
include hg

theorem acceptFrame_of_other_slot (h : g.takes slot = false) : acceptFrame s ref a slot sym trx p = s := by
  simp [acceptFrame, hg, h]

/-- The frame of a slot that the station takes is early, late or in time. -/
theorem acceptFrame_of_takes (h : g.takes slot = true) : acceptFrame s ref a slot sym trx p =
    if trx * 96 < g.opens s a slot sym then updIng s ref fun g => g.updEntry a fun x => { x with early := satInc x.early 1 }
    else if g.shuts s a slot sym < trx * 96 then updIng s ref fun g => g.updEntry a fun x => { x with late := satInc x.late 1 }
    else frameTaken s ref g a slot sym p := by
  simp only [acceptFrame, hg, h, Bool.not_true, Bool.false_eq_true, if_false]
  rfl

theorem acceptFrame_of_early (h : g.takes slot = true) (he : trx * 96 < g.opens s a slot sym) : acceptFrame s ref a slot sym trx p =
    updIng s ref fun g => g.updEntry a fun x => { x with early := satInc x.early 1 } := by
  rw [acceptFrame_of_takes hg h, if_pos he]

theorem acceptFrame_of_late (h : g.takes slot = true) (hw : g.opens s a slot sym ≤ g.shuts s a slot sym)
    (hl : g.shuts s a slot sym < trx * 96) : acceptFrame s ref a slot sym trx p =
    updIng s ref fun g => g.updEntry a fun x => { x with late := satInc x.late 1 } := by
  rw [acceptFrame_of_takes hg h, if_neg (by omega), if_pos hl]

theorem acceptFrame_of_inside (h : g.takes slot = true) (hlo : g.opens s a slot sym ≤ trx * 96) (hhi : trx * 96 ≤ g.shuts s a slot sym) :
    acceptFrame s ref a slot sym trx p = frameTaken s ref g a slot sym p := by
  rw [acceptFrame_of_takes hg h, if_neg (by omega), if_neg (by omega)]

end

/-! ### UPLANE_FRAME (R188) -/

/-- A frame of an entry: its sequence number is compared and its bytes are charged. -/
def frameCounted (w : State) (ref : IngRef) (g : Ing) (a : Nat) (p : List Byte) : State :=
  chargeJob (updIng w ref fun g => g.updEntry a fun x => x.sequence (imgLe p 6 1)) g.job { Ledger.none with portBytes := 18 + p.length }

/-- The device time of a frame at the board connector, in 2^-16 ns (17 R457). -/
def frameTime (s : State) (mac rx : Nat) : Int := (rx * 65536 : Nat) - (getPtp s mac).asymIngress.toInt

/-- The slot that a frame's application header names, nearest to the slot on air at its time. -/
def frameSlot (g : Ing) (trx : Int) (p : List Byte) : Nat :=
  nearestSlot (slotOnAir g.mu g.alpha (trx / 65536).toNat)
    (((((imgLe p 9 1 : Nat) : Int) - g.beta) % 256).toNat * perFrame g.mu + imgLe p 10 1 / 16 * 2 ^ g.mu + beAt p 10 2 / 64 % 64)
    (256 * perFrame g.mu)

section
variable {s : State} {mac vlan rx : Nat} {p : List Byte}

theorem exec_uplaneFrame_of_down (h : (getMac s mac).up = false) : exec (.uplaneFrame mac vlan rx p) s = .next s := by
  show execUplaneFrame mac vlan rx p s = _
  simp [execUplaneFrame, h]

variable (hup : (getMac s mac).up = true)
include hup

theorem exec_uplaneFrame_of_unknownVlan (h : vlanKind (countRx s mac) mac vlan ≠ some 0) : exec (.uplaneFrame mac vlan rx p) s =
    .next (updMac (countRx s mac) mac fun m => { m with unknownVlan := satInc m.unknownVlan 1 }) := by
  show execUplaneFrame mac vlan rx p s = _
  simp only [execUplaneFrame, hup, not_true_eq_false, if_false, if_pos h]

variable (hv : vlanKind (countRx s mac) mac vlan = some 0)
include hv

theorem exec_uplaneFrame_of_unknownEaxc (h : ingestEntry (countRx s mac) mac vlan (beAt p 4 2) = none) :
    exec (.uplaneFrame mac vlan rx p) s =
      .next (updMac (countRx s mac) mac fun m => { m with unknownEaxc := satInc m.unknownEaxc 1 }) := by
  show execUplaneFrame mac vlan rx p s = _
  simp only [execUplaneFrame, hup, hv, h, not_true_eq_false, ne_eq, if_false]

variable {ref : IngRef} {g : Ing} {a : Nat} (hentry : ingestEntry (countRx s mac) mac vlan (beAt p 4 2) = some (ref, g, a))
include hentry

theorem exec_uplaneFrame_of_bad (h : uplaneOk g a p = false) : exec (.uplaneFrame mac vlan rx p) s =
    .next (updIng (frameCounted (countRx s mac) ref g a p) ref fun g => g.updEntry a fun x => { x with bad := satInc x.bad 1 }) := by
  show execUplaneFrame mac vlan rx p s = _
  simp only [execUplaneFrame, hup, hv, hentry, h, Bool.false_eq_true, not_true_eq_false, not_false_eq_true, ne_eq, if_false, if_true]
  rfl

theorem exec_uplaneFrame_of_ok (h : uplaneOk g a p = true) : exec (.uplaneFrame mac vlan rx p) s =
    (let counted := frameCounted (countRx s mac) ref g a p
     let trx := frameTime counted mac rx
     .next (acceptFrame counted ref a (frameSlot g trx p) (imgLe p 11 1 % 64) trx ((p.take (beAt p 2 2 + 4)).drop 12))) := by
  show execUplaneFrame mac vlan rx p s = _
  simp only [execUplaneFrame, hup, hv, hentry, h, not_true_eq_false, ne_eq, if_false]
  rfl

end

/-! ### The station of a cell -/

/-- A cell whose uplink job runs: its INGEST station receives. -/
def Receives (s : State) (ci : Nat) (c : Cell) : Prop := getCell s ci = some c ∧ ∃ j, getJob s c.up = some j ∧ j.run.isSome = true

/-- An update of an entry of such a station is one of the cell's entry. -/
theorem Receives.updEntry {s : State} {ci : Nat} {c : Cell} (h : Receives s ci c) (a : Nat) (f : EaxcRx → EaxcRx) :
    Receives (updIng s (.cell ci) fun g => g.updEntry a f) ci { c with rx := modNth c.rx a f } := by
  obtain ⟨hc, j, hj, hr⟩ := h
  have hg : getIng s (.cell ci) = some (cellIng c j) := by simp [getIng, hc, hj, hr]
  have hput : updIng s (.cell ci) (fun g => g.updEntry a f) = putCell s ci { c with rx := modNth c.rx a f } := by
    simp only [updIng, hg, putIng, updCell, hc]
    rfl
  rw [hput]
  exact ⟨getCell_putCell_self .., j, hj, hr⟩

theorem Receives.chargeJob {s : State} {ci : Nat} {c : Cell} (h : Receives s ci c) (k : Nat) (d : Ledger) :
    Receives (chargeJob s k d) ci c := by
  obtain ⟨hc, j, hj, hr⟩ := h
  exact ⟨by rw [← hc]; simp [getCell], j, ((chargeJob_ledgerOnly s k d).getJob_eq _).trans hj, hr⟩

theorem receives_of_ingestEntry {s : State} {ci : Nat} {c : Cell} (hc : getCell s ci = some c) {mac vlan id a : Nat} {g : Ing}
    (h : ingestEntry s mac vlan id = some (.cell ci, g, a)) : Receives s ci c := by
  obtain ⟨ref, -, href⟩ := List.exists_of_findSome?_eq_some h
  obtain ⟨x, hx, hif⟩ := Option.bind_eq_some_iff.mp href
  split at hif
  case isFalse => cases hif
  case isTrue =>
    obtain ⟨b, -, heq⟩ := Option.map_eq_some_iff.mp hif
    cases heq
    refine ⟨hc, ?_⟩
    simp only [getIng, hc] at hx
    obtain ⟨j, hj, hrun⟩ := Option.bind_eq_some_iff.mp hx
    refine ⟨j, hj, ?_⟩
    by_contra hno
    simp [hno] at hrun

/-- A frame of a cell's entry that fails a check is counted, with its sequence gap, and nothing of it is written. -/
theorem exec_uplaneFrame_of_bad_cell {s : State} {ci : Nat} {c : Cell} (hc : getCell s ci = some c) {mac vlan rx : Nat} {p : List Byte}
    (hup : (getMac s mac).up = true) (hv : vlanKind (countRx s mac) mac vlan = some 0) {g : Ing} {a : Nat}
    (hentry : ingestEntry (countRx s mac) mac vlan (beAt p 4 2) = some (.cell ci, g, a)) {e : EaxcRx} (he : c.rx[a]? = some e)
    (h : uplaneOk g a p = false) :
    ∃ t c', exec (.uplaneFrame mac vlan rx p) s = .next t ∧ getCell t ci = some c' ∧
      c'.rx[a]? = some { e.sequence (imgLe p 6 1) with bad := satInc e.bad 1 } ∧ c'.rxSlots = c.rxSlots := by
  have hrec : Receives (countRx s mac) ci c := receives_of_ingestEntry hc hentry
  have hdone := ((hrec.updEntry a fun x => x.sequence (imgLe p 6 1)).chargeJob g.job
    { Ledger.none with portBytes := 18 + p.length }).updEntry a fun x => { x with bad := satInc x.bad 1 }
  exact ⟨_, _, exec_uplaneFrame_of_bad hup hv hentry h, hdone.1, modNth_getElem_self (modNth_getElem_self he _) _, rfl⟩

end Sys2Proof.Machine
end

section
/-! What a UL_TTI.request makes of a slot: PUSCH PDUs that the chain supports, at most 8 layers to a resource block, and at most 64 PUSCH
PDUs and 4 PRACH occasions (08 R196, R197; 09 R240). -/

namespace Sys2Proof.Machine

/-! ### PDUs of a slot -/

/-- One PDU more adds its layers on the resource blocks that it names. -/
theorem layersOn_append (ps : List PuschPdu) (p : PuschPdu) (rb : Nat) :
    layersOn (ps ++ [p]) rb = layersOn ps rb + if rb ∈ p.rbs then p.layers else 0 := by
  by_cases h : rb ∈ p.rbs <;> simp [layersOn, sumNat, List.filter_append, List.foldl_append, h]

/-- Whether a PDU is supported is a matter of CELL_START's fields alone. -/
theorem puschOk_congr {c c' : Cell} (h : c'.fields = c.fields) (p : PuschPdu) : puschOk c' p = puschOk c p := by
  have hmu : c'.mu = c.mu := congrArg (bodyField · 0x13 1) h
  have hrb : c'.nRb = c.nRb := congrArg (bodyField · 0x14 2) h
  rw [puschOk, puschOk, hmu, hrb]

theorem assignCtx_fields (c : Cell) (rnti onAir : Nat) : (c.assignCtx rnti onAir).1.fields = c.fields := by
  unfold Cell.assignCtx
  split
  · rfl
  · split <;> rfl

/-! ### The slot in the making -/

/-- A slot n that keeps the limits of the chain, made for a cell. -/
structure UlBuild.Fits (c : Cell) (n : Nat) (b : UlBuild) : Prop where
  fields : b.cell.fields = c.fields
  slot : b.slot.slot = n
  pusch : b.slot.recs.length ≤ 64
  prach : b.slot.prach.length ≤ 4
  supported : ∀ r ∈ b.slot.recs, puschOk c r.pdu = true
  layers : ∀ rb, layersOn (b.slot.recs.map (·.pdu)) rb ≤ 8

section
variable {c : Cell} {n : Nat} {b : UlBuild} (h : b.Fits c n)
include h

/-- A change of what the slot's descriptor does not hold keeps the limits. -/
theorem UlBuild.Fits.congr {b' : UlBuild} (hcell : b'.cell = b.cell) (hslot : b'.slot.slot = b.slot.slot)
    (hrecs : b'.slot.recs = b.slot.recs) (hprach : b'.slot.prach.length ≤ 4) : b'.Fits c n :=
  ⟨hcell ▸ h.fields, hslot.trans h.slot, hrecs ▸ h.pusch, hprach, hrecs ▸ h.supported, hrecs ▸ h.layers⟩

/-- A record more, of a supported PDU for which there is room. -/
theorem UlBuild.Fits.addRecord {b' : UlBuild} {r : UlRec} (hcell : b'.cell.fields = b.cell.fields)
    (hslot : b'.slot = { b.slot with recs := b.slot.recs ++ [r] }) (hok : puschOk b.cell r.pdu = true) (hroom : b.slot.recs.length < 64)
    (hlayers : ∀ rb ∈ r.pdu.rbs, layersOn (b.slot.recs.map (·.pdu)) rb + r.pdu.layers ≤ 8) : b'.Fits c n := by
  refine ⟨hcell.trans h.fields, by rw [hslot]; exact h.slot, ?_, by rw [hslot]; exact h.prach, ?_, fun rb => ?_⟩
  · rw [hslot]
    simpa using hroom
  · rw [hslot]
    intro x hx
    rcases List.mem_append.mp hx with hx | hx
    · exact h.supported x hx
    · rw [List.mem_singleton.mp hx, ← puschOk_congr h.fields, hok]
  · rw [hslot, List.map_append, List.map_singleton, layersOn_append]
    split
    case isTrue hmem => exact hlayers rb hmem
    case isFalse => exact h.layers rb

theorem UlBuild.Fits.addPusch (iter onAir i : Nat) (p : PuschPdu) : (addUlPdu iter onAir b i (.pusch p)).Fits c n := by
  unfold addUlPdu
  dsimp only
  split
  case h_1 => exact h.congr rfl rfl rfl h.prach
  case h_2 hlaid =>
    split at hlaid
    case isFalse => cases hlaid
    case isTrue hok =>
      simp only [Bool.and_eq_true, decide_eq_true_eq, List.all_eq_true, List.length_map] at hok
      obtain ⟨⟨⟨hsup, hroom⟩, -⟩, hlayers⟩ := hok
      exact h.addRecord (assignCtx_fields ..) rfl hsup hroom hlayers

theorem UlBuild.Fits.addPucch (iter onAir i handle rnti fmt k : Nat) : (addUlPdu iter onAir b i (.pucch handle rnti fmt k)).Fits c n := by
  unfold addUlPdu
  dsimp only
  split
  · exact h.congr rfl rfl rfl h.prach
  · split
    · exact h.congr rfl rfl rfl h.prach
    · split <;> exact h.congr rfl rfl rfl h.prach

/-- Each PDU of a request is added within the limits, or removed. -/
theorem UlBuild.Fits.add (iter onAir i : Nat) (p : UlPdu) : (addUlPdu iter onAir b i p).Fits c n := by
  cases p with
  | pusch p => exact h.addPusch iter onAir i p
  | pucch handle rnti fmt k => exact h.addPucch iter onAir i handle rnti fmt k
  | prach reps start format =>
    unfold addUlPdu
    dsimp only
    split
    case isTrue => exact h.congr rfl rfl rfl h.prach
    case isFalse hroom => exact h.congr rfl rfl rfl (by simp; omega)
  | srs _ _ ports comb symbols =>
    unfold addUlPdu
    dsimp only
    split <;> exact h.congr rfl rfl rfl h.prach
  | other _ => exact h.congr rfl rfl rfl h.prach

end

theorem buildUplink_fits (s : State) (c : Cell) (j : Job) (n : Nat) (pdus : List UlPdu) : (buildUplink s c j n pdus).Fits c n :=
  List.foldlRecOn (motive := UlBuild.Fits c n) _ _ ⟨rfl, rfl, by simp [Cell.emptySlot], by simp [Cell.emptySlot], by simp [Cell.emptySlot],
    by simp [Cell.emptySlot, layersOn, sumNat]⟩ fun _ h e _ => h.add _ _ e.2 e.1

/-! ### UL_TTI.request (R197) -/

section
variable {s : State} {ci : Nat} {c : Cell} {j : Job} (hc : getCell s ci = some c) (hj : getJob s c.up = some j) {sfn slot : Nat}
  {pdus : List UlPdu}
include hc hj

theorem exec_ulTtiRequest_of_late (h : c.airStart (c.named (nowNs s) sfn slot) ≤ (nowNs s : Int) ∨ c.named (nowNs s) sfn slot < c.nextFixed ∨
    (c.ulSlot (c.named (nowNs s) sfn slot)).isSome = true) :
    exec (.ulTtiRequest ci sfn slot pdus) s = .next (fapiError s ci sfn slot 0x81 errSlot) := by
  show execUlTtiRequest ci sfn slot pdus s = _
  simp only [execUlTtiRequest, ulTti, hc, hj, if_pos h]

theorem exec_ulTtiRequest_of_first (hair : (nowNs s : Int) < c.airStart (c.named (nowNs s) sfn slot))
    (hfixed : c.nextFixed ≤ c.named (nowNs s) sfn slot) (hnone : c.ulSlot (c.named (nowNs s) sfn slot) = none) :
    exec (.ulTtiRequest ci sfn slot pdus) s =
      (let b := buildUplink s c j (c.named (nowNs s) sfn slot) pdus
       let w := putCell s ci { b.cell with ul := b.cell.ul ++ [b.slot] }
       .next (postUplink 8 (if b.removed then fapiError w ci sfn slot 0x81 errConfig else w) ci)) := by
  have hno : ¬ (c.airStart (c.named (nowNs s) sfn slot) ≤ (nowNs s : Int) ∨ c.named (nowNs s) sfn slot < c.nextFixed ∨
      (c.ulSlot (c.named (nowNs s) sfn slot)).isSome = true) := by
    rw [hnone]
    simp only [Option.isSome_none, Bool.false_eq_true, or_false]
    omega
  show execUlTtiRequest ci sfn slot pdus s = _
  simp only [execUlTtiRequest, ulTti, hc, hj, if_neg hno]

end

end Sys2Proof.Machine
end

section
/-! Soft buffers, tracking contexts, code blocks and PUCCH payloads of a cell's uplink slots (08 R205; 09 R220-R229). -/

namespace Sys2Proof.Machine

/-! ### Soft buffers (09 R228) -/

@[simp] theorem Cell.harqOf_harqFree_self (c : Cell) (rnti harq : Nat) : (c.harqFree rnti harq).harqOf rnti harq = none := by
  rw [Cell.harqOf, List.find?_eq_none]
  intro b hb
  have hne := (List.mem_filter.mp hb).2
  simp only [decide_eq_true_eq] at hne ⊢
  tauto

theorem Cell.harqOf_harqFree_other (c : Cell) {rnti harq m n : Nat} (h : m ≠ rnti ∨ n ≠ harq) :
    (c.harqFree rnti harq).harqOf m n = c.harqOf m n := by
  simp only [Cell.harqOf, Cell.harqFree, List.find?_filter]
  congr 1
  funext b
  by_cases hb : b.rnti = m ∧ b.harq = n
  · simpa [hb] using h
  · simp [hb]

/-- The two cells differ at most in the soft buffers and their counters. -/
def OnlyBuffers (c d : Cell) : Prop := ∃ h ns mm, d = { c with harq := h, harqNospace := ns, harqMismatch := mm }

theorem OnlyBuffers.refl (c : Cell) : OnlyBuffers c c := ⟨c.harq, c.harqNospace, c.harqMismatch, rfl⟩

section
variable {c d : Cell} (h : OnlyBuffers c d)
include h
theorem OnlyBuffers.up : d.up = c.up := by obtain ⟨_, _, _, rfl⟩ := h; rfl
theorem OnlyBuffers.config : d.config = c.config := by obtain ⟨_, _, _, rfl⟩ := h; rfl
theorem OnlyBuffers.ul : d.ul = c.ul := by obtain ⟨_, _, _, rfl⟩ := h; rfl
theorem OnlyBuffers.rx : d.rx = c.rx := by obtain ⟨_, _, _, rfl⟩ := h; rfl
end

theorem harqTake_onlyBuffers (c : Cell) (p : PuschPdu) (slot : Nat) : OnlyBuffers c (c.harqTake p slot) := by
  unfold Cell.harqTake
  dsimp only
  split <;> exact ⟨_, _, _, rfl⟩

theorem harqTake_mismatch_onlyBuffers (c : Cell) (p : PuschPdu) (slot : Nat) (n : BitVec 32) :
    OnlyBuffers c ({ c with harqMismatch := n }.harqTake p slot) := by
  obtain ⟨h, ns, mm, heq⟩ := harqTake_onlyBuffers { c with harqMismatch := n } p slot
  exact ⟨h, ns, mm, heq⟩

theorem harqBegin_onlyBuffers (c : Cell) (p : PuschPdu) (slot : Nat) : OnlyBuffers c (c.harqBegin p slot) := by
  unfold Cell.harqBegin
  split
  · exact harqTake_onlyBuffers ..
  · split
    · split
      · exact ⟨_, _, _, rfl⟩
      · exact harqTake_mismatch_onlyBuffers ..
    · exact harqTake_mismatch_onlyBuffers ..

/-- Of a key's buffer: one more than the highest position that code block cb holds; 0 without a buffer (09 R221). -/
def Cell.heldTop (c : Cell) (p : PuschPdu) (cb : Nat) : Nat := (c.harqOf p.rnti p.harq).elim 0 fun b => nth 0 b.top cb

/-- The buffer of a key that had none is found once it joins the pool. -/
theorem Cell.harqOf_append {c : Cell} {b : Harq} (h : c.harqOf b.rnti b.harq = none) :
    ({ c with harq := c.harq ++ [b] } : Cell).harqOf b.rnti b.harq = some b := by
  rw [Cell.harqOf] at h
  simp only [Cell.harqOf, List.find?_append, h, Option.none_or]
  simp

/-- A buffer that is taken anew holds nothing. -/
theorem heldTop_harqTake (c : Cell) (p : PuschPdu) (slot cb : Nat) : (c.harqTake p slot).heldTop p cb = 0 := by
  have hfree := Cell.harqOf_harqFree_self c p.rnti p.harq
  unfold Cell.heldTop Cell.harqTake
  dsimp only
  split
  case h_1 o ho =>
    have hnew := Cell.harqOf_append (b := ⟨p.rnti, p.harq, p.tbBits, o, (shapeOf p).blocks * (shapeOf p).blockBytes,
      List.replicate (shapeOf p).blocks 0, slot⟩) hfree
    rw [hnew]
    simp only [Option.elim_some, nth, List.getElem?_replicate]
    split <;> rfl
  case h_2 =>
    show ((c.harqFree p.rnti p.harq).harqOf p.rnti p.harq).elim 0 _ = 0
    rw [hfree]
    rfl

theorem exec_harqAgeExpiry_of_none {s : State} {ci : Nat} {c : Cell} (hc : getCell s ci = some c) {rnti harq : Nat}
    (h : c.harqOf rnti harq = none) : exec (.harqAgeExpiry ci rnti harq) s = .next s := by
  show execHarqAgeExpiry ci rnti harq s = _
  simp only [execHarqAgeExpiry, hc, h, Option.bind_some, Option.map_none]

/-- A buffer's age is tested against HARQ_AGE. -/
theorem exec_harqAgeExpiry_of_held {s : State} {ci : Nat} {c : Cell} (hc : getCell s ci = some c) {rnti harq : Nat} {b : Harq}
    (h : c.harqOf rnti harq = some b) : exec (.harqAgeExpiry ci rnti harq) s =
      .next (if c.slotAt (nowNs s) < b.lastSlot + c.f 0x3E 2 then s else putCell s ci (c.harqFree rnti harq)) := by
  show execHarqAgeExpiry ci rnti harq s = _
  simp only [execHarqAgeExpiry, updCell, hc, h, Option.bind_some, Option.map_some]

/-! ### Tracking contexts (08 R205) -/

/-- The cell without an RNTI's context, which may not be assigned again in the slot on air. -/
def Cell.ctxFree (c : Cell) (rnti onAir : Nat) : Cell :=
  { c with contexts := c.contexts.filter fun x => x.rnti ≠ rnti, freed := c.freed.filter (fun k => k = onAir) ++ [onAir] }

@[simp] theorem Cell.ctxOf_ctxFree_self (c : Cell) (rnti onAir : Nat) : (c.ctxFree rnti onAir).ctxOf rnti = none := by
  rw [Cell.ctxOf, List.find?_eq_none]
  intro x hx
  simpa using (List.mem_filter.mp hx).2

theorem Cell.ctxOf_ctxFree_other (c : Cell) {rnti m : Nat} (onAir : Nat) (h : m ≠ rnti) : (c.ctxFree rnti onAir).ctxOf m = c.ctxOf m := by
  simp only [Cell.ctxOf, Cell.ctxFree, List.find?_filter]
  congr 1
  funext x
  by_cases hx : x.rnti = m
  · simpa [hx] using h
  · simp [hx]

theorem exec_contextFree_of_young {s : State} {ci : Nat} {c : Cell} (hc : getCell s ci = some c) {rnti : Nat}
    (h : (c.ctxOf rnti).elim 0 (·.age) < 256) : exec (.contextFree ci rnti) s = .next s := by
  show execContextFree ci rnti s = _
  simp only [execContextFree, hc, if_pos h]

theorem exec_contextFree_of_old {s : State} {ci : Nat} {c : Cell} (hc : getCell s ci = some c) {rnti : Nat}
    (h : 256 ≤ (c.ctxOf rnti).elim 0 (·.age)) :
    exec (.contextFree ci rnti) s = .next (putCell s ci (c.ctxFree rnti (c.slotAt (nowNs s)))) := by
  show execContextFree ci rnti s = _
  simp only [execContextFree, hc, if_neg (Nat.not_lt.mpr h)]
  rfl

/-! ### Slots and their records -/

/-- A change of a slot that keeps its number is found there. -/
theorem Cell.ulSlot_updUl {c : Cell} {slot : Nat} {u : UlSlot} (h : c.ulSlot slot = some u) {f : UlSlot → UlSlot}
    (hf : ∀ u, (f u).slot = u.slot) : (c.updUl slot f).ulSlot slot = some (f u) := by
  have hslot : u.slot = slot := by simpa using List.find?_some h
  have hkey : ((fun u : UlSlot => decide (u.slot = slot)) ∘ fun u => if u.slot = slot then f u else u) = fun u => decide (u.slot = slot) := by
    funext u
    by_cases hu : u.slot = slot <;> simp [hu, hf]
  rw [Cell.ulSlot] at h
  rw [Cell.ulSlot, Cell.updUl, List.find?_map, hkey, h, Option.map_some, if_pos hslot]

/-- A record of a slot takes the place of the one with its number. -/
def UlSlot.putRec (u : UlSlot) (r : UlRec) : UlSlot := { u with recs := u.recs.map fun x => if x.index = r.index then r else x }

theorem UlSlot.find_putRec {u : UlSlot} {r r' : UlRec} {pdu : Nat} (h : u.recs.find? (fun r => r.index = pdu) = some r)
    (hr : r'.index = r.index) : (u.putRec r').recs.find? (fun r => r.index = pdu) = some r' := by
  have hpdu : r.index = pdu := by simpa using List.find?_some h
  have hkey : ((fun x : UlRec => decide (x.index = pdu)) ∘ fun x => if x.index = r'.index then r' else x) = fun x => decide (x.index = pdu) := by
    funext x
    by_cases hx : x.index = pdu <;> simp [hx, hr, hpdu]
  rw [UlSlot.putRec, List.find?_map, hkey, h, Option.map_some, if_pos hr.symm]

theorem setNth_eq_set {α : Type} (l : List α) (i : Nat) (a : α) : setNth l i a = l.set i a := by
  induction l generalizing i with
  | nil => rfl
  | cons b l ih => cases i <;> simp [setNth, ih]

/-- A record with a code block in another condition. -/
def UlRec.putBlock (r : UlRec) (cb : Nat) (b : BlockPlace) : UlRec := { r with blocks := setNth r.blocks cb b }

theorem UlRec.putBlock_self {r : UlRec} {cb : Nat} {place : BlockPlace} (h : r.blocks[cb]? = some place) (b : BlockPlace) :
    (r.putBlock cb b).blocks[cb]? = some b := by
  obtain ⟨hlt, -⟩ := List.getElem?_eq_some_iff.mp h
  rw [UlRec.putBlock, setNth_eq_set, List.getElem?_set_self hlt]

theorem UlRec.putBlock_other (r : UlRec) {cb k : Nat} (b : BlockPlace) (h : k ≠ cb) : (r.putBlock cb b).blocks[k]? = r.blocks[k]? := by
  rw [UlRec.putBlock, setNth_eq_set, List.getElem?_set_ne h.symm]

/-- Whether every block of a record is decoded. -/
def UlRec.complete (r : UlRec) : Bool := r.blocks.all fun b => b.bits.isSome

/-- While another block waits, the record is not complete. -/
theorem UlRec.complete_putBlock_of_waiting {r : UlRec} {cb i : Nat} {b : BlockPlace} (made : BlockPlace) (hi : i ≠ cb)
    (hb : r.blocks[i]? = some b) (hn : b.bits = none) : (r.putBlock cb made).complete = false := by
  rw [UlRec.complete, List.all_eq_false]
  exact ⟨b, List.mem_of_getElem? ((r.putBlock_other made hi).trans hb), by simp [hn]⟩

/-- The record is complete with the last of its blocks. -/
theorem UlRec.complete_putBlock_of_last {r : UlRec} {cb : Nat} {place made : BlockPlace} (hp : r.blocks[cb]? = some place)
    (hm : made.bits.isSome = true) (h : ∀ i b, i ≠ cb → r.blocks[i]? = some b → b.bits.isSome = true) :
    (r.putBlock cb made).complete = true := by
  rw [UlRec.complete, List.all_eq_true]
  intro b hb
  obtain ⟨i, hi⟩ := List.mem_iff_getElem?.mp hb
  by_cases hcb : i = cb
  · subst hcb
    rw [UlRec.putBlock_self hp] at hi
    cases hi
    exact hm
  · exact h i b hcb ((r.putBlock_other made hcb).symm.trans hi)

/-! ### CODE_BLOCK_DECODED (09 R220-R228) -/

/-- The cell as the decoding of a block of a record finds it: the first block to be decoded begins the use of a soft buffer. -/
def Cell.blockBegins (c : Cell) (r : UlRec) (slot : Nat) : Cell := if r.blocks.all (fun b => b.bits.isNone) then c.harqBegin r.pdu slot else c

/-- The received codes of block cb, added to those that the soft buffer of a cell holds. -/
def combinedCodes (s : State) (k : Cell) (r : UlRec) (codes : List Int) (cb : Nat) : Tbl Int :=
  let sh := shapeOf r.pdu
  mergeCodes (decide (k.heldTop r.pdu cb = 0)) (sh.received r.pdu.rv (blockCodes r.pdu codes cb) r.pdu.qm)
    (match k.harqOf r.pdu.rnti r.pdu.harq with
      | some b => if k.heldTop r.pdu cb = 0 then [] else storedCodes s k b sh cb
      | none => [])

/-- One more than the highest position of block cb that holds a value once its codes are added. -/
def Cell.reachedTop (k : Cell) (r : UlRec) (cb : Nat) : Nat :=
  max (k.heldTop r.pdu cb) ((shapeOf r.pdu).reach r.pdu.rv (blockBitsOf r.pdu cb))

/-- Block cb decoded from the codes: its bits, its check and its syndrome. -/
def decodedBlock (s : State) (c k : Cell) (r : UlRec) (codes : List Int) (cb : Nat) (place : BlockPlace) : BlockPlace :=
  let sh := shapeOf r.pdu
  let rows := sh.rows (k.reachedTop r cb)
  let out := sh.decode (c.scale sh.bg (rateClass rows)) (decodeField s c 4 1) rows (sh.channel (combinedCodes s k r codes cb))
  { place with bits := some out.1, crcPassed := decide (sh.blocks = 1) || blockPasses out.1, syndromeZero := out.2 }

/-- The codes go back into the soft buffer, where the key has one. -/
def storeCodes (s : State) (k : Cell) (r : UlRec) (cb : Nat) (pos : Tbl Int) : State :=
  let sh := shapeOf r.pdu
  match k.harqOf r.pdu.rnti r.pdu.harq with
  | some b => hbmWrite s k.part (k.f 0x60 8 + b.offset + cb * sh.blockBytes) ((List.range sh.ncb).map fun i => BitVec.ofInt 8 (Tbl.get 0 pos i))
  | none => s

/-- The key's soft buffer holds block cb up to a position. -/
def Cell.raiseTop (k : Cell) (r : UlRec) (cb top : Nat) : Cell :=
  { k with harq := k.harq.map fun b => if b.rnti = r.pdu.rnti ∧ b.harq = r.pdu.harq then { b with top := setNth b.top cb top } else b }

/-- The state after block cb of a record has been decoded, before what follows when it was the last. -/
def blockDone (s : State) (ci slot : Nat) (k : Cell) (r r' : UlRec) (codes : List Int) (cb : Nat) : State :=
  putCell (storeCodes s k r cb (combinedCodes s k r codes cb)) ci
    ((k.raiseTop r cb (k.reachedTop r cb)).updUl slot fun u => u.putRec r')

theorem blockBegins_onlyBuffers (c : Cell) (r : UlRec) (slot : Nat) : OnlyBuffers c (c.blockBegins r slot) := by
  unfold Cell.blockBegins
  split
  · exact harqBegin_onlyBuffers ..
  · exact .refl c

theorem storeCodes_eq_hbmWrite_or (s : State) (k : Cell) (r : UlRec) (cb : Nat) (pos : Tbl Int) :
    (∃ p a bs, storeCodes s k r cb pos = hbmWrite s p a bs) ∨ storeCodes s k r cb pos = s := by
  unfold storeCodes
  dsimp only
  split
  · exact .inl ⟨_, _, _, rfl⟩
  · exact .inr rfl

@[simp] theorem storeCodes_host (s : State) (k : Cell) (r : UlRec) (cb : Nat) (pos : Tbl Int) : (storeCodes s k r cb pos).host = s.host := by
  rcases storeCodes_eq_hbmWrite_or s k r cb pos with ⟨p, a, bs, h⟩ | h <;> simp [h]

@[simp] theorem storeCodes_net (s : State) (k : Cell) (r : UlRec) (cb : Nat) (pos : Tbl Int) : (storeCodes s k r cb pos).net = s.net := by
  rcases storeCodes_eq_hbmWrite_or s k r cb pos with ⟨p, a, bs, h⟩ | h <;> simp [h]

@[simp] theorem getJob_storeCodes (s : State) (k : Cell) (r : UlRec) (cb : Nat) (pos : Tbl Int) (h : Nat) :
    getJob (storeCodes s k r cb pos) h = getJob s h := by
  rcases storeCodes_eq_hbmWrite_or s k r cb pos with ⟨p, a, bs, h⟩ | h <;> simp [h]

/-- The cell's job gives the fields of its DECODE record, and the configuration its scaling: neither depends on the soft buffers. -/
theorem decodeField_congr {s t : State} {c d : Cell} (hup : d.up = c.up) (hj : getJob t c.up = getJob s c.up) (off n : Nat) :
    decodeField t d off n = decodeField s c off n := by
  rw [decodeField, decodeField, hup, hj]

theorem scale_congr {c d : Cell} (h : d.config = c.config) : d.scale = c.scale := by
  funext bg cls it
  rw [Cell.scale, Cell.scale, h]

/-- The first transmission of a new transport block is not added to anything (R228). -/
theorem combinedCodes_of_new (s : State) (c : Cell) {r : UlRec} (slot : Nat) (codes : List Int) (cb : Nat)
    (hfirst : ∀ b ∈ r.blocks, b.bits = none) (hnew : r.pdu.newData = true) :
    combinedCodes s (c.blockBegins r slot) r codes cb =
      mergeCodes true ((shapeOf r.pdu).received r.pdu.rv (blockCodes r.pdu codes cb) r.pdu.qm) [] := by
  have hbegin : c.blockBegins r slot = c.harqTake r.pdu slot := by
    rw [Cell.blockBegins, if_pos (by simpa using hfirst), Cell.harqBegin, if_pos hnew]
  rw [combinedCodes, hbegin, heldTop_harqTake]
  simp only [decide_true, if_true]
  cases Cell.harqOf _ _ _ <;> rfl

section
variable {s : State} {ci slot pdu cb : Nat} {c : Cell} {u : UlSlot} {r : UlRec} {place : BlockPlace} (hc : getCell s ci = some c)
  (hu : c.ulSlot slot = some u) (hr : u.recs.find? (fun r => r.index = pdu) = some r) (hp : r.blocks[cb]? = some place)
include hc hu hr hp

theorem exec_codeBlockDecoded_of_waiting (h : place.bits.isSome = true ∨ r.llr = none) (check : ArrayCheck) :
    exec (.codeBlockDecoded ci slot pdu cb check) s = .next s := by
  show execCodeBlockDecoded ci slot pdu cb check s = _
  simp only [execCodeBlockDecoded, hc, hu, hr, hp, Option.bind_some, Option.map_some]
  cases hl : r.llr with
  | none => rfl
  | some codes => simp only [if_pos (h.resolve_right (by simp [hl]))]

variable {codes : List Int} (hl : r.llr = some codes) (hb : place.bits = none)
include hl hb

theorem exec_codeBlockDecoded_of_mismatch :
    exec (.codeBlockDecoded ci slot pdu cb .mismatch) s = .next (engineFails s 1 place.engine) := by
  show execCodeBlockDecoded ci slot pdu cb .mismatch s = _
  simp only [execCodeBlockDecoded, hc, hu, hr, hp, hl, hb, Option.bind_some, Option.map_some, Option.isSome_none, Bool.false_eq_true, if_false,
    if_true]

/-- A block that waits for nothing is decoded; the last one finishes its transport block. -/
theorem exec_codeBlockDecoded_of_ready {check : ArrayCheck} (h : check ≠ .mismatch) :
    exec (.codeBlockDecoded ci slot pdu cb check) s =
      (let k := c.blockBegins r slot
       let r' := r.putBlock cb (decodedBlock s c k r codes cb place)
       let w := blockDone s ci slot k r r' codes cb
       .next (if r'.complete then settleSlot (finishBlock w ci slot r') ci slot else w)) := by
  have hpdu : r.index = pdu := by simpa using List.find?_some hr
  subst hpdu
  -- `exec` reads the DECODE record and the scaling once the codes are stored, which changes neither.
  have hk := blockBegins_onlyBuffers c r slot
  have hfield := decodeField_congr (s := s) (c := c) (d := (c.blockBegins r slot).raiseTop r cb ((c.blockBegins r slot).reachedTop r cb))
    hk.up (getJob_storeCodes s (c.blockBegins r slot) r cb (combinedCodes s (c.blockBegins r slot) r codes cb) c.up) 4 1
  have hscale := scale_congr (c := c) (d := (c.blockBegins r slot).raiseTop r cb ((c.blockBegins r slot).reachedTop r cb)) hk.config
  show execCodeBlockDecoded ci slot r.index cb check s = _
  simp only [execCodeBlockDecoded, hc, hu, hr, hp, hl, hb, if_neg h, Option.bind_some, Option.map_some, Option.isSome_none, Bool.false_eq_true,
    if_false]
  unfold decodedBlock
  rw [← hfield, ← hscale, ← hl]
  rfl

end

/-- What a decoded block leaves in its cell, outside the soft buffers: the slot's record becomes another. -/
theorem blockDone_cell (s : State) (ci slot : Nat) {c k : Cell} (hk : OnlyBuffers c k) {u : UlSlot} (hu : c.ulSlot slot = some u)
    (r r' : UlRec) (codes : List Int) (cb : Nat) :
    ∃ d, getCell (blockDone s ci slot k r r' codes cb) ci = some d ∧ d.ulSlot slot = some (u.putRec r') ∧ d.rx = c.rx ∧
      d.scale = c.scale := by
  have hul : (k.raiseTop r cb (k.reachedTop r cb)).ulSlot slot = some u := by
    rw [← hu]
    exact congrArg (fun l : List UlSlot => l.find? fun u => u.slot = slot) hk.ul
  exact ⟨_, getCell_putCell_self .., Cell.ulSlot_updUl hul fun _ => rfl, hk.rx, scale_congr hk.config⟩

theorem blockDone_host (s : State) (ci slot : Nat) (k : Cell) (r r' : UlRec) (codes : List Int) (cb : Nat) :
    (blockDone s ci slot k r r' codes cb).host = s.host := by simp [blockDone]

theorem blockDone_net (s : State) (ci slot : Nat) (k : Cell) (r r' : UlRec) (codes : List Int) (cb : Nat) :
    (blockDone s ci slot k r r' codes cb).net = s.net := by simp [blockDone]

/-! ### POLAR_DECODED (09 R229) -/

/-- The payload of a PUCCH, and whether its check passed. -/
def polarPayload (k : Nat) (codes : List Int) : Bool × List Nat :=
  if k < 12 then (true, (List.range k).map fun i => b2n (bit (rmDecode k codes) i))
  else ((Config.polarDecode k codes).2, (Config.polarDecode k codes).1.map b2n)

/-- A PUCCH PDU of a slot is done, which may be the last that the slot owes. -/
def polarDone (s : State) (ci slot pdu : Nat) : State :=
  settleSlot (updCell s ci fun c => c.updUl slot fun u =>
    { u with polar := u.polar.map fun x => if x.index = pdu then { x with done := true } else x }) ci slot

section
variable {s : State} {ci slot pdu : Nat} {c : Cell} {u : UlSlot} {r : PolarRec} (hc : getCell s ci = some c) (hu : c.ulSlot slot = some u)
  (hr : u.polar.find? (fun r => r.index = pdu) = some r) {codes : List Int} {check : ArrayCheck}
include hc hu hr

theorem exec_polarDecoded_of_done (h : r.done = true) : exec (.polarDecoded ci slot pdu codes check) s = .next s := by
  show execPolarDecoded ci slot pdu codes check s = _
  simp only [execPolarDecoded, hc, hu, hr, h, Option.bind_some, Option.map_some, if_true]

theorem exec_polarDecoded_of_mismatch (h : r.done = false) :
    exec (.polarDecoded ci slot pdu codes .mismatch) s = .next (engineFails s 2 r.engine) := by
  show execPolarDecoded ci slot pdu codes .mismatch s = _
  simp only [execPolarDecoded, hc, hu, hr, h, Option.bind_some, Option.map_some, Bool.false_eq_true, if_false, if_true]

theorem exec_polarDecoded_of_payload (h : r.done = false) (hcheck : check ≠ .mismatch) : exec (.polarDecoded ci slot pdu codes check) s =
    .next (polarDone (sendFapi s ci (.uci u.sfn u.slotInFrame r.handle r.rnti (polarPayload r.bits codes).1 (polarPayload r.bits codes).2))
      ci slot pdu) := by
  show execPolarDecoded ci slot pdu codes check s = _
  simp only [execPolarDecoded, hc, hu, hr, h, if_neg hcheck, Option.bind_some, Option.map_some, Bool.false_eq_true, if_false]
  rfl

end

theorem polarPayload_of_short {k : Nat} (h : k < 12) (codes : List Int) :
    polarPayload k codes = (true, (List.range k).map fun i => b2n (bit (rmDecode k codes) i)) := if_pos h

theorem polarPayload_of_long {k : Nat} (h : 12 ≤ k) (codes : List Int) :
    polarPayload k codes = ((Config.polarDecode k codes).2, (Config.polarDecode k codes).1.map b2n) := if_neg (Nat.not_lt.mpr h)

end Sys2Proof.Machine
end

section
/-! The uplink of a cell: its statement, from the rules of the stations, the requests, the buffers and the blocks. -/

namespace Sys2Proof.Machine

/-- Settles O52: frames and symbols by the rules of their stations, requests by what every PDU keeps, code blocks by what a decoded block
leaves. -/
theorem uplinkTakesFramesRequestsAndBlocks : Obligations.UplinkTakesFramesRequestsAndBlocks := by
  unfold Obligations.UplinkTakesFramesRequestsAndBlocks
  intro s ci c hc
  refine ⟨fun mac vlan rx p => ⟨exec_uplaneFrame_of_down, exec_uplaneFrame_of_unknownVlan, exec_uplaneFrame_of_unknownEaxc,
      fun ref g a hup hv hentry => ⟨exec_uplaneFrame_of_bad hup hv hentry, exec_uplaneFrame_of_ok hup hv hentry⟩,
      fun g a e hup hv hentry he hbad => ?badOfCell⟩,
    fun ref g hg => ⟨fun a slot sym trx p => ⟨acceptFrame_of_other_slot hg, acceptFrame_of_early hg, acceptFrame_of_late hg,
      acceptFrame_of_inside hg⟩, fun slot sym => ⟨exec_symbolClose_of_kept hg, fun ht hs ho => ?closes⟩⟩,
    fun sfn slot pdus j hj => ⟨exec_ulTtiRequest_of_late hc hj, fun hair hfixed hnone => ?request⟩,
    fun slot pdu cb u r place hu hr hp => ⟨exec_codeBlockDecoded_of_waiting hc hu hr hp, fun codes hl hb =>
      ⟨exec_codeBlockDecoded_of_mismatch hc hu hr hp hl hb, fun check hcheck => ⟨?blockWaits, ?blockLast⟩⟩⟩,
    fun rnti harq => ⟨exec_harqAgeExpiry_of_none hc, fun b hb => ⟨fun hage => ?bufferKept, fun hage => ?bufferFreed⟩⟩,
    fun rnti => ⟨fun hx => exec_contextFree_of_young hc (by simp [hx]), fun x hx =>
      ⟨fun hage => exec_contextFree_of_young hc (by simpa [hx] using hage), fun hage => ?contextFreed⟩⟩,
    fun slot pdu codes check u r hu hr => ⟨exec_polarDecoded_of_done hc hu hr, exec_polarDecoded_of_mismatch hc hu hr,
      fun h hcheck hk => ?polarShort, fun h hcheck hk => ?polarLong⟩⟩
  case badOfCell =>
    obtain ⟨t, c', ht, hc', hrx, hslots⟩ := exec_uplaneFrame_of_bad_cell (rx := rx) hc hup hv hentry he hbad
    exact ⟨t, c', _, ht, hc', hrx, rfl, rfl, rfl, rfl, hslots⟩
  case closes =>
    have hslot := g.slotOf_close slot sym
    refine ⟨exec_symbolClose_of_open hg ht hs ho, ?_, by rw [hslot]; rfl, fun a e ha he => ⟨_, g.close_rx slot sym ha he, rfl, rfl⟩⟩
    rw [hslot]
    exact RxSlot.closing_closed _ hs
  case request =>
    have hfits := buildUplink_fits s c j (c.named (nowNs s) sfn slot) pdus
    exact ⟨exec_ulTtiRequest_of_first hc hj hair hfixed hnone, hfits.slot, hfits.pusch, hfits.prach, hfits.supported, hfits.layers⟩
  case blockWaits =>
    rintro ⟨i, b, hi, hbi, hbn⟩
    have hexec := exec_codeBlockDecoded_of_ready hc hu hr hp hl hb hcheck
    obtain ⟨d, hd, hslot, -, -⟩ := blockDone_cell s ci slot (blockBegins_onlyBuffers c r slot) hu r
      (r.putBlock cb (decodedBlock s c (c.blockBegins r slot) r codes cb place)) codes cb
    dsimp only at hexec
    rw [UlRec.complete_putBlock_of_waiting _ hi hbi hbn, if_neg Bool.false_ne_true] at hexec
    refine ⟨_, d, _, _, hexec, hd, hslot, UlSlot.find_putRec hr rfl, UlRec.putBlock_self hp _,
      fun k hk => r.putBlock_other _ hk, rfl, blockDone_host .., blockDone_net .., combinedCodes_of_new s c slot codes cb⟩
  case blockLast =>
    intro hothers
    have hexec := exec_codeBlockDecoded_of_ready hc hu hr hp hl hb hcheck
    obtain ⟨d, hd, -, hrx, hscale⟩ := blockDone_cell s ci slot (blockBegins_onlyBuffers c r slot) hu r
      (r.putBlock cb (decodedBlock s c (c.blockBegins r slot) r codes cb place)) codes cb
    dsimp only at hexec
    rw [UlRec.complete_putBlock_of_last hp rfl hothers, if_pos rfl] at hexec
    exact ⟨_, d, hexec, hd, hscale, hrx, blockDone_host .., blockDone_net ..⟩
  case bufferKept => rw [exec_harqAgeExpiry_of_held hc hb, if_pos hage]
  case bufferFreed =>
    rw [exec_harqAgeExpiry_of_held hc hb, if_neg (Nat.not_lt.mpr hage)]
    exact ⟨_, _, rfl, getCell_putCell_self .., c.harqOf_harqFree_self rnti harq, fun m n hmn => c.harqOf_harqFree_other hmn, rfl, rfl, rfl⟩
  case contextFreed =>
    exact ⟨_, _, exec_contextFree_of_old hc (by simpa [hx] using hage), getCell_putCell_self .., c.ctxOf_ctxFree_self rnti _,
      by simp [Cell.ctxFree], fun m hm => c.ctxOf_ctxFree_other _ hm, rfl⟩
  case polarShort =>
    rw [exec_polarDecoded_of_payload hc hu hr h hcheck, polarPayload_of_short hk]
    rfl
  case polarLong =>
    rw [exec_polarDecoded_of_payload hc hu hr h hcheck, polarPayload_of_long hk]
    rfl

end Sys2Proof.Machine
end

section
/-! Requests for a downlink slot: what keeps a PDU, and what a request that comes late or in time does (09 R232-R234, R239). -/

namespace Sys2Proof.Machine

/-! ### The PDUs that are kept (R232, R233) -/

/-- One PDU more adds its layers on the resource blocks that it names. -/
theorem dlLayers_append (ps : List DlPdu) (p : DlPdu) (rb : Nat) :
    dlLayers (ps ++ [p]) rb = dlLayers ps rb + if p.type = 1 ∧ rb ∈ p.rbs then p.layers else 0 := by
  by_cases h : p.type = 1 ∧ rb ∈ p.rbs <;> simp [dlLayers, sumNat, List.filter_append, List.foldl_append, h]

/-- Whether a PDU is kept beside those kept before it. -/
def Cell.dlFits (c : Cell) (kept : List DlPdu) (p : DlPdu) : Bool :=
  dlOk c p && (p.type ≠ 1 || p.rbs.all fun rb => decide (dlLayers kept rb + p.layers ≤ 8))

theorem Cell.dlFits_iff {c : Cell} {kept : List DlPdu} {p : DlPdu} :
    c.dlFits kept p = true ↔ dlOk c p = true ∧ (p.type = 1 → ∀ rb ∈ p.rbs, dlLayers kept rb + p.layers ≤ 8) := by
  simp [Cell.dlFits, imp_iff_not_or]

theorem keepDl_append (c : Cell) (pdus : List DlPdu) (p : DlPdu) : keepDl c (pdus ++ [p]) =
    if c.dlFits (keepDl c pdus).1 p then ((keepDl c pdus).1 ++ [p], (keepDl c pdus).2) else ((keepDl c pdus).1, true) := by
  rw [keepDl, List.foldl_append]
  rfl

theorem keepDl_sublist (c : Cell) (pdus : List DlPdu) : (keepDl c pdus).1.Sublist pdus := by
  induction pdus using List.reverseRecOn with
  | nil => exact List.Sublist.refl _
  | append_singleton pdus p ih =>
    rw [keepDl_append]
    split
    · exact ih.append (List.Sublist.refl _)
    · exact ih.trans (List.sublist_append_left ..)

theorem keepDl_supported (c : Cell) (pdus : List DlPdu) : ∀ p ∈ (keepDl c pdus).1, dlOk c p = true := by
  induction pdus using List.reverseRecOn with
  | nil => exact fun p hp => absurd hp List.not_mem_nil
  | append_singleton pdus p ih =>
    rw [keepDl_append]
    split
    case isTrue hfits =>
      intro x hx
      rcases List.mem_append.mp hx with hx | hx
      · exact ih x hx
      · exact List.mem_singleton.mp hx ▸ (Cell.dlFits_iff.mp hfits).1
    case isFalse => exact ih

theorem keepDl_layers (c : Cell) (pdus : List DlPdu) (rb : Nat) : dlLayers (keepDl c pdus).1 rb ≤ 8 := by
  induction pdus using List.reverseRecOn with
  | nil => exact Nat.zero_le 8
  | append_singleton pdus p ih =>
    rw [keepDl_append]
    split
    case isTrue hfits =>
      rw [dlLayers_append]
      split
      case isTrue hrb => exact (Cell.dlFits_iff.mp hfits).2 hrb.1 rb hrb.2
      case isFalse => exact ih
    case isFalse => exact ih

/-- None is removed exactly when all are kept. -/
theorem keepDl_removed_iff (c : Cell) (pdus : List DlPdu) : (keepDl c pdus).2 = false ↔ (keepDl c pdus).1 = pdus := by
  induction pdus using List.reverseRecOn with
  | nil => exact ⟨fun _ => rfl, fun _ => rfl⟩
  | append_singleton pdus p ih =>
    rw [keepDl_append]
    split
    · rw [ih, List.append_left_inj]
    · have hshort := (keepDl_sublist c pdus).length_le
      refine iff_of_false nofun fun h => ?_
      have hlen := congrArg List.length h
      rw [List.length_append, List.length_singleton] at hlen
      dsimp only at hlen
      omega

/-! ### Requests (R234) -/

theorem Cell.dlInTime_eq_false_iff {c : Cell} {now n : Nat} :
    c.dlInTime now n = false ↔ n = 0 ∨ (now : Int) + 40000 > c.airStart (n - 1) ∨ (c.dlSlot n).built = true := by
  simp only [Cell.dlInTime, Bool.and_eq_false_iff, decide_eq_false_iff_not, Bool.not_eq_false', or_assoc, not_le, Nat.lt_one_iff, gt_iff_lt]

theorem Cell.dlInTime_of {c : Cell} {now n : Nat} (hn : 1 ≤ n) (ht : (now : Int) + 40000 ≤ c.airStart (n - 1))
    (hb : (c.dlSlot n).built = false) : c.dlInTime now n = true := by
  simp [Cell.dlInTime, hn, ht, hb]

/-- What a request that is taken leaves: the slot with what it brings, and ERROR.indication when a part of it was removed. -/
def dlTaken (s : State) (ci : Nat) (c : Cell) (sfn slot id : Nat) (r : DlSlot × Bool) : State :=
  if r.2 then fapiError (putCell s ci (c.putDl r.1)) ci sfn slot id errConfig else putCell s ci (c.putDl r.1)

/-- Whether a payload is inline, or aligned inside the transmit region (R239). -/
def Cell.txOk (c : Cell) (e : TxEntry) : Bool :=
  e.tag = 0 || (e.tag = 1 && aligned e.address 64 && decide (c.f 0x70 8 ≤ e.address)
    && decide (e.address + e.length ≤ c.f 0x70 8 + c.f 0x8C 4))

theorem Cell.txOk_iff {c : Cell} {e : TxEntry} : c.txOk e = true ↔
    e.tag = 0 ∨ (e.tag = 1 ∧ aligned e.address 64 = true ∧ c.f 0x70 8 ≤ e.address ∧ e.address + e.length ≤ c.f 0x70 8 + c.f 0x8C 4) := by
  simp [Cell.txOk, and_assoc]

section
variable {s : State} {ci : Nat} {c : Cell} (hc : getCell s ci = some c) {sfn slot : Nat}
include hc

theorem dlRequest_of_refused {id : Nat} {taken : DlSlot → Bool} {act : Cell → DlSlot → DlSlot × Bool}
    (h : c.dlInTime (nowNs s) (c.named (nowNs s) sfn slot) = false ∨ taken (c.dlSlot (c.named (nowNs s) sfn slot)) = true) :
    dlRequest s ci sfn slot id taken act = fapiError s ci sfn slot id errSlot := by
  simp only [dlRequest, hc, Bool.not_eq_true', if_pos h]

theorem dlRequest_of_taken {id : Nat} {taken : DlSlot → Bool} {act : Cell → DlSlot → DlSlot × Bool}
    (h : c.dlInTime (nowNs s) (c.named (nowNs s) sfn slot) = true) (ht : taken (c.dlSlot (c.named (nowNs s) sfn slot)) = false) :
    dlRequest s ci sfn slot id taken act = dlTaken s ci c sfn slot id (act c (c.dlSlot (c.named (nowNs s) sfn slot))) := by
  simp only [dlRequest, hc, h, ht, Bool.not_true, Bool.false_eq_true, or_self, if_false]
  rfl

theorem exec_dlTtiRequest_of_refused {pdus : List DlPdu} (h : c.dlInTime (nowNs s) (c.named (nowNs s) sfn slot) = false ∨
    (c.dlSlot (c.named (nowNs s) sfn slot)).given = true) :
    exec (.dlTtiRequest ci sfn slot pdus) s = .next (fapiError s ci sfn slot 0x80 errSlot) :=
  congrArg Host.Outcome.next (dlRequest_of_refused hc h)

theorem exec_ulDciRequest_of_late {pdus : List DlPdu} (h : c.dlInTime (nowNs s) (c.named (nowNs s) sfn slot) = false) :
    exec (.ulDciRequest ci sfn slot pdus) s = .next (fapiError s ci sfn slot 0x83 errSlot) :=
  congrArg Host.Outcome.next (dlRequest_of_refused hc (.inl h))

theorem exec_txDataRequest_of_late {es : List TxEntry} (h : c.dlInTime (nowNs s) (c.named (nowNs s) sfn slot) = false) :
    exec (.txDataRequest ci sfn slot es) s = .next (fapiError s ci sfn slot 0x84 errSlot) :=
  congrArg Host.Outcome.next (dlRequest_of_refused hc (.inl h))

variable (h : c.dlInTime (nowNs s) (c.named (nowNs s) sfn slot) = true)
include h

theorem exec_dlTtiRequest_of_first {pdus : List DlPdu} (hg : (c.dlSlot (c.named (nowNs s) sfn slot)).given = false) :
    exec (.dlTtiRequest ci sfn slot pdus) s = .next (dlTaken s ci c sfn slot 0x80
      ({ c.dlSlot (c.named (nowNs s) sfn slot) with pdus := (keepDl c pdus).1, given := true }, (keepDl c pdus).2)) :=
  congrArg Host.Outcome.next (dlRequest_of_taken hc h hg)

theorem exec_ulDciRequest_of_inTime {pdus : List DlPdu} : exec (.ulDciRequest ci sfn slot pdus) s =
    (let d := c.dlSlot (c.named (nowNs s) sfn slot)
     let ok := pdus.filter fun p => p.type = 0 && dlOk c p
     .next (dlTaken s ci c sfn slot 0x83 ({ d with dci := d.dci ++ ok }, decide (ok.length ≠ pdus.length)))) :=
  congrArg Host.Outcome.next (dlRequest_of_taken hc h rfl)

theorem exec_txDataRequest_of_inTime {es : List TxEntry} : exec (.txDataRequest ci sfn slot es) s =
    (let d := c.dlSlot (c.named (nowNs s) sfn slot)
     let ok := es.filter c.txOk
     .next (dlTaken s ci c sfn slot 0x84 ({ d with tx := d.tx ++ ok }, decide (ok.length ≠ es.length)))) :=
  congrArg Host.Outcome.next (dlRequest_of_taken hc h rfl)

end

/-! ### SLOT.indication (R234) -/

section
variable {s : State} {ci : Nat} {c : Cell} (hc : getCell s ci = some c) (slot : Nat)
include hc

theorem exec_slotIndication_of_started (hstart : c.starting = none) (hstop : c.stopping = none) :
    exec (.slotIndication ci slot) s = .next (sendFapi s ci (.slot (c.sfn slot) (c.inFrame slot))) := by
  show execSlotIndication ci slot s = _
  simp [execSlotIndication, hc, hstart, hstop]

theorem exec_slotIndication_of_changing (h : c.starting.isSome = true ∨ c.stopping.isSome = true) :
    exec (.slotIndication ci slot) s = .next s := by
  show execSlotIndication ci slot s = _
  simp only [execSlotIndication, hc, if_pos h]

end

end Sys2Proof.Machine
end

section
/-! Code blocks of a downlink slot, which the windows of a coding engine hold (09 R226, R227, R230, R231). -/

namespace Sys2Proof.Machine

/-- The kind of engine that encodes a PDU: LE for a PDSCH, PL for a PDCCH or PBCH. -/
def encoderKind (p : DlPdu) : Nat := if p.type = 1 then 3 else 2

/-- Whether a window of the engine holds a block of a PDU. -/
def Job.holdsBlock (j : Job) (p : DlPdu) (cb engine : Nat) : Bool :=
  j.windows.any fun w => w.1 = (encoderKind p) ∧ w.2.1 = engine ∧ dlBlockCycles p cb ≤ w.2.2.2

theorem Job.holdsBlock_iff {j : Job} {p : DlPdu} {cb engine : Nat} : j.holdsBlock p cb engine = true ↔
    ∃ w ∈ j.windows, w.1 = (encoderKind p) ∧ w.2.1 = engine ∧ dlBlockCycles p cb ≤ w.2.2.2 := by
  simp only [Job.holdsBlock, List.any_eq_true, decide_eq_true_eq]

/-- Windows that are all too short for a block do not hold it. -/
theorem Job.holdsBlock_eq_false {j : Job} {p : DlPdu} {cb engine : Nat}
    (h : ∀ w ∈ j.windows, w.1 = (encoderKind p) → w.2.1 = engine → w.2.2.2 < dlBlockCycles p cb) : j.holdsBlock p cb engine = false := by
  rw [Bool.eq_false_iff, ne_eq, Job.holdsBlock_iff]
  rintro ⟨w, hw, hkind, hengine, hlong⟩
  exact absurd (h w hw hkind hengine) (Nat.not_lt.mpr hlong)

/-- The coded bits of a block are written in the slot's tile, and the block counts as encoded. -/
def blockEncoded (s : State) (ci : Nat) (c : Cell) (j : Job) (slot pdu cb : Nat) (p : DlPdu) : State :=
  let out := Config.codedBlock p (dlPayload s c (c.dlSlot slot) p) cb
  updCell (onTile s j (encodeField s c 2 2) (slot - c.firstDown) fun a m => Mem.writeBytes m (a + out.1) out.2) ci
    fun c' => c'.putDl { c.dlSlot slot with encoded := (c.dlSlot slot).encoded ++ [(pdu, cb)] }

section
variable {s : State} {ci slot pdu cb engine : Nat} {c : Cell} (hc : getCell s ci = some c)
include hc

theorem exec_codeBlockEncoded_of_kept {check : ArrayCheck} (h : (c.dlSlot slot).built = false ∨ (pdu, cb) ∈ (c.dlSlot slot).encoded) :
    exec (.codeBlockEncoded ci slot pdu cb engine check) s = .next s := by
  show execCodeBlockEncoded ci slot pdu cb engine check s = _
  simp only [execCodeBlockEncoded, hc]
  rcases h with hb | he
  · simp only [hb, Bool.false_eq_true, if_false]
  · split
    · rw [if_pos (.inr (.inl he))]
    · rfl

variable {p : DlPdu} {j : Job} (hb : (c.dlSlot slot).built = true) (hp : (c.dlSlot slot).all[pdu]? = some p)
  (hj : getJob s c.down = some j) (hcb : cb < dlBlocks p) (hnew : (pdu, cb) ∉ (c.dlSlot slot).encoded)
include hb hp hj hcb hnew

/-- A block that waits is encoded, or its engine fails, where a window holds it. -/
theorem exec_codeBlockEncoded_of_waiting (check : ArrayCheck) : exec (.codeBlockEncoded ci slot pdu cb engine check) s =
    .next (if j.holdsBlock p cb engine then
      (if check = .mismatch then engineFails s (encoderKind p) engine else postEncoded (blockEncoded s ci c j slot pdu cb p) ci slot)
      else s) := by
  show execCodeBlockEncoded ci slot pdu cb engine check s = _
  simp only [execCodeBlockEncoded, hc, if_pos hb, hp, hj, Nat.not_le.mpr hcb, hnew, false_or]
  change Host.Outcome.next (if (!j.holdsBlock p cb engine) = true then s else _) = _
  cases j.holdsBlock p cb engine <;> rfl

theorem exec_codeBlockEncoded_of_outside (h : j.holdsBlock p cb engine = false) (check : ArrayCheck) :
    exec (.codeBlockEncoded ci slot pdu cb engine check) s = .next s := by
  rw [exec_codeBlockEncoded_of_waiting hc hb hp hj hcb hnew, h, if_neg Bool.false_ne_true]

theorem exec_codeBlockEncoded_of_mismatch (h : j.holdsBlock p cb engine = true) :
    exec (.codeBlockEncoded ci slot pdu cb engine .mismatch) s = .next (engineFails s (encoderKind p) engine) := by
  rw [exec_codeBlockEncoded_of_waiting hc hb hp hj hcb hnew, if_pos h, if_pos rfl]

theorem exec_codeBlockEncoded_of_held (h : j.holdsBlock p cb engine = true) {check : ArrayCheck} (hcheck : check ≠ .mismatch) :
    exec (.codeBlockEncoded ci slot pdu cb engine check) s = .next (postEncoded (blockEncoded s ci c j slot pdu cb p) ci slot) := by
  rw [exec_codeBlockEncoded_of_waiting hc hb hp hj hcb hnew, if_pos h, if_neg hcheck]

end

end Sys2Proof.Machine
end

section
/-! EGRESS: symbols that leave or are late (09 R235-R237). -/

namespace Sys2Proof.Machine

/-- The last instant, in 1/96 ns, at which a symbol's tile may be posted for its frames to leave (R237). -/
def Cell.departs (c : Cell) (s : State) (slot sym : Nat) : Int := c.symStart slot sym - (egressField s c 0x0C 4 + 2000 : Nat) * 96

/-- The cell whose symbol is not sent: every entry counts TX_LATE, and the cell DEADLINE_MISS. -/
def Cell.missSymbol (c : Cell) : Cell :=
  { c with tx := c.tx.map (fun x => { x with late := satInc x.late 1 }), deadlineMiss := satInc c.deadlineMiss 1 }

/-- The cell without the post of a tile. -/
def Cell.delPost (c : Cell) (tile : Nat) : Cell := { c with symPosts := Tbl.del c.symPosts tile }

/-- The cell with a tile more that its job has not posted in time. -/
def Cell.addLate (c : Cell) (tile : Nat) : Cell := { c with lateTiles := c.lateTiles ++ [tile] }

/-- The event and the charge of a symbol of a slot that is not sent. -/
def reportMiss (w : State) (now : Nat) (c : Cell) (slot : Nat) (limit : Int) : State :=
  chargeJob (partEvent w c.part 0x0380 64 (leBytes 4 c.down ++ leBytes 1 1 ++ leBytes 3 0 ++ leBytes 4 (slot - c.firstDown) ++
    leBytes 4 (min ((now : Int) - limit / 96).toNat (2 ^ 32 - 1)) ++ leBytes 1 0xFF)) c.down { Ledger.none with deadlineMiss := 1 }

/-- The job's EGRESS station consumes a symbol tile. -/
def tileConsumed (w : State) (c : Cell) (j : Job) : State := postConsumed w c.down (paramOf j.image 11 0x0A 2) (sourceCode 4 c.port)

theorem updCell_of_some {s : State} {ci : Nat} {c : Cell} (hc : getCell s ci = some c) (f : Cell → Cell) :
    updCell s ci f = putCell s ci (f c) := by
  simp only [updCell, hc]

theorem putCell_putCell (s : State) (ci : Nat) (c d : Cell) : putCell (putCell s ci c) ci d = putCell s ci d := by
  simp [putCell]

/-- A symbol of a slot of a job that runs is one that departs. -/
theorem departure_in_run {first slot sym : Nat} {j : Job} (hrun : j.run.isSome = true) (hslot : first ≤ slot) (hsym : sym < 14) :
    ¬ (slot < first ∨ 14 ≤ sym ∨ j.run.isNone = true) := by
  rw [Option.isNone_eq_false_iff.mpr hrun]
  simp [hslot, hsym]

theorem txLate_eq {s : State} {ci : Nat} {x : Cell} (hx : getCell s ci = some x) (c : Cell) (slot : Nat) (limit : Int) :
    execSymbolDeparture.txLate s ci c slot limit = reportMiss (putCell s ci x.missSymbol) (nowNs s) c slot limit := by
  simp only [execSymbolDeparture.txLate, updCell_of_some hx]
  rfl

section
variable {s : State} {ci slot sym : Nat} {c : Cell} {j : Job} (hc : getCell s ci = some c) (hj : getJob s c.down = some j)
  (hrun : j.run.isSome = true) (hslot : c.firstDown ≤ slot) (hsym : sym < 14)
include hc hj hrun hslot hsym

/-- A posted tile is consumed: its symbol is late, sent, or not a downlink symbol. -/
theorem exec_symbolDeparture_of_posted {at_ : Nat} (hpost : Tbl.find c.symPosts (c.symTile slot sym) = some at_) :
    exec (.symbolDeparture ci slot sym) s = .next (tileConsumed
      (if c.departs s slot sym < ((at_ * 96 : Nat) : Int) ∧ bit (c.pattern slot).2 sym = true then
        reportMiss (putCell s ci (c.delPost (c.symTile slot sym)).missSymbol) (nowNs s) c slot (c.departs s slot sym)
      else if bit (c.pattern slot).2 sym then sendSymbol (putCell s ci (c.delPost (c.symTile slot sym))) ci c j slot sym
      else putCell s ci (c.delPost (c.symTile slot sym))) c j) := by
  show execSymbolDeparture ci slot sym s = _
  simp only [execSymbolDeparture, hc, hj, if_neg (departure_in_run hrun hslot hsym), hpost, updCell_of_some hc,
    txLate_eq (getCell_putCell_self ..), putCell_putCell, decide_eq_true_eq]
  rfl

theorem exec_symbolDeparture_of_unposted (hpost : Tbl.find c.symPosts (c.symTile slot sym) = none) :
    exec (.symbolDeparture ci slot sym) s =
      .next (if bit (c.pattern slot).2 sym then
          reportMiss (putCell s ci (c.addLate (c.symTile slot sym)).missSymbol) (nowNs s) c slot (c.departs s slot sym)
        else putCell s ci (c.addLate (c.symTile slot sym))) := by
  show execSymbolDeparture ci slot sym s = _
  simp only [execSymbolDeparture, hc, hj, if_neg (departure_in_run hrun hslot hsym), hpost, updCell_of_some hc,
    txLate_eq (getCell_putCell_self ..), putCell_putCell]
  rfl

end

end Sys2Proof.Machine
end

section
/-! The C-plane of a cell: each message goes out once and is counted by the entry that it is for (09 R236, 08 R181). -/

namespace Sys2Proof.Machine

/-! ### Frames of the fronthaul -/

@[simp] theorem getCell_sendFronthaul (s : State) (c : Cell) (what : String) (p : List Byte) (ci : Nat) :
    getCell (sendFronthaul s c what p) ci = getCell s ci := by
  rw [getCell, sendFronthaul, chargeJob_radio]
  rfl

@[simp] theorem sendFronthaul_host (s : State) (c : Cell) (what : String) (p : List Byte) : (sendFronthaul s c what p).host = s.host := by
  rw [sendFronthaul, chargeJob_host]
  rfl

@[simp] theorem sendFronthaul_sent_length (s : State) (c : Cell) (what : String) (p : List Byte) :
    (sendFronthaul s c what p).sent.length = s.sent.length + 1 := by
  rw [sendFronthaul, chargeJob_sent]
  exact List.length_append

/-! ### Entries that count their messages -/

/-- An entry after one C-plane message more. -/
def EaxcTx.cplane (x : EaxcTx) : EaxcTx := { x with frames := satInc x.frames 1, cseq := x.cseq + 1 }

/-- Messages move an entry's C-plane sequence number alone, besides their count. -/
theorem EaxcTx.cplane_iterate (x : EaxcTx) (n : Nat) : (EaxcTx.cplane^[n] x).id = x.id ∧ (EaxcTx.cplane^[n] x).seq = x.seq ∧
    (EaxcTx.cplane^[n] x).cseq = x.cseq + BitVec.ofNat 8 n := by
  induction n with
  | zero => simp
  | succ n ih =>
    obtain ⟨hid, hseq, hcseq⟩ := ih
    rw [Function.iterate_succ_apply']
    refine ⟨hid, hseq, ?_⟩
    show (EaxcTx.cplane^[n] x).cseq + 1 = _
    rw [hcseq, BitVec.add_assoc, BitVec.ofNat_add]
    rfl

theorem modNth_getElem? {α : Type} (l : List α) (i k : Nat) (f : α → α) : (modNth l i f)[k]? = if k = i then (l[k]?).map f else l[k]? := by
  by_cases h : k = i <;> simp [modNth, h]

theorem modNth_iterate {α : Type} (l : List α) (i n : Nat) (f : α → α) : (fun l => modNth l i f)^[n] l = modNth l i f^[n] := by
  induction n with
  | zero => exact List.ext_getElem? fun k => by simp [modNth_getElem?]
  | succ n ih =>
    rw [Function.iterate_succ_apply', ih]
    simp only [modNth, List.mapIdx_mapIdx]
    congr 1
    funext k a
    by_cases h : k = i <;> simp [h, Function.iterate_succ_apply']

/-- Every element of a list is changed by the function that the other list gives for its place. -/
def modEach {α β : Type} (f : α → β → β) (l : List α) (t : List β) : List β := l.zipIdx.foldl (fun t e => modNth t e.2 (f e.1)) t

theorem modEach_append {α β : Type} (f : α → β → β) (l : List α) (x : α) (t : List β) :
    modEach f (l ++ [x]) t = modNth (modEach f l t) l.length (f x) := by
  simp [modEach, List.zipIdx_append, List.foldl_append]

theorem modEach_getElem? {α β : Type} (f : α → β → β) (l : List α) (t : List β) (i : Nat) :
    (modEach f l t)[i]? = (t[i]?).map fun y => (l[i]?).elim y (f · y) := by
  induction l using List.reverseRecOn with
  | nil => simp [modEach]
  | append_singleton l x ih =>
    rw [modEach_append, modNth_getElem?, ih]
    rcases lt_trichotomy i l.length with h | rfl | h
    · rw [if_neg h.ne, List.getElem?_append_left h]
    · simp
    · rw [if_neg h.ne', List.getElem?_eq_none h.le, List.getElem?_eq_none (l := l ++ [x]) (by simpa using h)]

theorem modEach_length {α β : Type} (f : α → β → β) (l : List α) (t : List β) : (modEach f l t).length = t.length := by
  induction l using List.reverseRecOn with
  | nil => rfl
  | append_singleton l x ih => rw [modEach_append, modNth_length, ih]

theorem modEach_self {α : Type} (f : α → α) (l : List α) : modEach (fun _ => f) l l = l.map f := by
  apply List.ext_getElem?
  intro i
  rw [modEach_getElem?, List.getElem?_map]
  cases l[i]? <;> rfl

/-! ### Downlink C-plane (R236) -/

/-- The cell is `c` but for its entries of downlink streams. -/
def HasTx (ci : Nat) (c : Cell) (w : State) (tx : List EaxcTx) : Prop := getCell w ci = some { c with tx := tx }

/-- A message of an entry is counted there. -/
theorem HasTx.message {ci : Nat} {c : Cell} {w : State} {tx : List EaxcTx} (h : HasTx ci c w tx) (d : Cell) (a : Nat) (what : String)
    (p : List Byte) : HasTx ci c (updCell (sendFronthaul w d what p) ci fun c => { c with tx := modNth c.tx a EaxcTx.cplane })
      (modNth tx a EaxcTx.cplane) := by
  rw [HasTx, getCell_updCell_self, getCell_sendFronthaul, h]
  rfl

/-- Messages of an entry, each of which is counted there. -/
theorem HasTx.messages {ci : Nat} {c : Cell} {w : State} {tx : List EaxcTx} (h : HasTx ci c w tx) {a : Nat} {f : State → Nat → State}
    (hf : ∀ w tx k, HasTx ci c w tx → HasTx ci c (f w k) (modNth tx a EaxcTx.cplane)) (l : List Nat) :
    HasTx ci c (l.foldl f w) (modNth tx a EaxcTx.cplane^[l.length]) := by
  rw [← modNth_iterate, ← List.foldl_const]
  exact List.foldl_rel h fun k _ w tx hw => hf w tx k hw

/-- The first symbols of the sections of a slot for an entry: each takes one message. -/
def Cell.dlMessages (c : Cell) (slot : Nat) (e : EaxcTx) : List Nat := dedup ((dlSections c (c.dlSlot slot) e).map fun x => x.1)

/-- The cell whose entries have sent the downlink C-plane of a slot. -/
def Cell.dlCplane (c : Cell) (slot : Nat) : Cell :=
  { c with tx := modEach (fun e => EaxcTx.cplane^[(c.dlMessages slot e).length]) c.tx c.tx }

theorem Cell.dlCplane_entry (c : Cell) (slot : Nat) {a : Nat} {e : EaxcTx} (h : c.tx[a]? = some e) :
    (c.dlCplane slot).tx[a]? = some (EaxcTx.cplane^[(c.dlMessages slot e).length] e) := by
  rw [Cell.dlCplane, modEach_getElem?, h]
  rfl

theorem Cell.dlCplane_length (c : Cell) (slot : Nat) : (c.dlCplane slot).tx.length = c.tx.length := by
  rw [Cell.dlCplane, modEach_length]

/-- An empty slot has no sections. -/
theorem Cell.dlMessages_of_empty {c : Cell} {slot : Nat} (h : (c.dlSlot slot).all = []) (e : EaxcTx) : c.dlMessages slot e = [] := by
  simp [Cell.dlMessages, dlSections, h, dedup]

section
variable {s : State} {ci : Nat} {c : Cell} (hc : getCell s ci = some c) {slot : Nat}
include hc

theorem exec_dlCplaneSend_of_unbuilt (h : (c.dlSlot slot).built = false) : exec (.dlCplaneSend ci slot) s = .next s := by
  show execDlCplaneSend ci slot s = _
  simp only [execDlCplaneSend, hc, h, Bool.not_false, if_true]

theorem exec_dlCplaneSend_of_empty (h : (c.dlSlot slot).all = []) : exec (.dlCplaneSend ci slot) s = .next s := by
  have hnone := Cell.dlMessages_of_empty h
  unfold Cell.dlMessages at hnone
  show execDlCplaneSend ci slot s = _
  simp only [execDlCplaneSend, hc, hnone, List.foldl_nil, List.foldl_fixed, ite_self]

theorem exec_dlCplaneSend_of_built (h : (c.dlSlot slot).built = true) :
    ∃ t, exec (.dlCplaneSend ci slot) s = .next t ∧ getCell t ci = some (c.dlCplane slot) := by
  show ∃ t, execDlCplaneSend ci slot s = .next t ∧ HasTx ci c t (modEach _ c.tx c.tx)
  simp only [execDlCplaneSend, hc, h, Bool.not_true, Bool.false_eq_true, if_false]
  exact ⟨_, rfl, List.foldl_rel hc fun e _ w tx hw => hw.messages (fun w tx k hk => hk.message c e.2 "cplane" _) _⟩

end

/-! ### Uplink C-plane (R236, 08 R181) -/

/-- The state after the uplink C-plane messages of the first entries: one for each, and nothing written to a till. -/
structure UlSent (s : State) (ci : Nat) (c : Cell) (l : List EaxcTx) (w : State) : Prop where
  cell : getCell w ci = some { c with ulTx := modEach (fun _ => EaxcTx.cplane) l c.ulTx }
  sent : w.sent.length = s.sent.length + l.length
  host : w.host = s.host

/-- The next entry's message. -/
theorem UlSent.message {s w : State} {ci : Nat} {c : Cell} {l : List EaxcTx} (h : UlSent s ci c l w) (e : EaxcTx) (d : Cell) (what : String)
    (p : List Byte) :
    UlSent s ci c (l ++ [e]) (updCell (sendFronthaul w d what p) ci fun c => { c with ulTx := modNth c.ulTx l.length EaxcTx.cplane }) := by
  refine ⟨?_, ?_, ?_⟩
  · rw [getCell_updCell_self, getCell_sendFronthaul, h.cell, modEach_append]
    rfl
  · rw [updCell_sent, sendFronthaul_sent_length, h.sent, List.length_append, List.length_singleton, Nat.add_assoc]
  · rw [updCell_host, sendFronthaul_host, h.host]

/-- Messages of entries in turn. -/
theorem UlSent.messages {s : State} {ci : Nat} {c : Cell} (hc : getCell s ci = some c) {f : State → EaxcTx × Nat → State}
    (hf : ∀ w l e, UlSent s ci c l w → UlSent s ci c (l ++ [e]) (f w (e, l.length))) (l : List EaxcTx) :
    UlSent s ci c l (l.zipIdx.foldl f s) := by
  induction l using List.reverseRecOn with
  | nil => exact ⟨hc, rfl, rfl⟩
  | append_singleton l e ih =>
    rw [List.zipIdx_append, List.foldl_append]
    simpa using hf _ l e ih

section
variable {s : State} {ci : Nat} {c : Cell} (hc : getCell s ci = some c) {slot sym : Nat}
include hc

theorem exec_ulCplaneSend_of_none
    (h : 14 ≤ sym ∨ bit (c.pattern slot).1 sym = false ∨ ((getJob s c.down).bind Job.run).isNone = true) :
    exec (.ulCplaneSend ci slot sym) s = .next s := by
  show execUlCplaneSend ci slot sym s = _
  simp only [execUlCplaneSend, hc, Bool.not_eq_true', if_pos h]

theorem exec_ulCplaneSend_of_uplink (hsym : sym < 14) (hup : bit (c.pattern slot).1 sym = true)
    (hrun : ((getJob s c.down).bind Job.run).isSome = true) :
    ∃ t, exec (.ulCplaneSend ci slot sym) s = .next t ∧ UlSent s ci c c.ulTx t := by
  show ∃ t, execUlCplaneSend ci slot sym s = .next t ∧ _
  simp only [execUlCplaneSend, hc, hup, Option.isNone_eq_false_iff.mpr hrun, Nat.not_le.mpr hsym, Bool.not_true, Bool.false_eq_true, or_self,
    if_false]
  refine ⟨_, rfl, UlSent.messages hc (fun w l e h => ?_) _⟩
  dsimp only
  split <;> exact h.message e c "cplane" _

end

end Sys2Proof.Machine
end

section
/-! The downlink of a cell: its statement, from the rules of the requests, the blocks, the symbols and the C-plane. -/

namespace Sys2Proof.Machine

/-- Settles O53: requests by what keeps a PDU, code blocks by the window that holds them, symbols by the post of their tile, and the C-plane
by the entries that count its messages. -/
theorem downlinkTakesRequestsEncodesAndSends : Obligations.DownlinkTakesRequestsEncodesAndSends := by
  unfold Obligations.DownlinkTakesRequestsEncodesAndSends
  intro s ci c hc
  refine ⟨fun sfn slot pdus es => ⟨fun hlate => ?late, fun hgiven => exec_dlTtiRequest_of_refused hc (.inr hgiven),
      fun hn ht hb => ?inTime, fun p hp => ⟨(keepDl_sublist c pdus).subset hp, keepDl_supported c pdus p hp⟩, keepDl_layers c pdus,
      keepDl_removed_iff c pdus⟩,
    fun slot => ⟨exec_slotIndication_of_started hc slot, exec_slotIndication_of_changing hc slot⟩,
    fun slot pdu cb engine p j hb hp hj hcb hnew =>
      ⟨fun h => exec_codeBlockEncoded_of_outside hc hb hp hj hcb hnew (Job.holdsBlock_eq_false h), fun h => ?held⟩,
    fun slot pdu cb engine check => exec_codeBlockEncoded_of_kept hc,
    fun slot sym j hj hrun hslot hsym => ⟨fun at_ hpost => ?posted, fun hpost hoff => ?notOn, fun hpost hon => ?missed⟩,
    fun slot => ⟨fun h => h.elim (exec_dlCplaneSend_of_unbuilt hc) (exec_dlCplaneSend_of_empty hc), fun hb => ?downCplane⟩,
    fun slot sym => ⟨exec_ulCplaneSend_of_none hc, fun hsym hup hrun => ?upCplane⟩⟩
  case late =>
    have hin := Cell.dlInTime_eq_false_iff.mpr hlate
    exact ⟨exec_dlTtiRequest_of_refused hc (.inl hin), exec_ulDciRequest_of_late hc hin, exec_txDataRequest_of_late hc hin⟩
  case inTime =>
    have hin := Cell.dlInTime_of hn ht hb
    exact ⟨exec_dlTtiRequest_of_first hc hin, exec_ulDciRequest_of_inTime hc hin, _, exec_txDataRequest_of_inTime hc hin,
      List.filter_sublist, fun e he => by rw [List.mem_filter, and_iff_right he, Cell.txOk_iff]⟩
  case held =>
    have hholds := Job.holdsBlock_iff.mpr h
    exact ⟨exec_codeBlockEncoded_of_mismatch hc hb hp hj hcb hnew hholds,
      fun check => exec_codeBlockEncoded_of_held hc hb hp hj hcb hnew hholds⟩
  case posted =>
    have hexec := exec_symbolDeparture_of_posted hc hj hrun hslot hsym hpost
    rw [updCell_of_some hc]
    refine ⟨fun hoff => ?_, fun hon hlate => ?_, fun hon hearly => ?_⟩
    · rw [hexec, hoff]
      simp only [Bool.false_eq_true, and_false, if_false]
      rfl
    · rw [hexec, if_pos (show c.departs s slot sym < _ ∧ _ from ⟨hlate, hon⟩)]
      exact ⟨putCell s ci (c.delPost (c.symTile slot sym)).missSymbol, _, _, rfl, getCell_putCell_self .., rfl, rfl, rfl, rfl, rfl⟩
    · have hintime : ¬ c.departs s slot sym < ((at_ * 96 : Nat) : Int) := Int.not_lt.mpr hearly
      rw [hexec, if_neg fun h => hintime h.1, if_pos hon]
      rfl
  case notOn =>
    rw [exec_symbolDeparture_of_unposted hc hj hrun hslot hsym hpost, hoff, updCell_of_some hc]
    rfl
  case missed =>
    rw [exec_symbolDeparture_of_unposted hc hj hrun hslot hsym hpost, if_pos hon]
    exact ⟨putCell s ci (c.addLate (c.symTile slot sym)).missSymbol, _, _, rfl, getCell_putCell_self .., rfl, rfl, rfl, rfl, rfl⟩
  case downCplane =>
    obtain ⟨t, hexec, hcell⟩ := exec_dlCplaneSend_of_built hc hb
    exact ⟨t, _, hexec, hcell, rfl, c.dlCplane_length slot, fun a e he => ⟨_, c.dlCplane_entry slot he, e.cplane_iterate _⟩⟩
  case upCplane =>
    obtain ⟨t, hexec, hsent⟩ := exec_ulCplaneSend_of_uplink hc hsym hup hrun
    exact ⟨t, _, hexec, hsent.cell, modEach_self .., hsent.sent, congrArg _ hsent.host⟩

end Sys2Proof.Machine
end

section
/-! Sending leaves the radio as it is, and so do completions (15 R407; 16 R421, R442). -/

namespace Sys2Proof.Machine

theorem radio_foldl {α : Type} {f : State → α → State} (hf : ∀ s a, (f s a).radio = s.radio) (l : List α) (s : State) :
    (l.foldl f s).radio = s.radio := by
  induction l generalizing s with
  | nil => rfl
  | cons a l ih => exact (ih (f s a)).trans (hf s a)

/-! ### Interrupts and tills -/

@[simp] theorem radio_emit (s : State) (o : Output) : (emit s o).radio = s.radio := rfl

@[simp] theorem radio_sendVector (s : State) (f v : Nat) : (sendVector s f v).radio = s.radio := by
  unfold sendVector
  simp only [apply_ite State.radio, radio_emit, updFn_radio, ite_self]

@[simp] theorem radio_setIrq (s : State) (f : Nat) (cause mask : BitVec 4) : (setIrq s f cause mask).radio = s.radio := by
  unfold setIrq
  simp only [apply_ite State.radio, radio_sendVector, updFn_radio, ite_self]

@[simp] theorem radio_tillError (s : State) (n reason : Nat) : (tillError s n reason).radio = s.radio := radio_setIrq ..

@[simp] theorem radio_armVector (s : State) (n : Nat) : (armVector s n).radio = s.radio := by
  unfold armVector
  simp only [apply_ite State.radio, radio_sendVector, updTill_radio, ite_self]

@[simp] theorem radio_writeSlot (s : State) (n : Nat) (bytes : List Byte) : (writeSlot s n bytes).radio = s.radio := by
  unfold writeSlot
  simp only [apply_ite State.radio, updTill_radio, ite_self]

@[simp] theorem radio_writeSlots (s : State) (n k : Nat) (bytes : List Byte) : (writeSlots s n k bytes).radio = s.radio := by
  induction k generalizing s bytes with
  | zero => rfl
  | succ k ih => exact (ih ..).trans (radio_writeSlot ..)

@[simp] theorem radio_writeEntry (s : State) (n : Nat) (bytes : List Byte) (reserved : Bool) :
    (writeEntry s n bytes reserved).radio = s.radio := by
  unfold writeEntry dropEntry
  simp only [apply_ite State.radio, radio_armVector, radio_writeSlots, radio_tillError, updTill_radio, ite_self]

@[simp] theorem radio_writeMessage (s : State) (n opcode tag : Nat) (body : List Byte) (reserved : Bool) :
    (writeMessage s n opcode tag body reserved).radio = s.radio := by
  unfold writeMessage
  simp only [apply_ite State.radio, radio_writeEntry, updTill_radio, ite_self]

@[simp] theorem radio_partEvent (s : State) (p opcode len : Nat) (body : List Byte) : (partEvent s p opcode len body).radio = s.radio :=
  radio_writeMessage ..

/-! ### Completions -/

@[simp] theorem radio_writeCompletion (s : State) (n : Nat) (bytes : List Byte) : (writeCompletion s n bytes).radio = s.radio := by
  unfold writeCompletion
  simp only [apply_ite State.radio, radio_writeEntry, radio_writeMessage, updTill_radio, ite_self]

@[simp] theorem radio_complete (s : State) (id : Nat) (d : Done) : (complete s id d).radio = s.radio := by
  unfold complete
  split
  · rfl
  · dsimp only
    split
    · rfl
    · exact radio_writeCompletion ..
    · split <;> rfl

@[simp] theorem radio_settleByes (s : State) : (settleByes s).radio = s.radio := by
  unfold settleByes
  exact radio_foldl (fun s b => radio_complete ..) _ _

@[simp] theorem radio_finish (s : State) (id : Nat) (d : Done) : (finish s id d).radio = s.radio :=
  (radio_settleByes _).trans (radio_complete ..)

end Sys2Proof.Machine
end

section
/-! What the operations of a cell's adaptation leave in its adaptation, its cell and the work (10 R246, R262-R266, R273, R274). -/

namespace Sys2Proof.Machine

/-! ### Reads after updates -/

theorem getAdapt_of_radio {s t : State} (h : t.radio = s.radio) (ci : Nat) : getAdapt t ci = getAdapt s ci := by
  unfold getAdapt; rw [h]

theorem getCell_of_radio {s t : State} (h : t.radio = s.radio) (ci : Nat) : getCell t ci = getCell s ci := by
  unfold getCell; rw [h]

@[simp] theorem getCell_updAdapt (s : State) (ci k : Nat) (f : Adapt → Adapt) : getCell (updAdapt s ci f) k = getCell s k := rfl
@[simp] theorem updAdapt_cells (s : State) (ci : Nat) (f : Adapt → Adapt) : (updAdapt s ci f).radio.cells = s.radio.cells := rfl

@[simp] theorem getAdapt_updCell (s : State) (ci k : Nat) (f : Cell → Cell) : getAdapt (updCell s ci f) k = getAdapt s k := by
  unfold updCell; split <;> rfl

@[simp] theorem getAdapt_hbmWrite (s : State) (p a k : Nat) (bs : List Byte) : getAdapt (hbmWrite s p a bs) k = getAdapt s k :=
  getAdapt_of_radio (hbmWrite_radio ..) k
@[simp] theorem getCell_hbmWrite (s : State) (p a k : Nat) (bs : List Byte) : getCell (hbmWrite s p a bs) k = getCell s k :=
  getCell_of_radio (hbmWrite_radio ..) k
@[simp] theorem jobs_hbmWrite (s : State) (p a : Nat) (bs : List Byte) : (hbmWrite s p a bs).work.jobs = s.work.jobs := by
  unfold hbmWrite; split <;> rfl

@[simp] theorem getAdapt_setSlotState (s : State) (c : Cell) (k v i : Nat) : getAdapt (setSlotState s c k v) i = getAdapt s i :=
  getAdapt_hbmWrite ..
@[simp] theorem getCell_setSlotState (s : State) (c : Cell) (k v i : Nat) : getCell (setSlotState s c k v) i = getCell s i :=
  getCell_hbmWrite ..
@[simp] theorem makeLive_radio (s : State) (c : Cell) (k : Nat) : (makeLive s c k).radio = s.radio := hbmWrite_radio ..

@[simp] theorem getAdapt_finish (s : State) (id : Nat) (d : Done) (k : Nat) : getAdapt (finish s id d) k = getAdapt s k :=
  getAdapt_of_radio (radio_finish ..) k
@[simp] theorem getCell_finish (s : State) (id : Nat) (d : Done) (k : Nat) : getCell (finish s id d) k = getCell s k :=
  getCell_of_radio (radio_finish ..) k

theorem updAdapt_updAdapt (s : State) (ci : Nat) (f g : Adapt → Adapt) : updAdapt (updAdapt s ci f) ci g = updAdapt s ci fun a => g (f a) := by
  simp [updAdapt, getAdapt]

theorem nowNs_of_timing {s t : State} (h : t.net.timing = s.net.timing) : nowNs t = nowNs s := by
  unfold nowNs timeS timeSubNs; rw [h]

@[simp] theorem writeSlotImage_radio (s : State) (c : Cell) (k planes layers qm : Nat) (weights : List Byte) (parent digest gen records : Nat) :
    (writeSlotImage s c k planes layers qm weights parent digest gen records).radio = s.radio := by
  simp [writeSlotImage]

@[simp] theorem getAdapt_writeSlotImage (s : State) (c : Cell) (k planes layers qm : Nat) (weights : List Byte)
    (parent digest gen records i : Nat) :
    getAdapt (writeSlotImage s c k planes layers qm weights parent digest gen records) i = getAdapt s i :=
  getAdapt_of_radio (writeSlotImage_radio ..) i

/-- An update by cases, where the case is known. -/
theorem updAdapt_ite_pos {s : State} {ci : Nat} {p : Adapt → Prop} [DecidablePred p] (h : p (getAdapt s ci)) (f g : Adapt → Adapt) :
    updAdapt s ci (fun a => if p a then f a else g a) = updAdapt s ci f := by
  simp only [updAdapt, if_pos h]

theorem updAdapt_ite_neg {s : State} {ci : Nat} {p : Adapt → Prop} [DecidablePred p] (h : ¬ p (getAdapt s ci)) (f g : Adapt → Adapt) :
    updAdapt s ci (fun a => if p a then f a else g a) = updAdapt s ci g := by
  simp only [updAdapt, if_neg h]

/-! ### Events (R273) -/

/-- The adaptation with one entry more in its history, where there is a cell to note it. -/
def Adapt.noted (a : Adapt) (known : Bool) : Adapt := { a with history := if known then a.history + 1 else a.history }

@[simp] theorem getAdapt_adaptEvent (s : State) (ci kind slot trigger epoch crc : Nat) (v : List Nat) :
    getAdapt (adaptEvent s ci kind slot trigger epoch crc v) ci = (getAdapt s ci).noted (getCell s ci).isSome := by
  unfold adaptEvent
  cases hc : getCell s ci with
  | none => rfl
  | some c =>
    simp only [getAdapt_of_radio (radio_partEvent ..), getAdapt_updAdapt_self, getAdapt_hbmWrite]
    rfl

@[simp] theorem getCell_adaptEvent (s : State) (ci kind slot trigger epoch crc : Nat) (v : List Nat) (k : Nat) :
    getCell (adaptEvent s ci kind slot trigger epoch crc v) k = getCell s k := by
  unfold adaptEvent
  split
  · rfl
  · simp [getCell_of_radio (radio_partEvent ..)]

@[simp] theorem nowNs_adaptEvent (s : State) (ci kind slot trigger epoch crc : Nat) (v : List Nat) :
    nowNs (adaptEvent s ci kind slot trigger epoch crc v) = nowNs s := by
  unfold adaptEvent
  split
  · rfl
  · exact (partEvent_sends ..).nowNs_eq.trans (nowNs_of_timing (by simp))

/-! ### A switch that is decided or forgotten (R264, R266, R274) -/

@[simp] theorem getAdapt_supersede (s : State) (ci : Nat) : getAdapt (supersede s ci) ci = { getAdapt s ci with change := none } := by
  unfold supersede
  dsimp only
  split <;> simp

@[simp] theorem getCell_supersede (s : State) (ci k : Nat) : getCell (supersede s ci) k = getCell s k := by
  unfold supersede
  dsimp only
  split <;> simp

@[simp] theorem supersede_work (s : State) (ci : Nat) : (supersede s ci).work = s.work := by
  unfold supersede
  dsimp only
  split
  · exact (finish_sends ..).work
  · rfl

/-- A switch that is decided takes the place of any other. -/
theorem getAdapt_decideSwitch (s : State) (ci : Nat) (c : Cell) (slot : Option Nat) (rollback : Bool) (trigger : Nat) (ticket : Option Nat)
    (fig : Nat × Nat) : ∃ e, getAdapt (decideSwitch s ci c slot rollback trigger ticket fig) ci =
      { getAdapt s ci with change := some ⟨slot, rollback, trigger, e, ticket, fig, false⟩ } :=
  ⟨effectSlot (supersede s ci) c, by simp [decideSwitch]⟩

@[simp] theorem decideSwitch_work (s : State) (ci : Nat) (c : Cell) (slot : Option Nat) (rollback : Bool) (trigger : Nat) (ticket : Option Nat)
    (fig : Nat × Nat) : (decideSwitch s ci c slot rollback trigger ticket fig).work = s.work := by
  simp [decideSwitch]

/-- A promotion changes at most the switch that is pending. -/
theorem getAdapt_promote (s : State) (ci : Nat) (ticket : Option Nat) :
    ∃ x, getAdapt (promote s ci ticket) ci = { getAdapt s ci with change := x } := by
  unfold promote
  split
  · exact ⟨_, rfl⟩
  · split
    · obtain ⟨e, h⟩ := getAdapt_decideSwitch s ci _ _ false 0 ticket (0, 0)
      exact ⟨_, h⟩
    · exact ⟨_, rfl⟩

/-- A rollback that a trigger decided stands against another trigger. -/
theorem rollback_of_triggered {s : State} {ci : Nat} {x : LiveChange} (hx : (getAdapt s ci).change = some x) (hr : x.rollback = true)
    (ht : x.ticket = none) (trigger : Nat) (toClassical : Bool) (fig : Nat × Nat) : rollback s ci trigger toClassical none fig = s := by
  unfold rollback
  split
  · rfl
  · simp [hx, hr, ht]

theorem rollback_eq_decideSwitch {s : State} {ci : Nat} {c : Cell} (hc : getCell s ci = some c)
    (hx : ∀ x, (getAdapt s ci).change = some x → x.rollback = false ∨ x.ticket.isSome = true) (trigger : Nat) (toClassical : Bool)
    (ticket : Option Nat) (fig : Nat × Nat) : rollback s ci trigger toClassical ticket fig =
      decideSwitch s ci c (if toClassical then none else slotWith s c 4) true trigger ticket fig := by
  unfold rollback
  simp only [hc]
  cases hch : (getAdapt s ci).change with
  | none => rfl
  | some x =>
    have hno : (x.rollback && x.ticket.isNone) = false := by
      obtain h | h := hx x hch
      · simp [h]
      · simp [Option.isNone_eq_false_iff.mpr h]
    simp [hno]

/-- A rollback that a trigger decides goes to the fallback. -/
theorem rollback_of_trigger {s : State} {ci : Nat} {c : Cell} (hc : getCell s ci = some c)
    (hx : ∀ x, (getAdapt s ci).change = some x → x.rollback = false ∨ x.ticket.isSome = true) (trigger : Nat) (fig : Nat × Nat) :
    (∃ e, getAdapt (rollback s ci trigger false none fig) ci =
      { getAdapt s ci with change := some ⟨slotWith s c 4, true, trigger, e, none, fig, false⟩ }) ∧
    (rollback s ci trigger false none fig).work = s.work := by
  rw [rollback_eq_decideSwitch hc hx]
  exact ⟨getAdapt_decideSwitch .., decideSwitch_work ..⟩

/-! ### The end of an evaluation (R262, R263) -/

/-- The adaptation whose candidate has been rejected: no sums, no pending switch, and the phase returns. -/
def Adapt.rejected (a : Adapt) : Adapt :=
  { a.noted true with change := none, phase := a.home, sums := [], livePdus := 0, liveFails := 0 }

theorem getAdapt_rejectCandidate {s : State} {ci : Nat} {c : Cell} (hc : getCell s ci = some c) :
    getAdapt (rejectCandidate s ci) ci = (getAdapt s ci).rejected := by
  simp only [rejectCandidate, hc, getAdapt_updAdapt_self, getAdapt_setSlotState, getAdapt_adaptEvent, getAdapt_supersede, getCell_supersede,
    Option.isSome_some]
  rfl

theorem closeEvaluation_of_short {s : State} {ci : Nat} {a : Adapt} (ha : getAdapt s ci = a) (h : a.sums.length < a.f 0x28 4) :
    closeEvaluation s ci = s := by
  unfold closeEvaluation
  dsimp only
  rw [ha]
  split
  · rfl
  · exact if_pos h

/-- The share of failures among the live receiver's PDUs of an evaluation, in 2^-16; all of them where there was none. -/
def Adapt.liveShare (a : Adapt) : Nat := if a.livePdus = 0 then 65536 else 65536 * a.liveFails / a.livePdus

/-- The adaptation whose evaluation has closed, its baseline the live receiver's share. -/
def Adapt.measured (a : Adapt) : Adapt := { a with baseline := a.liveShare }

/-- The state in which an evaluation has passed, before a promotion that is automatic. -/
def evaluationPassed (s : State) (ci : Nat) (c : Cell) : State :=
  let w := updAdapt s ci Adapt.measured
  let k := (slotWith w c 1).getD 0
  let w := setSlotState w c k 2
  updAdapt (adaptEvent w ci 1 k 0 0xFFFFFFFF (slotCrc w c k) (getAdapt s ci).verdict) ci fun a => { a with phase := phPassed }

theorem getAdapt_evaluationPassed {s : State} {ci : Nat} {c : Cell} (hc : getCell s ci = some c) :
    getAdapt (evaluationPassed s ci c) ci = { (getAdapt s ci).measured.noted true with phase := phPassed } := by
  simp [evaluationPassed, hc]

section
variable {s : State} {ci : Nat} {c : Cell} {a : Adapt} (ha : getAdapt s ci = a) (hc : getCell s ci = some c)
  (hn : a.f 0x28 4 ≤ a.sums.length)
include ha hc hn

/-- An evaluation that passes keeps its sums; a promotion may be pending then. -/
theorem getAdapt_closeEvaluation_of_passes (hp : a.passes = true) :
    ∃ x, getAdapt (closeEvaluation s ci) ci = { a.measured.noted true with phase := phPassed, change := x } := by
  have hclose : closeEvaluation s ci = if a.auto then promote (evaluationPassed s ci c) ci none else evaluationPassed s ci c := by
    subst ha
    unfold closeEvaluation
    simp only [hc, if_neg (Nat.not_lt.mpr hn), hp, if_true]
    rfl
  have hpassed := getAdapt_evaluationPassed hc
  rw [ha] at hpassed
  rw [hclose]
  split
  · obtain ⟨x, hx⟩ := getAdapt_promote (evaluationPassed s ci c) ci none
    exact ⟨x, by rw [hx, hpassed]⟩
  · exact ⟨_, hpassed⟩

theorem getAdapt_closeEvaluation_of_fails (hp : a.passes = false) : getAdapt (closeEvaluation s ci) ci = a.measured.rejected := by
  have hclose : closeEvaluation s ci = rejectCandidate (updAdapt s ci Adapt.measured) ci := by
    subst ha
    unfold closeEvaluation
    simp only [hc, if_neg (Nat.not_lt.mpr hn), hp, Bool.false_eq_true, if_false]
    rfl
  rw [hclose, getAdapt_rejectCandidate (s := updAdapt s ci Adapt.measured) hc, getAdapt_updAdapt_self, ha]

end

end Sys2Proof.Machine
end

section
/-! Staging entries that the adaptation job processes: evaluation, the reversed comparison, capture (10 R250, R251, R260-R265). -/

namespace Sys2Proof.Machine

/-- The sums that an entry's evaluated PDUs add. -/
def newSums (s : State) (ci : Nat) (c : Cell) (e : Staged) (pdus : List EvalPdu) : List EvalSum :=
  (evaluated s ci c e).map fun p => evalSum p ((pdus.find? fun x => x.index = p.index).elim [] EvalPdu.codes)

/-- The adaptation without the entries of a number. -/
def Adapt.unstage (a : Adapt) (entry : Nat) : Adapt := { a with staged := a.staged.filter fun e => e.entry ≠ entry }

/-- The adaptation that has evaluated an entry. -/
def Adapt.evaluate (a : Adapt) (entry : Nat) (new : List EvalSum) : Adapt := { a.unstage entry with sums := a.sums ++ new }

/-- The fallback receiver is the better one in the group that ends with the sums of b: R265's reversed comparison. -/
abbrev Adapt.worse (a b : Adapt) : Prop :=
  a.sums.length / max 1 (a.f 0x38 2) < b.sums.length / max 1 (a.f 0x38 2) ∧
    totalOf b.sums (·.cCand) * (65536 + a.f 0x30 2) < totalOf b.sums (·.cLive) * 65536

/-- A frozen record stands in the place of the next one. -/
def Adapt.nextFrozen (a : Adapt) : Prop :=
  ∃ r, a.round = some r ∧ (r.frozen.any fun x => x.1 % max 1 (a.f 0x18 2) = a.nextRecord % max 1 (a.f 0x18 2)) = true

/-! ### Capture (R250, R251) -/

theorem capture_of_nextFrozen {s : State} {ci : Nat} (h : (getAdapt s ci).nextFrozen) (c : Cell) (e : Staged) :
    capture s ci c e = updCell s ci fun c => { c with captureSkipped := satInc c.captureSkipped 1 } := by
  obtain ⟨r, hr, hany⟩ := h
  unfold capture
  simp only [hr, hany, if_true]

/-- The adaptation whose ledger has one record more, of a bin. -/
def Adapt.record (a : Adapt) (bin : Nat) : Adapt :=
  { a with nextRecord := a.nextRecord + 1, records := (a.records ++ [(a.nextRecord, bin)]).drop (a.records.length + 1 - a.f 0x18 2) }

/-- A record that is captured: pages of the ledger are written, and neither a cell nor a job changes. -/
structure Captures (s : State) (ci : Nat) (e : Staged) (t : State) : Prop where
  adapt : getAdapt t ci = (getAdapt s ci).record (sinrBin e.sinr)
  cells : t.radio.cells = s.radio.cells
  jobs : t.work.jobs = s.work.jobs

theorem capture_of_free {s : State} {ci : Nat} (h : ¬ (getAdapt s ci).nextFrozen) (c : Cell) (e : Staged) :
    Captures s ci e (capture s ci c e) := by
  unfold capture
  dsimp only
  rw [if_neg]
  · exact ⟨by rw [getAdapt_updAdapt_self, getAdapt_hbmWrite, getAdapt_hbmWrite]; rfl, by simp, by simp⟩
  · intro hany
    split at hany
    · exact h ⟨_, ‹_›, hany⟩
    · cases hany

theorem Adapt.training_of_wouldCapture {a : Adapt} {e : Staged} (h : a.wouldCapture e = true) : a.phase = phTraining := by
  simp only [Adapt.wouldCapture, Bool.and_eq_true, decide_eq_true_eq] at h
  exact h.1.1.2

theorem Adapt.wouldCapture_eq_false {a : Adapt} {e : Staged}
    (h : a.phase = phOff ∨ a.phase = phPassed ∨ (a.phase = phTraining ∧ a.wouldCapture e = false)) : a.wouldCapture e = false := by
  refine Bool.eq_false_iff.mpr fun hcap => ?_
  have hp := Adapt.training_of_wouldCapture hcap
  obtain h | h | ⟨-, h⟩ := h
  · cases h.symm.trans hp
  · cases h.symm.trans hp
  · cases h.symm.trans hcap

/-! ### STAGING_PROCESS -/

theorem exec_stagingProcess_of_none {s : State} {ci entry : Nat} (pdus : List EvalPdu)
    (h : (getAdapt s ci).job = none ∨ (getAdapt s ci).staged.find? (fun e => e.entry = entry) = none) :
    exec (.stagingProcess ci entry pdus) s = .next s := by
  show execStagingProcess ci entry pdus s = _
  unfold execStagingProcess
  split
  · rename_i hfind
    obtain h | h := h
    · simp only [h, Option.isNone_none, if_true]
    · rw [h] at hfind; cases hfind
  · rfl

section
variable {s : State} {ci entry : Nat} {c : Cell} {e : Staged} (hc : getCell s ci = some c) (hj : (getAdapt s ci).job.isSome = true)
  (he : (getAdapt s ci).staged.find? (fun e => e.entry = entry) = some e) (pdus : List EvalPdu)
include hc hj he

theorem exec_stagingProcess_of_evaluating (hp : (getAdapt s ci).phase = phEvaluating) : exec (.stagingProcess ci entry pdus) s =
    .next (closeEvaluation (updAdapt s ci (·.evaluate entry (newSums s ci c e pdus))) ci) := by
  show execStagingProcess ci entry pdus s = _
  simp only [execStagingProcess, hc, he, Option.isNone_eq_false_iff.mpr hj, Bool.false_eq_true, if_false, updAdapt_updAdapt, hp, if_true]
  rw [updAdapt_ite_pos (p := fun a => a.phase = phEvaluating ∨ a.phase = phProbation) (Or.inl hp)]
  rfl

theorem exec_stagingProcess_of_probation (hp : (getAdapt s ci).phase = phProbation) : exec (.stagingProcess ci entry pdus) s =
    .next (let w := updAdapt s ci (·.evaluate entry (newSums s ci c e pdus))
      let b := (getAdapt s ci).evaluate entry (newSums s ci c e pdus)
      if (getAdapt s ci).worse b then rollback w ci 2 false none (totalOf b.sums (·.cCand), totalOf b.sums (·.cLive)) else w) := by
  have hno : ¬ (getAdapt s ci).phase = phEvaluating := by rw [hp]; decide
  show execStagingProcess ci entry pdus s = _
  simp only [execStagingProcess, hc, he, Option.isNone_eq_false_iff.mpr hj, Bool.false_eq_true, updAdapt_updAdapt, if_neg hno, if_pos hp, if_false]
  rw [updAdapt_ite_pos (p := fun a => a.phase = phEvaluating ∨ a.phase = phProbation) (Or.inr hp), getAdapt_updAdapt_self]
  rfl

theorem exec_stagingProcess_of_uncompared (hno : (getAdapt s ci).phase ≠ phEvaluating) (hno' : (getAdapt s ci).phase ≠ phProbation) :
    exec (.stagingProcess ci entry pdus) s =
      .next (if (getAdapt s ci).wouldCapture e then capture (updAdapt s ci (·.unstage entry)) ci c e else updAdapt s ci (·.unstage entry)) := by
  show execStagingProcess ci entry pdus s = _
  simp only [execStagingProcess, hc, he, Option.isNone_eq_false_iff.mpr hj, Bool.false_eq_true, updAdapt_updAdapt, if_neg hno, if_neg hno', if_false]
  rw [updAdapt_ite_neg (p := fun a => a.phase = phEvaluating ∨ a.phase = phProbation) (not_or.mpr ⟨hno, hno'⟩)]
  rfl

/-- The receiver that is the worse one of a group is rolled back. -/
theorem exec_stagingProcess_of_worse (hp : (getAdapt s ci).phase = phProbation) (hx : (getAdapt s ci).change = none)
    (hw : (getAdapt s ci).worse ((getAdapt s ci).evaluate entry (newSums s ci c e pdus))) :
    ∃ t x, exec (.stagingProcess ci entry pdus) s = .next t ∧ t.work = s.work ∧
      (let b := (getAdapt s ci).evaluate entry (newSums s ci c e pdus)
       getAdapt t ci =
        { b with change := some ⟨slotWith s c 4, true, 2, x, none, (totalOf b.sums (·.cCand), totalOf b.sums (·.cLive)), false⟩ }) := by
  obtain ⟨⟨x, hroll⟩, hwork⟩ := rollback_of_trigger (s := updAdapt s ci (·.evaluate entry (newSums s ci c e pdus))) hc
    (fun x h => by rw [getAdapt_updAdapt_self] at h; cases hx.symm.trans h) 2 _
  rw [getAdapt_updAdapt_self] at hroll
  exact ⟨_, x, (exec_stagingProcess_of_probation hc hj he pdus hp).trans (congrArg _ (if_pos hw)), hwork, hroll⟩

theorem exec_stagingProcess_of_uncaptured (hno : (getAdapt s ci).phase ≠ phEvaluating) (hno' : (getAdapt s ci).phase ≠ phProbation)
    (hcap : (getAdapt s ci).wouldCapture e = false) : exec (.stagingProcess ci entry pdus) s = .next (updAdapt s ci (·.unstage entry)) := by
  rw [exec_stagingProcess_of_uncompared hc hj he pdus hno hno', hcap]
  rfl

section
variable (hcap : (getAdapt s ci).wouldCapture e = true)
include hcap

theorem exec_stagingProcess_of_captured :
    exec (.stagingProcess ci entry pdus) s = .next (capture (updAdapt s ci (·.unstage entry)) ci c e) := by
  have hp := Adapt.training_of_wouldCapture hcap
  rw [exec_stagingProcess_of_uncompared hc hj he pdus (by rw [hp]; decide) (by rw [hp]; decide), if_pos hcap]

theorem exec_stagingProcess_of_nextFrozen (h : (getAdapt s ci).nextFrozen) : exec (.stagingProcess ci entry pdus) s =
    .next (updCell (updAdapt s ci (·.unstage entry)) ci fun c => { c with captureSkipped := satInc c.captureSkipped 1 }) := by
  rw [exec_stagingProcess_of_captured hc hj he pdus hcap, capture_of_nextFrozen (by rw [getAdapt_updAdapt_self]; exact h)]

theorem exec_stagingProcess_of_free (h : ¬ (getAdapt s ci).nextFrozen) : ∃ t, exec (.stagingProcess ci entry pdus) s = .next t ∧
    getAdapt t ci = ((getAdapt s ci).unstage entry).record (sinrBin e.sinr) ∧ t.radio.cells = s.radio.cells ∧ t.work.jobs = s.work.jobs := by
  obtain ⟨hadapt, hcells, hjobs⟩ :=
    capture_of_free (s := updAdapt s ci (·.unstage entry)) (ci := ci) (by rw [getAdapt_updAdapt_self]; exact h) c e
  rw [getAdapt_updAdapt_self] at hadapt
  exact ⟨_, exec_stagingProcess_of_captured hc hj he pdus hcap, hadapt, hcells, hjobs⟩

end

end

end Sys2Proof.Machine
end

section
/-! An evaluation that lasts too long, and training rounds: what makes one due, how it begins, ends and is abandoned (10 R254-R256,
R262). -/

namespace Sys2Proof.Machine

/-- The state in which a round has begun, its job placed as it is in w. -/
def roundBegun (s w : State) (ci : Nat) (c : Cell) (h base : Nat) : State :=
  let a := getAdapt s ci
  startInvocation (updAdapt w ci fun b =>
    { b with
      round := some { number := a.roundNumber, startNs := nowNs s, frozen := a.records.drop (a.records.length - a.f 0x1A 2), base := base }
      lastRound := some (c.slotAt (nowNs s)), roundNumber := b.roundNumber + 1 }) h none true

/-- A round is due, and the ledger has its records (R254). -/
structure RoundDue (s : State) (ci : Nat) (c : Cell) : Prop where
  training : (getAdapt s ci).phase = phTraining
  enable : (getAdapt s ci).enable = true
  free : (getAdapt s ci).round = none
  wanted : 1 ≤ (getAdapt s ci).f 0x1A 2
  held : (getAdapt s ci).f 0x1A 2 ≤ (getAdapt s ci).records.length
  due : ∀ l, (getAdapt s ci).lastRound = some l → l + (getAdapt s ci).f 0x20 4 ≤ c.slotAt (nowNs s)

/-- The state in which a round's invocation has ended. -/
def roundEnded (s : State) (ci h : Nat) : State := updAdapt (endInvocation s h eOk none) ci fun a => { a with round := none }

/-- The adaptation that evaluates, from a slot on, the weights that a round has left. -/
def Adapt.roundDone (a : Adapt) (slot : Nat) : Adapt :=
  { a with rounds := satAdd 32 a.rounds 1, phase := phEvaluating, sums := [], livePdus := 0, liveFails := 0, evalSlot := slot }

section
variable {s : State} {ci : Nat} {c : Cell} (hc : getCell s ci = some c)
include hc

/-! ### EVAL_EXPIRY (R262) -/

theorem exec_evalExpiry : exec (.evalExpiry ci) s =
    .next (if (getAdapt s ci).phase = phEvaluating ∧ (getAdapt s ci).evalSlot + (getAdapt s ci).f 0x2C 4 ≤ c.slotAt (nowNs s)
      then rejectCandidate s ci else s) := by
  show execEvalExpiry ci s = _
  simp only [execEvalExpiry, hc]

/-! ### Training rounds (R254-R256) -/

section
variable (hd : RoundDue s ci c) {h base : Nat} {j : Job} (hh : (getAdapt s ci).job = some h) (hb : roundBase s c = some base)
  (hj : getJob s h = some j) (hr : j.run = none)
include hd hh hb hj hr

/-- A round that is due begins where its job stands, or stands again. -/
theorem exec_trainingRoundStart_of_due : exec (.trainingRoundStart ci) s =
    .next (if j.lostCore = 1 then (placeFully s h j).elim (fun j' => roundBegun s (settleRinses (placeAgain s h j')) ci c h base) fun _ => s
      else roundBegun s s ci c h base) := by
  show execTrainingRoundStart ci s = _
  unfold execTrainingRoundStart
  simp only [hc, hh, hb]
  rw [if_pos]
  · by_cases hlost : j.lostCore = 1
    · simp only [hj, if_pos hlost]
      cases placeFully s h j <;> rfl
    · simp only [hj, if_neg hlost]
      rfl
  · refine ⟨hd.training, hd.enable, ?_, by rw [hd.free]; rfl, hd.wanted, hd.held, by rw [hj, Option.bind_some, hr]; rfl⟩
    split
    · exact decide_eq_true (hd.due _ ‹_›)
    · rfl

end

theorem exec_trainingRoundStart_of_not (h : ¬ RoundDue s ci c ∨ (getAdapt s ci).job = none) : exec (.trainingRoundStart ci) s = .next s := by
  show execTrainingRoundStart ci s = _
  unfold execTrainingRoundStart
  simp only [hc]
  split
  · rename_i hjob _
    rw [if_neg]
    rintro ⟨hp, he, hdue, hr, hw, hl, -⟩
    refine h.elim (fun hn => hn ⟨hp, he, Option.isNone_iff_eq_none.mp hr, hw, hl, fun l hlast => ?_⟩) fun hn => ?_
    · simpa [hlast] using hdue
    · rw [hn] at hjob; cases hjob
  · rfl

section
variable {r : Round} {h : Nat} (hr : (getAdapt s ci).round = some r) (hh : (getAdapt s ci).job = some h)
include hr hh

theorem exec_roundEnd_of_special (hw : bf16Special (trainedWeights s c (getAdapt s ci) r) = true) : exec (.roundEnd ci) s =
    .next (adaptEvent (roundEnded s ci h) ci 7 (1 - ((slotWith (roundEnded s ci h) c 3).getD r.base)) 0 0xFFFFFFFF 0 []) := by
  show execRoundEnd ci s = _
  simp only [execRoundEnd, hc, hr, hh, if_pos hw]
  rfl

theorem exec_roundEnd_of_trained (hw : bf16Special (trainedWeights s c (getAdapt s ci) r) = false) : ∃ t, exec (.roundEnd ci) s = .next t ∧
    getAdapt t ci = ((getAdapt (roundEnded s ci h) ci).roundDone (c.slotAt (nowNs t))).noted (getCell t ci).isSome := by
  show ∃ t, execRoundEnd ci s = .next t ∧ _
  simp only [execRoundEnd, hc, hr, hh, hw, Bool.false_eq_true, if_false]
  generalize hv : writeSlotImage _ c _ _ _ _ _ _ _ _ _ = v
  have hadapt : getAdapt v ci = getAdapt (roundEnded s ci h) ci := by rw [← hv, getAdapt_writeSlotImage]; rfl
  refine ⟨_, rfl, ?_⟩
  rw [getCell_adaptEvent, getAdapt_adaptEvent, getAdapt_updAdapt_self, hadapt, nowNs_adaptEvent]
  rfl

end

end

theorem exec_roundEnd_of_none {s : State} {ci : Nat} (hr : (getAdapt s ci).round = none) : exec (.roundEnd ci) s = .next s := by
  show execRoundEnd ci s = _
  unfold execRoundEnd
  split
  · rename_i hround _
    rw [hr] at hround; cases hround
  · rfl

theorem exec_roundTimeout_of_none {s : State} {ci : Nat} (hr : (getAdapt s ci).round = none) : exec (.roundTimeout ci) s = .next s := by
  show execRoundTimeout ci s = _
  simp only [execRoundTimeout, hr]

theorem exec_roundTimeout_of_round {s : State} {ci : Nat} {r : Round} (hr : (getAdapt s ci).round = some r) : exec (.roundTimeout ci) s =
    .next (if r.startNs + (getAdapt s ci).f 0x24 4 * 1000000 ≤ nowNs s then abandonRound s ci else s) := by
  show execRoundTimeout ci s = _
  simp only [execRoundTimeout, hr]

theorem round_abandonRound (s : State) (ci : Nat) : (getAdapt (abandonRound s ci) ci).round = none := by
  unfold abandonRound
  dsimp only
  split
  · assumption
  · rw [getAdapt_adaptEvent, getAdapt_updAdapt_self]
    rfl

end Sys2Proof.Machine
end

section
/-! The live switch of a receiver, the test of live failures, and the end of probation (10 R246, R264-R266). -/

namespace Sys2Proof.Machine

/-! ### LIVE_SWITCH (R246) -/

/-- The deploy bytes that a switch copies. -/
def LiveChange.bytes (x : LiveChange) (s : State) (c : Cell) : Nat :=
  match x.slot with
  | some k => slotField s c k 0x38 4
  | none => 0

/-- Too little time is left before the slot at which a switch takes effect, or its epoch has begun (R246). -/
def LiveChange.late (x : LiveChange) (s : State) (c : Cell) (j : Job) : Prop :=
  c.airStart (x.effect + 1) < nowNs s + 2000 + 1000 * ceilDiv (x.bytes s c) 32768 ∨
    (j.insts.any fun i => i.hasBegun (x.effect - c.firstUp)) = true

/-- The state in which the deploy blocks of a switch have been copied. -/
def LiveChange.copy (x : LiveChange) (s : State) (c : Cell) : State :=
  match x.slot with
  | some k => makeLive s c k
  | none => s

theorem LiveChange.copy_radio (x : LiveChange) (s : State) (c : Cell) : (x.copy s c).radio = s.radio := by
  unfold LiveChange.copy
  split <;> simp

section
variable {s : State} {ci : Nat} {c : Cell} (hc : getCell s ci = some c)
include hc

theorem exec_liveSwitch_of_none (h : (getAdapt s ci).change = none ∨ getJob s c.up = none) : exec (.liveSwitch ci) s = .next s := by
  show execLiveSwitch ci s = _
  unfold execLiveSwitch
  obtain h | h := h <;> simp [hc, h]

section
variable {x : LiveChange} {j : Job} (hx : (getAdapt s ci).change = some x) (hj : getJob s c.up = some j)
include hx hj

theorem exec_liveSwitch_of_copied (hcopied : x.copied = true) : exec (.liveSwitch ci) s = .next s := by
  show execLiveSwitch ci s = _
  simp only [execLiveSwitch, hc, Option.bind_some, hj, Option.map_some, hx, hcopied, if_true]

theorem exec_liveSwitch_of_late (hcopied : x.copied = false) (hlate : x.late s c j) : exec (.liveSwitch ci) s =
    .next (updAdapt s ci fun a => { a with change := some { x with effect := x.effect + 1 } }) := by
  show execLiveSwitch ci s = _
  simp only [execLiveSwitch, hc, Option.bind_some, hj, Option.map_some, hx, hcopied, Bool.false_eq_true, if_false]
  rw [if_pos]
  rw [Bool.or_eq_true, decide_eq_true_eq]
  exact hlate

theorem exec_liveSwitch_of_inTime (hcopied : x.copied = false) (hlate : ¬ x.late s c j) : exec (.liveSwitch ci) s =
    .next (if fedIn j (x.effect - c.firstUp - 1)
      then updAdapt (x.copy s c) ci fun a => { a with change := some { x with copied := true } } else s) := by
  show execLiveSwitch ci s = _
  simp only [execLiveSwitch, hc, Option.bind_some, hj, Option.map_some, hx, hcopied, Bool.false_eq_true, if_false]
  rw [if_neg]
  · cases fedIn j (x.effect - c.firstUp - 1) <;> rfl
  · rw [Bool.or_eq_true, decide_eq_true_eq]
    exact hlate

end

/-! ### The switch takes effect (R264, R266, R271) -/

theorem settleSwitch_of_copied {x : LiveChange} (hx : (getAdapt s ci).change = some x) (hcopied : x.copied = true) {slot : Nat}
    (hslot : x.effect ≤ slot) : settleSwitch s ci slot = switchTakes s ci c x := by
  simp only [settleSwitch, hc, hx, if_neg (Nat.not_lt.mpr hslot), hcopied, if_true]

end

/-- The adaptation whose pending switch has taken effect. -/
def Adapt.switched (a : Adapt) (x : LiveChange) : Adapt :=
  { a with
    change := none, outcomes := [], tested := 0, probPdus := 0, probFails := 0, sums := [], probationFrom := x.effect,
    phase := if x.rollback then (if a.phase = phEvaluating ∨ a.phase = phPassed then a.phase else a.home) else phProbation }

/-- The states of the slots after a switch. -/
def slotsSwitched (s : State) (c : Cell) (x : LiveChange) : State :=
  let was := slotWith s c 3
  let s := match was with
    | some k => setSlotState s c k (if x.rollback then 0 else 4)
    | none => s
  let other := (x.slot.map fun k => 1 - k).getD 0
  match x.slot with
  | some k => setSlotState (if ¬ x.rollback ∧ was.isNone ∧ slotState s c other = 4 then setSlotState s c other 0 else s) c k 3
  | none => s

theorem slotsSwitched_radio (s : State) (c : Cell) (x : LiveChange) : (slotsSwitched s c x).radio = s.radio := by
  have hset : ∀ w k v, (setSlotState w c k v).radio = w.radio := fun w k v => hbmWrite_radio ..
  unfold slotsSwitched
  dsimp only
  split
  · rw [hset, apply_ite State.radio, hset, ite_self]
    split <;> simp [hset]
  · split <;> simp [hset]

/-- The state after a switch, before it is reported. -/
def switched (s : State) (ci : Nat) (c : Cell) (x : LiveChange) : State :=
  updAdapt (updCell (slotsSwitched s c x) ci fun d =>
    { d with learned := x.slot.isSome && (d.learned || (!x.rollback && (slotWith s c 3).isNone)) }) ci (·.switched x)

/-- The event of a switch, `was` the slot that was live before. -/
def switchNoted (w : State) (ci : Nat) (c : Cell) (x : LiveChange) (was : Option Nat) : State :=
  let k := x.slot.getD (was.getD 0)
  if x.rollback then adaptEvent w ci 5 (was.getD k) x.trigger (x.effect - c.firstUp) (slotCrc w c k) [x.figures.1, x.figures.2]
  else adaptEvent w ci 3 k 0 (x.effect - c.firstUp) (slotCrc w c k) []

/-- A switch is reported by an event and, where a command asked for it, by its completion. -/
theorem switchTakes_radio (s : State) (ci : Nat) (c : Cell) (x : LiveChange) :
    (switchTakes s ci c x).radio = (switchNoted (switched s ci c x) ci c x (slotWith s c 3)).radio := by
  obtain ⟨slot, rollback, trigger, effect, ticket, figures, copied⟩ := x
  cases ticket with
  | none => rfl
  | some t => exact radio_finish ..

theorem getAdapt_switchNoted (w : State) (ci : Nat) (c : Cell) (x : LiveChange) (was : Option Nat) :
    getAdapt (switchNoted w ci c x was) ci = (getAdapt w ci).noted (getCell w ci).isSome := by
  unfold switchNoted
  dsimp only
  split <;> exact getAdapt_adaptEvent ..

theorem getCell_switchNoted (w : State) (ci : Nat) (c : Cell) (x : LiveChange) (was : Option Nat) (k : Nat) :
    getCell (switchNoted w ci c x was) k = getCell w k := by
  unfold switchNoted
  dsimp only
  split <;> exact getCell_adaptEvent ..

section
variable {s : State} {ci : Nat} {c : Cell} (hc : getCell s ci = some c) (x : LiveChange)
include hc

theorem getCell_switched : getCell (switched s ci c x) ci =
    some { c with learned := x.slot.isSome && (c.learned || (!x.rollback && (slotWith s c 3).isNone)) } := by
  rw [switched, getCell_updAdapt, getCell_updCell_self, getCell_of_radio (slotsSwitched_radio s c x), hc]
  rfl

theorem getAdapt_switchTakes : getAdapt (switchTakes s ci c x) ci = ((getAdapt s ci).switched x).noted true := by
  rw [getAdapt_of_radio (switchTakes_radio s ci c x), getAdapt_switchNoted, getCell_switched hc, switched, getAdapt_updAdapt_self, getAdapt_updCell,
    getAdapt_of_radio (slotsSwitched_radio s c x)]
  rfl

theorem getCell_switchTakes : getCell (switchTakes s ci c x) ci =
    some { c with learned := x.slot.isSome && (c.learned || (!x.rollback && (slotWith s c 3).isNone)) } := by
  rw [getCell_of_radio (switchTakes_radio s ci c x), getCell_switchNoted, getCell_switched hc]

end

/-! ### LIVE_FAILURE_TRIGGER (R265) -/

/-- The failures of the oldest group of learned PDUs. -/
def Adapt.groupFails (a : Adapt) : Nat := ((a.outcomes.take (a.f 0x38 2)).filter id).length

/-- The adaptation that has tested the oldest group. -/
def Adapt.tests (a : Adapt) : Adapt :=
  { a with
    outcomes := a.outcomes.drop (a.f 0x38 2), tested := a.tested + a.f 0x38 2
    probPdus := if a.phase = phProbation then a.probPdus + a.f 0x38 2 else a.probPdus
    probFails := if a.phase = phProbation then a.probFails + a.groupFails else a.probFails }

theorem exec_liveFailureTrigger_of_short {s : State} {ci : Nat}
    (h : (getAdapt s ci).f 0x38 2 = 0 ∨ (getAdapt s ci).outcomes.length < (getAdapt s ci).f 0x38 2) :
    exec (.liveFailureTrigger ci) s = .next s := by
  show execLiveFailureTrigger ci s = _
  simp only [execLiveFailureTrigger, if_pos (Or.inr h)]

/-- Probation is over: its slots and its PDUs (R265). -/
structure ProbationOver (s : State) (ci : Nat) (c : Cell) : Prop where
  phase : (getAdapt s ci).phase = phProbation
  calm : (getAdapt s ci).change = none
  slots : (getAdapt s ci).probationFrom + (getAdapt s ci).f 0x34 4 ≤ c.slotAt (nowNs s)
  pdus : (getAdapt s ci).f 0x38 2 ≤ (getAdapt s ci).tested

/-- The adaptation after probation, its baseline the share of failures in it. -/
def Adapt.proven (a : Adapt) : Adapt :=
  { a with phase := a.home, sums := [], baseline := if a.probPdus = 0 then a.baseline else 65536 * a.probFails / a.probPdus }

section
variable {s : State} {ci : Nat} {c : Cell} (hc : getCell s ci = some c)
include hc

theorem exec_liveFailureTrigger_of_group (hw : 0 < (getAdapt s ci).f 0x38 2)
    (hl : (getAdapt s ci).f 0x38 2 ≤ (getAdapt s ci).outcomes.length) :
    exec (.liveFailureTrigger ci) s = .next (
      if ((getAdapt s ci).baseline + (getAdapt s ci).f 0x3A 2) * (getAdapt s ci).f 0x38 2 < (getAdapt s ci).groupFails * 65536 then
        rollback (updAdapt s ci Adapt.tests) ci (if (getAdapt s ci).phase = phProbation then 1 else 4) false none
          ((getAdapt s ci).groupFails, (getAdapt s ci).f 0x38 2)
      else updAdapt s ci Adapt.tests) := by
  have hgroup : ¬ ((getCell s ci).isNone = true ∨
      (getAdapt s ci).f 0x38 2 = 0 ∨ (getAdapt s ci).outcomes.length < (getAdapt s ci).f 0x38 2) := by
    simp only [hc, Option.isNone_some, Bool.false_eq_true, false_or]
    omega
  show execLiveFailureTrigger ci s = _
  simp only [execLiveFailureTrigger, if_neg hgroup]
  rfl

/-! ### PROBATION_END (R265) -/

theorem exec_probationEnd_of_over (h : ProbationOver s ci c) : ∃ t, exec (.probationEnd ci) s = .next t ∧
    getAdapt t ci = ((getAdapt s ci).noted true).proven := by
  show ∃ t, execProbationEnd ci s = .next t ∧ _
  simp only [execProbationEnd, hc]
  rw [if_pos ⟨h.phase, by rw [h.calm]; rfl, h.slots, h.pdus⟩]
  refine ⟨_, rfl, ?_⟩
  rw [getAdapt_updAdapt_self, getAdapt_adaptEvent, hc]
  rfl

theorem exec_probationEnd_of_not (h : ¬ ProbationOver s ci c) : exec (.probationEnd ci) s = .next s := by
  show execProbationEnd ci s = _
  simp only [execProbationEnd, hc]
  rw [if_neg]
  rintro ⟨hphase, hcalm, hslots, hpdus⟩
  exact h ⟨hphase, Option.isNone_iff_eq_none.mp hcalm, hslots, hpdus⟩

end

end Sys2Proof.Machine
end

section
/-! The adaptation of a cell outside its commands: its statement, from the rules of staging, rounds, evaluation and the switch. -/

namespace Sys2Proof.Machine

/-- Settles O54: an entry by its phase, an evaluation by its tests, a round by what makes it due, a switch by the time left for it. -/
theorem adaptationTrainsEvaluatesAndSwitches : Obligations.AdaptationTrainsEvaluatesAndSwitches := by
  unfold Obligations.AdaptationTrainsEvaluatesAndSwitches
  intro s ci c hc
  refine ⟨fun entry pdus => ⟨exec_stagingProcess_of_none pdus, fun e hj he =>
      ⟨fun hp hn => ?short, fun hp hn ht => ?passes, fun hp hn ht => ?fails,
        fun hp => ⟨fun hw => ?alike, fun hw hx => ?worse⟩,
        fun hp hcap => ⟨fun htaken => ?frozen, fun hfree => ?captured⟩, fun h => ?passedBy⟩⟩,
    fun h => ?expired, fun h => ?unexpired,
    fun h base j hh hb hj hr hen hp hro hw hl hdue => ?round, fun h => ?noRound,
    fun hr => ⟨exec_roundEnd_of_none hr, exec_roundTimeout_of_none hr⟩,
    fun r h hr hh => ⟨exec_roundEnd_of_special hc hr hh, fun hw => ?trained⟩,
    fun r hr => ⟨fun h => ?timeout, fun h => ?running⟩,
    fun x j hx hj => ⟨exec_liveSwitch_of_copied hc hx hj, exec_liveSwitch_of_late hc hx hj, fun hcopied hlate hfed => ?unfed,
      fun hcopied hlate hfed => ?copy, fun hcopied slot hslot => ?takes⟩,
    exec_liveSwitch_of_none hc,
    ⟨exec_liveFailureTrigger_of_short, fun hw hl => ⟨fun h => ?holds, fun h => ⟨fun hx => ?rolls, fun x hx hr ht => ?pending⟩⟩⟩,
    fun hp hx hs ht => ?proven, fun h => ?unproven⟩
  case short =>
    exact ⟨_, (exec_stagingProcess_of_evaluating hc hj he pdus hp).trans
      (congrArg _ (closeEvaluation_of_short (getAdapt_updAdapt_self ..) hn)), getAdapt_updAdapt_self .., rfl, rfl⟩
  case passes =>
    obtain ⟨x, hx⟩ := getAdapt_closeEvaluation_of_passes (getAdapt_updAdapt_self s ci (·.evaluate entry (newSums s ci c e pdus))) hc hn ht
    exact ⟨_, exec_stagingProcess_of_evaluating hc hj he pdus hp, by rw [hx], by rw [hx]; rfl, by rw [hx]; rfl⟩
  case fails =>
    have hrej := getAdapt_closeEvaluation_of_fails (getAdapt_updAdapt_self s ci (·.evaluate entry (newSums s ci c e pdus))) hc hn ht
    exact ⟨_, exec_stagingProcess_of_evaluating hc hj he pdus hp, by rw [hrej]; rfl, by rw [hrej]; rfl, by rw [hrej]; rfl⟩
  case alike =>
    exact ⟨_, (exec_stagingProcess_of_probation hc hj he pdus hp).trans (congrArg _ (if_neg hw)), getAdapt_updAdapt_self .., rfl, rfl⟩
  case worse =>
    obtain ⟨t, x, hexec, hwork, hadapt⟩ := exec_stagingProcess_of_worse hc hj he pdus hp hx hw
    exact ⟨t, _, hexec, by rw [hadapt], rfl, rfl, rfl, rfl, rfl, hwork⟩
  case frozen =>
    exact ⟨_, _, exec_stagingProcess_of_nextFrozen hc hj he pdus hcap htaken, by rw [getCell_updCell_self, getCell_updAdapt, hc, Option.map_some],
      rfl, by rw [getAdapt_updCell, getAdapt_updAdapt_self]; rfl, updCell_work ..⟩
  case captured =>
    obtain ⟨t, hexec, hadapt, hcells, hjobs⟩ := exec_stagingProcess_of_free hc hj he pdus hcap hfree
    exact ⟨t, hexec, by rw [hadapt]; rfl, by rw [hadapt]; rfl, by rw [hadapt]; rfl, hcells, hjobs⟩
  case passedBy =>
    have hexec := exec_stagingProcess_of_uncaptured hc hj he pdus
      (fun hp => by obtain h | h | ⟨h, -⟩ := h <;> cases h.symm.trans hp)
      (fun hp => by obtain h | h | ⟨h, -⟩ := h <;> cases h.symm.trans hp) (Adapt.wouldCapture_eq_false h)
    exact ⟨_, hexec, by rw [getAdapt_updAdapt_self]; rfl, rfl, rfl⟩
  case expired =>
    have hrej := getAdapt_rejectCandidate hc
    exact ⟨_, (exec_evalExpiry hc).trans (congrArg _ (if_pos h)), rfl, by rw [hrej]; rfl, by rw [hrej]; rfl, by rw [hrej]; rfl⟩
  case unexpired =>
    refine (exec_evalExpiry hc).trans (congrArg _ (if_neg ?_))
    rintro ⟨hp, hs⟩
    obtain h | h := h
    · exact h hp
    · omega
  case round =>
    have hexec := exec_trainingRoundStart_of_due hc ⟨hp, hen, hro, hw, hl, hdue⟩ hh hb hj hr
    refine ⟨fun hlost => ?_, fun hlost => ⟨fun d hd => ?_, fun j' hj' => ?_⟩⟩
    · rw [hexec, if_neg hlost]; rfl
    · rw [hexec, if_pos hlost, hd]; rfl
    · rw [hexec, if_pos hlost, hj']; rfl
  case noRound =>
    refine exec_trainingRoundStart_of_not hc ?_
    obtain h | h | h | h | h | ⟨l, hlast, h⟩ := h
    · exact .inl fun hd => h hd.training
    · exact .inl fun hd => by simp [hd.enable] at h
    · exact .inl fun hd => by simp [hd.free] at h
    · exact .inr h
    · exact .inl fun hd => Nat.not_le.mpr h hd.held
    · exact .inl fun hd => Nat.not_le.mpr h (hd.due l hlast)
  case trained =>
    obtain ⟨t, hexec, hadapt⟩ := exec_roundEnd_of_trained hc hr hh hw
    have hround : (getAdapt (roundEnded s ci h) ci).round = none := by rw [roundEnded, getAdapt_updAdapt_self]
    exact ⟨t, hexec, by rw [hadapt]; rfl, by rw [hadapt]; exact hround, by rw [hadapt]; rfl, by rw [hadapt]; rfl, by rw [hadapt]; rfl⟩
  case timeout =>
    exact ⟨_, (exec_roundTimeout_of_round hr).trans (congrArg _ (if_pos h)), rfl, round_abandonRound s ci⟩
  case running => exact (exec_roundTimeout_of_round hr).trans (congrArg _ (if_neg (Nat.not_le.mpr h)))
  case unfed =>
    rw [exec_liveSwitch_of_inTime hc hx hj hcopied hlate, hfed]
    rfl
  case copy =>
    have hexec := exec_liveSwitch_of_inTime hc hx hj hcopied hlate
    rw [hfed, if_pos rfl] at hexec
    refine ⟨_, hexec, by rw [getAdapt_updAdapt_self], by rw [updAdapt_cells, x.copy_radio], fun k hk => ?_, fun hk => ?_⟩
    · rw [updAdapt_work, LiveChange.copy, hk]
    · rw [updAdapt_work, LiveChange.copy, hk]
  case takes =>
    have hadapt := getAdapt_switchTakes hc x
    refine ⟨_, _, settleSwitch_of_copied hc hx hcopied hslot, by rw [hadapt]; rfl, by rw [hadapt]; rfl, by rw [hadapt]; rfl,
      getCell_switchTakes hc x, fun hk => ?_, fun hk hlearned => ?_, fun hr => ?_, fun hr hp => ?_⟩
    · simp [hk]
    · simp [hk, hlearned]
    · rw [hadapt]
      simp [Adapt.noted, Adapt.switched, hr]
    · rw [hadapt]
      simp [Adapt.noted, Adapt.switched, hr, hp, phProbation, phEvaluating, phPassed]
  case holds =>
    refine ⟨_, (exec_liveFailureTrigger_of_group hc hw hl).trans (congrArg _ (if_neg (Nat.not_lt.mpr h))), rfl, rfl, ?_⟩
    rw [getAdapt_updAdapt_self]
    exact ⟨rfl, rfl, rfl⟩
  case rolls =>
    obtain ⟨⟨n, hroll⟩, -⟩ := rollback_of_trigger (s := updAdapt s ci Adapt.tests) hc
      (fun x h => hx x (by rw [getAdapt_updAdapt_self] at h; exact h)) _ _
    exact ⟨_, _, (exec_liveFailureTrigger_of_group hc hw hl).trans (congrArg _ (if_pos h)), by rw [hroll], rfl, rfl, rfl, rfl, rfl⟩
  case pending =>
    have hx' : (getAdapt (updAdapt s ci Adapt.tests) ci).change = some x := by rw [getAdapt_updAdapt_self]; exact hx
    refine ⟨_, (exec_liveFailureTrigger_of_group hc hw hl).trans
      (congrArg _ ((if_pos h).trans (rollback_of_triggered hx' hr ht ..))), hx', ?_⟩
    rw [getAdapt_updAdapt_self]
    rfl
  case proven =>
    obtain ⟨t, hexec, hadapt⟩ := exec_probationEnd_of_over hc ⟨hp, hx, hs, ht⟩
    exact ⟨t, hexec, by rw [hadapt]; rfl, by rw [hadapt]; rfl, by rw [hadapt]; rfl⟩
  case unproven =>
    refine exec_probationEnd_of_not hc fun ho => ?_
    obtain h | h | h | h := h
    · exact h ho.phase
    · exact Nat.not_le.mpr h ho.pdus
    · simp [ho.calm] at h
    · exact Nat.not_le.mpr h ho.slots

end Sys2Proof.Machine
end

section
/-! ADAPT_CONFIG with each ACTION, ADAPT_PROMOTE and ADAPT_ROLLBACK (10 R268-R272). -/

namespace Sys2Proof.Machine

/-- The shared checks pass where the fields are in range and the caller may: what the command adds decides. -/
theorem checks_of_allowed {s t : State} {op since len : Nat} {m : Msg} {c : Ctx} (hc : Carried s op since len m t c) {fields tenant : Bool}
    (hf : fields = true) (ht : tenant = true) (rest : List (Bool × Nat)) : c.checks t fields tenant false true rest = firstFail rest := by
  rw [checks_of_carried hc, hf, ht]
  rfl

/-! ### SET (R268, R269) -/

/-- The adaptation that a SET has configured. -/
def Adapt.set (a : Adapt) (c : Ctx) : Adapt :=
  { a with
    config := c.m.body, owner := c.m.src, enable := bit (c.f 0x13 1) 0, auto := bit (c.f 0x13 1) 1
    phase := if bit (c.f 0x13 1) 0 then phTraining else phOff }

/-- A SET takes effect on the adaptation; without ENABLE a round is abandoned. -/
def setAdapt (w : State) (c : Ctx) : State :=
  let v := updAdapt w (c.f 0x10 1) (·.set c)
  if bit (c.f 0x13 1) 0 then v else abandonRound v (c.f 0x10 1)

/-- A SET takes effect on the adaptation, and selects the cell's receiver. -/
def setDone (w : State) (c : Ctx) (x : Cell) : State :=
  updCell (setAdapt w c) (c.f 0x10 1) fun y => { y with learned := bit (c.f 0x13 1) 2 && (slotWith (setAdapt w c) x 3).isSome }

/-- The job of the adaptation does not serve what a SET asks for. -/
def Adapt.reshaped (a : Adapt) (c : Ctx) : Bool :=
  a.job.isNone || decide ((a.config.drop 0xC).take 3 ≠ (c.m.body.drop 0xC).take 3) || decide (a.f 0x40 8 ≠ c.f 0x40 8) ||
    decide (a.f 0x3C 1 ≠ c.f 0x3C 1) || decide (a.f 0x14 1 ≠ c.f 0x14 1)

theorem Adapt.reshaped_iff {a : Adapt} {c : Ctx} : a.reshaped c = true ↔
    a.job = none ∨ (a.config.drop 0xC).take 3 ≠ (c.m.body.drop 0xC).take 3 ∨ a.f 0x40 8 ≠ c.f 0x40 8 ∨ a.f 0x3C 1 ≠ c.f 0x3C 1 ∨
      a.f 0x14 1 ≠ c.f 0x14 1 := by
  simp [Adapt.reshaped, or_assoc]

/-- The adaptation without its job. -/
def jobDropped (t : State) (ci : Nat) : State :=
  match (getAdapt t ci).job with
  | some h => updAdapt (dropAborted (abandonRound t ci) h []) ci fun a => { a with job := none }
  | none => t

/-- The adaptation without its job and, where it was configured, without its records. -/
def recordsDropped (t : State) (ci : Nat) : State :=
  if (getAdapt t ci).config ≠ [] then updAdapt (jobDropped t ci) ci fun a => { a with records := [] } else jobDropped t ci

/-- An adaptation that was never configured has no job and no records to drop. -/
theorem recordsDropped_of_new {t : State} {ci : Nat} (hjob : (getAdapt t ci).job = none) (hconfig : (getAdapt t ci).config = []) :
    recordsDropped t ci = t := by
  simp [recordsDropped, jobDropped, hjob, hconfig]

/-- What a SET answers after its job was loaded, or refused. -/
def setLoaded (r : State × Option Done) (c : Ctx) (x : Cell) : State × Option Done :=
  r.2.elim (setDone r.1 c x, some (Done.of eOk)) fun d => (r.1, some d)

theorem setLoaded_of_refused {r : State × Option Done} {d : Done} (h : r.2 = some d) (c : Ctx) (x : Cell) :
    setLoaded r c x = (r.1, some d) := by
  rw [setLoaded, h]
  rfl

theorem setLoaded_of_loaded {r : State × Option Done} (h : r.2 = none) (c : Ctx) (x : Cell) :
    setLoaded r c x = (setDone r.1 c x, some (Done.of eOk)) := by
  rw [setLoaded, h]
  rfl

/-- The image of a LOAD_SLOT. -/
def slotImage (t : State) (c : Ctx) (x : Cell) : List Byte := partBytes t x.part (c.f 0x50 8) (0x100 + Config.masterBytes)

/-- An evaluation begins of the image that has been written into a slot. -/
def slotLoaded (w : State) (ci : Nat) (x : Cell) (k : Nat) (img : List Byte) : State :=
  let v := writeSlotImage w x k (imgByte img 6) (imgByte img 7) (imgByte img 8) (img.drop 0x100) 0 0 0 0
  updAdapt v ci fun a => { a with phase := phEvaluating, sums := [], livePdus := 0, liveFails := 0, evalSlot := x.slotAt (nowNs v) }

/-- The candidate of an evaluation gives way to another slot's. -/
def candidateFreed (w : State) (x : Cell) (k : Nat) : State :=
  if slotState w x k ≠ 1 then
    (match slotWith w x 1 with
    | some o => setSlotState w x o 0
    | none => w)
  else w

/-- A slot's image is good, and the slot is not live. -/
structure LoadsSlot (t : State) (c : Ctx) (x : Cell) : Prop where
  slot : c.f 0x12 1 ≤ 1
  aligned : aligned (c.f 0x50 8) 64 = true
  inside : ∃ q, getPart t x.part = some q ∧ q.holds (c.f 0x50 8) (0x100 + Config.masterBytes) = true
  image : slotImageOk (slotImage t c x) = true
  crc : crc64 ((slotImage t c x).drop 0x100) = imgLe (slotImage t c x) 0x10 8
  finite : bf16Special ((slotImage t c x).drop 0x100) = false
  may : mayAdapt t c.m.src (some x) none = true
  idle : slotState t x (c.f 0x12 1) ≠ 3

section
variable {s t : State} {m : Msg} {c : Ctx} {x : Cell} (hc : Carried s 0x0A00 0x104 96 m t c) (hx : getCell t (c.f 0x10 1) = some x)
  (hci : c.f 0x10 1 ≤ 47)
include hc hx hci

section
variable (hfields : setFieldsOk c = true) (hmay : mayAdapt t c.m.src (some x) (some (c.f 0x14 1)) = true)
  (hledger : ∀ q, getPart t x.part = some q → q.holds (c.f 0x48 8) (c.f 0x18 2 * pageBytes) = true)
  (hcalm : (getAdapt t (c.f 0x10 1)).phase = phOff ∨ (getAdapt t (c.f 0x10 1)).phase = phTraining)
include hfields hmay hledger hcalm

/-- A SET that passes its checks loads the job again where its shape changes. -/
theorem carrySet_of_allowed : carrySet c t =
    if (getAdapt t (c.f 0x10 1)).reshaped c then setLoaded (loadAdapt (recordsDropped t (c.f 0x10 1)) (c.f 0x10 1) c.m.body c.m.src) c x
    else (setDone t c x, some (Done.of eOk)) := by
  unfold carrySet
  simp only [hx, Option.bind_some, ite_not]
  rw [checks_of_allowed hc (by simp [hfields, hci])]
  · simp only [Option.isSome_some, hcalm, decide_true, Bool.and_self, firstFail, if_true, whenOk_none]
    cases hch : (getAdapt t (c.f 0x10 1)).reshaped c with
    | false =>
      unfold Adapt.reshaped at hch
      simp only [hch, Bool.false_eq_true, if_false, false_and]
      rfl
    | true =>
      unfold Adapt.reshaped at hch
      simp only [hch, if_true, true_and]
      split
      · rename_i w d hload
        rw [show loadAdapt (recordsDropped t (c.f 0x10 1)) (c.f 0x10 1) c.m.body c.m.src = (w, some d) from hload]
        rfl
      · rename_i w hload
        rw [show loadAdapt (recordsDropped t (c.f 0x10 1)) (c.f 0x10 1) c.m.body c.m.src = (w, none) from hload]
        rfl
  · rw [hmay, Bool.true_and]
    split
    · exact hledger _ ‹_›
    · rfl

end

/-! ### LOAD_SLOT (R272) -/

theorem carryLoadSlot_of_loads (hl : LoadsSlot t c x) (hno : (getAdapt t (c.f 0x10 1)).phase ≠ phPassed)
    (hno' : (getAdapt t (c.f 0x10 1)).phase ≠ phProbation) : carryLoadSlot c t =
      (slotLoaded (if (getAdapt t (c.f 0x10 1)).phase = phEvaluating
        then candidateFreed (abandonRound t (c.f 0x10 1)) x (c.f 0x12 1) else abandonRound t (c.f 0x10 1))
        (c.f 0x10 1) x (c.f 0x12 1) (slotImage t c x), some (Done.of eOk)) := by
  obtain ⟨q, hq, hin⟩ := hl.inside
  have himage := hl.image
  have hcrc := hl.crc
  have hfinite := hl.finite
  unfold slotImage at himage hcrc hfinite
  unfold carryLoadSlot
  simp only [hx, Option.bind_some, hq, hin]
  rw [checks_of_allowed hc (by simp [himage, hci, hl.slot, hl.aligned]) (by simp [hl.may])]
  simp only [hcrc, hfinite, hno, hno', hl.idle, firstFail, Option.isSome_some, decide_false, decide_true, Bool.or_self, Bool.not_false,
    Bool.and_self, if_true, whenOk_none]
  by_cases hp : (getAdapt t (c.f 0x10 1)).phase = phEvaluating
  · simp only [hp, true_and, if_true]
    rfl
  · simp only [hp, false_and, if_false]
    rfl

/-! ### CLEAR_SLOT, QUERY (R270, R272) -/

theorem carryClearSlot_of_allowed (hk : c.f 0x12 1 ≤ 1) (hmay : mayAdapt t c.m.src (some x) none = true)
    (hno : (getAdapt t (c.f 0x10 1)).phase ≠ phPassed) (hno' : (getAdapt t (c.f 0x10 1)).phase ≠ phProbation)
    (hidle : slotState t x (c.f 0x12 1) ≠ 3) : carryClearSlot c t =
      (if (getAdapt t (c.f 0x10 1)).phase = phEvaluating ∧ slotState t x (c.f 0x12 1) = 1 then rejectCandidate t (c.f 0x10 1)
        else setSlotState t x (c.f 0x12 1) 0, some (Done.of eOk)) := by
  unfold carryClearSlot
  simp only [hx]
  rw [checks_of_allowed hc (by simp [hci, hk]) hmay]
  simp [firstFail, hno, hno', hidle]

theorem carryAdaptQuery_of_allowed (hmay : mayAdapt t c.m.src (some x) none = true) : carryAdaptQuery c t =
    (t, some ⟨eOk, (getAdapt t (c.f 0x10 1)).phase + 256 * slotState t x 0 + 65536 * slotState t x 1 + 16777216 * b2n x.learned,
      (getAdapt t (c.f 0x10 1)).sums.length, (getAdapt t (c.f 0x10 1)).records.length, min (getAdapt t (c.f 0x10 1)).rounds (2 ^ 32 - 1)⟩) := by
  unfold carryAdaptQuery
  simp only [hx]
  rw [checks_of_allowed hc (by simp [hci]) hmay]
  rfl

end

/-! ### ADAPT_PROMOTE, ADAPT_ROLLBACK (R271) -/

section
variable {s t : State} {op : Nat} {m : Msg} {c : Ctx} {x : Cell} (hc : Carried s op 0x104 24 m t c) (hx : getCell t (c.f 0x10 1) = some x)
  (hci : c.f 0x10 1 ≤ 47) (hzero : c.zero 0x12 0x18 = true) (hmay : mayAdapt t c.m.src (some x) none = true)
include hc hx hci hzero hmay

theorem carryPromote_of_passed (hflags : c.f 0x11 1 = 0) (hp : (getAdapt t (c.f 0x10 1)).phase = phPassed) :
    carryPromote c t = (promote t (c.f 0x10 1) (some c.tid), none) := by
  unfold carryPromote
  simp only [hx]
  rw [checks_of_allowed hc (by simp [hci, hflags, hzero]) hmay]
  simp [firstFail, hp]

theorem carryRollback_of_candidate (hflags : c.f 0x11 1 < 2)
    (hp : (getAdapt t (c.f 0x10 1)).phase = phEvaluating ∨ (getAdapt t (c.f 0x10 1)).phase = phPassed) :
    carryRollback c t = (rejectCandidate t (c.f 0x10 1), some ⟨eOk, 0xFFFFFFFF, 0, 0, 0⟩) := by
  unfold carryRollback
  simp only [hx]
  rw [checks_of_allowed hc (by simp [hci, hflags, hzero]) hmay]
  simp [firstFail, hp]

theorem carryRollback_of_live (hflags : c.f 0x11 1 < 2)
    (hno : (getAdapt t (c.f 0x10 1)).phase ≠ phEvaluating) (hno' : (getAdapt t (c.f 0x10 1)).phase ≠ phPassed)
    (hp : (getAdapt t (c.f 0x10 1)).phase = phProbation ∨ (slotWith t x 3).isSome = true) :
    carryRollback c t = (rollback t (c.f 0x10 1) 3 (bit (c.f 0x11 1) 0) (some c.tid) (0, 0), none) := by
  unfold carryRollback
  simp only [hx]
  rw [checks_of_allowed hc (by simp [hci, hflags, hzero]) hmay]
  simp [firstFail, hp, hno, hno']

end

/-! ### ADAPT_CONFIG by its ACTION (R268) -/

section
variable {s t : State} {m : Msg} {c : Ctx}

theorem action_of_carried {op since len : Nat} (hc : Carried s op since len m t c) : c.f 0x11 1 = adaptAction m := by
  rw [Ctx.f, hc.msg]
  rfl

/-- The command of an ACTION carries out what the ACTION means, and the command of another ACTION does nothing. -/
theorem exec_adaptConfig_of_action {u : State} {d : Done} (hc : Carried s 0x0A00 0x104 96 m t c) (ha : adaptAction m ∉ [1, 2, 3])
    (h : carryAdapt c t = (u, some d)) : exec (.adaptConfig m) s = .next (answered u c d) :=
  (if_neg ha).trans (runCommand_of_done hc (by decide) (by decide) h)

theorem exec_adaptConfig_of_set {u : State} {d : Done} (hc : Carried s 0x0A00 0x104 96 m t c) (ha : adaptAction m = 0)
    (h : carrySet c t = (u, some d)) : exec (.adaptConfig m) s = .next (answered u c d) := by
  refine exec_adaptConfig_of_action hc (by rw [ha]; decide) ?_
  simp only [carryAdapt, action_of_carried hc, ha, h]

theorem exec_adaptConfig_of_unassigned (hc : Carried s 0x0A00 0x104 96 m t c) (ha : adaptAction m ∉ [0, 1, 2, 3]) :
    exec (.adaptConfig m) s = .next (answered t c (Done.of eVersion)) := by
  have hne : adaptAction m ≠ 0 ∧ adaptAction m ≠ 1 ∧ adaptAction m ≠ 2 ∧ adaptAction m ≠ 3 := by simpa using ha
  obtain ⟨h0, h1, h2, h3⟩ := hne
  refine exec_adaptConfig_of_action hc (by simp [h1, h2, h3]) ?_
  unfold carryAdapt
  rw [action_of_carried hc]
  split
  · exact absurd ‹_› h0
  · exact absurd ‹_› h1
  · exact absurd ‹_› h2
  · exact absurd ‹_› h3
  · rfl

theorem exec_loadSlot_of_action {u : State} {d : Done} (hc : Carried s 0x0A00 0x104 96 m t c) (ha : adaptAction m = 1)
    (h : carryLoadSlot c t = (u, some d)) : exec (.loadSlot m) s = .next (answered u c d) :=
  (if_pos ha).trans (runCommand_of_done hc (by decide) (by decide) (by simp only [carryAdapt, action_of_carried hc, ha, h]))

theorem exec_clearSlot_of_action {u : State} {d : Done} (hc : Carried s 0x0A00 0x104 96 m t c) (ha : adaptAction m = 2)
    (h : carryClearSlot c t = (u, some d)) : exec (.clearSlot m) s = .next (answered u c d) :=
  (if_pos ha).trans (runCommand_of_done hc (by decide) (by decide) (by simp only [carryAdapt, action_of_carried hc, ha, h]))

theorem exec_adaptQuery_of_action {u : State} {d : Done} (hc : Carried s 0x0A00 0x104 96 m t c) (ha : adaptAction m = 3)
    (h : carryAdaptQuery c t = (u, some d)) : exec (.adaptQuery m) s = .next (answered u c d) :=
  (if_pos ha).trans (runCommand_of_done hc (by decide) (by decide) (by simp only [carryAdapt, action_of_carried hc, ha, h]))

end

end Sys2Proof.Machine
end

section
/-! The ADAPT commands: their statement, from the rules of each ACTION, of promotion and of rollback. -/

namespace Sys2Proof.Machine

/-- Settles O55: each command passes its checks, and a SET loads the job where its shape changes. -/
theorem adaptationCommandsSetLoadAndSwitch : Obligations.AdaptationCommandsSetLoadAndSwitch := by
  unfold Obligations.AdaptationCommandsSetLoadAndSwitch
  intro s m t c x
  refine ⟨fun hx hci => ⟨fun hc => ⟨fun ha hf hmay hl hcalm => ⟨fun w hw => ?kept, fun w d hjob hconfig hload => ?refused⟩,
        fun ha hf hmay hl hcalm hsh => ⟨fun d hd => ?reshapedRefused, fun hd => ?reshaped⟩, fun ha => exec_adaptConfig_of_unassigned hc ha,
        fun ha hk hal hin him hcrc hfin hmay hp hidle => ?loadEvaluating, fun ha hk hal hin him hcrc hfin hmay hp hidle => ?load,
        fun ha hk hmay hno hno' hidle => ?clear, fun ha hmay => ?query⟩,
      fun hc hz hzero hmay hp => ?promote, fun hc hfl hzero hmay => ⟨fun hp => ?candidate, fun hp => ?live⟩⟩,
    fun h => if_pos h, fun h => if_neg h, fun h => if_neg h, fun h => if_neg h⟩
  case kept =>
    obtain rfl := hc.msg
    refine exec_adaptConfig_of_set hc ha ?_
    rw [carrySet_of_allowed hc hx hci hf hmay hl hcalm]
    obtain ⟨hjob, hconfig, hload⟩ | ⟨hjob, hshape, hseed, hcores, htrain, rfl⟩ := hw
    · rw [if_pos (Adapt.reshaped_iff.mpr (.inl hjob)), recordsDropped_of_new hjob hconfig, hload]
      rfl
    · have hkept : ¬ (getAdapt w (c.f 0x10 1)).reshaped c = true := by
        rw [Adapt.reshaped_iff]
        rintro (h | h | h | h | h)
        · simp [h] at hjob
        · exact h hshape
        · exact h hseed
        · exact h hcores
        · exact h htrain
      rw [if_neg hkept]
      rfl
  case refused =>
    obtain rfl := hc.msg
    refine exec_adaptConfig_of_set hc ha ?_
    rw [carrySet_of_allowed hc hx hci hf hmay hl hcalm, if_pos (Adapt.reshaped_iff.mpr (.inl hjob)), recordsDropped_of_new hjob hconfig, hload]
    rfl
  case reshapedRefused =>
    obtain rfl := hc.msg
    refine exec_adaptConfig_of_set hc ha ?_
    rw [carrySet_of_allowed hc hx hci hf hmay hl hcalm, if_pos (Adapt.reshaped_iff.mpr hsh)]
    exact setLoaded_of_refused hd c x
  case reshaped =>
    obtain rfl := hc.msg
    refine exec_adaptConfig_of_set hc ha ?_
    rw [carrySet_of_allowed hc hx hci hf hmay hl hcalm, if_pos (Adapt.reshaped_iff.mpr hsh)]
    exact setLoaded_of_loaded hd c x
  case loadEvaluating =>
    obtain rfl := hc.msg
    have hcarry := carryLoadSlot_of_loads hc hx hci ⟨hk, hal, hin, him, hcrc, hfin, hmay, hidle⟩ (by rw [hp]; decide) (by rw [hp]; decide)
    rw [if_pos hp] at hcarry
    exact ⟨_, exec_loadSlot_of_action hc ha hcarry, rfl⟩
  case load =>
    obtain rfl := hc.msg
    have hcarry := carryLoadSlot_of_loads hc hx hci ⟨hk, hal, hin, him, hcrc, hfin, hmay, hidle⟩
      (by obtain hp | hp := hp <;> rw [hp] <;> decide) (by obtain hp | hp := hp <;> rw [hp] <;> decide)
    rw [if_neg (by obtain hp | hp := hp <;> rw [hp] <;> decide)] at hcarry
    exact exec_loadSlot_of_action hc ha hcarry
  case clear =>
    obtain rfl := hc.msg
    exact exec_clearSlot_of_action hc ha (carryClearSlot_of_allowed hc hx hci hk hmay hno hno' hidle)
  case query =>
    obtain rfl := hc.msg
    exact exec_adaptQuery_of_action hc ha (carryAdaptQuery_of_allowed hc hx hci hmay)
  case promote =>
    obtain rfl := hc.msg
    exact runCommand_of_waits hc (by decide) (by decide) (carryPromote_of_passed hc hx hci hzero hmay hz hp)
  case candidate =>
    obtain rfl := hc.msg
    exact runCommand_of_done hc (by decide) (by decide) (carryRollback_of_candidate hc hx hci hzero hmay hfl hp)
  case live =>
    obtain rfl := hc.msg
    have hno : (getAdapt t (c.f 0x10 1)).phase ≠ phEvaluating ∧ (getAdapt t (c.f 0x10 1)).phase ≠ phPassed := by
      obtain hp | ⟨hno, hno', -⟩ := hp
      · rw [hp]; decide
      · exact ⟨hno, hno'⟩
    exact runCommand_of_waits hc (by decide) (by decide)
      (carryRollback_of_live hc hx hci hzero hmay hfl hno.1 hno.2 (hp.imp_right fun h => h.2.2))

end Sys2Proof.Machine
end

section
/-! Step positions: their parents, the positions that each sees, and where a step block carries both (11 R291, R297). -/

namespace Sys2Proof.Machine

/-! ### Parents -/

/-- A service's drafts form a tree below the root: DRAFT_PARENT names an earlier draft, or none. -/
structure Svc.DraftTree (v : Svc) : Prop where
  short : v.draftN ≤ 15
  earlier : ∀ k, k < v.draftN → v.draftParent k = 0xFF ∨ v.draftParent k < k

/-- PARENT of a step position. -/
def Svc.parent (v : Svc) (i : Nat) : Nat :=
  if i = 0 then 0xFF else if v.draftParent (i - 1) = 0xFF then 0 else v.draftParent (i - 1) + 1

theorem Svc.parents_eq (v : Svc) (n : Nat) : v.parents n = (List.range n).map v.parent := rfl

@[simp] theorem Svc.parents_length (v : Svc) (n : Nat) : (v.parents n).length = n := by simp [Svc.parents_eq]

theorem Svc.getElem?_parents (v : Svc) {i n : Nat} (h : i < n) : (v.parents n)[i]? = some (v.parent i) := by
  simp [Svc.parents_eq, h]

theorem Svc.nth_parents (v : Svc) {i n : Nat} (h : i < n) : nth 0xFF (v.parents n) i = v.parent i :=
  nth_map_range 0xFF _ h

@[simp] theorem Svc.parent_zero (v : Svc) : v.parent 0 = 0xFF := rfl

theorem Svc.parent_of_pos (v : Svc) {i : Nat} (h : 1 ≤ i) :
    v.parent i = if v.draftParent (i - 1) = 0xFF then 0 else v.draftParent (i - 1) + 1 :=
  if_neg (by omega)

theorem Svc.parents_of_fields {v w : Svc} (h : w.fields = v.fields) : w.parents = v.parents := by
  have hdrafts : w.draftParent = v.draftParent := funext fun i => by rw [Svc.draftParent, Svc.draftParent, Svc.f, Svc.f, h]
  funext n
  rw [Svc.parents, Svc.parents, hdrafts]

section
variable {v : Svc} (hv : v.DraftTree)
include hv

/-- A position's parent is an earlier position. -/
theorem Svc.DraftTree.parent_lt {i : Nat} (h : 1 ≤ i) (hi : i ≤ v.draftN) : v.parent i < i := by
  rw [v.parent_of_pos h]
  have := hv.earlier (i - 1) (by omega)
  split <;> omega

/-- Every entry of PARENT fits its byte. -/
theorem Svc.DraftTree.parent_le {i : Nat} (hi : i ≤ v.draftN) : v.parent i ≤ 0xFF := by
  cases i with
  | zero => rfl
  | succ i =>
    have hlt := hv.parent_lt (i := i + 1) (Nat.succ_pos i) hi
    have := hv.short
    omega

end

/-! ### Masks -/

/-- Position b is the parent of position a. -/
def IsParent (ps : List Nat) (a b : Nat) : Prop := 1 ≤ a ∧ ps[a]? = some b

theorem not_isParent_zero (ps : List Nat) (b : Nat) : ¬ IsParent ps 0 b := fun h => absurd h.1 (by decide)

theorem Svc.isParent_iff (v : Svc) {n a b : Nat} (h : 1 ≤ a) (ha : a < n) : IsParent (v.parents n) a b ↔ b = v.parent a := by
  rw [IsParent, v.getElem?_parents ha, Option.some.injEq]
  exact ⟨fun hp => hp.2.symm, fun hp => ⟨h, hp.symm⟩⟩

/-- A walk of enough steps up the tree meets a position exactly when it is the start or an ancestor of it. -/
theorem Svc.DraftTree.sees_iff {v : Svc} (hv : v.DraftTree) {n i : Nat} (j : Nat) (hn : i ≤ n) (hi : i ≤ v.draftN) :
    sees (v.parents (v.draftN + 1)) n i j = true ↔ Relation.ReflTransGen (IsParent (v.parents (v.draftN + 1))) i j := by
  induction n generalizing i with
  | zero =>
    obtain rfl : i = 0 := Nat.le_zero.mp hn
    rw [Relation.ReflTransGen.cases_head_iff]
    simp [sees, not_isParent_zero]
  | succ n ih =>
    rw [sees, v.nth_parents (by omega), Relation.ReflTransGen.cases_head_iff]
    rcases Nat.eq_zero_or_pos i with rfl | hpos
    · simp [not_isParent_zero]
    · have hlt := hv.parent_lt hpos hi
      have hshort := hv.short
      have hne : v.parent i ≠ 0xFF := by omega
      simp [v.isParent_iff hpos (Nat.lt_succ_of_le hi), ih (i := v.parent i) (by omega) (by omega), hne]

theorem sumNat_append_singleton (l : List Nat) (a : Nat) : sumNat (l ++ [a]) = sumNat l + a := by simp [sumNat]

/-- The sum of the powers of two that a predicate selects. -/
def bitSum (p : Nat → Bool) (n : Nat) : Nat := sumNat ((List.range n).map fun j => if p j then 2 ^ j else 0)

theorem bitSum_succ (p : Nat → Bool) (n : Nat) : bitSum p (n + 1) = bitSum p n + if p n then 2 ^ n else 0 := by
  rw [bitSum, List.range_succ, List.map_append, List.map_singleton, sumNat_append_singleton]
  rfl

theorem bitSum_lt (p : Nat → Bool) (n : Nat) : bitSum p n < 2 ^ n := by
  induction n with
  | zero => simp [bitSum, sumNat]
  | succ n ih => rw [bitSum_succ]; split <;> omega

theorem testBit_bitSum (p : Nat → Bool) (n j : Nat) : (bitSum p n).testBit j = (decide (j < n) && p j) := by
  induction n with
  | zero => simp [bitSum, sumNat]
  | succ n ih =>
    rw [bitSum_succ]
    have hlt : decide (j < n + 1) = (decide (j < n) || decide (n = j)) := by
      rw [← Bool.decide_or]; exact decide_eq_decide.mpr (by omega)
    by_cases hp : p n
    · have hor : bitSum p n + 2 ^ n = 2 ^ n ||| bitSum p n := by
        have := Nat.two_pow_add_eq_or_of_lt (bitSum_lt p n) 1
        rw [Nat.mul_one] at this
        rw [Nat.add_comm, this]
      rw [if_pos hp, hor, Nat.testBit_or, Nat.testBit_two_pow, ih, hlt]
      by_cases hj : n = j
      · subst hj; simp [hp]
      · simp [hj]
    · rw [if_neg hp, Nat.add_zero, ih, hlt]
      by_cases hj : n = j
      · subst hj; simp [hp]
      · simp [hj]

theorem maskOf_eq (ps : List Nat) (i : Nat) : maskOf ps i = bitSum (sees ps 16 i) ps.length := rfl

theorem Svc.DraftTree.testBit_maskOf {v : Svc} (hv : v.DraftTree) {i : Nat} (j : Nat) (hi : i ≤ v.draftN) :
    (maskOf (v.parents (v.draftN + 1)) i).testBit j = true ↔ Relation.ReflTransGen (IsParent (v.parents (v.draftN + 1))) i j := by
  have hsees := hv.sees_iff (n := 16) j (by have := hv.short; omega) hi
  rw [maskOf_eq, testBit_bitSum, Svc.parents_length, Bool.and_eq_true, hsees, decide_eq_true_eq]
  refine and_iff_right_of_imp fun hr => Nat.lt_succ_of_le (le_trans ?_ hi)
  clear hsees
  induction hr with
  | refl => exact le_rfl
  | tail _ hp ih =>
    obtain rfl := (v.isParent_iff hp.1 (by omega)).mp hp
    exact (hv.parent_lt hp.1 (by omega)).le.trans ih

/-- A mask fits its two bytes. -/
theorem Svc.DraftTree.maskOf_lt {v : Svc} (hv : v.DraftTree) (i : Nat) : maskOf (v.parents (v.draftN + 1)) i < 256 ^ 2 :=
  calc maskOf (v.parents (v.draftN + 1)) i < 2 ^ (v.draftN + 1) := by
        rw [maskOf_eq, Svc.parents_length]
        exact bitSum_lt ..
    _ ≤ 2 ^ 16 := Nat.pow_le_pow_right (by decide) (Nat.succ_le_succ hv.short)

/-! ### Their place in a step block -/

/-- A little-endian field that lies in a padded message. -/
theorem imgLe_padTo_append {m n : Nat} (a b : List Byte) (x : Nat) (h : a.length + n ≤ m) :
    imgLe (padTo m (a ++ leBytes n x ++ b)) a.length n = x % 256 ^ n := by
  have hfield : ((padTo m (a ++ leBytes n x ++ b)).drop a.length).take n = leBytes n x := by
    rw [padTo, List.drop_take, List.take_take, Nat.min_eq_left (by omega)]
    simp
  rw [imgLe, hfield, leNat_leBytes]

/-- An entry of a list of entries of one width has its place. -/
theorem fillBytes_split {k i : Nat} (n fill : Nat) (l : List Nat) (h : i < k) :
    ∃ a b, fillBytes k n fill l = a ++ leBytes n (nth fill l i) ++ b ∧ a.length = n * i := by
  refine ⟨(List.range i).flatMap fun i => leBytes n (nth fill l i),
    (List.range (k - (i + 1))).flatMap fun d => leBytes n (nth fill l (i + 1 + d)), ?_, ?_⟩
  · obtain ⟨d, rfl⟩ : ∃ d, k = i + 1 + d := ⟨k - (i + 1), by omega⟩
    simp [fillBytes, List.range_add, List.range_succ, List.flatMap_map]
  · simp [List.length_flatMap, Nat.mul_comm]

theorem fillBytes_length (k n fill : Nat) (l : List Nat) : (fillBytes k n fill l).length = k * n := by
  simp [fillBytes, List.length_flatMap]

/-- What a slot in use holds after its masks (R291). -/
def Svc.slotRest (v : Svc) (k : BatchSlot) (x : Session) : List Byte :=
  fillBytes 16 1 0xFF x.compact ++ fillBytes 48 1 0 [] ++ fillBytes 256 4 0 k.tokens
    ++ fillBytes v.maxPages 4 0xFFFFFFFF (x.pages.map fun p => (v.page p).frame.getD 0xFFFFFFFF)

/-- What a slot in use holds before its parents (R291). -/
def slotHead (k : BatchSlot) (x : Session) : List Byte :=
  leBytes 4 x.id ++ leBytes 4 x.length ++ leBytes 2 k.tokens.length ++ leBytes 2 x.pages.length ++ leBytes 4 x.prior

theorem slotHead_length (k : BatchSlot) (x : Session) : (slotHead k x).length = 0x10 := by simp [slotHead]

theorem Svc.slotData_some (v : Svc) (k : BatchSlot) (x : Session) : v.slotData (some (k, x)) =
    padTo v.slotBytes (slotHead k x ++ fillBytes 16 1 0xFF k.parents
      ++ fillBytes 16 2 0 ((List.range k.parents.length).map (maskOf k.parents)) ++ v.slotRest k x) := by
  simp only [Svc.slotData, slotHead, Svc.slotRest, List.append_assoc]

theorem Svc.le_slotBytes (v : Svc) : 0x480 ≤ v.slotBytes := by
  unfold Svc.slotBytes ceilDiv
  omega

theorem Svc.imgLe_slotData_parent (v : Svc) (k : BatchSlot) (x : Session) {i : Nat} (hi : i < 16) :
    imgLe (v.slotData (some (k, x))) (0x10 + i) 1 = nth 0xFF k.parents i % 256 := by
  obtain ⟨a, b, hsplit, hlen⟩ := fillBytes_split 1 0xFF k.parents hi
  have hat : (slotHead k x ++ a).length = 0x10 + i := by rw [List.length_append, slotHead_length, hlen, Nat.one_mul]
  have hfield := imgLe_padTo_append (m := v.slotBytes) (n := 1) (slotHead k x ++ a)
    (b ++ fillBytes 16 2 0 ((List.range k.parents.length).map (maskOf k.parents)) ++ v.slotRest k x) (nth 0xFF k.parents i)
    (by have := v.le_slotBytes; omega)
  rw [hat, Nat.pow_one] at hfield
  rw [v.slotData_some, hsplit, ← hfield]
  simp only [List.append_assoc]

theorem Svc.imgLe_slotData_mask (v : Svc) (k : BatchSlot) (x : Session) {i : Nat} (hi : i < 16) (hk : i < k.parents.length) :
    imgLe (v.slotData (some (k, x))) (0x20 + 2 * i) 2 = maskOf k.parents i % 256 ^ 2 := by
  obtain ⟨a, b, hsplit, hlen⟩ := fillBytes_split 2 0 ((List.range k.parents.length).map (maskOf k.parents)) hi
  rw [nth_map_range 0 _ hk] at hsplit
  have hat : (slotHead k x ++ fillBytes 16 1 0xFF k.parents ++ a).length = 0x20 + 2 * i := by
    rw [List.length_append, List.length_append, slotHead_length, fillBytes_length, hlen]
  have hfield := imgLe_padTo_append (m := v.slotBytes) (n := 2) (slotHead k x ++ fillBytes 16 1 0xFF k.parents ++ a)
    (b ++ v.slotRest k x) (maskOf k.parents i) (by have := v.le_slotBytes; omega)
  rw [hat] at hfield
  rw [v.slotData_some, hsplit, ← hfield]
  simp only [List.append_assoc]

end Sys2Proof.Machine
end

section
/-! The fields of a service stand while a batch is filled, so that its slots have the service's parents (11 R291, R294, R297). -/

namespace Sys2Proof.Machine

/-- From s to t, the fields of service n have not changed. -/
def SvcFieldsKept (n : Nat) (s t : State) : Prop := (getSvc t n).map Svc.fields = (getSvc s n).map Svc.fields

section
variable {n : Nat}

theorem SvcFieldsKept.refl (s : State) : SvcFieldsKept n s s := rfl

theorem SvcFieldsKept.trans {s t u : State} (h : SvcFieldsKept n s t) (k : SvcFieldsKept n t u) : SvcFieldsKept n s u :=
  Eq.trans k h

theorem SvcFieldsKept.foldl {α : Type} {f : State → α → State} (hf : ∀ s a, SvcFieldsKept n s (f s a)) (l : List α) (s : State) :
    SvcFieldsKept n s (l.foldl f s) := by
  induction l generalizing s with
  | nil => exact .refl s
  | cons a l ih => exact (hf s a).trans (ih (f s a))

theorem SvcFieldsKept.exists_some {s t : State} {v w : Svc} (h : SvcFieldsKept n s t) (hv : getSvc s n = some v)
    (hw : v.fields = w.fields) : ∃ v', getSvc t n = some v' ∧ v'.fields = w.fields := by
  rw [SvcFieldsKept, hv, Option.map_some, Option.map_eq_some_iff] at h
  obtain ⟨v', hv', hf⟩ := h
  exact ⟨v', hv', hf.trans hw⟩

theorem updSvc_svcFieldsKept (s : State) {f : Svc → Svc} (hf : ∀ v, (f v).fields = v.fields) : SvcFieldsKept n s (updSvc s n f) := by
  rw [SvcFieldsKept, getSvc_updSvc_self, Option.map_map]
  exact congrArg (Option.map · (getSvc s n)) (funext hf)

theorem updSession_svcFieldsKept (s : State) (id : Nat) (f : Session → Session) : SvcFieldsKept n s (updSession s n id f) :=
  updSvc_svcFieldsKept s fun _ => rfl

theorem hbmWrite_svcFieldsKept (s : State) (p a : Nat) (bs : List Byte) : SvcFieldsKept n s (hbmWrite s p a bs) := by
  simp only [SvcFieldsKept, getSvc, hbmWrite_services]

/-- A page that is taken leaves the fields. -/
theorem takePage_svcFieldsKept {s t : State} {k : Nat} (h : takePage s n = some (t, k)) : SvcFieldsKept n s t := by
  unfold takePage at h
  split at h
  · cases h
  · split at h
    · cases h
    · obtain ⟨rfl, -⟩ := Prod.mk.inj (Option.some.inj h)
      exact (hbmWrite_svcFieldsKept ..).trans (updSvc_svcFieldsKept _ fun _ => rfl)

theorem copyOnWrite_svcFieldsKept (s : State) (id k : Nat) : SvcFieldsKept n s (copyOnWrite s n id k) := by
  unfold copyOnWrite
  split
  · exact .refl s
  · rename_i t p htake
    refine (takePage_svcFieldsKept htake).trans ?_
    split
    · exact .refl t
    · dsimp only
      split
      · exact (hbmWrite_svcFieldsKept ..).trans ((updSession_svcFieldsKept ..).trans (updSvc_svcFieldsKept _ fun _ => rfl))
      · exact .refl t

theorem preparePages_svcFieldsKept (s : State) (id : Nat) : SvcFieldsKept n s (preparePages s n id).1 := by
  unfold preparePages
  split
  · exact .refl s
  · dsimp only
    split
    · exact updSession_svcFieldsKept ..
    · refine (SvcFieldsKept.foldl (fun s k => copyOnWrite_svcFieldsKept s id k) _ s).trans
        ((SvcFieldsKept.foldl (fun s _ => ?_) _ _).trans (updSession_svcFieldsKept ..))
      split
      · rename_i htake
        exact (takePage_svcFieldsKept htake).trans (updSession_svcFieldsKept ..)
      · exact .refl s

end

/-- The slots of a decode batch have the parents of the service, as many as they have tokens. -/
theorem parents_of_mem_fillBatch {n : Nat} (v : Svc) (xs : List Session) (s : State) (acc : List BatchSlot)
    (hs : ∃ w, getSvc s n = some w ∧ w.fields = v.fields) (hacc : ∀ b ∈ acc, b.parents = v.parents b.tokens.length) :
    ∀ b ∈ (fillBatch n false s xs acc).2, b.parents = v.parents b.tokens.length := by
  induction xs generalizing s acc with
  | nil => exact hacc
  | cons x xs ih =>
    obtain ⟨w, hw, hfields⟩ := hs
    have hnext := (preparePages_svcFieldsKept (n := n) s x.id).exists_some hw hfields
    unfold fillBatch
    simp only [hw]
    split
    · exact ih s acc ⟨w, hw, hfields⟩ hacc
    · split
      · exact ih _ acc hnext hacc
      · refine ih _ _ hnext fun b hb => ?_
        rw [List.mem_append, List.mem_singleton] at hb
        obtain hb | rfl := hb
        · exact hacc b hb
        · exact congrFun (Svc.parents_of_fields hfields) _

/-- Without speculation, or without drafts, a step computes the root alone. -/
theorem Svc.nextTokens_length_eq_one {v : Svc} {x : Session} (hp : x.phase = phGenerating)
    (h : (∀ g, x.gen = some g → g.speculate = false) ∨ v.draftN = 0) : (v.nextTokens x).length = 1 := by
  have hno : ¬ x.phase = phPrefill := by rw [hp]; decide
  simp only [Svc.nextTokens, if_neg hno]
  obtain h | h := h
  · cases hg : x.gen with
    | none => rfl
    | some g => simp [h g hg]
  · rw [h]
    split <;> simp

/-- Settles O58: a walk up the tree of drafts is the closure of its parents, a mask the sum of the bits it sees, and a batch is filled
from a service whose fields stand. -/
theorem stepPositionsHaveParentsAndMasks : Obligations.StepPositionsHaveParentsAndMasks := by
  unfold Obligations.StepPositionsHaveParentsAndMasks
  intro v hshort hearlier
  have hv : v.DraftTree := ⟨hshort, hearlier⟩
  refine ⟨fun i h1 hi => ?parent, fun i j hi => hv.testBit_maskOf j hi, fun s n xs hs => ?batch, fun b x i hb hi => ⟨?parentAt, ?maskAt⟩,
    fun x hp h => Svc.nextTokens_length_eq_one hp h⟩
  case parent => rw [v.getElem?_parents (by omega), v.parent_of_pos h1]
  case batch => exact parents_of_mem_fillBatch v xs s [] ⟨v, hs, rfl⟩ (by simp)
  case parentAt =>
    have hle := hv.parent_le hi
    rw [v.imgLe_slotData_parent b x (by omega), hb, v.nth_parents (by omega), Nat.mod_eq_of_lt (by omega)]
  case maskAt =>
    rw [v.imgLe_slotData_mask b x (by omega) (by rw [hb, Svc.parents_length]; omega), hb, Nat.mod_eq_of_lt (hv.maskOf_lt i)]

end Sys2Proof.Machine
end

section
/-! Services and their sessions: what an update, a copy that starts and a prompt that wakes leave of them (11 R283-R290, R300). -/

namespace Sys2Proof.Machine

/-! ### Reads of a service after updates -/

theorem getSvc_of_services {s t : State} (h : t.services = s.services) (i : Nat) : getSvc t i = getSvc s i := by
  unfold getSvc; rw [h]

theorem Sends.getSvc_eq {s t : State} (h : Sends s t) (i : Nat) : getSvc t i = getSvc s i := getSvc_of_services h.services i

theorem LedgerOnly.getSvc_eq {s t : State} (h : LedgerOnly s t) (i : Nat) : getSvc t i = getSvc s i := by
  obtain ⟨_, rfl⟩ := h; rfl

theorem LedgerOnly.jobs_eq {s t : State} (h : LedgerOnly s t) : t.work.jobs = s.work.jobs := by
  obtain ⟨_, rfl⟩ := h; rfl

theorem getSvc_updSvc_of_some {s : State} {i : Nat} {v : Svc} (hv : getSvc s i = some v) (f : Svc → Svc) :
    getSvc (updSvc s i f) i = some (f v) := by
  rw [getSvc_updSvc_self, hv, Option.map_some]

theorem updSvc_id (s : State) (i : Nat) : updSvc s i id = s := by
  simp [updSvc]

/-! ### What changes only pages and their copies -/

/-- The two services differ at most in their page directories and in the copies that run or wait. -/
def PagesOnly (v w : Svc) : Prop := ∃ p c l r, w = { v with pages := p, copying := c, loading := l, reloads := r }

theorem PagesOnly.refl (v : Svc) : PagesOnly v v := ⟨v.pages, v.copying, v.loading, v.reloads, rfl⟩

theorem PagesOnly.sessions_eq {v w : Svc} (h : PagesOnly v w) : w.sessions = v.sessions := by
  obtain ⟨_, _, _, _, rfl⟩ := h; rfl

theorem PagesOnly.nextSession_eq {v w : Svc} (h : PagesOnly v w) : w.nextSession = v.nextSession := by
  obtain ⟨_, _, _, _, rfl⟩ := h; rfl

theorem PagesOnly.session_eq {v w : Svc} (h : PagesOnly v w) (id : Nat) : w.session id = v.session id := by
  unfold Svc.session; rw [h.sessions_eq]

theorem PagesOnly.trans {v w x : Svc} (h : PagesOnly v w) (k : PagesOnly w x) : PagesOnly v x := by
  obtain ⟨_, _, _, _, rfl⟩ := h
  obtain ⟨_, _, _, _, rfl⟩ := k
  exact ⟨_, _, _, _, rfl⟩

theorem PagesOnly.foldl {α : Type} {f : Svc → α → Svc} (hf : ∀ v a, PagesOnly v (f v a)) (l : List α) (v : Svc) :
    PagesOnly v (l.foldl f v) := by
  induction l generalizing v with
  | nil => exact .refl v
  | cons a l ih => exact (hf v a).trans (ih (f v a))

theorem PagesOnly.ite {v a b : Svc} {p : Prop} [Decidable p] (ha : PagesOnly v a) (hb : PagesOnly v b) :
    PagesOnly v (if p then a else b) := by
  split <;> assumption

theorem Svc.updPage_pagesOnly (v : Svc) (i : Nat) (f : KvPage → KvPage) : PagesOnly v (v.updPage i f) :=
  ⟨modNth v.pages i f, v.copying, v.loading, v.reloads, rfl⟩

theorem Svc.want_pagesOnly (v : Svc) (page : Nat) : PagesOnly v (v.want page) := by
  unfold Svc.want
  exact .ite ⟨v.pages, v.copying, v.loading, _, rfl⟩ (.refl v)

theorem Svc.incShare_pagesOnly (v : Svc) (page : Nat) : PagesOnly v (v.incShare page) :=
  (v.updPage_pagesOnly ..).trans (Svc.want_pagesOnly ..)

theorem Svc.decShare_pagesOnly (v : Svc) (page : Nat) : PagesOnly v (v.decShare page) := v.updPage_pagesOnly ..

theorem Svc.relieve_pagesOnly (v : Svc) (now : Nat) : PagesOnly v (v.relieve now) := by
  unfold Svc.relieve
  refine (PagesOnly.foldl (fun v k => .ite (.refl v) (v.updPage_pagesOnly ..)) _ v).trans (.foldl (fun v k => .ite (.refl v) ?_) _ _)
  split
  · exact .refl v
  · exact v.updPage_pagesOnly ..

/-- The next eviction copy of a service is chosen. -/
def Svc.chooseCopy (v : Svc) : Svc :=
  if v.copying.isNone then { v with copying := (v.oldest fun p => p.state = pgCommitted).head? } else v

/-- A page of a service begins to be loaded, where a frame is free. -/
def Svc.loadPage (v : Svc) (k : Nat) : Svc :=
  match v.freeFrames.head? with
  | none => v
  | some f => { v.updPage k fun p => { p with state := pgLoading, frame := some f } with loading := some k, reloads := v.reloads.filter (· ≠ k) }

/-- The next reload of a service is chosen, and frames relieved for it. -/
def Svc.chooseReload (v : Svc) (now : Nat) : Svc :=
  match v.loading, v.reloads.find? fun k => (v.page k).state = pgHost with
  | none, some k => (if v.freeFrames = [] then v.relieve now else v).loadPage k
  | _, _ => v

theorem Svc.chooseCopy_pagesOnly (v : Svc) : PagesOnly v v.chooseCopy :=
  .ite ⟨v.pages, _, v.loading, v.reloads, rfl⟩ (.refl v)

theorem Svc.loadPage_pagesOnly (v : Svc) (k : Nat) : PagesOnly v (v.loadPage k) := by
  unfold Svc.loadPage
  split
  · exact .refl v
  · exact ⟨_, v.copying, _, _, rfl⟩

theorem Svc.chooseReload_pagesOnly (v : Svc) (now : Nat) : PagesOnly v (v.chooseReload now) := by
  unfold Svc.chooseReload
  split
  · exact PagesOnly.trans (.ite (v.relieve_pagesOnly now) (.refl v)) (Svc.loadPage_pagesOnly ..)
  · exact .refl v

/-- Copies that start change the pages of their service, and nothing else. -/
theorem startCopies_eq (s : State) (i : Nat) : ∃ f, startCopies s i = updSvc s i f ∧ ∀ v, getSvc s i = some v → PagesOnly v (f v) := by
  cases hv : getSvc s i with
  | none => exact ⟨id, by simp only [startCopies, hv, updSvc_id], by simp⟩
  | some v =>
    by_cases hdma : v.dmaOn s
    · refine ⟨fun _ => v.chooseCopy.chooseReload (nowNs s), ?_, fun u hu => ?_⟩
      · simp only [startCopies, hv, hdma, Bool.not_true, Bool.false_eq_true, if_false]
        rfl
      · obtain rfl := Option.some.inj hu
        exact v.chooseCopy_pagesOnly.trans (Svc.chooseReload_pagesOnly ..)
    · exact ⟨id, by simp only [startCopies, hv, hdma, Bool.not_false, if_true, updSvc_id], fun u _ => .refl u⟩

@[simp] theorem startCopies_work (s : State) (i : Nat) : (startCopies s i).work = s.work := by
  obtain ⟨f, hf, -⟩ := startCopies_eq s i; rw [hf]; rfl

@[simp] theorem startCopies_host (s : State) (i : Nat) : (startCopies s i).host = s.host := by
  obtain ⟨f, hf, -⟩ := startCopies_eq s i; rw [hf]; rfl

@[simp] theorem nowNs_startCopies (s : State) (i : Nat) : nowNs (startCopies s i) = nowNs s := by
  obtain ⟨f, hf, -⟩ := startCopies_eq s i; rw [hf]; rfl

theorem getSvc_startCopies {s : State} {i : Nat} {v : Svc} (hv : getSvc s i = some v) :
    ∃ w, PagesOnly v w ∧ getSvc (startCopies s i) i = some w := by
  obtain ⟨f, hf, hw⟩ := startCopies_eq s i
  exact ⟨f v, hw v hv, by rw [hf, getSvc_updSvc_of_some hv]⟩

theorem getSvc_wantPages {s : State} {i : Nat} {v : Svc} (hv : getSvc s i = some v) (x : Session) :
    ∃ w, PagesOnly v w ∧ getSvc (wantPages s i x) i = some w := by
  obtain ⟨w, hw, hget⟩ := getSvc_startCopies (getSvc_updSvc_of_some hv fun v => x.pages.foldl Svc.want v)
  exact ⟨w, (PagesOnly.foldl Svc.want_pagesOnly x.pages v).trans hw, hget⟩

@[simp] theorem nowNs_wantPages (s : State) (i : Nat) (x : Session) : nowNs (wantPages s i x) = nowNs s := nowNs_startCopies ..

/-! ### Sessions after updates -/

/-- A session is found by its identifier after a change of every session that keeps the identifiers. -/
theorem Svc.session_of_map {v w : Svc} {f : Session → Session} (hw : w.sessions = v.sessions.map f) (hf : ∀ x, (f x).id = x.id)
    (id : Nat) : w.session id = (v.session id).map f := by
  unfold Svc.session
  rw [hw, List.find?_map]
  simp only [Function.comp_def, hf]

/-- A session that has been added is found where its identifier was free. -/
theorem Svc.session_of_append {v w : Svc} {x : Session} (hw : w.sessions = v.sessions ++ [x]) (hfree : v.session x.id = none) :
    w.session x.id = some x := by
  unfold Svc.session at hfree ⊢
  rw [hw, List.find?_append, hfree]
  simp

theorem Svc.session_id {v : Svc} {id : Nat} {x : Session} (h : v.session id = some x) : x.id = id := by
  simpa using List.find?_some h

/-- The service with one session changed. -/
def Svc.updSession (v : Svc) (id : Nat) (f : Session → Session) : Svc :=
  { v with sessions := v.sessions.map fun x => if x.id = id then f x else x }

theorem getSvc_updSession {s : State} {i : Nat} {v : Svc} (hv : getSvc s i = some v) (id : Nat) (f : Session → Session) :
    getSvc (updSession s i id f) i = some (v.updSession id f) := getSvc_updSvc_of_some hv _

theorem Svc.session_updSession {v : Svc} {id : Nat} {x : Session} (hx : v.session id = some x) {f : Session → Session}
    (hf : ∀ y, (f y).id = y.id) : (v.updSession id f).session id = some (f x) := by
  rw [Svc.session_of_map (v := v) rfl (fun y => by split <;> simp [hf]), hx, Option.map_some, if_pos (Svc.session_id hx)]

/-! ### Prompts that wake (R300) -/

/-- What waking makes of a session: a prompt that is all there begins to be computed. -/
def Svc.woken (v : Svc) (now : Nat) (x : Session) : Session :=
  if x.phase = phOpening ∧ x.length + x.queued.length = x.total ∧ v.resident x then { x with phase := phPrefill, eligible := now } else x

theorem Svc.woken_eq (v : Svc) (now : Nat) (x : Session) : ∃ p e, v.woken now x = { x with phase := p, eligible := e } := by
  unfold Svc.woken
  split
  · exact ⟨_, _, rfl⟩
  · exact ⟨x.phase, x.eligible, rfl⟩

theorem Svc.woken_of_not_opening (v : Svc) (now : Nat) {x : Session} (h : x.phase ≠ phOpening) : v.woken now x = x :=
  if_neg fun ho => h ho.1

/-- A new session without pages wakes where its prompt is all queued. -/
theorem Svc.phase_woken_of_noPages (v : Svc) (now : Nat) {x : Session} (h : x.phase = phOpening) (hp : x.pages = []) :
    (v.woken now x).phase = if x.length + x.queued.length = x.total then phPrefill else phOpening := by
  have hres : v.resident x = true := by simp [Svc.resident, hp]
  unfold Svc.woken
  simp only [h, hres, and_true, true_and]
  split
  · rfl
  · exact h

/-- The service with every prompt woken that is all there. -/
def Svc.wake (v : Svc) (now : Nat) : Svc := { v with sessions := v.sessions.map (v.woken now) }

theorem getSvc_wakeSessions {s : State} {i : Nat} {v : Svc} (hv : getSvc s i = some v) :
    getSvc (wakeSessions s i) i = some (v.wake (nowNs s)) := getSvc_updSvc_of_some hv _

theorem Svc.session_wake (v : Svc) (now id : Nat) : (v.wake now).session id = (v.session id).map (v.woken now) := by
  refine Svc.session_of_map rfl (fun x => ?_) id
  obtain ⟨_, _, h⟩ := v.woken_eq now x
  rw [h]

end Sys2Proof.Machine
end

section
/-! Requests of service clients: how they are taken, and what each does in its service (11 R298-R300, R302; 17 R450). -/

namespace Sys2Proof.Machine

/-! ### Requests that are taken (R298) -/

/-- A request's frame has been charged to the client that it names, if it names one. -/
def requestCharged (t : State) (i : Nat) (k : Option Nat) (m : Msg) : State :=
  match k with
  | some k => chargeClient t i k { Ledger.none with portBytes := 20 + 16 + m.body.length }
  | none => t

theorem requestCharged_ledgerOnly (t : State) (i : Nat) (k : Option Nat) (m : Msg) : LedgerOnly t (requestCharged t i k m) := by
  cases k with
  | none => exact .refl t
  | some k => exact chargeClient_ledgerOnly ..

/-- A request that is carried out in service i: v is the service, addr its client's address. -/
structure Requested (s : State) (op len : Nat) (m : Msg) (t : State) (c : Ctx) (i addr : Nat) (v : Svc) : Prop where
  carried : Carried s op 0 len m t c
  till : ∃ e, m.till.bind (svcOfTill s) = some (i, e)
  src : m.src = .client addr
  svc : getSvc t i = some v

section
variable {s t u : State} {op len i addr : Nat} {m : Msg} {c : Ctx} {v : Svc} (hr : Requested s op len m t c i addr v)
  (h24 : 24 ≤ len) (h4096 : len ≤ 4096) (h8 : len % 8 = 0) {lenOf : List Byte → Nat} (hlen : lenOf m.body = len)
  {key : Ctx → Svc → Option Nat} {act : Request}
include hr h24 h4096 h8 hlen

theorem takeRequest_of_requested : takeRequest op lenOf key act m s =
    some (carriedOut (fun c t => act c i v addr (requestCharged t i (key c v) m)) t c) := by
  obtain ⟨hc, ⟨e, htill⟩, hsrc, hv⟩ := hr
  have hbody : ¬ (16 + m.body.length ≠ lenOf m.body ∨ 16 + m.body.length < 24) := by
    have := hc.length
    omega
  unfold takeRequest
  simp only [htill, hsrc]
  rw [takeCommand_of_carried hc h4096 h8 _ (by simpa using h24)]
  simp only [carriedOut, hv, if_neg hbody]
  rfl

theorem taken_of_request_done {d : Done} (h : act c i v addr (requestCharged t i (key c v) m) = (u, some d)) :
    (.next ((takeRequest op lenOf key act m s).getD s) : Out) = .next (answered u c d) := by
  rw [takeRequest_of_requested hr h24 h4096 h8 hlen, Option.getD_some, carriedOut_of_done h]

theorem taken_of_request_waits (h : act c i v addr (requestCharged t i (key c v) m) = (u, none)) :
    (.next ((takeRequest op lenOf key act m s).getD s) : Out) = .next (waits u) := by
  rw [takeRequest_of_requested hr h24 h4096 h8 hlen, Option.getD_some, carriedOut_of_waits h]

end

/-- The length of a message with n tokens is one that a till takes. -/
theorem tokenLength_bounds {n : Nat} (h : n ≤ 1016) :
    24 ≤ 8 * ceilDiv (32 + 4 * n) 8 ∧ 8 * ceilDiv (32 + 4 * n) 8 ≤ 4096 ∧ 8 * ceilDiv (32 + 4 * n) 8 % 8 = 0 := by
  unfold ceilDiv
  omega

/-- The checks of a request that names a session, where its fields are in range, its phase is one of those asked, and no close of it
waits. -/
theorem sessionCheck_of_session {c : Ctx} {v : Svc} {x : Session} {fields : Bool} {phases : List Nat} (hx : v.session (c.f 0x10 4) = some x)
    (hflags : c.flagsOk = true) (hf : fields = true) (hp : x.phase ∈ phases) (hcl : x.closing = none)
    (rest : Session → List (Bool × Nat)) : sessionCheck c v fields phases rest = firstFail (rest x) := by
  simp [sessionCheck, hx, hflags, hf, hp, hcl, firstFail]

/-! ### SESSION_OPEN (R285, R298) -/

/-- The service with the next session added, which shares pages. -/
def Svc.addSession (v : Svc) (pages : List Nat) (x : Session) : Svc :=
  { pages.foldl Svc.incShare v with sessions := v.sessions ++ [x], nextSession := v.nextSession + 1 }

theorem Svc.session_addSession {v : Svc} {x : Session} (hfree : v.session x.id = none) (pages : List Nat) :
    (v.addSession pages x).session x.id = some x := Svc.session_of_append rfl hfree

/-- The fields of a SESSION_OPEN are in range. -/
structure OpenFields (c : Ctx) (v : Svc) : Prop where
  flags : c.f 0x14 2 < 2
  count : c.f 0x16 2 ≤ 1016
  some : 1 ≤ c.f 0x18 4
  fits : c.f 0x18 4 + v.positions ≤ v.maxPages * 256
  total : c.f 0x16 2 ≤ c.f 0x18 4
  zero : c.zero 0x1C 0x20 = true
  tokens : c.tokensOk (c.f 0x16 2) = true

/-- The registered pages that a new session shares. -/
def Ctx.sharedPages (c : Ctx) (v : Svc) (w : State) : List Nat :=
  if decide (c.f 0x14 2 = 1) then
    matchPrefix w v ((getJob w v.job).elim [] fun j => j.image) (c.f 0x18 4) 4 0 (c.tokens (c.f 0x16 2))
  else []

/-- A session that is opened, before prompts wake. -/
def openedSession (c : Ctx) (v : Svc) (addr : Nat) (w : State) : Session :=
  let pages := c.sharedPages v w
  let k := 256 * pages.length
  { id := v.nextSession, client := c.f 0x10 4, share := decide (c.f 0x14 2 = 1), phase := phOpening, total := c.f 0x18 4, pages := pages,
    length := k, held := (c.tokens (c.f 0x16 2)).take k, queued := (c.tokens (c.f 0x16 2)).drop k, decoded := false, root := none, drafts := [],
    prior := k, compact := [], gen := none, asked := c.tid, eligible := nowNs w, starved := none, forks := [], addr := addr, closing := none }

/-- A session is opened; the service's job has yet to start. -/
def sessionOpened (c : Ctx) (i : Nat) (v : Svc) (addr : Nat) (w : State) : State :=
  wakeSessions (startCopies (updSvc w i fun e => e.addSession (c.sharedPages v w) (openedSession c v addr w)) i) i

@[simp] theorem sessionOpened_work (c : Ctx) (i : Nat) (v : Svc) (addr : Nat) (w : State) : (sessionOpened c i v addr w).work = w.work :=
  startCopies_work ..

@[simp] theorem sessionOpened_host (c : Ctx) (i : Nat) (v : Svc) (addr : Nat) (w : State) : (sessionOpened c i v addr w).host = w.host :=
  startCopies_host ..

theorem mem_matchPrefix {s : State} {v : Svc} {img : List Byte} {p : Nat} (n total prev : Nat) (ts : List Nat)
    (h : p ∈ matchPrefix s v img total n prev ts) : (v.page p).registered = true := by
  induction n generalizing total prev ts with
  | zero => simp [matchPrefix] at h
  | succ n ih =>
    unfold matchPrefix at h
    split at h
    · simp at h
    · dsimp only at h
      split at h
      · simp at h
      · rename_i e he
        obtain rfl | h := List.mem_cons.mp h
        · have hreg := List.find?_some he
          have hmem := List.mem_zipIdx_iff_getElem?.mp (List.mem_of_find?_eq_some he)
          have hpage : v.page e.2 = e.1 := by simp [Svc.page, nth, hmem]
          simp only [Bool.and_eq_true] at hreg
          rw [hpage]
          exact hreg.1.1.1
        · exact ih _ _ _ h

theorem Ctx.registered_of_mem_sharedPages {c : Ctx} {v : Svc} {w : State} {p : Nat} (h : p ∈ c.sharedPages v w) :
    (v.page p).registered = true := by
  unfold Ctx.sharedPages at h
  split at h
  · exact mem_matchPrefix _ _ _ _ h
  · simp at h

/-- The new session stands in its service, woken where its prompt is all there. -/
theorem session_sessionOpened {w : State} {i : Nat} {v : Svc} (hv : getSvc w i = some v) (c : Ctx) (addr : Nat)
    (hfree : v.session v.nextSession = none) :
    ∃ v' y : Svc, getSvc (sessionOpened c i v addr w) i = some v' ∧ v'.nextSession = v.nextSession + 1 ∧
      v'.session v.nextSession = some (y.woken (nowNs w) (openedSession c v addr w)) := by
  obtain ⟨y, hy, hget⟩ := getSvc_startCopies (getSvc_updSvc_of_some hv fun e => e.addSession (c.sharedPages v w) (openedSession c v addr w))
  have hnew : (v.addSession (c.sharedPages v w) (openedSession c v addr w)).session v.nextSession = some (openedSession c v addr w) :=
    Svc.session_addSession hfree _
  refine ⟨_, y, getSvc_wakeSessions hget, hy.nextSession_eq, ?_⟩
  rw [Svc.session_wake, hy.session_eq, hnew, nowNs_startCopies]
  rfl

theorem actSessionOpen_of_fields {c : Ctx} {v : Svc} (hflags : c.flagsOk = true) (hf : OpenFields c v) (hcl : v.closing = none)
    (i addr : Nat) (w : State) (hroom : v.sessions.length < v.f 0x26 2) : actSessionOpen c i v addr w =
      (if ((getJob w v.job).bind Job.run).isSome then sessionOpened c i v addr w else startService (sessionOpened c i v addr w) i,
        some ⟨eOk, v.nextSession, 256 * (c.sharedPages v w).length, 0, 0⟩) := by
  obtain ⟨h1, h2, h3, h4, h5, h6, h7⟩ := hf
  have hjob : getJob (sessionOpened c i v addr w) v.job = getJob w v.job := by unfold getJob; rw [sessionOpened_work]
  have hrun : ((getJob (sessionOpened c i v addr w) v.job).bind Job.run).isNone = !((getJob w v.job).bind Job.run).isSome := by
    rw [hjob, Option.not_isSome]
  unfold actSessionOpen
  simp only [h1, h2, h3, h4, h5, h6, h7, hflags, hcl, hroom, and_self, decide_true, Bool.and_self, Option.isNone_none, firstFail, if_true]
  refine Prod.ext ?_ rfl
  change (if ((getJob (sessionOpened c i v addr w) v.job).bind Job.run).isNone then startService (sessionOpened c i v addr w) i
    else sessionOpened c i v addr w) = _
  rw [hrun]
  cases ((getJob w v.job).bind Job.run).isSome <;> rfl

/-! ### SESSION_APPEND (R299, R300) -/

/-- What a SESSION_APPEND makes of its session, before prompts wake. -/
def Session.append (x : Session) (c : Ctx) (now addr : Nat) : Session :=
  if x.phase = phOpening then { x with queued := x.queued ++ c.tokens (c.f 0x14 2), addr := addr }
  else { x with
    queued := x.root.toList ++ c.tokens (c.f 0x14 2), root := none, phase := phPrefill, asked := c.tid, eligible := now, addr := addr }

theorem Session.append_id (x : Session) (c : Ctx) (now addr : Nat) : (x.append c now addr).id = x.id := by
  unfold Session.append
  split <;> rfl

theorem Session.append_of_opening {x : Session} (h : x.phase = phOpening) (c : Ctx) (now addr : Nat) :
    x.append c now addr = { x with queued := x.queued ++ c.tokens (c.f 0x14 2), addr := addr } := if_pos h

theorem Session.append_of_idle {x : Session} (h : x.phase = phIdle) (c : Ctx) (now addr : Nat) : x.append c now addr = { x with
    queued := x.root.toList ++ c.tokens (c.f 0x14 2), root := none, phase := phPrefill, asked := c.tid, eligible := now, addr := addr } :=
  if_neg (by rw [h]; decide)

/-- The fields of a SESSION_APPEND are in range, and its session may hold that many tokens more. -/
structure AppendFields (c : Ctx) (v : Svc) (x : Session) : Prop where
  some : 1 ≤ c.f 0x14 2
  most : c.f 0x14 2 ≤ 1016
  zero : c.zero 0x16 0x20 = true
  tokens : c.tokensOk (c.f 0x14 2) = true
  fits : (x.phase = phOpening ∧ x.length + x.queued.length + c.f 0x14 2 ≤ x.total) ∨
    (x.phase = phIdle ∧ x.length + x.root.toList.length + c.f 0x14 2 + v.positions ≤ v.maxPages * 256)

section
variable {c : Ctx} {v : Svc} {w : State} {x : Session} {i : Nat} (addr : Nat) (hv : getSvc w i = some v)
  (hx : v.session (c.f 0x10 4) = some x)

/-- What a request finds of its session once it has changed it. -/
theorem find_updSession {s : State} {i id : Nat} {v : Svc} {x : Session} (hv : getSvc s i = some v) (hx : v.session id = some x)
    {f : Session → Session} (hf : ∀ y, (f y).id = y.id) : ((getSvc (updSession s i id f) i).bind fun v => v.session id) = some (f x) := by
  rw [getSvc_updSession hv, Option.bind_some, Svc.session_updSession hx hf]

section
variable (hflags : c.flagsOk = true) (hcl : x.closing = none)
include hv hx hflags hcl

theorem actSessionAppend_of_fields (hf : AppendFields c v x) : actSessionAppend c i v addr w =
    (wakeSessions (wantPages (updSession w i (c.f 0x10 4) fun y => y.append c (nowNs w) addr) i
      (x.append c (nowNs w) addr)) i, some (Done.of eOk)) := by
  obtain ⟨h1, h1016, hzero, htok, hfits⟩ := hf
  have hfields : (decide (1 ≤ c.f 0x14 2 ∧ c.f 0x14 2 ≤ 1016) && c.zero 0x16 0x20 && c.tokensOk (c.f 0x14 2)) = true := by
    simp [h1, h1016, hzero, htok]
  have hphase : x.phase ∈ [phOpening, phIdle] := by
    obtain ⟨hp, -⟩ | ⟨hp, -⟩ := hfits <;> simp [hp]
  have hroom : (if x.phase = phOpening then decide (x.length + x.queued.length + c.f 0x14 2 ≤ x.total)
      else decide (x.length + x.root.toList.length + c.f 0x14 2 + v.positions ≤ v.maxPages * 256)) = true := by
    obtain ⟨hp, hle⟩ | ⟨hp, hle⟩ := hfits
    · simp [hp, hle]
    · simp [hp, hle, phIdle, phOpening]
  have hfind := find_updSession hv hx fun y => y.append_id c (nowNs w) addr
  unfold actSessionAppend
  simp only [sessionCheck_of_session hx hflags hfields hphase hcl, firstFail, hroom, if_true]
  split
  · rename_i y hy
    obtain rfl := Option.some.inj (hy.symm.trans hfind)
    rfl
  · rename_i hy
    cases hy.symm.trans hfind

/-- After a SESSION_APPEND its session stands with the tokens queued, woken where its prompt is all there. -/
theorem session_actSessionAppend (hf : AppendFields c v x) : ∃ u v', ∃ y : Svc, actSessionAppend c i v addr w = (u, some (Done.of eOk)) ∧
    getSvc u i = some v' ∧ v'.session x.id = some (y.woken (nowNs w) (x.append c (nowNs w) addr)) := by
  obtain ⟨y, hy, hget⟩ := getSvc_wantPages (getSvc_updSession hv (c.f 0x10 4) fun y => y.append c (nowNs w) addr) (x.append c (nowNs w) addr)
  refine ⟨_, _, y, actSessionAppend_of_fields addr hv hx hflags hcl hf, getSvc_wakeSessions hget, ?_⟩
  rw [Svc.session_wake, hy.session_eq, Svc.session_id hx, Svc.session_updSession hx fun y => y.append_id .., Option.map_some, nowNs_wantPages]
  rfl

end

/-! ### SESSION_GENERATE (R297, R298) -/

/-- The generation that a SESSION_GENERATE asks for. -/
def Ctx.generate (c : Ctx) : Generate :=
  { ticket := c.tid, left := c.f 0x14 4, emitted := 0,
    stops := ((List.range 4).map fun k => c.f (0x18 + 4 * k) 4).filter fun t => t ≠ 0xFFFFFFFF, speculate := decide (c.f 0x28 4 = 1) }

/-- The fields of a SESSION_GENERATE are in range. -/
structure GenerateFields (c : Ctx) : Prop where
  some : 1 ≤ c.f 0x14 4
  most : c.f 0x14 4 ≤ 65535
  flags : c.f 0x28 4 < 2
  zero : c.zero 0x2C 0x30 = true

/-- A session that begins to generate. -/
def Session.begin (x : Session) (c : Ctx) (now addr : Nat) : Session :=
  { x with phase := phGenerating, gen := some c.generate, asked := c.tid, eligible := now, addr := addr }

/-- A session whose generation has ended. -/
def Session.idle (x : Session) : Session := { x with gen := none, phase := phIdle, starved := none }

/-- A generation that ends completes its request, and its session is IDLE. -/
theorem endGenerate_of_gen {s : State} {i id : Nat} {v : Svc} {x : Session} {g : Generate} (hv : getSvc s i = some v)
    (hx : v.session id = some x) (hg : x.gen = some g) (status reason : Nat) : endGenerate s i id status reason =
      finish (updSession s i id Session.idle) g.ticket ⟨status, if status = eOk then g.emitted else 0, reason, 0, 0⟩ := by
  simp only [endGenerate, hv, Option.bind_some, hx, hg]
  rfl

section
variable (hflags : c.flagsOk = true) (hcl : x.closing = none)
include hv hx hflags hcl

theorem actSessionGenerate_of_fields (hf : GenerateFields c) (hp : x.phase = phIdle) : actSessionGenerate c i v addr w =
    (let s := updSession w i (c.f 0x10 4) fun y => y.begin c (nowNs w) addr
     if v.maxPages * 256 < x.length + v.positions then (endGenerate s i (c.f 0x10 4) eOk 2, none)
     else (wantPages s i (x.begin c (nowNs w) addr), none)) := by
  obtain ⟨h1, hmost, hgflags, hzero⟩ := hf
  have hfields : (decide (1 ≤ c.f 0x14 4 ∧ c.f 0x14 4 ≤ 65535) && decide (c.f 0x28 4 < 2) && c.zero 0x2C 0x30) = true := by
    simp [h1, hmost, hgflags, hzero]
  have hfind := find_updSession hv hx (f := fun y => y.begin c (nowNs w) addr) fun _ => rfl
  unfold actSessionGenerate
  simp only [sessionCheck_of_session hx hflags hfields (List.mem_singleton.mpr hp) hcl, firstFail]
  split
  · rename_i hy
    cases hy.symm.trans hfind
  · rename_i y hy
    obtain rfl := Option.some.inj (hy.symm.trans hfind)
    rfl

/-- A session with room generates. -/
theorem session_actSessionGenerate_of_room (hf : GenerateFields c) (hp : x.phase = phIdle)
    (hroom : x.length + v.positions ≤ v.maxPages * 256) : ∃ u v', actSessionGenerate c i v addr w = (u, none) ∧ getSvc u i = some v' ∧
      v'.session x.id = some (x.begin c (nowNs w) addr) := by
  obtain ⟨y, hy, hget⟩ := getSvc_wantPages (getSvc_updSession hv (c.f 0x10 4) fun y => y.begin c (nowNs w) addr) (x.begin c (nowNs w) addr)
  refine ⟨_, y, ?_, hget, ?_⟩
  · rw [actSessionGenerate_of_fields addr hv hx hflags hcl hf hp]
    exact if_neg (Nat.not_lt.mpr hroom)
  · rw [hy.session_eq, Svc.session_id hx]
    exact Svc.session_updSession hx fun _ => rfl

/-- A session whose context is full ends its generation at once. -/
theorem session_actSessionGenerate_of_full (hf : GenerateFields c) (hp : x.phase = phIdle)
    (hfull : v.maxPages * 256 < x.length + v.positions) : ∃ u v',
      actSessionGenerate c i v addr w = (finish u c.tid ⟨eOk, 0, 2, 0, 0⟩, none) ∧ getSvc u i = some v' ∧
      v'.session x.id = some (x.begin c (nowNs w) addr).idle := by
  have hbegun := getSvc_updSession hv (c.f 0x10 4) fun y => y.begin c (nowNs w) addr
  have hfound := Svc.session_updSession hx (f := fun y => y.begin c (nowNs w) addr) fun _ => rfl
  refine ⟨_, _, ?_, getSvc_updSession hbegun (c.f 0x10 4) Session.idle, ?_⟩
  · rw [actSessionGenerate_of_fields addr hv hx hflags hcl hf hp]
    refine (if_pos hfull).trans ?_
    rw [endGenerate_of_gen hbegun hfound rfl]
    rfl
  · rw [Svc.session_id hx]
    exact Svc.session_updSession hfound fun _ => rfl

end

/-! ### SESSION_FORK (R298, R302) -/

/-- A session that holds what another holds. -/
def Session.fork (x : Session) (id tid client addr now : Nat) : Session :=
  { x with id := id, client := client, addr := addr, asked := tid, eligible := now, forks := [], closing := none }

/-- An IDLE session is copied where its service has room. -/
theorem session_forkSession {s : State} {i id : Nat} {v : Svc} {x : Session} (hv : getSvc s i = some v) (hx : v.session id = some x)
    (hp : x.phase = phIdle) (hcl : x.closing = none) (hroom : v.sessions.length < v.f 0x26 2) (hfree : v.session v.nextSession = none)
    (tid client addr : Nat) : ∃ u v', forkSession s i id tid client addr = (u, ⟨eOk, v.nextSession, 0, 0, 0⟩) ∧ getSvc u i = some v' ∧
      v'.session v.nextSession = some (x.fork v.nextSession tid client addr (nowNs s)) := by
  obtain ⟨y, hy, hget⟩ := getSvc_startCopies (getSvc_updSvc_of_some hv fun e => { x.pages.foldl Svc.incShare e with
    sessions := e.sessions ++ [x.fork v.nextSession tid client addr (nowNs s)], nextSession := v.nextSession + 1 })
  refine ⟨_, y, ?_, hget, ?_⟩
  · have hno : ¬ (x.phase ≠ phIdle ∨ x.closing.isSome = true) := by simp [hp, hcl]
    simp only [forkSession, hv, Option.bind_some, hx, Option.map_some, if_neg hno, if_neg (Nat.not_le.mpr hroom)]
    rfl
  · rw [hy.session_eq]
    exact Svc.session_addSession (x := x.fork v.nextSession tid client addr (nowNs s)) hfree x.pages

/-- The session with a fork that waits for its step. -/
def Session.addFork (x : Session) (tid client addr : Nat) : Session := { x with forks := x.forks ++ [(tid, client, addr)] }

section
variable (hflags : c.flagsOk = true) (hcl : x.closing = none)
include hx hflags hcl

/-- A session of a step block is copied after its step. -/
theorem actSessionFork_of_inBatch (hb : v.inBatch x.id = true) (hno : x.phase ≠ phOpening) (hp : x.phase < 4) :
    actSessionFork c i v addr w = (updSession w i (c.f 0x10 4) fun y => y.addFork c.tid (c.f 0x14 4) addr, none) := by
  rw [Svc.session_id hx] at hb
  have hphase : x.phase ∈ [phIdle, phPrefill, phGenerating] := by
    unfold phOpening at hno
    simp only [phIdle, phPrefill, phGenerating, List.mem_cons, List.not_mem_nil, or_false]
    omega
  unfold actSessionFork
  simp only [hb, Bool.not_true, Bool.false_eq_true, if_false, sessionCheck_of_session hx hflags rfl hphase hcl, firstFail]
  rfl

include hv

/-- Between steps an IDLE session is copied at once. -/
theorem session_actSessionFork_of_idle (hb : v.inBatch x.id = false) (hp : x.phase = phIdle) (hroom : v.sessions.length < v.f 0x26 2)
    (hfree : v.session v.nextSession = none) : ∃ u v', actSessionFork c i v addr w = (u, some ⟨eOk, v.nextSession, 0, 0, 0⟩) ∧
      getSvc u i = some v' ∧ v'.session v.nextSession = some (x.fork v.nextSession c.tid (c.f 0x14 4) addr (nowNs w)) := by
  obtain ⟨u, v', hfork, hget, hfound⟩ := session_forkSession hv hx hp hcl hroom hfree c.tid (c.f 0x14 4) addr
  rw [Svc.session_id hx] at hb
  refine ⟨u, v', ?_, hget, hfound⟩
  unfold actSessionFork
  simp only [hb, Bool.not_false, if_true, sessionCheck_of_session hx hflags rfl (List.mem_singleton.mpr hp) hcl, firstFail, hfork]

end

/-! ### SESSION_CLOSE (R298, R302) -/

/-- The generation of a session that ends has been answered. -/
def genReply (s : State) (x : Session) (status : Nat) : State :=
  match x.gen with
  | some g => finish s g.ticket ⟨status, g.emitted, 0, 0, 0⟩
  | none => s

theorem genReply_sends (s : State) (x : Session) (status : Nat) : Sends s (genReply s x status) := by
  unfold genReply
  split
  · exact finish_sends ..
  · exact .refl s

/-- What waited of a session that ends has been answered. -/
def endReplies (s : State) (x : Session) (status : Nat) : State :=
  let s := x.forks.foldl (fun s k => finish s k.1 (Done.of status)) (genReply s x status)
  match x.closing with
  | some t => finish s t (Done.of eOk)
  | none => s

theorem endReplies_sends (s : State) (x : Session) (status : Nat) : Sends s (endReplies s x status) := by
  have hforks : Sends s (x.forks.foldl (fun s k => finish s k.1 (Done.of status)) (genReply s x status)) :=
    (genReply_sends ..).trans (Sends.foldl (fun s k => finish_sends s k.1 _) x.forks _)
  unfold endReplies
  dsimp only
  split
  · exact hforks.trans (finish_sends ..)
  · exact hforks

theorem sendSessionEnd_sends (s : State) (i id addr reason : Nat) : Sends s (sendSessionEnd s i id addr reason) := by
  unfold sendSessionEnd
  split
  · exact serviceSend_sends ..
  · exact .refl s

theorem clientEnds_ledgerOnly (s : State) (p kind client : Nat) : LedgerOnly s (clientEnds s p kind client) := ⟨_, rfl⟩

/-- The service without one of its sessions. -/
def Svc.dropSession (v : Svc) (id : Nat) (pages : List Nat) : Svc :=
  { pages.foldl Svc.decShare v with sessions := v.sessions.filter fun y => y.id ≠ id }

/-- A session that ends leaves its service's other sessions. -/
theorem getSvc_dropSession {s : State} {i id : Nat} {v : Svc} {x : Session} (hv : getSvc s i = some v) (hx : v.session id = some x)
    (reason : Nat) : getSvc (dropSession s i id reason) i = some (v.dropSession id x.pages) := by
  have hends := (sendSessionEnd_sends (updSvc (endReplies s x (if reason = 0 then eSuperseded else eAborted)) i fun e =>
    e.dropSession id x.pages) i id x.addr reason).getSvc_eq i
  rw [getSvc_updSvc_of_some (((endReplies_sends ..).getSvc_eq i).trans hv)] at hends
  simp only [dropSession, hv, Option.bind_some, hx]
  change getSvc (match getSvc (sendSessionEnd (updSvc (endReplies s x (if reason = 0 then eSuperseded else eAborted)) i fun e =>
    e.dropSession id x.pages) i id x.addr reason) i with
    | none => _
    | some v => _) i = _
  rw [hends]
  dsimp only
  split
  · exact hends
  · exact ((clientEnds_ledgerOnly ..).getSvc_eq i).trans hends

theorem Svc.mem_updSession_of_ne {v : Svc} {id : Nat} {f : Session → Session} (hf : ∀ x, (f x).id = x.id) {y : Session} (h : y.id ≠ id) :
    y ∈ (v.updSession id f).sessions ↔ y ∈ v.sessions := by
  simp only [Svc.updSession, List.mem_map]
  constructor
  · rintro ⟨x, hx, rfl⟩
    by_cases hid : x.id = id
    · rw [if_pos hid, hf] at h
      exact absurd hid h
    · rwa [if_neg hid]
  · exact fun hy => ⟨y, hy, if_neg h⟩

/-- A session whose close waits. -/
def Session.close (x : Session) (tid addr : Nat) : Session := { x with closing := some tid, addr := addr }

section
variable (hflags : c.flagsOk = true) (hcl : x.closing = none)
include hx hflags hcl

theorem actSessionClose_of_fields (hzero : c.zero 0x14 0x18 = true) (hp : x.phase < 4) : actSessionClose c i v addr w =
    (let s := updSession w i (c.f 0x10 4) fun y => y.close c.tid addr
     (if v.inBatch (c.f 0x10 4) then s else startCopies (dropSession s i (c.f 0x10 4) 0) i, none)) := by
  have hphase : x.phase ∈ [phOpening, phPrefill, phIdle, phGenerating] := by
    simp only [phOpening, phIdle, phPrefill, phGenerating, List.mem_cons, List.not_mem_nil, or_false]
    omega
  unfold actSessionClose
  simp only [sessionCheck_of_session hx hflags hzero hphase hcl, firstFail]
  rfl

include hv

/-- Between steps a session is removed, and it alone. -/
theorem sessions_actSessionClose_of_idle (hzero : c.zero 0x14 0x18 = true) (hp : x.phase < 4) (hb : v.inBatch x.id = false) :
    ∃ u v', actSessionClose c i v addr w = (u, none) ∧ getSvc u i = some v' ∧
      ∀ y, y ∈ v'.sessions ↔ y ∈ v.sessions ∧ y.id ≠ x.id := by
  have hfound := Svc.session_updSession hx (f := fun y => y.close c.tid addr) fun _ => rfl
  obtain ⟨e, he, hget⟩ := getSvc_startCopies
    (getSvc_dropSession (getSvc_updSession hv (c.f 0x10 4) fun y => y.close c.tid addr) hfound 0)
  have hid := Svc.session_id hx
  rw [hid] at hb ⊢
  refine ⟨_, e, ?_, hget, fun y => ?_⟩
  · rw [actSessionClose_of_fields addr hx hflags hcl hzero hp]
    simp only [hb, Bool.false_eq_true, if_false]
  · rw [he.sessions_eq, Svc.dropSession, List.mem_filter, decide_eq_true_eq]
    exact and_congr_left fun hne => Svc.mem_updSession_of_ne (f := fun y => y.close c.tid addr) (fun _ => rfl) hne

end

end

end Sys2Proof.Machine
end

section
/-! SVC_OPEN, SVC_CLOSE and SVC_QUERY (11 R276, R277). -/

namespace Sys2Proof.Machine

/-- The job of a SVC_OPEN can serve: it is an idle best-effort job of the host with plan rules, on cores that have not failed. -/
structure Serves (j : Job) : Prop where
  bestEffort : j.bestEffort = true
  rules : j.rules = true
  byHost : j.byHost = true
  free : j.service = none
  idle : j.run = none
  cores : j.lostCore ≠ 2

/-- The request till of a service is one of its partition's tills, configured for requests. -/
structure RequestTill (t : State) (v : Svc) (q : Part) : Prop where
  part : getPart t v.part = some q
  owned : v.f 0x18 2 < q.tillCount
  configured : (getTill t (partTill v.part (v.f 0x18 2))).state ≠ .unconfigured
  kind : (getTill t (partTill v.part (v.f 0x18 2))).kind = 4

/-- A partition has the service VLAN that a service names. -/
def Svc.vlanBound (v : Svc) (q : Part) : Bool := q.vlans.any fun w => decide (w.mac = v.f 0x15 1 ∧ w.kind = 2 ∧ w.vid = v.f 0x16 2)

section
variable {s t : State} {m : Msg} {c : Ctx}

/-- A SVC_OPEN that passes its checks binds the service to its job, where the partition has the service VLAN. -/
theorem carrySvcOpen_of_serves {j : Job} {q : Part} (hc : Carried s 0x0900 0x200 112 m t c)
    (hloaded : ∀ l ∈ t.work.loading, l.handle ≠ c.f 0x10 4) (hj : getJob t (c.f 0x10 4) = some j) (hfields : c.svcFields = true)
    (hparams : (c.newSvc j.part).paramsOk j.image = true) (hhost : hostOf t c.m.src j.part = true)
    (hplaced : (c.newSvc j.part).placedOk j.image = true) (hserves : Serves j) (hnew : Tbl.has t.services (c.f 0x14 1) = false)
    (htill : RequestTill t (c.newSvc j.part) q) : carrySvcOpen c t =
      if (c.newSvc j.part).vlanBound q then
        (let v := c.newSvc j.part
         let w := putJob t (c.f 0x10 4) { j with service := some (c.f 0x14 1), pool := some (v.pool, v.frames, v.frameBytes) }
         ({ w with services := Tbl.put w.services (c.f 0x14 1) v }, some (Done.of eOk)))
      else (t, some ⟨eNofit, 0xFFFF000B, 0, 0, 0⟩) := by
  obtain ⟨hbest, hrules, hby, hfree, hidle, hcores⟩ := hserves
  obtain ⟨hq, howned, hstate, hkind⟩ := htill
  have hq' : getPart t j.part = some q := hq
  have hany : (t.work.loading.any fun l => decide (l.handle = c.f 0x10 4)) = false := by simpa using hloaded
  unfold carrySvcOpen
  simp only [hany, Bool.false_eq_true, if_false, hj]
  rw [checks_of_allowed hc (by simp [hfields, hparams]) (by simp [hhost, hplaced])]
  have hstate' : (getTill t (partTill j.part ((c.newSvc j.part).f 0x18 2))).state ≠ .unconfigured := hstate
  have hkind' : (getTill t (partTill j.part ((c.newSvc j.part).f 0x18 2))).kind = 4 := hkind
  simp only [hbest, hrules, hby, hfree, hidle, hcores, hnew, hq', howned, hstate', hkind', firstFail, Option.isNone_none, ne_eq,
    not_false_eq_true, decide_true, Bool.not_false, Bool.and_self, if_true]
  change (if ¬ (c.newSvc j.part).vlanBound q = true then _ else _) = _
  exact ite_not ..

variable {len : Nat} {op : Nat} {v : Svc} (hc : Carried s op 0x200 len m t c) (hi : c.f 0x10 1 ≤ 7) (hzero : c.zero 0x11 0x18 = true)
  (hv : getSvc t (c.f 0x10 1) = some v) (hhost : hostOf t c.m.src v.part = true)
include hc hi hzero hv hhost

theorem svcChecks_of_host : c.svcChecks t = none := by
  simp only [Ctx.svcChecks, hv]
  rw [checks_of_allowed hc (by simp [hi, hzero]) hhost]
  rfl

theorem carrySvcQuery_of_host : carrySvcQuery c t =
    (t, some ⟨eOk, v.sessions.length, v.freeFrames.length, (v.pages.filter fun p => p.state = pgHost).length, v.steps⟩) := by
  simp only [carrySvcQuery, svcChecks_of_host hc hi hzero hv hhost, whenOk_none, hv]

/-- A SVC_CLOSE notes that the service closes, and stops its job after the epoch in progress. -/
theorem carrySvcClose_of_host (hcl : v.closing = none) : carrySvcClose c t =
    (let w := updSvc t (c.f 0x10 1) fun v => { v with closing := some c.tid }
     (settleServices (if ((getJob t v.job).bind Job.run).elim true fun r => r.ending then w else stopAfterEpoch w v.job none), none)) := by
  simp only [carrySvcClose, svcChecks_of_host hc hi hzero hv hhost, whenOk_none, hv, hcl, Option.isSome_none, Bool.false_eq_true, if_false]
  rfl

end

end Sys2Proof.Machine
end

section
/-! Copies of pages that complete, sessions without a frame, and service frames (11 R288, R290, R294; 17 R450). -/

namespace Sys2Proof.Machine

/-! ### Copies (R288, R290) -/

section
variable {s : State} {i page : Nat} {v : Svc} (hv : getSvc s i = some v)
include hv

theorem exec_evictionCopyComplete_of_none (h : v.copying ≠ some page ∨ (v.page page).frame = none ∨ (v.page page).hostSlot = none) :
    exec (.evictionCopyComplete i page) s = .next s := by
  show execEvictionCopyComplete i page s = _
  simp only [execEvictionCopyComplete, hv]
  obtain h | h | h := h
  · rw [if_neg h]
  · rw [h, ite_self]
  · rw [h]
    cases (if v.copying = some page then (v.page page).frame else none) <;> rfl

theorem exec_reloadCopyComplete_of_none (h : v.loading ≠ some page ∨ (v.page page).frame = none ∨ (v.page page).hostSlot = none) :
    exec (.reloadCopyComplete i page) s = .next s := by
  show execReloadCopyComplete i page s = _
  simp only [execReloadCopyComplete, hv]
  obtain h | h | h := h
  · rw [if_neg h]
  · rw [h, ite_self]
  · rw [h]
    cases (if v.loading = some page then (v.page page).frame else none) <;> rfl

variable {f k : Nat} (hf : (v.page page).frame = some f) (hk : (v.page page).hostSlot = some k)
include hf hk

theorem exec_evictionCopyComplete_of_copying (h : v.copying = some page) : exec (.evictionCopyComplete i page) s =
    .next (startCopies (updSvc (updHost s fun h =>
        { h with hostMem := Mem.writeBytes h.hostMem (v.overflow + k * v.frameBytes) (v.read s (v.frameAt f) v.frameBytes) }) i fun v =>
      { v.updPage page fun p => ({ p with state := pgHost, frame := none } : KvPage).settle with copying := none }) i) := by
  show execEvictionCopyComplete i page s = _
  simp only [execEvictionCopyComplete, hv, if_pos h, hf, hk]

theorem exec_reloadCopyComplete_of_loading (h : v.loading = some page) : exec (.reloadCopyComplete i page) s =
    (let w := hbmWrite s v.part (v.frameAt f) (Mem.bytes s.host.hostMem (v.overflow + k * v.frameBytes) v.frameBytes)
     .next (wakeSessions (startCopies (updSvc w i fun v =>
       { v.updPage page fun p => ({ p with state := pgResident, hostSlot := none, lastUse := v.steps } : KvPage).settle with
         loading := none
         sessions := v.sessions.map fun x => if page ∈ x.pages then { x with eligible := nowNs w } else x }) i) i)) := by
  show execReloadCopyComplete i page s = _
  simp only [execReloadCopyComplete, hv, if_pos h, hf, hk]

end

/-! ### Sessions without a frame (R294) -/

section
variable {s : State} {i : Nat} {v : Svc} {x : Session} (hv : getSvc s i = some v) (hx : v.session x.id = some x)
include hv hx

theorem exec_sessionFrameTimeout_eq : exec (.sessionFrameTimeout i x.id) s =
    .next (if x.starved.any fun t => t + 1000000000 ≤ nowNs s then endGenerate s i x.id eResource 0 else s) := by
  show execSessionFrameTimeout i x.id s = _
  simp only [execSessionFrameTimeout, hv, Option.bind_some, hx]

/-- A session that is not starved, or not for 1 s, or that does not generate, stands. -/
theorem exec_sessionFrameTimeout_of_none (h : x.gen = none ∨ ∀ since, x.starved = some since → nowNs s < since + 1000000000) :
    exec (.sessionFrameTimeout i x.id) s = .next s := by
  rw [exec_sessionFrameTimeout_eq hv hx]
  obtain h | h := h
  · have hend : endGenerate s i x.id eResource 0 = s := by simp only [endGenerate, hv, Option.bind_some, hx, h]
    rw [hend, ite_self]
  · refine congrArg _ (if_neg ?_)
    simpa [Option.any_eq_true] using h

/-- After 1 s without a frame, the request ends and the session is IDLE. -/
theorem exec_sessionFrameTimeout_of_starved {since : Nat} {g : Generate} (hs : x.starved = some since) (hle : since + 1000000000 ≤ nowNs s)
    (hg : x.gen = some g) : exec (.sessionFrameTimeout i x.id) s =
      .next (finish (updSession s i x.id Session.idle) g.ticket ⟨eResource, 0, 0, 0, 0⟩) := by
  have hlate : (x.starved.any fun t => decide (t + 1000000000 ≤ nowNs s)) = true := by
    rw [hs, Option.any_some]
    exact decide_eq_true hle
  have hne : eResource ≠ eOk := by decide
  rw [exec_sessionFrameTimeout_eq hv hx, if_pos hlate, endGenerate_of_gen hv hx hg, if_neg hne]

end

/-! ### Service frames (R450) -/

/-- The header and the length of a service frame are as R450 wants them. -/
def ServiceFrameOk (p : List Byte) : Prop :=
  imgLe p 1 1 = 0 ∧ 16 ≤ imgLe (p.drop 2) 4 2 ∧ imgLe (p.drop 2) 4 2 ≤ 4096 ∧ imgLe (p.drop 2) 4 2 % 8 = 0 ∧
    ((p.drop 2).take (imgLe (p.drop 2) 4 2)).length = imgLe (p.drop 2) 4 2

section
variable {s : State} {mac vlan addr : Nat} {p : List Byte}

theorem exec_serviceFrame_of_down (h : (getMac s mac).up = false) : exec (.serviceFrame mac vlan addr p) s = .next s := by
  show execServiceFrame mac vlan addr p s = _
  simp [execServiceFrame, h]

variable (hup : (getMac s mac).up = true)
include hup

theorem exec_serviceFrame_of_unknownVlan (h : vlanKind (countRx s mac) mac vlan ≠ some 2) : exec (.serviceFrame mac vlan addr p) s =
    .next (updMac (countRx s mac) mac fun m => { m with unknownVlan := satInc m.unknownVlan 1 }) := by
  show execServiceFrame mac vlan addr p s = _
  simp only [execServiceFrame, hup, not_true_eq_false, if_false, if_pos h]

variable (hv : vlanKind (countRx s mac) mac vlan = some 2)
include hv

theorem exec_serviceFrame_of_bad (h : svcBound (countRx s mac) (imgLe p 0 1) mac vlan = none ∨ ¬ ServiceFrameOk p) :
    exec (.serviceFrame mac vlan addr p) s = .next (updMac (countRx s mac) mac fun m => { m with svcBad := satInc m.svcBad 1 }) := by
  show execServiceFrame mac vlan addr p s = _
  simp only [execServiceFrame, hup, hv, not_true_eq_false, ne_eq, if_false]
  cases hb : svcBound (countRx s mac) (imgLe p 0 1) mac vlan with
  | none => rfl
  | some v =>
    have hbad := h.resolve_left (by simp [hb])
    refine congrArg _ (if_pos ?_)
    unfold ServiceFrameOk at hbad
    omega

variable {v : Svc} (hb : svcBound (countRx s mac) (imgLe p 0 1) mac vlan = some v) (hok : ServiceFrameOk p)
include hb hok

/-- A good service frame goes to the request till of its service, where the till runs and has room. -/
theorem exec_serviceFrame_of_ok : exec (.serviceFrame mac vlan addr p) s =
    (let w := countRx s mac
     let n := partTill v.part (v.f 0x18 2)
     let q := getTill w n
     let len := imgLe (p.drop 2) 4 2
     .next (if q.state ≠ .running ∨ q.slots - q.used < ceilDiv len 64 then updMac w mac fun m => { m with svcFull := satInc m.svcFull 1 }
       else writeEntry (updHost w fun h => { h with frameSrc := Tbl.set 0 h.frameSrc (q.slotAddr q.prod / 64) addr }) n
         ((p.drop 2).take len) false)) := by
  show execServiceFrame mac vlan addr p s = _
  simp only [execServiceFrame, hup, hv, hb, not_true_eq_false, ne_eq, if_false]
  refine congrArg _ (if_neg ?_)
  unfold ServiceFrameOk at hok
  omega

end

end Sys2Proof.Machine
end

section
/-! Service commands, requests of clients, copies of pages and service frames: their statement, from the rule of each. -/

namespace Sys2Proof.Machine

section
variable {s t : State} {op i addr : Nat} {m : Msg} {c : Ctx} {v : Svc}

/-- The length of a request with a list of tokens is the one that its count asks for. -/
theorem tokensLen_of_carried {since len : Nat} (hc : Carried s op since len m t c) (off : Nat) :
    tokensLen off m.body = 8 * ceilDiv (32 + 4 * c.f off 2) 8 := by
  rw [tokensLen, Ctx.f, hc.msg]
  rfl

/-- The service of a request stands when its frame has been charged. -/
theorem getSvc_requestCharged (hv : getSvc t i = some v) (k : Option Nat) (m : Msg) : getSvc (requestCharged t i k m) i = some v :=
  ((requestCharged_ledgerOnly t i k m).getSvc_eq i).trans hv

theorem exec_sessionOpen_of_fields (hr : Requested s 0x0910 (8 * ceilDiv (32 + 4 * c.f 0x16 2) 8) m t c i addr v) (hf : OpenFields c v)
    (hcl : v.closing = none) (hroom : v.sessions.length < v.f 0x26 2) : exec (.sessionOpen m) s =
      (let w := requestCharged t i (some (c.f 0x10 4)) m
       .next (answered (if ((getJob t v.job).bind Job.run).isSome then sessionOpened c i v addr w else startService (sessionOpened c i v addr w) i)
         c ⟨eOk, v.nextSession, 256 * (c.sharedPages v w).length, 0, 0⟩)) := by
  obtain ⟨h24, h4096, h8⟩ := tokenLength_bounds hf.count
  refine (taken_of_request_done hr h24 h4096 h8 (tokensLen_of_carried hr.carried 0x16)
    (key := fun c _ => some (c.f 0x10 4)) (actSessionOpen_of_fields hr.carried.flags hf hcl i addr _ hroom)).trans ?_
  rw [(requestCharged_ledgerOnly ..).getJob_eq]

/-- A session that has been opened, once prompts have woken. -/
structure Opened (c : Ctx) (v : Svc) (addr : Nat) (x : Session) : Prop where
  client : x.client = c.f 0x10 4
  total : x.total = c.f 0x18 4
  length : x.length = 256 * x.pages.length
  queued : x.queued = (c.tokens (c.f 0x16 2)).drop x.length
  addr : x.addr = addr
  share : x.share = decide (c.f 0x14 2 = 1)
  alone : c.f 0x14 2 = 0 → x.pages = []
  registered : ∀ p ∈ x.pages, (v.page p).registered = true
  phase : x.pages = [] → x.phase = if c.f 0x16 2 = c.f 0x18 4 then phPrefill else phOpening

theorem opened_woken (c : Ctx) (v : Svc) (addr : Nat) (w : State) (y : Svc) (now : Nat) :
    Opened c v addr (y.woken now (openedSession c v addr w)) := by
  have hphase := y.phase_woken_of_noPages now (x := openedSession c v addr w) rfl
  obtain ⟨p, e, h⟩ := y.woken_eq now (openedSession c v addr w)
  rw [h] at hphase ⊢
  refine ⟨rfl, rfl, rfl, rfl, rfl, rfl, fun h0 => ?_, fun q hq => Ctx.registered_of_mem_sharedPages hq, fun hp => ?_⟩
  · show c.sharedPages v w = []
    simp [Ctx.sharedPages, h0]
  · have hnone : c.sharedPages v w = [] := hp
    rw [hphase hp]
    simp [openedSession, hnone, Ctx.tokens]

/-- A SESSION_OPEN with fields in range makes the next session. -/
theorem exec_sessionOpen_of_requested (hr : Requested s 0x0910 (8 * ceilDiv (32 + 4 * c.f 0x16 2) 8) m t c i addr v) (hf : OpenFields c v)
    (hcl : v.closing = none) (hroom : v.sessions.length < v.f 0x26 2) (hfree : v.session v.nextSession = none) :
    ∃ u v' x, exec (.sessionOpen m) s =
        .next (answered (if ((getJob t v.job).bind Job.run).isSome then u else startService u i) c
          ⟨eOk, v.nextSession, 256 * x.pages.length, 0, 0⟩) ∧
      getSvc u i = some v' ∧ v'.nextSession = v.nextSession + 1 ∧ v'.session v.nextSession = some x ∧ Opened c v addr x ∧
      u.host = t.host ∧ u.work.jobs = t.work.jobs := by
  have hl := requestCharged_ledgerOnly t i (some (c.f 0x10 4)) m
  have hexec := exec_sessionOpen_of_fields hr hf hcl hroom
  have hget := getSvc_requestCharged hr.svc (some (c.f 0x10 4)) m
  generalize requestCharged t i (some (c.f 0x10 4)) m = w at hl hexec hget
  obtain ⟨v', y, hv', hnext, hses⟩ := session_sessionOpened hget c addr hfree
  have ho := opened_woken c v addr w y (nowNs w)
  have hpages : (y.woken (nowNs w) (openedSession c v addr w)).pages = c.sharedPages v w := by
    obtain ⟨p, e, h⟩ := y.woken_eq (nowNs w) (openedSession c v addr w)
    rw [h]
    rfl
  refine ⟨_, v', _, ?_, hv', hnext, hses, ho, (sessionOpened_host ..).trans hl.jobsOnly.host_eq, ?_⟩
  · rw [hpages]
    exact hexec
  · rw [sessionOpened_work, hl.jobs_eq]

section
variable {x : Session} (hx : v.session (c.f 0x10 4) = some x) (hcl : x.closing = none)
include hx hcl

/-- A SESSION_APPEND that fits queues its tokens, and a prompt that is all there wakes. -/
theorem exec_sessionAppend_of_requested (hr : Requested s 0x0911 (8 * ceilDiv (32 + 4 * c.f 0x14 2) 8) m t c i addr v)
    (hf : AppendFields c v x) : ∃ u v', ∃ y : Svc, ∃ now, exec (.sessionAppend m) s = .next (answered u c (Done.of eOk)) ∧
      getSvc u i = some v' ∧ v'.session x.id = some (y.woken now (x.append c now addr)) := by
  obtain ⟨h24, h4096, h8⟩ := tokenLength_bounds hf.most
  obtain ⟨u, v', y, hact, hget, hses⟩ :=
    session_actSessionAppend addr (getSvc_requestCharged hr.svc (c.sessionClient v) m) hx hr.carried.flags hcl hf
  exact ⟨u, v', y, _, taken_of_request_done hr h24 h4096 h8 (tokensLen_of_carried hr.carried 0x14) hact, hget, hses⟩

/-- A SESSION_GENERATE of an IDLE session with room makes it GENERATING. -/
theorem exec_sessionGenerate_of_room (hr : Requested s 0x0912 48 m t c i addr v) (hf : GenerateFields c) (hp : x.phase = phIdle)
    (hroom : x.length + v.positions ≤ v.maxPages * 256) : ∃ u v' now, exec (.sessionGenerate m) s = .next (waits u) ∧
      getSvc u i = some v' ∧ v'.session x.id = some (x.begin c now addr) := by
  obtain ⟨u, v', hact, hget, hses⟩ := session_actSessionGenerate_of_room addr (getSvc_requestCharged hr.svc (c.sessionClient v) m) hx
    hr.carried.flags hcl hf hp hroom
  exact ⟨u, v', _, taken_of_request_waits hr (by decide) (by decide) (by decide) rfl hact, hget, hses⟩

/-- A SESSION_GENERATE of an IDLE session whose context is full ends at once. -/
theorem exec_sessionGenerate_of_full (hr : Requested s 0x0912 48 m t c i addr v) (hf : GenerateFields c) (hp : x.phase = phIdle)
    (hfull : v.maxPages * 256 < x.length + v.positions) : ∃ u v' now,
      exec (.sessionGenerate m) s = .next (waits (finish u c.tid ⟨eOk, 0, 2, 0, 0⟩)) ∧ getSvc u i = some v' ∧
        v'.session x.id = some (x.begin c now addr).idle := by
  obtain ⟨u, v', hact, hget, hses⟩ := session_actSessionGenerate_of_full addr (getSvc_requestCharged hr.svc (c.sessionClient v) m) hx
    hr.carried.flags hcl hf hp hfull
  exact ⟨u, v', _, taken_of_request_waits hr (by decide) (by decide) (by decide) rfl hact, hget, hses⟩

/-- A SESSION_FORK of an IDLE session between steps copies it. -/
theorem exec_sessionFork_of_idle (hr : Requested s 0x0913 24 m t c i addr v) (hb : v.inBatch x.id = false) (hp : x.phase = phIdle)
    (hroom : v.sessions.length < v.f 0x26 2) (hfree : v.session v.nextSession = none) : ∃ u v' now,
      exec (.sessionFork m) s = .next (answered u c ⟨eOk, v.nextSession, 0, 0, 0⟩) ∧ getSvc u i = some v' ∧
        v'.session v.nextSession = some (x.fork v.nextSession c.tid (c.f 0x14 4) addr now) := by
  obtain ⟨u, v', hact, hget, hses⟩ := session_actSessionFork_of_idle addr (getSvc_requestCharged hr.svc (some (c.f 0x14 4)) m) hx
    hr.carried.flags hcl hb hp hroom hfree
  exact ⟨u, v', _, taken_of_request_done hr (by decide) (by decide) (by decide) (key := fun c _ => some (c.f 0x14 4)) rfl hact, hget, hses⟩

/-- A SESSION_FORK of a session of a step block waits for its step. -/
theorem exec_sessionFork_of_inBatch (hr : Requested s 0x0913 24 m t c i addr v) (hb : v.inBatch x.id = true) (hno : x.phase ≠ phOpening)
    (hp : x.phase < 4) : ∃ u, exec (.sessionFork m) s = .next (waits u) ∧
      getSvc u i = some (v.updSession (c.f 0x10 4) fun y => y.addFork c.tid (c.f 0x14 4) addr) :=
  ⟨_, taken_of_request_waits hr (by decide) (by decide) (by decide) (key := fun c _ => some (c.f 0x14 4)) rfl
    (actSessionFork_of_inBatch addr hx hr.carried.flags hcl hb hno hp), getSvc_updSession (getSvc_requestCharged hr.svc _ m) ..⟩

/-- A SESSION_CLOSE between steps removes its session alone. -/
theorem exec_sessionClose_of_idle (hr : Requested s 0x0914 24 m t c i addr v) (hzero : c.zero 0x14 0x18 = true) (hp : x.phase < 4)
    (hb : v.inBatch x.id = false) : ∃ u v', exec (.sessionClose m) s = .next (waits u) ∧ getSvc u i = some v' ∧
      ∀ y, y ∈ v'.sessions ↔ y ∈ v.sessions ∧ y.id ≠ x.id := by
  obtain ⟨u, v', hact, hget, hmem⟩ := sessions_actSessionClose_of_idle addr (getSvc_requestCharged hr.svc (c.sessionClient v) m) hx
    hr.carried.flags hcl hzero hp hb
  exact ⟨u, v', taken_of_request_waits hr (by decide) (by decide) (by decide) rfl hact, hget, hmem⟩

/-- A SESSION_CLOSE of a session of a step block waits for its epoch. -/
theorem exec_sessionClose_of_inBatch (hr : Requested s 0x0914 24 m t c i addr v) (hzero : c.zero 0x14 0x18 = true) (hp : x.phase < 4)
    (hb : v.inBatch x.id = true) : ∃ u, exec (.sessionClose m) s = .next (waits u) ∧
      getSvc u i = some (v.updSession (c.f 0x10 4) fun y => y.close c.tid addr) := by
  rw [Svc.session_id hx] at hb
  exact ⟨_, taken_of_request_waits hr (by decide) (by decide) (by decide) rfl
    ((actSessionClose_of_fields addr hx hr.carried.flags hcl hzero hp).trans (by simp only [hb, if_true])),
    getSvc_updSession (getSvc_requestCharged hr.svc (c.sessionClient v) m) ..⟩

end

end

/-- Settles O57: each command passes its checks, each request finds its session as it changed it, copies and wakes leave the sessions
otherwise, and a copy, a timeout and a frame do what their branch says. -/
theorem servicesServeTheirSessions : Obligations.ServicesServeTheirSessions := by
  unfold Obligations.ServicesServeTheirSessions
  intro s m t c
  refine ⟨fun j hc hloaded hj q hfields hparams hhost hplaced hbest hrules hby hfree hidle hcores hnew hq howned hstate hkind =>
      ⟨fun hb => ?bound, fun hb => ?unbound⟩,
    fun v hi hzero hv hhost => ⟨fun hc => ?query, fun hc hcl => ⟨fun hrun => ?closeIdle, fun r hrun => ?closeRunning⟩⟩,
    fun i addr e v htill hsrc hv => ⟨fun n total hc hn htotal h1 h2 h3 h4 h5 h6 h7 hcl hroom hfree => ?opens, fun x hx hcl =>
      ⟨fun n hc hn h1 h2 hzero htok => ⟨fun hp hfits => ?appendOpening, fun hp hfits => ?appendIdle⟩,
       fun hc h1 h2 h3 hzero hp => ⟨fun hroom => ?generate, fun hfull => ?full⟩,
       fun hc => ⟨fun hb hp hroom hfree => ?fork, fun hb hno hp => ?forkLater⟩,
       fun hc hzero hp => ⟨fun hb => ?close, fun hb => ?closeLater⟩⟩⟩,
    fun i page v hv hnone => ⟨exec_evictionCopyComplete_of_none hv (.inr hnone), exec_reloadCopyComplete_of_none hv (.inr hnone)⟩,
    fun i page f k v hv hf hk => ⟨fun h => exec_evictionCopyComplete_of_copying hv hf hk h, fun h => exec_evictionCopyComplete_of_none hv (.inl h),
      fun h => exec_reloadCopyComplete_of_loading hv hf hk h, fun h => exec_reloadCopyComplete_of_none hv (.inl h)⟩,
    fun i v x hv hx => ⟨fun h => ?stands, fun since hs hlt => ?early, fun since g hs hle hg => ?starved⟩,
    fun mac vlan addr p => ⟨fun h => exec_serviceFrame_of_down h, fun hup => ⟨fun h => exec_serviceFrame_of_unknownVlan hup h,
      fun hv h => exec_serviceFrame_of_bad hup hv h, fun v hv hb hok => ⟨fun h => ?noRoom, fun hrun hroom => ?room⟩⟩⟩⟩
  case bound =>
    obtain rfl := hc.msg
    refine runCommand_of_done hc (by decide) (by decide) ((carrySvcOpen_of_serves hc hloaded hj hfields hparams hhost hplaced
      ⟨hbest, hrules, hby, hfree, hidle, hcores⟩ hnew ⟨hq, howned, hstate, hkind⟩).trans ?_)
    exact if_pos hb
  case unbound =>
    obtain rfl := hc.msg
    refine runCommand_of_done hc (by decide) (by decide) ((carrySvcOpen_of_serves hc hloaded hj hfields hparams hhost hplaced
      ⟨hbest, hrules, hby, hfree, hidle, hcores⟩ hnew ⟨hq, howned, hstate, hkind⟩).trans ?_)
    exact if_neg (Bool.eq_false_iff.mp hb)
  case query =>
    obtain rfl := hc.msg
    exact runCommand_of_done hc (by decide) (by decide) (carrySvcQuery_of_host hc hi hzero hv hhost)
  case closeIdle =>
    obtain rfl := hc.msg
    refine runCommand_of_waits hc (by decide) (by decide) ((carrySvcClose_of_host hc hi hzero hv hhost hcl).trans ?_)
    rw [hrun]
    rfl
  case closeRunning =>
    obtain rfl := hc.msg
    refine runCommand_of_waits hc (by decide) (by decide) ((carrySvcClose_of_host hc hi hzero hv hhost hcl).trans ?_)
    rw [hrun]
    rfl
  case opens =>
    subst hn htotal
    obtain ⟨u, v', x, hexec, hget, hnext, hses, ho, hhost, hjobs⟩ :=
      exec_sessionOpen_of_requested ⟨hc, ⟨e, htill⟩, hsrc, hv⟩ ⟨h1, h2, h3, h5, h4, h6, h7⟩ hcl hroom hfree
    exact ⟨u, v', x, hexec, hget, hnext, hses, ho.client, ho.total, ho.length, ho.queued, ho.addr, ho.share, ho.alone, ho.registered, ho.phase,
      hhost, hjobs⟩
  case appendOpening =>
    subst hn
    obtain ⟨u, v', y, now, hexec, hget, hses⟩ :=
      exec_sessionAppend_of_requested hx hcl ⟨hc, ⟨e, htill⟩, hsrc, hv⟩ ⟨h1, h2, hzero, htok, .inl ⟨hp, hfits⟩⟩
    obtain ⟨p, el, hy⟩ := y.woken_eq now (x.append c now addr)
    rw [hy, Session.append_of_opening hp] at hses
    exact ⟨u, v', _, hexec, hget, hses, rfl, rfl⟩
  case appendIdle =>
    subst hn
    obtain ⟨u, v', y, now, hexec, hget, hses⟩ :=
      exec_sessionAppend_of_requested hx hcl ⟨hc, ⟨e, htill⟩, hsrc, hv⟩ ⟨h1, h2, hzero, htok, .inr ⟨hp, hfits⟩⟩
    rw [Session.append_of_idle hp, y.woken_of_not_opening now (show phPrefill ≠ phOpening by decide)] at hses
    exact ⟨u, v', _, hexec, hget, hses, rfl, rfl, rfl, rfl⟩
  case generate =>
    obtain ⟨u, v', now, hexec, hget, hses⟩ :=
      exec_sessionGenerate_of_room hx hcl ⟨hc, ⟨e, htill⟩, hsrc, hv⟩ ⟨h1, h2, h3, hzero⟩ hp hroom
    exact ⟨u, v', _, hexec, hget, hses, rfl, rfl, rfl⟩
  case full =>
    obtain ⟨u, v', now, hexec, hget, hses⟩ :=
      exec_sessionGenerate_of_full hx hcl ⟨hc, ⟨e, htill⟩, hsrc, hv⟩ ⟨h1, h2, h3, hzero⟩ hp hfull
    exact ⟨u, v', _, hexec, hget, hses, rfl, rfl⟩
  case fork =>
    obtain ⟨u, v', now, hexec, hget, hses⟩ := exec_sessionFork_of_idle hx hcl ⟨hc, ⟨e, htill⟩, hsrc, hv⟩ hb hp hroom hfree
    exact ⟨u, v', _, hexec, hget, hses, rfl, rfl, rfl, rfl⟩
  case forkLater =>
    obtain ⟨u, hexec, hget⟩ := exec_sessionFork_of_inBatch hx hcl ⟨hc, ⟨e, htill⟩, hsrc, hv⟩ hb hno hp
    refine ⟨u, _, x.addFork c.tid (c.f 0x14 4) addr, hexec, hget, ?_, rfl, List.length_map _⟩
    rw [Svc.session_id hx]
    exact Svc.session_updSession hx fun _ => rfl
  case close => exact exec_sessionClose_of_idle hx hcl ⟨hc, ⟨e, htill⟩, hsrc, hv⟩ hzero hp hb
  case closeLater =>
    obtain ⟨u, hexec, hget⟩ := exec_sessionClose_of_inBatch hx hcl ⟨hc, ⟨e, htill⟩, hsrc, hv⟩ hzero hp hb
    refine ⟨u, _, x.close c.tid addr, hexec, hget, ?_, rfl⟩
    rw [Svc.session_id hx]
    exact Svc.session_updSession hx fun _ => rfl
  case stands =>
    refine exec_sessionFrameTimeout_of_none hv hx ?_
    obtain hs | hg := h
    · exact .inr fun since hs' => by simp [hs] at hs'
    · exact .inl hg
  case early =>
    exact exec_sessionFrameTimeout_of_none hv hx (.inr fun since' hs' => by rwa [← Option.some.inj (hs.symm.trans hs')])
  case starved =>
    exact ⟨_, _, _, exec_sessionFrameTimeout_of_starved hv hx hs hle hg, getSvc_updSession hv x.id Session.idle,
      Svc.session_updSession hx fun _ => rfl, rfl, rfl, rfl⟩
  case noRoom =>
    exact (exec_serviceFrame_of_ok hup hv hb hok).trans (congrArg _ (if_pos h))
  case room =>
    exact (exec_serviceFrame_of_ok hup hv hb hok).trans (congrArg _ (if_neg (by simp [hrun, hroom])))

end Sys2Proof.Machine
end

section
/-! MEM_MAP, MEM_UNMAP and MEM_QUERY, and the ends of a mapping and of an unmapping (12 R312-R314). -/

namespace Sys2Proof.Machine

/-! ### Pages marked and zeroed -/

/-- A page of a range that is marked UNMAPPED is not MAPPED. -/
theorem Part.isMapped_mark_false (q : Part) (first : Nat) {n k : Nat} (hk : k < n) : (q.mark first n false).isMapped (first + k) = false := by
  rw [Part.isMapped, Part.mark, Tbl.get_foldl_set, if_pos (by omega), Bool.and_false]

theorem zeroPages_succ (m : Mem) (q : Part) (first n : Nat) : zeroPages m q first (n + 1) =
    match q.allot[first + n]? with
    | some g => Mem.zero (zeroPages m q first n) (g * pageBytes) ((g + 1) * pageBytes)
    | none => zeroPages m q first n := by
  rw [zeroPages, List.range_succ, List.foldl_concat]
  rfl

/-- Every byte of a page of the range reads 0: no later page writes it. -/
theorem read_zeroPages (m : Mem) {q : Part} {first n k g a : Nat} (hk : k < n) (hg : q.allot[first + k]? = some g)
    (hlo : g * pageBytes ≤ a) (hhi : a < (g + 1) * pageBytes) : Mem.read (zeroPages m q first n) a = 0 := by
  induction n with
  | zero => omega
  | succ n ih =>
    rw [zeroPages_succ]
    by_cases hn : k = n
    · rw [← hn, hg]
      exact (Mem.read_zero ..).trans (if_pos ⟨hlo, hhi⟩)
    · have hkept := ih (by omega)
      split
      · rw [Mem.read_zero, hkept, ite_self]
      · exact hkept

/-! ### The commands -/

/-- A command names a range of pages inside a partition that its source may act on. -/
structure NamesPages (t : State) (c : Ctx) (q : Part) : Prop where
  part : NamesPart t c q
  reserved : c.zero 0x1C 0x20 = true
  low : 1 ≤ c.f 0x18 4
  high : c.f 0x18 4 ≤ 32768
  inside : c.f 0x14 4 + c.f 0x18 4 ≤ q.allot.length

theorem NamesPages.getPart_eq {t : State} {c : Ctx} {q : Part} (hn : NamesPages t c q) : getPart t (c.f 0x10 1) = some q := by
  obtain ⟨⟨-, -, hq, -⟩, -⟩ := hn
  exact hq

section
variable {s t : State} {op since len : Nat} {m : Msg} {c : Ctx} {q : Part}

/-- The shared checks pass: what the command adds decides. -/
theorem memChecks_of_names (hc : Carried s op since len m t c) (hn : NamesPages t c q) (rest : Part → List (Bool × Nat)) :
    c.memChecks t rest = firstFail (rest q) := by
  obtain ⟨⟨hpart, hzero, hq, hhost⟩, hreserved, hlow, hhigh, hin⟩ := hn
  simp only [Ctx.memChecks, hq, checks_of_carried hc]
  simp [firstFail, hpart, hzero, hhost, hreserved, hlow, hhigh, hin]

/-- A MEM_MAP of pages none of which is MAPPED, that meets no mapping in progress, supersedes none. -/
theorem carryMemMap_of_names (hc : Carried s op since len m t c) (hn : NamesPages t c q) (hnone : q.mappedIn (c.f 0x14 4) (c.f 0x18 4) = 0)
    (hfree : (q.mapping.any fun r => rangesMeet r.first r.count (c.f 0x14 4) (c.f 0x18 4)) = false) :
    carryMemMap c t = (updPart t (c.f 0x10 1) fun q =>
      { q with mapping := q.mapping ++ [{ first := c.f 0x14 4, count := c.f 0x18 4, ticket := c.tid, jobs := 0 }] }, none) := by
  have hold : (q.mapping.filter fun r => rangesMeet r.first r.count (c.f 0x14 4) (c.f 0x18 4)) = [] := by
    simpa [List.filter_eq_nil_iff] using hfree
  have hchecks := memChecks_of_names hc hn fun q => [(decide (q.mappedIn (c.f 0x14 4) (c.f 0x18 4) = 0), eState)]
  simp [carryMemMap, hchecks, hnone, firstFail, hn.getPart_eq, hold]

theorem carryMemUnmap_of_names (hc : Carried s op since len m t c) (hn : NamesPages t c q)
    (hall : q.mappedIn (c.f 0x14 4) (c.f 0x18 4) = c.f 0x18 4) :
    carryMemUnmap c t = (copyFaults (updPart t (c.f 0x10 1) fun q =>
      { q.mark (c.f 0x14 4) (c.f 0x18 4) false with unmapping := q.unmapping ++ [{ first := c.f 0x14 4, count := c.f 0x18 4, ticket := c.tid, jobs :=
        (t.work.jobs.filter fun e => e.2.part = c.f 0x10 1 && coversPages e.2.image (c.f 0x14 4) (c.f 0x18 4)).length }] })
      (c.f 0x10 1) (c.f 0x14 4) (c.f 0x18 4), none) := by
  have hchecks := memChecks_of_names hc hn fun q => [(decide (q.mappedIn (c.f 0x14 4) (c.f 0x18 4) = c.f 0x18 4), eState)]
  simp [carryMemUnmap, hchecks, hall, firstFail]

theorem carryMemQuery_of_names (hc : Carried s op since len m t c) (hn : NamesPages t c q) :
    carryMemQuery c t = (t, some ⟨eOk, q.mappedIn (c.f 0x14 4) (c.f 0x18 4), q.allot.length, 0, 0⟩) := by
  simp [carryMemQuery, memChecks_of_names hc hn, hn.getPart_eq]

end

/-! ### A mapping and an unmapping end -/

section
variable {s : State} {p : Nat} {q : Part} {r : PageRange}

theorem exec_pagesMapped_of_mapping (hq : getPart s p = some q) (hr : (q.mapping.find? fun x => x.first = r.first) = some r)
    (hfree : (q.unmapping.any fun u => rangesMeet u.first u.count r.first r.count) = false) :
    exec (.pagesMapped p r.first) s = .next (finish
      (updPart (updWork s fun w => { w with hbm := zeroPages w.hbm q r.first r.count }) p fun q =>
        { q.mark r.first r.count true with mapping := q.mapping.filter fun x => x ≠ r }) r.ticket ⟨eOk, r.count, 0, 0, 0⟩) := by
  change execPagesMapped p r.first s = _
  simp [execPagesMapped, hq, hr, hfree]

theorem exec_unmapComplete_of_landed (hq : getPart s p = some q) (hr : (q.unmapping.find? fun x => x.first = r.first) = some r)
    (hnone : txnsTouch s p r.first r.count = false) :
    exec (.unmapComplete p r.first) s = .next
      (finish (updPart s p fun q => { q with unmapping := q.unmapping.filter fun x => x ≠ r }) r.ticket ⟨eOk, r.jobs, 0, 0, 0⟩) := by
  change execUnmapComplete p r.first s = _
  simp [execUnmapComplete, hq, hr, hnone]

end

/-! ### Settled -/

/-- Settles O27: each command's checks pass, and what it carries out is said once for each; a range that is marked or zeroed is so
page by page. -/
theorem pagesMapAndUnmap : Obligations.PagesMapAndUnmap := by
  unfold Obligations.PagesMapAndUnmap
  intro s m t c q p
  refine ⟨⟨fun hc ⟨hp, hz, hlow, hhigh, hin⟩ hnone hfree => ?map, fun hc ⟨hp, hz, hlow, hhigh, hin⟩ hall => ⟨?unmap, fun k hk => ?unmapped⟩,
    fun hc ⟨hp, hz, hlow, hhigh, hin⟩ => ?query⟩, fun q r hq hr hfree => ⟨?mapped, fun k g a hk hg hlo hhi => ?zero⟩,
    fun q r hq hr hnone => ?told⟩
  case map =>
    exact runCommand_of_waits hc (by decide) (by decide) (carryMemMap_of_names hc ⟨hp, hz, hlow, hhigh, hin⟩ hnone hfree)
  case unmap =>
    exact runCommand_of_waits hc (by decide) (by decide) (carryMemUnmap_of_names hc ⟨hp, hz, hlow, hhigh, hin⟩ hall)
  case unmapped => exact q.isMapped_mark_false _ hk
  case query =>
    exact runCommand_of_done hc (by decide) (by decide) (carryMemQuery_of_names hc ⟨hp, hz, hlow, hhigh, hin⟩)
  case mapped => exact exec_pagesMapped_of_mapping hq hr hfree
  case zero => exact read_zeroPages _ hk hg hlo hhi
  case told => exact exec_unmapComplete_of_landed hq hr hnone

end Sys2Proof.Machine
end

section
/-! Transactions that land on a core: what they leave in memory and in the list of those in flight, and their errors (12 R319, R322,
R326, R328). -/

namespace Sys2Proof.Machine

/-! ### What stays in flight -/

/-- On every core the same transactions are in flight. -/
structure SameTxns (s t : State) : Prop where
  on : ∀ c, (getCore t c).txns = (getCore s c).txns

theorem SameTxns.refl (s : State) : SameTxns s s := ⟨fun _ => rfl⟩

theorem SameTxns.trans {s t u : State} (a : SameTxns s t) (b : SameTxns t u) : SameTxns s u := ⟨fun c => (b.on c).trans (a.on c)⟩

theorem SameTxns.foldl {α : Type} {f : State → α → State} (hf : ∀ s a, SameTxns s (f s a)) (l : List α) (s : State) :
    SameTxns s (l.foldl f s) := by
  induction l generalizing s with
  | nil => exact .refl s
  | cons a l ih => exact (hf s a).trans (ih (f s a))

theorem SameTxns.of_cores {s t : State} (h : t.work.cores = s.work.cores) : SameTxns s t := ⟨fun c => by rw [getCore, h, getCore]⟩

theorem JobsOnly.sameTxns {s t : State} (h : JobsOnly s t) : SameTxns s t := .of_cores h.cores_eq

theorem updCore_sameTxns {s : State} {c : Nat} {f : CoreCtl → CoreCtl} (hf : ∀ k, (f k).txns = k.txns) : SameTxns s (updCore s c f) := by
  refine ⟨fun d => ?_⟩
  by_cases hd : d = c
  · rw [hd, getCore_updCore_self, hf]
  · rw [getCore_updCore_other s f hd]

/-! ### Data that reach a scratchpad or HBM -/

theorem landOn_sameTxns (s : State) (j : Job) (c : Nat) (near : List Nat) (data : List Byte) : SameTxns s (landOn s j c near data) := by
  unfold landOn
  split
  · exact .refl s
  · exact updCore_sameTxns fun _ => rfl

theorem landOn_hbm (s : State) (j : Job) (c : Nat) (near : List Nat) (data : List Byte) :
    (landOn s j c near data).work.hbm = s.work.hbm := by
  unfold landOn
  split <;> rfl

/-- The granules hold the data as the instance names them. -/
theorem landOn_scratch {s : State} {j : Job} {c : Nat} {i : Inst} (hi : j.instOn c = some i) (near : List Nat) (data : List Byte) :
    (getCore (landOn s j c near data) c).scratch =
      near.zipIdx.foldl (fun m e => Mem.writeBytes m (64 * i.granule e.1) ((data.drop (64 * e.2)).take 64)) (getCore s c).scratch := by
  simp only [landOn, hi, getCore_updCore_self]

theorem noteSelectors_jobsOnly (s : State) (h : Nat) (q : Part) (far : List Nat) : JobsOnly s (noteSelectors s h q far) :=
  updJob_jobsOnly ..

theorem landWrite_sameTxns (s : State) (p : Nat) (x : Txn) : SameTxns s (landWrite s p x) := by
  unfold landWrite
  split
  · split
    · refine .trans ?_ (noteSelectors_jobsOnly ..).sameTxns
      exact .of_cores rfl
    · exact .refl s
  · split
    · refine .foldl (fun _ _ => ?_) _ s
      exact updCore_sameTxns fun _ => rfl
    · exact .refl s

/-- A write to HBM puts its granules at their targets, one after another. -/
theorem landWrite_hbm {s : State} {p : Nat} {x : Txn} {q : Part} (hk : x.kind = 1) (hq : Tbl.find s.work.parts p = some q) :
    (landWrite s p x).work.hbm =
      x.far.zipIdx.foldl (fun m e => Mem.writeBytes m e.1 ((x.data.drop (64 * e.2)).take 64)) s.work.hbm := by
  simp only [landWrite, hk, if_true, hq]
  exact (noteSelectors_jobsOnly ..).hbm_eq

/-! ### A transaction lands: its data, its charge, its step (R319, R322) -/

theorem chargeUse_jobsOnly (s : State) (h i amount : Nat) (d : Ledger) : JobsOnly s (chargeUse s h i amount d) := by
  unfold chargeUse
  split
  · exact .refl s
  · split
    · exact updRun_jobsOnly ..
    · exact (chargeJob_ledgerOnly ..).jobsOnly

/-- The memories once the data of a transaction have landed. -/
def landData (s : State) (c : Nat) (j : Job) (x : Txn) : State :=
  match x.kind with
  | 0 | 3 => landOn s j c x.near (txnData s x)
  | 4 => x.cores.foldl (fun s d => landOn s j d x.near (txnData s x)) s
  | _ => landWrite s j.part x

theorem landData_sameTxns (s : State) (c : Nat) (j : Job) (x : Txn) : SameTxns s (landData s c j x) := by
  unfold landData
  split
  · exact landOn_sameTxns ..
  · exact landOn_sameTxns ..
  · exact .foldl (fun _ _ => landOn_sameTxns ..) _ s
  · exact landWrite_sameTxns ..

/-- Beside its data a transaction leaves a charge. -/
theorem landTxn_jobsOnly (s : State) (c : Nat) (j : Job) (x : Txn) : JobsOnly (landData s c j x) (landTxn s c j x) := by
  change JobsOnly _ (match x.kind with
    | 0 | 4 => if x.far = [] then landData s c j x else chargeUse (landData s c j x) x.job 0 _ _
    | 1 => if x.far = [] then landData s c j x else chargeUse (landData s c j x) x.job 1 _ _
    | _ => landData s c j x)
  split
  case h_4 => exact .refl _
  all_goals
    split
    · exact .refl _
    · exact chargeUse_jobsOnly ..

section
variable {s : State} {c : Nat} {j : Job} {x : Txn} (hj : getJob s x.job = some j)
include hj

theorem landNow_jobsOnly : JobsOnly (landData s c j x) (landNow s c x) := by
  simp only [landNow, hj]
  exact (landTxn_jobsOnly s c j x).trans (updInst_jobsOnly ..)

theorem landNow_sameTxns : SameTxns s (landNow s c x) := (landData_sameTxns s c j x).trans (landNow_jobsOnly hj).sameTxns

theorem landNow_hbm_of_write {q : Part} (hk : x.kind = 1) (hq : Tbl.find s.work.parts j.part = some q) :
    (landNow s c x).work.hbm =
      x.far.zipIdx.foldl (fun m e => Mem.writeBytes m e.1 ((x.data.drop (64 * e.2)).take 64)) s.work.hbm := by
  rw [(landNow_jobsOnly hj).hbm_eq, landData, hk]
  exact landWrite_hbm hk hq

theorem landNow_hbm_of_read (hk : x.kind = 0) : (landNow s c x).work.hbm = s.work.hbm := by
  rw [(landNow_jobsOnly hj).hbm_eq, landData, hk]
  exact landOn_hbm ..

theorem landNow_scratch_of_read {i : Inst} (hk : x.kind = 0) (hi : j.instOn c = some i) : (getCore (landNow s c x) c).scratch =
    x.near.zipIdx.foldl (fun m e => Mem.writeBytes m (64 * i.granule e.1) (((txnData s x).drop (64 * e.2)).take 64)) (getCore s c).scratch := by
  rw [(landNow_jobsOnly hj).getCore_eq, landData, hk]
  exact landOn_scratch hi ..

end

/-! ### Outcomes of a landing (R326, R328) -/

/-- A transaction of a core is no longer in flight. -/
def takeTxn (s : State) (c k : Nat) : State := updCore s c fun e => { e with txns := e.txns.eraseIdx k }

theorem takeTxn_txns (s : State) (c k : Nat) : (getCore (takeTxn s c k) c).txns = (getCore s c).txns.eraseIdx k := by
  rw [takeTxn, getCore_updCore_self]

theorem takeTxn_scratch (s : State) (c k : Nat) : (getCore (takeTxn s c k) c).scratch = (getCore s c).scratch := by
  rw [takeTxn, getCore_updCore_self]

/-- What a read from HBM brings stands in HBM alone. -/
theorem txnData_takeTxn {x : Txn} (hk : x.kind = 0) (s : State) (c k : Nat) : txnData (takeTxn s c k) x = txnData s x := by
  simp only [txnData, hk, if_neg (show ¬ 0 = 3 by decide)]
  rfl

section
variable {s : State} {c k : Nat} {x : Txn} (hx : (getCore s c).txns[k]? = some x) (hrun : coreRuns s c = true)
include hx hrun

theorem exec_transactionLanding_ok : exec (.transactionLanding c k .ok) s = .next (landNow (takeTxn s c k) c x) := by
  change execTransactionLanding c k .ok s = _
  simp only [execTransactionLanding, hx, hrun, not_true_eq_false, if_false]
  rfl

theorem exec_transactionLanding_late :
    exec (.transactionLanding c k .late) s = .next (faultJob (takeTxn s c k) x.job 5 x.stream x.page c 0xFF) := by
  change execTransactionLanding c k .late s = _
  simp only [execTransactionLanding, hx, hrun, not_true_eq_false, if_false]
  rfl

/-- A read of HBM meets an uncorrectable error there. -/
theorem exec_transactionLanding_hbmError (hk : x.kind = 0) (hfar : x.far ≠ []) (bank row : Nat) :
    exec (.transactionLanding c k (.hbmError bank row)) s = .next (landHbmError (takeTxn s c k) c x bank row) := by
  change execTransactionLanding c k (.hbmError bank row) s = _
  simp only [execTransactionLanding, hx, hrun, not_true_eq_false, if_false]
  exact congrArg _ (if_pos ⟨.inl hk, hfar⟩)

/-- What reads no HBM meets an uncorrectable error in the scratchpad that it reads. -/
theorem exec_transactionLanding_scratchError (hk : ¬ (x.kind = 0 ∨ x.kind = 4)) (seg : Nat) :
    exec (.transactionLanding c k (.scratchError seg)) s = .next (landScratchError (takeTxn s c k) c x seg) := by
  change execTransactionLanding c k (.scratchError seg) s = _
  simp only [execTransactionLanding, hx, hrun, not_true_eq_false, if_false]
  exact congrArg _ (if_neg hk)

end

/-! ### Settled -/

/-- Settles O24: a landing leaves the transaction's data and beside them only charges and its step's count, and a landing with an error
is one case of its outcome. -/
theorem transactionsLand : Obligations.TransactionsLand := by
  unfold Obligations.TransactionsLand
  intro s c k x j hx hrun hj
  have hjob : getJob (takeTxn s c k) x.job = some j := hj
  refine ⟨⟨_, exec_transactionLanding_ok hx hrun, ?flight, fun hk q hq => ?write, fun hk => ⟨?hbm, fun i hi => ?read⟩⟩,
    exec_transactionLanding_late hx hrun, fun bank row hk hfar => exec_transactionLanding_hbmError hx hrun hk hfar bank row,
    fun seg hk => exec_transactionLanding_scratchError hx hrun (by omega) seg⟩
  case flight => exact ((landNow_sameTxns hjob).on c).trans (takeTxn_txns ..)
  case write => exact landNow_hbm_of_write hjob hk hq
  case hbm => exact landNow_hbm_of_read hjob hk
  case read => rw [landNow_scratch_of_read hjob hk hi, takeTxn_scratch, txnData_takeTxn hk]

end Sys2Proof.Machine
end

section
/-! Sending changes nothing beside the host interface, the network, management and the outputs, so the units in service stay what they
were (01 R19; 15 R399, R407; 16 R421). -/

namespace Sys2Proof.Machine

/-- The two states differ at most in the blocks that messages go out through. -/
def PortsOnly (s t : State) : Prop := ∃ h n m o, t = { s with host := h, net := n, mgmt := m, sent := o }

theorem PortsOnly.refl (s : State) : PortsOnly s s := ⟨s.host, s.net, s.mgmt, s.sent, rfl⟩

theorem PortsOnly.trans {s t u : State} : PortsOnly s t → PortsOnly t u → PortsOnly s u := by
  rintro ⟨_, _, _, _, rfl⟩ ⟨h, n, m, o, rfl⟩; exact ⟨h, n, m, o, rfl⟩

theorem PortsOnly.ite {s a b : State} {p : Prop} [Decidable p] (ha : PortsOnly s a) (hb : PortsOnly s b) :
    PortsOnly s (if p then a else b) := by
  split <;> assumption

theorem PortsOnly.foldl {α : Type} {f : State → α → State} (hf : ∀ s a, PortsOnly s (f s a)) (l : List α) (s : State) :
    PortsOnly s (l.foldl f s) := by
  induction l generalizing s with
  | nil => exact .refl s
  | cons a l ih => exact (hf s a).trans (ih (f s a))

theorem PortsOnly.disabled_eq {s t : State} (h : PortsOnly s t) : disabled t = disabled s := by
  obtain ⟨_, _, _, _, rfl⟩ := h; rfl

theorem PortsOnly.work_eq {s t : State} (h : PortsOnly s t) : t.work = s.work := by
  obtain ⟨_, _, _, _, rfl⟩ := h; rfl

/-! ### Interrupts and tills -/

theorem updFn_portsOnly (s : State) (f : Nat) (g : Fn → Fn) : PortsOnly s (updFn s f g) := ⟨_, s.net, s.mgmt, s.sent, rfl⟩
theorem updTill_portsOnly (s : State) (n : Nat) (g : Till → Till) : PortsOnly s (updTill s n g) := ⟨_, s.net, s.mgmt, s.sent, rfl⟩
theorem emit_portsOnly (s : State) (o : Output) : PortsOnly s (emit s o) := ⟨s.host, s.net, s.mgmt, _, rfl⟩

theorem sendVector_portsOnly (s : State) (f v : Nat) : PortsOnly s (sendVector s f v) := by
  unfold sendVector
  exact .ite (.refl s) (.ite (updFn_portsOnly ..) (.ite (updFn_portsOnly ..)
    (.ite (emit_portsOnly ..) ((emit_portsOnly ..).trans (updFn_portsOnly ..)))))

theorem setIrq_portsOnly (s : State) (f : Nat) (cause mask : BitVec 4) : PortsOnly s (setIrq s f cause mask) := by
  unfold setIrq
  exact .ite ((updFn_portsOnly ..).trans (sendVector_portsOnly ..)) (updFn_portsOnly ..)

theorem armVector_portsOnly (s : State) (n : Nat) : PortsOnly s (armVector s n) := by
  unfold armVector
  exact .ite ((updTill_portsOnly ..).trans (sendVector_portsOnly ..)) (.refl s)

theorem writeSlot_portsOnly (s : State) (n : Nat) (bytes : List Byte) : PortsOnly s (writeSlot s n bytes) := by
  unfold writeSlot
  exact .ite ⟨_, s.net, s.mgmt, s.sent, rfl⟩ ⟨_, s.net, s.mgmt, s.sent, rfl⟩

theorem writeSlots_portsOnly (s : State) (n k : Nat) (bytes : List Byte) : PortsOnly s (writeSlots s n k bytes) := by
  induction k generalizing s bytes with
  | zero => exact .refl s
  | succ k ih => exact (writeSlot_portsOnly ..).trans (ih ..)

theorem writeEntry_portsOnly (s : State) (n : Nat) (bytes : List Byte) (reserved : Bool) : PortsOnly s (writeEntry s n bytes reserved) := by
  unfold writeEntry
  exact .ite ((updTill_portsOnly ..).trans ((setIrq_portsOnly ..).trans (updTill_portsOnly ..)))
    (.ite (updTill_portsOnly ..) ((writeSlots_portsOnly ..).trans (armVector_portsOnly ..)))

theorem writeMessage_portsOnly (s : State) (n opcode tag : Nat) (body : List Byte) (reserved : Bool) :
    PortsOnly s (writeMessage s n opcode tag body reserved) := by
  have hw : ∀ bytes, PortsOnly s (writeEntry (updTill s n fun t => { t with seq := t.seq + 1 }) n bytes reserved) := fun bytes =>
    (updTill_portsOnly ..).trans (writeEntry_portsOnly ..)
  unfold writeMessage
  exact .ite ((hw _).trans (updTill_portsOnly ..)) (hw _)

/-! ### Completions -/

theorem writeCompletion_portsOnly (s : State) (n : Nat) (bytes : List Byte) : PortsOnly s (writeCompletion s n bytes) := by
  unfold writeCompletion
  exact .ite ((updTill_portsOnly ..).trans (writeEntry_portsOnly ..)) ((updTill_portsOnly ..).trans (writeMessage_portsOnly ..))

theorem completeWith_portsOnly (s : State) (id status : Nat) : PortsOnly s (completeWith s id status) := by
  unfold completeWith complete
  split
  · exact .refl s
  · have hdrop : PortsOnly s (dropTicket s id) := ⟨_, s.net, s.mgmt, s.sent, rfl⟩
    refine hdrop.trans ?_
    dsimp only
    split
    · exact ⟨_, _, _, _, rfl⟩
    · exact writeCompletion_portsOnly ..
    · split
      · exact ⟨_, _, _, _, rfl⟩
      · exact .refl _

end Sys2Proof.Machine
end

section
/-! PART_CREATE, PART_DESTROY with its completion, PART_BIND and PART_QUERY (13 R332-R336). -/

namespace Sys2Proof.Machine

/-! ### Partitions, tallies and pages after updates -/

theorem find_updPart_self (s : State) (p : Nat) (f : Part → Part) :
    Tbl.find (updPart s p f).work.parts p = (Tbl.find s.work.parts p).map f := by
  simp only [updPart_work]
  induction s.work.parts with
  | nil => rfl
  | cons e l ih =>
    obtain ⟨k, q⟩ := e
    by_cases h : k = p
    · simp [Tbl.find, h]
    · simpa [Tbl.find, h] using ih

/-- A partition that is being destroyed exists for no command (R336). -/
theorem getPart_updPart_of_destroying (s : State) (p : Nat) {f : Part → Part} (hf : ∀ q, (f q).destroying.isSome = true) :
    getPart (updPart s p f) p = none := by
  rw [getPart, find_updPart_self]
  cases Tbl.find s.work.parts p with
  | none => rfl
  | some q => exact if_pos (hf q)

theorem Sends.getPart_eq {s t : State} (h : Sends s t) (p : Nat) : getPart t p = getPart s p := by
  unfold getPart; rw [h.work]

/-- A key that a filter drops reads as the default. -/
theorem Tbl.get_filter_of_dropped {α : Type} (d : α) (t : Tbl α) {n : Nat} {keep : Nat × α → Bool} (h : ∀ v, keep (n, v) = false) :
    Tbl.get d (t.filter keep) n = d := by
  induction t with
  | nil => rfl
  | cons e t ih =>
    obtain ⟨k, v⟩ := e
    by_cases hk : k = n
    · subst hk
      simpa [h v] using ih
    · rw [List.filter_cons]
      split
      · simpa [Tbl.get, hk] using ih
      · exact ih

theorem getTally_zeroTallies (s : State) {first k n : Nat} (hlo : first ≤ n) (hhi : n < first + k) :
    getTally (zeroTallies s first k) n = Tally.zero :=
  Tbl.get_filter_of_dropped _ _ fun _ => by simp [hlo, hhi]

/-- Physical pages, zeroed one after another. -/
def zeroAllot (m : Mem) (l : List Nat) : Mem := l.foldl (fun m g => Mem.zero m (g * pageBytes) ((g + 1) * pageBytes)) m

/-- A byte that is 0 stays 0 whatever is zeroed. -/
theorem read_zeroAllot_of_zero (l : List Nat) {m : Mem} {a : Nat} (h : Mem.read m a = 0) : Mem.read (zeroAllot m l) a = 0 := by
  induction l generalizing m with
  | nil => exact h
  | cons x l ih => exact ih (by rw [Mem.read_zero, h, ite_self])

theorem read_zeroAllot (l : List Nat) (m : Mem) {g a : Nat} (hg : g ∈ l) (hlo : g * pageBytes ≤ a) (hhi : a < (g + 1) * pageBytes) :
    Mem.read (zeroAllot m l) a = 0 := by
  induction l generalizing m with
  | nil => cases hg
  | cons x l ih =>
    rcases List.mem_cons.mp hg with rfl | hg
    · exact read_zeroAllot_of_zero l ((Mem.read_zero ..).trans (if_pos ⟨hlo, hhi⟩))
    · exact ih _ hg

/-! ### Changes of cores and rinses alone -/

/-- The two states differ at most in the cores and the rinses. -/
def CoresOnly (s t : State) : Prop := ∃ k r, t = updWork s fun w => { w with cores := k, rinses := r }

theorem CoresOnly.refl (s : State) : CoresOnly s s := ⟨s.work.cores, s.work.rinses, rfl⟩

theorem CoresOnly.trans {s t u : State} : CoresOnly s t → CoresOnly t u → CoresOnly s u := by
  rintro ⟨_, _, rfl⟩ ⟨k, r, rfl⟩; exact ⟨k, r, rfl⟩

theorem CoresOnly.foldl {α : Type} {f : State → α → State} (hf : ∀ s a, CoresOnly s (f s a)) (l : List α) (s : State) :
    CoresOnly s (l.foldl f s) := by
  induction l generalizing s with
  | nil => exact .refl s
  | cons a l ih => exact (hf s a).trans (ih (f s a))

section
variable {s t : State} (hst : CoresOnly s t)
include hst

theorem CoresOnly.parts_eq : t.work.parts = s.work.parts := by obtain ⟨_, _, rfl⟩ := hst; rfl
theorem CoresOnly.getPart_eq (p : Nat) : getPart t p = getPart s p := by obtain ⟨_, _, rfl⟩ := hst; rfl
theorem CoresOnly.getTally_eq (n : Nat) : getTally t n = getTally s n := by obtain ⟨_, _, rfl⟩ := hst; rfl
theorem CoresOnly.hbm_eq : t.work.hbm = s.work.hbm := by obtain ⟨_, _, rfl⟩ := hst; rfl
theorem CoresOnly.monitors_eq : t.work.monitors = s.work.monitors := by obtain ⟨_, _, rfl⟩ := hst; rfl
theorem CoresOnly.ledger_eq : t.work.ledger = s.work.ledger := by obtain ⟨_, _, rfl⟩ := hst; rfl

end

theorem updCore_coresOnly (s : State) (c : Nat) (f : CoreCtl → CoreCtl) : CoresOnly s (updCore s c f) := ⟨_, s.work.rinses, rfl⟩

theorem startRinse_coresOnly (s : State) (parts : List (Nat × List Nat)) (use : RinseFor) : CoresOnly s (startRinse s parts use) :=
  (CoresOnly.foldl (fun s e => updCore_coresOnly s e.1 _) parts s).trans ⟨_, _, rfl⟩

theorem restSegs_coresOnly (s : State) (c : Nat) : CoresOnly s (restSegs s c) := updCore_coresOnly ..

/-! ### The shared checks -/

/-- The shared checks pass: what the command adds decides. -/
theorem partChecks_of_getPart {s t : State} {op since len : Nat} {m : Msg} {c : Ctx} {q : Part} (hc : Carried s op since len m t c)
    (hp : c.f 0x10 1 ≤ 7) (hq : getPart t (c.f 0x10 1) = some q) {fields tenant : Bool} (hf : fields = true) (ht : tenant = true)
    (rest : Part → List (Bool × Nat)) : c.partChecks t fields tenant rest = firstFail (rest q) := by
  simp only [Ctx.partChecks, hq, checks_of_carried hc, hf, ht, hp, decide_true]
  rfl

/-! ### PART_CREATE (R332, R333, R335) -/

/-- The partition stands under its index, with an empty total, its tallies at 0 and no power state of an earlier partition. -/
def partMade (t : State) (c : Ctx) : State :=
  updPower (zeroTallies (updWork t fun w => { w with
      parts := Tbl.put w.parts (c.f 0x10 1) (makePart t c)
      ledger := w.ledger.filter (fun e => e.part ≠ c.f 0x10 1) ++ [Ledger.zero (c.f 0x10 1) 3 totalClient] })
    (makePart t c).tallyFirst (makePart t c).tallyCount) fun w => { w with parts := Tbl.del w.parts (c.f 0x10 1) }

theorem carryPartCreate_of_room {s t : State} {m : Msg} {c : Ctx} (hc : Carried s 0x0100 0x100 96 m t c) (hroot : isRoot c.m.src = true)
    (hf : partFieldsOk c = true) (hfree : Tbl.find t.work.parts (c.f 0x10 1) = none) (hroom : partResources t c = none) :
    carryPartCreate c t = (partMade t c,
      some ⟨eOk, (makePart t c).tillFirst, (makePart t c).tallyFirst, (makePart t c).owned.length, 0⟩) := by
  have hpass : c.checks t (partFieldsOk c) (isRoot c.m.src) false true [((Tbl.find t.work.parts (c.f 0x10 1)).isNone, eState)] = none := by
    rw [checks_of_carried hc, hf, hroot, hfree]
    rfl
  simp only [carryPartCreate, hpass, hroom]
  rfl

theorem find_partMade (t : State) (c : Ctx) : Tbl.find (partMade t c).work.parts (c.f 0x10 1) = some (makePart t c) :=
  Tbl.find_put_self ..

theorem getTally_partMade (t : State) (c : Ctx) {n : Nat} (hlo : (makePart t c).tallyFirst ≤ n)
    (hhi : n < (makePart t c).tallyFirst + (makePart t c).tallyCount) : getTally (partMade t c) n = Tally.zero :=
  getTally_zeroTallies _ hlo hhi

theorem total_mem_partMade (t : State) (c : Ctx) : Ledger.zero (c.f 0x10 1) 3 totalClient ∈ (partMade t c).work.ledger :=
  List.mem_append_right _ List.mem_cons_self

/-! ### PART_DESTROY (R336) -/

/-- Commands that wait on a partition end: its tally waits, its mappings and its unmappings. -/
def waitsAborted (t : State) (p : Nat) (q : Part) : State :=
  (q.mapping ++ q.unmapping).foldl (fun s r => completeWith s r.ticket eAborted)
    ((t.work.monitors.filter fun m => m.part = p).foldl (fun s m => completeWith s m.ticket eAborted) t)

theorem waitsAborted_portsOnly (t : State) (p : Nat) (q : Part) : PortsOnly t (waitsAborted t p q) :=
  (PortsOnly.foldl (fun _ _ => completeWith_portsOnly ..) _ t).trans (.foldl (fun _ _ => completeWith_portsOnly ..) _ _)

/-- A partition that a command of a ticket destroys has no function and no page MAPPED. -/
def Part.closing (q : Part) (tid : Nat) : Part :=
  { q with destroying := some tid, functions := 0, mapped := [], mapping := [], unmapping := [] }

/-- The partition is being destroyed: no command waits on it, and no monitor or till of it is left. -/
def partClosed (t : State) (p tid : Nat) (q : Part) : State :=
  releaseTills (updPart (updWork (waitsAborted t p q) fun w => { w with monitors := w.monitors.filter fun m => m.part ≠ p }) p
    fun q => q.closing tid) p

theorem getPart_partClosed (t : State) (p tid : Nat) (q : Part) : getPart (partClosed t p tid q) p = none := by
  change getPart (updPart _ p fun q => q.closing tid) p = none
  exact getPart_updPart_of_destroying _ p fun _ => rfl

theorem part_of_mem_monitors_partClosed {t : State} {p tid : Nat} {q : Part} {x : Monitor}
    (hx : x ∈ (partClosed t p tid q).work.monitors) : x.part ≠ p := by
  simpa using (List.mem_filter.mp hx).2

theorem hbm_partClosed (t : State) (p tid : Nat) (q : Part) : (partClosed t p tid q).work.hbm = t.work.hbm := by
  change (waitsAborted t p q).work.hbm = t.work.hbm
  rw [(waitsAborted_portsOnly t p q).work_eq]

theorem disabled_partClosed (t : State) (p tid : Nat) (q : Part) : disabled (partClosed t p tid q) = disabled t :=
  (waitsAborted_portsOnly t p q).disabled_eq

/-- The segments of the owned cores that are in service. -/
def ownedSegs (t : State) (q : Part) : List (Nat × List Nat) := (q.owned.filter fun k => !disabled t 0 k).map fun k => (k, List.range 12)

theorem mem_ownedSegs {t : State} {q : Part} {k : Nat} (hk : k ∈ q.owned) (hd : disabled t 0 k = false) :
    (k, List.range 12) ∈ ownedSegs t q :=
  List.mem_map.mpr ⟨k, List.mem_filter.mpr ⟨hk, by simp [hd]⟩, rfl⟩

theorem carryPartDestroy_of_idle {s t : State} {m : Msg} {c : Ctx} {q : Part} (hc : Carried s 0x0101 0x100 24 m t c)
    (hroot : isRoot c.m.src = true) (hp : c.f 0x10 1 ≤ 7) (hz : c.zero 0x11 0x18 = true) (hq : getPart t (c.f 0x10 1) = some q)
    (hidle : partBusy t (c.f 0x10 1) q = false) :
    carryPartDestroy c t = (startRinse (partClosed t (c.f 0x10 1) c.tid q) (ownedSegs t q) .other, none) := by
  have hpass : c.partChecks t (c.zero 0x11 0x18) (isRoot c.m.src) (fun q => [(!partBusy t (c.f 0x10 1) q, eState)]) = none := by
    rw [partChecks_of_getPart hc hp hq hz hroot, hidle]
    rfl
  rw [ownedSegs, ← disabled_partClosed t (c.f 0x10 1) c.tid q]
  simp only [carryPartDestroy, hpass, hq]
  rfl

/-! ### PART_DESTROY_COMPLETE (R336) -/

/-- The partition's index, tallies, accounts and power state are free, and its pages hold 0. -/
def partFreed (s : State) (p : Nat) (q : Part) : State :=
  updPower (zeroTallies (updWork s fun w => { w with
      hbm := zeroAllot w.hbm q.allot
      parts := Tbl.del w.parts p
      ledger := w.ledger.filter fun e => e.part ≠ p }) q.tallyFirst q.tallyCount) fun w => { w with parts := Tbl.del w.parts p }

theorem exec_partDestroyComplete_of_rinsed {s : State} {p k : Nat} {q : Part} (hq : Tbl.find s.work.parts p = some q)
    (hk : q.destroying = some k) (hr : (q.owned.any fun c => (getCore s c).rinsing ≠ []) = false) :
    exec (.partDestroyComplete p) s = .next (finish (q.owned.foldl restSegs (partFreed s p q)) k (Done.of eOk)) := by
  change execPartDestroyComplete p s = _
  simp only [execPartDestroyComplete, hq, hk, hr]
  rfl

/-! ### PART_BIND and PART_QUERY -/

section
variable {s t : State} {m : Msg} {c : Ctx} {q : Part}

theorem carryPartBind_of_bind (hc : Carried s 0x0102 0x100 24 m t c) (hroot : isRoot c.m.src = true) (hp : c.f 0x10 1 ≤ 7)
    (hz : c.zero 0x13 0x18 = true) (hq : getPart t (c.f 0x10 1) = some q) (hf : c.f 0x11 1 ≤ 31) (hb : c.f 0x12 1 = 0)
    (hfree : boundTo t (c.f 0x11 1) = none ∨ boundTo t (c.f 0x11 1) = some (c.f 0x10 1)) :
    carryPartBind c t = (updPart t (c.f 0x10 1) fun q =>
      { q with functions := q.functions ||| BitVec.ofNat 32 (2 ^ c.f 0x11 1) }, some (Done.of eOk)) := by
  have hfields : (decide (c.f 0x11 1 ≤ 31) && decide (c.f 0x12 1 ≤ 1) && c.zero 0x13 0x18) = true := by simp [hf, hb, hz]
  have hmay : (decide (boundTo t (c.f 0x11 1) = some (c.f 0x10 1)) || (boundTo t (c.f 0x11 1)).isNone) = true := by
    obtain h | h := hfree <;> simp [h]
  simp only [carryPartBind, partChecks_of_getPart hc hp hq hfields hroot]
  simp [firstFail, hb, hmay]

theorem carryPartBind_of_unbind (hc : Carried s 0x0102 0x100 24 m t c) (hroot : isRoot c.m.src = true) (hp : c.f 0x10 1 ≤ 7)
    (hz : c.zero 0x13 0x18 = true) (hq : getPart t (c.f 0x10 1) = some q) (hf : c.f 0x11 1 ≤ 31) (hb : c.f 0x12 1 = 1)
    (hhere : boundTo t (c.f 0x11 1) = some (c.f 0x10 1))
    (hnone : ∀ e ∈ t.work.jobs, ∀ f, e.2.owner = .fn f → f.val ≠ c.f 0x11 1) :
    carryPartBind c t = (updPart t (c.f 0x10 1) fun q =>
      { q with functions := q.functions &&& ~~~BitVec.ofNat 32 (2 ^ c.f 0x11 1) }, some (Done.of eOk)) := by
  have hfields : (decide (c.f 0x11 1 ≤ 31) && decide (c.f 0x12 1 ≤ 1) && c.zero 0x13 0x18) = true := by simp [hf, hb, hz]
  simp only [carryPartBind, partChecks_of_getPart hc hp hq hfields hroot]
  rw [List.any_eq_false.mpr ?noOwner]
  case noOwner =>
    intro e he
    split
    · rename_i g hg
      simpa using hnone e he g hg
    · exact Bool.false_ne_true
  simp [firstFail, hb, hhere]

theorem carryPartQuery_of_host (hc : Carried s 0x0103 0x100 24 m t c) (hp : c.f 0x10 1 ≤ 7) (hz : c.zero 0x11 0x18 = true)
    (hq : getPart t (c.f 0x10 1) = some q) (hhost : hostOf t c.m.src (c.f 0x10 1) = true) :
    carryPartQuery c t = (t, some ⟨eOk,
      q.owned.length + 256 * q.borrowed.length + 65536 * q.exact + 2 ^ 20 * b2n q.gate
        + 2 ^ 21 * (b2n q.allowLc + 2 * b2n q.allowBe + 4 * b2n q.lending) + 2 ^ 24 * q.lendSegments,
      q.functions.toNat, q.allot.length, q.purseHbm⟩) := by
  simp only [carryPartQuery, partChecks_of_getPart hc hp hq hz hhost, hq]
  rfl

end

/-! ### Settled -/

/-- Settles O28: each command's checks pass, and what it carries out is a state whose partitions, tallies, accounts, pages and rinses the
lemmas about it give; completions that end what waited on a partition leave its cores in service as they were. -/
theorem partitionsAreMadeAndUnmade : Obligations.PartitionsAreMadeAndUnmade := by
  unfold Obligations.PartitionsAreMadeAndUnmade
  intro s m t c q
  refine ⟨⟨fun hc hroot hf hfree hroom => ?create, fun hc hroot hp hz hq hidle => ?destroy,
    fun hc hroot hp hz hq hf hb hfree => ?bind, fun hc hroot hp hz hq hf hb hhere hnone => ?unbind, fun hc hp hz hq hhost => ?query⟩,
    fun p k hq hk hr => ?destroyed⟩
  case create =>
    obtain rfl := hc.msg
    exact ⟨_, find_partMade t c, fun n hlo hhi => getTally_partMade t c hlo hhi, total_mem_partMade t c,
      runCommand_of_done hc (by decide) (by decide) (carryPartCreate_of_room hc hroot hf hfree hroom)⟩
  case destroy =>
    obtain rfl := hc.msg
    have hcores := startRinse_coresOnly (partClosed t (c.f 0x10 1) c.tid q) (ownedSegs t q) .other
    have hsent := settleByes_sends (startRinse (partClosed t (c.f 0x10 1) c.tid q) (ownedSegs t q) .other)
    refine ⟨_, runCommand_of_waits hc (by decide) (by decide) (carryPartDestroy_of_idle hc hroot hp hz hq hidle), ?gone, ?unarmed,
      fun k hk hd n hn => ?rinsing, ?kept⟩
    case gone => rw [waits, hsent.getPart_eq, hcores.getPart_eq, getPart_partClosed]
    case unarmed =>
      rw [waits, hsent.work, hcores.monitors_eq]
      exact fun x hx => part_of_mem_monitors_partClosed hx
    case rinsing =>
      rw [waits, hsent.getCore_eq]
      exact mem_rinsing_startRinse (mem_ownedSegs hk hd) (List.mem_range.mpr hn) _ _
    case kept => rw [waits, hsent.work, hcores.hbm_eq, hbm_partClosed]
  case bind =>
    obtain rfl := hc.msg
    exact runCommand_of_done hc (by decide) (by decide) (carryPartBind_of_bind hc hroot hp hz hq hf hb hfree)
  case unbind =>
    obtain rfl := hc.msg
    exact runCommand_of_done hc (by decide) (by decide) (carryPartBind_of_unbind hc hroot hp hz hq hf hb hhere hnone)
  case query =>
    obtain rfl := hc.msg
    exact runCommand_of_done hc (by decide) (by decide) (carryPartQuery_of_host hc hp hz hq hhost)
  case destroyed =>
    have hcores : CoresOnly (partFreed s p q) (q.owned.foldl restSegs (partFreed s p q)) := .foldl restSegs_coresOnly _ _
    have hsent := finish_sends (q.owned.foldl restSegs (partFreed s p q)) k (Done.of eOk)
    refine ⟨_, exec_partDestroyComplete_of_rinsed hq hk hr, ?gone, fun d hd => ?others, fun g hg a hlo hhi => ?zero,
      fun n hlo hhi => ?tallies, fun _ => ?accounts, finish_tickets _ _ _⟩
    case gone =>
      rw [hsent.work, hcores.parts_eq]
      exact Tbl.find_del_self ..
    case others =>
      rw [hsent.work, hcores.parts_eq]
      exact Tbl.find_del_other _ hd
    case zero =>
      rw [hsent.work, hcores.hbm_eq]
      exact read_zeroAllot _ _ hg hlo hhi
    case tallies =>
      rw [getTally, hsent.work]
      exact (hcores.getTally_eq n).trans (getTally_zeroTallies _ hlo hhi)
    case accounts =>
      rw [hsent.work, hcores.ledger_eq]
      exact fun e he => by simpa using (List.mem_filter.mp he).2

end Sys2Proof.Machine
end

section
/-! LEDGER_READ and LEDGER_CLEAR (13 R348, R350, R351). -/

namespace Sys2Proof.Machine

/-! ### A service's use is divided: accounts and jobs change, nothing else (R350) -/

theorem JobsOnly.foldl {α : Type} {f : State → α → State} (hf : ∀ s a, JobsOnly s (f s a)) (l : List α) (s : State) :
    JobsOnly s (l.foldl f s) := by
  induction l generalizing s with
  | nil => exact .refl s
  | cons a l ih => exact (hf s a).trans (ih (f s a))

theorem divideUse_jobsOnly (s : State) (h i : Nat) (b : Batch) : JobsOnly s (divideUse s h i b) := by
  unfold divideUse
  split
  · split
    · exact .refl s
    · refine (LedgerOnly.foldl (fun s k => ?_) _ s).jobsOnly.trans (updRun_jobsOnly ..)
      dsimp only
      split
      · exact chargeClient_ledgerOnly ..
      · exact charge_ledgerOnly ..
  · exact .refl s

theorem divideHeld_jobsOnly (s : State) (h : Nat) : JobsOnly s (divideHeld s h) := by
  unfold divideHeld
  split
  · exact .refl s
  · split
    · exact .refl s
    · split
      · exact .refl s
      · exact divideUse_jobsOnly ..

theorem divideServices_jobsOnly (s : State) (p : Nat) : JobsOnly s (divideServices s p) := by
  unfold divideServices
  exact .foldl (fun _ _ => divideHeld_jobsOnly ..) _ s

theorem divideServices_of_noServices {s : State} (h : s.services = []) (p : Nat) : divideServices s p = s := by
  rw [divideServices, h]
  rfl

/-! ### LEDGER_READ (R348, R351) -/

/-- Entries that have been read with CLEAR: those of ended clients leave, the others count from 0. -/
def readCleared (out l : List Ledger) : List Ledger :=
  (l.filter fun e => !(e ∈ out && e.ended)).map fun e => if e ∈ out then e.cleared else e

/-- The entries stand in the partition's memory; with CLEAR they have been set to 0 or dropped. -/
def ledgerSent (u : State) (c : Ctx) (out : List Ledger) : State :=
  let w := hbmWrite u (c.f 0x10 1) (c.f 0x18 8) (out.flatMap (ledgerBytes u))
  if c.f 0x11 1 = 1 then updWork w fun x => { x with ledger := readCleared out x.ledger } else w

theorem ledgerSent_of_keep {c : Ctx} (h : c.f 0x11 1 ≠ 1) (u : State) (out : List Ledger) :
    ledgerSent u c out = hbmWrite u (c.f 0x10 1) (c.f 0x18 8) (out.flatMap (ledgerBytes u)) := if_neg h

theorem ledgerSent_of_clear {c : Ctx} (h : c.f 0x11 1 = 1) (u : State) (out : List Ledger) :
    ledgerSent u c out = updWork (hbmWrite u (c.f 0x10 1) (c.f 0x18 8) (out.flatMap (ledgerBytes u)))
      fun x => { x with ledger := readCleared out x.ledger } := if_pos h

@[simp] theorem ledger_hbmWrite (s : State) (p a : Nat) (bs : List Byte) : (hbmWrite s p a bs).work.ledger = s.work.ledger := by
  unfold hbmWrite; split <;> rfl

theorem hbm_ledgerSent (u : State) (c : Ctx) (out : List Ledger) :
    (ledgerSent u c out).work.hbm = (hbmWrite u (c.f 0x10 1) (c.f 0x18 8) (out.flatMap (ledgerBytes u))).work.hbm := by
  unfold ledgerSent
  dsimp only
  split <;> rfl

theorem host_ledgerSent (u : State) (c : Ctx) (out : List Ledger) : (ledgerSent u c out).host = u.host := by
  unfold ledgerSent
  dsimp only
  split <;> exact hbmWrite_host ..

section
variable {s t : State} {m : Msg} {c : Ctx} {q : Part}

theorem carryLedgerRead_of_mapped {u : State} (hu : divideServices t (c.f 0x10 1) = u) (hc : Carried s 0x0500 0x100 32 m t c)
    (hp : c.f 0x10 1 ≤ 7) (hclear : c.f 0x11 1 < 2) (hz : c.zero 0x12 0x14 = true) (hq : getPart t (c.f 0x10 1) = some q)
    (hhost : hostOf t c.m.src (c.f 0x10 1) = true) (hlow : 1 ≤ c.f 0x14 4) (hhigh : c.f 0x14 4 ≤ 8193) (hal : c.f 0x18 8 % 64 = 0)
    (hin : q.holds (c.f 0x18 8) (128 * ((ledgerOf u (c.f 0x10 1)).take (c.f 0x14 4)).length) = true) :
    carryLedgerRead c t = (ledgerSent u c ((ledgerOf u (c.f 0x10 1)).take (c.f 0x14 4)),
      some ⟨eOk, ((ledgerOf u (c.f 0x10 1)).take (c.f 0x14 4)).length, (ledgerOf u (c.f 0x10 1)).length, 0, 0⟩) := by
  have hfields : (decide (c.f 0x11 1 < 2) && c.zero 0x12 0x14 && decide (1 ≤ c.f 0x14 4 ∧ c.f 0x14 4 ≤ 8193) &&
      aligned (c.f 0x18 8) 64) = true := by simp [hclear, hz, hlow, hhigh, aligned, hal]
  have hreach : (hostOf t c.m.src (c.f 0x10 1) &&
      q.holds (c.f 0x18 8) (128 * ((ledgerOf u (c.f 0x10 1)).take (c.f 0x14 4)).length)) = true := by rw [hhost, hin]; rfl
  simp only [carryLedgerRead, hu, hq, partChecks_of_getPart hc hp hq hfields hreach]
  rfl

/-! ### LEDGER_CLEAR (R351) -/

/-- The accounts of a partition that has been cleared: its ended clients have left, the others count from 0. -/
def partCleared (p : Nat) (l : List Ledger) : List Ledger :=
  (l.filter fun e => !(e.part = p && e.ended)).map fun e => if e.part = p then e.cleared else e

theorem carryLedgerClear_of_host (hc : Carried s 0x0501 0x100 24 m t c) (hp : c.f 0x10 1 ≤ 7) (hz : c.zero 0x11 0x18 = true)
    (hq : getPart t (c.f 0x10 1) = some q) (hhost : hostOf t c.m.src (c.f 0x10 1) = true) :
    carryLedgerClear c t = (updWork (divideServices t (c.f 0x10 1)) fun w => { w with ledger := partCleared (c.f 0x10 1) w.ledger },
      some (Done.of eOk)) := by
  simp only [carryLedgerClear, partChecks_of_getPart hc hp hq hz hhost]
  rfl

end

/-- What stands in a cleared account of the partition is an account of a client that has not ended, with every counter 0. -/
theorem cleared_of_mem_partCleared {p : Nat} {l : List Ledger} {e : Ledger} (he : e ∈ partCleared p l) (hp : e.part = p) :
    e.ended = false ∧ e = e.cleared := by
  obtain ⟨x, hx, rfl⟩ := List.mem_map.mp he
  have hkept := (List.mem_filter.mp hx).2
  by_cases hxp : x.part = p
  · rw [if_pos hxp]
    have hlive : x.ended = false := by simpa [hxp] using hkept
    exact ⟨hlive, rfl⟩
  · rw [if_neg hxp] at hp
    exact absurd hp hxp

/-- The accounts of other partitions stand. -/
theorem mem_partCleared_other {p : Nat} {l : List Ledger} {e : Ledger} (hp : e.part ≠ p) : e ∈ partCleared p l ↔ e ∈ l := by
  constructor
  · intro he
    obtain ⟨x, hx, rfl⟩ := List.mem_map.mp he
    by_cases hxp : x.part = p
    · rw [if_pos hxp] at hp
      exact absurd hxp hp
    · rw [if_neg hxp]
      exact List.mem_of_mem_filter hx
  · exact fun he => List.mem_map.mpr ⟨e, List.mem_filter.mpr ⟨he, by simp [hp]⟩, if_neg hp⟩

/-! ### Settled -/

/-- Settles O29: a read writes the entries in its partition's memory and, with CLEAR, changes those it wrote; a clear keeps the accounts of
other partitions; dividing a service's use changes jobs and accounts alone. -/
theorem ledgersAreReadAndCleared : Obligations.LedgersAreReadAndCleared := by
  unfold Obligations.LedgersAreReadAndCleared
  intro s m t c q
  have hdivided := divideServices_jobsOnly t (c.f 0x10 1)
  refine ⟨fun hc hp hclear hz hq hhost hlow hhigh hal hin => ?read, fun hc hp hz hq hhost => ?clear,
    fun h => divideServices_of_noServices h _⟩
  case read =>
    obtain rfl := hc.msg
    refine ⟨_, runCommand_of_done hc (by decide) (by decide)
        (carryLedgerRead_of_mapped rfl hc hp hclear hz hq hhost hlow hhigh hal hin),
      hbm_ledgerSent .., (host_ledgerSent ..).trans hdivided.host_eq, fun h => ?keep, fun h => ?cleared⟩
    case keep => rw [ledgerSent_of_keep (by omega), ledger_hbmWrite]
    case cleared =>
      rw [ledgerSent_of_clear h, updWork_work, ledger_hbmWrite]
      rfl
  case clear =>
    obtain rfl := hc.msg
    exact ⟨_, runCommand_of_done hc (by decide) (by decide) (carryLedgerClear_of_host hc hp hz hq hhost),
      fun _ he hp => cleared_of_mem_partCleared he hp, fun _ hp => mem_partCleared_other hp, hdivided.host_eq⟩

end Sys2Proof.Machine
end

section
/-! An addition to a tally, and the post of a step (14 R355, R357, R368; 02 R58). -/

namespace Sys2Proof.Machine

/-! ### An addition at the bank (R355-R357) -/

/-- The cores that see an addition at once: the core that posts, unless a barrier withholds it (R360). -/
def Tally.seenAtOnce (x : Tally) : Option Nat → BitVec 72
  | some c => if x.barrier.isSome then 0 else BitVec.ofNat 72 (2 ^ c)
  | none => 0

/-- A tally after an addition that keeps it below 2^64. -/
def Tally.added (x : Tally) (s : State) (amount source time : Nat) (seen : BitVec 72) : Tally :=
  { x with
    value := x.value + BitVec.ofNat 64 amount
    posts := satInc x.posts 1
    lastS := BitVec.ofNat 32 (timeS s)
    lastNs := BitVec.ofNat 32 (timeSubNs s)
    lastSource := BitVec.ofNat 16 source
    lastAdd := BitVec.ofNat 32 amount
    recent := x.recent ++ [{ amount := amount, time := time, seen := seen }] }

theorem Tally.toNat_value_added {x : Tally} {amount : Nat} (h : x.value.toNat + amount < 2 ^ 64) (s : State) (source time : Nat)
    (seen : BitVec 72) : (x.added s amount source time seen).value.toNat = x.value.toNat + amount := by
  rw [Tally.added, BitVec.toNat_add, BitVec.toNat_ofNat, Nat.add_mod_mod, Nat.mod_eq_of_lt h]

theorem tallyAdd_of_lt {s : State} {t amount : Nat} (h : (getTally s t).value.toNat + amount < 2 ^ 64) (source time : Nat)
    (core : Option Nat) : tallyAdd s t amount source time core =
      (updTally s t fun x => x.added s amount source time ((getTally s t).seenAtOnce core), true) := by
  simp only [tallyAdd, if_neg (Nat.not_le.mpr h)]
  cases core <;> rfl

theorem relneSend_sends (s : State) (ports : List Nat) (what : String) (data : List Nat) : Sends s (relneSend s ports what data) :=
  .foldl (fun _ _ => emit_sends ..) _ s

/-- An addition to a job's tally is made at the bank, and at most sent to the group (R378). -/
theorem jobTallyAdd_of_lt {s : State} {h i amount : Nat} {j : Job} (hj : getJob s h = some j)
    (hlt : (getTally s (tallyOf s j.part i)).value.toNat + amount < 2 ^ 64) (source : Nat) (core : Option Nat) :
    ∃ t, jobTallyAdd s h i amount source core = (t, true) ∧
      Sends (tallyAdd s (tallyOf s j.part i) amount source (nowNs s) core).1 t := by
  simp only [jobTallyAdd, hj, tallyAdd_of_lt hlt]
  split
  · exact ⟨_, rfl, relneSend_sends ..⟩
  · exact ⟨_, rfl, .refl _⟩

/-! ### The post of a step (02 R58) -/

theorem post_of_lt {s : State} {c : Nat} {u : Cur} {w : BitVec 128} {b : Binding} {j : Job} (hp : stPostEn w = true)
    (hb : u.inst.bind (stPostBind w) = some b) (hj : getJob s u.h = some j)
    (hlt : (getTally s (tallyOf s j.part b.tally)).value.toNat + stPostAdd w < 2 ^ 64) :
    Sends (tallyAdd s (tallyOf s j.part b.tally) (stPostAdd w) (sourceCode 1 c) (nowNs s) (some c)).1 (post s c u w) := by
  obtain ⟨t, ht, hsends⟩ := jobTallyAdd_of_lt hj hlt (sourceCode 1 c) (some c)
  simpa [post, hp, hb, ht] using hsends

/-- Where the tally is no stream's produced count, nothing follows a post. -/
theorem postHooks_of_kind {u : Cur} {w : BitVec 128} {b : Binding} (hb : u.inst.bind (stPostBind w) = some b) (hk : b.kind ≠ 0)
    (s : State) (c step : Nat) : postHooks s c u w step = s := by
  unfold postHooks
  by_cases hp : stPostEn w = true
  · simp only [hp, if_true, hb, if_pos hk]
  · simp only [hp, if_false, Bool.false_eq_true]

theorem Job.updInst_samePlace (j : Job) (c : Nat) {f : Inst → Inst} (hf : ∀ i, (f i).core = i.core) : j.SamePlace (j.updInst c f) := by
  refine ⟨rfl, rfl, rfl, ?_⟩
  rw [Job.updInst, List.map_map]
  refine List.map_congr_left fun i _ => ?_
  rw [Function.comp_apply]
  split
  · exact hf i
  · rfl

/-- Going on to the next step moves no job. -/
theorem advance_samePlace (s : State) (c : Nat) (u : Cur) : Evolves Job.SamePlace s (advance s c u) := by
  have hbegun : Evolves Job.SamePlace s (begun s c u) := by
    obtain h | ⟨l, h⟩ := begun_cases s c u
    · rw [h]; exact (Still.refl s).samePlace
    · exact ((updRun_sameButRun ..).mono fun _ _ => Job.SameButRun.samePlace).trans samePlace_preorder h.still.samePlace
  have hbegins : Evolves Job.SamePlace s (stepBegins s c u) := by
    unfold stepBegins; split
    · exact hbegun
    · exact (Still.refl s).samePlace
  rw [advance_eq]
  exact hbegins.trans samePlace_preorder (updJob_evolves samePlace_preorder fun j => j.updInst_samePlace c fun _ => rfl)

section
variable {s t : State} (hst : JobsOnly s t)
include hst

theorem JobsOnly.getTally_eq (n : Nat) : getTally t n = getTally s n := by obtain ⟨_, _, rfl⟩ := hst; rfl
theorem JobsOnly.tallyOf_eq (p i : Nat) : tallyOf t p i = tallyOf s p i := by obtain ⟨_, _, rfl⟩ := hst; rfl
theorem JobsOnly.timeS_eq : timeS t = timeS s := by obtain ⟨_, _, rfl⟩ := hst; rfl

end

theorem Sends.getTally_eq {s t : State} (hst : Sends s t) (n : Nat) : getTally t n = getTally s n := by unfold getTally; rw [hst.work]

theorem stPostAdd_lt (w : BitVec 128) : stPostAdd w < 2 ^ 16 := Nat.mod_lt _ (by decide)

/-- The post of a step that completes at issue adds to the tally of its binding, and the job table and the ledger are all that
changes beside. -/
theorem issueNow_of_post {s : State} {c op : Nat} {u : Cur} {w : BitVec 128} {b : Binding} (hi : issuing s c op = some (u, w))
    (hp : stPostEn w = true) (hb : u.inst.bind (stPostBind w) = some b) (hk : b.kind ≠ 0)
    (hlt : (getTally s (tallyOf s u.job.part b.tally)).value.toNat + stPostAdd w < 2 ^ 64) :
    Sends (tallyAdd (advance s c u) (tallyOf s u.job.part b.tally) (stPostAdd w) (sourceCode 1 c) (nowNs s) (some c)).1
      (issueNow s c op) := by
  have hs := stands_of_issuing hi
  have hadv := advance_jobsOnly s c u
  obtain ⟨j, hj, hplace⟩ := (advance_samePlace s c u).some _ _ hs.job
  have hbank : tallyOf (advance s c u) j.part b.tally = tallyOf s u.job.part b.tally := by rw [hplace.part, hadv.tallyOf_eq]
  have hlt' : (getTally (advance s c u) (tallyOf s u.job.part b.tally)).value.toNat + stPostAdd w < 2 ^ 64 := by
    rwa [hadv.getTally_eq]
  have hpost := post_of_lt (c := c) hp hb hj (hbank ▸ hlt')
  rw [hbank, hadv.nowNs_eq] at hpost
  obtain ⟨l, hr⟩ := runAt_advance hs.runAt_eq c
  have hrun : runAt (post (advance s c u) c u w) u.h = some { u.run with unbegun := l } := by
    rw [runAt, hpost.getJob_eq, tallyAdd_of_lt hlt', (updTally_still ..).getJob_eq]
    exact hr
  simpa only [issueNow, hi, postStep, postHooks_of_kind hb hk, settleAborts_of_going hrun hs.going] using hpost

/-! ### Settled -/

/-- Settles O4: a POST step is `issueNow` with a post, which is one addition at the bank by its core. -/
theorem postAddsToItsTally : Obligations.PostAddsToItsTally := by
  unfold Obligations.PostAddsToItsTally
  intro s c u w b hi hp hb hk hlt
  have hadv := advance_jobsOnly s c u
  have hlt' : (getTally (advance s c u) (tallyOf s u.job.part b.tally)).value.toNat + stPostAdd w < 2 ^ 64 := by
    rwa [hadv.getTally_eq]
  have hpost := issueNow_of_post hi hp hb hk hlt
  rw [tallyAdd_of_lt hlt'] at hpost
  refine ⟨issueNow s c 8, rfl, ?_⟩
  dsimp only
  simp only [hpost.getTally_eq, getTally_updTally_self, hadv.getTally_eq]
  refine ⟨Tally.toNat_value_added hlt .., rfl, ?_, rfl, ?_, fun n hn => ?_⟩
  · exact Nat.mod_eq_of_lt ((stPostAdd_lt w).trans (by decide))
  · rw [Tally.added, hadv.timeS_eq]
  · rw [getTally_updTally_other _ _ hn, hadv.getTally_eq]

end Sys2Proof.Machine
end

section
/-! TALLY_ADD, TALLY_READ, TALLY_WAIT and TALLY_QUERY (14 R364, R365, R368). -/

namespace Sys2Proof.Machine

/-- A command names a tally of a partition that its source may act on. -/
structure NamesTally (t : State) (c : Ctx) (q : Part) : Prop where
  part : NamesPart t c q
  index : c.f 0x14 4 < q.tallyCount

/-- The bank's index of the tally that a command names. -/
def Ctx.bankTally (c : Ctx) (t : State) : Nat := tallyOf t (c.f 0x10 1) (c.f 0x14 4)

section
variable {s t : State} {op since len : Nat} {m : Msg} {c : Ctx} {q : Part}

/-- The shared checks pass up to the command's own, of which the last is whether the tally can be read. -/
theorem tallyChecks_of_names (hc : Carried s op since len m t c) (hn : NamesTally t c q) {fields : Bool} (hf : fields = true)
    {dest : Option Nat} (hd : dest.all (q.holds · 64) = true) (rest : Part → List (Bool × Nat)) :
    c.tallyChecks t fields dest rest = firstFail (rest q ++ [(!(getTally t (c.bankTally t)).bad, eFault)]) := by
  obtain ⟨⟨hpart, hzero, hq, hhost⟩, hindex⟩ := hn
  simp only [Ctx.tallyChecks, hq, checks_of_carried hc, hf, hpart, hzero, hhost, hindex, decide_true, Bool.true_and]
  cases dest with
  | none => rfl
  | some d =>
    have hd : q.holds d 64 = true := hd
    simp only [hd]
    rfl

/-- Without a check of its own a command on a tally that can be read is carried out. -/
theorem tallyChecks_of_good (hc : Carried s op since len m t c) (hn : NamesTally t c q) (hb : (getTally t (c.bankTally t)).bad = false)
    {fields : Bool} (hf : fields = true) {dest : Option Nat} (hd : dest.all (q.holds · 64) = true) {own : List (Bool × Nat)}
    (hown : ∀ x ∈ own, x.1 = true) : c.tallyChecks t fields dest (fun _ => own) = none := by
  rw [tallyChecks_of_names hc hn hf hd]
  induction own with
  | nil => simp [firstFail, hb]
  | cons x own ih =>
    obtain ⟨hx, hrest⟩ := List.forall_mem_cons.mp hown
    obtain ⟨ok, st⟩ := x
    obtain rfl : ok = true := hx
    exact ih hrest

theorem carryTallyAdd_of_names (hc : Carried s op since len m t c) (hn : NamesTally t c q) (hb : (getTally t (c.bankTally t)).bad = false)
    (hlow : 1 ≤ c.f 0x18 8) (hhigh : c.f 0x18 8 < 2 ^ 32) (hstream : boundStream t (c.f 0x10 1) (c.f 0x14 4) = false)
    (hgroup : boundGroup t (c.f 0x10 1) (c.f 0x14 4) = false)
    (hlt : (getTally t (c.bankTally t)).value.toNat + c.f 0x18 8 < 2 ^ 64) :
    carryTallyAdd c t =
      (updTally t (c.bankTally t) fun x => x.added t (c.f 0x18 8) (hostSource c.m.src) (nowNs t) ((getTally t (c.bankTally t)).seenAtOnce none),
        some ⟨eOk, ((getTally t (c.bankTally t)).value.toNat + c.f 0x18 8) % 2 ^ 32,
          ((getTally t (c.bankTally t)).value.toNat + c.f 0x18 8) / 2 ^ 32, 0, 0⟩) := by
  unfold carryTallyAdd
  dsimp only
  rw [tallyChecks_of_good hc hn hb (decide_eq_true ⟨hlow, hhigh⟩) rfl (by simp [hstream, hgroup]), whenOk_none]
  rw [← Ctx.bankTally, tallyAdd_of_lt hlt]
  simp only [if_true, getTally_updTally_self, Tally.toNat_value_added hlt]

theorem carryTallyRead_of_names (hc : Carried s op since len m t c) (hn : NamesTally t c q) (hb : (getTally t (c.bankTally t)).bad = false) :
    carryTallyRead c t = (t, some (tallyDone t (c.f 0x10 1) (c.f 0x14 4))) := by
  rw [carryTallyRead, tallyChecks_of_good hc hn hb rfl rfl (List.forall_mem_nil _), whenOk_none]

/-- A tally whose copies are both uncorrectable answers E_FAULT (19 R498). -/
theorem carryTallyRead_of_bad (hc : Carried s op since len m t c) (hn : NamesTally t c q) (hb : (getTally t (c.bankTally t)).bad = true) :
    carryTallyRead c t = (t, some (Done.of eFault)) := by
  rw [carryTallyRead, tallyChecks_of_names hc hn rfl rfl, hb]
  rfl

/-- A wait whose threshold is met needs no monitor. -/
theorem carryTallyWait_of_met (hc : Carried s op since len m t c) (hn : NamesTally t c q) (hb : (getTally t (c.bankTally t)).bad = false)
    (htmo : c.f 0x20 4 ≤ 60000000) (hz : c.zero 0x24 0x28 = true) (hmet : c.f 0x18 8 ≤ (getTally t (c.bankTally t)).value.toNat) :
    carryTallyWait c t = (t, some (tallyDone t (c.f 0x10 1) (c.f 0x14 4))) := by
  have hmet : decide (c.f 0x18 8 ≤ (getTally t (tallyOf t (c.f 0x10 1) (c.f 0x14 4))).value.toNat) = true := decide_eq_true hmet
  simp only [carryTallyWait, hmet]
  rw [tallyChecks_of_good hc hn hb (by simp [htmo, hz]) rfl (by simp), whenOk_none, if_pos trivial]

/-- A wait whose threshold is not met arms a monitor, while there is one to arm. -/
theorem carryTallyWait_of_unmet (hc : Carried s op since len m t c) (hn : NamesTally t c q) (hb : (getTally t (c.bankTally t)).bad = false)
    (htmo : c.f 0x20 4 ≤ 60000000) (hz : c.zero 0x24 0x28 = true) (hunmet : (getTally t (c.bankTally t)).value.toNat < c.f 0x18 8)
    (hsrc : (t.work.monitors.filter fun x => x.src = c.m.src).length < 64) (hall : t.work.monitors.length < 1024) :
    carryTallyWait c t = (updWork t fun w => { w with monitors := w.monitors ++
      [{ ticket := c.tid, part := c.f 0x10 1, index := c.f 0x14 4, threshold := c.f 0x18 8, timeout := c.f 0x20 4, armed := nowNs t,
         src := c.m.src }] }, none) := by
  have hunmet : decide (c.f 0x18 8 ≤ (getTally t (tallyOf t (c.f 0x10 1) (c.f 0x14 4))).value.toNat) = false :=
    decide_eq_false (Nat.not_le.mpr hunmet)
  simp only [carryTallyWait, hunmet]
  rw [tallyChecks_of_good hc hn hb (by simp [htmo, hz]) rfl (by simp [hsrc, hall]), whenOk_none, if_neg Bool.false_ne_true]

theorem carryTallyQuery_of_names (hc : Carried s op since len m t c) (hn : NamesTally t c q) (hb : (getTally t (c.bankTally t)).bad = false)
    (hal : c.f 0x18 8 % 64 = 0) (hin : q.holds (c.f 0x18 8) 64 = true) :
    carryTallyQuery c t = (hbmWrite t (c.f 0x10 1) (c.f 0x18 8) (tallyRecordOf t (c.f 0x10 1) (c.f 0x14 4)), some (Done.of eOk)) := by
  rw [carryTallyQuery, tallyChecks_of_good hc hn hb (by simpa [aligned] using hal) (dest := some (c.f 0x18 8)) hin
    (List.forall_mem_nil _), whenOk_none]

end

/-! ### Settled -/

/-- Settles O25: each command's checks pass, or fail at the tally's copies, and what it carries out is said once for each. -/
theorem tallyCommands : Obligations.TallyCommands := by
  unfold Obligations.TallyCommands
  intro s m t c q
  refine ⟨fun hc ⟨hp, hi, hb⟩ hlow hhigh hstream hgroup hlt => ?add, fun hc ⟨hp, hi, hb⟩ => ?read,
    fun hc ⟨hp, hi, hb⟩ htmo hz hmet => ?waitMet, fun hc ⟨hp, hi, hb⟩ htmo hz hunmet hsrc hall => ?waitUnmet,
    fun hc ⟨hp, hi, hb⟩ hal hin => ?query, fun hc hp hi hb => ?bad⟩
  case add =>
    refine ⟨_, ?_, fun n hn => getTally_updTally_other _ _ hn,
      runCommand_of_done hc (by decide) (by decide) (carryTallyAdd_of_names hc ⟨hp, hi⟩ hb hlow hhigh hstream hgroup hlt)⟩
    rw [Ctx.bankTally, getTally_updTally_self]
    exact Tally.toNat_value_added hlt ..
  case read => exact runCommand_of_done hc (by decide) (by decide) (carryTallyRead_of_names hc ⟨hp, hi⟩ hb)
  case waitMet => exact runCommand_of_done hc (by decide) (by decide) (carryTallyWait_of_met hc ⟨hp, hi⟩ hb htmo hz hmet)
  case waitUnmet => exact runCommand_of_waits hc (by decide) (by decide) (carryTallyWait_of_unmet hc ⟨hp, hi⟩ hb htmo hz hunmet hsrc hall)
  case query => exact runCommand_of_done hc (by decide) (by decide) (carryTallyQuery_of_names hc ⟨hp, hi⟩ hb hal hin)
  case bad => exact runCommand_of_done hc (by decide) (by decide) (carryTallyRead_of_bad hc ⟨hp, hi⟩ hb)

end Sys2Proof.Machine
end

section
/-! Sending, and the end of an invocation with all that follows from it, only append to what has left the device, and leave the Relne link
as it is (02 R62, R63; 12 R309, R328; 15 R399, R407; 16 R421, R442). -/

namespace Sys2Proof.Machine

/-- From s to t outputs have at most been appended, and the link is as it was. -/
structure Emits (s t : State) : Prop where
  relne : t.net.relne = s.net.relne
  sent : s.sent <+: t.sent

theorem Emits.refl (s : State) : Emits s s := ⟨rfl, List.prefix_rfl⟩

theorem Emits.trans {s t u : State} (h : Emits s t) (k : Emits t u) : Emits s u := ⟨k.relne.trans h.relne, h.sent.trans k.sent⟩

theorem Emits.foldl {α : Type} {f : State → α → State} (hf : ∀ s a, Emits s (f s a)) (l : List α) (s : State) : Emits s (l.foldl f s) := by
  induction l generalizing s with
  | nil => exact .refl s
  | cons a l ih => exact (hf s a).trans (ih (f s a))

theorem Emits.ite {s a b : State} {p : Prop} [Decidable p] (ha : Emits s a) (hb : Emits s b) : Emits s (if p then a else b) := by
  split <;> assumption

theorem Emits.of_eq {s t : State} (hn : t.net = s.net) (ho : t.sent = s.sent) : Emits s t :=
  ⟨congrArg Net.relne hn, ho ▸ List.prefix_rfl⟩

theorem JobsOnly.emits {s t : State} (h : JobsOnly s t) : Emits s t := by obtain ⟨_, _, rfl⟩ := h; exact .of_eq rfl rfl

theorem LedgerOnly.emits {s t : State} (h : LedgerOnly s t) : Emits s t := h.jobsOnly.emits

/-! ### Updates -/

theorem emit_emits (s : State) (o : Output) : Emits s (emit s o) := ⟨rfl, List.prefix_append ..⟩
theorem updFn_emits (s : State) (f : Nat) (g : Fn → Fn) : Emits s (updFn s f g) := .of_eq rfl rfl
theorem updTill_emits (s : State) (n : Nat) (g : Till → Till) : Emits s (updTill s n g) := .of_eq rfl rfl
theorem updMac_emits (s : State) (m : Nat) (f : Mac → Mac) : Emits s (updMac s m f) := ⟨rfl, List.prefix_rfl⟩
theorem updCore_emits (s : State) (c : Nat) (f : CoreCtl → CoreCtl) : Emits s (updCore s c f) := .of_eq rfl rfl
theorem updEng_emits (s : State) (c : Nat) (f : Engines → Engines) : Emits s (updEng s c f) := .of_eq rfl rfl
theorem updWork_emits (s : State) (f : Work → Work) : Emits s (updWork s f) := .of_eq rfl rfl
theorem updJob_emits (s : State) (h : Nat) (f : Job → Job) : Emits s (updJob s h f) := (updJob_jobsOnly ..).emits
theorem hbmWrite_emits (s : State) (p a : Nat) (bs : List Byte) : Emits s (hbmWrite s p a bs) := .of_eq (hbmWrite_net ..) (hbmWrite_sent ..)

/-! ### Interrupts, tills and completions -/

theorem sendVector_emits (s : State) (f v : Nat) : Emits s (sendVector s f v) := by
  unfold sendVector
  exact .ite (.refl s) (.ite (updFn_emits ..) (.ite (updFn_emits ..) (.ite (emit_emits ..) ((emit_emits ..).trans (updFn_emits ..)))))

theorem setIrq_emits (s : State) (f : Nat) (cause mask : BitVec 4) : Emits s (setIrq s f cause mask) := by
  unfold setIrq
  exact .ite ((updFn_emits ..).trans (sendVector_emits ..)) (updFn_emits ..)

theorem armVector_emits (s : State) (n : Nat) : Emits s (armVector s n) := by
  unfold armVector
  exact .ite ((updTill_emits ..).trans (sendVector_emits ..)) (.refl s)

theorem writeSlots_emits (s : State) (n k : Nat) (bytes : List Byte) : Emits s (writeSlots s n k bytes) := by
  induction k generalizing s bytes with
  | zero => exact .refl s
  | succ k ih =>
    have hslot : Emits s (writeSlot s n (bytes.take 64)) := by
      unfold writeSlot
      exact .ite (.of_eq rfl rfl) (.of_eq rfl rfl)
    exact hslot.trans (ih ..)

theorem writeEntry_emits (s : State) (n : Nat) (bytes : List Byte) (reserved : Bool) : Emits s (writeEntry s n bytes reserved) := by
  unfold writeEntry
  exact .ite ((updTill_emits ..).trans ((setIrq_emits ..).trans (updTill_emits ..)))
    (.ite (updTill_emits ..) ((writeSlots_emits ..).trans (armVector_emits ..)))

theorem writeMessage_emits (s : State) (n opcode tag : Nat) (body : List Byte) (reserved : Bool) :
    Emits s (writeMessage s n opcode tag body reserved) := by
  have hentry : ∀ bytes, Emits s (writeEntry (updTill s n fun t => { t with seq := t.seq + 1 }) n bytes reserved) := fun bytes =>
    (updTill_emits ..).trans (writeEntry_emits ..)
  unfold writeMessage
  exact .ite ((hentry _).trans (updTill_emits ..)) (hentry _)

theorem partEvent_emits (s : State) (p opcode len : Nat) (body : List Byte) : Emits s (partEvent s p opcode len body) :=
  writeMessage_emits ..

theorem writeCompletion_emits (s : State) (n : Nat) (bytes : List Byte) : Emits s (writeCompletion s n bytes) := by
  unfold writeCompletion
  exact .ite ((updTill_emits ..).trans (writeEntry_emits ..)) ((updTill_emits ..).trans (writeMessage_emits ..))

theorem complete_emits (s : State) (id : Nat) (d : Done) : Emits s (complete s id d) := by
  have hdrop : Emits s (dropTicket s id) := .of_eq rfl rfl
  unfold complete
  split
  · exact .refl s
  · refine hdrop.trans ?_
    dsimp only
    split
    · exact .of_eq rfl rfl
    · exact writeCompletion_emits ..
    · split
      · exact (updTill_emits ..).trans ((updMac_emits ..).trans (emit_emits ..))
      · exact .refl _

theorem completeWith_emits (s : State) (id status : Nat) : Emits s (completeWith s id status) := complete_emits ..

/-! ### What an invocation that ends still owes (02 R62, R70; 04 R114; 13 R350) -/

theorem combineDigest_emits (s : State) (h point epoch : Nat) : Emits s (combineDigest s h point epoch) := by
  unfold combineDigest
  split
  · exact .refl s
  · split
    · exact .refl s
    · split
      · exact .refl s
      · exact Emits.trans (.ite (.refl s) (hbmWrite_emits ..)) (updJob_emits ..)

theorem testClip_emits (h epoch station : Nat) (s : State) (entry : Nat) : Emits s (testClip h epoch station s entry) := by
  unfold testClip
  split
  · exact .refl s
  · split
    · exact .refl s
    · split
      · exact .refl s
      · exact .ite ((updJob_emits ..).trans (partEvent_emits ..)) (updJob_emits ..)

theorem combineAll_emits (s : State) (h : Nat) : Emits s (combineAll s h) := by
  unfold combineAll
  split
  · exact .refl s
  · exact .foldl (fun _ _ => combineDigest_emits ..) _ s

theorem testClips_emits (s : State) (h : Nat) : Emits s (testClips s h) := by
  unfold testClips
  split
  · exact .refl s
  · split
    · exact .refl s
    · exact .foldl (fun s _ => .foldl (fun _ _ => testClip_emits ..) _ s) _ s

theorem settleRun_emits (s : State) (h : Nat) : Emits s (settleRun s h) :=
  (combineAll_emits s h).trans ((testClips_emits ..).trans (divideHeld_jobsOnly ..).emits)

/-! ### Cores that change hands (01 R33, 12 R309) -/

theorem installTables_emits (s : State) (h : Nat) (i : Inst) : Emits s (installTables s h i) := (updEng_emits ..).trans (updCore_emits ..)

theorem startRinse_emits (s : State) (parts : List (Nat × List Nat)) (use : RinseFor) : Emits s (startRinse s parts use) := by
  have hcores : Emits s (rinseCores s parts) := .foldl (fun _ _ => updCore_emits ..) parts s
  rw [startRinse_eq]
  exact hcores.trans (updWork_emits ..)

theorem handBack_emits (s : State) (c : Nat) : Emits s (handBack s c) := by
  have hcore := updCore_emits s c fun k => { k with yield := false, lentTo := none, run := k.claim }
  unfold handBack
  dsimp only
  split
  · exact hcore.trans ((updEng_emits ..).trans (updCore_emits ..))
  · split
    · exact hcore
    · split
      · exact hcore
      · exact hcore.trans (installTables_emits ..)

theorem releaseCore_emits (s : State) (c : Nat) : Emits s (releaseCore s c) := by
  unfold releaseCore
  exact .ite (.refl s) (.ite (handBack_emits ..) (startRinse_emits ..))

theorem dropDebug_emits (s : State) (c : Nat) : Emits s (dropDebug s c) := by
  unfold dropDebug
  exact .ite (.refl s) ((updEng_emits ..).trans (.foldl (fun _ _ => completeWith_emits ..) _ _))

/-! ### The end of an invocation (02 R62) -/

theorem reportRun_emits (s : State) (h status : Nat) (words : Option (Nat × Nat × Nat)) (j : Job) (r : Invocation) :
    Emits s (reportRun s h status words j r) := by
  have hrecord : Emits s (writeJobRecord s j r status) := by
    unfold writeJobRecord
    exact .ite (.refl s) ((hbmWrite_emits ..).trans (hbmWrite_emits ..))
  have hcharged (d : Ledger) := hrecord.trans (chargeJob_ledgerOnly _ h d).emits
  unfold reportRun
  dsimp only
  refine Emits.trans ?_ (.foldl (fun _ _ => complete_emits ..) _ _)
  refine Emits.trans ?_ (.foldl (fun _ _ => completeWith_emits ..) _ _)
  split
  · exact (hcharged _).trans (complete_emits ..)
  · exact hcharged _

theorem leaveCores_emits (s : State) (h : Nat) (j : Job) : Emits s (leaveCores s h j) := by
  unfold leaveCores
  exact .foldl (fun _ _ => updCore_emits ..) _ _

theorem retainSegs_emits (s : State) (j : Job) : Emits s (retainSegs s j) := by
  unfold retainSegs
  exact .foldl (fun _ _ => updCore_emits ..) _ _

theorem releaseCores_emits (s : State) (j : Job) : Emits s (releaseCores s j) := by
  unfold releaseCores
  exact .foldl (fun _ _ => (dropDebug_emits ..).trans (releaseCore_emits ..)) _ _

theorem endInvocation_emits (s : State) (h status : Nat) (words : Option (Nat × Nat × Nat)) : Emits s (endInvocation s h status words) := by
  have hpre := settleRun_emits s h
  cases hrun : (getJob (settleRun s h) h).bind Job.run with
  | none => rw [endInvocation_of_loaded hrun]; exact hpre
  | some r =>
    obtain ⟨j, hj, hr⟩ := Option.bind_eq_some_iff.mp hrun
    rw [endInvocation_of_running hj hr]
    have hleft := hpre.trans ((reportRun_emits (settleRun s h) h status words j r).trans (leaveCores_emits _ h j))
    have hstopped := hleft.trans ((retainSegs_emits _ j).trans (updJob_emits _ h fun j => j.stopped (decide (status = eOk))))
    exact hstopped.trans (releaseCores_emits _ j)

theorem rinseDone_emits (s : State) (use : RinseFor) : Emits s (rinseDone s use) := by
  unfold rinseDone
  split
  · exact endInvocation_emits ..
  · exact .refl s
  · exact completeWith_emits ..
  · exact updCore_emits ..
  · exact handBack_emits ..
  · exact .refl s

theorem settleRinses_emits (s : State) : Emits s (settleRinses s) :=
  (updWork_emits s _).trans (.foldl (fun s (r : Rinse) => rinseDone_emits s r.use) _ _)

/-! ### An abnormal end (12 R309, R328) -/

theorem landWrite_emits (s : State) (p : Nat) (t : Txn) : Emits s (landWrite s p t) := by
  unfold landWrite
  refine .ite ?_ (.ite (.foldl (fun _ _ => updCore_emits ..) _ s) (.refl s))
  split
  · exact (updWork_emits ..).trans (updJob_emits ..)
  · exact .refl s

theorem dropTxns_emits (s : State) (h : Nat) (j : Job) : Emits s (dropTxns s h j) :=
  .foldl (fun _ _ => (Emits.foldl (fun _ _ => landWrite_emits ..) _ _).trans (updCore_emits ..)) j.insts s

theorem abortInvocation_emits (s : State) (h status : Nat) (words : Option (Nat × Nat × Nat)) (lost : List Nat) :
    Emits s (abortInvocation s h status words lost) := by
  unfold abortInvocation
  split
  · exact .refl s
  · split
    · exact .refl s
    · refine .ite (.refl s) ((dropTxns_emits ..).trans (Emits.trans (.foldl (fun s i => ?_) _ _) ((updJob_emits ..).trans (startRinse_emits ..))))
      exact .ite (updEng_emits ..) (.refl s)

theorem abortRun_emits (s : State) (h status : Nat) (words : Option (Nat × Nat × Nat)) (lost : List Nat) :
    Emits s (abortRun s h status words lost) :=
  (abortInvocation_emits ..).trans (settleRinses_emits _)

theorem memberLost_emits (s : State) (chip : Nat) : Emits s (memberLost s chip) :=
  .foldl (fun _ _ => abortRun_emits ..) _ s

end Sys2Proof.Machine
end

section
/-! The Relne link: ports that come up and go down, the form of the group, link time, and tiles that arrive (14 R382; 17 R468-R475). -/

namespace Sys2Proof.Machine

/-! ### Ports (R468, R475) -/

theorem getPort_updPort_self {s : State} {p : Nat} (h : p < s.net.relne.ports.length) (f : RelnePort → RelnePort) :
    getPort (updPort s p f) p = f (getPort s p) := by
  simp only [getPort, nth, updPort_net, modNth_getElem?, if_true, List.getElem?_eq_getElem h, Option.map_some, Option.getD_some]

theorem getPort_updPort_other (s : State) {p q : Nat} (h : q ≠ p) (f : RelnePort → RelnePort) : getPort (updPort s p f) q = getPort s q := by
  simp [getPort, nth, modNth_getElem?, h]

/-- The group is to form again (R469). -/
def unsettle (s : State) : State := updRelne s fun r => { r with unsettled := true }

/-- A port after its link hello: the highest protocol that both ports hold, and whether the far port has another number. -/
def RelnePort.linked (port : Nat) (id : BitVec 64) (protocols : BitVec 8) (far priority : Nat) : RelnePort :=
  { up := true, protocol := if protocols.getLsbD 2 then 2 else 1, miswired := decide (far ≠ port), retries := 0, peerId := id,
    peerPriority := BitVec.ofNat 4 priority }

section
variable {s : State} {port : Nat}

theorem execRelneLinkUp_of_hello (hp : port < 4) (hdown : (getPort s port).up = false) (hen : s.net.relne.portEn.getLsbD port = true)
    {protocols : BitVec 8} (hproto : protocols.getLsbD 1 = true ∨ protocols.getLsbD 2 = true) (id : BitVec 64) (far priority : Nat) :
    execRelneLinkUp port id protocols far priority s =
      .next (unsettle (updPort s port fun _ => .linked port id protocols far priority)) := by
  have hgo (n : Nat) (hn : n ≠ 0) : ¬ (4 ≤ port ∨ (getPort s port).up = true ∨ ¬ s.net.relne.portEn.getLsbD port = true ∨ n = 0) := by
    simp [hp, hdown, hen, hn]
  unfold execRelneLinkUp RelnePort.linked
  by_cases h2 : protocols.getLsbD 2 = true
  · simp only [if_pos h2, if_neg (hgo 2 (by decide))]
    rfl
  · simp only [if_neg h2, if_pos (hproto.resolve_right h2), if_neg (hgo 1 (by decide))]
    rfl

/-- A port that is not there, is up, is not enabled or shares no protocol with the far port stays as it is. -/
theorem execRelneLinkUp_of_kept {protocols : BitVec 8} (hkept : 4 ≤ port ∨ (getPort s port).up = true ∨
      s.net.relne.portEn.getLsbD port = false ∨ (protocols.getLsbD 1 = false ∧ protocols.getLsbD 2 = false))
    (id : BitVec 64) (far priority : Nat) : execRelneLinkUp port id protocols far priority s = .next s := by
  refine congrArg _ (if_pos ?_)
  rcases hkept with h | h | h | ⟨h1, h2⟩
  · exact .inl h
  · exact .inr (.inl h)
  · exact .inr (.inr (.inl (by simp [h])))
  · exact .inr (.inr (.inr (by rw [h1, h2]; rfl)))

theorem execRelneLinkDown_of_down (hdown : (getPort s port).up = false) : execRelneLinkDown port s = .next s := by
  simp [execRelneLinkDown, hdown]

/-- A port that carried no member goes down alone. -/
theorem execRelneLinkDown_of_alone (hup : (getPort s port).up = true)
    (halone : (getPort s port).miswired = true ∨ s.net.relne.members.toNat ≤ 1) :
    execRelneLinkDown port s = .next (unsettle (updPort s port fun _ => RelnePort.down)) := by
  have hcarried : ¬ (¬ (getPort s port).miswired = true ∧ 1 < s.net.relne.members.toNat) := fun ⟨hm, hn⟩ =>
    halone.elim hm (Nat.not_le.mpr hn)
  simp only [execRelneLinkDown, hup, not_true, if_false, if_neg hcarried, unsettle]

/-- With a port that carried a member the group loses that member (14 R382). -/
theorem execRelneLinkDown_of_member (hup : (getPort s port).up = true) (hmis : (getPort s port).miswired = false)
    (hmem : 1 < s.net.relne.members.toNat) : execRelneLinkDown port s =
      .next (memberLost (unsettle (updPort s port fun _ => RelnePort.down)) (s.net.relne.chip.toNat ^^^ 2 ^ port)) := by
  have hcarried : ¬ (getPort s port).miswired = true ∧ 1 < s.net.relne.members.toNat := ⟨by simp [hmis], hmem⟩
  simp only [execRelneLinkDown, hup, not_true, if_false, if_pos hcarried]
  rfl

end

/-! ### The group (R469) -/

theorem execGroupForm_of_settled {s : State} (h : s.net.relne.unsettled = false) (peers : List GroupPeer) (protocol : Nat) (ok : Bool) :
    execGroupForm peers protocol ok s = .next s := by
  simp [execGroupForm, h]

/-- A group without form: this device alone, at index 0, with no protocol and no root. -/
def Relne.alone (r : Relne) : Relne :=
  { r with members := 1, chip := 0, protocol := 0, root := false, groupFault := true, unsettled := false, others := [] }

/-- Members that do not agree, or are too many, form no group. -/
theorem execGroupForm_of_fault {s : State} (hu : s.net.relne.unsettled = true) {peers : List GroupPeer} {ok : Bool}
    (hf : ok = false ∨ 15 < peers.length) (protocol : Nat) :
    ∃ w, execGroupForm peers protocol ok s = .next (settleLinkTime (updRelne w Relne.alone)) := by
  have hfault : ¬ ok = true ∨ 15 < peers.length := by simpa using hf
  simp only [execGroupForm, hu, not_true, if_false, if_pos hfault, List.isEmpty_nil, Bool.not_true, Bool.and_false, if_true, decide_eq_true hfault]
  exact ⟨_, rfl⟩

theorem relne_membersLost (l : List (BitVec 64 × Nat)) (s : State) : (l.foldl (fun s o => memberLost s o.2) s).net.relne = s.net.relne :=
  (Emits.foldl (fun _ _ => memberLost_emits ..) l s).relne

theorem execGroupForm_of_agreed {s : State} (hu : s.net.relne.unsettled = true) {peers : List GroupPeer} {ok : Bool} (hok : ok = true)
    (hlen : peers.length ≤ 15) (protocol : Nat) :
    execGroupForm peers protocol ok s = .next (
      let root := rootOf { identity := s.net.relne.identity, priority := s.net.relne.rootPriority.toNat, path := 0 } peers
      settleLinkTime (updRelne ((s.net.relne.others.filter fun o => !peers.any fun p => p.identity = o.1).foldl
          (fun s o => memberLost s o.2) s) fun r =>
        { r with
          members := BitVec.ofNat 5 (peers.length + 1), chip := BitVec.ofNat 4 root.path
          protocol := if peers.isEmpty then 0 else BitVec.ofNat 2 protocol
          root := decide (root.identity = s.net.relne.identity) && !peers.isEmpty, groupFault := false, unsettled := false
          others := peers.map fun p => (p.identity, p.path ^^^ root.path) })) := by
  have hgood : ¬ (¬ ok = true ∨ 15 < peers.length) := by simpa [hok] using hlen
  unfold execGroupForm
  rw [if_neg (by simp [hu])]
  simp only [if_neg hgood, decide_eq_false hgood, updRelne, relne_membersLost]

/-- Where link time begins or ends, the group stays as it has formed. -/
theorem relne_settleLinkTime (s : State) : ∃ b, (settleLinkTime s).net.relne = { s.net.relne with joined := b } := by
  unfold settleLinkTime
  split
  · exact ⟨_, rfl⟩
  · refine ⟨false, ?_⟩
    dsimp only
    split
    · rfl
    · rfl

/-! ### Link time (R470) -/

/-- A step of device time changes that time and its fraction alone. -/
theorem setUnits_eq (u : Int) : ∃ time, ∀ s, setUnits s u = updTiming s fun t => { t with time := time, frac := 0 } := ⟨_, fun _ => rfl⟩

section
variable {s : State} (hf : s.net.relne.followsLink = true) (off : Int) (code : Nat)

/-- The state of the root after a measurement, and device time by the link. -/
def Timing.byLink (t : Timing) (code : Nat) : Timing := { t with linkTime := true, state := syncOfCode code }

/-- The error of link time that a measurement shows; the member has joined. -/
def linkMeasured (s : State) (off : Int) : State := updRelne s fun r => { r with linkTimeErr := BitVec.ofInt 32 (off / 256), joined := true }

theorem execLinkTimeMeasure_of_free (hfree : s.net.relne.followsLink = false) : execLinkTimeMeasure off code s = .next s := by
  simp [execLinkTimeMeasure, hfree]

include hf

/-- A member that has joined disciplines its rate. -/
theorem execLinkTimeMeasure_of_joined (hj : s.net.relne.joined = true) : execLinkTimeMeasure off code s =
    .next (updTiming (updTiming (linkMeasured s off) fun t =>
      { t with integral := (Config.servo t.integral off).1, rate := clampInt (-rateLimit) rateLimit (Config.servo t.integral off).2 })
      (·.byLink code)) := by
  simp only [execLinkTimeMeasure, hf, not_true, if_false, hj, if_true]
  rfl

/-- A member that joins steps its time once. -/
theorem execLinkTimeMeasure_of_joining (hj : s.net.relne.joined = false) : execLinkTimeMeasure off code s =
    .next (updTiming (setUnits (linkMeasured s off) (nowUnits s - off)) (·.byLink code)) := by
  simp only [execLinkTimeMeasure, hf, not_true, if_false, hj, Bool.false_eq_true]
  rfl

end

/-! ### Tiles (R472) -/

section
variable {s : State} {port part tag : Nat} (stream tile : Nat) (data : List Byte)

theorem execLinkTileRx_of_noTraffic (h : linkCarries s port = false) (late : Bool) :
    execLinkTileRx port part tag stream tile data late s = .next s := by
  simp [execLinkTileRx, h]

theorem execLinkTileRx_of_noJob (h : linkCarries s port = true) (hj : taggedJob s part tag = none) (late : Bool) :
    execLinkTileRx port part tag stream tile data late s = .next (logConfig s 0 tag) := by
  simp [execLinkTileRx, h, hj]

variable {h : Nat} {j : Job} (hc : linkCarries s port = true) (hj : taggedJob s part tag = some (h, j))
include hc hj

theorem execLinkTileRx_of_late : execLinkTileRx port part tag stream tile data true s = .next (lateTile s h j stream) := by
  simp [execLinkTileRx, hc, hj]

/-- A tile in time is placed and charged, and posted where its stream has a produced count. -/
theorem execLinkTileRx_of_inTime : execLinkTileRx port part tag stream tile data false s = .next (
    let w := chargeJob (placeTile s j stream tile data) h { Ledger.none with linkBytes := data.length }
    (j.producedTally stream).elim w fun k =>
      (tallyAdd w (tallyOf w part k) 1 (sourceCode 5 (w.net.relne.chip.toNat ^^^ 2 ^ port)) (nowNs w) none).1) := by
  simp only [execLinkTileRx, hc, hj, not_true, if_false, Bool.false_eq_true]
  cases j.producedTally stream <;> rfl

end

/-! ### Settled -/

/-- Settles O45: one lemma for each event and occasion says what it answers; what follows the group's form leaves the group as it is. -/
theorem relneLinkFormsAndCarries : Obligations.RelneLinkFormsAndCarries := by
  unfold Obligations.RelneLinkFormsAndCarries
  intro s port
  refine ⟨fun id protocols far priority hp hlen hdown hen hproto => ?linkUp, fun id protocols far priority h => execRelneLinkUp_of_kept h ..,
    execRelneLinkDown_of_down, fun h peers protocol ok => execGroupForm_of_settled h ..,
    fun h off code => execLinkTimeMeasure_of_free _ _ h, fun part tag stream tile data late =>
      ⟨fun h => execLinkTileRx_of_noTraffic _ _ _ h _, fun h hj => execLinkTileRx_of_noJob _ _ _ h hj _⟩,
    fun peers protocol ok hu hf => ?fault, fun hup => ⟨execRelneLinkDown_of_alone hup, execRelneLinkDown_of_member hup⟩,
    fun peers protocol hu hlen => execGroupForm_of_agreed hu rfl hlen protocol, fun off code hf => ?linkTime,
    fun part tag stream tile data h j hc hj => ⟨execLinkTileRx_of_late _ _ _ hc hj, ?posted⟩⟩
  case linkUp =>
    have hself : getPort (unsettle (updPort s port fun _ => .linked port id protocols far priority)) port =
        .linked port id protocols far priority := getPort_updPort_self hlen _
    refine ⟨_, execRelneLinkUp_of_hello hp hdown hen hproto id far priority, ?_⟩
    rw [hself]
    exact ⟨rfl, rfl, rfl, rfl, rfl, fun p hne => getPort_updPort_other s hne _, rfl, rfl⟩
  case fault =>
    obtain ⟨w, hw⟩ := execGroupForm_of_fault hu hf protocol
    obtain ⟨b, hb⟩ := relne_settleLinkTime (updRelne w Relne.alone)
    refine ⟨_, hw, ?_⟩
    rw [hb]
    exact ⟨rfl, rfl, rfl, rfl, rfl, rfl, rfl⟩
  case linkTime =>
    cases hj : s.net.relne.joined with
    | true =>
      exact ⟨_, execLinkTimeMeasure_of_joined hf off code hj, rfl, rfl, rfl, rfl, rfl, fun _ => ⟨rfl, rfl⟩, fun h => nomatch h⟩
    | false =>
      obtain ⟨time, hset⟩ := setUnits_eq (nowUnits s - off)
      have hexec := execLinkTimeMeasure_of_joining hf off code hj
      rw [hset] at hexec ⊢
      exact ⟨_, hexec, rfl, rfl, rfl, rfl, rfl, fun h => (nomatch h), fun _ => ⟨rfl, rfl⟩⟩
  case posted =>
    have htile := execLinkTileRx_of_inTime stream tile data hc hj
    exact ⟨fun hk => by rw [hk] at htile; exact htile, fun k hk => by rw [hk] at htile; exact htile⟩

end Sys2Proof.Machine
end

section
/-! Monitors that are met or time out, additions that become visible, barriers, and additions of other members (14 R360, R364, R379, R380;
17 R470, R473). -/

namespace Sys2Proof.Machine

/-! ### Monitors (14 R364) -/

/-- The armed monitors of a tally whose threshold its value has reached. -/
def metMonitors (s : State) (p i : Nat) : List Monitor :=
  s.work.monitors.filter fun x => x.part = p ∧ x.index = i ∧ x.threshold ≤ (getTally s (tallyOf s p i)).value.toNat

theorem mem_metMonitors {s : State} {p i : Nat} {x : Monitor} : x ∈ metMonitors s p i ↔
    x ∈ s.work.monitors ∧ x.part = p ∧ x.index = i ∧ x.threshold ≤ (getTally s (tallyOf s p i)).value.toNat := by
  simp [metMonitors]

/-- Monitors that are no longer armed. -/
def disarm (s : State) (l : List Monitor) : State := updWork s fun w => { w with monitors := w.monitors.filter fun x => x ∉ l }

/-- The commands of monitors complete with the same answer. -/
def finishMonitors (s : State) (l : List Monitor) (d : Done) : State := l.foldl (fun s x => finish s x.ticket d) s

theorem Sends.tallyDone_eq {s t : State} (h : Sends s t) (p i : Nat) : tallyDone t p i = tallyDone s p i := by
  unfold tallyDone getTally tallyOf; rw [h.work]

theorem finishMonitors_sends (s : State) (l : List Monitor) (d : Done) : Sends s (finishMonitors s l d) :=
  .foldl (fun _ _ => finish_sends ..) l s

/-- A completion changes no tally, so that all of them carry the value that met the thresholds. -/
theorem foldl_finish_tallyDone (l : List Monitor) (s : State) (p i : Nat) :
    l.foldl (fun s x => finish s x.ticket (tallyDone s p i)) s = finishMonitors s l (tallyDone s p i) := by
  induction l generalizing s with
  | nil => rw [finishMonitors, List.foldl_nil, List.foldl_nil]
  | cons x l ih =>
    rw [List.foldl_cons, ih, (finish_sends ..).tallyDone_eq, finishMonitors, finishMonitors, List.foldl_cons]

theorem finishMonitors_tickets {l : List Monitor} {x : Monitor} (hx : x ∈ l) (s : State) (d : Done) :
    ∀ k ∈ (finishMonitors s l d).host.tickets, k.id ≠ x.ticket := by
  induction l generalizing s with
  | nil => cases hx
  | cons y l ih =>
    rcases List.mem_cons.mp hx with rfl | hx
    · exact fun k hk => finish_tickets s x.ticket d k ((finishMonitors_sends _ l d).tickets hk)
    · exact ih hx _

theorem execTallyMonitorMet_eq (s : State) (p i : Nat) : execTallyMonitorMet p i s =
    .next (finishMonitors (disarm s (metMonitors s p i)) (metMonitors s p i) (tallyDone s p i)) :=
  congrArg Host.Outcome.next (foldl_finish_tallyDone _ (disarm s (metMonitors s p i)) p i)

theorem mem_disarm_metMonitors {s : State} {p i : Nat} {x : Monitor} : x ∈ (disarm s (metMonitors s p i)).work.monitors ↔
    x ∈ s.work.monitors ∧ ¬ (x.part = p ∧ x.index = i ∧ x.threshold ≤ (getTally s (tallyOf s p i)).value.toNat) := by
  rw [disarm, updWork_work, List.mem_filter, decide_eq_true_eq, mem_metMonitors]
  exact and_congr_right fun hx => not_congr (and_iff_right hx)

/-- A monitor whose time is over is disarmed and answered. -/
theorem execTallyWaitTimeout_of_over {s : State} {x : Monitor} (hx : x ∈ s.work.monitors) (ht : x.timeout ≠ 0)
    (hover : x.armed + 1000 * x.timeout ≤ nowNs s) : execTallyWaitTimeout x.ticket s =
      .next (finish (updWork s fun w => { w with monitors := w.monitors.filter fun y => y.ticket ≠ x.ticket }) x.ticket (Done.of eTimeout)) :=
  congrArg Host.Outcome.next (if_pos (List.any_eq_true.mpr ⟨x, hx, by simp [Monitor.over, ht, hover]⟩))

theorem execTallyWaitTimeout_of_early {s : State} {k : Nat}
    (h : ∀ x ∈ s.work.monitors, x.ticket = k → x.timeout = 0 ∨ nowNs s < x.armed + 1000 * x.timeout) :
    execTallyWaitTimeout k s = .next s := by
  refine congrArg Host.Outcome.next (if_neg fun hany => ?_)
  obtain ⟨x, hx, hk⟩ := List.any_eq_true.mp hany
  simp only [Bool.and_eq_true, decide_eq_true_eq, Monitor.over] at hk
  obtain ⟨hticket, ht, hover⟩ := hk
  exact (h x hx hticket).elim ht (Nat.not_lt.mpr hover)

/-! ### Visibility (14 R360) -/

/-- The amounts of the additions that a core does not see. -/
def unseenBy (l : List Recent) (d : Nat) : List Nat := (l.filter fun r => !r.seen.getLsbD d).map fun r => r.amount

/-- An addition that a core has come to see. -/
def Recent.shown (c : Nat) (r : Recent) : Recent := { r with seen := r.seen ||| BitVec.ofNat 72 (2 ^ c) }

theorem Recent.getLsbD_shown {c d : Nat} (hd : d < 72) (r : Recent) : (r.shown c).seen.getLsbD d = (r.seen.getLsbD d || decide (c = d)) := by
  rw [shown, BitVec.getLsbD_or, BitVec.getLsbD_ofNat, Nat.testBit_two_pow, decide_eq_true hd, Bool.true_and]

/-- The oldest addition that a core does not see is shown to it. -/
def showOldest (l : List Recent) (c : Nat) : List Recent := modNth l (l.findIdx fun r => !r.seen.getLsbD c) (Recent.shown c)

theorem showOldest_cons_of_seen {c : Nat} {r : Recent} (h : r.seen.getLsbD c = true) (l : List Recent) :
    showOldest (r :: l) c = r :: showOldest l c := by
  simp [showOldest, List.findIdx_cons, h, modNth, List.mapIdx_cons]

theorem showOldest_cons_of_unseen {c : Nat} {r : Recent} (h : r.seen.getLsbD c = false) (l : List Recent) :
    showOldest (r :: l) c = r.shown c :: l := by
  have hsame : l.mapIdx (fun _ r => r) = l := List.ext_getElem? fun _ => by simp
  simp [showOldest, List.findIdx_cons, h, modNth, List.mapIdx_cons, hsame]

theorem unseenBy_cons (r : Recent) (l : List Recent) (d : Nat) :
    unseenBy (r :: l) d = if r.seen.getLsbD d then unseenBy l d else r.amount :: unseenBy l d := by
  cases h : r.seen.getLsbD d <;> simp [unseenBy, h]

theorem unseenBy_showOldest_self {c : Nat} (hc : c < 72) (l : List Recent) : unseenBy (showOldest l c) c = (unseenBy l c).tail := by
  induction l with
  | nil => rfl
  | cons r l ih =>
    cases h : r.seen.getLsbD c with
    | true => rw [showOldest_cons_of_seen h, unseenBy_cons, unseenBy_cons, if_pos h, if_pos h, ih]
    | false => simp [showOldest_cons_of_unseen h, unseenBy_cons, h, Recent.getLsbD_shown hc]

theorem unseenBy_showOldest_other {c d : Nat} (hd : d < 72) (hcd : d ≠ c) (l : List Recent) :
    unseenBy (showOldest l c) d = unseenBy l d := by
  induction l with
  | nil => rfl
  | cons r l ih =>
    cases h : r.seen.getLsbD c with
    | true => rw [showOldest_cons_of_seen h, unseenBy_cons, unseenBy_cons, ih]
    | false =>
      have hbit : (r.shown c).seen.getLsbD d = r.seen.getLsbD d := by simp [Recent.getLsbD_shown hd, Ne.symm hcd]
      rw [showOldest_cons_of_unseen h, unseenBy_cons, unseenBy_cons, hbit]
      rfl

/-- An addition that every core sees is none that a core does not see. -/
theorem unseenBy_filter {d : Nat} (hd : d < 72) (l : List Recent) : unseenBy (l.filter fun r => r.seen ≠ BitVec.allOnes 72) d = unseenBy l d := by
  rw [unseenBy, List.filter_filter, unseenBy]
  congr 1
  refine List.filter_congr fun r _ => ?_
  cases h : r.seen.getLsbD d with
  | true => rfl
  | false =>
    have hsome : r.seen ≠ BitVec.allOnes 72 := fun hall => by
      rw [hall, BitVec.getLsbD_allOnes, decide_eq_true hd] at h
      cases h
    rw [decide_eq_true hsome]
    rfl

/-- The additions of a tally after the oldest that a core does not see has become visible to it. -/
def Tally.shownTo (t : Tally) (c : Nat) : Tally := { t with recent := (showOldest t.recent c).filter fun r => r.seen ≠ BitVec.allOnes 72 }

theorem execPostVisible_of_free {s : State} {n : Nat} (h : (getTally s n).barrier = none) (c : Nat) :
    execPostVisible n c s = .next (updTally s n fun t => t.shownTo c) := by
  refine congrArg Host.Outcome.next (if_neg ?_)
  simp [h]

theorem execPostVisible_of_barrier {s : State} {n : Nat} (h : (getTally s n).barrier ≠ none) (c : Nat) : execPostVisible n c s = .next s :=
  congrArg Host.Outcome.next (if_pos (Option.isSome_iff_ne_none.mpr h))

theorem Tally.unseenBy_shownTo_self (t : Tally) {c : Nat} (hc : c < 72) : unseenBy (t.shownTo c).recent c = (unseenBy t.recent c).tail := by
  rw [shownTo, unseenBy_filter hc, unseenBy_showOldest_self hc]

theorem Tally.unseenBy_shownTo_other (t : Tally) {c d : Nat} (hd : d < 72) (hcd : d ≠ c) :
    unseenBy (t.shownTo c).recent d = unseenBy t.recent d := by
  rw [shownTo, unseenBy_filter hd, unseenBy_showOldest_other hd hcd]

theorem Tally.visible_eq (t : Tally) (d : Nat) : t.visible d = t.value.toNat - sumNat (unseenBy t.recent d) := rfl

/-! ### Barriers (14 R379, R380) -/

/-- A tally without its k oldest additions withheld. -/
def Tally.released (t : Tally) (k : Nat) : Tally := { t with recent := t.recent.drop k }

/-- A release changes the tally's additions, and beside them the ledger alone. -/
theorem releaseBarrier_ledgerOnly (s : State) (g k at_ : Nat) :
    LedgerOnly (updTally s g fun t => t.released k) (releaseBarrier s g k at_) :=
  .foldl (fun _ _ => chargeEach_ledgerOnly ..) _ _

theorem updTally_emits (s : State) (g : Nat) (f : Tally → Tally) : Emits s (updTally s g f) := .of_eq rfl rfl

section
variable {s : State} {n k at_ : Nat} (hat : releaseTime (getTally s n) = some at_) (hk : (getTally s n).barrier = some k)
include hat hk

/-- A complete barrier is released at its instant, or at once in a group of protocol 1. -/
theorem execBarrierRelease_of_due (h : at_ ≤ nowNs s ∨ s.net.relne.protocol.toNat < 2) :
    ∃ instant, execBarrierRelease n s = .next (releaseBarrier s n k instant) := by
  simp only [execBarrierRelease, hat, hk]
  by_cases hp : s.net.relne.protocol.toNat < 2
  · exact ⟨nowNs s, congrArg _ (if_pos hp)⟩
  · exact ⟨at_, by rw [if_neg hp, if_pos (h.resolve_right hp)]⟩

theorem execBarrierRelease_of_early (h : nowNs s < at_) (hp : 2 ≤ s.net.relne.protocol.toNat) : execBarrierRelease n s = .next s := by
  simp only [execBarrierRelease, hat, hk, if_neg (Nat.not_lt.mpr hp), if_neg (Nat.not_le.mpr h)]

end

/-- What an arrival at a barrier leaves: every count of its tally, every other tally, and what has left the device. -/
structure Arrives (g : Nat) (s t : State) : Prop where
  self : ∃ l, getTally t g = { getTally s g with recent := l }
  other : ∀ d, d ≠ g → getTally t d = getTally s d
  emits : Emits s t

theorem Arrives.refl (g : Nat) (s : State) : Arrives g s s := ⟨⟨_, rfl⟩, fun _ _ => rfl, .refl s⟩

theorem releaseBarrier_arrives (s : State) (g k at_ : Nat) : Arrives g s (releaseBarrier s g k at_) := by
  have hl := releaseBarrier_ledgerOnly s g k at_
  refine ⟨⟨(getTally s g).recent.drop k, ?_⟩, fun d hd => ?_, (updTally_emits ..).trans hl.emits⟩
  · rw [hl.jobsOnly.getTally_eq, getTally_updTally_self, Tally.released]
  · rw [hl.jobsOnly.getTally_eq, getTally_updTally_other _ _ hd]

theorem Arrives.sends {g : Nat} {s t u : State} (h : Arrives g s t) (hs : Sends t u) (he : Emits t u) : Arrives g s u :=
  ⟨by rw [hs.getTally_eq]; exact h.self, fun d hd => (hs.getTally_eq d).trans (h.other d hd), h.emits.trans he⟩

theorem barrierArrives_arrives (s : State) (part i chip : Nat) : Arrives (tallyOf s part i) s (barrierArrives s part i chip) := by
  unfold barrierArrives
  dsimp only
  split
  · split
    · exact releaseBarrier_arrives ..
    · split
      · exact (releaseBarrier_arrives ..).sends (partEvent_sends ..) (partEvent_emits ..)
      · exact .refl _ s
  · exact .refl _ s

/-! ### Additions of other members (17 R473) -/

theorem relneSend_eq (s : State) (ports : List Nat) (what : String) (data : List Nat) :
    relneSend s ports what data = { s with sent := s.sent ++ ports.map fun p => .relne p what data } := by
  unfold relneSend
  induction ports generalizing s with
  | nil => simp
  | cons p ports ih => rw [List.foldl_cons, ih]; simp [emit]

/-- The state in which an addition of a member has gone to the ports above the one it came on. -/
def tallyForwarded (s : State) (port part tag record amount time chip : Nat) : State :=
  { s with sent := s.sent ++ ((relnePorts s).filter fun q => port < q).map fun q => .relne q "tally" [part, tag, record, amount, time, chip] }

/-- The addition that a member has sent, added here. -/
def memberAdded (s : State) (port part tag record amount time chip i : Nat) : State :=
  updTally (tallyForwarded s port part tag record amount time chip) (tallyOf s part i) fun x => x.added s amount (sourceCode 5 chip) time 0

theorem execGroupTallyMessage_of_group {s : State} {port part tag record amount h : Nat} {j : Job} {g : Nat × Nat × Bool}
    (hc : linkCarries s port = true) (hj : taggedJob s part tag = some (h, j)) (hg : (j.groups.find? fun g => g.1 = record) = some g)
    (hlt : (getTally s (tallyOf s part g.2.1)).value.toNat + amount < 2 ^ 64) (time chip : Nat) :
    execGroupTallyMessage port part tag record amount time chip s = .next (
      let w := memberAdded s port part tag record amount time chip g.2.1
      if g.2.2 then barrierArrives w part g.2.1 chip else w) := by
  have hj : taggedJob (tallyForwarded s port part tag record amount time chip) part tag = some (h, j) := hj
  have hadd : tallyAdd (tallyForwarded s port part tag record amount time chip)
      (tallyOf (tallyForwarded s port part tag record amount time chip) part g.2.1) amount (sourceCode 5 chip) time none =
      (memberAdded s port part tag record amount time chip g.2.1, true) :=
    tallyAdd_of_lt (s := tallyForwarded s port part tag record amount time chip) hlt ..
  unfold execGroupTallyMessage
  rw [if_neg (by simp [hc])]
  dsimp only
  rw [relneSend_eq, ← tallyForwarded]
  simp only [hj, hg, hadd, true_and]

section
variable (s : State) (port part tag record amount time chip i : Nat)

theorem getTally_memberAdded_self : getTally (memberAdded s port part tag record amount time chip i) (tallyOf s part i) =
    (getTally s (tallyOf s part i)).added s amount (sourceCode 5 chip) time 0 :=
  getTally_updTally_self ..

theorem getTally_memberAdded_other {d : Nat} (hd : d ≠ tallyOf s part i) :
    getTally (memberAdded s port part tag record amount time chip i) d = getTally s d :=
  getTally_updTally_other _ _ hd

/-- What follows where the addition arrives at a barrier. -/
theorem memberAdded_arrives (barrier : Bool) : Arrives (tallyOf s part i) (memberAdded s port part tag record amount time chip i)
    (let w := memberAdded s port part tag record amount time chip i
     if barrier then barrierArrives w part i chip else w) := by
  have harrives := barrierArrives_arrives (memberAdded s port part tag record amount time chip i) part i chip
  dsimp only
  split
  · exact harrives
  · exact .refl ..

end

end Sys2Proof.Machine
end

section
/-! Digest records and clip shares (04 R114; 14 R374; 16 R433), and the statement of monitors, visibility, barriers and shares. -/

namespace Sys2Proof.Machine

/-! ### Digest records (14 R374) -/

/-- The bytes of a digest record, with the CRC-64 of the partial results. -/
def digestRecord (s : State) (j : Job) (r : Invocation) (point epoch : Nat) (ds : List PartDigest) : List Byte :=
  leBytes 4 (digestField j.image point 0 4) ++ leBytes 2 point ++ leBytes 2 0 ++ leBytes 4 s.sys.version.toNat ++ leBytes 4 r.number
    ++ leBytes 4 epoch ++ leBytes 4 0 ++ leBytes 8 (crc64 (ds.flatMap fun d => d.bytes))

/-- Digest records that a job's record region holds. -/
def Job.digestCap (j : Job) : Nat := (j.recordPages * pageBytes - 0x10000) / 32

/-- The record is written at its place in the ring of records, where there is one. -/
def digestWritten (s : State) (j : Job) (r : Invocation) (point epoch : Nat) (ds : List PartDigest) : State :=
  if j.digestCap = 0 then s
  else hbmWrite s j.part (j.recordAddr + 0x10000 + 32 * (j.digestHead % j.digestCap)) (digestRecord s j r point epoch ds)

/-- The job with one record more and without the partial results that it combines. -/
def Job.combined (j : Job) (point epoch : Nat) : Job :=
  { j with
    digestHead := (j.digestHead + 1) % 2 ^ 32
    run := j.run.map fun r => { r with digests := r.digests.filter fun d => d.point ≠ point ∨ d.epoch ≠ epoch } }

section
variable {s : State} {job point epoch : Nat} {j : Job} {r : Invocation} {ds : List PartDigest}

theorem execDigestCombine_of_parts (hj : getJob s job = some j) (hr : j.run = some r) (hds : digestParts j r point epoch = some ds)
    (hdue : digestField j.image point 10 2 ≠ 0 ∨ lastEpoch j r = some epoch) :
    execDigestCombine job point epoch s = .next (updJob (digestWritten s j r point epoch ds) job (·.combined point epoch)) := by
  have hgo : ¬ (digestField j.image point 10 2 = 0 ∧ lastEpoch j r ≠ some epoch) := fun ⟨hz, hl⟩ => hdue.elim (· hz) hl
  simp only [execDigestCombine, combineDigest, hj, hr, if_neg hgo, hds]
  rfl

/-- Where bytes are written to HBM nothing else changes. -/
theorem hbmWrite_hbmOnly (s : State) (p a : Nat) (bs : List Byte) : ∃ m, hbmWrite s p a bs = updWork s fun w => { w with hbm := m } := by
  unfold hbmWrite
  split
  · exact ⟨_, rfl⟩
  · exact ⟨s.work.hbm, rfl⟩

theorem digestWritten_hbmOnly (s : State) (j : Job) (r : Invocation) (point epoch : Nat) (ds : List PartDigest) :
    ∃ m, digestWritten s j r point epoch ds = updWork s fun w => { w with hbm := m } := by
  unfold digestWritten
  split
  · exact ⟨s.work.hbm, rfl⟩
  · exact hbmWrite_hbmOnly ..

theorem getJob_combineDigest (hj : getJob s job = some j) (hr : j.run = some r) :
    getJob (updJob (digestWritten s j r point epoch ds) job (·.combined point epoch)) job =
      some { j with
        digestHead := (j.digestHead + 1) % 2 ^ 32
        run := some { r with digests := r.digests.filter fun d => d.point ≠ point ∨ d.epoch ≠ epoch } } := by
  obtain ⟨m, hm⟩ := digestWritten_hbmOnly s j r point epoch ds
  have hjob : getJob (digestWritten s j r point epoch ds) job = some j := by rw [hm]; exact hj
  rw [getJob_updJob_self, hjob, Option.map_some, Job.combined, hr, Option.map_some]

end

/-! ### Clip shares (04 R114) -/

/-- The entry of a station in an invocation's counts. -/
def entryOf (r : Invocation) (station k : Nat) : Option MintCount := r.mints.find? fun m => m.station = station ∧ m.entry = k

/-- TOTAL and CLIPPED of an entry in one epoch. -/
def MintCount.totalIn (m : MintCount) (epoch : Nat) : Nat := sumNat ((m.epochs.filter fun e => e.1 = epoch).map fun e => e.2.1)
def MintCount.clippedIn (m : MintCount) (epoch : Nat) : Nat := sumNat ((m.epochs.filter fun e => e.1 = epoch).map fun e => e.2.2)

/-- Whether the share of an entry in an epoch is over its limit, for the first time in the invocation. -/
def MintCount.over (m : MintCount) (img : List Byte) (station epoch k : Nat) : Bool :=
  let limit := constField img (stationField img station 0x0C 4 + 16 + 48 * k + 0x16) 2
  limit ≠ 0 && !m.sent && decide (limit * m.totalIn epoch < m.clippedIn epoch * 65536)

/-- An entry whose share in an epoch has been tested. -/
def MintCount.tested (m : MintCount) (epoch : Nat) (hit : Bool) : MintCount :=
  { m with epochs := m.epochs.filter (fun e => e.1 ≠ epoch), sent := m.sent || hit }

/-- The entries of an invocation after entry k of a station has been tested. -/
def Invocation.tested (r : Invocation) (station k epoch : Nat) (hit : Bool) : Invocation :=
  { r with mints := r.mints.map fun x => if x.station = station ∧ x.entry = k then x.tested epoch hit else x }

/-- The body of CLIP_SHARE. -/
def clipBody (job epoch station k : Nat) (m : MintCount) : List Byte :=
  leBytes 4 job ++ leBytes 1 2 ++ leBytes 3 0 ++ leBytes 4 epoch ++ leBytes 2 station ++ leBytes 2 k ++ leBytes 4 m.layerTag
    ++ leBytes 8 (m.clippedIn epoch) ++ leBytes 8 (m.totalIn epoch)

/-- The test of one entry changes no entry but that one. -/
theorem entryOf_tested (r : Invocation) (station k epoch : Nat) (hit : Bool) (i : Nat) :
    entryOf (r.tested station k epoch hit) station i = (entryOf r station i).map fun m => if i = k then m.tested epoch hit else m := by
  unfold entryOf Invocation.tested
  rw [find?_map_of_unseen fun x => by split <;> rfl]
  cases hfind : r.mints.find? fun m => decide (m.station = station ∧ m.entry = i) with
  | none => rfl
  | some m =>
    obtain ⟨hs, hi⟩ : m.station = station ∧ m.entry = i := by simpa using List.find?_some hfind
    simp [hs, hi]

section
variable {s : State} {job : Nat} {j : Job} {r : Invocation} (hj : getJob s job = some j) (hr : j.run = some r) (epoch station : Nat) {k : Nat}
include hj hr

theorem testClip_of_noEntry (hm : entryOf r station k = none) : testClip job epoch station s k = s := by
  unfold entryOf at hm
  simp only [testClip, hj, hr, hm]

theorem testClip_of_entry {m : MintCount} (hm : entryOf r station k = some m) : testClip job epoch station s k =
    (let t := updRun s job (·.tested station k epoch (m.over j.image station epoch k))
     if m.over j.image station epoch k then partEvent t j.part 0x0380 64 (clipBody job epoch station k m) else t) := by
  unfold entryOf at hm
  simp only [testClip, hj, hr, hm]
  rfl

end

/-- The state after the first n entries of a station have been tested in an epoch: those entries are tested, the others are not, and
nothing has been sent where no share was over its limit. -/
structure ClipsTested (s : State) (job : Nat) (j : Job) (r : Invocation) (epoch station n : Nat) (t : State) : Prop where
  run : ∃ r', getJob t job = some { j with run := some r' } ∧ ∀ i, entryOf r' station i =
    (entryOf r station i).map fun m => if i < n then m.tested epoch (m.over j.image station epoch i) else m
  quiet : (∀ i m, i < n → entryOf r station i = some m → m.over j.image station epoch i = false) → t.host = s.host ∧ t.sent = s.sent

section
variable {s t : State} {job : Nat} {j : Job} {r : Invocation} {epoch station n : Nat}

theorem ClipsTested.zero (hj : getJob s job = some j) (hr : j.run = some r) : ClipsTested s job j r epoch station 0 s := by
  refine ⟨⟨r, by rw [hj, ← hr], fun i => ?_⟩, fun _ => ⟨rfl, rfl⟩⟩
  simp

theorem ClipsTested.succ (h : ClipsTested s job j r epoch station n t) :
    ClipsTested s job j r epoch station (n + 1) (testClip job epoch station t n) := by
  obtain ⟨⟨r', hjob, hentries⟩, hquiet⟩ := h
  have hn : entryOf r' station n = entryOf r station n := by rw [hentries]; simp
  have hquiet' (hall : ∀ i m, i < n + 1 → entryOf r station i = some m → m.over j.image station epoch i = false) :=
    hquiet fun i m hi => hall i m (Nat.lt_succ_of_lt hi)
  cases hm : entryOf r station n with
  | none =>
    rw [testClip_of_noEntry hjob rfl epoch station (hn.trans hm)]
    refine ⟨⟨r', hjob, fun i => ?_⟩, hquiet'⟩
    rw [hentries]
    by_cases hi : i = n
    · rw [hi, hm]; rfl
    · simp only [Nat.lt_succ_iff_lt_or_eq, hi, or_false]
  | some m =>
    rw [testClip_of_entry hjob rfl epoch station (hn.trans hm)]
    dsimp only
    have hrun : getJob (updRun t job (·.tested station n epoch (m.over j.image station epoch n))) job =
        some { j with run := some (r'.tested station n epoch (m.over j.image station epoch n)) } := by
      rw [updRun, getJob_updJob_self, hjob]; rfl
    refine ⟨⟨r'.tested station n epoch (m.over j.image station epoch n), ?_, fun i => ?_⟩, fun hall => ?_⟩
    · split
      · rw [(partEvent_sends ..).getJob_eq]; exact hrun
      · exact hrun
    · rw [entryOf_tested, hentries, Option.map_map]
      by_cases hi : i = n
      · subst hi; simp [hm]
      · simp only [Nat.lt_succ_iff_lt_or_eq, hi, or_false, if_false]; rfl
    · rw [hall n m (Nat.lt_succ_self n) hm, if_neg Bool.false_ne_true, updRun_host, updRun_sent]
      exact hquiet' hall

theorem clipsTested_range (hj : getJob s job = some j) (hr : j.run = some r) (n : Nat) :
    ClipsTested s job j r epoch station n ((List.range n).foldl (testClip job epoch station) s) := by
  induction n with
  | zero => exact .zero hj hr
  | succ n ih => rw [List.range_succ, List.foldl_append]; exact ih.succ

theorem execClipShare_of_done (hj : getJob s job = some j) (hdone : stationDone j station epoch = true) :
    execClipShare job station epoch s = .next ((List.range (constField j.image (stationField j.image station 0x0C 4) 2)).foldl
      (testClip job epoch station) s) := by
  simp only [execClipShare, hj, if_pos hdone]

end

/-! ### Settled -/

/-- Settles O26: one lemma for each event says what it answers; the entries of a station are tested one after another. -/
theorem monitorsAndVisibility : Obligations.MonitorsAndVisibility := by
  unfold Obligations.MonitorsAndVisibility
  intro s p i c n
  refine ⟨?met, fun x hx ht hover => ?timeout, fun k h => execTallyWaitTimeout_of_early h, ⟨fun hb hc => ?visible,
    fun hb => execPostVisible_of_barrier hb c⟩, fun at_ k hat hk => ⟨fun hdue => ?released, execBarrierRelease_of_early hat hk⟩,
    fun port part tag record amount time chip h j g hc hj hg hlt => ?group, fun job point epoch j r ds hj hr hds hdue => ?digest,
    fun job station epoch j r hj hr hdone => ?clip⟩
  case met =>
    have hsends := finishMonitors_sends (disarm s (metMonitors s p i)) (metMonitors s p i) (tallyDone s p i)
    refine ⟨_, execTallyMonitorMet_eq s p i, fun x => ?_, fun x hx hmet => finishMonitors_tickets (mem_metMonitors.mpr ⟨hx, hmet⟩) _ _,
      by rw [hsends.work]; rfl, hsends.engines, ?_⟩
    · rw [hsends.work]; exact mem_disarm_metMonitors
    · rw [hsends.work]; rfl
  case timeout =>
    have hsends := finish_sends (updWork s fun w => { w with monitors := w.monitors.filter fun y => y.ticket ≠ x.ticket }) x.ticket
      (Done.of eTimeout)
    refine ⟨_, execTallyWaitTimeout_of_over hx ht hover, fun y => ?_, finish_tickets _ _ _, by rw [hsends.work]; rfl, hsends.engines, ?_⟩
    · rw [hsends.work, updWork_work, List.mem_filter, decide_eq_true_eq]
    · rw [hsends.work]; rfl
  case visible =>
    refine ⟨_, execPostVisible_of_free hb c, fun k hk => getTally_updTally_other _ _ hk, ?_⟩
    simp only [getTally_updTally_self]
    have hself := Tally.unseenBy_shownTo_self (getTally s n) hc
    refine ⟨rfl, hself, ?_, fun d hd hdc => ?_, rfl, rfl⟩
    · rw [Tally.visible_eq, hself]; rfl
    · have hother := Tally.unseenBy_shownTo_other (getTally s n) hd hdc
      exact ⟨hother, by rw [Tally.visible_eq, hother]; rfl⟩
  case released =>
    obtain ⟨instant, hexec⟩ := execBarrierRelease_of_due hat hk hdue
    have hledger := (releaseBarrier_ledgerOnly s n k instant).jobsOnly
    exact ⟨_, hexec, by rw [hledger.getTally_eq, getTally_updTally_self, Tally.released],
      fun d hd => by rw [hledger.getTally_eq, getTally_updTally_other _ _ hd], hledger.engines_eq, hledger.host_eq⟩
  case group =>
    have hexec := execGroupTallyMessage_of_group hc hj hg hlt time chip
    obtain ⟨⟨l, hl⟩, hkept, -, more, hmore⟩ := memberAdded_arrives s port part tag record amount time chip g.2.1 g.2.2
    have hself := getTally_memberAdded_self s port part tag record amount time chip g.2.1
    refine ⟨_, hexec, ?_, ?_, fun d hd => (hkept d hd).trans (getTally_memberAdded_other _ _ _ _ _ _ _ _ _ hd),
      ⟨more, hmore.symm⟩, fun hfree => ?_⟩
    · rw [hl, hself]; exact Tally.toNat_value_added hlt s (sourceCode 5 chip) time 0
    · rw [hl, hself]; rfl
    · rw [hfree, if_neg Bool.false_ne_true]
      exact ⟨rfl, by rw [hself]; rfl⟩
  case digest =>
    have hjobs := updJob_jobsOnly (digestWritten s j r point epoch ds) job (·.combined point epoch)
    obtain ⟨m, hm⟩ := digestWritten_hbmOnly s j r point epoch ds
    refine ⟨_, execDigestCombine_of_parts hj hr hds hdue, getJob_combineDigest hj hr, ?_, ?_, ?_, ?_, fun hcap => ?_, fun hcap => ?_⟩
    · rw [hjobs.engines_eq, hm, updWork_engines]
    · rw [hjobs.host_eq, hm, updWork_host]
    · rw [hjobs.tallies_eq, hm, updWork_work]
    · rw [hjobs.cores_eq, hm, updWork_work]
    · rw [hjobs.hbm_eq, digestWritten, if_pos (show j.digestCap = 0 from hcap)]
    · rw [hjobs.hbm_eq, digestWritten, if_neg (show j.digestCap ≠ 0 from hcap)]; rfl
  case clip =>
    obtain ⟨⟨r', hrun, hentries⟩, hquiet⟩ := clipsTested_range (epoch := epoch) (station := station) hj hr
      (constField j.image (stationField j.image station 0x0C 4) 2)
    refine ⟨_, r', execClipShare_of_done hj hdone, by rw [hrun]; rfl, fun k m hk hm => ?_, fun hall => hquiet fun k m => hall k m,
      fun m hone hm hhit => ?_⟩
    · exact (hentries k).trans (by rw [show entryOf r station k = some m from hm, Option.map_some, if_pos hk]; rfl)
    · have hclip := testClip_of_entry hj hr epoch station hm
      refine ⟨updRun s job (·.tested station 0 epoch (m.over j.image station epoch 0)), updRun_host .., updRun_sent .., ?_⟩
      rw [hone]
      exact hclip.trans (if_pos hhit)

end Sys2Proof.Machine
end

section
/-! Every operation that the commands of jobs, cores and their engines call keeps the queue, the fuses and the canonical form of the byte
memories. Each lemma follows the branches of its function; the operations that write memory say why its form stays. -/

namespace Sys2Proof.Machine
set_option Elab.async false -- one proof at a time, for the memory of the check

theorem OutKeeps.ite {s0 : State} {a b : Out} {c : Prop} [Decidable c] (ha : OutKeeps s0 a) (hb : OutKeeps s0 b) :
    OutKeeps s0 (if c then a else b) := by
  split
  · exact ha
  · exact hb

theorem OptKeeps.ite {s0 : State} {a b : Option State} {c : Prop} [Decidable c] (ha : OptKeeps s0 a) (hb : OptKeeps s0 b) :
    OptKeeps s0 (if c then a else b) := by
  split
  · exact ha
  · exact hb

section
variable {s0 s : State}

/-! ### Updates of the state -/

theorem updEng_keeps {c f} (hs : Keeps s0 s) : Keeps s0 (updEng s c f) := by
  unfold updEng
  exact mk_engines_keeps hs

theorem putJob_keeps {h j} (hs : Keeps s0 s) : Keeps s0 (putJob s h j) := by
  unfold putJob
  exact mk_work_keeps rfl rfl hs

theorem updJob_keeps {h f} (hs : Keeps s0 s) : Keeps s0 (updJob s h f) := by
  unfold updJob
  split
  · exact putJob_keeps hs
  · exact hs

theorem updInst_keeps {h c f} (hs : Keeps s0 s) : Keeps s0 (updInst s h c f) := by
  unfold updInst
  exact updJob_keeps hs

theorem updRun_keeps {h f} (hs : Keeps s0 s) : Keeps s0 (updRun s h f) := by
  unfold updRun
  exact updJob_keeps hs

theorem countRun_keeps {c f} (hs : Keeps s0 s) : Keeps s0 (countRun s c f) := by
  unfold countRun
  split
  · exact updRun_keeps hs
  · exact hs

theorem updNet_keeps {f} (hs : Keeps s0 s) : Keeps s0 (updNet s f) := by
  unfold updNet
  exact mk_net_keeps hs

theorem updTiming_keeps {f} (hs : Keeps s0 s) : Keeps s0 (updTiming s f) := by
  unfold updTiming
  exact mk_net_keeps hs

theorem updRelne_keeps {f} (hs : Keeps s0 s) : Keeps s0 (updRelne s f) := by
  unfold updRelne
  exact mk_net_keeps hs

theorem updPower_keeps {f} (hs : Keeps s0 s) : Keeps s0 (updPower s f) := by
  unfold updPower
  exact mk_power_keeps hs

theorem updRel_keeps {f} (hs : Keeps s0 s) : Keeps s0 (updRel s f) := by
  unfold updRel
  exact mk_rel_keeps hs

theorem updMgmt_keeps {f} (hs : Keeps s0 s) : Keeps s0 (updMgmt s f) := by
  unfold updMgmt
  exact mk_mgmt_keeps hs

theorem updOptics_keeps {f} (hs : Keeps s0 s) : Keeps s0 (updOptics s f) := by
  unfold updOptics
  exact mk_optics_keeps hs

theorem updSys_keeps {f} (hs : Keeps s0 s) : Keeps s0 (updSys s f) := by
  unfold updSys
  exact mk_sys_keeps hs

theorem updChip_keeps {f} (hs : Keeps s0 s) : Keeps s0 (updChip s f) := by
  unfold updChip
  exact mk_host_keeps rfl rfl hs

theorem updMac_keeps {m f} (hs : Keeps s0 s) : Keeps s0 (updMac s m f) := by
  unfold updMac
  exact updNet_keeps hs

theorem updPtp_keeps {m f} (hs : Keeps s0 s) : Keeps s0 (updPtp s m f) := by
  unfold updPtp
  exact updNet_keeps hs

theorem updPartPower_keeps {p f} (hs : Keeps s0 s) : Keeps s0 (updPartPower s p f) := by
  unfold updPartPower
  exact updPower_keeps hs

theorem setScratch_keeps {c m} (hm : Memory.wf (getCore s c).scratch = true → Memory.wf m = true) (hs : Keeps s0 s) :
    Keeps s0 (setScratch s c m) := by
  unfold setScratch
  exact updCore_keeps hm hs

/-! ### Functions, tills, messages, events, the error log -/

theorem updFn_keeps {f g} (hs : Keeps s0 s) : Keeps s0 (updFn s f g) := by
  unfold updFn
  exact mk_host_keeps rfl rfl hs

theorem emit_keeps {o} (hs : Keeps s0 s) : Keeps s0 (emit s o) := by
  unfold emit
  exact mk_sent_keeps hs

theorem sendVector_keeps {f v} (hs : Keeps s0 s) : Keeps s0 (sendVector s f v) := by
  unfold sendVector
  exact .ite hs (.ite (updFn_keeps hs) (.ite (updFn_keeps hs) (.ite (emit_keeps hs) (updFn_keeps (emit_keeps hs)))))

theorem setIrq_keeps {f cause mask} (hs : Keeps s0 s) : Keeps s0 (setIrq s f cause mask) := by
  unfold setIrq
  exact .ite (sendVector_keeps (updFn_keeps hs)) (updFn_keeps hs)

theorem raiseCause_keeps {f c} (hs : Keeps s0 s) : Keeps s0 (raiseCause s f c) := by
  unfold raiseCause
  exact setIrq_keeps hs

theorem setError_keeps {f b window offset} (hs : Keeps s0 s) : Keeps s0 (setError s f b window offset) := by
  unfold setError
  exact .ite hs (raiseCause_keeps (updFn_keeps hs))

theorem chipWrite_keeps {act} (hact : ∀ t, Keeps s0 t → Keeps s0 (act t)) (hs : Keeps s0 s) : Keeps s0 (chipWrite s act) := by
  unfold chipWrite
  exact .ite (hact _ hs) hs

theorem valueError_keeps {offset} (hs : Keeps s0 s) : Keeps s0 (valueError s offset) := by
  unfold valueError
  exact setError_keeps hs

theorem lockedWrite_keeps {f offset} (hs : Keeps s0 s) : Keeps s0 (lockedWrite s f offset) := by
  unfold lockedWrite
  exact updChip_keeps (setError_keeps hs)

theorem updTill_keeps {n g} (hs : Keeps s0 s) : Keeps s0 (updTill s n g) := by
  unfold updTill
  exact mk_host_keeps rfl rfl hs

theorem writeSlot_keeps {n bytes} (hs : Keeps s0 s) : Keeps s0 (writeSlot s n bytes) := by
  have hslot (a : Nat) : Keeps s0 { s with host := { s.host with
      tillMem := Mem.writeBytes (Mem.zero s.host.tillMem a (a + 64)) a (bytes.take 64) } } :=
    host_keeps (fun h => Memory.wf_writeBytes _ _ (Memory.wf_zero _ _ h)) id hs
  unfold writeSlot
  exact .ite (host_keeps id (fun h => Memory.wf_writeLe _ _ _ (Memory.wf_writeBytes _ _ h)) (updTill_keeps (hslot _))) (updTill_keeps
    (hslot _))

theorem writeSlots_keeps {n k bytes} (hs : Keeps s0 s) : Keeps s0 (writeSlots s n k bytes) := by
  induction k generalizing s bytes with
  | zero => exact hs
  | succ k ih => exact ih (writeSlot_keeps hs)

theorem armVector_keeps {n} (hs : Keeps s0 s) : Keeps s0 (armVector s n) := by
  unfold armVector
  exact .ite (sendVector_keeps (updTill_keeps hs)) hs

theorem dropEntry_keeps {n} (hs : Keeps s0 s) : Keeps s0 (dropEntry s n) := by
  unfold dropEntry
  exact updTill_keeps hs

theorem tillError_keeps {n reason} (hs : Keeps s0 s) : Keeps s0 (tillError s n reason) := by
  unfold tillError
  exact raiseCause_keeps (updTill_keeps hs)

theorem writeEntry_keeps {n bytes reserved} (hs : Keeps s0 s) : Keeps s0 (writeEntry s n bytes reserved) := by
  unfold writeEntry
  exact .ite (dropEntry_keeps (tillError_keeps hs)) (.ite (dropEntry_keeps hs) (armVector_keeps (writeSlots_keeps hs)))

theorem writeMessage_keeps {n opcode tag body reserved} (hs : Keeps s0 s) : Keeps s0 (writeMessage s n opcode tag body reserved) := by
  unfold writeMessage
  exact .ite (updTill_keeps (writeEntry_keeps (updTill_keeps hs))) (writeEntry_keeps (updTill_keeps hs))

theorem writeCompletion_keeps {n bytes} (hs : Keeps s0 s) : Keeps s0 (writeCompletion s n bytes) := by
  unfold writeCompletion
  exact .ite (writeEntry_keeps (updTill_keeps hs)) (writeMessage_keeps (updTill_keeps hs))

theorem mctpQueue_keeps {transport o} (hs : Keeps s0 s) : Keeps s0 (mctpQueue s transport o) := by
  unfold mctpQueue
  exact updMgmt_keeps hs

theorem mgmtComplete_keeps {via data} (hs : Keeps s0 s) : Keeps s0 (mgmtComplete s via data) := by
  unfold mgmtComplete
  exact mctpQueue_keeps hs

theorem mgmtEvent_keeps {opcode len body} (hs : Keeps s0 s) : Keeps s0 (mgmtEvent s opcode len body) := by
  unfold mgmtEvent
  exact updMgmt_keeps (mctpQueue_keeps hs)

theorem sendFrame_keeps {mac what dst vlan type payload} (hs : Keeps s0 s) : Keeps s0 (sendFrame s mac what dst vlan type payload) := by
  unfold sendFrame
  exact emit_keeps (updMac_keeps hs)

theorem serviceSend_keeps {svc v addr opcode tag body} (hs : Keeps s0 s) : Keeps s0 (serviceSend s svc v addr opcode tag body) := by
  unfold serviceSend
  exact sendFrame_keeps (updTill_keeps hs)

theorem complete_keeps {id d} (hs : Keeps s0 s) : Keeps s0 (complete s id d) := by
  unfold complete
  split
  · exact hs
  · dsimp only
    split
    · exact mgmtComplete_keeps (mk_host_keeps rfl rfl hs)
    · exact writeCompletion_keeps (mk_host_keeps rfl rfl hs)
    · split
      · exact serviceSend_keeps (mk_host_keeps rfl rfl hs)
      · exact mk_host_keeps rfl rfl hs

theorem completeWith_keeps {id status} (hs : Keeps s0 s) : Keeps s0 (completeWith s id status) := by
  unfold completeWith
  exact complete_keeps hs

theorem partEvent_keeps {p opcode len body} (hs : Keeps s0 s) : Keeps s0 (partEvent s p opcode len body) := by
  unfold partEvent
  exact writeMessage_keeps hs

theorem deviceEvent_keeps {opcode len body} (hs : Keeps s0 s) : Keeps s0 (deviceEvent s opcode len body) := by
  unfold deviceEvent
  exact mgmtEvent_keeps (writeMessage_keeps hs)

theorem sendDeviceEvent_keeps {kind unit index enabled} (hs : Keeps s0 s) : Keeps s0 (sendDeviceEvent s kind unit index enabled) := by
  unfold sendDeviceEvent
  exact deviceEvent_keeps hs

theorem sendPowerEvent_keeps {kind part value} (hs : Keeps s0 s) : Keeps s0 (sendPowerEvent s kind part value) := by
  unfold sendPowerEvent
  dsimp only
  split
  · exact deviceEvent_keeps hs
  · exact partEvent_keeps hs

theorem tillFails_keeps {n reason} (hs : Keeps s0 s) : Keeps s0 (tillFails s n reason) := by
  unfold tillFails
  exact .ite (tillError_keeps hs) (writeMessage_keeps (tillError_keeps hs))

theorem log_keeps {cls unitKind unitIndex detail part action} (hs : Keeps s0 s) : Keeps s0
    (log s cls unitKind unitIndex detail part action) := by
  unfold log
  exact .ite (updRel_keeps (updRel_keeps hs)) (updRel_keeps (updRel_keeps hs))

theorem logConfig_keeps {index detail} (hs : Keeps s0 s) : Keeps s0 (logConfig s index detail) := by
  unfold logConfig
  exact log_keeps hs

/-! ### Partitions, tallies, the ledger, invocations -/

theorem updPart_keeps {p f} (hs : Keeps s0 s) : Keeps s0 (updPart s p f) := by
  unfold updPart
  exact updWork_keeps rfl rfl hs

theorem wf_hbmWriteIn {q : Part} {a bs} {m : Mem} (h : Memory.wf m = true) : Memory.wf (hbmWriteIn m q a bs) = true := by
  induction bs generalizing m a with
  | nil => exact h
  | cons b bs ih =>
    unfold hbmWriteIn
    apply ih
    split
    · exact Memory.wf_write _ _ h
    · exact h

theorem hbmWrite_keeps {p a bs} (hs : Keeps s0 s) : Keeps s0 (hbmWrite s p a bs) := by
  unfold hbmWrite
  split
  · exact updWork_hbm_keeps wf_hbmWriteIn rfl hs
  · exact hs

theorem charge_keeps {p kind client d} (hs : Keeps s0 s) : Keeps s0 (charge s p kind client d) := by
  unfold charge
  exact updWork_keeps rfl rfl hs

theorem chargeJob_keeps {h d} (hs : Keeps s0 s) : Keeps s0 (chargeJob s h d) := by
  unfold chargeJob
  split
  · exact charge_keeps hs
  · exact hs

theorem clientEnds_keeps {p kind client} (hs : Keeps s0 s) : Keeps s0 (clientEnds s p kind client) := by
  unfold clientEnds
  exact updWork_keeps rfl rfl hs

theorem chargeUse_keeps {h i amount d} (hs : Keeps s0 s) : Keeps s0 (chargeUse s h i amount d) := by
  unfold chargeUse
  split
  · exact hs
  · exact .ite (updRun_keeps hs) (chargeJob_keeps hs)

theorem updTally_keeps {t f} (hs : Keeps s0 s) : Keeps s0 (updTally s t f) := by
  unfold updTally
  exact updWork_keeps rfl rfl hs

theorem tallyAdd_keeps {t amount source time core} (hs : Keeps s0 s) : Keeps s0 (tallyAdd s t amount source time core).1 := by
  unfold tallyAdd
  dsimp only
  split
  · dsimp only
    exact updTally_keeps hs
  · dsimp only
    exact updTally_keeps hs

theorem relneSend_keeps {ports what data} (hs : Keeps s0 s) : Keeps s0 (relneSend s ports what data) := by
  unfold relneSend
  exact .foldl _ (fun t ht _ => emit_keeps ht) hs

theorem jobTallyAdd_keeps {h i amount source core} (hs : Keeps s0 s) : Keeps s0 (jobTallyAdd s h i amount source core).1 := by
  unfold jobTallyAdd
  split
  · exact hs
  · dsimp only
    split
    · split
      · dsimp only
        exact relneSend_keeps (tallyAdd_keeps hs)
      · exact tallyAdd_keeps hs
    · exact tallyAdd_keeps hs

theorem startRinse_keeps {parts use} (hs : Keeps s0 s) : Keeps s0 (startRinse s parts use) := by
  unfold startRinse
  exact updWork_keeps rfl rfl (.foldl _ (fun t ht _ => updCore_keeps id ht) hs)

theorem installTables_keeps {h i} (hs : Keeps s0 s) : Keeps s0 (installTables s h i) := by
  unfold installTables
  exact updCore_keeps id (updEng_keeps hs)

theorem takeCore_keeps {h i} (hs : Keeps s0 s) : Keeps s0 (takeCore s h i) := by
  unfold takeCore
  exact .ite hs (installTables_keeps hs)

theorem clearVector_keeps {h i} (hs : Keeps s0 s) : Keeps s0 (clearVector s h i) := by
  unfold clearVector
  exact .ite (updEng_keeps hs) hs

theorem installSignal_keeps {i} (hs : Keeps s0 s) : Keeps s0 (installSignal s i) := by
  unfold installSignal
  exact updEng_keeps hs

theorem stopUnits_keeps {c} (hs : Keeps s0 s) : Keeps s0 (stopUnits s c) := by
  unfold stopUnits
  exact updEng_keeps hs

theorem dropDebug_keeps {c} (hs : Keeps s0 s) : Keeps s0 (dropDebug s c) := by
  unfold dropDebug
  exact .ite hs (.foldl _ (fun t ht _ => completeWith_keeps ht) (updEng_keeps hs))

theorem combineDigest_keeps {h point epoch} (hs : Keeps s0 s) : Keeps s0 (combineDigest s h point epoch) := by
  unfold combineDigest
  split
  · exact hs
  · split
    · exact hs
    · split
      · exact hs
      · exact updJob_keeps (.ite hs (hbmWrite_keeps hs))

theorem combineAll_keeps {h} (hs : Keeps s0 s) : Keeps s0 (combineAll s h) := by
  unfold combineAll
  split
  · exact hs
  · exact .foldl _ (fun t ht _ => combineDigest_keeps ht) hs

theorem testClip_keeps {h epoch station entry} (hs : Keeps s0 s) : Keeps s0 (testClip h epoch station s entry) := by
  unfold testClip
  split
  · exact hs
  · split
    · exact hs
    · split
      · exact hs
      · exact .ite (partEvent_keeps (updRun_keeps hs)) (updRun_keeps hs)

theorem testClips_keeps {h} (hs : Keeps s0 s) : Keeps s0 (testClips s h) := by
  unfold testClips
  split
  · exact hs
  · split
    · exact hs
    · exact .foldl _ (fun t ht _ => .foldl _ (fun t' ht' _ => testClip_keeps ht') ht) hs

theorem chargeClient_keeps {i client d} (hs : Keeps s0 s) : Keeps s0 (chargeClient s i client d) := by
  unfold chargeClient
  split
  · exact charge_keeps hs
  · exact hs

theorem divideUse_keeps {h i b} (hs : Keeps s0 s) : Keeps s0 (divideUse s h i b) := by
  unfold divideUse
  split
  · split
    · exact hs
    · refine updRun_keeps ?_
      refine .foldl _ (fun t ht _ => ?_) hs
      dsimp only
      split
      · exact chargeClient_keeps ht
      · exact charge_keeps ht
  · exact hs

theorem divideHeld_keeps {h} (hs : Keeps s0 s) : Keeps s0 (divideHeld s h) := by
  unfold divideHeld
  split
  · exact hs
  · split
    · exact hs
    · split
      · exact hs
      · exact divideUse_keeps hs

theorem divideServices_keeps {p} (hs : Keeps s0 s) : Keeps s0 (divideServices s p) := by
  unfold divideServices
  exact .foldl _ (fun t ht _ => divideHeld_keeps ht) hs

theorem chargeEach_keeps {h d} (hs : Keeps s0 s) : Keeps s0 (chargeEach s h d) := by
  unfold chargeEach
  split
  · exact hs
  · split
    · exact .foldl _ (fun t ht _ => chargeClient_keeps ht) hs
    · exact chargeJob_keeps hs

theorem writeJobRecord_keeps {j r status} (hs : Keeps s0 s) : Keeps s0 (writeJobRecord s j r status) := by
  unfold writeJobRecord
  exact .ite hs (hbmWrite_keeps (hbmWrite_keeps hs))

theorem retainSegs_keeps {j} (hs : Keeps s0 s) : Keeps s0 (retainSegs s j) := by
  unfold retainSegs
  exact .foldl _ (fun t ht _ => updCore_keeps id ht) hs

theorem leaveCores_keeps {h j} (hs : Keeps s0 s) : Keeps s0 (leaveCores s h j) := by
  unfold leaveCores
  exact .foldl _ (fun t ht _ => updCore_keeps id ht) hs

theorem clearEngines_keeps {c} (hs : Keeps s0 s) : Keeps s0 (clearEngines s c) := by
  unfold clearEngines
  exact updCore_keeps id (updEng_keeps hs)

theorem handBack_keeps {c} (hs : Keeps s0 s) : Keeps s0 (handBack s c) := by
  unfold handBack
  dsimp only
  split
  · exact clearEngines_keeps (updCore_keeps id hs)
  · split
    · exact updCore_keeps id hs
    · split
      · exact updCore_keeps id hs
      · exact installTables_keeps (updCore_keeps id hs)

theorem releaseCore_keeps {c} (hs : Keeps s0 s) : Keeps s0 (releaseCore s c) := by
  unfold releaseCore
  exact .ite hs (.ite (handBack_keeps hs) (startRinse_keeps hs))

theorem endInvocation_keeps {h status words} (hs : Keeps s0 s) : Keeps s0 (endInvocation s h status words) := by
  unfold endInvocation
  dsimp only
  split
  · exact divideHeld_keeps (testClips_keeps (combineAll_keeps hs))
  · split
    · exact divideHeld_keeps (testClips_keeps (combineAll_keeps hs))
    · refine .foldl _ (fun t ht _ => releaseCore_keeps (dropDebug_keeps ht)) ?_
      refine updJob_keeps ?_
      refine retainSegs_keeps ?_
      refine leaveCores_keeps ?_
      refine .foldl _ (fun t ht _ => complete_keeps ht) ?_
      refine .foldl _ (fun t ht _ => completeWith_keeps ht) ?_
      split
      · exact complete_keeps (chargeJob_keeps (writeJobRecord_keeps (divideHeld_keeps (testClips_keeps (combineAll_keeps hs)))))
      · exact chargeJob_keeps (writeJobRecord_keeps (divideHeld_keeps (testClips_keeps (combineAll_keeps hs))))

theorem noteSelectors_keeps {h q far} (hs : Keeps s0 s) : Keeps s0 (noteSelectors s h q far) := by
  unfold noteSelectors
  exact updJob_keeps hs

theorem landWrite_keeps {p t} (hs : Keeps s0 s) : Keeps s0 (landWrite s p t) := by
  unfold landWrite
  refine .ite ?_ (.ite (.foldl _ (fun u hu _ => updCore_keeps (wf_foldl _ fun m hm _ => Memory.wf_writeBytes _ _ hm) hu) hs) hs)
  split
  · exact noteSelectors_keeps (updWork_hbm_keeps (wf_foldl _ fun m hm _ => Memory.wf_writeBytes _ _ hm) rfl hs)
  · exact hs

theorem dropTxns_keeps {h j} (hs : Keeps s0 s) : Keeps s0 (dropTxns s h j) := by
  unfold dropTxns
  exact .foldl _ (fun t ht _ => updCore_keeps id (.foldl _ (fun t' ht' _ => landWrite_keeps ht') ht)) hs

theorem abortInvocation_keeps {h status words lost} (hs : Keeps s0 s) : Keeps s0 (abortInvocation s h status words lost) := by
  unfold abortInvocation
  split
  · exact hs
  · split
    · exact hs
    · exact .ite hs (startRinse_keeps (updJob_keeps (.foldl _ (fun t ht _ => .ite (stopUnits_keeps ht) ht) (dropTxns_keeps hs))))

theorem memoryFault_keeps {h cause stream page core segment} (hs : Keeps s0 s) : Keeps s0
    (memoryFault s h cause stream page core segment) := by
  unfold memoryFault
  exact abortInvocation_keeps hs

theorem clearArrivals_keeps {j} (hs : Keeps s0 s) : Keeps s0 (clearArrivals s j) := by
  unfold clearArrivals
  exact .foldl _ (fun t ht _ => updTally_keeps ht) hs

theorem copyConstants_keeps {i} (hs : Keeps s0 s) : Keeps s0 (copyConstants s i) := by
  unfold copyConstants
  exact updCore_keeps (wf_foldl _ fun m hm _ => Memory.wf_writeBytes _ _ hm) hs

theorem requestYield_keeps {c} (hs : Keeps s0 s) : Keeps s0 (requestYield s c) := by
  unfold requestYield
  dsimp only
  split
  · exact hs
  · exact .ite hs (updInst_keeps (updCore_keeps id hs))

theorem claimCore_keeps {h i} (hs : Keeps s0 s) : Keeps s0 (claimCore s h i) := by
  unfold claimCore
  exact .ite (takeCore_keeps (updCore_keeps id hs)) (requestYield_keeps (updCore_keeps id hs))

theorem startInvocation_keeps {h ticket jobStart} (hs : Keeps s0 s) : Keeps s0 (startInvocation s h ticket jobStart) := by
  unfold startInvocation
  split
  · exact hs
  · exact .ite (.foldl _ (fun t ht _ => updCore_keeps id ht) (.ite (.foldl _ (fun t ht _ => .ite (clearVector_keeps
      (copyConstants_keeps ht)) (installSignal_keeps (clearVector_keeps (copyConstants_keeps ht)))) (putJob_keeps (.ite
      (clearArrivals_keeps hs) hs))) (putJob_keeps (.ite (clearArrivals_keeps hs) hs)))) (.foldl _ (fun t ht _ => claimCore_keeps ht)
      (.ite (.foldl _ (fun t ht _ => .ite (clearVector_keeps (copyConstants_keeps ht)) (installSignal_keeps (clearVector_keeps
      (copyConstants_keeps ht)))) (putJob_keeps (.ite (clearArrivals_keeps hs) hs))) (putJob_keeps (.ite (clearArrivals_keeps hs) hs))))

theorem rinseDone_keeps {x1} (hs : Keeps s0 s) : Keeps s0 (rinseDone s x1) := by
  unfold rinseDone
  split
  · exact endInvocation_keeps hs
  · exact hs
  · exact completeWith_keeps hs
  · exact updCore_keeps id hs
  · exact handBack_keeps hs
  · exact hs

theorem settleRinses_keeps (hs : Keeps s0 s) : Keeps s0 (settleRinses s) := by
  unfold settleRinses
  exact .foldl _ (fun t ht _ => rinseDone_keeps ht) (updWork_keeps rfl rfl hs)

theorem abortRun_keeps {h status words lost} (hs : Keeps s0 s) : Keeps s0 (abortRun s h status words lost) := by
  unfold abortRun
  exact settleRinses_keeps (abortInvocation_keeps hs)

theorem abortWhere_keeps {p status words lost} (hs : Keeps s0 s) : Keeps s0 (abortWhere s p status words lost) := by
  unfold abortWhere
  exact .foldl _ (fun t ht _ => abortRun_keeps ht) hs

/-! ### The signal unit -/

theorem updSig_keeps {c f} (hs : Keeps s0 s) : Keeps s0 (updSig s c f) := by
  unfold updSig
  exact updEng_keeps hs

theorem aluRun_keeps {op f c} (hs : Keeps s0 s) : OutKeeps s0 (aluRun op f c s) := by
  unfold aluRun
  split
  · exact .next hs
  · exact .ite (.next hs) (.next (.ite (updSig_keeps hs) (countRun_keeps (updSig_keeps hs))))

theorem ctlRun_keeps {op f c} (hs : Keeps s0 s) : OutKeeps s0 (ctlRun op f c s) := by
  unfold ctlRun
  split
  · exact .next hs
  · exact .ite (.next hs) (.next (updSig_keeps hs))

theorem sigMem_keeps {op f c} (hf : ∀ x1 x2 x3 t, Keeps s0 t → Keeps s0 (f x1 x2 x3 t)) (hs : Keeps s0 s) : OutKeeps s0
    (sigMem op f c s) := by
  unfold sigMem
  split
  · exact .ite (.next hs) (.next (updSig_keeps (hf _ _ _ _ hs)))
  · exact .next hs

theorem wf_viewWrite {i : Inst} {b bs} {m : Mem} (h : Memory.wf m = true) : Memory.wf (viewWrite m i b bs) = true := by
  induction bs generalizing m b with
  | nil => exact h
  | cons x xs ih => exact ih (Memory.wf_write _ _ h)

theorem execPut_keeps {c} (hs : Keeps s0 s) : OutKeeps s0 (execPut c s) := by
  unfold execPut
  refine sigMem_keeps (fun _ _ _ t ht => ?_) hs
  exact .ite (.ite (setScratch_keeps wf_viewWrite (updSig_keeps ht)) (countRun_keeps (setScratch_keeps wf_viewWrite (updSig_keeps ht))))
    (setScratch_keeps wf_viewWrite (updSig_keeps ht))

/-! ### The vector engine -/

theorem updVec_keeps {c f} (hs : Keeps s0 s) : Keeps s0 (updVec s c f) := by
  unfold updVec
  exact updEng_keeps hs

theorem vecRun_keeps {op f c} (hs : Keeps s0 s) : OutKeeps s0 (vecRun op f c s) := by
  unfold vecRun
  split
  · exact .next hs
  · exact .next (.ite (updVec_keeps hs) (countRun_keeps (updVec_keeps hs)))

theorem vecMem_keeps {op f c} (hf : ∀ x1 x2 x3 t, Keeps s0 t → Keeps s0 (f x1 x2 x3 t)) (hs : Keeps s0 s) : OutKeeps s0
    (vecMem op f c s) := by
  unfold vecMem
  split
  · exact .next (updVec_keeps (hf _ _ _ _ hs))
  · exact .next hs

theorem execVstacc_keeps {c} (hs : Keeps s0 s) : OutKeeps s0 (execVstacc c s) := by
  unfold execVstacc
  split
  · exact .next hs
  · exact .next (updEng_keeps hs)

/-! ### Streams, transactions, posts -/

theorem post_keeps {c u w} (hs : Keeps s0 s) : Keeps s0 (post s c u w) := by
  unfold post
  refine .ite hs ?_
  split
  · exact hs
  · exact .ite (jobTallyAdd_keeps hs) (abortRun_keeps (jobTallyAdd_keeps hs))

theorem begun_keeps {c u} (hs : Keeps s0 s) : Keeps s0 (begun s c u) := by
  unfold begun
  exact .ite (.ite (chargeJob_keeps (updRun_keeps hs)) (updRun_keeps hs)) hs

theorem advance_keeps {c u} (hs : Keeps s0 s) : Keeps s0 (advance s c u) := by
  unfold advance
  exact updInst_keeps (.ite (begun_keeps hs) hs)

theorem issueAtOnce_keeps {c u w} (hs : Keeps s0 s) : Keeps s0 (issueAtOnce s c u w) := by
  unfold issueAtOnce
  exact post_keeps (advance_keeps hs)

theorem issueTimed_keeps {c u w x open_} (hs : Keeps s0 s) : Keeps s0 (issueTimed s c u w x open_) := by
  unfold issueTimed
  exact updInst_keeps (advance_keeps hs)

theorem startVec_keeps {c w} (hs : Keeps s0 s) : Keeps s0 (startVec s c w) := by
  unfold startVec
  exact updEng_keeps hs

theorem startSig_keeps {c w} (hs : Keeps s0 s) : Keeps s0 (startSig s c w) := by
  unfold startSig
  exact updEng_keeps hs

theorem issueMover_keeps {c u w} (hs : Keeps s0 s) : Keeps s0 (issueMover s c u w) := by
  unfold issueMover
  split
  · exact hs
  · dsimp only
    split
    · exact memoryFault_keeps (advance_keeps hs)
    · exact updCore_keeps id (issueTimed_keeps hs)

theorem landOn_keeps {j c near data} (hs : Keeps s0 s) : Keeps s0 (landOn s j c near data) := by
  unfold landOn
  split
  · exact hs
  · exact updCore_keeps (wf_foldl _ fun m hm _ => Memory.wf_writeBytes _ _ hm) hs

theorem landTxn_keeps {c j t} (hs : Keeps s0 s) : Keeps s0 (landTxn s c j t) := by
  unfold landTxn
  dsimp only
  split
  · refine .ite ?_ ?_
    · split
      · exact landOn_keeps hs
      · exact landOn_keeps hs
      · exact .foldl _ (fun t' ht _ => landOn_keeps ht) hs
      · exact landWrite_keeps hs
    · refine chargeUse_keeps ?_
      split
      · exact landOn_keeps hs
      · exact landOn_keeps hs
      · exact .foldl _ (fun t' ht _ => landOn_keeps ht) hs
      · exact landWrite_keeps hs
  · refine .ite ?_ ?_
    · split
      · exact landOn_keeps hs
      · exact landOn_keeps hs
      · exact .foldl _ (fun t' ht _ => landOn_keeps ht) hs
      · exact landWrite_keeps hs
    · refine chargeUse_keeps ?_
      split
      · exact landOn_keeps hs
      · exact landOn_keeps hs
      · exact .foldl _ (fun t' ht _ => landOn_keeps ht) hs
      · exact landWrite_keeps hs
  · refine .ite ?_ ?_
    · split
      · exact landOn_keeps hs
      · exact landOn_keeps hs
      · exact .foldl _ (fun t' ht _ => landOn_keeps ht) hs
      · exact landWrite_keeps hs
    · refine chargeUse_keeps ?_
      split
      · exact landOn_keeps hs
      · exact landOn_keeps hs
      · exact .foldl _ (fun t' ht _ => landOn_keeps ht) hs
      · exact landWrite_keeps hs
  · split
    · exact landOn_keeps hs
    · exact landOn_keeps hs
    · exact .foldl _ (fun t' ht _ => landOn_keeps ht) hs
    · exact landWrite_keeps hs

theorem txnDone_keeps {c t} (hs : Keeps s0 s) : Keeps s0 (txnDone s c t) := by
  unfold txnDone
  exact updInst_keeps hs

theorem deadlineMiss_keeps {c u lateNs} (hs : Keeps s0 s) : Keeps s0 (deadlineMiss s c u lateNs) := by
  unfold deadlineMiss
  exact chargeJob_keeps (partEvent_keeps hs)

theorem settleSelects_keeps {h} (hs : Keeps s0 s) : Keeps s0 (settleSelects s h) := by
  unfold settleSelects
  split
  · exact hs
  · split
    · exact hs
    · exact updRun_keeps (.foldl _ (fun t ht _ => complete_keeps ht) hs)

theorem beginEpoch_keeps {c u plan} (hs : Keeps s0 s) : Keeps s0 (beginEpoch s c u plan) := by
  unfold beginEpoch
  exact settleSelects_keeps (.ite (updEng_keeps (updInst_keeps (.ite (deadlineMiss_keeps hs) hs))) (begun_keeps (updEng_keeps
    (updInst_keeps (.ite (deadlineMiss_keeps hs) hs)))))

theorem endEpochOn_keeps {c u} (hs : Keeps s0 s) : Keeps s0 (endEpochOn s c u) := by
  unfold endEpochOn
  exact .ite (endInvocation_keeps (updInst_keeps hs)) (updInst_keeps hs)

theorem takeDigest_keeps {c u w} (hs : Keeps s0 s) : Keeps s0 (takeDigest s c u w) := by
  unfold takeDigest
  exact .ite (updRun_keeps hs) hs

theorem haltForYield_keeps {c u w} (hs : Keeps s0 s) : Keeps s0 (haltForYield s c u w) := by
  unfold haltForYield
  exact updInst_keeps hs

theorem MintJob.wf_tile (j : MintJob) (acc : Tbl (BitVec 32)) (t : Nat) {x : MintRun} (h : Memory.wf x.mem = true) :
    Memory.wf (j.tile acc t x).mem = true := by
  have hrows (slot k p : Nat) (l : List Nat) : ∀ y : MintRun, Memory.wf y.mem = true →
      Memory.wf (l.foldl (fun y r => j.row acc slot t k p r y) y).mem = true := by
    induction l with
    | nil => exact fun _ hy => hy
    | cons r l ih => exact fun y hy => ih _ (Memory.wf_writeBytes _ _ hy)
  have hplanes (slot k : Nat) (l : List Nat) : ∀ y : MintRun, Memory.wf y.mem = true →
      Memory.wf (l.foldl (fun y p => (List.range j.out.rows).foldl (fun y r => j.row acc slot t k p r y) y) y).mem = true := by
    induction l with
    | nil => exact fun _ hy => hy
    | cons p l ih => exact fun y hy => ih _ (hrows slot k p _ y hy)
  unfold MintJob.tile
  dsimp only
  split
  · exact h
  · exact hplanes _ _ _ _ h

theorem MintJob.wf_tiles (j : MintJob) (acc : Tbl (BitVec 32)) (l : List Nat) {x : MintRun} (h : Memory.wf x.mem = true) :
    Memory.wf (l.foldl (fun x t => j.tile acc t x) x).mem = true := by
  induction l generalizing x with
  | nil => exact h
  | cons t l ih => exact ih (j.wf_tile acc t h)

/-! ### The mint -/

theorem runMint_keeps {c u w} (hs : Keeps s0 s) : Keeps s0 (runMint s c u w) := by
  unfold runMint
  exact updRun_keeps (updInst_keeps (setScratch_keeps (fun h => (mintJob u w).wf_tiles _ _ h) hs))

/-! ### Taking commands -/

theorem refuse_keeps {status} (hs : Keeps s0 s) : Keeps s0 (refuse s status).1 := by
  unfold refuse
  exact hs

theorem whenOk_keeps {check act} (hs : Keeps s0 s) (ha : Keeps s0 act.1) : Keeps s0 (whenOk s check act).1 := by
  cases check with
  | none => exact ha
  | some st => exact hs

theorem openTicket_keeps {op m reply} (hs : Keeps s0 s) : Keeps s0 (openTicket s op m reply) := by
  unfold openTicket
  dsimp only
  split
  · exact updTill_keeps (mk_host_keeps rfl rfl hs)
  · exact mk_host_keeps rfl rfl hs

theorem settleByes_keeps (hs : Keeps s0 s) : Keeps s0 (settleByes s) := by
  unfold settleByes
  exact .foldl _ (fun t ht _ => completeWith_keeps ht) (mk_host_keeps rfl rfl hs)

theorem endSession_keeps {x1} (hs : Keeps s0 s) : Keeps s0 (endSession s x1) := by
  unfold endSession
  split
  · exact updFn_keeps hs
  · exact mk_host_keeps rfl rfl hs
  · exact hs

theorem carryOut_keeps {op tid ver m carry} (hcarry : ∀ x1 t, Keeps s0 t → Keeps s0 (carry x1 t).1) (hs : Keeps s0 s) : Keeps s0
    (carryOut op tid ver m carry s) := by
  unfold carryOut
  refine settleByes_keeps ?_
  split
  · exact complete_keeps (hcarry _ _ hs)
  · exact hcarry _ _ hs

theorem takeCommand_keeps {op m} {entry : Option (Nat × (Nat → Bool) × Carry)}
    (hcarry : ∀ e, entry = some e → ∀ c t, Keeps s0 t → Keeps s0 (e.2.2 c t).1) (hs : Keeps s0 s) : OptKeeps s0
      (takeCommand op entry m s) := by
  unfold takeCommand
  refine .ite .none ?_
  dsimp only
  split
  · exact .ite (.some (mk_host_keeps rfl rfl (openTicket_keeps hs)))
      (.some (carryOut_keeps (hcarry _ rfl) (openTicket_keeps hs)))
  · refine .some (.ite ?_ (completeWith_keeps (openTicket_keeps hs)))
    split
    · exact tillFails_keeps (completeWith_keeps (openTicket_keeps hs))
    · exact completeWith_keeps (openTicket_keeps hs)

theorem runCommand_keeps {op since len m} {carry : Carry} (hcarry : ∀ c t, Keeps s0 t → Keeps s0 (carry c t).1) (hs : Keeps s0 s) :
    OutKeeps s0 (runCommand op since len carry m s) := by
  unfold runCommand
  exact .next (.getD (takeCommand_keeps (fun e he => by cases he; exact hcarry) hs) hs)

theorem finish_keeps {id d} (hs : Keeps s0 s) : Keeps s0 (finish s id d) := by
  unfold finish
  exact settleByes_keeps (complete_keeps hs)

/-! ### Voltage floors -/

theorem updDie_keeps {d f} (hs : Keeps s0 s) : Keeps s0 (updDie s d f) := by
  unfold updDie
  exact updPower_keeps hs

theorem commandPoint_keeps {d p} (hs : Keeps s0 s) : Keeps s0 (commandPoint s d p) := by
  unfold commandPoint
  exact emit_keeps (updDie_keeps hs)

theorem raiseFloors_keeps (hs : Keeps s0 s) : Keeps s0 (raiseFloors s) := by
  unfold raiseFloors
  exact .foldl _ (fun t ht _ => .ite (commandPoint_keeps ht) ht) hs

/-! ### Jobs -/

theorem bindGroups_keeps {j} (hs : Keeps s0 s) : Keeps s0 (bindGroups s j) := by
  unfold bindGroups
  exact .foldl _ (fun t ht _ => updTally_keeps ht) hs

theorem freeGroups_keeps {j} (hs : Keeps s0 s) : Keeps s0 (freeGroups s j) := by
  unfold freeGroups
  exact .foldl _ (fun t ht _ => updTally_keeps ht) hs

theorem rebindJob_keeps {h j} (hs : Keeps s0 s) : Keeps s0 (rebindJob s h j) := by
  unfold rebindJob
  refine bindGroups_keeps ?_
  refine putJob_keeps ?_
  split
  · exact freeGroups_keeps hs
  · exact hs

theorem placeAgain_keeps {h j} (hs : Keeps s0 s) : Keeps s0 (placeAgain s h j) := by
  unfold placeAgain
  exact startRinse_keeps (raiseFloors_keeps (rebindJob_keeps hs))

theorem installJob_keeps {ticket j} (hs : Keeps s0 s) : Keeps s0 (installJob s ticket j) := by
  unfold installJob
  exact startRinse_keeps (updWork_keeps rfl rfl (raiseFloors_keeps (bindGroups_keeps (updWork_keeps rfl rfl hs))))

theorem dropJob_keeps {h} (hs : Keeps s0 s) : Keeps s0 (dropJob s h) := by
  unfold dropJob
  split
  · exact hs
  · refine updWork_keeps rfl rfl ?_
    split
    · exact updPower_keeps (freeGroups_keeps (leaveCores_keeps hs))
    · exact clientEnds_keeps (updPower_keeps (freeGroups_keeps (leaveCores_keeps hs)))

theorem CoreCtl.wf_zeroSegs {l : List Nat} {k : CoreCtl} (h : Memory.wf k.scratch = true) :
    Memory.wf (l.foldl (fun k n => k.zeroSeg n) k).scratch = true := by
  induction l generalizing k with
  | nil => exact h
  | cons n l ih => exact ih (k := k.zeroSeg n) (Memory.wf_zero _ _ h)

theorem restSegs_keeps {c} (hs : Keeps s0 s) : Keeps s0 (restSegs s c) := by
  unfold restSegs
  refine updCore_keeps (fun h => ?_) hs
  split
  · exact h
  · exact CoreCtl.wf_zeroSegs (k := (getCore s c).setPower _ .off) h

theorem settleHostLoads_keeps (hs : Keeps s0 s) : Keeps s0 (settleHostLoads s) := by
  unfold settleHostLoads
  exact .foldl _ (fun t ht _ => finish_keeps (retainSegs_keeps ht)) (updWork_keeps rfl rfl hs)

theorem carryJobLoad_keeps {c} (hs : Keeps s0 s) : Keeps s0 (carryJobLoad c s).1 := by
  unfold carryJobLoad
  dsimp only
  split
  · exact whenOk_keeps hs hs
  · refine whenOk_keeps hs ?_
    split
    · exact hs
    · split
      · exact refuse_keeps hs
      · split
        · exact hs
        · dsimp only
          exact updWork_keeps rfl rfl hs

theorem execPlacementComplete_keeps {ticket} (hs : Keeps s0 s) : OutKeeps s0 (execPlacementComplete ticket s) := by
  unfold execPlacementComplete
  refine .next ?_
  split
  · exact hs
  · dsimp only
    split
    · exact finish_keeps (updWork_keeps rfl rfl hs)
    · exact settleHostLoads_keeps (settleRinses_keeps (installJob_keeps (updWork_keeps rfl rfl hs)))

theorem startByHost_keeps {h j tid} (hs : Keeps s0 s) : Keeps s0 (startByHost s h j tid).1 := by
  unfold startByHost
  split
  · split
    · dsimp only
      exact updJob_keeps hs
    · dsimp only
      exact startInvocation_keeps (settleRinses_keeps (placeAgain_keeps hs))
  · dsimp only
    exact startInvocation_keeps hs

theorem carryJobStart_keeps {c} (hs : Keeps s0 s) : Keeps s0 (carryJobStart c s).1 := by
  unfold carryJobStart
  refine whenOk_keeps hs ?_
  split
  · exact startByHost_keeps hs
  · exact refuse_keeps hs

theorem stopAfterEpoch_keeps {h tid} (hs : Keeps s0 s) : Keeps s0 (stopAfterEpoch s h tid) := by
  unfold stopAfterEpoch
  split
  · exact hs
  · exact .ite (endInvocation_keeps (updRun_keeps hs)) (updRun_keeps hs)

theorem carryJobStop_keeps {c} (hs : Keeps s0 s) : Keeps s0 (carryJobStop c s).1 := by
  unfold carryJobStop
  refine whenOk_keeps hs ?_
  split
  · exact hs
  · split
    · dsimp only
      exact abortRun_keeps (updRun_keeps hs)
    · split
      · dsimp only
        exact updRun_keeps hs
      · dsimp only
        exact stopAfterEpoch_keeps hs

theorem unloadJob_keeps {h use} (hs : Keeps s0 s) : Keeps s0 (unloadJob s h use) := by
  unfold unloadJob
  split
  · exact hs
  · exact settleRinses_keeps (startRinse_keeps (dropJob_keeps hs))

theorem carryJobUnload_keeps {c} (hs : Keeps s0 s) : Keeps s0 (carryJobUnload c s).1 := by
  unfold carryJobUnload
  refine whenOk_keeps hs ?_
  dsimp only
  exact unloadJob_keeps hs

theorem carryPlanSelect_keeps {c} (hs : Keeps s0 s) : Keeps s0 (carryPlanSelect c s).1 := by
  unfold carryPlanSelect
  refine whenOk_keeps hs ?_
  split
  · exact refuse_keeps hs
  · split
    · dsimp only
      exact putJob_keeps hs
    · dsimp only
      exact updRun_keeps (.foldl _ (fun t ht _ => complete_keeps ht) hs)

theorem carryJobQuery_keeps {c} (hs : Keeps s0 s) : Keeps s0 (carryJobQuery c s).1 := by
  unfold carryJobQuery
  refine whenOk_keeps hs ?_
  split
  · exact refuse_keeps hs
  · exact hs

end

end Sys2Proof.Machine
end

section
/-! The network, the services, the radio chains and adaptation keep the queue, the fuses and the memories. -/

namespace Sys2Proof.Machine

section
variable {s0 s : State}

/-! ### Ethernet and the timing unit -/

theorem countRx_keeps {mac} (hs : Keeps s0 s) : Keeps s0 (countRx s mac) := by
  unfold countRx
  exact updMac_keeps hs

theorem execFrameDrop_keeps {mac frame} (hs : Keeps s0 s) : OutKeeps s0 (execFrameDrop mac frame s) := by
  unfold execFrameDrop
  refine .next ?_
  refine .ite hs ?_
  refine .ite (updMac_keeps hs) ?_
  refine .ite (updMac_keeps hs) ?_
  dsimp only
  split
  · exact .ite (countRx_keeps hs) (updMac_keeps (countRx_keeps hs))
  · split
    · exact updMac_keeps (countRx_keeps hs)
    · refine .ite ?_ (countRx_keeps hs)
      split
      · exact .ite (.ite (updMac_keeps (countRx_keeps hs)) (countRx_keeps hs)) (updMac_keeps (countRx_keeps hs))
      · exact updMac_keeps (countRx_keeps hs)
  · exact updMac_keeps (countRx_keeps hs)

theorem clearMacCounters_keeps {mac v} (hs : Keeps s0 s) : Keeps s0 (clearMacCounters mac v s) := by
  unfold clearMacCounters
  exact .ite (updMac_keeps hs) hs

theorem writeMacsec_keeps {mac v} (hs : Keeps s0 s) : Keeps s0 (writeMacsec mac v s) := by
  unfold writeMacsec
  exact .ite (valueError_keeps hs) (updMac_keeps hs)

theorem setUnits_keeps {u} (hs : Keeps s0 s) : Keeps s0 (setUnits s u) := by
  unfold setUnits
  exact updTiming_keeps hs

theorem setQuality_keeps {cls} (hs : Keeps s0 s) : Keeps s0 (setQuality s cls) := by
  unfold setQuality
  exact updTiming_keeps hs

theorem enterFreeRun_keeps {cls} (hs : Keeps s0 s) : Keeps s0 (enterFreeRun s cls) := by
  unfold enterFreeRun
  exact setQuality_keeps (updTiming_keeps hs)

theorem enterAcquiring_keeps (hs : Keeps s0 s) : Keeps s0 (enterAcquiring s) := by
  unfold enterAcquiring
  exact setQuality_keeps (updTiming_keeps hs)

theorem enterLocked_keeps {base} (hs : Keeps s0 s) : Keeps s0 (enterLocked s base) := by
  unfold enterLocked
  exact setQuality_keeps (updTiming_keeps hs)

theorem enterHoldover_keeps (hs : Keeps s0 s) : Keeps s0 (enterHoldover s) := by
  unfold enterHoldover
  exact setQuality_keeps (updTiming_keeps hs)

theorem sourceLost_keeps (hs : Keeps s0 s) : Keeps s0 (sourceLost s) := by
  unfold sourceLost
  refine .ite (updTiming_keeps hs) ?_
  split
  · exact enterHoldover_keeps (updTiming_keeps hs)
  · exact enterFreeRun_keeps (updTiming_keeps hs)
  · exact updTiming_keeps hs

theorem discipline_keeps {off} (hs : Keeps s0 s) : Keeps s0 (discipline s off) := by
  unfold discipline
  exact updTiming_keeps hs

theorem keepRate_keeps (hs : Keeps s0 s) : Keeps s0 (keepRate s) := by
  unfold keepRate
  exact updTiming_keeps hs

theorem acquire_keeps {off} (hs : Keeps s0 s) : Keeps s0 (acquire s off) := by
  unfold acquire
  refine .ite (updTiming_keeps (setUnits_keeps hs)) ?_
  dsimp only
  split
  · exact .ite (enterLocked_keeps (discipline_keeps (updTiming_keeps hs))) (discipline_keeps (updTiming_keeps hs))
  · exact discipline_keeps (updTiming_keeps hs)

theorem measured_keeps {off} (hs : Keeps s0 s) : Keeps s0 (measured s off) := by
  unfold measured
  refine .ite (updTiming_keeps hs) ?_
  split
  · exact acquire_keeps (enterAcquiring_keeps (updTiming_keeps hs))
  · exact acquire_keeps (updTiming_keeps hs)
  · exact keepRate_keeps (discipline_keeps (updTiming_keeps hs))
  · exact .ite (keepRate_keeps (discipline_keeps (enterLocked_keeps (updTiming_keeps hs)))) (acquire_keeps (enterAcquiring_keeps
      (updTiming_keeps hs)))

theorem bmca_keeps (hs : Keeps s0 s) : Keeps s0 (bmca s) := by
  unfold bmca
  exact updTiming_keeps (.foldl _ (fun t ht _ => updPtp_keeps ht) hs)

theorem ptpUnsupported_keeps {mac} (hs : Keeps s0 s) : Keeps s0 (ptpUnsupported s mac) := by
  unfold ptpUnsupported
  exact updPtp_keeps hs

theorem ptpTakes_keeps {rx} (hs : Keeps s0 s) : Keeps s0 (ptpTakes s rx).1 := by
  unfold ptpTakes
  dsimp only
  split
  · exact hs
  · split
    · dsimp only
      exact updMac_keeps (countRx_keeps hs)
    · split
      · dsimp only
        exact countRx_keeps hs
      · split
        · dsimp only
          exact ptpUnsupported_keeps (countRx_keeps hs)
        · split
          · dsimp only
            exact countRx_keeps hs
          · dsimp only
            exact countRx_keeps hs

theorem sendPtp_keeps {mac what peers msg} (hs : Keeps s0 s) : Keeps s0 (sendPtp s mac what peers msg) := by
  unfold sendPtp
  exact .ite (.foldl _ (fun t ht _ => sendFrame_keeps ht) hs) (sendFrame_keeps hs)

theorem bumpSeq_keeps {mac} (hs : Keeps s0 s) : Keeps s0 (bumpSeq s mac) := by
  unfold bumpSeq
  exact updPtp_keeps hs

theorem execPtpSync_keeps {rx twoStep t1 correction} (hs : Keeps s0 s) : OutKeeps s0 (execPtpSync rx twoStep t1 correction s) := by
  unfold execPtpSync
  refine .next ?_
  split
  · rename_i h
    have ht := Keeps.of_fst h (ptpTakes_keeps hs)
    exact ht
  · rename_i h
    have ht := Keeps.of_fst h (ptpTakes_keeps hs)
    refine .ite (ptpUnsupported_keeps ht) ?_
    refine .ite ht ?_
    dsimp only
    split
    · exact measured_keeps (updPtp_keeps ht)
    · exact updPtp_keeps ht

theorem execPtpDelayReq_keeps {rx requester seq} (hs : Keeps s0 s) : OutKeeps s0 (execPtpDelayReq rx requester seq s) := by
  unfold execPtpDelayReq
  refine .next ?_
  split
  · rename_i h
    have ht := Keeps.of_fst h (ptpTakes_keeps hs)
    exact ht
  · rename_i h
    have ht := Keeps.of_fst h (ptpTakes_keeps hs)
    exact .ite ht (sendPtp_keeps ht)

theorem execPtpDelayResp_keeps {rx t4 correction} (hs : Keeps s0 s) : OutKeeps s0 (execPtpDelayResp rx t4 correction s) := by
  unfold execPtpDelayResp
  refine .next ?_
  split
  · rename_i h
    have ht := Keeps.of_fst h (ptpTakes_keeps hs)
    exact ht
  · rename_i h
    have ht := Keeps.of_fst h (ptpTakes_keeps hs)
    split
    · exact .ite ht (updPtp_keeps ht)
    · exact ht

theorem execPtpAnnounce_keeps {rx a} (hs : Keeps s0 s) : OutKeeps s0 (execPtpAnnounce rx a s) := by
  unfold execPtpAnnounce
  refine .next ?_
  split
  · rename_i h
    have ht := Keeps.of_fst h (ptpTakes_keeps hs)
    exact ht
  · rename_i h
    have ht := Keeps.of_fst h (ptpTakes_keeps hs)
    refine .ite ?_ (bmca_keeps (.ite (updPtp_keeps ht) ht))
    dsimp only
    split
    · exact setQuality_keeps (updTiming_keeps (bmca_keeps (.ite (updPtp_keeps ht) ht)))
    · exact setQuality_keeps (updTiming_keeps (bmca_keeps (.ite (updPtp_keeps ht) ht)))
    · exact updTiming_keeps (bmca_keeps (.ite (updPtp_keeps ht) ht))

theorem execPtpSignaling_keeps {rx peer signal} (hs : Keeps s0 s) : OutKeeps s0 (execPtpSignaling rx peer signal s) := by
  unfold execPtpSignaling
  refine .next ?_
  split
  · rename_i h
    have ht := Keeps.of_fst h (ptpTakes_keeps hs)
    exact ht
  · rename_i h
    have ht := Keeps.of_fst h (ptpTakes_keeps hs)
    refine .ite ht ?_
    split
    · exact bumpSeq_keeps (sendPtp_keeps (.ite (updPtp_keeps ht) ht))
    · exact updPtp_keeps ht
    · exact updPtp_keeps ht

theorem writeTimingControl_keeps {v} (hs : Keeps s0 s) : Keeps s0 (writeTimingControl v s) := by
  unfold writeTimingControl
  refine .ite (valueError_keeps hs) ?_
  refine .ite (bmca_keeps (.ite (updTiming_keeps (updTiming_keeps hs)) (updTiming_keeps hs))) ?_
  split
  · exact .ite (enterFreeRun_keeps (bmca_keeps (.ite (updTiming_keeps (updTiming_keeps hs)) (updTiming_keeps hs))))
      (enterAcquiring_keeps (updTiming_keeps (bmca_keeps (.ite (updTiming_keeps (updTiming_keeps hs)) (updTiming_keeps hs)))))
  · exact .ite (enterFreeRun_keeps (updTiming_keeps (bmca_keeps (.ite (updTiming_keeps (updTiming_keeps hs)) (updTiming_keeps hs)))))
      (.ite (sourceLost_keeps (bmca_keeps (.ite (updTiming_keeps (updTiming_keeps hs)) (updTiming_keeps hs)))) (bmca_keeps (.ite
      (updTiming_keeps (updTiming_keeps hs)) (updTiming_keeps hs))))

theorem sendEsmc_keeps {event} (hs : Keeps s0 s) : Keeps s0 (sendEsmc s event) := by
  unfold sendEsmc
  exact .ite (.foldl _ (fun t ht _ => sendFrame_keeps ht) hs) hs

theorem execPpsInEdge_keeps {pin} (hs : Keeps s0 s) : OutKeeps s0 (execPpsInEdge pin s) := by
  unfold execPpsInEdge
  refine .next ?_
  refine .ite hs ?_
  dsimp only
  split
  · exact .ite (measured_keeps (updTiming_keeps hs)) (updTiming_keeps hs)
  · exact updTiming_keeps hs

theorem execTodMessage_keeps {data} (hs : Keeps s0 s) : OutKeeps s0 (execTodMessage data s) := by
  unfold execTodMessage
  refine .next ?_
  dsimp only
  split
  · exact hs
  · exact .ite (updTiming_keeps hs) hs

theorem applyTimeSet_keeps {v} (hs : Keeps s0 s) : Keeps s0 (applyTimeSet v s) := by
  unfold applyTimeSet
  exact .ite hs (.ite (valueError_keeps hs) (updTiming_keeps hs))

theorem latchTime_keeps {v} (hs : Keeps s0 s) : Keeps s0 (latchTime v s) := by
  unfold latchTime
  exact .ite (updTiming_keeps hs) hs

/-! ### Inference services -/

theorem updSvc_keeps {i f} (hs : Keeps s0 s) : Keeps s0 (updSvc s i f) := by
  unfold updSvc
  exact mk_services_keeps hs

theorem takePage_keeps {i t n} (h : takePage s i = some (t, n)) (hs : Keeps s0 s) : Keeps s0 t := by
  unfold takePage at h
  split at h
  · cases h
  · split at h
    · cases h
    · cases h
      exact updSvc_keeps (hbmWrite_keeps hs)

theorem startCopies_keeps {i} (hs : Keeps s0 s) : Keeps s0 (startCopies s i) := by
  unfold startCopies
  split
  · exact hs
  · exact .ite hs (updSvc_keeps hs)

theorem updSession_keeps {i id f} (hs : Keeps s0 s) : Keeps s0 (updSession s i id f) := by
  unfold updSession
  exact updSvc_keeps hs

theorem wakeSessions_keeps {i} (hs : Keeps s0 s) : Keeps s0 (wakeSessions s i) := by
  unfold wakeSessions
  exact updSvc_keeps hs

theorem wantPages_keeps {i x} (hs : Keeps s0 s) : Keeps s0 (wantPages s i x) := by
  unfold wantPages
  exact startCopies_keeps (updSvc_keeps hs)

theorem sendSessionEnd_keeps {i id addr reason} (hs : Keeps s0 s) : Keeps s0 (sendSessionEnd s i id addr reason) := by
  unfold sendSessionEnd
  split
  · exact serviceSend_keeps hs
  · exact hs

theorem dropSession_keeps {i id reason} (hs : Keeps s0 s) : Keeps s0 (dropSession s i id reason) := by
  unfold dropSession
  split
  · exact hs
  · dsimp only
    split
    · refine sendSessionEnd_keeps ?_
      refine updSvc_keeps ?_
      split
      · refine finish_keeps ?_
        refine .foldl _ (fun t ht _ => finish_keeps ht) ?_
        split
        · exact finish_keeps hs
        · exact hs
      · refine .foldl _ (fun t ht _ => finish_keeps ht) ?_
        split
        · exact finish_keeps hs
        · exact hs
    · refine .ite ?_ ?_
      · refine sendSessionEnd_keeps ?_
        refine updSvc_keeps ?_
        split
        · refine finish_keeps ?_
          refine .foldl _ (fun t ht _ => finish_keeps ht) ?_
          split
          · exact finish_keeps hs
          · exact hs
        · refine .foldl _ (fun t ht _ => finish_keeps ht) ?_
          split
          · exact finish_keeps hs
          · exact hs
      · refine clientEnds_keeps ?_
        refine sendSessionEnd_keeps ?_
        refine updSvc_keeps ?_
        split
        · refine finish_keeps ?_
          refine .foldl _ (fun t ht _ => finish_keeps ht) ?_
          split
          · exact finish_keeps hs
          · exact hs
        · refine .foldl _ (fun t ht _ => finish_keeps ht) ?_
          split
          · exact finish_keeps hs
          · exact hs

theorem closeService_keeps {i reason} (hs : Keeps s0 s) : Keeps s0 (closeService s i reason) := by
  unfold closeService
  split
  · exact hs
  · dsimp only
    split
    · exact finish_keeps (mk_services_keeps (updJob_keeps (.foldl _ (fun t ht _ => dropSession_keeps ht) hs)))
    · exact mk_services_keeps (updJob_keeps (.foldl _ (fun t ht _ => dropSession_keeps ht) hs))

theorem endGenerate_keeps {i id status reason} (hs : Keeps s0 s) : Keeps s0 (endGenerate s i id status reason) := by
  unfold endGenerate
  split
  · exact hs
  · split
    · exact hs
    · exact finish_keeps (updSession_keeps hs)

theorem writeStepBlock_keeps {i b} (hs : Keeps s0 s) : Keeps s0 (writeStepBlock s i b) := by
  unfold writeStepBlock
  split
  · exact hs
  · exact hbmWrite_keeps hs

theorem copyOnWrite_keeps {i id k} (hs : Keeps s0 s) : Keeps s0 (copyOnWrite s i id k) := by
  unfold copyOnWrite
  split
  · exact hs
  · rename_i h
    have ht := takePage_keeps h hs
    split
    · exact ht
    · dsimp only
      split
      · exact updSvc_keeps (updSession_keeps (hbmWrite_keeps ht))
      · exact ht

theorem preparePages_keeps {i id} (hs : Keeps s0 s) : Keeps s0 (preparePages s i id).1 := by
  unfold preparePages
  split
  · exact hs
  · dsimp only
    split
    · exact updSession_keeps hs
    · refine updSession_keeps (.foldl _ (fun t ht _ => ?_) (.foldl _ (fun t ht _ => copyOnWrite_keeps ht) hs))
      split
      · rename_i h
        exact updSession_keeps (takePage_keeps h ht)
      · exact ht

theorem fillBatch_keeps {i prefill l acc} (hs : Keeps s0 s) : Keeps s0 (fillBatch i prefill s l acc).1 := by
  induction l generalizing s acc with
  | nil => exact hs
  | cons x l ih =>
    unfold fillBatch
    split
    · exact hs
    · split
      · exact ih hs
      · dsimp only
        split
        · exact ih (preparePages_keeps hs)
        · exact ih (preparePages_keeps hs)

theorem formBatch_keeps {i e} (hs : Keeps s0 s) : Keeps s0 (formBatch s i e) := by
  unfold formBatch
  split
  · exact hs
  · dsimp only
    split
    · split
      · exact jobTallyAdd_keeps (updJob_keeps (writeStepBlock_keeps (updSvc_keeps (fillBatch_keeps hs))))
      · exact updJob_keeps (writeStepBlock_keeps (updSvc_keeps (fillBatch_keeps hs)))
    · exact writeStepBlock_keeps (updSvc_keeps (fillBatch_keeps hs))

theorem serviceTurn_keeps {h} (hs : Keeps s0 s) : Keeps s0 (serviceTurn s h) := by
  unfold serviceTurn
  split
  · exact hs
  · split
    · exact hs
    · dsimp only
      split
      · exact hs
      · exact .ite (startCopies_keeps (formBatch_keeps hs)) hs

theorem serviceBegins_keeps {h e} (hs : Keeps s0 s) : Keeps s0 (serviceBegins s h e) := by
  unfold serviceBegins
  split
  · exact hs
  · split
    · exact hs
    · exact .foldl _ (fun t ht _ => chargeClient_keeps ht) hs

theorem writeTokens_keeps {i x from_ l} (hs : Keeps s0 s) : Keeps s0 (writeTokens s i x from_ l) := by
  induction l generalizing s from_ with
  | nil => exact hs
  | cons t l ih =>
    unfold writeTokens
    split
    · exact hs
    · apply ih
      split
      · exact hbmWrite_keeps hs
      · exact hs

theorem refill_keeps {i id} (hs : Keeps s0 s) : Keeps s0 (refill s i id) := by
  unfold refill
  split
  · exact hs
  · exact updSvc_keeps hs

theorem registerPage_keeps {i id k} (hs : Keeps s0 s) : Keeps s0 (registerPage s i id k) := by
  unfold registerPage
  split
  · exact hs
  · refine .ite hs ?_
    refine updSvc_keeps ?_
    split
    · exact hbmWrite_keeps hs
    · exact hs

theorem applyPrefill_keeps {i e slot b} (hs : Keeps s0 s) : Keeps s0 (applyPrefill s i e slot b) := by
  unfold applyPrefill
  split
  · exact hs
  · exact .ite (registerPage_keeps (refill_keeps (updSession_keeps (writeTokens_keeps hs)))) (refill_keeps (updSession_keeps
      (writeTokens_keeps hs)))

theorem sendTokens_keeps {i x ts} (hs : Keeps s0 s) : Keeps s0 (sendTokens s i x ts) := by
  unfold sendTokens
  split
  · exact serviceSend_keeps hs
  · exact hs

theorem applyDecode_keeps {i e slot b} (hs : Keeps s0 s) : Keeps s0 (applyDecode s i e slot b) := by
  unfold applyDecode
  split
  · exact hs
  · split
    · exact hs
    · exact .ite (refill_keeps (updSession_keeps (writeTokens_keeps hs))) (.ite (endGenerate_keeps (sendTokens_keeps (refill_keeps
        (updSession_keeps (writeTokens_keeps hs))))) (.ite (endGenerate_keeps (sendTokens_keeps (refill_keeps (updSession_keeps
        (writeTokens_keeps hs))))) (.ite (endGenerate_keeps (sendTokens_keeps (refill_keeps (updSession_keeps (writeTokens_keeps hs)))))
        (sendTokens_keeps (refill_keeps (updSession_keeps (writeTokens_keeps hs)))))))

theorem forkSession_keeps {i id tid client addr} (hs : Keeps s0 s) : Keeps s0 (forkSession s i id tid client addr).1 := by
  unfold forkSession
  split
  · exact hs
  · split
    · exact hs
    · split
      · exact hs
      · dsimp only
        exact startCopies_keeps (updSvc_keeps hs)

theorem settleSession_keeps {i id} (hs : Keeps s0 s) : Keeps s0 (settleSession s i id) := by
  unfold settleSession
  split
  · exact hs
  · exact .ite (dropSession_keeps (.foldl _ (fun t ht _ => finish_keeps (forkSession_keeps ht)) (updSession_keeps hs))) (.foldl _
      (fun t ht _ => finish_keeps (forkSession_keeps ht)) (updSession_keeps hs))

theorem serviceEnds_keeps {h e} (hs : Keeps s0 s) : Keeps s0 (serviceEnds s h e) := by
  unfold serviceEnds
  split
  · exact hs
  · split
    · exact hs
    · exact wakeSessions_keeps (startCopies_keeps (updSvc_keeps (.foldl _ (fun t ht _ => settleSession_keeps ht) (.foldl _
        (fun t ht _ => .ite (applyPrefill_keeps ht) (applyDecode_keeps ht)) (updSvc_keeps (divideUse_keeps hs))))))

theorem startService_keeps {i} (hs : Keeps s0 s) : Keeps s0 (startService s i) := by
  unfold startService
  split
  · exact hs
  · split
    · exact closeService_keeps (updJob_keeps hs)
    · exact .foldl _ (fun t ht _ => writeStepBlock_keeps ht) (writeStepBlock_keeps (updSvc_keeps (startInvocation_keeps (.ite
        (settleRinses_keeps (placeAgain_keeps hs)) hs))))

theorem settleServices_keeps (hs : Keeps s0 s) : Keeps s0 (settleServices s) := by
  unfold settleServices
  refine .foldl _ (fun t ht _ => ?_) hs
  split
  · exact closeService_keeps ht
  · exact .ite (closeService_keeps ht) (.ite ht (.ite (startService_keeps ht) (closeService_keeps ht)))

theorem carrySvcOpen_keeps {c} (hs : Keeps s0 s) : Keeps s0 (carrySvcOpen c s).1 := by
  unfold carrySvcOpen
  dsimp only
  split
  · exact whenOk_keeps hs hs
  · split
    · exact refuse_keeps hs
    · split
      · split
        · exact hs
        · exact mk_services_keeps (putJob_keeps hs)
      · split
        · exact hs
        · exact mk_services_keeps (putJob_keeps hs)

theorem carrySvcClose_keeps {c} (hs : Keeps s0 s) : Keeps s0 (carrySvcClose c s).1 := by
  unfold carrySvcClose
  refine whenOk_keeps hs ?_
  split
  · exact refuse_keeps hs
  · split
    · exact refuse_keeps hs
    · dsimp only
      exact settleServices_keeps (.ite (updSvc_keeps hs) (stopAfterEpoch_keeps (updSvc_keeps hs)))

theorem carrySvcQuery_keeps {c} (hs : Keeps s0 s) : Keeps s0 (carrySvcQuery c s).1 := by
  unfold carrySvcQuery
  refine whenOk_keeps hs ?_
  split
  · exact refuse_keeps hs
  · exact hs

theorem takeRequest_keeps {op len key m} {act : Request} (hact : ∀ c i v addr t, Keeps s0 t → Keeps s0 (act c i v addr t).1)
    (hs : Keeps s0 s) : OptKeeps s0 (takeRequest op len key act m s) := by
  unfold takeRequest
  split
  · refine takeCommand_keeps (fun e he c t ht => ?_) hs
    cases he
    dsimp only
    split
    · exact ht
    · have hcharged (i : Nat) (k : Option Nat) (d : Ledger) : Keeps s0 (match k with
          | some k => chargeClient t i k d
          | none => t) := by
        cases k with
        | some k => exact chargeClient_keeps ht
        | none => exact ht
      split
      · exact hcharged _ _ _
      · exact hact _ _ _ _ _ (hcharged _ _ _)
  · exact takeCommand_keeps (fun e he => by cases he) hs

theorem actSessionOpen_keeps {c x1 x2 x3} (hs : Keeps s0 s) : Keeps s0 (actSessionOpen c x1 x2 x3 s).1 := by
  unfold actSessionOpen
  dsimp only
  split
  · exact refuse_keeps hs
  · exact .ite (startService_keeps (wakeSessions_keeps (startCopies_keeps (updSvc_keeps hs)))) (wakeSessions_keeps (startCopies_keeps
      (updSvc_keeps hs)))

theorem actSessionAppend_keeps {c x1 x2 x3} (hs : Keeps s0 s) : Keeps s0 (actSessionAppend c x1 x2 x3 s).1 := by
  unfold actSessionAppend
  dsimp only
  split
  · exact refuse_keeps hs
  · dsimp only
    refine wakeSessions_keeps ?_
    split
    · exact wantPages_keeps (updSession_keeps hs)
    · exact updSession_keeps hs

theorem actSessionGenerate_keeps {c x1 x2 x3} (hs : Keeps s0 s) : Keeps s0 (actSessionGenerate c x1 x2 x3 s).1 := by
  unfold actSessionGenerate
  dsimp only
  split
  · exact refuse_keeps hs
  · split
    · dsimp only
      exact updSession_keeps hs
    · split
      · dsimp only
        exact endGenerate_keeps (updSession_keeps hs)
      · dsimp only
        exact wantPages_keeps (updSession_keeps hs)

theorem actSessionFork_keeps {c x1 x2 x3} (hs : Keeps s0 s) : Keeps s0 (actSessionFork c x1 x2 x3 s).1 := by
  unfold actSessionFork
  dsimp only
  split
  · exact refuse_keeps hs
  · split
    · exact forkSession_keeps hs
    · dsimp only
      exact updSession_keeps hs

theorem actSessionClose_keeps {c x1 x2 x3} (hs : Keeps s0 s) : Keeps s0 (actSessionClose c x1 x2 x3 s).1 := by
  unfold actSessionClose
  dsimp only
  split
  · exact refuse_keeps hs
  · exact .ite (updSession_keeps hs) (startCopies_keeps (dropSession_keeps (updSession_keeps hs)))

theorem takeSessionOpen_keeps {m} (hs : Keeps s0 s) : OptKeeps s0 (takeSessionOpen m s) := by
  unfold takeSessionOpen
  exact takeRequest_keeps (fun _ _ _ _ t ht => actSessionOpen_keeps ht) hs

theorem takeSessionAppend_keeps {m} (hs : Keeps s0 s) : OptKeeps s0 (takeSessionAppend m s) := by
  unfold takeSessionAppend
  exact takeRequest_keeps (fun _ _ _ _ t ht => actSessionAppend_keeps ht) hs

theorem takeSessionGenerate_keeps {m} (hs : Keeps s0 s) : OptKeeps s0 (takeSessionGenerate m s) := by
  unfold takeSessionGenerate
  exact takeRequest_keeps (fun _ _ _ _ t ht => actSessionGenerate_keeps ht) hs

theorem takeSessionFork_keeps {m} (hs : Keeps s0 s) : OptKeeps s0 (takeSessionFork m s) := by
  unfold takeSessionFork
  exact takeRequest_keeps (fun _ _ _ _ t ht => actSessionFork_keeps ht) hs

theorem takeSessionClose_keeps {m} (hs : Keeps s0 s) : OptKeeps s0 (takeSessionClose m s) := by
  unfold takeSessionClose
  exact takeRequest_keeps (fun _ _ _ _ t ht => actSessionClose_keeps ht) hs

theorem execEvictionCopyComplete_keeps {svc page} (hs : Keeps s0 s) : OutKeeps s0 (execEvictionCopyComplete svc page s) := by
  unfold execEvictionCopyComplete
  refine .next ?_
  split
  · exact hs
  · dsimp only
    split
    · exact startCopies_keeps (updSvc_keeps (host_keeps id (Memory.wf_writeBytes _ _) hs))
    · exact hs

theorem execReloadCopyComplete_keeps {svc page} (hs : Keeps s0 s) : OutKeeps s0 (execReloadCopyComplete svc page s) := by
  unfold execReloadCopyComplete
  refine .next ?_
  split
  · exact hs
  · dsimp only
    split
    · exact wakeSessions_keeps (startCopies_keeps (updSvc_keeps (hbmWrite_keeps hs)))
    · exact hs

theorem execSessionFrameTimeout_keeps {svc session} (hs : Keeps s0 s) : OutKeeps s0 (execSessionFrameTimeout svc session s) := by
  unfold execSessionFrameTimeout
  refine .next ?_
  split
  · exact hs
  · exact .ite (endGenerate_keeps hs) hs

theorem losePage_keeps {i page} (hs : Keeps s0 s) : Keeps s0 (losePage s i page) := by
  unfold losePage
  split
  · exact hs
  · exact updSvc_keeps (.foldl _ (fun t ht _ => dropSession_keeps ht) hs)

theorem overflowReset_keeps {f} (hs : Keeps s0 s) : Keeps s0 (overflowReset s f) := by
  unfold overflowReset
  exact .foldl _ (fun t ht _ => updSvc_keeps (.foldl _ (fun t' ht' _ => losePage_keeps ht') ht)) hs

theorem copyFaults_keeps {p first n} (hs : Keeps s0 s) : Keeps s0 (copyFaults s p first n) := by
  unfold copyFaults
  exact .foldl _ (fun t ht _ => closeService_keeps (abortRun_keeps ht)) hs

theorem execServiceFrame_keeps {mac vlan addr payload} (hs : Keeps s0 s) : OutKeeps s0 (execServiceFrame mac vlan addr payload s) := by
  unfold execServiceFrame
  refine .next ?_
  refine .ite hs ?_
  refine .ite (updMac_keeps (countRx_keeps hs)) ?_
  dsimp only
  split
  · exact updMac_keeps (countRx_keeps hs)
  · exact .ite (updMac_keeps (countRx_keeps hs)) (.ite (updMac_keeps (countRx_keeps hs)) (writeEntry_keeps (updHost_keeps rfl rfl
      (countRx_keeps hs))))

/-! ### Tally commands -/

theorem carryTallyAdd_keeps {c} (hs : Keeps s0 s) : Keeps s0 (carryTallyAdd c s).1 := by
  unfold carryTallyAdd
  refine whenOk_keeps hs ?_
  dsimp only
  split
  · exact tallyAdd_keeps hs
  · exact tallyAdd_keeps hs

theorem carryTallyRead_keeps {c} (hs : Keeps s0 s) : Keeps s0 (carryTallyRead c s).1 := by
  unfold carryTallyRead
  exact whenOk_keeps hs hs

theorem carryTallyWait_keeps {c} (hs : Keeps s0 s) : Keeps s0 (carryTallyWait c s).1 := by
  unfold carryTallyWait
  refine whenOk_keeps hs ?_
  split
  · exact hs
  · dsimp only
    exact updWork_keeps rfl rfl hs

theorem carryTallyQuery_keeps {c} (hs : Keeps s0 s) : Keeps s0 (carryTallyQuery c s).1 := by
  unfold carryTallyQuery
  refine whenOk_keeps hs ?_
  dsimp only
  exact hbmWrite_keeps hs

theorem releaseBarrier_keeps {g n at_} (hs : Keeps s0 s) : Keeps s0 (releaseBarrier s g n at_) := by
  unfold releaseBarrier
  exact .foldl _ (fun t ht _ => chargeEach_keeps ht) (updTally_keeps hs)

theorem execBarrierRelease_keeps {tally} (hs : Keeps s0 s) : OutKeeps s0 (execBarrierRelease tally s) := by
  unfold execBarrierRelease
  refine .next ?_
  split
  · exact .ite (releaseBarrier_keeps hs) (.ite (releaseBarrier_keeps hs) hs)
  · exact hs

theorem execClipShare_keeps {job station epoch} (hs : Keeps s0 s) : OutKeeps s0 (execClipShare job station epoch s) := by
  unfold execClipShare
  refine .next ?_
  split
  · exact hs
  · exact .ite (.foldl _ (fun t ht _ => testClip_keeps ht) hs) hs

/-! ### The Relne link -/

theorem updPort_keeps {p f} (hs : Keeps s0 s) : Keeps s0 (updPort s p f) := by
  unfold updPort
  exact updRelne_keeps hs

theorem memberLost_keeps {chip} (hs : Keeps s0 s) : Keeps s0 (memberLost s chip) := by
  unfold memberLost
  exact abortWhere_keeps hs

theorem execRelneLinkDown_keeps {port} (hs : Keeps s0 s) : OutKeeps s0 (execRelneLinkDown port s) := by
  unfold execRelneLinkDown
  exact .next (.ite hs (.ite (memberLost_keeps (updRelne_keeps (updPort_keeps hs))) (updRelne_keeps (updPort_keeps hs))))

theorem settleLinkTime_keeps (hs : Keeps s0 s) : Keeps s0 (settleLinkTime s) := by
  unfold settleLinkTime
  exact .ite hs (.ite (enterHoldover_keeps (updTiming_keeps (updRelne_keeps hs))) (updRelne_keeps hs))

theorem execGroupForm_keeps {peers protocol consistent} (hs : Keeps s0 s) : OutKeeps s0 (execGroupForm peers protocol consistent s) := by
  unfold execGroupForm
  exact .next (.ite hs (settleLinkTime_keeps (updRelne_keeps (.foldl _ (fun t ht _ => memberLost_keeps ht) hs))))

theorem execLinkTimeMeasure_keeps {offset rootState} (hs : Keeps s0 s) : OutKeeps s0 (execLinkTimeMeasure offset rootState s) := by
  unfold execLinkTimeMeasure
  exact .next (.ite hs (updTiming_keeps (.ite (updTiming_keeps (updRelne_keeps hs)) (setUnits_keeps (updRelne_keeps hs)))))

theorem placeTile_keeps {j stream tile data} (hs : Keeps s0 s) : Keeps s0 (placeTile s j stream tile data) := by
  unfold placeTile
  exact .foldl _ (fun t ht _ => .foldl _ (fun t' ht' _ => updCore_keeps (Memory.wf_writeBytes _ _) ht') ht) hs

theorem lateTile_keeps {h j stream} (hs : Keeps s0 s) : Keeps s0 (lateTile s h j stream) := by
  unfold lateTile
  exact settleRinses_keeps (memoryFault_keeps hs)

theorem execLinkTileRx_keeps {port part tag stream tile data late} (hs : Keeps s0 s) : OutKeeps s0
    (execLinkTileRx port part tag stream tile data late s) := by
  unfold execLinkTileRx
  refine .next ?_
  refine .ite hs ?_
  split
  · exact logConfig_keeps hs
  · refine .ite (lateTile_keeps hs) ?_
    dsimp only
    split
    · exact tallyAdd_keeps (chargeJob_keeps (placeTile_keeps hs))
    · exact chargeJob_keeps (placeTile_keeps hs)

theorem barrierArrives_keeps {part i chip} (hs : Keeps s0 s) : Keeps s0 (barrierArrives s part i chip) := by
  unfold barrierArrives
  dsimp only
  split
  · exact .ite (releaseBarrier_keeps hs) (.ite (partEvent_keeps (releaseBarrier_keeps hs)) hs)
  · exact hs

theorem execGroupTallyMessage_keeps {port part tag record amount time chip} (hs : Keeps s0 s) : OutKeeps s0
    (execGroupTallyMessage port part tag record amount time chip s) := by
  unfold execGroupTallyMessage
  refine .next ?_
  refine .ite hs ?_
  dsimp only
  split
  · exact relneSend_keeps hs
  · split
    · exact relneSend_keeps hs
    · exact .ite (barrierArrives_keeps (tallyAdd_keeps (relneSend_keeps hs))) (tallyAdd_keeps (relneSend_keeps hs))

/-! ### Cells and their streams -/

theorem putCell_keeps {ci c} (hs : Keeps s0 s) : Keeps s0 (putCell s ci c) := by
  unfold putCell
  exact mk_radio_keeps hs

theorem updCell_keeps {ci f} (hs : Keeps s0 s) : Keeps s0 (updCell s ci f) := by
  unfold updCell
  split
  · exact putCell_keeps hs
  · exact hs

theorem onTile_keeps {j stream tile} {f : Nat → Mem → Mem} (hf : ∀ a m, Memory.wf m = true → Memory.wf (f a m) = true) (hs : Keeps s0 s) :
    Keeps s0 (onTile s j stream tile f) := by
  unfold onTile
  exact .foldl _ (fun t ht _ => .foldl _ (fun t' ht' _ => updCore_keeps (hf _ _) ht') ht) hs

theorem postRecord_keeps {h record amount source} (hs : Keeps s0 s) : Keeps s0 (postRecord s h record amount source) := by
  unfold postRecord
  split
  · exact jobTallyAdd_keeps hs
  · exact hs

theorem postProduced_keeps {h stream source} (hs : Keeps s0 s) : Keeps s0 (postProduced s h stream source) := by
  unfold postProduced
  split
  · exact jobTallyAdd_keeps hs
  · exact hs

theorem postConsumed_keeps {h stream source} (hs : Keeps s0 s) : Keeps s0 (postConsumed s h stream source) := by
  unfold postConsumed
  split
  · exact jobTallyAdd_keeps hs
  · exact hs

theorem consumeBy_keeps {h stream kind n source} (hs : Keeps s0 s) : Keeps s0 (consumeBy s h stream kind n source) := by
  unfold consumeBy
  split
  · exact hs
  · refine .ite ?_ hs
    split
    · exact jobTallyAdd_keeps hs
    · exact hs

theorem sendFapi_keeps {ci m} (hs : Keeps s0 s) : Keeps s0 (sendFapi s ci m) := by
  unfold sendFapi
  split
  · exact hs
  · exact .foldl _ (fun t ht _ => writeMessage_keeps ht) hs

theorem fapiError_keeps {ci sfn slot id code} (hs : Keeps s0 s) : Keeps s0 (fapiError s ci sfn slot id code) := by
  unfold fapiError
  exact sendFapi_keeps hs

theorem postUplink_keeps {n ci} (hs : Keeps s0 s) : Keeps s0 (postUplink n s ci) := by
  induction n generalizing s with
  | zero => exact hs
  | succ n ih =>
    unfold postUplink
    split
    · exact hs
    · split
      · refine .ite hs (ih (updCell_keeps (postProduced_keeps (updJob_keeps (onTile_keeps ?_ hs)))))
        exact fun _ _ h => Memory.wf_writeBytes _ _ h
      · exact hs

theorem sendCellStopped_keeps {ci c reason object slot} (hs : Keeps s0 s) : Keeps s0 (sendCellStopped s ci c reason object slot) := by
  unfold sendCellStopped
  exact partEvent_keeps hs

theorem dropAborted_keeps {h lost} (hs : Keeps s0 s) : Keeps s0 (dropAborted s h lost) := by
  unfold dropAborted
  split
  · exact hs
  · exact .ite (settleRinses_keeps (dropJob_keeps (endInvocation_keeps (abortInvocation_keeps hs)))) (settleRinses_keeps
      (startRinse_keeps (dropJob_keeps hs)))

theorem adaptCellStops_keeps {ci} (hs : Keeps s0 s) : Keeps s0 (adaptCellStops s ci) := by
  unfold adaptCellStops
  split
  · exact hs
  · refine mk_radio_keeps ?_
    split
    · refine dropAborted_keeps ?_
      split
      · exact complete_keeps hs
      · exact hs
    · split
      · exact complete_keeps hs
      · exact hs

theorem releaseCell_keeps {ci lost} (hs : Keeps s0 s) : Keeps s0 (releaseCell s ci lost) := by
  unfold releaseCell
  split
  · exact hs
  · exact mk_radio_keeps (adaptCellStops_keeps (dropAborted_keeps (dropAborted_keeps hs)))

theorem stopCell_keeps {ci reason object lost} (hs : Keeps s0 s) : Keeps s0 (stopCell s ci reason object lost) := by
  unfold stopCell
  split
  · exact hs
  · exact sendCellStopped_keeps (.foldl _ (fun t ht _ => finish_keeps ht) (releaseCell_keeps hs))

/-! ### Adaptation -/

theorem updAdapt_keeps {ci f} (hs : Keeps s0 s) : Keeps s0 (updAdapt s ci f) := by
  unfold updAdapt
  exact mk_radio_keeps hs

theorem setSlotState_keeps {c k v} (hs : Keeps s0 s) : Keeps s0 (setSlotState s c k v) := by
  unfold setSlotState
  exact hbmWrite_keeps hs

theorem writeSlotImage_keeps {c k planes layers qm weights parent digest gen records} (hs : Keeps s0 s) : Keeps s0
    (writeSlotImage s c k planes layers qm weights parent digest gen records) := by
  unfold writeSlotImage
  exact hbmWrite_keeps (hbmWrite_keeps (hbmWrite_keeps hs))

theorem makeLive_keeps {c k} (hs : Keeps s0 s) : Keeps s0 (makeLive s c k) := by
  unfold makeLive
  exact hbmWrite_keeps hs

theorem adaptEvent_keeps {ci kind slot trigger epoch crc v} (hs : Keeps s0 s) : Keeps s0
    (adaptEvent s ci kind slot trigger epoch crc v) := by
  unfold adaptEvent
  split
  · exact hs
  · exact partEvent_keeps (updAdapt_keeps (hbmWrite_keeps hs))

theorem supersede_keeps {ci} (hs : Keeps s0 s) : Keeps s0 (supersede s ci) := by
  unfold supersede
  dsimp only
  split
  · exact finish_keeps (updAdapt_keeps hs)
  · exact updAdapt_keeps hs

theorem rejectCandidate_keeps {ci} (hs : Keeps s0 s) : Keeps s0 (rejectCandidate s ci) := by
  unfold rejectCandidate
  split
  · exact hs
  · exact updAdapt_keeps (setSlotState_keeps (adaptEvent_keeps (supersede_keeps hs)))

theorem decideSwitch_keeps {ci c slot rollback trigger ticket fig} (hs : Keeps s0 s) : Keeps s0
    (decideSwitch s ci c slot rollback trigger ticket fig) := by
  unfold decideSwitch
  exact updAdapt_keeps (supersede_keeps hs)

theorem promote_keeps {ci ticket} (hs : Keeps s0 s) : Keeps s0 (promote s ci ticket) := by
  unfold promote
  split
  · exact hs
  · split
    · exact decideSwitch_keeps hs
    · exact hs

theorem rollback_keeps {ci trigger toClassical ticket fig} (hs : Keeps s0 s) : Keeps s0
    (rollback s ci trigger toClassical ticket fig) := by
  unfold rollback
  split
  · exact hs
  · refine .ite ?_ (decideSwitch_keeps hs)
    split
    · exact finish_keeps hs
    · exact hs

theorem closeEvaluation_keeps {ci} (hs : Keeps s0 s) : Keeps s0 (closeEvaluation s ci) := by
  unfold closeEvaluation
  dsimp only
  split
  · exact hs
  · exact .ite hs (.ite (.ite (promote_keeps (updAdapt_keeps (adaptEvent_keeps (setSlotState_keeps (updAdapt_keeps hs)))))
      (updAdapt_keeps (adaptEvent_keeps (setSlotState_keeps (updAdapt_keeps hs))))) (rejectCandidate_keeps (updAdapt_keeps hs)))

theorem capture_keeps {ci c e} (hs : Keeps s0 s) : Keeps s0 (capture s ci c e) := by
  unfold capture
  exact .ite (updCell_keeps hs) (updAdapt_keeps (hbmWrite_keeps (hbmWrite_keeps hs)))

theorem execStagingProcess_keeps {cell entry pdus} (hs : Keeps s0 s) : OutKeeps s0 (execStagingProcess cell entry pdus s) := by
  unfold execStagingProcess
  refine .next ?_
  split
  · exact .ite hs (.ite (closeEvaluation_keeps (updAdapt_keeps (updAdapt_keeps hs))) (.ite (.ite (rollback_keeps (updAdapt_keeps
      (updAdapt_keeps hs))) (updAdapt_keeps (updAdapt_keeps hs))) (.ite (capture_keeps (updAdapt_keeps (updAdapt_keeps hs)))
      (updAdapt_keeps (updAdapt_keeps hs)))))
  · exact hs

theorem stagingReused_keeps {ci entry} (hs : Keeps s0 s) : Keeps s0 (stagingReused s ci entry) := by
  unfold stagingReused
  dsimp only
  split
  · exact hs
  · exact .ite (updAdapt_keeps hs) (updCell_keeps (updAdapt_keeps hs))

theorem stagingCopy_keeps {ci c u blocks} (hs : Keeps s0 s) : Keeps s0 (stagingCopy s ci c u blocks) := by
  unfold stagingCopy
  split
  · exact hs
  · refine updAdapt_keeps ?_
    refine hbmWrite_keeps ?_
    refine .foldl _ (fun t ht _ => ?_) hs
    split
    · exact hbmWrite_keeps ht
    · exact ht

theorem countLive_keeps {ci c u} (hs : Keeps s0 s) : Keeps s0 (countLive s ci c u) := by
  unfold countLive
  refine .ite ?_ ?_
  · refine updAdapt_keeps ?_
    refine .ite ?_ hs
    split
    · exact updAdapt_keeps hs
    · exact hs
  · refine .ite ?_ hs
    split
    · exact updAdapt_keeps hs
    · exact hs

theorem execLiveSwitch_keeps {cell} (hs : Keeps s0 s) : OutKeeps s0 (execLiveSwitch cell s) := by
  unfold execLiveSwitch
  refine .next ?_
  split
  · refine .ite hs ?_
    refine .ite (updAdapt_keeps hs) ?_
    refine .ite hs ?_
    refine updAdapt_keeps ?_
    split
    · exact makeLive_keeps hs
    · exact hs
  · exact hs

theorem switchTakes_keeps {cell c x} (hs : Keeps s0 s) : Keeps s0 (switchTakes s cell c x) := by
  unfold switchTakes
  dsimp only
  split
  · refine finish_keeps ?_
    refine .ite ?_ ?_
    · refine adaptEvent_keeps ?_
      refine updAdapt_keeps ?_
      refine updCell_keeps ?_
      split
      · refine setSlotState_keeps ?_
        refine .ite ?_ ?_
        · refine setSlotState_keeps ?_
          split
          · exact setSlotState_keeps hs
          · exact hs
        · split
          · exact setSlotState_keeps hs
          · exact hs
      · split
        · exact setSlotState_keeps hs
        · exact hs
    · refine adaptEvent_keeps ?_
      refine updAdapt_keeps ?_
      refine updCell_keeps ?_
      split
      · refine setSlotState_keeps ?_
        refine .ite ?_ ?_
        · refine setSlotState_keeps ?_
          split
          · exact setSlotState_keeps hs
          · exact hs
        · split
          · exact setSlotState_keeps hs
          · exact hs
      · split
        · exact setSlotState_keeps hs
        · exact hs
  · refine .ite ?_ ?_
    · refine adaptEvent_keeps ?_
      refine updAdapt_keeps ?_
      refine updCell_keeps ?_
      split
      · refine setSlotState_keeps ?_
        refine .ite ?_ ?_
        · refine setSlotState_keeps ?_
          split
          · exact setSlotState_keeps hs
          · exact hs
        · split
          · exact setSlotState_keeps hs
          · exact hs
      · split
        · exact setSlotState_keeps hs
        · exact hs
    · refine adaptEvent_keeps ?_
      refine updAdapt_keeps ?_
      refine updCell_keeps ?_
      split
      · refine setSlotState_keeps ?_
        refine .ite ?_ ?_
        · refine setSlotState_keeps ?_
          split
          · exact setSlotState_keeps hs
          · exact hs
        · split
          · exact setSlotState_keeps hs
          · exact hs
      · split
        · exact setSlotState_keeps hs
        · exact hs

theorem settleSwitch_keeps {cell slot} (hs : Keeps s0 s) : Keeps s0 (settleSwitch s cell slot) := by
  unfold settleSwitch
  split
  · exact .ite hs (.ite (switchTakes_keeps hs) (updAdapt_keeps hs))
  · exact hs

theorem execProbationEnd_keeps {cell} (hs : Keeps s0 s) : OutKeeps s0 (execProbationEnd cell s) := by
  unfold execProbationEnd
  refine .next ?_
  split
  · exact hs
  · exact .ite (updAdapt_keeps (adaptEvent_keeps hs)) hs

theorem execEvalExpiry_keeps {cell} (hs : Keeps s0 s) : OutKeeps s0 (execEvalExpiry cell s) := by
  unfold execEvalExpiry
  refine .next ?_
  split
  · exact hs
  · exact .ite (rejectCandidate_keeps hs) hs

theorem execTrainingRoundStart_keeps {cell} (hs : Keeps s0 s) : OutKeeps s0 (execTrainingRoundStart cell s) := by
  unfold execTrainingRoundStart
  refine .next ?_
  split
  · exact hs
  · dsimp only
    split
    · refine .ite ?_ hs
      split
      · exact hs
      · rename_i h
        refine startInvocation_keeps (updAdapt_keeps (.of_some h ?_))
        split
        · refine .ite ?_ (.some hs)
          split
          · exact .none
          · exact .some (settleRinses_keeps (placeAgain_keeps hs))
        · exact .none
    · exact hs

theorem execRoundEnd_keeps {cell} (hs : Keeps s0 s) : OutKeeps s0 (execRoundEnd cell s) := by
  unfold execRoundEnd
  refine .next ?_
  split
  · exact .ite (adaptEvent_keeps (updAdapt_keeps (endInvocation_keeps hs))) (adaptEvent_keeps (updAdapt_keeps (writeSlotImage_keeps
      (updAdapt_keeps (endInvocation_keeps hs)))))
  · exact hs

theorem abandonRound_keeps {ci} (hs : Keeps s0 s) : Keeps s0 (abandonRound s ci) := by
  unfold abandonRound
  dsimp only
  split
  · exact hs
  · refine adaptEvent_keeps ?_
    refine updAdapt_keeps ?_
    split
    · exact abortRun_keeps hs
    · exact hs

theorem settleRounds_keeps (hs : Keeps s0 s) : Keeps s0 (settleRounds s) := by
  unfold settleRounds
  refine .foldl _ (fun t ht _ => ?_) hs
  split
  · split
    · exact .ite (abandonRound_keeps ht) ht
    · exact abandonRound_keeps ht
  · exact ht

theorem execRoundTimeout_keeps {cell} (hs : Keeps s0 s) : OutKeeps s0 (execRoundTimeout cell s) := by
  unfold execRoundTimeout
  refine .next ?_
  split
  · exact .ite (abandonRound_keeps hs) hs
  · exact hs

theorem loadAdapt_keeps {ci config owner} (hs : Keeps s0 s) : Keeps s0 (loadAdapt s ci config owner).1 := by
  unfold loadAdapt
  split
  · exact hs
  · dsimp only
    split
    · exact hs
    · dsimp only
      exact updAdapt_keeps (startRinse_keeps (updWork_keeps rfl rfl hs))

theorem adaptCellStarts_keeps {ci} (hs : Keeps s0 s) : Keeps s0 (adaptCellStarts s ci) := by
  unfold adaptCellStarts
  split
  · exact hs
  · refine updAdapt_keeps ?_
    split
    · refine setSlotState_keeps ?_
      refine .ite ?_ ?_
      · split
        · exact makeLive_keeps hs
        · exact updCell_keeps hs
      · refine loadAdapt_keeps ?_
        split
        · exact makeLive_keeps hs
        · exact updCell_keeps hs
    · refine .ite ?_ ?_
      · split
        · exact makeLive_keeps hs
        · exact updCell_keeps hs
      · refine loadAdapt_keeps ?_
        split
        · exact makeLive_keeps hs
        · exact updCell_keeps hs

theorem carrySet_keeps {c} (hs : Keeps s0 s) : Keeps s0 (carrySet c s).1 := by
  unfold carrySet
  refine whenOk_keeps hs ?_
  split
  · exact refuse_keeps hs
  · dsimp only
    have hdropped (job : Option Nat) : Keeps s0 (match job with
        | some h => updAdapt (dropAborted (abandonRound s (c.f 0x10 1)) h []) (c.f 0x10 1) fun a => { a with job := none }
        | none => s) := by
      cases job with
      | none => exact hs
      | some h => exact updAdapt_keeps (dropAborted_keeps (abandonRound_keeps hs))
    split
    · rename_i h
      refine .of_fst h ?_
      split
      · exact loadAdapt_keeps (.ite (updAdapt_keeps (hdropped _)) (hdropped _))
      · exact .ite (updAdapt_keeps hs) hs
    · rename_i t h
      have ht : Keeps s0 t := by
        refine .of_fst h ?_
        split
        · exact loadAdapt_keeps (.ite (updAdapt_keeps (hdropped _)) (hdropped _))
        · exact .ite (updAdapt_keeps hs) hs
      exact updCell_keeps (.ite (abandonRound_keeps (updAdapt_keeps ht)) (updAdapt_keeps ht))

theorem carryLoadSlot_keeps {c} (hs : Keeps s0 s) : Keeps s0 (carryLoadSlot c s).1 := by
  unfold carryLoadSlot
  refine whenOk_keeps hs ?_
  split
  · exact refuse_keeps hs
  · dsimp only
    refine updAdapt_keeps ?_
    refine writeSlotImage_keeps ?_
    refine .ite ?_ (abandonRound_keeps hs)
    split
    · exact setSlotState_keeps (abandonRound_keeps hs)
    · exact abandonRound_keeps hs

theorem carryClearSlot_keeps {c} (hs : Keeps s0 s) : Keeps s0 (carryClearSlot c s).1 := by
  unfold carryClearSlot
  refine whenOk_keeps hs ?_
  split
  · exact refuse_keeps hs
  · exact .ite (rejectCandidate_keeps hs) (setSlotState_keeps hs)

theorem carryAdaptQuery_keeps {c} (hs : Keeps s0 s) : Keeps s0 (carryAdaptQuery c s).1 := by
  unfold carryAdaptQuery
  refine whenOk_keeps hs ?_
  split
  · exact refuse_keeps hs
  · exact hs

theorem carryAdapt_keeps {c} (hs : Keeps s0 s) : Keeps s0 (carryAdapt c s).1 := by
  unfold carryAdapt
  split
  · exact carrySet_keeps hs
  · exact carryLoadSlot_keeps hs
  · exact carryClearSlot_keeps hs
  · exact carryAdaptQuery_keeps hs
  · exact refuse_keeps hs

theorem carryPromote_keeps {c} (hs : Keeps s0 s) : Keeps s0 (carryPromote c s).1 := by
  unfold carryPromote
  refine whenOk_keeps hs ?_
  dsimp only
  exact promote_keeps hs

theorem carryRollback_keeps {c} (hs : Keeps s0 s) : Keeps s0 (carryRollback c s).1 := by
  unfold carryRollback
  refine whenOk_keeps hs ?_
  split
  · dsimp only
    exact rejectCandidate_keeps hs
  · dsimp only
    exact rollback_keeps hs

/-! ### Failures -/

theorem leaveShapes_keeps {u} (hs : Keeps s0 s) : Keeps s0 (leaveShapes s u) := by
  unfold leaveShapes
  exact updWork_keeps rfl rfl hs

theorem mendChanged_keeps {u pending action} (hs : Keeps s0 s) : Keeps s0 (mendChanged s u pending action) := by
  unfold mendChanged
  exact sendDeviceEvent_keeps (log_keeps hs)

theorem joinMendMap_keeps {u} (hs : Keeps s0 s) : Keeps s0 (joinMendMap s u) := by
  unfold joinMendMap
  exact .ite hs (mendChanged_keeps (leaveShapes_keeps (updRel_keeps hs)))

theorem islandDown_keeps {c} (hs : Keeps s0 s) : Keeps s0 (islandDown s c) := by
  unfold islandDown
  exact updWork_keeps rfl rfl (updCore_keeps (fun _ => Memory.wf_nil) (mk_engines_keeps (dropDebug_keeps hs)))

theorem loseJobs_keeps {hit reason object lost} (hs : Keeps s0 s) : Keeps s0 (loseJobs s hit reason object lost) := by
  unfold loseJobs
  refine .foldl _ (fun t ht _ => ?_) hs
  split
  · exact stopCell_keeps ht
  · exact updJob_keeps (abortRun_keeps ht)

theorem coreFails_keeps {c} (hs : Keeps s0 s) : Keeps s0 (coreFails s c) := by
  unfold coreFails
  exact .ite hs (settleServices_keeps (settleRounds_keeps (joinMendMap_keeps (sendDeviceEvent_keeps (loseJobs_keeps (log_keeps
    (settleRinses_keeps (islandDown_keeps hs))))))))

theorem engineFails_keeps {kind index} (hs : Keeps s0 s) : Keeps s0 (engineFails s kind index) := by
  unfold engineFails
  exact .ite hs (settleServices_keeps (settleRounds_keeps (joinMendMap_keeps (sendDeviceEvent_keeps (loseJobs_keeps (log_keeps hs))))))

theorem correctedError_keeps {unitKind unit kind address part} (hs : Keeps s0 s) : Keeps s0
    (correctedError s unitKind unit kind address part) := by
  unfold correctedError
  exact .ite (log_keeps hs) (.ite (log_keeps (updRel_keeps (log_keeps hs))) (updRel_keeps (log_keeps hs)))

theorem settleAborts_keeps {h} (hs : Keeps s0 s) : Keeps s0 (settleAborts s h) := by
  unfold settleAborts
  split
  · exact hs
  · split
    · exact settleServices_keeps (settleRounds_keeps hs)
    · refine .ite hs ?_
      split
      · exact stopCell_keeps hs
      · exact settleServices_keeps (settleRounds_keeps (settleRinses_keeps hs))

theorem endBadly_keeps {h status words} (hs : Keeps s0 s) : Keeps s0 (endBadly s h status words) := by
  unfold endBadly
  exact settleAborts_keeps (abortInvocation_keeps hs)

theorem faultJob_keeps {h cause stream page core segment} (hs : Keeps s0 s) : Keeps s0 (faultJob s h cause stream page core segment) := by
  unfold faultJob
  exact settleAborts_keeps (memoryFault_keeps hs)

/-! ### Frames of the uplink -/

theorem putIng_keeps {g x2} (hs : Keeps s0 s) : Keeps s0 (putIng s g x2) := by
  unfold putIng
  split
  · exact updCell_keeps hs
  · exact updRun_keeps hs

theorem updIng_keeps {r f} (hs : Keeps s0 s) : Keeps s0 (updIng s r f) := by
  unfold updIng
  split
  · exact putIng_keeps hs
  · exact hs

theorem writeGridRb_keeps {g j slot plane sym rb codes} (hs : Keeps s0 s) : Keeps s0 (writeGridRb s g j slot plane sym rb codes) := by
  unfold writeGridRb
  refine Keeps.foldl _ (fun t ht _ => onTile_keeps (fun a m hm => wf_foldl _ (fun m hm i => ?_) hm) ht) hs
  dsimp only
  split
  · exact Memory.wf_writeLe _ _ _ hm
  · exact hm

theorem writePrachRb_keeps {g j tile plane row rb long codes} (hs : Keeps s0 s) :
    Keeps s0 (writePrachRb s g j tile plane row rb long codes) := by
  unfold writePrachRb
  exact .ite hs (onTile_keeps (fun _ _ hm => wf_foldl _ (fun _ hm _ => Memory.wf_writeLe _ _ _ hm) hm) hs)

theorem padPrach_keeps {g j tile rows long} (hs : Keeps s0 s) : Keeps s0 (padPrach s g j tile rows long) := by
  unfold padPrach
  exact onTile_keeps (fun _ _ hm => wf_foldl _ (fun _ hm _ => wf_foldl _ (fun _ hm _ => wf_foldl _
    (fun _ hm _ => Memory.wf_writeLe _ _ _ hm) hm) hm) hm) hs

theorem finishRow_keeps {g j r b l} (hs : Keeps s0 s) : Keeps s0 (finishRow s g j r b l) := by
  unfold finishRow
  refine Keeps.ite (onTile_keeps (fun a m hm => wf_foldl _ (fun m hm p => wf_foldl _ (fun m hm x => ?_) hm) hm) hs)
    (onTile_keeps (fun a m hm => wf_foldl _ (fun m hm x => Memory.wf_write _ _ hm) hm)
      (onTile_keeps (fun a m hm => wf_foldl _ (fun m hm p => wf_foldl _ (fun m hm x => ?_) hm) hm) hs))
  all_goals
    split
    · exact Memory.wf_writeLe _ _ _ hm
    · exact hm

theorem postBlockRows_keeps {n ref slot b} (hs : Keeps s0 s) : Keeps s0 (postBlockRows n s ref slot b) := by
  induction n generalizing s with
  | zero => exact hs
  | succ n ih =>
    unfold postBlockRows
    split
    · exact hs
    · split
      · exact hs
      · have hrow {g j r b l k rec amount src} : Keeps s0 (postRecord (finishRow s g j r b l) k rec amount src) :=
          postRecord_keeps (finishRow_keeps hs)
        exact .ite hs (ih (updIng_keeps (.ite (.ite (postProduced_keeps hrow) (postProduced_keeps (postProduced_keeps hrow))) hrow)))

theorem postPrach_keeps {n ref slot} (hs : Keeps s0 s) : Keeps s0 (postPrach n s ref slot) := by
  induction n generalizing s with
  | zero => exact hs
  | succ n ih =>
    unfold postPrach
    split
    · exact hs
    · dsimp only
      split
      · exact hs
      · exact .ite hs (ih (updIng_keeps (postProduced_keeps (padPrach_keeps (Keeps.foldl _ (fun t ht _ => writePrachRb_keeps ht) hs)))))

theorem postSlot_keeps {ref slot} (hs : Keeps s0 s) : Keeps s0 (postSlot s ref slot) := by
  unfold postSlot
  split
  · exact hs
  · exact postPrach_keeps (.foldl _ (fun t ht _ => postBlockRows_keeps ht) hs)

theorem writeRb_keeps {ref slot a sym rb codes} (hs : Keeps s0 s) : Keeps s0 (writeRb s ref slot a sym rb codes).1 := by
  unfold writeRb
  split
  · exact hs
  · dsimp only
    split
    · split
      · exact hs
      · dsimp only
        exact updIng_keeps (writeGridRb_keeps hs)
    · split
      · exact hs
      · dsimp only
        refine updIng_keeps ?_
        split
        · exact writePrachRb_keeps hs
        · exact hs

theorem writeSections_keeps {ref slot a sym l} (hs : Keeps s0 s) : Keeps s0 (writeSections ref slot a sym s l).1 := by
  induction l generalizing s with
  | nil => exact hs
  | cons x l ih =>
    unfold writeSections
    exact ih (.foldl_fst _ (fun t ht _ => writeRb_keeps ht) hs)

theorem acceptFrame_keeps {ref a slot sym trx p} (hs : Keeps s0 s) : Keeps s0 (acceptFrame s ref a slot sym trx p) := by
  unfold acceptFrame
  split
  · exact hs
  · exact .ite hs (.ite (updIng_keeps hs) (.ite (updIng_keeps hs) (postSlot_keeps (updIng_keeps (writeSections_keeps
      (updIng_keeps hs))))))

theorem execUplaneFrame_keeps {mac vlan rxNs payload} (hs : Keeps s0 s) : OutKeeps s0 (execUplaneFrame mac vlan rxNs payload s) := by
  unfold execUplaneFrame
  refine .next ?_
  refine .ite hs ?_
  refine .ite (updMac_keeps (countRx_keeps hs)) ?_
  split
  · exact updMac_keeps (countRx_keeps hs)
  · exact .ite (updIng_keeps (chargeJob_keeps (updIng_keeps (countRx_keeps hs)))) (acceptFrame_keeps (chargeJob_keeps (updIng_keeps
      (countRx_keeps hs))))

theorem execSymbolClose_keeps {at_ slot symbol} (hs : Keeps s0 s) : OutKeeps s0 (execSymbolClose at_ slot symbol s) := by
  unfold execSymbolClose
  refine .next ?_
  split
  · exact hs
  · exact .ite hs (postSlot_keeps (updIng_keeps hs))

/-! ### The uplink -/

theorem ulTti_keeps {cell sfn slot pdus} (hs : Keeps s0 s) : Keeps s0 (ulTti s cell sfn slot pdus) := by
  unfold ulTti
  split
  · exact hs
  · split
    · exact hs
    · exact .ite (fapiError_keeps hs) (postUplink_keeps (.ite (fapiError_keeps (putCell_keeps hs)) (putCell_keeps hs)))

theorem fixUplink_keeps {k ci last} (hs : Keeps s0 s) : Keeps s0 (fixUplink k s ci last) := by
  induction k generalizing s with
  | zero => exact hs
  | succ k ih =>
    unfold fixUplink
    split
    · exact hs
    · exact .ite hs (ih (postUplink_keeps (putCell_keeps hs)))

theorem settleStop_keeps {ci} (hs : Keeps s0 s) : Keeps s0 (settleStop s ci) := by
  unfold settleStop
  split
  · exact hs
  · split
    · exact hs
    · exact .ite hs (sendCellStopped_keeps (finish_keeps (releaseCell_keeps hs)))

theorem settleSlot_keeps {ci slot} (hs : Keeps s0 s) : Keeps s0 (settleSlot s ci slot) := by
  unfold settleSlot
  split
  · exact hs
  · exact settleStop_keeps (updCell_keeps (.ite hs (consumeBy_keeps (consumeBy_keeps (updCell_keeps (.ite (.ite (countLive_keeps hs)
      (stagingCopy_keeps (countLive_keeps hs))) (sendFapi_keeps (sendFapi_keeps (.ite (countLive_keeps hs) (stagingCopy_keeps
      (countLive_keeps hs)))))))))))

theorem finishBlock_keeps {ci slot r} (hs : Keeps s0 s) : Keeps s0 (finishBlock s ci slot r) := by
  unfold finishBlock
  split
  · exact hs
  · exact updCell_keeps (hbmWrite_keeps hs)

theorem execCodeBlockDecoded_keeps {cell slot pdu cb check} (hs : Keeps s0 s) : OutKeeps s0
    (execCodeBlockDecoded cell slot pdu cb check s) := by
  unfold execCodeBlockDecoded
  refine .next ?_
  split
  · exact hs
  · split
    · exact hs
    · exact hs
    · refine .ite hs ?_
      refine .ite (engineFails_keeps hs) ?_
      refine .ite ?_ ?_
      · refine settleSlot_keeps ?_
        refine finishBlock_keeps ?_
        refine putCell_keeps ?_
        split
        · exact hbmWrite_keeps hs
        · exact hs
      · refine putCell_keeps ?_
        split
        · exact hbmWrite_keeps hs
        · exact hs

theorem execHarqAgeExpiry_keeps {cell rnti harq} (hs : Keeps s0 s) : OutKeeps s0 (execHarqAgeExpiry cell rnti harq s) := by
  unfold execHarqAgeExpiry
  refine .next ?_
  split
  · exact hs
  · exact .ite hs (updCell_keeps hs)

theorem execContextFree_keeps {cell rnti} (hs : Keeps s0 s) : OutKeeps s0 (execContextFree cell rnti s) := by
  unfold execContextFree
  refine .next ?_
  split
  · exact hs
  · exact .ite hs (putCell_keeps hs)

theorem execPolarDecoded_keeps {cell slot pdu codes check} (hs : Keeps s0 s) : OutKeeps s0
    (execPolarDecoded cell slot pdu codes check s) := by
  unfold execPolarDecoded
  refine .next ?_
  split
  · exact hs
  · exact .ite hs (.ite (engineFails_keeps hs) (settleSlot_keeps (updCell_keeps (sendFapi_keeps hs))))

/-! ### The downlink -/

theorem dlRequest_keeps {cell sfn slot id taken act} (hs : Keeps s0 s) : Keeps s0 (dlRequest s cell sfn slot id taken act) := by
  unfold dlRequest
  split
  · exact hs
  · exact .ite (fapiError_keeps hs) (.ite (fapiError_keeps (putCell_keeps hs)) (putCell_keeps hs))

theorem dlTti_keeps {cell sfn slot pdus} (hs : Keeps s0 s) : Keeps s0 (dlTti s cell sfn slot pdus) := by
  unfold dlTti
  exact dlRequest_keeps hs

theorem ulDci_keeps {cell sfn slot pdus} (hs : Keeps s0 s) : Keeps s0 (ulDci s cell sfn slot pdus) := by
  unfold ulDci
  exact dlRequest_keeps hs

theorem txData_keeps {cell sfn slot entries} (hs : Keeps s0 s) : Keeps s0 (txData s cell sfn slot entries) := by
  unfold txData
  exact dlRequest_keeps hs

theorem execSlotIndication_keeps {cell slot} (hs : Keeps s0 s) : OutKeeps s0 (execSlotIndication cell slot s) := by
  unfold execSlotIndication
  refine .next ?_
  split
  · exact hs
  · exact .ite hs (sendFapi_keeps hs)

theorem postEncoded_keeps {ci slot} (hs : Keeps s0 s) : Keeps s0 (postEncoded s ci slot) := by
  unfold postEncoded
  split
  · exact hs
  · exact .ite (consumeBy_keeps (postProduced_keeps hs)) hs

theorem buildDownlink_keeps {ci slot} (hs : Keeps s0 s) : Keeps s0 (buildDownlink s ci slot) := by
  unfold buildDownlink
  split
  · exact hs
  · split
    · exact hs
    · have hposted {p : Prop} [Decidable p] {sfn inFrame j st k f h src g} (hf : ∀ a m, Memory.wf m = true → Memory.wf (f a m) = true) :
          Keeps s0 (updCell (postProduced (onTile (if p then fapiError s ci sfn inFrame 0x80 errTx else s) j st k f) h st src) ci g) :=
        updCell_keeps (postProduced_keeps (onTile_keeps hf (.ite (fapiError_keeps hs) hs)))
      have hwrite (bs : List Byte) (a : Nat) (m : Mem) : Memory.wf m = true → Memory.wf (Mem.writeBytes m a bs) = true :=
        Memory.wf_writeBytes a bs
      exact .ite hs (.ite (postEncoded_keeps (hposted (hwrite _))) (hposted (hwrite _)))

theorem execCodeBlockEncoded_keeps {cell slot pdu cb engine check} (hs : Keeps s0 s) :
    OutKeeps s0 (execCodeBlockEncoded cell slot pdu cb engine check s) := by
  unfold execCodeBlockEncoded
  refine .next ?_
  split
  · exact hs
  · dsimp only
    split
    · exact .ite hs (.ite (engineFails_keeps hs) (postEncoded_keeps (updCell_keeps (onTile_keeps
        (fun _ _ hm => Memory.wf_writeBytes _ _ hm) hs))))
    · exact hs

theorem putSymbolWord_keeps {c j slot sym plane sub w} (hs : Keeps s0 s) : Keeps s0 (putSymbolWord s c j slot sym plane sub w) := by
  unfold putSymbolWord
  split
  · exact hbmWrite_keeps hs
  · exact updCore_keeps (Memory.wf_writeLe _ _ _) hs
  · exact hs

theorem precodeSymbol_keeps {ci slot sym} (hs : Keeps s0 s) : Keeps s0 (precodeSymbol s ci slot sym) := by
  unfold precodeSymbol
  split
  · exact hs
  · exact updCell_keeps (.foldl _ (fun t ht _ => putSymbolWord_keeps ht) hs)

theorem sendFronthaul_keeps {c what p} (hs : Keeps s0 s) : Keeps s0 (sendFronthaul s c what p) := by
  unfold sendFronthaul
  exact chargeJob_keeps (sendFrame_keeps hs)

theorem sendSymbol_keeps {ci c j slot sym} (hs : Keeps s0 s) : Keeps s0 (sendSymbol s ci c j slot sym) := by
  unfold sendSymbol
  exact .foldl _ (fun t ht _ => .foldl _ (fun t' ht' _ => updCell_keeps (sendFronthaul_keeps ht')) ht) hs

theorem execSymbolDeparture.txLate_keeps {cell c slot limit} (hs : Keeps s0 s) : Keeps s0
    (execSymbolDeparture.txLate s cell c slot limit) := by
  unfold execSymbolDeparture.txLate
  exact chargeJob_keeps (partEvent_keeps (updCell_keeps hs))

theorem execSymbolDeparture_keeps {cell slot symbol} (hs : Keeps s0 s) : OutKeeps s0 (execSymbolDeparture cell slot symbol s) := by
  unfold execSymbolDeparture
  refine .next ?_
  split
  · exact hs
  · split
    · exact hs
    · refine .ite hs ?_
      dsimp only
      split
      · exact postConsumed_keeps (.ite (execSymbolDeparture.txLate_keeps (updCell_keeps hs)) (.ite (sendSymbol_keeps (updCell_keeps hs))
          (updCell_keeps hs)))
      · exact .ite (execSymbolDeparture.txLate_keeps (updCell_keeps hs)) (updCell_keeps hs)

theorem sendCplane_keeps {c id seq dir filter slot sym type count rest} (hs : Keeps s0 s) : Keeps s0
    (sendCplane s c id seq dir filter slot sym type count rest) := by
  unfold sendCplane
  exact sendFronthaul_keeps hs

theorem execDlCplaneSend_keeps {cell slot} (hs : Keeps s0 s) : OutKeeps s0 (execDlCplaneSend cell slot s) := by
  unfold execDlCplaneSend
  refine .next ?_
  split
  · exact hs
  · exact .ite hs (.foldl _ (fun t ht _ => .foldl _ (fun t' ht' _ => updCell_keeps (sendCplane_keeps ht')) ht) hs)

theorem execUlCplaneSend_keeps {cell slot symbol} (hs : Keeps s0 s) : OutKeeps s0 (execUlCplaneSend cell slot symbol s) := by
  unfold execUlCplaneSend
  refine .next ?_
  split
  · exact hs
  · exact .ite hs (.foldl _ (fun t ht _ => updCell_keeps (.ite (sendCplane_keeps ht) (sendCplane_keeps ht))) hs)

/-! ### Cell commands -/

theorem fapiWhole_keeps {ci bytes} (hs : Keeps s0 s) : Keeps s0 (fapiWhole s ci bytes) := by
  unfold fapiWhole
  split
  · exact ulTti_keeps hs
  · exact dlTti_keeps hs
  · exact ulDci_keeps hs
  · exact txData_keeps hs
  · exact fapiError_keeps hs
  · exact fapiError_keeps hs

theorem carryFapi_keeps {c} (hs : Keeps s0 s) : Keeps s0 (carryFapi c s).1 := by
  unfold carryFapi
  refine whenOk_keeps hs ?_
  dsimp only
  split
  · exact refuse_keeps (updCell_keeps hs)
  · split
    · dsimp only
      exact fapiWhole_keeps (updCell_keeps hs)
    · dsimp only
      exact updCell_keeps hs

theorem execFapiTunnel_keeps {m} (hs : Keeps s0 s) : OutKeeps s0 (execFapiTunnel m s) := by
  unfold execFapiTunnel
  refine .next (.getD (takeCommand_keeps (fun e he c t ht => ?_) hs) hs)
  cases he
  exact carryFapi_keeps ht

theorem launchCell_keeps {ci c} (hs : Keeps s0 s) : Keeps s0 (launchCell s ci c) := by
  unfold launchCell
  exact adaptCellStarts_keeps (updCell_keeps (updRun_keeps (startInvocation_keeps (startInvocation_keeps hs))))

theorem settleCellLoads_keeps (hs : Keeps s0 s) : Keeps s0 (settleCellLoads s) := by
  unfold settleCellLoads
  refine .foldl _ (fun t ht _ => ?_) hs
  split
  · exact ht
  · exact .ite ht (launchCell_keeps (.foldl _ (fun t' ht' _ => retainSegs_keeps ht') (updWork_keeps rfl rfl ht)))

theorem settleLoads_keeps (hs : Keeps s0 s) : Keeps s0 (settleLoads s) := by
  unfold settleLoads
  exact settleCellLoads_keeps (settleHostLoads_keeps hs)

theorem loadCell_keeps {c cfg} (hs : Keeps s0 s) : Keeps s0 (loadCell s c cfg).1 := by
  unfold loadCell
  dsimp only
  split
  · exact hs
  · split
    · exact hs
    · dsimp only
      exact settleLoads_keeps (settleRinses_keeps (putCell_keeps (installJob_keeps (installJob_keeps hs))))

theorem carryCellStart_keeps {c} (hs : Keeps s0 s) : Keeps s0 (carryCellStart c s).1 := by
  unfold carryCellStart
  dsimp only
  split
  · exact whenOk_keeps hs hs
  · refine whenOk_keeps hs ?_
    split
    · exact refuse_keeps hs
    · split
      · exact hs
      · exact loadCell_keeps hs

theorem cellStarted_keeps {ci} (hs : Keeps s0 s) : Keeps s0 (cellStarted s ci) := by
  unfold cellStarted
  split
  · exact hs
  · split
    · exact hs
    · exact finish_keeps (putCell_keeps hs)

theorem stopNow_keeps {ci c tid} (hs : Keeps s0 s) : Keeps s0 (stopNow s ci c tid) := by
  unfold stopNow
  exact sendCellStopped_keeps (finish_keeps (.foldl _ (fun t ht _ => finish_keeps ht) (releaseCell_keeps hs)))

theorem stopLater_keeps {ci c tid} (hs : Keeps s0 s) : Keeps s0 (stopLater s ci c tid) := by
  unfold stopLater
  exact settleStop_keeps (updCell_keeps (stopAfterEpoch_keeps (updRun_keeps hs)))

theorem carryCellStop_keeps {c} (hs : Keeps s0 s) : Keeps s0 (carryCellStop c s).1 := by
  unfold carryCellStop
  refine whenOk_keeps hs ?_
  split
  · exact refuse_keeps hs
  · split
    · dsimp only
      exact stopNow_keeps hs
    · split
      · exact refuse_keeps hs
      · dsimp only
        exact stopLater_keeps hs

theorem carryCellStats_keeps {c} (hs : Keeps s0 s) : Keeps s0 (carryCellStats c s).1 := by
  unfold carryCellStats
  dsimp only
  split
  · exact whenOk_keeps hs (refuse_keeps hs)
  · exact whenOk_keeps hs (.ite (putCell_keeps (hbmWrite_keeps hs)) (hbmWrite_keeps hs))

end

end Sys2Proof.Machine
end

section
/-! Partitions, resets, restarts, power, steps and the rest of the device keep the queue, the fuses and the memories; with them every
command, and every step. -/

namespace Sys2Proof.Machine

section
variable {s0 s : State}

/-! ### Partition commands -/

theorem zeroTallies_keeps {first n} (hs : Keeps s0 s) : Keeps s0 (zeroTallies s first n) := by
  unfold zeroTallies
  exact updWork_keeps rfl rfl hs

theorem carryPartCreate_keeps {c} (hs : Keeps s0 s) : Keeps s0 (carryPartCreate c s).1 := by
  unfold carryPartCreate
  refine whenOk_keeps hs ?_
  split
  · exact hs
  · dsimp only
    exact updPower_keeps (zeroTallies_keeps (updWork_keeps rfl rfl hs))

theorem releaseTills_keeps {p} (hs : Keeps s0 s) : Keeps s0 (releaseTills s p) := by
  unfold releaseTills
  exact mk_host_keeps rfl rfl hs

theorem carryPartDestroy_keeps {c} (hs : Keeps s0 s) : Keeps s0 (carryPartDestroy c s).1 := by
  unfold carryPartDestroy
  refine whenOk_keeps hs ?_
  split
  · exact refuse_keeps hs
  · dsimp only
    exact startRinse_keeps (releaseTills_keeps (updPart_keeps (updWork_keeps rfl rfl (.foldl _ (fun t ht _ => completeWith_keeps ht)
      (.foldl _ (fun t ht _ => completeWith_keeps ht) hs)))))

theorem execPartDestroyComplete_keeps {part} (hs : Keeps s0 s) : OutKeeps s0 (execPartDestroyComplete part s) := by
  unfold execPartDestroyComplete
  refine .next ?_
  split
  · exact hs
  · split
    · exact hs
    · refine .ite hs (finish_keeps (.foldl _ (fun t ht _ => restSegs_keeps ht) (updPower_keeps (zeroTallies_keeps ?_))))
      exact updWork_hbm_keeps (wf_foldl _ fun m hm _ => Memory.wf_zero _ _ hm) rfl hs

theorem carryPartBind_keeps {c} (hs : Keeps s0 s) : Keeps s0 (carryPartBind c s).1 := by
  unfold carryPartBind
  refine whenOk_keeps hs ?_
  dsimp only
  exact updPart_keeps hs

theorem carryPartQuery_keeps {c} (hs : Keeps s0 s) : Keeps s0 (carryPartQuery c s).1 := by
  unfold carryPartQuery
  refine whenOk_keeps hs ?_
  split
  · exact refuse_keeps hs
  · exact hs

theorem carryLedgerRead_keeps {c} (hs : Keeps s0 s) : Keeps s0 (carryLedgerRead c s).1 := by
  unfold carryLedgerRead
  exact whenOk_keeps hs (.ite (updWork_keeps rfl rfl (hbmWrite_keeps (divideServices_keeps hs))) (hbmWrite_keeps
    (divideServices_keeps hs)))

theorem carryLedgerClear_keeps {c} (hs : Keeps s0 s) : Keeps s0 (carryLedgerClear c s).1 := by
  unfold carryLedgerClear
  refine whenOk_keeps hs ?_
  dsimp only
  exact updWork_keeps rfl rfl (divideServices_keeps hs)

/-! ### Sessions and tills -/

theorem openSession_keeps {src v} (hs : Keeps s0 s) : Keeps s0 (openSession s src v) := by
  unfold openSession
  split
  · exact updFn_keeps hs
  · exact updMgmt_keeps (mk_host_keeps rfl rfl hs)
  · exact hs

theorem carryHello_keeps {c} (hs : Keeps s0 s) : Keeps s0 (carryHello c s).1 := by
  unfold carryHello
  refine whenOk_keeps hs ?_
  dsimp only
  split
  · exact hs
  · dsimp only
    exact openSession_keeps hs

theorem carryBye_keeps {c} (hs : Keeps s0 s) : Keeps s0 (carryBye c s).1 := by
  unfold carryBye
  exact whenOk_keeps hs (mk_host_keeps rfl rfl (endSession_keeps hs))

theorem carryTillConfig_keeps {c} (hs : Keeps s0 s) : Keeps s0 (carryTillConfig c s).1 := by
  unfold carryTillConfig
  dsimp only
  split
  · exact whenOk_keeps hs hs
  · refine whenOk_keeps hs ?_
    split
    · exact mk_host_keeps rfl rfl hs
    · dsimp only
      exact updTill_keeps hs

theorem restartTill_keeps {n} (hs : Keeps s0 s) : Keeps s0 (restartTill s n) := by
  unfold restartTill
  exact updTill_keeps hs

theorem carryTillReset_keeps {c} (hs : Keeps s0 s) : Keeps s0 (carryTillReset c s).1 := by
  unfold carryTillReset
  refine whenOk_keeps hs ?_
  dsimp only
  exact restartTill_keeps hs

theorem carryTimeQuery_keeps {c} (hs : Keeps s0 s) : Keeps s0 (carryTimeQuery c s).1 := by
  unfold carryTimeQuery
  exact whenOk_keeps hs hs

/-! ### Function resets -/

theorem statusChanged_keeps (hs : Keeps s0 s) : Keeps s0 (statusChanged s) := by
  unfold statusChanged
  exact .foldl _ (fun t ht _ => raiseCause_keeps ht) hs

theorem stopTill_keeps {n} (hs : Keeps s0 s) : Keeps s0 (stopTill s n) := by
  unfold stopTill
  exact updTill_keeps hs

theorem forgetTickets_keeps {src} (hs : Keeps s0 s) : Keeps s0 (forgetTickets s src) := by
  unfold forgetTickets
  exact mk_host_keeps rfl rfl (.foldl _ (fun t ht _ => updTill_keeps ht) hs)

theorem abortOwned_keeps {src} (hs : Keeps s0 s) : Keeps s0 (abortOwned s src) := by
  unfold abortOwned
  exact settleRounds_keeps (abortWhere_keeps (.foldl _ (fun t ht _ => closeService_keeps (abortRun_keeps ht)) (.foldl _
    (fun t ht _ => stopCell_keeps ht) hs)))

theorem beginFnReset_keeps {f soft} (hs : Keeps s0 s) : Keeps s0 (beginFnReset s f soft) := by
  unfold beginFnReset
  exact .ite hs (overflowReset_keeps (forgetTickets_keeps (abortOwned_keeps (updWork_keeps rfl rfl (.foldl _
    (fun t ht _ => stopTill_keeps ht) (updFn_keeps hs))))))

theorem freshFnTills_keeps {f} (hs : Keeps s0 s) : Keeps s0 (freshFnTills s f) := by
  unfold freshFnTills
  exact .foldl _ (fun t ht _ => updTill_keeps ht) hs

theorem finishFnReset_keeps {f} (hs : Keeps s0 s) : Keeps s0 (finishFnReset s f) := by
  unfold finishFnReset
  exact .ite (.ite (raiseCause_keeps (freshFnTills_keeps (updFn_keeps hs))) (freshFnTills_keeps (updFn_keeps hs))) hs

theorem resetVfs_keeps {fs} (hs : Keeps s0 s) : Keeps s0 (resetVfs s fs) := by
  unfold resetVfs
  exact .foldl _ (fun t ht _ => beginFnReset_keeps ht) hs

theorem execFunctionLevelReset_keeps {f} (hs : Keeps s0 s) : OutKeeps s0 (execFunctionLevelReset f s) := by
  unfold execFunctionLevelReset
  exact .next (.ite (.ite (beginFnReset_keeps hs) hs) (beginFnReset_keeps (updChip_keeps (resetVfs_keeps hs))))

theorem conventionalReset_keeps (hs : Keeps s0 s) : Keeps s0 (conventionalReset s) := by
  unfold conventionalReset
  exact updChip_keeps (.foldl _ (fun t ht _ => beginFnReset_keeps ht) hs)

theorem execPcieConventionalReset_keeps {cause} (hs : Keeps s0 s) : OutKeeps s0 (execPcieConventionalReset cause s) := by
  unfold execPcieConventionalReset
  exact .next (.ite (updSys_keeps (updChip_keeps (updSys_keeps hs))) (conventionalReset_keeps (updChip_keeps (updSys_keeps hs))))

/-! ### Boot and restart -/

theorem writeCommit_keeps {c} (hs : Keeps s0 s) : Keeps s0 (writeCommit s c) := by
  unfold writeCommit
  exact updSec_keeps (by split <;> rfl) hs

theorem chooseSlot_keeps (hs : Keeps s0 s) : Keeps s0 (chooseSlot s).1 := by
  unfold chooseSlot
  dsimp only
  split
  · split
    · dsimp only
      exact writeCommit_keeps (writeCommit_keeps hs)
    · dsimp only
      exact writeCommit_keeps hs
  · split
    · dsimp only
      exact writeCommit_keeps hs
    · exact hs

theorem checkRetention_keeps {cold} (hs : Keeps s0 s) : Keeps s0 (checkRetention s cold) := by
  unfold checkRetention
  exact updSec_keeps (by dsimp only; split <;> rfl) hs

theorem bootLife_keeps (hs : Keeps s0 s) : Keeps s0 (bootLife s) := by
  unfold bootLife
  refine updSec_fuses_keeps ?_ ?_ ?_ ?_ hs
  case refine_4 =>
    dsimp only
    split_ifs <;> exact le_refl _
  all_goals
    dsimp only
    split_ifs <;> rfl

theorem bootRom_keeps {cold} (hs : Keeps s0 s) : Keeps s0 (bootRom s cold) := by
  unfold bootRom
  exact .ite (updSys_keeps (chooseSlot_keeps (bootLife_keeps (checkRetention_keeps hs)))) (updSys_keeps (updSec_keeps rfl
    (chooseSlot_keeps (bootLife_keeps (checkRetention_keeps hs)))))

theorem coldReset_keeps {strap aon} (hs : Keeps s0 s) : Keeps s0 (coldReset s strap aon) := by
  have hfresh (rel : Rel) (optics : Optics) (net : Net) (sys : Sys) : Keeps s0 { State.reset with
      sec := coldSec s.sec strap aon, rel := rel, optics := optics, net := net, sys := sys, sent := s.sent, pending := s.pending } :=
    Keeps.of_inv (s := s) rfl ⟨rfl, rfl, rfl, le_refl _⟩ (fun _ => ⟨rfl, rfl, rfl, fun _ he => nomatch he⟩) hs
  unfold coldReset
  exact updRel_keeps (.ite (updTiming_keeps (bootRom_keeps (hfresh _ _ _ _))) (bootRom_keeps (hfresh _ _ _ _)))

theorem cores_map_wf {cs : Tbl CoreCtl} {f : Nat × CoreCtl → CoreCtl} (hf : ∀ e, Memory.wf e.2.scratch = true → Memory.wf
    (f e).scratch = true)
    (h : ∀ e ∈ cs, Memory.wf e.2.scratch = true) : ∀ e ∈ cs.map fun e => (e.1, f e), Memory.wf e.2.scratch = true := by
  intro e he
  obtain ⟨a, ha, rfl⟩ := List.mem_map.mp he
  exact hf a (h a ha)

theorem updWork_mems_keeps {f : Work → Work} (h3 : Memory.wf s.work.hbm = true → Memory.wf (f s.work).hbm = true)
    (h4 : (∀ e ∈ s.work.cores, Memory.wf e.2.scratch = true) → ∀ e ∈ (f s.work).cores, Memory.wf e.2.scratch = true) (hs : Keeps s0 s) :
    Keeps s0 (updWork s f) :=
  Keeps.of_inv (s := s) rfl ⟨rfl, rfl, rfl, le_refl _⟩ (fun ⟨hhbm, htill, hhost, hcores⟩ => ⟨h3 hhbm, htill, hhost, h4 hcores⟩) hs

theorem wf_restCore {k : CoreCtl} {resident} (h : Memory.wf k.scratch = true) : Memory.wf (restCore k resident).scratch = true :=
  CoreCtl.wf_zeroSegs h

theorem warmRestart_keeps {recover} (hs : Keeps s0 s) : Keeps s0 (warmRestart s recover) := by
  unfold warmRestart
  refine .ite hs (bootRom_keeps (updSys_keeps (updRel_keeps (updOptics_keeps (updMgmt_keeps (updSec_keeps rfl
    (enterHoldover_keeps ?_)))))))
  exact mk_engines_keeps (.foldl _ (fun t ht _ => dropDebug_keeps ht) (updWork_mems_keeps id (cores_map_wf fun _ h => wf_restCore h) hs))

theorem readBoard_keeps (hs : Keeps s0 s) : Keeps s0 (readBoard s) := by
  unfold readBoard
  exact updOptics_keeps (updNet_keeps (updSys_keeps (.ite (.ite hs (logConfig_keeps hs)) (logConfig_keeps (.ite hs
    (logConfig_keeps hs))))))

theorem makeRepair_keeps {i r} (hs : Keeps s0 s) : Keeps s0 (makeRepair s i r) := by
  unfold makeRepair
  split
  · exact hs
  · exact log_keeps (updRel_keeps hs)

theorem coldBoot_keeps {r} (hs : Keeps s0 s) : Keeps s0 (coldBoot s r) := by
  unfold coldBoot
  exact .foldl _ (fun t ht _ => coreFails_keeps ht) (updRel_keeps (.foldl _ (fun t ht _ => makeRepair_keeps ht) (readBoard_keeps hs)))

theorem trialCommit_keeps (hs : Keeps s0 s) : Keeps s0 (trialCommit s) := by
  unfold trialCommit
  exact .ite hs (updSec_fuses_keeps rfl rfl rfl (Nat.le_max_left _ _) (writeCommit_keeps hs))

theorem endAllRuns_keeps (hs : Keeps s0 s) : Keeps s0 (endAllRuns s) := by
  unfold endAllRuns
  exact .foldl _ (fun t ht _ => endInvocation_keeps ht) hs

theorem abortWaiting_keeps (hs : Keeps s0 s) : Keeps s0 (abortWaiting s) := by
  unfold abortWaiting
  exact .foldl _ (fun t ht _ => finish_keeps ht) (updSec_keeps rfl (updRel_keeps (updWork_keeps rfl rfl (.foldl _
    (fun t ht _ => mk_radio_keeps ht) (.foldl _ (fun t ht _ => dropJob_keeps ht) hs)))))

theorem resumeCell_keeps {ci changed} (hs : Keeps s0 s) : Keeps s0 (resumeCell s ci changed) := by
  unfold resumeCell
  split
  · exact hs
  · split
    · exact sendCellStopped_keeps (finish_keeps (releaseCell_keeps hs))
    · dsimp only
      split
      · exact .ite (launchCell_keeps (adaptCellStops_keeps (updCell_keeps (putJob_keeps (putJob_keeps hs))))) (stopCell_keeps hs)
      · exact stopCell_keeps hs

theorem replaceJob_keeps {h} (hs : Keeps s0 s) : Keeps s0 (replaceJob s h) := by
  unfold replaceJob
  split
  · exact hs
  · refine .ite hs ?_
    split
    · exact retainSegs_keeps (rebindJob_keeps hs)
    · exact putJob_keeps hs

theorem warmSame_keeps (hs : Keeps s0 s) : Keeps s0 (warmSame s) := by
  unfold warmSame
  exact raiseFloors_keeps (.foldl _ (fun t ht _ => replaceJob_keeps ht) (.foldl _ (fun t ht _ => resumeCell_keeps ht) (.foldl _
    (fun t ht _ => closeService_keeps ht) hs)))

theorem warmOther_keeps (hs : Keeps s0 s) : Keeps s0 (warmOther s) := by
  unfold warmOther
  refine readBoard_keeps (updOptics_keeps (updRelne_keeps (updNet_keeps (updNet_keeps (updTiming_keeps (updRel_keeps (updPower_keeps
    (updChip_keeps (mk_host_keeps rfl rfl (.foldl _ (fun t ht _ => updFn_keeps ht) (.foldl _ (fun t ht _ => freshFnTills_keeps ht)
      (.foldl _ (fun t ht _ => stopTill_keeps ht) ?_))))))))))))
  refine updWork_mems_keeps id (cores_map_wf fun _ h => wf_restCore h) (.foldl _ (fun t ht _ => dropJob_keeps ht) ?_)
  exact .foldl _ (fun t ht _ => stopCell_keeps ht) (.foldl _ (fun t ht _ => closeService_keeps ht) hs)

theorem reachReady_keeps {b r} (hs : Keeps s0 s) : Keeps s0 (reachReady s b r) := by
  unfold reachReady
  refine .ite ?_ ?_
  · refine conventionalReset_keeps ?_
    refine updSys_keeps ?_
    refine .ite ?_ ?_
    · refine sendDeviceEvent_keeps ?_
      refine statusChanged_keeps ?_
      refine updSys_keeps ?_
      split
      · refine log_keeps ?_
        refine .ite ?_ ?_
        · refine updSec_keeps rfl ?_
          refine logConfig_keeps ?_
          refine .ite ?_ ?_
          · refine updSec_keeps rfl ?_
            refine logConfig_keeps ?_
            refine trialCommit_keeps ?_
            split
            · exact warmSame_keeps (.ite (.foldl _ (fun t ht _ => coreFails_keeps ht) (settleRinses_keeps (.ite
                (coldBoot_keeps hs) hs))) (settleRounds_keeps (settleServices_keeps (abortWaiting_keeps (endAllRuns_keeps (.foldl _
                (fun t ht _ => coreFails_keeps ht) (settleRinses_keeps (.ite (coldBoot_keeps hs) hs))))))))
            · exact warmOther_keeps (.ite (.foldl _ (fun t ht _ => coreFails_keeps ht) (settleRinses_keeps (.ite
                (coldBoot_keeps hs) hs))) (settleRounds_keeps (settleServices_keeps (abortWaiting_keeps (endAllRuns_keeps (.foldl _
                (fun t ht _ => coreFails_keeps ht) (settleRinses_keeps (.ite (coldBoot_keeps hs) hs))))))))
            · exact .ite (.foldl _ (fun t ht _ => coreFails_keeps ht) (settleRinses_keeps (.ite (coldBoot_keeps hs) hs)))
                (settleRounds_keeps (settleServices_keeps (abortWaiting_keeps (endAllRuns_keeps (.foldl _
                (fun t ht _ => coreFails_keeps ht) (settleRinses_keeps (.ite (coldBoot_keeps hs) hs)))))))
          · refine trialCommit_keeps ?_
            split
            · exact warmSame_keeps (.ite (.foldl _ (fun t ht _ => coreFails_keeps ht) (settleRinses_keeps (.ite
                (coldBoot_keeps hs) hs))) (settleRounds_keeps (settleServices_keeps (abortWaiting_keeps (endAllRuns_keeps (.foldl _
                (fun t ht _ => coreFails_keeps ht) (settleRinses_keeps (.ite (coldBoot_keeps hs) hs))))))))
            · exact warmOther_keeps (.ite (.foldl _ (fun t ht _ => coreFails_keeps ht) (settleRinses_keeps (.ite
                (coldBoot_keeps hs) hs))) (settleRounds_keeps (settleServices_keeps (abortWaiting_keeps (endAllRuns_keeps (.foldl _
                (fun t ht _ => coreFails_keeps ht) (settleRinses_keeps (.ite (coldBoot_keeps hs) hs))))))))
            · exact .ite (.foldl _ (fun t ht _ => coreFails_keeps ht) (settleRinses_keeps (.ite (coldBoot_keeps hs) hs)))
                (settleRounds_keeps (settleServices_keeps (abortWaiting_keeps (endAllRuns_keeps (.foldl _
                (fun t ht _ => coreFails_keeps ht) (settleRinses_keeps (.ite (coldBoot_keeps hs) hs)))))))
        · refine .ite ?_ ?_
          · refine updSec_keeps rfl ?_
            refine logConfig_keeps ?_
            refine trialCommit_keeps ?_
            split
            · exact warmSame_keeps (.ite (.foldl _ (fun t ht _ => coreFails_keeps ht) (settleRinses_keeps (.ite
                (coldBoot_keeps hs) hs))) (settleRounds_keeps (settleServices_keeps (abortWaiting_keeps (endAllRuns_keeps (.foldl _
                (fun t ht _ => coreFails_keeps ht) (settleRinses_keeps (.ite (coldBoot_keeps hs) hs))))))))
            · exact warmOther_keeps (.ite (.foldl _ (fun t ht _ => coreFails_keeps ht) (settleRinses_keeps (.ite
                (coldBoot_keeps hs) hs))) (settleRounds_keeps (settleServices_keeps (abortWaiting_keeps (endAllRuns_keeps (.foldl _
                (fun t ht _ => coreFails_keeps ht) (settleRinses_keeps (.ite (coldBoot_keeps hs) hs))))))))
            · exact .ite (.foldl _ (fun t ht _ => coreFails_keeps ht) (settleRinses_keeps (.ite (coldBoot_keeps hs) hs)))
                (settleRounds_keeps (settleServices_keeps (abortWaiting_keeps (endAllRuns_keeps (.foldl _
                (fun t ht _ => coreFails_keeps ht) (settleRinses_keeps (.ite (coldBoot_keeps hs) hs)))))))
          · refine trialCommit_keeps ?_
            split
            · exact warmSame_keeps (.ite (.foldl _ (fun t ht _ => coreFails_keeps ht) (settleRinses_keeps (.ite
                (coldBoot_keeps hs) hs))) (settleRounds_keeps (settleServices_keeps (abortWaiting_keeps (endAllRuns_keeps (.foldl _
                (fun t ht _ => coreFails_keeps ht) (settleRinses_keeps (.ite (coldBoot_keeps hs) hs))))))))
            · exact warmOther_keeps (.ite (.foldl _ (fun t ht _ => coreFails_keeps ht) (settleRinses_keeps (.ite
                (coldBoot_keeps hs) hs))) (settleRounds_keeps (settleServices_keeps (abortWaiting_keeps (endAllRuns_keeps (.foldl _
                (fun t ht _ => coreFails_keeps ht) (settleRinses_keeps (.ite (coldBoot_keeps hs) hs))))))))
            · exact .ite (.foldl _ (fun t ht _ => coreFails_keeps ht) (settleRinses_keeps (.ite (coldBoot_keeps hs) hs)))
                (settleRounds_keeps (settleServices_keeps (abortWaiting_keeps (endAllRuns_keeps (.foldl _
                (fun t ht _ => coreFails_keeps ht) (settleRinses_keeps (.ite (coldBoot_keeps hs) hs)))))))
      · refine .ite ?_ ?_
        · refine updSec_keeps rfl ?_
          refine logConfig_keeps ?_
          refine .ite ?_ ?_
          · refine updSec_keeps rfl ?_
            refine logConfig_keeps ?_
            refine trialCommit_keeps ?_
            split
            · exact warmSame_keeps (.ite (.foldl _ (fun t ht _ => coreFails_keeps ht) (settleRinses_keeps (.ite
                (coldBoot_keeps hs) hs))) (settleRounds_keeps (settleServices_keeps (abortWaiting_keeps (endAllRuns_keeps (.foldl _
                (fun t ht _ => coreFails_keeps ht) (settleRinses_keeps (.ite (coldBoot_keeps hs) hs))))))))
            · exact warmOther_keeps (.ite (.foldl _ (fun t ht _ => coreFails_keeps ht) (settleRinses_keeps (.ite
                (coldBoot_keeps hs) hs))) (settleRounds_keeps (settleServices_keeps (abortWaiting_keeps (endAllRuns_keeps (.foldl _
                (fun t ht _ => coreFails_keeps ht) (settleRinses_keeps (.ite (coldBoot_keeps hs) hs))))))))
            · exact .ite (.foldl _ (fun t ht _ => coreFails_keeps ht) (settleRinses_keeps (.ite (coldBoot_keeps hs) hs)))
                (settleRounds_keeps (settleServices_keeps (abortWaiting_keeps (endAllRuns_keeps (.foldl _
                (fun t ht _ => coreFails_keeps ht) (settleRinses_keeps (.ite (coldBoot_keeps hs) hs)))))))
          · refine trialCommit_keeps ?_
            split
            · exact warmSame_keeps (.ite (.foldl _ (fun t ht _ => coreFails_keeps ht) (settleRinses_keeps (.ite
                (coldBoot_keeps hs) hs))) (settleRounds_keeps (settleServices_keeps (abortWaiting_keeps (endAllRuns_keeps (.foldl _
                (fun t ht _ => coreFails_keeps ht) (settleRinses_keeps (.ite (coldBoot_keeps hs) hs))))))))
            · exact warmOther_keeps (.ite (.foldl _ (fun t ht _ => coreFails_keeps ht) (settleRinses_keeps (.ite
                (coldBoot_keeps hs) hs))) (settleRounds_keeps (settleServices_keeps (abortWaiting_keeps (endAllRuns_keeps (.foldl _
                (fun t ht _ => coreFails_keeps ht) (settleRinses_keeps (.ite (coldBoot_keeps hs) hs))))))))
            · exact .ite (.foldl _ (fun t ht _ => coreFails_keeps ht) (settleRinses_keeps (.ite (coldBoot_keeps hs) hs)))
                (settleRounds_keeps (settleServices_keeps (abortWaiting_keeps (endAllRuns_keeps (.foldl _
                (fun t ht _ => coreFails_keeps ht) (settleRinses_keeps (.ite (coldBoot_keeps hs) hs)))))))
        · refine .ite ?_ ?_
          · refine updSec_keeps rfl ?_
            refine logConfig_keeps ?_
            refine trialCommit_keeps ?_
            split
            · exact warmSame_keeps (.ite (.foldl _ (fun t ht _ => coreFails_keeps ht) (settleRinses_keeps (.ite
                (coldBoot_keeps hs) hs))) (settleRounds_keeps (settleServices_keeps (abortWaiting_keeps (endAllRuns_keeps (.foldl _
                (fun t ht _ => coreFails_keeps ht) (settleRinses_keeps (.ite (coldBoot_keeps hs) hs))))))))
            · exact warmOther_keeps (.ite (.foldl _ (fun t ht _ => coreFails_keeps ht) (settleRinses_keeps (.ite
                (coldBoot_keeps hs) hs))) (settleRounds_keeps (settleServices_keeps (abortWaiting_keeps (endAllRuns_keeps (.foldl _
                (fun t ht _ => coreFails_keeps ht) (settleRinses_keeps (.ite (coldBoot_keeps hs) hs))))))))
            · exact .ite (.foldl _ (fun t ht _ => coreFails_keeps ht) (settleRinses_keeps (.ite (coldBoot_keeps hs) hs)))
                (settleRounds_keeps (settleServices_keeps (abortWaiting_keeps (endAllRuns_keeps (.foldl _
                (fun t ht _ => coreFails_keeps ht) (settleRinses_keeps (.ite (coldBoot_keeps hs) hs)))))))
          · refine trialCommit_keeps ?_
            split
            · exact warmSame_keeps (.ite (.foldl _ (fun t ht _ => coreFails_keeps ht) (settleRinses_keeps (.ite
                (coldBoot_keeps hs) hs))) (settleRounds_keeps (settleServices_keeps (abortWaiting_keeps (endAllRuns_keeps (.foldl _
                (fun t ht _ => coreFails_keeps ht) (settleRinses_keeps (.ite (coldBoot_keeps hs) hs))))))))
            · exact warmOther_keeps (.ite (.foldl _ (fun t ht _ => coreFails_keeps ht) (settleRinses_keeps (.ite
                (coldBoot_keeps hs) hs))) (settleRounds_keeps (settleServices_keeps (abortWaiting_keeps (endAllRuns_keeps (.foldl _
                (fun t ht _ => coreFails_keeps ht) (settleRinses_keeps (.ite (coldBoot_keeps hs) hs))))))))
            · exact .ite (.foldl _ (fun t ht _ => coreFails_keeps ht) (settleRinses_keeps (.ite (coldBoot_keeps hs) hs)))
                (settleRounds_keeps (settleServices_keeps (abortWaiting_keeps (endAllRuns_keeps (.foldl _
                (fun t ht _ => coreFails_keeps ht) (settleRinses_keeps (.ite (coldBoot_keeps hs) hs)))))))
    · refine statusChanged_keeps ?_
      refine updSys_keeps ?_
      split
      · refine log_keeps ?_
        refine .ite ?_ ?_
        · refine updSec_keeps rfl ?_
          refine logConfig_keeps ?_
          refine .ite ?_ ?_
          · refine updSec_keeps rfl ?_
            refine logConfig_keeps ?_
            refine trialCommit_keeps ?_
            split
            · exact warmSame_keeps (.ite (.foldl _ (fun t ht _ => coreFails_keeps ht) (settleRinses_keeps (.ite
                (coldBoot_keeps hs) hs))) (settleRounds_keeps (settleServices_keeps (abortWaiting_keeps (endAllRuns_keeps (.foldl _
                (fun t ht _ => coreFails_keeps ht) (settleRinses_keeps (.ite (coldBoot_keeps hs) hs))))))))
            · exact warmOther_keeps (.ite (.foldl _ (fun t ht _ => coreFails_keeps ht) (settleRinses_keeps (.ite
                (coldBoot_keeps hs) hs))) (settleRounds_keeps (settleServices_keeps (abortWaiting_keeps (endAllRuns_keeps (.foldl _
                (fun t ht _ => coreFails_keeps ht) (settleRinses_keeps (.ite (coldBoot_keeps hs) hs))))))))
            · exact .ite (.foldl _ (fun t ht _ => coreFails_keeps ht) (settleRinses_keeps (.ite (coldBoot_keeps hs) hs)))
                (settleRounds_keeps (settleServices_keeps (abortWaiting_keeps (endAllRuns_keeps (.foldl _
                (fun t ht _ => coreFails_keeps ht) (settleRinses_keeps (.ite (coldBoot_keeps hs) hs)))))))
          · refine trialCommit_keeps ?_
            split
            · exact warmSame_keeps (.ite (.foldl _ (fun t ht _ => coreFails_keeps ht) (settleRinses_keeps (.ite
                (coldBoot_keeps hs) hs))) (settleRounds_keeps (settleServices_keeps (abortWaiting_keeps (endAllRuns_keeps (.foldl _
                (fun t ht _ => coreFails_keeps ht) (settleRinses_keeps (.ite (coldBoot_keeps hs) hs))))))))
            · exact warmOther_keeps (.ite (.foldl _ (fun t ht _ => coreFails_keeps ht) (settleRinses_keeps (.ite
                (coldBoot_keeps hs) hs))) (settleRounds_keeps (settleServices_keeps (abortWaiting_keeps (endAllRuns_keeps (.foldl _
                (fun t ht _ => coreFails_keeps ht) (settleRinses_keeps (.ite (coldBoot_keeps hs) hs))))))))
            · exact .ite (.foldl _ (fun t ht _ => coreFails_keeps ht) (settleRinses_keeps (.ite (coldBoot_keeps hs) hs)))
                (settleRounds_keeps (settleServices_keeps (abortWaiting_keeps (endAllRuns_keeps (.foldl _
                (fun t ht _ => coreFails_keeps ht) (settleRinses_keeps (.ite (coldBoot_keeps hs) hs)))))))
        · refine .ite ?_ ?_
          · refine updSec_keeps rfl ?_
            refine logConfig_keeps ?_
            refine trialCommit_keeps ?_
            split
            · exact warmSame_keeps (.ite (.foldl _ (fun t ht _ => coreFails_keeps ht) (settleRinses_keeps (.ite
                (coldBoot_keeps hs) hs))) (settleRounds_keeps (settleServices_keeps (abortWaiting_keeps (endAllRuns_keeps (.foldl _
                (fun t ht _ => coreFails_keeps ht) (settleRinses_keeps (.ite (coldBoot_keeps hs) hs))))))))
            · exact warmOther_keeps (.ite (.foldl _ (fun t ht _ => coreFails_keeps ht) (settleRinses_keeps (.ite
                (coldBoot_keeps hs) hs))) (settleRounds_keeps (settleServices_keeps (abortWaiting_keeps (endAllRuns_keeps (.foldl _
                (fun t ht _ => coreFails_keeps ht) (settleRinses_keeps (.ite (coldBoot_keeps hs) hs))))))))
            · exact .ite (.foldl _ (fun t ht _ => coreFails_keeps ht) (settleRinses_keeps (.ite (coldBoot_keeps hs) hs)))
                (settleRounds_keeps (settleServices_keeps (abortWaiting_keeps (endAllRuns_keeps (.foldl _
                (fun t ht _ => coreFails_keeps ht) (settleRinses_keeps (.ite (coldBoot_keeps hs) hs)))))))
          · refine trialCommit_keeps ?_
            split
            · exact warmSame_keeps (.ite (.foldl _ (fun t ht _ => coreFails_keeps ht) (settleRinses_keeps (.ite
                (coldBoot_keeps hs) hs))) (settleRounds_keeps (settleServices_keeps (abortWaiting_keeps (endAllRuns_keeps (.foldl _
                (fun t ht _ => coreFails_keeps ht) (settleRinses_keeps (.ite (coldBoot_keeps hs) hs))))))))
            · exact warmOther_keeps (.ite (.foldl _ (fun t ht _ => coreFails_keeps ht) (settleRinses_keeps (.ite
                (coldBoot_keeps hs) hs))) (settleRounds_keeps (settleServices_keeps (abortWaiting_keeps (endAllRuns_keeps (.foldl _
                (fun t ht _ => coreFails_keeps ht) (settleRinses_keeps (.ite (coldBoot_keeps hs) hs))))))))
            · exact .ite (.foldl _ (fun t ht _ => coreFails_keeps ht) (settleRinses_keeps (.ite (coldBoot_keeps hs) hs)))
                (settleRounds_keeps (settleServices_keeps (abortWaiting_keeps (endAllRuns_keeps (.foldl _
                (fun t ht _ => coreFails_keeps ht) (settleRinses_keeps (.ite (coldBoot_keeps hs) hs)))))))
      · refine .ite ?_ ?_
        · refine updSec_keeps rfl ?_
          refine logConfig_keeps ?_
          refine .ite ?_ ?_
          · refine updSec_keeps rfl ?_
            refine logConfig_keeps ?_
            refine trialCommit_keeps ?_
            split
            · exact warmSame_keeps (.ite (.foldl _ (fun t ht _ => coreFails_keeps ht) (settleRinses_keeps (.ite
                (coldBoot_keeps hs) hs))) (settleRounds_keeps (settleServices_keeps (abortWaiting_keeps (endAllRuns_keeps (.foldl _
                (fun t ht _ => coreFails_keeps ht) (settleRinses_keeps (.ite (coldBoot_keeps hs) hs))))))))
            · exact warmOther_keeps (.ite (.foldl _ (fun t ht _ => coreFails_keeps ht) (settleRinses_keeps (.ite
                (coldBoot_keeps hs) hs))) (settleRounds_keeps (settleServices_keeps (abortWaiting_keeps (endAllRuns_keeps (.foldl _
                (fun t ht _ => coreFails_keeps ht) (settleRinses_keeps (.ite (coldBoot_keeps hs) hs))))))))
            · exact .ite (.foldl _ (fun t ht _ => coreFails_keeps ht) (settleRinses_keeps (.ite (coldBoot_keeps hs) hs)))
                (settleRounds_keeps (settleServices_keeps (abortWaiting_keeps (endAllRuns_keeps (.foldl _
                (fun t ht _ => coreFails_keeps ht) (settleRinses_keeps (.ite (coldBoot_keeps hs) hs)))))))
          · refine trialCommit_keeps ?_
            split
            · exact warmSame_keeps (.ite (.foldl _ (fun t ht _ => coreFails_keeps ht) (settleRinses_keeps (.ite
                (coldBoot_keeps hs) hs))) (settleRounds_keeps (settleServices_keeps (abortWaiting_keeps (endAllRuns_keeps (.foldl _
                (fun t ht _ => coreFails_keeps ht) (settleRinses_keeps (.ite (coldBoot_keeps hs) hs))))))))
            · exact warmOther_keeps (.ite (.foldl _ (fun t ht _ => coreFails_keeps ht) (settleRinses_keeps (.ite
                (coldBoot_keeps hs) hs))) (settleRounds_keeps (settleServices_keeps (abortWaiting_keeps (endAllRuns_keeps (.foldl _
                (fun t ht _ => coreFails_keeps ht) (settleRinses_keeps (.ite (coldBoot_keeps hs) hs))))))))
            · exact .ite (.foldl _ (fun t ht _ => coreFails_keeps ht) (settleRinses_keeps (.ite (coldBoot_keeps hs) hs)))
                (settleRounds_keeps (settleServices_keeps (abortWaiting_keeps (endAllRuns_keeps (.foldl _
                (fun t ht _ => coreFails_keeps ht) (settleRinses_keeps (.ite (coldBoot_keeps hs) hs)))))))
        · refine .ite ?_ ?_
          · refine updSec_keeps rfl ?_
            refine logConfig_keeps ?_
            refine trialCommit_keeps ?_
            split
            · exact warmSame_keeps (.ite (.foldl _ (fun t ht _ => coreFails_keeps ht) (settleRinses_keeps (.ite
                (coldBoot_keeps hs) hs))) (settleRounds_keeps (settleServices_keeps (abortWaiting_keeps (endAllRuns_keeps (.foldl _
                (fun t ht _ => coreFails_keeps ht) (settleRinses_keeps (.ite (coldBoot_keeps hs) hs))))))))
            · exact warmOther_keeps (.ite (.foldl _ (fun t ht _ => coreFails_keeps ht) (settleRinses_keeps (.ite
                (coldBoot_keeps hs) hs))) (settleRounds_keeps (settleServices_keeps (abortWaiting_keeps (endAllRuns_keeps (.foldl _
                (fun t ht _ => coreFails_keeps ht) (settleRinses_keeps (.ite (coldBoot_keeps hs) hs))))))))
            · exact .ite (.foldl _ (fun t ht _ => coreFails_keeps ht) (settleRinses_keeps (.ite (coldBoot_keeps hs) hs)))
                (settleRounds_keeps (settleServices_keeps (abortWaiting_keeps (endAllRuns_keeps (.foldl _
                (fun t ht _ => coreFails_keeps ht) (settleRinses_keeps (.ite (coldBoot_keeps hs) hs)))))))
          · refine trialCommit_keeps ?_
            split
            · exact warmSame_keeps (.ite (.foldl _ (fun t ht _ => coreFails_keeps ht) (settleRinses_keeps (.ite
                (coldBoot_keeps hs) hs))) (settleRounds_keeps (settleServices_keeps (abortWaiting_keeps (endAllRuns_keeps (.foldl _
                (fun t ht _ => coreFails_keeps ht) (settleRinses_keeps (.ite (coldBoot_keeps hs) hs))))))))
            · exact warmOther_keeps (.ite (.foldl _ (fun t ht _ => coreFails_keeps ht) (settleRinses_keeps (.ite
                (coldBoot_keeps hs) hs))) (settleRounds_keeps (settleServices_keeps (abortWaiting_keeps (endAllRuns_keeps (.foldl _
                (fun t ht _ => coreFails_keeps ht) (settleRinses_keeps (.ite (coldBoot_keeps hs) hs))))))))
            · exact .ite (.foldl _ (fun t ht _ => coreFails_keeps ht) (settleRinses_keeps (.ite (coldBoot_keeps hs) hs)))
                (settleRounds_keeps (settleServices_keeps (abortWaiting_keeps (endAllRuns_keeps (.foldl _
                (fun t ht _ => coreFails_keeps ht) (settleRinses_keeps (.ite (coldBoot_keeps hs) hs)))))))
  · refine .ite ?_ ?_
    · refine sendDeviceEvent_keeps ?_
      refine statusChanged_keeps ?_
      refine updSys_keeps ?_
      split
      · refine log_keeps ?_
        refine .ite ?_ ?_
        · refine updSec_keeps rfl ?_
          refine logConfig_keeps ?_
          refine .ite ?_ ?_
          · refine updSec_keeps rfl ?_
            refine logConfig_keeps ?_
            refine trialCommit_keeps ?_
            split
            · exact warmSame_keeps (.ite (.foldl _ (fun t ht _ => coreFails_keeps ht) (settleRinses_keeps (.ite
                (coldBoot_keeps hs) hs))) (settleRounds_keeps (settleServices_keeps (abortWaiting_keeps (endAllRuns_keeps (.foldl _
                (fun t ht _ => coreFails_keeps ht) (settleRinses_keeps (.ite (coldBoot_keeps hs) hs))))))))
            · exact warmOther_keeps (.ite (.foldl _ (fun t ht _ => coreFails_keeps ht) (settleRinses_keeps (.ite
                (coldBoot_keeps hs) hs))) (settleRounds_keeps (settleServices_keeps (abortWaiting_keeps (endAllRuns_keeps (.foldl _
                (fun t ht _ => coreFails_keeps ht) (settleRinses_keeps (.ite (coldBoot_keeps hs) hs))))))))
            · exact .ite (.foldl _ (fun t ht _ => coreFails_keeps ht) (settleRinses_keeps (.ite (coldBoot_keeps hs) hs)))
                (settleRounds_keeps (settleServices_keeps (abortWaiting_keeps (endAllRuns_keeps (.foldl _
                (fun t ht _ => coreFails_keeps ht) (settleRinses_keeps (.ite (coldBoot_keeps hs) hs)))))))
          · refine trialCommit_keeps ?_
            split
            · exact warmSame_keeps (.ite (.foldl _ (fun t ht _ => coreFails_keeps ht) (settleRinses_keeps (.ite
                (coldBoot_keeps hs) hs))) (settleRounds_keeps (settleServices_keeps (abortWaiting_keeps (endAllRuns_keeps (.foldl _
                (fun t ht _ => coreFails_keeps ht) (settleRinses_keeps (.ite (coldBoot_keeps hs) hs))))))))
            · exact warmOther_keeps (.ite (.foldl _ (fun t ht _ => coreFails_keeps ht) (settleRinses_keeps (.ite
                (coldBoot_keeps hs) hs))) (settleRounds_keeps (settleServices_keeps (abortWaiting_keeps (endAllRuns_keeps (.foldl _
                (fun t ht _ => coreFails_keeps ht) (settleRinses_keeps (.ite (coldBoot_keeps hs) hs))))))))
            · exact .ite (.foldl _ (fun t ht _ => coreFails_keeps ht) (settleRinses_keeps (.ite (coldBoot_keeps hs) hs)))
                (settleRounds_keeps (settleServices_keeps (abortWaiting_keeps (endAllRuns_keeps (.foldl _
                (fun t ht _ => coreFails_keeps ht) (settleRinses_keeps (.ite (coldBoot_keeps hs) hs)))))))
        · refine .ite ?_ ?_
          · refine updSec_keeps rfl ?_
            refine logConfig_keeps ?_
            refine trialCommit_keeps ?_
            split
            · exact warmSame_keeps (.ite (.foldl _ (fun t ht _ => coreFails_keeps ht) (settleRinses_keeps (.ite
                (coldBoot_keeps hs) hs))) (settleRounds_keeps (settleServices_keeps (abortWaiting_keeps (endAllRuns_keeps (.foldl _
                (fun t ht _ => coreFails_keeps ht) (settleRinses_keeps (.ite (coldBoot_keeps hs) hs))))))))
            · exact warmOther_keeps (.ite (.foldl _ (fun t ht _ => coreFails_keeps ht) (settleRinses_keeps (.ite
                (coldBoot_keeps hs) hs))) (settleRounds_keeps (settleServices_keeps (abortWaiting_keeps (endAllRuns_keeps (.foldl _
                (fun t ht _ => coreFails_keeps ht) (settleRinses_keeps (.ite (coldBoot_keeps hs) hs))))))))
            · exact .ite (.foldl _ (fun t ht _ => coreFails_keeps ht) (settleRinses_keeps (.ite (coldBoot_keeps hs) hs)))
                (settleRounds_keeps (settleServices_keeps (abortWaiting_keeps (endAllRuns_keeps (.foldl _
                (fun t ht _ => coreFails_keeps ht) (settleRinses_keeps (.ite (coldBoot_keeps hs) hs)))))))
          · refine trialCommit_keeps ?_
            split
            · exact warmSame_keeps (.ite (.foldl _ (fun t ht _ => coreFails_keeps ht) (settleRinses_keeps (.ite
                (coldBoot_keeps hs) hs))) (settleRounds_keeps (settleServices_keeps (abortWaiting_keeps (endAllRuns_keeps (.foldl _
                (fun t ht _ => coreFails_keeps ht) (settleRinses_keeps (.ite (coldBoot_keeps hs) hs))))))))
            · exact warmOther_keeps (.ite (.foldl _ (fun t ht _ => coreFails_keeps ht) (settleRinses_keeps (.ite
                (coldBoot_keeps hs) hs))) (settleRounds_keeps (settleServices_keeps (abortWaiting_keeps (endAllRuns_keeps (.foldl _
                (fun t ht _ => coreFails_keeps ht) (settleRinses_keeps (.ite (coldBoot_keeps hs) hs))))))))
            · exact .ite (.foldl _ (fun t ht _ => coreFails_keeps ht) (settleRinses_keeps (.ite (coldBoot_keeps hs) hs)))
                (settleRounds_keeps (settleServices_keeps (abortWaiting_keeps (endAllRuns_keeps (.foldl _
                (fun t ht _ => coreFails_keeps ht) (settleRinses_keeps (.ite (coldBoot_keeps hs) hs)))))))
      · refine .ite ?_ ?_
        · refine updSec_keeps rfl ?_
          refine logConfig_keeps ?_
          refine .ite ?_ ?_
          · refine updSec_keeps rfl ?_
            refine logConfig_keeps ?_
            refine trialCommit_keeps ?_
            split
            · exact warmSame_keeps (.ite (.foldl _ (fun t ht _ => coreFails_keeps ht) (settleRinses_keeps (.ite
                (coldBoot_keeps hs) hs))) (settleRounds_keeps (settleServices_keeps (abortWaiting_keeps (endAllRuns_keeps (.foldl _
                (fun t ht _ => coreFails_keeps ht) (settleRinses_keeps (.ite (coldBoot_keeps hs) hs))))))))
            · exact warmOther_keeps (.ite (.foldl _ (fun t ht _ => coreFails_keeps ht) (settleRinses_keeps (.ite
                (coldBoot_keeps hs) hs))) (settleRounds_keeps (settleServices_keeps (abortWaiting_keeps (endAllRuns_keeps (.foldl _
                (fun t ht _ => coreFails_keeps ht) (settleRinses_keeps (.ite (coldBoot_keeps hs) hs))))))))
            · exact .ite (.foldl _ (fun t ht _ => coreFails_keeps ht) (settleRinses_keeps (.ite (coldBoot_keeps hs) hs)))
                (settleRounds_keeps (settleServices_keeps (abortWaiting_keeps (endAllRuns_keeps (.foldl _
                (fun t ht _ => coreFails_keeps ht) (settleRinses_keeps (.ite (coldBoot_keeps hs) hs)))))))
          · refine trialCommit_keeps ?_
            split
            · exact warmSame_keeps (.ite (.foldl _ (fun t ht _ => coreFails_keeps ht) (settleRinses_keeps (.ite
                (coldBoot_keeps hs) hs))) (settleRounds_keeps (settleServices_keeps (abortWaiting_keeps (endAllRuns_keeps (.foldl _
                (fun t ht _ => coreFails_keeps ht) (settleRinses_keeps (.ite (coldBoot_keeps hs) hs))))))))
            · exact warmOther_keeps (.ite (.foldl _ (fun t ht _ => coreFails_keeps ht) (settleRinses_keeps (.ite
                (coldBoot_keeps hs) hs))) (settleRounds_keeps (settleServices_keeps (abortWaiting_keeps (endAllRuns_keeps (.foldl _
                (fun t ht _ => coreFails_keeps ht) (settleRinses_keeps (.ite (coldBoot_keeps hs) hs))))))))
            · exact .ite (.foldl _ (fun t ht _ => coreFails_keeps ht) (settleRinses_keeps (.ite (coldBoot_keeps hs) hs)))
                (settleRounds_keeps (settleServices_keeps (abortWaiting_keeps (endAllRuns_keeps (.foldl _
                (fun t ht _ => coreFails_keeps ht) (settleRinses_keeps (.ite (coldBoot_keeps hs) hs)))))))
        · refine .ite ?_ ?_
          · refine updSec_keeps rfl ?_
            refine logConfig_keeps ?_
            refine trialCommit_keeps ?_
            split
            · exact warmSame_keeps (.ite (.foldl _ (fun t ht _ => coreFails_keeps ht) (settleRinses_keeps (.ite
                (coldBoot_keeps hs) hs))) (settleRounds_keeps (settleServices_keeps (abortWaiting_keeps (endAllRuns_keeps (.foldl _
                (fun t ht _ => coreFails_keeps ht) (settleRinses_keeps (.ite (coldBoot_keeps hs) hs))))))))
            · exact warmOther_keeps (.ite (.foldl _ (fun t ht _ => coreFails_keeps ht) (settleRinses_keeps (.ite
                (coldBoot_keeps hs) hs))) (settleRounds_keeps (settleServices_keeps (abortWaiting_keeps (endAllRuns_keeps (.foldl _
                (fun t ht _ => coreFails_keeps ht) (settleRinses_keeps (.ite (coldBoot_keeps hs) hs))))))))
            · exact .ite (.foldl _ (fun t ht _ => coreFails_keeps ht) (settleRinses_keeps (.ite (coldBoot_keeps hs) hs)))
                (settleRounds_keeps (settleServices_keeps (abortWaiting_keeps (endAllRuns_keeps (.foldl _
                (fun t ht _ => coreFails_keeps ht) (settleRinses_keeps (.ite (coldBoot_keeps hs) hs)))))))
          · refine trialCommit_keeps ?_
            split
            · exact warmSame_keeps (.ite (.foldl _ (fun t ht _ => coreFails_keeps ht) (settleRinses_keeps (.ite
                (coldBoot_keeps hs) hs))) (settleRounds_keeps (settleServices_keeps (abortWaiting_keeps (endAllRuns_keeps (.foldl _
                (fun t ht _ => coreFails_keeps ht) (settleRinses_keeps (.ite (coldBoot_keeps hs) hs))))))))
            · exact warmOther_keeps (.ite (.foldl _ (fun t ht _ => coreFails_keeps ht) (settleRinses_keeps (.ite
                (coldBoot_keeps hs) hs))) (settleRounds_keeps (settleServices_keeps (abortWaiting_keeps (endAllRuns_keeps (.foldl _
                (fun t ht _ => coreFails_keeps ht) (settleRinses_keeps (.ite (coldBoot_keeps hs) hs))))))))
            · exact .ite (.foldl _ (fun t ht _ => coreFails_keeps ht) (settleRinses_keeps (.ite (coldBoot_keeps hs) hs)))
                (settleRounds_keeps (settleServices_keeps (abortWaiting_keeps (endAllRuns_keeps (.foldl _
                (fun t ht _ => coreFails_keeps ht) (settleRinses_keeps (.ite (coldBoot_keeps hs) hs)))))))
    · refine statusChanged_keeps ?_
      refine updSys_keeps ?_
      split
      · refine log_keeps ?_
        refine .ite ?_ ?_
        · refine updSec_keeps rfl ?_
          refine logConfig_keeps ?_
          refine .ite ?_ ?_
          · refine updSec_keeps rfl ?_
            refine logConfig_keeps ?_
            refine trialCommit_keeps ?_
            split
            · exact warmSame_keeps (.ite (.foldl _ (fun t ht _ => coreFails_keeps ht) (settleRinses_keeps (.ite
                (coldBoot_keeps hs) hs))) (settleRounds_keeps (settleServices_keeps (abortWaiting_keeps (endAllRuns_keeps (.foldl _
                (fun t ht _ => coreFails_keeps ht) (settleRinses_keeps (.ite (coldBoot_keeps hs) hs))))))))
            · exact warmOther_keeps (.ite (.foldl _ (fun t ht _ => coreFails_keeps ht) (settleRinses_keeps (.ite
                (coldBoot_keeps hs) hs))) (settleRounds_keeps (settleServices_keeps (abortWaiting_keeps (endAllRuns_keeps (.foldl _
                (fun t ht _ => coreFails_keeps ht) (settleRinses_keeps (.ite (coldBoot_keeps hs) hs))))))))
            · exact .ite (.foldl _ (fun t ht _ => coreFails_keeps ht) (settleRinses_keeps (.ite (coldBoot_keeps hs) hs)))
                (settleRounds_keeps (settleServices_keeps (abortWaiting_keeps (endAllRuns_keeps (.foldl _
                (fun t ht _ => coreFails_keeps ht) (settleRinses_keeps (.ite (coldBoot_keeps hs) hs)))))))
          · refine trialCommit_keeps ?_
            split
            · exact warmSame_keeps (.ite (.foldl _ (fun t ht _ => coreFails_keeps ht) (settleRinses_keeps (.ite
                (coldBoot_keeps hs) hs))) (settleRounds_keeps (settleServices_keeps (abortWaiting_keeps (endAllRuns_keeps (.foldl _
                (fun t ht _ => coreFails_keeps ht) (settleRinses_keeps (.ite (coldBoot_keeps hs) hs))))))))
            · exact warmOther_keeps (.ite (.foldl _ (fun t ht _ => coreFails_keeps ht) (settleRinses_keeps (.ite
                (coldBoot_keeps hs) hs))) (settleRounds_keeps (settleServices_keeps (abortWaiting_keeps (endAllRuns_keeps (.foldl _
                (fun t ht _ => coreFails_keeps ht) (settleRinses_keeps (.ite (coldBoot_keeps hs) hs))))))))
            · exact .ite (.foldl _ (fun t ht _ => coreFails_keeps ht) (settleRinses_keeps (.ite (coldBoot_keeps hs) hs)))
                (settleRounds_keeps (settleServices_keeps (abortWaiting_keeps (endAllRuns_keeps (.foldl _
                (fun t ht _ => coreFails_keeps ht) (settleRinses_keeps (.ite (coldBoot_keeps hs) hs)))))))
        · refine .ite ?_ ?_
          · refine updSec_keeps rfl ?_
            refine logConfig_keeps ?_
            refine trialCommit_keeps ?_
            split
            · exact warmSame_keeps (.ite (.foldl _ (fun t ht _ => coreFails_keeps ht) (settleRinses_keeps (.ite
                (coldBoot_keeps hs) hs))) (settleRounds_keeps (settleServices_keeps (abortWaiting_keeps (endAllRuns_keeps (.foldl _
                (fun t ht _ => coreFails_keeps ht) (settleRinses_keeps (.ite (coldBoot_keeps hs) hs))))))))
            · exact warmOther_keeps (.ite (.foldl _ (fun t ht _ => coreFails_keeps ht) (settleRinses_keeps (.ite
                (coldBoot_keeps hs) hs))) (settleRounds_keeps (settleServices_keeps (abortWaiting_keeps (endAllRuns_keeps (.foldl _
                (fun t ht _ => coreFails_keeps ht) (settleRinses_keeps (.ite (coldBoot_keeps hs) hs))))))))
            · exact .ite (.foldl _ (fun t ht _ => coreFails_keeps ht) (settleRinses_keeps (.ite (coldBoot_keeps hs) hs)))
                (settleRounds_keeps (settleServices_keeps (abortWaiting_keeps (endAllRuns_keeps (.foldl _
                (fun t ht _ => coreFails_keeps ht) (settleRinses_keeps (.ite (coldBoot_keeps hs) hs)))))))
          · refine trialCommit_keeps ?_
            split
            · exact warmSame_keeps (.ite (.foldl _ (fun t ht _ => coreFails_keeps ht) (settleRinses_keeps (.ite
                (coldBoot_keeps hs) hs))) (settleRounds_keeps (settleServices_keeps (abortWaiting_keeps (endAllRuns_keeps (.foldl _
                (fun t ht _ => coreFails_keeps ht) (settleRinses_keeps (.ite (coldBoot_keeps hs) hs))))))))
            · exact warmOther_keeps (.ite (.foldl _ (fun t ht _ => coreFails_keeps ht) (settleRinses_keeps (.ite
                (coldBoot_keeps hs) hs))) (settleRounds_keeps (settleServices_keeps (abortWaiting_keeps (endAllRuns_keeps (.foldl _
                (fun t ht _ => coreFails_keeps ht) (settleRinses_keeps (.ite (coldBoot_keeps hs) hs))))))))
            · exact .ite (.foldl _ (fun t ht _ => coreFails_keeps ht) (settleRinses_keeps (.ite (coldBoot_keeps hs) hs)))
                (settleRounds_keeps (settleServices_keeps (abortWaiting_keeps (endAllRuns_keeps (.foldl _
                (fun t ht _ => coreFails_keeps ht) (settleRinses_keeps (.ite (coldBoot_keeps hs) hs)))))))
      · refine .ite ?_ ?_
        · refine updSec_keeps rfl ?_
          refine logConfig_keeps ?_
          refine .ite ?_ ?_
          · refine updSec_keeps rfl ?_
            refine logConfig_keeps ?_
            refine trialCommit_keeps ?_
            split
            · exact warmSame_keeps (.ite (.foldl _ (fun t ht _ => coreFails_keeps ht) (settleRinses_keeps (.ite
                (coldBoot_keeps hs) hs))) (settleRounds_keeps (settleServices_keeps (abortWaiting_keeps (endAllRuns_keeps (.foldl _
                (fun t ht _ => coreFails_keeps ht) (settleRinses_keeps (.ite (coldBoot_keeps hs) hs))))))))
            · exact warmOther_keeps (.ite (.foldl _ (fun t ht _ => coreFails_keeps ht) (settleRinses_keeps (.ite
                (coldBoot_keeps hs) hs))) (settleRounds_keeps (settleServices_keeps (abortWaiting_keeps (endAllRuns_keeps (.foldl _
                (fun t ht _ => coreFails_keeps ht) (settleRinses_keeps (.ite (coldBoot_keeps hs) hs))))))))
            · exact .ite (.foldl _ (fun t ht _ => coreFails_keeps ht) (settleRinses_keeps (.ite (coldBoot_keeps hs) hs)))
                (settleRounds_keeps (settleServices_keeps (abortWaiting_keeps (endAllRuns_keeps (.foldl _
                (fun t ht _ => coreFails_keeps ht) (settleRinses_keeps (.ite (coldBoot_keeps hs) hs)))))))
          · refine trialCommit_keeps ?_
            split
            · exact warmSame_keeps (.ite (.foldl _ (fun t ht _ => coreFails_keeps ht) (settleRinses_keeps (.ite
                (coldBoot_keeps hs) hs))) (settleRounds_keeps (settleServices_keeps (abortWaiting_keeps (endAllRuns_keeps (.foldl _
                (fun t ht _ => coreFails_keeps ht) (settleRinses_keeps (.ite (coldBoot_keeps hs) hs))))))))
            · exact warmOther_keeps (.ite (.foldl _ (fun t ht _ => coreFails_keeps ht) (settleRinses_keeps (.ite
                (coldBoot_keeps hs) hs))) (settleRounds_keeps (settleServices_keeps (abortWaiting_keeps (endAllRuns_keeps (.foldl _
                (fun t ht _ => coreFails_keeps ht) (settleRinses_keeps (.ite (coldBoot_keeps hs) hs))))))))
            · exact .ite (.foldl _ (fun t ht _ => coreFails_keeps ht) (settleRinses_keeps (.ite (coldBoot_keeps hs) hs)))
                (settleRounds_keeps (settleServices_keeps (abortWaiting_keeps (endAllRuns_keeps (.foldl _
                (fun t ht _ => coreFails_keeps ht) (settleRinses_keeps (.ite (coldBoot_keeps hs) hs)))))))
        · refine .ite ?_ ?_
          · refine updSec_keeps rfl ?_
            refine logConfig_keeps ?_
            refine trialCommit_keeps ?_
            split
            · exact warmSame_keeps (.ite (.foldl _ (fun t ht _ => coreFails_keeps ht) (settleRinses_keeps (.ite
                (coldBoot_keeps hs) hs))) (settleRounds_keeps (settleServices_keeps (abortWaiting_keeps (endAllRuns_keeps (.foldl _
                (fun t ht _ => coreFails_keeps ht) (settleRinses_keeps (.ite (coldBoot_keeps hs) hs))))))))
            · exact warmOther_keeps (.ite (.foldl _ (fun t ht _ => coreFails_keeps ht) (settleRinses_keeps (.ite
                (coldBoot_keeps hs) hs))) (settleRounds_keeps (settleServices_keeps (abortWaiting_keeps (endAllRuns_keeps (.foldl _
                (fun t ht _ => coreFails_keeps ht) (settleRinses_keeps (.ite (coldBoot_keeps hs) hs))))))))
            · exact .ite (.foldl _ (fun t ht _ => coreFails_keeps ht) (settleRinses_keeps (.ite (coldBoot_keeps hs) hs)))
                (settleRounds_keeps (settleServices_keeps (abortWaiting_keeps (endAllRuns_keeps (.foldl _
                (fun t ht _ => coreFails_keeps ht) (settleRinses_keeps (.ite (coldBoot_keeps hs) hs)))))))
          · refine trialCommit_keeps ?_
            split
            · exact warmSame_keeps (.ite (.foldl _ (fun t ht _ => coreFails_keeps ht) (settleRinses_keeps (.ite
                (coldBoot_keeps hs) hs))) (settleRounds_keeps (settleServices_keeps (abortWaiting_keeps (endAllRuns_keeps (.foldl _
                (fun t ht _ => coreFails_keeps ht) (settleRinses_keeps (.ite (coldBoot_keeps hs) hs))))))))
            · exact warmOther_keeps (.ite (.foldl _ (fun t ht _ => coreFails_keeps ht) (settleRinses_keeps (.ite
                (coldBoot_keeps hs) hs))) (settleRounds_keeps (settleServices_keeps (abortWaiting_keeps (endAllRuns_keeps (.foldl _
                (fun t ht _ => coreFails_keeps ht) (settleRinses_keeps (.ite (coldBoot_keeps hs) hs))))))))
            · exact .ite (.foldl _ (fun t ht _ => coreFails_keeps ht) (settleRinses_keeps (.ite (coldBoot_keeps hs) hs)))
                (settleRounds_keeps (settleServices_keeps (abortWaiting_keeps (endAllRuns_keeps (.foldl _
                (fun t ht _ => coreFails_keeps ht) (settleRinses_keeps (.ite (coldBoot_keeps hs) hs)))))))

theorem execBootReady_keeps {r} (hs : Keeps s0 s) : OutKeeps s0 (execBootReady r s) := by
  unfold execBootReady
  refine .next ?_
  split
  · exact hs
  · exact .ite hs (reachReady_keeps hs)

/-! ### Self-tests, scrub and mend map -/

theorem lockstepFails_keeps {pair} (hs : Keeps s0 s) : Keeps s0 (lockstepFails s pair) := by
  unfold lockstepFails
  exact warmRestart_keeps (updRel_keeps (log_keeps hs))

theorem execLockstepMismatch_keeps {pair} (hs : Keeps s0 s) : OutKeeps s0 (execLockstepMismatch pair s) := by
  unfold execLockstepMismatch
  refine .next ?_
  split
  · exact .ite hs (lockstepFails_keeps hs)
  · exact hs

theorem queueRepair_keeps {stack channel bank row} (hs : Keeps s0 s) : Keeps s0 (queueRepair s stack channel bank row) := by
  unfold queueRepair
  exact .ite hs (log_keeps (updRel_keeps hs))

theorem execHbmScrub_keeps {stack channel bank row address found} (hs : Keeps s0 s) : OutKeeps s0
    (execHbmScrub stack channel bank row address found s) := by
  unfold execHbmScrub
  refine .next ?_
  split
  · exact updRel_keeps hs
  · exact .ite (queueRepair_keeps (updRel_keeps (correctedError_keeps hs))) (updRel_keeps (correctedError_keeps hs))
  · exact queueRepair_keeps (updRel_keeps (log_keeps hs))

theorem tallyFails_keeps {t} (hs : Keeps s0 s) : Keeps s0 (tallyFails s t) := by
  unfold tallyFails
  exact .foldl _ (fun t' ht _ => endBadly_keeps ht) (.foldl _ (fun t' ht _ => finish_keeps ht) (updWork_keeps rfl rfl
    (updTally_keeps hs)))

theorem tellerFind_keeps {x1} (hs : Keeps s0 s) : Keeps s0 (tellerFind s x1) := by
  unfold tellerFind
  split
  · exact .ite (updHost_keeps rfl rfl (log_keeps hs)) (correctedError_keeps hs)
  · exact .ite (tallyFails_keeps (log_keeps hs)) (correctedError_keeps hs)
  · exact .ite (lockstepFails_keeps (log_keeps hs)) (correctedError_keeps hs)

theorem updTest_keeps {u f} (hs : Keeps s0 s) : Keeps s0 (updTest s u f) := by
  unfold updTest
  exact updRel_keeps hs

theorem passTest_keeps {u} (hs : Keeps s0 s) : Keeps s0 (passTest s u) := by
  unfold passTest
  exact updTest_keeps hs

theorem leaveMendMap_keeps {u} (hs : Keeps s0 s) : Keeps s0 (leaveMendMap s u) := by
  unfold leaveMendMap
  exact updRel_keeps hs

theorem beginTest_keeps {u} (hs : Keeps s0 s) : Keeps s0 (beginTest s u) := by
  unfold beginTest
  exact updRel_keeps hs

theorem markTested_keeps {u passed} (hs : Keeps s0 s) : Keeps s0 (markTested s u passed) := by
  unfold markTested
  exact updRel_keeps hs

theorem settleTests_keeps (hs : Keeps s0 s) : Keeps s0 (settleTests s) := by
  unfold settleTests
  exact .foldl _ (fun t ht _ => finish_keeps ht) (updRel_keeps (updRel_keeps hs))

theorem testEnds_keeps {u passed} (hs : Keeps s0 s) : Keeps s0 (testEnds s u passed) := by
  unfold testEnds
  exact .ite (settleTests_keeps (.ite (mendChanged_keeps (leaveMendMap_keeps (markTested_keeps (passTest_keeps hs)))) (markTested_keeps
    (passTest_keeps hs)))) (settleTests_keeps (.ite (.ite (sendDeviceEvent_keeps (log_keeps (markTested_keeps (updTest_keeps hs))))
    (log_keeps (markTested_keeps (updTest_keeps hs)))) (.ite (coreFails_keeps (.ite (sendDeviceEvent_keeps (log_keeps (markTested_keeps
    (updTest_keeps hs)))) (log_keeps (markTested_keeps (updTest_keeps hs))))) (engineFails_keeps (.ite (sendDeviceEvent_keeps (log_keeps
    (markTested_keeps (updTest_keeps hs)))) (log_keeps (markTested_keeps (updTest_keeps hs))))))))

theorem execSelftestSlice_keeps {core passed} (hs : Keeps s0 s) : OutKeeps s0 (execSelftestSlice core passed s) := by
  unfold execSelftestSlice
  have hcleared {u : UnitId} : Keeps s0 (updCore { beginTest s u with engines := Tbl.del (beginTest s u).engines core } core
      fun k => { k with scratch := [], tables := none }) := updCore_keeps (fun _ => Memory.wf_nil) (mk_engines_keeps (beginTest_keeps hs))
  exact .next (.ite hs (.ite (settleTests_keeps (updTest_keeps hs)) (.ite (requestYield_keeps (updTest_keeps hs))
    (.ite (testEnds_keeps hcleared) (.ite (testEnds_keeps hcleared) (settleTests_keeps (updTest_keeps hcleared)))))))

theorem execEngineTest_keeps {kind index passed} (hs : Keeps s0 s) : OutKeeps s0 (execEngineTest kind index passed s) := by
  unfold execEngineTest
  exact .next (.ite hs (.ite (passTest_keeps (testEnds_keeps (beginTest_keeps hs))) (testEnds_keeps (beginTest_keeps hs))))

theorem carrySelftest_keeps {c} (hs : Keeps s0 s) : Keeps s0 (carrySelftest c s).1 := by
  unfold carrySelftest
  refine whenOk_keeps hs ?_
  dsimp only
  exact settleTests_keeps (updRel_keeps hs)

theorem bistRepair_keeps {r} (hs : Keeps s0 s) : Keeps s0 (bistRepair s r) := by
  unfold bistRepair
  dsimp only
  split
  · exact makeRepair_keeps (queueRepair_keeps hs)
  · exact queueRepair_keeps hs

theorem execMemoryBistComplete_keeps {rows} (hs : Keeps s0 s) : OutKeeps s0 (execMemoryBistComplete rows s) := by
  unfold execMemoryBistComplete
  refine .next (.ite hs (.foldl _ (fun t ht _ => finish_keeps ht) (updRel_keeps (mk_engines_keeps ?_))))
  exact updWork_mems_keeps (fun _ => Memory.wf_nil) (cores_map_wf fun _ _ => Memory.wf_nil) (.foldl _
    (fun t ht _ => bistRepair_keeps ht) hs)

theorem toFieldMap_keeps {u} (hs : Keeps s0 s) : Keeps s0 (toFieldMap s u) := by
  unfold toFieldMap
  exact log_keeps (updRel_keeps hs)

theorem mendDisable_keeps {u} (hs : Keeps s0 s) : Keeps s0 (mendDisable s u).1 := by
  unfold mendDisable
  dsimp only
  split
  · exact hs
  · split
    · exact refuse_keeps hs
    · dsimp only
      exact settleTests_keeps (.ite (toFieldMap_keeps (.ite hs (.ite (coreFails_keeps hs) (engineFails_keeps hs)))) (.ite hs (.ite
        (coreFails_keeps hs) (engineFails_keeps hs))))

theorem carryMendUpdate_keeps {c} (hs : Keeps s0 s) : Keeps s0 (carryMendUpdate c s).1 := by
  unfold carryMendUpdate
  refine whenOk_keeps hs ?_
  split
  · exact mendDisable_keeps hs
  · dsimp only
    exact updTest_keeps (updRel_keeps hs)

theorem relWrite_keeps {o v} (hs : Keeps s0 s) : Keeps s0 (relWrite s o v) := by
  unfold relWrite
  exact .ite (updRel_keeps hs) (.ite (updRel_keeps hs) hs)

/-! ### Device time -/

theorem tick_keeps (hs : Keeps s0 s) : Keeps s0 (tick s) := by
  unfold tick
  exact .ite hs (.ite (.ite (updTiming_keeps hs) (.ite (updTiming_keeps (.ite (updSec_keeps rfl (updTiming_keeps hs))
    (updTiming_keeps hs))) (.ite (updSec_keeps rfl (updTiming_keeps hs)) (updTiming_keeps hs)))) (settleTests_keeps (.ite
    (updTiming_keeps hs) (.ite (updTiming_keeps (.ite (updSec_keeps rfl (updTiming_keeps hs)) (updTiming_keeps hs))) (.ite
    (updSec_keeps rfl (updTiming_keeps hs)) (updTiming_keeps hs))))))

/-! ### The power controller -/

theorem learnPhase_keeps {h i step measured} (hs : Keeps s0 s) : Keeps s0 (learnPhase s h i step measured) := by
  unfold learnPhase
  exact .ite hs (updPower_keeps hs)

theorem powerEvent_keeps {kind value} (hs : Keeps s0 s) : Keeps s0 (powerEvent s kind value) := by
  unfold powerEvent
  exact .ite hs (updPower_keeps (sendPowerEvent_keeps hs))

theorem settleMasks_keeps (hs : Keeps s0 s) : Keeps s0 (settleMasks s) := by
  unfold settleMasks
  exact .foldl _ (fun t ht _ => updPartPower_keeps ht) hs

theorem applyCaps_keeps (hs : Keeps s0 s) : Keeps s0 (applyCaps s) := by
  unfold applyCaps
  refine .foldl _ (fun t ht _ => ?_) (updPower_keeps hs)
  split
  · exact finish_keeps (updPower_keeps ht)
  · exact .ite (finish_keeps ht) (finish_keeps (updPartPower_keeps ht))

theorem execCapControlInterval_keeps {fixedMw} (hs : Keeps s0 s) : OutKeeps s0 (execCapControlInterval fixedMw s) := by
  unfold execCapControlInterval
  exact .next (.ite (applyCaps_keeps hs) (settleMasks_keeps (.ite (powerEvent_keeps (updPower_keeps (.foldl _
    (fun t ht _ => updPartPower_keeps ht) (applyCaps_keeps hs)))) (updPower_keeps (.foldl _ (fun t ht _ => updPartPower_keeps ht)
    (applyCaps_keeps hs))))))

theorem execDiePointSelect_keeps {fixedMw} (hs : Keeps s0 s) : OutKeeps s0 (execDiePointSelect fixedMw s) := by
  unfold execDiePointSelect
  exact .next (.ite hs (.ite (.ite hs (commandPoint_keeps hs)) (commandPoint_keeps (.ite hs (commandPoint_keeps hs)))))

theorem settlePoint_keeps {d} (hs : Keeps s0 s) : Keeps s0 (settlePoint s d) := by
  unfold settlePoint
  exact .ite hs (.ite (updDie_keeps hs) (updPower_keeps (updDie_keeps hs)))

theorem droopMasks_keeps (hs : Keeps s0 s) : Keeps s0 (droopMasks s) := by
  unfold droopMasks
  exact settleMasks_keeps (.foldl _ (fun t ht _ => updPartPower_keeps ht) hs)

theorem sampleTemps_keeps {temps} (hs : Keeps s0 s) : Keeps s0 (sampleTemps s temps) := by
  unfold sampleTemps
  exact settleMasks_keeps (.ite (powerEvent_keeps (updPower_keeps (.foldl _ (fun t ht _ => updPartPower_keeps ht) (updPower_keeps
    (updPower_keeps hs))))) (updPower_keeps (.foldl _ (fun t ht _ => updPartPower_keeps ht) (updPower_keeps (updPower_keeps hs)))))

theorem flowStop_keeps (hs : Keeps s0 s) : Keeps s0 (flowStop s) := by
  unfold flowStop
  refine emit_keeps (emit_keeps (mk_engines_keeps (.foldl _ (fun t ht _ => dropDebug_keeps ht)
    (updWork_mems_keeps id (cores_map_wf fun _ h => h) (updRelne_keeps (.foldl _ (fun t ht _ => updMac_keeps ht) ?_))))))
  exact .foldl _ (fun t ht _ => updPartPower_keeps ht) (updPower_keeps hs)

theorem chargeQuantity_keeps {h i n} (hs : Keeps s0 s) : Keeps s0 (chargeQuantity s h i n) := by
  unfold chargeQuantity
  exact chargeUse_keeps hs

theorem chargeEnergy_keeps {total weights} (hs : Keeps s0 s) : Keeps s0 (chargeEnergy s total weights) := by
  unfold chargeEnergy
  exact updPower_keeps (.foldl _ (fun t ht _ => chargeQuantity_keeps ht) hs)

theorem chargeCore_keeps {r u} (hr : Keeps s0 r.1) : Keeps s0 (chargeCore r u).1 := by
  have hs (l : List (Nat × Nat × Nat × Nat)) : Keeps s0 (l.foldl (fun s x =>
      chargeQuantity (chargeQuantity (chargeQuantity s x.1 3 x.2.1) x.1 4 x.2.2.1) x.1 5 x.2.2.2) r.1) :=
    .foldl _ (fun t ht _ => chargeQuantity_keeps (chargeQuantity_keeps (chargeQuantity_keeps ht))) hr
  unfold chargeCore
  dsimp only
  split
  · exact hs _
  · exact chargeEnergy_keeps (hs _)

theorem markSkips_keeps {cores} (hs : Keeps s0 s) : Keeps s0 (markSkips s cores) := by
  unfold markSkips
  refine .foldl _ (fun t ht _ => ?_) hs
  split
  · exact ht
  · exact chargeEach_keeps ht

theorem execEnergyInterval_keeps {rails cores granules} (hs : Keeps s0 s) : OutKeeps s0 (execEnergyInterval rails cores granules s) := by
  unfold execEnergyInterval
  refine .next ?_
  refine updPower_keeps ?_
  refine .foldl _ (fun t ht _ => updPartPower_keeps ht) ?_
  refine markSkips_keeps ?_
  refine chargeEnergy_keeps ?_
  refine chargeEnergy_keeps ?_
  refine .foldl_fst _ (fun _ ht _ => chargeCore_keeps ht) ?_
  dsimp only
  exact updPower_keeps hs

theorem carryCapSet_keeps {c} (hs : Keeps s0 s) : Keeps s0 (carryCapSet c s).1 := by
  unfold carryCapSet
  refine whenOk_keeps hs ?_
  dsimp only
  exact updPower_keeps (.foldl _ (fun t ht _ => completeWith_keeps ht) hs)

theorem carryCapQuery_keeps {c} (hs : Keeps s0 s) : Keeps s0 (carryCapQuery c s).1 := by
  unfold carryCapQuery
  exact whenOk_keeps hs hs

/-! ### Steps and epochs -/

theorem eccFind_keeps {c u r e} (hr : Keeps s0 r.1) : Keeps s0 (eccFind c u r e).1 := by
  unfold eccFind
  dsimp only
  split
  · exact hr
  · split
    · dsimp only
      exact correctedError_keeps hr
    · split
      · dsimp only
        exact faultJob_keeps (log_keeps hr)
      · split
        · dsimp only
          exact coreFails_keeps (log_keeps hr)
        · dsimp only
          exact endBadly_keeps (log_keeps hr)

theorem eccFinds_keeps {c u es} (hs : Keeps s0 s) : Keeps s0 (eccFinds s c u es).1 := by
  unfold eccFinds
  exact .foldl_fst _ (fun t ht _ => eccFind_keeps ht) hs

theorem runningFinds_keeps {c es} (hs : Keeps s0 s) : Keeps s0 (runningFinds s c es) := by
  unfold runningFinds
  split
  · exact eccFinds_keeps hs
  · exact hs

theorem sendTile_keeps {c u stream link k} (hs : Keeps s0 s) : Keeps s0 (sendTile s c u stream link k) := by
  unfold sendTile
  dsimp only
  split
  · exact hs
  · exact consumeBy_keeps (chargeJob_keeps (relneSend_keeps hs))

theorem symbolPosted_keeps {u k} (hs : Keeps s0 s) : Keeps s0 (symbolPosted s u k) := by
  unfold symbolPosted
  split
  · split
    · exact hs
    · exact .ite (postConsumed_keeps (putCell_keeps hs)) (putCell_keeps hs)
  · exact hs

theorem postHooks_keeps {c u w step} (hs : Keeps s0 s) : Keeps s0 (postHooks s c u w step) := by
  unfold postHooks
  split
  · exact hs
  · exact .ite hs (.ite (.foldl _ (fun t ht _ => sendTile_keeps ht) hs) (.ite (.foldl _ (fun t ht _ => symbolPosted_keeps ht) hs) hs))

theorem postStep_keeps {c u w step} (hs : Keeps s0 s) : Keeps s0 (postStep s c u w step) := by
  unfold postStep
  exact settleAborts_keeps (postHooks_keeps (post_keeps hs))

theorem issueNow_keeps {c op} (hs : Keeps s0 s) : Keeps s0 (issueNow s c op) := by
  unfold issueNow
  split
  · exact hs
  · exact postStep_keeps (advance_keeps hs)

theorem startUnit_keeps {c u w} (hs : Keeps s0 s) : Keeps s0 (startUnit s c u w) := by
  unfold startUnit
  split
  · exact startVec_keeps hs
  · exact startSig_keeps hs
  · exact runMint_keeps hs
  · exact hs

theorem issueUnit_keeps {c u w x} (hs : Keeps s0 s) : Keeps s0 (issueUnit s c u w x) := by
  unfold issueUnit
  exact .ite (startUnit_keeps (issueTimed_keeps hs)) (issueTimed_keeps hs)

theorem issueChecked_keeps {c op ecc f} (hf : ∀ x1 x2 t, Keeps s0 t → Keeps s0 (f x1 x2 t)) (hs : Keeps s0 s) : Keeps s0
    (issueChecked s c op ecc f) := by
  unfold issueChecked
  split
  · exact hs
  · exact .ite (eccFinds_keeps hs) (hf _ _ _ (eccFinds_keeps hs))

theorem reloadArray_keeps {c u w} (hs : Keeps s0 s) : Keeps s0 (reloadArray s c u w) := by
  unfold reloadArray
  exact updEng_keeps hs

theorem passArray_keeps {c u w} (hs : Keeps s0 s) : Keeps s0 (passArray s c u w) := by
  unfold passArray
  exact updRun_keeps (updEng_keeps hs)

theorem arrayStep_keeps {c op check ecc f} (hf : ∀ t x2 x3 x4, Keeps s0 t → Keeps s0 (f t x2 x3 x4)) (hs : Keeps s0 s) : Keeps s0
    (arrayStep s c op check ecc f) := by
  unfold arrayStep
  split
  · exact hs
  · exact .ite (coreFails_keeps hs) (issueChecked_keeps (fun _ _ t ht => issueTimed_keeps (hf _ _ _ _ ht)) hs)

theorem issueMoves_keeps {c op ecc} (hs : Keeps s0 s) : Keeps s0 (issueMoves s c op ecc) := by
  unfold issueMoves
  exact issueChecked_keeps (fun _ _ t ht => settleAborts_keeps (issueMover_keeps ht)) hs

theorem linkReport_keeps {ci c u r g x} (hs : Keeps s0 s) : Keeps s0 (linkReport s ci c u r g x) := by
  unfold linkReport
  exact writeMessage_keeps hs

theorem sendFound_keeps {ci u found} (hs : Keeps s0 s) : Keeps s0 (sendFound s ci u found) := by
  unfold sendFound
  refine .ite ?_ ?_
  · refine .foldl _ (fun t ht _ => ?_) hs
    split
    · exact sendFapi_keeps ht
    · exact sendFapi_keeps ht
    · exact ht
  · refine sendFapi_keeps ?_
    refine .foldl _ (fun t ht _ => ?_) hs
    split
    · exact sendFapi_keeps ht
    · exact sendFapi_keeps ht
    · exact ht

theorem slotResults_keeps {ci slot learned found} (hs : Keeps s0 s) : Keeps s0 (slotResults s ci slot learned found) := by
  unfold slotResults
  split
  · exact hs
  · refine .ite hs ?_
    refine settleSlot_keeps ?_
    refine updCell_keeps ?_
    refine sendFound_keeps ?_
    refine .foldl _ (fun t ht _ => ?_) hs
    split
    · exact linkReport_keeps ht
    · exact ht

theorem stepResult_keeps {u x2} (hs : Keeps s0 s) : Keeps s0 (stepResult s u x2) := by
  unfold stepResult
  split
  · exact hs
  · split
    · split
      · exact slotResults_keeps hs
      · exact hs
    · exact hs
  · split
    · split
      · exact precodeSymbol_keeps hs
      · exact hs
    · exact hs

theorem openWindow_keeps {c u step} (hs : Keeps s0 s) : Keeps s0 (openWindow s c u step) := by
  unfold openWindow
  exact .ite hs (.ite (updCore_keeps id (updCore_keeps id hs)) (startRinse_keeps (updCore_keeps id hs)))

theorem execStepComplete_keeps {core u energy result} (hs : Keeps s0 s) : OutKeeps s0 (execStepComplete core u energy result s) := by
  unfold execStepComplete
  refine .next ?_
  split
  · exact hs
  · split
    · exact hs
    · refine .ite hs ?_
      refine openWindow_keeps ?_
      refine postStep_keeps ?_
      refine stepResult_keeps ?_
      split
      · split
        · refine startUnit_keeps ?_
          split
          · exact learnPhase_keeps (updInst_keeps hs)
          · exact updInst_keeps hs
        · split
          · exact learnPhase_keeps (updInst_keeps hs)
          · exact updInst_keeps hs
      · split
        · exact learnPhase_keeps (updInst_keeps hs)
        · exact updInst_keeps hs

theorem epochOver_keeps {h e} (hs : Keeps s0 s) : Keeps s0 (epochOver s h e) := by
  unfold epochOver
  split
  · exact hs
  · split
    · exact settleStop_keeps (updCell_keeps hs)
    · exact settleStop_keeps hs
    · exact hs
    · exact settleServices_keeps (serviceTurn_keeps (serviceEnds_keeps hs))

theorem epochEnds_keeps {c u w} (hs : Keeps s0 s) : Keeps s0 (epochEnds s c u w) := by
  unfold epochEnds
  exact .ite (epochOver_keeps (.ite (openWindow_keeps (endEpochOn_keeps (post_keeps hs))) (endEpochOn_keeps (post_keeps hs)))) (.ite
    (openWindow_keeps (endEpochOn_keeps (post_keeps hs))) (endEpochOn_keeps (post_keeps hs)))

theorem execEpochEnd_keeps {core ecc} (hs : Keeps s0 s) : OutKeeps s0 (execEpochEnd core ecc s) := by
  unfold execEpochEnd
  refine .next ?_
  split
  · exact hs
  · exact .ite (eccFinds_keeps hs) (epochEnds_keeps (eccFinds_keeps hs))

theorem epochStarts_keeps {h e kind} (hs : Keeps s0 s) : Keeps s0 (epochStarts s h e kind) := by
  unfold epochStarts
  split
  · split
    · exact hs
    · refine .ite ?_ ?_
      · refine cellStarted_keeps ?_
        refine .ite (fixUplink_keeps hs) ?_
        split
        · exact stagingReused_keeps (settleSwitch_keeps (fixUplink_keeps hs))
        · exact fixUplink_keeps hs
      · refine .ite (fixUplink_keeps hs) ?_
        split
        · exact stagingReused_keeps (settleSwitch_keeps (fixUplink_keeps hs))
        · exact fixUplink_keeps hs
  · split
    · exact hs
    · exact buildDownlink_keeps hs
  · exact hs
  · exact serviceTurn_keeps (serviceBegins_keeps hs)

theorem execEpochBegin_keeps {core} (hs : Keeps s0 s) : OutKeeps s0 (execEpochBegin core s) := by
  unfold execEpochBegin
  refine .next ?_
  split
  · exact hs
  · split
    · exact hs
    · refine .ite ?_ ?_
      · refine epochStarts_keeps ?_
        refine .ite ?_ (beginEpoch_keeps hs)
        split
        · exact updCell_keeps (beginEpoch_keeps hs)
        · exact beginEpoch_keeps hs
      · refine .ite ?_ (beginEpoch_keeps hs)
        split
        · exact updCell_keeps (beginEpoch_keeps hs)
        · exact beginEpoch_keeps hs

theorem execEpochLimit_keeps {job} (hs : Keeps s0 s) : OutKeeps s0 (execEpochLimit job s) := by
  unfold execEpochLimit
  refine .next ?_
  split
  · exact hs
  · exact .ite hs (settleServices_keeps (settleRounds_keeps (endInvocation_keeps hs)))

theorem execPlanRuleSelect_keeps {job} (hs : Keeps s0 s) : OutKeeps s0 (execPlanRuleSelect job s) := by
  unfold execPlanRuleSelect
  refine .next ?_
  split
  · exact hs
  · split
    · refine .ite hs ?_
      dsimp only
      split
      · exact postUplink_keeps (updRun_keeps hs)
      · exact updRun_keeps hs
    · exact hs

theorem execStallLimit_keeps {core} (hs : Keeps s0 s) : OutKeeps s0 (execStallLimit core s) := by
  unfold execStallLimit
  refine .next ?_
  split
  · exact hs
  · split
    · exact hs
    · exact .ite hs (endBadly_keeps hs)

/-! ### Yields, rinses and landings -/

theorem execCheckpoint_keeps {core} (hs : Keeps s0 s) : OutKeeps s0 (execCheckpoint core s) := by
  unfold execCheckpoint
  refine .next ?_
  split
  · exact hs
  · exact .ite hs (.ite (issueNow_keeps hs) (.ite hs (.ite (.ite (postStep_keeps (advance_keeps (haltForYield_keeps hs)))
      (haltForYield_keeps hs)) (.ite (postStep_keeps (advance_keeps hs)) hs))))

theorem execSaveComplete_keeps {core} (hs : Keeps s0 s) : OutKeeps s0 (execSaveComplete core s) := by
  unfold execSaveComplete
  refine .next ?_
  split
  · exact hs
  · refine .ite hs ?_
    dsimp only
    split
    · exact faultJob_keeps hs
    · refine .ite ?_ ?_
      · refine startRinse_keeps ?_
        refine updCore_keeps id ?_
        refine updInst_keeps ?_
        refine chargeEach_keeps ?_
        split
        · exact hbmWrite_keeps hs
        · exact hs
      · refine updCore_keeps id ?_
        refine updInst_keeps ?_
        refine chargeEach_keeps ?_
        split
        · exact hbmWrite_keeps hs
        · exact hs

theorem execYieldAbortPoint_keeps {core} (hs : Keeps s0 s) : OutKeeps s0 (execYieldAbortPoint core s) := by
  unfold execYieldAbortPoint
  refine .next ?_
  split
  · exact hs
  · exact .ite hs (endBadly_keeps (startRinse_keeps (chargeEach_keeps hs)))

theorem settleWork_keeps (hs : Keeps s0 s) : Keeps s0 (settleWork s) := by
  unfold settleWork
  exact settleLoads_keeps (settleServices_keeps (settleRounds_keeps hs))

theorem execRinseComplete_keeps {core} (hs : Keeps s0 s) : OutKeeps s0 (execRinseComplete core s) := by
  unfold execRinseComplete
  exact .next (.ite hs (settleWork_keeps (restSegs_keeps (settleRinses_keeps (updWork_keeps rfl rfl
    (updCore_keeps CoreCtl.wf_zeroSegs hs))))))

theorem execLentWindowClose_keeps {core} (hs : Keeps s0 s) : OutKeeps s0 (execLentWindowClose core s) := by
  unfold execLentWindowClose
  exact .next (.ite hs (.ite (requestYield_keeps hs) (.ite (handBack_keeps hs) (startRinse_keeps hs))))

theorem resumeInst_keeps {c u} (hs : Keeps s0 s) : Keeps s0 (resumeInst s c u) := by
  have hback (data : List (Nat × List Byte)) (f : Inst → Inst) : Keeps s0 (updInst (updCore s c fun k =>
      { k with scratch := data.foldl (fun m r => Mem.writeBytes m (64 * r.1) r.2) k.scratch }) u.h c f) :=
    updInst_keeps (updCore_keeps (wf_foldl _ fun m hm _ => Memory.wf_writeBytes _ _ hm) hs)
  unfold resumeInst
  dsimp only
  split
  · exact faultJob_keeps hs
  · split
    · exact faultJob_keeps (hback _ _)
    · refine .foldl _ (fun t ht _ => ?_) (hback _ _)
      split
      · exact landOn_keeps ht
      · exact ht

theorem execBeDispatch_keeps {core} (hs : Keeps s0 s) : OutKeeps s0 (execBeDispatch core s) := by
  unfold execBeDispatch
  refine .next ?_
  split
  · exact hs
  · split
    · exact hs
    · refine .ite (clearVector_keeps (takeCore_keeps (updCore_keeps id hs))) ?_
      dsimp only
      split
      · exact resumeInst_keeps (chargeEach_keeps (clearVector_keeps (takeCore_keeps (updCore_keeps id hs))))
      · exact chargeEach_keeps (clearVector_keeps (takeCore_keeps (updCore_keeps id hs)))

theorem execSegmentWake_keeps {core segment} (hs : Keeps s0 s) : OutKeeps s0 (execSegmentWake core segment s) := by
  unfold execSegmentWake
  refine .next ?_
  refine .ite hs ?_
  split
  · exact hs
  · exact updCore_keeps id hs
  · exact startRinse_keeps hs

theorem landNow_keeps {c t} (hs : Keeps s0 s) : Keeps s0 (landNow s c t) := by
  unfold landNow
  split
  · exact hs
  · exact txnDone_keeps (landTxn_keeps hs)

theorem landCorrected_keeps {c t} (hs : Keeps s0 s) : Keeps s0 (landCorrected s c t) := by
  unfold landCorrected
  exact .ite (correctedError_keeps hs) (correctedError_keeps hs)

theorem hbmErrorAt_keeps {a part bank row} (hs : Keeps s0 s) : Keeps s0 (hbmErrorAt s a part bank row) := by
  unfold hbmErrorAt
  exact queueRepair_keeps (log_keeps hs)

theorem landHbmError_keeps {c t bank row} (hs : Keeps s0 s) : Keeps s0 (landHbmError s c t bank row) := by
  unfold landHbmError
  exact faultJob_keeps (hbmErrorAt_keeps hs)

theorem landScratchError_keeps {c t seg} (hs : Keeps s0 s) : Keeps s0 (landScratchError s c t seg) := by
  unfold landScratchError
  exact faultJob_keeps (log_keeps hs)

theorem landCrossing_keeps {k} (hs : Keeps s0 s) : Keeps s0 (landCrossing s k) := by
  unfold landCrossing
  exact .foldl _ (fun t ht _ => faultJob_keeps ht) (log_keeps hs)

theorem landIodLate_keeps {k job stream page} (hs : Keeps s0 s) : Keeps s0 (landIodLate s k job stream page) := by
  unfold landIodLate
  split
  · exact hs
  · exact faultJob_keeps (landCrossing_keeps hs)

theorem landIodHbm_keeps {job page bank row} (hs : Keeps s0 s) : Keeps s0 (landIodHbm s job page bank row) := by
  unfold landIodHbm
  split
  · exact hs
  · exact faultJob_keeps (hbmErrorAt_keeps hs)

theorem landIod_keeps {x1} (hs : Keeps s0 s) : Keeps s0 (landIod s x1) := by
  unfold landIod
  split
  · exact landIodLate_keeps hs
  · exact landIodHbm_keeps hs
  · exact hs
  · exact hs
  · exact hs
  · exact hs
  · exact hs
  · exact hs

theorem execTransactionLanding_keeps {core index outcome} (hs : Keeps s0 s) : OutKeeps s0
    (execTransactionLanding core index outcome s) := by
  unfold execTransactionLanding
  refine .next ?_
  split
  · exact landIod_keeps hs
  · refine .ite hs ?_
    dsimp only
    split
    · exact landNow_keeps (updCore_keeps id hs)
    · exact landNow_keeps (landCorrected_keeps (updCore_keeps id hs))
    · exact .ite (landHbmError_keeps (updCore_keeps id hs)) (landNow_keeps (updCore_keeps id hs))
    · exact .ite (landNow_keeps (updCore_keeps id hs)) (landScratchError_keeps (updCore_keeps id hs))
    · exact faultJob_keeps (updCore_keeps id hs)
    · refine .ite hs ?_
      split
      · exact coreFails_keeps (log_keeps (updCore_keeps id hs))
      · exact landCrossing_keeps hs
    · exact landIod_keeps hs
    · exact landIod_keeps hs

theorem refuseLoad_keeps {l} (hs : Keeps s0 s) : Keeps s0 (refuseLoad s l) := by
  unfold refuseLoad
  exact finish_keeps (mk_radio_keeps (.foldl _ (fun t ht _ => dropJob_keeps (startRinse_keeps ht)) (updWork_keeps rfl rfl hs)))

theorem rinseAll_keeps {j} (hs : Keeps s0 s) : Keeps s0 (rinseAll s j) := by
  unfold rinseAll
  exact .foldl _ (fun t ht _ => updCore_keeps CoreCtl.wf_zeroSegs ht) hs

theorem endStopped_keeps (hs : Keeps s0 s) : Keeps s0 (endStopped s) := by
  unfold endStopped
  refine settleWork_keeps ?_
  refine .foldl _ (fun t ht _ => ?_) hs
  split
  · exact ht
  · dsimp only
    split
    · exact stopCell_keeps (rinseAll_keeps ht)
    · exact abortRun_keeps (rinseAll_keeps ht)

/-! ### The debug commands -/

theorem onCore_keeps {c fields tenant rest act} (hact : ∀ x1, Keeps s0 (act x1).1) (hs : Keeps s0 s) : Keeps s0
    (onCore c s fields tenant rest act).1 := by
  unfold onCore
  split
  · exact whenOk_keeps hs hs
  · exact whenOk_keeps hs (hact _)

theorem carryDbgHalt_keeps {c} (hs : Keeps s0 s) : Keeps s0 (carryDbgHalt c s).1 := by
  unfold carryDbgHalt
  refine onCore_keeps (fun _ => ?_) hs
  split
  · exact hs
  · dsimp only
    exact updSig_keeps hs

theorem carryDbgStep_keeps {c} (hs : Keeps s0 s) : Keeps s0 (carryDbgStep c s).1 := by
  unfold carryDbgStep
  refine onCore_keeps (fun _ => ?_) hs
  dsimp only
  exact updSig_keeps hs

theorem carryDbgResume_keeps {c} (hs : Keeps s0 s) : Keeps s0 (carryDbgResume c s).1 := by
  unfold carryDbgResume
  refine onCore_keeps (fun _ => ?_) hs
  dsimp only
  exact updSig_keeps hs

theorem takeStop_keeps {core} (hs : Keeps s0 s) : Keeps s0 (takeStop s core) := by
  unfold takeStop
  exact .ite hs (.ite (updSig_keeps hs) (.foldl _ (fun t ht _ => finish_keeps ht) (updSig_keeps hs)))

theorem carryDbgRead_keeps {c} (hs : Keeps s0 s) : Keeps s0 (carryDbgRead c s).1 := by
  unfold carryDbgRead
  refine onCore_keeps (fun _ => ?_) hs
  split
  · dsimp only
    exact hbmWrite_keeps hs
  · exact refuse_keeps hs

/-! ### The security block -/

theorem writeInactive_keeps {x} (hs : Keeps s0 s) : Keeps s0 (writeInactive s x) := by
  unfold writeInactive
  exact updSec_keeps (by split <;> rfl) hs

theorem stageImage_keeps {img} (hs : Keeps s0 s) : Keeps s0 (stageImage s img).1 := by
  unfold stageImage
  dsimp only
  split
  · dsimp only
    exact updSec_keeps rfl (writeInactive_keeps hs)
  · dsimp only
    exact updSec_keeps rfl (writeInactive_keeps hs)

theorem carryFwStage_keeps {c} (hs : Keeps s0 s) : Keeps s0 (carryFwStage c s).1 := by
  unfold carryFwStage
  dsimp only
  split
  · exact whenOk_keeps hs hs
  · refine whenOk_keeps hs ?_
    dsimp only
    exact updSec_keeps rfl (writeInactive_keeps hs)

theorem execFwStageComplete_keeps (hs : Keeps s0 s) : OutKeeps s0 (execFwStageComplete s) := by
  unfold execFwStageComplete
  refine .next ?_
  split
  · exact hs
  · dsimp only
    split
    · exact finish_keeps (stageImage_keeps (updSec_keeps rfl hs))
    · exact sendDeviceEvent_keeps (finish_keeps (stageImage_keeps (updSec_keeps rfl hs)))

theorem activateStaged_keeps (hs : Keeps s0 s) : Keeps s0 (activateStaged s) := by
  unfold activateStaged
  exact writeCommit_keeps hs

theorem carryFwActivate_keeps {c} (hs : Keeps s0 s) : Keeps s0 (carryFwActivate c s).1 := by
  unfold carryFwActivate
  exact whenOk_keeps hs (.ite (warmRestart_keeps (complete_keeps (activateStaged_keeps hs))) (complete_keeps (activateStaged_keeps hs)))

theorem eraseVault_keeps (hs : Keeps s0 s) : Keeps s0 (eraseVault s) := by
  unfold eraseVault
  exact updSec_keeps rfl hs

theorem lcMove_keeps {to_} (hs : Keeps s0 s) : Keeps s0 (lcMove s to_) := by
  unfold lcMove
  refine .ite (updSec_fuses_keeps rfl rfl rfl (le_refl _) hs)
    (.ite ?_ (updSec_fuses_keeps rfl rfl rfl (le_refl _) (eraseVault_keeps hs)))
  by_cases h : s.sec.lc = lcService
  · exact updSec_fuses_keeps (by rw [if_pos h]) (by rw [if_pos h]) (by rw [if_pos h]) (by rw [if_pos h]) hs
  · exact updSec_fuses_keeps (by rw [if_neg h]) (by rw [if_neg h]) (by rw [if_neg h]) (by rw [if_neg h]) hs

theorem carryLcAdvance_keeps {c} (hs : Keeps s0 s) : Keeps s0 (carryLcAdvance c s).1 := by
  unfold carryLcAdvance
  refine whenOk_keeps hs ?_
  dsimp only
  split
  · dsimp only
    exact warmRestart_keeps (complete_keeps (lcMove_keeps hs))
  · dsimp only
    exact lcMove_keeps hs

theorem carrySealArm_keeps {c} (hs : Keeps s0 s) : Keeps s0 (carrySealArm c s).1 := by
  unfold carrySealArm
  refine whenOk_keeps hs ?_
  dsimp only
  exact updSec_keeps rfl hs

theorem installSak_keeps (hs : Keeps s0 s) : Keeps s0 (installSak s) := by
  unfold installSak
  exact .ite (updMac_keeps (updSec_keeps rfl hs)) (updSec_keeps rfl hs)

theorem eraseSak_keeps (hs : Keeps s0 s) : Keeps s0 (eraseSak s) := by
  unfold eraseSak
  exact updSec_keeps rfl hs

theorem writeSakCtl_keeps {v} (hs : Keeps s0 s) : Keeps s0 (writeSakCtl v s) := by
  unfold writeSakCtl
  exact .ite hs (.ite (valueError_keeps hs) (.ite (eraseSak_keeps (.ite (installSak_keeps hs) hs)) (.ite (installSak_keeps hs) hs)))

theorem writeOwnerCommit_keeps {v} (hs : Keeps s0 s) : Keeps s0 (writeOwnerCommit v s) := by
  unfold writeOwnerCommit
  exact .ite (lockedWrite_keeps hs) (.ite (updSec_keeps rfl hs) (updSec_keeps rfl hs))

theorem writeSecLock_keeps {v} (hs : Keeps s0 s) : Keeps s0 (writeSecLock v s) := by
  unfold writeSecLock
  exact .ite (lockedWrite_keeps hs) (updSec_keeps rfl hs)

theorem writeSecConfig_keeps {v} (hs : Keeps s0 s) : Keeps s0 (writeSecConfig v s) := by
  unfold writeSecConfig
  exact .ite (lockedWrite_keeps hs) (updSec_keeps rfl hs)

theorem secWrite_keeps {o v} (hs : Keeps s0 s) : Keeps s0 (secWrite o v s) := by
  unfold secWrite
  exact .ite (writeSecLock_keeps hs) (.ite (writeSecConfig_keeps hs) (.ite (updSec_keeps rfl hs) (.ite (writeOwnerCommit_keeps hs) (.ite
    (updSec_keeps rfl hs) (.ite (updSec_keeps rfl hs) (.ite (updSec_keeps rfl hs) (.ite (updSec_keeps rfl hs) (.ite
    (writeSakCtl_keeps hs) hs))))))))

theorem spdmReply_keeps {via eid o} (hs : Keeps s0 s) : Keeps s0 (spdmReply s via eid o) := by
  unfold spdmReply
  exact mctpQueue_keeps hs

theorem spdmRun_keeps {via eid stage act} (hact : ∀ t, Keeps s0 t → Keeps s0 (act t)) (hs : Keeps s0 s) : Keeps s0
    (spdmRun s via eid stage act) := by
  unfold spdmRun
  exact .ite hs (.ite (spdmReply_keeps hs) (hact _ hs))

theorem spdmGetVersion_keeps {via eid} (hs : Keeps s0 s) : Keeps s0 (spdmGetVersion via eid s) := by
  unfold spdmGetVersion
  exact spdmRun_keeps (fun t ht => spdmReply_keeps (updSec_keeps rfl ht)) hs

theorem spdmGetCapabilities_keeps {via eid version} (hs : Keeps s0 s) : Keeps s0 (spdmGetCapabilities via eid version s) := by
  unfold spdmGetCapabilities
  exact spdmRun_keeps (fun t ht => .ite (spdmReply_keeps ht) (spdmReply_keeps (updSec_keeps rfl ht))) hs

theorem spdmNegotiate_keeps {via eid asym hash} (hs : Keeps s0 s) : Keeps s0 (spdmNegotiate via eid asym hash s) := by
  unfold spdmNegotiate
  exact spdmRun_keeps (fun t ht => spdmReply_keeps (.ite (updSec_keeps rfl ht) ht)) hs

theorem spdmGetDigests_keeps {via eid} (hs : Keeps s0 s) : Keeps s0 (spdmGetDigests via eid s) := by
  unfold spdmGetDigests
  exact spdmRun_keeps (fun t ht => spdmReply_keeps ht) hs

theorem spdmGetCertificate_keeps {via eid slot offset length} (hs : Keeps s0 s) : Keeps s0
    (spdmGetCertificate via eid slot offset length s) := by
  unfold spdmGetCertificate
  exact spdmRun_keeps (fun t ht => .ite (spdmReply_keeps ht) (spdmReply_keeps ht)) hs

theorem drawNonce_keeps (hs : Keeps s0 s) : Keeps s0 (drawNonce s).1 := by
  unfold drawNonce
  dsimp only
  exact updSec_keeps rfl hs

theorem spdmChallenge_keeps {via eid slot nonce} (hs : Keeps s0 s) : Keeps s0 (spdmChallenge via eid slot nonce s) := by
  unfold spdmChallenge
  exact spdmRun_keeps (fun t ht => .ite (spdmReply_keeps ht) (spdmReply_keeps (drawNonce_keeps ht))) hs

theorem spdmGetMeasurements_keeps {via eid slot operation sign nonce} (hs : Keeps s0 s) : Keeps s0
    (spdmGetMeasurements via eid slot operation sign nonce s) := by
  unfold spdmGetMeasurements
  exact spdmRun_keeps (fun t ht => .ite (spdmReply_keeps ht) (spdmReply_keeps (drawNonce_keeps ht))) hs

theorem execJtagInstruction_keeps {i} (hs : Keeps s0 s) : OutKeeps s0 (execJtagInstruction i s) := by
  unfold execJtagInstruction
  split
  · exact .next hs
  · exact .next hs
  · exact .next hs
  · exact .next hs
  · exact .ite (.refused _) (.next hs)
  · exact .ite (.refused _) (.next hs)
  · exact .next (.ite (updSec_keeps rfl hs) hs)
  · exact .next (.ite (updSec_fuses_keeps rfl rfl rfl (le_refl _) hs) hs)

/-! ### Optics and indicators -/

theorem updSlot_keeps {k f} (hs : Keeps s0 s) : Keeps s0 (updSlot s k f) := by
  unfold updSlot
  exact updOptics_keeps hs

theorem updBus_keeps {b f} (hs : Keeps s0 s) : Keeps s0 (updBus s b f) := by
  unfold updBus
  exact updOptics_keeps hs

theorem startRecovery_keeps {b} (hs : Keeps s0 s) : Keeps s0 (startRecovery s b) := by
  unfold startRecovery
  exact emit_keeps (updBus_keeps hs)

theorem slotNack_keeps {k} (hs : Keeps s0 s) : Keeps s0 (slotNack s k) := by
  unfold slotNack
  exact updSlot_keeps hs

theorem openWear_keeps {id} (hs : Keeps s0 s) : Keeps s0 (openWear s id) := by
  unfold openWear
  exact .ite hs (updOptics_keeps hs)

theorem advanceWear_keeps {k m} (hs : Keeps s0 s) : Keeps s0 (advanceWear s k m) := by
  unfold advanceWear
  split
  · exact hs
  · exact .ite (logConfig_keeps (updOptics_keeps hs)) (updOptics_keeps hs)

theorem manageModule_keeps {k id} (hs : Keeps s0 s) : Keeps s0 (manageModule s k id) := by
  unfold manageModule
  exact .ite (emit_keeps (updSlot_keeps (openWear_keeps hs))) (updSlot_keeps (openWear_keeps hs))

theorem execOpticsProbe_keeps {slot found} (hs : Keeps s0 s) : OutKeeps s0 (execOpticsProbe slot found s) := by
  unfold execOpticsProbe
  refine .next ?_
  refine .ite hs ?_
  split
  · exact .ite (updSlot_keeps hs) (manageModule_keeps hs)
  · exact slotNack_keeps hs
  · exact startRecovery_keeps hs

theorem pldmEvent_keeps {o} (hs : Keeps s0 s) : Keeps s0 (pldmEvent s o) := by
  unfold pldmEvent
  split
  · exact .ite (updMgmt_keeps (mctpQueue_keeps hs)) (mctpQueue_keeps hs)
  · exact hs

theorem reportLevel_keeps {sensor level value} (hs : Keeps s0 s) : Keeps s0 (reportLevel s sensor level value) := by
  unfold reportLevel
  exact .foldl _ (fun t ht _ => pldmEvent_keeps ht) (updMgmt_keeps hs)

theorem reportState_keeps {sensor value} (hs : Keeps s0 s) : Keeps s0 (reportState s sensor value) := by
  unfold reportState
  exact .ite hs (pldmEvent_keeps (updMgmt_keeps hs))

theorem execOpticsMonitorRead_keeps {slot found} (hs : Keeps s0 s) : OutKeeps s0 (execOpticsMonitorRead slot found s) := by
  unfold execOpticsMonitorRead
  refine .next ?_
  refine .ite hs ?_
  split
  · exact .foldl _ (fun t ht _ => reportLevel_keeps ht) (advanceWear_keeps (updSlot_keeps hs))
  · exact slotNack_keeps hs
  · exact startRecovery_keeps hs

theorem execOpticsBusRecovery_keeps {bus high} (hs : Keeps s0 s) : OutKeeps s0 (execOpticsBusRecovery bus high s) := by
  unfold execOpticsBusRecovery
  exact .next (.ite hs (.ite (updBus_keeps hs) (.ite (emit_keeps (updBus_keeps hs)) (logConfig_keeps (updOptics_keeps
    (updBus_keeps hs))))))

theorem writeRetry_keeps {v} (hs : Keeps s0 s) : Keeps s0 (writeRetry v s) := by
  unfold writeRetry
  exact .foldl _ (fun t ht _ => .ite (startRecovery_keeps ht) ht) hs

theorem updIndicator_keeps {i f} (hs : Keeps s0 s) : Keeps s0 (updIndicator s i f) := by
  unfold updIndicator
  exact updOptics_keeps hs

theorem setStatus_keeps {i status} (hs : Keeps s0 s) : Keeps s0 (setStatus s i status) := by
  unfold setStatus
  exact .ite (logConfig_keeps (updIndicator_keeps hs)) (updIndicator_keeps hs)

theorem execLoadCheck_keeps {indicator sample} (hs : Keeps s0 s) : OutKeeps s0 (execLoadCheck indicator sample s) := by
  unfold execLoadCheck
  refine .next ?_
  refine .ite hs ?_
  dsimp only
  split
  · exact setStatus_keeps (updIndicator_keeps (updIndicator_keeps hs))
  · exact .ite (setStatus_keeps (updIndicator_keeps (updIndicator_keeps hs))) (updIndicator_keeps (updIndicator_keeps hs))
  · exact setStatus_keeps (updIndicator_keeps (updIndicator_keeps hs))

theorem opticsWrite_keeps {o v} (hs : Keeps s0 s) : Keeps s0 (opticsWrite o v s) := by
  unfold opticsWrite
  exact .ite (writeRetry_keeps hs) (.ite (.ite (valueError_keeps hs) (updOptics_keeps hs)) (.ite (.ite (valueError_keeps hs)
    (updIndicator_keeps hs)) hs))

/-! ### The management endpoint -/

theorem mgmtReply_keeps {via eid type o} (hs : Keeps s0 s) : Keeps s0 (mgmtReply s via eid type o) := by
  unfold mgmtReply
  exact mctpQueue_keeps hs

theorem setEid_keeps {via eid id} (hs : Keeps s0 s) : Keeps s0 (setEid via eid id s) := by
  unfold setEid
  exact .ite hs (.ite (mgmtReply_keeps hs) (mgmtReply_keeps (updMgmt_keeps hs)))

theorem execMctpMessageSent_keeps {via} (hs : Keeps s0 s) : OutKeeps s0 (execMctpMessageSent via s) := by
  unfold execMctpMessageSent
  refine .next ?_
  dsimp only
  split
  · exact hs
  · exact .ite hs (emit_keeps (updMgmt_keeps hs))

theorem logTimeout_keeps {port} (hs : Keeps s0 s) : Keeps s0 (logTimeout s port) := by
  unfold logTimeout
  exact .ite (updRel_keeps hs) (logConfig_keeps hs)

theorem getPdrOp_keeps {via eid record} (hs : Keeps s0 s) : Keeps s0 (getPdrOp via eid record s) := by
  unfold getPdrOp
  refine .ite hs ?_
  dsimp only
  split
  · exact mgmtReply_keeps hs
  · exact mgmtReply_keeps hs

theorem getSensor_keeps {via eid sensor} (hs : Keeps s0 s) : Keeps s0 (getSensor via eid sensor s) := by
  unfold getSensor
  refine .ite hs ?_
  split
  · exact mgmtReply_keeps hs
  · exact mgmtReply_keeps hs

theorem getStateSensor_keeps {via eid sensor} (hs : Keeps s0 s) : Keeps s0 (getStateSensor via eid sensor s) := by
  unfold getStateSensor
  refine .ite hs ?_
  split
  · exact mgmtReply_keeps hs
  · exact mgmtReply_keeps hs

theorem setEffecter_keeps {via eid effecter state} (hs : Keeps s0 s) : Keeps s0 (setEffecter via eid effecter state s) := by
  unfold setEffecter
  exact .ite hs (.ite (mgmtReply_keeps hs) (.ite (mgmtReply_keeps hs) (mgmtReply_keeps (updIndicator_keeps hs))))

theorem settlePldm_keeps (hs : Keeps s0 s) : Keeps s0 (settlePldm s) := by
  unfold settlePldm
  refine .foldl _ (fun t ht _ => ?_) (.foldl _ (fun t ht _ => reportLevel_keeps ht) hs)
  split
  · exact reportState_keeps ht
  · exact ht

theorem setReceiver_keeps {via eid enable} (hs : Keeps s0 s) : Keeps s0 (setReceiver via eid enable s) := by
  unfold setReceiver
  exact .ite hs (mgmtReply_keeps (updMgmt_keeps (settlePldm_keeps (updMgmt_keeps hs))))

theorem startUpdate_keeps {via eid} (hs : Keeps s0 s) : Keeps s0 (startUpdate via eid s) := by
  unfold startUpdate
  exact .ite hs (.ite (mgmtReply_keeps hs) (mgmtReply_keeps (updMgmt_keeps (updSec_keeps rfl (writeInactive_keeps hs)))))

theorem transferFirmware_keeps {offset data} (hs : Keeps s0 s) : Keeps s0 (transferFirmware offset data s) := by
  unfold transferFirmware
  split
  · exact .ite hs (updMgmt_keeps hs)
  · exact hs

theorem verifyUpdate_keeps {via eid} (hs : Keeps s0 s) : Keeps s0 (verifyUpdate via eid s) := by
  unfold verifyUpdate
  refine .ite hs ?_
  split
  · exact mgmtReply_keeps hs
  · exact mgmtReply_keeps (.ite (sendDeviceEvent_keeps (updMgmt_keeps (stageImage_keeps hs))) (updMgmt_keeps (stageImage_keeps hs)))

theorem activateUpdate_keeps {via eid} (hs : Keeps s0 s) : Keeps s0 (activateUpdate via eid s) := by
  unfold activateUpdate
  refine .ite hs ?_
  split
  · exact mgmtReply_keeps hs
  · exact .ite (mgmtReply_keeps hs) (.ite (mgmtReply_keeps hs) (warmRestart_keeps (mgmtReply_keeps (updMgmt_keeps
      (activateStaged_keeps hs)))))

theorem firmwareParameters_keeps {via eid} (hs : Keeps s0 s) : Keeps s0 (firmwareParameters via eid s) := by
  unfold firmwareParameters
  exact .ite hs (mgmtReply_keeps hs)

theorem mgmtRequest_keeps {via eid x3} (hs : Keeps s0 s) : Keeps s0 (mgmtRequest via eid s x3) := by
  unfold mgmtRequest
  split
  · exact setEid_keeps hs
  · exact getPdrOp_keeps hs
  · exact getSensor_keeps hs
  · exact getStateSensor_keeps hs
  · exact setEffecter_keeps hs
  · exact setReceiver_keeps hs
  · exact startUpdate_keeps hs
  · exact transferFirmware_keeps hs
  · exact verifyUpdate_keeps hs
  · exact activateUpdate_keeps hs
  · exact firmwareParameters_keeps hs
  · split
    · exact spdmGetVersion_keeps hs
    · exact spdmGetCapabilities_keeps hs
    · exact spdmNegotiate_keeps hs
    · exact spdmGetDigests_keeps hs
    · exact spdmGetCertificate_keeps hs
    · exact spdmChallenge_keeps hs
    · exact spdmGetMeasurements_keeps hs

/-! ### Registers and windows of the functions -/

theorem ringProducer_keeps {n index} (hs : Keeps s0 s) : Keeps s0 (ringProducer s n index) := by
  unfold ringProducer
  exact .ite hs (.ite (updTill_keeps hs) (tillFails_keeps hs))

theorem ringConsumer_keeps {n index arm} (hs : Keeps s0 s) : Keeps s0 (ringConsumer s n index arm) := by
  unfold ringConsumer
  exact .ite (tillFails_keeps hs) (.ite (sendVector_keeps (updTill_keeps (updTill_keeps hs))) (updTill_keeps hs))

theorem ringDoorbell_keeps {f d v} (hs : Keeps s0 s) : Keeps s0 (ringDoorbell s f d v) := by
  unfold ringDoorbell
  refine .ite (setError_keeps hs) ?_
  split
  · exact setError_keeps hs
  · exact .ite (setError_keeps hs) (.ite (ringProducer_keeps hs) (.ite (setError_keeps hs) (ringConsumer_keeps hs)))

theorem sendPending_keeps {f} (hs : Keeps s0 s) : Keeps s0 (sendPending s f) := by
  unfold sendPending
  exact .foldl _ (fun t ht _ => sendVector_keeps (updFn_keeps ht)) hs

theorem fnWrite_keeps {f act} (hact : ∀ t, Keeps s0 t → Keeps s0 (act t)) (hs : Keeps s0 s) : Keeps s0 (fnWrite s f act) := by
  unfold fnWrite
  exact .ite (hact _ hs) hs

theorem writeDbEnable_keeps {f on} (hs : Keeps s0 s) : Keeps s0 (writeDbEnable f on s) := by
  unfold writeDbEnable
  exact updFn_keeps hs

theorem writeQuiesce_keeps {f on} (hs : Keeps s0 s) : Keeps s0 (writeQuiesce f on s) := by
  unfold writeQuiesce
  exact updFn_keeps hs

theorem writeFnError_keeps {f v} (hs : Keeps s0 s) : Keeps s0 (writeFnError f v s) := by
  unfold writeFnError
  exact updFn_keeps hs

theorem writeIrqCause_keeps {f v} (hs : Keeps s0 s) : Keeps s0 (writeIrqCause f v s) := by
  unfold writeIrqCause
  exact setIrq_keeps hs

theorem writeIrqMask_keeps {f v} (hs : Keeps s0 s) : Keeps s0 (writeIrqMask f v s) := by
  unfold writeIrqMask
  exact setIrq_keeps hs

theorem writeLedgerLatch_keeps {f v} (hs : Keeps s0 s) : Keeps s0 (writeLedgerLatch f v s) := by
  unfold writeLedgerLatch
  refine .ite hs ?_
  split
  · exact updFn_keeps hs
  · exact updFn_keeps (divideServices_keeps hs)

theorem writeTallySelect_keeps {f v} (hs : Keeps s0 s) : Keeps s0 (writeTallySelect f v s) := by
  unfold writeTallySelect
  dsimp only
  split
  · exact updFn_keeps (updFn_keeps hs)
  · exact updFn_keeps (updFn_keeps hs)

theorem writeChipLock_keeps {v} (hs : Keeps s0 s) : Keeps s0 (writeChipLock v s) := by
  unfold writeChipLock
  exact .ite (lockedWrite_keeps hs) (updChip_keeps hs)

theorem areaWrite_keeps {f offset act} (hact : ∀ t, Keeps s0 t → Keeps s0 (act t)) (hs : Keeps s0 s) : Keeps s0
    (areaWrite f offset act s) := by
  unfold areaWrite
  exact .ite (setError_keeps hs) (hact _ hs)

theorem execChipLock_keeps {f value} (hs : Keeps s0 s) : OutKeeps s0 (execChipLock f value s) := by
  unfold execChipLock
  exact .next (fnWrite_keeps (fun t ht => areaWrite_keeps (fun t' ht' => writeChipLock_keeps ht') ht) hs)

theorem writeChipConfig_keeps {v} (hs : Keeps s0 s) : Keeps s0 (writeChipConfig v s) := by
  unfold writeChipConfig
  exact .ite (lockedWrite_keeps hs) (updChip_keeps hs)

theorem powerWrite_keeps {o v} (hs : Keeps s0 s) : Keeps s0 (powerWrite o v s) := by
  unfold powerWrite
  exact .ite (.ite (valueError_keeps hs) (updPower_keeps hs)) (.ite (.ite (valueError_keeps hs) (updPower_keeps hs)) hs)

theorem timingWrite_keeps {o v} (hs : Keeps s0 s) : Keeps s0 (timingWrite o v s) := by
  unfold timingWrite
  exact .ite (writeTimingControl_keeps hs) (.ite (latchTime_keeps hs) (.ite (.ite (updTiming_keeps hs) (valueError_keeps hs)) (.ite
    (.ite (updTiming_keeps hs) (valueError_keeps hs)) (.ite (updTiming_keeps hs) (.ite (updTiming_keeps hs) (.ite
    (applyTimeSet_keeps hs) (.ite (updTiming_keeps hs) (.ite (.ite (updTiming_keeps hs) (valueError_keeps hs)) (.ite
    (updTiming_keeps hs) (.ite (updTiming_keeps hs) (.ite (.ite (updTiming_keeps hs) (valueError_keeps hs)) (.ite (.ite (sendEsmc_keeps
    (updTiming_keeps hs)) (updTiming_keeps hs)) (.ite (updRelne_keeps hs) hs)))))))))))))

theorem ptpWrite_keeps {m o v} (hs : Keeps s0 s) : Keeps s0 (ptpWrite m o v s) := by
  unfold ptpWrite
  exact .ite (.ite (valueError_keeps hs) (bmca_keeps (updPtp_keeps hs))) (.ite (updPtp_keeps hs) (.ite (updPtp_keeps hs) (.ite
    (updPtp_keeps hs) (.ite (updPtp_keeps hs) (.ite (updPtp_keeps hs) hs)))))

theorem macWrite_keeps {m o v} (hs : Keeps s0 s) : Keeps s0 (macWrite m o v s) := by
  unfold macWrite
  exact .ite (writeMacsec_keeps hs) (.ite (clearMacCounters_keeps hs) hs)

theorem areaStore_keeps {o v} (hs : Keeps s0 s) : Keeps s0 (areaStore o v s) := by
  unfold areaStore
  exact .ite (writeChipLock_keeps hs) (.ite (writeChipConfig_keeps hs) (.ite (updChip_keeps hs) (.ite hs (.ite (relWrite_keeps hs) (.ite
    (powerWrite_keeps hs) (.ite (timingWrite_keeps hs) (.ite (ptpWrite_keeps hs) (.ite (macWrite_keeps hs) (.ite (secWrite_keeps hs)
    (.ite (opticsWrite_keeps hs) hs))))))))))

theorem mw0Store_keeps {f o v} (hs : Keeps s0 s) : Keeps s0 (mw0Store f o v s) := by
  unfold mw0Store
  exact .ite (.ite (beginFnReset_keeps (writeQuiesce_keeps (writeDbEnable_keeps hs))) (writeQuiesce_keeps (writeDbEnable_keeps hs)))
    (.ite (writeFnError_keeps hs) (.ite (writeIrqCause_keeps hs) (.ite (writeIrqMask_keeps hs) (.ite (updFn_keeps hs) (.ite
    (writeLedgerLatch_keeps hs) (.ite (writeTallySelect_keeps hs) (.ite (areaWrite_keeps (fun t ht => areaStore_keeps ht) hs) hs)))))))

theorem mw0Piece_keeps {f o data} (hs : Keeps s0 s) : Keeps s0 (mw0Piece f o data s) := by
  unfold mw0Piece
  exact .ite (.ite (ringDoorbell_keeps hs) (setError_keeps hs)) (.ite (mw0Store_keeps hs) (.ite (setError_keeps hs) (setError_keeps hs)))

theorem mw0Long_keeps {f n o data} (hs : Keeps s0 s) : Keeps s0 (mw0Long f n o data s) := by
  induction n generalizing s o data with
  | zero => exact hs
  | succ n ih =>
    unfold mw0Long
    exact .ite hs (ih (mw0Piece_keeps hs))

theorem mw0Write_keeps {f o data} (hs : Keeps s0 s) : Keeps s0 (mw0Write f o data s) := by
  unfold mw0Write
  exact .ite hs (.ite (mw0Long_keeps hs) (.ite (.ite (mw0Piece_keeps hs) (mw0Piece_keeps (mw0Piece_keeps hs))) (.ite (setError_keeps hs)
    (mw0Piece_keeps hs))))

theorem wf_ringStore {f a data} {m : Mem} (h : Memory.wf m = true) : Memory.wf (ringStore s f a m data) = true := by
  induction data generalizing m a with
  | nil => exact h
  | cons b bs ih =>
    unfold ringStore
    apply ih
    split
    · exact Memory.wf_write _ _ h
    · exact h

theorem ringWrite_keeps {f a data} (hs : Keeps s0 s) : Keeps s0 (ringWrite f a data s) := by
  unfold ringWrite
  exact .ite (setError_keeps (host_keeps wf_ringStore id hs)) (host_keeps wf_ringStore id hs)

theorem mw2Write_keeps {f o data} (hs : Keeps s0 s) : Keeps s0 (mw2Write f o data s) := by
  unfold mw2Write
  exact .ite hs (.ite (ringWrite_keeps hs) (.ite (sendPending_keeps (updFn_keeps hs)) (.ite hs (.ite (setError_keeps hs)
    (setError_keeps hs)))))

theorem configWrite_keeps {f o data} (hs : Keeps s0 s) : Keeps s0 (configWrite f o data s) := by
  unfold configWrite
  exact .ite (updFn_keeps hs) (.ite (sendPending_keeps (updFn_keeps hs)) hs)

theorem execRegisterWrite_keeps {f win offset data poisoned} (hs : Keeps s0 s) : OutKeeps s0
    (execRegisterWrite f win offset data poisoned s) := by
  unfold execRegisterWrite
  refine .next ?_
  split
  · exact .ite (configWrite_keeps hs) hs
  · exact .ite hs (.ite (emit_keeps (setError_keeps hs)) (mw0Write_keeps hs))
  · exact .ite hs (.ite (emit_keeps (setError_keeps hs)) (mw2Write_keeps hs))

theorem mw4Check_keeps {q f a n} (hs : Keeps s0 s) : Keeps s0 (mw4Check s q f a n) := by
  unfold mw4Check
  exact .ite (setError_keeps (.ite (setError_keeps hs) hs)) (.ite (setError_keeps hs) hs)

theorem wf_mw4Store {q a data} {m : Mem} (h : Memory.wf m = true) : Memory.wf (mw4Store q a m data) = true := by
  induction data generalizing m a with
  | nil => exact h
  | cons b bs ih =>
    unfold mw4Store
    apply ih
    split
    · exact Memory.wf_write _ _ h
    · exact h

theorem execMw4Access_keeps {f offset op} (hs : Keeps s0 s) : OutKeeps s0 (execMw4Access f offset op s) := by
  unfold execMw4Access
  refine .next (.ite hs ?_)
  split
  · dsimp only
    split
    · exact emit_keeps (mw4Check_keeps hs)
    · exact queueRepair_keeps (emit_keeps (log_keeps (mw4Check_keeps hs)))
  · exact .ite (emit_keeps (setError_keeps hs)) (mw4Check_keeps (updWork_hbm_keeps wf_mw4Store rfl hs))

theorem readFails_keeps {r what} (hs : Keeps s0 s) : Keeps s0 (readFails s r what) := by
  unfold readFails
  split
  · split
    · exact hs
    · exact .ite (emit_keeps (losePage_keeps hs)) hs
  · exact emit_keeps hs

/-! ### Mapping pages -/

theorem carryMemMap_keeps {c} (hs : Keeps s0 s) : Keeps s0 (carryMemMap c s).1 := by
  unfold carryMemMap
  refine whenOk_keeps hs ?_
  split
  · exact refuse_keeps hs
  · dsimp only
    exact .foldl _ (fun t ht _ => completeWith_keeps ht) (updPart_keeps hs)

theorem wf_zeroPages {q first n} {m : Mem} (h : Memory.wf m = true) : Memory.wf (zeroPages m q first n) = true := by
  unfold zeroPages
  refine wf_foldl _ (fun m hm _ => ?_) h
  split
  · exact Memory.wf_zero _ _ hm
  · exact hm

theorem execPagesMapped_keeps {part first} (hs : Keeps s0 s) : OutKeeps s0 (execPagesMapped part first s) := by
  unfold execPagesMapped
  refine .next ?_
  split
  · exact hs
  · split
    · exact hs
    · exact .ite hs (finish_keeps (updPart_keeps (updWork_hbm_keeps wf_zeroPages rfl hs)))

theorem carryMemUnmap_keeps {c} (hs : Keeps s0 s) : Keeps s0 (carryMemUnmap c s).1 := by
  unfold carryMemUnmap
  refine whenOk_keeps hs ?_
  dsimp only
  exact copyFaults_keeps (updPart_keeps hs)

theorem execUnmapComplete_keeps {part first} (hs : Keeps s0 s) : OutKeeps s0 (execUnmapComplete part first s) := by
  unfold execUnmapComplete
  refine .next ?_
  split
  · exact hs
  · split
    · exact hs
    · exact .ite hs (finish_keeps (updPart_keeps hs))

theorem carryMemQuery_keeps {c} (hs : Keeps s0 s) : Keeps s0 (carryMemQuery c s).1 := by
  unfold carryMemQuery
  refine whenOk_keeps hs ?_
  split
  · exact refuse_keeps hs
  · exact hs

/-! ### Messages of tills -/

theorem opFixed_keeps {since len carry e c} (h : opFixed since len carry = some e) (hc : Keeps s0 (carry c s).1) : Keeps s0
    (e.2.2 c s).1 := by
  cases h
  exact hc

theorem hostOp_keeps {op e} (h : hostOp op = some e) (c : Ctx) (t : State) (ht : Keeps s0 t) : Keeps s0 (e.2.2 c t).1 := by
  unfold hostOp at h
  split at h
  · exact opFixed_keeps h (carryHello_keeps ht)
  · exact opFixed_keeps h (carryBye_keeps ht)
  · exact opFixed_keeps h (carryTillConfig_keeps ht)
  · exact opFixed_keeps h (carryTillReset_keeps ht)
  · exact opFixed_keeps h (carryPartCreate_keeps ht)
  · exact opFixed_keeps h (carryPartDestroy_keeps ht)
  · exact opFixed_keeps h (carryPartBind_keeps ht)
  · exact opFixed_keeps h (carryPartQuery_keeps ht)
  · exact opFixed_keeps h (carryMemMap_keeps ht)
  · exact opFixed_keeps h (carryMemUnmap_keeps ht)
  · exact opFixed_keeps h (carryMemQuery_keeps ht)
  · exact opFixed_keeps h (carryJobLoad_keeps ht)
  · exact opFixed_keeps h (carryJobStart_keeps ht)
  · exact opFixed_keeps h (carryJobStop_keeps ht)
  · exact opFixed_keeps h (carryJobUnload_keeps ht)
  · exact opFixed_keeps h (carryPlanSelect_keeps ht)
  · exact opFixed_keeps h (carryJobQuery_keeps ht)
  · exact opFixed_keeps h (carryTallyAdd_keeps ht)
  · exact opFixed_keeps h (carryTallyRead_keeps ht)
  · exact opFixed_keeps h (carryTallyWait_keeps ht)
  · exact opFixed_keeps h (carryTallyQuery_keeps ht)
  · exact opFixed_keeps h (carryLedgerRead_keeps ht)
  · exact opFixed_keeps h (carryLedgerClear_keeps ht)
  · exact opFixed_keeps h (carryCapSet_keeps ht)
  · exact opFixed_keeps h (carryCapQuery_keeps ht)
  · exact opFixed_keeps h (carryTimeQuery_keeps ht)
  · cases h
    exact carryFapi_keeps ht
  · exact opFixed_keeps h (carryCellStart_keeps ht)
  · exact opFixed_keeps h (carryCellStop_keeps ht)
  · exact opFixed_keeps h (carryCellStats_keeps ht)
  · exact opFixed_keeps h (carrySvcOpen_keeps ht)
  · exact opFixed_keeps h (carrySvcClose_keeps ht)
  · exact opFixed_keeps h (carrySvcQuery_keeps ht)
  · exact opFixed_keeps h (carryAdapt_keeps ht)
  · exact opFixed_keeps h (carryPromote_keeps ht)
  · exact opFixed_keeps h (carryRollback_keeps ht)
  · exact opFixed_keeps h (carrySelftest_keeps ht)
  · exact opFixed_keeps h (carryFwStage_keeps ht)
  · exact opFixed_keeps h (carryFwActivate_keeps ht)
  · exact opFixed_keeps h (carryLcAdvance_keeps ht)
  · exact opFixed_keeps h (carryMendUpdate_keeps ht)
  · exact opFixed_keeps h (carrySealArm_keeps ht)
  · exact opFixed_keeps h (carryDbgHalt_keeps ht)
  · exact opFixed_keeps h (carryDbgStep_keeps ht)
  · exact opFixed_keeps h (carryDbgResume_keeps ht)
  · exact opFixed_keeps h (carryDbgRead_keeps ht)
  · cases h

theorem takeMessage_keeps {op m} (hs : Keeps s0 s) : OptKeeps s0 (takeMessage op m s) := by
  have hnone : OptKeeps s0 (takeCommand op none m s) := takeCommand_keeps (fun _ he => nomatch he) hs
  unfold takeMessage
  split
  · split
    · exact takeSessionOpen_keeps hs
    · exact takeSessionAppend_keeps hs
    · exact takeSessionGenerate_keeps hs
    · exact takeSessionFork_keeps hs
    · exact takeSessionClose_keeps hs
    · exact hnone
  · exact takeCommand_keeps (fun _ => hostOp_keeps) hs

theorem passSlots_keeps {n k} (hs : Keeps s0 s) : Keeps s0 (passSlots s n k) := by
  unfold passSlots
  exact updTill_keeps hs

theorem takeBad_keeps {op m} (hs : Keeps s0 s) : OptKeeps s0 (takeBad op m s) := by
  unfold takeBad
  exact .ite .none (.some (finish_keeps (openTicket_keeps hs)))

theorem execMessageTake_keeps {till} (hs : Keeps s0 s) : OutKeeps s0 (execMessageTake till s) := by
  unfold execMessageTake
  exact .next (.ite hs (.ite (.getD (takeMessage_keeps hs) hs) (.ite hs (.ite (.getD (takeBad_keeps (passSlots_keeps hs)) hs) (.getD
    (takeMessage_keeps (passSlots_keeps hs)) hs)))))

theorem mgmtCommand_keeps {via eid data} (hs : Keeps s0 s) : Keeps s0 (mgmtCommand via eid data s) := by
  unfold mgmtCommand
  exact .ite hs (.getD (takeMessage_keeps (updMgmt_keeps hs)) hs)

theorem execMctpMessage_keeps {via eid type body} (hs : Keeps s0 s) : OutKeeps s0 (execMctpMessage via eid type body s) := by
  unfold execMctpMessage
  refine .next ?_
  refine .ite hs ?_
  refine .ite ?_ (.ite (mgmtCommand_keeps hs) hs)
  split
  · exact mgmtRequest_keeps hs
  · exact hs

theorem runHeld_keeps (hs : Keeps s0 s) : Keeps s0 (runHeld s) := by
  unfold runHeld
  refine .foldl _ (fun t ht _ => .ite ?_ ht) (mk_host_keeps rfl rfl hs)
  split
  · rename_i h
    exact carryOut_keeps (hostOp_keeps h) ht
  · exact ht

theorem execFlowRestartDone_keeps (hs : Keeps s0 s) : OutKeeps s0 (execFlowRestartDone s) := by
  unfold execFlowRestartDone
  exact .next (.ite hs (runHeld_keeps (.ite (updPower_keeps hs) (powerEvent_keeps (endStopped_keeps (updPower_keeps hs))))))

/-! ### Every command -/

theorem exec_keeps {i} (hs : Keeps s0 s) : OutKeeps s0 (exec i s) := by
  unfold exec
  split
  · exact .next (issueNow_keeps hs)
  · exact .next (arrayStep_keeps (fun t _ _ _ ht => passArray_keeps ht) hs)
  · exact .next (arrayStep_keeps (fun t _ _ _ ht => reloadArray_keeps ht) hs)
  · exact .next (issueChecked_keeps (fun _ _ t ht => issueUnit_keeps ht) hs)
  · exact .next (issueChecked_keeps (fun _ _ t ht => issueUnit_keeps ht) hs)
  · exact .next (issueMoves_keeps hs)
  · exact .next (issueMoves_keeps hs)
  · exact .next (issueChecked_keeps (fun _ _ t ht => issueUnit_keeps ht) hs)
  · exact .next (issueNow_keeps hs)
  · exact execCheckpoint_keeps hs
  · exact .next (issueChecked_keeps (fun _ _ t ht => issueTimed_keeps (takeDigest_keeps ht)) hs)
  · exact .next (issueNow_keeps hs)
  · exact execEpochEnd_keeps hs
  · exact execStepComplete_keeps hs
  · exact execEpochBegin_keeps hs
  · exact execEpochLimit_keeps hs
  · exact execPlanRuleSelect_keeps hs
  · exact execStallLimit_keeps hs
  · exact .next (.ite hs (updRel_keeps hs))
  · exact .next (takeStop_keeps (.ite (runningFinds_keeps hs) hs))
  · exact vecRun_keeps hs
  · exact vecRun_keeps hs
  · exact vecRun_keeps hs
  · exact vecRun_keeps hs
  · exact vecRun_keeps hs
  · exact vecRun_keeps hs
  · exact vecRun_keeps hs
  · exact vecRun_keeps hs
  · exact vecRun_keeps hs
  · exact vecRun_keeps hs
  · exact vecRun_keeps hs
  · exact vecRun_keeps hs
  · exact vecRun_keeps hs
  · exact vecRun_keeps hs
  · exact vecRun_keeps hs
  · exact vecRun_keeps hs
  · exact vecRun_keeps hs
  · exact vecRun_keeps hs
  · exact vecRun_keeps hs
  · exact vecRun_keeps hs
  · exact vecRun_keeps hs
  · exact vecRun_keeps hs
  · exact vecRun_keeps hs
  · exact vecRun_keeps hs
  · exact vecRun_keeps hs
  · exact vecRun_keeps hs
  · exact vecRun_keeps hs
  · exact vecRun_keeps hs
  · exact vecRun_keeps hs
  · exact vecRun_keeps hs
  · exact vecRun_keeps hs
  · exact vecRun_keeps hs
  · exact vecRun_keeps hs
  · exact vecRun_keeps hs
  · exact vecRun_keeps hs
  · exact vecRun_keeps hs
  · exact vecRun_keeps hs
  · exact vecRun_keeps hs
  · exact vecRun_keeps hs
  · exact vecRun_keeps hs
  · exact vecRun_keeps hs
  · exact vecRun_keeps hs
  · exact vecRun_keeps hs
  · exact vecRun_keeps hs
  · exact vecRun_keeps hs
  · exact vecRun_keeps hs
  · exact vecMem_keeps (fun _ _ _ t ht => updVec_keeps ht) hs
  · exact vecMem_keeps (fun _ _ _ t ht => setScratch_keeps wf_viewWrite ht) hs
  · exact vecRun_keeps hs
  · exact execVstacc_keeps hs
  · exact vecMem_keeps (fun _ _ _ t ht => countRun_keeps (updVec_keeps ht)) hs
  · exact vecRun_keeps hs
  · exact .next (.ite (updVec_keeps hs) hs)
  · exact vecRun_keeps hs
  · exact vecRun_keeps hs
  · exact aluRun_keeps hs
  · exact aluRun_keeps hs
  · exact aluRun_keeps hs
  · exact aluRun_keeps hs
  · exact aluRun_keeps hs
  · exact aluRun_keeps hs
  · exact aluRun_keeps hs
  · exact aluRun_keeps hs
  · exact aluRun_keeps hs
  · exact aluRun_keeps hs
  · exact aluRun_keeps hs
  · exact aluRun_keeps hs
  · exact aluRun_keeps hs
  · exact aluRun_keeps hs
  · exact aluRun_keeps hs
  · exact aluRun_keeps hs
  · exact aluRun_keeps hs
  · exact aluRun_keeps hs
  · exact aluRun_keeps hs
  · exact aluRun_keeps hs
  · exact aluRun_keeps hs
  · exact aluRun_keeps hs
  · exact aluRun_keeps hs
  · exact aluRun_keeps hs
  · exact aluRun_keeps hs
  · exact aluRun_keeps hs
  · exact aluRun_keeps hs
  · exact ctlRun_keeps hs
  · exact ctlRun_keeps hs
  · exact ctlRun_keeps hs
  · exact ctlRun_keeps hs
  · exact ctlRun_keeps hs
  · exact .next (.ite (updSig_keeps hs) hs)
  · exact ctlRun_keeps hs
  · exact .next (.ite (updSig_keeps hs) hs)
  · exact ctlRun_keeps hs
  · exact ctlRun_keeps hs
  · exact ctlRun_keeps hs
  · exact sigMem_keeps (fun _ _ _ t ht => updSig_keeps ht) hs
  · exact execPut_keeps hs
  · exact ctlRun_keeps hs
  · exact execYieldAbortPoint_keeps hs
  · exact execSaveComplete_keeps hs
  · exact execRinseComplete_keeps hs
  · exact execLentWindowClose_keeps hs
  · exact execBeDispatch_keeps hs
  · exact execSegmentWake_keeps hs
  · exact runCommand_keeps (fun _ t ht => carryMemMap_keeps ht) hs
  · exact execPagesMapped_keeps hs
  · exact runCommand_keeps (fun _ t ht => carryMemUnmap_keeps ht) hs
  · exact execUnmapComplete_keeps hs
  · exact runCommand_keeps (fun _ t ht => carryMemQuery_keeps ht) hs
  · exact execTransactionLanding_keeps hs
  · exact runCommand_keeps (fun _ t ht => carryTallyAdd_keeps ht) hs
  · exact runCommand_keeps (fun _ t ht => carryTallyRead_keeps ht) hs
  · exact runCommand_keeps (fun _ t ht => carryTallyWait_keeps ht) hs
  · exact .next (.foldl _ (fun t ht _ => finish_keeps ht) (updWork_keeps rfl rfl hs))
  · exact .next (.ite (finish_keeps (updWork_keeps rfl rfl hs)) hs)
  · exact runCommand_keeps (fun _ t ht => carryTallyQuery_keeps ht) hs
  · exact .next (.ite hs (updTally_keeps hs))
  · exact execGroupTallyMessage_keeps hs
  · exact execBarrierRelease_keeps hs
  · exact .next (combineDigest_keeps hs)
  · exact execClipShare_keeps hs
  · exact runCommand_keeps (fun _ t ht => carryPartCreate_keeps ht) hs
  · exact runCommand_keeps (fun _ t ht => carryPartDestroy_keeps ht) hs
  · exact execPartDestroyComplete_keeps hs
  · exact runCommand_keeps (fun _ t ht => carryPartBind_keeps ht) hs
  · exact runCommand_keeps (fun _ t ht => carryPartQuery_keeps ht) hs
  · exact runCommand_keeps (fun _ t ht => carryLedgerRead_keeps ht) hs
  · exact runCommand_keeps (fun _ t ht => carryLedgerClear_keeps ht) hs
  · exact .next (.ite (ringDoorbell_keeps hs) hs)
  · exact .next (.ite (ringDoorbell_keeps hs) hs)
  · exact execMessageTake_keeps hs
  · exact .next (.ite (sendVector_keeps (updFn_keeps hs)) (updFn_keeps hs))
  · exact .next (.ite hs (sendPending_keeps (updFn_keeps hs)))
  · exact .next (fnWrite_keeps (fun t ht => writeDbEnable_keeps ht) hs)
  · exact .next (.ite (beginFnReset_keeps hs) hs)
  · exact .next (fnWrite_keeps (fun t ht => writeQuiesce_keeps ht) hs)
  · exact .next (fnWrite_keeps (fun t ht => writeFnError_keeps ht) hs)
  · exact .next (fnWrite_keeps (fun t ht => writeIrqCause_keeps ht) hs)
  · exact .next (fnWrite_keeps (fun t ht => writeIrqMask_keeps ht) hs)
  · exact .next (fnWrite_keeps (fun t ht => writeLedgerLatch_keeps ht) hs)
  · exact .next (fnWrite_keeps (fun t ht => writeTallySelect_keeps ht) hs)
  · exact execChipLock_keeps hs
  · exact execRegisterWrite_keeps hs
  · exact execMw4Access_keeps hs
  · exact execFunctionLevelReset_keeps hs
  · exact .next (updChip_keeps (resetVfs_keeps hs))
  · exact execPcieConventionalReset_keeps hs
  · exact .next (finishFnReset_keeps hs)
  · exact .next (readFails_keeps hs)
  · exact runCommand_keeps (fun _ t ht => carryHello_keeps ht) hs
  · exact runCommand_keeps (fun _ t ht => carryBye_keeps ht) hs
  · exact runCommand_keeps (fun _ t ht => carryTillConfig_keeps ht) hs
  · exact runCommand_keeps (fun _ t ht => carryTillReset_keeps ht) hs
  · exact runCommand_keeps (fun _ t ht => carryJobLoad_keeps ht) hs
  · exact .next (.ite hs (.foldl _ (fun t ht _ => .ite (refuseLoad_keeps ht) ht) hs))
  · exact runCommand_keeps (fun _ t ht => carryJobStart_keeps ht) hs
  · exact runCommand_keeps (fun _ t ht => carryJobStop_keeps ht) hs
  · exact runCommand_keeps (fun _ t ht => carryJobUnload_keeps ht) hs
  · exact runCommand_keeps (fun _ t ht => carryPlanSelect_keeps ht) hs
  · exact runCommand_keeps (fun _ t ht => carryJobQuery_keeps ht) hs
  · exact runCommand_keeps (fun _ t ht => carryCapSet_keeps ht) hs
  · exact runCommand_keeps (fun _ t ht => carryCapQuery_keeps ht) hs
  · exact runCommand_keeps (fun _ t ht => carryTimeQuery_keeps ht) hs
  · exact execFapiTunnel_keeps hs
  · exact runCommand_keeps (fun _ t ht => carryCellStart_keeps ht) hs
  · exact runCommand_keeps (fun _ t ht => carryCellStop_keeps ht) hs
  · exact runCommand_keeps (fun _ t ht => carryCellStats_keeps ht) hs
  · exact runCommand_keeps (fun _ t ht => carrySelftest_keeps ht) hs
  · exact runCommand_keeps (fun _ t ht => carryFwStage_keeps ht) hs
  · exact runCommand_keeps (fun _ t ht => carryFwActivate_keeps ht) hs
  · exact runCommand_keeps (fun _ t ht => carryLcAdvance_keeps ht) hs
  · exact runCommand_keeps (fun _ t ht => carryMendUpdate_keeps ht) hs
  · exact runCommand_keeps (fun _ t ht => carrySealArm_keeps ht) hs
  · exact runCommand_keeps (fun _ t ht => carryDbgHalt_keeps ht) hs
  · exact runCommand_keeps (fun _ t ht => carryDbgStep_keeps ht) hs
  · exact runCommand_keeps (fun _ t ht => carryDbgResume_keeps ht) hs
  · exact runCommand_keeps (fun _ t ht => carryDbgRead_keeps ht) hs
  · exact execUplaneFrame_keeps hs
  · exact execServiceFrame_keeps hs
  · exact execFrameDrop_keeps hs
  · exact .next (.ite (updMac_keeps (countRx_keeps hs)) hs)
  · exact .next (.foldl _ (fun t ht _ => .foldl _ (fun t' ht' _ => sendFrame_keeps ht') ht) hs)
  · exact .next (updMac_keeps hs)
  · exact execSymbolClose_keeps hs
  · exact .next (ulTti_keeps hs)
  · exact .next (dlTti_keeps hs)
  · exact .next (ulDci_keeps hs)
  · exact .next (txData_keeps hs)
  · exact execSlotIndication_keeps hs
  · exact execContextFree_keeps hs
  · exact execCodeBlockDecoded_keeps hs
  · exact execHarqAgeExpiry_keeps hs
  · exact execPolarDecoded_keeps hs
  · exact execCodeBlockEncoded_keeps hs
  · exact execSymbolDeparture_keeps hs
  · exact execDlCplaneSend_keeps hs
  · exact execUlCplaneSend_keeps hs
  · exact execStagingProcess_keeps hs
  · exact execEvalExpiry_keeps hs
  · exact execTrainingRoundStart_keeps hs
  · exact execRoundEnd_keeps hs
  · exact execRoundTimeout_keeps hs
  · exact execLiveSwitch_keeps hs
  · exact .next (.ite hs (.ite (rollback_keeps (updAdapt_keeps hs)) (updAdapt_keeps hs)))
  · exact execProbationEnd_keeps hs
  · exact .ite (.next hs) (runCommand_keeps (fun _ t ht => carryAdapt_keeps ht) hs)
  · exact .ite (runCommand_keeps (fun _ t ht => carryAdapt_keeps ht) hs) (.next hs)
  · exact .ite (runCommand_keeps (fun _ t ht => carryAdapt_keeps ht) hs) (.next hs)
  · exact .ite (runCommand_keeps (fun _ t ht => carryAdapt_keeps ht) hs) (.next hs)
  · exact runCommand_keeps (fun _ t ht => carryPromote_keeps ht) hs
  · exact runCommand_keeps (fun _ t ht => carryRollback_keeps ht) hs
  · exact runCommand_keeps (fun _ t ht => carrySvcOpen_keeps ht) hs
  · exact runCommand_keeps (fun _ t ht => carrySvcClose_keeps ht) hs
  · exact runCommand_keeps (fun _ t ht => carrySvcQuery_keeps ht) hs
  · exact .next (.getD (takeSessionOpen_keeps hs) hs)
  · exact .next (.getD (takeSessionAppend_keeps hs) hs)
  · exact .next (.getD (takeSessionGenerate_keeps hs) hs)
  · exact .next (.getD (takeSessionFork_keeps hs) hs)
  · exact .next (.getD (takeSessionClose_keeps hs) hs)
  · exact execEvictionCopyComplete_keeps hs
  · exact execReloadCopyComplete_keeps hs
  · exact execSessionFrameTimeout_keeps hs
  · exact execPtpSync_keeps hs
  · exact execPtpDelayReq_keeps hs
  · exact execPtpDelayResp_keeps hs
  · exact execPtpAnnounce_keeps hs
  · exact .next (.ite hs (bumpSeq_keeps (sendPtp_keeps hs)))
  · exact .next (.ite hs (bumpSeq_keeps (sendPtp_keeps hs)))
  · exact .next (.ite hs (bumpSeq_keeps (sendPtp_keeps (updPtp_keeps hs))))
  · exact .next (.ite (sourceLost_keeps (bmca_keeps (updPtp_keeps hs))) (bmca_keeps (updPtp_keeps hs)))
  · exact .next (.ite (enterFreeRun_keeps hs) hs)
  · exact .next (.ite hs (updTiming_keeps (countRx_keeps hs)))
  · exact .next (sendEsmc_keeps hs)
  · exact .next (updTiming_keeps hs)
  · exact .next (updTiming_keeps hs)
  · exact execPpsInEdge_keeps hs
  · exact .next (.ite (sourceLost_keeps (updTiming_keeps hs)) (updTiming_keeps hs))
  · exact .next (.ite (emit_keeps hs) hs)
  · exact execTodMessage_keeps hs
  · exact .next (.ite (sourceLost_keeps (updTiming_keeps hs)) (updTiming_keeps hs))
  · exact .next (.ite hs (emit_keeps hs))
  · exact .next (chipWrite_keeps (fun t ht => applyTimeSet_keeps ht) hs)
  · exact .next (chipWrite_keeps (fun t ht => latchTime_keeps ht) hs)
  · exact .next (chipWrite_keeps (fun t ht => clearMacCounters_keeps ht) hs)
  · exact .next (chipWrite_keeps (fun t ht => writeMacsec_keeps ht) hs)
  · exact .next (.ite (updSec_keeps rfl hs) hs)
  · exact .next (.ite hs (updRelne_keeps (updPort_keeps hs)))
  · exact execRelneLinkDown_keeps hs
  · exact execGroupForm_keeps hs
  · exact execLinkTimeMeasure_keeps hs
  · exact execLinkTileRx_keeps hs
  · exact execCapControlInterval_keeps hs
  · exact .next (.ite (powerEvent_keeps (updPower_keeps hs)) hs)
  · exact execDiePointSelect_keeps hs
  · exact .next (.ite hs (settleLoads_keeps (updWork_keeps rfl rfl (settlePoint_keeps hs))))
  · exact .next (.ite (updPower_keeps (updDie_keeps hs)) hs)
  · exact .next (.ite (.ite (updPower_keeps (emit_keeps hs)) (emit_keeps hs)) hs)
  · exact .next (updPower_keeps hs)
  · exact .next (updPower_keeps (droopMasks_keeps (updDie_keeps hs)))
  · exact .next (droopMasks_keeps (updDie_keeps hs))
  · exact .next (.ite (settlePldm_keeps (sampleTemps_keeps hs)) hs)
  · exact .next (.ite hs (powerEvent_keeps (updPower_keeps hs)))
  · exact .next (settleMasks_keeps (updPower_keeps hs))
  · exact .next (updSys_keeps (updPower_keeps hs))
  · exact .next (.ite hs (.foldl _ (fun t ht _ => finish_keeps ht) (flowStop_keeps (updRel_keeps hs))))
  · exact .next (updPower_keeps hs)
  · exact .next (.ite (.foldl _ (fun t ht _ => commandPoint_keeps ht) (updPower_keeps hs)) hs)
  · exact execFlowRestartDone_keeps hs
  · exact execEnergyInterval_keeps hs
  · exact execLockstepMismatch_keeps hs
  · exact .next (warmRestart_keeps hs)
  · exact execHbmScrub_keeps hs
  · exact .next (.ite (.foldl _ (fun t ht _ => tellerFind_keeps ht) hs) hs)
  · exact .next (.ite hs (updTest_keeps hs))
  · exact execSelftestSlice_keeps hs
  · exact execEngineTest_keeps hs
  · exact .next (.ite hs (.ite (updRel_keeps hs) (updRel_keeps hs)))
  · exact .next (.ite hs (updSec_keeps rfl hs))
  · exact .next (updSec_keeps rfl hs)
  · exact .next (updSec_keeps rfl hs)
  · exact .next (.ite hs (.ite (logConfig_keeps (updSec_keeps rfl hs)) (updSec_keeps rfl hs)))
  · exact .next (chipWrite_keeps (fun t ht => writeSakCtl_keeps ht) hs)
  · exact .next (chipWrite_keeps (fun t ht => writeSakCtl_keeps ht) hs)
  · exact .next (chipWrite_keeps (fun t ht => writeOwnerCommit_keeps ht) hs)
  · exact .next (chipWrite_keeps (fun t ht => writeSecLock_keeps ht) hs)
  · exact .next (spdmGetVersion_keeps hs)
  · exact .next (spdmGetCapabilities_keeps hs)
  · exact .next (spdmNegotiate_keeps hs)
  · exact .next (spdmGetDigests_keeps hs)
  · exact .next (spdmGetCertificate_keeps hs)
  · exact .next (spdmChallenge_keeps hs)
  · exact .next (spdmGetMeasurements_keeps hs)
  · exact execMctpMessage_keeps hs
  · exact .next (setEid_keeps hs)
  · exact .next (getPdrOp_keeps hs)
  · exact .next (getSensor_keeps hs)
  · exact .next (getStateSensor_keeps hs)
  · exact .next (setEffecter_keeps hs)
  · exact .next (setReceiver_keeps hs)
  · exact .next (startUpdate_keeps hs)
  · exact .next (verifyUpdate_keeps hs)
  · exact .next (activateUpdate_keeps hs)
  · exact .next (firmwareParameters_keeps hs)
  · exact .next (.ite hs (.ite (updMgmt_keeps hs) (logTimeout_keeps (updMgmt_keeps hs))))
  · exact .next (.ite hs (updMgmt_keeps hs))
  · exact execOpticsProbe_keeps hs
  · exact execOpticsMonitorRead_keeps hs
  · exact execOpticsBusRecovery_keeps hs
  · exact .next (chipWrite_keeps (fun t ht => writeRetry_keeps ht) hs)
  · exact .next (updOptics_keeps hs)
  · exact .next (updIndicator_keeps hs)
  · exact .next (coldReset_keeps hs)
  · exact .next (updSys_keeps hs)
  · exact execBootReady_keeps hs
  · exact .next (.ite (statusChanged_keeps (updSys_keeps hs)) hs)
  · exact .next (.ite (updChip_keeps (updSys_keeps hs)) hs)
  · exact .next (updChip_keeps (.ite (resetVfs_keeps hs) hs))
  · exact .next (updChip_keeps hs)
  · exact .next (readFails_keeps hs)
  · exact .next (chipWrite_keeps (fun t ht => writeTimingControl_keeps ht) hs)
  · exact .next (.ite (updTiming_keeps hs) hs)
  · exact execPtpSignaling_keeps hs
  · exact .next (updSec_keeps rfl hs)
  · exact .next (updSec_keeps rfl hs)
  · exact execJtagInstruction_keeps hs
  · exact .next (transferFirmware_keeps hs)
  · exact execLoadCheck_keeps hs
  · exact .next (.ite (updTest_keeps hs) hs)
  · exact execMemoryBistComplete_keeps hs
  · exact execPlacementComplete_keeps hs
  · exact execFwStageComplete_keeps hs
  · exact execMctpMessageSent_keeps hs

/-! ### The step -/

end

/-- Settles O60: a step with an empty queue is a tick, any other the front command on the rest of the queue, and both keep what `Keeps`
says. -/
theorem everyStepKeepsMemoriesFusesAndOrder : Obligations.EveryStepKeepsMemoriesFusesAndOrder := by
  unfold Obligations.EveryStepKeepsMemoriesFusesAndOrder
  intro s t hinv hstep
  unfold step at hstep
  split at hstep
  case h_1 hqueue =>
    cases hstep
    have hkeeps := tick_keeps (Keeps.refl s)
    exact ⟨hkeeps.inv hinv, by rw [hkeeps.pending, hqueue, List.tail_nil], hkeeps.fuses⟩
  case h_2 c rest hqueue =>
    have hkeeps := exec_keeps (Keeps.refl { s with pending := rest }) t hstep
    exact ⟨hkeeps.inv hinv, by rw [hkeeps.pending, hqueue, List.tail_cons], hkeeps.fuses⟩

end Sys2Proof.Machine
end

section
/-! The step of the machine: what the queue decides, and one cycle of the timing island. -/

namespace Sys2Proof.Machine
set_option Elab.async false -- one proof at a time, for the memory of the check

/-- Settles O1: on a queue that is not empty a step is the front command, on the rest of the queue. -/
theorem stepRunsTheFrontCommand : Obligations.StepRunsTheFrontCommand := by
  unfold Obligations.StepRunsTheFrontCommand
  intro c rest s hqueue
  rw [step, hqueue]

theorem mkTime_toNat {ns units : Nat} (hs : ns / 1000000000 < 2 ^ 64) (hu : units < 65536) :
    (mkTime ns units).toNat = ns / 1000000000 * 2 ^ 64 + ns % 1000000000 * 2 ^ 32 + units * 2 ^ 16 := by
  unfold mkTime
  rw [BitVec.toNat_ofNat, Nat.mod_eq_of_lt]
  have := Nat.mod_lt ns (show 1000000000 > 0 by omega)
  omega

/-- With no departure and no fraction a cycle is one nanosecond. -/
theorem Timing.advance_time {t : Timing} (hrate : t.rate = 0) (hfrac : t.frac = 0) :
    t.advance.time = mkTime (t.time.toNat / 2 ^ 64 * 1000000000 + t.time.toNat / 2 ^ 32 % 2 ^ 32 + 1) (t.time.toNat / 2 ^ 16 % 65536) := by
  unfold Timing.advance
  simp only [hrate, hfrac, BitVec.toNat_ushiftRight, Nat.shiftRight_eq_div_pow]
  congr 1
  · omega
  · omega

/-- The second and the nanosecond of device time after such a cycle, where no second ends. -/
theorem advance_now {s : State} (hrate : s.net.timing.rate = 0) (hfrac : s.net.timing.frac = 0) (hsub : timeSubNs s + 1 < 1000000000) :
    timeS (updTiming s Timing.advance) = timeS s ∧ timeSubNs (updTiming s Timing.advance) = timeSubNs s + 1 := by
  have htime := Timing.advance_time hrate hfrac
  have hbound := s.net.timing.time.isLt
  unfold timeSubNs timeS at *
  rw [BitVec.toNat_ushiftRight, Nat.shiftRight_eq_div_pow] at *
  simp only [updTiming, htime, BitVec.toNat_ushiftRight, Nat.shiftRight_eq_div_pow] at *
  rw [mkTime_toNat (by omega) (by omega)]
  omega


theorem tick_of_noSecond {s : State} (hclocks : s.sys.clocks = true) (htests : s.rel.tests = [])
    (hsec : timeS (updTiming s Timing.advance) = timeS s) :
    tick s = updTiming s Timing.advance := by
  have htests' : (updTiming s Timing.advance).rel.tests = [] := by rw [updTiming_rel, htests]
  unfold tick
  rw [if_neg (not_not_intro hclocks)]
  generalize updTiming s Timing.advance = t at hsec htests' ⊢
  dsimp only
  rw [if_pos hsec, if_pos htests']

/-- Settles O2: no second ends, so the tick changes device time alone. -/
theorem idleStepAdvancesTime : Obligations.IdleStepAdvancesTime := by
  unfold Obligations.IdleStepAdvancesTime
  intro s hqueue hclocks hrate hfrac htests hsub _
  obtain ⟨hsec, hns⟩ := advance_now hrate hfrac hsub
  have hnow : nowNs (updTiming s Timing.advance) = nowNs s + 1 := by
    rw [nowNs, hsec, hns, ← Nat.add_assoc, ← nowNs]
  have hstep : step s = .next (updTiming s Timing.advance) := by
    rw [step, hqueue, ← tick_of_noSecond hclocks htests hsec]
  exact ⟨_, hstep, hnow, by rw [updTiming_pending, hqueue], updTiming_work .., updTiming_engines .., updTiming_host ..⟩

end Sys2Proof.Machine
end

section
/-! The state after reset; TIME_QUERY, sessions, tills and caps by command (15 R395; 16 R425-R429, R435, R436; 22 R462). -/

namespace Sys2Proof.Machine
set_option Elab.async false -- one proof at a time, for the memory of the check

/-- The entry of a table that holds one entry for each number below a bound. -/
theorem Tbl.get_range_map {α : Type} (d : α) (g : Nat → α) {b n k : Nat} (h : n < k) :
    Tbl.get d ((List.range' b k).map fun i => (i, g i)) (b + n) = g (b + n) := by
  induction k generalizing b n with
  | zero => omega
  | succ k ih =>
    rw [List.range'_succ, List.map_cons, Tbl.get]
    rcases n with - | n
    · rw [Nat.add_zero, if_pos rfl]
    · rw [if_neg (by omega), show b + (n + 1) = (b + 1) + n by omega]
      exact ih (by omega)

theorem getTill_reset {n : Nat} (h : n < 96) : getTill State.reset n = Till.function (Fin.ofNat 32 (n / 3)) (n % 3) := by
  have hget := Tbl.get_range_map Till.none (fun n => Till.function (Fin.ofNat 32 (n / 3)) (n % 3)) (b := 0) h
  rwa [Nat.zero_add, ← List.range_eq_range'] at hget

/-- The three tills of a function after reset: they run, are empty, and each has its own kind. -/
theorem getTill_reset_fnTill (f : Fin 32) {k : Nat} (hk : k < 3) : (getTill State.reset (fnTill f.val k)).state = .running ∧
    (getTill State.reset (fnTill f.val k)).used = 0 ∧ (getTill State.reset (fnTill f.val k)).kind = BitVec.ofNat 3 k := by
  have hf := f.isLt
  rw [getTill_reset (by unfold fnTill; omega), show fnTill f.val k % 3 = k by unfold fnTill; omega]
  exact ⟨rfl, by simp [Till.used, Till.function, Till.none], rfl⟩

/-- Settles O59: the tables are empty, so each read gives the reset value of its entry. -/
theorem resetStateIsFresh : Obligations.ResetStateIsFresh := by
  unfold Obligations.ResetStateIsFresh
  have hfns (f : Fin 32) : getFn State.reset f.val = Fn.reset := rfl
  refine ⟨⟨rfl, rfl, rfl, fun _ he => nomatch he⟩, rfl, rfl, rfl, rfl, rfl, rfl, rfl, fun _ => rfl, fun _ => rfl, fun _ _ => rfl, fun f => ?_,
    fun _ => ⟨rfl, rfl⟩, rfl, rfl⟩
  rw [hfns]
  exact ⟨rfl, rfl, rfl, rfl, rfl, rfl, fun k => getTill_reset_fnTill f⟩

/-! ### TIME_QUERY -/

theorem toNat_extractLsb'_eq_bits {w : Nat} (x : BitVec w) (start len : Nat) (hlen : 0 < len) :
    (x.extractLsb' start len).toNat = bits x.toNat (start + len - 1) start := by
  rw [BitVec.extractLsb'_toNat, bits, show start + len - 1 + 1 - start = len by omega]

theorem carryTimeQuery_of_carried {s t : State} {m : Msg} {c : Ctx} (hc : Carried s 0x0700 0x100 16 m t c) :
    carryTimeQuery c t = (t, some ⟨eOk,
      bits t.net.timing.time.toNat 31 16 * 65536 + syncCode t.net.timing.state + 8 * b2n t.net.timing.ppsLost,
      bits t.net.timing.time.toNat 63 32, bits t.net.timing.time.toNat 95 64, bits t.net.timing.time.toNat 127 96⟩) := by
  simp only [carryTimeQuery, checks_of_carried hc]
  rfl

/-- The fields of RESULT0 of TIME_QUERY: 16 bits of time, 12 of zeroes, PPS_LOST and the state's code (R436). -/
theorem timeResult_fields {h k : Nat} (hh : h < 65536) (hk : k < 4) (lost : Bool) :
    bits (h * 65536 + k + 8 * b2n lost) 31 16 = h ∧ bits (h * 65536 + k + 8 * b2n lost) 2 0 = k ∧
      bit (h * 65536 + k + 8 * b2n lost) 3 = lost ∧ bits (h * 65536 + k + 8 * b2n lost) 15 4 = 0 ∧ h * 65536 + k + 8 * b2n lost < 2 ^ 32 := by
  simp only [bits_eq_div_mod, bit, Nat.testBit_eq_decide_div_mod_eq]
  cases lost
  · simp only [b2n, Bool.false_eq_true, if_false, decide_eq_false_iff_not]
    omega
  · simp only [b2n, if_true, decide_eq_true_eq]
    omega

theorem syncCode_lt (x : SyncState) : syncCode x < 4 := by cases x <;> decide

/-- Settles O32: the four results are fields of device time beside the state's code. -/
theorem timeQueryAnswersDeviceTime : Obligations.TimeQueryAnswersDeviceTime := by
  unfold Obligations.TimeQueryAnswersDeviceTime
  intro s m t c hc
  have hexec := runCommand_of_done hc (by decide) (by decide) (carryTimeQuery_of_carried hc)
  have hhigh : bits t.net.timing.time.toNat 31 16 < 65536 := by
    rw [bits_eq_div_mod]
    exact Nat.mod_lt _ (by decide)
  obtain ⟨htime, hcode, hlost, hzero, hlt⟩ := timeResult_fields hhigh (syncCode_lt t.net.timing.state) t.net.timing.ppsLost
  simp only [toNat_extractLsb'_eq_bits _ _ _ (show 0 < 32 by decide), toNat_extractLsb'_eq_bits _ _ _ (show 0 < 16 by decide)]
  refine ⟨_, hexec, htime, ?_, hlost, hzero, hlt⟩
  rw [hcode]
  cases t.net.timing.state <;> rfl

/-! ### HELLO and BYE -/

section
variable {s t : State} {m : Msg} {c : Ctx}

/-- What the offers of a HELLO meet: major 2 before major 1 (R425). -/
def offersMeet (c : Ctx) : Option (Nat × Nat) :=
  match offerOverlap (c.f 0x14 4) 2 with
  | some n => some (2, n)
  | none => (offerOverlap (c.f 0x10 4) 1).map fun n => (1, n)

/-- A HELLO whose fields and offers are well formed, of a source without a session. -/
structure HelloFields (t : State) (c : Ctx) : Prop where
  offer1 : c.f 0x10 4 < 2 ^ 17
  offer2 : c.f 0x14 4 < 2 ^ 17
  reserved : c.zero 0x1C 0x20 = true
  fresh : sessionOf t c.m.src = none
  good1 : offerBad (c.f 0x10 4) = false
  good2 : offerBad (c.f 0x14 4) = false

/-- The function that a session's answer names. -/
def helloFn (src : Source) : Nat :=
  match src with
  | .fn f => f.val
  | _ => 0

theorem carryHello_of_fields (hc : Carried s 0x0000 0 32 m t c) (hf : HelloFields t c) :
    carryHello c t = match offersMeet c with
      | none => (t, some ⟨eVersion, offerWord 1, offerWord 2, 0, 0⟩)
      | some v => (openSession t c.m.src v,
          some ⟨eOk, v.2 + 256 * v.1, t.sys.version.toNat, formatsOf v.1 + 256 * 0x06, helloFn c.m.src⟩) := by
  obtain ⟨h1, h2, hz, hs, hb1, hb2⟩ := hf
  simp only [carryHello, checks_of_carried hc, hs, hb1, hb2, hz]
  simp only [h1, h2]
  rfl

theorem carryBye_of_carried (hc : Carried s 0x0001 0x100 16 m t c) :
    carryBye c t = (updHost (endSession t c.m.src) fun h => { h with byes := h.byes ++ [(c.tid, c.m.src)] }, none) := by
  simp only [carryBye, checks_of_carried hc]
  rfl

/-! ### TILL_CONFIG and TILL_RESET -/

/-- The fields of TILL_CONFIG that both a release and a configuration need, and what its source may name. -/
structure TillNames (t : State) (c : Ctx) (q : Part) : Prop where
  part : c.f 0x1C 1 ≤ 7
  zero1 : c.zero 0x1D 0x20 = true
  zero2 : c.zero 0x28 0x30 = true
  codes : tillCodesOk c = true
  getPart : getPart t (c.f 0x1C 1) = some q
  host : hostOf t c.m.src (c.f 0x1C 1) = true
  till : c.f 0x10 2 < q.tillCount

variable {q : Part}

theorem carryTillConfig_of_release (hc : Carried s 0x0002 0x100 48 m t c) (hn : TillNames t c q) (hrel : c.f 0x12 1 = 1)
    (hidle : ¬ ((getTill t (partTill (c.f 0x1C 1) (c.f 0x10 2))).kind = 4 ∧ tillServed t (c.f 0x1C 1) (c.f 0x10 2) = true)) :
    carryTillConfig c t = ({ t with host := { t.host with tills := Tbl.del t.host.tills (partTill (c.f 0x1C 1) (c.f 0x10 2)) } },
      some (Done.of eOk)) := by
  obtain ⟨hp, hz1, hz2, hcodes, hq, hhost, ht⟩ := hn
  have hserved : (!(decide ((getTill t (partTill (c.f 0x1C 1) (c.f 0x10 2))).kind = 4) && tillServed t (c.f 0x1C 1) (c.f 0x10 2))) = true := by
    simpa [imp_iff_not_or] using hidle
  simp only [carryTillConfig, hq, checks_of_carried hc, hserved]
  simp [firstFail, hrel, hp, hz1, hz2, hcodes, hhost, ht]

/-- The till that TILL_CONFIG makes (R428). -/
def tillMade (t : State) (c : Ctx) (base : Nat) : Till :=
  { Till.none with
    state := .running, depth := BitVec.ofNat 3 (c.f 0x14 1), kind := BitVec.ofNat 3 (c.f 0x13 1),
    doorbell := BitVec.ofNat 10 (c.f 0x16 2), base := BitVec.ofNat 18 base, vector := BitVec.ofNat 11 (c.f 0x18 2),
    mirror := bit (c.f 0x15 1) 0, mirrorAddr := BitVec.ofNat 64 (c.f 0x20 8), holder := c.m.src,
    defaultReply := if c.f 0x1A 2 = 0xFFFF then fnTill (srcFn c.m.src) 1 else partTill (c.f 0x1C 1) (c.f 0x1A 2),
    reserved := (getTill t (partTill (c.f 0x1C 1) (c.f 0x10 2))).reserved }

theorem carryTillConfig_of_free {base : Nat} (hc : Carried s 0x0002 0x100 48 m t c) (hn : TillNames t c q) (hrel : c.f 0x12 1 = 0)
    (hf : tillFieldsOk c = true) (hidle : (getTill t (partTill (c.f 0x1C 1) (c.f 0x10 2))).state ≠ .running)
    (hreply : c.f 0x13 1 = 0 → c.f 0x1A 2 = 0xFFFF ∨
      (c.f 0x1A 2 < q.tillCount ∧ (getTill t (partTill (c.f 0x1C 1) (c.f 0x1A 2))).kind = 1))
    (hbell : c.f 0x16 2 = 0x3FF ∨
      doorbellBound t (srcFn c.m.src) (c.f 0x16 2) (partTill (c.f 0x1C 1) (c.f 0x10 2)) = false)
    (hfree : freeSlots t (partTill (c.f 0x1C 1) (c.f 0x10 2)) (64 * 2 ^ c.f 0x14 1) = some base) :
    carryTillConfig c t = (updTill t (partTill (c.f 0x1C 1) (c.f 0x10 2)) fun _ => tillMade t c base, some ⟨eOk, base, 0, 0, 0⟩) := by
  obtain ⟨hp, hz1, hz2, hcodes, hq, hhost, ht⟩ := hn
  have hreply' : (decide (c.f 0x13 1 ≠ 0) || decide (c.f 0x1A 2 = 0xFFFF)
      || (decide (c.f 0x1A 2 < q.tillCount) && decide ((getTill t (partTill (c.f 0x1C 1) (c.f 0x1A 2))).kind = 1))) = true := by
    by_cases h0 : c.f 0x13 1 = 0
    · simpa [h0] using hreply h0
    · simp [h0]
  have hbell' : (decide (c.f 0x16 2 = 0x3FF) ||
      !doorbellBound t (srcFn c.m.src) (c.f 0x16 2) (partTill (c.f 0x1C 1) (c.f 0x10 2))) = true := by simpa using hbell
  have hrel' : ¬ c.f 0x12 1 = 1 := by omega
  simp only [carryTillConfig, hq, checks_of_carried hc, hfree, hbell', hrel', decide_false, Bool.false_or, hreply', hf, hhost, hcodes, hz1, hz2]
  simp [firstFail, hrel, hp, ht, hidle, tillMade]

theorem carryTillReset_of_target {n : Nat} (hc : Carried s 0x0003 0x100 24 m t c) (hcode : c.f 0x10 2 ≤ 8191 ∨ 0xFFFD ≤ c.f 0x10 2)
    (hz : c.zero 0x12 0x18 = true) (htarget : resetTarget t c.m.src (c.f 0x10 2) = some n)
    (hstopped : (getTill t n).state = .error ∨ (getTill t n).state = .stopped) :
    carryTillReset c t = (restartTill t n, some (Done.of eOk)) := by
  have hfields : ((decide (c.f 0x10 2 ≤ 8191) || decide (0xFFFD ≤ c.f 0x10 2)) && c.zero 0x12 0x18) = true := by simp [hz, hcode]
  simp only [carryTillReset, checks_of_carried hc, htarget, hfields]
  simp [firstFail, hstopped]

end

/-- Settles O33: each command's checks pass, and its answer and the till that it makes are read off. -/
theorem sessionsAndTills : Obligations.SessionsAndTills := by
  unfold Obligations.SessionsAndTills
  intro s m t c q
  refine ⟨fun v hc h1 h2 hz hs hb1 hb2 hv => ?meets, fun hc h1 h2 hz hs hb1 hb2 hv2 hv1 => ?apart, fun hc => ?bye,
    fun hc hp hz1 hz2 hcodes hq hhost ht => ⟨fun hrel hidle => ?release, fun base hrel hf hidle hreply hbell hfree => ?configure⟩,
    fun n hc hcode hz htarget hstopped => ?reset⟩
  all_goals obtain rfl := hc.msg
  case meets =>
    have hmeet : offersMeet c = some v := hv
    have hcarry := carryHello_of_fields hc ⟨h1, h2, hz, hs, hb1, hb2⟩
    rw [hmeet] at hcarry
    exact runCommand_of_done hc (by decide) (by decide) hcarry
  case apart =>
    have hmeet : offersMeet c = none := by rw [offersMeet, hv2, hv1]; rfl
    have hcarry := carryHello_of_fields hc ⟨h1, h2, hz, hs, hb1, hb2⟩
    rw [hmeet] at hcarry
    exact runCommand_of_done hc (by decide) (by decide) hcarry
  case bye => exact runCommand_of_waits hc (by decide) (by decide) (carryBye_of_carried hc)
  case release =>
    exact runCommand_of_done hc (by decide) (by decide) (carryTillConfig_of_release hc ⟨hp, hz1, hz2, hcodes, hq, hhost, ht⟩ hrel hidle)
  case configure =>
    refine ⟨_, runCommand_of_done hc (by decide) (by decide)
      (carryTillConfig_of_free hc ⟨hp, hz1, hz2, hcodes, hq, hhost, ht⟩ hrel hf hidle hreply hbell hfree), ?_⟩
    rw [getTill_updTill_self]
    exact ⟨rfl, rfl, rfl, rfl, rfl, rfl, rfl, rfl, rfl, rfl, fun k hk => getTill_updTill_other _ _ hk⟩
  case reset =>
    refine ⟨_, runCommand_of_done hc (by decide) (by decide) (carryTillReset_of_target hc hcode hz htarget hstopped), ?_⟩
    rw [restartTill, getTill_updTill_self]
    exact ⟨rfl, rfl, rfl, rfl, fun k hk => getTill_updTill_other _ _ hk⟩

/-! ### CAP_SET and CAP_QUERY -/

section
variable {s t : State} {m : Msg} {c : Ctx} {q : Part} {op len : Nat}

/-- The object of a cap command, the device or a partition, is one that its source may act on (R435). -/
def NamesCap (t : State) (c : Ctx) (obj : Option Nat) : Prop :=
  (c.f 0x10 1 = 0 ∧ isRoot c.m.src = true ∧ obj = none) ∨
    (c.f 0x10 1 = 1 ∧ c.f 0x11 1 ≤ 7 ∧ 0x203 ≤ c.ver ∧ (getPart t (c.f 0x11 1)).isSome = true ∧ hostOf t c.m.src (c.f 0x11 1) = true ∧
      obj = some (c.f 0x11 1))

theorem NamesCap.object {obj : Option Nat} (h : NamesCap t c obj) : (if c.f 0x10 1 = 0 then none else some (c.f 0x11 1)) = obj := by
  obtain ⟨hscope, -, rfl⟩ | ⟨hscope, -, -, -, -, rfl⟩ := h
  · rw [if_pos hscope]
  · rw [if_neg (by omega)]

/-- The shared checks pass: what the command adds decides. -/
theorem capChecks_of_names {obj : Option Nat} (hc : Carried s op 0x100 len m t c) (hn : NamesCap t c obj) (hz : c.zero 0x12 0x14 = true)
    {fields : Bool} (hf : fields = true) (rest : List (Bool × Nat)) : c.capChecks t fields rest = firstFail rest := by
  obtain ⟨hscope, hroot, -⟩ | ⟨hscope, hp, hver, hpart, hhost, -⟩ := hn
  · simp only [Ctx.capChecks, hscope, checks_of_carried hc, hz, hf, hroot]
    rfl
  · obtain ⟨q, hq⟩ := Option.isSome_iff_exists.mp hpart
    simp only [Ctx.capChecks, hscope, checks_of_carried hc, hz, hf, hq, hhost, hp, hver]
    rfl

/-- The orders of an object that a later one supersedes have completed with E_SUPERSEDED. -/
def capsSuperseded (t : State) (obj : Option Nat) : State :=
  (t.power.orders.filter fun o => o.part = obj).foldl (fun s o => completeWith s o.ticket eSuperseded) t

theorem carryCapSet_of_names {obj : Option Nat} (hc : Carried s 0x0600 0x100 24 m t c) (hn : NamesCap t c obj)
    (hz : c.zero 0x12 0x14 = true) (hmay : capAllowed t c.m.src = true)
    (hrange : (c.f 0x10 1 = 0 ∧ 200000 ≤ c.f 0x14 4 ∧ c.f 0x14 4 ≤ 520000) ∨
      (c.f 0x10 1 = 1 ∧ (c.f 0x14 4 = 0 ∨ (10000 ≤ c.f 0x14 4 ∧ c.f 0x14 4 ≤ t.power.capDevice.toNat)))) :
    carryCapSet c t = (updPower (capsSuperseded t obj) fun w =>
      { w with orders := w.orders.filter (fun o => o.part ≠ obj) ++ [{ ticket := c.tid, part := obj, mw := c.f 0x14 4 }] }, none) := by
  have hfield : (if c.f 0x10 1 = 0 then decide (200000 ≤ c.f 0x14 4 ∧ c.f 0x14 4 ≤ 520000)
      else decide (c.f 0x14 4 = 0) || decide (10000 ≤ c.f 0x14 4 ∧ c.f 0x14 4 ≤ t.power.capDevice.toNat)) = true := by
    obtain ⟨hscope, hmw⟩ | ⟨hscope, hmw⟩ := hrange
    · simp [hscope, hmw]
    · simpa [hscope] using hmw
  simp only [carryCapSet, capChecks_of_names hc hn hz hfield, hn.object, hmay]
  rfl

theorem carryCapQuery_of_names {obj : Option Nat} (hc : Carried s 0x0601 0x100 24 m t c) (hn : NamesCap t c obj)
    (hz : c.zero 0x12 0x14 = true) (hz2 : c.zero 0x14 0x18 = true) :
    carryCapQuery c t = (t, some (if c.f 0x10 1 = 0 then ⟨eOk, t.power.capDevice.toNat, t.power.power1ms.toNat,
        b2n t.power.capBinding + 2 * b2n t.power.thermal + 4 * b2n (t.power.prochotOut || t.power.prochotIn), deviceClock t⟩
      else ⟨eOk, (getPartPower t (c.f 0x11 1)).cap, t.power.power1ms.toNat,
        b2n t.power.capBinding + 2 * b2n t.power.thermal + 4 * b2n (t.power.prochotOut || t.power.prochotIn),
        (getPartPower t (c.f 0x11 1)).effective.toNat⟩)) := by
  simp only [carryCapQuery, capChecks_of_names hc hn hz hz2]
  rfl

end

/-- Settles O34: the object is named, so the checks pass; the cap waits, and the query answers. -/
theorem capsAreOrderedAndAsked : Obligations.CapsAreOrderedAndAsked := by
  unfold Obligations.CapsAreOrderedAndAsked
  intro s m t c q
  refine ⟨fun obj hc hz hmay hobj => ?set, fun hc hz hz2 => ⟨fun hdevice => ?device, fun hpart => ?part⟩⟩
  all_goals obtain rfl := hc.msg
  case set =>
    have hnames : NamesCap t c obj := by
      obtain ⟨⟨hscope, hroot⟩, -, -, rfl⟩ | ⟨⟨hscope, hp, hver, hq, hhost⟩, -, rfl⟩ := hobj
      · exact .inl ⟨hscope, hroot, rfl⟩
      · exact .inr ⟨hscope, hp, hver, by rw [hq]; rfl, hhost, rfl⟩
    have hrange : (c.f 0x10 1 = 0 ∧ 200000 ≤ c.f 0x14 4 ∧ c.f 0x14 4 ≤ 520000) ∨
        (c.f 0x10 1 = 1 ∧ (c.f 0x14 4 = 0 ∨ (10000 ≤ c.f 0x14 4 ∧ c.f 0x14 4 ≤ t.power.capDevice.toNat))) := by
      obtain ⟨⟨hscope, -⟩, hlo, hhi, -⟩ | ⟨⟨hscope, -⟩, hmw, -⟩ := hobj
      · exact .inl ⟨hscope, hlo, hhi⟩
      · exact .inr ⟨hscope, hmw⟩
    exact runCommand_of_waits hc (by decide) (by decide) (carryCapSet_of_names hc hnames hz hmay hrange)
  case device =>
    obtain ⟨hscope, hroot⟩ := hdevice
    have hcarry := carryCapQuery_of_names hc (.inl ⟨hscope, hroot, rfl⟩) hz hz2
    rw [if_pos hscope] at hcarry
    exact runCommand_of_done hc (by decide) (by decide) hcarry
  case part =>
    obtain ⟨hscope, hp, hver, hq, hhost⟩ := hpart
    have hcarry := carryCapQuery_of_names hc (.inr ⟨hscope, hp, hver, by rw [hq]; rfl, hhost, rfl⟩) hz hz2
    rw [if_neg (by omega)] at hcarry
    exact runCommand_of_done hc (by decide) (by decide) hcarry

end Sys2Proof.Machine
end

section
/-! Doorbells, and what a vector, an error and an entry leave of the state (15 R395-R408). -/

namespace Sys2Proof.Machine
set_option Elab.async false -- one proof at a time, for the memory of the check

/-! ### What a vector, a cause and an error change: the registers of their function, and what was sent -/

/-- Of the state only the registers of function f differ, and the record of what was sent. -/
structure FnOnly (f : Nat) (s t : State) : Prop where
  frame : ∃ fns sent, t = { s with host := { s.host with fns := fns }, sent := sent }
  others : ∀ g, g ≠ f → getFn t g = getFn s g

namespace FnOnly
variable {f : Nat} {s t u : State}

theorem refl (f : Nat) (s : State) : FnOnly f s s := ⟨⟨_, _, rfl⟩, fun _ _ => rfl⟩

theorem trans (h : FnOnly f s t) (k : FnOnly f t u) : FnOnly f s u := by
  obtain ⟨⟨_, _, rfl⟩, h2⟩ := h
  obtain ⟨⟨_, _, rfl⟩, k2⟩ := k
  exact ⟨⟨_, _, rfl⟩, fun g hg => (k2 g hg).trans (h2 g hg)⟩

theorem updFn (s : State) (f : Nat) (g : Fn → Fn) : FnOnly f s (updFn s f g) := ⟨⟨_, _, rfl⟩, fun _ hk => getFn_updFn_other _ _ hk⟩

theorem work (h : FnOnly f s t) : t.work = s.work := by obtain ⟨⟨_, _, rfl⟩, _⟩ := h; rfl
theorem sys (h : FnOnly f s t) : t.sys = s.sys := by obtain ⟨⟨_, _, rfl⟩, _⟩ := h; rfl
theorem chip (h : FnOnly f s t) : t.host.chip = s.host.chip := by obtain ⟨⟨_, _, rfl⟩, _⟩ := h; rfl
theorem tills (h : FnOnly f s t) : t.host.tills = s.host.tills := by obtain ⟨⟨_, _, rfl⟩, _⟩ := h; rfl
theorem tillMem (h : FnOnly f s t) : t.host.tillMem = s.host.tillMem := by obtain ⟨⟨_, _, rfl⟩, _⟩ := h; rfl
theorem getTill (h : FnOnly f s t) (n : Nat) : getTill t n = getTill s n := by rw [Machine.getTill, h.tills]; rfl

end FnOnly

theorem sendVector_fnOnly (s : State) (f v : Nat) : FnOnly f s (sendVector s f v) := by
  have hemit : FnOnly f s (emit s (.msix f v)) := ⟨⟨_, _, rfl⟩, fun _ _ => rfl⟩
  unfold sendVector
  dsimp only
  split
  · exact .refl f s
  split
  · exact .updFn s f _
  split
  · exact .updFn s f _
  split
  · exact hemit
  · exact hemit.trans (.updFn _ f _)

/-- A vector moves among the lists of waiting vectors of its function. -/
theorem sendVector_fn (s : State) (f v : Nat) :
    ∃ p h c, getFn (sendVector s f v) f = { getFn s f with msixPending := p, heldVectors := h, cooling := c } := by
  unfold sendVector
  dsimp only
  split
  · exact ⟨_, _, _, rfl⟩
  split
  · exact ⟨_, _, _, getFn_updFn_self ..⟩
  split
  · exact ⟨_, _, _, getFn_updFn_self ..⟩
  split
  · exact ⟨_, _, _, rfl⟩
  · exact ⟨_, _, _, getFn_updFn_self ..⟩

theorem setIrq_fnOnly (s : State) (f : Nat) (cause mask : BitVec 4) : FnOnly f s (setIrq s f cause mask) := by
  unfold setIrq
  dsimp only
  split
  · exact (FnOnly.updFn s f _).trans (sendVector_fnOnly _ f 0)
  · exact .updFn s f _

/-- The registers of the function after its cause and mask are set. -/
theorem setIrq_fn (s : State) (f : Nat) (cause mask : BitVec 4) :
    ∃ p h c, getFn (setIrq s f cause mask) f =
      { getFn s f with irqCause := cause, irqMask := mask, msixPending := p, heldVectors := h, cooling := c } := by
  unfold setIrq
  dsimp only
  split
  · obtain ⟨p, h, c, hfn⟩ := sendVector_fn (updFn s f fun k => { k with irqCause := cause, irqMask := mask }) f 0
    exact ⟨p, h, c, by rw [hfn, getFn_updFn_self]⟩
  · exact ⟨_, _, _, getFn_updFn_self ..⟩

theorem raiseCause_fnOnly (s : State) (f c : Nat) : FnOnly f s (raiseCause s f c) := setIrq_fnOnly ..

theorem setError_fnOnly (s : State) (f b window offset : Nat) : FnOnly f s (setError s f b window offset) := by
  unfold setError
  dsimp only
  split
  · exact .refl f s
  · exact (FnOnly.updFn s f _).trans (raiseCause_fnOnly _ f 0)

theorem raiseCause_error (s : State) (f c : Nat) : (getFn (raiseCause s f c) f).error = (getFn s f).error := by
  obtain ⟨_, _, _, hfn⟩ := setIrq_fn s f ((getFn s f).irqCause ||| BitVec.ofNat 4 (2 ^ c)) (getFn s f).irqMask
  rw [raiseCause, hfn]

/-- The bit that an error sets. -/
theorem setError_bit (s : State) (f window offset : Nat) {b : Nat} (hb : b < 8) :
    (getFn (setError s f b window offset) f).error.getLsbD b = true := by
  have hbit : (BitVec.ofNat 8 (2 ^ b)).getLsbD b = true := by
    rw [BitVec.getLsbD_ofNat, Nat.testBit_two_pow_self, decide_eq_true hb]; rfl
  unfold setError
  dsimp only
  split
  next h => exact h
  next =>
    rw [raiseCause_error, getFn_updFn_self]
    split <;> rw [BitVec.getLsbD_or, hbit, Bool.or_true]

/-! ### What the writing of an entry leaves: every other till -/

/-- Every till but n is as it was. -/
def OtherTills (n : Nat) (s t : State) : Prop := ∀ k, k ≠ n → getTill t k = getTill s k

namespace OtherTills
variable {n f : Nat} {s t u : State}

theorem refl (n : Nat) (s : State) : OtherTills n s s := fun _ _ => rfl
theorem trans (h : OtherTills n s t) (k : OtherTills n t u) : OtherTills n s u := fun m hm => (k m hm).trans (h m hm)
theorem updTill (s : State) (n : Nat) (g : Till → Till) : OtherTills n s (updTill s n g) := fun _ h => getTill_updTill_other _ _ h
theorem of_fnOnly (h : FnOnly f s t) : OtherTills n s t := fun k _ => h.getTill k

end OtherTills

theorem writeSlot_otherTills (s : State) (n : Nat) (bytes : List Byte) : OtherTills n s (writeSlot s n bytes) := by
  intro k hk
  unfold writeSlot
  dsimp only
  split <;> simp [getTill, updTill, hk]

theorem writeSlots_otherTills (s : State) (n k : Nat) (bytes : List Byte) : OtherTills n s (writeSlots s n k bytes) := by
  induction k generalizing s bytes with
  | zero => exact .refl n s
  | succ k ih => exact (writeSlot_otherTills s n _).trans (ih _ _)

theorem armVector_otherTills (s : State) (n : Nat) : OtherTills n s (armVector s n) := by
  unfold armVector
  dsimp only
  split
  · exact (OtherTills.updTill s n _).trans (.of_fnOnly (sendVector_fnOnly ..))
  · exact .refl n s

theorem tillError_otherTills (s : State) (n reason : Nat) : OtherTills n s (tillError s n reason) :=
  (OtherTills.updTill s n _).trans (.of_fnOnly (raiseCause_fnOnly ..))

/-- The till that stops. -/
theorem getTill_tillError (s : State) (n reason : Nat) :
    getTill (tillError s n reason) n = { getTill s n with state := .error, reason := BitVec.ofNat 8 reason } := by
  unfold tillError
  dsimp only
  rw [(raiseCause_fnOnly ..).getTill, getTill_updTill_self]

theorem writeEntry_otherTills (s : State) (n : Nat) (bytes : List Byte) (reserved : Bool) :
    OtherTills n s (writeEntry s n bytes reserved) := by
  unfold writeEntry
  dsimp only
  generalize (if reserved = true then 0 else (getTill s n).reserved) = kept
  split
  · exact (tillError_otherTills s n 4).trans (.updTill _ n _)
  split
  · exact .updTill s n _
  · exact (writeSlots_otherTills s n _ _).trans (armVector_otherTills _ n)

theorem writeMessage_otherTills (s : State) (n opcode tag : Nat) (body : List Byte) (reserved : Bool) :
    OtherTills n s (writeMessage s n opcode tag body reserved) := by
  have hsent : ∀ bytes, OtherTills n s (writeEntry (updTill s n fun t => { t with seq := t.seq + 1 }) n bytes reserved) :=
    fun bytes => (OtherTills.updTill s n _).trans (writeEntry_otherTills _ n _ _)
  unfold writeMessage
  dsimp only
  split
  · exact (hsent _).trans (.updTill _ n _)
  · exact hsent _

/-- A till that fails stops; the event of it goes to another till. -/
theorem getTill_tillFails (s : State) (n reason : Nat) :
    getTill (tillFails s n reason) n = { getTill s n with state := .error, reason := BitVec.ofNat 8 reason } := by
  unfold tillFails
  dsimp only
  split
  · exact getTill_tillError s n reason
  next hev => exact (writeMessage_otherTills _ _ _ _ _ _ n (Ne.symm hev)).trans (getTill_tillError s n reason)

/-! ### Doorbells -/

section Doorbell
variable {s : State} {f : Fin 32} {d n : Nat} {v : BitVec 64}

theorem exec_producerDoorbell (hs : served s f.val = true) (hd : d < 512) :
    exec (.producerDoorbell f d v) s = .next (ringDoorbell s f.val d v) := by
  change execProducerDoorbell f d v s = _
  rw [execProducerDoorbell, if_pos ⟨hs, hd⟩]

theorem exec_consumerDoorbell (hs : served s f.val = true) (hd : d < 512) :
    exec (.consumerDoorbell f d v) s = .next (ringDoorbell s f.val d v) := by
  change execConsumerDoorbell f d v s = _
  rw [execConsumerDoorbell, if_pos ⟨hs, hd⟩]

theorem ringDoorbell_of_off (h : (getFn s f.val).dbEnable = false) :
    ringDoorbell s f.val d v = setError s f.val errDoorbell 0 (0x1000 + 8 * d) := by
  simp [ringDoorbell, h]

theorem ringDoorbell_of_unbound (h : boundTill s f.val d = none) :
    ringDoorbell s f.val d v = setError s f.val errDoorbell 0 (0x1000 + 8 * d) := by
  simp [ringDoorbell, h]

/-- A doorbell of a till that does not run, or of one that only the device moves. -/
theorem ringDoorbell_of_closed (hb : boundTill s f.val d = some n) (h : (getTill s n).state ≠ .running ∨ (getTill s n).kind = 4) :
    ringDoorbell s f.val d v = setError s f.val errDoorbell 0 (0x1000 + 8 * d) := by
  unfold ringDoorbell
  rw [hb]
  dsimp only
  split
  · rfl
  split
  · rfl
  next hrun =>
    have hk : (getTill s n).kind = 4 := h.resolve_left hrun
    rw [hk]
    rfl

variable (hon : (getFn s f.val).dbEnable = true) (hb : boundTill s f.val d = some n) (hrun : (getTill s n).state = .running)
include hon hb hrun

theorem ringDoorbell_producer (hk : (getTill s n).kind = 0) :
    ringDoorbell s f.val d v = ringProducer s n (v.setWidth 16) := by
  simp [ringDoorbell, hon, hb, hrun, hk]

theorem ringDoorbell_consumer (hk : (getTill s n).kind = 1 ∨ (getTill s n).kind = 2 ∨ (getTill s n).kind = 3) :
    ringDoorbell s f.val d v = ringConsumer s n (v.setWidth 16) (v.getLsbD 16) := by
  rcases hk with hk | hk | hk <;> simp [ringDoorbell, hon, hb, hrun, hk]

end Doorbell

/-- An index of the consumer that is not beyond PROD. -/
theorem ringConsumer_of_within {s : State} {n : Nat} {index : BitVec 16} {arm : Bool}
    (h : (index - (getTill s n).cons).toNat ≤ (getTill s n).used) :
    ∃ t, ringConsumer s n index arm = t ∧
      getTill t n = { getTill s n with cons := index, armed := if arm ∧ (getTill s n).prod ≠ index then false else (getTill s n).armed || arm } ∧
      (∀ k, k ≠ n → getTill t k = getTill s k) ∧ t.work = s.work ∧ t.host.tillMem = s.host.tillMem := by
  unfold ringConsumer
  dsimp only
  rw [if_neg (Nat.not_lt.mpr h)]
  split
  next hentry =>
    have hfn := sendVector_fnOnly (updTill (updTill s n fun t => { t with cons := index, armed := t.armed || arm }) n
      fun t => { t with armed := false }) (getTill s n).fn (getTill s n).vector.toNat
    refine ⟨_, rfl, ?_, fun k hk => ?_, hfn.work, hfn.tillMem⟩
    · rw [hfn.getTill, getTill_updTill_self, getTill_updTill_self]
    · rw [hfn.getTill, getTill_updTill_other _ _ hk, getTill_updTill_other _ _ hk]
  next => exact ⟨_, rfl, getTill_updTill_self .., fun k hk => getTill_updTill_other _ _ hk, rfl, rfl⟩

/-- Settles O35, by the state of the doorbell's till and its KIND. -/
theorem doorbellsMoveTills : Obligations.DoorbellsMoveTills := by
  unfold Obligations.DoorbellsMoveTills
  intro s f d n v hs hd
  simp only [exec_producerDoorbell hs hd, exec_consumerDoorbell hs hd]
  refine ⟨fun on => ?enable, fun hrefused => ?refused, fun hon hb hrun => ⟨fun hk => ?producer, fun hk => ?consumer⟩⟩
  case enable =>
    change execDbEnable f on s = _
    rw [execDbEnable, fnWrite, if_pos hs, writeDbEnable]
  case refused =>
    have hring : ringDoorbell s f.val d v = setError s f.val errDoorbell 0 (0x1000 + 8 * d) := by
      rcases hrefused with hoff | hnone | ⟨hb, hclosed⟩
      · exact ringDoorbell_of_off hoff
      · exact ringDoorbell_of_unbound hnone
      · exact ringDoorbell_of_closed hb hclosed
    rw [hring]
    exact ⟨rfl, rfl⟩
  case producer =>
    rw [ringDoorbell_producer hon hb hrun hk]
    refine ⟨fun heq => ?_, fun hne hfit => ?_, fun hne hover => ?_⟩
    · rw [ringProducer, if_pos heq]
    · rw [ringProducer, if_neg hne, if_pos hfit]
    · rw [ringProducer, if_neg hne, if_neg (Nat.not_le.mpr hover)]
      refine ⟨_, rfl, ?_⟩
      rw [getTill_tillFails]
      exact ⟨rfl, rfl, rfl, rfl⟩
  case consumer =>
    rw [ringDoorbell_consumer hon hb hrun hk]
    refine ⟨fun hin => ?_, fun hover => ?_⟩
    · obtain ⟨t, rfl, ht⟩ := ringConsumer_of_within (arm := v.getLsbD 16) hin
      exact ⟨_, rfl, ht⟩
    · rw [ringConsumer, if_pos hover]
      refine ⟨_, rfl, ?_⟩
      rw [getTill_tillFails]
      exact ⟨rfl, rfl, rfl⟩

end Sys2Proof.Machine
end

section
/-! The registers of a function: errors, causes, vectors, the ledger latch, the selected tally and the chip lock (15 R391-R408). -/

namespace Sys2Proof.Machine
set_option Elab.async false -- one proof at a time, for the memory of the check

theorem FnOnly.foldl {α : Type} {f : Nat} {g : State → α → State} (l : List α) (s : State) (hg : ∀ t a, FnOnly f t (g t a)) :
    FnOnly f s (l.foldl g s) :=
  List.foldlRecOn l g (motive := FnOnly f s) (.refl f s) fun _ h a _ => h.trans (hg _ a)

/-! ### Vectors: what is sent and what waits -/

/-- The vectors that no mask and no HOLDOFF keeps are sent. -/
theorem sendVector_sent_of_open {s : State} {f v : Nat} (he : (getFn s f).msixEnable = true) (hm : vectorMasked (getFn s f) v = false)
    (hc : v ∉ (getFn s f).cooling) :
    (sendVector s f v).sent = s.sent ++ [.msix f v] := by
  rw [sendVector, if_neg (not_not_intro he), if_neg (show ¬ vectorMasked (getFn s f) v = true by simp [hm]), if_neg hc]
  dsimp only
  split <;> rfl

/-- A vector that is sent leaves the lists of the masked and the held as they are. -/
theorem sendVector_waits_of_open {s : State} {f v : Nat} (hm : vectorMasked (getFn s f) v = false) (hc : v ∉ (getFn s f).cooling) :
    (getFn (sendVector s f v) f).heldVectors = (getFn s f).heldVectors := by
  unfold sendVector
  dsimp only
  split
  · rfl
  rw [if_neg (show ¬ vectorMasked (getFn s f) v = true by simp [hm])]
  split
  · rfl
  · rw [getFn_updFn_self]; rfl

/-- A masked vector becomes pending, and nothing is sent. -/
theorem sendVector_of_masked {s : State} {f v : Nat} (he : (getFn s f).msixEnable = true) (hm : vectorMasked (getFn s f) v = true) :
    sendVector s f v = updFn s f fun k => { k with msixPending := if v ∈ k.msixPending then k.msixPending else v :: k.msixPending } := by
  simp [sendVector, he, hm]

/-- No vector that the masks let through becomes pending. -/
theorem sendVector_pending_of_unmasked {s : State} {f v : Nat} (hm : vectorMasked (getFn s f) v = false) :
    (getFn (sendVector s f v) f).msixPending = (getFn s f).msixPending := by
  unfold sendVector
  dsimp only
  split
  · rfl
  rw [if_neg (show ¬ vectorMasked (getFn s f) v = true by simp [hm])]
  split
  · rw [getFn_updFn_self]
  split
  · rfl
  · rw [getFn_updFn_self]; rfl

/-- The masks of a function's vectors. -/
def Fn.masks (k : Fn) : Bool × Bool × Mem := (k.msixEnable, k.msixMask, k.msixTable)

theorem vectorMasked_of_masks {k l : Fn} (h : k.masks = l.masks) (v : Nat) : vectorMasked k v = vectorMasked l v := by
  obtain ⟨_, hm, ht⟩ : k.msixEnable = l.msixEnable ∧ k.msixMask = l.msixMask ∧ k.msixTable = l.msixTable := by
    simpa [Fn.masks] using h
  simp [vectorMasked, msixRead, hm, ht]

theorem sendVector_masks (s : State) (f v : Nat) : (getFn (sendVector s f v) f).masks = (getFn s f).masks := by
  obtain ⟨_, _, _, h⟩ := sendVector_fn s f v
  rw [h]; rfl

/-- A pending vector that is sent at last. -/
def sendAgain (f : Nat) (s : State) (v : Nat) : State :=
  sendVector (updFn s f fun k => { k with msixPending := k.msixPending.filter (· ≠ v) }) f v

theorem sendPending_eq (s : State) (f : Nat) :
    sendPending s f =
      ((getFn s f).msixPending.filter fun v => (getFn s f).msixEnable && !vectorMasked (getFn s f) v).foldl (sendAgain f) s := rfl

theorem sendAgain_fnOnly (f : Nat) (s : State) (v : Nat) : FnOnly f s (sendAgain f s v) :=
  (FnOnly.updFn s f _).trans (sendVector_fnOnly _ f v)

theorem sendAgain_masks (f : Nat) (s : State) (v : Nat) : (getFn (sendAgain f s v) f).masks = (getFn s f).masks := by
  rw [sendAgain, sendVector_masks, getFn_updFn_self]; rfl

theorem sendAgain_pending {f : Nat} {s : State} {v : Nat} (h : vectorMasked (getFn s f) v = false) :
    (getFn (sendAgain f s v) f).msixPending = (getFn s f).msixPending.filter (· ≠ v) := by
  rw [sendAgain, sendVector_pending_of_unmasked (by rw [getFn_updFn_self]; exact h), getFn_updFn_self]

theorem sendPending_fnOnly (s : State) (f : Nat) : FnOnly f s (sendPending s f) := by
  rw [sendPending_eq]
  exact .foldl _ s (sendAgain_fnOnly f)

theorem sendPending_masks (s : State) (f : Nat) : (getFn (sendPending s f) f).masks = (getFn s f).masks := by
  rw [sendPending_eq]
  exact List.foldlRecOn _ (sendAgain f) (motive := fun t => (getFn t f).masks = (getFn s f).masks) rfl
    fun t h v _ => (sendAgain_masks f t v).trans h

/-- Sending vectors that no mask holds takes them from the pending ones. -/
theorem foldl_sendAgain_pending {f : Nat} (l : List Nat) (s : State) (hl : ∀ v ∈ l, vectorMasked (getFn s f) v = false) :
    (getFn (l.foldl (sendAgain f) s) f).msixPending = (getFn s f).msixPending.filter (· ∉ l) := by
  induction l generalizing s with
  | nil => simp
  | cons v l ih =>
    have hv := hl v List.mem_cons_self
    have hrest : ∀ w ∈ l, vectorMasked (getFn (sendAgain f s v) f) w = false := fun w hw =>
      (vectorMasked_of_masks (sendAgain_masks f s v) w).trans (hl w (List.mem_cons_of_mem _ hw))
    rw [List.foldl_cons, ih _ hrest, sendAgain_pending hv, List.filter_filter]
    congr 1
    funext w
    simp [Bool.and_comm]

/-- What stays pending is masked. -/
theorem sendPending_masked {s : State} {f : Nat} (he : (getFn s f).msixEnable = true) :
    ∀ w ∈ (getFn (sendPending s f) f).msixPending, vectorMasked (getFn (sendPending s f) f) w = true := by
  intro w hw
  rw [vectorMasked_of_masks (sendPending_masks s f)]
  rw [sendPending_eq, foldl_sendAgain_pending _ s (by simp), List.mem_filter] at hw
  obtain ⟨hpending, hkept⟩ := hw
  by_contra hopen
  simp [hpending, he, hopen] at hkept

/-- The mask bit of a vector after it has been written 0. -/
theorem msixRead_msixWrite (k : Fn) (a : Nat) (b : Byte) : msixRead { k with msixTable := msixWrite k.msixTable a [b] } a = b := by
  simp only [msixRead, msixWrite, Mem.read_write_self]
  rw [BitVec.xor_assoc, BitVec.xor_self, BitVec.xor_zero]

/-- A function's registers with the mask bit of vector u cleared. -/
def Fn.unmask (k : Fn) (u : Nat) : Fn :=
  { k with msixTable := msixWrite k.msixTable (16 * u + 12) [msixRead k (16 * u + 12) &&& 0xFE] }

theorem vectorMasked_unmask (k : Fn) (u : Nat) : vectorMasked (k.unmask u) u = k.msixMask := by
  have hbit : bit (msixRead k (16 * u + 12) &&& 0xFE).toNat 0 = false := by
    simp [bit, BitVec.toNat_and]
  rw [vectorMasked, Fn.unmask, msixRead_msixWrite, hbit, Bool.or_false]

/-! ### The commands of the function registers -/

section Registers
variable {s : State} {f : Fin 32} (hs : served s f.val = true)
include hs

theorem fnWrite_of_served (act : State → State) : fnWrite s f.val act = act s := if_pos hs

theorem exec_fnErrorClear (v : BitVec 32) : exec (.fnErrorClear f v) s = .next (writeFnError f.val v.toNat s) :=
  congrArg Host.Outcome.next (fnWrite_of_served hs _)

theorem exec_irqCauseClear (v : BitVec 32) : exec (.irqCauseClear f v) s = .next (writeIrqCause f.val v.toNat s) :=
  congrArg Host.Outcome.next (fnWrite_of_served hs _)

theorem exec_irqMaskWrite (v : BitVec 32) : exec (.irqMaskWrite f v) s = .next (writeIrqMask f.val v.toNat s) :=
  congrArg Host.Outcome.next (fnWrite_of_served hs _)

theorem exec_quiesce (on : Bool) : exec (.quiesce f on) s = .next (writeQuiesce f.val on s) :=
  congrArg Host.Outcome.next (fnWrite_of_served hs _)

theorem exec_ledgerLatch (v : BitVec 32) : exec (.ledgerLatch f v) s = .next (writeLedgerLatch f.val v.toNat s) :=
  congrArg Host.Outcome.next (fnWrite_of_served hs _)

theorem exec_tallySelect (v : BitVec 32) : exec (.tallySelect f v) s = .next (writeTallySelect f.val v.toNat s) :=
  congrArg Host.Outcome.next (fnWrite_of_served hs _)

theorem exec_chipLock (v : BitVec 32) : exec (.chipLock f v) s = .next (areaWrite f.val 0x8100 (writeChipLock v.toNat) s) :=
  congrArg Host.Outcome.next (fnWrite_of_served hs _)

theorem exec_msixUnmask (u : Nat) : exec (.msixUnmask f (some u)) s = .next (sendPending (updFn s f.val fun k => k.unmask u) f.val) := by
  simp only [served, Bool.and_eq_true, Bool.not_eq_true'] at hs
  obtain ⟨⟨⟨-, hpresent⟩, hfree⟩, -⟩ := hs
  change execMsixUnmask f (some u) s = _
  rw [execMsixUnmask, if_neg (by simp [hpresent, hfree])]
  rfl

end Registers

/-- A write of IRQ_CAUSE takes causes away, so none appears that would send vector 0. -/
theorem writeIrqCause_eq (s : State) (f v : Nat) :
    writeIrqCause f v s = updFn s f fun k =>
      { k with irqCause := (getFn s f).irqCause &&& ~~~(BitVec.ofNat 4 v), irqMask := (getFn s f).irqMask } := by
  have hquiet : ∀ c m x : BitVec 4, ¬ (c &&& ~~~m = 0 ∧ (c &&& ~~~x) &&& ~~~m ≠ 0) := by decide
  unfold writeIrqCause setIrq
  exact if_neg (hquiet _ _ _)

theorem writeIrqMask_sent {s : State} {f v : Nat} (hwas : (getFn s f).irqCause &&& ~~~(getFn s f).irqMask = 0)
    (hnow : (getFn s f).irqCause &&& ~~~(BitVec.ofNat 4 v) ≠ 0) (he : (getFn s f).msixEnable = true)
    (hm : vectorMasked (getFn s f) 0 = false) (hc : 0 ∉ (getFn s f).cooling) :
    (writeIrqMask f v s).sent = s.sent ++ [.msix f 0] := by
  unfold writeIrqMask setIrq
  dsimp only
  rw [if_pos ⟨hwas, hnow⟩, sendVector_sent_of_open]
  · rfl
  · rw [getFn_updFn_self]; exact he
  · rw [getFn_updFn_self]; exact hm
  · rw [getFn_updFn_self]; exact hc

theorem bit_toNat {w : Nat} (v : BitVec w) (i : Nat) : bit v.toNat i = v.getLsbD i := rfl

/-- The record of a tally within the allotment of the function's partition. -/
theorem writeTallySelect_of_within {s : State} {f v p : Nat} {q : Part} (hb : boundTo s f = some p) (hq : getPart s p = some q)
    (hin : v % 8192 < q.tallyCount) :
    writeTallySelect f v s = updFn (updFn s f fun k => { k with tallySelect := BitVec.ofNat 13 (v % 8192) }) f fun k =>
      { k with tallyRecord := tallyRecordOf s p (v % 8192), tallyValid := true, tallyOutOfRange := false } := by
  have hb' : boundTo (updFn s f fun k => { k with tallySelect := BitVec.ofNat 13 (v % 8192) }) f = some p := hb
  have hq' : getPart (updFn s f fun k => { k with tallySelect := BitVec.ofNat 13 (v % 8192) }) p = some q := hq
  unfold writeTallySelect
  dsimp only
  rw [hb', Option.filter_some, hq', if_pos (by simpa using hin)]
  rfl

/-- No record beyond the allotment, nor for a function that is bound to no partition. -/
theorem writeTallySelect_of_beyond {s : State} {f v : Nat}
    (hout : ∀ p q, boundTo s f = some p → getPart s p = some q → q.tallyCount ≤ v % 8192) :
    writeTallySelect f v s = updFn (updFn s f fun k => { k with tallySelect := BitVec.ofNat 13 (v % 8192) }) f fun k =>
      { k with tallyRecord := [], tallyValid := false, tallyOutOfRange := true } := by
  unfold writeTallySelect
  dsimp only
  split
  next p hp =>
    obtain ⟨hb, hin⟩ := Option.filter_eq_some_iff.mp hp
    cases hq : getPart s p with
    | none =>
      have hq' : getPart (updFn s f fun k => { k with tallySelect := BitVec.ofNat 13 (v % 8192) }) p = none := hq
      rw [hq'] at hin
      simp at hin
    | some q =>
      have hq' : getPart (updFn s f fun k => { k with tallySelect := BitVec.ofNat 13 (v % 8192) }) p = some q := hq
      rw [hq'] at hin
      exact absurd (of_decide_eq_true hin) (Nat.not_lt.mpr (hout p q hb hq))
  next => rfl

/-- A write that a lock refuses keeps the lock and is counted. -/
theorem lockedWrite_lock (s : State) (f offset : Nat) :
    (lockedWrite s f offset).host.chip = { s.host.chip with
      lockLogOffset := BitVec.ofNat 14 (offset / 4), lockLogFn := BitVec.ofNat 5 f, lockLogValid := true,
      lockCount := satInc s.host.chip.lockCount 1 } := by
  rw [lockedWrite, ← (setError_fnOnly s f errLocked 0 offset).chip]
  rfl

/-- What is left of a vector's HOLDOFF once it has passed. -/
def Fn.cooled (k : Fn) (u : Nat) : Fn := { k with cooling := k.cooling.filter (· ≠ u), heldVectors := k.heldVectors.filter (· ≠ u) }

theorem exec_irqHoldoffExpiry (s : State) (f : Fin 32) (u : Nat) :
    exec (.irqHoldoffExpiry f u) s = .next (if u ∈ (getFn s f.val).heldVectors
      then sendVector (updFn s f.val fun k => k.cooled u) f.val u else updFn s f.val fun k => k.cooled u) := rfl

/-- Settles O36, register by register. -/
theorem functionRegistersKeepTheirAccess : Obligations.FunctionRegistersKeepTheirAccess := by
  unfold Obligations.FunctionRegistersKeepTheirAccess
  intro s f v hs
  simp only [exec_fnErrorClear hs, exec_irqCauseClear hs, exec_irqMaskWrite hs, exec_quiesce hs, exec_ledgerLatch hs, exec_tallySelect hs,
    exec_chipLock hs]
  refine ⟨?error, ?cause, ?mask, fun on => rfl, fun p hb hv => ?ledger, fun hv => ?noLatch, fun hb hv => ?unbound,
    fun p q hb hq hin => ?tally, fun hout => ?beyond, fun hf => ?range, fun hf => ⟨fun hw => ?lock, fun hw => ?locked⟩,
    fun u => ⟨fun hheld => ?quiet, fun hheld he hm => ?late, fun hheld he hm => ?masked, ?unmask⟩⟩
  case error =>
    refine ⟨_, rfl, ?_⟩
    rw [writeFnError, getFn_updFn_self]
    exact ⟨by rw [← BitVec.ofNat_toNat], rfl, rfl, rfl, fun g hg => getFn_updFn_other _ _ hg, rfl, rfl⟩
  case cause =>
    refine ⟨_, rfl, ?_⟩
    rw [writeIrqCause_eq, getFn_updFn_self]
    exact ⟨by rw [← BitVec.ofNat_toNat], rfl, rfl, fun g hg => getFn_updFn_other _ _ hg, rfl⟩
  case mask =>
    obtain ⟨_, _, _, hfn⟩ := setIrq_fn s f.val (getFn s f.val).irqCause (BitVec.ofNat 4 v.toNat)
    refine ⟨_, rfl, ?_, ?_, fun hwas hnow he hm hc => ?_, (setIrq_fnOnly ..).work⟩
    · rw [writeIrqMask, hfn]; exact BitVec.ofNat_toNat ..
    · rw [writeIrqMask, hfn]
    · exact writeIrqMask_sent hwas (by rw [BitVec.ofNat_toNat]; exact hnow) he hm hc
  case ledger => rw [writeLedgerLatch, bit_toNat, hv, if_neg (by simp), hb]
  case noLatch => rw [writeLedgerLatch, bit_toNat, hv, if_pos (by simp)]
  case unbound => rw [writeLedgerLatch, bit_toNat, hv, if_neg (by simp), hb]
  case tally =>
    refine ⟨_, rfl, ?_⟩
    rw [writeTallySelect_of_within hb hq hin, getFn_updFn_self, getFn_updFn_self]
    exact ⟨by simp [← BitVec.ofNat_toNat, BitVec.toNat_eq], rfl, rfl, rfl, rfl⟩
  case beyond =>
    refine ⟨_, rfl, ?_⟩
    rw [writeTallySelect_of_beyond hout, getFn_updFn_self, getFn_updFn_self]
    exact ⟨by simp [← BitVec.ofNat_toNat, BitVec.toNat_eq], rfl, rfl, rfl⟩
  case range => rw [areaWrite, if_pos hf]
  case lock =>
    rw [areaWrite, if_neg (not_not_intro hf), writeChipLock, hw]
    rfl
  case locked =>
    rw [areaWrite, if_neg (not_not_intro hf), writeChipLock, if_pos hw]
    refine ⟨_, rfl, ?_⟩
    rw [lockedWrite_lock]
    exact ⟨rfl, setError_bit s 0 0 0x8100 (by decide : errLocked < 8), rfl, rfl, rfl, rfl⟩
  case quiet => rw [exec_irqHoldoffExpiry, if_neg hheld]; rfl
  case late =>
    have hcool : u ∉ (getFn (updFn s f.val fun k => k.cooled u) f.val).cooling := by simp [Fn.cooled]
    have hopen : vectorMasked (getFn (updFn s f.val fun k => k.cooled u) f.val) u = false := by rw [getFn_updFn_self]; exact hm
    have hon : (getFn (updFn s f.val fun k => k.cooled u) f.val).msixEnable = true := by rw [getFn_updFn_self]; exact he
    rw [exec_irqHoldoffExpiry, if_pos hheld]
    refine ⟨_, rfl, sendVector_sent_of_open hon hopen hcool, ?_⟩
    rw [sendVector_waits_of_open hopen hcool, getFn_updFn_self]
    simp [Fn.cooled]
  case masked =>
    have hshut : vectorMasked (getFn (updFn s f.val fun k => k.cooled u) f.val) u = true := by rw [getFn_updFn_self]; exact hm
    have hon : (getFn (updFn s f.val fun k => k.cooled u) f.val).msixEnable = true := by rw [getFn_updFn_self]; exact he
    rw [exec_irqHoldoffExpiry, if_pos hheld, sendVector_of_masked hon hshut]
    refine ⟨_, rfl, rfl, ?_⟩
    rw [getFn_updFn_self, getFn_updFn_self]
    constructor
    · dsimp only; split <;> simp [*]
    · simp [Fn.cooled]
  case unmask =>
    have honly := (FnOnly.updFn s f.val fun k => k.unmask u).trans (sendPending_fnOnly _ f.val)
    rw [exec_msixUnmask hs]
    refine ⟨_, rfl, ?_, fun he => ?_, honly.others, honly.work⟩
    · rw [vectorMasked_of_masks (sendPending_masks _ _), getFn_updFn_self, vectorMasked_unmask]
    · exact sendPending_masked (by rw [getFn_updFn_self]; exact he)

end Sys2Proof.Machine
end

section
/-! The end of work, and what is sent of it, leaves the system, reliability, security, optics and the chip registers as they are, and takes commands,
monitors and cells away alone (12 R330, 13 R337, 16 R443). -/

namespace Sys2Proof.Machine
set_option Elab.async false -- one proof at a time, for the memory of the check

/-- What the end of work and the sending of what follows from it leave as it is: the system, reliability, security and optics, and the chip
registers; which functions are being reset; no monitor, no command in progress and no cell appears. -/
structure Calm (s t : State) : Prop where
  sys : t.sys = s.sys
  rel : t.rel = s.rel
  sec : t.sec = s.sec
  optics : t.optics = s.optics
  chip : t.host.chip = s.host.chip
  resetting : ∀ g, (getFn t g).resetting = (getFn s g).resetting
  monitors : t.work.monitors ⊆ s.work.monitors
  tickets : t.host.tickets ⊆ s.host.tickets
  cells : ∀ ci, getCell s ci = none → getCell t ci = none

namespace Calm
variable {s0 s t u : State}

theorem refl (s : State) : Calm s s := ⟨rfl, rfl, rfl, rfl, rfl, fun _ => rfl, List.Subset.refl _, List.Subset.refl _, fun _ h => h⟩

theorem trans (h : Calm s t) (k : Calm t u) : Calm s u :=
  ⟨k.sys.trans h.sys, k.rel.trans h.rel, k.sec.trans h.sec, k.optics.trans h.optics, k.chip.trans h.chip,
    fun g => (k.resetting g).trans (h.resetting g), List.Subset.trans k.monitors h.monitors, List.Subset.trans k.tickets h.tickets,
    fun ci hc => k.cells ci (h.cells ci hc)⟩

/-- The parts of a state that `Calm` speaks of. -/
def rest (s : State) : (Sys × Rel × Sec × Optics) × (Chip × Tbl Fn) × List Monitor × List Ticket × Tbl Cell :=
  ((s.sys, s.rel, s.sec, s.optics), (s.host.chip, s.host.fns), s.work.monitors, s.host.tickets, s.radio.cells)

theorem of_rest (hs : Calm s0 s) (h : rest t = rest s := by rfl) : Calm s0 t := by
  simp only [rest, Prod.mk.injEq] at h
  obtain ⟨⟨hsys, hrel, hsec, hopt⟩, ⟨hchip, hfns⟩, hmon, htick, hcells⟩ := h
  exact hs.trans ⟨hsys, hrel, hsec, hopt, hchip, fun g => by rw [getFn, getFn, hfns], hmon ▸ List.Subset.refl _, htick ▸ List.Subset.refl _,
    fun ci hc => by rw [getCell, hcells]; exact hc⟩

theorem ite {a b : State} {c : Prop} [Decidable c] (ha : Calm s0 a) (hb : Calm s0 b) : Calm s0 (if c then a else b) := by
  split
  · exact ha
  · exact hb

theorem foldl {α : Type} {f : State → α → State} (l : List α) (hf : ∀ t, Calm s0 t → ∀ a, Calm s0 (f t a)) (hs : Calm s0 s) :
    Calm s0 (l.foldl f s) :=
  List.foldlRecOn l f (motive := Calm s0) hs fun t ht a _ => hf t ht a

end Calm

section
variable {s0 s : State}

theorem updWork_calm {f : Work → Work} (h : (f s.work).monitors ⊆ s.work.monitors) (hs : Calm s0 s) : Calm s0 (updWork s f) :=
  hs.trans ⟨rfl, rfl, rfl, rfl, rfl, fun _ => rfl, h, List.Subset.refl _, fun _ hc => hc⟩

theorem updCore_calm {c f} (hs : Calm s0 s) : Calm s0 (updCore s c f) := .of_rest hs

/-- Commands in progress are forgotten. -/
theorem filterTickets_calm {p : Ticket → Bool} (hs : Calm s0 s) :
    Calm s0 { s with host := { s.host with tickets := s.host.tickets.filter p } } :=
  hs.trans ⟨rfl, rfl, rfl, rfl, rfl, fun _ => rfl, List.Subset.refl _, List.filter_subset_self _, fun _ hc => hc⟩

theorem updEng_calm {c f} (hs : Calm s0 s) : Calm s0 (updEng s c f) := by
  unfold updEng
  exact .of_rest hs

theorem putJob_calm {h j} (hs : Calm s0 s) : Calm s0 (putJob s h j) := by
  unfold putJob
  exact .of_rest hs

theorem updJob_calm {h f} (hs : Calm s0 s) : Calm s0 (updJob s h f) := by
  unfold updJob
  split
  · exact putJob_calm hs
  · exact hs

theorem updRun_calm {h f} (hs : Calm s0 s) : Calm s0 (updRun s h f) := by
  unfold updRun
  exact updJob_calm hs

theorem updNet_calm {f} (hs : Calm s0 s) : Calm s0 (updNet s f) := by
  unfold updNet
  exact .of_rest hs

theorem updPower_calm {f} (hs : Calm s0 s) : Calm s0 (updPower s f) := by
  unfold updPower
  exact .of_rest hs

theorem updMgmt_calm {f} (hs : Calm s0 s) : Calm s0 (updMgmt s f) := by
  unfold updMgmt
  exact .of_rest hs

theorem updMac_calm {m f} (hs : Calm s0 s) : Calm s0 (updMac s m f) := by
  unfold updMac
  exact updNet_calm hs

theorem updFn_calm {f g} (hg : (g (getFn s f)).resetting = (getFn s f).resetting) (hs : Calm s0 s) : Calm s0 (updFn s f g) := by
  refine hs.trans ⟨rfl, rfl, rfl, rfl, rfl, fun k => ?_, List.Subset.refl _, List.Subset.refl _, fun _ hc => hc⟩
  by_cases hk : k = f
  · rw [hk, getFn_updFn_self, hg]
  · rw [getFn_updFn_other _ _ hk]

theorem emit_calm {o} (hs : Calm s0 s) : Calm s0 (emit s o) := by
  unfold emit
  exact .of_rest hs

theorem sendVector_calm {f v} (hs : Calm s0 s) : Calm s0 (sendVector s f v) := by
  unfold sendVector
  exact .ite hs (.ite (updFn_calm rfl hs) (.ite (updFn_calm rfl hs) (.ite (emit_calm hs) (updFn_calm rfl (emit_calm hs)))))

theorem setIrq_calm {f cause mask} (hs : Calm s0 s) : Calm s0 (setIrq s f cause mask) := by
  unfold setIrq
  exact .ite (sendVector_calm (updFn_calm rfl hs)) (updFn_calm rfl hs)

theorem raiseCause_calm {f c} (hs : Calm s0 s) : Calm s0 (raiseCause s f c) := by
  unfold raiseCause
  exact setIrq_calm hs

theorem updTill_calm {n g} (hs : Calm s0 s) : Calm s0 (updTill s n g) := by
  unfold updTill
  exact .of_rest hs

theorem writeSlot_calm {n bytes} (hs : Calm s0 s) : Calm s0 (writeSlot s n bytes) := by
  unfold writeSlot
  exact .ite (.of_rest hs) (.of_rest hs)

theorem writeSlots_calm {n k bytes} (hs : Calm s0 s) : Calm s0 (writeSlots s n k bytes) := by
  induction k generalizing s bytes with
  | zero => exact hs
  | succ k ih => exact ih (writeSlot_calm hs)

theorem armVector_calm {n} (hs : Calm s0 s) : Calm s0 (armVector s n) := by
  unfold armVector
  exact .ite (sendVector_calm (updTill_calm hs)) hs

theorem dropEntry_calm {n} (hs : Calm s0 s) : Calm s0 (dropEntry s n) := by
  unfold dropEntry
  exact updTill_calm hs

theorem tillError_calm {n reason} (hs : Calm s0 s) : Calm s0 (tillError s n reason) := by
  unfold tillError
  exact raiseCause_calm (updTill_calm hs)

theorem writeEntry_calm {n bytes reserved} (hs : Calm s0 s) : Calm s0 (writeEntry s n bytes reserved) := by
  unfold writeEntry
  exact .ite (dropEntry_calm (tillError_calm hs)) (.ite (dropEntry_calm hs) (armVector_calm (writeSlots_calm hs)))

theorem writeMessage_calm {n opcode tag body reserved} (hs : Calm s0 s) : Calm s0 (writeMessage s n opcode tag body reserved) := by
  unfold writeMessage
  exact .ite (updTill_calm (writeEntry_calm (updTill_calm hs))) (writeEntry_calm (updTill_calm hs))

theorem writeCompletion_calm {n bytes} (hs : Calm s0 s) : Calm s0 (writeCompletion s n bytes) := by
  unfold writeCompletion
  exact .ite (writeEntry_calm (updTill_calm hs)) (writeMessage_calm (updTill_calm hs))

theorem mctpQueue_calm {transport o} (hs : Calm s0 s) : Calm s0 (mctpQueue s transport o) := by
  unfold mctpQueue
  exact updMgmt_calm hs

theorem mgmtComplete_calm {via data} (hs : Calm s0 s) : Calm s0 (mgmtComplete s via data) := by
  unfold mgmtComplete
  exact mctpQueue_calm hs

theorem mgmtEvent_calm {opcode len body} (hs : Calm s0 s) : Calm s0 (mgmtEvent s opcode len body) := by
  unfold mgmtEvent
  exact updMgmt_calm (mctpQueue_calm hs)

theorem sendFrame_calm {mac what dst vlan type payload} (hs : Calm s0 s) : Calm s0 (sendFrame s mac what dst vlan type payload) := by
  unfold sendFrame
  exact emit_calm (updMac_calm hs)

theorem serviceSend_calm {svc v addr opcode tag body} (hs : Calm s0 s) : Calm s0 (serviceSend s svc v addr opcode tag body) := by
  unfold serviceSend
  exact sendFrame_calm (updTill_calm hs)

theorem complete_calm {id d} (hs : Calm s0 s) : Calm s0 (complete s id d) := by
  unfold complete
  split
  · exact hs
  next =>
    have ht := filterTickets_calm (p := fun t => decide (t.id ≠ id)) hs
    dsimp only
    split
    · exact mgmtComplete_calm ht
    · exact writeCompletion_calm ht
    · split
      · exact serviceSend_calm ht
      · exact ht

theorem completeWith_calm {id status} (hs : Calm s0 s) : Calm s0 (completeWith s id status) := by
  unfold completeWith
  exact complete_calm hs

theorem partEvent_calm {p opcode len body} (hs : Calm s0 s) : Calm s0 (partEvent s p opcode len body) := by
  unfold partEvent
  exact writeMessage_calm hs

theorem deviceEvent_calm {opcode len body} (hs : Calm s0 s) : Calm s0 (deviceEvent s opcode len body) := by
  unfold deviceEvent
  exact mgmtEvent_calm (writeMessage_calm hs)

theorem sendDeviceEvent_calm {kind unit index enabled} (hs : Calm s0 s) : Calm s0 (sendDeviceEvent s kind unit index enabled) := by
  unfold sendDeviceEvent
  exact deviceEvent_calm hs

theorem hbmWrite_calm {p a bs} (hs : Calm s0 s) : Calm s0 (hbmWrite s p a bs) := by
  unfold hbmWrite
  split
  · exact updWork_calm (List.Subset.refl _) hs
  · exact hs

theorem charge_calm {p kind client d} (hs : Calm s0 s) : Calm s0 (charge s p kind client d) := by
  unfold charge
  exact updWork_calm (List.Subset.refl _) hs

theorem chargeJob_calm {h d} (hs : Calm s0 s) : Calm s0 (chargeJob s h d) := by
  unfold chargeJob
  split
  · exact charge_calm hs
  · exact hs

theorem clientEnds_calm {p kind client} (hs : Calm s0 s) : Calm s0 (clientEnds s p kind client) := by
  unfold clientEnds
  exact updWork_calm (List.Subset.refl _) hs

theorem updTally_calm {t f} (hs : Calm s0 s) : Calm s0 (updTally s t f) := by
  unfold updTally
  exact updWork_calm (List.Subset.refl _) hs

theorem startRinse_calm {parts use} (hs : Calm s0 s) : Calm s0 (startRinse s parts use) := by
  unfold startRinse
  exact updWork_calm (List.Subset.refl _) (.foldl _ (fun t ht _ => updCore_calm ht) hs)

theorem installTables_calm {h i} (hs : Calm s0 s) : Calm s0 (installTables s h i) := by
  unfold installTables
  exact updCore_calm (updEng_calm hs)

theorem stopUnits_calm {c} (hs : Calm s0 s) : Calm s0 (stopUnits s c) := by
  unfold stopUnits
  exact updEng_calm hs

theorem dropDebug_calm {c} (hs : Calm s0 s) : Calm s0 (dropDebug s c) := by
  unfold dropDebug
  exact .ite hs (.foldl _ (fun t ht _ => completeWith_calm ht) (updEng_calm hs))

theorem combineDigest_calm {h point epoch} (hs : Calm s0 s) : Calm s0 (combineDigest s h point epoch) := by
  unfold combineDigest
  split
  · exact hs
  · split
    · exact hs
    · split
      · exact hs
      · exact updJob_calm (.ite hs (hbmWrite_calm hs))

theorem combineAll_calm {h} (hs : Calm s0 s) : Calm s0 (combineAll s h) := by
  unfold combineAll
  split
  · exact hs
  · exact .foldl _ (fun t ht _ => combineDigest_calm ht) hs

theorem testClip_calm {h epoch station entry} (hs : Calm s0 s) : Calm s0 (testClip h epoch station s entry) := by
  unfold testClip
  split
  · exact hs
  · split
    · exact hs
    · split
      · exact hs
      · exact .ite (partEvent_calm (updRun_calm hs)) (updRun_calm hs)

theorem testClips_calm {h} (hs : Calm s0 s) : Calm s0 (testClips s h) := by
  unfold testClips
  split
  · exact hs
  · split
    · exact hs
    · exact .foldl _ (fun t ht _ => .foldl _ (fun t' ht' _ => testClip_calm ht') ht) hs

theorem chargeClient_calm {i client d} (hs : Calm s0 s) : Calm s0 (chargeClient s i client d) := by
  unfold chargeClient
  split
  · exact charge_calm hs
  · exact hs

theorem divideUse_calm {h i b} (hs : Calm s0 s) : Calm s0 (divideUse s h i b) := by
  unfold divideUse
  split
  · split
    · exact hs
    · refine updRun_calm ?_
      refine .foldl _ (fun t ht _ => ?_) hs
      dsimp only
      split
      · exact chargeClient_calm ht
      · exact charge_calm ht
  · exact hs

theorem divideHeld_calm {h} (hs : Calm s0 s) : Calm s0 (divideHeld s h) := by
  unfold divideHeld
  split
  · exact hs
  · split
    · exact hs
    · split
      · exact hs
      · exact divideUse_calm hs

theorem writeJobRecord_calm {j r status} (hs : Calm s0 s) : Calm s0 (writeJobRecord s j r status) := by
  unfold writeJobRecord
  exact .ite hs (hbmWrite_calm (hbmWrite_calm hs))

theorem retainSegs_calm {j} (hs : Calm s0 s) : Calm s0 (retainSegs s j) := by
  unfold retainSegs
  exact .foldl _ (fun t ht _ => updCore_calm ht) hs

theorem leaveCores_calm {h j} (hs : Calm s0 s) : Calm s0 (leaveCores s h j) := by
  unfold leaveCores
  exact .foldl _ (fun t ht _ => updCore_calm ht) hs

theorem clearEngines_calm {c} (hs : Calm s0 s) : Calm s0 (clearEngines s c) := by
  unfold clearEngines
  exact updCore_calm (updEng_calm hs)

theorem handBack_calm {c} (hs : Calm s0 s) : Calm s0 (handBack s c) := by
  unfold handBack
  dsimp only
  split
  · exact clearEngines_calm (updCore_calm hs)
  · split
    · exact updCore_calm hs
    · split
      · exact updCore_calm hs
      · exact installTables_calm (updCore_calm hs)

theorem releaseCore_calm {c} (hs : Calm s0 s) : Calm s0 (releaseCore s c) := by
  unfold releaseCore
  exact .ite hs (.ite (handBack_calm hs) (startRinse_calm hs))

theorem endInvocation_calm {h status words} (hs : Calm s0 s) : Calm s0 (endInvocation s h status words) := by
  unfold endInvocation
  dsimp only
  split
  · exact divideHeld_calm (testClips_calm (combineAll_calm hs))
  · split
    · exact divideHeld_calm (testClips_calm (combineAll_calm hs))
    · refine .foldl _ (fun t ht _ => releaseCore_calm (dropDebug_calm ht)) ?_
      refine updJob_calm ?_
      refine retainSegs_calm ?_
      refine leaveCores_calm ?_
      refine .foldl _ (fun t ht _ => complete_calm ht) ?_
      refine .foldl _ (fun t ht _ => completeWith_calm ht) ?_
      split
      · exact complete_calm (chargeJob_calm (writeJobRecord_calm (divideHeld_calm (testClips_calm (combineAll_calm hs)))))
      · exact chargeJob_calm (writeJobRecord_calm (divideHeld_calm (testClips_calm (combineAll_calm hs))))

theorem noteSelectors_calm {h q far} (hs : Calm s0 s) : Calm s0 (noteSelectors s h q far) := by
  unfold noteSelectors
  exact updJob_calm hs

theorem landWrite_calm {p t} (hs : Calm s0 s) : Calm s0 (landWrite s p t) := by
  unfold landWrite
  refine .ite ?_ (.ite (.foldl _ (fun u hu _ => updCore_calm hu) hs) hs)
  split
  · exact noteSelectors_calm (updWork_calm (List.Subset.refl _) hs)
  · exact hs

theorem dropTxns_calm {h j} (hs : Calm s0 s) : Calm s0 (dropTxns s h j) := by
  unfold dropTxns
  exact .foldl _ (fun t ht _ => updCore_calm (.foldl _ (fun t' ht' _ => landWrite_calm ht') ht)) hs

theorem abortInvocation_calm {h status words lost} (hs : Calm s0 s) : Calm s0 (abortInvocation s h status words lost) := by
  unfold abortInvocation
  split
  · exact hs
  · split
    · exact hs
    · exact .ite hs (startRinse_calm (updJob_calm (.foldl _ (fun t ht _ => .ite (stopUnits_calm ht) ht) (dropTxns_calm hs))))

theorem rinseDone_calm {x1} (hs : Calm s0 s) : Calm s0 (rinseDone s x1) := by
  unfold rinseDone
  split
  · exact endInvocation_calm hs
  · exact hs
  · exact completeWith_calm hs
  · exact updCore_calm hs
  · exact handBack_calm hs
  · exact hs

theorem settleRinses_calm (hs : Calm s0 s) : Calm s0 (settleRinses s) := by
  unfold settleRinses
  exact .foldl _ (fun t ht _ => rinseDone_calm ht) (updWork_calm (List.Subset.refl _) hs)

theorem abortRun_calm {h status words lost} (hs : Calm s0 s) : Calm s0 (abortRun s h status words lost) := by
  unfold abortRun
  exact settleRinses_calm (abortInvocation_calm hs)

theorem abortWhere_calm {p status words lost} (hs : Calm s0 s) : Calm s0 (abortWhere s p status words lost) := by
  unfold abortWhere
  exact .foldl _ (fun t ht _ => abortRun_calm ht) hs

theorem settleByes_calm (hs : Calm s0 s) : Calm s0 (settleByes s) := by
  unfold settleByes
  exact .foldl _ (fun t ht _ => completeWith_calm ht) (.of_rest hs)

theorem finish_calm {id d} (hs : Calm s0 s) : Calm s0 (finish s id d) := by
  unfold finish
  exact settleByes_calm (complete_calm hs)

theorem freeGroups_calm {j} (hs : Calm s0 s) : Calm s0 (freeGroups s j) := by
  unfold freeGroups
  exact .foldl _ (fun t ht _ => updTally_calm ht) hs

theorem dropJob_calm {h} (hs : Calm s0 s) : Calm s0 (dropJob s h) := by
  unfold dropJob
  split
  · exact hs
  · refine updWork_calm (List.Subset.refl _) ?_
    split
    · exact updPower_calm (freeGroups_calm (leaveCores_calm hs))
    · exact clientEnds_calm (updPower_calm (freeGroups_calm (leaveCores_calm hs)))

theorem updSvc_calm {i f} (hs : Calm s0 s) : Calm s0 (updSvc s i f) := by
  unfold updSvc
  exact .of_rest hs

theorem sendSessionEnd_calm {i id addr reason} (hs : Calm s0 s) : Calm s0 (sendSessionEnd s i id addr reason) := by
  unfold sendSessionEnd
  split
  · exact serviceSend_calm hs
  · exact hs

theorem dropSession_calm {i id reason} (hs : Calm s0 s) : Calm s0 (dropSession s i id reason) := by
  unfold dropSession
  split
  · exact hs
  · dsimp only
    split
    · refine sendSessionEnd_calm ?_
      refine updSvc_calm ?_
      split
      · refine finish_calm ?_
        refine .foldl _ (fun t ht _ => finish_calm ht) ?_
        split
        · exact finish_calm hs
        · exact hs
      · refine .foldl _ (fun t ht _ => finish_calm ht) ?_
        split
        · exact finish_calm hs
        · exact hs
    · refine .ite ?_ ?_
      · refine sendSessionEnd_calm ?_
        refine updSvc_calm ?_
        split
        · refine finish_calm ?_
          refine .foldl _ (fun t ht _ => finish_calm ht) ?_
          split
          · exact finish_calm hs
          · exact hs
        · refine .foldl _ (fun t ht _ => finish_calm ht) ?_
          split
          · exact finish_calm hs
          · exact hs
      · refine clientEnds_calm ?_
        refine sendSessionEnd_calm ?_
        refine updSvc_calm ?_
        split
        · refine finish_calm ?_
          refine .foldl _ (fun t ht _ => finish_calm ht) ?_
          split
          · exact finish_calm hs
          · exact hs
        · refine .foldl _ (fun t ht _ => finish_calm ht) ?_
          split
          · exact finish_calm hs
          · exact hs

theorem closeService_calm {i reason} (hs : Calm s0 s) : Calm s0 (closeService s i reason) := by
  unfold closeService
  split
  · exact hs
  · dsimp only
    split
    · exact finish_calm (.of_rest (updJob_calm (.foldl _ (fun t ht _ => dropSession_calm ht) hs)))
    · exact .of_rest (updJob_calm (.foldl _ (fun t ht _ => dropSession_calm ht) hs))

theorem losePage_calm {i page} (hs : Calm s0 s) : Calm s0 (losePage s i page) := by
  unfold losePage
  split
  · exact hs
  · exact updSvc_calm (.foldl _ (fun t ht _ => dropSession_calm ht) hs)

theorem overflowReset_calm {f} (hs : Calm s0 s) : Calm s0 (overflowReset s f) := by
  unfold overflowReset
  exact .foldl _ (fun t ht _ => updSvc_calm (.foldl _ (fun t' ht' _ => losePage_calm ht') ht)) hs

theorem sendCellStopped_calm {ci c reason object slot} (hs : Calm s0 s) : Calm s0 (sendCellStopped s ci c reason object slot) := by
  unfold sendCellStopped
  exact partEvent_calm hs

theorem dropAborted_calm {h lost} (hs : Calm s0 s) : Calm s0 (dropAborted s h lost) := by
  unfold dropAborted
  split
  · exact hs
  · exact .ite (settleRinses_calm (dropJob_calm (endInvocation_calm (abortInvocation_calm hs)))) (settleRinses_calm
      (startRinse_calm (dropJob_calm hs)))

theorem adaptCellStops_calm {ci} (hs : Calm s0 s) : Calm s0 (adaptCellStops s ci) := by
  unfold adaptCellStops
  split
  · exact hs
  next a _ =>
    have hcut : Calm s0 (match a.change.bind LiveChange.ticket with
        | some t => complete s t (Done.of eAborted)
        | none => s) := by
      split
      · exact complete_calm hs
      · exact hs
    dsimp only
    split
    · exact .of_rest (dropAborted_calm hcut)
    · exact .of_rest hcut

/-- A cell is gone. -/
theorem delCell_calm {ci} (hs : Calm s0 s) : Calm s0 { s with radio := { s.radio with cells := Tbl.del s.radio.cells ci } } := by
  refine hs.trans ⟨rfl, rfl, rfl, rfl, rfl, fun _ => rfl, List.Subset.refl _, List.Subset.refl _, fun k hc => ?_⟩
  by_cases hk : k = ci
  · rw [hk, getCell]; exact Tbl.find_del_self ..
  · rw [getCell]; exact (Tbl.find_del_other _ hk).trans hc

theorem releaseCell_calm {ci lost} (hs : Calm s0 s) : Calm s0 (releaseCell s ci lost) := by
  unfold releaseCell
  split
  · exact hs
  · exact delCell_calm (adaptCellStops_calm (dropAborted_calm (dropAborted_calm hs)))

theorem stopCell_calm {ci reason object lost} (hs : Calm s0 s) : Calm s0 (stopCell s ci reason object lost) := by
  unfold stopCell
  split
  · exact hs
  · exact sendCellStopped_calm (.foldl _ (fun t ht _ => finish_calm ht) (releaseCell_calm hs))

theorem updAdapt_calm {ci f} (hs : Calm s0 s) : Calm s0 (updAdapt s ci f) := by
  unfold updAdapt
  exact .of_rest hs

theorem adaptEvent_calm {ci kind slot trigger epoch crc v} (hs : Calm s0 s) : Calm s0
    (adaptEvent s ci kind slot trigger epoch crc v) := by
  unfold adaptEvent
  split
  · exact hs
  · exact partEvent_calm (updAdapt_calm (hbmWrite_calm hs))

theorem abandonRound_calm {ci} (hs : Calm s0 s) : Calm s0 (abandonRound s ci) := by
  unfold abandonRound
  dsimp only
  split
  · exact hs
  · refine adaptEvent_calm ?_
    refine updAdapt_calm ?_
    split
    · exact abortRun_calm hs
    · exact hs

theorem settleRounds_calm (hs : Calm s0 s) : Calm s0 (settleRounds s) := by
  unfold settleRounds
  refine .foldl _ (fun t ht _ => ?_) hs
  split
  · split
    · exact .ite (abandonRound_calm ht) ht
    · exact abandonRound_calm ht
  · exact ht

theorem statusChanged_calm (hs : Calm s0 s) : Calm s0 (statusChanged s) := by
  unfold statusChanged
  exact .foldl _ (fun t ht _ => raiseCause_calm ht) hs

theorem stopTill_calm {n} (hs : Calm s0 s) : Calm s0 (stopTill s n) := by
  unfold stopTill
  exact updTill_calm hs

theorem forgetTickets_calm {src} (hs : Calm s0 s) : Calm s0 (forgetTickets s src) := by
  unfold forgetTickets
  have hfreed (l : List Ticket) (f : Ticket → Till → Till) : Calm s0 (l.foldl (fun s t => updTill s t.reply (f t)) s) :=
    .foldl l (fun t ht _ => updTill_calm ht) hs
  exact .of_rest (filterTickets_calm (p := fun t => decide (t.src ≠ src)) (hfreed _ _))

theorem abortOwned_calm {src} (hs : Calm s0 s) : Calm s0 (abortOwned s src) := by
  unfold abortOwned
  exact settleRounds_calm (abortWhere_calm (.foldl _ (fun t ht _ => closeService_calm (abortRun_calm ht)) (.foldl _
    (fun t ht _ => stopCell_calm ht) hs)))

end

end Sys2Proof.Machine
end

section
/-! The resets of functions: what they mark, what they end, and the registers and tills that a function has afterwards (15 R412, R413). -/

namespace Sys2Proof.Machine
set_option Elab.async false -- one proof at a time, for the memory of the check

/-! ### The beginning of a function reset -/

/-- A function reset that begins, of a function that none runs for: it is marked, its tills stop, its monitors go, its work is aborted, its
commands are forgotten. -/
def resetBegun (s : State) (f : Fin 32) (soft : Bool) : State :=
  overflowReset (forgetTickets (abortOwned (updWork
    ((heldTills s f).foldl stopTill (updFn s f.val fun k => { k with resetting := true, softReset := soft }))
    fun w => { w with monitors := w.monitors.filter fun m => m.src ≠ .fn f }) (.fn f)) (.fn f)) f.val

theorem beginFnReset_of_free {s : State} {f : Fin 32} (h : (getFn s f.val).resetting = false) (soft : Bool) :
    beginFnReset s f soft = resetBegun s f soft := by
  rw [beginFnReset, h, if_neg (by simp)]
  rfl

theorem beginFnReset_of_resetting {s : State} {f : Fin 32} (h : (getFn s f.val).resetting = true) (soft : Bool) :
    beginFnReset s f soft = s := by
  rw [beginFnReset, if_pos h]

theorem stopTills_calm {s0 s : State} (l : List Nat) (hs : Calm s0 s) : Calm s0 (l.foldl stopTill s) :=
  .foldl l (fun _ ht _ => stopTill_calm ht) hs

/-- The reset from the marking of the function on. -/
theorem resetBegun_calm (s : State) (f : Fin 32) (soft : Bool) :
    Calm (updFn s f.val fun k => { k with resetting := true, softReset := soft }) (resetBegun s f soft) := by
  unfold resetBegun
  exact overflowReset_calm (forgetTickets_calm (abortOwned_calm (updWork_calm (List.filter_subset_self _) (stopTills_calm _ (.refl _)))))

theorem resetBegun_resetting (s : State) (f : Fin 32) (soft : Bool) (g : Nat) :
    (getFn (resetBegun s f soft) g).resetting = (decide (g = f.val) || (getFn s g).resetting) := by
  rw [(resetBegun_calm s f soft).resetting]
  by_cases hg : g = f.val
  · rw [hg, getFn_updFn_self]; simp
  · rw [getFn_updFn_other _ _ hg]; simp [hg]

theorem resetBegun_monitors (s : State) (f : Fin 32) (soft : Bool) : ∀ x ∈ (resetBegun s f soft).work.monitors, x.src ≠ .fn f := by
  intro x hx
  unfold resetBegun at hx
  have hkept := (overflowReset_calm (forgetTickets_calm (abortOwned_calm (.refl _)))).monitors hx
  exact of_decide_eq_true (List.mem_filter.mp hkept).2

theorem mem_forgetTickets {s : State} {src : Source} {k : Ticket} (hk : k ∈ (forgetTickets s src).host.tickets) : k.src ≠ src := by
  unfold forgetTickets at hk
  exact of_decide_eq_true (List.mem_filter.mp hk).2

theorem resetBegun_tickets (s : State) (f : Fin 32) (soft : Bool) : ∀ k ∈ (resetBegun s f soft).host.tickets, k.src ≠ .fn f := by
  intro k hk
  unfold resetBegun at hk
  exact mem_forgetTickets ((overflowReset_calm (.refl _)).tickets hk)

/-! ### Resets of many functions -/

/-- What resets of functions leave as it is: the system, reliability, security and the chip registers. -/
structure Resets (p : Nat → Bool) (s t : State) : Prop where
  sys : t.sys = s.sys
  rel : t.rel = s.rel
  sec : t.sec = s.sec
  chip : t.host.chip = s.host.chip
  resetting : ∀ g, (getFn t g).resetting = (p g || (getFn s g).resetting)

theorem beginFnReset_resets (s : State) (f : Fin 32) (soft : Bool) : Resets (fun g => decide (g = f.val)) s (beginFnReset s f soft) := by
  cases h : (getFn s f.val).resetting with
  | true =>
    rw [beginFnReset_of_resetting h]
    refine ⟨rfl, rfl, rfl, rfl, fun g => ?_⟩
    by_cases hg : g = f.val
    · rw [hg, h]; simp
    · simp [hg]
  | false =>
    have hcalm := resetBegun_calm s f soft
    rw [beginFnReset_of_free h]
    exact ⟨hcalm.sys, hcalm.rel, hcalm.sec, hcalm.chip, resetBegun_resetting s f soft⟩

theorem beginFnResets_resets (l : List (Fin 32)) (soft : Bool) (s : State) :
    Resets (fun g => l.any fun f => decide (g = f.val)) s (l.foldl (fun s f => beginFnReset s f soft) s) := by
  induction l generalizing s with
  | nil => exact ⟨rfl, rfl, rfl, rfl, fun g => by simp⟩
  | cons f l ih =>
    have hf := beginFnReset_resets s f soft
    have hl := ih (beginFnReset s f soft)
    refine ⟨hl.sys.trans hf.sys, hl.rel.trans hf.rel, hl.sec.trans hf.sec, hl.chip.trans hf.chip, fun g => ?_⟩
    rw [List.foldl_cons, hl.resetting, hf.resetting, List.any_cons, ← Bool.or_assoc, Bool.or_comm (l.any _)]

theorem resetVfs_resets (s : State) (fs : List (Fin 32)) :
    Resets (fun g => (fs.filter fun f => f.val ≠ 0).any fun f => decide (g = f.val)) s (resetVfs s fs) :=
  beginFnResets_resets _ false s

/-- The resets of the VFs that exist mark each of them. -/
theorem resetVfs_resetting {s : State} {g : Fin 32} (hg : g.val ≠ 0) (hp : present s g.val = true) :
    (getFn (resetVfs s (allFns.filter fun g => present s g.val)) g.val).resetting = true := by
  have hmem : g ∈ (allFns.filter fun g => present s g.val).filter fun f => f.val ≠ 0 := by
    refine List.mem_filter.mpr ⟨List.mem_filter.mpr ⟨List.mem_finRange g, hp⟩, decide_eq_true hg⟩
  rw [(resetVfs_resets ..).resetting]
  simp only [Bool.or_eq_true, List.any_eq_true, decide_eq_true_eq]
  exact .inl ⟨g, hmem, rfl⟩

theorem resetVfs_of_none {s : State} (h : ∀ g : Fin 32, g.val ≠ 0 → present s g.val = false) :
    resetVfs s (allFns.filter fun g => present s g.val) = s := by
  have hnone : (allFns.filter fun g => present s g.val).filter (fun f : Fin 32 => f.val ≠ 0) = [] := by
    rw [List.filter_filter, List.filter_eq_nil_iff]
    intro g _
    by_cases hg : g.val = 0
    · simp [hg]
    · simp [h g hg]
  rw [resetVfs, hnone]
  rfl

theorem getFn_updChip (s : State) (f : Chip → Chip) (g : Nat) : getFn (updChip s f) g = getFn s g := rfl

theorem conventionalReset_eq (s : State) :
    conventionalReset s = updChip (allFns.foldl (fun s f => beginFnReset s f false) s) fun c =>
      { c with vfEnable := false, numVFs := 0, d3hot := false } := rfl

/-- After a conventional reset every function is being reset, and no VF exists. -/
theorem conventionalReset_spec (s : State) :
    (conventionalReset s).sys = s.sys ∧ (conventionalReset s).rel = s.rel ∧
      (conventionalReset s).host.chip = { s.host.chip with vfEnable := false, numVFs := 0, d3hot := false } ∧
      ∀ g : Fin 32, (getFn (conventionalReset s) g.val).resetting = true := by
  have hall := beginFnResets_resets allFns false s
  rw [conventionalReset_eq]
  refine ⟨by rw [updChip_sys, hall.sys], by rw [updChip_rel, hall.rel], ?_, fun g => ?_⟩
  · rw [updChip_host, hall.chip]
  · have hmarked := hall.resetting g.val
    have hin : (allFns.any fun f => decide (g.val = f.val)) = true :=
      List.any_eq_true.mpr ⟨g, List.mem_finRange g, decide_eq_true rfl⟩
    rw [hin, Bool.true_or] at hmarked
    rw [getFn_updChip, hmarked]

/-! ### The end of a function reset -/

/-- A function till of a function that has been reset. -/
def Till.refreshed (t : Till) (f : Fin 32) (k : Nat) : Till := { Till.function f k with dropped := t.dropped, seq := t.seq, lost := t.lost }

theorem Till.used_refreshed (t : Till) (f : Fin 32) (k : Nat) : (t.refreshed f k).used = 0 := by
  simp [Till.used, Till.refreshed, Till.function, Till.none]

theorem freshFnTills_eq (s : State) (f : Fin 32) :
    freshFnTills s f = updTill (updTill (updTill s (fnTill f.val 0) fun t => t.refreshed f 0) (fnTill f.val 1) fun t => t.refreshed f 1)
      (fnTill f.val 2) fun t => t.refreshed f 2 := rfl

theorem getTill_freshFnTills (s : State) (f : Fin 32) {k : Nat} (hk : k < 3) :
    getTill (freshFnTills s f) (fnTill f.val k) = (getTill s (fnTill f.val k)).refreshed f k := by
  have hne {i j : Nat} (h : i ≠ j) : fnTill f.val i ≠ fnTill f.val j := by unfold fnTill; omega
  rw [freshFnTills_eq]
  rcases k with _ | _ | _ | k
  · rw [getTill_updTill_other _ _ (hne (by decide)), getTill_updTill_other _ _ (hne (by decide)), getTill_updTill_self]
  · rw [getTill_updTill_other _ _ (hne (by decide)), getTill_updTill_self, getTill_updTill_other _ _ (hne (by decide))]
  · rw [getTill_updTill_self, getTill_updTill_other _ _ (hne (by decide)), getTill_updTill_other _ _ (hne (by decide))]
  · omega

/-- The end of a reset of a function that is being reset. -/
theorem finishFnReset_of_resetting {s : State} {f : Fin 32} (h : (getFn s f.val).resetting = true) :
    finishFnReset s f =
      (let t := freshFnTills (updFn s f.val fun k => resetFnRegs k k.softReset) f
       if (getFn s f.val).softReset then raiseCause t f.val 3 else t) := by
  rw [finishFnReset]
  dsimp only
  rw [if_pos h]

/-- Till and work after the end of a reset: RESET_DONE touches the function's registers alone. -/
theorem finishFnReset_fnOnly {s : State} {f : Fin 32} (h : (getFn s f.val).resetting = true) :
    FnOnly f.val (freshFnTills (updFn s f.val fun k => resetFnRegs k k.softReset) f) (finishFnReset s f) := by
  rw [finishFnReset_of_resetting h]
  dsimp only
  split
  · exact raiseCause_fnOnly ..
  · exact .refl ..

theorem getFn_freshFnTills (s : State) (f : Fin 32) (g : Nat) : getFn (freshFnTills s f) g = getFn s g := rfl

/-- The registers of a function after a soft reset. -/
theorem getFn_finishFnReset_soft {s : State} {f : Fin 32} (h : (getFn s f.val).resetting = true) (hsoft : (getFn s f.val).softReset = true) :
    ∃ p q c, getFn (finishFnReset s f) f.val =
      { resetFnRegs (getFn s f.val) true with irqCause := 8, msixPending := p, heldVectors := q, cooling := c } := by
  obtain ⟨p, q, c, hfn⟩ := setIrq_fn (freshFnTills (updFn s f.val fun k => resetFnRegs k k.softReset) f) f.val
    ((getFn (freshFnTills (updFn s f.val fun k => resetFnRegs k k.softReset) f) f.val).irqCause ||| BitVec.ofNat 4 (2 ^ 3))
    (getFn (freshFnTills (updFn s f.val fun k => resetFnRegs k k.softReset) f) f.val).irqMask
  refine ⟨p, q, c, ?_⟩
  rw [finishFnReset_of_resetting h]
  dsimp only
  rw [if_pos hsoft, raiseCause, hfn, getFn_freshFnTills, getFn_updFn_self, hsoft,
    show (resetFnRegs (getFn s f.val) true).irqCause = 0 from rfl, show (0 : BitVec 4) ||| BitVec.ofNat 4 (2 ^ 3) = 8 by decide]

theorem getFn_finishFnReset_hard {s : State} {f : Fin 32} (h : (getFn s f.val).resetting = true) (hhard : (getFn s f.val).softReset = false) :
    getFn (finishFnReset s f) f.val = Fn.reset := by
  rw [finishFnReset_of_resetting h]
  dsimp only
  rw [if_neg (by simp [hhard]), getFn_freshFnTills, getFn_updFn_self, hhard]
  rfl

theorem exec_softReset {s : State} {f : Fin 32} (hr : s.sys.ready = true) (hp : present s f.val = true) :
    exec (.softReset f) s = .next (beginFnReset s f true) := by
  change execSoftReset f s = _
  rw [execSoftReset, if_pos ⟨hr, hp⟩]

theorem exec_functionLevelReset_vf {s : State} {f : Fin 32} (hf : f.val ≠ 0) (hp : present s f.val = true) :
    exec (.functionLevelReset f) s = .next (beginFnReset s f false) := by
  change execFunctionLevelReset f s = _
  rw [execFunctionLevelReset, if_pos hf, if_pos hp]

theorem exec_functionLevelReset_pf {s : State} {f : Fin 32} (hf : f.val = 0) :
    exec (.functionLevelReset f) s = .next (beginFnReset (updChip (resetVfs s (allFns.filter fun g => present s g.val)) fun c =>
      { c with vfEnable := false, numVFs := 0 }) f false) := by
  change execFunctionLevelReset f s = _
  rw [execFunctionLevelReset, if_neg (not_not_intro hf)]

/-- What the pins and the link say of a conventional reset. -/
def linkReset (s : State) (cause : ConvReset) : State :=
  updChip (updSys s fun y => { y with perstN := if cause = .perst then false else y.perstN }) fun c =>
    { c with linkUp := c.linkUp && decide (cause = .hotReset) }

theorem exec_conventionalReset (s : State) (cause : ConvReset) :
    exec (.pcieConventionalReset cause) s = .next (if s.sys.boot.isSome
      then updSys (linkReset s cause) fun y => { y with resetAfterReady := true } else conventionalReset (linkReset s cause)) := by
  cases cause <;> rfl

theorem linkReset_hot (s : State) : linkReset s .hotReset = s := by
  simp [linkReset, updSys, updChip]

/-- Settles O38: the branches of the resets, and what an abort leaves as it is. -/
theorem functionResetsBeginAndEnd : Obligations.FunctionResetsBeginAndEnd := by
  unfold Obligations.FunctionResetsBeginAndEnd
  intro s f
  refine ⟨fun hr hp hfree => ⟨?soft, fun hf => ?vf, fun soft => ?marks⟩, fun n hnone => ?noVf, fun n => rfl, exec_functionLevelReset_pf,
    fun hb => ⟨?hot, fun cause => ?conventional⟩, fun hb cause => ?later, fun hres => ?done⟩
  case soft => rw [exec_softReset hr hp, beginFnReset_of_free hfree]; rfl
  case vf => rw [exec_functionLevelReset_vf hf hp, beginFnReset_of_free hfree]; rfl
  case marks =>
    beta_reduce
    rw [← resetBegun]
    exact ⟨by rw [resetBegun_resetting]; simp, resetBegun_monitors s f soft, resetBegun_tickets s f soft⟩
  case noVf =>
    change execVfDisable n s = _
    rw [execVfDisable, resetVfs_of_none hnone]
  case hot => rw [exec_conventionalReset, linkReset_hot, hb]; rfl
  case conventional =>
    obtain ⟨hsys, -, hchip, hall⟩ := conventionalReset_spec (linkReset s cause)
    rw [exec_conventionalReset, hb]
    refine ⟨_, rfl, ?_⟩
    simp only [Option.isSome_none, Bool.false_eq_true, if_false, hsys, hchip, hall, implies_true, and_true, true_and]
    exact ⟨fun hc => by simp [linkReset, hc], fun hc => by simp [linkReset, hc]⟩
  case later =>
    rw [exec_conventionalReset, if_pos (Option.isSome_iff_ne_none.mpr hb)]
    exact ⟨_, rfl, rfl, fun hc => by simp [linkReset, hc], rfl, fun g => rfl⟩
  case done =>
    have honly := finishFnReset_fnOnly hres
    refine ⟨_, rfl, ?_⟩
    have hregs : (getFn (finishFnReset s f) f.val).resetting = false ∧ (getFn (finishFnReset s f) f.val).session = none ∧
        (getFn (finishFnReset s f) f.val).error = 0 ∧ (getFn (finishFnReset s f) f.val).dbEnable = false ∧
        (getFn (finishFnReset s f) f.val).quiesce = false ∧
        ((getFn s f.val).softReset = true →
          (getFn (finishFnReset s f) f.val).irqCause = 8 ∧ (getFn (finishFnReset s f) f.val).msixTable = (getFn s f.val).msixTable) ∧
        ((getFn s f.val).softReset = false → getFn (finishFnReset s f) f.val = Fn.reset) := by
      cases hsoft : (getFn s f.val).softReset with
      | true =>
        obtain ⟨_, _, _, hfn⟩ := getFn_finishFnReset_soft hres hsoft
        rw [hfn]
        exact ⟨rfl, rfl, rfl, rfl, rfl, fun _ => ⟨rfl, rfl⟩, fun h => nomatch h⟩
      | false =>
        rw [getFn_finishFnReset_hard hres hsoft]
        exact ⟨rfl, rfl, rfl, rfl, rfl, (nomatch ·), fun _ => rfl⟩
    have htills : ∀ k, k < 3 → (getTill (finishFnReset s f) (fnTill f.val k)).state = .running ∧
        (getTill (finishFnReset s f) (fnTill f.val k)).used = 0 ∧ (getTill (finishFnReset s f) (fnTill f.val k)).kind = BitVec.ofNat 3 k := by
      intro k hk
      rw [honly.getTill, getTill_freshFnTills _ f hk]
      exact ⟨rfl, Till.used_refreshed .., rfl⟩
    obtain ⟨h1, h2, h3, h4, h5, h6, h7⟩ := hregs
    exact ⟨h1, h2, h3, h4, h5, h6, h7, htills, honly.work⟩

end Sys2Proof.Machine
end

section
/-! Writes of MW0 and accesses of MW4, failed device reads, the link and VF Enable (15 R386-R390, R409-R411). -/

namespace Sys2Proof.Machine
set_option Elab.async false -- one proof at a time, for the memory of the check

/-! ### Whole writes of MW0 -/

section Mw0
variable {s : State} {f : Fin 32} (hs : served s f.val = true)
include hs

theorem exec_registerWrite_mw0 (o : Nat) (data : List Byte) :
    exec (.registerWrite f .mw0 o data false) s = .next (mw0Write f (o % 0x10000) data s) := by
  change execRegisterWrite f .mw0 o data false s = _
  simp only [execRegisterWrite, hs]
  rfl

theorem exec_registerWrite_poisoned (o : Nat) (data : List Byte) :
    exec (.registerWrite f .mw0 o data true) s = .next (emit (setError s f.val errPoison 0 o) (.aer f.val "poisoned")) := by
  change execRegisterWrite f .mw0 o data true s = _
  simp only [execRegisterWrite, hs]
  rfl

end Mw0

theorem mw0Write_word {f : Fin 32} {o : Nat} (ho : o % 4 = 0) (hd : inDoorbells o = false) (v : BitVec 32) (s : State) :
    mw0Write f o (leBytes 4 v.toNat) s = mw0Store f o v.toNat s := by
  have hv : leNat (leBytes 4 v.toNat) = v.toNat := by
    rw [leNat_leBytes]
    exact Nat.mod_eq_of_lt v.isLt
  simp only [mw0Write, mw0Piece, leBytes_length, ho, hd, hv]
  rfl

theorem inDoorbells_of_lt {o : Nat} (h : o < 0x1000) : inDoorbells o = false := by
  simp only [inDoorbells, decide_eq_false_iff_not]
  omega

theorem mw0Write_doorbell {f : Fin 32} {d : Nat} (hd : d < 512) (v : BitVec 64) (s : State) :
    mw0Write f (0x1000 + 8 * d) (leBytes 8 v.toNat) s = ringDoorbell s f.val d v := by
  have hin : inDoorbells (0x1000 + 8 * d) = true := decide_eq_true (by omega)
  have halign : (0x1000 + 8 * d) % 8 = 0 := by omega
  have hindex : (0x1000 + 8 * d - 0x1000) / 8 = d := by omega
  have hv : BitVec.ofNat 64 (leNat (leBytes 8 v.toNat)) = v := by
    rw [leNat_leBytes, show v.toNat % 256 ^ 8 = v.toNat from Nat.mod_eq_of_lt v.isLt, BitVec.ofNat_toNat, BitVec.setWidth_eq]
  simp only [mw0Write, mw0Piece, leBytes_length, halign, hin, hindex, hv]
  rfl

theorem mw0Write_across {f : Fin 32} {o : Nat} {data : List Byte} (hlen : 0 < data.length) (h8 : data.length ≤ 8)
    (hwhole : ¬ (data.length = 8 ∧ o % 8 = 0)) (h : 4 < o % 4 + data.length) (s : State) :
    mw0Write f o data s = setError s f.val errAlign 0 o := by
  rw [mw0Write, if_neg (by omega), if_neg (by omega), if_neg hwhole, if_pos h]

theorem mw0Write_narrow {f : Fin 32} {o : Nat} {data : List Byte} (ho : o < 0x1000) (hlen : 0 < data.length) (h4 : data.length < 4)
    (h : o % 4 + data.length ≤ 4) (s : State) :
    mw0Write f o data s = setError s f.val errWidth 0 o := by
  rw [mw0Write, if_neg (by omega), if_neg (by omega), if_neg (by omega), if_neg (by omega), mw0Piece, inDoorbells_of_lt ho]
  rw [if_neg (by simp), if_neg (by omega), if_neg (by omega)]

/-! ### Accesses of MW4 -/

/-- A byte of a partition as MW4 reads it: all ones where no page is mapped. -/
def mw4Byte (s : State) (q : Part) (x : Nat) : Byte :=
  match q.phys x with
  | some a => Mem.read s.work.hbm a
  | none => 0xFF

theorem mw4Byte_of_phys {s : State} {q : Part} {x a : Nat} (h : q.phys x = some a) : mw4Byte s q x = Mem.read s.work.hbm a := by
  unfold mw4Byte
  rw [h]

theorem mw4Bytes_eq (s : State) (q : Part) (a n : Nat) :
    mw4Bytes s (some q) a n = (List.range n).map fun k => mw4Byte s q (a + k) := by
  induction n generalizing a with
  | zero => rfl
  | succ n ih =>
    rw [mw4Bytes, ih, List.range_succ_eq_map, List.map_cons, List.map_map]
    congr 1
    exact List.map_congr_left fun k _ => by simp only [Function.comp, Nat.succ_eq_add_one, Nat.add_assoc, Nat.add_comm 1 k]

theorem phys_within {q : Part} {a : Nat} (h : (q.phys a).isSome = true) : a / pageBytes < q.allot.length := by
  unfold Part.phys at h
  split at h
  · rw [Option.isSome_map] at h
    simpa using h
  · simp at h

/-- An access that falls on mapped pages alone raises no error. -/
theorem mw4Check_of_mapped {q : Part} {a n : Nat} (h : ∀ k, k < n → (q.phys (a + k)).isSome = true) (s : State) (f : Nat) :
    mw4Check s (some q) f a n = s := by
  have hmapped : ((List.range n).any fun k => (mw4Phys (some q) (a + k)).isNone) = false := by
    rw [List.any_eq_false]
    intro k hk
    simpa [mw4Phys, ← Option.isSome_iff_ne_none] using h k (List.mem_range.mp hk)
  have hinside : ((some q).any fun q => (List.range n).any fun k => decide (q.allot.length ≤ (a + k) / pageBytes)) = false := by
    rw [Option.any_some, List.any_eq_false]
    intro k hk
    simpa using phys_within (h k (List.mem_range.mp hk))
  simp only [mw4Check, hmapped, hinside]
  rfl

/-- Raising an error keeps the errors that stand. -/
theorem setError_keeps_bit {s : State} {f i : Nat} (b window offset : Nat) (h : (getFn s f).error.getLsbD i = true) :
    (getFn (setError s f b window offset) f).error.getLsbD i = true := by
  unfold setError
  dsimp only
  split
  · exact h
  · rw [raiseCause_error, getFn_updFn_self]
    split <;> rw [BitVec.getLsbD_or, h, Bool.true_or]

theorem setError_emits (s : State) (f b window offset : Nat) : Emits s (setError s f b window offset) := by
  unfold setError
  exact .ite (.refl s) ((updFn_emits ..).trans (setIrq_emits ..))

/-- An access that falls on an unmapped page sets FN_ERROR.UNMAPPED. -/
theorem mw4Check_of_unmapped {q : Part} {a n : Nat} (h : ∃ k, k < n ∧ q.phys (a + k) = none) (s : State) (f : Nat) :
    (getFn (mw4Check s (some q) f a n) f).error.getLsbD errUnmapped = true := by
  obtain ⟨k, hk, hnone⟩ := h
  have hunmapped : ((List.range n).any fun k => (mw4Phys (some q) (a + k)).isNone) = true :=
    List.any_eq_true.mpr ⟨k, List.mem_range.mpr hk, by simp [mw4Phys, hnone]⟩
  unfold mw4Check
  dsimp only
  rw [if_pos hunmapped]
  split
  · exact setError_keeps_bit _ _ _ (setError_bit s f 4 a (by decide))
  · exact setError_bit s f 4 a (by decide)

theorem mw4Check_fnOnly (s : State) (q : Option Part) (f a n : Nat) : FnOnly f s (mw4Check s q f a n) := by
  unfold mw4Check
  dsimp only
  split <;> split
  · exact (setError_fnOnly ..).trans (setError_fnOnly ..)
  · exact setError_fnOnly ..
  · exact setError_fnOnly ..
  · exact .refl ..

theorem mw4Check_emits (s : State) (q : Option Part) (f a n : Nat) : Emits s (mw4Check s q f a n) := by
  unfold mw4Check
  dsimp only
  split <;> split
  · exact (setError_emits ..).trans (setError_emits ..)
  · exact setError_emits ..
  · exact setError_emits ..
  · exact .refl s

/-- A byte that no byte of the access falls on is kept. -/
theorem mw4Store_other {q : Part} {x : Nat} (data : List Byte) (a : Nat) (m : Mem) (h : ∀ k, k < data.length → q.phys (a + k) ≠ some x) :
    Mem.read (mw4Store (some q) a m data) x = Mem.read m x := by
  induction data generalizing a m with
  | nil => rfl
  | cons b bs ih =>
    have hrest : ∀ k, k < bs.length → q.phys (a + 1 + k) ≠ some x := fun k hk => by
      have := h (k + 1) (by simpa using hk)
      rwa [Nat.add_comm k 1, ← Nat.add_assoc] at this
    have hhere : q.phys a ≠ some x := h 0 (by simp)
    rw [mw4Store, ih (a + 1) _ hrest]
    cases hp : mw4Phys (some q) a with
    | none => rfl
    | some y =>
      have hy : q.phys a = some y := hp
      exact Mem.read_write_other _ _ fun hxy => hhere (hxy ▸ hy)

/-- The last byte of the access that falls on a byte is what it holds. -/
theorem mw4Store_last {q : Part} {x : Nat} (data : List Byte) (a : Nat) (m : Mem) {k : Nat} (hk : k < data.length) (hx : q.phys (a + k) = some x)
    (hlast : ∀ l, k < l → l < data.length → q.phys (a + l) ≠ some x) :
    Mem.read (mw4Store (some q) a m data) x = nth 0 data k := by
  induction data generalizing a m k with
  | nil => simp at hk
  | cons b bs ih =>
    have hshift (l : Nat) : a + 1 + l = a + (l + 1) := by omega
    cases k with
    | zero =>
      have hp : mw4Phys (some q) a = some x := hx
      rw [mw4Store, mw4Store_other bs (a + 1) _ fun l hl => by rw [hshift]; exact hlast (l + 1) (by omega) (by simpa using hl), hp]
      exact Mem.read_write_self ..
    | succ k =>
      rw [mw4Store, ih (a + 1) _ (by simpa using hk) (by rw [hshift]; exact hx) fun l hl hlen => by
        rw [hshift]; exact hlast (l + 1) (by omega) (by simpa using hlen)]
      rfl

section Mw4
variable {s : State} {f : Fin 32} (hs : served s f.val = true)
include hs

/-- Where MW4 is served. -/
theorem served_mw4 : ¬ (¬ s.sys.clocks = true ∨ ¬ present s f.val = true ∨ (getFn s f.val).resetting = true ∨
    (f.val = 0 ∧ s.host.chip.d3hot = true)) := by
  simp only [served, Bool.and_eq_true, Bool.not_eq_true', Bool.and_eq_false_iff, decide_eq_false_iff_not] at hs
  obtain ⟨⟨⟨⟨-, hclocks⟩, hpresent⟩, hfree⟩, hd3⟩ := hs
  simp only [hclocks, hpresent, hfree, not_true_eq_false, Bool.false_eq_true, false_or, not_and]
  intro hf hhot
  rcases hd3 with hd3 | hd3
  · exact hd3 hf
  · exact absurd hhot (by simp [hd3])

theorem exec_mw4_read (a n : Nat) :
    exec (.mw4Access f a (.read n none)) s =
      .next (emit (mw4Check s (presented s f.val) f.val a n) (.readData f.val (mw4Bytes s (presented s f.val) a n))) := by
  change execMw4Access f a (.read n none) s = _
  rw [execMw4Access, if_neg (served_mw4 hs)]

theorem exec_mw4_write (a : Nat) (data : List Byte) :
    exec (.mw4Access f a (.write data false)) s =
      .next (mw4Check (updWork s fun w => { w with hbm := mw4Store (presented s f.val) a w.hbm data }) (presented s f.val) f.val a data.length) := by
  change execMw4Access f a (.write data false) s = _
  rw [execMw4Access, if_neg (served_mw4 hs)]
  rfl

end Mw4

/-! ### The device's reads, and VF Enable -/

theorem readFails_of_loading {s : State} {svc page : Nat} {v : Svc} (hv : getSvc s svc = some v) (hl : v.loading = some page) (what : String) :
    readFails s (.reload svc page) what = emit (losePage s svc page) (.aer v.overflowFn what) := by
  simp only [readFails, hv, hl, if_true]

theorem exec_vfEnable_same {s : State} {n : Nat} (hn : s.host.chip.numVFs = min n 31) :
    exec (.vfEnable n) s = .next (updChip s fun c => { c with vfEnable := true, numVFs := min n 31 }) := by
  change execVfEnable n s = _
  rw [execVfEnable]
  dsimp only
  rw [if_neg (by simp [hn])]

theorem exec_vfEnable_changed {s : State} {n : Nat} (he : s.host.chip.vfEnable = true) (hn : s.host.chip.numVFs ≠ min n 31) :
    exec (.vfEnable n) s = .next (updChip (resetVfs s (allFns.filter fun g => present s g.val)) fun c =>
      { c with vfEnable := true, numVFs := min n 31 }) := by
  change execVfEnable n s = _
  rw [execVfEnable]
  dsimp only
  rw [if_pos ⟨he, hn⟩]

theorem exec_vfEnable_first {s : State} {n : Nat} (he : s.host.chip.vfEnable = false) :
    exec (.vfEnable n) s = .next (updChip s fun c => { c with vfEnable := true, numVFs := min n 31 }) := by
  change execVfEnable n s = _
  rw [execVfEnable]
  dsimp only
  rw [if_neg (by simp [he])]

/-- Settles O37, access by access. -/
theorem registerWritesReachTheirRegisters : Obligations.RegisterWritesReachTheirRegisters := by
  unfold Obligations.RegisterWritesReachTheirRegisters
  intro s f
  refine ⟨fun hs => ⟨fun v => ⟨?registers, fun hf => ?chipLock⟩, fun d v hd => ?doorbell, fun o data ho hlen h8 hwhole => ?pieces,
      exec_registerWrite_poisoned hs, fun a q hq => ⟨fun n hmapped => ?read, fun n hunmapped => ?holes, fun data hmapped => ?write⟩⟩,
    fun g => ⟨rfl, rfl⟩, fun hp => ?linkUp, fun svc page v hv hl => ?reload, fun n he hn => ?same, fun n he hn => ?changed,
    fun n => exec_vfEnable_first, fun on => rfl⟩
  case registers =>
    simp only [List.forall_mem_cons, exec_registerWrite_mw0 hs]
    refine ⟨⟨_, rfl, ?_⟩, ⟨_, rfl, ?_⟩, ⟨_, rfl, ?_⟩, ⟨_, rfl, ?_⟩, ⟨_, rfl, ?_⟩, by simp⟩
    · rw [exec_fnErrorClear hs, mw0Write_word rfl rfl]; rfl
    · rw [exec_irqCauseClear hs, mw0Write_word rfl rfl]; rfl
    · rw [exec_irqMaskWrite hs, mw0Write_word rfl rfl]; rfl
    · rw [exec_ledgerLatch hs, mw0Write_word rfl rfl]; rfl
    · rw [exec_tallySelect hs, mw0Write_word rfl rfl]; rfl
  case chipLock =>
    rw [exec_registerWrite_mw0 hs]
    refine ⟨_, rfl, ?_⟩
    rw [exec_chipLock hs, mw0Write_word rfl rfl]
    rfl
  case doorbell =>
    have ho : (0x1000 + 8 * d) % 0x10000 = 0x1000 + 8 * d := Nat.mod_eq_of_lt (by omega)
    rw [exec_registerWrite_mw0 hs, ho, mw0Write_doorbell hd]
    exact ⟨_, rfl, exec_producerDoorbell hs hd, exec_consumerDoorbell hs hd⟩
  case pieces =>
    have ho' : o % 0x10000 = o := Nat.mod_eq_of_lt (by omega)
    rw [exec_registerWrite_mw0 hs, ho']
    exact ⟨fun h => by rw [mw0Write_across hlen h8 hwhole h], fun h4 h => by rw [mw0Write_narrow ho hlen h4 h]⟩
  case read =>
    rw [exec_mw4_read hs, hq, mw4Check_of_mapped hmapped, mw4Bytes_eq]
    congr 3
    refine List.map_congr_left fun k hk => ?_
    obtain ⟨x, hx⟩ := Option.isSome_iff_exists.mp (hmapped k (List.mem_range.mp hk))
    rw [mw4Byte_of_phys hx, hx, Option.getD_some]
  case holes =>
    obtain ⟨more, hmore⟩ := (mw4Check_emits s (some q) f.val a n).sent
    rw [exec_mw4_read hs, hq]
    refine ⟨_, more, rfl, (mw4Check_fnOnly ..).work, mw4Check_of_unmapped hunmapped s f.val, ?_⟩
    rw [mw4Bytes_eq, emit, ← hmore]
    congr 1
  case write =>
    rw [exec_mw4_write hs, hq, mw4Check_of_mapped hmapped]
    exact ⟨_, rfl, rfl, rfl, fun x hx => mw4Store_other data a _ hx, fun k x hk hx hlast => mw4Store_last data a _ hk hx hlast⟩
  case linkUp =>
    change ∃ t, execPcieLinkUp s = .next t ∧ _
    rw [execPcieLinkUp, if_pos hp]
    exact ⟨_, rfl, rfl, rfl, rfl, rfl⟩
  case reload => exact ⟨congrArg Host.Outcome.next (readFails_of_loading hv hl _), congrArg Host.Outcome.next (readFails_of_loading hv hl _)⟩
  case same =>
    rw [exec_vfEnable_same hn]
    refine ⟨_, rfl, ?_, rfl⟩
    rw [updChip_host, ← he, ← hn]
  case changed =>
    rw [exec_vfEnable_changed he hn]
    exact ⟨_, rfl, rfl, rfl, fun g hg hp => by rw [getFn_updChip]; exact resetVfs_resetting hg hp⟩

end Sys2Proof.Machine
end

section
/-! MESSAGE_TAKE: whether the tellers take a message, and the command that it is (15 R406, R407; 16 R417-R420, R430; 19 R498). -/

namespace Sys2Proof.Machine
set_option Elab.async false -- one proof at a time, for the memory of the check

/-! ### Whether the tellers take a message -/

theorem takeCommand_of_mayNot {s : State} {m : Msg} (h : mayTake s m = false) (op : Nat) (entry : Option (Nat × (Nat → Bool) × Carry)) :
    takeCommand op entry m s = none := by
  rw [takeCommand, if_pos (by simp [h])]

/-- A message that the tellers may take is taken: it is refused, held or carried out. -/
theorem takeCommand_of_may {s : State} {m : Msg} (h : mayTake s m = true) (op : Nat) (entry : Option (Nat × (Nat → Bool) × Carry)) :
    ∃ u, takeCommand op entry m s = some u := by
  unfold takeCommand
  rw [if_neg (by simp [h])]
  dsimp only
  generalize firstFail _ = early
  generalize openTicket _ _ _ _ = t
  split
  · split <;> exact ⟨_, rfl⟩
  · exact ⟨_, rfl⟩

/-- A request of a client is taken as a command, of a service or of none. -/
theorem takeRequest_eq (op : Nat) (len : List Byte → Nat) (key : Ctx → Svc → Option Nat) (act : Request) (m : Msg) (s : State) :
    ∃ entry, takeRequest op len key act m s = takeCommand op entry m s := by
  unfold takeRequest
  split
  · exact ⟨_, rfl⟩
  · exact ⟨_, rfl⟩

/-- A message of any opcode is taken as a command. -/
theorem takeMessage_eq (op : Nat) (m : Msg) (s : State) : ∃ op' entry, takeMessage op m s = takeCommand op' entry m s := by
  unfold takeMessage
  split
  · split
    · exact ⟨_, takeRequest_eq ..⟩
    · exact ⟨_, takeRequest_eq ..⟩
    · exact ⟨_, takeRequest_eq ..⟩
    · exact ⟨_, takeRequest_eq ..⟩
    · exact ⟨_, takeRequest_eq ..⟩
    · exact ⟨_, _, rfl⟩
  · exact ⟨_, _, rfl⟩

theorem takeMessage_of_mayNot {s : State} {m : Msg} (h : mayTake s m = false) (op : Nat) : takeMessage op m s = none := by
  obtain ⟨op', entry, heq⟩ := takeMessage_eq op m s
  rw [heq, takeCommand_of_mayNot h]

theorem takeMessage_of_may {s : State} {m : Msg} (h : mayTake s m = true) (op : Nat) : ∃ u, takeMessage op m s = some u := by
  obtain ⟨op', entry, heq⟩ := takeMessage_eq op m s
  rw [heq]
  exact takeCommand_of_may h op' entry

theorem takeMessage_of_fn {m : Msg} {f : Fin 32} (h : m.src = .fn f) (op : Nat) (s : State) :
    takeMessage op m s = takeCommand op (hostOp op) m s := by
  unfold takeMessage
  rw [h]

/-! ### MESSAGE_TAKE -/

/-- The message of a till that the tellers read, of k slots. -/
def tillMessage (s : State) (n k : Nat) : Nat × Msg :=
  parseMsg (tillSource s (getTill s n)) (some n) ((getTill s n).slotsFrom s.host.tillMem k)

/-- The LENGTH of the message at CONS of a till. -/
def headLength (s : State) (n : Nat) : Nat := imgLe ((getTill s n).slotsFrom s.host.tillMem 1) 4 2

/-- A till that the tellers read, and that holds something. -/
structure Offers (s : State) (n : Nat) : Prop where
  running : (getTill s n).state = .running
  kind : (getTill s n).kind = 0 ∨ (getTill s n).kind = 4
  used : (getTill s n).used ≠ 0

theorem Offers.open {s : State} {n : Nat} (h : Offers s n) :
    ¬ ((getTill s n).state ≠ .running ∨ ((getTill s n).kind ≠ 0 ∧ (getTill s n).kind ≠ 4) ∨ (getTill s n).used = 0) := by
  rintro (hs | ⟨h0, h4⟩ | hu)
  · exact hs h.running
  · exact h.kind.elim h0 h4
  · exact h.used hu

theorem exec_messageTake_of_closed {s : State} {n : Nat}
    (h : (getTill s n).state ≠ .running ∨ ((getTill s n).kind ≠ 0 ∧ (getTill s n).kind ≠ 4) ∨ (getTill s n).used = 0) :
    exec (.messageTake n) s = .next s := by
  change execMessageTake n s = _
  rw [execMessageTake]
  dsimp only
  rw [if_pos h]

theorem exec_messageTake_badLength {s : State} {n : Nat} (h : Offers s n) (hl : lengthOk (headLength s n) = false) :
    exec (.messageTake n) s = .next ((takeMessage (tillMessage s n 1).1 (tillMessage s n 1).2 s).getD s) := by
  unfold headLength at hl
  change execMessageTake n s = _
  rw [execMessageTake]
  dsimp only
  rw [if_neg h.open, if_pos (by simp [hl])]
  rfl

/-- A message that is not complete yet stays. -/
theorem exec_messageTake_partial {s : State} {n : Nat} (h : Offers s n) (hl : lengthOk (headLength s n) = true)
    (hk : (getTill s n).used < ceilDiv (headLength s n) 64) :
    exec (.messageTake n) s = .next s := by
  unfold headLength at hl hk
  change execMessageTake n s = _
  rw [execMessageTake]
  dsimp only
  rw [if_neg h.open, if_neg (by simp [hl]), if_pos hk]

/-- A complete message is taken off the till. -/
theorem exec_messageTake_complete {s : State} {n : Nat} (h : Offers s n) (hl : lengthOk (headLength s n) = true)
    (hk : ceilDiv (headLength s n) 64 ≤ (getTill s n).used) :
    exec (.messageTake n) s =
      (let k := ceilDiv (headLength s n) 64
       let p := tillMessage s n k
       .next (if slotsBad s (getTill s n) k then (takeBad p.1 p.2 (passSlots s n k)).getD s
         else (takeMessage p.1 p.2 (passSlots s n k)).getD s)) := by
  unfold headLength at *
  change execMessageTake n s = _
  rw [execMessageTake]
  dsimp only
  rw [if_neg h.open, if_neg (by simp [hl]), if_neg (Nat.not_lt.mpr hk)]
  rfl

/-- A message that the tellers may not take stays. -/
theorem exec_messageTake_of_mayNot {s : State} {n : Nat} (h : Offers s n) (hl : lengthOk (headLength s n) = true)
    (hm : mayTake (passSlots s n (ceilDiv (headLength s n) 64)) (tillMessage s n (ceilDiv (headLength s n) 64)).2 = false) :
    exec (.messageTake n) s = .next s := by
  rcases Nat.lt_or_ge (getTill s n).used (ceilDiv (headLength s n) 64) with hk | hk
  · exact exec_messageTake_partial h hl hk
  · rw [exec_messageTake_complete h hl hk]
    dsimp only
    split
    · rw [takeBad, if_pos (by simp [hm])]; rfl
    · rw [takeMessage_of_mayNot hm]; rfl

/-- A message with an uncorrectable slot is a command that completes with E_FAULT. -/
theorem exec_messageTake_bad {s : State} {n : Nat} (h : Offers s n) (hl : lengthOk (headLength s n) = true)
    (hk : ceilDiv (headLength s n) 64 ≤ (getTill s n).used) (hbad : slotsBad s (getTill s n) (ceilDiv (headLength s n) 64) = true)
    (hm : mayTake (passSlots s n (ceilDiv (headLength s n) 64)) (tillMessage s n (ceilDiv (headLength s n) 64)).2 = true) :
    exec (.messageTake n) s =
      (let k := ceilDiv (headLength s n) 64
       let p := tillMessage s n k
       let w := passSlots s n k
       .next (finish (openTicket w p.1 p.2 (replyTill w { p.2 with reply := 0 }).1) w.host.nextTicket (Done.of eFault))) := by
  rw [exec_messageTake_complete h hl hk]
  dsimp only
  rw [if_pos hbad, takeBad, if_neg (by simp [hm])]
  rfl

/-- A complete message without such a slot is taken as what its opcode stands for. -/
theorem exec_messageTake_good {s : State} {n : Nat} (h : Offers s n) (hl : lengthOk (headLength s n) = true)
    (hk : ceilDiv (headLength s n) 64 ≤ (getTill s n).used) (hgood : slotsBad s (getTill s n) (ceilDiv (headLength s n) 64) = false)
    (hm : mayTake (passSlots s n (ceilDiv (headLength s n) 64)) (tillMessage s n (ceilDiv (headLength s n) 64)).2 = true) :
    exec (.messageTake n) s =
      (let k := ceilDiv (headLength s n) 64
       let p := tillMessage s n k
       let w := passSlots s n k
       .next ((takeMessage p.1 p.2 w).getD w)) := by
  obtain ⟨u, hu⟩ := takeMessage_of_may hm (tillMessage s n (ceilDiv (headLength s n) 64)).1
  rw [exec_messageTake_complete h hl hk]
  dsimp only
  rw [if_neg (by simp [hgood]), hu]
  rfl

theorem exec_messageTake_badLength_of_mayNot {s : State} {n : Nat} (h : Offers s n) (hl : lengthOk (headLength s n) = false)
    (hm : mayTake s (tillMessage s n 1).2 = false) : exec (.messageTake n) s = .next s := by
  rw [exec_messageTake_badLength h hl, takeMessage_of_mayNot hm]
  rfl

/-- A message of a bad LENGTH is taken where the tellers may. -/
theorem exec_messageTake_badLength_of_may {s : State} {n : Nat} (h : Offers s n) (hl : lengthOk (headLength s n) = false)
    (hm : mayTake s (tillMessage s n 1).2 = true) :
    ∃ u, takeMessage (tillMessage s n 1).1 (tillMessage s n 1).2 s = some u ∧ exec (.messageTake n) s = .next u := by
  obtain ⟨u, hu⟩ := takeMessage_of_may hm (tillMessage s n 1).1
  exact ⟨u, hu, by rw [exec_messageTake_badLength h hl, hu]; rfl⟩

/-- A till whose command is opened keeps its state and its indices. -/
theorem openTicket_till (s : State) (op : Nat) (m : Msg) (reply n : Nat) :
    (getTill (openTicket s op m reply) n).cons = (getTill s n).cons ∧ (getTill (openTicket s op m reply) n).state = (getTill s n).state := by
  unfold openTicket
  dsimp only
  split
  · by_cases hn : n = reply
    · rw [hn, getTill_updTill_self]; exact ⟨rfl, rfl⟩
    · rw [getTill_updTill_other _ _ hn]; exact ⟨rfl, rfl⟩
  · exact ⟨rfl, rfl⟩

theorem openTicket_work (s : State) (op : Nat) (m : Msg) (reply : Nat) : (openTicket s op m reply).work = s.work := by
  unfold openTicket
  dsimp only
  split <;> rfl

/-- The source of what a till that is not a service till holds is a function. -/
theorem tillSource_of_command {s : State} {t : Till} (h : t.kind = 0) : ∃ f, tillSource s t = .fn f := by
  unfold tillSource
  rw [if_neg (by simp [h])]
  split <;> exact ⟨_, rfl⟩

theorem tillSource_of_service {s : State} {t : Till} (h : t.kind = 4) : ∃ a, tillSource s t = .client a := by
  rw [tillSource, if_pos h]
  exact ⟨_, rfl⟩

/-- A message of a function that is taken in place of the command of its opcode. -/
theorem taken_eq_runCommand {w : State} {m : Msg} {f : Fin 32} {op since len : Nat} {carry : Carry} (hsrc : m.src = .fn f)
    (hop : hostOp op = opFixed since len carry) :
    Host.Outcome.next ((takeMessage op m w).getD w) = runCommand op since len carry m w := by
  rw [takeMessage_of_fn hsrc, hop]
  rfl

/-- The commands of one length and their opcodes. -/
def hostCommands (m : Msg) : List (Nat × Instr) :=
  [((0x0000 : Nat), Instr.hello m), (0x0001, .bye m), (0x0002, .tillConfig m), (0x0003, .tillReset m), (0x0100, .partCreate m),
   (0x0101, .partDestroy m), (0x0102, .partBind m), (0x0103, .partQuery m), (0x0200, .memMap m), (0x0201, .memUnmap m),
   (0x0202, .memQuery m), (0x0300, .jobLoad m), (0x0301, .jobStart m), (0x0302, .jobStop m), (0x0303, .jobUnload m),
   (0x0304, .planSelect m), (0x0305, .jobQuery m), (0x0400, .tallyAdd m), (0x0401, .tallyRead m), (0x0402, .tallyWait m),
   (0x0403, .tallyQuery m), (0x0500, .ledgerRead m), (0x0501, .ledgerClear m), (0x0600, .capSet m), (0x0601, .capQuery m),
   (0x0700, .timeQuery m), (0x0801, .cellStart m), (0x0802, .cellStop m), (0x0803, .cellStats m), (0x0900, .svcOpen m),
   (0x0901, .svcClose m), (0x0902, .svcQuery m), (0x0A01, .adaptPromote m), (0x0A02, .adaptRollback m), (0x0B00, .selftest m),
   (0x0B01, .fwStage m), (0x0B02, .fwActivate m), (0x0B03, .lcAdvance m), (0x0B04, .mendUpdate m), (0x0B05, .sealArm m),
   (0x0C00, .dbgHalt m), (0x0C01, .dbgStep m), (0x0C02, .dbgResume m), (0x0C03, .dbgRead m)]

/-- Each is carried out as its opcode's entry says. -/
theorem hostCommands_run (m : Msg) : ∀ e ∈ hostCommands m, ∃ since len carry, hostOp e.1 = opFixed since len carry ∧
    ∀ w, exec e.2 w = runCommand e.1 since len carry m w := by
  intro e he
  unfold hostCommands at he
  fin_cases he <;> exact ⟨_, _, _, rfl, fun _ => rfl⟩

/-- The requests of a client and their opcodes. -/
theorem sessionCommands_take (m : Msg) {a : Nat} (hsrc : m.src = .client a) :
    ∀ e ∈ [((0x0910 : Nat), Instr.sessionOpen m), (0x0911, .sessionAppend m), (0x0912, .sessionGenerate m), (0x0913, .sessionFork m),
      (0x0914, .sessionClose m)], ∀ w, exec e.2 w = .next ((takeMessage e.1 m w).getD w) := by
  intro e he w
  fin_cases he <;> (unfold takeMessage; rw [hsrc]; rfl)

/-- The source of a till's message is that of the till. -/
theorem tillMessage_src (s : State) (n k : Nat) : (tillMessage s n k).2.src = tillSource s (getTill s n) := rfl

/-- The four actions of ADAPT_CONFIG. -/
theorem exec_adapt (m : Msg) (w : State) :
    (adaptAction m = 1 → exec (.loadSlot m) w = runCommand 0x0A00 0x104 96 carryAdapt m w) ∧
    (adaptAction m = 2 → exec (.clearSlot m) w = runCommand 0x0A00 0x104 96 carryAdapt m w) ∧
    (adaptAction m = 3 → exec (.adaptQuery m) w = runCommand 0x0A00 0x104 96 carryAdapt m w) ∧
    (adaptAction m ∉ [1, 2, 3] → exec (.adaptConfig m) w = runCommand 0x0A00 0x104 96 carryAdapt m w) :=
  ⟨fun h => if_pos h, fun h => if_pos h, fun h => if_pos h, fun h => if_neg h⟩

/-- What a complete message of a till does. -/
theorem messageTake_acts {s : State} {n : Nat} (h : Offers s n) (hl : lengthOk (headLength s n) = true)
    (hk : ceilDiv (headLength s n) 64 ≤ (getTill s n).used) (hgood : slotsBad s (getTill s n) (ceilDiv (headLength s n) 64) = false)
    {p : Nat × Msg} {w : State} (hp : tillMessage s n (ceilDiv (headLength s n) 64) = p) (hw : passSlots s n (ceilDiv (headLength s n) 64) = w)
    (hm : mayTake w p.2 = true) :
    ((getTill s n).kind = 0 → ∀ e ∈ hostCommands p.2, p.1 = e.1 → exec (.messageTake n) s = exec e.2 w) ∧
    ((getTill s n).kind = 0 → p.1 = 0x0800 → exec (.messageTake n) s = exec (.fapiTunnel p.2) w) ∧
    ((getTill s n).kind = 0 → p.1 = 0x0A00 →
      (adaptAction p.2 = 1 → exec (.messageTake n) s = exec (.loadSlot p.2) w) ∧
      (adaptAction p.2 = 2 → exec (.messageTake n) s = exec (.clearSlot p.2) w) ∧
      (adaptAction p.2 = 3 → exec (.messageTake n) s = exec (.adaptQuery p.2) w) ∧
      (adaptAction p.2 ∉ [1, 2, 3] → exec (.messageTake n) s = exec (.adaptConfig p.2) w)) ∧
    ((getTill s n).kind = 0 → hostOp p.1 = none → ∃ u, takeCommand p.1 none p.2 w = some u ∧ exec (.messageTake n) s = .next u) ∧
    ((getTill s n).kind = 4 → ∀ e ∈ [((0x0910 : Nat), Instr.sessionOpen p.2), (0x0911, .sessionAppend p.2), (0x0912, .sessionGenerate p.2),
      (0x0913, .sessionFork p.2), (0x0914, .sessionClose p.2)], p.1 = e.1 → exec (.messageTake n) s = exec e.2 w) := by
  subst hp hw
  have htaken := exec_messageTake_good h hl hk hgood hm
  have hcommand (h0 : (getTill s n).kind = 0) := tillSource_of_command (s := s) h0
  dsimp only at htaken
  rw [htaken]
  refine ⟨fun h0 e he hop => ?host, fun h0 hop => ?fapi, fun h0 hop => ?adapt, fun h0 hop => ?unassigned, fun h4 e he hop => ?session⟩
  case host =>
    obtain ⟨f, hsrc⟩ := hcommand h0
    obtain ⟨since, len, carry, hentry, hrun⟩ := hostCommands_run _ e he
    rw [hop, taken_eq_runCommand hsrc hentry, hrun]
  case fapi =>
    obtain ⟨f, hsrc⟩ := hcommand h0
    rw [hop, takeMessage_of_fn hsrc]
    rfl
  case adapt =>
    obtain ⟨f, hsrc⟩ := hcommand h0
    obtain ⟨hload, hclear, hquery, hset⟩ :=
      exec_adapt (tillMessage s n (ceilDiv (headLength s n) 64)).2 (passSlots s n (ceilDiv (headLength s n) 64))
    rw [hop, taken_eq_runCommand (since := 0x104) (len := 96) (carry := carryAdapt) hsrc rfl]
    exact ⟨fun h => (hload h).symm, fun h => (hclear h).symm, fun h => (hquery h).symm, fun h => (hset h).symm⟩
  case unassigned =>
    obtain ⟨f, hsrc⟩ := hcommand h0
    obtain ⟨u, hu⟩ := takeCommand_of_may hm (tillMessage s n (ceilDiv (headLength s n) 64)).1 none
    refine ⟨u, hu, ?_⟩
    rw [takeMessage_of_fn hsrc, hop, hu]
    rfl
  case session =>
    obtain ⟨a, hsrc⟩ := tillSource_of_service (s := s) h4
    rw [hop, sessionCommands_take _ hsrc e he]

/-- Settles O56: MESSAGE_TAKE by the till's state, the message's LENGTH and its slots; each opcode's entry is its command. -/
theorem messagesActAsTheirCommands : Obligations.MessagesActAsTheirCommands := by
  unfold Obligations.MessagesActAsTheirCommands
  intro s till
  refine ⟨exec_messageTake_of_closed, fun hrun hkind hused hl => ?badLength,
    fun hrun hkind hused hl => ?complete⟩
  case badLength =>
    have hoffers : Offers s till := ⟨hrun, hkind, hused⟩
    exact ⟨exec_messageTake_badLength_of_mayNot hoffers hl, exec_messageTake_badLength_of_may hoffers hl⟩
  case complete =>
    have hoffers : Offers s till := ⟨hrun, hkind, hused⟩
    refine ⟨exec_messageTake_partial hoffers hl, exec_messageTake_of_mayNot hoffers hl, fun hk hbad hm => ?bad,
      fun hk hgood hm => messageTake_acts hoffers hl hk hgood rfl rfl hm⟩
    case bad =>
      rw [exec_messageTake_bad hoffers hl hk hbad hm]
      refine ⟨_, rfl, ?_, ?_, openTicket_work ..⟩
      · rw [(openTicket_till ..).1, passSlots, getTill_updTill_self]; rfl
      · rw [(openTicket_till ..).2, passSlots, getTill_updTill_self]; exact hrun

end Sys2Proof.Machine
end

section
/-! Cold reset, the end of a boot and the end of recovery mode (22 R556-R569). -/

namespace Sys2Proof.Machine
set_option Elab.async false -- one proof at a time, for the memory of the check

/-! ### The boot ROM -/

/-- Of the state only the security block and the system differ. -/
def SecSysOnly (s t : State) : Prop := ∃ x y, t = { s with sec := x, sys := y }

theorem SecSysOnly.refl (s : State) : SecSysOnly s s := ⟨_, _, rfl⟩
theorem SecSysOnly.trans {s t u : State} (h : SecSysOnly s t) (k : SecSysOnly t u) : SecSysOnly s u := by
  obtain ⟨_, _, rfl⟩ := h
  obtain ⟨_, _, rfl⟩ := k
  exact ⟨_, _, rfl⟩

theorem updSec_secSysOnly (s : State) (f : Sec → Sec) : SecSysOnly s (updSec s f) := ⟨_, _, rfl⟩
theorem updSys_secSysOnly (s : State) (f : Sys → Sys) : SecSysOnly s (updSys s f) := ⟨_, _, rfl⟩

/-- What a boot leaves of the security block: part, factory map and stage in fuses, the two slots, the window, the keys, the jumper. -/
def Sec.bootKept (x : Sec) : (BitVec 8 × List UnitId × Nat) × (FwSlot × FwSlot) × Bool × Tbl Sak × Bool :=
  ((x.fuses.part, x.fuses.factory, x.fuses.stage), (x.slotA, x.slotB), x.window, x.saks, x.jumper)

/-- The owner seed that a boot leaves: it goes with the stage RETURNED. -/
def Sec.ownerKept (x : Sec) : Option (BitVec 256) := if x.fuses.stage = 4 then none else x.ownerSeed

theorem checkRetention_kept (s : State) (cold : Bool) :
    (checkRetention s cold).sec.bootKept = s.sec.bootKept ∧ (checkRetention s cold).sec.ownerSeed = s.sec.ownerSeed := by
  unfold checkRetention
  rw [updSec_sec]
  dsimp only
  split <;> exact ⟨rfl, rfl⟩

theorem bootLife_kept (s : State) : (bootLife s).sec.bootKept = s.sec.bootKept ∧ (bootLife s).sec.ownerSeed = s.sec.ownerKept := by
  unfold bootLife Sec.ownerKept
  rw [updSec_sec]
  dsimp only
  split <;> split <;> exact ⟨rfl, rfl⟩

theorem writeCommit_kept (s : State) (c : Commit) :
    (writeCommit s c).sec.bootKept = s.sec.bootKept ∧ (writeCommit s c).sec.ownerSeed = s.sec.ownerSeed := by
  unfold writeCommit
  rw [updSec_sec]
  split <;> exact ⟨rfl, rfl⟩

theorem writeCommit_secSysOnly (s : State) (c : Commit) : SecSysOnly s (writeCommit s c) := by
  unfold writeCommit
  exact updSec_secSysOnly s _

theorem chooseSlot_kept (s : State) :
    (chooseSlot s).1.sec.bootKept = s.sec.bootKept ∧ (chooseSlot s).1.sec.ownerSeed = s.sec.ownerSeed ∧ SecSysOnly s (chooseSlot s).1 := by
  have hwrite (t : State) (c : Commit) (h : t.sec.bootKept = s.sec.bootKept ∧ t.sec.ownerSeed = s.sec.ownerSeed ∧ SecSysOnly s t) :
      (writeCommit t c).sec.bootKept = s.sec.bootKept ∧ (writeCommit t c).sec.ownerSeed = s.sec.ownerSeed ∧ SecSysOnly s (writeCommit t c) :=
    ⟨(writeCommit_kept t c).1.trans h.1, (writeCommit_kept t c).2.trans h.2.1, h.2.2.trans (writeCommit_secSysOnly t c)⟩
  have hself : s.sec.bootKept = s.sec.bootKept ∧ s.sec.ownerSeed = s.sec.ownerSeed ∧ SecSysOnly s s := ⟨rfl, rfl, .refl s⟩
  unfold chooseSlot
  dsimp only
  split
  · split
    · exact hwrite _ _ (hwrite _ _ hself)
    · exact hwrite _ _ hself
  split
  · exact hwrite _ _ hself
  · exact hself

/-- The state in which the boot ROM chooses the slot. -/
def bootChosen (s : State) (cold : Bool) : State := (chooseSlot (bootLife (checkRetention s cold))).1

theorem bootChosen_kept (s : State) (cold : Bool) : (bootChosen s cold).sec.bootKept = s.sec.bootKept ∧
    (bootChosen s cold).sec.ownerSeed = s.sec.ownerKept ∧ SecSysOnly s (bootChosen s cold) := by
  obtain ⟨hret, hretOwner⟩ := checkRetention_kept s cold
  obtain ⟨hlife, hlifeOwner⟩ := bootLife_kept (checkRetention s cold)
  obtain ⟨hslot, hslotOwner, honly⟩ := chooseSlot_kept (bootLife (checkRetention s cold))
  have howner : (checkRetention s cold).sec.ownerKept = s.sec.ownerKept := by
    simp only [Sec.bootKept, Prod.mk.injEq] at hret
    obtain ⟨⟨-, -, hstage⟩, -⟩ := hret
    rw [Sec.ownerKept, hstage, hretOwner, Sec.ownerKept]
  exact ⟨hslot.trans (hlife.trans hret), hslotOwner.trans (hlifeOwner.trans howner),
    ((updSec_secSysOnly s _).trans (updSec_secSysOnly _ _)).trans honly⟩

/-- What every boot does and leaves. -/
structure Boots (s t : State) : Prop where
  only : SecSysOnly s t
  kept : t.sec.bootKept = s.sec.bootKept
  owner : t.sec.ownerSeed = s.sec.ownerKept
  boot : t.sys.boot.isSome = true
  ready : s.sys.ready = false → t.sys.ready = false

theorem chooseSlot_sys (s : State) : (chooseSlot s).1.sys = s.sys := by
  unfold chooseSlot
  dsimp only
  split
  · split <;> rfl
  split <;> rfl

theorem bootRom_boots (s : State) (cold : Bool) : Boots s (bootRom s cold) := by
  obtain ⟨hkept, howner, honly⟩ := bootChosen_kept s cold
  have hsys : (bootChosen s cold).sys = s.sys := chooseSlot_sys _
  unfold bootRom
  dsimp only
  rw [← bootChosen]
  generalize (chooseSlot (bootLife (checkRetention s cold))).2 = r
  generalize (if (slotFails (bootChosen s cold) (slotOf (bootChosen s cold) r.1)).isSome = true then !r.1 else r.1) = slot
  split
  · exact ⟨honly.trans (updSys_secSysOnly ..), hkept, howner, rfl, fun _ => rfl⟩
  · exact ⟨(honly.trans (updSec_secSysOnly ..)).trans (updSys_secSysOnly ..), hkept, howner, rfl, fun h => (congrArg Sys.ready hsys).trans h⟩

/-! ### Cold reset -/

/-- What a cold reset starts the boot ROM with. -/
def coldStart (s : State) (strap : Bool) (aon : BitVec 32) : State :=
  { State.reset with
    sec := coldSec s.sec strap aon
    rel := coldRel s.rel
    optics := { State.reset.optics with wear := s.optics.flash, flash := s.optics.flash }
    net := { State.reset.net with macBase := s.net.macBase, relne := { State.reset.net.relne with identity := s.net.relne.identity } }
    sys := { State.reset.sys with version := s.sys.version, boardFlash := s.sys.boardFlash }
    sent := s.sent, pending := s.pending }

/-- Device time taken from the always-on clock, where that is valid. -/
def timeFromAon (s : State) : State :=
  if s.sec.aonValid then updTiming s fun t => { t with time := mkTime (s.sec.aonS.toNat * 1000000000) 0 } else s

theorem coldReset_eq (s : State) (strap : Bool) (aon : BitVec 32) :
    coldReset s strap aon = updRel (timeFromAon (bootRom (coldStart s strap aon) true)) fun r =>
      { r with since := nowNs (timeFromAon (bootRom (coldStart s strap aon) true)) } := by
  unfold coldReset timeFromAon coldStart
  rfl

/-- Of the state only device time differs. -/
theorem timeFromAon_frame (s : State) : ∃ t, timeFromAon s = updTiming s t := by
  unfold timeFromAon
  split
  · exact ⟨_, rfl⟩
  · exact ⟨id, rfl⟩

/-- The state after a cold reset is the one that it starts the boot ROM with, but for the security block, the system, device time and the
time that testing began. -/
theorem coldReset_frame (s : State) (strap : Bool) (aon : BitVec 32) :
    ∃ f g, coldReset s strap aon = updRel (updTiming (bootRom (coldStart s strap aon) true) f) fun r => { r with since := g } := by
  obtain ⟨f, hf⟩ := timeFromAon_frame (bootRom (coldStart s strap aon) true)
  exact ⟨f, nowNs (updTiming (bootRom (coldStart s strap aon) true) f), by rw [coldReset_eq, hf]⟩

/-! ### The end of a boot -/

/-- What a boot does before it reaches READY. -/
def bootWork (s : State) (b : Boot) (r : BootReport) : State :=
  let s := if b = .cold then coldBoot s r else s
  let s := settleRinses s
  let s := r.crossings.foldl coreFails s
  let s := if b = .cold then s else settleRounds (settleServices (abortWaiting (endAllRuns s)))
  let s := match b with
    | .warmSame => warmSame s
    | .warmOther => warmOther s
    | _ => s
  let s := trialCommit s
  let s := if s.sec.passedOver then updSec (logConfig s 0x53 0) fun x => { x with passedOver := false } else s
  let s := if s.sec.sealLog then updSec (logConfig s 0x53 1) fun x => { x with sealLog := false } else s
  match r.stop with
    | some (kind, index) => log s 9 kind index 0 0xFF 0
    | none => s

/-- READY, and what it ends in. -/
def markReady (s : State) (r : BootReport) : State :=
  updSys s fun y =>
    { y with
      ready := true, boot := none, recovery := s.sys.recoverNext || r.stop.isSome || decide (pairsLeft s < 3),
      bootStopped := r.stop.isSome, fatal := decide (pairsLeft s < 3), recoverNext := false,
      trained := y.trained.mapIdx fun k _ => decide (r.stop ≠ some (4, k)), resumeMend := [] }

/-- What is told of READY. -/
def tellReady (s : State) (recover : Bool) : State :=
  if recover then sendDeviceEvent (statusChanged s) 6 0 0 (enabledCount (statusChanged s)) else statusChanged s

/-- The resets that waited for READY. -/
def resetsAfterReady (s : State) : State :=
  if s.sys.resetAfterReady then conventionalReset (updSys s fun y => { y with resetAfterReady := false }) else s

theorem reachReady_eq (s : State) (b : Boot) (r : BootReport) :
    reachReady s b r = resetsAfterReady (tellReady (markReady (bootWork s b r) r)
      ((bootWork s b r).sys.recoverNext || r.stop.isSome || decide (pairsLeft (bootWork s b r) < 3))) := rfl

theorem tellReady_calm (s : State) (recover : Bool) : Calm s (tellReady s recover) := by
  unfold tellReady
  split
  · exact sendDeviceEvent_calm (statusChanged_calm (.refl s))
  · exact statusChanged_calm (.refl s)

/-- The resets after READY leave READY and what it ends in. -/
theorem resetsAfterReady_spec (s : State) :
    (∃ after, (resetsAfterReady s).sys = { s.sys with resetAfterReady := after }) ∧ (resetsAfterReady s).rel = s.rel := by
  unfold resetsAfterReady
  split
  · obtain ⟨hsys, hrel, -, -⟩ := conventionalReset_spec (updSys s fun y => { y with resetAfterReady := false })
    exact ⟨⟨false, by rw [hsys, updSys_sys]⟩, by rw [hrel, updSys_rel]⟩
  · exact ⟨⟨_, rfl⟩, rfl⟩

theorem reachReady_spec (s : State) (b : Boot) (r : BootReport) :
    (reachReady s b r).sys.ready = true ∧ (reachReady s b r).sys.boot = none ∧ (reachReady s b r).sys.bootStopped = r.stop.isSome ∧
      (r.stop.isSome = true ∨ pairsLeft (reachReady s b r) < 3 → (reachReady s b r).sys.recovery = true) ∧
      (reachReady s b r).sys.fatal = decide (pairsLeft (reachReady s b r) < 3) := by
  rw [reachReady_eq]
  generalize bootWork s b r = x
  generalize hrecover : (x.sys.recoverNext || r.stop.isSome || decide (pairsLeft x < 3)) = recover
  obtain ⟨⟨after, hsys⟩, hrel⟩ := resetsAfterReady_spec (tellReady (markReady x r) recover)
  have hcalm := tellReady_calm (markReady x r) recover
  have hpairs : pairsLeft (resetsAfterReady (tellReady (markReady x r) recover)) = pairsLeft x := by
    rw [pairsLeft, hrel, hcalm.rel, markReady, updSys_rel, pairsLeft]
  rw [hpairs, hsys, hcalm.sys, markReady, updSys_sys]
  refine ⟨rfl, rfl, rfl, fun h => ?_, rfl⟩
  rcases h with h | h <;> simp [h]

theorem statusChanged_work (s : State) : (statusChanged s).work = s.work :=
  List.foldlRecOn _ (fun s f => raiseCause s f 2) (motive := fun t => t.work = s.work) rfl
    fun t h f _ => (raiseCause_fnOnly t f 2).work.trans h

/-- Settles O49. -/
theorem restartsKeepAndRunTheBootRom : Obligations.RestartsKeepAndRunTheBootRom := by
  unfold Obligations.RestartsKeepAndRunTheBootRom
  intro s
  refine ⟨fun strap aon => ?cold, rfl, fun b r hb hhalt hclocks hflow => ?boot, fun hnot r => ?noBoot, fun hnot => ?noExit,
    fun hrec hstop hfatal => ?exit⟩
  case cold =>
    obtain ⟨f, g, heq⟩ := coldReset_frame s strap aon
    obtain ⟨⟨x, y, hrom⟩, hkept, howner, hboot, hready⟩ := bootRom_boots (coldStart s strap aon) true
    rw [hrom] at hkept howner hboot hready heq
    simp only [Sec.bootKept, Prod.mk.injEq] at hkept
    obtain ⟨⟨hpart, hfactory, -⟩, ⟨hslotA, hslotB⟩, hwindow, hsaks, hjumper⟩ := hkept
    refine ⟨_, congrArg Host.Outcome.next heq, rfl, rfl, rfl, rfl, rfl, rfl, hboot, hready rfl, rfl, hpart, hfactory, hslotA, hslotB, howner,
      rfl, rfl, rfl, hwindow, hsaks, hjumper, rfl⟩
  case boot =>
    have hexec : exec (.bootReady r) s = .next (reachReady s b r) := by
      change execBootReady r s = _
      rw [execBootReady, hb]
      dsimp only
      rw [if_neg (by simp [hhalt, hclocks, hflow])]
    exact ⟨hexec, _, hexec, reachReady_spec s b r⟩
  case noBoot =>
    change execBootReady r s = _
    rw [execBootReady]
    rcases hnot with h | h | h | h
    · rw [h]
    · rw [h]; rfl
    · split
      · rfl
      · rw [if_pos (by simp [h])]
    · split
      · rfl
      · rw [if_pos (by simp [h])]
  case noExit =>
    change execRecoveryExit s = _
    rw [execRecoveryExit, if_neg]
    rintro ⟨hr, hb, hf⟩
    rcases hnot with h | h | h
    · simp [h] at hr
    · exact hb h
    · exact hf h
  case exit =>
    have hexec : exec .recoveryExit s = .next (statusChanged (updSys s fun y => { y with recovery := false })) := by
      change execRecoveryExit s = _
      rw [execRecoveryExit, if_pos (by simp [hrec, hstop, hfatal])]
    have hcalm := statusChanged_calm (.refl (updSys s fun y => { y with recovery := false }))
    exact ⟨_, hexec, by rw [hcalm.sys]; rfl, by rw [hcalm.sys]; rfl, statusChanged_work _, hcalm.sec⟩

end Sys2Proof.Machine
end

section
/-! Presence and the seal, the vault, staged images and JTAG (20 R519, R528-R538). -/

namespace Sys2Proof.Machine
set_option Elab.async false -- one proof at a time, for the memory of the check

/-! ### The seal -/

/-- The security block after a sample of the seal loop. -/
def Sec.sampled (x : Sec) (matched ready : Bool) : Sec :=
  let misses := if matched then 0 else Nat.min (x.sealMisses + 1) 2
  let loopOpen := !matched && (x.loopOpen || decide (misses = 2))
  let opens := loopOpen && x.sealArmed && decide (x.sealState = 0)
  { x with
    sealMisses := misses, sealPolarity := !x.sealPolarity, loopOpen := loopOpen,
    sealState := if opens then 1 else x.sealState, sealOpenS := if opens then x.aonS else x.sealOpenS,
    sealLog := x.sealLog || (opens && !ready) }

theorem log_rel (s : State) (cls unitKind unitIndex detail part action : Nat) :
    ∃ f, log s cls unitKind unitIndex detail part action = updRel s f := by
  have htwice (c : Prop) [Decidable c] (f g h : Rel → Rel) :
      ∃ k, (if c then updRel (updRel s f) g else updRel (updRel s f) h) = updRel s k := by
    split
    · exact ⟨g ∘ f, rfl⟩
    · exact ⟨h ∘ f, rfl⟩
  unfold log
  exact htwice ..

theorem exec_sealPulse {s : State} (h : s.sec.aonRuns = true) (matched : Bool) :
    ∃ f, exec (.sealPulse matched) s = .next (updRel (updSec s fun x => x.sampled matched s.sys.ready) f) := by
  have hsplit (c : Prop) [Decidable c] (t : State) :
      ∃ f, Host.Outcome.next (if c then logConfig t 0x53 1 else t) = (.next (updRel t f) : Out) := by
    split
    · exact (log_rel ..).imp fun f hf => congrArg Host.Outcome.next hf
    · exact ⟨id, rfl⟩
  change ∃ f, execSealPulse matched s = _
  unfold execSealPulse
  dsimp only
  rw [if_neg (by simp [h])]
  exact @hsplit _ _ (updSec s fun x => x.sampled matched s.sys.ready)

/-! ### The vault -/

theorem chipWrite_of_served {s : State} (h : served s 0 = true) (act : State → State) : chipWrite s act = act s := if_pos h

section Vault
variable {s : State} (hs : served s 0 = true)
include hs

theorem exec_sakInstall (v : BitVec 32) : exec (.sakInstall v) s = .next (writeSakCtl v.toNat s) :=
  congrArg Host.Outcome.next (chipWrite_of_served hs _)

theorem exec_sakErase (v : BitVec 32) : exec (.sakErase v) s = .next (writeSakCtl v.toNat s) :=
  congrArg Host.Outcome.next (chipWrite_of_served hs _)

theorem exec_ownerCommit (v : BitVec 32) : exec (.ownerCommit v) s = .next (writeOwnerCommit v.toNat s) :=
  congrArg Host.Outcome.next (chipWrite_of_served hs _)

theorem exec_secConfigLock (v : BitVec 32) : exec (.secConfigLock v) s = .next (writeSecLock v.toNat s) :=
  congrArg Host.Outcome.next (chipWrite_of_served hs _)

end Vault

/-- The key that INSTALL puts into the selected slot. -/
def stagedSak (s : State) : Sak :=
  { key := BitVec.ofNat 256 (wordsValue s.sec.keyWords), salt := BitVec.ofNat 96 (wordsValue s.sec.saltWords), ssci := s.sec.ssciWord,
    pn := if s.sec.sakDir then 0 else 1 }

/-- The security block with the staged key in its slot and the staging words cleared. -/
def keyPut (s : State) : State :=
  updSec s fun x =>
    { x with saks := Tbl.put x.saks (selectedSak s) (stagedSak s), keyWords := List.replicate 8 0, saltWords := List.replicate 3 0, ssciWord := 0 }

theorem installSak_eq (s : State) :
    installSak s = if s.sec.sakDir then updMac (keyPut s) s.sec.sakMac.toNat fun k => { k with rxNew := s.sec.sakAn } else keyPut s := rfl

theorem installSak_sec (s : State) : (installSak s).sec = { s.sec with
    saks := Tbl.put s.sec.saks (selectedSak s) (stagedSak s), keyWords := List.replicate 8 0, saltWords := List.replicate 3 0, ssciWord := 0 } := by
  rw [installSak_eq]
  split <;> rfl

theorem installSak_selected (s : State) : selectedSak (installSak s) = selectedSak s := by
  simp only [selectedSak, installSak_sec]

/-- A receive key makes its AN the newer one of the MAC. -/
theorem installSak_rxNew {s : State} (hd : s.sec.sakDir = true) (hm : s.sec.sakMac.toNat < s.net.macs.length) :
    (getMac (installSak s) s.sec.sakMac.toNat).rxNew = s.sec.sakAn := by
  rw [installSak_eq, if_pos hd, getMac_updMac_self (keyPut s) _ hm]

theorem writeSakCtl_idle {s : State} {v : Nat} (h : v % 4 = 0) : writeSakCtl v s = s := if_pos h

theorem writeSakCtl_inUse {s : State} {v : Nat} (h : v % 4 ≠ 0) (hu : sakInUse s = true) : writeSakCtl v s = valueError s 0x9140 := by
  rw [writeSakCtl, if_neg h, if_pos hu]

theorem bit_of_mod4 (v : Nat) : bit v 0 = decide (v % 4 % 2 = 1) ∧ bit v 1 = decide (v % 4 / 2 = 1) := by
  have h0 : v % 4 % 2 = v % 2 := by omega
  have h1 : v % 4 / 2 = v / 2 % 2 := by omega
  simp [bit, Nat.testBit_eq_decide_div_mod_eq, h0, h1]

/-- A write of SAK_CTL of a slot that is not in use for transmit. -/
theorem writeSakCtl_of_free {s : State} (hu : sakInUse s = false) {v : Nat} :
    (v % 4 = 1 → writeSakCtl v s = installSak s) ∧ (v % 4 = 2 → writeSakCtl v s = eraseSak s) ∧
      (v % 4 = 3 → writeSakCtl v s = eraseSak (installSak s)) := by
  obtain ⟨h0, h1⟩ := bit_of_mod4 v
  refine ⟨fun h => ?_, fun h => ?_, fun h => ?_⟩ <;> simp [writeSakCtl, hu, h0, h1, h]

theorem lockedWrite_sec (s : State) (f offset : Nat) : (lockedWrite s f offset).sec = s.sec := by
  obtain ⟨⟨_, _, h⟩, -⟩ := setError_fnOnly s f errLocked 0 offset
  rw [lockedWrite, h]
  rfl

theorem lockedWrite_locked (s : State) (f offset : Nat) : (getFn (lockedWrite s f offset) f).error.getLsbD 2 = true := by
  unfold lockedWrite
  rw [getFn_updChip]
  exact setError_bit s f 0 offset (by decide : errLocked < 8)

/-! ### Staged images -/

theorem stageImage_fails {s : State} {img : List Byte} {r : Nat} (h : stageFails s (slotOfImage img) = some r) :
    stageImage s img = (updSec (writeInactive s FwSlot.empty) fun y => { y with stagedVersion := 0 }, some r) := by
  unfold stageImage
  dsimp only
  rw [h]

theorem stageImage_passes {s : State} {img : List Byte} (h : stageFails s (slotOfImage img) = none) :
    stageImage s img =
      (updSec (writeInactive s (slotOfImage img)) fun y => { y with stagedVersion := BitVec.ofNat 32 (slotOfImage img).version }, none) := by
  unfold stageImage
  dsimp only
  rw [h]

theorem exec_fwStageComplete_fails {s : State} {g : Staging} {r : Nat} (hg : s.sec.staging = some g)
    (h : stageFails (updSec s fun y => { y with staging := none }) (slotOfImage g.image) = some r) :
    exec .fwStageComplete s = .next (finish (updSec (writeInactive (updSec s fun y => { y with staging := none }) FwSlot.empty)
      fun y => { y with stagedVersion := 0 }) g.ticket ⟨eFault, 0, r, 0, 0⟩) := by
  change execFwStageComplete s = _
  unfold execFwStageComplete
  rw [hg]
  dsimp only
  rw [stageImage_fails h]

theorem exec_fwStageComplete_passes {s : State} {g : Staging} (hg : s.sec.staging = some g)
    (h : stageFails (updSec s fun y => { y with staging := none }) (slotOfImage g.image) = none) :
    exec .fwStageComplete s =
      (let x := slotOfImage g.image
       let k := updSec (writeInactive (updSec s fun y => { y with staging := none }) x) fun y => { y with stagedVersion := BitVec.ofNat 32 x.version }
       let d := finish k g.ticket ⟨eOk, x.version % 2 ^ 32, 0, 0, 0⟩
       .next (sendDeviceEvent d 5 0 0 (enabledCount d))) := by
  change execFwStageComplete s = _
  unfold execFwStageComplete
  rw [hg]
  dsimp only
  rw [stageImage_passes h]
  dsimp only
  rw [updSec_sec, BitVec.toNat_ofNat]

/-- Settles O48, block by block. -/
theorem securityBlockKeepsItsRules : Obligations.SecurityBlockKeepsItsRules := by
  unfold Obligations.SecurityBlockKeepsItsRules
  intro s
  refine ⟨fun released hr => ?window, fun hst => ?stuck, fun haon matched => ?sealStopped, fun hg => ?noStaging, fun valid hv => ?noChallenge,
    fun valid hv => ?noMaker, fun hlc => ?maker, rfl, rfl, fun haon matched => ?sealed, fun hs v => ?vault, fun g hg => ?staged, fun low => rfl,
    rfl, fun i hi => ?boundary, fun hlc => ?returned, fun i hi => ?internal⟩
  case window =>
    change execPresenceEvent released s = _
    rw [execPresenceEvent, if_neg]
    rintro ⟨h1, h2⟩
    rcases hr with h | h
    · simp [h] at h1
    · exact h2 h
  case stuck =>
    change execPresenceEvent false s = _
    rw [execPresenceEvent, if_pos (by simp [hst])]
  case sealStopped =>
    change execSealPulse matched s = _
    unfold execSealPulse
    dsimp only
    rw [if_pos (by simp [haon])]
  case noStaging =>
    change execFwStageComplete s = _
    unfold execFwStageComplete
    rw [hg]
  case noChallenge =>
    change execJtagInstruction (.challenge valid) s = _
    simp only [execJtagInstruction]
    rw [if_neg]
    rintro ⟨h1, h2⟩
    rcases hv with h | h
    · simp [h] at h1
    · exact h h2
  case noMaker =>
    change execJtagInstruction (.toMakerTest valid) s = _
    simp only [execJtagInstruction]
    rw [if_neg]
    rintro ⟨h1, h2⟩
    rcases hv with h | ⟨h0, h4⟩
    · simp [h] at h1
    · exact h2.elim h0 h4
  case maker =>
    change execJtagInstruction (.toMakerTest true) s = _
    simp only [execJtagInstruction]
    rw [if_pos ⟨trivial, .inl hlc⟩]
  case sealed =>
    obtain ⟨f, hf⟩ := exec_sealPulse haon matched
    refine ⟨_, hf, rfl, rfl, rfl, fun hm => ?_, fun hm h0 => ?_, fun hm h1 => ?_⟩
    · subst hm
      exact ⟨rfl, rfl, rfl⟩
    · subst hm
      simp only [updRel_sec, updSec_sec, Sec.sampled, h0]
      refine ⟨rfl, by simp, fun h => if_neg ?_⟩
      rcases h with h | h | h <;> simp [h]
    · subst hm
      have hmisses : Nat.min (s.sec.sealMisses + 1) 2 = 2 := Nat.min_eq_right (by omega)
      simp only [updRel_sec, updSec_sec, Sec.sampled, hmisses]
      refine ⟨by simp, fun ha h0 => ?_⟩
      simp [ha, h0]
  case vault =>
    rw [exec_sakInstall hs, exec_sakErase hs, exec_ownerCommit hs, exec_secConfigLock hs]
    refine ⟨fun h hu => ?inUse, fun h => ?idle, rfl, fun hu => ⟨fun h => ?both, fun h hd => ?receive, fun h => ?install, fun h => ?erase⟩,
      fun ho hv => ?ownerSet, fun ho hv => ?ownerClear, fun ho => ?ownerLocked, fun hl => ?lock, fun hl => ?locked⟩
    case inUse => rw [writeSakCtl_inUse h hu]; exact ⟨rfl, rfl⟩
    case idle => rw [writeSakCtl_idle h]; exact ⟨rfl, rfl⟩
    case both =>
      rw [(writeSakCtl_of_free hu).2.2 h]
      refine ⟨_, rfl, ?_⟩
      simp only [eraseSak, updSec_sec, installSak_selected, installSak_sec]
      exact ⟨Tbl.find_del_self .., trivial, trivial, trivial, fun k hk => by rw [Tbl.find_del_other _ hk, Tbl.find_put_other _ _ hk]⟩
    case receive =>
      rw [(writeSakCtl_of_free hu).1 h]
      exact ⟨_, rfl, installSak_rxNew hd⟩
    case install =>
      rw [(writeSakCtl_of_free hu).1 h]
      refine ⟨_, rfl, ?_⟩
      simp only [installSak_sec]
      exact ⟨Tbl.find_put_self .., trivial, trivial, trivial, fun k hk => Tbl.find_put_other _ _ hk⟩
    case erase =>
      rw [(writeSakCtl_of_free hu).2.1 h]
      exact ⟨_, rfl, Tbl.find_del_self .., rfl, fun k hk => Tbl.find_del_other _ hk⟩
    case ownerSet => rw [writeOwnerCommit, ho, if_neg (by simp), bit_toNat, if_pos hv]
    case ownerClear => rw [writeOwnerCommit, ho, if_neg (by simp), bit_toNat, hv, if_neg Bool.false_ne_true]
    case ownerLocked =>
      rw [writeOwnerCommit, if_pos ho]
      exact ⟨_, rfl, lockedWrite_sec .., lockedWrite_locked ..⟩
    case lock => rw [writeSecLock, hl, if_neg (by simp), bit_toNat]
    case locked =>
      rw [writeSecLock, if_pos hl]
      exact ⟨_, rfl, lockedWrite_sec .., lockedWrite_locked ..⟩
  case staged => exact ⟨fun r h => exec_fwStageComplete_fails hg h, exec_fwStageComplete_passes hg⟩
  case boundary => fin_cases hi <;> rfl
  case returned =>
    constructor
    · change execJtagInstruction (.challenge true) s = _
      simp only [execJtagInstruction]
      rw [if_pos ⟨trivial, hlc⟩]
    · change execJtagInstruction (.toMakerTest true) s = _
      simp only [execJtagInstruction]
      rw [if_pos ⟨trivial, .inr hlc⟩]
  case internal =>
    fin_cases hi <;> exact ⟨fun h => if_pos h, fun h => if_neg (by simp [h])⟩

end Sys2Proof.Machine
end

section
/-! Optics modules, the wear ledger and the indicators: what a probe, a reading, a recovery attempt and a load check do. -/

namespace Sys2Proof.Machine
set_option Elab.async false -- one proof at a time, for the memory of the check

/-! ### Slots, buses and indicators after an update -/

theorem nth_modNth_self {α : Type} (d : α) {l : List α} {i : Nat} (f : α → α) (h : i < l.length) : nth d (modNth l i f) i = f (nth d l i) := by
  simp only [nth, modNth, List.getElem?_mapIdx, List.getElem?_eq_getElem h, Option.map_some, if_true, Option.getD_some]

theorem nth_modNth_other {α : Type} (d : α) (l : List α) {i j : Nat} (f : α → α) (h : j ≠ i) : nth d (modNth l i f) j = nth d l j := by
  simp [nth, modNth, List.getElem?_mapIdx, if_neg h]

theorem getSlot_updSlot_self {s : State} {k : Nat} (f : OpticsSlot → OpticsSlot) (h : k < s.optics.slots.length) :
    getSlot (updSlot s k f) k = f (getSlot s k) := nth_modNth_self _ f h
theorem getSlot_updSlot_other (s : State) {k j : Nat} (f : OpticsSlot → OpticsSlot) (h : j ≠ k) :
    getSlot (updSlot s k f) j = getSlot s j := nth_modNth_other _ _ f h
theorem getBus_updBus_self {s : State} {b : Nat} (f : OpticsBus → OpticsBus) (h : b < s.optics.buses.length) :
    getBus (updBus s b f) b = f (getBus s b) := nth_modNth_self _ f h
theorem getBus_updBus_other (s : State) {b j : Nat} (f : OpticsBus → OpticsBus) (h : j ≠ b) :
    getBus (updBus s b f) j = getBus s j := nth_modNth_other _ _ f h
theorem getIndicator_updIndicator_self {s : State} {i : Nat} (f : Indicator → Indicator) (h : i < s.optics.indicators.length) :
    getIndicator (updIndicator s i f) i = f (getIndicator s i) := nth_modNth_self _ f h

theorem getSlot_congr {s t : State} (h : t.optics.slots = s.optics.slots) (j : Nat) : getSlot t j = getSlot s j := by
  simp only [getSlot, h]

/-- A bus that recovers or has failed is one of the buses: a place beyond them reads as a bus in order. -/
theorem bus_lt_of_state {s : State} {b : Nat} (h : (getBus s b).state ≠ 0) : b < s.optics.buses.length := by
  by_contra hb
  exact h (by simp [getBus, nth, List.getElem?_eq_none (Nat.le_of_not_lt hb)])

/-- A log entry is kept beside the optics. -/
theorem logConfig_optics (s : State) (index detail : Nat) : (logConfig s index detail).optics = s.optics := by
  obtain ⟨f, hf⟩ := log_rel s 9 6 index detail 0xFF 0
  rw [logConfig, hf]; rfl
theorem logConfig_work (s : State) (index detail : Nat) : (logConfig s index detail).work = s.work := by
  obtain ⟨f, hf⟩ := log_rel s 9 6 index detail 0xFF 0
  rw [logConfig, hf]; rfl
theorem logConfig_host (s : State) (index detail : Nat) : (logConfig s index detail).host = s.host := by
  obtain ⟨f, hf⟩ := log_rel s 9 6 index detail 0xFF 0
  rw [logConfig, hf]; rfl

/-! ### What the wear ledger and the sensors leave as it was -/

/-- t is s but for the wear ledger, the log, and what management has to send: the slots, the work and the host interface stay. -/
structure WearOnly (s t : State) : Prop where
  slots : t.optics.slots = s.optics.slots
  work : t.work = s.work
  host : t.host = s.host

theorem WearOnly.refl (s : State) : WearOnly s s := ⟨rfl, rfl, rfl⟩
theorem WearOnly.trans {s t u : State} (h : WearOnly s t) (g : WearOnly t u) : WearOnly s u :=
  ⟨g.slots.trans h.slots, g.work.trans h.work, g.host.trans h.host⟩

theorem WearOnly.foldl {α : Type} {f : State → α → State} (h : ∀ s a, WearOnly s (f s a)) (l : List α) (s : State) :
    WearOnly s (l.foldl f s) := by
  induction l generalizing s with
  | nil => exact .refl s
  | cons a l ih => exact (h s a).trans (ih _)

theorem openWear_wearOnly (s : State) (id : ModuleId) : WearOnly s (openWear s id) := by
  unfold openWear
  split
  · exact .refl s
  · refine ⟨?_, rfl, rfl⟩
    simp only [updOptics_optics]
    split <;> rfl

theorem advanceWear_wearOnly (s : State) (k : Nat) (m : Monitors) : WearOnly s (advanceWear s k m) := by
  unfold advanceWear
  split
  · exact .refl s
  · dsimp only
    split
    · exact ⟨by rw [logConfig_optics]; rfl, by rw [logConfig_work]; rfl, by rw [logConfig_host]; rfl⟩
    · exact ⟨rfl, rfl, rfl⟩

theorem pldmEvent_wearOnly (s : State) (o : MgmtOut) : WearOnly s (pldmEvent s o) := by
  unfold pldmEvent
  split
  · dsimp only
    split <;> exact ⟨rfl, rfl, rfl⟩
  · exact .refl s

theorem reportLevel_wearOnly (s : State) (sensor level : Nat) (value : Int) : WearOnly s (reportLevel s sensor level value) := by
  refine .trans ?_ (WearOnly.foldl (fun s l => pldmEvent_wearOnly s (.sensorEvent sensor l value)) _ _)
  exact ⟨rfl, rfl, rfl⟩

/-! ### Probes, readings and recoveries -/

theorem getSlot_slotNack_self {s : State} {k : Nat} (h : k < s.optics.slots.length) :
    getSlot (slotNack s k) k = if 3 ≤ (getSlot s k).fails + 1
      then { getSlot s k with fails := (getSlot s k).fails + 1, present := false, managed := false }
      else { getSlot s k with fails := (getSlot s k).fails + 1 } := getSlot_updSlot_self _ h

/-- A module that a probe finds is present and managed with its identity; its insertions count where it was absent. -/
theorem manageModule_spec {s : State} {k : Nat} (id : ModuleId) (h : k < s.optics.slots.length) :
    (getSlot (manageModule s k id) k).present = true ∧ (getSlot (manageModule s k id) k).managed = true ∧
    (getSlot (manageModule s k id) k).serial = id.serial ∧ (getSlot (manageModule s k id) k).oui = id.oui ∧
    (getSlot (manageModule s k id) k).insertions =
      (if (getSlot s k).present then (getSlot s k).insertions else satInc (getSlot s k).insertions 1) ∧
    (∀ j, j ≠ k → getSlot (manageModule s k id) j = getSlot s j) ∧ (manageModule s k id).work = s.work := by
  have hw := openWear_wearOnly s id
  have hslot : ∀ j, getSlot (manageModule s k id) j = getSlot (updSlot (openWear s id) k fun x =>
      { OpticsSlot.reset with
        present := true, managed := true, ident := id.ident, oui := id.oui, partNo := id.partNo, serial := id.serial,
        insertions := if (getSlot s k).present then x.insertions else satInc x.insertions 1 }) j := fun j =>
    getSlot_congr (by unfold manageModule; dsimp only; split <;> rfl) j
  have hself := hslot k
  rw [getSlot_updSlot_self _ (by rw [hw.slots]; exact h), getSlot_congr hw.slots] at hself
  refine ⟨by rw [hself], by rw [hself], by rw [hself], by rw [hself], by rw [hself], fun j hj => ?_, ?_⟩
  · rw [hslot, getSlot_updSlot_other _ _ hj, getSlot_congr hw.slots]
  · rw [← hw.work]
    unfold manageModule; dsimp only; split <;> rfl

/-- A reading enters the window of its slot and nothing else of the slots, the work and the host interface. -/
theorem monitorRead_spec {s : State} {k : Nat} (m : Monitors) (hs : slotServed s k = true)
    (hm : (getSlot s k).managed = true) :
    ∃ t, exec (.opticsMonitorRead k (.answer m)) s = .next t ∧ WearOnly (updSlot s k fun x => x.reading m) t := by
  refine ⟨_, congrArg Host.Outcome.next (if_neg (by simp [hs, hm])), ?_⟩
  exact .trans (advanceWear_wearOnly _ k m) (WearOnly.foldl (fun s j => reportLevel_wearOnly s _ _ _) _ _)

theorem getBus_startRecovery_self {s : State} {b : Nat} (h : b < s.optics.buses.length) :
    getBus (startRecovery s b) b = { state := 1, attempt := 1, recoveries := satInc (getBus s b).recoveries 1 } :=
  getBus_updBus_self (s := s) _ h
theorem getBus_startRecovery_other (s : State) {b j : Nat} (h : j ≠ b) : getBus (startRecovery s b) j = getBus s j :=
  getBus_updBus_other s _ h

/-- A bus after a write of RETRY: one that was given up starts again where its bit is set, another is left. -/
def retried (v : Nat) (b : Nat) (x : OpticsBus) : OpticsBus :=
  if bit v b ∧ x.state = 2 then { state := 1, attempt := 1, recoveries := satInc x.recoveries 1 } else x

/-- Whether bit b asks bus b, which has been given up, to start again. -/
def retryBus (v : Nat) (s : State) (b : Nat) : State := if bit v b ∧ (getBus s b).state = 2 then startRecovery s b else s

theorem writeRetry_eq (v : Nat) (s : State) : writeRetry v s = retryBus v (retryBus v s 0) 1 := rfl

theorem getBus_retryBus_self (v : Nat) (s : State) (b : Nat) : getBus (retryBus v s b) b = retried v b (getBus s b) := by
  unfold retryBus retried
  split
  · next h => exact getBus_startRecovery_self (bus_lt_of_state (by rw [h.2]; decide))
  · rfl
theorem getBus_retryBus_other (v : Nat) (s : State) {b j : Nat} (h : j ≠ b) : getBus (retryBus v s b) j = getBus s j := by
  unfold retryBus
  split
  · exact getBus_startRecovery_other s h
  · rfl

theorem getBus_writeRetry (v : Nat) (s : State) {b : Nat} (hb : b < 2) : getBus (writeRetry v s) b = retried v b (getBus s b) := by
  rw [writeRetry_eq]
  obtain rfl | rfl : b = 0 ∨ b = 1 := by omega
  · rw [getBus_retryBus_other _ _ (by decide), getBus_retryBus_self]
  · rw [getBus_retryBus_self, getBus_retryBus_other _ _ (by decide)]

/-- The third attempt that leaves the lines low gives the bus up, and none of its slots is managed. -/
theorem busRecovery_givesUp {s : State} {k : Nat} (h1 : (getBus s k).state = 1) (h3 : 3 ≤ (getBus s k).attempt) :
    ∃ t, exec (.opticsBusRecovery k false) s = .next t ∧ (getBus t k).state = 2 ∧ ∀ j, j / 4 = k → (getSlot t j).managed = false := by
  refine ⟨_, congrArg Host.Outcome.next ((if_neg (by simp [h1])).trans ((if_neg (by simp)).trans (if_neg (by omega)))), ?_, fun j hj => ?_⟩
  · have hb := bus_lt_of_state (s := s) (b := k) (by rw [h1]; decide)
    simp only [getBus, logConfig_optics]
    exact congrArg OpticsBus.state (nth_modNth_self _ _ hb)
  · simp only [getSlot, logConfig_optics, updOptics_optics, updBus, nth, List.getElem?_mapIdx, busOf, hj]
    cases s.optics.slots[j]? <;> rfl

theorem slotUnserved {s : State} {k : Nat} (h : slotServed s k = false) :
    (∀ f, exec (.opticsProbe k f) s = .next s) ∧ ∀ f, exec (.opticsMonitorRead k f) s = .next s :=
  ⟨fun _ => congrArg Host.Outcome.next (if_pos (by simp [h])), fun _ => congrArg Host.Outcome.next (if_pos (by simp [h]))⟩

theorem exec_probe {s : State} {k : Nat} (hs : slotServed s k = true) (f : I2c ModuleId) :
    exec (.opticsProbe k f) s = .next (match f with
      | .answer id => if (getSlot s k).present ∧ (getSlot s k).managed then updSlot s k fun x => { x with fails := 0 } else manageModule s k id
      | .nack => slotNack s k
      | .stuck => startRecovery s (busOf k)) := congrArg Host.Outcome.next (if_neg (by simp [hs]))

theorem monitorRead_fails {s : State} {k : Nat} (hs : slotServed s k = true) (hm : (getSlot s k).managed = true) :
    exec (.opticsMonitorRead k .nack) s = .next (slotNack s k) ∧
    exec (.opticsMonitorRead k .stuck) s = .next (startRecovery s (k / 4)) :=
  ⟨congrArg Host.Outcome.next (if_neg (by simp [hs, hm])), congrArg Host.Outcome.next (if_neg (by simp [hs, hm]))⟩

/-! ### Load checks -/

/-- A change of STATUS writes STATUS of its indicator alone. -/
theorem getIndicator_setStatus {s : State} {i : Nat} (st : BitVec 3) (h : i < s.optics.indicators.length) :
    getIndicator (setStatus s i st) i = { getIndicator s i with status := st } := by
  have hslots : (setStatus s i st).optics = (updIndicator s i fun x => { x with status := st }).optics := by
    unfold setStatus
    dsimp only
    split
    · exact logConfig_optics _ _ _
    · rfl
  unfold getIndicator
  rw [hslots]
  exact getIndicator_updIndicator_self _ h

theorem updIndicator_length (s : State) (i : Nat) (f : Indicator → Indicator) :
    (updIndicator s i f).optics.indicators.length = s.optics.indicators.length := by simp [updIndicator, modNth]

section LoadCheck
variable {s : State} {k : Nat} (hk : k < 6) (hl : k < s.optics.indicators.length) (hc : checkable s (getIndicator s k) = true)
include hk hl hc

theorem loadCheck_ok : ∃ t, exec (.loadCheck k .ok) s = .next t ∧ (getIndicator t k).status = 1 ∧ (getIndicator t k).opens = 0 := by
  refine ⟨_, congrArg Host.Outcome.next (if_neg (by simp [hk, hc])), ?_⟩
  dsimp only
  rw [getIndicator_setStatus _ (by simpa only [updIndicator_length]), getIndicator_updIndicator_self _ (by simpa only [updIndicator_length])]
  exact ⟨rfl, rfl⟩

theorem loadCheck_short :
    ∃ t, exec (.loadCheck k .aboveShort) s = .next t ∧ (getIndicator t k).status = 3 ∧ (getIndicator t k).holdoff = true := by
  refine ⟨_, congrArg Host.Outcome.next (if_neg (by simp [hk, hc])), ?_⟩
  dsimp only
  rw [getIndicator_setStatus _ (by simpa only [updIndicator_length]), getIndicator_updIndicator_self _ (by simpa only [updIndicator_length])]
  exact ⟨rfl, rfl⟩

theorem loadCheck_secondOpen (ho : 1 ≤ (getIndicator s k).opens) :
    ∃ t, exec (.loadCheck k .belowOpen) s = .next t ∧ (getIndicator t k).status = 2 := by
  refine ⟨_, congrArg Host.Outcome.next (if_neg (by simp [hk, hc])), ?_⟩
  dsimp only
  rw [getIndicator_updIndicator_self _ hl, if_pos (by exact Nat.succ_le_succ ho),
    getIndicator_setStatus _ (by simpa only [updIndicator_length])]

theorem loadCheck_firstOpen (ho : (getIndicator s k).opens = 0) :
    ∃ t, exec (.loadCheck k .belowOpen) s = .next t ∧ (getIndicator t k).status = (getIndicator s k).status ∧
      (getIndicator t k).opens = 1 := by
  refine ⟨_, congrArg Host.Outcome.next (if_neg (by simp [hk, hc])), ?_⟩
  dsimp only
  rw [getIndicator_updIndicator_self _ hl, if_neg (by simp [ho]),
    getIndicator_updIndicator_self _ (by simpa only [updIndicator_length]), getIndicator_updIndicator_self _ hl]
  exact ⟨rfl, by simp [ho]⟩

end LoadCheck

/-- Settles O51: slots by what a probe or a reading finds, buses by the attempt, indicators by the sample. -/
theorem opticsAndIndicatorsAreWatched : Obligations.OpticsAndIndicatorsAreWatched := by
  unfold Obligations.OpticsAndIndicatorsAreWatched
  intro s k
  refine ⟨slotUnserved, ?_, ?_, ?_, ?_, ?_, ?_, rfl, rfl, ?_⟩
  case refine_1 => exact fun h _ => congrArg Host.Outcome.next (if_pos (by simp [h]))
  case refine_2 => exact fun h _ => congrArg Host.Outcome.next (if_pos h)
  case refine_3 => exact fun h _ => congrArg Host.Outcome.next (if_pos (h.imp_right fun h => by simp [h]))
  case refine_4 =>
    intro hs hk
    refine ⟨fun id hp hm => ?_, monitorRead_fails hs, fun id hp => ?_, fun id hp hm => ?_, ?_, exec_probe hs _, fun hm m => ?_⟩
    · have hspec := manageModule_spec id hk
      simp only [hp, if_true] at hspec
      exact ⟨_, (exec_probe hs _).trans (congrArg Host.Outcome.next (if_neg (by simp [hm]))), hspec⟩
    · have hspec := manageModule_spec id hk
      simp only [hp, Bool.false_eq_true, if_false] at hspec
      exact ⟨_, (exec_probe hs _).trans (congrArg Host.Outcome.next (if_neg (by simp [hp]))), hspec⟩
    · exact (exec_probe hs _).trans (congrArg Host.Outcome.next (if_pos ⟨hp, hm⟩))
    · refine ⟨slotNack s k, exec_probe hs _, ?_⟩
      rw [getSlot_slotNack_self hk]
      refine ⟨by split <;> rfl, fun h => ?_, fun h => ?_⟩
      · rw [if_pos (by omega)]; exact ⟨rfl, rfl⟩
      · rw [if_neg (by omega)]
    · obtain ⟨t, ht, hw⟩ := monitorRead_spec m hs hm
      refine ⟨t, ht, ?_, fun j hj => ?_, hw.work, hw.host⟩
      · rw [getSlot_congr hw.slots, getSlot_updSlot_self _ hk]
      · rw [getSlot_congr hw.slots, getSlot_updSlot_other _ _ hj]
  case refine_5 =>
    intro h1
    refine ⟨?_, fun h => ?_, busRecovery_givesUp h1⟩
    · exact congrArg Host.Outcome.next ((if_neg (by simp [h1])).trans (if_pos rfl))
    · exact congrArg Host.Outcome.next ((if_neg (by simp [h1])).trans ((if_neg (by simp)).trans (if_pos h)))
  case refine_6 =>
    intro h v
    refine ⟨writeRetry v.toNat s, congrArg Host.Outcome.next (chipWrite_of_served h _), fun b hb hv h2 => ?_, fun b hb hn => ?_⟩
    · rw [getBus_writeRetry _ _ hb, retried, if_pos ⟨by rw [bit_toNat, hv], h2⟩]
      exact ⟨rfl, rfl⟩
    · rw [getBus_writeRetry _ _ hb, retried, if_neg]
      rintro ⟨hv, h2⟩
      exact hn.elim (fun h => by rw [bit_toNat, h] at hv; cases hv) fun h => h h2
  case refine_7 =>
    exact fun hk hl hc => ⟨loadCheck_ok hk hl hc, loadCheck_secondOpen hk hl hc, loadCheck_firstOpen hk hl hc, loadCheck_short hk hl hc⟩

end Sys2Proof.Machine
end

section
/-! The management endpoint: SPDM, PLDM and MCTP on a served transport, the firmware update, and the frame of a message put into a till. -/

namespace Sys2Proof.Machine
set_option Elab.async false -- one proof at a time, for the memory of the check

/-! ### A message put into a till -/

/-- t is s but for the registers of functions, the tills, their memory, their mirrors in the host's memory, and what was sent. -/
def PostsOnly (s t : State) : Prop :=
  ∃ fns tills tillMem hostMem sent, t =
    { s with host := { s.host with fns := fns, tills := tills, tillMem := tillMem, hostMem := hostMem }, sent := sent }

namespace PostsOnly
variable {s t u : State}

theorem refl (s : State) : PostsOnly s s := ⟨_, _, _, _, _, rfl⟩
theorem trans (h : PostsOnly s t) (k : PostsOnly t u) : PostsOnly s u := by
  obtain ⟨_, _, _, _, _, rfl⟩ := h
  obtain ⟨_, _, _, _, _, rfl⟩ := k
  exact ⟨_, _, _, _, _, rfl⟩
theorem of_fnOnly {f : Nat} (h : FnOnly f s t) : PostsOnly s t := by
  obtain ⟨⟨_, _, rfl⟩, _⟩ := h
  exact ⟨_, _, _, _, _, rfl⟩
theorem updTill (s : State) (n : Nat) (f : Till → Till) : PostsOnly s (updTill s n f) := ⟨_, _, _, _, _, rfl⟩

theorem work (h : PostsOnly s t) : t.work = s.work := by obtain ⟨_, _, _, _, _, rfl⟩ := h; rfl
theorem engines (h : PostsOnly s t) : t.engines = s.engines := by obtain ⟨_, _, _, _, _, rfl⟩ := h; rfl
theorem net (h : PostsOnly s t) : t.net = s.net := by obtain ⟨_, _, _, _, _, rfl⟩ := h; rfl
theorem power (h : PostsOnly s t) : t.power = s.power := by obtain ⟨_, _, _, _, _, rfl⟩ := h; rfl
theorem rel (h : PostsOnly s t) : t.rel = s.rel := by obtain ⟨_, _, _, _, _, rfl⟩ := h; rfl
theorem sec (h : PostsOnly s t) : t.sec = s.sec := by obtain ⟨_, _, _, _, _, rfl⟩ := h; rfl
theorem mgmt (h : PostsOnly s t) : t.mgmt = s.mgmt := by obtain ⟨_, _, _, _, _, rfl⟩ := h; rfl
theorem optics (h : PostsOnly s t) : t.optics = s.optics := by obtain ⟨_, _, _, _, _, rfl⟩ := h; rfl
theorem radio (h : PostsOnly s t) : t.radio = s.radio := by obtain ⟨_, _, _, _, _, rfl⟩ := h; rfl
theorem services (h : PostsOnly s t) : t.services = s.services := by obtain ⟨_, _, _, _, _, rfl⟩ := h; rfl
theorem sys (h : PostsOnly s t) : t.sys = s.sys := by obtain ⟨_, _, _, _, _, rfl⟩ := h; rfl
theorem tickets (h : PostsOnly s t) : t.host.tickets = s.host.tickets := by obtain ⟨_, _, _, _, _, rfl⟩ := h; rfl

end PostsOnly

theorem writeSlot_postsOnly (s : State) (n : Nat) (bytes : List Byte) : PostsOnly s (writeSlot s n bytes) := by
  unfold writeSlot
  dsimp only
  split <;> exact ⟨_, _, _, _, _, rfl⟩

theorem writeSlots_postsOnly (s : State) (n k : Nat) (bytes : List Byte) : PostsOnly s (writeSlots s n k bytes) := by
  induction k generalizing s bytes with
  | zero => exact .refl s
  | succ k ih => exact (writeSlot_postsOnly s n _).trans (ih _ _)

theorem armVector_postsOnly (s : State) (n : Nat) : PostsOnly s (armVector s n) := by
  unfold armVector
  dsimp only
  split
  · exact (PostsOnly.updTill s n _).trans (.of_fnOnly (sendVector_fnOnly ..))
  · exact .refl s

theorem tillError_postsOnly (s : State) (n reason : Nat) : PostsOnly s (tillError s n reason) :=
  (PostsOnly.updTill s n _).trans (.of_fnOnly (raiseCause_fnOnly ..))

theorem writeEntry_postsOnly (s : State) (n : Nat) (bytes : List Byte) (reserved : Bool) :
    PostsOnly s (writeEntry s n bytes reserved) := by
  unfold writeEntry
  dsimp only
  generalize (if reserved = true then 0 else (getTill s n).reserved) = kept
  split
  · exact (tillError_postsOnly s n 4).trans (.updTill _ n _)
  split
  · exact .updTill s n _
  · exact (writeSlots_postsOnly s n _ _).trans (armVector_postsOnly _ n)

theorem writeMessage_postsOnly (s : State) (n opcode tag : Nat) (body : List Byte) (reserved : Bool) :
    PostsOnly s (writeMessage s n opcode tag body reserved) := by
  have hsent : ∀ bytes, PostsOnly s (writeEntry (updTill s n fun t => { t with seq := t.seq + 1 }) n bytes reserved) :=
    fun bytes => (PostsOnly.updTill s n _).trans (writeEntry_postsOnly _ n _ _)
  unfold writeMessage
  dsimp only
  split
  · exact (hsent _).trans (.updTill _ n _)
  · exact hsent _

/-- A queued message of management: the transports change, and nothing else of management. -/
theorem mgmtEvent_eq (s : State) (opcode len : Nat) (body : List Byte) :
    ∃ l, mgmtEvent s opcode len body = updMgmt s fun m => { m with transports := l } := ⟨_, rfl⟩

/-- A device event: till 2 of PF0 and the transports of management, and nothing else, have it. -/
theorem deviceEvent_frame (s : State) (opcode len : Nat) (body : List Byte) :
    ∃ u l, PostsOnly s u ∧ deviceEvent s opcode len body = updMgmt u fun m => { m with transports := l } := by
  obtain ⟨l, hl⟩ := mgmtEvent_eq (writeMessage s (fnTill 0 2) opcode 0 (padTo (len - 16) body) false) opcode len (padTo (len - 16) body)
  exact ⟨_, l, writeMessage_postsOnly .., hl⟩

/-! ### SPDM requests: served or not, and how far the connection stands -/

theorem spdmRun_unserved {s : State} {via : Nat} (h : mgmtServes s via = false) (eid stage : Nat) (act : State → State) :
    spdmRun s via eid stage act = s := if_pos (.inl (by simp [h]))

section Served
variable {s : State} {via : Nat} (hs : mgmtServes s via = true) (hl : s.sec.lc ≠ lcVoid)
include hs hl

theorem spdmRun_early (eid : Nat) {stage : Nat} (act : State → State) (h : s.sec.spdm < stage) :
    spdmRun s via eid stage act = spdmReply s via eid (.error 0x04) := by
  unfold spdmRun
  rw [if_neg (by simp [hs, hl]), if_pos h]; rfl

theorem spdmRun_acts (eid : Nat) {stage : Nat} (act : State → State) (h : stage ≤ s.sec.spdm) :
    spdmRun s via eid stage act = act s := by
  unfold spdmRun
  rw [if_neg (by simp [hs, hl]), if_neg (by omega)]

theorem pldm_served : pldmServes s via = true := by simp [pldmServes, hs, hl]

end Served

theorem pldm_unserved {s : State} {via : Nat} (h : mgmtServes s via = false) : pldmServes s via = false := by simp [pldmServes, h]

/-- A transport that is not served answers nothing. -/
theorem unserved_answersNothing {s : State} {via : Nat} (h : mgmtServes s via = false) (eid : Nat) :
    ∀ (v slot o n op : Nat) (asym hash : BitVec 32) (nonce : BitVec 256) (sign on : Bool) (type : Nat) (body : List Byte),
      exec (.getVersion via eid) s = .next s ∧ exec (.getCapabilities via eid v) s = .next s ∧
      exec (.negotiateAlgorithms via eid asym hash) s = .next s ∧ exec (.getDigests via eid) s = .next s ∧
      exec (.getCertificate via eid slot o n) s = .next s ∧ exec (.challenge via eid slot nonce) s = .next s ∧
      exec (.getMeasurements via eid slot op sign nonce) s = .next s ∧ exec (.getPdr via eid n) s = .next s ∧
      exec (.getSensorReading via eid n) s = .next s ∧ exec (.getStateSensorReadings via eid n) s = .next s ∧
      exec (.setStateEffecterStates via eid n v) s = .next s ∧ exec (.setEventReceiver via eid on) s = .next s ∧
      exec (.requestUpdate via eid) s = .next s ∧ exec (.verifyComplete via eid) s = .next s ∧
      exec (.activateFirmware via eid) s = .next s ∧ exec (.getFirmwareParameters via eid) s = .next s ∧
      exec (.setEndpointId via eid n) s = .next s ∧ exec (.mctpMessage via eid type body) s = .next s := by
  intro v slot o n op asym hash nonce sign on type body
  have hsp : ∀ stage act, (Host.Outcome.next (spdmRun s via eid stage act) : Out) = .next s := fun _ _ =>
    congrArg _ (spdmRun_unserved h eid _ _)
  have hp : ¬ pldmServes s via = true := by simp [pldm_unserved h]
  have hm : ¬ mgmtServes s via = true := by simp [h]
  exact ⟨hsp _ _, hsp _ _, hsp _ _, hsp _ _, hsp _ _, hsp _ _, hsp _ _, congrArg _ (if_pos hp), congrArg _ (if_pos hp), congrArg _ (if_pos hp),
    congrArg _ (if_pos hp), congrArg _ (if_pos hp), congrArg _ (if_pos hp), congrArg _ (if_pos hp), congrArg _ (if_pos hp),
    congrArg _ (if_pos hp), congrArg _ (if_pos hm), congrArg _ (if_pos hm)⟩

/-! ### What SPDM answers -/

section Spdm
variable {s : State} {via : Nat} (hs : mgmtServes s via = true) (hl : s.sec.lc ≠ lcVoid) (eid : Nat)
include hs hl

theorem negotiate_early {asym hash : BitVec 32} (h : s.sec.spdm < 2) :
    exec (.negotiateAlgorithms via eid asym hash) s = .next (spdmReply s via eid (.error 0x04)) :=
  congrArg Host.Outcome.next (spdmRun_early hs hl eid _ h)

theorem negotiate_disagrees {asym hash : BitVec 32} (h : 2 ≤ s.sec.spdm) (hn : asym.getLsbD 7 = false ∨ hash.getLsbD 1 = false) :
    exec (.negotiateAlgorithms via eid asym hash) s =
      .next (spdmReply s via eid (.algorithms (if asym.getLsbD 7 then 128 else 0) (if hash.getLsbD 1 then 2 else 0))) := by
  refine congrArg Host.Outcome.next ((spdmRun_acts hs hl eid _ h).trans ?_)
  obtain ha | hh := hn
  · dsimp only
    rw [ha]
    cases hash.getLsbD 1 <;> rfl
  · dsimp only
    rw [hh]
    cases asym.getLsbD 7 <;> rfl

theorem negotiate_agrees {asym hash : BitVec 32} (h : 2 ≤ s.sec.spdm) (ha : asym.getLsbD 7 = true) (hh : hash.getLsbD 1 = true) :
    exec (.negotiateAlgorithms via eid asym hash) s =
      .next (spdmReply (updSec s fun x => { x with spdm := 3 }) via eid (.algorithms 128 2)) := by
  refine congrArg Host.Outcome.next ((spdmRun_acts hs hl eid _ h).trans ?_)
  simp [ha, hh, b2n]

theorem capabilities_acts {v : Nat} (h : 1 ≤ s.sec.spdm) (hv : v = 0x12 ∨ v = 0x13) :
    exec (.getCapabilities via eid v) s =
      .next (spdmReply (updSec s fun x => { x with spdm := 2, spdmVersion := v }) via eid (.capabilities v 0x36)) :=
  congrArg Host.Outcome.next ((spdmRun_acts hs hl eid _ h).trans (if_neg (by omega)))

theorem certificate_acts (o n : Nat) (h : 3 ≤ s.sec.spdm) (ho : o < (chainBytes s).length) :
    exec (.getCertificate via eid 0 o n) s = .next (spdmReply s via eid
      (.certificate 0 ((chainBytes s).length - o - (((chainBytes s).drop o).take n).length) (((chainBytes s).drop o).take n))) :=
  congrArg Host.Outcome.next ((spdmRun_acts hs hl eid _ h).trans (if_neg (by omega)))

theorem challenge_acts (nonce : BitVec 256) (h : 3 ≤ s.sec.spdm) :
    exec (.challenge via eid 0 nonce) s = .next (spdmReply (updSec s fun x => { x with nonces := x.nonces + 1 }) via eid
      (.challengeAuth 0 (chainHash s) (Config.spdmNonce s.sec.nonces) (Config.aliasSign s.sec.cdiL1
        (chainHash s ++ leBytes 32 nonce.toNat ++ leBytes 32 (Config.spdmNonce s.sec.nonces).toNat)))) :=
  congrArg Host.Outcome.next ((spdmRun_acts hs hl eid _ h).trans (if_neg (by simp)))

/-- The blocks of a measurements request: none for 0, all eight for 255, the named one else. -/
theorem measurements_acts (op : Nat) (nonce : BitVec 256) (sign : Bool) (h : 3 ≤ s.sec.spdm) (hop : op ≤ 8 ∨ op = 255) :
    (let blocks := (if op = 0 then [] else if op = 255 then [1, 2, 3, 4, 5, 6, 7, 8] else [op]).map fun i =>
       (i, (measurement s i).1, (measurement s i).2)
     let mine := Config.spdmNonce s.sec.nonces
     exec (.getMeasurements via eid 0 op sign nonce) s = .next (spdmReply (updSec s fun x => { x with nonces := x.nonces + 1 }) via eid
       (.measurements 0 8 blocks mine (if sign then some (Config.aliasSign s.sec.cdiL1
         ((blocks.flatMap fun b => leBytes 1 b.1 ++ b.2.2) ++ leBytes 32 nonce.toNat ++ leBytes 32 mine.toNat)) else none)))) :=
  congrArg Host.Outcome.next ((spdmRun_acts hs hl eid _ h).trans (if_neg (by omega)))

theorem measurements_one {i : Nat} (nonce : BitVec 256) (h : 3 ≤ s.sec.spdm) (h1 : 1 ≤ i) (h8 : i ≤ 8) :
    exec (.getMeasurements via eid 0 i false nonce) s = .next (spdmReply (updSec s fun x => { x with nonces := x.nonces + 1 }) via eid
      (.measurements 0 8 [(i, (measurement s i).1, (measurement s i).2)] (Config.spdmNonce s.sec.nonces) none)) := by
  have hm := measurements_acts hs hl eid i nonce false h (.inl h8)
  rw [if_neg (by omega), if_neg (by omega)] at hm
  exact hm

end Spdm

/-! ### What PLDM answers -/

/-- A state sensor's report, as a threshold's, is of management alone. -/
theorem reportState_wearOnly (s : State) (sensor value : Nat) : WearOnly s (reportState s sensor value) := by
  unfold reportState
  dsimp only
  split
  · exact .refl s
  · exact .trans (t := updMgmt s _) ⟨rfl, rfl, rfl⟩ (pldmEvent_wearOnly _ _)

theorem settlePldm_wearOnly (s : State) : WearOnly s (settlePldm s) := by
  refine .trans (.foldl (fun s k => reportLevel_wearOnly s _ _ _) _ _) (.foldl (fun s i => ?_) _ _)
  split
  · exact reportState_wearOnly ..
  · exact .refl s

section Pldm
variable {s : State} {via : Nat} (hp : pldmServes s via = true) (eid : Nat)
include hp

theorem getPdr_none {n : Nat} (h : pdrRecords.length < n) : exec (.getPdr via eid n) s = .next (mgmtReply s via eid 1 (.done 0x82)) := by
  refine congrArg Host.Outcome.next ((if_neg (by simp [hp])).trans ?_)
  simp only [if_neg (show n ≠ 0 by omega), List.getElem?_eq_none (show pdrRecords.length ≤ n - 1 by omega)]

theorem getPdr_some {n : Nat} (h0 : n ≠ 0) (h : n - 1 < pdrRecords.length) :
    ∃ next id kind, exec (.getPdr via eid n) s = .next (mgmtReply s via eid 1 (.pdr next id kind)) ∧
      pdrRecords[n - 1]? = some (id, kind) ∧ (next = 0 ∨ next = n + 1) := by
  refine ⟨if n < pdrRecords.length then n + 1 else 0, _, _, congrArg Host.Outcome.next ((if_neg (by simp [hp])).trans ?_),
    List.getElem?_eq_getElem h, ?_⟩
  · simp only [if_neg h0, List.getElem?_eq_getElem h]; rfl
  · split
    · exact .inr rfl
    · exact .inl rfl

theorem sensor_none {n : Nat} (h : numericSensor s n = none) :
    exec (.getSensorReading via eid n) s = .next (mgmtReply s via eid 1 (.done 0x80)) := by
  refine congrArg Host.Outcome.next ((if_neg (by simp [hp])).trans ?_)
  simp only [h]; rfl

theorem sensor_some {n : Nat} {v : Option Int} (h : numericSensor s n = some v) :
    exec (.getSensorReading via eid n) s = .next (mgmtReply s via eid 1 (.numeric v (Tbl.get 0 s.mgmt.levels n))) := by
  refine congrArg Host.Outcome.next ((if_neg (by simp [hp])).trans ?_)
  simp only [h]

theorem stateSensor_none {n : Nat} (h : stateSensor s n = none) :
    exec (.getStateSensorReadings via eid n) s = .next (mgmtReply s via eid 1 (.done 0x80)) := by
  refine congrArg Host.Outcome.next ((if_neg (by simp [hp])).trans ?_)
  simp only [h]; rfl

theorem stateSensor_some {n v : Nat} (h : stateSensor s n = some v) :
    exec (.getStateSensorReadings via eid n) s = .next (mgmtReply s via eid 1 (.state v)) := by
  refine congrArg Host.Outcome.next ((if_neg (by simp [hp])).trans ?_)
  simp only [h]

theorem effecter_none {n : Nat} (v : Nat) (h : n < 0x400 ∨ 0x406 ≤ n) :
    exec (.setStateEffecterStates via eid n v) s = .next (mgmtReply s via eid 1 (.done 0x80)) :=
  congrArg Host.Outcome.next ((if_neg (by simp [hp])).trans (if_pos h))

theorem effecter_range {n v : Nat} (h1 : 0x400 ≤ n) (h2 : n < 0x406) (hv : 3 < v) :
    exec (.setStateEffecterStates via eid n v) s = .next (mgmtReply s via eid 1 (.done 0x81)) :=
  congrArg Host.Outcome.next ((if_neg (by simp [hp])).trans ((if_neg (by omega)).trans (if_pos hv)))

theorem effecter_sets {i v : Nat} (hi : i < 6) (hv : v ≤ 3) : exec (.setStateEffecterStates via eid (0x400 + i) v) s =
    .next (mgmtReply (updIndicator s i fun x => { x with mode := BitVec.ofNat 2 v }) via eid 1 (.done 0)) := by
  refine congrArg Host.Outcome.next ((if_neg (by simp [hp])).trans ((if_neg (by omega)).trans ((if_neg (by omega)).trans ?_)))
  rw [Nat.add_sub_cancel_left]; rfl

theorem receiver_set (on : Bool) : ∃ t, exec (.setEventReceiver via eid on) s = .next t ∧
    t.mgmt.receiver = (if on then some (via, eid) else none) ∧ t.work = s.work := by
  have hrun : exec (.setEventReceiver via eid on) s = .next (mgmtReply (updMgmt (settlePldm (updMgmt s fun m => { m with receiver := none }))
      fun m => { m with receiver := if on then some (via, eid) else none }) via eid 1 (.done pldmOk)) :=
    congrArg Host.Outcome.next (if_neg (by simp [hp]))
  have hw := (settlePldm_wearOnly (updMgmt s fun m => { m with receiver := none })).work
  refine ⟨_, hrun, ?_⟩
  generalize settlePldm (updMgmt s fun m => { m with receiver := none }) = w at hw
  exact ⟨rfl, hw⟩

theorem requestUpdate_notReady (h : stagingBusy s = true ∨ (commitRec s).trial = true) :
    exec (.requestUpdate via eid) s = .next (mgmtReply s via eid 1 (.done 4)) :=
  congrArg Host.Outcome.next ((if_neg (by simp [hp])).trans (if_pos h))

theorem requestUpdate_begins (h1 : stagingBusy s = false) (h2 : (commitRec s).trial = false) :
    exec (.requestUpdate via eid) s = .next (mgmtReply (updMgmt
      (updSec (writeInactive s FwSlot.empty) fun x => { x with stagedVersion := 0 }) fun m =>
        { m with update := some { image := [], verified := false } }) via eid 1 (.done 0)) :=
  congrArg Host.Outcome.next ((if_neg (by simp [hp])).trans (if_neg (by simp [h1, h2])))

theorem update_none (h : s.mgmt.update = none) : exec (.verifyComplete via eid) s = .next (mgmtReply s via eid 1 (.done 0x80)) ∧
    exec (.activateFirmware via eid) s = .next (mgmtReply s via eid 1 (.done 0x80)) := by
  constructor <;>
  · refine congrArg Host.Outcome.next ((if_neg (by simp [hp])).trans ?_)
    simp only [h]; rfl

/-- VerifyComplete stages the image of the update: verified where the checks pass, its version staged then alone. -/
theorem verifyComplete_spec {u : Update} (h : s.mgmt.update = some u) : ∃ t, exec (.verifyComplete via eid) s = .next t ∧
    t.mgmt.update = some { u with verified := (stageFails s (slotOfImage u.image)).isNone } ∧ t.work = s.work ∧
    (stageFails s (slotOfImage u.image) = none → t.sec.stagedVersion = BitVec.ofNat 32 (slotOfImage u.image).version) ∧
    ((stageFails s (slotOfImage u.image)).isSome = true → t.sec.stagedVersion = 0) := by
  have hrun : exec (.verifyComplete via eid) s = .next (
      (let r := stageImage s u.image
       let s := updMgmt r.1 fun m => { m with update := some { u with verified := r.2.isNone } }
       let s := if r.2.isNone then sendDeviceEvent s 5 0 0 (enabledCount s) else s
       mgmtReply s via eid 1 (.done (r.2.getD pldmOk)))) := by
    refine congrArg Host.Outcome.next ((if_neg (by simp [hp])).trans ?_)
    simp only [h]
  refine ⟨_, hrun, ?_⟩
  cases hf : stageFails s (slotOfImage u.image) with
  | some r =>
    rw [stageImage_fails hf]
    exact ⟨rfl, rfl, nofun, fun _ => rfl⟩
  | none =>
    rw [stageImage_passes hf]
    dsimp only [Option.isNone_none, if_true]
    generalize hv : updMgmt _ _ = v
    obtain ⟨w, l, hw, he⟩ := deviceEvent_frame v 0x0B80 32
      (leBytes 1 5 ++ leBytes 1 0 ++ leBytes 2 0 ++ leBytes 1 (enabledCount v))
    rw [if_pos rfl, sendDeviceEvent, he]
    refine ⟨?_, ?_, fun _ => ?_, nofun⟩
    · show w.mgmt.update = _
      rw [hw.mgmt, ← hv]; rfl
    · show w.work = _
      rw [hw.work, ← hv]; rfl
    · show w.sec.stagedVersion = _
      rw [hw.sec, ← hv]; rfl

end Pldm

/-! ### The update's activation, MCTP and the transports -/

section Activate
variable {s : State} {via : Nat} (hp : pldmServes s via = true) (eid : Nat) {u : Update} (hu : s.mgmt.update = some u)
include hp hu

theorem activate_unverified (hv : u.verified = false) :
    exec (.activateFirmware via eid) s = .next (mgmtReply s via eid 1 (.done 4)) := by
  refine congrArg Host.Outcome.next ((if_neg (by simp [hp])).trans ?_)
  simp only [hu]
  exact if_pos (by simp [hv])

theorem activate_lower (hv : u.verified = true) (h1 : lowerStaged s = true) (h2 : presence s = false) :
    exec (.activateFirmware via eid) s = .next (mgmtReply s via eid 1 (.done 1)) := by
  refine congrArg Host.Outcome.next ((if_neg (by simp [hp])).trans ?_)
  simp only [hu]
  exact (if_neg (by simp [hv])).trans (if_pos ⟨h1, by simp [h2]⟩)

theorem activate_acts (hv : u.verified = true) (h : lowerStaged s = false ∨ presence s = true) :
    exec (.activateFirmware via eid) s =
      .next (warmRestart (mgmtReply (updMgmt (activateStaged s) fun m => { m with update := none }) via eid 1 (.done 0)) false) := by
  refine congrArg Host.Outcome.next ((if_neg (by simp [hp])).trans ?_)
  simp only [hu]
  exact (if_neg (by simp [hv])).trans (if_neg (by obtain h | h := h <;> simp [h]))

end Activate

section Mctp
variable {s : State} {via : Nat} (hs : mgmtServes s via = true) (eid : Nat)
include hs

theorem mctpMessage_undecoded {type : Nat} {body : List Byte} (ht : type = 0 ∨ type = 1 ∨ type = 5)
    (h : Config.mctpDecode type body = none) : exec (.mctpMessage via eid type body) s = .next s := by
  refine congrArg Host.Outcome.next ((if_neg (by simp [hs])).trans ((if_pos ht).trans ?_))
  simp only [h]

theorem mctpMessage_decoded {type : Nat} {body : List Byte} {r : MgmtReq} (ht : type = 0 ∨ type = 1 ∨ type = 5)
    (h : Config.mctpDecode type body = some r) : exec (.mctpMessage via eid type body) s = .next (mgmtRequest via eid s r) := by
  refine congrArg Host.Outcome.next ((if_neg (by simp [hs])).trans ((if_pos ht).trans ?_))
  simp only [h]

theorem mctpMessage_otherType {type : Nat} (body : List Byte) (ht : type ∉ [0, 1, 5, 0x7E]) :
    exec (.mctpMessage via eid type body) s = .next s := by
  simp only [List.mem_cons, List.not_mem_nil, or_false, not_or] at ht
  obtain ⟨h0, h1, h5, hv⟩ := ht
  exact congrArg Host.Outcome.next ((if_neg (by simp [hs])).trans ((if_neg (by simp [h0, h1, h5])).trans (if_neg (by simp [hv]))))

theorem mctpMessage_vendor (body : List Byte) : exec (.mctpMessage via eid 0x7E body) s =
    .next (if body.take 2 = (leBytes 2 Config.vendorId.toNat).reverse ∧ imgLe body 2 1 = 0 ∧ 19 ≤ body.length then
      mgmtCommand via eid (body.drop 3) s else s) :=
  congrArg Host.Outcome.next ((if_neg (by simp [hs])).trans ((if_neg (by decide)).trans (by simp only [true_and])))

end Mctp

theorem mctpSent_nothing {s : State} {via : Nat} (h : (nth Transport.reset s.mgmt.transports via).queue = [] ∨
    (nth Transport.reset s.mgmt.transports via).timeout = true ∨ (via = 2 ∧ s.host.chip.linkUp = false) ∨ s.sys.clocks = false) :
    exec (.mctpMessageSent via) s = .next s := by
  refine congrArg Host.Outcome.next ?_
  dsimp only
  split
  · rfl
  · next hq => exact if_pos (by obtain h | h | h | h := h <;> simp_all)

theorem mctpSent_head {s : State} {via : Nat} {o : Outgoing} {rest : List Outgoing}
    (hq : (nth Transport.reset s.mgmt.transports via).queue = o :: rest) (ht : (nth Transport.reset s.mgmt.transports via).timeout = false)
    (hl : via ≠ 2 ∨ s.host.chip.linkUp = true) (hc : s.sys.clocks = true) : exec (.mctpMessageSent via) s =
      .next (emit (updMgmt s fun m => { m with transports := modNth m.transports via fun t => { t with queue := rest } })
        (.mctp via o.type o.data)) := by
  refine congrArg Host.Outcome.next ?_
  simp only [hq]
  exact if_neg (by obtain h | h := hl <;> simp [ht, hc, h])

/-- A timeout that is logged leaves the transports and the work. -/
theorem logTimeout_rel (s : State) (port : Nat) : ∃ f, logTimeout s port = updRel s f := by
  unfold logTimeout
  dsimp only
  split
  · exact ⟨_, rfl⟩
  · exact log_rel ..

theorem smbusTimeout_marks {s : State} {port : Nat} (hp : port < 2) (h : port < s.mgmt.transports.length) :
    ∃ t, exec (.smbusTimeout port) s = .next t ∧ (nth Transport.reset t.mgmt.transports port).timeout = true ∧
      (nth Transport.reset t.mgmt.transports port).timeouts = satInc (nth Transport.reset s.mgmt.transports port).timeouts 1 ∧
      t.work = s.work := by
  have hself := nth_modNth_self Transport.reset (fun t : Transport => { t with timeout := true, timeouts := satInc t.timeouts 1 }) h
  refine ⟨_, congrArg Host.Outcome.next (if_neg (by omega)), ?_⟩
  dsimp only
  generalize hu : updMgmt s _ = u
  obtain ⟨f, hf⟩ := logTimeout_rel u port
  have hm : (if (nth Transport.reset s.mgmt.transports port).timeout = true then u else logTimeout u port).mgmt = u.mgmt ∧
      (if (nth Transport.reset s.mgmt.transports port).timeout = true then u else logTimeout u port).work = u.work := by
    split
    · exact ⟨rfl, rfl⟩
    · rw [hf]; exact ⟨rfl, rfl⟩
  rw [hm.1, hm.2, ← hu]
  exact ⟨congrArg Transport.timeout hself, congrArg Transport.timeouts hself, rfl⟩

theorem smbusRetry_ends {s : State} {port : Nat} (hp : port < 2) (h : port < s.mgmt.transports.length) :
    ∃ t, exec (.smbusRetry port true) s = .next t ∧ (nth Transport.reset t.mgmt.transports port).timeout = false ∧ t.work = s.work :=
  ⟨_, congrArg Host.Outcome.next (if_neg (by simp; omega)), congrArg Transport.timeout (nth_modNth_self _ _ h), rfl⟩

theorem firmwareTransfer_nothing {s : State} {o : Nat} {data : List Byte}
    (h : s.mgmt.update = none ∨ 33554432 < o + data.length) : exec (.firmwareTransfer o data) s = .next s := by
  refine congrArg Host.Outcome.next ?_
  unfold transferFirmware
  split
  · next hu => exact if_pos (h.resolve_left (by simp [hu]))
  · rfl

theorem firmwareTransfer_splices {s : State} {u : Update} {o : Nat} {data : List Byte} (hu : s.mgmt.update = some u)
    (h : o + data.length ≤ 33554432) : exec (.firmwareTransfer o data) s =
      .next (updMgmt s fun m => { m with update := some { image := splice u.image o data, verified := false } }) := by
  refine congrArg Host.Outcome.next ?_
  unfold transferFirmware
  simp only [hu]
  exact if_neg (by omega)

/-- Settles O50: each request by whether its transport is served, the stage of the connection and what it names. -/
theorem managementAnswersOnItsTransports : Obligations.ManagementAnswersOnItsTransports := by
  unfold Obligations.ManagementAnswersOnItsTransports
  intro s via eid
  refine ⟨(unserved_answersNothing · eid), fun hs hl => ?_, fun hs => ?_, fun o data => firmwareTransfer_nothing, mctpSent_nothing,
    fun port high => ⟨fun h => congrArg _ (if_pos h), fun h => congrArg _ (if_pos (h.imp_right fun h => by simp [h]))⟩,
    fun hs hl => ?_, fun hs => ?_, fun u o data => firmwareTransfer_splices, fun o rest => mctpSent_head,
    fun port hp h => ⟨smbusTimeout_marks hp h, smbusRetry_ends hp h⟩⟩
  case refine_1 =>
    have hp := pldm_served hs hl
    have hearly : ∀ {stage : Nat} (act : State → State), s.sec.spdm < stage →
        (Host.Outcome.next (spdmRun s via eid stage act) : Out) = .next (spdmReply s via eid (.error 0x04)) :=
      fun act h => congrArg _ (spdmRun_early hs hl eid act h)
    have hacts : ∀ {stage : Nat} (act : State → State), stage ≤ s.sec.spdm →
        (Host.Outcome.next (spdmRun s via eid stage act) : Out) = .next (act s) :=
      fun act h => congrArg _ (spdmRun_acts hs hl eid act h)
    refine ⟨fun v h => hearly _ h, fun v h h2 h3 => (hacts _ h).trans (congrArg _ (if_pos ⟨h2, h3⟩)),
      fun asym hash => ⟨negotiate_early hs hl eid, negotiate_disagrees hs hl eid⟩, fun slot o n op nonce sign => ⟨fun h => ?_, fun h => ?_⟩,
      rfl, fun n => getPdr_none hp eid, fun n => sensor_none hp eid, fun n => stateSensor_none hp eid, fun n v => effecter_none hp eid v,
      fun n v => effecter_range hp eid, requestUpdate_notReady hp eid, update_none hp eid,
      fun u hu => ⟨activate_unverified hp eid hu, activate_lower hp eid hu⟩⟩
    · exact ⟨hearly _ h, hearly _ h, hearly _ h⟩
    · refine ⟨fun hn => (hacts _ h).trans (congrArg _ (if_pos hn)), fun hn => (hacts _ h).trans (congrArg _ (if_pos hn)),
        fun hn => (hacts _ h).trans (congrArg _ (if_pos hn)), fun h0 hop => ?_⟩
      rw [h0]
      exact measurements_acts hs hl eid op nonce sign h hop
  case refine_2 =>
    refine ⟨fun id h => congrArg _ ((if_neg (by simp [hs])).trans (if_pos h)), fun type body => mctpMessage_undecoded hs eid,
      fun type body => mctpMessage_otherType hs eid body, fun body h => ?_⟩
    rw [mctpMessage_vendor hs, if_neg]
    rintro ⟨h1, h2, h3⟩
    obtain h | h | h := h
    · exact h h1
    · exact h h2
    · omega
  case refine_3 =>
    have hp := pldm_served hs hl
    exact ⟨congrArg _ (spdmRun_acts hs hl eid _ (Nat.zero_le _)), fun h v => capabilities_acts hs hl eid h,
      fun h asym hash => negotiate_agrees hs hl eid h, fun h => congrArg _ (spdmRun_early hs hl eid _ h),
      fun h => ⟨congrArg _ (spdmRun_acts hs hl eid _ h), fun o n => certificate_acts hs hl eid o n h,
        fun nonce => ⟨challenge_acts hs hl eid nonce h, fun i => measurements_one hs hl eid nonce h⟩⟩,
      fun n => getPdr_some hp eid, fun n v => sensor_some hp eid, fun n v => stateSensor_some hp eid, fun i v => effecter_sets hp eid,
      receiver_set hp eid, requestUpdate_begins hp eid, fun u hu => ⟨verifyComplete_spec hp eid hu, activate_acts hp eid hu⟩,
      congrArg _ (if_neg (by simp [hp]))⟩
  case refine_4 =>
    refine ⟨fun id h1 h2 => congrArg _ ((if_neg (by simp [hs])).trans (if_neg (by omega))), fun body h1 h2 h3 => ?_,
      fun type body r => mctpMessage_decoded hs eid⟩
    rw [mctpMessage_vendor hs, if_pos ⟨h1, h2, h3⟩]

end Sys2Proof.Machine
end

section
/-! The commands that halt, step and read the signal unit of a core. -/

namespace Sys2Proof.Machine
set_option Elab.async false -- one proof at a time, for the memory of the check

/-! ### Commands that name a core -/

section
variable {s t : State} {m : Msg} {c : Ctx} {op len p : Nat}

theorem mayDebug_of_root {src : Source} (h : isRoot src = true) : mayDebug t src = true := by
  cases src with
  | fn f => exact Bool.or_eq_true_iff.mpr (.inl h)
  | mgmt => rfl
  | client _ => cases h

/-- The shared checks of a root source's command that names an enabled core pass: what the command adds decides. -/
theorem onCore_of_root (hc : Carried s op 0x100 len m t c) (hr : isRoot c.m.src = true) (hp : physicalCore t (c.f 0x10 1) = some p)
    (h0 : c.f 0x11 1 = 0) {fields : Bool} (hf : fields = true) {tenant : Nat → Bool} (ht : tenant p = true)
    {rest : Nat → List (Bool × Nat)} (hrest : firstFail (rest p) = none) (act : Nat → State × Option Done) :
    onCore c t fields tenant rest act = act p := by
  simp only [onCore, hp, checks_of_carried hc, hf, h0, mayDebug_of_root hr, hr, ht]
  exact congrArg (fun r => whenOk t r (act p)) hrest

end

/-- What DBG_READ finds for the first job of a core that its source may read. -/
theorem carryDbgRead_of_object {s t : State} {m : Msg} {c : Ctx} {p : Nat} {e : Nat × Job} {q : Part} {d : List Byte}
    (hc : Carried s 0x0C03 0x100 40 m t c) (hr : isRoot c.m.src = true) (hp : physicalCore t (c.f 0x10 1) = some p) (h0 : c.f 0x11 1 = 0)
    (hz1 : c.zero 0x13 0x14 = true) (hz2 : c.zero 0x20 0x28 = true) (he : (debugJobs t c.m.src p).head? = some e)
    (hq : getPart t e.2.part = some q) (hh : q.holds (c.f 0x18 8) d.length = true) (hobj : c.f 0x12 1 < 4)
    (hwords : (c.f 0x12 1 ≠ 1 ∧ c.f 0x12 1 ≠ 2) ∨ c.f 0x14 4 + 1024 ≤ 32768)
    (hd : debugObject t p e.2 (c.f 0x12 1) (c.f 0x14 4) = some d) :
    carryDbgRead c t = (hbmWrite t e.2.part (c.f 0x18 8) d, some ⟨eOk, d.length, 0, 0, 0⟩) := by
  have hdata : ((debugJobs t c.m.src p).head?.bind fun e => (debugObject t p e.2 (c.f 0x12 1) (c.f 0x14 4)).map fun d => (e.2.part, d)) =
      some (e.2.part, d) := by rw [he, Option.bind_some, hd]; rfl
  refine (onCore_of_root hc hr hp h0 ?_ ?_ ?_ _).trans ?_
  · have hlt : c.f 0x12 1 < (if 0x202 ≤ c.ver then 6 else 4) := by split <;> omega
    simpa [hz1, hz2, hlt] using hwords
  · simp only [hdata, Option.elim_some, hq, hh]
  · simp only [hdata]; rfl
  · simp only [hdata]

/-- Without a find of the error correction the running unit is as it was. -/
theorem runningFinds_nil (s : State) (k : Nat) : runningFinds s k [] = s := by
  unfold runningFinds
  split <;> rfl

/-- Settles O41: a root source's checks pass on an enabled core, and the unit changes as the command says. -/
theorem debugCommandsActOnTheNamedCore : Obligations.DebugCommandsActOnTheNamedCore := by
  unfold Obligations.DebugCommandsActOnTheNamedCore
  intro s m t c p hroot hp h0
  refine ⟨fun hc hz hr => ⟨fun hh => ?_, fun hh => ?_⟩, fun hc hz hh => ?_, fun hc hz hh => ?_,
    fun e q d hc hz1 hz2 he hq hd hobj => ?_, fun k h1 h2 h3 h4 => ?_⟩
  case refine_1 =>
    obtain rfl := hc.msg
    refine runCommand_of_done hc (by decide) (by decide) ?_
    exact (onCore_of_root hc hroot hp h0 hz rfl (by rw [hr]; rfl) _).trans (if_pos hh)
  case refine_2 =>
    obtain rfl := hc.msg
    refine runCommand_of_waits hc (by decide) (by decide) ?_
    exact (onCore_of_root hc hroot hp h0 hz rfl (by rw [hr]; rfl) _).trans (if_neg (by simp [hh]))
  case refine_3 =>
    obtain rfl := hc.msg
    exact runCommand_of_waits hc (by decide) (by decide) (onCore_of_root hc hroot hp h0 hz rfl (by rw [hh]; rfl) _)
  case refine_4 =>
    obtain rfl := hc.msg
    exact runCommand_of_done hc (by decide) (by decide) (onCore_of_root hc hroot hp h0 hz rfl (by rw [hh]; rfl) _)
  case refine_5 =>
    obtain rfl := hc.msg
    refine runCommand_of_done hc (by decide) (by decide) ?_
    obtain ⟨ho, hobj⟩ | ⟨ho, hw, hobj⟩ | ⟨ho, hw, hobj⟩ := hobj
    · exact carryDbgRead_of_object hc hroot hp h0 hz1 hz2 he hq hd (by omega) (.inl (by omega)) (by rw [ho, hobj]; exact rfl)
    · exact carryDbgRead_of_object hc hroot hp h0 hz1 hz2 he hq hd (by omega) (.inr hw) (by rw [ho, hobj]; exact rfl)
    · exact carryDbgRead_of_object hc hroot hp h0 hz1 hz2 he hq hd (by omega) (.inr hw) (by rw [ho, hobj]; exact rfl)
  case refine_6 =>
    refine congrArg Host.Outcome.next ?_
    rw [if_pos h2, runningFinds_nil]
    exact if_neg (by simp [h1, h2, h3, h4])

end Sys2Proof.Machine
end

section
/-! Commands of PF0 and management that test units, stage and activate firmware, advance the life cycle, mend and arm the seal. -/

namespace Sys2Proof.Machine
set_option Elab.async false -- one proof at a time, for the memory of the check

section
variable {s t : State} {m : Msg} {c : Ctx}

theorem carrySelftest_of_fields (hc : Carried s 0x0B00 0x100 32 m t c) (hr : isRoot c.m.src = true) (h2 : c.f 0x10 1 ≤ 2)
    (hz : c.zero 0x12 0x14 = true) (hfull : c.f 0x10 1 = 2 → presence t = true ∧ loadedCount t = 0 ∧ bistRuns t = false)
    (hclaims : ((testUnits c).filter fun u => !disabled t u.kind u.index).any (lcClaims t) = false) :
    carrySelftest c t = (settleTests (updRel t fun r => { r with tests := r.tests ++
      [{ ticket := c.tid, scope := c.f 0x10 1, since := nowNs t, todo := (testUnits c).filter fun u => !disabled t u.kind u.index,
         begun := [], tested := 0, failed := [] }] }), none) := by
  have hpresent : (decide (c.f 0x10 1 ≠ 2) || presence t) = true := by
    by_cases h : c.f 0x10 1 = 2
    · simp [(hfull h).1]
    · simp [h]
  have hidle : (!(decide (c.f 0x10 1 = 2) && decide (loadedCount t ≠ 0 ∨ bistRuns t = true))) = true := by
    by_cases h : c.f 0x10 1 = 2
    · simp [(hfull h).2.1, (hfull h).2.2]
    · simp [h]
  simp only [carrySelftest, checks_of_carried hc, hr, hz, h2, hpresent, hidle, hclaims]
  rfl

theorem carryFwStage_of_bytes {q : Part} (hc : Carried s 0x0B01 0x100 32 m t c) (hr : isRoot c.m.src = true) (hn : NamesPart t c q)
    (hh : q.holds (c.f 0x18 8) (c.f 0x14 4) = true) (hb : stagingBusy t = false) (htrial : (commitRec t).trial = false) :
    carryFwStage c t = (updSec (writeInactive t FwSlot.empty) fun y =>
      { y with staging := some { ticket := c.tid, image := hbmBytes t q (c.f 0x18 8) (c.f 0x14 4) }, stagedVersion := 0 }, none) := by
  obtain ⟨hp, hz, hq, -⟩ := hn
  simp only [carryFwStage, hq, checks_of_carried hc, hp, hz, hr, hh, hb, htrial]
  rfl

theorem carryFwActivate_of_staged (hc : Carried s 0x0B02 0x100 24 m t c) (hr : isRoot c.m.src = true) (h2 : c.f 0x10 1 < 2)
    (hz : c.zero 0x11 0x18 = true) (hb : stagingBusy t = false) (hv : t.sec.stagedVersion ≠ 0)
    (hp : presence t = true ∨ lowerStaged t = false) :
    carryFwActivate c t = (if c.f 0x10 1 = 1 then warmRestart (complete (activateStaged t) c.tid (Done.of eOk)) false
      else complete (activateStaged t) c.tid (Done.of eOk), none) := by
  have hpresent : (presence t || !lowerStaged t) = true := by simpa using hp
  have hv' : decide (t.sec.stagedVersion ≠ 0) = true := decide_eq_true hv
  simp only [carryFwActivate, checks_of_carried hc, hr, h2, hz, hb, hpresent, hv']
  rfl

/-- What LC_ADVANCE does with a listed transition, whose presence is held, that nothing else stands against (R533). -/
theorem carryLcAdvance_of_listed (hc : Carried s 0x0B03 0x100 24 m t c) (hr : isRoot c.m.src = true) (hz : c.zero 0x11 0x18 = true)
    (hp : lcPresent t (c.f 0x10 1) = true) (hto : c.f 0x10 1 ≤ 5) (hlisted : (lcNeeds t.sec.lc (c.f 0x10 1)).isSome = true)
    (hparts : c.f 0x10 1 = lcReturned ∨ c.f 0x10 1 = lcVoid → t.work.parts = []) (hcert : t.sec.lc = lcMaker → t.sec.certStored = true)
    (htrans : c.f 0x10 1 = lcService → t.sec.fuses.transitions < 64) :
    carryLcAdvance c t = if c.f 0x10 1 = lcReturned ∨ c.f 0x10 1 = lcVoid
      then (warmRestart (complete (lcMove t (c.f 0x10 1)) c.tid (Done.of eOk)) false, none)
      else (lcMove t (c.f 0x10 1), some (Done.of eOk)) := by
  have hparts' : (!(decide (c.f 0x10 1 = lcReturned ∨ c.f 0x10 1 = lcVoid) && !t.work.parts.isEmpty)) = true := by
    by_cases h : c.f 0x10 1 = lcReturned ∨ c.f 0x10 1 = lcVoid
    · simp [hparts h]
    · simp [h]
  have hcert' : (!(decide (t.sec.lc = lcMaker) && !t.sec.certStored)) = true := by
    by_cases h : t.sec.lc = lcMaker
    · simp [hcert h]
    · simp [h]
  have htrans' : (!(decide (c.f 0x10 1 = lcService) && decide (64 ≤ t.sec.fuses.transitions))) = true := by
    by_cases h : c.f 0x10 1 = lcService
    · simp [Nat.not_le.mpr (htrans h)]
    · simp [h]
  simp only [carryLcAdvance, checks_of_carried hc, hr, hz, hp, hto, hlisted, hparts', hcert', htrans']
  rfl

theorem carryMendUpdate_of_disabled (hc : Carried s 0x0B04 0x100 24 m t c) (hr : isRoot c.m.src = true) (hk : c.f 0x11 1 ≤ 3)
    (hi : c.f 0x12 2 < kindCount (c.f 0x11 1)) (hz : c.zero 0x14 0x18 = true) (h0 : c.f 0x10 1 = 0)
    (hd : disabled t (c.f 0x11 1) (c.f 0x12 2) = true) (hv : (⟨c.f 0x11 1, c.f 0x12 2⟩ : UnitId) ∉ t.rel.volatile)
    (hp : (⟨c.f 0x11 1, c.f 0x12 2⟩ : UnitId) ∉ t.rel.pendingUnits) :
    carryMendUpdate c t = (t, some ⟨eOk, enabledCount t, 0, 0, 0⟩) := by
  have hpresent : (presence t || decide (c.f 0x10 1 = 0 ∧ ¬ (c.f 0x11 1 = 0 ∧
      ((¬ disabled t 0 (c.f 0x12 2) = true ∧ enabledCount t ≤ orderable t) ∨
      (⟨c.f 0x11 1, c.f 0x12 2⟩ : UnitId) ∈ t.rel.pendingUnits)))) = true := by
    refine Bool.or_eq_true_iff.mpr (.inr (decide_eq_true ⟨h0, ?_⟩))
    rintro ⟨hk0, ⟨hn, -⟩ | hp'⟩
    · exact hn (by rw [← hk0]; exact hd)
    · exact hp hp'
  have hfields : (decide (c.f 0x10 1 ≤ 1 ∧ c.f 0x11 1 ≤ 3 ∧ c.f 0x12 2 < kindCount (c.f 0x11 1)) && c.zero 0x14 0x18
      && (decide (c.f 0x10 1 = 0) || decide (0x201 ≤ c.ver))) = true := by simp [h0, hk, hi, hz]
  simp only [carryMendUpdate, checks_of_carried hc, hr, hfields, hpresent, decide_eq_true (Or.inl h0), if_pos h0]
  exact if_pos ⟨hd, hv⟩

theorem carryMendUpdate_of_held (hc : Carried s 0x0B04 0x100 24 m t c) (hr : isRoot c.m.src = true) (hk : c.f 0x11 1 ≤ 3)
    (hi : c.f 0x12 2 < kindCount (c.f 0x11 1)) (hz : c.zero 0x14 0x18 = true) (h1 : c.f 0x10 1 = 1) (hver : 0x201 ≤ c.ver)
    (hp : presence t = true) {u : UnitId} (hu : u = ⟨c.f 0x11 1, c.f 0x12 2⟩)
    (hheld : u ∈ fieldMap t ∨ u ∈ t.rel.mapPending ∨ u ∈ t.rel.volatile) :
    carryMendUpdate c t = (updTest (updRel t fun r => { r with tests := r.tests ++
      [{ ticket := c.tid, scope := 3, since := nowNs t, todo := [u], begun := [], tested := 0, failed := [] }] }) u
        fun x => { x with slice := 0 }, none) := by
  have hfields : (decide (c.f 0x10 1 ≤ 1 ∧ c.f 0x11 1 ≤ 3 ∧ c.f 0x12 2 < kindCount (c.f 0x11 1)) && c.zero 0x14 0x18
      && (decide (c.f 0x10 1 = 0) || decide (0x201 ≤ c.ver))) = true := by simp [h1, hk, hi, hz, hver]
  subst hu
  simp only [carryMendUpdate, checks_of_carried hc, hr, hfields, hp, decide_eq_true (Or.inr hheld),
    if_neg (show ¬ c.f 0x10 1 = 0 by omega), Bool.true_or]
  rfl

theorem carrySealArm_of_presence (hc : Carried s 0x0B05 0x100 16 m t c) (hr : isRoot c.m.src = true) (hp : presence t = true) :
    carrySealArm c t = (updSec t fun x => { x with sealArmed := !t.sec.loopOpen, sealState := if t.sec.loopOpen then 2 else 0 },
      some ⟨eOk, t.sec.sealState, b2n (!t.sec.loopOpen), 0, 0⟩) := by
  simp only [carrySealArm, checks_of_carried hc, hr, hp]
  cases t.sec.loopOpen <;> rfl

end

/-! ### LC_ADVANCE by its transitions -/

theorem lcMove_seal {t : State} (h : t.sec.lc = lcMaker) :
    lcMove t lcSealed = updSec t fun x => { x with fuses := { x.fuses with stage := lcSealed }, lc := lcSealed } := by
  have hne : ¬ t.sec.lc = lcService := by rw [h]; decide
  exact congrArg (fun x => ({ t with sec := x } : State)) (if_neg hne)

theorem lcMove_leaveService {t : State} (h : t.sec.lc = lcService) : lcMove t lcSealed = updSec t fun x =>
    { x with fuses := { x.fuses with transitions := x.fuses.transitions + 1 }, serviceFlag := false, lc := lcSealed } :=
  congrArg (fun x => ({ t with sec := x } : State)) (if_pos h)

/-- The transitions that R533 lists. -/
theorem lcNeeds_isSome_away {a b : Nat}
    (h : ((a = lcSealed ∨ a = lcService) ∧ b = lcReturned) ∨ ((a = lcSealed ∨ a = lcService ∨ a = lcReturned) ∧ b = lcVoid)) :
    (lcNeeds a b).isSome = true := by
  obtain ⟨rfl | rfl, rfl⟩ | ⟨rfl | rfl | rfl, rfl⟩ := h <;> rfl

section
variable {s t : State} {c : Ctx} (hc : Carried s 0x0B03 0x100 24 c.m t c) (hr : isRoot c.m.src = true) (hz : c.zero 0x11 0x18 = true)
  (hp : lcPresent t (c.f 0x10 1) = true)
include hc hr hz hp

theorem lcAdvance_seals (hlc : t.sec.lc = lcMaker) (hto : c.f 0x10 1 = lcSealed) (hcert : t.sec.certStored = true) :
    exec (.lcAdvance c.m) s = .next (answered
      (updSec t fun x => { x with fuses := { x.fuses with stage := lcSealed }, lc := lcSealed }) c (Done.of eOk)) := by
  refine runCommand_of_done hc (by decide) (by decide) ?_
  rw [carryLcAdvance_of_listed hc hr hz hp (by rw [hto]; decide) (by rw [hlc, hto]; rfl) (fun h => absurd h (by rw [hto]; decide)) (fun _ => hcert)
    (fun h => absurd h (by rw [hto]; decide)), hto, lcMove_seal hlc]
  rfl

theorem lcAdvance_entersService (hlc : t.sec.lc = lcSealed) (hto : c.f 0x10 1 = lcService) (htr : t.sec.fuses.transitions < 64) :
    exec (.lcAdvance c.m) s = .next (answered (updSec t fun x =>
      { x with fuses := { x.fuses with transitions := x.fuses.transitions + 1 }, serviceFlag := true, lc := lcService }) c (Done.of eOk)) := by
  refine runCommand_of_done hc (by decide) (by decide) ?_
  rw [carryLcAdvance_of_listed hc hr hz hp (by rw [hto]; decide) (by rw [hlc, hto]; rfl) (fun h => absurd h (by rw [hto]; decide))
    (fun h => absurd h (by rw [hlc]; decide))
    (fun _ => htr), hto]
  rfl

theorem lcAdvance_leavesService (hlc : t.sec.lc = lcService) (hto : c.f 0x10 1 = lcSealed) :
    exec (.lcAdvance c.m) s = .next (answered (updSec t fun x =>
      { x with fuses := { x.fuses with transitions := x.fuses.transitions + 1 }, serviceFlag := false, lc := lcSealed }) c (Done.of eOk)) := by
  refine runCommand_of_done hc (by decide) (by decide) ?_
  rw [carryLcAdvance_of_listed hc hr hz hp (by rw [hto]; decide) (by rw [hlc, hto]; rfl) (fun h => absurd h (by rw [hto]; decide))
    (fun h => absurd h (by rw [hlc]; decide))
    (fun h => absurd h (by rw [hto]; decide)), hto, lcMove_leaveService hlc]
  rfl

/-- RETURNED and VOID: the vault is erased, and the device restarts warm after its answer. -/
theorem lcAdvance_leaves {b : Nat} (hto : c.f 0x10 1 = b)
    (h : ((t.sec.lc = lcSealed ∨ t.sec.lc = lcService) ∧ b = lcReturned) ∨
      ((t.sec.lc = lcSealed ∨ t.sec.lc = lcService ∨ t.sec.lc = lcReturned) ∧ b = lcVoid)) (hparts : t.work.parts = []) :
    exec (.lcAdvance c.m) s = .next (waits (warmRestart (complete (updSec t fun x => { x with
      saks := [], ownerSeed := none, fuses := { x.fuses with stage := b }, serviceFlag := false, lc := b }) c.tid (Done.of eOk)) false)) := by
  subst hto
  have hlc : ¬ t.sec.lc = lcMaker := by
    obtain ⟨h | h, -⟩ | ⟨h | h | h, -⟩ := h <;> rw [h] <;> decide
  have haway : c.f 0x10 1 = lcReturned ∨ c.f 0x10 1 = lcVoid := h.imp And.right And.right
  refine runCommand_of_waits hc (by decide) (by decide) ?_
  rw [carryLcAdvance_of_listed hc hr hz hp (by obtain h | h := haway <;> rw [h] <;> decide) (lcNeeds_isSome_away h) (fun _ => hparts)
    (fun h => absurd h hlc) (fun hto => absurd hto (by obtain h | h := haway <;> rw [h] <;> decide)), if_pos haway, lcMove,
    if_neg (by obtain h | h := haway <;> rw [h] <;> decide), if_neg (by obtain h | h := haway <;> rw [h] <;> decide)]
  rfl

end

/-- Settles O40: a root source's checks pass, and the test, the image, the record, the stage or the monitor changes as said. -/
theorem rootCommandsTestStageAndMend : Obligations.RootCommandsTestStageAndMend := by
  unfold Obligations.RootCommandsTestStageAndMend
  intro s m t c hroot
  refine ⟨fun hc h2 hz hfull hclaims => ?_, fun q hc hn hh hb htrial => ?_, fun hc h2 hz hb hv hp => ?_, fun hc hz hp => ?_,
    fun hc hk hi hz => ⟨fun h0 hd hv hp => ?_, fun h1 hver hp hheld => ?_⟩, fun hc hp => ?_⟩
  all_goals obtain rfl := hc.msg
  case refine_1 => exact runCommand_of_waits hc (by decide) (by decide) (carrySelftest_of_fields hc hroot h2 hz hfull hclaims)
  case refine_2 => exact runCommand_of_waits hc (by decide) (by decide) (carryFwStage_of_bytes hc hroot hn hh hb htrial)
  case refine_3 => exact runCommand_of_waits hc (by decide) (by decide) (carryFwActivate_of_staged hc hroot h2 hz hb hv hp)
  case refine_4 =>
    exact ⟨lcAdvance_seals hc hroot hz hp, lcAdvance_entersService hc hroot hz hp, lcAdvance_leavesService hc hroot hz hp,
      fun hlc hto => lcAdvance_leaves hc hroot hz hp hto (.inl ⟨hlc, rfl⟩),
      fun hlc hto => lcAdvance_leaves hc hroot hz hp hto (.inr ⟨hlc, rfl⟩)⟩
  case refine_5 =>
    exact runCommand_of_done hc (by decide) (by decide) (carryMendUpdate_of_disabled hc hroot hk hi hz h0 hd hv hp)
  case refine_6 =>
    exact runCommand_of_waits hc (by decide) (by decide) (carryMendUpdate_of_held hc hroot hk hi hz h1 hver hp rfl hheld)
  case refine_7 => exact runCommand_of_done hc (by decide) (by decide) (carrySealArm_of_presence hc hroot hp)

end Sys2Proof.Machine
end

section
/-! Cells that start, stop and answer, the FAPI tunnel, and voltage floors; what the start and the end of invocations leave aside. -/

namespace Sys2Proof.Machine
set_option Elab.async false -- one proof at a time, for the memory of the check

/-! ### What the end and the start of invocations leave aside -/

/-- Power, the loads that wait, and the cells: what neither a rinse nor the start or end of an invocation changes. -/
def aside (s : State) : Power × List Loading × Tbl Cell := (s.power, s.work.loading, s.radio.cells)

section
variable (s : State)

theorem aside_foldl {α : Type} {f : State → α → State} (h : ∀ s a, aside (f s a) = aside s) (l : List α) (s : State) :
    aside (l.foldl f s) = aside s := by
  induction l generalizing s with
  | nil => rfl
  | cons a l ih => exact (ih _).trans (h s a)

theorem PortsOnly.aside_eq {s t : State} (h : PortsOnly s t) : aside t = aside s := by obtain ⟨_, _, _, _, rfl⟩ := h; rfl
theorem JobsOnly.aside_eq {s t : State} (h : JobsOnly s t) : aside t = aside s := by obtain ⟨_, _, rfl⟩ := h; rfl
theorem CoresOnly.aside_eq {s t : State} (h : CoresOnly s t) : aside t = aside s := by obtain ⟨_, _, rfl⟩ := h; rfl
theorem LedgerOnly.aside_eq {s t : State} (h : LedgerOnly s t) : aside t = aside s := by obtain ⟨_, rfl⟩ := h; rfl

@[simp] theorem aside_updCore (c : Nat) (f : CoreCtl → CoreCtl) : aside (updCore s c f) = aside s := rfl
@[simp] theorem aside_updEng (c : Nat) (f : Engines → Engines) : aside (updEng s c f) = aside s := rfl
@[simp] theorem aside_putJob (h : Nat) (j : Job) : aside (putJob s h j) = aside s := rfl
@[simp] theorem aside_updTally (n : Nat) (f : Tally → Tally) : aside (updTally s n f) = aside s := rfl
@[simp] theorem aside_charge (p kind client : Nat) (d : Ledger) : aside (charge s p kind client d) = aside s := rfl
@[simp] theorem aside_updAdapt (ci : Nat) (f : Adapt → Adapt) : aside (updAdapt s ci f) = aside s := rfl

@[simp] theorem aside_updJob (h : Nat) (f : Job → Job) : aside (updJob s h f) = aside s := by
  unfold updJob; split <;> rfl
@[simp] theorem aside_updRun (h : Nat) (f : Invocation → Invocation) : aside (updRun s h f) = aside s := aside_updJob ..
@[simp] theorem aside_updInst (h c : Nat) (f : Inst → Inst) : aside (updInst s h c f) = aside s := aside_updJob ..
@[simp] theorem aside_hbmWrite (p a : Nat) (bs : List Byte) : aside (hbmWrite s p a bs) = aside s := by
  unfold hbmWrite; split <;> rfl
@[simp] theorem aside_startRinse (parts : List (Nat × List Nat)) (use : RinseFor) : aside (startRinse s parts use) = aside s :=
  (startRinse_coresOnly ..).aside_eq
@[simp] theorem aside_partEvent (p opcode len : Nat) (body : List Byte) : aside (partEvent s p opcode len body) = aside s :=
  (writeMessage_portsOnly ..).aside_eq

@[simp] theorem aside_complete (id : Nat) (d : Done) : aside (complete s id d) = aside s := by
  unfold complete
  split
  · rfl
  · dsimp only
    split
    · rfl
    · exact (writeCompletion_portsOnly ..).aside_eq
    · split <;> rfl
@[simp] theorem aside_completeWith (id status : Nat) : aside (completeWith s id status) = aside s := aside_complete ..
@[simp] theorem aside_settleByes : aside (settleByes s) = aside s := aside_foldl (fun s _ => aside_completeWith s _ _) _ _
@[simp] theorem aside_finish (id : Nat) (d : Done) : aside (finish s id d) = aside s := by simp [finish]
@[simp] theorem aside_chargeJob (h : Nat) (d : Ledger) : aside (chargeJob s h d) = aside s := (chargeJob_ledgerOnly ..).aside_eq
@[simp] theorem aside_divideHeld (h : Nat) : aside (divideHeld s h) = aside s := (divideHeld_jobsOnly ..).aside_eq

@[simp] theorem aside_combineDigest (h point epoch : Nat) : aside (combineDigest s h point epoch) = aside s := by
  unfold combineDigest
  split
  · rfl
  · split
    · rfl
    · split
      · rfl
      · dsimp only
        rw [aside_updJob]
        split <;> simp
@[simp] theorem aside_combineAll (h : Nat) : aside (combineAll s h) = aside s := by
  unfold combineAll
  split
  · rfl
  · exact aside_foldl (fun s _ => aside_combineDigest s _ _ _) _ _

@[simp] theorem aside_testClip (h epoch station entry : Nat) : aside (testClip h epoch station s entry) = aside s := by
  unfold testClip
  split
  · rfl
  · split
    · rfl
    · split
      · rfl
      · dsimp only
        split <;> simp
@[simp] theorem aside_testClips (h : Nat) : aside (testClips s h) = aside s := by
  unfold testClips
  split
  · rfl
  · split
    · rfl
    · exact aside_foldl (fun s _ => aside_foldl (fun s _ => aside_testClip s _ _ _ _) _ s) _ _

@[simp] theorem aside_writeJobRecord (j : Job) (r : Invocation) (status : Nat) : aside (writeJobRecord s j r status) = aside s := by
  unfold writeJobRecord
  split <;> simp
@[simp] theorem aside_leaveCores (h : Nat) (j : Job) : aside (leaveCores s h j) = aside s := aside_foldl (fun s _ => aside_updCore s _ _) _ _
@[simp] theorem aside_retainSegs (j : Job) : aside (retainSegs s j) = aside s := aside_foldl (fun s _ => aside_updCore s _ _) _ _
@[simp] theorem aside_dropDebug (c : Nat) : aside (dropDebug s c) = aside s := by
  unfold dropDebug
  dsimp only
  split
  · rfl
  · exact aside_foldl (fun s _ => aside_completeWith s _ _) _ _
@[simp] theorem aside_installTables (h : Nat) (i : Inst) : aside (installTables s h i) = aside s := rfl
@[simp] theorem aside_handBack (c : Nat) : aside (handBack s c) = aside s := by
  unfold handBack
  dsimp only
  split
  · rfl
  · split
    · rfl
    · split <;> rfl
@[simp] theorem aside_releaseCore (c : Nat) : aside (releaseCore s c) = aside s := by
  unfold releaseCore
  dsimp only
  split
  · rfl
  · split <;> simp

@[simp] theorem aside_endInvocation (h status : Nat) (words : Option (Nat × Nat × Nat)) :
    aside (endInvocation s h status words) = aside s := by
  have hdone : aside (divideHeld (testClips (combineAll s h) h) h) = aside s := by simp
  unfold endInvocation
  dsimp only
  split
  · exact hdone
  · split
    · exact hdone
    · rw [aside_foldl (fun s (i : Inst) => by simp), aside_updJob, aside_retainSegs, aside_leaveCores,
        aside_foldl (fun s (p : PlanSel) => aside_complete s _ _), aside_foldl (fun s (t : Nat) => aside_completeWith s _ _)]
      split <;> simp

@[simp] theorem aside_rinseDone (use : RinseFor) : aside (rinseDone s use) = aside s := by
  cases use <;> simp [rinseDone]
@[simp] theorem aside_settleRinses : aside (settleRinses s) = aside s := aside_foldl (fun s _ => aside_rinseDone s _) _ _

/-! ### Invocations that start -/

@[simp] theorem aside_takeCore (h : Nat) (i : Inst) : aside (takeCore s h i) = aside s := by
  unfold takeCore; split <;> rfl
@[simp] theorem aside_clearVector (h : Nat) (i : Inst) : aside (clearVector s h i) = aside s := by
  unfold clearVector; split <;> rfl
@[simp] theorem aside_requestYield (c : Nat) : aside (requestYield s c) = aside s := by
  unfold requestYield
  dsimp only
  split
  · rfl
  · split <;> simp
@[simp] theorem aside_claimCore (h : Nat) (i : Inst) : aside (claimCore s h i) = aside s := by
  unfold claimCore
  dsimp only
  split <;> simp

theorem aside_startState (j : Job) (fresh : Bool) : aside (startState s j fresh) = aside s := by
  unfold startState
  split
  · exact aside_foldl (fun s _ => aside_updTally s _ _) _ _
  · rfl
theorem aside_freshCores (h : Nat) (j : Job) : aside (freshCores s h j) = aside s := by
  refine aside_foldl (fun s i => ?_) _ _
  dsimp only
  split <;> simp [installSignal, copyConstants]
theorem aside_queueCores (h : Nat) (j : Job) : aside (queueCores s h j) = aside s := by
  unfold queueCores
  split
  · exact aside_foldl (fun s _ => aside_updCore s _ _) _ _
  · exact aside_foldl (fun s _ => aside_claimCore s _ _) _ _

@[simp] theorem aside_startInvocation (h : Nat) (ticket : Option Nat) (jobStart : Bool) :
    aside (startInvocation s h ticket jobStart) = aside s := by
  cases hj : getJob s h with
  | none => unfold startInvocation; simp only [hj]
  | some j =>
    rw [startInvocation_eq hj]
    dsimp only
    rw [aside_queueCores]
    split
    · rw [aside_freshCores, aside_putJob, aside_startState]
    · rw [aside_putJob, aside_startState]

@[simp] theorem aside_makeLive (c : Cell) (k : Nat) : aside (makeLive s c k) = aside s := aside_hbmWrite ..
@[simp] theorem aside_setSlotState (c : Cell) (k v : Nat) : aside (setSlotState s c k v) = aside s := aside_hbmWrite ..
@[simp] theorem aside_loadAdapt (ci : Nat) (config : List Byte) (owner : Source) : aside (loadAdapt s ci config owner).1 = aside s := by
  unfold loadAdapt
  split
  · rfl
  · dsimp only
    split
    · rfl
    · rw [aside_updAdapt, aside_startRinse]; rfl

end

/-! ### Cells that start -/

/-- y is x but for its slots, streams and buffers: the same jobs of the same partition, waiting for the same start. -/
def Cell.SameJobs (x y : Cell) : Prop := y.up = x.up ∧ y.down = x.down ∧ y.part = x.part ∧ y.starting = x.starting

/-- From s to t no load has come, power is as it was, and every cell is there with its jobs. -/
structure Launches (s t : State) : Prop where
  power : t.power = s.power
  loading : t.work.loading ⊆ s.work.loading
  cells : ∀ ci x, getCell s ci = some x → ∃ y, getCell t ci = some y ∧ x.SameJobs y

namespace Launches
variable {s t u : State}

theorem of_aside (h : aside t = aside s) : Launches s t := by
  simp only [aside, Prod.mk.injEq] at h
  obtain ⟨hp, hl, hc⟩ := h
  exact ⟨hp, hl ▸ List.Subset.refl _, fun ci x hx => ⟨x, by rw [getCell, hc]; exact hx, rfl, rfl, rfl, rfl⟩⟩

theorem trans (h : Launches s t) (k : Launches t u) : Launches s u := by
  refine ⟨k.power.trans h.power, List.Subset.trans k.loading h.loading, fun ci x hx => ?_⟩
  obtain ⟨y, hy, h1, h2, h3, h4⟩ := h.cells ci x hx
  obtain ⟨z, hz, k1, k2, k3, k4⟩ := k.cells ci y hy
  exact ⟨z, hz, k1.trans h1, k2.trans h2, k3.trans h3, k4.trans h4⟩

theorem foldl {α : Type} {f : State → α → State} (hf : ∀ s a, Launches s (f s a)) (l : List α) (s : State) : Launches s (l.foldl f s) := by
  induction l generalizing s with
  | nil => exact .of_aside rfl
  | cons a l ih => exact (hf s a).trans (ih _)

/-- Some loads have ended. -/
theorem filterLoading (s : State) (p : Loading → Bool) :
    Launches s (updWork s fun w => { w with loading := w.loading.filter p }) :=
  ⟨rfl, List.filter_subset_self _, fun _ x hx => ⟨x, hx, rfl, rfl, rfl, rfl⟩⟩

theorem updCell (s : State) (ci : Nat) {f : Cell → Cell} (hf : ∀ x : Cell, x.SameJobs (f x)) : Launches s (updCell s ci f) := by
  unfold Machine.updCell
  split
  case h_2 => exact .of_aside rfl
  case h_1 c hc =>
    refine ⟨rfl, List.Subset.refl _, fun k x hx => ?_⟩
    by_cases hk : k = ci
    · subst hk
      rw [hc] at hx
      cases hx
      exact ⟨f c, Tbl.find_put_self .., hf c⟩
    · exact ⟨x, (Tbl.find_put_other _ _ hk).trans hx, rfl, rfl, rfl, rfl⟩

end Launches

/-- The adaptation job of a cell that is configured is loaded again. -/
def reloadAdapt (s : State) (ci : Nat) : State :=
  if (getAdapt s ci).config = [] then s else (loadAdapt s ci (getAdapt s ci).config (getAdapt s ci).owner).1

theorem aside_reloadAdapt (s : State) (ci : Nat) : aside (reloadAdapt s ci) = aside s := by
  unfold reloadAdapt
  split <;> simp

theorem adaptCellStarts_launches (s : State) (ci : Nat) : Launches s (adaptCellStarts s ci) := by
  unfold adaptCellStarts
  split
  case h_1 => exact .of_aside rfl
  case h_2 c hc =>
    have hlearned : Launches s (match slotWith s c 3 with
        | some k => makeLive s c k
        | none => updCell s ci fun c => { c with learned := false }) := by
      split
      · exact .of_aside (aside_makeLive ..)
      · exact .updCell _ _ fun _ => ⟨rfl, rfl, rfl, rfl⟩
    have hrest : ∀ u, aside (match slotWith (reloadAdapt u ci) c 2 with
        | some k => setSlotState (reloadAdapt u ci) c k 1
        | none => reloadAdapt u ci) = aside u := fun u => by
      split
      · rw [aside_setSlotState, aside_reloadAdapt]
      · exact aside_reloadAdapt u ci
    exact (hlearned.trans (.of_aside (hrest _))).trans (.of_aside (aside_updAdapt ..))

theorem launchCell_launches (s : State) (ci : Nat) (c : Cell) : Launches s (launchCell s ci c) := by
  refine .trans (.trans (.of_aside ?_) (.updCell _ _ fun _ => ?_)) (adaptCellStarts_launches _ ci)
  · simp
  · exact ⟨rfl, rfl, rfl, rfl⟩

theorem settleHostLoads_launches (s : State) : Launches s (settleHostLoads s) :=
  (Launches.filterLoading s _).trans (.foldl (fun s l => .of_aside (by simp)) _ _)

theorem settleCellLoads_launches (s : State) : Launches s (settleCellLoads s) := by
  refine .foldl (fun s e => ?_) _ _
  split
  · exact .of_aside rfl
  · dsimp only
    split
    · exact .of_aside rfl
    · exact ((Launches.filterLoading s _).trans (.of_aside (aside_foldl (fun s _ => aside_retainSegs s _) _ _))).trans
        (launchCell_launches _ _ _)

theorem settleLoads_launches (s : State) : Launches s (settleLoads s) :=
  (settleHostLoads_launches s).trans (settleCellLoads_launches _)

/-! ### The cell that a command names -/

section
variable {s t : State} {m : Msg} {c : Ctx} {x : Cell} {op len : Nat}

theorem getCell_of_started {ci : Nat} (h : startedCell t ci = some x) : getCell t ci = some x := by
  unfold startedCell at h
  split at h
  · split at h
    · cases h
    · next y hy _ => rw [hy, h]
  · cases h

/-- The shared checks of a command on a started cell of a partition that its source may act on pass. -/
theorem cellChecks_of_started (hc : Carried s op 0x102 len m t c) {ci : Nat} (hx : startedCell t ci = some x)
    (hh : hostOf t c.m.src x.part = true) {fields : Bool} (hf : fields = true) : c.cellChecks t ci fields = none := by
  simp only [Ctx.cellChecks, getCell_of_started hx, hh, hf, checks_of_carried hc, hx]
  rfl

/-- The segment of a FAPI message that a cell waits for next. -/
def fapiPart (x : Cell) (c : Ctx) : FapiPart := x.fapi.getD { next := 0, segs := c.f 0x12 1, len := c.f 0x14 4, bytes := [] }

theorem carryFapi_of_started (hc : Carried s 0x0800 0x102 len m t c) (hci : c.f 0x10 1 ≤ 47) (hx : startedCell t (c.f 0x10 1) = some x)
    (hh : hostOf t c.m.src x.part = true) (h1 : 1 ≤ c.f 0x12 1) (h16 : c.f 0x12 1 ≤ 16) (hseg : c.f 0x11 1 < c.f 0x12 1)
    (hz : c.zero 0x13 0x14 = true) : carryFapi c t =
      if c.f 0x11 1 ≠ (fapiPart x c).next ∨ c.f 0x12 1 ≠ (fapiPart x c).segs ∨ c.f 0x14 4 ≠ (fapiPart x c).len then
        refuse (updCell t (c.f 0x10 1) fun x => { x with fapi := none }) eState
      else if c.f 0x11 1 + 1 = c.f 0x12 1 then
        (fapiWhole (updCell t (c.f 0x10 1) fun x => { x with fapi := none }) (c.f 0x10 1)
          (((fapiPart x c).bytes ++ c.m.body.drop 8).take (c.f 0x14 4)), some (Done.of eOk))
      else (updCell t (c.f 0x10 1) fun y => { y with
        fapi := some { next := c.f 0x11 1 + 1, segs := c.f 0x12 1, len := c.f 0x14 4, bytes := (fapiPart x c).bytes ++ c.m.body.drop 8 } },
        some (Done.of eOk)) := by
  have hfields : (decide (c.f 0x10 1 ≤ 47) && decide (1 ≤ c.f 0x12 1) && decide (c.f 0x12 1 ≤ 16) && decide (c.f 0x11 1 < c.f 0x12 1)
      && c.zero 0x13 0x14) = true := by simp [hci, h1, h16, hseg, hz]
  simp only [carryFapi, cellChecks_of_started hc hx hh hfields, hx]
  rfl

theorem exec_fapiTunnel_of_done {u : State} {d : Done} (hc : Carried s 0x0800 0x102 len c.m t c) (h24 : 24 ≤ len) (hl : len ≤ 4096)
    (h8 : len % 8 = 0) (h : carryFapi c t = (u, some d)) : exec (.fapiTunnel c.m) s = .next (answered u c d) := by
  refine congrArg Host.Outcome.next ?_
  rw [takeCommand_of_carried hc hl h8 _ (by simp [h24, hl]), carriedOut_of_done h]
  rfl
end

/-! ### CELL_START -/

section
variable {s t : State} {c : Ctx} {q : Part}

/-- A CELL_START whose fields, regions and partition are as R437 bounds them, of a cell that does not exist. -/
structure CellStartFields (t : State) (c : Ctx) (q : Part) : Prop where
  fields : cellFieldsOk c = true
  part : getPart t (c.f 0x11 1) = some q
  host : hostOf t c.m.src (c.f 0x11 1) = true
  lc : q.allowLc = true
  regions : cellRegionsOk t q c = true
  fresh : getCell t (c.f 0x10 1) = none
  room : loadedCount t + 2 ≤ 256

theorem carryCellStart_of_fields (hc : Carried s 0x0801 0x102 144 c.m t c) (hf : CellStartFields t c q)
    (hcfg : cellConfigOk c (hbmBytes t q (c.f 0x80 8) cellConfigBytes) = true)
    (hports : cellPorts t q c (hbmBytes t q (c.f 0x80 8) cellConfigBytes) = none) :
    carryCellStart c t = loadCell t c (hbmBytes t q (c.f 0x80 8) cellConfigBytes) := by
  obtain ⟨hfields, hq, hhost, hlc, hregions, hfresh, hroom⟩ := hf
  simp only [carryCellStart, hq, checks_of_carried hc, hfields, hhost, hlc, hregions, hfresh, hroom, hcfg, hports]
  rfl

/-- The cell's two jobs are installed under the next handles, and the cell waits for their loads. -/
theorem loadCell_of_placed {cfg : List Byte} {up down : Job}
    (hup : placeFully t 0 (newJob (c.f 0x11 1) c.m.src (.cellUp (c.f 0x10 1)) (cellUplinkImage c.m.body cfg) 0 0 0 0 0) = .inl up)
    (hdown : placeFully (putJob t t.work.nextJob up) 0
      (newJob (c.f 0x11 1) c.m.src (.cellDown (c.f 0x10 1)) (cellDownlinkImage c.m.body cfg) 0 0 0 0 0) = .inl down) :
    loadCell t c cfg = (settleLoads (settleRinses (putCell (installJob (installJob t c.tid up) c.tid down) (c.f 0x10 1)
      (newCell c cfg t.work.nextJob (t.work.nextJob + 1)))), none) := by
  simp only [loadCell, hup, hdown]

/-- The cell stands with its two jobs whatever the settling starts. -/
theorem getCell_settled_put (s : State) (ci : Nat) (x : Cell) :
    ∃ y, getCell (waits (settleLoads (settleRinses (putCell s ci x)))) ci = some y ∧ x.SameJobs y := by
  have hrinse : Launches (putCell s ci x) (settleRinses (putCell s ci x)) := .of_aside (aside_settleRinses _)
  exact ((hrinse.trans (settleLoads_launches _)).trans (.of_aside (aside_settleByes _))).cells ci x (Tbl.find_put_self ..)

end

/-! ### CELL_STOP and CELL_STATS -/

section
variable {s t : State} {c : Ctx} {x : Cell}

theorem carryCellStop_of_started (hc : Carried s 0x0802 0x102 24 c.m t c) (hci : c.f 0x10 1 ≤ 47) (hx : startedCell t (c.f 0x10 1) = some x)
    (hh : hostOf t c.m.src x.part = true) (h2 : c.f 0x11 1 < 2) (hz : c.zero 0x12 0x18 = true) :
    carryCellStop c t = if c.f 0x11 1 = 1 then (stopNow t (c.f 0x10 1) x c.tid, none)
      else if x.stopping.isSome then refuse t eState else (stopLater t (c.f 0x10 1) x c.tid, none) := by
  have hfields : (decide (c.f 0x10 1 ≤ 47) && decide (c.f 0x11 1 < 2) && c.zero 0x12 0x18) = true := by simp [hci, h2, hz]
  simp only [carryCellStop, cellChecks_of_started hc hx hh hfields, hx]
  rfl

theorem releaseCell_gone (s : State) (ci : Nat) (lost : List Nat) : getCell (releaseCell s ci lost) ci = none := by
  unfold releaseCell
  split
  · next h => exact h
  · exact Tbl.find_del_self ..

/-- A cell that is stopped at once is gone, and so is the command that stopped it. -/
theorem stopNow_gone (s : State) (ci : Nat) (x : Cell) (tid : Nat) :
    getCell (waits (stopNow s ci x tid)) ci = none ∧ ∀ k ∈ (waits (stopNow s ci x tid)).host.tickets, k.id ≠ tid := by
  unfold stopNow waits
  dsimp only
  generalize hu : List.foldl _ (releaseCell s ci []) _ = u
  have hgone : getCell u ci = none := by
    have hcut : Calm (releaseCell s ci []) u := hu ▸ Calm.foldl _ (fun t ht _ => finish_calm ht) (Calm.refl _)
    exact hcut.cells ci (releaseCell_gone s ci [])
  have hrest : Calm (finish u tid (Done.of eOk)) (settleByes (sendCellStopped (finish u tid (Done.of eOk)) ci x 0 0 (Cell.lastSlot s x))) :=
    settleByes_calm (sendCellStopped_calm (Calm.refl _))
  exact ⟨hrest.cells ci ((finish_calm (Calm.refl u)).cells ci hgone), fun k hk => finish_tickets u tid _ k (hrest.tickets hk)⟩

theorem carryCellStats_of_started {q : Part} (hc : Carried s 0x0803 0x102 32 c.m t c) (hci : c.f 0x10 1 ≤ 47)
    (hx : startedCell t (c.f 0x10 1) = some x) (hh : hostOf t c.m.src x.part = true) (h2 : c.f 0x11 1 < 2) (hz : c.zero 0x12 0x18 = true)
    (ha : aligned (c.f 0x18 8) 64 = true) (hver : c.f 0x11 1 = 1 → 0x106 ≤ c.ver) (hq : getPart t x.part = some q)
    (hholds : q.holds (c.f 0x18 8) (cellRecord x).length = true) :
    carryCellStats c t = (if c.f 0x11 1 = 1 then putCell (hbmWrite t x.part (c.f 0x18 8) (cellRecord x)) (c.f 0x10 1) x.cleared
      else hbmWrite t x.part (c.f 0x18 8) (cellRecord x), some ⟨eOk, (cellRecord x).length, 0, 0, 0⟩) := by
  have hclear : (!decide (c.f 0x11 1 = 1) || decide (0x106 ≤ c.ver)) = true := by
    by_cases h : c.f 0x11 1 = 1
    · simp [hver h]
    · simp [h]
  have hfields : (decide (c.f 0x10 1 ≤ 47) && decide (c.f 0x11 1 < 2) && c.zero 0x12 0x18 && aligned (c.f 0x18 8) 64
      && (!decide (c.f 0x11 1 = 1) || decide (0x106 ≤ c.ver))) = true := by simp only [hclear, hci, h2, hz, ha]; rfl
  simp only [carryCellStats, hx, checks_of_carried hc, hfields, hh, hq, hholds]
  rfl

end

/-! ### Voltage floors -/

/-- A die that slews is one of the dies: a place beyond them reads as a die that is settled. -/
theorem die_lt_of_slewing {s : State} {d : Nat} (h : (getDie s d).slewing = true) : d < s.power.dies.length := by
  by_contra hd
  rw [getDie, nth, List.getElem?_eq_none (Nat.le_of_not_lt hd)] at h
  cases h

/-- The die whose last target is reached. -/
def DiePower.reached (x : DiePower) : DiePower :=
  { x with settled := x.target, slewing := false, commanded := [], ceiling := pointCeiling x.target, timedOut := false }

theorem settlePoint_dies {s : State} {d : Nat} (h : (getDie s d).slewing = true) :
    (settlePoint s d).power.dies = modNth s.power.dies d DiePower.reached := by
  unfold settlePoint
  rw [if_neg (by simp [h])]
  dsimp only
  split <;> rfl

/-- VDONE of a die that slews: its last target is settled, the other dies stay, and no load waits for it. -/
theorem vdone_settles {s : State} {die : Nat} (h : (getDie s die).slewing = true) :
    ∃ t, exec (.vdone die) s = .next t ∧ (getDie t die).slewing = false ∧ (getDie t die).settled = (getDie s die).target ∧
      (getDie t die).commanded = [] ∧ (∀ d, d ≠ die → getDie t d = getDie s d) ∧ ∀ l ∈ t.work.loading, die ∉ l.floor := by
  refine ⟨_, congrArg Host.Outcome.next (if_neg (by simp [h])), ?_⟩
  have hdies := settlePoint_dies h
  dsimp only
  generalize hu : updWork (settlePoint s die) _ = u
  have hl := settleLoads_launches u
  have hd (d : Nat) : getDie (settleLoads u) d = nth DiePower.boot (settlePoint s die).power.dies d := by
    rw [getDie, hl.power, ← hu]; rfl
  have hself : getDie (settleLoads u) die = (getDie s die).reached := by
    rw [hd, hdies, nth_modNth_self _ _ (die_lt_of_slewing h)]; rfl
  refine ⟨by rw [hself]; rfl, by rw [hself]; rfl, by rw [hself]; rfl,
    fun d hne => by rw [hd, hdies, nth_modNth_other _ _ _ hne]; rfl, fun l hmem => ?_⟩
  have hin : l ∈ u.work.loading := hl.loading hmem
  rw [← hu, updWork_work] at hin
  obtain ⟨k, -, rfl⟩ := List.mem_map.mp hin
  simp

theorem dropJob_loading (s : State) (h : Nat) : (dropJob s h).work.loading = s.work.loading := by
  unfold dropJob
  split
  · rfl
  next j _ =>
    have hfree : (freeGroups (leaveCores s h j) j).work.loading = s.work.loading := by
      have ha : aside (freeGroups (leaveCores s h j) j) = aside s :=
        (aside_foldl (fun s _ => aside_updTally s _ _) _ _).trans (aside_leaveCores s h j)
      exact congrArg (fun x => x.2.1) ha
    rw [← hfree]
    dsimp only
    split <;> rfl

/-- A floor that is not reached in time refuses the load that waits for it: nothing of it stays. -/
theorem floorRaiseTimeout_refuses {s : State} {die : Nat} {l : Loading} (h : (getDie s die).slewing = true) (hl : s.work.loading = [l])
    (h0 : l.handle ≠ 0) (hf : die ∈ l.floor) : ∃ t, exec (.floorRaiseTimeout die) s = .next t ∧ t = refuseLoad s l ∧
      t.work.loading = [] ∧ getJob t l.handle = none ∧ ∀ k ∈ t.host.tickets, k.id ≠ l.ticket := by
  have hrun : exec (.floorRaiseTimeout die) s = .next (refuseLoad s l) := by
    refine congrArg Host.Outcome.next ((if_neg (by simp [h])).trans ?_)
    have hlate : (s.work.loading.filter fun l => decide (l.handle ≠ 0) && decide (die ∈ l.floor)) = [l] := by simp [hl, h0, hf]
    simp only [hlate]
    exact if_pos (by rw [hl]; exact List.mem_singleton_self l)
  refine ⟨_, hrun, rfl, ?_⟩
  have hmine : (s.work.loading.filter fun x => decide (x.ticket = l.ticket)) = [l] := by simp [hl]
  unfold refuseLoad
  dsimp only
  rw [hmine]
  generalize hu : updWork s _ = u
  have hnone : u.work.loading = [] := by rw [← hu, updWork_work, hl]; simp
  rw [List.foldl_cons, List.foldl_nil, (finish_sends ..).work, getJob, (finish_sends ..).work]
  generalize hw : startRinse u l.job.segParts .other = w
  refine ⟨?_, ?_, fun k hk => finish_tickets _ _ _ k hk⟩
  · show (dropJob w l.handle).work.loading = []
    rw [dropJob_loading, ← hw, ← hnone]; exact congrArg (fun x => x.2.1) (aside_startRinse u l.job.segParts .other)
  · show getJob (dropJob w l.handle) l.handle = none
    cases hj : getJob w l.handle with
    | none => unfold dropJob; simp only [hj]
    | some j => exact getJob_dropJob hj

/-- Settles O39: each command's checks pass; the cell's record follows the settling, and a floor's loads go on or are refused. -/
theorem cellCommandsAndFloors : Obligations.CellCommandsAndFloors := by
  unfold Obligations.CellCommandsAndFloors
  intro s m t c
  refine ⟨fun q hc hfields hq hh hlc hregions hfresh hroom up down hcfg hports hup hdown => ?_, fun x hci hx hh =>
    ⟨fun len h24 hl h8 hc h1 h16 hseg hz => ?_, fun hc hz => ⟨fun hnow => ?_, fun hlater hstop => ?_⟩,
      fun q hc h2 hz ha hver hq hholds => ?_⟩,
    fun die h => ⟨vdone_settles h, fun l hl h0 hf => floorRaiseTimeout_refuses h hl h0 hf⟩⟩
  all_goals obtain rfl := hc.msg
  case refine_1 =>
    have hload := loadCell_of_placed (c := c) hup hdown
    refine ⟨_, runCommand_of_waits hc (by decide) (by decide)
      ((carryCellStart_of_fields hc ⟨hfields, hq, hh, hlc, hregions, hfresh, hroom⟩ hcfg hports).trans hload), rfl, ?_⟩
    obtain ⟨y, hy, h1, h2, h3, h4⟩ := getCell_settled_put (installJob (installJob t c.tid up) c.tid down) (c.f 0x10 1)
      (newCell c (hbmBytes t q (c.f 0x80 8) cellConfigBytes) t.work.nextJob (t.work.nextJob + 1))
    exact ⟨y, hy, h1, h2, h4, h3⟩
  case refine_2 =>
    have hcarry := carryFapi_of_started hc hci hx hh h1 h16 hseg hz
    refine ⟨fun hf hlt => ?_, fun hf hlast => ?_, fun hf => ?_⟩
    · obtain ⟨h1, h2, h3⟩ := hf
      refine exec_fapiTunnel_of_done hc h24 hl h8 (hcarry.trans ((if_neg ?_).trans (if_neg (by omega))))
      exact fun h => h.elim (fun h => h h1) fun h => h.elim (fun h => h h2) fun h => h h3
    · obtain ⟨h1, h2, h3⟩ := hf
      refine exec_fapiTunnel_of_done hc h24 hl h8 (hcarry.trans ((if_neg ?_).trans (if_pos hlast)))
      exact fun h => h.elim (fun h => h h1) fun h => h.elim (fun h => h h2) fun h => h h3
    · refine exec_fapiTunnel_of_done hc h24 hl h8 (hcarry.trans (if_pos ?_))
      by_contra h
      simp only [not_or, not_not] at h
      exact hf h
  case refine_3 =>
    have hcarry := carryCellStop_of_started hc hci hx hh (by omega) hz
    rw [if_pos hnow] at hcarry
    obtain ⟨hgone, hticket⟩ := stopNow_gone t (c.f 0x10 1) x c.tid
    exact ⟨_, runCommand_of_waits hc (by decide) (by decide) hcarry, rfl, hgone, hticket⟩
  case refine_4 =>
    have hcarry := carryCellStop_of_started hc hci hx hh (by omega) hz
    rw [if_neg (by omega), if_neg (by simp [hstop])] at hcarry
    exact runCommand_of_waits hc (by decide) (by decide) hcarry
  case refine_5 =>
    exact runCommand_of_done hc (by decide) (by decide) (carryCellStats_of_started hc hci hx hh h2 hz ha hver hq hholds)

end Sys2Proof.Machine
end

section
/-! Ethernet: what classification counts, the frames that LLDP and ESMC put on every MAC that is up, and the controls of a MAC. -/

namespace Sys2Proof.Machine
set_option Elab.async false -- one proof at a time, for the memory of the check

/-! ### MACs after an update -/

theorem getMac_updMac (s : State) (m k : Nat) (f : Mac → Mac) :
    getMac (updMac s m f) k = getMac s k ∨ (k = m ∧ getMac (updMac s m f) k = f (getMac s k)) := by
  by_cases hk : k = m
  · subst hk
    by_cases hl : k < s.net.macs.length
    · exact .inr ⟨rfl, getMac_updMac_self s f hl⟩
    · refine .inl ?_
      simp only [getMac, nth, updMac_net]
      rw [List.getElem?_eq_none (by rw [modNth_length]; omega), List.getElem?_eq_none (by omega)]
  · exact .inl (getMac_updMac_other s f hk)

/-- The keys that a MAC accepts are as before when a frame has been counted. -/
theorem rxAccepts_countRx (s : State) (mac : Nat) (an : Bool) : rxAccepts (countRx s mac) mac an = rxAccepts s mac an := by
  have hrx : (getMac (countRx s mac) mac).rxAn = (getMac s mac).rxAn := by
    obtain h | ⟨-, h⟩ := getMac_updMac s mac mac fun m => { m with rxFrames := satInc m.rxFrames 1 }
    · rw [countRx, h]
    · rw [countRx, h]
  unfold rxAccepts
  rw [hrx]
  rfl

theorem vlanKind_countRx (s : State) (mac m v : Nat) : vlanKind (countRx s mac) m v = vlanKind s m v := rfl

/-! ### FRAME_DROP by what the frame is -/

/-- What classification does with a frame of a length that a MAC takes, received without error. -/
def classify (mac : Nat) (fr : RxFrame) (m : Mac) (s : State) : State :=
  match fr.vlans with
  | [] =>
    if fr.etherType = 0x88F7 ∨ fr.etherType = 0x88CC ∨ fr.etherType = 0x8809 ∧ fr.esmc then s
    else updMac s mac fun m => { m with untagged := satInc m.untagged 1 }
  | [v] =>
    match vlanKind s mac v with
    | none => updMac s mac fun m => { m with unknownVlan := satInc m.unknownVlan 1 }
    | some kind =>
      if m.en ∧ m.classMask.getLsbD kind ∧ kind ≠ 1 then
        match fr.macsec with
        | some an =>
          if rxAccepts s mac an then (if an = m.rxNew then updMac s mac fun m => { m with rxAn := some an } else s)
          else updMac s mac fun m => { m with macsecDrop := satInc m.macsecDrop 1 }
        | none => updMac s mac fun m => { m with macsecDrop := satInc m.macsecDrop 1 }
      else s
  | _ => updMac s mac fun m => { m with unknownVlan := satInc m.unknownVlan 1 }

section
variable {s : State} {mac : Nat} {fr : RxFrame}

theorem frameDrop_down (h : (getMac s mac).up = false ∨ fr.length < 64) : exec (.frameDrop mac fr) s = .next s :=
  congrArg Host.Outcome.next (if_pos (h.imp_left fun h => by simp [h]))

variable (hu : (getMac s mac).up = true) (h64 : 64 ≤ fr.length)
include hu h64

theorem frameDrop_fcs (hf : fr.fcsOk = false) :
    exec (.frameDrop mac fr) s = .next (updMac s mac fun m => { m with fcsErr := satInc m.fcsErr 1 }) :=
  congrArg Host.Outcome.next ((if_neg (by simp [hu, h64])).trans (if_pos (by simp [hf])))

theorem frameDrop_long (hf : fr.fcsOk = true) (hl : 9216 < fr.length) :
    exec (.frameDrop mac fr) s = .next (updMac s mac fun m => { m with oversize := satInc m.oversize 1 }) :=
  congrArg Host.Outcome.next ((if_neg (by simp [hu, h64])).trans ((if_neg (by simp [hf])).trans (if_pos hl)))

theorem frameDrop_classified (hf : fr.fcsOk = true) (hl : fr.length ≤ 9216) :
    exec (.frameDrop mac fr) s = .next (classify mac fr (getMac s mac) (countRx s mac)) :=
  congrArg Host.Outcome.next ((if_neg (by simp [hu, h64])).trans ((if_neg (by simp [hf])).trans (if_neg (by omega))))

end

section
variable {mac : Nat} {fr : RxFrame} {m : Mac} {s : State}

theorem classify_untagged (h : fr.vlans = []) : classify mac fr m s =
    if fr.etherType = 0x88F7 ∨ fr.etherType = 0x88CC ∨ (fr.etherType = 0x8809 ∧ fr.esmc = true) then s
    else updMac s mac fun m => { m with untagged := satInc m.untagged 1 } := by
  simp only [classify, h]

theorem classify_unknown {v : Nat} (h : fr.vlans = [v]) (hk : vlanKind s mac v = none) :
    classify mac fr m s = updMac s mac fun m => { m with unknownVlan := satInc m.unknownVlan 1 } := by
  simp only [classify, h, hk]

theorem classify_twoTags {v w : Nat} {l : List Nat} (h : fr.vlans = v :: w :: l) :
    classify mac fr m s = updMac s mac fun m => { m with unknownVlan := satInc m.unknownVlan 1 } := by
  simp only [classify, h]

variable {v kind : Nat} (h : fr.vlans = [v]) (hk : vlanKind s mac v = some kind)
include h hk

theorem classify_plain (hc : kind = 1 ∨ m.en = false ∨ m.classMask.getLsbD kind = false) : classify mac fr m s = s := by
  simp only [classify, h, hk]
  exact if_neg (by obtain h | h | h := hc <;> simp [h])

variable (h1 : kind ≠ 1) (he : m.en = true) (hm : m.classMask.getLsbD kind = true)
include h1 he hm

theorem classify_noTag (ht : fr.macsec = none) :
    classify mac fr m s = updMac s mac fun m => { m with macsecDrop := satInc m.macsecDrop 1 } := by
  simp only [classify, h, hk, he, hm, ht]
  exact if_pos ⟨trivial, trivial, h1⟩

theorem classify_tag {an : Bool} (ht : fr.macsec = some an) : classify mac fr m s =
    if rxAccepts s mac an then (if an = m.rxNew then updMac s mac fun m => { m with rxAn := some an } else s)
    else updMac s mac fun m => { m with macsecDrop := satInc m.macsecDrop 1 } := by
  simp only [classify, h, hk, he, hm, ht]
  exact if_pos ⟨trivial, trivial, h1⟩

end

/-! ### Frames that leave -/

/-- t is s but for the counters of MACs and frames that have been appended to what has left. -/
def FramesOnly (s t : State) : Prop := ∃ macs out, t = { s with net := { s.net with macs := macs }, sent := s.sent ++ out }

namespace FramesOnly
variable {s t u : State}

theorem refl (s : State) : FramesOnly s s := ⟨s.net.macs, [], by rw [List.append_nil]⟩
theorem trans (h : FramesOnly s t) (k : FramesOnly t u) : FramesOnly s u := by
  obtain ⟨_, a, rfl⟩ := h
  obtain ⟨m, b, rfl⟩ := k
  exact ⟨m, a ++ b, by simp⟩
theorem foldl {α : Type} {f : State → α → State} (hf : ∀ s a, FramesOnly s (f s a)) (l : List α) (s : State) : FramesOnly s (l.foldl f s) := by
  induction l generalizing s with
  | nil => exact .refl s
  | cons a l ih => exact (hf s a).trans (ih _)

theorem work (h : FramesOnly s t) : t.work = s.work := by obtain ⟨_, _, rfl⟩ := h; rfl
theorem host (h : FramesOnly s t) : t.host = s.host := by obtain ⟨_, _, rfl⟩ := h; rfl
theorem timing (h : FramesOnly s t) : t.net.timing = s.net.timing := by obtain ⟨_, _, rfl⟩ := h; rfl
theorem ptp (h : FramesOnly s t) : t.net.ptp = s.net.ptp := by obtain ⟨_, _, rfl⟩ := h; rfl
theorem macBase (h : FramesOnly s t) : t.net.macBase = s.net.macBase := by obtain ⟨_, _, rfl⟩ := h; rfl
theorem sent (h : FramesOnly s t) : s.sent ⊆ t.sent := by obtain ⟨_, _, rfl⟩ := h; exact List.subset_append_left ..

end FramesOnly

/-- The bytes of a frame of a MAC of the device. -/
def frameBytes (base mac dst : Nat) (vlan : Option Nat) (type : Nat) (payload : List Byte) : List Byte :=
  beBytes 6 dst ++ beBytes 6 (base + mac) ++ (match vlan with
    | some v => beBytes 2 0x8100 ++ beBytes 2 v
    | none => []) ++ beBytes 2 type ++ payload

theorem sendFrame_sent (s : State) (mac : Nat) (what : String) (dst : Nat) (vlan : Option Nat) (type : Nat) (payload : List Byte) :
    (sendFrame s mac what dst vlan type payload).sent = s.sent ++ [.frame mac what (frameBytes s.net.macBase.toNat mac dst vlan type payload)] := by
  cases vlan <;> rfl

theorem sendFrame_framesOnly (s : State) (mac : Nat) (what : String) (dst : Nat) (vlan : Option Nat) (type : Nat) (payload : List Byte) :
    FramesOnly s (sendFrame s mac what dst vlan type payload) := ⟨_, _, rfl⟩

/-- Every frame of a list has left after the list has been sent, whatever else was. -/
theorem sent_of_foldl {α : Type} {f : State → α → State} (hf : ∀ s a, FramesOnly s (f s a)) {out : Output} {a : α} {s : State} {l : List α}
    (ha : a ∈ l) (hout : ∀ t, FramesOnly s t → out ∈ (f t a).sent) : out ∈ (l.foldl f s).sent := by
  induction l generalizing s with
  | nil => cases ha
  | cons b l ih =>
    rcases List.mem_cons.mp ha with rfl | ha
    · exact (FramesOnly.foldl hf l (f s a)).sent (hout s (.refl s))
    · exact ih ha fun t ht => hout t ((hf s b).trans ht)

/-- LLDP on one MAC: untagged, and in each of its management VLANs. -/
def lldpTags (s : State) (m : Nat) : List (Option Nat) := none :: ((vlansOf s m).filter fun v => v.kind = 3).map fun v => some v.vid

def lldpOn (s : State) (m : Nat) : State := (lldpTags s m).foldl (fun t v => sendFrame t m "lldp" 0x0180C200000E v 0x88CC (lldpBytes s m)) s

theorem exec_lldpSend (s : State) : exec .lldpSend s = .next ((upMacs s).foldl lldpOn s) := by
  refine congrArg Host.Outcome.next (congrFun (congrFun (congrArg List.foldl ?_) s) (upMacs s))
  funext t m
  have hbytes : ∀ (l : List (Option Nat)) (u : State), FramesOnly t u →
      l.foldl (fun s v => sendFrame s m "lldp" 0x0180C200000E v 0x88CC (lldpBytes s m)) u =
        l.foldl (fun s v => sendFrame s m "lldp" 0x0180C200000E v 0x88CC (lldpBytes t m)) u := by
    intro l
    induction l with
    | nil => exact fun _ _ => rfl
    | cons v l ih =>
      intro u hu
      have heq : lldpBytes u m = lldpBytes t m := by simp only [lldpBytes, hu.macBase]
      rw [List.foldl_cons, List.foldl_cons, heq]
      exact ih _ (hu.trans (sendFrame_framesOnly ..))
  exact hbytes _ t (.refl t)

theorem lldpOn_framesOnly (s : State) (m : Nat) : FramesOnly s (lldpOn s m) := .foldl (fun _ _ => sendFrame_framesOnly ..) _ _

/-- The LLDPDU of every MAC that is up, for each of its tags, has left. -/
theorem lldp_sent {s : State} {m : Nat} (hm : m ∈ upMacs s) {v : Option Nat} (hv : v ∈ lldpTags s m) :
    .frame m "lldp" (frameBytes s.net.macBase.toNat m 0x0180C200000E v 0x88CC (lldpBytes s m)) ∈ ((upMacs s).foldl lldpOn s).sent := by
  refine sent_of_foldl lldpOn_framesOnly hm fun t ht => ?_
  have htags : lldpTags t m = lldpTags s m := by simp only [lldpTags, vlansOf, ht.work]
  have hbytes : lldpBytes t m = lldpBytes s m := by simp only [lldpBytes, ht.macBase]
  refine sent_of_foldl (fun _ _ => sendFrame_framesOnly ..) (htags ▸ hv) fun u hu => ?_
  rw [sendFrame_sent, hu.macBase, ht.macBase, hbytes]
  exact List.mem_append_right _ (List.mem_singleton_self _)

theorem lldpSend_spec (s : State) : ∃ t, exec .lldpSend s = .next t ∧ t.work = s.work ∧ t.host = s.host ∧ ∀ m ∈ upMacs s,
    Output.frame m "lldp" (beBytes 6 0x0180C200000E ++ beBytes 6 (s.net.macBase.toNat + m) ++ beBytes 2 0x88CC ++ lldpBytes s m) ∈ t.sent ∧
    ∀ v ∈ vlansOf s m, v.kind = 3 → Output.frame m "lldp" (beBytes 6 0x0180C200000E ++ beBytes 6 (s.net.macBase.toNat + m) ++ beBytes 2 0x8100 ++
      beBytes 2 v.vid ++ beBytes 2 0x88CC ++ lldpBytes s m) ∈ t.sent := by
  have hframes : FramesOnly s ((upMacs s).foldl lldpOn s) := .foldl lldpOn_framesOnly _ _
  refine ⟨_, exec_lldpSend s, hframes.work, hframes.host, fun m hm => ⟨?_, fun v hv hk => ?_⟩⟩
  · simpa [frameBytes] using lldp_sent hm (v := none) (List.mem_cons_self ..)
  · have htag : some v.vid ∈ lldpTags s m :=
      List.mem_cons_of_mem _ (List.mem_map.mpr ⟨v, List.mem_filter.mpr ⟨hv, by simp [hk]⟩, rfl⟩)
    simpa [frameBytes] using lldp_sent hm htag

theorem esmcSend_spec {s : State} (he : s.net.timing.esmcEn = true) : ∃ t, exec .esmcSend s = .next t ∧ t.work = s.work ∧ t.host = s.host ∧
    ∀ m ∈ upMacs s, Output.frame m "esmc" (beBytes 6 0x0180C2000002 ++ beBytes 6 (s.net.macBase.toNat + m) ++ beBytes 2 0x8809 ++
      esmcBytes s.net.timing.qlTx.toNat false) ∈ t.sent := by
  have hstep : ∀ (t : State) (m : Nat), FramesOnly t (sendFrame t m "esmc" 0x0180C2000002 none 0x8809 (esmcBytes t.net.timing.qlTx.toNat false)) :=
    fun _ _ => sendFrame_framesOnly ..
  have hframes := FramesOnly.foldl hstep (upMacs s) s
  refine ⟨_, congrArg Host.Outcome.next (if_pos he), hframes.work, hframes.host, fun m hm => ?_⟩
  refine sent_of_foldl hstep hm fun t ht => ?_
  rw [sendFrame_sent, ht.timing, ht.macBase]
  simp [frameBytes]

/-! ### Quality levels, links and controls -/

/-- The timing unit when a quality level comes on a MAC (R458). -/
def Timing.esmc (t : Timing) (mac : Nat) (ql : BitVec 4) : Timing :=
  { t with
    qlRx0 := if t.src0.toNat = mac then ql else t.qlRx0, esmcTimeout0 := t.esmcTimeout0 && decide (t.src0.toNat ≠ mac)
    qlRx1 := if t.src1.toNat = mac then ql else t.qlRx1, esmcTimeout1 := t.esmcTimeout1 && decide (t.src1.toNat ≠ mac) }

section
variable {s : State} {mac : Nat} (hu : (getMac s mac).up = true)
include hu

theorem esmcPdu_off (he : s.net.timing.esmcEn = false) (ql : BitVec 4) : exec (.esmcPdu mac ql) s = .next (countRx s mac) := by
  refine congrArg Host.Outcome.next ((if_neg (by simp [hu])).trans ?_)
  have hid : ∀ f : Timing → Timing, f s.net.timing = s.net.timing → updTiming (countRx s mac) f = countRx s mac := fun f hf => by
    show ({ countRx s mac with net := { (countRx s mac).net with timing := f s.net.timing } } : State) = _
    rw [hf]; rfl
  exact hid _ (if_pos (by simp [he]))

theorem esmcPdu_on (he : s.net.timing.esmcEn = true) (ql : BitVec 4) : ∃ t, exec (.esmcPdu mac ql) s = .next t ∧ t.work = s.work ∧
    t.host = s.host ∧ t.net.timing = s.net.timing.esmc mac ql :=
  ⟨_, congrArg Host.Outcome.next (if_neg (by simp [hu])), rfl, rfl, if_neg (by simp [countRx, he])⟩

theorem lldpdu_counted : exec (.lldpdu mac) s = .next (updMac (countRx s mac) mac fun m => { m with lldpRx := satInc m.lldpRx 1 }) :=
  congrArg Host.Outcome.next (if_pos hu)

end

/-- A MAC whose CLEAR is written: its counters are 0, its controls stay (R453). -/
def Mac.cleared (m : Mac) : Mac :=
  { Mac.reset with
    up := m.up, speed := m.speed, en := m.en, classMask := m.classMask, xpn := m.xpn, txAn := m.txAn, rxNew := m.rxNew, rxAn := m.rxAn }

section
variable {s : State} {mac : Nat} (hs : served s 0 = true) (v : BitVec 32)
include hs

theorem macCounterClear_not (h : v.getLsbD 0 = false) : exec (.macCounterClear mac v) s = .next s := by
  refine congrArg Host.Outcome.next ((chipWrite_of_served hs _).trans ?_)
  exact if_neg (by rw [bit_toNat, h]; decide)

theorem macCounterClear_clears (h : v.getLsbD 0 = true) : exec (.macCounterClear mac v) s = .next (updMac s mac Mac.cleared) := by
  refine congrArg Host.Outcome.next ((chipWrite_of_served hs _).trans ?_)
  exact if_pos (by rw [bit_toNat, h])

theorem macsecControl_refused (h : v.getLsbD 0 = true) (hk : sakValid s (sakSlot mac 0 (v.getLsbD 6)) = false) :
    exec (.macsecControl mac v) s = .next (valueError s (0x8E04 + 64 * mac)) := by
  refine congrArg Host.Outcome.next ((chipWrite_of_served hs _).trans ?_)
  exact if_pos (by rw [bit_toNat, bit_toNat, h, hk]; decide)

theorem macsecControl_takes (h : v.getLsbD 0 = false ∨ sakValid s (sakSlot mac 0 (v.getLsbD 6)) = true) :
    exec (.macsecControl mac v) s = .next (updMac s mac fun m =>
      { m with en := v.getLsbD 0, classMask := v.extractLsb' 1 4, xpn := v.getLsbD 5, txAn := v.getLsbD 6 }) := by
  refine congrArg Host.Outcome.next ((chipWrite_of_served hs _).trans ((if_neg ?_).trans ?_))
  · rw [bit_toNat, bit_toNat]
    rintro ⟨h0, hk⟩
    exact h.elim (fun h => by rw [h] at h0; cases h0) fun h => hk h
  · have hmask : BitVec.ofNat 4 (bits v.toNat 4 1) = v.extractLsb' 1 4 := by
      rw [← toNat_extractLsb'_eq_bits v 1 4 (by decide), BitVec.ofNat_toNat, BitVec.setWidth_eq]
    rw [hmask, bit_toNat, bit_toNat, bit_toNat]

end

theorem macCounterClear_spec {s : State} {mac : Nat} (hs : served s 0 = true) (hm : mac < s.net.macs.length) {v : BitVec 32}
    (h : v.getLsbD 0 = true) : ∃ t, exec (.macCounterClear mac v) s = .next t ∧ getMac t mac = (getMac s mac).cleared ∧
      (∀ k, k ≠ mac → getMac t k = getMac s k) :=
  ⟨_, macCounterClear_clears hs v h, getMac_updMac_self s _ hm, fun _ hk => getMac_updMac_other s _ hk⟩

theorem macsecControl_spec {s : State} {mac : Nat} (hs : served s 0 = true) (hm : mac < s.net.macs.length) {v : BitVec 32}
    (h : v.getLsbD 0 = false ∨ sakValid s (sakSlot mac 0 (v.getLsbD 6)) = true) : ∃ t, exec (.macsecControl mac v) s = .next t ∧
      (getMac t mac).en = v.getLsbD 0 ∧ (getMac t mac).classMask = v.extractLsb' 1 4 ∧ (getMac t mac).xpn = v.getLsbD 5 ∧
      (getMac t mac).txAn = v.getLsbD 6 ∧ (getMac t mac).rxFrames = (getMac s mac).rxFrames := by
  refine ⟨_, macsecControl_takes hs v h, ?_⟩
  rw [getMac_updMac_self s _ hm]
  exact ⟨rfl, rfl, rfl, rfl, rfl⟩

theorem ethLinkChange_spec {s : State} {mac : Nat} (hm : mac < s.net.macs.length) (up : Bool) : ∃ t, exec (.ethLinkChange mac up) s = .next t ∧
    (getMac t mac).up = (up && decide ((getMac s mac).speed ≠ 0)) ∧
    (getMac t mac).linkDown = (if (getMac s mac).up = true ∧ up = false then satInc (getMac s mac).linkDown 1 else (getMac s mac).linkDown) ∧
    (getMac t mac).speed = (getMac s mac).speed ∧ (∀ k, k ≠ mac → getMac t k = getMac s k) ∧ t.work = s.work ∧ t.host = s.host := by
  refine ⟨_, rfl, ?_⟩
  rw [getMac_updMac_self s _ hm]
  exact ⟨rfl, by simp, rfl, fun _ hk => getMac_updMac_other s _ hk, rfl, rfl⟩

/-- Settles O42: a frame by its length, its check and its tags; what is sent by every MAC that is up; controls by their fields. -/
theorem macsClassifyCountAndSend : Obligations.MacsClassifyCountAndSend := by
  unfold Obligations.MacsClassifyCountAndSend
  intro s mac
  refine ⟨fun hd => ⟨fun fr => frameDrop_down (.inl hd), congrArg _ (if_neg (by simp [hd])), fun ql => congrArg _ (if_pos (by simp [hd]))⟩,
    fun fr hl => frameDrop_down (.inr hl), fun hu => ⟨fun fr h64 => ⟨frameDrop_fcs hu h64, frameDrop_long hu h64, fun hf hl => ?_⟩,
      lldpdu_counted hu, esmcPdu_off hu, fun ql he => ?_⟩,
    ⟨_, rfl, rfl, rfl, rfl⟩, ⟨_, rfl, rfl, rfl, rfl⟩, lldpSend_spec s, fun he => congrArg _ (if_neg (by simp [he])), esmcSend_spec,
    fun hm => ⟨ethLinkChange_spec hm, fun v hs => ⟨macCounterClear_not hs v, fun h => ?_, macsecControl_refused hs v, macsecControl_spec hs hm⟩⟩⟩
  case refine_1 =>
    rw [frameDrop_classified hu h64 hf hl]
    have hk (t : State) {v kind : Nat} (h : vlanKind t mac v = some kind) : vlanKind (countRx t mac) mac v = some kind := h
    refine ⟨fun hv => ⟨fun hn => ?_, fun hk => ?_⟩, fun v hv hk => ?_, fun v w l hv => ?_, fun v kind hv hkind => ⟨fun hc => ?_, fun h1 he hm =>
      ⟨fun ht => ?_, fun an ht => ?_⟩⟩⟩
    · rw [classify_untagged hv, if_neg hn]
    · rw [classify_untagged hv, if_pos hk]
    · rw [classify_unknown hv (by rwa [vlanKind_countRx])]
    · rw [classify_twoTags hv]
    · rw [classify_plain hv (hk s hkind) hc]
    · rw [classify_noTag hv (hk s hkind) h1 he hm ht]
    · rw [classify_tag hv (hk s hkind) h1 he hm ht, rxAccepts_countRx]
      refine ⟨fun hr => ?_, fun hr hn => ?_, fun hr hn => ?_⟩
      · rw [if_neg (by simp [hr])]
      · rw [if_pos hr, if_neg hn]
      · rw [if_pos hr, if_pos hn]
  case refine_2 =>
    obtain ⟨t, ht, hw, hh, htime⟩ := esmcPdu_on hu he ql
    refine ⟨t, ht, hw, hh, ?_⟩
    rw [htime]
    exact ⟨fun h => ⟨if_pos h, by simp [Timing.esmc, h]⟩, fun h => ⟨if_neg h, by simp [Timing.esmc, h]⟩,
      fun h => ⟨if_pos h, by simp [Timing.esmc, h]⟩, fun h => ⟨if_neg h, by simp [Timing.esmc, h]⟩⟩
  case refine_3 =>
    obtain ⟨t, ht, hmac, hothers⟩ := macCounterClear_spec hs hm h
    refine ⟨t, ht, hmac, ?_⟩
    rw [hmac]
    exact ⟨rfl, rfl, hothers, rfl, rfl, rfl, rfl, rfl, rfl, rfl⟩

end Sys2Proof.Machine
end

section
/-! PTP ports: the messages that a port takes and what it does with them, what it sends, and what the synchronisation states
and the servo leave as it is. -/

namespace Sys2Proof.Machine
set_option Elab.async false -- one proof at a time, for the memory of the check

/-! ### What the synchronisation states and the servo leave as it is -/

/-- The timing unit without what the synchronisation states and the servo work on: what a source's loss or a measurement keeps. -/
def Timing.kept (t : Timing) : Timing :=
  { t with
    time := 0, frac := 0, rate := 0, state := .freeRun, holdoverS := 0, clockClass := 0, accuracy := 0, variance := 0, goodSince := none,
    marks := [], stepped := false, rates := [], integral := 0, slewBase := none, ppsEdge := none }

/-- t is s but for what the synchronisation states and the servo work on. -/
def Tunes (s t : State) : Prop := ∃ x : Timing, t = { s with net := { s.net with timing := x } } ∧ x.kept = s.net.timing.kept

namespace Tunes
variable {s t u : State}

theorem refl (s : State) : Tunes s s := ⟨s.net.timing, rfl, rfl⟩
theorem trans (h : Tunes s t) (k : Tunes t u) : Tunes s u := by
  obtain ⟨x, rfl, hx⟩ := h
  obtain ⟨y, rfl, hy⟩ := k
  exact ⟨y, rfl, hy.trans hx⟩
theorem updTiming (s : State) {f : Timing → Timing} (h : ∀ t, (f t).kept = t.kept) : Tunes s (updTiming s f) := ⟨f s.net.timing, rfl, h _⟩

theorem work (h : Tunes s t) : t.work = s.work := by obtain ⟨_, rfl, -⟩ := h; rfl
theorem host (h : Tunes s t) : t.host = s.host := by obtain ⟨_, rfl, -⟩ := h; rfl
theorem ptp (h : Tunes s t) : t.net.ptp = s.net.ptp := by obtain ⟨_, rfl, -⟩ := h; rfl
theorem kept (h : Tunes s t) : t.net.timing.kept = s.net.timing.kept := by obtain ⟨x, rfl, hx⟩ := h; exact hx

end Tunes

theorem setQuality_tunes (s : State) (cls : BitVec 8) : Tunes s (setQuality s cls) := by
  unfold setQuality
  exact .updTiming s fun _ => rfl
theorem enterFreeRun_tunes (s : State) (cls : BitVec 8) : Tunes s (enterFreeRun s cls) :=
  (Tunes.updTiming s fun _ => rfl).trans (setQuality_tunes ..)
theorem enterAcquiring_tunes (s : State) : Tunes s (enterAcquiring s) := (Tunes.updTiming s fun _ => rfl).trans (setQuality_tunes ..)
theorem enterLocked_tunes (s : State) (base : Option Int) : Tunes s (enterLocked s base) :=
  (Tunes.updTiming s fun _ => rfl).trans (setQuality_tunes ..)
theorem enterHoldover_tunes (s : State) : Tunes s (enterHoldover s) := (Tunes.updTiming s fun _ => rfl).trans (setQuality_tunes ..)
theorem keepRate_tunes (s : State) : Tunes s (keepRate s) := by
  unfold keepRate
  exact .updTiming s fun _ => rfl
theorem setUnits_tunes (s : State) (u : Int) : Tunes s (setUnits s u) := by
  obtain ⟨time, h⟩ := setUnits_eq u
  rw [h]
  exact .updTiming s fun _ => rfl
theorem discipline_tunes (s : State) (off : Int) : Tunes s (discipline s off) := by
  unfold discipline
  refine .updTiming s fun t => ?_
  split <;> rfl

theorem acquire_tunes (s : State) (off : Int) : Tunes s (acquire s off) := by
  unfold acquire
  dsimp only
  split
  · exact (setUnits_tunes ..).trans (.updTiming _ fun _ => rfl)
  · have hserved (f : Timing → Timing) (hf : ∀ t, (f t).kept = t.kept) : Tunes s (discipline (updTiming s f) off) :=
      (Tunes.updTiming s hf).trans (discipline_tunes ..)
    split
    · split
      · refine .trans ?_ (enterLocked_tunes ..)
        exact hserved _ fun _ => rfl
      · exact hserved _ fun _ => rfl
    · exact hserved _ fun _ => rfl

/-- A source's loss: no measurement is present, and the state follows. -/
theorem sourceLost_tunes (s : State) : Tunes (updTiming s fun t => { t with present := false }) (sourceLost s) := by
  have hfirst : Tunes (updTiming s fun t => { t with present := false })
      (updTiming s fun t => { t with present := false, goodSince := none, marks := [] }) := ⟨_, rfl, rfl⟩
  unfold sourceLost
  dsimp only
  split
  · exact hfirst
  · split
    · exact hfirst.trans (enterHoldover_tunes _)
    · exact hfirst.trans (enterFreeRun_tunes ..)
    · exact hfirst

/-- A measurement: its offset is present, and the state and the servo follow. -/
theorem measured_tunes (s : State) (off : Int) :
    Tunes (updTiming s fun t => { t with offset := BitVec.ofInt 32 (off / 256), present := true }) (measured s off) := by
  unfold measured
  dsimp only
  generalize updTiming s _ = u
  split
  · exact .refl u
  · split
    · exact (enterAcquiring_tunes _).trans (acquire_tunes ..)
    · exact acquire_tunes ..
    · exact (discipline_tunes ..).trans (keepRate_tunes _)
    · split
      · exact ((enterLocked_tunes ..).trans (discipline_tunes ..)).trans (keepRate_tunes _)
      · exact (enterAcquiring_tunes _).trans (acquire_tunes ..)

theorem measured_spec (s : State) (off : Int) : (measured s off).net.timing.offset = BitVec.ofInt 32 (off / 256) ∧
    (measured s off).net.timing.present = true ∧ (measured s off).net.timing.ppsLost = s.net.timing.ppsLost ∧
    (measured s off).work = s.work ∧ (measured s off).net.ptp = s.net.ptp := by
  have h := measured_tunes s off
  exact ⟨congrArg Timing.offset h.kept, congrArg Timing.present h.kept, (congrArg Timing.ppsLost h.kept :), h.work, h.ptp⟩

theorem sourceLost_kept (s : State) : (sourceLost s).net.timing.kept = ({ s.net.timing with present := false } : Timing).kept :=
  (sourceLost_tunes s).kept
theorem sourceLost_work (s : State) : (sourceLost s).work = s.work := (sourceLost_tunes s).work
theorem sourceLost_host (s : State) : (sourceLost s).host = s.host := (sourceLost_tunes s).host
theorem sourceLost_ptp (s : State) : (sourceLost s).net.ptp = s.net.ptp := (sourceLost_tunes s).ptp

/-! ### PTP ports after an update -/

theorem getPtp_updPtp_self {s : State} {m : Nat} (f : PtpPort → PtpPort) (h : m < s.net.ptp.length) : getPtp (updPtp s m f) m = f (getPtp s m) :=
  nth_modNth_self _ f h
theorem getPtp_updPtp_other (s : State) {m k : Nat} (f : PtpPort → PtpPort) (h : k ≠ m) : getPtp (updPtp s m f) k = getPtp s k :=
  nth_modNth_other _ _ f h
theorem getPtp_congr {s t : State} (h : t.net.ptp = s.net.ptp) (m : Nat) : getPtp t m = getPtp s m := by simp only [getPtp, h]

/-- A port that is not as after reset is one of the ports. -/
theorem ptp_lt_of_ne {s : State} {m : Nat} (h : getPtp s m ≠ PtpPort.reset) : m < s.net.ptp.length := by
  by_contra hm
  exact h (by rw [getPtp, nth, List.getElem?_eq_none (Nat.le_of_not_lt hm), Option.getD_none])

theorem ptp_lt_of_state {s : State} {m : Nat} {p : BitVec 4} (h : (getPtp s m).portState = p) (hp : p ≠ 3) : m < s.net.ptp.length :=
  ptp_lt_of_ne fun hr => hp (by rw [← h, hr]; rfl)
theorem ptp_lt_of_en {s : State} {m : Nat} (h : (getPtp s m).en = true) : m < s.net.ptp.length :=
  ptp_lt_of_ne fun hr => by rw [hr] at h; cases h

/-! ### The states of the ports -/

/-- t is s but for the states of the PTP ports. -/
structure Roles (s t : State) : Prop where
  frame : ∃ ports, t = { s with net := { s.net with ptp := ports } }
  port : ∀ m, ∃ p, getPtp t m = { getPtp s m with portState := p }

theorem Roles.refl (s : State) : Roles s s := ⟨⟨_, rfl⟩, fun _ => ⟨_, rfl⟩⟩
theorem Roles.trans {s t u : State} (h : Roles s t) (k : Roles t u) : Roles s u := by
  obtain ⟨⟨_, rfl⟩, hp⟩ := h
  obtain ⟨⟨_, rfl⟩, kp⟩ := k
  refine ⟨⟨_, rfl⟩, fun m => ?_⟩
  obtain ⟨p, hm⟩ := hp m
  obtain ⟨q, km⟩ := kp m
  exact ⟨q, by rw [km, hm]⟩
theorem Roles.foldl {α : Type} {f : State → α → State} (hf : ∀ s a, Roles s (f s a)) (l : List α) (s : State) : Roles s (l.foldl f s) := by
  induction l generalizing s with
  | nil => exact .refl s
  | cons a l ih => exact (hf s a).trans (ih _)

theorem Roles.updPtp (s : State) (k : Nat) {f : PtpPort → PtpPort} (hf : ∀ q, ∃ p, f q = { q with portState := p }) : Roles s (updPtp s k f) := by
  refine ⟨⟨_, rfl⟩, fun m => ?_⟩
  by_cases hm : m = k
  · subst hm
    by_cases hl : m < s.net.ptp.length
    · rw [getPtp_updPtp_self f hl]
      exact hf _
    · refine ⟨(getPtp s m).portState, ?_⟩
      rw [getPtp, nth, updPtp_net, List.getElem?_eq_none (by rw [modNth_length]; omega), getPtp, nth, List.getElem?_eq_none (by omega)]
  · exact ⟨_, getPtp_updPtp_other s f hm⟩

/-- The best master is found anew: port states, and which port is SLAVE, and nothing else. -/
theorem bmca_spec (s : State) : ∃ t slave, Roles s t ∧ bmca s = updTiming t fun x => { x with slaveMac := slave } :=
  ⟨_, _, .foldl (fun s m => .updPtp s m fun _ => ⟨_, rfl⟩) _ s, rfl⟩

theorem getPtp_bmca (s : State) (m : Nat) : ∃ p, getPtp (bmca s) m = { getPtp s m with portState := p } := by
  obtain ⟨t, slave, hr, h⟩ := bmca_spec s
  rw [h]
  exact hr.port m
theorem bmca_work (s : State) : (bmca s).work = s.work := by
  obtain ⟨t, slave, ⟨⟨_, rfl⟩, -⟩, h⟩ := bmca_spec s
  rw [h]; rfl
theorem bmca_host (s : State) : (bmca s).host = s.host := by
  obtain ⟨t, slave, ⟨⟨_, rfl⟩, -⟩, h⟩ := bmca_spec s
  rw [h]; rfl
theorem bmca_timing (s : State) : ∃ slave, (bmca s).net.timing = { s.net.timing with slaveMac := slave } := by
  obtain ⟨t, slave, ⟨⟨_, rfl⟩, -⟩, h⟩ := bmca_spec s
  exact ⟨slave, by rw [h]; rfl⟩

/-! ### Messages that a port takes -/

theorem ptpTakes_down {s : State} {rx : PtpRx} (h : (getMac s rx.mac).up = false) : ptpTakes s rx = (s, none) := if_pos (by simp [h])

/-- A message of the device's domain, untagged or in the port's own PTP VLAN, on an enabled port whose MAC is up. -/
theorem ptpTakes_of_own {s : State} {rx : PtpRx} (hu : (getMac s rx.mac).up = true) (he : (getPtp s rx.mac).en = true)
    (hd : rx.domain = s.net.timing.domain.toNat) (hv : rx.vlan = none ∨ ((getPtp s rx.mac).tagged = true ∧
      rx.vlan = some (getPtp s rx.mac).vlan.toNat ∧ vlanKind s rx.mac (getPtp s rx.mac).vlan.toNat = some 1)) :
    ptpTakes s rx = (countRx s rx.mac, some (getPtp s rx.mac)) := by
  have hdom : ¬ rx.domain ≠ (countRx s rx.mac).net.timing.domain.toNat := fun h => h hd
  unfold ptpTakes
  dsimp only
  rw [if_neg (by simp [hu])]
  obtain h | ⟨ht, h, hk⟩ := hv
  · rw [h, if_neg nofun, if_neg (by simp [he]), if_neg (by simp), if_neg hdom]
  · have hk' : rx.vlan.map (vlanKind (countRx s rx.mac) rx.mac) = some (some 1) := by
      rw [h, Option.map_some]; exact congrArg some hk
    rw [hk', if_neg (by decide), if_neg (by simp [he]), if_neg (by simp [h, ht]), if_neg hdom]

theorem ptp_untaken {s : State} {rx : PtpRx} (h : (ptpTakes s rx).2 = none) :
    (∀ two t1 corr, exec (.ptpSync rx two t1 corr) s = .next (ptpTakes s rx).1) ∧
    (∀ who seq, exec (.ptpDelayReq rx who seq) s = .next (ptpTakes s rx).1) ∧
    (∀ t4 corr, exec (.ptpDelayResp rx t4 corr) s = .next (ptpTakes s rx).1) ∧
    (∀ a, exec (.ptpAnnounce rx a) s = .next (ptpTakes s rx).1) ∧
    (∀ peer sig, exec (.ptpSignaling rx peer sig) s = .next (ptpTakes s rx).1) := by
  obtain ⟨w, hw⟩ : ∃ w, ptpTakes s rx = (w, none) := ⟨_, Prod.ext rfl h⟩
  rw [hw]
  exact ⟨fun two t1 corr => congrArg Host.Outcome.next (by simp only [hw]), fun who seq => congrArg Host.Outcome.next (by simp only [hw]),
    fun t4 corr => congrArg Host.Outcome.next (by simp only [hw]), fun a => congrArg Host.Outcome.next (by simp only [hw]),
    fun peer sig => congrArg Host.Outcome.next (by simp only [hw])⟩

theorem sendPtp_framesOnly (s : State) (mac : Nat) (what : String) (peers : List Nat) (msg : List Byte) :
    FramesOnly s (sendPtp s mac what peers msg) := by
  unfold sendPtp
  dsimp only
  split
  · exact .foldl (fun _ _ => sendFrame_framesOnly ..) _ _
  · exact sendFrame_framesOnly ..

/-- A message to one peer, or to the multicast address, is one frame. -/
theorem sendPtp_one (s : State) (mac : Nat) (what : String) (peers : List Nat) (msg : List Byte)
    (h : s.net.timing.profile = false ∨ peers.length = 1) : (sendPtp s mac what peers msg).sent.length = s.sent.length + 1 := by
  unfold sendPtp
  dsimp only
  split
  · next hp =>
    obtain ⟨p, rfl⟩ := List.length_eq_one_iff.mp (h.resolve_left (by simp [hp]))
    rw [List.foldl_cons, List.foldl_nil, sendFrame_sent, List.length_append, List.length_singleton]
  · rw [sendFrame_sent, List.length_append, List.length_singleton]

section
variable {s w : State} {rx : PtpRx} {q : PtpPort} (ht : ptpTakes s rx = (w, some q))
include ht

/-! ### Sync and the path delay -/

theorem ptpSync_twoStep (t1 corr : Int) : exec (.ptpSync rx true t1 corr) s = .next (ptpUnsupported w rx.mac) :=
  congrArg Host.Outcome.next (by simp only [ht, if_true])

theorem ptpSync_notSlave (h : q.portState ≠ 9) (t1 corr : Int) : exec (.ptpSync rx false t1 corr) s = .next w := by
  refine congrArg Host.Outcome.next ?_
  simp only [ht, Bool.false_eq_true, if_false]
  exact if_pos h

variable (t1 corr : Int)

theorem ptpSync_unmeasured (h : q.portState = 9) (hm : q.mean = none) : exec (.ptpSync rx false t1 corr) s = .next
    (updPtp w rx.mac fun x => { x with msDelay := some ((rx.raw - q.asymIngress.toInt) - (t1 + corr)) }) := by
  refine congrArg Host.Outcome.next ?_
  simp only [ht, Bool.false_eq_true, if_false, hm]
  exact if_neg (by simp [h])

theorem ptpSync_measured (h : q.portState = 9) {d : Int} (hm : q.mean = some d) : exec (.ptpSync rx false t1 corr) s = .next
    (measured (updPtp w rx.mac fun x => { x with msDelay := some ((rx.raw - q.asymIngress.toInt) - (t1 + corr)) })
      ((rx.raw - q.asymIngress.toInt) - (t1 + corr) - d - q.delayAsym.toInt)) := by
  refine congrArg Host.Outcome.next ?_
  simp only [ht, Bool.false_eq_true, if_false, hm]
  exact if_neg (by simp [h])

theorem ptpDelayReq_unanswered (who : BitVec 80) (seq : BitVec 16)
    (h : q.portState ≠ 6 ∨ (w.net.timing.profile = true ∧ who.toNat ∉ q.peers 9)) : exec (.ptpDelayReq rx who seq) s = .next w := by
  refine congrArg Host.Outcome.next ?_
  simp only [ht]
  exact if_pos h

theorem ptpDelayReq_answered (who : BitVec 80) (seq : BitVec 16) (h6 : q.portState = 6)
    (h : w.net.timing.profile = false ∨ who.toNat ∈ q.peers 9) : exec (.ptpDelayReq rx who seq) s =
      .next (sendPtp w rx.mac "delay_resp" [who.toNat] (ptpMessage w rx.mac 9 seq.toNat (ptpStamp (rx.raw - q.asymIngress.toInt)).2 (-4)
        ((ptpStamp (rx.raw - q.asymIngress.toInt)).1 ++ beBytes 10 who.toNat))) := by
  refine congrArg Host.Outcome.next ?_
  simp only [ht]
  refine if_neg ?_
  rintro (h' | ⟨hp, hn⟩)
  · exact h' h6
  · exact h.elim (fun h => by rw [h] at hp; cases hp) fun h => hn h

theorem ptpDelayResp_nothing (h : q.portState ≠ 9 ∨ q.msDelay = none ∨ q.t3 = none) : exec (.ptpDelayResp rx t1 corr) s = .next w := by
  refine congrArg Host.Outcome.next ?_
  simp only [ht]
  split
  · next hm h3 => exact if_pos (h.resolve_right (by simp [hm, h3]))
  · rfl

theorem ptpDelayResp_measures (h : q.portState = 9) {ms t3 : Int} (hm : q.msDelay = some ms) (h3 : q.t3 = some t3) :
    exec (.ptpDelayResp rx t1 corr) s = .next (updPtp w rx.mac fun x =>
      { x with mean := some ((ms + (t1 - corr - t3)) / 2), meanPathDelay := BitVec.ofInt 32 ((ms + (t1 - corr - t3)) / 2 / 256), t3 := none }) := by
  refine congrArg Host.Outcome.next ?_
  simp only [ht, hm, h3]
  exact if_neg (by simp [h])

end

/-! ### Announce -/

/-- The master that an Announce names. -/
def parentOf (a : Announced) : Parent :=
  { identity := a.identity, clockClass := a.clockClass, accuracy := a.accuracy, variance := a.variance, priority2 := a.priority2,
    utcOffset := a.utcOffset, leap61 := a.leap61, leap59 := a.leap59 }

/-- Whether a port takes a master as its parent: it has none, the same, or a worse one (R456). -/
def PtpPort.accepts (q : PtpPort) (p : Parent) : Bool :=
  match q.parent with
  | some old => old.identity = p.identity || lexLt p.rank old.rank
  | none => true

theorem accepts_iff {q : PtpPort} {p : Parent} :
    q.accepts p = true ↔ ∀ old, q.parent = some old → old.identity = p.identity ∨ lexLt p.rank old.rank = true := by
  unfold PtpPort.accepts
  split
  · next old h => simp [h]
  · next h => simp [h]

/-- The SLAVE port's time properties are the parent's, and the clock's quality follows while the source is followed. -/
def announceTime (s : State) (a : Announced) : State :=
  let s := updTiming s fun t => { t with utcOffset := a.utcOffset, leap61 := a.leap61, leap59 := a.leap59 }
  match s.net.timing.state with
  | .acquiring => setQuality s (sourceClass s)
  | .locked => setQuality s (sourceClass s)
  | _ => s

theorem announceTime_tunes (s : State) (a : Announced) :
    Tunes (updTiming s fun t => { t with utcOffset := a.utcOffset, leap61 := a.leap61, leap59 := a.leap59 }) (announceTime s a) := by
  unfold announceTime
  dsimp only
  split
  · exact setQuality_tunes ..
  · exact setQuality_tunes ..
  · exact .refl _

/-- An Announce on a port, accepted or not: the parent, the port states, and what a SLAVE port takes from its parent. -/
def announceFrom (w : State) (mac : Nat) (a : Announced) (take : Bool) : State :=
  let s := bmca (if take then updPtp w mac fun q => { q with parent := some (parentOf a) } else w)
  if (getPtp s mac).portState = 9 ∧ take then announceTime s a else s

section
variable {s w : State} {rx : PtpRx} {q : PtpPort} (ht : ptpTakes s rx = (w, some q)) (a : Announced)
include ht

/-- What an Announce does on a port that accepts its master or not. -/
theorem exec_ptpAnnounce : exec (.ptpAnnounce rx a) s = .next (announceFrom w rx.mac a (q.accepts (parentOf a))) := by
  refine congrArg Host.Outcome.next ?_
  simp only [ht]
  rfl

theorem ptpAnnounce_left (h : q.accepts (parentOf a) = false) : exec (.ptpAnnounce rx a) s = .next (bmca w) := by
  rw [exec_ptpAnnounce ht, h]
  exact congrArg Host.Outcome.next (if_neg (by simp))

/-- A port that takes the master: it is the parent, and a SLAVE port's time properties are the parent's. -/
theorem ptpAnnounce_taken (hm : rx.mac < w.net.ptp.length) (h : q.accepts (parentOf a) = true) :
    ∃ t, exec (.ptpAnnounce rx a) s = .next t ∧ t.work = w.work ∧ (getPtp t rx.mac).parent = some (parentOf a) ∧
      ((getPtp t rx.mac).portState = 9 → t.net.timing.utcOffset = a.utcOffset ∧ t.net.timing.leap61 = a.leap61 ∧
        t.net.timing.leap59 = a.leap59) := by
  refine ⟨_, exec_ptpAnnounce ht a, ?_⟩
  rw [h, announceFrom, if_pos rfl]
  obtain ⟨p, hp⟩ := getPtp_bmca (updPtp w rx.mac fun q => { q with parent := some (parentOf a) }) rx.mac
  rw [getPtp_updPtp_self _ hm] at hp
  have hwork := bmca_work (updPtp w rx.mac fun q => { q with parent := some (parentOf a) })
  generalize bmca _ = u at hp hwork
  by_cases h9 : (getPtp u rx.mac).portState = 9
  · have hk := announceTime_tunes u a
    rw [if_pos ⟨h9, rfl⟩, hk.work, getPtp_congr hk.ptp]
    exact ⟨hwork, congrArg PtpPort.parent hp, fun _ =>
      ⟨congrArg Timing.utcOffset hk.kept, congrArg Timing.leap61 hk.kept, congrArg Timing.leap59 hk.kept⟩⟩
  · rw [if_neg fun h => h9 h.1]
    exact ⟨hwork, congrArg PtpPort.parent hp, fun h => absurd h h9⟩

end

/-! ### Signaling -/

/-- Whether a port grants a request of a message type at an interval (R456). -/
def PtpPort.grantsTo (q : PtpPort) (type : Nat) (i : Int) : Bool :=
  decide (q.portState = 6) && (if type = 11 then decide (-3 ≤ i ∧ i ≤ 0) else decide (-7 ≤ i ∧ i ≤ 0)) && decide (type ∈ [0, 9, 11])

theorem grantsTo_iff (q : PtpPort) (type : Nat) (i : Int) : q.grantsTo type i = true ↔
    q.portState = 6 ∧ ((type = 11 ∧ -3 ≤ i ∧ i ≤ 0) ∨ ((type = 0 ∨ type = 9) ∧ -7 ≤ i ∧ i ≤ 0)) := by
  unfold PtpPort.grantsTo
  by_cases h : type = 11
  · simp [h]
  · simp [h]
    tauto

/-- The port that grants a request keeps the grant. -/
def grantTo (w : State) (mac : Nat) (q : PtpPort) (peer type : Nat) (i : Int) : State :=
  if q.grantsTo type i then
    updPtp w mac fun q => { q with grants := (q.grants.filter fun g => ¬ (g.1 = peer ∧ g.2.1 = type)) ++ [(peer, type, i)] }
  else w

/-- The answer to a request: the duration granted, or 0. -/
def grantMessage (s : State) (mac : Nat) (q : PtpPort) (peer type d : Nat) (i : Int) : List Byte :=
  ptpMessage s mac 12 q.seq.toNat 0 0x7F
    (beBytes 10 peer ++ beBytes 2 5 ++ beBytes 2 8 ++ beBytes 1 (16 * type) ++ beBytes 1 (unsigned 8 i)
      ++ beBytes 4 (if q.grantsTo type i then d else 0) ++ beBytes 1 0 ++ beBytes 1 1)

section
variable {s w : State} {rx : PtpRx} {q : PtpPort} (ht : ptpTakes s rx = (w, some q)) (peer type d : Nat) (i : Int)
include ht

theorem ptpSignaling_multicast (hp : w.net.timing.profile = false) (sig : PtpSignal) : exec (.ptpSignaling rx peer sig) s = .next w := by
  refine congrArg Host.Outcome.next ?_
  simp only [ht]
  exact if_pos (by simp [hp])

variable (hp : w.net.timing.profile = true)
include hp

/-- A request is answered with one frame, and granted by the rule. -/
theorem ptpSignaling_request (hm : rx.mac < w.net.ptp.length) : ∃ t, exec (.ptpSignaling rx peer (.request type i d)) s = .next t ∧
    (getPtp t rx.mac).seq = (getPtp w rx.mac).seq + 1 ∧ t.work = w.work ∧
    (q.grantsTo type i = true →
      (getPtp t rx.mac).grants = ((getPtp w rx.mac).grants.filter fun g => ¬ (g.1 = peer ∧ g.2.1 = type)) ++ [(peer, type, i)]) ∧
    (q.grantsTo type i = false → (getPtp t rx.mac).grants = (getPtp w rx.mac).grants) ∧ t.sent.length = w.sent.length + 1 := by
  have hrun : exec (.ptpSignaling rx peer (.request type i d)) s = .next (bumpSeq (sendPtp (grantTo w rx.mac q peer type i) rx.mac "grant" [peer]
      (grantMessage (grantTo w rx.mac q peer type i) rx.mac q peer type d i)) rx.mac) := by
    refine congrArg Host.Outcome.next ?_
    simp only [ht]
    exact if_neg (by simp [hp])
  refine ⟨_, hrun, ?_⟩
  generalize grantMessage _ _ _ _ _ _ _ = msg
  generalize hv : grantTo w rx.mac q peer type i = v
  unfold grantTo at hv
  have hframes := sendPtp_framesOnly v rx.mac "grant" [peer] msg
  have hsent := sendPtp_one v rx.mac "grant" [peer] msg (.inr rfl)
  have hlen : rx.mac < (sendPtp v rx.mac "grant" [peer] msg).net.ptp.length := by
    rw [hframes.ptp, ← hv]
    split
    · rw [updPtp_net, modNth_length]; exact hm
    · exact hm
  have hport : getPtp (bumpSeq (sendPtp v rx.mac "grant" [peer] msg) rx.mac) rx.mac = { getPtp v rx.mac with seq := (getPtp v rx.mac).seq + 1 } := by
    rw [bumpSeq, getPtp_updPtp_self _ hlen, getPtp_congr hframes.ptp]
  have hwork : (bumpSeq (sendPtp v rx.mac "grant" [peer] msg) rx.mac).work = v.work := hframes.work
  have hout : (bumpSeq (sendPtp v rx.mac "grant" [peer] msg) rx.mac).sent.length = v.sent.length + 1 := hsent
  rw [hport, hwork, hout, ← hv]
  cases hg : q.grantsTo type i with
  | true =>
    rw [if_pos rfl, getPtp_updPtp_self _ hm]
    exact ⟨rfl, rfl, fun _ => rfl, nofun, rfl⟩
  | false =>
    rw [if_neg (by decide)]
    exact ⟨rfl, rfl, nofun, fun _ => rfl, rfl⟩

theorem ptpSignaling_grant : exec (.ptpSignaling rx peer (.grant type i d)) s = .next (updPtp w rx.mac fun q =>
    { q with granted := (q.granted.filter fun g => ¬ (g.1 = peer ∧ g.2.1 = type)) ++ (if d = 0 then [] else [(peer, type, i)]) }) := by
  refine congrArg Host.Outcome.next ?_
  simp only [ht]
  refine (if_neg (by simp [hp])).trans (congrArg (updPtp w rx.mac) (funext fun q => ?_))
  by_cases h : d = 0
  · simp [h]
  · simp [h]

theorem ptpSignaling_cancel : exec (.ptpSignaling rx peer (.cancel type)) s = .next (updPtp w rx.mac fun q =>
    { q with
      grants := q.grants.filter fun g => ¬ (g.1 = peer ∧ g.2.1 = type)
      granted := q.granted.filter fun g => ¬ (g.1 = peer ∧ g.2.1 = type) }) := by
  refine congrArg Host.Outcome.next ?_
  simp only [ht]
  exact if_neg (by simp [hp])

end

/-! ### What ports send -/

theorem syncTx_nothing {s : State} {mac : Nat} (h : (getMac s mac).up = false ∨ (getPtp s mac).portState ≠ 6) :
    exec (.syncTx mac) s = .next s ∧ exec (.announceTx mac) s = .next s :=
  ⟨congrArg Host.Outcome.next (if_pos (h.symm.imp_right fun h => by simp [h])),
    congrArg Host.Outcome.next (if_pos (h.symm.imp_right fun h => by simp [h]))⟩

theorem delayReqTx_nothing {s : State} {mac : Nat} (h : (getMac s mac).up = false ∨ (getPtp s mac).portState ≠ 9) (raw : Int) :
    exec (.delayReqTx mac raw) s = .next s := congrArg Host.Outcome.next (if_pos (h.symm.imp_right fun h => by simp [h]))

theorem beBytes_length (n v : Nat) : (beBytes n v).length = n := by simp [beBytes]

theorem beBytes_byte (b : Byte) : beBytes 1 b.toNat = [b] := by simp [beBytes, leBytes]

/-- The grandmaster that an Announce of the device names: the SLAVE port's parent, or the device. -/
def announcedMaster (s : State) : Nat :=
  match (slavePort s).bind fun e => e.2.parent with
  | some p => p.identity.toNat
  | none => clockIdentity s

/-- The body of an Announce of the device. -/
def announceBody (s : State) : List Byte :=
  let t := s.net.timing
  beBytes 10 0 ++ beBytes 2 t.utcOffset.toNat ++ beBytes 1 0 ++ beBytes 1 128 ++ beBytes 1 t.clockClass.toNat
    ++ beBytes 1 t.accuracy.toNat ++ beBytes 2 t.variance.toNat ++ beBytes 1 t.priority2.toNat ++ beBytes 8 (announcedMaster s) ++ beBytes 2 0
    ++ beBytes 1 0x20

theorem announceBody_length (s : State) : (announceBody s).length = 30 := by simp [announceBody, beBytes_length]

/-- The clock quality in an Announce: priority1, class, accuracy, variance, priority2, then the grandmaster. -/
theorem announceBody_quality (s : State) : ((announceBody s).drop 13).take 8 =
    [BitVec.ofNat 8 128, s.net.timing.clockClass, s.net.timing.accuracy] ++ beBytes 2 s.net.timing.variance.toNat ++
      [s.net.timing.priority2] ++ ((announceBody s).drop 19).take 2 := by
  obtain ⟨v1, v2, hv⟩ := List.length_eq_two.mp (beBytes_length 2 s.net.timing.variance.toNat)
  obtain ⟨u1, u2, hu⟩ := List.length_eq_two.mp (beBytes_length 2 s.net.timing.utcOffset.toNat)
  have hz : beBytes 10 0 = List.replicate 10 0 := by decide
  have hp : beBytes 1 128 = [BitVec.ofNat 8 128] := by decide
  have h0 : beBytes 1 0 = [0] := by decide
  obtain ⟨g, l, hg⟩ : ∃ g l, beBytes 8 (announcedMaster s) = g :: l := List.exists_cons_of_length_pos (by rw [beBytes_length]; decide)
  have hlen : l.length = 7 := by have := beBytes_length 8 (announcedMaster s); rw [hg, List.length_cons] at this; omega
  obtain ⟨g', l', rfl⟩ := List.exists_cons_of_length_pos (l := l) (by omega)
  simp only [announceBody, hz, hp, h0, hu, hv, hg, beBytes_byte]
  rfl

theorem announceTx_sends {s : State} {mac : Nat} (hu : (getMac s mac).up = true) (h6 : (getPtp s mac).portState = 6) :
    exec (.announceTx mac) s = .next (bumpSeq (sendPtp s mac "announce" ((getPtp s mac).peers 11)
      (ptpMessage s mac 11 (getPtp s mac).seq.toNat 0 (-3) (announceBody s))) mac) :=
  congrArg Host.Outcome.next (if_neg (by simp [hu, h6]))

/-- A message that a port sends: its sequence number goes on, and the work and the host interface stay. -/
theorem bumpSeq_sent {s u : State} {mac : Nat} (hf : FramesOnly s u) (hm : mac < s.net.ptp.length) :
    getPtp (bumpSeq u mac) mac = { getPtp s mac with seq := (getPtp s mac).seq + 1 } ∧ (bumpSeq u mac).work = s.work ∧
      (bumpSeq u mac).host = s.host := by
  refine ⟨?_, hf.work, hf.host⟩
  rw [bumpSeq, getPtp_updPtp_self _ (by rw [hf.ptp]; exact hm), getPtp_congr hf.ptp]

theorem delayReqTx_sends {s : State} {mac : Nat} (hu : (getMac s mac).up = true) (h9 : (getPtp s mac).portState = 9) (raw : Int) :
    ∃ t, exec (.delayReqTx mac raw) s = .next t ∧ (getPtp t mac).seq = (getPtp s mac).seq + 1 ∧
      (getPtp t mac).t3 = some (raw + (getPtp s mac).asymEgress.toInt) ∧ t.work = s.work ∧ t.host = s.host ∧
      (s.net.timing.profile = false → t.sent.length = s.sent.length + 1) := by
  have hm := ptp_lt_of_state h9 (by decide)
  refine ⟨_, congrArg Host.Outcome.next (if_neg (by simp [hu, h9])), ?_⟩
  dsimp only
  generalize hv : updPtp s mac _ = v
  generalize ptpMessage _ _ _ _ _ _ _ = msg
  have hport : getPtp v mac = { getPtp s mac with t3 := some (raw + (getPtp s mac).asymEgress.toInt) } := by
    rw [← hv, getPtp_updPtp_self _ hm]
  have hlen : mac < v.net.ptp.length := by rw [← hv, updPtp_net, modNth_length]; exact hm
  obtain ⟨hseq, hwork, hhost⟩ := bumpSeq_sent (sendPtp_framesOnly v mac "delay_req" (dedup ((getPtp s mac).granted.map Prod.fst)) msg) hlen
  rw [hseq, hport, hwork, hhost, ← hv]
  refine ⟨rfl, rfl, rfl, rfl, fun hp => ?_⟩
  exact sendPtp_one (updPtp s mac _) mac "delay_req" _ msg (.inl hp)

/-- A port that loses its parent forgets its measurements. -/
theorem ptpSourceLoss_forgets (s : State) (mac : Nat) : ∃ t, exec (.ptpSourceLoss mac) s = .next t ∧ t.work = s.work ∧ t.host = s.host ∧
    (mac < s.net.ptp.length → (getPtp t mac).parent = none ∧ (getPtp t mac).msDelay = none ∧ (getPtp t mac).t3 = none ∧
      (getPtp t mac).mean = none) := by
  refine ⟨_, rfl, ?_⟩
  dsimp only
  generalize hv : updPtp s mac _ = v
  have hw : v.work = s.work ∧ v.host = s.host := by rw [← hv]; exact ⟨rfl, rfl⟩
  have hrest : ∀ t : State, t.work = v.work → t.host = v.host → t.net.ptp = (bmca v).net.ptp → t.work = s.work ∧ t.host = s.host ∧
      (mac < s.net.ptp.length → (getPtp t mac).parent = none ∧ (getPtp t mac).msDelay = none ∧ (getPtp t mac).t3 = none ∧
        (getPtp t mac).mean = none) := by
    refine fun t h1 h2 h3 => ⟨h1.trans hw.1, h2.trans hw.2, fun hm => ?_⟩
    obtain ⟨p, hp⟩ := getPtp_bmca v mac
    rw [getPtp_congr h3, hp, ← hv, getPtp_updPtp_self _ hm]
    exact ⟨rfl, rfl, rfl, rfl⟩
  split
  · exact hrest _ ((sourceLost_work _).trans (bmca_work v)) ((sourceLost_host _).trans (bmca_host v)) (sourceLost_ptp _)
  · exact hrest _ (bmca_work v) (bmca_host v) rfl

/-- Settles O43: a message by whether its port takes it, then by the port's state; what is sent by the port's state. -/
theorem ptpPortsFollowAndServe : Obligations.PtpPortsFollowAndServe := by
  unfold Obligations.PtpPortsFollowAndServe
  intro s rx
  refine ⟨ptp_untaken, ptpTakes_down, fun hu he hd hv => ?taken, fun mac => ⟨syncTx_nothing, fun h => delayReqTx_nothing h⟩,
    fun mac hu => ⟨fun h6 => ⟨congrArg _ (if_neg (by simp [hu, h6])), ?announce⟩, fun raw h9 => delayReqTx_sends hu h9 raw⟩,
    ptpSourceLoss_forgets s⟩
  case taken =>
    have ht := ptpTakes_of_own hu he hd hv
    have hm : rx.mac < (countRx s rx.mac).net.ptp.length := ptp_lt_of_en (s := s) he
    refine ⟨ht, fun t1 corr => ⟨ptpSync_twoStep ht t1 corr, fun h => ptpSync_notSlave ht h t1 corr⟩, fun t1 corr h9 =>
      ⟨ptpSync_unmeasured ht t1 corr h9, fun d hd => ?sync⟩, fun who seq => ⟨ptpDelayReq_unanswered ht who seq,
      fun h6 h => ptpDelayReq_answered ht who seq h6 h⟩, fun t4 corr => ptpDelayResp_nothing ht t4 corr,
      fun t4 corr ms t3 h9 hms h3 => ptpDelayResp_measures ht t4 corr h9 hms h3, fun a => ⟨fun h => ?take, fun h => ?leave⟩,
      fun peer sig h => ptpSignaling_multicast ht peer h sig, fun peer type d i h => ⟨?request, ptpSignaling_grant ht peer type d i h⟩,
      fun peer type h => ptpSignaling_cancel ht peer type h⟩
    case sync =>
      refine ⟨_, ptpSync_measured ht t1 corr h9 hd, ?_⟩
      obtain ⟨hoff, hpres, -, hwork, hptp⟩ := measured_spec (updPtp (countRx s rx.mac) rx.mac fun x =>
        { x with msDelay := some ((rx.raw - (getPtp s rx.mac).asymIngress.toInt) - (t1 + corr)) })
        ((rx.raw - (getPtp s rx.mac).asymIngress.toInt) - (t1 + corr) - d - (getPtp s rx.mac).delayAsym.toInt)
      refine ⟨?_, hoff, hpres, hwork⟩
      rw [getPtp_congr hptp, getPtp_updPtp_self _ hm]
    case take => exact ptpAnnounce_taken ht a hm (accepts_iff.mpr h)
    case leave => exact ptpAnnounce_left ht a (Bool.eq_false_iff.mpr fun hc => h (accepts_iff.mp hc))
    case request =>
      obtain ⟨t, hexec, hseq, hwork, hyes, hno, hsent⟩ := ptpSignaling_request ht peer type d i h hm
      exact ⟨t, hexec, hseq, hwork, fun hok => hyes ((grantsTo_iff ..).mpr hok),
        fun hok => hno (Bool.eq_false_iff.mpr fun hc => hok ((grantsTo_iff ..).mp hc)), hsent⟩
  case announce =>
    obtain ⟨hseq, hwork, hhost⟩ := bumpSeq_sent (sendPtp_framesOnly s mac "announce" ((getPtp s mac).peers 11)
      (ptpMessage s mac 11 (getPtp s mac).seq.toNat 0 (-3) (announceBody s))) (ptp_lt_of_state h6 (by decide))
    exact ⟨_, _, announceTx_sends hu h6, rfl, announceBody_quality s, announceBody_length s, congrArg PtpPort.seq hseq, hwork, hhost⟩

end Sys2Proof.Machine
end

section
/-! Device time: its physical inputs and outputs, the loss of a source, the latch and set registers, and the source register. -/

namespace Sys2Proof.Machine
set_option Elab.async false -- one proof at a time, for the memory of the check

/-! ### The physical inputs -/

theorem clk10mRestored_far {s : State} {rate : Int} (h : 14073748835 < rate.natAbs) : exec (.clk10mRestored rate) s = .next s :=
  congrArg Host.Outcome.next (if_neg (by omega))

/-- The edge of PPS_IN at the device, and its distance from the nearest second. -/
def ppsEdgeAt (s : State) (pin : Int) : Int := pin - s.net.timing.ppsInDelay.toInt * 65536
def ppsDistance (s : State) (pin : Int) : Int :=
  ppsEdgeAt s pin - (ppsEdgeAt s pin + 32768000000000) / 65536000000000 * 65536000000000

/-- An edge that LOCKED and HOLDOVER do not take (R460). -/
def PpsFar (s : State) (pin : Int) : Prop :=
  (s.net.timing.state = .locked ∨ s.net.timing.state = .holdover) ∧ 65536000 < (ppsDistance s pin).natAbs

/-- The edge is kept. -/
def ppsKept (s : State) (pin : Int) : State :=
  updTiming s fun t => { t with ppsLost := false, ppsEdge := some (ppsEdgeAt s pin / 65536).toNat, todSeconds := t.todSeconds.map (· + 1) }

section
variable {s : State} {pin : Int}

theorem ppsInEdge_far (h : PpsFar s pin) : exec (.ppsInEdge pin) s = .next s := congrArg Host.Outcome.next (if_pos h)

theorem ppsInEdge_near (h : ¬ PpsFar s pin) : exec (.ppsInEdge pin) s = .next (match s.net.timing.todSeconds with
    | some k => if s.net.timing.source = 2 ∧ ¬ s.net.timing.todLost then measured (ppsKept s pin) (ppsEdgeAt s pin - k * 65536000000000)
      else ppsKept s pin
    | none => ppsKept s pin) := congrArg Host.Outcome.next (if_neg h)

theorem ppsInEdge_unnamed (h : ¬ PpsFar s pin)
    (hn : s.net.timing.todSeconds = none ∨ s.net.timing.source ≠ 2 ∨ s.net.timing.todLost = true) :
    exec (.ppsInEdge pin) s = .next (ppsKept s pin) := by
  rw [ppsInEdge_near h]
  refine congrArg Host.Outcome.next ?_
  split
  · next k hk =>
    refine if_neg fun hc => ?_
    obtain hn | hn | hn := hn
    · rw [hn] at hk; cases hk
    · exact hn hc.1
    · exact hc.2 hn
  · rfl

/-- An edge whose second time of day has named measures the offset. -/
theorem ppsInEdge_named (h : ¬ PpsFar s pin) {k : Nat} (hk : s.net.timing.todSeconds = some k) (h2 : s.net.timing.source = 2)
    (hl : s.net.timing.todLost = false) : ∃ t, exec (.ppsInEdge pin) s = .next t ∧ t.net.timing.ppsLost = false ∧
      t.net.timing.offset = BitVec.ofInt 32 ((ppsEdgeAt s pin - k * 65536000000000) / 256) ∧ t.net.timing.present = true ∧ t.work = s.work := by
  obtain ⟨hoff, hpres, hpps, hwork, -⟩ := measured_spec (ppsKept s pin) (ppsEdgeAt s pin - k * 65536000000000)
  refine ⟨_, (ppsInEdge_near h).trans (congrArg Host.Outcome.next ?_), hpps, hoff, hpres, hwork⟩
  simp only [hk]
  exact if_pos ⟨h2, by simp [hl]⟩

end

/-! ### Sources that are lost -/

/-- The loss of the source in LOCKED begins HOLDOVER (R463). -/
theorem sourceLost_locked {s : State} (hl : s.net.timing.linkTime = false) (h : s.net.timing.state = .locked) :
    (sourceLost s).net.timing.state = .holdover ∧ (sourceLost s).net.timing.clockClass = 135 ∧ (sourceLost s).net.timing.holdoverS = 0 ∧
      (sourceLost s).net.timing.ppsEdge = s.net.timing.ppsEdge := by
  unfold sourceLost
  dsimp only
  rw [if_neg (by simp [hl])]
  simp only [updTiming_net, h]
  exact ⟨rfl, rfl, rfl, rfl⟩

theorem sourceLost_ppsEdge (s : State) : (sourceLost s).net.timing.ppsEdge = s.net.timing.ppsEdge := by
  unfold sourceLost
  dsimp only
  split
  · rfl
  · split <;> rfl

theorem sourceLost_free {s : State} (hl : s.net.timing.linkTime = false) (h : s.net.timing.state = .acquiring ∨ s.net.timing.state = .freeRun) :
    (sourceLost s).net.timing.state = .freeRun := by
  unfold sourceLost
  dsimp only
  rw [if_neg (by simp [hl])]
  obtain h | h := h
  · simp only [updTiming_net, h]; rfl
  · simp only [updTiming_net, h]

theorem ppsLost_spec (s : State) : ∃ t, exec .ppsLost s = .next t ∧ t.net.timing.ppsLost = true ∧ t.net.timing.ppsEdge = none ∧
    (s.net.timing.source = 2 → s.net.timing.linkTime = false → s.net.timing.state = .locked →
      t.net.timing.state = .holdover ∧ t.net.timing.clockClass = 135 ∧ t.net.timing.holdoverS = 0) ∧
    (s.net.timing.source ≠ 2 → t.net.timing.state = s.net.timing.state) := by
  refine ⟨_, rfl, ?_⟩
  dsimp only
  generalize hu : updTiming s _ = u
  have hsource : u.net.timing.source = s.net.timing.source := by rw [← hu]; rfl
  rw [hsource]
  by_cases h2 : s.net.timing.source = 2
  · rw [if_pos h2]
    refine ⟨(congrArg Timing.ppsLost (sourceLost_kept u)).trans (by rw [← hu]; rfl), (sourceLost_ppsEdge u).trans (by rw [← hu]; rfl),
      fun _ hl hlock => ?_, fun h => absurd h2 h⟩
    obtain ⟨h1, h2, h3, -⟩ := sourceLost_locked (s := u) (by rw [← hu]; exact hl) (by rw [← hu]; exact hlock)
    exact ⟨h1, h2, h3⟩
  · rw [if_neg h2, ← hu]
    exact ⟨rfl, rfl, fun h => absurd h h2, fun _ => rfl⟩

theorem todLost_spec (s : State) : ∃ t, exec .todLost s = .next t ∧ t.net.timing.todLost = true ∧ t.net.timing.todSeconds = none ∧
    (s.net.timing.source = 2 → s.net.timing.linkTime = false → s.net.timing.state = .locked → t.net.timing.state = .holdover) ∧
    (s.net.timing.source ≠ 2 → t.net.timing.state = s.net.timing.state) := by
  refine ⟨_, rfl, ?_⟩
  dsimp only
  generalize hu : updTiming s _ = u
  have hsource : u.net.timing.source = s.net.timing.source := by rw [← hu]; rfl
  rw [hsource]
  by_cases h2 : s.net.timing.source = 2
  · rw [if_pos h2]
    refine ⟨(congrArg Timing.todLost (sourceLost_kept u)).trans (by rw [← hu]; rfl),
      (congrArg Timing.todSeconds (sourceLost_kept u)).trans (by rw [← hu]; rfl),
      fun _ hl hlock => (sourceLost_locked (s := u) (by rw [← hu]; exact hl) (by rw [← hu]; exact hlock)).1, fun h => absurd h2 h⟩
  · rw [if_neg h2, ← hu]
    exact ⟨rfl, rfl, fun h => absurd h h2, fun _ => rfl⟩

/-! ### Time of day and what leaves -/

/-- A time-of-day message that names the second of a PPS edge (R461). -/
structure TodGood (s : State) (data : List Byte) (e : Nat) : Prop where
  en : s.net.timing.todInEn = true
  source : s.net.timing.source = 2
  length : data.length = 16
  magic : imgLe data 0 2 = 0x4454
  size : imgByte data 2 = 16
  crc : crc8 (data.take 15) = imgByte data 15
  after : e + 100000000 ≤ nowNs s
  before : nowNs s ≤ e + 900000000

section
variable {s : State} {data : List Byte}

theorem todMessage_good {e : Nat} (he : s.net.timing.ppsEdge = some e) (h : TodGood s data e) : exec (.todMessage data) s =
    .next (updTiming s fun t => { t with todLost := false, todSeconds := some (imgLe data 4 6 + 1) }) := by
  obtain ⟨h1, h2, h3, h4, h5, h6, h7, h8⟩ := h
  refine congrArg Host.Outcome.next ?_
  simp only [he]
  exact if_pos ⟨h1, h2, h3, h4, h5, h6, h7, h8⟩

theorem todMessage_bad (h : ∀ e, s.net.timing.ppsEdge = some e → ¬ TodGood s data e) : exec (.todMessage data) s = .next s := by
  refine congrArg Host.Outcome.next ?_
  dsimp only
  split
  · rfl
  · next e he =>
    refine if_neg ?_
    rintro ⟨h1, h2, h3, h4, h5, h6, h7, h8⟩
    exact h e he ⟨h1, h2, h3, h4, h5, h6, h7, h8⟩

/-- The fifteen bytes of a time-of-day message before its check. -/
def todBytes (s : State) : List Byte :=
  leBytes 2 0x4454 ++ leBytes 1 16 ++ leBytes 1 s.net.timing.state.code ++ leBytes 6 (timeS s) ++ leBytes 2 s.net.timing.utcOffset.toNat
    ++ leBytes 1 (b2n s.net.timing.leap61 + 2 * b2n s.net.timing.leap59) ++ leBytes 2 0

theorem todOut_sends (h : s.net.timing.todOutEn = true) : ∃ d : List Nat, exec .todOutMessage s = .next (emit s (.timing "tod" d)) ∧ d.length = 16 ∧
    d.take 3 = [0x54, 0x44, 16] ∧ d[3]? = some s.net.timing.state.code := by
  refine ⟨(todBytes s ++ leBytes 1 (crc8 (todBytes s))).map BitVec.toNat, congrArg Host.Outcome.next (if_neg (by simp [h])), ?_, rfl, ?_⟩
  · simp [todBytes]
  · cases hs : s.net.timing.state <;> simp [todBytes, leBytes, hs, SyncState.code]

end

/-! ### The holdover limit, and device time by registers -/

theorem holdoverLimit_ends {s : State} (h : s.net.timing.state = .holdover) (hl : s.net.timing.linkTime = false) :
    ∃ t, exec .holdoverLimitExpiry s = .next t ∧ t.net.timing.state = .freeRun ∧ t.net.timing.clockClass = 165 ∧
      t.net.timing.rate = s.net.timing.rate ∧ t.net.timing.time = s.net.timing.time :=
  ⟨_, congrArg Host.Outcome.next (if_pos ⟨h, by simp [hl]⟩), rfl, rfl, rfl, rfl⟩

theorem holdoverLimit_nothing {s : State} (h : s.net.timing.state ≠ .holdover ∨ s.net.timing.linkTime = true) :
    exec .holdoverLimitExpiry s = .next s :=
  congrArg Host.Outcome.next (if_neg fun hc => h.elim (fun h => h hc.1) fun h => hc.2 h)

theorem aonClockSet_nothing {s : State} (h : s.net.timing.state ≠ .locked ∨ s.sec.aonRuns = false) : exec .aonClockSet s = .next s :=
  congrArg Host.Outcome.next (if_neg fun hc => h.elim (fun h => h hc.1) fun h => by rw [h] at hc; cases hc.2)

/-- The second and nanosecond of a device time that has been set. -/
theorem timeS_mkTime {s : State} {sec ns : Nat} (hsec : sec < 2 ^ 64) (hns : ns < 1000000000)
    (h : s.net.timing.time = mkTime (sec * 1000000000 + ns) 0) : timeS s = sec ∧ timeSubNs s = ns := by
  unfold timeSubNs timeS
  rw [h, BitVec.toNat_ushiftRight, BitVec.toNat_ushiftRight, mkTime_toNat (by omega) (by decide)]
  simp only [Nat.shiftRight_eq_div_pow]
  omega

section
variable {s : State} (hs : served s 0 = true) {v : BitVec 32}
include hs

theorem timeLatch_copies (h : v.getLsbD 0 = true) : exec (.timeLatch v) s = .next (updTiming s fun t => { t with latch := t.time }) :=
  congrArg Host.Outcome.next ((chipWrite_of_served hs _).trans (if_pos (by rw [bit_toNat, h])))

theorem timeLatch_not (h : v.getLsbD 0 = false) : exec (.timeLatch v) s = .next s :=
  congrArg Host.Outcome.next ((chipWrite_of_served hs _).trans (if_neg (by rw [bit_toNat, h]; decide)))

theorem timeSetApply_not (h : v.getLsbD 0 = false) : exec (.timeSetApply v) s = .next s :=
  congrArg Host.Outcome.next ((chipWrite_of_served hs _).trans (if_pos (by rw [bit_toNat, h]; decide)))

theorem timeSetApply_refused (h : v.getLsbD 0 = true) (hf : s.net.timing.state ≠ .freeRun) :
    exec (.timeSetApply v) s = .next (valueError s 0x8C2C) :=
  congrArg Host.Outcome.next ((chipWrite_of_served hs _).trans ((if_neg (by rw [bit_toNat, h]; decide)).trans (if_pos hf)))

/-- Device time set, with no fraction. -/
def timeSet (s : State) (time : BitVec 128) : State := updTiming s fun t => { t with time := time, frac := 0 }

/-- The seconds that the set registers hold. -/
def setSeconds (s : State) : Nat := s.net.timing.setHi.toNat * 2 ^ 32 + s.net.timing.setLo.toNat

omit hs in
theorem setSeconds_lt (s : State) : setSeconds s < 2 ^ 64 := by
  have hhi := s.net.timing.setHi.isLt
  have hlo := s.net.timing.setLo.isLt
  unfold setSeconds
  omega

omit hs in
theorem timeSet_time (s : State) (time : BitVec 128) : (timeSet s time).net.timing.time = time := rfl

omit hs in
theorem timeSet_state (s : State) (time : BitVec 128) : (timeSet s time).net.timing.state = s.net.timing.state := rfl

omit hs in
theorem timeSet_work (s : State) (time : BitVec 128) : (timeSet s time).work = s.work := rfl

omit hs in
theorem timeS_timeSet (s : State) {sec ns : Nat} (hsec : sec < 2 ^ 64) (hns : ns < 1000000000) :
    timeS (timeSet s (mkTime (sec * 1000000000 + ns) 0)) = sec ∧ timeSubNs (timeSet s (mkTime (sec * 1000000000 + ns) 0)) = ns :=
  timeS_mkTime hsec hns (timeSet_time s _)

theorem timeSetApply_free (h : v.getLsbD 0 = true) (hf : s.net.timing.state = .freeRun) : exec (.timeSetApply v) s =
    .next (timeSet s (mkTime (setSeconds s * 1000000000 + s.net.timing.setNs.toNat) 0)) := by
  have hrun : exec (.timeSetApply v) s = .next (chipWrite s (applyTimeSet v.toNat)) := rfl
  rw [hrun, chipWrite_of_served hs, applyTimeSet]
  simp only [bit_toNat, h, hf, not_true_eq_false, if_false, ne_eq, timeSet, updTiming, setSeconds]

theorem timeSetApply_sets (h : v.getLsbD 0 = true) (hf : s.net.timing.state = .freeRun) (hns : s.net.timing.setNs.toNat < 1000000000) :
    ∃ t, exec (.timeSetApply v) s = .next t ∧ timeS t = setSeconds s % 2 ^ 64 ∧
      timeSubNs t = s.net.timing.setNs.toNat ∧ t.net.timing.state = .freeRun ∧ t.work = s.work := by
  obtain ⟨h1, h2⟩ := timeS_timeSet s (setSeconds_lt s) hns
  exact ⟨timeSet s (mkTime (setSeconds s * 1000000000 + s.net.timing.setNs.toNat) 0), timeSetApply_free hs h hf,
    h1.trans (Nat.mod_eq_of_lt (setSeconds_lt s)).symm, h2, (timeSet_state ..).trans hf, timeSet_work ..⟩

end

/-! ### The source register -/

/-- What the control register's write leaves of the timing unit when the source's state has followed. -/
def Timing.control (t : Timing) : Timing := { t.kept with present := false, slaveMac := 0 }

/-- The control register's fields taken. -/
def controlled (s : State) (v : Nat) : State := updTiming s fun t =>
  { t with
    source := BitVec.ofNat 2 (v % 4), profile := bit v 2, bc := bit v 3, ppsOutEn := bit v 4, todOutEn := bit v 5, todInEn := bit v 6,
    freqRef := bit v 7, synceEn := bit v 8, domain := BitVec.ofNat 8 (bits v 23 16), priority2 := BitVec.ofNat 8 (bits v 31 24) }

/-- FREQ_REF newly set follows CLK10M. -/
def freqFollows (new old : Bool) (s : State) : State :=
  if new ∧ ¬ old ∧ ¬ s.net.timing.clk10mLost then updTiming s fun t => { t with rate := t.clk10mRate } else s

/-- The synchronisation state after a write of SOURCE (R463). -/
def sourceFollows (src old : Nat) (s : State) : State :=
  if s.net.timing.linkTime then s
  else
    match s.net.timing.state with
    | .holdover => if src = 0 then enterFreeRun s 248 else enterAcquiring (updTiming s fun t => { t with present := false })
    | _ =>
      if src = 0 then enterFreeRun (updTiming s fun t => { t with present := false }) 248
      else if src ≠ old then sourceLost s
      else s

/-- The domain that the profile of the write allows (R456). -/
def DomainOk (v : BitVec 32) : Prop :=
  if v.getLsbD 2 then 44 ≤ (v.extractLsb' 16 8).toNat ∧ (v.extractLsb' 16 8).toNat ≤ 63
  else 24 ≤ (v.extractLsb' 16 8).toNat ∧ (v.extractLsb' 16 8).toNat ≤ 43

/-- The state in which the source's state follows a write. -/
def controlSet (s : State) (v : BitVec 32) : State := bmca (freqFollows (bit v.toNat 7) s.net.timing.freqRef (controlled s v.toNat))

theorem domainOk_iff (v : BitVec 32) :
    (if bit v.toNat 2 then decide (44 ≤ bits v.toNat 23 16 ∧ bits v.toNat 23 16 ≤ 63)
      else decide (24 ≤ bits v.toNat 23 16 ∧ bits v.toNat 23 16 ≤ 43)) = true ↔ DomainOk v := by
  rw [bit_toNat, DomainOk, toNat_extractLsb'_eq_bits v 16 8 (by decide)]
  split <;> exact decide_eq_true_iff

theorem sourceWrite_refused {s : State} (hs : served s 0 = true) {v : BitVec 32} (h : v.toNat % 4 = 3 ∨ ¬ DomainOk v) :
    exec (.sourceWrite v) s = .next (valueError s 0x8C00) :=
  congrArg Host.Outcome.next ((chipWrite_of_served hs _).trans
    (if_pos (h.imp_right fun h => fun hc => h ((domainOk_iff v).1 hc))))

theorem sourceWrite_follows {s : State} (hs : served s 0 = true) {v : BitVec 32} (h3 : v.toNat % 4 ≠ 3) (hd : DomainOk v) :
    exec (.sourceWrite v) s = .next (sourceFollows (v.toNat % 4) s.net.timing.source.toNat (controlSet s v)) :=
  congrArg Host.Outcome.next ((chipWrite_of_served hs _).trans
    (if_neg fun hc => hc.elim h3 fun hc => hc ((domainOk_iff v).2 hd)))

/-! #### What the write keeps of its fields -/

theorem control_of_tunes {s t : State} (h : Tunes s t) : t.net.timing.control = s.net.timing.control :=
  congrArg (fun k : Timing => ({ k with present := false, slaveMac := 0 } : Timing)) h.kept

theorem updTiming_control {f : Timing → Timing} (h : ∀ t, (f t).control = t.control) (s : State) :
    (updTiming s f).net.timing.control = s.net.timing.control := by
  rw [updTiming_net]
  exact h _

/-- The parts of the timing unit that the state after a source write follows from, and the work area. -/
theorem sourceFollows_control (src old : Nat) (s : State) :
    (sourceFollows src old s).net.timing.control = s.net.timing.control ∧ (sourceFollows src old s).work = s.work := by
  have hpresent := updTiming_control (f := fun t => { t with present := false }) (fun _ => rfl) s
  unfold sourceFollows
  split
  · exact ⟨rfl, rfl⟩
  · split
    · split
      · exact ⟨control_of_tunes (enterFreeRun_tunes ..), (enterFreeRun_tunes ..).work⟩
      · exact ⟨(control_of_tunes (enterAcquiring_tunes _)).trans hpresent, (enterAcquiring_tunes _).work⟩
    · split
      · exact ⟨(control_of_tunes (enterFreeRun_tunes ..)).trans hpresent, (enterFreeRun_tunes ..).work⟩
      · split
        · exact ⟨(control_of_tunes (sourceLost_tunes s)).trans hpresent, (sourceLost_tunes s).work⟩
        · exact ⟨rfl, rfl⟩

/-- What a fold of the ports and a newly followed clock leave: the fields, the state, the time of the link, the work area. -/
theorem controlSet_keeps (s : State) (v : BitVec 32) :
    (controlSet s v).net.timing.control = (controlled s v.toNat).net.timing.control ∧
      (controlSet s v).net.timing.state = s.net.timing.state ∧ (controlSet s v).net.timing.linkTime = s.net.timing.linkTime ∧
      (controlSet s v).work = s.work := by
  obtain ⟨slave, hslave⟩ := bmca_timing (freqFollows (bit v.toNat 7) s.net.timing.freqRef (controlled s v.toNat))
  unfold controlSet
  rw [hslave, bmca_work]
  unfold freqFollows
  split
  · exact ⟨rfl, rfl, rfl, rfl⟩
  · exact ⟨rfl, rfl, rfl, rfl⟩

theorem ofNat_bits (v : BitVec 32) (start len : Nat) (h : 0 < len) :
    BitVec.ofNat len (bits v.toNat (start + len - 1) start) = v.extractLsb' start len := by
  rw [← toNat_extractLsb'_eq_bits v start len h, BitVec.ofNat_toNat, BitVec.setWidth_eq]

/-- The fields of the control register that a state holds. -/
structure ControlTaken (v : BitVec 32) (t : Timing) : Prop where
  source : t.source = v.extractLsb' 0 2
  profile : t.profile = v.getLsbD 2
  bc : t.bc = v.getLsbD 3
  ppsOutEn : t.ppsOutEn = v.getLsbD 4
  todOutEn : t.todOutEn = v.getLsbD 5
  todInEn : t.todInEn = v.getLsbD 6
  freqRef : t.freqRef = v.getLsbD 7
  synceEn : t.synceEn = v.getLsbD 8
  domain : t.domain = v.extractLsb' 16 8
  priority2 : t.priority2 = v.extractLsb' 24 8

theorem controlTaken_of_control {s : State} {v : BitVec 32} {t : Timing} (h : t.control = (controlled s v.toNat).net.timing.control) :
    ControlTaken v t where
  source := (congrArg Timing.source h).trans (ofNat_bits v 0 2 (by decide))
  profile := congrArg Timing.profile h
  bc := congrArg Timing.bc h
  ppsOutEn := congrArg Timing.ppsOutEn h
  todOutEn := congrArg Timing.todOutEn h
  todInEn := congrArg Timing.todInEn h
  freqRef := congrArg Timing.freqRef h
  synceEn := congrArg Timing.synceEn h
  domain := (congrArg Timing.domain h).trans (ofNat_bits v 16 8 (by decide))
  priority2 := (congrArg Timing.priority2 h).trans (ofNat_bits v 24 8 (by decide))

/-! #### The state that follows the source -/

section
variable {src old : Nat} {u : State}

theorem sourceFollows_linkTime (h : u.net.timing.linkTime = true) : sourceFollows src old u = u := if_pos h

theorem sourceFollows_none (h : u.net.timing.linkTime = false) :
    (sourceFollows 0 old u).net.timing.state = .freeRun ∧ (sourceFollows 0 old u).net.timing.clockClass = 248 := by
  unfold sourceFollows
  rw [if_neg (by simp [h])]
  split <;> exact ⟨rfl, rfl⟩

theorem sourceFollows_holdover (hl : u.net.timing.linkTime = false) (h0 : src ≠ 0) (h : u.net.timing.state = .holdover) :
    (sourceFollows src old u).net.timing.state = .acquiring := by
  unfold sourceFollows
  rw [if_neg (by simp [hl]), h]
  exact congrArg (fun x : State => x.net.timing.state) (if_neg h0)

theorem sourceFollows_same (hl : u.net.timing.linkTime = false) (h0 : src ≠ 0) (h : u.net.timing.state ≠ .holdover) (ho : src = old) :
    sourceFollows src old u = u := by
  unfold sourceFollows
  rw [if_neg (by simp [hl])]
  split
  · next hs => exact absurd hs h
  · exact (if_neg h0).trans (if_neg fun hne => hne ho)

theorem sourceFollows_other (hl : u.net.timing.linkTime = false) (h0 : src ≠ 0) (h : u.net.timing.state ≠ .holdover) (ho : src ≠ old) :
    sourceFollows src old u = sourceLost u := by
  unfold sourceFollows
  rw [if_neg (by simp [hl])]
  split
  · next hs => exact absurd hs h
  · exact (if_neg h0).trans (if_pos ho)

end

/-- A write of the control register whose fields are in range (R455, R463). -/
theorem sourceWrite_spec {s : State} (hs : served s 0 = true) {v : BitVec 32} (h3 : v.toNat % 4 ≠ 3) (hd : DomainOk v) :
    ∃ u, u.net.timing.state = s.net.timing.state ∧ u.net.timing.linkTime = s.net.timing.linkTime ∧
      exec (.sourceWrite v) s = .next (sourceFollows (v.toNat % 4) s.net.timing.source.toNat u) ∧
      ControlTaken v (sourceFollows (v.toNat % 4) s.net.timing.source.toNat u).net.timing ∧
      (sourceFollows (v.toNat % 4) s.net.timing.source.toNat u).work = s.work := by
  obtain ⟨hcontrol, hstate, hlink, hwork⟩ := controlSet_keeps s v
  obtain ⟨hc, hw⟩ := sourceFollows_control (v.toNat % 4) s.net.timing.source.toNat (controlSet s v)
  exact ⟨_, hstate, hlink, sourceWrite_follows hs h3 hd, controlTaken_of_control (hc.trans hcontrol), hw.trans hwork⟩

theorem ppsOut_silent {s : State} (h : s.net.timing.ppsOutEn = false) : exec .ppsOutEdge s = .next s :=
  congrArg Host.Outcome.next (if_neg fun hc => by rw [h] at hc; cases hc)

theorem todOut_silent {s : State} (h : s.net.timing.todOutEn = false) : exec .todOutMessage s = .next s :=
  congrArg Host.Outcome.next (if_pos fun hc => by rw [h] at hc; cases hc)

theorem ppsOut_sends {s : State} (h : s.net.timing.ppsOutEn = true) : exec .ppsOutEdge s =
    .next (emit s (.timing "pps" [timeS s, s.net.timing.ppsOutDelay.toNat, s.net.timing.width.toNat])) :=
  congrArg Host.Outcome.next (if_pos h)

theorem clk10mRestored_near {s : State} {rate : Int} (h : rate.natAbs ≤ 14073748835) : exec (.clk10mRestored rate) s =
    .next (updTiming s fun t => { t with clk10mLost := false, clk10mRate := rate, rate := if t.freqRef then rate else t.rate }) :=
  congrArg Host.Outcome.next (if_pos h)

/-- What keeps a time-of-day message from being good. -/
theorem todGood_not {s : State} {data : List Byte} (h : s.net.timing.ppsEdge = none ∨ s.net.timing.todInEn = false ∨ s.net.timing.source ≠ 2 ∨
    data.length ≠ 16 ∨ imgLe data 0 2 ≠ 0x4454 ∨ imgByte data 2 ≠ 16 ∨ crc8 (data.take 15) ≠ imgByte data 15 ∨
    (∃ e, s.net.timing.ppsEdge = some e ∧ (nowNs s < e + 100000000 ∨ e + 900000000 < nowNs s))) (e : Nat)
    (he : s.net.timing.ppsEdge = some e) : ¬ TodGood s data e := by
  rintro ⟨h1, h2, h3, h4, h5, h6, h7, h8⟩
  obtain h | h | h | h | h | h | h | ⟨e', he', h⟩ := h
  · rw [he] at h; cases h
  · rw [h1] at h; cases h
  · exact h h2
  · exact h h3
  · exact h h4
  · exact h h5
  · exact h h6
  · obtain rfl : e = e' := Option.some.inj (he.symm.trans he')
    omega

section
variable {s : State} (hs : served s 0 = true) {v : BitVec 32}
include hs

/-- Another source than none in SOURCE: the state of the synchronisation follows (R463). -/
theorem sourceWrite_some (h3 : v.toNat % 4 ≠ 3) (hd : DomainOk v) :
    ∃ t, exec (.sourceWrite v) s = .next t ∧ ControlTaken v t.net.timing ∧ t.work = s.work ∧
      (s.net.timing.linkTime = true → t.net.timing.state = s.net.timing.state) ∧
      (s.net.timing.linkTime = false → v.toNat % 4 ≠ 0 →
        (s.net.timing.state = .holdover → t.net.timing.state = .acquiring) ∧
        (s.net.timing.state ≠ .holdover → v.toNat % 4 = s.net.timing.source.toNat → t.net.timing.state = s.net.timing.state) ∧
        (v.toNat % 4 ≠ s.net.timing.source.toNat →
          (s.net.timing.state = .locked → t.net.timing.state = .holdover) ∧
          (s.net.timing.state = .acquiring ∨ s.net.timing.state = .freeRun → t.net.timing.state = .freeRun))) := by
  obtain ⟨u, hstate, hlink, hrun, htaken, hwork⟩ := sourceWrite_spec hs h3 hd
  rw [← hstate, ← hlink]
  refine ⟨_, hrun, htaken, hwork, fun hl => by rw [sourceFollows_linkTime hl], fun hl h0 =>
    ⟨sourceFollows_holdover hl h0, fun hn ho => by rw [sourceFollows_same hl h0 hn ho], fun ho => ⟨fun h => ?_, fun h => ?_⟩⟩⟩
  · rw [sourceFollows_other hl h0 (by rw [h]; decide) ho]
    exact (sourceLost_locked hl h).1
  · rw [sourceFollows_other hl h0 (fun hn => by rw [hn] at h; simp at h) ho]
    exact sourceLost_free hl h

/-- SOURCE 0 gives FREE_RUN (R463). -/
theorem sourceWrite_none (h0 : v.toNat % 4 = 0) (hd : DomainOk v) :
    ∃ t, exec (.sourceWrite v) s = .next t ∧ ControlTaken v t.net.timing ∧
      (s.net.timing.linkTime = false → t.net.timing.state = .freeRun ∧ t.net.timing.clockClass = 248) := by
  obtain ⟨u, -, hlink, hrun, htaken, -⟩ := sourceWrite_spec hs (by omega) hd
  rw [h0] at hrun htaken
  exact ⟨_, hrun, htaken, fun hl => sourceFollows_none (hlink.trans hl)⟩

end

theorem extract_source_zero {v : BitVec 32} (h : v.toNat % 4 = 0) : v.extractLsb' 0 2 = 0 := by
  rw [← ofNat_bits v 0 2 (by decide)]
  exact congrArg (BitVec.ofNat 2) h

/-- Settles O44: each input, output and register by its own lemma; the source write by what `control` keeps and by how the
state follows the source. -/
theorem timeInputsOutputsAndSources : Obligations.TimeInputsOutputsAndSources := by
  unfold Obligations.TimeInputsOutputsAndSources
  intro s
  refine ⟨rfl, fun _ => clk10mRestored_near, fun _ => clk10mRestored_far,
    fun _ => ⟨ppsInEdge_far, ppsInEdge_unnamed, fun _ hf hk => ppsInEdge_named hf hk⟩, ppsLost_spec s, todLost_spec s,
    fun _ _ he h1 h2 h3 h4 h5 h6 h7 h8 => todMessage_good he ⟨h1, h2, h3, h4, h5, h6, h7, h8⟩,
    fun _ h => todMessage_bad (todGood_not h), ppsOut_silent, todOut_silent, holdoverLimit_nothing, aonClockSet_nothing,
    ppsOut_sends, todOut_sends, holdoverLimit_ends,
    fun h ha => congrArg Host.Outcome.next (if_pos ⟨h, ha⟩), fun hs v => ?_⟩
  refine ⟨fun h => ⟨timeLatch_copies hs h, timeSetApply_refused hs h, timeSetApply_sets hs h⟩,
    fun h => ⟨timeLatch_not hs h, timeSetApply_not hs h⟩, fun h => sourceWrite_refused hs (.inl h),
    ⟨fun h => sourceWrite_refused hs (.inr h), fun h3 hd => ?_⟩, fun h0 h2 hlow hhigh => ?_⟩
  · obtain ⟨t, hrun, ⟨g1, g2, g3, g4, g5, g6, g7, g8, g9, g10⟩, hwork, hlink, hfollow⟩ := sourceWrite_some hs h3 hd
    exact ⟨t, hrun, g1, g2, g3, g4, g5, g6, g7, g8, g9, g10, hwork, hlink, hfollow⟩
  · have hd : DomainOk v := by
      rw [DomainOk, h2]
      exact ⟨hlow, hhigh⟩
    obtain ⟨t, hrun, taken, hfree⟩ := sourceWrite_none hs h0 hd
    exact ⟨t, hrun, taken.source.trans (extract_source_zero h0), taken.domain, taken.priority2, taken.freqRef, hfree⟩

end Sys2Proof.Machine
end

section
/-! The power controller: cap masks and points, rails, droop, heat, PROCHOT_N, the loss of coolant, and the energy of an interval. -/

namespace Sys2Proof.Machine
set_option Elab.async false -- one proof at a time, for the memory of the check

/-! ### Masks of partitions -/

/-- t is s but for the power records of partitions. -/
def PartsOnly (s t : State) : Prop := ∃ x, t = updPower s fun w => { w with parts := x }

namespace PartsOnly
variable {s t u : State}

theorem refl (s : State) : PartsOnly s s := ⟨s.power.parts, rfl⟩
theorem trans (h : PartsOnly s t) (k : PartsOnly t u) : PartsOnly s u := by
  obtain ⟨_, rfl⟩ := h
  obtain ⟨x, rfl⟩ := k
  exact ⟨x, rfl⟩
theorem step (s : State) (p : Nat) (f : PartPower → PartPower) : PartsOnly s (updPartPower s p f) := ⟨_, rfl⟩
theorem foldl {α : Type} {f : State → α → State} (h : ∀ s a, PartsOnly s (f s a)) (l : List α) (s : State) : PartsOnly s (l.foldl f s) := by
  induction l generalizing s with
  | nil => exact .refl s
  | cons a l ih => exact (h s a).trans (ih _)
theorem work (h : PartsOnly s t) : t.work = s.work := by obtain ⟨_, rfl⟩ := h; rfl
theorem host (h : PartsOnly s t) : t.host = s.host := by obtain ⟨_, rfl⟩ := h; rfl
theorem power (h : PartsOnly s t) : ∃ x, t.power = { s.power with parts := x } := by obtain ⟨x, rfl⟩ := h; exact ⟨x, rfl⟩
theorem getDie (h : PartsOnly s t) (d : Nat) : getDie t d = getDie s d := by obtain ⟨_, rfl⟩ := h; rfl

end PartsOnly

theorem getPartPower_upd_self (s : State) (p : Nat) (f : PartPower → PartPower) : getPartPower (updPartPower s p f) p = f (getPartPower s p) := by
  rw [getPartPower, updPartPower_power, Tbl.get_upd_self, getPartPower]

theorem getPartPower_upd_other (s : State) {p k : Nat} (h : k ≠ p) (f : PartPower → PartPower) :
    getPartPower (updPartPower s p f) k = getPartPower s k := by
  rw [getPartPower, updPartPower_power, Tbl.get_upd_other _ _ _ h, getPartPower]

section
variable {α : Type} (key : α → Nat) (g : State → α → PartPower → PartPower)

/-- Each record changed in turn. -/
def eachPart (l : List α) (s : State) : State := l.foldl (fun s a => updPartPower s (key a) (g s a)) s

theorem eachPart_partsOnly (l : List α) (s : State) : PartsOnly s (eachPart key g l s) := .foldl (fun s _ => .step s _ _) l s

/-- What a change of one record keeps, a change of each keeps. -/
theorem eachPart_keeps {β : Type} (π : PartPower → β) (h : ∀ s a w, π (g s a w) = π w) (l : List α) (s : State) (p : Nat) :
    π (getPartPower (eachPart key g l s) p) = π (getPartPower s p) := by
  unfold eachPart
  induction l generalizing s with
  | nil => rfl
  | cons a l ih =>
    refine (ih _).trans ?_
    by_cases hp : p = key a
    · subst hp
      rw [getPartPower_upd_self, h]
    · rw [getPartPower_upd_other s hp]

/-- A record that no key names stays. -/
theorem eachPart_other {p : Nat} (l : List α) (h : p ∉ l.map key) (s : State) : getPartPower (eachPart key g l s) p = getPartPower s p := by
  unfold eachPart
  induction l generalizing s with
  | nil => rfl
  | cons a l ih =>
    rw [List.map_cons, List.mem_cons, not_or] at h
    exact (ih h.2 _).trans (getPartPower_upd_other s h.1 _)

/-- Where the changes do not look at the records, each key's record is changed once. -/
theorem eachPart_self {s0 : State} (hg : ∀ t, PartsOnly s0 t → ∀ a, g t a = g s0 a) {l : List α} (hn : (l.map key).Nodup) {s : State}
    (hs : PartsOnly s0 s) {a : α} (ha : a ∈ l) : getPartPower (eachPart key g l s) (key a) = g s0 a (getPartPower s (key a)) := by
  unfold eachPart
  induction l generalizing s with
  | nil => cases ha
  | cons b l ih =>
    rw [List.map_cons, List.nodup_cons] at hn
    have hb : PartsOnly s0 (updPartPower s (key b) (g s b)) := hs.trans (.step s _ _)
    obtain rfl | ha := List.mem_cons.1 ha
    · exact (eachPart_other key g l hn.1 _).trans ((getPartPower_upd_self s _ _).trans (by rw [hg s hs]))
    · refine (ih hn.2 hb ha).trans ?_
      rw [getPartPower_upd_other s fun h => hn.1 (List.mem_map.2 ⟨a, ha, h⟩)]

end

/-- The masks of a partition, and whether it is hot: what the record of a frame follows from. -/
def PartPower.masks (w : PartPower) : Nat × Nat × Nat × Bool := (w.capMask, w.thermalMask, w.droopMask, w.hot)

theorem settleMasks_partsOnly (s : State) : PartsOnly s (settleMasks s) := eachPart_partsOnly Prod.fst (fun s _ w => w.settle s.power.prochotIn) _ s

theorem settleMasks_masks (s : State) (p : Nat) : (getPartPower (settleMasks s) p).masks = (getPartPower s p).masks :=
  eachPart_keeps Prod.fst (fun s _ w => w.settle s.power.prochotIn) PartPower.masks (fun _ _ _ => rfl) _ s p

/-! ### Power events -/

/-- t is s but for what was posted, management's transports, and the times of power events. -/
structure EventOnly (s t : State) : Prop where
  work : t.work = s.work
  sys : t.sys = s.sys
  power : ∃ r, t.power = { s.power with recentEvents := r }

theorem powerEvent_eventOnly (s : State) (kind value : Nat) : EventOnly s (powerEvent s kind value) := by
  unfold powerEvent
  dsimp only
  split
  · exact ⟨rfl, rfl, _, rfl⟩
  · obtain ⟨u, l, ⟨_, _, _, _, _, rfl⟩, h⟩ := deviceEvent_frame s 0x0680 32
      (leBytes 1 kind ++ leBytes 1 (b2n false) ++ leBytes 1 0 ++ leBytes 1 0 ++ leBytes 4 value)
    have hsend : sendPowerEvent s kind none value = deviceEvent s 0x0680 32
      (leBytes 1 kind ++ leBytes 1 (b2n false) ++ leBytes 1 0 ++ leBytes 1 0 ++ leBytes 4 value) := rfl
    rw [hsend, h]
    exact ⟨rfl, rfl, _, rfl⟩

theorem EventOnly.getPartPower {s t : State} (h : EventOnly s t) (p : Nat) : getPartPower t p = getPartPower s p := by
  obtain ⟨-, -, _, h⟩ := h
  unfold Machine.getPartPower
  rw [h]

theorem finish_power (s : State) (id : Nat) (d : Done) : (finish s id d).power = s.power := congrArg Prod.fst (aside_finish s id d)

/-! ### The cap control interval -/

/-- The masks set for loads. -/
def capMasks (s : State) (ls : List PartLoad) (f : Option Nat) : State :=
  eachPart PartLoad.part (fun _ l w => { w with capMask := l.mask f }) ls s

/-- The event of a cap that begins to bind. -/
def capEvent (first : Bool) (value : Nat) (s : State) : State := if first then powerEvent s 1 value else s

theorem capEvent_eventOnly (first : Bool) (value : Nat) (s : State) : EventOnly s (capEvent first value s) := by
  unfold capEvent
  split
  · exact powerEvent_eventOnly ..
  · exact ⟨rfl, rfl, _, rfl⟩

/-- The interval once the orders apply. -/
def capInterval (fixed : Nat) (s : State) : State :=
  let ls := loadsNow s
  let f := commonClock ls (boundCap s - fixed)
  let s := capMasks s ls f
  let skips := ls.any fun l => decide (l.mask f < 256)
  let short := f.isNone && !s.power.prochotIn
  let byCap := skips && !s.power.prochotIn
  let value := if short then totalPower ls 0 / powerScale + fixed else s.power.power1ms.toNat
  let first := byCap && !s.power.binding
  let s := updPower s fun w =>
    { w with
      capBinding := w.capBinding || byCap
      thermal := w.thermal || (skips && w.prochotIn)
      capShort := w.capShort || short
      binding := w.binding || byCap }
  settleMasks (capEvent first value s)

theorem capControlInterval_stopped {s : State} (fixed : Nat) (h : (applyCaps s).power.flowStopped = true) :
    exec (.capControlInterval fixed) s = .next (applyCaps s) := congrArg Host.Outcome.next (if_pos h)

theorem capControlInterval_runs {s : State} (fixed : Nat) (h : (applyCaps s).power.flowStopped = false) :
    exec (.capControlInterval fixed) s = .next (capInterval fixed (applyCaps s)) :=
  congrArg Host.Outcome.next (if_neg (by simp [h]))

theorem loadsNow_nodup {s : State} (h : (s.work.parts.map Prod.fst).Nodup) : ((loadsNow s).map PartLoad.part).Nodup := by
  have hparts : (loadsNow s).map PartLoad.part = (s.work.parts.filter fun e => e.2.destroying.isNone).map Prod.fst := by
    rw [loadsNow, List.map_map]
    rfl
  rw [hparts]
  exact h.sublist (List.filter_sublist.map _)

theorem capMasks_spec {s : State} (h : (s.work.parts.map Prod.fst).Nodup) (f : Option Nat) : ∀ l ∈ loadsNow s,
    (getPartPower (capMasks s (loadsNow s) f) l.part).capMask = l.mask f := fun _ hl =>
  congrArg PartPower.capMask (eachPart_self PartLoad.part (fun _ l w => { w with capMask := l.mask f }) (fun _ _ _ => rfl)
    (loadsNow_nodup h) (.refl s) hl)

/-- The interval of a device whose coolant flows: every mask is its load's, and CAP_SHORT says when the floors alone exceed the budget. -/
theorem capInterval_spec (fixed : Nat) {s : State} (h : (s.work.parts.map Prod.fst).Nodup) :
    (capInterval fixed s).work.parts = s.work.parts ∧
      (∀ l ∈ loadsNow s, (getPartPower (capInterval fixed s) l.part).capMask = l.mask (commonClock (loadsNow s) (boundCap s - fixed))) ∧
      (capInterval fixed s).power.capShort =
        (s.power.capShort || ((commonClock (loadsNow s) (boundCap s - fixed)).isNone && !s.power.prochotIn)) := by
  have hmask := capMasks_spec h (commonClock (loadsNow s) (boundCap s - fixed))
  have honly : PartsOnly s (capMasks s (loadsNow s) (commonClock (loadsNow s) (boundCap s - fixed))) := eachPart_partsOnly ..
  unfold capInterval
  dsimp only
  generalize capMasks s (loadsNow s) (commonClock (loadsNow s) (boundCap s - fixed)) = m at hmask honly ⊢
  generalize hu : updPower m _ = u
  obtain ⟨x, hpower⟩ := honly.power
  have hwork : u.work = s.work := by rw [← hu, updPower_work, honly.work]
  have hshort : u.power.capShort =
      (s.power.capShort || ((commonClock (loadsNow s) (boundCap s - fixed)).isNone && !s.power.prochotIn)) := by
    rw [← hu, updPower_power, hpower]
  have hparts (p : Nat) : getPartPower u p = getPartPower m p := by rw [← hu]; rfl
  have hevent := capEvent_eventOnly
    ((loadsNow s).any (fun l => decide (l.mask (commonClock (loadsNow s) (boundCap s - fixed)) < 256)) && !m.power.prochotIn && !m.power.binding)
    (if (commonClock (loadsNow s) (boundCap s - fixed)).isNone && !m.power.prochotIn then totalPower (loadsNow s) 0 / powerScale + fixed
      else m.power.power1ms.toNat) u
  generalize capEvent _ _ u = v at hevent ⊢
  have hsettle := settleMasks_partsOnly v
  obtain ⟨y, hy⟩ := hsettle.power
  obtain ⟨z, hz⟩ := hevent.power
  refine ⟨by rw [hsettle.work, hevent.work, hwork], fun l hl => ?_, by rw [hy, hz, ← hshort]⟩
  calc (getPartPower (settleMasks v) l.part).capMask
      = (getPartPower v l.part).capMask := congrArg Prod.fst (settleMasks_masks v l.part)
    _ = (getPartPower m l.part).capMask := by rw [hevent.getPartPower, hparts]
    _ = _ := hmask l hl

/-! #### Orders that apply -/

/-- What one CAP_SET order does when it applies (R488). -/
def applyOrder (s : State) (o : CapOrder) : State :=
  match o.part with
  | none => finish (updPower s fun w => { w with capDevice := BitVec.ofNat 32 o.mw }) o.ticket ⟨eOk, s.power.capDevice.toNat, 0, 0, 0⟩
  | some p =>
    if (getPart s p).isNone then finish s o.ticket (Done.of eAborted)
    else finish (updPartPower s p fun w => { w with cap := o.mw }) o.ticket ⟨eOk, (getPartPower s p).cap, 0, 0, 0⟩

theorem applyCaps_eq (s : State) : applyCaps s = s.power.orders.foldl applyOrder (updPower s fun w => { w with orders := [] }) := rfl

theorem applyOrder_device {s : State} {o : CapOrder} (hp : o.part = none) : applyOrder s o =
    finish (updPower s fun w => { w with capDevice := BitVec.ofNat 32 o.mw }) o.ticket ⟨eOk, s.power.capDevice.toNat, 0, 0, 0⟩ := by
  rw [applyOrder, hp]

theorem applyOrder_part {s : State} {o : CapOrder} {p : Nat} (hp : o.part = some p) (hq : (getPart s p).isSome = true) : applyOrder s o =
    finish (updPartPower s p fun w => { w with cap := o.mw }) o.ticket ⟨eOk, (getPartPower s p).cap, 0, 0, 0⟩ := by
  rw [applyOrder, hp]
  exact if_neg (by rw [Option.isNone_iff_eq_none]; exact Option.isSome_iff_ne_none.1 hq)

theorem applyOrder_gone {s : State} {o : CapOrder} {p : Nat} (hp : o.part = some p) (hq : getPart s p = none) : applyOrder s o =
    finish s o.ticket (Done.of eAborted) := by
  rw [applyOrder, hp]
  exact if_pos (by rw [hq]; rfl)

/-- An order that applies leaves the flow as it is. -/
theorem applyOrder_flowStopped (s : State) (o : CapOrder) : (applyOrder s o).power.flowStopped = s.power.flowStopped := by
  unfold applyOrder
  split
  · rw [finish_power, updPower_power]
  · split
    · rw [finish_power]
    · rw [finish_power, updPartPower_power]

theorem applyCaps_flowStopped (s : State) : (applyCaps s).power.flowStopped = s.power.flowStopped := by
  have hfold (os : List CapOrder) : ∀ t, (os.foldl applyOrder t).power.flowStopped = t.power.flowStopped := by
    induction os with
    | nil => exact fun _ => rfl
    | cons o os ih => exact fun t => (ih _).trans (applyOrder_flowStopped t o)
  rw [applyCaps_eq, hfold, updPower_power]

theorem applyCaps_one {s : State} {o : CapOrder} (h : s.power.orders = [o]) :
    applyCaps s = applyOrder (updPower s fun w => { w with orders := [] }) o := by
  rw [applyCaps_eq, h, List.foldl_cons, List.foldl_nil]

theorem applyCaps_none {s : State} (h : s.power.orders = []) : applyCaps s = s := by
  rw [applyCaps_eq, h, List.foldl_nil, ← h]
  rfl

/-- The interval of a device whose coolant stands: one order applies, and no more. -/
theorem capControlInterval_one {s : State} {o : CapOrder} (fixed : Nat) (h : s.power.orders = [o]) (hf : s.power.flowStopped = true) :
    exec (.capControlInterval fixed) s = .next (applyOrder (updPower s fun w => { w with orders := [] }) o) := by
  rw [capControlInterval_stopped fixed ((applyCaps_flowStopped s).trans hf), applyCaps_one h]

/-! ### Points -/

section
variable {s : State}

/-- A die's point is commanded unless it is the target already or its bus has failed. -/
def targetPoint (s : State) (d p : Nat) : State := if (getDie s d).target = p ∨ nth false s.power.busFailed 0 then s else commandPoint s d p

theorem commandPoint_work (d p : Nat) : (commandPoint s d p).work = s.work := rfl
theorem commandPoint_busFailed (d p : Nat) : (commandPoint s d p).power.busFailed = s.power.busFailed := rfl

theorem getDie_upd_self {d : Nat} (h : d < s.power.dies.length) (f : DiePower → DiePower) : getDie (updDie s d f) d = f (getDie s d) := by
  rw [getDie, updDie_power]
  exact nth_modNth_self _ _ h

theorem getDie_upd_other {d k : Nat} (h : k ≠ d) (f : DiePower → DiePower) : getDie (updDie s d f) k = getDie s k := by
  rw [getDie, updDie_power]
  exact nth_modNth_other _ _ _ h

theorem targetPoint_self {d : Nat} (h : d < s.power.dies.length) (hb : nth false s.power.busFailed 0 = false) (p : Nat) :
    (getDie (targetPoint s d p) d).target = p := by
  unfold targetPoint
  split
  · next hc => exact hc.resolve_right (by simp [hb])
  · exact (congrArg DiePower.target (getDie_upd_self h _)).trans rfl

theorem targetPoint_other {d k : Nat} (h : k ≠ d) (p : Nat) : getDie (targetPoint s d p) k = getDie s k := by
  unfold targetPoint
  split
  · rfl
  · exact getDie_upd_other h _

theorem targetPoint_keeps (d p : Nat) : (targetPoint s d p).work = s.work ∧ (targetPoint s d p).power.busFailed = s.power.busFailed ∧
    (targetPoint s d p).power.dies.length = s.power.dies.length := by
  unfold targetPoint
  split
  · exact ⟨rfl, rfl, rfl⟩
  · exact ⟨rfl, rfl, modNth_length _ _ _⟩

theorem diePointSelect_spec (fixed : Nat) (hf : s.power.flowStopped = false) (hb : nth false s.power.busFailed 0 = false)
    (hd : s.power.dies.length = 2) : ∃ t, exec (.diePointSelect fixed) s = .next t ∧
      (getDie t 0).target = (bestPair s (boundCap s - fixed)).1 ∧ (getDie t 1).target = (bestPair s (boundCap s - fixed)).2 ∧ t.work = s.work := by
  have hrun : exec (.diePointSelect fixed) s = .next (targetPoint (targetPoint s 0 (bestPair s (boundCap s - fixed)).1) 1
      (bestPair s (boundCap s - fixed)).2) := congrArg Host.Outcome.next (if_neg (by simp [hf]))
  obtain ⟨hwork, hbus, hlen⟩ := targetPoint_keeps (s := s) 0 (bestPair s (boundCap s - fixed)).1
  refine ⟨_, hrun, ?_, ?_, (targetPoint_keeps ..).1.trans hwork⟩
  · rw [targetPoint_other (by decide)]
    exact targetPoint_self (by omega) hb _
  · exact targetPoint_self (by omega) (by rw [hbus]; exact hb) _

theorem diePointSelect_holds (fixed : Nat) (h : s.power.flowStopped = true ∨ nth false s.power.busFailed 0 = true) :
    exec (.diePointSelect fixed) s = .next s := by
  have htarget (hb : nth false s.power.busFailed 0 = true) (d p : Nat) : targetPoint s d p = s := if_pos (.inr hb)
  refine congrArg Host.Outcome.next ?_
  by_cases hf : s.power.flowStopped = true
  · exact if_pos hf
  · have hb := h.resolve_left hf
    refine (if_neg hf).trans ?_
    change targetPoint (targetPoint s 0 _) 1 _ = s
    rw [htarget hb, htarget hb]

end

/-! ### Rails -/

section
variable {s : State}

theorem avsRetry_idle {rail : Nat} (answered : Bool) (h : 2 ≤ rail ∨ (getDie s rail).timedOut = false)
    (hb : nth false s.power.busFailed (if rail < 2 then 0 else 1) = false) : exec (.avsRetry rail answered) s = .next s := by
  refine congrArg Host.Outcome.next (if_neg ?_)
  rintro (⟨hr, ht⟩ | hf)
  · obtain h | h := h
    · omega
    · rw [h] at ht; cases ht
  · rw [hb] at hf; cases hf

theorem avsRetry_sends {rail : Nat} (answered : Bool)
    (h : (rail < 2 ∧ (getDie s rail).timedOut = true) ∨ nth false s.power.busFailed (if rail < 2 then 0 else 1) = true) :
    exec (.avsRetry rail answered) s = .next (if answered then
      updPower (emit s (.avs rail (railMv s rail))) fun w => { w with busFailed := setNth w.busFailed (if rail < 2 then 0 else 1) false }
      else emit s (.avs rail (railMv s rail))) := congrArg Host.Outcome.next (if_pos h)

/-- A rail of a die is commanded to its die's target. -/
theorem railMv_of_die {rail : Nat} (h : rail < 2) : railMv s rail = pointMv (getDie s rail).target := by
  obtain rfl | rfl : rail = 0 ∨ rail = 1 := by omega
  · rfl
  · rfl

theorem avsRetry_unanswered {rail : Nat} (h : rail < 2) (ht : (getDie s rail).timedOut = true) :
    exec (.avsRetry rail false) s = .next (emit s (.avs rail (pointMv (getDie s rail).target))) := by
  rw [avsRetry_sends false (.inl ⟨h, ht⟩), railMv_of_die h, if_neg (by decide)]

theorem avsRetry_answered {rail : Nat} (h : 2 ≤ rail) (hb : nth false s.power.busFailed 1 = true) :
    ∃ t, exec (.avsRetry rail true) s = .next t ∧ nth false t.power.busFailed 1 = false ∧ t.sent = s.sent ++ [.avs rail (railMv s rail)] := by
  refine ⟨_, (avsRetry_sends true (.inr (by rw [if_neg (by omega)]; exact hb))).trans (congrArg Host.Outcome.next (if_pos rfl)), ?_, rfl⟩
  rw [updPower_power, if_neg (show ¬ rail < 2 by omega)]
  change nth false (setNth s.power.busFailed 1 false) 1 = false
  rw [setNth_eq_set, nth, List.getElem?_set]
  split
  · split <;> rfl
  · next hc => exact absurd rfl hc

theorem avsSettleTimeout_marks {d : Nat} (h : (getDie s d).slewing = true) (ht : (getDie s d).timedOut = false) :
    exec (.avsSettleTimeout d) s = .next (updPower (updDie s d fun x => { x with timedOut := true }) fun w => { w with avsFault := true }) :=
  congrArg Host.Outcome.next (if_pos ⟨h, by simp [ht]⟩)

theorem avsSettleTimeout_nothing {d : Nat} (h : (getDie s d).slewing = false ∨ (getDie s d).timedOut = true) :
    exec (.avsSettleTimeout d) s = .next s :=
  congrArg Host.Outcome.next (if_neg fun hc => h.elim (fun h => by rw [h] at hc; cases hc.1) fun h => hc.2 h)

theorem capBindingEnd_nothing (h : s.power.binding = false ∨ capSkips s = true) : exec .capBindingEnd s = .next s :=
  congrArg Host.Outcome.next (if_neg fun hc => h.elim (fun h => by rw [h] at hc; cases hc.1) fun h => hc.2 h)

theorem capBindingEnd_ends (h : s.power.binding = true) (hs : capSkips s = false) : exec .capBindingEnd s =
    .next (powerEvent (updPower s fun w => { w with binding := false }) 2 s.power.power1ms.toNat) :=
  congrArg Host.Outcome.next (if_pos ⟨h, by simp [hs]⟩)

end

/-! ### Droop -/

/-- The droop masks of the partitions, from the dies. -/
def droopSet (s : State) : State :=
  eachPart Prod.fst (fun s e w => { w with droopMask := if e.2.owned.any fun c => (getDie s (dieOf c)).droop then 128 else 256 }) s.work.parts s

theorem droopMasks_eq (s : State) : droopMasks s = settleMasks (droopSet s) := rfl

theorem droopMasks_partsOnly (s : State) : PartsOnly s (droopMasks s) := (eachPart_partsOnly ..).trans (settleMasks_partsOnly _)

theorem droopMasks_mask {s : State} (h : (s.work.parts.map Prod.fst).Nodup) {e : Nat × Part} (he : e ∈ s.work.parts) :
    (getPartPower (droopMasks s) e.1).droopMask = if e.2.owned.any fun c => (getDie s (dieOf c)).droop then 128 else 256 := by
  rw [droopMasks_eq]
  refine (congrArg (fun m => m.2.2.1) (settleMasks_masks (droopSet s) e.1)).trans ?_
  exact congrArg PartPower.droopMask (eachPart_self Prod.fst _ (fun t ht a => by simp only [ht.getDie]) h (.refl s) he)

theorem droopTrip_spec {s : State} (h : (s.work.parts.map Prod.fst).Nodup) {core : Nat} (hd : dieOf core < s.power.dies.length) :
    ∃ t, exec (.droopTrip core) s = .next t ∧ (getDie t (dieOf core)).droop = true ∧
      (getDie t (dieOf core)).trips = (getDie s (dieOf core)).trips + 1 ∧ t.power.thermal = true ∧
      ∀ e ∈ s.work.parts, core ∈ e.2.owned → (getPartPower t e.1).droopMask = 128 := by
  refine ⟨_, rfl, ?_⟩
  generalize hu : updDie s (dieOf core) _ = u
  have hdie : getDie u (dieOf core) = { getDie s (dieOf core) with droop := true, trips := (getDie s (dieOf core)).trips + 1 } := by
    rw [← hu, getDie_upd_self hd]
  have hwork : u.work = s.work := by rw [← hu, updDie_work]
  have hget : getDie (updPower (droopMasks u) fun w => { w with thermal := true }) (dieOf core) = getDie u (dieOf core) :=
    (droopMasks_partsOnly u).getDie _
  refine ⟨by rw [hget, hdie], by rw [hget, hdie], rfl, fun e he hc => ?_⟩
  refine (droopMasks_mask (by rw [hwork]; exact h) (by rw [hwork]; exact he)).trans (if_pos ?_)
  exact List.any_eq_true.2 ⟨core, hc, by rw [hdie]⟩

theorem droopMaskEnd_spec {s : State} (h : (s.work.parts.map Prod.fst).Nodup) {die : Nat} (hd : die < s.power.dies.length) :
    ∃ t, exec (.droopMaskEnd die) s = .next t ∧ (getDie t die).droop = false ∧
      ∀ e ∈ s.work.parts, (∀ c ∈ e.2.owned, dieOf c = die) → (getPartPower t e.1).droopMask = 256 := by
  refine ⟨_, rfl, ?_⟩
  generalize hu : updDie s die _ = u
  have hdie : (getDie u die).droop = false := by rw [← hu, getDie_upd_self hd]
  have hwork : u.work = s.work := by rw [← hu, updDie_work]
  refine ⟨by rw [(droopMasks_partsOnly u).getDie, hdie], fun e he hc => ?_⟩
  refine (droopMasks_mask (by rw [hwork]; exact h) (by rw [hwork]; exact he)).trans (if_neg ?_)
  rw [List.any_eq_true]
  rintro ⟨c, hmem, hdroop⟩
  rw [hc c hmem, hdie] at hdroop
  cases hdroop

/-! ### Heat -/

theorem pldmEvent_power (s : State) (o : MgmtOut) : (pldmEvent s o).power = s.power := by
  unfold pldmEvent
  split
  · dsimp only
    split <;> rfl
  · rfl

theorem power_foldl {α : Type} {f : State → α → State} (h : ∀ s a, (f s a).power = s.power) (l : List α) (s : State) :
    (l.foldl f s).power = s.power := by
  induction l generalizing s with
  | nil => rfl
  | cons a l ih => exact (ih _).trans (h s a)

theorem settlePldm_power (s : State) : (settlePldm s).power = s.power := by
  have hlevel (s : State) (k l : Nat) (v : Int) : (reportLevel s k l v).power = s.power :=
    power_foldl (fun s l => pldmEvent_power s _) _ _
  have hstate (s : State) (k v : Nat) : (reportState s k v).power = s.power := by
    unfold reportState
    dsimp only
    split
    · rfl
    · exact pldmEvent_power ..
  refine (power_foldl (fun s i => ?_) _ _).trans (power_foldl (fun s k => hlevel s _ _ _) _ s)
  split
  · exact hstate ..
  · rfl

/-- The first place of the largest value among the first n. -/
def topOf (v : Nat → Int) (n : Nat) : Nat := (List.range n).foldl (fun b k => if v b < v k then k else b) 0

theorem le_topOf (v : Nat → Int) (n : Nat) : ∀ k < n, v k ≤ v (topOf v n) := by
  induction n with
  | zero => omega
  | succ n ih =>
    intro k hk
    have hsucc : topOf v (n + 1) = if v (topOf v n) < v n then n else topOf v n := by
      rw [topOf, List.range_succ, List.foldl_append, List.foldl_cons, List.foldl_nil, ← topOf]
    rw [hsucc]
    obtain rfl | hk := Nat.lt_succ_iff_lt_or_eq.1 hk |>.symm
    · split <;> omega
    · have := ih k hk
      split <;> omega

/-- The sensors' values taken, with the hottest. -/
def tempsTaken (s : State) (temps : List (BitVec 16)) : State :=
  let s := updPower s fun w => { w with temps := (List.range 80).map fun k => nth (nth 0 w.temps k) temps k }
  updPower s fun w => { w with tjMax := nth 0 w.temps (topOf (tempOf s) 80), sensor := BitVec.ofNat 7 (topOf (tempOf s) 80) }

/-- The thermal masks of the partitions, from the sensors. -/
def thermalSet (s : State) : State :=
  eachPart Prod.fst (fun s e w =>
    { w with thermalMask := (thermalMask (partTemp s e.2) w.hot).1, hot := (thermalMask (partTemp s e.2) w.hot).2 }) s.work.parts s

/-- Whether a thermal mask skips. -/
def thermalSkips (s : State) : Bool := s.work.parts.any fun e => decide ((getPartPower s e.1).thermalMask < 256)

/-- PROCHOT_N driven while a mask skips. -/
def prochotDriven (s : State) : State :=
  updPower s fun w => { w with prochotOut := thermalSkips s, thermal := w.thermal || thermalSkips s }

/-- The event of a mask that begins to skip. -/
def heatEvent (was : Bool) (s : State) : State :=
  if thermalSkips s ∧ ¬ was then powerEvent (prochotDriven s) 3 (prochotDriven s).power.tjMax.toNat else prochotDriven s

theorem heatEvent_eventOnly (was : Bool) (s : State) : EventOnly (prochotDriven s) (heatEvent was s) := by
  unfold heatEvent
  split
  · exact powerEvent_eventOnly ..
  · exact ⟨rfl, rfl, _, rfl⟩

theorem sampleTemps_eq (s : State) (temps : List (BitVec 16)) : sampleTemps s temps =
    settleMasks (heatEvent (tempsTaken s temps).power.prochotOut (thermalSet (tempsTaken s temps))) := rfl

theorem range_map_nth (d : Nat → BitVec 16) (temps : List (BitVec 16)) {n : Nat} (h : temps.length = n) :
    (List.range n).map (fun k => nth (d k) temps k) = temps := by
  refine List.ext_getElem (by simp [h]) fun k h1 h2 => ?_
  simp [nth, List.getElem?_eq_getElem h2]

theorem tempsTaken_temps (s : State) {temps : List (BitVec 16)} (h : temps.length = 80) : (tempsTaken s temps).power.temps = temps :=
  range_map_nth (fun k => nth 0 s.power.temps k) temps h

/-- No sensor is hotter than TJ_MAX. -/
theorem tempsTaken_tjMax (s : State) {temps : List (BitVec 16)} (h : temps.length = 80) :
    ∀ k, k < 80 → (nth 0 temps k).toInt ≤ (tempsTaken s temps).power.tjMax.toInt := by
  intro k hk
  unfold tempsTaken
  dsimp only
  generalize hu : updPower s _ = u
  have htemps : u.power.temps = temps := by
    rw [← hu]
    exact range_map_nth _ temps h
  have htop := le_topOf (tempOf u) 80 k hk
  rw [updPower_power]
  unfold tempOf at htop ⊢
  rw [htemps] at htop ⊢
  exact htop

theorem partTemp_of_temps {s t : State} (h : t.power.temps = s.power.temps) (q : Part) : partTemp t q = partTemp s q := by
  have htemp : tempOf t = tempOf s := funext fun k => by rw [tempOf, tempOf, h]
  unfold partTemp hottest
  rw [htemp]

/-- What a sample leaves: the taken sensors, the masks of the partitions, and PROCHOT_N while one skips. -/
theorem sampleTemps_spec (s : State) (temps : List (BitVec 16)) :
    (sampleTemps s temps).work = s.work ∧ (sampleTemps s temps).power.temps = (tempsTaken s temps).power.temps ∧
      (sampleTemps s temps).power.tjMax = (tempsTaken s temps).power.tjMax ∧
      (sampleTemps s temps).power.prochotOut = thermalSkips (sampleTemps s temps) ∧
      ∀ p, (getPartPower (sampleTemps s temps) p).masks = (getPartPower (thermalSet (tempsTaken s temps)) p).masks := by
  have hset : PartsOnly (tempsTaken s temps) (thermalSet (tempsTaken s temps)) := eachPart_partsOnly ..
  rw [sampleTemps_eq]
  generalize hu : thermalSet (tempsTaken s temps) = u at hset ⊢
  obtain ⟨x, hx⟩ := hset.power
  have hevent := heatEvent_eventOnly (tempsTaken s temps).power.prochotOut u
  generalize heatEvent _ u = v at hevent ⊢
  have hsettle := settleMasks_partsOnly v
  obtain ⟨y, hy⟩ := hsettle.power
  obtain ⟨z, hz⟩ := hevent.power
  have hwork : (settleMasks v).work = u.work := by rw [hsettle.work, hevent.work]; rfl
  have hmasks (p : Nat) : (getPartPower (settleMasks v) p).masks = (getPartPower u p).masks := by
    rw [settleMasks_masks, hevent.getPartPower]
    rfl
  refine ⟨hwork.trans hset.work, by rw [hy, hz, prochotDriven, updPower_power, hx], by rw [hy, hz, prochotDriven, updPower_power, hx], ?_,
    hmasks⟩
  have hskips : thermalSkips (settleMasks v) = thermalSkips u := by
    unfold thermalSkips
    rw [hwork]
    exact congrArg u.work.parts.any (funext fun e => by
      rw [show (getPartPower (settleMasks v) e.1).thermalMask = (getPartPower u e.1).thermalMask from congrArg (fun m => m.2.1) (hmasks e.1)])
  rw [hskips, hy, hz]
  rfl

theorem thermalSample_spec {s : State} {temps : List (BitVec 16)} (hc : s.sys.clocks = true) (h : temps.length = 80) :
    ∃ t, exec (.thermalSample temps) s = .next t ∧ t.power.temps = temps ∧ t.work = s.work ∧
      (∀ k, k < 80 → (nth 0 temps k).toInt ≤ t.power.tjMax.toInt) ∧
      ((s.work.parts.map Prod.fst).Nodup → ∀ e ∈ s.work.parts,
        (getPartPower t e.1).thermalMask = (thermalMask (partTemp t e.2) (getPartPower s e.1).hot).1 ∧
        (getPartPower t e.1).hot = (thermalMask (partTemp t e.2) (getPartPower s e.1).hot).2) ∧
      t.power.prochotOut = t.work.parts.any fun e => decide ((getPartPower t e.1).thermalMask < 256) := by
  obtain ⟨hwork, htemps, htj, hout, hmasks⟩ := sampleTemps_spec s temps
  have hset : PartsOnly (tempsTaken s temps) (thermalSet (tempsTaken s temps)) := eachPart_partsOnly ..
  generalize hu : sampleTemps s temps = u at hwork htemps htj hout hmasks
  have hpower := settlePldm_power u
  have hparts (p : Nat) : getPartPower (settlePldm u) p = getPartPower u p := by rw [getPartPower, hpower]; rfl
  refine ⟨settlePldm u, ?_, by rw [hpower, htemps, tempsTaken_temps s h], (settlePldm_wearOnly u).work.trans hwork, ?_, ?_, ?_⟩
  · exact congrArg Host.Outcome.next ((if_pos hc).trans (by rw [hu]))
  · rw [hpower, htj]
    exact tempsTaken_tjMax s h
  · intro hn e he
    have hself := eachPart_self Prod.fst (s0 := tempsTaken s temps) (fun s e w =>
      { w with thermalMask := (thermalMask (partTemp s e.2) w.hot).1, hot := (thermalMask (partTemp s e.2) w.hot).2 })
      (fun t ht a => by
        obtain ⟨x, hx⟩ := ht.power
        simp only [partTemp_of_temps (show t.power.temps = (tempsTaken s temps).power.temps by rw [hx])]) (l := s.work.parts) hn (.refl _) he
    have htemp : partTemp (settlePldm u) e.2 = partTemp (tempsTaken s temps) e.2 := partTemp_of_temps (by rw [hpower, htemps]) _
    have hm := (hmasks e.1).trans (congrArg PartPower.masks hself)
    rw [hparts, htemp]
    exact ⟨congrArg (fun m => m.2.1) hm, congrArg (fun m => m.2.2.2) hm⟩
  · rw [hpower, hout, thermalSkips, (settlePldm_wearOnly u).work]
    simp only [hparts]

/-! ### PROCHOT_N -/

theorem prochotAssert_nothing {s : State} (h : s.power.prochotOut = true ∨ s.power.prochotIn = true) : exec .prochotAssert s = .next s :=
  congrArg Host.Outcome.next (if_pos h)

theorem prochotAssert_asserts {s : State} (ho : s.power.prochotOut = false) (hi : s.power.prochotIn = false) : exec .prochotAssert s =
    .next (powerEvent (updPower s fun w => { w with prochotIn := true }) 4 s.power.power1ms.toNat) :=
  congrArg Host.Outcome.next (if_neg (by simp [ho, hi]))

theorem prochotRelease_spec (s : State) : ∃ t, exec .prochotRelease s = .next t ∧ t.power.prochotIn = false ∧ t.work = s.work ∧ t.host = s.host := by
  have h := settleMasks_partsOnly (updPower s fun w => { w with prochotIn := false })
  obtain ⟨x, hx⟩ := h.power
  exact ⟨_, rfl, by rw [hx]; rfl, h.work, h.host⟩

/-! ### Coolant -/

/-- A read of a table whose values are mapped keeps what the map keeps. -/
theorem Tbl.get_map_keeps {α β : Type} (d : α) (f : α → α) (π : α → β) (h : ∀ a, π (f a) = π a) (t : Tbl α) (n : Nat) :
    π (Tbl.get d (t.map fun e => (e.1, f e.2)) n) = π (Tbl.get d t n) := by
  induction t with
  | nil => rfl
  | cons e t ih =>
    rw [List.map_cons, Tbl.get, Tbl.get]
    split
    · exact h _
    · exact ih

/-- t is s but for what was sent, commands in progress and their tills, and engines. -/
structure Forgets (s t : State) : Prop where
  work : t.work = s.work
  power : t.power = s.power
  rel : t.rel = s.rel

theorem Forgets.foldl {α : Type} {f : State → α → State} (h : ∀ s a, Forgets s (f s a)) (l : List α) (s : State) : Forgets s (l.foldl f s) := by
  induction l generalizing s with
  | nil => exact ⟨rfl, rfl, rfl⟩
  | cons a l ih => exact ⟨(ih _).work.trans (h s a).work, (ih _).power.trans (h s a).power, (ih _).rel.trans (h s a).rel⟩

theorem finish_forgets (s : State) (id : Nat) (d : Done) : Forgets s (finish s id d) :=
  ⟨(finish_sends ..).work, finish_power .., (finish_calm (.refl s)).rel⟩

theorem dropDebug_forgets (s : State) (c : Nat) : Forgets s (dropDebug s c) where
  work := by
    unfold dropDebug
    dsimp only
    split
    · rfl
    · exact (Sends.foldl (fun s _ => completeWith_sends ..) _ _).work
  power := congrArg Prod.fst (aside_dropDebug s c)
  rel := (dropDebug_calm (.refl s)).rel

theorem updMac_forgets (s : State) (m : Nat) (f : Mac → Mac) : Forgets s (updMac s m f) := ⟨rfl, rfl, rfl⟩

/-- The segments of a core kept in RETAIN. -/
def CoreCtl.retained (k : CoreCtl) : CoreCtl := { k with power := k.power.map fun p => if p = .on then .retain else p }

/-- Power once the coolant is lost. -/
def Power.stopped (w : Power) : Power :=
  { w with flowOk := false, flowStopped := true, flowRestart := false, flowStops := satInc w.flowStops 1 }

/-! #### The stop sequence in its parts (R494) -/

def flowMarked (s : State) : State := eachPart Prod.fst (fun _ _ w => { w with delivered := 0 }) s.work.parts (updPower s Power.stopped)

def linksDown (s : State) : State :=
  updRelne ((List.range 8).foldl (fun s m => updMac s m fun k => if k.up then { k with up := false, linkDown := satInc k.linkDown 1 } else k) s)
    fun r => { r with ports := r.ports.map fun p => { p with up := false }, unsettled := true }

def coresRetained (s : State) : State := updWork s fun w => { w with cores := w.cores.map fun e => (e.1, e.2.retained) }

def enginesLost (s : State) : State := { (s.engines.map Prod.fst).foldl dropDebug s with engines := [] }

theorem flowStop_eq (s : State) : flowStop s =
    emit (emit (enginesLost (coresRetained (linksDown (flowMarked s)))) (.avs 0 550)) (.avs 1 550) := rfl

theorem linksDown_forgets (s : State) : Forgets s (linksDown s) := by
  obtain ⟨hwork, hpower, hrel⟩ := Forgets.foldl (fun s m => updMac_forgets s m fun k =>
    if k.up then { k with up := false, linkDown := satInc k.linkDown 1 } else k) (List.range 8) s
  exact ⟨hwork, hpower, hrel⟩

theorem enginesLost_forgets (s : State) : Forgets s (enginesLost s) := by
  obtain ⟨hwork, hpower, hrel⟩ := Forgets.foldl (fun s c => dropDebug_forgets s c) (s.engines.map Prod.fst) s
  exact ⟨hwork, hpower, hrel⟩

/-- What the stop sequence marks in power, and the memories that it keeps. -/
theorem flowStop_spec (s : State) : (∃ x, (flowStop s).power = { s.power.stopped with parts := x }) ∧ (flowStop s).engines = [] ∧
    (flowStop s).work = { s.work with cores := s.work.cores.map fun e => (e.1, e.2.retained) } ∧ (flowStop s).rel = s.rel := by
  obtain ⟨x, hmarked⟩ : PartsOnly (updPower s Power.stopped) (flowMarked s) := eachPart_partsOnly ..
  have hlinks := linksDown_forgets (flowMarked s)
  have hlost := enginesLost_forgets (coresRetained (linksDown (flowMarked s)))
  have hpower : (coresRetained (linksDown (flowMarked s))).power = (linksDown (flowMarked s)).power := rfl
  have hwork : (coresRetained (linksDown (flowMarked s))).work =
      { (linksDown (flowMarked s)).work with cores := (linksDown (flowMarked s)).work.cores.map fun e => (e.1, e.2.retained) } := rfl
  have hrel : (coresRetained (linksDown (flowMarked s))).rel = (linksDown (flowMarked s)).rel := rfl
  rw [flowStop_eq]
  refine ⟨⟨x, ?_⟩, rfl, ?_, ?_⟩
  · change (enginesLost _).power = _
    rw [hlost.power, hpower, hlinks.power, hmarked]
    rfl
  · change (enginesLost _).work = _
    rw [hlost.work, hwork, hlinks.work, hmarked]
    rfl
  · change (enginesLost _).rel = _
    rw [hlost.rel, hrel, hlinks.rel, hmarked]
    rfl

section
variable {s : State}

theorem flowLoss_nothing (h : s.power.flowStopped = true) (hr : s.power.flowRestart = false) : exec .flowLoss s = .next s :=
  congrArg Host.Outcome.next (if_pos ⟨h, by simp [hr]⟩)

/-- The reliability unit without its full memory tests. -/
def withoutScans (s : State) : State := updRel s fun r => { r with tests := r.tests.filter fun t => t.scope ≠ 2 }

theorem flowLoss_stops (h : s.power.flowStopped = false ∨ s.power.flowRestart = true) : exec .flowLoss s =
    .next ((s.rel.tests.filter fun t => t.scope = 2).foldl (fun s t => finish s t.ticket (Done.of eAborted)) (flowStop (withoutScans s))) :=
  congrArg Host.Outcome.next (if_neg fun hc => h.elim (fun h => by rw [h] at hc; cases hc.1) fun h => hc.2 h)

theorem flowLoss_spec (h : s.power.flowStopped = false ∨ s.power.flowRestart = true) : ∃ t, exec .flowLoss s = .next t ∧
    t.power.flowStopped = true ∧ t.power.flowOk = false ∧ t.power.flowRestart = false ∧ t.power.flowStops = satInc s.power.flowStops 1 ∧
    t.engines = [] ∧ t.work = { s.work with cores := s.work.cores.map fun e => (e.1, e.2.retained) } ∧ ∀ x ∈ t.rel.tests, x.scope ≠ 2 := by
  obtain ⟨⟨x, hpower⟩, heng, hwork, hrel⟩ := flowStop_spec (withoutScans s)
  have hfin := Forgets.foldl (fun s (t : TestJob) => finish_forgets s t.ticket (Done.of eAborted)) (s.rel.tests.filter fun t => t.scope = 2)
    (flowStop (withoutScans s))
  have hsent := Sends.foldl (fun s (t : TestJob) => finish_sends s t.ticket (Done.of eAborted)) (s.rel.tests.filter fun t => t.scope = 2)
    (flowStop (withoutScans s))
  refine ⟨_, flowLoss_stops h, ?_, ?_, ?_, ?_, hsent.engines.trans heng, hfin.work.trans hwork, ?_⟩
  · rw [hfin.power, hpower]; rfl
  · rw [hfin.power, hpower]; rfl
  · rw [hfin.power, hpower]; rfl
  · rw [hfin.power, hpower]; rfl
  · rw [hfin.rel, hrel]
    intro y hy
    simpa using (List.mem_filter.1 hy).2

/-- The retained cores keep their scratchpads. -/
theorem scratch_retained {t : State} (h : t.work = { s.work with cores := s.work.cores.map fun e => (e.1, e.2.retained) }) (c : Nat) :
    (getCore t c).scratch = (getCore s c).scratch := by
  unfold getCore
  rw [h]
  exact Tbl.get_map_keeps CoreCtl.reset CoreCtl.retained CoreCtl.scratch (fun _ => rfl) _ c

theorem flowRestart_nothing (h : s.power.flowStopped = false ∨ s.power.flowRestart = true ∨ (∃ k, k < 80 ∧ 85 * 256 ≤ tempOf s k)) :
    exec .flowRestart s = .next s := by
  refine congrArg Host.Outcome.next (if_neg ?_)
  rintro ⟨h1, h2, h3⟩
  obtain h | h | ⟨k, hk, hot⟩ := h
  · rw [h] at h1; cases h1
  · exact h2 h
  · have hcool := List.all_eq_true.1 h3 k (List.mem_range.2 hk)
    have hcool := of_decide_eq_true hcool
    omega

theorem flowRestart_begins (h : s.power.flowStopped = true) (hr : s.power.flowRestart = false) (hcool : ∀ k, k < 80 → tempOf s k < 85 * 256) :
    ∃ t, exec .flowRestart s = .next t ∧ t.power.flowRestart = true ∧ t.power.flowOk = true ∧ t.power.flowStopped = true ∧ t.work = s.work := by
  have hall : (List.range 80).all (fun k => tempOf s k < 85 * 256) = true :=
    List.all_eq_true.2 fun k hk => decide_eq_true (hcool k (List.mem_range.1 hk))
  refine ⟨_, congrArg Host.Outcome.next (if_pos ⟨h, by simp [hr], hall⟩), ?_⟩
  · have hstopped : (updPower s fun w => { w with flowOk := true, flowRestart := true }).power.flowStopped = true := h
    generalize hu : updPower s _ = u at hstopped ⊢
    have hr : u.power.flowRestart = true := by rw [← hu]; rfl
    have ho : u.power.flowOk = true := by rw [← hu]; rfl
    have hw : u.work = s.work := by rw [← hu]; rfl
    exact ⟨hr, ho, hstopped, hw⟩

theorem flowRestartDone_nothing (h : s.power.flowRestart = false) : exec .flowRestartDone s = .next s :=
  congrArg Host.Outcome.next (if_pos (by simp [h]))

theorem flowRestartDone_boot (h : s.power.flowRestart = true) (hb : s.sys.boot.isSome = true) : exec .flowRestartDone s =
    .next (runHeld (updPower s fun w => { w with flowStopped := false, flowRestart := false })) :=
  congrArg Host.Outcome.next ((if_neg (by simp [h])).trans (congrArg runHeld (if_pos hb)))

theorem flowRestartDone_ends (h : s.power.flowRestart = true) (hb : s.sys.boot = none) : exec .flowRestartDone s =
    .next (runHeld (powerEvent (endStopped (updPower s fun w => { w with flowStopped := false, flowRestart := false })) 5 0)) :=
  congrArg Host.Outcome.next ((if_neg (by simp [h])).trans (congrArg runHeld (if_neg fun hc => by
    rw [updPower_sys, hb] at hc; cases hc)))

end

/-! ### Energy -/

/-- t is s but for the jobs' use, the ledger, and what no client is charged for. -/
def ChargesOnly (s t : State) : Prop :=
  ∃ j l u, t = updPower (updWork s fun w => { w with jobs := j, ledger := l }) fun w => { w with uncharged := u }

namespace ChargesOnly
variable {s t u : State}

theorem refl (s : State) : ChargesOnly s s := ⟨_, _, _, rfl⟩
theorem trans (h : ChargesOnly s t) (k : ChargesOnly t u) : ChargesOnly s u := by
  obtain ⟨_, _, _, rfl⟩ := h
  obtain ⟨j, l, u, rfl⟩ := k
  exact ⟨j, l, u, rfl⟩
theorem of_jobsOnly (h : JobsOnly s t) : ChargesOnly s t := by obtain ⟨j, l, rfl⟩ := h; exact ⟨j, l, _, rfl⟩
theorem foldl {α : Type} {f : State → α → State} (h : ∀ s a, ChargesOnly s (f s a)) (l : List α) (s : State) :
    ChargesOnly s (l.foldl f s) := by
  induction l generalizing s with
  | nil => exact .refl s
  | cons a l ih => exact (h s a).trans (ih _)

end ChargesOnly

theorem chargeQuantity_chargesOnly (s : State) (h i n : Nat) : ChargesOnly s (chargeQuantity s h i n) :=
  .of_jobsOnly (chargeUse_jobsOnly ..)

theorem chargeEnergy_chargesOnly (s : State) (total : Nat) (weights : List (Nat × Nat)) : ChargesOnly s (chargeEnergy s total weights) :=
  (ChargesOnly.foldl (fun _ _ => chargeQuantity_chargesOnly ..) _ s).trans ⟨_, _, _, rfl⟩

theorem chargeCore_chargesOnly (r : State × Nat) (u : CoreUse) : ChargesOnly r.1 (chargeCore r u).1 := by
  have hruns (l : List (Nat × Nat × Nat × Nat)) : ChargesOnly r.1 (l.foldl (fun s x =>
      chargeQuantity (chargeQuantity (chargeQuantity s x.1 3 x.2.1) x.1 4 x.2.2.1) x.1 5 x.2.2.2) r.1) :=
    .foldl (fun _ _ => ((chargeQuantity_chargesOnly ..).trans (chargeQuantity_chargesOnly ..)).trans (chargeQuantity_chargesOnly ..)) l _
  unfold chargeCore
  dsimp only
  split
  · exact hruns _
  · exact (hruns _).trans (chargeEnergy_chargesOnly ..)

theorem chargeCores_chargesOnly (cores : List CoreUse) (r : State × Nat) : ChargesOnly r.1 (cores.foldl chargeCore r).1 := by
  induction cores generalizing r with
  | nil => exact .refl _
  | cons u cores ih => exact (chargeCore_chargesOnly r u).trans (ih _)

theorem markSkips_chargesOnly (s : State) (cores : List CoreUse) : ChargesOnly s (markSkips s cores) := by
  refine .foldl (fun s h => ?_) _ s
  split
  · exact .refl s
  · exact .of_jobsOnly (chargeEach_ledgerOnly ..).jobsOnly

theorem energyInterval_spec (rails : List RailUse) (cores : List CoreUse) (granules : List (Nat × Nat)) (s : State) :
    ∃ t, exec (.energyInterval rails cores granules) s = .next t ∧
      t.power.energy = s.power.energy + BitVec.ofNat 64 (sumNat (rails.map (·.uj))) ∧
      t.power.power1ms = BitVec.ofNat 32 (sumNat (rails.map (·.uj))) ∧ t.power.capShort = false ∧ t.work.hbm = s.work.hbm := by
  refine ⟨_, rfl, ?_⟩
  generalize hu : updPower s _ = u
  have henergy : u.power.energy = s.power.energy + BitVec.ofNat 64 (sumNat (rails.map (·.uj))) := by rw [← hu, updPower_power]
  have hmean : u.power.power1ms = BitVec.ofNat 32 (sumNat (rails.map (·.uj))) := by rw [← hu, updPower_power]
  have hhbm : u.work.hbm = s.work.hbm := by rw [← hu, updPower_work]
  have hcores := chargeCores_chargesOnly cores (u, 0)
  generalize cores.foldl chargeCore (u, 0) = r at hcores ⊢
  dsimp only
  generalize hv : chargeEnergy r.1 _ _ = v
  have hgranules : ChargesOnly r.1 v := hv ▸ chargeEnergy_chargesOnly ..
  generalize hw : chargeEnergy v _ _ = w
  have hrest : ChargesOnly v w := hw ▸ chargeEnergy_chargesOnly ..
  have hskips := markSkips_chargesOnly w cores
  generalize markSkips w cores = x at hskips ⊢
  have hparts := eachPart_partsOnly Prod.fst (fun s e w => { w with effective := BitVec.ofNat 11 (partCeiling s e.2 * w.delivered.toNat / 256) })
    x.work.parts x
  unfold eachPart at hparts
  generalize List.foldl _ x x.work.parts = y at hparts ⊢
  obtain ⟨_, rfl⟩ := hparts
  obtain ⟨_, _, _, rfl⟩ := ((hcores.trans hgranules).trans hrest).trans hskips
  exact ⟨henergy, hmean, rfl, hhbm⟩

/-- Settles O46: masks by folds that touch each record once, events by the little that they change, the loss of coolant by the parts
of its stop sequence, energy by what charges leave. -/
theorem powerControllerSetsMasksAndPoints : Obligations.PowerControllerSetsMasksAndPoints := by
  unfold Obligations.PowerControllerSetsMasksAndPoints
  intro s
  refine ⟨fun fixed => ⟨fun o h hp hf => ?_, fun o p h hp hq hf => ?_, fun o p h hp hq hf => ?_,
      fun h => capControlInterval_stopped fixed ((applyCaps_flowStopped s).trans h), fun hf hn => ?_, fun h hf hn => ?_,
      diePointSelect_spec fixed, diePointSelect_holds fixed⟩,
    capBindingEnd_nothing, fun _ => avsSettleTimeout_nothing, fun _ answered => ⟨avsRetry_sends answered, avsRetry_idle answered⟩,
    prochotAssert_nothing, flowLoss_nothing, flowRestart_nothing, flowRestartDone_nothing, flowRestartDone_boot, fun h => ?_,
    capBindingEnd_ends, fun _ => avsSettleTimeout_marks, fun _ => avsRetry_unanswered, fun _ => avsRetry_answered, fun _ => rfl,
    fun hn core hd => ⟨droopTrip_spec hn hd, droopMaskEnd_spec hn hd⟩, fun h temps => congrArg Host.Outcome.next (if_neg (by simp [h])),
    fun temps hc ht _ => thermalSample_spec hc ht, prochotAssert_asserts, prochotRelease_spec s, rfl, rfl, fun h _ => ?_,
    flowRestart_begins, flowRestartDone_ends, fun rails cores granules => energyInterval_spec rails cores granules s⟩
  · rw [capControlInterval_one fixed h hf, applyOrder_device hp, updPower_power]
  · rw [capControlInterval_one fixed h hf, applyOrder_part hp (by exact hq)]
    rfl
  · rw [capControlInterval_one fixed h hf, applyOrder_gone hp (by exact hq)]
  · exact ⟨_, capControlInterval_runs fixed hf, capInterval_spec fixed hn⟩
  · refine ⟨capInterval fixed s, ?_, capInterval_spec fixed hn⟩
    rw [capControlInterval_runs fixed ((applyCaps_flowStopped s).trans hf), applyCaps_none h]
  · obtain ⟨t, hrun, h1, h2, h3, h4, h5, hwork, htests⟩ := flowLoss_spec h
    exact ⟨t, hrun, h1, h2, h3, h4, h5, by rw [hwork], htests⟩
  · obtain ⟨t, hrun, h1, h2, h3, h4, h5, hwork, -⟩ := flowLoss_spec h
    exact ⟨t, hrun, h1, h2, h3, h4, h5, by rw [hwork], by rw [hwork], scratch_retained hwork⟩

end Sys2Proof.Machine
end

section
/-! Reliability: what the log leaves of the repairs, scrubs, lockstep, self-tests, the writes to flash, and the full memory test. -/

namespace Sys2Proof.Machine
set_option Elab.async false -- one proof at a time, for the memory of the check

/-! ### What the log and the repairs leave as they are -/

/-- t is s but for the reliability unit. -/
def RelOnly (s t : State) : Prop := ∃ r, t = { s with rel := r }

namespace RelOnly
variable {s t u : State}

theorem refl (s : State) : RelOnly s s := ⟨s.rel, rfl⟩
theorem trans (h : RelOnly s t) (k : RelOnly t u) : RelOnly s u := by
  obtain ⟨_, rfl⟩ := h
  obtain ⟨r, rfl⟩ := k
  exact ⟨r, rfl⟩
theorem updRel (s : State) (f : Rel → Rel) : RelOnly s (updRel s f) := ⟨_, rfl⟩
theorem foldl {α : Type} {f : State → α → State} (h : ∀ s a, RelOnly s (f s a)) (l : List α) (s : State) : RelOnly s (l.foldl f s) := by
  induction l generalizing s with
  | nil => exact .refl s
  | cons a l ih => exact (h s a).trans (ih _)
theorem work (h : RelOnly s t) : t.work = s.work := by obtain ⟨_, rfl⟩ := h; rfl
theorem host (h : RelOnly s t) : t.host = s.host := by obtain ⟨_, rfl⟩ := h; rfl

end RelOnly

/-- The reliability unit without its counts, its log, what waits for flash, and the times of corrected errors. -/
def Rel.unlogged (r : Rel) : Rel := { r with ceTotal := 0, ueTotal := 0, log := [], nextSeq := 0, flashPending := [], corrected := [] }

theorem unlogged_entry (r : Rel) (l : List LogEntry) (n : Nat) (p : List LogEntry) :
    ({ r with log := l, nextSeq := n, flashPending := p } : Rel).unlogged = r.unlogged := rfl

/-- t is s but for what a log entry writes. -/
structure LogOnly (s t : State) : Prop where
  rel : RelOnly s t
  unlogged : t.rel.unlogged = s.rel.unlogged

theorem LogOnly.trans {s t u : State} (h : LogOnly s t) (k : LogOnly t u) : LogOnly s u := ⟨h.rel.trans k.rel, k.unlogged.trans h.unlogged⟩
theorem LogOnly.updRel (s : State) {f : Rel → Rel} (h : ∀ r, (f r).unlogged = r.unlogged) : LogOnly s (updRel s f) := ⟨.updRel s f, h _⟩

theorem log_logOnly (s : State) (cls unitKind unitIndex detail part action : Nat) :
    LogOnly s (log s cls unitKind unitIndex detail part action) := by
  unfold log
  dsimp only
  generalize hu : updRel s _ = u
  have hcounts : LogOnly s u := by
    rw [← hu]
    exact .updRel s fun _ => rfl
  split
  · exact hcounts.trans (.updRel u fun _ => rfl)
  · exact hcounts.trans (.updRel u fun r => unlogged_entry r _ _ _)

theorem correctedError_logOnly (s : State) (unitKind unit kind address part : Nat) :
    LogOnly s (correctedError s unitKind unit kind address part) := by
  have hlog := log_logOnly s 1 unitKind unit (address % 2 ^ 48 + kind * 2 ^ 48) part 1
  unfold correctedError
  dsimp only
  generalize log s 1 unitKind unit (address % 2 ^ 48 + kind * 2 ^ 48) part 1 = u at hlog ⊢
  split
  · exact hlog
  · split
    · refine .trans ?_ (log_logOnly ..)
      exact hlog.trans (.updRel u fun _ => rfl)
    · exact hlog.trans (.updRel u fun _ => rfl)

theorem queueRepair_relOnly (s : State) (stack channel bank row : Nat) : RelOnly s (queueRepair s stack channel bank row) := by
  unfold queueRepair
  split
  · exact .refl s
  · exact .trans (.updRel s _) (log_logOnly ..).rel

/-- The entry of a row that waits for repair. -/
def queuedRow (stack channel bank row : Nat) : Repair :=
  { stack := stack, channel := channel, bank := bank, row := row, state := .queued, replaced := false }

/-- A queued row: it waits for repair or has failed, and what the scrub has seen stays. -/
theorem queueRepair_spec (s : State) (stack channel bank row : Nat) :
    (queueRepair s stack channel bank row).rel.scrubbed = s.rel.scrubbed ∧
      ∃ e ∈ (queueRepair s stack channel bank row).rel.repairs, e.isRow stack channel bank row = true ∧ e.state ≠ .done := by
  unfold queueRepair
  split
  · next h =>
    obtain ⟨e, he, hrow⟩ := List.any_eq_true.1 h
    rw [Bool.and_eq_true, decide_eq_true_eq] at hrow
    exact ⟨rfl, e, he, hrow⟩
  · dsimp only
    generalize hu : updRel s _ = u
    have hlog := (log_logOnly u 7 4 stack 0 0xFF 5).unlogged
    generalize log u 7 4 stack 0 0xFF 5 = t at hlog ⊢
    have hscrubbed : t.rel.scrubbed = u.rel.scrubbed := (congrArg Rel.scrubbed hlog :)
    have hrepairs : t.rel.repairs = u.rel.repairs := (congrArg Rel.repairs hlog :)
    refine ⟨hscrubbed.trans (by rw [← hu, updRel_rel]), queuedRow stack channel bank row, ?_, decide_eq_true ⟨rfl, rfl, rfl, rfl⟩, ?_⟩
    · rw [hrepairs, ← hu, updRel_rel]
      exact List.mem_append_right _ (List.mem_singleton_self _)
    · exact fun h => RepairState.noConfusion h

theorem makeRepair_relOnly (s : State) (i : Nat) (r : RepairResult) : RelOnly s (makeRepair s i r) := by
  unfold makeRepair
  split
  · exact .refl s
  · exact .trans (.updRel s _) (log_logOnly ..).rel

theorem bistRepair_relOnly (s : State) (r : BistRow) : RelOnly s (bistRepair s r) := by
  unfold bistRepair
  dsimp only
  split
  · exact (queueRepair_relOnly ..).trans (makeRepair_relOnly ..)
  · exact queueRepair_relOnly ..

/-! ### The HBM scrub -/

section
variable {s : State} {stack channel bank row a : Nat}

/-- The scrub has not seen a row. -/
def unscrubbed (s : State) (key : Nat × Nat × Nat × Nat) : State := updRel s fun r => { r with scrubbed := r.scrubbed.filter (· ≠ key) }

theorem not_mem_unscrubbed (s : State) (key : Nat × Nat × Nat × Nat) : key ∉ (unscrubbed s key).rel.scrubbed := by
  intro h
  have h := (List.mem_filter.1 h).2
  simp at h

theorem hbmScrub_first (h : (stack, channel, bank, row) ∉ s.rel.scrubbed) : ∃ t, exec (.hbmScrub stack channel bank row a .corrected) s = .next t ∧
    (stack, channel, bank, row) ∈ t.rel.scrubbed ∧ t.rel.repairs = s.rel.repairs ∧ t.work = s.work := by
  have hlog := correctedError_logOnly s 4 stack 0 a 0xFF
  have hrun : exec (.hbmScrub stack channel bank row a .corrected) s = .next (updRel (correctedError s 4 stack 0 a 0xFF) fun r =>
      { r with scrubbed := r.scrubbed ++ [(stack, channel, bank, row)] }) := congrArg Host.Outcome.next (if_neg h)
  generalize correctedError s 4 stack 0 a 0xFF = u at hlog hrun
  have hrepairs : u.rel.repairs = s.rel.repairs := (congrArg Rel.repairs hlog.unlogged :)
  exact ⟨_, hrun, List.mem_append_right _ (List.mem_singleton_self _), hrepairs, hlog.rel.work⟩

theorem hbmScrub_second (h : (stack, channel, bank, row) ∈ s.rel.scrubbed) : ∃ t, exec (.hbmScrub stack channel bank row a .corrected) s = .next t ∧
    (stack, channel, bank, row) ∉ t.rel.scrubbed ∧ t.work = s.work ∧
      ∃ e ∈ t.rel.repairs, e.isRow stack channel bank row = true ∧ e.state ≠ .done := by
  have hlog := correctedError_logOnly s 4 stack 0 a 0xFF
  have hrun : exec (.hbmScrub stack channel bank row a .corrected) s =
      .next (queueRepair (unscrubbed (correctedError s 4 stack 0 a 0xFF) (stack, channel, bank, row)) stack channel bank row) :=
    congrArg Host.Outcome.next (if_pos h)
  generalize correctedError s 4 stack 0 a 0xFF = u at hlog hrun
  obtain ⟨hseen, hrow⟩ := queueRepair_spec (unscrubbed u (stack, channel, bank, row)) stack channel bank row
  exact ⟨_, hrun, fun hmem => not_mem_unscrubbed u _ (hseen ▸ hmem), ((queueRepair_relOnly ..).work.trans rfl).trans hlog.rel.work, hrow⟩

theorem hbmScrub_uncorrected : ∃ t, exec (.hbmScrub stack channel bank row a .uncorrected) s = .next t ∧
    (stack, channel, bank, row) ∉ t.rel.scrubbed ∧ t.work = s.work ∧
      ∃ e ∈ t.rel.repairs, e.isRow stack channel bank row = true ∧ e.state ≠ .done := by
  have hlog := log_logOnly s clsUncorrected 4 stack (a % 2 ^ 48) 0xFF 5
  have hrun : exec (.hbmScrub stack channel bank row a .uncorrected) s =
      .next (queueRepair (unscrubbed (log s clsUncorrected 4 stack (a % 2 ^ 48) 0xFF 5) (stack, channel, bank, row)) stack channel bank row) := rfl
  generalize log s clsUncorrected 4 stack (a % 2 ^ 48) 0xFF 5 = u at hlog hrun
  obtain ⟨hseen, hrow⟩ := queueRepair_spec (unscrubbed u (stack, channel, bank, row)) stack channel bank row
  exact ⟨_, hrun, fun hmem => not_mem_unscrubbed u _ (hseen ▸ hmem), ((queueRepair_relOnly ..).work.trans rfl).trans hlog.rel.work, hrow⟩

end

/-! ### The tellers -/

section
variable {s : State} {pair : Nat} {p : TellerPair}

theorem lockstepMismatch_restarts (h : s.rel.pairs[pair]? = some p) (hd : p.disabled = false) (hc : s.sys.clocks = true) :
    exec (.lockstepMismatch pair) s = .next (lockstepFails s pair) := by
  refine congrArg Host.Outcome.next ?_
  rw [h]
  exact if_neg (by simp [hd, hc])

theorem lockstepMismatch_nothing (h : s.rel.pairs[pair]? = some p) (hd : p.disabled = true ∨ s.sys.clocks = false) :
    exec (.lockstepMismatch pair) s = .next s := by
  refine congrArg Host.Outcome.next ?_
  rw [h]
  exact if_pos (hd.imp_right fun hc => by simp [hc])

end

theorem tellerScrub_finds {s : State} (h : s.sys.clocks = true) (l : List ScrubFind) : exec (.tellerScrub l) s = .next (l.foldl tellerFind s) :=
  congrArg Host.Outcome.next (if_pos h)

theorem tellerFind_badSlot (s : State) (a : Nat) : (tellerFind s (.till a true)).host.badSlots.contains (a / 64) = true := by
  change (if a / 64 ∈ _ then _ else _ : List Nat).contains (a / 64) = true
  rw [List.contains_iff_mem]
  split
  · assumption
  · exact List.mem_append_right _ (List.mem_singleton_self _)

theorem getTally_tellerFind (s : State) (i : Nat) : getTally (tellerFind s (.tally i false)) i = getTally s i := by
  have hwork := (correctedError_logOnly s 8 0 5 i 0xFF).rel.work
  unfold getTally
  exact congrArg (fun w : Work => Tbl.get Tally.zero w.tallies i) hwork

/-! ### Self-tests -/

section
variable {s : State}

theorem getTest_updTest_self (u : UnitId) (f : TestStatus → TestStatus) : getTest (updTest s u f) u = f (getTest s u) := by
  unfold getTest updTest
  rw [updRel_rel]
  split
  · exact Tbl.get_upd_self ..
  · exact Tbl.get_upd_self ..

theorem updTest_relOnly (u : UnitId) (f : TestStatus → TestStatus) : RelOnly s (updTest s u f) := .updRel ..

theorem selftestDue_marks {kind index : Nat} (hk : kind ≤ 3) (hi : index < kindCount kind) (hd : disabled s kind index = false) :
    ∃ t, exec (.selftestDue kind index) s = .next t ∧ (getTest t ⟨kind, index⟩).due = true ∧ t.work = s.work ∧ t.host = s.host := by
  refine ⟨_, congrArg Host.Outcome.next (if_neg ?_), by rw [getTest_updTest_self], (updTest_relOnly ..).work, (updTest_relOnly ..).host⟩
  rintro (h | h | h)
  · omega
  · omega
  · rw [hd] at h; cases h

theorem selftestDue_nothing {kind index : Nat} (h : 3 < kind ∨ kindCount kind ≤ index ∨ disabled s kind index = true) :
    exec (.selftestDue kind index) s = .next s := congrArg Host.Outcome.next (if_pos h)

theorem selftestDeferred_marks {kind index : Nat} (h : (getTest s ⟨kind, index⟩).due = true) (hd : disabled s kind index = false) :
    ∃ t, exec (.selftestDeferred kind index) s = .next t ∧ (getTest t ⟨kind, index⟩).deferred = true ∧ t.work = s.work :=
  ⟨_, congrArg Host.Outcome.next (if_pos ⟨h, by simp [hd]⟩), by rw [getTest_updTest_self], (updTest_relOnly ..).work⟩

theorem selftestDeferred_nothing {kind index : Nat} (h : (getTest s ⟨kind, index⟩).due = false ∨ disabled s kind index = true) :
    exec (.selftestDeferred kind index) s = .next s :=
  congrArg Host.Outcome.next (if_neg fun hc => h.elim (fun h => by rw [h] at hc; cases hc.1) fun h => hc.2 h)

/-- A unit's test is wanted: it is due or named in service, or to be re-enabled out of it (R507, R509). -/
def testWanted (s : State) (u : UnitId) : Bool := if disabled s u.kind u.index then reenabling s u else (getTest s u).due || named s u

theorem testWanted_of_due {u : UnitId} (hd : disabled s u.kind u.index = false) (h : (getTest s u).due = true) : testWanted s u = true := by
  rw [testWanted, hd, h]
  rfl

/-! #### Engines -/

theorem engineTest_ends {kind index : Nat} (passed : Bool) (h0 : kind ≠ 0) (hk : kind ≤ 3) (hi : index < kindCount kind)
    (hw : testWanted s ⟨kind, index⟩ = true) (hc : s.sys.clocks = true) : exec (.engineTest kind index passed) s =
      .next (if passed ∧ kind = 1 ∧ index < 16 ∧ ¬ disabled (testEnds (beginTest s ⟨kind, index⟩) ⟨kind, index⟩ passed) 3 index
        then passTest (testEnds (beginTest s ⟨kind, index⟩) ⟨kind, index⟩ passed) ⟨3, index⟩
        else testEnds (beginTest s ⟨kind, index⟩) ⟨kind, index⟩ passed) := by
  refine congrArg Host.Outcome.next (if_neg ?_)
  rintro (h | h | h | h | h)
  · exact h0 h
  · omega
  · omega
  · exact h hw
  · exact h hc

theorem engineTest_nothing {kind index : Nat} (passed : Bool)
    (h : kind = 0 ∨ 3 < kind ∨ kindCount kind ≤ index ∨ testWanted s ⟨kind, index⟩ = false ∨ s.sys.clocks = false) :
    exec (.engineTest kind index passed) s = .next s := by
  refine congrArg Host.Outcome.next (if_pos ?_)
  obtain h | h | h | h | h := h
  · exact .inl h
  · exact .inr (.inl h)
  · exact .inr (.inr (.inl h))
  · exact .inr (.inr (.inr (.inl fun hw => by rw [testWanted] at h; rw [h] at hw; cases hw)))
  · exact .inr (.inr (.inr (.inr fun hc => by rw [h] at hc; cases hc)))

/-- An engine that is no LDPC decoder ends its own test alone. -/
theorem engineTest_other {kind index : Nat} (passed : Bool) (h0 : kind ≠ 0) (h1 : kind ≠ 1) (hk : kind ≤ 3) (hi : index < kindCount kind)
    (hw : testWanted s ⟨kind, index⟩ = true) (hc : s.sys.clocks = true) : exec (.engineTest kind index passed) s =
      .next (testEnds (beginTest s ⟨kind, index⟩) ⟨kind, index⟩ passed) :=
  (engineTest_ends passed h0 hk hi hw hc).trans (congrArg Host.Outcome.next (if_neg fun h => h1 h.2.1))

/-! #### Slices of a core -/

variable {core : Nat}

/-- A core whose slice has run: its segments are rinsed and its engine state is gone. -/
def sliceRun (s : State) (core : Nat) : State :=
  updCore { beginTest s ⟨0, core⟩ with engines := Tbl.del (beginTest s ⟨0, core⟩).engines core } core
    fun k => { k with scratch := [], tables := none }

theorem selftestSlice_nothing (passed : Bool) (h : 72 ≤ core ∨ testWanted s ⟨0, core⟩ = false ∨ s.sys.clocks = false) :
    exec (.selftestSlice core passed) s = .next s := by
  refine congrArg Host.Outcome.next (if_pos ?_)
  obtain h | h | h := h
  · exact .inl h
  · exact .inr (.inl fun hw => by rw [testWanted] at h; rw [h] at hw; cases hw)
  · exact .inr (.inr fun hc => by rw [h] at hc; cases hc)

/-- What a wanted slice does, by whether the core is admitted, idle, and passes. -/
def sliceOf (s : State) (core : Nat) (passed : Bool) : State :=
  if ¬ admissible s core then settleTests (updTest s ⟨0, core⟩ fun t => { t with running := false })
  else if (getCore s core).run.isSome then requestYield (updTest s ⟨0, core⟩ fun t => { t with running := true }) core
  else if ¬ passed then testEnds (sliceRun s core) ⟨0, core⟩ false
  else if (getTest (sliceRun s core) ⟨0, core⟩).slice = 149 then testEnds (sliceRun s core) ⟨0, core⟩ true
  else settleTests (updTest (sliceRun s core) ⟨0, core⟩ fun t => { t with slice := t.slice + 1, running := true })

theorem getTest_sliceRun : getTest (sliceRun s core) ⟨0, core⟩ = getTest s ⟨0, core⟩ := rfl

theorem selftestSlice_wanted (hcore : core < 72) (hw : testWanted s ⟨0, core⟩ = true) (hc : s.sys.clocks = true) (passed : Bool) :
    exec (.selftestSlice core passed) s = .next (sliceOf s core passed) := by
  refine congrArg Host.Outcome.next (if_neg ?_)
  rintro (h | h | h)
  · omega
  · exact h hw
  · exact h hc

theorem sliceOf_refused (h : admissible s core = false) (passed : Bool) :
    sliceOf s core passed = settleTests (updTest s ⟨0, core⟩ fun t => { t with running := false }) := if_pos (by simp [h])

theorem sliceOf_yield (h : admissible s core = true) (hr : (getCore s core).run.isSome = true) (passed : Bool) :
    sliceOf s core passed = requestYield (updTest s ⟨0, core⟩ fun t => { t with running := true }) core :=
  (if_neg (by simp [h])).trans (if_pos hr)

section
variable (h : admissible s core = true) (hr : (getCore s core).run = none)
include h hr

theorem sliceOf_runs (passed : Bool) : sliceOf s core passed =
    if ¬ passed then testEnds (sliceRun s core) ⟨0, core⟩ false
    else if (getTest (sliceRun s core) ⟨0, core⟩).slice = 149 then testEnds (sliceRun s core) ⟨0, core⟩ true
    else settleTests (updTest (sliceRun s core) ⟨0, core⟩ fun t => { t with slice := t.slice + 1, running := true }) :=
  (if_neg (by simp [h])).trans (if_neg (by simp [hr]))

theorem sliceOf_fails : sliceOf s core false = testEnds (sliceRun s core) ⟨0, core⟩ false :=
  (sliceOf_runs h hr false).trans (if_pos (by decide))

theorem sliceOf_last (hl : (getTest s ⟨0, core⟩).slice = 149) : sliceOf s core true = testEnds (sliceRun s core) ⟨0, core⟩ true :=
  (sliceOf_runs h hr true).trans ((if_neg (by decide)).trans (if_pos (by rw [getTest_sliceRun]; exact hl)))

theorem sliceOf_next (hl : (getTest s ⟨0, core⟩).slice ≠ 149) : sliceOf s core true =
    settleTests (updTest (sliceRun s core) ⟨0, core⟩ fun t => { t with slice := t.slice + 1, running := true }) :=
  (sliceOf_runs h hr true).trans ((if_neg (by decide)).trans (if_neg (by rw [getTest_sliceRun]; exact hl)))

end

end

/-! ### What is written to flash -/

section
variable {s : State}

theorem errorLogFlashWrite_nothing (h : s.rel.flashPending = []) (ok : Bool) : exec (.errorLogFlashWrite ok) s = .next s :=
  congrArg Host.Outcome.next (if_pos h)

theorem errorLogFlashWrite_fails (h : s.rel.flashPending ≠ []) : exec (.errorLogFlashWrite false) s =
    .next (updRel s fun r => { r with flashFail := true }) :=
  congrArg Host.Outcome.next ((if_neg h).trans (if_neg (by decide)))

/-- The persistent ring of 256 once the entries that wait have entered. -/
def flashRing (r : Rel) : List LogEntry := (r.flashLog ++ r.flashPending).drop ((r.flashLog ++ r.flashPending).length - 256)

theorem flashRing_length (r : Rel) : (flashRing r).length ≤ 256 := by
  rw [flashRing, List.length_drop]
  omega

theorem mem_flashRing {r : Rel} {e : LogEntry} (h : e ∈ flashRing r) : e ∈ r.flashLog ∨ e ∈ r.flashPending :=
  List.mem_append.1 (List.mem_of_mem_drop h)

/-- The reliability unit once the entries that wait have been written. -/
def flashWritten (s : State) : State := updRel s fun r => { r with flashLog := flashRing r, flashPending := [], flashFail := false }

theorem flashWritten_flashLog : (flashWritten s).rel.flashLog = flashRing s.rel := by rw [flashWritten, updRel_rel]

theorem errorLogFlashWrite_writes (h : s.rel.flashPending ≠ []) : ∃ t, exec (.errorLogFlashWrite true) s = .next t ∧ t.rel.flashPending = [] ∧
    t.rel.flashFail = false ∧ t.rel.flashLog.length ≤ 256 ∧
    (∀ e ∈ t.rel.flashLog, e ∈ s.rel.flashLog ∨ e ∈ s.rel.flashPending) ∧ t.work = s.work := by
  refine ⟨flashWritten s, congrArg Host.Outcome.next ((if_neg h).trans (if_pos rfl)), rfl, rfl, ?_, ?_, updRel_work ..⟩
  · rw [flashWritten_flashLog]
    exact flashRing_length _
  · rw [flashWritten_flashLog]
    exact fun _ => mem_flashRing

theorem mendMapWrite_nothing (h : s.rel.mapPending = []) : exec .mendMapWrite s = .next s := congrArg Host.Outcome.next (if_pos h)

/-- What waits, after the entries of the newer copy, is written to the older one, which is the newer from now on. -/
def mapWritten (s : State) : State := updRel s fun r =>
  let c : MapCopy := { seq := Nat.max r.mapA.seq r.mapB.seq + 1, entries := fieldMap s ++ r.mapPending }
  if r.mapA.seq < r.mapB.seq then { r with mapA := c, mapPending := [] } else { r with mapB := c, mapPending := [] }

theorem mapWritten_spec (s : State) : fieldMap (mapWritten s) = fieldMap s ++ s.rel.mapPending ∧ (mapWritten s).rel.mapPending = [] := by
  have ha : s.rel.mapA.seq ≤ Nat.max s.rel.mapA.seq s.rel.mapB.seq := Nat.le_max_left ..
  have hb : s.rel.mapB.seq ≤ Nat.max s.rel.mapA.seq s.rel.mapB.seq := Nat.le_max_right ..
  unfold fieldMap mapWritten
  rw [updRel_rel]
  dsimp only
  by_cases h : s.rel.mapA.seq < s.rel.mapB.seq
  · rw [if_pos h]
    exact ⟨if_neg (Nat.not_lt.2 (Nat.le_succ_of_le hb)), rfl⟩
  · rw [if_neg h]
    exact ⟨if_pos (Nat.lt_succ_of_le ha), rfl⟩

theorem mendMapWrite_writes (h : s.rel.mapPending ≠ []) : ∃ t, exec .mendMapWrite s = .next t ∧ fieldMap t = fieldMap s ++ s.rel.mapPending ∧
    t.rel.mapPending = [] ∧ t.work = s.work ∧ t.host = s.host := by
  obtain ⟨hmap, hpending⟩ := mapWritten_spec s
  exact ⟨mapWritten s, congrArg Host.Outcome.next (if_neg h), hmap, hpending, rfl, rfl⟩

end

/-! ### The full memory test -/

/-- A core after the full memory test. -/
def CoreCtl.tested (k : CoreCtl) : CoreCtl := { k with scratch := [], power := List.replicate 12 .off, tables := none }

/-- HBM and scratchpads are zero, and no full memory test runs. -/
def bistDone (s : State) : State :=
  updRel { updWork s fun w => { w with hbm := [], cores := w.cores.map fun e => (e.1, e.2.tested) } with engines := [] }
    fun r => { r with tests := r.tests.filter fun t => t.scope ≠ 2 }

theorem memoryBistComplete_runs {s : State} (h : bistRuns s = true) (rows : List BistRow) : exec (.memoryBistComplete rows) s =
    .next ((s.rel.tests.filter fun t => t.scope = 2).foldl (fun s t => finish s t.ticket (Done.of eOk)) (bistDone (rows.foldl bistRepair s))) :=
  congrArg Host.Outcome.next (if_neg (by simp [h]))

theorem memoryBistComplete_nothing {s : State} (h : bistRuns s = false) (rows : List BistRow) : exec (.memoryBistComplete rows) s = .next s :=
  congrArg Host.Outcome.next (if_pos (by simp [h]))

theorem bistRuns_bistDone (s : State) : bistRuns (bistDone s) = false := by
  rw [bistRuns, List.any_eq_false]
  intro t ht
  have ht : t ∈ s.rel.tests.filter fun t => t.scope ≠ 2 := ht
  simpa using (List.mem_filter.1 ht).2

theorem memoryBistComplete_spec {s : State} (h : bistRuns s = true) (rows : List BistRow) : ∃ t, exec (.memoryBistComplete rows) s = .next t ∧
    t.work.hbm = [] ∧ t.engines = [] ∧ bistRuns t = false ∧ t.work.tallies = s.work.tallies ∧
    ∀ e ∈ t.work.cores, e.2.scratch = [] ∧ e.2.power = List.replicate 12 .off := by
  have hrows := RelOnly.foldl (fun s r => bistRepair_relOnly s r) rows s
  have hrun := memoryBistComplete_runs h rows
  generalize rows.foldl bistRepair s = u at hrows hrun
  have hfin := Forgets.foldl (fun s (t : TestJob) => finish_forgets s t.ticket (Done.of eOk)) (s.rel.tests.filter fun t => t.scope = 2)
    (bistDone u)
  have hsent := Sends.foldl (fun s (t : TestJob) => finish_sends s t.ticket (Done.of eOk)) (s.rel.tests.filter fun t => t.scope = 2) (bistDone u)
  refine ⟨_, hrun, by rw [hfin.work]; rfl, hsent.engines, ?_, by rw [hfin.work, ← hrows.work]; rfl, ?_⟩
  · rw [bistRuns, hfin.rel]
    exact bistRuns_bistDone u
  · rw [hfin.work]
    intro e he
    obtain ⟨k, -, rfl⟩ := List.mem_map.1 (show e ∈ u.work.cores.map fun e => (e.1, e.2.tested) from he)
    exact ⟨rfl, rfl⟩

/-- Settles O47: scrubs by what a log entry leaves of the repairs, tests by what a wanted test is, flash by the copy that is written. -/
theorem reliabilityTestsScrubsAndMends : Obligations.ReliabilityTestsScrubsAndMends := by
  unfold Obligations.ReliabilityTestsScrubsAndMends
  intro s
  refine ⟨fun _ _ => lockstepMismatch_restarts, rfl, fun _ _ _ _ _ => ⟨rfl, hbmScrub_first, hbmScrub_second, hbmScrub_uncorrected⟩,
    fun hc => ⟨tellerScrub_finds hc [], fun f l => tellerScrub_finds hc (f :: l), tellerFind_badSlot s, getTally_tellerFind s⟩,
    fun kind index hk hi hd => ⟨selftestDue_marks hk hi hd, fun h => selftestDeferred_marks h hd,
      fun h0 h1 h hc passed => engineTest_other passed h0 h1 hk hi (testWanted_of_due hd h) hc⟩,
    fun _ _ passed => ⟨engineTest_ends passed, engineTest_nothing passed⟩,
    fun core passed => ⟨selftestSlice_nothing passed, fun hcore hw hc h => ?_⟩,
    fun core hcore hd h hc ha => ⟨fun hr passed => ?_, fun hr => ⟨?_, fun hl => ?_, fun hl => ?_⟩⟩,
    fun h => ⟨errorLogFlashWrite_writes h, errorLogFlashWrite_fails h⟩, mendMapWrite_writes, fun rows h => memoryBistComplete_spec h rows,
    memoryBistComplete_nothing, errorLogFlashWrite_nothing, mendMapWrite_nothing, fun _ _ => lockstepMismatch_nothing,
    fun h finds => congrArg Host.Outcome.next (if_neg (by simp [h])), fun _ _ => selftestDue_nothing, fun _ _ => selftestDeferred_nothing⟩
  · rw [selftestSlice_wanted hcore hw hc, sliceOf_refused h]
  all_goals rw [selftestSlice_wanted hcore (testWanted_of_due hd h) hc]
  · rw [sliceOf_yield ha hr]
  · rw [sliceOf_fails ha hr]; rfl
  · rw [sliceOf_last ha hr hl]; rfl
  · rw [sliceOf_next ha hr hl]; rfl

end Sys2Proof.Machine
end
